-- ==== Sys2Proof/Word.lean ====
section
/-! DEFINITION. The word types of the KN-VZ4 module and their plainest arithmetic: bytes, 64-bit registers,
the 64-bit instruction word of R73, and reading a bit field out of one. -/

namespace Sys2Proof

/-- One byte (R9: every multi-byte value is stored low byte first). -/
abbrev Byte := BitVec 8

/-- A 64-bit register or scalar register. -/
abbrev Word := BitVec 64

/-- A 512-bit operand: one 64 B Palette row, or one engine descriptor (R92, R100). -/
abbrev Row := BitVec 512

/-- Bits `[lo + w - 1 : lo]` of a register, as a number. -/
def Word.field (x : Word) (lo w : Nat) : Nat := (x.extractLsb' lo w).toNat

/-- Bits `[lo + w - 1 : lo]` of a row or descriptor, as a number. -/
def Row.field (x : Row) (lo w : Nat) : Nat := (x.extractLsb' lo w).toNat

/-- The value `v` placed at bits `[lo + w - 1 : lo]` of `x`, the other bits kept. -/
def Word.setField (x : Word) (lo w v : Nat) : Word :=
  let m : Word := ((BitVec.allOnes w).setWidth 64) <<< lo
  (x &&& ~~~ m) ||| ((BitVec.ofNat 64 v <<< lo) &&& m)

/-- A number of `w` bits read as a two's-complement integer. -/
def signedOf (w : Nat) (v : Nat) : Int := (BitVec.ofNat w v).toInt

/-- The low `w` bits of a number, sign-extended to 64 bits. -/
def sext64 (w : Nat) (v : Nat) : Word := (BitVec.ofNat w v).signExtend 64

end Sys2Proof
end

