-- ==== Sys2Proof/Syntax.lean ====
section
/-! DEFINITION. The commands of the module, one constructor per row of spec/opcode_table.json, and their operands. A
command gives its time where its effect needs one: `at_` is the fabric clock count (R6, R258), `c` and `cyc` a tile
cycle of the dies. -/

namespace Sys2Proof

/-- A global tile ID (R5) whose row exists: die, row, logical column. -/
structure TileId where
  die : Fin 4
  row : Fin 48
  col : Fin 32
  deriving DecidableEq, Repr

def TileId.gid (t : TileId) : Nat := 2048 * t.die + 32 * t.row + t.col

/-- A physical tile (R4): die, row, physical column. -/
structure PhysTile where
  die : Fin 4
  row : Fin 48
  col : Fin 34
  deriving DecidableEq, Repr

def PhysTile.idx (p : PhysTile) : Nat := (48 * p.die + p.row) * 34 + p.col

/-- A tile instruction as a command carries it: the instruction word of R73 without the class and op fields, which the
command's name gives. -/
structure IW where
  pn : Bool
  pg : Fin 8
  body : BitVec 49
  deriving DecidableEq, Repr

/-- A fault that the array, the lane or the residue check of the Muller suffers in one step (R181, R182): a product of
element (row, col) wrong by `d * 2^e`, a lane sum of a row or a column wrong, or a failed residue check. -/
inductive MulFault where
  | product (row col : Fin 32) (d : Int) (e : Int)
  | laneRow (row : Fin 32)
  | laneCol (col : Fin 32)
  | residue (row col : Fin 32)
  deriving DecidableEq, Repr

/-- The tile cycle of each compute die at one fabric clock count. -/
structure DieCycles where
  c0 : Nat
  c1 : Nat
  c2 : Nat
  c3 : Nat
  deriving DecidableEq, Repr

def DieCycles.of (x : DieCycles) (d : Nat) : Nat :=
  if d = 0 then x.c0 else if d = 1 then x.c1 else if d = 2 then x.c2 else x.c3

/-- The bytes of an access through BAR2 or BAR4. -/
inductive HostAccess where
  | read (n : Nat)
  | write (l : List Byte)
  deriving DecidableEq, Repr

def HostAccess.size : HostAccess → Nat
  | .read n => n
  | .write l => l.length

/-- The data of a write as a number, low byte first. -/
def HostAccess.data : HostAccess → Option Nat
  | .read _ => none
  | .write l => some (l.foldr (fun b v => b.toNat + 256 * v) 0)

/-- What the codewords of a received flit came to (R264): all clean, some corrected, one uncorrectable. -/
inductive Codewords where
  | clean | corrected | uncorrectable
  deriving DecidableEq, Repr

def Codewords.code : Codewords → Nat
  | .clean => 0
  | .corrected => 1
  | .uncorrectable => 2

/-- A register of ERRC's doorbell ring (R410). -/
inductive RingReg where
  | dbaddr | dbcfg
  deriving DecidableEq, Repr

/-- An even counter of a performance set (R463): 2j of a compute die's, a fabric die's or a tile's set. -/
inductive CounterSet where
  | die (d : Fin 4) (j : Fin 32)
  | fabric (f : Fin 2) (j : Fin 32)
  | tile (t : TileId) (j : Fin 4)
  deriving DecidableEq, Repr

/-- Where a host write goes: BAR0 of the function, or the PF's MSI-X table (notes/assumptions/22). -/
inductive Window where
  | bar0 | msixTable
  deriving DecidableEq, Repr

/-- How a management command reaches Easel (R486, R487): the host mailbox, whose registers hold it, or the management
bus, which carries a tag, a payload and a CRC. -/
inductive EasReq where
  | mailbox
  | bus (tag : Byte) (payload : List Byte) (crc : Byte)
  deriving DecidableEq, Repr

/-- A memory that is patrolled (R109, R306): a tile's Palette, bank by bank, or a fabric die's blend store. -/
inductive PatrolUnit where
  | palette (p : PhysTile)
  | store (f : Fin 2)
  deriving DecidableEq, Repr

/-- A host write of a word, and the tile cycle in which it takes effect. -/
structure TimedWrite where
  v : Word
  cyc : Nat
  deriving DecidableEq, Repr

/-- A write of a die's map of logical stacks (R249): whether Easel firmware made it, and the value. -/
structure SemapWrite where
  fw : Bool
  v : BitVec 18
  deriving DecidableEq, Repr

/-- What takes a port out of UP (R287): the fc, and the lanes that have lost signal. -/
structure LinkLoss where
  at_ : Nat
  dark : BitVec 8
  deriving DecidableEq, Repr

/-- A moment that both clocks name: the fc and the tile cycle. -/
structure Moment where
  fc : Nat
  tc : Nat
  deriving DecidableEq, Repr

/-- The instructions of the test access port (R491). -/
inductive TapInstr where
  | bypass | idcode | sample | extest | knakor
  deriving DecidableEq, Repr

/-- A rail group, 1 to 7 (R505, R506). -/
structure RailGroup where
  less1 : Fin 7
  deriving DecidableEq, Repr

def RailGroup.number (g : RailGroup) : Nat := g.less1 + 1

/-- The readings of one temperature sample, in degrees Celsius (R512): a compute die's 16 sensors and 6 stacks, or a
fabric die's 4 sensors. -/
inductive ThermalSite where
  | compute (d : Fin 4) (die : Vector Nat 16) (stks : Vector Nat 6)
  | fabric (f : Fin 2) (l : Vector Nat 4)
  deriving DecidableEq, Repr

/-- The 100 samples of a millisecond's input power (R514), each a voltage in 10 mV and a current in 10 mA. -/
abbrev Samples := Vector (Nat × Nat) 100

/-- A strap's three samples (R54, R493). -/
structure StrapSamples where
  a : Fin 4
  b : Fin 4
  c : Fin 4
  deriving DecidableEq, Repr

def StrapSamples.list (x : StrapSamples) : List Nat := [x.a, x.b, x.c]

/-- The failed bundles of each of the five bridges (R520). -/
abbrev Bundles := Vector Nat 5

/-- A command (spec/opcode_table.json, one constructor a row). -/
inductive Instr where
  | bar (t : TileId) (w : IW)
  | barrierRelease (d : Fin 4) (c : Fin 64)
  | tickwait (t : TileId) (w : IW)
  | moduleReady (at_ : Nat)
  | tick (at_ : Nat) (cyc : DieCycles)
  | holdDeadline (at_ : Nat)
  | hold (at_ : Nat)
  | release (at_ : Nat)
  | scheduledTime (at_ : Nat)
  | holdLimitExpiry (at_ : Nat)
  | overrun (at_ : Nat)
  | recover (at_ : Nat)
  | heartbeatTimer
  | heartbeat (at_ : Nat)
  | masterLoss (at_ : Nat)
  | takeover (at_ : Nat)
  | claimMaster
  | claimStandby (at_ : Nat)
  | claimWindowEnd (at_ : Nat)
  | ping
  | echo (at_ : Nat)
  | pingNow (at_ : Nat)
  | run (v : Bool) (at_ : Nat)
  | tickNextWrite (v : Word)
  | tickPeriodWrite (v : BitVec 24)
  | tickHoldLimitWrite (v : BitVec 24)
  | roleCfgWrite (v : BitVec 2) (at_ : Nat)
  | tickCtxBindWrite (v : Word)
  | nop (t : TileId) (w : BitVec 64)
  | endTile (t : TileId) (w : IW)
  | add (t : TileId) (w : IW)
  | sub (t : TileId) (w : IW)
  | and (t : TileId) (w : IW)
  | or (t : TileId) (w : IW)
  | xor (t : TileId) (w : IW)
  | shl (t : TileId) (w : IW)
  | shr (t : TileId) (w : IW)
  | sar (t : TileId) (w : IW)
  | min (t : TileId) (w : IW)
  | max (t : TileId) (w : IW)
  | minu (t : TileId) (w : IW)
  | maxu (t : TileId) (w : IW)
  | addi (t : TileId) (w : IW)
  | subi (t : TileId) (w : IW)
  | andi (t : TileId) (w : IW)
  | ori (t : TileId) (w : IW)
  | xori (t : TileId) (w : IW)
  | shli (t : TileId) (w : IW)
  | shri (t : TileId) (w : IW)
  | sari (t : TileId) (w : IW)
  | mini (t : TileId) (w : IW)
  | maxi (t : TileId) (w : IW)
  | minui (t : TileId) (w : IW)
  | maxui (t : TileId) (w : IW)
  | movi (t : TileId) (w : IW)
  | movhi (t : TileId) (w : IW)
  | cmpEq (t : TileId) (w : IW)
  | cmpNe (t : TileId) (w : IW)
  | cmpLt (t : TileId) (w : IW)
  | cmpGe (t : TileId) (w : IW)
  | cmpLtu (t : TileId) (w : IW)
  | cmpGeu (t : TileId) (w : IW)
  | pand (t : TileId) (w : IW)
  | por (t : TileId) (w : IW)
  | pxor (t : TileId) (w : IW)
  | pandn (t : TileId) (w : IW)
  | br (t : TileId) (w : IW)
  | call (t : TileId) (w : IW)
  | jr (t : TileId) (w : IW)
  | callr (t : TileId) (w : IW)
  | loop (t : TileId) (w : IW)
  | loopr (t : TileId) (w : IW)
  | ldB (t : TileId) (w : IW)
  | ldH (t : TileId) (w : IW)
  | ldW (t : TileId) (w : IW)
  | ldD (t : TileId) (w : IW)
  | ldBu (t : TileId) (w : IW)
  | ldHu (t : TileId) (w : IW)
  | ldWu (t : TileId) (w : IW)
  | stB (t : TileId) (w : IW)
  | stH (t : TileId) (w : IW)
  | stW (t : TileId) (w : IW)
  | stD (t : TileId) (w : IW)
  | mul (t : TileId) (w : IW)
  | mulh (t : TileId) (w : IW)
  | mulhu (t : TileId) (w : IW)
  | div (t : TileId) (w : IW)
  | divu (t : TileId) (w : IW)
  | rem (t : TileId) (w : IW)
  | remu (t : TileId) (w : IW)
  | scalarResultAvailable (t : TileId)
  | rnd (t : TileId) (w : IW)
  | waitAll (t : TileId) (w : IW)
  | waitAny (t : TileId) (w : IW)
  | rowIssuable (t : TileId)
  | mmac (t : TileId) (w : IW)
  | mclr (t : TileId) (w : IW)
  | mstore (t : TileId) (w : IW)
  | mullerOperationStart (t : TileId) (c : Nat)
  | stepCommit (t : TileId) (es : List MulFault)
  | blockComplete (t : TileId)
  | mstorePiece (t : TileId)
  | grun (t : TileId) (w : IW)
  | grunStart (t : TileId) (c : Nat)
  | glazeBeat (t : TileId)
  | watchDelivery
  | xsend (t : TileId) (w : IW)
  | xsendr (t : TileId) (w : IW)
  | delivery (t : TileId)
  | dieTmapNextWrite (d : Fin 4) (r : Fin 48) (w : TimedWrite)
  | sload (t : TileId) (w : IW)
  | sstore (t : TileId) (w : IW)
  | transferStart (t : TileId) (c : Nat)
  | transferComplete (t : TileId) (k c l : Nat) (lat : List Nat)
  | hbmSeCtlEnable (d : Fin 4) (k : Fin 6) (v : Bool)
  | engineDrainComplete (d : Fin 4) (k : Fin 6)
  | stackLoss (d : Fin 4) (p : Fin 6) (cyc : Nat)
  | hbmSemapWrite (d : Fin 4) (w : SemapWrite)
  | regionAllocate (d : Fin 4) (c k : Fin 64) (v : Word)
  | regionRelease (d : Fin 4) (c k : Fin 64)
  | granuleClean (d : Fin 4) (p : Fin 6) (slots : Nat)
  | bar2Access (vf : Option (Fin 64)) (size a : Nat) (acc : HostAccess)
  | correctedWriteBack (p : PhysTile) (c : Nat) (bank : Fin 16)
  | patrolRead (u : PatrolUnit) (c : Nat) (bank : Fin 16)
  | palCtrlPatrolWrite (t : TileId) (c : Nat) (v : Bool)
  | palPartWrite (t : TileId) (c : Nat) (k : Fin 16) (v : Word)
  | palRxcfgWrite (t : TileId) (k : Fin 4) (v : Word)
  | palRxrelWrite (t : TileId) (k : Fin 4) (n : BitVec 7)
  | gessoComplete (p : PhysTile)
  | fput (t : TileId) (w : IW)
  | fsend (t : TileId) (w : IW)
  | fabricOperationStart (t : TileId) (at_ c : Nat)
  | bucketBlockPass (i : Fin 16384) (at_ c : Nat)
  | flitReceive (f : Fin 2) (p : Fin 24) (num : BitVec 24) (cw : Codewords) (hdr : BitVec 128) (data : BitVec 1024)
  | outputSlot (f : Fin 2) (p : Fin 24) (at_ : Nat)
  | write (at_ c : Nat)
  | credit (at_ c : Nat)
  | ack (at_ c : Nat)
  | nack (at_ c : Nat)
  | ackTimer (i : Fin 16384) (at_ : Nat)
  | flowTimeout (i : Fin 16384) (at_ c : Nat)
  | flowEnable (i : Fin 16384) (v : Word)
  | flowDrain (i : Fin 16384) (v : Word) (at_ c : Nat)
  | flowDrainComplete (i : Fin 16384) (at_ c : Nat)
  | lcfNormal (f : Fin 2) (p : Fin 16) (x : BitVec 1152)
  | replayRequest (f : Fin 2) (p : Fin 16) (at_ : Nat) (x : BitVec 1152)
  | ident (f : Fin 2) (p : Fin 16) (at_ : Nat) (x : BitVec 1152)
  | creditInit (f : Fin 2) (p : Fin 16) (at_ : Nat) (x : BitVec 1152)
  | fabPortEnable (f : Fin 2) (p : Fin 16) (at_ : Nat)
  | fabPortDisable (f : Fin 2) (p : Fin 16) (at_ : Nat)
  | trainingPatternDetected (f : Fin 2) (p : Fin 16) (at_ : Nat)
  | equalizeComplete (f : Fin 2) (p : Fin 16) (at_ : Nat)
  | lockFound (f : Fin 2) (p : Fin 16) (at_ : Nat)
  | trainingTimeout (f : Fin 2) (p : Fin 16) (at_ : Nat)
  | retrain (f : Fin 2) (p : Fin 16) (x : LinkLoss)
  | retrainAttemptEnd (f : Fin 2) (p : Fin 16) (at_ : Nat) (ok : Bool)
  | portDrainComplete (f : Fin 2) (p : Fin 16) (at_ : Nat)
  | darkTimerExpiry (f : Fin 2) (p : Fin 16) (at_ : Nat)
  | laserInputDark (f k : Fin 2) (pwr : BitVec 16) (at_ : Nat)
  | bundleGroupFailure (b : Fin 5)
  | blendPart (at_ : Nat)
  | blendEnd (at_ : Nat)
  | advance (m : Moment)
  | partialEmit (i : Fin 16384) (at_ : Nat)
  | rootBlockComplete (i : Fin 16384) (at_ c : Nat)
  | blendResult (at_ c : Nat)
  | roundComplete (i : Fin 16384) (at_ c : Nat)
  | bldAccRead (f : Fin 2)
  | bldAccWrite (f : Fin 2)
  | sig (t : TileId) (w : IW)
  | waitge (t : TileId) (w : IW)
  | sigArrival (t : TileId)
  | waitgeArrival (t : TileId)
  | bind (d : Fin 4) (i : Fin 4096) (w : TimedWrite)
  | unbind (d : Fin 4) (i : Fin 4096) (v : Word) (c : Nat)
  | counterStoreError (d : Fin 4) (i : Fin 4096) (c : Nat)
  | rebase (at_ c : Nat)
  | hostWaitArm (vf : Bool) (c w : Fin 64) (v : Word)
  | hostWaitTargetWrite (vf : Bool) (c w : Fin 64) (v : BitVec 48)
  | dbSig (vf : Bool) (c : Fin 64) (wide : Bool) (v : Word)
  | doorbellArrival (c : Fin 64) (cyc : Nat)
  | mbsEnable (c : Fin 64) (v : Word)
  | mbsDisable (c : Fin 64) (v : Word)
  | openStep (c : Fin 64)
  | mbsReset (c : Fin 64)
  | unitRelease (c : Fin 64) (at_ cyc : Nat)
  | stepClose (c : Fin 64) (at_ : Nat)
  | watchClose (c : Fin 64)
  | wchCtxWrite (c : Fin 64) (v : Word)
  | wchAccRead
  | wchAccWrite
  | exportStart (x : Fin 4) (v : Word) (at_ cyc : Nat)
  | exportAbort (x : Fin 4)
  | exportDone (x : Fin 4)
  | localCopyComplete (c : Fin 64) (at_ cyc : Nat)
  | snapBegin
  | snapEnd
  | snapAck (at_ cyc : Nat)
  | log
  | logack
  | mirrorLagTimer (at_ : Nat)
  | ctrlHeartbeatTimer (at_ : Nat)
  | ctrlHeartbeat (at_ : Nat)
  | heartbeatMiss (n : BitVec 14) (at_ : Nat)
  | fail (at_ : Nat)
  | linkdown (at_ : Nat)
  | event (at_ : Nat)
  | snapinfo (at_ : Nat)
  | plan (at_ cyc : Nat)
  | rewire
  | rewired (at_ : Nat)
  | fill (at_ cyc : Nat)
  | fillCommit
  | filled (at_ : Nat)
  | abandon (at_ : Nat)
  | restored (at_ : Nat)
  | resume
  | resumeTick (at_ : Nat)
  | state
  | shrink
  | rewireTimeout (at_ : Nat)
  | fillTimeout (at_ : Nat)
  | restoreTimeout (at_ : Nat)
  | retry (at_ : Nat)
  | abort (at_ : Nat)
  | shrinkDone (at_ : Nat)
  | errcUpdate
  | errcThrArm (i : Fin 512) (v : Word)
  | errcDbaddrWrite (w : RingReg) (v : Word)
  | suspectEvent (d : Fin 4) (at_ : Nat)
  | suspicionExpiry (d : Fin 4) (at_ : Nat)
  | repMarginWrite (d : Fin 4) (v : Word)
  | migrationStart (d : Fin 4) (r : Fin 48)
  | copyComplete (d : Fin 4) (r : Fin 48) (q : Fin 34) (at_ : Nat)
  | migrationTimeout (d : Fin 4) (r : Fin 48) (q : Fin 34) (at_ : Nat)
  | auditStart (d : Fin 4) (r : Fin 48) (at_ : Nat)
  | rollingScanRow (d : Fin 4) (at_ : Nat)
  | scanResult (p : PhysTile) (pass : Bool) (at_ : Nat)
  | repCommitGo (d : Fin 4)
  | fuseProgramComplete (d : Fin 4) (good : Bool)
  | ldrCtxRowsWrite (d : Fin 4) (c : Fin 64) (v : BitVec 48)
  | load (d : Fin 4) (c : Fin 64) (auto : Bool)
  | loadRestore (d : Fin 4) (c : Fin 64) (auto : Bool)
  | loadFinish (d : Fin 4) (c : Fin 64) (cyc at_ : Nat)
  | start (d : Fin 4) (c : Fin 64) (cyc at_ : Nat)
  | penRingWrite (d : Fin 4) (v : Word)
  | evenCounterRead (k : CounterSet) (at_ : Nat)
  | rcRead (func : Fin 65) (a : BitVec 26) (n at_ : Nat)
  | perfTaddrWrite (v : BitVec 14)
  | perfHclrHbm
  | perfHclrSync
  | perfHclrFlow
  | registerWrite (func : Fin 65) (win : Window) (a : BitVec 26) (n : Nat) (v : Word) (at_ cyc : Nat)
  | linkDown (at_ cyc : Nat)
  | hotReset (at_ cyc : Nat)
  | functionLevelReset (func : Fin 65) (at_ cyc : Nat)
  | perstN (at_ cyc : Nat)
  | poisonedWriteRequest
  | unsupportedRequest
  | hctxEnable (c : Fin 64) (v : Word)
  | hctxDisable (c : Fin 64) (v : Word) (at_ cyc : Nat)
  | contextReset (c : Fin 64) (at_ cyc : Nat)
  | contextResetComplete (c : Fin 64)
  | bar4Access (a : BitVec 28) (c : Nat) (acc : HostAccess)
  | getId (r : EasReq) (at_ : Nat)
  | getStatus (r : EasReq) (at_ : Nat)
  | getSensor (r : EasReq) (at_ : Nat)
  | getErrc (r : EasReq) (at_ : Nat)
  | readLog (r : EasReq) (at_ : Nat)
  | setNext (r : EasReq) (at_ : Nat)
  | stageProfile (r : EasReq) (at_ : Nat)
  | commitProfile (r : EasReq) (at_ : Nat)
  | readProfile (r : EasReq) (at_ : Nat)
  | setLock (r : EasReq) (at_ : Nat)
  | moduleReset (r : EasReq) (at_ : Nat)
  | stageFw (r : EasReq) (at_ : Nat)
  | commitFw (r : EasReq) (at_ : Nat)
  | advanceSvn (r : EasReq) (at_ : Nat)
  | setdasa (a : BitVec 7) (at_ : Nat)
  | entdaa (a : BitVec 7) (at_ : Nat)
  | transactionTimeout (at_ : Nat)
  | mailboxTimeout
  | consoleLine (line : List Byte) (at_ : Nat)
  | watchdogExpiry (at_ : Nat)
  | modLockWrite (v : BitVec 6)
  | modCmdReset (key : BitVec 8) (at_ : Nat)
  | vauxGood (at_ : Nat)
  | vauxLost (at_ : Nat)
  | vmainGood (at_ : Nat)
  | vmainLost (at_ : Nat)
  | railFailure (g : RailGroup) (at_ : Nat)
  | railFailurePowerDown (at_ : Nat)
  | railGroupGood (g : RailGroup) (at_ : Nat)
  | railGroupTimeout (g : RailGroup) (at_ : Nat)
  | droopTrip (d : Fin 4) (mv at_ : Nat)
  | stretchRelease (d : Fin 4) (at_ : Nat)
  | thermalSample (site : ThermalSite) (at_ : Nat)
  | thermalTrip (sensor : Fin 139) (at_ : Nat)
  | powerSample (l : Samples) (vaux at_ : Nat)
  | pwrLimitWrite (v : BitVec 12)
  | pwrDroopWrite (d : Fin 4) (v : Word)
  | modResetN (low : Bool) (ns at_ : Nat)
  | stageEasel (master profile mgmt : StrapSamples) (at_ : Nat)
  | stageRails (at_ : Nat)
  | stageBridgesAndHbm (failed : Bundles) (trained : BitVec 24) (at_ : Nat)
  | stageQuickScan (fails : List PhysTile) (at_ : Nat)
  | stageLinks (at_ : Nat)
  | stageEnumeration (at_ : Nat)
  | syncAdd (at_ c : Nat)
  | laserInputLit (f k : Fin 2) (pwr : BitVec 16) (at_ : Nat)
  | linkUp (speed : Fin 7) (width : Fin 17) (flit bme : Bool) (vfs : Fin 65)
  | exchangePhaseEnd (t : TileId) (at_ : Nat)
  | restoreComplete (c : Fin 64) (at_ cyc : Nat)
  | confirmWindowExpiry (n : BitVec 14) (at_ : Nat)
  | tapInstruction (i : TapInstr)
  | clockRampComplete (d : Fin 4) (at_ : Nat)
  deriving DecidableEq, Repr

end Sys2Proof
end

