-- ==== Sys2Proof/Decode.lean ====
section
/-! DEFINITION. The words of the command table: none of its rows gives bits, so no word spells a command
(notes/assumptions/1). The words of the tile's own instruction set (R73-R95), which a command that names a tile instruction
carries without its class and op: a decoder, total on 64-bit words, and an encoder. -/

namespace Sys2Proof

/-- The command that a word spells by the table's bits. -/
def decodeTableWord (_nbits _w : Nat) : Option Instr := none

/-! A tile's instruction words. -/

/-- R73: the guard and the body of a word. -/
def IW.ofWord (v : BitVec 64) : IW :=
  ⟨v.getLsbD 58, ⟨(v.extractLsb' 55 3).toNat, by omega⟩, v.extractLsb' 0 49⟩

/-- R73: a word of a class and an op with a guard and a body. -/
def IW.word (cls : BitVec 5) (op : BitVec 6) (w : IW) : BitVec 64 :=
  cls ++ BitVec.ofBool w.pn ++ BitVec.ofNat 3 w.pg.val ++ op ++ w.body

/-- A row of the tables of R74-R95: class, op, and the command of a tile that issues it. -/
structure TileOp where
  cls : BitVec 5
  op : BitVec 6
  make : TileId → IW → Instr

/-- SYS (R76); NOP, op 0, is the answer for every word that the tables do not list. -/
def sysOps : List TileOp := [⟨0x00, 0x01, .endTile⟩]
/-- ALU (R77). -/
def aluOps : List TileOp := [⟨0x01, 0x00, .add⟩, ⟨0x01, 0x01, .sub⟩, ⟨0x01, 0x02, .and⟩, ⟨0x01, 0x03, .or⟩,
  ⟨0x01, 0x04, .xor⟩, ⟨0x01, 0x05, .shl⟩, ⟨0x01, 0x06, .shr⟩, ⟨0x01, 0x07, .sar⟩,
  ⟨0x01, 0x08, .min⟩, ⟨0x01, 0x09, .max⟩, ⟨0x01, 0x0A, .minu⟩, ⟨0x01, 0x0B, .maxu⟩]
/-- ALUI (R77). -/
def aluiOps : List TileOp := [⟨0x02, 0x00, .addi⟩, ⟨0x02, 0x01, .subi⟩, ⟨0x02, 0x02, .andi⟩, ⟨0x02, 0x03, .ori⟩,
  ⟨0x02, 0x04, .xori⟩, ⟨0x02, 0x05, .shli⟩, ⟨0x02, 0x06, .shri⟩, ⟨0x02, 0x07, .sari⟩,
  ⟨0x02, 0x08, .mini⟩, ⟨0x02, 0x09, .maxi⟩, ⟨0x02, 0x0A, .minui⟩, ⟨0x02, 0x0B, .maxui⟩]
/-- MOVI (R78). -/
def moviOps : List TileOp := [⟨0x03, 0x00, .movi⟩, ⟨0x03, 0x01, .movhi⟩]
/-- PRED (R79). -/
def predOps : List TileOp := [⟨0x04, 0x00, .cmpEq⟩, ⟨0x04, 0x01, .cmpNe⟩, ⟨0x04, 0x02, .cmpLt⟩, ⟨0x04, 0x03, .cmpGe⟩,
  ⟨0x04, 0x04, .cmpLtu⟩, ⟨0x04, 0x05, .cmpGeu⟩, ⟨0x04, 0x08, .pand⟩, ⟨0x04, 0x09, .por⟩,
  ⟨0x04, 0x0A, .pxor⟩, ⟨0x04, 0x0B, .pandn⟩]
/-- BR (R83) and LOOP (R84). -/
def brOps : List TileOp := [⟨0x05, 0x00, .br⟩, ⟨0x05, 0x01, .call⟩, ⟨0x05, 0x02, .jr⟩, ⟨0x05, 0x03, .callr⟩]
def loopOps : List TileOp := [⟨0x06, 0x00, .loop⟩, ⟨0x06, 0x01, .loopr⟩]
/-- MEM (R80). -/
def memOps : List TileOp := [⟨0x07, 0x00, .ldB⟩, ⟨0x07, 0x01, .ldH⟩, ⟨0x07, 0x02, .ldW⟩, ⟨0x07, 0x03, .ldD⟩,
  ⟨0x07, 0x04, .ldBu⟩, ⟨0x07, 0x05, .ldHu⟩, ⟨0x07, 0x06, .ldWu⟩, ⟨0x07, 0x08, .stB⟩,
  ⟨0x07, 0x09, .stH⟩, ⟨0x07, 0x0A, .stW⟩, ⟨0x07, 0x0B, .stD⟩]
/-- MULDIV (R81). -/
def mulDivOps : List TileOp := [⟨0x08, 0x00, .mul⟩, ⟨0x08, 0x01, .mulh⟩, ⟨0x08, 0x02, .mulhu⟩, ⟨0x08, 0x04, .div⟩,
  ⟨0x08, 0x05, .divu⟩, ⟨0x08, 0x06, .rem⟩, ⟨0x08, 0x07, .remu⟩]
/-- STIP (R82) and TOKEN (R91). -/
def stipOps : List TileOp := [⟨0x09, 0x00, .rnd⟩]
def tokenOps : List TileOp := [⟨0x0A, 0x00, .waitAll⟩, ⟨0x0A, 0x01, .waitAny⟩]
/-- The engine classes (R93-R95). -/
def mullerOps : List TileOp := [⟨0x10, 0x00, .mmac⟩, ⟨0x10, 0x01, .mclr⟩, ⟨0x10, 0x02, .mstore⟩]
def glazeOps : List TileOp := [⟨0x11, 0x00, .grun⟩]
def streamOps : List TileOp := [⟨0x12, 0x00, .sload⟩, ⟨0x12, 0x01, .sstore⟩]
def exchOps : List TileOp := [⟨0x13, 0x00, .xsend⟩, ⟨0x13, 0x01, .xsendr⟩]
def fabricOps : List TileOp := [⟨0x14, 0x00, .fput⟩, ⟨0x14, 0x01, .fsend⟩]
def syncOps : List TileOp := [⟨0x15, 0x00, .bar⟩, ⟨0x15, 0x01, .tickwait⟩, ⟨0x15, 0x02, .sig⟩, ⟨0x15, 0x03, .waitge⟩]

/-- R74, R76-R95: every listed class and op but NOP's. -/
def tileOps : List TileOp :=
  sysOps ++ aluOps ++ aluiOps ++ moviOps ++ predOps ++ brOps ++ loopOps ++ memOps ++ mulDivOps ++
    stipOps ++ tokenOps ++ mullerOps ++ glazeOps ++ streamOps ++ exchOps ++ fabricOps ++ syncOps

/-- The row of the tables that a word names. -/
def tileOpOf (v : BitVec 64) : Option TileOp :=
  tileOps.find? fun r => r.cls == v.extractLsb' 59 5 && r.op == v.extractLsb' 49 6

/-- R73-R75: the command of tile `t` that issues word `v`. NOP keeps its whole word: a reserved class or an unlisted op reaches
the tile as NOP's word, which is ILLEGAL there. -/
def decodeTile (t : TileId) (v : BitVec 64) : Instr :=
  match tileOpOf v with
  | some r => r.make t (IW.ofWord v)
  | none => .nop t v

/-- The word of a command that issues a tile instruction. -/
def encodeTile (i : Instr) : Option (BitVec 64) := match i with
  | .nop _ v => some v
  | .endTile _ w => some (w.word 0x00 0x01)
  | .add _ w => some (w.word 0x01 0x00)
  | .sub _ w => some (w.word 0x01 0x01)
  | .and _ w => some (w.word 0x01 0x02)
  | .or _ w => some (w.word 0x01 0x03)
  | .xor _ w => some (w.word 0x01 0x04)
  | .shl _ w => some (w.word 0x01 0x05)
  | .shr _ w => some (w.word 0x01 0x06)
  | .sar _ w => some (w.word 0x01 0x07)
  | .min _ w => some (w.word 0x01 0x08)
  | .max _ w => some (w.word 0x01 0x09)
  | .minu _ w => some (w.word 0x01 0x0A)
  | .maxu _ w => some (w.word 0x01 0x0B)
  | .addi _ w => some (w.word 0x02 0x00)
  | .subi _ w => some (w.word 0x02 0x01)
  | .andi _ w => some (w.word 0x02 0x02)
  | .ori _ w => some (w.word 0x02 0x03)
  | .xori _ w => some (w.word 0x02 0x04)
  | .shli _ w => some (w.word 0x02 0x05)
  | .shri _ w => some (w.word 0x02 0x06)
  | .sari _ w => some (w.word 0x02 0x07)
  | .mini _ w => some (w.word 0x02 0x08)
  | .maxi _ w => some (w.word 0x02 0x09)
  | .minui _ w => some (w.word 0x02 0x0A)
  | .maxui _ w => some (w.word 0x02 0x0B)
  | .movi _ w => some (w.word 0x03 0x00)
  | .movhi _ w => some (w.word 0x03 0x01)
  | .cmpEq _ w => some (w.word 0x04 0x00)
  | .cmpNe _ w => some (w.word 0x04 0x01)
  | .cmpLt _ w => some (w.word 0x04 0x02)
  | .cmpGe _ w => some (w.word 0x04 0x03)
  | .cmpLtu _ w => some (w.word 0x04 0x04)
  | .cmpGeu _ w => some (w.word 0x04 0x05)
  | .pand _ w => some (w.word 0x04 0x08)
  | .por _ w => some (w.word 0x04 0x09)
  | .pxor _ w => some (w.word 0x04 0x0A)
  | .pandn _ w => some (w.word 0x04 0x0B)
  | .br _ w => some (w.word 0x05 0x00)
  | .call _ w => some (w.word 0x05 0x01)
  | .jr _ w => some (w.word 0x05 0x02)
  | .callr _ w => some (w.word 0x05 0x03)
  | .loop _ w => some (w.word 0x06 0x00)
  | .loopr _ w => some (w.word 0x06 0x01)
  | .ldB _ w => some (w.word 0x07 0x00)
  | .ldH _ w => some (w.word 0x07 0x01)
  | .ldW _ w => some (w.word 0x07 0x02)
  | .ldD _ w => some (w.word 0x07 0x03)
  | .ldBu _ w => some (w.word 0x07 0x04)
  | .ldHu _ w => some (w.word 0x07 0x05)
  | .ldWu _ w => some (w.word 0x07 0x06)
  | .stB _ w => some (w.word 0x07 0x08)
  | .stH _ w => some (w.word 0x07 0x09)
  | .stW _ w => some (w.word 0x07 0x0A)
  | .stD _ w => some (w.word 0x07 0x0B)
  | .mul _ w => some (w.word 0x08 0x00)
  | .mulh _ w => some (w.word 0x08 0x01)
  | .mulhu _ w => some (w.word 0x08 0x02)
  | .div _ w => some (w.word 0x08 0x04)
  | .divu _ w => some (w.word 0x08 0x05)
  | .rem _ w => some (w.word 0x08 0x06)
  | .remu _ w => some (w.word 0x08 0x07)
  | .rnd _ w => some (w.word 0x09 0x00)
  | .waitAll _ w => some (w.word 0x0A 0x00)
  | .waitAny _ w => some (w.word 0x0A 0x01)
  | .mmac _ w => some (w.word 0x10 0x00)
  | .mclr _ w => some (w.word 0x10 0x01)
  | .mstore _ w => some (w.word 0x10 0x02)
  | .grun _ w => some (w.word 0x11 0x00)
  | .sload _ w => some (w.word 0x12 0x00)
  | .sstore _ w => some (w.word 0x12 0x01)
  | .xsend _ w => some (w.word 0x13 0x00)
  | .xsendr _ w => some (w.word 0x13 0x01)
  | .fput _ w => some (w.word 0x14 0x00)
  | .fsend _ w => some (w.word 0x14 0x01)
  | .bar _ w => some (w.word 0x15 0x00)
  | .tickwait _ w => some (w.word 0x15 0x01)
  | .sig _ w => some (w.word 0x15 0x02)
  | .waitge _ w => some (w.word 0x15 0x03)
  | _ => none

end Sys2Proof
end

