-- ==== Sys2Proof/Machine/Regs.lean ====
section
/-! DEFINITION. The registers of the module: where every register and every field of it lies (the offset tables of
R63, R99, R131, R158, R187, R216, R235, R236, R256, R292, R321, R322, R344-R348, R356, R357, R366, R370, R406, R412,
R415, R432, R459, R460, R470, R478, R501-R504, R524), its access type (R15) and its value at reset (R18).
A module register is keyed by its byte offset in PF BAR0; a tile register by its offset in the tile control and
status block; a VF context-page register by 0x1000 times the context plus its offset in that page. -/

namespace Sys2Proof.Machine

/-- A register field: the register's key, the field's low bit and its width. -/
structure RF where
  addr : Nat
  lo : Nat
  w : Nat
  deriving DecidableEq, Repr

/-- A register, or an array of registers: its first key, the (count, stride) of each index with the widest stride
first, the bits of each access type of R15, its RWL bits with the MOD_LOCK bit that locks them, its reset value. -/
structure RegDesc where
  base : Nat
  dims : List (Nat × Nat)
  rw : Nat
  w1c : Nat
  w1s : Nat
  rc : Nat
  rwl : List (Nat × Nat)
  reset : Nat
  own : Bool      -- a write of it is a row of its own of the command table
  view : Bool     -- its value is computed from other state
  deriving DecidableEq, Repr


/-! Fields of the module registers. -/


/-! R63. -/
abbrev F.TICK_ROLE.role_cfg : RF := ⟨0x10000, 0, 2⟩
abbrev F.TICK_ROLE.role_now : RF := ⟨0x10000, 8, 2⟩
abbrev F.TICK_CTRL.run : RF := ⟨0x10008, 0, 1⟩
abbrev F.TICK_CTRL.ping_now : RF := ⟨0x10008, 1, 1⟩
abbrev F.TICK_PERIOD.period_set : RF := ⟨0x10010, 0, 24⟩
abbrev F.TICK_PERIOD.period_now : RF := ⟨0x10010, 32, 24⟩
abbrev F.TICK_HOLD_LIMIT.limit_set : RF := ⟨0x10018, 0, 24⟩
abbrev F.TICK_HOLD_LIMIT.limit_now : RF := ⟨0x10018, 32, 24⟩
abbrev F.TICK_HOLD_LEAD.lead : RF := ⟨0x10020, 0, 16⟩
abbrev F.TICK_NUMBER.number : RF := ⟨0x10028, 0, 64⟩
abbrev F.TICK_NEXT.next : RF := ⟨0x10030, 0, 64⟩
abbrev F.TICK_PEERS.master_id : RF := ⟨0x10038, 0, 14⟩
abbrev F.TICK_PEERS.master_valid : RF := ⟨0x10038, 14, 1⟩
abbrev F.TICK_PEERS.standby_id : RF := ⟨0x10038, 16, 14⟩
abbrev F.TICK_PEERS.standby_valid : RF := ⟨0x10038, 30, 1⟩
abbrev F.TICK_RTT.rtt_last : RF := ⟨0x10040, 0, 24⟩
abbrev F.TICK_RTT.rtt_max : RF := ⟨0x10040, 32, 24⟩
abbrev F.TICK_STATUS.ready : RF := ⟨0x10048, 0, 1⟩
abbrev F.TICK_STATUS.holding : RF := ⟨0x10048, 1, 1⟩
abbrev F.TICK_STATUS.recovery : RF := ⟨0x10048, 2, 1⟩
abbrev F.TICK_STATUS.paused : RF := ⟨0x10048, 3, 1⟩
abbrev F.TICK_STATUS.lead_short : RF := ⟨0x10048, 4, 1⟩
abbrev F.TICK_STATUS.cfg_reject : RF := ⟨0x10048, 5, 1⟩
abbrev F.TICK_STATUS.strap_bad : RF := ⟨0x10048, 6, 1⟩
abbrev F.TICK_STATUS.no_standby : RF := ⟨0x10048, 7, 1⟩
abbrev F.TICK_STATUS.stopped : RF := ⟨0x10048, 8, 1⟩
abbrev F.TICK_STATUS.hold_elapsed : RF := ⟨0x10048, 32, 32⟩
abbrev F.TICK_CTX_BIND.bind : RF := ⟨0x10050, 0, 64⟩
abbrev F.TICK_CTX_READY.ready : RF := ⟨0x10058, 0, 64⟩
abbrev F.TICK_CNT_HOLD.count : RF := ⟨0x10060, 0, 48⟩
abbrev F.TICK_CNT_HOLD_FC.count : RF := ⟨0x10068, 0, 48⟩
abbrev F.TICK_CNT_DUP.count : RF := ⟨0x10070, 0, 48⟩
abbrev F.TICK_CNT_GAP.count : RF := ⟨0x10078, 0, 48⟩
abbrev F.TICK_CNT_OVERRUN.count : RF := ⟨0x10080, 0, 48⟩
abbrev F.TICK_CNT_ROLE.count : RF := ⟨0x10088, 0, 48⟩
abbrev F.TICK_CNT_DOM_HOLD.count : RF := ⟨0x10090, 0, 48⟩
abbrev F.TICK_CNT_DELAYED.count : RF := ⟨0x10098, 0, 48⟩
abbrev F.TICK_CNT_DELAY_FC.count : RF := ⟨0x100A0, 0, 48⟩
abbrev F.TICK_CNT_LATE_HOLD.count : RF := ⟨0x100A8, 0, 48⟩
abbrev F.TICK_CNT_BADCFG.count : RF := ⟨0x100B0, 0, 48⟩
abbrev F.TICK_HOLDSET.held (k : Nat) : RF := ⟨0x10100 + 0x8 * k, 0, 64⟩

/-! R236. -/
abbrev F.DIE_TMAP.retired (d r : Nat) : RF := ⟨0x104000 + 0x100000 * d + 0x8 * r, 0, 34⟩
abbrev F.DIE_TMAP.s0_v (d r : Nat) : RF := ⟨0x104000 + 0x100000 * d + 0x8 * r, 34, 1⟩
abbrev F.DIE_TMAP.s0_log (d r : Nat) : RF := ⟨0x104000 + 0x100000 * d + 0x8 * r, 35, 5⟩
abbrev F.DIE_TMAP.s0_phys (d r : Nat) : RF := ⟨0x104000 + 0x100000 * d + 0x8 * r, 40, 6⟩
abbrev F.DIE_TMAP.s0_scan (d r : Nat) : RF := ⟨0x104000 + 0x100000 * d + 0x8 * r, 46, 1⟩
abbrev F.DIE_TMAP.s1_v (d r : Nat) : RF := ⟨0x104000 + 0x100000 * d + 0x8 * r, 47, 1⟩
abbrev F.DIE_TMAP.s1_log (d r : Nat) : RF := ⟨0x104000 + 0x100000 * d + 0x8 * r, 48, 5⟩
abbrev F.DIE_TMAP.s1_phys (d r : Nat) : RF := ⟨0x104000 + 0x100000 * d + 0x8 * r, 53, 6⟩
abbrev F.DIE_TMAP.s1_scan (d r : Nat) : RF := ⟨0x104000 + 0x100000 * d + 0x8 * r, 59, 1⟩
abbrev F.DIE_TMAP_NEXT.map (d r : Nat) : RF := ⟨0x104200 + 0x100000 * d + 0x8 * r, 0, 60⟩
abbrev F.DIE_TMAP_CTL.pending (d : Nat) : RF := ⟨0x104400 + 0x100000 * d, 0, 48⟩
abbrev F.DIE_TMAP_CTL.reject (d : Nat) : RF := ⟨0x104400 + 0x100000 * d, 48, 1⟩

/-! R256. -/
abbrev F.HBM_SE_CTL.enable (d k : Nat) : RF := ⟨0x108000 + 0x100000 * d + 0x100 * k, 0, 1⟩
abbrev F.HBM_SE_STATUS.state (d k : Nat) : RF := ⟨0x108008 + 0x100000 * d + 0x100 * k, 0, 3⟩
abbrev F.HBM_SE_STATUS.tiles (d k : Nat) : RF := ⟨0x108008 + 0x100000 * d + 0x100 * k, 8, 11⟩
abbrev F.HBM_SE_CNT_ROWS.count (d k : Nat) : RF := ⟨0x108010 + 0x100000 * d + 0x100 * k, 0, 48⟩
abbrev F.HBM_SE_CNT_CE.count (d k : Nat) : RF := ⟨0x108018 + 0x100000 * d + 0x100 * k, 0, 48⟩
abbrev F.HBM_SE_CNT_UE.count (d k : Nat) : RF := ⟨0x108020 + 0x100000 * d + 0x100 * k, 0, 48⟩
abbrev F.HBM_SE_CNT_RGN.count (d k : Nat) : RF := ⟨0x108028 + 0x100000 * d + 0x100 * k, 0, 48⟩
abbrev F.HBM_SE_CNT_INVAL.count (d k : Nat) : RF := ⟨0x108030 + 0x100000 * d + 0x100 * k, 0, 48⟩
abbrev F.HBM_SE_ELOG.seg (d k : Nat) : RF := ⟨0x108038 + 0x100000 * d + 0x100 * k, 4, 32⟩
abbrev F.HBM_SE_ELOG.ue (d k : Nat) : RF := ⟨0x108038 + 0x100000 * d + 0x100 * k, 36, 1⟩
abbrev F.HBM_SE_ELOG.syndrome (d k : Nat) : RF := ⟨0x108038 + 0x100000 * d + 0x100 * k, 37, 9⟩
abbrev F.HBM_SE_ELOG.valid (d k : Nat) : RF := ⟨0x108038 + 0x100000 * d + 0x100 * k, 63, 1⟩
abbrev F.HBM_SEMAP.phys (d : Nat) : RF := ⟨0x108800 + 0x100000 * d, 0, 18⟩
abbrev F.HBM_SCRUB.dirty (d p : Nat) : RF := ⟨0x108810 + 0x100000 * d + 0x8 * p, 0, 16⟩
abbrev F.HBM_SCRUB.next (d p : Nat) : RF := ⟨0x108810 + 0x100000 * d + 0x8 * p, 16, 15⟩
abbrev F.HBM_SCRUB.active (d p : Nat) : RF := ⟨0x108810 + 0x100000 * d + 0x8 * p, 31, 1⟩
abbrev F.HBM_RGN_CTL.reject (d : Nat) : RF := ⟨0x108840 + 0x100000 * d, 0, 1⟩
abbrev F.HBM_RGN_CTL.host_reject (d : Nat) : RF := ⟨0x108840 + 0x100000 * d, 1, 1⟩
abbrev F.HBM_RGN.base (d c k : Nat) : RF := ⟨0x110000 + 0x100000 * d + 0x200 * c + 0x8 * k, 0, 15⟩
abbrev F.HBM_RGN.count_m1 (d c k : Nat) : RF := ⟨0x110000 + 0x100000 * d + 0x200 * c + 0x8 * k, 16, 16⟩
abbrev F.HBM_RGN.lstack (d c k : Nat) : RF := ⟨0x110000 + 0x100000 * d + 0x200 * c + 0x8 * k, 32, 3⟩
abbrev F.HBM_RGN.rd (d c k : Nat) : RF := ⟨0x110000 + 0x100000 * d + 0x200 * c + 0x8 * k, 35, 1⟩
abbrev F.HBM_RGN.wr (d c k : Nat) : RF := ⟨0x110000 + 0x100000 * d + 0x200 * c + 0x8 * k, 36, 1⟩
abbrev F.HBM_RGN.state (d c k : Nat) : RF := ⟨0x110000 + 0x100000 * d + 0x200 * c + 0x8 * k, 37, 2⟩
abbrev F.HBM_RGN.valid (d c k : Nat) : RF := ⟨0x110000 + 0x100000 * d + 0x200 * c + 0x8 * k, 39, 1⟩

/-! R292. -/
abbrev F.FAB_PORT_CTL.enable (f p : Nat) : RF := ⟨0x1000000 + 0x80000 * f + 0x100 * p, 0, 1⟩
abbrev F.FAB_PORT_CTL.spare (f p : Nat) : RF := ⟨0x1000000 + 0x80000 * f + 0x100 * p, 1, 1⟩
abbrev F.FAB_PORT_CTL.dateline (f p : Nat) : RF := ⟨0x1000000 + 0x80000 * f + 0x100 * p, 2, 1⟩
abbrev F.FAB_PORT_STATUS.state (f p : Nat) : RF := ⟨0x1000008 + 0x80000 * f + 0x100 * p, 0, 4⟩
abbrev F.FAB_PORT_STATUS.laser_ok (f p : Nat) : RF := ⟨0x1000008 + 0x80000 * f + 0x100 * p, 4, 1⟩
abbrev F.FAB_PORT_STATUS.attempts (f p : Nat) : RF := ⟨0x1000008 + 0x80000 * f + 0x100 * p, 8, 8⟩
abbrev F.FAB_PORT_STATUS.rtt (f p : Nat) : RF := ⟨0x1000008 + 0x80000 * f + 0x100 * p, 16, 16⟩
abbrev F.FAB_PORT_STATUS.lanes (f p : Nat) : RF := ⟨0x1000008 + 0x80000 * f + 0x100 * p, 32, 8⟩
abbrev F.FAB_PORT_PEER.node (f p : Nat) : RF := ⟨0x1000010 + 0x80000 * f + 0x100 * p, 0, 14⟩
abbrev F.FAB_PORT_PEER.port (f p : Nat) : RF := ⟨0x1000010 + 0x80000 * f + 0x100 * p, 14, 4⟩
abbrev F.FAB_PORT_PEER.peer_spare (f p : Nat) : RF := ⟨0x1000010 + 0x80000 * f + 0x100 * p, 18, 1⟩
abbrev F.FAB_PORT_PEER.valid (f p : Nat) : RF := ⟨0x1000010 + 0x80000 * f + 0x100 * p, 19, 1⟩
abbrev F.FAB_PORT_CNT_TX.count (f p : Nat) : RF := ⟨0x1000018 + 0x80000 * f + 0x100 * p, 0, 48⟩
abbrev F.FAB_PORT_CNT_RX.count (f p : Nat) : RF := ⟨0x1000020 + 0x80000 * f + 0x100 * p, 0, 48⟩
abbrev F.FAB_PORT_CNT_FECC.count (f p : Nat) : RF := ⟨0x1000028 + 0x80000 * f + 0x100 * p, 0, 48⟩
abbrev F.FAB_PORT_CNT_FECU.count (f p : Nat) : RF := ⟨0x1000030 + 0x80000 * f + 0x100 * p, 0, 48⟩
abbrev F.FAB_PORT_CNT_RETRY.count (f p : Nat) : RF := ⟨0x1000038 + 0x80000 * f + 0x100 * p, 0, 48⟩
abbrev F.FAB_PORT_CNT_DOWN.count (f p : Nat) : RF := ⟨0x1000040 + 0x80000 * f + 0x100 * p, 0, 48⟩
abbrev F.FAB_PORT_CNT_VC3WAIT.count (f p : Nat) : RF := ⟨0x1000048 + 0x80000 * f + 0x100 * p, 0, 48⟩
abbrev F.FAB_CTL.auto_fail (f : Nat) : RF := ⟨0x1018000 + 0x80000 * f, 0, 1⟩
abbrev F.FAB_CTL.detour_thr (f : Nat) : RF := ⟨0x1018000 + 0x80000 * f, 8, 16⟩
abbrev F.FAB_CTL.flow_to (f : Nat) : RF := ⟨0x1018000 + 0x80000 * f, 24, 24⟩
abbrev F.FAB_STATUS.cfg_reject (f : Nat) : RF := ⟨0x1018008 + 0x80000 * f, 0, 1⟩
abbrev F.FAB_NODE.node_id (f : Nat) : RF := ⟨0x1018010 + 0x80000 * f, 0, 14⟩
abbrev F.FAB_NODE.valid (f : Nat) : RF := ⟨0x1018010 + 0x80000 * f, 14, 1⟩
abbrev F.FAB_PORTSEL.fail (f : Nat) : RF := ⟨0x1018018 + 0x80000 * f, 0, 24⟩
abbrev F.FAB_BCAST.parent (f t : Nat) : RF := ⟨0x1018020 + 0x80000 * f + 0x8 * t, 0, 5⟩
abbrev F.FAB_BCAST.root (f t : Nat) : RF := ⟨0x1018020 + 0x80000 * f + 0x8 * t, 5, 1⟩
abbrev F.FAB_BCAST.valid (f t : Nat) : RF := ⟨0x1018020 + 0x80000 * f + 0x8 * t, 6, 1⟩
abbrev F.FAB_BCAST.children (f t : Nat) : RF := ⟨0x1018020 + 0x80000 * f + 0x8 * t, 8, 24⟩
abbrev F.FAB_LASER.in0_ok (f : Nat) : RF := ⟨0x1018030 + 0x80000 * f, 0, 1⟩
abbrev F.FAB_LASER.in1_ok (f : Nat) : RF := ⟨0x1018030 + 0x80000 * f, 1, 1⟩
abbrev F.FAB_LASER.degraded (f : Nat) : RF := ⟨0x1018030 + 0x80000 * f, 2, 1⟩
abbrev F.FAB_LASER.in0_pwr (f : Nat) : RF := ⟨0x1018030 + 0x80000 * f, 16, 16⟩
abbrev F.FAB_LASER.in1_pwr (f : Nat) : RF := ⟨0x1018030 + 0x80000 * f, 32, 16⟩
abbrev F.FAB_CNT_HDR.count (f : Nat) : RF := ⟨0x1018040 + 0x80000 * f, 0, 48⟩
abbrev F.FAB_CNT_ROUTE.count (f : Nat) : RF := ⟨0x1018048 + 0x80000 * f, 0, 48⟩
abbrev F.FAB_CNT_TTL.count (f : Nat) : RF := ⟨0x1018050 + 0x80000 * f, 0, 48⟩
abbrev F.FAB_CNT_LOOP.count (f : Nat) : RF := ⟨0x1018058 + 0x80000 * f, 0, 48⟩
abbrev F.FAB_CNT_DETOUR.count (f : Nat) : RF := ⟨0x1018060 + 0x80000 * f, 0, 48⟩
abbrev F.FAB_CNT_CREDIT.count (f : Nat) : RF := ⟨0x1018068 + 0x80000 * f, 0, 48⟩
abbrev F.FAB_CNT_EPOCH.count (f : Nat) : RF := ⟨0x1018070 + 0x80000 * f, 0, 48⟩
abbrev F.FAB_CNT_NACK.count (f : Nat) : RF := ⟨0x1018078 + 0x80000 * f, 0, 48⟩
abbrev F.FAB_CNT_LOST.count (f : Nat) : RF := ⟨0x1018080 + 0x80000 * f, 0, 48⟩
abbrev F.FAB_CNT_INVAL.count (f : Nat) : RF := ⟨0x1018088 + 0x80000 * f, 0, 48⟩
abbrev F.FAB_CNT_LASER.count (f : Nat) : RF := ⟨0x1018090 + 0x80000 * f, 0, 48⟩
abbrev F.FAB_CNT_EPOCHIN.count (f : Nat) : RF := ⟨0x1018098 + 0x80000 * f, 0, 48⟩
abbrev F.FAB_ROUTE.primary (f n : Nat) : RF := ⟨0x1020000 + 0x80000 * f + 0x8 * n, 0, 5⟩
abbrev F.FAB_ROUTE.shadow (f n : Nat) : RF := ⟨0x1020000 + 0x80000 * f + 0x8 * n, 5, 5⟩
abbrev F.FAB_ROUTE.valid (f n : Nat) : RF := ⟨0x1020000 + 0x80000 * f + 0x8 * n, 10, 1⟩
abbrev F.FAB_ROUTE.shadow_valid (f n : Nat) : RF := ⟨0x1020000 + 0x80000 * f + 0x8 * n, 11, 1⟩
abbrev F.FAB_ROUTE.detour (f n : Nat) : RF := ⟨0x1020000 + 0x80000 * f + 0x8 * n, 12, 16⟩
abbrev F.FAB_FLOW_W0.state (f i : Nat) : RF := ⟨0x1040000 + 0x80000 * f + 0x20 * i, 0, 3⟩
abbrev F.FAB_FLOW_W0.valid (f i : Nat) : RF := ⟨0x1040000 + 0x80000 * f + 0x20 * i, 3, 1⟩
abbrev F.FAB_FLOW_W0.kind (f i : Nat) : RF := ⟨0x1040000 + 0x80000 * f + 0x20 * i, 4, 2⟩
abbrev F.FAB_FLOW_W0.adapt (f i : Nat) : RF := ⟨0x1040000 + 0x80000 * f + 0x20 * i, 6, 1⟩
abbrev F.FAB_FLOW_W0.send (f i : Nat) : RF := ⟨0x1040000 + 0x80000 * f + 0x20 * i, 7, 1⟩
abbrev F.FAB_FLOW_W0.recv (f i : Nat) : RF := ⟨0x1040000 + 0x80000 * f + 0x20 * i, 8, 1⟩
abbrev F.FAB_FLOW_W0.ctx (f i : Nat) : RF := ⟨0x1040000 + 0x80000 * f + 0x20 * i, 9, 6⟩
abbrev F.FAB_FLOW_W0.epoch (f i : Nat) : RF := ⟨0x1040000 + 0x80000 * f + 0x20 * i, 16, 8⟩
abbrev F.FAB_FLOW_W0.peer (f i : Nat) : RF := ⟨0x1040000 + 0x80000 * f + 0x20 * i, 24, 14⟩
abbrev F.FAB_FLOW_W0.tile (f i : Nat) : RF := ⟨0x1040000 + 0x80000 * f + 0x20 * i, 40, 13⟩
abbrev F.FAB_FLOW_W1.credits (f i : Nat) : RF := ⟨0x1040008 + 0x80000 * f + 0x20 * i, 0, 7⟩
abbrev F.FAB_FLOW_W1.next_buf (f i : Nat) : RF := ⟨0x1040008 + 0x80000 * f + 0x20 * i, 7, 6⟩
abbrev F.FAB_FLOW_W1.nbuf_m1 (f i : Nat) : RF := ⟨0x1040008 + 0x80000 * f + 0x20 * i, 13, 6⟩
abbrev F.FAB_FLOW_W1.buf_rows_m1 (f i : Nat) : RF := ⟨0x1040008 + 0x80000 * f + 0x20 * i, 19, 12⟩
abbrev F.FAB_FLOW_W1.win_base (f i : Nat) : RF := ⟨0x1040008 + 0x80000 * f + 0x20 * i, 31, 15⟩
abbrev F.FAB_FLOW_W1.cur_v (f i : Nat) : RF := ⟨0x1040008 + 0x80000 * f + 0x20 * i, 46, 1⟩
abbrev F.FAB_FLOW_W1.cur_segs (f i : Nat) : RF := ⟨0x1040008 + 0x80000 * f + 0x20 * i, 47, 15⟩
abbrev F.FAB_FLOW_W2.sent (f i : Nat) : RF := ⟨0x1040010 + 0x80000 * f + 0x20 * i, 0, 24⟩
abbrev F.FAB_FLOW_W2.resolved (f i : Nat) : RF := ⟨0x1040010 + 0x80000 * f + 0x20 * i, 24, 24⟩
abbrev F.FAB_FLOW_W3.fvcid (f i : Nat) : RF := ⟨0x1040018 + 0x80000 * f + 0x20 * i, 0, 16⟩
abbrev F.FAB_FLOW_W3.fwd (f i : Nat) : RF := ⟨0x1040018 + 0x80000 * f + 0x20 * i, 16, 1⟩
abbrev F.FAB_FLOW_W3.pri (f i : Nat) : RF := ⟨0x1040018 + 0x80000 * f + 0x20 * i, 17, 1⟩
abbrev F.FAB_FLOW_W3.chk (f i : Nat) : RF := ⟨0x1040018 + 0x80000 * f + 0x20 * i, 18, 1⟩
abbrev F.FAB_FLOW_W3.failed (f i : Nat) : RF := ⟨0x1040018 + 0x80000 * f + 0x20 * i, 19, 1⟩
abbrev F.FAB_FLOW_W3.mvcid (f i : Nat) : RF := ⟨0x1040018 + 0x80000 * f + 0x20 * i, 24, 16⟩
abbrev F.FAB_FLOW_W3.mirror_v (f i : Nat) : RF := ⟨0x1040018 + 0x80000 * f + 0x20 * i, 40, 1⟩
abbrev F.FAB_FLOW_W3.mepoch (f i : Nat) : RF := ⟨0x1040018 + 0x80000 * f + 0x20 * i, 48, 8⟩
abbrev F.FAB_FLOW_W3.rec (f i : Nat) : RF := ⟨0x1040018 + 0x80000 * f + 0x20 * i, 0, 20⟩
abbrev F.FAB_FLOW_W3.nchild (f i : Nat) : RF := ⟨0x1040018 + 0x80000 * f + 0x20 * i, 20, 4⟩
abbrev F.FAB_FLOW_W3.root (f i : Nat) : RF := ⟨0x1040018 + 0x80000 * f + 0x20 * i, 24, 1⟩
abbrev F.FAB_FLOW_W3.res_wide (f i : Nat) : RF := ⟨0x1040018 + 0x80000 * f + 0x20 * i, 25, 1⟩
abbrev F.FAB_FLOW_W3.absent (f i : Nat) : RF := ⟨0x1040018 + 0x80000 * f + 0x20 * i, 26, 1⟩
abbrev F.FAB_FLOW_W3.sig_en (f i : Nat) : RF := ⟨0x1040018 + 0x80000 * f + 0x20 * i, 27, 1⟩
abbrev F.FAB_FLOW_W3.parity (f i : Nat) : RF := ⟨0x1040018 + 0x80000 * f + 0x20 * i, 28, 1⟩
abbrev F.FAB_FLOW_W3.vcid (f i : Nat) : RF := ⟨0x1040018 + 0x80000 * f + 0x20 * i, 32, 16⟩

/-! R322. -/
abbrev F.BLD_CTL.patrol (f : Nat) : RF := ⟨0x1019000 + 0x80000 * f, 0, 1⟩
abbrev F.BLD_STATUS.acc_busy (f : Nat) : RF := ⟨0x1019008 + 0x80000 * f, 0, 1⟩
abbrev F.BLD_STATUS.acc_reject (f : Nat) : RF := ⟨0x1019008 + 0x80000 * f, 1, 1⟩
abbrev F.BLD_ACC_ADDR.line (f : Nat) : RF := ⟨0x1019010 + 0x80000 * f, 0, 20⟩
abbrev F.BLD_ACC_CMD.read (f : Nat) : RF := ⟨0x1019018 + 0x80000 * f, 0, 1⟩
abbrev F.BLD_ACC_CMD.write (f : Nat) : RF := ⟨0x1019018 + 0x80000 * f, 1, 1⟩
abbrev F.BLD_ACC_DATA.data (f j : Nat) : RF := ⟨0x1019040 + 0x80000 * f + 0x8 * j, 0, 64⟩
abbrev F.BLD_CNT_WIDE.count (f : Nat) : RF := ⟨0x1019080 + 0x80000 * f, 0, 48⟩
abbrev F.BLD_CNT_FLAG.count (f : Nat) : RF := ⟨0x1019088 + 0x80000 * f, 0, 48⟩
abbrev F.BLD_CNT_NAN.count (f : Nat) : RF := ⟨0x1019090 + 0x80000 * f, 0, 48⟩
abbrev F.BLD_CNT_EXP.count (f : Nat) : RF := ⟨0x1019098 + 0x80000 * f, 0, 48⟩
abbrev F.BLD_CNT_PROTO.count (f : Nat) : RF := ⟨0x10190A0 + 0x80000 * f, 0, 48⟩
abbrev F.BLD_CNT_RAISE.count (f : Nat) : RF := ⟨0x10190A8 + 0x80000 * f, 0, 48⟩
abbrev F.BLD_CNT_LOWER.count (f : Nat) : RF := ⟨0x10190B0 + 0x80000 * f, 0, 48⟩
abbrev F.BLD_CNT_CE.count (f : Nat) : RF := ⟨0x10190B8 + 0x80000 * f, 0, 48⟩
abbrev F.BLD_CNT_UE.count (f : Nat) : RF := ⟨0x10190C0 + 0x80000 * f, 0, 48⟩
abbrev F.BLD_CNT_DELIV.count (f : Nat) : RF := ⟨0x10190C8 + 0x80000 * f, 0, 48⟩

/-! R344. -/
abbrev F.SYNW_VAL.value (c k : Nat) : RF := ⟨0x2000000 + 0x10000 * c + 0x8 * k, 0, 48⟩
abbrev F.SYNW_VAL.poison (c k : Nat) : RF := ⟨0x2000000 + 0x10000 * c + 0x8 * k, 48, 1⟩
abbrev F.SYNW_VAL.bound (c k : Nat) : RF := ⟨0x2000000 + 0x10000 * c + 0x8 * k, 49, 1⟩
abbrev F.SYNW_SEL.vcid (c : Nat) : RF := ⟨0x2008000 + 0x10000 * c, 0, 16⟩
abbrev F.SYNW_SELVAL.value (c : Nat) : RF := ⟨0x2008008 + 0x10000 * c, 0, 48⟩
abbrev F.SYNW_SELVAL.poison (c : Nat) : RF := ⟨0x2008008 + 0x10000 * c, 48, 1⟩
abbrev F.SYNW_SELVAL.bound (c : Nat) : RF := ⟨0x2008008 + 0x10000 * c, 49, 1⟩
abbrev F.SYNW_SELABS.abs (c : Nat) : RF := ⟨0x2008010 + 0x10000 * c, 0, 64⟩

/-! R345. -/
abbrev F.SYNW_HWAIT_W0.target (c w : Nat) : RF := ⟨0x2008100 + 0x10000 * c + 0x20 * w, 0, 48⟩
abbrev F.SYNW_HWAIT_W1.vcid (c w : Nat) : RF := ⟨0x2008108 + 0x10000 * c + 0x20 * w, 0, 16⟩
abbrev F.SYNW_HWAIT_W1.vector (c w : Nat) : RF := ⟨0x2008108 + 0x10000 * c + 0x20 * w, 16, 11⟩
abbrev F.SYNW_HWAIT_W1.msix_en (c w : Nat) : RF := ⟨0x2008108 + 0x10000 * c + 0x20 * w, 27, 1⟩
abbrev F.SYNW_HWAIT_W1.arm (c w : Nat) : RF := ⟨0x2008108 + 0x10000 * c + 0x20 * w, 28, 1⟩
abbrev F.SYNW_HWAIT_W2.state (c w : Nat) : RF := ⟨0x2008110 + 0x10000 * c + 0x20 * w, 0, 3⟩

/-! R346. -/
abbrev F.DB_SIG.n (c : Nat) : RF := ⟨0x3000000 + 0x1000 * c, 0, 48⟩
abbrev F.DB_SIG.vcid (c : Nat) : RF := ⟨0x3000000 + 0x1000 * c, 48, 16⟩
abbrev F.DB_CNT_REJ.count (c : Nat) : RF := ⟨0x3000008 + 0x1000 * c, 0, 48⟩

/-! R348. -/
abbrev F.SYN_PCNT_W0.value (d i : Nat) : RF := ⟨0x120000 + 0x100000 * d + 0x20 * i, 0, 48⟩
abbrev F.SYN_PCNT_W0.poison (d i : Nat) : RF := ⟨0x120000 + 0x100000 * d + 0x20 * i, 48, 1⟩
abbrev F.SYN_PCNT_W0.bound (d i : Nat) : RF := ⟨0x120000 + 0x100000 * d + 0x20 * i, 49, 1⟩
abbrev F.SYN_PCNT_W0.epoch (d i : Nat) : RF := ⟨0x120000 + 0x100000 * d + 0x20 * i, 56, 8⟩
abbrev F.SYN_PCNT_W1.vcid (d i : Nat) : RF := ⟨0x120008 + 0x100000 * d + 0x20 * i, 0, 16⟩
abbrev F.SYN_PCNT_W1.ctx (d i : Nat) : RF := ⟨0x120008 + 0x100000 * d + 0x20 * i, 16, 6⟩
abbrev F.SYN_PCNT_W1.bind (d i : Nat) : RF := ⟨0x120008 + 0x100000 * d + 0x20 * i, 22, 1⟩
abbrev F.SYN_PCNT_W2.partner (d i : Nat) : RF := ⟨0x120010 + 0x100000 * d + 0x20 * i, 0, 12⟩
abbrev F.SYN_PCNT_W2.lead (d i : Nat) : RF := ⟨0x120010 + 0x100000 * d + 0x20 * i, 12, 1⟩
abbrev F.SYN_PCNT_W2.pair_v (d i : Nat) : RF := ⟨0x120010 + 0x100000 * d + 0x20 * i, 13, 1⟩
abbrev F.SYN_PCNT_W2.bnd (d i : Nat) : RF := ⟨0x120010 + 0x100000 * d + 0x20 * i, 14, 16⟩
abbrev F.SYN_PCNT_W2.rb_mode (d i : Nat) : RF := ⟨0x120010 + 0x100000 * d + 0x20 * i, 30, 2⟩
abbrev F.SYN_PCNT_W3.d_last (d i : Nat) : RF := ⟨0x120018 + 0x100000 * d + 0x20 * i, 0, 48⟩
abbrev F.SYN_CTL.reject (d : Nat) : RF := ⟨0x140000 + 0x100000 * d, 0, 1⟩
abbrev F.SYN_BLOG.index (d : Nat) : RF := ⟨0x140008 + 0x100000 * d, 0, 12⟩
abbrev F.SYN_BLOG.valid (d : Nat) : RF := ⟨0x140008 + 0x100000 * d, 31, 1⟩
abbrev F.SYN_CNT_XLATE.count (d : Nat) : RF := ⟨0x140040 + 0x100000 * d, 0, 48⟩
abbrev F.SYN_CNT_OVF.count (d : Nat) : RF := ⟨0x140048 + 0x100000 * d, 0, 48⟩
abbrev F.SYN_CNT_BOUND.count (d : Nat) : RF := ⟨0x140050 + 0x100000 * d, 0, 48⟩
abbrev F.SYN_CNT_REBASE.count (d : Nat) : RF := ⟨0x140058 + 0x100000 * d, 0, 48⟩
abbrev F.SYN_CNT_EPOCH.count (d : Nat) : RF := ⟨0x140060 + 0x100000 * d, 0, 48⟩
abbrev F.SYN_CNT_POISON.count (d : Nat) : RF := ⟨0x140068 + 0x100000 * d, 0, 48⟩
abbrev F.SYN_CNT_ABANDON.count (d : Nat) : RF := ⟨0x140070 + 0x100000 * d, 0, 48⟩
abbrev F.SYN_CTX_W0.quota (d c : Nat) : RF := ⟨0x141000 + 0x100000 * d + 0x10 * c, 0, 13⟩
abbrev F.SYN_CTX_W0.used (d c : Nat) : RF := ⟨0x141000 + 0x100000 * d + 0x10 * c, 16, 13⟩
abbrev F.SYN_CTX_W1.max_add (d c : Nat) : RF := ⟨0x141008 + 0x100000 * d + 0x10 * c, 0, 48⟩

/-! R357. -/
abbrev F.MBS_CFG.enable (c : Nat) : RF := ⟨0x12000 + 0x80 * c, 0, 1⟩
abbrev F.MBS_CFG.auto_open (c : Nat) : RF := ⟨0x12000 + 0x80 * c, 1, 1⟩
abbrev F.MBS_CFG.opt (c : Nat) : RF := ⟨0x12000 + 0x80 * c, 2, 1⟩
abbrev F.MBS_CFG.border (c : Nat) : RF := ⟨0x12000 + 0x80 * c, 3, 1⟩
abbrev F.MBS_CFG.fgate_en (c : Nat) : RF := ⟨0x12000 + 0x80 * c, 4, 1⟩
abbrev F.MBS_CFG.bgate_en (c : Nat) : RF := ⟨0x12000 + 0x80 * c, 5, 1⟩
abbrev F.MBS_CFG.nmb_m1 (c : Nat) : RF := ⟨0x12000 + 0x80 * c, 8, 8⟩
abbrev F.MBS_CFG.depth_m1 (c : Nat) : RF := ⟨0x12000 + 0x80 * c, 16, 3⟩
abbrev F.MBS_VC.vc_rel (c : Nat) : RF := ⟨0x12008 + 0x80 * c, 0, 16⟩
abbrev F.MBS_VC.vc_done (c : Nat) : RF := ⟨0x12008 + 0x80 * c, 16, 16⟩
abbrev F.MBS_VC.vc_fgate (c : Nat) : RF := ⟨0x12008 + 0x80 * c, 32, 16⟩
abbrev F.MBS_VC.vc_bgate (c : Nat) : RF := ⟨0x12008 + 0x80 * c, 48, 16⟩
abbrev F.MBS_UNIT.done_m1 (c : Nat) : RF := ⟨0x12010 + 0x80 * c, 0, 21⟩
abbrev F.MBS_UNIT.fgate_m1 (c : Nat) : RF := ⟨0x12010 + 0x80 * c, 21, 21⟩
abbrev F.MBS_UNIT.bgate_m1 (c : Nat) : RF := ⟨0x12010 + 0x80 * c, 42, 21⟩
abbrev F.MBS_STEP.step (c : Nat) : RF := ⟨0x12018 + 0x80 * c, 0, 36⟩
abbrev F.MBS_STATUS.phase (c : Nat) : RF := ⟨0x12020 + 0x80 * c, 0, 2⟩
abbrev F.MBS_STATUS.halted (c : Nat) : RF := ⟨0x12020 + 0x80 * c, 2, 1⟩
abbrev F.MBS_STATUS.cfg_reject (c : Nat) : RF := ⟨0x12020 + 0x80 * c, 3, 1⟩
abbrev F.MBS_STATUS.released (c : Nat) : RF := ⟨0x12020 + 0x80 * c, 16, 10⟩
abbrev F.MBS_STATUS.completed (c : Nat) : RF := ⟨0x12020 + 0x80 * c, 26, 10⟩
abbrev F.MBS_CMD.open (c : Nat) : RF := ⟨0x12028 + 0x80 * c, 0, 1⟩
abbrev F.MBS_CMD.reset (c : Nat) : RF := ⟨0x12028 + 0x80 * c, 1, 1⟩
abbrev F.MBS_DBASE.base (c : Nat) : RF := ⟨0x12030 + 0x80 * c, 0, 64⟩
abbrev F.MBS_FBASE.base (c : Nat) : RF := ⟨0x12038 + 0x80 * c, 0, 64⟩
abbrev F.MBS_BBASE.base (c : Nat) : RF := ⟨0x12040 + 0x80 * c, 0, 64⟩
abbrev F.MBS_QSEL.queue (c : Nat) : RF := ⟨0x12048 + 0x80 * c, 0, 1⟩
abbrev F.MBS_QSEL.index (c : Nat) : RF := ⟨0x12048 + 0x80 * c, 8, 8⟩
abbrev F.MBS_QDATA.id (c : Nat) : RF := ⟨0x12050 + 0x80 * c, 0, 8⟩
abbrev F.MBS_QDATA.valid (c : Nat) : RF := ⟨0x12050 + 0x80 * c, 8, 1⟩
abbrev F.MBS_QDATA.length (c : Nat) : RF := ⟨0x12050 + 0x80 * c, 16, 9⟩
abbrev F.MBS_CNT_HALT.count (c : Nat) : RF := ⟨0x12058 + 0x80 * c, 0, 48⟩

/-! R366. -/
abbrev F.WCH_CTX_W0.base (c : Nat) : RF := ⟨0x14000 + 0x20 * c, 0, 15⟩
abbrev F.WCH_CTX_W0.size (c : Nat) : RF := ⟨0x14000 + 0x20 * c, 16, 13⟩
abbrev F.WCH_CTX_W0.en (c : Nat) : RF := ⟨0x14000 + 0x20 * c, 32, 1⟩
abbrev F.WCH_CTX_W0.close (c : Nat) : RF := ⟨0x14000 + 0x20 * c, 33, 1⟩
abbrev F.WCH_CTX_W1.band_lo (c : Nat) : RF := ⟨0x14008 + 0x20 * c, 0, 32⟩
abbrev F.WCH_CTX_W1.band_hi (c : Nat) : RF := ⟨0x14008 + 0x20 * c, 32, 32⟩
abbrev F.WCH_CTX_W2.closing (c : Nat) : RF := ⟨0x14010 + 0x20 * c, 0, 1⟩
abbrev F.WCH_CTX_W2.reject (c : Nat) : RF := ⟨0x14010 + 0x20 * c, 1, 1⟩
abbrev F.WCH_CTX_W2.step_closed (c : Nat) : RF := ⟨0x14010 + 0x20 * c, 16, 36⟩
abbrev F.WCH_ACC_ADDR.entry : RF := ⟨0x14800, 0, 15⟩
abbrev F.WCH_ACC_CMD.read : RF := ⟨0x14808, 0, 1⟩
abbrev F.WCH_ACC_CMD.write : RF := ⟨0x14808, 1, 1⟩
abbrev F.WCH_ACC_DATA.data (j : Nat) : RF := ⟨0x14840 + 0x8 * j, 0, 64⟩
abbrev F.WCH_CNT_RANGE.count : RF := ⟨0x148C0, 0, 48⟩
abbrev F.WCH_CNT_OUT.count : RF := ⟨0x148C8, 0, 48⟩
abbrev F.WCH_CNT_NONFIN.count : RF := ⟨0x148D0, 0, 48⟩

/-! R370. -/
abbrev F.EXP_CTL.start (x : Nat) : RF := ⟨0x15000 + 0x40 * x, 0, 1⟩
abbrev F.EXP_CTL.abort (x : Nat) : RF := ⟨0x15000 + 0x40 * x, 1, 1⟩
abbrev F.EXP_CTL.dest (x : Nat) : RF := ⟨0x15000 + 0x40 * x, 2, 1⟩
abbrev F.EXP_CTL.ctx (x : Nat) : RF := ⟨0x15000 + 0x40 * x, 3, 6⟩
abbrev F.EXP_SRC.snap (x : Nat) : RF := ⟨0x15008 + 0x40 * x, 0, 64⟩
abbrev F.EXP_DST.addr (x : Nat) : RF := ⟨0x15010 + 0x40 * x, 0, 64⟩
abbrev F.EXP_DST.flow (x : Nat) : RF := ⟨0x15010 + 0x40 * x, 0, 22⟩
abbrev F.EXP_LEN.len (x : Nat) : RF := ⟨0x15018 + 0x40 * x, 0, 48⟩
abbrev F.EXP_STATUS.state (x : Nat) : RF := ⟨0x15020 + 0x40 * x, 0, 3⟩
abbrev F.EXP_STATUS.cause (x : Nat) : RF := ⟨0x15020 + 0x40 * x, 8, 8⟩
abbrev F.EXP_STATUS.moved (x : Nat) : RF := ⟨0x15020 + 0x40 * x, 16, 48⟩

/-! R406. -/
abbrev F.RCV_CTL.en : RF := ⟨0x16000, 0, 1⟩
abbrev F.RCV_CTL.coord_ok : RF := ⟨0x16000, 1, 1⟩
abbrev F.RCV_CTL.spare : RF := ⟨0x16000, 2, 1⟩
abbrev F.RCV_PLAN.hb_ms : RF := ⟨0x16008, 0, 8⟩
abbrev F.RCV_PLAN.hb_lim : RF := ⟨0x16008, 8, 4⟩
abbrev F.RCV_PLAN.confirm : RF := ⟨0x16008, 12, 4⟩
abbrev F.RCV_PLAN.confirm_ms : RF := ⟨0x16008, 16, 8⟩
abbrev F.RCV_PLAN.rewire_ms : RF := ⟨0x16008, 24, 10⟩
abbrev F.RCV_PLAN.fill_10ms : RF := ⟨0x16008, 34, 10⟩
abbrev F.RCV_PLAN.restore_10ms : RF := ⟨0x16008, 44, 10⟩
abbrev F.RCV_PEERS.log_buddy : RF := ⟨0x16010, 0, 14⟩
abbrev F.RCV_PEERS.log_buddy_v : RF := ⟨0x16010, 14, 1⟩
abbrev F.RCV_PEERS.log_from : RF := ⟨0x16010, 16, 14⟩
abbrev F.RCV_PEERS.log_from_v : RF := ⟨0x16010, 30, 1⟩
abbrev F.RCV_STATUS.state : RF := ⟨0x16018, 0, 4⟩
abbrev F.RCV_STATUS.cstate : RF := ⟨0x16018, 4, 4⟩
abbrev F.RCV_STATUS.coord : RF := ⟨0x16018, 8, 1⟩
abbrev F.RCV_STATUS.gen : RF := ⟨0x16018, 16, 32⟩
abbrev F.RCV_STEP.step : RF := ⟨0x16020, 0, 36⟩
abbrev F.RCV_EVENT.node : RF := ⟨0x16028, 0, 14⟩
abbrev F.RCV_EVENT.kind : RF := ⟨0x16028, 16, 4⟩
abbrev F.RCV_EVENT.valid : RF := ⟨0x16028, 31, 1⟩
abbrev F.RCV_CMD.retry : RF := ⟨0x16030, 0, 1⟩
abbrev F.RCV_CMD.abort : RF := ⟨0x16030, 1, 1⟩
abbrev F.RCV_CMD.shrink_done : RF := ⟨0x16030, 2, 1⟩
abbrev F.RCV_SPARE.node (k : Nat) : RF := ⟨0x16040 + 0x8 * k, 0, 14⟩
abbrev F.RCV_SPARE.valid (k : Nat) : RF := ⟨0x16040 + 0x8 * k, 14, 1⟩
abbrev F.RCV_SPARE.used (k : Nat) : RF := ⟨0x16040 + 0x8 * k, 15, 1⟩
abbrev F.RCV_SPARE.failed (k : Nat) : RF := ⟨0x16040 + 0x8 * k, 16, 1⟩
abbrev F.RCV_SHRINK.removed : RF := ⟨0x160C0, 0, 64⟩
abbrev F.RCV_CNT_LOST.count : RF := ⟨0x16100, 0, 48⟩
abbrev F.RCV_CNT_HBMISS.count : RF := ⟨0x16108, 0, 48⟩
abbrev F.RCV_CNT_FILL.count : RF := ⟨0x16110, 0, 48⟩
abbrev F.RCV_CNT_ABANDON.count : RF := ⟨0x16118, 0, 48⟩
abbrev F.RCV_CNT_RESTORE.count : RF := ⟨0x16120, 0, 48⟩
abbrev F.RCV_CNT_SKEW.count : RF := ⟨0x16128, 0, 48⟩
abbrev F.RCV_CNT_STALE.count : RF := ⟨0x16130, 0, 48⟩
abbrev F.RCV_CNT_LINK.count : RF := ⟨0x16138, 0, 48⟩
abbrev F.VRN_CTX_W0.en (c : Nat) : RF := ⟨0x18000 + 0x80 * c, 0, 1⟩
abbrev F.VRN_CTX_W0.every (c : Nat) : RF := ⟨0x18000 + 0x80 * c, 1, 8⟩
abbrev F.VRN_CTX_W0.sig_en (c : Nat) : RF := ⟨0x18000 + 0x80 * c, 9, 1⟩
abbrev F.VRN_CTX_W0.vcid (c : Nat) : RF := ⟨0x18000 + 0x80 * c, 16, 16⟩
abbrev F.VRN_CTX_W1.base (c : Nat) : RF := ⟨0x18008 + 0x80 * c, 0, 14⟩
abbrev F.VRN_CTX_W1.slot_m1 (c : Nat) : RF := ⟨0x18008 + 0x80 * c, 16, 10⟩
abbrev F.VRN_CTX_W1.img_m1 (c : Nat) : RF := ⟨0x18008 + 0x80 * c, 32, 10⟩
abbrev F.VRN_CTX_W2.mflow (c : Nat) : RF := ⟨0x18010 + 0x80 * c, 0, 14⟩
abbrev F.VRN_CTX_W2.nmf (c : Nat) : RF := ⟨0x18010 + 0x80 * c, 14, 4⟩
abbrev F.VRN_CTX_W2.bflow (c : Nat) : RF := ⟨0x18010 + 0x80 * c, 32, 14⟩
abbrev F.VRN_CTX_W2.nbf (c : Nat) : RF := ⟨0x18010 + 0x80 * c, 46, 4⟩
abbrev F.VRN_CTX_W2.pidx (c : Nat) : RF := ⟨0x18010 + 0x80 * c, 50, 3⟩
abbrev F.VRN_CTX_W3.resume_rgn (c : Nat) : RF := ⟨0x18018 + 0x80 * c, 0, 6⟩
abbrev F.VRN_CTX_W3.resume_v (c : Nat) : RF := ⟨0x18018 + 0x80 * c, 6, 1⟩
abbrev F.VRN_CTX_W4.seq (c : Nat) : RF := ⟨0x18020 + 0x80 * c, 0, 36⟩
abbrev F.VRN_CTX_W4.valid (c : Nat) : RF := ⟨0x18020 + 0x80 * c, 36, 1⟩
abbrev F.VRN_CTX_W5.seq (c : Nat) : RF := ⟨0x18028 + 0x80 * c, 0, 36⟩
abbrev F.VRN_CTX_W5.valid (c : Nat) : RF := ⟨0x18028 + 0x80 * c, 36, 1⟩
abbrev F.VRN_CTX_W6.slots (c : Nat) : RF := ⟨0x18030 + 0x80 * c, 0, 15⟩
abbrev F.VRN_CTX_W6.pinned (c : Nat) : RF := ⟨0x18030 + 0x80 * c, 15, 5⟩
abbrev F.VRN_METH.meth (c d h : Nat) : RF := ⟨0x18038 + 0x80 * c + 0x10 * d + 0x8 * h, 0, 64⟩
abbrev F.SKB_CUR_W0.batch (c k : Nat) : RF := ⟨0x1A000 + 0x100 * c + 0x20 * k, 0, 64⟩
abbrev F.SKB_CUR_W1.position (c k : Nat) : RF := ⟨0x1A008 + 0x100 * c + 0x20 * k, 0, 64⟩
abbrev F.SKB_CUR_W2.step (c k : Nat) : RF := ⟨0x1A010 + 0x100 * c + 0x20 * k, 0, 36⟩
abbrev F.SKB_CUR_W2.id (c k : Nat) : RF := ⟨0x1A010 + 0x100 * c + 0x20 * k, 36, 8⟩
abbrev F.SKB_CUR_W2.valid (c k : Nat) : RF := ⟨0x1A010 + 0x100 * c + 0x20 * k, 44, 1⟩
abbrev F.SKB_CUR_W2.replay (c k : Nat) : RF := ⟨0x1A010 + 0x100 * c + 0x20 * k, 45, 1⟩
abbrev F.SKB_CTL.en : RF := ⟨0x1E000, 0, 1⟩
abbrev F.VRN_STATUS.reject : RF := ⟨0x1E008, 0, 1⟩
abbrev F.VRN_STATUS.skb_lost : RF := ⟨0x1E008, 1, 1⟩
abbrev F.SKB_CNT_NOCUR.count : RF := ⟨0x1E040, 0, 48⟩
abbrev F.SKB_CNT_RDIFF.count : RF := ⟨0x1E048, 0, 48⟩
abbrev F.SKB_CNT_MLAG.count : RF := ⟨0x1E050, 0, 48⟩
abbrev F.SKB_CNT_CRC.count : RF := ⟨0x1E058, 0, 48⟩
abbrev F.VRN_CNT_TORN.count : RF := ⟨0x1E060, 0, 48⟩
abbrev F.VRN_CNT_SKIP.count : RF := ⟨0x1E068, 0, 48⟩
abbrev F.VRN_CNT_MIRERR.count : RF := ⟨0x1E070, 0, 48⟩
abbrev F.VRN_CNT_DONE.count : RF := ⟨0x1E078, 0, 48⟩
abbrev F.SKB_SEQ.next (c : Nat) : RF := ⟨0x1E100 + 0x8 * c, 0, 48⟩

/-! R412. -/
abbrev F.ERRC_CNT.count (i : Nat) : RF := ⟨0x30000 + 0x8 * i, 0, 48⟩
abbrev F.ERRC_THR.thr (i : Nat) : RF := ⟨0x31000 + 0x8 * i, 0, 48⟩
abbrev F.ERRC_THR.host (i : Nat) : RF := ⟨0x31000 + 0x8 * i, 48, 1⟩
abbrev F.ERRC_THR.easel (i : Nat) : RF := ⟨0x31000 + 0x8 * i, 49, 1⟩
abbrev F.ERRC_THR.armed (i : Nat) : RF := ⟨0x31000 + 0x8 * i, 50, 1⟩
abbrev F.ERRC_PEND.pend (k : Nat) : RF := ⟨0x32000 + 0x8 * k, 0, 64⟩
abbrev F.ERRC_DBCFG.vector : RF := ⟨0x32040, 0, 11⟩
abbrev F.ERRC_DBCFG.msix_en : RF := ⟨0x32040, 11, 1⟩
abbrev F.ERRC_DBCFG.size_log2 : RF := ⟨0x32040, 12, 4⟩
abbrev F.ERRC_DBCFG.ring_en : RF := ⟨0x32040, 16, 1⟩
abbrev F.ERRC_DBADDR.addr : RF := ⟨0x32048, 12, 52⟩
abbrev F.ERRC_DBPTR.tail : RF := ⟨0x32050, 0, 16⟩
abbrev F.ERRC_DBPTR.head : RF := ⟨0x32050, 16, 16⟩
abbrev F.REP_POLICY.auto_margin : RF := ⟨0x32058, 0, 1⟩
abbrev F.REP_POLICY.volt_first : RF := ⟨0x32058, 1, 1⟩
abbrev F.REP_POLICY.auto_retire : RF := ⟨0x32058, 2, 1⟩
abbrev F.REP_POLICY.persist_s : RF := ⟨0x32058, 16, 12⟩

/-! R432. -/
abbrev F.REP_MARGIN.vstep (d : Nat) : RF := ⟨0x150000 + 0x100000 * d, 0, 3⟩
abbrev F.REP_MARGIN.cstep (d : Nat) : RF := ⟨0x150000 + 0x100000 * d, 4, 3⟩
abbrev F.REP_SLAST.row (d : Nat) : RF := ⟨0x150008 + 0x100000 * d, 0, 6⟩
abbrev F.REP_SLAST.col (d : Nat) : RF := ⟨0x150008 + 0x100000 * d, 8, 6⟩
abbrev F.REP_SLAST.code (d : Nat) : RF := ⟨0x150008 + 0x100000 * d, 16, 4⟩
abbrev F.REP_SLAST.valid (d : Nat) : RF := ⟨0x150008 + 0x100000 * d, 31, 1⟩
abbrev F.REP_AUD_CTL.en (d : Nat) : RF := ⟨0x150020 + 0x100000 * d, 0, 1⟩
abbrev F.REP_AUD_CTL.gap_ms (d : Nat) : RF := ⟨0x150020 + 0x100000 * d, 16, 16⟩
abbrev F.REP_AUD_LOG.row (d : Nat) : RF := ⟨0x150028 + 0x100000 * d, 0, 6⟩
abbrev F.REP_AUD_LOG.target (d : Nat) : RF := ⟨0x150028 + 0x100000 * d, 8, 6⟩
abbrev F.REP_AUD_LOG.spare (d : Nat) : RF := ⟨0x150028 + 0x100000 * d, 16, 6⟩
abbrev F.REP_AUD_LOG.verdict (d : Nat) : RF := ⟨0x150028 + 0x100000 * d, 24, 2⟩
abbrev F.REP_AUD_LOG.valid (d : Nat) : RF := ⟨0x150028 + 0x100000 * d, 31, 1⟩
abbrev F.REP_SCAN_CTL.en (d : Nat) : RF := ⟨0x150030 + 0x100000 * d, 0, 1⟩
abbrev F.REP_SCAN_CTL.gap_ms (d : Nat) : RF := ⟨0x150030 + 0x100000 * d, 16, 16⟩
abbrev F.REP_SCAN_STATUS.row (d : Nat) : RF := ⟨0x150038 + 0x100000 * d, 0, 6⟩
abbrev F.REP_SCAN_STATUS.active (d : Nat) : RF := ⟨0x150038 + 0x100000 * d, 6, 1⟩
abbrev F.REP_SCAN_STATUS.passes (d : Nat) : RF := ⟨0x150038 + 0x100000 * d, 16, 32⟩
abbrev F.REP_COMMIT.go (d : Nat) : RF := ⟨0x150040 + 0x100000 * d, 0, 1⟩
abbrev F.REP_COMMIT.busy (d : Nat) : RF := ⟨0x150040 + 0x100000 * d, 1, 1⟩
abbrev F.REP_COMMIT.reject (d : Nat) : RF := ⟨0x150040 + 0x100000 * d, 2, 1⟩
abbrev F.REP_COMMIT.fail (d : Nat) : RF := ⟨0x150040 + 0x100000 * d, 3, 1⟩
abbrev F.REP_COMMIT.used (d : Nat) : RF := ⟨0x150040 + 0x100000 * d, 4, 4⟩
abbrev F.REP_COMMIT.unfused (d : Nat) : RF := ⟨0x150040 + 0x100000 * d, 8, 8⟩
abbrev F.REP_FUSE_E.entries (d s w : Nat) : RF := ⟨0x150100 + 0x100000 * d + 0x20 * s + 0x8 * w, 0, 64⟩
abbrev F.REP_FUSE_3.count (d s : Nat) : RF := ⟨0x150118 + 0x100000 * d + 0x20 * s, 0, 5⟩
abbrev F.REP_FUSE_3.programmed (d s : Nat) : RF := ⟨0x150118 + 0x100000 * d + 0x20 * s, 5, 1⟩
abbrev F.REP_ROW.use32 (d r : Nat) : RF := ⟨0x150200 + 0x100000 * d + 0x8 * r, 0, 4⟩
abbrev F.REP_ROW.log32 (d r : Nat) : RF := ⟨0x150200 + 0x100000 * d + 0x8 * r, 4, 5⟩
abbrev F.REP_ROW.use33 (d r : Nat) : RF := ⟨0x150200 + 0x100000 * d + 0x8 * r, 16, 4⟩
abbrev F.REP_ROW.log33 (d r : Nat) : RF := ⟨0x150200 + 0x100000 * d + 0x8 * r, 20, 5⟩

/-! R459. -/
abbrev F.LDR_CTX_ROWS.rows (d c : Nat) : RF := ⟨0x100000 + 0x100000 * d + 0x80 * c, 0, 48⟩
abbrev F.LDR_CTX_IMG.rgn (d c : Nat) : RF := ⟨0x100008 + 0x100000 * d + 0x80 * c, 0, 6⟩
abbrev F.LDR_CTX_IMG.src (d c : Nat) : RF := ⟨0x100008 + 0x100000 * d + 0x80 * c, 6, 1⟩
abbrev F.LDR_CTX_IMG.off (d c : Nat) : RF := ⟨0x100008 + 0x100000 * d + 0x80 * c, 8, 36⟩
abbrev F.LDR_CTX_BIND.rgn (d c : Nat) : RF := ⟨0x100010 + 0x100000 * d + 0x80 * c, 0, 6⟩
abbrev F.LDR_CTX_BIND.off (d c : Nat) : RF := ⟨0x100010 + 0x100000 * d + 0x80 * c, 8, 36⟩
abbrev F.LDR_CTX_CFG.diemap (d c : Nat) : RF := ⟨0x100018 + 0x100000 * d + 0x80 * c, 0, 8⟩
abbrev F.LDR_CTX_CFG.pen (d c : Nat) : RF := ⟨0x100018 + 0x100000 * d + 0x80 * c, 8, 1⟩
abbrev F.LDR_CTX_CFG.seed (d c : Nat) : RF := ⟨0x100018 + 0x100000 * d + 0x80 * c, 32, 32⟩
abbrev F.LDR_CTX_CMD.load (d c : Nat) : RF := ⟨0x100020 + 0x100000 * d + 0x80 * c, 0, 1⟩
abbrev F.LDR_CTX_CMD.start (d c : Nat) : RF := ⟨0x100020 + 0x100000 * d + 0x80 * c, 1, 1⟩
abbrev F.LDR_CTX_CMD.restore (d c : Nat) : RF := ⟨0x100020 + 0x100000 * d + 0x80 * c, 2, 1⟩
abbrev F.LDR_CTX_CMD.auto_start (d c : Nat) : RF := ⟨0x100020 + 0x100000 * d + 0x80 * c, 3, 1⟩
abbrev F.LDR_CTX_STATUS.state (d c : Nat) : RF := ⟨0x100028 + 0x100000 * d + 0x80 * c, 0, 4⟩
abbrev F.LDR_CTX_STATUS.err (d c : Nat) : RF := ⟨0x100028 + 0x100000 * d + 0x80 * c, 8, 8⟩
abbrev F.LDR_CTX_STATUS.model (d c : Nat) : RF := ⟨0x100028 + 0x100000 * d + 0x80 * c, 16, 2⟩
abbrev F.LDR_CTX_STATUS.reject (d c : Nat) : RF := ⟨0x100028 + 0x100000 * d + 0x80 * c, 18, 1⟩
abbrev F.LDR_CTX_STATUS.gesso_rows (d c : Nat) : RF := ⟨0x100028 + 0x100000 * d + 0x80 * c, 24, 8⟩
abbrev F.LDR_CTX_FAULT.tile (d c : Nat) : RF := ⟨0x100030 + 0x100000 * d + 0x80 * c, 0, 13⟩
abbrev F.LDR_CTX_FAULT.code (d c : Nat) : RF := ⟨0x100030 + 0x100000 * d + 0x80 * c, 16, 8⟩
abbrev F.LDR_CTX_FAULT.valid (d c : Nat) : RF := ⟨0x100030 + 0x100000 * d + 0x80 * c, 24, 1⟩
abbrev F.LDR_CAPS.models (d : Nat) : RF := ⟨0x103000 + 0x100000 * d, 0, 2⟩
abbrev F.PEN_CTL.avail (d : Nat) : RF := ⟨0x103100 + 0x100000 * d, 0, 1⟩
abbrev F.PEN_CTL.rate_log2 (d : Nat) : RF := ⟨0x103100 + 0x100000 * d, 1, 4⟩
abbrev F.PEN_CTL.ring_en (d : Nat) : RF := ⟨0x103100 + 0x100000 * d, 5, 1⟩
abbrev F.PEN_RING.rgn (d : Nat) : RF := ⟨0x103108 + 0x100000 * d, 0, 6⟩
abbrev F.PEN_RING.ctx (d : Nat) : RF := ⟨0x103108 + 0x100000 * d, 6, 6⟩
abbrev F.PEN_RING.size_log2 (d : Nat) : RF := ⟨0x103108 + 0x100000 * d, 12, 4⟩
abbrev F.PEN_RING.off (d : Nat) : RF := ⟨0x103108 + 0x100000 * d, 16, 36⟩
abbrev F.PEN_RPTR.tail (d : Nat) : RF := ⟨0x103110 + 0x100000 * d, 0, 32⟩
abbrev F.PEN_RPTR.head (d : Nat) : RF := ⟨0x103110 + 0x100000 * d, 32, 32⟩
abbrev F.PEN_CNT_DROP.count (d : Nat) : RF := ⟨0x103118 + 0x100000 * d, 0, 48⟩

/-! R470. -/
abbrev F.PERF_CTX.tile_rd (c : Nat) : RF := ⟨0x40000 + 0x8 * c, 0, 1⟩
abbrev F.PERF_CTX.tile_wr (c : Nat) : RF := ⟨0x40000 + 0x8 * c, 1, 1⟩
abbrev F.PERF_CTX.tile_smp (c : Nat) : RF := ⟨0x40000 + 0x8 * c, 2, 1⟩
abbrev F.PERF_TADDR.die : RF := ⟨0x40200, 0, 2⟩
abbrev F.PERF_TADDR.row : RF := ⟨0x40200, 2, 6⟩
abbrev F.PERF_TADDR.col : RF := ⟨0x40200, 8, 6⟩
abbrev F.PERF_TDATA.data (k : Nat) : RF := ⟨0x40240 + 0x8 * k, 0, 64⟩
abbrev F.PERF_HCLR.hbm : RF := ⟨0x40300, 0, 1⟩
abbrev F.PERF_HCLR.sync : RF := ⟨0x40300, 1, 1⟩
abbrev F.PERF_HCLR.flow : RF := ⟨0x40300, 2, 1⟩
abbrev F.HBM_SE_HROW.bin_lo (d k j : Nat) : RF := ⟨0x108080 + 0x100000 * d + 0x100 * k + 0x8 * j, 0, 32⟩
abbrev F.HBM_SE_HROW.bin_hi (d k j : Nat) : RF := ⟨0x108080 + 0x100000 * d + 0x100 * k + 0x8 * j, 32, 32⟩
abbrev F.HBM_SE_HXFR.bin_lo (d k j : Nat) : RF := ⟨0x1080C0 + 0x100000 * d + 0x100 * k + 0x8 * j, 0, 32⟩
abbrev F.HBM_SE_HXFR.bin_hi (d k j : Nat) : RF := ⟨0x1080C0 + 0x100000 * d + 0x100 * k + 0x8 * j, 32, 32⟩
abbrev F.HST_CTL.s_row (d : Nat) : RF := ⟨0x160000 + 0x100000 * d, 0, 4⟩
abbrev F.HST_CTL.s_xfer (d : Nat) : RF := ⟨0x160000 + 0x100000 * d, 4, 4⟩
abbrev F.HST_CTL.s_sync (d : Nat) : RF := ⟨0x160000 + 0x100000 * d, 8, 4⟩
abbrev F.HST_SYNC.bin_lo (d j : Nat) : RF := ⟨0x160040 + 0x100000 * d + 0x8 * j, 0, 32⟩
abbrev F.HST_SYNC.bin_hi (d j : Nat) : RF := ⟨0x160040 + 0x100000 * d + 0x8 * j, 32, 32⟩
abbrev F.SMP_RING.rgn (d : Nat) : RF := ⟨0x160100 + 0x100000 * d, 0, 6⟩
abbrev F.SMP_RING.ctx (d : Nat) : RF := ⟨0x160100 + 0x100000 * d, 6, 6⟩
abbrev F.SMP_RING.size_log2 (d : Nat) : RF := ⟨0x160100 + 0x100000 * d, 12, 4⟩
abbrev F.SMP_RING.off (d : Nat) : RF := ⟨0x160100 + 0x100000 * d, 16, 36⟩
abbrev F.SMP_RING.ring_en (d : Nat) : RF := ⟨0x160100 + 0x100000 * d, 52, 1⟩
abbrev F.SMP_RPTR.tail (d : Nat) : RF := ⟨0x160108 + 0x100000 * d, 0, 32⟩
abbrev F.SMP_RPTR.head (d : Nat) : RF := ⟨0x160108 + 0x100000 * d, 32, 32⟩
abbrev F.SMP_CNT_DROP.count (d : Nat) : RF := ⟨0x160110 + 0x100000 * d, 0, 48⟩
abbrev F.DPC_CNT.count (d k : Nat) : RF := ⟨0x161000 + 0x100000 * d + 0x8 * k, 0, 48⟩
abbrev F.DPC_SEL.sel (d j : Nat) : RF := ⟨0x161200 + 0x100000 * d + 0x8 * j, 0, 64⟩
abbrev F.DPC_EN.en (d : Nat) : RF := ⟨0x161240 + 0x100000 * d, 0, 64⟩
abbrev F.DPC_CHAIN.chain (d : Nat) : RF := ⟨0x161248 + 0x100000 * d, 0, 32⟩
abbrev F.DPC_OVF.ovf (d : Nat) : RF := ⟨0x161250 + 0x100000 * d, 0, 64⟩
abbrev F.DPC_HOLD.hold (d : Nat) : RF := ⟨0x161258 + 0x100000 * d, 0, 48⟩
abbrev F.DPC_FILT.ctx (d : Nat) : RF := ⟨0x161260 + 0x100000 * d, 0, 6⟩
abbrev F.DPC_FILT.en (d : Nat) : RF := ⟨0x161260 + 0x100000 * d, 6, 1⟩
abbrev F.FPC_CNT.count (f k : Nat) : RF := ⟨0x101A000 + 0x80000 * f + 0x8 * k, 0, 48⟩
abbrev F.FPC_SEL.sel (f j : Nat) : RF := ⟨0x101A200 + 0x80000 * f + 0x8 * j, 0, 64⟩
abbrev F.FPC_EN.en (f : Nat) : RF := ⟨0x101A240 + 0x80000 * f, 0, 64⟩
abbrev F.FPC_CHAIN.chain (f : Nat) : RF := ⟨0x101A248 + 0x80000 * f, 0, 32⟩
abbrev F.FPC_OVF.ovf (f : Nat) : RF := ⟨0x101A250 + 0x80000 * f, 0, 64⟩
abbrev F.FPC_HOLD.hold (f : Nat) : RF := ⟨0x101A258 + 0x80000 * f, 0, 48⟩
abbrev F.HST_FCTL.s_flow (f : Nat) : RF := ⟨0x101A400 + 0x80000 * f, 0, 4⟩
abbrev F.HST_FLOW.bin_lo (f j : Nat) : RF := ⟨0x101A440 + 0x80000 * f + 0x8 * j, 0, 32⟩
abbrev F.HST_FLOW.bin_hi (f j : Nat) : RF := ⟨0x101A440 + 0x80000 * f + 0x8 * j, 32, 32⟩

/-! R501. -/
abbrev F.MOD_ID.device : RF := ⟨0x0, 0, 16⟩
abbrev F.MOD_ID.stepping : RF := ⟨0x0, 16, 4⟩
abbrev F.MOD_SERIAL.serial : RF := ⟨0x8, 0, 64⟩
abbrev F.MOD_PROFILE.now : RF := ⟨0x10, 0, 2⟩
abbrev F.MOD_PROFILE.src : RF := ⟨0x10, 2, 2⟩
abbrev F.MOD_PROFILE.debug : RF := ⟨0x10, 4, 1⟩
abbrev F.MOD_PROFILE.strap_bad : RF := ⟨0x10, 5, 1⟩
abbrev F.MOD_PROFILE.next : RF := ⟨0x10, 8, 2⟩
abbrev F.MOD_PROFILE.next_v : RF := ⟨0x10, 10, 1⟩
abbrev F.MOD_LOCK.lock : RF := ⟨0x18, 0, 6⟩
abbrev F.MOD_CMD.reset : RF := ⟨0x20, 0, 1⟩
abbrev F.MOD_CMD.key : RF := ⟨0x20, 8, 8⟩
abbrev F.MOD_STATE.state : RF := ⟨0x28, 0, 2⟩
abbrev F.MOD_STATE.stage : RF := ⟨0x28, 4, 4⟩
abbrev F.MOD_STATE.cause : RF := ⟨0x28, 8, 3⟩
abbrev F.MOD_FUSECNT.svn : RF := ⟨0x30, 0, 7⟩
abbrev F.MOD_FUSECNT.rw0 : RF := ⟨0x30, 8, 9⟩
abbrev F.MOD_FUSECNT.rw1 : RF := ⟨0x30, 17, 9⟩
abbrev F.MOD_FUSECNT.rw2 : RF := ⟨0x30, 26, 9⟩
abbrev F.MOD_FUSECNT.rw3 : RF := ⟨0x30, 35, 9⟩
abbrev F.MOD_EAS.safe : RF := ⟨0x38, 0, 1⟩
abbrev F.MOD_EAS.wd_count : RF := ⟨0x38, 8, 8⟩
abbrev F.MOD_EAS.fw : RF := ⟨0x38, 16, 32⟩
abbrev F.MOD_DBG.avail : RF := ⟨0x40, 0, 1⟩
abbrev F.MOD_DBG.open : RF := ⟨0x40, 1, 1⟩
abbrev F.MOD_DBG.die : RF := ⟨0x40, 2, 2⟩
abbrev F.MOD_DBG.row : RF := ⟨0x40, 4, 6⟩

/-! R502. -/
abbrev F.HOST_CFG.keep_link : RF := ⟨0x50000, 0, 1⟩
abbrev F.HOST_STATUS.speed : RF := ⟨0x50008, 0, 3⟩
abbrev F.HOST_STATUS.width : RF := ⟨0x50008, 3, 5⟩
abbrev F.HOST_STATUS.flit : RF := ⟨0x50008, 8, 1⟩
abbrev F.HOST_STATUS.downs : RF := ⟨0x50008, 16, 32⟩
abbrev F.HOST_CNT_DROP.count : RF := ⟨0x50010, 0, 48⟩
abbrev F.HOST_APW.ctx (k : Nat) : RF := ⟨0x50100 + 0x8 * k, 0, 6⟩
abbrev F.HOST_APW.die (k : Nat) : RF := ⟨0x50100 + 0x8 * k, 6, 2⟩
abbrev F.HOST_APW.rgn (k : Nat) : RF := ⟨0x50100 + 0x8 * k, 8, 6⟩
abbrev F.HOST_APW.gran (k : Nat) : RF := ⟨0x50100 + 0x8 * k, 14, 15⟩
abbrev F.HOST_APW.valid (k : Nat) : RF := ⟨0x50100 + 0x8 * k, 29, 1⟩
abbrev F.HCTX_CTL.enable (c : Nat) : RF := ⟨0x50400 + 0x10 * c, 0, 1⟩
abbrev F.HCTX_CTL.reset (c : Nat) : RF := ⟨0x50400 + 0x10 * c, 1, 1⟩
abbrev F.HCTX_CTL.vec (c : Nat) : RF := ⟨0x50400 + 0x10 * c, 2, 11⟩
abbrev F.HCTX_CTL.msix_en (c : Nat) : RF := ⟨0x50400 + 0x10 * c, 13, 1⟩
abbrev F.HCTX_STATUS.state (c : Nat) : RF := ⟨0x50408 + 0x10 * c, 0, 2⟩
abbrev F.HCTX_STATUS.vf_en (c : Nat) : RF := ⟨0x50408 + 0x10 * c, 2, 1⟩
abbrev F.HCTX_STATUS.resets (c : Nat) : RF := ⟨0x50408 + 0x10 * c, 16, 32⟩

/-! R503. -/
abbrev F.EAS_CMD.code : RF := ⟨0x60000, 0, 8⟩
abbrev F.EAS_CMD.len : RF := ⟨0x60000, 8, 8⟩
abbrev F.EAS_CMD.tag : RF := ⟨0x60000, 16, 8⟩
abbrev F.EAS_STATUS.busy : RF := ⟨0x60008, 0, 1⟩
abbrev F.EAS_STATUS.done : RF := ⟨0x60008, 1, 1⟩
abbrev F.EAS_STATUS.status : RF := ⟨0x60008, 8, 8⟩
abbrev F.EAS_STATUS.tag : RF := ⟨0x60008, 16, 8⟩
abbrev F.EAS_STATUS.rlen : RF := ⟨0x60008, 24, 8⟩
abbrev F.EAS_CFG.vector : RF := ⟨0x60010, 0, 11⟩
abbrev F.EAS_CFG.msix_en : RF := ⟨0x60010, 11, 1⟩
abbrev F.EAS_DATA.data (j : Nat) : RF := ⟨0x60100 + 0x8 * j, 0, 64⟩

/-! R524. -/
abbrev F.PWR_IN.vmain : RF := ⟨0x20000, 0, 16⟩
abbrev F.PWR_IN.imain : RF := ⟨0x20000, 16, 16⟩
abbrev F.PWR_IN.pin_1ms : RF := ⟨0x20000, 32, 16⟩
abbrev F.PWR_IN.vaux : RF := ⟨0x20000, 48, 16⟩
abbrev F.PWR_LIMIT.limit : RF := ⟨0x20008, 0, 12⟩
abbrev F.PWR_STATUS.rails : RF := ⟨0x20010, 0, 7⟩
abbrev F.PWR_STATUS.capping : RF := ⟨0x20010, 7, 1⟩
abbrev F.PWR_STATUS.cfg_reject : RF := ⟨0x20010, 8, 1⟩
abbrev F.PWR_STATUS.fail_rail : RF := ⟨0x20010, 9, 3⟩
abbrev F.PWR_CNT_CAP.count : RF := ⟨0x20018, 0, 48⟩
abbrev F.PWR_FAB_TEMP.w : RF := ⟨0x20020, 0, 8⟩
abbrev F.PWR_FAB_TEMP.e : RF := ⟨0x20020, 8, 8⟩
abbrev F.PWR_DIE_CLK.ceil (d : Nat) : RF := ⟨0x20100 + 0x40 * d, 0, 12⟩
abbrev F.PWR_DIE_CLK.now (d : Nat) : RF := ⟨0x20100 + 0x40 * d, 12, 12⟩
abbrev F.PWR_DIE_CLK.tstep (d : Nat) : RF := ⟨0x20100 + 0x40 * d, 24, 5⟩
abbrev F.PWR_DIE_CLK.pstep (d : Nat) : RF := ⟨0x20100 + 0x40 * d, 29, 5⟩
abbrev F.PWR_DIE_CLK.stretch (d : Nat) : RF := ⟨0x20100 + 0x40 * d, 34, 2⟩
abbrev F.PWR_DIE_DROOP.thr1 (d : Nat) : RF := ⟨0x20108 + 0x40 * d, 0, 6⟩
abbrev F.PWR_DIE_DROOP.thr2 (d : Nat) : RF := ⟨0x20108 + 0x40 * d, 8, 6⟩
abbrev F.PWR_DIE_TEMP.tj (d : Nat) : RF := ⟨0x20110 + 0x40 * d, 0, 8⟩
abbrev F.PWR_DIE_TEMP.sensors (d : Nat) : RF := ⟨0x20110 + 0x40 * d, 8, 5⟩
abbrev F.PWR_DIE_TEMP.hbm (d : Nat) : RF := ⟨0x20110 + 0x40 * d, 16, 8⟩
abbrev F.PWR_DIE_CNT_TRIP.count (d : Nat) : RF := ⟨0x20118 + 0x40 * d, 0, 48⟩
abbrev F.PWR_DIE_CNT_LOSS.count (d : Nat) : RF := ⟨0x20120 + 0x40 * d, 0, 48⟩
abbrev F.PWR_DIE_CNT_TTICK.count (d : Nat) : RF := ⟨0x20128 + 0x40 * d, 0, 48⟩
abbrev F.PWR_DIE_LTICK.tick (d : Nat) : RF := ⟨0x20130 + 0x40 * d, 0, 48⟩

/-! Fields of the tile registers (keys are offsets in the tile control and status block). -/


/-! R99. -/
abbrev TF.TILE_SELF.tile_id : RF := ⟨0x0, 0, 13⟩
abbrev TF.TILE_SELF.phys_col : RF := ⟨0x0, 16, 6⟩
abbrev TF.TILE_SELF.context : RF := ⟨0x0, 24, 6⟩
abbrev TF.TILE_SELF.role_epoch : RF := ⟨0x0, 32, 8⟩
abbrev TF.TILE_ENTRY.entry : RF := ⟨0x8, 3, 18⟩
abbrev TF.TILE_SEQ_STATUS.state : RF := ⟨0x10, 0, 3⟩
abbrev TF.TILE_SEQ_STATUS.loop_depth : RF := ⟨0x10, 8, 3⟩
abbrev TF.TILE_SEQ_STATUS.pc : RF := ⟨0x10, 16, 21⟩
abbrev TF.TILE_FAULT.code : RF := ⟨0x18, 0, 8⟩
abbrev TF.TILE_FAULT.pc : RF := ⟨0x18, 16, 21⟩
abbrev TF.TILE_TOKENS.untracked : RF := ⟨0x20, 0, 1⟩
abbrev TF.TILE_TOKENS.pending : RF := ⟨0x20, 1, 31⟩
abbrev TF.TILE_TOKST.status : RF := ⟨0x28, 2, 62⟩
abbrev TF.TILE_SPOISON.tag : RF := ⟨0x30, 1, 31⟩
abbrev TF.TILE_QUEUES.muller : RF := ⟨0x38, 0, 5⟩
abbrev TF.TILE_QUEUES.glaze : RF := ⟨0x38, 8, 5⟩
abbrev TF.TILE_QUEUES.stream : RF := ⟨0x38, 16, 5⟩
abbrev TF.TILE_QUEUES.exch : RF := ⟨0x38, 24, 5⟩
abbrev TF.TILE_QUEUES.fabric : RF := ⟨0x38, 32, 5⟩
abbrev TF.TILE_QUEUES.sync : RF := ⟨0x38, 40, 5⟩

/-! R131. -/
abbrev TF.PAL_CTRL.patrol : RF := ⟨0x40, 0, 1⟩
abbrev TF.PAL_STATUS.part_reject : RF := ⟨0x48, 0, 1⟩
abbrev TF.PAL_STATUS.rx_reject : RF := ⟨0x48, 1, 1⟩
abbrev TF.PAL_STATUS.rel_reject : RF := ⟨0x48, 2, 1⟩
abbrev TF.PAL_CNT_CE.count : RF := ⟨0x50, 0, 48⟩
abbrev TF.PAL_CNT_UE.count : RF := ⟨0x58, 0, 48⟩
abbrev TF.PAL_CNT_CONFLICT.count : RF := ⟨0x60, 0, 48⟩
abbrev TF.PAL_CNT_PVIOL.count : RF := ⟨0x68, 0, 48⟩
abbrev TF.PAL_CNT_CREDIT.count : RF := ⟨0x70, 0, 48⟩
abbrev TF.PAL_ELOG.seg : RF := ⟨0x78, 4, 17⟩
abbrev TF.PAL_ELOG.ue : RF := ⟨0x78, 21, 1⟩
abbrev TF.PAL_ELOG.syndrome : RF := ⟨0x78, 22, 9⟩
abbrev TF.PAL_ELOG.valid : RF := ⟨0x78, 31, 1⟩
abbrev TF.PAL_PART.base (k : Nat) : RF := ⟨0x80 + 0x8 * k, 0, 15⟩
abbrev TF.PAL_PART.size (k : Nat) : RF := ⟨0x80 + 0x8 * k, 16, 16⟩
abbrev TF.PAL_PART.kind (k : Nat) : RF := ⟨0x80 + 0x8 * k, 32, 3⟩
abbrev TF.PAL_PART.seq_r (k : Nat) : RF := ⟨0x80 + 0x8 * k, 36, 1⟩
abbrev TF.PAL_PART.seq_w (k : Nat) : RF := ⟨0x80 + 0x8 * k, 37, 1⟩
abbrev TF.PAL_PART.eng_r (k : Nat) : RF := ⟨0x80 + 0x8 * k, 38, 1⟩
abbrev TF.PAL_PART.eng_w (k : Nat) : RF := ⟨0x80 + 0x8 * k, 39, 1⟩
abbrev TF.PAL_PART.xrecv (k : Nat) : RF := ⟨0x80 + 0x8 * k, 40, 1⟩
abbrev TF.PAL_PART.frecv (k : Nat) : RF := ⟨0x80 + 0x8 * k, 41, 1⟩
abbrev TF.PAL_PART.rx_slot (k : Nat) : RF := ⟨0x80 + 0x8 * k, 44, 2⟩
abbrev TF.PAL_PART.lock (k : Nat) : RF := ⟨0x80 + 0x8 * k, 48, 1⟩
abbrev TF.PAL_RXCFG.flow_id (k : Nat) : RF := ⟨0x100 + 0x20 * k, 0, 14⟩
abbrev TF.PAL_RXCFG.epoch (k : Nat) : RF := ⟨0x100 + 0x20 * k, 14, 8⟩
abbrev TF.PAL_RXCFG.buf_rows_m1 (k : Nat) : RF := ⟨0x100 + 0x20 * k, 22, 12⟩
abbrev TF.PAL_RXCFG.nbuf_m1 (k : Nat) : RF := ⟨0x100 + 0x20 * k, 34, 6⟩
abbrev TF.PAL_RXCFG.enable (k : Nat) : RF := ⟨0x100 + 0x20 * k, 40, 1⟩
abbrev TF.PAL_RXCFG.sig_en (k : Nat) : RF := ⟨0x100 + 0x20 * k, 41, 1⟩
abbrev TF.PAL_RXCFG.vcid (k : Nat) : RF := ⟨0x100 + 0x20 * k, 48, 16⟩
abbrev TF.PAL_RXCNT.filled (k : Nat) : RF := ⟨0x108 + 0x20 * k, 0, 24⟩
abbrev TF.PAL_RXCNT.released (k : Nat) : RF := ⟨0x108 + 0x20 * k, 24, 24⟩
abbrev TF.PAL_RXREL.count (k : Nat) : RF := ⟨0x110 + 0x20 * k, 0, 7⟩
abbrev TF.PAL_RXOPEN.open (k : Nat) : RF := ⟨0x118 + 0x20 * k, 0, 64⟩

/-! R158. -/
abbrev TF.STIP_SEED.seed : RF := ⟨0x180, 0, 32⟩
abbrev TF.STIP_BASE.microbatch : RF := ⟨0x188, 0, 16⟩
abbrev TF.STIP_BASE.step : RF := ⟨0x188, 16, 48⟩
abbrev TF.NUM_CNT_NAN.count : RF := ⟨0x190, 0, 48⟩
abbrev TF.NUM_CNT_OVF.count : RF := ⟨0x198, 0, 48⟩

/-! R187. -/
abbrev TF.MUL_CTRL.ck_poison : RF := ⟨0x1A0, 0, 1⟩
abbrev TF.MUL_STATUS.busy : RF := ⟨0x1A8, 0, 1⟩
abbrev TF.MUL_STATUS.op : RF := ⟨0x1A8, 1, 2⟩
abbrev TF.MUL_STATUS.blk_busy : RF := ⟨0x1A8, 8, 8⟩
abbrev TF.MUL_BLKMARK.mark : RF := ⟨0x1B0, 0, 8⟩
abbrev TF.MUL_CKLOG.blk : RF := ⟨0x1B8, 0, 3⟩
abbrev TF.MUL_CKLOG.row : RF := ⟨0x1B8, 8, 5⟩
abbrev TF.MUL_CKLOG.row_v : RF := ⟨0x1B8, 13, 1⟩
abbrev TF.MUL_CKLOG.col : RF := ⟨0x1B8, 16, 5⟩
abbrev TF.MUL_CKLOG.col_v : RF := ⟨0x1B8, 21, 1⟩
abbrev TF.MUL_CKLOG.residue : RF := ⟨0x1B8, 22, 1⟩
abbrev TF.MUL_CKLOG.valid : RF := ⟨0x1B8, 31, 1⟩
abbrev TF.MUL_CNT_CKSUM.count : RF := ⟨0x1C0, 0, 48⟩
abbrev TF.MUL_CNT_CKSKIP.count : RF := ⟨0x1C8, 0, 48⟩
abbrev TF.MUL_CNT_POISON.count : RF := ⟨0x1D0, 0, 48⟩
abbrev TF.MUL_CNT_INVALID.count : RF := ⟨0x1D8, 0, 48⟩
abbrev TF.MUL_CNT_ACONF.count : RF := ⟨0x1E0, 0, 48⟩

/-! R216. -/
abbrev TF.GLZ_STATUS.busy : RF := ⟨0x1F0, 0, 1⟩
abbrev TF.GLZ_STATUS.ovl_active : RF := ⟨0x1F0, 1, 1⟩
abbrev TF.GLZ_STATUS.seg : RF := ⟨0x1F0, 16, 16⟩
abbrev TF.GLZ_ERRLOG.code : RF := ⟨0x1F8, 0, 4⟩
abbrev TF.GLZ_ERRLOG.stage : RF := ⟨0x1F8, 4, 3⟩
abbrev TF.GLZ_ERRLOG.valid : RF := ⟨0x1F8, 31, 1⟩
abbrev TF.GLZ_CNT_INVALID.count : RF := ⟨0x200, 0, 48⟩
abbrev TF.GLZ_CNT_POISON.count : RF := ⟨0x208, 0, 48⟩
abbrev TF.GLZ_CNT_SKIP.count : RF := ⟨0x210, 0, 48⟩

/-! R235. -/
abbrev TF.XCH_WIN.lo : RF := ⟨0x218, 0, 16⟩
abbrev TF.XCH_WIN.hi : RF := ⟨0x218, 16, 16⟩
abbrev TF.XCH_WIN.en : RF := ⟨0x218, 32, 1⟩
abbrev TF.XCH_STATUS.phase : RF := ⟨0x220, 0, 1⟩
abbrev TF.XCH_STATUS.slipped : RF := ⟨0x220, 1, 1⟩
abbrev TF.XCH_STATUS.xlen : RF := ⟨0x220, 16, 16⟩
abbrev TF.XCH_STATUS.pcyc : RF := ⟨0x220, 32, 16⟩
abbrev TF.XCH_COLLOG.kept : RF := ⟨0x228, 0, 13⟩
abbrev TF.XCH_COLLOG.dropped : RF := ⟨0x228, 16, 13⟩
abbrev TF.XCH_COLLOG.valid : RF := ⟨0x228, 31, 1⟩
abbrev TF.XCH_COLLOG.pcyc : RF := ⟨0x228, 32, 16⟩
abbrev TF.XCH_CNT_COLL.count : RF := ⟨0x230, 0, 48⟩
abbrev TF.XCH_CNT_LATE.count : RF := ⟨0x238, 0, 48⟩
abbrev TF.XCH_CNT_WIN.count : RF := ⟨0x240, 0, 48⟩
abbrev TF.XCH_CNT_SLIP.count : RF := ⟨0x248, 0, 48⟩
abbrev TF.XCH_CNT_DEST.count : RF := ⟨0x250, 0, 48⟩

/-! R356. -/
abbrev TF.MBS_REL.id (k : Nat) : RF := ⟨0x258 + 0x8 * k, 0, 8⟩
abbrev TF.MBS_REL.phase (k : Nat) : RF := ⟨0x258 + 0x8 * k, 8, 2⟩
abbrev TF.MBS_REL.unit (k : Nat) : RF := ⟨0x258 + 0x8 * k, 10, 10⟩
abbrev TF.MBS_REL.step (k : Nat) : RF := ⟨0x258 + 0x8 * k, 20, 36⟩

/-! R460. -/
abbrev TF.PEN_CNT_RBW.count : RF := ⟨0x298, 0, 48⟩
abbrev TF.PEN_CNT_UNINIT.count : RF := ⟨0x2A0, 0, 48⟩
abbrev TF.PEN_CNT_WAW.count : RF := ⟨0x2A8, 0, 48⟩
abbrev TF.PEN_CNT_WAR.count : RF := ⟨0x2B0, 0, 48⟩
abbrev TF.PEN_CNT_ACC.count : RF := ⟨0x2B8, 0, 48⟩

/-! R470. -/
abbrev TF.TPC_CNT.count (k : Nat) : RF := ⟨0x2C0 + 0x8 * k, 0, 48⟩
abbrev TF.TPC_SEL.sel : RF := ⟨0x300, 0, 64⟩
abbrev TF.TPC_CTL.en : RF := ⟨0x308, 0, 8⟩
abbrev TF.TPC_CTL.chain : RF := ⟨0x308, 8, 4⟩
abbrev TF.TPC_CTL.freeze : RF := ⟨0x308, 12, 1⟩
abbrev TF.TPC_OVF.ovf : RF := ⟨0x310, 0, 8⟩
abbrev TF.TPC_HOLD.hold : RF := ⟨0x318, 0, 48⟩
abbrev TF.TPC_SMP.en : RF := ⟨0x320, 0, 1⟩
abbrev TF.TPC_SMP.cnt : RF := ⟨0x320, 1, 3⟩
abbrev TF.TPC_SMP.int_log2 : RF := ⟨0x320, 4, 5⟩

/-! Fields of the VF context page. -/


/-! R504. -/
abbrev VF.VFC_STATUS.status (c : Nat) : RF := ⟨0x0 + 0x1000 * c, 0, 64⟩
abbrev VF.VFC_APW.ctx (c k : Nat) : RF := ⟨0x8 + 0x1000 * c + 0x8 * k, 0, 6⟩
abbrev VF.VFC_APW.die (c k : Nat) : RF := ⟨0x8 + 0x1000 * c + 0x8 * k, 6, 2⟩
abbrev VF.VFC_APW.rgn (c k : Nat) : RF := ⟨0x8 + 0x1000 * c + 0x8 * k, 8, 6⟩
abbrev VF.VFC_APW.gran (c k : Nat) : RF := ⟨0x8 + 0x1000 * c + 0x8 * k, 14, 15⟩
abbrev VF.VFC_APW.valid (c k : Nat) : RF := ⟨0x8 + 0x1000 * c + 0x8 * k, 29, 1⟩
abbrev VF.VFC_LDR.ldr (c d : Nat) : RF := ⟨0x40 + 0x1000 * c + 0x8 * d, 0, 64⟩
abbrev VF.VFC_RGN.rgn (c d k : Nat) : RF := ⟨0x800 + 0x1000 * c + 0x200 * d + 0x8 * k, 0, 64⟩

/-- The module registers, part 0. -/
def moduleRegs0 : List RegDesc := [
  /- TICK_ROLE -/ ⟨0x10000, [], 0x0, 0x0, 0x0, 0x0, [(5, 0x3)], 0x0, true, false⟩,
  /- TICK_CTRL -/ ⟨0x10008, [], 0x1, 0x0, 0x0, 0x0, [], 0x0, true, false⟩,
  /- TICK_PERIOD -/ ⟨0x10010, [], 0xFFFFFF, 0x0, 0x0, 0x0, [], 0x4C4B4, true, false⟩,
  /- TICK_HOLD_LIMIT -/ ⟨0x10018, [], 0xFFFFFF, 0x0, 0x0, 0x0, [], 0x0, true, false⟩,
  /- TICK_HOLD_LEAD -/ ⟨0x10020, [], 0xFFFF, 0x0, 0x0, 0x0, [], 0x1388, false, false⟩,
  /- TICK_NUMBER -/ ⟨0x10028, [], 0x0, 0x0, 0x0, 0x0, [], 0x0, false, false⟩,
  /- TICK_NEXT -/ ⟨0x10030, [], 0xFFFFFFFFFFFFFFFF, 0x0, 0x0, 0x0, [], 0x1, true, false⟩,
  /- TICK_PEERS -/ ⟨0x10038, [], 0x0, 0x0, 0x0, 0x0, [], 0x0, false, false⟩,
  /- TICK_RTT -/ ⟨0x10040, [], 0x0, 0x0, 0x0, 0xFFFFFF00000000, [], 0x0, false, false⟩,
  /- TICK_STATUS -/ ⟨0x10048, [], 0x0, 0x74, 0x0, 0x0, [], 0x180, false, false⟩,
  /- TICK_CTX_BIND -/ ⟨0x10050, [], 0xFFFFFFFFFFFFFFFF, 0x0, 0x0, 0x0, [], 0x0, true, false⟩,
  /- TICK_CTX_READY -/ ⟨0x10058, [], 0x0, 0x0, 0x0, 0x0, [], 0x0, false, false⟩,
  /- TICK_CNT_HOLD -/ ⟨0x10060, [], 0x0, 0x0, 0x0, 0x0, [], 0x0, false, false⟩,
  /- TICK_CNT_HOLD_FC -/ ⟨0x10068, [], 0x0, 0x0, 0x0, 0x0, [], 0x0, false, false⟩,
  /- TICK_CNT_DUP -/ ⟨0x10070, [], 0x0, 0x0, 0x0, 0x0, [], 0x0, false, false⟩,
  /- TICK_CNT_GAP -/ ⟨0x10078, [], 0x0, 0x0, 0x0, 0x0, [], 0x0, false, false⟩,
  /- TICK_CNT_OVERRUN -/ ⟨0x10080, [], 0x0, 0x0, 0x0, 0x0, [], 0x0, false, false⟩,
  /- TICK_CNT_ROLE -/ ⟨0x10088, [], 0x0, 0x0, 0x0, 0x0, [], 0x0, false, false⟩,
  /- TICK_CNT_DOM_HOLD -/ ⟨0x10090, [], 0x0, 0x0, 0x0, 0x0, [], 0x0, false, false⟩,
  /- TICK_CNT_DELAYED -/ ⟨0x10098, [], 0x0, 0x0, 0x0, 0x0, [], 0x0, false, false⟩,
  /- TICK_CNT_DELAY_FC -/ ⟨0x100A0, [], 0x0, 0x0, 0x0, 0x0, [], 0x0, false, false⟩,
  /- TICK_CNT_LATE_HOLD -/ ⟨0x100A8, [], 0x0, 0x0, 0x0, 0x0, [], 0x0, false, false⟩,
  /- TICK_CNT_BADCFG -/ ⟨0x100B0, [], 0x0, 0x0, 0x0, 0x0, [], 0x0, false, false⟩,
  /- TICK_HOLDSET -/ ⟨0x10100, [(256, 0x8)], 0x0, 0x0, 0x0, 0x0, [], 0x0, false, false⟩,
  /- DIE_TMAP -/ ⟨0x104000, [(4, 0x100000), (48, 0x8)], 0x0, 0x0, 0x0, 0x0, [], 0x0, false, false⟩]

/-- The module registers, part 1. -/
def moduleRegs1 : List RegDesc := [
  /- DIE_TMAP_NEXT -/ ⟨0x104200, [(4, 0x100000), (48, 0x8)], 0x0, 0x0, 0x0, 0x0, [(4, 0xFFFFFFFFFFFFFFF)], 0x0, true, false⟩,
  /- DIE_TMAP_CTL -/ ⟨0x104400, [(4, 0x100000)], 0x0, 0x1000000000000, 0x0, 0x0, [], 0x0, false, false⟩,
  /- HBM_SE_CTL -/ ⟨0x108000, [(4, 0x100000), (6, 0x100)], 0x1, 0x0, 0x0, 0x0, [], 0x1, true, false⟩,
  /- HBM_SE_STATUS -/ ⟨0x108008, [(4, 0x100000), (6, 0x100)], 0x0, 0x0, 0x0, 0x0, [], 0x0, false, false⟩,
  /- HBM_SE_CNT_ROWS -/ ⟨0x108010, [(4, 0x100000), (6, 0x100)], 0x0, 0x0, 0x0, 0x0, [], 0x0, false, false⟩,
  /- HBM_SE_CNT_CE -/ ⟨0x108018, [(4, 0x100000), (6, 0x100)], 0x0, 0x0, 0x0, 0x0, [], 0x0, false, false⟩,
  /- HBM_SE_CNT_UE -/ ⟨0x108020, [(4, 0x100000), (6, 0x100)], 0x0, 0x0, 0x0, 0x0, [], 0x0, false, false⟩,
  /- HBM_SE_CNT_RGN -/ ⟨0x108028, [(4, 0x100000), (6, 0x100)], 0x0, 0x0, 0x0, 0x0, [], 0x0, false, false⟩,
  /- HBM_SE_CNT_INVAL -/ ⟨0x108030, [(4, 0x100000), (6, 0x100)], 0x0, 0x0, 0x0, 0x0, [], 0x0, false, false⟩,
  /- HBM_SE_ELOG -/ ⟨0x108038, [(4, 0x100000), (6, 0x100)], 0x0, 0x0, 0x0, 0x8000000000000000, [], 0x0, false, false⟩,
  /- HBM_SEMAP -/ ⟨0x108800, [(4, 0x100000)], 0x3FFFF, 0x0, 0x0, 0x0, [], 0x2C688, true, false⟩,
  /- HBM_SCRUB -/ ⟨0x108810, [(4, 0x100000), (6, 0x8)], 0x0, 0x0, 0x0, 0x0, [], 0x0, false, false⟩,
  /- HBM_RGN_CTL -/ ⟨0x108840, [(4, 0x100000)], 0x0, 0x3, 0x0, 0x0, [], 0x0, false, false⟩,
  /- HBM_RGN -/ ⟨0x110000, [(4, 0x100000), (64, 0x200), (64, 0x8)], 0x9FFFFF7FFF, 0x0, 0x0, 0x0, [], 0x0, true, false⟩,
  /- FAB_PORT_CTL -/ ⟨0x1000000, [(2, 0x80000), (24, 0x100)], 0x7, 0x0, 0x0, 0x0, [], 0x0, false, false⟩,
  /- FAB_PORT_STATUS -/ ⟨0x1000008, [(2, 0x80000), (24, 0x100)], 0x0, 0x0, 0x0, 0x0, [], 0x0, false, false⟩,
  /- FAB_PORT_PEER -/ ⟨0x1000010, [(2, 0x80000), (24, 0x100)], 0x0, 0x0, 0x0, 0x0, [], 0x0, false, false⟩,
  /- FAB_PORT_CNT_TX -/ ⟨0x1000018, [(2, 0x80000), (24, 0x100)], 0x0, 0x0, 0x0, 0x0, [], 0x0, false, false⟩,
  /- FAB_PORT_CNT_RX -/ ⟨0x1000020, [(2, 0x80000), (24, 0x100)], 0x0, 0x0, 0x0, 0x0, [], 0x0, false, false⟩,
  /- FAB_PORT_CNT_FECC -/ ⟨0x1000028, [(2, 0x80000), (24, 0x100)], 0x0, 0x0, 0x0, 0x0, [], 0x0, false, false⟩,
  /- FAB_PORT_CNT_FECU -/ ⟨0x1000030, [(2, 0x80000), (24, 0x100)], 0x0, 0x0, 0x0, 0x0, [], 0x0, false, false⟩,
  /- FAB_PORT_CNT_RETRY -/ ⟨0x1000038, [(2, 0x80000), (24, 0x100)], 0x0, 0x0, 0x0, 0x0, [], 0x0, false, false⟩,
  /- FAB_PORT_CNT_DOWN -/ ⟨0x1000040, [(2, 0x80000), (24, 0x100)], 0x0, 0x0, 0x0, 0x0, [], 0x0, false, false⟩,
  /- FAB_PORT_CNT_VC3WAIT -/ ⟨0x1000048, [(2, 0x80000), (24, 0x100)], 0x0, 0x0, 0x0, 0x0, [], 0x0, false, false⟩,
  /- FAB_CTL -/ ⟨0x1018000, [(2, 0x80000)], 0xFFFFFFFFFF01, 0x0, 0x0, 0x0, [], 0x1312D0004001, false, false⟩]

/-- The module registers, part 2. -/
def moduleRegs2 : List RegDesc := [
  /- FAB_STATUS -/ ⟨0x1018008, [(2, 0x80000)], 0x0, 0x1, 0x0, 0x0, [], 0x0, false, false⟩,
  /- FAB_NODE -/ ⟨0x1018010, [(2, 0x80000)], 0x7FFF, 0x0, 0x0, 0x0, [], 0x0, false, false⟩,
  /- FAB_PORTSEL -/ ⟨0x1018018, [(2, 0x80000)], 0xFFFFFF, 0x0, 0x0, 0x0, [], 0x0, false, false⟩,
  /- FAB_BCAST -/ ⟨0x1018020, [(2, 0x80000), (2, 0x8)], 0xFFFFFF7F, 0x0, 0x0, 0x0, [], 0x0, false, false⟩,
  /- FAB_LASER -/ ⟨0x1018030, [(2, 0x80000)], 0x0, 0x4, 0x0, 0x0, [], 0x0, false, false⟩,
  /- FAB_CNT_HDR -/ ⟨0x1018040, [(2, 0x80000)], 0x0, 0x0, 0x0, 0x0, [], 0x0, false, false⟩,
  /- FAB_CNT_ROUTE -/ ⟨0x1018048, [(2, 0x80000)], 0x0, 0x0, 0x0, 0x0, [], 0x0, false, false⟩,
  /- FAB_CNT_TTL -/ ⟨0x1018050, [(2, 0x80000)], 0x0, 0x0, 0x0, 0x0, [], 0x0, false, false⟩,
  /- FAB_CNT_LOOP -/ ⟨0x1018058, [(2, 0x80000)], 0x0, 0x0, 0x0, 0x0, [], 0x0, false, false⟩,
  /- FAB_CNT_DETOUR -/ ⟨0x1018060, [(2, 0x80000)], 0x0, 0x0, 0x0, 0x0, [], 0x0, false, false⟩,
  /- FAB_CNT_CREDIT -/ ⟨0x1018068, [(2, 0x80000)], 0x0, 0x0, 0x0, 0x0, [], 0x0, false, false⟩,
  /- FAB_CNT_EPOCH -/ ⟨0x1018070, [(2, 0x80000)], 0x0, 0x0, 0x0, 0x0, [], 0x0, false, false⟩,
  /- FAB_CNT_NACK -/ ⟨0x1018078, [(2, 0x80000)], 0x0, 0x0, 0x0, 0x0, [], 0x0, false, false⟩,
  /- FAB_CNT_LOST -/ ⟨0x1018080, [(2, 0x80000)], 0x0, 0x0, 0x0, 0x0, [], 0x0, false, false⟩,
  /- FAB_CNT_INVAL -/ ⟨0x1018088, [(2, 0x80000)], 0x0, 0x0, 0x0, 0x0, [], 0x0, false, false⟩,
  /- FAB_CNT_LASER -/ ⟨0x1018090, [(2, 0x80000)], 0x0, 0x0, 0x0, 0x0, [], 0x0, false, false⟩,
  /- FAB_CNT_EPOCHIN -/ ⟨0x1018098, [(2, 0x80000)], 0x0, 0x0, 0x0, 0x0, [], 0x0, false, false⟩,
  /- FAB_ROUTE -/ ⟨0x1020000, [(2, 0x80000), (16384, 0x8)], 0xFFFFFFF, 0x0, 0x0, 0x0, [], 0x0, false, false⟩,
  /- FAB_FLOW_W0 -/ ⟨0x1040000, [(2, 0x80000), (8192, 0x20)], 0x1FFF3FFFFF7FF8, 0x0, 0x0, 0x0, [], 0x0, true, false⟩,
  /- FAB_FLOW_W1 -/ ⟨0x1040008, [(2, 0x80000), (8192, 0x20)], 0x0, 0x0, 0x0, 0x0, [], 0x0, false, false⟩,
  /- FAB_FLOW_W2 -/ ⟨0x1040010, [(2, 0x80000), (8192, 0x20)], 0x0, 0x0, 0x0, 0x0, [], 0x0, false, false⟩,
  /- FAB_FLOW_W3 -/ ⟨0x1040018, [(2, 0x80000), (8192, 0x20)], 0xFFFFFFFFFFFFFF, 0x0, 0x0, 0x0, [], 0x0, false, false⟩,
  /- BLD_CTL -/ ⟨0x1019000, [(2, 0x80000)], 0x1, 0x0, 0x0, 0x0, [], 0x1, false, false⟩,
  /- BLD_STATUS -/ ⟨0x1019008, [(2, 0x80000)], 0x0, 0x2, 0x0, 0x0, [], 0x0, false, false⟩,
  /- BLD_ACC_ADDR -/ ⟨0x1019010, [(2, 0x80000)], 0xFFFFF, 0x0, 0x0, 0x0, [], 0x0, false, false⟩]

/-- The module registers, part 3. -/
def moduleRegs3 : List RegDesc := [
  /- BLD_ACC_CMD -/ ⟨0x1019018, [(2, 0x80000)], 0x0, 0x0, 0x0, 0x0, [], 0x0, true, false⟩,
  /- BLD_ACC_DATA -/ ⟨0x1019040, [(2, 0x80000), (8, 0x8)], 0xFFFFFFFFFFFFFFFF, 0x0, 0x0, 0x0, [], 0x0, false, false⟩,
  /- BLD_CNT_WIDE -/ ⟨0x1019080, [(2, 0x80000)], 0x0, 0x0, 0x0, 0x0, [], 0x0, false, false⟩,
  /- BLD_CNT_FLAG -/ ⟨0x1019088, [(2, 0x80000)], 0x0, 0x0, 0x0, 0x0, [], 0x0, false, false⟩,
  /- BLD_CNT_NAN -/ ⟨0x1019090, [(2, 0x80000)], 0x0, 0x0, 0x0, 0x0, [], 0x0, false, false⟩,
  /- BLD_CNT_EXP -/ ⟨0x1019098, [(2, 0x80000)], 0x0, 0x0, 0x0, 0x0, [], 0x0, false, false⟩,
  /- BLD_CNT_PROTO -/ ⟨0x10190A0, [(2, 0x80000)], 0x0, 0x0, 0x0, 0x0, [], 0x0, false, false⟩,
  /- BLD_CNT_RAISE -/ ⟨0x10190A8, [(2, 0x80000)], 0x0, 0x0, 0x0, 0x0, [], 0x0, false, false⟩,
  /- BLD_CNT_LOWER -/ ⟨0x10190B0, [(2, 0x80000)], 0x0, 0x0, 0x0, 0x0, [], 0x0, false, false⟩,
  /- BLD_CNT_CE -/ ⟨0x10190B8, [(2, 0x80000)], 0x0, 0x0, 0x0, 0x0, [], 0x0, false, false⟩,
  /- BLD_CNT_UE -/ ⟨0x10190C0, [(2, 0x80000)], 0x0, 0x0, 0x0, 0x0, [], 0x0, false, false⟩,
  /- BLD_CNT_DELIV -/ ⟨0x10190C8, [(2, 0x80000)], 0x0, 0x0, 0x0, 0x0, [], 0x0, false, false⟩,
  /- SYNW_VAL -/ ⟨0x2000000, [(64, 0x10000), (4096, 0x8)], 0x0, 0x0, 0x0, 0x0, [], 0x0, false, true⟩,
  /- SYNW_SEL -/ ⟨0x2008000, [(64, 0x10000)], 0xFFFF, 0x0, 0x0, 0x0, [], 0x0, false, false⟩,
  /- SYNW_SELVAL -/ ⟨0x2008008, [(64, 0x10000)], 0x0, 0x0, 0x0, 0x0, [], 0x0, false, true⟩,
  /- SYNW_SELABS -/ ⟨0x2008010, [(64, 0x10000)], 0x0, 0x0, 0x0, 0x0, [], 0x0, false, true⟩,
  /- SYNW_HWAIT_W0 -/ ⟨0x2008100, [(64, 0x10000), (64, 0x20)], 0xFFFFFFFFFFFF, 0x0, 0x0, 0x0, [], 0x0, true, false⟩,
  /- SYNW_HWAIT_W1 -/ ⟨0x2008108, [(64, 0x10000), (64, 0x20)], 0xFFFFFFF, 0x0, 0x10000000, 0x0, [], 0x0, false, false⟩,
  /- SYNW_HWAIT_W2 -/ ⟨0x2008110, [(64, 0x10000), (64, 0x20)], 0x0, 0x0, 0x0, 0x0, [], 0x0, false, false⟩,
  /- DB_SIG -/ ⟨0x3000000, [(64, 0x1000)], 0x0, 0x0, 0x0, 0x0, [], 0x0, true, false⟩,
  /- DB_CNT_REJ -/ ⟨0x3000008, [(64, 0x1000)], 0x0, 0x0, 0x0, 0x0, [], 0x0, false, false⟩,
  /- SYN_PCNT_W0 -/ ⟨0x120000, [(4, 0x100000), (4096, 0x20)], 0x0, 0x0, 0x0, 0x0, [], 0x0, false, false⟩,
  /- SYN_PCNT_W1 -/ ⟨0x120008, [(4, 0x100000), (4096, 0x20)], 0x7FFFFF, 0x0, 0x0, 0x0, [], 0x0, true, false⟩,
  /- SYN_PCNT_W2 -/ ⟨0x120010, [(4, 0x100000), (4096, 0x20)], 0xFFFFFFFF, 0x0, 0x0, 0x0, [], 0x0, false, false⟩,
  /- SYN_PCNT_W3 -/ ⟨0x120018, [(4, 0x100000), (4096, 0x20)], 0x0, 0x0, 0x0, 0x0, [], 0x0, false, false⟩]

/-- The module registers, part 4. -/
def moduleRegs4 : List RegDesc := [
  /- SYN_CTL -/ ⟨0x140000, [(4, 0x100000)], 0x0, 0x1, 0x0, 0x0, [], 0x0, false, false⟩,
  /- SYN_BLOG -/ ⟨0x140008, [(4, 0x100000)], 0x0, 0x0, 0x0, 0x80000000, [], 0x0, false, false⟩,
  /- SYN_CNT_XLATE -/ ⟨0x140040, [(4, 0x100000)], 0x0, 0x0, 0x0, 0x0, [], 0x0, false, false⟩,
  /- SYN_CNT_OVF -/ ⟨0x140048, [(4, 0x100000)], 0x0, 0x0, 0x0, 0x0, [], 0x0, false, false⟩,
  /- SYN_CNT_BOUND -/ ⟨0x140050, [(4, 0x100000)], 0x0, 0x0, 0x0, 0x0, [], 0x0, false, false⟩,
  /- SYN_CNT_REBASE -/ ⟨0x140058, [(4, 0x100000)], 0x0, 0x0, 0x0, 0x0, [], 0x0, false, false⟩,
  /- SYN_CNT_EPOCH -/ ⟨0x140060, [(4, 0x100000)], 0x0, 0x0, 0x0, 0x0, [], 0x0, false, false⟩,
  /- SYN_CNT_POISON -/ ⟨0x140068, [(4, 0x100000)], 0x0, 0x0, 0x0, 0x0, [], 0x0, false, false⟩,
  /- SYN_CNT_ABANDON -/ ⟨0x140070, [(4, 0x100000)], 0x0, 0x0, 0x0, 0x0, [], 0x0, false, false⟩,
  /- SYN_CTX_W0 -/ ⟨0x141000, [(4, 0x100000), (64, 0x10)], 0x1FFF, 0x0, 0x0, 0x0, [], 0x0, false, false⟩,
  /- SYN_CTX_W1 -/ ⟨0x141008, [(4, 0x100000), (64, 0x10)], 0xFFFFFFFFFFFF, 0x0, 0x0, 0x0, [], 0xFFFF, false, false⟩,
  /- MBS_CFG -/ ⟨0x12000, [(64, 0x80)], 0x7FF3F, 0x0, 0x0, 0x0, [], 0x0, true, false⟩,
  /- MBS_VC -/ ⟨0x12008, [(64, 0x80)], 0xFFFFFFFFFFFFFFFF, 0x0, 0x0, 0x0, [], 0x0, false, false⟩,
  /- MBS_UNIT -/ ⟨0x12010, [(64, 0x80)], 0x7FFFFFFFFFFFFFFF, 0x0, 0x0, 0x0, [], 0x0, false, false⟩,
  /- MBS_STEP -/ ⟨0x12018, [(64, 0x80)], 0xFFFFFFFFF, 0x0, 0x0, 0x0, [], 0x0, false, false⟩,
  /- MBS_STATUS -/ ⟨0x12020, [(64, 0x80)], 0x0, 0x8, 0x0, 0x0, [], 0x0, false, false⟩,
  /- MBS_CMD -/ ⟨0x12028, [(64, 0x80)], 0x0, 0x0, 0x0, 0x0, [], 0x0, true, false⟩,
  /- MBS_DBASE -/ ⟨0x12030, [(64, 0x80)], 0x0, 0x0, 0x0, 0x0, [], 0x0, false, false⟩,
  /- MBS_FBASE -/ ⟨0x12038, [(64, 0x80)], 0x0, 0x0, 0x0, 0x0, [], 0x0, false, false⟩,
  /- MBS_BBASE -/ ⟨0x12040, [(64, 0x80)], 0x0, 0x0, 0x0, 0x0, [], 0x0, false, false⟩,
  /- MBS_QSEL -/ ⟨0x12048, [(64, 0x80)], 0xFF01, 0x0, 0x0, 0x0, [], 0x0, false, false⟩,
  /- MBS_QDATA -/ ⟨0x12050, [(64, 0x80)], 0x0, 0x0, 0x0, 0x0, [], 0x0, false, true⟩,
  /- MBS_CNT_HALT -/ ⟨0x12058, [(64, 0x80)], 0x0, 0x0, 0x0, 0x0, [], 0x0, false, false⟩,
  /- WCH_CTX_W0 -/ ⟨0x14000, [(64, 0x20)], 0x11FFF7FFF, 0x0, 0x0, 0x0, [], 0x0, true, false⟩,
  /- WCH_CTX_W1 -/ ⟨0x14008, [(64, 0x20)], 0xFFFFFFFFFFFFFFFF, 0x0, 0x0, 0x0, [], 0x7F80000000000000, false, false⟩]

/-- The module registers, part 5. -/
def moduleRegs5 : List RegDesc := [
  /- WCH_CTX_W2 -/ ⟨0x14010, [(64, 0x20)], 0x0, 0x2, 0x0, 0x0, [], 0x0, false, false⟩,
  /- WCH_ACC_ADDR -/ ⟨0x14800, [], 0x7FFF, 0x0, 0x0, 0x0, [], 0x0, false, false⟩,
  /- WCH_ACC_CMD -/ ⟨0x14808, [], 0x0, 0x0, 0x0, 0x0, [], 0x0, true, false⟩,
  /- WCH_ACC_DATA -/ ⟨0x14840, [(16, 0x8)], 0xFFFFFFFFFFFFFFFF, 0x0, 0x0, 0x0, [], 0x0, false, false⟩,
  /- WCH_CNT_RANGE -/ ⟨0x148C0, [], 0x0, 0x0, 0x0, 0x0, [], 0x0, false, false⟩,
  /- WCH_CNT_OUT -/ ⟨0x148C8, [], 0x0, 0x0, 0x0, 0x0, [], 0x0, false, false⟩,
  /- WCH_CNT_NONFIN -/ ⟨0x148D0, [], 0x0, 0x0, 0x0, 0x0, [], 0x0, false, false⟩,
  /- EXP_CTL -/ ⟨0x15000, [(4, 0x40)], 0x1FC, 0x0, 0x0, 0x0, [], 0x0, true, false⟩,
  /- EXP_SRC -/ ⟨0x15008, [(4, 0x40)], 0xFFFFFFFFFFFFFFFF, 0x0, 0x0, 0x0, [], 0x0, false, false⟩,
  /- EXP_DST -/ ⟨0x15010, [(4, 0x40)], 0xFFFFFFFFFFFFFFFF, 0x0, 0x0, 0x0, [], 0x0, false, false⟩,
  /- EXP_LEN -/ ⟨0x15018, [(4, 0x40)], 0x0, 0x0, 0x0, 0x0, [], 0x0, false, false⟩,
  /- EXP_STATUS -/ ⟨0x15020, [(4, 0x40)], 0x0, 0x0, 0x0, 0x0, [], 0x0, false, false⟩,
  /- RCV_CTL -/ ⟨0x16000, [], 0x5, 0x0, 0x0, 0x0, [(5, 0x2)], 0x0, false, false⟩,
  /- RCV_PLAN -/ ⟨0x16008, [], 0x3FFFFFFFFFFFFF, 0x0, 0x0, 0x0, [], 0xC8641F40A2814, false, false⟩,
  /- RCV_PEERS -/ ⟨0x16010, [], 0x7FFF7FFF, 0x0, 0x0, 0x0, [], 0x0, false, false⟩,
  /- RCV_STATUS -/ ⟨0x16018, [], 0x0, 0x0, 0x0, 0x0, [], 0x0, false, false⟩,
  /- RCV_STEP -/ ⟨0x16020, [], 0x0, 0x0, 0x0, 0x0, [], 0x0, false, false⟩,
  /- RCV_EVENT -/ ⟨0x16028, [], 0x0, 0x0, 0x0, 0x80000000, [], 0x0, false, false⟩,
  /- RCV_CMD -/ ⟨0x16030, [], 0x0, 0x0, 0x0, 0x0, [], 0x0, true, false⟩,
  /- RCV_SPARE -/ ⟨0x16040, [(16, 0x8)], 0x7FFF, 0x0, 0x0, 0x0, [], 0x0, false, false⟩,
  /- RCV_SHRINK -/ ⟨0x160C0, [], 0xFFFFFFFFFFFFFFFF, 0x0, 0x0, 0x0, [], 0x0, false, false⟩,
  /- RCV_CNT_LOST -/ ⟨0x16100, [], 0x0, 0x0, 0x0, 0x0, [], 0x0, false, false⟩,
  /- RCV_CNT_HBMISS -/ ⟨0x16108, [], 0x0, 0x0, 0x0, 0x0, [], 0x0, false, false⟩,
  /- RCV_CNT_FILL -/ ⟨0x16110, [], 0x0, 0x0, 0x0, 0x0, [], 0x0, false, false⟩,
  /- RCV_CNT_ABANDON -/ ⟨0x16118, [], 0x0, 0x0, 0x0, 0x0, [], 0x0, false, false⟩]

/-- The module registers, part 6. -/
def moduleRegs6 : List RegDesc := [
  /- RCV_CNT_RESTORE -/ ⟨0x16120, [], 0x0, 0x0, 0x0, 0x0, [], 0x0, false, false⟩,
  /- RCV_CNT_SKEW -/ ⟨0x16128, [], 0x0, 0x0, 0x0, 0x0, [], 0x0, false, false⟩,
  /- RCV_CNT_STALE -/ ⟨0x16130, [], 0x0, 0x0, 0x0, 0x0, [], 0x0, false, false⟩,
  /- RCV_CNT_LINK -/ ⟨0x16138, [], 0x0, 0x0, 0x0, 0x0, [], 0x0, false, false⟩,
  /- VRN_CTX_W0 -/ ⟨0x18000, [(64, 0x80)], 0xFFFF03FF, 0x0, 0x0, 0x0, [], 0x0, false, false⟩,
  /- VRN_CTX_W1 -/ ⟨0x18008, [(64, 0x80)], 0x3FF03FF3FFF, 0x0, 0x0, 0x0, [], 0x0, false, false⟩,
  /- VRN_CTX_W2 -/ ⟨0x18010, [(64, 0x80)], 0x1FFFFF0003FFFF, 0x0, 0x0, 0x0, [], 0x0, false, false⟩,
  /- VRN_CTX_W3 -/ ⟨0x18018, [(64, 0x80)], 0x7F, 0x0, 0x0, 0x0, [], 0x0, false, false⟩,
  /- VRN_CTX_W4 -/ ⟨0x18020, [(64, 0x80)], 0x0, 0x0, 0x0, 0x0, [], 0x0, false, false⟩,
  /- VRN_CTX_W5 -/ ⟨0x18028, [(64, 0x80)], 0x0, 0x0, 0x0, 0x0, [], 0x0, false, false⟩,
  /- VRN_CTX_W6 -/ ⟨0x18030, [(64, 0x80)], 0x0, 0x0, 0x0, 0x0, [], 0x0, false, false⟩,
  /- VRN_METH -/ ⟨0x18038, [(64, 0x80), (4, 0x10), (2, 0x8)], 0xFFFFFFFFFFFFFFFF, 0x0, 0x0, 0x0, [], 0x0, false, false⟩,
  /- SKB_CUR_W0 -/ ⟨0x1A000, [(64, 0x100), (8, 0x20)], 0xFFFFFFFFFFFFFFFF, 0x0, 0x0, 0x0, [], 0x0, false, false⟩,
  /- SKB_CUR_W1 -/ ⟨0x1A008, [(64, 0x100), (8, 0x20)], 0xFFFFFFFFFFFFFFFF, 0x0, 0x0, 0x0, [], 0x0, false, false⟩,
  /- SKB_CUR_W2 -/ ⟨0x1A010, [(64, 0x100), (8, 0x20)], 0x1FFFFFFFFFFF, 0x0, 0x0, 0x0, [], 0x0, false, false⟩,
  /- SKB_CUR_W3 -/ ⟨0x1A018, [(64, 0x100), (8, 0x20)], 0x0, 0x0, 0x0, 0x0, [], 0x0, false, false⟩,
  /- SKB_CTL -/ ⟨0x1E000, [], 0x1, 0x0, 0x0, 0x0, [], 0x1, false, false⟩,
  /- VRN_STATUS -/ ⟨0x1E008, [], 0x0, 0x1, 0x0, 0x0, [], 0x0, false, false⟩,
  /- SKB_CNT_NOCUR -/ ⟨0x1E040, [], 0x0, 0x0, 0x0, 0x0, [], 0x0, false, false⟩,
  /- SKB_CNT_RDIFF -/ ⟨0x1E048, [], 0x0, 0x0, 0x0, 0x0, [], 0x0, false, false⟩,
  /- SKB_CNT_MLAG -/ ⟨0x1E050, [], 0x0, 0x0, 0x0, 0x0, [], 0x0, false, false⟩,
  /- SKB_CNT_CRC -/ ⟨0x1E058, [], 0x0, 0x0, 0x0, 0x0, [], 0x0, false, false⟩,
  /- VRN_CNT_TORN -/ ⟨0x1E060, [], 0x0, 0x0, 0x0, 0x0, [], 0x0, false, false⟩,
  /- VRN_CNT_SKIP -/ ⟨0x1E068, [], 0x0, 0x0, 0x0, 0x0, [], 0x0, false, false⟩,
  /- VRN_CNT_MIRERR -/ ⟨0x1E070, [], 0x0, 0x0, 0x0, 0x0, [], 0x0, false, false⟩]

/-- The module registers, part 7. -/
def moduleRegs7 : List RegDesc := [
  /- VRN_CNT_DONE -/ ⟨0x1E078, [], 0x0, 0x0, 0x0, 0x0, [], 0x0, false, false⟩,
  /- SKB_SEQ -/ ⟨0x1E100, [(64, 0x8)], 0x0, 0x0, 0x0, 0x0, [], 0x0, false, false⟩,
  /- ERRC_CNT -/ ⟨0x30000, [(512, 0x8)], 0x0, 0x0, 0x0, 0x0, [], 0x0, false, false⟩,
  /- ERRC_THR -/ ⟨0x31000, [(512, 0x8)], 0x3FFFFFFFFFFFF, 0x0, 0x4000000000000, 0x0, [], 0x0, true, false⟩,
  /- ERRC_PEND -/ ⟨0x32000, [(8, 0x8)], 0x0, 0xFFFFFFFFFFFFFFFF, 0x0, 0x0, [], 0x0, false, false⟩,
  /- ERRC_DBCFG -/ ⟨0x32040, [], 0x1FFFF, 0x0, 0x0, 0x0, [], 0x0, true, false⟩,
  /- ERRC_DBADDR -/ ⟨0x32048, [], 0xFFFFFFFFFFFFF000, 0x0, 0x0, 0x0, [], 0x0, true, false⟩,
  /- ERRC_DBPTR -/ ⟨0x32050, [], 0xFFFF0000, 0x0, 0x0, 0x0, [], 0x0, false, false⟩,
  /- REP_POLICY -/ ⟨0x32058, [], 0xFFF0000, 0x0, 0x0, 0x0, [(3, 0x3), (4, 0x4)], 0x12C0007, false, false⟩,
  /- REP_MARGIN -/ ⟨0x150000, [(4, 0x100000)], 0x0, 0x0, 0x0, 0x0, [(3, 0x77)], 0x0, true, false⟩,
  /- REP_SLAST -/ ⟨0x150008, [(4, 0x100000)], 0x0, 0x0, 0x0, 0x80000000, [], 0x0, false, false⟩,
  /- REP_AUD_CTL -/ ⟨0x150020, [(4, 0x100000)], 0xFFFF0001, 0x0, 0x0, 0x0, [], 0x320001, false, false⟩,
  /- REP_AUD_LOG -/ ⟨0x150028, [(4, 0x100000)], 0x0, 0x0, 0x0, 0x80000000, [], 0x0, false, false⟩,
  /- REP_SCAN_CTL -/ ⟨0x150030, [(4, 0x100000)], 0xFFFF0001, 0x0, 0x0, 0x0, [], 0x640001, false, false⟩,
  /- REP_SCAN_STATUS -/ ⟨0x150038, [(4, 0x100000)], 0x0, 0x0, 0x0, 0x0, [], 0x0, false, false⟩,
  /- REP_COMMIT -/ ⟨0x150040, [(4, 0x100000)], 0x0, 0xC, 0x0, 0x0, [(2, 0x1)], 0x0, true, false⟩,
  /- REP_FUSE_E -/ ⟨0x150100, [(4, 0x100000), (8, 0x20), (3, 0x8)], 0x0, 0x0, 0x0, 0x0, [], 0x0, false, false⟩,
  /- REP_FUSE_3 -/ ⟨0x150118, [(4, 0x100000), (8, 0x20)], 0x0, 0x0, 0x0, 0x0, [], 0x0, false, false⟩,
  /- REP_ROW -/ ⟨0x150200, [(4, 0x100000), (48, 0x8)], 0x0, 0x0, 0x0, 0x0, [], 0x0, false, false⟩,
  /- LDR_CTX_ROWS -/ ⟨0x100000, [(4, 0x100000), (64, 0x80)], 0xFFFFFFFFFFFF, 0x0, 0x0, 0x0, [], 0x0, true, false⟩,
  /- LDR_CTX_IMG -/ ⟨0x100008, [(4, 0x100000), (64, 0x80)], 0xFFFFFFFFF7F, 0x0, 0x0, 0x0, [], 0x0, false, false⟩,
  /- LDR_CTX_BIND -/ ⟨0x100010, [(4, 0x100000), (64, 0x80)], 0xFFFFFFFFF3F, 0x0, 0x0, 0x0, [], 0x0, false, false⟩,
  /- LDR_CTX_CFG -/ ⟨0x100018, [(4, 0x100000), (64, 0x80)], 0xFFFFFFFF000001FF, 0x0, 0x0, 0x0, [], 0x0, false, false⟩,
  /- LDR_CTX_CMD -/ ⟨0x100020, [(4, 0x100000), (64, 0x80)], 0x0, 0x0, 0x0, 0x0, [], 0x0, true, false⟩,
  /- LDR_CTX_STATUS -/ ⟨0x100028, [(4, 0x100000), (64, 0x80)], 0x0, 0x40000, 0x0, 0x0, [], 0x0, false, false⟩]

/-- The module registers, part 8. -/
def moduleRegs8 : List RegDesc := [
  /- LDR_CTX_FAULT -/ ⟨0x100030, [(4, 0x100000), (64, 0x80)], 0x0, 0x0, 0x0, 0x0, [], 0x0, false, false⟩,
  /- LDR_CAPS -/ ⟨0x103000, [(4, 0x100000)], 0x0, 0x0, 0x0, 0x0, [], 0x1, false, false⟩,
  /- PEN_CTL -/ ⟨0x103100, [(4, 0x100000)], 0x3E, 0x0, 0x0, 0x0, [], 0x0, false, false⟩,
  /- PEN_RING -/ ⟨0x103108, [(4, 0x100000)], 0xFFFFFFFFFFFFF, 0x0, 0x0, 0x0, [], 0x0, true, false⟩,
  /- PEN_RPTR -/ ⟨0x103110, [(4, 0x100000)], 0xFFFFFFFF00000000, 0x0, 0x0, 0x0, [], 0x0, false, false⟩,
  /- PEN_CNT_DROP -/ ⟨0x103118, [(4, 0x100000)], 0x0, 0x0, 0x0, 0x0, [], 0x0, false, false⟩,
  /- PERF_CTX -/ ⟨0x40000, [(64, 0x8)], 0x7, 0x0, 0x0, 0x0, [], 0x0, false, false⟩,
  /- PERF_TADDR -/ ⟨0x40200, [], 0x3FFF, 0x0, 0x0, 0x0, [], 0x0, true, false⟩,
  /- PERF_TDATA -/ ⟨0x40240, [(9, 0x8)], 0x0, 0x0, 0x0, 0x0, [], 0x0, false, false⟩,
  /- PERF_HCLR -/ ⟨0x40300, [], 0x0, 0x0, 0x0, 0x0, [], 0x0, true, false⟩,
  /- HBM_SE_HROW -/ ⟨0x108080, [(4, 0x100000), (6, 0x100), (8, 0x8)], 0x0, 0x0, 0x0, 0x0, [], 0x0, false, false⟩,
  /- HBM_SE_HXFR -/ ⟨0x1080C0, [(4, 0x100000), (6, 0x100), (8, 0x8)], 0x0, 0x0, 0x0, 0x0, [], 0x0, false, false⟩,
  /- HST_CTL -/ ⟨0x160000, [(4, 0x100000)], 0xFFF, 0x0, 0x0, 0x0, [], 0x0, false, false⟩,
  /- HST_SYNC -/ ⟨0x160040, [(4, 0x100000), (8, 0x8)], 0x0, 0x0, 0x0, 0x0, [], 0x0, false, false⟩,
  /- SMP_RING -/ ⟨0x160100, [(4, 0x100000)], 0x1FFFFFFFFFFFFF, 0x0, 0x0, 0x0, [], 0x0, false, false⟩,
  /- SMP_RPTR -/ ⟨0x160108, [(4, 0x100000)], 0xFFFFFFFF00000000, 0x0, 0x0, 0x0, [], 0x0, false, false⟩,
  /- SMP_CNT_DROP -/ ⟨0x160110, [(4, 0x100000)], 0x0, 0x0, 0x0, 0x0, [], 0x0, false, false⟩,
  /- DPC_CNT -/ ⟨0x161000, [(4, 0x100000), (64, 0x8)], 0xFFFFFFFFFFFF, 0x0, 0x0, 0x0, [], 0x0, false, false⟩,
  /- DPC_SEL -/ ⟨0x161200, [(4, 0x100000), (8, 0x8)], 0xFFFFFFFFFFFFFFFF, 0x0, 0x0, 0x0, [], 0x0, false, false⟩,
  /- DPC_EN -/ ⟨0x161240, [(4, 0x100000)], 0xFFFFFFFFFFFFFFFF, 0x0, 0x0, 0x0, [], 0x0, false, false⟩,
  /- DPC_CHAIN -/ ⟨0x161248, [(4, 0x100000)], 0xFFFFFFFF, 0x0, 0x0, 0x0, [], 0x0, false, false⟩,
  /- DPC_OVF -/ ⟨0x161250, [(4, 0x100000)], 0x0, 0xFFFFFFFFFFFFFFFF, 0x0, 0x0, [], 0x0, false, false⟩,
  /- DPC_HOLD -/ ⟨0x161258, [(4, 0x100000)], 0x0, 0x0, 0x0, 0x0, [], 0x0, false, false⟩,
  /- DPC_FILT -/ ⟨0x161260, [(4, 0x100000)], 0x7F, 0x0, 0x0, 0x0, [], 0x0, false, false⟩,
  /- FPC_CNT -/ ⟨0x101A000, [(2, 0x80000), (64, 0x8)], 0xFFFFFFFFFFFF, 0x0, 0x0, 0x0, [], 0x0, false, false⟩]

/-- The module registers, part 9. -/
def moduleRegs9 : List RegDesc := [
  /- FPC_SEL -/ ⟨0x101A200, [(2, 0x80000), (8, 0x8)], 0xFFFFFFFFFFFFFFFF, 0x0, 0x0, 0x0, [], 0x0, false, false⟩,
  /- FPC_EN -/ ⟨0x101A240, [(2, 0x80000)], 0xFFFFFFFFFFFFFFFF, 0x0, 0x0, 0x0, [], 0x0, false, false⟩,
  /- FPC_CHAIN -/ ⟨0x101A248, [(2, 0x80000)], 0xFFFFFFFF, 0x0, 0x0, 0x0, [], 0x0, false, false⟩,
  /- FPC_OVF -/ ⟨0x101A250, [(2, 0x80000)], 0x0, 0xFFFFFFFFFFFFFFFF, 0x0, 0x0, [], 0x0, false, false⟩,
  /- FPC_HOLD -/ ⟨0x101A258, [(2, 0x80000)], 0x0, 0x0, 0x0, 0x0, [], 0x0, false, false⟩,
  /- HST_FCTL -/ ⟨0x101A400, [(2, 0x80000)], 0xF, 0x0, 0x0, 0x0, [], 0x0, false, false⟩,
  /- HST_FLOW -/ ⟨0x101A440, [(2, 0x80000), (8, 0x8)], 0x0, 0x0, 0x0, 0x0, [], 0x0, false, false⟩,
  /- MOD_ID -/ ⟨0x0, [], 0x0, 0x0, 0x0, 0x0, [], 0x7A04, false, false⟩,
  /- MOD_SERIAL -/ ⟨0x8, [], 0x0, 0x0, 0x0, 0x0, [], 0x0, false, false⟩,
  /- MOD_PROFILE -/ ⟨0x10, [], 0x0, 0x20, 0x0, 0x0, [(0, 0x700)], 0x0, false, false⟩,
  /- MOD_LOCK -/ ⟨0x18, [], 0x0, 0x0, 0x3F, 0x0, [], 0x0, true, false⟩,
  /- MOD_CMD -/ ⟨0x20, [], 0x0, 0x0, 0x0, 0x0, [], 0x0, true, false⟩,
  /- MOD_STATE -/ ⟨0x28, [], 0x0, 0x0, 0x0, 0x0, [], 0x0, false, false⟩,
  /- MOD_FUSECNT -/ ⟨0x30, [], 0x0, 0x0, 0x0, 0x0, [], 0x0, false, false⟩,
  /- MOD_EAS -/ ⟨0x38, [], 0x0, 0x0, 0x0, 0x0, [], 0x0, false, false⟩,
  /- MOD_DBG -/ ⟨0x40, [], 0x3FC, 0x0, 0x0, 0x0, [(1, 0x2)], 0x0, false, false⟩,
  /- HOST_CFG -/ ⟨0x50000, [], 0x1, 0x0, 0x0, 0x0, [], 0x0, false, false⟩,
  /- HOST_STATUS -/ ⟨0x50008, [], 0x0, 0x0, 0x0, 0x0, [], 0x0, false, false⟩,
  /- HOST_CNT_DROP -/ ⟨0x50010, [], 0x0, 0x0, 0x0, 0x0, [], 0x0, false, false⟩,
  /- HOST_APW -/ ⟨0x50100, [(16, 0x8)], 0x3FFFFFFF, 0x0, 0x0, 0x0, [], 0x0, false, false⟩,
  /- HCTX_CTL -/ ⟨0x50400, [(64, 0x10)], 0x3FFD, 0x0, 0x0, 0x0, [], 0x0, true, false⟩,
  /- HCTX_STATUS -/ ⟨0x50408, [(64, 0x10)], 0x0, 0x0, 0x0, 0x0, [], 0x0, false, false⟩,
  /- EAS_CMD -/ ⟨0x60000, [], 0x0, 0x0, 0x0, 0x0, [], 0x0, false, false⟩,
  /- EAS_STATUS -/ ⟨0x60008, [], 0x0, 0x2, 0x0, 0x0, [], 0x0, false, false⟩,
  /- EAS_CFG -/ ⟨0x60010, [], 0xFFF, 0x0, 0x0, 0x0, [], 0x0, false, false⟩]

/-- The module registers, part 10. -/
def moduleRegs10 : List RegDesc := [
  /- EAS_DATA -/ ⟨0x60100, [(32, 0x8)], 0xFFFFFFFFFFFFFFFF, 0x0, 0x0, 0x0, [], 0x0, false, false⟩,
  /- PWR_IN -/ ⟨0x20000, [], 0x0, 0x0, 0x0, 0x0, [], 0x0, false, false⟩,
  /- PWR_LIMIT -/ ⟨0x20008, [], 0x0, 0x0, 0x0, 0x0, [(3, 0xFFF)], 0x992, true, false⟩,
  /- PWR_STATUS -/ ⟨0x20010, [], 0x0, 0x100, 0x0, 0x0, [], 0x0, false, false⟩,
  /- PWR_CNT_CAP -/ ⟨0x20018, [], 0x0, 0x0, 0x0, 0x0, [], 0x0, false, false⟩,
  /- PWR_FAB_TEMP -/ ⟨0x20020, [], 0x0, 0x0, 0x0, 0x0, [], 0x0, false, false⟩,
  /- PWR_DIE_CLK -/ ⟨0x20100, [(4, 0x40)], 0x0, 0x0, 0x0, 0x0, [], 0x640, false, false⟩,
  /- PWR_DIE_DROOP -/ ⟨0x20108, [(4, 0x40)], 0x0, 0x0, 0x0, 0x0, [(3, 0x3F3F)], 0x2819, true, false⟩,
  /- PWR_DIE_TEMP -/ ⟨0x20110, [(4, 0x40)], 0x0, 0x0, 0x0, 0x0, [], 0x0, false, false⟩,
  /- PWR_DIE_CNT_TRIP -/ ⟨0x20118, [(4, 0x40)], 0x0, 0x0, 0x0, 0x0, [], 0x0, false, false⟩,
  /- PWR_DIE_CNT_LOSS -/ ⟨0x20120, [(4, 0x40)], 0x0, 0x0, 0x0, 0x0, [], 0x0, false, false⟩,
  /- PWR_DIE_CNT_TTICK -/ ⟨0x20128, [(4, 0x40)], 0x0, 0x0, 0x0, 0x0, [], 0x0, false, false⟩,
  /- PWR_DIE_LTICK -/ ⟨0x20130, [(4, 0x40)], 0x0, 0x0, 0x0, 0x0, [], 0x0, false, false⟩]

/-- The module registers. -/
def moduleRegs : List RegDesc :=
  moduleRegs0 ++ moduleRegs1 ++ moduleRegs2 ++ moduleRegs3 ++ moduleRegs4 ++ moduleRegs5 ++ moduleRegs6 ++ moduleRegs7 ++ moduleRegs8 ++ moduleRegs9 ++ moduleRegs10

/-- The tile registers, part 0. -/
def tileRegs0 : List RegDesc := [
  /- TILE_SELF -/ ⟨0x0, [], 0x0, 0x0, 0x0, 0x0, [], 0x0, false, true⟩,
  /- TILE_ENTRY -/ ⟨0x8, [], 0x0, 0x0, 0x0, 0x0, [], 0x0, false, false⟩,
  /- TILE_SEQ_STATUS -/ ⟨0x10, [], 0x0, 0x0, 0x0, 0x0, [], 0x0, false, true⟩,
  /- TILE_FAULT -/ ⟨0x18, [], 0x0, 0x0, 0x0, 0x0, [], 0x0, false, false⟩,
  /- TILE_TOKENS -/ ⟨0x20, [], 0x0, 0x0, 0x0, 0x0, [], 0x0, false, true⟩,
  /- TILE_TOKST -/ ⟨0x28, [], 0x0, 0x0, 0x0, 0x0, [], 0x0, false, true⟩,
  /- TILE_SPOISON -/ ⟨0x30, [], 0x0, 0x0, 0x0, 0x0, [], 0x0, false, true⟩,
  /- TILE_QUEUES -/ ⟨0x38, [], 0x0, 0x0, 0x0, 0x0, [], 0x0, false, true⟩,
  /- PAL_CTRL -/ ⟨0x40, [], 0x1, 0x0, 0x0, 0x0, [], 0x1, true, false⟩,
  /- PAL_STATUS -/ ⟨0x48, [], 0x0, 0x7, 0x0, 0x0, [], 0x0, false, false⟩,
  /- PAL_CNT_CE -/ ⟨0x50, [], 0x0, 0x0, 0x0, 0x0, [], 0x0, false, false⟩,
  /- PAL_CNT_UE -/ ⟨0x58, [], 0x0, 0x0, 0x0, 0x0, [], 0x0, false, false⟩,
  /- PAL_CNT_CONFLICT -/ ⟨0x60, [], 0x0, 0x0, 0x0, 0x0, [], 0x0, false, false⟩,
  /- PAL_CNT_PVIOL -/ ⟨0x68, [], 0x0, 0x0, 0x0, 0x0, [], 0x0, false, false⟩,
  /- PAL_CNT_CREDIT -/ ⟨0x70, [], 0x0, 0x0, 0x0, 0x0, [], 0x0, false, false⟩,
  /- PAL_ELOG -/ ⟨0x78, [], 0x0, 0x0, 0x0, 0x80000000, [], 0x0, false, false⟩,
  /- PAL_PART -/ ⟨0x80, [(16, 0x8)], 0x33F7FFFF7FFF, 0x0, 0x1000000000000, 0x0, [], 0x0, true, false⟩,
  /- PAL_RXCFG -/ ⟨0x100, [(4, 0x20)], 0xFFFF03FFFFFFFFFF, 0x0, 0x0, 0x0, [], 0x0, true, false⟩,
  /- PAL_RXCNT -/ ⟨0x108, [(4, 0x20)], 0x0, 0x0, 0x0, 0x0, [], 0x0, false, false⟩,
  /- PAL_RXREL -/ ⟨0x110, [(4, 0x20)], 0x0, 0x0, 0x0, 0x0, [], 0x0, true, false⟩,
  /- PAL_RXOPEN -/ ⟨0x118, [(4, 0x20)], 0x0, 0x0, 0x0, 0x0, [], 0x0, false, false⟩,
  /- STIP_SEED -/ ⟨0x180, [], 0x0, 0x0, 0x0, 0x0, [], 0x0, false, false⟩,
  /- STIP_BASE -/ ⟨0x188, [], 0xFFFFFFFFFFFFFFFF, 0x0, 0x0, 0x0, [], 0x0, false, false⟩,
  /- NUM_CNT_NAN -/ ⟨0x190, [], 0x0, 0x0, 0x0, 0x0, [], 0x0, false, false⟩,
  /- NUM_CNT_OVF -/ ⟨0x198, [], 0x0, 0x0, 0x0, 0x0, [], 0x0, false, false⟩]

/-- The tile registers, part 1. -/
def tileRegs1 : List RegDesc := [
  /- MUL_CTRL -/ ⟨0x1A0, [], 0x1, 0x0, 0x0, 0x0, [], 0x1, false, false⟩,
  /- MUL_STATUS -/ ⟨0x1A8, [], 0x0, 0x0, 0x0, 0x0, [], 0x0, false, true⟩,
  /- MUL_BLKMARK -/ ⟨0x1B0, [], 0x0, 0xFF, 0x0, 0x0, [], 0x0, false, false⟩,
  /- MUL_CKLOG -/ ⟨0x1B8, [], 0x0, 0x0, 0x0, 0x80000000, [], 0x0, false, false⟩,
  /- MUL_CNT_CKSUM -/ ⟨0x1C0, [], 0x0, 0x0, 0x0, 0x0, [], 0x0, false, false⟩,
  /- MUL_CNT_CKSKIP -/ ⟨0x1C8, [], 0x0, 0x0, 0x0, 0x0, [], 0x0, false, false⟩,
  /- MUL_CNT_POISON -/ ⟨0x1D0, [], 0x0, 0x0, 0x0, 0x0, [], 0x0, false, false⟩,
  /- MUL_CNT_INVALID -/ ⟨0x1D8, [], 0x0, 0x0, 0x0, 0x0, [], 0x0, false, false⟩,
  /- MUL_CNT_ACONF -/ ⟨0x1E0, [], 0x0, 0x0, 0x0, 0x0, [], 0x0, false, false⟩,
  /- GLZ_STATUS -/ ⟨0x1F0, [], 0x0, 0x0, 0x0, 0x0, [], 0x0, false, true⟩,
  /- GLZ_ERRLOG -/ ⟨0x1F8, [], 0x0, 0x0, 0x0, 0x80000000, [], 0x0, false, false⟩,
  /- GLZ_CNT_INVALID -/ ⟨0x200, [], 0x0, 0x0, 0x0, 0x0, [], 0x0, false, false⟩,
  /- GLZ_CNT_POISON -/ ⟨0x208, [], 0x0, 0x0, 0x0, 0x0, [], 0x0, false, false⟩,
  /- GLZ_CNT_SKIP -/ ⟨0x210, [], 0x0, 0x0, 0x0, 0x0, [], 0x0, false, false⟩,
  /- XCH_WIN -/ ⟨0x218, [], 0x1FFFFFFFF, 0x0, 0x0, 0x0, [], 0xFFFF0000, false, false⟩,
  /- XCH_STATUS -/ ⟨0x220, [], 0x0, 0x0, 0x0, 0x0, [], 0x0, false, true⟩,
  /- XCH_COLLOG -/ ⟨0x228, [], 0x0, 0x0, 0x0, 0x80000000, [], 0x0, false, false⟩,
  /- XCH_CNT_COLL -/ ⟨0x230, [], 0x0, 0x0, 0x0, 0x0, [], 0x0, false, false⟩,
  /- XCH_CNT_LATE -/ ⟨0x238, [], 0x0, 0x0, 0x0, 0x0, [], 0x0, false, false⟩,
  /- XCH_CNT_WIN -/ ⟨0x240, [], 0x0, 0x0, 0x0, 0x0, [], 0x0, false, false⟩,
  /- XCH_CNT_SLIP -/ ⟨0x248, [], 0x0, 0x0, 0x0, 0x0, [], 0x0, false, false⟩,
  /- XCH_CNT_DEST -/ ⟨0x250, [], 0x0, 0x0, 0x0, 0x0, [], 0x0, false, false⟩,
  /- MBS_REL -/ ⟨0x258, [(8, 0x8)], 0x0, 0x0, 0x0, 0x0, [], 0x0, false, true⟩,
  /- PEN_CNT_RBW -/ ⟨0x298, [], 0x0, 0x0, 0x0, 0x0, [], 0x0, false, false⟩,
  /- PEN_CNT_UNINIT -/ ⟨0x2A0, [], 0x0, 0x0, 0x0, 0x0, [], 0x0, false, false⟩]

/-- The tile registers, part 2. -/
def tileRegs2 : List RegDesc := [
  /- PEN_CNT_WAW -/ ⟨0x2A8, [], 0x0, 0x0, 0x0, 0x0, [], 0x0, false, false⟩,
  /- PEN_CNT_WAR -/ ⟨0x2B0, [], 0x0, 0x0, 0x0, 0x0, [], 0x0, false, false⟩,
  /- PEN_CNT_ACC -/ ⟨0x2B8, [], 0x0, 0x0, 0x0, 0x0, [], 0x0, false, false⟩,
  /- TPC_CNT -/ ⟨0x2C0, [(8, 0x8)], 0xFFFFFFFFFFFF, 0x0, 0x0, 0x0, [], 0x0, false, false⟩,
  /- TPC_SEL -/ ⟨0x300, [], 0xFFFFFFFFFFFFFFFF, 0x0, 0x0, 0x0, [], 0x0, false, false⟩,
  /- TPC_CTL -/ ⟨0x308, [], 0x1FFF, 0x0, 0x0, 0x0, [], 0x0, false, false⟩,
  /- TPC_OVF -/ ⟨0x310, [], 0x0, 0xFF, 0x0, 0x0, [], 0x0, false, false⟩,
  /- TPC_HOLD -/ ⟨0x318, [], 0x0, 0x0, 0x0, 0x0, [], 0x0, false, false⟩,
  /- TPC_SMP -/ ⟨0x320, [], 0x1FF, 0x0, 0x0, 0x0, [], 0x0, false, false⟩]

/-- The tile registers. -/
def tileRegs : List RegDesc :=
  tileRegs0 ++ tileRegs1 ++ tileRegs2

/-- The context page of every VF (R504), part 0. -/
def vfRegs0 : List RegDesc := [
  /- VFC_STATUS -/ ⟨0x0, [(64, 0x1000)], 0x0, 0x0, 0x0, 0x0, [], 0x0, false, true⟩,
  /- VFC_APW -/ ⟨0x8, [(64, 0x1000), (4, 0x8)], 0x3FFFFFC0, 0x0, 0x0, 0x0, [], 0x0, false, false⟩,
  /- VFC_LDR -/ ⟨0x40, [(64, 0x1000), (4, 0x8)], 0x0, 0x0, 0x0, 0x0, [], 0x0, false, true⟩,
  /- VFC_RGN -/ ⟨0x800, [(64, 0x1000), (4, 0x200), (64, 0x8)], 0x0, 0x0, 0x0, 0x0, [], 0x0, false, true⟩]

/-- The context page of every VF (R504). -/
def vfRegs : List RegDesc :=
  vfRegs0

/-- Whether an offset from an array's base is an element of it. -/
def dimsHit : List (Nat × Nat) → Nat → Bool
  | [], off => off == 0
  | (n, st) :: ds, off => decide (off / st < n) && dimsHit ds (off % st)

/-- Whether a key names the register. -/
def RegDesc.hit (r : RegDesc) (a : Nat) : Bool := decide (r.base ≤ a) && dimsHit r.dims (a - r.base)

/-- The register that a key names, in a table. -/
def regFind (tab : List RegDesc) (a : Nat) : Option RegDesc := tab.find? (fun r => r.hit a)


/-- The reset value of a module register (R18): every register whose reset value is not zero, and zero for every other key. -/
def moduleReset (a : Nat) : Word :=
  if a == 0x10010 then 0x4C4B4#64 else  -- TICK_PERIOD
  if a == 0x10020 then 0x1388#64 else  -- TICK_HOLD_LEAD
  if a == 0x10030 then 0x1#64 else  -- TICK_NEXT
  if a == 0x10048 then 0x180#64 else  -- TICK_STATUS
  if 0x108000 ≤ a && dimsHit [(4, 0x100000), (6, 0x100)] (a - 0x108000) then 0x1#64 else  -- HBM_SE_CTL
  if 0x108800 ≤ a && dimsHit [(4, 0x100000)] (a - 0x108800) then 0x2C688#64 else  -- HBM_SEMAP
  if 0x1018000 ≤ a && dimsHit [(2, 0x80000)] (a - 0x1018000) then 0x1312D0004001#64 else  -- FAB_CTL
  if 0x1019000 ≤ a && dimsHit [(2, 0x80000)] (a - 0x1019000) then 0x1#64 else  -- BLD_CTL
  if 0x141008 ≤ a && dimsHit [(4, 0x100000), (64, 0x10)] (a - 0x141008) then 0xFFFF#64 else  -- SYN_CTX_W1
  if 0x14008 ≤ a && dimsHit [(64, 0x20)] (a - 0x14008) then 0x7F80000000000000#64 else  -- WCH_CTX_W1
  if a == 0x16008 then 0xC8641F40A2814#64 else  -- RCV_PLAN
  if a == 0x1E000 then 0x1#64 else  -- SKB_CTL
  if a == 0x32058 then 0x12C0007#64 else  -- REP_POLICY
  if 0x150020 ≤ a && dimsHit [(4, 0x100000)] (a - 0x150020) then 0x320001#64 else  -- REP_AUD_CTL
  if 0x150030 ≤ a && dimsHit [(4, 0x100000)] (a - 0x150030) then 0x640001#64 else  -- REP_SCAN_CTL
  if 0x103000 ≤ a && dimsHit [(4, 0x100000)] (a - 0x103000) then 0x1#64 else  -- LDR_CAPS
  if a == 0x0 then 0x7A04#64 else  -- MOD_ID
  if a == 0x20008 then 0x992#64 else  -- PWR_LIMIT
  if 0x20100 ≤ a && dimsHit [(4, 0x40)] (a - 0x20100) then 0x640#64 else  -- PWR_DIE_CLK
  if 0x20108 ≤ a && dimsHit [(4, 0x40)] (a - 0x20108) then 0x2819#64 else  -- PWR_DIE_DROOP
  0#64

/-- The reset value of a tile register (R18): every register whose reset value is not zero, and zero for every other key. -/
def tileReset (a : Nat) : Word :=
  if a == 0x40 then 0x1#64 else  -- PAL_CTRL
  if a == 0x1A0 then 0x1#64 else  -- MUL_CTRL
  if a == 0x218 then 0xFFFF0000#64 else  -- XCH_WIN
  0#64

end Sys2Proof.Machine
end

