-- ==== Sys2Proof/Config.lean ====
section
/-! DEFINITION. What the manual leaves to the implementation: opaque constants with no body, so that no proof can see
what they are and a claim holds whatever they are (the assumption log's free values). -/

namespace Sys2Proof.Config

/-- The 9-bit syndrome of R105, less 1: the code is Knakor's own; the syndrome is nonzero and a function of the error
pattern, which an error mark names. -/
opaque freeSyndrome : Nat → Fin 511

/-- The FP32 result of a Glaze operation that R161 bounds in ULP and does not fix to the bit (reciprocal square root,
exponentials, logarithms, hyperbolic tangent, logistic, error function), of the operation's code and its argument. -/
opaque freeGlaze : Nat → BitVec 32 → BitVec 32

/-- The record of a MAX or ARGMAX over a segment with no term (R195, R205: the manual states none): r0 for 0, r1
for 1. -/
opaque freeEmptyMax : Nat → BitVec 64

/-- Byte `k` of a snapshot's state section (R375: the manual gives its size limit and its contents, no layout). -/
opaque sectionByte : List (Nat × Nat × Nat) → Nat → BitVec 8

/-- The bytes of a state section. -/
opaque sectionLen : List (Nat × Nat × Nat) → Nat

/-- The state section that `n` bytes hold. -/
opaque sectionRead : Nat → Nat → List (Nat × Nat × Nat)

/-- Whether a firmware image's signature verifies (R485: the scheme is Knakor's), of its pieces and its length. -/
opaque fwVerifies : List (Nat × BitVec 1024) → Nat → Bool

/-- The security version that a firmware image carries (R485: 0 to 64). -/
opaque fwSecurity : List (Nat × BitVec 1024) → Nat → Fin 65

/-- The version of a firmware image, as MOD_EAS.fw shows it. -/
opaque fwVersion : List (Nat × BitVec 1024) → Nat → BitVec 32

/-- The recovery image's security version, and its version. -/
opaque recoverySecurity : Fin 65
opaque recoveryVersion : BitVec 32

/-- 128 bytes of Easel's log at an offset (R488: the manual gives the log no layout). -/
opaque logBytes : List (Nat × Nat) → Nat → BitVec 1024

/-- The model's number of the sensor that GET_SENSOR's index names (R488: the manual gives no list). -/
opaque sensorKey : Nat → Nat

/-- The range of a sensor and its slew limit per 1 ms (R499: the manual gives no figures). -/
opaque sensorLo : Nat → Nat
opaque sensorHi : Nat → Nat
opaque sensorSlew : Nat → Nat

/-- Knakor's manufacturer identity in the IDCODE (R491: the manual gives no figure). -/
opaque tapMaker : BitVec 11

/-- A fresh free value of 64 bits, of the counter that a step reads and advances. -/
opaque freeValue : Nat → BitVec 64

end Sys2Proof.Config
end

