-- ==== Sys2Proof/Machine/Numerics.lean ====
section
/-! DEFINITION. "Number formats, rounding and Stipple" (R132-R157): exact values, the formats of R133 and R134,
the one narrowing conversion of R141-R143, MX blocks, KB24, K48 and Philox4x32-10. Codes are natural numbers. -/

namespace Sys2Proof.Machine

/-- A value: NaN, an infinity, or (-1)^neg * m * 2^e exactly. A zero keeps its sign. -/
inductive FVal where
  | nan
  | inf (neg : Bool)
  | fin (neg : Bool) (m : Nat) (e : Int)
  deriving DecidableEq, Repr

/-- A floating-point format of R133: exponent and fraction widths, bias, the magnitude code of the largest finite
value, whether it has infinities, and the canonical NaN code of R134 (none for the MXFP6 and MXFP4 elements). -/
structure Fmt where
  ebits : Nat
  fbits : Nat
  bias : Int
  maxCode : Nat
  hasInf : Bool
  nan : Option Nat
  deriving DecidableEq, Repr

namespace Fmt
def fp64 : Fmt := ⟨11, 52, 1023, 0x7FEFFFFFFFFFFFFF, true, some 0x7FF8000000000000⟩
def fp32 : Fmt := ⟨8, 23, 127, 0x7F7FFFFF, true, some 0x7FC00000⟩
def bf16 : Fmt := ⟨8, 7, 127, 0x7F7F, true, some 0x7FC0⟩
def fp16 : Fmt := ⟨5, 10, 15, 0x7BFF, true, some 0x7E00⟩
def e5m2 : Fmt := ⟨5, 2, 15, 0x7B, true, some 0x7E⟩
def e4m3 : Fmt := ⟨4, 3, 7, 0x7E, false, some 0x7F⟩
def e3m2 : Fmt := ⟨3, 2, 3, 0x1F, false, none⟩
def e2m3 : Fmt := ⟨2, 3, 1, 0x1F, false, none⟩
def e2m1 : Fmt := ⟨2, 1, 1, 0x7, false, none⟩
/-- K48 (R149): the main word above its 16-bit extension, read as one 48-bit code with a 39-bit fraction. -/
def k48 : Fmt := ⟨8, 39, 127, 0x7F7FFFFFFFFF, true, some 0x7FC000000000⟩
end Fmt

/-- The number of bits of a code, sign included. -/
def Fmt.width (f : Fmt) : Nat := 1 + f.ebits + f.fbits

/-- The value of a code (R133, R134). -/
def Fmt.decode (f : Fmt) (c : Nat) : FVal :=
  let neg := decide ((c >>> (f.ebits + f.fbits)) % 2 = 1)
  let mag := c % 2 ^ (f.ebits + f.fbits)
  let ex := mag >>> f.fbits
  let fr := mag % 2 ^ f.fbits
  if f.hasInf && ex == 2 ^ f.ebits - 1 then (if fr = 0 then .inf neg else .nan)
  else if f.nan == some mag && !f.hasInf then .nan
  else if ex = 0 then .fin neg fr (1 - f.bias - f.fbits)
  else .fin neg (2 ^ f.fbits + fr) (ex - f.bias - f.fbits)

/-- The rounding modes of R140. -/
inductive RMode where
  | rne | rtz | rup | rdn | sr
  deriving DecidableEq, Repr

/-- The mode a code of R140 names; 5 to 7 are reserved. -/
def RMode.ofCode (n : Nat) : Option RMode :=
  match n with
  | 0 => some .rne
  | 1 => some .rtz
  | 2 => some .rup
  | 3 => some .rdn
  | 4 => some .sr
  | _ => none

/-- An exact scaled magnitude: `m * 2^e` in units of `2^q`, as a whole part, a remainder and the remainder's divisor. -/
def scaleParts (m : Nat) (e q : Int) : Nat × Nat × Nat :=
  if q ≤ e then (m <<< (e - q).toNat, 0, 1)
  else
    let sh := (q - e).toNat
    (m >>> sh, m % 2 ^ sh, 2 ^ sh)

/-- R140 and R143: whether the magnitude rounds up from the whole part `k`, for a nonzero remainder `r` of `d`. -/
def roundsUp (mode : RMode) (neg : Bool) (k r d draw : Nat) : Bool :=
  if r = 0 then false else
  match mode with
  | .rne => decide (d < 2 * r) || (decide (2 * r = d) && decide (k % 2 = 1))
  | .rtz => false
  | .rup => !neg
  | .rdn => neg
  | .sr => decide (65536 - r * 65536 / d ≤ draw)

/-- The signed code of a magnitude code. -/
def Fmt.signed (f : Fmt) (neg : Bool) (mag : Nat) : Nat := mag + (if neg then 2 ^ (f.ebits + f.fbits) else 0)

/-- What a conversion gives: the code, whether it overflowed (R142), whether its source was NaN. -/
structure Conv where
  code : Nat
  ovf : Bool
  nan : Bool
  deriving DecidableEq, Repr

/-- R142: the result of an overflow. -/
def Fmt.overflow (f : Fmt) (mode : RMode) (sat neg : Bool) : Conv :=
  let big := f.signed neg f.maxCode
  let toInf := !sat && (match mode with
    | .rne => true | .sr => true | .rtz => false | .rup => !neg | .rdn => neg)
  if !toInf then ⟨big, true, false⟩
  else if f.hasInf then ⟨f.signed neg ((2 ^ f.ebits - 1) <<< f.fbits), true, false⟩
  else match f.nan with
    | some n => ⟨n, true, false⟩
    | none => ⟨big, true, false⟩

/-- The floor of the base-2 logarithm of `m * 2^e`, for a nonzero `m`. -/
def floorLog (m : Nat) (e : Int) : Int := (Nat.log2 m : Int) + e

/-- R141-R143: the one narrowing conversion. `draw` is the element's 16-bit draw of R156. -/
def Fmt.narrow (f : Fmt) (mode : RMode) (sat : Bool) (draw : Nat) (x : FVal) : Conv :=
  match x with
  | .nan => ⟨f.nan.getD 0, false, true⟩
  | .inf neg =>
    if f.hasInf && !sat then ⟨f.signed neg ((2 ^ f.ebits - 1) <<< f.fbits), false, false⟩
    else f.overflow mode sat neg
  | .fin neg m e =>
    if m = 0 then ⟨f.signed neg 0, false, false⟩ else
    let emin : Int := 1 - f.bias
    let q : Int := (if floorLog m e < emin then emin else floorLog m e) - f.fbits
    let (k, r, d) := scaleParts m e q
    let codeOf (k : Nat) : Nat := ((q + f.fbits + f.bias) * 2 ^ f.fbits).toNat + k - 2 ^ f.fbits
    let up := roundsUp mode neg k r d draw
    let c := codeOf (if up then k + 1 else k)
    let over_ := decide (f.maxCode < c) ||
      (decide (mode = .sr) && decide (f.maxCode ≤ codeOf k) && decide (r ≠ 0))
    if over_ then f.overflow mode sat neg else ⟨f.signed neg c, false, false⟩

/-- RNE with no saturation: the conversion of every place that names no rounding word. -/
def Fmt.rne (f : Fmt) (x : FVal) : Conv := f.narrow .rne false 0 x

/-- The product of two values, exact. -/
def FVal.mul (a b : FVal) : FVal :=
  match a, b with
  | .nan, _ => .nan
  | _, .nan => .nan
  | .inf s, .inf t => .inf (s != t)
  | .inf s, .fin t m _ => if m = 0 then .nan else .inf (s != t)
  | .fin t m _, .inf s => if m = 0 then .nan else .inf (s != t)
  | .fin s m e, .fin t n f => .fin (s != t) (m * n) (e + f)

/-- The sign and magnitude of a finite value as an integer at exponent `q`, for `q` at most its own. -/
def intAt (neg : Bool) (m : Nat) (e q : Int) : Int :=
  let k : Nat := m <<< (e - q).toNat
  if neg then -(k : Int) else (k : Int)

/-- The value of an integer at an exponent; an exact zero takes the given sign. -/
def ofInt (v : Int) (q : Int) (zneg : Bool) : FVal :=
  if v = 0 then .fin zneg 0 0 else .fin (decide (v < 0)) v.natAbs q

/-- The sum of two values, exact, with the zero sign of IEEE 754 under round-to-nearest (R135). -/
def FVal.add (a b : FVal) : FVal :=
  match a, b with
  | .nan, _ => .nan
  | _, .nan => .nan
  | .inf s, .inf t => if s = t then .inf s else .nan
  | .inf s, .fin _ _ _ => .inf s
  | .fin _ _ _, .inf s => .inf s
  | .fin s m e, .fin t n f =>
    let q := if e < f then e else f
    if m = 0 && n = 0 then .fin (s && t) 0 0
    else ofInt (intAt s m e q + intAt t n f q) q false

def FVal.neg (a : FVal) : FVal :=
  match a with
  | .nan => .nan
  | .inf s => .inf (!s)
  | .fin s m e => .fin (!s) m e

def FVal.abs (a : FVal) : FVal :=
  match a with
  | .nan => .nan
  | .inf _ => .inf false
  | .fin _ m e => .fin false m e

def FVal.isNan (a : FVal) : Bool := match a with | .nan => true | _ => false
def FVal.isInf (a : FVal) : Bool := match a with | .inf _ => true | _ => false
def FVal.isFin (a : FVal) : Bool := match a with | .fin _ _ _ => true | _ => false
def FVal.isZero (a : FVal) : Bool := match a with | .fin _ 0 _ => true | _ => false
def FVal.isNeg (a : FVal) : Bool := match a with | .fin s _ _ => s | .inf s => s | .nan => false

/-- The exact integer at exponent `q` of a finite value, and 0 of any other; `q` is at most its exponent. -/
def FVal.intAt (a : FVal) (q : Int) : Int :=
  match a with
  | .fin s m e => Sys2Proof.Machine.intAt s m e q
  | _ => 0

/-- The exponent of a finite nonzero value. -/
def FVal.exp? (a : FVal) : Option Int :=
  match a with
  | .fin _ m e => if m = 0 then none else some e
  | _ => none

/-- `a < b`, false when either is NaN; the two zeros are equal. -/
def FVal.lt (a b : FVal) : Bool :=
  match a, b with
  | .nan, _ => false
  | _, .nan => false
  | .inf s, .inf t => s && !t
  | .inf s, _ => s
  | _, .inf t => !t
  | .fin s m e, .fin t n f =>
    let q := if e < f then e else f
    decide (Sys2Proof.Machine.intAt s m e q < Sys2Proof.Machine.intAt t n f q)

/-- `a = b`, false when either is NaN; the two zeros are equal. -/
def FVal.eq (a b : FVal) : Bool := !a.isNan && !b.isNan && !a.lt b && !b.lt a

/-- A finite value times a power of two, exact. -/
def FVal.scale (a : FVal) (k : Int) : FVal :=
  match a with
  | .fin s m e => .fin s m (e + k)
  | x => x

/-- The integer square root, by bits from the top. -/
def isqrtGo : Nat → Nat → Nat → Nat
  | 0, _, r => r
  | b + 1, n, r =>
    let c := r + 2 ^ b
    isqrtGo b n (if c * c ≤ n then c else r)

def isqrt (n : Nat) : Nat := isqrtGo (Nat.log2 n / 2 + 1) n 0

/-- The quotient of two finite values with the second nonzero, carried to 160 bits with its last bit set when it is
inexact, so that every single rounding of it is the rounding of the exact quotient. -/
def divExact (s : Bool) (m : Nat) (e : Int) (t : Bool) (n : Nat) (f : Int) : FVal :=
  if m = 0 then .fin (s != t) 0 0 else
  let sh := 160 + Nat.log2 n - Nat.log2 m
  let k := (m <<< sh) / n
  let stick := if (m <<< sh) % n = 0 then 0 else 1
  .fin (s != t) (2 * k + stick) (e - f - sh - 1)

/-- Division (R161: correctly rounded), before its rounding. -/
def FVal.div (a b : FVal) : FVal :=
  match a, b with
  | .nan, _ => .nan
  | _, .nan => .nan
  | .inf _, .inf _ => .nan
  | .inf s, .fin t _ _ => .inf (s != t)
  | .fin s _ _, .inf t => .fin (s != t) 0 0
  | .fin s m e, .fin t n f =>
    if n = 0 then (if m = 0 then .nan else .inf (s != t)) else divExact s m e t n f

/-- Square root (R161: correctly rounded), before its rounding. -/
def FVal.sqrt (a : FVal) : FVal :=
  match a with
  | .nan => .nan
  | .inf s => if s then .nan else .inf false
  | .fin s m e =>
    if m = 0 then .fin s 0 0
    else if s then .nan
    else
      let sh := 320 + (e % 2).toNat
      let v := m <<< sh
      let r := isqrt v
      let stick := if r * r = v then 0 else 1
      .fin false (2 * r + stick) ((e - sh) / 2 - 1)

/-! MX blocks. -/

/-- The element formats of the MX codes of R132 other than MXINT8, and the plain formats. -/
def fmtOf (code : Nat) : Option Fmt :=
  match code with
  | 0x0 => some .fp32
  | 0x1 => some .bf16
  | 0x2 => some .fp16
  | 0x3 => some .e4m3
  | 0x4 => some .e5m2
  | 0x5 => some .e4m3
  | 0x6 => some .e5m2
  | 0x7 => some .e3m2
  | 0x8 => some .e2m3
  | 0x9 => some .e2m1
  | 0xC => some .k48
  | 0xD => some .fp64
  | _ => none

/-- Whether a format code of R132 is an MX format. -/
def isMx (code : Nat) : Bool := decide (5 ≤ code) && decide (code ≤ 0xA)

/-- The element width of a format in bits (R132, R137); KB24 and K48 give their element-plane width. -/
def elemBits (code : Nat) : Nat :=
  match code with
  | 0x0 => 32 | 0x1 => 16 | 0x2 => 16 | 0x3 => 8 | 0x4 => 8 | 0x5 => 8 | 0x6 => 8
  | 0x7 => 6 | 0x8 => 6 | 0x9 => 4 | 0xA => 8 | 0xB => 24 | 0xC => 32 | 0xD => 64 | _ => 0

/-- R136: the value of an element code under a block scale. -/
def mxDecode (code scale c : Nat) : FVal :=
  if scale = 0xFF then .nan
  else if code = 0xA then
    let v := signedOf 8 c
    ofInt v (-6 + scale - 127) false
  else match fmtOf code with
    | some f => (f.decode c).scale (scale - 127)
    | none => .nan

/-- The exponent of the largest element of an MX format (R138). -/
def mxEmax (code : Nat) : Int :=
  match code with
  | 0x5 => 8 | 0x6 => 15 | 0x7 => 4 | 0x8 => 2 | 0x9 => 2 | _ => 0

/-- An integer rounded from `m * 2^e` with sign, in a mode of R140 (R138 step 4, R147 step 2). -/
def roundInt (mode : RMode) (draw : Nat) (x : FVal) : Int :=
  match x with
  | .fin neg m e =>
    let (k, r, d) := scaleParts m e 0
    let k' := if roundsUp mode neg k r d draw then k + 1 else k
    if neg then -(k' : Int) else (k' : Int)
  | _ => 0

/-- An MX block as an engine writes it: scale, element codes, how many elements count in NUM_CNT_OVF, and whether
the block counts in NUM_CNT_NAN. -/
structure MxBlock where
  scale : Nat
  codes : List Nat
  ovf : Nat
  nan : Bool
  deriving DecidableEq, Repr

/-- The largest magnitude of a list of finite values. -/
def maxAbs : List FVal → FVal
  | [] => .fin false 0 0
  | x :: xs => let m := maxAbs xs; if m.lt x.abs then x.abs else m

/-- One MX element (R138 step 4): its code and whether it saturated. -/
def mxElem (code : Nat) (mode : RMode) (scale draw : Nat) (x : FVal) : Nat × Bool :=
  let y := x.scale (127 - scale)
  if code = 0xA then
    let v := roundInt mode draw (y.scale 6)
    let w : Int := if v < -127 then -127 else if 127 < v then 127 else v
    ((BitVec.ofInt 8 w).toNat, decide (w ≠ v))
  else match fmtOf code with
    | some f => let c := f.narrow mode true draw y; (c.code, c.ovf)
    | none => (0, false)

/-- Elements of a block, each with its draw. -/
def mxElems (code : Nat) (mode : RMode) (scale : Nat) : List FVal → List Nat → List (Nat × Bool)
  | [], _ => []
  | x :: xs, ds => mxElem code mode scale (ds.headD 0) x :: mxElems code mode scale xs ds.tail

/-- R138: an MX block formed from its input values and their draws. -/
def mxEncode (code : Nat) (mode : RMode) (xs : List FVal) (draws : List Nat) : MxBlock :=
  if xs.any (fun x => !x.isFin) then ⟨0xFF, xs.map (fun _ => 0), 0, true⟩
  else match maxAbs xs with
    | .fin _ 0 _ => ⟨0, xs.map (fun _ => 0), 0, false⟩
    | .fin _ m e =>
      let raw := floorLog m e - mxEmax code + 127
      let clamped := decide (raw < 0) || decide (254 < raw)
      let sc : Nat := if raw < 0 then 0 else if 254 < raw then 254 else raw.toNat
      let es := mxElems code mode sc xs draws
      ⟨sc, es.map (·.1), if clamped then xs.length else (es.filter (·.2)).length, false⟩
    | _ => ⟨0xFF, xs.map (fun _ => 0), 0, true⟩

/-! KB24 (R144-R148) and 48-bit sums (R146). -/

def kbPoison : Int := -8388608          -- -2^23
def kbMax : Int := 8388607              -- 2^23 - 1
def sumPoison : Int := -140737488355328 -- -2^47

/-- R147: an FP32 value encoded under exponent `e`: the element, whether it saturated, whether it is poison, and the
encoding remainder, which keeps the sign of a zero (R135). -/
structure KbEnc where
  q : Int
  sat : Bool
  nonfin : Bool
  rem : FVal
  deriving DecidableEq, Repr

def kbEncode (e : Nat) (mode : RMode) (draw : Nat) (x : FVal) : KbEnc :=
  if e = 255 then ⟨kbPoison, true, true, .nan⟩
  else match x with
    | .fin _ _ _ =>
      let v := roundInt mode draw (x.scale (150 - e))
      let w : Int := if v < -kbMax then -kbMax else if kbMax < v then kbMax else v
      ⟨w, decide (w ≠ v), false, if w = 0 then x else x.add (ofInt (-w) (e - 150) false)⟩
    | _ => ⟨kbPoison, false, true, .nan⟩

/-- The value of a KB24 element under its block's exponent (R145, R148). -/
def kbValue (e : Nat) (q : Int) : FVal :=
  if e = 255 || q = kbPoison then .nan else ofInt q (e - 150) false

/-- The value of a 48-bit sum under its block's exponent (R146, R148). -/
def sumValue (e : Nat) (s : Int) : FVal :=
  if e = 255 || s = sumPoison then .nan else ofInt s (e - 150) false

/-- R146: the sum of two 48-bit sums; poison is absorbing. -/
def sumAdd (a b : Int) : Int := if a = sumPoison || b = sumPoison then sumPoison else a + b

/-- A KB24 element as a 48-bit sum. -/
def kbToSum (q : Int) : Int := if q = kbPoison then sumPoison else q

/-! Stipple (R153-R156). -/

/-- One round of Philox4x32: the counter words and the key words it uses. -/
def philoxRound (c : Nat × Nat × Nat × Nat) (k0 k1 : Nat) : Nat × Nat × Nat × Nat :=
  let (c0, c1, c2, c3) := c
  let p0 := 0xD2511F53 * c0
  let p1 := 0xCD9E8D57 * c2
  ((p1 >>> 32) ^^^ c1 ^^^ k0, p1 % 2 ^ 32, (p0 >>> 32) ^^^ c3 ^^^ k1, p0 % 2 ^ 32)

def philoxGo : Nat → (Nat × Nat × Nat × Nat) → Nat → Nat → Nat × Nat × Nat × Nat
  | 0, c, _, _ => c
  | n + 1, c, k0, k1 =>
    philoxGo n (philoxRound c k0 k1) ((k0 + 0x9E3779B9) % 2 ^ 32) ((k1 + 0xBB67AE85) % 2 ^ 32)

/-- R153: the four output words of Philox4x32-10, of a 64-bit key and a 128-bit counter. -/
def philox (key ctr : Nat) : Nat × Nat × Nat × Nat :=
  philoxGo 10 (ctr % 2 ^ 32, (ctr >>> 32) % 2 ^ 32, (ctr >>> 64) % 2 ^ 32, (ctr >>> 96) % 2 ^ 32)
    (key % 2 ^ 32) ((key >>> 32) % 2 ^ 32)

/-- R157: a rounding word's fields. -/
structure RWord where
  mode : RMode
  sat : Bool
  layer : Nat
  stream : Nat
  base : Nat
  deriving DecidableEq, Repr

/-- R157, R140: the rounding word, or none when its mode is reserved or a field given as zero is not. -/
def RWord.parse (w : BitVec 128) : Option RWord :=
  let f (lo n : Nat) : Nat := (w.extractLsb' lo n).toNat
  match RMode.ofCode (f 0 3) with
  | none => none
  | some m => if f 4 12 = 0 && f 112 16 = 0 then
      some ⟨m, decide (f 3 1 = 1), f 16 16, f 32 32, f 64 48⟩ else none

/-- R156: the 16-bit draw of element `n`, with the job seed and STIP_BASE sampled at the operation's issue. -/
def drawOf (seed stip : Nat) (r : RWord) (n : Nat) : Nat :=
  let ctr := (r.base + n / 8) % 2 ^ 48 + r.layer * 2 ^ 48 + stip * 2 ^ 64
  let (o0, o1, o2, o3) := philox (seed + r.stream * 2 ^ 32) ctr
  let i := n % 8 / 2
  let o := if i = 0 then o0 else if i = 1 then o1 else if i = 2 then o2 else o3
  if n % 2 = 0 then o % 2 ^ 16 else o >>> 16

end Sys2Proof.Machine
end

