-- ==== Sys2Proof/Machine/SMap.lean ====
section
/-! DEFINITION. Sparse maps: lists of (key, value) pairs with strictly rising keys and no entry equal to the value
an unlisted key reads as. Every memory, register block and table of the model is one, so equal contents are equal data. -/

namespace Sys2Proof.Machine

/-- A sparse map from numbers to values. -/
abbrev SMap (α : Type) := List (Nat × α)

/-- The entry of a key, if it is listed. -/
def SMap.find {α : Type} : SMap α → Nat → Option α
  | [], _ => none
  | (k, v) :: m, i => if i = k then some v else SMap.find m i

/-- What a key reads as: its entry, or `d` when it has none. -/
def SMap.getD {α : Type} (m : SMap α) (i : Nat) (d : α) : α := (SMap.find m i).getD d

/-- The map with key `i` listed as `v`. -/
def SMap.ins {α : Type} : SMap α → Nat → α → SMap α
  | [], i, v => [(i, v)]
  | (k, w) :: m, i, v =>
    if i < k then (i, v) :: (k, w) :: m
    else if i = k then (i, v) :: m
    else (k, w) :: SMap.ins m i v

/-- The map with key `i` unlisted. -/
def SMap.del {α : Type} : SMap α → Nat → SMap α
  | [], _ => []
  | (k, w) :: m, i =>
    if i < k then (k, w) :: m
    else if i = k then m
    else (k, w) :: SMap.del m i

/-- The map with `i` reading as `v`, where an unlisted `i` reads as `d`: the canonical form is kept by unlisting
a key whose new value is `d`. -/
def SMap.put {α : Type} [DecidableEq α] (m : SMap α) (i : Nat) (v d : α) : SMap α :=
  if v = d then SMap.del m i else SMap.ins m i v

/-- Every listed key is above `lo`, and the keys rise strictly. -/
def SMap.above {α : Type} : Nat → SMap α → Bool
  | _, [] => true
  | lo, (k, _) :: m => decide (lo < k) && SMap.above k m

/-- The keys rise strictly. -/
def SMap.sorted {α : Type} : SMap α → Bool
  | [] => true
  | (k, _) :: m => SMap.above k m

/-- The canonical form, for the values `d` an unlisted key reads as. -/
def SMap.wf {α : Type} [DecidableEq α] (m : SMap α) (d : Nat → α) : Bool :=
  SMap.sorted m && m.all (fun p => decide (p.2 ≠ d p.1))

end Sys2Proof.Machine
end

