-- ==== Sys2Proof/Machine/State.lean ====
section
/-! DEFINITION. The state of the module as plain data (R2, R3, R64, R99, R100, R168 and the register chapters), the
reasons a command can stop, and the state right after reset. A register that shows a piece of state in full is that
state's home (`State.regs` and `Tile.regs`, keyed as Machine/Regs.lean says); a register that is only a view of other
state is computed when it is read. -/

namespace Sys2Proof.Machine

/-- What a tile's sequencer is doing (R99 TILE_SEQ_STATUS.state). -/
inductive RunState where
  | idle | running | atBarrier | atTickwait | ended | faulted
  deriving DecidableEq, Repr

/-- The instruction behind an operation, as sample records and latencies need it (R456, R468): its address, its issue
cycle, whether that cycle was in an exchange phase, TICK_NUMBER then, and the cycles since the tile's last release
from tick-wait. -/
structure Origin where
  pc : Nat
  at_ : Nat
  xph : Bool
  tick : Nat
  tcyc : Nat
  deriving DecidableEq, Repr

/-- A scalar result on its way to its register (R71, R96): it reads as the register's value from cycle `due`. -/
structure Pend where
  reg : Nat
  val : Word
  tag : Bool
  due : Nat
  deriving DecidableEq, Repr

/-- One level of the loop stack (R64, R85): the byte addresses of the first and last body instructions, and how many
iterations remain, the running one included. -/
structure Loop where
  first : Nat
  last : Nat
  count : Nat
  deriving DecidableEq, Repr

/-- Row fetch (R69). A row held carries the poison flags of its four segments as its read found them (R68, R106). -/
structure Fetch where
  cur : Option Nat               -- the row the sequencer issues from
  flags : List Bool
  entered : Bool                 -- whether it has been entered
  next : Option (Nat × Nat)      -- the row of the next-row buffer, with the cycle from which its read is presented
  granted : Option Nat           -- the cycle in which that read was granted
  nextFlags : List Bool
  got : Bool                     -- the row has been delivered
  lost : Nat                     -- the cycles its read has lost to other requesters
  starts : List (Nat × List Bool)  -- the loop-start buffer: the start rows of the active loops that have been entered
  deriving DecidableEq, Repr

/-- Nothing fetched. -/
def Fetch.none : Fetch := ⟨Option.none, [], false, Option.none, Option.none, [], false, 0, []⟩

/-- The read of row `r` presented from cycle `c` on, with no row held. -/
def Fetch.at_ (r c : Nat) : Fetch := { Fetch.none with next := some (r, c) }

/-- The operations of the Muller, Glaze, stream and fabric queues (R93). -/
inductive QKind where
  | mmac | mclr | mstore | grun | sload | sstore | fput | fsend
  deriving DecidableEq, Repr

/-- An entry of one of those queues (R88, R89, R92): its descriptor as read at issue and
the address it was read from, its tokens, STIP_BASE as sampled
at issue (R158), its origin, and the number that names it among the tile's operations. -/
structure QOp where
  kind : QKind
  desc : Row
  parm : Nat
  addr : Nat
  td : Nat
  tw : Nat
  stip : Word
  org : Origin
  id : Nat
  started : Bool       -- a stream or fabric operation that has started and keeps its entry until its token clears
  deriving DecidableEq, Repr

/-- A send in flight (R217): its physical destination, or none when it was discarded at issue (R221, R225); the row and
the poison flags of its four segments; the cycle in which it commits; its token and the status it clears with. -/
structure Send where
  dest : Option Nat
  daddr : Nat
  data : Row
  poison : Nat
  due : Nat
  td : Nat
  status : Nat
  org : Origin
  deriving DecidableEq, Repr

/-- A SIG or WAITGE of the sync queue that has not cleared (R87, R330). -/
structure SyncOp where
  wait : Bool
  vcid : Nat
  val : Nat
  td : Nat
  org : Origin
  id : Nat
  deriving DecidableEq, Repr

/-- A Palette row read through a port of an engine (R102, R108, R117): its number, its 64 bytes, its segments' poison
flags, and whether the read failed R116. -/
structure PortRead where
  row : Nat
  v : Nat
  pois : List Bool
  viol : Bool
  deriving DecidableEq, Repr

/-- A chunk of both operands as fetched, with its first compute cycle (R179). -/
structure Chunk where
  firstC : Nat
  a : List PortRead
  b : List PortRead
  deriving DecidableEq, Repr

/-- An operation as the Pentimento tags name it (R453, R456): unit, operation, token, instruction address, tile. -/
structure Who where
  unit : Nat
  op : Nat
  tok : Nat
  pc : Nat
  tile : Nat
  deriving DecidableEq, Repr

/-- What a request of the edge port does when its bank is granted (R110): an access that another unit of the module makes
in that cycle, a row of an SLOAD, a row of an SSTORE. -/
inductive EdgeKind where
  | unit | load | store
  deriving DecidableEq, Repr

/-- A request that waits at the edge port (R110, R111, R250): the cycle in which it reached the tile; its place among those
of one cycle (0 off-die write, 1 stream transfer, 2 fabric read); its Palette address; of a transfer, the operation, the
row's number in it, the row's data and flags, and how long the stack takes to accept a row read. -/
structure EdgeReq where
  at_ : Nat
  prio : Nat
  kind : EdgeKind
  addr : Nat
  op : Nat
  row : Nat
  v : Nat
  marks : List Bool
  lat : Nat
  who : Who
  deriving DecidableEq, Repr

/-- A running MMAC or MSTORE (R171-R180): the queue entry, its start cycle, the
block and chunk (or the piece of each port) it has reached, its cycles, and what its blocks have met. -/
structure MulRun where
  op : QOp
  start : Nat
  blk : Nat
  chunk : Nat
  firstC : Nat           -- first compute cycle of the last chunk fetched
  commitC : Nat          -- commit cycle of the last step committed
  waitDone : Bool        -- every chunk of the block has committed; the block is not yet complete
  nanSeen : Bool         -- the block read a NaN or infinite operand (R183)
  errs : List MulFault   -- the block's faults
  viol : Bool            -- an access failed R116: the token clears with ERROR
  nextP : Nat            -- MSTORE: next piece of port P
  nextQ : Nat            -- MSTORE: next piece of port Q
  pieces : Nat           -- MSTORE: how many pieces there are
  pois : List (Nat × Bool)  -- MSTORE: the sample of each block's mark (R185)
  fOn : Bool             -- MMAC: a chunk is still to be fetched
  fBlk : Nat             -- the block and chunk being fetched
  fChunk : Nat
  fFrom : Nat            -- the cycle from which its rows are presented
  fAfter : Nat           -- the cycle before which it does not compute
  after : Nat            -- the cycle in which the token of the operation before it cleared, when that was no MMAC (R178)
  fA : List PortRead     -- its rows read so far through P and Q
  fB : List PortRead
  fLast : Nat            -- the cycle of the last grant
  ready : List Chunk     -- chunks fetched whose step has not committed, oldest first
  deriving DecidableEq, Repr

/-- A granule tag of Pentimento (R453): state 0 NEVER, 1 WRITTEN, 2 PENDING; the producer and the read claim. -/
structure Gran where
  st : Nat
  prod : Who
  claim : Option Who
  deriving DecidableEq, Repr

/-- One element of a KB24 output block that waits for its block's last beat (R202). -/
structure KbElem where
  e : Nat               -- element within its segment
  value : FVal          -- the lane's final value
  rem : FVal            -- the encoding remainder
  pois : Bool
  deriving DecidableEq, Repr

/-- A write that Glaze will request (R209, R212): the cycle from which it is requested, 0 while it waits for the O writes
of its beat; its place in the order of R209 (1 W, 2 O, 3 O aux, 4 O2); the operation and the beat; at most one row of
bytes with their segments' poison flags; the instruction behind it; the record that the update watch receives with it, as
(layer, r0, r1, poison, skips) (R207). -/
structure GlzWrite where
  due : Nat
  cls : Nat
  op : Nat
  beat : Nat
  addr : Nat
  len : Nat
  v : Nat
  marks : List Bool
  who : Who
  watch : Option (Nat × Nat × Nat × Bool × Nat)
  deriving DecidableEq, Repr

/-- What one beat of a GRUN has read (R189, R209, R210): its place, its rows with those kept from earlier beats, its
accumulator elements and whether their block read as poisoned, and the cycle in which its last read was granted. -/
structure GlzRead where
  seg : Nat
  beat : Nat
  rows : List PortRead
  accIn : List Nat
  accPois : Bool
  at_ : Nat
  deriving DecidableEq, Repr

/-- A running GRUN (R211-R213): the queue entry, its chain row, the segment and beat being read, the beats read, the
segment and beat in the lanes, the reduction of that segment (the binary counter of partial sums of R204, the maximum of
R205), the KB24 block in progress (R202) and its cycles. -/
structure GlzRun where
  op : QOp
  chain : Row
  chainC : Option Nat    -- the cycle in which the chain row's read was granted
  chainPois : List Bool  -- the flags of its segments
  chainViol : Bool       -- it fails eng_r
  start : Nat
  rOn : Bool             -- a beat is still to be read
  rSeg : Nat
  rBeat : Nat
  rFrom : Nat            -- the cycle from which that beat's reads are presented
  reads : List PortRead  -- its rows read so far
  held : List PortRead   -- rows read with an earlier beat and still needed: the S record, scale and header rows
  acc : Option (List Nat × Bool)  -- its accumulator elements and whether their block read as poisoned (R210)
  ready : List GlzRead   -- beats read that have not entered the lanes, oldest first
  seg : Nat
  beat : Nat
  ended : Bool           -- every beat has passed; the token clears after the last write
  partC : Nat            -- the cycle after the last tree partial
  beats : Nat            -- beats done
  writeC : Nat           -- the cycle of the last write granted
  sum0 : List (FVal × Nat)    -- partial sums with their levels, latest first (R204)
  sum1 : List (FVal × Nat)
  best : Option (FVal × Nat)  -- the maximum and the lowest element that has it (R205)
  nanAt : Option Nat          -- the lowest element of a NaN term
  posInf : Bool               -- a term of tap0 was +infinity, one was -infinity (R204)
  negInf : Bool
  segPois : Bool
  kbHdr : Nat × Bool          -- the block's header as read, and whether it was poisoned
  kb : List KbElem
  kbSat : Bool
  kbNonfin : Bool
  viol : Bool
  skips : Nat            -- flagged Y blocks skipped in the segment (R195, R363)
  deriving DecidableEq, Repr

/-- A pending sample record of R468 is a list of its 32 bytes. -/
abbrev Record := List (BitVec 8)

/-- A physical tile: its sequencer (R64), its engines' queues and running operations, its Palette and accumulators
(R100, R168), its control and status registers (R99 to R470), and the tile cycle it has reached. -/
structure Tile where
  -- sequencer
  run : RunState
  sregs : SMap Word            -- s1 to s31; s0 is never listed
  tags : BitVec 32             -- poison tags
  preds : BitVec 8             -- p1 to p7 in bits 1 to 7
  pc : Nat
  loops : List Loop            -- innermost first
  pend : List Pend
  tokPend : BitVec 32
  tokStat : Word               -- bits [2k + 1:2k] hold tk's status
  tokAt : SMap Nat             -- the cycle in which token k last cleared; 0 for untracked operations, 32 + q for queue q
  leaving : List (Nat × Nat × Nat)  -- operations that have left their queues, as (the cycle of the clear, queue, token), as far as an issue can still meet them
  fetch : Fetch
  -- time
  cyc : Nat                    -- the tile cycle reached
  issued : Nat                 -- the cycle of the last issue
  qwait : Option Nat           -- the cycle from which the next instruction has found its queue full
  claims : List (Nat × Nat × Nat)  -- grants of the last cycles: (cycle, bank, rank of R110); accumulator block b is bank 1000 + b, the edge port itself 100
  mulC : Nat                   -- the cycle up to which the Muller's ports have presented their rows
  glzC : Nat                   -- the same of Glaze
  edgeC : Nat                  -- the same of the edge port
  edge : List EdgeReq          -- the requests at the edge port, in the order in which it takes them (R110)
  edgeDone : List Nat          -- the cycles of its last 32 grants, latest first
  started : Nat                -- the cycle of the start (R67)
  released : Nat               -- the cycle of the last release from a die barrier, or of the start
  tickRel : Nat                -- the cycle of the last release from tick-wait, or of the start
  arrived : Nat                -- the cycle in which the tile issued BAR, TICKWAIT or END
  xlen : Nat                   -- xlen of the last BAR
  phaseLen : Nat               -- xlen of the exchange phase that the last release began
  inPhase : Bool               -- a die-barrier release with an exchange phase has happened
  slipped : Bool
  winLo : Nat                  -- XCH_WIN as sampled at the last release (R220)
  winHi : Nat
  winEn : Bool
  model : Nat                  -- the context's timing model, 1 or 2
  pen : Bool                   -- Pentimento in effect (R453)
  -- queues
  nextId : Nat
  muller : List QOp
  glaze : List QOp
  stream : List QOp
  fabric : List QOp
  exch : List Send
  sync : List SyncOp
  mul : List MulRun            -- running Muller operations, oldest first
  mulToken : Nat               -- the cycle in which the last Muller token cleared
  mulBar : Nat                 -- no Muller operation starts before this cycle: the last was rejected (R178)
  mulLast : Nat × Nat × Nat    -- the Muller operation that ran last: the cycle of its clear, its op and its blocks as MUL_STATUS shows them before it
  marked : List (Nat × Nat)    -- the blocks whose marks were last set, with the cycle (R184)
  glz : List GlzRun            -- running GRUNs, oldest first; one follows another whose reads have all been granted
  glzRead : Nat                -- the cycle in which the last GRUN's last read was granted
  glzToken : Nat               -- the latest cycle in which a GRUN's token has cleared
  glzW : List GlzWrite         -- writes of Glaze not yet granted
  late : List (Nat × Nat × Nat × Nat × List Bool)  -- engine writes granted, not yet visible: (cycle, address, bytes, value, marks) (R103)
  -- memories
  regs : SMap Word
  pal : SMap (BitVec 8)
  palPois : SMap Bool          -- by segment
  palErr : SMap Nat            -- by segment: the mark of its error pattern, 2k + 1 single-bit, 2k uncorrectable
  writeBack : List Nat         -- segments whose corrected codeword waits (R106)
  stores : List (Nat × Nat × Nat × Nat × Bool)  -- scalar stores not yet in the Palette: (cycle, address, bytes, value, tagged)
  partNext : List (Nat × Nat × Word)            -- descriptor replacements not yet in force: (cycle, k, value) (R114)
  acc : SMap (BitVec 32)       -- accumulator elements, block * 1024 + 32 * i + j
  patrolRow : SMap Nat         -- next patrol row of each bank
  patrolAt : SMap Nat          -- cycle before which each bank makes no patrol read
  rxBytes : SMap Nat           -- accepted byte count of buffer 64 * slot + i
  grans : SMap Gran            -- Pentimento tags by row; blocks at 32768 + b
  penSoon : List (Nat × Nat × Who)  -- send claims not yet in force: (cycle, row, producer) (R454)
  hazards : Nat                -- hazards raised, for the rate of R456
  gesso : Bool
  adrift : List Send          -- sends in flight that a context reset has cut from their tokens (R129)
  vrnRows : List (Nat × Nat)  -- rows that a snapshot being written captures: (first, rows) (R377)
  vrnAt : Nat                 -- how many of them Varnish has read (R378)
  vrnTorn : Bool              -- one of them has been written since the close
  deriving DecidableEq, Repr

/-- An origin that names no instruction. -/
def Origin.none : Origin := ⟨0, 0, false, 0, 0⟩

/-- A tile that holds nothing: every register at its reset value, memories zero, no context. -/
def Tile.fresh : Tile :=
  { run := .idle, sregs := [], tags := 0, preds := 0, pc := 0, loops := [], pend := [], tokPend := 0, tokStat := 0,
    tokAt := [], leaving := [], fetch := Fetch.none, cyc := 0, issued := 0, claims := [], mulC := 0, glzC := 0, edgeC := 0, edge := [], edgeDone := [], started := 0,
    released := 0, tickRel := 0, arrived := 0, xlen := 0, phaseLen := 0, qwait := none, penSoon := [], inPhase := false, slipped := false, winLo := 0, winHi := 0,
    winEn := false, model := 0, pen := false, nextId := 0, muller := [], glaze := [], stream := [], fabric := [],
    exch := [], sync := [], mul := [], mulToken := 0, mulBar := 0, mulLast := (0, 0, 0), marked := [], glzW := [], late := [], glz := [], glzRead := 0, glzToken := 0, regs := [], pal := [],
    palPois := [], palErr := [], writeBack := [], stores := [], partNext := [], acc := [], patrolRow := [],
    patrolAt := [], rxBytes := [], grans := [], hazards := 0, gesso := false, adrift := [], vrnRows := [], vrnAt := 0, vrnTorn := false }

/-! The module. -/

/-- A flit (R260): its header and its payload. -/
structure Flit where
  hdr : BitVec 128
  data : BitVec 1024
  deriving DecidableEq, Repr

/-- What a port sent in its last slot (R268). -/
inductive SlotOut where
  | none
  | flit (f : Flit)
  | lcf (x : BitVec 1152)
  deriving DecidableEq, Repr

/-- A port of a fabric die (R257-R268, R287): its output queue in arrival order, its sender's numbering and replay
buffer, the link credits, its receiver's counts, and its training. -/
structure Port where
  out : List (Option Nat × Flit)  -- each with the port whose buffer it holds
  txNext : Nat                  -- the number of the next new flit, modulo 2^24
  replay : List Flit            -- flits sent and not acknowledged, oldest first
  resend : Nat                  -- how many flits at the end of the replay buffer are still to be sent again
  inflight : List (Nat × Bool)  -- (vc, dateline class) of flits whose buffers the peer has not freed
  credSeen : List Nat           -- the last cumulative credit counts received, one a VC
  rxGood : Nat                  -- flits received good, modulo 2^24
  freed : List Nat              -- buffers freed here, one count a VC, modulo 2^16
  discarding : Bool             -- a bad flit has been met and its number not yet received good
  askReplay : Bool              -- a replay request is due
  reqNum : Nat                  -- the number of the last replay request received, and how often it has repeated
  reqCount : Nat
  rr : Nat                      -- the VC after the one last granted
  slot : Nat                    -- the slot of the frame, 0 to 256
  moved : Bool                  -- the framing LCF moved to this slot
  vc3Wait : Bool                -- the VC3 flit at the head has found no credit, and is counted
  slotAt : Nat                  -- the fc of the last slot
  vc3Gap : Nat                  -- flit times since this module's own last VC3 flit
  dry0 : Option Nat             -- the fc from which there has been no VC0 credit
  last : SlotOut
  darkAt : Nat                  -- the fc in which the transmitter went dark
  lit : Bool                    -- the transmitter is on
  since : Nat                   -- the fc in which the port entered its state
  tries : Nat                   -- failed retrain attempts
  drained : Bool                -- under PENDING_ENABLE: the drain has completed
  stamp : Nat                   -- the fc stamp of the ident LCF it sent
  deriving DecidableEq, Repr

def Port.fresh : Port :=
  { out := [], txNext := 0, replay := [], resend := 0, inflight := [], credSeen := [0, 0, 0, 0], rxGood := 0,
    freed := [0, 0, 0, 0], discarding := false, askReplay := false, reqNum := 0, reqCount := 0, rr := 0, slot := 0,
    moved := false, vc3Wait := false, slotAt := 0, vc3Gap := 16, dry0 := none, last := .none, darkAt := 0, lit := false, since := 0, tries := 0,
    drained := false, stamp := 0 }

/-- A unit of the module that sends on a flow: a buddy copy of a context, named by its number (R383), or an export channel
(R368). -/
inductive FlowUnit where
  | mirror (ctx k : Nat)
  | channel (x : Nat)
  deriving DecidableEq, Repr

/-- Whose an operation on a flow is: the FPUT or FSEND of a physical tile, or a unit's. -/
inductive FlowOwner where
  | tile (p : Nat) (op : QOp)
  | unit (u : FlowUnit)
  deriving DecidableEq, Repr

/-- What waits for a flow's credit: a tile's operation, a buffer of a copy with its destination, its bytes and their
poison flags, or an export channel, which fills one buffer after the other. -/
inductive FlowJob where
  | tile (p : Nat) (op : QOp)
  | put (u : FlowUnit) (dtile daddr n data : Nat) (pois : List Bool)
  | channel (x : Nat)
  deriving DecidableEq, Repr

/-- An operation that has sent flits on a flow (R283). -/
structure FlowOp where
  owner : FlowOwner
  start : Nat          -- the fc in which it took its credit
  dtile : Nat          -- its destination tile
  endCount : Nat
  addr : Nat           -- destination bytes, for matching NACKs
  bytes : Nat
  nack : Bool
  viol : Bool          -- a source row failed R116
  leftAt : Option Nat  -- the fc in which its last flit left
  deriving DecidableEq, Repr

/-- A SIG or WAITGE on its way to its counter (R328, R331): the physical tile, its context and timing model when it was
issued, the request, and the counter (die, index, epoch) it translated to, if any. -/
structure SyncReq where
  tile : Nat
  ctx : Nat
  model : Nat
  op : SyncOp
  target : Option (Nat × Nat × Nat)
  deriving DecidableEq, Repr

/-- A SIG whose ADD flit waits for its resolution (R337). -/
structure FwdSig where
  req : SyncReq
  endCount : Nat
  nack : Bool
  leftAt : Nat
  deriving DecidableEq, Repr

/-- What a flow context holds beside its registers (R277-R283). -/
structure FlowSt where
  held : Option Word             -- W0 written under DRAINING, to take effect when the drain completes (R278)
  drainAt : Nat
  waiting : List FlowJob         -- what waits for credit, in issue order
  ops : List FlowOp
  sigs : List FwdSig             -- SIGs on a forwarded counter (R337)
  rtile : Nat                    -- the tile that granted the credits held (R262)
  latch : Nat                    -- the tile's role epoch when the context entered ACTIVE (R343)
  unrep : Nat                    -- flits resolved since the last ACK
  oldest : Option Nat            -- the fc of the oldest resolution not reported
  given : Nat                    -- buffers credited by the Varnish engine, modulo 64 (R383)
  deriving DecidableEq, Repr

def FlowSt.fresh : FlowSt := ⟨none, 0, [], [], [], 0, 0, 0, none, 0⟩

/-- What waits at the fabric ports for a tile's next compute-phase cycle (R111): a WRITE, or the source reads of an operation
that took its buffer at fc `at_`, with its destination. -/
inductive EdgeJob where
  | write (x : Flit)
  | read (op : QOp) (at_ tile addr : Nat)
  deriving DecidableEq, Repr

/-- The fabric dies (0 for W, 1 for E). -/
structure FabSt where
  ports : SMap Port              -- 32 * die + port
  flows : SMap FlowSt            -- by flow ID
  sched : List (Nat × Flit)      -- flits ready to leave their flow: (flow ID, flit), in order within a flow (R284)
  schedAt : List Nat             -- round-robin pointers: 4 * die + vc for the flow schedulers of VC0 and VC1, 4 * die + 2 for detours
  inbox : List (Nat × Option Nat × Flit)  -- flits for this module that have passed its router: (fabric die, the port whose buffer it holds, flit)
  edge : List (Nat × Nat × EdgeJob)       -- (physical tile, the cycle in which it reached its edge, what waits)
  deriving DecidableEq, Repr

/-- The tick logic and the tick master (R39-R61). -/
structure TickSt where
  bindNow : Word        -- the binds in effect (R41)
  accepted : Nat        -- A(n)
  period : Nat          -- the period and limit in force (R61)
  limit : Nat
  heard : Nat           -- the fc of the last TICK or HEARTBEAT from the master
  masterRun : Bool      -- the run state the last HEARTBEAT showed
  emitted : Nat         -- E(n)
  stopPending : Bool    -- run was written 0 while emitting (R56)
  halted : Bool         -- RECOVER has been emitted; no tick until recovery restarts emission (R49)
  frozen : Bool         -- the hold set is frozen
  delayed : Bool        -- S(n + 1) has passed with the hold set not empty
  claim : Nat           -- the role claimed, 0 for none (R55)
  claimAt : Nat
  claimFrom : Option Nat  -- the standby claim a master has recorded
  trained : Bool        -- the links have been trained: claims may start
  heldFor : Nat         -- the tick number of the HOLD in force
  holdAt : Nat          -- D
  tree : Nat            -- the broadcast tree that the master's ticks use
  ePeriod : Nat         -- P(n) and the limit as the master's last tick carried them
  eLimit : Nat
  everTick : Bool       -- the module has accepted a tick since its reset
  ovr : Word            -- contexts that overran and are left to the recovery sequencer (R43)
  known : List (Nat × Nat)  -- numbers of ticks that the module has emitted or received, as intervals [lo, hi) (R48)
  lastOut : Nat         -- the number of its last own emission (R58)
  tickMaster : Option Nat  -- the master of the last accepted tick (R59)
  deriving DecidableEq, Repr

/-- A stream transfer that has started (R245-R252). -/
structure Xfer where
  tile : Nat
  op : QOp
  die : Nat
  stack : Nat      -- the physical stack
  ctx : Nat
  slot : Nat       -- the region slot, with the granules it named at the start
  base : Nat
  count : Nat
  start : Nat
  revoked : Bool   -- the slot has been released since: no further request (R252)
  dead : Bool      -- its context has been reset: it ends when its issued requests have returned (R254)
  asked : Nat      -- rows taken in the engine's turns
  issued : Nat     -- rows requested of the stack
  lastReq : Nat    -- the cycle of the last request
  due : Nat        -- the cycle in which the last of them has returned
  moved : Nat      -- rows moved
  last : Nat       -- the cycle of the last of them: granted at the edge port (SLOAD), accepted by the stack (SSTORE)
  bad : Bool       -- a row has failed R116
  deriving DecidableEq, Repr

/-- A row of an SSTORE on its way into a stack (R246): the cycle in which the stack accepts it, its place, its bytes and
flags, the transfer and its slot, and whether its read failed R116. -/
structure HbmWrite where
  due : Nat
  die : Nat
  stack : Nat
  addr : Nat
  v : Nat
  marks : List Bool
  own : Option (Nat × Nat)   -- the tile and the operation; none once its context has been reset
  ctx : Nat
  slot : Nat
  viol : Bool
  deriving DecidableEq, Repr

/-- The HBM stacks and their engines (R237-R254). Bytes are keyed by (6 * die + stack) * 2^36 + address, flags and error
marks by that divided by 16. -/
structure HbmSt where
  mem : SMap (BitVec 8)
  pois : SMap Bool
  err : SMap Nat                    -- marks as a Palette's
  dirty : SMap (List (Nat × Nat))   -- dirty granules of stack 6 * die + p, as disjoint intervals from low to high
  xfers : List Xfer
  accepts : List HbmWrite           -- in the order in which the stacks accept them
  turns : SMap (Nat × Nat × Nat)    -- by 6 * die + stack: the global tile ID after the one last served, the cycle of the last request and the rows requested in it (R251)
  deriving DecidableEq, Repr

/-- A WAITGE that waits at a counter, with its arrival cycle. -/
structure Waiter where
  req : SyncReq
  arrived : Nat
  deriving DecidableEq, Repr

/-- The source of an increment, as far as its outcome differs (R329, R342, R346): a tile's SIG, a unit of the module, a
doorbell of a context, or a remote module. -/
inductive IncSrc where
  | sig (r : SyncReq)
  | unit
  | bell (ctx : Nat)
  | remote
  deriving DecidableEq, Repr

/-- A held increment (R333), with the cycle from which it is held. -/
structure HeldInc where
  src : IncSrc
  n : Nat
  since : Nat
  deriving DecidableEq, Repr

/-- What a physical counter holds beside its SYN_PCNT record (R323): rb_total, its waiters, its held increments, and how
many increments it has applied in the latest cycle it applied one (R324). -/
structure CntSt where
  rb : Word
  waiters : List Waiter
  held : List HeldInc
  slotAt : Nat
  slotN : Nat
  recent : List (Nat × Nat)   -- the latest increments, as (cycle, amount)
  deriving DecidableEq, Repr

def CntSt.fresh : CntSt := ⟨0, [], [], 0, 0, []⟩

/-- An accepted doorbell on its way (R346). -/
structure Doorbell where
  ctx : Nat
  die : Nat
  idx : Nat
  epoch : Nat
  n : Nat
  deriving DecidableEq, Repr

/-- The sync engines (R323-R348); counters are keyed by 4096 * die + index. -/
structure SynSt where
  cnts : SMap CntSt
  reqs : List SyncReq
  bells : List Doorbell
  waitOwner : SMap Nat    -- the function whose MSI-X vector a host wait slot uses, by 64 * context + slot: 0 the PF, 1 + c a VF
  deriving DecidableEq, Repr

/-- A watched segment's record on its way to the update-watch unit (R363). -/
structure WatchRec where
  ctx : Nat
  layer : Nat
  r0 : Nat
  r1 : Nat
  poison : Bool
  skips : Nat
  deriving DecidableEq, Repr

/-- A watch entry's words 0 to 14, as R365 lays them out. -/
abbrev WatchEntry := List Word

/-- The microbatch sequencer of a context beside its registers (R350): its queues and whether a step is open. -/
structure MbsSt where
  fwd : List Nat
  bwd : List Nat
  isOpen : Bool
  rel : List Word         -- MBS_REL0 to MBS_REL7
  deriving DecidableEq, Repr

def MbsSt.fresh : MbsSt := ⟨[], [], false, List.replicate 8 0⟩

/-- A posted write that the module has issued to the host (R473): an MSI-X message of a function, an ERRC ring entry, or
export data of a channel. -/
inductive HostMsg where
  | msix (func vec : Nat) (addr : Word) (data : Nat)
  | ring (addr : Nat) (entry : Nat)
  | exportData (chan : Nat) (addr : Nat) (bytes : Nat) (data : List (BitVec 8))
  deriving DecidableEq, Repr

/-- What the PCIe side holds beside its registers (R472-R484): the writes issued, oldest first; the MSI-X tables by
0x8000 * function + byte offset; the pending bits as (function, vector); Bus Master Enable. -/
structure HostSt where
  out : List HostMsg
  msix : SMap Word
  pba : List (Nat × Nat)
  bme : Bool
  rdata : Nat     -- what the last host read returned, and whether it completed as poisoned data
  rpois : Bool
  toFree : List Nat   -- the contexts whose reset ends in FREE (R480)
  aer : BitVec 32     -- the AER capability's uncorrectable error status (R474)
  tap : Nat           -- the test access port's instruction: 0 BYPASS, 1 IDCODE, 2 SAMPLE/PRELOAD, 3 EXTEST (R491)
  deriving DecidableEq, Repr

/-- The training units (R350-R371). -/
structure TrainSt where
  mbs : SMap MbsSt
  entries : SMap WatchEntry
  records : List WatchRec
  deriving DecidableEq, Repr

/-- A migration of a row (R416): its purpose (0 Retire, 1 Cover, 2 Return, 3 Audit), its physical columns p and q, the
logical column; the fc in which its copy finished, and whether the barrier that its tile waits in meets R418's test. -/
structure Mig where
  die : Nat
  row : Nat
  purpose : Nat
  p : Nat
  q : Nat
  log : Nat
  copied : Option Nat
  ok : Bool
  deriving DecidableEq, Repr

/-- The audits of a row (R420-R423), by row key 48 * die + row: the last target, the fc in which the last audit ended;
the phase (0 none, 1 migrating, 2 in shadow), the spare, the spare of a first audit that mismatched, and whether the
spare is to be released at the next die barrier. -/
structure Audit where
  target : Nat
  ended : Nat
  phase : Nat
  spare : Nat
  first : Option Nat
  release : Bool
  deriving DecidableEq, Repr

def Audit.fresh : Audit := ⟨31, 0, 0, 0, none, false⟩

/-- A column under scan (R425, R426): whether it waits for its Cover migration, whether it is covered, its failures. -/
structure ScanCol where
  col : Nat
  waits : Bool
  covered : Bool
  fails : Nat
  deriving DecidableEq, Repr

/-- The rolling scan of a die: the next row, the columns still to visit, those under scan, the fc of the last row's end. -/
structure Scan where
  next : Nat
  todo : List Nat
  cur : List ScanCol
  ended : Nat
  deriving DecidableEq, Repr

def Scan.fresh : Scan := ⟨0, [], [], 0⟩

/-- A retirement of Easel's flash list (R428). -/
structure Retired where
  die : Nat
  row : Nat
  col : Nat
  prov : Bool
  deriving DecidableEq, Repr

/-- The repair units (R414-R432): suspect events that wait for Easel firmware, by die; what the units and Easel firmware
hold beside the registers. -/
structure RepSt where
  suspects : List (Nat × Nat × Nat)     -- (die, physical tile, code), oldest first
  faultAt : SMap Nat                    -- by 64 * die + context: the cycle of the fault in LDR_CTX_FAULT
  smpFree : List Nat                    -- the cycle from which each die's sample queue is empty
  susp : List (Nat × Nat)               -- open suspicions: (physical tile, the fc in which it expires)
  vol : List Retired                    -- volatile retirements in flash, oldest first
  wants : List Mig                      -- migrations that wait to start
  migs : List Mig                       -- migrations in progress
  deferred : List Mig                   -- map changes to stage after Gesso (R419)
  audits : SMap Audit
  scans : SMap Scan                     -- by die
  prov : List (Nat × Nat)               -- provisionally retired tiles scanned: (physical tile, failures)
  held : List (Nat × Nat)               -- tiles beside the serving ones that have held a context's data: (tile, context)
  commit : SMap (List Retired)          -- a commit's candidates by die, while busy
  easelPend : List Nat                  -- Easel firmware's pending doorbells (R410)
  tmapAt : SMap Nat                     -- by row key 48 * die + row: the tile cycle of the host's write of the staged map (R234)
  deriving DecidableEq, Repr

def RepSt.fresh : RepSt := ⟨[], [], [0, 0, 0, 0], [], [], [], [], [], [], [], [], [], [], [], []⟩

/-- A source of a bucket's node (R308, R309): what it has delivered, the block it is delivering with the parts and bytes
received, and the frontier last granted to it. -/
structure BldSrc where
  upto : Nat               -- d(s)
  cur : Option Nat
  parts : Nat              -- one bit a part
  bytes : Nat
  grant : Nat
  deriving DecidableEq, Repr

def BldSrc.fresh : BldSrc := ⟨0, none, 0, 0, 0⟩

/-- A union block that a node accumulates (R296, R305, R311). -/
structure BldBlk where
  e : Nat
  expBad : Bool
  sat : Bool
  nonfin : Bool
  deriving DecidableEq, Repr

/-- A started FSEND of a bucket (R302): its blocks passed so far. -/
structure BldSend where
  tile : Nat
  op : QOp
  start : Nat
  passed : Nat
  viol : Bool
  deriving DecidableEq, Repr

/-- A result block that a member is receiving. -/
structure BldRes where
  blk : Nat
  parts : Nat
  bytes : Nat
  wide : Bool
  e : Nat
  sat : Bool
  nonfin : Bool
  eNext : Nat
  deriving DecidableEq, Repr

/-- The round of a bucket at a member (R295-R314): the contributor's side, the node's side, the member's side. -/
structure BldRound where
  begun : Bool               -- the first FSEND has started
  lastBlk : Option Nat       -- the last block index that an FSEND has sent
  nsent : Nat
  ended : Bool               -- an FSEND with end has started
  sends : List BldSend
  srcs : List BldSrc         -- the local source, then the children by list position
  blks : SMap BldBlk
  grantUp : Nat              -- the parent's grant
  endSent : Bool             -- END has gone up, or down at the root
  broken : Option Nat        -- the frontier at which the round was marked broken (R311)
  walk : Nat                 -- the walk of R312
  res : Option BldRes
  resUpto : Nat              -- one more than the last block whose result the parent has begun
  endDown : Bool             -- END has come down
  nan : Nat
  flags : Nat
  deriving DecidableEq, Repr

def BldRound.fresh : BldRound := ⟨false, none, 0, false, [], [], [], 0, false, none, 0, none, 0, false, 0, 0⟩

/-- The Blend engines (R306-R322): store bytes by 2^26 * fabric die + address, error marks by that divided by 16, the
rounds by flow ID, and by fabric die the next line of the patrol and the fc before which it reads none. -/
structure BldSt where
  store : SMap (BitVec 8)
  err : SMap Nat
  rounds : SMap BldRound
  patrolLine : SMap Nat
  patrolAt : SMap Nat
  deriving DecidableEq, Repr

/-- The state section of a snapshot (R375) as a list of (what, key, value); Machine/Varnish.lean names the items. -/
abbrev Section := List (Nat × Nat × Nat)

/-- A local or buddy slot of a context (R379): the sequence number, how old it is, the state section, the length of each
die's part, and whether a captured item has been written since the close (R377). Its state is in VRN_CTXc_W6. -/
structure VrnSlot where
  seq : Nat
  age : Nat
  sec : Section
  lens : List Nat
  torn : Bool
  parity : Bool        -- a buddy slot: it holds a parity stripe, and the SNAP_ENDs received for it (R381)
  ends : Nat
  deriving DecidableEq, Repr

def VrnSlot.fresh : VrnSlot := ⟨0, 0, [], [], false, false, 0⟩

/-- One operation of a copy: its mirror flow, its destination, its bytes and their poison flags (R383). -/
structure VrnOp where
  flow : Nat
  dtile : Nat
  daddr : Nat
  n : Nat
  data : Nat
  pois : List Bool
  deriving DecidableEq, Repr

/-- A copy on its way to one destination (R380-R383). -/
structure VrnCopy where
  id : Nat
  seq : Nat
  dest : Nat
  image : Bool
  parity : Bool
  delta : Bool
  left : Nat           -- operations whose resolution is awaited
  bytes : Nat          -- sent
  queued : Bool        -- every operation has been handed to its flow
  failed : Bool
  todo : List VrnOp    -- its operations, and those of the whole when blocks are left out (R382)
  full : List VrnOp
  deriving DecidableEq, Repr

/-- A copy that is being received (R383): its sender, what it is, the slot chosen (0-2 local, 3-4 buddy; 5 the buddy image
area, 6 the local image area). -/
structure VrnIn where
  src : Nat
  seq : Nat
  slot : Nat
  image : Bool
  parity : Bool
  delta : Bool
  sub : Bool           -- a group member's own stripe, taken from the parity stripe (R381)
  whole : Bool         -- the previous copy is missing: the whole is asked for (R382)
  deriving DecidableEq, Repr

structure VrnCtx where
  slots : List VrnSlot        -- local 0-2, buddy 0-1
  clock : Nat                 -- counts snapshots and copies begun, for their ages
  copies : List VrnCopy
  ins : List VrnIn
  imgLen : List Nat           -- the length of the image and bind tables in each die's local image area
  imgSent : Bool              -- the image area has gone to the buddies since the start (R383)
  deriving DecidableEq, Repr

def VrnCtx.fresh : VrnCtx := ⟨List.replicate 5 VrnSlot.fresh, 0, [], [], [0, 0, 0, 0], false⟩

/-- The Varnish engines and the Sketchbook logger (R375-R386, R403): contexts; LOG records not yet acknowledged, as (context,
record number, the fc in which it was sent); the replay spans as records (step, ID, phase, cursor valid, batch,
position). -/
structure VrnSt where
  ctxs : SMap VrnCtx
  logs : List (Nat × Nat × Nat)
  spans : SMap (List (List Nat))
  snapRec : SMap Nat          -- the record number of each local slot's SNAP record, by 4 * context + slot
  deriving DecidableEq, Repr

/-- A SNAPINFO as the coordinator keeps it (R389): its sender, the context, the newest LOCAL and the newest COMPLETE
snapshot, and the copies it holds as (node, sequence number). -/
structure SnapInfo where
  node : Nat
  ctx : Nat
  loc : Option Nat
  complete : Option Nat
  copies : List (Nat × Nat)
  deriving DecidableEq, Repr

/-- The recovery sequencer beside its registers (R372-R403): as coordinator or standby, and as member. -/
structure RcvSt where
  heard : List (Nat × Nat × Nat)      -- members heard of: (node, the fc of the last HEARTBEAT, periods missed since)
  links : List (Nat × Nat × Nat)      -- LINKDOWN reports: (subject, origin, fc)
  gone : List Nat                     -- modules declared lost and not replaced
  queue : List (Nat × Nat)            -- losses that wait for a decision, each with the fc in which it was declared
  lost : Option Nat                   -- the loss being handled
  spare : Option Nat                  -- the k of its spare
  step : Nat                          -- S
  number : Nat                        -- the tick number that RECOVER named
  infos : List SnapInfo
  rewired : List Nat
  neigh : List Nat                    -- the neighbours that REWIRE went to
  sources : List Nat                  -- the sources of the fill
  restored : List Nat
  since : Nat                         -- the fc in which cstate was entered
  resumeAt : Option Nat               -- the fc in which the resume tick is due (R402)
  parts : List (Nat × Nat × Flit)     -- STATE parts held: (generation, part, flit) (R391)
  beat : Nat                          -- the fc of this module's last HEARTBEAT
  answers : List (Nat × Nat × List Flit)  -- commands acted on: (op, generation, the answers sent) (R373)
  plan : Option (Nat × Option Nat)    -- the S and the lost node of the PLAN in force
  restoring : List Nat                -- contexts whose restore has not finished
  fills : List (Nat × Nat)            -- contexts of the fill with their S (R397)
  roles : List (Nat × Nat × Nat)      -- its sources: (context, node, role) (R390)
  shrunk : Bool
  resume : Option (Nat × Nat)         -- the resume tick's number and S (R400)
  adopted : Nat                       -- the cstate of the last STATE adopted (R391)
  bases : List (Nat × Nat)            -- regions moved by R394: (64 * (64 * die + context) + slot, base)
  outs : List (Nat × Nat)             -- fill copies on their way from here: (context, copy) (R397)
  deriving DecidableEq, Repr

def RcvSt.fresh : RcvSt :=
  { heard := [], links := [], gone := [], queue := [], lost := none, spare := none, step := 0, number := 0, infos := [],
    rewired := [], neigh := [], sources := [], restored := [], since := 0, resumeAt := none, parts := [], beat := 0,
    answers := [], plan := none, restoring := [], fills := [], roles := [], shrunk := false, resume := none,
    adopted := 0, bases := [], outs := [] }

/-- The loader of a context on a die beside its registers (R444-R448): whether a load is held or running, whether it is a
restore and whether it starts at its end; of the image loaded, its timing model, whether Pentimento was asked for, and
its real rows. -/
structure LdrCtx where
  busy : Bool
  restore : Bool
  auto : Bool
  model : Nat
  pen : Bool
  rows : Nat
  deriving DecidableEq, Repr

def LdrCtx.fresh : LdrCtx := ⟨false, false, false, 0, false, 0⟩

/-- A firmware image in flash or staged (R485): its bytes in pieces of 128, and its length. -/
structure FwImage where
  data : SMap (BitVec 1024)
  len : Nat
  deriving DecidableEq, Repr

/-- A sensor's filter (R499): its last good reading, bad readings in a row, and whether it has failed. -/
structure Sensor where
  good : Option Nat
  bad : Nat
  failed : Bool
  deriving DecidableEq, Repr

def Sensor.fresh : Sensor := ⟨none, 0, false⟩

/-- The two flash copies of a boot profile slot (R492, R494), and whether the second is the newer. -/
structure ProfSlot where
  a : BitVec 4096
  b : BitVec 4096
  newB : Bool
  deriving DecidableEq, Repr

/-- Easel and its flash (R485-R497): the profile slots and staging buffer, the firmware staged and the two images, the
security version of the image that runs, the fuse mirror, the log as (kind, value), the profile in force, the mailbox
command in progress as (code, length, tag), the response that stands on the management bus, what the console has
written, the bus addresses, the fc of the watchdog expiries, the fc in which Easel is back from a restart, and the
sensors. -/
structure EasSt where
  slots : List ProfSlot
  stage : BitVec 4096
  fwStage : SMap (BitVec 1024)
  fwA : FwImage
  fwB : FwImage
  fwNewB : Bool
  svn : Nat
  mirror : List Nat
  log : List (Nat × Nat)
  prof : BitVec 4096
  mail : Option (Nat × Nat × Nat)
  resp : List Nat
  uart : List (List Nat)
  addr : Nat
  dyn : Option Nat
  wd : List Nat
  back : Nat
  sensors : SMap Sensor
  deriving DecidableEq, Repr

/-- The clock of a compute die (R509-R512): the fc of the last calls for stretch levels 1 and 2, the fc since which the
present stretch or ramp lasts or the ceiling has stood, the ramp's first deficit in percent, the part of a withheld tc not yet
counted, the TICK_NUMBER of the last trip, the fc of the last change of tstep; and how far the clock has fallen behind
1.60 GHz since it started, in 1 / 6,250,000 tc (R30). -/
structure DieClk where
  call1 : Nat
  call2 : Nat
  since : Nat
  deficit : Nat
  lossRem : Nat
  trip : Option Nat
  tempAt : Nat
  lag : Nat
  deriving DecidableEq, Repr

def DieClk.fresh : DieClk := ⟨0, 0, 0, 0, 0, none, 0, 0⟩

/-- Power and reset (R505-R520, R533-R538): the inputs' state, the pins THERMTRIP_N and MOD_RESET_N as asserted or not,
the fc since which MOD_RESET_N is asserted; the rail group being started (0 none, 8 all started), the fc of a rail
failure; whether the reset in progress is a cold reset; the fc in which the present boot stage began; whether the clocks
run; the dies' clocks; and the power step's timers. -/
structure PwrSt where
  vaux : Bool
  vmain : Bool
  therm : Bool
  held : Bool
  group : Nat
  failAt : Option Nat
  cold : Bool
  stageAt : Nat
  clocks : Bool
  dies : List DieClk
  below : Option Nat
  decAt : Nat
  deriving DecidableEq, Repr

def EasSt.fresh : EasSt :=
  { slots := List.replicate 4 ⟨0, 0, false⟩, stage := 0, fwStage := [], fwA := ⟨[], 0⟩, fwB := ⟨[], 0⟩, fwNewB := false,
    svn := 0, mirror := List.replicate 9 0, log := [], prof := 0, mail := none, resp := [], uart := [], addr := 0,
    dyn := none, wd := [], back := 0, sensors := [] }

/-- Both inputs good, every rail off: a cold reset is in progress. -/
def PwrSt.fresh : PwrSt :=
  { vaux := true, vmain := true, therm := false, held := false, group := 0, failAt := none, cold := true, stageAt := 0,
    clocks := false, dies := List.replicate 4 DieClk.fresh, below := none, decAt := 0 }

/-- The module (R2, R3, R14): its registers, its tiles and what each unit holds beside its registers; the fabric clock
count reached; the fresh free values taken; counts on their way to ERRC; and the commands that wait, first in first
out. -/
structure State where
  regs : SMap Word                 -- BAR0, by byte offset
  vf : SMap Word                   -- VF context pages, by 0x1000 * context + offset
  tiles : SMap Tile                -- by physical tile: (48 * die + row) * 34 + column
  now : Nat
  free : Nat
  errcPending : List (Nat × Nat)   -- (ERRC index, counts) (R408)
  tick : TickSt
  fab : FabSt
  hbm : HbmSt
  syn : SynSt
  train : TrainSt
  rep : RepSt
  host : HostSt
  bld : BldSt
  vrn : VrnSt
  rcv : RcvSt
  ldr : SMap LdrCtx                -- by 64 * die + context
  eas : EasSt
  pwr : PwrSt
  pending : List Instr
  deriving DecidableEq, Repr

/-- Why a command leaves no next state: none does. A command whose operands name something the module does not have is
refused (`Refusal`); everything the manual describes is a next state. Safe: no run ends here. -/
inductive Fault where
  | absent   -- raised by no command; the manual gives the block no fault of its own. Safe.
  deriving DecidableEq, Repr

/-- Why a command is refused. -/
inductive Refusal where
  | notModelled (mnemonic : String)  -- raised by an arm of exec that has no meaning yet. Safe.
  | illFormed      -- raised by BAR2_ACCESS, BAR4_ACCESS and the management commands on operands that Instr.wf refuses (WellFormed.lean): the link or the bus carries no such request. Safe: no effect.
  | knakorTap     -- raised by TAP_INSTRUCTION with one of Knakor's own instructions (R491 gives it no effect). Safe.
  deriving DecidableEq, Repr

def TickSt.fresh : TickSt :=
  { bindNow := 0, accepted := 0, period := 312500, limit := 0, heard := 0, masterRun := false, emitted := 0,
    stopPending := false, halted := false, frozen := false, delayed := false, claim := 0, claimAt := 0,
    claimFrom := none, trained := false, heldFor := 0, holdAt := 0, tree := 0, ePeriod := 312500,
    eLimit := 0, everTick := false, ovr := 0,
    known := [], lastOut := 0, tickMaster := none }

def FabSt.fresh : FabSt := ⟨[], [], [], [0, 0, 0, 0, 0, 0, 0, 0], [], []⟩

/-- The module right after a cold reset (R515, R519): both inputs good, every rail off, boot about to begin; HBM's contents
lost and every granule dirty; every register at its Reset value. -/
def State.reset : State :=
  { regs := [], vf := [], tiles := [], now := 0, free := 0, errcPending := [], tick := TickSt.fresh,
    fab := FabSt.fresh, hbm := ⟨[], [], [], (List.range 24).map fun k => (k, [(0, 32768)]), [], [], []⟩, syn := ⟨[], [], [], []⟩, train := ⟨[], [], []⟩,
    rep := RepSt.fresh, host := ⟨[], [], [], false, 0, false, [], 0, 1⟩, bld := ⟨[], [], [], [], []⟩,
    vrn := ⟨[], [], [], []⟩, rcv := RcvSt.fresh, ldr := [], eas := EasSt.fresh, pwr := PwrSt.fresh,
    pending := [] }

end Sys2Proof.Machine
end

