-- ==== Sys2Proof/Machine/Ops.lean ====
section
/-! DEFINITION. The named operations over registers, counters and bytes that every meaning is written with: register
fields (R14-R19), saturating counters and wrapping performance counters (R543, R462, R463), memories, and what a tile
hands to the rest of the module in one command. -/

namespace Sys2Proof.Machine

/-! Register fields. -/

/-- A register of a block whose unlisted keys read as `d`. -/
def rreg (d : Nat → Word) (m : SMap Word) (a : Nat) : Word := SMap.getD m a (d a)

/-- The block with a register set. -/
def rset (d : Nat → Word) (m : SMap Word) (a : Nat) (v : Word) : SMap Word := SMap.put m a v (d a)

/-- A field of a register. -/
def rget (d : Nat → Word) (m : SMap Word) (f : RF) : Nat := (rreg d m f.addr).field f.lo f.w

/-- The block with a field set, the register's other fields kept. -/
def rput (d : Nat → Word) (m : SMap Word) (f : RF) (v : Nat) : SMap Word :=
  rset d m f.addr ((rreg d m f.addr).setField f.lo f.w v)

def Tile.get (t : Tile) (f : RF) : Nat := rget tileReset t.regs f
def Tile.put (t : Tile) (f : RF) (v : Nat) : Tile := { t with regs := rput tileReset t.regs f v }

/-- R543: a count saturates at 2^48 - 1. -/
def satAdd (v n : Nat) : Nat := if v + n < 2 ^ 48 then v + n else 2 ^ 48 - 1

/-! Performance counter sets (R461-R463): a set is its counters, selects, enables, chain bits and overflow bits. -/

/-- Where a counter set of R470 keeps counter k, its select, its enable, its chain bit and its overflow bit. -/
structure CSet where
  n : Nat
  cnt : Nat
  sel : Nat
  en : Nat
  chain : Nat
  ovf : Nat
  frozen : Option RF
  deriving DecidableEq, Repr

def CSet.cntF (c : CSet) (k : Nat) : RF := ⟨c.cnt + 8 * k, 0, 48⟩
def CSet.selF (c : CSet) (k : Nat) : RF := ⟨c.sel + 8 * (k / 8), 8 * (k % 8), 8⟩
def CSet.enF (c : CSet) (k : Nat) : RF := ⟨c.en, k, 1⟩
def CSet.chainF (c : CSet) (lo k : Nat) : RF := ⟨c.chain, lo + k / 2, 1⟩
def CSet.ovfF (c : CSet) (k : Nat) : RF := ⟨c.ovf, k, 1⟩

/-- The chain bits of the tile set lie from bit 8 of TPC_CTL; those of the other sets from bit 0. -/
def CSet.chainLo (c : CSet) : Nat := if c.chain = c.en then 8 else 0

/-- Counter `k` of a set plus `n` (R462, R463): it wraps; a wrap adds 1 to the counter above when chained, and sets the
overflow bit otherwise. -/
def CSet.addTo (c : CSet) (d : Nat → Word) (m : SMap Word) (k n : Nat) : SMap Word :=
  let v := rget d m (c.cntF k)
  let m1 := rput d m (c.cntF k) ((v + n) % 2 ^ 48)
  if v + n < 2 ^ 48 then m1
  else if k % 2 = 0 && rget d m (c.chainF c.chainLo k) = 1 then
    let w := rget d m1 (c.cntF (k + 1))
    let m2 := rput d m1 (c.cntF (k + 1)) ((w + 1) % 2 ^ 48)
    if w + 1 < 2 ^ 48 then m2 else rput d m2 (c.ovfF (k + 1)) 1
  else rput d m1 (c.ovfF k) 1

/-- Whether counter `k` counts the event: enabled, not frozen, selected, and not the upper counter of a chain. -/
def CSet.counts (c : CSet) (d : Nat → Word) (m : SMap Word) (code k : Nat) : Bool :=
  rget d m (c.enF k) == 1 && rget d m (c.selF k) == code &&
    !(k % 2 == 1 && rget d m (c.chainF c.chainLo k) == 1)

def CSet.addAll (c : CSet) (d : Nat → Word) (code n : Nat) : Nat → SMap Word → SMap Word
  | 0, m => m
  | k + 1, m =>
    let m1 := CSet.addAll c d code n k m
    if c.counts d m1 code k then c.addTo d m1 k n else m1

/-- The event `code` counted `n` times by a set (R462). -/
def CSet.event (c : CSet) (d : Nat → Word) (m : SMap Word) (code n : Nat) : SMap Word :=
  if n = 0 || rreg d m c.en = 0 then m
  else match c.frozen with
    | some f => if rget d m f = 1 then m else c.addAll d code n c.n m
    | none => c.addAll d code n c.n m

def tileSet : CSet := ⟨8, 0x2C0, 0x300, 0x308, 0x308, 0x310, some TF.TPC_CTL.freeze⟩
def dieSet (die : Nat) : CSet :=
  let b := 0x100000 * (die + 1) + 0x61000
  ⟨64, b, b + 0x200, b + 0x240, b + 0x248, b + 0x250, none⟩
def fabSet (f : Nat) : CSet :=
  let b := 0x101A000 + 0x80000 * f
  ⟨64, b, b + 0x200, b + 0x240, b + 0x248, b + 0x250, none⟩

/-! Bytes. -/

/-- `n` bytes from address `a`, little-endian (R11). -/
def memRead (m : SMap (BitVec 8)) (a : Nat) : Nat → Nat
  | 0 => 0
  | n + 1 => (SMap.getD m a 0#8).toNat + 256 * memRead m (a + 1) n

/-- `n` bytes of `v` stored from address `a`. -/
def memWrite (m : SMap (BitVec 8)) (a : Nat) : Nat → Nat → SMap (BitVec 8)
  | 0, _ => m
  | n + 1, v => memWrite (SMap.put m a (BitVec.ofNat 8 v) 0#8) (a + 1) n (v / 256)

/-! What a tile hands to the rest of the module while a command acts on it. -/

/-- An effect of a tile on state outside the tile; `s.flush` performs them in order. -/
inductive Ev where
  | errc (off n : Nat)                       -- counts at an ERRC offset of the tile's die (R413)
  | suspect (code : Nat)                     -- a suspect event of the tile (R414)
  | faulted (code : Nat)                     -- the tile faulted (R98)
  | credits (flow epoch slot first n nbuf bufRows base : Nat)   -- credits for a flow of this tile (R119, R122)
  | signal (vcid n : Nat)                    -- an increment by the tile's own hardware (R121)
  | perf (code n : Nat)                      -- a tile event, for the die's counters (R466)
  | sample (r : Record)                      -- a sample record offered to the die's ring (R468)
  | hazard (n : Nat) (r : Record)            -- the n-th Pentimento hazard of the tile, for the die's ring (R456)
  | claim (dest row c : Nat) (who : Who)     -- a send's claim at its receiver from cycle c (R454)
  | arrive (dest row c : Nat)                -- a send's delivery takes its bank in cycle c (R110, R217)
  | rowIn (op k : Nat) (viol : Bool)         -- a row of an SLOAD has been granted in cycle `k` (R246)
  | rowOut (op row req due v : Nat) (marks : List Bool) (viol : Bool)  -- a row of an SSTORE, requested of the stack in cycle `req` and accepted in `due` (R246)
  | request (op : SyncOp)                    -- a SIG or WAITGE leaves for its counter (R330)
  | watch (layer : Nat) (r0 r1 : Nat) (poison : Bool) (skips : Nat)  -- a W record delivered to the update-watch unit (R207)
  deriving DecidableEq, Repr

/-- What a tile sees of the module: its global tile ID, its physical index, its context, TICK_NUMBER, the PERF_CTX
bits of its context, what serves a global tile ID of its die, and its MBS_REL registers. -/
structure Env where
  tile : Nat
  phys : Nat
  ctx : Nat
  tick : Nat
  perf : Nat
  served : Nat → Option Nat
  mbs : Nat → Word

/-- A tile with the effects it has handed out, latest last. -/
structure TW where
  t : Tile
  out : List Ev
  env : Env

def TW.get (x : TW) (f : RF) : Nat := x.t.get f
def TW.put (x : TW) (f : RF) (v : Nat) : TW := { x with t := x.t.put f v }
def TW.emit (x : TW) (e : Ev) : TW := { x with out := x.out ++ [e] }
def TW.map (x : TW) (f : Tile → Tile) : TW := { x with t := f x.t }

/-- A unit counter of the tile plus `n`, with its ERRC total (R408, R413, R543). -/
def TW.count (x : TW) (f : RF) (off : Option Nat) (n : Nat) : TW :=
  if n = 0 then x else
  let y := x.put f (satAdd (x.get f) n)
  match off with
  | some o => y.emit (.errc o n)
  | none => y

/-- The bytes of a number, low first. -/
def bytesOf : Nat → Nat → List (BitVec 8)
  | 0, _ => []
  | n + 1, v => BitVec.ofNat 8 v :: bytesOf n (v / 256)

/-- The exchange-phase cycle number: cycles since the last die-barrier release, or the start (XCH_STATUS.pcyc). -/
def Tile.pcyc (t : Tile) (c : Nat) : Nat := if c - t.released < 0xFFFF then c - t.released else 0xFFFF

/-- Whether cycle `c` is an exchange-phase cycle of the tile (R37, R76). -/
def Tile.phase (t : Tile) (c : Nat) : Bool :=
  t.inPhase && decide (t.released ≤ c) && decide (c < t.released + t.phaseLen) && decide (t.run ≠ .ended)

/-- R468: a sample record. -/
def TW.sampleRecord (x : TW) (code k : Nat) (o : Origin) (latency td status : Nat) : Record :=
  bytesOf 2 x.env.tile ++ bytesOf 1 code ++ bytesOf 1 (k + (if o.xph then 8 else 0)) ++ bytesOf 4 o.pc ++
    bytesOf 8 o.tick ++ bytesOf 4 (if latency < 2 ^ 32 then latency else 2 ^ 32 - 1) ++
    bytesOf 4 (if o.tcyc < 2 ^ 32 then o.tcyc else 2 ^ 32 - 1) ++ bytesOf 1 x.env.ctx ++ bytesOf 1 td ++
    bytesOf 1 status ++ bytesOf 5 0

/-- Whether the sampled counter crosses a multiple of 2^int_log2 by `n` more of the event (R468). -/
def TW.samples (x : TW) (code n : Nat) : Bool :=
  let k := x.get TF.TPC_SMP.cnt
  let v := x.get (TF.TPC_CNT.count k)
  let i := x.get TF.TPC_SMP.int_log2
  x.get TF.TPC_SMP.en == 1 && x.env.perf / 4 % 2 == 1 && x.get TF.TPC_CTL.freeze == 0 &&
    tileSet.counts tileReset x.t.regs code k && v / 2 ^ i != (v + n) / 2 ^ i

/-- A tile event that is not sampled (R465). -/
def TW.perf (x : TW) (code n : Nat) : TW :=
  if n = 0 then x else
  { x with t := { x.t with regs := tileSet.event tileReset x.t.regs code n } }.emit (.perf code n)

/-- A tile event that can be sampled, with the instruction it names (R465, R468). -/
def TW.perfOf (x : TW) (code : Nat) (o : Origin) (latency td status : Nat) : TW :=
  let smp := x.samples code 1
  let k := x.get TF.TPC_SMP.cnt
  let y := x.perf code 1
  if smp then y.emit (.sample (x.sampleRecord code k o latency td status)) else y

end Sys2Proof.Machine
end

