-- ==== Sys2Proof/Machine/Palette.lean ====
section
/-! DEFINITION. The Palette (R100-R131): segments with their poison flags and error protection, partitions, bank
grants, receive windows and credits, patrol, and Gesso of one tile. -/

namespace Sys2Proof.Machine

/-- The bank of a Palette address (R100). -/
def bankOf (a : Nat) : Nat := a / 64 % 16

/-! Error log and counters. -/

/-- Whether an error mark is of a single-bit error: 0 marks none, 2k + 1 a single-bit error and 2k, of k from 1, an
uncorrectable one, of the error pattern that the mark names. -/
def singleBit (mark : Nat) : Bool := mark % 2 == 1

/-- The syndrome of an error pattern (R105: nonzero, and one for one pattern; a free value). -/
def syndrome (mark : Nat) : Nat := (Config.freeSyndrome mark).val + 1

/-- R106, R107: an error is recorded in PAL_ELOG with its syndrome. -/
def TW.elog (x : TW) (seg mark : Nat) : TW :=
  (((x.put TF.PAL_ELOG.seg seg).put TF.PAL_ELOG.ue (!singleBit mark).toNat).put TF.PAL_ELOG.syndrome
    (syndrome mark)).put TF.PAL_ELOG.valid 1

def TW.corrected (x : TW) (seg mark : Nat) : TW := (x.count TF.PAL_CNT_CE.count (some 0) 1).elog seg mark
def TW.uncorrectable (x : TW) (seg mark : Nat) : TW :=
  ((x.count TF.PAL_CNT_UE.count (some 1) 1).elog seg mark).emit (.suspect 4)

/-- R117: a partition violation is counted; the access is not performed. -/
def TW.violation (x : TW) : TW := x.count TF.PAL_CNT_PVIOL.count (some 2) 1

/-! Segments. -/

/-- A segment stored whole, with its flag and valid check bits. -/
def Tile.setSeg (t : Tile) (seg v : Nat) (pois : Bool) : Tile :=
  { t with pal := memWrite t.pal (16 * seg) 16 v, palPois := SMap.put t.palPois seg pois false,
           palErr := SMap.put t.palErr seg 0 0, writeBack := t.writeBack.filter (· ≠ seg) }

/-- R102, R106, R107: a read of one segment delivers its corrected data and flag. A single-bit error is counted and its
write-back waits; an uncorrectable one delivers the poison pattern and rewrites the segment so. -/
def TW.readSeg (x : TW) (seg : Nat) : Nat × Bool × TW :=
  let e := SMap.getD x.t.palErr seg 0
  if e = 0 then (memRead x.t.pal (16 * seg) 16, SMap.getD x.t.palPois seg false, x)
  else if singleBit e then
    (memRead x.t.pal (16 * seg) 16, SMap.getD x.t.palPois seg false,
      (x.corrected seg e).map fun t => { t with writeBack := t.writeBack.filter (· ≠ seg) ++ [seg] })
  else (2 ^ 128 - 1, true, (x.uncorrectable seg e).map fun t => t.setSeg seg (2 ^ 128 - 1) true)

/-- R106, R108: a partial write into a segment is granted: an error that its merge finds is counted and recorded, a
single-bit one corrected, the bytes of an uncorrectable one ones with the flag set. -/
def TW.mergeErr (x : TW) (seg : Nat) : TW :=
  let e := SMap.getD x.t.palErr seg 0
  if e = 0 then x
  else if singleBit e then (x.corrected seg e).map fun t =>
    { t with palErr := SMap.put t.palErr seg 0 0, writeBack := t.writeBack.filter (· ≠ seg) }
  else (x.uncorrectable seg e).map fun t => t.setSeg seg (2 ^ 128 - 1) true

/-- R377: a write into a row that a snapshot captures makes the snapshot torn. -/
def Tile.tearRow (t : Tile) (row : Nat) : Tile :=
  if t.vrnRows.any fun q => decide (q.1 ≤ row) && decide (row < q.1 + q.2) then { t with vrnTorn := true } else t

/-- R103, R108: `n` bytes of `v` written at byte `off` of a segment; `mark` is the writer's poison mark. -/
def TW.writeSeg (x : TW) (seg off n v : Nat) (mark : Bool) : TW :=
  let x := x.map fun t => t.tearRow (seg / 4)
  if off = 0 && n = 16 then x.map fun t => t.setSeg seg v mark
  else
    let merge (b : Nat) : Nat := b - b / 256 ^ off % 256 ^ n * 256 ^ off + v % 256 ^ n * 256 ^ off
    (x.mergeErr seg).map fun t =>
      t.setSeg seg (merge (memRead t.pal (16 * seg) 16)) (mark || SMap.getD t.palPois seg false)

/-- Bytes read from the Palette, with the poison flag of each segment touched, lowest first. -/
structure Bytes where
  a : Nat
  n : Nat
  v : Nat
  pois : List Bool
  viol : Bool
  deriving DecidableEq, Repr

/-- The number in `n` bytes from offset `off` of what was read. -/
def Bytes.num (b : Bytes) (off n : Nat) : Nat := b.v / 256 ^ off % 256 ^ n

/-- Whether a byte at an offset, or any of the `n` from it, lies in a poisoned segment. -/
def Bytes.poisoned (b : Bytes) (off n : Nat) : Bool :=
  let lo := (b.a % 16 + off) / 16
  let hi := (b.a % 16 + off + n - 1) / 16
  ((b.pois.drop lo).take (hi + 1 - lo)).any id

def Bytes.anyPoison (b : Bytes) : Bool := b.pois.any id
def Bytes.poisonCount (b : Bytes) : Nat := (b.pois.filter id).length

/-- Segments `seg` to `seg + n - 1`, as one number with their flags. -/
def TW.readSegs (x : TW) (seg : Nat) : Nat → Nat × List Bool × TW
  | 0 => (0, [], x)
  | n + 1 =>
    let (v, p, y) := x.readSeg seg
    let (vs, ps, z) := y.readSegs (seg + 1) n
    (v + 2 ^ 128 * vs, p :: ps, z)

/-- The number of segments that `n` bytes from `a` touch. -/
def segsOf (a n : Nat) : Nat := (a % 16 + n + 15) / 16

/-- Bytes `a` to `a + n - 1`, unchecked. -/
def TW.readRaw (x : TW) (a n : Nat) : Bytes × TW :=
  let (v, ps, y) := x.readSegs (a / 16) (segsOf a n)
  (⟨a, n, v / 256 ^ (a % 16) % 256 ^ n, ps, false⟩, y)

/-- Bytes `a` to `a + n - 1` written segment by segment; `marks` gives each segment's poison mark, lowest first. -/
def TW.writeRaw (x : TW) (a n v : Nat) (marks : List Bool) : Nat → TW
  | 0 => x
  | k + 1 =>
    if n = 0 then x else
    let off := a % 16
    let m := if n < 16 - off then n else 16 - off
    let y := x.writeSeg (a / 16) off m (v % 256 ^ m) (marks.headD false)
    y.writeRaw (a + m) (n - m) (v / 256 ^ m) marks.tail k

/-- A write of bytes `a` to `a + n - 1` that takes effect later is granted: the merges of its first and last segments find
their errors (R106, R108). -/
def TW.mergeFind (x : TW) (a n : Nat) : TW :=
  let y := if a % 16 ≠ 0 || n < 16 then x.mergeErr (a / 16) else x
  if (a + n) % 16 ≠ 0 && (a + n) / 16 ≠ a / 16 then y.mergeErr ((a + n) / 16) else y

/-- Bytes written with one poison mark for every segment. -/
def TW.writeMarked (x : TW) (a n v : Nat) (mark : Bool) : TW :=
  x.writeRaw a n v (List.replicate (segsOf a n) mark) (segsOf a n)

/-! Partitions (R113-R117). -/

/-- The accesses of R116. -/
inductive AccKind where
  | fetch | seqR | seqW | engR | engW | xrecv | frecv
  deriving DecidableEq, Repr

/-- Descriptor `k` in force in cycle `c`: a replacement holds for accesses granted from its cycle on (R114). -/
def Tile.part (t : Tile) (c k : Nat) : Word :=
  match t.partNext.find? (fun p => p.2.1 == k && decide (c < p.1)) with
  | some p => p.2.2
  | none => rreg tileReset t.regs (0x80 + 8 * k)

def partKind (w : Word) : Nat := w.field 32 3
def partBase (w : Word) : Nat := w.field 0 15
def partSize (w : Word) : Nat := w.field 16 16

/-- R113: a valid descriptor covers rows base to base + size - 1. -/
def partCovers (w : Word) (row : Nat) : Bool :=
  partKind w != 0 && decide (partBase w ≤ row) && decide (row < partBase w + partSize w)

def Tile.partOf (t : Tile) (c row : Nat) : Option Word :=
  ((List.range 16).map (t.part c)).find? (fun w => partCovers w row)

/-- R115, R116: whether a descriptor permits an access. A reserved partition permits none. -/
def partAllows (w : Word) (k : AccKind) : Bool :=
  let bit (i : Nat) : Bool := w.field i 1 == 1 && decide (partKind w ≤ 4)
  match k with
  | .fetch => partKind w == 1
  | .seqR => bit 36
  | .seqW => bit 37
  | .engR => bit 38
  | .engW => bit 39
  | .xrecv => bit 40
  | .frecv => bit 41 && partKind w == 3

/-- Whether an access to a row is permitted in cycle `c` (R116). -/
def Tile.permits (t : Tile) (c : Nat) (k : AccKind) (row : Nat) : Bool :=
  match t.partOf c row with
  | some w => partAllows w k
  | none => false

/-! Bank grants (R110-R112). -/

/-- Whether a bank is granted in cycle `c` to a requester of rank at most `rank` (R110). A delivery on its way is known
24 cycles ahead. -/
def Tile.claimed (t : Tile) (c bank rank : Nat) : Bool :=
  t.claims.any (fun p => p.1 == c && p.2.1 == bank && decide (p.2.2 ≤ rank))

/-- A granted request is remembered for 64 cycles. -/
def Tile.grant (t : Tile) (c bank rank : Nat) : Tile :=
  { t with claims := (c, bank, rank) :: t.claims.filter fun p => decide (c ≤ p.1 + 64) }

/-- R112: a requester that loses a bank in a cycle. -/
def TW.conflict (x : TW) : TW := (x.count TF.PAL_CNT_CONFLICT.count none 1).perf 0x19 1

/-! Pentimento (R453-R456). -/

def Who.none : Who := ⟨0, 0, 0, 0, 0⟩
def Gran.never : Gran := ⟨0, Who.none, none⟩

/-- R455, R456: a hazard is counted by its code and offered as a record. -/
def TW.hazard (x : TW) (c code : Nat) (a : Who) (b : Who) (addr : Nat) (blk : Bool) : TW :=
  let f := match code with
    | 1 => TF.PEN_CNT_RBW.count
    | 2 => TF.PEN_CNT_UNINIT.count
    | 3 => TF.PEN_CNT_WAW.count
    | 4 => TF.PEN_CNT_WAR.count
    | _ => TF.PEN_CNT_ACC.count
  let y := (x.count f none 1).map fun t => { t with hazards := t.hazards + 1 }
  let rec_ := bytesOf 2 (x.env.tile + code * 2 ^ 13) ++ bytesOf 1 (a.unit + b.unit * 16) ++
    bytesOf 1 ((x.t.phase c).toNat + blk.toNat * 2) ++ bytesOf 4 addr ++ bytesOf 4 a.pc ++ bytesOf 4 b.pc ++
    bytesOf 2 (if b.unit = 6 then b.tile else x.env.tile) ++ bytesOf 2 (x.t.pcyc c) ++ bytesOf 8 x.env.tick ++
    bytesOf 1 x.env.ctx ++ bytesOf 1 b.tok ++ bytesOf 2 0
  y.emit (.hazard y.t.hazards rec_)

def Tile.gran (t : Tile) (row : Nat) : Gran := SMap.getD t.grans row Gran.never
def Tile.setGran (t : Tile) (row : Nat) (g : Gran) : Tile := { t with grans := SMap.put t.grans row g Gran.never }

/-- A read of a row checked against its tag (R455 codes 1 and 2). -/
def TW.penRead (x : TW) (c : Nat) (who : Who) (a : Nat) : TW :=
  if !x.t.pen then x else
  let g := x.t.gran (a / 64)
  if g.st = 2 && (g.prod.unit ≠ who.unit || g.prod.op ≠ who.op) then x.hazard c 1 who g.prod a false
  else if g.st = 0 then x.hazard c 2 who Who.none a false
  else x

/-- A write of a row checked against its tag (codes 3 and 4); `tag` is the state it leaves. -/
def TW.penWrite (x : TW) (c : Nat) (who : Who) (a : Nat) (tag : Option Nat) : TW :=
  if !x.t.pen then x else
  let g := x.t.gran (a / 64)
  let y := if g.st = 2 && (g.prod.unit ≠ who.unit || g.prod.op ≠ who.op) then x.hazard c 3 who g.prod a false else x
  let z := match g.claim with
    | some w => if w.unit ≠ who.unit || w.op ≠ who.op then y.hazard c 4 who w a false else y
    | none => y
  match tag with
  | some st => z.map fun t => t.setGran (a / 64) ⟨st, who, g.claim⟩
  | none => z

/-- Rows `row` to `row + n - 1` marked PENDING by an operation (R454). -/
def TW.penPending (x : TW) (who : Who) (row : Nat) : Nat → TW
  | 0 => x
  | n + 1 => ((if x.t.pen then x.map fun t => t.setGran row ⟨2, who, (t.gran row).claim⟩ else x)).penPending who (row + 1) n

/-- Rows read-claimed by an operation (R454). -/
def TW.penClaim (x : TW) (who : Who) (row : Nat) : Nat → TW
  | 0 => x
  | n + 1 => ((if x.t.pen then x.map fun t => t.setGran row { t.gran row with claim := some who } else x)).penClaim
      who (row + 1) n

/-- An operation's token clears: its PENDING rows become WRITTEN and its read claims go (R454). -/
def TW.penDone (x : TW) (unit op : Nat) : TW :=
  if !x.t.pen then x else
  let f (g : Gran) : Gran :=
    { st := if g.st = 2 && g.prod.unit = unit && g.prod.op = op then 1 else g.st, prod := g.prod,
      claim := match g.claim with
        | some w => if w.unit = unit && w.op = op then none else some w
        | none => none }
  x.map fun t => { t with grans := t.grans.map fun p => (p.1, f p.2) }

/-! Scalar stores: the sequencer sees its own at once, the Palette from cycle c + 2 (R80). -/

/-- The stores whose cycle has come are written. -/
def TW.commitList (x : TW) : List (Nat × Nat × Nat × Nat × Bool) → TW
  | [] => x
  | (_, a, n, v, tag) :: l => (x.writeMarked a n v tag).commitList l

/-- Send claims whose cycle has come mark their rows PENDING (R454, R458). -/
def Tile.penArrive (t : Tile) (c : Nat) : Tile :=
  if t.penSoon.isEmpty then t else
  { (t.penSoon.filter (fun p => decide (p.1 ≤ c))).foldl
      (fun t p => t.setGran p.2.1 { t.gran p.2.1 with st := 2, prod := p.2.2 }) t with
    penSoon := t.penSoon.filter (fun p => decide (c < p.1)) }

/-- The stores that `sel` selects, by their cycle and address, are written. -/
def TW.commitSel (x : TW) (sel : Nat → Nat → Bool) : TW :=
  let due := x.t.stores.filter (fun p => sel p.1 p.2.1)
  if due.isEmpty then x
  else (x.commitList due).map fun t => { t with stores := t.stores.filter (fun p => !sel p.1 p.2.1) }

/-- R104: writes take effect in the order of their grants: a write granted to a bank in cycle `c` follows every scalar
store granted to it earlier. -/
def TW.commitBefore (x : TW) (c bank : Nat) : TW := x.commitSel fun d a => decide (d ≤ c + 1) && bankOf a == bank

/-- The engine writes that have become visible (R103). -/
def TW.commitLate (x : TW) : List (Nat × Nat × Nat × Nat × List Bool) → TW
  | [] => x
  | (c, a, n, v, marks) :: l => ((x.commitBefore (c - 1) (bankOf a)).writeRaw a n v marks (segsOf a n)).commitLate l

def TW.commitEngines (x : TW) (c : Nat) : TW :=
  let due := x.t.late.filter (fun p => decide (p.1 ≤ c))
  if due.isEmpty then x
  else (x.map fun t => { t with late := t.late.filter (fun p => decide (c < p.1)) }).commitLate due

/-- What an access granted in cycle `c` sees: the stores and engine writes due by then. -/
def TW.commitDue (x : TW) (c : Nat) : TW :=
  ((x.map fun t => t.penArrive c).commitEngines c).commitSel fun d _ => decide (d ≤ c)

/-- What a sequencer read sees: the Palette with every store issued in an earlier cycle (R80). -/
def TW.overlay (x : TW) : TW := { (x.commitList x.t.stores) with out := x.out }

/-! Checked accesses of one row (R116). -/

/-- A read of `n` bytes within one row by a requester of R116; a violation delivers the poison pattern. -/
def TW.readPart (x : TW) (c : Nat) (k : AccKind) (who : Who) (a n : Nat) : Bytes × TW :=
  let x := x.commitDue c
  if x.t.permits c k (a / 64) && decide (a < 0x200000) then (x.penRead c who a).readRaw a n
  else (⟨a, n, 256 ^ n - 1, List.replicate (segsOf a n) true, true⟩, x.violation)

/-- A write of `n` bytes within one row by an engine: whether it was performed, and the tile. -/
def TW.writePart (x : TW) (c : Nat) (who : Who) (a n v : Nat) (marks : List Bool) : Bool × TW :=
  let x := x.commitDue c
  if x.t.permits c .engW (a / 64) && decide (a < 0x200000) then
    (true, ((x.commitBefore c (bankOf a)).penWrite c who a none).writeRaw a n v marks (segsOf a n))
  else (false, x.violation)

/-! PAL_PART (R114). -/

/-- R115: the permission bits each kind allows, of bits 41 to 36 (frecv, xrecv, eng_w, eng_r, seq_w, seq_r). -/
def kindAllows (kind : Nat) : Nat :=
  match kind with
  | 1 => 0b001101
  | 2 => 0b011111
  | 3 => 0b111111
  | 4 => 0b001111
  | _ => 0

/-- Whether two descriptors overlap. -/
def partsOverlap (v w : Word) : Bool :=
  decide (partBase v < partBase w + partSize w) && decide (partBase w < partBase v + partSize v)

/-- R114 items 1 to 7, of a candidate for descriptor `k`. -/
def Tile.partOk (t : Tile) (k : Nat) (cand : Word) : Bool :=
  let old := rreg tileReset t.regs (0x80 + 8 * k)
  let others := ((List.range 16).filter (· ≠ k)).map (fun j => rreg tileReset t.regs (0x80 + 8 * j))
  let kind := partKind cand
  let rx (w : Word) : Bool := partKind w == 3
  old.field 48 1 == 0 && decide (kind ≤ 5) &&
  (kind == 0 || (decide (1 ≤ partSize cand) && decide (partBase cand + partSize cand ≤ 32768))) &&
  (kind == 0 || others.all (fun w => partKind w == 0 || !partsOverlap cand w)) &&
  (cand.field 36 6 &&& (63 - kindAllows kind)) == 0 &&
  (!rx cand || others.all (fun w => !(rx w && w.field 44 2 == cand.field 44 2))) &&
  (!(rx old && t.get (TF.PAL_RXCFG.enable (old.field 44 2)) == 1) ||
    (partBase old == partBase cand && partSize old == partSize cand && partKind old == kind &&
      old.field 44 2 == cand.field 44 2))

/-- The bits PAL_PARTk keeps: every bit that is not reserved. -/
def partMask : Word := 0x000133F7FFFF7FFF#64

/-- R114: a write to PAL_PARTk, of the bits `m` of the register; it replaces the register or sets part_reject. -/
def TW.partWrite (x : TW) (c k : Nat) (m v : Word) : TW :=
  let old := rreg tileReset x.t.regs (0x80 + 8 * k)
  let cand := ((old &&& ~~~ m) ||| (v &&& m)) &&& partMask
  let cand := if m.getLsbD 48 && old.getLsbD 48 then cand ||| (1#64 <<< 48) else cand
  if x.t.partOk k cand then
    x.map fun t => { t with regs := rset tileReset t.regs (0x80 + 8 * k) cand,
                            partNext := t.partNext.filter (fun p => decide (c < p.1)) ++ [(c + 2, k, old)] }
  else x.put TF.PAL_STATUS.part_reject 1

end Sys2Proof.Machine
end

