-- ==== Sys2Proof/Machine/Tokens.lean ====
section
/-! DEFINITION. The queues of a tile and its tokens (R87, R88, R90): an operation's token clears. -/

namespace Sys2Proof.Machine

/-- The queues of R87, in its order. -/
inductive Queue where
  | muller | glaze | stream | exch | fabric | sync
  deriving DecidableEq, Repr

def Queue.index : Queue → Nat
  | .muller => 0 | .glaze => 1 | .stream => 2 | .exch => 3 | .fabric => 4 | .sync => 5

def Queue.depth : Queue → Nat
  | .muller => 8 | .glaze => 8 | .stream => 16 | .exch => 24 | .fabric => 16 | .sync => 16

/-- Whether a token is pending. -/
def Tile.tokenPending (t : Tile) (k : Nat) : Bool := k ≠ 0 && t.tokPend.getLsbD k

/-- A token clears in cycle `c` with a status (R90). A queue's latest clear, and that of untracked operations, is kept for
R36, R39, R76 and R91; until an issue has passed it, the operation is known to have left its queue in `c`. -/
def Tile.clearToken (t : Tile) (q : Queue) (k status c : Nat) : Tile :=
  let at_ := SMap.put t.tokAt (32 + q.index) (max (SMap.getD t.tokAt (32 + q.index) 0) c) 0
  let at_ := SMap.put at_ k (if k = 0 then max (SMap.getD at_ 0 0) c else c) 0
  let gone := (t.leaving.filter fun p => decide (t.issued ≤ p.1)) ++ [(c, q.index, k)]
  if k = 0 then { t with tokAt := at_, leaving := gone }
  else { t with tokPend := t.tokPend &&& ~~~ (1#32 <<< k), tokStat := t.tokStat.setField (2 * k) 2 status,
                tokAt := at_, leaving := gone }

/-- The event of R465 that counts an operation's completion, and its Pentimento unit (R456). -/
def QKind.code (k : QKind) : Nat := match k with
  | .mmac => 0x0C | .mclr => 0x0C | .mstore => 0x0C | .grun => 0x0F | .sload => 0x14 | .sstore => 0x14
  | .fput => 0x16 | .fsend => 0x16

def QKind.unit (k : QKind) : Nat := match k with
  | .mmac => 2 | .mclr => 2 | .mstore => 2 | .grun => 3 | .sload => 4 | .sstore => 4 | .fput => 5 | .fsend => 5

def QKind.queue (k : QKind) : Queue := match k with
  | .mmac => .muller | .mclr => .muller | .mstore => .muller | .grun => .glaze | .sload => .stream | .sstore => .stream
  | .fput => .fabric | .fsend => .fabric

def QOp.who (o : QOp) (tile : Nat) : Who := ⟨o.kind.unit, o.id, o.td, o.org.pc, tile⟩

/-- A stream or fabric operation leaves its queue. -/
def Tile.dequeue (t : Tile) (id : Nat) : Tile :=
  { t with stream := t.stream.filter (·.id ≠ id), fabric := t.fabric.filter (·.id ≠ id) }

/-- R90, R454, R465: an operation's token clears in cycle `c`. -/
def TW.finish (x : TW) (o : QOp) (status c : Nat) : TW :=
  ((x.map fun t => (t.dequeue o.id).clearToken o.kind.queue o.td status c).penDone o.kind.unit o.id).perfOf o.kind.code o.org
    (c - o.org.at_) o.td status

end Sys2Proof.Machine
end

