-- ==== Sys2Proof/Machine/Ports.lean ====
section
/-! DEFINITION. The Palette requests of the engines, cycle by cycle (R110-R112): the operand fetches of the Muller's two
ports (R177-R179) and the row requests of Glaze (R209, R212), the order in which they meet the other requesters, and
the request of any other requester. -/

namespace Sys2Proof.Machine

/-- The latency of a Palette read (R102, R457). -/
def Tile.readLat (t : Tile) (c : Nat) : Nat := if t.pen && !t.phase c then 5 else 4

/-! Formats and rate classes (R162). -/

/-- The rate class of an operand format, as its chunk time. -/
def chunkTime (fmt : Nat) : Option Nat :=
  match fmt with
  | 0x9 => some 16
  | 0x3 => some 32 | 0x4 => some 32 | 0x5 => some 32 | 0x6 => some 32 | 0x7 => some 32 | 0x8 => some 32 | 0xA => some 32
  | 0x1 => some 64 | 0x2 => some 64
  | _ => none

/-- Bytes of one chunk of a panel: 32 rows of 32 elements. -/
def chunkBytes (fmt : Nat) : Nat := 128 * elemBits fmt

/-- One operand of an MMAC descriptor. -/
structure Panel where
  base : Nat
  fmt : Nat
  sbase : Nat
  stride : Nat
  deriving DecidableEq, Repr

/-- R170: the fields of an MMAC descriptor. -/
def mmacA (d : Row) : Panel := ⟨d.field 0 21, d.field 24 4, d.field 64 21, d.field 160 15⟩
def mmacB (d : Row) : Panel := ⟨d.field 32 21, d.field 28 4, d.field 96 21, d.field 176 15⟩
def mmacK (d : Row) : Nat := d.field 128 16 + 1
def mmacFirst (d : Row) : Nat := d.field 144 3
def mmacM (d : Row) : Nat := d.field 147 3 + 1
def mmacN (d : Row) : Nat := d.field 150 3 + 1
def mmacZero (d : Row) : Bool := d.field 153 1 == 1

/-- The Palette rows that one port reads for chunk `kc` of panel `i`, in order. -/
def Panel.rows (p : Panel) (kch i kc : Nat) : List Nat :=
  (if isMx p.fmt then [(p.sbase + 32 * kch * i + 32 * kc) / 64] else []) ++
  (List.range (chunkBytes p.fmt / 64)).map fun j => (p.base + 64 * i * p.stride + kc * chunkBytes p.fmt) / 64 + j

/-- The constants of R179. -/
def Tile.mulF (t : Tile) : Nat := if t.model = 2 then 1 else 3
def Tile.mulD (t : Tile) : Nat := if t.model = 2 then 4 else 6
def Tile.mulK (t : Tile) : Nat := if t.model = 2 then 2 else 3

def mmacT (d : Row) : Nat := (chunkTime (mmacA d).fmt).getD 32

/-- R174, R175: the bytes of one output row. -/
def mstoreRowBytes (d : Row) : Nat := 4 * elemBits (d.field 24 4)
def mstoreBlocks (d : Row) : Nat := d.field 35 3 + 1

/-- An MSTORE piece (R176): its address and length, its block and row (32 for the scale bytes), and the offset of its
first byte within the row. -/
structure Piece where
  addr : Nat
  len : Nat
  blk : Nat
  row : Nat
  off : Nat
  deriving DecidableEq, Repr

/-- The pieces of `n` bytes from address `a`. -/
def splitPieces (blk row : Nat) : Nat → Nat → Nat → Nat → List Piece
  | 0, _, _, _ => []
  | k + 1, a, n, off =>
    if n = 0 then [] else
    let m := min n (64 - a % 64)
    ⟨a, m, blk, row, off⟩ :: splitPieces blk row k (a + m) (n - m) (off + m)

def blockPieces (d : Row) (p : Nat) : List Piece :=
  ((List.range 32).map fun r =>
    splitPieces p r 3 (d.field 0 21 + p * d.field 96 21 + r * d.field 64 21) (mstoreRowBytes d) 0).flatten ++
  (if isMx (d.field 24 4) then splitPieces p 32 2 (d.field 128 21 + 32 * p) 32 0 else [])

def mstorePieces (d : Row) : List Piece := ((List.range (mstoreBlocks d)).map (blockPieces d)).flatten

/-- R454, R457: the cycles an engine takes to mark `n` rows. -/
def Tile.markDelay (t : Tile) (n : Nat) : Nat := if t.pen then (n + 63) / 64 else 0

/-- R180: the cycle of an MSTORE's first pair of pieces. -/
def Tile.storeFirst (t : Tile) (d : Row) (s : Nat) : Nat :=
  s + (if t.model = 2 then 5 else 6) + t.markDelay ((mstorePieces d).length + mstoreBlocks d)

/-! Rows read through a port. -/

/-- A row granted to an engine in cycle `k`. -/
def TW.portRead (x : TW) (k : Nat) (who : Who) (row : Nat) : PortRead × TW :=
  let (b, y) := x.readPart k .engR who (64 * row) 64
  (⟨row, b.v, b.pois, b.viol⟩, y)

/-- Bytes `a` to `a + n - 1`, from rows that have been read. -/
def spanOf (l : List PortRead) (a n : Nat) : Nat → Bytes
  | 0 => ⟨a, 0, 0, [], false⟩
  | k + 1 =>
    if n = 0 then ⟨a, 0, 0, [], false⟩ else
    let m := min n (64 - a % 64)
    let r := spanOf l (a + m) (n - m) k
    match l.find? fun p => p.row == a / 64 with
    | some p => ⟨a, n, p.v / 256 ^ (a % 64) % 256 ^ m + 256 ^ m * r.v,
        (p.pois.drop (a % 64 / 16)).take (segsOf a m) ++ r.pois, p.viol || r.viol⟩
    | none => ⟨a, n, 256 ^ m * r.v, List.replicate (segsOf a m) false ++ r.pois, r.viol⟩

def bytesIn (l : List PortRead) (a n : Nat) : Bytes := spanOf l a n (n / 64 + 2)

/-- The blocks that a running Muller operation targets and has not completed (R187): an MMAC's grid, an MSTORE's
sources until their last piece. -/
def MulRun.blocks (r : MulRun) : List Nat :=
  let first := r.op.desc.field 144 3
  let n := (r.op.desc.field 147 3 + 1) * (r.op.desc.field 150 3 + 1)
  if r.op.kind = .mmac then (List.range 8).filter (fun b => decide (first + r.blk ≤ b) && decide (b < first + n))
  else (List.range (mstoreBlocks r.op.desc)).filterMap fun p =>
    if (mstorePieces r.op.desc).zipIdx.any fun q =>
        q.1.blk == p && decide ((if q.2 % 2 = 0 then r.nextP else r.nextQ) ≤ q.2) then some (r.op.desc.field 32 3 + p)
    else none

/-! Accumulator window (R125, R168, R169). -/

def Tile.accAt (t : Tile) (i : Nat) : BitVec 32 := SMap.getD t.acc i 0#32
def Tile.setAcc (t : Tile) (i : Nat) (v : BitVec 32) : Tile := { t with acc := SMap.put t.acc i v 0#32 }

/-- The running MMAC that targets a block and has not completed it (blk_busy of R187). -/
def Tile.blkBusy (t : Tile) (b : Nat) : Option MulRun :=
  t.mul.find? fun r => r.op.kind == .mmac && r.blocks.any (· == b)

/-- Pentimento code 5: an accumulator access to a block that a running MMAC targets. -/
def TW.penAcc (x : TW) (c b : Nat) (who : Who) : TW :=
  match x.t.blkBusy b with
  | some r => if x.t.pen then x.hazard c 5 who ⟨2, r.op.id, r.op.td, r.op.org.pc, x.env.tile⟩ b true else x
  | none => x

/-- The cycles in which the running MMAC's fetched steps will commit into block `b` (R179), as far as they are known: what
has been fetched for it, one chunk after the other. -/
def Tile.commitsAt (t : Tile) (k b : Nat) : Bool :=
  match t.mul with
  | [] => false
  | r :: _ => r.op.kind == .mmac &&
      let d := r.op.desc
      let n := (if r.waitDone then r.blk + 1 else r.blk) * mmacK d + (if r.waitDone then 0 else r.chunk)
      r.ready.zipIdx.any fun q =>
        mmacFirst d + (n + q.2) / mmacK d == b && max (q.1.firstC + mmacT d - 1 + t.mulD) (r.after + 1) == k

/-- R169: whether block `b` is taken in cycle `k` for a reader of a rank of R169: granted, or kept by a commit. -/
def Tile.accTaken (t : Tile) (k b : Nat) : Bool := t.claimed k (1000 + b) 9 || t.commitsAt k b

/-- Whether a block reads as poisoned (R185). -/
def Tile.accPoison (t : Tile) (b : Nat) : Bool :=
  t.get TF.MUL_CTRL.ck_poison == 1 && (t.get TF.MUL_BLKMARK.mark).testBit b

/-! The Muller's ports (R177-R179). -/

def MulRun.rowsP (r : MulRun) : List Nat :=
  (mmacA r.op.desc).rows (mmacK r.op.desc) (r.fBlk / mmacN r.op.desc) r.fChunk
def MulRun.rowsQ (r : MulRun) : List Nat :=
  (mmacB r.op.desc).rows (mmacK r.op.desc) (r.fBlk % mmacN r.op.desc) r.fChunk

/-- One port presents its next row in cycle `k`, unless an MSTORE's piece takes the port. -/
def TW.portStep (x : TW) (k : Nat) (who : Who) (rows : List Nat) (got : List PortRead) (busy : Bool) :
    List PortRead × TW :=
  match rows.drop got.length with
  | [] => (got, x)
  | row :: _ =>
    if busy then (got, x)
    else if x.t.claimed k (row % 16) 3 then (got, x.conflict)
    else
      let (p, y) := (x.map fun t => t.grant k (row % 16) 3).portRead k who row
      (got ++ [p], y)

/-- A chunk is ready: its first compute cycle is known, and the next chunk is fetched from it (R179). -/
def MulRun.fetched (r : MulRun) (t : Tile) : MulRun :=
  let d := r.op.desc
  let fc := max (r.fLast + t.readLat r.fLast + t.mulF) r.fAfter
  let r := { r with firstC := fc, ready := r.ready ++ [Chunk.mk fc r.fA r.fB], fA := [], fB := [], fFrom := fc,
                    fAfter := fc + mmacT d }
  if r.fChunk + 1 < mmacK d then { r with fChunk := r.fChunk + 1 }
  else if r.fBlk + 1 < mmacM d * mmacN d then { r with fBlk := r.fBlk + 1, fChunk := 0 }
  else { r with fOn := false }

/-- The Muller's fetch in cycle `k`; `usedP` and `usedQ` say that an MSTORE's piece has taken the port. -/
def TW.mulPort (x : TW) (k : Nat) (usedP usedQ : Bool) : TW :=
  match x.t.mul.find? fun r => r.fOn && decide (r.fFrom ≤ k) with
  | none => x
  | some r =>
    let due (n : MulRun → Nat) : Bool := x.t.mul.any fun s =>
      s.op.kind == .mstore && decide (x.t.storeFirst s.op.desc s.start ≤ k) && decide (n s < s.pieces)
    let who : Who := ⟨2, r.op.id, r.op.td, r.op.org.pc, x.env.tile⟩
    let (fa, y) := x.portStep k who r.rowsP r.fA (usedP || due (·.nextP))
    let (fb, z) := y.portStep k who r.rowsQ r.fB (usedQ || due (·.nextQ))
    let r1 := { r with fA := fa, fB := fb,
                       fLast := if fa.length + fb.length = r.fA.length + r.fB.length then r.fLast else k }
    let r2 := if fa.length = r.rowsP.length && fb.length = r.rowsQ.length then r1.fetched z.t else r1
    z.map fun t => { t with mul := t.mul.map fun s => if s.op.id = r.op.id then r2 else s }

/-! Descriptor (R190). -/

/-- A stream block of the descriptor; `size` is its number. -/
structure GStream where
  base : Nat
  fmt : Nat
  flag : Bool
  en : Bool
  stride : Nat
  aux : Nat
  top : Nat
  deriving DecidableEq, Repr

def gStream (d : Row) (k : Nat) : GStream :=
  let lo := 64 * k
  ⟨d.field lo 21, d.field (lo + 21) 4, d.field (lo + 25) 1 == 1, d.field (lo + 26) 1 == 1, d.field (lo + 27) 15,
   d.field (lo + 42) 21, d.field (lo + 63) 1⟩

def gX (d : Row) : GStream := gStream d 0
def gY (d : Row) : GStream := gStream d 1
def gO (d : Row) : GStream := gStream d 2
def gO2 (d : Row) : GStream := gStream d 3
/-- Z as a stream block: FP32, no aux plane. -/
def gZ (d : Row) : GStream := ⟨d.field 342 21, 0, false, d.field 378 1 == 1, d.field 363 15, 0, 0⟩
def gN (d : Row) : Nat := d.field 256 16 + 1
def gM (d : Row) : Nat := d.field 272 16 + 1
def gStages (d : Row) : Nat := d.field 288 4
def gSBase (d : Row) : Nat := 16 * d.field 292 17
def gSEn (d : Row) : Bool := d.field 309 1 == 1
def gWBase (d : Row) : Nat := 16 * d.field 310 17
def gRed (d : Row) : Nat := d.field 327 3
def gTap0 (d : Row) : Nat := d.field 330 4
def gTap1 (d : Row) : Nat := d.field 334 4
def gFin (d : Row) : Nat := d.field 338 2
def gWatch (d : Row) : Bool := d.field 340 1 == 1
def gSkip (d : Row) : Bool := d.field 341 1 == 1
def gOvl (d : Row) : Bool := d.field 379 1 == 1
def gO2Tap (d : Row) : Nat := d.field 380 4

/-- Whether a format has an aux plane (R189). -/
def hasAux (fmt : Nat) : Bool := isMx fmt || fmt == 0xB || fmt == 0xC

/-- Bytes that `n` elements take in the element plane of a stream. -/
def GStream.bytes (g : GStream) (n : Nat) : Nat :=
  if g.fmt = 0xB && g.flag then 6 * n else n * elemBits g.fmt / 8

/-- Bytes of one segment of `n` elements in the aux plane. -/
def GStream.auxBytes (g : GStream) (n : Nat) : Nat :=
  if isMx g.fmt then n / 32 else if g.fmt = 0xB then 2 * (n / 256) else if g.fmt = 0xC then 2 * n else 0

/-- The segment number that places a segment in a stream (R189: 0 when the stride is 0). -/
def GStream.seg (g : GStream) (s : Nat) : Nat := if g.stride = 0 then 0 else s

/-- The address of element 0 of segment `s`, and of its part of the aux plane. -/
def GStream.at_ (g : GStream) (s : Nat) : Nat := g.base + 64 * g.stride * s
def GStream.auxAt (g : GStream) (n s : Nat) : Nat := g.aux + g.auxBytes n * g.seg s

/-- The offset of element `e0`'s aux byte within its segment's part. -/
def GStream.auxOff (g : GStream) (e0 : Nat) : Nat :=
  if isMx g.fmt then e0 / 32 else if g.fmt = 0xB then 2 * (e0 / 256) else if g.fmt = 0xC then 2 * e0 else 0

/-- The aux bytes that `n` elements from `e0` need. -/
def GStream.auxNeed (g : GStream) (n : Nat) : Nat :=
  if isMx g.fmt then (n + 31) / 32 else if g.fmt = 0xB then 2 else if g.fmt = 0xC then 2 * n else 0

/-- The Palette rows that bytes `a` to `a + n - 1` lie in. -/
def rowsOf (a n : Nat) : List Nat := if n = 0 then [] else (List.range ((a % 64 + n + 63) / 64)).map (a / 64 + ·)

/-! Glaze's requests (R209). -/

/-- R214: a case is recorded. -/
def TW.glzErr (x : TW) (code stage : Nat) : TW :=
  ((x.put TF.GLZ_ERRLOG.code code).put TF.GLZ_ERRLOG.stage stage).put TF.GLZ_ERRLOG.valid 1

/-- An access of a running GRUN fails R116 (R213, R214). -/
def TW.glzFail (x : TW) (op : Nat) : TW :=
  let first := x.t.glz.any fun r => r.op.id == op && !r.viol
  let y := if first then x.glzErr 10 0 else x
  y.map fun t => { t with glz := t.glz.map fun r => if r.op.id = op then { r with viol := true } else r }

/-- The aux bytes of the beat being read, of one stream, as rows. -/
def GlzRun.auxRows (r : GlzRun) (g : GStream) : List Nat :=
  let e0 := 64 * r.rBeat
  rowsOf (g.auxAt (gN r.op.desc) r.rSeg + g.auxOff e0) (g.auxNeed (min 64 (gN r.op.desc - e0)))

/-- The rows that the beat being read shares with the next: the S record, and scale and header rows. -/
def GlzRun.keep (r : GlzRun) : List PortRead :=
  let d := r.op.desc
  let aux (g : GStream) : List Nat := if g.en && g.fmt != 0xC then r.auxRows g else []
  let rows := (if gSEn d then [(gSBase d + 16 * r.rSeg) / 64] else []) ++ aux (gX d) ++ aux (gY d)
  (r.reads ++ r.held).filter fun p => rows.any (· == p.row)

/-- The last read of a beat is granted in cycle `k`: the beat is ready, and the next is read from the cycle after it. -/
def GlzRun.readDone (r : GlzRun) (k : Nat) : GlzRun :=
  let d := r.op.desc
  let a := r.acc.getD ([], false)
  let r := { r with ready := r.ready ++ [GlzRead.mk r.rSeg r.rBeat (r.reads ++ r.held) a.1 a.2 k], held := r.keep,
                    reads := [], acc := none, rFrom := k + 1 }
  if 64 * (r.rBeat + 1) < gN d then { r with rBeat := r.rBeat + 1 }
  else if r.rSeg + 1 < gM d then { r with rSeg := r.rSeg + 1, rBeat := 0 }
  else { r with rOn := false }

/-- The rows that a beat reads, in the order of R209: the S record with the segment's first beat, the header of a KB24
output with its block's first beat, then X, Y and Z with their aux planes. A scale or header row that an earlier beat
has read is not read again. -/
def GlzRun.needs (r : GlzRun) : List Nat :=
  let d := r.op.desc
  let e0 := 64 * r.rBeat
  let n := min 64 (gN d - e0)
  let aux (g : GStream) : List Nat :=
    if g.fmt = 0xC then r.auxRows g else (r.auxRows g).filter fun w => !(r.held.any fun p => p.row == w)
  let st (g : GStream) : List Nat := if g.en then rowsOf (g.at_ r.rSeg + g.bytes e0) (g.bytes n) ++ aux g else []
  ((if gSEn d && r.rBeat = 0 then [(gSBase d + 16 * r.rSeg) / 64] else []) ++
   (if (gO d).en && (gO d).fmt = 0xB && e0 % 256 = 0 then [((gO d).auxAt (gN d) r.rSeg + 2 * (e0 / 256)) / 64] else []) ++
   (if (gX d).flag then [] else st (gX d)) ++ st (gY d) ++ st (gZ d)).eraseDups

/-- Whether Glaze itself has a bank in cycle `k`. -/
def Tile.glzOwns (t : Tile) (k bank : Nat) : Bool := t.claims.any fun p => p.1 == k && p.2.1 == bank && p.2.2 == 4

/-- A run takes the place of the one of its operation. -/
def Tile.setGlz (t : Tile) (r : GlzRun) : Tile := { t with glz := t.glz.map fun q => if q.op.id = r.op.id then r else q }

/-- A write of Glaze granted in cycle `k`, visible from the next (R103). A watched record is delivered with it (R207),
whether or not R116 permits the write (DESIGN CHOICE, notes/assumptions/117). -/
def TW.glzPut (x : TW) (k : Nat) (w : GlzWrite) : TW :=
  let y := x.map fun t => { t with glz := t.glz.map fun r => if r.op.id = w.op then { r with writeC := k } else r }
  let y := match w.watch with
    | some (layer, r0, r1, p, n) => y.emit (.watch layer r0 r1 p n)
    | none => y
  if y.t.permits k .engW (w.addr / 64) && decide (w.addr < 0x200000) then
    ((y.penWrite k w.who w.addr none).mergeFind w.addr w.len).map fun t => { t with late := t.late ++ [(k + 1, w.addr, w.len, w.v, w.marks)] }
  else y.violation.glzFail w.op

/-- Requests in order, `n` of the twelve of cycle `k` left: those granted take effect, and the others wait (R209). A bank
lost to another requester counts (R112). The writes that wait, and how many of the twelve are left. -/
def TW.glzWrites (x : TW) (k : Nat) : List GlzWrite → Nat → List GlzWrite × Nat × TW
  | [], n => ([], n, x)
  | w :: ws, 0 => (w :: ws, 0, x)
  | w :: ws, n + 1 =>
    let bank := w.addr / 64 % 16
    if x.t.glzOwns k bank then
      let (l, m, y) := x.glzWrites k ws n
      (w :: l, m, y)
    else if x.t.claimed k bank 3 then
      let (l, m, y) := x.conflict.glzWrites k ws n
      (w :: l, m, y)
    else ((x.map fun t => t.grant k bank 4).glzPut k w).glzWrites k ws n

def TW.glzReads (x : TW) (k : Nat) (who : Who) : List Nat → Nat → List PortRead × TW
  | [], _ => ([], x)
  | _ :: _, 0 => ([], x)
  | row :: rs, n + 1 =>
    if x.t.glzOwns k (row % 16) then x.glzReads k who rs n
    else if x.t.claimed k (row % 16) 3 then x.conflict.glzReads k who rs n
    else
      let (p, y) := (x.map fun t => t.grant k (row % 16) 4).portRead k who row
      let (l, z) := y.glzReads k who rs n
      (p :: l, z)

/-- The chain row of a GRUN that has started, the first request of cycle `k` (R209, R211); how many of the twelve are
left. -/
def TW.glzChain (x : TW) (k : Nat) : Nat × TW :=
  match x.t.glz.find? fun r => r.chainC.isNone && decide (r.start ≤ k) with
  | none => (12, x)
  | some r =>
    let row := r.op.addr / 64 + 1
    if x.t.claimed k (row % 16) 3 then (11, x.conflict)
    else
      let (p, y) := (x.map fun t => t.grant k (row % 16) 4).portRead k (r.op.who x.env.tile) row
      (11, y.map fun t => t.setGlz
        { r with chain := BitVec.ofNat 512 p.v, chainC := some k, chainPois := p.pois, chainViol := p.viol })

/-- The order of R209 among the writes due. -/
def insertWrite (w : GlzWrite) : List GlzWrite → List GlzWrite
  | [] => [w]
  | v :: l => if w.cls < v.cls || (w.cls == v.cls && decide (w.addr < v.addr)) then w :: v :: l else v :: insertWrite w l

/-- KB24 headers and deferred O2 rows are requested in the cycle after the last O write (R212). -/
def releaseDeferred (k : Nat) (l : List GlzWrite) : List GlzWrite :=
  l.map fun w =>
    if w.due = 0 && !(l.any fun v => v.cls == 2 && v.op == w.op && decide (v.beat ≤ w.beat)) then { w with due := k + 1 }
    else w

/-- The accumulator elements of the beat being read, one access at rank 3 of R169, once it is granted (R210). -/
def TW.glzAcc (x : TW) (k : Nat) (r : GlzRun) : Option (List Nat × Bool) × TW :=
  let d := r.op.desc
  if !((gX d).en && (gX d).flag) then (some ([], false), x) else
  let i := ((gX d).at_ r.rSeg + 256 * r.rBeat) / 4
  let b := i / 1024
  if x.t.accTaken k b then (none, x.count TF.MUL_CNT_ACONF.count none 1) else
  let y := (x.map fun t => t.grant k (1000 + b) 3).penAcc k b (r.op.who x.env.tile)
  (some ((List.range (min 64 (gN d - 64 * r.rBeat))).map fun l => (y.t.accAt (i + l)).toNat, y.t.accPoison b), y)

/-- The reads of Glaze's next beat in cycle `k`, `n` of its twelve requests left; a beat is read when its last read and,
of the first beat, the chain row have been granted. -/
def TW.glzBeatReads (x : TW) (k n : Nat) : TW :=
  match x.t.glz.find? (·.rOn) with
  | none => x
  | some r =>
    if k < r.rFrom then x else
    let need := r.needs.filter fun w => !(r.reads.any fun p => p.row == w)
    let (got, y) := x.glzReads k (r.op.who x.env.tile) need n
    let (acc, z) := if r.acc.isSome then (r.acc, y) else y.glzAcc k r
    let r1 := { r with reads := r.reads ++ got, acc := acc }
    let r2 := if got.length = need.length && acc.isSome && r.chainC.isSome then r1.readDone k else r1
    z.map fun t => { t.setGlz r2 with glzRead := if r2.rOn then t.glzRead else k }

/-- Whether a GRUN has ended: its beats have all passed and it waits for no write (R213). -/
def Tile.glzGone (t : Tile) (r : GlzRun) : Bool := r.ended && !(t.glzW.any fun w => w.op == r.op.id)

/-- The Pentimento marks of a GRUN go with its end (R454). -/
def TW.glzMarks (x : TW) : TW :=
  x.t.glz.foldl (fun y r => if x.t.glzGone r then y.penDone 3 r.op.id else y) x

/-- A GRUN that has ended leaves, its token clearing in the cycle after its last write is granted, or after its last tree
partial (R213). -/
def TW.glzEndOne (x : TW) (r : GlzRun) : TW :=
  if !x.t.glzGone r then x else
  let c := if r.writeC = 0 then r.partC else r.writeC + 1
  (x.map fun t => { t with glz := t.glz.filter (·.op.id ≠ r.op.id), glzToken := max t.glzToken c }).finish r.op
    (if r.viol then 3 else 0) c

def TW.glzEnd (x : TW) : TW := x.t.glz.foldl TW.glzEndOne x

/-- Glaze in cycle `k`: a chain row, its writes that are due, then the reads of its next beat, which wait while one of
those writes does (R209). -/
def TW.glzPort (x : TW) (k : Nat) : TW :=
  let (n, x) := x.glzChain k
  let due := (x.t.glzW.filter fun w => w.due ≠ 0 && decide (w.due ≤ k)).foldl (fun l w => insertWrite w l) []
  let rest := x.t.glzW.filter fun w => w.due = 0 || decide (k < w.due)
  let (kept, m, y) := (x.map fun t => { t with glzW := [] }).glzWrites k due n
  let z := y.map fun t => { t with glzW := releaseDeferred k (rest ++ kept) }
  (if kept.isEmpty then z.glzBeatReads k m else z).glzMarks

/-! The edge port (R110, R111, R250). -/

/-- The order in which the edge port takes its requests: as they reached the tile; of one cycle, off-die writes, then stream
transfers, then fabric reads. -/
def insertEdge (q : EdgeReq) : List EdgeReq → List EdgeReq
  | [] => [q]
  | v :: l =>
    if q.at_ < v.at_ || (q.at_ == v.at_ && decide (q.prio < v.prio)) then q :: v :: l else v :: insertEdge q l

/-- The access of a request whose bank is granted in cycle `k`: a row of a transfer moves, and its engine learns of it. -/
def TW.edgeTake (x : TW) (k : Nat) (q : EdgeReq) : TW := match q.kind with
  | .unit => x
  | .load =>
    let (ok, y) := x.writePart k q.who q.addr 64 q.v q.marks
    (y.perf 0x15 1).emit (.rowIn q.op k (!ok))
  | .store =>
    let (b, y) := x.readPart k .engR q.who q.addr 64
    (y.perf 0x15 1).emit (.rowOut q.op q.row (k + y.t.readLat k) (k + y.t.readLat k + q.lat) b.v b.pois b.viol)

/-- The next row that Varnish reads of those a snapshot captures (R377, R378). -/
def vrnRowAt : List (Nat × Nat) → Nat → Option Nat
  | [], _ => none
  | q :: l, k => if k < q.2 then some (q.1 + k) else vrnRowAt l (k - q.2)

def Tile.vrnNext (t : Tile) : Option Nat := vrnRowAt t.vrnRows t.vrnAt

/-- R378: a row of a snapshot through the edge port, checked by no partition rule, in a cycle that no other request of the
port takes (DESIGN CHOICE, notes/assumptions/112: no place among them is stated). -/
def TW.vrnPort (x : TW) (k : Nat) : TW := match x.t.vrnNext with
  | none => x
  | some row =>
    if x.t.claimed k (row % 16) 5 then x.conflict
    else
      let (_, _, y) := (x.map fun t => { t.grant k (row % 16) 5 with vrnAt := t.vrnAt + 1 }).readSegs (4 * row) 4
      y.perf 0x15 1

/-- The edge port in cycle `k`: no request in an exchange-phase cycle, else its first (R110, R111, R112). -/
def TW.edgePort (x : TW) (k : Nat) : TW :=
  if x.t.phase k then x else
  match x.t.edge with
  | [] => x.vrnPort k
  | q :: l =>
    if k < q.at_ then x.vrnPort k
    else if x.t.claimed k (bankOf q.addr) 5 then x.conflict
    else (x.map fun t => { t.grant k (bankOf q.addr) 5 with edge := l, edgeDone := (k :: t.edgeDone).take 32 }).edgeTake k q

/-! The engines' ports up to a cycle. -/

def Tile.mulIdle (t : Tile) : Bool := !(t.mul.any (·.fOn))
def Tile.glzIdle (t : Tile) : Bool := t.glzW.isEmpty && !(t.glz.any (·.rOn))

/-- One cycle of the engines and of the edge port in the order of R110, each unless it is past it. -/
def TW.portCycle (x : TW) (k : Nat) (usedP usedQ : Bool) : TW :=
  let x := x.commitDue k
  let y := if x.t.mulC ≤ k then (x.mulPort k usedP usedQ).map fun t => { t with mulC := k + 1 } else x
  let z := if y.t.glzC ≤ k then (y.glzPort k).map fun t => { t with glzC := k + 1 } else y
  if z.t.edgeC ≤ k then (z.edgePort k).map fun t => { t with edgeC := k + 1 } else z

def TW.portsGo (x : TW) (k : Nat) : Nat → TW
  | 0 => x
  | n + 1 => (x.portCycle k false false).portsGo (k + 1) n

/-- Every request of the engines before cycle `c` has been presented. -/
def TW.ports (x : TW) (c : Nat) : TW :=
  let x := if x.t.mulIdle then x.map fun t => { t with mulC := max t.mulC c } else x
  let x := if x.t.glzIdle then x.map fun t => { t with glzC := max t.glzC c } else x
  let x := if x.t.edge.isEmpty && x.t.vrnNext.isNone then x.map fun t => { t with edgeC := max t.edgeC c } else x
  let k := min (min x.t.mulC x.t.glzC) x.t.edgeC
  x.portsGo k (c - k)

/-- What an access granted in cycle `c` sees, with every request of the engines before it. -/
def TW.commitStores (x : TW) (c : Nat) : TW := (x.ports c).commitDue c

/-- Every store and every engine write granted so far is written. -/
def TW.commitAll (x : TW) : TW := (x.commitStores (x.t.cyc + 2)).commitDue (max x.t.glzC (x.t.cyc + 2))

/-- R110, R112: a request from cycle `c`, of a rank of R110, is presented until its bank grants it; a lost cycle counts.
The engines and the edge port, of ranks 3 to 5, go before ranks 6 and above. -/
def TW.requestGo (x : TW) (c bank rank : Nat) : Nat → Nat × TW
  | 0 => (c, x)
  | n + 1 =>
    let y := x.ports (if rank ≤ 2 then c else c + 1)
    if y.t.claimed c bank rank then y.conflict.requestGo (c + 1) bank rank n
    else (c, y.map fun t => t.grant c bank rank)

/-- R112: a request is presented in every cycle until it is granted; no run reaches this many lost cycles. -/
def maxWait : Nat := 2 ^ 32

def TW.claim (x : TW) (c bank rank : Nat) : Nat × TW := x.requestGo c bank rank maxWait

/-- R169: an access to accumulator block `blk` of a rank of R169 from cycle `c`, after the engines' own of the same
cycle; each lost cycle counts. -/
def TW.accRequest (x : TW) (c blk rank : Nat) : Nat → Nat × TW
  | 0 => (c, x)
  | n + 1 =>
    let y := x.ports (c + 1)
    if y.t.accTaken c blk then (y.count TF.MUL_CNT_ACONF.count none 1).accRequest (c + 1) blk rank n
    else (c, y.map fun t => t.grant c (1000 + blk) rank)

def TW.accGrant (x : TW) (c blk rank : Nat) : Nat × TW := x.accRequest c blk rank maxWait

/-- Glaze's requests are presented, cycle after cycle, until every GRUN whose beats have all passed has ended. -/
def TW.glzSettle (x : TW) : Nat → TW
  | 0 => x
  | n + 1 => if x.t.glz.any fun r => r.ended && !x.t.glzGone r then (x.ports (x.t.glzC + 1)).glzSettle n else x

/-- The state in which the clear of every GRUN whose beats have all passed is known. -/
def TW.settled (x : TW) : TW := (x.glzSettle maxWait).glzEnd

/-- The same, for one that waits for a token. -/
def TW.forToken (x : TW) (k : Nat) : TW := if x.t.tokenPending k then x.settled else x

/-- The requests of the edge port are presented, cycle after cycle, until that of another unit has been granted. -/
def TW.edgeWait (x : TW) (k : Nat) : Nat → TW
  | 0 => x
  | n + 1 => if x.t.edge.any (·.kind == .unit) then (x.ports (k + 1)).edgeWait (k + 1) n else x

/-- Varnish's reads are presented, cycle after cycle, until every captured row has been read. -/
def TW.vrnWait (x : TW) (k : Nat) : Nat → TW
  | 0 => x
  | n + 1 => if x.t.vrnNext.isSome then (x.ports (k + 1)).vrnWait (k + 1) n else x

/-- R110, R250: a row through the edge port for another unit, whose request reaches the tile in cycle `c`: the cycle in
which it is granted. -/
def TW.edgeClaim (x : TW) (c bank prio : Nat) : Nat × TW :=
  let q : EdgeReq := ⟨c, prio, .unit, 64 * bank, 0, 0, 0, [], 0, Who.none⟩
  let y := (x.ports c).map fun t => { t with edge := insertEdge q t.edge }
  let z := y.edgeWait c maxWait
  (z.t.edgeDone.headD c, z)

/-- The rows that hold one of the 32 entries of the edge port in cycle `c` (R250): those sent or asked for whose access has
not been granted before it. -/
def Tile.edgeUsed (t : Tile) (c : Nat) : Nat := t.edge.length + (t.edgeDone.filter fun k => decide (c ≤ k)).length

end Sys2Proof.Machine
end

