-- ==== Sys2Proof/Machine/Edge.lean ====
section
/-! DEFINITION. The edge of the Palette (R109, R111, R118-R129): receive windows, off-die writes, patrol and write-back,
and Gesso of one tile. -/

namespace Sys2Proof.Machine

/-! Receive windows (R118-R123). -/

/-- The valid receive-window descriptor that names a slot. -/
def Tile.rxPart (t : Tile) (slot : Nat) : Option Word :=
  ((List.range 16).map (fun k => rreg tileReset t.regs (0x80 + 8 * k))).find?
    (fun w => partKind w == 3 && w.field 44 2 == slot)

def Tile.rxNbuf (t : Tile) (k : Nat) : Nat := t.get (TF.PAL_RXCFG.nbuf_m1 k) + 1
def Tile.rxRows (t : Tile) (k : Nat) : Nat := t.get (TF.PAL_RXCFG.buf_rows_m1 k) + 1

/-- A slot's buffers with every accepted byte count zero. -/
def Tile.rxZero (t : Tile) (k : Nat) : Tile :=
  { t with rxBytes := t.rxBytes.filter (fun p => p.1 / 64 ≠ k) }

/-- R123: closing a slot closes every buffer at once. -/
def Tile.rxClose (t : Tile) (k : Nat) : Tile :=
  (t.rxZero k).put (TF.PAL_RXOPEN.open k) 0

/-- The bits PAL_RXCFGk keeps. -/
def rxMask : Word := 0xFFFF03FFFFFFFFFF#64

/-- R119: a write to PAL_RXCFGk of the bits `m`. Opening sends nbuf credits to the flow. -/
def TW.rxCfgWrite (x : TW) (k : Nat) (m v : Word) : TW :=
  let a := 0x100 + 0x20 * k
  let old := rreg tileReset x.t.regs a
  let new := ((old &&& ~~~ m) ||| (v &&& m)) &&& rxMask
  if new.field 40 1 = 0 then
    x.map fun t => ({ t with regs := rset tileReset t.regs a new } : Tile).rxClose k
  else if old.field 40 1 = 1 then x
  else match x.t.rxPart k with
    | none => x.put TF.PAL_STATUS.rx_reject 1
    | some w =>
      let rows := new.field 22 12 + 1
      let nbuf := new.field 34 6 + 1
      if rows * nbuf ≤ partSize w && w.field 41 1 == 1 then
        let y := x.map fun t =>
          (((({ t with regs := rset tileReset t.regs a new } : Tile).rxZero k).put
            (TF.PAL_RXCNT.filled k) 0).put (TF.PAL_RXCNT.released k) 0).put (TF.PAL_RXOPEN.open k) (2 ^ nbuf - 1)
        let z := y.penPending ⟨5, 0, 0, 0, 0⟩ (partBase w) (if x.t.pen then rows * nbuf else 0)
        z.emit (.credits (new.field 0 14) (new.field 14 8) k 0 nbuf (nbuf - 1) (rows - 1) (partBase w))
      else x.put TF.PAL_STATUS.rx_reject 1

/-- R122: up to `n` releases in ring order; the second number is how many were made. -/
def TW.rxReleaseGo (x : TW) (k nbuf : Nat) : Nat → Nat → Nat × TW
  | 0, done => (done, x)
  | n + 1, done =>
    let filled := x.get (TF.PAL_RXCNT.filled k)
    let rel := x.get (TF.PAL_RXCNT.released k)
    if filled = rel then (done, x)
    else
      let i := rel % nbuf
      let y := x.map fun t =>
        ({ t with rxBytes := SMap.put t.rxBytes (64 * k + i) 0 0 } : Tile).put (TF.PAL_RXOPEN.open k)
          (t.get (TF.PAL_RXOPEN.open k) ||| 2 ^ i)
      let z := match x.t.rxPart k with
        | some w => if x.t.pen then y.penPending ⟨5, 0, 0, 0, 0⟩ (partBase w + i * x.t.rxRows k) (x.t.rxRows k) else y
        | none => y
      (z.put (TF.PAL_RXCNT.released k) (rel + 1)).rxReleaseGo k nbuf n (done + 1)

/-- R122: a write of `n` to PAL_RXRELk. While the slot is disabled it releases nothing and sets rel_reject (DESIGN CHOICE,
notes/assumptions/112: R122 has the releases of an enabled slot only). -/
def TW.rxRelWrite (x : TW) (k n : Nat) : TW :=
  if n = 0 || 64 < n then x.put TF.PAL_STATUS.rel_reject 1 else
  let (done, y) := if x.get (TF.PAL_RXCFG.enable k) = 1 then x.rxReleaseGo k (x.t.rxNbuf k) n 0 else (0, x)
  let z := if done = 0 then y
    else y.emit (.credits (x.get (TF.PAL_RXCFG.flow_id k)) (x.get (TF.PAL_RXCFG.epoch k)) k
      (x.get (TF.PAL_RXCNT.released k) % x.t.rxNbuf k) done (x.t.rxNbuf k - 1) (x.t.rxRows k - 1) ((x.t.rxPart k).elim 0 partBase))
  if done < n then z.put TF.PAL_STATUS.rel_reject 1 else z

/-- R121: filled advances past every closed buffer in ring order, each advance signalling when sig_en is 1. -/
def TW.rxFill (x : TW) (k nbuf : Nat) : Nat → TW
  | 0 => x
  | n + 1 =>
    let filled := x.get (TF.PAL_RXCNT.filled k)
    let rel := x.get (TF.PAL_RXCNT.released k)
    let i := filled % nbuf
    if (filled + 2 ^ 24 - rel) % 2 ^ 24 < nbuf && (x.get (TF.PAL_RXOPEN.open k)).testBit i == false then
      let y := x.put (TF.PAL_RXCNT.filled k) (filled + 1)
      let z := if x.get (TF.PAL_RXCFG.sig_en k) = 1 then y.emit (.signal (x.get (TF.PAL_RXCFG.vcid k)) 1) else y
      z.rxFill k nbuf n
    else x

/-- What R120 makes of an off-die write. -/
inductive RxOutcome where
  | accepted
  | noCredit      -- a write without credit: dropped, PAL_CNT_CREDIT
  | epoch         -- refused for the flow's epoch
  | violation     -- fails R116
  | gesso         -- the tile is under Gesso (R129)
  deriving DecidableEq, Repr

/-- R116, R120: which window slot a write of `n` bytes at `a` falls in, and what becomes of it. -/
def Tile.rxCheck (t : Tile) (c flow epoch a n : Nat) : Nat × RxOutcome :=
  if t.gesso then (0, .gesso) else
  match t.partOf c (a / 64) with
  | none => (0, .violation)
  | some w =>
    let k := w.field 44 2
    if !partAllows w .frecv then (k, .violation)
    else if t.get (TF.PAL_RXCFG.enable k) = 0 then (k, .noCredit)
    else if t.get (TF.PAL_RXCFG.flow_id k) ≠ flow || t.get (TF.PAL_RXCFG.epoch k) ≠ epoch then (k, .epoch)
    else
      let size := t.rxRows k * 64
      let off := a - partBase w * 64
      let i := off / size
      if decide (i < t.rxNbuf k) && decide (off % size + n ≤ size) && (t.get (TF.PAL_RXOPEN.open k)).testBit i
        && decide (SMap.getD t.rxBytes (64 * k + i) 0 + n ≤ size) then (k, .accepted) else (k, .noCredit)

/-- The access of one row of an off-die write, granted in cycle `c`. -/
def TW.edgePut (x : TW) (c a n v : Nat) (marks : List Bool) : TW :=
  (((x.commitBefore c (bankOf a)).penWrite c ⟨5, 0, 0, 0, 0⟩ a none).writeRaw a n v marks (segsOf a n)).perf 0x15 1

/-- The edge port's accesses of an off-die write that reached the tile in cycle `c`, one a row (R111, R250, R262). -/
def TW.edgeWrite (x : TW) (c a n v : Nat) (marks : List Bool) : Nat → TW
  | 0 => x
  | k + 1 =>
    if n = 0 then x else
    let m := min n (64 - a % 64)
    let (c', y) := x.edgeClaim c (bankOf a) 0
    (y.edgePut c' a m v marks).edgeWrite c (a + m) (n - m) (v / 256 ^ m) (marks.drop (m / 16)) k

/-- A buffer that has received its bytes closes (R121). -/
def TW.rxFull (x : TW) (k i first : Nat) : TW :=
  let z := x.put (TF.PAL_RXOPEN.open k) (x.get (TF.PAL_RXOPEN.open k) - 2 ^ i)
  let rows := x.t.rxRows k
  let z := z.map fun t => if t.pen then { t with grans := t.grans.map fun p =>
    if first ≤ p.1 && p.1 < first + rows then (p.1, { p.2 with st := 1 }) else p } else t
  z.rxFill k (x.t.rxNbuf k) 64

/-- R116, R120, R121: an off-die write of `n` bytes of whole segments that reaches the tile in cycle `c`; its flags are
those it carried. It is checked in the cycle in which the bank of its first row is granted. -/
def TW.rxWrite (x : TW) (c flow epoch a n v : Nat) (marks : List Bool) : RxOutcome × TW :=
  if x.t.gesso then (.gesso, x.emit (.errc 5 1)) else
  let (c', y) := x.edgeClaim c (bankOf a) 0
  match y.t.rxCheck c' flow epoch a n with
  | (k, .accepted) =>
    let w := (y.t.partOf c' (a / 64)).getD 0
    let size := y.t.rxRows k * 64
    let i := (a - partBase w * 64) / size
    let got := SMap.getD y.t.rxBytes (64 * k + i) 0 + n
    let m := min n (64 - a % 64)
    let z := ((y.commitStores c').edgePut c' a m v marks).edgeWrite c (a + m) (n - m) (v / 256 ^ m) (marks.drop (m / 16)) 2
    let z := z.map fun t => { t with rxBytes := SMap.put t.rxBytes (64 * k + i) got 0 }
    (.accepted, if got = size then z.rxFull k i (partBase w + i * y.t.rxRows k) else z)
  | (_, .noCredit) => (.noCredit, y.count TF.PAL_CNT_CREDIT.count (some 3) 1)
  | (_, .epoch) => (.epoch, y)
  | (_, .violation) => (.violation, y.violation)
  | (_, .gesso) => (.gesso, y.emit (.errc 5 1))

/-! Patrol and write-back (R106, R109). -/

/-- The corrected segment of a bank that waits longest is written back. -/
def TW.writeBackOne (x : TW) (c bank : Nat) : TW :=
  if (x.ports (c + 1)).t.claimed c bank 9 then x else
  match x.t.writeBack.find? (fun s => bankOf (16 * s) == bank) with
  | none => x
  | some seg =>
    let y := x.map fun t => t.grant c bank 8
    y.map fun t => { t with palErr := SMap.put t.palErr seg 0 0, writeBack := t.writeBack.filter (· ≠ seg) }

/-- R109: the bank reads its next patrol row, in a cycle no requester claims and no write-back takes, at least 4,096 tc
after its last patrol read. -/
def TW.patrolOne (x : TW) (c bank : Nat) : TW :=
  if x.get TF.PAL_CTRL.patrol = 0 || x.t.gesso || (x.ports (c + 1)).t.claimed c bank 9 ||
      (x.t.writeBack.any (fun s => bankOf (16 * s) == bank)) || decide (c < SMap.getD x.t.patrolAt bank 0) then x
  else
    let row := SMap.getD x.t.patrolRow bank 0
    let y := (x.commitStores c).map fun t => t.grant c bank 9
    let (_, _, z) := y.readSegs ((row * 1024 + bank * 64) / 16) 4
    z.map fun t => { t with patrolRow := SMap.put t.patrolRow bank ((row + 1) % 2048) 0,
                            patrolAt := SMap.put t.patrolAt bank (c + 4096) 0 }

/-- R109: a write of patrol suspends the reads, or resumes them with 4,096 tc counted from the write. A write of 1 while they
go on changes nothing (DESIGN CHOICE, notes/assumptions/112: R109 has such a write resume them). -/
def TW.patrolWrite (x : TW) (c v : Nat) : TW :=
  let y := x.put TF.PAL_CTRL.patrol v
  if v % 2 = 1 && x.get TF.PAL_CTRL.patrol = 0 then
    y.map fun t => { t with patrolAt := (List.range 16).foldl (fun m b => SMap.put m b (c + 4096) 0) t.patrolAt }
  else y

/-! Gesso of one tile (R126, R129). -/

/-- The start of Gesso: the tile's context-owned registers take their reset values, role_epoch kept (R99), its
operations are abandoned and its write-backs dropped; its sends in flight still reach their receivers (R129). -/
def Tile.gessoStart (t : Tile) : Tile :=
  let e := t.get TF.TILE_SELF.role_epoch
  { Tile.fresh with cyc := t.cyc, pal := t.pal, palPois := t.palPois, palErr := t.palErr, acc := t.acc,
                    gesso := true, adrift := t.adrift ++ t.exch.filter (fun x : Send => x.dest.isSome) }.put TF.TILE_SELF.role_epoch e

/-- The end of Gesso: every segment and every accumulator is zero with clear flags and valid check bits; patrol
begins again at row 0. -/
def Tile.gessoDone (t : Tile) : Tile :=
  { t with pal := [], palPois := [], palErr := [], writeBack := [], acc := [], grans := [], patrolRow := [],
           patrolAt := [], gesso := false }

end Sys2Proof.Machine
end

