-- ==== Sys2Proof/Machine/Seq.lean ====
section
/-! DEFINITION. The tile sequencer (R64-R99): scalar registers and poison tags, row fetch, the issue rules and the
scoreboard, tokens and queues, hardware loops, tile faults, and the tile control and status registers as scalar loads
and stores reach them. -/

namespace Sys2Proof

/-- Bits `[lo + n - 1 : lo]` of an instruction word's body. -/
def IW.f (w : IW) (lo n : Nat) : Nat := (w.body.extractLsb' lo n).toNat

end Sys2Proof

namespace Sys2Proof.Machine

/-! Scalar registers (R64-R66). -/

def Tile.sreg (t : Tile) (k : Nat) : Word := if k = 0 then 0 else SMap.getD t.sregs k 0
def Tile.tag (t : Tile) (k : Nat) : Bool := t.tags.getLsbD k

/-- A write of a scalar register and its tag; a write of s0 is discarded (R65). -/
def Tile.setReg (t : Tile) (k : Nat) (v : Word) (tag : Bool) : Tile :=
  if k = 0 then t
  else { t with sregs := SMap.put t.sregs k v 0,
                tags := if tag then t.tags ||| (1#32 <<< k) else t.tags &&& ~~~ (1#32 <<< k) }

/-- A predicate; p0 reads as 1. -/
def Tile.pred (t : Tile) (k : Nat) : Bool := k = 0 || t.preds.getLsbD k

def Tile.setPred (t : Tile) (k : Nat) (v : Bool) : Tile :=
  if k = 0 then t
  else { t with preds := if v then t.preds ||| (1#8 <<< k) else t.preds &&& ~~~ (1#8 <<< k) }

/-- Results that have reached their cycle are written, in the order of their cycles (R71, R96). -/
def Tile.settleList (t : Tile) : List Pend → Tile
  | [] => t
  | p :: ps => (t.setReg p.reg p.val p.tag).settleList ps

def Tile.settle (t : Tile) (c : Nat) : Tile :=
  { t.settleList (t.pend.filter (fun p => decide (p.due ≤ c))) with
    pend := t.pend.filter (fun p => decide (c < p.due)) }

/-- The cycle from which a register is free of pending writes. A write of s0 is discarded, yet waits for the scoreboard as
any other does (R65); so does a read of s0 (DESIGN CHOICE, notes/assumptions/111: R71 does not say). -/
def Tile.regDue (t : Tile) (k : Nat) : Nat :=
  (t.pend.filter (fun p => p.reg == k)).foldl (fun c p => max c p.due) 0

/-- A result that its instruction delivers in cycle `due`. -/
def Tile.later (t : Tile) (k : Nat) (v : Word) (tag : Bool) (due : Nat) : Tile :=
  { t with pend := t.pend ++ [⟨k, v, tag, due⟩] }

/-! Tokens and queues (R87-R91). -/

/-- The tokens of the operations a queue holds, running ones included. -/
def Tile.held (t : Tile) (q : Queue) : List Nat :=
  match q with
  | .muller => t.mul.map (·.op.td) ++ t.muller.map (·.td)
  | .glaze => t.glz.map (·.op.td) ++ t.glaze.map (·.td)
  | .stream => t.stream.map (·.td)
  | .exch => t.exch.map (·.td)
  | .fabric => t.fabric.map (·.td)
  | .sync => t.sync.map (·.td)

def Tile.occupied (t : Tile) (q : Queue) : Nat := (t.held q).length

/-- Whether some queue holds an untracked operation (TILE_TOKENS.untracked). -/
def Tile.untracked (t : Tile) : Bool :=
  [Queue.muller, .glaze, .stream, .exch, .fabric, .sync].any (fun q => (t.held q).any (· == 0))

def Tile.tokenStatus (t : Tile) (k : Nat) : Nat := t.tokStat.field (2 * k) 2

/-- An operation takes its token (R88): pending, with status OK. -/
def Tile.takeToken (t : Tile) (k : Nat) : Tile :=
  if k = 0 then t
  else { t with tokPend := t.tokPend ||| (1#32 <<< k), tokStat := t.tokStat.setField (2 * k) 2 0 }

/-- The entries of a queue in cycle `c`: those it holds and those whose tokens clear later. -/
def Tile.occupiedAt (t : Tile) (c : Nat) (q : Queue) : Nat :=
  t.occupied q + (t.leaving.filter fun p => p.2.1 == q.index && decide (c < p.1)).length

/-- Whether some queue holds an untracked operation in cycle `c` (TILE_TOKENS.untracked). -/
def Tile.untrackedAt (t : Tile) (c : Nat) : Bool :=
  t.untracked || t.leaving.any fun p => p.2.2 == 0 && decide (c < p.1)

/-- Whether a token clears after cycle `c`. -/
def Tile.clearsLate (t : Tile) (c k : Nat) : Bool := t.leaving.any fun p => p.2.2 == k && decide (c < p.1)

/-- R71 item 5: the first cycle in which a queue that can take an entry has one free, an entry being free from the cycle
after its token's clear. -/
def Tile.queueFrom (t : Tile) (q : Queue) : Nat :=
  let l := (t.leaving.filter fun p => p.2.1 == q.index).map (·.1)
  let ok (c : Nat) : Bool := decide (t.occupied q + (l.filter fun k => decide (c ≤ k)).length < q.depth)
  if ok 0 then 0 else (l.filter fun k => ok (k + 1)).foldl (fun c k => min c (k + 1)) (l.foldl max 0 + 1)

/-- The cycle after a token's last clear. -/
def Tile.tokenFrom (t : Tile) (k : Nat) : Nat := SMap.getD t.tokAt k 0 + 1

/-- R36, R39: the cycle from which every named queue has been empty, or none while one holds an operation. -/
def Tile.drained (t : Tile) : List Queue → Option Nat
  | [] => some 0
  | q :: qs => match t.drained qs with
    | none => none
    | some c => if t.occupied q = 0 then some (max c (t.tokenFrom (32 + q.index))) else none

/-! Tile faults (R98). -/

/-- A tile fault in cycle `c`: issue stops; the code and the program counter are recorded and counted. -/
def TW.fault (x : TW) (c code : Nat) : TW :=
  let y := (x.put TF.TILE_FAULT.code code).put TF.TILE_FAULT.pc x.t.pc
  let y := (y.emit (.errc 4 1)).emit (.suspect 6)
  let y := if code = 2 then y.violation else y
  (y.emit (.faulted code)).map fun t => { t with run := .faulted, cyc := max t.cyc c, issued := c }

def FaultCode.illegal : Nat := 1
def FaultCode.fetchPart : Nat := 2
def FaultCode.fetchPoison : Nat := 3
def FaultCode.align : Nat := 4
def FaultCode.loopDepth : Nat := 5
def FaultCode.loopNest : Nat := 6
def FaultCode.poisonUse : Nat := 7

/-! Fetch (R68-R70). -/

/-- The first cycle, from `c`, in which the row of the program counter is issuable (R69), its read having been granted. -/
def Tile.rowFrom (t : Tile) (c : Nat) : Nat :=
  if t.fetch.cur = some (t.pc / 64) then c
  else match t.fetch.granted with
    | some k => max c (k + t.readLat k)
    | none => c + t.readLat c

/-- The read of the next-row buffer, presented since cycle `st`, is granted in cycle `k` (R68, R106): it finds the
segments' flags and errors. A row outside every code partition has no effect. -/
def TW.rowGranted (x : TW) (r st k : Nat) : TW :=
  let y := x.commitDue k
  if y.t.permits k .fetch r then
    let (_, f, z) := y.readSegs (4 * r) 4
    z.map fun t => { t with fetch := { t.fetch with granted := some k, nextFlags := f, lost := t.fetch.lost + (k - st) } }
  else y.map fun t => { t with fetch := { t.fetch with granted := some k, nextFlags := [], lost := t.fetch.lost + (k - st) } }

/-- R70: the row read is presented in every cycle before `c`, until it is granted; each lost cycle counts. -/
def TW.fetchTo (x : TW) (c : Nat) : TW :=
  match x.t.fetch.next, x.t.fetch.granted with
  | some (r, st), none =>
    if c ≤ st then x else
    let (k, y) := x.requestGo st (r % 16) 7 (c - st)
    if k < c then y.rowGranted r st k
    else y.map fun t => { t with fetch := { t.fetch with next := some (r, c), lost := t.fetch.lost + (c - st) } }
  | _, _ => x

/-- The read of row `r` is presented from cycle `c`. -/
def TW.startRow (x : TW) (r c : Nat) : TW :=
  x.map fun t => { t with fetch := { t.fetch with next := some (r, c), granted := none, nextFlags := [], got := false, lost := 0 } }

/-- The row of the program counter is held, or its read is presented until it is granted. -/
def TW.fetchRow (x : TW) : TW :=
  if x.t.fetch.cur = some (x.t.pc / 64) then x else
  let y := match x.t.fetch.next with
    | some (r, _) => if r = x.t.pc / 64 then x else x.startRow (x.t.pc / 64) (max (x.t.issued + 1) x.t.cyc)
    | none => x.startRow (x.t.pc / 64) (max (x.t.issued + 1) x.t.cyc)
  match y.t.fetch.next, y.t.fetch.granted with
  | some (r, st), none =>
    let (k, z) := y.requestGo st (r % 16) 7 maxWait
    z.rowGranted r st k
  | _, _ => y

/-- The poison flags of the row of the program counter, as its read found them (R68). -/
def Tile.rowFlags (t : Tile) : List Bool :=
  if t.fetch.cur = some (t.pc / 64) then t.fetch.flags else t.fetch.nextFlags

/-- Whether the word at the program counter lies in a segment that was read as poisoned. -/
def Tile.wordPoisoned (t : Tile) : Bool := t.rowFlags.getD (t.pc / 16 % 4) false

/-- R69: the loop-start buffer holds the start row of every active loop from its first entry. -/
def Tile.keepStarts (t : Tile) : List (Nat × List Bool) :=
  let row := t.pc / 64
  let kept := t.fetch.starts.filter fun p => t.loops.any fun l => l.first / 64 == p.1
  if (t.loops.any fun l => l.first / 64 == row) && !(kept.any fun p => p.1 == row) then (row, t.rowFlags) :: kept else kept

/-- The row is entered in cycle `c` (R69): the read of the following row starts, unless it is held or being read; a
request of the sequencer itself in that cycle, `port`, goes first (R70). -/
def TW.enterRow (x : TW) (c : Nat) (port : Bool) : TW :=
  let row := x.t.pc / 64
  let keep := x.t.keepStarts
  if x.t.fetch.cur = some row && x.t.fetch.entered then
    x.map fun t => { t with fetch := { t.fetch with starts := keep } }
  else
    let flags := x.t.rowFlags
    let y := (x.fetchTo c).map fun t =>
      { t with fetch := { t.fetch with cur := some row, flags := flags, entered := true, starts := keep } }
    match y.t.fetch.next with
    | some (r, _) => if r = row + 1 then y else y.startRow (row + 1) (if port then c + 1 else c)
    | none => y.startRow (row + 1) (if port then c + 1 else c)

/-- R70: a row read not yet granted is presented again from cycle `c`, after another request of the sequencer. -/
def Tile.displaceRow (t : Tile) (c : Nat) : Tile :=
  match t.fetch.next, t.fetch.granted with
  | some (r, st), none => { t with fetch := { t.fetch with next := some (r, max st c) } }
  | _, _ => t

/-- R223: the first issue from a row whose read lost its bank, which would else have come in cycle `lo` or later, is held
back by that loss in an exchange-phase cycle: a slip. -/
def Tile.rowSlip (t : Tile) (lo : Nat) : Tile :=
  match t.fetch.granted with
  | some k =>
    let r := k + t.readLat k
    let from_ := max (max lo (r - t.fetch.lost)) t.released
    if t.fetch.cur ≠ some (t.pc / 64) && decide (0 < t.fetch.lost) && decide (from_ < r) && t.phase from_ then
      { t with slipped := true }
    else t
  | none => t

/-- ROW_ISSUABLE: the row being read is delivered (R69, R545). -/
def TW.rowDelivered (x : TW) : TW :=
  match x.t.fetch.next with
  | some (r, st) =>
    if x.t.fetch.got then x else
    let y := match x.t.fetch.granted with
      | some _ => x
      | none => let (k, z) := x.requestGo st (r % 16) 7 maxWait; z.rowGranted r st k
    y.map fun t =>
      { t with cyc := max t.cyc ((t.fetch.granted.map fun k => k + t.readLat k).getD 0), fetch := { t.fetch with got := true } }
  | none => x

/-! Loops (R84-R86). -/

/-- R85: the program counter after an instruction at the end of bodies: the innermost loop that ends there loops back
or ends, and the next enclosing one is treated in the same cycle. -/
def Tile.loopEnd (t : Tile) : List Loop → Tile
  | [] => { t with loops := [], pc := t.pc + 8 }
  | l :: ls =>
    if t.pc = l.last then
      if 1 < l.count then
        { t with loops := { l with count := l.count - 1 } :: ls, pc := l.first,
                 fetch := { t.fetch with
                   cur := some (l.first / 64), entered := false,
                   flags := ((t.fetch.starts.find? fun p => p.1 == l.first / 64).map (·.2)).getD t.rowFlags } }
      else t.loopEnd ls
    else { t with loops := l :: ls, pc := t.pc + 8 }

/-- The sequential flow after an instruction. -/
def Tile.advance (t : Tile) : Tile := t.loopEnd t.loops

/-- R86: a taken branch ends every loop whose body its target leaves. -/
def loopsAt (target : Nat) : List Loop → List Loop
  | [] => []
  | l :: ls => if l.first ≤ target && target ≤ l.last then l :: ls else loopsAt target ls

/-- A taken branch in cycle `c` (R96): the target's row read starts in c + 1 under timing model 1, in c under 2. It takes
the next-row buffer, whose row is read again when it is next needed (DESIGN CHOICE, notes/assumptions/111: R69 names no
other buffer for it); its read goes before another row read of that cycle (R70). -/
def TW.branch (x : TW) (c target : Nat) : TW :=
  let from_ := if x.t.model = 2 then c else c + 1
  ((x.fetchTo from_).map fun t =>
    { t with pc := target, loops := loopsAt target t.loops,
             fetch := { t.fetch with cur := none, flags := [], entered := false } }).startRow (target / 64) from_

/-! Issue (R71, R72). -/

/-- What the issue rules need to know of an instruction: whether its word is ILLEGAL, whether it takes no guard, is of
class BR or LOOP, the registers it reads and writes, its destination token and queue, the cycle from which any hold
of its own ends (none while it must wait), the check that may fault once its operands are there, and the bank and the
rank of R110 of the Palette request it makes in its issue cycle. -/
structure Shape where
  illegal : Bool := false
  noGuard : Bool := false
  ctl : Bool := false
  reads : List Nat := []
  writes : List Nat := []
  td : Nat := 0
  queue : Option Queue := none
  hold : Tile → Option Nat := fun _ => some 0
  check : Tile → Option Nat := fun _ => none
  port : Nat → TW → Option (Nat × Nat) := fun _ _ => none

/-- Whether an instruction at the program counter is the last of an active body. -/
def Tile.endsBody (t : Tile) : Bool := t.loops.any (fun l => l.last == t.pc)

/-- R73: the guard's value. -/
def Tile.guard (t : Tile) (w : IW) : Bool := t.pred w.pg.val != w.pn

/-- Whether an instruction's queue is full (R71 item 5). -/
def Tile.queueFull (t : Tile) (sh : Shape) : Bool :=
  match sh.queue with
  | some q => decide (q.depth ≤ t.occupied q)
  | none => false

/-- Whether an instruction waits for a token, a queue or a hold of its own. -/
def Tile.blocked (t : Tile) (sh : Shape) : Bool := t.tokenPending sh.td || t.queueFull sh || (sh.hold t).isNone

/-- The first cycle in which an instruction's queue has a free entry (R71 item 5). -/
def Tile.queueAt (t : Tile) (sh : Shape) : Nat :=
  match sh.queue with
  | some q => t.queueFrom q
  | none => 0

/-- The cycle counts of R465 for an instruction issued in `c` that could have issued in `c0`: waits on registers and
tokens up to `cReg`, on its row up to `cRow`; `q` cycles it found its queue full. -/
def TW.issueCounts (x : TW) (c0 c cReg cRow q : Nat) (taken : Bool) : TW :=
  let o : Origin := ⟨x.t.pc, c, x.t.phase c, x.env.tick, c - x.t.tickRel⟩
  let y := ((x.perf 0x01 (c - x.t.issued)).perf 0x04 (c - c0)).perf 0x06 q
  let y := (y.perf 0x05 (cReg - c0)).perf 0x07 (cRow - c0)
  let y := y.perfOf 0x02 o (c - c0) 0 0
  if taken then y.perfOf 0x03 o (c - c0) 0 0 else y

/-- The bookkeeping of an issue in cycle `c`. -/
def TW.issuedAt (x : TW) (c : Nat) : TW :=
  x.map fun t => { t with issued := c, cyc := max t.cyc c, qwait := none }

/-- R223: a cycle of an exchange phase in which a request of the sequencer loses its bank is a slip. -/
def Tile.lostAt (t : Tile) (c : Nat) : Tile := if t.phase c then { t with slipped := true } else t

/-- The request of an instruction, presented from cycle `c`: it is granted, loses its bank and issue stalls one cycle (R70,
R222), or is no longer made (R221). The cycle of issue, and whether the request was granted in it. -/
def TW.portGo (x : TW) (sh : Shape) (c : Nat) : Nat → Nat × Bool × TW
  | 0 => (c, false, x)
  | n + 1 =>
    match sh.port c x with
    | none => (c, false, x)
    | some (bank, rank) =>
      let y := x.ports (if rank ≤ 2 then c else c + 1)
      if y.t.claimed c bank rank then
        ((y.conflict.perf 0x08 1).map fun t => t.lostAt c).portGo sh (c + 1) n
      else (c, true, y.map fun t => t.grant c bank rank)

/-- The request of an instruction that could issue in cycle `c`, and the entry of its row (R69, R70). A row read waits for
it; a send's source read is such a request too (DESIGN CHOICE, notes/assumptions/111: R70 gives the sequencer one request
a cycle, R222 names the send read). -/
def TW.portAt (x : TW) (c : Nat) (sh : Shape) : Nat × TW :=
  match sh.port c x with
  | none => (c, x.enterRow c false)
  | some _ =>
    let (c2, hit, y) := x.portGo sh c maxWait
    (c2, (y.map fun t => t.displaceRow (if hit then c2 + 1 else c2)).enterRow c2 hit)

/-- R71, R72, R75: the instruction issues in the first cycle in which every condition holds, waits (nothing else
changes) while a token, a queue or a hold must first clear, or faults. `eff` is its effect in that cycle, the program
counter's included. Of several faults, FETCH_PART comes first, then FETCH_POISON, then ILLEGAL (DESIGN CHOICE,
notes/assumptions/111: R68 and R75 give no order). -/
def TW.issue (x : TW) (w : IW) (sh : Shape) (eff : Nat → TW → TW) : TW :=
  if x.t.run ≠ .running then x else
  let x := x.fetchRow
  let c0 := x.t.issued + 1
  let cRow := x.t.rowFrom (max c0 x.t.cyc)
  let row := x.t.pc / 64
  let xr := (x.map fun t => t.rowSlip c0).enterRow cRow false
  if !x.t.permits cRow .fetch row then x.fault cRow FaultCode.fetchPart
  else if x.t.wordPoisoned then xr.fault cRow FaultCode.fetchPoison
  else if sh.illegal || (sh.noGuard && (w.pn || w.pg.val ≠ 0)) || (sh.ctl && x.t.endsBody) then
    xr.fault cRow FaultCode.illegal
  else if !(x.t.settle cRow).guard w then
    let y := xr.map fun t => t.settle cRow
    ((y.issueCounts c0 cRow c0 cRow 0 false).map Tile.advance).issuedAt cRow
  else
  let x := if x.t.blocked sh then x.settled else x
  if x.t.tokenPending sh.td then x
  else if x.t.queueFull sh then
    if x.t.qwait.isSome then x else x.map fun t => { t with qwait := some (max cRow c0) }
  else match sh.hold x.t with
    | none => x
    | some ch =>
      let cReg := (sh.reads ++ sh.writes).foldl (fun c k => max c (x.t.regDue k)) c0
      let cTok := if sh.td = 0 then ch else max ch (x.t.tokenFrom sh.td)
      let cq := x.t.queueAt sh
      let c1 := max (max (max cRow cReg) cTok) cq
      let qs := x.t.qwait.getD (min (max cRow c0) cq)
      let y := ((x.map fun t => t.rowSlip (max cReg cTok)).fetchTo c1).commitStores c1
      let y := y.map fun t => t.settle c1
      match sh.check y.t with
      | some code => (y.enterRow c1 false).fault c1 code
      | none =>
        let (c2, z) := y.portAt c1 sh
        (eff c2 (z.issueCounts c0 c2 (max cReg cTok) cRow (cq - qs) true)).issuedAt c2

/-- A check that a register carries no poison tag (R66). -/
def noPoison (ks : List Nat) (t : Tile) : Option Nat :=
  if ks.any t.tag then some FaultCode.poisonUse else none

/-- Two checks in order. -/
def andThen (f g : Tile → Option Nat) (t : Tile) : Option Nat := match f t with
  | some c => some c
  | none => g t

/-! Tile control and status registers (R14, R15, R99, R124). -/

/-- The value of a view register, or the stored one. -/
def TW.regView (x : TW) (c off : Nat) : Word :=
  let t := x.glzEnd.t
  let f (lo w v : Nat) (acc : Word) : Word := acc.setField lo w v
  if off = 0x000 then
    f 16 6 (x.env.phys % 34) (rreg tileReset t.regs 0)
  else if off = 0x010 then
    f 0 3 (match t.run with
      | .idle => 0 | .running => 1 | .atBarrier => 2 | .atTickwait => 3 | .ended => 4 | .faulted => 5)
      (f 8 3 t.loops.length (f 16 21 t.pc 0))
  else if off = 0x020 then f 0 1 (t.untrackedAt c).toNat (f 1 31 ((List.range 32).foldl (fun a k =>
      if t.tokenPending k || (k ≠ 0 && t.clearsLate c k) then a ||| 2 ^ k else a) 0 / 2) 0)
  else if off = 0x028 then (List.range 32).foldl (fun a k => if t.clearsLate c k then a.setField (2 * k) 2 0 else a) t.tokStat
  else if off = 0x030 then f 1 31 (t.tags.toNat / 2) 0
  else if off = 0x038 then
    let n := t.occupiedAt c
    f 0 5 (n .muller) (f 8 5 (n .glaze) (f 16 5 (n .stream) (f 24 5 (n .exch) (f 32 5 (n .fabric) (f 40 5 (n .sync) 0)))))
  else if off = 0x1A8 then
    match t.mul with
    | [] => if c < t.mulLast.1 then f 0 1 1 (f 1 2 t.mulLast.2.1 (f 8 8 t.mulLast.2.2 0)) else 0
    | r :: _ => f 0 1 1 (f 1 2 (if r.op.kind = .mstore then 2 else 0) (f 8 8 (r.blocks.foldl (fun a b => a + 2 ^ b) 0) 0))
  else if off = 0x1F0 then
    let n := t.glz.length + (t.leaving.filter fun p => p.2.1 == Queue.glaze.index && decide (c < p.1)).length
    f 0 1 (decide (n ≠ 0)).toNat (f 1 1 (decide (1 < n)).toNat (f 16 16 ((t.glz.getLast?.map (·.rSeg)).getD 0) 0))
  else if off = 0x220 then
    f 0 1 (t.phase c).toNat (f 1 1 t.slipped.toNat (f 16 16 t.xlen (f 32 16 (t.pcyc c) 0)))
  else if 0x258 ≤ off && off < 0x298 && off % 8 = 0 then x.env.mbs ((off - 0x258) / 8)
  else rreg tileReset t.regs off

/-- The tile counter registers, which PERF_CTXc gates (R464). -/
def isPerfReg (off : Nat) : Bool := decide (0x2C0 ≤ off) && decide (off < 0x328)

/-- A 32-bit or 64-bit read of a tile register: the fields read, RC fields in the half read cleared, and the counter
above an even counter copied to TPC_HOLD (R463). `n` is the size in bytes; any other access reads zero (R14). -/
def TW.regRead (x : TW) (c off n : Nat) : Nat × TW :=
  if (n ≠ 8 && n ≠ 4) || off % n ≠ 0 then (0, x)
  else
    let a := off - off % 8
    match regFind tileRegs a with
    | none => (0, x)
    | some r =>
      if isPerfReg a && x.env.perf % 2 = 0 then (0, x)
      else
        let w := x.regView c a
        let w := if a = 0x320 && x.env.perf / 4 % 2 = 0 then w.setField 0 1 0 else w
        let m : Word := if n = 8 then BitVec.allOnes 64 else if off % 8 = 0 then 0xFFFFFFFF#64 else 0xFFFFFFFF00000000#64
        let v := if n = 8 then w.toNat else if off % 8 = 0 then w.toNat % 2 ^ 32 else w.toNat / 2 ^ 32
        let kept : Word := rreg tileReset x.t.regs a &&& ~~~ ((BitVec.ofNat 64 r.rc) &&& m)
        let y := if r.rc = 0 then x
          else x.map fun t => { t with regs := rset tileReset t.regs a kept }
        let y := if 0x2C0 ≤ a && a < 0x300 && a % 16 = 0 then
            y.put TF.TPC_HOLD.hold (x.get (TF.TPC_CNT.count ((a - 0x2C0) / 8 + 1))) else y
        (v, y)

/-- R184: the marks that a write of 1 does not clear in cycle `c`: those set in it. -/
def Tile.justMarked (t : Tile) (c : Nat) : Word :=
  t.marked.foldl (fun a p => if p.2 = c then a ||| (1#64 <<< p.1) else a) 0

/-- A register write by type (R15), of the bits `m`: RW replaced, W1C cleared, W1S set, everything else kept. -/
def writeByType (r : RegDesc) (old m v : Word) : Word :=
  let rw := BitVec.ofNat 64 r.rw &&& m
  let c := BitVec.ofNat 64 r.w1c &&& m &&& v
  let s := BitVec.ofNat 64 r.w1s &&& m &&& v
  (((old &&& ~~~ rw) ||| (v &&& rw)) &&& ~~~ c) ||| s

/-- A write of a tile register by the program (R14, R15); a write that names no register is ignored. -/
def TW.regWrite (x : TW) (c off n v : Nat) : TW :=
  if (n ≠ 8 && n ≠ 4) || off % n ≠ 0 then x
  else
    let a := off - off % 8
    let m : Word := if n = 8 then BitVec.allOnes 64 else if off % 8 = 0 then 0xFFFFFFFF#64 else 0xFFFFFFFF00000000#64
    let d : Word := if off % 8 = 0 then BitVec.ofNat 64 v else BitVec.ofNat 64 (v * 2 ^ 32)
    if a = 0x040 then (if m.getLsbD 0 then x.patrolWrite c (d.toNat % 2) else x)
    else if 0x080 ≤ a && a < 0x100 then x.partWrite c ((a - 0x80) / 8) m d
    else if 0x100 ≤ a && a < 0x180 && a % 0x20 = 0 then x.rxCfgWrite ((a - 0x100) / 0x20) m d
    else if 0x100 ≤ a && a < 0x180 && a % 0x20 = 0x10 then
      (if m.getLsbD 0 then x.rxRelWrite ((a - 0x110) / 0x20) (d.toNat % 128) else x)
    else if isPerfReg a && x.env.perf / 2 % 2 = 0 then x
    else
      let d := if a = 0x1B0 then d &&& ~~~ x.t.justMarked c else d
      match regFind tileRegs a with
      | none => x
      | some r => x.map fun t =>
          { t with regs := rset tileReset t.regs a (writeByType r (rreg tileReset t.regs a) m d) }

/-! Scalar loads and stores (R80). -/

/-- The regions of a tile-local address (R6, R117). -/
inductive Region where
  | palette | regs | acc | none
  deriving DecidableEq, Repr

def regionOf (a : Nat) : Region :=
  if a < 0x200000 then .palette
  else if a < 0x201000 then .regs
  else if 0x300000 ≤ a && a < 0x308000 then .acc
  else .none

/-- The tile-local address of a scalar access: the low 32 bits of s[sa] plus the signed offset. -/
def memAddr (t : Tile) (w : IW) : Nat := (t.sreg (w.f 39 5) + sext64 32 (w.f 0 32)).toNat % 2 ^ 32

/-- R66, R80, R125: the faults of a scalar access: a tagged base, a misaligned address, an accumulator access of another
size than 32 or 64 bits. A tagged base faults before a misaligned address does (DESIGN CHOICE, notes/assumptions/111: R66
and R80 give no order). -/
def memCheck (w : IW) (n : Nat) (t : Tile) : Option Nat :=
  if t.tag (w.f 39 5) then some FaultCode.poisonUse
  else if memAddr t w % n ≠ 0 then some FaultCode.align
  else if regionOf (memAddr t w) = .acc && n < 4 then some FaultCode.align
  else none

/-- The request of a scalar access, when it reaches the Palette. -/
def memPort (w : IW) (_ : Nat) (x : TW) : Option (Nat × Nat) :=
  if regionOf (memAddr x.t w) = .palette then some (bankOf (memAddr x.t w), 6) else none

def seqWho (x : TW) : Who := ⟨1, 0, 0, x.t.pc, x.env.tile⟩

/-- A scalar load in cycle `c`: the bits loaded (none for a violation), the poison tag, the cycle of the result. -/
def TW.loadBits (x : TW) (c a n : Nat) : Option Nat × Bool × Nat × TW :=
  match regionOf a with
  | .palette =>
    if x.t.permits c .seqR (a / 64) then
      let (b, _) := (x.overlay).readPart c .seqR (seqWho x) a n
      let (_, y) := x.readPart c .seqR (seqWho x) a n
      (some b.v, b.anyPoison, c + x.t.readLat c + 1, y)
    else (none, true, c + 5, x.violation)
  | .regs => let (v, y) := x.regRead c (a - 0x200000) n; (some v, false, c + 5, y)
  | .acc =>
    let i := (a - 0x300000) / 4
    let b := i / 1024
    let (c', y) := x.accGrant c b 5
    let y := y.penAcc c' b (seqWho x)
    let v := (y.t.accAt i).toNat + (if n = 8 then (y.t.accAt (i + 1)).toNat * 2 ^ 32 else 0)
    (some v, y.t.accPoison b, c' + 5, y)
  | .none => (none, true, c + 5, x.violation)

/-- R80, R117: the effect of a scalar load of `n` bytes. -/
def TW.loadEff (x : TW) (c : Nat) (w : IW) (n : Nat) (signed : Bool) : TW :=
  let (v, tag, due, y) := x.loadBits c (memAddr x.t w) n
  let r : Word := match v with
    | some b => if signed then sext64 (8 * n) b else BitVec.ofNat 64 b
    | none => BitVec.allOnes 64
  y.map fun t => (t.later (w.f 44 5) r tag due).advance

/-- R80, R66, R117: the effect of a scalar store of `n` bytes. -/
def TW.storeEff (x : TW) (c : Nat) (w : IW) (n : Nat) : TW :=
  let a := memAddr x.t w
  let v := (x.t.sreg (w.f 44 5)).toNat % 256 ^ n
  let tag := x.t.tag (w.f 44 5)
  let y := match regionOf a with
    | .palette =>
      if x.t.permits c .seqW (a / 64) then
        (((x.commitDue c).penWrite c (seqWho x) a (some 1)).mergeFind a n).map fun t => { t with stores := t.stores ++ [(c + 2, a, n, v, tag)] }
      else x.violation
    | .regs => x.regWrite c (a - 0x200000) n v
    | .acc =>
      let i := (a - 0x300000) / 4
      let (c', y) := x.accGrant c (i / 1024) 5
      let y := y.penAcc c' (i / 1024) (seqWho x)
      y.map fun t =>
        let t1 := t.setAcc i (BitVec.ofNat 32 v)
        if n = 8 then t1.setAcc (i + 1) (BitVec.ofNat 32 (v / 2 ^ 32)) else t1
    | .none => x.violation
  y.map Tile.advance

/-! Shapes and effects by class. -/

/-- R77: an ALU or MULDIV instruction's registers; reserved bits make it ILLEGAL. -/
def aluShape (w : IW) : Shape :=
  { illegal := w.f 0 34 ≠ 0, reads := [w.f 39 5, w.f 34 5], writes := [w.f 44 5] }

def aluiShape (w : IW) : Shape :=
  { illegal := w.f 32 7 ≠ 0, reads := [w.f 39 5], writes := [w.f 44 5] }

/-- An ALU operation: the result is tagged when a source is (R66), and is available in the next cycle. -/
def TW.alu (x : TW) (w : IW) (op : Word → Word → Word) : TW :=
  x.issue w (aluShape w) fun _ y => y.map fun t =>
    (t.setReg (w.f 44 5) (op (t.sreg (w.f 39 5)) (t.sreg (w.f 34 5)))
      (t.tag (w.f 39 5) || t.tag (w.f 34 5))).advance

/-- An ALUI operation, with imm32 sign-extended. -/
def TW.alui (x : TW) (w : IW) (op : Word → Word → Word) : TW :=
  x.issue w (aluiShape w) fun _ y => y.map fun t =>
    (t.setReg (w.f 44 5) (op (t.sreg (w.f 39 5)) (sext64 32 (w.f 0 32))) (t.tag (w.f 39 5))).advance

/-- R79: a compare; a tagged operand faults (R66). -/
def TW.cmp (x : TW) (w : IW) (op : Word → Word → Bool) : TW :=
  let imm := w.f 33 1 = 1
  x.issue w
    { illegal := w.f 44 2 ≠ 0 || w.f 32 1 ≠ 0 || (if imm then w.f 34 5 ≠ 0 else w.f 0 32 ≠ 0),
      reads := if imm then [w.f 39 5] else [w.f 39 5, w.f 34 5],
      check := noPoison (if imm then [w.f 39 5] else [w.f 39 5, w.f 34 5]) }
    fun _ y => y.map fun t =>
      (t.setPred (w.f 46 3) (op (t.sreg (w.f 39 5))
        (if imm then sext64 32 (w.f 0 32) else t.sreg (w.f 34 5)))).advance

/-- R79: predicate logic. -/
def TW.plogic (x : TW) (w : IW) (op : Bool → Bool → Bool) : TW :=
  x.issue w { illegal := w.f 0 40 ≠ 0 } fun _ y => y.map fun t =>
    (t.setPred (w.f 46 3) (op (t.pred (w.f 43 3)) (t.pred (w.f 40 3)))).advance

/-- R81, R96: a MULDIV operation, its latency `l1` under timing model 1 and `l2` under model 2. -/
def TW.muldiv (x : TW) (w : IW) (l1 l2 : Nat) (op : Word → Word → Word) : TW :=
  x.issue w (aluShape w) fun c y => y.map fun t =>
    (t.later (w.f 44 5) (op (t.sreg (w.f 39 5)) (t.sreg (w.f 34 5)))
      (t.tag (w.f 39 5) || t.tag (w.f 34 5)) (c + if t.model = 2 then l2 else l1)).advance

/-- R80: a scalar load. -/
def TW.load (x : TW) (w : IW) (n : Nat) (signed : Bool) : TW :=
  x.issue w { illegal := w.f 32 7 ≠ 0, reads := [w.f 39 5], writes := [w.f 44 5], check := memCheck w n,
              port := memPort w }
    fun c y => y.loadEff c w n signed

/-- R80: a scalar store. -/
def TW.store (x : TW) (w : IW) (n : Nat) : TW :=
  x.issue w { illegal := w.f 32 7 ≠ 0, reads := [w.f 39 5, w.f 44 5], check := memCheck w n, port := memPort w }
    fun c y => y.storeEff c w n

/-- R83: a branch, call or jump to `target`; a target that is not a multiple of 8 faults. -/
def TW.jump (x : TW) (w : IW) (illegal : Bool) (reads writes : List Nat) (target : Tile → Nat)
    (link : Option Nat) : TW :=
  x.issue w { illegal := illegal, ctl := true, reads := reads, writes := writes,
              check := andThen (noPoison reads) (fun t => if target t % 8 ≠ 0 then some FaultCode.align else none) }
    fun c y =>
      let tgt := target y.t
      (match link with
        | some l => y.map fun t => t.setReg l (BitVec.ofNat 64 (t.pc + 8)) false
        | none => y).branch c tgt

/-- pc + 8 * off, for a signed 32-bit offset (R83). -/
def relTarget (w : IW) (t : Tile) : Nat := (BitVec.ofNat 64 t.pc + (sext64 32 (w.f 0 32)) * 8#64).toNat

/-- R84-R86: a LOOP with its count; a count of 0, or a false guard, skips the body as a taken branch does. Left open by
R84 and R85 (DESIGN CHOICE, notes/assumptions/111): a LOOP that breaks both rules of R85 faults with LOOP_NEST; a skip out
of the body of an enclosing loop ends that loop, as R86 has of a taken branch; a LOOP whose guard is false is checked for
neither (R72). -/
def TW.loop (x : TW) (w : IW) (illegal : Bool) (reads : List Nat) (count : Tile → Nat) : TW :=
  let len := w.f 28 16 + 1
  let sh : Shape :=
    { illegal := illegal, ctl := true, reads := reads,
      check := andThen (noPoison reads) fun t =>
        if t.loops.any (fun l => decide (l.last < t.pc + 8 * len)) then some FaultCode.loopNest
        else if count t ≠ 0 && decide (4 ≤ t.loops.length) then some FaultCode.loopDepth else none }
  let eff (c : Nat) (y : TW) : TW :=
    if count y.t = 0 then y.branch c (y.t.pc + 8 * (len + 1))
    else y.map fun t => { t with loops := ⟨t.pc + 8, t.pc + 8 * len, count t⟩ :: t.loops, pc := t.pc + 8 }
  -- a false guard counts as a count of 0 (R84): the body is skipped
  let y := x.fetchRow
  if (y.t.settle (y.t.rowFrom (max (y.t.issued + 1) y.t.cyc))).guard w then x.issue w sh eff
  else x.issue ⟨false, 0, w.body⟩ { sh with reads := [], check := fun _ => none }
    fun c y => y.branch c (y.t.pc + 8 * (len + 1))

end Sys2Proof.Machine
end

