-- ==== Sys2Proof/Machine/Issue.lean ====
section
/-! DEFINITION. Issue of the instructions that reach beyond the scalar registers (R76, R82, R87-R95): moves, Stipple
draws, token waits, engine instructions, sends to the sync engine, barrier, tick-wait and END; and how an operation's
token clears. -/

namespace Sys2Proof.Machine

/-- R78: MOVI and MOVHI. -/
def TW.movi (x : TW) (w : IW) : TW :=
  x.issue w { writes := [w.f 44 5] } fun _ y => y.map fun t =>
    (t.setReg (w.f 44 5) (sext64 44 (w.f 0 44)) false).advance

def TW.movhi (x : TW) (w : IW) : TW :=
  x.issue w { illegal := w.f 20 24 ≠ 0, reads := [w.f 44 5], writes := [w.f 44 5] } fun _ y => y.map fun t =>
    (t.setReg (w.f 44 5) ((t.sreg (w.f 44 5)).setField 44 20 (w.f 0 20)) (t.tag (w.f 44 5))).advance

/-- R76: NOP; a word of a reserved class or an unlisted op reaches a tile as NOP's word and is ILLEGAL (R75). -/
def nopIW (v : BitVec 64) : IW := IW.ofWord v

def TW.nop (x : TW) (v : BitVec 64) : TW :=
  x.issue (nopIW v)
    { illegal := (v.extractLsb' 59 5).toNat ≠ 0 || (v.extractLsb' 49 6).toNat ≠ 0 || (v.extractLsb' 0 49).toNat ≠ 0 }
    fun _ y => y.map Tile.advance

/-- R82, R154, R155: a Stipple draw. -/
def rndDraw (seed : Nat) (a b stream : Word) (half : Nat) : Word :=
  let (o0, o1, o2, o3) := philox (seed + stream.field 0 32 * 2 ^ 32) (a.toNat + b.toNat * 2 ^ 64)
  if half = 0 then BitVec.ofNat 64 (o0 + o1 * 2 ^ 32) else BitVec.ofNat 64 (o2 + o3 * 2 ^ 32)

def TW.rnd (x : TW) (w : IW) : TW :=
  let rs := [w.f 39 5, w.f 34 5, w.f 29 5]
  x.issue w { illegal := w.f 0 28 ≠ 0, reads := rs, writes := [w.f 44 5], check := noPoison rs } fun c y =>
    (y.perf 0x1A 1).map fun t =>
      (t.later (w.f 44 5) (rndDraw (t.get TF.STIP_SEED.seed) (t.sreg (w.f 39 5)) (t.sreg (w.f 34 5))
        (t.sreg (w.f 29 5)) (w.f 28 1)) false (c + if t.model = 2 then 10 else 12)).advance

/-! Token waits (R91). -/

/-- Whether a token named by a mask is clear; bit 0 stands for the untracked operations. -/
def Tile.maskClear (t : Tile) (k : Nat) : Bool := if k = 0 then !t.untracked else !t.tokenPending k

def maskBits (m : Nat) : List Nat := (List.range 32).filter m.testBit

/-- R91: pd of a wait in cycle `c`: some named token that is clear holds a status other than OK. -/
def Tile.waitPred (t : Tile) (c m : Nat) : Bool :=
  (maskBits m).any fun k => k ≠ 0 && !t.tokenPending k && decide (t.tokenFrom k ≤ c) && t.tokenStatus k ≠ 0

def TW.wait (x : TW) (w : IW) (hold : Tile → Option Nat) : TW :=
  x.issue w { illegal := w.f 32 13 ≠ 0, hold := hold } fun c y => y.map fun t =>
    (if w.f 45 1 = 1 then t.setPred (w.f 46 3) (t.waitPred c (w.f 0 32)) else t).advance

/-- Whether a mask names a GRUN whose beats have all passed: when its token clears is still to be found (R213). -/
def Tile.waitsGlz (t : Tile) (m : Nat) : Bool := t.glz.any fun r => r.ended && m.testBit r.op.td

/-- The cycle from which every named token is clear, or none while one is pending. -/
def waitAllHold (m : Nat) (t : Tile) : Option Nat :=
  if t.waitsGlz m then none else
  if (maskBits m).all t.maskClear then some ((maskBits m).foldl (fun c k => max c (t.tokenFrom k)) 0) else none

/-- The cycle from which some named token is clear. -/
def waitAnyHold (m : Nat) (t : Tile) : Option Nat :=
  if t.waitsGlz m then none else
  if m = 0 then some 0 else
  match ((maskBits m).filter t.maskClear).map t.tokenFrom with
  | [] => none
  | c :: cs => some (cs.foldl min c)

/-! Engine instructions (R88, R92, R93). -/

/-- The Palette address of an instruction's descriptor. -/
def descAddr (t : Tile) (w : IW) : Nat :=
  (BitVec.ofNat 21 ((t.sreg (w.f 33 5)).toNat + w.f 18 15 * 64) &&& 0x1FFFC0#21).toNat

def Tile.origin (t : Tile) (c tick : Nat) : Origin := ⟨t.pc, c, t.phase c, tick, c - t.tickRel⟩

/-- R92: a descriptor read by the sequencer; it sees every earlier store, and none outside the readable partitions. -/
def TW.readDesc (x : TW) (c a : Nat) : Option Row × TW :=
  if x.t.permits c .seqR (a / 64) then
    let (b, _) := x.overlay.readPart c .seqR (seqWho x) a 64
    let (_, y) := x.readPart c .seqR (seqWho x) a 64
    (some (BitVec.ofNat 512 b.v), y)
  else (none, x.violation)

/-- An operation joins its queue. -/
def Tile.enqueue (t : Tile) (o : QOp) : Tile := match o.kind.queue with
  | .muller => { t with muller := t.muller ++ [o] }
  | .glaze => { t with glaze := t.glaze ++ [o] }
  | .stream => { t with stream := t.stream ++ [o] }
  | .exch => t
  | .fabric => { t with fabric := t.fabric ++ [o] }
  | .sync => t

/-- The queue entry of an engine instruction issued in cycle `c`. -/
def TW.opOf (x : TW) (c : Nat) (w : IW) (k : QKind) (desc : Row) (addr : Nat) : QOp :=
  { kind := k, desc := desc, parm := w.f 0 18, addr := addr, td := w.f 44 5, tw := if w.f 43 1 = 1 then w.f 38 5 else 0,
    stip := rreg tileReset x.t.regs 0x188, org := x.t.origin c x.env.tick, id := x.t.nextId, started := false }

/-- R88, R92, R93: an engine instruction; `parmOk` says which parm values are listed, `noDesc` is MCLR. -/
def TW.engine (x : TW) (w : IW) (k : QKind) (parmOk : Bool) (noDesc : Bool) : TW :=
  let rs := if noDesc then [] else [w.f 33 5]
  x.issue w
    { illegal := !parmOk || (w.f 43 1 = 0 && w.f 38 5 ≠ 0) || (noDesc && w.f 18 20 ≠ 0), reads := rs, td := w.f 44 5,
      queue := some k.queue, check := noPoison rs,
      port := fun _ y => if noDesc then none else some (bankOf (descAddr y.t w), 6) }
    fun c y =>
      let (d, z) := if noDesc then (some 0, y) else y.readDesc c (descAddr y.t w)
      let o := z.opOf c w k (d.getD 0) (if noDesc then 0 else descAddr y.t w)
      let z := z.map fun t => { t.takeToken o.td with nextId := t.nextId + 1 }
      let z := match d with
        | some _ => z.map fun t => t.enqueue o
        | none => z.finish o 3 c
      z.map Tile.advance

/-! Sync instructions (R95). -/

/-- SIG and WAITGE leave for their counter (R328, R330). -/
def TW.syncOp (x : TW) (w : IW) (isWait : Bool) : TW :=
  let sv := w.f 39 5
  let rs := if sv = 0 then [] else [sv]
  x.issue w { illegal := w.f 16 7 ≠ 0, reads := rs, td := w.f 44 5, queue := some .sync, check := noPoison rs }
    fun c y =>
      let v := if sv = 0 then w.f 0 16 else (y.t.sreg sv).field 0 48
      let o : SyncOp := ⟨isWait, w.f 23 16, v, w.f 44 5, y.t.origin c y.env.tick, y.t.nextId⟩
      (y.map fun t => { t.takeToken o.td with nextId := t.nextId + 1, sync := t.sync ++ [o] }.advance).emit (.request o)

/-- R36, R37: the die barrier. -/
def TW.bar (x : TW) (w : IW) : TW :=
  x.issue w { illegal := w.f 16 33 ≠ 0, noGuard := true, hold := fun t => t.drained [.muller, .glaze, .exch] }
    fun c y => y.map fun t => { t.advance with run := .atBarrier, arrived := c, xlen := w.f 0 16 }

/-- R39: tick-wait. -/
def TW.tickwait (x : TW) (w : IW) : TW :=
  x.issue w { illegal := w.f 0 49 ≠ 0, noGuard := true,
              hold := fun t => t.drained [.muller, .glaze, .stream, .exch, .fabric, .sync] }
    fun c y => y.map fun t => { t.advance with run := .atTickwait, arrived := c }

/-- R76: END. -/
def TW.endTile (x : TW) (w : IW) : TW :=
  x.issue w { illegal := w.f 0 49 ≠ 0, noGuard := true,
              hold := fun t => t.drained [.muller, .glaze, .stream, .exch, .fabric, .sync] }
    fun c y => y.map fun t => { t with run := .ended, arrived := c }

/-- SCALAR_RESULT_AVAILABLE (R71, R96): the tile reaches the cycle of its next pending result. -/
def Tile.nextResult (t : Tile) : Tile :=
  match t.pend.map (·.due) with
  | [] => t
  | d :: ds => let c := ds.foldl min d; { t.settle c with cyc := max t.cyc c }

end Sys2Proof.Machine
end

