-- ==== Sys2Proof/Machine/Muller.lean ====
section
/-! DEFINITION. The Muller matrix engine (R162-R187): descriptors, operand panels, the accumulation step, the checksum
lane, MCLR, MSTORE and the order of its operations. -/

namespace Sys2Proof

/-- Whether every listed field (low bit, width) of a descriptor is zero. -/
def Row.zeros (d : Row) (l : List (Nat × Nat)) : Bool := l.all fun p => d.field p.1 p.2 == 0

/-- A rounding word at a bit position of a descriptor (R157). -/
def Row.rword (d : Row) (lo : Nat) : Option Machine.RWord := Machine.RWord.parse (d.extractLsb' lo 128)

end Sys2Proof

namespace Sys2Proof.Machine

/-- R172: one operand's bases, scale plane and extent over `n` panels of `kch` chunks. -/
def Panel.ok (p : Panel) (n kch : Nat) : Bool :=
  decide (p.base % 64 = 0) && decide (p.sbase % 32 = 0) && (isMx p.fmt || p.sbase == 0) &&
  decide (p.base + 64 * (n - 1) * p.stride + kch * chunkBytes p.fmt ≤ 0x200000) &&
  (!isMx p.fmt || decide (p.sbase + 32 * kch * n ≤ 0x200000))

/-- R162, R170, R172: whether an MMAC descriptor is valid. -/
def mmacOk (d : Row) : Bool :=
  (match chunkTime (mmacA d).fmt, chunkTime (mmacB d).fmt with
    | some s, some t => s == t
    | _, _ => false) &&
  (mmacA d).ok (mmacM d) (mmacK d) && (mmacB d).ok (mmacN d) (mmacK d) &&
  decide (mmacFirst d + mmacM d * mmacN d ≤ 8) &&
  d.zeros [(21, 3), (53, 11), (85, 11), (117, 11), (154, 6), (175, 1), (191, 321)]

/-! Operand reads (R163, R164, R167). -/

/-- Whether bits `lo` to `lo + w - 1` of a run of rows touch a poisoned segment. -/
def bitsPoisoned (ps : List Bool) (lo w : Nat) : Bool :=
  ((ps.drop (lo / 128)).take ((lo + w - 1) / 128 + 1 - lo / 128)).any id

/-- The 32 values of group `r` of a chunk (R136, R167). -/
def groupValues (fmt v : Nat) (ps : List Bool) (scale : Nat) (r : Nat) : List FVal :=
  let w := elemBits fmt
  let g := v >>> (32 * w * r)
  (List.range 32).map fun k =>
    if bitsPoisoned ps (32 * w * r + w * k) w then .nan
    else
      let c := (g >>> (w * k)) % 2 ^ w
      if isMx fmt then mxDecode fmt scale c
      else match fmtOf fmt with
        | some f => f.decode c
        | none => .nan

/-- One chunk of panel `i` of an operand, from the rows fetched: its 32 groups of values, its poisoned segments, and
whether a read failed R116. -/
def chunkValues (l : List PortRead) (p : Panel) (kch i kc : Nat) : List (List FVal) × Nat × Bool :=
  let sb := if isMx p.fmt then bytesIn l (p.sbase + 32 * kch * i + 32 * kc) 32 else ⟨0, 0, 0, [], false⟩
  let eb := bytesIn l (p.base + 64 * i * p.stride + kc * chunkBytes p.fmt) (chunkBytes p.fmt)
  let vals := (List.range 32).map fun r =>
    let sc := if (sb.pois.drop (r / 16)).headD false then 0xFF else (sb.v >>> (8 * r)) % 256
    groupValues p.fmt eb.v eb.pois sc r
  (vals, sb.poisonCount + eb.poisonCount, sb.viol || eb.viol)

/-! Start (R172-R174, R178, R180). -/

/-- R174: whether an MSTORE descriptor is valid. -/
def mstoreOk (d : Row) : Bool :=
  let fmt := d.field 24 4
  let n := mstoreBlocks d
  (fmt ≤ 0xA) && decide (d.field 32 3 + n ≤ 8) &&
  decide (d.field 0 21 + (n - 1) * d.field 96 21 + 31 * d.field 64 21 + mstoreRowBytes d ≤ 0x200000) &&
  (if isMx fmt then decide (d.field 128 21 + 32 * n ≤ 0x200000) else d.field 128 21 == 0) &&
  (d.rword 384).isSome &&
  d.zeros [(0, 3), (21, 3), (29, 3), (38, 26), (64, 3), (85, 11), (96, 3), (117, 11), (128, 5), (149, 235)]

/-- Rows of a byte range claimed or marked. -/
def TW.claimBytes (x : TW) (who : Who) (a n : Nat) : TW := x.penClaim who (a / 64) ((a % 64 + n + 63) / 64)
def TW.pendBytes (x : TW) (who : Who) (a n : Nat) : TW := x.penPending who (a / 64) ((a % 64 + n + 63) / 64)

/-- R454: an MMAC's marks. -/
def TW.markMmac (x : TW) (who : Who) (d : Row) : TW :=
  if !x.t.pen then x else
  let one (p : Panel) (n : Nat) (y : TW) : TW := (List.range n).foldl (fun y i =>
    let y := y.claimBytes who (p.base + 64 * i * p.stride) (mmacK d * chunkBytes p.fmt)
    if isMx p.fmt then y.claimBytes who (p.sbase + 32 * mmacK d * i) (32 * mmacK d) else y) y
  (one (mmacB d) (mmacN d) (one (mmacA d) (mmacM d) x)).penPending who (32768 + mmacFirst d) (mmacM d * mmacN d)

def mmacMarks (d : Row) : Nat :=
  let one (p : Panel) (n : Nat) : Nat := n * (mmacK d * chunkBytes p.fmt / 64 + if isMx p.fmt then (32 * mmacK d + 63) / 64 else 0)
  one (mmacA d) (mmacM d) + one (mmacB d) (mmacN d) + mmacM d * mmacN d

/-- R454: an MSTORE's marks. -/
def TW.markMstore (x : TW) (who : Who) (d : Row) : TW :=
  if !x.t.pen then x else
  ((mstorePieces d).foldl (fun y p => y.pendBytes who p.addr p.len) x).penClaim who (32768 + d.field 32 3) (mstoreBlocks d)

/-- R89, R178: the first cycle in which the head of the Muller queue may start, or none while it must wait. An MMAC
follows an MMAC from the first compute cycle of its last chunk, and an MSTORE from its start. -/
def Tile.mulStartFrom (t : Tile) (o : QOp) : Option Nat :=
  if t.tokenPending o.tw then none else
  let s := max (max (o.org.at_ + 1) (if o.tw = 0 then 0 else t.tokenFrom o.tw)) t.mulBar
  match t.mul.getLast?, o.kind with
  | none, .mmac => some s
  | none, _ => some (max s (t.mulToken + 1))
  | some r, .mmac =>
    if r.op.kind = .mmac then (if r.fOn then none else some (max s r.firstC)) else some (max s r.start)
  | some _, _ => none

/-- A rejected or finished operation at its queue's head leaves it. -/
def Tile.mulPop (t : Tile) : Tile := { t with muller := t.muller.tail }

/-- A run that has just started. -/
def MulRun.start_ (o : QOp) (s from_ after token pieces : Nat) : MulRun :=
  { op := o, start := s, blk := 0, chunk := 0, firstC := 0, commitC := 0, waitDone := false, nanSeen := false, errs := [],
    viol := false, nextP := 0, nextQ := 1, pieces := pieces, pois := [], fOn := decide (o.kind = .mmac), fBlk := 0,
    fChunk := 0, fFrom := from_, fAfter := after, after := token, fA := [], fB := [], fLast := 0, ready := [] }

/-- The start of an MMAC in cycle `s`: its first chunk is fetched, and computes after the last chunk of a running MMAC,
four cycles later when the rate class changes (R179). -/
def TW.mmacStart (x : TW) (o : QOp) (s : Nat) : TW :=
  let d := o.desc
  let y := x.markMmac (o.who x.env.tile) d
  let after := match x.t.mul.getLast? with
    | some r =>
      if r.op.kind = .mmac then
        r.firstC + mmacT r.op.desc - 1 + (if mmacT r.op.desc = mmacT d then 1 else 5) else 0
    | none => 0
  y.map fun t => { t.mulPop with
    mul := t.mul ++ [MulRun.start_ o s (s + x.t.markDelay (mmacMarks d)) after (if t.mul.isEmpty then t.mulToken else 0) 0],
    mulC := s, cyc := max t.cyc s }

/-- R173, R184: MCLR in its start cycle. -/
def Tile.clearBlock (t : Tile) (b : Nat) : Tile :=
  ({ t with acc := t.acc.filter (fun p => p.1 / 1024 ≠ b) } : Tile).put TF.MUL_BLKMARK.mark
    (t.get TF.MUL_BLKMARK.mark - (if (t.get TF.MUL_BLKMARK.mark).testBit b then 2 ^ b else 0))

def TW.mclrStart (x : TW) (o : QOp) (s : Nat) : TW :=
  let bs := (List.range 8).filter o.parm.testBit
  let y := bs.foldl (fun y b => (y.penAcc s b (o.who y.env.tile)).map fun t => (t.clearBlock b).grant s (1000 + b) 2) x
  (y.map fun t => { t.mulPop with mulToken := s + 1, mulLast := (s + 1, 1, o.parm % 256), cyc := max t.cyc s }).finish o 0 (s + 1)

/-- A rejected operation: its token clears in the next cycle, and no other starts before the one after (R178). -/
def TW.mulReject (x : TW) (o : QOp) (s : Nat) : TW :=
  (x.map fun t => { t.mulPop with mulBar := s + 2, cyc := max t.cyc s }).finish o 3 (s + 1)

/-- MULLER_OPERATION_START (R178): the head of the queue starts, in cycle `c` at the earliest; an invalid descriptor is
rejected and its token clears in the next cycle. -/
def TW.mullerStart (x : TW) (c : Nat) : TW :=
  let x := x.ports (max c x.t.cyc)
  let x := x.forToken ((x.t.muller.head?.map (·.tw)).getD 0)
  match x.t.muller with
  | [] => x
  | o :: _ => match x.t.mulStartFrom o with
    | none => x
    | some s0 =>
      let s := max (max s0 c) x.t.cyc
      let y := x.commitStores s
      match o.kind with
      | .mclr => y.mclrStart o s
      | .mstore =>
        if mstoreOk o.desc then
          (y.markMstore (o.who y.env.tile) o.desc).map fun t => { t.mulPop with
            mul := t.mul ++ [MulRun.start_ o s 0 0 0 (mstorePieces o.desc).length], cyc := max t.cyc s }
        else y.mulReject o s
      | _ =>
        if mmacOk o.desc then y.mmacStart o s
        else y.mulReject o s

/-! The accumulation step (R165, R166). -/

/-- The result of one step for one element: its code, and whether it counts in MUL_CNT_INVALID or NUM_CNT_OVF. -/
structure StepOut where
  code : Nat
  invalid : Bool
  ovf : Bool
  deriving DecidableEq, Repr

/-- The exact sum of a list of products with `c`. -/
def dotSum (c : FVal) : List FVal → List FVal → FVal
  | a :: as, b :: bs => dotSum (c.add (a.mul b)) as bs
  | _, _ => c

/-- R165, R166: C + sum of a(k) b(k), formed exactly and rounded once; `wrong` is what a faulty product adds. -/
def accStep (c : Nat) (as bs : List FVal) (wrong : FVal) : StepOut :=
  let cv := Fmt.fp32.decode c
  if cv.isNan || as.any FVal.isNan || bs.any FVal.isNan then ⟨0x7FC00000, false, false⟩
  else
    let s := (dotSum cv as bs).add wrong
    if s.isNan then ⟨0x7FC00000, true, false⟩
    else let r := Fmt.fp32.rne s; ⟨r.code, false, r.ovf⟩

/-- What the step's faults add to the products of one element. -/
def wrongAt (es : List MulFault) (i j : Nat) : FVal :=
  es.foldl (fun v e => match e with
    | .product r c d ex => if r.val = i && c.val = j then v.add (ofInt d ex false) else v
    | _ => v) (.fin true 0 0)

/-- One step into a whole block: the accumulators, and how many elements count. -/
def blockStep (acc : SMap (BitVec 32)) (blk : Nat) (zero : Bool) (as bs : List (List FVal)) (es : List MulFault) :
    SMap (BitVec 32) × Nat × Nat :=
  as.zipIdx.foldl (fun st ai => bs.zipIdx.foldl (fun st bj =>
    let i := 1024 * blk + 32 * ai.2 + bj.2
    let c := if zero then 0 else (SMap.getD st.1 i 0#32).toNat
    let o := accStep c ai.1 bj.1 (wrongAt es ai.2 bj.2)
    (SMap.put st.1 i (BitVec.ofNat 32 o.code) 0#32, st.2.1 + o.invalid.toNat, st.2.2 + o.ovf.toNat)) st) (acc, 0, 0)

/-- The ports go on until the running MMAC's next chunk is fetched. -/
def TW.mulAhead (x : TW) : Nat → TW
  | 0 => x
  | n + 1 => match x.t.mul with
    | r :: _ => if r.ready.isEmpty && r.fOn then (x.ports (x.t.mulC + 1)).mulAhead n else x
    | [] => x

/-- STEP_COMMIT (R165, R179): the next step of the running MMAC commits; `es` are the faults the hardware suffers in
it. -/
def TW.stepCommit (x : TW) (es : List MulFault) : TW :=
  let x := x.mulAhead 4096
  match x.t.mul with
  | [] => x
  | r :: _ =>
    if r.op.kind ≠ .mmac || r.waitDone then x else
    match r.ready with
    | [] => x
    | ch :: _ =>
    let d := r.op.desc
    let blk := mmacFirst d + r.blk
    let cc := max (ch.firstC + mmacT d - 1 + x.t.mulD) (r.after + 1)
    let y := x.commitStores cc
    let (as, pa, va) := chunkValues ch.a (mmacA d) (mmacK d) (r.blk / mmacN d) r.chunk
    let (bs, pb, vb) := chunkValues ch.b (mmacB d) (mmacK d) (r.blk % mmacN d) r.chunk
    let zero := mmacZero d && r.chunk = 0
    let (acc, inv, ovf) := blockStep y.t.acc blk zero as bs es
    let y := y.map fun t => { t.grant cc (1000 + blk) 1 with acc := acc, cyc := max t.cyc cc }
    let mk := y.get TF.MUL_BLKMARK.mark
    let y := if zero && mk.testBit blk then y.put TF.MUL_BLKMARK.mark (mk - 2 ^ blk) else y
    let y := (y.count TF.MUL_CNT_POISON.count (some 8) (pa + pb)).count TF.MUL_CNT_INVALID.count (some 9) inv
    let y := y.count TF.NUM_CNT_OVF.count (some 14) ovf
    let y := (y.perf 0x0D (mmacT d)).perf 0x0E 32768
    let nonfin := (as ++ bs).any (fun l => l.any (fun v => !v.isFin))
    let r0 := (y.t.mul.head?).getD r
    let r1 := { r0 with commitC := cc, nanSeen := r.nanSeen || nonfin, errs := r.errs ++ es, viol := r.viol || va || vb,
                        ready := r0.ready.drop 1 }
    let r2 := if r.chunk + 1 = mmacK d then { r1 with waitDone := true } else { r1 with chunk := r.chunk + 1 }
    y.map fun t => { t with mul := r2 :: t.mul.tail }

/-! The checksum lane (R181-R183). -/

/-- The exact error of the array's sums over the elements that `p` selects. -/
def errSum (es : List MulFault) (p : Nat → Nat → Bool) : FVal :=
  es.foldl (fun v e => match e with
    | .product i j d ex => if p i.val j.val then v.add (ofInt d ex false) else v
    | _ => v) (.fin false 0 0)

/-- Whether row `i` (or column `j`) of the block differs from the lane. -/
def rowBad (es : List MulFault) (i : Nat) : Bool :=
  !(errSum es (fun r _ => r == i)).isZero || es.any (fun e => match e with
    | .laneRow r => r.val == i
    | _ => false)

def colBad (es : List MulFault) (j : Nat) : Bool :=
  !(errSum es (fun _ c => c == j)).isZero || es.any (fun e => match e with
    | .laneCol c => c.val == j
    | _ => false)

def firstResidue (es : List MulFault) : Option (Nat × Nat) :=
  match es with
  | [] => none
  | .residue i j :: _ => some (i.val, j.val)
  | _ :: es => firstResidue es

/-- R182: what a block's comparison records, or none when it passes: row, column and whether by residue. -/
def ckResult (es : List MulFault) : Option (Option Nat × Option Nat × Bool) :=
  match firstResidue es with
  | some (i, j) => some (some i, some j, true)
  | none =>
    let r := (List.range 32).find? (rowBad es)
    let c := (List.range 32).find? (colBad es)
    if r.isNone && c.isNone then none else some (r, c, false)

/-- R182: a mismatch in a block, its mark set in cycle `c`. -/
def TW.mismatch (x : TW) (c blk : Nat) (m : Option Nat × Option Nat × Bool) : TW :=
  let y := (x.count TF.MUL_CNT_CKSUM.count (some 6) 1).map fun t =>
    { t with marked := (blk, c) :: t.marked.filter fun p => p.2 == c }
  let mk := y.get TF.MUL_BLKMARK.mark
  let y := y.put TF.MUL_BLKMARK.mark (if mk.testBit blk then mk else mk + 2 ^ blk)
  let y := ((y.put TF.MUL_CKLOG.blk blk).put TF.MUL_CKLOG.row (m.1.getD 0)).put TF.MUL_CKLOG.row_v m.1.isSome.toNat
  let y := (y.put TF.MUL_CKLOG.col (m.2.1.getD 0)).put TF.MUL_CKLOG.col_v m.2.1.isSome.toNat
  ((y.put TF.MUL_CKLOG.residue m.2.2.toNat).put TF.MUL_CKLOG.valid 1).emit (.suspect 1)

/-- BLOCK_COMPLETE (R179, R181): the block's comparison runs; at the last block the token clears. -/
def TW.blockComplete (x : TW) : TW :=
  match x.t.mul with
  | [] => x
  | r :: _ =>
    if r.op.kind ≠ .mmac || !r.waitDone then x else
    let d := r.op.desc
    let blk := mmacFirst d + r.blk
    let c := r.commitC + x.t.mulK
    let y := (x.commitStores c).map fun t => { t with cyc := max t.cyc c }
    let y := if r.nanSeen then y.count TF.MUL_CNT_CKSKIP.count (some 7) 1
      else match ckResult r.errs with
        | some m => y.mismatch c blk m
        | none => y
    if r.blk + 1 = mmacM d * mmacN d then
      (y.map fun t => { t with mul := t.mul.tail, mulToken := c, mulLast := (c, 0, 2 ^ blk) }).finish r.op
        (if r.viol then 3 else 0) c
    else y.map fun t => { t with mul := t.mul.modifyHead fun r =>
        { r with blk := r.blk + 1, chunk := 0, waitDone := false, nanSeen := false, errs := [] } }

/-! MSTORE (R175, R176, R180). -/

/-- The source values of output row `r` of a block: the accumulator codes. -/
def Tile.outRow (t : Tile) (blk r : Nat) (trans : Bool) : List Nat :=
  (List.range 32).map fun e => (t.accAt (1024 * blk + if trans then 32 * e + r else 32 * r + e)).toNat

/-- An output row as written: its bytes, its scale byte, and its counts in NUM_CNT_NAN and NUM_CNT_OVF. -/
structure OutRow where
  bytes : Nat
  scale : Nat
  nan : Nat
  ovf : Nat
  deriving DecidableEq, Repr

/-- Codes of `w` bits packed low first. -/
def packCodes (w : Nat) : List Nat → Nat
  | [] => 0
  | c :: cs => c + 2 ^ w * packCodes w cs

/-- R175: output row `r` of block `p` converted. -/
def convertRow (fmt : Nat) (rw : RWord) (seed stip n0 : Nat) (codes : List Nat) : OutRow :=
  if fmt = 0 then ⟨packCodes 32 codes, 0, 0, 0⟩ else
  let vals := codes.map Fmt.fp32.decode
  let draws := if rw.mode = .sr then (List.range 32).map (fun e => drawOf seed stip rw (n0 + e)) else []
  if isMx fmt then
    let b := mxEncode fmt rw.mode vals draws
    ⟨packCodes (elemBits fmt) b.codes, b.scale, b.nan.toNat, b.ovf⟩
  else match fmtOf fmt with
    | some f =>
      let cs := vals.zipIdx.map fun p => f.narrow rw.mode rw.sat (draws.getD p.2 0) p.1
      ⟨packCodes f.width (cs.map (·.code)), 0, (cs.filter (·.nan)).length, (cs.filter (·.ovf)).length⟩
    | none => ⟨0, 0, 0, 0⟩

def TW.storeRow (x : TW) (o : QOp) (rw : RWord) (p r : Nat) : OutRow :=
  convertRow (o.desc.field 24 4) rw (x.get TF.STIP_SEED.seed) o.stip.toNat (1024 * p + 32 * r)
    (x.t.outRow (o.desc.field 32 3 + p) r (o.desc.field 28 1 == 1))

/-- The bytes of a piece. -/
def TW.pieceBytes (x : TW) (o : QOp) (rw : RWord) (p : Piece) : Nat :=
  if p.row = 32 then packCodes 8 ((List.range 32).map fun r => (x.storeRow o rw p.blk r).scale)
  else (x.storeRow o rw p.blk p.row).bytes >>> (8 * p.off)

/-- R176: the pieces of the operation after `p`, the `i`-th, that the other port has written before it: they are written
again, the later of two that address the same bytes winning. -/
def TW.rewrite (x : TW) (g : Nat) (r : MulRun) (rw : RWord) (i : Nat) (p : Piece) : TW :=
  let later := (mstorePieces r.op.desc).zipIdx.filter fun q =>
    decide (i < q.2) && decide (q.2 < if q.2 % 2 = 0 then r.nextP else r.nextQ) &&
    decide (q.1.addr < p.addr + p.len) && decide (p.addr < q.1.addr + q.1.len)
  later.foldl (fun y q =>
    if y.t.permits g .engW (q.1.addr / 64) && decide (q.1.addr < 0x200000) then
      y.writeRaw q.1.addr q.1.len (y.pieceBytes r.op rw q.1)
        (List.replicate (segsOf q.1.addr q.1.len) ((r.pois.find? fun s => s.1 == q.1.blk).any (·.2))) (segsOf q.1.addr q.1.len)
    else y) x

/-- One piece granted in cycle `g` and written; the block's mark is sampled with the first of its pieces that is granted
(R185). -/
def TW.writePiece (x : TW) (r : MulRun) (rw : RWord) (p : Piece) (g : Nat) : MulRun × TW :=
  let first := !(r.pois.any fun q => q.1 == p.blk)
  let mark := match r.pois.find? (fun q => q.1 == p.blk) with
    | some q => q.2
    | none => x.t.accPoison (r.op.desc.field 32 3 + p.blk)
  let x := if first then x.penAcc g (r.op.desc.field 32 3 + p.blk) (r.op.who x.env.tile) else x
  let out := x.storeRow r.op rw p.blk p.row
  let y := if p.off = 0 && p.row < 32 then
      (x.count TF.NUM_CNT_NAN.count (some 13) out.nan).count TF.NUM_CNT_OVF.count (some 14) out.ovf else x
  let (ok, z) := y.writePart g (r.op.who x.env.tile) p.addr p.len (x.pieceBytes r.op rw p)
    (List.replicate (segsOf p.addr p.len) mark)
  ({ r with pois := if first then r.pois ++ [(p.blk, mark)] else r.pois, viol := r.viol || !ok }, z)

/-- One port's piece in cycle `g`: it is granted and written, or loses its bank. -/
def TW.portPiece (x : TW) (r : MulRun) (rw : RWord) (g i : Nat) (p : Option Piece) : Bool × MulRun × TW :=
  match p with
  | none => (false, r, x)
  | some p =>
    if x.t.claimed g (bankOf p.addr) 3 then (false, r, x.conflict)
    else
      let b := r.op.desc.field 32 3 + p.blk
      let y := x.map fun t => (t.grant g (bankOf p.addr) 3).grant g (1000 + b) 2
      let (r', z) := y.writePiece r rw p g
      (true, if i % 2 = 0 then { r' with nextP := i + 2 } else { r' with nextQ := i + 2 }, z.rewrite g r' rw i p)

/-- MSTORE_PIECE (R176, R180): the next pair of pieces is granted and written; after the last the token clears. -/
def TW.mstorePiece (x : TW) : TW :=
  match x.t.mul with
  | [] => x
  | r :: _ =>
    if r.op.kind ≠ .mstore then x else
    match r.op.desc.rword 384 with
    | none => x
    | some rw =>
      let ps := mstorePieces r.op.desc
      let g := if r.commitC = 0 then x.t.storeFirst r.op.desc r.start else r.commitC + 1
      let y := (x.commitStores g).map fun t => { t with cyc := max t.cyc g }
      let (_, r1, y) := y.portPiece r rw g r.nextP ps[r.nextP]?
      let (_, r2, y) := y.portPiece r1 rw g r.nextQ ps[r.nextQ]?
      let y := if y.t.mulC ≤ g then
          (y.mulPort g (ps[r.nextP]?).isSome (ps[r.nextQ]?).isSome).map fun t => { t with mulC := g + 1 } else y
      let r3 := { r2 with commitC := g }
      if ps.length ≤ r3.nextP && ps.length ≤ r3.nextQ then
        (y.map fun t => { t with
          mul := t.mul.tail.modifyHead fun q => { q with after := g + 1 }, mulToken := g + 1,
          mulLast := (g + 1, 2, 2 ^ (r.op.desc.field 32 3 + mstoreBlocks r.op.desc - 1)) }).finish r.op
          (if r3.viol then 3 else 0) (g + 1)
      else y.map fun t => { t with mul := r3 :: t.mul.tail }

end Sys2Proof.Machine
end

