-- ==== Sys2Proof/Machine/Exchange.lean ====
section
/-! DEFINITION. On-die exchange within a tile (R217-R235): send windows, destination checks, sends, and what a delivery
does at its receiver. -/

namespace Sys2Proof.Machine

/-- R220: whether a send in cycle `c` is inside its send window. -/
def Tile.inWindow (t : Tile) (c : Nat) : Bool :=
  let p := c - t.released
  let hi : Nat := if t.winEn then min t.winHi (t.phaseLen - 25) else t.phaseLen - 25
  let lo : Nat := if t.winEn then t.winLo else 0
  t.phase c && decide (25 ≤ t.phaseLen) && decide (lo ≤ p) && decide (p ≤ hi)

/-- R225: the physical tile that a send reaches, or none when a check of the destination fails. -/
def TW.sendDest (x : TW) (dest : Nat) : Option Nat := x.env.served dest

/-- The source and destination addresses of a send. -/
def sendAddr (t : Tile) (k : Nat) : Nat := (BitVec.ofNat 21 (t.sreg k).toNat &&& 0x1FFFC0#21).toNat

/-- A send that is discarded at issue still takes its token to c + 24 (R221, R225). -/
def TW.sendTo (x : TW) (c : Nat) (dest td src dst : Nat) : TW :=
  let o := x.t.origin c x.env.tick
  let push (y : TW) (s : Send) : TW := (y.perf 0x12 1).map fun t => { t.takeToken td with exch := t.exch ++ [s] }
  let drop (y : TW) : TW := push y ⟨none, dst, 0, 0, c + 24, td, 3, o⟩
  if !x.t.inWindow c then drop (x.count TF.XCH_CNT_WIN.count (some 17) 1)
  else match x.sendDest dest with
    | none => drop (x.count TF.XCH_CNT_DEST.count (some 19) 1)
    | some p =>
      let (b, y) := x.readPart c .engR (seqWho x) src 64
      let y := if y.t.slipped then y.count TF.XCH_CNT_SLIP.count (some 18) 1 else y
      let pois := b.pois.zipIdx.foldl (fun a q => if q.1 then a + 2 ^ q.2 else a) 0
      let y := if y.t.pen then y.emit (.claim p (dst / 64) (c + 8) ⟨6, 0, td, x.t.pc, x.env.tile⟩) else y
      let y := y.emit (.arrive p (dst / 64) (c + 24))
      push y ⟨some p, dst, BitVec.ofNat 512 b.v, pois, c + 24, td, if b.viol then 3 else 0, o⟩

/-- R94: the increment of a send's address registers. -/
def Tile.sendInc (t : Tile) (src dst : Nat) : Tile :=
  let t1 := t.setReg src (t.sreg src + 64) (t.tag src)
  if src = dst then t1 else t1.setReg dst (t1.sreg dst + 64) (t1.tag dst)

/-- R94, R217, R222: a send; it issues only in a cycle in which its source read is granted. -/
def TW.send (x : TW) (w : IW) (illegal : Bool) (extra : List Nat) (dest : Tile → Nat) : TW :=
  let src := w.f 39 5
  let dst := w.f 34 5
  let inc := w.f 15 1 = 1
  x.issue w
    { illegal := illegal || w.f 0 15 ≠ 0, reads := [src, dst] ++ extra, writes := if inc then [src, dst] else [],
      td := w.f 44 5, queue := some .exch, check := noPoison extra,
      port := fun c y => if y.t.inWindow c && (y.sendDest (dest y.t)).isSome then some (bankOf (sendAddr y.t src), 2)
        else none }
    fun c y =>
      let z := y.sendTo c (dest y.t) (w.f 44 5) (sendAddr y.t src) (sendAddr y.t dst)
      z.map fun t => (if inc then t.sendInc src dst else t).advance

def TW.xsend (x : TW) (w : IW) : TW := x.send w (w.f 16 5 ≠ 0) [] (fun _ => w.f 21 13)
def TW.xsendr (x : TW) (w : IW) : TW :=
  x.send w (w.f 21 13 ≠ 0) [w.f 16 5] (fun t => (t.sreg (w.f 16 5)).field 0 13)

/-- The sends of a tile that have not been delivered, oldest first. -/
def Tile.flying (t : Tile) : List Send := t.adrift ++ t.exch

/-! The receiver (R226-R228). -/

/-- The delivery a receiver keeps of those that reach it in cycle `c`: the outcome, as the sender's status. `same` says
whether the sender belongs to the receiver's context. One that commits in a compute-phase cycle is late (R228). -/
def TW.deliver (x : TW) (c : Nat) (same : Bool) (from_ : Nat) (s : Send) : Nat × TW :=
  let x := (x.commitStores c).commitBefore c (bankOf s.daddr)
  let x := x.map fun t => { t.grant c (bankOf s.daddr) 1 with cyc := max t.cyc c }
  if same && x.t.permits c .xrecv (s.daddr / 64) then
    let x := if x.t.phase c then x else x.count TF.XCH_CNT_LATE.count (some 16) 1
    let marks := (List.range 4).map fun k => s.poison.testBit k
    let y := x.penWrite c ⟨6, 0, s.td, s.org.pc, from_⟩ s.daddr (some 1)
    (s.status, (y.writeRaw s.daddr 64 s.data.toNat marks 4).perf 0x13 1)
  else (3, x.violation)

/-- R227: the drops of a collision are counted and logged at the receiver. -/
def TW.collide (x : TW) (c kept dropped n : Nat) : TW :=
  let y := x.count TF.XCH_CNT_COLL.count (some 15) n
  (((y.put TF.XCH_COLLOG.kept kept).put TF.XCH_COLLOG.dropped dropped).put TF.XCH_COLLOG.pcyc (y.t.pcyc c)).put
    TF.XCH_COLLOG.valid 1

/-- R36, R37, R220, R223: what a release from a die barrier in cycle `c` does to a member. -/
def Tile.release (t : Tile) (c : Nat) (ended : Bool) : Tile :=
  { t with run := if ended then .ended else .running, released := c, inPhase := !ended,
           phaseLen := if ended then 0 else t.xlen, slipped := false, cyc := max t.cyc c,
           issued := if ended then t.issued else c - 1,
           winLo := t.get TF.XCH_WIN.lo, winHi := t.get TF.XCH_WIN.hi, winEn := t.get TF.XCH_WIN.en = 1 }

end Sys2Proof.Machine
end

