-- ==== Sys2Proof/Machine/Elementary.lean ====
section
/-! DEFINITION. The functions of Glaze that R161 bounds in ULP and does not fix to the bit: reciprocal square root,
exponentials, logarithms, hyperbolic tangent, logistic and error function. Each is the exactly rounded result, found
in 160-bit fixed point, moved by an amount that `Config.freeGlaze` chooses within the bound of R161. -/

namespace Sys2Proof.Machine

/-- Fixed-point numbers carry 160 fraction bits. -/
def fixOne : Int := 2 ^ 160
/-- ln 2 in fixed point. -/
def fixLn2 : Int := 1013035739299659071135698605846798551586536899366
/-- 2 / sqrt(pi) in fixed point. -/
def fixErf : Int := 1649128000240172121335468122222580532118151184855

def fixMul (a b : Int) : Int := a * b / fixOne
def fixDiv (a b : Int) : Int := a * fixOne / b

/-- A finite value in fixed point, rounded down. -/
def toFix (neg : Bool) (m : Nat) (e : Int) : Int :=
  let v : Nat := if 0 ≤ e + 160 then m <<< (e + 160).toNat else m >>> (-(e + 160)).toNat
  if neg then -(v : Int) else (v : Int)

/-- A fixed-point number times a power of two, as a value. -/
def ofFix (v k : Int) : FVal := ofInt v (k - 160) false

/-- Horner's rule for a sum of terms `t^n * c n`, each coefficient the previous times `1/d n`. -/
def hornerGo (t : Int) : List Nat → Int
  | [] => fixOne
  | d :: ds => fixOne + fixMul t (hornerGo t ds) / d

/-- e^r for a fixed-point r of magnitude below 1. -/
def fixExpSmall (r : Int) : Int := hornerGo r ((List.range 45).map (· + 1))

/-- e^x for a fixed-point x: a fixed-point significand and an exponent. -/
def fixExp (x : Int) : Int × Int :=
  let k := x / fixLn2
  (fixExpSmall (x - k * fixLn2), k)

/-- The sum of z^(2i) / (2i + 1). -/
def atanhGo (t : Int) : List Nat → Int
  | [] => 0
  | i :: is => fixOne / (2 * i + 1) + fixMul t (atanhGo t is)

/-- ln of `m * 2^e`, in fixed point. -/
def fixLn (m : Nat) (e : Int) : Int :=
  let k := Nat.log2 m
  let y : Int := toFix false m (-k)
  let z := fixDiv (y - fixOne) (y + fixOne)
  (e + k) * fixLn2 + 2 * fixMul z (atanhGo (fixMul z z) (List.range 60))

/-- The sum of (-1)^n t^n / (n! (2n + 1)), from term `n` with value `p` = (-1)^n t^n / n!. -/
def erfGo (t : Int) : List Nat → Int → Int
  | [], _ => 0
  | n :: ns, p => p / (2 * n + 1) + erfGo t ns (-(fixMul p t) / (n + 1))

/-- tanh v / v for a small v, in fixed point, from t = v * v. -/
def tanhSmall (t : Int) : Int :=
  fixOne - fixMul t (fixOne / 3 - fixMul t (2 * fixOne / 15 - fixMul t (17 * fixOne / 315 - fixMul t
    (62 * fixOne / 2835 - fixMul t (1382 * fixOne / 155925)))))

/-- 1/sqrt v (0x13); an argument below -0 is invalid. -/
def elemRsqrt (v : FVal) : FVal :=
  match v with
  | .fin s 0 _ => .inf s
  | x => (FVal.fin false 1 0).div x.sqrt

/-- e^v (0x14), or 2^v (0x16) when `base2`. -/
def elemExp (base2 : Bool) (v : FVal) : FVal :=
  match v with
  | .nan => .nan
  | .inf s => if s then .fin false 0 0 else .inf false
  | .fin s m e =>
    if m = 0 then .fin false 1 0
    else if 9 ≤ floorLog m e then (if s then .fin false 1 (-400) else .fin false 1 400)
    else
      let x := toFix s m e
      let (y, k) := if base2 then (fixExpSmall (fixMul (x % fixOne) fixLn2), x / fixOne) else fixExp x
      ofFix y k

/-- ln v (0x15), or log2 v (0x17) when `base2`. -/
def elemLog (base2 : Bool) (v : FVal) : FVal :=
  match v with
  | .nan => .nan
  | .inf s => if s then .nan else .inf false
  | .fin s m e =>
    if m = 0 then .inf true
    else if s then .nan
    else let y := fixLn m e; ofFix (if base2 then fixDiv y fixLn2 else y) 0

/-- tanh v (0x18). -/
def elemTanh (v : FVal) : FVal :=
  match v with
  | .nan => .nan
  | .inf s => .fin s 1 0
  | .fin s m e =>
    if m = 0 then .fin s 0 0
    else if floorLog m e < -12 then
      let x := toFix false m e
      (FVal.fin s m e).mul (ofFix (tanhSmall (fixMul x x)) 0)
    else if 6 ≤ floorLog m e then .fin s 1 0
    else
      let (y, k) := fixExp (-2 * toFix false m e)
      let q := y / 2 ^ (-k).toNat
      let r := fixDiv (fixOne - q) (fixOne + q)
      ofFix (if s then -r else r) 0

/-- 1/(1 + e^-v) (0x19). -/
def elemSigm (v : FVal) : FVal :=
  match v with
  | .nan => .nan
  | .inf s => if s then .fin false 0 0 else .fin false 1 0
  | .fin s m e =>
    if 9 ≤ floorLog m e && m ≠ 0 then (if s then .fin false 1 (-400) else .fin false 1 0)
    else
      let (y, k) := fixExp (-(toFix false m e))
      let q := y / 2 ^ (-k).toNat
      if s then ofFix (fixDiv y (fixOne + q)) k else ofFix (fixDiv fixOne (fixOne + q)) 0

/-- erf v (0x1A). -/
def elemErf (v : FVal) : FVal :=
  match v with
  | .nan => .nan
  | .inf s => .fin s 1 0
  | .fin s m e =>
    if m = 0 then .fin s 0 0
    else if 2 ≤ floorLog m e then .fin s 1 0
    else
      let x := toFix false m e
      let f := erfGo (fixMul x x) (List.range 140) fixOne
      (FVal.fin s m e).mul (ofFix (fixMul f fixErf) 0)

/-- FP32 codes in the order of their values. -/
def ordOf (c : Nat) : Int := if c < 2 ^ 31 then (c : Int) else -((c - 2 ^ 31 : Nat) : Int)
def codeOfOrd (k : Int) (zneg : Bool) : Nat :=
  if k = 0 then (if zneg then 2 ^ 31 else 0) else if 0 < k then k.toNat else k.natAbs + 2 ^ 31

/-- R161: a result within `n` ULP of the exact `v`, chosen by `free`; ULP is the spacing of FP32 at the exactly rounded
result. Special results are exact, and so is a zero with its sign (R135). -/
def withinUlp (n : Nat) (v : FVal) (free : BitVec 32) : Nat :=
  let c := (Fmt.fp32.rne v).code
  if v.isZero then c else
  match Fmt.fp32.decode c with
  | .fin s m e =>
    let f := floorLog m e
    let q : Int := if m = 0 || f < -126 then -149 else f - 23
    let r := FVal.fin s m e
    let lo := ordOf (Fmt.fp32.narrow .rup false 0 (r.add (ofInt (-(n : Int)) q false))).code
    let hi := ordOf (Fmt.fp32.narrow .rdn false 0 (r.add (ofInt (n : Int) q false))).code
    codeOfOrd (lo + (free.toNat : Int) % (hi - lo + 1)) s
  | _ => c

end Sys2Proof.Machine
end

