-- ==== Sys2Proof/Machine/Glaze.lean ====
section
/-! DEFINITION. The Glaze vector engine (R188-R216): descriptor and chain row, lanes, glazes, outputs, the reduction
tree with its finisher, and the beats of a GRUN. -/

namespace Sys2Proof.Machine

/-! Validity (R192, R195, R206, R214). -/

/-- R192: the formats each stream accepts. -/
def gFmtX (g : GStream) : Bool := if g.flag then g.fmt == 0 else decide (g.fmt ≤ 0xD)
def gFmtY (g : GStream) : Bool := if g.flag then g.fmt == 0xB else decide (g.fmt ≤ 0xB)
def gFmtO (g : GStream) : Bool := decide (g.fmt ≤ 0xC)
def gFmtO2 (g : GStream) : Bool := decide (g.fmt ≤ 4)

def gCase1 (d : Row) : Bool :=
  ((gX d).en && !gFmtX (gX d)) || ((gY d).en && !gFmtY (gY d)) || ((gO d).en && !gFmtO (gO d)) ||
  ((gO2 d).en && !gFmtO2 (gO2 d)) || ((gO d).en && (gO d).fmt == 0xB && (gO2 d).en && (gO2 d).fmt != 0)

def gMisaligned (g : GStream) : Bool := g.en && (g.base % (if g.flag && g.fmt = 0 then 4 else 8) != 0 || g.aux % 8 != 0)

def gCase2 (d : Row) : Bool :=
  gMisaligned (gX d) || gMisaligned (gY d) || gMisaligned (gO d) || gMisaligned (gO2 d) || gMisaligned (gZ d)

/-- Whether a Palette stream ends past 0x1F_FFFF. -/
def GStream.past (g : GStream) (n m : Nat) : Bool :=
  g.en && (decide (0x200000 < g.at_ (m - 1) + g.bytes n) ||
    decide (0x200000 < g.aux + g.auxBytes n * (if g.stride = 0 then 1 else m)))

/-- R210: an accumulator stream stays in the window with each beat in one block. -/
def accBad (g : GStream) (n m : Nat) : Bool :=
  g.en && (decide (0x8000 < g.at_ (m - 1) + 4 * n) ||
    (List.range (if g.stride = 0 then 1 else m)).any fun s =>
      let a := g.at_ s
      a % 256 != 0 && a / 4096 != (a + 4 * n - 1) / 4096)

def gCase3 (d : Row) : Bool :=
  (if (gX d).flag then accBad (gX d) (gN d) (gM d) else (gX d).past (gN d) (gM d)) ||
  (gY d).past (gN d) (gM d) || (gZ d).past (gN d) (gM d) || (gO d).past (gN d) (gM d) || (gO2 d).past (gN d) (gM d) ||
  (gSEn d && decide (0x200000 < gSBase d + 16 * gM d)) || (gRed d != 0 && decide (0x200000 < gWBase d + 16 * gM d))

def gMultiple (g : GStream) (n : Nat) : Bool :=
  !g.en || ((!isMx g.fmt || n % 32 == 0) && (g.fmt != 0xB || n % 256 == 0))

def gCase4 (d : Row) : Bool :=
  decide (8 < gStages d) || decide (gStages d < gTap0 d) || decide (gStages d < gTap1 d) ||
  decide (gStages d < gO2Tap d) || !gMultiple (gX d) (gN d) || !gMultiple (gY d) (gN d) || !gMultiple (gO d) (gN d) ||
  (decide (1 < gM d) && (((gO d).en && (gO d).stride == 0) || ((gO2 d).en && (gO2 d).stride == 0)))

def gCase6 (d : Row) : Bool :=
  let red := gRed d
  red == 7 ||
  (match gFin d with
    | 0 => false
    | 2 => red != 3
    | _ => !(red == 1 || red == 2 || red == 3)) ||
  (gWatch d && !(red == 4 && gFin d == 0)) ||
  (gSkip d && (!(gY d).en || (gY d).fmt != 0xB || ((gO d).en && (isMx (gO d).fmt || (gO d).fmt == 0xB))))

def gZeroBad (g : GStream) : Bool := g.top != 0 || (g.en && !hasAux g.fmt && g.aux != 0)

def gCase8 (d : Row) : Bool :=
  gZeroBad (gX d) || gZeroBad (gY d) || gZeroBad (gO d) || gZeroBad (gO2 d) || (gO d).flag || (gO2 d).flag

/-- R152: a descriptor that reads FP64 names no mode but RNE. -/
def gModeBad (d : Row) (w : RWord) : Bool := (gX d).en && (gX d).fmt == 0xD && w.mode != .rne

/-- R214: the first case that makes the descriptor invalid, or 0; a mode that R152 forbids is case 7 (DEDUCED,
notes/assumptions/117: R214 has no case of its own for it). -/
def gDescCase (d : Row) : Nat :=
  if gCase1 d then 1 else if gCase2 d then 2 else if gCase3 d then 3 else if gCase4 d then 4
  else if gCase6 d then 6 else if (d.rword 384).all (gModeBad d) then 7 else if gCase8 d then 8 else 0

/-! Chain row (R191, R196, R197). -/

structure Stage where
  op : Nat
  b : Nat
  c : Nat
  imm : Nat
  deriving DecidableEq, Repr

def stageOf (chain : Row) (k : Nat) : Stage :=
  ⟨chain.field (32 * k) 6, chain.field (32 * k + 6) 5, chain.field (32 * k + 11) 5, chain.field (32 * k + 16) 16⟩

/-- A constant K of the chain row, as its FP32 code. -/
def constOf (chain : Row) (k : Nat) : Nat := chain.field (256 + 32 * k) 32

/-- Which operands an operation uses (R197). -/
def usesB (op : Nat) : Bool :=
  [0x00, 0x01, 0x02, 0x03, 0x04, 0x05, 0x06, 0x07, 0x08, 0x09, 0x0C, 0x0D, 0x10, 0x11].any (· == op)
def usesC (op : Nat) : Bool := [0x05, 0x06, 0x09, 0x0C, 0x0D, 0x0E].any (· == op)

/-- R196: whether a selector names an enabled operand. -/
def selOk (d : Row) (s : Nat) : Bool :=
  match s with
  | 0x08 => (gX d).en
  | 0x09 => (gY d).en
  | 0x0A => (gZ d).en
  | 0x0B => gSEn d
  | 0x0C => gSEn d
  | _ => decide (s ≤ 0x0F)

/-- R214 code 5 of stage `k`. -/
def stageBad (d chain : Row) (k : Nat) : Bool :=
  let st := stageOf chain k
  decide (0x1A < st.op) ||
  (if usesB st.op then !selOk d st.b else st.b != 0) || (if usesC st.op then !selOk d st.c else st.c != 0) ||
  (st.op == 0x0F && !(k + 1 == gStages d && (gX d).en && (gX d).fmt == 0xC)) || (st.op != 0x0E && st.imm != 0)

/-- The first stage word at fault. -/
def chainBad (d chain : Row) : Option Nat := (List.range (gStages d)).find? (stageBad d chain)

/-! Reads of a beat (R189, R193, R208). -/

/-- One lane's value of a stream: the FP32 code, the wide value of K48 input, the poison bit and whether its entry
overflowed FP32. -/
structure LaneIn where
  code : Nat
  wide : FVal
  pois : Bool
  ovf : Bool
  deriving DecidableEq, Repr

def nanCode : Nat := 0x7FC00000

/-- R149: the value of a K48 element. -/
def k48Value (w x : Nat) : FVal :=
  if (w >>> 23) % 256 = 255 then Fmt.fp32.decode w else Fmt.k48.decode (w * 2 ^ 16 + x)

/-- R193: a value enters its lane. -/
def laneOf (v : FVal) (pois : Bool) : LaneIn :=
  if pois then ⟨nanCode, .nan, true, false⟩ else let r := Fmt.fp32.rne v; ⟨r.code, v, false, r.ovf⟩

/-- The `n` values of one beat of a Palette stream: from the element bytes and the aux bytes of the beat. A beat lies
within one KB24 block. -/
def beatValues (g : GStream) (b aux : Bytes) (n : Nat) : List LaneIn :=
  let w := elemBits g.fmt
  (List.range n).map fun l =>
    if g.fmt = 0xB then
      let sz := if g.flag then 6 else 3
      let e := aux.num 0 1
      let p := b.poisoned (sz * l) sz || aux.poisoned 0 2
      if g.flag then laneOf (sumValue e (signedOf 48 (b.num (6 * l) 6))) p
      else laneOf (kbValue e (signedOf 24 (b.num (3 * l) 3))) p
    else if g.fmt = 0xC then
      laneOf (k48Value (b.num (4 * l) 4) (aux.num (2 * l) 2)) (b.poisoned (4 * l) 4 || aux.poisoned (2 * l) 2)
    else if isMx g.fmt then
      let o := l / 32
      let lo := w * l
      let p := b.poisoned (lo / 8) ((lo + w - 1) / 8 + 1 - lo / 8) || aux.poisoned o 1
      laneOf (mxDecode g.fmt (aux.num o 1) ((b.v >>> lo) % 2 ^ w)) p
    else
      let sz := w / 8
      let v := match fmtOf g.fmt with
        | some f => f.decode (b.num (sz * l) sz)
        | none => .nan
      laneOf v (b.poisoned (sz * l) sz)

/-- One beat of a stream as read: its lanes, its poisoned segments and accumulator accesses (R208), a violation, and its
header (KB24). -/
structure BeatIn where
  lanes : List LaneIn
  segs : List Nat
  blocks : Nat
  viol : Bool
  header : Nat
  deriving DecidableEq, Repr

def BeatIn.none : BeatIn := ⟨[], [], 0, false, 0⟩

/-- R208: the poisoned segments of what was read, by number. -/
def Bytes.badSegs (b : Bytes) : List Nat := b.pois.zipIdx.filterMap fun p => if p.1 then some (b.a / 16 + p.2) else none

/-- The same without the segment of byte `seen`, which is counted already. -/
def Bytes.newPoison (b : Bytes) (seen : Option Nat) : List Nat :=
  b.badSegs.filter fun k => match seen with
    | some a => a / 16 != k
    | none => true

/-- One beat of a Palette stream, from the rows read. A segment of a scale or header row counts as poisoned with the
first beat that uses it. -/
def beatOf (l : List PortRead) (g : GStream) (d : Row) (s e0 n : Nat) : BeatIn :=
  if !g.en then BeatIn.none else
  let ax := g.auxAt (gN d) s + g.auxOff e0
  let b := bytesIn l (g.at_ s + g.bytes e0) (g.bytes n)
  let aux := bytesIn l ax (g.auxNeed n)
  let seen := if g.fmt = 0xC || e0 = 0 then none else some (g.auxAt (gN d) s + g.auxOff (e0 - 1))
  ⟨beatValues g b aux n, b.badSegs ++ aux.newPoison seen, 0, b.viol || aux.viol, aux.num 0 2⟩

/-- R210: one beat of X from the accumulators, as read. -/
def accBeat (codes : List Nat) (p : Bool) : BeatIn :=
  ⟨codes.map fun c => laneOf (Fmt.fp32.decode c) p, [], p.toNat, false, 0⟩

/-! Glazes (R197-R199). -/

/-- The values a stage may name: the lane's X, Y, Z, S0, S1 and index, and the constants. -/
structure Operands where
  x : FVal
  y : FVal
  z : FVal
  s0 : FVal
  s1 : FVal
  idx : Nat
  chain : Row
  chainPois : List Bool

def fzero : FVal := .fin false 0 0
def fone : FVal := .fin false 1 0

/-- R196, R208: a constant, which enters as NaN from a poisoned segment of the chain row. -/
def constVal (chain : Row) (pois : List Bool) (k : Nat) : FVal :=
  if pois.getD (2 + k / 4) false then .nan else Fmt.fp32.decode (constOf chain k)

/-- R196. -/
def Operands.sel (o : Operands) (s : Nat) : FVal :=
  match s with
  | 0x08 => o.x | 0x09 => o.y | 0x0A => o.z | 0x0B => o.s0 | 0x0C => o.s1 | 0x0D => ofInt o.idx 0 false
  | 0x0E => fzero | 0x0F => fone
  | k => constVal o.chain o.chainPois k

/-- min and max with NaN propagated and -0 below +0 (R198). -/
def fmin (a b : FVal) : FVal :=
  if a.isNan || b.isNan then .nan else if a.lt b then a else if b.lt a then b else if a.isNeg then a else b
def fmax (a b : FVal) : FVal :=
  if a.isNan || b.isNan then .nan else if a.lt b then b else if b.lt a then a else if a.isNeg then b else a

/-- The exact result of a glaze, before its one rounding, and whether the operation is invalid. A product or sum of
operands that are not NaN is invalid when it is NaN. -/
def glazeExact (op : Nat) (o : Operands) (v b c : FVal) : FVal × Bool :=
  let chk (l : List FVal) (r : FVal) : FVal × Bool := (r, r.isNan && l.all (fun x => !x.isNan))
  match op with
  | 0x00 => (b, false)
  | 0x01 => chk [v, b] (v.add b)
  | 0x02 => chk [v, b] (v.add b.neg)
  | 0x03 => chk [v, b] (b.add v.neg)
  | 0x04 => chk [v, b] (v.mul b)
  | 0x05 => chk [v, b, c] ((v.mul b).add c)
  | 0x06 => chk [v, b, c] (v.add (b.mul c))
  | 0x07 => (fmin v b, false)
  | 0x08 => (fmax v b, false)
  | 0x09 => (fmin (fmax v b) c, false)
  | 0x0A => (v.abs, false)
  | 0x0B => (v.neg, false)
  | 0x0C => (if b.eq c then v else fzero, false)
  | 0x0D => (if b.lt c then v else fzero, false)
  | 0x0E => (v.mul c, false)
  | 0x0F => chk [o.x, v] (o.x.add v)
  | 0x10 => chk [v, b] (v.div b)
  | 0x11 => chk [v, b] (b.div v)
  | 0x12 => chk [v] v.sqrt
  | 0x13 => chk [v] (elemRsqrt v)
  | 0x14 => (elemExp false v, false)
  | 0x15 => chk [v] (elemLog false v)
  | 0x16 => (elemExp true v, false)
  | 0x17 => chk [v] (elemLog true v)
  | 0x18 => (elemTanh v, false)
  | 0x19 => (elemSigm v, false)
  | _ => (elemErf v, false)

/-- R161: the bound of an operation in ULP. -/
def glazeUlp (op : Nat) : Nat :=
  match op with
  | 0x13 => 1 | 0x16 => 1 | 0x17 => 1 | 0x14 => 2 | 0x15 => 2 | 0x18 => 3 | 0x19 => 3 | 0x1A => 3 | _ => 0

/-- What a stage gives: the FP32 value, and its counts. -/
structure StageOut where
  v : FVal
  invalid : Bool
  ovf : Bool

/-- R198: one glaze other than ACCW. `keep` says whether DROP keeps the element. -/
def glazeStep (st : Stage) (o : Operands) (keep : Bool) (v : FVal) : StageOut :=
  if st.op = 0x0E && !keep then ⟨fzero, false, false⟩ else
  let (r, inv) := glazeExact st.op o v (o.sel st.b) (o.sel st.c)
  if glazeUlp st.op = 0 then
    let q := Fmt.fp32.rne r
    ⟨Fmt.fp32.decode q.code, inv, q.ovf⟩
  else
    let free := Config.freeGlaze st.op (BitVec.ofNat 32 (Fmt.fp32.rne v).code)
    ⟨Fmt.fp32.decode (withinUlp (glazeUlp st.op) r free), inv, (Fmt.fp32.rne r).ovf⟩

/-- A lane as it leaves the chain: v_0 to v_nstage, the unrounded wide value of ACCW, its poison bit and counts. -/
structure Lane where
  e : Nat
  vs : List FVal
  wide : Option FVal
  pois : Bool
  invalid : Nat
  ovf : Nat

/-- R197, R199: a lane through stages `k` to nstage - 1; `drops` counts the DROP stages met. -/
def runStages (d : Row) (o : Operands) (wideX : FVal) (rw : RWord) (seed stip n : Nat) :
    Nat → Nat → Nat → FVal → List FVal × Option FVal × Nat × Nat
  | 0, _, _, _ => ([], none, 0, 0)
  | fuel + 1, k, drops, v =>
    if gStages d ≤ k then ([], none, 0, 0) else
    let st := stageOf o.chain k
    if st.op = 0x0F then
      let r := wideX.add v
      ([r], some r, (r.isNan && !wideX.isNan && !v.isNan).toNat, 0)
    else
      let drops' := if st.op = 0x0E then drops + 1 else drops
      let keep := st.op ≠ 0x0E ||
        decide (drawOf seed stip { rw with stream := (rw.stream + drops') % 2 ^ 32 } n < st.imm)
      let r := glazeStep st o keep v
      let (vs, w, i, f) := runStages d o wideX rw seed stip n fuel (k + 1) drops' r.v
      (r.v :: vs, w, i + r.invalid.toNat, f + r.ovf.toNat)

/-! Outputs (R200-R202). -/

/-- The bytes of one element output in a plain format, with its counts; `wide` marks a source that is not FP32. -/
def outElem (fmt : Nat) (rw : RWord) (draw : Nat) (wide : Bool) (v : FVal) : Conv :=
  match fmtOf fmt with
  | some f =>
    if (fmt = 0 || fmt = 0xC) && !wide then ⟨(f.rne v).code, false, false⟩ else f.narrow rw.mode rw.sat draw v
  | none => ⟨0, false, false⟩

/-- The value that leaves a lane at stage `t`: unrounded when it is the wide value. -/
def Lane.at_ (l : Lane) (t nstage : Nat) : FVal × Bool :=
  match l.wide with
  | some w => if t = nstage then (w, true) else (l.vs.getD t .nan, false)
  | none => (l.vs.getD t .nan, false)

/-- Poison marks of the segments of `n` bytes from `a`, of elements of `sz` bits each. -/
def markSegs (a n sz : Nat) (pois : List Bool) : List Bool :=
  (List.range (segsOf a n)).map fun s =>
    (pois.zipIdx.any fun p => p.1 &&
      decide ((a % 16 + p.2 * sz / 8) / 16 ≤ s) && decide (s ≤ (a % 16 + (p.2 * sz + sz - 1) / 8) / 16))

/-- Two runs of bytes in one row that join, with their segments' marks. -/
def GlzWrite.join (p q : GlzWrite) : GlzWrite :=
  let n := segsOf p.addr (p.len + q.len)
  let off := q.addr / 16 - p.addr / 16
  { p with len := p.len + q.len, v := p.v + 256 ^ p.len * q.v,
           marks := (List.range n).map fun k => p.marks.getD k false || (decide (off ≤ k) && q.marks.getD (k - off) false) }

/-- A run of bytes joins the requests of its beat: a row is one request. -/
def pushWrite (w : GlzWrite) (l : List GlzWrite) : List GlzWrite :=
  let joins (p : GlzWrite) : Bool :=
    p.op == w.op && p.beat == w.beat && p.cls == w.cls && p.addr + p.len == w.addr && p.addr / 64 == w.addr / 64
  if l.any joins then l.map fun p => if joins p then p.join w else p else l ++ [w]

/-- Bytes that may span rows, to be written by Glaze from cycle `w.due` on. -/
def splitWrites (w : GlzWrite) (a n v : Nat) (marks : List Bool) (l : List GlzWrite) : Nat → List GlzWrite
  | 0 => l
  | k + 1 =>
    if n = 0 then l else
    let m := min n (64 - a % 64)
    splitWrites w (a + m) (n - m) (v / 256 ^ m) (marks.drop (segsOf a m))
      (pushWrite { w with addr := a, len := m, v := v % 256 ^ m, marks := marks.take (segsOf a m) } l) k

def TW.glzPush (x : TW) (r : GlzRun) (due cls a n v : Nat) (marks : List Bool)
    (watch : Option (Nat × Nat × Nat × Bool × Nat) := none) : TW :=
  let w : GlzWrite := ⟨due, cls, r.op.id, r.beats, 0, 0, 0, [], r.op.who x.env.tile, watch⟩
  x.map fun t => { t with glzW := splitWrites w a n v marks t.glzW (n / 64 + 2),
                          glzC := if due = 0 then t.glzC else min t.glzC due }

/-! Reduction (R203-R206). -/

def to64 (v : FVal) : FVal := Fmt.fp64.decode (Fmt.fp64.rne v).code
def add64 (a b : FVal) : FVal := to64 (a.add b)

/-- R204: the tree over 64 lanes. -/
def foldHalves : Nat → List FVal → FVal
  | 0, l => l.headD fzero
  | k + 1, l => foldHalves k (List.zipWith add64 (l.take (2 ^ k)) (l.drop (2 ^ k)))

/-- Partials combine like a binary counter: the latest first, each with its level. -/
def pushPartial : List (FVal × Nat) → FVal → Nat → List (FVal × Nat)
  | (q, l) :: st, p, d => if l = d then pushPartial st (add64 q p) (d + 1) else (p, d) :: (q, l) :: st
  | [], p, d => [(p, d)]

def drainPartials : List (FVal × Nat) → FVal
  | [] => fzero
  | (p, _) :: st => st.foldl (fun r q => add64 q.1 r) p

/-- R205: the order of terms, with -0 below +0. -/
def termLt (a b : FVal) : Bool := a.lt b || (a.eq b && a.isNeg && !b.isNeg && a.isZero)

/-- The reduction of a beat joins the segment's. `terms` are (element, tap0, tap1) of the lanes that are not idle. -/
def GlzRun.reduce (r : GlzRun) (red : Nat) (terms : List (Nat × FVal × FVal)) (slots : List (Option (FVal × FVal))) :
    GlzRun :=
  let val (f : FVal × FVal → FVal) : FVal :=
    foldHalves 6 (slots.map fun s => match s with | some p => to64 (f p) | none => fzero)
  let sq (v : FVal) : FVal := v.mul v
  match red with
  | 0 => r
  | 1 => { r with sum0 := pushPartial r.sum0 (val (·.1)) 0 }
  | 2 => { r with sum0 := pushPartial r.sum0 (val (fun p => sq p.1)) 0 }
  | 3 => { r with sum0 := pushPartial r.sum0 (val (·.1)) 0, sum1 := pushPartial r.sum1 (val (fun p => sq p.1)) 0 }
  | 4 => { r with sum0 := pushPartial r.sum0 (val (fun p => sq p.1)) 0,
                  sum1 := pushPartial r.sum1 (val (fun p => sq p.2)) 0 }
  | _ => terms.foldl (fun r t =>
      if t.2.1.isNan then (if r.nanAt.isNone then { r with nanAt := some t.1 } else r)
      else match r.best with
        | none => { r with best := some (t.2.1, t.1) }
        | some (m, _) => if termLt m t.2.1 then { r with best := some (t.2.1, t.1) } else r) r

def code64 (v : FVal) : Nat := (Fmt.fp64.rne v).code

/-- R203, R205: the raw record of a segment. -/
def GlzRun.raw (r : GlzRun) (red : Nat) : FVal × FVal :=
  match red with
  | 1 => (drainPartials r.sum0, fzero)
  | 2 => (drainPartials r.sum0, fzero)
  | 3 => (drainPartials r.sum0, drainPartials r.sum1)
  | 4 => (drainPartials r.sum0, drainPartials r.sum1)
  | _ =>
    match r.nanAt, r.best with
    | some e, _ => (.nan, if red = 6 then ofInt e 0 false else fzero)
    | none, some (m, e) => (to64 m, if red = 6 then ofInt e 0 false else fzero)
    | none, none => (Fmt.fp64.decode (Config.freeEmptyMax 0).toNat,
        if red = 6 then Fmt.fp64.decode (Config.freeEmptyMax 1).toNat else fzero)

/-- R206: the finisher. -/
def finisher (fin n : Nat) (k7 : FVal) (r : FVal × FVal) : FVal × FVal :=
  let nn := ofInt n 0 false
  match fin with
  | 1 => (to64 (r.1.div nn), to64 (r.2.div nn))
  | 2 =>
    let m := to64 (r.1.div nn)
    let q := to64 (r.2.div nn)
    let v := to64 ((m.neg.mul m).add q)
    let v := add64 (fmax v fzero) k7
    (m, to64 (fone.div (to64 v.sqrt)))
  | 3 => (r.1, to64 (fone.div r.1))
  | _ => r

/-! Timing (R209-R213). -/

/-- The class latency of an operation. -/
def Tile.stageLat (t : Tile) (op : Nat) : Nat :=
  if op < 0x10 then (if t.model = 2 then 2 else 3)
  else if op < 0x14 then (if t.model = 2 then 6 else 8) else (if t.model = 2 then 8 else 10)

/-- The latency of the first `k` stages. -/
def Tile.chainLat (t : Tile) (chain : Row) (k : Nat) : Nat :=
  ((List.range k).map fun i => t.stageLat (stageOf chain i).op).foldl (· + ·) 0

def Tile.outLat (t : Tile) : Nat := if t.model = 2 then 1 else 2
def Tile.treeLat (t : Tile) : Nat := if t.model = 2 then 3 else 6
def Tile.finLat (t : Tile) (fin : Nat) : Nat :=
  match fin with
  | 0 => 0
  | 2 => if t.model = 2 then 16 else 20
  | _ => if t.model = 2 then 6 else 8

/-! Start (R211, R214). -/

/-- R454: a GRUN's marks, by segment. -/
def TW.markGrun (x : TW) (who : Who) (d : Row) : TW :=
  if !x.t.pen then x else
  let n := gN d
  (List.range (gM d)).foldl (fun y s =>
    let rd (g : GStream) (y : TW) : TW := if g.en && !(g.flag && g.fmt = 0) then
      (y.claimBytes who (g.at_ s) (g.bytes n)).claimBytes who (g.auxAt n s) (g.auxBytes n) else y
    let wr (g : GStream) (y : TW) : TW := if g.en then
      (y.pendBytes who (g.at_ s) (g.bytes n)).pendBytes who (g.auxAt n s) (g.auxBytes n) else y
    let y := rd (gZ d) (rd (gY d) (rd (gX d) y))
    let y := if gSEn d then y.claimBytes who (gSBase d + 16 * s) 16 else y
    let y := wr (gO2 d) (wr (gO d) y)
    if gRed d ≠ 0 then y.pendBytes who (gWBase d + 16 * s) 16 else y) x

/-- The rows those marks cover. -/
def grunMarks (d : Row) : Nat :=
  let one (g : GStream) : Nat := if g.en then (g.bytes (gN d) + 63) / 64 + (g.auxBytes (gN d) + 63) / 64 else 0
  gM d * (one (gX d) + one (gY d) + one (gZ d) + one (gO d) + one (gO2 d) + 2)

/-- R89, R211: the first cycle in which the head of the Glaze queue may start. -/
def Tile.glzStartFrom (t : Tile) (o : QOp) : Option Nat :=
  if t.tokenPending o.tw || t.glz.any (·.rOn) || (!gOvl o.desc && !t.glz.isEmpty) then none else
  let s := max (o.org.at_ + 1) (if o.tw = 0 then 0 else t.tokenFrom o.tw)
  some (max s ((if gOvl o.desc then t.glzRead else t.glzToken) + 1))

/-- A GRUN that ends before its first beat, its token clearing with ERROR in the cycle after `c`. -/
def TW.glzReject (x : TW) (o : QOp) (code stage c : Nat) : TW :=
  ((x.glzErr code stage).map fun t => { t with glz := t.glz.filter (·.op.id ≠ o.id), glzToken := max t.glzToken (c + 1),
                                               glzRead := c, cyc := max t.cyc c }).finish o 3 (c + 1)

/-- A GRUN that starts in cycle `s` and reads its first beat from cycle `from_`. -/
def GlzRun.start_ (o : QOp) (s from_ : Nat) : GlzRun :=
  { op := o, chain := 0, chainC := none, chainPois := [], chainViol := false, start := s, rOn := true, rSeg := 0, rBeat := 0,
    rFrom := from_, reads := [], held := [], acc := none, ready := [], seg := 0, beat := 0, ended := false, partC := 0,
    beats := 0, writeC := 0, sum0 := [], sum1 := [], best := none, nanAt := none, posInf := false, negInf := false,
    segPois := false, kbHdr := (0, false), kb := [], kbSat := false, kbNonfin := false, viol := false, skips := 0 }

/-- The ports go on until the chain row of the GRUN that has started is granted. -/
def TW.glzChainAhead (x : TW) : Nat → TW
  | 0 => x
  | n + 1 => if x.t.glz.any (·.chainC.isNone) then (x.ports (x.t.glzC + 1)).glzChainAhead n else x

/-- Whether a stage or the finisher names a constant of segment 2 + `h` of the chain row. -/
def namesConst (d chain : Row) (h : Nat) : Bool :=
  (List.range (gStages d)).any (fun k =>
    let st := stageOf chain k
    (usesB st.op && decide (st.b < 8) && st.b / 4 == h) || (usesC st.op && decide (st.c < 8) && st.c / 4 == h)) ||
  (gFin d == 2 && h == 1)

/-- R208: the poisoned segments of the chain row whose constants are named, and whether a stage names one. -/
def GlzRun.constPois (r : GlzRun) : Nat :=
  ((List.range 2).filter fun h => r.chainPois.getD (2 + h) false && namesConst r.op.desc r.chain h).length
def GlzRun.stagePois (r : GlzRun) : Bool :=
  (List.range (gStages r.op.desc)).any fun k =>
    let st := stageOf r.chain k
    (usesB st.op && decide (st.b < 8) && r.chainPois.getD (2 + st.b / 4) false) ||
    (usesC st.op && decide (st.c < 8) && r.chainPois.getD (2 + st.c / 4) false)

/-- The chain row is delivered: it is checked in that cycle, in which a GRUN that fails ends (R211). -/
def TW.glzChecked (x : TW) (r : GlzRun) : TW :=
  let k0 := r.chainC.getD r.start
  let k := k0 + x.t.readLat k0
  if r.chainViol then (x.ports k).glzReject r.op 9 0 k
  else match chainBad r.op.desc r.chain with
    | some st => (x.ports k).glzReject r.op 5 st k
    | none => (x.count TF.GLZ_CNT_POISON.count (some 11) r.constPois).markGrun (r.op.who x.env.tile) r.op.desc

/-- GRUN_START (R211): the head of the Glaze queue starts, in cycle `c` at the earliest; the chain row and the reads of beat
0 are requested from that cycle. -/
def TW.grunStart (x : TW) (c : Nat) : TW :=
  match x.t.glaze with
  | [] => x
  | o :: _ =>
    let x := x.forToken o.tw
    let x := if gOvl o.desc then x else x.settled
    match x.t.glzStartFrom o with
    | none => x
    | some s0 =>
      let s := max (max s0 c) x.t.cyc
      let y := (x.commitStores s).map fun t => { t with glaze := t.glaze.tail }
      let code := gDescCase o.desc
      if code ≠ 0 then y.glzReject o code 0 s else
      let y := y.map fun t => { t with
        cyc := max t.cyc s, glzC := min t.glzC s,
        glz := t.glz ++ [GlzRun.start_ o s (s + t.markDelay (grunMarks o.desc))] }
      let z := y.glzChainAhead maxWait
      match z.t.glz.find? fun r => r.op.id == o.id with
      | some r => z.glzChecked r
      | none => z

/-! A beat (R212). -/

/-- The lanes of a beat after the chain. -/
def beatLanes (d : Row) (r : GlzRun) (rw : RWord) (seed : Nat) (e0 n : Nat) (xi yi zi : BeatIn) (s0 s1 : FVal)
    (sPois : Bool) : List Lane :=
  (List.range n).map fun l =>
    let get (b : BeatIn) : LaneIn := b.lanes.getD l ⟨0, fzero, false, false⟩
    let xl := get xi
    let dec (b : LaneIn) : FVal := Fmt.fp32.decode b.code
    let o : Operands := ⟨dec xl, dec (get yi), dec (get zi), s0, s1, e0 + l, r.chain, r.chainPois⟩
    let num := gN d * r.seg + e0 + l
    let (vs, w, i, f) := runStages d o xl.wide rw seed r.op.stip.toNat num 8 0 0 (dec xl)
    let mx (b : BeatIn) : Nat := (get b).ovf.toNat
    { e := e0 + l, vs := dec xl :: vs, wide := w, pois := sPois || r.stagePois || xl.pois || (get yi).pois || (get zi).pois,
      invalid := if i = 0 then 0 else 1, ovf := f + mx xi + mx yi }

/-- An element output's conversions: codes and counts. -/
def outConvs (g : GStream) (d : Row) (rw : RWord) (seed stip tap seg : Nat) (ls : List Lane) : List Conv :=
  ls.map fun l =>
    let (v, wide) := l.at_ tap (gStages d)
    let draw := if rw.mode = .sr then drawOf seed stip rw (gN d * seg + l.e) else 0
    outElem g.fmt rw draw wide v

/-- One plain, K48 or MX output of a beat, requested from cycle `due`; `cls` is its place in the order of R209. -/
def TW.writeOut (x : TW) (due cls : Nat) (r : GlzRun) (g : GStream) (rw : RWord) (tap e0 : Nat) (ls : List Lane) : TW :=
  let d := r.op.desc
  let seed := x.get TF.STIP_SEED.seed
  let pois := ls.map (·.pois)
  let w := elemBits g.fmt
  let auxCls := if cls = 2 then 3 else cls
  if isMx g.fmt then
    let one (x : TW) (k : Nat) : TW :=
      let bl := (ls.drop (32 * k)).take 32
      let draws := if rw.mode = .sr then bl.map fun l => drawOf seed r.op.stip.toNat rw (gN d * r.seg + l.e) else []
      let m := mxEncode g.fmt rw.mode (bl.map fun l => (l.at_ tap (gStages d)).1) draws
      let y := (x.count TF.NUM_CNT_NAN.count (some 13) m.nan.toNat).count TF.NUM_CNT_OVF.count (some 14) m.ovf
      let a := g.at_ r.seg + g.bytes (e0 + 32 * k)
      let bp := bl.map (·.pois)
      (y.glzPush r due cls a (4 * w) (packCodes w m.codes) (markSegs a (4 * w) w bp)).glzPush r due auxCls
        (g.auxAt (gN d) r.seg + (e0 + 32 * k) / 32) 1 m.scale [bp.any id]
    (List.range (ls.length / 32)).foldl one x
  else
    let cs := outConvs g d rw seed r.op.stip.toNat tap r.seg ls
    let y := (x.count TF.NUM_CNT_NAN.count (some 13) (cs.filter (·.nan)).length).count TF.NUM_CNT_OVF.count (some 14)
      (cs.filter (·.ovf)).length
    let a := g.at_ r.seg + g.bytes e0
    let n := g.bytes ls.length
    if g.fmt = 0xC then
      let ax := g.auxAt (gN d) r.seg + 2 * e0
      (y.glzPush r due cls a n (packCodes 32 (cs.map (fun q => q.code / 2 ^ 16))) (markSegs a n 32 pois)).glzPush r due
        auxCls ax (2 * ls.length) (packCodes 16 (cs.map (fun q => q.code % 2 ^ 16))) (markSegs ax (2 * ls.length) 16 pois)
    else y.glzPush r due cls a n (packCodes w (cs.map (·.code))) (markSegs a n w pois)

/-- R202: the residual value of an element. -/
def residualOf (sat nonfin bad : Bool) (k : KbElem) : FVal :=
  if !k.value.isFin then (if sat || nonfin || bad then fzero else k.rem)
  else if sat || bad then k.value else k.rem

/-- R202: a beat of a KB24 output; `h` is the block's header as read. After the block's last beat the header and the
deferred O2 elements are requested, once its last O write has been granted. -/
def TW.writeKb (x : TW) (due : Nat) (r : GlzRun) (rw : RWord) (e0 h : Nat) (hPois : Bool) (ls : List Lane) :
    GlzRun × TW :=
  let d := r.op.desc
  let g := gO d
  let seed := x.get TF.STIP_SEED.seed
  let ex := h % 256
  let encs := ls.map fun l =>
    let v := (l.at_ (gStages d) (gStages d)).1
    let draw := if rw.mode = .sr then drawOf seed r.op.stip.toNat rw (gN d * r.seg + l.e) else 0
    (l, v, kbEncode ex rw.mode draw v)
  let y := x.count TF.NUM_CNT_NAN.count (some 13) (encs.filter fun q => !q.2.1.isFin && ex ≠ 255).length
  let a := g.at_ r.seg + 3 * e0
  let y := y.glzPush r due 2 a (3 * ls.length)
    (packCodes 24 (encs.map fun q => (BitVec.ofInt 24 q.2.2.q).toNat)) (markSegs a (3 * ls.length) 24 (ls.map (·.pois)))
  let r := { r with
    kb := r.kb ++ encs.map (fun q => ⟨q.1.e, q.2.1, q.2.2.rem, q.1.pois || hPois⟩),
    kbSat := r.kbSat || encs.any (fun q => q.2.2.sat), kbNonfin := r.kbNonfin || encs.any (fun q => q.2.2.nonfin) }
  if (e0 + ls.length) % 256 ≠ 0 then (r, y) else
  let hv := ex + 256 * (r.kbSat.toNat + 2 * r.kbNonfin.toNat)
  let y := y.glzPush r 0 3 (g.auxAt (gN d) r.seg + 2 * (e0 / 256)) 2 hv [r.kb.any (·.pois)]
  let o2 := gO2 d
  let y := if o2.en then
      let vals := r.kb.map fun k => (Fmt.fp32.rne (residualOf r.kbSat r.kbNonfin (ex == 255) k)).code
      let a2 := o2.at_ r.seg + 4 * (e0 / 256 * 256)
      y.glzPush r 0 4 a2 1024 (packCodes 32 vals) (markSegs a2 1024 32 (r.kb.map (·.pois)))
    else y
  ({ r with kb := [], kbSat := false, kbNonfin := false }, y)

/-- R203, R204, R207: the W record of a finished segment, requested from cycle `due`; the update watch receives it with
its write. -/
def TW.writeRecord (x : TW) (due : Nat) (r : GlzRun) (rw : RWord) : TW :=
  let d := r.op.desc
  let raw := r.raw (gRed d)
  let mixed := r.posInf && r.negInf && (gRed d = 1 || gRed d = 3)
  let x := if mixed then x.count TF.GLZ_CNT_INVALID.count (some 10) 1 else x
  let f := finisher (gFin d) (gN d) (constVal r.chain r.chainPois 7) raw
  x.glzPush r due 1 (gWBase d + 16 * r.seg) 16 (code64 f.1 + 2 ^ 64 * code64 f.2) [r.segPois]
    (if gWatch d then some (rw.layer, code64 f.1, code64 f.2, r.segPois, r.skips) else none)

/-- The ports go on until the next beat that has not entered the lanes is read. -/
def TW.glzAhead (x : TW) : Nat → TW
  | 0 => x
  | n + 1 => match x.t.glz.find? (!·.ended) with
    | some r => if r.ready.isEmpty && r.rOn then (x.ports (x.t.glzC + 1)).glzAhead n else x
    | none => x

/-- The cycles of a beat whose last read is granted in `g` (R212): of its O and O2 writes, of its tree partial, and of
its segment's W write. -/
structure BeatCycles where
  o : Nat
  o2 : Nat
  part : Nat
  w : Nat
  deriving DecidableEq, Repr

def Tile.beatCycles (t : Tile) (d chain : Row) (g : Nat) : BeatCycles :=
  let v0 := g + t.readLat g + 1
  let tap := max (t.chainLat chain (gTap0 d)) (if gRed d = 4 then t.chainLat chain (gTap1 d) else 0)
  let part := v0 + tap + t.treeLat
  ⟨v0 + t.chainLat chain (gStages d) + t.outLat, v0 + t.chainLat chain (gO2Tap d) + t.outLat, part,
   part + 2 + t.finLat (gFin d)⟩

/-- What the running operation's next beat has read: its place, its three inputs, its scale, the header of its block,
whether it is skipped (R195), and what it counts. -/
structure GlzBeat where
  e0 : Nat
  n : Nat
  xi : BeatIn
  yi : BeatIn
  zi : BeatIn
  s0 : FVal
  s1 : FVal
  sPois : Bool
  hdr : Nat × Bool
  skipped : Bool
  viol : Bool
  poisoned : Nat
  ovf : Nat

def GlzRun.beatIn (r : GlzRun) (q : GlzRead) (d : Row) : GlzBeat :=
  let e0 := 64 * r.beat
  let n := min 64 (gN d - e0)
  let rows := q.rows
  let sb := if gSEn d then bytesIn rows (gSBase d + 16 * r.seg) 16 else ⟨0, 0, 0, [], false⟩
  let hb := if (gO d).en && (gO d).fmt = 0xB && e0 % 256 = 0 then
      bytesIn rows ((gO d).auxAt (gN d) r.seg + 2 * (e0 / 256)) 2 else ⟨0, 0, 0, [], false⟩
  let xi := if (gX d).en && (gX d).flag then accBeat q.accIn q.accPois else beatOf rows (gX d) d r.seg e0 n
  let yi := beatOf rows (gY d) d r.seg e0 n
  let zi := beatOf rows (gZ d) d r.seg e0 n
  let f32 (k : Nat) : Conv := Fmt.fp32.rne (if sb.anyPoison then .nan else Fmt.fp64.decode (sb.num k 8))
  { e0 := e0, n := n, xi := xi, yi := yi, zi := zi, s0 := Fmt.fp32.decode (f32 0).code,
    s1 := Fmt.fp32.decode (f32 8).code, sPois := sb.anyPoison,
    hdr := if e0 % 256 = 0 then (hb.num 0 2, hb.anyPoison) else r.kbHdr,
    skipped := gSkip d && (yi.header / 256 % 4 ≠ 0 || yi.header % 256 = 255),
    viol := sb.viol || hb.viol || xi.viol || yi.viol || zi.viol,
    poisoned := (xi.segs ++ yi.segs ++ zi.segs ++ (if r.beat = 0 then sb.badSegs else []) ++ hb.badSegs).eraseDups.length +
      xi.blocks,
    ovf := if r.beat = 0 then (f32 0).ovf.toNat + (f32 8).ovf.toNat else 0 }

/-- The lanes of a beat, none when it is skipped. -/
def GlzBeat.lanes (b : GlzBeat) (r : GlzRun) (d : Row) (rw : RWord) (seed : Nat) : List Lane :=
  if b.skipped then [] else beatLanes d r rw seed b.e0 b.n b.xi b.yi b.zi b.s0 b.s1 (b.sPois || b.hdr.2)

/-- A beat's counters and performance events. An S record that overflows FP32 counts with its segment's first beat
(DEDUCED, notes/assumptions/117). -/
def TW.beatCounts (x : TW) (r : GlzRun) (d : Row) (rw : RWord) (b : GlzBeat) (ls : List Lane) : TW :=
  let x := if b.skipped then (if b.e0 % 256 = 0 then x.count TF.GLZ_CNT_SKIP.count (some 12) 1 else x)
    else x.count TF.GLZ_CNT_POISON.count (some 11) b.poisoned
  let x := if b.viol then x.glzFail r.op.id else x
  let x := x.count TF.GLZ_CNT_INVALID.count (some 10) ((ls.map (·.invalid)).foldl (· + ·) 0)
  let x := x.count TF.NUM_CNT_OVF.count (some 14) ((ls.map (·.ovf)).foldl (· + ·) b.ovf)
  let draws := (List.range (gStages d)).filter (fun k => (stageOf r.chain k).op == 0x0E)
  let blocks := (b.n + 7) / 8 * (draws.length + (if rw.mode = .sr then (gO d).en.toNat + (gO2 d).en.toNat else 0))
  ((x.perf 0x10 1).perf 0x11 b.n).perf 0x1A blocks

/-- The first output of a beat. -/
def TW.beatOut (x : TW) (bc : BeatCycles) (r : GlzRun) (d : Row) (rw : RWord) (b : GlzBeat) (ls : List Lane) : GlzRun × TW :=
  if b.skipped || !(gO d).en then (r, x)
  else if (gO d).fmt = 0xB then x.writeKb bc.o r rw b.e0 b.hdr.1 b.hdr.2 ls
  else (r, x.writeOut bc.o 2 r (gO d) rw (gStages d) b.e0 ls)

/-- The second output of a beat. -/
def TW.beatOut2 (x : TW) (bc : BeatCycles) (r : GlzRun) (d : Row) (rw : RWord) (b : GlzBeat) (ls : List Lane) : TW :=
  if b.skipped || !(gO2 d).en || ((gO d).en && (gO d).fmt = 0xB) then x
  else x.writeOut bc.o2 4 r (gO2 d) { rw with stream := (rw.stream + 9) % 2 ^ 32 } (gO2Tap d) b.e0 ls

/-- The tree after a beat (R203). -/
def GlzRun.beatTree (r : GlzRun) (d : Row) (ls : List Lane) : GlzRun :=
  let term (l : Lane) : FVal × FVal := ((l.at_ (gTap0 d) (gStages d)).1, (l.at_ (gTap1 d) (gStages d)).1)
  let slots := (ls.map fun l => some (term l)) ++ List.replicate (64 - ls.length) none
  let r := r.reduce (gRed d) (ls.map fun l => (l.e, term l)) slots
  let nanHere := (ls.filter fun l => (term l).1.isNan || (gRed d = 4 && (term l).2.isNan)).map (·.e)
  { r with segPois := r.segPois || ls.any (·.pois), nanAt := if r.nanAt.isNone then nanHere.head? else r.nanAt,
           posInf := r.posInf || ls.any (fun l => (term l).1.isInf && !(term l).1.isNeg),
           negInf := r.negInf || ls.any (fun l => (term l).1.isInf && (term l).1.isNeg) }

/-- The segment's record, and the end of a beat, of a segment or of the operation. -/
def TW.beatEnd (x : TW) (bc : BeatCycles) (r : GlzRun) (d : Row) (rw : RWord) (e0 : Nat) : TW :=
  let last := gN d ≤ e0 + 64
  let x := if last && gRed d ≠ 0 then x.writeRecord bc.w r rw else x
  let r := { r with beats := r.beats + 1 }
  if !last then x.map fun t => t.setGlz r
  else if r.seg + 1 < gM d then
    x.map fun t => t.setGlz { r with sum0 := [], sum1 := [], best := none, nanAt := none, posInf := false, negInf := false,
                                     segPois := false, skips := 0 }
  else (x.map fun t => t.setGlz { r with ended := true, partC := bc.part + 1 }).glzMarks

/-- One beat that has been read. -/
def TW.beatRun (x : TW) (r : GlzRun) (q : GlzRead) (d : Row) (rw : RWord) : TW :=
  let r := { r with seg := q.seg, beat := q.beat, ready := r.ready.drop 1 }
  let b := r.beatIn q d
  let ls := b.lanes r d rw (x.get TF.STIP_SEED.seed)
  let x := (x.beatCounts r d rw b ls).map fun t => { t with cyc := max t.cyc q.at_ }
  let r := { r with viol := r.viol || b.viol, kbHdr := b.hdr, skips := r.skips + (b.skipped && b.e0 % 256 = 0).toNat }
  let bc := x.t.beatCycles d r.chain q.at_
  let p := x.beatOut bc r d rw b ls
  (p.2.beatOut2 bc p.1 d rw b ls).beatEnd bc (p.1.beatTree d ls) d rw b.e0

/-- GLAZE_BEAT (R209, R212): the reads of the running GRUN's next beat are granted, and its values pass through the
chain to the outputs and the tree, whose writes are requested in the cycles of R212; at a segment's last beat its record
as well. After the last beat of all the token clears with the last write (R213). -/
def TW.glazeBeat (x : TW) : TW :=
  let x := x.glzAhead maxWait
  match x.t.glz.find? (!·.ended) with
  | none => x
  | some r => match r.op.desc.rword 384, r.ready with
    | some rw, q :: _ => x.beatRun r q r.op.desc rw
    | _, _ => x

end Sys2Proof.Machine
end

