-- ==== Sys2Proof/Machine/World.lean ====
section
/-! DEFINITION. The named operations over the whole module: its registers and counters (R14-R19, R408, R543), its tiles
by physical index and by global tile ID (R4, R5, R229, R230), and barrier groups (R35). -/

namespace Sys2Proof.Machine

/-! Registers. -/

def State.get (s : State) (f : RF) : Nat := rget moduleReset s.regs f
def State.put (s : State) (f : RF) (v : Nat) : State := { s with regs := rput moduleReset s.regs f v }
def State.word (s : State) (a : Nat) : Word := rreg moduleReset s.regs a
def State.setWord (s : State) (a : Nat) (v : Word) : State := { s with regs := rset moduleReset s.regs a v }

/-- R543: a saturating counter plus `n`. -/
def State.add (s : State) (f : RF) (n : Nat) : State := if n = 0 then s else s.put f (satAdd (s.get f) n)

/-- Counts on their way to an ERRC total (R408). -/
def State.errc (s : State) (i n : Nat) : State :=
  if n = 0 then s else { s with errcPending := s.errcPending ++ [(i, n)] }

/-- A unit counter with its ERRC total. -/
def State.count (s : State) (f : RF) (i n : Nat) : State := (s.add f n).errc i n

/-- R413: the ERRC index of an offset of a compute die's counters, or of a fabric die's. -/
def dieErrc (d off : Nat) : Nat := 0x40 + 0x40 * d + off
def fabErrc (f off : Nat) : Nat := 0x140 + 0x40 * f + off

/-- The fabric clock reaches `at_`; both fabric dies' sets count the fc elapsed (R467). -/
def State.reach (s : State) (at_ : Nat) : State :=
  let n := at_ - s.now
  { s with now := max s.now at_,
           regs := (fabSet 1).event moduleReset ((fabSet 0).event moduleReset s.regs 0x01 n) 0x01 n }

/-- A fresh free value. -/
def State.fresh64 (s : State) : Word × State := (Config.freeValue s.free, { s with free := s.free + 1 })

/-! Tiles. -/

/-- The physical index of (die, row, column). -/
def physOf (d r c : Nat) : Nat := (48 * d + r) * 34 + c
def physDie (p : Nat) : Nat := p / 34 / 48
def physRow (p : Nat) : Nat := p / 34 % 48
def physCol (p : Nat) : Nat := p % 34

/-- R5: the fields of a global tile ID. -/
def gidDie (g : Nat) : Nat := g / 2048 % 4
def gidRow (g : Nat) : Nat := g / 32 % 64
def gidCol (g : Nat) : Nat := g % 32
def gidOf (d r l : Nat) : Nat := 2048 * d + 32 * r + l

def State.tile (s : State) (p : Nat) : Tile := SMap.getD s.tiles p Tile.fresh
def State.setTile (s : State) (p : Nat) (t : Tile) : State := { s with tiles := SMap.put s.tiles p t Tile.fresh }
def State.mapTile (s : State) (p : Nat) (f : Tile → Tile) : State := s.setTile p (f (s.tile p))

/-- R229: the physical column that serves logical column `l` of a row. -/
def State.servingCol (s : State) (d r l : Nat) : Nat :=
  if s.get (F.DIE_TMAP.s0_v d r) = 1 && s.get (F.DIE_TMAP.s0_log d r) = l then s.get (F.DIE_TMAP.s0_phys d r)
  else if s.get (F.DIE_TMAP.s1_v d r) = 1 && s.get (F.DIE_TMAP.s1_log d r) = l then s.get (F.DIE_TMAP.s1_phys d r)
  else l

/-- R5, R230: the physical tile that serves a global tile ID, or none when the ID names no row or the column is
unserved. -/
def State.phys (s : State) (g : Nat) : Option Nat :=
  let d := gidDie g
  let r := gidRow g
  if 48 ≤ r then none else
  let c := s.servingCol d r (gidCol g)
  if (s.get (F.DIE_TMAP.retired d r)).testBit c then none else some (physOf d r c)

/-- The context that owns a row of a die, whether or not its assignment waits for Gesso (R443). -/
def State.rowOwner (s : State) (d r : Nat) : Option Nat :=
  (List.range 64).find? fun c => (s.get (F.LDR_CTX_ROWS.rows d c)).testBit r

/-- The context that owns the tile at a physical index. -/
def State.ownerOf (s : State) (p : Nat) : Option Nat := s.rowOwner (physDie p) (physRow p)

/-- R35: the members of a context's barrier group on a die, by global tile ID and physical tile. -/
def State.members (s : State) (d c : Nat) : List (Nat × Nat) :=
  ((List.range 48).filter fun r => (s.get (F.LDR_CTX_ROWS.rows d c)).testBit r).flatMap fun r =>
    (List.range 32).filterMap fun l => (s.phys (gidOf d r l)).map fun p => (gidOf d r l, p)

/-! The clocks of the compute dies (R12, R30, R509-R511). -/

def State.mapPwr (s : State) (g : PwrSt → PwrSt) : State := { s with pwr := g s.pwr }

def State.clk (s : State) (d : Nat) : DieClk := s.pwr.dies.getD d DieClk.fresh
def State.setClk (s : State) (d : Nat) (x : DieClk) : State := s.mapPwr fun p => { p with dies := p.dies.set d x }
def State.stretch (s : State) (d : Nat) : Nat := s.get (F.PWR_DIE_CLK.stretch d)

/-- The clock's deficit over `t` fc at stretch state `st`, in percent times fc times 50: constant while stretched; on a
ramp, which gives back 1 percent in 25 fc, from `d0` percent down. -/
def deficitOver (st d0 t : Nat) : Nat := match st with
  | 1 => 50 * 25 * t
  | 2 => 50 * 50 * t
  | 3 => let u := min t (25 * d0); 50 * d0 * u - u * u
  | _ => 0

/-- How far die `d`'s clock has fallen behind 1.60 GHz at fc `at_`: what its stretches withhold of the ceiling, and the
ceiling of 1,600 MHz. -/
def State.lagAt (s : State) (d at_ : Nat) : Nat :=
  let x := s.clk d
  let f := s.get (F.PWR_DIE_CLK.ceil d)
  x.lag + f * deficitOver (s.stretch d) x.deficit (at_ - x.since) + 5000 * (1600 - f) * (at_ - x.since)

/-- The withheld cycles up to fc `at_` are counted (R511): f_ceil MHz times fc times percent is 1 / 125,000 tc. -/
def State.countLoss (s : State) (d at_ : Nat) : State :=
  let x := s.clk d
  let f := s.get (F.PWR_DIE_CLK.ceil d)
  let units := x.lossRem + f * deficitOver (s.stretch d) x.deficit (at_ - x.since)
  (s.add (F.PWR_DIE_CNT_LOSS.count d) (units / 6250000)).setClk d
    { x with lossRem := units % 6250000, since := at_, lag := s.lagAt d at_ }

/-- The ramp's deficit at fc `at_`, in percent. -/
def State.rampDeficit (s : State) (d at_ : Nat) : Nat := let x := s.clk d; x.deficit - (at_ - x.since) / 25

/-- The withheld cycles are counted; a ramp goes on from the deficit it has reached. -/
def State.settleLoss (s : State) (d at_ : Nat) : State :=
  let k := if s.stretch d = 3 then s.rampDeficit d at_ else (s.clk d).deficit
  let s := s.countLoss d at_
  s.setClk d { s.clk d with deficit := k }

/-- The tile cycles that die `d` has lost by the fc reached. -/
def State.lost (s : State) (d : Nat) : Nat := if s.pwr.clocks then s.lagAt d s.now / 6250000 else 0

/-- R30: each die counts its own tile cycles. What leaves die `a` in its cycle `c` leaves in this cycle of die `b`. -/
def State.onDie (s : State) (a b c : Nat) : Nat := if a = b then c else c + s.lost a - s.lost b

end Sys2Proof.Machine
end

