-- ==== Sys2Proof/Machine/Msi.lean ====
section
/-! DEFINITION. The posted writes of the module to the host (R473, R484): MSI-X messages with their tables and pending
bits. -/

namespace Sys2Proof.Machine

/-- Whether the module may write to the host (R473). -/
def State.canWriteHost (s : State) : Bool := s.host.bme && s.get F.HOST_STATUS.speed != 0

def State.post (s : State) (m : HostMsg) : State := { s with host := { s.host with out := s.host.out ++ [m] } }

/-- An MSI-X table entry's word 0 (address) or 1 (data and vector control); vector control's mask bit is 1 at reset
(PRESUMED: the PCIe base specification's table layout, notes/assumptions/20). -/
def State.msixWord (s : State) (func vec k : Nat) : Word :=
  SMap.getD s.host.msix (0x8000 * func + 16 * vec + 8 * k) (if k = 1 then 0x100000000#64 else 0)

def State.msixMasked (s : State) (func vec : Nat) : Bool := (s.msixWord func vec 1).field 32 1 == 1

/-- The size of a function's MSI-X table (R484). -/
def msixSize (func : Nat) : Nat := if func = 0 then 2048 else 64

def State.pend (s : State) (func vec : Nat) : State :=
  if s.host.pba.contains (func, vec) then s else { s with host := { s.host with pba := s.host.pba ++ [(func, vec)] } }

/-- A message of a function: it is sent, or its pending bit is set; one that cannot be sent is counted (R473). While the
link is down under keep_link 1 it is lost (R475). -/
def State.msix (s : State) (func vec : Nat) : State :=
  if !s.canWriteHost then
    (if s.get F.HOST_STATUS.speed = 0 && s.get F.HOST_CFG.keep_link = 1 then s else s.pend func vec).add F.HOST_CNT_DROP.count 1
  else if s.msixMasked func vec then s.pend func vec
  else s.post (.msix func vec (s.msixWord func vec 0) ((s.msixWord func vec 1).field 0 32))

/-- Pending messages that may be sent now are sent. -/
def State.sendPending (s : State) : State :=
  if !s.canWriteHost then s else
  let ready := s.host.pba.filter fun q => !s.msixMasked q.1 q.2
  let s1 := { s with host := { s.host with pba := s.host.pba.filter fun q => s.msixMasked q.1 q.2 } }
  ready.foldl (fun s q => s.post (.msix q.1 q.2 (s.msixWord q.1 q.2 0) ((s.msixWord q.1 q.2 1).field 0 32))) s1

end Sys2Proof.Machine
end

