-- ==== Sys2Proof/Machine/Router.lean ====
section
/-! DEFINITION. Flits and the routers of the fabric dies (R260-R276, R546): headers and their CRC, local injection,
routing, broadcast and detours. -/

namespace Sys2Proof

/-- A field of a flit's header. -/
def Machine.Flit.f (x : Machine.Flit) (lo w : Nat) : Nat := (x.hdr.extractLsb' lo w).toNat
/-- Bytes `b` to `b + n - 1` of a flit's payload. -/
def Machine.Flit.bytes (x : Machine.Flit) (b n : Nat) : Nat := (x.data.extractLsb' (8 * b) (8 * n)).toNat

end Sys2Proof

namespace Sys2Proof.Machine

/-! CRC (R546, R258). -/

def crcStep (poly top v : Nat) : Nat := if v / top % 2 = 1 then (2 * v % (2 * top)) ^^^ poly else 2 * v % (2 * top)

/-- CRC-16 of bytes, first byte first, most significant bit first. -/
def crc16Bytes : List Nat → Nat → Nat
  | [], c => c
  | b :: bs, c =>
    crc16Bytes bs ((List.range 8).foldl (fun c _ => crcStep 0x8BB7 0x8000 c) (c ^^^ (b * 256)))

def headerCrc (h : BitVec 128) : Nat :=
  crc16Bytes ((List.range 14).map fun i => (h.extractLsb' (8 * i) 8).toNat) 0xFFFF

def withCrc (h : BitVec 128) : BitVec 128 :=
  (h.extractLsb' 0 112).setWidth 128 ||| (BitVec.ofNat 128 (headerCrc h) <<< 112)

/-- CRC-32 of IEEE 802.3: reflected, initial value and final XOR all ones. -/
def crc32Bytes : List Nat → Nat → Nat
  | [], c => c
  | b :: bs, c => crc32Bytes bs ((List.range 8).foldl
      (fun c _ => if c % 2 = 1 then (c / 2) ^^^ 0xEDB88320 else c / 2) (c ^^^ b))

def crc32 (bs : List Nat) : Nat := (crc32Bytes bs 0xFFFFFFFF) ^^^ 0xFFFFFFFF

/-! Headers (R260). -/

structure Hdr where
  kind : Nat
  vc : Nat
  srt : Nat := 0
  adapt : Nat := 0
  bc : Nat := 0
  tree : Nat := 0
  last : Nat := 0
  dst : Nat := 0
  src : Nat := 0
  flow : Nat := 0
  epoch : Nat := 0
  spec : Nat := 0

/-- A flit with its CRC. -/
def Hdr.flit (h : Hdr) (payload : Nat) : Flit :=
  { hdr := withCrc (BitVec.ofNat 128 (h.kind + h.vc * 2 ^ 4 + h.srt * 2 ^ 6 + h.adapt * 2 ^ 7 + h.bc * 2 ^ 9 +
      h.tree * 2 ^ 10 + h.last * 2 ^ 11 + h.dst * 2 ^ 12 + h.src * 2 ^ 26 + h.flow * 2 ^ 40 + h.epoch * 2 ^ 54 +
      h.spec * 2 ^ 68)),
    data := BitVec.ofNat 1024 payload }

def Flit.kind (x : Flit) : Nat := x.f 0 4
def Flit.vc (x : Flit) : Nat := x.f 4 2
def Flit.bc (x : Flit) : Bool := x.f 9 1 == 1
def Flit.dst (x : Flit) : Nat := x.f 12 14
def Flit.src (x : Flit) : Nat := x.f 26 14
def Flit.flow (x : Flit) : Nat := x.f 40 14
def Flit.epoch (x : Flit) : Nat := x.f 54 8
def Flit.hops (x : Flit) : Nat := x.f 62 5

/-- A header with a field replaced and its CRC recomputed. -/
def Flit.set (x : Flit) (lo w v : Nat) : Flit :=
  let m : BitVec 128 := ((BitVec.allOnes w).setWidth 128) <<< lo
  { x with hdr := withCrc ((x.hdr &&& ~~~ m) ||| ((BitVec.ofNat 128 v <<< lo) &&& m)) }

/-! Ports. -/

def State.port (s : State) (f p : Nat) : Port := SMap.getD s.fab.ports (32 * f + p) Port.fresh
def State.setPort (s : State) (f p : Nat) (x : Port) : State :=
  { s with fab := { s.fab with ports := SMap.put s.fab.ports (32 * f + p) x Port.fresh } }
def State.mapPort (s : State) (f p : Nat) (g : Port → Port) : State := s.setPort f p (g (s.port f p))

def isOptical (p : Nat) : Bool := decide (p < 16)
def isSpine (p : Nat) : Bool := decide (20 ≤ p) && decide (p ≤ 23)

/-! R287: port state codes. -/
def PortState.off : Nat := 0
def PortState.signal : Nat := 1
def PortState.equalize : Nat := 2
def PortState.lock : Nat := 3
def PortState.ident : Nat := 4
def PortState.credit : Nat := 5
def PortState.up : Nat := 6
def PortState.retrain : Nat := 7
def PortState.draining : Nat := 8
def PortState.pendingEnable : Nat := 9

/-- The state of a port: internal and spine ports are UP once the bridges are trained (R287). -/
def State.portState (s : State) (f p : Nat) : Nat := s.get (F.FAB_PORT_STATUS.state f p)

/-- R266: the buffers of a VC at the far end of a port. -/
def vcBuffers (p vc : Nat) : Nat :=
  if isOptical p then (match vc with | 0 => 1024 | 1 => 1024 | 2 => 128 | _ => 16)
  else (match vc with | 0 => 64 | 1 => 64 | 2 => 32 | _ => 8)

/-- R266, R274: whether a port holds a credit for a class of a VC; each class has half the buffers. -/
def Port.hasCredit (x : Port) (p vc : Nat) (dl : Bool) : Bool :=
  decide ((x.inflight.filter fun q => q.1 == vc && q.2 == dl).length < vcBuffers p vc / 2)

/-- This module's node ID (R7, R292). -/
def State.node (s : State) : Nat := s.get (F.FAB_NODE.node_id 0)

/-- R273: how long a port has had no VC0 credit. -/
def State.vc0Dry (s : State) (f p : Nat) : Nat := match (s.port f p).dry0 with
  | some c => s.now - c
  | none => 0

/-- R273: the optical ports that a detour may take. -/
def State.detourPorts (s : State) (f dst : Nat) : List Nat :=
  (List.range 16).filter fun q =>
    (s.get (F.FAB_ROUTE.detour f dst)).testBit q && s.portState f q == PortState.up &&
    s.get (F.FAB_PORT_CTL.spare f q) == 0 && (s.port f q).hasCredit q 0 (s.get (F.FAB_PORT_CTL.dateline f q) == 1)

/-- What the routing rules decide for one flit (R271). -/
inductive Route where
  | deliver                       -- for this module
  | send (ports : List Nat) (own detour : Bool)
  | dropRoute
  | dropLoop
  deriving DecidableEq, Repr

/-- R275: the ports of a broadcast tree. -/
def State.treeRoute (s : State) (f t : Nat) (inPort : Option Nat) : Route :=
  let kids := (List.range 24).filter (s.get (F.FAB_BCAST.children f t)).testBit
  if s.get (F.FAB_BCAST.valid f t) = 0 then .dropRoute else
  match inPort with
  | none => if s.get (F.FAB_BCAST.root f t) = 1 then .send kids false false else .dropRoute
  | some p =>
    if s.get (F.FAB_BCAST.root f t) = 0 && s.get (F.FAB_BCAST.parent f t) = p then .send kids (isOptical p) false
    else .dropRoute

/-- R271-R273: the table route of a flit, by the route entry of its destination. -/
def State.tableRoute (s : State) (f : Nat) (inPort : Option Nat) (x : Flit) : Route :=
  let n := x.dst
  if s.get (F.FAB_ROUTE.valid f n) = 0 then .dropRoute else
  let prim := s.get (F.FAB_ROUTE.primary f n)
  let p := if (s.get (F.FAB_PORTSEL.fail f)).testBit prim && s.get (F.FAB_ROUTE.shadow_valid f n) = 1
    then s.get (F.FAB_ROUTE.shadow f n) else prim
  if (match inPort with | some q => isSpine q | none => false) && isSpine p then .dropLoop else
  if x.vc = 0 && x.f 7 1 = 1 && x.f 8 1 = 0 && (s.port f p).dry0.isSome &&
      decide (s.get (F.FAB_CTL.detour_thr f) ≤ s.vc0Dry f p) then
    match s.detourPorts f n with
    | [] => .send [p] false false
    | q :: qs =>
      -- the first in round-robin order after the port last used
      let start := s.fab.schedAt.getD (4 * f + 2) 0
      .send [((q :: qs).find? (fun r => decide (start ≤ r))).getD q] false true
  else .send [p] false false

/-- R271: the first rule that applies. -/
def State.route (s : State) (f : Nat) (inPort : Option Nat) (x : Flit) : Route :=
  if x.bc then s.treeRoute f (x.f 10 1) inPort
  else if x.dst = s.node then .deliver
  else if x.f 6 1 = 1 then
    let list := x.bytes 120 8
    if list / 2 ^ 60 ≤ x.hops then .dropRoute else .send [list / 2 ^ (5 * x.hops) % 32] false false
  else s.tableRoute f inPort x

/-- R276: the fabric die where a flit for this module is resolved. -/
def Flit.home (x : Flit) : Nat := if x.kind = 7 || x.kind = 8 then 0 else x.flow / 8192

/-- A flit that its unit drops as a header error: a SYNC flit of a reserved op (R336), a tick-protocol message of an
unlisted kind (R44), a CTRL message of an unlisted op (R389), a FILL without sources or with an unlisted role (R390). -/
def Flit.unlisted (x : Flit) : Bool :=
  let k := x.bytes 0 1
  if x.kind = 6 then decide (2 ≤ x.f 68 2)
  else if x.kind = 7 then k == 0 || decide (0xB < k)
  else if x.kind = 8 then
    k == 0 || decide (0x14 < k) ||
      (k == 9 && (x.bytes 24 4 == 0 || decide (16 < x.bytes 24 4) || (List.range (x.bytes 24 4)).any fun j =>
        let r := x.bytes (32 + 4 * j) 4 / 2 ^ 16 % 16
        r == 0 || decide (3 < r)))
  else false

/-- A fabric-die event (R467). -/
def State.fabEvent (s : State) (f code n : Nat) : State :=
  { s with regs := (fabSet f).event moduleReset s.regs code n }

/-! Buffers (R266). -/

/-- The first `n` buffers of a VC at the far end are free again, in the order their flits were sent. -/
def dropVc (vc : Nat) : Nat → List (Nat × Bool) → List (Nat × Bool)
  | 0, l => l
  | _, [] => []
  | n + 1, q :: l => if q.1 = vc then dropVc vc n l else q :: dropVc vc (n + 1) l

/-- The buffer that a flit held at an input port is free: an optical port counts it for its LCFs (R258), a spine port returns
the credit on its sideband (R286). -/
def State.freeBuf (s : State) (f : Nat) (inPort : Option Nat) (vc : Nat) : State := match inPort with
  | none => s
  | some p =>
    if isOptical p then s.mapPort f p fun q => { q with freed := q.freed.set vc ((q.freed.getD vc 0 + 1) % 2 ^ 16) }
    else if isSpine p then s.mapPort (1 - f) p fun q => { q with inflight := dropVc vc 1 q.inflight }
    else s

/-! The bridges within the module (R23, R270, R276). -/

/-- The fabric die of a compute die's half. -/
def fabHalf (d : Nat) : Nat := if d < 2 then 0 else 1

/-- R270, R276: the port of that die for a compute die: the nearer one's or the farther one's pair, by bit 0 of the flow. -/
def computePort (d flow : Nat) : Nat := (if d = 0 || d = 3 then 16 else 18) + flow % 2

/-- The spine port that a flow's flits take: one path for one flow (R276). Which of the four is the model's choice
(DESIGN CHOICE, notes/assumptions/114). -/
def spinePort (flow : Nat) : Nat := 20 + flow % 4

/-- A flit is received good at a port (R292, R467). -/
def State.countRx (s : State) (f p : Nat) : State := (s.add (F.FAB_PORT_CNT_RX.count f p) 1).fabEvent f 0x06 1

/-- A flit leaves through a port (R292, R467). -/
def State.countTx (s : State) (f p vc : Nat) : State :=
  let s := ((s.add (F.FAB_PORT_CNT_TX.count f p) 1).fabEvent f (2 + vc) 1).fabEvent f (0x20 + p) 1
  if isSpine p then s.fabEvent f 0x0F 1 else s

/-- A flit crosses the spine from fabric die `f` within the step that sends it. -/
def State.crossSpine (s : State) (f flow vc : Nat) : State :=
  (s.countTx f (spinePort flow) vc).countRx (1 - f) (spinePort flow)

/-- R276: a flit of a flow comes from compute die `d` to the fabric die that its flow ID names; from the other half it crosses
the spine. The hop takes place within the step that sends the flit (DESIGN CHOICE, notes/assumptions/114). -/
def State.fromDie (s : State) (d flow vc : Nat) : State :=
  let s := s.countRx (fabHalf d) (computePort d flow)
  if fabHalf d = flow / 8192 then s else s.crossSpine (fabHalf d) flow vc

/-- R276: a flit of a flow goes from the fabric die that its flow ID names to compute die `d`. -/
def State.toDie (s : State) (d flow vc : Nat) : State :=
  let s := if fabHalf d = flow / 8192 then s else s.crossSpine (1 - fabHalf d) flow vc
  s.countTx (fabHalf d) (computePort d flow) vc

/-- A flit for this module waits for its unit. -/
def State.toInbox (s : State) (inPort : Option Nat) (x : Flit) : State :=
  if x.unlisted then (s.count (F.FAB_CNT_HDR.count x.home) (fabErrc x.home 5) 1).freeBuf x.home inPort x.vc else
  { s with fab := { s.fab with inbox := s.fab.inbox ++ [(x.home, inPort, x)] } }

/-- A flit joins an output queue. An optical port that is not UP takes none: the flit is lost, as R289 states for one that
waits there. -/
def State.enqueueOut (s : State) (f p : Nat) (inPort : Option Nat) (x : Flit) : State :=
  if isOptical p && s.portState f p != PortState.up then
    (s.count (F.FAB_CNT_LOST.count f) (fabErrc f 0xD) 1).freeBuf f inPort x.vc
  else s.mapPort f p fun q => { q with out := q.out ++ [(inPort, x)] }

/-- A broadcast flit's own copy for this module reaches the die of its unit. -/
def State.ownCopy (s : State) (f : Nat) (x : Flit) : State :=
  (if x.home = f then s else s.crossSpine f x.flow x.vc).toInbox none x

/-- A routed flit takes its way: to the inbox of its die, across the spine to it (R276), to output queues, or it is dropped
and counted. A flit that goes one way holds its buffer until it leaves; one that is copied, or dropped, frees it at once
(DESIGN CHOICE, notes/assumptions/114). -/
def State.dispatchFlit (s : State) (f : Nat) (inPort : Option Nat) (x : Flit) : State :=
  match s.route f inPort x with
  | .deliver => if x.home = f then s.toInbox inPort x else s.enqueueOut f (spinePort x.flow) inPort x
  | .dropRoute => (s.count (F.FAB_CNT_ROUTE.count f) (fabErrc f 6) 1).freeBuf f inPort x.vc
  | .dropLoop => (s.count (F.FAB_CNT_LOOP.count f) (fabErrc f 8) 1).freeBuf f inPort x.vc
  | .send ports own detour =>
    let copied := own || decide (ports.length ≠ 1)
    let s1 := if own then s.ownCopy f x else s
    let s1 := if copied then s1.freeBuf f inPort x.vc else s1
    let held := if copied then none else inPort
    let s2 := if detour then
        let s' := (s1.add (F.FAB_CNT_DETOUR.count f) 1).fabEvent f 0x0E 1
        { s' with fab := { s'.fab with schedAt := s'.fab.schedAt.set (4 * f + 2) ((ports.headD 0 + 1) % 16) } }
      else s1
    let x1 := if detour then x.set 8 1 1 else x
    ports.foldl (fun s p =>
      (if inPort.isSome && isOptical p then s.fabEvent f 0x07 1 else s).enqueueOut f p held x1) s2

/-- A NACK to a flit's src: the tile and addr fields it refuses, and the cause. -/
def State.nackFlit (s : State) (x : Flit) (tile addr cause : Nat) : Flit :=
  Hdr.flit { kind := 5, vc := 2, dst := x.src, src := s.node, flow := x.flow, epoch := x.epoch,
             spec := tile + addr * 2 ^ 13 + cause * 2 ^ 30 } 0

/-- R263 check 4: a WRITE or CREDIT whose tile has a row of 48 to 63 is dropped, a WRITE with a NACK of cause 4. -/
def State.badRow (s : State) (f : Nat) (x : Flit) : State :=
  let s := s.count (F.FAB_CNT_HDR.count f) (fabErrc f 5) 1
  if x.kind = 1 then s.dispatchFlit f none (s.nackFlit x (x.f 68 13) (x.f 81 17) 4) else s

def Flit.rowBad (x : Flit) : Bool := (x.kind == 1 || x.kind == 3) && decide (48 ≤ gidRow (x.f 68 13))

/-- A flit of this module enters the router of fabric die `f`, which checks it as any other (R263). -/
def State.inject (s : State) (f : Nat) (x : Flit) : State :=
  if x.rowBad then s.badRow f x else s.dispatchFlit f none x

end Sys2Proof.Machine
end

