-- ==== Sys2Proof/Machine/Hbm.lean ====
section
/-! DEFINITION. The HBM stacks (R237-R243, R249-R253): segments with their flags and error protection, region slots,
dirty granules and scrub, and the record rings that units write into a region (R456, R468). -/

namespace Sys2Proof.Machine

/-- The key of stack address `a` of physical stack `p` of die `d` (R237). -/
def hbmKey (d p a : Nat) : Nat := (6 * d + p) * 2 ^ 36 + a

/-! Descriptors (R244). -/

def strPal (d : Row) : Nat := d.field 0 21
def strRgn (d : Row) : Nat := d.field 24 6
def strOff (d : Row) : Nat := d.field 32 36
def strRows (d : Row) : Nat := d.field 96 15 + 1
def strLines (d : Row) : Nat := d.field 112 16 + 1
def strHStride (d : Row) : Nat := d.field 128 36
def strPStride (d : Row) : Nat := d.field 192 15

/-- The Palette row and the region offset of row `r` of line `l`. -/
def strPalAt (d : Row) (l r : Nat) : Nat := strPal d + 64 * (l * strPStride d + r)
def strHbmAt (d : Row) (l r : Nat) : Nat := strOff d + l * strHStride d + 64 * r

/-! Segments (R239). -/

def State.hbmRead (s : State) (d p a n : Nat) : Nat := memRead s.hbm.mem (hbmKey d p a) n
def State.hbmPoison (s : State) (d p seg : Nat) : Bool := SMap.getD s.hbm.pois (hbmKey d p (16 * seg) / 16) false

/-- A segment stored whole with its flag and valid check bits. -/
def State.hbmSetSeg (s : State) (d p seg v : Nat) (pois : Bool) : State :=
  let k := hbmKey d p (16 * seg)
  { s with hbm := { s.hbm with mem := memWrite s.hbm.mem k 16 v, pois := SMap.put s.hbm.pois (k / 16) pois false,
                               err := SMap.put s.hbm.err (k / 16) 0 0 } }

/-- R239: an error is counted and recorded; the syndrome is a free value (R105). -/
def State.hbmError (s : State) (d p seg mark : Nat) : State :=
  let ue := !singleBit mark
  let s1 := if ue then s.count (F.HBM_SE_CNT_UE.count d p) (dieErrc d (0x1A + p)) 1
    else s.count (F.HBM_SE_CNT_CE.count d p) (dieErrc d (0x14 + p)) 1
  (((s1.put (F.HBM_SE_ELOG.seg d p) seg).put (F.HBM_SE_ELOG.ue d p) ue.toNat).put (F.HBM_SE_ELOG.syndrome d p)
    (syndrome mark)).put (F.HBM_SE_ELOG.valid d p) 1

/-- A read of one segment through its engine: the corrected data and its flag. -/
def State.hbmReadSeg (s : State) (d p seg : Nat) : Nat × Bool × State :=
  let k := hbmKey d p (16 * seg) / 16
  let e := SMap.getD s.hbm.err k 0
  if e = 0 then (s.hbmRead d p (16 * seg) 16, s.hbmPoison d p seg, s)
  else if singleBit e then
    let s1 := s.hbmError d p seg e
    (s.hbmRead d p (16 * seg) 16, s.hbmPoison d p seg,
      { s1 with hbm := { s1.hbm with err := SMap.put s1.hbm.err k 0 0 } })
  else (2 ^ 128 - 1, true, (s.hbmError d p seg e).hbmSetSeg d p seg (2 ^ 128 - 1) true)

/-- A partial write into a segment merges with it as a Palette's does (R108): what is kept, with its flag. -/
def State.hbmMerge (s : State) (d p seg : Nat) : Nat × Bool × State :=
  let k := hbmKey d p (16 * seg) / 16
  let e := SMap.getD s.hbm.err k 0
  if e = 0 then (s.hbmRead d p (16 * seg) 16, s.hbmPoison d p seg, s)
  else
    (if singleBit e then s.hbmRead d p (16 * seg) 16 else 2 ^ 128 - 1, !singleBit e || s.hbmPoison d p seg,
      s.hbmError d p seg e)

/-- Segments `seg` to `seg + n - 1` as one number with their flags, lowest first. -/
def State.hbmReadSegs (s : State) (d p seg : Nat) : Nat → Nat × List Bool × State
  | 0 => (0, [], s)
  | n + 1 =>
    let (v, b, s1) := s.hbmReadSeg d p seg
    let (vs, bs, s2) := s1.hbmReadSegs d p (seg + 1) n
    (v + 2 ^ 128 * vs, b :: bs, s2)

def State.hbmWriteSegs (s : State) (d p seg v : Nat) (marks : List Bool) : Nat → State
  | 0 => s
  | n + 1 => (s.hbmSetSeg d p seg (v % 2 ^ 128) (marks.headD false)).hbmWriteSegs d p (seg + 1) (v / 2 ^ 128)
      marks.tail n

/-- The parts of a write, one a segment; only a part of a segment reads it. -/
def State.hbmParts (s : State) (d p a n v : Nat) : Nat → State
  | 0 => s
  | k + 1 =>
    if n = 0 then s else
    let off := a % 16
    let m := min n (16 - off)
    if m = 16 then (s.hbmSetSeg d p (a / 16) (v % 2 ^ 128) false).hbmParts d p (a + m) (n - m) (v / 256 ^ m) k
    else
      let (old, pois, s1) := s.hbmMerge d p (a / 16)
      let new := old - old / 256 ^ off % 256 ^ m * 256 ^ off + v % 256 ^ m * 256 ^ off
      (s1.hbmSetSeg d p (a / 16) new pois).hbmParts d p (a + m) (n - m) (v / 256 ^ m) k

/-- `n` bytes of `v` stored at any byte address; a part of a segment keeps the segment's other bytes and its flag
(R108). -/
def State.hbmWrite (s : State) (d p a n v : Nat) : State :=
  s.hbmParts d p a n v (segsOf a n)

/-- Entries with keys from `lo` below `hi` removed. -/
def SMap.clear {α : Type} (m : SMap α) (lo hi : Nat) : SMap α :=
  m.filter fun q => decide (q.1 < lo) || decide (hi ≤ q.1)

/-- R253: granule `g` of a stack becomes zero data with flags clear. -/
def State.hbmZero (s : State) (d p a n : Nat) : State :=
  let k := hbmKey d p a
  { s with hbm := { s.hbm with mem := SMap.clear s.hbm.mem k (k + n), pois := SMap.clear s.hbm.pois (k / 16) ((k + n) / 16),
                               err := SMap.clear s.hbm.err (k / 16) ((k + n) / 16) } }

/-! Sets of granules: disjoint intervals [lo, hi), rising, none touching the next. -/

def ivAdd : List (Nat × Nat) → Nat → Nat → List (Nat × Nat)
  | [], a, b => if a < b then [(a, b)] else []
  | (x, y) :: l, a, b =>
    if b ≤ a then (x, y) :: l
    else if b < x then (a, b) :: (x, y) :: l
    else if y < a then (x, y) :: ivAdd l a b
    else ivAdd l (min a x) (max b y)

def ivDel : List (Nat × Nat) → Nat → Nat → List (Nat × Nat)
  | [], _, _ => []
  | (x, y) :: l, a, b =>
    (if x < min y a then [(x, min y a)] else []) ++ (if max x b < y then [(max x b, y)] else []) ++ ivDel l a b

def ivCount (l : List (Nat × Nat)) : Nat := (l.map fun q => q.2 - q.1).foldl (· + ·) 0
def ivMeets (l : List (Nat × Nat)) (a b : Nat) : Bool := l.any fun q => decide (q.1 < b) && decide (a < q.2)

/-! Dirty granules (R252, R253). -/

def State.dirty (s : State) (d p : Nat) : List (Nat × Nat) := SMap.getD s.hbm.dirty (6 * d + p) []

/-- The dirty set replaced; HBM_SCRUB shows it, and scrub that was not active begins at its lowest granule. -/
def State.setDirty (s : State) (d p : Nat) (l : List (Nat × Nat)) : State :=
  let s1 := { s with hbm := { s.hbm with dirty := SMap.put s.hbm.dirty (6 * d + p) l [] } }
  let n := ivCount l
  let s2 := if s.get (F.HBM_SCRUB.active d p) = 0 then s1.put (F.HBM_SCRUB.next d p) ((l.head?.map (·.1)).getD 0) else s1
  (s2.put (F.HBM_SCRUB.dirty d p) n).put (F.HBM_SCRUB.active d p) (if n = 0 then 0 else 1)

def State.markDirty (s : State) (d p lo hi : Nat) : State := s.setDirty d p (ivAdd (s.dirty d p) lo hi)

/-! Region slots (R240-R243). -/

/-- The physical stack that serves a logical stack (R249). -/
def State.stackOf (s : State) (d l : Nat) : Nat := s.get (F.HBM_SEMAP.phys d) / 8 ^ l % 8

/-- A region slot: its physical stack, its first granule, its granules, its permissions and its state. -/
structure Rgn where
  die : Nat
  lstack : Nat
  stack : Nat
  base : Nat
  count : Nat
  rd : Bool
  wr : Bool
  state : Nat
  deriving DecidableEq, Repr

def State.rgn (s : State) (d c k : Nat) : Rgn :=
  { die := d, lstack := s.get (F.HBM_RGN.lstack d c k), stack := s.stackOf d (s.get (F.HBM_RGN.lstack d c k)),
    base := s.get (F.HBM_RGN.base d c k), count := s.get (F.HBM_RGN.count_m1 d c k) + 1,
    rd := s.get (F.HBM_RGN.rd d c k) = 1, wr := s.get (F.HBM_RGN.wr d c k) = 1,
    state := s.get (F.HBM_RGN.state d c k) }

def Rgn.active (r : Rgn) : Bool := r.state == 1
def Rgn.bytes (r : Rgn) : Nat := r.count * 2 ^ 21
def Rgn.addr (r : Rgn) (off : Nat) : Nat := r.base * 2 ^ 21 + off
/-- Whether bytes `off` to `off + n - 1` lie in the region. -/
def Rgn.holds (r : Rgn) (off n : Nat) : Bool := decide (off + n ≤ r.bytes)

/-- An engine's state (R248): 0 OFF, 1 ON, 2 DRAINING, 3 PENDING_ENABLE, 4 FAILED. -/
def State.engState (s : State) (d p : Nat) : Nat := s.get (F.HBM_SE_STATUS.state d p)

/-- A transfer that starts in cycle `c`. -/
def Xfer.begin (p : Nat) (o : QOp) (d k ctx slot base count c : Nat) : Xfer :=
  { tile := p, op := o, die := d, stack := k, ctx := ctx, slot := slot, base := base, count := count, start := c,
    revoked := false, dead := false, asked := 0, issued := 0, lastReq := 0, due := 0, moved := 0, last := 0, bad := false }

/-- The rows of a transfer, and the stack address of an offset of its region. -/
def Xfer.total (x : Xfer) : Nat := strRows x.op.desc * strLines x.op.desc
def Xfer.addr (x : Xfer) (off : Nat) : Nat := x.base * 2 ^ 21 + off

/-- The transfer that a tile's operation has started. -/
def Xfer.names (x : Xfer) (p id : Nat) : Bool := x.tile == p && x.op.id == id && !x.dead

/-- Started, incomplete transfers of an engine. -/
def State.xfersOn (s : State) (d p : Nat) : List Xfer := s.hbm.xfers.filter fun x => x.die == d && x.stack == p && !x.dead

/-- HBM_SE_STATUS.tiles follows the started transfers. -/
def State.showTiles (s : State) (d p : Nat) : State :=
  s.put (F.HBM_SE_STATUS.tiles d p) ((s.xfersOn d p).map (·.tile)).eraseDups.length

/-! Record rings (R456, R468). -/

/-- A record of 32 bytes into a ring of 2^(lg + 10) records at byte `off` of a slot, unless it is full or the slot may
not be written; the first component says whether it was. -/
def State.ringWrite (s : State) (d c k lg off tail head : Nat) (r : Record) : Bool × State :=
  let rg := s.rgn d c k
  let n := 2 ^ (lg + 10)
  let at_ := off * 256 + 32 * (tail % n)
  if rg.active && rg.wr && rg.holds at_ 32 && decide ((tail + 2 ^ 32 - head) % 2 ^ 32 < n) then
    (true, s.hbmWrite d rg.stack (rg.addr at_) 32 (r.zipIdx.foldl (fun v b => v + b.1.toNat * 256 ^ b.2) 0))
  else (false, s)

/-- R456: a hazard record for the die's Pentimento ring. -/
def State.penRecord (s : State) (d : Nat) (r : Record) : State :=
  if s.get (F.PEN_CTL.ring_en d) = 0 then s else
  let tail := s.get (F.PEN_RPTR.tail d)
  let (ok, s1) := s.ringWrite d (s.get (F.PEN_RING.ctx d)) (s.get (F.PEN_RING.rgn d)) (s.get (F.PEN_RING.size_log2 d))
    (s.get (F.PEN_RING.off d)) tail (s.get (F.PEN_RPTR.head d)) r
  if ok then s1.put (F.PEN_RPTR.tail d) (tail + 1) else s1.add (F.PEN_CNT_DROP.count d) 1

/-- R468: a sample record offered in cycle `c`. The ring takes one record a tc from a queue of 32. -/
def State.smpRecord (s : State) (d c : Nat) (r : Record) : State :=
  let free := s.rep.smpFree.getD d 0
  let drop (s : State) : State := s.add (F.SMP_CNT_DROP.count d) 1
  if c + 32 ≤ free then drop s
  else
    let s := { s with rep := { s.rep with smpFree := s.rep.smpFree.set d (max free c + 1) } }
    if s.get (F.SMP_RING.ring_en d) = 0 then drop s else
    let tail := s.get (F.SMP_RPTR.tail d)
    let (ok, s1) := s.ringWrite d (s.get (F.SMP_RING.ctx d)) (s.get (F.SMP_RING.rgn d)) (s.get (F.SMP_RING.size_log2 d))
      (s.get (F.SMP_RING.off d)) tail (s.get (F.SMP_RPTR.head d)) r
    if ok then s1.put (F.SMP_RPTR.tail d) (tail + 1) else drop s1

end Sys2Proof.Machine
end

