-- ==== Sys2Proof/Machine/Slots.lean ====
section
/-! DEFINITION. The snapshot slots of a context (R376-R380, R406). -/

namespace Sys2Proof.Machine

/-! The slots of a context (R379, R406). -/

def State.vctx (s : State) (c : Nat) : VrnCtx := SMap.getD s.vrn.ctxs c VrnCtx.fresh
def State.setVctx (s : State) (c : Nat) (x : VrnCtx) : State :=
  { s with vrn := { s.vrn with ctxs := SMap.put s.vrn.ctxs c x VrnCtx.fresh } }
def State.mapVctx (s : State) (c : Nat) (g : VrnCtx → VrnCtx) : State := s.setVctx c (g (s.vctx c))

def State.vrnOn (s : State) (c : Nat) : Bool := s.get (F.VRN_CTX_W0.en c) == 1
def State.slotLen (s : State) (c : Nat) : Nat := s.get (F.VRN_CTX_W1.slot_m1 c) + 1
def State.imgSize (s : State) (c : Nat) : Nat := s.get (F.VRN_CTX_W1.img_m1 c) + 1

/-- The first staging granule of a place: slots 0 to 2 local, 3 and 4 buddy, 5 the buddy image area, 6 the local one. -/
def State.placeGran (s : State) (c k : Nat) : Nat :=
  let b := s.get (F.VRN_CTX_W1.base c)
  let l := s.slotLen c
  match k with
  | 5 => b + 5 * l + s.imgSize c
  | 6 => b + 3 * l
  | _ => if k < 3 then b + k * l else b + 3 * l + s.imgSize c + (k - 3) * l

/-- A slot's state: 0 FREE, 1 WRITING, 2 LOCAL, 3 COMPLETE, 5 LOST. -/
def State.slotState (s : State) (c k : Nat) : Nat := s.get (F.VRN_CTX_W6.slots c) / 8 ^ k % 8
def State.setSlotState (s : State) (c k v : Nat) : State :=
  let w := s.get (F.VRN_CTX_W6.slots c)
  s.put (F.VRN_CTX_W6.slots c) (w - w / 8 ^ k % 8 * 8 ^ k + v * 8 ^ k)

def State.pinned (s : State) (c k : Nat) : Bool := (s.get (F.VRN_CTX_W6.pinned c)).testBit k
def State.setPin (s : State) (c k : Nat) (v : Bool) : State :=
  let w := s.get (F.VRN_CTX_W6.pinned c)
  s.put (F.VRN_CTX_W6.pinned c) (if v then w ||| 2 ^ k else w &&& (31 - 2 ^ k))

def VrnCtx.slot (x : VrnCtx) (k : Nat) : VrnSlot := x.slots.getD k VrnSlot.fresh
def VrnCtx.setSlot (x : VrnCtx) (k : Nat) (v : VrnSlot) : VrnCtx := { x with slots := x.slots.set k v }

def State.vslot (s : State) (c k : Nat) : VrnSlot := (s.vctx c).slot k
def State.mapSlot (s : State) (c k : Nat) (g : VrnSlot → VrnSlot) : State :=
  s.mapVctx c fun x => x.setSlot k (g (x.slot k))

/-- Whether a slot holds a snapshot that can be restored. -/
def State.slotHolds (s : State) (c k : Nat) : Bool := s.slotState c k == 2 || s.slotState c k == 3

/-- The local slot that holds snapshot `seq`. -/
def State.localSlot (s : State) (c seq : Nat) : Option Nat :=
  (List.range 3).find? fun k => s.slotHolds c k && (s.vslot c k).seq == seq

/-- The slot, local or buddy, that holds snapshot `seq` (R367). -/
def State.heldSlot (s : State) (c seq : Nat) : Option Nat :=
  (List.range 5).find? fun k => s.slotHolds c k && (s.vslot c k).seq == seq

/-- W4 and W5 show the newest LOCAL and COMPLETE local snapshots. -/
def State.showNewest (s : State) (c : Nat) : State :=
  let held := (List.range 3).filter fun k => s.slotHolds c k
  let full := held.filter fun k => s.slotState c k == 3
  let top (l : List Nat) : Nat := l.foldl (fun m k => max m (s.vslot c k).seq) 0
  (((s.put (F.VRN_CTX_W4.seq c) (top held)).put (F.VRN_CTX_W4.valid c) (!held.isEmpty).toNat).put (F.VRN_CTX_W5.seq c)
    (top full)).put (F.VRN_CTX_W5.valid c) (!full.isEmpty).toNat

/-- The local slot of a context that is WRITING. -/
def State.writing (s : State) (c : Nat) : Option Nat := (List.range 3).find? fun k => s.slotState c k == 1

/-- R377: a write into captured memory of a slot of a context while its snapshot is being written. -/
def State.tearSlot (s : State) (c k : Nat) : State := s.mapSlot c k fun x => { x with torn := true }

/-- The method of a region slot (R380). -/
def State.method (s : State) (c d k : Nat) : Nat := s.get (F.VRN_METH.meth c d (k / 32)) / 4 ^ (k % 32) % 4

/-- R377: a write by a transfer or the host into a region slot. -/
def State.tearRegion (s : State) (c d k : Nat) : State := match s.writing c with
  | some w => if s.method c d k = 0 then s else s.tearSlot c w
  | none => s

end Sys2Proof.Machine
end

