-- ==== Sys2Proof/Machine/Flush.lean ====
section
/-! DEFINITION. What a tile's command does outside the tile: error totals, suspect events, performance events, records,
send claims, watched records and credits (R98, R119, R407-R414, R454, R456, R465-R469). -/

namespace Sys2Proof.Machine

/-! Performance events and histograms. -/

/-- A compute-die event (R466). -/
def State.dieEvent (s : State) (d code n : Nat) : State :=
  { s with regs := (dieSet d).event moduleReset s.regs code n }

/-- R466: a tile event of context `c` summed over the die, unless the filter names another context. -/
def State.tileEvent (s : State) (d c code n : Nat) : State :=
  if s.get (F.DPC_FILT.en d) = 1 && s.get (F.DPC_FILT.ctx d) ≠ c then s else s.dieEvent d code n

/-- R469: the bin of a latency under shift `sh`. -/
def histBin (sh l : Nat) : Nat := if l < 2 ^ sh then 0 else min 15 (Nat.log2 (l / 2 ^ sh) + 1)

/-- R469: a latency recorded in the histogram at register `base`; a bin saturates. -/
def State.hist (s : State) (base sh l : Nat) : State :=
  let b := histBin sh l
  let f : RF := ⟨base + 8 * (b / 2), 32 * (b % 2), 32⟩
  s.put f (min (s.get f + 1) (2 ^ 32 - 1))

/-! Rows of transfers (R246). -/

/-- A row of a transfer has moved through an engine (R256, R466). -/
def State.rowCount (s : State) (d k : Nat) : State := (s.add (F.HBM_SE_CNT_ROWS.count d k) 1).dieEvent d (0x40 + k) 1

/-- A row of a tile's transfer has moved in cycle `c`. -/
def State.rowMoved (s : State) (p id c : Nat) (viol : Bool) : State :=
  let moved (x : Xfer) : Xfer :=
    if x.names p id then { x with moved := x.moved + 1, last := max x.last c, bad := x.bad || viol } else x
  { s with hbm := { s.hbm with xfers := s.hbm.xfers.map moved } }

/-- A row of an SLOAD has been granted at its tile's edge port in cycle `c`. -/
def State.rowIn (s : State) (p id c : Nat) (viol : Bool) : State :=
  match s.hbm.xfers.find? fun x => x.names p id with
  | some x => (s.rowCount x.die x.stack).rowMoved p id c viol
  | none => s

/-- The order in which the stacks accept rows. -/
def insertAccept (w : HbmWrite) : List HbmWrite → List HbmWrite
  | [] => [w]
  | v :: l => if w.due < v.due then w :: v :: l else v :: insertAccept w l

/-- A row of an SSTORE has left its tile: it is requested of the stack in cycle `req`, which accepts it in `due`. -/
def State.rowOut (s : State) (p id row req due v : Nat) (marks : List Bool) (viol : Bool) : State :=
  match s.hbm.xfers.find? fun x => x.names p id with
  | some x =>
    let n := strRows x.op.desc
    let w := HbmWrite.mk due x.die x.stack (x.addr (strHbmAt x.op.desc (row / n) (row % n))) v marks (some (p, id)) x.ctx x.slot viol
    let asked (y : Xfer) : Xfer :=
      if y.names p id then { y with issued := y.issued + 1, lastReq := max y.lastReq req, due := max y.due due } else y
    { s with hbm := { s.hbm with accepts := insertAccept w s.hbm.accepts, xfers := s.hbm.xfers.map asked } }
  | none => s

/-- The stack accepts a row: it is written, whatever has become of its transfer (R254). -/
def State.accept1 (s : State) (w : HbmWrite) : State :=
  let s := ((s.hbmWriteSegs w.die w.stack (w.addr / 16) w.v w.marks 4).tearRegion w.ctx w.die w.slot).rowCount w.die w.stack
  match w.own with
  | some (p, id) => s.rowMoved p id w.due w.viol
  | none => s

/-- A stack has accepted the rows due by cycle `c`. -/
def State.acceptDue (s : State) (d k c : Nat) : State :=
  let hit (w : HbmWrite) : Bool := w.die == d && w.stack == k && decide (w.due ≤ c)
  let l := s.hbm.accepts.filter hit
  let s := { s with hbm := { s.hbm with accepts := s.hbm.accepts.filter fun w => !hit w } }
  l.foldl State.accept1 s

/-! Suspect events (R414). -/

/-- R423: the audits of a physical tile are abandoned. -/
def State.endAudits (s : State) (p : Nat) : State :=
  let k := p / 34
  let a := SMap.getD s.rep.audits k Audit.fresh
  let hit (m : Mig) : Bool := m.purpose == 3 && 48 * m.die + m.row == k
  let b : Audit := { a with phase := 0, first := none, release := false, ended := s.now }
  if a.phase = 0 || s.servingCol (physDie p) (physRow p) a.target ≠ physCol p then s else
  let audits := SMap.put s.rep.audits k b Audit.fresh
  let migs := s.rep.migs.filter fun m => !hit m
  { s with rep := { s.rep with audits := audits, migs := migs } }.errc (dieErrc (physDie p) 0x2B) 1

/-- A suspect event joins the die's queue of 16, or is discarded and counted; a tile that faults ends its audit. -/
def State.suspect (s : State) (p code : Nat) : State :=
  let d := physDie p
  let s := if code = 6 then s.endAudits p else s
  if 16 ≤ (s.rep.suspects.filter fun q => q.1 == d).length then s.errc 8 1
  else
    let s1 := { s with rep := { s.rep with suspects := s.rep.suspects ++ [(d, p, code)] } }
    (((s1.put (F.REP_SLAST.row d) (physRow p)).put (F.REP_SLAST.col d) (physCol p)).put (F.REP_SLAST.code d) code).put
      (F.REP_SLAST.valid d) 1

/-- R388: a member that takes part in recovery sends EVENT (a CTRL message, R389) to the coordinator: kind 3 a stack, 4 a
tile, 5 an overrun, 6 a relation. -/
def State.sendEvent (s : State) (kind ctx : Nat) : State :=
  if s.get F.RCV_CTL.en = 1 && s.get F.TICK_PEERS.master_valid = 1 then
    s.inject 0 (Hdr.flit { kind := 8, vc := 3, dst := s.get F.TICK_PEERS.master_id, src := s.node }
      (4 + s.node * 2 ^ 16 + ctx * 2 ^ 48 + kind * 2 ^ 192 + s.get F.RCV_STATUS.gen * 2 ^ 224))
  else s

/-- The same for a protected context (R388). -/
def State.ctxEvent (s : State) (kind ctx : Nat) : State := if s.vrnOn ctx then s.sendEvent kind ctx else s

/-- R98: the first faulted tile of a context on a die; of two in one cycle, the lower ID. -/
def State.tileFaulted (s : State) (d ctx gid code c : Nat) : State :=
  let s := s.ctxEvent 4 ctx
  let k := 64 * d + ctx
  if s.get (F.LDR_CTX_FAULT.valid d ctx) = 0 ||
      (SMap.getD s.rep.faultAt k 0 = c && gid < s.get (F.LDR_CTX_FAULT.tile d ctx)) then
    let s1 := { s with rep := { s.rep with faultAt := SMap.put s.rep.faultAt k c 0 } }
    ((s1.put (F.LDR_CTX_FAULT.tile d ctx) gid).put (F.LDR_CTX_FAULT.code d ctx) code).put (F.LDR_CTX_FAULT.valid d ctx) 1
  else s

/-! Flits of this module (R260-R262, R336). -/

/-- A field of a flow context is read by flow ID. -/
def flowDie (i : Nat) : Nat := i / 8192
def flowIdx (i : Nat) : Nat := i % 8192

def State.flowPeer (s : State) (i : Nat) : Nat := s.get (F.FAB_FLOW_W0.peer (flowDie i) (flowIdx i))
def State.flowEpoch (s : State) (i : Nat) : Nat := s.get (F.FAB_FLOW_W0.epoch (flowDie i) (flowIdx i))
def State.flowState (s : State) (i : Nat) : Nat := s.get (F.FAB_FLOW_W0.state (flowDie i) (flowIdx i))
def State.flowActive (s : State) (i : Nat) : Bool := s.flowState i == 1

/-- A CREDIT flit of a receive window (R119, R122, R262). -/
def State.creditFlit (s : State) (flow epoch tile slot first n nbuf rows base : Nat) : Flit :=
  Hdr.flit { kind := 3, vc := 2, dst := s.flowPeer flow, src := s.node, flow := flow, epoch := epoch,
             spec := tile + slot * 2 ^ 13 + first * 2 ^ 15 + rows * 2 ^ 21 + nbuf * 2 ^ 33 } (base + n * 2 ^ 16)

/-- An ACK carrying a resolved count. -/
def State.ackFlit (s : State) (flow resolved : Nat) : Flit :=
  Hdr.flit { kind := 4, vc := 2, dst := s.flowPeer flow, src := s.node, flow := flow, epoch := s.flowEpoch flow,
             spec := resolved % 2 ^ 24 } 0

/-! Translation (R328). -/

/-- The counter whose W1 register a key names. -/
def pcntOf (a : Nat) : Option (Nat × Nat) :=
  let off := (a - 0x120008) % 0x100000
  if 0x120008 ≤ a && decide ((a - 0x120008) / 0x100000 < 4) && decide (off < 0x20000) && off % 0x20 == 0 then
    some ((a - 0x120008) / 0x100000, off / 0x20)
  else none

/-- The bound counters, as (die, index). -/
def State.boundCounters (s : State) : List (Nat × Nat) :=
  s.regs.filterMap fun q => match pcntOf q.1 with
    | some (d, i) => if s.get (F.SYN_PCNT_W0.bound d i) = 1 then some (d, i) else none
    | none => none

/-- R328: the bound counter of a context's virtual ID: its die, its index and its epoch. -/
def State.translate (s : State) (ctx vcid : Nat) : Option (Nat × Nat × Nat) :=
  (s.boundCounters.find? fun q => s.get (F.SYN_PCNT_W1.ctx q.1 q.2) == ctx && s.get (F.SYN_PCNT_W1.vcid q.1 q.2) == vcid).map
    fun q => (q.1, q.2, s.get (F.SYN_PCNT_W0.epoch q.1 q.2))

/-! Tiles. -/

/-- What a tile sees of the module. -/
def State.env (s : State) (p : Nat) : Env :=
  let t := s.tile p
  let c := t.get TF.TILE_SELF.context
  { tile := t.get TF.TILE_SELF.tile_id, phys := p, ctx := c, tick := s.get F.TICK_NUMBER.number,
    perf := (s.word (0x40000 + 8 * c)).toNat % 8,
    served := fun g => if gidDie g = physDie p then s.phys g else none,
    mbs := fun k => (SMap.getD s.train.mbs c MbsSt.fresh).rel.getD k 0 }

/-- The order of R227 among the senders of a die. -/
def sendRank (p : Nat) : Nat := 64 * physCol p + physRow p

/-- R222, R227: of the sends that reach a tile in one cycle, the one it keeps takes a bank, row `row`'s; sender `p` may
displace another. -/
def State.expect (s : State) (p dest row c : Nat) : State :=
  let first := s.tiles.all fun q => q.1 == p || decide (sendRank p < sendRank q.1) ||
    !(q.2.flying.any fun x => x.dest == some dest && x.due == c)
  if !first || (s.tile dest).gesso then s
  else s.mapTile dest fun t =>
    { t with claims := t.claims.filter fun q => !(q.1 == c && q.2.2 == 1) }.grant c (row % 16) 1

/-- One effect of a tile outside it; increments are left to the sync engines. -/
def State.effect (s : State) (p : Nat) (e : Env) (cyc : Nat) : Ev → State
  | .errc off n => s.errc (dieErrc (physDie p) off) n
  | .suspect code => s.suspect p code
  | .faulted code => s.tileFaulted (physDie p) e.ctx e.tile code cyc
  | .credits flow epoch slot first n nbuf rows base =>
    if s.flowActive flow then
      (s.fromDie (physDie p) flow 2).inject (flowDie flow) (s.creditFlit flow epoch e.tile slot first n nbuf rows base)
    else s
  | .signal _ _ => s
  | .perf code n => s.tileEvent (physDie p) e.ctx code n
  | .sample r => s.smpRecord (physDie p) cyc r
  | .hazard n r => if n % 2 ^ s.get (F.PEN_CTL.rate_log2 (physDie p)) = 0 then s.penRecord (physDie p) r else s
  | .arrive dest row c => s.expect p dest row c
  | .claim dest row c who => s.mapTile dest fun t => if t.pen then { t with penSoon := t.penSoon ++ [(c, row, who)] } else t
  | .rowIn op k viol => s.rowIn p op k viol
  | .rowOut op row req due v marks viol => s.rowOut p op row req due v marks viol
  | .request op =>
    { s with syn := { s.syn with reqs := s.syn.reqs ++ [⟨p, e.ctx, (s.tile p).model, op, s.translate e.ctx op.vcid⟩] } }
  | .watch layer r0 r1 poison skips =>
    { s with train := { s.train with records := s.train.records ++ [⟨e.ctx, layer, r0, r1, poison, skips⟩] } }

def State.effects (s : State) (p : Nat) (e : Env) (cyc : Nat) : List Ev → State
  | [] => s
  | v :: vs => (s.effect p e cyc v).effects p e cyc vs

/-- A function of a physical tile, with its effects but for increments, which are handed back. -/
def State.onTileGo (s : State) (p : Nat) (f : TW → TW) : State × List Ev :=
  let e := s.env p
  let x := f ⟨s.tile p, [], e⟩
  ((s.setTile p x.t).effects p e x.t.cyc x.out,
   x.out.filter fun v => match v with
    | .signal _ _ => true
    | _ => false)

def State.onTileLow (s : State) (p : Nat) (f : TW → TW) : State := (s.onTileGo p f).1

end Sys2Proof.Machine
end

