-- ==== Sys2Proof/Machine/Sync.lean ====
section
/-! DEFINITION. The sync engines (R323-R348): counters, translation, increments and waits, bounded pairs, relations,
rebasing, abandonment, host waits and doorbells. -/

namespace Sys2Proof.Machine

/-! Counters (R323). -/

def State.cnt (s : State) (d i : Nat) : CntSt := SMap.getD s.syn.cnts (4096 * d + i) CntSt.fresh
def State.setCnt (s : State) (d i : Nat) (x : CntSt) : State :=
  { s with syn := { s.syn with cnts := SMap.put s.syn.cnts (4096 * d + i) x CntSt.fresh } }

def State.cval (s : State) (d i : Nat) : Nat := s.get (F.SYN_PCNT_W0.value d i)
def State.bound (s : State) (d i : Nat) : Bool := s.get (F.SYN_PCNT_W0.bound d i) == 1
def State.poisoned (s : State) (d i : Nat) : Bool := s.get (F.SYN_PCNT_W0.poison d i) == 1

/-- R323: the absolute count. -/
def State.absOf (s : State) (d i : Nat) : Word := BitVec.ofNat 64 (s.cval d i) + (s.cnt d i).rb

/-- The bridges between two dies (R331). -/
def dieHops (a b : Nat) : Nat := max a b - min a b

/-- The SYN error total of an offset from XLATE (R413). -/
def synErrc (d k : Nat) : Nat := dieErrc d (0x22 + k)

def State.synXlate (s : State) (d : Nat) : State := s.count (F.SYN_CNT_XLATE.count d) (synErrc d 0) 1
def State.synOvf (s : State) (d : Nat) : State := s.count (F.SYN_CNT_OVF.count d) (synErrc d 1) 1
def State.synBound (s : State) (d : Nat) : State := s.count (F.SYN_CNT_BOUND.count d) (synErrc d 2) 1
def State.synRebase (s : State) (d : Nat) : State := s.count (F.SYN_CNT_REBASE.count d) (synErrc d 3) 1
def State.synEpoch (s : State) (d : Nat) : State := s.count (F.SYN_CNT_EPOCH.count d) (synErrc d 4) 1
def State.synPoison (s : State) (d : Nat) : State := s.count (F.SYN_CNT_POISON.count d) (synErrc d 5) 1
def State.synAbandon (s : State) (d n : Nat) : State := s.count (F.SYN_CNT_ABANDON.count d) (synErrc d 6) n

/-- A rejected doorbell (R346, R413). -/
def State.bellRejected (s : State) (ctx : Nat) : State := s.count (F.DB_CNT_REJ.count ctx) 3 1

/-! Tokens of SIG and WAITGE (R330, R331). -/

/-- A sync operation's token clears in cycle `c`. -/
def TW.syncFinish (x : TW) (o : SyncOp) (status c : Nat) : TW :=
  ((x.map fun t => { t with sync := t.sync.filter (·.id ≠ o.id) }).map fun t => t.clearToken .sync o.td status c).perfOf
    (if o.wait then 0x18 else 0x17) o.org (c - o.org.at_) o.td status

/-- The token of a request clears, unless Gesso has abandoned it. -/
def State.syncDone (s : State) (r : SyncReq) (status c : Nat) : State :=
  if (s.tile r.tile).sync.any (·.id == r.op.id) then s.onTileLow r.tile fun x => x.syncFinish r.op status c else s

/-- The cycle of the requester's die in which an outcome of die `d`'s cycle `c` reaches it (R331). -/
def State.back (s : State) (r : SyncReq) (d c : Nat) : Nat :=
  s.onDie d (physDie r.tile) c + 1 + 12 * dieHops (physDie r.tile) d

/-! Host wait slots (R345). -/

/-- A host wait slot ends. -/
def State.endHostWait (s : State) (c w st : Nat) (mute : Bool) : State :=
  let s1 := (s.put (F.SYNW_HWAIT_W2.state c w) st).put (F.SYNW_HWAIT_W1.arm c w) 0
  if s.get (F.SYNW_HWAIT_W1.msix_en c w) = 1 && !mute then
    s1.msix (SMap.getD s.syn.waitOwner (64 * c + w) 0) (s.get (F.SYNW_HWAIT_W1.vector c w))
  else s1

/-- The armed slots of a context on a virtual ID. -/
def State.armedOn (s : State) (c v : Nat) : List Nat :=
  (List.range 64).filter fun w => s.get (F.SYNW_HWAIT_W2.state c w) == 1 && s.get (F.SYNW_HWAIT_W1.vcid c w) == v

/-- The armed slots whose target the value meets end OK. -/
def State.hostWaits (s : State) (c v value : Nat) : State :=
  ((s.armedOn c v).filter fun w => decide (s.get (F.SYNW_HWAIT_W0.target c w) ≤ value)).foldl
    (fun s w => s.endHostWait c w 2 false) s

/-! The sequencer of a context halts when a counter it names goes (R354). -/

def State.mbsNames (s : State) (c v : Nat) : Bool :=
  s.get (F.MBS_VC.vc_rel c) == v || s.get (F.MBS_VC.vc_done c) == v ||
  (s.get (F.MBS_CFG.fgate_en c) == 1 && s.get (F.MBS_VC.vc_fgate c) == v) ||
  (s.get (F.MBS_CFG.bgate_en c) == 1 && s.get (F.MBS_VC.vc_bgate c) == v)

def State.mbsHalt (s : State) (c : Nat) : State :=
  if s.get (F.MBS_STATUS.halted c) = 1 then s else
  (s.put (F.MBS_STATUS.halted c) 1).count (F.MBS_CNT_HALT.count c) 0x19 1

/-! Abandonment (R341, R342). -/

/-- Whoever waits on a counter hears that it is abandoned. -/
def State.abandon (s : State) (d i c : Nat) : State :=
  let ctx := s.get (F.SYN_PCNT_W1.ctx d i)
  let v := s.get (F.SYN_PCNT_W1.vcid d i)
  let x := s.cnt d i
  let s := (s.put (F.SYN_PCNT_W0.poison d i) 1).setCnt d i { x with waiters := [], held := [] }
  let s := x.waiters.foldl (fun s w => (s.syncDone w.req 1 (s.back w.req d c)).synAbandon d 1) s
  let s := x.held.foldl (fun s h => match h.src with
    | .sig r => s.syncDone r 1 (s.back r d c)
    | .bell k => s.bellRejected k
    | _ => s) s
  let s := (s.armedOn ctx v).foldl (fun s w => (s.endHostWait ctx w 3 false).synAbandon d 1) s
  if s.get (F.MBS_CFG.enable ctx) = 1 && s.mbsNames ctx v then s.mbsHalt ctx else s

/-! Relations (R335-R337). -/

/-- A flow whose W3 register a key names. -/
def flowW3Of (a : Nat) : Option Nat :=
  let off := (a - 0x1040018) % 0x80000
  if 0x1040018 ≤ a && decide ((a - 0x1040018) / 0x80000 < 2) && decide (off < 0x40000) && off % 0x20 == 0 then
    some (8192 * ((a - 0x1040018) / 0x80000) + off / 0x20)
  else none

/-- The ACTIVE relation that forwards a context's counter. -/
def State.forwardOf (s : State) (ctx v : Nat) : Option Nat :=
  s.regs.findSome? fun q => match flowW3Of q.1 with
    | some i =>
      let f := flowDie i
      let k := flowIdx i
      if s.flowActive i && s.get (F.FAB_FLOW_W0.kind f k) == 2 && s.get (F.FAB_FLOW_W0.ctx f k) == ctx &&
        s.get (F.FAB_FLOW_W3.fwd f k) == 1 && s.get (F.FAB_FLOW_W3.fvcid f k) == v then some i else none
    | none => none

def State.flow (s : State) (i : Nat) : FlowSt := SMap.getD s.fab.flows i FlowSt.fresh
def State.setFlow (s : State) (i : Nat) (x : FlowSt) : State :=
  { s with fab := { s.fab with flows := SMap.put s.fab.flows i x FlowSt.fresh } }
def State.mapFlow (s : State) (i : Nat) (g : FlowSt → FlowSt) : State := s.setFlow i (g (s.flow i))

def State.flowSent (s : State) (i : Nat) : Nat := s.get (F.FAB_FLOW_W2.sent (flowDie i) (flowIdx i))
def State.flowResolved (s : State) (i : Nat) : Nat := s.get (F.FAB_FLOW_W2.resolved (flowDie i) (flowIdx i))

/-- R276, R336, R337: a SYNC flit of a relation, from the counter's die to the flow's: op 0 ADD of n, or op 1 REBASE of a tick and an absolute count. -/
def State.sendSync (s : State) (d i op payload : Nat) (sig : Option SyncReq) : State :=
  let f := flowDie i
  let k := flowIdx i
  let vc := if s.get (F.FAB_FLOW_W3.pri f k) = 1 then 3 else 2
  let x := Hdr.flit { kind := 6, vc := vc, last := 1, dst := s.flowPeer i, src := s.node, flow := i,
                      epoch := s.flowEpoch i, spec := op + s.get (F.FAB_FLOW_W3.mepoch f k) * 4 } payload
  let n := (s.flowSent i + 1) % 2 ^ 24
  let s1 := s.put (F.FAB_FLOW_W2.sent f k) n
  let s2 := match sig with
    | some r => s1.mapFlow i fun w => { w with sigs := w.sigs ++ [FwdSig.mk r n false s.now] }
    | none => s1
  (s2.fromDie d i vc).inject f x

/-- An applied increment leaves for the peer when its counter is forwarded; otherwise a SIG's token clears. -/
def State.forward (s : State) (d i n c : Nat) (src : IncSrc) : State :=
  let r := match src with
    | .sig r => some r
    | _ => none
  match s.forwardOf (s.get (F.SYN_PCNT_W1.ctx d i)) (s.get (F.SYN_PCNT_W1.vcid d i)) with
  | some w => s.sendSync d w 0 n r
  | none => match r with
    | some r => s.syncDone r 0 (s.back r d c)
    | none => s

/-! Increments (R324, R325, R330, R333, R334). -/

/-- The waiters whose condition holds complete in cycle `c` (R330, R469). -/
def State.wake (s : State) (d i c : Nat) : State :=
  let x := s.cnt d i
  let v := s.cval d i
  let met (w : Waiter) : Bool := decide (w.req.op.val ≤ v)
  let s := s.setCnt d i { x with waiters := x.waiters.filter fun w => !met w }
  let s := (x.waiters.filter met).foldl
    (fun s w => (s.syncDone w.req 0 (s.back w.req d c)).hist (0x160040 + 0x100000 * d) (s.get (F.HST_CTL.s_sync d))
      (c - w.arrived)) s
  s.hostWaits (s.get (F.SYN_PCNT_W1.ctx d i)) (s.get (F.SYN_PCNT_W1.vcid d i)) v

/-- The partner of a pair in effect (R332). -/
def State.partner (s : State) (d i : Nat) : Option Nat :=
  let j := s.get (F.SYN_PCNT_W2.partner d i)
  if s.get (F.SYN_PCNT_W2.pair_v d i) = 1 && s.bound d i && s.bound d j then some j else none

def State.isLead (s : State) (d i : Nat) : Bool := s.get (F.SYN_PCNT_W2.lead d i) == 1

/-- R334: a bound overrun is counted and recorded. -/
def State.overrunCheck (s : State) (d i : Nat) (remote : Bool) : State :=
  match s.partner d i with
  | none => s
  | some j =>
    let bad := if s.isLead d i then remote && decide (s.cval d j + s.get (F.SYN_PCNT_W2.bnd d i) < s.cval d i)
      else decide (s.cval d j < s.cval d i)
    if bad then ((s.synBound d).put (F.SYN_BLOG.index d) i).put (F.SYN_BLOG.valid d) 1 else s

/-- The cycle in which a counter takes one more increment that is due in cycle `c`: it takes two a cycle (R324). -/
def CntSt.place (x : CntSt) (c : Nat) : Nat :=
  if x.slotAt < c then c else if x.slotN < 2 then x.slotAt else x.slotAt + 1

/-- An increment due in cycle `due` is taken in cycle `c`. -/
def CntSt.took (x : CntSt) (due c n : Nat) : CntSt :=
  { x with slotAt := c, slotN := if x.slotAt = c then x.slotN + 1 else 1,
           recent := (c, n) :: x.recent.filter fun p => decide (due ≤ p.1) }

/-- The part of the value that increments carried past cycle `c` have added. -/
def CntSt.carried (x : CntSt) (c : Nat) : Nat := ((x.recent.filter fun p => decide (c < p.1)).map (·.2)).foldl (· + ·) 0

/-- The first cycle from `c` in which value `v` less what is carried past it reaches a target. -/
def CntSt.meets (x : CntSt) (v target c : Nat) : Nat → Nat
  | 0 => c
  | k + 1 => if target ≤ v - x.carried c then c else x.meets v target (c + 1) k

/-- R324, R325: an increment is applied. -/
def State.applyInc (s : State) (d i n c : Nat) (src : IncSrc) : State :=
  let due := c
  let c := (s.cnt d i).place due
  let s := s.setCnt d i ((s.cnt d i).took due c n)
  let v := s.cval d i + n
  if 2 ^ 48 ≤ v then
    let s := ((s.put (F.SYN_PCNT_W0.value d i) (2 ^ 48 - 1)).synOvf d).abandon d i c
    match src with
    | .sig r => s.syncDone r 1 (s.back r d c)
    | _ => s
  else
    let s := (s.put (F.SYN_PCNT_W0.value d i) v).dieEvent d 0x48 1
    (((s.forward d i n c src).wake d i c).overrunCheck d i (src == .remote))

/-- Held increments of a lead that the bound allows are applied in arrival order (R333). -/
def State.releaseHeld (s : State) (d i c : Nat) : Nat → State
  | 0 => s
  | k + 1 => match (s.cnt d i).held, s.partner d i with
    | h :: hs, some j =>
      if s.cval d i + h.n ≤ s.cval d j + s.get (F.SYN_PCNT_W2.bnd d i) && !s.poisoned d i then
        let s := s.setCnt d i { s.cnt d i with held := hs }
        ((s.dieEvent d 0x49 (c - h.since)).applyInc d i h.n c h.src).releaseHeld d i c k
      else s
    | h :: hs, none =>
      let s := s.setCnt d i { s.cnt d i with held := hs }
      ((s.dieEvent d 0x49 (c - h.since)).applyInc d i h.n c h.src).releaseHeld d i c k
    | [], _ => s

/-- An increment reaches a bound counter in cycle `c`: it is refused, held or applied. -/
def State.increment (s : State) (d i n c : Nat) (src : IncSrc) : State :=
  if s.poisoned d i then
    match src with
    | .sig r => s.syncDone r 1 (s.back r d c)
    | .bell k => s.bellRejected k
    | _ => s.synPoison d
  else
    match s.partner d i with
    | none => s.applyInc d i n c src
    | some j =>
      if s.isLead d i then
        let b := s.get (F.SYN_PCNT_W2.bnd d i)
        if src = .remote then s.applyInc d i n c src
        else if b < n then
          let s := s.synBound d
          match src with
          | .sig r => s.syncDone r 3 (s.back r d c)
          | .bell k => s.bellRejected k
          | _ => s
        else if (s.cnt d i).held.isEmpty && decide (s.cval d i + n ≤ s.cval d j + b) then s.applyInc d i n c src
        else s.setCnt d i { s.cnt d i with held := (s.cnt d i).held ++ [⟨src, n, c⟩] }
      else
        let s := s.applyInc d i n c src
        s.releaseHeld d j (s.cnt d i).slotAt (s.cnt d j).held.length

/-- An increment by a unit of the module that names a context's virtual ID, at die `home` (R328, R329). -/
def State.unitInc (s : State) (home ctx vcid n c : Nat) : State :=
  match s.translate ctx vcid with
  | some (d, i, _) => s.increment d i n (s.onDie home d c) .unit
  | none => s.synXlate home

/-! A tile's command with everything it does outside the tile. -/

def State.onTile (s : State) (p : Nat) (f : TW → TW) : State :=
  let ctx := (s.env p).ctx
  let (s1, sigs) := s.onTileGo p f
  sigs.foldl (fun s e => match e with
    | .signal v n => s.unitInc (physDie p) ctx v n (s.tile p).cyc
    | _ => s) s1

/-! Arrivals (R328, R330, R331). -/

/-- The cycle in which a request first reaches its die's engine. -/
def SyncReq.first (r : SyncReq) : Nat := r.op.org.at_ + (if r.model = 2 then 3 else 4)

/-- The cycle in which it reaches its counter. -/
def SyncReq.arrives (r : SyncReq) : Nat := match r.target with
  | some (d, _, _) => r.first + 12 * dieHops (physDie r.tile) d
  | none => r.first

/-- The requests of a tile on their way, of one kind, the earliest arrival first. -/
def State.nextReq (s : State) (p : Nat) (wait : Bool) : Option SyncReq :=
  (s.syn.reqs.filter fun r => r.tile == p && r.op.wait == wait).foldl
    (fun b r => match b with
      | none => some r
      | some q => if r.arrives < q.arrives then some r else some q) none

def State.dropReq (s : State) (r : SyncReq) : State :=
  { s with syn := { s.syn with reqs := s.syn.reqs.filter (· ≠ r) } }

/-- R328: the table has changed in cycle `c`: a request looks up its counter in the cycle in which it first reaches its die's
engine. -/
def State.retarget (s : State) (c : Nat) : State :=
  let look (r : SyncReq) : SyncReq := if c ≤ r.first then { r with target := s.translate r.ctx r.op.vcid } else r
  { s with syn := { s.syn with reqs := s.syn.reqs.map look } }

/-- What becomes of a request at its arrival: refused, stale, or at its counter in a cycle. -/
def State.arrive (s : State) (r : SyncReq) (k : State → Nat → Nat → Nat → State) : State :=
  let home := physDie r.tile
  match r.target with
  | none => (s.synXlate home).syncDone r 3 (r.first + 1)
  | some (d, i, e) =>
    let c := s.onDie home d (r.first + 12 * dieHops home d)
    if s.bound d i && s.get (F.SYN_PCNT_W0.epoch d i) == e then k s d i c
    else (s.synXlate d).syncDone r 3 (s.back r d c)

/-- SIG_ARRIVAL. -/
def State.sigArrival (s : State) (p : Nat) : State :=
  match s.nextReq p false with
  | none => s
  | some r => (s.dropReq r).arrive r fun s d i c => s.increment d i r.op.val c (.sig r)

/-- WAITGE_ARRIVAL (R330). -/
def State.waitArrival (s : State) (p : Nat) : State :=
  match s.nextReq p true with
  | none => s
  | some r => (s.dropReq r).arrive r fun s d i c =>
      if s.poisoned d i then (s.syncDone r 1 (s.back r d c)).synAbandon d 1
      else (s.setCnt d i { s.cnt d i with waiters := (s.cnt d i).waiters ++ [⟨r, c⟩] }).wake d i
        ((s.cnt d i).meets (s.cval d i) r.op.val c ((s.cnt d i).recent.length + 1))

/-! Binding (R326, R327, R332). -/

/-- R332, R339: the pair fields of a counter to be bound, against a partner already bound: each names the other. -/
def State.pairOk (s : State) (d i ctx : Nat) : Bool :=
  let j := s.get (F.SYN_PCNT_W2.partner d i)
  let b := s.get (F.SYN_PCNT_W2.bnd d i)
  let lead := s.isLead d i
  let rb := s.get (F.SYN_PCNT_W2.rb_mode d i)
  let named := s.boundCounters.filter fun q =>
    q.1 == d && s.get (F.SYN_PCNT_W2.pair_v d q.2) == 1 && s.get (F.SYN_PCNT_W2.partner d q.2) == i
  if s.get (F.SYN_PCNT_W2.pair_v d i) = 0 then decide (rb < 2) && named.isEmpty
  else named.all (·.2 == j) && rb == 2 && decide (j ≠ i) && (if lead then decide (1 ≤ b) else decide (b = 0)) &&
    (!s.bound d j || (s.get (F.SYN_PCNT_W2.pair_v d j) == 1 && s.get (F.SYN_PCNT_W2.partner d j) == i &&
      s.isLead d j != lead && s.get (F.SYN_PCNT_W1.ctx d j) == ctx))

/-- R326, R327: a write of bind 1 to SYN_PCNTi_W1 in cycle `c`, with the other fields of the write. -/
def State.bind (s : State) (d i : Nat) (v : Word) (c : Nat) : State :=
  let ctx := v.field 16 6
  let vcid := v.field 0 16
  if s.bound d i || (s.translate ctx vcid).isSome ||
      decide (s.get (F.SYN_CTX_W0.quota d ctx) ≤ s.get (F.SYN_CTX_W0.used d ctx)) || !s.pairOk d i ctx ||
      s.get (F.HCTX_STATUS.state ctx) == 0 then
    s.put (F.SYN_CTL.reject d) 1
  else
    let s := ((s.put (F.SYN_PCNT_W1.vcid d i) vcid).put (F.SYN_PCNT_W1.ctx d i) ctx).put (F.SYN_PCNT_W1.bind d i) 1
    let s := ((s.put (F.SYN_PCNT_W0.value d i) 0).put (F.SYN_PCNT_W0.poison d i) 0).put (F.SYN_PCNT_W0.bound d i) 1
    let s := s.put (F.SYN_PCNT_W0.epoch d i) (s.get (F.SYN_PCNT_W0.epoch d i) + 1)
    (s.put (F.SYN_CTX_W0.used d ctx) (s.get (F.SYN_CTX_W0.used d ctx) + 1)).setCnt d i CntSt.fresh |>.retarget c

/-- R326, R342: a write of bind 0. An unbound counter takes the write's other fields. -/
def State.unbind (s : State) (d i c : Nat) (v : Word) : State :=
  if s.bound d i then
    let ctx := s.get (F.SYN_PCNT_W1.ctx d i)
    let s := s.abandon d i c
    (((s.put (F.SYN_PCNT_W0.bound d i) 0).put (F.SYN_PCNT_W1.bind d i) 0).put (F.SYN_CTX_W0.used d ctx)
      (s.get (F.SYN_CTX_W0.used d ctx) - 1)).retarget c
  else (s.put (F.SYN_PCNT_W1.vcid d i) (v.field 0 16)).put (F.SYN_PCNT_W1.ctx d i) (v.field 16 6)

/-- R341: an uncorrectable error in the counter store. -/
def State.storeError (s : State) (d i c : Nat) : State :=
  if s.bound d i && !s.poisoned d i then s.abandon d i c else s.put (F.SYN_PCNT_W0.poison d i) 1

/-! Rebasing (R339, R340). -/

/-- The amount d subtracted from a counter: recorded, and the host waits on it follow. -/
def State.subtract (s : State) (d i n : Nat) : State :=
  let ctx := s.get (F.SYN_PCNT_W1.ctx d i)
  let v := s.get (F.SYN_PCNT_W1.vcid d i)
  let s := s.put (F.SYN_PCNT_W0.value d i) (s.cval d i - n)
  let s := s.setCnt d i { s.cnt d i with rb := (s.cnt d i).rb + BitVec.ofNat 64 n }
  let s := (s.put (F.SYN_PCNT_W3.d_last d i) n).dieEvent d 0x4A 1
  (s.armedOn ctx v).foldl (fun s w =>
    let t := s.get (F.SYNW_HWAIT_W0.target ctx w)
    let s := s.put (F.SYNW_HWAIT_W0.target ctx w) (t - n)
    if t < n then s.endHostWait ctx w 2 false else s) s

/-- A counter is rebased; a pair is rebased with its lead, or with its lag where the lead's turn has not come. -/
def State.rebaseOne (s : State) (d i c : Nat) : State :=
  if s.poisoned d i then s else
  match s.get (F.SYN_PCNT_W2.rb_mode d i) with
  | 0 => s.subtract d i 0
  | 1 => s.subtract d i (s.cval d i)
  | _ => match s.partner d i with
    | none => s.put (F.SYN_PCNT_W3.d_last d i) 0
    | some j =>
      if s.poisoned d j then s.put (F.SYN_PCNT_W3.d_last d i) 0
      else if s.isLead d i then
        let n := min (s.cval d i) (s.cval d j)
        let s := (s.subtract d i n).subtract d j n
        if s.cval d j ≤ s.cval d i && s.cval d i - s.cval d j ≤ s.get (F.SYN_PCNT_W2.bnd d i) then s
        else ((s.abandon d i c).abandon d j c).synRebase d
      else s

/-- The relation ends with fwd and chk set whose counter is bound to a ready context send REBASE. -/
def State.sendRebases (s : State) (ready : Nat → Bool) (tick : Nat) : State :=
  (s.regs.filterMap fun q => flowW3Of q.1).foldl (fun s i =>
    let f := flowDie i
    let k := flowIdx i
    let ctx := s.get (F.FAB_FLOW_W0.ctx f k)
    if s.flowActive i && s.get (F.FAB_FLOW_W0.kind f k) == 2 && s.get (F.FAB_FLOW_W3.fwd f k) == 1 &&
        s.get (F.FAB_FLOW_W3.chk f k) == 1 && ready ctx then
      match s.translate ctx (s.get (F.FAB_FLOW_W3.fvcid f k)) with
      | some (d, j, _) => if s.poisoned d j then s
          else s.sendSync d i 1 (tick + (s.absOf d j).toNat * 2 ^ 64) none
      | none => s
    else s) s

/-- R339, R340: every bound counter of the ready contexts is rebased, then the relations are checked. `cyc` gives each
die's cycle. -/
def State.rebase (s : State) (ready : Nat → Bool) (tick : Nat) (cyc : Nat → Nat) : State :=
  let s1 := s.boundCounters.foldl (fun s q =>
    if ready (s.get (F.SYN_PCNT_W1.ctx q.1 q.2)) then s.rebaseOne q.1 q.2 (cyc q.1) else s) s
  s1.sendRebases ready tick

/-! SYNC flits at the peer (R338, R340, R343). -/

/-- The first flit of a sort in the inbox, with the inbox without it. -/
def takeFirst (p : Flit → Bool) : List (Nat × Option Nat × Flit) →
    Option ((Nat × Option Nat × Flit) × List (Nat × Option Nat × Flit))
  | [] => none
  | q :: l => if p q.2.2 then some (q, l) else match takeFirst p l with
    | some (y, m) => some (y, q :: m)
    | none => none

/-- A unit takes the first flit of a sort: its buffer is free (R266). -/
def State.pop (s : State) (p : Flit → Bool) : Option (Flit × State) :=
  (takeFirst p s.fab.inbox).map fun q =>
    (q.1.2.2, State.freeBuf { s with fab := { s.fab with inbox := q.2 } } q.1.1 q.1.2.1 q.1.2.2.vc)

/-- A refusal: one NACK to the flit's src on VC2. -/
def State.refuse (s : State) (x : Flit) (tile addr cause : Nat) : State :=
  s.inject (flowDie x.flow) (s.nackFlit x tile addr cause)

/-- A role-epoch refusal at a fabric die. -/
def State.epochIn (s : State) (x : Flit) : State :=
  s.count (F.FAB_CNT_EPOCHIN.count (flowDie x.flow)) (fabErrc (flowDie x.flow) 0xB) 1

/-- R283: a flit of a flow is resolved at fc `at_`; an ACK leaves after 16, or at a flit with last set. -/
def State.resolve (s : State) (i at_ : Nat) (last : Bool) : State :=
  let f := flowDie i
  let k := flowIdx i
  let n := (s.flowResolved i + 1) % 2 ^ 24
  let s := s.put (F.FAB_FLOW_W2.resolved f k) n
  let w := s.flow i
  if last || decide (16 ≤ w.unrep + 1) then
    (s.setFlow i { w with unrep := 0, oldest := none }).inject f (s.ackFlit i n)
  else s.setFlow i { w with unrep := w.unrep + 1, oldest := some (w.oldest.getD at_) }

/-- R278, R341: a relation enters DRAINING, and its counters are abandoned. -/
def State.drainRelation (s : State) (i c : Nat) : State :=
  let f := flowDie i
  let k := flowIdx i
  let ctx := s.get (F.FAB_FLOW_W0.ctx f k)
  let gone (s : State) (v : Nat) : State := match s.translate ctx v with
    | some (d, j, _) => if s.poisoned d j then s else s.abandon d j c
    | none => s
  let s := s.put (F.FAB_FLOW_W0.state f k) 2
  let s := (s.put (F.FAB_FLOW_W0.valid f k) 0).mapFlow i fun w => { w with drainAt := s.now }
  let s := if s.get (F.FAB_FLOW_W3.fwd f k) = 1 then gone s (s.get (F.FAB_FLOW_W3.fvcid f k)) else s
  if s.get (F.FAB_FLOW_W3.mirror_v f k) = 1 then gone s (s.get (F.FAB_FLOW_W3.mvcid f k)) else s

/-- A SYNC flit at the relation's fabric die: R338's checks in order, then `k` at the mirror's (die, index). -/
def State.syncFlit (s : State) (x : Flit) (at_ : Nat) (k : State → Nat → Nat → State) : State :=
  let i := x.flow
  let f := flowDie i
  let j := flowIdx i
  let mv := s.get (F.FAB_FLOW_W3.mvcid f j)
  let s := if s.flowState i = 0 || s.get (F.FAB_FLOW_W0.recv f j) = 0 then s else s.resolve i at_ (x.f 11 1 == 1)
  if !s.flowActive i || s.get (F.FAB_FLOW_W0.kind f j) ≠ 2 || s.get (F.FAB_FLOW_W0.recv f j) = 0 ||
      s.get (F.FAB_FLOW_W3.mirror_v f j) = 0 then s.refuse x 0 mv 5
  else if x.epoch ≠ s.flowEpoch i then (s.epochIn x).refuse x 0 mv 2
  else
    match s.translate (s.get (F.FAB_FLOW_W0.ctx f j)) mv with
    | none => s.refuse x 0 mv 4
    | some (d, n, e) =>
      let s := s.toDie d i x.vc
      if x.f 70 8 ≠ e then (s.synEpoch d).refuse x 0 mv 2
      else if s.poisoned d n then (s.synPoison d).refuse x 0 mv 4
      else k s d n

/-- SYNC_ADD (R338). -/
def State.syncAdd (s : State) (at_ c : Nat) : State :=
  match s.pop fun x => x.kind == 6 && x.f 68 2 == 0 with
  | none => s
  | some (x, s) => (s.reach at_).syncFlit x at_ fun s d n => s.increment d n (x.bytes 0 6) c .remote

/-- REBASE (R340): the peer's absolute count is compared with the mirror's. -/
def State.rebaseFlit (s : State) (at_ c : Nat) : State :=
  match s.pop fun x => x.kind == 6 && x.f 68 2 == 1 with
  | none => s
  | some (x, s) => (s.reach at_).syncFlit x at_ fun s d n =>
      if s.get (F.FAB_FLOW_W3.chk (flowDie x.flow) (flowIdx x.flow)) = 0 || (s.absOf d n).toNat = x.bytes 8 8 then s
      else
        let s := (s.synRebase d).put (F.FAB_FLOW_W3.failed (flowDie x.flow) (flowIdx x.flow)) 1
        (s.drainRelation x.flow c).ctxEvent 6 (s.get (F.FAB_FLOW_W0.ctx (flowDie x.flow) (flowIdx x.flow)))

/-! Host waits and doorbells (R345, R346). -/

/-- HOST_WAIT_ARM: a write of arm with the other fields of W1, by a function (0 the PF, 1 + c the VF of c). -/
def State.hostArm (s : State) (func c w : Nat) (v : Word) : State :=
  let s := ((s.put (F.SYNW_HWAIT_W1.vcid c w) (v.field 0 16)).put (F.SYNW_HWAIT_W1.vector c w) (v.field 16 11)).put
    (F.SYNW_HWAIT_W1.msix_en c w) (v.field 27 1)
  let s := { s with syn := { s.syn with waitOwner := SMap.put s.syn.waitOwner (64 * c + w) func 0 } }
  let far := decide (msixSize func ≤ v.field 16 11)
  match s.translate c (v.field 0 16) with
  | none => s.endHostWait c w 4 far
  | some (d, i, _) =>
    if far then s.endHostWait c w 4 true
    else if s.poisoned d i then (s.endHostWait c w 3 false).synAbandon d 1
    else
      let s := (s.put (F.SYNW_HWAIT_W2.state c w) 1).put (F.SYNW_HWAIT_W1.arm c w) 1
      if s.get (F.SYNW_HWAIT_W0.target c w) ≤ s.cval d i then s.endHostWait c w 2 false else s

/-- HOST_WAIT_TARGET_WRITE: the new target takes effect, and may already be met. -/
def State.hostTarget (s : State) (c w : Nat) (v : Word) : State :=
  let s := s.put (F.SYNW_HWAIT_W0.target c w) (v.field 0 48)
  if s.get (F.SYNW_HWAIT_W2.state c w) = 1 then
    match s.translate c (s.get (F.SYNW_HWAIT_W1.vcid c w)) with
    | some (d, i, _) => if v.field 0 48 ≤ s.cval d i then s.endHostWait c w 2 false else s
    | none => s
  else s

/-- DB_SIG: the range check of a doorbell (R346, R499). -/
def State.dbSig (s : State) (c : Nat) (wide : Bool) (v : Word) : State :=
  let n := v.field 0 48
  let ok := match s.translate c (v.field 48 16) with
    | some (d, i, _) => wide && s.get (F.HCTX_STATUS.state c) == 1 && decide (1 ≤ n) &&
        decide (n ≤ s.get (F.SYN_CTX_W1.max_add d c)) && !s.poisoned d i
    | none => false
  match s.translate c (v.field 48 16), ok with
  | some (d, i, e), true => { s with syn := { s.syn with bells := s.syn.bells ++ [⟨c, d, i, e, n⟩] } }
  | _, _ => s.bellRejected c

def takeBell (c : Nat) : List Doorbell → Option (Doorbell × List Doorbell)
  | [] => none
  | b :: l => if b.ctx = c then some (b, l) else (takeBell c l).map fun q => (q.1, b :: q.2)

/-- DOORBELL_ARRIVAL: the oldest doorbell of a context reaches its counter in cycle `cyc`. -/
def State.bellArrival (s : State) (c cyc : Nat) : State :=
  match takeBell c s.syn.bells with
  | none => s
  | some (b, l) =>
    let s := { s with syn := { s.syn with bells := l } }
    if s.bound b.die b.idx && s.get (F.SYN_PCNT_W0.epoch b.die b.idx) = b.epoch && !s.poisoned b.die b.idx then
      s.increment b.die b.idx b.n cyc (.bell c)
    else s.bellRejected c

/-! A context reset (R341, R345, R347). -/

/-- Every counter of the context is abandoned and unbound, its doorbells are rejected, its armed slots end ABANDONED and
its slot registers and SYNW_SEL return to their reset values. -/
def State.syncReset (s : State) (c cyc : Nat) : State :=
  let s := (s.boundCounters.filter fun q => s.get (F.SYN_PCNT_W1.ctx q.1 q.2) == c).foldl
    (fun s q => s.unbind q.1 q.2 cyc 0) s
  let s := ((List.range 64).filter fun w => s.get (F.SYNW_HWAIT_W2.state c w) == 1).foldl
    (fun s w => s.endHostWait c w 3 false) s
  let s := (s.syn.bells.filter (·.ctx == c)).foldl (fun s _ => s.bellRejected c) s
  let base := 0x2008000 + 0x10000 * c
  { s with syn := { s.syn with bells := s.syn.bells.filter (·.ctx ≠ c), reqs := s.syn.reqs.filter (·.ctx ≠ c) },
           regs := SMap.clear s.regs base (base + 0x900) }

end Sys2Proof.Machine
end

