-- ==== Sys2Proof/Machine/Deliver.lean ====
section
/-! DEFINITION. The delivery of a send (R217, R226-R228): its receiver resolves collisions, checks what it keeps, and the
senders' tokens clear. -/

namespace Sys2Proof.Machine

/-- A send has committed or has been discarded: its token clears, unless its context has been reset. -/
def Tile.endSend (t : Tile) (x : Send) (status : Nat) : Tile :=
  if t.adrift.contains x then { t with adrift := t.adrift.erase x }
  else ({ t with exch := t.exch.erase x, cyc := max t.cyc x.due }).clearToken .exch x.td status x.due

def State.endSend (s : State) (p : Nat) (x : Send) (status : Nat) : State := s.mapTile p fun t => t.endSend x status

/-- The sends of a die that reach one receiver in one cycle, as (column and row of the sender, its tile, the send), by
column, then row (R227). -/
def State.arrivals (s : State) (d q due : Nat) : List (Nat × Nat × Send) :=
  (List.range 34).flatMap fun c => (List.range 48).flatMap fun r =>
    let p := physOf d r c
    ((s.tile p).flying.filter fun x => x.dest == some q && x.due == due).map fun x => (64 * c + r, p, x)

/-- DELIVERY: of the oldest send of a tile, with every send that reaches the same receiver in its cycle. Under Gesso the
receiver drops them all, and the die counts each (R129, R234). -/
def State.delivery (s : State) (p : Nat) : State :=
  match (s.tile p).flying with
  | [] => s
  | x :: _ =>
    match x.dest with
    | none => s.endSend p x x.status
    | some q =>
      match s.arrivals (physDie p) q x.due with
      | [] => s
      | (r, k, y) :: rest =>
        if (s.tile q).gesso then
          ((r, k, y) :: rest).foldl (fun s r => s.endSend r.2.1 r.2.2 3) (s.errc (dieErrc (physDie q) 5) (rest.length + 1))
        else
        let id (p : Nat) : Nat := (s.tile p).get TF.TILE_SELF.tile_id
        let e := s.env q
        let same := (s.ownerOf q).isSome && s.ownerOf q == s.ownerOf k
        let x0 : TW := ⟨s.tile q, [], e⟩
        let x1 := match rest with
          | [] => x0
          | (_, j, _) :: _ => x0.collide x.due (id k) (id j) rest.length
        let (status, z) := x1.deliver x.due same (id k) y
        let s := (s.setTile q z.t).effects q e x.due z.out
        rest.foldl (fun s r => s.endSend r.2.1 r.2.2 0) (s.endSend k y status)

end Sys2Proof.Machine
end

