-- ==== Sys2Proof/Machine/Stream.lean ====
section
/-! DEFINITION. Streams (R240-R255): transfers, engine states, regions, scrub, and the host's aperture. -/

namespace Sys2Proof.Machine

/-! Descriptors (R244). -/

def strSig (d : Row) : Bool := d.field 224 1 == 1
def strVcid (d : Row) : Nat := d.field 240 16

/-- The bits given as zero. -/
def strZeros (d : Row) : Bool :=
  d.zeros [(0, 6), (21, 3), (30, 2), (32, 6), (68, 28), (111, 1), (128, 6), (164, 28), (207, 17), (225, 15), (256, 256)]

/-- R245 case 4: every HBM byte lies inside the region. -/
def strInside (d : Row) (g : Rgn) : Bool := g.holds (strHbmAt d (strLines d - 1) 0) (64 * strRows d)

/-- R245 case 5. -/
def strPalOk (d : Row) : Bool := decide (strPalAt d (strLines d - 1) (strRows d - 1) + 63 ≤ 0x1FFFFF)

/-- R245 case 6. -/
def strOverlaps (load : Bool) (d : Row) : Bool :=
  decide (1 < strLines d) &&
    (if load then decide (strPStride d < strRows d) else decide (strHStride d < 64 * strRows d))

/-! Transfers (R245-R247, R250-R252). -/

/-- The head of a tile's stream queue that has not started. -/
def Tile.streamHead (t : Tile) : Option QOp := t.stream.find? fun o => !o.started

def Tile.startStream (t : Tile) (id : Nat) : Tile :=
  { t with stream := t.stream.map fun o => if o.id = id then { o with started := true } else o }

/-- R89: an operation may start in cycle `c`: it has issued before, and its wait token has cleared before. -/
def Tile.mayStart (t : Tile) (o : QOp) (c : Nat) : Bool :=
  decide (o.org.at_ < c) && (o.tw = 0 || (!t.tokenPending o.tw && decide (t.tokenFrom o.tw ≤ c)))

/-- R454: the rows a transfer will write are PENDING, those it will read are claimed. -/
def TW.markStream (x : TW) (o : QOp) : TW :=
  if !x.t.pen then x else
  let who := o.who x.env.tile
  (List.range (strLines o.desc)).foldl (fun y l =>
    let row := strPalAt o.desc l 0 / 64
    if o.kind = .sload then y.penPending who row (strRows o.desc) else y.penClaim who row (strRows o.desc)) x

/-- R247: the tile's earlier transfers on the engine have issued their last HBM request before cycle `c`. -/
def State.requestsOver (s : State) (p d k c : Nat) : Bool :=
  (s.xfersOn d k).all fun x => x.tile != p || x.revoked || (x.issued == x.total && decide (x.lastReq < c))

/-- TRANSFER_START (R245, R247, R248): the engine takes the tile's next transfer in cycle `c` and checks it. -/
def State.transferStart (s : State) (p c : Nat) : State :=
  let s := s.onTileLow p fun x => x.forToken ((x.t.streamHead.map (·.tw)).getD 0)
  let t := s.tile p
  match t.streamHead with
  | none => s
  | some o =>
    let d := physDie p
    let ctx := t.get TF.TILE_SELF.context
    let g := s.rgn d ctx (strRgn o.desc)
    let k := s.stackOf d o.parm
    let load := o.kind == .sload
    if t.gesso || !t.mayStart o c || !s.requestsOver p d k c then s else
    let case2 := !g.active || decide (g.lstack ≠ o.parm)
    let case3 := !(if load then g.rd else g.wr)
    let case4 := !strInside o.desc g
    let bad := !strZeros o.desc || case2 || case3 || case4 || !strPalOk o.desc || strOverlaps load o.desc ||
      decide (s.engState d k ≠ 1)
    if bad then
      let s := s.count (F.HBM_SE_CNT_INVAL.count d k) (dieErrc d 0x21) 1
      let s := if case2 || case3 || case4 then s.count (F.HBM_SE_CNT_RGN.count d k) (dieErrc d 0x20) 1 else s
      s.onTileLow p fun x => x.finish o 3 c
    else
      let s := s.onTileLow p fun x => (x.markStream o).map fun t => t.startStream o.id
      State.showTiles { s with hbm := { s.hbm with xfers := s.hbm.xfers ++
        [Xfer.begin p o d k ctx (strRgn o.desc) g.base g.count c] } } d k

/-- R247: a transfer may make its requests: an SLOAD waits for the tile's earlier SSTOREs on its engine, an SSTORE for its
earlier SLOADs. -/
def State.xferReady (s : State) (x : Xfer) : Bool :=
  !((s.xfersOn x.die x.stack).any fun y => y.tile == x.tile && decide (y.op.id < x.op.id) && y.op.kind != x.op.kind)

/-- R250, R251: a transfer that takes a turn of its engine in cycle `c`: rows remain, and its tile has a free credit. -/
def State.wantsTurn (s : State) (x : Xfer) (c : Nat) : Bool :=
  !x.revoked && decide (x.start ≤ c) && decide (x.asked < x.total) && s.xferReady x && decide ((s.tile x.tile).edgeUsed c < 32)

/-- The turn of an engine, its cycle, and the rows requested in that cycle. -/
def State.turn (s : State) (d k : Nat) : Nat × Nat × Nat := SMap.getD s.hbm.turns (6 * d + k) (0, 0, 0)

/-- How far the tile of a transfer is from the tile whose turn it is, in the order of global tile IDs. -/
def State.turnKey (s : State) (x : Xfer) : Nat :=
  ((s.tile x.tile).get TF.TILE_SELF.tile_id + 8192 - (s.turn x.die x.stack).1) % 8192

/-- R251: the transfer that an engine serves in cycle `c`, in round-robin order of the tiles. -/
def State.turnOf (s : State) (d k c : Nat) : Option Xfer :=
  ((s.xfersOn d k).filter fun x => s.wantsTurn x c).foldl (fun b x => match b with
    | none => some x
    | some y => if s.turnKey x < s.turnKey y then some x else some y) none

/-- The rows of a turn in cycle `c`: up to 8, no more than the tile has credits and the engine requests left. -/
def State.burst (s : State) (x : Xfer) (c : Nat) : Nat :=
  let (_, k, n) := s.turn x.die x.stack
  min (min 8 (x.total - x.asked)) (min (32 - (s.tile x.tile).edgeUsed c) (25 - if k = c then n else 0))

/-- The row latencies of an engine (R255, R469). -/
def State.rowHist (s : State) (x : Xfer) (l : Nat) : State :=
  s.hist (0x108080 + 0x100000 * x.die + 0x100 * x.stack) (s.get (F.HST_CTL.s_row x.die)) l

/-- One row of a turn: row `i` of an SLOAD is read from the stack and reaches its tile `l` cycles later; that of an SSTORE is
asked of its tile, and takes the stack `l` cycles to accept. -/
def State.askRow (s : State) (x : Xfer) (c i l : Nat) : State :=
  let w := strRows x.op.desc
  let a := strPalAt x.op.desc (i / w) (i % w)
  let who := x.op.who (s.env x.tile).tile
  let push (q : EdgeReq) (s : State) : State :=
    s.onTileLow x.tile fun y => (y.ports c).map fun t => { t with edge := insertEdge q t.edge }
  let s := s.rowHist x l
  if x.op.kind = .sload then
    let (v, marks, s) := s.hbmReadSegs x.die x.stack (x.addr (strHbmAt x.op.desc (i / w) (i % w)) / 16) 4
    push ⟨c + l, 1, .load, a, x.op.id, i, v, marks, 0, who⟩ s
  else push ⟨c, 1, .store, a, x.op.id, i, 0, [], l, who⟩ s

/-- The rows of a turn from row `i` on, with their latencies. -/
def State.askRows (s : State) (x : Xfer) (c : Nat) (lat : List Nat) : Nat → Nat → State
  | 0, _ => s
  | n + 1, i => (s.askRow x c i (lat.headD 0)).askRows x c lat.tail n (i + 1)

/-- What a turn of `n` rows leaves of its transfer. -/
def Xfer.took (x : Xfer) (c n : Nat) (lat : List Nat) : Xfer :=
  let y := { x with asked := x.asked + n }
  if x.op.kind = .sload then
    { y with issued := x.issued + n, lastReq := c, due := max x.due (c + (lat.take n).foldl max 0) }
  else y

/-- R250, R251: an engine's turn in cycle `c`. -/
def State.takeTurn (s : State) (x : Xfer) (c : Nat) (lat : List Nat) : State :=
  let n := s.burst x c
  let (_, k, m) := s.turn x.die x.stack
  if n = 0 || decide (c < k) then s else
  let gid := (s.tile x.tile).get TF.TILE_SELF.tile_id
  let s := s.askRows x c lat n x.asked
  let turns := SMap.put s.hbm.turns (6 * x.die + x.stack) ((gid + 1) % 8192, c, (if k = c then m else 0) + n) (0, 0, 0)
  let xfers := s.hbm.xfers.map fun y => if y.names x.tile x.op.id then y.took c n lat else y
  { s with hbm := { s.hbm with turns := turns, xfers := xfers } }

/-- The edge ports of the tiles that an engine serves have made every request of the cycles up to `c`, and the stack has
accepted what is due by then. -/
def State.engineTo (s : State) (d k c : Nat) : State :=
  (((s.xfersOn d k).map (·.tile)).eraseDups.foldl (fun s p => s.onTileLow p fun y => y.ports (c + 1)) s).acceptDue d k c

/-- R246: a transfer whose rows have all moved by cycle `c`, or whose slot has been released and whose requests have all
returned. -/
def Xfer.ended (x : Xfer) (c : Nat) : Bool :=
  x.moved == x.issued && (x.revoked || x.issued == x.total) && decide (x.last ≤ c)

/-- A transfer ends (R246, R252, R255): in the cycle in which its last row moved; of a released slot, in cycle `c` with
ERROR. -/
def State.xferEnd (s : State) (x : Xfer) (c : Nat) : State :=
  let at_ := if x.revoked then c else max x.last x.start
  let s := State.showTiles { s with hbm := { s.hbm with xfers := s.hbm.xfers.filter fun y => y != x } } x.die x.stack
  let hrow := 0x108080 + 0x100000 * x.die + 0x100 * x.stack
  let s := if x.revoked then s else s.hist (hrow + 0x40) (s.get (F.HST_CTL.s_xfer x.die)) (at_ - x.start)
  let s := s.onTileLow x.tile fun y => y.finish x.op (if x.bad || x.revoked then 3 else 0) at_
  if strSig x.op.desc then s.unitInc x.die x.ctx (strVcid x.op.desc) 1 at_ else s

/-- A transfer of a reset context has gone once its issued requests have returned (R254). -/
def State.xferGone (s : State) (x : Xfer) (c : Nat) : State :=
  if x.due ≤ c then { s with hbm := { s.hbm with xfers := s.hbm.xfers.filter fun y => y != x } } else s

/-- TRANSFER_COMPLETE (R246, R250-R252, R255): the started transfer `k` of the tile (0 its oldest) in cycle `c`. When the
engine's turn is its tile's, it takes the turn, the stack's latencies of its rows being `lat`; every row that has reached
its edge port is presented there; and when its last row has moved, it ends (notes/assumptions/37). -/
def State.transferComplete (s : State) (p k c : Nat) (lat : List Nat) : State :=
  match (s.hbm.xfers.filter fun x => x.tile == p)[k]? with
  | none => s
  | some x =>
    if x.dead then (s.engineTo x.die x.stack c).xferGone x c else
    let s := (s.turnOf x.die x.stack c).elim s fun y => if y = x then s.takeTurn x c lat else s
    let s := s.engineTo x.die x.stack c
    match s.hbm.xfers.find? fun y => y.names p x.op.id with
    | none => s
    | some y => if y.ended c then s.xferEnd y c else s

/-! Engines (R248, R249). -/

/-- HBM_SE_CTL_ENABLE: a write of enable. -/
def State.seEnable (s : State) (d k v : Nat) : State :=
  let s := s.put (F.HBM_SE_CTL.enable d k) v
  let go (st : Nat) : State := s.put (F.HBM_SE_STATUS.state d k) st
  match s.engState d k, v % 2 with
  | 0, 1 => go 1
  | 1, 0 => go 2
  | 2, 1 => go 3
  | 3, 0 => go 2
  | _, _ => s

/-- ENGINE_DRAIN_COMPLETE: a draining engine with no started transfer enters OFF, or ON when an enable is pending. -/
def State.drainComplete (s : State) (d k : Nat) : State :=
  if !(s.xfersOn d k).isEmpty then s else
  match s.engState d k with
  | 2 => s.put (F.HBM_SE_STATUS.state d k) 0
  | 3 => s.put (F.HBM_SE_STATUS.state d k) 1
  | _ => s

/-- R249: the engines named by an entry that a new map changes are OFF or FAILED. -/
def State.semapOk (s : State) (d v : Nat) : Bool :=
  (List.range 6).all fun l =>
    let o := s.stackOf d l
    let n := v / 8 ^ l % 8
    o == n || (decide (n < 6) && [o, n].all fun k => s.engState d k == 0 || s.engState d k == 4)

/-- HBM_SEMAP_WRITE: only the recovery sequencer (R394) and Easel firmware (`fw`) write the map. -/
def State.semapWrite (s : State) (d v : Nat) (fw : Bool) : State :=
  if fw && s.semapOk d (v % 2 ^ 18) then s.put (F.HBM_SEMAP.phys d) v else s.put (F.HBM_RGN_CTL.reject d) 1

/-! Regions (R241, R252). -/

/-- Every slot whose register is listed: (context, slot). -/
def State.slotsOf (s : State) (d : Nat) : List (Nat × Nat) :=
  s.regs.filterMap fun q =>
    let b := 0x110000 + 0x100000 * d
    if b ≤ q.1 && q.1 < b + 0x8000 then some ((q.1 - b) / 0x200, (q.1 - b) % 0x200 / 8) else none

/-- REGION_ALLOCATE (R241): a write of valid 1 with the slot's fields. The granules of a FAILED stack are never allocated
(R253): a candidate on one is rejected too. -/
def State.regionAllocate (s : State) (d c k : Nat) (v : Word) : State :=
  let base := v.field 0 15
  let cnt := v.field 16 16 + 1
  let ls := v.field 32 3
  let p := s.stackOf d ls
  let taken := (s.slotsOf d).any fun q =>
    let g := s.rgn d q.1 q.2
    g.state != 0 && g.stack == p && decide (g.base < base + cnt) && decide (base < g.base + g.count)
  if s.get (F.HBM_RGN.state d c k) ≠ 0 then
    s.put (F.HBM_RGN_CTL.reject d) 1
  else if 30720 < base + cnt || 5 < ls || taken || s.engState d p = 4 then
    s.put (F.HBM_RGN_CTL.reject d) 1
  else
    let a := 0x110000 + 0x100000 * d + 0x200 * c + 8 * k
    let s := s.setWord a (v &&& 0x9FFFFF7FFF#64)
    s.put (F.HBM_RGN.state d c k) (if ivMeets (s.dirty d p) base (base + cnt) then 2 else 1)

/-- R252: the started transfers of a slot make no further request: rows asked of a tile and not yet read are not. -/
def State.revoke (s : State) (d c k : Nat) : State :=
  let hit (x : Xfer) : Bool := x.die == d && x.ctx == c && x.slot == k && !x.revoked
  let l := s.hbm.xfers.filter hit
  let stop (x : Xfer) : Xfer := if hit x then { x with revoked := true, asked := x.issued } else x
  let s := { s with hbm := { s.hbm with xfers := s.hbm.xfers.map stop } }
  l.foldl (fun s x => s.mapTile x.tile fun t =>
    { t with edge := t.edge.filter fun q => !(q.kind == .store && q.op == x.op.id) }) s

/-- R252: a slot becomes FREE; the granules of an ACTIVE one become dirty and its started transfers stop. -/
def State.regionRelease (s : State) (d c k : Nat) : State :=
  let g := s.rgn d c k
  if g.state = 0 then s else
  let s := (s.put (F.HBM_RGN.state d c k) 0).put (F.HBM_RGN.valid d c k) 0
  if g.state = 2 then s else
  (s.revoke d c k).markDirty d g.stack g.base (g.base + g.count)

/-- R252: a context reset releases every slot of the context. -/
def State.releaseAll (s : State) (c : Nat) : State :=
  (List.range 4).foldl (fun s d => ((s.slotsOf d).filter fun q => q.1 == c).foldl
    (fun s q => s.regionRelease d q.1 q.2) s) s

/-! Scrub (R253). -/

/-- Slots in PENDING_ENABLE with no dirty granule left become ACTIVE (R241, R254). -/
def State.activateSlots (s : State) (d : Nat) : State :=
  (s.slotsOf d).foldl (fun s q =>
    let g := s.rgn d q.1 q.2
    if g.state = 2 && !ivMeets (s.dirty d g.stack) g.base (g.base + g.count) then
      s.put (F.HBM_RGN.state d q.1 q.2) 1 else s) s

/-- Whether a granule waits for the requests of a released slot (R252). -/
def State.granuleBusy (s : State) (d p g : Nat) : Bool :=
  ((s.hbm.xfers.filter fun x => x.die == d && x.stack == p).any fun x =>
    x.revoked && decide (x.base ≤ g) && decide (g < x.base + x.count)) ||
  s.hbm.accepts.any fun w => w.die == d && w.stack == p && w.addr / 2 ^ 21 == g

/-- GRANULE_CLEAN: the granule being scrubbed is clean; the lowest dirty one is next. `slots` are the stack command slots
that it took (R466). -/
def State.granuleClean (s : State) (d p slots : Nat) : State :=
  let g := s.get (F.HBM_SCRUB.next d p)
  if s.engState d p = 4 || !ivMeets (s.dirty d p) g (g + 1) || s.granuleBusy d p g then s else
  let l := ivDel (s.dirty d p) g (g + 1)
  let s := (s.hbmZero d p (g * 2 ^ 21) (2 ^ 21)).setDirty d p l
  let s := s.put (F.HBM_SCRUB.next d p) ((l.head?.map (·.1)).getD 0)
  (s.dieEvent d 0x46 slots).activateSlots d

/-! The aperture (R243, R482, R483). -/

/-- One part of an access, within its window. -/
inductive ApRef where
  | reach (d p a : Nat)        -- die, stack, stack address
  | reject (d : Nat)
  deriving DecidableEq, Repr

/-- Where byte `b` of a window's slot range lies, for `n` bytes, read or written. -/
def State.apRef (s : State) (valid c d k gran b n : Nat) (write : Bool) : ApRef :=
  let g := s.rgn d c k
  let off := gran * 2 ^ 21 + b
  if valid = 1 && g.active && (if write then g.wr else g.rd) && g.holds off n && s.engState d g.stack == 1 then
    .reach d g.stack (g.addr off)
  else .reject d

/-- The window an access falls in: the PF's 16 of S / 16, or a VF's 4 of 1 GiB. -/
def State.apWindow (s : State) (vf : Option Nat) (size a n : Nat) (write : Bool) : ApRef :=
  match vf with
  | none =>
    let w := size / 16
    let k := a / w
    s.apRef (s.get (F.HOST_APW.valid k)) (s.get (F.HOST_APW.ctx k)) (s.get (F.HOST_APW.die k)) (s.get (F.HOST_APW.rgn k))
      (s.get (F.HOST_APW.gran k)) (a % w) n write
  | some c =>
    let k := a / 2 ^ 30
    let v (f : RF) : Nat := rget (fun _ => 0) s.vf f
    s.apRef (v (VF.VFC_APW.valid c k)) c (v (VF.VFC_APW.die c k)) (v (VF.VFC_APW.rgn c k)) (v (VF.VFC_APW.gran c k))
      (a % 2 ^ 30) n write

/-- R377: a host write into a region that a snapshot captures. -/
def State.apTear (s : State) (vf : Option Nat) (size a : Nat) : State :=
  match vf with
  | none =>
    let k := a / (size / 16)
    s.tearRegion (s.get (F.HOST_APW.ctx k)) (s.get (F.HOST_APW.die k)) (s.get (F.HOST_APW.rgn k))
  | some c =>
    let k := a / 2 ^ 30
    s.tearRegion c (rget (fun _ => 0) s.vf (VF.VFC_APW.die c k)) (rget (fun _ => 0) s.vf (VF.VFC_APW.rgn c k))

/-- R243, R413: a failed access. -/
def State.apReject (s : State) (d : Nat) : State := (s.put (F.HBM_RGN_CTL.host_reject d) 1).errc 0x18 1

/-- An access that crosses a window's end is split there. -/
def apParts (win a n : Nat) : List (Nat × Nat) :=
  if a % win + n ≤ win then [(a, n)] else [(a, win - a % win), (a + (win - a % win), n - (win - a % win))]

/-- What a host read returned (the model's record of the last completion, notes/assumptions/21). -/
def State.answer (s : State) (v : Nat) (pois : Bool) : State := { s with host := { s.host with rdata := v, rpois := pois } }

/-- What a BAR2 read returns: its data, and whether it completes as poisoned (R483). A rejected part reads as ones. -/
def State.bar2Data (s : State) (vf : Option Nat) (size a n : Nat) : Nat × Bool :=
  let win := if vf.isSome then 2 ^ 30 else size / 16
  (apParts win a n).foldl (fun r q =>
    match s.apWindow vf size q.1 q.2 false with
    | .reject _ => (r.1 + (256 ^ q.2 - 1) * 256 ^ (q.1 - a), r.2)
    | .reach d p at_ =>
      let (v, bs, _) := s.hbmReadSegs d p (at_ / 16) (segsOf at_ q.2)
      (r.1 + v / 256 ^ (at_ % 16) % 256 ^ q.2 * 256 ^ (q.1 - a), r.2 || bs.any id)) (0, false)

/-- BAR2_ACCESS: a host read or write of `n` bytes; a write carries its data. -/
def State.bar2 (s : State) (vf : Option Nat) (size a n : Nat) (data : Option Nat) : State :=
  let win := if vf.isSome then 2 ^ 30 else size / 16
  let live := match vf with
    | some c => s.get (F.HCTX_STATUS.state c) == 1
    | none => true
  if !live then (s.errc 3 1).answer 0 false else
  let r := s.bar2Data vf size a n
  let s := if data.isNone then s.answer r.1 r.2 else s
  (apParts win a n).foldl (fun s q =>
    match s.apWindow vf size q.1 q.2 data.isSome with
    | .reject d => s.apReject d
    | .reach d p at_ => match data with
      | some v => (s.hbmWrite d p at_ q.2 (v / 256 ^ (q.1 - a) % 256 ^ q.2)).apTear vf size q.1
      | none => (s.hbmReadSegs d p (at_ / 16) (segsOf at_ q.2)).2.2) s


end Sys2Proof.Machine
end

