-- ==== Sys2Proof/Machine/Fabric.lean ====
section
/-! DEFINITION. The links of the fabric dies (R257-R268, R287-R289): receiving, link control flits, replay, link
credits, output slots, training and port states. -/

namespace Sys2Proof.Machine

/-! Time at the fabric clock of 1.25 GHz (R12). -/

def fcUs (n : Nat) : Nat := 1250 * n
def fcMs (n : Nat) : Nat := 1250000 * n

/-! Link control flits (R258): 1,152 bits. -/

abbrev Lcf := BitVec 1152

def Lcf.byte (x : Lcf) (b n : Nat) : Nat := (x.extractLsb' (8 * b) (8 * n)).toNat
def Lcf.good (x : Lcf) : Bool :=
  x.byte 0 1 % 16 == 0 && x.byte 140 4 == crc32 ((List.range 140).map fun i => x.byte i 1)
def Lcf.type (x : Lcf) : Nat := x.byte 1 1
def Lcf.ack (x : Lcf) : Nat := x.byte 4 3
def Lcf.cred (x : Lcf) (vc : Nat) : Nat := x.byte (8 + 2 * vc) 2

/-- Bytes 0 to 139 of an LCF with their CRC-32. -/
def lcfSealed (v : Nat) : Lcf :=
  let x : Lcf := BitVec.ofNat 1152 v
  x ||| (BitVec.ofNat 1152 (crc32 ((List.range 140).map fun i => x.byte i 1)) <<< 1120)

/-- An LCF that a port sends: its counts (R258, R265, R266), and what an ident adds. -/
def Port.lcf (q : Port) (frame : Bool) (type : Nat) (ident : Nat := 0) : SlotOut :=
  .lcf (lcfSealed (16 * frame.toNat + type * 2 ^ 8 + q.rxGood * 2 ^ 32 +
    ((List.range 4).map fun vc => q.freed.getD vc 0 * 2 ^ (64 + 16 * vc)).sum + ident * 2 ^ 128))

/-- Bytes 16 to 23 of an ident LCF: the node, the port, its flags and the stamp. -/
def State.identBody (s : State) (f p stamp : Nat) : Nat :=
  s.node + p * 2 ^ 16 + s.get (F.FAB_PORT_CTL.spare f p) * 2 ^ 24 + s.get (F.FAB_PORT_CTL.dateline f p) * 2 ^ 25 + stamp * 2 ^ 32

/-! Receiving (R263, R265). -/

/-- R263 checks 2 to 4, then the router. A flit's hops count one more at every router it reaches (R260). -/
def State.accept (s : State) (f p : Nat) (x : Flit) : State :=
  let vcOk := match x.kind with
    | 1 => x.vc == 0
    | 2 => x.vc == 1
    | 3 => x.vc == 2
    | 4 => x.vc == 2
    | 5 => x.vc == 2
    | 6 => x.vc == 2 || x.vc == 3
    | 7 => x.vc == 3
    | 8 => x.vc == 3
    | _ => false
  if !vcOk then (s.count (F.FAB_CNT_HDR.count f) (fabErrc f 5) 1).freeBuf f (some p) x.vc
  else if x.hops = 31 && !x.bc && x.dst ≠ s.node then
    (s.count (F.FAB_CNT_TTL.count f) (fabErrc f 7) 1).freeBuf f (some p) x.vc
  else if x.rowBad then (s.badRow f x).freeBuf f (some p) x.vc
  else s.dispatchFlit f (some p) (x.set 62 5 (min 31 (x.hops + 1)))

/-! Acks and credits (R264, R266). -/

/-- The number of the oldest flit in the replay buffer. -/
def Port.oldest (q : Port) : Nat := (q.txNext + 2 ^ 24 - q.replay.length) % 2 ^ 24

/-- The flits that a cumulative ack covers leave the replay buffer. -/
def Port.acked (q : Port) (ack : Nat) : Port :=
  let n := (ack + 2 ^ 24 - q.oldest) % 2 ^ 24
  if n ≤ q.replay.length then
    { q with replay := q.replay.drop n, resend := min q.resend (q.replay.length - n) }
  else q

/-- The flit of a number that the port has sent on its link and that is not acknowledged. -/
def Port.sent (q : Port) (num : Nat) : Option Flit :=
  (q.replay.take (q.replay.length - q.resend))[(num + 2 ^ 24 - q.oldest) % 2 ^ 24]?

/-- Every unacknowledged flit is to be sent again, at a request for number `num` (R265): how often in a row that number has
been asked for. -/
def Port.resendFrom (q : Port) (num : Nat) : Port :=
  { q with resend := q.replay.length, reqNum := num,
           reqCount := if q.reqCount ≠ 0 && q.reqNum = num then q.reqCount + 1 else 1 }

/-- A flit that has arrived good is accepted. -/
def State.takeGood (s : State) (f p : Nat) (x : Flit) : State :=
  ((s.mapPort f p fun q => { q with rxGood := (q.rxGood + 1) % 2 ^ 24, discarding := false }).countRx f p).accept f p x

/-- A flit of the spine arrives from the other die (R286): it is good when it is the flit that was sent, which its CRC-32
shows; a bad one is asked for again over the sideband, which also carries the ack. -/
def State.spineReceive (s : State) (f p num : Nat) (x : Flit) : State :=
  match (s.port (1 - f) p).sent (num % 2 ^ 24) with
  | none => s
  | some y =>
    if num % 2 ^ 24 ≠ (s.port f p).rxGood then s
    else if x = y then
      (s.takeGood f p y).mapPort (1 - f) p fun q => q.acked ((num + 1) % 2 ^ 24)
    else
      let s := s.mapPort (1 - f) p fun q => q.resendFrom (num % 2 ^ 24)
      ((s.count (F.FAB_PORT_CNT_RETRY.count (1 - f) p) (fabErrc (1 - f) 2) 1).fabEvent (1 - f) 0x0A 1).errc (fabErrc f 0x19) 1

/-- FLIT_RECEIVE: flit number `num` of the link arrives at a port, in slots whose codewords decoded clean (`cw` 0),
corrected (1) or not at all (2). -/
def State.flitReceive (s : State) (f p num cw : Nat) (x : Flit) : State :=
  if !(s.portState f p == PortState.up || s.portState f p == PortState.draining ||
      s.portState f p == PortState.pendingEnable) then s
  else if isSpine p then s.spineReceive f p num x
  else if !isOptical p then s else
  let s := match cw with
    | 0 => s
    | 1 => s.count (F.FAB_PORT_CNT_FECC.count f p) (fabErrc f 0) 1
    | _ => s.count (F.FAB_PORT_CNT_FECU.count f p) (fabErrc f 1) 1
  let q := s.port f p
  let bad := decide (2 ≤ cw) || headerCrc x.hdr != x.f 112 16
  if num % 2 ^ 24 ≠ q.rxGood then s
  else if bad then s.setPort f p { q with discarding := true, askReplay := true }
  else s.takeGood f p x

def Port.credited (q : Port) (cred : Nat → Nat) : Port :=
  (List.range 4).foldl (fun q vc =>
    let n := (cred vc + 2 ^ 16 - q.credSeen.getD vc 0) % 2 ^ 16
    { q with inflight := dropVc vc n q.inflight, credSeen := q.credSeen.set vc (cred vc) }) q

/-- Whether a port holds a VC0 credit of either class, for R273. -/
def Port.vc0 (q : Port) (p : Nat) : Bool := q.hasCredit p 0 false || q.hasCredit p 0 true

/-- dry0 follows the VC0 credits. -/
def Port.watchDry (q : Port) (p now : Nat) : Port :=
  { q with dry0 := if q.vc0 p then none else some (q.dry0.getD now) }

/-- LCF_NORMAL. -/
def State.lcfNormal (s : State) (f p : Nat) (x : Lcf) : State :=
  if !x.good || x.type ≠ 0 then s else
  s.mapPort f p fun q => ((q.acked x.ack).credited x.cred).watchDry p s.now

/-! A port leaves UP (R272, R287, R289). -/

/-- R387: a member reports a port that has left UP, other than by draining, to the coordinator: LINKDOWN of its peer. -/
def State.linkdown (s : State) (f p : Nat) : State :=
  if s.get F.RCV_CTL.en = 1 && s.get F.TICK_PEERS.master_valid = 1 && s.get (F.FAB_PORT_PEER.valid f p) = 1 then
    s.inject 0 (Hdr.flit { kind := 8, vc := 3, dst := s.get F.TICK_PEERS.master_id, src := s.node }
      (3 + s.node * 2 ^ 16 + s.get (F.FAB_PORT_PEER.node f p) * 2 ^ 32 + (16 * f + p) * 2 ^ 192 +
        s.get F.RCV_STATUS.gen * 2 ^ 224))
  else s

/-- R272: the router sets the port's FAB_PORTSEL bit as it leaves UP. -/
def State.failPort (s : State) (f p : Nat) : State :=
  if s.get (F.FAB_CTL.auto_fail f) = 1 then s.put (F.FAB_PORTSEL.fail f) (s.get (F.FAB_PORTSEL.fail f) ||| 2 ^ p) else s

/-- Every flit of a port that leaves UP: those in the replay buffer are lost, those that wait are routed again. -/
def State.leaveUp (s : State) (f p : Nat) : State :=
  let q := s.port f p
  let s := s.failPort f p
  let s := s.count (F.FAB_CNT_LOST.count f) (fabErrc f 0xD) q.replay.length
  let s := s.setPort f p { q with out := [], replay := [], resend := 0, inflight := [], askReplay := false,
                                  discarding := false }
  (q.out.foldl (fun s x =>
    if x.2.bc then s.count (F.FAB_CNT_LOST.count f) (fabErrc f 0xD) 1 else s.dispatchFlit f x.1 x.2) s).linkdown f p

def State.portTo (s : State) (f p st at_ : Nat) : State :=
  (s.put (F.FAB_PORT_STATUS.state f p) st).mapPort f p fun q => { q with since := at_ }

/-- The transmitter goes dark. -/
def State.darken (s : State) (f p at_ : Nat) : State :=
  s.mapPort f p fun q => { q with lit := false, darkAt := at_ }

/-- RETRAIN: an UP port loses the signal of the lanes `dark`, or has been asked eight times for one flit. -/
def State.retrain (s : State) (f p at_ dark : Nat) : State :=
  if s.portState f p ≠ PortState.up || !isOptical p then s else
  let s := s.put (F.FAB_PORT_STATUS.lanes f p) (s.get (F.FAB_PORT_STATUS.lanes f p) &&& (255 - dark % 256))
  ((s.portTo f p PortState.retrain at_).mapPort f p fun q => { q with tries := 0 }).leaveUp f p

/-- REPLAY_REQUEST: the sender goes back to the flit named; the eighth request in a row for one flit retrains the
port. -/
def State.replayRequest (s : State) (f p at_ : Nat) (x : Lcf) : State :=
  if !x.good || x.type ≠ 3 then s else
  let q := ((((s.port f p).acked x.ack).credited x.cred).watchDry p s.now).resendFrom x.ack
  let s := ((s.setPort f p q).count (F.FAB_PORT_CNT_RETRY.count f p) (fabErrc f 2) 1).fabEvent f 0x0A 1
  if 8 ≤ q.reqCount then s.retrain f p at_ 0 else s

/-! Output slots (R266-R268). -/

/-- How a port sends (R274, R290): as a spare port, through a dateline. -/
structure PortMode where
  spare : Bool
  dateline : Bool

def State.portMode (s : State) (f p : Nat) : PortMode :=
  ⟨isOptical p && s.get (F.FAB_PORT_CTL.spare f p) == 1, isOptical p && s.get (F.FAB_PORT_CTL.dateline f p) == 1⟩

/-- The first flit of a VC that waits in a port's queue and may leave: a spare port holds all but TICK and CTRL (R290). -/
def Port.head (q : Port) (m : PortMode) (vc : Nat) : Option (Option Nat × Flit) :=
  q.out.find? fun x => x.2.vc == vc && (!m.spare || x.2.kind == 7 || x.2.kind == 8)

/-- The class of a flit that leaves: a dateline port sets dl (R274). -/
def PortMode.dl (m : PortMode) (x : Flit) : Bool := m.dateline || x.f 67 1 == 1

def dropFlit (x : Option Nat × Flit) : List (Option Nat × Flit) → List (Option Nat × Flit)
  | [] => []
  | y :: l => if y = x then l else y :: dropFlit x l

/-- The replay buffer's size (R264). -/
def replaySize (p : Nat) : Nat := if isOptical p then 2048 else 64

def Port.room (q : Port) (p : Nat) : Bool := decide (q.replay.length < replaySize p)

/-- What a port chooses in a slot (R268). -/
inductive Choice where
  | lcf (type : Nat)
  | again (x : Flit)
  | new (x : Option Nat × Flit)
  deriving DecidableEq, Repr

/-- A VC3 flit that may go: with a credit, and within the module's own limit of one per 16 flit times (R267). -/
def Port.vc3 (q : Port) (p node : Nat) (m : PortMode) : Option (Option Nat × Flit) :=
  match q.head m 3 with
  | some x =>
    if q.hasCredit p 3 (m.dl x.2) && q.room p && !(x.2.src == node && decide (q.vc3Gap < 16)) then some x else none
  | none => none

/-- The first of VC0 to VC2, from the pointer, with a flit and a credit. -/
def Port.normal (q : Port) (p : Nat) (m : PortMode) : Option (Option Nat × Flit) :=
  [q.rr % 3, (q.rr + 1) % 3, (q.rr + 2) % 3].findSome? fun vc => match q.head m vc with
    | some x => if q.hasCredit p vc (m.dl x.2) && q.room p then some x else none
    | none => none

/-- R265, R268: the LCF that asks for a replay goes in the next slot, as the framing LCF where that is due. -/
def Port.choose (q : Port) (p node : Nat) (m : PortMode) : Choice :=
  let due := isOptical p && (decide (q.slot = 256) || q.moved)
  if q.askReplay then .lcf 3
  else match (q.replay.drop (q.replay.length - q.resend)).head? with
  | some x => if due then .lcf 0 else .again x
  | none => match q.vc3 p node m with
    | some x => if due && q.moved then .lcf 0 else .new x
    | none => if due then .lcf 0 else match q.normal p m with
      | some x => .new x
      | none => .lcf 0

/-- A flit leaves a port for the link, whose far end holds it until it is acknowledged, and frees the buffer it held. A
compute die's fabric port takes what a route sends there and has no use for it (DESIGN CHOICE, notes/assumptions/114). -/
def State.sendOut (s : State) (f p : Nat) (z : Option Nat × Flit) : State :=
  let m := s.portMode f p
  let x := if m.dateline then z.2.set 67 1 1 else z.2
  let link := isOptical p || isSpine p
  let s := s.mapPort f p fun q =>
    { q with out := dropFlit z q.out, txNext := (q.txNext + 1) % 2 ^ 24,
             replay := if link then q.replay ++ [x] else q.replay,
             inflight := if link then q.inflight ++ [(x.vc, m.dl x)] else q.inflight,
             rr := if x.vc < 3 then (x.vc + 1) % 3 else q.rr,
             vc3Gap := if x.vc = 3 && x.src = s.node then 1 else q.vc3Gap, vc3Wait := if x.vc = 3 then false else q.vc3Wait,
             last := .flit x }
  ((s.countTx f p x.vc).mapPort f p fun q => q.watchDry p s.now).freeBuf f z.1 x.vc

/-- R267: a VC3 flit at the head that finds no credit waits, and is counted once. -/
def State.vc3Waits (s : State) (f p : Nat) (m : PortMode) : State :=
  let q := s.port f p
  match q.head m 3 with
  | some x =>
    if q.hasCredit p 3 (m.dl x.2) || q.vc3Wait then s
    else (s.setPort f p { q with vc3Wait := true }).count (F.FAB_PORT_CNT_VC3WAIT.count f p) (fabErrc f 4) 1
  | none => s

/-- R467 event 0x09: a flit waits and no VC that has one holds a credit. -/
def Port.starved (q : Port) (p : Nat) (m : PortMode) : Bool :=
  (List.range 4).any fun vc => match q.head m vc with
    | some x => !q.hasCredit p vc (m.dl x.2)
    | none => false

/-- A port whose drain goes on (R287, R288): DRAINING, or PENDING_ENABLE with its drain unfinished. -/
def State.draining (s : State) (f p : Nat) : Bool :=
  s.portState f p == PortState.draining || (s.portState f p == PortState.pendingEnable && !(s.port f p).drained)

/-- One slot of an output port at fc `at_`. Bridges carry no LCF (R286): a slot of theirs with no flit stays empty. -/
def State.slotOf (s : State) (f p at_ : Nat) : State :=
  if s.portState f p ≠ PortState.up && !s.draining f p then s else
  let m := s.portMode f p
  let s := s.vc3Waits f p m
  let q := s.port f p
  let s := if q.starved p m && decide (q.slotAt < at_) then s.fabEvent f 0x09 1 else s
  let due := isOptical p && (decide (q.slot = 256) || q.moved)
  let step (q : Port) (moved : Bool) : Port :=
    { q with slot := if q.slot = 256 then 0 else q.slot + 1, moved := moved, slotAt := at_, vc3Gap := min 16 (q.vc3Gap + 1) }
  match q.choose p s.node m with
  | .lcf t =>
    if !isOptical p then s.setPort f p { step q false with last := .none } else
    let s := s.setPort f p { step q false with askReplay := false, last := q.lcf due t }
    if due || t = 3 then s else s.fabEvent f 0x08 1
  | .again x =>
    (s.setPort f p { step q false with resend := q.resend - 1, last := .flit x }).fabEvent f (2 + x.vc) 1
  | .new x => (s.setPort f p (step q due)).sendOut f p x

/-! Training (R287, R288). -/

def State.laserLit (s : State) (f : Nat) : Bool := s.get (F.FAB_LASER.in0_ok f) == 1 || s.get (F.FAB_LASER.in1_ok f) == 1

/-- A dark port's transmitter may start again: 10 ms of dark have passed and a laser input is lit. -/
def State.mayTrain (s : State) (f p at_ : Nat) : Bool :=
  s.laserLit f && decide ((s.port f p).darkAt + fcMs 10 ≤ at_)

def State.startTraining (s : State) (f p at_ : Nat) : State :=
  (s.portTo f p PortState.signal at_).mapPort f p fun q => { q with lit := true, drained := false }

/-- FAB_PORT_ENABLE. -/
def State.portEnable (s : State) (f p at_ : Nat) : State :=
  if !isOptical p then s else
  let s := if s.get (F.FAB_PORT_CTL.enable f p) = 0 then s.put (F.FAB_PORT_STATUS.attempts f p) 0 else s
  let s := s.put (F.FAB_PORT_CTL.enable f p) 1
  if s.portState f p = PortState.off then
    if s.mayTrain f p at_ then s.startTraining f p at_
    else if (s.port f p).darkAt + fcMs 10 ≤ at_ then s
    else (s.portTo f p PortState.pendingEnable at_).mapPort f p fun q => { q with drained := true }
  else if s.portState f p = PortState.draining then
    (s.put (F.FAB_PORT_STATUS.state f p) PortState.pendingEnable).mapPort f p fun q => { q with drained := false }
  else s

/-- FAB_PORT_DISABLE. -/
def State.portDisable (s : State) (f p at_ : Nat) : State :=
  if !isOptical p then s else
  let s := s.put (F.FAB_PORT_CTL.enable f p) 0
  if s.portState f p = PortState.up then (s.failPort f p).portTo f p PortState.draining at_
  else if s.portState f p = PortState.pendingEnable then
    s.put (F.FAB_PORT_STATUS.state f p) (if (s.port f p).drained then PortState.off else PortState.draining)
  else s

/-- A training state is left for another when its condition holds. -/
def State.trainStep (s : State) (f p from_ to_ at_ : Nat) : State :=
  if s.portState f p = from_ then s.portTo f p to_ at_ else s

/-- TRAINING_PATTERN_DETECTED. -/
def State.patternDetected (s : State) (f p at_ : Nat) : State :=
  if s.portState f p = PortState.signal then
    (s.portTo f p PortState.equalize at_).put (F.FAB_PORT_STATUS.lanes f p) 0xFF
  else s

/-- A link comes up: numbering, replay and credits start again (R264, R266). -/
def Port.linkUp (q : Port) : Port :=
  { q with txNext := 0, replay := [], resend := 0, inflight := [], credSeen := [0, 0, 0, 0], rxGood := 0,
           freed := [0, 0, 0, 0], discarding := false, askReplay := false, reqNum := 0, reqCount := 0, slot := 0,
           moved := false, dry0 := none, tries := 0 }

/-- LOCK_FOUND: a port stays in LOCK while no node ID is assigned (R292). -/
def State.lockFound (s : State) (f p at_ : Nat) : State :=
  if s.portState f p = PortState.lock && s.get (F.FAB_NODE.valid 0) = 1 then
    (s.portTo f p PortState.ident at_).mapPort f p fun q =>
      { q with stamp := at_ % 2 ^ 32, last := q.linkUp.lcf false 1 (s.identBody f p (at_ % 2 ^ 32)) }
  else s

/-- Back to SIGNAL with one more failed attempt. -/
def State.trainFail (s : State) (f p at_ : Nat) : State :=
  (s.portTo f p PortState.signal at_).put (F.FAB_PORT_STATUS.attempts f p)
    (min 255 (s.get (F.FAB_PORT_STATUS.attempts f p) + 1))

/-- IDENT: the peer's ident LCF. How the stamps give the RTT the manual does not state: it is a free value. -/
def State.ident (s : State) (f p at_ : Nat) (x : Lcf) : State :=
  if !x.good || x.type ≠ 1 || s.portState f p ≠ PortState.ident then s else
  if x.byte 16 2 % 2 ^ 14 = s.node then s.trainFail f p at_
  else
    let (r, s) := s.fresh64
    let s := ((s.put (F.FAB_PORT_PEER.node f p) (x.byte 16 2 % 2 ^ 14)).put (F.FAB_PORT_PEER.port f p) (x.byte 18 1)).put
      (F.FAB_PORT_PEER.peer_spare f p) (x.byte 19 1 % 2)
    let s := (s.put (F.FAB_PORT_PEER.valid f p) 1).put (F.FAB_PORT_STATUS.rtt f p) r.toNat
    (s.portTo f p PortState.credit at_).mapPort f p fun q => { q with last := q.linkUp.lcf false 2 }

/-- CREDIT_INIT, at the port. -/
def State.creditInit (s : State) (f p at_ : Nat) (x : Lcf) : State :=
  if !x.good || x.type ≠ 2 || s.portState f p ≠ PortState.credit then s else
  (s.portTo f p PortState.up at_).mapPort f p Port.linkUp

/-- TRAINING_TIMEOUT: a training state's limit has passed. -/
def State.trainTimeout (s : State) (f p at_ : Nat) : State :=
  let limit := match s.portState f p with
    | 1 => some (fcMs 1000)
    | 2 => some (fcMs 2000)
    | 3 => some (fcMs 100)
    | 4 => some (fcMs 100)
    | _ => none
  match limit with
  | some l => if (s.port f p).since + l ≤ at_ then s.trainFail f p at_ else s
  | none => s

/-- RETRAIN_ATTEMPT_END: an attempt of 1 ms regains lock and ident, or fails; the third failure is a link-down. -/
def State.retrainEnd (s : State) (f p at_ : Nat) (ok : Bool) : State :=
  if s.portState f p ≠ PortState.retrain then s
  else if ok then ((s.portTo f p PortState.up at_).put (F.FAB_PORT_STATUS.lanes f p) 0xFF).mapPort f p Port.linkUp
  else if (s.port f p).tries + 1 < 3 then s.mapPort f p fun q => { q with tries := q.tries + 1 }
  else (s.portTo f p PortState.signal at_).count (F.FAB_PORT_CNT_DOWN.count f p) (fabErrc f 3) 1

/-- What a port still holds as its transmitter goes dark is lost; no part of its shutdown is left undone (R287, R288). -/
def State.portLose (s : State) (f p : Nat) : State :=
  let q := s.port f p
  let s := q.out.foldl (fun s x => s.freeBuf f x.1 x.2.vc)
    (s.count (F.FAB_CNT_LOST.count f) (fabErrc f 0xD) (q.out.length + q.replay.length))
  s.mapPort f p fun q => { q with out := [], replay := [], resend := 0, inflight := [], drained := true }

/-- PORT_DRAIN_COMPLETE: the port is empty, or 1 ms has passed; its transmitter goes dark. -/
def State.portDrained (s : State) (f p at_ : Nat) : State :=
  let q := s.port f p
  let st := s.portState f p
  if !s.draining f p || !((q.out.isEmpty && q.replay.isEmpty) || decide (q.since + fcMs 1 ≤ at_)) then s else
  let s := (s.portLose f p).darken f p at_
  let s := s.put (F.FAB_PORT_STATUS.lanes f p) 0
  if st = PortState.draining then s.portTo f p PortState.off at_ else s

/-- DARK_TIMER_EXPIRY: 10 ms of dark have passed. -/
def State.darkExpiry (s : State) (f p at_ : Nat) : State :=
  let st := s.portState f p
  if s.mayTrain f p at_ && ((st = PortState.pendingEnable && (s.port f p).drained) ||
      (st = PortState.off && s.get (F.FAB_PORT_CTL.enable f p) = 1 && isOptical p)) then s.startTraining f p at_
  else s

/-! Lasers (R259). -/

/-- FAB_PORT_STATUS.laser_ok of every port. -/
def State.showLaser (s : State) (f : Nat) : State :=
  (List.range 24).foldl (fun s p => s.put (F.FAB_PORT_STATUS.laser_ok f p) (s.laserLit f).toNat) s

/-- With both inputs dark, a port that is not OFF goes OFF and dark. -/
def State.laserOff (s : State) (f p at_ : Nat) : State :=
  let st := s.portState f p
  if st = PortState.off then s
  else
    let drained := !s.draining f p
    let s := s.portTo f p PortState.off at_
    let s := if st = PortState.up then s.leaveUp f p else if drained then s else s.portLose f p
    (s.put (F.FAB_PORT_STATUS.lanes f p) 0).darken f p at_

def laserOk (f k : Nat) : RF := if k = 0 then F.FAB_LASER.in0_ok f else F.FAB_LASER.in1_ok f
def laserPwr (f k : Nat) : RF := if k = 0 then F.FAB_LASER.in0_pwr f else F.FAB_LASER.in1_pwr f

/-- LASER_INPUT_DARK. -/
def State.laserDark (s : State) (f k pwr at_ : Nat) : State :=
  let s := ((s.put (laserOk f k) 0).put (laserPwr f k) pwr).put (F.FAB_LASER.degraded f) 1
  let s := (s.count (F.FAB_CNT_LASER.count f) (fabErrc f 0xF) 1).showLaser f
  if s.laserLit f then s else (List.range 16).foldl (fun s p => s.laserOff f p at_) s

/-- LASER_INPUT_LIT: an enabled port that waited for light trains once it has been dark long enough. -/
def State.laserLitUp (s : State) (f k pwr at_ : Nat) : State :=
  let s := ((s.put (laserOk f k) 1).put (laserPwr f k) pwr).showLaser f
  (List.range 16).foldl (fun s p => s.darkExpiry f p at_) s

end Sys2Proof.Machine
end

