-- ==== Sys2Proof/Machine/Stage.lean ====
section
/-! DEFINITION. What the recovery units share: CTRL messages (R373, R389), the Varnish staging areas (R242, R379), and
the Sketchbook (R384-R386). -/

namespace Sys2Proof.Machine

/-! CTRL messages (R389). -/

structure Ctrl where
  op : Nat
  flags : Nat := 0
  subject : Nat := 0
  ctx : Nat := 0
  a0 : Nat := 0
  a1 : Nat := 0
  a2 : Nat := 0
  gen : Nat := 0
  body : Nat := 0

def Ctrl.payload (m : Ctrl) (origin : Nat) : Nat :=
  m.op + m.flags * 2 ^ 8 + origin * 2 ^ 16 + m.subject * 2 ^ 32 + m.ctx * 2 ^ 48 + m.a0 * 2 ^ 64 + m.a1 * 2 ^ 128 +
    m.a2 * 2 ^ 192 + m.gen * 2 ^ 224 + m.body * 2 ^ 256

def State.ctrlFlit (s : State) (m : Ctrl) (dst : Nat) : Flit :=
  Hdr.flit { kind := 8, vc := 3, dst := dst, src := s.node } (m.payload s.node)

/-- A message to one node, from fabric die W (R276, R372). -/
def State.ctrl (s : State) (m : Ctrl) (dst : Nat) : State := s.inject 0 (s.ctrlFlit m dst)

/-- A message to all, by the broadcast tree of the master's ticks. -/
def State.ctrlAll (s : State) (m : Ctrl) : State :=
  s.inject 0 (Hdr.flit { kind := 8, vc := 3, bc := 1, tree := s.tick.tree, src := s.node } (m.payload s.node))

/-- The coordinator and the standby that the module knows. -/
def State.coords (s : State) : List Nat :=
  (if s.get F.TICK_PEERS.master_valid = 1 then [s.get F.TICK_PEERS.master_id] else []) ++
    (if s.get F.TICK_PEERS.standby_valid = 1 then [s.get F.TICK_PEERS.standby_id] else [])

def State.toCoords (s : State) (m : Ctrl) : State := s.coords.foldl (fun s n => s.ctrl m n) s

/-- The first CTRL message of an op in the inbox. -/
def State.popCtrl (s : State) (op : Nat) : Option (Flit × State) := s.pop fun x => x.kind == 8 && x.bytes 0 1 == op

def Flit.cFlags (x : Flit) : Nat := x.bytes 1 1
def Flit.cOrigin (x : Flit) : Nat := x.bytes 2 2 % 2 ^ 14
def Flit.cSubject (x : Flit) : Nat := x.bytes 4 2
def Flit.cCtx (x : Flit) : Nat := x.bytes 6 1 % 64
def Flit.cA0 (x : Flit) : Nat := x.bytes 8 8
def Flit.cA1 (x : Flit) : Nat := x.bytes 16 8
def Flit.cA2 (x : Flit) : Nat := x.bytes 24 4
def Flit.cGen (x : Flit) : Nat := x.bytes 28 4

/-- The generation that this module's own messages carry. -/
def State.gen (s : State) : Nat := s.get F.RCV_STATUS.gen

/-! Staging granules (R242, R379). -/

def stageCount (d : Nat) : Nat := if d = 0 || d = 3 then 11776 else 12288

/-- Staging granule `j` of a die: its stack and its granule. -/
def stageGran (d j : Nat) : Nat × Nat :=
  if d = 0 then (if j < 1536 then (0, 30720 + j) else (1 + (j - 1536) / 2048, 30720 + (j - 1536) % 2048))
  else (j / 2048, 30720 + j % 2048)

/-- `n` bytes at byte `o` of the area that begins at staging granule `g`; both are multiples of 16. -/
def State.stageRead (s : State) (d g o n : Nat) : Nat → Nat × List Bool × State
  | 0 => (0, [], s)
  | k + 1 =>
    if n = 0 then (0, [], s) else
    let m := min n (2 ^ 21 - o % 2 ^ 21)
    let (p, gr) := stageGran d (g + o / 2 ^ 21)
    let (v, b, s) := s.hbmReadSegs d p ((gr * 2 ^ 21 + o % 2 ^ 21) / 16) (m / 16)
    let (w, bs, s) := s.stageRead d g (o + m) (n - m) k
    (v + 256 ^ m * w, b ++ bs, s)

def State.stageWrite (s : State) (d g o n v : Nat) (pois : List Bool) : Nat → State
  | 0 => s
  | k + 1 =>
    if n = 0 then s else
    let m := min n (2 ^ 21 - o % 2 ^ 21)
    let (p, gr) := stageGran d (g + o / 2 ^ 21)
    (s.hbmWriteSegs d p ((gr * 2 ^ 21 + o % 2 ^ 21) / 16) (v % 256 ^ m) pois (m / 16)).stageWrite d g (o + m) (n - m)
      (v / 256 ^ m) (pois.drop (m / 16)) k

/-- The granules an access of `n` bytes can meet. -/
def granFuel (n : Nat) : Nat := n / 2 ^ 21 + 2

/-- Whether a staging area of `n` granules lies on a FAILED stack. -/
def State.stageFailed (s : State) (d g n : Nat) : Bool :=
  (List.range n).any fun j => s.engState d (stageGran d (g + j)).1 == 4

/-! The bytes of a snapshot. -/

/-- Bytes `off` to `off + n - 1` of a snapshot whose die `d`'s part begins at byte `start`: the parts from die `d` on, one
after the other. -/
def State.snapFrom (s : State) (c k off n start d : Nat) : Nat → Nat × List Bool × State
  | 0 => (0, [], s)
  | m + 1 =>
    let len := (s.vslot c k).lens.getD d 0
    let lo := max off start
    let hi := min (off + n) (start + len)
    if lo < hi then
      let (v, b, s) := s.stageRead d (s.placeGran c k) (lo - start) (hi - lo) (granFuel n)
      let (w, bs, s) := s.snapFrom c k off n (start + len) (d + 1) m
      (v + 256 ^ (hi - lo) * w, b ++ bs, s)
    else s.snapFrom c k off n (start + len) (d + 1) m

def State.snapRead (s : State) (c k off n : Nat) : Nat × List Bool × State := s.snapFrom c k off n 0 0 4

/-- The same for the snapshot of export channel `x`. -/
def State.snapBytes (s : State) (x off n : Nat) : Nat × List Bool × State :=
  match s.heldSlot (s.get (F.EXP_CTL.ctx x)) (s.get (F.EXP_SRC.snap x)) with
  | some k => s.snapRead (s.get (F.EXP_CTL.ctx x)) k off n
  | none => (0, [], s)

/-! The Sketchbook (R384-R386). -/

/-- A record before its number, tick, context, seed and CRC are filled in. -/
structure Rec where
  kind : Nat
  step : Nat := 0
  phase : Nat := 0
  id : Nat := 0
  unit : Nat := 0
  cursor : Option (Nat × Nat) := none
  replay : Bool := false
  aux : Nat := 0

/-- The 64 B of a record (R384). -/
def State.recordOf (s : State) (c seq gen : Nat) (r : Rec) : Nat :=
  let v := seq + s.get F.TICK_NUMBER.number * 2 ^ 64 + r.step * 2 ^ 128 + r.kind * 2 ^ 168 + r.phase * 2 ^ 176 +
    r.id * 2 ^ 184 + r.unit * 2 ^ 192 + c * 2 ^ 208 + (r.cursor.isSome.toNat + 2 * r.replay.toNat) * 2 ^ 216 +
    s.get (F.LDR_CTX_CFG.seed 0 c) * 2 ^ 224 + ((r.cursor.map (·.1)).getD 0) * 2 ^ 256 +
    ((r.cursor.map (·.2)).getD 0) * 2 ^ 320 + r.aux * 2 ^ 384 + gen * 2 ^ 448
  v + crc32 ((List.range 60).map fun i => v / 256 ^ i % 256) * 2 ^ 480

/-- Where a record lies in the log of a context, or in the mirror of the module it mirrors: (die, stack, address). -/
def skbPlace (mirror : Bool) (c seq : Nat) : Nat × Nat × Nat :=
  (if mirror then 3 else 0, if mirror then 5 else 0, (32256 + 8 * c) * 2 ^ 21 + 64 * (seq % 262144))

/-- R386: a record is written, unless its stack is FAILED. -/
def State.skbPut (s : State) (mirror : Bool) (c seq v : Nat) : State :=
  let (d, p, a) := skbPlace mirror c seq
  if s.engState d p = 4 then (if mirror then s else s.put F.VRN_STATUS.skb_lost 1) else s.hbmWrite d p a 64 v

/-- A record read back: one with a bad CRC is counted and absent (R384). -/
def State.skbGet (s : State) (mirror : Bool) (c seq : Nat) : Option Nat × State :=
  let (d, p, a) := skbPlace mirror c seq
  let (v, bs, s) := s.hbmReadSegs d p (a / 16) 4
  if bs.any id || crc32 ((List.range 60).map fun i => v / 256 ^ i % 256) != v / 2 ^ 480 then
    (none, s.count F.SKB_CNT_CRC.count 0x12 1)
  else if v % 2 ^ 64 = seq then (some v, s) else (none, s)

/-- The oldest local snapshot that a context holds. -/
def State.oldestSlot (s : State) (c : Nat) : Option Nat :=
  ((List.range 3).filter fun k => s.slotHolds c k).foldl (fun b k => match b with
    | none => some k
    | some j => if (s.vslot c k).age < (s.vslot c j).age then some k else some j) none

/-- R386: a record that would overwrite one still needed first frees the oldest snapshot's slot. -/
def State.skbRoom (s : State) (c seq : Nat) : Nat → State
  | 0 => s
  | n + 1 => match s.oldestSlot c with
    | some k =>
      if SMap.getD s.vrn.snapRec (4 * c + k) 0 + 262144 ≤ seq then (((s.setSlotState c k 0).showNewest c).skbRoom c seq n)
      else s
    | none => s

/-- The logger writes a record of a protected context and sends it to the log buddy at fc `at_`. -/
def State.skbLog (s : State) (c gen at_ : Nat) (r : Rec) : State :=
  if s.get F.SKB_CTL.en = 0 || !s.vrnOn c then s else
  let seq := s.get (F.SKB_SEQ.next c)
  let s := s.skbRoom c seq 3
  let v := s.recordOf c seq gen r
  let s := (s.skbPut false c seq v).put (F.SKB_SEQ.next c) (seq + 1)
  if s.get F.RCV_PEERS.log_buddy_v = 1 then
    ({ s with vrn := { s.vrn with logs := s.vrn.logs ++ [(c, seq, at_)] } }).ctrl { op := 0x0E, ctx := c, body := v }
      (s.get F.RCV_PEERS.log_buddy)
  else s

/-! Copies arriving from other modules (R381-R383). -/

/-- The context whose Varnish engines take the WRITEs of a flow: a buddy-in flow, or, at a spare, a mirror flow of the
module it replaces during a fill (R383, R397). -/
def State.vrnFlow (s : State) (i : Nat) : Option Nat :=
  (List.range 64).find? fun c =>
    let b := s.get (F.VRN_CTX_W2.bflow c)
    let m := s.get (F.VRN_CTX_W2.mflow c)
    s.vrnOn c && (decide (b ≤ i && i < b + s.get (F.VRN_CTX_W2.nbf c)) ||
      (s.rcv.fills.any (fun q => q.1 == c) && decide (m ≤ i && i < m + s.get (F.VRN_CTX_W2.nmf c))))

/-- Credit for `n` buffers of 4,096 rows on a flow that the Varnish engine receives (R383). -/
def State.vrnCredit (s : State) (i n : Nat) : State :=
  let first := (s.flow i).given
  (s.mapFlow i fun w => { w with given := (first + n) % 64 }).inject (flowDie i)
    (s.creditFlit i (s.flowEpoch i) 0 0 first n 63 4095 0)

/-- Two numbers of `n` 8-byte words added word by word, modulo 2^64 (R381). -/
def addWords : Nat → Nat → Nat → Nat
  | 0, _, _ => 0
  | n + 1, a, b => (a % 2 ^ 64 + b % 2 ^ 64) % 2 ^ 64 + 2 ^ 64 * addWords n (a / 2 ^ 64) (b / 2 ^ 64)

/-- The same subtracted. -/
def subWords : Nat → Nat → Nat → Nat
  | 0, _, _ => 0
  | n + 1, a, b => (a % 2 ^ 64 + 2 ^ 64 - b % 2 ^ 64) % 2 ^ 64 + 2 ^ 64 * subWords n (a / 2 ^ 64) (b / 2 ^ 64)

/-- The bytes of a WRITE placed in the granules of their copy, added to what is there (parity) or taken from it (a fill). -/
def State.vrnPlace (s : State) (c : Nat) (x : Flit) (y : VrnIn) (d o n : Nat) : State :=
  let marks := (List.range (x.f 98 3 + 1)).map fun k => (x.f 101 8).testBit k
  let g := s.placeGran c y.slot
  if y.parity || y.sub then
    let r := s.stageRead d g o n (granFuel n)
    let v := if y.sub then subWords (n / 8) r.1 (x.bytes 0 n) else addWords (n / 8) r.1 (x.bytes 0 n)
    r.2.2.stageWrite d g o n v (r.2.1.zipWith (· || ·) marks) (granFuel n)
  else s.stageWrite d g o n (x.bytes 0 n) marks (granFuel n)

/-- The length of a copy's section on a die grows to `len`. -/
def State.vrnGrow (s : State) (c : Nat) (y : VrnIn) (d len : Nat) : State :=
  if y.slot < 5 then s.mapSlot c y.slot fun w => { w with lens := w.lens.set d (max (w.lens.getD d 0) len) } else s

/-- A WRITE for the Varnish engines of context `c`: it goes to the place chosen at the sender's SNAP_BEGIN; the last flit
of an operation returns its buffer's credit. -/
def State.vrnWrite (s : State) (c : Nat) (x : Flit) : State :=
  let tile := x.f 68 13
  let d := tile / 2048
  let o := tile % 2048 * 2 ^ 21 + 16 * x.f 81 17
  let n := 16 * (x.f 98 3 + 1)
  let s := match (s.vctx c).ins.find? fun y => y.src == x.src with
    | none => s
    | some y => (s.vrnPlace c x y d o n).vrnGrow c y d (o + n)
  if x.f 11 1 = 1 then s.vrnCredit x.flow 1 else s

end Sys2Proof.Machine
end

