-- ==== Sys2Proof/Machine/Flow.lean ====
section
/-! DEFINITION. Stream flows (R277-R284, R343): FPUT and FSEND at their flow context, credits, the flow schedulers,
WRITEs at the receiving module, ACKs, NACKs and the flow timeout. -/

namespace Sys2Proof.Machine

/-! Descriptors (R279). -/

def fopSrc (d : Row) : Nat := d.field 0 21
def fopFlow (d : Row) : Nat := d.field 21 14
def fopEpoch (d : Row) : Nat := d.field 35 8
def fopCont (d : Row) : Bool := d.field 43 1 == 1
def fopTile (d : Row) : Nat := d.field 64 13
def fopAddr (d : Row) : Nat := d.field 77 21
def fopSegs (d : Row) : Nat := d.field 112 16 + 1

/-- The fields given as zero of an FPUT or of an FSEND on a stream flow. -/
def fopZeros (put : Bool) (d : Row) : Bool :=
  d.zeros [(0, 4), (44, 20), (98, 14), (128, 384)] && d.zeros (if put then [(77, 4)] else [(64, 34)])

/-! Fields of a flow context (R292). -/

def State.flowKind (s : State) (i : Nat) : Nat := s.get (F.FAB_FLOW_W0.kind (flowDie i) (flowIdx i))
def State.flowCtx (s : State) (i : Nat) : Nat := s.get (F.FAB_FLOW_W0.ctx (flowDie i) (flowIdx i))
def State.flowTile (s : State) (i : Nat) : Nat := s.get (F.FAB_FLOW_W0.tile (flowDie i) (flowIdx i))
def State.flowSends (s : State) (i : Nat) : Bool := s.get (F.FAB_FLOW_W0.send (flowDie i) (flowIdx i)) == 1
def State.flowRecvs (s : State) (i : Nat) : Bool := s.get (F.FAB_FLOW_W0.recv (flowDie i) (flowIdx i)) == 1
def State.flowAdapt (s : State) (i : Nat) : Bool := s.get (F.FAB_FLOW_W0.adapt (flowDie i) (flowIdx i)) == 1

/-- R343: the role epoch of the tile that serves a global tile ID. -/
def State.roleEpoch (s : State) (g : Nat) : Nat := match s.phys g with
  | some p => (s.tile p).get TF.TILE_SELF.role_epoch
  | none => 0

/-! Source rows (R279). -/

/-- `n` bytes from `a` through the edge port, one access a Palette row, whose requests reach the tile in cycle `c`. -/
def TW.edgeRows (x : TW) (c : Nat) (who : Who) (a n : Nat) : Nat → Bytes × TW
  | 0 => (⟨a, 0, 0, [], false⟩, x)
  | k + 1 =>
    if n = 0 then (⟨a, 0, 0, [], false⟩, x) else
    let m := min n (64 - a % 64)
    let (c', y) := x.edgeClaim c (bankOf a) 2
    let (b, y) := (y.commitStores c').readPart c' .engR who a m
    let (r, y) := (y.perf 0x15 1).edgeRows c who (a + m) (n - m) k
    (⟨a, n, b.v + 256 ^ m * r.v, b.pois ++ r.pois, b.viol || r.viol⟩, y)

/-- A tile's rows read for a unit outside it. -/
def State.edgeRead (s : State) (p c : Nat) (who : Who) (a n : Nat) : Bytes × State :=
  let (b, y) := TW.edgeRows ⟨s.tile p, [], s.env p⟩ c who a n (n / 64 + 2)
  (b, (s.setTile p y.t).effects p y.env c y.out)

/-! WRITE flits (R262, R279). -/

/-- The flits of `n` bytes `v` with their flags for destination `a`: up to 128 B each, none across a 128 B boundary of
its destination, last set on the final one. -/
def State.writeFlits (s : State) (i tile : Nat) (a n v : Nat) (pois : List Bool) : Nat → List Flit
  | 0 => []
  | k + 1 =>
    if n = 0 then [] else
    let m := min n (128 - a % 128)
    let flags := ((pois.take (m / 16)).zipIdx.map fun q => q.1.toNat * 2 ^ q.2).sum
    let x := Hdr.flit { kind := 1, vc := 0, adapt := (s.flowAdapt i).toNat, last := (decide (n = m)).toNat,
                        dst := s.flowPeer i, src := s.node, flow := i, epoch := s.flowEpoch i,
                        spec := tile + a / 16 % 2 ^ 17 * 2 ^ 13 + (m / 16 - 1) * 2 ^ 30 + flags * 2 ^ 33 } (v % 256 ^ m)
    x :: s.writeFlits i tile (a + m) (n - m) (v / 256 ^ m) (pois.drop (m / 16)) k

/-- Flits that are ready to leave a flow (R284). -/
def State.schedAdd (s : State) (i : Nat) (xs : List Flit) : State :=
  { s with fab := { s.fab with sched := s.fab.sched ++ xs.map fun x => (i, x) } }

def State.schedOf (s : State) (i : Nat) : Nat := (s.fab.sched.filter fun q => q.1 == i && q.2.vc == 0).length

/-! Tokens of FPUT and FSEND (R283, R467, R469). -/

/-- An operation's token clears at fc `at_` (tile cycle `c`); `start` is the fc in which it took its credit. -/
def State.fopDone (s : State) (p : Nat) (o : QOp) (status : Nat) (start : Option Nat) (at_ c : Nat) : State :=
  let f := flowDie (fopFlow o.desc)
  let s := if (s.tile p).fabric.any (·.id == o.id) then s.onTileLow p fun x => x.finish o status c else s
  let s := s.fabEvent f 0x0D 1
  match start with
  | some b => if status = 0 || status = 2 then s.hist (0x101A440 + 0x80000 * f) (s.get (F.HST_FCTL.s_flow f)) (at_ - b)
      else s
  | none => s

/-! Units that send on flows (R368, R369, R383). -/

/-- A copy whose operations have all been resolved is closed by SNAP_END; one that failed leaves its snapshot LOCAL, and
so does what was still to go to its destination. -/
def State.endCopy (s : State) (c k : Nat) : State :=
  match (s.vctx c).copies.find? fun y => y.id == k with
  | none => s
  | some y =>
    if !y.queued || y.left ≠ 0 then s
    else if y.failed then
      let fail (z : VrnCopy) : VrnCopy :=
        if z.seq = y.seq && z.dest = y.dest && !z.queued then { z with failed := true } else z
      (s.count F.VRN_CNT_MIRERR.count 0x11 1).mapVctx c fun v => { v with copies := v.copies.map fail }
    else s.ctrl { op := 0x11, ctx := c, a0 := y.seq, a1 := y.bytes } y.dest

/-- A channel leaves RUNNING; its pin is released. -/
def State.channelEnd (s : State) (x st cause : Nat) : State :=
  let c := s.get (F.EXP_CTL.ctx x)
  let s := match s.heldSlot c (s.get (F.EXP_SRC.snap x)) with
    | some k => s.setPin c k ((List.range 4).any fun y => y != x && s.get (F.EXP_STATUS.state y) == 1 &&
        s.get (F.EXP_CTL.ctx y) == c)
    | none => s
  (s.put (F.EXP_STATUS.state x) st).put (F.EXP_STATUS.cause x) cause

/-- A unit's operation clears. -/
def State.unitDone (s : State) (u : FlowUnit) (status : Nat) : State :=
  match u with
  | .mirror c k =>
    let upd (y : VrnCopy) : VrnCopy :=
      if y.id = k then { y with left := y.left - 1, failed := y.failed || status != 0 } else y
    (s.mapVctx c fun v => { v with copies := v.copies.map upd }).endCopy c k
  | .channel x =>
    if status = 0 || s.get (F.EXP_STATUS.state x) ≠ 1 then s
    else s.channelEnd x 3 (if status = 2 then 4 else 5)

/-- R280: a rejected operation. -/
def State.fopReject (s : State) (p : Nat) (o : QOp) (at_ c : Nat) : State :=
  let f := flowDie (fopFlow o.desc)
  (s.count (F.FAB_CNT_INVAL.count f) (fabErrc f 0xE) 1).fopDone p o 3 none at_ c

/-- The checks of R280 that hold for every flow. -/
def State.fopRefused (s : State) (p : Nat) (o : QOp) : Bool :=
  let i := fopFlow o.desc
  let e := s.env p
  !s.flowActive i || s.flowCtx i != e.ctx || s.flowEpoch i != fopEpoch o.desc || !s.flowSends i ||
    s.flowTile i != e.tile || (o.kind == .fput && s.flowKind i != 0)

/-! Credits (R281). -/

/-- The next buffer of a flow is taken, unless the operation continues the current one; the buffer's number. -/
def State.takeBuffer (s : State) (i : Nat) (cont : Bool) : Nat × State :=
  let f := flowDie i
  let k := flowIdx i
  let nbuf := s.get (F.FAB_FLOW_W1.nbuf_m1 f k) + 1
  let next := s.get (F.FAB_FLOW_W1.next_buf f k)
  if cont then ((next + nbuf - 1) % nbuf, s)
  else (next, (((s.put (F.FAB_FLOW_W1.credits f k) (s.get (F.FAB_FLOW_W1.credits f k) - 1)).put (F.FAB_FLOW_W1.next_buf f k)
    ((next + 1) % nbuf)).put (F.FAB_FLOW_W1.cur_v f k) 1).put (F.FAB_FLOW_W1.cur_segs f k) 0)

def State.flowRows (s : State) (i : Nat) : Nat := s.get (F.FAB_FLOW_W1.buf_rows_m1 (flowDie i) (flowIdx i)) + 1

/-- The Palette address at which an FSEND writes (R281 step 4). -/
def State.bufAddr (s : State) (i cur : Nat) : Nat :=
  64 * s.get (F.FAB_FLOW_W1.win_base (flowDie i) (flowIdx i)) + 64 * s.flowRows i * cur +
    16 * s.get (F.FAB_FLOW_W1.cur_segs (flowDie i) (flowIdx i))

/-- R281 step 5. -/
def State.fillBuffer (s : State) (i segs : Nat) : State :=
  let f := flowDie i
  let k := flowIdx i
  let n := s.get (F.FAB_FLOW_W1.cur_segs f k) + segs
  if 4 * s.flowRows i ≤ n then (s.put (F.FAB_FLOW_W1.cur_v f k) 0).put (F.FAB_FLOW_W1.cur_segs f k) 0
  else s.put (F.FAB_FLOW_W1.cur_segs f k) n

/-- An operation's flits are ready to leave. -/
def State.sendOp (s : State) (i : Nat) (who : FlowOwner) (tile addr n v : Nat) (pois : List Bool) (viol : Bool)
    (at_ : Nat) : State :=
  let s := s.schedAdd i (s.writeFlits i tile addr n v pois (n / 16 + 1))
  let op := FlowOp.mk who at_ tile ((s.flowSent i + s.schedOf i) % 2 ^ 24) addr n false viol none
  s.mapFlow i fun w => { w with ops := w.ops ++ [op] }

/-- An operation that took its buffer at fc `at_` reads its source through the edge port, from cycle `c` on. -/
def State.readSource (s : State) (p : Nat) (o : QOp) (at_ tile addr c : Nat) : State :=
  let (b, s) := s.edgeRead p c (o.who (s.env p).tile) (fopSrc o.desc) (16 * fopSegs o.desc)
  s.sendOp (fopFlow o.desc) (.tile p o) tile addr (16 * fopSegs o.desc) b.v b.pois b.viol at_

/-- R111: what reaches a tile's edge in an exchange phase waits at the fabric ports for its end, and what comes after it
waits behind it. -/
def State.atEdge (s : State) (p c : Nat) : Bool := (s.tile p).phase c || s.fab.edge.any fun q => q.1 == p

def State.hold (s : State) (p c : Nat) (j : EdgeJob) : State :=
  { s with fab := { s.fab with edge := s.fab.edge ++ [(p, c, j)] } }

/-- A tile's operation takes its buffer and reads its source. -/
def State.launch (s : State) (p : Nat) (o : QOp) (at_ c : Nat) : State :=
  let i := fopFlow o.desc
  let (cur, s) := s.takeBuffer i (fopCont o.desc)
  let put := o.kind == .fput
  let addr := if put then fopAddr o.desc else s.bufAddr i cur
  let tile := if put then fopTile o.desc else (s.flow i).rtile
  let s := s.fillBuffer i (fopSegs o.desc)
  if s.atEdge p c then s.hold p c (.read o at_ tile addr) else s.readSource p o at_ tile addr c

/-- The bytes of an export that a channel sends next, with their poison flags, and how many remain after them; the
channel's record of bytes moved is in EXP_STATUSx. -/
def State.channelChunk (s : State) (x n : Nat) : Nat × List Bool × Nat × State :=
  let moved := s.get (F.EXP_STATUS.moved x)
  let (v, b, s) := s.snapBytes x moved n
  (v, b, s.get (F.EXP_LEN.len x) - moved - n, s)

/-- What waits on a flow takes its credits in issue order. -/
def State.serveWaiting (s : State) (i at_ c : Nat) : Nat → State
  | 0 => s
  | n + 1 =>
    let free := decide (0 < s.get (F.FAB_FLOW_W1.credits (flowDie i) (flowIdx i)))
    match (s.flow i).waiting with
    | [] => s
    | .tile p o :: l =>
      if fopCont o.desc || free then
        ((s.mapFlow i fun w => { w with waiting := l }).launch p o at_ c).serveWaiting i at_ c n
      else s
    | .put u tile addr m v pois :: l =>
      if !free then s else
      let (_, s) := (s.mapFlow i fun w => { w with waiting := l }).takeBuffer i false
      ((s.fillBuffer i (m / 16)).sendOp i (.unit u) tile addr m v pois false at_).serveWaiting i at_ c n
    | .channel x :: l =>
      if s.get (F.EXP_STATUS.state x) ≠ 1 then (s.mapFlow i fun w => { w with waiting := l }).serveWaiting i at_ c n
      else if !free then s else
      let (cur, s) := s.takeBuffer i false
      let m := min (64 * s.flowRows i) (s.get (F.EXP_LEN.len x) - s.get (F.EXP_STATUS.moved x))
      let (v, pois, rest, s) := s.channelChunk x m
      let addr := s.bufAddr i cur
      let tile := (s.flow i).rtile
      let s := (s.fillBuffer i ((m + 15) / 16)).sendOp i (.unit (.channel x)) tile addr (16 * ((m + 15) / 16)) v pois false at_
      let s := s.put (F.EXP_STATUS.moved x) (s.get (F.EXP_STATUS.moved x) + m)
      let s := if rest = 0 then s.mapFlow i fun w => { w with waiting := l } else s
      s.serveWaiting i at_ c n

/-- A stream flow's operation that has passed R280 waits for its credit, or takes it. -/
def State.streamOp (s : State) (p : Nat) (o : QOp) (at_ c : Nat) : State :=
  if !fopZeros (o.kind == .fput) o.desc then s.fopReject p o at_ c else
  let i := fopFlow o.desc
  let s := s.mapTile p fun t => { t with fabric := t.fabric.map fun q => if q.id = o.id then { q with started := true } else q }
  let s := s.mapFlow i fun w => { w with waiting := w.waiting ++ [.tile p o] }
  s.serveWaiting i at_ c ((s.flow i).waiting.length + 64)

/-- CREDIT (R281, R343). -/
def State.creditFlitIn (s : State) (x : Flit) (at_ c : Nat) : State :=
  let i := x.flow
  let f := flowDie i
  let k := flowIdx i
  let hdr (s : State) : State := s.count (F.FAB_CNT_HDR.count f) (fabErrc f 5) 1
  if !s.flowActive i || !s.flowSends i then hdr s
  else if x.epoch ≠ s.flowEpoch i then (s.epochIn x).refuse x (x.f 68 13) 0 2
  else
    let first := x.f 83 6
    let rows := x.f 89 12
    let nbuf := x.f 101 6
    let base := x.bytes 0 2
    let n := x.bytes 2 1
    let have_ := s.get (F.FAB_FLOW_W1.credits f k)
    let empty := have_ == 0 && s.get (F.FAB_FLOW_W1.cur_v f k) == 0
    let same := s.get (F.FAB_FLOW_W1.nbuf_m1 f k) == nbuf && s.get (F.FAB_FLOW_W1.buf_rows_m1 f k) == rows &&
      s.get (F.FAB_FLOW_W1.win_base f k) == base && (s.get (F.FAB_FLOW_W1.next_buf f k) + have_) % (nbuf + 1) == first
    if !empty && !same then hdr s
    else
      let s := if empty then
          (((((s.put (F.FAB_FLOW_W1.next_buf f k) first).put (F.FAB_FLOW_W1.nbuf_m1 f k) nbuf).put
            (F.FAB_FLOW_W1.buf_rows_m1 f k) rows).put (F.FAB_FLOW_W1.win_base f k) base)).mapFlow i
            fun w => { w with rtile := x.f 68 13 }
        else s
      let s := s.put (F.FAB_FLOW_W1.credits f k) (min 64 (have_ + n))
      let s := if 64 < have_ + n then hdr s else s
      s.serveWaiting i at_ c ((s.flow i).waiting.length + 64)

def State.credit (s : State) (at_ c : Nat) : State :=
  match s.pop fun x => x.kind == 3 with
  | none => s
  | some (x, s) => (s.reach at_).creditFlitIn x at_ c

/-! The flow schedulers (R284). -/

/-- The flow that a scheduler serves next, by its pointer. -/
def State.nextFlow (s : State) (f vc : Nat) : Option Nat :=
  let fl := (s.fab.sched.filter fun q => flowDie q.1 == f && q.2.vc == vc).map fun q => q.1
  let at_ := 8192 * f + s.fab.schedAt.getD (4 * f + vc) 0
  let least (l : List Nat) : Option Nat := l.foldl (fun b i => match b with
    | none => some i
    | some j => some (min i j)) none
  match least (fl.filter fun i => decide (at_ ≤ i)) with
  | some i => some i
  | none => least fl

def takeSched (i vc : Nat) : List (Nat × Flit) → Option (Flit × List (Nat × Flit))
  | [] => none
  | q :: l => if q.1 = i && q.2.vc = vc then some (q.2, l) else (takeSched i vc l).map fun r => (r.1, q :: r.2)

/-- R276: a flit comes from the compute die of its flow's tile; a unit's comes from its fabric die itself. -/
def State.fromFlow (s : State) (i vc : Nat) : State :=
  let unit (o : FlowOp) : Bool := match o.owner with
    | .unit _ => true
    | .tile _ _ => false
  match s.phys (s.flowTile i) with
  | some p => if (s.flow i).ops.any unit then s else s.fromDie (physDie p) i vc
  | none => s

/-- One flit of a virtual channel leaves its flow, and enters the router. -/
def State.schedule (s : State) (f vc at_ : Nat) : State :=
  match s.nextFlow f vc with
  | none => s
  | some i => match takeSched i vc s.fab.sched with
    | none => s
    | some (x, l) =>
      let ats := s.fab.schedAt.set (4 * f + vc) ((flowIdx i + 1) % 8192)
      let s := { s with fab := { s.fab with sched := l, schedAt := ats } }
      let s := s.fromFlow i vc
      if vc ≠ 0 then s.inject f x else
      let n := (s.flowSent i + 1) % 2 ^ 24
      let s := s.put (F.FAB_FLOW_W2.sent f (flowIdx i)) n
      let mark (o : FlowOp) : FlowOp :=
        if o.leftAt.isNone && o.endCount = n then { o with leftAt := some at_ } else o
      let s := s.mapFlow i fun w => { w with ops := w.ops.map mark }
      s.inject f x

/-- OUTPUT_SLOT: the schedulers of the die and the port's choice (R268, R284). -/
def State.outputSlot (s : State) (f p at_ : Nat) : State :=
  ((((s.reach at_).schedule f 0 at_).schedule f 1 at_).slotOf f p at_)

/-! WRITEs at the receiving module (R120, R282, R283, R343). -/

/-- R283: every flit that a receive end accepts or refuses counts as resolved. -/
def State.resolveAt (s : State) (x : Flit) (at_ : Nat) : State :=
  if s.flowState x.flow = 0 || !s.flowRecvs x.flow then s else s.resolve x.flow at_ (x.f 11 1 == 1)

/-- A refused WRITE. -/
def State.writeRefuse (s : State) (x : Flit) (cause at_ : Nat) : State :=
  (s.refuse x (x.f 68 13) (x.f 81 17) cause).resolveAt x at_

/-- A WRITE that reached its tile in cycle `c` is taken by its edge port. -/
def State.writeTile (s : State) (p : Nat) (x : Flit) (at_ c : Nat) : State :=
  let s := s.toDie (physDie p) x.flow x.vc
  let n := 16 * (x.f 98 3 + 1)
  let a := 16 * x.f 81 17
  let marks := (List.range (x.f 98 3 + 1)).map fun k => (x.f 101 8).testBit k
  let out := (TW.rxWrite ⟨s.tile p, [], s.env p⟩ c x.flow x.epoch a n (x.bytes 0 n) marks).1
  let s := s.onTile p fun y => (y.rxWrite c x.flow x.epoch a n (x.bytes 0 n) marks).2
  match out with
  | .accepted => s.resolveAt x at_
  | .noCredit => s.writeRefuse x 1 at_
  | .epoch => (s.epochIn x).writeRefuse x 2 at_
  | .violation => s.writeRefuse x 3 at_
  | .gesso => s

/-- The flow's die resolves a WRITE and passes it to its tile; in an exchange phase of the tile it waits (R111). -/
def State.writeFlit (s : State) (x : Flit) (at_ c : Nat) : State :=
  let i := x.flow
  if !s.flowActive i || !s.flowRecvs i then s.writeRefuse x 5 at_
  else if x.epoch ≠ s.flowEpoch i then (s.epochIn x).writeRefuse x 2 at_
  else match s.vrnFlow i with
  | some v => (s.vrnWrite v x).resolveAt x at_
  | none =>
  if x.f 68 13 = s.flowTile i && (s.flow i).latch ≠ s.roleEpoch (x.f 68 13) then
    (s.epochIn x).writeRefuse x 2 at_
  else match s.phys (x.f 68 13) with
    | none => s.writeRefuse x 4 at_
    | some p =>
      if s.atEdge p c then s.hold p c (.write x) else s.writeTile p x at_ c

/-- The Palette rows that a WRITE takes, and that an operation reads. -/
def EdgeJob.rows : EdgeJob → Nat
  | .write x => (x.f 81 17 % 4 + x.f 98 3) / 4 + 1
  | .read o _ _ _ => (fopSrc o.desc / 16 % 4 + fopSegs o.desc + 3) / 4

/-- R111, R250: the edge port of a WRITE's tile has no three entries left for it, the most that a WRITE takes, while an
exchange phase keeps them: the flit stays at its fabric port, in its buffer (DESIGN CHOICE, notes/assumptions/112: three
credits at once). -/
def State.edgeFull (s : State) (x : Flit) (c : Nat) : Bool := match s.phys (x.f 68 13) with
  | none => false
  | some p =>
    let held := ((s.fab.edge.filter fun q => q.1 == p).map fun q => q.2.2.rows).sum
    (s.tile p).phase c && decide (29 < (s.tile p).edgeUsed c + held)

/-- WRITE. -/
def State.write (s : State) (at_ c : Nat) : State :=
  match s.pop fun x => x.kind == 1 && !s.edgeFull x c with
  | none => s
  | some (x, s) => (s.reach at_).writeFlit x at_ c

/-- What waits for a tile's compute phase is taken by its edge port, in the order in which it came (R111). -/
def State.edgeDrain (s : State) (p at_ : Nat) : State :=
  let mine := s.fab.edge.filter fun q => q.1 == p
  let s := { s with fab := { s.fab with edge := s.fab.edge.filter fun q => q.1 != p } }
  mine.foldl (fun s q => match q.2.2 with
    | .write x => s.writeTile p x at_ q.2.1
    | .read o b tile addr => s.readSource p o b tile addr q.2.1) s

/-! Resolution at the send end (R283, R337). -/

/-- Whether a count has been reached, in the window of 2^23. -/
def reached (now end_ : Nat) : Bool := decide ((now + 2 ^ 24 - end_) % 2 ^ 24 < 2 ^ 23)

/-- An operation of a flow clears. -/
def State.opDone (s : State) (o : FlowOp) (status at_ c : Nat) : State := match o.owner with
  | .tile p q => s.fopDone p q status (some o.start) at_ c
  | .unit u => s.unitDone u status

/-- Operations and SIGs that the resolved count covers clear. -/
def State.settleFlow (s : State) (i at_ c : Nat) : State :=
  let w := s.flow i
  let r := s.flowResolved i
  let all := r == s.flowSent i
  let done (o : FlowOp) : Bool := o.leftAt.isSome && (if s.flowAdapt i then all else reached r o.endCount)
  let sdone (g : FwdSig) : Bool := reached r g.endCount
  let s := s.setFlow i { w with ops := w.ops.filter fun o => !done o, sigs := w.sigs.filter fun g => !sdone g }
  let s := (w.ops.filter done).foldl (fun s (o : FlowOp) =>
    s.opDone o (if o.viol then 3 else if o.nack then 2 else 0) at_ c) s
  (w.sigs.filter sdone).foldl (fun s g => s.syncDone g.req (if g.nack then 2 else 0) c) s

/-- R343: an ACK or a NACK of an unequal epoch has no effect but its count. -/
def State.backEpoch (s : State) (x : Flit) : Option State :=
  if x.epoch ≠ s.flowEpoch x.flow then some (s.epochIn x) else none

/-- ACK. -/
def State.ack (s : State) (at_ c : Nat) : State :=
  match s.pop fun x => x.kind == 4 with
  | none => s
  | some (x, s) =>
    let s := s.reach at_
    match s.backEpoch x with
    | some s => s
    | none =>
      let i := x.flow
      if s.flowState i = 0 then s else
      let v := x.f 68 24
      let s := if reached v (s.flowResolved i) then s.put (F.FAB_FLOW_W2.resolved (flowDie i) (flowIdx i)) v else s
      s.settleFlow i at_ c

/-- The first operation whose destination holds a NACK's address is marked. -/
def markNack (tile a : Nat) : List FlowOp → List FlowOp
  | [] => []
  | o :: l => if o.dtile = tile && decide (o.addr ≤ a) && decide (a < o.addr + o.bytes) then { o with nack := true } :: l
      else o :: markNack tile a l

def markSig : List FwdSig → List FwdSig
  | [] => []
  | g :: l => if g.nack then g :: markSig l else { g with nack := true } :: l

/-- R282: the count of a NACK's cause. -/
def State.nackCount (s : State) (f cause : Nat) : State := match cause with
  | 1 => s.count (F.FAB_CNT_CREDIT.count f) (fabErrc f 9) 1
  | 2 => s.count (F.FAB_CNT_EPOCH.count f) (fabErrc f 0xA) 1
  | _ => s.count (F.FAB_CNT_NACK.count f) (fabErrc f 0xC) 1

/-- R283: a NACK marks the operation or the SIG that it refuses. -/
def State.nackMark (s : State) (x : Flit) : State :=
  if s.flowState x.flow = 0 then s
  else s.mapFlow x.flow fun w =>
    if s.flowKind x.flow = 2 then { w with sigs := markSig w.sigs }
    else { w with ops := markNack (x.f 68 13) (16 * x.f 81 17) w.ops }

/-- NACK, at the send end. -/
def State.nackIn (s : State) (x : Flit) : State := (s.nackCount (flowDie x.flow) (x.f 98 4)).nackMark x

def State.nack (s : State) (at_ : Nat) : State :=
  match s.pop fun x => x.kind == 5 with
  | none => s
  | some (x, s) =>
    let s := s.reach at_
    match s.backEpoch x with
    | some s => s
    | none => s.nackIn x

/-- ACK_TIMER: 2 us have passed since the oldest resolution not reported. -/
def State.ackTimer (s : State) (i at_ : Nat) : State :=
  let s := s.reach at_
  match (s.flow i).oldest with
  | none => s
  | some o =>
    if at_ < o + fcUs 2 then s else
    (s.mapFlow i fun w => { w with unrep := 0, oldest := none }).inject (flowDie i) (s.ackFlit i (s.flowResolved i))

/-- The flits of a flow sent and not resolved. -/
def State.shortfall (s : State) (i : Nat) : Nat := (s.flowSent i + 2 ^ 24 - s.flowResolved i) % 2 ^ 24

/-- The shortfall is lost, and nothing of the flow is unresolved. -/
def State.loseFlow (s : State) (i : Nat) : State :=
  let f := flowDie i
  (s.count (F.FAB_CNT_LOST.count f) (fabErrc f 0xD) (s.shortfall i)).put (F.FAB_FLOW_W2.resolved f (flowIdx i)) (s.flowSent i)

/-- FLOW_TIMEOUT: flow_to has passed since an operation's last flit left. -/
def State.flowTimeout (s : State) (i at_ c : Nat) : State :=
  let s := s.reach at_
  let to_ := s.get (F.FAB_CTL.flow_to (flowDie i))
  let w := s.flow i
  let late (o : FlowOp) : Bool := match o.leftAt with
    | some b => decide (b + to_ ≤ at_)
    | none => false
  let slate (g : FwdSig) : Bool := decide (g.leftAt + to_ ≤ at_)
  if !w.ops.any late && !w.sigs.any slate then s else
  let s := (s.setFlow i { w with ops := w.ops.filter fun o => !late o, sigs := w.sigs.filter fun g => !slate g }).loseFlow i
  let s := (w.ops.filter late).foldl (fun s (o : FlowOp) => s.opDone o 3 at_ c) s
  let s := (w.sigs.filter slate).foldl (fun s g => s.syncDone g.req 3 c) s
  s.settleFlow i at_ c

end Sys2Proof.Machine
end

