-- ==== Sys2Proof/Machine/Blend.lean ====
section
/-! DEFINITION. Gradient blending (R293-R322): the blend store and the bucket records, the nodes of a bucket's tree, the
contributor's and the member's side of a round, and the register access to the store. -/

namespace Sys2Proof.Machine

/-! The blend store (R306). -/

def bldKey (f a : Nat) : Nat := 2 ^ 26 * f + a

def State.bldGet (s : State) (f a n : Nat) : Nat := memRead s.bld.store (bldKey f a) n
def State.bldPut (s : State) (f a n v : Nat) : State :=
  { s with bld := { s.bld with store := memWrite s.bld.store (bldKey f a) n v } }

/-- The elements of the accumulator slot at `base` that a segment holds become poison. -/
def State.bldPoison (s : State) (f base seg : Nat) : State :=
  let o := 16 * seg - base
  ((List.range 256).filter fun i => decide (o < 6 * i + 6) && decide (6 * i < o + 16)).foldl
    (fun s i => s.bldPut f (base + 6 * i) 6 (2 ^ 47)) s

/-- A read through a segment: its error is corrected and counted; one that cannot be corrected poisons the accumulator
elements of the slot at `acc`, and leaves free values anywhere else (the manual states none there). -/
def State.bldTouch (s : State) (f seg : Nat) (acc : Option Nat) : State :=
  let k := bldKey f (16 * seg) / 16
  let clear (s : State) : State := { s with bld := { s.bld with err := SMap.put s.bld.err k 0 0 } }
  let mark := SMap.getD s.bld.err k 0
  if mark = 0 then s
  else if singleBit mark then (clear s).count (F.BLD_CNT_CE.count f) (fabErrc f 0x16) 1
  else
    let s := (clear s).count (F.BLD_CNT_UE.count f) (fabErrc f 0x17) 1
    match acc with
    | some base => s.bldPoison f base seg
    | none =>
      let (lo, s) := s.fresh64
      let (hi, s) := s.fresh64
      s.bldPut f (16 * seg) 16 (lo.toNat + 2 ^ 64 * hi.toNat)

def State.bldTouchAll (s : State) (f a n : Nat) (acc : Option Nat) : State :=
  (List.range (segsOf a n)).foldl (fun s k => s.bldTouch f (a / 16 + k) acc) s

/-! The bucket record (R307). -/

def State.recLine (s : State) (i : Nat) : Nat := s.get (F.FAB_FLOW_W3.rec (flowDie i) (flowIdx i))

/-- Word `k` of the record of a bucket flow. -/
def State.recWord (s : State) (i k : Nat) : Nat := s.bldGet (flowDie i) (64 * s.recLine i + 8 * k) 8
def State.recPut (s : State) (i k v : Nat) : State := s.bldPut (flowDie i) (64 * s.recLine i + 8 * k) 8 v

def bitsOf (v lo w : Nat) : Nat := v / 2 ^ lo % 2 ^ w

def State.nblk (s : State) (i : Nat) : Nat := bitsOf (s.recWord i 0) 0 20 + 1
def State.kmax (s : State) (i : Nat) : Nat := bitsOf (s.recWord i 0) 20 20 + 1
def State.window (s : State) (i : Nat) : Nat := 2 ^ bitsOf (s.recWord i 0) 40 3
def State.accBase (s : State) (i b : Nat) : Nat := 64 * (bitsOf (s.recWord i 1) 0 20 + 24 * (b % s.window i))
def State.etabAt (s : State) (i b : Nat) : Nat := 64 * bitsOf (s.recWord i 1) 20 20 + 2 * b
def State.dispAt (s : State) (i : Nat) : Nat := 64 * bitsOf (s.recWord i 1) 40 20
def State.resAt (s : State) (i b : Nat) (wide : Bool) : Nat :=
  bitsOf (s.recWord i 2) 0 21 + (if wide then 1536 else 768) * b
def State.resHdr (s : State) (i b : Nat) : Nat := bitsOf (s.recWord i 2) 21 21 + 2 * b
def State.hdrAt (s : State) (i par b : Nat) : Nat := bitsOf (s.recWord i 3) (21 * par) 21 + 2 * b
def State.child (s : State) (i k : Nat) : Nat := bitsOf (s.recWord i (4 + k / 4)) (16 * (k % 4)) 14
def State.roundNo (s : State) (i : Nat) : Nat := bitsOf (s.recWord i 8) 0 32
def State.parity (s : State) (i : Nat) : Nat := s.roundNo i % 2

def State.nchild (s : State) (i : Nat) : Nat := s.get (F.FAB_FLOW_W3.nchild (flowDie i) (flowIdx i))
def State.isRoot (s : State) (i : Nat) : Bool := s.get (F.FAB_FLOW_W3.root (flowDie i) (flowIdx i)) == 1
def State.resWide (s : State) (i : Nat) : Bool := s.get (F.FAB_FLOW_W3.res_wide (flowDie i) (flowIdx i)) == 1
def State.absent (s : State) (i : Nat) : Bool := s.get (F.FAB_FLOW_W3.absent (flowDie i) (flowIdx i)) == 1

/-- R307: a record that a write of valid 1 accepts; `rec` and `nchild` are those of W3. -/
def State.recOk (s : State) (f line nchild : Nat) : Bool :=
  let w (k : Nat) : Nat := s.bldGet f (64 * line + 8 * k) 8
  let kid (k : Nat) : Nat := bitsOf (w (4 + k / 4)) (16 * (k % 4)) 16
  let kids := (List.range nchild).map kid
  bitsOf (w 8) 32 32 == 0 && bitsOf (w 10) 48 16 == 0 && (List.range 21).all (fun k => w (11 + k) == 0) &&
  line % 4 == 0 && bitsOf (w 0) 43 21 == 0 && decide (bitsOf (w 0) 40 3 ≤ 6) && bitsOf (w 1) 60 4 == 0 &&
    bitsOf (w 2) 42 22 == 0 && bitsOf (w 2) 0 6 == 0 && bitsOf (w 2) 21 1 == 0 && bitsOf (w 3) 42 22 == 0 &&
    bitsOf (w 3) 0 1 == 0 && bitsOf (w 3) 21 1 == 0 && kids.all (fun k => decide (k < 2 ^ 14)) &&
    (List.range 16).all (fun k => decide (k < nchild) || kid k == 0) && kids.eraseDups.length == kids.length

/-- A unit reads a flow's record: errors in its words are found (R306). -/
def State.recTouch (s : State) (i : Nat) : State := s.bldTouchAll (flowDie i) (64 * s.recLine i) 88 none

/-! Rounds. -/

def State.round (s : State) (i : Nat) : BldRound := SMap.getD s.bld.rounds i BldRound.fresh
def State.setRound (s : State) (i : Nat) (r : BldRound) : State :=
  { s with bld := { s.bld with rounds := SMap.put s.bld.rounds i r BldRound.fresh } }
def State.mapRound (s : State) (i : Nat) (g : BldRound → BldRound) : State := s.setRound i (g (s.round i))

def BldRound.src (r : BldRound) (j : Nat) : BldSrc := r.srcs.getD j BldSrc.fresh
def BldRound.setSrc (r : BldRound) (j : Nat) (x : BldSrc) : BldRound :=
  { r with srcs := (r.srcs ++ List.replicate (j + 1 - r.srcs.length) BldSrc.fresh).set j x }

/-- R308: the frontier. -/
def State.frontier (s : State) (i : Nat) : Nat :=
  let r := s.round i
  (List.range (s.nchild i + 1)).foldl (fun m j => min m (r.src j).upto) (s.nblk i)

/-- The node's side of a round starts again. -/
def BldRound.nodeReset (r : BldRound) : BldRound :=
  { r with srcs := [], blks := [], grantUp := 0, endSent := false, broken := none }

/-- The member's and the contributor's sides start again. -/
def BldRound.memberReset (r : BldRound) : BldRound :=
  { r with begun := false, lastBlk := none, nsent := 0, ended := false, walk := 0, res := none, resUpto := 0, endDown := false,
           nan := 0, flags := 0 }

/-! BLEND flits (R303, R304). -/

structure Bln where
  blk : Nat
  part : Nat
  e : Nat := 0
  sat : Bool := false
  nonfin : Bool := false
  wide : Bool := false
  dn : Bool := false
  eNext : Nat := 0

def State.blendFlit (s : State) (i dst : Nat) (b : Bln) (payload : Nat) : Flit :=
  Hdr.flit { kind := 2, vc := 1, last := (b.part == 14).toNat, dst := dst, src := s.node, flow := i,
             epoch := s.flowEpoch i,
             spec := b.blk + b.part * 2 ^ 20 + b.e * 2 ^ 24 + b.sat.toNat * 2 ^ 32 + b.nonfin.toNat * 2 ^ 33 +
               b.wide.toNat * 2 ^ 34 + b.dn.toNat * 2 ^ 35 + b.eNext * 2 ^ 36 } payload

def Flit.blk (x : Flit) : Nat := x.f 68 20
def Flit.part (x : Flit) : Nat := x.f 88 4
def Flit.blkE (x : Flit) : Nat := x.f 92 8
def Flit.blkSat (x : Flit) : Bool := x.f 100 1 == 1
def Flit.blkNonfin (x : Flit) : Bool := x.f 101 1 == 1
def Flit.blkWide (x : Flit) : Bool := x.f 102 1 == 1
def Flit.dn (x : Flit) : Bool := x.f 103 1 == 1
def Flit.eNext (x : Flit) : Nat := x.f 104 8

/-- The flits of a block to one node: six parts when narrow, twelve when wide. -/
def State.blockFlits (s : State) (i dst : Nat) (b : Bln) (v : Nat) : List Flit :=
  (List.range (if b.wide then 12 else 6)).map fun j =>
    s.blendFlit i dst { b with part := j, eNext := if j = 0 then b.eNext else 0 } (v / 256 ^ (128 * j) % 256 ^ 128)

/-! Blocks of sums. -/

def poisonBlock : List Int := List.replicate 256 sumPoison
def isPoison (v : Int) : Bool := v == sumPoison
def inNarrow (v : Int) : Bool := decide (-kbMax ≤ v) && decide (v ≤ kbMax)

/-- A block's elements from its bytes. -/
def blockOf (wide : Bool) (v : Nat) : List Int :=
  (List.range 256).map fun i =>
    if wide then signedOf 48 (v / 256 ^ (6 * i) % 256 ^ 6) else kbToSum (signedOf 24 (v / 256 ^ (3 * i) % 256 ^ 3))

/-- A block's bytes: narrow values are clamped, poison is -2^23 (R305, R312). -/
def blockBytes (wide : Bool) (l : List Int) : Nat :=
  (l.zipIdx.map fun q =>
    if wide then (BitVec.ofInt 48 q.1).toNat * 256 ^ (6 * q.2)
    else (BitVec.ofInt 24 (if isPoison q.1 then kbPoison else max (-kbMax) (min kbMax q.1))).toNat * 256 ^ (3 * q.2)).sum

/-- Whether a block travels narrow (R305). -/
def travelsNarrow (l : List Int) : Bool := l.all fun v => isPoison v || inNarrow v

def State.accRead (s : State) (i b : Nat) : List Int := blockOf true (s.bldGet (flowDie i) (s.accBase i b) 1536)
def State.accWrite (s : State) (i b : Nat) (l : List Int) : State :=
  s.bldPut (flowDie i) (s.accBase i b) 1536 (blockBytes true l)

/-! Frontiers and END (R308-R310). -/

/-- R309: grants to the children whose frontier has grown enough. -/
def State.grantAll (s : State) (i : Nat) : State :=
  let fr := s.frontier i
  (List.range (s.nchild i)).foldl (fun s k =>
    let x := (s.round i).src (k + 1)
    if x.grant < fr && (decide (x.grant + max 1 (s.window i / 2) ≤ fr) || fr == s.nblk i) then
      (s.mapRound i fun r => r.setSrc (k + 1) { x with grant := fr }).schedAdd i
        [s.blendFlit i (s.child i k) { blk := fr - 1, part := 15, dn := true } 0]
    else s) s

/-- An END, or a copy of a flit that goes down, to every child. -/
def State.toChildren (s : State) (i : Nat) (b : Bln) (payload : Nat) : State :=
  s.schedAdd i ((List.range (s.nchild i)).map fun k => s.blendFlit i (s.child i k) b payload)

/-- R310: with the frontier at nblk and every union block emitted, END goes up, or down from the root. -/
def State.tryEnd (s : State) (i : Nat) : State :=
  let r := s.round i
  if r.endSent || s.frontier i ≠ s.nblk i || !r.blks.isEmpty then s
  else if s.isRoot i then
    (s.toChildren i { blk := s.nblk i - 1, part := 14, dn := true } 0).mapRound i fun r =>
      { r.nodeReset with endDown := true }
  else (s.mapRound i fun r => { r with endSent := true }).schedAdd i
    [s.blendFlit i (s.flowPeer i) { blk := s.nblk i - 1, part := 14 } 0]

def State.progress (s : State) (i : Nat) : State := (s.grantAll i).tryEnd i

/-- A source has delivered everything below `upto`. -/
def State.deliveredTo (s : State) (i j upto : Nat) : State :=
  (s.mapRound i fun r => r.setSrc j { r.src j with upto := upto, cur := none, parts := 0, bytes := 0 }).progress i

/-! Adding (R296, R308, R311, R313). -/

/-- R313: the disposition bits of a block that the local source delivers: sent in bit 2b, clean in bit 2b + 1. -/
def State.setDisp (s : State) (i b : Nat) (clean : Bool) : State :=
  let f := flowDie i
  let a := s.dispAt i + b / 4
  let s := s.bldTouchAll f a 1 none
  let o := s.bldGet f a 1
  let v := 2 ^ (2 * (b % 4)) * (1 + 2 * clean.toNat)
  s.bldPut f a 1 (o ||| v)

/-- A source's whole block is added into its slot. -/
def State.addBlock (s : State) (i j b e : Nat) (sat nonfin : Bool) (vals : List Int) : State :=
  let f := flowDie i
  let s := s.bldTouchAll f (s.accBase i b) 1536 (some (s.accBase i b))
  let s := if s.isRoot i then s.bldTouchAll f (s.etabAt i b) 1 none else s
  let old := SMap.find (s.round i).blks b
  let bad := (match old with
    | some o => o.e != e
    | none => false) || (s.isRoot i && s.bldGet f (s.etabAt i b) 1 != e)
  let was := (old.map (·.expBad)).getD false
  let sum := if bad || was then poisonBlock
    else (if old.isSome then s.accRead i b else List.replicate 256 0).zipWith sumAdd vals
  let s := if bad && !was then s.count (F.BLD_CNT_EXP.count f) (fabErrc f 0x12) 1 else s
  let blk : BldBlk := { e := (old.map (·.e)).getD e, expBad := bad || was, sat := sat || (old.map (·.sat)).getD false,
                        nonfin := nonfin || (old.map (·.nonfin)).getD false }
  let s := (s.accWrite i b sum).mapRound i fun r => { r with blks := SMap.ins r.blks b blk }
  let s := if j = 0 then s.setDisp i b (!sat && decide (e < 255)) else s
  s.deliveredTo i j (b + 1)

/-! Checks of an arriving flit (R277, R311, R319, R343). -/

/-- R311: a dropped flit marks the round broken at the node. -/
def State.blendDrop (s : State) (i : Nat) : State :=
  (s.count (F.BLD_CNT_PROTO.count (flowDie i)) (fabErrc (flowDie i) 0x13) 1).mapRound i fun r =>
    { r with broken := some (r.broken.getD (s.frontier i)) }

/-- A BLEND flit meets its flow context; `k` is what a live bucket does with it. -/
def State.blendIn (s : State) (x : Flit) (k : State → Nat → State) : State :=
  let i := x.flow
  if s.flowState i = 0 then s.refuse x 0 0 5
  else if !s.flowActive i || s.flowKind i ≠ 1 then
    s.count (F.BLD_CNT_PROTO.count (flowDie i)) (fabErrc (flowDie i) 0x13) 1
  else if x.epoch ≠ s.flowEpoch i then (s.epochIn x).refuse x 0 0 2
  else k (s.recTouch i) i

/-- The position of a child in the record's list. -/
def State.childOf (s : State) (i n : Nat) : Option Nat := (List.range (s.nchild i)).find? fun k => s.child i k == n

/-- R297, R308: the slot of a block still holds another that has not been emitted; the block waits for it. -/
def State.slotBusy (s : State) (i b : Nat) : Bool :=
  (s.round i).blks.any fun q => q.1 != b && q.1 % s.window i == b % s.window i

/-- An upward flit waits, as the first of its flow waits for its slot: flits of a flow are taken in their order. -/
def State.blendHeld (s : State) (x : Flit) : Bool :=
  match s.fab.inbox.find? fun q => q.2.2.kind == 2 && !q.2.2.dn && q.2.2.flow == x.flow with
  | some q => s.flowActive x.flow && s.flowKind x.flow == 1 && q.2.2.part != 14 && s.slotBusy x.flow q.2.2.blk
  | none => false

def allParts (wide : Bool) : Nat := if wide then 2 ^ 12 - 1 else 2 ^ 6 - 1

/-- BLEND_PART. -/
def State.blendPart (s : State) (at_ : Nat) : State :=
  match s.pop fun x => x.kind == 2 && !x.dn && x.part != 14 && !s.blendHeld x with
  | none => s
  | some (x, s) => (s.reach at_).blendIn x fun s i =>
    match s.childOf i x.src with
    | none => s.blendDrop i
    | some k =>
      let y := (s.round i).src (k + 1)
      let n := if x.blkWide then 12 else 6
      if n ≤ x.part || s.nblk i ≤ x.blk || x.blk < y.upto || y.grant + s.window i ≤ x.blk ||
          (match y.cur with
            | some b => decide (x.blk < b) || (x.blk == b && y.parts.testBit x.part)
            | none => false) then s.blendDrop i
      else
        let s := s.fabEvent (flowDie i) 0x0B 1
        let y := if y.cur = some x.blk then y else { y with cur := some x.blk, parts := 0, bytes := 0 }
        let y := { y with parts := y.parts + 2 ^ x.part, bytes := y.bytes + x.bytes 0 128 * 256 ^ (128 * x.part) }
        let s := s.mapRound i fun r => r.setSrc (k + 1) y
        if y.parts = allParts x.blkWide then
          s.addBlock i (k + 1) x.blk x.blkE x.blkSat x.blkNonfin (blockOf x.blkWide y.bytes)
        else s

/-- BLEND_END: a child will send no more blocks in the round. -/
def State.blendEnd (s : State) (at_ : Nat) : State :=
  match s.pop fun x => x.kind == 2 && !x.dn && x.part == 14 && !s.blendHeld x with
  | none => s
  | some (x, s) => (s.reach at_).blendIn x fun s i =>
    match s.childOf i x.src with
    | none => s.blendDrop i
    | some k => if s.nblk i ≤ x.blk then s.blendDrop i else s.deliveredTo i (k + 1) (s.nblk i)

/-! Emission (R299, R305, R309, R311). -/

/-- The lowest complete block. -/
def State.nextBlk (s : State) (i : Nat) : Option (Nat × BldBlk) :=
  match (s.round i).blks with
  | (b, k) :: _ => if b < s.frontier i then some (b, k) else none
  | [] => none

/-- The block leaves its slot; one completed after its round was marked broken is all poison. -/
def State.takeBlock (s : State) (i b : Nat) : List Int × State :=
  let f := flowDie i
  let s := s.bldTouchAll f (s.accBase i b) 1536 (some (s.accBase i b))
  let l := match (s.round i).broken with
    | some fr => if fr ≤ b then poisonBlock else s.accRead i b
    | none => s.accRead i b
  (l, (s.mapRound i fun r => { r with blks := SMap.del r.blks b }).fabEvent f 0x0C 1)

/-- PARTIAL_EMIT: a node that is not the root sends its next completed block to its parent. -/
def State.partialEmit (s : State) (i at_ : Nat) : State :=
  let s := s.reach at_
  if !s.flowActive i || s.flowKind i ≠ 1 || s.isRoot i then s else
  match s.nextBlk i with
  | none => s
  | some (b, k) =>
    if (s.round i).grantUp + s.window i ≤ b then s else
    let (l, s) := (s.recTouch i).takeBlock i b
    let wide := !travelsNarrow l
    let s := if wide then s.add (F.BLD_CNT_WIDE.count (flowDie i)) 1 else s
    let h : Bln := { blk := b, part := 0, e := k.e, sat := k.sat, nonfin := k.nonfin || l.any isPoison, wide := wide }
    (s.schedAdd i (s.blockFlits i (s.flowPeer i) h (blockBytes wide l))).tryEnd i

/-! The contributing tile (R300, R312-R315). -/

/-- The Blend unit's accesses of the contributing tile. -/
def blendWho (i tile : Nat) : Who := ⟨5, i + 1, 0, 0, tile⟩

/-- Up to `n` bytes written to a tile, one access a row, each checked for frecv as it is granted (R315). -/
def TW.blendRows (x : TW) (c : Nat) (who : Who) (a n v : Nat) : Nat → Nat × TW
  | 0 => (0, x)
  | k + 1 =>
    if n = 0 then (0, x) else
    let m := min n (64 - a % 64)
    let (c', y) := x.edgeClaim c (bankOf a) 0
    let y := y.commitStores c'
    if a < 0x200000 && y.t.permits c' .frecv (a / 64) then
      let y := ((y.commitBefore c' (bankOf a)).penWrite c' who a none).writeRaw a m v (List.replicate (segsOf a m) false) (segsOf a m)
      (y.perf 0x15 1).blendRows c who (a + m) (n - m) (v / 256 ^ m) k
    else
      let (d, y) := y.violation.blendRows c who (a + m) (n - m) (v / 256 ^ m) k
      (d + 1, y)

/-- A write of the member to its contributing tile; dropped accesses are counted in BLD_CNT_DELIV. -/
def State.blendWrite (s : State) (i c a n v : Nat) : State :=
  let f := flowDie i
  let drop (s : State) (k : Nat) : State := s.count (F.BLD_CNT_DELIV.count f) (fabErrc f 0x18) k
  match s.phys (s.flowTile i) with
  | none => drop s 1
  | some p =>
    let who := blendWho i (s.flowTile i)
    let d := (TW.blendRows ⟨s.tile p, [], s.env p⟩ c who a n v (n / 64 + 2)).1
    drop (s.onTile p fun y => (y.blendRows c who a n v (n / 64 + 2)).2) d

/-- A header of the contributing tile. -/
def State.blendHdr (s : State) (i c a : Nat) : Nat × Bool × State :=
  match s.phys (s.flowTile i) with
  | none => (0xFFFF, true, s)
  | some p =>
    let (b, s) := s.edgeRead p c (blendWho i (s.flowTile i)) a 2
    (b.v, b.viol, s)

/-- R313: whether the local source sent a clean block. -/
def State.sentClean (s : State) (i b : Nat) : Bool × State :=
  let f := flowDie i
  let s := s.bldTouchAll f (s.dispAt i + b / 4) 1 none
  (s.bldGet f (s.dispAt i + b / 4) 1 / 4 ^ (b % 4) % 4 == 3, s)

/-- A block outside the union is walked over (R312, R313). -/
def State.walkAbsent (s : State) (i c : Nat) : State :=
  let b := (s.round i).walk
  let p := s.parity i
  let (h, _, s) := s.blendHdr i c (s.hdrAt i p b)
  let e := h % 256
  let s := if s.absent i then s.blendWrite i c (s.resHdr i b) 2 0xFF
    else (s.blendWrite i c (s.resAt i b (s.resWide i)) (if s.resWide i then 1536 else 768) 0).blendWrite i c (s.resHdr i b) 2 e
  let s := s.blendWrite i c (s.hdrAt i (1 - p) b) 2 e
  (s.blendWrite i c (s.hdrAt i p b) 2 0xFF).mapRound i fun r => { r with walk := b + 1 }

/-- The walk up to block `b`. -/
def State.walkTo (s : State) (i c b : Nat) : Nat → State
  | 0 => s
  | n + 1 => if (s.round i).walk < b then (s.walkAbsent i c).walkTo i c b n else s

/-- A result block is written into the contributing tile (R312, R313). -/
def State.memberResult (s : State) (i c b e : Nat) (sat nonfin : Bool) (eNext : Nat) (l : List Int) : State :=
  let s := s.walkTo i c b b
  let wide := s.resWide i
  let p := s.parity i
  let s := s.blendWrite i c (s.resAt i b wide) (if wide then 1536 else 768) (blockBytes wide l)
  let s := s.blendWrite i c (s.resHdr i b) 2 (e + 256 * (sat.toNat + 2 * nonfin.toNat))
  let s := s.blendWrite i c (s.hdrAt i (1 - p) b) 2 eNext
  let (own, s) := s.sentClean i b
  (s.blendWrite i c (s.hdrAt i p b) 2 (if own && (sat || nonfin) then e else 0xFF)).mapRound i fun r => { r with walk := b + 1 }

/-- Whether the contributing tile's edge takes accesses in cycle `c` (R111). -/
def State.tileFree (s : State) (i c : Nat) : Bool := match s.phys (s.flowTile i) with
  | some p => !(s.tile p).phase c
  | none => true

/-- R299: the next exponent and quiet count of a block, and the change of the exponent. -/
def nextExp (e quiet : Nat) (sat nonfin : Bool) (m : Nat) : Nat × Nat × Bool × Bool :=
  if sat then (min (e + 1) 254, 0, true, false)
  else if nonfin then (e, quiet, false, false)
  else if m ≤ 2 ^ 21 - 1 then
    if quiet = 7 then (e - 1, 0, false, decide (0 < e)) else (e, quiet + 1, false, false)
  else (e, 0, false, false)

/-- ROOT_BLOCK_COMPLETE: the root's next union block (R296, R299), in a cycle in which its own tile takes the result. -/
def State.rootComplete (s : State) (i at_ c : Nat) : State :=
  let s := s.reach at_
  if !s.flowActive i || s.flowKind i ≠ 1 || !s.isRoot i || !s.tileFree i c then s else
  match s.nextBlk i with
  | none => s
  | some (b, k) =>
    let f := flowDie i
    let (l, s) := (s.recTouch i).takeBlock i b
    let s := s.bldTouchAll f (s.etabAt i b) 2 none
    let e := s.bldGet f (s.etabAt i b) 1
    let quiet := s.bldGet f (s.etabAt i b + 1) 1 % 8
    let sat := k.sat || l.any fun v => !isPoison v && !inNarrow v
    let nonfin := k.nonfin || l.any isPoison
    let m := (l.filter fun v => !isPoison v).foldl (fun m v => max m v.natAbs) 0
    let (e', q', up, down) := nextExp e quiet sat nonfin m
    let s := s.bldPut f (s.etabAt i b) 2 (e' + 256 * q')
    let s := if up then s.count (F.BLD_CNT_RAISE.count f) (fabErrc f 0x14) 1 else s
    let s := if down then s.count (F.BLD_CNT_LOWER.count f) (fabErrc f 0x15) 1 else s
    let wide := !travelsNarrow l
    let h : Bln := { blk := b, part := 0, e := e, sat := sat, nonfin := nonfin, wide := wide, dn := true, eNext := e' }
    let s := (List.range (s.nchild i)).foldl (fun s j => s.schedAdd i (s.blockFlits i (s.child i j) h (blockBytes wide l))) s
    let s := s.mapRound i fun r => { r with nan := r.nan + (l.filter isPoison).length,
                                            flags := r.flags + (sat || nonfin).toNat }
    (s.memberResult i c b e sat nonfin e' l).tryEnd i

/-- BLEND_RESULT: a result part or the downward END reaches a member that is not the root. -/
def State.blendResult (s : State) (at_ c : Nat) : State :=
  match s.pop fun x => x.kind == 2 && x.dn && x.part != 15 with
  | none => s
  | some (x, t) =>
    if !s.tileFree x.flow c then s else
    (t.reach at_).blendIn x fun s i =>
      let n := if x.blkWide then 12 else 6
      let fresh := match (s.round i).res with
        | some q => decide (q.blk < x.blk) || (q.blk == x.blk && !q.parts.testBit x.part)
        | none => decide ((s.round i).resUpto ≤ x.blk)
      if s.isRoot i || x.src ≠ s.flowPeer i || s.nblk i ≤ x.blk || (x.part ≠ 14 && (n ≤ x.part || !fresh)) then s.blendDrop i
      else if x.part = 14 then
        (s.toChildren i { blk := x.blk, part := 14, dn := true } 0).mapRound i fun r => { r.nodeReset with endDown := true }
      else
        let s := s.toChildren i { blk := x.blk, part := x.part, e := x.blkE, sat := x.blkSat, nonfin := x.blkNonfin,
                                  wide := x.blkWide, dn := true, eNext := x.eNext } (x.bytes 0 128)
        let cur := match (s.round i).res with
          | some q => if q.blk = x.blk then q else BldRes.mk x.blk 0 0 x.blkWide x.blkE x.blkSat x.blkNonfin 0
          | none => BldRes.mk x.blk 0 0 x.blkWide x.blkE x.blkSat x.blkNonfin 0
        let q := { cur with parts := cur.parts ||| 2 ^ x.part, bytes := cur.bytes + x.bytes 0 128 * 256 ^ (128 * x.part),
                            eNext := if x.part = 0 then x.eNext else cur.eNext }
        if q.parts = allParts q.wide then
          (s.mapRound i fun r => { r with res := none, resUpto := q.blk + 1 }).memberResult i c q.blk q.e q.sat q.nonfin q.eNext
            (blockOf q.wide q.bytes)
        else s.mapRound i fun r => { r with res := some q }

/-! FSEND on a bucket flow (R300-R302, R320). -/

def fsdFirst (d : Row) : Nat := d.field 256 20
def fsdCount (d : Row) : Nat := d.field 276 20 + 1
def fsdEnd (d : Row) : Bool := d.field 296 1 == 1
def fsdEmpty (d : Row) : Bool := d.field 297 1 == 1

/-- The fields given as zero for a bucket flow. -/
def fsdZeros (d : Row) : Bool :=
  d.zeros [(0, 6), (43, 1), (44, 20), (64, 34), (98, 14), (112, 16), (128, 128), (298, 214)] &&
    (!fsdEmpty d || (fsdEnd d && d.zeros [(0, 21), (256, 20), (276, 20)]))

/-- R301: the checks against the record and the round. An FSEND that meets the round which an FSEND with end has closed is
rejected, and so does not start before that round completes (R302). -/
def State.fsendBad (s : State) (o : QOp) (i : Nat) : Bool :=
  let d := o.desc
  let r := s.round i
  r.ended || !fsdEmpty d && (decide (s.nblk i ≤ fsdFirst d + fsdCount d - 1) ||
    (match r.lastBlk with
      | some b => decide (fsdFirst d ≤ b)
      | none => false) || decide (s.kmax i < r.nsent + fsdCount d))

/-- The Palette rows of the result planes and of the next header plane (R454). -/
def State.resultRows (s : State) (i : Nat) : List Nat :=
  let span (a n : Nat) : List Nat := (List.range ((a + n + 63) / 64 - a / 64)).map fun k => a / 64 + k
  let n := s.nblk i
  span (s.resAt i 0 (s.resWide i)) ((if s.resWide i then 1536 else 768) * n) ++ span (s.resHdr i 0) (2 * n) ++
    span (s.hdrAt i (1 - s.parity i) 0) (2 * n)

/-- The first FSEND of a round starts: the disposition bitmap is cleared, the planes are PENDING (R313, R454). -/
def State.beginRound (s : State) (i p : Nat) : State :=
  let n := (s.nblk i + 3) / 4
  let k := bldKey (flowDie i) (s.dispAt i)
  let s := { s with bld := { s.bld with store := SMap.clear s.bld.store k (k + n) } }
  let who := blendWho i (s.flowTile i)
  let s := if (s.tile p).pen then s.onTileLow p fun y => (s.resultRows i).foldl (fun y row => y.penPending who row 1) y else s
  s.mapRound i fun r => { r with begun := true }

/-- The FSENDs that wait on a bucket flow start in issue order, one at a time (R302). -/
def State.startFsend (s : State) (i at_ c : Nat) : Nat → State
  | 0 => s
  | n + 1 =>
    let r := s.round i
    if !r.sends.isEmpty then s else
    match (s.flow i).waiting with
    | .tile p o :: l =>
      let s := s.mapFlow i fun w => { w with waiting := l }
      if s.fsendBad o i then (s.fopReject p o at_ c).startFsend i at_ c n
      else
        let s := if r.begun then s else s.beginRound i p
        if fsdEmpty o.desc then
          let s := s.mapRound i fun r => { r with ended := true }
          (s.fopDone p o 0 (some at_) at_ c).deliveredTo i 0 (s.nblk i)
        else s.mapRound i fun r => { r with lastBlk := some (fsdFirst o.desc + fsdCount o.desc - 1),
                                            nsent := r.nsent + fsdCount o.desc, ended := fsdEnd o.desc,
                                            sends := [BldSend.mk p o at_ 0 false] }
    | _ => s

/-- An FSEND that has passed R280 joins its bucket. -/
def State.bucketOp (s : State) (p : Nat) (o : QOp) (at_ c : Nat) : State :=
  if !fsdZeros o.desc then s.fopReject p o at_ c else
  let i := fopFlow o.desc
  let s := s.mapTile p fun t => { t with fabric := t.fabric.map fun q => if q.id = o.id then { q with started := true } else q }
  let s := (s.recTouch i).mapFlow i fun w => { w with waiting := w.waiting ++ [.tile p o] }
  s.startFsend i at_ c (s.flow i).waiting.length

/-- FABRIC_OPERATION_START: a tile's next FPUT or FSEND reaches its flow context. -/
def State.fabricStart (s : State) (p at_ c : Nat) : State :=
  let s := (s.reach at_).onTileLow p fun x => x.forToken (((x.t.fabric.find? fun o => !o.started).map (·.tw)).getD 0)
  let t := s.tile p
  match t.fabric.find? fun o => !o.started with
  | none => s
  | some o =>
    if t.gesso || !t.mayStart o c then s
    else if s.fopRefused p o then s.fopReject p o at_ c
    else if s.flowKind (fopFlow o.desc) = 1 then s.bucketOp p o at_ c
    else s.streamOp p o at_ c

/-- BUCKET_BLOCK_PASS: the started FSEND passes its next block while it lies in the window and its slot is free (R302,
R309). -/
def State.blockPass (s : State) (i at_ c : Nat) : State :=
  let s := s.reach at_
  match (s.round i).sends with
  | [] => s
  | g :: l =>
    let b := fsdFirst g.op.desc + g.passed
    if s.frontier i + s.window i ≤ b || s.slotBusy i b || (s.tile g.tile).phase c then s else
    let s := s.recTouch i
    let who := g.op.who (s.flowTile i)
    let (h, s) := s.edgeRead g.tile c who (s.hdrAt i (s.parity i) b) 2
    let (d, s) := s.edgeRead g.tile c who (fopSrc g.op.desc + 768 * g.passed) 768
    let viol := g.viol || h.viol || d.viol
    let e := h.v % 256
    let fl := h.v / 256
    let last := g.passed + 1 = fsdCount g.op.desc
    let s := s.mapRound i fun r => { r with sends := if last then l else { g with passed := g.passed + 1, viol := viol } :: l }
    let s := s.addBlock i 0 b e (fl % 2 == 1) (fl / 2 % 2 == 1) (blockOf false d.v)
    if last then
      let s := if fsdEnd g.op.desc then s.deliveredTo i 0 (s.nblk i) else s
      (s.fopDone g.tile g.op (if viol then 3 else 0) (some g.start) at_ c).startFsend i at_ c (s.flow i).waiting.length
    else s

/-- R320: a local FSEND that waits at the window's edge for a slot passes its next block in the fc of the ADVANCE that lets
the partials before it leave. -/
def State.passAtEdge (s : State) (i at_ c : Nat) : State :=
  match (s.round i).sends with
  | [] => s
  | g :: _ =>
    let b := fsdFirst g.op.desc + g.passed
    if s.slotBusy i b then
      ((List.range (s.window i)).foldl (fun s _ => if s.slotBusy i b then s.partialEmit i at_ else s) s).blockPass i at_ c
    else s

/-- ADVANCE: the parent grants a frontier. -/
def State.advance (s : State) (at_ c : Nat) : State :=
  match s.pop fun x => x.kind == 2 && x.dn && x.part == 15 with
  | none => s
  | some (x, s) => (s.reach at_).blendIn x fun s i =>
    if s.isRoot i || x.src ≠ s.flowPeer i || s.nblk i ≤ x.blk then s.blendDrop i
    else (s.mapRound i fun r => { r with grantUp := max r.grantUp (x.blk + 1) }).passAtEdge i at_ c

/-! Round completion (R314). -/

/-- The root's totals of a round. -/
def State.rootTotals (s : State) (i nan flags : Nat) : State :=
  let f := flowDie i
  let s := s.recPut i 9 (nan % 2 ^ 32 + 2 ^ 32 * (flags % 2 ^ 32))
  let s := s.recPut i 10 (satAdd (bitsOf (s.recWord i 10) 0 48) nan)
  (s.count (F.BLD_CNT_FLAG.count f) (fabErrc f 0x10) flags).count (F.BLD_CNT_NAN.count f) (fabErrc f 0x11) nan

/-- The counters and marks of a completed round. -/
def State.closeRound (s : State) (i : Nat) : State :=
  let r := s.round i
  let n := (s.roundNo i + 1) % 2 ^ 32
  let s := (s.recPut i 8 n).put (F.FAB_FLOW_W3.parity (flowDie i) (flowIdx i)) (n % 2)
  let s := if s.isRoot i then s.rootTotals i r.nan r.flags else s
  let s := match s.phys (s.flowTile i) with
    | some p => s.onTileLow p fun y => y.penDone 5 (i + 1)
    | none => s
  s.mapRound i BldRound.memberReset

/-- ROUND_COMPLETE. -/
def State.roundComplete (s : State) (i at_ c : Nat) : State :=
  let s := s.reach at_
  if !s.flowActive i || s.flowKind i ≠ 1 || !(s.round i).endDown || !s.tileFree i c then s else
  let s := s.recTouch i
  let s := (s.walkTo i c (s.nblk i) (s.nblk i)).closeRound i
  let s := if s.get (F.FAB_FLOW_W3.sig_en (flowDie i) (flowIdx i)) = 1 then
      s.unitInc (gidDie (s.flowTile i)) (s.flowCtx i) (s.get (F.FAB_FLOW_W3.vcid (flowDie i) (flowIdx i))) 1 c
    else s
  s.startFsend i at_ c (s.flow i).waiting.length

/-! Register access to the store (R322). -/

/-- A flow whose W0 register a key names. -/
def flowW0Of (a : Nat) : Option Nat := if 0x18 ≤ a then flowW3Of (a + 0x18) else none

/-- The flows that are not FREE. -/
def State.liveFlows (s : State) : List Nat :=
  s.regs.filterMap fun q => match flowW0Of q.1 with
    | some i => if s.flowState i = 0 then none else some i
    | none => none

/-- The accumulator slot of a bucket under way that a segment of the store belongs to. -/
def State.slotAt (s : State) (f seg : Nat) : Option Nat :=
  ((s.liveFlows.filter fun i => flowDie i == f && s.flowKind i == 1).flatMap fun i =>
    (s.round i).blks.map fun q => s.accBase i q.1).find? fun a => decide (a ≤ 16 * seg) && decide (16 * seg < a + 1536)

/-- A line is read: each segment's error is found (R306). -/
def State.bldLine (s : State) (f line : Nat) : State :=
  (List.range 4).foldl (fun s k => s.bldTouch f (4 * line + k) (s.slotAt f (4 * line + k))) s

def State.bldRead (s : State) (f : Nat) : State :=
  let line := s.get (F.BLD_ACC_ADDR.line f)
  let s := s.bldLine f line
  (List.range 8).foldl (fun s j => s.put (F.BLD_ACC_DATA.data f j) (s.bldGet f (64 * line + 8 * j) 8)) s

/-- PATROL_READ of a blend store (R306, R109): its next line, at least 4,096 fc after the last. -/
def State.bldPatrol (s : State) (f at_ : Nat) : State :=
  let s := s.reach at_
  if s.get (F.BLD_CTL.patrol f) = 0 || decide (at_ < SMap.getD s.bld.patrolAt f 0) then s else
  let line := SMap.getD s.bld.patrolLine f 0
  let s := s.bldLine f line
  { s with bld := { s.bld with patrolLine := SMap.put s.bld.patrolLine f ((line + 1) % 786432) 0,
                               patrolAt := SMap.put s.bld.patrolAt f (at_ + 4096) 0 } }

/-- A write of BLD_CTL.patrol: 1 after 0 resumes the reads, with 4,096 fc counted from the write (R109). -/
def State.bldPatrolWrite (s : State) (f at_ v : Nat) : State :=
  let was := s.get (F.BLD_CTL.patrol f)
  let s := s.put (F.BLD_CTL.patrol f) v
  if v = 1 && was = 0 then { s with bld := { s.bld with patrolAt := SMap.put s.bld.patrolAt f (at_ + 4096) 0 } } else s

/-- BLD_ACC_WRITE: a line of words 0 to 7 of a record whose flow is not FREE is rejected. -/
def State.bldWrite (s : State) (f : Nat) : State :=
  let line := s.get (F.BLD_ACC_ADDR.line f)
  if s.liveFlows.any fun i => flowDie i == f && s.flowKind i == 1 && s.recLine i == line then
    s.put (F.BLD_STATUS.acc_reject f) 1
  else
    (List.range 8).foldl (fun s j => s.bldPut f (64 * line + 8 * j) 8 (s.get (F.BLD_ACC_DATA.data f j)))
      { s with bld := { s.bld with err := SMap.clear s.bld.err (bldKey f (64 * line) / 16) (bldKey f (64 * line) / 16 + 4) } }

/-! The round leaves (R319). -/

/-- R319: the round in progress is abandoned; its FSENDs clear with ERROR. -/
def State.abandonRound (s : State) (i at_ c : Nat) : State :=
  let r := s.round i
  let s := s.setRound i BldRound.fresh
  let s := r.sends.foldl (fun s g => s.fopDone g.tile g.op 3 none at_ c) s
  let f := flowDie i
  let k := flowIdx i
  match s.translate (s.flowCtx i) (s.get (F.FAB_FLOW_W3.vcid f k)) with
  | some (d, j, _) => if s.poisoned d j then s else s.abandon d j c
  | none => s

/-- R319: entering FREE writes zero over the accumulator window, the disposition bitmap, the root's exponent table and
words 8 to 31 of the record. -/
def State.bucketFree (s : State) (i : Nat) : State :=
  let f := flowDie i
  let clr (s : State) (a n : Nat) : State :=
    { s with bld := { s.bld with store := SMap.clear s.bld.store (bldKey f a) (bldKey f (a + n)) } }
  let n := s.nblk i
  let acc := 64 * bitsOf (s.recWord i 1) 0 20
  let root := s.isRoot i
  let etab := s.etabAt i 0
  let disp := s.dispAt i
  let s := clr s acc (1536 * s.window i)
  let s := clr s disp ((n + 3) / 4)
  let s := if root then clr s etab (2 * n) else s
  clr (s.setRound i BldRound.fresh) (64 * s.recLine i + 64) 192

end Sys2Proof.Machine
end

