-- ==== Sys2Proof/Machine/FlowCtl.lean ====
section
/-! DEFINITION. The states of a flow context (R277, R278, R307, R319, R335, R341): enabling, draining, and what a context
reset does to the flows of its context. -/

namespace Sys2Proof.Machine

/-- The fields that a write of W0 carries. -/
def w0Mask : Word := 0x1FFF3FFFFF7FF8#64

def w0Addr (i : Nat) : Nat := 0x1040000 + 0x80000 * flowDie i + 0x20 * flowIdx i

def State.cfgReject (s : State) (f : Nat) : State := s.put (F.FAB_STATUS.cfg_reject f) 1

/-- R335: a relation that a write of valid 1 accepts. -/
def State.relationOk (s : State) (i : Nat) (v : Word) : Bool :=
  let f := flowDie i
  let k := flowIdx i
  let ctx := v.field 9 6
  let fwd := s.get (F.FAB_FLOW_W3.fwd f k) == 1
  let mir := s.get (F.FAB_FLOW_W3.mirror_v f k) == 1
  let fv := s.get (F.FAB_FLOW_W3.fvcid f k)
  (!fwd || (v.field 7 1 == 1 && (s.translate ctx fv).isSome && (s.forwardOf ctx fv).isNone)) &&
    (!mir || (v.field 8 1 == 1 && (s.translate ctx (s.get (F.FAB_FLOW_W3.mvcid f k))).isSome))

/-- Whether a write of valid 1 is rejected for its fields (R292, R307, R335, R480). -/
def State.flowBad (s : State) (i : Nat) (v : Word) : Bool :=
  v.field 4 2 == 3 || s.get (F.HCTX_STATUS.state (v.field 9 6)) == 0 ||
    (v.field 4 2 == 1 && !s.recOk (flowDie i) (s.recLine i) (s.nchild i)) || (v.field 4 2 == 2 && !s.relationOk i v)

/-- The fields of a W3 that a flow of a kind has: of a bucket (R321), of a relation (R335), none of a stream flow. -/
def w3Fields (kind : Nat) : Word :=
  match kind with
  | 1 => 0x0000FFFF0FFFFFFF#64
  | 2 => 0x00FF01FFFF07FFFF#64
  | _ => 0

/-- A context enters ACTIVE with the fields of a write. -/
def State.flowActivate (s : State) (i : Nat) (v : Word) : State :=
  let a := w0Addr i
  let s := ((s.setWord a ((v &&& w0Mask) ||| 0x9#64)).setWord (a + 8) 0).setWord (a + 16) 0
  let s := s.setWord (a + 24) (s.word (a + 24) &&& w3Fields (v.field 4 2))
  let s := if v.field 4 2 = 1 then s.put (F.FAB_FLOW_W3.parity (flowDie i) (flowIdx i)) (s.parity i) else s
  let s := (s.setFlow i { FlowSt.fresh with latch := s.roleEpoch (v.field 40 13) }).setRound i BldRound.fresh
  -- R383: the Varnish engine opens a buddy-in flow
  if (s.vrnFlow i).isSome && s.flowRecvs i && v.field 4 2 == 0 then s.vrnCredit i 64 else s

/-- FLOW_ENABLE: a write of valid 1 with the other fields of W0. -/
def State.flowEnable (s : State) (i : Nat) (v : Word) : State :=
  match s.flowState i with
  | 0 => if s.flowBad i v then s.cfgReject (flowDie i) else s.flowActivate i v
  | 2 => if s.flowBad i v then s.cfgReject (flowDie i)
      else (s.put (F.FAB_FLOW_W0.state (flowDie i) (flowIdx i)) 3).mapFlow i fun w => { w with held := some v }
  | _ => s.cfgReject (flowDie i)

/-- Operations that wait on a flow clear with ERROR. -/
def State.failWaiting (s : State) (i at_ c : Nat) : State :=
  let l := (s.flow i).waiting
  l.foldl (fun s j => match j with
    | .tile p o => s.fopDone p o 3 none at_ c
    | .put u _ _ _ _ _ => s.unitDone u 3
    | .channel x => s.unitDone (.channel x) 2) (s.mapFlow i fun w => { w with waiting := [] })

/-- An ACTIVE context enters DRAINING. -/
def State.flowDrainStart (s : State) (i at_ c : Nat) : State :=
  let f := flowDie i
  let k := flowIdx i
  let s := (s.reach at_).failWaiting i at_ c
  if s.flowKind i = 2 then s.drainRelation i c
  else
    let s := ((s.put (F.FAB_FLOW_W0.state f k) 2).put (F.FAB_FLOW_W0.valid f k) 0).mapFlow i fun w => { w with drainAt := at_ }
    if s.flowKind i = 1 then s.abandonRound i at_ c else s

/-- FLOW_DRAIN: a write of valid 0. -/
def State.flowDrain (s : State) (i : Nat) (v : Word) (at_ c : Nat) : State :=
  match s.flowState i with
  | 0 => s.setWord (w0Addr i) (v &&& w0Mask &&& ~~~ 0x8#64)
  | 1 => s.flowDrainStart i at_ c
  | 3 => (s.put (F.FAB_FLOW_W0.state (flowDie i) (flowIdx i)) 2).mapFlow i fun w => { w with held := none }
  | _ => s.cfgReject (flowDie i)

/-- Whether what waits at the fabric ports is a read of an operation of a flow. -/
def EdgeJob.reads (i : Nat) : EdgeJob → Bool
  | .read o _ _ _ => fopFlow o.desc == i
  | .write _ => false

/-- Whether a flit of a flow waits in its die's queues, or an operation whose credit is spent has its source to read. -/
def State.flowQueued (s : State) (i : Nat) : Bool :=
  s.fab.sched.any (fun q => q.1 == i) || s.fab.edge.any (fun q => q.2.2.reads i) ||
    (List.range 24).any fun p => (s.port (flowDie i) p).out.any fun x => x.2.flow == i && decide (x.2.kind < 7)

/-- What is left of a flow whose drain has timed out is lost, and its operations clear with ERROR. -/
def State.flowLose (s : State) (i at_ c : Nat) : State :=
  let w := s.flow i
  let reads := s.fab.edge.filter fun q => q.2.2.reads i
  let s := { s with fab := { s.fab with sched := s.fab.sched.filter fun q => q.1 != i,
                                        edge := s.fab.edge.filter fun q => !q.2.2.reads i } }
  let s := reads.foldl (fun s q => match q.2.2 with
    | .read o b _ _ => s.fopDone q.1 o 3 (some b) at_ c
    | .write _ => s) s
  let s := (s.setFlow i { w with ops := [], sigs := [] }).loseFlow i
  let s := w.ops.foldl (fun s (o : FlowOp) => s.opDone o 3 at_ c) s
  w.sigs.foldl (fun s g => s.syncDone g.req 3 c) s

/-- FLOW_DRAIN_COMPLETE. -/
def State.flowDrained (s : State) (i at_ c : Nat) : State :=
  let f := flowDie i
  let k := flowIdx i
  let s := s.reach at_
  let st := s.flowState i
  if st ≠ 2 && st ≠ 3 then s else
  let clean := !s.flowQueued i && (s.flowKind i == 1 || !s.flowSends i || s.flowSent i == s.flowResolved i)
  let late := decide ((s.flow i).drainAt + s.get (F.FAB_CTL.flow_to f) ≤ at_)
  if !clean && !late then s else
  let held := (s.flow i).held
  let s := if clean then s.settleFlow i at_ c else s.flowLose i at_ c
  let s := if s.flowKind i = 1 && st = 2 then s.bucketFree i else s
  let a := w0Addr i
  let s := ((s.put (F.FAB_FLOW_W0.state f k) 0).setWord (a + 8) 0).setWord (a + 16) 0
  let s := s.setFlow i FlowSt.fresh
  match st, held with
  | 3, some v => s.flowActivate i v
  | _, _ => s

/-- A context reset writes valid 0 to every ACTIVE or PENDING_ENABLE flow of the context (R278). -/
def State.drainFlows (s : State) (ctx at_ c : Nat) : State :=
  (s.liveFlows.filter fun i => s.flowCtx i == ctx).foldl (fun s i =>
    if s.flowState i = 2 then s else s.flowDrain i 0 at_ c) s

/-- A write of W3: it is kept while the context is FREE, in the fields of the flow's kind. -/
def State.flowW3Write (s : State) (i : Nat) (m v : Word) : State :=
  if s.flowState i ≠ 0 then s.cfgReject (flowDie i) else
  let a := w0Addr i + 24
  let fields := if s.flowKind i = 0 then w3Fields 1 ||| w3Fields 2 else w3Fields (s.flowKind i)
  let n := m &&& fields
  s.setWord a ((s.word a &&& ~~~ n) ||| (v &&& n))

end Sys2Proof.Machine
end

