-- ==== Sys2Proof/Machine/Loader.lean ====
section
/-! DEFINITION. The loader (R433-R449, R459): row assignment, the load image and its bind tables, loads, starts, and what
the end of Gesso on a tile does to the contexts that wait for it (R126-R128, R443). -/

namespace Sys2Proof.Machine

def State.ldrOf (s : State) (d c : Nat) : LdrCtx := SMap.getD s.ldr (64 * d + c) LdrCtx.fresh
def State.setLdr (s : State) (d c : Nat) (x : LdrCtx) : State := { s with ldr := SMap.put s.ldr (64 * d + c) x LdrCtx.fresh }

/-- LDR_CTXc_STATUS.state: 0 FREE, 1 GESSO, 2 PENDING_ENABLE, 3 READY, 4 LOADING, 5 LOADED, 6 RUNNING, 7 FAILED. -/
def State.ldrState (s : State) (d c : Nat) : Nat := s.get (F.LDR_CTX_STATUS.state d c)
def State.setLdrState (s : State) (d c v : Nat) : State := s.put (F.LDR_CTX_STATUS.state d c) v
def State.ldrReject (s : State) (d c : Nat) : State := s.put (F.LDR_CTX_STATUS.reject d c) 1

/-! Rows (R443, R447). -/

def rowsIn (m : Nat) : List Nat := (List.range 48).filter m.testBit
def State.ldrRows (s : State) (d c : Nat) : Nat := s.get (F.LDR_CTX_ROWS.rows d c)

/-- R447: the real row of image row `r` on a die. -/
def State.rowMap (s : State) (d c r : Nat) : Option Nat := (rowsIn (s.ldrRows d c))[r]?

/-- Whether a physical tile of a row is under Gesso. -/
def State.rowGesso (s : State) (d r : Nat) : Bool := (List.range 34).any fun l => (s.tile (physOf d r l)).gesso

/-- The rows of a mask that are under Gesso. -/
def State.gessoRows (s : State) (d m : Nat) : Nat := ((rowsIn m).filter (s.rowGesso d)).length

/-- LDR_CTXc_STATUS.gesso_rows follows the tiles. -/
def State.showGesso (s : State) (d c : Nat) : State :=
  s.put (F.LDR_CTX_STATUS.gesso_rows d c) (s.gessoRows d (s.ldrRows d c))

/-- May the first read of a load be made, by R444: the engine, the slot and the image area. -/
def State.loadOpen (s : State) (d c : Nat) (restore : Bool) : Bool :=
  if restore || s.get (F.LDR_CTX_IMG.src d c) = 1 then !s.stageFailed d (s.placeGran c 6) (s.imgSize c)
  else
    let g := s.rgn d c (s.get (F.LDR_CTX_IMG.rgn d c))
    g.active && g.rd && g.holds (256 * s.get (F.LDR_CTX_IMG.off d c)) 256 && s.engState d g.stack == 1

/-- A load starts: LOADING, or FAILED with error 11 where its first read fails when it is requested (R444). -/
def State.loadBegin (s : State) (d c : Nat) (restore : Bool) : State :=
  if s.loadOpen d c restore then s.setLdrState d c 4
  else ((s.setLdr d c { s.ldrOf d c with busy := false }).setLdrState d c 7).put (F.LDR_CTX_STATUS.err d c) 11

/-- A held load starts (R444). -/
def State.startHeld (s : State) (d c : Nat) : State :=
  if (s.ldrOf d c).busy then s.loadBegin d c (s.ldrOf d c).restore else s

/-- LDR_CTX_ROWS_WRITE. -/
def State.ldrRowsWrite (s : State) (d c v : Nat) : State :=
  let rows := v % 2 ^ 48
  let st := s.ldrState d c
  let taken := (List.range 64).any fun k => k != c && decide (s.ldrRows d k &&& rows ≠ 0)
  if taken || decide (4 ≤ st) || (decide (rows ≠ 0) && s.get (F.HCTX_STATUS.state c) == 0) then s.ldrReject d c
  else
    let s1 := s.put (F.LDR_CTX_ROWS.rows d c) rows
    if rows = 0 then ((s1.setLdr d c LdrCtx.fresh).setLdrState d c 0).showGesso d c
    else if s.gessoRows d rows = 0 then ((s1.setLdrState d c 3).showGesso d c).startHeld d c
    else (s1.setLdrState d c 2).showGesso d c

/-- Gesso has ended on a tile of a context's rows: it leaves GESSO or PENDING_ENABLE with the last of them. -/
def State.gessoEnd (s : State) (d c : Nat) : State :=
  let s := s.showGesso d c
  if s.get (F.LDR_CTX_STATUS.gesso_rows d c) ≠ 0 then s
  else match s.ldrState d c with
    | 1 => s.setLdrState d c 3
    | 2 => (s.setLdrState d c 3).startHeld d c
    | _ => s

/-- GESSO_COMPLETE: Gesso of a physical tile ends (R126). -/
def State.gessoComplete (s : State) (p : Nat) : State :=
  if !(s.tile p).gesso then s else
  let s := s.mapTile p Tile.gessoDone
  match s.ownerOf p with
  | some c => s.gessoEnd (physDie p) c
  | none => s

/-! Reads (R444). -/

/-- `n` bytes at byte `off` of a region slot, unless the read fails. -/
def State.slotRead (s : State) (d c k off n : Nat) : Option Nat × State :=
  let g := s.rgn d c k
  if !g.active || !g.rd || !g.holds off n || s.engState d g.stack ≠ 1 then (none, s) else
  let (v, b, s) := s.hbmReadSegs d g.stack (g.addr off / 16) ((n + 15) / 16)
  if b.any id then (none, s) else (some (v % 256 ^ n), s)

/-- The same in the local image area. -/
def State.areaRead (s : State) (d c off n : Nat) : Option Nat × State :=
  let m := (n + 15) / 16 * 16
  let g := s.placeGran c 6
  if s.imgSize c * 2 ^ 21 < off + m || s.stageFailed d g (s.imgSize c) then (none, s) else
  let (v, b, s) := s.stageRead d g off m (granFuel m)
  if b.any id then (none, s) else (some (v % 256 ^ n), s)

/-! The image (R437-R440). -/

/-- Bytes `o` to `o + n - 1` of a byte string. -/
def bytesAt (v o n : Nat) : Nat := v / 256 ^ o % 256 ^ n

/-- The header's tables: entries, offset and entry size of sections, entry points, partitions, counters, relocations. -/
def imgTable (h k : Nat) : Nat × Nat × Nat := match k with
  | 0 => (bytesAt h 28 4, bytesAt h 32 8, 32)
  | 1 => (bytesAt h 40 4, bytesAt h 56 8, 16)
  | 2 => (bytesAt h 44 4, bytesAt h 64 8, 24)
  | 3 => (bytesAt h 48 4, bytesAt h 72 8, 16)
  | _ => (bytesAt h 52 4, bytesAt h 80 8, 24)

def imgSizeOf (h : Nat) : Nat := bytesAt h 8 8
def imgRows (h i : Nat) : Nat := bytesAt h (20 + i) 1

def imgTableOk (h k : Nat) : Bool :=
  let (n, off, sz) := imgTable h k
  off % 8 == 0 && decide (off + n * sz ≤ imgSizeOf h)

/-- The entries of a table. -/
def imgEntries (v k : Nat) : List Nat :=
  let (n, off, sz) := imgTable v k
  (List.range n).map fun i => bytesAt v (off + sz * i) sz

/-- Error 1 of R445 step 1. -/
def imgHeaderOk (h : Nat) : Bool :=
  bytesAt h 0 4 == 0x1A494C4B && bytesAt h 4 2 == 1 && bytesAt h 7 1 / 2 == 0 && bytesAt h 24 4 == 0 &&
    bytesAt h 96 160 == 0 && imgSizeOf h % 8 == 0 && decide (256 ≤ imgSizeOf h)

/-- Error 2. -/
def imgCrcOk (v : Nat) : Bool :=
  let w := v - bytesAt v 16 4 * 256 ^ 16
  crc32 ((List.range (imgSizeOf v)).map fun i => bytesAt w i 1) == bytesAt v 16 4

/-- A tile set (R438). -/
structure TSet where
  mask : Nat
  row0 : Nat
  row1 : Nat
  col0 : Nat
  col1 : Nat

def tset (v : Nat) : TSet := ⟨v % 16, v / 2 ^ 4 % 64, v / 2 ^ 10 % 64, v / 2 ^ 16 % 32, v / 2 ^ 21 % 32⟩

def tsetOk (rows : Nat → Nat) (v : Nat) : Bool :=
  let t := tset v
  v / 2 ^ 26 == 0 && t.mask != 0 && decide (t.row0 ≤ t.row1) && decide (t.col0 ≤ t.col1) &&
    (List.range 4).all fun i => !t.mask.testBit i || (decide (0 < rows i) && decide (t.row1 < rows i))

/-- What a load works with: the die and the context, the image, the bind tables, whether it is a restore. -/
structure Load where
  d : Nat
  c : Nat
  img : Nat
  bind : Nat
  restore : Bool

def Load.rows (l : Load) (i : Nat) : Nat := imgRows l.img i
def Load.used (l : Load) (i : Nat) : Bool := decide (i < 4) && decide (0 < l.rows i)

/-- The die of image die `i`, by LDR_CTXc_CFG.diemap. -/
def State.dieMap (s : State) (d c i : Nat) : Nat := s.get (F.LDR_CTX_CFG.diemap d c) / 4 ^ i % 4

/-- The image die that the loader of the die loads. -/
def State.imgDie (s : State) (l : Load) : Option Nat :=
  (List.range 4).find? fun i => l.used i && s.dieMap l.d l.c i == l.d

/-- The physical tiles of a set on the load's die. -/
def State.setTiles (s : State) (l : Load) (v : Nat) : List Nat :=
  let t := tset v
  match s.imgDie l with
  | none => []
  | some i =>
    if !t.mask.testBit i then [] else
    ((List.range (t.row1 + 1 - t.row0)).filterMap fun k => s.rowMap l.d l.c (t.row0 + k)).flatMap fun r =>
      (List.range (t.col1 + 1 - t.col0)).filterMap fun k => s.phys (gidOf l.d r (t.col0 + k))

/-- The check of R445 step 1, or 0. -/
def State.headerError (s : State) (d c v : Nat) : Nat :=
  let used := (List.range 4).filter fun i => decide (0 < imgRows v i)
  let dies := used.map (s.dieMap d c)
  let m := bytesAt v 6 1
  if !imgHeaderOk v then 1
  else if !imgCrcOk v then 2
  else if m = 0 || 2 < m || !(s.get (F.LDR_CAPS.models d)).testBit (m - 1) then 3
  else if bytesAt v 7 1 = 1 && s.get F.MOD_PROFILE.debug = 0 then 4
  else if dies.eraseDups.length ≠ dies.length ||
      used.any (fun i => decide ((rowsIn (s.ldrRows (s.dieMap d c i) c)).length < imgRows v i)) then 5
  else if !((List.range 4).all (imgTableOk v)) then 6
  else if !imgTableOk v 4 then 7
  else 0

/-! The bind tables (R441). -/

def bindFlows (b : Nat) : Nat := bytesAt b 0 4
def bindNodes (b : Nat) : Nat := bytesAt b 4 4
def bindParams (b : Nat) : Nat := bytesAt b 8 4
def bindNodeAt (b : Nat) : Nat := 16 + 4 * bindFlows b
def bindParamAt (b : Nat) : Nat := (bindNodeAt b + 2 * bindNodes b + 7) / 8 * 8
def bindBytes (b : Nat) : Nat := bindParamAt b + 8 * bindParams b

def bindOk (b : Nat) : Bool :=
  bytesAt b 12 4 == 0 &&
    (List.range (bindFlows b)).all (fun k => bytesAt b (16 + 4 * k) 4 / 2 ^ 22 == 0) &&
    bytesAt b (bindNodeAt b + 2 * bindNodes b) (bindParamAt b - bindNodeAt b - 2 * bindNodes b) == 0

/-- R440, R449: a flow table entry; a restore raises its epoch. -/
def Load.flow (l : Load) (k : Nat) : Nat :=
  let v := bytesAt l.bind (16 + 4 * k) 4
  v % 2 ^ 14 + (v / 2 ^ 14 % 256 + l.restore.toNat) % 256 * 2 ^ 14

/-- The value that a relocation writes over a field that holds `v`. -/
def State.relocValue (s : State) (l : Load) (kind arg width v : Nat) : Option Nat :=
  match kind with
  | 1 =>
    let i := gidDie v
    if !l.used i || l.rows i ≤ gidRow v then none else
    let d := s.dieMap l.d l.c i
    (s.rowMap d l.c (gidRow v)).map fun r => gidOf d r (gidCol v)
  | 2 =>
    if !l.used arg || l.rows arg ≤ v then none else s.rowMap (s.dieMap l.d l.c arg) l.c v
  | 3 => if bindFlows l.bind ≤ arg + v then none else some (l.flow (arg + v))
  | 4 => if bindNodes l.bind ≤ arg + v then none
      else some (bytesAt l.bind (bindNodeAt l.bind + 2 * (arg + v)) 2 % 2 ^ 14)
  | 5 => if bindParams l.bind ≤ arg + v then none
      else some (bytesAt l.bind (bindParamAt l.bind + 8 * (arg + v)) 8 % 2 ^ width)
  | _ => none

/-! Steps of a load (R445): each answers an error number, 0 for none. -/

abbrev LoadStep := State × Nat

def loadThen (r : LoadStep) (f : State → LoadStep) : LoadStep := if r.2 = 0 then f r.1 else r

/-- The entries of a table, one after the other. -/
def loadEach (f : State → Nat → LoadStep) : List Nat → State → LoadStep
  | [], s => (s, 0)
  | e :: l, s => loadThen (f s e) (loadEach f l)

def loaderWho (tile : Nat) : Who := ⟨7, 0, 0, 0, tile⟩

/-- The loader writes bytes into a tile's Palette (R445, R454). -/
def TW.loaderWrite (x : TW) (a n v : Nat) : TW :=
  let y := x.writeRaw a n v [] (segsOf a n)
  if n = 0 then y else
  y.map fun t => if !t.pen then t else
    (List.range ((a + n - 1) / 64 + 1 - a / 64)).foldl (fun t k => t.setGran (a / 64 + k) ⟨1, loaderWho 0, none⟩) t

def sectionOk (l : Load) (e : Nat) : Bool :=
  let a := bytesAt e 8 4
  let n := bytesAt e 12 4
  let off := bytesAt e 16 8
  tsetOk l.rows (bytesAt e 0 8) && a % 16 == 0 && n != 0 && n % 16 == 0 && decide (a + n ≤ 0x200000) && off % 8 == 0 &&
    decide (off + n ≤ imgSizeOf l.img) && bytesAt e 24 8 == 0

/-- The Palette rows that `n` bytes at `a` touch. -/
def rowsTouched (a n : Nat) : Nat := if n = 0 then 0 else (a + n - 1) / 64 + 1 - a / 64

/-- Every tile of the section's set receives its bytes; each row written at a tile is counted at the die (R466). -/
def State.loadSection (s : State) (l : Load) (e : Nat) : LoadStep :=
  if !sectionOk l e then (s, 6) else
  let n := bytesAt e 12 4
  let s := s.dieEvent l.d 0x4C ((s.setTiles l (bytesAt e 0 8)).length * rowsTouched (bytesAt e 8 4) n)
  ((s.setTiles l (bytesAt e 0 8)).foldl (fun s p => s.onTileLow p fun x =>
    x.loaderWrite (bytesAt e 8 4) n (bytesAt l.img (bytesAt e 16 8) n)) s, 0)

def relocOk (l : Load) (e : Nat) : Bool :=
  let pos := bytesAt e 12 1
  let width := bytesAt e 13 1
  let kind := bytesAt e 14 1
  tsetOk l.rows (bytesAt e 0 8) && bytesAt e 8 4 % 8 == 0 && decide (bytesAt e 8 4 < 0x200000) && decide (pos < 64) &&
    decide (pos + width ≤ 64) && bytesAt e 15 1 == 0 && bytesAt e 20 4 == 0 &&
    (match kind with
     | 1 => width == 13 && bytesAt e 16 4 == 0
     | 2 => width == 6
     | 3 => width == 22
     | 4 => width == 14
     | 5 => decide (1 ≤ width)
     | _ => false)

/-- One tile's word patched (R440), in a row that the loader writes (R466). -/
def State.relocTile (s : State) (l : Load) (e p : Nat) : LoadStep :=
  let a := bytesAt e 8 4
  let pos := bytesAt e 12 1
  let width := bytesAt e 13 1
  let w := memRead (s.tile p).pal a 8
  let v := w / 2 ^ pos % 2 ^ width
  match s.relocValue l (bytesAt e 14 1) (bytesAt e 16 4) width v with
  | none => (s, 7)
  | some n =>
    ((s.dieEvent l.d 0x4C 1).onTileLow p fun x => x.loaderWrite a 8 (w - v * 2 ^ pos + n % 2 ^ width * 2 ^ pos), 0)

def State.loadReloc (s : State) (l : Load) (e : Nat) : LoadStep :=
  if !relocOk l e then (s, 7)
  else loadEach (fun s p => s.relocTile l e p) (s.setTiles l (bytesAt e 0 8)) s

def State.partTile (s : State) (cyc k : Nat) (v : Word) (p : Nat) : LoadStep :=
  if (s.tile p).partOk k (v &&& partMask) then (s.onTileLow p fun x => x.partWrite cyc k (BitVec.allOnes 64) v, 0)
  else (s.onTileLow p fun x => x.partWrite cyc k (BitVec.allOnes 64) v, 8)

def State.loadPart (s : State) (l : Load) (cyc e : Nat) : LoadStep :=
  let k := bytesAt e 16 1
  if !tsetOk l.rows (bytesAt e 0 8) || 15 < k || bytesAt e 17 7 ≠ 0 then (s, 6)
  else loadEach (fun s p => s.partTile cyc k (BitVec.ofNat 64 (bytesAt e 8 8)) p) (s.setTiles l (bytesAt e 0 8)) s

def State.loadEntry (s : State) (l : Load) (e : Nat) : LoadStep :=
  let a := bytesAt e 8 4
  if !tsetOk l.rows (bytesAt e 0 8) || a % 8 ≠ 0 || 0x200000 ≤ a || bytesAt e 12 4 ≠ 0 then (s, 6)
  else ((s.setTiles l (bytesAt e 0 8)).foldl (fun s p => s.mapTile p fun t => t.put TF.TILE_ENTRY.entry (a / 8)) s, 0)

/-! Counters (R445 step 7). -/

def cntVcid (e : Nat) : Nat := bytesAt e 2 2
def cntPair (e : Nat) : Bool := (bytesAt e 1 1).testBit 0

/-- The load's counter entries for its die, and those that name an image die not in use, which are invalid
(DEDUCED, notes/assumptions/31). -/
def State.cntEntries (s : State) (l : Load) : List Nat :=
  (imgEntries l.img 3).filter fun e => !l.used (bytesAt e 0 1) || s.dieMap l.d l.c (bytesAt e 0 1) == l.d

def cntOk (l : Load) (all : List Nat) (e : Nat) : Bool :=
  bytesAt e 1 1 / 16 == 0 && bytesAt e 8 8 == 0 && l.used (bytesAt e 0 1) &&
    (!cntPair e || all.any fun f => bytesAt f 0 1 == bytesAt e 0 1 && cntVcid f == bytesAt e 4 2 && cntPair f &&
      bytesAt f 4 2 == cntVcid e)

/-- The lowest free physical counters of a die. -/
def State.freeCounters (s : State) (d n : Nat) : List Nat := ((List.range 4096).filter fun i => !s.bound d i).take n

def State.writeCounter (s : State) (l : Load) (all : List (Nat × Nat)) (e i : Nat) : State :=
  let j := ((all.find? fun q => cntVcid q.1 == bytesAt e 4 2).map (·.2)).getD 0
  let f := bytesAt e 1 1
  let d := l.d
  let s := (s.put (F.SYN_PCNT_W1.vcid d i) (cntVcid e)).put (F.SYN_PCNT_W1.ctx d i) l.c
  let s := (s.put (F.SYN_PCNT_W2.partner d i) (if cntPair e then j else 0)).put (F.SYN_PCNT_W2.lead d i) (f / 2 % 2)
  ((s.put (F.SYN_PCNT_W2.pair_v d i) (f % 2)).put (F.SYN_PCNT_W2.bnd d i) (bytesAt e 6 2)).put
    (F.SYN_PCNT_W2.rb_mode d i) (f / 4 % 4)

def State.bindOne (s : State) (l : Load) (cyc e i : Nat) : LoadStep :=
  let s := s.bind l.d i (BitVec.ofNat 64 (cntVcid e + l.c * 2 ^ 16)) cyc
  (s, if s.bound l.d i then 0 else 9)

def State.loadCounters (s : State) (l : Load) (cyc : Nat) : LoadStep :=
  if l.restore then (s, 0) else
  let es := s.cntEntries l
  if !es.all (cntOk l es) then (s, 6) else
  let free := s.freeCounters l.d es.length
  if free.length < es.length then (s, 9) else
  let all := es.zip free
  let s := all.foldl (fun s q => s.writeCounter l all q.1 q.2) s
  all.foldl (fun r q => loadThen r fun s => s.bindOne l cyc q.1 q.2) (s, 0)

/-! The image area (R445 step 8). The bind tables follow the image at the next multiple of 16 (DESIGN CHOICE,
notes/assumptions/30). -/

def bindOff (img : Nat) : Nat := (imgSizeOf img + 15) / 16 * 16
def areaBytes (l : Load) : Nat := bindOff l.img + (bindBytes l.bind + 15) / 16 * 16

def State.copyImage (s : State) (l : Load) : LoadStep :=
  if l.restore || !s.vrnOn l.c then (s, 0)
  else if s.imgSize l.c * 2 ^ 21 < areaBytes l then (s, 10)
  else
    let v := l.img + 256 ^ bindOff l.img * l.bind
    let s := s.stageWrite l.d (s.placeGran l.c 6) 0 (areaBytes l) v [] (granFuel (areaBytes l))
    (s.mapVctx l.c fun x => { x with imgLen := x.imgLen.set l.d (areaBytes l) }, 0)

/-! Loads. -/

/-- The image and the bind tables are read (R444): `get` reads bytes of one, then of the other. -/
def readImage (get : State → Nat → Nat → Option Nat × State) (check : State → Nat → Nat) (s : State) :
    Option Nat × State × Nat :=
  match get s 0 256 with
  | (none, s) => (none, s, 11)
  | (some h, s) =>
    if !imgHeaderOk h then (none, s, 1) else
    match get s 0 (imgSizeOf h) with
    | (none, s) => (none, s, 11)
    | (some v, s) => (some v, s, check s v)

def readBind (get : State → Nat → Nat → Option Nat × State) (s : State) : Option Nat × State × Nat :=
  match get s 0 16 with
  | (none, s) => (none, s, 11)
  | (some h, s) =>
    match get s 0 (bindBytes h) with
    | (none, s) => (none, s, 11)
    | (some v, s) => (some v, s, if bindOk v then 0 else 6)

/-- Where a load reads its image from. -/
def State.imgReader (s : State) (d c : Nat) (restore : Bool) : State → Nat → Nat → Option Nat × State :=
  if restore || s.get (F.LDR_CTX_IMG.src d c) = 1 then fun s o n => s.areaRead d c o n
  else fun s o n => s.slotRead d c (s.get (F.LDR_CTX_IMG.rgn d c)) (256 * s.get (F.LDR_CTX_IMG.off d c) + o) n

def bindReader (d c img : Nat) (restore : Bool) : State → Nat → Nat → Option Nat × State :=
  if restore then fun s o n => s.areaRead d c (bindOff img + o) n
  else fun s o n => s.slotRead d c (s.get (F.LDR_CTX_BIND.rgn d c)) (256 * s.get (F.LDR_CTX_BIND.off d c) + o) n

/-- Steps 3 to 8 of R445. -/
def State.loadSteps (s : State) (l : Load) (cyc : Nat) : LoadStep :=
  let r := loadEach (fun s e => s.loadSection l e) (imgEntries l.img 0) s
  let r := loadThen r (loadEach (fun s e => s.loadReloc l e) (imgEntries l.img 4))
  let r := loadThen r (loadEach (fun s e => s.loadPart l cyc e) (imgEntries l.img 2))
  let r := loadThen r (loadEach (fun s e => s.loadEntry l e) (imgEntries l.img 1))
  loadThen (loadThen r fun s => s.loadCounters l cyc) fun s => s.copyImage l

/-- The real rows of the image on the load's die. -/
def State.realRows (s : State) (l : Load) : Nat := match s.imgDie l with
  | none => 0
  | some i => ((List.range (l.rows i)).filterMap (s.rowMap l.d l.c)).foldl (fun m r => m + 2 ^ r) 0

/-- A load from its first read to LOADED, or to the error it ends with. -/
def State.loadRun (s : State) (d c cyc : Nat) (restore : Bool) : LoadStep :=
  match readImage (s.imgReader d c restore) (fun s v => s.headerError d c v) s with
  | (none, s, e) => (s, e)
  | (some img, s, e) =>
    if e ≠ 0 then (s, e) else
    match readBind (bindReader d c img restore) s with
    | (none, s, e) => (s, e)
    | (some bind, s, e) =>
      if e ≠ 0 then (s, e) else
      let l : Load := ⟨d, c, img, bind, restore⟩
      let pen := s.get (F.LDR_CTX_CFG.pen d c) == 1 && s.get (F.PEN_CTL.avail d) == 1
      let s := (s.members d c).foldl (fun s q => s.mapTile q.2 fun t => { t with pen := pen }) s
      let (s, e) := s.loadSteps l cyc
      (s.setLdr d c { s.ldrOf d c with model := bytesAt img 6 1, pen := pen, rows := s.realRows l }, e)

/-- LOAD and LOAD_RESTORE: a write of load (R444, R449, R480). -/
def State.load (s : State) (d c : Nat) (restore auto : Bool) : State :=
  let held := s.setLdr d c { s.ldrOf d c with busy := true, restore := restore, auto := auto }
  if 2 ≤ s.get (F.HCTX_STATUS.state c) then s.ldrReject d c else
  match s.ldrState d c with
  | 3 => held.loadBegin d c restore
  | 2 => held
  | _ => s.ldrReject d c

/-! Starts (R67, R448, R545). -/

/-- A tile starts in cycle `cyc`. -/
def Tile.start (t : Tile) (gid c seed model cyc : Nat) (pen running : Bool) : Tile :=
  let t := ((t.put TF.TILE_SELF.tile_id gid).put TF.TILE_SELF.context c).put TF.TILE_SELF.role_epoch
    ((t.get TF.TILE_SELF.role_epoch + 1) % 256)
  let t := t.put TF.STIP_SEED.seed seed
  let pc := 8 * t.get TF.TILE_ENTRY.entry
  { t with run := if running then .running else .ended, pc := pc, model := model, pen := pen, cyc := max t.cyc cyc,
           issued := cyc, started := cyc, released := cyc, tickRel := cyc, arrived := cyc,
           fetch := Fetch.at_ (pc / 64) cyc }

/-- Every tile of the context's rows on the die starts (R448). -/
def State.startTiles (s : State) (d c cyc : Nat) : State :=
  let x := s.ldrOf d c
  let seed := s.get (F.LDR_CTX_CFG.seed d c)
  let s := (s.members d c).foldl (fun s q => s.mapTile q.2 fun t =>
    t.start q.1 c seed x.model cyc x.pen (x.rows.testBit (physRow q.2))) s
  (s.setLdrState d c 6).put (F.LDR_CTX_STATUS.model d c) x.model

/-- START: the context starts on the die, in tile cycle `cyc`, at fc `at_`; its first start outside a restore begins its
log (R384). -/
def State.start (s : State) (d c cyc at_ : Nat) : State :=
  if s.ldrState d c ≠ 5 then s else
  let first := (List.range 4).all fun k => s.ldrState k c != 6
  let s := (s.reach at_).startTiles d c cyc
  if first && !s.rcv.restoring.contains c then
    ((s.put (F.SKB_SEQ.next c) 0).mapVctx c fun x => { x with imgSent := false }).skbLog c 0 at_ { kind := 3 }
  else s

/-- LOAD_FINISH. -/
def State.loadFinish (s : State) (d c cyc at_ : Nat) : State :=
  if s.ldrState d c ≠ 4 then s else
  let x := s.ldrOf d c
  let (s, e) := s.loadRun d c cyc x.restore
  let s := s.setLdr d c { s.ldrOf d c with busy := false }
  if e ≠ 0 then (s.setLdrState d c 7).put (F.LDR_CTX_STATUS.err d c) e
  else
    let s := s.setLdrState d c 5
    if x.auto then s.start d c cyc at_ else s

/-- PEN_RING_WRITE: a write resets the ring's tail and head. -/
def State.penRing (s : State) (d : Nat) (v : Word) : State :=
  (s.setWord (0x103108 + 0x100000 * d) (v &&& 0xFFFFFFFFFFFFF#64)).setWord (0x103110 + 0x100000 * d) 0

end Sys2Proof.Machine
end

