-- ==== Sys2Proof/Machine/Varnish.lean ====
section
/-! DEFINITION. Varnish (R375-R383, R406): what a snapshot holds, its capture at a step's close, its local copy and its
copies at other modules; and the records of the Sketchbook as they are released, mirrored and replayed (R384-R386,
R403). -/

namespace Sys2Proof.Machine

/-! The state section (R375): (what, key, value). -/

def Sec.tick : Nat := 0        -- the last accepted tick's number
def Sec.bound : Nat := 1       -- the context's TICK_CTX_BIND bit
def Sec.seed : Nat := 2        -- by die: the job seed
def Sec.stip : Nat := 3        -- by global tile ID: STIP_BASE
def Sec.region : Nat := 4      -- by 64 * die + slot: the region table entry
def Sec.counter : Nat := 5     -- by 4 * (4096 * die + index) + word
def Sec.rb : Nat := 6          -- by 4096 * die + index: rb_total
def Sec.flow0 : Nat := 7       -- by flow ID: W0
def Sec.flow3 : Nat := 8       -- by flow ID: W3
def Sec.record : Nat := 9      -- by 16 * flow ID + word: a bucket's record
def Sec.etab : Nat := 10       -- by 2^20 * flow ID + block: the root's exponent table
def Sec.mbs : Nat := 11        -- by register word of R357
def Sec.fwd : Nat := 12        -- by place: the F queue
def Sec.bwd : Nat := 13
def Sec.isOpen : Nat := 14
def Sec.watch : Nat := 15      -- by 16 * entry + word
def Sec.watchCtx : Nat := 16   -- WCH_CTXc_W0 and W1

/-- The value of an item, if the section holds it. -/
def Section.get? (x : Section) (tag key : Nat) : Option Nat :=
  (x.find? fun q => q.1 == tag && q.2.1 == key).map fun q => q.2.2

def Section.all (x : Section) (tag : Nat) : List (Nat × Nat) := (x.filter fun q => q.1 == tag).map fun q => q.2

/-- The tiles of a context on all dies. -/
def State.allMembers (s : State) (c : Nat) : List (Nat × Nat) := (List.range 4).flatMap fun d => s.members d c

def wchBase (c : Nat) : Nat := 0x14000 + 0x20 * c
def mbsBase (c : Nat) : Nat := 0x12000 + 0x80 * c

/-- The state section of a context in this fc. -/
def State.sectionOf (s : State) (c : Nat) : Section :=
  let word (a : Nat) : Nat := (s.word a).toNat
  let flows := s.liveFlows.filter fun i => s.flowCtx i == c
  let cnts := s.boundCounters.filter fun q => s.get (F.SYN_PCNT_W1.ctx q.1 q.2) == c
  let base := s.get (F.WCH_CTX_W0.base c)
  let x := SMap.getD s.train.mbs c MbsSt.fresh
  [(Sec.tick, 0, s.get F.TICK_NUMBER.number), (Sec.bound, 0, (s.get F.TICK_CTX_BIND.bind / 2 ^ c) % 2)] ++
    ((List.range 4).map fun d => (Sec.seed, d, s.get (F.LDR_CTX_CFG.seed d c))) ++
    ((s.allMembers c).map fun q => (Sec.stip, q.1, (rreg tileReset (s.tile q.2).regs 0x188).toNat)) ++
    ((List.range 4).flatMap fun d => ((s.slotsOf d).filter fun q => q.1 == c).map fun q =>
      (Sec.region, 64 * d + q.2, word (0x110000 + 0x100000 * d + 0x200 * c + 8 * q.2))) ++
    (cnts.flatMap fun q => (List.range 4).map fun w =>
      (Sec.counter, 4 * (4096 * q.1 + q.2) + w, word (0x120000 + 0x100000 * q.1 + 0x20 * q.2 + 8 * w))) ++
    (cnts.map fun q => (Sec.rb, 4096 * q.1 + q.2, (s.cnt q.1 q.2).rb.toNat)) ++
    (flows.map fun i => (Sec.flow0, i, word (w0Addr i))) ++ (flows.map fun i => (Sec.flow3, i, word (w0Addr i + 24))) ++
    ((flows.filter fun i => s.flowKind i == 1).flatMap fun i =>
      ((List.range 11).map fun k => (Sec.record, 16 * i + k, s.recWord i k)) ++
        (if s.isRoot i then (List.range (s.nblk i)).map fun b =>
          (Sec.etab, 2 ^ 20 * i + b, s.bldGet (flowDie i) (s.etabAt i b) 2) else [])) ++
    ((List.range 12).map fun k => (Sec.mbs, k, word (mbsBase c + 8 * k))) ++
    (x.fwd.zipIdx.map fun q => (Sec.fwd, q.2, q.1)) ++ (x.bwd.zipIdx.map fun q => (Sec.bwd, q.2, q.1)) ++
    [(Sec.isOpen, 0, x.isOpen.toNat)] ++
    ((List.range (s.get (F.WCH_CTX_W0.size c))).flatMap fun k =>
      (SMap.getD s.train.entries (base + k) []).zipIdx.map fun q => (Sec.watch, 16 * k + q.2, q.1.toNat)) ++
    [(Sec.watchCtx, 0, word (wchBase c)), (Sec.watchCtx, 1, word (wchBase c + 8))]

/-- The section's bytes (R375, R379): at most 64 MiB. -/
def secBytes (x : Section) : Nat := min (Config.sectionLen x) (2 ^ 26)
def secRoom (x : Section) : Nat := (secBytes x + 15) / 16 * 16
def secValue (x : Section) : Nat :=
  ((List.range (secBytes x)).map fun k => (Config.sectionByte x k).toNat * 256 ^ k).sum

/-! Bulk items (R375): bytes of a tile's Palette, or a region. -/

structure Bulk where
  region : Option Nat     -- the region slot, or
  p : Nat                 -- the physical tile and the address of bytes of its Palette
  addr : Nat
  n : Nat
  meth : Nat
  deriving DecidableEq, Repr

/-- The parity of a bucket's next round. -/
def State.nextParity (s : State) (i : Nat) : Nat :=
  if (s.round i).begun then 1 - s.parity i else s.parity i

/-- The items of a die's part in their order. -/
def State.bulkOf (s : State) (c d : Nat) : List Bulk :=
  let planes := (s.liveFlows.filter fun i => s.flowCtx i == c && s.flowKind i == 1 && gidDie (s.flowTile i) == d).filterMap
    fun i => (s.phys (s.flowTile i)).map fun p => Bulk.mk none p (s.hdrAt i (s.nextParity i) 0) (2 * s.nblk i) 1
  let parts := (s.members d c).flatMap fun q => (List.range 16).filterMap fun k =>
    let w := rreg tileReset (s.tile q.2).regs (0x80 + 8 * k)
    if partKind w = 4 then some (Bulk.mk none q.2 (64 * partBase w) (64 * partSize w) 1) else none
  let rgns := (List.range 64).filterMap fun k =>
    let m := s.method c d k
    let g := s.rgn d c k
    if m = 0 || !g.active then none else some (Bulk.mk (some k) 0 0 g.bytes m)
  planes ++ parts ++ rgns

def Bulk.room (b : Bulk) : Nat := (b.n + 15) / 16 * 16

/-- Each item with its place in the die's part; the section comes first on die 0. -/
def placeBulk : Nat → List Bulk → List (Nat × Bulk)
  | _, [] => []
  | o, b :: l => (o, b) :: placeBulk (o + b.room) l

def State.bulkAt (s : State) (c d : Nat) (x : Section) : List (Nat × Bulk) :=
  placeBulk (if d = 0 then secRoom x else 0) (s.bulkOf c d)

/-! The close of a step (R376). -/

/-- The rows of a Palette that an item lies in. -/
def Bulk.rows (b : Bulk) : Nat × Nat := (b.addr / 64, (b.addr % 64 + b.n + 63) / 64)

/-- The slot that the writer takes: the oldest neither pinned nor WRITING nor the newest LOCAL or COMPLETE one. -/
def State.freeSlot (s : State) (c : Nat) : Option Nat :=
  let newest := [F.VRN_CTX_W4.seq c, F.VRN_CTX_W5.seq c].map s.get
  let ok (k : Nat) : Bool := !s.pinned c k && s.slotState c k != 1 &&
    !(s.slotHolds c k && newest.contains (s.vslot c k).seq)
  ((List.range 3).filter ok).foldl (fun b k => match b with
    | none => some k
    | some j => if (s.vslot c k).age < (s.vslot c j).age then some k else some j) none

/-- Copies of a snapshot whose slot is taken are abandoned. -/
def State.dropCopies (s : State) (c seq : Nat) : State :=
  s.mapVctx c fun v => { v with copies := v.copies.filter fun y => y.seq != seq || y.image }

/-- A snapshot of step S falls due at the close of the step. -/
def State.snapshotDue (s : State) (c step : Nat) : State :=
  let every := s.get (F.VRN_CTX_W0.every c)
  if !s.vrnOn c || every = 0 || step % every ≠ 0 then s
  else if (s.writing c).isSome then s.add F.VRN_CNT_SKIP.count 1
  else match s.freeSlot c with
    | none => s.add F.VRN_CNT_SKIP.count 1
    | some k =>
      let s := if s.slotHolds c k then s.dropCopies c (s.vslot c k).seq else s
      let clock := (s.vctx c).clock
      let s := s.mapVctx c fun v => { v with clock := clock + 1 }
      let s := s.mapSlot c k fun _ => VrnSlot.mk step (clock + 1) (s.sectionOf c) [0, 0, 0, 0] false false 0
      let s := ((s.setSlotState c k 1).showNewest c)
      (List.range 4).foldl (fun s d => (s.bulkOf c d).foldl (fun s b => match b.region with
        | some _ => s
        | none => s.onTileLow b.p fun x => (x.ports x.t.cyc).map fun t => { t with vrnRows := t.vrnRows ++ [b.rows] }) s) s

/-! The local copy (R377, R379, R382). -/

/-- The poison flags of each 16 B of an item that begins at any Palette address. -/
def flags16 (addr n : Nat) (pois : List Bool) : List Bool :=
  (List.range ((n + 15) / 16)).map fun g =>
    pois.getD ((addr % 16 + 16 * g) / 16) false || pois.getD ((addr % 16 + min (16 * g + 15) (n - 1)) / 16) false

/-- The bytes of an item with their flags; a Palette's rows have been read through its edge port. -/
def State.bulkRead (s : State) (c d : Nat) (b : Bulk) : Nat × List Bool × State :=
  match b.region with
  | some k =>
    let g := s.rgn d c k
    s.hbmReadSegs d g.stack (g.addr 0 / 16) (b.n / 16)
  | none =>
    let t := s.tile b.p
    let pois := (List.range (segsOf b.addr b.n)).map fun k => SMap.getD t.palPois (b.addr / 16 + k) false
    (memRead t.pal b.addr b.n, flags16 b.addr b.n pois, s)

/-- An item as captured: its place, its method, its bytes, the change bitmap of a method-3 region. -/
structure Captured where
  at_ : Nat
  meth : Nat
  n : Nat
  v : Nat
  pois : List Bool
  bitmap : Nat

/-- The change bitmap of region slot `k` (R382), which is then zero. -/
def State.takeBitmap (s : State) (c d k n : Nat) : Nat × State :=
  let g := s.rgn d c (k + 1)
  let m := (n / 4096 + 7) / 8
  if !g.active || !g.holds 0 m then (0, s) else
  let (v, _, s) := s.hbmReadSegs d g.stack (g.addr 0 / 16) ((m + 15) / 16)
  (v % 256 ^ m, s.hbmWrite d g.stack (g.addr 0) m 0)

def State.captureDie (s : State) (c d : Nat) (x : Section) : List Captured × State :=
  (s.bulkAt c d x).foldl (fun (r : List Captured × State) q =>
    let (v, pois, s) := r.2.bulkRead c d q.2
    let (bm, s) := match q.2.region, q.2.meth with
      | some k, 3 => s.takeBitmap c d k q.2.n
      | _, _ => (0, s)
    (r.1 ++ [Captured.mk q.1 q.2.meth q.2.room v pois bm], s))
    (if d = 0 then [Captured.mk 0 1 (secRoom x) (secValue x) [] 0] else [], s)

/-! Copies (R380-R383). -/

/-- Operations of at most 256 KiB, none across such a boundary of its place. -/
def opsFrom (flow d o n v : Nat) (pois : List Bool) : Nat → List VrnOp
  | 0 => []
  | k + 1 =>
    if n = 0 then [] else
    let m := min n (2 ^ 18 - o % 2 ^ 18)
    VrnOp.mk flow (2048 * d + o / 2 ^ 21) (o % 2 ^ 21) m (v % 256 ^ m) (pois.take (m / 16)) ::
      opsFrom flow d (o + m) (n - m) (v / 256 ^ m) (pois.drop (m / 16)) k

def opsAt (flow d o n v : Nat) (pois : List Bool) : List VrnOp := opsFrom flow d o n v pois (n / 2 ^ 18 + 2)

/-- The changed blocks of a method-3 region. -/
def deltaOps (flow d : Nat) (x : Captured) : List VrnOp :=
  ((List.range (x.n / 4096)).filter x.bitmap.testBit).flatMap fun b =>
    opsAt flow d (x.at_ + 4096 * b) 4096 (x.v / 256 ^ (4096 * b) % 256 ^ 4096) ((x.pois.drop (256 * b)).take 256)

def mirrorOps (flow d : Nat) (delta : Bool) (l : List Captured) : List VrnOp :=
  l.flatMap fun x =>
    if x.meth = 1 || (x.meth = 3 && !delta) then opsAt flow d x.at_ x.n x.v x.pois
    else if x.meth = 3 then deltaOps flow d x else []

/-- R381: a die's method-2 bytes and their flags. -/
def methodTwo (l : List Captured) : Nat × Nat × List Bool :=
  (l.filter fun x => x.meth == 2).foldl (fun (r : Nat × Nat × List Bool) x =>
    (r.1 + x.n, r.2.1 + 256 ^ r.1 * x.v, r.2.2 ++ (List.range (x.n / 16)).map fun k => x.pois.getD k false)) (0, 0, [])

def stripeLen (n : Nat) : Nat := ((n + 6) / 7 + 2 ^ 18 - 1) / 2 ^ 18 * 2 ^ 18

def stripeOps (flow d k : Nat) (l : List Captured) : List VrnOp :=
  let (n, v, pois) := methodTwo l
  let w := stripeLen n
  opsAt flow d 0 w (v / 256 ^ (k * w) % 256 ^ w) ((pois.drop (k * w / 16)).take (w / 16))

/-- The mirror flows that carry die `d`'s part, and the place of each. -/
def State.mirrorFlows (s : State) (c d : Nat) : List Nat :=
  let m := s.get (F.VRN_CTX_W2.mflow c)
  match s.get (F.VRN_CTX_W2.nmf c) with
  | 0 => []
  | 8 => [m + d, m + 4 + d]
  | _ => [m + d]

/-- The destinations of the mirror flows. -/
def State.mirrorDests (s : State) (c : Nat) : List Nat :=
  ((List.range (s.get (F.VRN_CTX_W2.nmf c))).map fun k => s.flowPeer (s.get (F.VRN_CTX_W2.mflow c) + k)).eraseDups

/-- What goes to one destination: `f` gives the operations of a die on a flow. -/
def State.toDest (s : State) (c dest : Nat) (f : Nat → Nat → List VrnOp) : List VrnOp :=
  (List.range 4).flatMap fun d => ((s.mirrorFlows c d).filter fun i => s.flowPeer i == dest).flatMap fun i => f i d

/-- R383: the image area as read, for each die its length, its bytes and their flags. -/
def State.imageRead (s : State) (c : Nat) : List (Nat × Nat × List Bool) × State :=
  (List.range 4).foldl (fun (r : List (Nat × Nat × List Bool) × State) d =>
    let n := (r.2.vctx c).imgLen.getD d 0
    let (v, b, s) := r.2.stageRead d (r.2.placeGran c 6) 0 n (granFuel n)
    (r.1 ++ [(n, v, b)], s)) ([], s)

/-- R383: the image area, once a start. -/
def State.imageOps (s : State) (c dest : Nat) (img : List (Nat × Nat × List Bool)) : List VrnOp :=
  s.toDest c dest fun i d =>
    let (n, v, b) := img.getD d (0, 0, [])
    opsAt i d 0 n v b

/-- The copies of a snapshot to one destination, in the order in which they go. -/
def State.copiesTo (s : State) (c seq clock dest : Nat) (parts : List (List Captured))
    (image : Bool) (area : List (Nat × Nat × List Bool)) : List VrnCopy :=
  let part (d : Nat) : List Captured := parts.getD d []
  let delta := s.get (F.VRN_CTX_W5.valid c) == 1 && parts.any fun l => l.any fun x => x.meth == 3
  let full := s.toDest c dest fun i d => mirrorOps i d false (part d)
  let ops := if delta then s.toDest c dest fun i d => mirrorOps i d true (part d) else full
  let m := s.get (F.VRN_CTX_W2.mflow c)
  let stripes := (List.range 7).flatMap fun k =>
    if s.flowPeer (m + k) = dest then (List.range 4).flatMap fun d => stripeOps (m + k) d k (part d) else []
  let id := 64 * clock
  let mir := VrnCopy.mk (id + 3 * dest) seq dest false false delta 0 0 false false ops full
  let par := VrnCopy.mk (id + 3 * dest + 1) seq dest false true false 0 0 false false stripes stripes
  let img := VrnCopy.mk (id + 3 * dest + 2) seq dest true false false 0 0 false false (s.imageOps c dest area) []
  [mir] ++ (if s.get (F.VRN_CTX_W2.nmf c) = 7 then [par] else []) ++ (if image then [img] else [])

/-- An operation of a copy is handed to its flow. -/
def State.giveOp (s : State) (c : Nat) (y : VrnCopy) (o : VrnOp) (at_ cyc : Nat) : State :=
  let u := FlowUnit.mirror c y.id
  if s.flowActive o.flow && s.flowSends o.flow && s.flowKind o.flow = 0 && s.flowCtx o.flow = c then
    let s := s.mapFlow o.flow fun w => { w with waiting := w.waiting ++ [.put u o.dtile o.daddr o.n o.data o.pois] }
    s.serveWaiting o.flow at_ cyc ((s.flow o.flow).waiting.length + 64)
  else s.unitDone u 3

def updCopy (id : Nat) (f : VrnCopy → VrnCopy) (l : List VrnCopy) : List VrnCopy := l.map fun y => if y.id = id then f y else y

/-- A copy begins with its SNAP_BEGIN. -/
def State.startCopy (s : State) (c : Nat) (y : VrnCopy) (at_ cyc : Nat) : State :=
  let flags := y.image.toNat + 2 * y.parity.toNat + 4 * y.delta.toNat
  let s := s.ctrl { op := 0x10, ctx := c, a0 := y.seq, a1 := s.get (F.VRN_CTX_W5.seq c), a2 := flags } y.dest
  let n := (y.todo.map (·.n)).sum
  let s := s.mapVctx c fun v => { v with copies := updCopy y.id (fun z => { z with left := y.todo.length, bytes := n }) v.copies }
  let s := y.todo.foldl (fun s o => s.giveOp c y o at_ cyc) s
  (s.mapVctx c fun v => { v with copies := updCopy y.id (fun z => { z with queued := true, todo := [] }) v.copies }).endCopy
    c y.id

/-- For each destination the first copy that has not failed begins once those before it have been acknowledged. -/
def State.startCopies (s : State) (c at_ cyc : Nat) : State :=
  let live := (s.vctx c).copies.filter fun y => !y.failed
  ((live.map (·.dest)).eraseDups).foldl (fun s n => match live.find? fun y => y.dest == n with
    | some y => if y.queued then s else s.startCopy c y at_ cyc
    | none => s) s

def State.startAllCopies (s : State) (at_ cyc : Nat) : State :=
  (s.vrn.ctxs.map (·.1)).foldl (fun s c => s.startCopies c at_ cyc) s

/-- A local snapshot whose every copy is acknowledged is COMPLETE. -/
def State.checkComplete (s : State) (c seq : Nat) : State :=
  if (s.vctx c).copies.any fun y => y.seq == seq && !y.image then s
  else match s.localSlot c seq with
    | some k => if s.slotState c k = 2 then ((s.setSlotState c k 3).showNewest c).add F.VRN_CNT_DONE.count 1 else s
    | none => s

/-- The rows captured on the context's tiles are free again. -/
def State.freeRows (s : State) (c : Nat) : State :=
  (s.allMembers c).foldl (fun s q => s.mapTile q.2 fun t => { t with vrnRows := [], vrnAt := 0, vrnTorn := false }) s

/-- Every captured row of the context's tiles has been read, at the earliest before cycle `cyc` (R378). -/
def State.readRows (s : State) (c cyc : Nat) : State :=
  (s.allMembers c).foldl (fun s q => s.onTileLow q.2 fun x => (x.ports cyc).vrnWait cyc maxWait) s

/-- A die's part is written; a die with a FAILED stack keeps none. -/
def State.writePart (s : State) (c d k : Nat) (l : List Captured) : State :=
  if s.stageFailed d 0 (stageCount d) then s.setSlotState c k 5 else
  let s := l.foldl (fun s x => s.stageWrite d (s.placeGran c k) x.at_ x.n x.v x.pois (granFuel x.n)) s
  s.mapSlot c k fun w => { w with lens := w.lens.set d (l.foldl (fun m x => max m (x.at_ + x.n)) 0) }

/-- LOCAL_COPY_COMPLETE: the snapshot being written ends in tile cycle `cyc`, at fc `at_`. -/
def State.localCopyDone (s : State) (c at_ cyc : Nat) : State :=
  match s.writing c with
  | none => s
  | some k =>
    let s := (s.reach at_).readRows c cyc
    let x := s.vslot c k
    let torn := x.torn || (s.allMembers c).any fun q => (s.tile q.2).vrnTorn
    let s := s.freeRows c
    if torn then (s.setSlotState c k 0).count F.VRN_CNT_TORN.count 0x10 1
    else
      let (parts, s) := (List.range 4).foldl (fun (r : List (List Captured) × State) d =>
        let (l, s) := r.2.captureDie c d x.sec
        (r.1 ++ [l], s)) ([], s)
      let s := s.setSlotState c k 2
      let s := (List.range 4).foldl (fun s d => s.writePart c d k (parts.getD d [])) s
      let s := s.showNewest c
      let s := if s.get (F.VRN_CTX_W0.sig_en c) = 1 then s.unitInc 0 c (s.get (F.VRN_CTX_W0.vcid c)) 1 cyc else s
      let s := { s with vrn := { s.vrn with snapRec := SMap.put s.vrn.snapRec (4 * c + k) (s.get (F.SKB_SEQ.next c)) 0 } }
      let s := s.skbLog c 0 at_ { kind := 2, step := x.seq, aux := x.seq }
      let image := !(s.vctx c).imgSent
      let (area, s) := if image then s.imageRead c else ([], s)
      let copies := (s.mirrorDests c).flatMap fun n => s.copiesTo c x.seq (s.vctx c).clock n parts image area
      let s := s.mapVctx c fun v => { v with copies := v.copies ++ copies, imgSent := true }
      (s.startCopies c at_ cyc).checkComplete c x.seq

/-! The destination (R381-R383). -/

/-- The buddy slot taken for a new copy: a FREE one, else the older. -/
def State.buddySlot (s : State) (c : Nat) (keep : Option Nat) : Nat :=
  let ok := [3, 4].filter fun k => some k != keep
  let free := ok.filter fun k => s.slotState c k == 0
  match free, ok with
  | k :: _, _ => k
  | [], [a, b] => if (s.vslot c b).age < (s.vslot c a).age then b else a
  | [], a :: _ => a
  | [], [] => 3

/-- The buddy slot in which the parity stripe of a snapshot is being formed (R381). -/
def State.paritySlot (s : State) (c seq : Nat) : Option Nat :=
  [3, 4].find? fun k => s.slotState c k == 1 && (s.vslot c k).parity && (s.vslot c k).seq == seq

/-- R382: a buddy slot that holds a COMPLETE copy of a snapshot. -/
def State.buddyOf (s : State) (c seq : Nat) : Option Nat :=
  [3, 4].find? fun k => s.slotState c k == 3 && (s.vslot c k).seq == seq

/-- A staging area of `n` bytes on every die becomes zero. -/
def State.stageZero (s : State) (c k : Nat) : State :=
  (List.range 4).foldl (fun s d => (List.range (s.slotLen c)).foldl (fun s j =>
    let q := stageGran d (s.placeGran c k + j)
    s.hbmZero d q.1 (q.2 * 2 ^ 21) (2 ^ 21)) s) s

/-- The bytes of one place copied to another on every die. -/
def State.stageCopy (s : State) (c from_ to_ : Nat) : State :=
  (List.range 4).foldl (fun s d =>
    let n := (s.vslot c from_).lens.getD d 0
    let (v, b, s) := s.stageRead d (s.placeGran c from_) 0 n (granFuel n)
    s.stageWrite d (s.placeGran c to_) 0 n v b (granFuel n)) s

def State.beginSlot (s : State) (c k seq : Nat) (parity : Bool) : State :=
  let clock := (s.vctx c).clock + 1
  let s := s.mapVctx c fun v => { v with clock := clock, ins := v.ins.filter fun y => y.slot != k }
  (s.mapSlot c k fun _ => VrnSlot.mk seq clock [] [0, 0, 0, 0] false parity 0).setSlotState c k 1

/-- R397: whether a fill of the context is in progress here, and the role of a source in it. -/
def State.filling (s : State) (c : Nat) : Bool := s.rcv.fills.any fun q => q.1 == c
def State.fillRole (s : State) (c n r : Nat) : Bool := s.rcv.roles.contains (c, n, r)

/-- SNAP_BEGIN at a spare that is being filled: a local slot, the local image area, or the place of the parity sums. -/
def State.fillBegin (s : State) (c n seq : Nat) (image parity : Bool) : State :=
  let add (k : Nat) (sub : Bool) (s : State) : State :=
    s.mapVctx c fun v => { v with ins := v.ins ++ [VrnIn.mk n seq k image parity false sub false] }
  if image then add 6 false s
  else if s.fillRole c n 3 then
    let first := !((s.vctx c).ins.any fun y => y.slot == 3)
    add 3 (!parity) (if first then (s.beginSlot c 3 seq true).stageZero c 3 else s)
  else match (s.freeSlot c) with
    | some k => add k false (s.beginSlot c k seq false)
    | none => s

/-- SNAP_BEGIN. -/
def State.snapBegin (s : State) : State :=
  match s.popCtrl 0x10 with
  | none => s
  | some (x, s) =>
    let c := x.cCtx
    let n := x.cOrigin
    let seq := x.cA0
    let image := x.cA2 % 2 == 1
    let parity := x.cA2 / 2 % 2 == 1
    let delta := x.cA2 / 4 % 2 == 1
    if !s.vrnOn c then s else
    let s := s.mapVctx c fun v => { v with ins := v.ins.filter fun y => y.src != n }
    let add (k : Nat) (img par dlt whole : Bool) (s : State) : State :=
      s.mapVctx c fun v => { v with ins := v.ins ++ [VrnIn.mk n seq k img par dlt false whole] }
    if s.filling c then s.fillBegin c n seq image parity
    else if image then add 5 true false false false s
    else match (if parity then s.paritySlot c seq else none) with
      | some k => add k false true false false s
      | none =>
        let prev := if delta then s.buddyOf c x.cA1 else none
        let k := s.buddySlot c prev
        let s := s.beginSlot c k seq parity
        let s := if parity then s.stageZero c k else s
        let s := match prev with
          | some j => (s.stageCopy c j k).mapSlot c k fun w => { w with lens := (s.vslot c j).lens }
          | none => s
        add k false parity delta (delta && prev.isNone) s

/-- The section that a slot's bytes hold. -/
def State.sectionAt (s : State) (c k : Nat) : Section × State :=
  let n := (s.vslot c k).lens.getD 0 0
  let (v, _, s) := s.stageRead 0 (s.placeGran c k) 0 n (granFuel n)
  (Config.sectionRead n v, s)

/-- A copy is held: a local slot of a spare becomes LOCAL, a buddy slot COMPLETE, a parity stripe with its seventh
sender (R381, R397). -/
def State.holdCopy (s : State) (c : Nat) (y : VrnIn) : State :=
  let k := y.slot
  if k = 6 then s.mapVctx c fun v => { v with imgSent := true }
  else if k = 5 then s
  else
    let s := s.mapSlot c k fun w => { w with ends := w.ends + 1 }
    let put (s : State) (st : Nat) : State :=
      let (x, s) := s.sectionAt c k
      (s.setSlotState c k st).mapSlot c k fun w => { w with sec := x }
    if s.filling c then (if k < 3 then (put s 2).showNewest c else s)
    else if y.parity then (if (s.vslot c k).ends < 7 then s else s.setSlotState c k 3)
    else put s 3

/-- SNAP_END: every byte of the copy is in this module's HBM, and the destination answers. -/
def State.snapEnd (s : State) : State :=
  match s.popCtrl 0x11 with
  | none => s
  | some (x, s) =>
    let c := x.cCtx
    let n := x.cOrigin
    match (s.vctx c).ins.find? fun y => y.src == n && y.seq == x.cA0 with
    | none => s
    | some y =>
      let s := s.mapVctx c fun v => { v with ins := v.ins.erase y }
      let answer (s : State) (st : Nat) : State := s.ctrl { op := 0x12, ctx := c, a0 := y.seq, a2 := st } n
      if y.whole then answer (s.setSlotState c y.slot 0) 1 else answer (s.holdCopy c y) 0

/-- SNAP_ACK: the copy is held, or the whole is asked for (R382). -/
def State.snapAck (s : State) (at_ cyc : Nat) : State :=
  match s.popCtrl 0x12 with
  | none => s
  | some (x, s) =>
    let c := x.cCtx
    let s := s.reach at_
    match (s.vctx c).copies.find? fun y => y.dest == x.cOrigin && y.seq == x.cA0 && y.queued && !y.failed with
    | none => s
    | some y =>
      let s := if x.cA2 = 0 then
          (s.mapVctx c fun v => { v with copies := v.copies.filter fun z => z.id != y.id }).checkComplete c y.seq
        else s.mapVctx c fun v => { v with copies := updCopy y.id (fun z =>
          { z with queued := false, delta := false, todo := z.full }) v.copies }
      s.startCopies c at_ cyc

/-! Register writes (R379, R380, R406). -/

def State.methodsOk (s : State) (c : Nat) : Bool :=
  let nmf := s.get (F.VRN_CTX_W2.nmf c)
  (nmf == 0 || nmf == 4 || nmf == 7 || nmf == 8) && decide (s.get (F.VRN_CTX_W2.nbf c) ≤ 8) &&
    (List.range 4).all fun d => (List.range 64).all fun k => match s.method c d k with
      | 0 => true
      | 2 => nmf == 7
      | _ => nmf == 4 || nmf == 8

def State.vrnEnd (s : State) (c : Nat) : Nat := s.get (F.VRN_CTX_W1.base c) + 5 * s.slotLen c + 2 * s.imgSize c

/-- Whether a write of en 1 passes R379's checks. -/
def State.vrnOk (s : State) (c : Nat) : Bool :=
  decide (s.vrnEnd c ≤ 11776) && decide (s.slotLen c ≤ 768) && decide (s.imgSize c ≤ 768) && s.methodsOk c &&
    (List.range 64).all fun k => k == c || !s.vrnOn k || decide (s.vrnEnd k ≤ s.get (F.VRN_CTX_W1.base c)) ||
      decide (s.vrnEnd c ≤ s.get (F.VRN_CTX_W1.base k))

/-- The buddy-in flows are opened (R383). -/
def State.openBuddy (s : State) (c : Nat) : State :=
  let b := s.get (F.VRN_CTX_W2.bflow c)
  (List.range (s.get (F.VRN_CTX_W2.nbf c))).foldl (fun s k =>
    if s.flowActive (b + k) && s.flowRecvs (b + k) && s.flowKind (b + k) = 0 then s.vrnCredit (b + k) 64 else s) s

/-- A write of a VRN register of context `c` at byte `off` of its block, of the bits `m`. -/
def State.vrnRegWrite (s : State) (c off : Nat) (m v : Word) : State :=
  let a := 0x18000 + 0x80 * c + off
  let reject (s : State) : State := s.put F.VRN_STATUS.reject 1
  let put (mask : Word) : State := s.setWord a ((s.word a &&& ~~~ (m &&& mask)) ||| (v &&& m &&& mask))
  if off = 0 then
    let n := put 0xFFFF03FF#64
    if n.get (F.VRN_CTX_W0.en c) = 1 && !s.vrnOn c then
      (if n.vrnOk c then n.openBuddy c else reject s)
    else n
  else if s.vrnOn c then (if off < 0x20 || 0x38 ≤ off then reject s else s)
  else if off = 8 then put 0x000003FF03FF3FFF#64
  else if off = 0x10 then put 0x001FFFFF0003FFFF#64
  else if off = 0x18 then put 0x7F#64
  else if 0x38 ≤ off && off < 0x78 then put (BitVec.allOnes 64)
  else s

/-! The Sketchbook's cursors and replay (R385, R403). -/

def cursorAt (c k : Nat) : Nat := 0x1A000 + 0x100 * c + 0x20 * k

/-- The next record of a context's replay span. -/
def State.span (s : State) (c : Nat) : List (List Nat) := SMap.getD s.vrn.spans c []
def State.setSpan (s : State) (c : Nat) (l : List (List Nat)) : State :=
  { s with vrn := { s.vrn with spans := SMap.put s.vrn.spans c l [] } }

/-- Entry `k` of the cursor ring is filled from the span. -/
def State.fillCursor (s : State) (c step id batch pos : Nat) : State :=
  let k := id % 8
  let s := (s.put (F.SKB_CUR_W0.batch c k) batch).put (F.SKB_CUR_W1.position c k) pos
  (((s.put (F.SKB_CUR_W2.step c k) step).put (F.SKB_CUR_W2.id c k) id).put (F.SKB_CUR_W2.valid c k) 1).put
    (F.SKB_CUR_W2.replay c k) 1

/-- The cursor of an F unit is consumed. -/
def State.takeCursor (s : State) (c step id : Nat) : Option (Nat × Nat) × State :=
  let k := id % 8
  if s.get (F.SKB_CUR_W2.valid c k) = 1 && s.get (F.SKB_CUR_W2.step c k) = step && s.get (F.SKB_CUR_W2.id c k) = id then
    (some (s.get (F.SKB_CUR_W0.batch c k), s.get (F.SKB_CUR_W1.position c k)), s.put (F.SKB_CUR_W2.valid c k) 0)
  else (none, s.count F.SKB_CNT_NOCUR.count 0x14 1)

/-- The logger takes the release of a unit: phase 1 F, 2 B, 3 OPT (R352, R384, R385, R403). -/
def State.skbUnit (s : State) (c at_ step phase id unit : Nat) : State :=
  if s.get F.SKB_CTL.en = 0 || !s.vrnOn c then s else
  let plain (s : State) : State :=
    let (cur, s) := if phase = 1 then s.takeCursor c step id else (none, s)
    s.skbLog c 0 at_ { kind := 1, step := step, phase := phase, id := id, unit := unit, cursor := cur }
  match s.span c with
  | [] => plain s
  | r :: l =>
    let s := s.setSpan c l
    if r.getD 0 0 ≠ step || r.getD 1 0 ≠ id then plain (s.count F.SKB_CNT_RDIFF.count 0x14 1)
    else
      let cur := if phase = 1 && r.getD 3 0 = 1 then some (r.getD 4 0, r.getD 5 0) else none
      let s := match cur with
        | some (b, p) => (s.fillCursor c step id b p).put (F.SKB_CUR_W2.valid c (id % 8)) 0
        | none => s
      s.skbLog c 0 at_ { kind := 1, step := step, phase := phase, id := id, unit := unit, cursor := cur, replay := true }

/-- A host write of a cursor entry, of the bits `m`; entries that the span fills are not written (R403). -/
def State.cursorWrite (s : State) (c off : Nat) (m v : Word) : State :=
  let k := off / 0x20
  let a := 0x1A000 + 0x100 * c + off
  let mask : Word := match off % 0x20 with
    | 0 => BitVec.allOnes 64
    | 8 => BitVec.allOnes 64
    | 0x10 => 0x1FFFFFFFFFFF#64
    | _ => 0
  if (s.span c).any fun r => r.getD 2 0 == 1 && r.getD 1 0 % 8 == k then s
  else
    let s := s.setWord a ((s.word a &&& ~~~ (m &&& mask)) ||| (v &&& m &&& mask))
    if off % 0x20 = 0x10 then s.put (F.SKB_CUR_W2.replay c k) 0 else s

/-! Mirroring (R386). -/

/-- LOG: a record of the module whose Sketchbook this one mirrors; at a spare, of the log that a fill brings (R397). -/
def State.logIn (s : State) : State :=
  match s.popCtrl 0x0E with
  | none => s
  | some (x, s) =>
    let c := x.cCtx
    let v := x.bytes 32 64
    let seq := v % 2 ^ 64
    let ack (s : State) : State := s.ctrl { op := 0x0F, ctx := c, a0 := seq } x.cOrigin
    if s.fillRole c x.cOrigin 2 then
      let s := s.skbPut false c seq v
      ack (s.put (F.SKB_SEQ.next c) (max (s.get (F.SKB_SEQ.next c)) (seq + 1)))
    else if s.get F.RCV_PEERS.log_from_v = 1 && s.get F.RCV_PEERS.log_from = x.cOrigin then
      if s.engState 3 5 = 4 then s else ack (s.skbPut true c seq v)
    else s.add F.RCV_CNT_STALE.count 1

/-- LOGACK. -/
def State.logAck (s : State) : State :=
  match s.popCtrl 0x0F with
  | none => s
  | some (x, s) =>
    { s with vrn := { s.vrn with logs := s.vrn.logs.filter fun q => q.1 != x.cCtx || q.2.1 != x.cA0 } }

/-- MIRROR_LAG_TIMER: a record unacknowledged for 10 ms is counted and sent again. -/
def State.mirrorLag (s : State) (at_ : Nat) : State :=
  let s := s.reach at_
  let late (q : Nat × Nat × Nat) : Bool := decide (q.2.2 + fcMs 10 ≤ at_)
  let l := s.vrn.logs.filter late
  let logs := s.vrn.logs.map fun q => if late q then (q.1, q.2.1, at_) else q
  l.foldl (fun s q =>
    let s := s.count F.SKB_CNT_MLAG.count 0x13 1
    match s.skbGet false q.1 q.2.1 with
    | (some v, s) => if s.get F.RCV_PEERS.log_buddy_v = 1 then
        s.ctrl { op := 0x0E, ctx := q.1, body := v } (s.get F.RCV_PEERS.log_buddy) else s
    | (none, s) => s) { s with vrn := { s.vrn with logs := logs } }

end Sys2Proof.Machine
end

