-- ==== Sys2Proof/Machine/Training.lean ====
section
/-! DEFINITION. Training support (R350-R371): the microbatch sequencers, the update watch and the export channels. -/

namespace Sys2Proof.Machine

/-! Microbatch sequencers (R350-R357). -/

def State.mbs (s : State) (c : Nat) : MbsSt := SMap.getD s.train.mbs c MbsSt.fresh
def State.setMbs (s : State) (c : Nat) (x : MbsSt) : State :=
  { s with train := { s.train with mbs := SMap.put s.train.mbs c x MbsSt.fresh } }

def State.mbsOn (s : State) (c : Nat) : Bool := s.get (F.MBS_CFG.enable c) == 1
def State.mbsM (s : State) (c : Nat) : Nat := s.get (F.MBS_CFG.nmb_m1 c) + 1
/-- R350: the units of a step. -/
def State.mbsU (s : State) (c : Nat) : Nat := 2 * s.mbsM c + s.get (F.MBS_CFG.opt c)
def State.mbsR (s : State) (c : Nat) : Nat := s.get (F.MBS_STATUS.released c)
def State.mbsC (s : State) (c : Nat) : Nat := s.get (F.MBS_STATUS.completed c)
def State.mbsDone (s : State) (c : Nat) : Nat := s.get (F.MBS_UNIT.done_m1 c) + 1
def State.mbsF (s : State) (c : Nat) : Nat := s.get (F.MBS_UNIT.fgate_m1 c) + 1
def State.mbsB (s : State) (c : Nat) : Nat := s.get (F.MBS_UNIT.bgate_m1 c) + 1

/-- The absolute count of a counter that the sequencer names (R351). -/
def State.absCount (s : State) (c v : Nat) : Option Nat := (s.translate c v).map fun q => (s.absOf q.1 q.2.1).toNat

/-- Whether a named counter translates and is not poisoned (R355). -/
def State.mbsLive (s : State) (c v : Nat) : Bool := match s.translate c v with
  | some (d, i, _) => !s.poisoned d i
  | none => false

def State.mbsCounters (s : State) (c : Nat) : Bool :=
  s.mbsLive c (s.get (F.MBS_VC.vc_rel c)) && s.mbsLive c (s.get (F.MBS_VC.vc_done c)) &&
    (s.get (F.MBS_CFG.fgate_en c) == 0 || s.mbsLive c (s.get (F.MBS_VC.vc_fgate c))) &&
    (s.get (F.MBS_CFG.bgate_en c) == 0 || s.mbsLive c (s.get (F.MBS_VC.vc_bgate c)))

/-- R350, R351: c follows vc_done; the ID of each F unit that completes joins the backward queue. -/
def State.mbsUpdate (s : State) (c : Nat) : State :=
  match s.absCount c (s.get (F.MBS_VC.vc_done c)) with
  | none => s
  | some a =>
    let n := max (s.mbsC c) (min (s.mbsR c) ((a - s.get (F.MBS_DBASE.base c)) / s.mbsDone c))
    let ids := (List.range n).filter fun u => decide (s.mbsC c ≤ u) && decide (u < s.mbsM c)
    (s.put (F.MBS_STATUS.completed c) n).setMbs c { s.mbs c with bwd := (s.mbs c).bwd ++ ids }

/-- Phase of unit `u`: 1 F, 2 B, 3 OPT. -/
def State.mbsPhase (s : State) (c u : Nat) : Nat :=
  if u < s.mbsM c then 1 else if u < 2 * s.mbsM c then 2 else 3

/-- A gate: its count has advanced by `need` since its baseline. -/
def State.gateMet (s : State) (c v base need : Nat) : Bool := match s.absCount c v with
  | some a => decide (base + need ≤ a)
  | none => false

/-- R352: whether unit r may be released. -/
def State.mbsEligible (s : State) (c : Nat) : Bool :=
  let r := s.mbsR c
  let m := s.mbsM c
  (s.mbs c).isOpen && s.mbsOn c && s.get (F.MBS_STATUS.halted c) == 0 && decide (r < s.mbsU c) &&
    decide (r - s.mbsC c < s.get (F.MBS_CFG.depth_m1 c) + 1) &&
    (match s.mbsPhase c r with
     | 1 => s.get (F.MBS_CFG.fgate_en c) == 0 ||
        s.gateMet c (s.get (F.MBS_VC.vc_fgate c)) (s.get (F.MBS_FBASE.base c)) ((r + 1) * s.mbsF c)
     | 2 => decide (m ≤ s.mbsC c) && (s.get (F.MBS_CFG.bgate_en c) == 0 ||
        s.gateMet c (s.get (F.MBS_VC.vc_bgate c)) (s.get (F.MBS_BBASE.base c)) ((r - m + 1) * s.mbsB c))
     | _ => decide (2 * m ≤ s.mbsC c))

/-- The ID that the next unit takes, and the queues without it. -/
def State.mbsTake (s : State) (c phase : Nat) : Nat × MbsSt :=
  let x := s.mbs c
  match phase with
  | 1 => (x.fwd.headD 0, { x with fwd := x.fwd.tail })
  | 2 => if s.get (F.MBS_CFG.border c) = 1 then (x.bwd.getLastD 0, { x with bwd := x.bwd.dropLast })
      else (x.bwd.headD 0, { x with bwd := x.bwd.tail })
  | _ => (0, x)

/-- UNIT_RELEASE at fc `at_`, in tile cycle `cyc`. -/
def State.unitRelease (s : State) (c at_ cyc : Nat) : State :=
  let s := s.reach at_
  if s.mbsOn c && (s.mbs c).isOpen && !s.mbsCounters c then s.mbsHalt c else
  let s := if s.mbsOn c then s.mbsUpdate c else s
  if !s.mbsEligible c then s else
  let u := s.mbsR c
  let ph := s.mbsPhase c u
  let (id, x) := s.mbsTake c ph
  let step := s.get (F.MBS_STEP.step c)
  let entry : Word := BitVec.ofNat 64 (id + ph * 2 ^ 8 + u * 2 ^ 10 + step * 2 ^ 20)
  let s := s.setMbs c { x with rel := x.rel.set (u % 8) entry }
  let s := (s.put (F.MBS_STATUS.released c) (u + 1)).put (F.MBS_STATUS.phase c) ph
  (s.unitInc 0 c (s.get (F.MBS_VC.vc_rel c)) 1 cyc).skbUnit c at_ step ph id u

/-- A step opens with its queues (R350, R353). -/
def State.openStep (s : State) (c : Nat) : State :=
  s.setMbs c { s.mbs c with fwd := List.range (s.mbsM c), bwd := [], isOpen := true }

/-- OPEN: MBS_CMD.open. -/
def State.mbsOpen (s : State) (c : Nat) : State :=
  if s.mbsOn c && !(s.mbs c).isOpen then s.openStep c else s

/-- MBS_RESET: MBS_CMD.reset (R354). -/
def State.mbsReset (s : State) (c : Nat) : State :=
  if s.mbsOn c then s else
  let base (f : RF) (v : Nat) (s : State) : State := match s.absCount c v with
    | some a => s.put f a
    | none => s
  let s := s.setMbs c { s.mbs c with fwd := [], bwd := [], isOpen := false }
  let s := ((s.put (F.MBS_STATUS.released c) 0).put (F.MBS_STATUS.completed c) 0).put (F.MBS_STATUS.phase c) 0
  base (F.MBS_BBASE.base c) (s.get (F.MBS_VC.vc_bgate c)) (base (F.MBS_FBASE.base c) (s.get (F.MBS_VC.vc_fgate c))
    (base (F.MBS_DBASE.base c) (s.get (F.MBS_VC.vc_done c)) s))

/-- The bits of MBS_CFG beside enable. -/
def mbsCfgMask : Word := 0x7FF3E#64

/-- MBS_ENABLE: a write of enable 1 with the register's other fields (R354, R355). -/
def State.mbsEnable (s : State) (c : Nat) (v : Word) : State :=
  let a := mbsBase c
  let reject (s : State) : State := s.put (F.MBS_STATUS.cfg_reject c) 1
  if s.mbsOn c then
    (if (s.word a &&& mbsCfgMask) = (v &&& mbsCfgMask) then s else reject s)
  else
    let n := s.setWord a ((v &&& mbsCfgMask) ||| 1)
    if n.mbsCounters c then n.put (F.MBS_STATUS.halted c) 0 else reject s

/-- MBS_DISABLE: a write of enable 0. -/
def State.mbsDisable (s : State) (c : Nat) (v : Word) : State :=
  let a := mbsBase c
  if s.mbsOn c then
    let n := s.put (F.MBS_CFG.enable c) 0
    if (s.word a &&& mbsCfgMask) = (v &&& mbsCfgMask) then n else n.put (F.MBS_STATUS.cfg_reject c) 1
  else s.setWord a (v &&& mbsCfgMask)

/-- A write of MBS_VC, MBS_UNIT or MBS_STEP, of the bits `m` (R355). -/
def State.mbsRegWrite (s : State) (c off : Nat) (m v : Word) : State :=
  let a := mbsBase c + off
  if s.mbsOn c then s.put (F.MBS_STATUS.cfg_reject c) 1
  else s.setWord a ((s.word a &&& ~~~ m) ||| (v &&& m))

/-- MBS_QDATA (R357). -/
def State.mbsQdata (s : State) (c : Nat) : Nat :=
  let q := if s.get (F.MBS_QSEL.queue c) = 1 then (s.mbs c).bwd else (s.mbs c).fwd
  match q[s.get (F.MBS_QSEL.index c)]? with
  | some id => id + 2 ^ 8 + q.length * 2 ^ 16
  | none => q.length * 2 ^ 16

/-! The update watch (R362-R366). -/

def State.entry (s : State) (e : Nat) : WatchEntry := SMap.getD s.train.entries e []
def WatchEntry.word (x : WatchEntry) (k : Nat) : Nat := (List.getD x k 0).toNat

/-- The words of an entry in their fields; an entry of zeros is not listed. -/
def State.setEntry (s : State) (e : Nat) (ws : List Nat) : State :=
  let l : WatchEntry := if ws.all (· == 0) then [] else ws.map (BitVec.ofNat 64)
  { s with train := { s.train with entries := SMap.put s.train.entries e l [] } }

/-- An entry as numbers. -/
structure WEntry where
  accD : Nat
  accW : Nat
  dLast : Nat
  wLast : Nat
  ratio : Nat
  flags : Nat
  sticky : Nat
  step : Nat
  skipOpen : Nat
  outCnt : Nat
  skips : Nat
  touched : Bool
  nonfin : Bool
  ovf : Bool

def WatchEntry.parse (x : WatchEntry) : WEntry :=
  let w := WatchEntry.word x
  { accD := w 0 + w 1 * 2 ^ 64 + w 2 * 2 ^ 128 + w 3 * 2 ^ 192, accW := w 4 + w 5 * 2 ^ 64 + w 6 * 2 ^ 128 + w 7 * 2 ^ 192,
    dLast := w 8, wLast := w 9, ratio := w 10 % 2 ^ 32, flags := w 10 / 2 ^ 32 % 64, sticky := w 10 / 2 ^ 40 % 64,
    step := w 11 % 2 ^ 36, skipOpen := w 12 % 2 ^ 32, outCnt := w 12 / 2 ^ 32, skips := w 13 % 2 ^ 48,
    touched := (w 14).testBit 0, nonfin := (w 14).testBit 1, ovf := (w 14).testBit 2 }

def WEntry.words (x : WEntry) : List Nat :=
  (List.range 4).map (fun k => x.accD / 2 ^ (64 * k) % 2 ^ 64) ++ (List.range 4).map (fun k => x.accW / 2 ^ (64 * k) % 2 ^ 64) ++
    [x.dLast, x.wLast, x.ratio + x.flags * 2 ^ 32 + x.sticky * 2 ^ 40, x.step, x.skipOpen + x.outCnt * 2 ^ 32, x.skips,
     x.touched.toNat + 2 * x.nonfin.toNat + 4 * x.ovf.toNat]

/-- R363: a sum that would reach 2^256 stays at its greatest value. -/
def watchAdd (a : Nat) (v : FVal) : Nat × Bool :=
  let n := a + (v.intAt (-160)).toNat
  if n < 2 ^ 256 then (n, false) else (2 ^ 256 - 1, true)

/-- The value of an FP64 code is finite. -/
def fin64 (v : Nat) : Bool := (Fmt.fp64.decode v).isFin

/-- R364: an entry after a finite record: both sums, and whether either overflowed. -/
def WEntry.summed (x : WEntry) (r : WatchRec) : WEntry :=
  let d := watchAdd x.accD (Fmt.fp64.decode r.r0)
  let w := watchAdd x.accW (Fmt.fp64.decode r.r1)
  { x with accD := d.1, accW := w.1, ovf := x.ovf || d.2 || w.2 }

/-- R364: an entry that a record has reached. -/
def WEntry.reached (x : WEntry) (skips : Nat) : WEntry :=
  { x with touched := true, skipOpen := min (2 ^ 32 - 1) (x.skipOpen + skips) }

/-- WATCH_DELIVERY: the oldest record reaches the unit. -/
def State.watchDelivery (s : State) : State :=
  match s.train.records with
  | [] => s
  | r :: l =>
    let s := { s with train := { s.train with records := l } }
    let c := r.ctx
    if s.get (F.WCH_CTX_W0.en c) = 0 || s.get (F.WCH_CTX_W0.size c) ≤ r.layer then s.count F.WCH_CNT_RANGE.count 0x17 1
    else
      let e := s.get (F.WCH_CTX_W0.base c) + r.layer
      let x := (WatchEntry.parse (s.entry e)).reached r.skips
      if r.poison || !fin64 r.r0 || !fin64 r.r1 then
        (s.setEntry e { x with nonfin := true }.words).count F.WCH_CNT_NONFIN.count 0x16 1
      else s.setEntry e (x.summed r).words

/-- A sum as FP64 (R364). -/
def watchSum (n : Nat) : FVal := to64 (.fin false n (-160))

/-- R364: a touched entry's close: the entry, and whether the ratio is outside its band. -/
def WEntry.close (x : WEntry) (lo hi : FVal) (step : Nat) : WEntry × Bool :=
  let d := watchSum x.accD
  let w := watchSum x.accW
  let zero := w.isZero
  let ratio : FVal := if zero then .nan else Fmt.fp32.decode (Fmt.fp32.rne (to64 (to64 (d.div w)).sqrt)).code
  let isHi := hi.lt ratio
  let isLo := ratio.lt lo
  let skip := decide (1 ≤ x.skipOpen)
  let flags := isHi.toNat + 2 * isLo.toNat + 4 * x.nonfin.toNat + 8 * zero.toNat + 16 * x.ovf.toNat + 32 * skip.toNat
  let out := isHi || isLo
  ({ accD := 0, accW := 0, dLast := code64 d, wLast := code64 w, ratio := (Fmt.fp32.rne ratio).code, flags := flags,
     sticky := x.sticky ||| flags, step := step, skipOpen := 0, outCnt := min (2 ^ 32 - 1) (x.outCnt + out.toNat),
     skips := min (2 ^ 48 - 1) (x.skips + x.skipOpen), touched := false, nonfin := false, ovf := false }, out)

/-- The watch of a context closes a step: every touched entry, in index order. -/
def State.watchClose (s : State) (c step : Nat) : State :=
  let base := s.get (F.WCH_CTX_W0.base c)
  let lo := Fmt.fp32.decode (s.get (F.WCH_CTX_W1.band_lo c))
  let hi := Fmt.fp32.decode (s.get (F.WCH_CTX_W1.band_hi c))
  let s := (List.range (s.get (F.WCH_CTX_W0.size c))).foldl (fun s k =>
    let x := WatchEntry.parse (s.entry (base + k))
    if !x.touched then s else
    let (y, out) := x.close lo hi step
    let s := s.setEntry (base + k) y.words
    if out then s.count F.WCH_CNT_OUT.count 0x15 1 else s) s
  s.put (F.WCH_CTX_W2.step_closed c) step

/-- WATCH_CLOSE: a write of close. -/
def State.watchCloseWrite (s : State) (c : Nat) : State := s.watchClose c (s.get (F.MBS_STEP.step c))

/-- WCH_CTX_WRITE: a write of W0 (R362). -/
def State.wchWrite (s : State) (c : Nat) (v : Word) : State :=
  let base := v.field 0 15
  let size := v.field 16 13
  let b0 := s.get (F.WCH_CTX_W0.base c)
  let z0 := s.get (F.WCH_CTX_W0.size c)
  let en0 := s.get (F.WCH_CTX_W0.en c) == 1
  let hits := (List.range 64).any fun k => k != c && s.get (F.WCH_CTX_W0.en k) == 1 &&
    decide (base < s.get (F.WCH_CTX_W0.base k) + s.get (F.WCH_CTX_W0.size k)) &&
    decide (s.get (F.WCH_CTX_W0.base k) < base + size)
  if 32768 < base + size || 4096 < size || hits || (en0 && (base ≠ b0 || size ≠ z0)) then
    s.put (F.WCH_CTX_W2.reject c) 1
  else
    let s := s.setWord (wchBase c) (v &&& 0x11FFF7FFF#64)
    if v.field 33 1 = 1 then s.watchCloseWrite c else s

/-- A write of W1, of the bits `m`: a NaN bound is rejected (R366). -/
def State.wchBandWrite (s : State) (c : Nat) (m v : Word) : State :=
  let a := wchBase c + 8
  let n := (s.word a &&& ~~~ m) ||| (v &&& m)
  if (Fmt.fp32.decode (n.field 0 32)).isNan || (Fmt.fp32.decode (n.field 32 32)).isNan then s.put (F.WCH_CTX_W2.reject c) 1
  else s.setWord a n

/-- WCH_ACC_READ. -/
def State.wchRead (s : State) : State :=
  let x := s.entry (s.get F.WCH_ACC_ADDR.entry)
  (List.range 16).foldl (fun s j => s.put (F.WCH_ACC_DATA.data j) (WatchEntry.word x j)) s

/-- The contexts whose range holds an entry. -/
def State.wchOwners (s : State) (e : Nat) : List Nat :=
  (List.range 64).filter fun c => decide (s.get (F.WCH_CTX_W0.base c) ≤ e) &&
    decide (e < s.get (F.WCH_CTX_W0.base c) + s.get (F.WCH_CTX_W0.size c))

/-- WCH_ACC_WRITE: accepted for an entry whose context has en 0 (R365). -/
def State.wchAccWrite (s : State) : State :=
  let e := s.get F.WCH_ACC_ADDR.entry
  let on := (s.wchOwners e).filter fun c => s.get (F.WCH_CTX_W0.en c) == 1
  if on.isEmpty then
    s.setEntry e (WatchEntry.parse ((List.range 15).map fun j => s.word (0x14840 + 8 * j))).words
  else on.foldl (fun s c => s.put (F.WCH_CTX_W2.reject c) 1) s

/-! The close of a step (R353, R376). -/

/-- STEP_CLOSE. -/
def State.stepClose (s : State) (c at_ : Nat) : State :=
  let s := s.reach at_
  if !s.mbsOn c || !(s.mbs c).isOpen || s.get (F.MBS_STATUS.halted c) = 1 then s else
  let s := s.mbsUpdate c
  if s.mbsC c < s.mbsU c then s else
  let step := s.get (F.MBS_STEP.step c)
  let u := s.mbsU c
  let s := s.watchClose c step
  let s := s.put (F.MBS_STEP.step c) (if step = 2 ^ 36 - 1 then step else step + 1)
  let add (f : RF) (n : Nat) (s : State) : State := s.put f ((s.get f + n) % 2 ^ 64)
  let s := add (F.MBS_BBASE.base c) (s.mbsM c * s.mbsB c) (add (F.MBS_FBASE.base c) (s.mbsM c * s.mbsF c)
    (add (F.MBS_DBASE.base c) (u * s.mbsDone c) s))
  let s := ((s.put (F.MBS_STATUS.released c) 0).put (F.MBS_STATUS.completed c) 0).put (F.MBS_STATUS.phase c) 0
  let s := s.setMbs c { s.mbs c with fwd := List.range (s.mbsM c), bwd := [], isOpen := false }
  let s := s.snapshotDue c step
  if step = 2 ^ 36 - 1 then s.mbsHalt c
  else if s.get (F.MBS_CFG.auto_open c) = 1 then s.openStep c else s

/-! Export channels (R367-R370). -/

/-- The flow that a channel sends on, if the flow admits it (R368). -/
def State.exportFlow (s : State) (x : Nat) : Option Nat :=
  let v := s.get (F.EXP_DST.addr x)
  let i := v % 2 ^ 14
  if s.flowActive i && s.flowKind i = 0 && s.flowSends i && s.flowCtx i = s.get (F.EXP_CTL.ctx x) &&
      s.flowEpoch i = v / 2 ^ 14 % 256 then some i else none

/-- EXPORT_START: a write of EXP_CTLx with start. -/
def State.exportStart (s : State) (x : Nat) (v : Word) (at_ cyc : Nat) : State :=
  if s.get (F.EXP_STATUS.state x) = 1 then s else
  let s := s.reach at_
  let s := (s.put (F.EXP_CTL.dest x) (v.field 2 1)).put (F.EXP_CTL.ctx x) (v.field 3 6)
  let c := v.field 3 6
  let seq := s.get (F.EXP_SRC.snap x)
  let fail (s : State) (cause : Nat) : State :=
    ((s.put (F.EXP_STATUS.moved x) 0).put (F.EXP_STATUS.state x) 3).put (F.EXP_STATUS.cause x) cause
  match s.heldSlot c seq with
  | none => fail s 1
  | some k =>
    if (List.range 5).any fun j => j != k && s.pinned c j then fail s 6 else
    let len := (s.vslot c k).lens.sum
    let s := (((s.setPin c k true).put (F.EXP_LEN.len x) len).put (F.EXP_STATUS.moved x) 0).put (F.EXP_STATUS.cause x) 0
    let s := s.put (F.EXP_STATUS.state x) 1
    if v.field 2 1 = 0 then s else
    match s.exportFlow x with
    | none => s.channelEnd x 3 4
    | some i =>
      if len = 0 then s else
      let s := s.mapFlow i fun w => { w with waiting := w.waiting ++ [.channel x] }
      s.serveWaiting i at_ cyc ((s.flow i).waiting.length + 64)

/-- EXPORT_ABORT: a write of abort. -/
def State.exportAbort (s : State) (x : Nat) : State :=
  if s.get (F.EXP_STATUS.state x) = 1 then s.channelEnd x 4 0 else s

/-- The bytes of a number as a list. -/
def byteList (v n : Nat) : List (BitVec 8) := (List.range n).map fun k => BitVec.ofNat 8 (v / 256 ^ k)

/-- EXPORT_DONE: the last host write is issued, or cannot be (R473), or the flow's resolved count has reached its sent
count. -/
def State.exportDone (s : State) (x : Nat) : State :=
  if s.get (F.EXP_STATUS.state x) ≠ 1 then s else
  let len := s.get (F.EXP_LEN.len x)
  let moved := s.get (F.EXP_STATUS.moved x)
  if s.get (F.EXP_CTL.dest x) = 0 then
    if !s.canWriteHost then (s.channelEnd x 3 3).add F.HOST_CNT_DROP.count 1 else
    let n := len - moved
    let (v, _, s) := s.snapBytes x moved n
    let s := s.post (.exportData x ((s.get (F.EXP_DST.addr x) + moved) % 2 ^ 64) n (byteList v n))
    (s.put (F.EXP_STATUS.moved x) len).channelEnd x 2 0
  else
    let i := s.get (F.EXP_DST.addr x) % 2 ^ 14
    if moved < len || s.flowSent i ≠ s.flowResolved i || s.schedOf i ≠ 0 then s else s.channelEnd x 2 0

/-- The channels of a context end (R369). -/
def State.exportsEnd (s : State) (c st cause : Nat) : State :=
  (List.range 4).foldl (fun s x => if s.get (F.EXP_STATUS.state x) = 1 && s.get (F.EXP_CTL.ctx x) = c then
    s.channelEnd x st cause else s) s

end Sys2Proof.Machine
end

