-- ==== Sys2Proof/Machine/Repair.lean ====
section
/-! DEFINITION. Silent errors, test and repair (R229-R233, R407-R432): the tile maps, error totals and their doorbells,
suspicions and margins, migrations, audits, the rolling scan, retirements and repair commits. -/

namespace Sys2Proof.Machine

/-! Locks (R16). -/

/-- MOD_LOCK bits: 0 profile, 1 debug, 2 fuse, 3 margins, 4 tile_map, 5 tick_role. -/
def State.locked (s : State) (k : Nat) : Bool := (s.get F.MOD_LOCK.lock).testBit k
/-- A write that touched locked fields. -/
def State.lockViolation (s : State) : State := s.errc 0 1

/-- R388: the fault manager reports the module's failure to the coordinator, naming the ERRC index of the cause. -/
def State.sendFail (s : State) (cause : Nat) : State :=
  if s.get F.RCV_CTL.en = 1 && s.get F.TICK_PEERS.master_valid = 1 then
    s.ctrl { op := 0x02, subject := s.node, a2 := cause } (s.get F.TICK_PEERS.master_id)
  else s

/-! Tile maps (R229-R233). -/

def tmapAddr (d r : Nat) : Nat := 0x104000 + 0x100000 * d + 8 * r
def tmapNextAddr (d r : Nat) : Nat := 0x104200 + 0x100000 * d + 8 * r

def State.tmap (s : State) (d r : Nat) : Nat := (s.word (tmapAddr d r)).toNat % 2 ^ 60
def State.staged (s : State) (d r : Nat) : Bool := (s.get (F.DIE_TMAP_CTL.pending d)).testBit r
/-- The map that a change is composed with: the staged one, or the one in effect. -/
def State.mapNext (s : State) (d r : Nat) : Nat :=
  if s.staged d r then (s.word (tmapNextAddr d r)).toNat % 2 ^ 60 else s.tmap d r

/-- A substitution of a map. -/
structure TSub where
  v : Bool
  log : Nat
  phys : Nat
  scan : Bool
  deriving DecidableEq, Repr

def subAt (m k : Nat) : TSub :=
  let w := m / 2 ^ (34 + 13 * k)
  ⟨w.testBit 0, w / 2 % 32, w / 64 % 64, w.testBit 12⟩

def TSub.code (x : TSub) : Nat := x.v.toNat + 2 * x.log + 64 * x.phys + 4096 * x.scan.toNat

/-- A map with substitution `k` replaced. -/
def setSub (m k : Nat) (x : TSub) : Nat :=
  let lo := 34 + 13 * k
  m - m / 2 ^ lo % 2 ^ 13 * 2 ^ lo + x.code * 2 ^ lo

def mapRetired (m col : Nat) : Bool := m.testBit col
def mapRetire (m col : Nat) (v : Bool) : Nat := if m.testBit col = v then m else if v then m + 2 ^ col else m - 2 ^ col

/-- R229: the physical column that serves logical column `l`. -/
def mapServes (m l : Nat) : Nat :=
  let a := subAt m 0
  let b := subAt m 1
  if a.v && a.log == l then a.phys else if b.v && b.log == l then b.phys else l

/-- The logical column that a physical column serves. -/
def mapLogOf (m col : Nat) : Option Nat := (List.range 32).find? fun l => mapServes m l == col

/-- R229: the rules for a candidate. -/
def mapOk (m : Nat) : Bool :=
  let a := subAt m 0
  let b := subAt m 1
  let spare (x : TSub) : Bool := !x.v || x.phys == 32 || x.phys == 33
  spare a && spare b && (!(a.v && b.v) || (a.log != b.log && a.phys != b.phys))

/-- The map with logical column `l` served by a spare. -/
def mapCover (m l spare : Nat) (scan : Bool) : Nat :=
  let k := if (subAt m 0).v && (subAt m 0).log == l then 0
    else if (subAt m 1).v && (subAt m 1).log == l then 1 else if (subAt m 0).v then 1 else 0
  setSub m k ⟨true, l, spare, scan⟩

/-- The map without the substitution of logical column `l`. -/
def mapUncover (m l : Nat) : Nat :=
  let none : TSub := ⟨false, 0, 0, false⟩
  if (subAt m 0).v && (subAt m 0).log == l then setSub m 0 none
  else if (subAt m 1).v && (subAt m 1).log == l then setSub m 1 none else m

/-- The context whose tiles a row holds: its owner on the die, once a load of it has begun and outside Gesso (DEDUCED:
notes/assumptions/45). -/
def State.rowHolds (s : State) (d r : Nat) : Option Nat :=
  match s.rowOwner d r with
  | some c => if 4 ≤ s.ldrState d c && !s.rowGesso d r then some c else none
  | none => none

/-- A tile that has held a context's data beside the tiles that serve it (R126). -/
def State.holds (s : State) (p c : Nat) : State :=
  if s.rep.held.contains (p, c) then s else { s with rep := { s.rep with held := s.rep.held ++ [(p, c)] } }

/-- R126: the tiles of a row that hold a context's data and that a new map takes out of its service or retires. -/
def State.mapHolds (s : State) (d r m : Nat) : State := match s.rowHolds d r with
  | none => s
  | some c =>
    let old := s.tmap d r
    let left := (List.range 32).filterMap fun l =>
      if mapServes old l = mapServes m l then none else some (mapServes old l)
    let gone := (List.range 34).filter fun col => mapRetired m col && !mapRetired old col
    (left ++ gone).foldl (fun s col => s.holds (physOf d r col) c) s

/-- A map takes effect. The role epoch is the logical tile's: it goes with it to its new physical tile. -/
def State.applyMap (s : State) (d r m : Nat) : State :=
  let s := s.mapHolds d r m
  let old := s.tmap d r
  let epochs := (List.range 32).filterMap fun l =>
    if mapServes old l = mapServes m l then none
    else some (mapServes m l, (s.tile (physOf d r (mapServes old l))).get TF.TILE_SELF.role_epoch)
  let s := (s.setWord (tmapAddr d r) (BitVec.ofNat 64 m)).setWord (tmapNextAddr d r) (BitVec.ofNat 64 m)
  let p := s.get (F.DIE_TMAP_CTL.pending d)
  let s := s.put (F.DIE_TMAP_CTL.pending d) (if p.testBit r then p - 2 ^ r else p)
  epochs.foldl (fun s q => s.mapTile (physOf d r q.1) fun t => t.put TF.TILE_SELF.role_epoch q.2) s

/-- R231: a candidate is staged in tile cycle `cyc` of its die; in a row that holds tiles of no context it takes effect at
once. What the repair unit stages is staged in time for any release to come. -/
def State.stageMapAt (s : State) (d r m cyc : Nat) : State :=
  if !mapOk m then s.put (F.DIE_TMAP_CTL.reject d) 1
  else if (s.rowHolds d r).isNone then s.applyMap d r m
  else
    let p := s.get (F.DIE_TMAP_CTL.pending d)
    let s := (s.setWord (tmapNextAddr d r) (BitVec.ofNat 64 m)).put (F.DIE_TMAP_CTL.pending d) (p ||| 2 ^ r)
    { s with rep := { s.rep with tmapAt := SMap.put s.rep.tmapAt (48 * d + r) cyc 0 } }

def State.stageMap (s : State) (d r m : Nat) : State := s.stageMapAt d r m 0

/-- The staged maps of those rows of a mask that `ok` admits take effect. -/
def State.applyStaged (s : State) (d rows : Nat) (ok : Nat → Bool) : State :=
  ((rowsIn rows).filter fun r => s.staged d r && ok r).foldl (fun s r => s.applyMap d r (s.mapNext d r)) s

/-- R234: a map written in a release cycle takes effect at the following release. -/
def State.stagedBefore (s : State) (d cyc r : Nat) : Bool := decide (SMap.getD s.rep.tmapAt (48 * d + r) 0 < cyc)

/-- DIE_TMAP_NEXT_WRITE: a host write in tile cycle `cyc` of the die (R231, R233). -/
def State.tmapNextWrite (s : State) (d r : Nat) (m v : Word) (cyc : Nat) : State :=
  if s.locked 4 then s.lockViolation
  else s.stageMapAt d r (((BitVec.ofNat 64 (s.mapNext d r) &&& ~~~ m) ||| (v &&& m)).toNat % 2 ^ 60) cyc

/-! Error totals and doorbells (R408-R411). -/

/-- A ring entry is written, or meets a full ring (R411); one that cannot be sent is counted (R473). -/
def State.ringEntry (s : State) (i : Nat) : State :=
  let k := s.get F.ERRC_DBCFG.size_log2
  let tail := s.get F.ERRC_DBPTR.tail
  if s.get F.ERRC_DBCFG.ring_en = 0 || k < 4 || 12 < k then s
  else if !s.canWriteHost then s.add F.HOST_CNT_DROP.count 1
  else if (tail + 2 ^ 16 - s.get F.ERRC_DBPTR.head) % 2 ^ 16 = 2 ^ k then s.errc 7 1
  else
    let first := tail / 2 ^ k % 2 == 0
    (s.post (.ring (s.get F.ERRC_DBADDR.addr * 4096 + 4 * (tail % 2 ^ k)) (i + (if first then 2 ^ 31 else 0)))).put
      F.ERRC_DBPTR.tail ((tail + 1) % 2 ^ 16)

/-- A doorbell rings (R410). -/
def State.ringDoorbell (s : State) (i : Nat) : State :=
  let s := s.put (F.ERRC_THR.armed i) 0
  let s := if s.get (F.ERRC_THR.easel i) = 1 && !s.rep.easelPend.contains i
    then { s with rep := { s.rep with easelPend := s.rep.easelPend ++ [i] } } else s
  let f : RF := ⟨(F.ERRC_PEND.pend (i / 64)).addr, i % 64, 1⟩
  if s.get (F.ERRC_THR.host i) = 0 || s.get f = 1 then s
  else
    let s := (s.put f 1).ringEntry i
    if s.get F.ERRC_DBCFG.msix_en = 1 then
      (if s.get F.ERRC_DBCFG.vector < msixSize 0 then s.msix 0 (s.get F.ERRC_DBCFG.vector) else s)
    else s

/-- R409: an armed threshold that is met rings. -/
def State.checkDoorbell (s : State) (i : Nat) : State :=
  if s.get (F.ERRC_THR.armed i) = 1 && decide (s.get (F.ERRC_THR.thr i) ≤ s.get (F.ERRC_CNT.count i)) then s.ringDoorbell i
  else s

/-- ERRC_UPDATE: the oldest increment on its way reaches its total. -/
def State.errcUpdate (s : State) : State := match s.errcPending with
  | [] => s
  | (i, n) :: l => ({ s with errcPending := l }.add (F.ERRC_CNT.count i) n).checkDoorbell i

/-- ERRC_THR_ARM: a write of ERRC_THRi with armed set. -/
def State.thrArm (s : State) (i : Nat) (v : Word) : State :=
  (s.setWord (F.ERRC_THR.thr i).addr (v &&& 0x3FFFFFFFFFFFF#64 ||| 0x4000000000000#64)).checkDoorbell i

/-- ERRC_DBADDR_WRITE: a write of the ring's address, or of ERRC_DBCFG with size_log2 (R411). -/
def State.dbaddrWrite (s : State) (v : Word) : State :=
  (s.setWord F.ERRC_DBADDR.addr.addr (v &&& 0xFFFFFFFFFFFFF000#64)).setWord F.ERRC_DBPTR.tail.addr 0
def State.dbcfgWrite (s : State) (v : Word) : State :=
  (s.setWord F.ERRC_DBCFG.vector.addr (v &&& 0x1FFFF#64)).setWord F.ERRC_DBPTR.tail.addr 0

/-! Margins (R415, R509). -/

/-- The clock of a die that runs (R509, R510): the ceiling, or 75 % or 50 % of it while stretched. -/
def State.showClock (s : State) (d : Nat) : State :=
  if !s.pwr.clocks then s else
  let f := s.get (F.PWR_DIE_CLK.ceil d)
  match s.get (F.PWR_DIE_CLK.stretch d) with
  | 0 => s.put (F.PWR_DIE_CLK.now d) f
  | 1 => s.put (F.PWR_DIE_CLK.now d) (3 * f / 4)
  | 2 => s.put (F.PWR_DIE_CLK.now d) (f / 2)
  | _ => s

/-- The die's ceiling follows its steps; what the clock has withheld is counted at the ceiling it had. -/
def State.setCeiling (s : State) (d : Nat) : State :=
  let s := if s.pwr.clocks then s.settleLoss d s.now else s
  let k := s.get (F.REP_MARGIN.cstep d) + s.get (F.PWR_DIE_CLK.tstep d) + s.get (F.PWR_DIE_CLK.pstep d)
  (s.put (F.PWR_DIE_CLK.ceil d) (max 800 (1600 - 50 * k))).showClock d

/-- REP_MARGIN_WRITE. -/
def State.marginWrite (s : State) (d : Nat) (m v : Word) : State :=
  if s.locked 3 then s.lockViolation else
  let a := (F.REP_MARGIN.vstep d).addr
  let n := (s.word a &&& ~~~ m) ||| (v &&& m)
  let s := if n.field 0 3 ≤ 4 then s.put (F.REP_MARGIN.vstep d) (n.field 0 3) else s
  (if n.field 4 3 ≤ 4 then s.put (F.REP_MARGIN.cstep d) (n.field 4 3) else s).setCeiling d

/-- One margin step, unless both steps are at 4. -/
def State.marginStep (s : State) (d : Nat) : Option State :=
  let v := s.get (F.REP_MARGIN.vstep d)
  let c := s.get (F.REP_MARGIN.cstep d)
  let volt (s : State) : State := (s.put (F.REP_MARGIN.vstep d) (v + 1)).errc (dieErrc d 0x2F) 1
  let clk (s : State) : State := ((s.put (F.REP_MARGIN.cstep d) (c + 1)).setCeiling d).errc (dieErrc d 0x2F) 1
  if s.get F.REP_POLICY.volt_first = 1 then
    (if v < 4 then some (volt s) else if c < 4 then some (clk s) else none)
  else (if c < 4 then some (clk s) else if v < 4 then some (volt s) else none)

/-! Spares (R25). -/

def State.audit (s : State) (d r : Nat) : Audit := SMap.getD s.rep.audits (48 * d + r) Audit.fresh
def State.setAudit (s : State) (d r : Nat) (a : Audit) : State :=
  { s with rep := { s.rep with audits := SMap.put s.rep.audits (48 * d + r) a Audit.fresh } }
def State.scanOf (s : State) (d : Nat) : Scan := SMap.getD s.rep.scans d Scan.fresh
def State.setScan (s : State) (d : Nat) (x : Scan) : State :=
  { s with rep := { s.rep with scans := SMap.put s.rep.scans d x Scan.fresh } }

/-- The row that a die's rolling scan is in. -/
def State.scanRow (s : State) (d : Nat) : Nat := s.get (F.REP_SCAN_STATUS.row d)

/-- Whether a column is under scan. -/
def State.underScan (s : State) (d r col : Nat) : Bool :=
  s.get (F.REP_SCAN_STATUS.active d) == 1 && s.scanRow d == r &&
    (s.scanOf d).cur.any fun x => x.col == col && !x.waits

/-- Whether an audit holds a spare. -/
def State.auditing (s : State) (d r q : Nat) : Bool := (s.audit d r).phase != 0 && (s.audit d r).spare == q

/-- Whether a spare is free for any purpose. -/
def State.spareFree (s : State) (d r q : Nat) : Bool :=
  let m := s.mapNext d r
  !mapRetired m q && !((subAt m 0).v && (subAt m 0).phys == q) && !((subAt m 1).v && (subAt m 1).phys == q) &&
    !(s.rep.migs.any fun x => x.die == d && x.row == r && x.q == q) && !s.underScan d r q && !s.auditing d r q

def State.freeSpare (s : State) (d r : Nat) : Option Nat := [32, 33].find? (s.spareFree d r)
def State.freeSpares (s : State) (d r : Nat) : Nat := ([32, 33].filter (s.spareFree d r)).length

/-- The retirements of a row that wait for a spare, and with `k` 1 the covers too. -/
def State.spareWants (s : State) (d r k : Nat) : Nat :=
  (s.rep.wants.filter fun x => x.die == d && x.row == r && decide (x.purpose ≤ k)).length

/-- R25, R423: an audit gives up its spare at the next die barrier when retirements and covers wait for more spares than are
free. -/
def State.yieldAudit (s : State) (d r : Nat) : State :=
  let a := s.audit d r
  if a.phase ≠ 0 && decide (s.freeSpares d r < s.spareWants d r 1) then s.setAudit d r { a with release := true } else s

/-! Migrations (R416-R419). -/

/-- The map after a migration. -/
def Mig.map (x : Mig) (m : Nat) : Nat := match x.purpose with
  | 0 => mapRetire (mapCover m x.log x.q false) x.p true
  | 1 => mapCover m x.log x.q true
  | 2 => mapUncover m x.log
  | _ => m

/-- A migration starts; a tile with no context needs no copy. -/
def State.startMig (s : State) (x : Mig) : State :=
  match s.rowHolds x.die x.row with
  | none => s.stageMap x.die x.row (x.map (s.mapNext x.die x.row))
  | some c =>
    let s := (s.holds (physOf x.die x.row x.p) c).holds (physOf x.die x.row x.q) c
    { s with rep := { s.rep with migs := s.rep.migs ++ [{ x with copied := none, ok := false }] } }

def State.dropWant (s : State) (x : Mig) : State := { s with rep := { s.rep with wants := s.rep.wants.erase x } }
def State.want (s : State) (x : Mig) : State :=
  if s.rep.wants.contains x then s else { s with rep := { s.rep with wants := s.rep.wants ++ [x] } }

def Mig.request (d r purpose p log : Nat) : Mig := ⟨d, r, purpose, p, 0, log, none, false⟩

/-- MIGRATION_START: of what waits in a row, a retirement with a free spare goes first, then a return, then a cover. -/
def State.migrationStart (s : State) (d r : Nat) : State :=
  let l := s.rep.wants.filter fun x => x.die == d && x.row == r
  let pick (k : Nat) : Option Mig := l.find? fun x => x.purpose == k
  match s.freeSpare d r, pick 0, pick 2, pick 1 with
  | some q, some x, _, _ => (s.dropWant x).startMig { x with q := q }
  | _, _, some x, _ => (s.dropWant x).startMig { x with q := x.log }
  | some q, none, none, some x => (s.dropWant x).startMig { x with q := q }
  | _, _, _, _ => s

/-- The copier's reads of a Palette find its errors, as any reads do (R106, R107, R417). -/
def TW.copyReads (x : TW) : TW := x.t.palErr.foldl (fun y e => (y.readSeg e.1).2.2) x

/-- q's Palette and accumulators equal p's: each segment written corrected, a poisoned one with its flag (R417). -/
def Tile.copyTo (p q : Tile) : Tile := { q with pal := p.pal, acc := p.acc, palPois := p.palPois, grans := p.grans }

/-- R417: the same by the copier, which writes every segment of q whole. -/
def Tile.copiedTo (p q : Tile) : Tile := { p.copyTo q with palErr := [], writeBack := [] }

/-- COPY_COMPLETE at fc `at_`: the 32,768 rows copied are counted at the die (R466). -/
def State.copyComplete (s : State) (d r q at_ : Nat) : State :=
  let s := s.reach at_
  match s.rep.migs.find? fun x => x.die == d && x.row == r && x.q == q && x.copied.isNone with
  | none => s
  | some x =>
    let migs := s.rep.migs.map fun y => if y = x then { y with copied := some at_ } else y
    let s := ({ s with rep := { s.rep with migs := migs } }.dieEvent d 0x4D 32768).onTileLow (physOf d r x.p) TW.copyReads
    s.mapTile (physOf d r q) fun t => (s.tile (physOf d r x.p)).copiedTo t

/-- R418: whether a tile has no stream, fabric or sync operation outstanding. -/
def Tile.quiet (t : Tile) : Bool := t.stream.isEmpty && t.fabric.isEmpty && t.sync.isEmpty

/-- The state that a switch moves to q, and what stays at p: its memories. -/
def Tile.moveTo (p q : Tile) : Tile :=
  { p.copyTo q with
    run := p.run, sregs := p.sregs, tags := p.tags, preds := p.preds, pc := p.pc, loops := p.loops, pend := p.pend,
    tokPend := p.tokPend, tokStat := p.tokStat, tokAt := p.tokAt, fetch := p.fetch, cyc := p.cyc, issued := p.issued,
    qwait := p.qwait, claims := p.claims, mulC := p.mulC, glzC := p.glzC, mulBar := p.mulBar, mulLast := p.mulLast, marked := p.marked, glzW := p.glzW, late := p.late, started := p.started, released := p.released,
    tickRel := p.tickRel, arrived := p.arrived, xlen := p.xlen, phaseLen := p.phaseLen, inPhase := p.inPhase,
    slipped := p.slipped, winLo := p.winLo, winHi := p.winHi, winEn := p.winEn, model := p.model, pen := p.pen,
    nextId := p.nextId, muller := p.muller, glaze := p.glaze, stream := p.stream, fabric := p.fabric, exch := p.exch,
    sync := p.sync, mul := p.mul, mulToken := p.mulToken, glz := p.glz, glzRead := p.glzRead, glzToken := p.glzToken,
    regs := p.regs, stores := p.stores, partNext := p.partNext, rxBytes := p.rxBytes, penSoon := p.penSoon,
    hazards := p.hazards, gesso := p.gesso, vrnRows := p.vrnRows, vrnAt := p.vrnAt, vrnTorn := p.vrnTorn,
    leaving := p.leaving, edge := p.edge, edgeC := p.edgeC, edgeDone := p.edgeDone }

def Tile.husk (p : Tile) : Tile :=
  { Tile.fresh with cyc := p.cyc, pal := p.pal, palPois := p.palPois, palErr := p.palErr, acc := p.acc,
                    writeBack := p.writeBack, patrolRow := p.patrolRow, patrolAt := p.patrolAt, gesso := p.gesso }

/-- A tile after a structural scan, which leaves its memories zero (R424). -/
def Tile.scanned (t : Tile) : Tile :=
  { t with pal := [], palPois := [], palErr := [], writeBack := [], acc := [], grans := [] }

def State.dropMig (s : State) (x : Mig) : State := { s with rep := { s.rep with migs := s.rep.migs.erase x } }

/-! The rolling scan (R425, R426). -/

/-- The spares of a row that are bound to no retired tile. -/
def State.looseSpares (s : State) (d r : Nat) : Nat :=
  let m := s.mapNext d r
  ([32, 33].filter fun q => !mapRetired m q && !((subAt m 0).v && (subAt m 0).phys == q && !(subAt m 0).scan) &&
    !((subAt m 1).v && (subAt m 1).phys == q && !(subAt m 1).scan)).length

/-- What becomes of the next column: nothing is scanned, it is scanned, or it must be covered first. -/
def State.scanPlan (s : State) (d r col : Nat) : Option ScanCol :=
  let m := s.mapNext d r
  if mapRetired m col then none
  else if 32 ≤ col then (if s.spareFree d r col then some ⟨col, false, false, 0⟩ else none)
  else if mapServes m col = col && (s.rowHolds d r).isSome then some ⟨col, true, true, 0⟩
  else some ⟨col, false, false, 0⟩

/-- Columns go under scan while the row's spares allow it; the row ends with its last one. -/
def State.scanAdvance (s : State) (d at_ : Nat) : Nat → State
  | 0 => s
  | n + 1 =>
    let r := s.scanRow d
    let x := s.scanOf d
    match x.todo with
    | [] =>
      if !x.cur.isEmpty then s else
      let s := (s.setScan d { x with next := (r + 1) % 48, ended := at_ }).put (F.REP_SCAN_STATUS.active d) 0
      if r = 47 then s.put (F.REP_SCAN_STATUS.passes d) ((s.get (F.REP_SCAN_STATUS.passes d) + 1) % 2 ^ 32) else s
    | col :: rest =>
      if min 2 (s.looseSpares d r) ≤ x.cur.length then s else
      let s1 := s.setScan d { x with todo := rest }
      match s.scanPlan d r col with
      | none => s1.scanAdvance d at_ n
      | some y =>
        let s2 := s1.setScan d { x with todo := rest, cur := x.cur ++ [y] }
        (if y.waits then (s2.want (Mig.request d r 1 col col)).yieldAudit d r else s2).scanAdvance d at_ n

/-- R127: until stage 4 ends, Gesso of all tiles is to come or runs. -/
def State.erasing (s : State) : Bool := decide (s.get F.MOD_STATE.stage < 5)

/-- ROLLING_SCAN_ROW at fc `at_`: a row is skipped that has no spare free of the scan's own precedence (R25), and waited for
under Gesso (R129). -/
def State.scanNextRow (s : State) (d at_ : Nat) : State :=
  let s := s.reach at_
  let x := s.scanOf d
  let r := x.next
  if s.get (F.REP_SCAN_CTL.en d) = 0 || s.get (F.REP_SCAN_STATUS.active d) = 1 ||
      at_ < x.ended + fcMs (s.get (F.REP_SCAN_CTL.gap_ms d)) || s.rowGesso d r || s.erasing then s
  else
    let s := (s.put (F.REP_SCAN_STATUS.row d) r).put (F.REP_SCAN_STATUS.active d) 1
    let todo := if [32, 33].any fun q => s.spareFree d r q || s.auditing d r q then (List.range 34).filter fun c => !mapRetired (s.mapNext d r) c else []
    (s.setScan d { x with todo := todo, cur := [] }).scanAdvance d at_ 40

/-- A column leaves the scan; one whose logical tile is on a spare gets it back. -/
def State.scanLeave (s : State) (d r col at_ : Nat) (back : Bool) : State :=
  let x := s.scanOf d
  let s := s.setScan d { x with cur := x.cur.filter fun y => y.col != col }
  let m := s.mapNext d r
  let s := if back && mapServes m col ≠ col && col < 32 then s.want (Mig.request d r 2 (mapServes m col) col) else s
  s.scanAdvance d at_ 40

/-- A cover that holds a spare for the scan is cut short (R431). -/
def State.cutScan (s : State) (d r : Nat) : State :=
  match (s.scanOf d).cur.find? fun y => y.covered && !y.waits with
  | some y => if s.scanRow d = r && s.get (F.REP_SCAN_STATUS.active d) = 1 then
      (s.mapTile (physOf d r y.col) Tile.scanned).scanLeave d r y.col s.now true else s
  | none => s

/-! Retirement (R427, R428). -/

def State.inFlash (s : State) (d r col : Nat) : Bool :=
  s.rep.vol.any fun x => x.die == d && x.row == r && x.col == col

/-- A retired column's map change is staged. -/
def State.retireMap (s : State) (d r col : Nat) (spare : Option Nat) : State :=
  let m := s.mapNext d r
  match mapLogOf m col, spare with
  | none, _ => s.stageMap d r (mapRetire m col true)
  | some l, some q => s.stageMap d r (mapRetire (mapCover m l q false) col true)
  | some _, none => (s.stageMap d r (mapRetire m col true)).sendFail (dieErrc d 0x30)

/-- Whether every spare of a row is retired or replaces a retired tile. -/
def State.noSpareLeft (s : State) (d r : Nat) : Bool := s.looseSpares d r == 0

/-- Retirements that wait for more spares than are free claim them from the lower purposes (R25, R423, R431). -/
def State.claimSpare (s : State) (d r : Nat) : State :=
  let audits := if (s.audit d r).phase ≠ 0 then 1 else 0
  let s1 := s.yieldAudit d r
  if s.freeSpares d r + audits < s.spareWants d r 0 then s1.cutScan d r else s1

/-- A column is retired, provisionally or not: into flash first, then onto a spare. -/
def State.retire (s : State) (d r col : Nat) (prov : Bool) : State :=
  if s.inFlash d r col || mapRetired (s.mapNext d r) col then s else
  let s := { s with rep := { s.rep with vol := s.rep.vol ++ [Retired.mk d r col prov] } }.errc (dieErrc d 0x30) 1
  let m := s.mapNext d r
  let idle := (s.rowHolds d r).isNone || prov
  match mapLogOf m col with
  | none => s.retireMap d r col none
  | some l =>
    if s.noSpareLeft d r then s.retireMap d r col none
    else if idle then (match s.freeSpare d r with
      | some q => s.retireMap d r col (some q)
      | none => (s.want (Mig.request d r 0 col l)).claimSpare d r)
    else (s.want (Mig.request d r 0 col l)).claimSpare d r

/-- REP_COMMIT.unfused: retirements in effect and not fused. -/
def State.unfused (s : State) (d : Nat) : List Retired :=
  s.rep.vol.filter fun x => x.die == d && mapRetired (s.tmap d x.row) x.col
def State.showUnfused (s : State) (d : Nat) : State :=
  s.put (F.REP_COMMIT.unfused d) (min 255 (s.unfused d).length)

/-! Switches (R418). -/

def State.switchMig (s : State) (x : Mig) : State :=
  let p := physOf x.die x.row x.p
  let q := physOf x.die x.row x.q
  let s := s.applyMap x.die x.row (x.map (s.mapNext x.die x.row))
  let a := s.tile p
  let s := ((s.setTile q (a.moveTo (s.tile q))).setTile p a.husk).errc (dieErrc x.die 0x31) 1
  let edge := s.fab.edge.map fun j => if j.1 = p then (q, j.2) else j
  let s := { s with fab := { s.fab with edge := edge } }
  let s := s.showUnfused x.die
  if x.purpose = 1 then
    let y := s.scanOf x.die
    s.setScan x.die { y with cur := y.cur.map fun z => if z.col = x.p then { z with waits := false } else z }
  else s

/-- A migration that qualifies switches; an audit begins its shadow run. -/
def State.endMig (s : State) (x : Mig) : State :=
  let s := s.dropMig x
  if x.purpose = 3 then s.setAudit x.die x.row { s.audit x.die x.row with phase := 2 } else s.switchMig x

/-- R418, at the release of a group that the rows of a mask hold: audits whose spare is claimed end, then each copied
migration switches or is passed by. `fit` says whether its tile qualifies. -/
def State.migsAt (s : State) (d rows : Nat) (fit : Mig → Tile → Bool) : State :=
  let s := ((rowsIn rows).filter fun r => (s.audit d r).release).foldl (fun s r =>
    let a := s.audit d r
    s.endAudits (physOf d r (s.servingCol d r a.target))) s
  let l := s.rep.migs.filter fun x => x.die == d && rows.testBit x.row && x.copied.isSome
  l.foldl (fun s x => if fit x (s.tile (physOf d x.row x.p)) then s.endMig x else s.errc (dieErrc d 0x32) 1) s

/-- When a tile issues BAR or END, the migrations of its die take the test of R418 anew: the last issue decides. -/
def State.qualify (s : State) (d : Nat) : State :=
  let migs := s.rep.migs.map fun x =>
    if x.die = d then
      let t := s.tile (physOf d x.row x.p)
      { x with ok := decide (t.run = .atBarrier) && t.quiet }
    else x
  { s with rep := { s.rep with migs := migs } }

/-- MIGRATION_TIMEOUT: one that has not switched within 1 s of its copy is abandoned (R419). -/
def State.migrationTimeout (s : State) (d r q at_ : Nat) : State :=
  let s := s.reach at_
  match s.rep.migs.find? fun x => x.die == d && x.row == r && x.q == q &&
      (match x.copied with
       | some c => decide (c + fcMs 1000 ≤ at_)
       | none => false) with
  | none => s
  | some x =>
    let s := (s.dropMig x).errc (dieErrc d 0x32) 1
    match x.purpose with
    | 0 => { s with rep := { s.rep with deferred := s.rep.deferred ++ [x] } }
    | 1 => s.scanLeave d r x.p at_ false
    | 2 => s.want (Mig.request d r 2 x.p x.log)
    | _ => s.endAudits (physOf d r x.p)

/-! Audits (R420-R423). -/

def State.suspected (s : State) (p : Nat) : Bool := s.rep.susp.any fun q => q.1 == p

/-- Whether a tile is running in a context. -/
def Tile.active (t : Tile) : Bool := match t.run with
  | .running => true
  | .atBarrier => true
  | .atTickwait => true
  | _ => false

/-- The next target of a row after logical column `l`. -/
def State.nextTarget (s : State) (d r l : Nat) : Option Nat :=
  ((List.range 32).map fun k => (l + 1 + k) % 32).find? fun k =>
    (s.rowHolds d r).isSome && (s.tile (physOf d r (s.servingCol d r k))).active

/-- An audit migration of a target onto a spare. -/
def State.beginAudit (s : State) (d r l spare : Nat) (first : Option Nat) : State :=
  let a := s.audit d r
  (s.setAudit d r { a with target := l, phase := 1, spare := spare, first := first, release := false }).startMig
    ⟨d, r, 3, s.servingCol d r l, spare, l, none, false⟩

/-- AUDIT_START at fc `at_`. -/
def State.auditStart (s : State) (d r at_ : Nat) : State :=
  let s := s.reach at_
  let a := s.audit d r
  if s.get (F.REP_AUD_CTL.en d) = 0 || a.phase ≠ 0 || at_ < a.ended + fcMs (s.get (F.REP_AUD_CTL.gap_ms d)) then s
  else
    let spare := if s.freeSpares d r ≤ s.spareWants d r 1 then none
      else [32, 33].find? fun q => s.spareFree d r q && !s.suspected (physOf d r q)
    match spare, s.nextTarget d r a.target with
    | some q, some l => s.beginAudit d r l q none
    | _, _ => s

def State.logAudit (s : State) (d r target spare verdict : Nat) : State :=
  ((((s.put (F.REP_AUD_LOG.row d) r).put (F.REP_AUD_LOG.target d) target).put (F.REP_AUD_LOG.spare d) spare).put
    (F.REP_AUD_LOG.verdict d) verdict).put (F.REP_AUD_LOG.valid d) 1

/-- R422: the audited phase ends and the digests are compared. The faults that make them differ are no part of the
model, so whether they do is a free value. -/
def State.auditCompare (s : State) (p : Nat) : State :=
  let d := physDie p
  let r := physRow p
  let a := s.audit d r
  if a.phase ≠ 2 || s.servingCol d r a.target ≠ physCol p then s else
  let (w, s) := s.fresh64
  let differ := w.getLsbD 0
  let s := s.errc (dieErrc d (if differ then 0x2A else 0x29)) 1
  let s := s.mapTile (physOf d r a.spare) fun t => (s.tile p).copyTo t
  let done (s : State) : State :=
    s.setAudit d r { a with phase := 0, first := none, release := false, ended := s.now }
  match a.first, differ with
  | none, false => done s
  | none, true =>
    let other := if a.spare = 32 then 33 else 32
    let s := s.setAudit d r { a with phase := 0 }
    s.beginAudit d r a.target (if s.spareFree d r other && !s.suspected (physOf d r other) then other else a.spare)
      (some a.spare)
  | some f, true =>
    if f = a.spare then ((((done s).logAudit d r (physCol p) f 3).suspect p 2).suspect (physOf d r f) 3)
    else ((done s).logAudit d r (physCol p) f 1).suspect p 2
  | some f, false =>
    if f = a.spare then (done s).logAudit d r (physCol p) f 0
    else ((done s).logAudit d r (physCol p) f 2).suspect (physOf d r f) 3

/-! Scan results (R426, R427). -/

/-- The column's Cover substitution becomes its replacement. -/
def State.coverStands (s : State) (d r col : Nat) : State :=
  let m := s.mapNext d r
  let s := if s.inFlash d r col then s
    else { s with rep := { s.rep with vol := s.rep.vol ++ [Retired.mk d r col false] } }.errc (dieErrc d 0x30) 1
  s.stageMap d r (mapRetire (mapCover m col (mapServes m col) false) col true)

/-- A result of the scan of a provisionally retired tile: two failures confirm it, a pass lifts it. -/
def State.provResult (s : State) (p : Nat) (pass : Bool) : State :=
  let d := physDie p
  let r := physRow p
  let col := physCol p
  let fails : Nat := ((s.rep.prov.find? fun q => q.1 == p).map fun q => q.2).getD 0
  let prov := s.rep.prov.filter fun q => q.1 != p
  let mine (x : Retired) : Bool := x.die == d && x.row == r && x.col == col
  if pass then
    let s := { s with rep := { s.rep with prov := prov, vol := s.rep.vol.filter fun x => !mine x } }
    (s.errc (dieErrc d 0x2C) 1).stageMap d r (mapRetire (s.mapNext d r) col false)
  else if fails = 0 then
    { s with rep := { s.rep with prov := prov ++ [(p, 1)] } }.errc (dieErrc d 0x2D) 1
  else
    let vol := s.rep.vol.map fun x => if mine x then { x with prov := false } else x
    { s with rep := { s.rep with prov := prov, vol := vol } }.errc (dieErrc d 0x2D) 1

/-- A result of a column under rolling scan. -/
def State.rollingResult (s : State) (d r : Nat) (y : ScanCol) (pass : Bool) (at_ : Nat) : State :=
  let p := physOf d r y.col
  let s := s.mapTile p Tile.scanned
  if pass then
    let s := s.errc (dieErrc d 0x2C) 1
    let s := if y.fails = 0 then s else (s.errc (dieErrc d 0x2E) 1).suspect p 5
    s.scanLeave d r y.col at_ true
  else
    let s := s.errc (dieErrc d 0x2D) 1
    if y.fails = 0 then
      let x := s.scanOf d
      s.setScan d { x with cur := x.cur.map fun z => if z.col = y.col then { z with fails := 1 } else z }
    else if s.get F.REP_POLICY.auto_retire = 1 then
      (if mapServes (s.mapNext d r) y.col ≠ y.col && y.col < 32 then (s.coverStands d r y.col).scanLeave d r y.col at_ false
       else (s.scanLeave d r y.col at_ false).retire d r y.col false)
    else s.scanLeave d r y.col at_ true

/-- SCAN_RESULT of physical column `col` of a row. -/
def State.scanResult (s : State) (d r col : Nat) (pass : Bool) (at_ : Nat) : State :=
  let s := s.reach at_
  let p := physOf d r col
  let provisional := s.rep.vol.any fun x => x.die == d && x.row == r && x.col == col && x.prov
  match (s.scanOf d).cur.find? fun y => y.col == col && !y.waits with
  | some y => if s.scanRow d = r && s.get (F.REP_SCAN_STATUS.active d) = 1 then (s.rollingResult d r y pass at_).showUnfused d
      else s
  | none => if provisional && !(s.tile p).gesso then ((s.mapTile p Tile.scanned).provResult p pass).showUnfused d else s

/-! Suspicions (R415, R427, R431). -/

/-- Easel firmware takes a suspect event of codes 1 to 5. -/
def State.takeSuspect (s : State) (p at_ : Nat) : State :=
  let d := physDie p
  let r := physRow p
  let retire (s : State) : State := if s.get F.REP_POLICY.auto_retire = 1 then s.retire d r (physCol p) false else s
  if s.inFlash d r (physCol p) then s
  else if s.suspected p then retire s
  else
    let until_ := at_ + fcMs (1000 * s.get F.REP_POLICY.persist_s)
    let s := { s with rep := { s.rep with susp := s.rep.susp ++ [(p, until_)] } }
    match s.marginStep d with
    | some s => s
    | none => retire s

/-- SUSPECT_EVENT: the oldest event of a die that Easel firmware acts on; with auto_margin 0 only tile faults are. -/
def State.suspectEvent (s : State) (d at_ : Nat) : State :=
  let s := s.reach at_
  let auto := s.get F.REP_POLICY.auto_margin == 1
  match s.rep.suspects.find? fun q => q.1 == d && (auto || q.2.2 == 6) with
  | none => s
  | some q =>
    let s := { s with rep := { s.rep with suspects := s.rep.suspects.erase q } }
    (if q.2.2 = 6 then s.retire d (physRow q.2.1) (physCol q.2.1) true else s.takeSuspect q.2.1 at_).showUnfused d

/-- SUSPICION_EXPIRY: the suspicions of a die that have expired close. -/
def State.suspicionExpiry (s : State) (d at_ : Nat) : State :=
  let s := s.reach at_
  { s with rep := { s.rep with susp := s.rep.susp.filter fun q => physDie q.1 != d || decide (at_ < q.2) } }

/-! Repair commits (R429). -/

def fuseWords (l : List Retired) : Nat :=
  (l.zipIdx.map fun q => (q.1.row * 64 + q.1.col) * 2 ^ (12 * q.2)).sum

/-- REP_COMMIT_GO. -/
def State.commitGo (s : State) (d : Nat) : State :=
  if s.locked 2 then s.lockViolation else
  let l := (s.unfused d).filter fun x => !x.prov &&
    !(s.rep.migs.any fun y => y.die == d && y.row == x.row && y.p == x.col && y.purpose == 0)
  if s.get (F.REP_COMMIT.busy d) = 1 || l.isEmpty || 8 ≤ s.get (F.REP_COMMIT.used d) then s.put (F.REP_COMMIT.reject d) 1
  else { s with rep := { s.rep with commit := SMap.put s.rep.commit d (l.take 16) [] } }.put (F.REP_COMMIT.busy d) 1

/-- FUSE_PROGRAM_COMPLETE: the slot is programmed and read back. -/
def State.fuseProgrammed (s : State) (d : Nat) (good : Bool) : State :=
  if s.get (F.REP_COMMIT.busy d) = 0 then s else
  let l := SMap.getD s.rep.commit d []
  let k := s.get (F.REP_COMMIT.used d)
  let v := fuseWords l
  let s := (List.range 3).foldl (fun s w => s.put (F.REP_FUSE_E.entries d k w) (v / 2 ^ (64 * w) % 2 ^ 64)) s
  let s := (s.put (F.REP_FUSE_3.count d k) l.length).put (F.REP_FUSE_3.programmed d k) good.toNat
  let s := (s.put (F.REP_COMMIT.used d) (k + 1)).put (F.REP_COMMIT.busy d) 0
  let s := { s with rep := { s.rep with commit := SMap.put s.rep.commit d [] [] } }
  let s := if good then { s with rep := { s.rep with vol := s.rep.vol.filter fun x => !l.contains x } }
    else (s.put (F.REP_COMMIT.fail d) 1).errc 6 1
  s.showUnfused d

/-! REP_ROW (R432). -/

/-- What a spare of a row does, and for which logical column. -/
def State.spareUse (s : State) (d r q : Nat) : Nat × Nat :=
  let m := s.tmap d r
  let l := (mapLogOf m q).getD 0
  let scan := ((subAt m 0).phys == q && (subAt m 0).scan) || ((subAt m 1).phys == q && (subAt m 1).scan)
  if mapRetired m q then (6, 0)
  else if s.underScan d r q then (5, 0)
  else if s.auditing d r q then (4, (s.audit d r).target)
  else match s.rep.migs.find? fun x => x.die == d && x.row == r && x.q == q with
    | some x => (2, x.log)
    | none => if (mapLogOf m q).isNone then (0, 0) else if scan then (3, l) else (1, l)

def State.repRow (s : State) (d r : Nat) : Nat :=
  let (u, l) := s.spareUse d r 32
  let (v, k) := s.spareUse d r 33
  u + 16 * l + 2 ^ 16 * v + 2 ^ 20 * k

/-! Bridges (R286). -/

/-- BUNDLE_GROUP_FAILURE: a bundle group of bridge `b` (0 W-C0, 1 C0-C1, 2 C1-C2, 3 C2-C3, 4 C3-E) has asked for the replay of
one flit eight times in a row, and the module has failed. Each request of a bridge that a fabric die ends counts there. The
failure of another bridge is reported with the counter of the nearer fabric die, W of the middle one (DESIGN CHOICE, notes/assumptions/114: it has
no ERRC index of its own). -/
def State.bundleFailure (s : State) (b : Nat) : State :=
  let f := if b ≤ 2 then 0 else 1
  (if b = 0 || b = 4 then s.errc (fabErrc f 0x19) 8 else s).sendFail (fabErrc f 0x19)

end Sys2Proof.Machine
end

