-- ==== Sys2Proof/Machine/TickBase.lean ====
section
/-! DEFINITION. The tick logic's shared operations (R39-R61): readiness, messages, the hold set, emission, roles and
claims. -/

namespace Sys2Proof.Machine

/-! Readiness (R40, R544). -/

/-- Whether a tile counts as having issued tick-wait (R39, R76). -/
def Tile.waiting (t : Tile) : Bool := match t.run with
  | .atTickwait => true
  | .ended => true
  | _ => false

/-- R40: every member of a context's groups has issued tick-wait. -/
def State.ctxWaits (s : State) (c : Nat) : Bool := (s.allMembers c).all fun q => (s.tile q.2).waiting

/-- Whether a context's bind is in effect. -/
def State.isBound (s : State) (c : Nat) : Bool := s.tick.bindNow.getLsbD c

def State.readySeen (s : State) (c : Nat) : Bool := (s.get F.TICK_CTX_READY.ready).testBit c

/-- A bound context is ready once the fabric clock has seen its tick-waits (R544); one without tiles always is. -/
def State.ctxReady (s : State) (c : Nat) : Bool :=
  s.isBound c && ((s.allMembers c).isEmpty || (s.readySeen c && s.ctxWaits c))

def State.moduleReady (s : State) : Bool := (List.range 64).all fun c => !s.isBound c || s.ctxReady c

def maskOf (p : Nat → Bool) : Nat := ((List.range 64).filter p).foldl (fun m c => m + 2 ^ c) 0

def State.showReady (s : State) (m : Nat) : State :=
  let s := s.put F.TICK_CTX_READY.ready m
  s.put F.TICK_STATUS.ready s.moduleReady.toNat

/-- The readiness of every bound context as the tiles show it. -/
def State.refreshReady (s : State) : State := s.showReady (maskOf fun c => s.isBound c && s.ctxWaits c)

/-- Readiness that has gone: a context that is no longer bound, or whose tiles run. -/
def State.loseReady (s : State) : State := s.showReady (maskOf s.ctxReady)

/-! Messages (R44). -/

def State.isMaster (s : State) : Bool := s.get F.TICK_ROLE.role_now == 2
def State.isStandby (s : State) : Bool := s.get F.TICK_ROLE.role_now == 1

/-- The master that a message of this module names. -/
def State.masterNode (s : State) : Nat := if s.isMaster then s.node else s.get F.TICK_PEERS.master_id

/-- The standby: the one a master has recorded, or the one the last tick named. -/
def State.standbyNode (s : State) : Option Nat :=
  if s.isMaster then s.tick.claimFrom
  else if s.get F.TICK_PEERS.standby_valid = 1 then some (s.get F.TICK_PEERS.standby_id) else none

structure TickMsg where
  kind : Nat
  run : Nat := 0
  number : Nat := 0
  period : Nat := 0
  limit : Nat := 0
  stamp : Nat := 0

/-- The body of a message, bytes 0 to 27. Only TICK, HEARTBEAT and TAKEOVER carry a run flag, a period or a limit other than
0 (DESIGN CHOICE, notes/assumptions/115: R44 does not say what the others carry). -/
def State.tickBody (s : State) (m : TickMsg) : Nat :=
  let sb := match s.standbyNode with
    | some n => n + 2 ^ 15
    | none => 0
  m.kind + m.run * 2 ^ 8 + s.masterNode * 2 ^ 16 + sb * 2 ^ 32 + s.node * 2 ^ 48 + m.number * 2 ^ 64 +
    m.period * 2 ^ 128 + m.limit * 2 ^ 160 + m.stamp * 2 ^ 192

def State.tickFlit (s : State) (m : TickMsg) (dst bc tree : Nat) : Flit :=
  Hdr.flit { kind := 7, vc := 3, bc := bc, tree := tree, dst := dst, src := s.node } (s.tickBody m)

def State.tickTo (s : State) (m : TickMsg) (dst : Nat) : State := s.inject 0 (s.tickFlit m dst 0 0)
def State.tickAll (s : State) (m : TickMsg) (tree : Nat) : State := s.inject 0 (s.tickFlit m 0 1 tree)
/-- A broadcast of which the module takes its own copy (R275). -/
def State.tickAllOwn (s : State) (m : TickMsg) (tree : Nat) : State :=
  (s.tickAll m tree).toInbox none (s.tickFlit m 0 1 tree)

/-- To the master and the standby, of which this module may be one. -/
def State.toMasters (s : State) (m : TickMsg) : State :=
  let l := (if s.isMaster then [s.node] else if s.get F.TICK_PEERS.master_valid = 1 then [s.masterNode] else []) ++
    (match s.standbyNode with
     | some n => [n]
     | none => [])
  l.eraseDups.foldl (fun s n => s.tickTo m n) s

def Flit.tKind (x : Flit) : Nat := x.bytes 0 1
def Flit.tRun (x : Flit) : Nat := x.bytes 1 1 % 2
def Flit.tMaster (x : Flit) : Nat := x.bytes 2 2 % 2 ^ 14
def Flit.tStandby (x : Flit) : Nat := x.bytes 4 2 % 2 ^ 14
def Flit.tStandbyV (x : Flit) : Bool := x.bytes 4 2 / 2 ^ 15 == 1
def Flit.tOrigin (x : Flit) : Nat := x.bytes 6 2 % 2 ^ 14
def Flit.tNumber (x : Flit) : Nat := x.bytes 8 8
def Flit.tPeriod (x : Flit) : Nat := x.bytes 16 4
def Flit.tLimit (x : Flit) : Nat := x.bytes 20 4
def Flit.tStamp (x : Flit) : Nat := x.bytes 24 4

/-- The first tick-protocol message of a kind in the inbox. -/
def State.popTick (s : State) (k : Nat) : Option (Flit × State) := s.pop fun x => x.kind == 7 && x.tKind == k

/-! The hold set (R48). -/

def holdF (n : Nat) : RF := ⟨(F.TICK_HOLDSET.held (n / 64)).addr, n % 64, 1⟩
def State.setHold (s : State) (n : Nat) (v : Bool) : State := s.put (holdF n) v.toNat
def State.holdsEmpty (s : State) : Bool := s.regs.all fun q => q.1 < 0x10100 || decide (0x10900 ≤ q.1)
def State.clearHolds (s : State) : State := { s with regs := SMap.clear s.regs 0x10100 0x10900 }

/-! Emission (R45, R49, R56). -/

def State.mapTick (s : State) (g : TickSt → TickSt) : State := { s with tick := g s.tick }

/-- S(n + 1), and the hold limit H. -/
def State.scheduled (s : State) : Nat := s.tick.emitted + s.tick.ePeriod
def State.holdLimit (s : State) : Nat := if s.tick.eLimit = 0 then s.tick.ePeriod else s.tick.eLimit

/-- A tick number is known to have been emitted. -/
def noteTick (n : Nat) : List (Nat × Nat) → List (Nat × Nat)
  | [] => [(n, n + 1)]
  | q :: l =>
    if q.1 ≤ n && decide (n < q.2) then q :: l else if n = q.2 then (q.1, n + 1) :: l else q :: noteTick n l

def TickSt.emittedTick (t : TickSt) (n : Nat) : Bool := t.known.any fun q => decide (q.1 ≤ n) && decide (n < q.2)

/-- The master emits the tick in TICK_NEXT. -/
def State.emitTick (s : State) (at_ : Nat) : State :=
  let n := s.get F.TICK_NEXT.next
  let p := s.get F.TICK_PERIOD.period_set
  let l := s.get F.TICK_HOLD_LIMIT.limit_set
  let s := if s.tick.delayed then s.add F.TICK_CNT_DELAY_FC.count (at_ - s.scheduled) else s
  let s := (s.put F.TICK_NEXT.next (n + 1)).put F.TICK_STATUS.stopped 0
  let s := s.clearHolds.mapTick fun t =>
    { t with emitted := at_, ePeriod := p, eLimit := l, delayed := false, frozen := false, halted := false, lastOut := n,
             known := noteTick n t.known,
             stopPending := s.get F.TICK_CTRL.run = 0 }
  s.tickAllOwn { kind := 1, run := s.get F.TICK_CTRL.run, number := n, period := p, limit := l } s.tick.tree

/-- The master emits RECOVER for the next tick number (R49, R50). -/
def State.emitRecover (s : State) : State :=
  if s.tick.halted then s else
  let s := s.mapTick fun t => { t with delayed := false, frozen := true, halted := true }
  s.tickAllOwn { kind := 8, number := s.get F.TICK_NEXT.next } s.tick.tree

/-- Emission is stopped (R56). -/
def State.stopEmission (s : State) : State :=
  (s.clearHolds.put F.TICK_STATUS.stopped 1).mapTick fun t =>
    { t with delayed := false, frozen := false, halted := false, stopPending := false }

/-- A delayed tick goes once the hold set is empty, up to S(n + 1) + H. -/
def State.emitIfFree (s : State) (at_ : Nat) : State :=
  if s.isMaster && s.tick.delayed && s.holdsEmpty && decide (at_ ≤ s.scheduled + s.holdLimit) then s.emitTick at_ else s

/-- A HOLD or RELEASE of a node for a number, at the master or the standby (R48). -/
def State.holdMsg (s : State) (origin number at_ : Nat) (hold : Bool) : State :=
  if !s.isMaster && !s.isStandby then s else
  let next := if s.isMaster then s.get F.TICK_NEXT.next else s.get F.TICK_NUMBER.number + 1
  if number ≠ next then
    (if s.isMaster && s.tick.emittedTick number then s.add F.TICK_CNT_LATE_HOLD.count 1 else s)
  else if s.tick.frozen then s
  else (s.setHold origin hold).emitIfFree at_

/-! Roles and claims (R54-R58). -/

/-- The master's duties end: its fields take their reset values (R63). -/
def State.demote (s : State) : State :=
  let s := (s.put F.TICK_ROLE.role_now 0).stopEmission
  ((s.put F.TICK_NEXT.next 1).put F.TICK_STATUS.no_standby 1).mapTick fun t => { t with claimFrom := none }

def State.yieldClaim (s : State) : State := (s.mapTick fun t => { t with claim := 0 }).count F.TICK_CNT_ROLE.count 0xC 1

/-- A role is claimed; a member role needs no claim. -/
def State.claimRole (s : State) (role at_ : Nat) : State :=
  if role = 0 || role = 3 then s.mapTick fun t => { t with claim := 0 } else
  let s := s.mapTick fun t => { t with claim := role, claimAt := at_, claimFrom := none }
  if role = 2 then s.tickAll { kind := 5 } 0 else s.tickAll { kind := 6 } 1

/-- Whether every optical port that is enabled is UP. -/
def State.linksTrained (s : State) : Bool :=
  (List.range 2).all fun f => (List.range 16).all fun p =>
    s.get (F.FAB_PORT_CTL.enable f p) == 0 || s.portState f p == PortState.up

/-- R55: a module claims its role once its links are trained. -/
def State.startClaims (s : State) (at_ : Nat) : State :=
  if s.tick.trained || !s.linksTrained then s
  else (s.mapTick fun t => { t with trained := true }).claimRole (s.get F.TICK_ROLE.role_cfg) at_

/-- The claim window, the longest tick period. -/
def claimWindow : Nat := 12500000

/-- The standby that a master records. -/
def State.recordStandby (s : State) (n at_ : Nat) : State :=
  (s.put F.TICK_STATUS.no_standby 0).mapTick fun t => { t with claimFrom := some n, claimAt := at_ }

/-! Round trips (R59). -/

def State.sendPing (s : State) (at_ : Nat) : State :=
  if s.get F.TICK_PEERS.master_valid = 0 && !s.isMaster then s else
  s.tickTo { kind := 0xA, number := s.get F.TICK_NUMBER.number, stamp := at_ % 2 ^ 32 } s.masterNode

/-- The effective hold lead (R46). -/
def State.effLead (s : State) : Nat := min (s.get F.TICK_HOLD_LEAD.lead) (s.tick.period / 2)

/-- The hold in force ends at fc `at_` (R47). -/
def State.endHold (s : State) (at_ : Nat) : State :=
  (s.put F.TICK_STATUS.holding 0).add F.TICK_CNT_HOLD_FC.count (at_ - s.tick.holdAt)

/-- R41, R47: a holding module that has become ready sends RELEASE; the master applies its own without a message. -/
def State.checkRelease (s : State) (at_ : Nat) : State :=
  if s.get F.TICK_STATUS.holding = 0 || !s.moduleReady then s else
  let n := s.tick.heldFor
  let s := s.endHold at_
  if s.isMaster then s.holdMsg s.node n at_ false else s.toMasters { kind := 3, number := n }

end Sys2Proof.Machine
end

