-- ==== Sys2Proof/Machine/CtxReset.lean ====
section
/-! DEFINITION. Context resets (R126, R371, R443, R480, R481, R518): HCTX_CTL, what a reset does to every unit, and its
completion. -/

namespace Sys2Proof.Machine

/-- HCTX_STATUS.state: 0 FREE, 1 ACTIVE, 2 RESETTING, 3 PENDING_ENABLE. -/
def State.hctx (s : State) (c : Nat) : Nat := s.get (F.HCTX_STATUS.state c)

/-- A block of registers from `lo` below `hi` returns to its reset values. -/
def State.clearRegs (s : State) (lo hi : Nat) : State := { s with regs := SMap.clear s.regs lo hi }

/-! Gesso of a context (R126). -/

/-- The physical tiles that have held a context's data: those that serve it, and those that did. -/
def State.heldTiles (s : State) (c : Nat) : List Nat :=
  ((s.allMembers c).map (·.2) ++ (s.rep.held.filter fun q => q.2 == c).map (·.1)).eraseDups

/-- R129: of what waits at the fabric ports for a tile under Gesso, the WRITEs are dropped and counted there, and the reads
are abandoned with their operations. -/
def State.edgeDrop (s : State) (p : Nat) : State :=
  let mine := s.fab.edge.filter fun q => q.1 == p
  let s := { s with fab := { s.fab with edge := s.fab.edge.filter fun q => q.1 != p } }
  mine.foldl (fun s q => match q.2.2 with
    | .write x => (s.toDie (physDie p) x.flow x.vc).errc (dieErrc (physDie p) 5) 1
    | .read _ _ _ _ => s) s

def State.startGesso (s : State) (c : Nat) : State :=
  let s := (s.heldTiles c).foldl (fun s p =>
    (s.mapTile p fun t => if t.gesso then t else t.gessoStart).edgeDrop p) s
  { s with rep := { s.rep with held := s.rep.held.filter fun q => q.2 != c } }

/-! Migrations and audits (R419, R423). -/

/-- The migrations of the rows in a mask end; map changes of retirements and covers wait for the end of Gesso. -/
def State.endMigs (s : State) (d rows : Nat) : State :=
  let mine (x : Mig) : Bool := x.die == d && rows.testBit x.row
  let s := (rowsIn rows).foldl (fun s r =>
    if (s.audit d r).phase = 0 then s
    else s.endAudits (physOf d r (s.servingCol d r (s.audit d r).target))) s
  let l := (s.rep.migs ++ s.rep.wants).filter mine
  let keep := l.filter fun x => x.purpose == 0 || x.purpose == 1
  let back := (l.filter fun x => x.purpose == 2).map fun x => Mig.request x.die x.row 2 x.p x.log
  { s with rep := { s.rep with migs := s.rep.migs.filter (fun x => !mine x),
                               wants := s.rep.wants.filter (fun x => !mine x) ++ back,
                               deferred := s.rep.deferred ++ keep } }

/-- After Gesso of a row its deferred map changes are staged, with no copy. -/
def State.stageDeferred (s : State) (d r : Nat) : State :=
  if s.rowGesso d r then s else
  let mine (x : Mig) : Bool := x.die == d && x.row == r
  let l := s.rep.deferred.filter mine
  let s := { s with rep := { s.rep with deferred := s.rep.deferred.filter fun x => !mine x } }
  l.foldl (fun s x =>
    let q := if s.spareFree d r x.q then some x.q else s.freeSpare d r
    match q with
    | none => if x.purpose = 0 then s.retireMap d r x.p none else s
    | some q =>
      let s := (s.stageMap d r ({ x with q := q }.map (s.mapNext d r))).showUnfused d
      if x.purpose = 1 then
        let y := s.scanOf d
        s.setScan d { y with cur := y.cur.map fun z => if z.col = x.p then { z with waits := false } else z }
      else s) s

/-- GESSO_COMPLETE (R126, R128, R419, R443). -/
def State.gessoDone (s : State) (p : Nat) : State :=
  if !(s.tile p).gesso then s else (s.gessoComplete p).stageDeferred (physDie p) (physRow p)

/-! The loader (R443, R459). -/

/-- The context's loader on a die goes to GESSO with its rows kept; its status and fault registers are reset (R459). -/
def State.ldrReset (s : State) (d c : Nat) : State :=
  let s := ((s.put (F.LDR_CTX_STATUS.err d c) 0).put (F.LDR_CTX_STATUS.model d c) 0).put (F.LDR_CTX_STATUS.reject d c) 0
  let s := s.setWord (F.LDR_CTX_FAULT.tile d c).addr 0
  if s.ldrRows d c = 0 then s else
  let s := ((s.setLdr d c LdrCtx.fresh).setLdrState d c 1).showGesso d c
  let s := s.applyStaged d (s.ldrRows d c) fun _ => true
  if s.get (F.LDR_CTX_STATUS.gesso_rows d c) = 0 then s.setLdrState d c 3 else s

/-! The reset (R518). -/

/-- R129, R254: the transfers of a context are abandoned; they hold scrub until their issued requests have returned. -/
def State.dropXfers (s : State) (c : Nat) : State :=
  let drop (x : Xfer) : Xfer := if x.ctx = c then { x with dead := true, revoked := true } else x
  let l := s.hbm.xfers.filter fun x => x.ctx == c && !x.dead
  let hbm : HbmSt := { s.hbm with
    xfers := s.hbm.xfers.map drop,
    accepts := s.hbm.accepts.map fun w => if w.ctx = c then { w with own := none } else w }
  l.foldl (fun s x => s.showTiles x.die x.stack) { s with hbm := hbm }

/-- What a context reset does, at fc `at_` and tile cycle `cyc`. VRN_CTXc, VRN_METHc and SKB_CURc keep their values (DESIGN
CHOICE, notes/assumptions/116: 14_recovery.md does not say whether they belong to the context). -/
def State.resetEffects (s : State) (c at_ cyc : Nat) : State :=
  let s := s.reach at_
  -- R41
  let s := s.put F.TICK_CTX_BIND.bind (s.get F.TICK_CTX_BIND.bind - (s.get F.TICK_CTX_BIND.bind / 2 ^ c % 2) * 2 ^ c)
  let bit : Word := 1#64 <<< c
  let s := ((s.mapTick fun t => { t with bindNow := t.bindNow &&& ~~~ bit, ovr := t.ovr &&& ~~~ bit }).loseReady).checkRelease at_
  -- R364: a record is delivered in the cycle of its W write
  let s := (List.range s.train.records.length).foldl (fun s _ => s.watchDelivery) s
  -- R377: what a snapshot being written captures is erased
  let s := match s.writing c with
    | some k => s.tearSlot c k
    | none => s
  -- R419, R423, R126
  let s := (List.range 4).foldl (fun s d => s.endMigs d (s.ldrRows d c)) s
  let s := s.startGesso c
  -- R252
  let s := (s.dropXfers c).releaseAll c
  let s := (List.range 4).foldl (fun s d =>
    let b := 0x110000 + 0x100000 * d + 0x200 * c
    s.clearRegs b (b + 0x200)) s
  -- R278, R319; R341, R345, R347
  let s := (s.drainFlows c at_ cyc).syncReset c cyc
  -- R371, R369
  let s := (s.setMbs c MbsSt.fresh).clearRegs (mbsBase c) (mbsBase c + 0x80)
  let s := (s.clearRegs (wchBase c) (wchBase c + 0x18)).exportsEnd c 4 0
  -- R464, R504
  let s := s.clearRegs (0x40000 + 8 * c) (0x40000 + 8 * c + 8)
  let s := { s with vf := SMap.clear s.vf (0x1000 * c) (0x1000 * c + 0x1000) }
  (List.range 4).foldl (fun s d => s.ldrReset d c) s

/-- Whether the reset of a context in RESETTING ends in FREE. -/
def State.setFree (s : State) (c : Nat) (v : Bool) : State :=
  let l := s.host.toFree.filter (· != c)
  { s with host := { s.host with toFree := if v then l ++ [c] else l } }

/-- A context reset begins (R480): an ACTIVE context enters RESETTING. -/
def State.ctxReset (s : State) (c at_ cyc : Nat) (free : Bool) : State :=
  if s.hctx c ≠ 1 then s else
  let s := (s.put (F.HCTX_STATUS.state c) 2).put (F.HCTX_STATUS.resets c) ((s.get (F.HCTX_STATUS.resets c) + 1) % 2 ^ 32)
  (s.setFree c free).resetEffects c at_ cyc

/-- A link event resets the contexts in ACTIVE; those in PENDING_ENABLE are resetting already (R475). All end in FREE,
as HCTX_CTL is at its reset value. -/
def State.resetAll (s : State) (at_ cyc : Nat) : State :=
  (List.range 64).foldl (fun s c => match s.hctx c with
    | 1 => s.ctxReset c at_ cyc true
    | 2 => s.setFree c true
    | 3 => (s.setFree c true).put (F.HCTX_STATUS.state c) 2
    | _ => s) s

/-- The fields of HCTX_CTL beside reset. -/
def State.hctxVec (s : State) (c : Nat) (v : Word) : State :=
  ((s.put (F.HCTX_CTL.enable c) (v.field 0 1)).put (F.HCTX_CTL.vec c) (v.field 2 11)).put (F.HCTX_CTL.msix_en c)
    (v.field 13 1)

/-- HCTX_ENABLE: a write of enable 1. -/
def State.hctxEnable (s : State) (c : Nat) (v : Word) : State :=
  let s := s.hctxVec c v
  match s.hctx c with
  | 0 => s.put (F.HCTX_STATUS.state c) 1
  | 2 => s.put (F.HCTX_STATUS.state c) 3
  | _ => s

/-- HCTX_DISABLE: a write of enable 0. -/
def State.hctxDisable (s : State) (c : Nat) (v : Word) (at_ cyc : Nat) : State :=
  let s := s.hctxVec c v
  match s.hctx c with
  | 1 => s.ctxReset c at_ cyc true
  | 3 => (s.setFree c true).put (F.HCTX_STATUS.state c) 2
  | _ => s

/-! Completion (R481). -/

/-- Whether a context's reset has completed in every unit. -/
def State.resetOver (s : State) (c : Nat) : Bool :=
  ((List.range 4).all fun d => s.get (F.LDR_CTX_STATUS.gesso_rows d c) == 0) &&
    (s.liveFlows.all fun i => s.flowCtx i != c) &&
    (s.boundCounters.all fun q => s.get (F.SYN_PCNT_W1.ctx q.1 q.2) != c) &&
    ((List.range 4).all fun d => (s.slotsOf d).all fun q => q.1 != c) &&
    s.get (F.MBS_CFG.enable c) == 0 &&
    ((List.range 4).all fun x => s.get (F.EXP_STATUS.state x) != 1 || s.get (F.EXP_CTL.ctx x) != c)

/-- CONTEXT_RESET_COMPLETE: a context that becomes FREE holds no rows (R480). -/
def State.resetComplete (s : State) (c : Nat) : State :=
  if (s.hctx c ≠ 2 && s.hctx c ≠ 3) || !s.resetOver c then s
  else
    let free := s.hctx c == 2 && s.host.toFree.contains c
    let s := (s.setFree c false).put (F.HCTX_STATUS.state c) (if free then 0 else 1)
    let s := if !free then s else (List.range 4).foldl (fun s d => if s.ldrRows d c = 0 then s else
      ((s.put (F.LDR_CTX_ROWS.rows d c) 0).setLdr d c LdrCtx.fresh).setLdrState d c 0) s
    if s.get (F.HCTX_CTL.msix_en c) = 1 then s.msix 0 (s.get (F.HCTX_CTL.vec c)) else s

end Sys2Proof.Machine
end

