-- ==== Sys2Proof/Machine/Recovery.lean ====
section
/-! DEFINITION. Recovery at a member (R372-R374, R388, R394, R396, R397, R399-R403): commands and answers, PLAN and the
restore, REWIRE, the fill at source and spare, RESUME, and the loss of a stack. -/

namespace Sys2Proof.Machine

def State.mapRcv (s : State) (g : RcvSt → RcvSt) : State := { s with rcv := g s.rcv }

def State.rcvOn (s : State) : Bool := s.get F.RCV_CTL.en == 1

/-- RCV_STATUS.state: 0 RUN, 1 FROZEN, 2 RESTORING, 3 RESTORED, 4 SPARE, 5 ASSUMING, 6 FILLING, 7 OFF. -/
def State.rcvState (s : State) : Nat := s.get F.RCV_STATUS.state

/-- The contexts that the module protects (R376). -/
def State.protected (s : State) : List Nat := (List.range 64).filter s.vrnOn

/-- RCV_EVENT (R406). -/
def State.rcvEvent (s : State) (kind node : Nat) : State :=
  ((s.put F.RCV_EVENT.kind kind).put F.RCV_EVENT.node (node % 2 ^ 14)).put F.RCV_EVENT.valid 1

/-- A write of RCV_CTL decides what the sequencer is (R406): OFF, a hot spare, or a member. -/
def State.showMember (s : State) : State :=
  if !s.rcvOn then s.put F.RCV_STATUS.state 7
  else if s.rcvState = 7 || s.rcvState = 0 || s.rcvState = 4 then
    s.put F.RCV_STATUS.state (if s.get F.RCV_CTL.spare = 1 then 4 else 0)
  else s

/-! Commands and answers (R373). -/

/-- A command under which answers are kept: its op and its context; 0 is RECOVER. -/
def cmdKey (op ctx : Nat) : Nat := op + 256 * ctx

def State.answersTo (s : State) (key gen : Nat) : Option (List Flit) :=
  (s.rcv.answers.find? fun q => q.1 == key && q.2.1 == gen).map (·.2.2)

/-- The answers to a command are kept from now on, in place of those to earlier ones. -/
def State.openAnswer (s : State) (key gen : Nat) : State :=
  s.mapRcv fun r => { r with answers := (r.answers.filter fun q => q.1 != key) ++ [(key, gen, [])] }

/-- An answer goes to the coordinator and the standby, and is kept with its command. -/
def State.reply (s : State) (key gen : Nat) (m : Ctrl) : State :=
  let xs := s.coords.map (s.ctrlFlit m)
  let s := s.mapRcv fun r => { r with answers := r.answers.map fun q =>
    if q.1 = key && q.2.1 = gen then (q.1, q.2.1, q.2.2 ++ xs) else q }
  xs.foldl (fun s x => s.inject 0 x) s

/-- A command of the coordinator: one of a lower generation is counted, a repeated one is answered again. -/
def State.onCommand (s : State) (op : Nat) (act : State → Flit → State) : State :=
  match s.popCtrl op with
  | none => s
  | some (x, s) =>
    if !s.rcvOn then s
    else if x.cGen < s.gen then s.add F.RCV_CNT_STALE.count 1
    else
      let key := cmdKey op x.cCtx
      match s.answersTo key x.cGen with
      | some xs => xs.foldl (fun s y => s.inject 0 y) s
      | none => act ((s.put F.RCV_STATUS.gen x.cGen).openAnswer key x.cGen) x

/-- What this module holds of other modules: a pair for every sender of each COMPLETE buddy slot. -/
def State.buddyPairs (s : State) (c : Nat) : List (Nat × Nat) :=
  let b := s.get (F.VRN_CTX_W2.bflow c)
  let peers := ((List.range (s.get (F.VRN_CTX_W2.nbf c))).map fun k => s.flowPeer (b + k)).eraseDups
  (([3, 4].filter fun k => s.slotState c k == 3).flatMap fun k => peers.map fun n => (n, (s.vslot c k).seq)).take 8

/-- The body of SNAPINFO: pair k at byte 32 + 8k, its node in bits [13:0], bit 15 set, its sequence number from bit 16; a
place without a pair is zero (DESIGN CHOICE, notes/assumptions/60). -/
def pairsBody (l : List (Nat × Nat)) : Nat :=
  ((l.zipIdx).map fun q => (q.1.1 + 2 ^ 15 + q.1.2 * 2 ^ 16) * 2 ^ (64 * q.2)).sum

/-- SNAPINFO of a context: W4 and W5 as the registers show them. -/
def State.snapInfo (s : State) (c : Nat) : Ctrl :=
  { op := 0x05, ctx := c, a0 := (s.word (F.VRN_CTX_W4.seq c).addr).field 0 37,
    a1 := (s.word (F.VRN_CTX_W5.seq c).addr).field 0 37, gen := s.gen, body := pairsBody (s.buddyPairs c) }

/-- A member enters FROZEN, once for a recovery (R393, R405). -/
def State.freeze (s : State) (key gen : Nat) : State :=
  if s.rcvState ≠ 0 then s
  else s.protected.foldl (fun s c => s.reply key gen (s.snapInfo c)) (s.put F.RCV_STATUS.state 1)

/-- RECOVER, at a member; the coordinator's part is in Machine/Coordinator.lean. -/
def State.recoverIn (s : State) (x : Flit) : State :=
  let s := s.put F.TICK_STATUS.recovery 1
  if !s.rcvOn then s
  else match s.answersTo (cmdKey 0 0) x.tNumber with
    | some xs => xs.foldl (fun s y => s.inject 0 y) s
    | none => ((s.mapRcv fun r => { r with number := x.tNumber }).openAnswer (cmdKey 0 0) x.tNumber).freeze (cmdKey 0 0)
        x.tNumber

/-! The restore (R399). -/

/-- Step 2: the region slots of the state section, with the bases of R394. -/
def State.restoreRegions (s : State) (c : Nat) (sec : Section) : State :=
  (sec.all Sec.region).foldl (fun s q =>
    let d := q.1 / 64
    let v : Word := BitVec.ofNat 64 q.2
    let base := ((s.rcv.bases.find? fun b => b.1 == 64 * (64 * d + c) + q.1 % 64).map (·.2)).getD (v.field 0 15)
    if v.field 39 1 = 1 then s.regionAllocate d c (q.1 % 64) (v.setField 0 15 base) else s) s

/-- The section of the local snapshot to which the plan in force returns. -/
def State.planSlot (s : State) (c : Nat) : Option Nat := match s.rcv.plan with
  | some (n, _) => s.localSlot c n
  | none => none

def State.planSection (s : State) (c : Nat) : Section := match s.planSlot c with
  | some k => (s.vslot c k).sec
  | none => []

/-- CONTEXT_RESET_COMPLETE: a context that is being restored goes on with step 2. -/
def State.resetCompleteAll (s : State) (c : Nat) : State :=
  let was := s.hctx c
  let s := s.resetComplete c
  if was ≠ s.hctx c && s.hctx c = 1 && s.rcv.restoring.contains c then s.restoreRegions c (s.planSection c) else s

/-- The module has restored every context of the plan. -/
def State.restoredAll (s : State) (key gen : Nat) : State :=
  match s.rcv.plan with
  | none => s
  | some (n, _) => if s.rcv.restoring.isEmpty then
      (s.put F.RCV_STATUS.state 3).reply key gen { op := 0x0C, a0 := n, gen := gen } else s

/-- PLAN. A spare restores once its fill commits. -/
def State.planIn (s : State) (at_ cyc : Nat) : State :=
  s.onCommand 0x06 fun s x =>
    let key := cmdKey 6 x.cCtx
    let lost := if x.cFlags % 2 = 1 then some (x.cSubject % 2 ^ 14) else none
    let s := (s.reach at_).mapRcv fun r => { r with plan := some (x.cA0, lost) }
    if 4 ≤ s.rcvState then s else
    let s := s.freeze key x.cGen
    let l := s.protected
    let s := (s.put F.RCV_STATUS.state 2).mapRcv fun r => { r with restoring := l }
    (l.foldl (fun s c => s.ctxReset c at_ cyc false) s).restoredAll key x.cGen

/-- A flow context of the state section (step 6): ACTIVE, its epochs raised by one. -/
def State.restoreFlow (s : State) (i : Nat) (w0 w3 : Word) (sec : Section) : State :=
  let v := w0.setField 16 8 ((w0.field 16 8 + 1) % 256)
  let w3 := if w0.field 4 2 = 2 then w3.setField 48 8 ((w3.field 48 8 + 1) % 256) else w3
  let s := s.setWord (w0Addr i + 24) w3
  let s := ((sec.all Sec.record).filter fun q => q.1 / 16 == i).foldl (fun s q => s.recPut i (q.1 % 16) q.2) s
  let s := ((sec.all Sec.etab).filter fun q => q.1 / 2 ^ 20 == i).foldl
    (fun s q => s.bldPut (flowDie i) (s.etabAt i (q.1 % 2 ^ 20)) 2 q.2) s
  s.flowActivate i v

/-- A counter of the state section (step 5). -/
def State.restoreCounter (s : State) (k : Nat) (w : Nat → Word) (rb : Word) : State :=
  let d := k / 4096
  let i := k % 4096
  let a := 0x120000 + 0x100000 * d + 0x20 * i
  let w0 := (w 0).setField 56 8 (((w 0).field 56 8 + 1) % 256)
  let s := (((s.setWord a w0).setWord (a + 8) (w 1)).setWord (a + 16) (w 2)).setWord (a + 24) (w 3)
  s.setCnt d i { CntSt.fresh with rb := rb }

/-- Steps 5 to 7. -/
def State.restoreState (s : State) (c : Nat) (sec : Section) : State :=
  let word (tag key : Nat) : Word := BitVec.ofNat 64 ((sec.get? tag key).getD 0)
  let s := (sec.all Sec.rb).foldl (fun s q =>
    s.restoreCounter q.1 (fun k => word Sec.counter (4 * q.1 + k)) (BitVec.ofNat 64 q.2)) s
  let s := (sec.all Sec.flow0).foldl (fun s q =>
    s.restoreFlow q.1 (BitVec.ofNat 64 q.2) (word Sec.flow3 q.1) sec) s
  let s := (sec.all Sec.mbs).foldl (fun s q => s.setWord (mbsBase c + 8 * q.1)
    (if q.1 = 0 then (BitVec.ofNat 64 q.2) &&& ~~~ 1#64 else BitVec.ofNat 64 q.2)) s
  let s := s.setMbs c { MbsSt.fresh with fwd := (sec.all Sec.fwd).map (·.2), bwd := (sec.all Sec.bwd).map (·.2),
                                         isOpen := sec.get? Sec.isOpen 0 == some 1 }
  let base := (word Sec.watchCtx 0).field 0 15
  let s := ((sec.all Sec.watch).map fun q => q.1 / 16).eraseDups.foldl (fun s e =>
    s.setEntry (base + e) ((List.range 16).map fun k => (sec.get? Sec.watch (16 * e + k)).getD 0)) s
  (s.setWord (wchBase c) (word Sec.watchCtx 0)).setWord (wchBase c + 8) (word Sec.watchCtx 1)

/-- Bytes of a captured item go back to where they were captured. -/
def State.bulkWrite (s : State) (c d : Nat) (b : Bulk) (v : Nat) (pois : List Bool) : State :=
  match b.region with
  | some k =>
    let g := s.rgn d c k
    s.hbmWriteSegs d g.stack (g.addr 0 / 16) v pois (b.n / 16)
  | none =>
    let n := segsOf b.addr b.n
    let marks := (List.range n).map fun k =>
      if b.addr % 16 = 0 then pois.getD k false else pois.getD k false || (k != 0 && pois.getD (k - 1) false)
    s.onTile b.p fun x => x.commitAll.writeRaw b.addr b.n v marks n

/-- Step 4 on a die: each item comes from its place in the local slot; in a fill by parity the method-2 regions come from
the sums formed in the first buddy slot, one after the other (R381, R397), and are kept in the local slot as well. -/
def State.restoreBulk (s : State) (c d k : Nat) (parity : Bool) (sec : Section) : State :=
  ((s.bulkAt c d sec).foldl (fun (r : State × Nat) q =>
    let (s, o) := r
    let n := q.2.room
    if parity && q.2.meth = 2 then
      let (v, b, s) := s.stageRead d (s.placeGran c 3) o n (granFuel n)
      ((s.stageWrite d (s.placeGran c k) q.1 n v b (granFuel n)).bulkWrite c d q.2 (v % 256 ^ q.2.n) b, o + n)
    else
      let (v, b, s) := s.stageRead d (s.placeGran c k) q.1 n (granFuel n)
      (s.bulkWrite c d q.2 (v % 256 ^ q.2.n) b, o)) (s, 0)).1

/-- A UNIT record of a context read back: (step, ID, phase, cursor valid, batch, position). -/
def unitRec (v : Nat) : Option (List Nat) :=
  if bytesAt v 21 1 = 1 then
    some [bytesAt v 16 5, bytesAt v 23 1, bytesAt v 22 1, bytesAt v 27 1 % 2, bytesAt v 32 8, bytesAt v 40 8]
  else none

/-- R401: STIP_BASE as the last UNIT record of step `n` or less gives it, searched backwards from record `seq`. -/
def State.lastUnit (s : State) (c n : Nat) : Nat → Nat → Option (Nat × Nat) × State
  | 0, _ => (none, s)
  | k + 1, seq =>
    if seq = 0 then (none, s) else
    match s.skbGet false c (seq - 1) with
    | (some v, s) => match unitRec v with
      | some r =>
        if r.getD 0 0 ≤ n then
          (some (if r.getD 2 0 = 3 then (n, 0xFFFF) else (r.getD 0 0, r.getD 1 0)), s)
        else s.lastUnit c n k (seq - 1)
      | none => s.lastUnit c n k (seq - 1)
    | (none, s) => s.lastUnit c n k (seq - 1)

/-- Step 8. -/
def State.restoreStip (s : State) (c n : Nat) (sec : Section) : State :=
  let (u, s) := s.lastUnit c n 262144 (s.get (F.SKB_SEQ.next c))
  (s.allMembers c).foldl (fun s q =>
    let held := BitVec.ofNat 64 ((sec.get? Sec.stip q.1).getD 0)
    match u with
    | none => s.mapTile q.2 fun t => { t with regs := rset tileReset t.regs 0x188 held }
    | some (step, id) =>
      let v := BitVec.ofNat 64 (id + step * 2 ^ 16)
      let s := s.mapTile q.2 fun t => { t with regs := rset tileReset t.regs 0x188 v }
      if v = held then s else s.count F.RCV_CNT_SKEW.count 0xF 1) s

/-- Step 9: the resume record (R400). -/
def State.resumeRecord (s : State) (c n : Nat) (lost : Option Nat) : State :=
  if s.get (F.VRN_CTX_W3.resume_v c) = 0 then s else
  let v := n + s.rcv.number * 2 ^ 64 + s.gen * 2 ^ 128 + lost.getD 0 * 2 ^ 160 +
    (1 + 2 * lost.isSome.toNat + 4 * s.rcv.shrunk.toNat) * 2 ^ 176 + s.get F.RCV_SHRINK.removed * 2 ^ 192
  (List.range 4).foldl (fun s d =>
    let g := s.rgn d c (s.get (F.VRN_CTX_W3.resume_rgn c))
    if g.active then s.hbmWrite d g.stack (g.addr 0) 64 v else s) s

/-- R403: the UNIT records after the SNAP record of the snapshot of step `n`, oldest first. -/
def State.replaySpan (s : State) (c : Nat) : Nat → Nat → List (List Nat) × State
  | 0, _ => ([], s)
  | k + 1, seq =>
    match s.skbGet false c seq with
    | (some v, s) =>
      let (l, s) := s.replaySpan c k (seq + 1)
      match unitRec v with
      | some r => (r :: l, s)
      | none => (l, s)
    | (none, s) => s.replaySpan c k (seq + 1)

/-- The record number of the latest SNAP record of step `n`, searched backwards. -/
def State.snapSeq (s : State) (c n : Nat) : Nat → Nat → Option Nat
  | 0, _ => none
  | k + 1, seq =>
    if seq = 0 then none else
    match s.skbGet false c (seq - 1) with
    | (some v, _) => if bytesAt v 21 1 = 2 && bytesAt v 48 8 = n then some (seq - 1) else s.snapSeq c n k (seq - 1)
    | (none, _) => s.snapSeq c n k (seq - 1)

def State.loadSpan (s : State) (c n : Nat) : State :=
  let next := s.get (F.SKB_SEQ.next c)
  match s.snapSeq c n 262144 next with
  | none => s.setSpan c []
  | some q =>
    let (l, s) := s.replaySpan c (next - (q + 1)) (q + 1)
    s.setSpan c l

/-- Step 3 on every die that holds rows of the context, with the captured job seed; the first error ends it. -/
def State.restoreLoad (s : State) (c cyc : Nat) (sec : Section) : State × Nat :=
  (List.range 4).foldl (fun (r : State × Nat) d =>
    if r.2 ≠ 0 || r.1.ldrRows d c = 0 then r else
    let s := r.1.put (F.LDR_CTX_CFG.seed d c) ((sec.get? Sec.seed d).getD 0)
    let (s, e) := s.loadRun d c cyc true
    (if e = 0 then s.setLdrState d c 5 else (s.setLdrState d c 7).put (F.LDR_CTX_STATUS.err d c) e, e)) (s, 0)

/-- Whether step 1 and 2 of a context's restore have completed on all dies. -/
def State.restoreReady (s : State) (c : Nat) : Bool :=
  s.rcv.restoring.contains c && s.hctx c == 1 && (List.range 4).all fun d =>
    s.get (F.LDR_CTX_STATUS.gesso_rows d c) == 0 && (s.slotsOf d).all fun q =>
      q.1 != c || s.get (F.HBM_RGN.state d c q.2) != 2

/-- RESTORE_COMPLETE: steps 3 to 9 for a context, whose tiles start in tile cycle `cyc`, at fc `at_`. -/
def State.restoreComplete (s : State) (c at_ cyc : Nat) : State :=
  if !s.restoreReady c then s else
  match s.rcv.plan, s.planSlot c with
  | some (n, lost), some k =>
    let s := s.reach at_
    let sec := (s.vslot c k).sec
    let (s, e) := s.restoreLoad c cyc sec
    if e ≠ 0 then s else
    let s := s.restoreState c sec
    let parity := s.rcv.roles.any fun q => q.1 == c && q.2.2 == 3
    let s := (List.range 4).foldl (fun s d => s.restoreBulk c d k parity sec) s
    let s := (s.restoreStip c n sec).resumeRecord c n lost
    let bind := s.get F.TICK_CTX_BIND.bind
    let s := s.put F.TICK_CTX_BIND.bind
      (bind - (bind / 2 ^ c % 2) * 2 ^ c + ((sec.get? Sec.bound 0).getD 0) * 2 ^ c)
    let s := s.loadSpan c n
    let s := (List.range 4).foldl (fun s d => s.start d c cyc at_) s
    let s := (s.add F.RCV_CNT_RESTORE.count 1).mapRcv fun r =>
      { r with restoring := r.restoring.erase c, roles := r.roles.filter fun q => q.1 != c }
    s.restoredAll (cmdKey 6 0) s.gen
  | _, _ => s

/-! REWIRE (R396). -/

/-- The ports of a die that satisfy a test. -/
def portsWith (p : Nat → Bool) : List Nat := (List.range 16).filter p

/-- At the spare: it answers to the lost node's ID and its spare ports carry all traffic. -/
def State.assume (s : State) (node : Nat) : State :=
  let s := (s.put (F.FAB_NODE.node_id 0) node).put F.RCV_STATUS.state 5
  (List.range 2).foldl (fun s f => (List.range 16).foldl (fun s p => s.put (F.FAB_PORT_CTL.spare f p) 0) s) s

/-- At a neighbour: the route entries whose shadow is an UP spare port facing the spare use it. -/
def State.reroute (s : State) (spare : Nat) : State :=
  (List.range 2).foldl (fun s f =>
    let ports := portsWith fun p => s.get (F.FAB_PORT_CTL.spare f p) == 1 && s.portState f p == PortState.up &&
      s.get (F.FAB_PORT_PEER.valid f p) == 1 && s.get (F.FAB_PORT_PEER.node f p) == spare
    let ns := (List.range 16384).filter fun n => ports.contains (s.get (F.FAB_ROUTE.shadow f n))
    let prims := (ns.map fun n => s.get (F.FAB_ROUTE.primary f n)).eraseDups
    let s := ns.foldl (fun s n => s.put (F.FAB_ROUTE.shadow_valid f n) 1) s
    let s := ports.foldl (fun s p => s.put (F.FAB_PORT_CTL.spare f p) 0) s
    prims.foldl (fun s p => if p < 24 then s.put ⟨(F.FAB_PORTSEL.fail f).addr, p, 1⟩ 1 else s) s) s

/-- REWIRE. -/
def State.rewireIn (s : State) : State :=
  s.onCommand 0x07 fun s x =>
    let spare := x.cA1 % 2 ^ 14
    let s := if s.get F.RCV_CTL.spare = 1 && s.node = spare then s.assume (x.cSubject % 2 ^ 14) else s.reroute spare
    s.reply (cmdKey 7 x.cCtx) x.cGen { op := 0x08, gen := x.cGen }

/-! The fill (R390, R397). -/

/-- A source entry of a FILL: (node, role, pidx). -/
def Flit.source (x : Flit) (k : Nat) : Nat × Nat × Nat :=
  let e := x.bytes (32 + 4 * k) 4
  (e % 2 ^ 14, e / 2 ^ 16 % 16, e / 2 ^ 20 % 8)

def Flit.fillSources (x : Flit) : List (Nat × Nat × Nat) := (List.range (x.cA2)).map x.source

/-- A flow that the sequencer opens for a fill: its epoch is the generation, modulo 256. -/
def State.fillFlow (s : State) (i c peer gen : Nat) (send : Bool) : State :=
  s.flowActivate i (BitVec.ofNat 64 (8 + (if send then 2 ^ 7 else 2 ^ 8) + c * 2 ^ 9 + gen % 256 * 2 ^ 16 + peer * 2 ^ 24))

/-- At the spare: it draws context `c` from the sources. -/
def State.fillSpare (s : State) (x : Flit) : State :=
  let c := x.cCtx
  let src := x.fillSources
  let m := s.get (F.VRN_CTX_W2.mflow c)
  let s := (s.put F.RCV_STATUS.state 6).mapRcv fun r =>
    { r with fills := (r.fills.filter fun q => q.1 != c) ++ [(c, x.cA0)],
             roles := (r.roles.filter fun q => q.1 != c) ++ src.map fun q => (c, q.1, q.2.1) }
  let senders := (src.filter fun q => q.2.1 != 2).map (·.1)
  (List.range (s.get (F.VRN_CTX_W2.nmf c))).foldl (fun s k =>
    s.fillFlow (m + k) c (senders.getD (k % max senders.length 1) 0) x.cGen false) s

def State.abandonFill (s : State) (x : Flit) (cause : Nat) : State :=
  s.reply (cmdKey 9 x.cCtx) x.cGen { op := 0x0B, ctx := x.cCtx, a2 := cause, gen := x.cGen }

/-- A copy of this module's staging for the spare. -/
def State.fillCopy (s : State) (c seq dest : Nat) (image parity : Bool) (ops : List VrnOp) : State :=
  let clock := (s.vctx c).clock + 1
  let id := 64 * clock + 63
  (s.mapVctx c fun v => { v with
    clock := clock, copies := v.copies ++ [VrnCopy.mk id seq dest image parity false 0 0 false false ops []] }).mapRcv
    fun r => { r with outs := r.outs ++ [(c, id)] }

/-- A staging area on a flow for each die. -/
def State.areaOps (s : State) (c place : Nat) (len : Nat → Nat) : List VrnOp × State :=
  (List.range 4).foldl (fun (r : List VrnOp × State) d =>
    let n := len d
    let (v, b, s) := r.2.stageRead d (r.2.placeGran c place) 0 n (granFuel n)
    (r.1 ++ opsAt (s.get (F.VRN_CTX_W2.bflow c) + d) d 0 n v b, s)) ([], s)

/-- A copy of one staging area for the spare. -/
def State.fillArea (s : State) (c seq dest k : Nat) (image : Bool) (len : Nat → Nat) : State :=
  let r := s.areaOps c k len
  r.2.fillCopy c seq dest image false r.1

/-- Role 1: the image area and the buddy copy. -/
def State.fillBuddy (s : State) (x : Flit) (dest : Nat) : State :=
  let c := x.cCtx
  match s.buddyOf c x.cA0 with
  | none => s.abandonFill x 1
  | some k =>
    let b := s.get (F.VRN_CTX_W2.bflow c)
    let s := (List.range (s.get (F.VRN_CTX_W2.nbf c))).foldl (fun s j => s.fillFlow (b + j) c dest x.cGen true) s
    let s := s.fillArea c x.cA0 dest 5 true fun _ => s.imgSize c * 2 ^ 21
    s.fillArea c x.cA0 dest k false fun d => (s.vslot c k).lens.getD d 0

/-- Role 2: every record of the mirror that is there, as LOG messages. -/
def State.fillLog (s : State) (x : Flit) (dest : Nat) : State :=
  let c := x.cCtx
  if s.get F.RCV_PEERS.log_from_v = 0 || s.get F.RCV_PEERS.log_from ≠ dest || s.engState 3 5 = 4 then s.abandonFill x 1
  else (List.range 262144).foldl (fun s k =>
    let (d, p, a) := skbPlace true c k
    let (v, bs, s) := s.hbmReadSegs d p (a / 16) 4
    if !bs.any id && crc32 ((List.range 60).map fun i => v / 256 ^ i % 256) == v / 2 ^ 480 && v != 0 then
      s.ctrl { op := 0x0E, ctx := c, gen := x.cGen, body := v } dest
    else s) s

/-- Role 3: the parity stripe at its place in the lost module's bytes, and this member's own stripes, each at the place of
the stripe whose sum holds it (R381). -/
def State.fillParity (s : State) (x : Flit) (dest : Nat) : State :=
  let c := x.cCtx
  let mine := s.get (F.VRN_CTX_W2.pidx c)
  let present := (x.fillSources.filter fun q => q.2.1 == 3).map (·.2.2)
  let i := ((List.range 8).find? fun k => !present.contains k).getD 0
  let par := [3, 4].find? fun k => s.slotState c k == 3 && (s.vslot c k).parity && (s.vslot c k).seq == x.cA0
  match par, s.localSlot c x.cA0 with
  | some p, some k =>
    let b := s.get (F.VRN_CTX_W2.bflow c)
    let s := (List.range (s.get (F.VRN_CTX_W2.nbf c))).foldl (fun s j => s.fillFlow (b + j) c dest x.cGen true) s
    let place (j : Nat) : Nat := (j + 15 - i) % 8
    let (pops, s) := (List.range 4).foldl (fun (r : List VrnOp × State) d =>
      let w := (r.2.vslot c p).lens.getD d 0
      let (v, m, s) := r.2.stageRead d (r.2.placeGran c p) 0 w (granFuel w)
      (r.1 ++ opsAt (b + d) d (place mine * w) w v m, s)) ([], s)
    let (own, s) := (List.range 4).foldl (fun (r : List VrnOp × State) d =>
      let items := (r.2.bulkAt c d (r.2.vslot c k).sec).filter fun q => q.2.meth == 2
      let (l, s) := items.foldl (fun (r : List Captured × State) q =>
        let (v, m, s) := r.2.stageRead d (r.2.placeGran c k) q.1 q.2.room (granFuel q.2.room)
        (r.1 ++ [Captured.mk q.1 2 q.2.room v m 0], s)) ([], r.2)
      let (n, v, m) := methodTwo l
      let w := stripeLen n
      let ops := ((List.range 8).filter fun j => j != i && j != mine).flatMap fun j =>
        let t := (j + 15 - mine) % 8
        opsAt (b + d) d (place j * w) w (v / 256 ^ (t * w) % 256 ^ w) ((m.drop (t * w / 16)).take (w / 16))
      (r.1 ++ ops, s)) ([], s)
    (s.fillCopy c x.cA0 dest false true pops).fillCopy c x.cA0 dest false false own
  | _, _ => s.abandonFill x 1

/-- FILL. -/
def State.fillIn (s : State) (at_ cyc : Nat) : State :=
  s.onCommand 0x09 fun s x =>
    let s := s.reach at_
    let dest := x.cSubject % 2 ^ 14
    let mine := x.fillSources.filter fun q => q.1 == s.node
    if s.node = dest && (s.rcvState = 5 || s.rcvState = 6) then
      if s.vrnOn x.cCtx then s.fillSpare x else s.abandonFill x 2
    else
      (mine.foldl (fun s q => match q.2.1 with
        | 1 => s.fillBuddy x dest
        | 2 => s.fillLog x dest
        | _ => s.fillParity x dest) s).startCopies x.cCtx at_ cyc

/-- A copy of a fill that has failed at its source (R390). -/
def State.fillCheck (s : State) : State :=
  s.rcv.outs.foldl (fun s q =>
    match (s.vctx q.1).copies.find? fun y => y.id == q.2 with
    | none => s.mapRcv fun r => { r with outs := r.outs.erase q }
    | some y => if !y.failed then s else
      let s := (s.mapRcv fun r => { r with outs := r.outs.erase q }).mapVctx q.1 fun v =>
        { v with copies := v.copies.filter fun z => z.id != q.2 }
      s.reply (cmdKey 9 q.1) s.gen { op := 0x0B, ctx := q.1, a2 := 3, gen := s.gen }) s

/-- The copies waiting behind an outcome go on (R383, R397). -/
def State.afterFlow (s : State) (at_ cyc : Nat) : State := (s.startAllCopies at_ cyc).fillCheck

/-- At the spare: context `c` is created from the state section. -/
def State.createCtx (s : State) (c n : Nat) : State :=
  match s.localSlot c n with
  | none => s
  | some k =>
    let sec := (s.vslot c k).sec
    let s := if s.hctx c = 0 then s.put (F.HCTX_STATUS.state c) 1 else s
    let s := (List.range 4).foldl (fun s d =>
      let rows := (((sec.all Sec.stip).filter fun q => gidDie q.1 == d).map fun q => gidRow q.1).eraseDups
      if rows.isEmpty then s else s.ldrRowsWrite d c (rows.map (2 ^ ·)).sum) s
    s.restoreRegions c sec

/-- FILL_COMMIT: the spare's local slot holds a LOCAL snapshot of S for every context of the fill. -/
def State.fillCommit (s : State) : State :=
  let l := s.rcv.fills
  if s.rcvState ≠ 6 || l.isEmpty || !(l.all fun q => (s.localSlot q.1 q.2).isSome && (s.vctx q.1).ins.isEmpty) then s else
  let n := (l.head?.map (·.2)).getD 0
  let s := (s.add F.RCV_CNT_FILL.count 1).put F.RCV_STATUS.state 2
  -- the flows of the fill end with it
  let s := l.foldl (fun s q => (List.range (s.get (F.VRN_CTX_W2.nmf q.1))).foldl (fun s k =>
    let i := s.get (F.VRN_CTX_W2.mflow q.1) + k
    (s.setWord (w0Addr i) 0).setFlow i FlowSt.fresh) s) s
  let lost := (s.rcv.plan.bind (·.2)).orElse fun _ => some s.node
  let s := s.mapRcv fun r => { r with fills := [], restoring := l.map (·.1), plan := some (n, lost) }
  let s := l.foldl (fun s q => s.reply (cmdKey 9 q.1) s.gen { op := 0x0A, ctx := q.1, a0 := n, gen := s.gen }) s
  l.foldl (fun s q => s.createCtx q.1 n) s

/-! RESUME and SHRINK (R396, R400, R402). -/

def State.resumeIn (s : State) : State :=
  s.onCommand 0x0D fun s x => s.mapRcv fun r => { r with resume := some (x.cA1, x.cA0) }

/-- At the acceptance of tick `n`: the restored sequencers open step S + 1, and the module runs again. -/
def State.resumeTick (s : State) (n at_ : Nat) : State :=
  match s.rcv.resume with
  | none => s
  | some (m, step) =>
    if n ≠ m then s else
    let l := s.protected
    let s := l.foldl (fun s c =>
      let s := s.put (F.MBS_STEP.step c) (step + 1)
      let s := (s.mbsEnable c (s.word (mbsBase c))).mbsOpen c
      s.skbLog c s.gen at_ { kind := 4, step := step, aux := step }) s
    let s := if s.rcvState = 7 || s.rcvState = 4 then s else s.put F.RCV_STATUS.state 0
    let s := s.mapTick fun t => { t with ovr := 0 }
    s.mapRcv fun r => { r with resume := none, plan := none, shrunk := false, infos := [], restored := [], links := [] }

/-- SHRINK. -/
def State.shrinkIn (s : State) : State :=
  s.onCommand 0x14 fun s x => (s.mapRcv fun r => { r with shrunk := true }).freeze (cmdKey 0x14 x.cCtx) x.cGen

/-! The loss of a stack (R248, R392, R394). -/

/-- First fit: the lowest base at which `n` allocatable granules of a stack are free and clean. -/
def State.fitAt (s : State) (d p n : Nat) (taken : List (Nat × Nat)) : Option Nat :=
  let busy := taken ++ s.dirty d p ++ ((s.slotsOf d).filterMap fun q =>
    let g := s.rgn d q.1 q.2
    if g.state != 0 && g.stack == p then some (g.base, g.base + g.count) else none)
  ((0 :: busy.map (·.2)).mergeSort).find? fun b =>
    decide (b + n ≤ 30720) && busy.all fun q => decide (q.2 ≤ b) || decide (b + n ≤ q.1)

/-- The new places of the regions of logical stack `l`, in ascending order of context and slot, on stack `p`. -/
def State.fitAll (s : State) (d p : Nat) : List (Nat × Nat × Nat) → List (Nat × Nat) → Option (List (Nat × Nat))
  | [], _ => some []
  | (c, k, n) :: l, taken =>
    match s.fitAt d p n taken with
    | none => none
    | some b => match s.fitAll d p l (taken ++ [(b, b + n)]) with
      | none => none
      | some r => some ((64 * (64 * d + c) + k, b) :: r)

/-- R394 for one logical stack. The stack it goes to serves on: R394's own case is outside R249's condition on the engines
(DEDUCED, notes/assumptions/113). -/
def State.remap (s : State) (d l p0 : Nat) : State :=
  let mine := (s.slotsOf d).filterMap fun q =>
    let g := s.rgn d q.1 q.2
    if g.state != 0 && g.lstack == l then some (q.1, q.2, g.count) else none
  let fit := ((List.range 6).filter fun p => p != p0 && s.engState d p != 4).findSome? fun p =>
    (s.fitAll d p mine []).map fun r => (p, r)
  match fit with
  | none => s.sendFail (dieErrc d (0x1A + p0))
  | some (p, r) =>
    let s := r.foldl (fun s q => s.put (F.HBM_RGN.base d (q.1 / 64 % 64) (q.1 % 64)) q.2) s
    let s := s.mapRcv fun w => { w with bases := (w.bases.filter fun q => !(r.any fun x => x.1 == q.1)) ++ r }
    let m := s.get (F.HBM_SEMAP.phys d)
    s.put (F.HBM_SEMAP.phys d) (m - m / 8 ^ l % 8 * 8 ^ l + p * 8 ^ l)

/-- R379: a snapshot with a part on the FAILED stack is LOST, and an export of it ends. -/
def State.loseSlots (s : State) (d : Nat) : State :=
  s.protected.foldl (fun s c => (List.range 5).foldl (fun s k =>
    if s.slotState c k ≠ 0 && s.stageFailed d (s.placeGran c k) (s.slotLen c) then
      let s := (List.range 4).foldl (fun s x =>
        if s.get (F.EXP_STATUS.state x) = 1 && s.get (F.EXP_CTL.ctx x) = c &&
          s.heldSlot c (s.get (F.EXP_SRC.snap x)) == some k then s.channelEnd x 3 2 else s) s
      (s.setSlotState c k 5).showNewest c
    else s) s) s

/-- STACK_LOSS: physical stack `p` of die `d` is lost in tile cycle `cyc`: its started transfers are rejected, its regions
move, and the coordinator hears of it. -/
def State.stackLoss (s : State) (d p cyc : Nat) : State :=
  if s.engState d p = 4 then s else
  let s := s.put (F.HBM_SE_STATUS.state d p) 4
  let s := (s.xfersOn d p).foldl (fun s x =>
    ((s.count (F.HBM_SE_CNT_INVAL.count d p) (dieErrc d 0x21) 1).mapTile x.tile fun t =>
      { t with edge := t.edge.filter fun q => q.kind == .unit || q.op != x.op.id }).onTileLow x.tile fun y => y.finish x.op 3 cyc) s
  let s := State.showTiles { s with hbm := { s.hbm with
    xfers := s.hbm.xfers.filter fun x => !(x.die == d && x.stack == p),
    accepts := s.hbm.accepts.filter fun w => !(w.die == d && w.stack == p) } } d p
  let s := s.loseSlots d
  let s := if d = 0 && p = 0 then s.put F.VRN_STATUS.skb_lost 1 else s
  (((List.range 6).filter fun l => s.stackOf d l == p).foldl (fun s l => s.remap d l p) s).sendEvent 3 0

end Sys2Proof.Machine
end

