-- ==== Sys2Proof/Machine/Coordinator.lean ====
section
/-! DEFINITION. Recovery at the coordinator and its standby (R372, R373, R387, R390-R398, R402, R405): detection of losses,
the coordinator's states, the choice of S, and STATE. -/

namespace Sys2Proof.Machine

/-- A broadcast by the tick tree of which the module takes its own copy (R275). -/
def State.ctrlAllOwn (s : State) (m : Ctrl) : State :=
  let x := Hdr.flit { kind := 8, vc := 3, bc := 1, tree := s.tick.tree, src := s.node } (m.payload s.node)
  (s.inject 0 x).toInbox none x

def State.coordOn (s : State) : Bool := s.rcvOn && s.get F.RCV_CTL.coord_ok == 1 && s.isMaster

/-- RCV_STATUS.cstate: 1 RUN, 2 DECIDE, 3 REWIRE, 4 FILL, 5 RESTORE, 6 SHRINK, 7 HOST. -/
def State.cstate (s : State) : Nat := s.get F.RCV_STATUS.cstate

/-! Spares (R396). -/

def State.spareAt (s : State) (k : Nat) : Nat := s.get (F.RCV_SPARE.node k)
def State.spareOk (s : State) (k : Nat) : Bool :=
  s.get (F.RCV_SPARE.valid k) == 1 && s.get (F.RCV_SPARE.used k) == 0 && s.get (F.RCV_SPARE.failed k) == 0
def State.spareNow (s : State) : Option Nat := (List.range 16).find? s.spareOk
def State.failSpare (s : State) : State := match s.rcv.spare with
  | some k => (s.put (F.RCV_SPARE.failed k) 1).mapRcv fun r => { r with spare := none }
  | none => s

/-- The members heard of that have not been lost; spares that replace nobody are none. -/
def State.domain (s : State) : List Nat :=
  (s.rcv.heard.map (·.1)).filter fun n => !s.rcv.gone.contains n &&
    !((List.range 16).any fun k => s.get (F.RCV_SPARE.valid k) == 1 && s.spareAt k == n)

/-! STATE (R391). -/

def maskOf16 (p : Nat → Bool) : Nat := (((List.range 16).filter p).map (2 ^ ·)).sum

/-- Part 0's body. -/
def State.stateBody (s : State) : Nat :=
  let sp := s.rcv.spare.map s.spareAt
  s.cstate + (s.rcv.lost.isSome.toNat + 2 * sp.isSome.toNat) * 2 ^ 8 + s.rcv.lost.getD 0 * 2 ^ 16 + sp.getD 0 * 2 ^ 32 +
    s.rcv.queue.length * 2 ^ 48 + s.rcv.step * 2 ^ 64 + s.rcv.number * 2 ^ 128 +
    maskOf16 (fun k => s.get (F.RCV_SPARE.used k) == 1) * 2 ^ 192 +
    maskOf16 (fun k => s.get (F.RCV_SPARE.failed k) == 1) * 2 ^ 208 + s.get F.RCV_SHRINK.removed * 2 ^ 256

/-- The body of later part `j`: queued losses, 32 a part, and 0xFFFF beyond the queue's end. -/
def queueBody (l : List Nat) (j : Nat) : Nat :=
  ((List.range 32).map fun k => l.getD (32 * (j - 1) + k) 0xFFFF * 2 ^ (16 * k)).sum

/-- After a change of its state the coordinator sends it to the standby (R372). -/
def State.sendState (s : State) : State := match s.standbyNode with
  | none => s
  | some n =>
    let l := s.rcv.queue.map (·.1)
    let parts := (l.length + 31) / 32
    (List.range (parts + 1)).foldl (fun s j =>
      let body := if j = 0 then s.stateBody else queueBody l j
      s.ctrl { op := 0x13, flags := (j == parts).toNat, a2 := j, gen := s.gen, body := body } n) s

/-- The coordinator enters a state at fc `at_`. -/
def State.enterC (s : State) (st at_ : Nat) : State :=
  ((s.put F.RCV_STATUS.cstate st).mapRcv fun r => { r with since := at_ }).sendState

/-! The choice of S (R395). -/

def SnapInfo.has (x : SnapInfo) (n : Nat) : Bool := x.loc == some n || x.complete == some n

/-- The contexts of the job, as the SNAPINFOs name them. -/
def State.jobCtxs (s : State) : List Nat := (s.rcv.infos.map (·.ctx)).eraseDups

def State.infoOf (s : State) (n c : Nat) : Option SnapInfo := s.rcv.infos.find? fun x => x.node == n && x.ctx == c

/-- The live modules that hold a copy of a lost module's snapshot. -/
def State.holders (s : State) (x c n : Nat) : List Nat :=
  ((s.rcv.infos.filter fun y => y.ctx == c && s.domain.contains y.node && y.copies.contains (x, n)).map (·.node)).eraseDups

/-- Whether a step meets both conditions, for the losses to be decided. -/
def State.stepOk (s : State) (n : Nat) : Bool :=
  s.jobCtxs.all fun c => (s.domain.all fun m => match s.infoOf m c with
    | some x => x.has n
    | none => false) && s.rcv.queue.all fun q => !(s.holders q.1 c n).isEmpty

def State.chooseS (s : State) : Option Nat :=
  let steps := s.rcv.infos.flatMap fun x => x.loc.toList ++ x.complete.toList
  (steps.filter s.stepOk).foldl (fun b n => match b with
    | none => some n
    | some m => some (max m n)) none

/-- Whether SNAPINFO has arrived from every member not lost. -/
def State.infosIn (s : State) : Bool :=
  s.domain.all fun m => s.rcv.infos.any (fun x => x.node == m) && s.jobCtxs.all fun c => (s.infoOf m c).isSome

/-! Commands to the members (R389, R390). -/

def State.sendPlan (s : State) : State :=
  s.ctrlAllOwn { op := 0x06, flags := s.rcv.lost.isSome.toNat, subject := s.rcv.lost.getD s.node, a0 := s.rcv.step,
                 a1 := (s.rcv.spare.map s.spareAt).getD 0xFFFF, gen := s.gen }

def State.sendRewire (s : State) (dests : List Nat) : State :=
  match s.rcv.lost, s.rcv.spare with
  | some x, some k => dests.foldl (fun s n =>
      s.ctrl { op := 0x07, subject := x, a1 := s.spareAt k, gen := s.gen } n) s
  | _, _ => s

/-- The source entries of a FILL: buddies, or the seven survivors of a parity group with free parity indices, and a log
buddy that the coordinator knows from no message (DESIGN CHOICE, notes/assumptions/61). -/
def State.fillSourcesOf (s : State) (x c : Nat) : List (Nat × Nat × Nat) × State :=
  let l := s.holders x c s.rcv.step
  let (w, s) := s.fresh64
  let log := (w.toNat % 2 ^ 14, 2, 0)
  if l.length < 7 then ((l.map fun n => (n, 1, 0)).take 15 ++ [log], s)
  else (((l.take 7).zipIdx.map fun q => (q.1, 3, w.toNat / 2 ^ (14 + 3 * q.2) % 8)) ++ [log], s)

def State.sendFill (s : State) (x c : Nat) : State :=
  let (l, s) := s.fillSourcesOf x c
  let body := (l.zipIdx.map fun q => (q.1.1 + q.1.2.1 * 2 ^ 16 + q.1.2.2 * 2 ^ 20) * 2 ^ (32 * q.2)).sum
  let m : Ctrl := { op := 0x09, subject := x, ctx := c, a0 := s.rcv.step,
                    a1 := (s.rcv.spare.map s.spareAt).getD 0xFFFF, a2 := l.length, gen := s.gen, body := body }
  let nodes := (l.map (·.1)).eraseDups
  (([x] ++ nodes.filter (· != x)).foldl (fun s n => s.ctrl m n) s).mapRcv fun r =>
    { r with sources := (r.sources ++ (l.filter fun q => q.2.1 != 2).map (·.1)).eraseDups }

def State.sendFills (s : State) : State := match s.rcv.lost with
  | some x => s.jobCtxs.foldl (fun s c => s.sendFill x c) s
  | none => s

/-! DECIDE (R393, R398). -/

/-- R387: the neighbours of a lost module are the origins of its LINKDOWN reports. -/
def State.neighbours (s : State) (x : Nat) : List Nat :=
  ((s.rcv.links.filter fun q => q.1 == x).map fun q => q.2.1).eraseDups

/-- A decision, once everything it needs is there. -/
def State.decideNow (s : State) (at_ : Nat) : State :=
  if s.cstate ≠ 2 || !s.infosIn then s else
  match s.chooseS with
  | none => (s.rcvEvent 9 ((s.rcv.queue.head?.map (·.1)).getD s.node)).enterC 7 at_
  | some n =>
    let s := s.mapRcv fun r => { r with step := n }
    match s.rcv.queue with
    | [] => (s.enterC 5 at_).sendPlan
    | (x, _) :: l =>
      let s := s.mapRcv fun r => { r with lost := some x, queue := l }
      match s.spareNow with
      | some k =>
        let nb := s.neighbours x
        let s := (s.put (F.RCV_SPARE.used k) 1).mapRcv fun r => { r with spare := some k, neigh := nb }
        ((s.enterC 3 at_).sendPlan).sendRewire (s.spareAt k :: nb)
      | none => ((s.rcvEvent 8 x).enterC 6 at_).ctrlAllOwn { op := 0x14, subject := x, gen := s.gen }

/-- DECIDE is entered: a new generation; a loss not yet made good is decided again; RECOVER is emitted unless the
coordinator is in recovery already. -/
def State.enterDecide (s : State) (at_ : Nat) : State :=
  let s := s.put F.RCV_STATUS.gen ((s.gen + 1) % 2 ^ 32)
  let s := s.mapRcv fun r => { r with
    queue := (match r.lost with
      | some x => [(x, at_)]
      | none => []) ++ r.queue,
    lost := none, spare := none, rewired := [], restored := [], sources := [], neigh := [] }
  let s := if s.tick.halted then s else
    (s.mapRcv fun r => { r with number := s.get F.TICK_NEXT.next, infos := [] }).emitRecover
  (s.enterC 2 at_).decideNow at_

/-- RECOVER has been emitted for another reason (R49, R50). -/
def State.coordRecover (s : State) (at_ : Nat) : State :=
  if s.coordOn && s.cstate = 1 && s.tick.halted then
    (s.mapRcv fun r => { r with number := s.get F.TICK_NEXT.next, infos := [] }).enterDecide at_
  else s

/-- R398: the fill in progress is abandoned. -/
def State.dropFill (s : State) : State :=
  (s.count F.RCV_CNT_ABANDON.count 0xE 1).rcvEvent 7 (s.rcv.lost.getD s.node)

/-- A loss joins the queue; of losses declared in one fc the lower node goes first (R405). -/
def queueLoss (l : List (Nat × Nat)) (x at_ : Nat) : List (Nat × Nat) :=
  (l.filter fun q => q.2 != at_ || decide (q.1 < x)) ++ [(x, at_)] ++ l.filter fun q => q.2 == at_ && decide (x ≤ q.1)

/-- A module is declared lost (R387, R393, R398). -/
def State.declareLost (s : State) (x at_ : Nat) : State :=
  let unused := (List.range 16).find? fun k => s.spareAt k == x && s.spareOk k
  let mine := match s.rcv.spare with
    | some k => s.spareAt k == x || s.rcv.lost == some x
    | none => false
  if s.rcv.gone.contains x && !mine then s else
  let s := ((s.count F.RCV_CNT_LOST.count 0xD 1).rcvEvent 1 x).mapRcv fun r =>
    { r with heard := r.heard.filter fun q => q.1 != x }
  match unused with
  | some k => s.put (F.RCV_SPARE.failed k) 1
  | none =>
    let join (s : State) : State := s.mapRcv fun r => { r with gone := (r.gone ++ [x]).eraseDups, queue := queueLoss r.queue x at_ }
    match s.cstate with
    | 1 => (join s).enterDecide at_
    | 2 => ((join s).sendState).decideNow at_
    | 3 => if mine then s.failSpare.enterDecide at_ else (join s).sendState
    | 4 =>
      if mine then s.dropFill.failSpare.enterDecide at_
      else if s.rcv.sources.contains x then ((join s).dropFill).enterDecide at_
      else (join s).sendState
    | 5 => (join s).enterDecide at_
    | _ => (join s).sendState

/-! Detection (R387). -/

def State.hbFc (s : State) : Nat := fcMs (s.get F.RCV_PLAN.hb_ms)

/-- CTRL_HEARTBEAT_TIMER. -/
def State.heartbeatTimer (s : State) (at_ : Nat) : State :=
  if !s.rcvOn || at_ < s.rcv.beat + s.hbFc then s
  else ((s.reach at_).mapRcv fun r => { r with beat := at_ }).toCoords
    { op := 0x01, a0 := s.get F.TICK_NUMBER.number, gen := s.gen }

/-- CTRL_HEARTBEAT. -/
def State.heartbeatIn (s : State) (at_ : Nat) : State :=
  match s.popCtrl 0x01 with
  | none => s
  | some (x, s) =>
    if s.rcv.gone.contains x.cOrigin then s
    else s.mapRcv fun r => { r with heard := (r.heard.filter fun q => q.1 != x.cOrigin) ++ [(x.cOrigin, at_, 0)] }

/-- HEARTBEAT_MISS: a period of node `n` ends at fc `at_` without a HEARTBEAT. -/
def State.heartbeatMiss (s : State) (n at_ : Nat) : State :=
  if !s.coordOn then s else
  match s.rcv.heard.find? fun q => q.1 == n with
  | none => s
  | some (_, t, m) =>
    if at_ < t + (m + 1) * s.hbFc then s else
    let s := (s.reach at_).add F.RCV_CNT_HBMISS.count 1
    let s := s.mapRcv fun r => { r with heard := r.heard.map fun q => if q.1 = n then (n, t, m + 1) else q }
    if s.get F.RCV_PLAN.hb_lim ≤ m + 1 then s.declareLost n at_ else s

/-- FAIL. -/
def State.failIn (s : State) (at_ : Nat) : State :=
  match s.popCtrl 0x02 with
  | none => s
  | some (x, s) => if s.coordOn then s.declareLost x.cOrigin at_ else s

/-- LINKDOWN. -/
def State.linkdownIn (s : State) (at_ : Nat) : State :=
  match s.popCtrl 0x03 with
  | none => s
  | some (x, s) =>
    if !s.coordOn then s else
    let n := x.cSubject % 2 ^ 14
    let s := (s.reach at_).mapRcv fun r => { r with links := r.links ++ [(n, x.cOrigin, at_)] }
    if s.rcv.gone.contains n then s else
    let first := ((s.rcv.links.filter fun q => q.1 == n).head?.map fun q => q.2.2).getD at_
    if first + fcMs (s.get F.RCV_PLAN.confirm_ms) < at_ then s
    else if s.get F.RCV_PLAN.confirm ≤ (s.neighbours n).length then s.declareLost n at_ else s

/-- CONFIRM_WINDOW_EXPIRY: reports about node `n` that declared no loss are link failures. -/
def State.confirmExpiry (s : State) (n at_ : Nat) : State :=
  let l := s.rcv.links.filter fun q => q.1 == n
  match l with
  | [] => s
  | q :: _ =>
    if !s.coordOn || s.rcv.gone.contains n || at_ < q.2.2 + fcMs (s.get F.RCV_PLAN.confirm_ms) then s
    else (((s.reach at_).add F.RCV_CNT_LINK.count l.length).rcvEvent 2 n).mapRcv fun r =>
      { r with links := r.links.filter fun q => q.1 != n }

/-- EVENT. -/
def State.eventIn (s : State) (at_ : Nat) : State :=
  match s.popCtrl 0x04 with
  | none => s
  | some (x, s) =>
    if !s.coordOn then s else
    let s := s.rcvEvent (x.cA2 % 16) x.cOrigin
    if s.cstate = 1 then s.enterDecide at_ else s

/-! Answers (R393, R402). The standby collects them as well (R391). -/

/-- SNAPINFO's body. -/
def pairsOf (v : Nat) : List (Nat × Nat) :=
  (List.range 8).filterMap fun k =>
    let w := v / 2 ^ (64 * k) % 2 ^ 64
    if w.testBit 15 then some (w % 2 ^ 14, w / 2 ^ 16 % 2 ^ 36) else none

def Flit.snapInfo (x : Flit) : SnapInfo :=
  let seq (v : Nat) : Option Nat := if v.testBit 36 then some (v % 2 ^ 36) else none
  ⟨x.cOrigin, x.cCtx, seq x.cA0, seq x.cA1, pairsOf (x.bytes 32 64)⟩

def State.addInfo (s : State) (y : SnapInfo) : State :=
  s.mapRcv fun r => { r with infos := (r.infos.filter fun z => z.node != y.node || z.ctx != y.ctx) ++ [y] }

/-- SNAPINFO. -/
def State.snapInfoIn (s : State) (at_ : Nat) : State :=
  match s.popCtrl 0x05 with
  | none => s
  | some (x, s) =>
    let s := s.addInfo x.snapInfo
    if s.coordOn then s.decideNow at_ else s

/-- Whether RESTORED has come from every member: RESUME, then RUN. Losses still queued are decided first. -/
def State.tryResume (s : State) (at_ : Nat) : State :=
  if s.cstate ≠ 5 || !(s.domain.all s.rcv.restored.contains) then s
  else if !s.rcv.queue.isEmpty then s.enterDecide at_
  else
    let s := s.put F.RCV_STEP.step s.rcv.step
    let s := s.ctrlAllOwn { op := 0x0D, a0 := s.rcv.step, a1 := s.rcv.number, gen := s.gen }
    (s.mapRcv fun r => { r with resumeAt := some (at_ + s.tick.period), lost := none, spare := none, neigh := [] }).enterC 1 at_

/-- REWIRED: once the spare, under the lost node's ID, and every neighbour have answered, the fill begins. -/
def State.rewiredIn (s : State) (at_ : Nat) : State :=
  match s.popCtrl 0x08 with
  | none => s
  | some (x, s) =>
    if x.cGen ≠ s.gen then s else
    let s := s.mapRcv fun r => { r with rewired := (r.rewired ++ [x.cOrigin]).eraseDups }
    match s.rcv.lost with
    | none => s
    | some n =>
      if s.coordOn && s.cstate = 3 && (n :: s.rcv.neigh).all s.rcv.rewired.contains then (s.enterC 4 at_).sendFills else s

/-- FILLED: the replaced module is a member again. -/
def State.filledIn (s : State) (at_ : Nat) : State :=
  match s.popCtrl 0x0A with
  | none => s
  | some (x, s) =>
    if x.cGen ≠ s.gen then s else
    match s.rcv.lost with
    | none => s
    | some n =>
      if !s.coordOn || s.cstate ≠ 4 || x.cOrigin ≠ n then s else
      let s := s.jobCtxs.foldl (fun s c => s.addInfo ⟨n, c, some x.cA0, none, []⟩) s
      let s := s.mapRcv fun r =>
        let heard := (r.heard.filter fun q => q.1 != n) ++ [(n, at_, 0)]
        { r with gone := r.gone.erase n, lost := none, spare := none, heard := heard }
      if !s.rcv.queue.isEmpty && s.spareNow.isSome then s.enterDecide at_
      else (s.enterC 5 at_).tryResume at_

/-- ABANDON: one from the spare marks it failed; a source's means that its copy cannot be drawn on (R398). -/
def State.abandonIn (s : State) (at_ : Nat) : State :=
  match s.popCtrl 0x0B with
  | none => s
  | some (x, s) =>
    if !s.coordOn || s.cstate ≠ 4 || x.cGen ≠ s.gen then s else
    let s := s.dropFill
    let s := if s.rcv.lost = some x.cOrigin then s.failSpare
      else s.mapRcv fun r => { r with infos := r.infos.map fun y => if y.node = x.cOrigin && y.ctx = x.cCtx then
        { y with copies := y.copies.filter fun q => some q.1 != r.lost } else y }
    s.enterDecide at_

/-- RESTORED. -/
def State.restoredIn (s : State) (at_ : Nat) : State :=
  match s.popCtrl 0x0C with
  | none => s
  | some (x, s) =>
    if x.cGen ≠ s.gen then s else
    let s := s.mapRcv fun r => { r with restored := (r.restored ++ [x.cOrigin]).eraseDups }
    if s.coordOn then s.tryResume at_ else s

/-- RESUME_TICK: P after RESUME the coordinator emits the tick that RECOVER named. -/
def State.resumeEmit (s : State) (at_ : Nat) : State :=
  match s.rcv.resumeAt with
  | none => s
  | some t =>
    if !s.coordOn || at_ < t then s else
    ((s.reach at_).mapRcv fun r => { r with resumeAt := none }).put F.TICK_NEXT.next s.rcv.number |>.emitTick at_

/-! Timeouts and the host (R393). -/

def State.rewireTimeout (s : State) (at_ : Nat) : State :=
  if !s.coordOn || s.cstate ≠ 3 || at_ < s.rcv.since + fcMs (s.get F.RCV_PLAN.rewire_ms) then s
  else (s.reach at_).failSpare.enterDecide at_

def State.fillTimeout (s : State) (at_ : Nat) : State :=
  if !s.coordOn || s.cstate ≠ 4 || at_ < s.rcv.since + fcMs (10 * s.get F.RCV_PLAN.fill_10ms) then s
  else (s.reach at_).dropFill.failSpare.enterDecide at_

def State.restoreTimeout (s : State) (at_ : Nat) : State :=
  if !s.coordOn || s.cstate ≠ 5 || at_ < s.rcv.since + fcMs (10 * s.get F.RCV_PLAN.restore_10ms) then s
  else (s.reach at_).enterDecide at_

/-- RETRY, ABORT, SHRINK_DONE: writes of RCV_CMD. -/
def State.retry (s : State) (at_ : Nat) : State := if s.coordOn && s.cstate = 7 then (s.reach at_).enterDecide at_ else s

def State.abort (s : State) (at_ : Nat) : State :=
  if s.coordOn && s.cstate = 7 then
    (((s.reach at_).stopEmission).mapRcv fun r => { r with lost := none, queue := [], restored := [], links := [] }).enterC 1 at_
  else s

def State.shrinkDone (s : State) (at_ : Nat) : State :=
  if s.coordOn && s.cstate = 6 then
    (((s.reach at_).mapRcv fun r => { r with lost := none, restored := [] }).enterC 5 at_).sendPlan
  else s

/-! STATE and takeover (R372, R391). -/

/-- The standby adopts a state whose every part it holds. -/
def State.adopt (s : State) (gen : Nat) : State :=
  let ps := s.rcv.parts.filter fun q => q.1 == gen
  match ps.find? (fun q => q.2.1 == 0), ps.find? (fun q => q.2.2.cFlags % 2 == 1) with
  | some (_, _, x), some (_, n, _) =>
    if !((List.range (n + 1)).all fun j => ps.any fun q => q.2.1 == j) then s else
    let later := (List.range n).flatMap fun j => match ps.find? fun q => q.2.1 == j + 1 with
      | some (_, _, y) => (List.range 32).map fun k => y.bytes (32 + 2 * k) 2
      | none => []
    let queue := (later.take (x.bytes 38 2)).map fun v => (v % 2 ^ 14, s.now)
    let fl := x.bytes 33 1
    let lost := if fl % 2 = 1 then some (x.bytes 34 2 % 2 ^ 14) else none
    let spare := if fl / 2 % 2 = 1 then (List.range 16).find? fun k => s.spareAt k == x.bytes 36 2 % 2 ^ 14 else none
    let s := (List.range 16).foldl (fun s k =>
      (s.put (F.RCV_SPARE.used k) ((x.bytes 56 2).testBit k).toNat).put (F.RCV_SPARE.failed k)
        ((x.bytes 58 2).testBit k).toNat) s
    let s := s.put F.RCV_SHRINK.removed (x.bytes 64 8)
    s.mapRcv fun r =>
      let r1 : RcvSt := { r with adopted := x.bytes 32 1, lost := lost, spare := spare, queue := queue,
                                 step := x.bytes 40 8, number := x.bytes 48 8 }
      { r1 with gone := lost.toList ++ queue.map (·.1), parts := r.parts.filter fun q => decide (gen ≤ q.1) }
  | _, _ => s

/-- STATE, at the standby. -/
def State.stateIn (s : State) : State :=
  match s.popCtrl 0x13 with
  | none => s
  | some (x, s) =>
    if !s.rcvOn then s
    else if x.cGen < s.gen then s.add F.RCV_CNT_STALE.count 1
    else
      let s := s.put F.RCV_STATUS.gen x.cGen
      -- a part sent again replaces the parts held of that generation
      let s := s.mapRcv fun r => { r with parts :=
        (r.parts.filter fun q => q.1 != x.cGen || (x.cA2 != 0 && q.2.1 != x.cA2)) ++ [(x.cGen, x.cA2, x)] }
      s.adopt x.cGen

/-- Commands of an adopted state whose answers are missing are sent again. -/
def State.reissue (s : State) (at_ : Nat) : State :=
  let s := if s.cstate = 2 then s.emitRecover else s
  let s := if 3 ≤ s.cstate && s.cstate ≤ 5 then s.sendPlan else s
  let s := match s.cstate, s.rcv.spare with
    | 3, some k => s.sendRewire ((if s.rcv.rewired.contains (s.rcv.lost.getD 0) then [] else [s.spareAt k]) ++
        s.rcv.neigh.filter fun n => !s.rcv.rewired.contains n)
    | 4, _ => s.sendFills
    | 6, _ => s.ctrlAllOwn { op := 0x14, subject := s.rcv.lost.getD s.node, gen := s.gen }
    | _, _ => s
  (s.decideNow at_).tryResume at_

/-- RCV_STATUS.coord and cstate follow the master role and RCV_CTL; a module that begins to coordinate goes on from the
state it has adopted. -/
def State.showCoord (s : State) (at_ : Nat) : State :=
  if !s.coordOn then (s.put F.RCV_STATUS.coord 0).put F.RCV_STATUS.cstate 0
  else if s.get F.RCV_STATUS.coord = 1 then s
  else
    let st := s.rcv.adopted
    let s := s.put F.RCV_STATUS.coord 1
    if st ≤ 1 then (s.put F.RCV_STATUS.cstate 1).coordRecover at_
    else ((s.put F.RCV_STATUS.cstate st).mapRcv fun r => { r with since := at_ }).reissue at_

end Sys2Proof.Machine
end

