-- ==== Sys2Proof/Machine/Tick.lean ====
section
/-! DEFINITION. Supersteps, barriers and the tick (R34-R63, R544): the release of a barrier group, readiness and holds, the
acceptance of a tick, emission, roles and takeover. -/

namespace Sys2Proof.Machine

/-! The die barrier (R36, R37). -/

def Tile.arrivedBar (t : Tile) : Bool := match t.run with
  | .atBarrier => true
  | .ended => true
  | _ => false

/-- BARRIER_RELEASE of a context's group on a die: in the 40th cycle after its last arrival the row maps and migrations
change and every member goes on. -/
def State.barrierRelease (s : State) (d c : Nat) : State :=
  let l := (s.members d c).map (·.2)
  if !(l.all fun p => (s.tile p).arrivedBar) || !(l.any fun p => decide ((s.tile p).run = .atBarrier)) then s else
  let cyc := (l.map fun p => (s.tile p).arrived).foldl max 0 + 40
  let rows := s.ldrRows d c
  let s := (s.applyStaged d rows (s.stagedBefore d cyc)).migsAt d rows fun x _ => x.ok
  let s := (s.members d c).foldl (fun s q =>
    let t := s.tile q.2
    if t.run = .atBarrier then s.onTileLow q.2 fun x =>
      (((x.perf 0x09 (cyc - t.arrived)).perf 0x01 (cyc - 1 - t.issued)).perf 0x0B t.xlen).map fun t => t.release cyc false
    else if t.run = .ended then s.mapTile q.2 fun t => t.release cyc true else s) s
  s.dieEvent d 0x47 1

/-! Readiness and holds (R40, R46-R48, R544). -/

/-- MODULE_READY: the fabric clock sees the tick-waits issued. -/
def State.moduleReadyAt (s : State) (at_ : Nat) : State := (s.reach at_).refreshReady.checkRelease at_

/-- HOLD_DEADLINE. -/
def State.holdDeadline (s : State) (at_ : Nat) : State :=
  let n := s.get F.TICK_NUMBER.number + 1
  if !s.tick.everTick || at_ ≠ s.tick.accepted + s.tick.period - s.effLead || s.moduleReady ||
      s.get F.TICK_STATUS.holding = 1 then s
  else
    let s := ((s.reach at_).put F.TICK_STATUS.holding 1).count F.TICK_CNT_HOLD.count 0xB 1
    let s := s.mapTick fun t => { t with heldFor := n, holdAt := at_ }
    if s.isMaster then s.holdMsg s.node n at_ true else s.toMasters { kind := 2, number := n }

/-- HOLD. -/
def State.holdIn (s : State) (at_ : Nat) : State :=
  match s.popTick 2 with
  | none => s
  | some (x, s) =>
    let s := if s.isMaster then s.add F.TICK_CNT_DOM_HOLD.count 1 else s
    (s.reach at_).holdMsg x.tOrigin x.tNumber at_ true

/-- RELEASE. -/
def State.releaseIn (s : State) (at_ : Nat) : State :=
  match s.popTick 3 with
  | none => s
  | some (x, s) => (s.reach at_).holdMsg x.tOrigin x.tNumber at_ false

/-! Emission (R45, R49, R50, R56). -/

/-- SCHEDULED_TIME: S(n + 1). -/
def State.scheduledTime (s : State) (at_ : Nat) : State :=
  if !s.isMaster || s.get F.TICK_STATUS.stopped = 1 || s.tick.halted || s.tick.delayed || at_ < s.scheduled then s
  else
    let s := s.reach at_
    if s.tick.stopPending then s.stopEmission
    else if s.holdsEmpty then s.emitTick at_
    else (s.mapTick fun t => { t with delayed := true }).add F.TICK_CNT_DELAYED.count 1

/-- HOLD_LIMIT_EXPIRY. -/
def State.holdExpiry (s : State) (at_ : Nat) : State :=
  if !s.isMaster || !s.tick.delayed || s.holdsEmpty || at_ ≤ s.scheduled + s.holdLimit then s
  else ((s.reach at_).emitRecover).coordRecover at_

/-- OVERRUN. -/
def State.overrunIn (s : State) (at_ : Nat) : State :=
  match s.popTick 9 with
  | none => s
  | some (_, s) =>
    let s := (s.reach at_).put F.TICK_STATUS.recovery 1
    if s.isMaster then s.emitRecover.coordRecover at_ else s

/-- RECOVER. -/
def State.recover (s : State) (at_ : Nat) : State :=
  match s.popTick 8 with
  | none => s
  | some (x, s) =>
    let s := (s.reach at_).recoverIn x
    (if s.isStandby then s.mapTick fun t => { t with frozen := true } else s).coordRecover at_

/-- RUN: a write of TICK_CTRL.run. A 0 written when tick n + 1 is already delayed past S(n + 1) lets that tick, or the RECOVER
for it, go and stops emission at the next scheduled time; while emission is halted after RECOVER a 0 stops nothing until
emission has resumed (DESIGN CHOICE, notes/assumptions/115: R56 speaks of a write before S(n + 1)). -/
def State.runWrite (s : State) (v at_ : Nat) : State :=
  let s := (s.reach at_).put F.TICK_CTRL.run (v % 2)
  if !s.isMaster then s
  else if s.get F.TICK_STATUS.stopped = 1 then (if v % 2 = 1 then s.emitTick at_ else s)
  else s.mapTick fun t => { t with stopPending := decide (v % 2 = 0) }

def State.tickReject (s : State) : State := s.put F.TICK_STATUS.cfg_reject 1

/-- TICK_NEXT_WRITE. -/
def State.tickNextWrite (s : State) (v : Nat) : State :=
  if s.isMaster && s.get F.TICK_STATUS.stopped = 1 then s.put F.TICK_NEXT.next v else s.tickReject

def periodOk (v : Nat) : Bool := decide (25000 ≤ v) && decide (v ≤ 12500000)
def limitOk (v : Nat) : Bool := decide (v ≤ 12500000)

/-- TICK_PERIOD_WRITE and TICK_HOLD_LIMIT_WRITE (R60). -/
def State.periodWrite (s : State) (v : Nat) : State :=
  if periodOk (v % 2 ^ 24) then s.put F.TICK_PERIOD.period_set v else s.tickReject
def State.limitWrite (s : State) (v : Nat) : State :=
  if limitOk (v % 2 ^ 24) then s.put F.TICK_HOLD_LIMIT.limit_set v else s.tickReject

/-! Acceptance of a tick (R42, R43, R52, R58, R61). -/

/-- A tile leaves tick-wait in cycle `c`. -/
def Tile.tickRelease (t : Tile) (c : Nat) : Tile :=
  { t with run := .running, tickRel := c, issued := c - 1, inPhase := false, phaseLen := 0, cyc := max t.cyc c }

/-- Step 4 of R42: the tiles that wait, but for those of overrun contexts. -/
def State.releaseTicks (s : State) (cyc : Nat → Nat) (held : Nat → Bool) : State :=
  (List.range 64).foldl (fun s c => if held c then s else
    (List.range 4).foldl (fun s d =>
      let rows := s.ldrRows d c
      if rows = 0 then s else
      let s := s.migsAt d rows fun _ t => decide (t.run = .atTickwait) && t.quiet
      (s.members d c).foldl (fun s q =>
        let t := s.tile q.2
        if t.run = .atTickwait then s.onTileLow q.2 fun x =>
          ((x.perf 0x0A (cyc d - t.arrived)).perf 0x01 (cyc d - 1 - t.issued)).map fun t => t.tickRelease (cyc d)
        else s) s) s) s

/-- The carried period and limit, or those that governed the interval just ended (R61). -/
def State.takePeriod (s : State) (p l : Nat) : State :=
  let ok := periodOk p && limitOk l
  let p := if ok then p else s.tick.period
  let l := if ok then l else s.tick.limit
  let s := if ok then s else s.add F.TICK_CNT_BADCFG.count 1
  ((s.put F.TICK_PERIOD.period_now p).put F.TICK_HOLD_LIMIT.limit_now l).mapTick fun t => { t with period := p, limit := l }

/-- R43: the contexts that a tick finds unready. -/
def State.overrun (s : State) (n : Nat) (late : List Nat) : State :=
  if late.isEmpty then s else
  let s := (s.count F.TICK_CNT_OVERRUN.count 9 1).put F.TICK_STATUS.recovery 1
  let s := s.mapTick fun t => { t with ovr := late.foldl (fun m c => m ||| 1#64 <<< c) t.ovr }
  let s := late.foldl (fun s c => s.ctxEvent 5 c) s
  s.toMasters { kind := 9, number := n }

/-- A tick is accepted at fc `at_`; die d's tiles go on in cycle `cyc d`. -/
def State.acceptTick (s : State) (x : Flit) (at_ : Nat) (cyc : Nat → Nat) : State :=
  let n := x.tNumber
  let was := s.get F.TICK_NUMBER.number
  let s := if was + 1 < n then s.count F.TICK_CNT_GAP.count 0xA 1 else s
  let s := if x.tMaster ≠ s.get F.TICK_PEERS.master_id then s.count F.TICK_CNT_ROLE.count 0xC 1 else s
  let newMaster := s.tick.tickMaster != some x.tMaster
  -- step 1
  let s := (s.put F.TICK_NUMBER.number n).takePeriod x.tPeriod x.tLimit
  let s := ((s.put F.TICK_PEERS.master_id x.tMaster).put F.TICK_PEERS.master_valid 1).put F.TICK_STATUS.paused (1 - x.tRun)
  let s := (s.put F.TICK_PEERS.standby_id x.tStandby).put F.TICK_PEERS.standby_valid x.tStandbyV.toNat
  let s := if s.isMaster then s else s.put F.TICK_STATUS.no_standby (1 - x.tStandbyV.toNat)
  let s := if s.isStandby then s.clearHolds.mapTick fun t => { t with frozen := false } else s
  let s := if s.get F.TICK_STATUS.holding = 1 then s.endHold at_ else s
  -- R43
  let late := (List.range 64).filter fun c => s.isBound c && !s.ctxReady c
  let s := s.overrun n late
  -- step 2
  let bind := BitVec.ofNat 64 (s.get F.TICK_CTX_BIND.bind)
  let s := s.mapTick fun t => { t with bindNow := bind, accepted := at_, heard := at_, everTick := true, tickMaster := some x.tMaster }
  -- steps 3 and 4
  let s := s.rebase (fun c => s.isBound c && !late.contains c && s.ctxWaits c && !s.tick.ovr.getLsbD c) n cyc
  let s := (s.releaseTicks cyc fun c => s.tick.ovr.getLsbD c).loseReady
  let s := s.resumeTick n at_
  if newMaster || n % 1024 = 0 then s.sendPing at_ else s

/-- A claimant that hears a master, or a standby of a master's naming, yields (R55). -/
def State.claimHears (s : State) (x : Flit) : State :=
  if x.tOrigin = s.node then s
  else if s.tick.claim = 2 then s.yieldClaim
  else if s.tick.claim = 1 && x.tKind = 1 && x.tStandbyV && x.tStandby ≠ s.node then s.yieldClaim
  else s

/-- TICK. -/
def State.tickIn (s : State) (at_ : Nat) (cyc : Nat → Nat) : State :=
  match s.popTick 1 with
  | none => s
  | some (x, s) =>
    let s := (s.reach at_).claimHears x
    let s := if s.isMaster && x.tMaster ≠ s.node && decide (s.tick.lastOut ≤ x.tNumber) then
        (s.demote.count F.TICK_CNT_ROLE.count 0xC 1).showCoord at_ else s
    let s := if x.tMaster = s.get F.TICK_PEERS.master_id then s.mapTick fun t => { t with heard := at_ } else s
    let s := s.mapTick fun t => { t with known := noteTick x.tNumber t.known }
    if x.tNumber ≤ s.get F.TICK_NUMBER.number then s.count F.TICK_CNT_DUP.count 0xA 1
    else s.acceptTick x at_ cyc

/-! Heartbeat and takeover (R57, R58). -/

/-- HEARTBEAT_TIMER. -/
def State.tickHeartbeat (s : State) : State :=
  match s.isMaster, s.standbyNode with
  | true, some n => s.tickTo { kind := 4, run := s.get F.TICK_CTRL.run, number := s.get F.TICK_NUMBER.number,
                               period := s.tick.ePeriod, limit := s.tick.eLimit } n
  | _, _ => s

/-- HEARTBEAT of the tick protocol. -/
def State.tickHeartbeatIn (s : State) (at_ : Nat) : State :=
  match s.popTick 4 with
  | none => s
  | some (x, s) =>
    let s := (s.reach at_).claimHears x
    let s := ((s.put F.TICK_PEERS.master_id x.tMaster).put F.TICK_PEERS.master_valid 1).put F.TICK_STATUS.paused (1 - x.tRun)
    s.mapTick fun t => { t with masterRun := x.tRun == 1, heard := at_ }

/-- MASTER_LOSS: the standby takes over. It carries on the emission that the last heartbeat showed; in a recovery the
emission waits for the resume (R372). -/
def State.masterLoss (s : State) (at_ : Nat) : State :=
  if !s.isStandby || at_ < s.tick.heard + s.tick.period then s else
  let n := s.get F.TICK_NUMBER.number
  let s := ((s.reach at_).put F.TICK_ROLE.role_now 2).count F.TICK_CNT_ROLE.count 0xC 1
  let run := s.tick.masterRun
  let recovering := s.rcvOn && decide (2 ≤ s.rcv.adopted)
  let s := (((s.put F.TICK_NEXT.next (n + 1)).put F.TICK_CTRL.run run.toNat).put F.TICK_STATUS.stopped (1 - run.toNat)).put
    F.TICK_STATUS.no_standby 1
  let s := s.mapTick fun t =>
    { t with tree := 1, emitted := t.accepted, ePeriod := t.period, eLimit := t.limit, claimFrom := none, delayed := false,
             stopPending := false, halted := recovering, lastOut := n }
  let s := s.tickAll { kind := 7, run := run.toNat, number := n, period := s.tick.period, limit := s.tick.limit } 1
  s.showCoord at_

/-- TAKEOVER. -/
def State.takeoverIn (s : State) (at_ : Nat) : State :=
  match s.popTick 7 with
  | none => s
  | some (x, s) =>
    if s.isMaster && x.tOrigin ≠ s.node then (s.demote.count F.TICK_CNT_ROLE.count 0xC 1).showCoord at_ else s

/-! Claims (R55). -/

def State.roleCount (s : State) : State := s.count F.TICK_CNT_ROLE.count 0xC 1

/-- CLAIM_MASTER. -/
def State.claimMasterIn (s : State) : State :=
  match s.popTick 5 with
  | none => s
  | some (x, s) =>
    if s.isMaster || s.isStandby then s.roleCount
    else if s.tick.claim = 2 && x.tOrigin < s.node then s.yieldClaim
    else s

/-- CLAIM_STANDBY: a claimant for mastership keeps the claim of the lowest node within its window; an established master
records a claim while it has no standby, and otherwise ignores and counts it. -/
def State.claimStandbyIn (s : State) (at_ : Nat) : State :=
  match s.popTick 6 with
  | none => s
  | some (x, s) =>
    let n := x.tOrigin
    let better := match s.tick.claimFrom with
      | none => true
      | some m => decide (n < m) && decide (at_ < s.tick.claimAt + claimWindow)
    if s.isStandby then s.roleCount
    else if s.isMaster then (if s.tick.claimFrom.isNone then s.recordStandby n at_ else s.roleCount)
    else if s.tick.claim = 1 && n < s.node then s.yieldClaim
    else if s.tick.claim = 2 && better then s.mapTick fun t => { t with claimFrom := some n }
    else s

/-- CLAIM_WINDOW_END. -/
def State.claimEnd (s : State) (at_ : Nat) : State :=
  if s.tick.claim = 0 || at_ < s.tick.claimAt + claimWindow then s else
  let role := s.tick.claim
  let s := ((s.reach at_).put F.TICK_ROLE.role_now role).mapTick fun t => { t with claim := 0, heard := at_, claimAt := at_ }
  let s := if role = 2 && s.tick.claimFrom.isSome then s.put F.TICK_STATUS.no_standby 0 else s
  s.showCoord at_

/-- ROLE_CFG_WRITE: locked by MOD_LOCK.tick_role. -/
def State.roleCfgWrite (s : State) (v at_ : Nat) : State :=
  let v := v % 4
  if s.locked 5 then s.lockViolation
  else if v = 3 then s.tickReject
  else if v = s.get F.TICK_ROLE.role_cfg then s
  else
    let s := (s.reach at_).put F.TICK_ROLE.role_cfg v
    let s := if s.isMaster then s.demote else s.clearHolds.put F.TICK_ROLE.role_now 0
    (if s.tick.trained then s.claimRole v at_ else s).showCoord at_

/-! Round trips (R59). -/

/-- PING, at the master. -/
def State.pingIn (s : State) : State :=
  match s.popTick 0xA with
  | none => s
  | some (x, s) =>
    if s.isMaster then
      s.inject 0 (Hdr.flit { kind := 7, vc := 3, dst := x.tOrigin, src := s.node } (x.bytes 0 28 + 1))
    else s

/-- ECHO. -/
def State.echoIn (s : State) (at_ : Nat) : State :=
  match s.popTick 0xB with
  | none => s
  | some (x, s) =>
    let rtt := (at_ % 2 ^ 32 + 2 ^ 32 - x.tStamp) % 2 ^ 32 % 2 ^ 24
    let s := (s.reach at_).put F.TICK_RTT.rtt_last rtt
    let s := s.put F.TICK_RTT.rtt_max (max rtt (s.get F.TICK_RTT.rtt_max))
    if s.effLead < rtt then s.put F.TICK_STATUS.lead_short 1 else s

end Sys2Proof.Machine
end

