-- ==== Sys2Proof/Machine/Perf.lean ====
section
/-! DEFINITION. Host reads of the registers (R14, R15, R19, R344, R463, R478, R479, R504, R521) and the performance block
(R461-R471). -/

namespace Sys2Proof.Machine

/-! What the host reaches (R476, R478, R521). -/

/-- Every rail group is up and the boot has ended stage 2. -/
def State.railsUp (s : State) : Bool := s.get F.PWR_STATUS.rails == 0x7F

/-- The module is READY. -/
def State.isReady (s : State) : Bool := s.get F.MOD_STATE.state == 1 && s.railsUp

/-- Whether BAR0 reaches the block of offset `a`: MOD and PWR from the end of stage 2, every other block once READY. -/
def State.reached (s : State) (a : Nat) : Bool :=
  s.isReady || (s.railsUp && decide (2 ≤ s.get F.MOD_STATE.stage) && (decide (a < 0x10000) || (decide (0x20000 ≤ a) && decide (a < 0x30000))))

/-- A host write of a register at offset `a` of the PF's BAR0. -/
def State.byHost (s : State) (a : Nat) (k : State → State) : State := if s.reached a then k s else s

/-- Where an access of BAR0 lands. -/
inductive Place where
  | module (a : Nat)
  | page (a : Nat)          -- a VF context page
  | table (func a : Nat)    -- an MSI-X table
  | pba (func a : Nat)
  | nowhere
  deriving DecidableEq, Repr

/-- The place of a BAR0 offset of function `func`: 0 the PF, v the VF v (R478, R479). The PF's MSI-X table is named by
`table`: the offset R484 gives it is that of the EAS block (notes/assumptions/22). -/
def place (func a : Nat) : Place :=
  if func = 0 then .module a
  else
    let c := func - 1
    if a < 0x10000 then .module (0x2000000 + 0x10000 * c + a)
    else if a < 0x11000 then .module (0x3000000 + 0x1000 * c + (a - 0x10000))
    else if a < 0x12000 then .page (0x1000 * c + (a - 0x11000))
    else if a < 0x12400 then .table func (a - 0x12000)
    else if a < 0x12408 then .pba func (a - 0x12400)
    else .nowhere

/-- Whether a function's access is performed: a VF's only while its context is ACTIVE (R476). -/
def State.funcLive (s : State) (func : Nat) : Bool := func == 0 || s.get (F.HCTX_STATUS.state (func - 1)) == 1

/-! Views. -/

/-- SYNW_VAL of a counter as the window shows it (R344). -/
def State.synwVal (s : State) (c v : Nat) : Word := match s.translate c v with
  | some (d, i, _) => BitVec.ofNat 64 (s.cval d i + (s.poisoned d i).toNat * 2 ^ 48 + 2 ^ 49)
  | none => 0

def State.synwAbs (s : State) (c v : Nat) : Word := match s.translate c v with
  | some (d, i, _) => s.absOf d i
  | none => 0

/-- Not one of the "other modules", on which the fields that only a master or standby uses read as their reset value:
the module is configured as a master or standby, or is one (DEDUCED, notes/assumptions/32). -/
def State.tickSender (s : State) : Bool := s.get F.TICK_ROLE.role_cfg != 0 || s.get F.TICK_ROLE.role_now != 0

/-- What a module register reads as, at fc `at_`. -/
def State.regView (s : State) (a at_ : Nat) : Word :=
  let w := s.word a
  let c := (a - 0x2000000) / 0x10000
  let o := (a - 0x2000000) % 0x10000
  if 0x2000000 ≤ a && a < 0x2400000 then
    (if o < 0x8000 then s.synwVal c (o / 8)
     else if o = 0x8008 then s.synwVal c (s.get (F.SYNW_SEL.vcid c))
     else if o = 0x8010 then s.synwAbs c (s.get (F.SYNW_SEL.vcid c))
     else w)
  else if a = F.TICK_PERIOD.period_set.addr then (if s.tickSender then w else w.setField 0 24 312500)
  else if a = F.TICK_HOLD_LIMIT.limit_set.addr then (if s.tickSender then w else w.setField 0 24 0)
  else if a = F.TICK_NEXT.next.addr then (if s.tickSender then w else 1)
  else if a = F.TICK_CTRL.run.addr || (0x10090 ≤ a && a < 0x100B0) then (if s.tickSender then w else 0)
  else if 0x10100 ≤ a && a < 0x10900 then (if s.isMaster || s.isStandby then w else 0)
  else if a = F.TICK_STATUS.ready.addr then
    (if s.isMaster then w.setField 3 1 (1 - s.get F.TICK_CTRL.run) else w).setField 32 32
      (if s.get F.TICK_STATUS.holding = 1 then min (2 ^ 32 - 1) (at_ - s.tick.holdAt) else 0)
  else if a = F.RCV_STEP.step.addr then (if s.get F.RCV_STATUS.coord = 1 then w else 0)
  else if a = (F.FAB_NODE.node_id 1).addr then s.word (F.FAB_NODE.node_id 0).addr
  else if 0x1000000 ≤ a && a < 0x1100000 && a % 0x80000 < 0x1800 && a % 0x100 = 0 && 16 ≤ a % 0x80000 / 0x100 then
    w.setField 0 1 1
  else if 0x1040000 ≤ a && a < 0x1100000 && 0x40000 ≤ a % 0x80000 && a % 0x20 = 0x18 then
    (match flowW3Of a with
     | some i => if s.flowKind i = 0 && s.flowState i ≠ 0 then 0 else w
     | none => w)
  else if 0x12000 ≤ a && a < 0x14000 && a % 0x80 = 0x50 then BitVec.ofNat 64 (s.mbsQdata ((a - 0x12000) / 0x80))
  else if 0x150200 ≤ a && a < 0x500000 && 0x50200 ≤ a % 0x100000 && a % 0x100000 < 0x50380 then
    BitVec.ofNat 64 (s.repRow (a / 0x100000 - 1) ((a % 0x100000 - 0x50200) / 8))
  else w

/-- What a VF's context page reads as (R504). -/
def State.pageView (s : State) (a : Nat) : Word :=
  let c := a / 0x1000
  let o := a % 0x1000
  if o = 0 then s.word (F.HCTX_STATUS.state c).addr
  else if 8 ≤ o && o < 0x28 then (SMap.getD s.vf a 0).setField 0 6 c
  else if 0x40 ≤ o && o < 0x60 then s.word (F.LDR_CTX_STATUS.state ((o - 0x40) / 8) c).addr
  else if 0x800 ≤ o then s.word (F.HBM_RGN.base ((o - 0x800) / 0x200) c ((o - 0x800) % 0x200 / 8)).addr
  else 0

/-! Reads (R14, R19, R463). -/

/-- The bits of a register that an access of `n` bytes at `a` reaches, or none for an access of another size (R14). -/
def accessMask (a n : Nat) : Option Word :=
  if n = 8 && a % 8 = 0 then some (BitVec.allOnes 64)
  else if n = 4 && a % 4 = 0 then some (if a % 8 = 0 then 0xFFFFFFFF#64 else 0xFFFFFFFF00000000#64)
  else none

/-- The counter above an even counter of a die set, and the set's HOLD register (R463). -/
def evenCounter (a : Nat) : Option (RF × RF) :=
  if 0x161000 ≤ a && a < 0x500000 && a % 0x100000 < 0x61200 && 0x61000 ≤ a % 0x100000 && a % 16 = 0 then
    let d := a / 0x100000 - 1
    some (F.DPC_CNT.count d ((a % 0x100000 - 0x61000) / 8 + 1), F.DPC_HOLD.hold d)
  else if 0x101A000 ≤ a && a < 0x1100000 && 0x1A000 ≤ a % 0x80000 && a % 0x80000 < 0x1A200 && a % 16 = 0 then
    let f := (a - 0x1000000) / 0x80000
    some (F.FPC_CNT.count f ((a % 0x80000 - 0x1A000) / 8 + 1), F.FPC_HOLD.hold f)
  else none

/-- The half that an access reads, as a number. -/
def halfOf (a n : Nat) (w : Word) : Nat :=
  if n = 8 then w.toNat else if a % 8 = 0 then w.toNat % 2 ^ 32 else w.toNat / 2 ^ 32

/-- A read of a module register: its value, and the state with RC fields cleared and HOLD copied. -/
def State.moduleRead (s : State) (a n at_ : Nat) : Nat × State :=
  match accessMask a n with
  | none => (0, s)
  | some m =>
    let b := a - a % 8
    match regFind moduleRegs b with
    | none => (0, s)
    | some r =>
      let v := halfOf a n (s.regView b at_)
      let s := if r.rc = 0 then s else s.setWord b (s.word b &&& ~~~ (BitVec.ofNat 64 r.rc &&& m))
      match evenCounter b with
      | some (up, hold) => (v, s.put hold (s.get up))
      | none => (v, s)

/-- A host read at a BAR0 offset of a function; its value stands in `host.rdata`. -/
def State.hostRead (s : State) (func a n at_ : Nat) : State :=
  if !s.funcLive func then (s.errc 3 1).answer 0 false else
  match place func a with
  | .module b =>
    if s.reached b then
      let (v, s) := s.moduleRead b n at_
      s.answer v false
    else s.answer 0 false
  | .page b => s.answer ((accessMask b n).elim 0 fun _ => halfOf b n (s.pageView (b - b % 8))) false
  | .table f b => s.answer ((accessMask b n).elim 0 fun _ => halfOf b n (s.msixWord f (b / 16) (b % 16 / 8))) false
  | .pba f b => s.answer ((accessMask b n).elim 0 fun _ => halfOf b n (BitVec.ofNat 64
      (maskOf fun k => s.host.pba.contains (f, 64 * (b / 8) + k)))) false
  | .nowhere => s.answer 0 false

/-- A read of an even counter of a tile's set by its program's scalar load or through the debug aperture (R463). -/
def State.tileEvenRead (s : State) (p j : Nat) : State :=
  let t := s.tile p
  (s.setTile p (t.put TF.TPC_HOLD.hold (t.get (TF.TPC_CNT.count (2 * j + 1))))).answer (t.get (TF.TPC_CNT.count (2 * j))) false

/-! The performance block (R470). -/

/-- PERF_TADDR_WRITE: the physical tile's registers are latched. A row or column that names no tile leaves zeros. -/
def State.perfTaddr (s : State) (v : Word) : State :=
  let d := v.field 0 2
  let r := v.field 2 6
  let c := v.field 8 6
  let s := s.setWord F.PERF_TADDR.die.addr (v &&& 0x3FFF#64)
  let t := if r < 48 && c < 34 then s.tile (physOf d r c) else Tile.fresh
  (List.range 9).foldl (fun s k =>
    s.put (F.PERF_TDATA.data k) (if k < 8 then t.get (TF.TPC_CNT.count k) else t.get TF.TPC_SEL.sel)) s

/-- PERF_HCLR_HBM. -/
def State.clearHbmHist (s : State) : State :=
  (List.range 4).foldl (fun s d => (List.range 6).foldl (fun s k =>
    s.clearRegs (F.HBM_SE_HROW.bin_lo d k 0).addr ((F.HBM_SE_HXFR.bin_lo d k 0).addr + 0x40)) s) s

/-- PERF_HCLR_SYNC. -/
def State.clearSyncHist (s : State) : State :=
  (List.range 4).foldl (fun s d => s.clearRegs (F.HST_SYNC.bin_lo d 0).addr ((F.HST_SYNC.bin_lo d 0).addr + 0x40)) s

/-- PERF_HCLR_FLOW. -/
def State.clearFlowHist (s : State) : State :=
  (List.range 2).foldl (fun s f => s.clearRegs (F.HST_FLOW.bin_lo f 0).addr ((F.HST_FLOW.bin_lo f 0).addr + 0x40)) s

end Sys2Proof.Machine
end

