-- ==== Sys2Proof/Machine/Reset.lean ====
section
/-! DEFINITION. What a cold reset, a module reset and a power-down do to the module (R252, R506, R507, R515, R534), and the
output pins (R513, R538). -/

namespace Sys2Proof.Machine

/-! What survives. -/

/-- Registers loaded from fuses, and the margins that Easel keeps in flash (R415, R496, R519). -/
def fusedReg (a : Nat) : Bool :=
  a == 0 || a == 8 || a == 0x30 || (decide (0x150000 ≤ a) && decide (a < 0x500000) &&
    (a % 0x100000 == 0x50000 || a % 0x100000 == 0x50040 || (decide (0x50100 ≤ a % 0x100000) && decide (a % 0x100000 < 0x50200))))

/-- REP_COMMIT after a reset: the slots used. A commit in progress at a module reset has consumed its slot, with
programmed clear (R429). -/
def fusedWord (a : Nat) (w : Word) : Word :=
  if 0x150000 ≤ a && a % 0x100000 = 0x50040 then
    let used := w.field 4 4 + w.field 1 1
    Word.setField 0 4 4 used
  else w

/-- The registers of the fuses as a reset leaves them. -/
def State.fuseRegs (s : State) : SMap Word :=
  (s.regs.filter fun q => fusedReg q.1).foldl (fun m q => rset moduleReset m q.1 (fusedWord q.1 q.2)) []

/-- The ports of a module that has left the domain: OFF, and dark from fc `at_` if they were lit. -/
def State.darkPorts (s : State) (at_ : Nat) : SMap Port :=
  s.fab.ports.foldl (fun m q =>
    SMap.put m q.1 { Port.fresh with darkAt := if q.2.lit then at_ else q.2.darkAt } Port.fresh) []

/-- Every granule of every stack. -/
def allDirty : SMap (List (Nat × Nat)) := (List.range 24).map fun k => (k, [(0, 32768)])

/-- R252: the granules that a module reset marks dirty; the Sketchbook and its mirror are kept. -/
def State.resetDirty (s : State) : SMap (List (Nat × Nat)) :=
  (List.range 24).foldl (fun m k =>
    SMap.put m k (ivAdd (SMap.getD s.hbm.dirty k []) 0 (if k = 0 || k = 23 then 32256 else 32768)) []) []

/-- Easel after a restart of the module: its flash is kept. -/
def EasSt.restart (e : EasSt) : EasSt :=
  { EasSt.fresh with slots := e.slots, fwA := e.fwA, fwB := e.fwB, fwNewB := e.fwNewB, mirror := e.mirror, log := e.log,
                     uart := e.uart }

/-- The module as a cold reset (`cold`) or a module reset leaves it at fc `at_`, in MOD_STATE BOOTING (R515). -/
def State.resetCore (s : State) (cold : Bool) (cause at_ : Nat) : State :=
  let s := s.reach at_
  let regs := s.fuseRegs
  let regs := rput moduleReset regs F.MOD_STATE.cause cause
  let regs := if cold then regs else
    (rput moduleReset (rput moduleReset regs F.MOD_PROFILE.next (s.get F.MOD_PROFILE.next)) F.MOD_PROFILE.next_v
      (s.get F.MOD_PROFILE.next_v))
  let regs := if cold then regs else rput moduleReset regs F.PWR_STATUS.rails (s.get F.PWR_STATUS.rails)
  let hbm : HbmSt := if cold then ⟨[], [], [], allDirty, [], [], []⟩ else { s.hbm with dirty := s.resetDirty, xfers := [], accepts := [], turns := [] }
  let pwr : PwrSt := { PwrSt.fresh with vaux := s.pwr.vaux, vmain := s.pwr.vmain, held := s.pwr.held,
                                        therm := s.pwr.therm && !cold, cold := cold, stageAt := at_ }
  { s with
    regs := regs, vf := [], tiles := [], errcPending := [], tick := TickSt.fresh,
    fab := { FabSt.fresh with ports := s.darkPorts at_ }, hbm := hbm, syn := ⟨[], [], [], []⟩, train := ⟨[], [], []⟩,
    rep := { RepSt.fresh with vol := s.rep.vol, prov := s.rep.prov },
    host := ⟨s.host.out, [], [], false, s.host.rdata, s.host.rpois, [], 0, 1⟩, bld := ⟨[], [], [], [], []⟩,
    vrn := ⟨[], [], [], []⟩, rcv := RcvSt.fresh, ldr := [], eas := s.eas.restart, pwr := pwr }

/-- A module reset (R515): cause 1 MOD_RESET_N, 2 MOD_CMD, 3 the MODULE_RESET command. From FAILED the rails are sequenced
again from group 1 (R508). -/
def State.resetModule (s : State) (cause at_ : Nat) : State :=
  let r := s.resetCore false cause at_
  if s.get F.MOD_STATE.state = 2 then r.put F.PWR_STATUS.rails 0 else r

/-- A cold reset (R515), once both inputs are good. -/
def State.resetCold (s : State) (at_ : Nat) : State := s.resetCore true 0 at_

/-- The registers that Easel's own rail keeps: MOD, PWR, ERRC and EAS. -/
def vauxReg (a : Nat) : Bool :=
  decide (a < 0x10000) || (decide (0x20000 ≤ a) && decide (a < 0x40000)) || (decide (0x60000 ≤ a) && decide (a < 0x70000))

/-- Groups 7 to 1 are down: everything on them is lost (R506, R507); Easel stays. -/
def State.powerDown (s : State) (at_ : Nat) : State :=
  let w := s.resetCore true 0 at_
  let regs := (s.regs.filter fun q => vauxReg q.1).foldl (fun m q => rset moduleReset m q.1 q.2) w.regs
  let w := { w with regs := regs, errcPending := s.errcPending, eas := s.eas,
                    pwr := { s.pwr with group := 0, clocks := false, dies := List.replicate 4 DieClk.fresh } }
  let w := w.put F.PWR_STATUS.rails 0
  (List.range 4).foldl (fun w d => (w.put (F.PWR_DIE_CLK.now d) 0).put (F.PWR_DIE_CLK.stretch d) 0) w

/-! Pins. -/

/-- LASER_REQ_W_N and LASER_REQ_E_N are asserted (R538). -/
def State.laserReq (s : State) : Bool :=
  (s.get F.PWR_STATUS.rails).testBit 6 && s.get F.MOD_STATE.state != 2 && s.pwr.vaux

/-- THERMTRIP_N is asserted (R513, R534). -/
def State.thermtrip (s : State) : Bool := s.pwr.therm && s.pwr.vaux

end Sys2Proof.Machine
end

