-- ==== Sys2Proof/Machine/Easel.lean ====
section
/-! DEFINITION. Easel (R485-R497): boot profiles, locks, the management bus, the host mailbox and the console. -/

namespace Sys2Proof.Machine

/-! Boot profiles (R492-R494). -/

/-- Bytes `b` to `b + n - 1` of a profile. -/
def profBytes (p : BitVec 4096) (b n : Nat) : Nat := (p.extractLsb' (8 * b) (8 * n)).toNat

def profFlags (p : BitVec 4096) : Nat := profBytes p 5 1
def profDebug (p : BitVec 4096) : Bool := (profFlags p).testBit 0
def profConsole (p : BitVec 4096) : Bool := (profFlags p).testBit 1
def profKeepLink (p : BitVec 4096) : Bool := (profFlags p).testBit 2
def profRole (p : BitVec 4096) : Nat := profBytes p 6 1
def profPorts (p : BitVec 4096) : Nat := profBytes p 8 4
def profNode (p : BitVec 4096) : Nat := profBytes p 12 2
def profLocks (p : BitVec 4096) : Nat := profBytes p 14 1

/-- CRC-32 of IEEE 802.3 over bytes 0 to `n - 1`. -/
def profCrc (p : BitVec 4096) (n : Nat) : Nat := crc32 ((List.range n).map fun i => profBytes p i 1)
def profCrcOk (p : BitVec 4096) : Bool := profCrc p 508 == profBytes p 508 4

/-- The bytes and bits that R492 gives as zero are zero, and the role byte is in range. -/
def profFieldsOk (p : BitVec 4096) : Bool :=
  decide (profRole p ≤ 2) && decide (profFlags p < 8) && !(profNode p).testBit 14 && profBytes p 7 1 == 0 &&
    profBytes p 15 493 == 0

/-- R493, rule 3. -/
def profOk (p : BitVec 4096) : Bool :=
  profBytes p 0 4 == 0x46504B4B && profBytes p 4 1 == 1 && profCrcOk p && profFieldsOk p

/-- The built-in profile: member role, every port enabled, no node ID, no debug, no locks. -/
def profBuiltIn : BitVec 4096 := BitVec.ofNat 4096 (0x46504B4B + 2 ^ 32 + 0xFFFFFFFF * 2 ^ 64)

/-- The slot's content: its newer valid copy. -/
def ProfSlot.content (x : ProfSlot) : BitVec 4096 :=
  let new := if x.newB then x.b else x.a
  let old := if x.newB then x.a else x.b
  if profOk new then new else if profOk old then old else new

/-- The older copy is written and becomes the newer. -/
def ProfSlot.write (x : ProfSlot) (p : BitVec 4096) : ProfSlot :=
  if x.newB then { x with a := p, newB := false } else { x with b := p, newB := true }

def State.mapEas (s : State) (g : EasSt → EasSt) : State := { s with eas := g s.eas }
def State.profSlot (s : State) (k : Nat) : ProfSlot := s.eas.slots.getD k ⟨0, 0, false⟩

/-- The rewrites of a slot, MOD_FUSECNT.rw0 to rw3. -/
def rewritesF (k : Nat) : RF := ⟨0x30, 8 + 9 * k, 9⟩

/-! Fuses (R496). -/

/-- The fuse counters in the order of the mirror: the security version, the rewrites of slots 0 to 3, the repair commits of
the dies. -/
def State.fuseCounts (s : State) : List Nat :=
  s.get F.MOD_FUSECNT.svn :: ((List.range 4).map fun k => s.get (rewritesF k)) ++ (List.range 4).map fun d => s.get (F.REP_COMMIT.used d)

/-- Easel's mirror follows the fuses. -/
def State.mirrorFuses (s : State) : State := s.mapEas fun e => { e with mirror := s.fuseCounts }

/-! Locks (R495). -/

/-- MOD_LOCK bits are set; debug's setting clears MOD_DBG.open. -/
def State.setLocks (s : State) (m : Nat) : State :=
  let s := s.put F.MOD_LOCK.lock (s.get F.MOD_LOCK.lock ||| (m % 64))
  if s.locked 1 then s.put F.MOD_DBG.open 0 else s

/-! Frames (R487). -/

/-- CRC-8 of polynomial 0x07. -/
def crc8Step (v : Nat) : Nat := if 128 ≤ v then (2 * v % 256) ^^^ 0x07 else 2 * v
def crc8 (l : List Nat) : Nat := l.foldl (fun c b => (List.range 8).foldl (fun v _ => crc8Step v) (c ^^^ (b % 256))) 0

/-- Bytes as a number, low first, and a number's bytes. -/
def bytesNat (l : List Nat) : Nat := l.foldr (fun b v => b % 256 + 256 * v) 0
def natBytes (v n : Nat) : List Nat := (List.range n).map fun k => v / 256 ^ k % 256

/-- The statuses of R489. -/
def EasStatus.ok : Nat := 0
def EasStatus.badCmd : Nat := 2
def EasStatus.badLen : Nat := 3
def EasStatus.range : Nat := 4
def EasStatus.locked : Nat := 5
def EasStatus.limit : Nat := 6
def EasStatus.crc : Nat := 7
def EasStatus.verify : Nat := 8
def EasStatus.timeout : Nat := 9

/-- The request payload's length of each command. -/
def easLen (code : Nat) : Option Nat := match code with
  | 0x01 => some 0 | 0x02 => some 0 | 0x03 => some 2 | 0x04 => some 2 | 0x05 => some 4 | 0x06 => some 1 | 0x07 => some 129
  | 0x08 => some 5 | 0x09 => some 2 | 0x0A => some 1 | 0x0B => some 1 | 0x0C => some 132 | 0x0D => some 8 | 0x0E => some 1
  | _ => none

/-- The MOD_LOCK bit that locks each command. -/
def easLock (code : Nat) : Option Nat := match code with
  | 0x06 => some 0 | 0x07 => some 0 | 0x08 => some 0 | 0x0C => some 2 | 0x0D => some 2 | 0x0E => some 2
  | _ => none

/-- The commands that Easel answers in safe mode (R486). -/
def easSafe (code : Nat) : Bool := [0x01, 0x02, 0x03, 0x04, 0x05, 0x0C, 0x0D].contains code

/-! Sensors (R499). -/

/-- The model's sensors: 32 * die + 0 to 15 the die's, 16 to 21 its stacks; 128 to 131 fabric die W's, 132 to 135 E's; 136
VMAIN's voltage, 137 its current, 138 VAUX. -/
def sensorCount : Nat := 139

def State.sensor (s : State) (k : Nat) : Sensor := SMap.getD s.eas.sensors k Sensor.fresh
def State.setSensor (s : State) (k : Nat) (x : Sensor) : State :=
  s.mapEas fun e => { e with sensors := SMap.put e.sensors k x Sensor.fresh }

/-- A reading is plausible: in the sensor's range, and within its slew limit of the last good reading. -/
def State.plausible (s : State) (k v : Nat) : Bool :=
  decide (Config.sensorLo k ≤ v) && decide (v ≤ Config.sensorHi k) &&
    match (s.sensor k).good with
    | some g => decide (max g v - min g v ≤ Config.sensorSlew k)
    | none => true

/-- A reading: a bad one is discarded and counted, and the third in a row fails the sensor until the next reset. -/
def State.reading (s : State) (k v : Nat) : State :=
  let x := s.sensor k
  if s.plausible k v then s.setSensor k { x with good := some v, bad := 0 }
  else (s.setSensor k { x with bad := x.bad + 1, failed := x.failed || decide (3 ≤ x.bad + 1) }).errc 4 1

/-! The commands (R488). -/

/-- The firmware staged, as an image of a length. -/
def State.stagedFw (s : State) (len : Nat) : FwImage := ⟨s.eas.fwStage, len⟩

def FwImage.byte (x : FwImage) (i : Nat) : Nat := ((SMap.getD x.data (i / 128) 0).extractLsb' (8 * (i % 128)) 8).toNat
def FwImage.security (x : FwImage) : Nat := (Config.fwSecurity x.data x.len).val

/-- Whether Easel may boot an image (R485). -/
def FwImage.boots (x : FwImage) (svn : Nat) : Bool := Config.fwVerifies x.data x.len && decide (svn ≤ x.security)

/-- What a command does: the state, the status and the response payload. -/
abbrev EasOut := State × Nat × List Nat

def State.easOk (s : State) (l : List Nat) : EasOut := (s, EasStatus.ok, l)
def State.easNo (s : State) (st : Nat) : EasOut := (s, st, [])

def State.regBytes (s : State) (l : List Nat) : List Nat := l.flatMap fun a => natBytes (s.word a).toNat 8

def State.getId (s : State) : EasOut := s.easOk (s.regBytes [0x00, 0x08, 0x38])
def State.getStatus (s : State) : EasOut := s.easOk (s.regBytes [0x28, 0x10, 0x18, 0x30])

def State.getSensor (s : State) (p : List Nat) : EasOut :=
  let k := Config.sensorKey (bytesNat p)
  if sensorCount ≤ k then s.easNo EasStatus.range
  else
    let x := s.sensor k
    s.easOk (natBytes (x.good.getD 0) 4 ++ [(x.good.isSome && x.bad == 0 && !x.failed).toNat + 2 * x.failed.toNat])

def State.getErrc (s : State) (p : List Nat) : EasOut :=
  let i := bytesNat p
  if 512 ≤ i then s.easNo EasStatus.range else s.easOk (natBytes (s.get (F.ERRC_CNT.count i)) 8)

def State.readLog (s : State) (p : List Nat) : EasOut :=
  let o := bytesNat p
  if o % 128 ≠ 0 then s.easNo EasStatus.range else s.easOk (natBytes (Config.logBytes s.eas.log o).toNat 128)

def State.setNext (s : State) (p : List Nat) : EasOut :=
  let k := bytesNat p
  if 4 ≤ k then s.easNo EasStatus.range else ((s.put F.MOD_PROFILE.next k).put F.MOD_PROFILE.next_v 1).easOk []

def State.stageProfile (s : State) (p : List Nat) : EasOut :=
  let o := p.headD 0 % 256
  if 4 ≤ o then s.easNo EasStatus.range
  else
    let lo := 1024 * o
    let m : BitVec 4096 := BitVec.ofNat 4096 ((2 ^ 1024 - 1) * 2 ^ lo)
    (s.mapEas fun e =>
      { e with stage := (e.stage &&& ~~~ m) ||| BitVec.ofNat 4096 (bytesNat (p.drop 1) * 2 ^ lo) }).easOk []

/-- R494. -/
def State.commitProfile (s : State) (p : List Nat) : EasOut :=
  let k := p.headD 0 % 256
  let c := s.eas.stage
  if 4 ≤ k || (profDebug c && k == 0) || !profFieldsOk c then s.easNo EasStatus.range
  else if profCrc c 512 ≠ bytesNat (p.drop 1) || !profCrcOk c then s.easNo EasStatus.crc
  else if 256 ≤ s.get (rewritesF k) then s.easNo EasStatus.limit
  else
    let s := s.mapEas fun e => { e with slots := e.slots.set k ((s.profSlot k).write c) }
    ((s.put (rewritesF k) (s.get (rewritesF k) + 1)).mirrorFuses).easOk []

def State.readProfile (s : State) (p : List Nat) : EasOut :=
  let k := p.headD 0 % 256
  let o := (p.drop 1).headD 0 % 256
  if 4 ≤ k || 4 ≤ o then s.easNo EasStatus.range
  else s.easOk (natBytes (profBytes (s.profSlot k).content (128 * o) 128) 128)

def State.setLock (s : State) (p : List Nat) : EasOut :=
  let s := s.setLocks (bytesNat p)
  s.easOk [s.get F.MOD_LOCK.lock]

def State.moduleResetCmd (s : State) (p : List Nat) : EasOut :=
  if bytesNat p = 0xA5 then s.easOk [] else s.easNo EasStatus.range

/-- The size of a firmware image area. -/
def fwArea : Nat := 2 ^ 26

def State.stageFw (s : State) (p : List Nat) : EasOut :=
  let o := bytesNat (p.take 4)
  if o % 128 ≠ 0 || fwArea ≤ o then s.easNo EasStatus.range
  else (s.mapEas fun e =>
    { e with fwStage := SMap.put e.fwStage (o / 128) (BitVec.ofNat 1024 (bytesNat (p.drop 4))) 0 }).easOk []

/-- COMMIT_FW: the staged image replaces the older of A and B. -/
def State.commitFw (s : State) (p : List Nat) : EasOut :=
  let len := bytesNat (p.take 4)
  if fwArea < len then s.easNo EasStatus.range else
  let x := s.stagedFw len
  if crc32 ((List.range len).map x.byte) ≠ bytesNat (p.drop 4) then s.easNo EasStatus.crc
  else if !x.boots (s.get F.MOD_FUSECNT.svn) then s.easNo EasStatus.verify
  else (s.mapEas fun e =>
    if e.fwNewB then { e with fwA := x, fwNewB := false } else { e with fwB := x, fwNewB := true }).easOk []

def State.advanceSvn (s : State) (p : List Nat) : EasOut :=
  let v := bytesNat p
  if v ≤ s.get F.MOD_FUSECNT.svn then s.easOk []
  else if 64 < v then s.easNo EasStatus.limit
  else if s.eas.svn < v then s.easNo EasStatus.verify
  else ((s.put F.MOD_FUSECNT.svn v).mirrorFuses).easOk []

def State.easRun (s : State) (code : Nat) (p : List Nat) : EasOut := match code with
  | 0x01 => s.getId
  | 0x02 => s.getStatus
  | 0x03 => s.getSensor p
  | 0x04 => s.getErrc p
  | 0x05 => s.readLog p
  | 0x06 => s.setNext p
  | 0x07 => s.stageProfile p
  | 0x08 => s.commitProfile p
  | 0x09 => s.readProfile p
  | 0x0A => s.setLock p
  | 0x0B => s.moduleResetCmd p
  | 0x0C => s.stageFw p
  | 0x0D => s.commitFw p
  | 0x0E => s.advanceSvn p
  | _ => s.easNo EasStatus.badCmd

/-- A command with its checks: the code and safe mode, the length, the lock, then the command's own (R486, R488, R489). -/
def State.easChecked (s : State) (code len : Nat) (p : List Nat) : EasOut :=
  if (easLen code).isNone || (s.get F.MOD_EAS.safe = 1 && !easSafe code) then s.easNo EasStatus.badCmd
  else if easLen code ≠ some len then s.easNo EasStatus.badLen
  else if (easLock code).any s.locked then s.easNo EasStatus.locked
  else s.easRun code p

/-- R489: every status but OK and BUSY is counted, and written to the console. -/
def State.countStatus (s : State) (st : Nat) : State :=
  if st ≤ 1 then s
  else (if st = EasStatus.locked then s.errc 0 1 else s.errc 3 1).mapEas fun e => { e with uart := e.uart ++ [[st]] }

/-- Whether Easel runs at fc `at_`: it is powered, not held in reset, past its boot stage and not restarting (R486). -/
def State.easUp (s : State) (at_ : Nat) : Bool :=
  s.pwr.vaux && !s.pwr.held && decide (1 ≤ s.get F.MOD_STATE.stage) && decide (s.eas.back ≤ at_)

/-- The response stands on the management bus (R487). -/
def State.busAnswer (s : State) (st tag : Nat) (r : List Nat) : State :=
  let f := [st, r.length, tag] ++ r
  s.mapEas fun e => { e with resp := f ++ [crc8 f] }

/-- The response stands in EAS_DATA (R489). -/
def State.mailAnswer (s : State) (st tag : Nat) (r : List Nat) : State :=
  let s := (List.range 32).foldl (fun s j =>
    if 8 * j < r.length then
      s.setWord (F.EAS_DATA.data j).addr (BitVec.ofNat 64 (bytesNat ((r.drop (8 * j)).take 8) +
        (if r.length < 8 * j + 8 then (s.word (F.EAS_DATA.data j).addr).toNat / 256 ^ (r.length - 8 * j) *
          256 ^ (r.length - 8 * j) else 0)))
    else s) s
  let s := ((s.put F.EAS_STATUS.busy 0).put F.EAS_STATUS.done 1).put F.EAS_STATUS.status st
  let s := ((s.put F.EAS_STATUS.tag tag).put F.EAS_STATUS.rlen r.length).mapEas fun e => { e with mail := none }
  if s.get F.EAS_CFG.msix_en = 1 then s.msix 0 (s.get F.EAS_CFG.vector) else s

/-- The payload that stands in EAS_DATA. -/
def State.mailPayload (s : State) (len : Nat) : List Nat :=
  (List.range len).map fun i => (s.word (F.EAS_DATA.data (i / 8)).addr).toNat / 256 ^ (i % 8) % 256

/-- After MODULE_RESET's response the module resets (R488). -/
def State.thenReset (s : State) (code st at_ : Nat) : State :=
  if code = 0x0B && st = EasStatus.ok then s.resetModule 3 at_ else s

/-- A command of the management bus at fc `at_`. -/
def State.busCommand (s : State) (code tag : Nat) (p : List Nat) (crc at_ : Nat) : State :=
  if !s.easUp at_ then s else
  let (s, st, r) := if crc8 ([code, p.length, tag] ++ p) ≠ crc then s.easNo EasStatus.crc
    else s.easChecked code p.length p
  ((s.countStatus st).busAnswer st tag r).thenReset code st at_

/-- The mailbox command in progress, when its code is `code`. -/
def State.mailCommand (s : State) (code at_ : Nat) : State :=
  if !s.easUp at_ then s else
  match s.eas.mail with
  | some (c, len, tag) =>
    if c ≠ code then s else
    let (s, st, r) := s.easChecked code len (s.mailPayload (min len 132))
    ((s.countStatus st).mailAnswer st tag r).thenReset code st at_
  | none => s

/-- A write of EAS_CMD (R489). A code that R488 does not list is answered at once. -/
def State.mailStart (s : State) (v : Word) : State :=
  if s.get F.EAS_STATUS.busy = 1 then s.errc 3 1
  else
    let code := v.field 0 8
    let s := (s.put F.EAS_STATUS.busy 1).mapEas fun e => { e with mail := some (code, v.field 8 8, v.field 16 8) }
    if (easLen code).isSome then s
    else (s.countStatus EasStatus.badCmd).mailAnswer EasStatus.badCmd (v.field 16 8) []

/-- MAILBOX_TIMEOUT. -/
def State.mailTimeout (s : State) : State := match s.eas.mail with
  | some (_, _, tag) => (s.countStatus EasStatus.timeout).mailAnswer EasStatus.timeout tag []
  | none => s

/-- SETDASA and ENTDAA: an address is assigned (R487). -/
def State.assignAddress (s : State) (a at_ : Nat) : State :=
  if s.easUp at_ then s.mapEas fun e => { e with dyn := some (a % 128) } else s

/-- TRANSACTION_TIMEOUT: the transaction is abandoned and counted (R487). -/
def State.busTimeout (s : State) (at_ : Nat) : State := if s.easUp at_ then s.errc 2 1 else s

/-! The console (R490). -/

def hexDigit (c : Nat) : Option Nat :=
  if 48 ≤ c && c ≤ 57 then some (c - 48) else if 65 ≤ c && c ≤ 70 then some (c - 55)
  else if 97 ≤ c && c ≤ 102 then some (c - 87) else none

/-- A line's bytes in hexadecimal, blanks between them left out. -/
def hexBytes : List Nat → Option (List Nat)
  | [] => some []
  | [c] => if c = 32 then some [] else none
  | a :: b :: l =>
    if a = 32 then hexBytes (b :: l)
    else match hexDigit a, hexDigit b with
      | some x, some y => (hexBytes l).map fun r => (16 * x + y) :: r
      | _, _ => none

/-- CONSOLE_LINE: a line of characters. -/
def State.consoleLine (s : State) (line : List Nat) (at_ : Nat) : State :=
  if !s.easUp at_ then s
  else if 256 < line.length then s.errc 3 1
  else if !profConsole s.eas.prof || s.locked 1 then s
  else
    let l := hexBytes line
    let code := (l.getD []).headD 0
    let p := (l.getD []).drop 1
    let (s, st, r) := if l.isNone || (l.getD []).isEmpty then s.easNo EasStatus.badCmd else s.easChecked code p.length p
    ((s.countStatus st).mapEas fun e => { e with uart := e.uart ++ [st :: r] }).thenReset code st at_

/-! The watchdog (R486). -/

/-- A repair commit that a restart interrupts leaves its slot consumed, with programmed clear (R429). -/
def State.cutCommits (s : State) : State :=
  (List.range 4).foldl (fun s d => if s.get (F.REP_COMMIT.busy d) = 0 then s
    else (s.put (F.REP_COMMIT.busy d) 0).put (F.REP_COMMIT.used d) (s.get (F.REP_COMMIT.used d) + 1))
    { s with rep := { s.rep with commit := [] } }

/-- Easel runs its recovery image, in safe mode. -/
def State.runRecovery (s : State) : State :=
  ((s.put F.MOD_EAS.safe 1).put F.MOD_EAS.fw Config.recoveryVersion.toNat).mapEas fun e =>
    { e with svn := Config.recoverySecurity.val }

/-- WATCHDOG_EXPIRY at fc `at_`: Easel restarts alone within 2 s; three expiries within 600 s lead to safe mode. -/
def State.watchdog (s : State) (at_ : Nat) : State :=
  if !s.easUp at_ then s else
  let (v, s) := s.fresh64
  let s := (s.reach at_).errc 5 1
  let s := s.put F.MOD_EAS.wd_count (min 255 (s.get F.MOD_EAS.wd_count + 1))
  let l := (s.eas.wd ++ [at_]).filter fun t => decide (at_ < t + fcMs 600000 + 1)
  let s := (s.mapEas fun e => { e with wd := l, back := at_ + v.toNat % (fcMs 2000 + 1) }).cutCommits.mirrorFuses
  if 3 ≤ l.length then s.runRecovery else s

end Sys2Proof.Machine
end

