-- ==== Sys2Proof/Machine/HostIf.lean ====
section
/-! DEFINITION. The PCIe side (R472-R484, R498, R517): link events, contexts, requests that reach nothing, the debug
aperture. -/

namespace Sys2Proof.Machine

/-! Link events (R475). -/

/-- Host-facing registers take their Reset values; Easel writes keep_link from the profile in force. -/
def State.hostDefaults (s : State) : State :=
  let s := ((s.clearRegs 0x50000 0x50001).clearRegs 0x50010 0x50011).clearRegs 0x50100 0x50180
  let s := (List.range 64).foldl (fun s c => s.clearRegs (0x50400 + 0x10 * c) (0x50400 + 0x10 * c + 1)) s
  let s := (s.clearRegs 0x60010 0x60011).clearRegs 0x32040 0x32058
  { s with host := { s.host with msix := [], pba := [], bme := false } }.put F.HOST_CFG.keep_link
    (profKeepLink s.eas.prof).toNat

/-- A link-down event, a hot reset or a Function Level Reset of the PF. -/
def State.linkEvent (s : State) (at_ cyc : Nat) : State :=
  let s := s.reach at_
  (if s.get F.HOST_CFG.keep_link = 0 then s.resetAll at_ cyc else s).hostDefaults

/-- HOST_STATUS shows the link. -/
def State.showLink (s : State) (speed width : Nat) (flit : Bool) : State :=
  ((s.put F.HOST_STATUS.speed speed).put F.HOST_STATUS.width width).put F.HOST_STATUS.flit flit.toNat

/-- LINK_DOWN. -/
def State.linkDown (s : State) (at_ cyc : Nat) : State :=
  if s.get F.HOST_STATUS.speed = 0 then s else
  ((s.showLink 0 0 false).put F.HOST_STATUS.downs ((s.get F.HOST_STATUS.downs + 1) % 2 ^ 32)).linkEvent at_ cyc

/-- LINK_UP: the link trains with its rate, width and flit mode; the host sets Bus Master Enable and enables VFs 1 to
`vfs`. What was pending is sent (R473). -/
def State.linkUp (s : State) (speed width : Nat) (flit bme : Bool) (vfs : Nat) : State :=
  if !(s.railsUp && decide (2 ≤ s.get F.MOD_STATE.stage)) then s else
  let s := { s.showLink speed width flit with host := { s.host with bme := bme } }
  ((List.range 64).foldl (fun s c => s.put (F.HCTX_STATUS.vf_en c) (decide (c < vfs)).toNat) s).sendPending

/-- PERST_N: a hot reset, after which the link retrains (R517). -/
def State.perst (s : State) (at_ cyc : Nat) : State := (s.linkEvent at_ cyc).showLink 0 0 false

/-- FUNCTION_LEVEL_RESET: of the PF (0), or of VF v. -/
def State.funcReset (s : State) (func at_ cyc : Nat) : State :=
  if func = 0 then s.linkEvent at_ cyc else s.ctxReset (func - 1) at_ cyc false

/-- POISONED_WRITE_REQUEST: discarded and counted; AER records a poisoned TLP (bit 12). -/
def State.poisonedWrite (s : State) : State :=
  { s with host := { s.host with aer := s.host.aer ||| 0x1000#32 } }.errc 3 1

/-- UNSUPPORTED_REQUEST: AER records it (bit 20). -/
def State.unsupported (s : State) : State := { s with host := { s.host with aer := s.host.aer ||| 0x100000#32 } }

/-- A host command on HCTX_CTL: rejected and counted until READY (R499, R521). -/
def State.hostCommand (s : State) (k : State → State) : State := if s.isReady then k s else s.errc 3 1

/-! The debug aperture (R498). -/

/-- The aperture is open. -/
def State.debugOpen (s : State) : Bool := s.get F.MOD_PROFILE.debug == 1 && s.get F.MOD_DBG.open == 1

/-- What a part of an access reads, with the tile after it: `v` the data of a write. -/
structure DbgOut where
  val : Nat
  pois : Bool
  tile : TW

/-- A part of an access in the Palette: `n` bytes of one row at `a` (R108, R483). -/
def TW.debugPal (x : TW) (c a n : Nat) (v : Option Nat) : DbgOut :=
  let (c', y) := x.edgeClaim c (bankOf a) 0
  let y := (y.perf 0x15 1).commitStores c'
  match v with
  | some d => ⟨0, false, (y.commitBefore c' (bankOf a)).writeRaw a n d (List.replicate (segsOf a n) false) (segsOf a n)⟩
  | none => let (b, y) := y.readRaw a n; ⟨b.v, b.anyPoison, y⟩

/-- The parts of an access, one a Palette row. -/
def TW.debugRows (x : TW) (c a n : Nat) (v : Option Nat) : Nat → DbgOut
  | 0 => ⟨0, false, x⟩
  | k + 1 =>
    if n = 0 then ⟨0, false, x⟩ else
    let m := min n (64 - a % 64)
    let o := x.debugPal c a m (v.map (· % 256 ^ m))
    let r := o.tile.debugRows c (a + m) (n - m) (v.map (· / 256 ^ m)) k
    ⟨o.val + 256 ^ m * r.val, o.pois || r.pois, r.tile⟩

/-- An access of a tile in cycle `c`. The program's own gates of its counter registers do not apply to the host. -/
def TW.debug (x : TW) (c a n : Nat) (v : Option Nat) : DbgOut :=
  let e := x.env
  let x := { x with env := { e with perf := 7 } }
  let back (o : DbgOut) : DbgOut := { o with tile := { o.tile with env := e } }
  match regionOf a with
  | .palette => back (x.debugRows c a n v (n / 64 + 2))
  | .regs => match v with
    | some d => back ⟨0, false, x.regWrite c (a - 0x200000) n d⟩
    | none => let (w, y) := x.regRead c (a - 0x200000) n; back ⟨w, false, y⟩
  | .acc =>
    if (n ≠ 4 && n ≠ 8) || a % n ≠ 0 then back ⟨0, false, x⟩ else
    let i := (a - 0x300000) / 4
    let (_, y) := x.accGrant c (i / 1024) 4
    (match v with
     | some d => back ⟨0, false, y.map fun t =>
         let t := t.setAcc i (BitVec.ofNat 32 d)
         if n = 8 then t.setAcc (i + 1) (BitVec.ofNat 32 (d / 2 ^ 32)) else t⟩
     | none => back ⟨(y.t.accAt i).toNat + (if n = 8 then (y.t.accAt (i + 1)).toNat * 2 ^ 32 else 0), false, y⟩)
  | .none => back ⟨0, false, x⟩

/-- BAR4_ACCESS: `n` bytes at offset `a` in tile cycle `c`; a write carries its data. -/
def State.bar4 (s : State) (a n c : Nat) (data : Option Nat) : State :=
  let d := s.get F.MOD_DBG.die
  let r := s.get F.MOD_DBG.row
  let col := a / 2 ^ 22 % 64
  let la := a % 2 ^ 22
  let no (s : State) : State := if data.isNone then (s.errc 3 1).answer 0 false else s.errc 3 1
  if !s.isReady || !s.debugOpen || 34 ≤ col || 48 ≤ r then no s else
  let p := physOf d r col
  if (s.tile p).gesso || regionOf la = .none || (regionOf la = .palette && 0x200000 < la + n) then no s else
  let o := TW.debug ⟨s.tile p, [], s.env p⟩ c la n data
  let s := s.onTile p fun x => (x.debug c la n data).tile
  if data.isNone then s.answer o.val o.pois else s

/-! The test access port (R491). -/

/-- SAMPLE/PRELOAD and EXTEST are available. -/
def State.tapBoundary (s : State) : Bool :=
  (s.get F.MOD_STATE.state == 0 && !s.railsUp) || s.debugOpen

/-- The IDCODE: the stepping, 0x7A04, the manufacturer's identity, 1. -/
def State.idcode (s : State) : Nat := s.get F.MOD_ID.stepping * 2 ^ 28 + 0x7A04 * 2 ^ 12 + 2 * Config.tapMaker.toNat + 1

end Sys2Proof.Machine
end

