-- ==== Sys2Proof/Machine/Power.lean ====
section
/-! DEFINITION. Rails, clocks, droop, temperature and input power (R505-R514, R523, R533, R534). -/

namespace Sys2Proof.Machine

/-! Inputs and rails (R505-R508). -/

/-- VAUX_GOOD, VMAIN_GOOD: once both inputs are good, a cold reset begins (R533). -/
def State.inputGood (s : State) (aux : Bool) (at_ : Nat) : State :=
  let was := s.pwr.vaux && s.pwr.vmain
  let s := s.mapPwr fun p => if aux then { p with vaux := true } else { p with vmain := true }
  if s.pwr.vaux && s.pwr.vmain && !was then s.resetCold at_ else s

/-- VAUX_LOST, VMAIN_LOST: groups 7 to 1 go down (R507, R534). -/
def State.inputLost (s : State) (aux : Bool) (at_ : Nat) : State :=
  let was := if aux then s.pwr.vaux else s.pwr.vmain
  if !was then s else
  let s := (s.powerDown at_).mapPwr fun p => if aux then { p with vaux := false } else { p with vmain := false }
  if aux then s.mapEas EasSt.restart else s

/-- PWR_STATUS.rails bit of a group. -/
def railF (g : Nat) : RF := ⟨0x20010, g - 1, 1⟩


/-- RAIL_FAILURE_POWER_DOWN: 100 ms later Easel powers the rails down and sets FAILED. -/
def State.railFailed (s : State) (at_ : Nat) : State := match s.pwr.failAt with
  | some t =>
    if at_ < t + fcMs 100 then s
    else ((s.powerDown at_).put F.MOD_STATE.state 2).mapPwr fun p => { p with failAt := none }
  | none => s

/-- A failed boot (R520): MOD_STATE FAILED with its stage kept, the optical ports OFF and dark. -/
def State.bootFails (s : State) (at_ : Nat) : State :=
  let s := s.put F.MOD_STATE.state 2
  (List.range 2).foldl (fun s f => (List.range 16).foldl (fun s p =>
    ((s.put (F.FAB_PORT_STATUS.state f p) 0).darken f p at_)) s) s

/-- RAIL_FAILURE of a group of 1 to 7: in service it is recorded and FAIL is sent (R508); during stage 2 the boot fails
(R523). No ERRC index names a rail (R413), so the cause that FAIL carries is a free value. -/
def State.railFailure (s : State) (g at_ : Nat) : State :=
  if s.get (railF g) = 0 || g = 0 || 7 < g then s else
  let s := (s.reach at_).put (railF g) 0
  if s.get F.MOD_STATE.state = 2 then s
  else if s.get F.MOD_STATE.state = 0 && s.get F.MOD_STATE.stage = 2 then
    (s.bootFails at_).mapPwr fun p => { p with group := 0 }
  else
    let s := (s.put F.PWR_STATUS.fail_rail g).mapPwr fun p => { p with failAt := some at_ }
    let (v, s) := s.fresh64
    s.sendFail (v.toNat % 512)

/-- Stage 2 goes on with every rail good: fuses are loaded, the ceilings follow the margins, the clocks start (R519). -/
def State.startClocks (s : State) : State :=
  let b0 := decide (s.get F.MOD_ID.stepping = 1)
  let s := s.mapPwr fun p => { p with clocks := true, dies := p.dies.map fun x => { x with since := s.now, lag := 0 } }
  (List.range 4).foldl (fun s d => (s.put (F.LDR_CAPS.models d) (if b0 then 3 else 1)).setCeiling d) s

/-- RAIL_GROUP_GOOD: the group being started is good, and the next starts (R506). -/
def State.railGroupGood (s : State) (g at_ : Nat) : State :=
  if s.pwr.group ≠ g || g = 0 || 7 < g then s else
  let s := ((s.reach at_).put (railF g) 1).mapPwr fun p => { p with group := g + 1, stageAt := at_ }
  if g = 7 then s.startClocks else s

/-- RAIL_GROUP_TIMEOUT: the group is not good 10 ms after its start, and the boot fails. -/
def State.railGroupTimeout (s : State) (g at_ : Nat) : State :=
  if s.pwr.group ≠ g || g = 0 || 7 < g || at_ < s.pwr.stageAt + fcMs 10 then s
  else ((s.reach at_).bootFails at_).mapPwr fun p => { p with group := 0 }

/-! Droop (R510, R511). -/

/-- A trip is counted (R511). -/
def State.countTrip (s : State) (d : Nat) : State :=
  let n := s.get F.TICK_NUMBER.number
  let s := (s.add (F.PWR_DIE_CNT_TRIP.count d) 1).errc (dieErrc d 0x33) 1
  let s := s.put (F.PWR_DIE_LTICK.tick d) (n % 2 ^ 48)
  let first := s.tick.everTick && (s.clk d).trip != some n
  (if first then s.add (F.PWR_DIE_CNT_TTICK.count d) 1 else s).setClk d { s.clk d with trip := some n }

/-- DROOP_TRIP: a sensor of die `d` reads `mv` below the setpoint at fc `at_`. -/
def State.droop (s : State) (d mv at_ : Nat) : State :=
  let level := if s.get (F.PWR_DIE_DROOP.thr2 d) < mv then 2 else if s.get (F.PWR_DIE_DROOP.thr1 d) < mv then 1 else 0
  if level = 0 || !s.pwr.clocks then s else
  let s := s.reach at_
  let x := s.clk d
  let s := s.setClk d { x with call1 := at_, call2 := if level = 2 then at_ else x.call2 }
  let st := s.stretch d
  let s := if st = 0 || st = 3 then s.countTrip d else s
  if (st = 1 || st = 2) && level ≤ st then s
  else
    let s := s.countLoss d at_
    ((s.put (F.PWR_DIE_CLK.stretch d) level).setClk d { s.clk d with deficit := 25 * level }).showClock d

/-- STRETCH_RELEASE: no sensor has called for the level for 200 ns; the clock goes to the level still called for, or ramps
back. -/
def State.stretchRelease (s : State) (d at_ : Nat) : State :=
  let x := s.clk d
  let st := s.stretch d
  let last := if st = 2 then x.call2 else x.call1
  if (st ≠ 1 && st ≠ 2) || at_ < last + 250 then s else
  let s := (s.reach at_).countLoss d at_
  if st = 2 && at_ < x.call1 + 250 then
    ((s.put (F.PWR_DIE_CLK.stretch d) 1).setClk d { s.clk d with deficit := 25 }).showClock d
  else (s.put (F.PWR_DIE_CLK.stretch d) 3).setClk d { s.clk d with deficit := 25 * st }

/-- CLOCK_RAMP_COMPLETE: the ramp has reached f_ceil, 1 µs from 50 % or 0.5 µs from 75 %. -/
def State.rampDone (s : State) (d at_ : Nat) : State :=
  let x := s.clk d
  if s.stretch d ≠ 3 || at_ < x.since + 25 * x.deficit then s else
  let s := (s.reach at_).countLoss d at_
  ((s.put (F.PWR_DIE_CLK.stretch d) 0).setClk d { s.clk d with deficit := 0 }).showClock d

/-- A change of a die's thermal or power step: what the clock has withheld is counted at the ceiling it had. -/
def State.changeStep (s : State) (d at_ : Nat) (f : RF) (v : Nat) : State := ((s.settleLoss d at_).put f v).setCeiling d

/-! Temperature (R512, R513). -/

/-- The held readings of the sensors in service from `lo`. -/
def State.goodReadings (s : State) (lo n : Nat) : List Nat :=
  (List.range n).filterMap fun i =>
    let x := s.sensor (lo + i)
    if x.failed then none else x.good

def maxOf (l : List Nat) : Nat := l.foldl max 0

/-- A thermal trip (R513): THERMTRIP_N is asserted, the rails go down, the log keeps the sensor. -/
def State.thermalTrip (s : State) (sensor at_ : Nat) : State :=
  if s.pwr.therm || !s.pwr.vaux then s else
  (((s.reach at_).powerDown at_).mapPwr fun p => { p with therm := true }).mapEas fun e =>
    { e with log := e.log ++ [(1, sensor)] }

/-- The sensors' readings are filtered, then the trip is looked for. -/
def State.takeReadings (s : State) (lo : Nat) : List Nat → Nat → State
  | [], _ => s
  | v :: l, i => (s.reading (lo + i) v).takeReadings lo l (i + 1)

/-- THERMAL_SAMPLE of a compute die: the readings of its 16 sensors and of its six stacks. -/
def State.thermalSample (s : State) (d : Nat) (die stks : List Nat) (at_ : Nat) : State :=
  if !s.pwr.clocks then s else
  let s := ((s.reach at_).takeReadings (32 * d) (die.take 16) 0).takeReadings (32 * d + 16) (stks.take 6) 0
  let left := s.goodReadings (32 * d) 16
  let hbm := maxOf (s.goodReadings (32 * d + 16) 6)
  let failed := ((List.range 16).filter fun i => (s.sensor (32 * d + i)).failed).length
  let tj := max (if failed = 16 then 95 else maxOf left) hbm
  let s := ((s.put (F.PWR_DIE_TEMP.tj d) tj).put (F.PWR_DIE_TEMP.sensors d) left.length).put (F.PWR_DIE_TEMP.hbm d) hbm
  if 105 ≤ tj then
    s.thermalTrip (((List.range 22).find? fun i => (s.sensor (32 * d + i)).good.any fun v => decide (105 ≤ v)).getD 0 + 32 * d) at_
  else
    let k := s.get (F.PWR_DIE_CLK.tstep d)
    let changed (s : State) : State := s.setClk d { s.clk d with tempAt := at_ }
    if 95 ≤ tj then
      (if 16 ≤ k then s
       else
         let s := if k = 0 then s.errc (dieErrc d 0x34) 1 else s
         changed (s.changeStep d at_ (F.PWR_DIE_CLK.tstep d) (k + 1)))
    else if tj ≤ 92 && 0 < k && decide ((s.clk d).tempAt + fcMs 10 ≤ at_) then
      changed (s.changeStep d at_ (F.PWR_DIE_CLK.tstep d) (k - 1))
    else s

/-- THERMAL_SAMPLE of a fabric die: its four sensors (R512). -/
def State.fabSample (s : State) (f : Nat) (l : List Nat) (at_ : Nat) : State :=
  if !s.pwr.clocks then s else
  let s := (s.reach at_).takeReadings (128 + 4 * f) (l.take 4) 0
  let t := maxOf (s.goodReadings (128 + 4 * f) 4)
  let s := s.put (if f = 0 then F.PWR_FAB_TEMP.w else F.PWR_FAB_TEMP.e) t
  if 105 ≤ t then
    s.thermalTrip (((List.range 4).find? fun i => (s.sensor (128 + 4 * f + i)).good.any fun v => decide (105 ≤ v)).getD 0 + 128 + 4 * f) at_
  else s

/-! Input power (R514). -/

/-- The power step of all four compute dies. -/
def State.setPstep (s : State) (v at_ : Nat) : State :=
  let s := (List.range 4).foldl (fun s d => s.changeStep d at_ (F.PWR_DIE_CLK.pstep d) v) s
  s.put F.PWR_STATUS.capping (decide (0 < v)).toNat

/-- POWER_SAMPLE: a 1 ms boundary at fc `at_`, with the voltage (in 10 mV) and current (in 10 mA) of each sample of the
last 1 ms, and VAUX in mV. P is compared as the exact mean product. -/
def State.powerSample (s : State) (l : List (Nat × Nat)) (vaux at_ : Nat) : State :=
  if !s.pwr.clocks then s else
  let s := l.foldl (fun s q => (s.reading 136 q.1).reading 137 q.2) ((s.reach at_).reading 138 vaux)
  let v := (s.sensor 136).good.getD 0
  let i := (s.sensor 137).good.getD 0
  let sum := (l.map fun q => q.1 * q.2).foldl (· + ·) 0
  let unit := 10000 * max 1 l.length
  let s := ((s.put F.PWR_IN.vmain v).put F.PWR_IN.imain i).put F.PWR_IN.vaux ((s.sensor 138).good.getD 0)
  let s := s.put F.PWR_IN.pin_1ms (sum / unit)
  let lim := s.get F.PWR_LIMIT.limit
  let k := s.get (F.PWR_DIE_CLK.pstep 0)
  let below := if sum < (lim - 50) * unit then some (s.pwr.below.getD at_) else none
  let s := s.mapPwr fun p => { p with below := below }
  if lim * unit < sum then
    (if 16 ≤ k then s else (s.setPstep (k + 1) at_).add F.PWR_CNT_CAP.count 1)
  else match below with
    | some t =>
      if 0 < k && decide (t + fcMs 10 ≤ at_) && decide (s.pwr.decAt + fcMs 10 ≤ at_) then
        (s.setPstep (k - 1) at_).mapPwr fun p => { p with decAt := at_ }
      else s
    | none => s

/-- PWR_LIMIT_WRITE. -/
def State.limitWritePwr (s : State) (v : Nat) : State :=
  if s.locked 3 then s.lockViolation
  else if v < 1200 || 2450 < v then s.put F.PWR_STATUS.cfg_reject 1
  else s.put F.PWR_LIMIT.limit v

/-- PWR_DROOP_WRITE of the bits `m`: thr1 from 10 to 63 mV, thr2 above it (R524). Its fields lie in the low half. -/
def State.droopWrite (s : State) (d : Nat) (m v : Word) : State :=
  if m &&& 0x3F3F#64 = 0 then s else if s.locked 3 then s.lockViolation else
  let a := (F.PWR_DIE_DROOP.thr1 d).addr
  let n := ((s.word a &&& ~~~ m) ||| (v &&& m)) &&& 0x3F3F#64
  if n.field 0 6 < 10 || n.field 8 6 ≤ n.field 0 6 then s.put F.PWR_STATUS.cfg_reject 1 else s.setWord a n

end Sys2Proof.Machine
end

