-- ==== Sys2Proof/Machine/Boot.lean ====
section
/-! DEFINITION. Boot (R54, R430, R485, R493, R496, R516, R519-R521): its six stages, and the module resets from a pin and
from the host. -/

namespace Sys2Proof.Machine

/-! Stage 1: Easel. -/

/-- The image that Easel boots (R485): the newer of A and B that qualifies, else the older, else the recovery image, in
safe mode. -/
def State.bootImage (s : State) : State :=
  let svn := s.get F.MOD_FUSECNT.svn
  let new := if s.eas.fwNewB then s.eas.fwB else s.eas.fwA
  let old := if s.eas.fwNewB then s.eas.fwA else s.eas.fwB
  let run (x : FwImage) : State :=
    (s.put F.MOD_EAS.fw (Config.fwVersion x.data x.len).toNat).mapEas fun e => { e with svn := x.security }
  if new.boots svn then run new else if old.boots svn then run old else s.runRecovery

/-- The value of a strap when its three samples agree. -/
def strapOf (l : List Nat) : Option Nat := match l with
  | [a, b, c] => if a = b && b = c then some (a % 4) else none
  | _ => none

/-- The profile in force (R493): the slot chosen with its source, unless it is invalid. -/
def State.takeProfile (s : State) (slot src : Nat) : State :=
  let use (k src : Nat) (p : BitVec 4096) : State :=
    let s := ((s.put F.MOD_PROFILE.now k).put F.MOD_PROFILE.src src).mapEas fun e => { e with prof := p }
    (s.put F.MOD_PROFILE.debug (profDebug p).toNat).put F.MOD_DBG.avail (profDebug p).toNat
  let c := (s.profSlot slot).content
  let z := (s.profSlot 0).content
  if profOk c then use slot src c else if profOk z then use 0 src z else use 0 3 profBuiltIn

/-- R493: the slot by a pending next at a module reset, by the strap otherwise. -/
def State.chooseProfile (s : State) (sel : List Nat) : State :=
  let next := s.get F.MOD_PROFILE.next_v == 1 && !s.pwr.cold
  let k := s.get F.MOD_PROFILE.next
  let s := s.put F.MOD_PROFILE.next_v 0
  if next then s.takeProfile k 1
  else match strapOf sel with
    | some v => s.takeProfile v 0
    | none => ((s.put F.MOD_PROFILE.strap_bad 1).errc 1 1).takeProfile 0 2

/-- R54. -/
def State.chooseRole (s : State) (sel : List Nat) : State := match strapOf sel with
  | some 3 => s.put F.TICK_ROLE.role_cfg (profRole s.eas.prof)
  | some v => s.put F.TICK_ROLE.role_cfg v
  | none => ((s.put F.TICK_ROLE.role_cfg 0).put F.TICK_STATUS.strap_bad 1).errc 1 1

/-- R487: the static address; which one straps that disagree give is a free value. -/
def State.chooseAddr (s : State) (sel : List Nat) : State := match strapOf sel with
  | some v => s.mapEas fun e => { e with addr := 0x60 + v }
  | none =>
    let (v, s) := s.fresh64
    (s.errc 1 1).mapEas fun e => { e with addr := 0x60 + v.toNat % 4 }

/-- R496: the fuses differ from their mirror in so many counters. -/
def State.fuseDiffs (s : State) : Nat := ((s.fuseCounts.zip s.eas.mirror).filter fun q => q.1 != q.2).length

/-- A boot stage may start: the module is booting, powered and not held, and its stage is the one before. -/
def State.mayBoot (s : State) (stage : Nat) : Bool :=
  s.pwr.vaux && s.pwr.vmain && !s.pwr.held && !s.pwr.therm && s.get F.MOD_STATE.state == 0 &&
    s.get F.MOD_STATE.stage + 1 == stage

/-- A stage starts at fc `at_`. -/
def State.enterStage (s : State) (stage at_ : Nat) : State :=
  ((s.reach at_).put F.MOD_STATE.stage stage).mapPwr fun p => { p with stageAt := at_ }

/-- STAGE_EASEL, with the three samples of MASTER_SEL, PROFILE_SEL and MGMT_ADDR. -/
def State.stageEasel (s : State) (master profile mgmt : List Nat) (at_ : Nat) : State :=
  if !s.mayBoot 1 then s else
  let s := ((s.enterStage 1 at_).bootImage).chooseProfile profile
  let s := (s.chooseRole master).chooseAddr mgmt
  -- Pentimento is available under a debug profile (R452)
  let s := (List.range 4).foldl (fun s d => s.put (F.PEN_CTL.avail d) (profDebug s.eas.prof).toNat) s
  (s.errc 6 s.fuseDiffs).mirrorFuses

/-! Stages 2 and 3. -/

/-- STAGE_RAILS: rails that are up stay up (R515); the others are sequenced from group 1. -/
def State.stageRails (s : State) (at_ : Nat) : State :=
  if !s.mayBoot 2 then s else
  let s := s.enterStage 2 at_
  if s.railsUp then s.startClocks else s.mapPwr fun p => { p with group := 1 }

/-- STAGE_BRIDGES_AND_HBM: the failed bundles of each bridge, and the stacks that trained, by 6 * die + stack. -/
def State.stageHbm (s : State) (failed : List Nat) (trained : Nat) (at_ : Nat) : State :=
  if !s.mayBoot 3 || !s.railsUp then s else
  let s := s.enterStage 3 at_
  if failed.any (fun n => decide (6 < n)) || !((List.range 24).all trained.testBit) then
    -- R248: the engine of a stack that fails training enters FAILED
    ((List.range 24).foldl (fun s k =>
      if trained.testBit k then s else s.put (F.HBM_SE_STATUS.state (k / 6) (k % 6)) 4) s).bootFails at_
  else
    let s := (List.range 2).foldl (fun s f => (List.range 8).foldl (fun s k =>
      s.put (F.FAB_PORT_STATUS.state f (16 + k)) PortState.up) s) s
    (List.range 4).foldl (fun s d => (List.range 6).foldl (fun s p =>
      (s.put (F.HBM_SE_STATUS.state d p) 1).setDirty d p (s.dirty d p)) s) s

/-! Stage 4: the quick scan and the tile maps (R430). -/

/-- The fused retirements of a die: the entries of slots with programmed set. -/
def State.fusedList (s : State) (d : Nat) : List (Nat × Nat) :=
  (List.range 8).flatMap fun k =>
    if s.get (F.REP_FUSE_3.programmed d k) = 0 then []
    else
      let v := ((List.range 3).map fun w => s.get (F.REP_FUSE_E.entries d k w) * 2 ^ (64 * w)).sum
      (List.range (min 16 (s.get (F.REP_FUSE_3.count d k)))).map fun e =>
        let x := v / 2 ^ (12 * e) % 2 ^ 12
        (x / 64, x % 64)

/-- The retired columns of a row. -/
def State.retiredCols (s : State) (d r : Nat) : List Nat :=
  let fused := (s.fusedList d).filterMap fun q => if q.1 = r then some q.2 else none
  let vol := (s.rep.vol.filter fun x => x.die == d && x.row == r).map (·.col)
  (List.range 34).filter fun c => fused.contains c || vol.contains c

/-- R430: a row's map, and whether every logical column is served. -/
def bootMap (retired : List Nat) : Nat × Bool :=
  let m := retired.foldl (fun m c => mapRetire m c true) 0
  let need := retired.filter fun c => decide (c < 32)
  let spares := [32, 33].filter fun c => !retired.contains c
  ((need.zip spares).foldl (fun m q => mapCover m q.1 q.2 false) m, decide (need.length ≤ spares.length))

/-- A row's map is loaded. -/
def State.loadMap (s : State) (d r : Nat) : State :=
  let m := BitVec.ofNat 64 (bootMap (s.retiredCols d r)).1
  (s.setWord (tmapAddr d r) m).setWord (tmapNextAddr d r) m

/-- A column that fails the quick scan twice is added to the flash list (R430, R428). -/
def State.scanFailed (s : State) (p : Nat) : State :=
  let d := physDie p
  if 4 ≤ d || (s.retiredCols d (physRow p)).contains (physCol p) then s
  else { s with rep := { s.rep with vol := s.rep.vol ++ [Retired.mk d (physRow p) (physCol p) false] } }.errc
    (dieErrc d 0x30) 1

/-- STAGE_QUICK_SCAN, with the physical tiles that failed twice. Gesso leaves every tile erased; scrub goes on. -/
def State.stageScan (s : State) (fails : List Nat) (at_ : Nat) : State :=
  if !s.mayBoot 4 then s else
  let s := { fails.foldl State.scanFailed (s.enterStage 4 at_) with tiles := [] }
  let rows := (List.range 4).flatMap fun d => (List.range 48).map fun r => (d, r)
  let s := rows.foldl (fun s q => s.loadMap q.1 q.2) s
  let s := (List.range 4).foldl State.showUnfused s
  if rows.all fun q => (bootMap (s.retiredCols q.1 q.2)).2 then s else s.bootFails at_

/-! Stages 5 and 6. -/

/-- STAGE_LINKS: the profile's node ID and ports. -/
def State.stageLinks (s : State) (at_ : Nat) : State :=
  if !s.mayBoot 5 then s else
  let s := s.enterStage 5 at_
  let n := profNode s.eas.prof
  let s := (s.put (F.FAB_NODE.node_id 0) (n % 2 ^ 14)).put (F.FAB_NODE.valid 0) (n / 2 ^ 15)
  ((List.range 2).foldl (fun s f => (List.range 16).foldl (fun s p =>
    if (profPorts s.eas.prof).testBit (16 * f + p) then s.portEnable f p at_ else s) s) s).startClaims at_

/-- STAGE_ENUMERATION: every enabled port is UP, or 10 s have passed; the role claims have begun. -/
def State.stageEnum (s : State) (at_ : Nat) : State :=
  if !s.mayBoot 6 || !(s.linksTrained || decide (s.pwr.stageAt + fcMs 10000 ≤ at_)) then s else
  let s := s.enterStage 6 at_
  let s := if s.tick.trained then s
    else (s.mapTick fun t => { t with trained := true }).claimRole (s.get F.TICK_ROLE.role_cfg) at_
  let s := (s.put F.HOST_CFG.keep_link (profKeepLink s.eas.prof).toNat).setLocks (profLocks s.eas.prof)
  s.put F.MOD_STATE.state 1

/-! Module resets (R501, R516). -/

/-- MOD_RESET_N at fc `at_`: asserted for `ns`, or released. Held in reset, the module does not boot. -/
def State.resetPin (s : State) (low : Bool) (ns at_ : Nat) : State :=
  if low then
    (if ns < 1000 || !s.pwr.vaux then s else (s.resetModule 1 at_).mapPwr fun p => { p with held := true })
  else s.mapPwr fun p => { p with held := false }

/-- MOD_CMD_RESET: a write of reset 1 with a key. -/
def State.resetCmd (s : State) (key at_ : Nat) : State :=
  if !s.reached 0x20 then s
  else if key = 0xA5 then s.resetModule 2 at_ else s.errc 3 1

end Sys2Proof.Machine
end

