-- ==== Sys2Proof/Machine/RegIo.lean ====
section
/-! DEFINITION. Host writes of the registers (R14-R18, R476, R478, R479, R484, R504): a write by type and lock, and for every
register whose write does more, what its rule states. The arguments are the register's offset `a`, the bits `m` that the
access reaches and the word `v` that it places there; `at_` is the fc and `cyc` the tile cycle of the write. -/

namespace Sys2Proof.Machine

/-- A register with the bits `m` replaced. -/
def mergeBits (old m v : Word) : Word := (old &&& ~~~ m) ||| (v &&& m)

/-! By type and lock (R15, R16). -/

/-- The RWL bits that no lock holds, and whether the access reaches one that is locked. -/
def State.rwlBits (s : State) (m : Word) : List (Nat × Nat) → Word × Bool
  | [] => (0, false)
  | (k, bits) :: l =>
    let (u, hit) := s.rwlBits m l
    let b := BitVec.ofNat 64 bits
    if s.locked k then (u, hit || (b &&& m) != 0) else (u ||| b, hit)

/-- A write by type and lock; one that reaches a locked field counts once. -/
def State.plainWrite (s : State) (a : Nat) (m v : Word) : State := match regFind moduleRegs a with
  | none => s
  | some r =>
    let (u, hit) := s.rwlBits m r.rwl
    let s := s.setWord a (writeByType { r with rw := r.rw ||| u.toNat } (s.word a) m v)
    if hit then s.lockViolation else s

/-- The bits of an access that are RW. -/
def rwBits (a : Nat) (m : Word) : Word := match regFind moduleRegs a with
  | none => 0
  | some r => BitVec.ofNat 64 r.rw &&& m

/-! The TICK block. -/

def State.wrTick (s : State) (a : Nat) (m v : Word) (at_ : Nat) : State :=
  let low := m.getLsbD 0
  match a with
  | 0x10000 => if low then s.roleCfgWrite (v.field 0 2) at_ else s
  | 0x10008 =>
    if !low then s else
    let s := s.runWrite (v.field 0 1) at_
    if v.getLsbD 1 then s.sendPing at_ else s
  | 0x10010 => if low then s.periodWrite (v.field 0 24) else s
  | 0x10018 => if low then s.limitWrite (v.field 0 24) else s
  | 0x10030 => s.tickNextWrite (mergeBits (s.regView a at_) m v).toNat
  | _ => s.plainWrite a m v

/-- MBS (R354-R357): `o` is the offset in the context's registers. -/
def State.wrMbs (s : State) (a c o : Nat) (m v : Word) : State :=
  let low := m.getLsbD 0
  match o with
  | 0x00 =>
    let n := mergeBits (s.word a) m v
    if !low then s else if n.getLsbD 0 then s.mbsEnable c n else s.mbsDisable c n
  | 0x28 =>
    if !low then s else
    let s := if v.getLsbD 0 then s.mbsOpen c else s
    if v.getLsbD 1 then s.mbsReset c else s
  | 0x08 => s.mbsRegWrite c o (rwBits a m) v
  | 0x10 => s.mbsRegWrite c o (rwBits a m) v
  | 0x18 => s.mbsRegWrite c o (rwBits a m) v
  | _ => s.plainWrite a m v

/-- WCH (R362, R365, R366). -/
def State.wrWch (s : State) (a : Nat) (m v : Word) : State :=
  if a < 0x14800 then
    let c := (a - 0x14000) / 0x20
    if a % 0x20 = 0 then s.wchWrite c (mergeBits (s.word a) m v)
    else if a % 0x20 = 8 then s.wchBandWrite c m v
    else s.plainWrite a m v
  else if a = 0x14808 then
    (if !m.getLsbD 0 then s else
     let s := if v.getLsbD 0 then s.wchRead else s
     if v.getLsbD 1 then s.wchAccWrite else s)
  else s.plainWrite a m v

/-- EXP (R367, R369, R370): a running channel's source and destination are kept. -/
def State.wrExp (s : State) (a : Nat) (m v : Word) (at_ cyc : Nat) : State :=
  let x := (a - 0x15000) / 0x40
  let running := s.get (F.EXP_STATUS.state x) == 1
  if a % 0x40 = 0 then
    (if !m.getLsbD 0 then s
     else if v.getLsbD 1 && running then s.exportAbort x
     else if v.getLsbD 0 then s.exportStart x v at_ cyc
     else if running then s else s.plainWrite a m v)
  else if running && (a % 0x40 = 8 || a % 0x40 = 0x10) then s
  else s.plainWrite a m v

/-- RCV (R393, R406). -/
def State.wrRcv (s : State) (a : Nat) (m v : Word) (at_ : Nat) : State := match a with
  | 0x16000 => ((s.plainWrite a m v).showMember).showCoord at_
  | 0x16030 =>
    if !m.getLsbD 0 then s else
    let s := if v.getLsbD 0 then s.retry at_ else s
    let s := if v.getLsbD 1 then s.abort at_ else s
    if v.getLsbD 2 then s.shrinkDone at_ else s
  | _ => s.plainWrite a m v

/-- The block of TICK, MBS, WCH, EXP, RCV, VRN and SKB. -/
def State.wrTickBlock (s : State) (a : Nat) (m v : Word) (at_ cyc : Nat) : State :=
  if a < 0x12000 then s.wrTick a m v at_
  else if a < 0x14000 then s.wrMbs a ((a - 0x12000) / 0x80) (a % 0x80) m v
  else if a < 0x15000 then s.wrWch a m v
  else if a < 0x16000 then s.wrExp a m v at_ cyc
  else if a < 0x18000 then s.wrRcv a m v at_
  else if a < 0x1A000 then s.vrnRegWrite ((a - 0x18000) / 0x80) (a % 0x80) (rwBits a m) v
  else if a < 0x1E000 then s.cursorWrite ((a - 0x1A000) / 0x100) (a % 0x100) (rwBits a m) v
  else s.plainWrite a m v

/-! MOD, PWR, ERRC, PERF, HOSTC and EAS. -/

def State.wrMod (s : State) (a : Nat) (m v : Word) (at_ : Nat) : State := match a with
  | 0x18 => if m.getLsbD 0 then s.setLocks (v.field 0 6) else s
  | 0x20 => if m.getLsbD 0 && v.getLsbD 0 then s.resetCmd (v.field 8 8) at_ else s
  | _ => s.plainWrite a m v

def State.wrPwr (s : State) (a : Nat) (m v : Word) : State :=
  if a = 0x20008 then (if m.getLsbD 0 then s.limitWritePwr (v.field 0 12) else s)
  else if 0x20100 ≤ a && a < 0x20200 && a % 0x40 = 8 then s.droopWrite ((a - 0x20100) / 0x40) m v
  else s.plainWrite a m v

def State.wrErrc (s : State) (a : Nat) (m v : Word) : State :=
  let n := mergeBits (s.word a) m v
  if 0x31000 ≤ a && a < 0x32000 && m.getLsbD 50 && v.getLsbD 50 then s.thrArm ((a - 0x31000) / 8) n
  else if a = 0x32040 then (if m.getLsbD 0 then s.dbcfgWrite n else s)
  else if a = 0x32048 then s.dbaddrWrite n
  else s.plainWrite a m v

def State.wrPerf (s : State) (a : Nat) (m v : Word) : State :=
  if a = 0x40200 then (if m.getLsbD 0 then s.perfTaddr v else s)
  else if a = 0x40300 then
    (if !m.getLsbD 0 then s else
     let s := if v.getLsbD 0 then s.clearHbmHist else s
     let s := if v.getLsbD 1 then s.clearSyncHist else s
     if v.getLsbD 2 then s.clearFlowHist else s)
  else s.plainWrite a m v

/-- HCTX_CTL (R480): enable is taken first, then reset. -/
def State.hctxWrite (s : State) (c : Nat) (v : Word) (at_ cyc : Nat) : State :=
  if v.getLsbD 0 then
    let was := s.hctx c
    let s := s.hctxEnable c v
    if v.getLsbD 1 && was = 1 then s.ctxReset c at_ cyc false else s
  else s.hctxDisable c v at_ cyc

def State.wrHost (s : State) (a : Nat) (m v : Word) (at_ cyc : Nat) : State :=
  if 0x50400 ≤ a && a < 0x50800 && a % 0x10 = 0 then
    (if m.getLsbD 0 then s.hctxWrite ((a - 0x50400) / 0x10) v at_ cyc else s)
  else s.plainWrite a m v

def State.wrEas (s : State) (a : Nat) (m v : Word) : State :=
  if a = 0x60000 then (if m.getLsbD 0 then s.mailStart v else s) else s.plainWrite a m v

/-! A DIE block: `o` is the offset in it. -/

/-- LDR_CTXc_CMD: load, with restore and auto_start, then start (R444, R448). -/
def State.ldrCmd (s : State) (d c : Nat) (v : Word) (at_ cyc : Nat) : State :=
  let s := if v.getLsbD 0 then s.load d c (v.getLsbD 2) (v.getLsbD 3) else s
  if v.getLsbD 1 then s.start d c cyc at_ else s

/-- HBM_RGNc_k (R14, R15, R241, R256): valid lies in the high half. A write of valid 1 is a candidate, one of valid 0
releases; a FREE slot keeps the other fields that are written, another slot nothing. -/
def State.rgnWrite (s : State) (a d c k : Nat) (m v : Word) : State :=
  let n := mergeBits (s.word a) m v
  if m.getLsbD 39 && n.getLsbD 39 then s.regionAllocate d c k n
  else if s.get (F.HBM_RGN.state d c k) = 0 then s.setWord a (n &&& 0x1FFFFF7FFF#64)
  else if m.getLsbD 39 then s.regionRelease d c k
  else s

/-- SYN_PCNTi: W1 binds and unbinds; while the counter is bound its other fields are kept (R326). -/
def State.pcntWrite (s : State) (a d i : Nat) (m v : Word) (cyc : Nat) : State :=
  let n := mergeBits (s.word a) m v
  if a % 0x20 = 8 then
    (if !m.getLsbD 0 then s else if n.getLsbD 22 then s.bind d i n cyc else s.unbind d i cyc n)
  else if a % 0x20 = 0x10 && s.bound d i then (if rwBits a m = 0 then s else s.put (F.SYN_CTL.reject d) 1)
  else s.plainWrite a m v

def State.wrDie (s : State) (a d o : Nat) (m v : Word) (at_ cyc : Nat) : State :=
  let low := m.getLsbD 0
  let n := mergeBits (s.word a) m v
  if o < 0x2000 then
    (if o % 0x80 = 0 then s.ldrRowsWrite d (o / 0x80) (n.field 0 48)
     else if o % 0x80 = 0x20 then (if low then s.ldrCmd d (o / 0x80) v at_ cyc else s)
     else s.plainWrite a m v)
  else if o = 0x3108 then s.penRing d n
  else if 0x4200 ≤ o && o < 0x4380 then s.tmapNextWrite d ((o - 0x4200) / 8) m v cyc
  else if 0x8000 ≤ o && o < 0x8600 && o % 0x100 = 0 then
    (if low then s.seEnable d ((o - 0x8000) / 0x100) (v.field 0 1) else s)
  else if o = 0x8800 then (if low then s.semapWrite d (n.field 0 18) false else s)
  else if 0x10000 ≤ o && o < 0x18000 then s.rgnWrite a d ((o - 0x10000) / 0x200) ((o - 0x10000) % 0x200 / 8) m v
  else if 0x20000 ≤ o && o < 0x40000 then s.pcntWrite a d ((o - 0x20000) / 0x20) m v cyc
  else if o = 0x50000 then (if low then s.marginWrite d m v else s)
  else if o = 0x50040 then
    (if !low then s
     else
       let s := s.setWord a (s.word a &&& ~~~ (v &&& 0xC#64))
       if v.getLsbD 0 then s.commitGo d else if s.locked 2 then s.lockViolation else s)
  else if o = 0x60100 then (s.plainWrite a m v).setWord (a + 8) 0
  else s.plainWrite a m v

/-! A FAB block. -/

/-- FAB_NODE (R292): W's, while every optical port is OFF, else rejected; E's ignores writes. -/
def State.nodeWrite (s : State) (f a : Nat) (m v : Word) : State :=
  let off := (List.range 2).all fun g => (List.range 16).all fun p => s.portState g p == PortState.off
  if f ≠ 0 || rwBits a m = 0 then s else if off then s.plainWrite a m v else s.cfgReject f

/-- FAB_ROUTEn: a port above 23 is rejected. -/
def State.routeWrite (s : State) (f a : Nat) (m v : Word) : State :=
  let n := mergeBits (s.word a) m v
  if 23 < n.field 0 5 || 23 < n.field 5 5 then s.cfgReject f else s.plainWrite a m v

/-- FAB_FLOWi_W0: valid lies in the low half; a high half alone reaches a context only while it is FREE. -/
def State.flowW0Write (s : State) (i a : Nat) (m v : Word) (at_ cyc : Nat) : State :=
  let n := mergeBits (s.word a) m v
  if m.getLsbD 3 then (if n.getLsbD 3 then s.flowEnable i n else s.flowDrain i n at_ cyc)
  else if s.flowState i = 0 then s.flowDrain i n at_ cyc
  else s.cfgReject (flowDie i)

def State.wrFab (s : State) (a f o : Nat) (m v : Word) (at_ cyc : Nat) : State :=
  let low := m.getLsbD 0
  if o < 0x1800 then
    (if o % 0x100 ≠ 0 || !low then s.plainWrite a m v
     else
       let p := o / 0x100
       let s := s.plainWrite a (m &&& ~~~ 1#64) v
       if v.getLsbD 0 then s.portEnable f p at_ else s.portDisable f p at_)
  else if o = 0x18010 then s.nodeWrite f a m v
  else if o = 0x19000 then (if low then s.bldPatrolWrite f at_ (v.field 0 1) else s)
  else if o = 0x19010 then
    (if 786431 < (mergeBits (s.word a) m v).field 0 20 then s.cfgReject f else s.plainWrite a m v)
  else if o = 0x19018 then
    (if !low then s else
     let s := if v.getLsbD 0 then s.bldRead f else s
     if v.getLsbD 1 then s.bldWrite f else s)
  else if 0x20000 ≤ o && o < 0x40000 then s.routeWrite f a m v
  else if 0x40000 ≤ o then
    let i := 8192 * f + (o - 0x40000) / 0x20
    (match o % 0x20 with
     | 0x00 => s.flowW0Write i a m v at_ cyc
     | 0x18 => s.flowW3Write i m v
     | _ => s.plainWrite a m v)
  else s.plainWrite a m v

/-! A context's SYNCWIN and DOORBELL pages, by the PF or the context's VF. -/

/-- A host wait slot (R345): W1 arms by `arm`; the counter of an armed slot is kept. -/
def State.hwaitWrite (s : State) (func a c w : Nat) (m v : Word) : State :=
  let n := mergeBits (s.word a) m v
  match a % 0x20 with
  | 0x00 => s.hostTarget c w n
  | 0x08 =>
    if !m.getLsbD 0 then s
    else if s.get (F.SYNW_HWAIT_W2.state c w) = 1 then s.plainWrite a (m &&& ~~~ 0xFFFF#64 &&& ~~~ 0x10000000#64) v
    else if v.getLsbD 28 then s.hostArm func c w n
    else s.plainWrite a m v
  | _ => s.plainWrite a m v

def State.wrWin (s : State) (func a : Nat) (m v : Word) : State :=
  let c := (a - 0x2000000) / 0x10000
  let o := (a - 0x2000000) % 0x10000
  if 0x8100 ≤ o && o < 0x8900 then s.hwaitWrite func a c ((o - 0x8100) / 0x20) m v else s.plainWrite a m v

def State.wrBell (s : State) (a : Nat) (m v : Word) : State :=
  if a % 0x1000 = 0 then s.dbSig ((a - 0x3000000) / 0x1000) (m == BitVec.allOnes 64) v else s.plainWrite a m v

/-! The whole. -/

/-- A write of a module register by function `func`; an offset that no register has ignores writes. -/
def State.moduleWrite (s : State) (func a : Nat) (m v : Word) (at_ cyc : Nat) : State :=
  if (regFind moduleRegs a).isNone then s
  else if a < 0x10000 then s.wrMod a m v at_
  else if a < 0x20000 then s.wrTickBlock a m v at_ cyc
  else if a < 0x30000 then s.wrPwr a m v
  else if a < 0x40000 then s.wrErrc a m v
  else if a < 0x50000 then s.wrPerf a m v
  else if a < 0x60000 then s.wrHost a m v at_ cyc
  else if a < 0x70000 then s.wrEas a m v
  else if a < 0x1000000 then s.wrDie a (a / 0x100000 - 1) (a % 0x100000) m v at_ cyc
  else if a < 0x2000000 then s.wrFab a ((a - 0x1000000) / 0x80000) (a % 0x80000) m v at_ cyc
  else if a < 0x3000000 then s.wrWin func a m v
  else s.wrBell a m v

/-- A host command that meets a module not READY is rejected and counted (R499, R521). -/
def hostCmdReg (a : Nat) (m v : Word) : Bool :=
  m.getLsbD 0 && ((decide (0x50400 ≤ a) && decide (a < 0x50800) && a % 0x10 == 0 && (v.getLsbD 0 || v.getLsbD 1)) || a == 0x60000)

/-- An MSI-X table write: word `a % 16 / 8` of an entry. What no longer is masked is sent (R484). -/
def State.tableWrite (s : State) (func a : Nat) (m v : Word) : State :=
  let k := a % 16 / 8
  let d : Word := if k = 1 then 0x100000000#64 else 0
  let n := mergeBits (s.msixWord func (a / 16) k) m v
  if msixSize func ≤ a / 16 then s else
  { s with host := { s.host with msix := SMap.put s.host.msix (0x8000 * func + (a - a % 8)) n d } }.sendPending

/-- A write of a VF's context page (R504). -/
def State.pageWrite (s : State) (a : Nat) (m v : Word) : State :=
  if 8 ≤ a % 0x1000 && a % 0x1000 < 0x28 then
    { s with vf := rset (fun _ => 0) s.vf a (mergeBits (rreg (fun _ => 0) s.vf a) (m &&& 0x3FFFFFC0#64) v) }
  else s

/-- REGISTER_WRITE: a write of `n` bytes at offset `a` by function `func`. -/
def State.hostWrite (s : State) (func : Nat) (win : Window) (a n : Nat) (v : Word) (at_ cyc : Nat) : State :=
  if !s.funcLive func then s.errc 3 1 else
  match accessMask a n with
  | none => s
  | some m =>
    let b := a - a % 8
    let d : Word := if a % 8 = 0 then v else v <<< 32
    match win with
    | .msixTable => if func = 0 && s.reached 0x50000 then s.tableWrite 0 b m d else s
    | .bar0 => match place func b with
      | .module c =>
        if s.reached c then s.moduleWrite func c m d at_ cyc
        else if hostCmdReg c m d then s.errc 3 1 else s
      | .page c => s.pageWrite c m d
      | .table f c => s.tableWrite f c m d
      | _ => s

end Sys2Proof.Machine
end

