-- ==== Sys2Proof/WellFormed.lean ====
section
/-! DEFINITION. Which commands are well formed. Every operand's type admits only what the manual gives it (a die of 4, a
row of 48, a register number, a field's width), but for the length of an access through the PCIe link and of a request
on the management bus, and but for NOP's word, which are checked here. -/

namespace Sys2Proof

/-- A memory write carries 1 to 512 bytes (R472's Max Payload Size); a read asks for 1 to 4,096 (PRESUMED, the PCIe base
specification, notes/assumptions/23). -/
def HostAccess.ok (x : HostAccess) : Bool := match x with
  | .read n => decide (1 ≤ n) && decide (n ≤ 4096)
  | .write l => decide (1 ≤ l.length) && decide (l.length ≤ 512)

/-- R487: a request's len is one byte. One above 132 is answered with BAD_LEN. -/
def EasReq.ok : EasReq → Bool
  | .mailbox => true
  | .bus _ p _ => decide (p.length ≤ 255)

/-- The checks of every command. A NOP carries its own word, or one of a reserved class or an unlisted op (R75), and no word of
another instruction. -/
def Instr.wf : Instr → Bool
  | .nop _ v => (tileOpOf v).isNone
  | .bar2Access _ _ _ acc => acc.ok
  | .bar4Access _ _ acc => acc.ok
  | .getId r _ => r.ok
  | .getStatus r _ => r.ok
  | .getSensor r _ => r.ok
  | .getErrc r _ => r.ok
  | .readLog r _ => r.ok
  | .setNext r _ => r.ok
  | .stageProfile r _ => r.ok
  | .commitProfile r _ => r.ok
  | .readProfile r _ => r.ok
  | .setLock r _ => r.ok
  | .moduleReset r _ => r.ok
  | .stageFw r _ => r.ok
  | .commitFw r _ => r.ok
  | .advanceSvn r _ => r.ok
  | _ => true

end Sys2Proof
end

