-- ==== Sys2Proof/Machine/Exec.lean ====
section
/-! DEFINITION. What the meanings of the commands share: how a command reaches its tile, its context's page or its
register, and the scalar operations of 64 bits (R77, R81). -/

namespace Sys2Proof.Machine

/-- What a command answers. -/
abbrev Result := Host.Outcome State Fault Refusal

/-- A register value with bit `k` at 1. -/
def setBit (v : Word) (k : Nat) : Word := v ||| (1#64 <<< k)

/-- A register value with bit `k` at 0. -/
def clearBit (v : Word) (k : Nat) : Word := v &&& ~~~ (1#64 <<< k)

/-! Tiles. -/

/-- The physical tile that serves a tile ID (R229, R230); a command of a tile whose column is unserved has no effect. -/
def State.withTile (s : State) (t : TileId) (k : State → Nat → State) : State := match s.phys t.gid with
  | some p => k s p
  | none => s

/-- A command of a tile's own units. -/
def State.runTile (s : State) (t : TileId) (f : TW → TW) : State := s.withTile t fun s p => s.onTile p f

/-- A write of a tile's register; a tile under Gesso takes none (R128). -/
def State.writeTileReg (s : State) (t : TileId) (f : TW → TW) : State :=
  s.withTile t fun s p => if (s.tile p).gesso then s else s.onTile p f

/-- R77: of a stream operation's parameter, the low 3 bits name a logical stack, 0 to 5; the others are 0. -/
def engineParm (w : IW) : Bool := w.f 3 15 == 0 && decide (w.f 0 3 < 6)

/-- R83: the target of JR and CALLR. -/
def regTarget (w : IW) (t : Tile) : Nat := (t.sreg (w.f 39 5)).toNat

/-! Scalar operations. -/

/-- R77: shifts are by the low 6 bits of the second operand. -/
def shl64 (a b : Word) : Word := a <<< (b.toNat % 64)
def shr64 (a b : Word) : Word := a >>> (b.toNat % 64)
def sar64 (a b : Word) : Word := a.sshiftRight (b.toNat % 64)

def smin64 (a b : Word) : Word := if BitVec.slt a b then a else b
def smax64 (a b : Word) : Word := if BitVec.slt a b then b else a
def umin64 (a b : Word) : Word := if BitVec.ult a b then a else b
def umax64 (a b : Word) : Word := if BitVec.ult a b then b else a

/-- R81: bits [127:64] of the signed product, and of the unsigned. -/
def mulh64 (a b : Word) : Word := BitVec.ofInt 64 (a.toInt * b.toInt / 2 ^ 64)
def mulhu64 (a b : Word) : Word := BitVec.ofNat 64 (a.toNat * b.toNat / 2 ^ 64)

/-- R81: a division by 0 gives all ones and the dividend as remainder; the signed overflow gives the dividend and 0. -/
def div64 (a b : Word) : Word := if b = 0 then BitVec.allOnes 64 else BitVec.sdiv a b
def divu64 (a b : Word) : Word := if b = 0 then BitVec.allOnes 64 else a / b
def rem64 (a b : Word) : Word := if b = 0 then a else BitVec.srem a b
def remu64 (a b : Word) : Word := if b = 0 then a else a % b

/-! Contexts' pages (R345, R346, R476, R478). -/

/-- An access of context `c`'s own page at module offset `a`, by the PF or by the context's VF. -/
def State.byPage (s : State) (vf : Bool) (c a : Nat) (k : State → State) : State :=
  if vf && !s.funcLive (c + 1) then s.errc 3 1 else s.byHost a k

/-- The arming of a host wait slot by the PF or the VF, whose MSI-X vector it names. -/
def State.armSlot (s : State) (vf : Bool) (c w : Nat) (v : Word) : State := s.hostArm (if vf then c + 1 else 0) c w v

/-- A write of ERRC's ring registers (R410). -/
def State.ringRegWrite (s : State) (w : RingReg) (v : Word) : State := match w with
  | .dbaddr => s.dbaddrWrite v
  | .dbcfg => s.dbcfgWrite v

/-- R463: the read of an even counter. -/
def State.evenRead (s : State) (k : CounterSet) (at_ : Nat) : State := match k with
  | .die d j => s.hostRead 0 (F.DPC_CNT.count d (2 * j)).addr 8 at_
  | .fabric f j => s.hostRead 0 (F.FPC_CNT.count f (2 * j)).addr 8 at_
  | .tile t j => s.withTile t fun s p => s.tileEvenRead p j

/-! Easel and the pins. -/

/-- A management command through the mailbox or the management bus (R486-R490). -/
def State.easCommand (s : State) (code : Nat) (r : EasReq) (at_ : Nat) : State := match r with
  | .mailbox => s.mailCommand code at_
  | .bus tag payload crc => s.busCommand code tag.toNat (payload.map BitVec.toNat) crc.toNat at_

/-- A temperature sample (R512). -/
def State.sampleAt (s : State) (x : ThermalSite) (at_ : Nat) : State := match x with
  | .compute d die stks => s.thermalSample d die.toList stks.toList at_
  | .fabric f l => s.fabSample f l.toList at_

/-- The test access port shows an instruction: 0 BYPASS, 1 IDCODE, 2 SAMPLE/PRELOAD, 3 EXTEST. -/
def State.tapShow (s : State) (n : Nat) : State := { s with host := { s.host with tap := n } }

/-- R491: an instruction that is not available acts as BYPASS; what Knakor's own instructions do, the manual does not say. -/
def State.tapLoad (s : State) (i : TapInstr) : Result := match i with
  | .bypass => .next (s.tapShow 0)
  | .idcode => .next (s.tapShow 1)
  | .sample => .next (s.tapShow (if s.tapBoundary then 2 else 0))
  | .extest => .next (s.tapShow (if s.tapBoundary then 3 else 0))
  | .knakor => if s.debugOpen then .refused .knakorTap else .next (s.tapShow 0)

/-- R259, R33, R388: both inputs of a fabric die dark is a fault of the module, which the fault manager reports. -/
def State.laserLost (s : State) (f k pwr at_ : Nat) : State :=
  let was := s.laserLit f
  let s := s.laserDark f k pwr at_
  if was && !s.laserLit f then s.sendFail (fabErrc f 0xF) else s

/-- R37: at the end of a tile's exchange phase the fabric requests held at its edge are presented again. -/
def State.phaseEnd (s : State) (p at_ : Nat) : State :=
  let t := s.tile p
  if t.inPhase then s.edgeDrain p at_ else s

end Sys2Proof.Machine
end

