-- ==== Sys2Proof/Machine/ExecEngines.lean ====
section
/-! DEFINITION. The Muller, Glaze and exchange commands of a tile, the update watch's deliveries and the row maps
(R88-R94, R162-R236, R363). -/

namespace Sys2Proof.Machine

/-- MMAC (R93): MMAC enters the Muller queue with a matrix multiply-accumulate descriptor. -/
def execMmac (t : TileId) (w : IW) (s : State) : Result :=
  .next (s.runTile t fun x => x.engine w .mmac (w.f 0 18 = 0) false)

/-- MCLR (R173): MCLR enters the Muller queue to zero the accumulator blocks of its mask. -/
def execMclr (t : TileId) (w : IW) (s : State) : Result :=
  .next (s.runTile t fun x => x.engine w .mclr (w.f 8 10 = 0) true)

/-- MSTORE (R174): MSTORE enters the Muller queue to convert accumulator blocks and write them to the Palette. -/
def execMstore (t : TileId) (w : IW) (s : State) : Result :=
  .next (s.runTile t fun x => x.engine w .mstore (w.f 0 18 = 0) false)

/-- MULLER_OPERATION_START (R178): A Muller operation at the head of its queue starts once its start conditions hold,
and is validated or rejected. -/
def execMullerOperationStart (t : TileId) (c : Nat) (s : State) : Result :=
  .next (s.runTile t fun x => x.mullerStart c)

/-- STEP_COMMIT (R165): An accumulation step of one chunk commits into its target block, rounded once. -/
def execStepCommit (t : TileId) (es : List MulFault) (s : State) : Result :=
  .next (s.runTile t fun x => x.stepCommit es)

/-- BLOCK_COMPLETE (R179): A target block completes, its checksum comparison runs, and the token clears at the last
block. -/
def execBlockComplete (t : TileId) (s : State) : Result := .next (s.runTile t TW.blockComplete)

/-- MSTORE_PIECE (R176): A pair of MSTORE pieces is granted and written, and the token clears after the last piece. -/
def execMstorePiece (t : TileId) (s : State) : Result := .next (s.runTile t TW.mstorePiece)

/-- GRUN (R93): GRUN enters the Glaze queue with a chain descriptor. -/
def execGrun (t : TileId) (w : IW) (s : State) : Result :=
  .next (s.runTile t fun x => x.engine w .grun (w.f 0 18 = 0) false)

/-- GRUN_START (R211): A GRUN starts, validates its descriptor, and reads its chain row and the reads of beat 0. -/
def execGrunStart (t : TileId) (c : Nat) (s : State) : Result := .next (s.runTile t fun x => x.grunStart c)

/-- GLAZE_BEAT (R212): The reads of a beat are granted, and its values pass through the chain to the outputs and the
tree. -/
def execGlazeBeat (t : TileId) (s : State) : Result := .next (s.runTile t TW.glazeBeat)

/-- WATCH_DELIVERY (R363): The update-watch unit receives a watched segment record and adds it to its layer entry. -/
def execWatchDelivery (s : State) : Result := .next (s.watchDelivery)

/-- XSEND (R217): XSEND reads a source row and sends it to a tile named by an immediate tile ID, after window and
destination checks. -/
def execXsend (t : TileId) (w : IW) (s : State) : Result := .next (s.runTile t fun x => x.xsend w)

/-- XSENDR (R217): XSENDR sends a row to a tile whose ID is taken from a register. -/
def execXsendr (t : TileId) (w : IW) (s : State) : Result := .next (s.runTile t fun x => x.xsendr w)

/-- DELIVERY (R226): Twenty-four cycles after a send, the receiver resolves collisions, checks the delivery and
commits it, and the sender's token clears. -/
def execDelivery (t : TileId) (s : State) : Result := .next (s.withTile t State.delivery)

/-- DIE_TMAP_NEXT_WRITE (R231): A write to DIE_TMAP_NEXTr in a tile cycle of the die checks the candidate map and
stages it, or applies it at once in an idle row. -/
def execDieTmapNextWrite (d : Fin 4) (r : Fin 48) (w : TimedWrite) (s : State) : Result :=
  .next (s.byHost (tmapNextAddr d r) fun s => s.tmapNextWrite d r (BitVec.allOnes 64) w.v w.cyc)

end Sys2Proof.Machine
end

