-- ==== Sys2Proof/Machine/ExecFabric.lean ====
section
/-! DEFINITION. The commands of the fabric: flows, links and gradient blending (R257-R322). -/

namespace Sys2Proof.Machine

/-- FPUT (R93): FPUT enters the fabric queue to write into a remote receive window. -/
def execFput (t : TileId) (w : IW) (s : State) : Result :=
  .next (s.runTile t fun x => x.engine w .fput (w.f 0 18 = 0) false)

/-- FSEND (R93): FSEND enters the fabric queue to send on a stream or bucket flow. -/
def execFsend (t : TileId) (w : IW) (s : State) : Result :=
  .next (s.runTile t fun x => x.engine w .fsend (w.f 0 18 = 0) false)

/-- FABRIC_OPERATION_START (R280): An FPUT or FSEND reaches its flow context, is checked, and then takes credit or
sends its flits. -/
def execFabricOperationStart (t : TileId) (at_ c : Nat) (s : State) : Result :=
  .next (s.withTile t fun s p => s.fabricStart p at_ c)

/-- BUCKET_BLOCK_PASS (R302): A bucket FSEND passes its next block into the blend store once the block lies inside its
window. -/
def execBucketBlockPass (i : Fin 16384) (at_ c : Nat) (s : State) : Result := .next (s.blockPass i at_ c)

/-- FLIT_RECEIVE (R263): A router checks a received flit and routes, forwards, detours or drops it. -/
def execFlitReceive (f : Fin 2) (p : Fin 24) (num : BitVec 24) (cw : Codewords) (hdr : BitVec 128) (data : BitVec
    1024) (s : State) : Result :=
  .next (s.flitReceive f p num.toNat cw.code ⟨hdr, data⟩)

/-- OUTPUT_SLOT (R268): An output port chooses what to send in a slot: a VC3 flit, a framing LCF, another flit or an
idle LCF. -/
def execOutputSlot (f : Fin 2) (p : Fin 24) (at_ : Nat) (s : State) : Result := .next (s.outputSlot f p at_)

/-- WRITE (R282): A WRITE flit for this module is resolved at the flow's die and passed to the tile or refused with a
NACK. -/
def execWrite (at_ c : Nat) (s : State) : Result := .next (s.write at_ c)

/-- CREDIT (R281): A CREDIT flit reaches a send end and is added to the flow's credits, discarded, or refused for
epoch. -/
def execCredit (at_ c : Nat) (s : State) : Result := .next (s.credit at_ c)

/-- ACK (R283): An ACK advances the send end's resolved count and clears the tokens of resolved operations. -/
def execAck (at_ c : Nat) (s : State) : Result := .next ((s.ack at_ c).afterFlow at_ c)

/-- NACK (R282): A NACK reaches the send end, is counted by cause, and marks its matching operation. -/
def execNack (at_ c : Nat) (s : State) : Result := .next ((s.nack at_).afterFlow at_ c)

/-- ACK_TIMER (R283): Two microseconds after an unreported resolution, the receive end sends an ACK. -/
def execAckTimer (i : Fin 16384) (at_ : Nat) (s : State) : Result := .next (s.ackTimer i at_)

/-- FLOW_TIMEOUT (R283): flow_to passes without resolution; the operation clears with ERROR and the shortfall is
counted as lost. -/
def execFlowTimeout (i : Fin 16384) (at_ c : Nat) (s : State) : Result :=
  .next ((s.flowTimeout i at_ c).afterFlow at_ c)

/-- FLOW_ENABLE (R278): A write of valid 1 to a flow context makes it ACTIVE or PENDING_ENABLE. -/
def execFlowEnable (i : Fin 16384) (v : Word) (s : State) : Result :=
  .next (s.byHost (w0Addr i) fun s => s.flowEnable i (setBit v 3))

/-- FLOW_DRAIN (R278): A write of valid 0 to a flow context starts its drain and abandons its round or relation. -/
def execFlowDrain (i : Fin 16384) (v : Word) (at_ c : Nat) (s : State) : Result :=
  .next (s.byHost (w0Addr i) fun s => (s.flowDrain i (clearBit v 3) at_ c).afterFlow at_ c)

/-- FLOW_DRAIN_COMPLETE (R278): A flow's drain completes, and the context enters FREE or ACTIVE. -/
def execFlowDrainComplete (i : Fin 16384) (at_ c : Nat) (s : State) : Result :=
  .next ((s.flowDrained i at_ c).afterFlow at_ c)

/-- LCF_NORMAL (R258): A normal link control flit carries the cumulative ack and credit counts to the sender. -/
def execLcfNormal (f : Fin 2) (p : Fin 16) (x : BitVec 1152) (s : State) : Result := .next (s.lcfNormal f p x)

/-- REPLAY_REQUEST (R265): A replay-request LCF makes the sender resend from the bad flit. -/
def execReplayRequest (f : Fin 2) (p : Fin 16) (at_ : Nat) (x : BitVec 1152) (s : State) : Result :=
  .next (s.replayRequest f p at_ x)

/-- IDENT (R287): Ident LCFs are exchanged; the peer's node ID is checked and the RTT is measured. -/
def execIdent (f : Fin 2) (p : Fin 16) (at_ : Nat) (x : BitVec 1152) (s : State) : Result := .next (s.ident f p at_ x)

/-- CREDIT_INIT (R287): A credit_init LCF is received and the port enters UP. -/
def execCreditInit (f : Fin 2) (p : Fin 16) (at_ : Nat) (x : BitVec 1152) (s : State) : Result :=
  .next ((s.creditInit f p at_ x).startClaims at_)

/-- FAB_PORT_ENABLE (R287): A write of enable 1 to FAB_PORT_CTLp starts training or becomes PENDING_ENABLE. -/
def execFabPortEnable (f : Fin 2) (p : Fin 16) (at_ : Nat) (s : State) : Result :=
  .next (s.byHost (F.FAB_PORT_CTL.enable f p).addr fun s => s.portEnable f p at_)

/-- FAB_PORT_DISABLE (R287): A write of enable 0 starts a port's drain. -/
def execFabPortDisable (f : Fin 2) (p : Fin 16) (at_ : Nat) (s : State) : Result :=
  .next (s.byHost (F.FAB_PORT_CTL.enable f p).addr fun s => s.portDisable f p at_)

/-- TRAINING_PATTERN_DETECTED (R287): All eight lanes detect the training pattern, and the port enters EQUALIZE. -/
def execTrainingPatternDetected (f : Fin 2) (p : Fin 16) (at_ : Nat) (s : State) : Result :=
  .next (s.patternDetected f p at_)

/-- EQUALIZE_COMPLETE (R287): The error ratio stays low for 10 ms, and the port enters LOCK. -/
def execEqualizeComplete (f : Fin 2) (p : Fin 16) (at_ : Nat) (s : State) : Result :=
  .next (s.trainStep f p PortState.equalize PortState.lock at_)

/-- LOCK_FOUND (R287): Codeword lock, frame marker and lane order are found, and the port enters IDENT. -/
def execLockFound (f : Fin 2) (p : Fin 16) (at_ : Nat) (s : State) : Result := .next (s.lockFound f p at_)

/-- TRAINING_TIMEOUT (R287): A training state's time limit passes, and the port returns to SIGNAL with one more
attempt counted. -/
def execTrainingTimeout (f : Fin 2) (p : Fin 16) (at_ : Nat) (s : State) : Result := .next (s.trainTimeout f p at_)

/-- RETRAIN (R287): Eight replays of one flit or a lost lane take an UP port into RETRAIN, discarding or rerouting its
flits. -/
def execRetrain (f : Fin 2) (p : Fin 16) (x : LinkLoss) (s : State) : Result :=
  .next (s.retrain f p x.at_ x.dark.toNat)

/-- RETRAIN_ATTEMPT_END (R287): A 1 ms retrain attempt ends; the port returns to UP or, after three failures, to
SIGNAL. -/
def execRetrainAttemptEnd (f : Fin 2) (p : Fin 16) (at_ : Nat) (ok : Bool) (s : State) : Result :=
  .next (s.retrainEnd f p at_ ok)

/-- PORT_DRAIN_COMPLETE (R287): A draining port empties or its 1 ms passes, and it goes dark. -/
def execPortDrainComplete (f : Fin 2) (p : Fin 16) (at_ : Nat) (s : State) : Result := .next (s.portDrained f p at_)

/-- DARK_TIMER_EXPIRY (R288): A port has been dark for 10 ms, and a pending enable starts training. -/
def execDarkTimerExpiry (f : Fin 2) (p : Fin 16) (at_ : Nat) (s : State) : Result := .next (s.darkExpiry f p at_)

/-- LASER_INPUT_DARK (R259): A laser input stays below threshold for 10 µs and becomes dark; with both dark, every
port of the die goes OFF. -/
def execLaserInputDark (f k : Fin 2) (pwr : BitVec 16) (at_ : Nat) (s : State) : Result :=
  .next (s.laserLost f k pwr.toNat at_)

/-- BUNDLE_GROUP_FAILURE (R286): A bridge bundle group asks for replay of one flit eight times in a row and has
failed. -/
def execBundleGroupFailure (b : Fin 5) (s : State) : Result := .next (s.bundleFailure b)

/-- BLEND_PART (R310): A Blend engine adds an upward BLEND part from a source into its accumulator slot after checks.
-/
def execBlendPart (at_ : Nat) (s : State) : Result := .next (s.blendPart at_)

/-- BLEND_END (R308): An upward END tells the parent that a source has sent its last block. -/
def execBlendEnd (at_ : Nat) (s : State) : Result := .next (s.blendEnd at_)

/-- ADVANCE (R309): An ADVANCE flit grants a child a new frontier for its window. -/
def execAdvance (m : Moment) (s : State) : Result := .next (s.advance m.fc m.tc)

/-- PARTIAL_EMIT (R305): A non-root node emits a completed block to its parent as a narrow or wide partial. -/
def execPartialEmit (i : Fin 16384) (at_ : Nat) (s : State) : Result := .next (s.partialEmit i at_)

/-- ROOT_BLOCK_COMPLETE (R299): The root completes a union block, updates its exponent entry and sends the result
down. -/
def execRootBlockComplete (i : Fin 16384) (at_ c : Nat) (s : State) : Result := .next (s.rootComplete i at_ c)

/-- BLEND_RESULT (R312): A result flit or a downward END reaches a member, is forwarded to its children and is written
into the contributing tile. -/
def execBlendResult (at_ c : Nat) (s : State) : Result := .next (s.blendResult at_ c)

/-- ROUND_COMPLETE (R314): A bucket round completes at a member; the parity flips and the member may signal its
counter. -/
def execRoundComplete (i : Fin 16384) (at_ c : Nat) (s : State) : Result := .next (s.roundComplete i at_ c)

/-- BLD_ACC_READ (R322): A read command copies a blend-store line into BLD_ACC_DATA. -/
def execBldAccRead (f : Fin 2) (s : State) : Result :=
  .next (s.byHost (F.BLD_ACC_CMD.read f).addr fun s => s.bldRead f)

/-- BLD_ACC_WRITE (R322): A write command copies BLD_ACC_DATA into a blend-store line unless the record's flow is not
FREE. -/
def execBldAccWrite (f : Fin 2) (s : State) : Result :=
  .next (s.byHost (F.BLD_ACC_CMD.read f).addr fun s => s.bldWrite f)

end Sys2Proof.Machine
end

