-- ==== Sys2Proof/Machine/ExecHost.lean ====
section
/-! DEFINITION. The commands of the host interface, of register accesses and of Easel (R14-R19, R461-R504). -/

namespace Sys2Proof.Machine

/-- EVEN_COUNTER_READ (R463): A read of an even performance counter copies the counter above it into HOLD. -/
def execEvenCounterRead (k : CounterSet) (at_ : Nat) (s : State) : Result := .next (s.evenRead k at_)

/-- RC_READ (R19): A read of an RC field returns its value and clears it. -/
def execRcRead (func : Fin 65) (a : BitVec 26) (n at_ : Nat) (s : State) : Result :=
  .next (s.hostRead func a.toNat n at_)

/-- PERF_TADDR_WRITE (R470): A write to PERF_TADDR latches the named tile's counters into PERF_TDATA. -/
def execPerfTaddrWrite (v : BitVec 14) (s : State) : Result :=
  .next (s.byHost F.PERF_TADDR.die.addr fun s => s.perfTaddr (v.setWidth 64))

/-- PERF_HCLR_HBM (R470): PERF_HCLR.hbm clears every stream-engine histogram. -/
def execPerfHclrHbm (s : State) : Result := .next (s.byHost F.PERF_HCLR.hbm.addr fun s => s.clearHbmHist)

/-- PERF_HCLR_SYNC (R470): PERF_HCLR.sync clears every HST_SYNC. -/
def execPerfHclrSync (s : State) : Result := .next (s.byHost F.PERF_HCLR.hbm.addr fun s => s.clearSyncHist)

/-- PERF_HCLR_FLOW (R470): PERF_HCLR.flow clears both HST_FLOW histograms. -/
def execPerfHclrFlow (s : State) : Result := .next (s.byHost F.PERF_HCLR.hbm.addr fun s => s.clearFlowHist)

/-- REGISTER_WRITE (R15): A write to a register without a row of its own updates its fields by type and lock. -/
def execRegisterWrite (func : Fin 65) (win : Window) (a : BitVec 26) (n : Nat) (v : Word) (at_ cyc : Nat) (s :
    State) : Result :=
  .next (s.hostWrite func win a.toNat n v at_ cyc)

/-- LINK_DOWN (R475): The PCIe link goes down, and contexts and host-facing registers are reset as keep_link states.
-/
def execLinkDown (at_ cyc : Nat) (s : State) : Result := .next (s.linkDown at_ cyc)

/-- HOT_RESET (R475): A PCIe hot reset resets host-facing registers and contexts as keep_link states. -/
def execHotReset (at_ cyc : Nat) (s : State) : Result := .next (s.linkEvent at_ cyc)

/-- FUNCTION_LEVEL_RESET (R475): A Function Level Reset of the PF acts as a link event; one of a VF resets its
context. -/
def execFunctionLevelReset (func : Fin 65) (at_ cyc : Nat) (s : State) : Result := .next (s.funcReset func at_ cyc)

/-- PERST_N (R517): Assertion of PERST_N resets the PCIe endpoint as a hot reset and retrains the link. -/
def execPerstN (at_ cyc : Nat) (s : State) : Result := .next (s.perst at_ cyc)

/-- POISONED_WRITE_REQUEST (R474): A poisoned host write request is discarded and counted. -/
def execPoisonedWriteRequest (s : State) : Result := .next (s.poisonedWrite)

/-- UNSUPPORTED_REQUEST (R474): A request outside every BAR completes as Unsupported Request. -/
def execUnsupportedRequest (s : State) : Result := .next (s.unsupported)

/-- HCTX_ENABLE (R480): A write of enable 1 to HCTX_CTLc makes the context ACTIVE or PENDING_ENABLE. -/
def execHctxEnable (c : Fin 64) (v : Word) (s : State) : Result :=
  .next (s.hostCommand fun s => s.hctxEnable c (setBit v 0))

/-- HCTX_DISABLE (R480): A write of enable 0 resets the context toward FREE. -/
def execHctxDisable (c : Fin 64) (v : Word) (at_ cyc : Nat) (s : State) : Result :=
  .next (s.hostCommand fun s => s.hctxDisable c (clearBit v 0) at_ cyc)

/-- CONTEXT_RESET (R518): HCTX_CTLc.reset or an equivalent trigger starts a context reset with all its effects. -/
def execContextReset (c : Fin 64) (at_ cyc : Nat) (s : State) : Result :=
  .next (s.hostCommand fun s => s.ctxReset c at_ cyc false)

/-- CONTEXT_RESET_COMPLETE (R481): Every condition of a context reset holds; the context enters its next state and the
PF vector is sent. -/
def execContextResetComplete (c : Fin 64) (s : State) : Result := .next (s.resetCompleteAll c)

/-- BAR4_ACCESS (R498): A host access through the debug aperture reaches a physical tile while the aperture is open.
-/
def execBar4Access (a : BitVec 28) (c : Nat) (acc : HostAccess) (s : State) : Result :=
  if acc.ok then .next (s.bar4 a.toNat acc.size c acc.data) else .refused .illFormed

/-- GET_ID (R488): Easel returns MOD_ID, MOD_SERIAL and MOD_EAS. -/
def execGetId (r : EasReq) (at_ : Nat) (s : State) : Result :=
  if r.ok then .next (s.easCommand 0x01 r at_) else .refused .illFormed

/-- GET_STATUS (R488): Easel returns module state, profile, locks and fuse counts. -/
def execGetStatus (r : EasReq) (at_ : Nat) (s : State) : Result :=
  if r.ok then .next (s.easCommand 0x02 r at_) else .refused .illFormed

/-- GET_SENSOR (R488): Easel returns a sensor reading and its flags. -/
def execGetSensor (r : EasReq) (at_ : Nat) (s : State) : Result :=
  if r.ok then .next (s.easCommand 0x03 r at_) else .refused .illFormed

/-- GET_ERRC (R488): Easel returns an ERRC counter. -/
def execGetErrc (r : EasReq) (at_ : Nat) (s : State) : Result :=
  if r.ok then .next (s.easCommand 0x04 r at_) else .refused .illFormed

/-- READ_LOG (R488): Easel returns 128 B of its log. -/
def execReadLog (r : EasReq) (at_ : Nat) (s : State) : Result :=
  if r.ok then .next (s.easCommand 0x05 r at_) else .refused .illFormed

/-- SET_NEXT (R488): Easel sets the profile slot for the next module reset. -/
def execSetNext (r : EasReq) (at_ : Nat) (s : State) : Result :=
  if r.ok then .next (s.easCommand 0x06 r at_) else .refused .illFormed

/-- STAGE_PROFILE (R488): Easel places 128 B into the profile staging buffer. -/
def execStageProfile (r : EasReq) (at_ : Nat) (s : State) : Result :=
  if r.ok then .next (s.easCommand 0x07 r at_) else .refused .illFormed

/-- COMMIT_PROFILE (R494): Easel checks the staged profile and writes it into a slot, advancing its rewrite counter.
-/
def execCommitProfile (r : EasReq) (at_ : Nat) (s : State) : Result :=
  if r.ok then .next (s.easCommand 0x08 r at_) else .refused .illFormed

/-- READ_PROFILE (R488): Easel returns 128 B of a profile slot. -/
def execReadProfile (r : EasReq) (at_ : Nat) (s : State) : Result :=
  if r.ok then .next (s.easCommand 0x09 r at_) else .refused .illFormed

/-- SET_LOCK (R495): Easel sets MOD_LOCK bits from a mask. -/
def execSetLock (r : EasReq) (at_ : Nat) (s : State) : Result :=
  if r.ok then .next (s.easCommand 0x0A r at_) else .refused .illFormed

/-- MODULE_RESET (R488): Easel answers and then asserts a module reset. -/
def execModuleReset (r : EasReq) (at_ : Nat) (s : State) : Result :=
  if r.ok then .next (s.easCommand 0x0B r at_) else .refused .illFormed

/-- STAGE_FW (R488): Easel stages 128 B of a firmware image. -/
def execStageFw (r : EasReq) (at_ : Nat) (s : State) : Result :=
  if r.ok then .next (s.easCommand 0x0C r at_) else .refused .illFormed

/-- COMMIT_FW (R485): Easel verifies the staged firmware and writes it over the older image. -/
def execCommitFw (r : EasReq) (at_ : Nat) (s : State) : Result :=
  if r.ok then .next (s.easCommand 0x0D r at_) else .refused .illFormed

/-- ADVANCE_SVN (R497): Easel blows security-version fuses up to the given value. -/
def execAdvanceSvn (r : EasReq) (at_ : Nat) (s : State) : Result :=
  if r.ok then .next (s.easCommand 0x0E r at_) else .refused .illFormed

/-- SETDASA (R487): The I3C controller assigns Easel a dynamic address directly. -/
def execSetdasa (a : BitVec 7) (at_ : Nat) (s : State) : Result := .next (s.assignAddress a.toNat at_)

/-- ENTDAA (R487): The I3C controller assigns Easel a dynamic address through dynamic address assignment. -/
def execEntdaa (a : BitVec 7) (at_ : Nat) (s : State) : Result := .next (s.assignAddress a.toNat at_)

/-- TRANSACTION_TIMEOUT (R487): A management transaction exceeds 25 ms and is abandoned. -/
def execTransactionTimeout (at_ : Nat) (s : State) : Result := .next (s.busTimeout at_)

/-- MAILBOX_TIMEOUT (R489): A mailbox command not done in 5 s ends with TIMEOUT. -/
def execMailboxTimeout (s : State) : Result := .next (s.mailTimeout)

/-- CONSOLE_LINE (R490): A UART line is accepted as a command when the profile and lock permit it, and is discarded
otherwise. -/
def execConsoleLine (line : List Byte) (at_ : Nat) (s : State) : Result :=
  .next (s.consoleLine (line.map BitVec.toNat) at_)

/-- WATCHDOG_EXPIRY (R486): Easel's watchdog expires and Easel restarts alone, or enters safe mode after three
expiries. -/
def execWatchdogExpiry (at_ : Nat) (s : State) : Result := .next (s.watchdog at_)

/-- MOD_LOCK_WRITE (R495): A host write to MOD_LOCK sets lock bits. -/
def execModLockWrite (v : BitVec 6) (s : State) : Result :=
  .next (s.byHost F.MOD_LOCK.lock.addr fun s => s.setLocks v.toNat)

/-- MOD_CMD_RESET (R501): MOD_CMD.reset with key 0xA5 asserts a module reset, and any other key is rejected. -/
def execModCmdReset (key : BitVec 8) (at_ : Nat) (s : State) : Result := .next (s.resetCmd key.toNat at_)

/-- LINK_UP (R473): The PCIe link comes up, after which pending MSI-X messages, ring entries and export writes may be
sent again. -/
def execLinkUp (speed : Fin 7) (width : Fin 17) (flit bme : Bool) (vfs : Fin 65) (s : State) : Result :=
  .next (s.linkUp speed width flit bme vfs)

/-- TAP_INSTRUCTION (R491): An instruction is loaded through the IEEE 1149.1 test access port and acts as IDCODE,
BYPASS, SAMPLE/PRELOAD, EXTEST or one of Knakor's own instructions according to availability. -/
def execTapInstruction (i : TapInstr) (s : State) : Result := s.tapLoad i

end Sys2Proof.Machine
end

