-- ==== Sys2Proof/Machine/ExecMemory.lean ====
section
/-! DEFINITION. The commands of streams and HBM, of Palette registers, protection and Gesso (R100-R131, R237-R256,
R482, R483). -/

namespace Sys2Proof.Machine

/-- SLOAD (R93): SLOAD enters the stream queue to move rows from HBM to the Palette. -/
def execSload (t : TileId) (w : IW) (s : State) : Result :=
  .next (s.runTile t fun x => x.engine w .sload (engineParm w) false)

/-- SSTORE (R93): SSTORE enters the stream queue to move rows from the Palette to HBM. -/
def execSstore (t : TileId) (w : IW) (s : State) : Result :=
  .next (s.runTile t fun x => x.engine w .sstore (engineParm w) false)

/-- TRANSFER_START (R245): A stream engine starts a transfer and checks it against the region and engine state. -/
def execTransferStart (t : TileId) (c : Nat) (s : State) : Result :=
  .next (s.withTile t fun s p => s.transferStart p c)

/-- TRANSFER_COMPLETE (R246): A transfer completes, its token clears, and it may signal a counter. `lat` holds the
latencies of the rows of a turn, and `l` that of each row of the turn after them. -/
def execTransferComplete (t : TileId) (k c l : Nat) (lat : List Nat) (s : State) : Result :=
  .next (s.withTile t fun s p => s.transferComplete p k c (lat ++ List.replicate 8 l))

/-- HBM_SE_CTL_ENABLE (R248): A write to HBM_SE_CTLk.enable moves the engine between ON, DRAINING, OFF and
PENDING_ENABLE. -/
def execHbmSeCtlEnable (d : Fin 4) (k : Fin 6) (v : Bool) (s : State) : Result :=
  .next (s.byHost (F.HBM_SE_CTL.enable d k).addr fun s => s.seEnable d k v.toNat)

/-- ENGINE_DRAIN_COMPLETE (R248): The last started transfer of a draining engine completes, and the engine enters OFF
or ON. -/
def execEngineDrainComplete (d : Fin 4) (k : Fin 6) (s : State) : Result := .next (s.drainComplete d k)

/-- STACK_LOSS (R248): A stack fails training or is lost, its engine enters FAILED, and the recovery sequencer remaps
its regions. -/
def execStackLoss (d : Fin 4) (p : Fin 6) (cyc : Nat) (s : State) : Result := .next (s.stackLoss d p cyc)

/-- HBM_SEMAP_WRITE (R249): A write to HBM_SEMAP remaps logical stacks when the engines allow it, and is rejected
otherwise. -/
def execHbmSemapWrite (d : Fin 4) (w : SemapWrite) (s : State) : Result :=
  .next (s.byHost (F.HBM_SEMAP.phys d).addr fun s => s.semapWrite d w.v.toNat w.fw)

/-- REGION_ALLOCATE (R241): A write of valid 1 to a region slot checks the candidate and makes it ACTIVE or
PENDING_ENABLE. -/
def execRegionAllocate (d : Fin 4) (c k : Fin 64) (v : Word) (s : State) : Result :=
  .next (s.byHost (F.HBM_RGN.valid d c k).addr fun s => s.regionAllocate d c k (setBit v 39))

/-- REGION_RELEASE (R252): A write of valid 0 releases a region slot and marks its granules dirty. -/
def execRegionRelease (d : Fin 4) (c k : Fin 64) (s : State) : Result :=
  .next (s.byHost (F.HBM_RGN.valid d c k).addr fun s => s.regionRelease d c k)

/-- GRANULE_CLEAN (R253): Scrub of a granule completes, and a pending region may become ACTIVE. -/
def execGranuleClean (d : Fin 4) (p : Fin 6) (slots : Nat) (s : State) : Result := .next (s.granuleClean d p slots)

/-- BAR2_ACCESS (R482): A host access through a BAR2 window is checked against the region table and reaches HBM. -/
def execBar2Access (vf : Option (Fin 64)) (size a : Nat) (acc : HostAccess) (s : State) : Result :=
  if acc.ok then .next (s.bar2 (vf.map Fin.val) (2 ^ (30 + size)) a acc.size acc.data) else .refused .illFormed

/-- CORRECTED_WRITE_BACK (R106): A corrected segment is written back in the bank's first unclaimed cycle, but not during
Gesso (R127, R129). -/
def execCorrectedWriteBack (p : PhysTile) (c : Nat) (bank : Fin 16) (s : State) : Result :=
  .next (if s.erasing then s else s.onTile p.idx fun x => x.writeBackOne c bank)

/-- PATROL_READ (R109): A bank patrols its next row in an unclaimed cycle, at least 4,096 tc after its previous patrol
read, but not during Gesso (R127, R129); a blend store, which has no banks, its next line in the same manner (R306), `c`
counting fc. -/
def execPatrolRead (u : PatrolUnit) (c : Nat) (bank : Fin 16) (s : State) : Result := match u with
  | .palette p => .next (if s.erasing then s else s.onTile p.idx fun x => x.patrolOne c bank)
  | .store f => .next (s.bldPatrol f c)

/-- PAL_CTRL_PATROL_WRITE (R109): A write of patrol suspends the patrol or resumes it from the next row due. -/
def execPalCtrlPatrolWrite (t : TileId) (c : Nat) (v : Bool) (s : State) : Result :=
  .next (s.writeTileReg t fun x => x.patrolWrite c v.toNat)

/-- PAL_PART_WRITE (R114): A write to PAL_PARTk forms a candidate descriptor and replaces the register only if every
check passes. -/
def execPalPartWrite (t : TileId) (c : Nat) (k : Fin 16) (v : Word) (s : State) : Result :=
  .next (s.writeTileReg t fun x => x.partWrite c k (BitVec.allOnes 64) v)

/-- PAL_RXCFG_WRITE (R119): A write to PAL_RXCFGk opens or closes a window slot and sends credits to its flow. -/
def execPalRxcfgWrite (t : TileId) (k : Fin 4) (v : Word) (s : State) : Result :=
  .next (s.writeTileReg t fun x => x.rxCfgWrite k (BitVec.allOnes 64) v)

/-- PAL_RXREL_WRITE (R122): A write to PAL_RXRELk releases buffers in ring order and returns credits. -/
def execPalRxrelWrite (t : TileId) (k : Fin 4) (n : BitVec 7) (s : State) : Result :=
  .next (s.writeTileReg t fun x => x.rxRelWrite k n.toNat)

/-- GESSO_COMPLETE (R126): Gesso finishes on a tile, and pending row assignments, patrol and rolling scan may proceed.
-/
def execGessoComplete (p : PhysTile) (s : State) : Result := .next (s.gessoDone p.idx)

end Sys2Proof.Machine
end

