-- ==== Sys2Proof/Machine/ExecPower.lean ====
section
/-! DEFINITION. The commands of power, clocks, resets and boot, and the end of an exchange phase (R37, R505-R524,
R533, R534). -/

namespace Sys2Proof.Machine

/-- VAUX_GOOD (R533): VAUX becomes good and, once VMAIN is also good, a cold reset begins. -/
def execVauxGood (at_ : Nat) (s : State) : Result := .next (s.inputGood true at_)

/-- VAUX_LOST (R534): VAUX stays low for 20 µs, and the module powers down from its reservoir. -/
def execVauxLost (at_ : Nat) (s : State) : Result := .next (s.inputLost true at_)

/-- VMAIN_GOOD (R507): VMAIN rises above 46.0 V and starts a cold reset. -/
def execVmainGood (at_ : Nat) (s : State) : Result := .next (s.inputGood false at_)

/-- VMAIN_LOST (R507): VMAIN stays below 44.0 V for 20 µs, and the sequencing hardware powers down groups 7 to 1. -/
def execVmainLost (at_ : Nat) (s : State) : Result := .next (s.inputLost false at_)

/-- RAIL_FAILURE (R508): A rail stays outside ±5 % for 50 µs; it is recorded and FAIL is sent. -/
def execRailFailure (g : RailGroup) (at_ : Nat) (s : State) : Result := .next (s.railFailure g.number at_)

/-- RAIL_FAILURE_POWER_DOWN (R508): 100 ms after a rail failure, Easel powers the rails down and sets FAILED. -/
def execRailFailurePowerDown (at_ : Nat) (s : State) : Result := .next (s.railFailed at_)

/-- RAIL_GROUP_GOOD (R506): A rail group reaches ±3 % of nominal, and the next group starts. -/
def execRailGroupGood (g : RailGroup) (at_ : Nat) (s : State) : Result := .next (s.railGroupGood g.number at_)

/-- RAIL_GROUP_TIMEOUT (R506): A rail group is not good within 10 ms, and the boot fails. -/
def execRailGroupTimeout (g : RailGroup) (at_ : Nat) (s : State) : Result := .next (s.railGroupTimeout g.number at_)

/-- DROOP_TRIP (R510): A droop sensor crosses a threshold, and the die clock is stretched and the trip counted. -/
def execDroopTrip (d : Fin 4) (mv at_ : Nat) (s : State) : Result := .next (s.droop d mv at_)

/-- STRETCH_RELEASE (R510): 200 ns after the last call, a stretch level is released and the clock ramps back. -/
def execStretchRelease (d : Fin 4) (at_ : Nat) (s : State) : Result := .next (s.stretchRelease d at_)

/-- THERMAL_SAMPLE (R512): Every 1 ms, tj is sampled and the thermal step is adjusted. -/
def execThermalSample (site : ThermalSite) (at_ : Nat) (s : State) : Result := .next (s.sampleAt site at_)

/-- THERMAL_TRIP (R513): A reading of 105 °C asserts THERMTRIP_N and powers the module down. -/
def execThermalTrip (sensor : Fin 139) (at_ : Nat) (s : State) : Result := .next (s.thermalTrip sensor at_)

/-- POWER_SAMPLE (R514): At each 1 ms boundary the input power mean is compared with the limit and the power step is
adjusted. -/
def execPowerSample (l : Samples) (vaux at_ : Nat) (s : State) : Result := .next (s.powerSample l.toList vaux at_)

/-- PWR_LIMIT_WRITE (R514): A write to PWR_LIMIT is range-checked and locked by MOD_LOCK.margins. -/
def execPwrLimitWrite (v : BitVec 12) (s : State) : Result :=
  .next (s.byHost F.PWR_LIMIT.limit.addr fun s => s.limitWritePwr v.toNat)

/-- PWR_DROOP_WRITE (R524): A write to PWR_DIEd_DROOP is checked against its threshold bounds. -/
def execPwrDroopWrite (d : Fin 4) (v : Word) (s : State) : Result :=
  .next (s.byHost (F.PWR_DIE_DROOP.thr1 d).addr fun s => s.droopWrite d (BitVec.allOnes 64) v)

/-- MOD_RESET_N (R516): MOD_RESET_N asserted for 1 µs or more holds the module in module reset until it is released.
-/
def execModResetN (low : Bool) (ns at_ : Nat) (s : State) : Result := .next (s.resetPin low ns at_)

/-- STAGE_EASEL (R519): Boot stage 1 verifies the Easel image, samples the straps and chooses the profile. -/
def execStageEasel (master profile mgmt : StrapSamples) (at_ : Nat) (s : State) : Result :=
  .next (s.stageEasel master.list profile.list mgmt.list at_)

/-- STAGE_RAILS (R519): Boot stage 2 sequences the rails, loads fuses, starts the clocks and trains PCIe. -/
def execStageRails (at_ : Nat) (s : State) : Result := .next (s.stageRails at_)

/-- STAGE_BRIDGES_AND_HBM (R519): Boot stage 3 trains the bridges and stacks and turns the engines ON. -/
def execStageBridgesAndHbm (failed : Bundles) (trained : BitVec 24) (at_ : Nat) (s : State) : Result :=
  .next (s.stageHbm failed.toList trained.toNat at_)

/-- STAGE_QUICK_SCAN (R519): Boot stage 4 scans every tile, builds the maps, runs Gesso and starts scrub. -/
def execStageQuickScan (fails : List PhysTile) (at_ : Nat) (s : State) : Result :=
  .next (s.stageScan (fails.map PhysTile.idx) at_)

/-- STAGE_LINKS (R519): Boot stage 5 sets the node ID and trains the profile's ports. -/
def execStageLinks (at_ : Nat) (s : State) : Result := .next (s.stageLinks at_)

/-- STAGE_ENUMERATION (R519): Boot stage 6 enables SR-IOV, sets the locks and makes the module READY. -/
def execStageEnumeration (at_ : Nat) (s : State) : Result := .next (s.stageEnum at_)

/-- LASER_INPUT_LIT (R259): A laser input that was dark becomes lit again, in0_ok or in1_ok returns to 1, and OFF
ports with enable set may start training after 10 ms of dark. -/
def execLaserInputLit (f k : Fin 2) (pwr : BitVec 16) (at_ : Nat) (s : State) : Result :=
  .next (s.laserLitUp f k pwr.toNat at_)

/-- EXCHANGE_PHASE_END (R37): xlen cycles after a barrier release the tile's exchange phase ends, the compute phase
resumes and the edge port presents its held requests again. -/
def execExchangePhaseEnd (t : TileId) (at_ : Nat) (s : State) : Result :=
  .next (s.withTile t fun s p => s.phaseEnd p at_)

/-- CLOCK_RAMP_COMPLETE (R510): A droop ramp reaches f_ceil, and the die leaves the ramping state for the unstretched
clock. -/
def execClockRampComplete (d : Fin 4) (at_ : Nat) (s : State) : Result := .next (s.rampDone d at_)

end Sys2Proof.Machine
end

