-- ==== Sys2Proof/Machine/ExecRecovery.lean ====
section
/-! DEFINITION. The commands of Varnish, the Sketchbook and the recovery sequencer (R372-R406). -/

namespace Sys2Proof.Machine

/-- LOCAL_COPY_COMPLETE (R377): A snapshot's local copy completes; a torn snapshot is discarded, otherwise it becomes
LOCAL and may signal a counter. -/
def execLocalCopyComplete (c : Fin 64) (at_ cyc : Nat) (s : State) : Result := .next (s.localCopyDone c at_ cyc)

/-- SNAP_BEGIN (R383): A destination receives SNAP_BEGIN and chooses a buddy slot for the copy. -/
def execSnapBegin (s : State) : Result := .next (s.snapBegin)

/-- SNAP_END (R381): A destination receives SNAP_END and acknowledges once every byte is in its HBM. -/
def execSnapEnd (s : State) : Result := .next (s.snapEnd)

/-- SNAP_ACK (R382): The sender receives SNAP_ACK, marking the copy held or asking for the whole region. -/
def execSnapAck (at_ cyc : Nat) (s : State) : Result := .next (s.snapAck at_ cyc)

/-- LOG (R386): The log buddy receives a LOG record, mirrors it and answers LOGACK. -/
def execLog (s : State) : Result := .next (s.logIn)

/-- LOGACK (R386): The logger receives LOGACK for a mirrored record. -/
def execLogack (s : State) : Result := .next (s.logAck)

/-- MIRROR_LAG_TIMER (R386): A record unacknowledged for 10 ms is counted and sent again. -/
def execMirrorLagTimer (at_ : Nat) (s : State) : Result := .next (s.mirrorLag at_)

/-- CTRL_HEARTBEAT_TIMER (R387): Every hb_ms, a member sends HEARTBEAT to the coordinator and the standby. -/
def execCtrlHeartbeatTimer (at_ : Nat) (s : State) : Result := .next (s.heartbeatTimer at_)

/-- CTRL_HEARTBEAT (R387): The coordinator receives a member's recovery HEARTBEAT. -/
def execCtrlHeartbeat (at_ : Nat) (s : State) : Result := .next (s.heartbeatIn at_)

/-- HEARTBEAT_MISS (R387): A heartbeat period passes without a HEARTBEAT; after hb_lim misses the module is declared
lost. -/
def execHeartbeatMiss (n : BitVec 14) (at_ : Nat) (s : State) : Result := .next (s.heartbeatMiss n.toNat at_)

/-- FAIL (R388): The coordinator receives FAIL from a module's fault manager and declares the module lost. -/
def execFail (at_ : Nat) (s : State) : Result := .next (s.failIn at_)

/-- LINKDOWN (R387): The coordinator receives LINKDOWN and declares the module lost once enough neighbours confirm. -/
def execLinkdown (at_ : Nat) (s : State) : Result := .next (s.linkdownIn at_)

/-- EVENT (R388): The coordinator receives an EVENT and enters DECIDE. -/
def execEvent (at_ : Nat) (s : State) : Result := .next (s.eventIn at_)

/-- SNAPINFO (R395): The coordinator collects a member's snapshot holdings and may choose S. -/
def execSnapinfo (at_ : Nat) (s : State) : Result := .next (s.snapInfoIn at_)

/-- PLAN (R399): A member receives PLAN and restores every protected context to step S. -/
def execPlan (at_ cyc : Nat) (s : State) : Result := .next (s.planIn at_ cyc)

/-- REWIRE (R396): The spare and the neighbours receive REWIRE and take over the lost node's routes. -/
def execRewire (s : State) : Result := .next (s.rewireIn)

/-- REWIRED (R393): The coordinator receives REWIRED and, once every party has answered, enters FILL. -/
def execRewired (at_ : Nat) (s : State) : Result := .next (s.rewiredIn at_)

/-- FILL (R390): Sources and the spare receive FILL; the sources send their copies or answer ABANDON. -/
def execFill (at_ cyc : Nat) (s : State) : Result := .next (s.fillIn at_ cyc)

/-- FILL_COMMIT (R397): The spare's local slot holds a LOCAL snapshot of S, the fill commits and FILLED is sent. -/
def execFillCommit (s : State) : Result := .next (s.fillCommit)

/-- FILLED (R393): The coordinator receives FILLED and enters RESTORE. -/
def execFilled (at_ : Nat) (s : State) : Result := .next (s.filledIn at_)

/-- ABANDON (R398): The coordinator receives ABANDON, abandons the fill and returns to DECIDE. -/
def execAbandon (at_ : Nat) (s : State) : Result := .next (s.abandonIn at_)

/-- RESTORED (R402): The coordinator receives RESTORED and, once every member has answered, sends RESUME. -/
def execRestored (at_ : Nat) (s : State) : Result := .next (s.restoredIn at_)

/-- RESUME (R400): A member receives RESUME and prepares to resume at the named tick. -/
def execResume (s : State) : Result := .next (s.resumeIn)

/-- RESUME_TICK (R402): P fc after RESUME, the coordinator emits the resume tick. -/
def execResumeTick (at_ : Nat) (s : State) : Result := .next (s.resumeEmit at_)

/-- STATE (R391): The standby receives a part of the coordinator state and adopts it once every part is held. -/
def execState (s : State) : Result := .next (s.stateIn)

/-- SHRINK (R396): Members receive SHRINK when no spare remains for a lost node. -/
def execShrink (s : State) : Result := .next (s.shrinkIn)

/-- REWIRE_TIMEOUT (R393): rewire_ms passes; the spare is marked failed and the coordinator returns to DECIDE. -/
def execRewireTimeout (at_ : Nat) (s : State) : Result := .next (s.rewireTimeout at_)

/-- FILL_TIMEOUT (R393): fill_10ms passes, and the fill is abandoned. -/
def execFillTimeout (at_ : Nat) (s : State) : Result := .next (s.fillTimeout at_)

/-- RESTORE_TIMEOUT (R393): restore_10ms passes, and the coordinator returns to DECIDE. -/
def execRestoreTimeout (at_ : Nat) (s : State) : Result := .next (s.restoreTimeout at_)

/-- RETRY (R393): RCV_CMD.retry takes the coordinator from HOST to DECIDE. -/
def execRetry (at_ : Nat) (s : State) : Result := .next (s.byHost F.RCV_CMD.retry.addr fun s => s.retry at_)

/-- ABORT (R393): RCV_CMD.abort takes the coordinator from HOST to RUN with ticks stopped. -/
def execAbort (at_ : Nat) (s : State) : Result := .next (s.byHost F.RCV_CMD.retry.addr fun s => s.abort at_)

/-- SHRINK_DONE (R393): RCV_CMD.shrink_done takes the coordinator from SHRINK to RESTORE. -/
def execShrinkDone (at_ : Nat) (s : State) : Result := .next (s.byHost F.RCV_CMD.retry.addr fun s => s.shrinkDone at_)

/-- RESTORE_COMPLETE (R399): A member's restore of a protected context finishes its last step on all four dies, the
resume record is written and RESTORED is sent. -/
def execRestoreComplete (c : Fin 64) (at_ cyc : Nat) (s : State) : Result := .next (s.restoreComplete c at_ cyc)

/-- CONFIRM_WINDOW_EXPIRY (R387): confirm_ms passes after the first LINKDOWN without enough confirming neighbours, and
the reports count as a link failure in RCV_CNT_LINK. -/
def execConfirmWindowExpiry (n : BitVec 14) (at_ : Nat) (s : State) : Result := .next (s.confirmExpiry n.toNat at_)

end Sys2Proof.Machine
end

