-- ==== Sys2Proof/Machine/ExecRepair.lean ====
section
/-! DEFINITION. The commands of error totals, repair and the loader (R408-R460). -/

namespace Sys2Proof.Machine

/-- ERRC_UPDATE (R408): A source increment reaches its ERRC total within 10 µs. -/
def execErrcUpdate (s : State) : Result := .next (s.errcUpdate)

/-- ERRC_THR_ARM (R409): A write that sets armed in ERRC_THRi arms a threshold and rings at once if it is already met.
-/
def execErrcThrArm (i : Fin 512) (v : Word) (s : State) : Result :=
  .next (s.byHost (F.ERRC_THR.thr i).addr fun s => s.thrArm i (setBit v 50))

/-- ERRC_DBADDR_WRITE (R411): A write to ERRC_DBADDR or to size_log2 resets the ring's tail and head. -/
def execErrcDbaddrWrite (w : RingReg) (v : Word) (s : State) : Result :=
  .next (s.byHost F.ERRC_DBADDR.addr.addr fun s => s.ringRegWrite w v)

/-- SUSPECT_EVENT (R415): Easel firmware takes a suspect event and opens a suspicion with a margin step, or retires
the tile. -/
def execSuspectEvent (d : Fin 4) (at_ : Nat) (s : State) : Result :=
  .next (if s.easUp at_ && s.get F.MOD_EAS.safe = 0 then s.suspectEvent d at_ else s)

/-- SUSPICION_EXPIRY (R415): A suspicion expires without a second event and closes. -/
def execSuspicionExpiry (d : Fin 4) (at_ : Nat) (s : State) : Result := .next (s.suspicionExpiry d at_)

/-- REP_MARGIN_WRITE (R415): A host write to REP_MARGIN sets the margin steps, subject to its lock. -/
def execRepMarginWrite (d : Fin 4) (v : Word) (s : State) : Result :=
  .next (s.byHost (F.REP_MARGIN.vstep d).addr fun s => s.marginWrite d (BitVec.allOnes 64) v)

/-- MIGRATION_START (R416): The repair unit starts a migration that mirrors writes and copies a tile onto another
column. -/
def execMigrationStart (d : Fin 4) (r : Fin 48) (s : State) : Result := .next (s.migrationStart d r)

/-- COPY_COMPLETE (R417): The copier finishes, and the migration waits for a qualifying barrier. -/
def execCopyComplete (d : Fin 4) (r : Fin 48) (q : Fin 34) (at_ : Nat) (s : State) : Result :=
  .next (s.copyComplete d r q at_)

/-- MIGRATION_TIMEOUT (R419): A migration that has not switched within 1 s of its copy is abandoned. -/
def execMigrationTimeout (d : Fin 4) (r : Fin 48) (q : Fin 34) (at_ : Nat) (s : State) : Result :=
  .next (s.migrationTimeout d r q at_)

/-- AUDIT_START (R420): gap_ms after the last audit, a row starts an audit of its next target. -/
def execAuditStart (d : Fin 4) (r : Fin 48) (at_ : Nat) (s : State) : Result := .next (s.auditStart d r at_)

/-- ROLLING_SCAN_ROW (R425): After gap_ms, rolling scan moves to the die's next row and scans its columns. -/
def execRollingScanRow (d : Fin 4) (at_ : Nat) (s : State) : Result := .next (s.scanNextRow d at_)

/-- SCAN_RESULT (R426): A column's scan passes or fails, leading to a retry, a retirement or a suspect event. -/
def execScanResult (p : PhysTile) (pass : Bool) (at_ : Nat) (s : State) : Result :=
  .next (s.scanResult p.die p.row p.col pass at_)

/-- REP_COMMIT_GO (R429): A write of go to REP_COMMIT requests a fuse commit of unfused retirements, or is rejected.
-/
def execRepCommitGo (d : Fin 4) (s : State) : Result :=
  .next (s.byHost (F.REP_COMMIT.go d).addr fun s => s.commitGo d)

/-- FUSE_PROGRAM_COMPLETE (R429): Easel firmware programs a commit slot and reads it back; a failure is counted. -/
def execFuseProgramComplete (d : Fin 4) (good : Bool) (s : State) : Result :=
  .next ((s.fuseProgrammed d good).mirrorFuses)

/-- LDR_CTX_ROWS_WRITE (R443): A write to LDR_CTXc_ROWS assigns or releases rows, perhaps pending Gesso. -/
def execLdrCtxRowsWrite (d : Fin 4) (c : Fin 64) (v : BitVec 48) (s : State) : Result :=
  .next (s.byHost (F.LDR_CTX_ROWS.rows d c).addr fun s => s.ldrRowsWrite d c v.toNat)

/-- LOAD (R444): A load command starts a load of the image, or is held or rejected. -/
def execLoad (d : Fin 4) (c : Fin 64) (auto : Bool) (s : State) : Result :=
  .next (s.byHost (F.LDR_CTX_CMD.load d c).addr fun s => s.load d c false auto)

/-- LOAD_RESTORE (R449): A load with restore reloads from the image area and bumps every flow epoch. -/
def execLoadRestore (d : Fin 4) (c : Fin 64) (auto : Bool) (s : State) : Result :=
  .next (s.byHost (F.LDR_CTX_CMD.load d c).addr fun s => s.load d c true auto)

/-- LOAD_FINISH (R445): The loader completes its steps and enters LOADED, or fails with an error code. -/
def execLoadFinish (d : Fin 4) (c : Fin 64) (cyc at_ : Nat) (s : State) : Result := .next (s.loadFinish d c cyc at_)

/-- START (R448): A start command starts every tile of the context on the die in one cycle. -/
def execStart (d : Fin 4) (c : Fin 64) (cyc at_ : Nat) (s : State) : Result :=
  .next (s.byHost (F.LDR_CTX_CMD.load d c).addr fun s => s.start d c cyc at_)

/-- PEN_RING_WRITE (R459): A write to PEN_RING sets the sample ring and resets its tail and head. -/
def execPenRingWrite (d : Fin 4) (v : Word) (s : State) : Result :=
  .next (s.byHost (F.PEN_RING.rgn d).addr fun s => s.penRing d v)

end Sys2Proof.Machine
end

