-- ==== Sys2Proof/Machine/ExecScalar.lean ====
section
/-! DEFINITION. The scalar instructions of a tile's sequencer (R64-R98). -/

namespace Sys2Proof.Machine

/-- NOP (R76): NOP does nothing for one cycle. -/
def execNop (t : TileId) (w : BitVec 64) (s : State) : Result := .next (s.runTile t fun x => x.nop w)

/-- END (R76): END issues once the tile is idle; the tile then counts as arriving at every later barrier and tick. -/
def execEndTile (t : TileId) (w : IW) (s : State) : Result :=
  .next (s.withTile t fun s p => ((s.onTile p fun x => x.endTile w).qualify t.die).auditCompare p)

/-- ADD (R77): The ALU adds two registers, wrapping at 64 bits. -/
def execAdd (t : TileId) (w : IW) (s : State) : Result := .next (s.runTile t fun x => x.alu w (· + ·))

/-- SUB (R77): The ALU subtracts one register from another, wrapping at 64 bits. -/
def execSub (t : TileId) (w : IW) (s : State) : Result := .next (s.runTile t fun x => x.alu w (· - ·))

/-- AND (R77): The ALU forms the bitwise AND of two registers. -/
def execAnd (t : TileId) (w : IW) (s : State) : Result := .next (s.runTile t fun x => x.alu w (· &&& ·))

/-- OR (R77): The ALU forms the bitwise OR of two registers. -/
def execOr (t : TileId) (w : IW) (s : State) : Result := .next (s.runTile t fun x => x.alu w (· ||| ·))

/-- XOR (R77): The ALU forms the bitwise XOR of two registers. -/
def execXor (t : TileId) (w : IW) (s : State) : Result := .next (s.runTile t fun x => x.alu w (· ^^^ ·))

/-- SHL (R77): The ALU shifts a register left. -/
def execShl (t : TileId) (w : IW) (s : State) : Result := .next (s.runTile t fun x => x.alu w shl64)

/-- SHR (R77): The ALU shifts a register right, filling with zeros. -/
def execShr (t : TileId) (w : IW) (s : State) : Result := .next (s.runTile t fun x => x.alu w shr64)

/-- SAR (R77): The ALU shifts a register right, filling with the sign. -/
def execSar (t : TileId) (w : IW) (s : State) : Result := .next (s.runTile t fun x => x.alu w sar64)

/-- MIN (R77): The ALU takes the signed minimum of two registers. -/
def execMin (t : TileId) (w : IW) (s : State) : Result := .next (s.runTile t fun x => x.alu w smin64)

/-- MAX (R77): The ALU takes the signed maximum of two registers. -/
def execMax (t : TileId) (w : IW) (s : State) : Result := .next (s.runTile t fun x => x.alu w smax64)

/-- MINU (R77): The ALU takes the unsigned minimum of two registers. -/
def execMinu (t : TileId) (w : IW) (s : State) : Result := .next (s.runTile t fun x => x.alu w umin64)

/-- MAXU (R77): The ALU takes the unsigned maximum of two registers. -/
def execMaxu (t : TileId) (w : IW) (s : State) : Result := .next (s.runTile t fun x => x.alu w umax64)

/-- ADDI (R77): ALUI adds a sign-extended immediate to a register. -/
def execAddi (t : TileId) (w : IW) (s : State) : Result := .next (s.runTile t fun x => x.alui w (· + ·))

/-- SUBI (R77): ALUI subtracts a sign-extended immediate from a register. -/
def execSubi (t : TileId) (w : IW) (s : State) : Result := .next (s.runTile t fun x => x.alui w (· - ·))

/-- ANDI (R77): ALUI forms the AND of a register and an immediate. -/
def execAndi (t : TileId) (w : IW) (s : State) : Result := .next (s.runTile t fun x => x.alui w (· &&& ·))

/-- ORI (R77): ALUI forms the OR of a register and an immediate. -/
def execOri (t : TileId) (w : IW) (s : State) : Result := .next (s.runTile t fun x => x.alui w (· ||| ·))

/-- XORI (R77): ALUI forms the XOR of a register and an immediate. -/
def execXori (t : TileId) (w : IW) (s : State) : Result := .next (s.runTile t fun x => x.alui w (· ^^^ ·))

/-- SHLI (R77): ALUI shifts a register left by an immediate. -/
def execShli (t : TileId) (w : IW) (s : State) : Result := .next (s.runTile t fun x => x.alui w shl64)

/-- SHRI (R77): ALUI shifts a register right by an immediate, filling with zeros. -/
def execShri (t : TileId) (w : IW) (s : State) : Result := .next (s.runTile t fun x => x.alui w shr64)

/-- SARI (R77): ALUI shifts a register right by an immediate, filling with the sign. -/
def execSari (t : TileId) (w : IW) (s : State) : Result := .next (s.runTile t fun x => x.alui w sar64)

/-- MINI (R77): ALUI takes the signed minimum of a register and an immediate. -/
def execMini (t : TileId) (w : IW) (s : State) : Result := .next (s.runTile t fun x => x.alui w smin64)

/-- MAXI (R77): ALUI takes the signed maximum of a register and an immediate. -/
def execMaxi (t : TileId) (w : IW) (s : State) : Result := .next (s.runTile t fun x => x.alui w smax64)

/-- MINUI (R77): ALUI takes the unsigned minimum of a register and an immediate. -/
def execMinui (t : TileId) (w : IW) (s : State) : Result := .next (s.runTile t fun x => x.alui w umin64)

/-- MAXUI (R77): ALUI takes the unsigned maximum of a register and an immediate. -/
def execMaxui (t : TileId) (w : IW) (s : State) : Result := .next (s.runTile t fun x => x.alui w umax64)

/-- MOVI (R78): MOVI writes a sign-extended 44-bit immediate into a register. -/
def execMovi (t : TileId) (w : IW) (s : State) : Result := .next (s.runTile t fun x => x.movi w)

/-- MOVHI (R78): MOVHI writes a 20-bit immediate into the top bits of a register and keeps the rest. -/
def execMovhi (t : TileId) (w : IW) (s : State) : Result := .next (s.runTile t fun x => x.movhi w)

/-- CMP_EQ (R79): A predicate is set to whether two operands are equal. -/
def execCmpEq (t : TileId) (w : IW) (s : State) : Result := .next (s.runTile t fun x => x.cmp w (· == ·))

/-- CMP_NE (R79): A predicate is set to whether two operands differ. -/
def execCmpNe (t : TileId) (w : IW) (s : State) : Result := .next (s.runTile t fun x => x.cmp w (· != ·))

/-- CMP_LT (R79): A predicate is set to whether one operand is less than the other, signed. -/
def execCmpLt (t : TileId) (w : IW) (s : State) : Result := .next (s.runTile t fun x => x.cmp w BitVec.slt)

/-- CMP_GE (R79): A predicate is set to whether one operand is at least the other, signed. -/
def execCmpGe (t : TileId) (w : IW) (s : State) : Result :=
  .next (s.runTile t fun x => x.cmp w fun a b => !BitVec.slt a b)

/-- CMP_LTU (R79): A predicate is set to whether one operand is less than the other, unsigned. -/
def execCmpLtu (t : TileId) (w : IW) (s : State) : Result := .next (s.runTile t fun x => x.cmp w BitVec.ult)

/-- CMP_GEU (R79): A predicate is set to whether one operand is at least the other, unsigned. -/
def execCmpGeu (t : TileId) (w : IW) (s : State) : Result :=
  .next (s.runTile t fun x => x.cmp w fun a b => !BitVec.ult a b)

/-- PAND (R79): A predicate becomes the AND of two predicates. -/
def execPand (t : TileId) (w : IW) (s : State) : Result := .next (s.runTile t fun x => x.plogic w (· && ·))

/-- POR (R79): A predicate becomes the OR of two predicates. -/
def execPor (t : TileId) (w : IW) (s : State) : Result := .next (s.runTile t fun x => x.plogic w (· || ·))

/-- PXOR (R79): A predicate becomes the XOR of two predicates. -/
def execPxor (t : TileId) (w : IW) (s : State) : Result := .next (s.runTile t fun x => x.plogic w (· != ·))

/-- PANDN (R79): A predicate becomes one predicate AND NOT another. -/
def execPandn (t : TileId) (w : IW) (s : State) : Result := .next (s.runTile t fun x => x.plogic w fun a b => a && !b)

/-- BR (R83): BR branches by an instruction offset when its guard holds. -/
def execBr (t : TileId) (w : IW) (s : State) : Result :=
  .next (s.runTile t fun x => x.jump w (w.f 32 17 ≠ 0) [] [] (relTarget w) none)

/-- CALL (R83): CALL branches by an offset and writes the link register. -/
def execCall (t : TileId) (w : IW) (s : State) : Result :=
  .next (s.runTile t fun x => x.jump w (w.f 32 12 ≠ 0) [] [w.f 44 5] (relTarget w) (some (w.f 44 5)))

/-- JR (R83): JR jumps to the address held in a register. -/
def execJr (t : TileId) (w : IW) (s : State) : Result :=
  .next (s.runTile t fun x => x.jump w (w.f 44 5 ≠ 0 || w.f 0 39 ≠ 0) [w.f 39 5] [] (regTarget w) none)

/-- CALLR (R83): CALLR jumps to the address held in a register and writes the link register. -/
def execCallr (t : TileId) (w : IW) (s : State) : Result :=
  .next (s.runTile t fun x => x.jump w (w.f 0 39 ≠ 0) [w.f 39 5] [w.f 44 5] (regTarget w) (some (w.f 44 5)))

/-- LOOP (R84): LOOP starts a hardware loop with an immediate count, or skips the body when the count is 0. -/
def execLoop (t : TileId) (w : IW) (s : State) : Result :=
  .next (s.runTile t fun x => x.loop w (w.f 44 5 ≠ 0) [] fun _ => w.f 0 28)

/-- LOOPR (R84): LOOPR starts a hardware loop with its count taken from a register. -/
def execLoopr (t : TileId) (w : IW) (s : State) : Result :=
  .next (s.runTile t fun x => x.loop w (w.f 0 28 ≠ 0) [w.f 44 5] fun t => (t.sreg (w.f 44 5)).field 0 32)

/-- LD_B (R80): A scalar load of 8 bits, sign-extended. -/
def execLdB (t : TileId) (w : IW) (s : State) : Result := .next (s.runTile t fun x => x.load w 1 true)

/-- LD_H (R80): A scalar load of 16 bits, sign-extended. -/
def execLdH (t : TileId) (w : IW) (s : State) : Result := .next (s.runTile t fun x => x.load w 2 true)

/-- LD_W (R80): A scalar load of 32 bits, sign-extended. -/
def execLdW (t : TileId) (w : IW) (s : State) : Result := .next (s.runTile t fun x => x.load w 4 true)

/-- LD_D (R80): A scalar load of 64 bits. -/
def execLdD (t : TileId) (w : IW) (s : State) : Result := .next (s.runTile t fun x => x.load w 8 false)

/-- LD_BU (R80): A scalar load of 8 bits, zero-extended. -/
def execLdBu (t : TileId) (w : IW) (s : State) : Result := .next (s.runTile t fun x => x.load w 1 false)

/-- LD_HU (R80): A scalar load of 16 bits, zero-extended. -/
def execLdHu (t : TileId) (w : IW) (s : State) : Result := .next (s.runTile t fun x => x.load w 2 false)

/-- LD_WU (R80): A scalar load of 32 bits, zero-extended. -/
def execLdWu (t : TileId) (w : IW) (s : State) : Result := .next (s.runTile t fun x => x.load w 4 false)

/-- ST_B (R80): A scalar store of 8 bits. -/
def execStB (t : TileId) (w : IW) (s : State) : Result := .next (s.runTile t fun x => x.store w 1)

/-- ST_H (R80): A scalar store of 16 bits. -/
def execStH (t : TileId) (w : IW) (s : State) : Result := .next (s.runTile t fun x => x.store w 2)

/-- ST_W (R80): A scalar store of 32 bits. -/
def execStW (t : TileId) (w : IW) (s : State) : Result := .next (s.runTile t fun x => x.store w 4)

/-- ST_D (R80): A scalar store of 64 bits. -/
def execStD (t : TileId) (w : IW) (s : State) : Result := .next (s.runTile t fun x => x.store w 8)

/-- MUL (R81): MULDIV gives the low 64 bits of a product. -/
def execMul (t : TileId) (w : IW) (s : State) : Result := .next (s.runTile t fun x => x.muldiv w 4 3 (· * ·))

/-- MULH (R81): MULDIV gives the high 64 bits of a signed product. -/
def execMulh (t : TileId) (w : IW) (s : State) : Result := .next (s.runTile t fun x => x.muldiv w 4 3 mulh64)

/-- MULHU (R81): MULDIV gives the high 64 bits of an unsigned product. -/
def execMulhu (t : TileId) (w : IW) (s : State) : Result := .next (s.runTile t fun x => x.muldiv w 4 3 mulhu64)

/-- DIV (R81): MULDIV gives a signed quotient, with fixed results for the special cases. -/
def execDiv (t : TileId) (w : IW) (s : State) : Result := .next (s.runTile t fun x => x.muldiv w 24 18 div64)

/-- DIVU (R81): MULDIV gives an unsigned quotient. -/
def execDivu (t : TileId) (w : IW) (s : State) : Result := .next (s.runTile t fun x => x.muldiv w 24 18 divu64)

/-- REM (R81): MULDIV gives a signed remainder. -/
def execRem (t : TileId) (w : IW) (s : State) : Result := .next (s.runTile t fun x => x.muldiv w 24 18 rem64)

/-- REMU (R81): MULDIV gives an unsigned remainder. -/
def execRemu (t : TileId) (w : IW) (s : State) : Result := .next (s.runTile t fun x => x.muldiv w 24 18 remu64)

/-- SCALAR_RESULT_AVAILABLE (R96): A scalar result of a multi-cycle instruction reaches its register at the
instruction's latency. -/
def execScalarResultAvailable (t : TileId) (s : State) : Result := .next (s.runTile t fun x => x.map Tile.nextResult)

/-- RND (R82): RND draws two Philox output words into a register from a key and counter held in registers. -/
def execRnd (t : TileId) (w : IW) (s : State) : Result := .next (s.runTile t fun x => x.rnd w)

/-- WAIT_ALL (R91): WAIT.ALL issues once every named token has cleared and may set a predicate from their statuses. -/
def execWaitAll (t : TileId) (w : IW) (s : State) : Result :=
  .next (s.runTile t fun x => x.wait w (waitAllHold (w.f 0 32)))

/-- WAIT_ANY (R91): WAIT.ANY issues once any named token has cleared. -/
def execWaitAny (t : TileId) (w : IW) (s : State) : Result :=
  .next (s.runTile t fun x => x.wait w (waitAnyHold (w.f 0 32)))

/-- ROW_ISSUABLE (R69): A code row whose read was started becomes issuable four cycles later. -/
def execRowIssuable (t : TileId) (s : State) : Result := .next (s.runTile t TW.rowDelivered)

end Sys2Proof.Machine
end

