-- ==== Sys2Proof/Machine/ExecSync.lean ====
section
/-! DEFINITION. The commands of the synchronisation counters, host waits and doorbells (R323-R348). -/

namespace Sys2Proof.Machine

/-- SIG (R330): SIG sends an increment request to a virtual counter. -/
def execSig (t : TileId) (w : IW) (s : State) : Result := .next (s.runTile t fun x => x.syncOp w false)

/-- WAITGE (R330): WAITGE sends a wait request for a counter to reach a target. -/
def execWaitge (t : TileId) (w : IW) (s : State) : Result := .next (s.runTile t fun x => x.syncOp w true)

/-- SIG_ARRIVAL (R331): A SIG request reaches its counter and is applied, held, refused or forwarded. -/
def execSigArrival (t : TileId) (s : State) : Result := .next (s.withTile t State.sigArrival)

/-- WAITGE_ARRIVAL (R330): A WAITGE request reaches its counter and completes at once or waits. -/
def execWaitgeArrival (t : TileId) (s : State) : Result := .next (s.withTile t State.waitArrival)

/-- BIND (R326): A write of bind 1 binds a counter after the checks of R327. -/
def execBind (d : Fin 4) (i : Fin 4096) (w : TimedWrite) (s : State) : Result :=
  .next (s.byHost (F.SYN_PCNT_W1.bind d i).addr fun s => s.bind d i (setBit w.v 22) w.cyc)

/-- UNBIND (R326): A write of bind 0 unbinds a counter and abandons it. -/
def execUnbind (d : Fin 4) (i : Fin 4096) (v : Word) (c : Nat) (s : State) : Result :=
  .next (s.byHost (F.SYN_PCNT_W1.bind d i).addr fun s => s.unbind d i c (clearBit v 22))

/-- COUNTER_STORE_ERROR (R341): An uncorrectable error in the counter store abandons the counter. -/
def execCounterStoreError (d : Fin 4) (i : Fin 4096) (c : Nat) (s : State) : Result := .next (s.storeError d i c)

/-- REBASE (R340): A SYNC REBASE flit reaches the peer, is compared with the mirror's absolute count, and fails the
relation on disagreement. -/
def execRebase (at_ c : Nat) (s : State) : Result := .next (s.rebaseFlit at_ c)

/-- HOST_WAIT_ARM (R345): A write of arm to a host wait slot arms it or ends it at once. -/
def execHostWaitArm (vf : Bool) (c w : Fin 64) (v : Word) (s : State) : Result :=
  .next (s.byPage vf c (F.SYNW_HWAIT_W1.arm c w).addr fun s => s.armSlot vf c w (setBit v 28))

/-- HOST_WAIT_TARGET_WRITE (R345): A write to an armed slot's target takes effect from the next cycle and may end the
slot OK. -/
def execHostWaitTargetWrite (vf : Bool) (c w : Fin 64) (v : BitVec 48) (s : State) : Result :=
  .next (s.byPage vf c (F.SYNW_HWAIT_W0.target c w).addr fun s => s.hostTarget c w (v.setWidth 64))

/-- DB_SIG (R346): A host write to DB_SIG is range-checked as a doorbell signal. -/
def execDbSig (vf : Bool) (c : Fin 64) (wide : Bool) (v : Word) (s : State) : Result :=
  .next (s.byPage vf c (F.DB_SIG.n c).addr fun s => s.dbSig c wide v)

/-- DOORBELL_ARRIVAL (R346): An accepted doorbell reaches its counter within 1 µs and is applied, held or dropped. -/
def execDoorbellArrival (c : Fin 64) (cyc : Nat) (s : State) : Result := .next (s.bellArrival c cyc)

/-- SYNC_ADD (R338): A SYNC ADD flit of a sync relation reaches the peer's fabric die, is checked, and is applied to
the mirror counter as a remote increment or refused with a NACK. -/
def execSyncAdd (at_ c : Nat) (s : State) : Result := .next (s.syncAdd at_ c)

end Sys2Proof.Machine
end

