-- ==== Sys2Proof/Machine/ExecTick.lean ====
section
/-! DEFINITION. The commands of barriers, ticks, roles and tick registers (R34-R63). -/

namespace Sys2Proof.Machine

/-- BAR (R36): A tile issues the die-barrier instruction with its exchange length and stalls until its barrier group
is released. -/
def execBar (t : TileId) (w : IW) (s : State) : Result :=
  .next (s.withTile t fun s p => ((s.onTile p fun x => x.bar w).qualify t.die).auditCompare p)

/-- BARRIER_RELEASE (R36): Forty cycles after the last member of a barrier group issues BAR, every member is released
in one cycle and takes up its exchange or compute phase. -/
def execBarrierRelease (d : Fin 4) (c : Fin 64) (s : State) : Result := .next (s.barrierRelease d c)

/-- TICKWAIT (R39): A tile with no outstanding tokens issues tick-wait and then waits for the next accepted tick. -/
def execTickwait (t : TileId) (w : IW) (s : State) : Result :=
  .next (s.withTile t fun s p => (s.onTile p fun x => x.tickwait w).auditCompare p)

/-- MODULE_READY (R544): A tick-wait reaches the fabric clock, the readiness of a context or module is updated, and a
holding module sends RELEASE. -/
def execModuleReady (at_ : Nat) (s : State) : Result := .next (s.moduleReadyAt at_)

/-- TICK (R52): A received TICK is forwarded down the tree and, by its number, ignored or accepted and acted on. -/
def execTick (at_ : Nat) (cyc : DieCycles) (s : State) : Result := .next (s.tickIn at_ cyc.of)

/-- HOLD_DEADLINE (R46): At the hold deadline the module samples its readiness and, if it is unready, sends HOLD. -/
def execHoldDeadline (at_ : Nat) (s : State) : Result := .next (s.holdDeadline at_)

/-- HOLD (R48): The master or the standby receives a HOLD and sets the origin's bit in its hold set. -/
def execHold (at_ : Nat) (s : State) : Result := .next (s.holdIn at_)

/-- RELEASE (R48): The master or the standby receives a RELEASE, clears the origin's bit, and emits a delayed tick
when the hold set empties. -/
def execRelease (at_ : Nat) (s : State) : Result := .next (s.releaseIn at_)

/-- SCHEDULED_TIME (R45): At S(n + 1) the master emits the next tick, delays it for holds, or carries out a pending
stop. -/
def execScheduledTime (at_ : Nat) (s : State) : Result := .next (s.scheduledTime at_)

/-- HOLD_LIMIT_EXPIRY (R49): The hold set is still not empty after the hold limit, so the master emits RECOVER in
place of the tick. -/
def execHoldLimitExpiry (at_ : Nat) (s : State) : Result := .next (s.holdExpiry at_)

/-- OVERRUN (R50): The master receives OVERRUN and emits RECOVER for the next tick number. -/
def execOverrun (at_ : Nat) (s : State) : Result := .next (s.overrunIn at_)

/-- RECOVER (R393): A module receives RECOVER, sets TICK_STATUS.recovery, enters FROZEN and sends SNAPINFO. -/
def execRecover (at_ : Nat) (s : State) : Result := .next (s.recover at_)

/-- HEARTBEAT_TIMER (R57): Every P/4 the master sends HEARTBEAT to its standby. -/
def execHeartbeatTimer (s : State) : Result := .next (s.tickHeartbeat)

/-- HEARTBEAT (R57): The standby receives a tick-protocol HEARTBEAT from the master and records the master's run
state. -/
def execHeartbeat (at_ : Nat) (s : State) : Result := .next (s.tickHeartbeatIn at_)

/-- MASTER_LOSS (R57): The standby has heard neither TICK nor HEARTBEAT for P, so it takes over as master and
broadcasts TAKEOVER. -/
def execMasterLoss (at_ : Nat) (s : State) : Result := .next (s.masterLoss at_)

/-- TAKEOVER (R58): A module receives TAKEOVER; a former master stops emitting and takes the member role. -/
def execTakeover (at_ : Nat) (s : State) : Result := .next (s.takeoverIn at_)

/-- CLAIM_MASTER (R55): A module receives CLAIM_MASTER and yields its own claim, ignores the claim or counts it. -/
def execClaimMaster (s : State) : Result := .next (s.claimMasterIn)

/-- CLAIM_STANDBY (R55): A module receives CLAIM_STANDBY and yields, records or ignores the claim. -/
def execClaimStandby (at_ : Nat) (s : State) : Result := .next (s.claimStandbyIn at_)

/-- CLAIM_WINDOW_END (R55): A claimant's listening window ends without a yield, and it takes the claimed role. -/
def execClaimWindowEnd (at_ : Nat) (s : State) : Result := .next (s.claimEnd at_)

/-- PING (R59): The master receives PING and returns it as ECHO. -/
def execPing (s : State) : Result := .next (s.pingIn)

/-- ECHO (R59): A module receives ECHO, records the round-trip time and may set lead_short. -/
def execEcho (at_ : Nat) (s : State) : Result := .next (s.echoIn at_)

/-- PING_NOW (R59): A write of 1 to TICK_CTRL.ping_now starts a round-trip measurement. -/
def execPingNow (at_ : Nat) (s : State) : Result := .next (s.byHost 0x10008 fun s => s.sendPing at_)

/-- RUN (R56): A write to TICK_CTRL.run starts, stops or withdraws a stop of tick emission on the master. -/
def execRun (v : Bool) (at_ : Nat) (s : State) : Result := .next (s.byHost 0x10008 fun s => s.runWrite v.toNat at_)

/-- TICK_NEXT_WRITE (R56): A write to TICK_NEXT is accepted only while emission is stopped on the master, and is
rejected otherwise. -/
def execTickNextWrite (v : Word) (s : State) : Result := .next (s.byHost 0x10030 fun s => s.tickNextWrite v.toNat)

/-- TICK_PERIOD_WRITE (R60): A write to TICK_PERIOD is range-checked and carried from the next tick. -/
def execTickPeriodWrite (v : BitVec 24) (s : State) : Result :=
  .next (s.byHost 0x10010 fun s => s.periodWrite v.toNat)

/-- TICK_HOLD_LIMIT_WRITE (R60): A write to TICK_HOLD_LIMIT is range-checked and carried from the next tick. -/
def execTickHoldLimitWrite (v : BitVec 24) (s : State) : Result :=
  .next (s.byHost 0x10018 fun s => s.limitWrite v.toNat)

/-- ROLE_CFG_WRITE (R63): A write to TICK_ROLE.role_cfg starts a claim or, on the current master, ends mastership. -/
def execRoleCfgWrite (v : BitVec 2) (at_ : Nat) (s : State) : Result :=
  .next (s.byHost 0x10000 fun s => s.roleCfgWrite v.toNat at_)

/-- TICK_CTX_BIND_WRITE (R41): A write to TICK_CTX_BIND becomes pending and takes effect at the next accepted tick. -/
def execTickCtxBindWrite (v : Word) (s : State) : Result :=
  .next (s.byHost 0x10050 fun s => s.put F.TICK_CTX_BIND.bind v.toNat)

end Sys2Proof.Machine
end

