-- ==== Sys2Proof/Machine/ExecTraining.lean ====
section
/-! DEFINITION. The commands of the microbatch sequencer, the update watch and the channels of R367 (R349-R371). -/

namespace Sys2Proof.Machine

/-- MBS_ENABLE (R355): A write of enable 1 to MBS_CFG checks the counters and starts or resumes the sequencer. -/
def execMbsEnable (c : Fin 64) (v : Word) (s : State) : Result :=
  .next (s.byHost (F.MBS_CFG.enable c).addr fun s => s.mbsEnable c (setBit v 0))

/-- MBS_DISABLE (R354): A write of enable 0 to MBS_CFG pauses the sequencer and keeps its state. -/
def execMbsDisable (c : Fin 64) (v : Word) (s : State) : Result :=
  .next (s.byHost (F.MBS_CFG.enable c).addr fun s => s.mbsDisable c (clearBit v 0))

/-- OPEN (R353): MBS_CMD.open opens a step when the sequencer is enabled and IDLE. -/
def execOpenStep (c : Fin 64) (s : State) : Result := .next (s.byHost (F.MBS_CMD.open c).addr fun s => s.mbsOpen c)

/-- MBS_RESET (R354): MBS_CMD.reset, written while the sequencer is disabled, empties its queues and rebaselines its
counts. -/
def execMbsReset (c : Fin 64) (s : State) : Result := .next (s.byHost (F.MBS_CMD.reset c).addr fun s => s.mbsReset c)

/-- UNIT_RELEASE (R352): The sequencer releases the next unit once its conditions hold, writes MBS_REL entries and
logs the unit. -/
def execUnitRelease (c : Fin 64) (at_ cyc : Nat) (s : State) : Result := .next (s.unitRelease c at_ cyc)

/-- STEP_CLOSE (R353): Completions reach U; the step closes, the baselines advance and the watch closes. -/
def execStepClose (c : Fin 64) (at_ : Nat) (s : State) : Result := .next (s.stepClose c at_)

/-- WATCH_CLOSE (R364): A write of WCH_CTXc_W0.close closes the watch step and processes each touched entry. -/
def execWatchClose (c : Fin 64) (s : State) : Result :=
  .next (s.byHost (F.WCH_CTX_W0.close c).addr fun s => s.watchCloseWrite c)

/-- WCH_CTX_WRITE (R362): A write to WCH_CTXc_W0 is checked for range and overlap. -/
def execWchCtxWrite (c : Fin 64) (v : Word) (s : State) : Result :=
  .next (s.byHost (F.WCH_CTX_W0.close c).addr fun s => s.wchWrite c v)

/-- WCH_ACC_READ (R365): A read command copies a watch entry into WCH_ACC_DATA. -/
def execWchAccRead (s : State) : Result := .next (s.byHost F.WCH_ACC_CMD.read.addr fun s => s.wchRead)

/-- WCH_ACC_WRITE (R365): A write command copies WCH_ACC_DATA into a watch entry when permitted. -/
def execWchAccWrite (s : State) : Result := .next (s.byHost F.WCH_ACC_CMD.read.addr fun s => s.wchAccWrite)

/-- EXPORT_START (R367): A write of start to EXP_CTLx pins a snapshot and starts an export, or enters ERROR. -/
def execExportStart (x : Fin 4) (v : Word) (at_ cyc : Nat) (s : State) : Result :=
  .next (s.byHost (F.EXP_CTL.start x).addr fun s => s.exportStart x (setBit v 0) at_ cyc)

/-- EXPORT_ABORT (R369): A write of abort ends a running export with ABORTED. -/
def execExportAbort (x : Fin 4) (s : State) : Result :=
  .next (s.byHost (F.EXP_CTL.start x).addr fun s => s.exportAbort x)

/-- EXPORT_DONE (R368): An export's last write or flit is resolved, and the channel enters DONE. -/
def execExportDone (x : Fin 4) (s : State) : Result := .next (s.exportDone x)

end Sys2Proof.Machine
end

