-- ==== Sys2Proof/Machine/Dispatch.lean ====
section
/-! DEFINITION. The meaning of every command, one arm a row of spec/opcode_table.json. -/

namespace Sys2Proof.Machine

def exec (i : Instr) (s : State) : Host.Outcome State Fault Refusal :=
  match i with
  | .bar t w => Sys2Proof.Machine.execBar t w s
  | .barrierRelease d c => Sys2Proof.Machine.execBarrierRelease d c s
  | .tickwait t w => Sys2Proof.Machine.execTickwait t w s
  | .moduleReady at_ => Sys2Proof.Machine.execModuleReady at_ s
  | .tick at_ cyc => Sys2Proof.Machine.execTick at_ cyc s
  | .holdDeadline at_ => Sys2Proof.Machine.execHoldDeadline at_ s
  | .hold at_ => Sys2Proof.Machine.execHold at_ s
  | .release at_ => Sys2Proof.Machine.execRelease at_ s
  | .scheduledTime at_ => Sys2Proof.Machine.execScheduledTime at_ s
  | .holdLimitExpiry at_ => Sys2Proof.Machine.execHoldLimitExpiry at_ s
  | .overrun at_ => Sys2Proof.Machine.execOverrun at_ s
  | .recover at_ => Sys2Proof.Machine.execRecover at_ s
  | .heartbeatTimer => Sys2Proof.Machine.execHeartbeatTimer s
  | .heartbeat at_ => Sys2Proof.Machine.execHeartbeat at_ s
  | .masterLoss at_ => Sys2Proof.Machine.execMasterLoss at_ s
  | .takeover at_ => Sys2Proof.Machine.execTakeover at_ s
  | .claimMaster => Sys2Proof.Machine.execClaimMaster s
  | .claimStandby at_ => Sys2Proof.Machine.execClaimStandby at_ s
  | .claimWindowEnd at_ => Sys2Proof.Machine.execClaimWindowEnd at_ s
  | .ping => Sys2Proof.Machine.execPing s
  | .echo at_ => Sys2Proof.Machine.execEcho at_ s
  | .pingNow at_ => Sys2Proof.Machine.execPingNow at_ s
  | .run v at_ => Sys2Proof.Machine.execRun v at_ s
  | .tickNextWrite v => Sys2Proof.Machine.execTickNextWrite v s
  | .tickPeriodWrite v => Sys2Proof.Machine.execTickPeriodWrite v s
  | .tickHoldLimitWrite v => Sys2Proof.Machine.execTickHoldLimitWrite v s
  | .roleCfgWrite v at_ => Sys2Proof.Machine.execRoleCfgWrite v at_ s
  | .tickCtxBindWrite v => Sys2Proof.Machine.execTickCtxBindWrite v s
  | .nop t w => Sys2Proof.Machine.execNop t w s
  | .endTile t w => Sys2Proof.Machine.execEndTile t w s
  | .add t w => Sys2Proof.Machine.execAdd t w s
  | .sub t w => Sys2Proof.Machine.execSub t w s
  | .and t w => Sys2Proof.Machine.execAnd t w s
  | .or t w => Sys2Proof.Machine.execOr t w s
  | .xor t w => Sys2Proof.Machine.execXor t w s
  | .shl t w => Sys2Proof.Machine.execShl t w s
  | .shr t w => Sys2Proof.Machine.execShr t w s
  | .sar t w => Sys2Proof.Machine.execSar t w s
  | .min t w => Sys2Proof.Machine.execMin t w s
  | .max t w => Sys2Proof.Machine.execMax t w s
  | .minu t w => Sys2Proof.Machine.execMinu t w s
  | .maxu t w => Sys2Proof.Machine.execMaxu t w s
  | .addi t w => Sys2Proof.Machine.execAddi t w s
  | .subi t w => Sys2Proof.Machine.execSubi t w s
  | .andi t w => Sys2Proof.Machine.execAndi t w s
  | .ori t w => Sys2Proof.Machine.execOri t w s
  | .xori t w => Sys2Proof.Machine.execXori t w s
  | .shli t w => Sys2Proof.Machine.execShli t w s
  | .shri t w => Sys2Proof.Machine.execShri t w s
  | .sari t w => Sys2Proof.Machine.execSari t w s
  | .mini t w => Sys2Proof.Machine.execMini t w s
  | .maxi t w => Sys2Proof.Machine.execMaxi t w s
  | .minui t w => Sys2Proof.Machine.execMinui t w s
  | .maxui t w => Sys2Proof.Machine.execMaxui t w s
  | .movi t w => Sys2Proof.Machine.execMovi t w s
  | .movhi t w => Sys2Proof.Machine.execMovhi t w s
  | .cmpEq t w => Sys2Proof.Machine.execCmpEq t w s
  | .cmpNe t w => Sys2Proof.Machine.execCmpNe t w s
  | .cmpLt t w => Sys2Proof.Machine.execCmpLt t w s
  | .cmpGe t w => Sys2Proof.Machine.execCmpGe t w s
  | .cmpLtu t w => Sys2Proof.Machine.execCmpLtu t w s
  | .cmpGeu t w => Sys2Proof.Machine.execCmpGeu t w s
  | .pand t w => Sys2Proof.Machine.execPand t w s
  | .por t w => Sys2Proof.Machine.execPor t w s
  | .pxor t w => Sys2Proof.Machine.execPxor t w s
  | .pandn t w => Sys2Proof.Machine.execPandn t w s
  | .br t w => Sys2Proof.Machine.execBr t w s
  | .call t w => Sys2Proof.Machine.execCall t w s
  | .jr t w => Sys2Proof.Machine.execJr t w s
  | .callr t w => Sys2Proof.Machine.execCallr t w s
  | .loop t w => Sys2Proof.Machine.execLoop t w s
  | .loopr t w => Sys2Proof.Machine.execLoopr t w s
  | .ldB t w => Sys2Proof.Machine.execLdB t w s
  | .ldH t w => Sys2Proof.Machine.execLdH t w s
  | .ldW t w => Sys2Proof.Machine.execLdW t w s
  | .ldD t w => Sys2Proof.Machine.execLdD t w s
  | .ldBu t w => Sys2Proof.Machine.execLdBu t w s
  | .ldHu t w => Sys2Proof.Machine.execLdHu t w s
  | .ldWu t w => Sys2Proof.Machine.execLdWu t w s
  | .stB t w => Sys2Proof.Machine.execStB t w s
  | .stH t w => Sys2Proof.Machine.execStH t w s
  | .stW t w => Sys2Proof.Machine.execStW t w s
  | .stD t w => Sys2Proof.Machine.execStD t w s
  | .mul t w => Sys2Proof.Machine.execMul t w s
  | .mulh t w => Sys2Proof.Machine.execMulh t w s
  | .mulhu t w => Sys2Proof.Machine.execMulhu t w s
  | .div t w => Sys2Proof.Machine.execDiv t w s
  | .divu t w => Sys2Proof.Machine.execDivu t w s
  | .rem t w => Sys2Proof.Machine.execRem t w s
  | .remu t w => Sys2Proof.Machine.execRemu t w s
  | .scalarResultAvailable t => Sys2Proof.Machine.execScalarResultAvailable t s
  | .rnd t w => Sys2Proof.Machine.execRnd t w s
  | .waitAll t w => Sys2Proof.Machine.execWaitAll t w s
  | .waitAny t w => Sys2Proof.Machine.execWaitAny t w s
  | .rowIssuable t => Sys2Proof.Machine.execRowIssuable t s
  | .mmac t w => Sys2Proof.Machine.execMmac t w s
  | .mclr t w => Sys2Proof.Machine.execMclr t w s
  | .mstore t w => Sys2Proof.Machine.execMstore t w s
  | .mullerOperationStart t c => Sys2Proof.Machine.execMullerOperationStart t c s
  | .stepCommit t es => Sys2Proof.Machine.execStepCommit t es s
  | .blockComplete t => Sys2Proof.Machine.execBlockComplete t s
  | .mstorePiece t => Sys2Proof.Machine.execMstorePiece t s
  | .grun t w => Sys2Proof.Machine.execGrun t w s
  | .grunStart t c => Sys2Proof.Machine.execGrunStart t c s
  | .glazeBeat t => Sys2Proof.Machine.execGlazeBeat t s
  | .watchDelivery => Sys2Proof.Machine.execWatchDelivery s
  | .xsend t w => Sys2Proof.Machine.execXsend t w s
  | .xsendr t w => Sys2Proof.Machine.execXsendr t w s
  | .delivery t => Sys2Proof.Machine.execDelivery t s
  | .dieTmapNextWrite d r w => Sys2Proof.Machine.execDieTmapNextWrite d r w s
  | .sload t w => Sys2Proof.Machine.execSload t w s
  | .sstore t w => Sys2Proof.Machine.execSstore t w s
  | .transferStart t c => Sys2Proof.Machine.execTransferStart t c s
  | .transferComplete t k c l lat => Sys2Proof.Machine.execTransferComplete t k c l lat s
  | .hbmSeCtlEnable d k v => Sys2Proof.Machine.execHbmSeCtlEnable d k v s
  | .engineDrainComplete d k => Sys2Proof.Machine.execEngineDrainComplete d k s
  | .stackLoss d p cyc => Sys2Proof.Machine.execStackLoss d p cyc s
  | .hbmSemapWrite d w => Sys2Proof.Machine.execHbmSemapWrite d w s
  | .regionAllocate d c k v => Sys2Proof.Machine.execRegionAllocate d c k v s
  | .regionRelease d c k => Sys2Proof.Machine.execRegionRelease d c k s
  | .granuleClean d p slots => Sys2Proof.Machine.execGranuleClean d p slots s
  | .bar2Access vf size a acc => Sys2Proof.Machine.execBar2Access vf size a acc s
  | .correctedWriteBack p c bank => Sys2Proof.Machine.execCorrectedWriteBack p c bank s
  | .patrolRead u c bank => Sys2Proof.Machine.execPatrolRead u c bank s
  | .palCtrlPatrolWrite t c v => Sys2Proof.Machine.execPalCtrlPatrolWrite t c v s
  | .palPartWrite t c k v => Sys2Proof.Machine.execPalPartWrite t c k v s
  | .palRxcfgWrite t k v => Sys2Proof.Machine.execPalRxcfgWrite t k v s
  | .palRxrelWrite t k n => Sys2Proof.Machine.execPalRxrelWrite t k n s
  | .gessoComplete p => Sys2Proof.Machine.execGessoComplete p s
  | .fput t w => Sys2Proof.Machine.execFput t w s
  | .fsend t w => Sys2Proof.Machine.execFsend t w s
  | .fabricOperationStart t at_ c => Sys2Proof.Machine.execFabricOperationStart t at_ c s
  | .bucketBlockPass j at_ c => Sys2Proof.Machine.execBucketBlockPass j at_ c s
  | .flitReceive f p num cw hdr data => Sys2Proof.Machine.execFlitReceive f p num cw hdr data s
  | .outputSlot f p at_ => Sys2Proof.Machine.execOutputSlot f p at_ s
  | .write at_ c => Sys2Proof.Machine.execWrite at_ c s
  | .credit at_ c => Sys2Proof.Machine.execCredit at_ c s
  | .ack at_ c => Sys2Proof.Machine.execAck at_ c s
  | .nack at_ c => Sys2Proof.Machine.execNack at_ c s
  | .ackTimer j at_ => Sys2Proof.Machine.execAckTimer j at_ s
  | .flowTimeout j at_ c => Sys2Proof.Machine.execFlowTimeout j at_ c s
  | .flowEnable j v => Sys2Proof.Machine.execFlowEnable j v s
  | .flowDrain j v at_ c => Sys2Proof.Machine.execFlowDrain j v at_ c s
  | .flowDrainComplete j at_ c => Sys2Proof.Machine.execFlowDrainComplete j at_ c s
  | .lcfNormal f p x => Sys2Proof.Machine.execLcfNormal f p x s
  | .replayRequest f p at_ x => Sys2Proof.Machine.execReplayRequest f p at_ x s
  | .ident f p at_ x => Sys2Proof.Machine.execIdent f p at_ x s
  | .creditInit f p at_ x => Sys2Proof.Machine.execCreditInit f p at_ x s
  | .fabPortEnable f p at_ => Sys2Proof.Machine.execFabPortEnable f p at_ s
  | .fabPortDisable f p at_ => Sys2Proof.Machine.execFabPortDisable f p at_ s
  | .trainingPatternDetected f p at_ => Sys2Proof.Machine.execTrainingPatternDetected f p at_ s
  | .equalizeComplete f p at_ => Sys2Proof.Machine.execEqualizeComplete f p at_ s
  | .lockFound f p at_ => Sys2Proof.Machine.execLockFound f p at_ s
  | .trainingTimeout f p at_ => Sys2Proof.Machine.execTrainingTimeout f p at_ s
  | .retrain f p x => Sys2Proof.Machine.execRetrain f p x s
  | .retrainAttemptEnd f p at_ ok => Sys2Proof.Machine.execRetrainAttemptEnd f p at_ ok s
  | .portDrainComplete f p at_ => Sys2Proof.Machine.execPortDrainComplete f p at_ s
  | .darkTimerExpiry f p at_ => Sys2Proof.Machine.execDarkTimerExpiry f p at_ s
  | .laserInputDark f k pwr at_ => Sys2Proof.Machine.execLaserInputDark f k pwr at_ s
  | .bundleGroupFailure b => Sys2Proof.Machine.execBundleGroupFailure b s
  | .blendPart at_ => Sys2Proof.Machine.execBlendPart at_ s
  | .blendEnd at_ => Sys2Proof.Machine.execBlendEnd at_ s
  | .advance m => Sys2Proof.Machine.execAdvance m s
  | .partialEmit j at_ => Sys2Proof.Machine.execPartialEmit j at_ s
  | .rootBlockComplete j at_ c => Sys2Proof.Machine.execRootBlockComplete j at_ c s
  | .blendResult at_ c => Sys2Proof.Machine.execBlendResult at_ c s
  | .roundComplete j at_ c => Sys2Proof.Machine.execRoundComplete j at_ c s
  | .bldAccRead f => Sys2Proof.Machine.execBldAccRead f s
  | .bldAccWrite f => Sys2Proof.Machine.execBldAccWrite f s
  | .sig t w => Sys2Proof.Machine.execSig t w s
  | .waitge t w => Sys2Proof.Machine.execWaitge t w s
  | .sigArrival t => Sys2Proof.Machine.execSigArrival t s
  | .waitgeArrival t => Sys2Proof.Machine.execWaitgeArrival t s
  | .bind d j w => Sys2Proof.Machine.execBind d j w s
  | .unbind d j v c => Sys2Proof.Machine.execUnbind d j v c s
  | .counterStoreError d j c => Sys2Proof.Machine.execCounterStoreError d j c s
  | .rebase at_ c => Sys2Proof.Machine.execRebase at_ c s
  | .hostWaitArm vf c w v => Sys2Proof.Machine.execHostWaitArm vf c w v s
  | .hostWaitTargetWrite vf c w v => Sys2Proof.Machine.execHostWaitTargetWrite vf c w v s
  | .dbSig vf c wide v => Sys2Proof.Machine.execDbSig vf c wide v s
  | .doorbellArrival c cyc => Sys2Proof.Machine.execDoorbellArrival c cyc s
  | .mbsEnable c v => Sys2Proof.Machine.execMbsEnable c v s
  | .mbsDisable c v => Sys2Proof.Machine.execMbsDisable c v s
  | .openStep c => Sys2Proof.Machine.execOpenStep c s
  | .mbsReset c => Sys2Proof.Machine.execMbsReset c s
  | .unitRelease c at_ cyc => Sys2Proof.Machine.execUnitRelease c at_ cyc s
  | .stepClose c at_ => Sys2Proof.Machine.execStepClose c at_ s
  | .watchClose c => Sys2Proof.Machine.execWatchClose c s
  | .wchCtxWrite c v => Sys2Proof.Machine.execWchCtxWrite c v s
  | .wchAccRead => Sys2Proof.Machine.execWchAccRead s
  | .wchAccWrite => Sys2Proof.Machine.execWchAccWrite s
  | .exportStart x v at_ cyc => Sys2Proof.Machine.execExportStart x v at_ cyc s
  | .exportAbort x => Sys2Proof.Machine.execExportAbort x s
  | .exportDone x => Sys2Proof.Machine.execExportDone x s
  | .localCopyComplete c at_ cyc => Sys2Proof.Machine.execLocalCopyComplete c at_ cyc s
  | .snapBegin => Sys2Proof.Machine.execSnapBegin s
  | .snapEnd => Sys2Proof.Machine.execSnapEnd s
  | .snapAck at_ cyc => Sys2Proof.Machine.execSnapAck at_ cyc s
  | .log => Sys2Proof.Machine.execLog s
  | .logack => Sys2Proof.Machine.execLogack s
  | .mirrorLagTimer at_ => Sys2Proof.Machine.execMirrorLagTimer at_ s
  | .ctrlHeartbeatTimer at_ => Sys2Proof.Machine.execCtrlHeartbeatTimer at_ s
  | .ctrlHeartbeat at_ => Sys2Proof.Machine.execCtrlHeartbeat at_ s
  | .heartbeatMiss n at_ => Sys2Proof.Machine.execHeartbeatMiss n at_ s
  | .fail at_ => Sys2Proof.Machine.execFail at_ s
  | .linkdown at_ => Sys2Proof.Machine.execLinkdown at_ s
  | .event at_ => Sys2Proof.Machine.execEvent at_ s
  | .snapinfo at_ => Sys2Proof.Machine.execSnapinfo at_ s
  | .plan at_ cyc => Sys2Proof.Machine.execPlan at_ cyc s
  | .rewire => Sys2Proof.Machine.execRewire s
  | .rewired at_ => Sys2Proof.Machine.execRewired at_ s
  | .fill at_ cyc => Sys2Proof.Machine.execFill at_ cyc s
  | .fillCommit => Sys2Proof.Machine.execFillCommit s
  | .filled at_ => Sys2Proof.Machine.execFilled at_ s
  | .abandon at_ => Sys2Proof.Machine.execAbandon at_ s
  | .restored at_ => Sys2Proof.Machine.execRestored at_ s
  | .resume => Sys2Proof.Machine.execResume s
  | .resumeTick at_ => Sys2Proof.Machine.execResumeTick at_ s
  | .state => Sys2Proof.Machine.execState s
  | .shrink => Sys2Proof.Machine.execShrink s
  | .rewireTimeout at_ => Sys2Proof.Machine.execRewireTimeout at_ s
  | .fillTimeout at_ => Sys2Proof.Machine.execFillTimeout at_ s
  | .restoreTimeout at_ => Sys2Proof.Machine.execRestoreTimeout at_ s
  | .retry at_ => Sys2Proof.Machine.execRetry at_ s
  | .abort at_ => Sys2Proof.Machine.execAbort at_ s
  | .shrinkDone at_ => Sys2Proof.Machine.execShrinkDone at_ s
  | .errcUpdate => Sys2Proof.Machine.execErrcUpdate s
  | .errcThrArm j v => Sys2Proof.Machine.execErrcThrArm j v s
  | .errcDbaddrWrite w v => Sys2Proof.Machine.execErrcDbaddrWrite w v s
  | .suspectEvent d at_ => Sys2Proof.Machine.execSuspectEvent d at_ s
  | .suspicionExpiry d at_ => Sys2Proof.Machine.execSuspicionExpiry d at_ s
  | .repMarginWrite d v => Sys2Proof.Machine.execRepMarginWrite d v s
  | .migrationStart d r => Sys2Proof.Machine.execMigrationStart d r s
  | .copyComplete d r q at_ => Sys2Proof.Machine.execCopyComplete d r q at_ s
  | .migrationTimeout d r q at_ => Sys2Proof.Machine.execMigrationTimeout d r q at_ s
  | .auditStart d r at_ => Sys2Proof.Machine.execAuditStart d r at_ s
  | .rollingScanRow d at_ => Sys2Proof.Machine.execRollingScanRow d at_ s
  | .scanResult p pass at_ => Sys2Proof.Machine.execScanResult p pass at_ s
  | .repCommitGo d => Sys2Proof.Machine.execRepCommitGo d s
  | .fuseProgramComplete d good => Sys2Proof.Machine.execFuseProgramComplete d good s
  | .ldrCtxRowsWrite d c v => Sys2Proof.Machine.execLdrCtxRowsWrite d c v s
  | .load d c auto => Sys2Proof.Machine.execLoad d c auto s
  | .loadRestore d c auto => Sys2Proof.Machine.execLoadRestore d c auto s
  | .loadFinish d c cyc at_ => Sys2Proof.Machine.execLoadFinish d c cyc at_ s
  | .start d c cyc at_ => Sys2Proof.Machine.execStart d c cyc at_ s
  | .penRingWrite d v => Sys2Proof.Machine.execPenRingWrite d v s
  | .evenCounterRead k at_ => Sys2Proof.Machine.execEvenCounterRead k at_ s
  | .rcRead func a n at_ => Sys2Proof.Machine.execRcRead func a n at_ s
  | .perfTaddrWrite v => Sys2Proof.Machine.execPerfTaddrWrite v s
  | .perfHclrHbm => Sys2Proof.Machine.execPerfHclrHbm s
  | .perfHclrSync => Sys2Proof.Machine.execPerfHclrSync s
  | .perfHclrFlow => Sys2Proof.Machine.execPerfHclrFlow s
  | .registerWrite func win a n v at_ cyc => Sys2Proof.Machine.execRegisterWrite func win a n v at_ cyc s
  | .linkDown at_ cyc => Sys2Proof.Machine.execLinkDown at_ cyc s
  | .hotReset at_ cyc => Sys2Proof.Machine.execHotReset at_ cyc s
  | .functionLevelReset func at_ cyc => Sys2Proof.Machine.execFunctionLevelReset func at_ cyc s
  | .perstN at_ cyc => Sys2Proof.Machine.execPerstN at_ cyc s
  | .poisonedWriteRequest => Sys2Proof.Machine.execPoisonedWriteRequest s
  | .unsupportedRequest => Sys2Proof.Machine.execUnsupportedRequest s
  | .hctxEnable c v => Sys2Proof.Machine.execHctxEnable c v s
  | .hctxDisable c v at_ cyc => Sys2Proof.Machine.execHctxDisable c v at_ cyc s
  | .contextReset c at_ cyc => Sys2Proof.Machine.execContextReset c at_ cyc s
  | .contextResetComplete c => Sys2Proof.Machine.execContextResetComplete c s
  | .bar4Access a c acc => Sys2Proof.Machine.execBar4Access a c acc s
  | .getId r at_ => Sys2Proof.Machine.execGetId r at_ s
  | .getStatus r at_ => Sys2Proof.Machine.execGetStatus r at_ s
  | .getSensor r at_ => Sys2Proof.Machine.execGetSensor r at_ s
  | .getErrc r at_ => Sys2Proof.Machine.execGetErrc r at_ s
  | .readLog r at_ => Sys2Proof.Machine.execReadLog r at_ s
  | .setNext r at_ => Sys2Proof.Machine.execSetNext r at_ s
  | .stageProfile r at_ => Sys2Proof.Machine.execStageProfile r at_ s
  | .commitProfile r at_ => Sys2Proof.Machine.execCommitProfile r at_ s
  | .readProfile r at_ => Sys2Proof.Machine.execReadProfile r at_ s
  | .setLock r at_ => Sys2Proof.Machine.execSetLock r at_ s
  | .moduleReset r at_ => Sys2Proof.Machine.execModuleReset r at_ s
  | .stageFw r at_ => Sys2Proof.Machine.execStageFw r at_ s
  | .commitFw r at_ => Sys2Proof.Machine.execCommitFw r at_ s
  | .advanceSvn r at_ => Sys2Proof.Machine.execAdvanceSvn r at_ s
  | .setdasa a at_ => Sys2Proof.Machine.execSetdasa a at_ s
  | .entdaa a at_ => Sys2Proof.Machine.execEntdaa a at_ s
  | .transactionTimeout at_ => Sys2Proof.Machine.execTransactionTimeout at_ s
  | .mailboxTimeout => Sys2Proof.Machine.execMailboxTimeout s
  | .consoleLine line at_ => Sys2Proof.Machine.execConsoleLine line at_ s
  | .watchdogExpiry at_ => Sys2Proof.Machine.execWatchdogExpiry at_ s
  | .modLockWrite v => Sys2Proof.Machine.execModLockWrite v s
  | .modCmdReset key at_ => Sys2Proof.Machine.execModCmdReset key at_ s
  | .vauxGood at_ => Sys2Proof.Machine.execVauxGood at_ s
  | .vauxLost at_ => Sys2Proof.Machine.execVauxLost at_ s
  | .vmainGood at_ => Sys2Proof.Machine.execVmainGood at_ s
  | .vmainLost at_ => Sys2Proof.Machine.execVmainLost at_ s
  | .railFailure g at_ => Sys2Proof.Machine.execRailFailure g at_ s
  | .railFailurePowerDown at_ => Sys2Proof.Machine.execRailFailurePowerDown at_ s
  | .railGroupGood g at_ => Sys2Proof.Machine.execRailGroupGood g at_ s
  | .railGroupTimeout g at_ => Sys2Proof.Machine.execRailGroupTimeout g at_ s
  | .droopTrip d mv at_ => Sys2Proof.Machine.execDroopTrip d mv at_ s
  | .stretchRelease d at_ => Sys2Proof.Machine.execStretchRelease d at_ s
  | .thermalSample site at_ => Sys2Proof.Machine.execThermalSample site at_ s
  | .thermalTrip sensor at_ => Sys2Proof.Machine.execThermalTrip sensor at_ s
  | .powerSample l vaux at_ => Sys2Proof.Machine.execPowerSample l vaux at_ s
  | .pwrLimitWrite v => Sys2Proof.Machine.execPwrLimitWrite v s
  | .pwrDroopWrite d v => Sys2Proof.Machine.execPwrDroopWrite d v s
  | .modResetN low ns at_ => Sys2Proof.Machine.execModResetN low ns at_ s
  | .stageEasel master profile mgmt at_ => Sys2Proof.Machine.execStageEasel master profile mgmt at_ s
  | .stageRails at_ => Sys2Proof.Machine.execStageRails at_ s
  | .stageBridgesAndHbm failed trained at_ => Sys2Proof.Machine.execStageBridgesAndHbm failed trained at_ s
  | .stageQuickScan fails at_ => Sys2Proof.Machine.execStageQuickScan fails at_ s
  | .stageLinks at_ => Sys2Proof.Machine.execStageLinks at_ s
  | .stageEnumeration at_ => Sys2Proof.Machine.execStageEnumeration at_ s
  | .syncAdd at_ c => Sys2Proof.Machine.execSyncAdd at_ c s
  | .laserInputLit f k pwr at_ => Sys2Proof.Machine.execLaserInputLit f k pwr at_ s
  | .linkUp speed width flit bme vfs => Sys2Proof.Machine.execLinkUp speed width flit bme vfs s
  | .exchangePhaseEnd t at_ => Sys2Proof.Machine.execExchangePhaseEnd t at_ s
  | .restoreComplete c at_ cyc => Sys2Proof.Machine.execRestoreComplete c at_ cyc s
  | .confirmWindowExpiry n at_ => Sys2Proof.Machine.execConfirmWindowExpiry n at_ s
  | .tapInstruction j => Sys2Proof.Machine.execTapInstruction j s
  | .clockRampComplete d at_ => Sys2Proof.Machine.execClockRampComplete d at_ s

end Sys2Proof.Machine
end

