-- ==== Sys2Proof/Safety.lean ====
section
/-! DEFINITION. What the claims ask of a state: its register block and its memories in canonical form, each listed once,
by rising address, and never at the value that an unlisted address reads as. -/

namespace Sys2Proof.Machine

/-- The register block is canonical: equal register contents are equal data. -/
def State.regsWf (s : State) : Bool := SMap.wf s.regs moduleReset

/-- A tile's registers, scalar registers, Palette and accumulators are canonical, and s0 is never listed: it reads as
zero (R64). -/
def Tile.wf (t : Tile) : Bool :=
  SMap.wf t.regs tileReset && SMap.wf t.sregs (fun _ => 0) && SMap.wf t.pal (fun _ => 0) &&
    SMap.wf t.acc (fun _ => 0) && (SMap.find t.sregs 0).isNone

/-- Every tile is canonical, and so is the table of tiles. -/
def State.tilesWf (s : State) : Bool := SMap.wf s.tiles (fun _ => Tile.fresh) && s.tiles.all fun q => q.2.wf

/-- HBM's contents are canonical. -/
def State.hbmWf (s : State) : Bool := SMap.wf s.hbm.mem (fun _ => 0)

/-- What of a tile its program reaches through its instructions alone, beside its Palette and its control registers: the
scalar registers with their tags, the predicates, the program counter and its loops, pending results, tokens and
queues, and the accumulators. -/
structure ProgramSide where
  run : RunState
  sregs : SMap Word
  tags : BitVec 32
  preds : BitVec 8
  pc : Nat
  loops : List Loop
  pend : List Pend
  tokPend : BitVec 32
  tokStat : Word
  tokAt : SMap Nat
  cyc : Nat
  issued : Nat
  qwait : Option Nat
  arrived : Nat
  xlen : Nat
  model : Nat
  nextId : Nat
  muller : List QOp
  glaze : List QOp
  stream : List QOp
  fabric : List QOp
  exch : List Send
  sync : List SyncOp
  acc : SMap (BitVec 32)

def Tile.side (t : Tile) : ProgramSide :=
  ⟨t.run, t.sregs, t.tags, t.preds, t.pc, t.loops, t.pend, t.tokPend, t.tokStat, t.tokAt, t.cyc, t.issued, t.qwait,
    t.arrived, t.xlen, t.model, t.nextId, t.muller, t.glaze, t.stream, t.fabric, t.exch, t.sync, t.acc⟩

/-- A tile with what it sees of the module, before an instruction. -/
def State.view (s : State) (p : Nat) : TW := ⟨s.tile p, [], s.env p⟩

/-- A tile whose row of the program counter is held, or has had its read granted (R68-R70). -/
def State.fetched (s : State) (p : Nat) : Tile := (s.view p).fetchRow.t

/-- The cycle in which the row of the program counter is issuable at the earliest (R69, R71). -/
def Tile.rowCycle (t : Tile) : Nat := t.rowFrom (max (t.issued + 1) t.cyc)

/-- R71: the instruction of word `w` and shape `sh`, at the tile ID `t` that physical tile `p` serves, is in a row that
the tile may execute, is no ILLEGAL word, has a true guard, finds its token, its queue and its own condition clear, and
passes its checks; `c` is the first cycle in which all of this holds. -/
structure State.Issues (s : State) (t : TileId) (p : Nat) (w : IW) (sh : Shape) (c : Nat) : Prop where
  served : s.phys t.gid = some p
  running : (s.tile p).run = .running
  permitted : (s.tile p).permits (s.fetched p).rowCycle .fetch ((s.tile p).pc / 64) = true
  clean : (s.fetched p).wordPoisoned = false
  legal : sh.illegal = false
  unguarded : sh.noGuard = true → w.pn = false ∧ w.pg.val = 0
  inside : sh.ctl = true → (s.tile p).endsBody = false
  guard : ((s.tile p).settle (s.fetched p).rowCycle).guard w = true
  token : (s.tile p).tokenPending sh.td = false
  room : (s.fetched p).queueFull sh = false
  cycle : ∃ h, sh.hold (s.fetched p) = some h ∧
    c = max (max (max (s.fetched p).rowCycle ((sh.reads ++ sh.writes).foldl (fun c k => max c ((s.tile p).regDue k))
      ((s.tile p).issued + 1))) (if sh.td = 0 then h else max h ((s.tile p).tokenFrom sh.td))) ((s.fetched p).queueAt sh)
  checked : sh.check ((s.tile p).settle c) = none

/-- The bookkeeping of an issue in cycle `c`. -/
def Tile.issuedIn (t : Tile) (c : Nat) : Tile := { t with issued := c, cyc := max t.cyc c, qwait := none }

/-- Nothing waits to be written to the Palette, no engine runs, nothing waits at the edge port, and no segment is in
error. -/
structure Tile.Still (t : Tile) : Prop where
  stores : t.stores = []
  late : t.late = []
  glzW : t.glzW = []
  mul : t.mul = []
  glz : t.glz = []
  edge : t.edge = []
  palErr : t.palErr = []

/-- The tiles after an instruction of physical tile `p` that could issue in cycle `c` and issued in `k`: its program side
is as `f` leaves it, of the tile with the results due by `c` written; every other tile is as it was, but for the claims
that a send announces at its receiver. -/
def State.After (u s : State) (p c k : Nat) (f : Tile → Tile) : Prop :=
  (u.tile p).side = ((f ((s.tile p).settle c)).issuedIn k).side ∧
    ∀ q, q ≠ p → ∃ a b, u.tile q = { s.tile q with claims := a, penSoon := b }

/-- The Palette of physical tile `p` is as it was, unless an earlier write was still on its way. -/
def State.PaletteKept (u s : State) (p : Nat) : Prop :=
  (s.tile p).Still → (u.tile p).pal = (s.tile p).pal ∧ (u.tile p).palPois = (s.tile p).palPois

/-- A run that ends in no refusal. -/
def State.runs (s : State) : Bool := match step s with
  | .next _ => true
  | _ => false

end Sys2Proof.Machine
end

