-- ==== Sys2Proof/Certificates/Slice0/Obligations.lean ====
section
/-! DEFINITION. The statements about the module, for the provers. -/

/-! The instructions of a tile's sequencer (R64-R99). Each statement holds of every tile, word and issue cycle `c` in
which R71 lets the instruction issue (State.Issues), and says what the program side of the tile becomes (State.After)
and that its Palette is kept. -/

namespace Sys2Proof.Machine

/-- An instruction that makes no Palette request completes with the effect `f`. -/
def Completes (mk : TileId → IW → Instr) (sh : IW → Shape) (f : IW → Nat → Tile → Tile) : Prop :=
  ∀ (s : State) (t : TileId) (p : Nat) (w : IW) (c : Nat), s.tilesWf = true → s.Issues t p w (sh w) c →
    ∃ u, exec (mk t w) s = .next u ∧ u.After s p c c (f w c) ∧ u.PaletteKept s p

/-- R77, R66: the ALU's effect. -/
def aluEffect (op : Word → Word → Word) (w : IW) (_ : Nat) (x : Tile) : Tile :=
  (x.setReg (w.f 44 5) (op (x.sreg (w.f 39 5)) (x.sreg (w.f 34 5))) (x.tag (w.f 39 5) || x.tag (w.f 34 5))).advance

def aluiEffect (op : Word → Word → Word) (w : IW) (_ : Nat) (x : Tile) : Tile :=
  (x.setReg (w.f 44 5) (op (x.sreg (w.f 39 5)) (sext64 32 (w.f 0 32))) (x.tag (w.f 39 5))).advance

/-- R79: a compare's operands, its shape and its effect. -/
def cmpReads (w : IW) : List Nat := if w.f 33 1 = 1 then [w.f 39 5] else [w.f 39 5, w.f 34 5]

def cmpShape (w : IW) : Shape :=
  { illegal := w.f 44 2 ≠ 0 || w.f 32 1 ≠ 0 || (if w.f 33 1 = 1 then w.f 34 5 ≠ 0 else w.f 0 32 ≠ 0),
    reads := cmpReads w, check := noPoison (cmpReads w) }

def cmpEffect (op : Word → Word → Bool) (w : IW) (_ : Nat) (x : Tile) : Tile :=
  (x.setPred (w.f 46 3) (op (x.sreg (w.f 39 5)) (if w.f 33 1 = 1 then sext64 32 (w.f 0 32) else x.sreg (w.f 34 5)))).advance

def plogicEffect (op : Bool → Bool → Bool) (w : IW) (_ : Nat) (x : Tile) : Tile :=
  (x.setPred (w.f 46 3) (op (x.pred (w.f 43 3)) (x.pred (w.f 40 3)))).advance

/-- R81, R96: the result of a MULDIV instruction reaches its register `l1` cycles after the issue under timing model 1,
`l2` under model 2. -/
def muldivEffect (l1 l2 : Nat) (op : Word → Word → Word) (w : IW) (c : Nat) (x : Tile) : Tile :=
  (x.later (w.f 44 5) (op (x.sreg (w.f 39 5)) (x.sreg (w.f 34 5))) (x.tag (w.f 39 5) || x.tag (w.f 34 5))
    (c + if x.model = 2 then l2 else l1)).advance

/-- R83: a taken branch. -/
def branchEffect (target : Tile → Nat) (link : Option Nat) (_ : Nat) (x : Tile) : Tile :=
  let y := match link with
    | some l => x.setReg l (BitVec.ofNat 64 (x.pc + 8)) false
    | none => x
  { y with pc := target x, loops := loopsAt (target x) y.loops }

def jumpShape (illegal : Bool) (reads writes : List Nat) (target : Tile → Nat) : Shape :=
  { illegal := illegal, ctl := true, reads := reads, writes := writes,
    check := andThen (noPoison reads) fun t => if target t % 8 ≠ 0 then some FaultCode.align else none }

/-- R84: the loop starts after its instruction, or the body is skipped as a taken branch skips it. -/
def loopEffect (count : Tile → Nat) (w : IW) (x : Tile) : Tile :=
  let len := w.f 28 16 + 1
  if count x = 0 then { x with pc := x.pc + 8 * (len + 1), loops := loopsAt (x.pc + 8 * (len + 1)) x.loops }
  else { x with loops := ⟨x.pc + 8, x.pc + 8 * len, count x⟩ :: x.loops, pc := x.pc + 8 }

def loopShape (illegal : Bool) (reads : List Nat) (count : Tile → Nat) (w : IW) : Shape :=
  { illegal := illegal, ctl := true, reads := reads,
    check := andThen (noPoison reads) fun t =>
      if t.loops.any (fun l => decide (l.last < t.pc + 8 * (w.f 28 16 + 1))) then some FaultCode.loopNest
      else if count t ≠ 0 && decide (4 ≤ t.loops.length) then some FaultCode.loopDepth else none }

/-- R91: a wait on tokens. -/
def waitShape (hold : Nat → Tile → Option Nat) (w : IW) : Shape := { illegal := w.f 32 13 ≠ 0, hold := hold (w.f 0 32) }

def waitEffect (w : IW) (c : Nat) (x : Tile) : Tile :=
  (if w.f 45 1 = 1 then x.setPred (w.f 46 3) (x.waitPred c (w.f 0 32)) else x).advance

def rndShape (w : IW) : Shape :=
  { illegal := w.f 0 28 ≠ 0, reads := [w.f 39 5, w.f 34 5, w.f 29 5], writes := [w.f 44 5],
    check := noPoison [w.f 39 5, w.f 34 5, w.f 29 5] }

def rndEffect (w : IW) (c : Nat) (x : Tile) : Tile :=
  (x.later (w.f 44 5) (rndDraw (x.get TF.STIP_SEED.seed) (x.sreg (w.f 39 5)) (x.sreg (w.f 34 5)) (x.sreg (w.f 29 5))
    (w.f 28 1)) false (c + if x.model = 2 then 10 else 12)).advance

end Sys2Proof.Machine

open Sys2Proof Sys2Proof.Machine

/-- R77, R66 (register forms): the twelve ALU instructions write their result, and the poison tag of their sources, to
the destination register, and only advance otherwise. -/
def Sys2Proof.Machine.RegisterAlu : Prop :=
  Completes .add aluShape (aluEffect (· + ·)) ∧ Completes .sub aluShape (aluEffect (· - ·)) ∧
  Completes .and aluShape (aluEffect (· &&& ·)) ∧ Completes .or aluShape (aluEffect (· ||| ·)) ∧
  Completes .xor aluShape (aluEffect (· ^^^ ·)) ∧
  Completes .shl aluShape (aluEffect fun a b => a <<< (b.toNat % 64)) ∧
  Completes .shr aluShape (aluEffect fun a b => a >>> (b.toNat % 64)) ∧
  Completes .sar aluShape (aluEffect fun a b => a.sshiftRight (b.toNat % 64)) ∧
  Completes .min aluShape (aluEffect fun a b => if a.toInt < b.toInt then a else b) ∧
  Completes .max aluShape (aluEffect fun a b => if a.toInt < b.toInt then b else a) ∧
  Completes .minu aluShape (aluEffect fun a b => if a.toNat < b.toNat then a else b) ∧
  Completes .maxu aluShape (aluEffect fun a b => if a.toNat < b.toNat then b else a)

/-- R77, R66 (immediate forms): the twelve ALUI instructions. -/
def Sys2Proof.Machine.ImmediateAlu : Prop :=
  Completes .addi aluiShape (aluiEffect (· + ·)) ∧ Completes .subi aluiShape (aluiEffect (· - ·)) ∧
  Completes .andi aluiShape (aluiEffect (· &&& ·)) ∧ Completes .ori aluiShape (aluiEffect (· ||| ·)) ∧
  Completes .xori aluiShape (aluiEffect (· ^^^ ·)) ∧
  Completes .shli aluiShape (aluiEffect fun a b => a <<< (b.toNat % 64)) ∧
  Completes .shri aluiShape (aluiEffect fun a b => a >>> (b.toNat % 64)) ∧
  Completes .sari aluiShape (aluiEffect fun a b => a.sshiftRight (b.toNat % 64)) ∧
  Completes .mini aluiShape (aluiEffect fun a b => if a.toInt < b.toInt then a else b) ∧
  Completes .maxi aluiShape (aluiEffect fun a b => if a.toInt < b.toInt then b else a) ∧
  Completes .minui aluiShape (aluiEffect fun a b => if a.toNat < b.toNat then a else b) ∧
  Completes .maxui aluiShape (aluiEffect fun a b => if a.toNat < b.toNat then b else a)

/-- R66, R77: the ALU and ALUI instructions: `RegisterAlu` and `ImmediateAlu` above. -/
def Obligations.AluResults : Prop := Sys2Proof.Machine.RegisterAlu ∧ Sys2Proof.Machine.ImmediateAlu

/-- R78: MOVI writes its sign-extended immediate; MOVHI writes the upper 20 bits, keeps the lower 44, and keeps sd's poison
tag. -/
def Obligations.MoviAndMovhi : Prop := Completes .movi (fun w => { writes := [w.f 44 5] }) (fun w _ x =>
    (x.setReg (w.f 44 5) (sext64 44 (w.f 0 44)) false).advance) ∧
  Completes .movhi (fun w => { illegal := w.f 20 24 ≠ 0, reads := [w.f 44 5], writes := [w.f 44 5] }) (fun w _ x =>
    (x.setReg (w.f 44 5) ((x.sreg (w.f 44 5)).setField 44 20 (w.f 0 20)) (x.tag (w.f 44 5))).advance)

/-- R79: the six compares set the predicate to the comparison. -/
def Sys2Proof.Machine.Compares : Prop :=
  Completes .cmpEq cmpShape (cmpEffect fun a b => decide (a = b)) ∧
  Completes .cmpNe cmpShape (cmpEffect fun a b => decide (a ≠ b)) ∧
  Completes .cmpLt cmpShape (cmpEffect fun a b => decide (a.toInt < b.toInt)) ∧
  Completes .cmpGe cmpShape (cmpEffect fun a b => decide (b.toInt ≤ a.toInt)) ∧
  Completes .cmpLtu cmpShape (cmpEffect fun a b => decide (a.toNat < b.toNat)) ∧
  Completes .cmpGeu cmpShape (cmpEffect fun a b => decide (b.toNat ≤ a.toNat))

/-- R79: the four operations of predicate logic; R76: NOP, whose word is given whole, only advances. -/
def Sys2Proof.Machine.PredicateLogic : Prop :=
  Completes .pand (fun w => { illegal := w.f 0 40 ≠ 0 }) (plogicEffect fun a b => a && b) ∧
  Completes .por (fun w => { illegal := w.f 0 40 ≠ 0 }) (plogicEffect fun a b => a || b) ∧
  Completes .pxor (fun w => { illegal := w.f 0 40 ≠ 0 }) (plogicEffect fun a b => a != b) ∧
  Completes .pandn (fun w => { illegal := w.f 0 40 ≠ 0 }) (plogicEffect fun a b => a && !b) ∧
  ∀ (s : State) (t : TileId) (p : Nat) (v : BitVec 64) (c : Nat), s.tilesWf = true →
    s.Issues t p (nopIW v) { illegal := (v.extractLsb' 59 5).toNat ≠ 0 || (v.extractLsb' 49 6).toNat ≠ 0 ||
      (v.extractLsb' 0 49).toNat ≠ 0 } c →
    ∃ u, exec (.nop t v) s = .next u ∧ (u.After s p c c fun x => x.advance) ∧ u.PaletteKept s p

/-- R76, R79: the compares, the predicate logic and NOP. -/
def Obligations.PredicateResults : Prop := Sys2Proof.Machine.Compares ∧ Sys2Proof.Machine.PredicateLogic

/-- R81: the seven MULDIV results, at the latency of R96; R82: RND's draw. -/
def Sys2Proof.Machine.LongOperations : Prop :=
  Completes .mul aluShape (muldivEffect 4 3 (· * ·)) ∧
  Completes .mulh aluShape (muldivEffect 4 3 fun a b => BitVec.ofInt 64 (a.toInt * b.toInt / 2 ^ 64)) ∧
  Completes .mulhu aluShape (muldivEffect 4 3 fun a b => BitVec.ofNat 64 (a.toNat * b.toNat / 2 ^ 64)) ∧
  Completes .div aluShape (muldivEffect 24 18 fun a b =>
    if b = 0 then BitVec.allOnes 64 else BitVec.ofInt 64 (a.toInt.tdiv b.toInt)) ∧
  Completes .divu aluShape (muldivEffect 24 18 fun a b =>
    if b = 0 then BitVec.allOnes 64 else BitVec.ofNat 64 (a.toNat / b.toNat)) ∧
  Completes .rem aluShape (muldivEffect 24 18 fun a b =>
    if b = 0 then a else BitVec.ofInt 64 (a.toInt.tmod b.toInt)) ∧
  Completes .remu aluShape (muldivEffect 24 18 fun a b =>
    if b = 0 then a else BitVec.ofNat 64 (a.toNat % b.toNat)) ∧
  Completes .rnd rndShape rndEffect

/-- R71, R96: a result that is due is in its register; SCALAR_RESULT_AVAILABLE brings the tile to the cycle of its
earliest pending result, and changes nothing else of the program's side. -/
def Sys2Proof.Machine.ResultArrives : Prop :=
  ∀ (s : State) (t : TileId) (p : Nat) (r : Pend) (l : List Pend), s.tilesWf = true → s.phys t.gid = some p →
    (s.tile p).pend = r :: l → (∀ q ∈ l, r.due < q.due) →
    ∃ u, exec (.scalarResultAvailable t) s = .next u ∧
      (u.tile p).side = ({ ((s.tile p).setReg r.reg r.val r.tag) with pend := l, cyc := max (s.tile p).cyc r.due }).side ∧
      ∀ q, q ≠ p → ∃ a b, u.tile q = { s.tile q with claims := a, penSoon := b }

/-- R71, R81, R82, R96: the instructions whose result is due later, and the arrival of a result. -/
def Obligations.LaterResults : Prop := Sys2Proof.Machine.LongOperations ∧ Sys2Proof.Machine.ResultArrives

/-- R83: the four branches, when their guard holds, go to their target, write their link and end the loops that the
target leaves (R86). -/
def Sys2Proof.Machine.Branches : Prop :=
  Completes .br (fun w => jumpShape (w.f 32 17 ≠ 0) [] [] (relTarget w)) (fun w => branchEffect (relTarget w) none) ∧
  Completes .call (fun w => jumpShape (w.f 32 12 ≠ 0) [] [w.f 44 5] (relTarget w))
    (fun w => branchEffect (relTarget w) (some (w.f 44 5))) ∧
  Completes .jr (fun w => jumpShape (w.f 44 5 ≠ 0 || w.f 0 39 ≠ 0) [w.f 39 5] [] fun x => (x.sreg (w.f 39 5)).toNat)
    (fun w => branchEffect (fun x => (x.sreg (w.f 39 5)).toNat) none) ∧
  Completes .callr (fun w => jumpShape (w.f 0 39 ≠ 0) [w.f 39 5] [w.f 44 5] fun x => (x.sreg (w.f 39 5)).toNat)
    (fun w => branchEffect (fun x => (x.sreg (w.f 39 5)).toNat) (some (w.f 44 5)))

/-- R84: LOOP and LOOPR. -/
def Sys2Proof.Machine.Loops : Prop :=
  Completes .loop (fun w => loopShape (w.f 44 5 ≠ 0) [] (fun _ => w.f 0 28) w) (fun w _ => loopEffect (fun _ => w.f 0 28) w) ∧
  Completes .loopr (fun w => loopShape (w.f 0 28 ≠ 0) [w.f 44 5] (fun t => (t.sreg (w.f 44 5)).toNat % 2 ^ 32) w)
    (fun w _ => loopEffect (fun t => (t.sreg (w.f 44 5)).toNat % 2 ^ 32) w)

/-- R91: WAIT.ALL and WAIT.ANY issue in the cycle after their tokens clear, and may set a predicate. -/
def Sys2Proof.Machine.Waits : Prop :=
  Completes .waitAll (waitShape waitAllHold) waitEffect ∧ Completes .waitAny (waitShape waitAnyHold) waitEffect

/-- R83-R86, R91: the branches, the loops and the waits on tokens. -/
def Obligations.ControlFlow : Prop := Sys2Proof.Machine.Branches ∧ Sys2Proof.Machine.Loops ∧ Sys2Proof.Machine.Waits

/-! Loads, stores, engine and sync instructions, arrivals and sends (R36, R39, R80, R88-R95, R217). -/

namespace Sys2Proof.Machine

def loadShape (n : Nat) (w : IW) : Shape :=
  { illegal := w.f 32 7 ≠ 0, reads := [w.f 39 5], writes := [w.f 44 5], check := memCheck w n, port := memPort w }

def storeShape (n : Nat) (w : IW) : Shape :=
  { illegal := w.f 32 7 ≠ 0, reads := [w.f 39 5, w.f 44 5], check := memCheck w n, port := memPort w }

/-- R80: `n` bytes as a register value. -/
def extended (signed : Bool) (n v : Nat) : Word := if signed then sext64 (8 * n) v else BitVec.ofNat 64 v

/-- Whether one of the segments that `n` bytes from `a` touch is poisoned. -/
def Tile.poisonedAt (t : Tile) (a n : Nat) : Bool :=
  (List.range ((a % 16 + n + 15) / 16)).any fun j => SMap.getD t.palPois (a / 16 + j) false

/-- The bytes of an accumulator access: one element, or two. -/
def Tile.accBytes (t : Tile) (i n : Nat) : Nat :=
  (SMap.getD t.acc i 0).toNat + if n = 8 then (SMap.getD t.acc (i + 1) 0).toNat * 2 ^ 32 else 0

/-- R80, R117, R125: a load's result: its value, its tag and its cycle, by what its address names. -/
def LoadCompletes (mk : TileId → IW → Instr) (n : Nat) (signed : Bool) : Prop :=
  ∀ (s : State) (t : TileId) (p : Nat) (w : IW) (c : Nat), s.tilesWf = true → s.Issues t p w (loadShape n w) c →
    ∃ u k v b d, exec (mk t w) s = .next u ∧ c ≤ k ∧ u.After s p c k (fun x => (x.later (w.f 44 5) v b d).advance) ∧
      u.PaletteKept s p ∧
      match regionOf (memAddr ((s.tile p).settle c) w) with
      | .palette =>
        let a := memAddr ((s.tile p).settle c) w
        if (s.tile p).permits k .seqR (a / 64) then
          d = k + (s.tile p).readLat k + 1 ∧
            ((s.tile p).Still → v = extended signed n (memRead (s.tile p).pal a n) ∧ b = (s.tile p).poisonedAt a n)
        else v = BitVec.allOnes 64 ∧ b = true ∧ d = k + 5
      | .regs => b = false ∧ d = k + 5
      | .acc => v = extended signed n ((s.tile p).accBytes ((memAddr ((s.tile p).settle c) w - 0x300000) / 4) n) ∧ k + 5 ≤ d
      | .none => v = BitVec.allOnes 64 ∧ b = true ∧ d = k + 5

/-- R80, R66, R125: a store to the Palette waits two cycles, with its bytes and its poison mark; one to the accumulators
writes them. -/
def StoreCompletes (mk : TileId → IW → Instr) (n : Nat) : Prop :=
  ∀ (s : State) (t : TileId) (p : Nat) (w : IW) (c : Nat), s.tilesWf = true → s.Issues t p w (storeShape n w) c →
    let x := (s.tile p).settle c
    let a := memAddr x w
    let v := (x.sreg (w.f 44 5)).toNat % 256 ^ n
    ∃ u k, exec (mk t w) s = .next u ∧ c ≤ k ∧ u.PaletteKept s p ∧
      u.After s p c k (fun x => (if regionOf a = .acc then
        let i := (a - 0x300000) / 4
        if n = 8 then (x.setAcc i (BitVec.ofNat 32 v)).setAcc (i + 1) (BitVec.ofNat 32 (v / 2 ^ 32))
        else x.setAcc i (BitVec.ofNat 32 v)
        else x).advance) ∧
      (regionOf a = .palette → (s.tile p).permits k .seqW (a / 64) = true →
        ∃ l, (u.tile p).stores = l ++ [(k + 2, a, n, v, x.tag (w.f 44 5))] ∧ ((s.tile p).Still → l = []))

/-- R93: the shape of an engine instruction with a descriptor. -/
def engineShape (k : QKind) (parmOk : IW → Bool) (w : IW) : Shape :=
  { illegal := !parmOk w || (w.f 43 1 = 0 && w.f 38 5 ≠ 0), reads := [w.f 33 5], td := w.f 44 5, queue := some k.queue,
    check := noPoison [w.f 33 5], port := fun _ y => some (bankOf (descAddr y.t w), 6) }

/-- R88, R92, R93: an engine instruction whose descriptor it may read takes its token and joins its queue, with the
descriptor's 64 bytes. -/
def EngineCompletes (mk : TileId → IW → Instr) (kind : QKind) (parmOk : IW → Bool) : Prop :=
  ∀ (s : State) (t : TileId) (p : Nat) (w : IW) (c : Nat), s.tilesWf = true →
    s.Issues t p w (engineShape kind parmOk w) c →
    (∀ k, c ≤ k → (s.tile p).permits k .seqR (descAddr ((s.tile p).settle c) w / 64) = true) →
    ∃ u k o, exec (mk t w) s = .next u ∧ c ≤ k ∧ u.PaletteKept s p ∧
      u.After s p c k (fun x => (({ x.takeToken (w.f 44 5) with nextId := x.nextId + 1 } : Tile).enqueue o).advance) ∧
      o.kind = kind ∧ o.td = w.f 44 5 ∧ o.parm = w.f 0 18 ∧ o.addr = descAddr ((s.tile p).settle c) w ∧
      o.tw = (if w.f 43 1 = 1 then w.f 38 5 else 0) ∧ o.id = (s.tile p).nextId ∧ o.started = false ∧
      o.org.pc = (s.tile p).pc ∧ o.org.at_ = k ∧
      ((s.tile p).Still → o.desc = BitVec.ofNat 512 (memRead (s.tile p).pal (descAddr ((s.tile p).settle c) w) 64))

/-- R173: MCLR's, without a descriptor. -/
def mclrShape (w : IW) : Shape :=
  { illegal := !decide (w.f 8 10 = 0) || (w.f 43 1 = 0 && w.f 38 5 ≠ 0) || w.f 18 20 ≠ 0, td := w.f 44 5,
    queue := some .muller }

/-- R95: SIG and WAITGE. -/
def syncShape (w : IW) : Shape :=
  { illegal := w.f 16 7 ≠ 0, reads := if w.f 39 5 = 0 then [] else [w.f 39 5], td := w.f 44 5, queue := some .sync,
    check := noPoison (if w.f 39 5 = 0 then [] else [w.f 39 5]) }

def SyncCompletes (mk : TileId → IW → Instr) (isWait : Bool) : Prop :=
  ∀ (s : State) (t : TileId) (p : Nat) (w : IW) (c : Nat), s.tilesWf = true → s.Issues t p w (syncShape w) c →
    ∃ u o, exec (mk t w) s = .next u ∧ u.PaletteKept s p ∧
      u.After s p c c (fun x => ({ x.takeToken (w.f 44 5) with
        nextId := x.nextId + 1, sync := x.sync ++ [o] } : Tile).advance) ∧
      o.wait = isWait ∧ o.vcid = w.f 23 16 ∧ o.td = w.f 44 5 ∧
      o.val = (if w.f 39 5 = 0 then w.f 0 16 else (((s.tile p).settle c).sreg (w.f 39 5)).toNat % 2 ^ 48) ∧
      ∃ r, r ∈ u.syn.reqs ∧ r.tile = p ∧ r.op = o

/-- R36, R39, R76: an arrival. -/
def arriveShape (illegal : Bool) (qs : List Queue) : Shape :=
  { illegal := illegal, noGuard := true, hold := fun t => t.drained qs }

/-- R94, R217: the shape of a send. -/
def sendShape (illegal : Bool) (extra : List Nat) (dest : Tile → Nat) (w : IW) : Shape :=
  { illegal := illegal || w.f 0 15 ≠ 0, reads := [w.f 39 5, w.f 34 5] ++ extra,
    writes := if w.f 15 1 = 1 then [w.f 39 5, w.f 34 5] else [], td := w.f 44 5, queue := some .exch,
    check := noPoison extra,
    port := fun c y => if y.t.inWindow c && (y.sendDest (dest y.t)).isSome then some (bankOf (sendAddr y.t (w.f 39 5)), 2)
      else none }

/-- R94, R217, R221, R225: a send takes its token until `k + 24`, increments its address registers when it says so, and,
inside its window and with a served destination, carries its source row to that tile; otherwise it is discarded, with
status ERROR. -/
def SendCompletes (mk : TileId → IW → Instr) (illegal : IW → Bool) (extra : IW → List Nat) (dest : IW → Tile → Nat) :
    Prop :=
  ∀ (s : State) (t : TileId) (p : Nat) (w : IW) (c : Nat), s.tilesWf = true →
    s.Issues t p w (sendShape (illegal w) (extra w) (dest w) w) c →
    let x := (s.tile p).settle c
    ∃ u k e, exec (mk t w) s = .next u ∧ c ≤ k ∧ u.PaletteKept s p ∧
      u.After s p c k (fun x =>
        (if w.f 15 1 = 1 then
          ({ x.takeToken (w.f 44 5) with exch := x.exch ++ [e] } : Tile).sendInc (w.f 39 5) (w.f 34 5)
        else { x.takeToken (w.f 44 5) with exch := x.exch ++ [e] }).advance) ∧
      e.td = w.f 44 5 ∧ e.daddr = sendAddr x (w.f 34 5) ∧ e.due = k + 24 ∧
      if (s.tile p).inWindow k then
        match (s.env p).served (dest w x) with
        | none => e.dest = none ∧ e.status = 3
        | some q => e.dest = some q ∧ ((s.tile p).permits k .engR (sendAddr x (w.f 39 5) / 64) = true →
            e.status = 0 ∧ ((s.tile p).Still →
              e.data = BitVec.ofNat 512 (memRead (s.tile p).pal (sendAddr x (w.f 39 5)) 64)))
      else e.dest = none ∧ e.status = 3

end Sys2Proof.Machine

/-- R80: the seven scalar loads. -/
def Sys2Proof.Machine.Loads : Prop :=
  LoadCompletes .ldB 1 true ∧ LoadCompletes .ldH 2 true ∧ LoadCompletes .ldW 4 true ∧ LoadCompletes .ldD 8 false ∧
  LoadCompletes .ldBu 1 false ∧ LoadCompletes .ldHu 2 false ∧ LoadCompletes .ldWu 4 false

/-- R80: the four scalar stores. -/
def Sys2Proof.Machine.Stores : Prop :=
  StoreCompletes .stB 1 ∧ StoreCompletes .stH 2 ∧ StoreCompletes .stW 4 ∧ StoreCompletes .stD 8

/-- R80: the scalar loads and stores. -/
def Obligations.ScalarMemory : Prop := Sys2Proof.Machine.Loads ∧ Sys2Proof.Machine.Stores

/-- R80, R103, R108: a store whose cycle has come is what a read of its bytes delivers, its segment keeps the poison
mark or takes the store's, and no other byte and no other segment's mark changes. -/
def Obligations.StoreBecomesVisible : Prop :=
  ∀ (x : TW) (d a n v : Nat) (tag : Bool), x.t.stores = [(d, a, n, v, tag)] → x.t.late = [] → x.t.palErr = [] →
    SMap.sorted x.t.pal = true → SMap.sorted x.t.palPois = true → 0 < n → a % 16 + n ≤ 16 →
    let y := (x.commitDue d).t
    y.stores = [] ∧ memRead y.pal a n = v % 256 ^ n ∧
      (∀ b, b < a ∨ a + n ≤ b → SMap.getD y.pal b 0#8 = SMap.getD x.t.pal b 0#8) ∧
      (n < 16 → SMap.getD y.palPois (a / 16) false = (tag || SMap.getD x.t.palPois (a / 16) false)) ∧
      ∀ g, g ≠ a / 16 → SMap.getD y.palPois g false = SMap.getD x.t.palPois g false

/-- R88, R92, R93: the seven engine instructions with descriptors, and R173: MCLR, which has none. -/
def Sys2Proof.Machine.EngineOperations : Prop :=
  EngineCompletes .mmac .mmac (fun w => w.f 0 18 = 0) ∧ EngineCompletes .mstore .mstore (fun w => w.f 0 18 = 0) ∧
  EngineCompletes .grun .grun (fun w => w.f 0 18 = 0) ∧ EngineCompletes .fput .fput (fun w => w.f 0 18 = 0) ∧
  EngineCompletes .fsend .fsend (fun w => w.f 0 18 = 0) ∧
  EngineCompletes .sload .sload (fun w => decide (w.f 3 15 = 0) && decide (w.f 0 3 < 6)) ∧
  EngineCompletes .sstore .sstore (fun w => decide (w.f 3 15 = 0) && decide (w.f 0 3 < 6)) ∧
  ∀ (s : State) (t : TileId) (p : Nat) (w : IW) (c : Nat), s.tilesWf = true →
    s.Issues t p w (mclrShape w) c →
    ∃ u o, exec (.mclr t w) s = .next u ∧ u.PaletteKept s p ∧
      u.After s p c c (fun x => (({ x.takeToken (w.f 44 5) with nextId := x.nextId + 1 } : Tile).enqueue o).advance) ∧
      o.kind = .mclr ∧ o.td = w.f 44 5 ∧ o.parm = w.f 0 18 ∧ o.id = (s.tile p).nextId ∧ o.started = false ∧ o.org.at_ = c

/-- R95, R330: SIG and WAITGE take their token and leave for their counter. -/
def Sys2Proof.Machine.SyncOperations : Prop := SyncCompletes .sig false ∧ SyncCompletes .waitge true

/-- R88, R92, R93, R95: the instructions that queue an operation of an engine, and SIG and WAITGE. -/
def Obligations.OperationsQueued : Prop := Sys2Proof.Machine.EngineOperations ∧ Sys2Proof.Machine.SyncOperations

/-- R36, R39, R76: BAR, TICKWAIT and END stop the tile where they say, once its queues are empty; the migrations of the
die and the audit of the row then look at it. -/
def Obligations.ArrivalsStop : Prop :=
  ∀ (s : State) (t : TileId) (p : Nat) (w : IW) (c : Nat), s.tilesWf = true →
    (s.Issues t p w (arriveShape (w.f 16 33 ≠ 0) [.muller, .glaze, .exch]) c →
      ∃ v : State, exec (.bar t w) s = .next ((v.qualify t.die).auditCompare p) ∧ v.PaletteKept s p ∧
        v.After s p c c (fun x => { x.advance with run := .atBarrier, arrived := c, xlen := w.f 0 16 })) ∧
    (s.Issues t p w (arriveShape (w.f 0 49 ≠ 0) [.muller, .glaze, .stream, .exch, .fabric, .sync]) c →
      (∃ v : State, exec (.tickwait t w) s = .next (v.auditCompare p) ∧ v.PaletteKept s p ∧
        v.After s p c c (fun x => { x.advance with run := .atTickwait, arrived := c })) ∧
      ∃ v : State, exec (.endTile t w) s = .next ((v.qualify t.die).auditCompare p) ∧ v.PaletteKept s p ∧
        v.After s p c c (fun x => { x with run := .ended, arrived := c }))

/-- R94, R217-R225: XSEND, whose word names its destination, and XSENDR, whose register does. -/
def Obligations.SendsLeave : Prop :=
  SendCompletes .xsend (fun w => w.f 16 5 ≠ 0) (fun _ => []) (fun w _ => w.f 21 13) ∧
  SendCompletes .xsendr (fun w => w.f 21 13 ≠ 0) (fun w => [w.f 16 5]) (fun w x => (x.sreg (w.f 16 5)).toNat % 2 ^ 13)

/-! The tick (R34-R63, R544). -/

namespace Sys2Proof.Machine

/-- The module neither coordinates a recovery nor would on becoming master (R372). -/
def State.noCoord (s : State) : Prop := s.get F.RCV_CTL.en = 0

/-- RCV_STATUS as a module that does not coordinate shows it. -/
def State.uncoordinated (s : State) : State := (s.put F.RCV_STATUS.coord 0).put F.RCV_STATUS.cstate 0

end Sys2Proof.Machine

/-- R41, R56, R60, R63: host writes of the tick logic's registers. -/
def Obligations.TickRegisterWrites : Prop :=
  ∀ (s : State),
    (∀ v : Word, s.reached 0x10030 = true → exec (.tickNextWrite v) s = .next
      (if s.get F.TICK_ROLE.role_now = 2 ∧ s.get F.TICK_STATUS.stopped = 1 then s.put F.TICK_NEXT.next v.toNat
        else s.put F.TICK_STATUS.cfg_reject 1)) ∧
    (∀ v : BitVec 24, s.reached 0x10010 = true → exec (.tickPeriodWrite v) s = .next
      (if 25000 ≤ v.toNat ∧ v.toNat ≤ 12500000 then s.put F.TICK_PERIOD.period_set v.toNat
        else s.put F.TICK_STATUS.cfg_reject 1)) ∧
    (∀ v : BitVec 24, s.reached 0x10018 = true → exec (.tickHoldLimitWrite v) s = .next
      (if v.toNat ≤ 12500000 then s.put F.TICK_HOLD_LIMIT.limit_set v.toNat else s.put F.TICK_STATUS.cfg_reject 1)) ∧
    (∀ v : Word, s.reached 0x10050 = true → exec (.tickCtxBindWrite v) s = .next (s.put F.TICK_CTX_BIND.bind v.toNat)) ∧
    (∀ (v : BitVec 2) (a : Nat), s.reached 0x10000 = true →
      ((s.get F.MOD_LOCK.lock).testBit 5 = true → exec (.roleCfgWrite v a) s = .next (s.errc 0 1)) ∧
      ((s.get F.MOD_LOCK.lock).testBit 5 = false → v = 3 → exec (.roleCfgWrite v a) s = .next (s.put F.TICK_STATUS.cfg_reject 1)) ∧
      ((s.get F.MOD_LOCK.lock).testBit 5 = false → v ≠ 3 → v.toNat = s.get F.TICK_ROLE.role_cfg →
        exec (.roleCfgWrite v a) s = .next s) ∧
      ((s.get F.MOD_LOCK.lock).testBit 5 = false → v ≠ 3 → v.toNat ≠ s.get F.TICK_ROLE.role_cfg → s.regsWf = true →
        s.get F.TICK_ROLE.role_now ≠ 2 → s.tick.trained = false → s.noCoord → exec (.roleCfgWrite v a) s = .next
          ((((s.reach a).put F.TICK_ROLE.role_cfg v.toNat).clearHolds.put F.TICK_ROLE.role_now 0).uncoordinated))) ∧
    (∀ a : Nat, s.reached 0x10008 = true →
      (s.get F.TICK_PEERS.master_valid = 1 ∨ s.get F.TICK_ROLE.role_now = 2 → exec (.pingNow a) s = .next
        (s.tickTo { kind := 0xA, number := s.get F.TICK_NUMBER.number, stamp := a % 2 ^ 32 } s.masterNode)) ∧
      (s.get F.TICK_PEERS.master_valid = 0 → s.get F.TICK_ROLE.role_now ≠ 2 → exec (.pingNow a) s = .next s)) ∧
    (∀ (v : Bool) (a : Nat), s.reached 0x10008 = true →
      (s.get F.TICK_ROLE.role_now ≠ 2 → exec (.run v a) s = .next ((s.reach a).put F.TICK_CTRL.run v.toNat)) ∧
      (s.get F.TICK_ROLE.role_now = 2 → s.get F.TICK_STATUS.stopped = 0 → exec (.run v a) s = .next
        (((s.reach a).put F.TICK_CTRL.run v.toNat).mapTick fun t => { t with stopPending := !v })) ∧
      (s.get F.TICK_ROLE.role_now = 2 → s.get F.TICK_STATUS.stopped = 1 → v = false →
        exec (.run v a) s = .next ((s.reach a).put F.TICK_CTRL.run 0)))

/-- R45, R49, R56: the master emits the next tick at its scheduled time, or at once on a write of run 1 while emission is
stopped: TICK_NEXT advances, the hold set empties, and the tick goes to every module, itself among them. -/
def Obligations.TickEmitted : Prop :=
  ∀ (s : State) (a : Nat), s.regsWf = true → s.get F.TICK_ROLE.role_now = 2 → s.tick.delayed = false →
    let emitted (u : State) (r : Nat) : State :=
      let n := s.get F.TICK_NEXT.next
      let p := s.get F.TICK_PERIOD.period_set
      let l := s.get F.TICK_HOLD_LIMIT.limit_set
      (((u.put F.TICK_NEXT.next (n + 1)).put F.TICK_STATUS.stopped 0).clearHolds.mapTick fun t =>
        { t with emitted := a, ePeriod := p, eLimit := l, delayed := false, frozen := false, halted := false,
                 lastOut := n, known := noteTick n t.known, stopPending := decide (r = 0) }).tickAllOwn
        { kind := 1, run := r, number := n, period := p, limit := l } s.tick.tree
    (s.get F.TICK_STATUS.stopped = 0 → s.tick.halted = false → s.tick.stopPending = false →
      s.tick.emitted + s.tick.ePeriod ≤ a → s.holdsEmpty = true →
      exec (.scheduledTime a) s = .next (emitted (s.reach a) (s.get F.TICK_CTRL.run))) ∧
    (s.get F.TICK_STATUS.stopped = 1 → s.reached 0x10008 = true →
      exec (.run true a) s = .next (emitted ((s.reach a).put F.TICK_CTRL.run 1) 1))

/-! Readiness, holds, roles (R40-R59). -/

/-- R40, R46-R50, R544: readiness and hold messages at a member and at the master. `x` is the first message of its kind
in the inbox, `u` the module without it. -/
def Obligations.HoldMessages : Prop :=
  ∀ (s u : State) (x : Flit) (a : Nat), s.regsWf = true →
    -- MODULE_READY
    (s.get F.TICK_STATUS.holding = 0 →
      let v := s.reach a
      exec (.moduleReady a) s = .next
        ((v.put F.TICK_CTX_READY.ready (maskOf fun c => v.isBound c && v.ctxWaits c)).put F.TICK_STATUS.ready
          (v.put F.TICK_CTX_READY.ready (maskOf fun c => v.isBound c && v.ctxWaits c)).moduleReady.toNat)) ∧
    -- HOLD_DEADLINE
    (s.tick.everTick = true → a = s.tick.accepted + s.tick.period - min (s.get F.TICK_HOLD_LEAD.lead) (s.tick.period / 2) →
      s.moduleReady = false → s.get F.TICK_STATUS.holding = 0 → s.get F.TICK_ROLE.role_now ≠ 2 →
      let n := s.get F.TICK_NUMBER.number + 1
      exec (.holdDeadline a) s = .next
        (((((s.reach a).put F.TICK_STATUS.holding 1).count F.TICK_CNT_HOLD.count 0xB 1).mapTick fun t =>
          { t with heldFor := n, holdAt := a }).toMasters { kind := 2, number := n })) ∧
    -- HOLD and RELEASE, for the next tick number
    (s.get F.TICK_ROLE.role_now = 2 → s.tick.frozen = false → s.tick.delayed = false →
      x.tNumber = s.get F.TICK_NEXT.next → s.popTick 2 = some (x, u) →
      exec (.hold a) s = .next (((u.add F.TICK_CNT_DOM_HOLD.count 1).reach a).put (holdF x.tOrigin) 1)) ∧
    (s.get F.TICK_ROLE.role_now = 2 → s.tick.frozen = false → s.tick.delayed = false →
      x.tNumber = s.get F.TICK_NEXT.next → s.popTick 3 = some (x, u) →
      exec (.release a) s = .next ((u.reach a).put (holdF x.tOrigin) 0)) ∧
    (s.get F.TICK_ROLE.role_now = 1 → s.tick.frozen = false → x.tNumber = s.get F.TICK_NUMBER.number + 1 →
      s.popTick 2 = some (x, u) → exec (.hold a) s = .next ((u.reach a).put (holdF x.tOrigin) 1)) ∧
    (s.get F.TICK_ROLE.role_now = 1 → s.tick.frozen = false → x.tNumber = s.get F.TICK_NUMBER.number + 1 →
      s.popTick 3 = some (x, u) → exec (.release a) s = .next ((u.reach a).put (holdF x.tOrigin) 0)) ∧
    -- HOLD_LIMIT_EXPIRY
    (s.get F.TICK_ROLE.role_now = 2 → s.tick.delayed = true → s.holdsEmpty = false → s.tick.halted = false →
      s.tick.emitted + s.tick.ePeriod + (if s.tick.eLimit = 0 then s.tick.ePeriod else s.tick.eLimit) < a → s.noCoord →
      exec (.holdLimitExpiry a) s = .next (((s.reach a).mapTick fun t =>
        { t with delayed := false, frozen := true, halted := true }).tickAllOwn
          { kind := 8, number := s.get F.TICK_NEXT.next } s.tick.tree)) ∧
    -- OVERRUN, at a member and at the master
    (s.get F.TICK_ROLE.role_now ≠ 2 → s.popTick 9 = some (x, u) →
      exec (.overrun a) s = .next ((u.reach a).put F.TICK_STATUS.recovery 1)) ∧
    (s.get F.TICK_ROLE.role_now = 2 → s.tick.halted = false → s.noCoord → s.popTick 9 = some (x, u) →
      exec (.overrun a) s = .next ((((u.reach a).put F.TICK_STATUS.recovery 1).mapTick fun t =>
        { t with delayed := false, frozen := true, halted := true }).tickAllOwn
          { kind := 8, number := s.get F.TICK_NEXT.next } s.tick.tree)) ∧
    -- RECOVER, at a member whose sequencer is off
    (s.get F.TICK_ROLE.role_now = 0 → s.noCoord → s.popTick 8 = some (x, u) →
      exec (.recover a) s = .next ((u.reach a).put F.TICK_STATUS.recovery 1))

/-- R55, R57, R58, R59: heartbeats, takeover, claims and round trips. -/
def Obligations.TickRoles : Prop :=
  ∀ (s u : State) (x : Flit) (a n : Nat), s.regsWf = true →
    -- HEARTBEAT_TIMER and HEARTBEAT
    (s.get F.TICK_ROLE.role_now = 2 → s.tick.claimFrom = some n → exec .heartbeatTimer s = .next
      (s.tickTo { kind := 4, run := s.get F.TICK_CTRL.run, number := s.get F.TICK_NUMBER.number,
                  period := s.tick.ePeriod, limit := s.tick.eLimit } n)) ∧
    (s.tick.claim = 0 → s.popTick 4 = some (x, u) → exec (.heartbeat a) s = .next
      (((((u.reach a).put F.TICK_PEERS.master_id x.tMaster).put F.TICK_PEERS.master_valid 1).put
        F.TICK_STATUS.paused (1 - x.tRun)).mapTick fun t => { t with masterRun := x.tRun == 1, heard := a })) ∧
    -- MASTER_LOSS
    (s.get F.TICK_ROLE.role_now = 1 → s.tick.heard + s.tick.period ≤ a → s.noCoord →
      let n := s.get F.TICK_NUMBER.number
      let run := s.tick.masterRun
      exec (.masterLoss a) s = .next ((((((((((s.reach a).put F.TICK_ROLE.role_now 2).count F.TICK_CNT_ROLE.count 0xC 1).put
        F.TICK_NEXT.next (n + 1)).put F.TICK_CTRL.run run.toNat).put F.TICK_STATUS.stopped (1 - run.toNat)).put
        F.TICK_STATUS.no_standby 1).mapTick fun t =>
          { t with tree := 1, emitted := t.accepted, ePeriod := t.period, eLimit := t.limit, claimFrom := none,
                   delayed := false, stopPending := false, halted := false, lastOut := n }).tickAll
        { kind := 7, run := run.toNat, number := n, period := s.tick.period, limit := s.tick.limit } 1).uncoordinated)) ∧
    -- TAKEOVER
    (s.get F.TICK_ROLE.role_now = 2 → x.tOrigin ≠ s.node → s.noCoord → s.popTick 7 = some (x, u) →
      exec (.takeover a) s = .next ((((((((u.put F.TICK_ROLE.role_now 0).clearHolds.put F.TICK_STATUS.stopped 1).mapTick fun t =>
        { t with delayed := false, frozen := false, halted := false, stopPending := false }).put F.TICK_NEXT.next 1).put
        F.TICK_STATUS.no_standby 1).mapTick fun t => { t with claimFrom := none }).count F.TICK_CNT_ROLE.count 0xC 1).uncoordinated)) ∧
    (s.get F.TICK_ROLE.role_now ≠ 2 → s.popTick 7 = some (x, u) → exec (.takeover a) s = .next u) ∧
    -- CLAIM_MASTER and CLAIM_STANDBY
    (s.get F.TICK_ROLE.role_now = 0 → s.tick.claim = 2 → x.tOrigin < s.node → s.popTick 5 = some (x, u) →
      exec .claimMaster s = .next ((u.mapTick fun t => { t with claim := 0 }).count F.TICK_CNT_ROLE.count 0xC 1)) ∧
    (s.get F.TICK_ROLE.role_now = 1 ∨ s.get F.TICK_ROLE.role_now = 2 → s.popTick 5 = some (x, u) →
      exec .claimMaster s = .next (u.count F.TICK_CNT_ROLE.count 0xC 1)) ∧
    (s.get F.TICK_ROLE.role_now = 0 → s.tick.claim = 1 → x.tOrigin < s.node → s.popTick 6 = some (x, u) →
      exec (.claimStandby a) s = .next ((u.mapTick fun t => { t with claim := 0 }).count F.TICK_CNT_ROLE.count 0xC 1)) ∧
    (s.get F.TICK_ROLE.role_now = 0 → s.tick.claim = 2 → s.tick.claimFrom = none → s.popTick 6 = some (x, u) →
      exec (.claimStandby a) s = .next (u.mapTick fun t => { t with claimFrom := some x.tOrigin })) ∧
    -- CLAIM_WINDOW_END, 12,500,000 fc after the claim
    (s.tick.claim = 1 → s.tick.claimAt + 12500000 ≤ a → s.noCoord → exec (.claimWindowEnd a) s = .next
      (((s.reach a).put F.TICK_ROLE.role_now 1).mapTick fun t => { t with claim := 0, heard := a, claimAt := a }).uncoordinated) ∧
    (s.tick.claim = 2 → s.tick.claimAt + 12500000 ≤ a → s.tick.claimFrom = some n → s.noCoord →
      exec (.claimWindowEnd a) s = .next
        ((((s.reach a).put F.TICK_ROLE.role_now 2).mapTick fun t => { t with claim := 0, heard := a, claimAt := a }).put
          F.TICK_STATUS.no_standby 0).uncoordinated) ∧
    (s.tick.claim = 2 → s.tick.claimAt + 12500000 ≤ a → s.tick.claimFrom = none → s.noCoord →
      exec (.claimWindowEnd a) s = .next
        (((s.reach a).put F.TICK_ROLE.role_now 2).mapTick fun t => { t with claim := 0, heard := a, claimAt := a }).uncoordinated) ∧
    -- PING and ECHO
    (s.get F.TICK_ROLE.role_now = 2 → s.popTick 0xA = some (x, u) → exec .ping s = .next
      (u.inject 0 (Hdr.flit { kind := 7, vc := 3, dst := x.tOrigin, src := s.node } (x.bytes 0 28 + 1)))) ∧
    (s.popTick 0xB = some (x, u) →
      let rtt := (a % 2 ^ 32 + 2 ^ 32 - x.tStamp) % 2 ^ 32 % 2 ^ 24
      let v := ((u.reach a).put F.TICK_RTT.rtt_last rtt).put F.TICK_RTT.rtt_max (max rtt (s.get F.TICK_RTT.rtt_max))
      exec (.echo a) s = .next (if min (s.get F.TICK_HOLD_LEAD.lead) (s.tick.period / 2) < rtt then
        v.put F.TICK_STATUS.lead_short 1 else v))

/-! Sync counters (R323-R348). -/

namespace Sys2Proof.Machine

/-- R324, R330, R334, R337: counter `i` of die `d` takes `n` more, due in cycle `due`, below 2^48, in the cycle in which it
can (two a cycle): the die counts the increment; it leaves for the peer of a forwarded counter, or the SIG's token clears;
the waiters that it satisfies go on; and a lag beyond its lead is recorded. -/
def State.increased (s : State) (d i n due : Nat) (src : IncSrc) : State :=
  let c := (s.cnt d i).place due
  (((((s.setCnt d i ((s.cnt d i).took due c n)).put (F.SYN_PCNT_W0.value d i) (s.cval d i + n)).dieEvent d 0x48 1).forward
    d i n c src).wake d i c).overrunCheck d i (src == .remote)

/-- A counter in no pair that takes `n` more: bound in epoch `e`, not poisoned, and below 2^48 with it. -/
structure State.Takes (s : State) (d i e n : Nat) : Prop where
  bound : s.get (F.SYN_PCNT_W0.bound d i) = 1
  epoch : s.get (F.SYN_PCNT_W0.epoch d i) = e
  sound : s.get (F.SYN_PCNT_W0.poison d i) = 0
  single : s.get (F.SYN_PCNT_W2.pair_v d i) = 0
  room : s.cval d i + n < 2 ^ 48

/-- A request of a tile that finds counter `i` of die `d`, in that die's cycle `c`: three or four cycles and the hops after
its issue. -/
structure State.Finds (s : State) (p : Nat) (isWait : Bool) (r : SyncReq) (d i e c : Nat) : Prop where
  next : s.nextReq p isWait = some r
  target : r.target = some (d, i, e)
  cycle : c = s.onDie (physDie r.tile) d
    (r.op.org.at_ + (if r.model = 2 then 3 else 4) + 12 * (max (physDie r.tile) d - min (physDie r.tile) d))

/-- R276, R336, R338: SYNC flit `x` comes to an ACTIVE relation of its epoch with a mirror, and finds counter `i` of die `d`
bound and not poisoned; `v` is the module once the flit is resolved, before the flit goes to the counter's die. -/
structure State.Mirrors (s v : State) (x : Flit) (d i : Nat) : Prop where
  active : s.get (F.FAB_FLOW_W0.state (flowDie x.flow) (flowIdx x.flow)) = 1
  kind : s.get (F.FAB_FLOW_W0.kind (flowDie x.flow) (flowIdx x.flow)) = 2
  recv : s.get (F.FAB_FLOW_W0.recv (flowDie x.flow) (flowIdx x.flow)) = 1
  mirror : s.get (F.FAB_FLOW_W3.mirror_v (flowDie x.flow) (flowIdx x.flow)) = 1
  epoch : s.get (F.FAB_FLOW_W0.epoch (flowDie x.flow) (flowIdx x.flow)) = x.epoch
  finds : v.translate (s.get (F.FAB_FLOW_W0.ctx (flowDie x.flow) (flowIdx x.flow)))
    (s.get (F.FAB_FLOW_W3.mvcid (flowDie x.flow) (flowIdx x.flow))) = some (d, i, x.f 70 8)
  sound : (v.toDie d x.flow x.vc).get (F.SYN_PCNT_W0.poison d i) = 0

end Sys2Proof.Machine

/-- R324, R328, R330, R331, R341: SIG and WAITGE at their counter, which is in no pair. -/
def Obligations.RequestsArrive : Prop :=
  ∀ (s : State) (t : TileId) (p : Nat) (r : SyncReq) (d i e c : Nat), s.phys t.gid = some p →
    (s.Finds p false r d i e c → s.Takes d i e r.op.val →
      exec (.sigArrival t) s = .next ((s.dropReq r).increased d i r.op.val c (.sig r))) ∧
    (s.Finds p false r d i e c → s.get (F.SYN_PCNT_W0.bound d i) = 1 → s.get (F.SYN_PCNT_W0.epoch d i) = e →
      s.get (F.SYN_PCNT_W0.poison d i) = 1 →
      exec (.sigArrival t) s = .next ((s.dropReq r).syncDone r 1 (s.back r d c))) ∧
    (s.Finds p true r d i e c → s.get (F.SYN_PCNT_W0.bound d i) = 1 → s.get (F.SYN_PCNT_W0.epoch d i) = e →
      s.get (F.SYN_PCNT_W0.poison d i) = 0 →
      exec (.waitgeArrival t) s = .next (((s.dropReq r).setCnt d i
        { s.cnt d i with waiters := (s.cnt d i).waiters ++ [⟨r, c⟩] }).wake d i
          ((s.cnt d i).meets (s.cval d i) r.op.val c ((s.cnt d i).recent.length + 1)))) ∧
    (s.Finds p true r d i e c → s.get (F.SYN_PCNT_W0.bound d i) = 1 → s.get (F.SYN_PCNT_W0.epoch d i) = e →
      s.get (F.SYN_PCNT_W0.poison d i) = 1 →
      exec (.waitgeArrival t) s = .next (((s.dropReq r).syncDone r 1 (s.back r d c)).count (F.SYN_CNT_ABANDON.count d)
        (dieErrc d 0x28) 1))

/-- R326, R327, R341: a counter is bound with value 0 and the next epoch, unbound, or poisoned by an error of its store. -/
def Obligations.CountersBound : Prop :=
  ∀ (s : State) (d : Fin 4) (i : Fin 4096) (v : Word) (c : Nat), s.regsWf = true →
    (s.reached (F.SYN_PCNT_W1.bind d i).addr = true → s.get (F.SYN_PCNT_W0.bound d i) = 0 →
      s.translate (v.field 16 6) (v.field 0 16) = none →
      s.get (F.SYN_CTX_W0.used d (v.field 16 6)) < s.get (F.SYN_CTX_W0.quota d (v.field 16 6)) →
      s.get (F.SYN_PCNT_W2.pair_v d i) = 0 → s.get (F.SYN_PCNT_W2.rb_mode d i) < 2 →
      (∀ q ∈ s.boundCounters, q.1 = d → s.get (F.SYN_PCNT_W2.pair_v d q.2) = 1 → s.get (F.SYN_PCNT_W2.partner d q.2) ≠ i) →
      s.get (F.HCTX_STATUS.state (v.field 16 6)) ≠ 0 →
      exec (.bind d i ⟨v, c⟩) s = .next ((((((((((s.put (F.SYN_PCNT_W1.vcid d i) (v.field 0 16)).put (F.SYN_PCNT_W1.ctx d i)
        (v.field 16 6)).put (F.SYN_PCNT_W1.bind d i) 1).put (F.SYN_PCNT_W0.value d i) 0).put (F.SYN_PCNT_W0.poison d i) 0).put
        (F.SYN_PCNT_W0.bound d i) 1).put (F.SYN_PCNT_W0.epoch d i) (s.get (F.SYN_PCNT_W0.epoch d i) + 1)).put
        (F.SYN_CTX_W0.used d (v.field 16 6)) (s.get (F.SYN_CTX_W0.used d (v.field 16 6)) + 1)).setCnt d i CntSt.fresh).retarget c)) ∧
    (s.reached (F.SYN_PCNT_W1.bind d i).addr = true → s.get (F.SYN_PCNT_W0.bound d i) = 1 →
      exec (.bind d i ⟨v, c⟩) s = .next (s.put (F.SYN_CTL.reject d) 1)) ∧
    (s.reached (F.SYN_PCNT_W1.bind d i).addr = true → s.get (F.SYN_PCNT_W0.bound d i) = 1 →
      let ctx := s.get (F.SYN_PCNT_W1.ctx d i)
      let u := s.abandon d i c
      exec (.unbind d i v c) s = .next ((((u.put (F.SYN_PCNT_W0.bound d i) 0).put (F.SYN_PCNT_W1.bind d i) 0).put
        (F.SYN_CTX_W0.used d ctx) (u.get (F.SYN_CTX_W0.used d ctx) - 1)).retarget c)) ∧
    (s.get (F.SYN_PCNT_W0.bound d i) = 1 → s.get (F.SYN_PCNT_W0.poison d i) = 0 →
      exec (.counterStoreError d i c) s = .next (s.abandon d i c)) ∧
    -- what abandoning a counter leaves that nobody waits on and no sequencer names
    ((s.cnt d i).waiters = [] → (s.cnt d i).held = [] →
      s.get (F.MBS_CFG.enable (s.get (F.SYN_PCNT_W1.ctx d i))) = 0 →
      s.armedOn (s.get (F.SYN_PCNT_W1.ctx d i)) (s.get (F.SYN_PCNT_W1.vcid d i)) = [] →
      s.abandon d i c = (s.put (F.SYN_PCNT_W0.poison d i) 1).setCnt d i { s.cnt d i with waiters := [], held := [] })

/-- R338, R340: ADD and REBASE flits of a relation at the mirror's counter. -/
def Obligations.RelationFlits : Prop :=
  ∀ (s u : State) (x : Flit) (a c d i e : Nat), s.regsWf = true →
    let v := (u.reach a).resolve x.flow a (x.f 11 1 == 1)
    let t := v.toDie d x.flow x.vc
    ((s.pop fun x => x.kind == 6 && x.f 68 2 == 0) = some (x, u) → s.Mirrors v x d i → t.Takes d i e (x.bytes 0 6) →
      exec (.syncAdd a c) s = .next (t.increased d i (x.bytes 0 6) c .remote)) ∧
    ((s.pop fun x => x.kind == 6 && x.f 68 2 == 1) = some (x, u) → s.Mirrors v x d i →
      s.get (F.FAB_FLOW_W3.chk (flowDie x.flow) (flowIdx x.flow)) = 1 → (t.absOf d i).toNat = x.bytes 8 8 →
      exec (.rebase a c) s = .next t) ∧
    ((s.pop fun x => x.kind == 6 && x.f 68 2 == 1) = some (x, u) → s.Mirrors v x d i →
      s.get (F.FAB_FLOW_W3.chk (flowDie x.flow) (flowIdx x.flow)) = 1 → (t.absOf d i).toNat ≠ x.bytes 8 8 →
      let w := (t.count (F.SYN_CNT_REBASE.count d) (dieErrc d 0x25) 1).put
        (F.FAB_FLOW_W3.failed (flowDie x.flow) (flowIdx x.flow)) 1
      exec (.rebase a c) s = .next ((w.drainRelation x.flow c).ctxEvent 6
        (w.get (F.FAB_FLOW_W0.ctx (flowDie x.flow) (flowIdx x.flow)))))

/-- R345, R346: host wait slots and doorbells, written by the PF or by the context's VF. -/
def Obligations.HostWaitsAndDoorbells : Prop :=
  ∀ (s : State) (vf : Bool) (c w : Fin 64) (v : Word) (tgt : BitVec 48) (wide : Bool) (d i e : Nat), s.regsWf = true →
    (vf = true → s.get (F.HCTX_STATUS.state c) = 1) →
    let func := if vf then c.val + 1 else 0
    let u := { ((s.put (F.SYNW_HWAIT_W1.vcid c w) (v.field 0 16)).put (F.SYNW_HWAIT_W1.vector c w) (v.field 16 11)).put
      (F.SYNW_HWAIT_W1.msix_en c w) (v.field 27 1) with
        syn := { s.syn with waitOwner := SMap.put s.syn.waitOwner (64 * c + w) func 0 } }
    (s.reached (F.SYNW_HWAIT_W1.arm c w).addr = true → u.translate c (v.field 0 16) = some (d, i, e) →
      v.field 16 11 < (if func = 0 then 2048 else 64) → s.get (F.SYN_PCNT_W0.poison d i) = 0 → d < 4 → i < 4096 →
      s.cval d i < s.get (F.SYNW_HWAIT_W0.target c w) →
      exec (.hostWaitArm vf c w v) s = .next ((u.put (F.SYNW_HWAIT_W2.state c w) 1).put (F.SYNW_HWAIT_W1.arm c w) 1)) ∧
    (s.reached (F.SYNW_HWAIT_W0.target c w).addr = true → s.get (F.SYNW_HWAIT_W2.state c w) ≠ 1 →
      exec (.hostWaitTargetWrite vf c w tgt) s = .next (s.put (F.SYNW_HWAIT_W0.target c w) tgt.toNat)) ∧
    (s.reached (F.DB_SIG.n c).addr = true → s.translate c (v.field 48 16) = some (d, i, e) → wide = true →
      s.get (F.HCTX_STATUS.state c) = 1 → 1 ≤ v.field 0 48 → v.field 0 48 ≤ s.get (F.SYN_CTX_W1.max_add d c) →
      s.get (F.SYN_PCNT_W0.poison d i) = 0 →
      exec (.dbSig vf c wide v) s = .next { s with syn := { s.syn with bells := s.syn.bells ++ [⟨c, d, i, e, v.field 0 48⟩] } }) ∧
    (s.reached (F.DB_SIG.n c).addr = true → s.translate c (v.field 48 16) = none ∨ v.field 0 48 = 0 ∨ wide = false →
      exec (.dbSig vf c wide v) s = .next (s.count (F.DB_CNT_REJ.count c) 3 1)) ∧
    (∀ (b : Doorbell) (l : List Doorbell) (cyc : Nat), takeBell c s.syn.bells = some (b, l) → s.Takes b.die b.idx b.epoch b.n →
      exec (.doorbellArrival c cyc) s = .next (({ s with syn := { s.syn with bells := l } } : State).increased b.die b.idx b.n
        cyc (.bell c)))

/-! Training support (R350-R371). -/

/-- R350-R355: a sequencer is enabled, disabled, opened and reset by the host, releases its units and closes its steps.
UNIT_RELEASE is said of an F unit without a gate, STEP_CLOSE of a step that closes no watch entry and takes no
snapshot. -/
def Obligations.MicrobatchSequencers : Prop :=
  ∀ (s : State) (c : Fin 64) (v : Word) (a cyc : Nat), s.regsWf = true →
    -- MBS_ENABLE
    (s.reached (F.MBS_CFG.enable c).addr = true → s.get (F.MBS_CFG.enable c) = 0 →
      let n := s.setWord (mbsBase c) ((v &&& 0x7FF3E) ||| 1)
      exec (.mbsEnable c v) s = .next (if n.mbsCounters c then n.put (F.MBS_STATUS.halted c) 0
        else s.put (F.MBS_STATUS.cfg_reject c) 1)) ∧
    (s.reached (F.MBS_CFG.enable c).addr = true → s.get (F.MBS_CFG.enable c) = 1 →
      exec (.mbsEnable c v) s = .next (if s.word (mbsBase c) &&& 0x7FF3E = v &&& 0x7FF3E then s
        else s.put (F.MBS_STATUS.cfg_reject c) 1)) ∧
    -- MBS_DISABLE
    (s.reached (F.MBS_CFG.enable c).addr = true → s.get (F.MBS_CFG.enable c) = 1 →
      exec (.mbsDisable c v) s = .next (if s.word (mbsBase c) &&& 0x7FF3E = v &&& 0x7FF3E then s.put (F.MBS_CFG.enable c) 0
        else (s.put (F.MBS_CFG.enable c) 0).put (F.MBS_STATUS.cfg_reject c) 1)) ∧
    -- OPEN
    (s.reached (F.MBS_CMD.open c).addr = true → s.get (F.MBS_CFG.enable c) = 1 → (s.mbs c).isOpen = false →
      exec (.openStep c) s = .next (s.setMbs c { s.mbs c with
        fwd := List.range (s.get (F.MBS_CFG.nmb_m1 c) + 1), bwd := [], isOpen := true })) ∧
    -- MBS_RESET: the baselines follow the counters that translate
    (s.reached (F.MBS_CMD.reset c).addr = true → s.get (F.MBS_CFG.enable c) = 0 →
      ∀ x y z : Nat, s.absCount c (s.get (F.MBS_VC.vc_done c)) = some x → s.absCount c (s.get (F.MBS_VC.vc_fgate c)) = some y →
        s.absCount c (s.get (F.MBS_VC.vc_bgate c)) = some z →
        exec (.mbsReset c) s = .next (((((((s.setMbs c { s.mbs c with fwd := [], bwd := [], isOpen := false }).put
          (F.MBS_STATUS.released c) 0).put (F.MBS_STATUS.completed c) 0).put (F.MBS_STATUS.phase c) 0).put
          (F.MBS_DBASE.base c) x).put (F.MBS_FBASE.base c) y).put (F.MBS_BBASE.base c) z)) ∧
    -- UNIT_RELEASE
    (let w := (s.reach a).mbsUpdate c
     let r := w.get (F.MBS_STATUS.released c)
     let step := w.get (F.MBS_STEP.step c)
     let id := (w.mbs c).fwd.headD 0
     let e : Word := BitVec.ofNat 64 (id + 1 * 2 ^ 8 + r * 2 ^ 10 + step * 2 ^ 20)
     let q : MbsSt := { w.mbs c with fwd := (w.mbs c).fwd.tail, rel := (w.mbs c).rel.set (r % 8) e }
     s.get (F.MBS_CFG.enable c) = 1 → (s.mbs c).isOpen = true → (s.reach a).mbsCounters c = true →
      w.get (F.MBS_CFG.enable c) = 1 → (w.mbs c).isOpen = true → w.get (F.MBS_STATUS.halted c) = 0 →
      r ≤ w.get (F.MBS_CFG.nmb_m1 c) → r - w.get (F.MBS_STATUS.completed c) ≤ w.get (F.MBS_CFG.depth_m1 c) →
      w.get (F.MBS_CFG.fgate_en c) = 0 →
      exec (.unitRelease c a cyc) s = .next ((((w.setMbs c q).put (F.MBS_STATUS.released c) (r + 1)).put
        (F.MBS_STATUS.phase c) 1).unitInc 0 c (w.get (F.MBS_VC.vc_rel c)) 1 cyc |>.skbUnit c a step 1 id r)) ∧
    -- STEP_CLOSE
    (let w := (s.reach a).mbsUpdate c
     let m := w.get (F.MBS_CFG.nmb_m1 c) + 1
     let n := 2 * m + w.get (F.MBS_CFG.opt c)
     let step := w.get (F.MBS_STEP.step c)
     s.get (F.MBS_CFG.enable c) = 1 → (s.mbs c).isOpen = true → s.get (F.MBS_STATUS.halted c) = 0 → w.regsWf = true →
      w.get (F.MBS_STATUS.completed c) = n → step < 2 ^ 36 - 1 →
      (∀ k < w.get (F.WCH_CTX_W0.size c), (WatchEntry.parse (w.entry (w.get (F.WCH_CTX_W0.base c) + k))).touched = false) →
      w.get (F.VRN_CTX_W0.every c) = 0 → w.get (F.MBS_CFG.auto_open c) = 0 →
      exec (.stepClose c a) s = .next ((((((((w.put (F.WCH_CTX_W2.step_closed c) step).put (F.MBS_STEP.step c) (step + 1)).put
        (F.MBS_DBASE.base c) ((w.get (F.MBS_DBASE.base c) + n * (w.get (F.MBS_UNIT.done_m1 c) + 1)) % 2 ^ 64)).put
        (F.MBS_FBASE.base c) ((w.get (F.MBS_FBASE.base c) + m * (w.get (F.MBS_UNIT.fgate_m1 c) + 1)) % 2 ^ 64)).put
        (F.MBS_BBASE.base c) ((w.get (F.MBS_BBASE.base c) + m * (w.get (F.MBS_UNIT.bgate_m1 c) + 1)) % 2 ^ 64)).put
        (F.MBS_STATUS.released c) 0).put (F.MBS_STATUS.completed c) 0).put (F.MBS_STATUS.phase c) 0 |>.setMbs c
          { w.mbs c with fwd := List.range m, bwd := [], isOpen := false }))

/-- R362-R366: the update watch's windows, its records, its closes and its access registers. -/
def Obligations.UpdateWatch : Prop :=
  ∀ (s : State) (c : Fin 64) (v : Word) (r : WatchRec) (l : List WatchRec), s.regsWf = true →
    let u : State := { s with train := { s.train with records := l } }
    let base := s.get (F.WCH_CTX_W0.base r.ctx)
    let x := (WatchEntry.parse (s.entry (base + r.layer))).reached r.skips
    -- WATCH_DELIVERY: outside the context's window, not finite, finite
    (s.train.records = r :: l → s.get (F.WCH_CTX_W0.en r.ctx) = 0 ∨ s.get (F.WCH_CTX_W0.size r.ctx) ≤ r.layer →
      exec .watchDelivery s = .next (u.count F.WCH_CNT_RANGE.count 0x17 1)) ∧
    (s.train.records = r :: l → s.get (F.WCH_CTX_W0.en r.ctx) = 1 → r.layer < s.get (F.WCH_CTX_W0.size r.ctx) →
      r.poison = true ∨ fin64 r.r0 = false ∨ fin64 r.r1 = false →
      exec .watchDelivery s = .next ((u.setEntry (base + r.layer) { x with nonfin := true }.words).count
        F.WCH_CNT_NONFIN.count 0x16 1)) ∧
    (s.train.records = r :: l → s.get (F.WCH_CTX_W0.en r.ctx) = 1 → r.layer < s.get (F.WCH_CTX_W0.size r.ctx) →
      r.poison = false → fin64 r.r0 = true → fin64 r.r1 = true →
      exec .watchDelivery s = .next (u.setEntry (base + r.layer) (x.summed r).words)) ∧
    (∀ q : WEntry, q.summed r = { q with accD := (watchAdd q.accD (Fmt.fp64.decode r.r0)).1, accW := (watchAdd q.accW (Fmt.fp64.decode r.r1)).1, ovf := q.ovf || (watchAdd q.accD (Fmt.fp64.decode r.r0)).2 || (watchAdd q.accW (Fmt.fp64.decode r.r1)).2 }) ∧
    -- WATCH_CLOSE: a window of no touched entries, and one of one
    (s.reached (F.WCH_CTX_W0.close c).addr = true → (∀ k < s.get (F.WCH_CTX_W0.size c),
      (WatchEntry.parse (s.entry (s.get (F.WCH_CTX_W0.base c) + k))).touched = false) →
      exec (.watchClose c) s = .next (s.put (F.WCH_CTX_W2.step_closed c) (s.get (F.MBS_STEP.step c)))) ∧
    (s.reached (F.WCH_CTX_W0.close c).addr = true → s.get (F.WCH_CTX_W0.size c) = 1 →
      let e := s.get (F.WCH_CTX_W0.base c)
      let y := (WatchEntry.parse (s.entry e)).close (Fmt.fp32.decode (s.get (F.WCH_CTX_W1.band_lo c)))
        (Fmt.fp32.decode (s.get (F.WCH_CTX_W1.band_hi c))) (s.get (F.MBS_STEP.step c))
      (WatchEntry.parse (s.entry e)).touched = true →
      exec (.watchClose c) s = .next ((if y.2 then (s.setEntry e y.1.words).count F.WCH_CNT_OUT.count 0x15 1
        else s.setEntry e y.1.words).put (F.WCH_CTX_W2.step_closed c) (s.get (F.MBS_STEP.step c)))) ∧
    -- WCH_CTX_WRITE: a window that is in range, disjoint from the others and, of an enabled context, unchanged
    (s.reached (F.WCH_CTX_W0.close c).addr = true → v.field 0 15 + v.field 16 13 ≤ 32768 → v.field 16 13 ≤ 4096 →
      (∀ k : Nat, k < 64 → k ≠ c → s.get (F.WCH_CTX_W0.en k) = 1 → v.field 0 15 + v.field 16 13 ≤ s.get (F.WCH_CTX_W0.base k) ∨
        s.get (F.WCH_CTX_W0.base k) + s.get (F.WCH_CTX_W0.size k) ≤ v.field 0 15) →
      s.get (F.WCH_CTX_W0.en c) = 0 ∨ v.field 0 15 = s.get (F.WCH_CTX_W0.base c) ∧ v.field 16 13 = s.get (F.WCH_CTX_W0.size c) →
      v.field 33 1 = 0 →
      exec (.wchCtxWrite c v) s = .next (s.setWord (wchBase c) (v &&& 0x11FFF7FFF))) ∧
    (s.reached (F.WCH_CTX_W0.close c).addr = true → 32768 < v.field 0 15 + v.field 16 13 ∨ 4096 < v.field 16 13 →
      exec (.wchCtxWrite c v) s = .next (s.put (F.WCH_CTX_W2.reject c) 1)) ∧
    -- WCH_ACC_READ and WCH_ACC_WRITE
    (s.reached F.WCH_ACC_CMD.read.addr = true → ∃ u : State, exec .wchAccRead s = .next u ∧
      (∀ j < 16, u.get (F.WCH_ACC_DATA.data j) = WatchEntry.word (s.entry (s.get F.WCH_ACC_ADDR.entry)) j) ∧
      (∀ f : RF, f.addr < 0x14840 ∨ 0x148C0 ≤ f.addr → u.get f = s.get f) ∧ { u with regs := s.regs } = s) ∧
    (s.reached F.WCH_ACC_CMD.read.addr = true →
      (∀ k ∈ s.wchOwners (s.get F.WCH_ACC_ADDR.entry), s.get (F.WCH_CTX_W0.en k) = 0) →
      exec .wchAccWrite s = .next (s.setEntry (s.get F.WCH_ACC_ADDR.entry)
        (WatchEntry.parse ((List.range 15).map fun j => s.word (0x14840 + 8 * j))).words))

/-- R367-R369: an export starts, ends by an abort, and ends with its last byte: the snapshot's bytes posted to the host. -/
def Obligations.ExportChannels : Prop :=
  ∀ (s : State) (x : Fin 4) (v : Word) (a cyc k : Nat), s.regsWf = true →
    let u := ((s.reach a).put (F.EXP_CTL.dest x) (v.field 2 1)).put (F.EXP_CTL.ctx x) (v.field 3 6)
    let seq := s.get (F.EXP_SRC.snap x)
    (s.reached (F.EXP_CTL.start x).addr = true → s.get (F.EXP_STATUS.state x) ≠ 1 → u.heldSlot (v.field 3 6) seq = none →
      exec (.exportStart x v a cyc) s = .next
        (((u.put (F.EXP_STATUS.moved x) 0).put (F.EXP_STATUS.state x) 3).put (F.EXP_STATUS.cause x) 1)) ∧
    (s.reached (F.EXP_CTL.start x).addr = true → s.get (F.EXP_STATUS.state x) ≠ 1 →
      u.heldSlot (v.field 3 6) seq = some k → v.field 2 1 = 0 → (∀ j < 5, j ≠ k → u.pinned (v.field 3 6) j = false) →
      exec (.exportStart x v a cyc) s = .next
        (((((u.setPin (v.field 3 6) k true).put (F.EXP_LEN.len x) (u.vslot (v.field 3 6) k).lens.sum).put
          (F.EXP_STATUS.moved x) 0).put (F.EXP_STATUS.cause x) 0).put (F.EXP_STATUS.state x) 1)) ∧
    (s.reached (F.EXP_CTL.start x).addr = true → s.get (F.EXP_STATUS.state x) = 1 →
      exec (.exportStart x v a cyc) s = .next s) ∧
    (s.reached (F.EXP_CTL.start x).addr = true → s.get (F.EXP_STATUS.state x) = 1 →
      exec (.exportAbort x) s = .next (s.channelEnd x 4 0)) ∧
    (s.get (F.EXP_STATUS.state x) = 1 → s.get (F.EXP_CTL.dest x) = 0 → s.host.bme = true →
      s.get F.HOST_STATUS.speed ≠ 0 →
      let len := s.get (F.EXP_LEN.len x)
      let moved := s.get (F.EXP_STATUS.moved x)
      let r := s.snapBytes x moved (len - moved)
      exec (.exportDone x) s = .next (((r.2.2.post (.exportData x ((r.2.2.get (F.EXP_DST.addr x) + moved) % 2 ^ 64) (len - moved)
        (byteList r.1 (len - moved)))).put (F.EXP_STATUS.moved x) len).channelEnd x 2 0)) ∧
    -- the end of a channel whose snapshot is gone
    (s.heldSlot (s.get (F.EXP_CTL.ctx x)) seq = none → ∀ st cause : Nat,
      s.channelEnd x st cause = (s.put (F.EXP_STATUS.state x) st).put (F.EXP_STATUS.cause x) cause)

/-! The engines (R162-R228). A command of a tile's engine is said through `s.onTile p fun _ => y`: the tile served
becomes `y.t`, and what `y` has handed out takes effect. -/

/-- R172-R174, R178: the head of the Muller queue starts, with no operation running: MCLR, a valid and an invalid MMAC
and a valid and an invalid MSTORE. -/
def Obligations.MullerStarts : Prop :=
  ∀ (s : State) (t : TileId) (p c k0 : Nat) (o : QOp) (l : List QOp), s.phys t.gid = some p →
    let z := (s.view p).ports (max c (s.tile p).cyc)
    let x := z.forToken ((z.t.muller.head?.map (·.tw)).getD 0)
    let k := max (max k0 c) x.t.cyc
    let y := x.commitStores k
    x.t.muller = o :: l → x.t.mulStartFrom o = some k0 →
    (o.kind = .mclr → exec (.mullerOperationStart t c) s = .next (s.onTile p fun _ => y.mclrStart o k)) ∧
    (o.kind = .mmac → mmacOk o.desc = true → y.t.pen = false → y.t.mul = [] →
      exec (.mullerOperationStart t c) s = .next (s.onTile p fun _ => y.map fun t => { t with
        muller := t.muller.tail, mul := [MulRun.start_ o k (k + t.markDelay (mmacMarks o.desc)) 0 t.mulToken 0], mulC := k,
        cyc := max t.cyc k })) ∧
    (o.kind = .mstore → mstoreOk o.desc = true → y.t.pen = false → y.t.mul = [] →
      exec (.mullerOperationStart t c) s = .next (s.onTile p fun _ => y.map fun t => { t with
        muller := t.muller.tail, mul := [MulRun.start_ o k 0 0 0 (mstorePieces o.desc).length], cyc := max t.cyc k })) ∧
    (o.kind = .mmac ∧ mmacOk o.desc = false ∨ o.kind = .mstore ∧ mstoreOk o.desc = false →
      exec (.mullerOperationStart t c) s = .next (s.onTile p fun _ => (y.map fun t => { t with
        muller := t.muller.tail, mulBar := k + 2, cyc := max t.cyc k }).finish o 3 (k + 1)))

/-- R173, R178: MCLR zeroes the elements of the blocks that its parameter selects, and no others; its token clears in the
next cycle. -/
def Sys2Proof.Machine.BlocksCleared : Prop :=
  ∀ (y : TW) (o : QOp) (k i : Nat), SMap.sorted y.t.acc = true →
    (y.mclrStart o k).t.mulToken = k + 1 ∧ (y.mclrStart o k).t.muller = y.t.muller.tail ∧
    SMap.getD (y.mclrStart o k).t.acc i 0 = if i < 8192 ∧ o.parm.testBit (i / 1024) = true then 0#32 else SMap.getD y.t.acc i 0

/-- R165, R166, R169: one accumulation step: each element of the block becomes its own step's code, from 0 where the
operation starts afresh, and no other element changes. -/
def Sys2Proof.Machine.StepOfEachElement : Prop :=
  ∀ (acc : SMap (BitVec 32)) (blk : Nat) (zero : Bool) (as bs : List (List FVal)) (es : List MulFault),
    SMap.sorted acc = true → as.length = 32 → bs.length = 32 →
    (∀ i j : Nat, i < 32 → j < 32 → SMap.getD (blockStep acc blk zero as bs es).1 (1024 * blk + 32 * i + j) 0 =
      BitVec.ofNat 32 (accStep (if zero then 0 else (SMap.getD acc (1024 * blk + 32 * i + j) 0).toNat) (as.getD i [])
        (bs.getD j []) (wrongAt es i j)).code) ∧
    ∀ e, e < 1024 * blk ∨ 1024 * blk + 1024 ≤ e → SMap.getD (blockStep acc blk zero as bs es).1 e 0 = SMap.getD acc e 0

/-- R165, R166, R169, R173: what MCLR and an accumulation step leave in every element. -/
def Obligations.MullerElements : Prop := Sys2Proof.Machine.BlocksCleared ∧ Sys2Proof.Machine.StepOfEachElement

/-- R165, R176, R179-R182: a step of the running MMAC commits, its block completes, and a pair of MSTORE pieces is
written. -/
def Obligations.MullerAdvances : Prop :=
  ∀ (s : State) (t : TileId) (p : Nat) (r : MulRun) (l : List MulRun), s.phys t.gid = some p →
    -- STEP_COMMIT
    (∀ (es : List MulFault) (ch : Chunk) (q : List Chunk),
      let x := (s.view p).mulAhead 4096
      let d := r.op.desc
      let k := max (ch.firstC + mmacT d - 1 + x.t.mulD) (r.after + 1)
      let y := x.commitStores k
      let zero := mmacZero d && decide (r.chunk = 0)
      x.t.mul = r :: l → r.op.kind = .mmac → r.waitDone = false → r.ready = ch :: q →
      ∃ z : TW, exec (.stepCommit t es) s = .next (s.onTile p fun _ => z) ∧ z.t.cyc = max y.t.cyc k ∧
        z.t.acc = (blockStep y.t.acc (mmacFirst d + r.blk) zero
          (chunkValues ch.a (mmacA d) (mmacK d) (r.blk / mmacN d) r.chunk).1
          (chunkValues ch.b (mmacB d) (mmacK d) (r.blk % mmacN d) r.chunk).1 es).1 ∧
        ∃ r2, z.t.mul = r2 :: y.t.mul.tail ∧ r2.commitC = k ∧ r2.errs = r.errs ++ es ∧
          (r.chunk + 1 = mmacK d → r2.waitDone = true) ∧ (r.chunk + 1 ≠ mmacK d → r2.chunk = r.chunk + 1)) ∧
    -- BLOCK_COMPLETE
    (let k := r.commitC + (s.tile p).mulK
     let y := ((s.view p).commitStores k).map fun t => { t with cyc := max t.cyc k }
     let y' := if r.nanSeen then y.count TF.MUL_CNT_CKSKIP.count (some 7) 1 else match ckResult r.errs with
       | some m => y.mismatch k (mmacFirst r.op.desc + r.blk) m
       | none => y
     (s.tile p).mul = r :: l → r.op.kind = .mmac → r.waitDone = true →
      (r.blk + 1 = mmacM r.op.desc * mmacN r.op.desc → exec (.blockComplete t) s = .next (s.onTile p fun _ =>
        (y'.map fun t => { t with
          mul := t.mul.tail, mulToken := k, mulLast := (k, 0, 2 ^ (mmacFirst r.op.desc + r.blk)) }).finish r.op (if r.viol then 3 else 0) k)) ∧
      (r.blk + 1 ≠ mmacM r.op.desc * mmacN r.op.desc → exec (.blockComplete t) s = .next (s.onTile p fun _ =>
        y'.map fun t => { t with mul := t.mul.modifyHead fun r =>
          { r with blk := r.blk + 1, chunk := 0, waitDone := false, nanSeen := false, errs := [] } }))) ∧
    -- MSTORE_PIECE: the last piece
    (∀ (rw : RWord) (q : Piece),
      let g := if r.commitC = 0 then (s.tile p).storeFirst r.op.desc r.start else r.commitC + 1
      let y := ((s.view p).commitStores g).map fun t => { t with cyc := max t.cyc g }
      let w := (y.map fun t => (t.grant g (bankOf q.addr) 3).grant g (1000 + (r.op.desc.field 32 3 + q.blk)) 2).writePiece
        r rw q g
      let z := w.2.rewrite g w.1 rw r.nextP q
      (s.tile p).mul = r :: l → r.op.kind = .mstore → r.op.desc.rword 384 = some rw →
      r.nextP % 2 = 0 → (mstorePieces r.op.desc)[r.nextP]? = some q → (mstorePieces r.op.desc)[r.nextQ]? = none →
      (mstorePieces r.op.desc).length ≤ r.nextP + 2 → y.t.claimed g (bankOf q.addr) 3 = false → g < z.t.mulC →
      exec (.mstorePiece t) s = .next (s.onTile p fun _ => (z.map fun t => { t with
          mul := t.mul.tail.modifyHead (fun m => { m with after := g + 1 }), mulToken := g + 1,
          mulLast := (g + 1, 2, 2 ^ (r.op.desc.field 32 3 + mstoreBlocks r.op.desc - 1)) }).finish r.op (if w.1.viol then 3 else 0) (g + 1)))

/-- R211-R214: a GRUN starts, or is rejected by its descriptor's checks or by those of its chain row; a beat ends, and the
last one ends the operation's beats. -/
def Obligations.GlazeAdvances : Prop :=
  ∀ (s : State) (t : TileId) (p c k0 : Nat) (o : QOp) (l : List QOp), s.phys t.gid = some p →
    -- GRUN_START
    (let x0 := (s.view p).forToken o.tw
     let x := if gOvl o.desc then x0 else x0.settled
     let k := max (max k0 c) x.t.cyc
     let y := (x.commitStores k).map fun t => { t with glaze := t.glaze.tail }
     (s.tile p).glaze = o :: l → x.t.glzStartFrom o = some k0 →
      (gDescCase o.desc ≠ 0 → exec (.grunStart t c) s = .next (s.onTile p fun _ =>
        ((y.glzErr (gDescCase o.desc) 0).map fun t => { t with
          glz := t.glz.filter (fun q => q.op.id ≠ o.id), glzToken := max t.glzToken (k + 1), glzRead := k,
          cyc := max t.cyc k }).finish o 3 (k + 1))) ∧
      (gDescCase o.desc = 0 → ∀ r : GlzRun,
        let z := (y.map fun t => { t with
          cyc := max t.cyc k, glzC := min t.glzC k, glz := t.glz ++ [GlzRun.start_ o k (k + t.markDelay (grunMarks o.desc))] }).glzChainAhead maxWait
        let g := r.chainC.getD r.start + z.t.readLat (r.chainC.getD r.start)
        z.t.glz.find? (fun q => q.op.id == o.id) = some r →
        (r.chainViol = false → chainBad r.op.desc r.chain = none → z.t.pen = false →
          exec (.grunStart t c) s = .next (s.onTile p fun _ => z.count TF.GLZ_CNT_POISON.count (some 11) r.constPois)) ∧
        (r.chainViol = true → exec (.grunStart t c) s = .next (s.onTile p fun _ =>
          (((z.ports g).glzErr 9 0).map fun t => { t with
            glz := t.glz.filter (fun q => q.op.id ≠ r.op.id), glzToken := max t.glzToken (g + 1), glzRead := g, cyc := max t.cyc g }).finish r.op 3 (g + 1))) ∧
        ∀ j, r.chainViol = false → chainBad r.op.desc r.chain = some j → exec (.grunStart t c) s = .next (s.onTile p fun _ =>
          (((z.ports g).glzErr 5 j).map fun t => { t with
            glz := t.glz.filter (fun q => q.op.id ≠ r.op.id), glzToken := max t.glzToken (g + 1), glzRead := g, cyc := max t.cyc g }).finish r.op 3 (g + 1)))) ∧
    -- GLAZE_BEAT
    (∀ (r : GlzRun) (b : GlzRead) (q : List GlzRead) (rw : RWord),
      let x := (s.view p).glzAhead maxWait
      x.t.glz.find? (fun q => !q.ended) = some r → r.ready = b :: q → r.op.desc.rword 384 = some rw →
      ∃ (z : TW) (r2 : GlzRun), exec (.glazeBeat t) s = .next (s.onTile p fun _ => z) ∧
        z.t.glz.map (·.op.id) = x.t.glz.map (·.op.id) ∧ (∀ y ∈ z.t.glz, y.op.id = r.op.id → y = r2) ∧
        r2.op = r.op ∧ r2.seg = b.seg ∧ r2.beat = b.beat ∧ r2.beats = r.beats + 1 ∧ r2.ready = q ∧
        r2.ended = (decide (gN r.op.desc ≤ 64 * b.beat + 64) && decide (gM r.op.desc ≤ b.seg + 1)))

/-- R217, R226, R234: the oldest send of a tile ends: one that was discarded clears its token with its status; one that
alone reaches its receiver is delivered there, and its token clears with the receiver's answer; a receiver under Gesso
drops it, and the die counts it. A send whose context has been reset holds no token. -/
def Sys2Proof.Machine.SendsDelivered : Prop :=
  ∀ (s : State) (t : TileId) (p : Nat) (x : Send) (l : List Send), s.phys t.gid = some p →
    ((s.tile p).adrift = [] → (s.tile p).exch = x :: l → x.dest = none → exec (.delivery t) s = .next (s.mapTile p fun t =>
      ({ t with exch := t.exch.erase x, cyc := max t.cyc x.due } : Tile).clearToken .exch x.td x.status x.due)) ∧
    ((s.tile p).adrift = x :: l → x.dest = none → exec (.delivery t) s = .next (s.mapTile p fun t =>
      { t with adrift := t.adrift.erase x })) ∧
    ∀ (q i k : Nat) (y : Send), (s.tile p).flying = x :: l → x.dest = some q →
      s.arrivals (physDie p) q x.due = [(i, k, y)] →
      ((s.tile q).gesso = true → exec (.delivery t) s = .next ((s.errc (dieErrc (physDie q) 5) 1).endSend k y 3)) ∧
      ((s.tile q).gesso = false →
      let d := (s.view q).deliver x.due ((s.ownerOf q).isSome && s.ownerOf q == s.ownerOf k)
        ((s.tile k).get TF.TILE_SELF.tile_id) y
      exec (.delivery t) s = .next (((s.setTile q d.2.t).effects q (s.env q) x.due d.2.out).endSend k y d.1))

/-- R68-R70: the row whose read is requested from cycle `k` is granted where its bank is free, at its rank, and delivered
when the Palette's read latency has passed from its grant; the read of a row outside every code partition leaves the
Palette untouched. -/
def Sys2Proof.Machine.RowDelivered : Prop :=
  ∀ (s : State) (t : TileId) (p r k : Nat), s.phys t.gid = some p → (s.tile p).fetch.next = some (r, k) →
    (s.tile p).fetch.got = false →
    let done (y : TW) (g : Nat) : TW := y.map fun t =>
      { t with cyc := max t.cyc (g + t.readLat g), fetch := { t.fetch with got := true } }
    (∀ g, (s.tile p).fetch.granted = some g →
      exec (.rowIssuable t) s = .next (s.onTile p fun _ => done (s.view p) g)) ∧
    ((s.tile p).fetch.granted = none →
      let q := (s.view p).requestGo k (r % 16) 7 maxWait
      let y := q.2
      exec (.rowIssuable t) s = .next (s.onTile p fun _ => done (y.rowGranted r k q.1) q.1) ∧
      ((y.commitDue q.1).t.permits q.1 .fetch r = false → (y.rowGranted r k q.1).t.pal = (y.commitDue q.1).t.pal))

/-- R68, R69, R217, R226: sends end at their receivers, and instruction rows are delivered. -/
def Obligations.Deliveries : Prop := Sys2Proof.Machine.SendsDelivered ∧ Sys2Proof.Machine.RowDelivered

/-! HBM, the host's aperture and the Palette's own commands (R104-R129, R237-R255, R482). -/

/-- R245-R248, R250, R251, R255: a stream engine takes a tile's next transfer, or rejects it; a started one moves its rows in
turns of at most 8, within its tile's free credits, and its token clears in the cycle in which its last row has moved. -/
def Obligations.StreamTransfers : Prop :=
  ∀ (s : State) (t : TileId) (p c : Nat), s.phys t.gid = some p →
    -- TRANSFER_START
    (∀ o : QOp,
      let s' := s.onTileLow p fun x => x.forToken ((x.t.streamHead.map (·.tw)).getD 0)
      let d := physDie p
      (s'.tile p).streamHead = some o → (s'.tile p).gesso = false → (s'.tile p).mayStart o c = true →
      s'.requestsOver p d (s'.stackOf d o.parm) c = true →
      let ctx := (s'.tile p).get TF.TILE_SELF.context
      let g := s'.rgn d ctx (strRgn o.desc)
      let k := s'.stackOf d o.parm
      (strZeros o.desc = true → g.active = true → g.lstack = o.parm → (if o.kind = .sload then g.rd else g.wr) = true →
        strInside o.desc g = true → strPalOk o.desc = true → strOverlaps (o.kind == .sload) o.desc = false →
        (s'.engState d k = 1 →
          let u := s'.onTileLow p fun x => (x.markStream o).map fun t => t.startStream o.id
          exec (.transferStart t c) s = .next (State.showTiles { u with hbm := { u.hbm with
            xfers := u.hbm.xfers ++ [Xfer.begin p o d k ctx (strRgn o.desc) g.base g.count c] } } d k)) ∧
        (s'.engState d k ≠ 1 → exec (.transferStart t c) s = .next
          ((s'.count (F.HBM_SE_CNT_INVAL.count d k) (dieErrc d 0x21) 1).onTileLow p fun x => x.finish o 3 c))) ∧
      (g.active = false → exec (.transferStart t c) s = .next
        (((s'.count (F.HBM_SE_CNT_INVAL.count d k) (dieErrc d 0x21) 1).count (F.HBM_SE_CNT_RGN.count d k) (dieErrc d 0x20) 1).onTileLow
          p fun x => x.finish o 3 c))) ∧
    -- TRANSFER_COMPLETE: the turn, a transfer with rows to come, and one that ends and signals no counter
    (∀ (k l : Nat) (x y : Xfer) (lat : List Nat), (s.hbm.xfers.filter fun x => x.tile == p)[k]? = some x → x.dead = false →
      let v := if s.turnOf x.die x.stack c = some x then s.takeTurn x c (lat ++ List.replicate 8 l) else s
      let u := v.engineTo x.die x.stack c
      s.burst x c ≤ 8 ∧ s.burst x c ≤ 32 - (s.tile x.tile).edgeUsed c ∧
      ((u.hbm.xfers.find? fun y => y.names p x.op.id) = some y → y.ended c = false →
        exec (.transferComplete t k c l lat) s = .next u) ∧
      ((u.hbm.xfers.find? fun y => y.names p x.op.id) = some y → y.ended c = true → y.revoked = false →
        strSig y.op.desc = false →
        let e := max y.last y.start
        let w := State.showTiles { u with hbm := { u.hbm with xfers := u.hbm.xfers.filter fun q => q != y } } y.die y.stack
        exec (.transferComplete t k c l lat) s = .next ((w.hist (0x108080 + 0x100000 * y.die + 0x100 * y.stack + 0x40)
          (w.get (F.HST_CTL.s_xfer y.die)) (e - y.start)).onTileLow y.tile fun q => q.finish y.op (if y.bad then 3 else 0) e)))

/-- R248, R249: an engine's states, and the map of logical stacks, which the host may not write and firmware may where the
engines that it changes are OFF or FAILED. -/
def Sys2Proof.Machine.EngineStates : Prop :=
  ∀ (s : State) (d : Fin 4) (k : Fin 6) (v fw : Bool) (w : BitVec 18) (cyc : Nat),
    -- HBM_SE_CTL_ENABLE
    (s.reached (F.HBM_SE_CTL.enable d k).addr = true →
      let u := s.put (F.HBM_SE_CTL.enable d k) v.toNat
      exec (.hbmSeCtlEnable d k v) s = .next (
        if v = true ∧ s.engState d k = 0 then u.put (F.HBM_SE_STATUS.state d k) 1
        else if v = false ∧ s.engState d k = 1 then u.put (F.HBM_SE_STATUS.state d k) 2
        else if v = true ∧ s.engState d k = 2 then u.put (F.HBM_SE_STATUS.state d k) 3
        else if v = false ∧ s.engState d k = 3 then u.put (F.HBM_SE_STATUS.state d k) 2
        else u)) ∧
    -- ENGINE_DRAIN_COMPLETE
    (s.xfersOn d k = [] → s.engState d k = 2 → exec (.engineDrainComplete d k) s = .next (s.put (F.HBM_SE_STATUS.state d k) 0)) ∧
    (s.xfersOn d k = [] → s.engState d k = 3 → exec (.engineDrainComplete d k) s = .next (s.put (F.HBM_SE_STATUS.state d k) 1)) ∧
    -- HBM_SEMAP_WRITE
    (let allowed := fw = true ∧ ∀ l : Nat, l < 6 → s.stackOf d l = w.toNat / 8 ^ l % 8 ∨ (w.toNat / 8 ^ l % 8 < 6 ∧
        (s.engState d (s.stackOf d l) = 0 ∨ s.engState d (s.stackOf d l) = 4) ∧
        (s.engState d (w.toNat / 8 ^ l % 8) = 0 ∨ s.engState d (w.toNat / 8 ^ l % 8) = 4))
     s.reached (F.HBM_SEMAP.phys d).addr = true →
      (allowed → exec (.hbmSemapWrite d ⟨fw, w⟩) s = .next (s.put (F.HBM_SEMAP.phys d) w.toNat)) ∧
      (¬ allowed → exec (.hbmSemapWrite d ⟨fw, w⟩) s = .next (s.put (F.HBM_RGN_CTL.reject d) 1))) ∧
    -- STACK_LOSS, of a stack that no transfer uses and that serves no logical stack
    (s.engState d k ≠ 4 → s.xfersOn d k = [] → (d.val ≠ 0 ∨ k.val ≠ 0) → (∀ q ∈ s.hbm.xfers, q.die ≠ d ∨ q.stack ≠ k) →
      (∀ w ∈ s.hbm.accepts, w.die ≠ d ∨ w.stack ≠ k) →
      let u := (State.showTiles (s.put (F.HBM_SE_STATUS.state d k) 4) d k).loseSlots d
      (∀ l < 6, u.stackOf d l ≠ k) → exec (.stackLoss d k cyc) s = .next (u.sendEvent 3 0))

/-- R241, R252-R254: a region slot is allocated, PENDING_ENABLE where a granule is dirty; it is released, its granules
dirty and its transfers revoked; and scrub cleans a granule. -/
def Sys2Proof.Machine.RegionSlots : Prop :=
  ∀ (s : State) (d : Fin 4) (c k : Fin 64) (v : Word) (p : Fin 6) (n : Nat), s.regsWf = true →
    -- REGION_ALLOCATE
    (s.reached (F.HBM_RGN.valid d c k).addr = true → s.get (F.HBM_RGN.state d c k) = 0 →
      v.field 0 15 + (v.field 16 16 + 1) ≤ 30720 → v.field 32 3 ≤ 5 → s.engState d (s.stackOf d (v.field 32 3)) ≠ 4 →
      (∀ q ∈ s.slotsOf d, (s.rgn d q.1 q.2).state ≠ 0 → (s.rgn d q.1 q.2).stack = s.stackOf d (v.field 32 3) →
        v.field 0 15 + (v.field 16 16 + 1) ≤ (s.rgn d q.1 q.2).base ∨
          (s.rgn d q.1 q.2).base + (s.rgn d q.1 q.2).count ≤ v.field 0 15) →
      exec (.regionAllocate d c k v) s = .next ((s.setWord (F.HBM_RGN.valid d c k).addr
        (setBit v 39 &&& 0x9FFFFF7FFF)).put (F.HBM_RGN.state d c k)
          (if ivMeets (s.dirty d (s.stackOf d (v.field 32 3))) (v.field 0 15) (v.field 0 15 + (v.field 16 16 + 1)) then 2 else 1))) ∧
    (s.reached (F.HBM_RGN.valid d c k).addr = true → s.get (F.HBM_RGN.state d c k) ≠ 0 →
      exec (.regionAllocate d c k v) s = .next (s.put (F.HBM_RGN_CTL.reject d) 1)) ∧
    (s.reached (F.HBM_RGN.valid d c k).addr = true →
      30720 < v.field 0 15 + (v.field 16 16 + 1) ∨ 5 < v.field 32 3 ∨ s.engState d (s.stackOf d (v.field 32 3)) = 4 →
      exec (.regionAllocate d c k v) s = .next (s.put (F.HBM_RGN_CTL.reject d) 1)) ∧
    -- REGION_RELEASE
    (s.reached (F.HBM_RGN.valid d c k).addr = true → s.get (F.HBM_RGN.state d c k) = 2 →
      exec (.regionRelease d c k) s = .next ((s.put (F.HBM_RGN.state d c k) 0).put (F.HBM_RGN.valid d c k) 0)) ∧
    (s.reached (F.HBM_RGN.valid d c k).addr = true → s.get (F.HBM_RGN.state d c k) = 1 →
      let u := (s.put (F.HBM_RGN.state d c k) 0).put (F.HBM_RGN.valid d c k) 0
      let w := u.revoke d c k
      w.hbm.xfers = (u.hbm.xfers.map fun (x : Xfer) => if x.die == d && x.ctx == c && x.slot == k && !x.revoked then
        { x with revoked := true, asked := x.issued } else x) ∧
      exec (.regionRelease d c k) s = .next (w.markDirty d
        (s.rgn d c k).stack (s.get (F.HBM_RGN.base d c k)) (s.get (F.HBM_RGN.base d c k) + (s.get (F.HBM_RGN.count_m1 d c k) + 1)))) ∧
    -- GRANULE_CLEAN
    (let g := s.get (F.HBM_SCRUB.next d p)
     let l := ivDel (s.dirty d p) g (g + 1)
     s.engState d p ≠ 4 → ivMeets (s.dirty d p) g (g + 1) = true → s.granuleBusy d p g = false →
      exec (.granuleClean d p n) s = .next ((((s.hbmZero d p (g * 2 ^ 21) (2 ^ 21)).setDirty d p l).put
        (F.HBM_SCRUB.next d p) ((l.head?.map (·.1)).getD 0)).dieEvent d 0x46 n |>.activateSlots d))

/-- R241, R248, R249, R252-R254: the stream engines' states and map, and the region slots. -/
def Obligations.StreamEngines : Prop := Sys2Proof.Machine.EngineStates ∧ Sys2Proof.Machine.RegionSlots

/-- R243, R482, R483: a host access through one window of BAR2: a part that its slot admits reaches the stack, and any
other is rejected and reads as ones. -/
def Obligations.ApertureAccess : Prop :=
  ∀ (s : State) (vf : Option (Fin 64)) (z a : Nat) (acc : HostAccess),
    let size := 2 ^ (30 + z)
    let win := if vf.isSome then 2 ^ 30 else size / 16
    acc.ok = true → (∀ c ∈ vf, s.get (F.HCTX_STATUS.state c.val) = 1) → a % win + acc.size ≤ win →
    (∀ d p at_ : Nat, s.apWindow (vf.map Fin.val) size a acc.size acc.data.isSome = .reach d p at_ →
      (∀ v, acc.data = some v → exec (.bar2Access vf z a acc) s = .next
        ((s.hbmWrite d p at_ acc.size (v % 256 ^ acc.size)).apTear (vf.map Fin.val) size a)) ∧
      (acc.data = none →
        let r := s.hbmReadSegs d p (at_ / 16) (segsOf at_ acc.size)
        exec (.bar2Access vf z a acc) s = .next
          ((s.answer (r.1 / 256 ^ (at_ % 16) % 256 ^ acc.size) (r.2.1.any id)).hbmReadSegs d p (at_ / 16)
            (segsOf at_ acc.size)).2.2)) ∧
    (∀ d : Nat, s.apWindow (vf.map Fin.val) size a acc.size acc.data.isSome = .reject d →
      (acc.data.isSome = true → exec (.bar2Access vf z a acc) s = .next ((s.put (F.HBM_RGN_CTL.host_reject d) 1).errc 0x18 1)) ∧
      (acc.data = none → exec (.bar2Access vf z a acc) s = .next
        (((s.answer (256 ^ acc.size - 1) false).put (F.HBM_RGN_CTL.host_reject d) 1).errc 0x18 1)))

/-- R106, R109: a corrected segment is written back, a bank patrols its next row, and patrol is resumed or suspended. -/
def Sys2Proof.Machine.PalettePatrols : Prop :=
  ∀ (s : State) (q : PhysTile) (t : TileId) (p c seg : Nat) (b : Fin 16),
    let x := s.view q.idx
    -- CORRECTED_WRITE_BACK
    (s.erasing = false → x.t.writeBack.find? (fun s => bankOf (16 * s) == b) = some seg → (x.ports (c + 1)).t.claimed c b 9 = false →
      exec (.correctedWriteBack q c b) s = .next (s.onTile q.idx fun _ => x.map fun t =>
        { t.grant c b 8 with palErr := SMap.put t.palErr seg 0 0, writeBack := t.writeBack.filter (· ≠ seg) })) ∧
    -- PATROL_READ
    (s.erasing = false → x.get TF.PAL_CTRL.patrol ≠ 0 → x.t.gesso = false → (x.ports (c + 1)).t.claimed c b 9 = false →
      (∀ s ∈ x.t.writeBack, bankOf (16 * s) ≠ b) → SMap.getD x.t.patrolAt b 0 ≤ c →
      let row := SMap.getD x.t.patrolRow b 0
      exec (.patrolRead (.palette q) c b) s = .next (s.onTile q.idx fun _ =>
        (((x.commitStores c).map fun t => t.grant c b 9).readSegs ((row * 1024 + b * 64) / 16) 4).2.2.map fun t =>
          { t with patrolRow := SMap.put t.patrolRow b ((row + 1) % 2048) 0, patrolAt := SMap.put t.patrolAt b (c + 4096) 0 })) ∧
    -- PATROL_READ of the accumulator store of a fabric die (R306)
    (∀ f : Fin 2, s.get (F.BLD_CTL.patrol f) ≠ 0 → SMap.getD s.bld.patrolAt f 0 ≤ c →
      let l := SMap.getD s.bld.patrolLine f 0
      let u := (s.reach c).bldLine f l
      exec (.patrolRead (.store f) c b) s = .next { u with bld := { u.bld with
        patrolLine := SMap.put u.bld.patrolLine f ((l + 1) % 786432) 0,
        patrolAt := SMap.put u.bld.patrolAt f (c + 4096) 0 } }) ∧
    -- PAL_CTRL_PATROL_WRITE
    (s.phys t.gid = some p → (s.tile p).gesso = false →
      (exec (.palCtrlPatrolWrite t c false) s = .next (s.onTile p fun _ => (s.view p).put TF.PAL_CTRL.patrol 0)) ∧
      ((s.tile p).get TF.PAL_CTRL.patrol = 0 →
        exec (.palCtrlPatrolWrite t c true) s = .next (s.onTile p fun _ => ((s.view p).put TF.PAL_CTRL.patrol 1).map fun t =>
          { t with patrolAt := (List.range 16).foldl (fun m b => SMap.put m b (c + 4096) 0) t.patrolAt })))

/-- R114, R118-R126: partitions, receive windows, releases, and the end of Gesso of a tile. -/
def Sys2Proof.Machine.PalettePartitions : Prop :=
  ∀ (s : State) (t : TileId) (q : PhysTile) (p c : Nat) (k : Fin 16) (j : Fin 4) (v : Word) (n : BitVec 7),
    s.phys t.gid = some p → (s.tile p).gesso = false → SMap.wf (s.tile p).regs tileReset = true →
    let x := s.view p
    let old := rreg tileReset x.t.regs (0x80 + 8 * k)
    -- PAL_PART_WRITE
    (x.t.partOk k (v &&& partMask) = true → exec (.palPartWrite t c k v) s = .next (s.onTile p fun _ => x.map fun t =>
      { t with regs := rset tileReset t.regs (0x80 + 8 * k) (v &&& partMask),
               partNext := t.partNext.filter (fun p => decide (c < p.1)) ++ [(c + 2, k.val, old)] })) ∧
    (old.field 48 1 = 1 → exec (.palPartWrite t c k v) s = .next (s.onTile p fun _ => x.put TF.PAL_STATUS.part_reject 1)) ∧
    -- PAL_RXCFG_WRITE: a slot closes; a slot opens, and its buffers become credits of its flow
    (v.field 40 1 = 0 → exec (.palRxcfgWrite t j v) s = .next (s.onTile p fun _ => x.map fun t =>
      ({ t with regs := rset tileReset t.regs (0x100 + 0x20 * j) (v &&& rxMask) } : Tile).rxClose j)) ∧
    (∀ w, v.field 40 1 = 1 → (rreg tileReset x.t.regs (0x100 + 0x20 * j)).field 40 1 = 0 → x.t.rxPart j = some w →
      (v.field 22 12 + 1) * (v.field 34 6 + 1) ≤ partSize w → w.field 41 1 = 1 →
      exec (.palRxcfgWrite t j v) s = .next (s.onTile p fun _ =>
        ((x.map fun t => (((({ t with regs := rset tileReset t.regs (0x100 + 0x20 * j) (v &&& rxMask) } : Tile).rxZero j).put
          (TF.PAL_RXCNT.filled j) 0).put (TF.PAL_RXCNT.released j) 0).put (TF.PAL_RXOPEN.open j) (2 ^ (v.field 34 6 + 1) - 1)).penPending
            ⟨5, 0, 0, 0, 0⟩ (partBase w) (if x.t.pen then (v.field 22 12 + 1) * (v.field 34 6 + 1) else 0)).emit
          (.credits (v.field 0 14) (v.field 14 8) j 0 (v.field 34 6 + 1) (v.field 34 6) (v.field 22 12) (partBase w)))) ∧
    -- PAL_RXREL_WRITE: one filled buffer is released and becomes a credit; none of a slot that holds none
    ((s.tile p).pen = false → x.get (TF.PAL_RXCFG.enable j) = 1 → x.get (TF.PAL_RXCNT.filled j) ≠ x.get (TF.PAL_RXCNT.released j) →
      x.get (TF.PAL_RXCNT.released j) < 2 ^ 24 - 1 → n = 1 →
      let rel := x.get (TF.PAL_RXCNT.released j)
      let i := rel % x.t.rxNbuf j
      ∃ y : TW, exec (.palRxrelWrite t j n) s = .next (s.onTile p fun _ => y) ∧ y.get (TF.PAL_RXCNT.released j) = rel + 1 ∧
        y.get (TF.PAL_RXOPEN.open j) = (x.get (TF.PAL_RXOPEN.open j) ||| 2 ^ i) % 2 ^ 64 ∧
        y.out = [.credits (x.get (TF.PAL_RXCFG.flow_id j)) (x.get (TF.PAL_RXCFG.epoch j)) j i 1 (x.t.rxNbuf j - 1)
          (x.t.rxRows j - 1) ((x.t.rxPart j).elim 0 partBase)]) ∧
    (n = 0 ∨ 64 < n.toNat ∨ x.get (TF.PAL_RXCFG.enable j) = 0 → exec (.palRxrelWrite t j n) s = .next (s.onTile p fun _ =>
      x.put TF.PAL_STATUS.rel_reject 1)) ∧
    -- GESSO_COMPLETE
    ((s.tile q.idx).gesso = true → exec (.gessoComplete q) s = .next
      ((s.gessoComplete q.idx).stageDeferred (physDie q.idx) (physRow q.idx)))

/-- R106, R109, R114, R118-R126: patrol and write-back; partitions, windows, releases and Gesso. -/
def Obligations.PaletteEvents : Prop := Sys2Proof.Machine.PalettePatrols ∧ Sys2Proof.Machine.PalettePartitions

/-! The fabric: flows, links, routers and gradient blending (R257-R322). -/

namespace Sys2Proof.Machine

/-- R89, R280: operation `o` is the next of tile `p` to reach its flow context; it has issued and its wait token has cleared
before cycle `c`, and it passes the checks that hold for every flow. -/
structure State.Reaches (s : State) (p c : Nat) (o : QOp) : Prop where
  next : (s.tile p).fabric.find? (fun o => !o.started) = some o
  live : (s.tile p).gesso = false
  waited : (s.tile p).mayStart o c = true
  passes : s.fopRefused p o = false

/-- The operation's mark that it has started. -/
def State.fopStarted (s : State) (p : Nat) (o : QOp) : State :=
  s.mapTile p fun t => { t with fabric := t.fabric.map fun q => if q.id = o.id then { q with started := true } else q }

/-- A flit of flow `x.flow` meets an ACTIVE bucket context of its epoch (R319, R343). -/
structure State.Blends (s : State) (x : Flit) : Prop where
  active : s.flowState x.flow = 1
  kind : s.flowKind x.flow = 1
  epoch : x.epoch = s.flowEpoch x.flow

/-- The kinds of flits with the virtual channels they travel on (R260). -/
def kindVcs : List (Nat × Nat) := [(1, 0), (2, 1), (3, 2), (4, 2), (5, 2), (6, 2), (6, 3), (7, 3), (8, 3)]

end Sys2Proof.Machine

/-- R278, R292: a write of valid 1 enables a FREE context, waits on a DRAINING one and is rejected on any other; a write of
valid 0 drains an ACTIVE one; a drain completes when nothing of the flow is queued or, at a send end, unresolved. -/
def Obligations.FlowStates : Prop :=
  ∀ (s : State) (i : Fin 16384) (v : Word) (a c : Nat), s.regsWf = true →
    let f := flowDie i
    let k := flowIdx i
    let w := setBit v 3
    -- FLOW_ENABLE
    (s.reached (w0Addr i) = true → s.flowBad i w = false → s.flowState i = 0 → w.field 4 2 = 0 →
      let u := (((s.setWord (w0Addr i) ((w &&& w0Mask) ||| 0x9#64)).setWord (w0Addr i + 8) 0).setWord (w0Addr i + 16) 0).setWord
        (w0Addr i + 24) 0
      -- a stream flow has no field of W3
      let n := (u.setFlow i { FlowSt.fresh with latch := u.roleEpoch (w.field 40 13) }).setRound i BldRound.fresh
      n.vrnFlow i = none → exec (.flowEnable i v) s = .next n) ∧
    (s.reached (w0Addr i) = true → s.flowBad i w = false → s.flowState i = 2 →
      exec (.flowEnable i v) s = .next ((s.put (F.FAB_FLOW_W0.state f k) 3).mapFlow i fun y => { y with held := some w })) ∧
    (s.reached (w0Addr i) = true → s.flowBad i w = true ∨ s.flowState i = 1 ∨ s.flowState i = 3 →
      exec (.flowEnable i v) s = .next (s.put (F.FAB_STATUS.cfg_reject f) 1)) ∧
    -- FLOW_DRAIN
    (s.reached (w0Addr i) = true → s.flowState i = 1 → (s.flow i).waiting = [] → s.flowKind i = 0 →
      exec (.flowDrain i v a c) s = .next ((((((s.reach a).mapFlow i fun y => { y with waiting := [] }).put
        (F.FAB_FLOW_W0.state f k) 2).put (F.FAB_FLOW_W0.valid f k) 0).mapFlow i fun y => { y with drainAt := a }).afterFlow a c)) ∧
    (s.reached (w0Addr i) = true → s.flowState i = 3 → exec (.flowDrain i v a c) s = .next
      (((s.put (F.FAB_FLOW_W0.state f k) 2).mapFlow i fun y => { y with held := none }).afterFlow a c)) ∧
    (s.reached (w0Addr i) = true → s.flowState i = 0 → exec (.flowDrain i v a c) s = .next
      ((s.setWord (w0Addr i) (clearBit v 3 &&& w0Mask &&& ~~~ 0x8#64)).afterFlow a c)) ∧
    -- FLOW_DRAIN_COMPLETE, of a stream flow with nothing queued and, at a send end, every flit resolved
    (s.flowState i = 2 → s.flowQueued i = false → s.flowSent i = s.flowResolved i ∨ s.flowSends i = false → s.flowKind i = 0 →
      let u := (s.reach a).settleFlow i a c
      u.flowKind i = 0 →
      exec (.flowDrainComplete i a c) s = .next (((((u.put (F.FAB_FLOW_W0.state f k) 0).setWord (w0Addr i + 8) 0).setWord
        (w0Addr i + 16) 0).setFlow i FlowSt.fresh).afterFlow a c))

/-- R279-R281, R301, R302: an FPUT or FSEND at its flow, which nothing waits on: on a stream flow it takes a buffer, or
waits for one; on a bucket flow it starts where no FSEND runs, and is rejected where an FSEND with end has started in the
round; one that fails R280 is rejected. A started FSEND passes the block that lies in its window and whose slot is free. -/
def Obligations.FlowOperations : Prop :=
  ∀ (s : State) (t : TileId) (p a c : Nat) (o : QOp), s.phys t.gid = some p →
    let u := (s.reach a).onTileLow p fun x => x.forToken (((x.t.fabric.find? fun o => !o.started).map (·.tw)).getD 0)
    let i := fopFlow o.desc
    let n := u.fopStarted p o
    -- FABRIC_OPERATION_START
    (u.Reaches p c o → u.flowKind i = 0 → fopZeros (o.kind == .fput) o.desc = true → (u.flow i).waiting = [] →
      (fopCont o.desc = true ∨ u.get (F.FAB_FLOW_W1.credits (flowDie i) (flowIdx i)) ≠ 0 →
        exec (.fabricOperationStart t a c) s = .next
          ((((n.mapFlow i fun w => { w with waiting := [.tile p o] }).mapFlow i fun w => { w with waiting := [] }).launch p o a
            c).serveWaiting i a c 64)) ∧
      (fopCont o.desc = false → u.get (F.FAB_FLOW_W1.credits (flowDie i) (flowIdx i)) = 0 →
        exec (.fabricOperationStart t a c) s = .next (n.mapFlow i fun w => { w with waiting := [.tile p o] }))) ∧
    (u.Reaches p c o → u.flowKind i = 1 → fsdZeros o.desc = true → (u.flow i).waiting = [] →
      let w := (n.recTouch i).mapFlow i fun w => { w with waiting := [.tile p o] }
      let w' := w.mapFlow i fun w => { w with waiting := [] }
      ((u.round i).sends ≠ [] → exec (.fabricOperationStart t a c) s = .next w) ∧
      ((u.round i).sends = [] → (u.round i).ended = true → exec (.fabricOperationStart t a c) s = .next
        ((w'.count (F.FAB_CNT_INVAL.count (flowDie i)) (fabErrc (flowDie i) 0xE) 1).fopDone p o 3 none a c))) ∧
    (u.Reaches p c o → u.flowKind i = 1 → fsdZeros o.desc = true → (u.flow i).waiting = [] →
      let w := ((n.recTouch i).mapFlow i fun w => { w with waiting := [.tile p o] }).mapFlow i fun w => { w with waiting := [] }
      (u.round i).sends = [] → (u.round i).ended = false → (u.round i).begun = true → w.fsendBad o i = false →
      fsdEmpty o.desc = false → exec (.fabricOperationStart t a c) s = .next (w.mapRound i fun r => { r with
        lastBlk := some (fsdFirst o.desc + fsdCount o.desc - 1), nsent := r.nsent + fsdCount o.desc, ended := fsdEnd o.desc,
        sends := [BldSend.mk p o a 0 false] })) ∧
    ((u.tile p).fabric.find? (fun o => !o.started) = some o → (u.tile p).gesso = false → (u.tile p).mayStart o c = true →
      u.fopRefused p o = true → exec (.fabricOperationStart t a c) s = .next
        ((u.count (F.FAB_CNT_INVAL.count (flowDie i)) (fabErrc (flowDie i) 0xE) 1).fopDone p o 3 none a c)) ∧
    -- BUCKET_BLOCK_PASS, of a block that is not its FSEND's last
    (∀ (j : Fin 16384) (g : BldSend) (l : List BldSend),
      let r := s.reach a
      let v := r.recTouch j
      let b := fsdFirst g.op.desc + g.passed
      let who := g.op.who (v.flowTile j)
      let h := v.edgeRead g.tile c who (v.hdrAt j (v.parity j) b) 2
      let d := h.2.edgeRead g.tile c who (fopSrc g.op.desc + 768 * g.passed) 768
      (r.round j).sends = g :: l → b < r.frontier j + r.window j → r.slotBusy j b = false → (r.tile g.tile).phase c = false →
      g.passed + 1 ≠ fsdCount g.op.desc →
      exec (.bucketBlockPass j a c) s = .next ((d.2.mapRound j fun r => { r with sends := { g with
        passed := g.passed + 1, viol := g.viol || h.1.viol || d.1.viol } :: l }).addBlock j 0 b (h.1.v % 256)
          (h.1.v / 256 % 2 == 1) (h.1.v / 256 / 2 % 2 == 1) (blockOf false d.1.v)))

/-- R281-R283, R343: the flits of a stream flow and its timers. -/
def Obligations.FlowFlits : Prop :=
  ∀ (s w : State) (x : Flit) (a c : Nat),
    let u := w.reach a
    let i := x.flow
    let f := flowDie i
    let k := flowIdx i
    let have_ := u.get (F.FAB_FLOW_W1.credits f k)
    -- CREDIT: a window is granted to a flow that holds nothing, or more buffers of the window that it holds
    ((s.pop fun x => x.kind == 3) = some (x, w) → u.flowState i = 1 → u.flowSends i = true → x.epoch = u.flowEpoch i →
      have_ + x.bytes 2 1 ≤ 64 →
      (have_ = 0 → u.get (F.FAB_FLOW_W1.cur_v f k) = 0 →
        let v := ((((u.put (F.FAB_FLOW_W1.next_buf f k) (x.f 83 6)).put (F.FAB_FLOW_W1.nbuf_m1 f k) (x.f 101 6)).put
          (F.FAB_FLOW_W1.buf_rows_m1 f k) (x.f 89 12)).put (F.FAB_FLOW_W1.win_base f k) (x.bytes 0 2)).mapFlow i
            fun w => { w with rtile := x.f 68 13 }
        (v.flow i).waiting = [] → exec (.credit a c) s = .next (v.put (F.FAB_FLOW_W1.credits f k) (x.bytes 2 1))) ∧
      (have_ ≠ 0 → (u.flow i).waiting = [] → u.get (F.FAB_FLOW_W1.nbuf_m1 f k) = x.f 101 6 → u.get (F.FAB_FLOW_W1.buf_rows_m1 f k) = x.f 89 12 →
        u.get (F.FAB_FLOW_W1.win_base f k) = x.bytes 0 2 →
        (u.get (F.FAB_FLOW_W1.next_buf f k) + have_) % (x.f 101 6 + 1) = x.f 83 6 →
        exec (.credit a c) s = .next (u.put (F.FAB_FLOW_W1.credits f k) (have_ + x.bytes 2 1)))) ∧
    -- WRITE: it waits at its fabric port for the end of the tile's exchange phase, or is taken by the edge port
    (∀ p : Nat, (s.pop fun x => x.kind == 1 && !s.edgeFull x c) = some (x, w) → u.flowState i = 1 → u.flowRecvs i = true →
      x.epoch = u.flowEpoch i → u.vrnFlow i = none →
      (x.f 68 13 = u.flowTile i → (u.flow i).latch = u.roleEpoch (x.f 68 13)) → u.phys (x.f 68 13) = some p →
      (u.atEdge p c = true → exec (.write a c) s = .next
        { u with fab := { u.fab with edge := u.fab.edge ++ [(p, c, EdgeJob.write x)] } }) ∧
      (u.atEdge p c = false →
        let d := u.toDie (physDie p) i x.vc
        let n := 16 * (x.f 98 3 + 1)
        let r := (d.view p).rxWrite c i x.epoch (16 * x.f 81 17) n (x.bytes 0 n)
          ((List.range (x.f 98 3 + 1)).map fun k => (x.f 101 8).testBit k)
        let v := d.onTile p fun _ => r.2
        (r.1 = .accepted → exec (.write a c) s = .next (v.resolveAt x a)) ∧
        (r.1 = .noCredit → exec (.write a c) s = .next ((v.refuse x (x.f 68 13) (x.f 81 17) 1).resolveAt x a)) ∧
        (r.1 = .epoch → exec (.write a c) s = .next (((v.epochIn x).refuse x (x.f 68 13) (x.f 81 17) 2).resolveAt x a)) ∧
        (r.1 = .violation → exec (.write a c) s = .next ((v.refuse x (x.f 68 13) (x.f 81 17) 3).resolveAt x a)) ∧
        (r.1 = .gesso → exec (.write a c) s = .next v))) ∧
    -- ACK
    ((s.pop fun x => x.kind == 4) = some (x, w) → x.epoch = u.flowEpoch i → u.flowState i ≠ 0 →
      exec (.ack a c) s = .next ((State.settleFlow (if reached (x.f 68 24) (u.flowResolved i) = true then
        u.put (F.FAB_FLOW_W2.resolved f k) (x.f 68 24) else u) i a c).afterFlow a c)) ∧
    -- NACK, of a stream flow
    ((s.pop fun x => x.kind == 5) = some (x, w) → x.epoch = u.flowEpoch i → u.flowState i ≠ 0 → u.flowKind i ≠ 2 →
      let mark (n : State) := n.mapFlow i fun w => { w with ops := markNack (x.f 68 13) (16 * x.f 81 17) w.ops }
      (x.f 98 4 = 1 → exec (.nack a c) s = .next ((mark (u.count (F.FAB_CNT_CREDIT.count f) (fabErrc f 9) 1)).afterFlow a c)) ∧
      (x.f 98 4 = 2 → exec (.nack a c) s = .next ((mark (u.count (F.FAB_CNT_EPOCH.count f) (fabErrc f 0xA) 1)).afterFlow a c)) ∧
      (2 < x.f 98 4 → exec (.nack a c) s = .next ((mark (u.count (F.FAB_CNT_NACK.count f) (fabErrc f 0xC) 1)).afterFlow a c))) ∧
    -- ACK_TIMER
    (∀ (j : Fin 16384) (b : Nat), (s.flow j).oldest = some b → b + 2500 ≤ a →
      let r := s.reach a
      exec (.ackTimer j a) s = .next ((r.mapFlow j fun w => { w with unrep := 0, oldest := none }).inject (flowDie j)
        (r.ackFlit j (r.flowResolved j)))) ∧
    -- FLOW_TIMEOUT, of a flow's only operation
    (∀ (j : Fin 16384) (o : FlowOp) (b : Nat), (s.flow j).ops = [o] → (s.flow j).sigs = [] → o.leftAt = some b →
      b + s.get (F.FAB_CTL.flow_to (flowDie j)) ≤ a →
      let r := s.reach a
      exec (.flowTimeout j a c) s = .next (((((r.setFlow j { s.flow j with ops := [], sigs := [] }).loseFlow j).opDone o 3 a
        c).settleFlow j a c).afterFlow a c))

/-- R260-R262, R271, R276: what a router does with a flit that has passed the checks of its port: one whose kind does not
travel on its VC is a header error, one at its thirty-first hop for another module is dropped, and any other goes by the
first route that applies; one for this module that comes to the die where it is not resolved crosses the spine. A flit that
is dropped frees its buffer. -/
def Sys2Proof.Machine.RouterRules : Prop :=
  ∀ (s : State) (f : Fin 2) (p : Nat) (x : Flit),
    ((x.kind, x.vc) ∉ kindVcs →
      s.accept f p x = (s.count (F.FAB_CNT_HDR.count f) (fabErrc f 5) 1).freeBuf f (some p) x.vc) ∧
    ((x.kind, x.vc) ∈ kindVcs → x.hops = 31 → x.bc = false → x.dst ≠ s.node →
      s.accept f p x = (s.count (F.FAB_CNT_TTL.count f) (fabErrc f 7) 1).freeBuf f (some p) x.vc) ∧
    ((x.kind, x.vc) ∈ kindVcs → x.hops ≠ 31 ∨ x.bc = true ∨ x.dst = s.node → (x.kind = 1 ∨ x.kind = 3 → gidRow (x.f 68 13) < 48) →
      s.accept f p x = s.dispatchFlit f (some p) (x.set 62 5 (min 31 (x.hops + 1)))) ∧
    (x.bc = false → x.dst = s.node → x.home = f → s.dispatchFlit f (some p) x = if x.unlisted = true then
      (s.count (F.FAB_CNT_HDR.count x.home) (fabErrc x.home 5) 1).freeBuf x.home (some p) x.vc
      else { s with fab := { s.fab with inbox := s.fab.inbox ++ [(x.home, some p, x)] } }) ∧
    (x.bc = false → x.dst = s.node → x.home ≠ f → s.dispatchFlit f (some p) x =
      s.mapPort f (spinePort x.flow) fun q => { q with out := q.out ++ [(some p, x)] }) ∧
    (x.bc = false → x.dst ≠ s.node → x.f 6 1 = 0 → s.get (F.FAB_ROUTE.valid f x.dst) = 0 →
      s.dispatchFlit f (some p) x = (s.count (F.FAB_CNT_ROUTE.count f) (fabErrc f 6) 1).freeBuf f (some p) x.vc) ∧
    (x.bc = false → x.dst ≠ s.node → x.f 6 1 = 0 → s.get (F.FAB_ROUTE.valid f x.dst) = 1 → x.vc ≠ 0 →
      let q := s.get (F.FAB_ROUTE.primary f x.dst)
      (s.get (F.FAB_PORTSEL.fail f)).testBit q = false → isOptical q = true →
      s.portState f q = PortState.up →
      s.dispatchFlit f (some p) x = (s.fabEvent f 0x07 1).mapPort f q
        fun y => { y with out := y.out ++ [(some p, x)] }) ∧
    (x.bc = false → x.dst ≠ s.node → x.f 6 1 = 1 → x.bytes 120 8 / 2 ^ 60 ≤ x.hops →
      s.dispatchFlit f (some p) x = (s.count (F.FAB_CNT_ROUTE.count f) (fabErrc f 6) 1).freeBuf f (some p) x.vc)

/-- R258, R263-R268, R287: flits and link control flits received at a port of a link, and the slots of an output port. -/
def Sys2Proof.Machine.PortFlits : Prop :=
  ∀ (s : State) (f : Fin 2) (a : Nat),
    -- FLIT_RECEIVE, at an optical port in UP: the expected flit, good or bad, and one of another number
    (∀ (p : Fin 24) (num : BitVec 24) (cw : Codewords) (h : BitVec 128) (d : BitVec 1024),
      let q := s.port f p
      let x : Flit := ⟨h, d⟩
      let u := match cw with
        | .clean => s
        | .corrected => s.count (F.FAB_PORT_CNT_FECC.count f p) (fabErrc f 0) 1
        | .uncorrectable => s.count (F.FAB_PORT_CNT_FECU.count f p) (fabErrc f 1) 1
      isOptical p = true → s.portState f p = PortState.up →
      (num.toNat = q.rxGood → cw ≠ .uncorrectable → headerCrc h = x.f 112 16 → exec (.flitReceive f p num cw h d) s = .next
        ((((u.setPort f p { q with rxGood := (q.rxGood + 1) % 2 ^ 24, discarding := false }).add
          (F.FAB_PORT_CNT_RX.count f p) 1).fabEvent f 0x06 1).accept f p x)) ∧
      (num.toNat = q.rxGood → cw = .uncorrectable ∨ headerCrc h ≠ x.f 112 16 → exec (.flitReceive f p num cw h d) s = .next
        (u.setPort f p { q with discarding := true, askReplay := true })) ∧
      (num.toNat ≠ q.rxGood → exec (.flitReceive f p num cw h d) s = .next u)) ∧
    -- OUTPUT_SLOT: a replay request due, a framing LCF, a flit sent again, a new flit, and an idle slot
    (∀ p : Fin 24,
      let u := ((s.reach a).schedule f 0 a).schedule f 1 a
      let m := u.portMode f p
      let q := u.port f p
      let due := isOptical p && (decide (q.slot = 256) || q.moved)
      let step : Port :=
        { q with slot := if q.slot = 256 then 0 else q.slot + 1, moved := false, slotAt := a, vc3Gap := min 16 (q.vc3Gap + 1) }
      let again := (q.replay.drop (q.replay.length - q.resend)).head?
      u.portState f p = PortState.up → q.head m 3 = none → q.starved p m = false →
      (isOptical p = true → q.askReplay = true → exec (.outputSlot f p a) s = .next (u.setPort f p
        { step with askReplay := false, last := q.lcf due 3 })) ∧
      (q.askReplay = false → due = true → exec (.outputSlot f p a) s = .next (u.setPort f p
        { step with askReplay := false, last := q.lcf true 0 })) ∧
      (∀ x, q.askReplay = false → due = false → again = some x → exec (.outputSlot f p a) s = .next ((u.setPort f p
        { step with resend := q.resend - 1, last := .flit x }).fabEvent f (2 + x.vc) 1)) ∧
      (∀ x, q.askReplay = false → due = false → again = none → q.normal p m = some x →
        exec (.outputSlot f p a) s = .next ((u.setPort f p step).sendOut f p x)) ∧
      (q.askReplay = false → due = false → again = none → q.normal p m = none →
        (isOptical p = true → exec (.outputSlot f p a) s = .next ((u.setPort f p
          { step with askReplay := false, last := q.lcf false 0 }).fabEvent f 0x08 1)) ∧
        (isOptical p = false → exec (.outputSlot f p a) s = .next (u.setPort f p { step with last := .none })))) ∧
    -- OUTPUT_SLOT of a link with nothing to send, on a die whose flows have no flit ready
    (∀ p : Fin 16, s.portState f p = PortState.up → (∀ y ∈ s.fab.sched, flowDie y.1 ≠ f) →
      let q := s.port f p
      q.out = [] → q.resend = 0 → q.askReplay = false → q.slot < 256 → q.moved = false →
      exec (.outputSlot f (p.castLE (by decide)) a) s = .next (((s.reach a).setPort f p
        { q with slot := q.slot + 1, moved := false, slotAt := a, vc3Gap := min 16 (q.vc3Gap + 1), askReplay := false, last := q.lcf false 0 }).fabEvent
          f 0x08 1)) ∧
    -- the link control flits
    (∀ (p : Fin 16) (x : BitVec 1152),
      let good := Lcf.good x = true
      let heard := (((s.port f p).acked (Lcf.ack x)).credited (Lcf.cred x)).watchDry p s.now
      (good → Lcf.type x = 0 → exec (.lcfNormal f p x) s = .next (s.setPort f p heard)) ∧
      (good → Lcf.type x = 3 →
        let n := if heard.reqCount ≠ 0 ∧ heard.reqNum = Lcf.ack x then heard.reqCount + 1 else 1
        let v := ((s.setPort f p { heard with resend := heard.replay.length, reqNum := Lcf.ack x, reqCount := n }).count
          (F.FAB_PORT_CNT_RETRY.count f p) (fabErrc f 2) 1).fabEvent f 0x0A 1
        (n < 8 → exec (.replayRequest f p a x) s = .next v) ∧
        (8 ≤ n → exec (.replayRequest f p a x) s = .next (v.retrain f p a 0))) ∧
      (good → Lcf.type x = 1 → s.portState f p = PortState.ident → Lcf.byte x 16 2 % 2 ^ 14 ≠ s.node →
        let u : State := { s with free := s.free + 1 }
        exec (.ident f p a x) s = .next (((((((u.put (F.FAB_PORT_PEER.node f p) (Lcf.byte x 16 2 % 2 ^ 14)).put
          (F.FAB_PORT_PEER.port f p) (Lcf.byte x 18 1)).put (F.FAB_PORT_PEER.peer_spare f p) (Lcf.byte x 19 1 % 2)).put
          (F.FAB_PORT_PEER.valid f p) 1).put (F.FAB_PORT_STATUS.rtt f p) (Config.freeValue s.free).toNat).portTo f p
            PortState.credit a).mapPort f p fun q => { q with last := q.linkUp.lcf false 2 })) ∧
      (good → Lcf.type x = 1 → s.portState f p = PortState.ident → Lcf.byte x 16 2 % 2 ^ 14 = s.node →
        exec (.ident f p a x) s = .next ((s.portTo f p PortState.signal a).put (F.FAB_PORT_STATUS.attempts f p)
          (min 255 (s.get (F.FAB_PORT_STATUS.attempts f p) + 1)))) ∧
      (good → Lcf.type x = 2 → s.portState f p = PortState.credit →
        let v := (s.portTo f p PortState.up a).mapPort f p Port.linkUp
        exec (.creditInit f p a x) s = .next (v.startClaims a) ∧ (s.tick.trained = true → v.startClaims a = v)))

/-- R258, R260-R268, R271, R276, R287: flits and link control flits at a port, and the router behind it. -/
def Obligations.LinkFlits : Prop := Sys2Proof.Machine.RouterRules ∧ Sys2Proof.Machine.PortFlits

/-- R259, R286-R289: the states of an optical port, and the laser inputs. -/
def Obligations.PortStates : Prop :=
  ∀ (s : State) (f : Fin 2) (p : Fin 16) (k : Fin 2) (pwr : BitVec 16) (a : Nat),
    -- FAB_PORT_ENABLE and FAB_PORT_DISABLE
    (s.reached (F.FAB_PORT_CTL.enable f p).addr = true →
      let u := State.put (if s.get (F.FAB_PORT_CTL.enable f p) = 0 then s.put (F.FAB_PORT_STATUS.attempts f p) 0 else s)
        (F.FAB_PORT_CTL.enable f p) 1
      (u.portState f p = PortState.off → u.laserLit f = true → (u.port f p).darkAt + fcMs 10 ≤ a →
        exec (.fabPortEnable f p a) s = .next ((u.portTo f p PortState.signal a).mapPort f p
          fun q => { q with lit := true, drained := false })) ∧
      (u.portState f p = PortState.off → a < (u.port f p).darkAt + fcMs 10 →
        exec (.fabPortEnable f p a) s = .next ((u.portTo f p PortState.pendingEnable a).mapPort f p
          fun q => { q with drained := true })) ∧
      (u.portState f p = PortState.draining → exec (.fabPortEnable f p a) s = .next
        ((u.put (F.FAB_PORT_STATUS.state f p) PortState.pendingEnable).mapPort f p fun q => { q with drained := false })) ∧
      (u.portState f p = PortState.off → u.laserLit f = false → (u.port f p).darkAt + fcMs 10 ≤ a →
        exec (.fabPortEnable f p a) s = .next u) ∧
      (u.portState f p = PortState.up → exec (.fabPortEnable f p a) s = .next u)) ∧
    (s.reached (F.FAB_PORT_CTL.enable f p).addr = true →
      let u := s.put (F.FAB_PORT_CTL.enable f p) 0
      (u.portState f p = PortState.up → exec (.fabPortDisable f p a) s = .next (State.portTo
        (if u.get (F.FAB_CTL.auto_fail f) = 1 then u.put (F.FAB_PORTSEL.fail f) (u.get (F.FAB_PORTSEL.fail f) ||| 2 ^ p.val) else u)
          f p PortState.draining a)) ∧
      (u.portState f p = PortState.pendingEnable → exec (.fabPortDisable f p a) s = .next
        (u.put (F.FAB_PORT_STATUS.state f p) (if (u.port f p).drained = true then PortState.off else PortState.draining)))) ∧
    -- training
    (s.portState f p = PortState.signal → exec (.trainingPatternDetected f p a) s = .next
      ((s.portTo f p PortState.equalize a).put (F.FAB_PORT_STATUS.lanes f p) 0xFF)) ∧
    (s.portState f p = PortState.equalize → exec (.equalizeComplete f p a) s = .next (s.portTo f p PortState.lock a)) ∧
    (s.portState f p = PortState.lock → s.get (F.FAB_NODE.valid 0) = 1 → exec (.lockFound f p a) s = .next
      ((s.portTo f p PortState.ident a).mapPort f p fun q =>
        { q with stamp := a % 2 ^ 32, last := q.linkUp.lcf false 1 (s.identBody f p (a % 2 ^ 32)) })) ∧
    (∀ l, [(PortState.signal, fcMs 1000), (PortState.equalize, fcMs 2000), (PortState.lock, fcMs 100),
        (PortState.ident, fcMs 100)].lookup (s.portState f p) = some l → (s.port f p).since + l ≤ a →
      let u := s.portTo f p PortState.signal a
      exec (.trainingTimeout f p a) s = .next (u.put (F.FAB_PORT_STATUS.attempts f p)
        (min 255 (s.get (F.FAB_PORT_STATUS.attempts f p) + 1)))) ∧
    -- RETRAIN and RETRAIN_ATTEMPT_END
    (∀ dark : BitVec 8, s.portState f p = PortState.up →
      let u := s.put (F.FAB_PORT_STATUS.lanes f p) (s.get (F.FAB_PORT_STATUS.lanes f p) &&& (255 - dark.toNat))
      exec (.retrain f p ⟨a, dark⟩) s = .next
        (((u.portTo f p PortState.retrain a).mapPort f p fun q => { q with tries := 0 }).leaveUp f p)) ∧
    (s.portState f p = PortState.retrain →
      exec (.retrainAttemptEnd f p a true) s = .next
        (((s.portTo f p PortState.up a).put (F.FAB_PORT_STATUS.lanes f p) 0xFF).mapPort f p Port.linkUp) ∧
      ((s.port f p).tries < 2 → exec (.retrainAttemptEnd f p a false) s = .next
        (s.mapPort f p fun q => { q with tries := q.tries + 1 })) ∧
      (2 ≤ (s.port f p).tries → exec (.retrainAttemptEnd f p a false) s = .next
        ((s.portTo f p PortState.signal a).count (F.FAB_PORT_CNT_DOWN.count f p) (fabErrc f 3) 1))) ∧
    -- PORT_DRAIN_COMPLETE and DARK_TIMER_EXPIRY
    ((s.port f p).out = [] ∧ (s.port f p).replay = [] ∨ (s.port f p).since + fcMs 1 ≤ a →
      let q := s.port f p
      let u := q.out.foldl (fun s x => s.freeBuf f x.1 x.2.vc)
        (s.count (F.FAB_CNT_LOST.count f) (fabErrc f 0xD) (q.out.length + q.replay.length))
      let v := ((u.mapPort f p fun q => { q with out := [], replay := [], resend := 0, inflight := [], drained := true }).darken
        f p a).put (F.FAB_PORT_STATUS.lanes f p) 0
      (s.portState f p = PortState.draining → exec (.portDrainComplete f p a) s = .next (v.portTo f p PortState.off a)) ∧
      (s.portState f p = PortState.pendingEnable → q.drained = false → exec (.portDrainComplete f p a) s = .next v)) ∧
    (s.portState f p = PortState.pendingEnable → (s.port f p).drained = true → s.laserLit f = true →
      (s.port f p).darkAt + fcMs 10 ≤ a → exec (.darkTimerExpiry f p a) s = .next
        ((s.portTo f p PortState.signal a).mapPort f p fun q => { q with lit := true, drained := false })) ∧
    -- LASER_INPUT_DARK, the other input lit; LASER_INPUT_LIT, no port waiting for light
    (let u := ((((s.put (laserOk f k) 0).put (laserPwr f k) pwr.toNat).put (F.FAB_LASER.degraded f) 1).count
        (F.FAB_CNT_LASER.count f) (fabErrc f 0xF) 1).showLaser f
     u.laserLit f = true → exec (.laserInputDark f k pwr a) s = .next u) ∧
    (let u := ((s.put (laserOk f k) 1).put (laserPwr f k) pwr.toNat).showLaser f
     (∀ p < 16, u.portState f p ≠ PortState.off ∧ u.portState f p ≠ PortState.pendingEnable) →
      exec (.laserInputLit f k pwr a) s = .next u) ∧
    -- BUNDLE_GROUP_FAILURE of bridge `b`: the module has failed; the requests count at the fabric die that ends the bridge
    (exec (.bundleGroupFailure 0) s = .next ((s.errc (fabErrc 0 0x19) 8).sendFail (fabErrc 0 0x19)) ∧
      exec (.bundleGroupFailure 4) s = .next ((s.errc (fabErrc 1 0x19) 8).sendFail (fabErrc 1 0x19)) ∧
      -- of the bridges between compute dies no counter is given: the cause that FAIL names is the model's choice (log 114)
      ∀ b : Fin 5, b ≠ 0 → b ≠ 4 →
        exec (.bundleGroupFailure b) s = .next (s.sendFail (fabErrc (if b.val ≤ 2 then 0 else 1) 0x19)))

/-- R299: the next exponent of a block: it rises by one, to at most 254, when the sum saturated; it holds with a value that
is not finite; and it falls by one after eight rounds whose values all fit half the range. -/
def Sys2Proof.Machine.NextExponent : Prop :=
  ∀ (e q m : Nat) (nonfin : Bool),
    nextExp e q true nonfin m = (min (e + 1) 254, 0, true, false) ∧
    nextExp e q false true m = (e, q, false, false) ∧
    (2 ^ 21 ≤ m → nextExp e q false false m = (e, 0, false, false)) ∧
    (m < 2 ^ 21 → q ≠ 7 → nextExp e q false false m = (e, q + 1, false, false)) ∧
    (m < 2 ^ 21 → q = 7 → nextExp e q false false m = (e - 1, 0, false, decide (0 < e)))

/-- R303-R314, R322: the BLEND flits of a bucket, its emissions, its rounds and the register access to the store. -/
def Sys2Proof.Machine.BucketRounds : Prop :=
  ∀ (s w : State) (x : Flit) (j : Fin 16384) (a c k : Nat),
    let v := w.reach a
    let i := x.flow
    let u := v.recTouch i
    let n := if x.blkWide then 12 else 6
    -- BLEND_PART: one of a block's parts, and its last
    ((s.pop fun x => x.kind == 2 && !x.dn && x.part != 14 && !s.blendHeld x) = some (x, w) → v.Blends x →
      u.childOf i x.src = some k →
      let y := (u.round i).src (k + 1)
      x.part < n → x.blk < u.nblk i → y.upto ≤ x.blk → x.blk < y.grant + u.window i →
      (∀ b, y.cur = some b → b ≤ x.blk ∧ (b = x.blk → y.parts.testBit x.part = false)) →
      let z := if y.cur = some x.blk then y else { y with cur := some x.blk, parts := 0, bytes := 0 }
      let z' := { z with parts := z.parts + 2 ^ x.part, bytes := z.bytes + x.bytes 0 128 * 256 ^ (128 * x.part) }
      let d := (u.fabEvent (flowDie i) 0x0B 1).mapRound i fun r => r.setSrc (k + 1) z'
      (z'.parts ≠ allParts x.blkWide → exec (.blendPart a) s = .next d) ∧
      (z'.parts = allParts x.blkWide → exec (.blendPart a) s = .next
        (d.addBlock i (k + 1) x.blk x.blkE x.blkSat x.blkNonfin (blockOf x.blkWide z'.bytes)))) ∧
    -- BLEND_END
    ((s.pop fun x => x.kind == 2 && !x.dn && x.part == 14 && !s.blendHeld x) = some (x, w) → v.Blends x →
      u.childOf i x.src = some k → x.blk < u.nblk i → exec (.blendEnd a) s = .next (u.deliveredTo i (k + 1) (u.nblk i))) ∧
    -- a part or an END from a node that is no child of the bucket: the blocks not yet complete are poison
    ((s.pop fun x => x.kind == 2 && !x.dn && x.part == 14 && !s.blendHeld x) = some (x, w) → v.Blends x →
      u.childOf i x.src = none →
      exec (.blendEnd a) s = .next ((u.count (F.BLD_CNT_PROTO.count (flowDie i)) (fabErrc (flowDie i) 0x13) 1).mapRound i
        fun r => { r with broken := some (r.broken.getD (u.frontier i)) })) ∧
    -- ADVANCE
    ((s.pop fun x => x.kind == 2 && x.dn && x.part == 15) = some (x, w) → v.Blends x → u.isRoot i = false →
      x.src = u.flowPeer i → x.blk < u.nblk i →
      let d := u.mapRound i fun r => { r with grantUp := max r.grantUp (x.blk + 1) }
      ((u.round i).sends = [] → exec (.advance ⟨a, c⟩) s = .next d) ∧
      ∀ g l, (u.round i).sends = g :: l →
        let b := fsdFirst g.op.desc + g.passed
        (d.slotBusy i b = false → exec (.advance ⟨a, c⟩) s = .next d) ∧
        (d.slotBusy i b = true → exec (.advance ⟨a, c⟩) s = .next (((List.range (d.window i)).foldl
          (fun s _ => if s.slotBusy i b = true then s.partialEmit i a else s) d).blockPass i a c))) ∧
    -- BLEND_RESULT: the END, a part that does not complete its block, and one of a block that is complete
    ((s.pop fun x => x.kind == 2 && x.dn && x.part != 15) = some (x, w) → s.tileFree i c = true → v.Blends x →
      u.isRoot i = false → x.src = u.flowPeer i → x.blk < u.nblk i →
      (x.part = 14 → exec (.blendResult a c) s = .next ((u.toChildren i { blk := x.blk, part := 14, dn := true } 0).mapRound i
        fun r => { r.nodeReset with endDown := true })) ∧
      (x.part < n →
        let d := u.toChildren i { blk := x.blk, part := x.part, e := x.blkE, sat := x.blkSat, nonfin := x.blkNonfin, wide := x.blkWide, dn := true, eNext := x.eNext } (x.bytes 0 128)
        let q : BldRes := { blk := x.blk, parts := 2 ^ x.part, bytes := x.bytes 0 128 * 256 ^ (128 * x.part), wide := x.blkWide, e := x.blkE, sat := x.blkSat, nonfin := x.blkNonfin, eNext := if x.part = 0 then x.eNext else 0 }
        (u.round i).res = none → (u.round i).resUpto ≤ x.blk →
        exec (.blendResult a c) s = .next (d.mapRound i fun r => { r with res := some q })) ∧
      (x.part ≠ 14 → (u.round i).res = none → x.blk < (u.round i).resUpto →
        exec (.blendResult a c) s = .next ((u.count (F.BLD_CNT_PROTO.count (flowDie i)) (fabErrc (flowDie i) 0x13) 1).mapRound i
          fun r => { r with broken := some (r.broken.getD (u.frontier i)) }))) ∧
    -- PARTIAL_EMIT and ROOT_BLOCK_COMPLETE
    (∀ (b : Nat) (h : BldBlk),
      let r := s.reach a
      let t := (r.recTouch j).takeBlock j b
      r.flowState j = 1 → r.flowKind j = 1 → r.nextBlk j = some (b, h) →
      (r.isRoot j = false → b < (r.round j).grantUp + r.window j →
        let wide := !travelsNarrow t.1
        exec (.partialEmit j a) s = .next (State.tryEnd (State.schedAdd
          (if wide = true then t.2.add (F.BLD_CNT_WIDE.count (flowDie j)) 1 else t.2) j
          (State.blockFlits (if wide = true then t.2.add (F.BLD_CNT_WIDE.count (flowDie j)) 1 else t.2) j
            (State.flowPeer (if wide = true then t.2.add (F.BLD_CNT_WIDE.count (flowDie j)) 1 else t.2) j)
            { blk := b, part := 0, e := h.e, sat := h.sat, nonfin := h.nonfin || t.1.any isPoison, wide := wide }
            (blockBytes wide t.1))) j)) ∧
      (r.isRoot j = true → r.tileFree j c = true → h.sat = false → h.nonfin = false → t.1.any isPoison = false →
        t.1.all inNarrow = true →
        let f := flowDie j
        let g := t.2.bldTouchAll f (t.2.etabAt j b) 2 none
        let e := g.bldGet f (g.etabAt j b) 1
        let m := t.1.foldl (fun m v => max m v.natAbs) 0
        2 ^ 21 ≤ m →
        let g2 := g.bldPut f (g.etabAt j b) 2 (e + 256 * 0)
        let g3 := (List.range (g2.nchild j)).foldl (fun s n => s.schedAdd j (s.blockFlits j (s.child j n)
          { blk := b, part := 0, e := e, wide := false, dn := true, eNext := e } (blockBytes false t.1))) g2
        exec (.rootBlockComplete j a c) s = .next (((g3.mapRound j fun r => { r with nan := r.nan + 0, flags := r.flags + 0 }).memberResult
          j c b e false false e t.1).tryEnd j))) ∧
    -- ROUND_COMPLETE
    (let r := s.reach a
     let y := r.recTouch j
     let v := (y.walkTo j c (y.nblk j) (y.nblk j)).closeRound j
     r.flowState j = 1 → r.flowKind j = 1 → (r.round j).endDown = true → r.tileFree j c = true →
      v.get (F.FAB_FLOW_W3.sig_en (flowDie j) (flowIdx j)) = 0 → (v.flow j).waiting = [] →
      exec (.roundComplete j a c) s = .next v) ∧
    -- BLD_ACC_READ and BLD_ACC_WRITE
    (∀ f : Fin 2, s.reached (F.BLD_ACC_CMD.read f).addr = true →
      let line := s.get (F.BLD_ACC_ADDR.line f)
      exec (.bldAccRead f) s = .next ((List.range 8).foldl (fun s j => s.put (F.BLD_ACC_DATA.data f j)
        (s.bldGet f (64 * line + 8 * j) 8)) (s.bldLine f line)) ∧
      ((∀ i ∈ s.liveFlows, flowDie i ≠ f ∨ s.flowKind i ≠ 1 ∨ s.recLine i ≠ line) → exec (.bldAccWrite f) s = .next
        ((List.range 8).foldl (fun s j => s.bldPut f (64 * line + 8 * j) 8 (s.get (F.BLD_ACC_DATA.data f j)))
          { s with bld := { s.bld with err := SMap.clear s.bld.err (bldKey f (64 * line) / 16) (bldKey f (64 * line) / 16 + 4) } })))

/-- R299, R303-R314, R322: the next exponent, and the rounds of a bucket. -/
def Obligations.BlendRounds : Prop := Sys2Proof.Machine.NextExponent ∧ Sys2Proof.Machine.BucketRounds

/-! The host interface and Easel (R14-R19, R463, R470-R504). -/

namespace Sys2Proof.Machine

/-- A command that Easel takes by the mailbox or by the management bus (R486-R490): it is checked and run, and its status
and response stand where it came from. A MODULE_RESET answered with OK then resets the module. -/
def EaselAnswers (mk : EasReq → Nat → Instr) (code : Nat) : Prop :=
  ∀ (s : State) (a : Nat), s.easUp a = true →
    (∀ (tag crc : Byte) (p : List Byte), p.length ≤ 255 →
      let bytes := p.map BitVec.toNat
      let run := s.easChecked code p.length bytes
      (crc8 ([code, p.length, tag.toNat] ++ bytes) = crc.toNat → exec (mk (.bus tag p crc) a) s =
        .next (((run.1.countStatus run.2.1).busAnswer run.2.1 tag.toNat run.2.2).thenReset code run.2.1 a)) ∧
      (crc8 ([code, p.length, tag.toNat] ++ bytes) ≠ crc.toNat → exec (mk (.bus tag p crc) a) s =
        .next (((s.countStatus EasStatus.crc).busAnswer EasStatus.crc tag.toNat []).thenReset code EasStatus.crc a))) ∧
    (∀ len tag : Nat, s.eas.mail = some (code, len, tag) →
      let run := s.easChecked code len (s.mailPayload (min len 132))
      exec (mk .mailbox a) s =
        .next (((run.1.countStatus run.2.1).mailAnswer run.2.1 tag run.2.2).thenReset code run.2.1 a))

end Sys2Proof.Machine

/-- R14, R19, R463, R470, R498: what a host read returns and clears, the performance block's commands, and an access through
the debug aperture. -/
def Obligations.HostReads : Prop :=
  ∀ (s : State) (at_ c : Nat), s.regsWf = true →
    -- RC_READ: 8 bytes of a register of the PF
    (∀ (b : BitVec 26) (r : RegDesc), s.reached b.toNat = true → b.toNat % 8 = 0 → regFind moduleRegs b.toNat = some r →
      evenCounter b.toNat = none →
      exec (.rcRead 0 b 8 at_) s = .next (State.answer (if r.rc = 0 then s
        else s.setWord b.toNat (s.word b.toNat &&& ~~~ BitVec.ofNat 64 r.rc)) (s.regView b.toNat at_).toNat false)) ∧
    (∀ (v : Fin 64) (b : BitVec 26), s.get (F.HCTX_STATUS.state v) ≠ 1 →
      exec (.rcRead v.succ b 8 at_) s = .next ((s.errc 3 1).answer 0 false)) ∧
    -- EVEN_COUNTER_READ
    (∀ (d : Fin 4) (j : Fin 32), s.reached (F.DPC_CNT.count d (2 * j)).addr = true →
      exec (.evenCounterRead (.die d j) at_) s = .next ((s.put (F.DPC_HOLD.hold d) (s.get (F.DPC_CNT.count d (2 * j + 1)))).answer
        (s.word (F.DPC_CNT.count d (2 * j)).addr).toNat false)) ∧
    (∀ (f : Fin 2) (j : Fin 32), s.reached (F.FPC_CNT.count f (2 * j)).addr = true →
      exec (.evenCounterRead (.fabric f j) at_) s = .next ((s.put (F.FPC_HOLD.hold f) (s.get (F.FPC_CNT.count f (2 * j + 1)))).answer
        (s.word (F.FPC_CNT.count f (2 * j)).addr).toNat false)) ∧
    (∀ (t : TileId) (j : Fin 4) (p : Nat), s.phys t.gid = some p →
      exec (.evenCounterRead (.tile t j) at_) s = .next ((s.setTile p ((s.tile p).put TF.TPC_HOLD.hold ((s.tile p).get
        (TF.TPC_CNT.count (2 * j + 1))))).answer ((s.tile p).get (TF.TPC_CNT.count (2 * j))) false)) ∧
    -- PERF_TADDR_WRITE
    (∀ v : BitVec 14, s.reached F.PERF_TADDR.die.addr = true → v.toNat / 4 % 64 < 48 → v.toNat / 256 < 34 →
      let t := s.tile (physOf (v.toNat % 4) (v.toNat / 4 % 64) (v.toNat / 256))
      ∃ u : State, exec (.perfTaddrWrite v) s = .next u ∧ (∀ k < 8, u.get (F.PERF_TDATA.data k) = t.get (TF.TPC_CNT.count k)) ∧
        u.get (F.PERF_TDATA.data 8) = t.get TF.TPC_SEL.sel ∧ (∀ f : RF, f.addr < 0x40200 ∨ 0x40288 ≤ f.addr → u.get f = s.get f) ∧
        { u with regs := s.regs } = s) ∧
    -- PERF_HCLR
    (s.reached F.PERF_HCLR.hbm.addr = true →
      (∃ u : State, exec .perfHclrHbm s = .next u ∧ { u with regs := s.regs } = s ∧
        (∀ d k x : Nat, d < 4 → k < 6 → 0x108080 + 0x100000 * d + 0x100 * k ≤ x → x < 0x108100 + 0x100000 * d + 0x100 * k →
          u.word x = moduleReset x) ∧
        (∀ x : Nat, (∀ d k : Nat, d < 4 → k < 6 → x < 0x108080 + 0x100000 * d + 0x100 * k ∨
          0x108100 + 0x100000 * d + 0x100 * k ≤ x) → u.word x = s.word x)) ∧
      (∃ u : State, exec .perfHclrSync s = .next u ∧ { u with regs := s.regs } = s ∧
        (∀ d x : Nat, d < 4 → 0x160040 + 0x100000 * d ≤ x → x < 0x160080 + 0x100000 * d → u.word x = moduleReset x) ∧
        (∀ x : Nat, (∀ d : Nat, d < 4 → x < 0x160040 + 0x100000 * d ∨ 0x160080 + 0x100000 * d ≤ x) → u.word x = s.word x)) ∧
      (∃ u : State, exec .perfHclrFlow s = .next u ∧ { u with regs := s.regs } = s ∧
        (∀ f x : Nat, f < 2 → 0x101A440 + 0x80000 * f ≤ x → x < 0x101A480 + 0x80000 * f → u.word x = moduleReset x) ∧
        (∀ x : Nat, (∀ f : Nat, f < 2 → x < 0x101A440 + 0x80000 * f ∨ 0x101A480 + 0x80000 * f ≤ x) → u.word x = s.word x))) ∧
    -- BAR4_ACCESS
    (∀ (b : BitVec 28) (acc : HostAccess), acc.ok = true →
      let col := b.toNat / 2 ^ 22 % 64
      let la := b.toNat % 2 ^ 22
      let p := physOf (s.get F.MOD_DBG.die) (s.get F.MOD_DBG.row) col
      (s.isReady = true → s.get F.MOD_PROFILE.debug = 1 → s.get F.MOD_DBG.open = 1 → col < 34 → s.get F.MOD_DBG.row < 48 →
        (s.tile p).gesso = false → regionOf la ≠ .none → (regionOf la = .palette → la + acc.size ≤ 0x200000) →
        let o := (s.view p).debug c la acc.size acc.data
        (acc.data.isSome = true → exec (.bar4Access b c acc) s = .next (s.onTile p fun _ => o.tile)) ∧
        (acc.data = none → exec (.bar4Access b c acc) s = .next ((s.onTile p fun _ => o.tile).answer o.val o.pois))) ∧
      (s.get F.MOD_DBG.open = 0 → acc.data.isSome = true → exec (.bar4Access b c acc) s = .next (s.errc 3 1)))

/-- R14-R17, R478, R484: REGISTER_WRITE: a write of 8 bytes reaches its register; one of another size than 4 or 8, or at
an offset that no register has, is ignored; a register with no effect of its own takes it by type; and an entry of the PF's
MSI-X table is written. -/
def Obligations.HostWrites : Prop :=
  ∀ (s : State) (a : BitVec 26) (n : Nat) (v : Word) (at_ cyc : Nat),
    (n ≠ 4 → n ≠ 8 → exec (.registerWrite 0 .bar0 a n v at_ cyc) s = .next s) ∧
    (s.reached a.toNat = true → a.toNat % 8 = 0 → regFind moduleRegs a.toNat = none →
      exec (.registerWrite 0 .bar0 a 8 v at_ cyc) s = .next s) ∧
    (s.reached a.toNat = true → a.toNat % 8 = 0 →
      exec (.registerWrite 0 .bar0 a 8 v at_ cyc) s = .next (s.moduleWrite 0 a.toNat (BitVec.allOnes 64) v at_ cyc)) ∧
    (∀ r : RegDesc, regFind moduleRegs a.toNat = some r → r.rwl = [] → 0x40000 ≤ a.toNat → a.toNat < 0x50000 →
      a.toNat ≠ 0x40200 → a.toNat ≠ 0x40300 →
      s.moduleWrite 0 a.toNat (BitVec.allOnes 64) v at_ cyc = s.setWord a.toNat (writeByType r (s.word a.toNat)
        (BitVec.allOnes 64) v)) ∧
    (∀ c : Fin 64, s.get (F.HCTX_STATUS.state c) ≠ 1 →
      exec (.registerWrite c.succ .bar0 a n v at_ cyc) s = .next (s.errc 3 1)) ∧
    (s.isReady = true → a.toNat % 8 = 0 → a.toNat / 16 < 2048 → exec (.registerWrite 0 .msixTable a 8 v at_ cyc) s =
      .next (State.sendPending { s with host := { s.host with
        msix := SMap.put s.host.msix (0x8000 * 0 + (a.toNat - a.toNat % 8)) v (if a.toNat % 16 / 8 = 1 then 0x100000000#64 else 0) } }))

/-- R473-R475, R517: the PCIe link and requests that it refuses. With keep_link 1 a link event leaves the contexts alone. -/
def Obligations.LinkEvents : Prop :=
  ∀ (s : State) (at_ cyc : Nat),
    (s.get F.HOST_CFG.keep_link = 1 → s.get F.HOST_STATUS.speed ≠ 0 → exec (.linkDown at_ cyc) s = .next
      (((((s.showLink 0 0 false).put F.HOST_STATUS.downs ((s.get F.HOST_STATUS.downs + 1) % 2 ^ 32)).reach at_).hostDefaults))) ∧
    (s.get F.HOST_STATUS.speed = 0 → exec (.linkDown at_ cyc) s = .next s) ∧
    (s.get F.HOST_CFG.keep_link = 1 →
      exec (.hotReset at_ cyc) s = .next (s.reach at_).hostDefaults ∧
      exec (.functionLevelReset 0 at_ cyc) s = .next (s.reach at_).hostDefaults ∧
      exec (.perstN at_ cyc) s = .next ((s.reach at_).hostDefaults.showLink 0 0 false)) ∧
    (s.get F.HOST_CFG.keep_link = 0 →
      exec (.hotReset at_ cyc) s = .next ((s.reach at_).resetAll at_ cyc).hostDefaults ∧
      exec (.functionLevelReset 0 at_ cyc) s = .next ((s.reach at_).resetAll at_ cyc).hostDefaults ∧
      exec (.perstN at_ cyc) s = .next (((s.reach at_).resetAll at_ cyc).hostDefaults.showLink 0 0 false)) ∧
    ((∀ c < 64, s.hctx c = 0) → s.resetAll at_ cyc = s) ∧
    s.hostDefaults.host = { s.host with msix := [], pba := [], bme := false } ∧
    (∀ (speed : Fin 7) (width : Fin 17) (flit bme : Bool) (vfs : Fin 65), s.railsUp = true → 2 ≤ s.get F.MOD_STATE.stage →
      let u : State := { s.showLink speed width flit with host := { s.host with bme := bme } }
      exec (.linkUp speed width flit bme vfs) s = .next ((List.range 64).foldl (fun s c => s.put (F.HCTX_STATUS.vf_en c)
        (decide (c < vfs.val)).toNat) u).sendPending) ∧
    (∀ c : Fin 64, s.hctx c = 1 → exec (.functionLevelReset c.succ at_ cyc) s = .next ((((s.put (F.HCTX_STATUS.state c) 2).put
      (F.HCTX_STATUS.resets c) ((s.get (F.HCTX_STATUS.resets c) + 1) % 2 ^ 32)).setFree c false).resetEffects c at_ cyc)) ∧
    exec .poisonedWriteRequest s = .next (({ s with host := { s.host with aer := s.host.aer ||| 0x1000#32 } } : State).errc 3 1) ∧
    exec .unsupportedRequest s = .next { s with host := { s.host with aer := s.host.aer ||| 0x100000#32 } }

/-- R480, R481, R518, R521: the states of a context: HCTX_CTL takes it from FREE to ACTIVE, from ACTIVE to RESETTING and from
RESETTING to PENDING_ENABLE; a completed reset takes it to ACTIVE, or to FREE with no rows. -/
def Obligations.ContextStates : Prop :=
  ∀ (s : State) (c : Fin 64) (v : Word) (at_ cyc : Nat),
    let u := ((s.put (F.HCTX_CTL.enable c) 1).put (F.HCTX_CTL.vec c) (v.field 2 11)).put (F.HCTX_CTL.msix_en c) (v.field 13 1)
    let d := ((s.put (F.HCTX_CTL.enable c) 0).put (F.HCTX_CTL.vec c) (v.field 2 11)).put (F.HCTX_CTL.msix_en c) (v.field 13 1)
    -- HCTX_ENABLE
    (s.isReady = true → s.hctx c = 0 → exec (.hctxEnable c v) s = .next (u.put (F.HCTX_STATUS.state c) 1)) ∧
    (s.isReady = true → s.hctx c = 2 → exec (.hctxEnable c v) s = .next (u.put (F.HCTX_STATUS.state c) 3)) ∧
    (s.isReady = true → s.hctx c = 1 ∨ s.hctx c = 3 → exec (.hctxEnable c v) s = .next u) ∧
    (s.isReady = false → exec (.hctxEnable c v) s = .next (s.errc 3 1)) ∧
    -- HCTX_DISABLE
    (s.isReady = true → s.hctx c = 3 → exec (.hctxDisable c v at_ cyc) s = .next ((d.setFree c true).put (F.HCTX_STATUS.state c) 2)) ∧
    (s.isReady = true → s.hctx c = 1 → exec (.hctxDisable c v at_ cyc) s = .next ((((d.put (F.HCTX_STATUS.state c) 2).put
      (F.HCTX_STATUS.resets c) ((s.get (F.HCTX_STATUS.resets c) + 1) % 2 ^ 32)).setFree c true).resetEffects c at_ cyc)) ∧
    -- CONTEXT_RESET
    (s.isReady = true → s.hctx c = 1 → exec (.contextReset c at_ cyc) s = .next ((((s.put (F.HCTX_STATUS.state c) 2).put
      (F.HCTX_STATUS.resets c) ((s.get (F.HCTX_STATUS.resets c) + 1) % 2 ^ 32)).setFree c false).resetEffects c at_ cyc)) ∧
    (s.isReady = true → s.hctx c ≠ 1 → exec (.contextReset c at_ cyc) s = .next s) ∧
    -- CONTEXT_RESET_COMPLETE
    (s.hctx c = 2 → s.resetOver c = true → c.val ∉ s.host.toFree → c.val ∉ s.rcv.restoring → s.get (F.HCTX_CTL.msix_en c) = 0 →
      exec (.contextResetComplete c) s = .next ((s.setFree c false).put (F.HCTX_STATUS.state c) 1)) ∧
    (s.hctx c = 2 → s.resetOver c = true → c.val ∈ s.host.toFree → (∀ d < 4, s.ldrRows d c = 0) → s.get (F.HCTX_CTL.msix_en c) = 0 →
      s.regsWf = true → exec (.contextResetComplete c) s = .next ((s.setFree c false).put (F.HCTX_STATUS.state c) 0))

/-- R486-R490: how Easel answers the fourteen management commands. -/
def Sys2Proof.Machine.EaselAnswersAll : Prop :=
  EaselAnswers .getId 0x01 ∧ EaselAnswers .getStatus 0x02 ∧ EaselAnswers .getSensor 0x03 ∧ EaselAnswers .getErrc 0x04 ∧
  EaselAnswers .readLog 0x05 ∧ EaselAnswers .setNext 0x06 ∧ EaselAnswers .stageProfile 0x07 ∧ EaselAnswers .commitProfile 0x08 ∧
  EaselAnswers .readProfile 0x09 ∧ EaselAnswers .setLock 0x0A ∧ EaselAnswers .moduleReset 0x0B ∧ EaselAnswers .stageFw 0x0C ∧
  EaselAnswers .commitFw 0x0D ∧ EaselAnswers .advanceSvn 0x0E

/-- R485, R488, R489, R494-R497: what each management command does when it is accepted, and what refuses it. -/
def Sys2Proof.Machine.EaselEffects : Prop :=
  ∀ (s : State) (code len : Nat) (p : List Nat),
    let n := bytesNat p
    -- GET_ID, GET_STATUS, GET_SENSOR, GET_ERRC, READ_LOG
    (s.easRun 0x01 p = (s, 0, natBytes (s.word 0x00).toNat 8 ++ natBytes (s.word 0x08).toNat 8 ++ natBytes (s.word 0x38).toNat 8)) ∧
    (s.easRun 0x02 p = (s, 0, natBytes (s.word 0x28).toNat 8 ++ natBytes (s.word 0x10).toNat 8 ++ natBytes (s.word 0x18).toNat 8 ++
      natBytes (s.word 0x30).toNat 8)) ∧
    (let x := s.sensor (Config.sensorKey n)
     Config.sensorKey n < 139 → s.easRun 0x03 p = (s, 0, natBytes (x.good.getD 0) 4 ++
      [(x.good.isSome && x.bad == 0 && !x.failed).toNat + 2 * x.failed.toNat])) ∧
    (n < 512 → s.easRun 0x04 p = (s, 0, natBytes (s.get (F.ERRC_CNT.count n)) 8)) ∧
    (n % 128 = 0 → s.easRun 0x05 p = (s, 0, natBytes (Config.logBytes s.eas.log n).toNat 128)) ∧
    -- SET_NEXT, STAGE_PROFILE, COMMIT_PROFILE, READ_PROFILE
    (n < 4 → s.easRun 0x06 p = ((s.put F.MOD_PROFILE.next n).put F.MOD_PROFILE.next_v 1, 0, [])) ∧
    (∀ (o : Nat) (l : List Nat), p = o :: l → o < 4 → s.easRun 0x07 p = ({ s with eas := { s.eas with
      stage := (s.eas.stage &&& ~~~ BitVec.ofNat 4096 ((2 ^ 1024 - 1) * 2 ^ (1024 * o))) ||| BitVec.ofNat 4096 (bytesNat l * 2 ^ (1024 * o)) } }, 0, [])) ∧
    (∀ (k : Nat) (l : List Nat), p = k :: l → k < 4 → profDebug s.eas.stage = false ∨ k ≠ 0 → profFieldsOk s.eas.stage = true →
      profCrc s.eas.stage 512 = bytesNat l → profCrcOk s.eas.stage = true → s.get (rewritesF k) < 256 →
      let u : State := { s with eas := { s.eas with slots := s.eas.slots.set k ((s.profSlot k).write s.eas.stage) } }
      s.easRun 0x08 p = ((u.put (rewritesF k) (s.get (rewritesF k) + 1)).mirrorFuses, 0, [])) ∧
    (∀ k o : Nat, p = [k, o] → k < 4 → o < 4 →
      s.easRun 0x09 p = (s, 0, natBytes (profBytes (s.profSlot k).content (128 * o) 128) 128)) ∧
    -- SET_LOCK, MODULE_RESET, STAGE_FW, COMMIT_FW, ADVANCE_SVN
    (s.easRun 0x0A p = (s.setLocks n, 0, [(s.setLocks n).get F.MOD_LOCK.lock])) ∧
    (n = 0xA5 → s.easRun 0x0B p = (s, 0, [])) ∧
    (let o := bytesNat (p.take 4)
     o % 128 = 0 → o < 2 ^ 26 → s.easRun 0x0C p = ({ s with eas := { s.eas with
      fwStage := SMap.put s.eas.fwStage (o / 128) (BitVec.ofNat 1024 (bytesNat (p.drop 4))) 0 } }, 0, [])) ∧
    (let x : FwImage := ⟨s.eas.fwStage, bytesNat (p.take 4)⟩
     bytesNat (p.take 4) ≤ 2 ^ 26 → crc32 ((List.range (bytesNat (p.take 4))).map x.byte) = bytesNat (p.drop 4) →
      x.boots (s.get F.MOD_FUSECNT.svn) = true → s.easRun 0x0D p = ({ s with eas := if s.eas.fwNewB = true then
        { s.eas with fwA := x, fwNewB := false } else { s.eas with fwB := x, fwNewB := true } }, 0, [])) ∧
    (n ≤ s.get F.MOD_FUSECNT.svn → s.easRun 0x0E p = (s, 0, [])) ∧
    (s.get F.MOD_FUSECNT.svn < n → n ≤ 64 → n ≤ s.eas.svn → s.easRun 0x0E p = ((s.put F.MOD_FUSECNT.svn n).mirrorFuses, 0, [])) ∧
    -- the checks before a command's own
    (easLen code = none → s.easChecked code len p = (s, 2, [])) ∧
    (s.get F.MOD_EAS.safe = 1 → easSafe code = false → s.easChecked code len p = (s, 2, [])) ∧
    (∀ l, s.get F.MOD_EAS.safe = 0 → easLen code = some l → l ≠ len → s.easChecked code len p = (s, 3, [])) ∧
    (∀ k, s.get F.MOD_EAS.safe = 0 → easLen code = some len → easLock code = some k → s.locked k = true →
      s.easChecked code len p = (s, 5, [])) ∧
    (s.get F.MOD_EAS.safe = 0 → easLen code = some len → (∀ k, easLock code = some k → s.locked k = false) →
      s.easChecked code len p = s.easRun code p)

/-- R485-R490, R494-R497: the management commands: their answers and their effects. -/
def Obligations.EaselCommands : Prop := Sys2Proof.Machine.EaselAnswersAll ∧ Sys2Proof.Machine.EaselEffects

/-- R486, R487, R489-R491, R495, R501: Easel's other events, the locks, the reset command and the test access port. -/
def Obligations.EaselEvents : Prop :=
  ∀ (s : State) (a : Nat),
    -- SETDASA, ENTDAA, TRANSACTION_TIMEOUT
    (∀ x : BitVec 7, s.easUp a = true →
      exec (.setdasa x a) s = .next { s with eas := { s.eas with dyn := some x.toNat } } ∧
      exec (.entdaa x a) s = .next { s with eas := { s.eas with dyn := some x.toNat } } ∧
      exec (.transactionTimeout a) s = .next (s.errc 2 1)) ∧
    -- MAILBOX_TIMEOUT
    (∀ code len tag : Nat, s.eas.mail = some (code, len, tag) → exec .mailboxTimeout s = .next
      ((s.countStatus EasStatus.timeout).mailAnswer EasStatus.timeout tag [])) ∧
    -- CONSOLE_LINE
    (∀ (line : List Byte) (code : Nat) (p : List Nat), s.easUp a = true → line.length ≤ 256 → profConsole s.eas.prof = true →
      s.locked 1 = false → hexBytes (line.map BitVec.toNat) = some (code :: p) →
      let run := s.easChecked code p.length p
      let u := run.1.countStatus run.2.1
      exec (.consoleLine line a) s = .next (({ u with eas := { u.eas with uart := u.eas.uart ++ [run.2.1 :: run.2.2] } } : State).thenReset
        code run.2.1 a)) ∧
    (∀ line : List Byte, s.easUp a = true → 256 < line.length → exec (.consoleLine line a) s = .next (s.errc 3 1)) ∧
    -- WATCHDOG_EXPIRY, of a watchdog that has not expired twice in the last 600 s
    (let l := (s.eas.wd ++ [a]).filter fun t => decide (a < t + fcMs 600000 + 1)
     let n := (({ s with free := s.free + 1 } : State).reach a).errc 5 1
     let u := n.put F.MOD_EAS.wd_count (min 255 (n.get F.MOD_EAS.wd_count + 1))
     s.easUp a = true → l.length < 3 → exec (.watchdogExpiry a) s = .next (State.mirrorFuses (State.cutCommits
      { u with eas := { u.eas with wd := l, back := a + (Config.freeValue s.free).toNat % (fcMs 2000 + 1) } }))) ∧
    -- MOD_LOCK_WRITE: bits are set and none is cleared; the debug lock closes the debug aperture
    (∀ v : BitVec 6, s.reached F.MOD_LOCK.lock.addr = true →
      let u := s.put F.MOD_LOCK.lock (s.get F.MOD_LOCK.lock ||| v.toNat)
      exec (.modLockWrite v) s = .next (if u.locked 1 = true then u.put F.MOD_DBG.open 0 else u)) ∧
    -- MOD_CMD_RESET
    (∀ key : BitVec 8, s.reached 0x20 = true →
      (key = 0xA5#8 → exec (.modCmdReset key a) s = .next (s.resetModule 2 a)) ∧
      (key ≠ 0xA5#8 → exec (.modCmdReset key a) s = .next (s.errc 3 1))) ∧
    -- TAP_INSTRUCTION
    (∀ i : TapInstr, i ≠ .knakor → exec (.tapInstruction i) s = .next { s with host := { s.host with tap :=
      if i = .idcode then 1 else if i = .sample ∧ s.tapBoundary = true then 2 else if i = .extest ∧ s.tapBoundary = true then 3 else 0 } }) ∧
    (s.get F.MOD_DBG.open = 0 → exec (.tapInstruction .knakor) s = .next { s with host := { s.host with tap := 0 } })

/-! Power, reset and boot (R37, R505-R524, R533, R534). -/

/-- R506-R508, R514, R524, R533, R534: the inputs, the rails and the two power registers. `u` is in each clause the module
before the command's last writes. -/
def Obligations.InputsAndRails : Prop :=
  ∀ (s : State) (a : Nat),
    -- VAUX_GOOD, VMAIN_GOOD: with the other input good, a cold reset begins
    (s.pwr.vaux = false →
      let u : State := { s with pwr := { s.pwr with vaux := true } }
      (s.pwr.vmain = true → exec (.vauxGood a) s = .next (u.resetCold a)) ∧
      (s.pwr.vmain = false → exec (.vauxGood a) s = .next u)) ∧
    (s.pwr.vmain = false →
      let u : State := { s with pwr := { s.pwr with vmain := true } }
      (s.pwr.vaux = true → exec (.vmainGood a) s = .next (u.resetCold a)) ∧
      (s.pwr.vaux = false → exec (.vmainGood a) s = .next u)) ∧
    -- VAUX_LOST, VMAIN_LOST: groups 7 to 1 go down
    (let u := s.powerDown a
     u.eas = s.eas ∧ u.pwr = { s.pwr with group := 0, clocks := false, dies := List.replicate 4 DieClk.fresh } ∧
     (s.pwr.vaux = true → exec (.vauxLost a) s = .next { u with pwr := { u.pwr with vaux := false }, eas := u.eas.restart }) ∧
     (s.pwr.vmain = true → exec (.vmainLost a) s = .next { u with pwr := { u.pwr with vmain := false } })) ∧
    -- RAIL_FAILURE: in service, in stage 2, and of a module that has failed
    (∀ g : RailGroup, s.get (railF g.number) ≠ 0 →
      let u := (s.reach a).put (railF g.number) 0
      let v := u.put F.PWR_STATUS.fail_rail g.number
      (u.get F.MOD_STATE.state = 1 → exec (.railFailure g a) s = .next (State.sendFail { v with
        pwr := { v.pwr with failAt := some a }, free := v.free + 1 } ((Config.freeValue v.free).toNat % 512))) ∧
      (u.get F.MOD_STATE.state = 0 → u.get F.MOD_STATE.stage = 2 → exec (.railFailure g a) s = .next { u.bootFails a with
        pwr := { (u.bootFails a).pwr with group := 0 } }) ∧
      (u.get F.MOD_STATE.state = 2 → exec (.railFailure g a) s = .next u)) ∧
    -- RAIL_FAILURE_POWER_DOWN
    (∀ t : Nat, s.pwr.failAt = some t → t + fcMs 100 ≤ a →
      let u := (s.powerDown a).put F.MOD_STATE.state 2
      exec (.railFailurePowerDown a) s = .next { u with pwr := { u.pwr with failAt := none } }) ∧
    -- RAIL_GROUP_GOOD, RAIL_GROUP_TIMEOUT of the group being started
    (∀ g : RailGroup, s.pwr.group = g.number →
      let u := (s.reach a).put (railF g.number) 1
      let v : State := { u with pwr := { u.pwr with group := g.number + 1, stageAt := a } }
      let w := (s.reach a).bootFails a
      (g.number < 7 → exec (.railGroupGood g a) s = .next v) ∧ (g.number = 7 → exec (.railGroupGood g a) s = .next v.startClocks) ∧
      (s.pwr.stageAt + fcMs 10 ≤ a → exec (.railGroupTimeout g a) s = .next { w with pwr := { w.pwr with group := 0 } })) ∧
    -- PWR_LIMIT_WRITE
    (∀ v : BitVec 12, s.reached F.PWR_LIMIT.limit.addr = true →
      (s.locked 3 = true → exec (.pwrLimitWrite v) s = .next s.lockViolation) ∧
      (s.locked 3 = false → v.toNat < 1200 ∨ 2450 < v.toNat → exec (.pwrLimitWrite v) s = .next (s.put F.PWR_STATUS.cfg_reject 1)) ∧
      (s.locked 3 = false → 1200 ≤ v.toNat → v.toNat ≤ 2450 → exec (.pwrLimitWrite v) s = .next (s.put F.PWR_LIMIT.limit v.toNat))) ∧
    -- PWR_DROOP_WRITE
    ∀ (d : Fin 4) (v : Word), s.reached (F.PWR_DIE_DROOP.thr1 d).addr = true →
      (s.locked 3 = true → exec (.pwrDroopWrite d v) s = .next s.lockViolation) ∧
      (s.locked 3 = false → v.field 0 6 < 10 ∨ v.field 8 6 ≤ v.field 0 6 →
        exec (.pwrDroopWrite d v) s = .next (s.put F.PWR_STATUS.cfg_reject 1)) ∧
      (s.locked 3 = false → 10 ≤ v.field 0 6 → v.field 0 6 < v.field 8 6 →
        exec (.pwrDroopWrite d v) s = .next (s.setWord (F.PWR_DIE_DROOP.thr1 d).addr (v &&& 0x3F3F#64)))

/-- R510, R511: a droop trip stretches the die's clock to 75 % or 50 %, 200 ns after the last call it ramps back, and the ramp
gives the clock its ceiling. -/
def Obligations.DroopStretch : Prop :=
  ∀ (s : State) (d : Fin 4) (a : Nat),
    let st := F.PWR_DIE_CLK.stretch d
    -- DROOP_TRIP; `u` is the module once the sensor's call is noted
    (∀ mv : Nat, s.pwr.clocks = true → s.get (F.PWR_DIE_DROOP.thr1 d) < mv →
      let level := if s.get (F.PWR_DIE_DROOP.thr2 d) < mv then 2 else 1
      let x := (s.reach a).clk d
      let u := (s.reach a).setClk d { x with call1 := a, call2 := if level = 2 then a else x.call2 }
      let t := (u.countTrip d).countLoss d a
      let r := u.countLoss d a
      (u.get st = 0 ∨ u.get st = 3 → exec (.droopTrip d mv a) s =
        .next (((t.put st level).setClk d { t.clk d with deficit := 25 * level }).showClock d)) ∧
      (u.get st = 1 → level = 2 → exec (.droopTrip d mv a) s =
        .next (((r.put st 2).setClk d { r.clk d with deficit := 50 }).showClock d)) ∧
      (u.get st = 1 ∨ u.get st = 2 → level ≤ u.get st → exec (.droopTrip d mv a) s = .next u)) ∧
    (∀ mv : Nat, mv ≤ s.get (F.PWR_DIE_DROOP.thr1 d) → mv ≤ s.get (F.PWR_DIE_DROOP.thr2 d) → exec (.droopTrip d mv a) s = .next s) ∧
    -- STRETCH_RELEASE
    (let u := (s.reach a).countLoss d a
     (s.get st = 1 → (s.clk d).call1 + 250 ≤ a →
      exec (.stretchRelease d a) s = .next ((u.put st 3).setClk d { u.clk d with deficit := 25 })) ∧
     (s.get st = 2 → (s.clk d).call2 + 250 ≤ a → (s.clk d).call1 + 250 ≤ a →
      exec (.stretchRelease d a) s = .next ((u.put st 3).setClk d { u.clk d with deficit := 50 })) ∧
     (s.get st = 2 → (s.clk d).call2 + 250 ≤ a → a < (s.clk d).call1 + 250 →
      exec (.stretchRelease d a) s = .next (((u.put st 1).setClk d { u.clk d with deficit := 25 }).showClock d)) ∧
    -- CLOCK_RAMP_COMPLETE
     (s.get st = 3 → (s.clk d).since + 25 * (s.clk d).deficit ≤ a →
      exec (.clockRampComplete d a) s = .next (((u.put st 0).setClk d { u.clk d with deficit := 0 }).showClock d)))

/-- R512-R514: the thermal loop of a die, a fabric die's sensors, the thermal trip, and the cap on the input power. -/
def Obligations.ThermalAndPowerLoops : Prop :=
  ∀ (s : State) (a : Nat), s.pwr.clocks = true →
    -- THERMAL_SAMPLE of a compute die
    (∀ (d : Fin 4) (die : Vector Nat 16) (stks : Vector Nat 6),
      let r := ((s.reach a).takeReadings (32 * d) die.toList 0).takeReadings (32 * d + 16) stks.toList 0
      let left := r.goodReadings (32 * d) 16
      let hbm := maxOf (r.goodReadings (32 * d + 16) 6)
      let lost := ((List.range 16).filter fun i => (r.sensor (32 * d + i)).failed).length
      let tj := max (if lost = 16 then 95 else maxOf left) hbm
      let u := ((r.put (F.PWR_DIE_TEMP.tj d) tj).put (F.PWR_DIE_TEMP.sensors d) left.length).put (F.PWR_DIE_TEMP.hbm d) hbm
      let k := u.get (F.PWR_DIE_CLK.tstep d)
      let step (u : State) (k : Nat) : State :=
        let v := u.changeStep d a (F.PWR_DIE_CLK.tstep d) k
        v.setClk d { v.clk d with tempAt := a }
      (tj < 95 → 92 < tj ∨ k = 0 ∨ a < (u.clk d).tempAt + fcMs 10 → exec (.thermalSample (.compute d die stks) a) s = .next u) ∧
      (tj ≤ 92 → 0 < k → (u.clk d).tempAt + fcMs 10 ≤ a → exec (.thermalSample (.compute d die stks) a) s = .next (step u (k - 1))) ∧
      (95 ≤ tj → tj < 105 → k = 0 →
        exec (.thermalSample (.compute d die stks) a) s = .next (step (u.errc (dieErrc d 0x34) 1) 1)) ∧
      (95 ≤ tj → tj < 105 → 0 < k → k < 16 → exec (.thermalSample (.compute d die stks) a) s = .next (step u (k + 1))) ∧
      (95 ≤ tj → tj < 105 → 16 ≤ k → exec (.thermalSample (.compute d die stks) a) s = .next u)) ∧
    -- THERMAL_SAMPLE of a fabric die
    (∀ (f : Fin 2) (l : Vector Nat 4),
      let r := (s.reach a).takeReadings (128 + 4 * f) l.toList 0
      let t := maxOf (r.goodReadings (128 + 4 * f) 4)
      t < 105 → exec (.thermalSample (.fabric f l) a) s = .next (r.put (if f = 0 then F.PWR_FAB_TEMP.w else F.PWR_FAB_TEMP.e) t)) ∧
    -- THERMAL_TRIP
    (∀ n : Fin 139, s.pwr.therm = false → s.pwr.vaux = true →
      let u := (s.reach a).powerDown a
      exec (.thermalTrip n a) s = .next { u with
        pwr := { u.pwr with therm := true }, eas := { u.eas with log := u.eas.log ++ [(1, n.val)] } }) ∧
    -- POWER_SAMPLE: the mean of the products is compared with the limit
    ∀ (l : Samples) (vaux : Nat),
      let r := l.toList.foldl (fun s q => (s.reading 136 q.1).reading 137 q.2) ((s.reach a).reading 138 vaux)
      let sum := (l.toList.map fun q => q.1 * q.2).foldl (· + ·) 0
      let v := (((r.put F.PWR_IN.vmain ((r.sensor 136).good.getD 0)).put F.PWR_IN.imain ((r.sensor 137).good.getD 0)).put
        F.PWR_IN.vaux ((r.sensor 138).good.getD 0)).put F.PWR_IN.pin_1ms (sum / 1000000)
      let lim := v.get F.PWR_LIMIT.limit
      let k := v.get (F.PWR_DIE_CLK.pstep 0)
      let above : State := { v with pwr := { v.pwr with below := none } }
      let t := v.pwr.below.getD a
      let under : State := { v with pwr := { v.pwr with below := some t } }
      (lim * 1000000 < sum → k < 16 → exec (.powerSample l vaux a) s = .next ((above.setPstep (k + 1) a).add F.PWR_CNT_CAP.count 1)) ∧
      (lim * 1000000 < sum → 16 ≤ k → exec (.powerSample l vaux a) s = .next above) ∧
      ((lim - 50) * 1000000 ≤ sum → sum ≤ lim * 1000000 → exec (.powerSample l vaux a) s = .next above) ∧
      (sum < (lim - 50) * 1000000 → 0 < k → t + fcMs 10 ≤ a → v.pwr.decAt + fcMs 10 ≤ a →
        let w := under.setPstep (k - 1) a
        exec (.powerSample l vaux a) s = .next { w with pwr := { w.pwr with decAt := a } }) ∧
      (sum < (lim - 50) * 1000000 → k = 0 ∨ a < t + fcMs 10 ∨ a < v.pwr.decAt + fcMs 10 →
        exec (.powerSample l vaux a) s = .next under)

/-- R430, R485, R493, R516, R519-R521, R523: the six stages of a boot, each entered from the one before, the reset pin, and
the end of an exchange phase (R37). -/
def Obligations.BootStages : Prop :=
  ∀ (s : State) (a : Nat),
    let from_ (n : Nat) : Prop := s.pwr.vaux = true ∧ s.pwr.vmain = true ∧ s.pwr.held = false ∧ s.pwr.therm = false ∧
      s.get F.MOD_STATE.state = 0 ∧ s.get F.MOD_STATE.stage = n
    let at_ (n : Nat) : State :=
      let u := (s.reach a).put F.MOD_STATE.stage n
      { u with pwr := { u.pwr with stageAt := a } }
    (∀ m p g : StrapSamples, from_ 0 →
      let u := ((((at_ 1).bootImage).chooseProfile p.list).chooseRole m.list).chooseAddr g.list
      let v := (List.range 4).foldl (fun s d => s.put (F.PEN_CTL.avail d) (profDebug u.eas.prof).toNat) u
      exec (.stageEasel m p g a) s = .next (v.errc 6 v.fuseDiffs).mirrorFuses) ∧
    (from_ 1 →
      ((at_ 2).railsUp = true → exec (.stageRails a) s = .next (at_ 2).startClocks) ∧
      ((at_ 2).railsUp = false → exec (.stageRails a) s = .next { at_ 2 with pwr := { (at_ 2).pwr with group := 1 } })) ∧
    (∀ (b : Bundles) (t : BitVec 24), from_ 2 → s.railsUp = true →
      ((∀ n ∈ b.toList, n ≤ 6) → t = BitVec.allOnes 24 →
        let u := (List.range 2).foldl (fun s f => (List.range 8).foldl (fun s k =>
          s.put (F.FAB_PORT_STATUS.state f (16 + k)) PortState.up) s) (at_ 3)
        exec (.stageBridgesAndHbm b t a) s = .next ((List.range 4).foldl (fun s d => (List.range 6).foldl (fun s p =>
          (s.put (F.HBM_SE_STATUS.state d p) 1).setDirty d p (s.dirty d p)) s) u)) ∧
      ((∃ n ∈ b.toList, 6 < n) ∨ t ≠ BitVec.allOnes 24 → exec (.stageBridgesAndHbm b t a) s = .next
        (State.bootFails ((List.range 24).foldl (fun s k =>
          if t.toNat.testBit k = true then s else s.put (F.HBM_SE_STATUS.state (k / 6) (k % 6)) 4) (at_ 3)) a))) ∧
    (∀ l : List PhysTile, from_ 3 →
      let scan := (l.map PhysTile.idx).foldl State.scanFailed (at_ 4)
      let rows := (List.range 4).flatMap fun d => (List.range 48).map fun r => (d, r)
      let u := (List.range 4).foldl State.showUnfused (rows.foldl (fun s q => s.loadMap q.1 q.2) { scan with tiles := [] })
      ((∀ q ∈ rows, (bootMap (u.retiredCols q.1 q.2)).2 = true) → exec (.stageQuickScan l a) s = .next u) ∧
      ((∃ q ∈ rows, (bootMap (u.retiredCols q.1 q.2)).2 = false) → exec (.stageQuickScan l a) s = .next (u.bootFails a))) ∧
    (from_ 4 →
      let n := profNode (at_ 5).eas.prof
      let u := ((at_ 5).put (F.FAB_NODE.node_id 0) (n % 2 ^ 14)).put (F.FAB_NODE.valid 0) (n / 2 ^ 15)
      exec (.stageLinks a) s = .next (((List.range 2).foldl (fun s f => (List.range 16).foldl (fun s p =>
        if (profPorts s.eas.prof).testBit (16 * f + p) then s.portEnable f p a else s) s) u).startClaims a)) ∧
    (from_ 5 → s.linksTrained = true ∨ s.pwr.stageAt + fcMs 10000 ≤ a → (at_ 6).tick.trained = true →
      exec (.stageEnumeration a) s = .next ((((at_ 6).put F.HOST_CFG.keep_link (profKeepLink (at_ 6).eas.prof).toNat).setLocks
        (profLocks (at_ 6).eas.prof)).put F.MOD_STATE.state 1)) ∧
    -- MOD_RESET_N
    (∀ n : Nat, 1000 ≤ n → s.pwr.vaux = true →
      let u := s.resetModule 1 a
      exec (.modResetN true n a) s = .next { u with pwr := { u.pwr with held := true } }) ∧
    (∀ n : Nat, exec (.modResetN false n a) s = .next { s with pwr := { s.pwr with held := false } }) ∧
    -- EXCHANGE_PHASE_END
    ∀ (t : TileId) (p : Nat), s.phys t.gid = some p → (s.tile p).inPhase = true →
      exec (.exchangePhaseEnd t a) s = .next (s.edgeDrain p a)

/-! Recovery (R372-R406). In each clause `x` is the first message of its kind in the inbox and `u` the module without it. -/

namespace Sys2Proof.Machine

/-- A whole snapshot of context `c` in local slot `k`, with what each die has captured, is LOCAL (R377, R380, R384): its parts
are written, SIG counts, the Sketchbook notes it, and its copies start. -/
def State.copyLands (s : State) (c k at_ cyc seq : Nat) (parts : List (List Captured)) : State :=
  let s := s.setSlotState c k 2
  let s := (List.range 4).foldl (fun s d => s.writePart c d k (parts.getD d [])) s
  let s := s.showNewest c
  let s := if s.get (F.VRN_CTX_W0.sig_en c) = 1 then s.unitInc 0 c (s.get (F.VRN_CTX_W0.vcid c)) 1 cyc else s
  let s := { s with vrn := { s.vrn with snapRec := SMap.put s.vrn.snapRec (4 * c + k) (s.get (F.SKB_SEQ.next c)) 0 } }
  let s := s.skbLog c 0 at_ { kind := 2, step := seq, aux := seq }
  let image := !(s.vctx c).imgSent
  let (area, s) := if image then s.imageRead c else ([], s)
  let copies := (s.mirrorDests c).flatMap fun n => s.copiesTo c seq (s.vctx c).clock n parts image area
  let s := s.mapVctx c fun v => { v with copies := v.copies ++ copies, imgSent := true }
  (s.startCopies c at_ cyc).checkComplete c seq

/-- What the four dies capture of a context's snapshot, and the module after it. -/
def State.captureDies (s : State) (c : Nat) (sec : Section) : List (List Captured) × State :=
  (List.range 4).foldl (fun r d =>
    let w := r.2.captureDie c d sec
    (r.1 ++ [w.1], w.2)) ([], s)

/-- `x` is a new command of the coordinator (R373): the module's sequencer is on, the generation is not older, and no answer
is kept for it. -/
def State.NewCommand (s : State) (op : Nat) (x : Flit) (u : State) : Prop :=
  s.popCtrl op = some (x, u) ∧ u.rcvOn = true ∧ u.gen ≤ x.cGen ∧ u.answersTo (cmdKey op x.cCtx) x.cGen = none

/-- The module once it obeys a command: it takes its generation and opens its answer. -/
def State.obeys (u : State) (op : Nat) (x : Flit) : State := (u.put F.RCV_STATUS.gen x.cGen).openAnswer (cmdKey op x.cCtx) x.cGen

end Sys2Proof.Machine

/-- R377, R381-R383, R386: a snapshot's local copy completes, its copies begin, end and are acknowledged at their buddies,
and the records of the Sketchbook are mirrored. -/
def Obligations.SnapshotsAndLogs : Prop :=
  ∀ (s u : State) (x : Flit) (a cyc : Nat),
    -- LOCAL_COPY_COMPLETE: the captured rows have been read; a torn snapshot frees its slot, any other is LOCAL
    (∀ (c : Fin 64) (k : Nat), s.writing c = some k →
      let v := (s.reach a).readRows c cyc
      let y := v.vslot c k
      let r := v.freeRows c
      let torn := y.torn || (v.allMembers c).any fun q => (v.tile q.2).vrnTorn
      (torn = true → exec (.localCopyComplete c a cyc) s = .next ((r.setSlotState c k 0).count F.VRN_CNT_TORN.count 0x10 1)) ∧
      (torn = false → exec (.localCopyComplete c a cyc) s =
        .next ((r.captureDies c y.sec).2.copyLands c k a cyc y.seq (r.captureDies c y.sec).1))) ∧
    -- SNAP_BEGIN: an image goes to the image area, a whole copy to a buddy slot
    (s.popCtrl 0x10 = some (x, u) → u.vrnOn x.cCtx = true →
      let r := u.mapVctx x.cCtx fun v => { v with ins := v.ins.filter fun y => y.src != x.cOrigin }
      let k := r.buddySlot x.cCtx none
      r.filling x.cCtx = false →
      (x.cA2 % 2 = 1 → exec .snapBegin s = .next (r.mapVctx x.cCtx fun v => { v with
        ins := v.ins ++ [VrnIn.mk x.cOrigin x.cA0 5 true false false false false] })) ∧
      (x.cA2 % 8 = 0 → exec .snapBegin s = .next ((r.beginSlot x.cCtx k x.cA0 false).mapVctx x.cCtx fun v => { v with
        ins := v.ins ++ [VrnIn.mk x.cOrigin x.cA0 k false false false false false] }))) ∧
    -- SNAP_END: the copy is held, or its whole is asked for
    (∀ y : VrnIn, s.popCtrl 0x11 = some (x, u) →
      ((u.vctx x.cCtx).ins.find? fun y => y.src == x.cOrigin && y.seq == x.cA0) = some y →
      let r := u.mapVctx x.cCtx fun v => { v with ins := v.ins.erase y }
      (y.whole = false → exec .snapEnd s = .next ((r.holdCopy x.cCtx y).ctrl { op := 0x12, ctx := x.cCtx, a0 := y.seq, a2 := 0 } x.cOrigin)) ∧
      (y.whole = true → exec .snapEnd s =
        .next ((r.setSlotState x.cCtx y.slot 0).ctrl { op := 0x12, ctx := x.cCtx, a0 := y.seq, a2 := 1 } x.cOrigin))) ∧
    -- SNAP_ACK
    (∀ y : VrnCopy, s.popCtrl 0x12 = some (x, u) →
      (((u.reach a).vctx x.cCtx).copies.find? fun y => y.dest == x.cOrigin && y.seq == x.cA0 && y.queued && !y.failed) = some y →
      (x.cA2 = 0 → exec (.snapAck a cyc) s = .next (((((u.reach a).mapVctx x.cCtx fun v => { v with
        copies := v.copies.filter fun z => z.id != y.id })).checkComplete x.cCtx y.seq).startCopies x.cCtx a cyc)) ∧
      (x.cA2 ≠ 0 → exec (.snapAck a cyc) s = .next (((u.reach a).mapVctx x.cCtx fun v => { v with
        copies := updCopy y.id (fun z => { z with queued := false, delta := false, todo := z.full }) v.copies }).startCopies x.cCtx a cyc))) ∧
    -- LOG
    (s.popCtrl 0x0E = some (x, u) →
      let v := x.bytes 32 64
      let ack : Ctrl := { op := 0x0F, ctx := x.cCtx, a0 := v % 2 ^ 64 }
      (u.fillRole x.cCtx x.cOrigin 2 = false → u.get F.RCV_PEERS.log_from_v = 1 → u.get F.RCV_PEERS.log_from = x.cOrigin →
        u.engState 3 5 ≠ 4 → exec .log s = .next ((u.skbPut true x.cCtx (v % 2 ^ 64) v).ctrl ack x.cOrigin)) ∧
      (u.fillRole x.cCtx x.cOrigin 2 = false → u.get F.RCV_PEERS.log_from_v = 0 ∨ u.get F.RCV_PEERS.log_from ≠ x.cOrigin →
        exec .log s = .next (u.add F.RCV_CNT_STALE.count 1))) ∧
    -- LOGACK
    (s.popCtrl 0x0F = some (x, u) → exec .logack s = .next { u with vrn := { u.vrn with
      logs := u.vrn.logs.filter fun q => q.1 != x.cCtx || q.2.1 != x.cA0 } }) ∧
    -- MIRROR_LAG_TIMER with one record that waits
    (∀ k n t : Nat, s.vrn.logs = [(k, n, t)] →
      let r := s.reach a
      let w : State := { r with vrn := { r.vrn with logs := [(k, n, a)] } }
      let z := w.count F.SKB_CNT_MLAG.count 0x13 1
      (a < t + fcMs 10 → exec (.mirrorLagTimer a) s = .next r) ∧
      (∀ (v : Nat) (q : State), t + fcMs 10 ≤ a → z.skbGet false k n = (some v, q) → q.get F.RCV_PEERS.log_buddy_v = 1 →
        exec (.mirrorLagTimer a) s = .next (q.ctrl { op := 0x0E, ctx := k, body := v } (q.get F.RCV_PEERS.log_buddy))))

/-- R373, R390, R396, R397, R399-R402: what a member does on PLAN, REWIRE, FILL, RESUME and SHRINK, at the end of its fill and of
its restore, and on STATE. A command of an older generation is counted and dropped, a repeated one is answered again. -/
def Obligations.MembersObey : Prop :=
  ∀ (s u : State) (x : Flit) (a cyc : Nat),
    -- a stale command
    (∀ op : Nat, s.popCtrl op = some (x, u) → u.rcvOn = true → x.cGen < u.gen →
      let stale := u.add F.RCV_CNT_STALE.count 1
      (op = 0x06 → exec (.plan a cyc) s = .next stale) ∧ (op = 0x07 → exec .rewire s = .next stale) ∧
      (op = 0x09 → exec (.fill a cyc) s = .next stale) ∧ (op = 0x0D → exec .resume s = .next stale) ∧
      (op = 0x14 → exec .shrink s = .next stale) ∧ (op = 0x13 → exec .state s = .next stale)) ∧
    -- a repeated command
    (∀ (op : Nat) (l : List Flit), s.popCtrl op = some (x, u) → u.rcvOn = true → u.gen ≤ x.cGen →
      u.answersTo (cmdKey op x.cCtx) x.cGen = some l →
      let again := l.foldl (fun s y => s.inject 0 y) u
      (op = 0x06 → exec (.plan a cyc) s = .next again) ∧ (op = 0x07 → exec .rewire s = .next again) ∧
      (op = 0x09 → exec (.fill a cyc) s = .next again) ∧ (op = 0x0D → exec .resume s = .next again) ∧
      (op = 0x14 → exec .shrink s = .next again)) ∧
    -- PLAN
    (s.NewCommand 6 x u →
      let key := cmdKey 6 x.cCtx
      let w := ((u.obeys 6 x).reach a).mapRcv fun r => { r with
        plan := some (x.cA0, if x.cFlags % 2 = 1 then some (x.cSubject % 2 ^ 14) else none) }
      let v := w.freeze key x.cGen
      let l := v.protected
      (4 ≤ w.rcvState → exec (.plan a cyc) s = .next w) ∧
      (w.rcvState < 4 → exec (.plan a cyc) s = .next ((l.foldl (fun s c => s.ctxReset c a cyc false)
        ((v.put F.RCV_STATUS.state 2).mapRcv fun r => { r with restoring := l })).restoredAll key x.cGen))) ∧
    -- REWIRE, at the spare and at a neighbour
    (s.NewCommand 7 x u →
      let w := u.obeys 7 x
      let rewired (v : State) : State := v.reply (cmdKey 7 x.cCtx) x.cGen { op := 0x08, gen := x.cGen }
      (w.get F.RCV_CTL.spare = 1 → w.node = x.cA1 % 2 ^ 14 → exec .rewire s = .next (rewired (w.assume (x.cSubject % 2 ^ 14)))) ∧
      (w.get F.RCV_CTL.spare ≠ 1 ∨ w.node ≠ x.cA1 % 2 ^ 14 → exec .rewire s = .next (rewired (w.reroute (x.cA1 % 2 ^ 14))))) ∧
    -- FILL, at the spare, and at a module with no part in it
    (s.NewCommand 9 x u →
      let w := (u.obeys 9 x).reach a
      (w.node = x.cSubject % 2 ^ 14 → w.rcvState = 5 ∨ w.rcvState = 6 → w.vrnOn x.cCtx = true →
        exec (.fill a cyc) s = .next (w.fillSpare x)) ∧
      (w.node = x.cSubject % 2 ^ 14 → w.rcvState = 5 ∨ w.rcvState = 6 → w.vrnOn x.cCtx = false →
        exec (.fill a cyc) s = .next (w.abandonFill x 2)) ∧
      (w.node ≠ x.cSubject % 2 ^ 14 → x.fillSources.filter (fun q => q.1 == w.node) = [] →
        exec (.fill a cyc) s = .next (w.startCopies x.cCtx a cyc)) ∧
      (∀ (n role j : Nat), w.node ≠ x.cSubject % 2 ^ 14 → x.fillSources.filter (fun q => q.1 == w.node) = [(n, role, j)] →
        (role = 1 → exec (.fill a cyc) s = .next ((w.fillBuddy x (x.cSubject % 2 ^ 14)).startCopies x.cCtx a cyc)) ∧
        (role = 2 → exec (.fill a cyc) s = .next ((w.fillLog x (x.cSubject % 2 ^ 14)).startCopies x.cCtx a cyc)) ∧
        (role = 3 → exec (.fill a cyc) s = .next ((w.fillParity x (x.cSubject % 2 ^ 14)).startCopies x.cCtx a cyc)))) ∧
    -- RESUME and SHRINK
    (s.NewCommand 0x0D x u → exec .resume s = .next ((u.obeys 0x0D x).mapRcv fun r => { r with resume := some (x.cA1, x.cA0) })) ∧
    (s.NewCommand 0x14 x u →
      exec .shrink s = .next (((u.obeys 0x14 x).mapRcv fun r => { r with shrunk := true }).freeze (cmdKey 0x14 x.cCtx) x.cGen)) ∧
    -- FILL_COMMIT of a fill of one context
    (∀ c n : Nat, s.rcvState = 6 → s.rcv.fills = [(c, n)] → (s.localSlot c n).isSome = true → (s.vctx c).ins = [] →
      let v := (List.range ((s.get (F.VRN_CTX_W2.nmf c)))).foldl (fun (s : State) k =>
        let i := s.get (F.VRN_CTX_W2.mflow c) + k
        (s.setWord (w0Addr i) 0).setFlow i FlowSt.fresh) ((s.add F.RCV_CNT_FILL.count 1).put F.RCV_STATUS.state 2)
      let w := v.mapRcv fun r => { r with
        fills := [], restoring := [c], plan := some (n, (v.rcv.plan.bind (·.2)).orElse fun _ => some v.node) }
      s.regsWf = true → exec .fillCommit s =
        .next ((w.reply (cmdKey 9 c) w.gen { op := 0x0A, ctx := c, a0 := n, gen := w.gen }).createCtx c n)) ∧
    -- RESTORE_COMPLETE
    (∀ (c : Fin 64) (n k : Nat) (lost : Option Nat), s.restoreReady c = true → s.rcv.plan = some (n, lost) →
      s.planSlot c = some k →
      let sec := ((s.reach a).vslot c k).sec
      let l := (s.reach a).restoreLoad c cyc sec
      (l.2 ≠ 0 → exec (.restoreComplete c a cyc) s = .next l.1) ∧
      (l.2 = 0 →
        let v := l.1.restoreState c sec
        let r := (List.range 4).foldl (fun s d => s.restoreBulk c d k (v.rcv.roles.any fun q => q.1 == c && q.2.2 == 3) sec) v
        let w := (r.restoreStip c n sec).resumeRecord c n lost
        let b := w.get F.TICK_CTX_BIND.bind
        let t := (w.put F.TICK_CTX_BIND.bind (b - (b / 2 ^ c.val % 2) * 2 ^ c.val + ((sec.get? Sec.bound 0).getD 0) * 2 ^ c.val)).loadSpan c n
        let z := (((List.range 4).foldl (fun s d => s.start d c cyc a) t).add F.RCV_CNT_RESTORE.count 1).mapRcv fun r => { r with
          restoring := r.restoring.erase c, roles := r.roles.filter fun q => q.1 != c }
        exec (.restoreComplete c a cyc) s = .next (z.restoredAll (cmdKey 6 0) z.gen))) ∧
    -- STATE, at the standby
    (s.popCtrl 0x13 = some (x, u) → u.rcvOn = true → u.gen ≤ x.cGen →
      exec .state s = .next (((u.put F.RCV_STATUS.gen x.cGen).mapRcv fun r => { r with
        parts := (r.parts.filter fun q => q.1 != x.cGen || (x.cA2 != 0 && q.2.1 != x.cA2)) ++ [(x.cGen, x.cA2, x)] }).adopt x.cGen))

/-- R387, R388, R393, R395, R398, R402: the coordinator hears of losses, collects the members' answers, and goes from state
to state. -/
def Obligations.Coordination : Prop :=
  ∀ (s u : State) (x : Flit) (a : Nat),
    -- S is the greatest step that every condition admits
    (∀ n : Nat, s.chooseS = some n → s.stepOk n = true ∧ (∃ y ∈ s.rcv.infos, y.has n = true) ∧
      ∀ y ∈ s.rcv.infos, ∀ m : Nat, y.has m = true → s.stepOk m = true → m ≤ n) ∧
    -- CTRL_HEARTBEAT_TIMER, CTRL_HEARTBEAT, HEARTBEAT_MISS
    (s.rcvOn = true → s.rcv.beat + s.hbFc ≤ a →
      let v := (s.reach a).mapRcv fun r => { r with beat := a }
      exec (.ctrlHeartbeatTimer a) s = .next (v.toCoords { op := 0x01, a0 := v.get F.TICK_NUMBER.number, gen := v.gen })) ∧
    (s.popCtrl 0x01 = some (x, u) → x.cOrigin ∉ u.rcv.gone → exec (.ctrlHeartbeat a) s = .next (u.mapRcv fun r => { r with
      heard := (r.heard.filter fun q => q.1 != x.cOrigin) ++ [(x.cOrigin, a, 0)] })) ∧
    (∀ (n : BitVec 14) (t m : Nat), s.coordOn = true → (s.rcv.heard.find? fun q => q.1 == n.toNat) = some (n.toNat, t, m) →
      t + (m + 1) * s.hbFc ≤ a →
      let v := ((s.reach a).add F.RCV_CNT_HBMISS.count 1).mapRcv fun r => { r with
        heard := r.heard.map fun q => if q.1 = n.toNat then (n.toNat, t, m + 1) else q }
      (m + 1 < v.get F.RCV_PLAN.hb_lim → exec (.heartbeatMiss n a) s = .next v) ∧
      (v.get F.RCV_PLAN.hb_lim ≤ m + 1 → exec (.heartbeatMiss n a) s = .next (v.declareLost n.toNat a))) ∧
    -- FAIL, LINKDOWN, CONFIRM_WINDOW_EXPIRY, EVENT
    (s.popCtrl 0x02 = some (x, u) → (u.coordOn = true → exec (.fail a) s = .next (u.declareLost x.cOrigin a)) ∧
      (u.coordOn = false → exec (.fail a) s = .next u)) ∧
    (s.popCtrl 0x03 = some (x, u) → u.coordOn = true →
      let n := x.cSubject % 2 ^ 14
      let v := (u.reach a).mapRcv fun r => { r with links := r.links ++ [(n, x.cOrigin, a)] }
      let first := ((v.rcv.links.filter fun q => q.1 == n).head?.map fun q => q.2.2).getD a
      (n ∈ v.rcv.gone → exec (.linkdown a) s = .next v) ∧
      (n ∉ v.rcv.gone → a ≤ first + fcMs (v.get F.RCV_PLAN.confirm_ms) → v.get F.RCV_PLAN.confirm ≤ (v.neighbours n).length →
        exec (.linkdown a) s = .next (v.declareLost n a)) ∧
      (n ∉ v.rcv.gone → (v.neighbours n).length < v.get F.RCV_PLAN.confirm → exec (.linkdown a) s = .next v)) ∧
    (∀ (n : BitVec 14) (q : Nat × Nat × Nat) (l : List (Nat × Nat × Nat)), (s.rcv.links.filter fun q => q.1 == n.toNat) = q :: l →
      s.coordOn = true → n.toNat ∉ s.rcv.gone → q.2.2 + fcMs (s.get F.RCV_PLAN.confirm_ms) ≤ a →
      exec (.confirmWindowExpiry n a) s = .next ((((s.reach a).add F.RCV_CNT_LINK.count (l.length + 1)).rcvEvent 2 n.toNat).mapRcv fun r =>
        { r with links := r.links.filter fun q => q.1 != n.toNat })) ∧
    (s.popCtrl 0x04 = some (x, u) → u.coordOn = true →
      let v := u.rcvEvent (x.cA2 % 16) x.cOrigin
      (v.cstate = 1 → exec (.event a) s = .next (v.enterDecide a)) ∧ (v.cstate ≠ 1 → exec (.event a) s = .next v)) ∧
    -- SNAPINFO, REWIRED, FILLED, ABANDON, RESTORED
    (s.popCtrl 0x05 = some (x, u) →
      let v := u.addInfo x.snapInfo
      (v.coordOn = true → exec (.snapinfo a) s = .next (v.decideNow a)) ∧ (v.coordOn = false → exec (.snapinfo a) s = .next v)) ∧
    (s.popCtrl 0x08 = some (x, u) → x.cGen = u.gen →
      let v := u.mapRcv fun r => { r with rewired := (r.rewired ++ [x.cOrigin]).eraseDups }
      ∀ n : Nat, v.rcv.lost = some n → v.coordOn = true → v.cstate = 3 →
        ((∀ m ∈ n :: v.rcv.neigh, m ∈ v.rcv.rewired) → exec (.rewired a) s = .next (v.enterC 4 a).sendFills) ∧
        (∀ m ∈ n :: v.rcv.neigh, m ∉ v.rcv.rewired → exec (.rewired a) s = .next v)) ∧
    (s.popCtrl 0x0A = some (x, u) → x.cGen = u.gen → u.coordOn = true → u.cstate = 4 → u.rcv.lost = some x.cOrigin →
      let n := x.cOrigin
      let v := (u.jobCtxs.foldl (fun s c => s.addInfo ⟨n, c, some x.cA0, none, []⟩) u).mapRcv fun r => { r with
        gone := r.gone.erase n, lost := none, spare := none, heard := (r.heard.filter fun q => q.1 != n) ++ [(n, a, 0)] }
      (v.rcv.queue = [] → exec (.filled a) s = .next ((v.enterC 5 a).tryResume a)) ∧
      (v.rcv.queue ≠ [] → v.spareNow.isSome = true → exec (.filled a) s = .next (v.enterDecide a))) ∧
    (s.popCtrl 0x0B = some (x, u) → u.coordOn = true → u.cstate = 4 → x.cGen = u.gen →
      u.dropFill.rcv.lost = some x.cOrigin → exec (.abandon a) s = .next (u.dropFill.failSpare.enterDecide a)) ∧
    (s.popCtrl 0x0C = some (x, u) → x.cGen = u.gen →
      let v := u.mapRcv fun r => { r with restored := (r.restored ++ [x.cOrigin]).eraseDups }
      (v.coordOn = true → exec (.restored a) s = .next (v.tryResume a)) ∧ (v.coordOn = false → exec (.restored a) s = .next v)) ∧
    -- RESUME_TICK
    (∀ t : Nat, s.rcv.resumeAt = some t → s.coordOn = true → t ≤ a → exec (.resumeTick a) s = .next ((((s.reach a).mapRcv fun r => { r with
      resumeAt := none }).put F.TICK_NEXT.next s.rcv.number).emitTick a)) ∧
    -- the timeouts
    (s.coordOn = true → s.cstate = 3 → s.rcv.since + fcMs (s.get F.RCV_PLAN.rewire_ms) ≤ a →
      exec (.rewireTimeout a) s = .next ((s.reach a).failSpare.enterDecide a)) ∧
    (s.coordOn = true → s.cstate = 4 → s.rcv.since + fcMs (10 * s.get F.RCV_PLAN.fill_10ms) ≤ a →
      exec (.fillTimeout a) s = .next ((s.reach a).dropFill.failSpare.enterDecide a)) ∧
    (s.coordOn = true → s.cstate = 5 → s.rcv.since + fcMs (10 * s.get F.RCV_PLAN.restore_10ms) ≤ a →
      exec (.restoreTimeout a) s = .next ((s.reach a).enterDecide a)) ∧
    -- RETRY, ABORT, SHRINK_DONE
    (s.reached F.RCV_CMD.retry.addr = true → s.coordOn = true →
      (s.cstate = 7 → exec (.retry a) s = .next ((s.reach a).enterDecide a)) ∧
      (s.cstate = 7 → exec (.abort a) s = .next ((((s.reach a).stopEmission).mapRcv fun r => { r with
        lost := none, queue := [], restored := [], links := [] }).enterC 1 a)) ∧
      (s.cstate = 6 → exec (.shrinkDone a) s = .next ((((s.reach a).mapRcv fun r => { r with
        lost := none, restored := [] }).enterC 5 a).sendPlan)))

/-! Errors, maps and repair (R229-R233, R407-R432), the loader (R443-R448) and Pentimento's ring (R459). -/

/-- R409: doorbells. An increment that takes a total to its armed threshold rings, and so does an arming that finds the
threshold met; ringing disarms. -/
def Obligations.DoorbellsRing : Prop :=
  ∀ (s : State) (i : Fin 512), s.regsWf = true →
    -- ERRC_UPDATE
    (∀ (n : Nat) (l : List (Nat × Nat)), s.errcPending = (i.val, n) :: l →
      let u := ({ s with errcPending := l } : State).add (F.ERRC_CNT.count i) n
      (u.get (F.ERRC_THR.armed i) = 1 → u.get (F.ERRC_THR.thr i) ≤ u.get (F.ERRC_CNT.count i) →
        exec .errcUpdate s = .next (u.ringDoorbell i)) ∧
      (u.get (F.ERRC_THR.armed i) = 0 ∨ u.get (F.ERRC_CNT.count i) < u.get (F.ERRC_THR.thr i) → exec .errcUpdate s = .next u)) ∧
    -- ERRC_THR_ARM
    (∀ v : Word, s.reached (F.ERRC_THR.thr i).addr = true →
      let u := s.setWord (F.ERRC_THR.thr i).addr (v &&& 0x3FFFFFFFFFFFF#64 ||| 0x4000000000000#64)
      u.get (F.ERRC_THR.armed i) = 1 ∧
      (u.get (F.ERRC_THR.thr i) ≤ u.get (F.ERRC_CNT.count i) → exec (.errcThrArm i v) s = .next (u.ringDoorbell i)) ∧
      (u.get (F.ERRC_CNT.count i) < u.get (F.ERRC_THR.thr i) → exec (.errcThrArm i v) s = .next u)) ∧
    -- ringing disarms
    (s.ringDoorbell i).get (F.ERRC_THR.armed i) = 0

/-- R229, R231, R233, R411, R415, R427, R429: the doorbell ring's registers, suspicions and margins, the tile maps, and
repair commits. -/
def Obligations.MapsAndCommits : Prop :=
  ∀ (s : State) (d : Fin 4) (a : Nat),
    -- R229: the served column, and a map's rules
    (∀ m l : Nat, ((subAt m 0).v = true → (subAt m 0).log = l → mapServes m l = (subAt m 0).phys) ∧
      (mapOk m = true → (subAt m 1).v = true → (subAt m 1).log = l → mapServes m l = (subAt m 1).phys) ∧
      ((subAt m 0).v = false ∨ (subAt m 0).log ≠ l → (subAt m 1).v = false ∨ (subAt m 1).log ≠ l → mapServes m l = l)) ∧
    -- ERRC_DBADDR_WRITE
    (∀ v : Word, s.reached F.ERRC_DBADDR.addr.addr = true →
      exec (.errcDbaddrWrite .dbaddr v) s = .next ((s.setWord F.ERRC_DBADDR.addr.addr (v &&& 0xFFFFFFFFFFFFF000#64)).setWord
        F.ERRC_DBPTR.tail.addr 0) ∧
      exec (.errcDbaddrWrite .dbcfg v) s = .next ((s.setWord F.ERRC_DBCFG.vector.addr (v &&& 0x1FFFF#64)).setWord
        F.ERRC_DBPTR.tail.addr 0)) ∧
    -- SUSPECT_EVENT, SUSPICION_EXPIRY
    (∀ q : Nat × Nat × Nat, s.easUp a = true → s.get F.MOD_EAS.safe = 0 →
      let u := s.reach a
      (u.rep.suspects.find? fun q => q.1 == d.val && (u.get F.REP_POLICY.auto_margin == 1 || q.2.2 == 6)) = some q →
      let v : State := { u with rep := { u.rep with suspects := u.rep.suspects.erase q } }
      (q.2.2 = 6 → exec (.suspectEvent d a) s = .next ((v.retire d (physRow q.2.1) (physCol q.2.1) true).showUnfused d)) ∧
      (q.2.2 ≠ 6 → exec (.suspectEvent d a) s = .next ((v.takeSuspect q.2.1 a).showUnfused d))) ∧
    (∀ (p : Nat) (w : State), s.inFlash (physDie p) (physRow p) (physCol p) = false → s.suspected p = false →
      ({ s with rep := { s.rep with susp := s.rep.susp ++ [(p, a + fcMs (1000 * s.get F.REP_POLICY.persist_s))] } } : State).marginStep
        (physDie p) = some w → s.takeSuspect p a = w) ∧
    (let u := s.reach a
     exec (.suspicionExpiry d a) s = .next { u with rep := { u.rep with
      susp := u.rep.susp.filter fun q => physDie q.1 != d || decide (a < q.2) } }) ∧
    -- REP_MARGIN_WRITE
    (∀ v : Word, s.reached (F.REP_MARGIN.vstep d).addr = true →
      (s.locked 3 = true → exec (.repMarginWrite d v) s = .next s.lockViolation) ∧
      (s.locked 3 = false → v.field 0 3 ≤ 4 → v.field 4 3 ≤ 4 → exec (.repMarginWrite d v) s =
        .next (((s.put (F.REP_MARGIN.vstep d) (v.field 0 3)).put (F.REP_MARGIN.cstep d) (v.field 4 3)).setCeiling d)) ∧
      (s.locked 3 = false → 4 < v.field 0 3 → 4 < v.field 4 3 → exec (.repMarginWrite d v) s = .next (s.setCeiling d))) ∧
    -- DIE_TMAP_NEXT_WRITE
    (∀ (r : Fin 48) (v : Word) (cyc : Nat), s.reached (tmapNextAddr d r) = true →
      let m := v.toNat % 2 ^ 60
      (s.locked 4 = true → exec (.dieTmapNextWrite d r ⟨v, cyc⟩) s = .next s.lockViolation) ∧
      (s.locked 4 = false → mapOk m = false → exec (.dieTmapNextWrite d r ⟨v, cyc⟩) s = .next (s.put (F.DIE_TMAP_CTL.reject d) 1)) ∧
      (s.locked 4 = false → mapOk m = true → s.rowHolds d r = none → exec (.dieTmapNextWrite d r ⟨v, cyc⟩) s = .next (s.applyMap d r m)) ∧
      (s.locked 4 = false → mapOk m = true → (s.rowHolds d r).isSome = true →
        let w := (s.setWord (tmapNextAddr d r) (BitVec.ofNat 64 m)).put (F.DIE_TMAP_CTL.pending d)
          (s.get (F.DIE_TMAP_CTL.pending d) ||| 2 ^ r.val)
        exec (.dieTmapNextWrite d r ⟨v, cyc⟩) s =
          .next { w with rep := { w.rep with tmapAt := SMap.put w.rep.tmapAt (48 * d.val + r.val) cyc 0 } })) ∧
    -- REP_COMMIT_GO
    (s.reached (F.REP_COMMIT.go d).addr = true →
      let l := (s.unfused d).filter fun x => !x.prov &&
        !(s.rep.migs.any fun y => y.die == d.val && y.row == x.row && y.p == x.col && y.purpose == 0)
      (s.locked 2 = true → exec (.repCommitGo d) s = .next s.lockViolation) ∧
      (s.locked 2 = false → s.get (F.REP_COMMIT.busy d) = 1 ∨ l = [] ∨ 8 ≤ s.get (F.REP_COMMIT.used d) →
        exec (.repCommitGo d) s = .next (s.put (F.REP_COMMIT.reject d) 1)) ∧
      (s.locked 2 = false → s.get (F.REP_COMMIT.busy d) = 0 → l ≠ [] → s.get (F.REP_COMMIT.used d) < 8 →
        exec (.repCommitGo d) s = .next (({ s with rep := { s.rep with commit := SMap.put s.rep.commit d (l.take 16) [] } } : State).put
          (F.REP_COMMIT.busy d) 1))) ∧
    -- FUSE_PROGRAM_COMPLETE
    ∀ good : Bool, s.get (F.REP_COMMIT.busy d) = 1 →
      let l := SMap.getD s.rep.commit d []
      let k := s.get (F.REP_COMMIT.used d)
      let u := (List.range 3).foldl (fun s w => s.put (F.REP_FUSE_E.entries d k w) (fuseWords l / 2 ^ (64 * w) % 2 ^ 64)) s
      let v := (((u.put (F.REP_FUSE_3.count d k) l.length).put (F.REP_FUSE_3.programmed d k) good.toNat).put
        (F.REP_COMMIT.used d) (k + 1)).put (F.REP_COMMIT.busy d) 0
      let z : State := { v with rep := { v.rep with commit := SMap.put v.rep.commit d [] [] } }
      (good = true → exec (.fuseProgramComplete d good) s = .next (State.showUnfused { z with
        rep := { z.rep with vol := z.rep.vol.filter fun x => !l.contains x } } d).mirrorFuses) ∧
      (good = false → exec (.fuseProgramComplete d good) s =
        .next (((z.put (F.REP_COMMIT.fail d) 1).errc 6 1).showUnfused d).mirrorFuses)

/-- R25, R416-R427: migrations start, are copied and run out of time; audits start; the rolling scan goes from row to row. -/
def Obligations.MigrationsAndScan : Prop :=
  ∀ (s : State) (d : Fin 4) (r : Fin 48) (a : Nat),
    let u := s.reach a
    -- MIGRATION_START: a retirement with a free spare, else a return, else a cover
    (let pick (k : Nat) : Option Mig := (s.rep.wants.filter fun x => x.die == d.val && x.row == r.val).find? fun x => x.purpose == k
     (∀ (q : Nat) (x : Mig), s.freeSpare d r = some q → pick 0 = some x →
       exec (.migrationStart d r) s = .next ((s.dropWant x).startMig { x with q := q })) ∧
     (∀ x : Mig, s.freeSpare d r = none ∨ pick 0 = none → pick 2 = some x →
       exec (.migrationStart d r) s = .next ((s.dropWant x).startMig { x with q := x.log })) ∧
     (∀ (q : Nat) (x : Mig), s.freeSpare d r = some q → pick 0 = none → pick 2 = none → pick 1 = some x →
       exec (.migrationStart d r) s = .next ((s.dropWant x).startMig { x with q := q }))) ∧
    -- COPY_COMPLETE: the copied rows are counted together when it ends, the model's choice (log 100)
    (∀ (q : Fin 34) (x : Mig),
      (u.rep.migs.find? fun x => x.die == d.val && x.row == r.val && x.q == q.val && x.copied.isNone) = some x →
      let v : State := { u with rep := { u.rep with migs := u.rep.migs.map fun y => if y = x then { y with copied := some a } else y } }
      let w := (v.dieEvent d 0x4D 32768).onTileLow (physOf d r x.p) TW.copyReads
      exec (.copyComplete d r q a) s = .next (w.mapTile (physOf d r q) fun t => (w.tile (physOf d r x.p)).copiedTo t)) ∧
    -- MIGRATION_TIMEOUT, of a migration copied a second ago
    (∀ (q : Fin 34) (x : Mig) (c : Nat), u.rep.migs = [x] → x.die = d → x.row = r → x.q = q → x.copied = some c → c + fcMs 1000 ≤ a →
      let v := (u.dropMig x).errc (dieErrc d 0x32) 1
      (x.purpose = 0 → exec (.migrationTimeout d r q a) s = .next { v with rep := { v.rep with deferred := v.rep.deferred ++ [x] } }) ∧
      (x.purpose = 1 → exec (.migrationTimeout d r q a) s = .next (v.scanLeave d r x.p a false)) ∧
      (x.purpose = 2 → exec (.migrationTimeout d r q a) s = .next (v.want (Mig.request d r 2 x.p x.log))) ∧
      (x.purpose = 3 → exec (.migrationTimeout d r q a) s = .next (v.endAudits (physOf d r x.p)))) ∧
    -- AUDIT_START
    (∀ q l : Nat, u.get (F.REP_AUD_CTL.en d) = 1 → (u.audit d r).phase = 0 →
      (u.audit d r).ended + fcMs (u.get (F.REP_AUD_CTL.gap_ms d)) ≤ a → u.spareWants d r 1 < u.freeSpares d r →
      ([32, 33].find? fun q => u.spareFree d r q && !u.suspected (physOf d r q)) = some q →
      u.nextTarget d r (u.audit d r).target = some l → exec (.auditStart d r a) s = .next (u.beginAudit d r l q none)) ∧
    -- ROLLING_SCAN_ROW
    (let x := u.scanOf d
     u.get (F.REP_SCAN_CTL.en d) = 1 → u.get (F.REP_SCAN_STATUS.active d) = 0 →
     x.ended + fcMs (u.get (F.REP_SCAN_CTL.gap_ms d)) ≤ a → u.rowGesso d x.next = false → u.erasing = false →
     let v := (u.put (F.REP_SCAN_STATUS.row d) x.next).put (F.REP_SCAN_STATUS.active d) 1
     let spare := [32, 33].any fun q => v.spareFree d x.next q || v.auditing d x.next q
     (spare = true → exec (.rollingScanRow d a) s = .next ((v.setScan d { x with
       todo := (List.range 34).filter fun c => !mapRetired (v.mapNext d x.next) c, cur := [] }).scanAdvance d a 40)) ∧
     (spare = false →
       exec (.rollingScanRow d a) s = .next ((v.setScan d { x with todo := [], cur := [] }).scanAdvance d a 40))) ∧
    -- SCAN_RESULT, of a column under rolling scan and of a provisionally retired one
    (∀ (p : PhysTile) (pass : Bool),
      let u := s.reach a
      (∀ y : ScanCol, ((u.scanOf p.die).cur.find? fun y => y.col == p.col.val && !y.waits) = some y →
        u.scanRow p.die = p.row → u.get (F.REP_SCAN_STATUS.active p.die) = 1 →
        exec (.scanResult p pass a) s = .next ((u.rollingResult p.die p.row y pass a).showUnfused p.die)) ∧
      (((u.scanOf p.die).cur.find? fun y => y.col == p.col.val && !y.waits) = none →
        (u.rep.vol.any fun x => x.die == p.die.val && x.row == p.row.val && x.col == p.col.val && x.prov) = true →
        (u.tile (physOf p.die p.row p.col)).gesso = false →
        exec (.scanResult p pass a) s = .next (((u.mapTile (physOf p.die p.row p.col) Tile.scanned).provResult
          (physOf p.die p.row p.col) pass).showUnfused p.die)))

/-- R443-R449, R459, R467: rows are assigned to a context, an image is loaded or restored, the load ends, the context starts, and
a sample ring is set up. -/
def Obligations.LoaderCommands : Prop :=
  ∀ (s : State) (d : Fin 4) (c : Fin 64) (cyc a : Nat),
    -- LDR_CTX_ROWS_WRITE
    (∀ v : BitVec 48, s.reached (F.LDR_CTX_ROWS.rows d c).addr = true →
      let w := s.put (F.LDR_CTX_ROWS.rows d c) v.toNat
      let free := ∀ k < 64, k ≠ c.val → s.ldrRows d k &&& v.toNat = 0
      (free → s.ldrState d c < 4 → v = 0#48 → exec (.ldrCtxRowsWrite d c v) s =
        .next (((w.setLdr d c LdrCtx.fresh).setLdrState d c 0).showGesso d c)) ∧
      (free → s.ldrState d c < 4 → v ≠ 0#48 → s.get (F.HCTX_STATUS.state c) ≠ 0 → s.gessoRows d v.toNat = 0 →
        exec (.ldrCtxRowsWrite d c v) s = .next (((w.setLdrState d c 3).showGesso d c).startHeld d c)) ∧
      (free → s.ldrState d c < 4 → v ≠ 0#48 → s.get (F.HCTX_STATUS.state c) ≠ 0 → s.gessoRows d v.toNat ≠ 0 →
        exec (.ldrCtxRowsWrite d c v) s = .next ((w.setLdrState d c 2).showGesso d c)) ∧
      (4 ≤ s.ldrState d c → exec (.ldrCtxRowsWrite d c v) s = .next (s.ldrReject d c))) ∧
    -- LOAD, LOAD_RESTORE
    (∀ auto : Bool, s.reached (F.LDR_CTX_CMD.load d c).addr = true → s.get (F.HCTX_STATUS.state c) < 2 →
      let held (restore : Bool) : State := s.setLdr d c { s.ldrOf d c with busy := true, restore := restore, auto := auto }
      (s.ldrState d c = 3 → exec (.load d c auto) s = .next ((held false).loadBegin d c false) ∧
        exec (.loadRestore d c auto) s = .next ((held true).loadBegin d c true)) ∧
      (s.ldrState d c = 2 → exec (.load d c auto) s = .next (held false) ∧ exec (.loadRestore d c auto) s = .next (held true)) ∧
      (s.ldrState d c ≠ 2 → s.ldrState d c ≠ 3 → exec (.load d c auto) s = .next (s.ldrReject d c) ∧
        exec (.loadRestore d c auto) s = .next (s.ldrReject d c))) ∧
    -- LOAD_FINISH
    (s.ldrState d c = 4 →
      let x := s.ldrOf d c
      let l := s.loadRun d c cyc x.restore
      let u := l.1.setLdr d c { l.1.ldrOf d c with busy := false }
      (l.2 ≠ 0 → exec (.loadFinish d c cyc a) s = .next ((u.setLdrState d c 7).put (F.LDR_CTX_STATUS.err d c) l.2)) ∧
      (l.2 = 0 → x.auto = false → exec (.loadFinish d c cyc a) s = .next (u.setLdrState d c 5)) ∧
      (l.2 = 0 → x.auto = true → exec (.loadFinish d c cyc a) s = .next ((u.setLdrState d c 5).start d c cyc a))) ∧
    -- START
    (s.reached (F.LDR_CTX_CMD.load d c).addr = true → s.ldrState d c = 5 →
      let u := (s.reach a).startTiles d c cyc
      ((∀ k < 4, s.ldrState k c ≠ 6) → c.val ∉ u.rcv.restoring → exec (.start d c cyc a) s =
        .next (((u.put (F.SKB_SEQ.next c) 0).mapVctx c fun x => { x with imgSent := false }).skbLog c 0 a { kind := 3 })) ∧
      ((∃ k < 4, s.ldrState k c = 6) ∨ c.val ∈ u.rcv.restoring → exec (.start d c cyc a) s = .next u)) ∧
    -- a started tile
    (∀ (t : Tile) (g seed model : Nat) (pen : Bool),
      let u := t.start g c seed model cyc pen true
      u.run = .running ∧ u.issued = cyc ∧ u.started = cyc ∧ u.released = cyc ∧ u.sregs = t.sregs ∧ u.pal = t.pal) ∧
    -- PEN_RING_WRITE
    (∀ v : Word, s.reached (F.PEN_RING.rgn d).addr = true → exec (.penRingWrite d v) s = .next
      ((s.setWord (0x103108 + 0x100000 * d) (v &&& 0xFFFFFFFFFFFFF#64)).setWord (0x103110 + 0x100000 * d) 0))

/-- R36, R52, R53: a TICK is accepted, or counted as a duplicate; a die barrier releases its members 40 tc after the last of
them, once the staged maps and migrations of their rows have taken effect. -/
def Obligations.TicksAndBarriers : Prop :=
  ∀ (s u : State) (x : Flit) (a : Nat) (cyc : DieCycles),
    -- TICK, at a module that is not the master
    (s.popTick 1 = some (x, u) →
      let v := (u.reach a).claimHears x
      let w := if x.tMaster = v.get F.TICK_PEERS.master_id then v.mapTick fun t => { t with heard := a } else v
      let y := w.mapTick fun t => { t with known := noteTick x.tNumber t.known }
      v.isMaster = false →
      (w.get F.TICK_NUMBER.number < x.tNumber → exec (.tick a cyc) s = .next (y.acceptTick x a cyc.of)) ∧
      (x.tNumber ≤ w.get F.TICK_NUMBER.number → exec (.tick a cyc) s = .next (y.count F.TICK_CNT_DUP.count 0xA 1))) ∧
    -- BARRIER_RELEASE
    (∀ (d : Fin 4) (c : Fin 64),
      let l := (s.members d c).map (·.2)
      let g := (l.map fun p => (s.tile p).arrived).foldl max 0 + 40
      -- a map written in the release cycle takes effect at the following release (R234)
      let w := (s.applyStaged d (s.ldrRows d c) fun r => decide (SMap.getD s.rep.tmapAt (48 * d.val + r) 0 < g)).migsAt d
        (s.ldrRows d c) fun x _ => x.ok
      let free (s : State) (p : Nat) : State :=
        if (s.tile p).run = .atBarrier then s.onTileLow p fun x => (((x.perf 0x09 (g - (s.tile p).arrived)).perf 0x01
          (g - 1 - (s.tile p).issued)).perf 0x0B (s.tile p).xlen).map fun t => t.release g false
        else if (s.tile p).run = .ended then s.mapTile p fun t => t.release g true else s
      ((∀ p ∈ l, (s.tile p).arrivedBar = true) → (∃ p ∈ l, (s.tile p).run = .atBarrier) → exec (.barrierRelease d c) s =
        .next (State.dieEvent ((w.members d c).foldl (fun s q => free s q.2) w) d 0x47 1)) ∧
      ((∃ p ∈ l, (s.tile p).arrivedBar = false) → exec (.barrierRelease d c) s = .next s)) ∧
    -- a released tile
    (∀ (t : Tile) (g : Nat), (t.release g false).run = .running ∧ (t.release g false).released = g ∧
      (t.release g false).inPhase = true ∧ (t.release g false).phaseLen = t.xlen ∧ (t.release g false).sregs = t.sregs)

/-! The block as a whole. -/

namespace Sys2Proof.Machine

/-- A state in canonical form: registers, the contexts' MSI-X tables, tiles and HBM. -/
def State.Canonical (s : State) : Prop :=
  s.regsWf = true ∧ SMap.wf s.vf (fun _ => 0) = true ∧ s.tilesWf = true ∧ s.hbmWf = true

end Sys2Proof.Machine

/-- A step takes the command at the front of the queue and runs it on the state with the queue's rest. The queue is the
model's: commands arrive in the order in which they are given (notes/assumptions/2). -/
def Obligations.StepRunsFrontCommand : Prop :=
  ∀ (s : State) (c : Instr) (rest : List Instr), step { s with pending := c :: rest } = exec c { s with pending := rest }

/-- With no command waiting the block idles: the model's choice (notes/assumptions/2), not the manual's. -/
def Obligations.StepIdlesOnEmptyQueue : Prop := ∀ s : State, s.pending = [] → step s = .next s

/-- The state after reset is canonical. -/
def Obligations.ResetCanonical : Prop := State.reset.Canonical

/-- Every step keeps the canonical form, from every canonical state: registers and memories list their contents once, by rising
address, and never at what an unlisted address reads as; scalar register 0 is never listed (R64: s0 reads as zero). -/
def Obligations.StepKeepsCanonical : Prop := ∀ s u : State, s.Canonical → step s = .next u → u.Canonical

/-- No command changes the queue of those that wait behind it. -/
def Obligations.CommandsKeepTheQueue : Prop :=
  ∀ (i : Instr) (s u : State), s.Canonical → exec i s = .next u → u.pending = s.pending

/-- Every command completes: none faults; a well-formed one is refused only if it is a Knakor instruction of the test access
port while Knakor is open, and an ill-formed one always. -/
def Obligations.CommandsComplete : Prop :=
  ∀ (i : Instr) (s : State), (∀ f : Fault, exec i s ≠ .fault f) ∧
    (i.wf = true → i ≠ .tapInstruction .knakor ∨ s.debugOpen = false → ∃ u : State, exec i s = .next u) ∧
    (i.wf = true → i = .tapInstruction .knakor → s.debugOpen = true → exec i s = .refused .knakorTap) ∧
    (i.wf = false → exec i s = .refused .illFormed)
end

