-- ==== Sys2Proof/Laws/Asks.lean ====
section
/-! SUPPORT. What a tile's instruction does outside the tile leaves every request on its way to a counter (R330). -/

namespace Sys2Proof.Machine

/-- A request is on its way. -/
structure State.Asks (k : SyncReq) (s : State) : Prop where
  mem : k ∈ s.syn.reqs

theorem State.asks_lit {k : SyncReq} {s : State} (h : k ∈ s.syn.reqs) : s.Asks k := ⟨h⟩

theorem State.Asks.raw {k : SyncReq} {s : State} (h : s.Asks k) : k ∈ s.syn.reqs := h.mem

theorem State.asks_cut {k : SyncReq} {s : State} {G : Prop} (h : s.Asks k) (g : s.Asks k → G) : G := g h

theorem State.asks_ite {k : SyncReq} {c : Prop} [Decidable c] {a b : State} (ha : c → a.Asks k)
    (hb : ¬ c → b.Asks k) : (if c then a else b).Asks k := by
  split
  · exact ha ‹_›
  · exact hb ‹_›

theorem State.asks_foldl {k : SyncReq} {α : Type} (f : State → α → State) (l : List α) (s : State)
    (hf : ∀ s a, s.Asks k → (f s a).Asks k) (h : s.Asks k) : (l.foldl f s).Asks k := by
  induction l generalizing s with
  | nil => exact h
  | cons a l ih => exact ih _ (hf s a h)

theorem State.asks_snd {k : SyncReq} {α : Type} {p : α × State} {a : α} {s : State} (e : p = (a, s))
    (h : p.2.Asks k) : s.Asks k := by
  subst e; exact h

theorem State.asks_trd {k : SyncReq} {α β : Type} {p : α × β × State} {a : α} {b : β} {s : State}
    (e : p = (a, b, s)) (h : p.2.2.Asks k) : s.Asks k := by
  subst e; exact h

theorem State.put_asks {k : SyncReq} (s : State) (f : RF) (v : Nat) (h : s.Asks k) : (s.put f v).Asks k :=
  State.asks_lit h.raw

theorem State.setWord_asks {k : SyncReq} (s : State) (a : Nat) (v : Word) (h : s.Asks k) : (s.setWord a v).Asks k :=
  State.asks_lit h.raw

theorem State.add_asks {k : SyncReq} (s : State) (f : RF) (n : Nat) (h : s.Asks k) :
    (State.add s f n).Asks k := by
  unfold State.add
  repeat' (first
    | with_reducible assumption
    | with_reducible apply State.put_asks
    | (with_reducible refine State.asks_ite (fun _ => ?_) (fun _ => ?_)))

theorem State.errc_asks {k : SyncReq} (s : State) (i n : Nat) (h : s.Asks k) :
    (State.errc s i n).Asks k := by
  unfold State.errc
  repeat' (first
    | with_reducible assumption
    | (refine State.asks_lit ?_; dsimp only; exact State.Asks.raw (by assumption))
    | (with_reducible refine State.asks_ite (fun _ => ?_) (fun _ => ?_)))

theorem State.count_asks {k : SyncReq} (s : State) (f : RF) (i n : Nat) (h : s.Asks k) :
    (State.count s f i n).Asks k := by
  unfold State.count
  repeat' (first
    | with_reducible assumption
    | with_reducible apply State.add_asks
    | with_reducible apply State.errc_asks)

theorem State.setPort_asks {k : SyncReq} (s : State) (f p : Nat) (x : Port) (h : s.Asks k) :
    (State.setPort s f p x).Asks k := by
  unfold State.setPort
  repeat' (first
    | with_reducible assumption
    | (refine State.asks_lit ?_; dsimp only; exact State.Asks.raw (by assumption)))

theorem State.mapPort_asks {k : SyncReq} (s : State) (f p : Nat) (g : Port → Port) (h : s.Asks k) :
    (State.mapPort s f p g).Asks k := by
  unfold State.mapPort
  repeat' (first
    | with_reducible assumption
    | with_reducible apply State.setPort_asks)

theorem State.freeBuf_asks {rq : SyncReq} (s : State) (f : Nat) (inPort : Option Nat) (vc : Nat) (h : s.Asks rq) :
    (State.freeBuf s f inPort vc).Asks rq := by
  unfold State.freeBuf
  repeat' (first
    | with_reducible assumption
    | refine fun _ => ?_
    | with_reducible apply State.mapPort_asks
    | (refine State.asks_lit ?_; dsimp only; exact State.Asks.raw (by assumption))
    | with_reducible refine State.asks_snd (by assumption) ?_
    | split)

theorem State.toInbox_asks {rq : SyncReq} (s : State) (inPort : Option Nat) (x : Flit) (h : s.Asks rq) :
    (State.toInbox s inPort x).Asks rq := by
  unfold State.toInbox
  repeat' (first
    | with_reducible assumption
    | with_reducible apply State.count_asks
    | with_reducible apply State.freeBuf_asks
    | (extract_lets +onlyGivenNames z; with_reducible apply State.asks_cut (k := rq) (s := z); rotate_left; clear_value z; intro hz; rotate_right; subst z)
    | extract_lets +onlyGivenNames z
    | (refine State.asks_lit ?_; dsimp only; exact State.Asks.raw (by assumption))
    | (with_reducible refine State.asks_ite (fun _ => ?_) (fun _ => ?_)))

theorem State.enqueueOut_asks {rq : SyncReq} (s : State) (f p : Nat) (inPort : Option Nat) (x : Flit) (h : s.Asks rq) :
    (State.enqueueOut s f p inPort x).Asks rq := by
  unfold State.enqueueOut
  repeat' (first
    | with_reducible assumption
    | refine fun _ => ?_
    | with_reducible apply State.count_asks
    | with_reducible apply State.mapPort_asks
    | with_reducible apply State.freeBuf_asks
    | (refine State.asks_lit ?_; dsimp only; exact State.Asks.raw (by assumption))
    | (with_reducible refine State.asks_ite (fun _ => ?_) (fun _ => ?_)))

theorem State.fabEvent_asks {k : SyncReq} (s : State) (f code n : Nat) (h : s.Asks k) :
    (State.fabEvent s f code n).Asks k := by
  unfold State.fabEvent
  repeat' (first
    | with_reducible assumption
    | (refine State.asks_lit ?_; dsimp only; exact State.Asks.raw (by assumption)))

theorem State.countRx_asks {rq : SyncReq} (s : State) (f p : Nat) (h : s.Asks rq) :
    (State.countRx s f p).Asks rq := by
  unfold State.countRx
  repeat' (first
    | with_reducible assumption
    | with_reducible apply State.add_asks
    | with_reducible apply State.count_asks
    | with_reducible apply State.fabEvent_asks)

theorem State.countTx_asks {rq : SyncReq} (s : State) (f p vc : Nat) (h : s.Asks rq) :
    (State.countTx s f p vc).Asks rq := by
  unfold State.countTx
  repeat' (first
    | with_reducible assumption
    | with_reducible apply State.add_asks
    | with_reducible apply State.count_asks
    | with_reducible apply State.fabEvent_asks
    | (extract_lets +onlyGivenNames z; with_reducible apply State.asks_cut (k := rq) (s := z); rotate_left; clear_value z; intro hz; rotate_right; subst z)
    | extract_lets +onlyGivenNames z
    | (with_reducible refine State.asks_ite (fun _ => ?_) (fun _ => ?_)))

theorem State.crossSpine_asks {rq : SyncReq} (s : State) (f flow vc : Nat) (h : s.Asks rq) :
    (State.crossSpine s f flow vc).Asks rq := by
  unfold State.crossSpine
  repeat' (first
    | with_reducible assumption
    | with_reducible apply State.countRx_asks
    | with_reducible apply State.countTx_asks)

theorem State.fromDie_asks {rq : SyncReq} (s : State) (d flow vc : Nat) (h : s.Asks rq) :
    (State.fromDie s d flow vc).Asks rq := by
  unfold State.fromDie
  repeat' (first
    | with_reducible assumption
    | with_reducible apply State.countRx_asks
    | with_reducible apply State.crossSpine_asks
    | (extract_lets +onlyGivenNames z; with_reducible apply State.asks_cut (k := rq) (s := z); rotate_left; clear_value z; intro hz; rotate_right; subst z)
    | extract_lets +onlyGivenNames z
    | (with_reducible refine State.asks_ite (fun _ => ?_) (fun _ => ?_)))

theorem State.ownCopy_asks {rq : SyncReq} (s : State) (f : Nat) (x : Flit) (h : s.Asks rq) :
    (State.ownCopy s f x).Asks rq := by
  unfold State.ownCopy
  repeat' (first
    | with_reducible assumption
    | with_reducible apply State.crossSpine_asks
    | with_reducible apply State.toInbox_asks
    | (with_reducible refine State.asks_ite (fun _ => ?_) (fun _ => ?_)))

theorem State.dispatchFlit_asks {rq : SyncReq} (s : State) (f : Nat) (inPort : Option Nat) (x : Flit) (h : s.Asks rq) :
    (State.dispatchFlit s f inPort x).Asks rq := by
  unfold State.dispatchFlit
  repeat' (first
    | with_reducible assumption
    | refine fun _ => ?_
    | with_reducible apply State.add_asks
    | with_reducible apply State.count_asks
    | with_reducible apply State.fabEvent_asks
    | with_reducible apply State.freeBuf_asks
    | with_reducible apply State.toInbox_asks
    | with_reducible apply State.enqueueOut_asks
    | with_reducible apply State.ownCopy_asks
    | with_reducible apply State.asks_foldl
    | (extract_lets +onlyGivenNames z; with_reducible apply State.asks_cut (k := rq) (s := z); rotate_left; clear_value z; intro hz; rotate_right; subst z)
    | extract_lets +onlyGivenNames z
    | (refine State.asks_lit ?_; dsimp only; exact State.Asks.raw (by assumption))
    | with_reducible refine State.asks_snd (by assumption) ?_
    | split)

theorem State.badRow_asks {rq : SyncReq} (s : State) (f : Nat) (x : Flit) (h : s.Asks rq) :
    (State.badRow s f x).Asks rq := by
  unfold State.badRow
  repeat' (first
    | with_reducible assumption
    | with_reducible apply State.count_asks
    | with_reducible apply State.dispatchFlit_asks
    | (extract_lets +onlyGivenNames z; with_reducible apply State.asks_cut (k := rq) (s := z); rotate_left; clear_value z; intro hz; rotate_right; subst z)
    | extract_lets +onlyGivenNames z
    | (with_reducible refine State.asks_ite (fun _ => ?_) (fun _ => ?_)))

theorem State.inject_asks {rq : SyncReq} (s : State) (f : Nat) (x : Flit) (h : s.Asks rq) :
    (State.inject s f x).Asks rq := by
  unfold State.inject
  repeat' (first
    | with_reducible assumption
    | with_reducible apply State.dispatchFlit_asks
    | with_reducible apply State.badRow_asks
    | (with_reducible refine State.asks_ite (fun _ => ?_) (fun _ => ?_)))

theorem State.hbmSetSeg_asks {k : SyncReq} (s : State) (d p seg v : Nat) (pois : Bool) (h : s.Asks k) :
    (State.hbmSetSeg s d p seg v pois).Asks k := by
  unfold State.hbmSetSeg
  repeat' (first
    | with_reducible assumption
    | (refine State.asks_lit ?_; dsimp only; exact State.Asks.raw (by assumption)))

theorem State.hbmError_asks {rq : SyncReq} (s : State) (d p seg mark : Nat) (h : s.Asks rq) :
    (State.hbmError s d p seg mark).Asks rq := by
  unfold State.hbmError
  repeat' (first
    | with_reducible assumption
    | with_reducible apply State.put_asks
    | with_reducible apply State.count_asks
    | (extract_lets +onlyGivenNames z; with_reducible apply State.asks_cut (k := rq) (s := z); rotate_left; clear_value z; intro hz; rotate_right; subst z)
    | extract_lets +onlyGivenNames z
    | (with_reducible refine State.asks_ite (fun _ => ?_) (fun _ => ?_)))

theorem State.hbmReadSeg_asks {rq : SyncReq} (s : State) (d p seg : Nat) (h : s.Asks rq) :
    (State.hbmReadSeg s d p seg).2.2.Asks rq := by
  unfold State.hbmReadSeg
  repeat' (first
    | with_reducible assumption
    | with_reducible apply State.put_asks
    | with_reducible apply State.hbmSetSeg_asks
    | with_reducible apply State.hbmError_asks
    | (extract_lets +onlyGivenNames z; with_reducible apply State.asks_cut (k := rq) (s := z); rotate_left; clear_value z; intro hz; rotate_right; subst z)
    | extract_lets +onlyGivenNames z
    | (refine State.asks_lit ?_; dsimp only; exact State.Asks.raw (by assumption))
    | split)

theorem State.hbmMerge_asks {rq : SyncReq} (s : State) (d p seg : Nat) (h : s.Asks rq) :
    (State.hbmMerge s d p seg).2.2.Asks rq := by
  unfold State.hbmMerge
  repeat' (first
    | with_reducible assumption
    | with_reducible apply State.hbmError_asks
    | (extract_lets +onlyGivenNames z; with_reducible apply State.asks_cut (k := rq) (s := z); rotate_left; clear_value z; intro hz; rotate_right; subst z)
    | extract_lets +onlyGivenNames z
    | split)

theorem State.hbmReadSegs_asks {k : SyncReq} (s : State) (d p seg : Nat) (r0 : Nat) (h : s.Asks k) :
    (State.hbmReadSegs s d p seg r0).2.2.Asks k := by
  induction r0 generalizing s d p seg with
  | zero =>
    unfold State.hbmReadSegs
    repeat' (first
      | with_reducible assumption
      | with_reducible apply State.hbmReadSeg_asks)
  | succ r0 ih =>
    unfold State.hbmReadSegs
    repeat' (first
      | with_reducible assumption
      | with_reducible apply ih
      | with_reducible apply State.hbmReadSeg_asks)

theorem State.hbmWriteSegs_asks {k : SyncReq} (s : State) (d p seg v : Nat) (marks : List Bool) (r0 : Nat) (h : s.Asks k) :
    (State.hbmWriteSegs s d p seg v marks r0).Asks k := by
  induction r0 generalizing s d p seg v marks with
  | zero =>
    unfold State.hbmWriteSegs
    repeat' (first
      | with_reducible assumption
      | with_reducible apply State.hbmSetSeg_asks)
  | succ r0 ih =>
    unfold State.hbmWriteSegs
    repeat' (first
      | with_reducible assumption
      | with_reducible apply ih
      | with_reducible apply State.hbmSetSeg_asks)

theorem State.hbmParts_asks {rq : SyncReq} (s : State) (d p a n v : Nat) (r0 : Nat) (h : s.Asks rq) :
    (State.hbmParts s d p a n v r0).Asks rq := by
  induction r0 generalizing s d p a n v with
  | zero =>
    unfold State.hbmParts
    repeat' (first
      | with_reducible assumption
      | with_reducible apply State.hbmSetSeg_asks
      | with_reducible apply State.hbmMerge_asks
      | (extract_lets +onlyGivenNames z; with_reducible apply State.asks_cut (k := rq) (s := z); rotate_left; clear_value z; intro hz; rotate_right; subst z)
      | extract_lets +onlyGivenNames z
      | with_reducible refine State.asks_snd (by assumption) ?_
      | with_reducible refine State.asks_trd (by assumption) ?_
      | split)
  | succ r0 ih =>
    unfold State.hbmParts
    repeat' (first
      | with_reducible assumption
      | with_reducible apply ih
      | with_reducible apply State.hbmSetSeg_asks
      | with_reducible apply State.hbmMerge_asks
      | (extract_lets +onlyGivenNames z; with_reducible apply State.asks_cut (k := rq) (s := z); rotate_left; clear_value z; intro hz; rotate_right; subst z)
      | extract_lets +onlyGivenNames z
      | with_reducible refine State.asks_snd (by assumption) ?_
      | with_reducible refine State.asks_trd (by assumption) ?_
      | split)

theorem State.hbmWrite_asks {rq : SyncReq} (s : State) (d p a n v : Nat) (h : s.Asks rq) :
    (State.hbmWrite s d p a n v).Asks rq := by
  unfold State.hbmWrite
  repeat' (first
    | with_reducible assumption
    | with_reducible apply State.hbmParts_asks)

theorem State.ringWrite_asks {ks : SyncReq} (s : State) (d c k lg off tail head : Nat) (r : Record) (h : s.Asks ks) :
    (State.ringWrite s d c k lg off tail head r).2.Asks ks := by
  unfold State.ringWrite
  repeat' (first
    | with_reducible assumption
    | with_reducible apply State.hbmWrite_asks
    | extract_lets +onlyGivenNames z
    | split)

theorem State.penRecord_asks {k : SyncReq} (s : State) (d : Nat) (r : Record) (h : s.Asks k) :
    (State.penRecord s d r).Asks k := by
  unfold State.penRecord
  repeat' (first
    | with_reducible assumption
    | with_reducible apply State.add_asks
    | with_reducible apply State.put_asks
    | with_reducible apply State.ringWrite_asks
    | (with_reducible refine State.asks_ite (fun _ => ?_) (fun _ => ?_)))

theorem State.smpRecord_asks {k : SyncReq} (s : State) (d c : Nat) (r : Record) (h : s.Asks k) :
    (State.smpRecord s d c r).Asks k := by
  unfold State.smpRecord
  repeat' (first
    | with_reducible assumption
    | with_reducible apply State.add_asks
    | with_reducible apply State.put_asks
    | with_reducible apply State.ringWrite_asks
    | (refine State.asks_lit ?_; dsimp only; exact State.Asks.raw (by assumption))
    | (with_reducible refine State.asks_ite (fun _ => ?_) (fun _ => ?_)))

theorem State.dieEvent_asks {k : SyncReq} (s : State) (d code n : Nat) (h : s.Asks k) :
    (State.dieEvent s d code n).Asks k := by
  unfold State.dieEvent
  repeat' (first
    | with_reducible assumption
    | (refine State.asks_lit ?_; dsimp only; exact State.Asks.raw (by assumption)))

theorem State.tileEvent_asks {k : SyncReq} (s : State) (d c code n : Nat) (h : s.Asks k) :
    (State.tileEvent s d c code n).Asks k := by
  unfold State.tileEvent
  repeat' (first
    | with_reducible assumption
    | with_reducible apply State.dieEvent_asks
    | (with_reducible refine State.asks_ite (fun _ => ?_) (fun _ => ?_)))

theorem State.rowCount_asks {rq : SyncReq} (s : State) (d k : Nat) (h : s.Asks rq) :
    (State.rowCount s d k).Asks rq := by
  unfold State.rowCount
  repeat' (first
    | with_reducible assumption
    | with_reducible apply State.add_asks
    | with_reducible apply State.count_asks
    | with_reducible apply State.dieEvent_asks)

theorem State.rowMoved_asks {rq : SyncReq} (s : State) (p id c : Nat) (viol : Bool) (h : s.Asks rq) :
    (State.rowMoved s p id c viol).Asks rq := by
  unfold State.rowMoved
  repeat' (first
    | with_reducible assumption
    | refine fun _ => ?_
    | (extract_lets +onlyGivenNames z; with_reducible apply State.asks_cut (k := rq) (s := z); rotate_left; clear_value z; intro hz; rotate_right; subst z)
    | extract_lets +onlyGivenNames z
    | (refine State.asks_lit ?_; dsimp only; exact State.Asks.raw (by assumption))
    | split)

theorem State.rowIn_asks {rq : SyncReq} (s : State) (p id c : Nat) (viol : Bool) (h : s.Asks rq) :
    (State.rowIn s p id c viol).Asks rq := by
  unfold State.rowIn
  repeat' (first
    | with_reducible assumption
    | refine fun _ => ?_
    | with_reducible apply State.rowCount_asks
    | with_reducible apply State.rowMoved_asks
    | with_reducible refine State.asks_snd (by assumption) ?_
    | split)

theorem State.rowOut_asks {rq : SyncReq} (s : State) (p id row req due v : Nat) (marks : List Bool) (viol : Bool) (h : s.Asks rq) :
    (State.rowOut s p id row req due v marks viol).Asks rq := by
  unfold State.rowOut
  repeat' (first
    | with_reducible assumption
    | refine fun _ => ?_
    | (extract_lets +onlyGivenNames z; with_reducible apply State.asks_cut (k := rq) (s := z); rotate_left; clear_value z; intro hz; rotate_right; subst z)
    | extract_lets +onlyGivenNames z
    | (refine State.asks_lit ?_; dsimp only; exact State.Asks.raw (by assumption))
    | with_reducible refine State.asks_snd (by assumption) ?_
    | with_reducible refine State.asks_trd (by assumption) ?_
    | split)

theorem State.endAudits_asks {k : SyncReq} (s : State) (p : Nat) (h : s.Asks k) :
    (State.endAudits s p).Asks k := by
  unfold State.endAudits
  repeat' (first
    | with_reducible assumption
    | with_reducible apply State.errc_asks
    | (refine State.asks_lit ?_; dsimp only; exact State.Asks.raw (by assumption))
    | (with_reducible refine State.asks_ite (fun _ => ?_) (fun _ => ?_)))

theorem State.suspect_asks {k : SyncReq} (s : State) (p code : Nat) (h : s.Asks k) :
    (State.suspect s p code).Asks k := by
  unfold State.suspect
  repeat' (first
    | with_reducible assumption
    | with_reducible apply State.endAudits_asks
    | with_reducible apply State.errc_asks
    | with_reducible apply State.put_asks
    | (extract_lets +onlyGivenNames z; with_reducible apply State.asks_cut (k := k) (s := z); rotate_left; clear_value z; intro hz; rotate_right; subst z)
    | extract_lets +onlyGivenNames z
    | (refine State.asks_lit ?_; dsimp only; exact State.Asks.raw (by assumption))
    | (with_reducible refine State.asks_ite (fun _ => ?_) (fun _ => ?_)))

theorem State.sendEvent_asks {k : SyncReq} (s : State) (kind ctx : Nat) (h : s.Asks k) :
    (State.sendEvent s kind ctx).Asks k := by
  unfold State.sendEvent
  repeat' (first
    | with_reducible assumption
    | with_reducible apply State.inject_asks
    | (with_reducible refine State.asks_ite (fun _ => ?_) (fun _ => ?_)))

theorem State.ctxEvent_asks {k : SyncReq} (s : State) (kind ctx : Nat) (h : s.Asks k) :
    (State.ctxEvent s kind ctx).Asks k := by
  unfold State.ctxEvent
  repeat' (first
    | with_reducible assumption
    | with_reducible apply State.sendEvent_asks
    | (with_reducible refine State.asks_ite (fun _ => ?_) (fun _ => ?_)))

theorem State.tileFaulted_asks {k : SyncReq} (s : State) (d ctx gid code c : Nat) (h : s.Asks k) :
    (State.tileFaulted s d ctx gid code c).Asks k := by
  unfold State.tileFaulted
  repeat' (first
    | with_reducible assumption
    | with_reducible apply State.ctxEvent_asks
    | with_reducible apply State.put_asks
    | (extract_lets +onlyGivenNames z; with_reducible apply State.asks_cut (k := k) (s := z); rotate_left; clear_value z; intro hz; rotate_right; subst z)
    | (refine State.asks_lit ?_; dsimp only; exact State.Asks.raw (by assumption))
    | (with_reducible refine State.asks_ite (fun _ => ?_) (fun _ => ?_)))

theorem State.effect_asks {k : SyncReq} (s : State) (p : Nat) (e : Env) (c : Nat) (v : Ev)
    (h : s.Asks k) : (s.effect p e c v).Asks k := by
  cases v <;> unfold State.effect <;> dsimp only
  case errc => exact State.errc_asks _ _ _ h
  case suspect => exact State.suspect_asks _ _ _ h
  case faulted => exact State.tileFaulted_asks _ _ _ _ _ _ h
  case credits => exact State.asks_ite (fun _ => State.inject_asks _ _ _ (State.fromDie_asks _ _ _ _ h)) (fun _ => h)
  case signal => exact h
  case perf => exact State.tileEvent_asks _ _ _ _ _ h
  case sample => exact State.smpRecord_asks _ _ _ _ h
  case hazard => exact State.asks_ite (fun _ => State.penRecord_asks _ _ _ h) (fun _ => h)
  case claim => exact State.asks_lit h.raw
  case arrive =>
    unfold State.expect
    exact State.asks_ite (fun _ => h) (fun _ => State.asks_lit h.raw)
  case rowIn => exact State.rowIn_asks _ _ _ _ _ h
  case rowOut => exact State.rowOut_asks _ _ _ _ _ _ _ _ _ h
  case request => exact State.asks_lit (List.mem_append_left _ h.raw)
  case watch => exact State.asks_lit h.raw

/-- R330: a request that a tile hands out is on its way once its effects are done. -/
theorem State.effects_asks (p : Nat) (e : Env) (c : Nat) (o : SyncOp) (l : List Ev) (s : State) (h : Ev.request o ∈ l) :
    ∃ r, r ∈ (s.effects p e c l).syn.reqs ∧ r.tile = p ∧ r.op = o := by
  induction l generalizing s with
  | nil => cases h
  | cons v l ih =>
    by_cases hv : Ev.request o ∈ l
    · exact ih _ hv
    · have hv : v = .request o := by
        cases h with
        | head => rfl
        | tail _ h => exact absurd h hv
      subst hv
      have h0 : (s.effect p e c (.request o)).Asks ⟨p, e.ctx, (s.tile p).model, o, s.translate e.ctx o.vcid⟩ :=
        ⟨List.mem_append_right _ List.mem_cons_self⟩
      have h1 : ∀ (l : List Ev) (s : State) (k : SyncReq), s.Asks k → (s.effects p e c l).Asks k := by
        intro l
        induction l with
        | nil => exact fun _ _ h => h
        | cons w l ih => exact fun s k h => ih _ k (State.effect_asks _ _ _ _ _ h)
      exact ⟨_, (h1 l _ _ h0).mem, rfl, rfl⟩

end Sys2Proof.Machine
end

