-- ==== Sys2Proof/Laws/SMap.lean ====
section
/-! SUPPORT. The laws of sparse maps: a read after a write, and the canonical form that every write keeps. -/

namespace Sys2Proof.Machine

theorem SMap.find_none_of_above {α : Type} (m : SMap α) (lo i : Nat) (h : SMap.above lo m = true) (hi : i ≤ lo) :
    SMap.find m i = none := by
  induction m generalizing lo with
  | nil => rfl
  | cons p m ih =>
    obtain ⟨k, w⟩ := p
    simp only [SMap.above, Bool.and_eq_true, decide_eq_true_eq] at h
    have : i ≠ k := by omega
    simp only [SMap.find, this, if_false]
    exact ih k h.2 (by omega)

theorem SMap.above_mono {α : Type} (m : SMap α) {a b : Nat} (h : SMap.above b m = true) (hab : a ≤ b) :
    SMap.above a m = true := by
  cases m with
  | nil => rfl
  | cons p m =>
    obtain ⟨k, w⟩ := p
    simp only [SMap.above, Bool.and_eq_true, decide_eq_true_eq] at *
    exact ⟨by omega, h.2⟩

theorem SMap.find_ins_same {α : Type} (m : SMap α) (i : Nat) (v : α) : SMap.find (SMap.ins m i v) i = some v := by
  induction m with
  | nil => simp [SMap.ins, SMap.find]
  | cons p m ih =>
    obtain ⟨k, w⟩ := p
    simp only [SMap.ins]
    split
    · simp [SMap.find]
    · split
      · simp [SMap.find]
      · next h => simp [SMap.find, h, ih]

theorem SMap.find_ins_other {α : Type} (m : SMap α) (i j : Nat) (v : α) (h : j ≠ i) :
    SMap.find (SMap.ins m i v) j = SMap.find m j := by
  induction m with
  | nil => simp [SMap.ins, SMap.find, h]
  | cons p m ih =>
    obtain ⟨k, w⟩ := p
    simp only [SMap.ins]
    split
    · simp [SMap.find, h]
    · split
      · next hk => subst hk; simp [SMap.find, h]
      · simp [SMap.find, ih]

theorem SMap.find_del_other {α : Type} (m : SMap α) (i j : Nat) (h : j ≠ i) :
    SMap.find (SMap.del m i) j = SMap.find m j := by
  induction m with
  | nil => rfl
  | cons p m ih =>
    obtain ⟨k, w⟩ := p
    simp only [SMap.del]
    split
    · rfl
    · split
      · next hk => subst hk; simp [SMap.find, h]
      · simp [SMap.find, ih]

theorem SMap.find_del_same {α : Type} (m : SMap α) (i : Nat) (h : SMap.sorted m = true) :
    SMap.find (SMap.del m i) i = none := by
  induction m with
  | nil => rfl
  | cons p m ih =>
    obtain ⟨k, w⟩ := p
    simp only [SMap.sorted] at h
    simp only [SMap.del]
    split
    · next hlt =>
      have : i ≠ k := by omega
      simp only [SMap.find, this, if_false]
      exact SMap.find_none_of_above m k i h (by omega)
    · split
      · next hk => subst hk; exact SMap.find_none_of_above m i i h (Nat.le_refl i)
      · next h1 h2 =>
        simp only [SMap.find, h2, if_false]
        apply ih
        cases m with
        | nil => rfl
        | cons q m =>
          obtain ⟨k', w'⟩ := q
          simp only [SMap.above, Bool.and_eq_true] at h
          exact h.2

theorem SMap.above_ins {α : Type} (m : SMap α) (lo i : Nat) (v : α) (h : SMap.above lo m = true) (hi : lo < i) :
    SMap.above lo (SMap.ins m i v) = true := by
  induction m generalizing lo with
  | nil => simp [SMap.ins, SMap.above, hi]
  | cons p m ih =>
    obtain ⟨k, w⟩ := p
    simp only [SMap.above, Bool.and_eq_true, decide_eq_true_eq] at h
    simp only [SMap.ins]
    split
    · next hlt => simp [SMap.above, hi, hlt, h.2]
    · split
      · next hk => subst hk; simp [SMap.above, hi, h.2]
      · simp only [SMap.above, Bool.and_eq_true, decide_eq_true_eq]
        exact ⟨h.1, ih k h.2 (by omega)⟩

theorem SMap.above_del {α : Type} (m : SMap α) (lo i : Nat) (h : SMap.above lo m = true) :
    SMap.above lo (SMap.del m i) = true := by
  induction m generalizing lo with
  | nil => rfl
  | cons p m ih =>
    obtain ⟨k, w⟩ := p
    simp only [SMap.above, Bool.and_eq_true, decide_eq_true_eq] at h
    simp only [SMap.del]
    split
    · simp [SMap.above, h.1, h.2]
    · split
      · exact SMap.above_mono m h.2 (by omega)
      · simp only [SMap.above, Bool.and_eq_true, decide_eq_true_eq]
        exact ⟨h.1, ih k h.2⟩

theorem SMap.sorted_of_above {α : Type} (m : SMap α) (lo : Nat) (h : SMap.above lo m = true) :
    SMap.sorted m = true := by
  cases m with
  | nil => rfl
  | cons p m => obtain ⟨k, w⟩ := p; simp only [SMap.above, Bool.and_eq_true] at h; exact h.2

theorem SMap.sorted_ins {α : Type} (m : SMap α) (i : Nat) (v : α) (h : SMap.sorted m = true) :
    SMap.sorted (SMap.ins m i v) = true := by
  cases m with
  | nil => rfl
  | cons p m =>
    obtain ⟨k, w⟩ := p
    simp only [SMap.sorted] at h
    simp only [SMap.ins]
    split
    · next hlt => simp [SMap.sorted, SMap.above, hlt, h]
    · split
      · next hk => subst hk; simpa [SMap.sorted] using h
      · simpa [SMap.sorted] using SMap.above_ins m k i v h (by omega)

theorem SMap.sorted_del {α : Type} (m : SMap α) (i : Nat) (h : SMap.sorted m = true) :
    SMap.sorted (SMap.del m i) = true := by
  cases m with
  | nil => rfl
  | cons p m =>
    obtain ⟨k, w⟩ := p
    simp only [SMap.sorted] at h
    simp only [SMap.del]
    split
    · simpa [SMap.sorted] using h
    · split
      · exact SMap.sorted_of_above m k h
      · simpa [SMap.sorted] using SMap.above_del m k i h

theorem SMap.mem_ins {α : Type} (m : SMap α) (i : Nat) (v : α) (p : Nat × α) (h : p ∈ SMap.ins m i v) :
    p = (i, v) ∨ p ∈ m := by
  induction m with
  | nil => simp [SMap.ins] at h; exact .inl h
  | cons q m ih =>
    obtain ⟨k, w⟩ := q
    simp only [SMap.ins] at h
    split at h
    · simpa using h
    · split at h
      · simp only [List.mem_cons] at h ⊢
        rcases h with h | h
        · exact .inl h
        · exact .inr (.inr h)
      · simp only [List.mem_cons] at h ⊢
        rcases h with h | h
        · exact .inr (.inl h)
        · rcases ih h with h | h
          · exact .inl h
          · exact .inr (.inr h)

theorem SMap.mem_del {α : Type} (m : SMap α) (i : Nat) (p : Nat × α) (h : p ∈ SMap.del m i) : p ∈ m := by
  induction m with
  | nil => simp [SMap.del] at h
  | cons q m ih =>
    obtain ⟨k, w⟩ := q
    simp only [SMap.del] at h
    split at h
    · exact h
    · split at h
      · exact List.mem_cons_of_mem _ h
      · simp only [List.mem_cons] at h ⊢
        exact h.imp id ih

/-- A write keeps the keys rising. -/
theorem SMap.sorted_put {α : Type} [DecidableEq α] (m : SMap α) (i : Nat) (v d : α) (h : SMap.sorted m = true) :
    SMap.sorted (SMap.put m i v d) = true := by
  unfold SMap.put
  split
  · exact SMap.sorted_del m i h
  · exact SMap.sorted_ins m i v h

/-- A read of another key after a write gives what it gave before. -/
theorem SMap.getD_put_other {α : Type} [DecidableEq α] (m : SMap α) (i j : Nat) (v d e : α) (h : j ≠ i) :
    SMap.getD (SMap.put m i v d) j e = SMap.getD m j e := by
  unfold SMap.getD SMap.put
  split
  · rw [SMap.find_del_other m i j h]
  · rw [SMap.find_ins_other m i j v h]

/-- A read of the written key gives the value written, in a map whose keys rise. -/
theorem SMap.getD_put_same {α : Type} [DecidableEq α] (m : SMap α) (i : Nat) (v d : α)
    (h : SMap.sorted m = true) : SMap.getD (SMap.put m i v d) i d = v := by
  unfold SMap.getD SMap.put
  split
  · next hv => rw [SMap.find_del_same m i h, hv]; rfl
  · rw [SMap.find_ins_same]; rfl

/-- Every write keeps the canonical form. -/
theorem SMap.wf_put {α : Type} [DecidableEq α] (m : SMap α) (d : Nat → α) (i : Nat) (v : α)
    (h : SMap.wf m d = true) : SMap.wf (SMap.put m i v (d i)) d = true := by
  simp only [SMap.wf, Bool.and_eq_true, List.all_eq_true, decide_eq_true_eq] at *
  obtain ⟨hs, hd⟩ := h
  unfold SMap.put
  split
  · exact ⟨SMap.sorted_del m i hs, fun p hp => hd p (SMap.mem_del m i p hp)⟩
  · next hv =>
    refine ⟨SMap.sorted_ins m i v hs, fun p hp => ?_⟩
    rcases SMap.mem_ins m i v p hp with rfl | hp
    · exact hv
    · exact hd p hp

theorem SMap.wf_sorted {α : Type} [DecidableEq α] (m : SMap α) (d : Nat → α) (h : SMap.wf m d = true) :
    SMap.sorted m = true := by
  simp only [SMap.wf, Bool.and_eq_true] at h; exact h.1

end Sys2Proof.Machine
end

