-- ==== Sys2Proof/Laws/Keep.lean ====
section
/-! SUPPORT. What "keeps the canonical form" means for a tile, for a tile with its effects and for the module, and the
steps that every such proof is made of. -/

namespace Sys2Proof.Machine

/-! Maps. -/

theorem SMap.wf_put0 {α : Type} [DecidableEq α] (m : SMap α) (d : Nat → α) (i : Nat) (v e : α) (he : d i = e)
    (h : SMap.wf m d = true) : SMap.wf (SMap.put m i v e) d = true := by
  subst he; exact SMap.wf_put m d i v h

theorem SMap.above_filter {α : Type} (m : SMap α) (f : Nat × α → Bool) (lo : Nat) (h : SMap.above lo m = true) :
    SMap.above lo (m.filter f) = true := by
  induction m generalizing lo with
  | nil => rfl
  | cons p m ih =>
    obtain ⟨k, w⟩ := p
    simp only [SMap.above, Bool.and_eq_true, decide_eq_true_eq] at h
    rw [List.filter_cons]
    split
    · simp only [SMap.above, Bool.and_eq_true, decide_eq_true_eq]
      exact ⟨h.1, ih k h.2⟩
    · exact SMap.above_mono _ (ih k h.2) (by omega)

theorem SMap.sorted_filter {α : Type} (m : SMap α) (f : Nat × α → Bool) (h : SMap.sorted m = true) :
    SMap.sorted (m.filter f) = true := by
  induction m with
  | nil => rfl
  | cons p m ih =>
    obtain ⟨k, w⟩ := p
    simp only [SMap.sorted] at h
    rw [List.filter_cons]
    split
    · exact SMap.above_filter m f k h
    · exact ih (SMap.sorted_of_above m k h)

/-- Entries left out keep the canonical form. -/
theorem SMap.wf_filter {α : Type} [DecidableEq α] (m : SMap α) (d : Nat → α) (f : Nat × α → Bool)
    (h : SMap.wf m d = true) : SMap.wf (m.filter f) d = true := by
  simp only [SMap.wf, Bool.and_eq_true, List.all_eq_true] at *
  exact ⟨SMap.sorted_filter m f h.1, fun p hp => h.2 p (List.mem_filter.mp hp).1⟩

/-- Every byte store keeps the canonical form of a memory. -/
theorem memWrite_wf (m : SMap (BitVec 8)) (a n v : Nat) (h : SMap.wf m (fun _ => 0#8) = true) :
    SMap.wf (memWrite m a n v) (fun _ => 0#8) = true := by
  induction n generalizing m a v with
  | zero => exact h
  | succ n ih => exact ih _ _ _ (SMap.wf_put0 m _ a _ _ rfl h)

theorem SMap.mem_put {α : Type} [DecidableEq α] (m : SMap α) (i : Nat) (v d : α) (p : Nat × α)
    (h : p ∈ SMap.put m i v d) : p = (i, v) ∨ p ∈ m := by
  unfold SMap.put at h
  split at h
  · exact .inr (SMap.mem_del m i p h)
  · exact SMap.mem_ins m i v p h

theorem SMap.mem_of_find {α : Type} (m : SMap α) (i : Nat) (v : α) (h : SMap.find m i = some v) : (i, v) ∈ m := by
  induction m with
  | nil => simp [SMap.find] at h
  | cons p m ih =>
    obtain ⟨k, w⟩ := p
    simp only [SMap.find] at h
    split at h
    · next hk => simp only [Option.some.injEq] at h; subst hk; subst h; exact List.mem_cons_self
    · exact List.mem_cons_of_mem _ (ih h)

theorem SMap.find_none_put {α : Type} [DecidableEq α] (m : SMap α) (i j : Nat) (v d : α) (h : j ≠ i)
    (hn : SMap.find m j = none) : SMap.find (SMap.put m i v d) j = none := by
  unfold SMap.put
  split
  · rw [SMap.find_del_other m i j h, hn]
  · rw [SMap.find_ins_other m i j v h, hn]

/-! Register blocks. -/

theorem rset_wf (d : Nat → Word) (m : SMap Word) (a : Nat) (v : Word) (h : SMap.wf m d = true) :
    SMap.wf (rset d m a v) d = true := SMap.wf_put m d a v h

theorem rput_wf (d : Nat → Word) (m : SMap Word) (f : RF) (v : Nat) (h : SMap.wf m d = true) :
    SMap.wf (rput d m f v) d = true := rset_wf d m _ _ h

theorem CSet.addTo_wf (c : CSet) (d : Nat → Word) (m : SMap Word) (k n : Nat) (h : SMap.wf m d = true) :
    SMap.wf (c.addTo d m k n) d = true := by
  unfold CSet.addTo
  dsimp only
  repeat' (first | assumption | split | apply rput_wf)

theorem CSet.addAll_wf (c : CSet) (d : Nat → Word) (code n k : Nat) (m : SMap Word) (h : SMap.wf m d = true) :
    SMap.wf (CSet.addAll c d code n k m) d = true := by
  induction k with
  | zero => exact h
  | succ k ih =>
    simp only [CSet.addAll]
    split
    · exact CSet.addTo_wf c d _ k n ih
    · exact ih

theorem CSet.event_wf (c : CSet) (d : Nat → Word) (m : SMap Word) (code n : Nat) (h : SMap.wf m d = true) :
    SMap.wf (c.event d m code n) d = true := by
  unfold CSet.event
  repeat' (first | assumption | split | apply CSet.addAll_wf)

/-! Tiles. -/

/-- A tile in canonical form, as a proposition. -/
structure Tile.Ok (t : Tile) : Prop where
  canon : t.wf = true

/-- The same of its maps: the registers, the scalar registers, the Palette, the accumulators. -/
structure TileMaps (r s : SMap Word) (p : SMap (BitVec 8)) (a : SMap (BitVec 32)) : Prop where
  regs : SMap.wf r tileReset = true
  sregs : SMap.wf s (fun _ => 0) = true
  pal : SMap.wf p (fun _ => 0) = true
  acc : SMap.wf a (fun _ => 0) = true
  zero : SMap.find s 0 = none

theorem Tile.ok_lit {t : Tile} (h : TileMaps t.regs t.sregs t.pal t.acc) : t.Ok := by
  constructor
  simp only [Tile.wf, Bool.and_eq_true, Option.isNone_iff_eq_none]
  exact ⟨⟨⟨⟨h.regs, h.sregs⟩, h.pal⟩, h.acc⟩, h.zero⟩

theorem Tile.Ok.maps {t : Tile} (h : t.Ok) : TileMaps t.regs t.sregs t.pal t.acc := by
  have h := h.canon
  simp only [Tile.wf, Bool.and_eq_true, Option.isNone_iff_eq_none] at h
  exact ⟨h.1.1.1.1, h.1.1.1.2, h.1.1.2, h.1.2, h.2⟩

theorem TileMaps.setRegs {r r' s : SMap Word} {p : SMap (BitVec 8)} {a : SMap (BitVec 32)} (h : TileMaps r s p a)
    (hr : SMap.wf r tileReset = true → SMap.wf r' tileReset = true) : TileMaps r' s p a :=
  ⟨hr h.regs, h.sregs, h.pal, h.acc, h.zero⟩

theorem TileMaps.setSregs {r s s' : SMap Word} {p : SMap (BitVec 8)} {a : SMap (BitVec 32)} (h : TileMaps r s p a)
    (hs : SMap.wf s (fun _ => 0) = true → SMap.wf s' (fun _ => 0) = true)
    (hz : SMap.find s 0 = none → SMap.find s' 0 = none) : TileMaps r s' p a :=
  ⟨h.regs, hs h.sregs, h.pal, h.acc, hz h.zero⟩

theorem TileMaps.setPal {r s : SMap Word} {p p' : SMap (BitVec 8)} {a : SMap (BitVec 32)} (h : TileMaps r s p a)
    (hp : SMap.wf p (fun _ => 0) = true → SMap.wf p' (fun _ => 0) = true) : TileMaps r s p' a :=
  ⟨h.regs, h.sregs, hp h.pal, h.acc, h.zero⟩

theorem TileMaps.setAcc {r s : SMap Word} {p : SMap (BitVec 8)} {a a' : SMap (BitVec 32)} (h : TileMaps r s p a)
    (ha : SMap.wf a (fun _ => 0) = true → SMap.wf a' (fun _ => 0) = true) : TileMaps r s p a' :=
  ⟨h.regs, h.sregs, h.pal, ha h.acc, h.zero⟩

theorem Tile.fresh_ok : Tile.fresh.Ok := Tile.ok_lit ⟨rfl, rfl, rfl, rfl, rfl⟩

theorem Tile.put_ok (t : Tile) (f : RF) (v : Nat) (h : t.Ok) : (t.put f v).Ok :=
  Tile.ok_lit (h.maps.setRegs fun h => rput_wf _ _ _ _ h)

theorem Tile.ok_cut {t : Tile} {G : Prop} (h : t.Ok) (k : t.Ok → G) : G := k h

theorem Tile.ok_ite {c : Prop} [Decidable c] {a b : Tile} (ha : c → a.Ok) (hb : ¬ c → b.Ok) :
    (if c then a else b).Ok := by
  split
  · exact ha ‹_›
  · exact hb ‹_›

theorem Tile.ok_foldl {α : Type} (f : Tile → α → Tile) (l : List α) (t : Tile) (hf : ∀ t a, t.Ok → (f t a).Ok) (h : t.Ok) :
    (l.foldl f t).Ok := by
  induction l generalizing t with
  | nil => exact h
  | cons a l ih => exact ih _ (hf t a h)

/-! Tiles with their effects. -/

/-- The tile is in canonical form. -/
structure TW.Ok (x : TW) : Prop where
  tile : x.t.Ok

theorem TW.ok_lit {x : TW} (h : x.t.Ok) : x.Ok := ⟨h⟩

theorem TW.ok_cut {x : TW} {G : Prop} (h : x.Ok) (k : x.Ok → G) : G := k h

theorem TW.ok_ite {c : Prop} [Decidable c] {a b : TW} (ha : c → a.Ok) (hb : ¬ c → b.Ok) :
    (if c then a else b).Ok := by
  split
  · exact ha ‹_›
  · exact hb ‹_›

theorem TW.ok_snd {α : Type} {p : α × TW} {a : α} {x : TW} (e : p = (a, x)) (h : p.2.Ok) : x.Ok := by
  subst e; exact h

theorem TW.ok_trd {α β : Type} {p : α × β × TW} {a : α} {b : β} {x : TW} (e : p = (a, b, x)) (h : p.2.2.Ok) : x.Ok := by
  subst e; exact h

theorem TW.ok_fth {α β γ : Type} {p : α × β × γ × TW} {a : α} {b : β} {c : γ} {x : TW} (e : p = (a, b, c, x))
    (h : p.2.2.2.Ok) : x.Ok := by
  subst e; exact h

theorem TW.put_ok (x : TW) (f : RF) (v : Nat) (h : x.Ok) : (x.put f v).Ok := ⟨Tile.put_ok x.t f v h.tile⟩
theorem TW.emit_ok (x : TW) (e : Ev) (h : x.Ok) : (x.emit e).Ok := ⟨h.tile⟩
theorem TW.map_ok (x : TW) (f : Tile → Tile) (hf : ∀ t, t.Ok → (f t).Ok) (h : x.Ok) : (x.map f).Ok := ⟨hf _ h.tile⟩

theorem TW.ok_foldl {α : Type} (f : TW → α → TW) (l : List α) (x : TW) (hf : ∀ x a, x.Ok → (f x a).Ok) (h : x.Ok) :
    (l.foldl f x).Ok := by
  induction l generalizing x with
  | nil => exact h
  | cons a l ih => exact ih _ (hf x a h)

theorem TW.ok_foldl_snd {α β : Type} (f : β × TW → α → β × TW) (l : List α) (p : β × TW)
    (hf : ∀ p a, p.2.Ok → (f p a).2.Ok) (h : p.2.Ok) : (l.foldl f p).2.Ok := by
  induction l generalizing p with
  | nil => exact h
  | cons a l ih => exact ih _ (hf p a h)

theorem TW.perf_ok (x : TW) (code n : Nat) (h : x.Ok) : (x.perf code n).Ok := by
  unfold TW.perf
  split
  · exact h
  · exact ⟨Tile.ok_lit (h.tile.maps.setRegs fun h => CSet.event_wf _ _ _ _ _ h)⟩

end Sys2Proof.Machine
end

