-- ==== Sys2Proof/Laws/KeepTile.lean ====
section
/-! SUPPORT. Every function that answers a tile, or a tile with its effects, keeps its maps canonical. -/

namespace Sys2Proof.Machine

theorem TW.count_ok (x : TW) (f : RF) (off : Option Nat) (n : Nat) (h : x.Ok) :
    (TW.count x f off n).Ok := by
  unfold TW.count
  repeat' (first
    | with_reducible assumption
    | with_reducible apply TW.emit_ok
    | with_reducible apply TW.put_ok
    | split)

theorem TW.perfOf_ok (x : TW) (code : Nat) (o : Origin) (latency td status : Nat) (h : x.Ok) :
    (TW.perfOf x code o latency td status).Ok := by
  unfold TW.perfOf
  repeat' (first
    | with_reducible assumption
    | with_reducible apply TW.emit_ok
    | with_reducible apply TW.perf_ok
    | (with_reducible refine TW.ok_ite (fun _ => ?_) (fun _ => ?_)))

theorem TW.elog_ok (x : TW) (seg mark : Nat) (h : x.Ok) :
    (TW.elog x seg mark).Ok := by
  unfold TW.elog
  repeat' (first
    | with_reducible assumption
    | with_reducible apply Tile.put_ok
    | with_reducible apply TW.put_ok)

theorem TW.corrected_ok (x : TW) (seg mark : Nat) (h : x.Ok) :
    (TW.corrected x seg mark).Ok := by
  unfold TW.corrected
  repeat' (first
    | with_reducible assumption
    | with_reducible apply TW.count_ok
    | with_reducible apply TW.elog_ok)

theorem TW.uncorrectable_ok (x : TW) (seg mark : Nat) (h : x.Ok) :
    (TW.uncorrectable x seg mark).Ok := by
  unfold TW.uncorrectable
  repeat' (first
    | with_reducible assumption
    | with_reducible apply TW.emit_ok
    | with_reducible apply TW.count_ok
    | with_reducible apply TW.elog_ok)

theorem TW.violation_ok (x : TW) (h : x.Ok) :
    (TW.violation x).Ok := by
  unfold TW.violation
  repeat' (first
    | with_reducible assumption
    | with_reducible apply TW.count_ok)

theorem Tile.setSeg_ok (t : Tile) (seg v : Nat) (pois : Bool) (h : t.Ok) :
    (Tile.setSeg t seg v pois).Ok := Tile.ok_lit (h.maps.setPal fun h => memWrite_wf _ _ _ _ h)

theorem TW.readSeg_ok (x : TW) (seg : Nat) (h : x.Ok) :
    (TW.readSeg x seg).2.2.Ok := by
  unfold TW.readSeg
  repeat' (first
    | with_reducible assumption
    | refine fun _ => ?_
    | with_reducible apply TW.corrected_ok
    | with_reducible apply TW.uncorrectable_ok
    | with_reducible apply Tile.setSeg_ok
    | with_reducible apply TW.map_ok
    | with_reducible apply TW.Ok.tile
    | (extract_lets +onlyGivenNames z; with_reducible apply TW.ok_cut (x := z); rotate_left; clear_value z; intro hz; rotate_right; subst z)
    | (extract_lets +onlyGivenNames z; with_reducible apply Tile.ok_cut (t := z); rotate_left; clear_value z; intro hz; rotate_right; subst z)
    | extract_lets +onlyGivenNames z
    | (refine Tile.ok_lit ?_; dsimp only; exact Tile.Ok.maps (by assumption))
    | split)

theorem TW.mergeErr_ok (x : TW) (seg : Nat) (h : x.Ok) :
    (TW.mergeErr x seg).Ok := by
  unfold TW.mergeErr
  repeat' (first
    | with_reducible assumption
    | refine fun _ => ?_
    | with_reducible apply Tile.put_ok
    | with_reducible apply TW.put_ok
    | with_reducible apply TW.corrected_ok
    | with_reducible apply TW.uncorrectable_ok
    | with_reducible apply Tile.setSeg_ok
    | with_reducible apply TW.map_ok
    | with_reducible apply TW.Ok.tile
    | (extract_lets +onlyGivenNames z; with_reducible apply TW.ok_cut (x := z); rotate_left; clear_value z; intro hz; rotate_right; subst z)
    | (extract_lets +onlyGivenNames z; with_reducible apply Tile.ok_cut (t := z); rotate_left; clear_value z; intro hz; rotate_right; subst z)
    | extract_lets +onlyGivenNames z
    | (refine Tile.ok_lit ?_; dsimp only; exact Tile.Ok.maps (by assumption))
    | (with_reducible refine TW.ok_ite (fun _ => ?_) (fun _ => ?_))
    | (with_reducible refine Tile.ok_ite (fun _ => ?_) (fun _ => ?_)))

theorem Tile.tearRow_ok (t : Tile) (row : Nat) (h : t.Ok) :
    (Tile.tearRow t row).Ok := by
  unfold Tile.tearRow
  repeat' (first
    | with_reducible assumption
    | (refine Tile.ok_lit ?_; dsimp only; exact Tile.Ok.maps (by assumption))
    | (with_reducible refine Tile.ok_ite (fun _ => ?_) (fun _ => ?_)))

theorem TW.writeSeg_ok (x : TW) (seg off n v : Nat) (mark : Bool) (h : x.Ok) :
    (TW.writeSeg x seg off n v mark).Ok := by
  unfold TW.writeSeg
  repeat' (first
    | with_reducible assumption
    | refine fun _ => ?_
    | with_reducible apply Tile.setSeg_ok
    | with_reducible apply TW.mergeErr_ok
    | with_reducible apply Tile.tearRow_ok
    | with_reducible apply TW.map_ok
    | (extract_lets +onlyGivenNames z; with_reducible apply TW.ok_cut (x := z); rotate_left; clear_value z; intro hz; rotate_right; subst z)
    | (extract_lets +onlyGivenNames z; with_reducible apply Tile.ok_cut (t := z); rotate_left; clear_value z; intro hz; rotate_right; subst z)
    | extract_lets +onlyGivenNames z
    | (refine Tile.ok_lit ?_; dsimp only; exact Tile.Ok.maps (by assumption))
    | split)

theorem TW.readSegs_ok (x : TW) (seg : Nat) (r0 : Nat) (h : x.Ok) :
    (TW.readSegs x seg r0).2.2.Ok := by
  induction r0 generalizing x seg with
  | zero =>
    unfold TW.readSegs
    repeat' (first
      | with_reducible assumption
      | with_reducible apply TW.readSeg_ok)
  | succ r0 ih =>
    unfold TW.readSegs
    repeat' (first
      | with_reducible assumption
      | with_reducible apply ih
      | with_reducible apply TW.readSeg_ok)

theorem TW.readRaw_ok (x : TW) (a n : Nat) (h : x.Ok) :
    (TW.readRaw x a n).2.Ok := by
  unfold TW.readRaw
  repeat' (first
    | with_reducible assumption
    | with_reducible apply TW.readSegs_ok)

theorem TW.writeRaw_ok (x : TW) (a n v : Nat) (marks : List Bool) (r0 : Nat) (h : x.Ok) :
    (TW.writeRaw x a n v marks r0).Ok := by
  induction r0 generalizing x a n v marks with
  | zero =>
    unfold TW.writeRaw
    repeat' (first
      | with_reducible assumption
      | with_reducible apply TW.writeSeg_ok
      | (with_reducible refine TW.ok_ite (fun _ => ?_) (fun _ => ?_)))
  | succ r0 ih =>
    unfold TW.writeRaw
    repeat' (first
      | with_reducible assumption
      | with_reducible apply ih
      | with_reducible apply TW.writeSeg_ok
      | (with_reducible refine TW.ok_ite (fun _ => ?_) (fun _ => ?_)))

theorem TW.mergeFind_ok (x : TW) (a n : Nat) (h : x.Ok) :
    (TW.mergeFind x a n).Ok := by
  unfold TW.mergeFind
  repeat' (first
    | with_reducible assumption
    | with_reducible apply TW.mergeErr_ok
    | (extract_lets +onlyGivenNames z; with_reducible apply TW.ok_cut (x := z); rotate_left; clear_value z; intro hz; rotate_right; subst z)
    | (extract_lets +onlyGivenNames z; with_reducible apply Tile.ok_cut (t := z); rotate_left; clear_value z; intro hz; rotate_right; subst z)
    | extract_lets +onlyGivenNames z
    | split)

theorem TW.writeMarked_ok (x : TW) (a n v : Nat) (mark : Bool) (h : x.Ok) :
    (TW.writeMarked x a n v mark).Ok := by
  unfold TW.writeMarked
  repeat' (first
    | with_reducible assumption
    | with_reducible apply TW.writeRaw_ok)

theorem Tile.grant_ok (t : Tile) (c bank rank : Nat) (h : t.Ok) :
    (Tile.grant t c bank rank).Ok := by
  unfold Tile.grant
  repeat' (first
    | with_reducible assumption
    | (refine Tile.ok_lit ?_; dsimp only; exact Tile.Ok.maps (by assumption)))

theorem TW.conflict_ok (x : TW) (h : x.Ok) :
    (TW.conflict x).Ok := by
  unfold TW.conflict
  repeat' (first
    | with_reducible assumption
    | with_reducible apply TW.count_ok
    | with_reducible apply TW.perf_ok)

theorem Tile.setGran_ok (t : Tile) (row : Nat) (g : Gran) (h : t.Ok) :
    (Tile.setGran t row g).Ok := by
  unfold Tile.setGran
  repeat' (first
    | with_reducible assumption
    | (refine Tile.ok_lit ?_; dsimp only; exact Tile.Ok.maps (by assumption)))

theorem Tile.penArrive_ok (t : Tile) (c : Nat) (h : t.Ok) :
    (Tile.penArrive t c).Ok := by
  unfold Tile.penArrive
  repeat' (first
    | with_reducible assumption
    | refine fun _ => ?_
    | with_reducible apply Tile.setGran_ok
    | (extract_lets +onlyGivenNames z; with_reducible apply Tile.ok_cut (t := z); rotate_left; clear_value z; intro hz; rotate_right; subst z)
    | with_reducible apply Tile.ok_foldl
    | (refine Tile.ok_lit ?_; dsimp only; exact Tile.Ok.maps (by assumption))
    | (with_reducible refine Tile.ok_ite (fun _ => ?_) (fun _ => ?_)))

theorem TW.commitList_ok (x : TW) (r0 : List (Nat × Nat × Nat × Nat × Bool)) (h : x.Ok) :
    (TW.commitList x r0).Ok := by
  induction r0 generalizing x with
  | nil =>
    unfold TW.commitList
    repeat' (first
      | with_reducible assumption
      | with_reducible apply TW.writeMarked_ok)
  | cons e r0 ih =>
    unfold TW.commitList
    repeat' (first
      | with_reducible assumption
      | with_reducible apply ih
      | with_reducible apply TW.writeMarked_ok)

theorem TW.commitSel_ok (x : TW) (sel : Nat → Nat → Bool) (h : x.Ok) :
    (TW.commitSel x sel).Ok := by
  unfold TW.commitSel
  repeat' (first
    | with_reducible assumption
    | refine fun _ => ?_
    | with_reducible apply TW.commitList_ok
    | with_reducible apply TW.map_ok
    | (refine Tile.ok_lit ?_; dsimp only; exact Tile.Ok.maps (by assumption))
    | (with_reducible refine TW.ok_ite (fun _ => ?_) (fun _ => ?_)))

theorem TW.commitBefore_ok (x : TW) (c bank : Nat) (h : x.Ok) :
    (TW.commitBefore x c bank).Ok := by
  unfold TW.commitBefore
  repeat' (first
    | with_reducible assumption
    | with_reducible apply TW.commitSel_ok)

theorem TW.commitLate_ok (x : TW) (r0 : List (Nat × Nat × Nat × Nat × List Bool)) (h : x.Ok) :
    (TW.commitLate x r0).Ok := by
  induction r0 generalizing x with
  | nil =>
    unfold TW.commitLate
    repeat' (first
      | with_reducible assumption
      | with_reducible apply TW.commitBefore_ok
      | with_reducible apply TW.writeRaw_ok)
  | cons e r0 ih =>
    unfold TW.commitLate
    repeat' (first
      | with_reducible assumption
      | with_reducible apply ih
      | with_reducible apply TW.commitBefore_ok
      | with_reducible apply TW.writeRaw_ok)

theorem TW.commitEngines_ok (x : TW) (c : Nat) (h : x.Ok) :
    (TW.commitEngines x c).Ok := by
  unfold TW.commitEngines
  repeat' (first
    | with_reducible assumption
    | refine fun _ => ?_
    | with_reducible apply TW.commitLate_ok
    | with_reducible apply TW.map_ok
    | (refine Tile.ok_lit ?_; dsimp only; exact Tile.Ok.maps (by assumption))
    | (with_reducible refine TW.ok_ite (fun _ => ?_) (fun _ => ?_)))

theorem TW.commitDue_ok (x : TW) (c : Nat) (h : x.Ok) :
    (TW.commitDue x c).Ok := by
  unfold TW.commitDue
  repeat' (first
    | with_reducible assumption
    | refine fun _ => ?_
    | with_reducible apply TW.commitEngines_ok
    | with_reducible apply TW.commitSel_ok
    | with_reducible apply Tile.penArrive_ok
    | with_reducible apply TW.map_ok)

theorem TW.hazard_ok (x : TW) (c code : Nat) (a : Who) (b : Who) (addr : Nat) (blk : Bool) (h : x.Ok) :
    (TW.hazard x c code a b addr blk).Ok := by
  unfold TW.hazard
  repeat' (first
    | with_reducible assumption
    | refine fun _ => ?_
    | with_reducible apply TW.count_ok
    | with_reducible apply TW.emit_ok
    | with_reducible apply TW.map_ok
    | (refine Tile.ok_lit ?_; dsimp only; exact Tile.Ok.maps (by assumption)))

theorem TW.penRead_ok (x : TW) (c : Nat) (who : Who) (a : Nat) (h : x.Ok) :
    (TW.penRead x c who a).Ok := by
  unfold TW.penRead
  repeat' (first
    | with_reducible assumption
    | with_reducible apply TW.hazard_ok
    | (with_reducible refine TW.ok_ite (fun _ => ?_) (fun _ => ?_)))

theorem TW.readPart_ok (x : TW) (c : Nat) (k : AccKind) (who : Who) (a n : Nat) (h : x.Ok) :
    (TW.readPart x c k who a n).2.Ok := by
  unfold TW.readPart
  repeat' (first
    | with_reducible assumption
    | with_reducible apply TW.commitDue_ok
    | with_reducible apply TW.penRead_ok
    | with_reducible apply TW.readRaw_ok
    | with_reducible apply TW.violation_ok
    | (extract_lets +onlyGivenNames z; with_reducible apply TW.ok_cut (x := z); rotate_left; clear_value z; intro hz; rotate_right; subst z)
    | split)

theorem TW.portRead_ok (x : TW) (k : Nat) (who : Who) (row : Nat) (h : x.Ok) :
    (TW.portRead x k who row).2.Ok := by
  unfold TW.portRead
  repeat' (first
    | with_reducible assumption
    | with_reducible apply TW.readPart_ok)

theorem TW.portStep_ok (x : TW) (k : Nat) (who : Who) (rows : List Nat) (got : List PortRead) (busy : Bool) (h : x.Ok) :
    (TW.portStep x k who rows got busy).2.Ok := by
  unfold TW.portStep
  repeat' (first
    | with_reducible assumption
    | refine fun _ => ?_
    | with_reducible apply TW.conflict_ok
    | with_reducible apply TW.portRead_ok
    | with_reducible apply Tile.grant_ok
    | with_reducible apply TW.map_ok
    | with_reducible apply TW.Ok.tile
    | split)

theorem TW.mulPort_ok (x : TW) (k : Nat) (usedP usedQ : Bool) (h : x.Ok) :
    (TW.mulPort x k usedP usedQ).Ok := by
  unfold TW.mulPort
  repeat' (first
    | with_reducible assumption
    | refine fun _ => ?_
    | with_reducible apply TW.portStep_ok
    | with_reducible apply TW.map_ok
    | (refine Tile.ok_lit ?_; dsimp only; exact Tile.Ok.maps (by assumption))
    | with_reducible apply TW.Ok.tile
    | split)

theorem TW.penWrite_ok (x : TW) (c : Nat) (who : Who) (a : Nat) (tag : Option Nat) (h : x.Ok) :
    (TW.penWrite x c who a tag).Ok := by
  unfold TW.penWrite
  repeat' (first
    | with_reducible assumption
    | refine fun _ => ?_
    | with_reducible apply TW.hazard_ok
    | with_reducible apply Tile.setGran_ok
    | with_reducible apply TW.map_ok
    | (extract_lets +onlyGivenNames z; with_reducible apply TW.ok_cut (x := z); rotate_left; clear_value z; intro hz; rotate_right; subst z)
    | extract_lets +onlyGivenNames z
    | split)

theorem TW.glzErr_ok (x : TW) (code stage : Nat) (h : x.Ok) :
    (TW.glzErr x code stage).Ok := by
  unfold TW.glzErr
  repeat' (first
    | with_reducible assumption
    | with_reducible apply TW.put_ok)

theorem TW.glzFail_ok (x : TW) (op : Nat) (h : x.Ok) :
    (TW.glzFail x op).Ok := by
  unfold TW.glzFail
  repeat' (first
    | with_reducible assumption
    | refine fun _ => ?_
    | with_reducible apply TW.glzErr_ok
    | with_reducible apply TW.map_ok
    | (refine Tile.ok_lit ?_; dsimp only; exact Tile.Ok.maps (by assumption))
    | (with_reducible refine TW.ok_ite (fun _ => ?_) (fun _ => ?_)))

theorem TW.glzPut_ok (x : TW) (k : Nat) (w : GlzWrite) (h : x.Ok) :
    (TW.glzPut x k w).Ok := by
  unfold TW.glzPut
  repeat' (first
    | with_reducible assumption
    | refine fun _ => ?_
    | with_reducible apply TW.emit_ok
    | with_reducible apply TW.violation_ok
    | with_reducible apply TW.mergeFind_ok
    | with_reducible apply TW.penWrite_ok
    | with_reducible apply TW.glzFail_ok
    | with_reducible apply TW.map_ok
    | with_reducible apply TW.Ok.tile
    | (extract_lets +onlyGivenNames z; with_reducible apply TW.ok_cut (x := z); rotate_left; clear_value z; intro hz; rotate_right; subst z)
    | (extract_lets +onlyGivenNames z; with_reducible apply Tile.ok_cut (t := z); rotate_left; clear_value z; intro hz; rotate_right; subst z)
    | extract_lets +onlyGivenNames z
    | (refine Tile.ok_lit ?_; dsimp only; exact Tile.Ok.maps (by assumption))
    | with_reducible refine TW.ok_snd (by assumption) ?_
    | with_reducible refine TW.ok_trd (by assumption) ?_
    | split)

theorem TW.glzWrites_ok (x : TW) (k : Nat) (r0 : List GlzWrite) (r1 : Nat) (h : x.Ok) :
    (TW.glzWrites x k r0 r1).2.2.Ok := by
  induction r0 generalizing x k r1 with
  | nil =>
    cases r1
    all_goals unfold TW.glzWrites
    all_goals repeat' (first
      | with_reducible assumption
      | refine fun _ => ?_
      | with_reducible apply Tile.grant_ok
      | with_reducible apply TW.conflict_ok
      | with_reducible apply TW.glzPut_ok
      | with_reducible apply TW.map_ok
      | with_reducible apply TW.Ok.tile
      | (extract_lets +onlyGivenNames z; with_reducible apply TW.ok_cut (x := z); rotate_left; clear_value z; intro hz; rotate_right; subst z)
      | (extract_lets +onlyGivenNames z; with_reducible apply Tile.ok_cut (t := z); rotate_left; clear_value z; intro hz; rotate_right; subst z)
      | extract_lets +onlyGivenNames z
      | (refine Tile.ok_lit ?_; dsimp only; exact Tile.Ok.maps (by assumption))
      | with_reducible refine TW.ok_snd (by assumption) ?_
      | with_reducible refine TW.ok_trd (by assumption) ?_
      | split)
  | cons e_ r0 ih =>
    cases r1
    all_goals unfold TW.glzWrites
    all_goals repeat' (first
      | with_reducible assumption
      | refine fun _ => ?_
      | with_reducible apply ih
      | with_reducible apply Tile.grant_ok
      | with_reducible apply TW.conflict_ok
      | with_reducible apply TW.glzPut_ok
      | with_reducible apply TW.map_ok
      | with_reducible apply TW.Ok.tile
      | (extract_lets +onlyGivenNames z; with_reducible apply TW.ok_cut (x := z); rotate_left; clear_value z; intro hz; rotate_right; subst z)
      | (extract_lets +onlyGivenNames z; with_reducible apply Tile.ok_cut (t := z); rotate_left; clear_value z; intro hz; rotate_right; subst z)
      | extract_lets +onlyGivenNames z
      | (refine Tile.ok_lit ?_; dsimp only; exact Tile.Ok.maps (by assumption))
      | with_reducible refine TW.ok_snd (by assumption) ?_
      | with_reducible refine TW.ok_trd (by assumption) ?_
      | split)

theorem TW.glzReads_ok (x : TW) (k : Nat) (who : Who) (r0 : List Nat) (r1 : Nat) (h : x.Ok) :
    (TW.glzReads x k who r0 r1).2.Ok := by
  induction r0 generalizing x k who r1 with
  | nil =>
    cases r1
    all_goals unfold TW.glzReads
    all_goals repeat' (first
      | with_reducible assumption
      | refine fun _ => ?_
      | with_reducible apply Tile.grant_ok
      | with_reducible apply TW.conflict_ok
      | with_reducible apply TW.portRead_ok
      | with_reducible apply TW.map_ok
      | (refine Tile.ok_lit ?_; dsimp only; exact Tile.Ok.maps (by assumption))
      | with_reducible apply TW.Ok.tile
      | with_reducible refine TW.ok_snd (by assumption) ?_
      | with_reducible refine TW.ok_trd (by assumption) ?_
      | split)
  | cons e_ r0 ih =>
    cases r1
    all_goals unfold TW.glzReads
    all_goals repeat' (first
      | with_reducible assumption
      | refine fun _ => ?_
      | with_reducible apply ih
      | with_reducible apply Tile.grant_ok
      | with_reducible apply TW.conflict_ok
      | with_reducible apply TW.portRead_ok
      | with_reducible apply TW.map_ok
      | (refine Tile.ok_lit ?_; dsimp only; exact Tile.Ok.maps (by assumption))
      | with_reducible apply TW.Ok.tile
      | with_reducible refine TW.ok_snd (by assumption) ?_
      | with_reducible refine TW.ok_trd (by assumption) ?_
      | split)

theorem TW.penAcc_ok (x : TW) (c b : Nat) (who : Who) (h : x.Ok) :
    (TW.penAcc x c b who).Ok := by
  unfold TW.penAcc
  repeat' (first
    | with_reducible assumption
    | with_reducible apply TW.hazard_ok
    | split)

theorem TW.glzAcc_ok (x : TW) (k : Nat) (r : GlzRun) (h : x.Ok) :
    (TW.glzAcc x k r).2.Ok := by
  unfold TW.glzAcc
  repeat' (first
    | with_reducible assumption
    | refine fun _ => ?_
    | with_reducible apply TW.count_ok
    | with_reducible apply Tile.grant_ok
    | with_reducible apply TW.penAcc_ok
    | with_reducible apply TW.map_ok
    | with_reducible apply TW.Ok.tile
    | (extract_lets +onlyGivenNames z; with_reducible apply TW.ok_cut (x := z); rotate_left; clear_value z; intro hz; rotate_right; subst z)
    | (extract_lets +onlyGivenNames z; with_reducible apply Tile.ok_cut (t := z); rotate_left; clear_value z; intro hz; rotate_right; subst z)
    | extract_lets +onlyGivenNames z
    | (refine Tile.ok_lit ?_; dsimp only; exact Tile.Ok.maps (by assumption))
    | split)

theorem Tile.setGlz_ok (t : Tile) (r : GlzRun) (h : t.Ok) :
    (Tile.setGlz t r).Ok := by
  unfold Tile.setGlz
  repeat' (first
    | with_reducible assumption
    | refine fun _ => ?_
    | with_reducible apply TW.map_ok
    | (refine Tile.ok_lit ?_; dsimp only; exact Tile.Ok.maps (by assumption))
    | (with_reducible refine TW.ok_ite (fun _ => ?_) (fun _ => ?_))
    | (with_reducible refine Tile.ok_ite (fun _ => ?_) (fun _ => ?_)))

theorem TW.glzBeatReads_ok (x : TW) (k n : Nat) (h : x.Ok) :
    (TW.glzBeatReads x k n).Ok := by
  unfold TW.glzBeatReads
  repeat' (first
    | with_reducible assumption
    | refine fun _ => ?_
    | with_reducible apply Tile.setGlz_ok
    | with_reducible apply TW.glzReads_ok
    | with_reducible apply TW.glzAcc_ok
    | with_reducible apply TW.map_ok
    | with_reducible apply TW.Ok.tile
    | (extract_lets +onlyGivenNames z; with_reducible apply TW.ok_cut (x := z); rotate_left; clear_value z; intro hz; rotate_right; subst z)
    | (extract_lets +onlyGivenNames z; with_reducible apply Tile.ok_cut (t := z); rotate_left; clear_value z; intro hz; rotate_right; subst z)
    | extract_lets +onlyGivenNames z
    | (refine Tile.ok_lit ?_; dsimp only; exact Tile.Ok.maps (by assumption))
    | (refine Tile.ok_lit ?_; dsimp only [Tile.setGlz]; exact Tile.Ok.maps (by assumption))
    | with_reducible refine TW.ok_snd (by assumption) ?_
    | with_reducible refine TW.ok_trd (by assumption) ?_
    | split)

theorem TW.glzChain_ok (x : TW) (k : Nat) (h : x.Ok) :
    (TW.glzChain x k).2.Ok := by
  unfold TW.glzChain
  repeat' (first
    | with_reducible assumption
    | refine fun _ => ?_
    | with_reducible apply Tile.grant_ok
    | with_reducible apply TW.conflict_ok
    | with_reducible apply TW.portRead_ok
    | with_reducible apply Tile.setGlz_ok
    | with_reducible apply TW.map_ok
    | with_reducible apply TW.Ok.tile
    | (extract_lets +onlyGivenNames z; with_reducible apply TW.ok_cut (x := z); rotate_left; clear_value z; intro hz; rotate_right; subst z)
    | (extract_lets +onlyGivenNames z; with_reducible apply Tile.ok_cut (t := z); rotate_left; clear_value z; intro hz; rotate_right; subst z)
    | extract_lets +onlyGivenNames z
    | (refine Tile.ok_lit ?_; dsimp only; exact Tile.Ok.maps (by assumption))
    | with_reducible refine TW.ok_snd (by assumption) ?_
    | with_reducible refine TW.ok_trd (by assumption) ?_
    | split)

theorem TW.penDone_ok (x : TW) (unit op : Nat) (h : x.Ok) :
    (TW.penDone x unit op).Ok := by
  unfold TW.penDone
  repeat' (first
    | with_reducible assumption
    | refine fun _ => ?_
    | with_reducible apply TW.map_ok
    | (refine Tile.ok_lit ?_; dsimp only; exact Tile.Ok.maps (by assumption))
    | (with_reducible refine TW.ok_ite (fun _ => ?_) (fun _ => ?_)))

theorem TW.glzMarks_ok (x : TW) (h : x.Ok) :
    (TW.glzMarks x).Ok := by
  unfold TW.glzMarks
  repeat' (first
    | with_reducible assumption
    | refine fun _ => ?_
    | with_reducible apply TW.penDone_ok
    | with_reducible apply TW.Ok.tile
    | with_reducible apply TW.ok_foldl
    | with_reducible apply Tile.ok_foldl
    | (with_reducible refine TW.ok_ite (fun _ => ?_) (fun _ => ?_))
    | (with_reducible refine Tile.ok_ite (fun _ => ?_) (fun _ => ?_)))

theorem TW.glzPort_ok (x : TW) (k : Nat) (h : x.Ok) :
    (TW.glzPort x k).Ok := by
  unfold TW.glzPort
  repeat' (first
    | with_reducible assumption
    | refine fun _ => ?_
    | with_reducible apply TW.glzWrites_ok
    | with_reducible apply TW.glzChain_ok
    | with_reducible apply TW.glzBeatReads_ok
    | with_reducible apply TW.glzMarks_ok
    | with_reducible apply TW.map_ok
    | with_reducible apply TW.Ok.tile
    | with_reducible apply TW.ok_foldl
    | with_reducible apply Tile.ok_foldl
    | with_reducible apply TW.ok_foldl_snd
    | (extract_lets +onlyGivenNames z; with_reducible apply TW.ok_cut (x := z); rotate_left; clear_value z; intro hz; rotate_right; subst z)
    | (extract_lets +onlyGivenNames z; with_reducible apply Tile.ok_cut (t := z); rotate_left; clear_value z; intro hz; rotate_right; subst z)
    | extract_lets +onlyGivenNames z
    | (refine Tile.ok_lit ?_; dsimp only; exact Tile.Ok.maps (by assumption))
    | with_reducible refine TW.ok_snd (by assumption) ?_
    | with_reducible refine TW.ok_trd (by assumption) ?_
    | split)

theorem TW.writePart_ok (x : TW) (c : Nat) (who : Who) (a n v : Nat) (marks : List Bool) (h : x.Ok) :
    (TW.writePart x c who a n v marks).2.Ok := by
  unfold TW.writePart
  repeat' (first
    | with_reducible assumption
    | with_reducible apply TW.commitBefore_ok
    | with_reducible apply TW.commitDue_ok
    | with_reducible apply TW.penWrite_ok
    | with_reducible apply TW.violation_ok
    | with_reducible apply TW.writeRaw_ok
    | (extract_lets +onlyGivenNames z; with_reducible apply TW.ok_cut (x := z); rotate_left; clear_value z; intro hz; rotate_right; subst z)
    | split)

theorem TW.edgeTake_ok (x : TW) (k : Nat) (q : EdgeReq) (h : x.Ok) :
    (TW.edgeTake x k q).Ok := by
  unfold TW.edgeTake
  repeat' (first
    | with_reducible assumption
    | with_reducible apply TW.emit_ok
    | with_reducible apply TW.perf_ok
    | with_reducible apply TW.readPart_ok
    | with_reducible apply TW.writePart_ok
    | with_reducible apply TW.Ok.tile
    | with_reducible refine TW.ok_snd (by assumption) ?_
    | with_reducible refine TW.ok_trd (by assumption) ?_
    | split)

theorem TW.vrnPort_ok (x : TW) (k : Nat) (h : x.Ok) :
    (TW.vrnPort x k).Ok := by
  unfold TW.vrnPort
  repeat' (first
    | with_reducible assumption
    | refine fun _ => ?_
    | with_reducible apply TW.perf_ok
    | with_reducible apply TW.readSegs_ok
    | with_reducible apply Tile.grant_ok
    | with_reducible apply TW.conflict_ok
    | with_reducible apply TW.map_ok
    | with_reducible apply TW.Ok.tile
    | (extract_lets +onlyGivenNames z; with_reducible apply TW.ok_cut (x := z); rotate_left; clear_value z; intro hz; rotate_right; subst z)
    | (extract_lets +onlyGivenNames z; with_reducible apply Tile.ok_cut (t := z); rotate_left; clear_value z; intro hz; rotate_right; subst z)
    | extract_lets +onlyGivenNames z
    | (refine Tile.ok_lit ?_; dsimp only; exact Tile.Ok.maps (by assumption))
    | (refine Tile.ok_lit ?_; dsimp only [Tile.grant]; exact Tile.Ok.maps (by assumption))
    | with_reducible refine TW.ok_snd (by assumption) ?_
    | with_reducible refine TW.ok_trd (by assumption) ?_
    | split)

theorem TW.edgePort_ok (x : TW) (k : Nat) (h : x.Ok) :
    (TW.edgePort x k).Ok := by
  unfold TW.edgePort
  repeat' (first
    | with_reducible assumption
    | refine fun _ => ?_
    | with_reducible apply Tile.grant_ok
    | with_reducible apply TW.conflict_ok
    | with_reducible apply TW.edgeTake_ok
    | with_reducible apply TW.vrnPort_ok
    | with_reducible apply TW.map_ok
    | with_reducible apply TW.Ok.tile
    | (extract_lets +onlyGivenNames z; with_reducible apply TW.ok_cut (x := z); rotate_left; clear_value z; intro hz; rotate_right; subst z)
    | (extract_lets +onlyGivenNames z; with_reducible apply Tile.ok_cut (t := z); rotate_left; clear_value z; intro hz; rotate_right; subst z)
    | extract_lets +onlyGivenNames z
    | (refine Tile.ok_lit ?_; dsimp only; exact Tile.Ok.maps (by assumption))
    | (refine Tile.ok_lit ?_; dsimp only [Tile.grant]; exact Tile.Ok.maps (by assumption))
    | with_reducible refine TW.ok_snd (by assumption) ?_
    | split)

theorem TW.portCycle_ok (x : TW) (k : Nat) (usedP usedQ : Bool) (h : x.Ok) :
    (TW.portCycle x k usedP usedQ).Ok := by
  unfold TW.portCycle
  repeat' (first
    | with_reducible assumption
    | refine fun _ => ?_
    | with_reducible apply TW.commitDue_ok
    | with_reducible apply TW.mulPort_ok
    | with_reducible apply TW.glzPort_ok
    | with_reducible apply TW.edgePort_ok
    | with_reducible apply TW.map_ok
    | with_reducible apply TW.Ok.tile
    | (extract_lets +onlyGivenNames z; with_reducible apply TW.ok_cut (x := z); rotate_left; clear_value z; intro hz; rotate_right; subst z)
    | (extract_lets +onlyGivenNames z; with_reducible apply Tile.ok_cut (t := z); rotate_left; clear_value z; intro hz; rotate_right; subst z)
    | extract_lets +onlyGivenNames z
    | (refine Tile.ok_lit ?_; dsimp only; exact Tile.Ok.maps (by assumption))
    | (with_reducible refine TW.ok_ite (fun _ => ?_) (fun _ => ?_))
    | (with_reducible refine Tile.ok_ite (fun _ => ?_) (fun _ => ?_)))

theorem TW.portsGo_ok (x : TW) (k : Nat) (r0 : Nat) (h : x.Ok) :
    (TW.portsGo x k r0).Ok := by
  induction r0 generalizing x k with
  | zero =>
    unfold TW.portsGo
    repeat' (first
      | with_reducible assumption
      | with_reducible apply TW.portCycle_ok)
  | succ r0 ih =>
    unfold TW.portsGo
    repeat' (first
      | with_reducible assumption
      | with_reducible apply ih
      | with_reducible apply TW.portCycle_ok)

theorem TW.ports_ok (x : TW) (c : Nat) (h : x.Ok) :
    (TW.ports x c).Ok := by
  unfold TW.ports
  repeat' (first
    | with_reducible assumption
    | refine fun _ => ?_
    | with_reducible apply TW.portsGo_ok
    | with_reducible apply TW.map_ok
    | with_reducible apply TW.Ok.tile
    | (extract_lets +onlyGivenNames z; with_reducible apply TW.ok_cut (x := z); rotate_left; clear_value z; intro hz; rotate_right; subst z)
    | (extract_lets +onlyGivenNames z; with_reducible apply Tile.ok_cut (t := z); rotate_left; clear_value z; intro hz; rotate_right; subst z)
    | extract_lets +onlyGivenNames z
    | (refine Tile.ok_lit ?_; dsimp only; exact Tile.Ok.maps (by assumption))
    | (with_reducible refine TW.ok_ite (fun _ => ?_) (fun _ => ?_))
    | (with_reducible refine Tile.ok_ite (fun _ => ?_) (fun _ => ?_)))

theorem TW.accRequest_ok (x : TW) (c blk rank : Nat) (r0 : Nat) (h : x.Ok) :
    (TW.accRequest x c blk rank r0).2.Ok := by
  induction r0 generalizing x c blk rank with
  | zero =>
    unfold TW.accRequest
    repeat' (first
      | with_reducible assumption
      | refine fun _ => ?_
      | with_reducible apply TW.count_ok
      | with_reducible apply Tile.grant_ok
      | with_reducible apply TW.ports_ok
      | with_reducible apply TW.map_ok
      | with_reducible apply TW.Ok.tile
      | (extract_lets +onlyGivenNames z; with_reducible apply TW.ok_cut (x := z); rotate_left; clear_value z; intro hz; rotate_right; subst z)
      | (extract_lets +onlyGivenNames z; with_reducible apply Tile.ok_cut (t := z); rotate_left; clear_value z; intro hz; rotate_right; subst z)
      | extract_lets +onlyGivenNames z
      | (refine Tile.ok_lit ?_; dsimp only; exact Tile.Ok.maps (by assumption))
      | split)
  | succ r0 ih =>
    unfold TW.accRequest
    repeat' (first
      | with_reducible assumption
      | refine fun _ => ?_
      | with_reducible apply ih
      | with_reducible apply TW.count_ok
      | with_reducible apply Tile.grant_ok
      | with_reducible apply TW.ports_ok
      | with_reducible apply TW.map_ok
      | with_reducible apply TW.Ok.tile
      | (extract_lets +onlyGivenNames z; with_reducible apply TW.ok_cut (x := z); rotate_left; clear_value z; intro hz; rotate_right; subst z)
      | (extract_lets +onlyGivenNames z; with_reducible apply Tile.ok_cut (t := z); rotate_left; clear_value z; intro hz; rotate_right; subst z)
      | extract_lets +onlyGivenNames z
      | (refine Tile.ok_lit ?_; dsimp only; exact Tile.Ok.maps (by assumption))
      | split)

theorem TW.accGrant_ok (x : TW) (c blk rank : Nat) (h : x.Ok) :
    (TW.accGrant x c blk rank).2.Ok := by
  unfold TW.accGrant
  repeat' (first
    | with_reducible assumption
    | with_reducible apply TW.accRequest_ok)

theorem TW.penPending_ok (x : TW) (who : Who) (row : Nat) (r0 : Nat) (h : x.Ok) :
    (TW.penPending x who row r0).Ok := by
  induction r0 generalizing x who row with
  | zero =>
    unfold TW.penPending
    repeat' (first
      | with_reducible assumption
      | refine fun _ => ?_
      | with_reducible apply Tile.setGran_ok
      | with_reducible apply TW.map_ok
      | (with_reducible refine TW.ok_ite (fun _ => ?_) (fun _ => ?_)))
  | succ r0 ih =>
    unfold TW.penPending
    repeat' (first
      | with_reducible assumption
      | refine fun _ => ?_
      | with_reducible apply ih
      | with_reducible apply Tile.setGran_ok
      | with_reducible apply TW.map_ok
      | (with_reducible refine TW.ok_ite (fun _ => ?_) (fun _ => ?_)))

theorem TW.penClaim_ok (x : TW) (who : Who) (row : Nat) (r0 : Nat) (h : x.Ok) :
    (TW.penClaim x who row r0).Ok := by
  induction r0 generalizing x who row with
  | zero =>
    unfold TW.penClaim
    repeat' (first
      | with_reducible assumption
      | refine fun _ => ?_
      | with_reducible apply Tile.setGran_ok
      | with_reducible apply TW.map_ok
      | with_reducible apply TW.Ok.tile
      | (with_reducible refine TW.ok_ite (fun _ => ?_) (fun _ => ?_)))
  | succ r0 ih =>
    unfold TW.penClaim
    repeat' (first
      | with_reducible assumption
      | refine fun _ => ?_
      | with_reducible apply ih
      | with_reducible apply Tile.setGran_ok
      | with_reducible apply TW.map_ok
      | with_reducible apply TW.Ok.tile
      | (with_reducible refine TW.ok_ite (fun _ => ?_) (fun _ => ?_)))

theorem TW.overlay_ok (x : TW) (h : x.Ok) :
    (TW.overlay x).Ok := by
  unfold TW.overlay
  repeat' (first
    | with_reducible assumption
    | with_reducible apply TW.commitList_ok
    | (refine TW.ok_lit ?_; dsimp only)
    | with_reducible apply TW.Ok.tile)

theorem TW.partWrite_ok (x : TW) (c k : Nat) (m v : Word) (h : x.Ok) :
    (TW.partWrite x c k m v).Ok := by
  unfold TW.partWrite
  repeat' (first
    | with_reducible assumption
    | refine fun _ => ?_
    | with_reducible apply TW.put_ok
    | with_reducible apply TW.map_ok
    | (refine Tile.ok_lit ?_; dsimp only; refine TileMaps.setRegs (Tile.Ok.maps (by assumption)) ?_; intro h0; repeat' (first | exact h0 | with_reducible apply rput_wf | with_reducible apply rset_wf | with_reducible apply CSet.event_wf | with_reducible apply SMap.clear_wf))
    | (with_reducible refine TW.ok_ite (fun _ => ?_) (fun _ => ?_)))

theorem Tile.setAcc_ok (t : Tile) (i : Nat) (v : BitVec 32) (h : t.Ok) :
    (Tile.setAcc t i v).Ok := Tile.ok_lit (h.maps.setAcc fun h => SMap.wf_put0 _ _ _ _ _ rfl h)

theorem TW.commitStores_ok (x : TW) (c : Nat) (h : x.Ok) :
    (TW.commitStores x c).Ok := by
  unfold TW.commitStores
  repeat' (first
    | with_reducible assumption
    | with_reducible apply TW.commitDue_ok
    | with_reducible apply TW.ports_ok)

theorem TW.commitAll_ok (x : TW) (h : x.Ok) :
    (TW.commitAll x).Ok := by
  unfold TW.commitAll
  repeat' (first
    | with_reducible assumption
    | with_reducible apply TW.commitDue_ok
    | with_reducible apply TW.commitStores_ok)

theorem TW.requestGo_ok (x : TW) (c bank rank : Nat) (r0 : Nat) (h : x.Ok) :
    (TW.requestGo x c bank rank r0).2.Ok := by
  induction r0 generalizing x c bank rank with
  | zero =>
    unfold TW.requestGo
    repeat' (first
      | with_reducible assumption
      | refine fun _ => ?_
      | with_reducible apply TW.conflict_ok
      | with_reducible apply TW.ports_ok
      | with_reducible apply Tile.grant_ok
      | with_reducible apply TW.map_ok
      | (extract_lets +onlyGivenNames z; with_reducible apply TW.ok_cut (x := z); rotate_left; clear_value z; intro hz; rotate_right; subst z)
      | split)
  | succ r0 ih =>
    unfold TW.requestGo
    repeat' (first
      | with_reducible assumption
      | refine fun _ => ?_
      | with_reducible apply ih
      | with_reducible apply TW.conflict_ok
      | with_reducible apply TW.ports_ok
      | with_reducible apply Tile.grant_ok
      | with_reducible apply TW.map_ok
      | (extract_lets +onlyGivenNames z; with_reducible apply TW.ok_cut (x := z); rotate_left; clear_value z; intro hz; rotate_right; subst z)
      | split)

theorem TW.claim_ok (x : TW) (c bank rank : Nat) (h : x.Ok) :
    (TW.claim x c bank rank).2.Ok := by
  unfold TW.claim
  repeat' (first
    | with_reducible assumption
    | with_reducible apply TW.requestGo_ok)

theorem TW.edgeWait_ok (x : TW) (k : Nat) (r0 : Nat) (h : x.Ok) :
    (TW.edgeWait x k r0).Ok := by
  induction r0 generalizing x k with
  | zero =>
    unfold TW.edgeWait
    repeat' (first
      | with_reducible assumption
      | with_reducible apply TW.ports_ok
      | with_reducible apply TW.Ok.tile
      | split)
  | succ r0 ih =>
    unfold TW.edgeWait
    repeat' (first
      | with_reducible assumption
      | with_reducible apply ih
      | with_reducible apply TW.ports_ok
      | with_reducible apply TW.Ok.tile
      | split)

theorem TW.edgeClaim_ok (x : TW) (c bank prio : Nat) (h : x.Ok) :
    (TW.edgeClaim x c bank prio).2.Ok := by
  unfold TW.edgeClaim
  repeat' (first
    | with_reducible assumption
    | refine fun _ => ?_
    | with_reducible apply TW.ports_ok
    | with_reducible apply TW.edgeWait_ok
    | with_reducible apply TW.map_ok
    | with_reducible apply TW.Ok.tile
    | (extract_lets +onlyGivenNames z; with_reducible apply TW.ok_cut (x := z); rotate_left; clear_value z; intro hz; rotate_right; subst z)
    | (extract_lets +onlyGivenNames z; with_reducible apply Tile.ok_cut (t := z); rotate_left; clear_value z; intro hz; rotate_right; subst z)
    | extract_lets +onlyGivenNames z
    | (refine Tile.ok_lit ?_; dsimp only; exact Tile.Ok.maps (by assumption))
    | (refine TW.ok_lit ?_; dsimp only))

theorem Tile.rxZero_ok (t : Tile) (k : Nat) (h : t.Ok) :
    (Tile.rxZero t k).Ok := by
  unfold Tile.rxZero
  repeat' (first
    | with_reducible assumption
    | (refine Tile.ok_lit ?_; dsimp only; exact Tile.Ok.maps (by assumption)))

theorem Tile.rxClose_ok (t : Tile) (k : Nat) (h : t.Ok) :
    (Tile.rxClose t k).Ok := by
  unfold Tile.rxClose
  repeat' (first
    | with_reducible assumption
    | with_reducible apply Tile.put_ok
    | with_reducible apply Tile.rxZero_ok)

theorem TW.rxCfgWrite_ok (x : TW) (k : Nat) (m v : Word) (h : x.Ok) :
    (TW.rxCfgWrite x k m v).Ok := by
  unfold TW.rxCfgWrite
  repeat' (first
    | with_reducible assumption
    | refine fun _ => ?_
    | with_reducible apply TW.emit_ok
    | with_reducible apply TW.penPending_ok
    | with_reducible apply TW.put_ok
    | with_reducible apply Tile.put_ok
    | with_reducible apply Tile.rxClose_ok
    | with_reducible apply Tile.rxZero_ok
    | with_reducible apply TW.map_ok
    | extract_lets +onlyGivenNames z
    | with_reducible apply TW.Ok.tile
    | (refine Tile.ok_lit ?_; dsimp only; refine TileMaps.setRegs (Tile.Ok.maps (by assumption)) ?_; intro h0; repeat' (first | exact h0 | with_reducible apply rput_wf | with_reducible apply rset_wf | with_reducible apply CSet.event_wf | with_reducible apply SMap.clear_wf))
    | split)

theorem TW.rxReleaseGo_ok (x : TW) (k nbuf : Nat) (r0 : Nat) (r1 : Nat) (h : x.Ok) :
    (TW.rxReleaseGo x k nbuf r0 r1).2.Ok := by
  induction r0 generalizing x k nbuf r1 with
  | zero =>
    unfold TW.rxReleaseGo
    repeat' (first
      | with_reducible assumption
      | refine fun _ => ?_
      | with_reducible apply TW.penPending_ok
      | with_reducible apply TW.put_ok
      | with_reducible apply Tile.put_ok
      | with_reducible apply TW.map_ok
      | (extract_lets +onlyGivenNames z; with_reducible apply TW.ok_cut (x := z); rotate_left; clear_value z; intro hz; rotate_right; subst z)
      | extract_lets +onlyGivenNames z
      | (refine Tile.ok_lit ?_; dsimp only; exact Tile.Ok.maps (by assumption))
      | split)
  | succ r0 ih =>
    unfold TW.rxReleaseGo
    repeat' (first
      | with_reducible assumption
      | refine fun _ => ?_
      | with_reducible apply ih
      | with_reducible apply TW.penPending_ok
      | with_reducible apply TW.put_ok
      | with_reducible apply Tile.put_ok
      | with_reducible apply TW.map_ok
      | (extract_lets +onlyGivenNames z; with_reducible apply TW.ok_cut (x := z); rotate_left; clear_value z; intro hz; rotate_right; subst z)
      | extract_lets +onlyGivenNames z
      | (refine Tile.ok_lit ?_; dsimp only; exact Tile.Ok.maps (by assumption))
      | split)

theorem TW.rxRelWrite_ok (x : TW) (k n : Nat) (h : x.Ok) :
    (TW.rxRelWrite x k n).Ok := by
  unfold TW.rxRelWrite
  repeat' (first
    | with_reducible assumption
    | with_reducible apply TW.emit_ok
    | with_reducible apply TW.put_ok
    | with_reducible apply TW.rxReleaseGo_ok
    | (refine TW.ok_lit ?_; dsimp only)
    | with_reducible apply TW.Ok.tile
    | split)

theorem TW.rxFill_ok (x : TW) (k nbuf : Nat) (r0 : Nat) (h : x.Ok) :
    (TW.rxFill x k nbuf r0).Ok := by
  induction r0 generalizing x k nbuf with
  | zero =>
    unfold TW.rxFill
    repeat' (first
      | with_reducible assumption
      | with_reducible apply TW.emit_ok
      | with_reducible apply TW.put_ok
      | (with_reducible refine TW.ok_ite (fun _ => ?_) (fun _ => ?_)))
  | succ r0 ih =>
    unfold TW.rxFill
    repeat' (first
      | with_reducible assumption
      | with_reducible apply ih
      | with_reducible apply TW.emit_ok
      | with_reducible apply TW.put_ok
      | (with_reducible refine TW.ok_ite (fun _ => ?_) (fun _ => ?_)))

theorem TW.edgePut_ok (x : TW) (c a n v : Nat) (marks : List Bool) (h : x.Ok) :
    (TW.edgePut x c a n v marks).Ok := by
  unfold TW.edgePut
  repeat' (first
    | with_reducible assumption
    | with_reducible apply TW.perf_ok
    | with_reducible apply TW.writeRaw_ok
    | with_reducible apply TW.penWrite_ok
    | with_reducible apply TW.commitBefore_ok
    | (refine TW.ok_lit ?_; dsimp only))

theorem TW.edgeWrite_ok (x : TW) (c a n v : Nat) (marks : List Bool) (r0 : Nat) (h : x.Ok) :
    (TW.edgeWrite x c a n v marks r0).Ok := by
  induction r0 generalizing x c a n v marks with
  | zero =>
    unfold TW.edgeWrite
    repeat' (first
      | with_reducible assumption
      | with_reducible apply TW.edgeClaim_ok
      | with_reducible apply TW.edgePut_ok
      | (extract_lets +onlyGivenNames z; with_reducible apply TW.ok_cut (x := z); rotate_left; clear_value z; intro hz; rotate_right; subst z)
      | (extract_lets +onlyGivenNames z; with_reducible apply Tile.ok_cut (t := z); rotate_left; clear_value z; intro hz; rotate_right; subst z)
      | extract_lets +onlyGivenNames z
      | with_reducible refine TW.ok_snd (by assumption) ?_
      | split)
  | succ r0 ih =>
    unfold TW.edgeWrite
    repeat' (first
      | with_reducible assumption
      | with_reducible apply ih
      | with_reducible apply TW.edgeClaim_ok
      | with_reducible apply TW.edgePut_ok
      | (extract_lets +onlyGivenNames z; with_reducible apply TW.ok_cut (x := z); rotate_left; clear_value z; intro hz; rotate_right; subst z)
      | (extract_lets +onlyGivenNames z; with_reducible apply Tile.ok_cut (t := z); rotate_left; clear_value z; intro hz; rotate_right; subst z)
      | extract_lets +onlyGivenNames z
      | with_reducible refine TW.ok_snd (by assumption) ?_
      | split)

theorem TW.rxFull_ok (x : TW) (k i first : Nat) (h : x.Ok) :
    (TW.rxFull x k i first).Ok := by
  unfold TW.rxFull
  repeat' (first
    | with_reducible assumption
    | refine fun _ => ?_
    | with_reducible apply Tile.put_ok
    | with_reducible apply TW.put_ok
    | with_reducible apply TW.rxFill_ok
    | with_reducible apply TW.map_ok
    | with_reducible apply TW.Ok.tile
    | (extract_lets +onlyGivenNames z; with_reducible apply TW.ok_cut (x := z); rotate_left; clear_value z; intro hz; rotate_right; subst z)
    | (extract_lets +onlyGivenNames z; with_reducible apply Tile.ok_cut (t := z); rotate_left; clear_value z; intro hz; rotate_right; subst z)
    | extract_lets +onlyGivenNames z
    | (refine Tile.ok_lit ?_; dsimp only; exact Tile.Ok.maps (by assumption))
    | (with_reducible refine TW.ok_ite (fun _ => ?_) (fun _ => ?_))
    | (with_reducible refine Tile.ok_ite (fun _ => ?_) (fun _ => ?_)))

theorem TW.rxWrite_ok (x : TW) (c flow epoch a n v : Nat) (marks : List Bool) (h : x.Ok) :
    (TW.rxWrite x c flow epoch a n v marks).2.Ok := by
  unfold TW.rxWrite
  repeat' (first
    | with_reducible assumption
    | refine fun _ => ?_
    | with_reducible apply Tile.put_ok
    | with_reducible apply TW.put_ok
    | with_reducible apply TW.emit_ok
    | with_reducible apply TW.count_ok
    | with_reducible apply TW.violation_ok
    | with_reducible apply TW.commitStores_ok
    | with_reducible apply TW.edgeClaim_ok
    | with_reducible apply TW.edgePut_ok
    | with_reducible apply TW.edgeWrite_ok
    | with_reducible apply TW.rxFull_ok
    | with_reducible apply TW.map_ok
    | with_reducible apply TW.Ok.tile
    | (extract_lets +onlyGivenNames z; with_reducible apply TW.ok_cut (x := z); rotate_left; clear_value z; intro hz; rotate_right; subst z)
    | (extract_lets +onlyGivenNames z; with_reducible apply Tile.ok_cut (t := z); rotate_left; clear_value z; intro hz; rotate_right; subst z)
    | extract_lets +onlyGivenNames z
    | (refine Tile.ok_lit ?_; dsimp only; exact Tile.Ok.maps (by assumption))
    | with_reducible refine TW.ok_snd (by assumption) ?_
    | with_reducible refine TW.ok_trd (by assumption) ?_
    | split)

theorem TW.writeBackOne_ok (x : TW) (c bank : Nat) (h : x.Ok) :
    (TW.writeBackOne x c bank).Ok := by
  unfold TW.writeBackOne
  repeat' (first
    | with_reducible assumption
    | refine fun _ => ?_
    | with_reducible apply Tile.grant_ok
    | with_reducible apply TW.map_ok
    | (refine Tile.ok_lit ?_; dsimp only; exact Tile.Ok.maps (by assumption))
    | split)

theorem TW.patrolOne_ok (x : TW) (c bank : Nat) (h : x.Ok) :
    (TW.patrolOne x c bank).Ok := by
  unfold TW.patrolOne
  repeat' (first
    | with_reducible assumption
    | refine fun _ => ?_
    | with_reducible apply TW.commitStores_ok
    | with_reducible apply TW.readSegs_ok
    | with_reducible apply Tile.grant_ok
    | with_reducible apply TW.map_ok
    | (refine Tile.ok_lit ?_; dsimp only; exact Tile.Ok.maps (by assumption))
    | with_reducible apply TW.Ok.tile
    | (with_reducible refine TW.ok_ite (fun _ => ?_) (fun _ => ?_)))

theorem TW.patrolWrite_ok (x : TW) (c v : Nat) (h : x.Ok) :
    (TW.patrolWrite x c v).Ok := by
  unfold TW.patrolWrite
  repeat' (first
    | with_reducible assumption
    | refine fun _ => ?_
    | with_reducible apply TW.put_ok
    | with_reducible apply TW.map_ok
    | (refine Tile.ok_lit ?_; dsimp only; exact Tile.Ok.maps (by assumption))
    | (with_reducible refine TW.ok_ite (fun _ => ?_) (fun _ => ?_)))

theorem Tile.gessoStart_ok (t : Tile) (h : t.Ok) :
    (Tile.gessoStart t).Ok := by
  have hp := h.maps
  exact Tile.put_ok _ _ _ (Tile.ok_lit ⟨rfl, rfl, hp.pal, hp.acc, rfl⟩)

theorem Tile.gessoDone_ok (t : Tile) (h : t.Ok) :
    (Tile.gessoDone t).Ok := by
  have hp := h.maps
  exact Tile.ok_lit ⟨hp.regs, hp.sregs, rfl, rfl, hp.zero⟩

theorem Tile.setReg_ok (t : Tile) (k : Nat) (v : Word) (tag : Bool) (h : t.Ok) :
    (Tile.setReg t k v tag).Ok := by
  unfold Tile.setReg
  split
  · exact h
  · next hk =>
    exact Tile.ok_lit (h.maps.setSregs (fun h => SMap.wf_put0 _ _ _ _ _ rfl h)
      (fun h => SMap.find_none_put _ _ _ _ _ (fun e => hk e.symm) h))

theorem Tile.setPred_ok (t : Tile) (k : Nat) (v : Bool) (h : t.Ok) :
    (Tile.setPred t k v).Ok := by
  unfold Tile.setPred
  repeat' (first
    | with_reducible assumption
    | (refine Tile.ok_lit ?_; dsimp only; exact Tile.Ok.maps (by assumption))
    | (with_reducible refine Tile.ok_ite (fun _ => ?_) (fun _ => ?_)))

theorem Tile.settleList_ok (t : Tile) (r0 : List Pend) (h : t.Ok) :
    (Tile.settleList t r0).Ok := by
  induction r0 generalizing t with
  | nil =>
    unfold Tile.settleList
    repeat' (first
      | with_reducible assumption
      | with_reducible apply Tile.setReg_ok)
  | cons e r0 ih =>
    unfold Tile.settleList
    repeat' (first
      | with_reducible assumption
      | with_reducible apply ih
      | with_reducible apply Tile.setReg_ok)

theorem Tile.settle_ok (t : Tile) (c : Nat) (h : t.Ok) :
    (Tile.settle t c).Ok := by
  unfold Tile.settle
  repeat' (first
    | with_reducible assumption
    | with_reducible apply Tile.settleList_ok
    | (extract_lets +onlyGivenNames z; with_reducible apply Tile.ok_cut (t := z); rotate_left; clear_value z; intro hz; rotate_right; subst z)
    | (refine Tile.ok_lit ?_; dsimp only; exact Tile.Ok.maps (by assumption)))

theorem Tile.later_ok (t : Tile) (k : Nat) (v : Word) (tag : Bool) (due : Nat) (h : t.Ok) :
    (Tile.later t k v tag due).Ok := by
  unfold Tile.later
  repeat' (first
    | with_reducible assumption
    | (refine Tile.ok_lit ?_; dsimp only; exact Tile.Ok.maps (by assumption)))

theorem Tile.takeToken_ok (t : Tile) (k : Nat) (h : t.Ok) :
    (Tile.takeToken t k).Ok := by
  unfold Tile.takeToken
  repeat' (first
    | with_reducible assumption
    | (refine Tile.ok_lit ?_; dsimp only; exact Tile.Ok.maps (by assumption))
    | (with_reducible refine Tile.ok_ite (fun _ => ?_) (fun _ => ?_)))

theorem Tile.clearToken_ok (t : Tile) (q : Queue) (k status c : Nat) (h : t.Ok) :
    (Tile.clearToken t q k status c).Ok := by
  unfold Tile.clearToken
  repeat' (first
    | with_reducible assumption
    | refine fun _ => ?_
    | with_reducible apply Tile.put_ok
    | with_reducible apply TW.put_ok
    | (extract_lets +onlyGivenNames z; with_reducible apply TW.ok_cut (x := z); rotate_left; clear_value z; intro hz; rotate_right; subst z)
    | (extract_lets +onlyGivenNames z; with_reducible apply Tile.ok_cut (t := z); rotate_left; clear_value z; intro hz; rotate_right; subst z)
    | extract_lets +onlyGivenNames z
    | (refine Tile.ok_lit ?_; dsimp only; exact Tile.Ok.maps (by assumption))
    | (with_reducible refine TW.ok_ite (fun _ => ?_) (fun _ => ?_))
    | (with_reducible refine Tile.ok_ite (fun _ => ?_) (fun _ => ?_)))

theorem TW.fault_ok (x : TW) (c code : Nat) (h : x.Ok) :
    (TW.fault x c code).Ok := by
  unfold TW.fault
  repeat' (first
    | with_reducible assumption
    | refine fun _ => ?_
    | with_reducible apply TW.emit_ok
    | with_reducible apply TW.put_ok
    | with_reducible apply TW.violation_ok
    | with_reducible apply TW.map_ok
    | (refine Tile.ok_lit ?_; dsimp only; exact Tile.Ok.maps (by assumption))
    | (with_reducible refine TW.ok_ite (fun _ => ?_) (fun _ => ?_)))

theorem TW.startRow_ok (x : TW) (r c : Nat) (h : x.Ok) :
    (TW.startRow x r c).Ok := by
  unfold TW.startRow
  repeat' (first
    | with_reducible assumption
    | refine fun _ => ?_
    | with_reducible apply TW.map_ok
    | (extract_lets +onlyGivenNames z; with_reducible apply TW.ok_cut (x := z); rotate_left; clear_value z; intro hz; rotate_right; subst z)
    | (extract_lets +onlyGivenNames z; with_reducible apply Tile.ok_cut (t := z); rotate_left; clear_value z; intro hz; rotate_right; subst z)
    | extract_lets +onlyGivenNames z
    | (refine Tile.ok_lit ?_; dsimp only; exact Tile.Ok.maps (by assumption)))

theorem TW.rowGranted_ok (x : TW) (r st k : Nat) (h : x.Ok) :
    (TW.rowGranted x r st k).Ok := by
  unfold TW.rowGranted
  repeat' (first
    | with_reducible assumption
    | refine fun _ => ?_
    | with_reducible apply TW.readSegs_ok
    | with_reducible apply TW.commitDue_ok
    | with_reducible apply TW.map_ok
    | with_reducible apply TW.Ok.tile
    | (extract_lets +onlyGivenNames z; with_reducible apply TW.ok_cut (x := z); rotate_left; clear_value z; intro hz; rotate_right; subst z)
    | (extract_lets +onlyGivenNames z; with_reducible apply Tile.ok_cut (t := z); rotate_left; clear_value z; intro hz; rotate_right; subst z)
    | extract_lets +onlyGivenNames z
    | (refine Tile.ok_lit ?_; dsimp only; exact Tile.Ok.maps (by assumption))
    | with_reducible refine TW.ok_snd (by assumption) ?_
    | with_reducible refine TW.ok_trd (by assumption) ?_
    | split)

theorem TW.fetchTo_ok (x : TW) (c : Nat) (h : x.Ok) :
    (TW.fetchTo x c).Ok := by
  unfold TW.fetchTo
  repeat' (first
    | with_reducible assumption
    | refine fun _ => ?_
    | with_reducible apply TW.requestGo_ok
    | with_reducible apply TW.rowGranted_ok
    | with_reducible apply TW.map_ok
    | with_reducible apply TW.Ok.tile
    | (extract_lets +onlyGivenNames z; with_reducible apply TW.ok_cut (x := z); rotate_left; clear_value z; intro hz; rotate_right; subst z)
    | (extract_lets +onlyGivenNames z; with_reducible apply Tile.ok_cut (t := z); rotate_left; clear_value z; intro hz; rotate_right; subst z)
    | extract_lets +onlyGivenNames z
    | (refine Tile.ok_lit ?_; dsimp only; exact Tile.Ok.maps (by assumption))
    | with_reducible refine TW.ok_snd (by assumption) ?_
    | with_reducible refine TW.ok_trd (by assumption) ?_
    | split)

theorem TW.enterRow_ok (x : TW) (c : Nat) (port : Bool) (h : x.Ok) :
    (TW.enterRow x c port).Ok := by
  unfold TW.enterRow
  repeat' (first
    | with_reducible assumption
    | refine fun _ => ?_
    | with_reducible apply TW.fetchTo_ok
    | with_reducible apply TW.startRow_ok
    | with_reducible apply TW.map_ok
    | with_reducible apply TW.Ok.tile
    | (extract_lets +onlyGivenNames z; with_reducible apply TW.ok_cut (x := z); rotate_left; clear_value z; intro hz; rotate_right; subst z)
    | (extract_lets +onlyGivenNames z; with_reducible apply Tile.ok_cut (t := z); rotate_left; clear_value z; intro hz; rotate_right; subst z)
    | extract_lets +onlyGivenNames z
    | (refine Tile.ok_lit ?_; dsimp only; exact Tile.Ok.maps (by assumption))
    | with_reducible refine TW.ok_snd (by assumption) ?_
    | with_reducible refine TW.ok_trd (by assumption) ?_
    | split)

theorem Tile.rowSlip_ok (t : Tile) (lo : Nat) (h : t.Ok) :
    (Tile.rowSlip t lo).Ok := by
  unfold Tile.rowSlip
  repeat' (first
    | with_reducible assumption
    | (extract_lets +onlyGivenNames z; with_reducible apply TW.ok_cut (x := z); rotate_left; clear_value z; intro hz; rotate_right; subst z)
    | (extract_lets +onlyGivenNames z; with_reducible apply Tile.ok_cut (t := z); rotate_left; clear_value z; intro hz; rotate_right; subst z)
    | extract_lets +onlyGivenNames z
    | (refine Tile.ok_lit ?_; dsimp only; exact Tile.Ok.maps (by assumption))
    | with_reducible refine TW.ok_snd (by assumption) ?_
    | split)

theorem TW.rowDelivered_ok (x : TW) (h : x.Ok) :
    (TW.rowDelivered x).Ok := by
  unfold TW.rowDelivered
  repeat' (first
    | with_reducible assumption
    | refine fun _ => ?_
    | with_reducible apply TW.requestGo_ok
    | with_reducible apply TW.rowGranted_ok
    | with_reducible apply TW.map_ok
    | with_reducible apply TW.Ok.tile
    | (extract_lets +onlyGivenNames z; with_reducible apply TW.ok_cut (x := z); rotate_left; clear_value z; intro hz; rotate_right; subst z)
    | (extract_lets +onlyGivenNames z; with_reducible apply Tile.ok_cut (t := z); rotate_left; clear_value z; intro hz; rotate_right; subst z)
    | extract_lets +onlyGivenNames z
    | (refine Tile.ok_lit ?_; dsimp only; exact Tile.Ok.maps (by assumption))
    | with_reducible refine TW.ok_snd (by assumption) ?_
    | with_reducible refine TW.ok_trd (by assumption) ?_
    | split)

theorem Tile.loopEnd_ok (t : Tile) (r0 : List Loop) (h : t.Ok) :
    (Tile.loopEnd t r0).Ok := by
  induction r0 generalizing t with
  | nil =>
    unfold Tile.loopEnd
    repeat' (first
      | with_reducible assumption
      | refine fun _ => ?_
      | with_reducible apply TW.count_ok
      | with_reducible apply TW.map_ok
      | (extract_lets +onlyGivenNames z; with_reducible apply TW.ok_cut (x := z); rotate_left; clear_value z; intro hz; rotate_right; subst z)
      | (extract_lets +onlyGivenNames z; with_reducible apply Tile.ok_cut (t := z); rotate_left; clear_value z; intro hz; rotate_right; subst z)
      | extract_lets +onlyGivenNames z
      | (refine Tile.ok_lit ?_; dsimp only; exact Tile.Ok.maps (by assumption))
      | split)
  | cons e_ r0 ih =>
    unfold Tile.loopEnd
    repeat' (first
      | with_reducible assumption
      | refine fun _ => ?_
      | with_reducible apply ih
      | with_reducible apply TW.count_ok
      | with_reducible apply TW.map_ok
      | (extract_lets +onlyGivenNames z; with_reducible apply TW.ok_cut (x := z); rotate_left; clear_value z; intro hz; rotate_right; subst z)
      | (extract_lets +onlyGivenNames z; with_reducible apply Tile.ok_cut (t := z); rotate_left; clear_value z; intro hz; rotate_right; subst z)
      | extract_lets +onlyGivenNames z
      | (refine Tile.ok_lit ?_; dsimp only; exact Tile.Ok.maps (by assumption))
      | split)

theorem Tile.advance_ok (t : Tile) (h : t.Ok) :
    (Tile.advance t).Ok := by
  unfold Tile.advance
  repeat' (first
    | with_reducible assumption
    | with_reducible apply Tile.loopEnd_ok)

theorem TW.branch_ok (x : TW) (c target : Nat) (h : x.Ok) :
    (TW.branch x c target).Ok := by
  unfold TW.branch
  repeat' (first
    | with_reducible assumption
    | refine fun _ => ?_
    | with_reducible apply TW.fetchTo_ok
    | with_reducible apply TW.startRow_ok
    | with_reducible apply TW.map_ok
    | with_reducible apply TW.Ok.tile
    | (extract_lets +onlyGivenNames z; with_reducible apply TW.ok_cut (x := z); rotate_left; clear_value z; intro hz; rotate_right; subst z)
    | (extract_lets +onlyGivenNames z; with_reducible apply Tile.ok_cut (t := z); rotate_left; clear_value z; intro hz; rotate_right; subst z)
    | extract_lets +onlyGivenNames z
    | (refine Tile.ok_lit ?_; dsimp only; exact Tile.Ok.maps (by assumption))
    | (with_reducible refine TW.ok_ite (fun _ => ?_) (fun _ => ?_))
    | (with_reducible refine Tile.ok_ite (fun _ => ?_) (fun _ => ?_)))

theorem TW.issueCounts_ok (x : TW) (c0 c cReg cRow q : Nat) (taken : Bool) (h : x.Ok) :
    (TW.issueCounts x c0 c cReg cRow q taken).Ok := by
  unfold TW.issueCounts
  repeat' (first
    | with_reducible assumption
    | with_reducible apply TW.perf_ok
    | with_reducible apply TW.perfOf_ok
    | with_reducible apply TW.Ok.tile
    | (extract_lets +onlyGivenNames z; with_reducible apply TW.ok_cut (x := z); rotate_left; clear_value z; intro hz; rotate_right; subst z)
    | (extract_lets +onlyGivenNames z; with_reducible apply Tile.ok_cut (t := z); rotate_left; clear_value z; intro hz; rotate_right; subst z)
    | extract_lets +onlyGivenNames z
    | (refine TW.ok_lit ?_; dsimp only)
    | (with_reducible refine TW.ok_ite (fun _ => ?_) (fun _ => ?_))
    | (with_reducible refine Tile.ok_ite (fun _ => ?_) (fun _ => ?_)))

theorem TW.issuedAt_ok (x : TW) (c : Nat) (h : x.Ok) :
    (TW.issuedAt x c).Ok := by
  unfold TW.issuedAt
  repeat' (first
    | with_reducible assumption
    | refine fun _ => ?_
    | with_reducible apply TW.map_ok
    | (refine Tile.ok_lit ?_; dsimp only; exact Tile.Ok.maps (by assumption)))

theorem Tile.displaceRow_ok (t : Tile) (c : Nat) (h : t.Ok) :
    (Tile.displaceRow t c).Ok := by
  unfold Tile.displaceRow
  repeat' (first
    | with_reducible assumption
    | (extract_lets +onlyGivenNames z; with_reducible apply TW.ok_cut (x := z); rotate_left; clear_value z; intro hz; rotate_right; subst z)
    | (extract_lets +onlyGivenNames z; with_reducible apply Tile.ok_cut (t := z); rotate_left; clear_value z; intro hz; rotate_right; subst z)
    | extract_lets +onlyGivenNames z
    | (refine Tile.ok_lit ?_; dsimp only; exact Tile.Ok.maps (by assumption))
    | with_reducible refine TW.ok_snd (by assumption) ?_
    | with_reducible refine TW.ok_trd (by assumption) ?_
    | split)

theorem Tile.lostAt_ok (t : Tile) (c : Nat) (h : t.Ok) :
    (Tile.lostAt t c).Ok := by
  unfold Tile.lostAt
  repeat' (first
    | with_reducible assumption
    | (refine Tile.ok_lit ?_; dsimp only; exact Tile.Ok.maps (by assumption))
    | (with_reducible refine TW.ok_ite (fun _ => ?_) (fun _ => ?_))
    | (with_reducible refine Tile.ok_ite (fun _ => ?_) (fun _ => ?_)))

theorem TW.portGo_ok (x : TW) (sh : Shape) (c : Nat) (r0 : Nat) (h : x.Ok) :
    (TW.portGo x sh c r0).2.2.Ok := by
  induction r0 generalizing x sh c with
  | zero =>
    unfold TW.portGo
    repeat' (first
      | with_reducible assumption
      | refine fun _ => ?_
      | with_reducible apply TW.perf_ok
      | with_reducible apply Tile.grant_ok
      | with_reducible apply TW.conflict_ok
      | with_reducible apply TW.ports_ok
      | with_reducible apply Tile.lostAt_ok
      | with_reducible apply TW.map_ok
      | with_reducible apply TW.Ok.tile
      | (extract_lets +onlyGivenNames z; with_reducible apply TW.ok_cut (x := z); rotate_left; clear_value z; intro hz; rotate_right; subst z)
      | (extract_lets +onlyGivenNames z; with_reducible apply Tile.ok_cut (t := z); rotate_left; clear_value z; intro hz; rotate_right; subst z)
      | extract_lets +onlyGivenNames z
      | (refine Tile.ok_lit ?_; dsimp only; exact Tile.Ok.maps (by assumption))
      | with_reducible refine TW.ok_snd (by assumption) ?_
      | with_reducible refine TW.ok_trd (by assumption) ?_
      | split)
  | succ r0 ih =>
    unfold TW.portGo
    repeat' (first
      | with_reducible assumption
      | refine fun _ => ?_
      | with_reducible apply ih
      | with_reducible apply TW.perf_ok
      | with_reducible apply Tile.grant_ok
      | with_reducible apply TW.conflict_ok
      | with_reducible apply TW.ports_ok
      | with_reducible apply Tile.lostAt_ok
      | with_reducible apply TW.map_ok
      | with_reducible apply TW.Ok.tile
      | (extract_lets +onlyGivenNames z; with_reducible apply TW.ok_cut (x := z); rotate_left; clear_value z; intro hz; rotate_right; subst z)
      | (extract_lets +onlyGivenNames z; with_reducible apply Tile.ok_cut (t := z); rotate_left; clear_value z; intro hz; rotate_right; subst z)
      | extract_lets +onlyGivenNames z
      | (refine Tile.ok_lit ?_; dsimp only; exact Tile.Ok.maps (by assumption))
      | with_reducible refine TW.ok_snd (by assumption) ?_
      | with_reducible refine TW.ok_trd (by assumption) ?_
      | split)

theorem TW.portAt_ok (x : TW) (c : Nat) (sh : Shape) (h : x.Ok) :
    (TW.portAt x c sh).2.Ok := by
  unfold TW.portAt
  repeat' (first
    | with_reducible assumption
    | refine fun _ => ?_
    | with_reducible apply TW.enterRow_ok
    | with_reducible apply Tile.displaceRow_ok
    | with_reducible apply TW.portGo_ok
    | with_reducible apply TW.map_ok
    | (refine Tile.ok_lit ?_; dsimp only; exact Tile.Ok.maps (by assumption))
    | with_reducible refine TW.ok_snd (by assumption) ?_
    | with_reducible refine TW.ok_trd (by assumption) ?_
    | split)

theorem Tile.dequeue_ok (t : Tile) (id : Nat) (h : t.Ok) :
    (Tile.dequeue t id).Ok := by
  unfold Tile.dequeue
  repeat' (first
    | with_reducible assumption
    | (refine Tile.ok_lit ?_; dsimp only; exact Tile.Ok.maps (by assumption)))

theorem TW.finish_ok (x : TW) (o : QOp) (status c : Nat) (h : x.Ok) :
    (TW.finish x o status c).Ok := by
  unfold TW.finish
  repeat' (first
    | with_reducible assumption
    | refine fun _ => ?_
    | with_reducible apply TW.penDone_ok
    | with_reducible apply TW.perfOf_ok
    | with_reducible apply Tile.clearToken_ok
    | with_reducible apply Tile.dequeue_ok
    | with_reducible apply TW.map_ok)

theorem TW.glzEndOne_ok (x : TW) (r : GlzRun) (h : x.Ok) :
    (TW.glzEndOne x r).Ok := by
  unfold TW.glzEndOne
  repeat' (first
    | with_reducible assumption
    | refine fun _ => ?_
    | with_reducible apply TW.finish_ok
    | with_reducible apply TW.map_ok
    | with_reducible apply TW.Ok.tile
    | (extract_lets +onlyGivenNames z; with_reducible apply TW.ok_cut (x := z); rotate_left; clear_value z; intro hz; rotate_right; subst z)
    | (extract_lets +onlyGivenNames z; with_reducible apply Tile.ok_cut (t := z); rotate_left; clear_value z; intro hz; rotate_right; subst z)
    | extract_lets +onlyGivenNames z
    | (refine Tile.ok_lit ?_; dsimp only; exact Tile.Ok.maps (by assumption))
    | (with_reducible refine TW.ok_ite (fun _ => ?_) (fun _ => ?_))
    | (with_reducible refine Tile.ok_ite (fun _ => ?_) (fun _ => ?_)))

theorem TW.glzEnd_ok (x : TW) (h : x.Ok) :
    (TW.glzEnd x).Ok := by
  unfold TW.glzEnd
  repeat' (first
    | with_reducible assumption
    | refine fun _ => ?_
    | with_reducible apply TW.glzEndOne_ok
    | with_reducible apply TW.Ok.tile
    | with_reducible apply TW.ok_foldl
    | with_reducible apply Tile.ok_foldl)

theorem TW.glzSettle_ok (x : TW) (r0 : Nat) (h : x.Ok) :
    (TW.glzSettle x r0).Ok := by
  induction r0 generalizing x with
  | zero =>
    unfold TW.glzSettle
    repeat' (first
      | with_reducible assumption
      | refine fun _ => ?_
      | with_reducible apply TW.ports_ok
      | with_reducible apply TW.Ok.tile
      | split)
  | succ r0 ih =>
    unfold TW.glzSettle
    repeat' (first
      | with_reducible assumption
      | refine fun _ => ?_
      | with_reducible apply ih
      | with_reducible apply TW.ports_ok
      | with_reducible apply TW.Ok.tile
      | split)

theorem TW.settled_ok (x : TW) (h : x.Ok) :
    (TW.settled x).Ok := by
  unfold TW.settled
  repeat' (first
    | with_reducible assumption
    | with_reducible apply TW.glzEnd_ok
    | with_reducible apply TW.glzSettle_ok)

theorem TW.fetchRow_ok (x : TW) (h : x.Ok) :
    (TW.fetchRow x).Ok := by
  unfold TW.fetchRow
  repeat' (first
    | with_reducible assumption
    | with_reducible apply TW.requestGo_ok
    | with_reducible apply TW.rowGranted_ok
    | with_reducible apply TW.startRow_ok
    | with_reducible apply TW.Ok.tile
    | (extract_lets +onlyGivenNames z; with_reducible apply TW.ok_cut (x := z); rotate_left; clear_value z; intro hz; rotate_right; subst z)
    | (extract_lets +onlyGivenNames z; with_reducible apply Tile.ok_cut (t := z); rotate_left; clear_value z; intro hz; rotate_right; subst z)
    | extract_lets +onlyGivenNames z
    | with_reducible refine TW.ok_snd (by assumption) ?_
    | with_reducible refine TW.ok_trd (by assumption) ?_
    | split)

theorem TW.issue_ok (x : TW) (w : IW) (sh : Shape) (eff : Nat → TW → TW) (heff : ∀ z0 z1, TW.Ok (z1) → TW.Ok (eff z0 z1)) (h : x.Ok) :
    (TW.issue x w sh eff).Ok := by
  unfold TW.issue
  repeat' (first
    | with_reducible assumption
    | refine fun _ => ?_
    | with_reducible apply heff
    | with_reducible apply TW.commitStores_ok
    | with_reducible apply TW.settled_ok
    | with_reducible apply Tile.settle_ok
    | with_reducible apply TW.fault_ok
    | with_reducible apply TW.fetchTo_ok
    | with_reducible apply TW.fetchRow_ok
    | with_reducible apply TW.enterRow_ok
    | with_reducible apply Tile.rowSlip_ok
    | with_reducible apply Tile.advance_ok
    | with_reducible apply TW.issueCounts_ok
    | with_reducible apply TW.issuedAt_ok
    | with_reducible apply TW.portAt_ok
    | with_reducible apply TW.map_ok
    | with_reducible apply TW.Ok.tile
    | with_reducible apply TW.ok_foldl
    | with_reducible apply Tile.ok_foldl
    | with_reducible apply TW.ok_foldl_snd
    | (extract_lets +onlyGivenNames z; with_reducible apply TW.ok_cut (x := z); rotate_left; clear_value z; intro hz; rotate_right; subst z)
    | (extract_lets +onlyGivenNames z; with_reducible apply Tile.ok_cut (t := z); rotate_left; clear_value z; intro hz; rotate_right; subst z)
    | extract_lets +onlyGivenNames z
    | (refine Tile.ok_lit ?_; dsimp only; exact Tile.Ok.maps (by assumption))
    | with_reducible refine TW.ok_snd (by assumption) ?_
    | split)

theorem TW.regRead_ok (x : TW) (c off n : Nat) (h : x.Ok) :
    (TW.regRead x c off n).2.Ok := by
  unfold TW.regRead
  repeat' (first
    | with_reducible assumption
    | refine fun _ => ?_
    | with_reducible apply TW.put_ok
    | with_reducible apply TW.map_ok
    | (extract_lets +onlyGivenNames z; with_reducible apply TW.ok_cut (x := z); rotate_left; clear_value z; intro hz; rotate_right; subst z)
    | extract_lets +onlyGivenNames z
    | with_reducible apply TW.Ok.tile
    | (refine Tile.ok_lit ?_; dsimp only; refine TileMaps.setRegs (Tile.Ok.maps (by assumption)) ?_; intro h0; repeat' (first | exact h0 | with_reducible apply rput_wf | with_reducible apply rset_wf | with_reducible apply CSet.event_wf | with_reducible apply SMap.clear_wf))
    | split)

theorem TW.regWrite_ok (x : TW) (c off n v : Nat) (h : x.Ok) :
    (TW.regWrite x c off n v).Ok := by
  unfold TW.regWrite
  repeat' (first
    | with_reducible assumption
    | refine fun _ => ?_
    | with_reducible apply TW.perf_ok
    | with_reducible apply TW.partWrite_ok
    | with_reducible apply TW.rxCfgWrite_ok
    | with_reducible apply TW.rxRelWrite_ok
    | with_reducible apply TW.patrolWrite_ok
    | with_reducible apply TW.map_ok
    | with_reducible apply TW.Ok.tile
    | (extract_lets +onlyGivenNames z; with_reducible apply TW.ok_cut (x := z); rotate_left; clear_value z; intro hz; rotate_right; subst z)
    | (extract_lets +onlyGivenNames z; with_reducible apply Tile.ok_cut (t := z); rotate_left; clear_value z; intro hz; rotate_right; subst z)
    | extract_lets +onlyGivenNames z
    | (refine Tile.ok_lit ?_; dsimp only; exact Tile.Ok.maps (by assumption))
    | (refine Tile.ok_lit ?_; dsimp only; refine TileMaps.setRegs (Tile.Ok.maps (by assumption)) ?_; intro h0; repeat' (first | exact h0 | with_reducible apply rput_wf | with_reducible apply rset_wf | with_reducible apply CSet.event_wf | with_reducible apply SMap.clear_wf))
    | with_reducible refine TW.ok_snd (by assumption) ?_
    | split)

theorem TW.loadBits_ok (x : TW) (c a n : Nat) (h : x.Ok) :
    (TW.loadBits x c a n).2.2.2.Ok := by
  unfold TW.loadBits
  repeat' (first
    | with_reducible assumption
    | with_reducible apply TW.accGrant_ok
    | with_reducible apply TW.penAcc_ok
    | with_reducible apply TW.readPart_ok
    | with_reducible apply TW.regRead_ok
    | with_reducible apply TW.violation_ok
    | with_reducible apply TW.Ok.tile
    | split)

theorem TW.loadEff_ok (x : TW) (c : Nat) (w : IW) (n : Nat) (signed : Bool) (h : x.Ok) :
    (TW.loadEff x c w n signed).Ok := by
  unfold TW.loadEff
  repeat' (first
    | with_reducible assumption
    | refine fun _ => ?_
    | with_reducible apply TW.loadBits_ok
    | with_reducible apply Tile.advance_ok
    | with_reducible apply Tile.later_ok
    | with_reducible apply TW.map_ok)

theorem TW.storeEff_ok (x : TW) (c : Nat) (w : IW) (n : Nat) (h : x.Ok) :
    (TW.storeEff x c w n).Ok := by
  unfold TW.storeEff
  repeat' (first
    | with_reducible assumption
    | refine fun _ => ?_
    | with_reducible apply TW.violation_ok
    | with_reducible apply TW.mergeFind_ok
    | with_reducible apply TW.penWrite_ok
    | with_reducible apply TW.commitDue_ok
    | with_reducible apply Tile.setAcc_ok
    | with_reducible apply TW.penAcc_ok
    | with_reducible apply TW.accGrant_ok
    | with_reducible apply Tile.advance_ok
    | with_reducible apply TW.regWrite_ok
    | with_reducible apply TW.map_ok
    | with_reducible apply TW.Ok.tile
    | (extract_lets +onlyGivenNames z; with_reducible apply TW.ok_cut (x := z); rotate_left; clear_value z; intro hz; rotate_right; subst z)
    | (extract_lets +onlyGivenNames z; with_reducible apply Tile.ok_cut (t := z); rotate_left; clear_value z; intro hz; rotate_right; subst z)
    | extract_lets +onlyGivenNames z
    | (refine Tile.ok_lit ?_; dsimp only; exact Tile.Ok.maps (by assumption))
    | with_reducible refine TW.ok_snd (by assumption) ?_
    | with_reducible refine TW.ok_trd (by assumption) ?_
    | split)

theorem TW.alu_ok (x : TW) (w : IW) (op : Word → Word → Word) (h : x.Ok) :
    (TW.alu x w op).Ok := by
  unfold TW.alu
  repeat' (first
    | with_reducible assumption
    | refine fun _ => ?_
    | with_reducible apply TW.issue_ok
    | with_reducible apply Tile.advance_ok
    | with_reducible apply Tile.setReg_ok
    | with_reducible apply TW.map_ok)

theorem TW.alui_ok (x : TW) (w : IW) (op : Word → Word → Word) (h : x.Ok) :
    (TW.alui x w op).Ok := by
  unfold TW.alui
  repeat' (first
    | with_reducible assumption
    | refine fun _ => ?_
    | with_reducible apply TW.issue_ok
    | with_reducible apply Tile.advance_ok
    | with_reducible apply Tile.setReg_ok
    | with_reducible apply TW.map_ok)

theorem TW.cmp_ok (x : TW) (w : IW) (op : Word → Word → Bool) (h : x.Ok) :
    (TW.cmp x w op).Ok := by
  unfold TW.cmp
  repeat' (first
    | with_reducible assumption
    | refine fun _ => ?_
    | with_reducible apply TW.issue_ok
    | with_reducible apply Tile.advance_ok
    | with_reducible apply Tile.setPred_ok
    | with_reducible apply TW.map_ok)

theorem TW.plogic_ok (x : TW) (w : IW) (op : Bool → Bool → Bool) (h : x.Ok) :
    (TW.plogic x w op).Ok := by
  unfold TW.plogic
  repeat' (first
    | with_reducible assumption
    | refine fun _ => ?_
    | with_reducible apply TW.issue_ok
    | with_reducible apply Tile.advance_ok
    | with_reducible apply Tile.setPred_ok
    | with_reducible apply TW.map_ok)

theorem TW.muldiv_ok (x : TW) (w : IW) (l1 l2 : Nat) (op : Word → Word → Word) (h : x.Ok) :
    (TW.muldiv x w l1 l2 op).Ok := by
  unfold TW.muldiv
  repeat' (first
    | with_reducible assumption
    | refine fun _ => ?_
    | with_reducible apply TW.issue_ok
    | with_reducible apply Tile.advance_ok
    | with_reducible apply Tile.later_ok
    | with_reducible apply TW.map_ok)

theorem TW.load_ok (x : TW) (w : IW) (n : Nat) (signed : Bool) (h : x.Ok) :
    (TW.load x w n signed).Ok := by
  unfold TW.load
  repeat' (first
    | with_reducible assumption
    | refine fun _ => ?_
    | with_reducible apply TW.issue_ok
    | with_reducible apply TW.loadEff_ok)

theorem TW.store_ok (x : TW) (w : IW) (n : Nat) (h : x.Ok) :
    (TW.store x w n).Ok := by
  unfold TW.store
  repeat' (first
    | with_reducible assumption
    | refine fun _ => ?_
    | with_reducible apply TW.issue_ok
    | with_reducible apply TW.storeEff_ok)

theorem TW.jump_ok (x : TW) (w : IW) (illegal : Bool) (reads writes : List Nat) (target : Tile → Nat) (link : Option Nat) (h : x.Ok) :
    (TW.jump x w illegal reads writes target link).Ok := by
  unfold TW.jump
  repeat' (first
    | with_reducible assumption
    | refine fun _ => ?_
    | with_reducible apply TW.branch_ok
    | with_reducible apply TW.issue_ok
    | with_reducible apply Tile.setReg_ok
    | with_reducible apply TW.map_ok
    | split)

theorem TW.loop_ok (x : TW) (w : IW) (illegal : Bool) (reads : List Nat) (count : Tile → Nat) (h : x.Ok) :
    (TW.loop x w illegal reads count).Ok := by
  unfold TW.loop
  repeat' (first
    | with_reducible assumption
    | refine fun _ => ?_
    | with_reducible apply Tile.settle_ok
    | with_reducible apply TW.fetchRow_ok
    | with_reducible apply TW.branch_ok
    | with_reducible apply TW.issue_ok
    | with_reducible apply TW.map_ok
    | with_reducible apply TW.Ok.tile
    | (extract_lets +onlyGivenNames z; with_reducible apply TW.ok_cut (x := z); rotate_left; clear_value z; intro hz; rotate_right; subst z)
    | (extract_lets +onlyGivenNames z; with_reducible apply Tile.ok_cut (t := z); rotate_left; clear_value z; intro hz; rotate_right; subst z)
    | extract_lets +onlyGivenNames z
    | (refine Tile.ok_lit ?_; dsimp only; exact Tile.Ok.maps (by assumption))
    | (refine TW.ok_lit ?_; dsimp only)
    | (with_reducible refine TW.ok_ite (fun _ => ?_) (fun _ => ?_))
    | (with_reducible refine Tile.ok_ite (fun _ => ?_) (fun _ => ?_)))

theorem TW.movi_ok (x : TW) (w : IW) (h : x.Ok) :
    (TW.movi x w).Ok := by
  unfold TW.movi
  repeat' (first
    | with_reducible assumption
    | refine fun _ => ?_
    | with_reducible apply TW.issue_ok
    | with_reducible apply Tile.advance_ok
    | with_reducible apply Tile.setReg_ok
    | with_reducible apply TW.map_ok)

theorem TW.movhi_ok (x : TW) (w : IW) (h : x.Ok) :
    (TW.movhi x w).Ok := by
  unfold TW.movhi
  repeat' (first
    | with_reducible assumption
    | refine fun _ => ?_
    | with_reducible apply TW.issue_ok
    | with_reducible apply Tile.advance_ok
    | with_reducible apply Tile.setReg_ok
    | with_reducible apply TW.map_ok)

theorem TW.nop_ok (x : TW) (v : BitVec 64) (h : x.Ok) :
    (TW.nop x v).Ok := by
  unfold TW.nop
  repeat' (first
    | with_reducible assumption
    | refine fun _ => ?_
    | with_reducible apply TW.issue_ok
    | with_reducible apply Tile.advance_ok
    | with_reducible apply TW.map_ok)

theorem TW.rnd_ok (x : TW) (w : IW) (h : x.Ok) :
    (TW.rnd x w).Ok := by
  unfold TW.rnd
  repeat' (first
    | with_reducible assumption
    | refine fun _ => ?_
    | with_reducible apply TW.issue_ok
    | with_reducible apply TW.perf_ok
    | with_reducible apply Tile.advance_ok
    | with_reducible apply Tile.later_ok
    | with_reducible apply TW.map_ok)

theorem TW.wait_ok (x : TW) (w : IW) (hold : Tile → Option Nat) (h : x.Ok) :
    (TW.wait x w hold).Ok := by
  unfold TW.wait
  repeat' (first
    | with_reducible assumption
    | refine fun _ => ?_
    | with_reducible apply TW.issue_ok
    | with_reducible apply Tile.advance_ok
    | with_reducible apply Tile.setPred_ok
    | with_reducible apply TW.map_ok
    | (with_reducible refine Tile.ok_ite (fun _ => ?_) (fun _ => ?_)))

theorem TW.forToken_ok (x : TW) (k : Nat) (h : x.Ok) :
    (TW.forToken x k).Ok := by
  unfold TW.forToken
  repeat' (first
    | with_reducible assumption
    | with_reducible apply TW.settled_ok
    | with_reducible apply TW.Ok.tile
    | (with_reducible refine TW.ok_ite (fun _ => ?_) (fun _ => ?_))
    | (with_reducible refine Tile.ok_ite (fun _ => ?_) (fun _ => ?_)))

theorem TW.vrnWait_ok (x : TW) (k : Nat) (r0 : Nat) (h : x.Ok) :
    (TW.vrnWait x k r0).Ok := by
  induction r0 generalizing x k with
  | zero =>
    unfold TW.vrnWait
    repeat' (first
      | with_reducible assumption
      | with_reducible apply TW.ports_ok
      | with_reducible apply TW.Ok.tile
      | split)
  | succ r0 ih =>
    unfold TW.vrnWait
    repeat' (first
      | with_reducible assumption
      | with_reducible apply ih
      | with_reducible apply TW.ports_ok
      | with_reducible apply TW.Ok.tile
      | split)

theorem TW.readDesc_ok (x : TW) (c a : Nat) (h : x.Ok) :
    (TW.readDesc x c a).2.Ok := by
  unfold TW.readDesc
  repeat' (first
    | with_reducible assumption
    | with_reducible apply TW.readPart_ok
    | with_reducible apply TW.violation_ok
    | with_reducible apply TW.Ok.tile
    | split)

theorem Tile.enqueue_ok (t : Tile) (o : QOp) (h : t.Ok) :
    (Tile.enqueue t o).Ok := by
  unfold Tile.enqueue
  repeat' (first
    | with_reducible assumption
    | (refine Tile.ok_lit ?_; dsimp only; exact Tile.Ok.maps (by assumption))
    | split)

theorem TW.engine_ok (x : TW) (w : IW) (k : QKind) (parmOk : Bool) (noDesc : Bool) (h : x.Ok) :
    (TW.engine x w k parmOk noDesc).Ok := by
  unfold TW.engine
  repeat' (first
    | with_reducible assumption
    | refine fun _ => ?_
    | with_reducible apply TW.finish_ok
    | with_reducible apply TW.issue_ok
    | with_reducible apply TW.readDesc_ok
    | with_reducible apply Tile.advance_ok
    | with_reducible apply Tile.enqueue_ok
    | with_reducible apply Tile.takeToken_ok
    | with_reducible apply TW.map_ok
    | (refine Tile.ok_lit ?_; dsimp only; refine Tile.Ok.maps ?_)
    | with_reducible apply TW.Ok.tile
    | split)

theorem TW.syncOp_ok (x : TW) (w : IW) (isWait : Bool) (h : x.Ok) :
    (TW.syncOp x w isWait).Ok := by
  unfold TW.syncOp
  repeat' (first
    | with_reducible assumption
    | refine fun _ => ?_
    | with_reducible apply TW.emit_ok
    | with_reducible apply TW.issue_ok
    | with_reducible apply Tile.advance_ok
    | with_reducible apply Tile.takeToken_ok
    | with_reducible apply TW.map_ok
    | (extract_lets +onlyGivenNames z; with_reducible apply Tile.ok_cut (t := z); rotate_left; clear_value z; intro hz; rotate_right; subst z)
    | (refine Tile.ok_lit ?_; dsimp only; exact Tile.Ok.maps (by assumption)))

theorem TW.bar_ok (x : TW) (w : IW) (h : x.Ok) :
    (TW.bar x w).Ok := by
  unfold TW.bar
  repeat' (first
    | with_reducible assumption
    | refine fun _ => ?_
    | with_reducible apply TW.issue_ok
    | with_reducible apply Tile.advance_ok
    | with_reducible apply TW.map_ok
    | (extract_lets +onlyGivenNames z; with_reducible apply Tile.ok_cut (t := z); rotate_left; clear_value z; intro hz; rotate_right; subst z)
    | (refine Tile.ok_lit ?_; dsimp only; exact Tile.Ok.maps (by assumption)))

theorem TW.tickwait_ok (x : TW) (w : IW) (h : x.Ok) :
    (TW.tickwait x w).Ok := by
  unfold TW.tickwait
  repeat' (first
    | with_reducible assumption
    | refine fun _ => ?_
    | with_reducible apply TW.issue_ok
    | with_reducible apply Tile.advance_ok
    | with_reducible apply TW.map_ok
    | (extract_lets +onlyGivenNames z; with_reducible apply Tile.ok_cut (t := z); rotate_left; clear_value z; intro hz; rotate_right; subst z)
    | (refine Tile.ok_lit ?_; dsimp only; exact Tile.Ok.maps (by assumption)))

theorem TW.endTile_ok (x : TW) (w : IW) (h : x.Ok) :
    (TW.endTile x w).Ok := by
  unfold TW.endTile
  repeat' (first
    | with_reducible assumption
    | refine fun _ => ?_
    | with_reducible apply TW.issue_ok
    | with_reducible apply TW.map_ok
    | (refine Tile.ok_lit ?_; dsimp only; exact Tile.Ok.maps (by assumption)))

theorem Tile.nextResult_ok (t : Tile) (h : t.Ok) :
    (Tile.nextResult t).Ok := by
  unfold Tile.nextResult
  repeat' (first
    | with_reducible assumption
    | with_reducible apply Tile.settle_ok
    | (extract_lets +onlyGivenNames z; with_reducible apply Tile.ok_cut (t := z); rotate_left; clear_value z; intro hz; rotate_right; subst z)
    | extract_lets +onlyGivenNames z
    | (refine Tile.ok_lit ?_; dsimp only; exact Tile.Ok.maps (by assumption))
    | split)

theorem TW.claimBytes_ok (x : TW) (who : Who) (a n : Nat) (h : x.Ok) :
    (TW.claimBytes x who a n).Ok := by
  unfold TW.claimBytes
  repeat' (first
    | with_reducible assumption
    | with_reducible apply TW.penClaim_ok)

theorem TW.pendBytes_ok (x : TW) (who : Who) (a n : Nat) (h : x.Ok) :
    (TW.pendBytes x who a n).Ok := by
  unfold TW.pendBytes
  repeat' (first
    | with_reducible assumption
    | with_reducible apply TW.penPending_ok)

theorem TW.markMmac_ok (x : TW) (who : Who) (d : Row) (h : x.Ok) :
    (TW.markMmac x who d).Ok := by
  unfold TW.markMmac
  repeat' (first
    | with_reducible assumption
    | refine fun _ => ?_
    | with_reducible apply TW.claimBytes_ok
    | with_reducible apply TW.penPending_ok
    | with_reducible apply TW.ok_foldl
    | with_reducible apply TW.Ok.tile
    | (with_reducible refine TW.ok_ite (fun _ => ?_) (fun _ => ?_)))

theorem TW.markMstore_ok (x : TW) (who : Who) (d : Row) (h : x.Ok) :
    (TW.markMstore x who d).Ok := by
  unfold TW.markMstore
  repeat' (first
    | with_reducible assumption
    | refine fun _ => ?_
    | with_reducible apply TW.penClaim_ok
    | with_reducible apply TW.pendBytes_ok
    | with_reducible apply TW.ok_foldl
    | (with_reducible refine TW.ok_ite (fun _ => ?_) (fun _ => ?_)))

theorem Tile.mulPop_ok (t : Tile) (h : t.Ok) :
    (Tile.mulPop t).Ok := by
  unfold Tile.mulPop
  repeat' (first
    | with_reducible assumption
    | (refine Tile.ok_lit ?_; dsimp only; exact Tile.Ok.maps (by assumption)))

theorem TW.mmacStart_ok (x : TW) (o : QOp) (s : Nat) (h : x.Ok) :
    (TW.mmacStart x o s).Ok := by
  unfold TW.mmacStart
  repeat' (first
    | with_reducible assumption
    | refine fun _ => ?_
    | with_reducible apply TW.markMmac_ok
    | with_reducible apply Tile.mulPop_ok
    | with_reducible apply TW.map_ok
    | with_reducible apply TW.Ok.tile
    | (extract_lets +onlyGivenNames z; with_reducible apply TW.ok_cut (x := z); rotate_left; clear_value z; intro hz; rotate_right; subst z)
    | (extract_lets +onlyGivenNames z; with_reducible apply Tile.ok_cut (t := z); rotate_left; clear_value z; intro hz; rotate_right; subst z)
    | extract_lets +onlyGivenNames z
    | (refine Tile.ok_lit ?_; dsimp only; exact Tile.Ok.maps (by assumption))
    | (refine Tile.ok_lit ?_; dsimp only [Tile.mulPop]; exact Tile.Ok.maps (by assumption))
    | with_reducible refine TW.ok_snd (by assumption) ?_
    | with_reducible refine TW.ok_trd (by assumption) ?_
    | split)

theorem Tile.clearBlock_ok (t : Tile) (b : Nat) (h : t.Ok) :
    (Tile.clearBlock t b).Ok := by
  unfold Tile.clearBlock
  exact Tile.put_ok _ _ _ (Tile.ok_lit (h.maps.setAcc fun h => SMap.wf_filter _ _ _ h))

theorem TW.mclrStart_ok (x : TW) (o : QOp) (s : Nat) (h : x.Ok) :
    (TW.mclrStart x o s).Ok := by
  unfold TW.mclrStart
  repeat' (first
    | with_reducible assumption
    | refine fun _ => ?_
    | with_reducible apply Tile.grant_ok
    | with_reducible apply TW.finish_ok
    | with_reducible apply TW.penAcc_ok
    | with_reducible apply Tile.mulPop_ok
    | with_reducible apply Tile.clearBlock_ok
    | with_reducible apply TW.map_ok
    | with_reducible apply TW.ok_foldl
    | with_reducible apply Tile.ok_foldl
    | with_reducible apply TW.ok_foldl_snd
    | (extract_lets +onlyGivenNames z; with_reducible apply TW.ok_cut (x := z); rotate_left; clear_value z; intro hz; rotate_right; subst z)
    | (extract_lets +onlyGivenNames z; with_reducible apply Tile.ok_cut (t := z); rotate_left; clear_value z; intro hz; rotate_right; subst z)
    | extract_lets +onlyGivenNames z
    | (refine Tile.ok_lit ?_; dsimp only; exact Tile.Ok.maps (by assumption))
    | (refine Tile.ok_lit ?_; dsimp only [Tile.mulPop]; exact Tile.Ok.maps (by assumption)))

theorem TW.mulReject_ok (x : TW) (o : QOp) (s : Nat) (h : x.Ok) :
    (TW.mulReject x o s).Ok := by
  unfold TW.mulReject
  repeat' (first
    | with_reducible assumption
    | refine fun _ => ?_
    | with_reducible apply TW.finish_ok
    | with_reducible apply Tile.mulPop_ok
    | with_reducible apply TW.map_ok
    | (extract_lets +onlyGivenNames z; with_reducible apply TW.ok_cut (x := z); rotate_left; clear_value z; intro hz; rotate_right; subst z)
    | (extract_lets +onlyGivenNames z; with_reducible apply Tile.ok_cut (t := z); rotate_left; clear_value z; intro hz; rotate_right; subst z)
    | extract_lets +onlyGivenNames z
    | (refine Tile.ok_lit ?_; dsimp only; exact Tile.Ok.maps (by assumption))
    | (refine Tile.ok_lit ?_; dsimp only [Tile.mulPop]; exact Tile.Ok.maps (by assumption)))

theorem TW.mullerStart_ok (x : TW) (c : Nat) (h : x.Ok) :
    (TW.mullerStart x c).Ok := by
  unfold TW.mullerStart
  repeat' (first
    | with_reducible assumption
    | refine fun _ => ?_
    | with_reducible apply TW.ports_ok
    | with_reducible apply TW.commitStores_ok
    | with_reducible apply TW.forToken_ok
    | with_reducible apply TW.markMstore_ok
    | with_reducible apply Tile.mulPop_ok
    | with_reducible apply TW.mmacStart_ok
    | with_reducible apply TW.mclrStart_ok
    | with_reducible apply TW.mulReject_ok
    | with_reducible apply TW.map_ok
    | with_reducible apply TW.Ok.tile
    | (extract_lets +onlyGivenNames z; with_reducible apply TW.ok_cut (x := z); rotate_left; clear_value z; intro hz; rotate_right; subst z)
    | (extract_lets +onlyGivenNames z; with_reducible apply Tile.ok_cut (t := z); rotate_left; clear_value z; intro hz; rotate_right; subst z)
    | extract_lets +onlyGivenNames z
    | (refine Tile.ok_lit ?_; dsimp only; exact Tile.Ok.maps (by assumption))
    | (refine Tile.ok_lit ?_; dsimp only [Tile.mulPop]; exact Tile.Ok.maps (by assumption))
    | with_reducible refine TW.ok_snd (by assumption) ?_
    | split)

theorem TW.mulAhead_ok (x : TW) (r0 : Nat) (h : x.Ok) :
    (TW.mulAhead x r0).Ok := by
  induction r0 generalizing x with
  | zero =>
    unfold TW.mulAhead
    repeat' (first
      | with_reducible assumption
      | with_reducible apply TW.ports_ok
      | split)
  | succ r0 ih =>
    unfold TW.mulAhead
    repeat' (first
      | with_reducible assumption
      | with_reducible apply ih
      | with_reducible apply TW.ports_ok
      | split)

theorem blockStep_wf (acc : SMap (BitVec 32)) (blk : Nat) (zero : Bool) (as bs : List (List FVal)) (es : List MulFault)
    (h : SMap.wf acc (fun _ => 0) = true) : SMap.wf (blockStep acc blk zero as bs es).1 (fun _ => 0) = true := by
  have inner : ∀ (ai : List FVal × Nat) (l : List (List FVal × Nat)) (st : SMap (BitVec 32) × Nat × Nat),
      SMap.wf st.1 (fun _ => 0) = true → SMap.wf (l.foldl (fun st bj =>
        let i := 1024 * blk + 32 * ai.2 + bj.2
        let c := if zero then 0 else (SMap.getD st.1 i 0#32).toNat
        let o := accStep c ai.1 bj.1 (wrongAt es ai.2 bj.2)
        (SMap.put st.1 i (BitVec.ofNat 32 o.code) 0#32, st.2.1 + o.invalid.toNat, st.2.2 + o.ovf.toNat)) st).1
          (fun _ => 0) = true := by
    intro ai l
    induction l with
    | nil => exact fun _ h => h
    | cons b l ih => exact fun st h => ih _ (SMap.wf_put0 _ _ _ _ _ rfl h)
  have outer : ∀ (l : List (List FVal × Nat)) (st : SMap (BitVec 32) × Nat × Nat),
      SMap.wf st.1 (fun _ => 0) = true → SMap.wf (l.foldl (fun st ai => bs.zipIdx.foldl (fun st bj =>
        let i := 1024 * blk + 32 * ai.2 + bj.2
        let c := if zero then 0 else (SMap.getD st.1 i 0#32).toNat
        let o := accStep c ai.1 bj.1 (wrongAt es ai.2 bj.2)
        (SMap.put st.1 i (BitVec.ofNat 32 o.code) 0#32, st.2.1 + o.invalid.toNat, st.2.2 + o.ovf.toNat)) st) st).1
          (fun _ => 0) = true := by
    intro l
    induction l with
    | nil => exact fun _ h => h
    | cons a l ih => exact fun st h => ih _ (inner a _ st h)
  exact outer _ _ h

theorem blockStep_ok {acc a : SMap (BitVec 32)} {blk i o : Nat} {zero : Bool} {as bs : List (List FVal)}
    {es : List MulFault} (e : blockStep acc blk zero as bs es = (a, i, o)) (h : SMap.wf acc (fun _ => 0) = true) :
    SMap.wf a (fun _ => 0) = true := by
  have := blockStep_wf acc blk zero as bs es h
  rw [e] at this
  exact this

theorem Tile.newAcc_ok {t : Tile} {a : SMap (BitVec 32)} (h : t.Ok) (ha : SMap.wf a (fun _ => 0) = true) (c : Nat) :
    ({ t with acc := a, cyc := c } : Tile).Ok := Tile.ok_lit (h.maps.setAcc fun _ => ha)

theorem TW.stepCommit_ok (x : TW) (es : List MulFault) (h : x.Ok) :
    (TW.stepCommit x es).Ok := by
  unfold TW.stepCommit
  extract_lets z
  have hz : z.Ok := TW.mulAhead_ok _ _ h
  clear_value z
  split
  · exact hz
  · refine TW.ok_ite (fun _ => hz) (fun _ => ?_)
    split
    · exact hz
    · extract_lets d blk cc y
      have hy : y.Ok := TW.commitStores_ok _ _ hz
      clear_value y
      split
      split
      extract_lets zero
      split
      next acc inv ovf e =>
      have ha := blockStep_ok e hy.tile.maps.acc
      extract_lets y1 mk y2 y3 y4 y5 nf r0 r1 r2
      have h1 : y1.Ok := ⟨Tile.newAcc_ok (Tile.grant_ok y.t cc (1000 + blk) 1 hy.tile) ha _⟩
      clear_value y1
      have h2 : y2.Ok := TW.ok_ite (fun _ => TW.put_ok _ _ _ h1) (fun _ => h1)
      clear_value y2
      have h3 : y3.Ok := TW.count_ok _ _ _ _ (TW.count_ok _ _ _ _ h2)
      clear_value y3
      have h4 : y4.Ok := TW.count_ok _ _ _ _ h3
      clear_value y4
      have h5 : y5.Ok := TW.perf_ok _ _ _ (TW.perf_ok _ _ _ h4)
      clear_value y5
      exact ⟨Tile.ok_lit h5.tile.maps⟩

theorem TW.mismatch_ok (x : TW) (c blk : Nat) (m : Option Nat × Option Nat × Bool) (h : x.Ok) :
    (TW.mismatch x c blk m).Ok := by
  unfold TW.mismatch
  repeat' (first
    | with_reducible assumption
    | refine fun _ => ?_
    | with_reducible apply Tile.put_ok
    | with_reducible apply TW.put_ok
    | with_reducible apply TW.emit_ok
    | with_reducible apply TW.count_ok
    | with_reducible apply TW.map_ok
    | (extract_lets +onlyGivenNames z; with_reducible apply TW.ok_cut (x := z); rotate_left; clear_value z; intro hz; rotate_right; subst z)
    | (extract_lets +onlyGivenNames z; with_reducible apply Tile.ok_cut (t := z); rotate_left; clear_value z; intro hz; rotate_right; subst z)
    | extract_lets +onlyGivenNames z
    | (refine Tile.ok_lit ?_; dsimp only; exact Tile.Ok.maps (by assumption))
    | (with_reducible refine TW.ok_ite (fun _ => ?_) (fun _ => ?_))
    | (with_reducible refine Tile.ok_ite (fun _ => ?_) (fun _ => ?_)))

theorem TW.blockComplete_ok (x : TW) (h : x.Ok) :
    (TW.blockComplete x).Ok := by
  unfold TW.blockComplete
  repeat' (first
    | with_reducible assumption
    | refine fun _ => ?_
    | with_reducible apply TW.count_ok
    | with_reducible apply TW.finish_ok
    | with_reducible apply TW.commitStores_ok
    | with_reducible apply TW.mismatch_ok
    | with_reducible apply TW.map_ok
    | with_reducible apply TW.Ok.tile
    | (extract_lets +onlyGivenNames z; with_reducible apply TW.ok_cut (x := z); rotate_left; clear_value z; intro hz; rotate_right; subst z)
    | (extract_lets +onlyGivenNames z; with_reducible apply Tile.ok_cut (t := z); rotate_left; clear_value z; intro hz; rotate_right; subst z)
    | extract_lets +onlyGivenNames z
    | (refine Tile.ok_lit ?_; dsimp only; exact Tile.Ok.maps (by assumption))
    | with_reducible refine TW.ok_snd (by assumption) ?_
    | with_reducible refine TW.ok_trd (by assumption) ?_
    | split)

theorem TW.rewrite_ok (x : TW) (g : Nat) (r : MulRun) (rw : RWord) (i : Nat) (p : Piece) (h : x.Ok) :
    (TW.rewrite x g r rw i p).Ok := by
  unfold TW.rewrite
  repeat' (first
    | with_reducible assumption
    | refine fun _ => ?_
    | with_reducible apply TW.writeRaw_ok
    | with_reducible apply TW.Ok.tile
    | with_reducible apply TW.ok_foldl
    | with_reducible apply Tile.ok_foldl
    | (extract_lets +onlyGivenNames z; with_reducible apply TW.ok_cut (x := z); rotate_left; clear_value z; intro hz; rotate_right; subst z)
    | (extract_lets +onlyGivenNames z; with_reducible apply Tile.ok_cut (t := z); rotate_left; clear_value z; intro hz; rotate_right; subst z)
    | extract_lets +onlyGivenNames z
    | (with_reducible refine TW.ok_ite (fun _ => ?_) (fun _ => ?_))
    | (with_reducible refine Tile.ok_ite (fun _ => ?_) (fun _ => ?_)))

theorem TW.writePiece_ok (x : TW) (r : MulRun) (rw : RWord) (p : Piece) (g : Nat) (h : x.Ok) :
    (TW.writePiece x r rw p g).2.Ok := by
  unfold TW.writePiece
  repeat' (first
    | with_reducible assumption
    | refine fun _ => ?_
    | with_reducible apply TW.count_ok
    | with_reducible apply TW.writePart_ok
    | with_reducible apply TW.penAcc_ok
    | with_reducible apply TW.Ok.tile
    | (extract_lets +onlyGivenNames z; with_reducible apply TW.ok_cut (x := z); rotate_left; clear_value z; intro hz; rotate_right; subst z)
    | (extract_lets +onlyGivenNames z; with_reducible apply Tile.ok_cut (t := z); rotate_left; clear_value z; intro hz; rotate_right; subst z)
    | extract_lets +onlyGivenNames z
    | (refine Tile.ok_lit ?_; dsimp only; exact Tile.Ok.maps (by assumption))
    | with_reducible refine TW.ok_snd (by assumption) ?_
    | with_reducible refine TW.ok_trd (by assumption) ?_
    | split)

theorem TW.portPiece_ok (x : TW) (r : MulRun) (rw : RWord) (g i : Nat) (p : Option Piece) (h : x.Ok) :
    (TW.portPiece x r rw g i p).2.2.Ok := by
  unfold TW.portPiece
  repeat' (first
    | with_reducible assumption
    | refine fun _ => ?_
    | with_reducible apply Tile.grant_ok
    | with_reducible apply TW.conflict_ok
    | with_reducible apply TW.rewrite_ok
    | with_reducible apply TW.writePiece_ok
    | with_reducible apply TW.map_ok
    | with_reducible apply TW.Ok.tile
    | (extract_lets +onlyGivenNames z; with_reducible apply TW.ok_cut (x := z); rotate_left; clear_value z; intro hz; rotate_right; subst z)
    | (extract_lets +onlyGivenNames z; with_reducible apply Tile.ok_cut (t := z); rotate_left; clear_value z; intro hz; rotate_right; subst z)
    | extract_lets +onlyGivenNames z
    | (refine Tile.ok_lit ?_; dsimp only; exact Tile.Ok.maps (by assumption))
    | with_reducible refine TW.ok_snd (by assumption) ?_
    | with_reducible refine TW.ok_trd (by assumption) ?_
    | split)

theorem TW.mstorePiece_ok (x : TW) (h : x.Ok) :
    (TW.mstorePiece x).Ok := by
  unfold TW.mstorePiece
  repeat' (first
    | with_reducible assumption
    | refine fun _ => ?_
    | with_reducible apply TW.finish_ok
    | with_reducible apply TW.mulPort_ok
    | with_reducible apply TW.commitStores_ok
    | with_reducible apply TW.portPiece_ok
    | with_reducible apply TW.map_ok
    | with_reducible apply TW.Ok.tile
    | (extract_lets +onlyGivenNames z; with_reducible apply TW.ok_cut (x := z); rotate_left; clear_value z; intro hz; rotate_right; subst z)
    | (extract_lets +onlyGivenNames z; with_reducible apply Tile.ok_cut (t := z); rotate_left; clear_value z; intro hz; rotate_right; subst z)
    | extract_lets +onlyGivenNames z
    | (refine Tile.ok_lit ?_; dsimp only; exact Tile.Ok.maps (by assumption))
    | with_reducible refine TW.ok_snd (by assumption) ?_
    | with_reducible refine TW.ok_trd (by assumption) ?_
    | split)

theorem TW.sendTo_ok (x : TW) (c : Nat) (dest td src dst : Nat) (h : x.Ok) :
    (TW.sendTo x c dest td src dst).Ok := by
  unfold TW.sendTo
  repeat' (first
    | with_reducible assumption
    | refine fun _ => ?_
    | with_reducible apply TW.count_ok
    | with_reducible apply TW.emit_ok
    | with_reducible apply TW.perf_ok
    | with_reducible apply TW.readPart_ok
    | with_reducible apply Tile.takeToken_ok
    | with_reducible apply TW.map_ok
    | (refine Tile.ok_lit ?_; dsimp only; refine Tile.Ok.maps ?_)
    | with_reducible apply TW.Ok.tile
    | split)

theorem Tile.sendInc_ok (t : Tile) (src dst : Nat) (h : t.Ok) :
    (Tile.sendInc t src dst).Ok := by
  unfold Tile.sendInc
  repeat' (first
    | with_reducible assumption
    | with_reducible apply Tile.setReg_ok
    | (with_reducible refine Tile.ok_ite (fun _ => ?_) (fun _ => ?_)))

theorem TW.send_ok (x : TW) (w : IW) (illegal : Bool) (extra : List Nat) (dest : Tile → Nat) (h : x.Ok) :
    (TW.send x w illegal extra dest).Ok := by
  unfold TW.send
  repeat' (first
    | with_reducible assumption
    | refine fun _ => ?_
    | with_reducible apply TW.issue_ok
    | with_reducible apply TW.sendTo_ok
    | with_reducible apply Tile.advance_ok
    | with_reducible apply Tile.sendInc_ok
    | with_reducible apply TW.map_ok
    | (with_reducible refine Tile.ok_ite (fun _ => ?_) (fun _ => ?_)))

theorem TW.xsend_ok (x : TW) (w : IW) (h : x.Ok) :
    (TW.xsend x w).Ok := by
  unfold TW.xsend
  repeat' (first
    | with_reducible assumption
    | with_reducible apply TW.send_ok)

theorem TW.xsendr_ok (x : TW) (w : IW) (h : x.Ok) :
    (TW.xsendr x w).Ok := by
  unfold TW.xsendr
  repeat' (first
    | with_reducible assumption
    | with_reducible apply TW.send_ok)

theorem TW.deliver_ok (x : TW) (c : Nat) (same : Bool) (from_ : Nat) (s : Send) (h : x.Ok) :
    (TW.deliver x c same from_ s).2.Ok := by
  unfold TW.deliver
  repeat' (first
    | with_reducible assumption
    | refine fun _ => ?_
    | with_reducible apply TW.count_ok
    | with_reducible apply TW.perf_ok
    | with_reducible apply TW.violation_ok
    | with_reducible apply TW.writeRaw_ok
    | with_reducible apply Tile.grant_ok
    | with_reducible apply TW.penWrite_ok
    | with_reducible apply TW.commitBefore_ok
    | with_reducible apply TW.commitStores_ok
    | with_reducible apply TW.map_ok
    | with_reducible apply TW.Ok.tile
    | (extract_lets +onlyGivenNames z; with_reducible apply TW.ok_cut (x := z); rotate_left; clear_value z; intro hz; rotate_right; subst z)
    | (extract_lets +onlyGivenNames z; with_reducible apply Tile.ok_cut (t := z); rotate_left; clear_value z; intro hz; rotate_right; subst z)
    | extract_lets +onlyGivenNames z
    | (refine Tile.ok_lit ?_; dsimp only; exact Tile.Ok.maps (by assumption))
    | (refine Tile.ok_lit ?_; dsimp only [Tile.grant]; exact Tile.Ok.maps (by assumption))
    | (refine TW.ok_lit ?_; dsimp only)
    | split)

theorem TW.collide_ok (x : TW) (c kept dropped n : Nat) (h : x.Ok) :
    (TW.collide x c kept dropped n).Ok := by
  unfold TW.collide
  repeat' (first
    | with_reducible assumption
    | with_reducible apply TW.count_ok
    | with_reducible apply TW.put_ok)

theorem Tile.release_ok (t : Tile) (c : Nat) (ended : Bool) (h : t.Ok) :
    (Tile.release t c ended).Ok := by
  unfold Tile.release
  repeat' (first
    | with_reducible assumption
    | (refine Tile.ok_lit ?_; dsimp only; exact Tile.Ok.maps (by assumption)))

theorem TW.glzPush_ok (x : TW) (r : GlzRun) (due cls a n v : Nat) (marks : List Bool) (watch : Option (Nat × Nat × Nat × Bool × Nat)) (h : x.Ok) :
    (TW.glzPush x r due cls a n v marks watch).Ok := by
  unfold TW.glzPush
  repeat' (first
    | with_reducible assumption
    | refine fun _ => ?_
    | with_reducible apply TW.map_ok
    | (extract_lets +onlyGivenNames z; with_reducible apply TW.ok_cut (x := z); rotate_left; clear_value z; intro hz; rotate_right; subst z)
    | (extract_lets +onlyGivenNames z; with_reducible apply Tile.ok_cut (t := z); rotate_left; clear_value z; intro hz; rotate_right; subst z)
    | extract_lets +onlyGivenNames z
    | (refine Tile.ok_lit ?_; dsimp only; exact Tile.Ok.maps (by assumption))
    | (refine TW.ok_lit ?_; dsimp only)
    | (with_reducible refine TW.ok_ite (fun _ => ?_) (fun _ => ?_))
    | (with_reducible refine Tile.ok_ite (fun _ => ?_) (fun _ => ?_)))

theorem TW.markGrun_ok (x : TW) (who : Who) (d : Row) (h : x.Ok) :
    (TW.markGrun x who d).Ok := by
  unfold TW.markGrun
  repeat' (first
    | with_reducible assumption
    | refine fun _ => ?_
    | with_reducible apply TW.claimBytes_ok
    | with_reducible apply TW.pendBytes_ok
    | with_reducible apply TW.ok_foldl
    | with_reducible apply TW.Ok.tile
    | (with_reducible refine TW.ok_ite (fun _ => ?_) (fun _ => ?_)))

theorem TW.glzReject_ok (x : TW) (o : QOp) (code stage c : Nat) (h : x.Ok) :
    (TW.glzReject x o code stage c).Ok := by
  unfold TW.glzReject
  repeat' (first
    | with_reducible assumption
    | refine fun _ => ?_
    | with_reducible apply TW.finish_ok
    | with_reducible apply TW.glzErr_ok
    | with_reducible apply TW.map_ok
    | (refine Tile.ok_lit ?_; dsimp only; exact Tile.Ok.maps (by assumption)))

theorem TW.glzChainAhead_ok (x : TW) (r0 : Nat) (h : x.Ok) :
    (TW.glzChainAhead x r0).Ok := by
  induction r0 generalizing x with
  | zero =>
    unfold TW.glzChainAhead
    repeat' (first
      | with_reducible assumption
      | with_reducible apply TW.ports_ok
      | with_reducible apply TW.Ok.tile
      | split)
  | succ r0 ih =>
    unfold TW.glzChainAhead
    repeat' (first
      | with_reducible assumption
      | with_reducible apply ih
      | with_reducible apply TW.ports_ok
      | with_reducible apply TW.Ok.tile
      | split)

theorem TW.glzChecked_ok (x : TW) (r : GlzRun) (h : x.Ok) :
    (TW.glzChecked x r).Ok := by
  unfold TW.glzChecked
  repeat' (first
    | with_reducible assumption
    | with_reducible apply TW.count_ok
    | with_reducible apply TW.ports_ok
    | with_reducible apply TW.markGrun_ok
    | with_reducible apply TW.glzReject_ok
    | with_reducible apply TW.Ok.tile
    | (extract_lets +onlyGivenNames z; with_reducible apply TW.ok_cut (x := z); rotate_left; clear_value z; intro hz; rotate_right; subst z)
    | (extract_lets +onlyGivenNames z; with_reducible apply Tile.ok_cut (t := z); rotate_left; clear_value z; intro hz; rotate_right; subst z)
    | extract_lets +onlyGivenNames z
    | with_reducible refine TW.ok_snd (by assumption) ?_
    | split)

theorem TW.grunStart_ok (x : TW) (c : Nat) (h : x.Ok) :
    (TW.grunStart x c).Ok := by
  unfold TW.grunStart
  repeat' (first
    | with_reducible assumption
    | refine fun _ => ?_
    | with_reducible apply TW.commitStores_ok
    | with_reducible apply TW.settled_ok
    | with_reducible apply TW.forToken_ok
    | with_reducible apply TW.glzReject_ok
    | with_reducible apply TW.glzChainAhead_ok
    | with_reducible apply TW.glzChecked_ok
    | with_reducible apply TW.map_ok
    | with_reducible apply TW.Ok.tile
    | (extract_lets +onlyGivenNames z; with_reducible apply TW.ok_cut (x := z); rotate_left; clear_value z; intro hz; rotate_right; subst z)
    | (extract_lets +onlyGivenNames z; with_reducible apply Tile.ok_cut (t := z); rotate_left; clear_value z; intro hz; rotate_right; subst z)
    | extract_lets +onlyGivenNames z
    | (refine Tile.ok_lit ?_; dsimp only; exact Tile.Ok.maps (by assumption))
    | with_reducible refine TW.ok_snd (by assumption) ?_
    | with_reducible refine TW.ok_trd (by assumption) ?_
    | split)

theorem TW.writeOut_ok (x : TW) (due cls : Nat) (r : GlzRun) (g : GStream) (rw : RWord) (tap e0 : Nat) (ls : List Lane) (h : x.Ok) :
    (TW.writeOut x due cls r g rw tap e0 ls).Ok := by
  unfold TW.writeOut
  repeat' (first
    | with_reducible assumption
    | refine fun _ => ?_
    | with_reducible apply TW.count_ok
    | with_reducible apply TW.glzPush_ok
    | with_reducible apply TW.ok_foldl
    | with_reducible apply TW.Ok.tile
    | (with_reducible refine TW.ok_ite (fun _ => ?_) (fun _ => ?_)))

theorem TW.writeKb_ok (x : TW) (due : Nat) (r : GlzRun) (rw : RWord) (e0 h : Nat) (hPois : Bool) (ls : List Lane) (hOk : x.Ok) :
    (TW.writeKb x due r rw e0 h hPois ls).2.Ok := by
  unfold TW.writeKb
  repeat' (first
    | with_reducible assumption
    | with_reducible apply TW.count_ok
    | with_reducible apply TW.glzPush_ok
    | (extract_lets +onlyGivenNames z; with_reducible apply TW.ok_cut (x := z); rotate_left; clear_value z; intro hz; rotate_right; subst z)
    | extract_lets +onlyGivenNames z
    | split)

theorem TW.writeRecord_ok (x : TW) (due : Nat) (r : GlzRun) (rw : RWord) (h : x.Ok) :
    (TW.writeRecord x due r rw).Ok := by
  unfold TW.writeRecord
  repeat' (first
    | with_reducible assumption
    | with_reducible apply TW.count_ok
    | with_reducible apply TW.glzPush_ok
    | (extract_lets +onlyGivenNames z; with_reducible apply TW.ok_cut (x := z); rotate_left; clear_value z; intro hz; rotate_right; subst z)
    | (extract_lets +onlyGivenNames z; with_reducible apply Tile.ok_cut (t := z); rotate_left; clear_value z; intro hz; rotate_right; subst z)
    | extract_lets +onlyGivenNames z
    | split)

theorem TW.glzAhead_ok (x : TW) (r0 : Nat) (h : x.Ok) :
    (TW.glzAhead x r0).Ok := by
  induction r0 generalizing x with
  | zero =>
    unfold TW.glzAhead
    repeat' (first
      | with_reducible assumption
      | with_reducible apply TW.ports_ok
      | with_reducible apply TW.Ok.tile
      | with_reducible refine TW.ok_snd (by assumption) ?_
      | split)
  | succ r0 ih =>
    unfold TW.glzAhead
    repeat' (first
      | with_reducible assumption
      | with_reducible apply ih
      | with_reducible apply TW.ports_ok
      | with_reducible apply TW.Ok.tile
      | with_reducible refine TW.ok_snd (by assumption) ?_
      | split)

theorem TW.beatCounts_ok (x : TW) (r : GlzRun) (d : Row) (rw : RWord) (b : GlzBeat) (ls : List Lane) (h : x.Ok) :
    (TW.beatCounts x r d rw b ls).Ok := by
  unfold TW.beatCounts
  repeat' (first
    | with_reducible assumption
    | refine fun _ => ?_
    | with_reducible apply TW.count_ok
    | with_reducible apply TW.perf_ok
    | with_reducible apply TW.glzFail_ok
    | with_reducible apply TW.map_ok
    | with_reducible apply TW.ok_foldl
    | with_reducible apply Tile.ok_foldl
    | (extract_lets +onlyGivenNames z; with_reducible apply TW.ok_cut (x := z); rotate_left; clear_value z; intro hz; rotate_right; subst z)
    | (extract_lets +onlyGivenNames z; with_reducible apply Tile.ok_cut (t := z); rotate_left; clear_value z; intro hz; rotate_right; subst z)
    | extract_lets +onlyGivenNames z
    | (with_reducible refine TW.ok_ite (fun _ => ?_) (fun _ => ?_))
    | (with_reducible refine Tile.ok_ite (fun _ => ?_) (fun _ => ?_)))

theorem TW.beatOut_ok (x : TW) (bc : BeatCycles) (r : GlzRun) (d : Row) (rw : RWord) (b : GlzBeat) (ls : List Lane) (h : x.Ok) :
    (TW.beatOut x bc r d rw b ls).2.Ok := by
  unfold TW.beatOut
  repeat' (first
    | with_reducible assumption
    | with_reducible apply TW.writeKb_ok
    | with_reducible apply TW.writeOut_ok
    | split)

theorem TW.beatOut2_ok (x : TW) (bc : BeatCycles) (r : GlzRun) (d : Row) (rw : RWord) (b : GlzBeat) (ls : List Lane) (h : x.Ok) :
    (TW.beatOut2 x bc r d rw b ls).Ok := by
  unfold TW.beatOut2
  repeat' (first
    | with_reducible assumption
    | with_reducible apply TW.writeOut_ok
    | (with_reducible refine TW.ok_ite (fun _ => ?_) (fun _ => ?_)))

theorem TW.beatEnd_ok (x : TW) (bc : BeatCycles) (r : GlzRun) (d : Row) (rw : RWord) (e0 : Nat) (h : x.Ok) :
    (TW.beatEnd x bc r d rw e0).Ok := by
  unfold TW.beatEnd
  repeat' (first
    | with_reducible assumption
    | refine fun _ => ?_
    | with_reducible apply Tile.setGlz_ok
    | with_reducible apply TW.glzMarks_ok
    | with_reducible apply TW.writeRecord_ok
    | with_reducible apply TW.map_ok
    | (extract_lets +onlyGivenNames z; with_reducible apply TW.ok_cut (x := z); rotate_left; clear_value z; intro hz; rotate_right; subst z)
    | (extract_lets +onlyGivenNames z; with_reducible apply Tile.ok_cut (t := z); rotate_left; clear_value z; intro hz; rotate_right; subst z)
    | extract_lets +onlyGivenNames z
    | (refine Tile.ok_lit ?_; dsimp only; exact Tile.Ok.maps (by assumption))
    | (with_reducible refine TW.ok_ite (fun _ => ?_) (fun _ => ?_))
    | (with_reducible refine Tile.ok_ite (fun _ => ?_) (fun _ => ?_)))

theorem TW.beatRun_ok (x : TW) (r : GlzRun) (q : GlzRead) (d : Row) (rw : RWord) (h : x.Ok) :
    (TW.beatRun x r q d rw).Ok := by
  unfold TW.beatRun
  repeat' (first
    | with_reducible assumption
    | refine fun _ => ?_
    | with_reducible apply TW.beatCounts_ok
    | with_reducible apply TW.beatOut_ok
    | with_reducible apply TW.beatOut2_ok
    | with_reducible apply TW.beatEnd_ok
    | with_reducible apply TW.map_ok
    | with_reducible apply TW.Ok.tile
    | (extract_lets +onlyGivenNames z; with_reducible apply TW.ok_cut (x := z); rotate_left; clear_value z; intro hz; rotate_right; subst z)
    | (extract_lets +onlyGivenNames z; with_reducible apply Tile.ok_cut (t := z); rotate_left; clear_value z; intro hz; rotate_right; subst z)
    | extract_lets +onlyGivenNames z
    | (refine Tile.ok_lit ?_; dsimp only; exact Tile.Ok.maps (by assumption))
    | split)

theorem TW.glazeBeat_ok (x : TW) (h : x.Ok) :
    (TW.glazeBeat x).Ok := by
  unfold TW.glazeBeat
  repeat' (first
    | with_reducible assumption
    | with_reducible apply TW.glzAhead_ok
    | with_reducible apply TW.beatRun_ok
    | with_reducible apply TW.Ok.tile
    | (extract_lets +onlyGivenNames z; with_reducible apply TW.ok_cut (x := z); rotate_left; clear_value z; intro hz; rotate_right; subst z)
    | (extract_lets +onlyGivenNames z; with_reducible apply Tile.ok_cut (t := z); rotate_left; clear_value z; intro hz; rotate_right; subst z)
    | extract_lets +onlyGivenNames z
    | with_reducible refine TW.ok_snd (by assumption) ?_
    | with_reducible refine TW.ok_trd (by assumption) ?_
    | split)

theorem TW.syncFinish_ok (x : TW) (o : SyncOp) (status c : Nat) (h : x.Ok) :
    (TW.syncFinish x o status c).Ok := by
  unfold TW.syncFinish
  repeat' (first
    | with_reducible assumption
    | refine fun _ => ?_
    | with_reducible apply TW.perfOf_ok
    | with_reducible apply Tile.clearToken_ok
    | with_reducible apply TW.map_ok
    | (refine Tile.ok_lit ?_; dsimp only; exact Tile.Ok.maps (by assumption)))

theorem Tile.startStream_ok (t : Tile) (id : Nat) (h : t.Ok) :
    (Tile.startStream t id).Ok := by
  unfold Tile.startStream
  repeat' (first
    | with_reducible assumption
    | (refine Tile.ok_lit ?_; dsimp only; exact Tile.Ok.maps (by assumption)))

theorem TW.markStream_ok (x : TW) (o : QOp) (h : x.Ok) :
    (TW.markStream x o).Ok := by
  unfold TW.markStream
  repeat' (first
    | with_reducible assumption
    | refine fun _ => ?_
    | with_reducible apply TW.penClaim_ok
    | with_reducible apply TW.penPending_ok
    | with_reducible apply TW.ok_foldl
    | with_reducible apply TW.Ok.tile
    | (with_reducible refine TW.ok_ite (fun _ => ?_) (fun _ => ?_)))

theorem TW.edgeRows_ok (x : TW) (c : Nat) (who : Who) (a n : Nat) (r0 : Nat) (h : x.Ok) :
    (TW.edgeRows x c who a n r0).2.Ok := by
  induction r0 generalizing x c who a n with
  | zero =>
    unfold TW.edgeRows
    repeat' (first
      | with_reducible assumption
      | with_reducible apply TW.perf_ok
      | with_reducible apply TW.readPart_ok
      | with_reducible apply TW.commitStores_ok
      | with_reducible apply TW.edgeClaim_ok
      | (extract_lets +onlyGivenNames z; with_reducible apply TW.ok_cut (x := z); rotate_left; clear_value z; intro hz; rotate_right; subst z)
      | (extract_lets +onlyGivenNames z; with_reducible apply Tile.ok_cut (t := z); rotate_left; clear_value z; intro hz; rotate_right; subst z)
      | extract_lets +onlyGivenNames z
      | with_reducible refine TW.ok_snd (by assumption) ?_
      | with_reducible refine TW.ok_trd (by assumption) ?_
      | split)
  | succ r0 ih =>
    unfold TW.edgeRows
    repeat' (first
      | with_reducible assumption
      | with_reducible apply ih
      | with_reducible apply TW.perf_ok
      | with_reducible apply TW.readPart_ok
      | with_reducible apply TW.commitStores_ok
      | with_reducible apply TW.edgeClaim_ok
      | (extract_lets +onlyGivenNames z; with_reducible apply TW.ok_cut (x := z); rotate_left; clear_value z; intro hz; rotate_right; subst z)
      | (extract_lets +onlyGivenNames z; with_reducible apply Tile.ok_cut (t := z); rotate_left; clear_value z; intro hz; rotate_right; subst z)
      | extract_lets +onlyGivenNames z
      | with_reducible refine TW.ok_snd (by assumption) ?_
      | with_reducible refine TW.ok_trd (by assumption) ?_
      | split)

theorem TW.blendRows_ok (x : TW) (c : Nat) (who : Who) (a n v : Nat) (r0 : Nat) (h : x.Ok) :
    (TW.blendRows x c who a n v r0).2.Ok := by
  induction r0 generalizing x c who a n v with
  | zero =>
    unfold TW.blendRows
    repeat' (first
      | with_reducible assumption
      | with_reducible apply TW.perf_ok
      | with_reducible apply TW.violation_ok
      | with_reducible apply TW.writeRaw_ok
      | with_reducible apply TW.penWrite_ok
      | with_reducible apply TW.commitBefore_ok
      | with_reducible apply TW.commitStores_ok
      | with_reducible apply TW.edgeClaim_ok
      | with_reducible apply TW.Ok.tile
      | (extract_lets +onlyGivenNames z; with_reducible apply TW.ok_cut (x := z); rotate_left; clear_value z; intro hz; rotate_right; subst z)
      | (extract_lets +onlyGivenNames z; with_reducible apply Tile.ok_cut (t := z); rotate_left; clear_value z; intro hz; rotate_right; subst z)
      | extract_lets +onlyGivenNames z
      | with_reducible refine TW.ok_snd (by assumption) ?_
      | with_reducible refine TW.ok_trd (by assumption) ?_
      | split)
  | succ r0 ih =>
    unfold TW.blendRows
    repeat' (first
      | with_reducible assumption
      | with_reducible apply ih
      | with_reducible apply TW.perf_ok
      | with_reducible apply TW.violation_ok
      | with_reducible apply TW.writeRaw_ok
      | with_reducible apply TW.penWrite_ok
      | with_reducible apply TW.commitBefore_ok
      | with_reducible apply TW.commitStores_ok
      | with_reducible apply TW.edgeClaim_ok
      | with_reducible apply TW.Ok.tile
      | (extract_lets +onlyGivenNames z; with_reducible apply TW.ok_cut (x := z); rotate_left; clear_value z; intro hz; rotate_right; subst z)
      | (extract_lets +onlyGivenNames z; with_reducible apply Tile.ok_cut (t := z); rotate_left; clear_value z; intro hz; rotate_right; subst z)
      | extract_lets +onlyGivenNames z
      | with_reducible refine TW.ok_snd (by assumption) ?_
      | with_reducible refine TW.ok_trd (by assumption) ?_
      | split)

theorem TW.loaderWrite_ok (x : TW) (a n v : Nat) (h : x.Ok) :
    (TW.loaderWrite x a n v).Ok := by
  unfold TW.loaderWrite
  repeat' (first
    | with_reducible assumption
    | refine fun _ => ?_
    | with_reducible apply TW.writeRaw_ok
    | with_reducible apply Tile.setGran_ok
    | with_reducible apply TW.map_ok
    | with_reducible apply Tile.ok_foldl
    | (with_reducible refine TW.ok_ite (fun _ => ?_) (fun _ => ?_))
    | (with_reducible refine Tile.ok_ite (fun _ => ?_) (fun _ => ?_)))

theorem Tile.start_ok (t : Tile) (gid c seed model cyc : Nat) (pen running : Bool) (h : t.Ok) :
    (Tile.start t gid c seed model cyc pen running).Ok := by
  unfold Tile.start
  repeat' (first
    | with_reducible assumption
    | with_reducible apply Tile.put_ok
    | with_reducible apply TW.put_ok
    | (extract_lets +onlyGivenNames z; with_reducible apply TW.ok_cut (x := z); rotate_left; clear_value z; intro hz; rotate_right; subst z)
    | (extract_lets +onlyGivenNames z; with_reducible apply Tile.ok_cut (t := z); rotate_left; clear_value z; intro hz; rotate_right; subst z)
    | extract_lets +onlyGivenNames z
    | (refine Tile.ok_lit ?_; dsimp only; exact Tile.Ok.maps (by assumption))
    | (with_reducible refine TW.ok_ite (fun _ => ?_) (fun _ => ?_))
    | (with_reducible refine Tile.ok_ite (fun _ => ?_) (fun _ => ?_)))

theorem TW.copyReads_ok (x : TW) (h : x.Ok) :
    (TW.copyReads x).Ok := by
  unfold TW.copyReads
  repeat' (first
    | with_reducible assumption
    | refine fun _ => ?_
    | with_reducible apply TW.readSeg_ok
    | with_reducible apply TW.Ok.tile
    | with_reducible apply TW.ok_foldl
    | with_reducible apply Tile.ok_foldl)

theorem Tile.copyTo_ok (p q : Tile) (hq : q.Ok) (h : p.Ok) :
    (Tile.copyTo p q).Ok := by
  have hp := h.maps
  have hm := hq.maps
  exact Tile.ok_lit ⟨hm.regs, hm.sregs, hp.pal, hp.acc, hm.zero⟩

theorem Tile.copiedTo_ok (p q : Tile) (hq : q.Ok) (h : p.Ok) :
    (Tile.copiedTo p q).Ok := Tile.ok_lit (Tile.copyTo_ok p q hq h).maps

theorem Tile.moveTo_ok (p q : Tile) (hq : q.Ok) (h : p.Ok) :
    (Tile.moveTo p q).Ok := by
  have hp := h.maps
  exact Tile.ok_lit ⟨hp.regs, hp.sregs, hp.pal, hp.acc, hp.zero⟩

theorem Tile.husk_ok (p : Tile) (h : p.Ok) :
    (Tile.husk p).Ok := by
  have hp := h.maps
  exact Tile.ok_lit ⟨rfl, rfl, hp.pal, hp.acc, rfl⟩

theorem Tile.scanned_ok (t : Tile) (h : t.Ok) :
    (Tile.scanned t).Ok := by
  have hp := h.maps
  exact Tile.ok_lit ⟨hp.regs, hp.sregs, rfl, rfl, hp.zero⟩

theorem Tile.tickRelease_ok (t : Tile) (c : Nat) (h : t.Ok) :
    (Tile.tickRelease t c).Ok := by
  unfold Tile.tickRelease
  repeat' (first
    | with_reducible assumption
    | (refine Tile.ok_lit ?_; dsimp only; exact Tile.Ok.maps (by assumption)))

theorem Tile.endSend_ok (t : Tile) (x : Send) (status : Nat) (h : t.Ok) :
    (Tile.endSend t x status).Ok := by
  unfold Tile.endSend
  repeat' (first
    | with_reducible assumption
    | with_reducible apply Tile.clearToken_ok
    | (refine Tile.ok_lit ?_; dsimp only; exact Tile.Ok.maps (by assumption))
    | (with_reducible refine TW.ok_ite (fun _ => ?_) (fun _ => ?_))
    | (with_reducible refine Tile.ok_ite (fun _ => ?_) (fun _ => ?_)))

end Sys2Proof.Machine
end

