-- ==== Sys2Proof/Laws/Good.lean ====
section
/-! SUPPORT. What a command keeps of the module (the canonical form of its registers, its VF pages, HBM's bytes and its
table of tiles; the queue of commands), and the steps that every such proof is made of. -/

namespace Sys2Proof.Machine

/-- The table of tiles is canonical, and so is every tile in it. -/
structure TilesOk (m : SMap Tile) : Prop where
  wf : SMap.wf m (fun _ => Tile.fresh) = true
  each : ∀ q ∈ m, q.2.Ok

theorem TilesOk.nil : TilesOk [] := ⟨rfl, fun _ h => by cases h⟩

theorem TilesOk.put {m : SMap Tile} (h : TilesOk m) (p : Nat) {t : Tile} (ht : t.Ok) :
    TilesOk (SMap.put m p t Tile.fresh) := by
  refine ⟨SMap.wf_put0 m (fun _ => Tile.fresh) p t _ rfl h.wf, fun q hq => ?_⟩
  rcases SMap.mem_put m p t _ q hq with e | e
  · subst e; exact ht
  · exact h.each q e

theorem TilesOk.get {m : SMap Tile} (h : TilesOk m) (p : Nat) : (SMap.getD m p Tile.fresh).Ok := by
  unfold SMap.getD
  cases hf : SMap.find m p with
  | none => exact Tile.fresh_ok
  | some t => exact h.each _ (SMap.mem_of_find m p t hf)

/-- The queue is `cq`, and the maps of the module are canonical. -/
structure State.Good (s : State) (cq : List Instr) : Prop where
  pend : s.pending = cq
  regs : SMap.wf s.regs moduleReset = true
  vf : SMap.wf s.vf (fun _ => 0) = true
  mem : SMap.wf s.hbm.mem (fun _ => 0) = true
  tiles : TilesOk s.tiles

variable {cq : List Instr}

/-- The same of the queue and the maps themselves. -/
structure GoodMaps (q p : List Instr) (r v : SMap Word) (m : SMap (BitVec 8)) (t : SMap Tile) : Prop where
  pend : p = q
  regs : SMap.wf r moduleReset = true
  vf : SMap.wf v (fun _ => 0) = true
  mem : SMap.wf m (fun _ => 0) = true
  tiles : TilesOk t

theorem State.good_lit {s : State} (h : GoodMaps cq s.pending s.regs s.vf s.hbm.mem s.tiles) : s.Good cq :=
  ⟨h.pend, h.regs, h.vf, h.mem, h.tiles⟩

theorem State.Good.maps {s : State} (h : s.Good cq) : GoodMaps cq s.pending s.regs s.vf s.hbm.mem s.tiles :=
  ⟨h.pend, h.regs, h.vf, h.mem, h.tiles⟩

theorem GoodMaps.setRegs {q p : List Instr} {r r' v : SMap Word} {m : SMap (BitVec 8)} {t : SMap Tile}
    (h : GoodMaps q p r v m t) (hr : SMap.wf r moduleReset = true → SMap.wf r' moduleReset = true) :
    GoodMaps q p r' v m t := ⟨h.pend, hr h.regs, h.vf, h.mem, h.tiles⟩

theorem GoodMaps.setVf {q p : List Instr} {r v v' : SMap Word} {m : SMap (BitVec 8)} {t : SMap Tile}
    (h : GoodMaps q p r v m t) (hv : SMap.wf v (fun _ => 0) = true → SMap.wf v' (fun _ => 0) = true) :
    GoodMaps q p r v' m t := ⟨h.pend, h.regs, hv h.vf, h.mem, h.tiles⟩

theorem GoodMaps.setMem {q p : List Instr} {r v : SMap Word} {m m' : SMap (BitVec 8)} {t : SMap Tile}
    (h : GoodMaps q p r v m t) (hm : SMap.wf m (fun _ => 0) = true → SMap.wf m' (fun _ => 0) = true) :
    GoodMaps q p r v m' t := ⟨h.pend, h.regs, h.vf, hm h.mem, h.tiles⟩

theorem GoodMaps.noTiles {q p : List Instr} {r v : SMap Word} {m : SMap (BitVec 8)} {t : SMap Tile}
    (h : GoodMaps q p r v m t) : GoodMaps q p r v m [] := ⟨h.pend, h.regs, h.vf, h.mem, TilesOk.nil⟩

theorem State.good_cut {s : State} {G : Prop} (h : s.Good cq) (k : s.Good cq → G) : G := k h

theorem State.good_ite {c : Prop} [Decidable c] {a b : State} (ha : c → a.Good cq) (hb : ¬ c → b.Good cq) :
    (if c then a else b).Good cq := by
  split
  · exact ha ‹_›
  · exact hb ‹_›

theorem State.good_snd {α : Type} {p : α × State} {a : α} {s : State} (e : p = (a, s)) (h : p.2.Good cq) : s.Good cq := by
  subst e; exact h

theorem State.good_fst {α : Type} {p : State × α} {a : α} {s : State} (e : p = (s, a)) (h : p.1.Good cq) : s.Good cq := by
  subst e; exact h

theorem State.good_mid {α β : Type} {p : α × State × β} {a : α} {b : β} {s : State} (e : p = (a, s, b))
    (h : p.2.1.Good cq) : s.Good cq := by
  subst e; exact h

theorem State.good_trd {α β : Type} {p : α × β × State} {a : α} {b : β} {s : State} (e : p = (a, b, s))
    (h : p.2.2.Good cq) : s.Good cq := by
  subst e; exact h

theorem State.good_fth {α β γ : Type} {p : α × β × γ × State} {a : α} {b : β} {c : γ} {s : State} (e : p = (a, b, c, s))
    (h : p.2.2.2.Good cq) : s.Good cq := by
  subst e; exact h

theorem State.good_foldl {α : Type} (f : State → α → State) (l : List α) (s : State)
    (hf : ∀ s a, s.Good cq → (f s a).Good cq) (h : s.Good cq) : (l.foldl f s).Good cq := by
  induction l generalizing s with
  | nil => exact h
  | cons a l ih => exact ih _ (hf s a h)

theorem State.good_foldl_fst {α β : Type} (f : State × β → α → State × β) (l : List α) (p : State × β)
    (hf : ∀ p a, p.1.Good cq → (f p a).1.Good cq) (h : p.1.Good cq) : (l.foldl f p).1.Good cq := by
  induction l generalizing p with
  | nil => exact h
  | cons a l ih => exact ih _ (hf p a h)

theorem State.good_foldl_snd {α β : Type} (f : β × State → α → β × State) (l : List α) (p : β × State)
    (hf : ∀ p a, p.2.Good cq → (f p a).2.Good cq) (h : p.2.Good cq) : (l.foldl f p).2.Good cq := by
  induction l generalizing p with
  | nil => exact h
  | cons a l ih => exact ih _ (hf p a h)

theorem SMap.clear_wf {α : Type} [DecidableEq α] (m : SMap α) (d : Nat → α) (lo hi : Nat) (h : SMap.wf m d = true) :
    SMap.wf (SMap.clear m lo hi) d = true := SMap.wf_filter m d _ h

theorem SMap.foldl_wf {α β : Type} [DecidableEq α] (f : SMap α → β → SMap α) (l : List β) (m : SMap α) (d : Nat → α)
    (hf : ∀ m b, SMap.wf m d = true → SMap.wf (f m b) d = true) (h : SMap.wf m d = true) :
    SMap.wf (l.foldl f m) d = true := by
  induction l generalizing m with
  | nil => exact h
  | cons a l ih => exact ih _ (hf m a h)

theorem State.put_good (s : State) (f : RF) (v : Nat) (h : s.Good cq) : (s.put f v).Good cq :=
  State.good_lit (h.maps.setRegs fun h => rput_wf _ _ _ _ h)

theorem State.setWord_good (s : State) (a : Nat) (v : Word) (h : s.Good cq) : (s.setWord a v).Good cq :=
  State.good_lit (h.maps.setRegs fun h => rset_wf _ _ _ _ h)

theorem State.reach_good (s : State) (n : Nat) (h : s.Good cq) : (s.reach n).Good cq :=
  State.good_lit (h.maps.setRegs fun h => CSet.event_wf _ _ _ _ _ (CSet.event_wf _ _ _ _ _ h))

theorem State.tile_ok {s : State} (h : s.Good cq) (p : Nat) : (s.tile p).Ok := h.tiles.get p

theorem State.setTile_good (s : State) (p : Nat) (t : Tile) (ht : t.Ok) (h : s.Good cq) : (s.setTile p t).Good cq :=
  State.good_lit ⟨h.pend, h.regs, h.vf, h.mem, h.tiles.put p ht⟩

/-! Commands. -/

/-- What a command leaves, when it leaves a next state. -/
def Keeps (r : Host.Outcome State Fault Refusal) (cq : List Instr) : Prop := ∀ u, r = .next u → u.Good cq

theorem Keeps.next {s : State} (h : s.Good cq) : Keeps (.next s) cq := fun u e => by cases e; exact h

theorem Keeps.refused (r : Refusal) : Keeps (.refused r) cq := fun u e => by cases e

theorem Keeps.ite {c : Prop} [Decidable c] {a b : Host.Outcome State Fault Refusal} (ha : Keeps a cq) (hb : Keeps b cq) :
    Keeps (if c then a else b) cq := by
  split
  · exact ha
  · exact hb

end Sys2Proof.Machine
end

