-- ==== Sys2Proof/Laws/GoodWorld.lean ====
section
/-! SUPPORT. Every function of Machine/World.lean that answers a module keeps its maps canonical and its queue of commands. -/

namespace Sys2Proof.Machine

variable {cq : List Instr}

theorem State.add_good (s : State) (f : RF) (n : Nat) (h : s.Good cq) :
    (State.add s f n).Good cq := by
  unfold State.add
  repeat' (first
    | with_reducible assumption
    | with_reducible apply State.put_good
    | (with_reducible refine State.good_ite (fun _ => ?_) (fun _ => ?_)))

theorem State.errc_good (s : State) (i n : Nat) (h : s.Good cq) :
    (State.errc s i n).Good cq := by
  unfold State.errc
  repeat' (first
    | with_reducible assumption
    | (refine State.good_lit ?_; dsimp only; exact State.Good.maps (by assumption))
    | (with_reducible refine State.good_ite (fun _ => ?_) (fun _ => ?_)))

theorem State.count_good (s : State) (f : RF) (i n : Nat) (h : s.Good cq) :
    (State.count s f i n).Good cq := by
  unfold State.count
  repeat' (first
    | with_reducible assumption
    | with_reducible apply State.add_good
    | with_reducible apply State.errc_good)

theorem State.fresh64_good (s : State) (h : s.Good cq) :
    (State.fresh64 s).2.Good cq := by
  unfold State.fresh64
  repeat' (first
    | with_reducible assumption
    | (refine State.good_lit ?_; dsimp only; exact State.Good.maps (by assumption)))

theorem State.mapTile_good (s : State) (p : Nat) (f : Tile → Tile) (hf : ∀ z0, Tile.Ok z0 → Tile.Ok (f z0)) (h : s.Good cq) :
    (State.mapTile s p f).Good cq := by
  unfold State.mapTile
  repeat' (first
    | with_reducible assumption
    | with_reducible apply hf
    | with_reducible apply State.setTile_good
    | with_reducible apply State.tile_ok)

theorem State.mapPwr_good (s : State) (g : PwrSt → PwrSt) (h : s.Good cq) :
    (State.mapPwr s g).Good cq := by
  unfold State.mapPwr
  repeat' (first
    | with_reducible assumption
    | (refine State.good_lit ?_; dsimp only; exact State.Good.maps (by assumption)))

theorem State.setClk_good (s : State) (d : Nat) (x : DieClk) (h : s.Good cq) :
    (State.setClk s d x).Good cq := by
  unfold State.setClk
  repeat' (first
    | with_reducible assumption
    | with_reducible apply State.mapPwr_good)

theorem State.countLoss_good (s : State) (d at_ : Nat) (h : s.Good cq) :
    (State.countLoss s d at_).Good cq := by
  unfold State.countLoss
  repeat' (first
    | with_reducible assumption
    | with_reducible apply State.add_good
    | with_reducible apply State.count_good
    | with_reducible apply State.setClk_good
    | with_reducible apply TW.count_ok
    | (extract_lets +onlyGivenNames z; with_reducible apply State.good_cut (cq := cq) (s := z); rotate_left; clear_value z; intro hz; rotate_right; subst z)
    | extract_lets +onlyGivenNames z
    | (refine State.good_lit ?_; dsimp only; exact State.Good.maps (by assumption)))

theorem State.settleLoss_good (s : State) (d at_ : Nat) (h : s.Good cq) :
    (State.settleLoss s d at_).Good cq := by
  unfold State.settleLoss
  repeat' (first
    | with_reducible assumption
    | with_reducible apply State.countLoss_good
    | with_reducible apply State.setClk_good)

end Sys2Proof.Machine
end

