-- ==== Sys2Proof/Laws/GoodRouter.lean ====
section
/-! SUPPORT. Every function of Machine/Router.lean that answers a module keeps its maps canonical and its queue of commands. -/

namespace Sys2Proof.Machine

variable {cq : List Instr}

theorem State.setPort_good (s : State) (f p : Nat) (x : Port) (h : s.Good cq) :
    (State.setPort s f p x).Good cq := by
  unfold State.setPort
  repeat' (first
    | with_reducible assumption
    | (refine State.good_lit ?_; dsimp only; exact State.Good.maps (by assumption)))

theorem State.mapPort_good (s : State) (f p : Nat) (g : Port → Port) (h : s.Good cq) :
    (State.mapPort s f p g).Good cq := by
  unfold State.mapPort
  repeat' (first
    | with_reducible assumption
    | with_reducible apply State.setPort_good)

theorem State.freeBuf_good (s : State) (f : Nat) (inPort : Option Nat) (vc : Nat) (h : s.Good cq) :
    (State.freeBuf s f inPort vc).Good cq := by
  unfold State.freeBuf
  repeat' (first
    | with_reducible assumption
    | refine fun _ => ?_
    | with_reducible apply State.mapPort_good
    | (refine State.good_lit ?_; dsimp only; exact State.Good.maps (by assumption))
    | with_reducible refine State.good_snd (by assumption) ?_
    | with_reducible refine State.good_fst (by assumption) ?_
    | split)

theorem State.toInbox_good (s : State) (inPort : Option Nat) (x : Flit) (h : s.Good cq) :
    (State.toInbox s inPort x).Good cq := by
  unfold State.toInbox
  repeat' (first
    | with_reducible assumption
    | with_reducible apply State.count_good
    | with_reducible apply State.freeBuf_good
    | with_reducible apply TW.count_ok
    | (extract_lets +onlyGivenNames z; with_reducible apply State.good_cut (cq := cq) (s := z); rotate_left; clear_value z; intro hz; rotate_right; subst z)
    | extract_lets +onlyGivenNames z
    | (refine State.good_lit ?_; dsimp only; exact State.Good.maps (by assumption))
    | (with_reducible refine State.good_ite (fun _ => ?_) (fun _ => ?_)))

theorem State.enqueueOut_good (s : State) (f p : Nat) (inPort : Option Nat) (x : Flit) (h : s.Good cq) :
    (State.enqueueOut s f p inPort x).Good cq := by
  unfold State.enqueueOut
  repeat' (first
    | with_reducible assumption
    | refine fun _ => ?_
    | with_reducible apply State.count_good
    | with_reducible apply State.mapPort_good
    | with_reducible apply State.freeBuf_good
    | with_reducible apply TW.count_ok
    | (refine State.good_lit ?_; dsimp only; exact State.Good.maps (by assumption))
    | (with_reducible refine State.good_ite (fun _ => ?_) (fun _ => ?_)))

theorem State.fabEvent_good (s : State) (f code n : Nat) (h : s.Good cq) :
    (State.fabEvent s f code n).Good cq := by
  unfold State.fabEvent
  repeat' (first
    | with_reducible assumption
    | (refine State.good_lit ?_; dsimp only; refine GoodMaps.setRegs (State.Good.maps (by assumption)) ?_; intro h0
       repeat' (first | exact h0 | with_reducible apply rput_wf | with_reducible apply rset_wf | with_reducible apply CSet.event_wf | with_reducible apply SMap.clear_wf)))

theorem State.countRx_good (s : State) (f p : Nat) (h : s.Good cq) :
    (State.countRx s f p).Good cq := by
  unfold State.countRx
  repeat' (first
    | with_reducible assumption
    | with_reducible apply State.add_good
    | with_reducible apply State.count_good
    | with_reducible apply State.fabEvent_good
    | with_reducible apply TW.count_ok)

theorem State.countTx_good (s : State) (f p vc : Nat) (h : s.Good cq) :
    (State.countTx s f p vc).Good cq := by
  unfold State.countTx
  repeat' (first
    | with_reducible assumption
    | with_reducible apply State.add_good
    | with_reducible apply State.count_good
    | with_reducible apply State.fabEvent_good
    | with_reducible apply TW.count_ok
    | (extract_lets +onlyGivenNames z; with_reducible apply State.good_cut (cq := cq) (s := z); rotate_left; clear_value z; intro hz; rotate_right; subst z)
    | extract_lets +onlyGivenNames z
    | (with_reducible refine State.good_ite (fun _ => ?_) (fun _ => ?_)))

theorem State.crossSpine_good (s : State) (f flow vc : Nat) (h : s.Good cq) :
    (State.crossSpine s f flow vc).Good cq := by
  unfold State.crossSpine
  repeat' (first
    | with_reducible assumption
    | with_reducible apply State.countRx_good
    | with_reducible apply State.countTx_good)

theorem State.fromDie_good (s : State) (d flow vc : Nat) (h : s.Good cq) :
    (State.fromDie s d flow vc).Good cq := by
  unfold State.fromDie
  repeat' (first
    | with_reducible assumption
    | with_reducible apply State.countRx_good
    | with_reducible apply State.crossSpine_good
    | (extract_lets +onlyGivenNames z; with_reducible apply State.good_cut (cq := cq) (s := z); rotate_left; clear_value z; intro hz; rotate_right; subst z)
    | extract_lets +onlyGivenNames z
    | (with_reducible refine State.good_ite (fun _ => ?_) (fun _ => ?_)))

theorem State.toDie_good (s : State) (d flow vc : Nat) (h : s.Good cq) :
    (State.toDie s d flow vc).Good cq := by
  unfold State.toDie
  repeat' (first
    | with_reducible assumption
    | with_reducible apply State.countTx_good
    | with_reducible apply State.crossSpine_good
    | (extract_lets +onlyGivenNames z; with_reducible apply State.good_cut (cq := cq) (s := z); rotate_left; clear_value z; intro hz; rotate_right; subst z)
    | extract_lets +onlyGivenNames z
    | (with_reducible refine State.good_ite (fun _ => ?_) (fun _ => ?_)))

theorem State.ownCopy_good (s : State) (f : Nat) (x : Flit) (h : s.Good cq) :
    (State.ownCopy s f x).Good cq := by
  unfold State.ownCopy
  repeat' (first
    | with_reducible assumption
    | with_reducible apply State.crossSpine_good
    | with_reducible apply State.toInbox_good
    | (with_reducible refine State.good_ite (fun _ => ?_) (fun _ => ?_)))

theorem State.dispatchFlit_good (s : State) (f : Nat) (inPort : Option Nat) (x : Flit) (h : s.Good cq) :
    (State.dispatchFlit s f inPort x).Good cq := by
  unfold State.dispatchFlit
  repeat' (first
    | with_reducible assumption
    | refine fun _ => ?_
    | with_reducible apply State.add_good
    | with_reducible apply State.count_good
    | with_reducible apply State.fabEvent_good
    | with_reducible apply State.freeBuf_good
    | with_reducible apply State.toInbox_good
    | with_reducible apply State.enqueueOut_good
    | with_reducible apply State.ownCopy_good
    | with_reducible apply TW.count_ok
    | with_reducible apply TW.send_ok
    | with_reducible apply TW.deliver_ok
    | with_reducible apply State.good_foldl
    | (extract_lets +onlyGivenNames z; with_reducible apply State.good_cut (cq := cq) (s := z); rotate_left; clear_value z; intro hz; rotate_right; subst z)
    | extract_lets +onlyGivenNames z
    | (refine State.good_lit ?_; dsimp only; exact State.Good.maps (by assumption))
    | with_reducible refine State.good_snd (by assumption) ?_
    | with_reducible refine State.good_fst (by assumption) ?_
    | split)

theorem State.badRow_good (s : State) (f : Nat) (x : Flit) (h : s.Good cq) :
    (State.badRow s f x).Good cq := by
  unfold State.badRow
  repeat' (first
    | with_reducible assumption
    | with_reducible apply State.count_good
    | with_reducible apply State.dispatchFlit_good
    | with_reducible apply TW.count_ok
    | (extract_lets +onlyGivenNames z; with_reducible apply State.good_cut (cq := cq) (s := z); rotate_left; clear_value z; intro hz; rotate_right; subst z)
    | extract_lets +onlyGivenNames z
    | (with_reducible refine State.good_ite (fun _ => ?_) (fun _ => ?_)))

theorem State.inject_good (s : State) (f : Nat) (x : Flit) (h : s.Good cq) :
    (State.inject s f x).Good cq := by
  unfold State.inject
  repeat' (first
    | with_reducible assumption
    | with_reducible apply State.dispatchFlit_good
    | with_reducible apply State.badRow_good
    | (with_reducible refine State.good_ite (fun _ => ?_) (fun _ => ?_)))

end Sys2Proof.Machine
end

