-- ==== Sys2Proof/Laws/GoodHbm.lean ====
section
/-! SUPPORT. Every function of Machine/Hbm.lean that answers a module keeps its maps canonical and its queue of commands. -/

namespace Sys2Proof.Machine

variable {cq : List Instr}

theorem State.hbmSetSeg_good (s : State) (d p seg v : Nat) (pois : Bool) (h : s.Good cq) :
    (State.hbmSetSeg s d p seg v pois).Good cq := by
  unfold State.hbmSetSeg
  repeat' (first
    | with_reducible assumption
    | (refine State.good_lit ?_; dsimp only; refine GoodMaps.setMem (State.Good.maps (by assumption)) ?_; intro h0; first | exact memWrite_wf _ _ _ _ h0 | exact SMap.clear_wf _ _ _ _ h0))

theorem State.hbmError_good (s : State) (d p seg mark : Nat) (h : s.Good cq) :
    (State.hbmError s d p seg mark).Good cq := by
  unfold State.hbmError
  repeat' (first
    | with_reducible assumption
    | with_reducible apply State.put_good
    | with_reducible apply State.count_good
    | with_reducible apply Tile.put_ok
    | with_reducible apply TW.put_ok
    | with_reducible apply TW.count_ok
    | (extract_lets +onlyGivenNames z; with_reducible apply State.good_cut (cq := cq) (s := z); rotate_left; clear_value z; intro hz; rotate_right; subst z)
    | extract_lets +onlyGivenNames z
    | (with_reducible refine State.good_ite (fun _ => ?_) (fun _ => ?_)))

theorem State.hbmReadSeg_good (s : State) (d p seg : Nat) (h : s.Good cq) :
    (State.hbmReadSeg s d p seg).2.2.Good cq := by
  unfold State.hbmReadSeg
  repeat' (first
    | with_reducible assumption
    | with_reducible apply State.put_good
    | with_reducible apply State.hbmSetSeg_good
    | with_reducible apply State.hbmError_good
    | with_reducible apply Tile.put_ok
    | with_reducible apply TW.put_ok
    | (extract_lets +onlyGivenNames z; with_reducible apply State.good_cut (cq := cq) (s := z); rotate_left; clear_value z; intro hz; rotate_right; subst z)
    | extract_lets +onlyGivenNames z
    | (refine State.good_lit ?_; dsimp only; exact State.Good.maps (by assumption))
    | split)

theorem State.hbmMerge_good (s : State) (d p seg : Nat) (h : s.Good cq) :
    (State.hbmMerge s d p seg).2.2.Good cq := by
  unfold State.hbmMerge
  repeat' (first
    | with_reducible assumption
    | with_reducible apply State.hbmError_good
    | (extract_lets +onlyGivenNames z; with_reducible apply State.good_cut (cq := cq) (s := z); rotate_left; clear_value z; intro hz; rotate_right; subst z)
    | extract_lets +onlyGivenNames z
    | split)

theorem State.hbmReadSegs_good (s : State) (d p seg : Nat) (r0 : Nat) (h : s.Good cq) :
    (State.hbmReadSegs s d p seg r0).2.2.Good cq := by
  induction r0 generalizing s d p seg with
  | zero =>
    unfold State.hbmReadSegs
    repeat' (first
      | with_reducible assumption
      | with_reducible apply State.hbmReadSeg_good)
  | succ r0 ih =>
    unfold State.hbmReadSegs
    repeat' (first
      | with_reducible assumption
      | with_reducible apply ih
      | with_reducible apply State.hbmReadSeg_good)

theorem State.hbmWriteSegs_good (s : State) (d p seg v : Nat) (marks : List Bool) (r0 : Nat) (h : s.Good cq) :
    (State.hbmWriteSegs s d p seg v marks r0).Good cq := by
  induction r0 generalizing s d p seg v marks with
  | zero =>
    unfold State.hbmWriteSegs
    repeat' (first
      | with_reducible assumption
      | with_reducible apply State.hbmSetSeg_good)
  | succ r0 ih =>
    unfold State.hbmWriteSegs
    repeat' (first
      | with_reducible assumption
      | with_reducible apply ih
      | with_reducible apply State.hbmSetSeg_good)

theorem State.hbmParts_good (s : State) (d p a n v : Nat) (r0 : Nat) (h : s.Good cq) :
    (State.hbmParts s d p a n v r0).Good cq := by
  induction r0 generalizing s d p a n v with
  | zero =>
    unfold State.hbmParts
    repeat' (first
      | with_reducible assumption
      | with_reducible apply State.hbmSetSeg_good
      | with_reducible apply State.hbmMerge_good
      | (extract_lets +onlyGivenNames z; with_reducible apply State.good_cut (cq := cq) (s := z); rotate_left; clear_value z; intro hz; rotate_right; subst z)
      | extract_lets +onlyGivenNames z
      | with_reducible refine State.good_snd (by assumption) ?_
      | with_reducible refine State.good_trd (by assumption) ?_
      | with_reducible refine State.good_fst (by assumption) ?_
      | split)
  | succ r0 ih =>
    unfold State.hbmParts
    repeat' (first
      | with_reducible assumption
      | with_reducible apply ih
      | with_reducible apply State.hbmSetSeg_good
      | with_reducible apply State.hbmMerge_good
      | (extract_lets +onlyGivenNames z; with_reducible apply State.good_cut (cq := cq) (s := z); rotate_left; clear_value z; intro hz; rotate_right; subst z)
      | extract_lets +onlyGivenNames z
      | with_reducible refine State.good_snd (by assumption) ?_
      | with_reducible refine State.good_trd (by assumption) ?_
      | with_reducible refine State.good_fst (by assumption) ?_
      | split)

theorem State.hbmWrite_good (s : State) (d p a n v : Nat) (h : s.Good cq) :
    (State.hbmWrite s d p a n v).Good cq := by
  unfold State.hbmWrite
  repeat' (first
    | with_reducible assumption
    | with_reducible apply State.hbmParts_good)

theorem State.hbmZero_good (s : State) (d p a n : Nat) (h : s.Good cq) :
    (State.hbmZero s d p a n).Good cq := by
  unfold State.hbmZero
  repeat' (first
    | with_reducible assumption
    | (refine State.good_lit ?_; dsimp only; refine GoodMaps.setMem (State.Good.maps (by assumption)) ?_; intro h0; first | exact memWrite_wf _ _ _ _ h0 | exact SMap.clear_wf _ _ _ _ h0))

theorem State.setDirty_good (s : State) (d p : Nat) (l : List (Nat × Nat)) (h : s.Good cq) :
    (State.setDirty s d p l).Good cq := by
  unfold State.setDirty
  repeat' (first
    | with_reducible assumption
    | with_reducible apply State.put_good
    | (refine State.good_lit ?_; dsimp only; exact State.Good.maps (by assumption))
    | (with_reducible refine State.good_ite (fun _ => ?_) (fun _ => ?_)))

theorem State.markDirty_good (s : State) (d p lo hi : Nat) (h : s.Good cq) :
    (State.markDirty s d p lo hi).Good cq := by
  unfold State.markDirty
  repeat' (first
    | with_reducible assumption
    | with_reducible apply State.setDirty_good)

theorem State.showTiles_good (s : State) (d p : Nat) (h : s.Good cq) :
    (State.showTiles s d p).Good cq := by
  unfold State.showTiles
  repeat' (first
    | with_reducible assumption
    | with_reducible apply State.put_good)

theorem State.ringWrite_good (s : State) (d c k lg off tail head : Nat) (r : Record) (h : s.Good cq) :
    (State.ringWrite s d c k lg off tail head r).2.Good cq := by
  unfold State.ringWrite
  repeat' (first
    | with_reducible assumption
    | with_reducible apply State.hbmWrite_good
    | extract_lets +onlyGivenNames z
    | split)

theorem State.penRecord_good (s : State) (d : Nat) (r : Record) (h : s.Good cq) :
    (State.penRecord s d r).Good cq := by
  unfold State.penRecord
  repeat' (first
    | with_reducible assumption
    | with_reducible apply State.add_good
    | with_reducible apply State.put_good
    | with_reducible apply State.ringWrite_good
    | (with_reducible refine State.good_ite (fun _ => ?_) (fun _ => ?_)))

theorem State.smpRecord_good (s : State) (d c : Nat) (r : Record) (h : s.Good cq) :
    (State.smpRecord s d c r).Good cq := by
  unfold State.smpRecord
  repeat' (first
    | with_reducible assumption
    | with_reducible apply State.add_good
    | with_reducible apply State.put_good
    | with_reducible apply State.ringWrite_good
    | (refine State.good_lit ?_; dsimp only; exact State.Good.maps (by assumption))
    | (with_reducible refine State.good_ite (fun _ => ?_) (fun _ => ?_)))

end Sys2Proof.Machine
end

