-- ==== Sys2Proof/Laws/GoodSlots.lean ====
section
/-! SUPPORT. Every function of Machine/Slots.lean that answers a module keeps its maps canonical and its queue of commands. -/

namespace Sys2Proof.Machine

variable {cq : List Instr}

theorem State.setVctx_good (s : State) (c : Nat) (x : VrnCtx) (h : s.Good cq) :
    (State.setVctx s c x).Good cq := by
  unfold State.setVctx
  repeat' (first
    | with_reducible assumption
    | (refine State.good_lit ?_; dsimp only; exact State.Good.maps (by assumption)))

theorem State.mapVctx_good (s : State) (c : Nat) (g : VrnCtx → VrnCtx) (h : s.Good cq) :
    (State.mapVctx s c g).Good cq := by
  unfold State.mapVctx
  repeat' (first
    | with_reducible assumption
    | with_reducible apply State.setVctx_good)

theorem State.setSlotState_good (s : State) (c k v : Nat) (h : s.Good cq) :
    (State.setSlotState s c k v).Good cq := by
  unfold State.setSlotState
  repeat' (first
    | with_reducible assumption
    | with_reducible apply State.put_good)

theorem State.setPin_good (s : State) (c k : Nat) (v : Bool) (h : s.Good cq) :
    (State.setPin s c k v).Good cq := by
  unfold State.setPin
  repeat' (first
    | with_reducible assumption
    | with_reducible apply State.put_good)

theorem State.mapSlot_good (s : State) (c k : Nat) (g : VrnSlot → VrnSlot) (h : s.Good cq) :
    (State.mapSlot s c k g).Good cq := by
  unfold State.mapSlot
  repeat' (first
    | with_reducible assumption
    | with_reducible apply State.mapVctx_good)

theorem State.showNewest_good (s : State) (c : Nat) (h : s.Good cq) :
    (State.showNewest s c).Good cq := by
  unfold State.showNewest
  repeat' (first
    | with_reducible assumption
    | with_reducible apply State.put_good)

theorem State.tearSlot_good (s : State) (c k : Nat) (h : s.Good cq) :
    (State.tearSlot s c k).Good cq := by
  unfold State.tearSlot
  repeat' (first
    | with_reducible assumption
    | with_reducible apply State.mapSlot_good)

theorem State.tearRegion_good (s : State) (c d k : Nat) (h : s.Good cq) :
    (State.tearRegion s c d k).Good cq := by
  unfold State.tearRegion
  repeat' (first
    | with_reducible assumption
    | with_reducible apply State.tearSlot_good
    | split)

end Sys2Proof.Machine
end

