-- ==== Sys2Proof/Laws/GoodMsi.lean ====
section
/-! SUPPORT. Every function of Machine/Msi.lean that answers a module keeps its maps canonical and its queue of commands. -/

namespace Sys2Proof.Machine

variable {cq : List Instr}

theorem State.post_good (s : State) (m : HostMsg) (h : s.Good cq) :
    (State.post s m).Good cq := by
  unfold State.post
  repeat' (first
    | with_reducible assumption
    | (refine State.good_lit ?_; dsimp only; exact State.Good.maps (by assumption)))

theorem State.pend_good (s : State) (func vec : Nat) (h : s.Good cq) :
    (State.pend s func vec).Good cq := by
  unfold State.pend
  repeat' (first
    | with_reducible assumption
    | (refine State.good_lit ?_; dsimp only; exact State.Good.maps (by assumption))
    | (with_reducible refine State.good_ite (fun _ => ?_) (fun _ => ?_)))

theorem State.msix_good (s : State) (func vec : Nat) (h : s.Good cq) :
    (State.msix s func vec).Good cq := by
  unfold State.msix
  repeat' (first
    | with_reducible assumption
    | with_reducible apply State.add_good
    | with_reducible apply State.pend_good
    | with_reducible apply State.post_good
    | (with_reducible refine State.good_ite (fun _ => ?_) (fun _ => ?_)))

theorem State.sendPending_good (s : State) (h : s.Good cq) :
    (State.sendPending s).Good cq := by
  unfold State.sendPending
  repeat' (first
    | with_reducible assumption
    | refine fun _ => ?_
    | with_reducible apply State.post_good
    | with_reducible apply State.good_foldl
    | (refine State.good_lit ?_; dsimp only; exact State.Good.maps (by assumption))
    | (with_reducible refine State.good_ite (fun _ => ?_) (fun _ => ?_)))

end Sys2Proof.Machine
end

