-- ==== Sys2Proof/Laws/GoodFlush.lean ====
section
/-! SUPPORT. Every function of Machine/Flush.lean that answers a module keeps its maps canonical and its queue of commands. -/

namespace Sys2Proof.Machine

variable {cq : List Instr}

theorem State.dieEvent_good (s : State) (d code n : Nat) (h : s.Good cq) :
    (State.dieEvent s d code n).Good cq := by
  unfold State.dieEvent
  repeat' (first
    | with_reducible assumption
    | (refine State.good_lit ?_; dsimp only; refine GoodMaps.setRegs (State.Good.maps (by assumption)) ?_; intro h0
       repeat' (first | exact h0 | with_reducible apply rput_wf | with_reducible apply rset_wf | with_reducible apply CSet.event_wf | with_reducible apply SMap.clear_wf)))

theorem State.tileEvent_good (s : State) (d c code n : Nat) (h : s.Good cq) :
    (State.tileEvent s d c code n).Good cq := by
  unfold State.tileEvent
  repeat' (first
    | with_reducible assumption
    | with_reducible apply State.dieEvent_good
    | (with_reducible refine State.good_ite (fun _ => ?_) (fun _ => ?_)))

theorem State.hist_good (s : State) (base sh l : Nat) (h : s.Good cq) :
    (State.hist s base sh l).Good cq := by
  unfold State.hist
  repeat' (first
    | with_reducible assumption
    | with_reducible apply State.put_good)

theorem State.rowCount_good (s : State) (d k : Nat) (h : s.Good cq) :
    (State.rowCount s d k).Good cq := by
  unfold State.rowCount
  repeat' (first
    | with_reducible assumption
    | with_reducible apply State.add_good
    | with_reducible apply State.count_good
    | with_reducible apply State.dieEvent_good
    | with_reducible apply TW.count_ok)

theorem State.rowMoved_good (s : State) (p id c : Nat) (viol : Bool) (h : s.Good cq) :
    (State.rowMoved s p id c viol).Good cq := by
  unfold State.rowMoved
  repeat' (first
    | with_reducible assumption
    | refine fun _ => ?_
    | (extract_lets +onlyGivenNames z; with_reducible apply State.good_cut (cq := cq) (s := z); rotate_left; clear_value z; intro hz; rotate_right; subst z)
    | extract_lets +onlyGivenNames z
    | (refine State.good_lit ?_; dsimp only; exact State.Good.maps (by assumption))
    | split)

theorem State.rowIn_good (s : State) (p id c : Nat) (viol : Bool) (h : s.Good cq) :
    (State.rowIn s p id c viol).Good cq := by
  unfold State.rowIn
  repeat' (first
    | with_reducible assumption
    | refine fun _ => ?_
    | with_reducible apply State.rowCount_good
    | with_reducible apply State.rowMoved_good
    | with_reducible refine State.good_snd (by assumption) ?_
    | with_reducible refine State.good_fst (by assumption) ?_
    | split)

theorem State.rowOut_good (s : State) (p id row req due v : Nat) (marks : List Bool) (viol : Bool) (h : s.Good cq) :
    (State.rowOut s p id row req due v marks viol).Good cq := by
  unfold State.rowOut
  repeat' (first
    | with_reducible assumption
    | refine fun _ => ?_
    | (extract_lets +onlyGivenNames z; with_reducible apply State.good_cut (cq := cq) (s := z); rotate_left; clear_value z; intro hz; rotate_right; subst z)
    | extract_lets +onlyGivenNames z
    | (refine State.good_lit ?_; dsimp only; exact State.Good.maps (by assumption))
    | with_reducible refine State.good_snd (by assumption) ?_
    | with_reducible refine State.good_trd (by assumption) ?_
    | with_reducible refine State.good_fst (by assumption) ?_
    | split)

theorem State.accept1_good (s : State) (w : HbmWrite) (h : s.Good cq) :
    (State.accept1 s w).Good cq := by
  unfold State.accept1
  repeat' (first
    | with_reducible assumption
    | with_reducible apply State.hbmWriteSegs_good
    | with_reducible apply State.tearRegion_good
    | with_reducible apply State.rowCount_good
    | with_reducible apply State.rowMoved_good
    | (extract_lets +onlyGivenNames z; with_reducible apply State.good_cut (cq := cq) (s := z); rotate_left; clear_value z; intro hz; rotate_right; subst z)
    | extract_lets +onlyGivenNames z
    | with_reducible refine State.good_snd (by assumption) ?_
    | with_reducible refine State.good_fst (by assumption) ?_
    | split)

theorem State.acceptDue_good (s : State) (d k c : Nat) (h : s.Good cq) :
    (State.acceptDue s d k c).Good cq := by
  unfold State.acceptDue
  repeat' (first
    | with_reducible assumption
    | refine fun _ => ?_
    | with_reducible apply State.accept1_good
    | with_reducible apply State.good_foldl
    | (extract_lets +onlyGivenNames z; with_reducible apply State.good_cut (cq := cq) (s := z); rotate_left; clear_value z; intro hz; rotate_right; subst z)
    | extract_lets +onlyGivenNames z
    | (refine State.good_lit ?_; dsimp only; exact State.Good.maps (by assumption)))

theorem State.endAudits_good (s : State) (p : Nat) (h : s.Good cq) :
    (State.endAudits s p).Good cq := by
  unfold State.endAudits
  repeat' (first
    | with_reducible assumption
    | with_reducible apply State.errc_good
    | (refine State.good_lit ?_; dsimp only; exact State.Good.maps (by assumption))
    | (with_reducible refine State.good_ite (fun _ => ?_) (fun _ => ?_)))

theorem State.suspect_good (s : State) (p code : Nat) (h : s.Good cq) :
    (State.suspect s p code).Good cq := by
  unfold State.suspect
  repeat' (first
    | with_reducible assumption
    | with_reducible apply State.endAudits_good
    | with_reducible apply State.errc_good
    | with_reducible apply State.put_good
    | (extract_lets +onlyGivenNames z; with_reducible apply State.good_cut (cq := cq) (s := z); rotate_left; clear_value z; intro hz; rotate_right; subst z)
    | extract_lets +onlyGivenNames z
    | (refine State.good_lit ?_; dsimp only; exact State.Good.maps (by assumption))
    | (with_reducible refine State.good_ite (fun _ => ?_) (fun _ => ?_)))

theorem State.sendEvent_good (s : State) (kind ctx : Nat) (h : s.Good cq) :
    (State.sendEvent s kind ctx).Good cq := by
  unfold State.sendEvent
  repeat' (first
    | with_reducible assumption
    | with_reducible apply State.inject_good
    | (with_reducible refine State.good_ite (fun _ => ?_) (fun _ => ?_)))

theorem State.ctxEvent_good (s : State) (kind ctx : Nat) (h : s.Good cq) :
    (State.ctxEvent s kind ctx).Good cq := by
  unfold State.ctxEvent
  repeat' (first
    | with_reducible assumption
    | with_reducible apply State.sendEvent_good
    | (with_reducible refine State.good_ite (fun _ => ?_) (fun _ => ?_)))

theorem State.tileFaulted_good (s : State) (d ctx gid code c : Nat) (h : s.Good cq) :
    (State.tileFaulted s d ctx gid code c).Good cq := by
  unfold State.tileFaulted
  repeat' (first
    | with_reducible assumption
    | with_reducible apply State.ctxEvent_good
    | with_reducible apply State.put_good
    | (extract_lets +onlyGivenNames z; with_reducible apply State.good_cut (cq := cq) (s := z); rotate_left; clear_value z; intro hz; rotate_right; subst z)
    | (refine State.good_lit ?_; dsimp only; exact State.Good.maps (by assumption))
    | (with_reducible refine State.good_ite (fun _ => ?_) (fun _ => ?_)))

theorem State.expect_good (s : State) (p dest row c : Nat) (h : s.Good cq) :
    (State.expect s p dest row c).Good cq := by
  unfold State.expect
  repeat' (first
    | with_reducible assumption
    | refine fun _ => ?_
    | with_reducible apply State.mapTile_good
    | with_reducible apply Tile.grant_ok
    | with_reducible apply State.tile_ok
    | (extract_lets +onlyGivenNames z; with_reducible apply State.good_cut (cq := cq) (s := z); rotate_left; clear_value z; intro hz; rotate_right; subst z)
    | extract_lets +onlyGivenNames z
    | (refine State.good_lit ?_; dsimp only; exact State.Good.maps (by assumption))
    | (refine Tile.ok_lit ?_; dsimp only; exact Tile.Ok.maps (by assumption))
    | split)

theorem State.effect_good (s : State) (p : Nat) (e : Env) (cyc : Nat) (r0 : Ev) (h : s.Good cq) :
    (State.effect s p e cyc r0).Good cq := by
  unfold State.effect
  repeat' (first
    | with_reducible assumption
    | refine fun _ => ?_
    | with_reducible apply State.errc_good
    | with_reducible apply State.mapTile_good
    | with_reducible apply State.fromDie_good
    | with_reducible apply State.inject_good
    | with_reducible apply State.penRecord_good
    | with_reducible apply State.smpRecord_good
    | with_reducible apply State.tileEvent_good
    | with_reducible apply State.rowIn_good
    | with_reducible apply State.rowOut_good
    | with_reducible apply State.suspect_good
    | with_reducible apply State.tileFaulted_good
    | with_reducible apply State.expect_good
    | with_reducible apply TW.perf_ok
    | with_reducible apply TW.hazard_ok
    | with_reducible apply TW.claim_ok
    | with_reducible apply State.tile_ok
    | (extract_lets +onlyGivenNames z; with_reducible apply State.good_cut (cq := cq) (s := z); rotate_left; clear_value z; intro hz; rotate_right; subst z)
    | extract_lets +onlyGivenNames z
    | (refine State.good_lit ?_; dsimp only; exact State.Good.maps (by assumption))
    | (refine Tile.ok_lit ?_; dsimp only; exact Tile.Ok.maps (by assumption))
    | split)

theorem State.effects_good (s : State) (p : Nat) (e : Env) (cyc : Nat) (r0 : List Ev) (h : s.Good cq) :
    (State.effects s p e cyc r0).Good cq := by
  induction r0 generalizing s p e cyc with
  | nil =>
    unfold State.effects
    repeat' (first
      | with_reducible assumption
      | with_reducible apply State.effect_good)
  | cons e r0 ih =>
    unfold State.effects
    repeat' (first
      | with_reducible assumption
      | with_reducible apply ih
      | with_reducible apply State.effect_good)

theorem State.onTileGo_good (s : State) (p : Nat) (f : TW → TW) (hf : ∀ z0, TW.Ok z0 → TW.Ok (f z0)) (h : s.Good cq) :
    (State.onTileGo s p f).1.Good cq := by
  unfold State.onTileGo
  repeat' (first
    | with_reducible assumption
    | with_reducible apply hf
    | with_reducible apply State.effects_good
    | with_reducible apply State.setTile_good
    | with_reducible apply State.tile_ok
    | (refine TW.ok_lit ?_; dsimp only)
    | with_reducible apply TW.Ok.tile)

theorem State.onTileLow_good (s : State) (p : Nat) (f : TW → TW) (hf : ∀ z0, TW.Ok z0 → TW.Ok (f z0)) (h : s.Good cq) :
    (State.onTileLow s p f).Good cq := by
  unfold State.onTileLow
  repeat' (first
    | with_reducible assumption
    | with_reducible apply State.onTileGo_good)

end Sys2Proof.Machine
end

