-- ==== Sys2Proof/Laws/GoodSync.lean ====
section
/-! SUPPORT. Every function of Machine/Sync.lean that answers a module keeps its maps canonical and its queue of commands. -/

namespace Sys2Proof.Machine

variable {cq : List Instr}

theorem State.setCnt_good (s : State) (d i : Nat) (x : CntSt) (h : s.Good cq) :
    (State.setCnt s d i x).Good cq := by
  unfold State.setCnt
  repeat' (first
    | with_reducible assumption
    | (refine State.good_lit ?_; dsimp only; exact State.Good.maps (by assumption)))

theorem State.synXlate_good (s : State) (d : Nat) (h : s.Good cq) :
    (State.synXlate s d).Good cq := by
  unfold State.synXlate
  repeat' (first
    | with_reducible assumption
    | with_reducible apply State.count_good)

theorem State.synOvf_good (s : State) (d : Nat) (h : s.Good cq) :
    (State.synOvf s d).Good cq := by
  unfold State.synOvf
  repeat' (first
    | with_reducible assumption
    | with_reducible apply State.count_good)

theorem State.synBound_good (s : State) (d : Nat) (h : s.Good cq) :
    (State.synBound s d).Good cq := by
  unfold State.synBound
  repeat' (first
    | with_reducible assumption
    | with_reducible apply State.count_good)

theorem State.synRebase_good (s : State) (d : Nat) (h : s.Good cq) :
    (State.synRebase s d).Good cq := by
  unfold State.synRebase
  repeat' (first
    | with_reducible assumption
    | with_reducible apply State.count_good)

theorem State.synEpoch_good (s : State) (d : Nat) (h : s.Good cq) :
    (State.synEpoch s d).Good cq := by
  unfold State.synEpoch
  repeat' (first
    | with_reducible assumption
    | with_reducible apply State.count_good)

theorem State.synPoison_good (s : State) (d : Nat) (h : s.Good cq) :
    (State.synPoison s d).Good cq := by
  unfold State.synPoison
  repeat' (first
    | with_reducible assumption
    | with_reducible apply State.count_good)

theorem State.synAbandon_good (s : State) (d n : Nat) (h : s.Good cq) :
    (State.synAbandon s d n).Good cq := by
  unfold State.synAbandon
  repeat' (first
    | with_reducible assumption
    | with_reducible apply State.count_good)

theorem State.bellRejected_good (s : State) (ctx : Nat) (h : s.Good cq) :
    (State.bellRejected s ctx).Good cq := by
  unfold State.bellRejected
  repeat' (first
    | with_reducible assumption
    | with_reducible apply State.count_good)

theorem State.syncDone_good (s : State) (r : SyncReq) (status c : Nat) (h : s.Good cq) :
    (State.syncDone s r status c).Good cq := by
  unfold State.syncDone
  repeat' (first
    | with_reducible assumption
    | refine fun _ => ?_
    | with_reducible apply State.onTileLow_good
    | (with_reducible refine State.good_ite (fun _ => ?_) (fun _ => ?_))
    | with_reducible apply TW.syncFinish_ok)

theorem State.endHostWait_good (s : State) (c w st : Nat) (mute : Bool) (h : s.Good cq) :
    (State.endHostWait s c w st mute).Good cq := by
  unfold State.endHostWait
  repeat' (first
    | with_reducible assumption
    | with_reducible apply State.msix_good
    | with_reducible apply State.put_good
    | (with_reducible refine State.good_ite (fun _ => ?_) (fun _ => ?_)))

theorem State.hostWaits_good (s : State) (c v value : Nat) (h : s.Good cq) :
    (State.hostWaits s c v value).Good cq := by
  unfold State.hostWaits
  repeat' (first
    | with_reducible assumption
    | refine fun _ => ?_
    | with_reducible apply State.endHostWait_good
    | with_reducible apply State.good_foldl)

theorem State.mbsHalt_good (s : State) (c : Nat) (h : s.Good cq) :
    (State.mbsHalt s c).Good cq := by
  unfold State.mbsHalt
  repeat' (first
    | with_reducible assumption
    | with_reducible apply State.count_good
    | with_reducible apply State.put_good
    | (with_reducible refine State.good_ite (fun _ => ?_) (fun _ => ?_)))

theorem State.abandon_good (s : State) (d i c : Nat) (h : s.Good cq) :
    (State.abandon s d i c).Good cq := by
  unfold State.abandon
  repeat' (first
    | with_reducible assumption
    | refine fun _ => ?_
    | with_reducible apply State.put_good
    | with_reducible apply State.setCnt_good
    | with_reducible apply State.synAbandon_good
    | with_reducible apply State.bellRejected_good
    | with_reducible apply State.syncDone_good
    | with_reducible apply State.endHostWait_good
    | with_reducible apply State.mbsHalt_good
    | with_reducible apply Tile.put_ok
    | with_reducible apply TW.put_ok
    | with_reducible apply State.good_foldl
    | with_reducible apply State.good_foldl_snd
    | with_reducible apply State.good_foldl_fst
    | (extract_lets +onlyGivenNames z; with_reducible apply State.good_cut (cq := cq) (s := z); rotate_left; clear_value z; intro hz; rotate_right; subst z)
    | extract_lets +onlyGivenNames z
    | (refine State.good_lit ?_; dsimp only; exact State.Good.maps (by assumption))
    | with_reducible refine State.good_snd (by assumption) ?_
    | with_reducible refine State.good_fst (by assumption) ?_
    | split)

theorem State.setFlow_good (s : State) (i : Nat) (x : FlowSt) (h : s.Good cq) :
    (State.setFlow s i x).Good cq := by
  unfold State.setFlow
  repeat' (first
    | with_reducible assumption
    | (refine State.good_lit ?_; dsimp only; exact State.Good.maps (by assumption)))

theorem State.mapFlow_good (s : State) (i : Nat) (g : FlowSt → FlowSt) (h : s.Good cq) :
    (State.mapFlow s i g).Good cq := by
  unfold State.mapFlow
  repeat' (first
    | with_reducible assumption
    | with_reducible apply State.setFlow_good)

theorem State.sendSync_good (s : State) (d i op payload : Nat) (sig : Option SyncReq) (h : s.Good cq) :
    (State.sendSync s d i op payload sig).Good cq := by
  unfold State.sendSync
  repeat' (first
    | with_reducible assumption
    | refine fun _ => ?_
    | with_reducible apply State.put_good
    | with_reducible apply State.fromDie_good
    | with_reducible apply State.inject_good
    | with_reducible apply State.mapFlow_good
    | with_reducible apply Tile.put_ok
    | with_reducible apply TW.put_ok
    | (extract_lets +onlyGivenNames z; with_reducible apply State.good_cut (cq := cq) (s := z); rotate_left; clear_value z; intro hz; rotate_right; subst z)
    | extract_lets +onlyGivenNames z
    | (refine State.good_lit ?_; dsimp only; exact State.Good.maps (by assumption))
    | with_reducible refine State.good_snd (by assumption) ?_
    | with_reducible refine State.good_trd (by assumption) ?_
    | with_reducible refine State.good_fst (by assumption) ?_
    | split)

theorem State.forward_good (s : State) (d i n c : Nat) (src : IncSrc) (h : s.Good cq) :
    (State.forward s d i n c src).Good cq := by
  unfold State.forward
  repeat' (first
    | with_reducible assumption
    | with_reducible apply State.syncDone_good
    | with_reducible apply State.sendSync_good
    | (extract_lets +onlyGivenNames z; with_reducible apply State.good_cut (cq := cq) (s := z); rotate_left; clear_value z; intro hz; rotate_right; subst z)
    | extract_lets +onlyGivenNames z
    | with_reducible refine State.good_snd (by assumption) ?_
    | with_reducible refine State.good_fst (by assumption) ?_
    | split
    | (clear_value *; split))

theorem State.wake_good (s : State) (d i c : Nat) (h : s.Good cq) :
    (State.wake s d i c).Good cq := by
  unfold State.wake
  repeat' (first
    | with_reducible assumption
    | refine fun _ => ?_
    | with_reducible apply State.hist_good
    | with_reducible apply State.setCnt_good
    | with_reducible apply State.syncDone_good
    | with_reducible apply State.hostWaits_good
    | with_reducible apply State.good_foldl
    | (extract_lets +onlyGivenNames z; with_reducible apply State.good_cut (cq := cq) (s := z); rotate_left; clear_value z; intro hz; rotate_right; subst z)
    | extract_lets +onlyGivenNames z
    | (refine State.good_lit ?_; dsimp only; exact State.Good.maps (by assumption)))

theorem State.overrunCheck_good (s : State) (d i : Nat) (remote : Bool) (h : s.Good cq) :
    (State.overrunCheck s d i remote).Good cq := by
  unfold State.overrunCheck
  repeat' (first
    | with_reducible assumption
    | with_reducible apply State.put_good
    | with_reducible apply State.synBound_good
    | extract_lets +onlyGivenNames z
    | split)

theorem State.applyInc_good (s : State) (d i n c : Nat) (src : IncSrc) (h : s.Good cq) :
    (State.applyInc s d i n c src).Good cq := by
  unfold State.applyInc
  repeat' (first
    | with_reducible assumption
    | with_reducible apply State.put_good
    | with_reducible apply State.dieEvent_good
    | with_reducible apply State.setCnt_good
    | with_reducible apply State.synOvf_good
    | with_reducible apply State.syncDone_good
    | with_reducible apply State.abandon_good
    | with_reducible apply State.forward_good
    | with_reducible apply State.wake_good
    | with_reducible apply State.overrunCheck_good
    | with_reducible apply Tile.put_ok
    | with_reducible apply TW.put_ok
    | (extract_lets +onlyGivenNames z; with_reducible apply State.good_cut (cq := cq) (s := z); rotate_left; clear_value z; intro hz; rotate_right; subst z)
    | extract_lets +onlyGivenNames z
    | with_reducible refine State.good_snd (by assumption) ?_
    | with_reducible refine State.good_fst (by assumption) ?_
    | split)

theorem State.releaseHeld_good (s : State) (d i c : Nat) (r0 : Nat) (h : s.Good cq) :
    (State.releaseHeld s d i c r0).Good cq := by
  induction r0 generalizing s d i c with
  | zero =>
    unfold State.releaseHeld
    repeat' (first
      | with_reducible assumption
      | with_reducible apply State.applyInc_good
      | with_reducible apply State.dieEvent_good
      | with_reducible apply State.setCnt_good
      | split)
  | succ r0 ih =>
    unfold State.releaseHeld
    repeat' (first
      | with_reducible assumption
      | with_reducible apply ih
      | with_reducible apply State.applyInc_good
      | with_reducible apply State.dieEvent_good
      | with_reducible apply State.setCnt_good
      | split)

theorem State.increment_good (s : State) (d i n c : Nat) (src : IncSrc) (h : s.Good cq) :
    (State.increment s d i n c src).Good cq := by
  unfold State.increment
  repeat' (first
    | with_reducible assumption
    | with_reducible apply State.setCnt_good
    | with_reducible apply State.synBound_good
    | with_reducible apply State.synPoison_good
    | with_reducible apply State.bellRejected_good
    | with_reducible apply State.syncDone_good
    | with_reducible apply State.applyInc_good
    | with_reducible apply State.releaseHeld_good
    | (extract_lets +onlyGivenNames z; with_reducible apply State.good_cut (cq := cq) (s := z); rotate_left; clear_value z; intro hz; rotate_right; subst z)
    | extract_lets +onlyGivenNames z
    | (refine State.good_lit ?_; dsimp only; exact State.Good.maps (by assumption))
    | with_reducible refine State.good_snd (by assumption) ?_
    | with_reducible refine State.good_trd (by assumption) ?_
    | with_reducible refine State.good_fst (by assumption) ?_
    | split)

theorem State.unitInc_good (s : State) (home ctx vcid n c : Nat) (h : s.Good cq) :
    (State.unitInc s home ctx vcid n c).Good cq := by
  unfold State.unitInc
  repeat' (first
    | with_reducible assumption
    | with_reducible apply State.synXlate_good
    | with_reducible apply State.increment_good
    | with_reducible refine State.good_snd (by assumption) ?_
    | with_reducible refine State.good_trd (by assumption) ?_
    | with_reducible refine State.good_fst (by assumption) ?_
    | split)

theorem State.onTile_good (s : State) (p : Nat) (f : TW → TW) (hf : ∀ z0, TW.Ok z0 → TW.Ok (f z0)) (h : s.Good cq) :
    (State.onTile s p f).Good cq := by
  unfold State.onTile
  repeat' (first
    | with_reducible assumption
    | refine fun _ => ?_
    | with_reducible apply State.onTileGo_good
    | with_reducible apply State.unitInc_good
    | with_reducible apply State.good_foldl
    | split)

theorem State.dropReq_good (s : State) (r : SyncReq) (h : s.Good cq) :
    (State.dropReq s r).Good cq := by
  unfold State.dropReq
  repeat' (first
    | with_reducible assumption
    | (refine State.good_lit ?_; dsimp only; exact State.Good.maps (by assumption)))

theorem State.retarget_good (s : State) (c : Nat) (h : s.Good cq) :
    (State.retarget s c).Good cq := by
  unfold State.retarget
  repeat' (first
    | with_reducible assumption
    | refine fun _ => ?_
    | (extract_lets +onlyGivenNames z; with_reducible apply State.good_cut (cq := cq) (s := z); rotate_left; clear_value z; intro hz; rotate_right; subst z)
    | extract_lets +onlyGivenNames z
    | (refine State.good_lit ?_; dsimp only; exact State.Good.maps (by assumption))
    | (with_reducible refine State.good_ite (fun _ => ?_) (fun _ => ?_)))

theorem State.arrive_good (s : State) (r : SyncReq) (k : State → Nat → Nat → Nat → State) (hk : ∀ z0 z1 z2 z3, (z0).Good cq → (k z0 z1 z2 z3).Good cq) (h : s.Good cq) :
    (State.arrive s r k).Good cq := by
  unfold State.arrive
  repeat' (first
    | with_reducible assumption
    | with_reducible apply hk
    | with_reducible apply State.synXlate_good
    | with_reducible apply State.syncDone_good
    | with_reducible apply State.tile_ok
    | (extract_lets +onlyGivenNames z; with_reducible apply State.good_cut (cq := cq) (s := z); rotate_left; clear_value z; intro hz; rotate_right; subst z)
    | extract_lets +onlyGivenNames z
    | with_reducible refine State.good_snd (by assumption) ?_
    | with_reducible refine State.good_trd (by assumption) ?_
    | with_reducible refine State.good_fst (by assumption) ?_
    | split)

theorem State.sigArrival_good (s : State) (p : Nat) (h : s.Good cq) :
    (State.sigArrival s p).Good cq := by
  unfold State.sigArrival
  repeat' (first
    | with_reducible assumption
    | refine fun _ => ?_
    | with_reducible apply State.arrive_good
    | with_reducible apply State.dropReq_good
    | with_reducible apply State.increment_good
    | split)

theorem State.waitArrival_good (s : State) (p : Nat) (h : s.Good cq) :
    (State.waitArrival s p).Good cq := by
  unfold State.waitArrival
  repeat' (first
    | with_reducible assumption
    | refine fun _ => ?_
    | with_reducible apply State.setCnt_good
    | with_reducible apply State.synAbandon_good
    | with_reducible apply State.syncDone_good
    | with_reducible apply State.wake_good
    | with_reducible apply State.dropReq_good
    | with_reducible apply State.arrive_good
    | (extract_lets +onlyGivenNames z; with_reducible apply State.good_cut (cq := cq) (s := z); rotate_left; clear_value z; intro hz; rotate_right; subst z)
    | extract_lets +onlyGivenNames z
    | (refine State.good_lit ?_; dsimp only; exact State.Good.maps (by assumption))
    | with_reducible refine State.good_snd (by assumption) ?_
    | with_reducible refine State.good_fst (by assumption) ?_
    | split)

theorem State.bind_good (s : State) (d i : Nat) (v : Word) (c : Nat) (h : s.Good cq) :
    (State.bind s d i v c).Good cq := by
  unfold State.bind
  repeat' (first
    | with_reducible assumption
    | with_reducible apply ih
    | with_reducible apply State.put_good
    | with_reducible apply State.setCnt_good
    | with_reducible apply State.retarget_good
    | with_reducible apply Tile.fresh_ok
    | with_reducible apply Tile.put_ok
    | with_reducible apply TW.put_ok
    | (extract_lets +onlyGivenNames z; with_reducible apply State.good_cut (cq := cq) (s := z); rotate_left; clear_value z; intro hz; rotate_right; subst z)
    | extract_lets +onlyGivenNames z
    | split)

theorem State.unbind_good (s : State) (d i c : Nat) (v : Word) (h : s.Good cq) :
    (State.unbind s d i c v).Good cq := by
  unfold State.unbind
  repeat' (first
    | with_reducible assumption
    | with_reducible apply State.put_good
    | with_reducible apply State.abandon_good
    | with_reducible apply State.retarget_good
    | with_reducible apply State.bind_good
    | with_reducible apply Tile.put_ok
    | with_reducible apply TW.put_ok
    | (extract_lets +onlyGivenNames z; with_reducible apply State.good_cut (cq := cq) (s := z); rotate_left; clear_value z; intro hz; rotate_right; subst z)
    | extract_lets +onlyGivenNames z
    | (with_reducible refine State.good_ite (fun _ => ?_) (fun _ => ?_)))

theorem State.storeError_good (s : State) (d i c : Nat) (h : s.Good cq) :
    (State.storeError s d i c).Good cq := by
  unfold State.storeError
  repeat' (first
    | with_reducible assumption
    | with_reducible apply State.abandon_good
    | with_reducible apply State.put_good
    | (with_reducible refine State.good_ite (fun _ => ?_) (fun _ => ?_)))

theorem State.subtract_good (s : State) (d i n : Nat) (h : s.Good cq) :
    (State.subtract s d i n).Good cq := by
  unfold State.subtract
  repeat' (first
    | with_reducible assumption
    | refine fun _ => ?_
    | with_reducible apply State.dieEvent_good
    | with_reducible apply State.endHostWait_good
    | with_reducible apply State.put_good
    | with_reducible apply State.setCnt_good
    | with_reducible apply State.good_foldl
    | (with_reducible refine State.good_ite (fun _ => ?_) (fun _ => ?_)))

theorem State.rebaseOne_good (s : State) (d i c : Nat) (h : s.Good cq) :
    (State.rebaseOne s d i c).Good cq := by
  unfold State.rebaseOne
  repeat' (first
    | with_reducible assumption
    | with_reducible apply State.abandon_good
    | with_reducible apply State.put_good
    | with_reducible apply State.subtract_good
    | with_reducible apply State.synRebase_good
    | extract_lets +onlyGivenNames z
    | split)

theorem State.sendRebases_good (s : State) (ready : Nat → Bool) (tick : Nat) (h : s.Good cq) :
    (State.sendRebases s ready tick).Good cq := by
  unfold State.sendRebases
  repeat' (first
    | with_reducible assumption
    | refine fun _ => ?_
    | with_reducible apply State.sendSync_good
    | with_reducible apply State.good_foldl
    | with_reducible apply State.good_foldl_snd
    | with_reducible apply State.good_foldl_fst
    | (extract_lets +onlyGivenNames z; with_reducible apply State.good_cut (cq := cq) (s := z); rotate_left; clear_value z; intro hz; rotate_right; subst z)
    | extract_lets +onlyGivenNames z
    | with_reducible refine State.good_snd (by assumption) ?_
    | with_reducible refine State.good_trd (by assumption) ?_
    | with_reducible refine State.good_fst (by assumption) ?_
    | split)

theorem State.rebase_good (s : State) (ready : Nat → Bool) (tick : Nat) (cyc : Nat → Nat) (h : s.Good cq) :
    (State.rebase s ready tick cyc).Good cq := by
  unfold State.rebase
  repeat' (first
    | with_reducible assumption
    | refine fun _ => ?_
    | with_reducible apply State.rebaseOne_good
    | with_reducible apply State.sendRebases_good
    | with_reducible apply State.good_foldl
    | (with_reducible refine State.good_ite (fun _ => ?_) (fun _ => ?_)))

theorem State.pop_good {s : State} {p : Flit → Bool} {x : Flit} {u : State} (e : s.pop p = some (x, u)) (h : s.Good cq) : u.Good cq := by
  unfold State.pop at e
  cases hf : takeFirst p s.fab.inbox with
  | none => rw [hf] at e; cases e
  | some q => rw [hf] at e; cases e; exact State.freeBuf_good _ _ _ _ (State.good_lit h.maps)

theorem State.refuse_good (s : State) (x : Flit) (tile addr cause : Nat) (h : s.Good cq) :
    (State.refuse s x tile addr cause).Good cq := by
  unfold State.refuse
  repeat' (first
    | with_reducible assumption
    | with_reducible apply State.inject_good)

theorem State.epochIn_good (s : State) (x : Flit) (h : s.Good cq) :
    (State.epochIn s x).Good cq := by
  unfold State.epochIn
  repeat' (first
    | with_reducible assumption
    | with_reducible apply State.count_good)

theorem State.resolve_good (s : State) (i at_ : Nat) (last : Bool) (h : s.Good cq) :
    (State.resolve s i at_ last).Good cq := by
  unfold State.resolve
  repeat' (first
    | with_reducible assumption
    | with_reducible apply State.inject_good
    | with_reducible apply State.put_good
    | with_reducible apply State.setFlow_good
    | (with_reducible refine State.good_ite (fun _ => ?_) (fun _ => ?_)))

theorem State.drainRelation_good (s : State) (i c : Nat) (h : s.Good cq) :
    (State.drainRelation s i c).Good cq := by
  unfold State.drainRelation
  repeat' (first
    | with_reducible assumption
    | with_reducible apply State.abandon_good
    | with_reducible apply State.mapFlow_good
    | with_reducible apply State.put_good
    | (extract_lets +onlyGivenNames z; with_reducible apply State.good_cut (cq := cq) (s := z); rotate_left; clear_value z; intro hz; rotate_right; subst z)
    | (extract_lets +onlyGivenNames z; have h0 : _ → _ → State := z; clear h0; subst z; try dsimp -zeta only)
    | extract_lets +onlyGivenNames z
    | split)

theorem State.syncFlit_good (s : State) (x : Flit) (at_ : Nat) (k : State → Nat → Nat → State) (hk : ∀ z0 z1 z2, (z0).Good cq → (k z0 z1 z2).Good cq) (h : s.Good cq) :
    (State.syncFlit s x at_ k).Good cq := by
  unfold State.syncFlit
  repeat' (first
    | with_reducible assumption
    | with_reducible apply hk
    | with_reducible apply State.toDie_good
    | with_reducible apply State.synEpoch_good
    | with_reducible apply State.synPoison_good
    | with_reducible apply State.refuse_good
    | with_reducible apply State.epochIn_good
    | with_reducible apply State.resolve_good
    | (extract_lets +onlyGivenNames z; with_reducible apply State.good_cut (cq := cq) (s := z); rotate_left; clear_value z; intro hz; rotate_right; subst z)
    | extract_lets +onlyGivenNames z
    | with_reducible refine State.good_snd (by assumption) ?_
    | with_reducible refine State.good_trd (by assumption) ?_
    | with_reducible refine State.good_fst (by assumption) ?_
    | split)

theorem State.syncAdd_good (s : State) (at_ c : Nat) (h : s.Good cq) :
    (State.syncAdd s at_ c).Good cq := by
  unfold State.syncAdd
  repeat' (first
    | with_reducible assumption
    | refine fun _ => ?_
    | with_reducible apply State.increment_good
    | with_reducible apply State.reach_good
    | with_reducible apply State.syncFlit_good
    | with_reducible refine State.pop_good (by assumption) ?_
    | split)

theorem State.rebaseFlit_good (s : State) (at_ c : Nat) (h : s.Good cq) :
    (State.rebaseFlit s at_ c).Good cq := by
  unfold State.rebaseFlit
  repeat' (first
    | with_reducible assumption
    | refine fun _ => ?_
    | with_reducible apply State.ctxEvent_good
    | with_reducible apply State.drainRelation_good
    | with_reducible apply State.put_good
    | with_reducible apply State.reach_good
    | with_reducible apply State.synRebase_good
    | with_reducible apply State.syncFlit_good
    | with_reducible refine State.pop_good (by assumption) ?_
    | split)

theorem State.hostArm_good (s : State) (func c w : Nat) (v : Word) (h : s.Good cq) :
    (State.hostArm s func c w v).Good cq := by
  unfold State.hostArm
  repeat' (first
    | with_reducible assumption
    | with_reducible apply State.endHostWait_good
    | with_reducible apply State.put_good
    | with_reducible apply State.synAbandon_good
    | (extract_lets +onlyGivenNames z; with_reducible apply State.good_cut (cq := cq) (s := z); rotate_left; clear_value z; intro hz; rotate_right; subst z)
    | extract_lets +onlyGivenNames z
    | (refine State.good_lit ?_; dsimp only; exact State.Good.maps (by assumption))
    | split)

theorem State.hostTarget_good (s : State) (c w : Nat) (v : Word) (h : s.Good cq) :
    (State.hostTarget s c w v).Good cq := by
  unfold State.hostTarget
  repeat' (first
    | with_reducible assumption
    | with_reducible apply State.endHostWait_good
    | with_reducible apply State.put_good
    | (extract_lets +onlyGivenNames z; with_reducible apply State.good_cut (cq := cq) (s := z); rotate_left; clear_value z; intro hz; rotate_right; subst z)
    | split)

theorem State.dbSig_good (s : State) (c : Nat) (wide : Bool) (v : Word) (h : s.Good cq) :
    (State.dbSig s c wide v).Good cq := by
  unfold State.dbSig
  repeat' (first
    | with_reducible assumption
    | with_reducible apply State.bellRejected_good
    | extract_lets +onlyGivenNames z
    | (refine State.good_lit ?_; dsimp only; exact State.Good.maps (by assumption))
    | split)

theorem State.bellArrival_good (s : State) (c cyc : Nat) (h : s.Good cq) :
    (State.bellArrival s c cyc).Good cq := by
  unfold State.bellArrival
  repeat' (first
    | with_reducible assumption
    | with_reducible apply State.bellRejected_good
    | with_reducible apply State.increment_good
    | (extract_lets +onlyGivenNames z; with_reducible apply State.good_cut (cq := cq) (s := z); rotate_left; clear_value z; intro hz; rotate_right; subst z)
    | extract_lets +onlyGivenNames z
    | (refine State.good_lit ?_; dsimp only; exact State.Good.maps (by assumption))
    | split)

theorem State.syncReset_good (s : State) (c cyc : Nat) (h : s.Good cq) :
    (State.syncReset s c cyc).Good cq := by
  unfold State.syncReset
  repeat' (first
    | with_reducible assumption
    | refine fun _ => ?_
    | with_reducible apply State.bellRejected_good
    | with_reducible apply State.endHostWait_good
    | with_reducible apply State.unbind_good
    | with_reducible apply State.good_foldl
    | with_reducible apply State.good_foldl_snd
    | with_reducible apply State.good_foldl_fst
    | (extract_lets +onlyGivenNames z; with_reducible apply State.good_cut (cq := cq) (s := z); rotate_left; clear_value z; intro hz; rotate_right; subst z)
    | extract_lets +onlyGivenNames z
    | (refine State.good_lit ?_; dsimp only; refine GoodMaps.setRegs (State.Good.maps (by assumption)) ?_; intro h0
       repeat' (first | exact h0 | with_reducible apply rput_wf | with_reducible apply rset_wf | with_reducible apply CSet.event_wf | with_reducible apply SMap.clear_wf)))

end Sys2Proof.Machine
end

