-- ==== Sys2Proof/Laws/GoodStream.lean ====
section
/-! SUPPORT. Every function of Machine/Stream.lean that answers a module keeps its maps canonical and its queue of commands. -/

namespace Sys2Proof.Machine

variable {cq : List Instr}

theorem State.transferStart_good (s : State) (p c : Nat) (h : s.Good cq) :
    (State.transferStart s p c).Good cq := by
  unfold State.transferStart
  repeat' (first
    | with_reducible assumption
    | refine fun _ => ?_
    | with_reducible apply State.count_good
    | with_reducible apply State.showTiles_good
    | with_reducible apply State.onTileLow_good
    | with_reducible apply TW.count_ok
    | with_reducible apply TW.finish_ok
    | with_reducible apply TW.forToken_ok
    | with_reducible apply State.tile_ok
    | with_reducible apply Tile.startStream_ok
    | with_reducible apply TW.markStream_ok
    | with_reducible apply TW.map_ok
    | with_reducible apply TW.Ok.tile
    | (extract_lets +onlyGivenNames z; with_reducible apply State.good_cut (cq := cq) (s := z); rotate_left; clear_value z; intro hz; rotate_right; subst z)
    | extract_lets +onlyGivenNames z
    | (refine State.good_lit ?_; dsimp only; exact State.Good.maps (by assumption))
    | (refine Tile.ok_lit ?_; dsimp only; exact Tile.Ok.maps (by assumption))
    | (refine TW.ok_lit ?_; dsimp only)
    | with_reducible refine State.good_snd (by assumption) ?_
    | with_reducible refine State.good_fst (by assumption) ?_
    | split)

theorem State.rowHist_good (s : State) (x : Xfer) (l : Nat) (h : s.Good cq) :
    (State.rowHist s x l).Good cq := by
  unfold State.rowHist
  repeat' (first
    | with_reducible assumption
    | with_reducible apply State.hist_good)

theorem State.askRow_good (s : State) (x : Xfer) (c i l : Nat) (h : s.Good cq) :
    (State.askRow s x c i l).Good cq := by
  unfold State.askRow
  repeat' (first
    | with_reducible assumption
    | refine fun _ => ?_
    | with_reducible apply State.hbmReadSegs_good
    | with_reducible apply State.onTileLow_good
    | with_reducible apply State.rowHist_good
    | with_reducible apply TW.ports_ok
    | with_reducible apply TW.load_ok
    | with_reducible apply TW.store_ok
    | with_reducible apply State.tile_ok
    | with_reducible apply TW.map_ok
    | (extract_lets +onlyGivenNames z; with_reducible apply State.good_cut (cq := cq) (s := z); rotate_left; clear_value z; intro hz; rotate_right; subst z)
    | extract_lets +onlyGivenNames z
    | (refine State.good_lit ?_; dsimp only; exact State.Good.maps (by assumption))
    | (refine Tile.ok_lit ?_; dsimp only; exact Tile.Ok.maps (by assumption))
    | (refine TW.ok_lit ?_; dsimp only)
    | with_reducible refine State.good_snd (by assumption) ?_
    | with_reducible refine State.good_trd (by assumption) ?_
    | with_reducible refine State.good_fst (by assumption) ?_
    | split)

theorem State.askRows_good (s : State) (x : Xfer) (c : Nat) (lat : List Nat) (r0 : Nat) (r1 : Nat) (h : s.Good cq) :
    (State.askRows s x c lat r0 r1).Good cq := by
  induction r0 generalizing s x c lat r1 with
  | zero =>
    unfold State.askRows
    repeat' (first
      | with_reducible assumption
      | with_reducible apply State.askRow_good
      | split)
  | succ r0 ih =>
    unfold State.askRows
    repeat' (first
      | with_reducible assumption
      | with_reducible apply ih
      | with_reducible apply State.askRow_good
      | split)

theorem State.takeTurn_good (s : State) (x : Xfer) (c : Nat) (lat : List Nat) (h : s.Good cq) :
    (State.takeTurn s x c lat).Good cq := by
  unfold State.takeTurn
  repeat' (first
    | with_reducible assumption
    | refine fun _ => ?_
    | with_reducible apply State.put_good
    | with_reducible apply State.askRows_good
    | with_reducible apply Tile.put_ok
    | with_reducible apply TW.put_ok
    | with_reducible apply State.tile_ok
    | (extract_lets +onlyGivenNames z; with_reducible apply State.good_cut (cq := cq) (s := z); rotate_left; clear_value z; intro hz; rotate_right; subst z)
    | extract_lets +onlyGivenNames z
    | (refine State.good_lit ?_; dsimp only; exact State.Good.maps (by assumption))
    | with_reducible refine State.good_snd (by assumption) ?_
    | with_reducible refine State.good_trd (by assumption) ?_
    | with_reducible refine State.good_fst (by assumption) ?_
    | split)

theorem State.engineTo_good (s : State) (d k c : Nat) (h : s.Good cq) :
    (State.engineTo s d k c).Good cq := by
  unfold State.engineTo
  repeat' (first
    | with_reducible assumption
    | refine fun _ => ?_
    | with_reducible apply State.acceptDue_good
    | with_reducible apply State.onTileLow_good
    | with_reducible apply TW.ports_ok
    | with_reducible apply State.tile_ok
    | with_reducible apply TW.map_ok
    | (refine TW.ok_lit ?_; dsimp only)
    | with_reducible apply State.good_foldl)

theorem State.xferEnd_good (s : State) (x : Xfer) (c : Nat) (h : s.Good cq) :
    (State.xferEnd s x c).Good cq := by
  unfold State.xferEnd
  repeat' (first
    | with_reducible assumption
    | refine fun _ => ?_
    | with_reducible apply State.showTiles_good
    | with_reducible apply State.hist_good
    | with_reducible apply State.onTileLow_good
    | with_reducible apply State.unitInc_good
    | with_reducible apply TW.finish_ok
    | with_reducible apply State.tile_ok
    | (extract_lets +onlyGivenNames z; with_reducible apply State.good_cut (cq := cq) (s := z); rotate_left; clear_value z; intro hz; rotate_right; subst z)
    | extract_lets +onlyGivenNames z
    | (refine State.good_lit ?_; dsimp only; exact State.Good.maps (by assumption))
    | (refine Tile.ok_lit ?_; dsimp only; exact Tile.Ok.maps (by assumption))
    | (refine TW.ok_lit ?_; dsimp only)
    | split)

theorem State.xferGone_good (s : State) (x : Xfer) (c : Nat) (h : s.Good cq) :
    (State.xferGone s x c).Good cq := by
  unfold State.xferGone
  repeat' (first
    | with_reducible assumption
    | refine fun _ => ?_
    | (extract_lets +onlyGivenNames z; with_reducible apply State.good_cut (cq := cq) (s := z); rotate_left; clear_value z; intro hz; rotate_right; subst z)
    | extract_lets +onlyGivenNames z
    | (refine State.good_lit ?_; dsimp only; exact State.Good.maps (by assumption))
    | (with_reducible refine State.good_ite (fun _ => ?_) (fun _ => ?_)))

theorem State.transferComplete_good (s : State) (p k c : Nat) (lat : List Nat) (h : s.Good cq) :
    (State.transferComplete s p k c lat).Good cq := by
  unfold State.transferComplete
  repeat' (first
    | with_reducible assumption
    | refine fun _ => ?_
    | with_reducible apply State.takeTurn_good
    | with_reducible apply State.engineTo_good
    | with_reducible apply State.xferEnd_good
    | with_reducible apply State.xferGone_good
    | with_reducible apply State.tile_ok
    | (extract_lets +onlyGivenNames z; with_reducible apply State.good_cut (cq := cq) (s := z); rotate_left; clear_value z; intro hz; rotate_right; subst z)
    | extract_lets +onlyGivenNames z
    | with_reducible refine State.good_snd (by assumption) ?_
    | with_reducible refine State.good_fst (by assumption) ?_
    | split
    | (unfold Option.elim; split)
    | (show State.Good (if _ then _ else _) _; split))

theorem State.seEnable_good (s : State) (d k v : Nat) (h : s.Good cq) :
    (State.seEnable s d k v).Good cq := by
  unfold State.seEnable
  repeat' (first
    | with_reducible assumption
    | with_reducible apply State.put_good
    | (extract_lets +onlyGivenNames z; with_reducible apply State.good_cut (cq := cq) (s := z); rotate_left; clear_value z; intro hz; rotate_right; subst z)
    | split)

theorem State.drainComplete_good (s : State) (d k : Nat) (h : s.Good cq) :
    (State.drainComplete s d k).Good cq := by
  unfold State.drainComplete
  repeat' (first
    | with_reducible assumption
    | with_reducible apply State.put_good
    | split)

theorem State.semapWrite_good (s : State) (d v : Nat) (fw : Bool) (h : s.Good cq) :
    (State.semapWrite s d v fw).Good cq := by
  unfold State.semapWrite
  repeat' (first
    | with_reducible assumption
    | with_reducible apply State.put_good
    | (with_reducible refine State.good_ite (fun _ => ?_) (fun _ => ?_)))

theorem State.regionAllocate_good (s : State) (d c k : Nat) (v : Word) (h : s.Good cq) :
    (State.regionAllocate s d c k v).Good cq := by
  unfold State.regionAllocate
  repeat' (first
    | with_reducible assumption
    | refine fun _ => ?_
    | with_reducible apply State.put_good
    | with_reducible apply State.setWord_good
    | with_reducible apply State.count_good
    | with_reducible apply Tile.put_ok
    | with_reducible apply TW.put_ok
    | with_reducible apply TW.count_ok
    | (extract_lets +onlyGivenNames z; with_reducible apply State.good_cut (cq := cq) (s := z); rotate_left; clear_value z; intro hz; rotate_right; subst z)
    | extract_lets +onlyGivenNames z
    | split)

theorem State.revoke_good (s : State) (d c k : Nat) (h : s.Good cq) :
    (State.revoke s d c k).Good cq := by
  unfold State.revoke
  repeat' (first
    | with_reducible assumption
    | refine fun _ => ?_
    | with_reducible apply State.mapTile_good
    | with_reducible apply TW.store_ok
    | with_reducible apply State.tile_ok
    | with_reducible apply TW.map_ok
    | with_reducible apply State.good_foldl
    | with_reducible apply State.good_foldl_snd
    | with_reducible apply State.good_foldl_fst
    | (extract_lets +onlyGivenNames z; with_reducible apply State.good_cut (cq := cq) (s := z); rotate_left; clear_value z; intro hz; rotate_right; subst z)
    | extract_lets +onlyGivenNames z
    | (refine State.good_lit ?_; dsimp only; exact State.Good.maps (by assumption))
    | (refine Tile.ok_lit ?_; dsimp only; exact Tile.Ok.maps (by assumption))
    | (with_reducible refine State.good_ite (fun _ => ?_) (fun _ => ?_)))

theorem State.regionRelease_good (s : State) (d c k : Nat) (h : s.Good cq) :
    (State.regionRelease s d c k).Good cq := by
  unfold State.regionRelease
  repeat' (first
    | with_reducible assumption
    | with_reducible apply State.put_good
    | with_reducible apply State.count_good
    | with_reducible apply State.markDirty_good
    | with_reducible apply State.revoke_good
    | with_reducible apply Tile.put_ok
    | with_reducible apply TW.put_ok
    | with_reducible apply TW.count_ok
    | (extract_lets +onlyGivenNames z; with_reducible apply State.good_cut (cq := cq) (s := z); rotate_left; clear_value z; intro hz; rotate_right; subst z)
    | extract_lets +onlyGivenNames z
    | (with_reducible refine State.good_ite (fun _ => ?_) (fun _ => ?_)))

theorem State.releaseAll_good (s : State) (c : Nat) (h : s.Good cq) :
    (State.releaseAll s c).Good cq := by
  unfold State.releaseAll
  repeat' (first
    | with_reducible assumption
    | refine fun _ => ?_
    | with_reducible apply State.regionRelease_good
    | with_reducible apply State.good_foldl)

theorem State.activateSlots_good (s : State) (d : Nat) (h : s.Good cq) :
    (State.activateSlots s d).Good cq := by
  unfold State.activateSlots
  repeat' (first
    | with_reducible assumption
    | refine fun _ => ?_
    | with_reducible apply State.put_good
    | with_reducible apply State.good_foldl
    | (with_reducible refine State.good_ite (fun _ => ?_) (fun _ => ?_)))

theorem State.granuleClean_good (s : State) (d p slots : Nat) (h : s.Good cq) :
    (State.granuleClean s d p slots).Good cq := by
  unfold State.granuleClean
  repeat' (first
    | with_reducible assumption
    | with_reducible apply State.activateSlots_good
    | with_reducible apply State.dieEvent_good
    | with_reducible apply State.hbmZero_good
    | with_reducible apply State.put_good
    | with_reducible apply State.setDirty_good
    | (with_reducible refine State.good_ite (fun _ => ?_) (fun _ => ?_)))

theorem State.apTear_good (s : State) (vf : Option Nat) (size a : Nat) (h : s.Good cq) :
    (State.apTear s vf size a).Good cq := by
  unfold State.apTear
  repeat' (first
    | with_reducible assumption
    | with_reducible apply State.tearRegion_good
    | split)

theorem State.apReject_good (s : State) (d : Nat) (h : s.Good cq) :
    (State.apReject s d).Good cq := by
  unfold State.apReject
  repeat' (first
    | with_reducible assumption
    | with_reducible apply State.errc_good
    | with_reducible apply State.put_good)

theorem State.answer_good (s : State) (v : Nat) (pois : Bool) (h : s.Good cq) :
    (State.answer s v pois).Good cq := by
  unfold State.answer
  repeat' (first
    | with_reducible assumption
    | (refine State.good_lit ?_; dsimp only; exact State.Good.maps (by assumption)))

theorem State.bar2_good (s : State) (vf : Option Nat) (size a n : Nat) (data : Option Nat) (h : s.Good cq) :
    (State.bar2 s vf size a n data).Good cq := by
  unfold State.bar2
  repeat' (first
    | with_reducible assumption
    | refine fun _ => ?_
    | with_reducible apply State.answer_good
    | with_reducible apply State.apReject_good
    | with_reducible apply State.apTear_good
    | with_reducible apply State.errc_good
    | with_reducible apply State.hbmReadSegs_good
    | with_reducible apply State.hbmWrite_good
    | (extract_lets +onlyGivenNames z; with_reducible apply State.good_cut (cq := cq) (s := z); rotate_left; clear_value z; intro hz; rotate_right; subst z)
    | extract_lets +onlyGivenNames z
    | with_reducible apply State.good_foldl
    | split)

end Sys2Proof.Machine
end

