-- ==== Sys2Proof/Laws/GoodFabric.lean ====
section
/-! SUPPORT. Every function of Machine/Fabric.lean that answers a module keeps its maps canonical and its queue of commands. -/

namespace Sys2Proof.Machine

variable {cq : List Instr}

theorem State.accept_good (s : State) (f p : Nat) (x : Flit) (h : s.Good cq) :
    (State.accept s f p x).Good cq := by
  unfold State.accept
  repeat' (first
    | with_reducible assumption
    | with_reducible apply State.count_good
    | with_reducible apply State.freeBuf_good
    | with_reducible apply State.dispatchFlit_good
    | with_reducible apply State.badRow_good
    | with_reducible apply TW.count_ok
    | (extract_lets +onlyGivenNames z; with_reducible apply State.good_cut (cq := cq) (s := z); rotate_left; clear_value z; intro hz; rotate_right; subst z)
    | extract_lets +onlyGivenNames z
    | with_reducible refine State.good_snd (by assumption) ?_
    | with_reducible refine State.good_fst (by assumption) ?_
    | split)

theorem State.takeGood_good (s : State) (f p : Nat) (x : Flit) (h : s.Good cq) :
    (State.takeGood s f p x).Good cq := by
  unfold State.takeGood
  repeat' (first
    | with_reducible assumption
    | refine fun _ => ?_
    | with_reducible apply State.mapPort_good
    | with_reducible apply State.countRx_good
    | with_reducible apply State.accept_good
    | (refine State.good_lit ?_; dsimp only; exact State.Good.maps (by assumption)))

theorem State.spineReceive_good (s : State) (f p num : Nat) (x : Flit) (h : s.Good cq) :
    (State.spineReceive s f p num x).Good cq := by
  unfold State.spineReceive
  repeat' (first
    | with_reducible assumption
    | refine fun _ => ?_
    | with_reducible apply State.errc_good
    | with_reducible apply State.count_good
    | with_reducible apply State.mapPort_good
    | with_reducible apply State.fabEvent_good
    | with_reducible apply State.takeGood_good
    | with_reducible apply TW.count_ok
    | (extract_lets +onlyGivenNames z; with_reducible apply State.good_cut (cq := cq) (s := z); rotate_left; clear_value z; intro hz; rotate_right; subst z)
    | extract_lets +onlyGivenNames z
    | with_reducible refine State.good_snd (by assumption) ?_
    | with_reducible refine State.good_fst (by assumption) ?_
    | split)

theorem State.flitReceive_good (s : State) (f p num cw : Nat) (x : Flit) (h : s.Good cq) :
    (State.flitReceive s f p num cw x).Good cq := by
  unfold State.flitReceive
  repeat' (first
    | with_reducible assumption
    | with_reducible apply State.count_good
    | with_reducible apply State.setPort_good
    | with_reducible apply State.takeGood_good
    | with_reducible apply State.spineReceive_good
    | with_reducible apply TW.count_ok
    | (extract_lets +onlyGivenNames z; with_reducible apply State.good_cut (cq := cq) (s := z); rotate_left; clear_value z; intro hz; rotate_right; subst z)
    | extract_lets +onlyGivenNames z
    | (refine State.good_lit ?_; dsimp only; exact State.Good.maps (by assumption))
    | with_reducible refine State.good_snd (by assumption) ?_
    | with_reducible refine State.good_fst (by assumption) ?_
    | split)

theorem State.lcfNormal_good (s : State) (f p : Nat) (x : Lcf) (h : s.Good cq) :
    (State.lcfNormal s f p x).Good cq := by
  unfold State.lcfNormal
  repeat' (first
    | with_reducible assumption
    | with_reducible apply State.mapPort_good
    | (with_reducible refine State.good_ite (fun _ => ?_) (fun _ => ?_)))

theorem State.linkdown_good (s : State) (f p : Nat) (h : s.Good cq) :
    (State.linkdown s f p).Good cq := by
  unfold State.linkdown
  repeat' (first
    | with_reducible assumption
    | with_reducible apply State.inject_good
    | (with_reducible refine State.good_ite (fun _ => ?_) (fun _ => ?_)))

theorem State.failPort_good (s : State) (f p : Nat) (h : s.Good cq) :
    (State.failPort s f p).Good cq := by
  unfold State.failPort
  repeat' (first
    | with_reducible assumption
    | with_reducible apply State.put_good
    | with_reducible apply Tile.put_ok
    | with_reducible apply TW.put_ok
    | split)

theorem State.leaveUp_good (s : State) (f p : Nat) (h : s.Good cq) :
    (State.leaveUp s f p).Good cq := by
  unfold State.leaveUp
  repeat' (first
    | with_reducible assumption
    | refine fun _ => ?_
    | with_reducible apply State.count_good
    | with_reducible apply State.setPort_good
    | with_reducible apply State.dispatchFlit_good
    | with_reducible apply State.linkdown_good
    | with_reducible apply State.failPort_good
    | with_reducible apply TW.count_ok
    | with_reducible apply State.good_foldl
    | with_reducible apply State.good_foldl_snd
    | with_reducible apply State.good_foldl_fst
    | (extract_lets +onlyGivenNames z; with_reducible apply State.good_cut (cq := cq) (s := z); rotate_left; clear_value z; intro hz; rotate_right; subst z)
    | extract_lets +onlyGivenNames z
    | (refine State.good_lit ?_; dsimp only; exact State.Good.maps (by assumption))
    | (with_reducible refine State.good_ite (fun _ => ?_) (fun _ => ?_)))

theorem State.portTo_good (s : State) (f p st at_ : Nat) (h : s.Good cq) :
    (State.portTo s f p st at_).Good cq := by
  unfold State.portTo
  repeat' (first
    | with_reducible assumption
    | with_reducible apply State.mapPort_good
    | with_reducible apply State.put_good)

theorem State.darken_good (s : State) (f p at_ : Nat) (h : s.Good cq) :
    (State.darken s f p at_).Good cq := by
  unfold State.darken
  repeat' (first
    | with_reducible assumption
    | with_reducible apply State.mapPort_good)

theorem State.retrain_good (s : State) (f p at_ dark : Nat) (h : s.Good cq) :
    (State.retrain s f p at_ dark).Good cq := by
  unfold State.retrain
  repeat' (first
    | with_reducible assumption
    | refine fun _ => ?_
    | with_reducible apply ih
    | with_reducible apply State.put_good
    | with_reducible apply State.mapPort_good
    | with_reducible apply State.leaveUp_good
    | with_reducible apply State.portTo_good
    | with_reducible apply Tile.put_ok
    | with_reducible apply TW.put_ok
    | (extract_lets +onlyGivenNames z; with_reducible apply State.good_cut (cq := cq) (s := z); rotate_left; clear_value z; intro hz; rotate_right; subst z)
    | extract_lets +onlyGivenNames z
    | (refine State.good_lit ?_; dsimp only; exact State.Good.maps (by assumption))
    | split)

theorem State.replayRequest_good (s : State) (f p at_ : Nat) (x : Lcf) (h : s.Good cq) :
    (State.replayRequest s f p at_ x).Good cq := by
  unfold State.replayRequest
  repeat' (first
    | with_reducible assumption
    | with_reducible apply State.count_good
    | with_reducible apply State.setPort_good
    | with_reducible apply State.fabEvent_good
    | with_reducible apply State.retrain_good
    | with_reducible apply TW.count_ok
    | (extract_lets +onlyGivenNames z; with_reducible apply State.good_cut (cq := cq) (s := z); rotate_left; clear_value z; intro hz; rotate_right; subst z)
    | extract_lets +onlyGivenNames z
    | split)

theorem State.sendOut_good (s : State) (f p : Nat) (z : Option Nat × Flit) (h : s.Good cq) :
    (State.sendOut s f p z).Good cq := by
  unfold State.sendOut
  repeat' (first
    | with_reducible assumption
    | refine fun _ => ?_
    | with_reducible apply State.mapPort_good
    | with_reducible apply State.freeBuf_good
    | with_reducible apply State.countTx_good
    | (extract_lets +onlyGivenNames z; with_reducible apply State.good_cut (cq := cq) (s := z); rotate_left; clear_value z; intro hz; rotate_right; subst z)
    | extract_lets +onlyGivenNames z
    | (refine State.good_lit ?_; dsimp only; exact State.Good.maps (by assumption))
    | split)

theorem State.vc3Waits_good (s : State) (f p : Nat) (m : PortMode) (h : s.Good cq) :
    (State.vc3Waits s f p m).Good cq := by
  unfold State.vc3Waits
  repeat' (first
    | with_reducible assumption
    | with_reducible apply State.count_good
    | with_reducible apply State.setPort_good
    | with_reducible apply TW.count_ok
    | (extract_lets +onlyGivenNames z; with_reducible apply State.good_cut (cq := cq) (s := z); rotate_left; clear_value z; intro hz; rotate_right; subst z)
    | extract_lets +onlyGivenNames z
    | (refine State.good_lit ?_; dsimp only; exact State.Good.maps (by assumption))
    | with_reducible refine State.good_snd (by assumption) ?_
    | with_reducible refine State.good_fst (by assumption) ?_
    | split)

theorem State.slotOf_good (s : State) (f p at_ : Nat) (h : s.Good cq) :
    (State.slotOf s f p at_).Good cq := by
  unfold State.slotOf
  repeat' (first
    | with_reducible assumption
    | with_reducible apply State.setPort_good
    | with_reducible apply State.fabEvent_good
    | with_reducible apply State.sendOut_good
    | with_reducible apply State.vc3Waits_good
    | (extract_lets +onlyGivenNames z; with_reducible apply State.good_cut (cq := cq) (s := z); rotate_left; clear_value z; intro hz; rotate_right; subst z)
    | extract_lets +onlyGivenNames z
    | (refine State.good_lit ?_; dsimp only; exact State.Good.maps (by assumption))
    | with_reducible refine State.good_snd (by assumption) ?_
    | with_reducible refine State.good_trd (by assumption) ?_
    | with_reducible refine State.good_fst (by assumption) ?_
    | split)

theorem State.startTraining_good (s : State) (f p at_ : Nat) (h : s.Good cq) :
    (State.startTraining s f p at_).Good cq := by
  unfold State.startTraining
  repeat' (first
    | with_reducible assumption
    | with_reducible apply State.mapPort_good
    | with_reducible apply State.portTo_good)

theorem State.portEnable_good (s : State) (f p at_ : Nat) (h : s.Good cq) :
    (State.portEnable s f p at_).Good cq := by
  unfold State.portEnable
  repeat' (first
    | with_reducible assumption
    | with_reducible apply State.mapPort_good
    | with_reducible apply State.portTo_good
    | with_reducible apply State.put_good
    | with_reducible apply State.startTraining_good
    | (with_reducible refine State.good_ite (fun _ => ?_) (fun _ => ?_)))

theorem State.portDisable_good (s : State) (f p at_ : Nat) (h : s.Good cq) :
    (State.portDisable s f p at_).Good cq := by
  unfold State.portDisable
  repeat' (first
    | with_reducible assumption
    | with_reducible apply State.put_good
    | with_reducible apply State.failPort_good
    | with_reducible apply State.portTo_good
    | with_reducible apply Tile.put_ok
    | with_reducible apply TW.put_ok
    | (extract_lets +onlyGivenNames z; with_reducible apply State.good_cut (cq := cq) (s := z); rotate_left; clear_value z; intro hz; rotate_right; subst z)
    | extract_lets +onlyGivenNames z
    | (with_reducible refine State.good_ite (fun _ => ?_) (fun _ => ?_)))

theorem State.trainStep_good (s : State) (f p from_ to_ at_ : Nat) (h : s.Good cq) :
    (State.trainStep s f p from_ to_ at_).Good cq := by
  unfold State.trainStep
  repeat' (first
    | with_reducible assumption
    | with_reducible apply State.portTo_good
    | (with_reducible refine State.good_ite (fun _ => ?_) (fun _ => ?_)))

theorem State.patternDetected_good (s : State) (f p at_ : Nat) (h : s.Good cq) :
    (State.patternDetected s f p at_).Good cq := by
  unfold State.patternDetected
  repeat' (first
    | with_reducible assumption
    | with_reducible apply State.portTo_good
    | with_reducible apply State.put_good
    | (with_reducible refine State.good_ite (fun _ => ?_) (fun _ => ?_)))

theorem State.lockFound_good (s : State) (f p at_ : Nat) (h : s.Good cq) :
    (State.lockFound s f p at_).Good cq := by
  unfold State.lockFound
  repeat' (first
    | with_reducible assumption
    | refine fun _ => ?_
    | with_reducible apply State.mapPort_good
    | with_reducible apply State.portTo_good
    | (refine State.good_lit ?_; dsimp only; exact State.Good.maps (by assumption))
    | (with_reducible refine State.good_ite (fun _ => ?_) (fun _ => ?_)))

theorem State.trainFail_good (s : State) (f p at_ : Nat) (h : s.Good cq) :
    (State.trainFail s f p at_).Good cq := by
  unfold State.trainFail
  repeat' (first
    | with_reducible assumption
    | with_reducible apply State.portTo_good
    | with_reducible apply State.put_good)

theorem State.ident_good (s : State) (f p at_ : Nat) (x : Lcf) (h : s.Good cq) :
    (State.ident s f p at_ x).Good cq := by
  unfold State.ident
  repeat' (first
    | with_reducible assumption
    | refine fun _ => ?_
    | with_reducible apply ih
    | with_reducible apply State.put_good
    | with_reducible apply State.fresh64_good
    | with_reducible apply State.mapPort_good
    | with_reducible apply State.portTo_good
    | with_reducible apply State.trainFail_good
    | with_reducible apply Tile.put_ok
    | with_reducible apply TW.put_ok
    | (extract_lets +onlyGivenNames z; with_reducible apply State.good_cut (cq := cq) (s := z); rotate_left; clear_value z; intro hz; rotate_right; subst z)
    | extract_lets +onlyGivenNames z
    | (refine State.good_lit ?_; dsimp only; exact State.Good.maps (by assumption))
    | with_reducible refine State.good_snd (by assumption) ?_
    | with_reducible refine State.good_fst (by assumption) ?_
    | split)

theorem State.creditInit_good (s : State) (f p at_ : Nat) (x : Lcf) (h : s.Good cq) :
    (State.creditInit s f p at_ x).Good cq := by
  unfold State.creditInit
  repeat' (first
    | with_reducible assumption
    | with_reducible apply State.mapPort_good
    | with_reducible apply State.portTo_good
    | (with_reducible refine State.good_ite (fun _ => ?_) (fun _ => ?_)))

theorem State.trainTimeout_good (s : State) (f p at_ : Nat) (h : s.Good cq) :
    (State.trainTimeout s f p at_).Good cq := by
  unfold State.trainTimeout
  repeat' (first
    | with_reducible assumption
    | with_reducible apply State.trainFail_good
    | extract_lets +onlyGivenNames z
    | (with_reducible refine State.good_ite (fun _ => ?_) (fun _ => ?_))
    | (clear_value *; split))

theorem State.retrainEnd_good (s : State) (f p at_ : Nat) (ok : Bool) (h : s.Good cq) :
    (State.retrainEnd s f p at_ ok).Good cq := by
  unfold State.retrainEnd
  repeat' (first
    | with_reducible assumption
    | refine fun _ => ?_
    | with_reducible apply State.put_good
    | with_reducible apply State.count_good
    | with_reducible apply State.mapPort_good
    | with_reducible apply State.portTo_good
    | with_reducible apply State.retrain_good
    | with_reducible apply Tile.put_ok
    | with_reducible apply TW.put_ok
    | with_reducible apply TW.count_ok
    | (refine State.good_lit ?_; dsimp only; exact State.Good.maps (by assumption))
    | (with_reducible refine State.good_ite (fun _ => ?_) (fun _ => ?_)))

theorem State.portLose_good (s : State) (f p : Nat) (h : s.Good cq) :
    (State.portLose s f p).Good cq := by
  unfold State.portLose
  repeat' (first
    | with_reducible assumption
    | refine fun _ => ?_
    | with_reducible apply State.count_good
    | with_reducible apply State.mapPort_good
    | with_reducible apply State.freeBuf_good
    | with_reducible apply TW.count_ok
    | with_reducible apply State.good_foldl
    | with_reducible apply State.good_foldl_snd
    | with_reducible apply State.good_foldl_fst
    | (extract_lets +onlyGivenNames z; with_reducible apply State.good_cut (cq := cq) (s := z); rotate_left; clear_value z; intro hz; rotate_right; subst z)
    | extract_lets +onlyGivenNames z
    | (refine State.good_lit ?_; dsimp only; exact State.Good.maps (by assumption)))

theorem State.portDrained_good (s : State) (f p at_ : Nat) (h : s.Good cq) :
    (State.portDrained s f p at_).Good cq := by
  unfold State.portDrained
  repeat' (first
    | with_reducible assumption
    | with_reducible apply State.put_good
    | with_reducible apply State.portTo_good
    | with_reducible apply State.darken_good
    | with_reducible apply State.portLose_good
    | with_reducible apply Tile.put_ok
    | with_reducible apply TW.put_ok
    | (extract_lets +onlyGivenNames z; with_reducible apply State.good_cut (cq := cq) (s := z); rotate_left; clear_value z; intro hz; rotate_right; subst z)
    | extract_lets +onlyGivenNames z
    | split)

theorem State.darkExpiry_good (s : State) (f p at_ : Nat) (h : s.Good cq) :
    (State.darkExpiry s f p at_).Good cq := by
  unfold State.darkExpiry
  repeat' (first
    | with_reducible assumption
    | with_reducible apply State.startTraining_good
    | (with_reducible refine State.good_ite (fun _ => ?_) (fun _ => ?_)))

theorem State.showLaser_good (s : State) (f : Nat) (h : s.Good cq) :
    (State.showLaser s f).Good cq := by
  unfold State.showLaser
  repeat' (first
    | with_reducible assumption
    | refine fun _ => ?_
    | with_reducible apply State.put_good
    | with_reducible apply Tile.put_ok
    | with_reducible apply TW.put_ok
    | with_reducible apply State.good_foldl)

theorem State.laserOff_good (s : State) (f p at_ : Nat) (h : s.Good cq) :
    (State.laserOff s f p at_).Good cq := by
  unfold State.laserOff
  repeat' (first
    | with_reducible assumption
    | with_reducible apply State.put_good
    | with_reducible apply State.leaveUp_good
    | with_reducible apply State.portTo_good
    | with_reducible apply State.darken_good
    | with_reducible apply State.portLose_good
    | with_reducible apply Tile.put_ok
    | with_reducible apply TW.put_ok
    | (extract_lets +onlyGivenNames z; with_reducible apply State.good_cut (cq := cq) (s := z); rotate_left; clear_value z; intro hz; rotate_right; subst z)
    | extract_lets +onlyGivenNames z
    | (with_reducible refine State.good_ite (fun _ => ?_) (fun _ => ?_)))

theorem State.laserDark_good (s : State) (f k pwr at_ : Nat) (h : s.Good cq) :
    (State.laserDark s f k pwr at_).Good cq := by
  unfold State.laserDark
  repeat' (first
    | with_reducible assumption
    | refine fun _ => ?_
    | with_reducible apply State.count_good
    | with_reducible apply State.laserOff_good
    | with_reducible apply State.put_good
    | with_reducible apply State.showLaser_good
    | with_reducible apply State.good_foldl
    | (with_reducible refine State.good_ite (fun _ => ?_) (fun _ => ?_)))

theorem State.laserLitUp_good (s : State) (f k pwr at_ : Nat) (h : s.Good cq) :
    (State.laserLitUp s f k pwr at_).Good cq := by
  unfold State.laserLitUp
  repeat' (first
    | with_reducible assumption
    | refine fun _ => ?_
    | with_reducible apply State.darkExpiry_good
    | with_reducible apply State.put_good
    | with_reducible apply State.showLaser_good
    | with_reducible apply State.good_foldl)

end Sys2Proof.Machine
end

