-- ==== Sys2Proof/Laws/GoodStage.lean ====
section
/-! SUPPORT. Every function of Machine/Stage.lean that answers a module keeps its maps canonical and its queue of commands. -/

namespace Sys2Proof.Machine

variable {cq : List Instr}

theorem State.ctrl_good (s : State) (m : Ctrl) (dst : Nat) (h : s.Good cq) :
    (State.ctrl s m dst).Good cq := by
  unfold State.ctrl
  repeat' (first
    | with_reducible assumption
    | with_reducible apply State.inject_good)

theorem State.ctrlAll_good (s : State) (m : Ctrl) (h : s.Good cq) :
    (State.ctrlAll s m).Good cq := by
  unfold State.ctrlAll
  repeat' (first
    | with_reducible assumption
    | with_reducible apply State.inject_good)

theorem State.toCoords_good (s : State) (m : Ctrl) (h : s.Good cq) :
    (State.toCoords s m).Good cq := by
  unfold State.toCoords
  repeat' (first
    | with_reducible assumption
    | refine fun _ => ?_
    | with_reducible apply State.ctrl_good
    | with_reducible apply State.good_foldl)

theorem State.popCtrl_good {s : State} {op : Nat} {x : Flit} {u : State} (e : s.popCtrl op = some (x, u)) (h : s.Good cq) : u.Good cq := State.pop_good e h

theorem State.stageRead_good (s : State) (d g o n : Nat) (r0 : Nat) (h : s.Good cq) :
    (State.stageRead s d g o n r0).2.2.Good cq := by
  induction r0 generalizing s d g o n with
  | zero =>
    unfold State.stageRead
    repeat' (first
      | with_reducible assumption
      | with_reducible apply State.hbmReadSegs_good
      | split)
  | succ r0 ih =>
    unfold State.stageRead
    repeat' (first
      | with_reducible assumption
      | with_reducible apply ih
      | with_reducible apply State.hbmReadSegs_good
      | split)

theorem State.stageWrite_good (s : State) (d g o n v : Nat) (pois : List Bool) (r0 : Nat) (h : s.Good cq) :
    (State.stageWrite s d g o n v pois r0).Good cq := by
  induction r0 generalizing s d g o n v pois with
  | zero =>
    unfold State.stageWrite
    repeat' (first
      | with_reducible assumption
      | with_reducible apply State.hbmWriteSegs_good
      | (with_reducible refine State.good_ite (fun _ => ?_) (fun _ => ?_)))
  | succ r0 ih =>
    unfold State.stageWrite
    repeat' (first
      | with_reducible assumption
      | with_reducible apply ih
      | with_reducible apply State.hbmWriteSegs_good
      | (with_reducible refine State.good_ite (fun _ => ?_) (fun _ => ?_)))

theorem State.snapFrom_good (s : State) (c k off n start d : Nat) (r0 : Nat) (h : s.Good cq) :
    (State.snapFrom s c k off n start d r0).2.2.Good cq := by
  induction r0 generalizing s c k off n start d with
  | zero =>
    unfold State.snapFrom
    repeat' (first
      | with_reducible assumption
      | with_reducible apply State.stageRead_good
      | (extract_lets +onlyGivenNames z; with_reducible apply State.good_cut (cq := cq) (s := z); rotate_left; clear_value z; intro hz; rotate_right; subst z)
      | extract_lets +onlyGivenNames z
      | with_reducible refine State.good_snd (by assumption) ?_
      | with_reducible refine State.good_trd (by assumption) ?_
      | with_reducible refine State.good_fst (by assumption) ?_
      | split)
  | succ r0 ih =>
    unfold State.snapFrom
    repeat' (first
      | with_reducible assumption
      | with_reducible apply ih
      | with_reducible apply State.stageRead_good
      | (extract_lets +onlyGivenNames z; with_reducible apply State.good_cut (cq := cq) (s := z); rotate_left; clear_value z; intro hz; rotate_right; subst z)
      | extract_lets +onlyGivenNames z
      | with_reducible refine State.good_snd (by assumption) ?_
      | with_reducible refine State.good_trd (by assumption) ?_
      | with_reducible refine State.good_fst (by assumption) ?_
      | split)

theorem State.snapRead_good (s : State) (c k off n : Nat) (h : s.Good cq) :
    (State.snapRead s c k off n).2.2.Good cq := by
  unfold State.snapRead
  repeat' (first
    | with_reducible assumption
    | with_reducible apply State.snapFrom_good)

theorem State.snapBytes_good (s : State) (x off n : Nat) (h : s.Good cq) :
    (State.snapBytes s x off n).2.2.Good cq := by
  unfold State.snapBytes
  repeat' (first
    | with_reducible assumption
    | with_reducible apply State.snapRead_good
    | with_reducible refine State.good_snd (by assumption) ?_
    | with_reducible refine State.good_trd (by assumption) ?_
    | with_reducible refine State.good_fst (by assumption) ?_
    | split)

theorem State.skbPut_good (s : State) (mirror : Bool) (c seq v : Nat) (h : s.Good cq) :
    (State.skbPut s mirror c seq v).Good cq := by
  unfold State.skbPut
  repeat' (first
    | with_reducible assumption
    | with_reducible apply State.hbmWrite_good
    | with_reducible apply State.put_good
    | (with_reducible refine State.good_ite (fun _ => ?_) (fun _ => ?_)))

theorem State.skbGet_good (s : State) (mirror : Bool) (c seq : Nat) (h : s.Good cq) :
    (State.skbGet s mirror c seq).2.Good cq := by
  unfold State.skbGet
  repeat' (first
    | with_reducible assumption
    | with_reducible apply State.count_good
    | with_reducible apply State.hbmReadSegs_good
    | split
    | with_reducible refine State.good_trd (by assumption) ?_)

theorem State.skbRoom_good (s : State) (c seq : Nat) (r0 : Nat) (h : s.Good cq) :
    (State.skbRoom s c seq r0).Good cq := by
  induction r0 generalizing s c seq with
  | zero =>
    unfold State.skbRoom
    repeat' (first
      | with_reducible assumption
      | with_reducible apply State.setSlotState_good
      | with_reducible apply State.showNewest_good
      | split)
  | succ r0 ih =>
    unfold State.skbRoom
    repeat' (first
      | with_reducible assumption
      | with_reducible apply ih
      | with_reducible apply State.setSlotState_good
      | with_reducible apply State.showNewest_good
      | split)

theorem State.skbLog_good (s : State) (c gen at_ : Nat) (r : Rec) (h : s.Good cq) :
    (State.skbLog s c gen at_ r).Good cq := by
  unfold State.skbLog
  repeat' (first
    | with_reducible assumption
    | with_reducible apply State.ctrl_good
    | with_reducible apply State.put_good
    | with_reducible apply State.skbPut_good
    | with_reducible apply State.skbRoom_good
    | (extract_lets +onlyGivenNames z; with_reducible apply State.good_cut (cq := cq) (s := z); rotate_left; clear_value z; intro hz; rotate_right; subst z)
    | extract_lets +onlyGivenNames z
    | (refine State.good_lit ?_; dsimp only; exact State.Good.maps (by assumption))
    | (with_reducible refine State.good_ite (fun _ => ?_) (fun _ => ?_)))

theorem State.vrnCredit_good (s : State) (i n : Nat) (h : s.Good cq) :
    (State.vrnCredit s i n).Good cq := by
  unfold State.vrnCredit
  repeat' (first
    | with_reducible assumption
    | with_reducible apply State.inject_good
    | with_reducible apply State.mapFlow_good)

theorem State.vrnPlace_good (s : State) (c : Nat) (x : Flit) (y : VrnIn) (d o n : Nat) (h : s.Good cq) :
    (State.vrnPlace s c x y d o n).Good cq := by
  unfold State.vrnPlace
  repeat' (first
    | with_reducible assumption
    | with_reducible apply State.stageRead_good
    | with_reducible apply State.stageWrite_good
    | (with_reducible refine State.good_ite (fun _ => ?_) (fun _ => ?_)))

theorem State.vrnGrow_good (s : State) (c : Nat) (y : VrnIn) (d len : Nat) (h : s.Good cq) :
    (State.vrnGrow s c y d len).Good cq := by
  unfold State.vrnGrow
  repeat' (first
    | with_reducible assumption
    | with_reducible apply State.mapSlot_good
    | (with_reducible refine State.good_ite (fun _ => ?_) (fun _ => ?_)))

theorem State.vrnWrite_good (s : State) (c : Nat) (x : Flit) (h : s.Good cq) :
    (State.vrnWrite s c x).Good cq := by
  unfold State.vrnWrite
  repeat' (first
    | with_reducible assumption
    | with_reducible apply State.vrnCredit_good
    | with_reducible apply State.vrnGrow_good
    | with_reducible apply State.vrnPlace_good
    | split)

end Sys2Proof.Machine
end

