-- ==== Sys2Proof/Laws/GoodFlow.lean ====
section
/-! SUPPORT. Every function of Machine/Flow.lean that answers a module keeps its maps canonical and its queue of commands. -/

namespace Sys2Proof.Machine

variable {cq : List Instr}

theorem State.edgeRead_good (s : State) (p c : Nat) (who : Who) (a n : Nat) (h : s.Good cq) :
    (State.edgeRead s p c who a n).2.Good cq := by
  unfold State.edgeRead
  repeat' (first
    | with_reducible assumption
    | with_reducible apply State.effects_good
    | with_reducible apply State.setTile_good
    | with_reducible apply State.tile_ok
    | with_reducible apply TW.edgeRows_ok
    | (refine TW.ok_lit ?_; dsimp only)
    | with_reducible apply TW.Ok.tile)

theorem State.schedAdd_good (s : State) (i : Nat) (xs : List Flit) (h : s.Good cq) :
    (State.schedAdd s i xs).Good cq := by
  unfold State.schedAdd
  repeat' (first
    | with_reducible assumption
    | (refine State.good_lit ?_; dsimp only; exact State.Good.maps (by assumption)))

theorem State.fopDone_good (s : State) (p : Nat) (o : QOp) (status : Nat) (start : Option Nat) (at_ c : Nat) (h : s.Good cq) :
    (State.fopDone s p o status start at_ c).Good cq := by
  unfold State.fopDone
  repeat' (first
    | with_reducible assumption
    | refine fun _ => ?_
    | with_reducible apply State.fabEvent_good
    | with_reducible apply State.hist_good
    | with_reducible apply State.onTileLow_good
    | with_reducible apply TW.finish_ok
    | split)

theorem State.endCopy_good (s : State) (c k : Nat) (h : s.Good cq) :
    (State.endCopy s c k).Good cq := by
  unfold State.endCopy
  repeat' (first
    | with_reducible assumption
    | with_reducible apply State.count_good
    | with_reducible apply State.ctrl_good
    | with_reducible apply State.mapVctx_good
    | split)

theorem State.channelEnd_good (s : State) (x st cause : Nat) (h : s.Good cq) :
    (State.channelEnd s x st cause).Good cq := by
  unfold State.channelEnd
  repeat' (first
    | with_reducible assumption
    | with_reducible apply State.put_good
    | with_reducible apply State.setPin_good
    | split)

theorem State.unitDone_good (s : State) (u : FlowUnit) (status : Nat) (h : s.Good cq) :
    (State.unitDone s u status).Good cq := by
  unfold State.unitDone
  repeat' (first
    | with_reducible assumption
    | with_reducible apply State.channelEnd_good
    | with_reducible apply State.endCopy_good
    | with_reducible apply State.mapVctx_good
    | split)

theorem State.fopReject_good (s : State) (p : Nat) (o : QOp) (at_ c : Nat) (h : s.Good cq) :
    (State.fopReject s p o at_ c).Good cq := by
  unfold State.fopReject
  repeat' (first
    | with_reducible assumption
    | with_reducible apply State.count_good
    | with_reducible apply State.fopDone_good)

theorem State.takeBuffer_good (s : State) (i : Nat) (cont : Bool) (h : s.Good cq) :
    (State.takeBuffer s i cont).2.Good cq := by
  unfold State.takeBuffer
  repeat' (first
    | with_reducible assumption
    | with_reducible apply State.put_good
    | split)

theorem State.fillBuffer_good (s : State) (i segs : Nat) (h : s.Good cq) :
    (State.fillBuffer s i segs).Good cq := by
  unfold State.fillBuffer
  repeat' (first
    | with_reducible assumption
    | with_reducible apply State.put_good
    | (with_reducible refine State.good_ite (fun _ => ?_) (fun _ => ?_)))

theorem State.sendOp_good (s : State) (i : Nat) (who : FlowOwner) (tile addr n v : Nat) (pois : List Bool) (viol : Bool) (at_ : Nat) (h : s.Good cq) :
    (State.sendOp s i who tile addr n v pois viol at_).Good cq := by
  unfold State.sendOp
  repeat' (first
    | with_reducible assumption
    | with_reducible apply State.mapFlow_good
    | with_reducible apply State.schedAdd_good)

theorem State.readSource_good (s : State) (p : Nat) (o : QOp) (at_ tile addr c : Nat) (h : s.Good cq) :
    (State.readSource s p o at_ tile addr c).Good cq := by
  unfold State.readSource
  repeat' (first
    | with_reducible assumption
    | with_reducible apply State.edgeRead_good
    | with_reducible apply State.sendOp_good
    | with_reducible apply State.tile_ok
    | with_reducible refine State.good_snd (by assumption) ?_
    | with_reducible refine State.good_fst (by assumption) ?_
    | split)

theorem State.hold_good (s : State) (p c : Nat) (j : EdgeJob) (h : s.Good cq) :
    (State.hold s p c j).Good cq := by
  unfold State.hold
  repeat' (first
    | with_reducible assumption
    | (extract_lets +onlyGivenNames z; with_reducible apply State.good_cut (cq := cq) (s := z); rotate_left; clear_value z; intro hz; rotate_right; subst z)
    | extract_lets +onlyGivenNames z
    | (refine State.good_lit ?_; dsimp only; exact State.Good.maps (by assumption)))

theorem State.launch_good (s : State) (p : Nat) (o : QOp) (at_ c : Nat) (h : s.Good cq) :
    (State.launch s p o at_ c).Good cq := by
  unfold State.launch
  repeat' (first
    | with_reducible assumption
    | with_reducible apply State.takeBuffer_good
    | with_reducible apply State.fillBuffer_good
    | with_reducible apply State.readSource_good
    | with_reducible apply State.hold_good
    | with_reducible apply State.tile_ok
    | (extract_lets +onlyGivenNames z; with_reducible apply State.good_cut (cq := cq) (s := z); rotate_left; clear_value z; intro hz; rotate_right; subst z)
    | extract_lets +onlyGivenNames z
    | with_reducible refine State.good_snd (by assumption) ?_
    | with_reducible refine State.good_fst (by assumption) ?_
    | split)

theorem State.channelChunk_good (s : State) (x n : Nat) (h : s.Good cq) :
    (State.channelChunk s x n).2.2.2.Good cq := by
  unfold State.channelChunk
  repeat' (first
    | with_reducible assumption
    | with_reducible apply State.snapBytes_good
    | (extract_lets +onlyGivenNames z; with_reducible apply State.good_cut (cq := cq) (s := z); rotate_left; clear_value z; intro hz; rotate_right; subst z)
    | extract_lets +onlyGivenNames z
    | with_reducible refine State.good_snd (by assumption) ?_
    | with_reducible refine State.good_trd (by assumption) ?_
    | with_reducible refine State.good_fst (by assumption) ?_
    | split)

theorem State.serveWaiting_good (s : State) (i at_ c : Nat) (r0 : Nat) (h : s.Good cq) :
    (State.serveWaiting s i at_ c r0).Good cq := by
  induction r0 generalizing s i at_ c with
  | zero =>
    unfold State.serveWaiting
    repeat' (first
      | with_reducible assumption
      | refine fun _ => ?_
      | with_reducible apply State.put_good
      | with_reducible apply State.mapFlow_good
      | with_reducible apply State.takeBuffer_good
      | with_reducible apply State.fillBuffer_good
      | with_reducible apply State.sendOp_good
      | with_reducible apply State.launch_good
      | with_reducible apply State.channelChunk_good
      | with_reducible apply Tile.put_ok
      | with_reducible apply TW.put_ok
      | with_reducible apply State.tile_ok
      | (extract_lets +onlyGivenNames z; with_reducible apply State.good_cut (cq := cq) (s := z); rotate_left; clear_value z; intro hz; rotate_right; subst z)
      | extract_lets +onlyGivenNames z
      | (refine State.good_lit ?_; dsimp only; exact State.Good.maps (by assumption))
      | with_reducible refine State.good_snd (by assumption) ?_
      | with_reducible refine State.good_trd (by assumption) ?_
      | with_reducible refine State.good_fst (by assumption) ?_
      | split)
  | succ r0 ih =>
    unfold State.serveWaiting
    repeat' (first
      | with_reducible assumption
      | refine fun _ => ?_
      | with_reducible apply ih
      | with_reducible apply State.put_good
      | with_reducible apply State.mapFlow_good
      | with_reducible apply State.takeBuffer_good
      | with_reducible apply State.fillBuffer_good
      | with_reducible apply State.sendOp_good
      | with_reducible apply State.launch_good
      | with_reducible apply State.channelChunk_good
      | with_reducible apply Tile.put_ok
      | with_reducible apply TW.put_ok
      | with_reducible apply State.tile_ok
      | (extract_lets +onlyGivenNames z; with_reducible apply State.good_cut (cq := cq) (s := z); rotate_left; clear_value z; intro hz; rotate_right; subst z)
      | extract_lets +onlyGivenNames z
      | (refine State.good_lit ?_; dsimp only; exact State.Good.maps (by assumption))
      | with_reducible refine State.good_snd (by assumption) ?_
      | with_reducible refine State.good_trd (by assumption) ?_
      | with_reducible refine State.good_fst (by assumption) ?_
      | split)

theorem State.streamOp_good (s : State) (p : Nat) (o : QOp) (at_ c : Nat) (h : s.Good cq) :
    (State.streamOp s p o at_ c).Good cq := by
  unfold State.streamOp
  repeat' (first
    | with_reducible assumption
    | refine fun _ => ?_
    | with_reducible apply State.fopReject_good
    | with_reducible apply State.mapFlow_good
    | with_reducible apply State.mapTile_good
    | with_reducible apply State.serveWaiting_good
    | (with_reducible refine State.good_ite (fun _ => ?_) (fun _ => ?_))
    | (refine Tile.ok_lit ?_; dsimp only; exact Tile.Ok.maps (by assumption)))

theorem State.creditFlitIn_good (s : State) (x : Flit) (at_ c : Nat) (h : s.Good cq) :
    (State.creditFlitIn s x at_ c).Good cq := by
  unfold State.creditFlitIn
  repeat' (first
    | with_reducible assumption
    | with_reducible apply State.count_good
    | with_reducible apply State.epochIn_good
    | with_reducible apply State.mapFlow_good
    | with_reducible apply State.put_good
    | with_reducible apply State.refuse_good
    | with_reducible apply State.serveWaiting_good
    | (with_reducible refine State.good_ite (fun _ => ?_) (fun _ => ?_)))

theorem State.credit_good (s : State) (at_ c : Nat) (h : s.Good cq) :
    (State.credit s at_ c).Good cq := by
  unfold State.credit
  repeat' (first
    | with_reducible assumption
    | with_reducible apply State.creditFlitIn_good
    | with_reducible apply State.reach_good
    | with_reducible refine State.pop_good (by assumption) ?_
    | split)

theorem State.fromFlow_good (s : State) (i vc : Nat) (h : s.Good cq) :
    (State.fromFlow s i vc).Good cq := by
  unfold State.fromFlow
  repeat' (first
    | with_reducible assumption
    | with_reducible apply State.fromDie_good
    | with_reducible apply State.tile_ok
    | (extract_lets +onlyGivenNames z; with_reducible apply State.good_cut (cq := cq) (s := z); rotate_left; clear_value z; intro hz; rotate_right; subst z)
    | extract_lets +onlyGivenNames z
    | with_reducible refine State.good_snd (by assumption) ?_
    | with_reducible refine State.good_fst (by assumption) ?_
    | split)

theorem State.schedule_good (s : State) (f vc at_ : Nat) (h : s.Good cq) :
    (State.schedule s f vc at_).Good cq := by
  unfold State.schedule
  repeat' (first
    | with_reducible assumption
    | refine fun _ => ?_
    | with_reducible apply State.put_good
    | with_reducible apply State.inject_good
    | with_reducible apply State.mapFlow_good
    | with_reducible apply State.fromFlow_good
    | with_reducible apply Tile.put_ok
    | with_reducible apply TW.put_ok
    | (extract_lets +onlyGivenNames z; with_reducible apply State.good_cut (cq := cq) (s := z); rotate_left; clear_value z; intro hz; rotate_right; subst z)
    | extract_lets +onlyGivenNames z
    | (refine State.good_lit ?_; dsimp only; exact State.Good.maps (by assumption))
    | with_reducible refine State.good_snd (by assumption) ?_
    | with_reducible refine State.good_trd (by assumption) ?_
    | with_reducible refine State.good_fst (by assumption) ?_
    | split)

theorem State.outputSlot_good (s : State) (f p at_ : Nat) (h : s.Good cq) :
    (State.outputSlot s f p at_).Good cq := by
  unfold State.outputSlot
  repeat' (first
    | with_reducible assumption
    | with_reducible apply State.reach_good
    | with_reducible apply State.schedule_good
    | with_reducible apply State.slotOf_good)

theorem State.resolveAt_good (s : State) (x : Flit) (at_ : Nat) (h : s.Good cq) :
    (State.resolveAt s x at_).Good cq := by
  unfold State.resolveAt
  repeat' (first
    | with_reducible assumption
    | with_reducible apply State.resolve_good
    | (with_reducible refine State.good_ite (fun _ => ?_) (fun _ => ?_)))

theorem State.writeRefuse_good (s : State) (x : Flit) (cause at_ : Nat) (h : s.Good cq) :
    (State.writeRefuse s x cause at_).Good cq := by
  unfold State.writeRefuse
  repeat' (first
    | with_reducible assumption
    | with_reducible apply State.refuse_good
    | with_reducible apply State.resolveAt_good)

theorem State.writeTile_good (s : State) (p : Nat) (x : Flit) (at_ c : Nat) (h : s.Good cq) :
    (State.writeTile s p x at_ c).Good cq := by
  unfold State.writeTile
  repeat' (first
    | with_reducible assumption
    | refine fun _ => ?_
    | with_reducible apply State.toDie_good
    | with_reducible apply State.onTile_good
    | with_reducible apply State.epochIn_good
    | with_reducible apply State.resolveAt_good
    | with_reducible apply State.writeRefuse_good
    | with_reducible apply TW.violation_ok
    | with_reducible apply TW.rxWrite_ok
    | with_reducible apply State.tile_ok
    | with_reducible apply TW.map_ok
    | (extract_lets +onlyGivenNames z; with_reducible apply State.good_cut (cq := cq) (s := z); rotate_left; clear_value z; intro hz; rotate_right; subst z)
    | extract_lets +onlyGivenNames z
    | (refine TW.ok_lit ?_; dsimp only)
    | with_reducible refine State.good_snd (by assumption) ?_
    | with_reducible refine State.good_trd (by assumption) ?_
    | with_reducible refine State.good_fst (by assumption) ?_
    | split
    | (clear_value *; split))

theorem State.writeFlit_good (s : State) (x : Flit) (at_ c : Nat) (h : s.Good cq) :
    (State.writeFlit s x at_ c).Good cq := by
  unfold State.writeFlit
  repeat' (first
    | with_reducible assumption
    | with_reducible apply State.epochIn_good
    | with_reducible apply State.vrnWrite_good
    | with_reducible apply State.hold_good
    | with_reducible apply State.resolveAt_good
    | with_reducible apply State.writeRefuse_good
    | with_reducible apply State.writeTile_good
    | with_reducible apply State.tile_ok
    | (extract_lets +onlyGivenNames z; with_reducible apply State.good_cut (cq := cq) (s := z); rotate_left; clear_value z; intro hz; rotate_right; subst z)
    | extract_lets +onlyGivenNames z
    | with_reducible refine State.good_snd (by assumption) ?_
    | with_reducible refine State.good_fst (by assumption) ?_
    | split)

theorem State.write_good (s : State) (at_ c : Nat) (h : s.Good cq) :
    (State.write s at_ c).Good cq := by
  unfold State.write
  repeat' (first
    | with_reducible assumption
    | refine fun _ => ?_
    | with_reducible apply State.reach_good
    | with_reducible refine State.pop_good (by assumption) ?_
    | with_reducible apply State.writeFlit_good
    | with_reducible refine State.good_snd (by assumption) ?_
    | with_reducible refine State.good_fst (by assumption) ?_
    | split)

theorem State.edgeDrain_good (s : State) (p at_ : Nat) (h : s.Good cq) :
    (State.edgeDrain s p at_).Good cq := by
  unfold State.edgeDrain
  repeat' (first
    | with_reducible assumption
    | refine fun _ => ?_
    | with_reducible apply State.readSource_good
    | with_reducible apply State.writeTile_good
    | with_reducible apply State.write_good
    | with_reducible apply State.tile_ok
    | with_reducible apply State.good_foldl
    | (extract_lets +onlyGivenNames z; with_reducible apply State.good_cut (cq := cq) (s := z); rotate_left; clear_value z; intro hz; rotate_right; subst z)
    | extract_lets +onlyGivenNames z
    | (refine State.good_lit ?_; dsimp only; exact State.Good.maps (by assumption))
    | with_reducible refine State.good_snd (by assumption) ?_
    | with_reducible refine State.good_fst (by assumption) ?_
    | split)

theorem State.opDone_good (s : State) (o : FlowOp) (status at_ c : Nat) (h : s.Good cq) :
    (State.opDone s o status at_ c).Good cq := by
  unfold State.opDone
  repeat' (first
    | with_reducible assumption
    | with_reducible apply State.fopDone_good
    | with_reducible apply State.unitDone_good
    | split)

theorem State.settleFlow_good (s : State) (i at_ c : Nat) (h : s.Good cq) :
    (State.settleFlow s i at_ c).Good cq := by
  unfold State.settleFlow
  repeat' (first
    | with_reducible assumption
    | refine fun _ => ?_
    | with_reducible apply State.opDone_good
    | with_reducible apply State.setFlow_good
    | with_reducible apply State.syncDone_good
    | with_reducible apply State.good_foldl)

theorem State.backEpoch_good {s u : State} {x : Flit} (e : s.backEpoch x = some u) (h : s.Good cq) : u.Good cq := by
  unfold State.backEpoch at e
  split at e
  · cases e; exact State.epochIn_good s x h
  · cases e

theorem State.ack_good (s : State) (at_ c : Nat) (h : s.Good cq) :
    (State.ack s at_ c).Good cq := by
  unfold State.ack
  repeat' (first
    | with_reducible assumption
    | with_reducible apply State.put_good
    | with_reducible apply State.reach_good
    | with_reducible apply State.settleFlow_good
    | (extract_lets +onlyGivenNames z; with_reducible apply State.good_cut (cq := cq) (s := z); rotate_left; clear_value z; intro hz; rotate_right; subst z)
    | extract_lets +onlyGivenNames z
    | with_reducible refine State.pop_good (by assumption) ?_
    | with_reducible refine State.backEpoch_good (by assumption) ?_
    | split)

theorem State.nackCount_good (s : State) (f cause : Nat) (h : s.Good cq) :
    (State.nackCount s f cause).Good cq := by
  unfold State.nackCount
  repeat' (first
    | with_reducible assumption
    | with_reducible apply State.count_good
    | split)

theorem State.nackMark_good (s : State) (x : Flit) (h : s.Good cq) :
    (State.nackMark s x).Good cq := by
  unfold State.nackMark
  repeat' (first
    | with_reducible assumption
    | with_reducible apply State.mapFlow_good
    | (with_reducible refine State.good_ite (fun _ => ?_) (fun _ => ?_)))

theorem State.nackIn_good (s : State) (x : Flit) (h : s.Good cq) :
    (State.nackIn s x).Good cq := by
  unfold State.nackIn
  repeat' (first
    | with_reducible assumption
    | with_reducible apply State.nackCount_good
    | with_reducible apply State.nackMark_good)

theorem State.nack_good (s : State) (at_ : Nat) (h : s.Good cq) :
    (State.nack s at_).Good cq := by
  unfold State.nack
  repeat' (first
    | with_reducible assumption
    | with_reducible apply State.nackIn_good
    | with_reducible apply State.reach_good
    | (extract_lets +onlyGivenNames z; with_reducible apply State.good_cut (cq := cq) (s := z); rotate_left; clear_value z; intro hz; rotate_right; subst z)
    | with_reducible refine State.pop_good (by assumption) ?_
    | with_reducible refine State.backEpoch_good (by assumption) ?_
    | split)

theorem State.ackTimer_good (s : State) (i at_ : Nat) (h : s.Good cq) :
    (State.ackTimer s i at_).Good cq := by
  unfold State.ackTimer
  repeat' (first
    | with_reducible assumption
    | with_reducible apply State.inject_good
    | with_reducible apply State.mapFlow_good
    | with_reducible apply State.reach_good
    | (extract_lets +onlyGivenNames z; with_reducible apply State.good_cut (cq := cq) (s := z); rotate_left; clear_value z; intro hz; rotate_right; subst z)
    | split)

theorem State.loseFlow_good (s : State) (i : Nat) (h : s.Good cq) :
    (State.loseFlow s i).Good cq := by
  unfold State.loseFlow
  repeat' (first
    | with_reducible assumption
    | with_reducible apply State.count_good
    | with_reducible apply State.put_good)

theorem State.flowTimeout_good (s : State) (i at_ c : Nat) (h : s.Good cq) :
    (State.flowTimeout s i at_ c).Good cq := by
  unfold State.flowTimeout
  repeat' (first
    | with_reducible assumption
    | refine fun _ => ?_
    | with_reducible apply State.loseFlow_good
    | with_reducible apply State.opDone_good
    | with_reducible apply State.reach_good
    | with_reducible apply State.setFlow_good
    | with_reducible apply State.settleFlow_good
    | with_reducible apply State.syncDone_good
    | with_reducible apply State.good_foldl
    | (with_reducible refine State.good_ite (fun _ => ?_) (fun _ => ?_)))

end Sys2Proof.Machine
end

