-- ==== Sys2Proof/Laws/GoodBlend.lean ====
section
/-! SUPPORT. Every function of Machine/Blend.lean that answers a module keeps its maps canonical and its queue of commands. -/

namespace Sys2Proof.Machine

variable {cq : List Instr}

theorem State.bldPut_good (s : State) (f a n v : Nat) (h : s.Good cq) :
    (State.bldPut s f a n v).Good cq := by
  unfold State.bldPut
  repeat' (first
    | with_reducible assumption
    | (refine State.good_lit ?_; dsimp only; exact State.Good.maps (by assumption)))

theorem State.bldPoison_good (s : State) (f base seg : Nat) (h : s.Good cq) :
    (State.bldPoison s f base seg).Good cq := by
  unfold State.bldPoison
  repeat' (first
    | with_reducible assumption
    | refine fun _ => ?_
    | with_reducible apply State.bldPut_good
    | with_reducible apply State.good_foldl)

theorem State.bldTouch_good (s : State) (f seg : Nat) (acc : Option Nat) (h : s.Good cq) :
    (State.bldTouch s f seg acc).Good cq := by
  unfold State.bldTouch
  repeat' (first
    | with_reducible assumption
    | with_reducible apply State.put_good
    | with_reducible apply State.count_good
    | with_reducible apply State.fresh64_good
    | with_reducible apply State.bldPut_good
    | with_reducible apply State.bldPoison_good
    | with_reducible apply Tile.put_ok
    | with_reducible apply TW.put_ok
    | with_reducible apply TW.count_ok
    | (extract_lets +onlyGivenNames z; with_reducible apply State.good_cut (cq := cq) (s := z); rotate_left; clear_value z; intro hz; rotate_right; subst z)
    | extract_lets +onlyGivenNames z
    | (refine State.good_lit ?_; dsimp only; exact State.Good.maps (by assumption))
    | with_reducible refine State.good_snd (by assumption) ?_
    | with_reducible refine State.good_trd (by assumption) ?_
    | with_reducible refine State.good_fst (by assumption) ?_
    | split
    | exact State.good_lit ⟨h.pend, h.regs, h.vf, h.mem, h.tiles⟩)

theorem State.bldTouchAll_good (s : State) (f a n : Nat) (acc : Option Nat) (h : s.Good cq) :
    (State.bldTouchAll s f a n acc).Good cq := by
  unfold State.bldTouchAll
  repeat' (first
    | with_reducible assumption
    | refine fun _ => ?_
    | with_reducible apply State.bldTouch_good
    | with_reducible apply State.good_foldl)

theorem State.recPut_good (s : State) (i k v : Nat) (h : s.Good cq) :
    (State.recPut s i k v).Good cq := by
  unfold State.recPut
  repeat' (first
    | with_reducible assumption
    | with_reducible apply State.bldPut_good)

theorem State.recTouch_good (s : State) (i : Nat) (h : s.Good cq) :
    (State.recTouch s i).Good cq := by
  unfold State.recTouch
  repeat' (first
    | with_reducible assumption
    | with_reducible apply State.bldTouchAll_good)

theorem State.setRound_good (s : State) (i : Nat) (r : BldRound) (h : s.Good cq) :
    (State.setRound s i r).Good cq := by
  unfold State.setRound
  repeat' (first
    | with_reducible assumption
    | (refine State.good_lit ?_; dsimp only; exact State.Good.maps (by assumption)))

theorem State.mapRound_good (s : State) (i : Nat) (g : BldRound → BldRound) (h : s.Good cq) :
    (State.mapRound s i g).Good cq := by
  unfold State.mapRound
  repeat' (first
    | with_reducible assumption
    | with_reducible apply State.setRound_good)

theorem State.accWrite_good (s : State) (i b : Nat) (l : List Int) (h : s.Good cq) :
    (State.accWrite s i b l).Good cq := by
  unfold State.accWrite
  repeat' (first
    | with_reducible assumption
    | with_reducible apply State.bldPut_good)

theorem State.grantAll_good (s : State) (i : Nat) (h : s.Good cq) :
    (State.grantAll s i).Good cq := by
  unfold State.grantAll
  repeat' (first
    | with_reducible assumption
    | refine fun _ => ?_
    | with_reducible apply State.mapRound_good
    | with_reducible apply State.schedAdd_good
    | with_reducible apply State.good_foldl
    | (with_reducible refine State.good_ite (fun _ => ?_) (fun _ => ?_)))

theorem State.toChildren_good (s : State) (i : Nat) (b : Bln) (payload : Nat) (h : s.Good cq) :
    (State.toChildren s i b payload).Good cq := by
  unfold State.toChildren
  repeat' (first
    | with_reducible assumption
    | with_reducible apply State.schedAdd_good)

theorem State.tryEnd_good (s : State) (i : Nat) (h : s.Good cq) :
    (State.tryEnd s i).Good cq := by
  unfold State.tryEnd
  repeat' (first
    | with_reducible assumption
    | with_reducible apply State.mapRound_good
    | with_reducible apply State.schedAdd_good
    | with_reducible apply State.toChildren_good
    | (with_reducible refine State.good_ite (fun _ => ?_) (fun _ => ?_)))

theorem State.progress_good (s : State) (i : Nat) (h : s.Good cq) :
    (State.progress s i).Good cq := by
  unfold State.progress
  repeat' (first
    | with_reducible assumption
    | with_reducible apply State.grantAll_good
    | with_reducible apply State.tryEnd_good)

theorem State.deliveredTo_good (s : State) (i j upto : Nat) (h : s.Good cq) :
    (State.deliveredTo s i j upto).Good cq := by
  unfold State.deliveredTo
  repeat' (first
    | with_reducible assumption
    | with_reducible apply State.mapRound_good
    | with_reducible apply State.progress_good)

theorem State.setDisp_good (s : State) (i b : Nat) (clean : Bool) (h : s.Good cq) :
    (State.setDisp s i b clean).Good cq := by
  unfold State.setDisp
  repeat' (first
    | with_reducible assumption
    | with_reducible apply State.bldPut_good
    | with_reducible apply State.bldTouchAll_good)

theorem State.addBlock_good (s : State) (i j b e : Nat) (sat nonfin : Bool) (vals : List Int) (h : s.Good cq) :
    (State.addBlock s i j b e sat nonfin vals).Good cq := by
  unfold State.addBlock
  repeat' (first
    | with_reducible assumption
    | with_reducible apply State.accWrite_good
    | with_reducible apply State.bldTouchAll_good
    | with_reducible apply State.count_good
    | with_reducible apply State.deliveredTo_good
    | with_reducible apply State.mapRound_good
    | with_reducible apply State.setDisp_good
    | (with_reducible refine State.good_ite (fun _ => ?_) (fun _ => ?_)))

theorem State.blendDrop_good (s : State) (i : Nat) (h : s.Good cq) :
    (State.blendDrop s i).Good cq := by
  unfold State.blendDrop
  repeat' (first
    | with_reducible assumption
    | refine fun _ => ?_
    | with_reducible apply State.count_good
    | with_reducible apply State.mapRound_good
    | with_reducible apply TW.count_ok
    | (refine State.good_lit ?_; dsimp only; exact State.Good.maps (by assumption)))

theorem State.blendIn_good (s : State) (x : Flit) (k : State → Nat → State) (hk : ∀ z0 z1, (z0).Good cq → (k z0 z1).Good cq) (h : s.Good cq) :
    (State.blendIn s x k).Good cq := by
  unfold State.blendIn
  repeat' (first
    | with_reducible assumption
    | with_reducible apply hk
    | with_reducible apply State.count_good
    | with_reducible apply State.refuse_good
    | with_reducible apply State.epochIn_good
    | with_reducible apply State.recTouch_good
    | with_reducible apply TW.count_ok
    | (extract_lets +onlyGivenNames z; with_reducible apply State.good_cut (cq := cq) (s := z); rotate_left; clear_value z; intro hz; rotate_right; subst z)
    | extract_lets +onlyGivenNames z
    | split)

theorem State.blendPart_good (s : State) (at_ : Nat) (h : s.Good cq) :
    (State.blendPart s at_).Good cq := by
  unfold State.blendPart
  repeat' (first
    | with_reducible assumption
    | refine fun _ => ?_
    | with_reducible apply State.reach_good
    | with_reducible apply State.fabEvent_good
    | with_reducible refine State.pop_good (by assumption) ?_
    | with_reducible apply State.mapRound_good
    | with_reducible apply State.addBlock_good
    | with_reducible apply State.blendDrop_good
    | with_reducible apply State.blendIn_good
    | with_reducible apply Tile.grant_ok
    | (extract_lets +onlyGivenNames z; with_reducible apply State.good_cut (cq := cq) (s := z); rotate_left; clear_value z; intro hz; rotate_right; subst z)
    | extract_lets +onlyGivenNames z
    | (refine State.good_lit ?_; dsimp only; exact State.Good.maps (by assumption))
    | with_reducible refine State.good_snd (by assumption) ?_
    | with_reducible refine State.good_trd (by assumption) ?_
    | with_reducible refine State.good_fst (by assumption) ?_
    | split)

theorem State.blendEnd_good (s : State) (at_ : Nat) (h : s.Good cq) :
    (State.blendEnd s at_).Good cq := by
  unfold State.blendEnd
  repeat' (first
    | with_reducible assumption
    | refine fun _ => ?_
    | with_reducible apply State.reach_good
    | with_reducible refine State.pop_good (by assumption) ?_
    | with_reducible apply State.deliveredTo_good
    | with_reducible apply State.blendDrop_good
    | with_reducible apply State.blendIn_good
    | with_reducible refine State.good_snd (by assumption) ?_
    | with_reducible refine State.good_fst (by assumption) ?_
    | split)

theorem State.takeBlock_good (s : State) (i b : Nat) (h : s.Good cq) :
    (State.takeBlock s i b).2.Good cq := by
  unfold State.takeBlock
  repeat' (first
    | with_reducible assumption
    | refine fun _ => ?_
    | with_reducible apply State.fabEvent_good
    | with_reducible apply State.bldTouchAll_good
    | with_reducible apply State.mapRound_good
    | (extract_lets +onlyGivenNames z; with_reducible apply State.good_cut (cq := cq) (s := z); rotate_left; clear_value z; intro hz; rotate_right; subst z)
    | extract_lets +onlyGivenNames z
    | (refine State.good_lit ?_; dsimp only; exact State.Good.maps (by assumption))
    | with_reducible refine State.good_snd (by assumption) ?_
    | with_reducible refine State.good_fst (by assumption) ?_
    | split)

theorem State.partialEmit_good (s : State) (i at_ : Nat) (h : s.Good cq) :
    (State.partialEmit s i at_).Good cq := by
  unfold State.partialEmit
  repeat' (first
    | with_reducible assumption
    | with_reducible apply State.add_good
    | with_reducible apply State.count_good
    | with_reducible apply State.reach_good
    | with_reducible apply State.schedAdd_good
    | with_reducible apply State.recTouch_good
    | with_reducible apply State.tryEnd_good
    | with_reducible apply State.takeBlock_good
    | with_reducible apply TW.count_ok
    | (extract_lets +onlyGivenNames z; with_reducible apply State.good_cut (cq := cq) (s := z); rotate_left; clear_value z; intro hz; rotate_right; subst z)
    | extract_lets +onlyGivenNames z
    | (refine State.good_lit ?_; dsimp only; exact State.Good.maps (by assumption))
    | with_reducible refine State.good_snd (by assumption) ?_
    | with_reducible refine State.good_trd (by assumption) ?_
    | with_reducible refine State.good_fst (by assumption) ?_
    | split)

theorem State.beginRound_good (s : State) (i p : Nat) (h : s.Good cq) :
    (State.beginRound s i p).Good cq := by
  unfold State.beginRound
  repeat' (first
    | with_reducible assumption
    | refine fun _ => ?_
    | with_reducible apply State.mapRound_good
    | with_reducible apply State.onTileLow_good
    | (refine State.good_lit ?_; dsimp only; exact State.Good.maps (by assumption))
    | (with_reducible refine State.good_ite (fun _ => ?_) (fun _ => ?_))
    | with_reducible apply TW.penPending_ok
    | with_reducible apply TW.ok_foldl)

theorem State.startFsend_good (s : State) (i at_ c : Nat) (r0 : Nat) (h : s.Good cq) :
    (State.startFsend s i at_ c r0).Good cq := by
  induction r0 generalizing s i at_ c with
  | zero =>
    unfold State.startFsend
    repeat' (first
      | with_reducible assumption
      | refine fun _ => ?_
      | with_reducible apply State.mapFlow_good
      | with_reducible apply State.fopDone_good
      | with_reducible apply State.fopReject_good
      | with_reducible apply State.mapRound_good
      | with_reducible apply State.deliveredTo_good
      | with_reducible apply State.beginRound_good
      | with_reducible apply State.tile_ok
      | (extract_lets +onlyGivenNames z; with_reducible apply State.good_cut (cq := cq) (s := z); rotate_left; clear_value z; intro hz; rotate_right; subst z)
      | extract_lets +onlyGivenNames z
      | (refine State.good_lit ?_; dsimp only; exact State.Good.maps (by assumption))
      | with_reducible refine State.good_snd (by assumption) ?_
      | with_reducible refine State.good_trd (by assumption) ?_
      | with_reducible refine State.good_fst (by assumption) ?_
      | split)
  | succ r0 ih =>
    unfold State.startFsend
    repeat' (first
      | with_reducible assumption
      | refine fun _ => ?_
      | with_reducible apply ih
      | with_reducible apply State.mapFlow_good
      | with_reducible apply State.fopDone_good
      | with_reducible apply State.fopReject_good
      | with_reducible apply State.mapRound_good
      | with_reducible apply State.deliveredTo_good
      | with_reducible apply State.beginRound_good
      | with_reducible apply State.tile_ok
      | (extract_lets +onlyGivenNames z; with_reducible apply State.good_cut (cq := cq) (s := z); rotate_left; clear_value z; intro hz; rotate_right; subst z)
      | extract_lets +onlyGivenNames z
      | (refine State.good_lit ?_; dsimp only; exact State.Good.maps (by assumption))
      | with_reducible refine State.good_snd (by assumption) ?_
      | with_reducible refine State.good_trd (by assumption) ?_
      | with_reducible refine State.good_fst (by assumption) ?_
      | split)

theorem State.blockPass_good (s : State) (i at_ c : Nat) (h : s.Good cq) :
    (State.blockPass s i at_ c).Good cq := by
  unfold State.blockPass
  repeat' (first
    | with_reducible assumption
    | refine fun _ => ?_
    | with_reducible apply State.reach_good
    | with_reducible apply State.edgeRead_good
    | with_reducible apply State.fopDone_good
    | with_reducible apply State.recTouch_good
    | with_reducible apply State.mapRound_good
    | with_reducible apply State.deliveredTo_good
    | with_reducible apply State.addBlock_good
    | with_reducible apply State.startFsend_good
    | with_reducible apply State.tile_ok
    | (extract_lets +onlyGivenNames z; with_reducible apply State.good_cut (cq := cq) (s := z); rotate_left; clear_value z; intro hz; rotate_right; subst z)
    | extract_lets +onlyGivenNames z
    | (refine State.good_lit ?_; dsimp only; exact State.Good.maps (by assumption))
    | with_reducible refine State.good_snd (by assumption) ?_
    | with_reducible refine State.good_trd (by assumption) ?_
    | with_reducible refine State.good_fst (by assumption) ?_
    | split)

theorem State.passAtEdge_good (s : State) (i at_ c : Nat) (h : s.Good cq) :
    (State.passAtEdge s i at_ c).Good cq := by
  unfold State.passAtEdge
  repeat' (first
    | with_reducible assumption
    | refine fun _ => ?_
    | with_reducible apply State.partialEmit_good
    | with_reducible apply State.blockPass_good
    | with_reducible apply State.good_foldl
    | (extract_lets +onlyGivenNames z; with_reducible apply State.good_cut (cq := cq) (s := z); rotate_left; clear_value z; intro hz; rotate_right; subst z)
    | extract_lets +onlyGivenNames z
    | with_reducible refine State.good_snd (by assumption) ?_
    | with_reducible refine State.good_fst (by assumption) ?_
    | split)

theorem State.advance_good (s : State) (at_ c : Nat) (h : s.Good cq) :
    (State.advance s at_ c).Good cq := by
  unfold State.advance
  repeat' (first
    | with_reducible assumption
    | refine fun _ => ?_
    | with_reducible apply State.reach_good
    | with_reducible refine State.pop_good (by assumption) ?_
    | with_reducible apply State.mapRound_good
    | with_reducible apply State.blendDrop_good
    | with_reducible apply State.blendIn_good
    | with_reducible apply State.passAtEdge_good
    | (refine State.good_lit ?_; dsimp only; exact State.Good.maps (by assumption))
    | with_reducible refine State.good_snd (by assumption) ?_
    | with_reducible refine State.good_fst (by assumption) ?_
    | split)

theorem State.blendWrite_good (s : State) (i c a n v : Nat) (h : s.Good cq) :
    (State.blendWrite s i c a n v).Good cq := by
  unfold State.blendWrite
  repeat' (first
    | with_reducible assumption
    | refine fun _ => ?_
    | with_reducible apply State.count_good
    | with_reducible apply State.onTile_good
    | with_reducible apply TW.blendRows_ok
    | split)

theorem State.blendHdr_good (s : State) (i c a : Nat) (h : s.Good cq) :
    (State.blendHdr s i c a).2.2.Good cq := by
  unfold State.blendHdr
  repeat' (first
    | with_reducible assumption
    | with_reducible apply State.edgeRead_good
    | split)

theorem State.sentClean_good (s : State) (i b : Nat) (h : s.Good cq) :
    (State.sentClean s i b).2.Good cq := by
  unfold State.sentClean
  repeat' (first
    | with_reducible assumption
    | with_reducible apply State.bldTouchAll_good)

theorem State.walkAbsent_good (s : State) (i c : Nat) (h : s.Good cq) :
    (State.walkAbsent s i c).Good cq := by
  unfold State.walkAbsent
  repeat' (first
    | with_reducible assumption
    | with_reducible apply State.blendHdr_good
    | with_reducible apply State.blendWrite_good
    | with_reducible apply State.mapRound_good
    | (with_reducible refine State.good_ite (fun _ => ?_) (fun _ => ?_)))

theorem State.walkTo_good (s : State) (i c b : Nat) (r0 : Nat) (h : s.Good cq) :
    (State.walkTo s i c b r0).Good cq := by
  induction r0 generalizing s i c b with
  | zero =>
    unfold State.walkTo
    repeat' (first
      | with_reducible assumption
      | with_reducible apply State.walkAbsent_good
      | (with_reducible refine State.good_ite (fun _ => ?_) (fun _ => ?_)))
  | succ r0 ih =>
    unfold State.walkTo
    repeat' (first
      | with_reducible assumption
      | with_reducible apply ih
      | with_reducible apply State.walkAbsent_good
      | (with_reducible refine State.good_ite (fun _ => ?_) (fun _ => ?_)))

theorem State.memberResult_good (s : State) (i c b e : Nat) (sat nonfin : Bool) (eNext : Nat) (l : List Int) (h : s.Good cq) :
    (State.memberResult s i c b e sat nonfin eNext l).Good cq := by
  unfold State.memberResult
  repeat' (first
    | with_reducible assumption
    | with_reducible apply State.blendWrite_good
    | with_reducible apply State.mapRound_good
    | with_reducible apply State.sentClean_good
    | with_reducible apply State.walkTo_good)

theorem State.rootComplete_good (s : State) (i at_ c : Nat) (h : s.Good cq) :
    (State.rootComplete s i at_ c).Good cq := by
  unfold State.rootComplete
  repeat' (first
    | with_reducible assumption
    | refine fun _ => ?_
    | with_reducible apply State.count_good
    | with_reducible apply State.reach_good
    | with_reducible apply State.schedAdd_good
    | with_reducible apply State.bldPut_good
    | with_reducible apply State.bldTouchAll_good
    | with_reducible apply State.recTouch_good
    | with_reducible apply State.mapRound_good
    | with_reducible apply State.tryEnd_good
    | with_reducible apply State.takeBlock_good
    | with_reducible apply State.memberResult_good
    | with_reducible apply TW.count_ok
    | with_reducible apply State.good_foldl
    | with_reducible apply State.good_foldl_snd
    | with_reducible apply State.good_foldl_fst
    | (extract_lets +onlyGivenNames z; with_reducible apply State.good_cut (cq := cq) (s := z); rotate_left; clear_value z; intro hz; rotate_right; subst z)
    | extract_lets +onlyGivenNames z
    | (refine State.good_lit ?_; dsimp only; exact State.Good.maps (by assumption))
    | with_reducible refine State.good_snd (by assumption) ?_
    | with_reducible refine State.good_trd (by assumption) ?_
    | with_reducible refine State.good_fst (by assumption) ?_
    | split)

theorem State.blendResult_good (s : State) (at_ c : Nat) (h : s.Good cq) :
    (State.blendResult s at_ c).Good cq := by
  unfold State.blendResult
  repeat' (first
    | with_reducible assumption
    | refine fun _ => ?_
    | with_reducible apply State.reach_good
    | with_reducible refine State.pop_good (by assumption) ?_
    | with_reducible apply State.mapRound_good
    | with_reducible apply State.toChildren_good
    | with_reducible apply State.blendDrop_good
    | with_reducible apply State.blendIn_good
    | with_reducible apply State.memberResult_good
    | (extract_lets +onlyGivenNames z; with_reducible apply State.good_cut (cq := cq) (s := z); rotate_left; clear_value z; intro hz; rotate_right; subst z)
    | extract_lets +onlyGivenNames z
    | (refine State.good_lit ?_; dsimp only; exact State.Good.maps (by assumption))
    | with_reducible refine State.good_snd (by assumption) ?_
    | with_reducible refine State.good_trd (by assumption) ?_
    | with_reducible refine State.good_fst (by assumption) ?_
    | split)

theorem State.bucketOp_good (s : State) (p : Nat) (o : QOp) (at_ c : Nat) (h : s.Good cq) :
    (State.bucketOp s p o at_ c).Good cq := by
  unfold State.bucketOp
  repeat' (first
    | with_reducible assumption
    | refine fun _ => ?_
    | with_reducible apply State.mapTile_good
    | with_reducible apply State.mapFlow_good
    | with_reducible apply State.fopReject_good
    | with_reducible apply State.recTouch_good
    | with_reducible apply State.startFsend_good
    | with_reducible apply State.tile_ok
    | with_reducible apply TW.map_ok
    | (extract_lets +onlyGivenNames z; with_reducible apply State.good_cut (cq := cq) (s := z); rotate_left; clear_value z; intro hz; rotate_right; subst z)
    | extract_lets +onlyGivenNames z
    | (refine State.good_lit ?_; dsimp only; exact State.Good.maps (by assumption))
    | (refine Tile.ok_lit ?_; dsimp only; exact Tile.Ok.maps (by assumption))
    | (with_reducible refine State.good_ite (fun _ => ?_) (fun _ => ?_)))

theorem State.fabricStart_good (s : State) (p at_ c : Nat) (h : s.Good cq) :
    (State.fabricStart s p at_ c).Good cq := by
  unfold State.fabricStart
  repeat' (first
    | with_reducible assumption
    | refine fun _ => ?_
    | with_reducible apply State.reach_good
    | with_reducible apply State.onTileLow_good
    | with_reducible apply State.fopReject_good
    | with_reducible apply State.streamOp_good
    | with_reducible apply State.bucketOp_good
    | with_reducible apply TW.forToken_ok
    | with_reducible apply State.tile_ok
    | with_reducible apply TW.map_ok
    | with_reducible apply TW.Ok.tile
    | (extract_lets +onlyGivenNames z; with_reducible apply State.good_cut (cq := cq) (s := z); rotate_left; clear_value z; intro hz; rotate_right; subst z)
    | extract_lets +onlyGivenNames z
    | (refine TW.ok_lit ?_; dsimp only)
    | with_reducible refine State.good_snd (by assumption) ?_
    | with_reducible refine State.good_fst (by assumption) ?_
    | split)

theorem State.rootTotals_good (s : State) (i nan flags : Nat) (h : s.Good cq) :
    (State.rootTotals s i nan flags).Good cq := by
  unfold State.rootTotals
  repeat' (first
    | with_reducible assumption
    | with_reducible apply State.count_good
    | with_reducible apply State.recPut_good)

theorem State.closeRound_good (s : State) (i : Nat) (h : s.Good cq) :
    (State.closeRound s i).Good cq := by
  unfold State.closeRound
  repeat' (first
    | with_reducible assumption
    | refine fun _ => ?_
    | with_reducible apply State.mapRound_good
    | with_reducible apply State.onTileLow_good
    | with_reducible apply State.put_good
    | with_reducible apply State.recPut_good
    | with_reducible apply State.rootTotals_good
    | with_reducible apply TW.penDone_ok
    | split)

theorem State.roundComplete_good (s : State) (i at_ c : Nat) (h : s.Good cq) :
    (State.roundComplete s i at_ c).Good cq := by
  unfold State.roundComplete
  repeat' (first
    | with_reducible assumption
    | with_reducible apply State.reach_good
    | with_reducible apply State.unitInc_good
    | with_reducible apply State.recTouch_good
    | with_reducible apply State.walkTo_good
    | with_reducible apply State.startFsend_good
    | with_reducible apply State.closeRound_good
    | with_reducible apply State.tile_ok
    | (extract_lets +onlyGivenNames z; with_reducible apply State.good_cut (cq := cq) (s := z); rotate_left; clear_value z; intro hz; rotate_right; subst z)
    | extract_lets +onlyGivenNames z
    | split)

theorem State.bldLine_good (s : State) (f line : Nat) (h : s.Good cq) :
    (State.bldLine s f line).Good cq := by
  unfold State.bldLine
  repeat' (first
    | with_reducible assumption
    | refine fun _ => ?_
    | with_reducible apply State.bldTouch_good
    | with_reducible apply State.good_foldl)

theorem State.bldRead_good (s : State) (f : Nat) (h : s.Good cq) :
    (State.bldRead s f).Good cq := by
  unfold State.bldRead
  repeat' (first
    | with_reducible assumption
    | refine fun _ => ?_
    | with_reducible apply State.put_good
    | with_reducible apply State.bldLine_good
    | with_reducible apply Tile.put_ok
    | with_reducible apply TW.put_ok
    | with_reducible apply State.good_foldl
    | (extract_lets +onlyGivenNames z; with_reducible apply State.good_cut (cq := cq) (s := z); rotate_left; clear_value z; intro hz; rotate_right; subst z)
    | extract_lets +onlyGivenNames z)

theorem State.bldPatrol_good (s : State) (f at_ : Nat) (h : s.Good cq) :
    (State.bldPatrol s f at_).Good cq := by
  unfold State.bldPatrol
  repeat' (first
    | with_reducible assumption
    | with_reducible apply State.put_good
    | with_reducible apply State.reach_good
    | with_reducible apply State.bldLine_good
    | with_reducible apply Tile.put_ok
    | with_reducible apply TW.put_ok
    | (extract_lets +onlyGivenNames z; with_reducible apply State.good_cut (cq := cq) (s := z); rotate_left; clear_value z; intro hz; rotate_right; subst z)
    | extract_lets +onlyGivenNames z
    | (refine State.good_lit ?_; dsimp only; exact State.Good.maps (by assumption))
    | split)

theorem State.bldPatrolWrite_good (s : State) (f at_ v : Nat) (h : s.Good cq) :
    (State.bldPatrolWrite s f at_ v).Good cq := by
  unfold State.bldPatrolWrite
  repeat' (first
    | with_reducible assumption
    | with_reducible apply State.put_good
    | with_reducible apply Tile.put_ok
    | with_reducible apply TW.put_ok
    | (extract_lets +onlyGivenNames z; with_reducible apply State.good_cut (cq := cq) (s := z); rotate_left; clear_value z; intro hz; rotate_right; subst z)
    | extract_lets +onlyGivenNames z
    | (refine State.good_lit ?_; dsimp only; exact State.Good.maps (by assumption))
    | (with_reducible refine State.good_ite (fun _ => ?_) (fun _ => ?_)))

theorem State.bldWrite_good (s : State) (f : Nat) (h : s.Good cq) :
    (State.bldWrite s f).Good cq := by
  unfold State.bldWrite
  repeat' (first
    | with_reducible assumption
    | refine fun _ => ?_
    | with_reducible apply State.bldPut_good
    | with_reducible apply State.put_good
    | with_reducible apply State.good_foldl
    | (refine State.good_lit ?_; dsimp only; exact State.Good.maps (by assumption))
    | (with_reducible refine State.good_ite (fun _ => ?_) (fun _ => ?_)))

theorem State.abandonRound_good (s : State) (i at_ c : Nat) (h : s.Good cq) :
    (State.abandonRound s i at_ c).Good cq := by
  unfold State.abandonRound
  repeat' (first
    | with_reducible assumption
    | refine fun _ => ?_
    | with_reducible apply State.abandon_good
    | with_reducible apply State.fopDone_good
    | with_reducible apply State.setRound_good
    | with_reducible apply Tile.fresh_ok
    | with_reducible apply State.tile_ok
    | with_reducible apply State.good_foldl
    | with_reducible apply State.good_foldl_snd
    | with_reducible apply State.good_foldl_fst
    | (extract_lets +onlyGivenNames z; with_reducible apply State.good_cut (cq := cq) (s := z); rotate_left; clear_value z; intro hz; rotate_right; subst z)
    | extract_lets +onlyGivenNames z
    | with_reducible refine State.good_snd (by assumption) ?_
    | with_reducible refine State.good_trd (by assumption) ?_
    | with_reducible refine State.good_fst (by assumption) ?_
    | split)

theorem State.bucketFree_good (s : State) (i : Nat) (h : s.Good cq) :
    (State.bucketFree s i).Good cq := by
  unfold State.bucketFree
  extract_lets f clr n acc root etab disp s1 s2 s3
  have hc : ∀ x a n, State.Good x cq → (clr x a n).Good cq := fun x a n h => State.good_lit h.maps
  have h1 : s1.Good cq := hc _ _ _ h
  have h2 : s2.Good cq := hc _ _ _ h1
  have h3 : s3.Good cq := by
    simp only [s3]; split
    · exact hc _ _ _ h2
    · exact h2
  exact hc _ _ _ (State.setRound_good _ _ _ h3)

end Sys2Proof.Machine
end

