-- ==== Sys2Proof/Laws/GoodFlowCtl.lean ====
section
/-! SUPPORT. Every function of Machine/FlowCtl.lean that answers a module keeps its maps canonical and its queue of commands. -/

namespace Sys2Proof.Machine

variable {cq : List Instr}

theorem State.cfgReject_good (s : State) (f : Nat) (h : s.Good cq) :
    (State.cfgReject s f).Good cq := by
  unfold State.cfgReject
  repeat' (first
    | with_reducible assumption
    | with_reducible apply State.put_good)

theorem State.flowActivate_good (s : State) (i : Nat) (v : Word) (h : s.Good cq) :
    (State.flowActivate s i v).Good cq := by
  unfold State.flowActivate
  repeat' (first
    | with_reducible assumption
    | with_reducible apply State.put_good
    | with_reducible apply State.setWord_good
    | with_reducible apply State.setFlow_good
    | with_reducible apply State.vrnCredit_good
    | with_reducible apply State.setRound_good
    | with_reducible apply Tile.fresh_ok
    | with_reducible apply Tile.put_ok
    | with_reducible apply TW.put_ok
    | (extract_lets +onlyGivenNames z; with_reducible apply State.good_cut (cq := cq) (s := z); rotate_left; clear_value z; intro hz; rotate_right; subst z)
    | extract_lets +onlyGivenNames z
    | (refine State.good_lit ?_; dsimp only; exact State.Good.maps (by assumption))
    | split)

theorem State.flowEnable_good (s : State) (i : Nat) (v : Word) (h : s.Good cq) :
    (State.flowEnable s i v).Good cq := by
  unfold State.flowEnable
  repeat' (first
    | with_reducible assumption
    | with_reducible apply State.cfgReject_good
    | with_reducible apply State.flowActivate_good
    | with_reducible apply State.mapFlow_good
    | with_reducible apply State.put_good
    | split)

theorem State.failWaiting_good (s : State) (i at_ c : Nat) (h : s.Good cq) :
    (State.failWaiting s i at_ c).Good cq := by
  unfold State.failWaiting
  repeat' (first
    | with_reducible assumption
    | refine fun _ => ?_
    | with_reducible apply State.fopDone_good
    | with_reducible apply State.mapFlow_good
    | with_reducible apply State.unitDone_good
    | with_reducible apply State.good_foldl
    | split)

theorem State.flowDrainStart_good (s : State) (i at_ c : Nat) (h : s.Good cq) :
    (State.flowDrainStart s i at_ c).Good cq := by
  unfold State.flowDrainStart
  repeat' (first
    | with_reducible assumption
    | with_reducible apply State.abandonRound_good
    | with_reducible apply State.drainRelation_good
    | with_reducible apply State.failWaiting_good
    | with_reducible apply State.mapFlow_good
    | with_reducible apply State.put_good
    | with_reducible apply State.reach_good
    | (with_reducible refine State.good_ite (fun _ => ?_) (fun _ => ?_)))

theorem State.flowDrain_good (s : State) (i : Nat) (v : Word) (at_ c : Nat) (h : s.Good cq) :
    (State.flowDrain s i v at_ c).Good cq := by
  unfold State.flowDrain
  repeat' (first
    | with_reducible assumption
    | with_reducible apply State.cfgReject_good
    | with_reducible apply State.flowDrainStart_good
    | with_reducible apply State.mapFlow_good
    | with_reducible apply State.put_good
    | with_reducible apply State.setWord_good
    | split)

theorem State.flowLose_good (s : State) (i at_ c : Nat) (h : s.Good cq) :
    (State.flowLose s i at_ c).Good cq := by
  unfold State.flowLose
  repeat' (first
    | with_reducible assumption
    | refine fun _ => ?_
    | with_reducible apply State.syncDone_good
    | with_reducible apply State.setFlow_good
    | with_reducible apply State.fopDone_good
    | with_reducible apply State.write_good
    | with_reducible apply State.opDone_good
    | with_reducible apply State.loseFlow_good
    | with_reducible apply State.good_foldl
    | with_reducible apply State.good_foldl_snd
    | with_reducible apply State.good_foldl_fst
    | (extract_lets +onlyGivenNames z; with_reducible apply State.good_cut (cq := cq) (s := z); rotate_left; clear_value z; intro hz; rotate_right; subst z)
    | extract_lets +onlyGivenNames z
    | (refine State.good_lit ?_; dsimp only; exact State.Good.maps (by assumption))
    | with_reducible refine State.good_snd (by assumption) ?_
    | with_reducible refine State.good_trd (by assumption) ?_
    | with_reducible refine State.good_fst (by assumption) ?_
    | split)

theorem State.flowDrained_good (s : State) (i at_ c : Nat) (h : s.Good cq) :
    (State.flowDrained s i at_ c).Good cq := by
  unfold State.flowDrained
  repeat' (first
    | with_reducible assumption
    | with_reducible apply State.put_good
    | with_reducible apply State.setWord_good
    | with_reducible apply State.reach_good
    | with_reducible apply State.setFlow_good
    | with_reducible apply State.settleFlow_good
    | with_reducible apply State.bucketFree_good
    | with_reducible apply State.flowActivate_good
    | with_reducible apply State.flowLose_good
    | with_reducible apply Tile.fresh_ok
    | with_reducible apply Tile.put_ok
    | with_reducible apply TW.put_ok
    | (extract_lets +onlyGivenNames z; with_reducible apply State.good_cut (cq := cq) (s := z); rotate_left; clear_value z; intro hz; rotate_right; subst z)
    | extract_lets +onlyGivenNames z
    | with_reducible refine State.good_snd (by assumption) ?_
    | with_reducible refine State.good_trd (by assumption) ?_
    | with_reducible refine State.good_fst (by assumption) ?_
    | split
    | (clear_value *; split))

theorem State.drainFlows_good (s : State) (ctx at_ c : Nat) (h : s.Good cq) :
    (State.drainFlows s ctx at_ c).Good cq := by
  unfold State.drainFlows
  repeat' (first
    | with_reducible assumption
    | refine fun _ => ?_
    | with_reducible apply State.flowDrain_good
    | with_reducible apply State.good_foldl
    | (with_reducible refine State.good_ite (fun _ => ?_) (fun _ => ?_)))

theorem State.flowW3Write_good (s : State) (i : Nat) (m v : Word) (h : s.Good cq) :
    (State.flowW3Write s i m v).Good cq := by
  unfold State.flowW3Write
  repeat' (first
    | with_reducible assumption
    | with_reducible apply State.setWord_good
    | with_reducible apply State.cfgReject_good
    | (extract_lets +onlyGivenNames z; with_reducible apply State.good_cut (cq := cq) (s := z); rotate_left; clear_value z; intro hz; rotate_right; subst z)
    | extract_lets +onlyGivenNames z
    | split)

end Sys2Proof.Machine
end

