-- ==== Sys2Proof/Laws/GoodLoader.lean ====
section
/-! SUPPORT. Every function of Machine/Loader.lean that answers a module keeps its maps canonical and its queue of commands. -/

namespace Sys2Proof.Machine

variable {cq : List Instr}

theorem State.setLdr_good (s : State) (d c : Nat) (x : LdrCtx) (h : s.Good cq) :
    (State.setLdr s d c x).Good cq := by
  unfold State.setLdr
  repeat' (first
    | with_reducible assumption
    | (refine State.good_lit ?_; dsimp only; exact State.Good.maps (by assumption)))

theorem State.setLdrState_good (s : State) (d c v : Nat) (h : s.Good cq) :
    (State.setLdrState s d c v).Good cq := by
  unfold State.setLdrState
  repeat' (first
    | with_reducible assumption
    | with_reducible apply State.put_good)

theorem State.ldrReject_good (s : State) (d c : Nat) (h : s.Good cq) :
    (State.ldrReject s d c).Good cq := by
  unfold State.ldrReject
  repeat' (first
    | with_reducible assumption
    | with_reducible apply State.put_good)

theorem State.showGesso_good (s : State) (d c : Nat) (h : s.Good cq) :
    (State.showGesso s d c).Good cq := by
  unfold State.showGesso
  repeat' (first
    | with_reducible assumption
    | with_reducible apply State.put_good)

theorem State.loadBegin_good (s : State) (d c : Nat) (restore : Bool) (h : s.Good cq) :
    (State.loadBegin s d c restore).Good cq := by
  unfold State.loadBegin
  repeat' (first
    | with_reducible assumption
    | with_reducible apply State.put_good
    | with_reducible apply State.setLdrState_good
    | with_reducible apply State.setLdr_good
    | (with_reducible refine State.good_ite (fun _ => ?_) (fun _ => ?_)))

theorem State.startHeld_good (s : State) (d c : Nat) (h : s.Good cq) :
    (State.startHeld s d c).Good cq := by
  unfold State.startHeld
  repeat' (first
    | with_reducible assumption
    | with_reducible apply State.loadBegin_good
    | (with_reducible refine State.good_ite (fun _ => ?_) (fun _ => ?_)))

theorem State.ldrRowsWrite_good (s : State) (d c v : Nat) (h : s.Good cq) :
    (State.ldrRowsWrite s d c v).Good cq := by
  unfold State.ldrRowsWrite
  repeat' (first
    | with_reducible assumption
    | with_reducible apply State.ldrReject_good
    | with_reducible apply State.put_good
    | with_reducible apply State.setLdrState_good
    | with_reducible apply State.setLdr_good
    | with_reducible apply State.showGesso_good
    | with_reducible apply State.startHeld_good
    | (with_reducible refine State.good_ite (fun _ => ?_) (fun _ => ?_)))

theorem State.gessoEnd_good (s : State) (d c : Nat) (h : s.Good cq) :
    (State.gessoEnd s d c).Good cq := by
  unfold State.gessoEnd
  repeat' (first
    | with_reducible assumption
    | with_reducible apply State.setLdrState_good
    | with_reducible apply State.showGesso_good
    | with_reducible apply State.startHeld_good
    | (extract_lets +onlyGivenNames z; with_reducible apply State.good_cut (cq := cq) (s := z); rotate_left; clear_value z; intro hz; rotate_right; subst z)
    | split)

theorem State.gessoComplete_good (s : State) (p : Nat) (h : s.Good cq) :
    (State.gessoComplete s p).Good cq := by
  unfold State.gessoComplete
  repeat' (first
    | with_reducible assumption
    | with_reducible apply State.gessoEnd_good
    | with_reducible apply State.mapTile_good
    | (extract_lets +onlyGivenNames z; with_reducible apply State.good_cut (cq := cq) (s := z); rotate_left; clear_value z; intro hz; rotate_right; subst z)
    | with_reducible apply Tile.gessoDone_ok
    | split)

theorem State.slotRead_good (s : State) (d c k off n : Nat) (h : s.Good cq) :
    (State.slotRead s d c k off n).2.Good cq := by
  unfold State.slotRead
  repeat' (first
    | with_reducible assumption
    | with_reducible apply State.hbmReadSegs_good
    | extract_lets +onlyGivenNames z
    | split
    | with_reducible refine State.good_trd (by assumption) ?_)

theorem State.areaRead_good (s : State) (d c off n : Nat) (h : s.Good cq) :
    (State.areaRead s d c off n).2.Good cq := by
  unfold State.areaRead
  repeat' (first
    | with_reducible assumption
    | with_reducible apply State.stageRead_good
    | extract_lets +onlyGivenNames z
    | split
    | with_reducible refine State.good_trd (by assumption) ?_)

theorem loadThen_good (r : LoadStep) (f : State → LoadStep) (hf : ∀ z0, State.Good z0 cq → State.Good (f z0).1 cq) (hr : r.1.Good cq) :
    (loadThen r f).1.Good cq := by
  unfold loadThen
  repeat' (first
    | with_reducible assumption
    | with_reducible apply hf
    | split)

theorem loadEach_good (f : State → Nat → LoadStep) (r0 : List Nat) (r1 : State) (hf : ∀ z0 z1, State.Good z0 cq → State.Good (f z0 z1).1 cq) (h : r1.Good cq) :
    (loadEach f r0 r1).1.Good cq := by
  induction r0 generalizing r1 with
  | nil =>
    unfold loadEach
    repeat' (first
      | with_reducible assumption
      | with_reducible apply hf
      | with_reducible apply loadThen_good)
  | cons e r0 ih =>
    unfold loadEach
    repeat' (first
      | with_reducible assumption
      | with_reducible apply ih
      | with_reducible apply hf
      | with_reducible apply loadThen_good)

theorem State.loadSection_good (s : State) (l : Load) (e : Nat) (h : s.Good cq) :
    (State.loadSection s l e).1.Good cq := by
  unfold State.loadSection
  repeat' (first
    | with_reducible assumption
    | refine fun _ => ?_
    | with_reducible apply State.onTileLow_good
    | with_reducible apply State.dieEvent_good
    | with_reducible apply State.good_foldl
    | with_reducible apply TW.loaderWrite_ok
    | split)

theorem State.relocTile_good (s : State) (l : Load) (e p : Nat) (h : s.Good cq) :
    (State.relocTile s l e p).1.Good cq := by
  unfold State.relocTile
  repeat' (first
    | with_reducible assumption
    | refine fun _ => ?_
    | with_reducible apply State.onTileLow_good
    | with_reducible apply State.dieEvent_good
    | extract_lets +onlyGivenNames z
    | with_reducible apply TW.loaderWrite_ok
    | split)

theorem State.loadReloc_good (s : State) (l : Load) (e : Nat) (h : s.Good cq) :
    (State.loadReloc s l e).1.Good cq := by
  unfold State.loadReloc
  repeat' (first
    | with_reducible assumption
    | refine fun _ => ?_
    | with_reducible apply State.relocTile_good
    | with_reducible apply loadEach_good
    | split)

theorem State.partTile_good (s : State) (cyc k : Nat) (v : Word) (p : Nat) (h : s.Good cq) :
    (State.partTile s cyc k v p).1.Good cq := by
  unfold State.partTile
  repeat' (first
    | with_reducible assumption
    | refine fun _ => ?_
    | with_reducible apply State.onTileLow_good
    | with_reducible apply TW.partWrite_ok
    | split)

theorem State.loadPart_good (s : State) (l : Load) (cyc e : Nat) (h : s.Good cq) :
    (State.loadPart s l cyc e).1.Good cq := by
  unfold State.loadPart
  repeat' (first
    | with_reducible assumption
    | refine fun _ => ?_
    | with_reducible apply State.partTile_good
    | with_reducible apply loadEach_good
    | extract_lets +onlyGivenNames z
    | split)

theorem State.loadEntry_good (s : State) (l : Load) (e : Nat) (h : s.Good cq) :
    (State.loadEntry s l e).1.Good cq := by
  unfold State.loadEntry
  repeat' (first
    | with_reducible assumption
    | refine fun _ => ?_
    | with_reducible apply State.mapTile_good
    | extract_lets +onlyGivenNames z
    | with_reducible apply State.good_foldl
    | with_reducible apply Tile.put_ok
    | split)

theorem State.writeCounter_good (s : State) (l : Load) (all : List (Nat × Nat)) (e i : Nat) (h : s.Good cq) :
    (State.writeCounter s l all e i).Good cq := by
  unfold State.writeCounter
  repeat' (first
    | with_reducible assumption
    | with_reducible apply State.put_good)

theorem State.bindOne_good (s : State) (l : Load) (cyc e i : Nat) (h : s.Good cq) :
    (State.bindOne s l cyc e i).1.Good cq := by
  unfold State.bindOne
  repeat' (first
    | with_reducible assumption
    | with_reducible apply State.bind_good)

theorem State.loadCounters_good (s : State) (l : Load) (cyc : Nat) (h : s.Good cq) :
    (State.loadCounters s l cyc).1.Good cq := by
  unfold State.loadCounters
  repeat' (first
    | with_reducible assumption
    | refine fun _ => ?_
    | with_reducible apply State.bindOne_good
    | with_reducible apply State.writeCounter_good
    | with_reducible apply loadThen_good
    | extract_lets +onlyGivenNames z
    | with_reducible apply State.good_foldl
    | with_reducible apply State.good_foldl_fst
    | split)

theorem State.copyImage_good (s : State) (l : Load) (h : s.Good cq) :
    (State.copyImage s l).1.Good cq := by
  unfold State.copyImage
  repeat' (first
    | with_reducible assumption
    | with_reducible apply State.mapVctx_good
    | with_reducible apply State.stageWrite_good
    | split)

theorem readImage_good (get : State → Nat → Nat → Option Nat × State) (check : State → Nat → Nat) (s : State) (hget : ∀ z0 z1 z2, State.Good z0 cq → State.Good (get z0 z1 z2).2 cq) (h : s.Good cq) :
    (readImage get check s).2.1.Good cq := by
  unfold readImage
  repeat' (first
    | with_reducible assumption
    | with_reducible apply hget
    | split
    | with_reducible refine State.good_snd (by assumption) ?_)

theorem readBind_good (get : State → Nat → Nat → Option Nat × State) (s : State) (hget : ∀ z0 z1 z2, State.Good z0 cq → State.Good (get z0 z1 z2).2 cq) (h : s.Good cq) :
    (readBind get s).2.1.Good cq := by
  unfold readBind
  repeat' (first
    | with_reducible assumption
    | with_reducible apply hget
    | split
    | with_reducible refine State.good_snd (by assumption) ?_)

theorem State.imgReader_good (s : State) (d c : Nat) (restore : Bool) (x : State) (o n : Nat) (h : x.Good cq) :
    (s.imgReader d c restore x o n).2.Good cq := by
  have e : s.imgReader d c restore x o n = x.areaRead d c o n ∨ s.imgReader d c restore x o n =
      x.slotRead d c (x.get (F.LDR_CTX_IMG.rgn d c)) (256 * x.get (F.LDR_CTX_IMG.off d c) + o) n := by
    unfold State.imgReader
    split
    · exact .inl rfl
    · exact .inr rfl
  rcases e with e | e <;> rw [e]
  · exact State.areaRead_good x d c o n h
  · exact State.slotRead_good x d c _ _ n h

theorem bindReader_good (d c img : Nat) (restore : Bool) (x : State) (o n : Nat) (h : x.Good cq) :
    (bindReader d c img restore x o n).2.Good cq := by
  have e : bindReader d c img restore x o n = x.areaRead d c (bindOff img + o) n ∨ bindReader d c img restore x o n =
      x.slotRead d c (x.get (F.LDR_CTX_BIND.rgn d c)) (256 * x.get (F.LDR_CTX_BIND.off d c) + o) n := by
    unfold bindReader
    split
    · exact .inl rfl
    · exact .inr rfl
  rcases e with e | e <;> rw [e]
  · exact State.areaRead_good x d c _ n h
  · exact State.slotRead_good x d c _ _ n h

theorem State.loadSteps_good (s : State) (l : Load) (cyc : Nat) (h : s.Good cq) :
    (State.loadSteps s l cyc).1.Good cq := by
  unfold State.loadSteps
  repeat' (first
    | with_reducible assumption
    | refine fun _ => ?_
    | with_reducible apply State.copyImage_good
    | with_reducible apply State.loadCounters_good
    | with_reducible apply State.loadEntry_good
    | with_reducible apply State.loadPart_good
    | with_reducible apply State.loadReloc_good
    | with_reducible apply State.loadSection_good
    | with_reducible apply loadEach_good
    | with_reducible apply loadThen_good)

theorem State.loadRun_good (s : State) (d c cyc : Nat) (restore : Bool) (h : s.Good cq) :
    (State.loadRun s d c cyc restore).1.Good cq := by
  unfold State.loadRun
  repeat' (first
    | with_reducible assumption
    | refine fun _ => ?_
    | with_reducible apply State.imgReader_good
    | with_reducible apply State.loadSteps_good
    | with_reducible apply State.mapTile_good
    | with_reducible apply State.setLdr_good
    | with_reducible apply bindReader_good
    | with_reducible apply readBind_good
    | with_reducible apply readImage_good
    | with_reducible apply State.good_foldl
    | (refine Tile.ok_lit ?_; dsimp only; exact Tile.Ok.maps (by assumption))
    | split
    | with_reducible refine State.good_mid (by assumption) ?_)

theorem State.load_good (s : State) (d c : Nat) (restore auto : Bool) (h : s.Good cq) :
    (State.load s d c restore auto).Good cq := by
  unfold State.load
  repeat' (first
    | with_reducible assumption
    | with_reducible apply State.ldrReject_good
    | with_reducible apply State.loadBegin_good
    | with_reducible apply State.setLdr_good
    | split)

theorem State.startTiles_good (s : State) (d c cyc : Nat) (h : s.Good cq) :
    (State.startTiles s d c cyc).Good cq := by
  unfold State.startTiles
  repeat' (first
    | with_reducible assumption
    | refine fun _ => ?_
    | with_reducible apply State.mapTile_good
    | with_reducible apply State.put_good
    | with_reducible apply State.setLdrState_good
    | with_reducible apply State.good_foldl
    | with_reducible apply Tile.start_ok)

theorem State.start_good (s : State) (d c cyc at_ : Nat) (h : s.Good cq) :
    (State.start s d c cyc at_).Good cq := by
  unfold State.start
  repeat' (first
    | with_reducible assumption
    | with_reducible apply State.mapVctx_good
    | with_reducible apply State.put_good
    | with_reducible apply State.reach_good
    | with_reducible apply State.skbLog_good
    | with_reducible apply State.startTiles_good
    | (with_reducible refine State.good_ite (fun _ => ?_) (fun _ => ?_)))

theorem State.loadFinish_good (s : State) (d c cyc at_ : Nat) (h : s.Good cq) :
    (State.loadFinish s d c cyc at_).Good cq := by
  unfold State.loadFinish
  repeat' (first
    | with_reducible assumption
    | with_reducible apply State.loadRun_good
    | with_reducible apply State.put_good
    | with_reducible apply State.setLdrState_good
    | with_reducible apply State.setLdr_good
    | with_reducible apply State.start_good
    | (with_reducible refine State.good_ite (fun _ => ?_) (fun _ => ?_)))

theorem State.penRing_good (s : State) (d : Nat) (v : Word) (h : s.Good cq) :
    (State.penRing s d v).Good cq := by
  unfold State.penRing
  repeat' (first
    | with_reducible assumption
    | with_reducible apply State.setWord_good)

end Sys2Proof.Machine
end

