-- ==== Sys2Proof/Laws/GoodVarnish.lean ====
section
/-! SUPPORT. Every function of Machine/Varnish.lean that answers a module keeps its maps canonical and its queue of commands. -/

namespace Sys2Proof.Machine

variable {cq : List Instr}

theorem State.dropCopies_good (s : State) (c seq : Nat) (h : s.Good cq) :
    (State.dropCopies s c seq).Good cq := by
  unfold State.dropCopies
  repeat' (first
    | with_reducible assumption
    | with_reducible apply State.mapVctx_good)

theorem State.snapshotDue_good (s : State) (c step : Nat) (h : s.Good cq) :
    (State.snapshotDue s c step).Good cq := by
  unfold State.snapshotDue
  repeat' (first
    | with_reducible assumption
    | refine fun _ => ?_
    | with_reducible apply State.add_good
    | with_reducible apply State.count_good
    | with_reducible apply State.mapVctx_good
    | with_reducible apply State.setSlotState_good
    | with_reducible apply State.mapSlot_good
    | with_reducible apply State.showNewest_good
    | with_reducible apply State.onTileLow_good
    | with_reducible apply State.dropCopies_good
    | with_reducible apply TW.count_ok
    | with_reducible apply TW.ports_ok
    | with_reducible apply State.tile_ok
    | with_reducible apply TW.map_ok
    | with_reducible apply TW.Ok.tile
    | with_reducible apply State.good_foldl
    | with_reducible apply State.good_foldl_snd
    | with_reducible apply State.good_foldl_fst
    | (extract_lets +onlyGivenNames z; with_reducible apply State.good_cut (cq := cq) (s := z); rotate_left; clear_value z; intro hz; rotate_right; subst z)
    | extract_lets +onlyGivenNames z
    | (refine State.good_lit ?_; dsimp only; exact State.Good.maps (by assumption))
    | (refine Tile.ok_lit ?_; dsimp only; exact Tile.Ok.maps (by assumption))
    | (refine TW.ok_lit ?_; dsimp only)
    | with_reducible refine State.good_snd (by assumption) ?_
    | with_reducible refine State.good_trd (by assumption) ?_
    | with_reducible refine State.good_fst (by assumption) ?_
    | split)

theorem State.bulkRead_good (s : State) (c d : Nat) (b : Bulk) (h : s.Good cq) :
    (State.bulkRead s c d b).2.2.Good cq := by
  unfold State.bulkRead
  repeat' (first
    | with_reducible assumption
    | refine fun _ => ?_
    | with_reducible apply State.hbmReadSegs_good
    | with_reducible apply State.tile_ok
    | (extract_lets +onlyGivenNames z; with_reducible apply State.good_cut (cq := cq) (s := z); rotate_left; clear_value z; intro hz; rotate_right; subst z)
    | extract_lets +onlyGivenNames z
    | with_reducible refine State.good_snd (by assumption) ?_
    | with_reducible refine State.good_trd (by assumption) ?_
    | with_reducible refine State.good_fst (by assumption) ?_
    | split)

theorem State.takeBitmap_good (s : State) (c d k n : Nat) (h : s.Good cq) :
    (State.takeBitmap s c d k n).2.Good cq := by
  unfold State.takeBitmap
  repeat' (first
    | with_reducible assumption
    | with_reducible apply State.hbmReadSegs_good
    | with_reducible apply State.hbmWrite_good
    | extract_lets +onlyGivenNames z
    | split)

theorem State.captureDie_good (s : State) (c d : Nat) (x : Section) (h : s.Good cq) :
    (State.captureDie s c d x).2.Good cq := by
  unfold State.captureDie
  repeat' (first
    | with_reducible assumption
    | refine fun _ => ?_
    | with_reducible apply State.bulkRead_good
    | with_reducible apply State.takeBitmap_good
    | with_reducible apply State.good_foldl_snd
    | split
    | with_reducible refine State.good_snd (by assumption) ?_
    | with_reducible refine State.good_trd (by assumption) ?_)

theorem State.imageRead_good (s : State) (c : Nat) (h : s.Good cq) :
    (State.imageRead s c).2.Good cq := by
  unfold State.imageRead
  repeat' (first
    | with_reducible assumption
    | refine fun _ => ?_
    | with_reducible apply State.stageRead_good
    | with_reducible apply State.good_foldl
    | with_reducible apply State.good_foldl_snd
    | with_reducible apply State.good_foldl_fst
    | (extract_lets +onlyGivenNames z; with_reducible apply State.good_cut (cq := cq) (s := z); rotate_left; clear_value z; intro hz; rotate_right; subst z)
    | extract_lets +onlyGivenNames z
    | with_reducible refine State.good_snd (by assumption) ?_
    | with_reducible refine State.good_trd (by assumption) ?_
    | with_reducible refine State.good_fst (by assumption) ?_
    | split)

theorem State.giveOp_good (s : State) (c : Nat) (y : VrnCopy) (o : VrnOp) (at_ cyc : Nat) (h : s.Good cq) :
    (State.giveOp s c y o at_ cyc).Good cq := by
  unfold State.giveOp
  repeat' (first
    | with_reducible assumption
    | with_reducible apply State.mapFlow_good
    | with_reducible apply State.serveWaiting_good
    | with_reducible apply State.unitDone_good
    | (with_reducible refine State.good_ite (fun _ => ?_) (fun _ => ?_)))

theorem State.startCopy_good (s : State) (c : Nat) (y : VrnCopy) (at_ cyc : Nat) (h : s.Good cq) :
    (State.startCopy s c y at_ cyc).Good cq := by
  unfold State.startCopy
  repeat' (first
    | with_reducible assumption
    | refine fun _ => ?_
    | with_reducible apply State.ctrl_good
    | with_reducible apply State.endCopy_good
    | with_reducible apply State.giveOp_good
    | with_reducible apply State.mapVctx_good
    | with_reducible apply State.good_foldl)

theorem State.startCopies_good (s : State) (c at_ cyc : Nat) (h : s.Good cq) :
    (State.startCopies s c at_ cyc).Good cq := by
  unfold State.startCopies
  repeat' (first
    | with_reducible assumption
    | refine fun _ => ?_
    | with_reducible apply State.startCopy_good
    | with_reducible apply State.good_foldl
    | split)

theorem State.startAllCopies_good (s : State) (at_ cyc : Nat) (h : s.Good cq) :
    (State.startAllCopies s at_ cyc).Good cq := by
  unfold State.startAllCopies
  repeat' (first
    | with_reducible assumption
    | refine fun _ => ?_
    | with_reducible apply State.startCopies_good
    | with_reducible apply State.good_foldl)

theorem State.checkComplete_good (s : State) (c seq : Nat) (h : s.Good cq) :
    (State.checkComplete s c seq).Good cq := by
  unfold State.checkComplete
  repeat' (first
    | with_reducible assumption
    | with_reducible apply State.add_good
    | with_reducible apply State.setSlotState_good
    | with_reducible apply State.showNewest_good
    | split)

theorem State.freeRows_good (s : State) (c : Nat) (h : s.Good cq) :
    (State.freeRows s c).Good cq := by
  unfold State.freeRows
  repeat' (first
    | with_reducible assumption
    | refine fun _ => ?_
    | with_reducible apply State.mapTile_good
    | with_reducible apply State.tile_ok
    | (refine State.good_lit ?_; dsimp only; exact State.Good.maps (by assumption))
    | (refine Tile.ok_lit ?_; dsimp only; exact Tile.Ok.maps (by assumption))
    | with_reducible apply State.good_foldl
    | with_reducible apply State.good_foldl_snd
    | with_reducible apply State.good_foldl_fst)

theorem State.readRows_good (s : State) (c cyc : Nat) (h : s.Good cq) :
    (State.readRows s c cyc).Good cq := by
  unfold State.readRows
  repeat' (first
    | with_reducible assumption
    | refine fun _ => ?_
    | with_reducible apply State.onTileLow_good
    | with_reducible apply TW.ports_ok
    | with_reducible apply TW.vrnWait_ok
    | with_reducible apply State.tile_ok
    | (refine TW.ok_lit ?_; dsimp only)
    | with_reducible apply State.good_foldl)

theorem State.writePart_good (s : State) (c d k : Nat) (l : List Captured) (h : s.Good cq) :
    (State.writePart s c d k l).Good cq := by
  unfold State.writePart
  repeat' (first
    | with_reducible assumption
    | refine fun _ => ?_
    | with_reducible apply State.mapSlot_good
    | with_reducible apply State.setSlotState_good
    | with_reducible apply State.stageWrite_good
    | with_reducible apply State.good_foldl
    | (with_reducible refine State.good_ite (fun _ => ?_) (fun _ => ?_)))

theorem State.localCopyDone_good (s : State) (c at_ cyc : Nat) (h : s.Good cq) :
    (State.localCopyDone s c at_ cyc).Good cq := by
  unfold State.localCopyDone
  repeat' (first
    | with_reducible assumption
    | refine fun _ => ?_
    | with_reducible apply State.captureDie_good
    | with_reducible apply State.checkComplete_good
    | with_reducible apply State.count_good
    | with_reducible apply State.freeRows_good
    | with_reducible apply State.mapVctx_good
    | with_reducible apply State.reach_good
    | with_reducible apply State.setSlotState_good
    | with_reducible apply State.showNewest_good
    | with_reducible apply State.skbLog_good
    | with_reducible apply State.startCopies_good
    | with_reducible apply State.unitInc_good
    | with_reducible apply State.writePart_good
    | with_reducible apply State.readRows_good
    | with_reducible apply State.imageRead_good
    | with_reducible apply State.good_foldl
    | with_reducible apply State.good_foldl_snd
    | (with_reducible refine State.good_snd (by assumption) ?_)
    | split
    | (refine State.good_lit ?_; dsimp only; refine State.Good.maps ?_))

theorem State.stageZero_good (s : State) (c k : Nat) (h : s.Good cq) :
    (State.stageZero s c k).Good cq := by
  unfold State.stageZero
  repeat' (first
    | with_reducible assumption
    | refine fun _ => ?_
    | with_reducible apply State.hbmZero_good
    | with_reducible apply State.good_foldl)

theorem State.stageCopy_good (s : State) (c from_ to_ : Nat) (h : s.Good cq) :
    (State.stageCopy s c from_ to_).Good cq := by
  unfold State.stageCopy
  repeat' (first
    | with_reducible assumption
    | refine fun _ => ?_
    | with_reducible apply State.stageRead_good
    | with_reducible apply State.stageWrite_good
    | with_reducible apply State.good_foldl)

theorem State.beginSlot_good (s : State) (c k seq : Nat) (parity : Bool) (h : s.Good cq) :
    (State.beginSlot s c k seq parity).Good cq := by
  unfold State.beginSlot
  repeat' (first
    | with_reducible assumption
    | with_reducible apply State.mapSlot_good
    | with_reducible apply State.mapVctx_good
    | with_reducible apply State.setSlotState_good)

theorem State.fillBegin_good (s : State) (c n seq : Nat) (image parity : Bool) (h : s.Good cq) :
    (State.fillBegin s c n seq image parity).Good cq := by
  unfold State.fillBegin
  repeat' (first
    | with_reducible assumption
    | with_reducible apply State.beginSlot_good
    | with_reducible apply State.mapVctx_good
    | with_reducible apply State.stageZero_good
    | split)

theorem State.snapBegin_good (s : State) (h : s.Good cq) :
    (State.snapBegin s).Good cq := by
  unfold State.snapBegin
  repeat' (first
    | with_reducible assumption
    | with_reducible apply State.beginSlot_good
    | with_reducible apply State.fillBegin_good
    | with_reducible apply State.mapSlot_good
    | with_reducible apply State.mapVctx_good
    | with_reducible apply State.stageCopy_good
    | with_reducible apply State.stageZero_good
    | (extract_lets +onlyGivenNames z; with_reducible apply State.good_cut (cq := cq) (s := z); rotate_left; clear_value z; intro hz; rotate_right; subst z)
    | extract_lets +onlyGivenNames z
    | with_reducible refine State.popCtrl_good (by assumption) ?_
    | split
    | (clear_value *; split))

theorem State.sectionAt_good (s : State) (c k : Nat) (h : s.Good cq) :
    (State.sectionAt s c k).2.Good cq := by
  unfold State.sectionAt
  repeat' (first
    | with_reducible assumption
    | with_reducible apply State.stageRead_good
    | (extract_lets +onlyGivenNames z; with_reducible apply State.good_cut (cq := cq) (s := z); rotate_left; clear_value z; intro hz; rotate_right; subst z)
    | extract_lets +onlyGivenNames z
    | with_reducible refine State.good_snd (by assumption) ?_
    | with_reducible refine State.good_trd (by assumption) ?_
    | with_reducible refine State.good_fst (by assumption) ?_
    | split)

theorem State.holdCopy_good (s : State) (c : Nat) (y : VrnIn) (h : s.Good cq) :
    (State.holdCopy s c y).Good cq := by
  unfold State.holdCopy
  repeat' (first
    | with_reducible assumption
    | refine fun _ => ?_
    | with_reducible apply State.mapVctx_good
    | with_reducible apply State.setSlotState_good
    | with_reducible apply State.mapSlot_good
    | with_reducible apply State.showNewest_good
    | with_reducible apply State.sectionAt_good
    | (extract_lets +onlyGivenNames z; with_reducible apply State.good_cut (cq := cq) (s := z); rotate_left; clear_value z; intro hz; rotate_right; subst z)
    | extract_lets +onlyGivenNames z
    | (refine State.good_lit ?_; dsimp only; exact State.Good.maps (by assumption))
    | with_reducible refine State.good_snd (by assumption) ?_
    | with_reducible refine State.good_fst (by assumption) ?_
    | split)

theorem State.snapEnd_good (s : State) (h : s.Good cq) :
    (State.snapEnd s).Good cq := by
  unfold State.snapEnd
  repeat' (first
    | with_reducible assumption
    | with_reducible apply State.ctrl_good
    | with_reducible apply State.holdCopy_good
    | with_reducible apply State.mapVctx_good
    | with_reducible apply State.setSlotState_good
    | extract_lets +onlyGivenNames z
    | with_reducible refine State.popCtrl_good (by assumption) ?_
    | split)

theorem State.snapAck_good (s : State) (at_ cyc : Nat) (h : s.Good cq) :
    (State.snapAck s at_ cyc).Good cq := by
  unfold State.snapAck
  repeat' (first
    | with_reducible assumption
    | with_reducible apply State.checkComplete_good
    | with_reducible apply State.mapVctx_good
    | with_reducible apply State.reach_good
    | with_reducible apply State.startCopies_good
    | extract_lets +onlyGivenNames z
    | with_reducible refine State.popCtrl_good (by assumption) ?_
    | split)

theorem State.openBuddy_good (s : State) (c : Nat) (h : s.Good cq) :
    (State.openBuddy s c).Good cq := by
  unfold State.openBuddy
  repeat' (first
    | with_reducible assumption
    | refine fun _ => ?_
    | with_reducible apply State.vrnCredit_good
    | with_reducible apply State.good_foldl
    | (with_reducible refine State.good_ite (fun _ => ?_) (fun _ => ?_)))

theorem State.vrnRegWrite_good (s : State) (c off : Nat) (m v : Word) (h : s.Good cq) :
    (State.vrnRegWrite s c off m v).Good cq := by
  unfold State.vrnRegWrite
  repeat' (first
    | with_reducible assumption
    | with_reducible apply State.openBuddy_good
    | with_reducible apply State.put_good
    | with_reducible apply State.setWord_good
    | (with_reducible refine State.good_ite (fun _ => ?_) (fun _ => ?_)))

theorem State.setSpan_good (s : State) (c : Nat) (l : List (List Nat)) (h : s.Good cq) :
    (State.setSpan s c l).Good cq := by
  unfold State.setSpan
  repeat' (first
    | with_reducible assumption
    | (refine State.good_lit ?_; dsimp only; exact State.Good.maps (by assumption)))

theorem State.fillCursor_good (s : State) (c step id batch pos : Nat) (h : s.Good cq) :
    (State.fillCursor s c step id batch pos).Good cq := by
  unfold State.fillCursor
  repeat' (first
    | with_reducible assumption
    | with_reducible apply State.put_good)

theorem State.takeCursor_good (s : State) (c step id : Nat) (h : s.Good cq) :
    (State.takeCursor s c step id).2.Good cq := by
  unfold State.takeCursor
  repeat' (first
    | with_reducible assumption
    | with_reducible apply State.count_good
    | with_reducible apply State.put_good
    | extract_lets +onlyGivenNames z
    | split)

theorem State.skbUnit_good (s : State) (c at_ step phase id unit : Nat) (h : s.Good cq) :
    (State.skbUnit s c at_ step phase id unit).Good cq := by
  unfold State.skbUnit
  repeat' (first
    | with_reducible assumption
    | with_reducible apply State.count_good
    | with_reducible apply State.fillCursor_good
    | with_reducible apply State.put_good
    | with_reducible apply State.setSpan_good
    | with_reducible apply State.skbLog_good
    | with_reducible apply State.takeCursor_good
    | split
    | (clear_value *; split))

theorem State.cursorWrite_good (s : State) (c off : Nat) (m v : Word) (h : s.Good cq) :
    (State.cursorWrite s c off m v).Good cq := by
  unfold State.cursorWrite
  repeat' (first
    | with_reducible assumption
    | with_reducible apply State.put_good
    | with_reducible apply State.setWord_good
    | (with_reducible refine State.good_ite (fun _ => ?_) (fun _ => ?_)))

theorem State.logIn_good (s : State) (h : s.Good cq) :
    (State.logIn s).Good cq := by
  unfold State.logIn
  repeat' (first
    | with_reducible assumption
    | with_reducible apply State.add_good
    | with_reducible apply State.ctrl_good
    | with_reducible apply State.put_good
    | with_reducible apply State.skbPut_good
    | extract_lets +onlyGivenNames z
    | with_reducible refine State.popCtrl_good (by assumption) ?_
    | split)

theorem State.logAck_good (s : State) (h : s.Good cq) :
    (State.logAck s).Good cq := by
  unfold State.logAck
  split
  · exact h
  · next e => exact State.good_lit (State.popCtrl_good e h).maps

theorem State.mirrorLag_good (s : State) (at_ : Nat) (h : s.Good cq) :
    (State.mirrorLag s at_).Good cq := by
  unfold State.mirrorLag
  repeat' (first
    | with_reducible assumption
    | refine fun _ => ?_
    | with_reducible apply State.count_good
    | with_reducible apply State.ctrl_good
    | with_reducible apply State.reach_good
    | with_reducible apply State.skbGet_good
    | (extract_lets +onlyGivenNames z; with_reducible apply State.good_cut (cq := cq) (s := z); rotate_left; clear_value z; intro hz; rotate_right; subst z)
    | with_reducible apply State.good_foldl
    | (refine State.good_lit ?_; dsimp only; exact State.Good.maps (by assumption))
    | split
    | with_reducible refine State.good_snd (by assumption) ?_)

end Sys2Proof.Machine
end

