-- ==== Sys2Proof/Laws/GoodTraining.lean ====
section
/-! SUPPORT. Every function of Machine/Training.lean that answers a module keeps its maps canonical and its queue of commands. -/

namespace Sys2Proof.Machine

variable {cq : List Instr}

theorem State.setMbs_good (s : State) (c : Nat) (x : MbsSt) (h : s.Good cq) :
    (State.setMbs s c x).Good cq := by
  unfold State.setMbs
  repeat' (first
    | with_reducible assumption
    | (refine State.good_lit ?_; dsimp only; exact State.Good.maps (by assumption)))

theorem State.mbsUpdate_good (s : State) (c : Nat) (h : s.Good cq) :
    (State.mbsUpdate s c).Good cq := by
  unfold State.mbsUpdate
  repeat' (first
    | with_reducible assumption
    | with_reducible apply State.put_good
    | with_reducible apply State.setMbs_good
    | split)

theorem State.unitRelease_good (s : State) (c at_ cyc : Nat) (h : s.Good cq) :
    (State.unitRelease s c at_ cyc).Good cq := by
  unfold State.unitRelease
  repeat' (first
    | with_reducible assumption
    | with_reducible apply State.mbsHalt_good
    | with_reducible apply State.mbsUpdate_good
    | with_reducible apply State.put_good
    | with_reducible apply State.reach_good
    | with_reducible apply State.setMbs_good
    | with_reducible apply State.skbUnit_good
    | with_reducible apply State.unitInc_good
    | (with_reducible refine State.good_ite (fun _ => ?_) (fun _ => ?_)))

theorem State.openStep_good (s : State) (c : Nat) (h : s.Good cq) :
    (State.openStep s c).Good cq := by
  unfold State.openStep
  repeat' (first
    | with_reducible assumption
    | with_reducible apply State.setMbs_good)

theorem State.mbsOpen_good (s : State) (c : Nat) (h : s.Good cq) :
    (State.mbsOpen s c).Good cq := by
  unfold State.mbsOpen
  repeat' (first
    | with_reducible assumption
    | with_reducible apply State.openStep_good
    | (with_reducible refine State.good_ite (fun _ => ?_) (fun _ => ?_)))

theorem State.mbsReset_good (s : State) (c : Nat) (h : s.Good cq) :
    (State.mbsReset s c).Good cq := by
  unfold State.mbsReset
  repeat' (first
    | with_reducible assumption
    | with_reducible apply State.put_good
    | with_reducible apply State.setMbs_good
    | (extract_lets +onlyGivenNames z; have h0 : _ → _ → _ → State := z; clear h0; subst z; try dsimp -zeta only)
    | extract_lets +onlyGivenNames z
    | split)

theorem State.mbsEnable_good (s : State) (c : Nat) (v : Word) (h : s.Good cq) :
    (State.mbsEnable s c v).Good cq := by
  unfold State.mbsEnable
  repeat' (first
    | with_reducible assumption
    | with_reducible apply State.put_good
    | with_reducible apply State.setWord_good
    | (with_reducible refine State.good_ite (fun _ => ?_) (fun _ => ?_)))

theorem State.mbsDisable_good (s : State) (c : Nat) (v : Word) (h : s.Good cq) :
    (State.mbsDisable s c v).Good cq := by
  unfold State.mbsDisable
  repeat' (first
    | with_reducible assumption
    | with_reducible apply State.put_good
    | with_reducible apply State.setWord_good
    | (with_reducible refine State.good_ite (fun _ => ?_) (fun _ => ?_)))

theorem State.mbsRegWrite_good (s : State) (c off : Nat) (m v : Word) (h : s.Good cq) :
    (State.mbsRegWrite s c off m v).Good cq := by
  unfold State.mbsRegWrite
  repeat' (first
    | with_reducible assumption
    | with_reducible apply State.put_good
    | with_reducible apply State.setWord_good
    | (with_reducible refine State.good_ite (fun _ => ?_) (fun _ => ?_)))

theorem State.setEntry_good (s : State) (e : Nat) (ws : List Nat) (h : s.Good cq) :
    (State.setEntry s e ws).Good cq := by
  unfold State.setEntry
  repeat' (first
    | with_reducible assumption
    | (refine State.good_lit ?_; dsimp only; exact State.Good.maps (by assumption)))

theorem State.watchDelivery_good (s : State) (h : s.Good cq) :
    (State.watchDelivery s).Good cq := by
  unfold State.watchDelivery
  repeat' (first
    | with_reducible assumption
    | with_reducible apply State.count_good
    | with_reducible apply State.setEntry_good
    | (extract_lets +onlyGivenNames z; with_reducible apply State.good_cut (cq := cq) (s := z); rotate_left; clear_value z; intro hz; rotate_right; subst z)
    | extract_lets +onlyGivenNames z
    | (refine State.good_lit ?_; dsimp only; exact State.Good.maps (by assumption))
    | split)

theorem State.watchClose_good (s : State) (c step : Nat) (h : s.Good cq) :
    (State.watchClose s c step).Good cq := by
  unfold State.watchClose
  repeat' (first
    | with_reducible assumption
    | refine fun _ => ?_
    | with_reducible apply State.count_good
    | with_reducible apply State.put_good
    | with_reducible apply State.setEntry_good
    | with_reducible apply State.good_foldl
    | (with_reducible refine State.good_ite (fun _ => ?_) (fun _ => ?_)))

theorem State.watchCloseWrite_good (s : State) (c : Nat) (h : s.Good cq) :
    (State.watchCloseWrite s c).Good cq := by
  unfold State.watchCloseWrite
  repeat' (first
    | with_reducible assumption
    | with_reducible apply State.watchClose_good)

theorem State.wchWrite_good (s : State) (c : Nat) (v : Word) (h : s.Good cq) :
    (State.wchWrite s c v).Good cq := by
  unfold State.wchWrite
  repeat' (first
    | with_reducible assumption
    | with_reducible apply State.put_good
    | with_reducible apply State.setWord_good
    | with_reducible apply State.watchCloseWrite_good
    | (with_reducible refine State.good_ite (fun _ => ?_) (fun _ => ?_)))

theorem State.wchBandWrite_good (s : State) (c : Nat) (m v : Word) (h : s.Good cq) :
    (State.wchBandWrite s c m v).Good cq := by
  unfold State.wchBandWrite
  repeat' (first
    | with_reducible assumption
    | with_reducible apply State.put_good
    | with_reducible apply State.setWord_good
    | (with_reducible refine State.good_ite (fun _ => ?_) (fun _ => ?_)))

theorem State.wchRead_good (s : State) (h : s.Good cq) :
    (State.wchRead s).Good cq := by
  unfold State.wchRead
  repeat' (first
    | with_reducible assumption
    | refine fun _ => ?_
    | with_reducible apply State.put_good
    | with_reducible apply State.good_foldl)

theorem State.wchAccWrite_good (s : State) (h : s.Good cq) :
    (State.wchAccWrite s).Good cq := by
  unfold State.wchAccWrite
  repeat' (first
    | with_reducible assumption
    | refine fun _ => ?_
    | with_reducible apply State.put_good
    | with_reducible apply State.setEntry_good
    | with_reducible apply State.good_foldl
    | (with_reducible refine State.good_ite (fun _ => ?_) (fun _ => ?_)))

theorem State.stepClose_good (s : State) (c at_ : Nat) (h : s.Good cq) :
    (State.stepClose s c at_).Good cq := by
  unfold State.stepClose
  repeat' (first
    | with_reducible assumption
    | with_reducible apply State.mbsHalt_good
    | with_reducible apply State.mbsUpdate_good
    | with_reducible apply State.openStep_good
    | with_reducible apply State.put_good
    | with_reducible apply State.reach_good
    | with_reducible apply State.setMbs_good
    | with_reducible apply State.snapshotDue_good
    | with_reducible apply State.watchClose_good
    | (with_reducible refine State.good_ite (fun _ => ?_) (fun _ => ?_)))

theorem State.exportStart_good (s : State) (x : Nat) (v : Word) (at_ cyc : Nat) (h : s.Good cq) :
    (State.exportStart s x v at_ cyc).Good cq := by
  unfold State.exportStart
  repeat' (first
    | with_reducible assumption
    | with_reducible apply State.channelEnd_good
    | with_reducible apply State.mapFlow_good
    | with_reducible apply State.put_good
    | with_reducible apply State.reach_good
    | with_reducible apply State.serveWaiting_good
    | with_reducible apply State.setPin_good
    | extract_lets +onlyGivenNames z
    | split)

theorem State.exportAbort_good (s : State) (x : Nat) (h : s.Good cq) :
    (State.exportAbort s x).Good cq := by
  unfold State.exportAbort
  repeat' (first
    | with_reducible assumption
    | with_reducible apply State.channelEnd_good
    | (with_reducible refine State.good_ite (fun _ => ?_) (fun _ => ?_)))

theorem State.exportDone_good (s : State) (x : Nat) (h : s.Good cq) :
    (State.exportDone s x).Good cq := by
  unfold State.exportDone
  repeat' (first
    | with_reducible assumption
    | with_reducible apply State.put_good
    | with_reducible apply State.add_good
    | with_reducible apply State.count_good
    | with_reducible apply State.post_good
    | with_reducible apply State.snapBytes_good
    | with_reducible apply State.channelEnd_good
    | with_reducible apply Tile.put_ok
    | with_reducible apply TW.put_ok
    | with_reducible apply TW.count_ok
    | (extract_lets +onlyGivenNames z; with_reducible apply State.good_cut (cq := cq) (s := z); rotate_left; clear_value z; intro hz; rotate_right; subst z)
    | extract_lets +onlyGivenNames z
    | with_reducible refine State.good_snd (by assumption) ?_
    | with_reducible refine State.good_trd (by assumption) ?_
    | with_reducible refine State.good_fst (by assumption) ?_
    | split)

theorem State.exportsEnd_good (s : State) (c st cause : Nat) (h : s.Good cq) :
    (State.exportsEnd s c st cause).Good cq := by
  unfold State.exportsEnd
  repeat' (first
    | with_reducible assumption
    | refine fun _ => ?_
    | with_reducible apply State.channelEnd_good
    | with_reducible apply State.good_foldl
    | (with_reducible refine State.good_ite (fun _ => ?_) (fun _ => ?_)))

end Sys2Proof.Machine
end

