-- ==== Sys2Proof/Laws/GoodRepair.lean ====
section
/-! SUPPORT. Every function of Machine/Repair.lean that answers a module keeps its maps canonical and its queue of commands. -/

namespace Sys2Proof.Machine

variable {cq : List Instr}

theorem State.lockViolation_good (s : State) (h : s.Good cq) :
    (State.lockViolation s).Good cq := by
  unfold State.lockViolation
  repeat' (first
    | with_reducible assumption
    | with_reducible apply State.errc_good)

theorem State.sendFail_good (s : State) (cause : Nat) (h : s.Good cq) :
    (State.sendFail s cause).Good cq := by
  unfold State.sendFail
  repeat' (first
    | with_reducible assumption
    | with_reducible apply State.ctrl_good
    | (with_reducible refine State.good_ite (fun _ => ?_) (fun _ => ?_)))

theorem State.holds_good (s : State) (p c : Nat) (h : s.Good cq) :
    (State.holds s p c).Good cq := by
  unfold State.holds
  repeat' (first
    | with_reducible assumption
    | (refine State.good_lit ?_; dsimp only; exact State.Good.maps (by assumption))
    | (with_reducible refine State.good_ite (fun _ => ?_) (fun _ => ?_)))

theorem State.mapHolds_good (s : State) (d r m : Nat) (h : s.Good cq) :
    (State.mapHolds s d r m).Good cq := by
  unfold State.mapHolds
  repeat' (first
    | with_reducible assumption
    | refine fun _ => ?_
    | with_reducible apply State.holds_good
    | with_reducible apply State.good_foldl
    | (extract_lets +onlyGivenNames z; with_reducible apply State.good_cut (cq := cq) (s := z); rotate_left; clear_value z; intro hz; rotate_right; subst z)
    | extract_lets +onlyGivenNames z
    | with_reducible refine State.good_snd (by assumption) ?_
    | with_reducible refine State.good_fst (by assumption) ?_
    | split)

theorem State.applyMap_good (s : State) (d r m : Nat) (h : s.Good cq) :
    (State.applyMap s d r m).Good cq := by
  unfold State.applyMap
  repeat' (first
    | with_reducible assumption
    | refine fun _ => ?_
    | with_reducible apply State.put_good
    | with_reducible apply State.setWord_good
    | with_reducible apply State.mapTile_good
    | with_reducible apply State.mapHolds_good
    | with_reducible apply Tile.put_ok
    | with_reducible apply TW.put_ok
    | with_reducible apply State.tile_ok
    | with_reducible apply State.good_foldl
    | with_reducible apply State.good_foldl_snd
    | with_reducible apply State.good_foldl_fst
    | (extract_lets +onlyGivenNames z; with_reducible apply State.good_cut (cq := cq) (s := z); rotate_left; clear_value z; intro hz; rotate_right; subst z)
    | extract_lets +onlyGivenNames z
    | (with_reducible refine State.good_ite (fun _ => ?_) (fun _ => ?_)))

theorem State.stageMapAt_good (s : State) (d r m cyc : Nat) (h : s.Good cq) :
    (State.stageMapAt s d r m cyc).Good cq := by
  unfold State.stageMapAt
  repeat' (first
    | with_reducible assumption
    | with_reducible apply State.put_good
    | with_reducible apply State.setWord_good
    | with_reducible apply State.applyMap_good
    | with_reducible apply Tile.put_ok
    | with_reducible apply TW.put_ok
    | (extract_lets +onlyGivenNames z; with_reducible apply State.good_cut (cq := cq) (s := z); rotate_left; clear_value z; intro hz; rotate_right; subst z)
    | extract_lets +onlyGivenNames z
    | (refine State.good_lit ?_; dsimp only; exact State.Good.maps (by assumption))
    | split)

theorem State.stageMap_good (s : State) (d r m : Nat) (h : s.Good cq) :
    (State.stageMap s d r m).Good cq := by
  unfold State.stageMap
  repeat' (first
    | with_reducible assumption
    | with_reducible apply State.stageMapAt_good)

theorem State.applyStaged_good (s : State) (d rows : Nat) (ok : Nat → Bool) (h : s.Good cq) :
    (State.applyStaged s d rows ok).Good cq := by
  unfold State.applyStaged
  repeat' (first
    | with_reducible assumption
    | refine fun _ => ?_
    | with_reducible apply State.applyMap_good
    | with_reducible apply State.good_foldl)

theorem State.tmapNextWrite_good (s : State) (d r : Nat) (m v : Word) (cyc : Nat) (h : s.Good cq) :
    (State.tmapNextWrite s d r m v cyc).Good cq := by
  unfold State.tmapNextWrite
  repeat' (first
    | with_reducible assumption
    | with_reducible apply State.lockViolation_good
    | with_reducible apply State.stageMapAt_good
    | split)

theorem State.ringEntry_good (s : State) (i : Nat) (h : s.Good cq) :
    (State.ringEntry s i).Good cq := by
  unfold State.ringEntry
  repeat' (first
    | with_reducible assumption
    | with_reducible apply State.add_good
    | with_reducible apply State.errc_good
    | with_reducible apply State.post_good
    | with_reducible apply State.put_good
    | (with_reducible refine State.good_ite (fun _ => ?_) (fun _ => ?_)))

theorem State.ringDoorbell_good (s : State) (i : Nat) (h : s.Good cq) :
    (State.ringDoorbell s i).Good cq := by
  unfold State.ringDoorbell
  repeat' (first
    | with_reducible assumption
    | with_reducible apply State.msix_good
    | with_reducible apply State.put_good
    | with_reducible apply State.ringEntry_good
    | (extract_lets +onlyGivenNames z; with_reducible apply State.good_cut (cq := cq) (s := z); rotate_left; clear_value z; intro hz; rotate_right; subst z)
    | (refine State.good_lit ?_; dsimp only; exact State.Good.maps (by assumption))
    | (with_reducible refine State.good_ite (fun _ => ?_) (fun _ => ?_)))

theorem State.checkDoorbell_good (s : State) (i : Nat) (h : s.Good cq) :
    (State.checkDoorbell s i).Good cq := by
  unfold State.checkDoorbell
  repeat' (first
    | with_reducible assumption
    | with_reducible apply State.ringDoorbell_good
    | (with_reducible refine State.good_ite (fun _ => ?_) (fun _ => ?_)))

theorem State.errcUpdate_good (s : State) (h : s.Good cq) :
    (State.errcUpdate s).Good cq := by
  unfold State.errcUpdate
  repeat' (first
    | with_reducible assumption
    | with_reducible apply State.add_good
    | with_reducible apply State.checkDoorbell_good
    | (refine State.good_lit ?_; dsimp only; exact State.Good.maps (by assumption))
    | split)

theorem State.thrArm_good (s : State) (i : Nat) (v : Word) (h : s.Good cq) :
    (State.thrArm s i v).Good cq := by
  unfold State.thrArm
  repeat' (first
    | with_reducible assumption
    | with_reducible apply State.checkDoorbell_good
    | with_reducible apply State.setWord_good)

theorem State.dbaddrWrite_good (s : State) (v : Word) (h : s.Good cq) :
    (State.dbaddrWrite s v).Good cq := by
  unfold State.dbaddrWrite
  repeat' (first
    | with_reducible assumption
    | with_reducible apply State.setWord_good)

theorem State.dbcfgWrite_good (s : State) (v : Word) (h : s.Good cq) :
    (State.dbcfgWrite s v).Good cq := by
  unfold State.dbcfgWrite
  repeat' (first
    | with_reducible assumption
    | with_reducible apply State.setWord_good)

theorem State.showClock_good (s : State) (d : Nat) (h : s.Good cq) :
    (State.showClock s d).Good cq := by
  unfold State.showClock
  repeat' (first
    | with_reducible assumption
    | with_reducible apply State.put_good
    | split)

theorem State.setCeiling_good (s : State) (d : Nat) (h : s.Good cq) :
    (State.setCeiling s d).Good cq := by
  unfold State.setCeiling
  repeat' (first
    | with_reducible assumption
    | with_reducible apply State.put_good
    | with_reducible apply State.settleLoss_good
    | with_reducible apply State.showClock_good
    | with_reducible apply Tile.put_ok
    | with_reducible apply TW.put_ok
    | (extract_lets +onlyGivenNames z; with_reducible apply State.good_cut (cq := cq) (s := z); rotate_left; clear_value z; intro hz; rotate_right; subst z)
    | extract_lets +onlyGivenNames z
    | (with_reducible refine State.good_ite (fun _ => ?_) (fun _ => ?_)))

theorem State.marginWrite_good (s : State) (d : Nat) (m v : Word) (h : s.Good cq) :
    (State.marginWrite s d m v).Good cq := by
  unfold State.marginWrite
  repeat' (first
    | with_reducible assumption
    | with_reducible apply State.lockViolation_good
    | with_reducible apply State.put_good
    | with_reducible apply State.setCeiling_good
    | (with_reducible refine State.good_ite (fun _ => ?_) (fun _ => ?_)))

theorem State.marginStep_good {s u : State} {d : Nat} (e : s.marginStep d = some u) (h : s.Good cq) : u.Good cq := by
  unfold State.marginStep at e
  dsimp only at e
  repeat' split at e
  all_goals cases e
  all_goals repeat' (first
    | with_reducible assumption
    | with_reducible apply State.errc_good
    | with_reducible apply State.setCeiling_good
    | with_reducible apply State.put_good)

theorem State.setAudit_good (s : State) (d r : Nat) (a : Audit) (h : s.Good cq) :
    (State.setAudit s d r a).Good cq := by
  unfold State.setAudit
  repeat' (first
    | with_reducible assumption
    | (refine State.good_lit ?_; dsimp only; exact State.Good.maps (by assumption)))

theorem State.setScan_good (s : State) (d : Nat) (x : Scan) (h : s.Good cq) :
    (State.setScan s d x).Good cq := by
  unfold State.setScan
  repeat' (first
    | with_reducible assumption
    | (refine State.good_lit ?_; dsimp only; exact State.Good.maps (by assumption)))

theorem State.yieldAudit_good (s : State) (d r : Nat) (h : s.Good cq) :
    (State.yieldAudit s d r).Good cq := by
  unfold State.yieldAudit
  repeat' (first
    | with_reducible assumption
    | with_reducible apply State.setAudit_good
    | (extract_lets +onlyGivenNames z; with_reducible apply State.good_cut (cq := cq) (s := z); rotate_left; clear_value z; intro hz; rotate_right; subst z)
    | extract_lets +onlyGivenNames z
    | (refine State.good_lit ?_; dsimp only; exact State.Good.maps (by assumption))
    | (with_reducible refine State.good_ite (fun _ => ?_) (fun _ => ?_)))

theorem State.startMig_good (s : State) (x : Mig) (h : s.Good cq) :
    (State.startMig s x).Good cq := by
  unfold State.startMig
  repeat' (first
    | with_reducible assumption
    | with_reducible apply State.holds_good
    | with_reducible apply State.stageMap_good
    | (extract_lets +onlyGivenNames z; with_reducible apply State.good_cut (cq := cq) (s := z); rotate_left; clear_value z; intro hz; rotate_right; subst z)
    | (refine State.good_lit ?_; dsimp only; exact State.Good.maps (by assumption))
    | split)

theorem State.dropWant_good (s : State) (x : Mig) (h : s.Good cq) :
    (State.dropWant s x).Good cq := by
  unfold State.dropWant
  repeat' (first
    | with_reducible assumption
    | (refine State.good_lit ?_; dsimp only; exact State.Good.maps (by assumption)))

theorem State.want_good (s : State) (x : Mig) (h : s.Good cq) :
    (State.want s x).Good cq := by
  unfold State.want
  repeat' (first
    | with_reducible assumption
    | (refine State.good_lit ?_; dsimp only; exact State.Good.maps (by assumption))
    | (with_reducible refine State.good_ite (fun _ => ?_) (fun _ => ?_)))

theorem State.migrationStart_good (s : State) (d r : Nat) (h : s.Good cq) :
    (State.migrationStart s d r).Good cq := by
  unfold State.migrationStart
  repeat' (first
    | with_reducible assumption
    | with_reducible apply State.dropWant_good
    | with_reducible apply State.startMig_good
    | extract_lets +onlyGivenNames z
    | split)

theorem State.copyComplete_good (s : State) (d r q at_ : Nat) (h : s.Good cq) :
    (State.copyComplete s d r q at_).Good cq := by
  unfold State.copyComplete
  repeat' (first
    | with_reducible assumption
    | refine fun _ => ?_
    | with_reducible apply State.reach_good
    | with_reducible apply State.mapTile_good
    | with_reducible apply State.onTileLow_good
    | with_reducible apply State.dieEvent_good
    | with_reducible apply State.tile_ok
    | with_reducible apply TW.copyReads_ok
    | with_reducible apply Tile.copiedTo_ok
    | with_reducible apply TW.map_ok
    | (extract_lets +onlyGivenNames z; with_reducible apply State.good_cut (cq := cq) (s := z); rotate_left; clear_value z; intro hz; rotate_right; subst z)
    | extract_lets +onlyGivenNames z
    | (refine State.good_lit ?_; dsimp only; exact State.Good.maps (by assumption))
    | (refine Tile.ok_lit ?_; dsimp only; exact Tile.Ok.maps (by assumption))
    | (refine TW.ok_lit ?_; dsimp only)
    | with_reducible refine State.good_snd (by assumption) ?_
    | with_reducible refine State.good_fst (by assumption) ?_
    | split)
  all_goals (refine State.good_lit ?_; dsimp only; exact State.Good.maps (by assumption))

theorem State.dropMig_good (s : State) (x : Mig) (h : s.Good cq) :
    (State.dropMig s x).Good cq := by
  unfold State.dropMig
  repeat' (first
    | with_reducible assumption
    | (refine State.good_lit ?_; dsimp only; exact State.Good.maps (by assumption)))

theorem State.scanAdvance_good (s : State) (d at_ : Nat) (r0 : Nat) (h : s.Good cq) :
    (State.scanAdvance s d at_ r0).Good cq := by
  induction r0 generalizing s d at_ with
  | zero =>
    unfold State.scanAdvance
    repeat' (first
      | with_reducible assumption
      | with_reducible apply State.put_good
      | with_reducible apply State.setScan_good
      | with_reducible apply State.yieldAudit_good
      | with_reducible apply State.want_good
      | with_reducible apply Tile.put_ok
      | with_reducible apply TW.put_ok
      | (extract_lets +onlyGivenNames z; with_reducible apply State.good_cut (cq := cq) (s := z); rotate_left; clear_value z; intro hz; rotate_right; subst z)
      | extract_lets +onlyGivenNames z
      | (refine State.good_lit ?_; dsimp only; exact State.Good.maps (by assumption))
      | with_reducible refine State.good_snd (by assumption) ?_
      | with_reducible refine State.good_trd (by assumption) ?_
      | with_reducible refine State.good_fst (by assumption) ?_
      | split)
  | succ r0 ih =>
    unfold State.scanAdvance
    repeat' (first
      | with_reducible assumption
      | with_reducible apply ih
      | with_reducible apply State.put_good
      | with_reducible apply State.setScan_good
      | with_reducible apply State.yieldAudit_good
      | with_reducible apply State.want_good
      | with_reducible apply Tile.put_ok
      | with_reducible apply TW.put_ok
      | (extract_lets +onlyGivenNames z; with_reducible apply State.good_cut (cq := cq) (s := z); rotate_left; clear_value z; intro hz; rotate_right; subst z)
      | extract_lets +onlyGivenNames z
      | (refine State.good_lit ?_; dsimp only; exact State.Good.maps (by assumption))
      | with_reducible refine State.good_snd (by assumption) ?_
      | with_reducible refine State.good_trd (by assumption) ?_
      | with_reducible refine State.good_fst (by assumption) ?_
      | split)

theorem State.scanNextRow_good (s : State) (d at_ : Nat) (h : s.Good cq) :
    (State.scanNextRow s d at_).Good cq := by
  unfold State.scanNextRow
  repeat' (first
    | with_reducible assumption
    | refine fun _ => ?_
    | with_reducible apply State.put_good
    | with_reducible apply State.reach_good
    | with_reducible apply State.setScan_good
    | with_reducible apply State.scanAdvance_good
    | with_reducible apply Tile.put_ok
    | with_reducible apply TW.put_ok
    | (extract_lets +onlyGivenNames z; with_reducible apply State.good_cut (cq := cq) (s := z); rotate_left; clear_value z; intro hz; rotate_right; subst z)
    | extract_lets +onlyGivenNames z
    | (refine State.good_lit ?_; dsimp only; exact State.Good.maps (by assumption))
    | split)

theorem State.scanLeave_good (s : State) (d r col at_ : Nat) (back : Bool) (h : s.Good cq) :
    (State.scanLeave s d r col at_ back).Good cq := by
  unfold State.scanLeave
  repeat' (first
    | with_reducible assumption
    | with_reducible apply State.scanAdvance_good
    | with_reducible apply State.setScan_good
    | with_reducible apply State.want_good
    | (with_reducible refine State.good_ite (fun _ => ?_) (fun _ => ?_)))

theorem State.cutScan_good (s : State) (d r : Nat) (h : s.Good cq) :
    (State.cutScan s d r).Good cq := by
  unfold State.cutScan
  repeat' (first
    | with_reducible assumption
    | with_reducible apply State.mapTile_good
    | with_reducible apply State.scanLeave_good
    | with_reducible apply Tile.scanned_ok
    | split)

theorem State.retireMap_good (s : State) (d r col : Nat) (spare : Option Nat) (h : s.Good cq) :
    (State.retireMap s d r col spare).Good cq := by
  unfold State.retireMap
  repeat' (first
    | with_reducible assumption
    | with_reducible apply State.sendFail_good
    | with_reducible apply State.stageMap_good
    | extract_lets +onlyGivenNames z
    | split)

theorem State.claimSpare_good (s : State) (d r : Nat) (h : s.Good cq) :
    (State.claimSpare s d r).Good cq := by
  unfold State.claimSpare
  repeat' (first
    | with_reducible assumption
    | with_reducible apply State.yieldAudit_good
    | with_reducible apply State.cutScan_good
    | (extract_lets +onlyGivenNames z; with_reducible apply State.good_cut (cq := cq) (s := z); rotate_left; clear_value z; intro hz; rotate_right; subst z)
    | extract_lets +onlyGivenNames z
    | (with_reducible refine State.good_ite (fun _ => ?_) (fun _ => ?_)))

theorem State.retire_good (s : State) (d r col : Nat) (prov : Bool) (h : s.Good cq) :
    (State.retire s d r col prov).Good cq := by
  unfold State.retire
  repeat' (first
    | with_reducible assumption
    | with_reducible apply State.claimSpare_good
    | with_reducible apply State.errc_good
    | with_reducible apply State.retireMap_good
    | with_reducible apply State.want_good
    | extract_lets +onlyGivenNames z
    | (refine State.good_lit ?_; dsimp only; exact State.Good.maps (by assumption))
    | split)

theorem State.showUnfused_good (s : State) (d : Nat) (h : s.Good cq) :
    (State.showUnfused s d).Good cq := by
  unfold State.showUnfused
  repeat' (first
    | with_reducible assumption
    | with_reducible apply State.put_good)

theorem State.switchMig_good (s : State) (x : Mig) (h : s.Good cq) :
    (State.switchMig s x).Good cq := by
  unfold State.switchMig
  repeat' (first
    | with_reducible assumption
    | refine fun _ => ?_
    | with_reducible apply State.errc_good
    | with_reducible apply State.setTile_good
    | with_reducible apply State.applyMap_good
    | with_reducible apply State.setScan_good
    | with_reducible apply State.showUnfused_good
    | with_reducible apply State.tile_ok
    | with_reducible apply Tile.moveTo_ok
    | with_reducible apply Tile.husk_ok
    | with_reducible apply TW.map_ok
    | (extract_lets +onlyGivenNames z; with_reducible apply State.good_cut (cq := cq) (s := z); rotate_left; clear_value z; intro hz; rotate_right; subst z)
    | extract_lets +onlyGivenNames z
    | (refine State.good_lit ?_; dsimp only; exact State.Good.maps (by assumption))
    | (refine Tile.ok_lit ?_; dsimp only; exact Tile.Ok.maps (by assumption))
    | (refine TW.ok_lit ?_; dsimp only)
    | (with_reducible refine State.good_ite (fun _ => ?_) (fun _ => ?_)))

theorem State.endMig_good (s : State) (x : Mig) (h : s.Good cq) :
    (State.endMig s x).Good cq := by
  unfold State.endMig
  repeat' (first
    | with_reducible assumption
    | with_reducible apply State.dropMig_good
    | with_reducible apply State.setAudit_good
    | with_reducible apply State.switchMig_good
    | (with_reducible refine State.good_ite (fun _ => ?_) (fun _ => ?_)))

theorem State.migsAt_good (s : State) (d rows : Nat) (fit : Mig → Tile → Bool) (h : s.Good cq) :
    (State.migsAt s d rows fit).Good cq := by
  unfold State.migsAt
  repeat' (first
    | with_reducible assumption
    | refine fun _ => ?_
    | with_reducible apply State.endAudits_good
    | with_reducible apply State.endMig_good
    | with_reducible apply State.errc_good
    | with_reducible apply State.good_foldl
    | (with_reducible refine State.good_ite (fun _ => ?_) (fun _ => ?_)))

theorem State.qualify_good (s : State) (d : Nat) (h : s.Good cq) :
    (State.qualify s d).Good cq := by
  unfold State.qualify
  repeat' (first
    | with_reducible assumption
    | (refine State.good_lit ?_; dsimp only; exact State.Good.maps (by assumption)))

theorem State.migrationTimeout_good (s : State) (d r q at_ : Nat) (h : s.Good cq) :
    (State.migrationTimeout s d r q at_).Good cq := by
  unfold State.migrationTimeout
  repeat' (first
    | with_reducible assumption
    | with_reducible apply State.dropMig_good
    | with_reducible apply State.endAudits_good
    | with_reducible apply State.errc_good
    | with_reducible apply State.reach_good
    | with_reducible apply State.scanLeave_good
    | with_reducible apply State.want_good
    | (extract_lets +onlyGivenNames z; with_reducible apply State.good_cut (cq := cq) (s := z); rotate_left; clear_value z; intro hz; rotate_right; subst z)
    | (refine State.good_lit ?_; dsimp only; exact State.Good.maps (by assumption))
    | split)

theorem State.beginAudit_good (s : State) (d r l spare : Nat) (first : Option Nat) (h : s.Good cq) :
    (State.beginAudit s d r l spare first).Good cq := by
  unfold State.beginAudit
  repeat' (first
    | with_reducible assumption
    | with_reducible apply State.setAudit_good
    | with_reducible apply State.startMig_good)

theorem State.auditStart_good (s : State) (d r at_ : Nat) (h : s.Good cq) :
    (State.auditStart s d r at_).Good cq := by
  unfold State.auditStart
  repeat' (first
    | with_reducible assumption
    | refine fun _ => ?_
    | with_reducible apply State.reach_good
    | with_reducible apply State.beginAudit_good
    | (extract_lets +onlyGivenNames z; with_reducible apply State.good_cut (cq := cq) (s := z); rotate_left; clear_value z; intro hz; rotate_right; subst z)
    | extract_lets +onlyGivenNames z
    | with_reducible refine State.good_snd (by assumption) ?_
    | with_reducible refine State.good_trd (by assumption) ?_
    | with_reducible refine State.good_fst (by assumption) ?_
    | split)

theorem State.logAudit_good (s : State) (d r target spare verdict : Nat) (h : s.Good cq) :
    (State.logAudit s d r target spare verdict).Good cq := by
  unfold State.logAudit
  repeat' (first
    | with_reducible assumption
    | with_reducible apply State.put_good)

theorem State.auditCompare_good (s : State) (p : Nat) (h : s.Good cq) :
    (State.auditCompare s p).Good cq := by
  unfold State.auditCompare
  repeat' (first
    | with_reducible assumption
    | refine fun _ => ?_
    | with_reducible apply State.beginAudit_good
    | with_reducible apply State.errc_good
    | with_reducible apply State.fresh64_good
    | with_reducible apply State.logAudit_good
    | with_reducible apply State.mapTile_good
    | with_reducible apply State.setAudit_good
    | with_reducible apply State.suspect_good
    | (extract_lets +onlyGivenNames z; have h0 : _ → State := z; clear h0; subst z; try dsimp -zeta only)
    | extract_lets +onlyGivenNames z
    | with_reducible apply State.tile_ok
    | with_reducible apply Tile.copyTo_ok
    | split)

theorem State.coverStands_good (s : State) (d r col : Nat) (h : s.Good cq) :
    (State.coverStands s d r col).Good cq := by
  unfold State.coverStands
  repeat' (first
    | with_reducible assumption
    | with_reducible apply State.errc_good
    | with_reducible apply State.stageMap_good
    | (refine State.good_lit ?_; dsimp only; exact State.Good.maps (by assumption))
    | (with_reducible refine State.good_ite (fun _ => ?_) (fun _ => ?_)))

theorem State.provResult_good (s : State) (p : Nat) (pass : Bool) (h : s.Good cq) :
    (State.provResult s p pass).Good cq := by
  unfold State.provResult
  repeat' (first
    | with_reducible assumption
    | with_reducible apply State.errc_good
    | with_reducible apply State.stageMap_good
    | (refine State.good_lit ?_; dsimp only; exact State.Good.maps (by assumption))
    | (with_reducible refine State.good_ite (fun _ => ?_) (fun _ => ?_)))

theorem State.rollingResult_good (s : State) (d r : Nat) (y : ScanCol) (pass : Bool) (at_ : Nat) (h : s.Good cq) :
    (State.rollingResult s d r y pass at_).Good cq := by
  unfold State.rollingResult
  repeat' (first
    | with_reducible assumption
    | with_reducible apply State.coverStands_good
    | with_reducible apply State.errc_good
    | with_reducible apply State.mapTile_good
    | with_reducible apply State.retire_good
    | with_reducible apply State.scanLeave_good
    | with_reducible apply State.setScan_good
    | with_reducible apply State.suspect_good
    | (with_reducible refine State.good_ite (fun _ => ?_) (fun _ => ?_))
    | with_reducible apply Tile.scanned_ok)

theorem State.scanResult_good (s : State) (d r col : Nat) (pass : Bool) (at_ : Nat) (h : s.Good cq) :
    (State.scanResult s d r col pass at_).Good cq := by
  unfold State.scanResult
  repeat' (first
    | with_reducible assumption
    | with_reducible apply State.mapTile_good
    | with_reducible apply State.provResult_good
    | with_reducible apply State.reach_good
    | with_reducible apply State.rollingResult_good
    | with_reducible apply State.showUnfused_good
    | extract_lets +onlyGivenNames z
    | with_reducible apply Tile.scanned_ok
    | split)

theorem State.takeSuspect_good (s : State) (p at_ : Nat) (h : s.Good cq) :
    (State.takeSuspect s p at_).Good cq := by
  unfold State.takeSuspect
  repeat' (first
    | with_reducible assumption
    | with_reducible apply State.retire_good
    | (extract_lets +onlyGivenNames z; with_reducible apply State.good_cut (cq := cq) (s := z); rotate_left; clear_value z; intro hz; rotate_right; subst z)
    | (extract_lets +onlyGivenNames z; have h0 : _ → State := z; clear h0; subst z; try dsimp -zeta only)
    | extract_lets +onlyGivenNames z
    | (refine State.good_lit ?_; dsimp only; exact State.Good.maps (by assumption))
    | with_reducible refine State.marginStep_good (by assumption) ?_
    | split)

theorem State.suspectEvent_good (s : State) (d at_ : Nat) (h : s.Good cq) :
    (State.suspectEvent s d at_).Good cq := by
  unfold State.suspectEvent
  repeat' (first
    | with_reducible assumption
    | with_reducible apply State.reach_good
    | with_reducible apply State.retire_good
    | with_reducible apply State.showUnfused_good
    | with_reducible apply State.takeSuspect_good
    | (extract_lets +onlyGivenNames z; with_reducible apply State.good_cut (cq := cq) (s := z); rotate_left; clear_value z; intro hz; rotate_right; subst z)
    | extract_lets +onlyGivenNames z
    | (refine State.good_lit ?_; dsimp only; exact State.Good.maps (by assumption))
    | split)

theorem State.suspicionExpiry_good (s : State) (d at_ : Nat) (h : s.Good cq) :
    (State.suspicionExpiry s d at_).Good cq := by
  unfold State.suspicionExpiry
  repeat' (first
    | with_reducible assumption
    | with_reducible apply State.reach_good
    | (extract_lets +onlyGivenNames z; with_reducible apply State.good_cut (cq := cq) (s := z); rotate_left; clear_value z; intro hz; rotate_right; subst z)
    | (refine State.good_lit ?_; dsimp only; exact State.Good.maps (by assumption)))

theorem State.commitGo_good (s : State) (d : Nat) (h : s.Good cq) :
    (State.commitGo s d).Good cq := by
  unfold State.commitGo
  repeat' (first
    | with_reducible assumption
    | with_reducible apply State.lockViolation_good
    | with_reducible apply State.put_good
    | (refine State.good_lit ?_; dsimp only; exact State.Good.maps (by assumption))
    | (with_reducible refine State.good_ite (fun _ => ?_) (fun _ => ?_)))

theorem State.fuseProgrammed_good (s : State) (d : Nat) (good : Bool) (h : s.Good cq) :
    (State.fuseProgrammed s d good).Good cq := by
  unfold State.fuseProgrammed
  repeat' (first
    | with_reducible assumption
    | refine fun _ => ?_
    | with_reducible apply State.errc_good
    | with_reducible apply State.put_good
    | with_reducible apply State.showUnfused_good
    | (extract_lets +onlyGivenNames z; with_reducible apply State.good_cut (cq := cq) (s := z); rotate_left; clear_value z; intro hz; rotate_right; subst z)
    | extract_lets +onlyGivenNames z
    | with_reducible apply State.good_foldl
    | (refine State.good_lit ?_; dsimp only; exact State.Good.maps (by assumption))
    | (with_reducible refine State.good_ite (fun _ => ?_) (fun _ => ?_)))

theorem State.bundleFailure_good (s : State) (b : Nat) (h : s.Good cq) :
    (State.bundleFailure s b).Good cq := by
  unfold State.bundleFailure
  repeat' (first
    | with_reducible assumption
    | with_reducible apply State.errc_good
    | with_reducible apply State.sendFail_good
    | (extract_lets +onlyGivenNames z; with_reducible apply State.good_cut (cq := cq) (s := z); rotate_left; clear_value z; intro hz; rotate_right; subst z)
    | extract_lets +onlyGivenNames z
    | split)

end Sys2Proof.Machine
end

