-- ==== Sys2Proof/Laws/GoodTickBase.lean ====
section
/-! SUPPORT. Every function of Machine/TickBase.lean that answers a module keeps its maps canonical and its queue of commands. -/

namespace Sys2Proof.Machine

variable {cq : List Instr}

theorem State.showReady_good (s : State) (m : Nat) (h : s.Good cq) :
    (State.showReady s m).Good cq := by
  unfold State.showReady
  repeat' (first
    | with_reducible assumption
    | with_reducible apply State.put_good)

theorem State.refreshReady_good (s : State) (h : s.Good cq) :
    (State.refreshReady s).Good cq := by
  unfold State.refreshReady
  repeat' (first
    | with_reducible assumption
    | with_reducible apply State.showReady_good)

theorem State.loseReady_good (s : State) (h : s.Good cq) :
    (State.loseReady s).Good cq := by
  unfold State.loseReady
  repeat' (first
    | with_reducible assumption
    | with_reducible apply State.showReady_good)

theorem State.tickTo_good (s : State) (m : TickMsg) (dst : Nat) (h : s.Good cq) :
    (State.tickTo s m dst).Good cq := by
  unfold State.tickTo
  repeat' (first
    | with_reducible assumption
    | with_reducible apply State.inject_good)

theorem State.tickAll_good (s : State) (m : TickMsg) (tree : Nat) (h : s.Good cq) :
    (State.tickAll s m tree).Good cq := by
  unfold State.tickAll
  repeat' (first
    | with_reducible assumption
    | with_reducible apply State.inject_good)

theorem State.tickAllOwn_good (s : State) (m : TickMsg) (tree : Nat) (h : s.Good cq) :
    (State.tickAllOwn s m tree).Good cq := by
  unfold State.tickAllOwn
  repeat' (first
    | with_reducible assumption
    | with_reducible apply State.toInbox_good
    | with_reducible apply State.tickAll_good)

theorem State.toMasters_good (s : State) (m : TickMsg) (h : s.Good cq) :
    (State.toMasters s m).Good cq := by
  unfold State.toMasters
  repeat' (first
    | with_reducible assumption
    | refine fun _ => ?_
    | with_reducible apply State.tickTo_good
    | with_reducible apply State.good_foldl
    | (extract_lets +onlyGivenNames z; with_reducible apply State.good_cut (cq := cq) (s := z); rotate_left; clear_value z; intro hz; rotate_right; subst z)
    | extract_lets +onlyGivenNames z
    | with_reducible refine State.good_snd (by assumption) ?_
    | with_reducible refine State.good_fst (by assumption) ?_
    | split)

theorem State.popTick_good {s : State} {op : Nat} {x : Flit} {u : State} (e : s.popTick op = some (x, u)) (h : s.Good cq) : u.Good cq := State.pop_good e h

theorem State.setHold_good (s : State) (n : Nat) (v : Bool) (h : s.Good cq) :
    (State.setHold s n v).Good cq := by
  unfold State.setHold
  repeat' (first
    | with_reducible assumption
    | with_reducible apply State.put_good)

theorem State.clearHolds_good (s : State) (h : s.Good cq) :
    (State.clearHolds s).Good cq := by
  unfold State.clearHolds
  repeat' (first
    | with_reducible assumption
    | (refine State.good_lit ?_; dsimp only; refine GoodMaps.setRegs (State.Good.maps (by assumption)) ?_; intro h0
       repeat' (first | exact h0 | with_reducible apply rput_wf | with_reducible apply rset_wf | with_reducible apply CSet.event_wf | with_reducible apply SMap.clear_wf)))

theorem State.mapTick_good (s : State) (g : TickSt → TickSt) (h : s.Good cq) :
    (State.mapTick s g).Good cq := by
  unfold State.mapTick
  repeat' (first
    | with_reducible assumption
    | (refine State.good_lit ?_; dsimp only; exact State.Good.maps (by assumption)))

theorem State.emitTick_good (s : State) (at_ : Nat) (h : s.Good cq) :
    (State.emitTick s at_).Good cq := by
  unfold State.emitTick
  repeat' (first
    | with_reducible assumption
    | refine fun _ => ?_
    | with_reducible apply State.put_good
    | with_reducible apply State.add_good
    | with_reducible apply State.count_good
    | with_reducible apply State.tickAllOwn_good
    | with_reducible apply State.clearHolds_good
    | with_reducible apply State.mapTick_good
    | with_reducible apply Tile.put_ok
    | with_reducible apply TW.put_ok
    | with_reducible apply TW.count_ok
    | (extract_lets +onlyGivenNames z; with_reducible apply State.good_cut (cq := cq) (s := z); rotate_left; clear_value z; intro hz; rotate_right; subst z)
    | extract_lets +onlyGivenNames z
    | (refine State.good_lit ?_; dsimp only; exact State.Good.maps (by assumption))
    | (with_reducible refine State.good_ite (fun _ => ?_) (fun _ => ?_)))

theorem State.emitRecover_good (s : State) (h : s.Good cq) :
    (State.emitRecover s).Good cq := by
  unfold State.emitRecover
  repeat' (first
    | with_reducible assumption
    | with_reducible apply State.mapTick_good
    | with_reducible apply State.tickAllOwn_good
    | (with_reducible refine State.good_ite (fun _ => ?_) (fun _ => ?_)))

theorem State.stopEmission_good (s : State) (h : s.Good cq) :
    (State.stopEmission s).Good cq := by
  unfold State.stopEmission
  repeat' (first
    | with_reducible assumption
    | with_reducible apply State.clearHolds_good
    | with_reducible apply State.mapTick_good
    | with_reducible apply State.put_good)

theorem State.emitIfFree_good (s : State) (at_ : Nat) (h : s.Good cq) :
    (State.emitIfFree s at_).Good cq := by
  unfold State.emitIfFree
  repeat' (first
    | with_reducible assumption
    | with_reducible apply State.emitTick_good
    | (with_reducible refine State.good_ite (fun _ => ?_) (fun _ => ?_)))

theorem State.holdMsg_good (s : State) (origin number at_ : Nat) (hold : Bool) (h : s.Good cq) :
    (State.holdMsg s origin number at_ hold).Good cq := by
  unfold State.holdMsg
  repeat' (first
    | with_reducible assumption
    | with_reducible apply State.add_good
    | with_reducible apply State.count_good
    | with_reducible apply State.setHold_good
    | with_reducible apply State.emitIfFree_good
    | with_reducible apply TW.count_ok
    | (extract_lets +onlyGivenNames z; with_reducible apply State.good_cut (cq := cq) (s := z); rotate_left; clear_value z; intro hz; rotate_right; subst z)
    | extract_lets +onlyGivenNames z
    | (with_reducible refine State.good_ite (fun _ => ?_) (fun _ => ?_)))

theorem State.demote_good (s : State) (h : s.Good cq) :
    (State.demote s).Good cq := by
  unfold State.demote
  repeat' (first
    | with_reducible assumption
    | with_reducible apply State.mapTick_good
    | with_reducible apply State.put_good
    | with_reducible apply State.stopEmission_good)

theorem State.yieldClaim_good (s : State) (h : s.Good cq) :
    (State.yieldClaim s).Good cq := by
  unfold State.yieldClaim
  repeat' (first
    | with_reducible assumption
    | with_reducible apply State.count_good
    | with_reducible apply State.mapTick_good)

theorem State.claimRole_good (s : State) (role at_ : Nat) (h : s.Good cq) :
    (State.claimRole s role at_).Good cq := by
  unfold State.claimRole
  repeat' (first
    | with_reducible assumption
    | with_reducible apply State.mapTick_good
    | with_reducible apply State.tickAll_good
    | (with_reducible refine State.good_ite (fun _ => ?_) (fun _ => ?_)))

theorem State.startClaims_good (s : State) (at_ : Nat) (h : s.Good cq) :
    (State.startClaims s at_).Good cq := by
  unfold State.startClaims
  repeat' (first
    | with_reducible assumption
    | with_reducible apply State.claimRole_good
    | with_reducible apply State.mapTick_good
    | (with_reducible refine State.good_ite (fun _ => ?_) (fun _ => ?_)))

theorem State.recordStandby_good (s : State) (n at_ : Nat) (h : s.Good cq) :
    (State.recordStandby s n at_).Good cq := by
  unfold State.recordStandby
  repeat' (first
    | with_reducible assumption
    | with_reducible apply State.mapTick_good
    | with_reducible apply State.put_good)

theorem State.sendPing_good (s : State) (at_ : Nat) (h : s.Good cq) :
    (State.sendPing s at_).Good cq := by
  unfold State.sendPing
  repeat' (first
    | with_reducible assumption
    | with_reducible apply State.tickTo_good
    | (with_reducible refine State.good_ite (fun _ => ?_) (fun _ => ?_)))

theorem State.endHold_good (s : State) (at_ : Nat) (h : s.Good cq) :
    (State.endHold s at_).Good cq := by
  unfold State.endHold
  repeat' (first
    | with_reducible assumption
    | with_reducible apply State.add_good
    | with_reducible apply State.put_good)

theorem State.checkRelease_good (s : State) (at_ : Nat) (h : s.Good cq) :
    (State.checkRelease s at_).Good cq := by
  unfold State.checkRelease
  repeat' (first
    | with_reducible assumption
    | with_reducible apply State.endHold_good
    | with_reducible apply State.holdMsg_good
    | with_reducible apply State.toMasters_good
    | (with_reducible refine State.good_ite (fun _ => ?_) (fun _ => ?_)))

end Sys2Proof.Machine
end

