-- ==== Sys2Proof/Laws/GoodCtxReset.lean ====
section
/-! SUPPORT. Every function of Machine/CtxReset.lean that answers a module keeps its maps canonical and its queue of commands. -/

namespace Sys2Proof.Machine

variable {cq : List Instr}

theorem State.clearRegs_good (s : State) (lo hi : Nat) (h : s.Good cq) :
    (State.clearRegs s lo hi).Good cq := by
  unfold State.clearRegs
  repeat' (first
    | with_reducible assumption
    | (refine State.good_lit ?_; dsimp only; refine GoodMaps.setRegs (State.Good.maps (by assumption)) ?_; intro h0
       repeat' (first | exact h0 | with_reducible apply rput_wf | with_reducible apply rset_wf | with_reducible apply CSet.event_wf | with_reducible apply SMap.clear_wf)))

theorem State.edgeDrop_good (s : State) (p : Nat) (h : s.Good cq) :
    (State.edgeDrop s p).Good cq := by
  unfold State.edgeDrop
  repeat' (first
    | with_reducible assumption
    | refine fun _ => ?_
    | with_reducible apply State.errc_good
    | with_reducible apply State.toDie_good
    | with_reducible apply State.write_good
    | with_reducible apply State.good_foldl
    | (extract_lets +onlyGivenNames z; with_reducible apply State.good_cut (cq := cq) (s := z); rotate_left; clear_value z; intro hz; rotate_right; subst z)
    | extract_lets +onlyGivenNames z
    | (refine State.good_lit ?_; dsimp only; exact State.Good.maps (by assumption))
    | with_reducible refine State.good_snd (by assumption) ?_
    | with_reducible refine State.good_fst (by assumption) ?_
    | split)

theorem State.startGesso_good (s : State) (c : Nat) (h : s.Good cq) :
    (State.startGesso s c).Good cq := by
  unfold State.startGesso
  repeat' (first
    | with_reducible assumption
    | refine fun _ => ?_
    | with_reducible apply State.mapTile_good
    | with_reducible apply State.edgeDrop_good
    | with_reducible apply Tile.gessoStart_ok
    | with_reducible apply State.tile_ok
    | with_reducible apply State.good_foldl
    | (extract_lets +onlyGivenNames z; with_reducible apply State.good_cut (cq := cq) (s := z); rotate_left; clear_value z; intro hz; rotate_right; subst z)
    | extract_lets +onlyGivenNames z
    | (refine State.good_lit ?_; dsimp only; exact State.Good.maps (by assumption))
    | (refine Tile.ok_lit ?_; dsimp only; exact Tile.Ok.maps (by assumption))
    | (with_reducible refine State.good_ite (fun _ => ?_) (fun _ => ?_))
    | split)

theorem State.endMigs_good (s : State) (d rows : Nat) (h : s.Good cq) :
    (State.endMigs s d rows).Good cq := by
  unfold State.endMigs
  repeat' (first
    | with_reducible assumption
    | refine fun _ => ?_
    | with_reducible apply State.endAudits_good
    | (extract_lets +onlyGivenNames z; with_reducible apply State.good_cut (cq := cq) (s := z); rotate_left; clear_value z; intro hz; rotate_right; subst z)
    | extract_lets +onlyGivenNames z
    | with_reducible apply State.good_foldl
    | (refine State.good_lit ?_; dsimp only; exact State.Good.maps (by assumption))
    | (with_reducible refine State.good_ite (fun _ => ?_) (fun _ => ?_)))

theorem State.stageDeferred_good (s : State) (d r : Nat) (h : s.Good cq) :
    (State.stageDeferred s d r).Good cq := by
  unfold State.stageDeferred
  repeat' (first
    | with_reducible assumption
    | refine fun _ => ?_
    | with_reducible apply State.retireMap_good
    | with_reducible apply State.setScan_good
    | with_reducible apply State.showUnfused_good
    | with_reducible apply State.stageMap_good
    | (extract_lets +onlyGivenNames z; with_reducible apply State.good_cut (cq := cq) (s := z); rotate_left; clear_value z; intro hz; rotate_right; subst z)
    | extract_lets +onlyGivenNames z
    | with_reducible apply State.good_foldl
    | (refine State.good_lit ?_; dsimp only; exact State.Good.maps (by assumption))
    | (with_reducible refine State.good_ite (fun _ => ?_) (fun _ => ?_))
    | (clear_value *; split))

theorem State.gessoDone_good (s : State) (p : Nat) (h : s.Good cq) :
    (State.gessoDone s p).Good cq := by
  unfold State.gessoDone
  repeat' (first
    | with_reducible assumption
    | with_reducible apply State.gessoComplete_good
    | with_reducible apply State.stageDeferred_good
    | (with_reducible refine State.good_ite (fun _ => ?_) (fun _ => ?_)))

theorem State.ldrReset_good (s : State) (d c : Nat) (h : s.Good cq) :
    (State.ldrReset s d c).Good cq := by
  unfold State.ldrReset
  repeat' (first
    | with_reducible assumption
    | refine fun _ => ?_
    | with_reducible apply State.put_good
    | with_reducible apply State.setWord_good
    | with_reducible apply State.setLdr_good
    | with_reducible apply State.setLdrState_good
    | with_reducible apply State.showGesso_good
    | with_reducible apply State.applyStaged_good
    | with_reducible apply Tile.fresh_ok
    | with_reducible apply Tile.put_ok
    | with_reducible apply TW.put_ok
    | with_reducible apply State.tile_ok
    | (extract_lets +onlyGivenNames z; with_reducible apply State.good_cut (cq := cq) (s := z); rotate_left; clear_value z; intro hz; rotate_right; subst z)
    | extract_lets +onlyGivenNames z
    | (with_reducible refine State.good_ite (fun _ => ?_) (fun _ => ?_)))

theorem State.dropXfers_good (s : State) (c : Nat) (h : s.Good cq) :
    (State.dropXfers s c).Good cq := by
  unfold State.dropXfers
  repeat' (first
    | with_reducible assumption
    | refine fun _ => ?_
    | with_reducible apply State.showTiles_good
    | with_reducible apply State.tile_ok
    | with_reducible apply State.good_foldl
    | with_reducible apply State.good_foldl_snd
    | with_reducible apply State.good_foldl_fst
    | (extract_lets +onlyGivenNames z; with_reducible apply State.good_cut (cq := cq) (s := z); rotate_left; clear_value z; intro hz; rotate_right; subst z)
    | extract_lets +onlyGivenNames z
    | (refine State.good_lit ?_; dsimp only; exact State.Good.maps (by assumption))
    | (with_reducible refine State.good_ite (fun _ => ?_) (fun _ => ?_)))

theorem State.resetEffects_good (s : State) (c at_ cyc : Nat) (h : s.Good cq) :
    (State.resetEffects s c at_ cyc).Good cq := by
  unfold State.resetEffects
  repeat' (first
    | with_reducible assumption
    | refine fun _ => ?_
    | with_reducible apply State.checkRelease_good
    | with_reducible apply State.clearRegs_good
    | with_reducible apply State.drainFlows_good
    | with_reducible apply State.endMigs_good
    | with_reducible apply State.dropXfers_good
    | with_reducible apply State.exportsEnd_good
    | with_reducible apply State.ldrReset_good
    | with_reducible apply State.loseReady_good
    | with_reducible apply State.mapTick_good
    | with_reducible apply State.put_good
    | with_reducible apply State.reach_good
    | with_reducible apply State.releaseAll_good
    | with_reducible apply State.setMbs_good
    | with_reducible apply State.startGesso_good
    | with_reducible apply State.syncReset_good
    | with_reducible apply State.tearSlot_good
    | with_reducible apply State.watchDelivery_good
    | (extract_lets +onlyGivenNames z; with_reducible apply State.good_cut (cq := cq) (s := z); rotate_left; clear_value z; intro hz; rotate_right; subst z)
    | extract_lets +onlyGivenNames z
    | with_reducible apply State.good_foldl
    | (refine State.good_lit ?_; dsimp only; exact State.Good.maps (by assumption))
    | (refine State.good_lit ?_; dsimp only; refine GoodMaps.setVf (State.Good.maps (by assumption)) ?_; intro h0; first | exact rset_wf _ _ _ _ h0 | exact SMap.clear_wf _ _ _ _ h0)
    | split)

theorem State.setFree_good (s : State) (c : Nat) (v : Bool) (h : s.Good cq) :
    (State.setFree s c v).Good cq := by
  unfold State.setFree
  repeat' (first
    | with_reducible assumption
    | (refine State.good_lit ?_; dsimp only; exact State.Good.maps (by assumption)))

theorem State.ctxReset_good (s : State) (c at_ cyc : Nat) (free : Bool) (h : s.Good cq) :
    (State.ctxReset s c at_ cyc free).Good cq := by
  unfold State.ctxReset
  repeat' (first
    | with_reducible assumption
    | with_reducible apply State.put_good
    | with_reducible apply State.resetEffects_good
    | with_reducible apply State.setFree_good
    | (with_reducible refine State.good_ite (fun _ => ?_) (fun _ => ?_)))

theorem State.resetAll_good (s : State) (at_ cyc : Nat) (h : s.Good cq) :
    (State.resetAll s at_ cyc).Good cq := by
  unfold State.resetAll
  repeat' (first
    | with_reducible assumption
    | refine fun _ => ?_
    | with_reducible apply State.ctxReset_good
    | with_reducible apply State.put_good
    | with_reducible apply State.setFree_good
    | with_reducible apply State.good_foldl
    | split)

theorem State.hctxVec_good (s : State) (c : Nat) (v : Word) (h : s.Good cq) :
    (State.hctxVec s c v).Good cq := by
  unfold State.hctxVec
  repeat' (first
    | with_reducible assumption
    | with_reducible apply State.put_good)

theorem State.hctxEnable_good (s : State) (c : Nat) (v : Word) (h : s.Good cq) :
    (State.hctxEnable s c v).Good cq := by
  unfold State.hctxEnable
  repeat' (first
    | with_reducible assumption
    | with_reducible apply State.hctxVec_good
    | with_reducible apply State.put_good
    | (extract_lets +onlyGivenNames z; with_reducible apply State.good_cut (cq := cq) (s := z); rotate_left; clear_value z; intro hz; rotate_right; subst z)
    | split)

theorem State.hctxDisable_good (s : State) (c : Nat) (v : Word) (at_ cyc : Nat) (h : s.Good cq) :
    (State.hctxDisable s c v at_ cyc).Good cq := by
  unfold State.hctxDisable
  repeat' (first
    | with_reducible assumption
    | with_reducible apply State.ctxReset_good
    | with_reducible apply State.hctxVec_good
    | with_reducible apply State.put_good
    | with_reducible apply State.setFree_good
    | (extract_lets +onlyGivenNames z; with_reducible apply State.good_cut (cq := cq) (s := z); rotate_left; clear_value z; intro hz; rotate_right; subst z)
    | split)

theorem State.resetComplete_good (s : State) (c : Nat) (h : s.Good cq) :
    (State.resetComplete s c).Good cq := by
  unfold State.resetComplete
  repeat' (first
    | with_reducible assumption
    | refine fun _ => ?_
    | with_reducible apply State.msix_good
    | with_reducible apply State.put_good
    | with_reducible apply State.setFree_good
    | with_reducible apply State.setLdrState_good
    | with_reducible apply State.setLdr_good
    | with_reducible apply State.good_foldl
    | (with_reducible refine State.good_ite (fun _ => ?_) (fun _ => ?_)))

end Sys2Proof.Machine
end

