-- ==== Sys2Proof/Laws/GoodRecovery.lean ====
section
/-! SUPPORT. Every function of Machine/Recovery.lean that answers a module keeps its maps canonical and its queue of commands. -/

namespace Sys2Proof.Machine

variable {cq : List Instr}

theorem State.mapRcv_good (s : State) (g : RcvSt → RcvSt) (h : s.Good cq) :
    (State.mapRcv s g).Good cq := by
  unfold State.mapRcv
  repeat' (first
    | with_reducible assumption
    | (refine State.good_lit ?_; dsimp only; exact State.Good.maps (by assumption)))

theorem State.rcvEvent_good (s : State) (kind node : Nat) (h : s.Good cq) :
    (State.rcvEvent s kind node).Good cq := by
  unfold State.rcvEvent
  repeat' (first
    | with_reducible assumption
    | with_reducible apply State.put_good)

theorem State.showMember_good (s : State) (h : s.Good cq) :
    (State.showMember s).Good cq := by
  unfold State.showMember
  repeat' (first
    | with_reducible assumption
    | with_reducible apply State.put_good
    | (with_reducible refine State.good_ite (fun _ => ?_) (fun _ => ?_)))

theorem State.openAnswer_good (s : State) (key gen : Nat) (h : s.Good cq) :
    (State.openAnswer s key gen).Good cq := by
  unfold State.openAnswer
  repeat' (first
    | with_reducible assumption
    | with_reducible apply State.mapRcv_good)

theorem State.reply_good (s : State) (key gen : Nat) (m : Ctrl) (h : s.Good cq) :
    (State.reply s key gen m).Good cq := by
  unfold State.reply
  repeat' (first
    | with_reducible assumption
    | refine fun _ => ?_
    | with_reducible apply State.inject_good
    | with_reducible apply State.mapRcv_good
    | with_reducible apply State.good_foldl)

theorem State.onCommand_good (s : State) (op : Nat) (act : State → Flit → State) (hact : ∀ z0 z1, State.Good z0 cq → State.Good (act z0 z1) cq) (h : s.Good cq) :
    (State.onCommand s op act).Good cq := by
  unfold State.onCommand
  repeat' (first
    | with_reducible assumption
    | refine fun _ => ?_
    | with_reducible apply hact
    | with_reducible apply State.add_good
    | with_reducible apply State.inject_good
    | with_reducible apply State.openAnswer_good
    | with_reducible apply State.put_good
    | extract_lets +onlyGivenNames z
    | with_reducible apply State.good_foldl
    | with_reducible refine State.popCtrl_good (by assumption) ?_
    | split)

theorem State.freeze_good (s : State) (key gen : Nat) (h : s.Good cq) :
    (State.freeze s key gen).Good cq := by
  unfold State.freeze
  repeat' (first
    | with_reducible assumption
    | refine fun _ => ?_
    | with_reducible apply State.put_good
    | with_reducible apply State.reply_good
    | with_reducible apply State.good_foldl
    | (with_reducible refine State.good_ite (fun _ => ?_) (fun _ => ?_)))

theorem State.recoverIn_good (s : State) (x : Flit) (h : s.Good cq) :
    (State.recoverIn s x).Good cq := by
  unfold State.recoverIn
  repeat' (first
    | with_reducible assumption
    | refine fun _ => ?_
    | with_reducible apply State.freeze_good
    | with_reducible apply State.inject_good
    | with_reducible apply State.mapRcv_good
    | with_reducible apply State.openAnswer_good
    | with_reducible apply State.put_good
    | (extract_lets +onlyGivenNames z; with_reducible apply State.good_cut (cq := cq) (s := z); rotate_left; clear_value z; intro hz; rotate_right; subst z)
    | with_reducible apply State.good_foldl
    | split)

theorem State.restoreRegions_good (s : State) (c : Nat) (sec : Section) (h : s.Good cq) :
    (State.restoreRegions s c sec).Good cq := by
  unfold State.restoreRegions
  repeat' (first
    | with_reducible assumption
    | refine fun _ => ?_
    | with_reducible apply State.regionAllocate_good
    | with_reducible apply State.good_foldl
    | (with_reducible refine State.good_ite (fun _ => ?_) (fun _ => ?_)))

theorem State.resetCompleteAll_good (s : State) (c : Nat) (h : s.Good cq) :
    (State.resetCompleteAll s c).Good cq := by
  unfold State.resetCompleteAll
  repeat' (first
    | with_reducible assumption
    | with_reducible apply State.resetComplete_good
    | with_reducible apply State.restoreRegions_good
    | (with_reducible refine State.good_ite (fun _ => ?_) (fun _ => ?_)))

theorem State.restoredAll_good (s : State) (key gen : Nat) (h : s.Good cq) :
    (State.restoredAll s key gen).Good cq := by
  unfold State.restoredAll
  repeat' (first
    | with_reducible assumption
    | with_reducible apply State.put_good
    | with_reducible apply State.reply_good
    | split)

theorem State.planIn_good (s : State) (at_ cyc : Nat) (h : s.Good cq) :
    (State.planIn s at_ cyc).Good cq := by
  unfold State.planIn
  repeat' (first
    | with_reducible assumption
    | refine fun _ => ?_
    | with_reducible apply State.ctxReset_good
    | with_reducible apply State.freeze_good
    | with_reducible apply State.mapRcv_good
    | with_reducible apply State.onCommand_good
    | with_reducible apply State.put_good
    | with_reducible apply State.reach_good
    | with_reducible apply State.restoredAll_good
    | with_reducible apply State.good_foldl
    | (with_reducible refine State.good_ite (fun _ => ?_) (fun _ => ?_)))

theorem State.restoreFlow_good (s : State) (i : Nat) (w0 w3 : Word) (sec : Section) (h : s.Good cq) :
    (State.restoreFlow s i w0 w3 sec).Good cq := by
  unfold State.restoreFlow
  repeat' (first
    | with_reducible assumption
    | refine fun _ => ?_
    | with_reducible apply State.bldPut_good
    | with_reducible apply State.flowActivate_good
    | with_reducible apply State.recPut_good
    | with_reducible apply State.setWord_good
    | with_reducible apply State.good_foldl)

theorem State.restoreCounter_good (s : State) (k : Nat) (w : Nat → Word) (rb : Word) (h : s.Good cq) :
    (State.restoreCounter s k w rb).Good cq := by
  unfold State.restoreCounter
  repeat' (first
    | with_reducible assumption
    | with_reducible apply State.setCnt_good
    | with_reducible apply State.setWord_good)

theorem State.restoreState_good (s : State) (c : Nat) (sec : Section) (h : s.Good cq) :
    (State.restoreState s c sec).Good cq := by
  unfold State.restoreState
  repeat' (first
    | with_reducible assumption
    | refine fun _ => ?_
    | with_reducible apply State.restoreCounter_good
    | with_reducible apply State.restoreFlow_good
    | with_reducible apply State.setEntry_good
    | with_reducible apply State.setMbs_good
    | with_reducible apply State.setWord_good
    | with_reducible apply State.good_foldl)

theorem State.bulkWrite_good (s : State) (c d : Nat) (b : Bulk) (v : Nat) (pois : List Bool) (h : s.Good cq) :
    (State.bulkWrite s c d b v pois).Good cq := by
  unfold State.bulkWrite
  repeat' (first
    | with_reducible assumption
    | refine fun _ => ?_
    | with_reducible apply State.hbmWriteSegs_good
    | with_reducible apply State.onTile_good
    | with_reducible apply TW.commitAll_ok
    | with_reducible apply TW.writeRaw_ok
    | split)

theorem State.restoreBulk_good (s : State) (c d k : Nat) (parity : Bool) (sec : Section) (h : s.Good cq) :
    (State.restoreBulk s c d k parity sec).Good cq := by
  unfold State.restoreBulk
  repeat' (first
    | with_reducible assumption
    | refine fun _ => ?_
    | with_reducible apply State.bulkWrite_good
    | with_reducible apply State.stageRead_good
    | with_reducible apply State.stageWrite_good
    | with_reducible apply State.good_foldl_fst
    | split)

theorem State.lastUnit_good (s : State) (c n : Nat) (r0 : Nat) (r1 : Nat) (h : s.Good cq) :
    (State.lastUnit s c n r0 r1).2.Good cq := by
  induction r0 generalizing s c n r1 with
  | zero =>
    unfold State.lastUnit
    repeat' (first
      | with_reducible assumption
      | with_reducible apply State.skbGet_good
      | split
      | with_reducible refine State.good_snd (by assumption) ?_)
  | succ r0 ih =>
    unfold State.lastUnit
    repeat' (first
      | with_reducible assumption
      | with_reducible apply ih
      | with_reducible apply State.skbGet_good
      | split
      | with_reducible refine State.good_snd (by assumption) ?_)

theorem State.restoreStip_good (s : State) (c n : Nat) (sec : Section) (h : s.Good cq) :
    (State.restoreStip s c n sec).Good cq := by
  unfold State.restoreStip
  repeat' (first
    | with_reducible assumption
    | refine fun _ => ?_
    | with_reducible apply State.count_good
    | with_reducible apply State.lastUnit_good
    | with_reducible apply State.mapTile_good
    | extract_lets +onlyGivenNames z
    | with_reducible apply State.good_foldl
    | (refine Tile.ok_lit ?_; dsimp only; refine TileMaps.setRegs (Tile.Ok.maps (by assumption)) ?_; intro h0; exact rset_wf _ _ _ _ h0)
    | split)

theorem State.resumeRecord_good (s : State) (c n : Nat) (lost : Option Nat) (h : s.Good cq) :
    (State.resumeRecord s c n lost).Good cq := by
  unfold State.resumeRecord
  repeat' (first
    | with_reducible assumption
    | refine fun _ => ?_
    | with_reducible apply State.hbmWrite_good
    | with_reducible apply State.good_foldl
    | (with_reducible refine State.good_ite (fun _ => ?_) (fun _ => ?_)))

theorem State.replaySpan_good (s : State) (c : Nat) (r0 : Nat) (r1 : Nat) (h : s.Good cq) :
    (State.replaySpan s c r0 r1).2.Good cq := by
  induction r0 generalizing s c r1 with
  | zero =>
    unfold State.replaySpan
    repeat' (first
      | with_reducible assumption
      | with_reducible apply State.skbGet_good
      | split
      | with_reducible refine State.good_snd (by assumption) ?_)
  | succ r0 ih =>
    unfold State.replaySpan
    repeat' (first
      | with_reducible assumption
      | with_reducible apply ih
      | with_reducible apply State.skbGet_good
      | split
      | with_reducible refine State.good_snd (by assumption) ?_)

theorem State.loadSpan_good (s : State) (c n : Nat) (h : s.Good cq) :
    (State.loadSpan s c n).Good cq := by
  unfold State.loadSpan
  repeat' (first
    | with_reducible assumption
    | with_reducible apply State.replaySpan_good
    | with_reducible apply State.setSpan_good
    | extract_lets +onlyGivenNames z
    | split)

theorem State.restoreLoad_good (s : State) (c cyc : Nat) (sec : Section) (h : s.Good cq) :
    (State.restoreLoad s c cyc sec).1.Good cq := by
  unfold State.restoreLoad
  repeat' (first
    | with_reducible assumption
    | refine fun _ => ?_
    | with_reducible apply State.loadRun_good
    | with_reducible apply State.put_good
    | with_reducible apply State.setLdrState_good
    | (extract_lets +onlyGivenNames z; with_reducible apply State.good_cut (cq := cq) (s := z); rotate_left; clear_value z; intro hz; rotate_right; subst z)
    | with_reducible apply State.good_foldl_fst
    | split
    | with_reducible refine State.good_fst (by assumption) ?_)

theorem State.restoreComplete_good (s : State) (c at_ cyc : Nat) (h : s.Good cq) :
    (State.restoreComplete s c at_ cyc).Good cq := by
  unfold State.restoreComplete
  repeat' (first
    | with_reducible assumption
    | refine fun _ => ?_
    | with_reducible apply State.add_good
    | with_reducible apply State.loadSpan_good
    | with_reducible apply State.mapRcv_good
    | with_reducible apply State.put_good
    | with_reducible apply State.reach_good
    | with_reducible apply State.restoreBulk_good
    | with_reducible apply State.restoreLoad_good
    | with_reducible apply State.restoreState_good
    | with_reducible apply State.restoreStip_good
    | with_reducible apply State.restoredAll_good
    | with_reducible apply State.resumeRecord_good
    | with_reducible apply State.start_good
    | with_reducible apply State.good_foldl
    | (with_reducible refine State.good_ite (fun _ => ?_) (fun _ => ?_))
    | split)

theorem State.assume_good (s : State) (node : Nat) (h : s.Good cq) :
    (State.assume s node).Good cq := by
  unfold State.assume
  repeat' (first
    | with_reducible assumption
    | refine fun _ => ?_
    | with_reducible apply State.put_good
    | with_reducible apply State.good_foldl)

theorem State.reroute_good (s : State) (spare : Nat) (h : s.Good cq) :
    (State.reroute s spare).Good cq := by
  unfold State.reroute
  repeat' (first
    | with_reducible assumption
    | refine fun _ => ?_
    | with_reducible apply State.put_good
    | with_reducible apply State.good_foldl
    | (with_reducible refine State.good_ite (fun _ => ?_) (fun _ => ?_)))

theorem State.rewireIn_good (s : State) (h : s.Good cq) :
    (State.rewireIn s).Good cq := by
  unfold State.rewireIn
  repeat' (first
    | with_reducible assumption
    | refine fun _ => ?_
    | with_reducible apply State.assume_good
    | with_reducible apply State.onCommand_good
    | with_reducible apply State.reply_good
    | with_reducible apply State.reroute_good
    | (with_reducible refine State.good_ite (fun _ => ?_) (fun _ => ?_)))

theorem State.fillFlow_good (s : State) (i c peer gen : Nat) (send : Bool) (h : s.Good cq) :
    (State.fillFlow s i c peer gen send).Good cq := by
  unfold State.fillFlow
  repeat' (first
    | with_reducible assumption
    | with_reducible apply State.flowActivate_good)

theorem State.fillSpare_good (s : State) (x : Flit) (h : s.Good cq) :
    (State.fillSpare s x).Good cq := by
  unfold State.fillSpare
  repeat' (first
    | with_reducible assumption
    | refine fun _ => ?_
    | with_reducible apply State.fillFlow_good
    | with_reducible apply State.mapRcv_good
    | with_reducible apply State.put_good
    | with_reducible apply State.good_foldl)

theorem State.abandonFill_good (s : State) (x : Flit) (cause : Nat) (h : s.Good cq) :
    (State.abandonFill s x cause).Good cq := by
  unfold State.abandonFill
  repeat' (first
    | with_reducible assumption
    | with_reducible apply State.reply_good)

theorem State.fillCopy_good (s : State) (c seq dest : Nat) (image parity : Bool) (ops : List VrnOp) (h : s.Good cq) :
    (State.fillCopy s c seq dest image parity ops).Good cq := by
  unfold State.fillCopy
  repeat' (first
    | with_reducible assumption
    | with_reducible apply State.mapRcv_good
    | with_reducible apply State.mapVctx_good)

theorem State.areaOps_good (s : State) (c place : Nat) (len : Nat → Nat) (h : s.Good cq) :
    (State.areaOps s c place len).2.Good cq := by
  unfold State.areaOps
  repeat' (first
    | with_reducible assumption
    | refine fun _ => ?_
    | with_reducible apply State.stageRead_good
    | with_reducible apply State.good_foldl
    | with_reducible apply State.good_foldl_snd
    | with_reducible apply State.good_foldl_fst
    | (extract_lets +onlyGivenNames z; with_reducible apply State.good_cut (cq := cq) (s := z); rotate_left; clear_value z; intro hz; rotate_right; subst z)
    | extract_lets +onlyGivenNames z
    | with_reducible refine State.good_snd (by assumption) ?_
    | with_reducible refine State.good_trd (by assumption) ?_
    | with_reducible refine State.good_fst (by assumption) ?_
    | split)

theorem State.fillArea_good (s : State) (c seq dest k : Nat) (image : Bool) (len : Nat → Nat) (h : s.Good cq) :
    (State.fillArea s c seq dest k image len).Good cq := by
  unfold State.fillArea
  exact State.fillCopy_good _ _ _ _ _ _ _ (State.areaOps_good _ _ _ _ h)

theorem State.fillBuddy_good (s : State) (x : Flit) (dest : Nat) (h : s.Good cq) :
    (State.fillBuddy s x dest).Good cq := by
  unfold State.fillBuddy
  repeat' (first
    | with_reducible assumption
    | refine fun _ => ?_
    | with_reducible apply State.fillFlow_good
    | with_reducible apply State.abandonFill_good
    | with_reducible apply State.fillArea_good
    | with_reducible apply State.good_foldl
    | extract_lets +onlyGivenNames z
    | split)

theorem State.fillLog_good (s : State) (x : Flit) (dest : Nat) (h : s.Good cq) :
    (State.fillLog s x dest).Good cq := by
  unfold State.fillLog
  extract_lets c
  by_cases hp : (s.get F.RCV_PEERS.log_from_v = 0 || s.get F.RCV_PEERS.log_from ≠ dest || s.engState 3 5 = 4) = true
  · rw [if_pos hp]; exact State.abandonFill_good _ _ _ h
  · rw [if_neg hp]
    refine State.good_foldl _ _ _ (fun u k hu => ?_) h
    generalize skbPlace true c k = q
    obtain ⟨d, p, a⟩ := q
    have hr := State.hbmReadSegs_good u d p (a / 16) 4 hu
    dsimp only
    split
    · with_reducible exact State.ctrl_good _ _ _ hr
    · with_reducible exact hr

theorem State.fillParity_good (s : State) (x : Flit) (dest : Nat) (h : s.Good cq) :
    (State.fillParity s x dest).Good cq := by
  unfold State.fillParity
  repeat' (first
    | with_reducible assumption
    | refine fun _ => ?_
    | with_reducible apply State.stageRead_good
    | with_reducible apply State.fillFlow_good
    | with_reducible apply State.abandonFill_good
    | with_reducible apply State.fillCopy_good
    | with_reducible apply State.good_foldl
    | with_reducible apply State.good_foldl_snd
    | with_reducible apply State.good_foldl_fst
    | (extract_lets +onlyGivenNames z; with_reducible apply State.good_cut (cq := cq) (s := z); rotate_left; clear_value z; intro hz; rotate_right; subst z)
    | extract_lets +onlyGivenNames z
    | with_reducible refine State.good_snd (by assumption) ?_
    | with_reducible refine State.good_trd (by assumption) ?_
    | with_reducible refine State.good_fst (by assumption) ?_
    | split)

theorem State.fillIn_good (s : State) (at_ cyc : Nat) (h : s.Good cq) :
    (State.fillIn s at_ cyc).Good cq := by
  unfold State.fillIn
  repeat' (first
    | with_reducible assumption
    | refine fun _ => ?_
    | with_reducible apply State.abandonFill_good
    | with_reducible apply State.fillBuddy_good
    | with_reducible apply State.fillLog_good
    | with_reducible apply State.fillParity_good
    | with_reducible apply State.fillSpare_good
    | with_reducible apply State.onCommand_good
    | with_reducible apply State.reach_good
    | with_reducible apply State.startCopies_good
    | extract_lets +onlyGivenNames z
    | with_reducible apply State.good_foldl
    | split)

theorem State.fillCheck_good (s : State) (h : s.Good cq) :
    (State.fillCheck s).Good cq := by
  unfold State.fillCheck
  repeat' (first
    | with_reducible assumption
    | refine fun _ => ?_
    | with_reducible apply State.mapRcv_good
    | with_reducible apply State.mapVctx_good
    | with_reducible apply State.reply_good
    | with_reducible apply State.good_foldl
    | split)

theorem State.afterFlow_good (s : State) (at_ cyc : Nat) (h : s.Good cq) :
    (State.afterFlow s at_ cyc).Good cq := by
  unfold State.afterFlow
  repeat' (first
    | with_reducible assumption
    | with_reducible apply State.fillCheck_good
    | with_reducible apply State.startAllCopies_good)

theorem State.createCtx_good (s : State) (c n : Nat) (h : s.Good cq) :
    (State.createCtx s c n).Good cq := by
  unfold State.createCtx
  repeat' (first
    | with_reducible assumption
    | refine fun _ => ?_
    | with_reducible apply State.ldrRowsWrite_good
    | with_reducible apply State.put_good
    | with_reducible apply State.restoreRegions_good
    | (extract_lets +onlyGivenNames z; with_reducible apply State.good_cut (cq := cq) (s := z); rotate_left; clear_value z; intro hz; rotate_right; subst z)
    | extract_lets +onlyGivenNames z
    | with_reducible apply State.good_foldl
    | split)

theorem State.fillCommit_good (s : State) (h : s.Good cq) :
    (State.fillCommit s).Good cq := by
  unfold State.fillCommit
  repeat' (first
    | with_reducible assumption
    | refine fun _ => ?_
    | with_reducible apply State.add_good
    | with_reducible apply State.createCtx_good
    | with_reducible apply State.mapRcv_good
    | with_reducible apply State.put_good
    | with_reducible apply State.reply_good
    | with_reducible apply State.setFlow_good
    | with_reducible apply State.setWord_good
    | with_reducible apply State.good_foldl
    | (with_reducible refine State.good_ite (fun _ => ?_) (fun _ => ?_)))

theorem State.resumeIn_good (s : State) (h : s.Good cq) :
    (State.resumeIn s).Good cq := by
  unfold State.resumeIn
  repeat' (first
    | with_reducible assumption
    | refine fun _ => ?_
    | with_reducible apply State.mapRcv_good
    | with_reducible apply State.onCommand_good)

theorem State.resumeTick_good (s : State) (n at_ : Nat) (h : s.Good cq) :
    (State.resumeTick s n at_).Good cq := by
  unfold State.resumeTick
  repeat' (first
    | with_reducible assumption
    | refine fun _ => ?_
    | with_reducible apply State.mapRcv_good
    | with_reducible apply State.mapTick_good
    | with_reducible apply State.mbsEnable_good
    | with_reducible apply State.mbsOpen_good
    | with_reducible apply State.put_good
    | with_reducible apply State.skbLog_good
    | with_reducible apply State.good_foldl
    | split)

theorem State.shrinkIn_good (s : State) (h : s.Good cq) :
    (State.shrinkIn s).Good cq := by
  unfold State.shrinkIn
  repeat' (first
    | with_reducible assumption
    | refine fun _ => ?_
    | with_reducible apply State.freeze_good
    | with_reducible apply State.mapRcv_good
    | with_reducible apply State.onCommand_good)

theorem State.remap_good (s : State) (d l p0 : Nat) (h : s.Good cq) :
    (State.remap s d l p0).Good cq := by
  unfold State.remap
  repeat' (first
    | with_reducible assumption
    | refine fun _ => ?_
    | with_reducible apply State.put_good
    | with_reducible apply State.count_good
    | with_reducible apply State.sendFail_good
    | with_reducible apply State.mapRcv_good
    | with_reducible apply Tile.put_ok
    | with_reducible apply TW.put_ok
    | with_reducible apply TW.count_ok
    | with_reducible apply State.good_foldl
    | with_reducible apply State.good_foldl_snd
    | with_reducible apply State.good_foldl_fst
    | (extract_lets +onlyGivenNames z; with_reducible apply State.good_cut (cq := cq) (s := z); rotate_left; clear_value z; intro hz; rotate_right; subst z)
    | extract_lets +onlyGivenNames z
    | (refine State.good_lit ?_; dsimp only; exact State.Good.maps (by assumption))
    | with_reducible refine State.good_snd (by assumption) ?_
    | with_reducible refine State.good_trd (by assumption) ?_
    | with_reducible refine State.good_fst (by assumption) ?_
    | split
    | (clear_value *; split))

theorem State.loseSlots_good (s : State) (d : Nat) (h : s.Good cq) :
    (State.loseSlots s d).Good cq := by
  unfold State.loseSlots
  repeat' (first
    | with_reducible assumption
    | refine fun _ => ?_
    | with_reducible apply State.channelEnd_good
    | with_reducible apply State.setSlotState_good
    | with_reducible apply State.showNewest_good
    | with_reducible apply State.good_foldl
    | (with_reducible refine State.good_ite (fun _ => ?_) (fun _ => ?_)))

theorem State.stackLoss_good (s : State) (d p cyc : Nat) (h : s.Good cq) :
    (State.stackLoss s d p cyc).Good cq := by
  unfold State.stackLoss
  repeat' (first
    | with_reducible assumption
    | refine fun _ => ?_
    | with_reducible apply State.put_good
    | with_reducible apply State.count_good
    | with_reducible apply State.mapTile_good
    | with_reducible apply State.showTiles_good
    | with_reducible apply State.sendEvent_good
    | with_reducible apply State.onTileLow_good
    | with_reducible apply State.remap_good
    | with_reducible apply State.loseSlots_good
    | with_reducible apply Tile.put_ok
    | with_reducible apply TW.put_ok
    | with_reducible apply TW.count_ok
    | with_reducible apply TW.finish_ok
    | with_reducible apply State.tile_ok
    | with_reducible apply State.good_foldl
    | (extract_lets +onlyGivenNames z; with_reducible apply State.good_cut (cq := cq) (s := z); rotate_left; clear_value z; intro hz; rotate_right; subst z)
    | extract_lets +onlyGivenNames z
    | (refine State.good_lit ?_; dsimp only; exact State.Good.maps (by assumption))
    | (refine Tile.ok_lit ?_; dsimp only; exact Tile.Ok.maps (by assumption))
    | (refine TW.ok_lit ?_; dsimp only)
    | split)

end Sys2Proof.Machine
end

