-- ==== Sys2Proof/Laws/GoodCoordinator.lean ====
section
/-! SUPPORT. Every function of Machine/Coordinator.lean that answers a module keeps its maps canonical and its queue of commands. -/

namespace Sys2Proof.Machine

variable {cq : List Instr}

theorem State.ctrlAllOwn_good (s : State) (m : Ctrl) (h : s.Good cq) :
    (State.ctrlAllOwn s m).Good cq := by
  unfold State.ctrlAllOwn
  repeat' (first
    | with_reducible assumption
    | with_reducible apply State.toInbox_good
    | with_reducible apply State.inject_good
    | (extract_lets +onlyGivenNames z; with_reducible apply State.good_cut (cq := cq) (s := z); rotate_left; clear_value z; intro hz; rotate_right; subst z)
    | extract_lets +onlyGivenNames z
    | (refine State.good_lit ?_; dsimp only; exact State.Good.maps (by assumption)))

theorem State.failSpare_good (s : State) (h : s.Good cq) :
    (State.failSpare s).Good cq := by
  unfold State.failSpare
  repeat' (first
    | with_reducible assumption
    | with_reducible apply State.mapRcv_good
    | with_reducible apply State.put_good
    | split)

theorem State.sendState_good (s : State) (h : s.Good cq) :
    (State.sendState s).Good cq := by
  unfold State.sendState
  repeat' (first
    | with_reducible assumption
    | refine fun _ => ?_
    | with_reducible apply State.ctrl_good
    | with_reducible apply State.good_foldl
    | split)

theorem State.enterC_good (s : State) (st at_ : Nat) (h : s.Good cq) :
    (State.enterC s st at_).Good cq := by
  unfold State.enterC
  repeat' (first
    | with_reducible assumption
    | with_reducible apply State.mapRcv_good
    | with_reducible apply State.put_good
    | with_reducible apply State.sendState_good)

theorem State.sendPlan_good (s : State) (h : s.Good cq) :
    (State.sendPlan s).Good cq := by
  unfold State.sendPlan
  repeat' (first
    | with_reducible assumption
    | with_reducible apply State.ctrlAllOwn_good)

theorem State.sendRewire_good (s : State) (dests : List Nat) (h : s.Good cq) :
    (State.sendRewire s dests).Good cq := by
  unfold State.sendRewire
  repeat' (first
    | with_reducible assumption
    | refine fun _ => ?_
    | with_reducible apply State.ctrl_good
    | with_reducible apply State.good_foldl
    | split)

theorem State.fillSourcesOf_good (s : State) (x c : Nat) (h : s.Good cq) :
    (State.fillSourcesOf s x c).2.Good cq := by
  unfold State.fillSourcesOf
  repeat' (first
    | with_reducible assumption
    | with_reducible apply State.fresh64_good
    | extract_lets +onlyGivenNames z
    | split
    | with_reducible refine State.good_snd (by assumption) ?_)

theorem State.sendFill_good (s : State) (x c : Nat) (h : s.Good cq) :
    (State.sendFill s x c).Good cq := by
  unfold State.sendFill
  repeat' (first
    | with_reducible assumption
    | refine fun _ => ?_
    | with_reducible apply State.ctrl_good
    | with_reducible apply State.fillSourcesOf_good
    | with_reducible apply State.mapRcv_good
    | with_reducible apply State.good_foldl)

theorem State.sendFills_good (s : State) (h : s.Good cq) :
    (State.sendFills s).Good cq := by
  unfold State.sendFills
  repeat' (first
    | with_reducible assumption
    | refine fun _ => ?_
    | with_reducible apply State.sendFill_good
    | with_reducible apply State.good_foldl
    | split)

theorem State.decideNow_good (s : State) (at_ : Nat) (h : s.Good cq) :
    (State.decideNow s at_).Good cq := by
  unfold State.decideNow
  repeat' (first
    | with_reducible assumption
    | with_reducible apply State.ctrlAllOwn_good
    | with_reducible apply State.enterC_good
    | with_reducible apply State.mapRcv_good
    | with_reducible apply State.put_good
    | with_reducible apply State.rcvEvent_good
    | with_reducible apply State.sendPlan_good
    | with_reducible apply State.sendRewire_good
    | (extract_lets +onlyGivenNames z; with_reducible apply State.good_cut (cq := cq) (s := z); rotate_left; clear_value z; intro hz; rotate_right; subst z)
    | split)

theorem State.enterDecide_good (s : State) (at_ : Nat) (h : s.Good cq) :
    (State.enterDecide s at_).Good cq := by
  unfold State.enterDecide
  repeat' (first
    | with_reducible assumption
    | with_reducible apply State.decideNow_good
    | with_reducible apply State.emitRecover_good
    | with_reducible apply State.enterC_good
    | with_reducible apply State.mapRcv_good
    | with_reducible apply State.put_good
    | (with_reducible refine State.good_ite (fun _ => ?_) (fun _ => ?_)))

theorem State.coordRecover_good (s : State) (at_ : Nat) (h : s.Good cq) :
    (State.coordRecover s at_).Good cq := by
  unfold State.coordRecover
  repeat' (first
    | with_reducible assumption
    | with_reducible apply State.enterDecide_good
    | with_reducible apply State.mapRcv_good
    | (with_reducible refine State.good_ite (fun _ => ?_) (fun _ => ?_)))

theorem State.dropFill_good (s : State) (h : s.Good cq) :
    (State.dropFill s).Good cq := by
  unfold State.dropFill
  repeat' (first
    | with_reducible assumption
    | with_reducible apply State.count_good
    | with_reducible apply State.rcvEvent_good)

theorem State.declareLost_good (s : State) (x at_ : Nat) (h : s.Good cq) :
    (State.declareLost s x at_).Good cq := by
  unfold State.declareLost
  repeat' (first
    | with_reducible assumption
    | with_reducible apply State.count_good
    | with_reducible apply State.decideNow_good
    | with_reducible apply State.dropFill_good
    | with_reducible apply State.enterDecide_good
    | with_reducible apply State.failSpare_good
    | with_reducible apply State.mapRcv_good
    | with_reducible apply State.put_good
    | with_reducible apply State.rcvEvent_good
    | with_reducible apply State.sendState_good
    | (extract_lets +onlyGivenNames z; with_reducible apply State.good_cut (cq := cq) (s := z); rotate_left; clear_value z; intro hz; rotate_right; subst z)
    | (extract_lets +onlyGivenNames z; have h0 : _ → State := z; clear h0; subst z; try dsimp -zeta only)
    | extract_lets +onlyGivenNames z
    | split
    | (clear_value *; split))

theorem State.heartbeatTimer_good (s : State) (at_ : Nat) (h : s.Good cq) :
    (State.heartbeatTimer s at_).Good cq := by
  unfold State.heartbeatTimer
  repeat' (first
    | with_reducible assumption
    | with_reducible apply State.mapRcv_good
    | with_reducible apply State.reach_good
    | with_reducible apply State.toCoords_good
    | (with_reducible refine State.good_ite (fun _ => ?_) (fun _ => ?_)))

theorem State.heartbeatIn_good (s : State) (at_ : Nat) (h : s.Good cq) :
    (State.heartbeatIn s at_).Good cq := by
  unfold State.heartbeatIn
  repeat' (first
    | with_reducible assumption
    | with_reducible apply State.mapRcv_good
    | with_reducible refine State.popCtrl_good (by assumption) ?_
    | split)

theorem State.heartbeatMiss_good (s : State) (n at_ : Nat) (h : s.Good cq) :
    (State.heartbeatMiss s n at_).Good cq := by
  unfold State.heartbeatMiss
  repeat' (first
    | with_reducible assumption
    | with_reducible apply State.add_good
    | with_reducible apply State.declareLost_good
    | with_reducible apply State.mapRcv_good
    | with_reducible apply State.reach_good
    | (extract_lets +onlyGivenNames z; with_reducible apply State.good_cut (cq := cq) (s := z); rotate_left; clear_value z; intro hz; rotate_right; subst z)
    | split)

theorem State.failIn_good (s : State) (at_ : Nat) (h : s.Good cq) :
    (State.failIn s at_).Good cq := by
  unfold State.failIn
  repeat' (first
    | with_reducible assumption
    | with_reducible apply State.declareLost_good
    | with_reducible refine State.popCtrl_good (by assumption) ?_
    | split)

theorem State.linkdownIn_good (s : State) (at_ : Nat) (h : s.Good cq) :
    (State.linkdownIn s at_).Good cq := by
  unfold State.linkdownIn
  repeat' (first
    | with_reducible assumption
    | with_reducible apply State.declareLost_good
    | with_reducible apply State.mapRcv_good
    | with_reducible apply State.reach_good
    | extract_lets +onlyGivenNames z
    | with_reducible refine State.popCtrl_good (by assumption) ?_
    | split)

theorem State.confirmExpiry_good (s : State) (n at_ : Nat) (h : s.Good cq) :
    (State.confirmExpiry s n at_).Good cq := by
  unfold State.confirmExpiry
  repeat' (first
    | with_reducible assumption
    | with_reducible apply State.add_good
    | with_reducible apply State.mapRcv_good
    | with_reducible apply State.rcvEvent_good
    | with_reducible apply State.reach_good
    | extract_lets +onlyGivenNames z
    | (with_reducible refine State.good_ite (fun _ => ?_) (fun _ => ?_))
    | (clear_value *; split))

theorem State.eventIn_good (s : State) (at_ : Nat) (h : s.Good cq) :
    (State.eventIn s at_).Good cq := by
  unfold State.eventIn
  repeat' (first
    | with_reducible assumption
    | with_reducible apply State.enterDecide_good
    | with_reducible apply State.rcvEvent_good
    | (extract_lets +onlyGivenNames z; with_reducible apply State.good_cut (cq := cq) (s := z); rotate_left; clear_value z; intro hz; rotate_right; subst z)
    | with_reducible refine State.popCtrl_good (by assumption) ?_
    | split)

theorem State.addInfo_good (s : State) (y : SnapInfo) (h : s.Good cq) :
    (State.addInfo s y).Good cq := by
  unfold State.addInfo
  repeat' (first
    | with_reducible assumption
    | with_reducible apply State.mapRcv_good)

theorem State.snapInfoIn_good (s : State) (at_ : Nat) (h : s.Good cq) :
    (State.snapInfoIn s at_).Good cq := by
  unfold State.snapInfoIn
  repeat' (first
    | with_reducible assumption
    | with_reducible apply State.addInfo_good
    | with_reducible apply State.decideNow_good
    | (extract_lets +onlyGivenNames z; with_reducible apply State.good_cut (cq := cq) (s := z); rotate_left; clear_value z; intro hz; rotate_right; subst z)
    | with_reducible refine State.popCtrl_good (by assumption) ?_
    | split)

theorem State.tryResume_good (s : State) (at_ : Nat) (h : s.Good cq) :
    (State.tryResume s at_).Good cq := by
  unfold State.tryResume
  repeat' (first
    | with_reducible assumption
    | with_reducible apply State.ctrlAllOwn_good
    | with_reducible apply State.enterC_good
    | with_reducible apply State.enterDecide_good
    | with_reducible apply State.mapRcv_good
    | with_reducible apply State.put_good
    | (with_reducible refine State.good_ite (fun _ => ?_) (fun _ => ?_)))

theorem State.rewiredIn_good (s : State) (at_ : Nat) (h : s.Good cq) :
    (State.rewiredIn s at_).Good cq := by
  unfold State.rewiredIn
  repeat' (first
    | with_reducible assumption
    | with_reducible apply State.enterC_good
    | with_reducible apply State.mapRcv_good
    | with_reducible apply State.sendFills_good
    | (extract_lets +onlyGivenNames z; with_reducible apply State.good_cut (cq := cq) (s := z); rotate_left; clear_value z; intro hz; rotate_right; subst z)
    | with_reducible refine State.popCtrl_good (by assumption) ?_
    | split)

theorem State.filledIn_good (s : State) (at_ : Nat) (h : s.Good cq) :
    (State.filledIn s at_).Good cq := by
  unfold State.filledIn
  repeat' (first
    | with_reducible assumption
    | refine fun _ => ?_
    | with_reducible apply State.addInfo_good
    | with_reducible apply State.enterC_good
    | with_reducible apply State.enterDecide_good
    | with_reducible apply State.mapRcv_good
    | with_reducible apply State.tryResume_good
    | (extract_lets +onlyGivenNames z; with_reducible apply State.good_cut (cq := cq) (s := z); rotate_left; clear_value z; intro hz; rotate_right; subst z)
    | with_reducible apply State.good_foldl
    | with_reducible refine State.popCtrl_good (by assumption) ?_
    | split)

theorem State.abandonIn_good (s : State) (at_ : Nat) (h : s.Good cq) :
    (State.abandonIn s at_).Good cq := by
  unfold State.abandonIn
  repeat' (first
    | with_reducible assumption
    | with_reducible apply State.dropFill_good
    | with_reducible apply State.enterDecide_good
    | with_reducible apply State.failSpare_good
    | with_reducible apply State.mapRcv_good
    | with_reducible refine State.popCtrl_good (by assumption) ?_
    | split)

theorem State.restoredIn_good (s : State) (at_ : Nat) (h : s.Good cq) :
    (State.restoredIn s at_).Good cq := by
  unfold State.restoredIn
  repeat' (first
    | with_reducible assumption
    | with_reducible apply State.mapRcv_good
    | with_reducible apply State.tryResume_good
    | (extract_lets +onlyGivenNames z; with_reducible apply State.good_cut (cq := cq) (s := z); rotate_left; clear_value z; intro hz; rotate_right; subst z)
    | with_reducible refine State.popCtrl_good (by assumption) ?_
    | split)

theorem State.resumeEmit_good (s : State) (at_ : Nat) (h : s.Good cq) :
    (State.resumeEmit s at_).Good cq := by
  unfold State.resumeEmit
  repeat' (first
    | with_reducible assumption
    | with_reducible apply State.emitTick_good
    | with_reducible apply State.mapRcv_good
    | with_reducible apply State.put_good
    | with_reducible apply State.reach_good
    | split)

theorem State.rewireTimeout_good (s : State) (at_ : Nat) (h : s.Good cq) :
    (State.rewireTimeout s at_).Good cq := by
  unfold State.rewireTimeout
  repeat' (first
    | with_reducible assumption
    | with_reducible apply State.enterDecide_good
    | with_reducible apply State.failSpare_good
    | with_reducible apply State.reach_good
    | (with_reducible refine State.good_ite (fun _ => ?_) (fun _ => ?_)))

theorem State.fillTimeout_good (s : State) (at_ : Nat) (h : s.Good cq) :
    (State.fillTimeout s at_).Good cq := by
  unfold State.fillTimeout
  repeat' (first
    | with_reducible assumption
    | with_reducible apply State.dropFill_good
    | with_reducible apply State.enterDecide_good
    | with_reducible apply State.failSpare_good
    | with_reducible apply State.reach_good
    | (with_reducible refine State.good_ite (fun _ => ?_) (fun _ => ?_)))

theorem State.restoreTimeout_good (s : State) (at_ : Nat) (h : s.Good cq) :
    (State.restoreTimeout s at_).Good cq := by
  unfold State.restoreTimeout
  repeat' (first
    | with_reducible assumption
    | with_reducible apply State.enterDecide_good
    | with_reducible apply State.reach_good
    | (with_reducible refine State.good_ite (fun _ => ?_) (fun _ => ?_)))

theorem State.retry_good (s : State) (at_ : Nat) (h : s.Good cq) :
    (State.retry s at_).Good cq := by
  unfold State.retry
  repeat' (first
    | with_reducible assumption
    | with_reducible apply State.enterDecide_good
    | with_reducible apply State.reach_good
    | (with_reducible refine State.good_ite (fun _ => ?_) (fun _ => ?_)))

theorem State.abort_good (s : State) (at_ : Nat) (h : s.Good cq) :
    (State.abort s at_).Good cq := by
  unfold State.abort
  repeat' (first
    | with_reducible assumption
    | with_reducible apply State.enterC_good
    | with_reducible apply State.mapRcv_good
    | with_reducible apply State.reach_good
    | with_reducible apply State.stopEmission_good
    | (with_reducible refine State.good_ite (fun _ => ?_) (fun _ => ?_)))

theorem State.shrinkDone_good (s : State) (at_ : Nat) (h : s.Good cq) :
    (State.shrinkDone s at_).Good cq := by
  unfold State.shrinkDone
  repeat' (first
    | with_reducible assumption
    | with_reducible apply State.enterC_good
    | with_reducible apply State.mapRcv_good
    | with_reducible apply State.reach_good
    | with_reducible apply State.sendPlan_good
    | (with_reducible refine State.good_ite (fun _ => ?_) (fun _ => ?_)))

theorem State.adopt_good (s : State) (gen : Nat) (h : s.Good cq) :
    (State.adopt s gen).Good cq := by
  unfold State.adopt
  repeat' (first
    | with_reducible assumption
    | refine fun _ => ?_
    | with_reducible apply State.mapRcv_good
    | with_reducible apply State.put_good
    | extract_lets +onlyGivenNames z
    | with_reducible apply State.good_foldl
    | split)

theorem State.stateIn_good (s : State) (h : s.Good cq) :
    (State.stateIn s).Good cq := by
  unfold State.stateIn
  repeat' (first
    | with_reducible assumption
    | with_reducible apply State.add_good
    | with_reducible apply State.adopt_good
    | with_reducible apply State.mapRcv_good
    | with_reducible apply State.put_good
    | with_reducible refine State.popCtrl_good (by assumption) ?_
    | split)

theorem State.reissue_good (s : State) (at_ : Nat) (h : s.Good cq) :
    (State.reissue s at_).Good cq := by
  unfold State.reissue
  repeat' (first
    | with_reducible assumption
    | with_reducible apply State.ctrlAllOwn_good
    | with_reducible apply State.decideNow_good
    | with_reducible apply State.emitRecover_good
    | with_reducible apply State.sendFills_good
    | with_reducible apply State.sendPlan_good
    | with_reducible apply State.sendRewire_good
    | with_reducible apply State.tryResume_good
    | split)

theorem State.showCoord_good (s : State) (at_ : Nat) (h : s.Good cq) :
    (State.showCoord s at_).Good cq := by
  unfold State.showCoord
  repeat' (first
    | with_reducible assumption
    | with_reducible apply State.coordRecover_good
    | with_reducible apply State.mapRcv_good
    | with_reducible apply State.put_good
    | with_reducible apply State.reissue_good
    | (with_reducible refine State.good_ite (fun _ => ?_) (fun _ => ?_)))

end Sys2Proof.Machine
end

