-- ==== Sys2Proof/Laws/GoodTick.lean ====
section
/-! SUPPORT. Every function of Machine/Tick.lean that answers a module keeps its maps canonical and its queue of commands. -/

namespace Sys2Proof.Machine

variable {cq : List Instr}

theorem State.barrierRelease_good (s : State) (d c : Nat) (h : s.Good cq) :
    (State.barrierRelease s d c).Good cq := by
  unfold State.barrierRelease
  repeat' (first
    | with_reducible assumption
    | refine fun _ => ?_
    | with_reducible apply State.mapTile_good
    | with_reducible apply State.dieEvent_good
    | with_reducible apply State.onTileLow_good
    | with_reducible apply State.applyStaged_good
    | with_reducible apply State.migsAt_good
    | with_reducible apply TW.perf_ok
    | with_reducible apply Tile.release_ok
    | with_reducible apply State.tile_ok
    | with_reducible apply TW.map_ok
    | with_reducible apply State.good_foldl
    | (extract_lets +onlyGivenNames z; with_reducible apply State.good_cut (cq := cq) (s := z); rotate_left; clear_value z; intro hz; rotate_right; subst z)
    | extract_lets +onlyGivenNames z
    | (refine TW.ok_lit ?_; dsimp only)
    | split)

theorem State.moduleReadyAt_good (s : State) (at_ : Nat) (h : s.Good cq) :
    (State.moduleReadyAt s at_).Good cq := by
  unfold State.moduleReadyAt
  repeat' (first
    | with_reducible assumption
    | with_reducible apply State.checkRelease_good
    | with_reducible apply State.reach_good
    | with_reducible apply State.refreshReady_good)

theorem State.holdDeadline_good (s : State) (at_ : Nat) (h : s.Good cq) :
    (State.holdDeadline s at_).Good cq := by
  unfold State.holdDeadline
  repeat' (first
    | with_reducible assumption
    | with_reducible apply State.count_good
    | with_reducible apply State.holdMsg_good
    | with_reducible apply State.mapTick_good
    | with_reducible apply State.put_good
    | with_reducible apply State.reach_good
    | with_reducible apply State.toMasters_good
    | (with_reducible refine State.good_ite (fun _ => ?_) (fun _ => ?_)))

theorem State.holdIn_good (s : State) (at_ : Nat) (h : s.Good cq) :
    (State.holdIn s at_).Good cq := by
  unfold State.holdIn
  repeat' (first
    | with_reducible assumption
    | with_reducible apply State.add_good
    | with_reducible apply State.holdMsg_good
    | with_reducible apply State.reach_good
    | with_reducible refine State.popTick_good (by assumption) ?_
    | split)

theorem State.releaseIn_good (s : State) (at_ : Nat) (h : s.Good cq) :
    (State.releaseIn s at_).Good cq := by
  unfold State.releaseIn
  repeat' (first
    | with_reducible assumption
    | with_reducible apply State.holdMsg_good
    | with_reducible apply State.reach_good
    | with_reducible refine State.popTick_good (by assumption) ?_
    | split)

theorem State.scheduledTime_good (s : State) (at_ : Nat) (h : s.Good cq) :
    (State.scheduledTime s at_).Good cq := by
  unfold State.scheduledTime
  repeat' (first
    | with_reducible assumption
    | with_reducible apply State.add_good
    | with_reducible apply State.emitTick_good
    | with_reducible apply State.mapTick_good
    | with_reducible apply State.reach_good
    | with_reducible apply State.stopEmission_good
    | (with_reducible refine State.good_ite (fun _ => ?_) (fun _ => ?_)))

theorem State.holdExpiry_good (s : State) (at_ : Nat) (h : s.Good cq) :
    (State.holdExpiry s at_).Good cq := by
  unfold State.holdExpiry
  repeat' (first
    | with_reducible assumption
    | with_reducible apply State.coordRecover_good
    | with_reducible apply State.emitRecover_good
    | with_reducible apply State.reach_good
    | (with_reducible refine State.good_ite (fun _ => ?_) (fun _ => ?_)))

theorem State.overrunIn_good (s : State) (at_ : Nat) (h : s.Good cq) :
    (State.overrunIn s at_).Good cq := by
  unfold State.overrunIn
  repeat' (first
    | with_reducible assumption
    | with_reducible apply State.coordRecover_good
    | with_reducible apply State.emitRecover_good
    | with_reducible apply State.put_good
    | with_reducible apply State.reach_good
    | (extract_lets +onlyGivenNames z; with_reducible apply State.good_cut (cq := cq) (s := z); rotate_left; clear_value z; intro hz; rotate_right; subst z)
    | with_reducible refine State.popTick_good (by assumption) ?_
    | split)

theorem State.recover_good (s : State) (at_ : Nat) (h : s.Good cq) :
    (State.recover s at_).Good cq := by
  unfold State.recover
  repeat' (first
    | with_reducible assumption
    | with_reducible apply State.coordRecover_good
    | with_reducible apply State.mapTick_good
    | with_reducible apply State.reach_good
    | with_reducible apply State.recoverIn_good
    | with_reducible refine State.popTick_good (by assumption) ?_
    | split)

theorem State.runWrite_good (s : State) (v at_ : Nat) (h : s.Good cq) :
    (State.runWrite s v at_).Good cq := by
  unfold State.runWrite
  repeat' (first
    | with_reducible assumption
    | with_reducible apply State.emitTick_good
    | with_reducible apply State.mapTick_good
    | with_reducible apply State.put_good
    | with_reducible apply State.reach_good
    | (with_reducible refine State.good_ite (fun _ => ?_) (fun _ => ?_)))

theorem State.tickReject_good (s : State) (h : s.Good cq) :
    (State.tickReject s).Good cq := by
  unfold State.tickReject
  repeat' (first
    | with_reducible assumption
    | with_reducible apply State.put_good)

theorem State.tickNextWrite_good (s : State) (v : Nat) (h : s.Good cq) :
    (State.tickNextWrite s v).Good cq := by
  unfold State.tickNextWrite
  repeat' (first
    | with_reducible assumption
    | with_reducible apply State.put_good
    | with_reducible apply State.tickReject_good
    | (with_reducible refine State.good_ite (fun _ => ?_) (fun _ => ?_)))

theorem State.periodWrite_good (s : State) (v : Nat) (h : s.Good cq) :
    (State.periodWrite s v).Good cq := by
  unfold State.periodWrite
  repeat' (first
    | with_reducible assumption
    | with_reducible apply State.put_good
    | with_reducible apply State.tickReject_good
    | (with_reducible refine State.good_ite (fun _ => ?_) (fun _ => ?_)))

theorem State.limitWrite_good (s : State) (v : Nat) (h : s.Good cq) :
    (State.limitWrite s v).Good cq := by
  unfold State.limitWrite
  repeat' (first
    | with_reducible assumption
    | with_reducible apply State.put_good
    | with_reducible apply State.tickReject_good
    | (with_reducible refine State.good_ite (fun _ => ?_) (fun _ => ?_)))

theorem State.releaseTicks_good (s : State) (cyc : Nat → Nat) (held : Nat → Bool) (h : s.Good cq) :
    (State.releaseTicks s cyc held).Good cq := by
  unfold State.releaseTicks
  repeat' (first
    | with_reducible assumption
    | refine fun _ => ?_
    | with_reducible apply State.migsAt_good
    | with_reducible apply State.onTileLow_good
    | with_reducible apply State.good_foldl
    | (with_reducible refine State.good_ite (fun _ => ?_) (fun _ => ?_))
    | with_reducible apply State.tile_ok
    | with_reducible apply TW.perf_ok
    | with_reducible apply Tile.tickRelease_ok
    | with_reducible apply TW.map_ok)

theorem State.takePeriod_good (s : State) (p l : Nat) (h : s.Good cq) :
    (State.takePeriod s p l).Good cq := by
  unfold State.takePeriod
  repeat' (first
    | with_reducible assumption
    | with_reducible apply State.add_good
    | with_reducible apply State.mapTick_good
    | with_reducible apply State.put_good
    | (with_reducible refine State.good_ite (fun _ => ?_) (fun _ => ?_)))

theorem State.overrun_good (s : State) (n : Nat) (late : List Nat) (h : s.Good cq) :
    (State.overrun s n late).Good cq := by
  unfold State.overrun
  repeat' (first
    | with_reducible assumption
    | refine fun _ => ?_
    | with_reducible apply State.count_good
    | with_reducible apply State.ctxEvent_good
    | with_reducible apply State.mapTick_good
    | with_reducible apply State.put_good
    | with_reducible apply State.toMasters_good
    | with_reducible apply State.good_foldl
    | (with_reducible refine State.good_ite (fun _ => ?_) (fun _ => ?_)))

theorem State.acceptTick_good (s : State) (x : Flit) (at_ : Nat) (cyc : Nat → Nat) (h : s.Good cq) :
    (State.acceptTick s x at_ cyc).Good cq := by
  unfold State.acceptTick
  repeat' (first
    | with_reducible assumption
    | refine fun _ => ?_
    | with_reducible apply State.put_good
    | with_reducible apply State.count_good
    | with_reducible apply State.bind_good
    | with_reducible apply State.rebase_good
    | with_reducible apply State.loseReady_good
    | with_reducible apply State.clearHolds_good
    | with_reducible apply State.mapTick_good
    | with_reducible apply State.sendPing_good
    | with_reducible apply State.endHold_good
    | with_reducible apply State.resumeTick_good
    | with_reducible apply State.releaseTicks_good
    | with_reducible apply State.takePeriod_good
    | with_reducible apply State.overrun_good
    | with_reducible apply Tile.put_ok
    | with_reducible apply TW.put_ok
    | with_reducible apply TW.count_ok
    | (extract_lets +onlyGivenNames z; with_reducible apply State.good_cut (cq := cq) (s := z); rotate_left; clear_value z; intro hz; rotate_right; subst z)
    | extract_lets +onlyGivenNames z
    | (refine State.good_lit ?_; dsimp only; exact State.Good.maps (by assumption))
    | split)

theorem State.claimHears_good (s : State) (x : Flit) (h : s.Good cq) :
    (State.claimHears s x).Good cq := by
  unfold State.claimHears
  repeat' (first
    | with_reducible assumption
    | with_reducible apply State.yieldClaim_good
    | (with_reducible refine State.good_ite (fun _ => ?_) (fun _ => ?_)))

theorem State.tickIn_good (s : State) (at_ : Nat) (cyc : Nat → Nat) (h : s.Good cq) :
    (State.tickIn s at_ cyc).Good cq := by
  unfold State.tickIn
  repeat' (first
    | with_reducible assumption
    | refine fun _ => ?_
    | with_reducible apply State.count_good
    | with_reducible apply State.reach_good
    | with_reducible refine State.popTick_good (by assumption) ?_
    | with_reducible apply State.mapTick_good
    | with_reducible apply State.demote_good
    | with_reducible apply State.showCoord_good
    | with_reducible apply State.acceptTick_good
    | with_reducible apply State.claimHears_good
    | with_reducible apply TW.count_ok
    | (extract_lets +onlyGivenNames z; with_reducible apply State.good_cut (cq := cq) (s := z); rotate_left; clear_value z; intro hz; rotate_right; subst z)
    | extract_lets +onlyGivenNames z
    | (refine State.good_lit ?_; dsimp only; exact State.Good.maps (by assumption))
    | with_reducible refine State.good_snd (by assumption) ?_
    | with_reducible refine State.good_fst (by assumption) ?_
    | split)

theorem State.tickHeartbeat_good (s : State) (h : s.Good cq) :
    (State.tickHeartbeat s).Good cq := by
  unfold State.tickHeartbeat
  repeat' (first
    | with_reducible assumption
    | with_reducible apply State.tickTo_good
    | split)

theorem State.tickHeartbeatIn_good (s : State) (at_ : Nat) (h : s.Good cq) :
    (State.tickHeartbeatIn s at_).Good cq := by
  unfold State.tickHeartbeatIn
  repeat' (first
    | with_reducible assumption
    | with_reducible apply State.claimHears_good
    | with_reducible apply State.mapTick_good
    | with_reducible apply State.put_good
    | with_reducible apply State.reach_good
    | with_reducible refine State.popTick_good (by assumption) ?_
    | split)

theorem State.masterLoss_good (s : State) (at_ : Nat) (h : s.Good cq) :
    (State.masterLoss s at_).Good cq := by
  unfold State.masterLoss
  repeat' (first
    | with_reducible assumption
    | refine fun _ => ?_
    | with_reducible apply State.put_good
    | with_reducible apply State.count_good
    | with_reducible apply State.reach_good
    | with_reducible apply State.tickAll_good
    | with_reducible apply State.mapTick_good
    | with_reducible apply State.showCoord_good
    | with_reducible apply Tile.put_ok
    | with_reducible apply TW.put_ok
    | with_reducible apply TW.count_ok
    | (extract_lets +onlyGivenNames z; with_reducible apply State.good_cut (cq := cq) (s := z); rotate_left; clear_value z; intro hz; rotate_right; subst z)
    | extract_lets +onlyGivenNames z
    | (refine State.good_lit ?_; dsimp only; exact State.Good.maps (by assumption))
    | split)

theorem State.takeoverIn_good (s : State) (at_ : Nat) (h : s.Good cq) :
    (State.takeoverIn s at_).Good cq := by
  unfold State.takeoverIn
  repeat' (first
    | with_reducible assumption
    | with_reducible apply State.count_good
    | with_reducible apply State.demote_good
    | with_reducible apply State.showCoord_good
    | with_reducible refine State.popTick_good (by assumption) ?_
    | split)

theorem State.roleCount_good (s : State) (h : s.Good cq) :
    (State.roleCount s).Good cq := by
  unfold State.roleCount
  repeat' (first
    | with_reducible assumption
    | with_reducible apply State.count_good)

theorem State.claimMasterIn_good (s : State) (h : s.Good cq) :
    (State.claimMasterIn s).Good cq := by
  unfold State.claimMasterIn
  repeat' (first
    | with_reducible assumption
    | with_reducible apply State.roleCount_good
    | with_reducible apply State.yieldClaim_good
    | with_reducible refine State.popTick_good (by assumption) ?_
    | split)

theorem State.claimStandbyIn_good (s : State) (at_ : Nat) (h : s.Good cq) :
    (State.claimStandbyIn s at_).Good cq := by
  unfold State.claimStandbyIn
  repeat' (first
    | with_reducible assumption
    | with_reducible apply State.mapTick_good
    | with_reducible apply State.recordStandby_good
    | with_reducible apply State.roleCount_good
    | with_reducible apply State.yieldClaim_good
    | extract_lets +onlyGivenNames z
    | with_reducible refine State.popTick_good (by assumption) ?_
    | split)

theorem State.claimEnd_good (s : State) (at_ : Nat) (h : s.Good cq) :
    (State.claimEnd s at_).Good cq := by
  unfold State.claimEnd
  repeat' (first
    | with_reducible assumption
    | with_reducible apply State.mapTick_good
    | with_reducible apply State.put_good
    | with_reducible apply State.reach_good
    | with_reducible apply State.showCoord_good
    | (with_reducible refine State.good_ite (fun _ => ?_) (fun _ => ?_)))

theorem State.roleCfgWrite_good (s : State) (v at_ : Nat) (h : s.Good cq) :
    (State.roleCfgWrite s v at_).Good cq := by
  unfold State.roleCfgWrite
  repeat' (first
    | with_reducible assumption
    | with_reducible apply State.put_good
    | with_reducible apply State.reach_good
    | with_reducible apply State.lockViolation_good
    | with_reducible apply State.clearHolds_good
    | with_reducible apply State.demote_good
    | with_reducible apply State.claimRole_good
    | with_reducible apply State.showCoord_good
    | with_reducible apply State.tickReject_good
    | with_reducible apply Tile.put_ok
    | with_reducible apply TW.put_ok
    | (extract_lets +onlyGivenNames z; with_reducible apply State.good_cut (cq := cq) (s := z); rotate_left; clear_value z; intro hz; rotate_right; subst z)
    | extract_lets +onlyGivenNames z
    | (with_reducible refine State.good_ite (fun _ => ?_) (fun _ => ?_)))

theorem State.pingIn_good (s : State) (h : s.Good cq) :
    (State.pingIn s).Good cq := by
  unfold State.pingIn
  repeat' (first
    | with_reducible assumption
    | with_reducible apply State.inject_good
    | with_reducible refine State.popTick_good (by assumption) ?_
    | split)

theorem State.echoIn_good (s : State) (at_ : Nat) (h : s.Good cq) :
    (State.echoIn s at_).Good cq := by
  unfold State.echoIn
  repeat' (first
    | with_reducible assumption
    | with_reducible apply State.put_good
    | with_reducible apply State.reach_good
    | extract_lets +onlyGivenNames z
    | with_reducible refine State.popTick_good (by assumption) ?_
    | split)

end Sys2Proof.Machine
end

