-- ==== Sys2Proof/Laws/GoodPerf.lean ====
section
/-! SUPPORT. Every function of Machine/Perf.lean that answers a module keeps its maps canonical and its queue of commands. -/

namespace Sys2Proof.Machine

variable {cq : List Instr}

theorem State.byHost_good (s : State) (a : Nat) (k : State → State) (hk : ∀ z0, State.Good z0 cq → State.Good (k z0) cq) (h : s.Good cq) :
    (State.byHost s a k).Good cq := by
  unfold State.byHost
  repeat' (first
    | with_reducible assumption
    | with_reducible apply hk
    | (with_reducible refine State.good_ite (fun _ => ?_) (fun _ => ?_)))

theorem State.moduleRead_good (s : State) (a n at_ : Nat) (h : s.Good cq) :
    (State.moduleRead s a n at_).2.Good cq := by
  unfold State.moduleRead
  repeat' (first
    | with_reducible assumption
    | with_reducible apply State.put_good
    | with_reducible apply State.setWord_good
    | (extract_lets +onlyGivenNames z; with_reducible apply State.good_cut (cq := cq) (s := z); rotate_left; clear_value z; intro hz; rotate_right; subst z)
    | extract_lets +onlyGivenNames z
    | split)

theorem State.hostRead_good (s : State) (func a n at_ : Nat) (h : s.Good cq) :
    (State.hostRead s func a n at_).Good cq := by
  unfold State.hostRead
  repeat' (first
    | with_reducible assumption
    | with_reducible apply State.answer_good
    | with_reducible apply State.errc_good
    | with_reducible apply State.moduleRead_good
    | split)

theorem State.tileEvenRead_good (s : State) (p j : Nat) (h : s.Good cq) :
    (State.tileEvenRead s p j).Good cq := by
  unfold State.tileEvenRead
  repeat' (first
    | with_reducible assumption
    | with_reducible apply State.answer_good
    | with_reducible apply State.setTile_good
    | with_reducible apply State.tile_ok
    | with_reducible apply Tile.put_ok)

theorem State.perfTaddr_good (s : State) (v : Word) (h : s.Good cq) :
    (State.perfTaddr s v).Good cq := by
  unfold State.perfTaddr
  repeat' (first
    | with_reducible assumption
    | refine fun _ => ?_
    | with_reducible apply State.put_good
    | with_reducible apply State.setWord_good
    | with_reducible apply State.good_foldl
    | with_reducible apply State.tile_ok
    | exact Tile.fresh_ok
    | (with_reducible refine Tile.ok_ite (fun _ => ?_) (fun _ => ?_)))

theorem State.clearHbmHist_good (s : State) (h : s.Good cq) :
    (State.clearHbmHist s).Good cq := by
  unfold State.clearHbmHist
  repeat' (first
    | with_reducible assumption
    | refine fun _ => ?_
    | with_reducible apply State.clearRegs_good
    | with_reducible apply State.good_foldl)

theorem State.clearSyncHist_good (s : State) (h : s.Good cq) :
    (State.clearSyncHist s).Good cq := by
  unfold State.clearSyncHist
  repeat' (first
    | with_reducible assumption
    | refine fun _ => ?_
    | with_reducible apply State.clearRegs_good
    | with_reducible apply State.good_foldl)

theorem State.clearFlowHist_good (s : State) (h : s.Good cq) :
    (State.clearFlowHist s).Good cq := by
  unfold State.clearFlowHist
  repeat' (first
    | with_reducible assumption
    | refine fun _ => ?_
    | with_reducible apply State.clearRegs_good
    | with_reducible apply State.good_foldl)

end Sys2Proof.Machine
end

