-- ==== Sys2Proof/Laws/GoodReset.lean ====
section
/-! SUPPORT. Every function of Machine/Reset.lean that answers a module keeps its maps canonical and its queue of commands. -/

namespace Sys2Proof.Machine

variable {cq : List Instr}

theorem State.resetCore_good (s : State) (cold : Bool) (cause at_ : Nat) (h : s.Good cq) :
    (State.resetCore s cold cause at_).Good cq := by
  unfold State.resetCore
  extract_lets s1 r1 r2 r3 r4 h0 hb pw
  have h1 : s1.Good cq := State.reach_good _ _ h
  have g1 : SMap.wf r1 moduleReset = true := SMap.foldl_wf _ _ _ _ (fun _ _ h => rset_wf _ _ _ _ h) rfl
  have g2 : SMap.wf r2 moduleReset = true := rput_wf _ _ _ _ g1
  have g3 : SMap.wf r3 moduleReset = true := by
    simp only [r3]; split
    · exact g2
    · exact rput_wf _ _ _ _ (rput_wf _ _ _ _ g2)
  have g4 : SMap.wf r4 moduleReset = true := by
    simp only [r4]; split
    · exact g3
    · exact rput_wf _ _ _ _ g3
  have g5 : SMap.wf hb.mem (fun _ => 0) = true := by
    cases cold
    · exact h1.mem
    · rfl
  exact State.good_lit ⟨h1.pend, g4, rfl, g5, TilesOk.nil⟩

theorem State.resetModule_good (s : State) (cause at_ : Nat) (h : s.Good cq) :
    (State.resetModule s cause at_).Good cq := by
  unfold State.resetModule
  repeat' (first
    | with_reducible assumption
    | with_reducible apply State.put_good
    | with_reducible apply State.resetCore_good
    | (with_reducible refine State.good_ite (fun _ => ?_) (fun _ => ?_)))

theorem State.resetCold_good (s : State) (at_ : Nat) (h : s.Good cq) :
    (State.resetCold s at_).Good cq := by
  unfold State.resetCold
  repeat' (first
    | with_reducible assumption
    | with_reducible apply State.resetCore_good)

theorem State.powerDown_good (s : State) (at_ : Nat) (h : s.Good cq) :
    (State.powerDown s at_).Good cq := by
  unfold State.powerDown
  extract_lets a r p0 w1 w2
  have h1 : a.Good cq := State.resetCore_good _ _ _ _ h
  have h2 : SMap.wf r moduleReset = true := SMap.foldl_wf _ _ _ _ (fun _ _ h => rset_wf _ _ _ _ h) h1.regs
  have h3 : w1.Good cq := State.good_lit (h1.maps.setRegs fun _ => h2)
  have h4 : w2.Good cq := State.put_good _ _ _ h3
  exact State.good_foldl _ _ _ (fun s d h => State.put_good _ _ _ (State.put_good _ _ _ h)) h4

end Sys2Proof.Machine
end

