-- ==== Sys2Proof/Laws/GoodEasel.lean ====
section
/-! SUPPORT. Every function of Machine/Easel.lean that answers a module keeps its maps canonical and its queue of commands. -/

namespace Sys2Proof.Machine

variable {cq : List Instr}

theorem State.mapEas_good (s : State) (g : EasSt → EasSt) (h : s.Good cq) :
    (State.mapEas s g).Good cq := by
  unfold State.mapEas
  repeat' (first
    | with_reducible assumption
    | (refine State.good_lit ?_; dsimp only; exact State.Good.maps (by assumption)))

theorem State.mirrorFuses_good (s : State) (h : s.Good cq) :
    (State.mirrorFuses s).Good cq := by
  unfold State.mirrorFuses
  repeat' (first
    | with_reducible assumption
    | with_reducible apply State.mapEas_good)

theorem State.setLocks_good (s : State) (m : Nat) (h : s.Good cq) :
    (State.setLocks s m).Good cq := by
  unfold State.setLocks
  repeat' (first
    | with_reducible assumption
    | with_reducible apply State.put_good
    | (with_reducible refine State.good_ite (fun _ => ?_) (fun _ => ?_)))

theorem State.setSensor_good (s : State) (k : Nat) (x : Sensor) (h : s.Good cq) :
    (State.setSensor s k x).Good cq := by
  unfold State.setSensor
  repeat' (first
    | with_reducible assumption
    | with_reducible apply State.mapEas_good)

theorem State.reading_good (s : State) (k v : Nat) (h : s.Good cq) :
    (State.reading s k v).Good cq := by
  unfold State.reading
  repeat' (first
    | with_reducible assumption
    | with_reducible apply State.errc_good
    | with_reducible apply State.setSensor_good
    | (with_reducible refine State.good_ite (fun _ => ?_) (fun _ => ?_)))

theorem State.easOk_good (s : State) (l : List Nat) (h : s.Good cq) :
    (State.easOk s l).1.Good cq := by
  unfold State.easOk
  repeat' (first
    | with_reducible assumption)

theorem State.easNo_good (s : State) (st : Nat) (h : s.Good cq) :
    (State.easNo s st).1.Good cq := by
  unfold State.easNo
  repeat' (first
    | with_reducible assumption)

theorem State.getId_good (s : State) (h : s.Good cq) :
    (State.getId s).1.Good cq := by
  unfold State.getId
  repeat' (first
    | with_reducible assumption
    | with_reducible apply State.easOk_good)

theorem State.getStatus_good (s : State) (h : s.Good cq) :
    (State.getStatus s).1.Good cq := by
  unfold State.getStatus
  repeat' (first
    | with_reducible assumption
    | with_reducible apply State.easOk_good)

theorem State.getSensor_good (s : State) (p : List Nat) (h : s.Good cq) :
    (State.getSensor s p).1.Good cq := by
  unfold State.getSensor
  repeat' (first
    | with_reducible assumption
    | with_reducible apply State.easNo_good
    | with_reducible apply State.easOk_good
    | extract_lets +onlyGivenNames z
    | split)

theorem State.getErrc_good (s : State) (p : List Nat) (h : s.Good cq) :
    (State.getErrc s p).1.Good cq := by
  unfold State.getErrc
  repeat' (first
    | with_reducible assumption
    | with_reducible apply State.easNo_good
    | with_reducible apply State.easOk_good
    | extract_lets +onlyGivenNames z
    | split)

theorem State.readLog_good (s : State) (p : List Nat) (h : s.Good cq) :
    (State.readLog s p).1.Good cq := by
  unfold State.readLog
  repeat' (first
    | with_reducible assumption
    | with_reducible apply State.easNo_good
    | with_reducible apply State.easOk_good
    | extract_lets +onlyGivenNames z
    | split)

theorem State.setNext_good (s : State) (p : List Nat) (h : s.Good cq) :
    (State.setNext s p).1.Good cq := by
  unfold State.setNext
  repeat' (first
    | with_reducible assumption
    | with_reducible apply State.easNo_good
    | with_reducible apply State.easOk_good
    | with_reducible apply State.put_good
    | extract_lets +onlyGivenNames z
    | split)

theorem State.stageProfile_good (s : State) (p : List Nat) (h : s.Good cq) :
    (State.stageProfile s p).1.Good cq := by
  unfold State.stageProfile
  repeat' (first
    | with_reducible assumption
    | with_reducible apply State.easNo_good
    | with_reducible apply State.easOk_good
    | with_reducible apply State.mapEas_good
    | extract_lets +onlyGivenNames z
    | split)

theorem State.commitProfile_good (s : State) (p : List Nat) (h : s.Good cq) :
    (State.commitProfile s p).1.Good cq := by
  unfold State.commitProfile
  repeat' (first
    | with_reducible assumption
    | with_reducible apply State.easNo_good
    | with_reducible apply State.easOk_good
    | with_reducible apply State.mapEas_good
    | with_reducible apply State.mirrorFuses_good
    | with_reducible apply State.put_good
    | extract_lets +onlyGivenNames z
    | split)

theorem State.readProfile_good (s : State) (p : List Nat) (h : s.Good cq) :
    (State.readProfile s p).1.Good cq := by
  unfold State.readProfile
  repeat' (first
    | with_reducible assumption
    | with_reducible apply State.easNo_good
    | with_reducible apply State.easOk_good
    | extract_lets +onlyGivenNames z
    | split)

theorem State.setLock_good (s : State) (p : List Nat) (h : s.Good cq) :
    (State.setLock s p).1.Good cq := by
  unfold State.setLock
  repeat' (first
    | with_reducible assumption
    | with_reducible apply State.easOk_good
    | with_reducible apply State.setLocks_good)

theorem State.moduleResetCmd_good (s : State) (p : List Nat) (h : s.Good cq) :
    (State.moduleResetCmd s p).1.Good cq := by
  unfold State.moduleResetCmd
  repeat' (first
    | with_reducible assumption
    | with_reducible apply State.easNo_good
    | with_reducible apply State.easOk_good
    | split)

theorem State.stageFw_good (s : State) (p : List Nat) (h : s.Good cq) :
    (State.stageFw s p).1.Good cq := by
  unfold State.stageFw
  repeat' (first
    | with_reducible assumption
    | with_reducible apply State.easNo_good
    | with_reducible apply State.easOk_good
    | with_reducible apply State.mapEas_good
    | extract_lets +onlyGivenNames z
    | split)

theorem State.commitFw_good (s : State) (p : List Nat) (h : s.Good cq) :
    (State.commitFw s p).1.Good cq := by
  unfold State.commitFw
  repeat' (first
    | with_reducible assumption
    | with_reducible apply State.easNo_good
    | with_reducible apply State.easOk_good
    | with_reducible apply State.mapEas_good
    | extract_lets +onlyGivenNames z
    | split)

theorem State.advanceSvn_good (s : State) (p : List Nat) (h : s.Good cq) :
    (State.advanceSvn s p).1.Good cq := by
  unfold State.advanceSvn
  repeat' (first
    | with_reducible assumption
    | with_reducible apply State.easNo_good
    | with_reducible apply State.easOk_good
    | with_reducible apply State.mirrorFuses_good
    | with_reducible apply State.put_good
    | extract_lets +onlyGivenNames z
    | split)

theorem State.easRun_good (s : State) (code : Nat) (p : List Nat) (h : s.Good cq) :
    (State.easRun s code p).1.Good cq := by
  unfold State.easRun
  repeat' (first
    | with_reducible assumption
    | with_reducible apply State.advanceSvn_good
    | with_reducible apply State.commitFw_good
    | with_reducible apply State.commitProfile_good
    | with_reducible apply State.easNo_good
    | with_reducible apply State.getErrc_good
    | with_reducible apply State.getId_good
    | with_reducible apply State.getSensor_good
    | with_reducible apply State.getStatus_good
    | with_reducible apply State.moduleResetCmd_good
    | with_reducible apply State.readLog_good
    | with_reducible apply State.readProfile_good
    | with_reducible apply State.setLock_good
    | with_reducible apply State.setNext_good
    | with_reducible apply State.stageFw_good
    | with_reducible apply State.stageProfile_good
    | split)

theorem State.easChecked_good (s : State) (code len : Nat) (p : List Nat) (h : s.Good cq) :
    (State.easChecked s code len p).1.Good cq := by
  unfold State.easChecked
  repeat' (first
    | with_reducible assumption
    | with_reducible apply State.easNo_good
    | with_reducible apply State.easRun_good
    | split)

theorem State.countStatus_good (s : State) (st : Nat) (h : s.Good cq) :
    (State.countStatus s st).Good cq := by
  unfold State.countStatus
  repeat' (first
    | with_reducible assumption
    | with_reducible apply State.errc_good
    | with_reducible apply State.mapEas_good
    | (with_reducible refine State.good_ite (fun _ => ?_) (fun _ => ?_)))

theorem State.busAnswer_good (s : State) (st tag : Nat) (r : List Nat) (h : s.Good cq) :
    (State.busAnswer s st tag r).Good cq := by
  unfold State.busAnswer
  repeat' (first
    | with_reducible assumption
    | with_reducible apply State.mapEas_good)

theorem State.mailAnswer_good (s : State) (st tag : Nat) (r : List Nat) (h : s.Good cq) :
    (State.mailAnswer s st tag r).Good cq := by
  unfold State.mailAnswer
  repeat' (first
    | with_reducible assumption
    | refine fun _ => ?_
    | with_reducible apply State.mapEas_good
    | with_reducible apply State.msix_good
    | with_reducible apply State.put_good
    | with_reducible apply State.setWord_good
    | with_reducible apply State.good_foldl
    | (with_reducible refine State.good_ite (fun _ => ?_) (fun _ => ?_)))

theorem State.thenReset_good (s : State) (code st at_ : Nat) (h : s.Good cq) :
    (State.thenReset s code st at_).Good cq := by
  unfold State.thenReset
  repeat' (first
    | with_reducible assumption
    | with_reducible apply State.resetModule_good
    | (with_reducible refine State.good_ite (fun _ => ?_) (fun _ => ?_)))

theorem State.busCommand_good (s : State) (code tag : Nat) (p : List Nat) (crc at_ : Nat) (h : s.Good cq) :
    (State.busCommand s code tag p crc at_).Good cq := by
  unfold State.busCommand
  repeat' (first
    | with_reducible assumption
    | with_reducible apply State.busAnswer_good
    | with_reducible apply State.countStatus_good
    | with_reducible apply State.easChecked_good
    | with_reducible apply State.easNo_good
    | with_reducible apply State.thenReset_good
    | split)

theorem State.mailCommand_good (s : State) (code at_ : Nat) (h : s.Good cq) :
    (State.mailCommand s code at_).Good cq := by
  unfold State.mailCommand
  repeat' (first
    | with_reducible assumption
    | with_reducible apply State.countStatus_good
    | with_reducible apply State.easChecked_good
    | with_reducible apply State.mailAnswer_good
    | with_reducible apply State.thenReset_good
    | split)

theorem State.mailStart_good (s : State) (v : Word) (h : s.Good cq) :
    (State.mailStart s v).Good cq := by
  unfold State.mailStart
  repeat' (first
    | with_reducible assumption
    | with_reducible apply State.countStatus_good
    | with_reducible apply State.errc_good
    | with_reducible apply State.mailAnswer_good
    | with_reducible apply State.mapEas_good
    | with_reducible apply State.put_good
    | (with_reducible refine State.good_ite (fun _ => ?_) (fun _ => ?_)))

theorem State.mailTimeout_good (s : State) (h : s.Good cq) :
    (State.mailTimeout s).Good cq := by
  unfold State.mailTimeout
  repeat' (first
    | with_reducible assumption
    | with_reducible apply State.countStatus_good
    | with_reducible apply State.mailAnswer_good
    | split)

theorem State.assignAddress_good (s : State) (a at_ : Nat) (h : s.Good cq) :
    (State.assignAddress s a at_).Good cq := by
  unfold State.assignAddress
  repeat' (first
    | with_reducible assumption
    | with_reducible apply State.mapEas_good
    | (with_reducible refine State.good_ite (fun _ => ?_) (fun _ => ?_)))

theorem State.busTimeout_good (s : State) (at_ : Nat) (h : s.Good cq) :
    (State.busTimeout s at_).Good cq := by
  unfold State.busTimeout
  repeat' (first
    | with_reducible assumption
    | with_reducible apply State.errc_good
    | (with_reducible refine State.good_ite (fun _ => ?_) (fun _ => ?_)))

theorem State.consoleLine_good (s : State) (line : List Nat) (at_ : Nat) (h : s.Good cq) :
    (State.consoleLine s line at_).Good cq := by
  unfold State.consoleLine
  repeat' (first
    | with_reducible assumption
    | with_reducible apply State.countStatus_good
    | with_reducible apply State.easChecked_good
    | with_reducible apply State.easNo_good
    | with_reducible apply State.errc_good
    | with_reducible apply State.mapEas_good
    | with_reducible apply State.thenReset_good
    | split)

theorem State.cutCommits_good (s : State) (h : s.Good cq) :
    (State.cutCommits s).Good cq := by
  unfold State.cutCommits
  repeat' (first
    | with_reducible assumption
    | refine fun _ => ?_
    | with_reducible apply State.put_good
    | with_reducible apply State.good_foldl
    | (refine State.good_lit ?_; dsimp only; exact State.Good.maps (by assumption))
    | (with_reducible refine State.good_ite (fun _ => ?_) (fun _ => ?_)))

theorem State.runRecovery_good (s : State) (h : s.Good cq) :
    (State.runRecovery s).Good cq := by
  unfold State.runRecovery
  repeat' (first
    | with_reducible assumption
    | with_reducible apply State.mapEas_good
    | with_reducible apply State.put_good)

theorem State.watchdog_good (s : State) (at_ : Nat) (h : s.Good cq) :
    (State.watchdog s at_).Good cq := by
  unfold State.watchdog
  repeat' (first
    | with_reducible assumption
    | with_reducible apply State.cutCommits_good
    | with_reducible apply State.errc_good
    | with_reducible apply State.fresh64_good
    | with_reducible apply State.mapEas_good
    | with_reducible apply State.mirrorFuses_good
    | with_reducible apply State.put_good
    | with_reducible apply State.reach_good
    | with_reducible apply State.runRecovery_good
    | (with_reducible refine State.good_ite (fun _ => ?_) (fun _ => ?_)))

end Sys2Proof.Machine
end

