-- ==== Sys2Proof/Laws/GoodHostIf.lean ====
section
/-! SUPPORT. Every function of Machine/HostIf.lean that answers a module keeps its maps canonical and its queue of commands. -/

namespace Sys2Proof.Machine

variable {cq : List Instr}

theorem TW.debugPal_ok (x : TW) (c a n : Nat) (v : Option Nat) (h : x.Ok) : (x.debugPal c a n v).tile.Ok := by
  unfold TW.debugPal
  have h1 := TW.edgeClaim_ok x c (bankOf a) 0 h
  generalize x.edgeClaim c (bankOf a) 0 = e at h1 ⊢
  obtain ⟨c', y⟩ := e
  have h2 : ((y.perf 0x15 1).commitStores c').Ok := TW.commitStores_ok _ _ (TW.perf_ok _ _ _ h1)
  dsimp only
  cases v with
  | some d => exact TW.writeRaw_ok _ _ _ _ _ _ (TW.commitBefore_ok _ _ _ h2)
  | none => exact TW.readRaw_ok _ _ _ h2

theorem TW.debugRows_ok (x : TW) (c a n : Nat) (v : Option Nat) (k : Nat) (h : x.Ok) : (x.debugRows c a n v k).tile.Ok := by
  induction k generalizing x a n v with
  | zero => exact h
  | succ k ih =>
    unfold TW.debugRows
    split
    · exact h
    · exact ih _ _ _ _ (TW.debugPal_ok _ _ _ _ _ h)

theorem TW.debug_ok (x : TW) (c a n : Nat) (v : Option Nat) (h : x.Ok) : (x.debug c a n v).tile.Ok := by
  unfold TW.debug
  extract_lets e x1 back
  have hx : x1.Ok := ⟨h.tile⟩
  have hb : ∀ o : DbgOut, o.tile.Ok → (back o).tile.Ok := fun o ho => ⟨ho.tile⟩
  clear_value x1
  split
  · exact hb _ (TW.debugRows_ok _ _ _ _ _ _ hx)
  · cases v with
    | some d => exact hb _ (TW.regWrite_ok _ _ _ _ _ hx)
    | none =>
      have h1 := TW.regRead_ok x1 c (a - 0x200000) n hx
      dsimp only
      generalize x1.regRead c (a - 0x200000) n = g at h1 ⊢
      obtain ⟨w, y⟩ := g
      exact hb _ h1
  · split
    · exact hb _ hx
    · have h1 := TW.accGrant_ok x1 c ((a - 0x300000) / 4 / 1024) 4 hx
      dsimp only
      generalize x1.accGrant c ((a - 0x300000) / 4 / 1024) 4 = g at h1 ⊢
      obtain ⟨c', y⟩ := g
      cases v with
      | none => exact hb _ h1
      | some d =>
        refine hb _ (TW.ok_lit ?_)
        have ht : y.t.Ok := TW.Ok.tile h1
        exact Tile.ok_ite (fun _ => Tile.setAcc_ok _ _ _ (Tile.setAcc_ok _ _ _ ht)) (fun _ => Tile.setAcc_ok _ _ _ ht)
  · exact hb _ hx

theorem State.hostDefaults_good (s : State) (h : s.Good cq) :
    (State.hostDefaults s).Good cq := by
  unfold State.hostDefaults
  extract_lets a b c
  have h1 : a.Good cq := State.clearRegs_good _ _ _ (State.clearRegs_good _ _ _ (State.clearRegs_good _ _ _ h))
  clear_value a
  have h2 : b.Good cq := State.good_foldl _ _ _ (fun s c h => State.clearRegs_good _ _ _ h) h1
  clear_value b
  have h3 : c.Good cq := State.clearRegs_good _ _ _ (State.clearRegs_good _ _ _ h2)
  clear_value c
  exact State.put_good _ _ _ (State.good_lit h3.maps)

theorem State.linkEvent_good (s : State) (at_ cyc : Nat) (h : s.Good cq) :
    (State.linkEvent s at_ cyc).Good cq := by
  unfold State.linkEvent
  repeat' (first
    | with_reducible assumption
    | with_reducible apply State.hostDefaults_good
    | with_reducible apply State.reach_good
    | with_reducible apply State.resetAll_good
    | (with_reducible refine State.good_ite (fun _ => ?_) (fun _ => ?_)))

theorem State.showLink_good (s : State) (speed width : Nat) (flit : Bool) (h : s.Good cq) :
    (State.showLink s speed width flit).Good cq := by
  unfold State.showLink
  repeat' (first
    | with_reducible assumption
    | with_reducible apply State.put_good)

theorem State.linkDown_good (s : State) (at_ cyc : Nat) (h : s.Good cq) :
    (State.linkDown s at_ cyc).Good cq := by
  unfold State.linkDown
  repeat' (first
    | with_reducible assumption
    | with_reducible apply State.linkEvent_good
    | with_reducible apply State.put_good
    | with_reducible apply State.showLink_good
    | (with_reducible refine State.good_ite (fun _ => ?_) (fun _ => ?_)))

theorem State.linkUp_good (s : State) (speed width : Nat) (flit bme : Bool) (vfs : Nat) (h : s.Good cq) :
    (State.linkUp s speed width flit bme vfs).Good cq := by
  unfold State.linkUp
  repeat' (first
    | with_reducible assumption
    | refine fun _ => ?_
    | with_reducible apply State.put_good
    | with_reducible apply State.sendPending_good
    | with_reducible apply State.showLink_good
    | (extract_lets +onlyGivenNames z; with_reducible apply State.good_cut (cq := cq) (s := z); rotate_left; clear_value z; intro hz; rotate_right; subst z)
    | with_reducible apply State.good_foldl
    | (refine State.good_lit ?_; dsimp only; exact State.Good.maps (by assumption))
    | (with_reducible refine State.good_ite (fun _ => ?_) (fun _ => ?_)))

theorem State.perst_good (s : State) (at_ cyc : Nat) (h : s.Good cq) :
    (State.perst s at_ cyc).Good cq := by
  unfold State.perst
  repeat' (first
    | with_reducible assumption
    | with_reducible apply State.linkEvent_good
    | with_reducible apply State.showLink_good)

theorem State.funcReset_good (s : State) (func at_ cyc : Nat) (h : s.Good cq) :
    (State.funcReset s func at_ cyc).Good cq := by
  unfold State.funcReset
  repeat' (first
    | with_reducible assumption
    | with_reducible apply State.ctxReset_good
    | with_reducible apply State.linkEvent_good
    | (with_reducible refine State.good_ite (fun _ => ?_) (fun _ => ?_)))

theorem State.poisonedWrite_good (s : State) (h : s.Good cq) :
    (State.poisonedWrite s).Good cq := by
  unfold State.poisonedWrite
  repeat' (first
    | with_reducible assumption
    | with_reducible apply State.errc_good
    | (refine State.good_lit ?_; dsimp only; exact State.Good.maps (by assumption)))

theorem State.unsupported_good (s : State) (h : s.Good cq) :
    (State.unsupported s).Good cq := by
  unfold State.unsupported
  repeat' (first
    | with_reducible assumption
    | (refine State.good_lit ?_; dsimp only; exact State.Good.maps (by assumption)))

theorem State.hostCommand_good (s : State) (k : State → State) (hk : ∀ z0, State.Good z0 cq → State.Good (k z0) cq) (h : s.Good cq) :
    (State.hostCommand s k).Good cq := by
  unfold State.hostCommand
  repeat' (first
    | with_reducible assumption
    | with_reducible apply hk
    | with_reducible apply State.errc_good
    | (with_reducible refine State.good_ite (fun _ => ?_) (fun _ => ?_)))

theorem State.bar4_good (s : State) (a n c : Nat) (data : Option Nat) (h : s.Good cq) :
    (State.bar4 s a n c data).Good cq := by
  unfold State.bar4
  repeat' (first
    | with_reducible assumption
    | with_reducible apply TW.debug_ok
    | refine fun _ => ?_
    | with_reducible apply State.answer_good
    | with_reducible apply State.errc_good
    | with_reducible apply State.onTile_good
    | (with_reducible refine State.good_ite (fun _ => ?_) (fun _ => ?_)))

end Sys2Proof.Machine
end

