-- ==== Sys2Proof/Laws/GoodPower.lean ====
section
/-! SUPPORT. Every function of Machine/Power.lean that answers a module keeps its maps canonical and its queue of commands. -/

namespace Sys2Proof.Machine

variable {cq : List Instr}

theorem State.inputGood_good (s : State) (aux : Bool) (at_ : Nat) (h : s.Good cq) :
    (State.inputGood s aux at_).Good cq := by
  unfold State.inputGood
  repeat' (first
    | with_reducible assumption
    | with_reducible apply State.mapPwr_good
    | with_reducible apply State.resetCold_good
    | (with_reducible refine State.good_ite (fun _ => ?_) (fun _ => ?_)))

theorem State.inputLost_good (s : State) (aux : Bool) (at_ : Nat) (h : s.Good cq) :
    (State.inputLost s aux at_).Good cq := by
  unfold State.inputLost
  repeat' (first
    | with_reducible assumption
    | with_reducible apply State.mapEas_good
    | with_reducible apply State.mapPwr_good
    | with_reducible apply State.powerDown_good
    | (with_reducible refine State.good_ite (fun _ => ?_) (fun _ => ?_)))

theorem State.railFailed_good (s : State) (at_ : Nat) (h : s.Good cq) :
    (State.railFailed s at_).Good cq := by
  unfold State.railFailed
  repeat' (first
    | with_reducible assumption
    | with_reducible apply State.mapPwr_good
    | with_reducible apply State.powerDown_good
    | with_reducible apply State.put_good
    | split)

theorem State.bootFails_good (s : State) (at_ : Nat) (h : s.Good cq) :
    (State.bootFails s at_).Good cq := by
  unfold State.bootFails
  repeat' (first
    | with_reducible assumption
    | refine fun _ => ?_
    | with_reducible apply State.darken_good
    | with_reducible apply State.put_good
    | with_reducible apply State.good_foldl)

theorem State.railFailure_good (s : State) (g at_ : Nat) (h : s.Good cq) :
    (State.railFailure s g at_).Good cq := by
  unfold State.railFailure
  repeat' (first
    | with_reducible assumption
    | with_reducible apply State.bootFails_good
    | with_reducible apply State.fresh64_good
    | with_reducible apply State.mapPwr_good
    | with_reducible apply State.put_good
    | with_reducible apply State.reach_good
    | with_reducible apply State.sendFail_good
    | (with_reducible refine State.good_ite (fun _ => ?_) (fun _ => ?_)))

theorem State.startClocks_good (s : State) (h : s.Good cq) :
    (State.startClocks s).Good cq := by
  unfold State.startClocks
  repeat' (first
    | with_reducible assumption
    | refine fun _ => ?_
    | with_reducible apply State.put_good
    | with_reducible apply State.mapPwr_good
    | with_reducible apply State.setCeiling_good
    | with_reducible apply Tile.put_ok
    | with_reducible apply TW.put_ok
    | with_reducible apply State.good_foldl
    | with_reducible apply State.good_foldl_snd
    | with_reducible apply State.good_foldl_fst
    | (extract_lets +onlyGivenNames z; with_reducible apply State.good_cut (cq := cq) (s := z); rotate_left; clear_value z; intro hz; rotate_right; subst z)
    | extract_lets +onlyGivenNames z
    | (refine State.good_lit ?_; dsimp only; exact State.Good.maps (by assumption))
    | (with_reducible refine State.good_ite (fun _ => ?_) (fun _ => ?_)))

theorem State.railGroupGood_good (s : State) (g at_ : Nat) (h : s.Good cq) :
    (State.railGroupGood s g at_).Good cq := by
  unfold State.railGroupGood
  repeat' (first
    | with_reducible assumption
    | with_reducible apply State.mapPwr_good
    | with_reducible apply State.put_good
    | with_reducible apply State.reach_good
    | with_reducible apply State.startClocks_good
    | (with_reducible refine State.good_ite (fun _ => ?_) (fun _ => ?_)))

theorem State.railGroupTimeout_good (s : State) (g at_ : Nat) (h : s.Good cq) :
    (State.railGroupTimeout s g at_).Good cq := by
  unfold State.railGroupTimeout
  repeat' (first
    | with_reducible assumption
    | with_reducible apply State.bootFails_good
    | with_reducible apply State.mapPwr_good
    | with_reducible apply State.reach_good
    | (with_reducible refine State.good_ite (fun _ => ?_) (fun _ => ?_)))

theorem State.countTrip_good (s : State) (d : Nat) (h : s.Good cq) :
    (State.countTrip s d).Good cq := by
  unfold State.countTrip
  repeat' (first
    | with_reducible assumption
    | with_reducible apply State.add_good
    | with_reducible apply State.errc_good
    | with_reducible apply State.put_good
    | with_reducible apply State.setClk_good
    | (with_reducible refine State.good_ite (fun _ => ?_) (fun _ => ?_)))

theorem State.droop_good (s : State) (d mv at_ : Nat) (h : s.Good cq) :
    (State.droop s d mv at_).Good cq := by
  unfold State.droop
  repeat' (first
    | with_reducible assumption
    | with_reducible apply State.countLoss_good
    | with_reducible apply State.countTrip_good
    | with_reducible apply State.put_good
    | with_reducible apply State.reach_good
    | with_reducible apply State.setClk_good
    | with_reducible apply State.showClock_good
    | (with_reducible refine State.good_ite (fun _ => ?_) (fun _ => ?_)))

theorem State.stretchRelease_good (s : State) (d at_ : Nat) (h : s.Good cq) :
    (State.stretchRelease s d at_).Good cq := by
  unfold State.stretchRelease
  repeat' (first
    | with_reducible assumption
    | with_reducible apply State.countLoss_good
    | with_reducible apply State.put_good
    | with_reducible apply State.reach_good
    | with_reducible apply State.setClk_good
    | with_reducible apply State.showClock_good
    | (with_reducible refine State.good_ite (fun _ => ?_) (fun _ => ?_)))

theorem State.rampDone_good (s : State) (d at_ : Nat) (h : s.Good cq) :
    (State.rampDone s d at_).Good cq := by
  unfold State.rampDone
  repeat' (first
    | with_reducible assumption
    | with_reducible apply State.countLoss_good
    | with_reducible apply State.put_good
    | with_reducible apply State.reach_good
    | with_reducible apply State.setClk_good
    | with_reducible apply State.showClock_good
    | (with_reducible refine State.good_ite (fun _ => ?_) (fun _ => ?_)))

theorem State.changeStep_good (s : State) (d at_ : Nat) (f : RF) (v : Nat) (h : s.Good cq) :
    (State.changeStep s d at_ f v).Good cq := by
  unfold State.changeStep
  repeat' (first
    | with_reducible assumption
    | with_reducible apply State.put_good
    | with_reducible apply State.setCeiling_good
    | with_reducible apply State.settleLoss_good)

theorem State.thermalTrip_good (s : State) (sensor at_ : Nat) (h : s.Good cq) :
    (State.thermalTrip s sensor at_).Good cq := by
  unfold State.thermalTrip
  repeat' (first
    | with_reducible assumption
    | with_reducible apply State.mapEas_good
    | with_reducible apply State.mapPwr_good
    | with_reducible apply State.powerDown_good
    | with_reducible apply State.reach_good
    | (with_reducible refine State.good_ite (fun _ => ?_) (fun _ => ?_)))

theorem State.takeReadings_good (s : State) (lo : Nat) (r0 : List Nat) (r1 : Nat) (h : s.Good cq) :
    (State.takeReadings s lo r0 r1).Good cq := by
  induction r0 generalizing s lo r1 with
  | nil =>
    unfold State.takeReadings
    repeat' (first
      | with_reducible assumption
      | with_reducible apply State.reading_good)
  | cons e r0 ih =>
    unfold State.takeReadings
    repeat' (first
      | with_reducible assumption
      | with_reducible apply ih
      | with_reducible apply State.reading_good)

theorem State.thermalSample_good (s : State) (d : Nat) (die stks : List Nat) (at_ : Nat) (h : s.Good cq) :
    (State.thermalSample s d die stks at_).Good cq := by
  unfold State.thermalSample
  repeat' (first
    | with_reducible assumption
    | with_reducible apply State.changeStep_good
    | with_reducible apply State.errc_good
    | with_reducible apply State.put_good
    | with_reducible apply State.reach_good
    | with_reducible apply State.setClk_good
    | with_reducible apply State.takeReadings_good
    | with_reducible apply State.thermalTrip_good
    | (with_reducible refine State.good_ite (fun _ => ?_) (fun _ => ?_)))

theorem State.fabSample_good (s : State) (f : Nat) (l : List Nat) (at_ : Nat) (h : s.Good cq) :
    (State.fabSample s f l at_).Good cq := by
  unfold State.fabSample
  repeat' (first
    | with_reducible assumption
    | with_reducible apply State.put_good
    | with_reducible apply State.reach_good
    | with_reducible apply State.takeReadings_good
    | with_reducible apply State.thermalTrip_good
    | (with_reducible refine State.good_ite (fun _ => ?_) (fun _ => ?_)))

theorem State.setPstep_good (s : State) (v at_ : Nat) (h : s.Good cq) :
    (State.setPstep s v at_).Good cq := by
  unfold State.setPstep
  repeat' (first
    | with_reducible assumption
    | refine fun _ => ?_
    | with_reducible apply State.changeStep_good
    | with_reducible apply State.put_good
    | with_reducible apply State.good_foldl)

theorem State.powerSample_good (s : State) (l : List (Nat × Nat)) (vaux at_ : Nat) (h : s.Good cq) :
    (State.powerSample s l vaux at_).Good cq := by
  unfold State.powerSample
  repeat' (first
    | with_reducible assumption
    | refine fun _ => ?_
    | with_reducible apply State.add_good
    | with_reducible apply State.mapPwr_good
    | with_reducible apply State.put_good
    | with_reducible apply State.reach_good
    | with_reducible apply State.reading_good
    | with_reducible apply State.setPstep_good
    | (extract_lets +onlyGivenNames z; with_reducible apply State.good_cut (cq := cq) (s := z); rotate_left; clear_value z; intro hz; rotate_right; subst z)
    | extract_lets +onlyGivenNames z
    | with_reducible apply State.good_foldl
    | (with_reducible refine State.good_ite (fun _ => ?_) (fun _ => ?_))
    | (clear_value *; split))

theorem State.limitWritePwr_good (s : State) (v : Nat) (h : s.Good cq) :
    (State.limitWritePwr s v).Good cq := by
  unfold State.limitWritePwr
  repeat' (first
    | with_reducible assumption
    | with_reducible apply State.lockViolation_good
    | with_reducible apply State.put_good
    | (with_reducible refine State.good_ite (fun _ => ?_) (fun _ => ?_)))

theorem State.droopWrite_good (s : State) (d : Nat) (m v : Word) (h : s.Good cq) :
    (State.droopWrite s d m v).Good cq := by
  unfold State.droopWrite
  repeat' (first
    | with_reducible assumption
    | with_reducible apply State.put_good
    | with_reducible apply State.setWord_good
    | with_reducible apply State.lockViolation_good
    | with_reducible apply Tile.put_ok
    | with_reducible apply TW.put_ok
    | (extract_lets +onlyGivenNames z; with_reducible apply State.good_cut (cq := cq) (s := z); rotate_left; clear_value z; intro hz; rotate_right; subst z)
    | extract_lets +onlyGivenNames z
    | split)

end Sys2Proof.Machine
end

