-- ==== Sys2Proof/Laws/GoodBoot.lean ====
section
/-! SUPPORT. Every function of Machine/Boot.lean that answers a module keeps its maps canonical and its queue of commands. -/

namespace Sys2Proof.Machine

variable {cq : List Instr}

theorem State.bootImage_good (s : State) (h : s.Good cq) :
    (State.bootImage s).Good cq := by
  unfold State.bootImage
  repeat' (first
    | with_reducible assumption
    | with_reducible apply State.mapEas_good
    | with_reducible apply State.put_good
    | with_reducible apply State.runRecovery_good
    | (with_reducible refine State.good_ite (fun _ => ?_) (fun _ => ?_)))

theorem State.takeProfile_good (s : State) (slot src : Nat) (h : s.Good cq) :
    (State.takeProfile s slot src).Good cq := by
  unfold State.takeProfile
  repeat' (first
    | with_reducible assumption
    | with_reducible apply State.mapEas_good
    | with_reducible apply State.put_good
    | (with_reducible refine State.good_ite (fun _ => ?_) (fun _ => ?_)))

theorem State.chooseProfile_good (s : State) (sel : List Nat) (h : s.Good cq) :
    (State.chooseProfile s sel).Good cq := by
  unfold State.chooseProfile
  repeat' (first
    | with_reducible assumption
    | with_reducible apply State.errc_good
    | with_reducible apply State.put_good
    | with_reducible apply State.takeProfile_good
    | extract_lets +onlyGivenNames z
    | split)

theorem State.chooseRole_good (s : State) (sel : List Nat) (h : s.Good cq) :
    (State.chooseRole s sel).Good cq := by
  unfold State.chooseRole
  repeat' (first
    | with_reducible assumption
    | with_reducible apply State.errc_good
    | with_reducible apply State.put_good
    | split)

theorem State.chooseAddr_good (s : State) (sel : List Nat) (h : s.Good cq) :
    (State.chooseAddr s sel).Good cq := by
  unfold State.chooseAddr
  repeat' (first
    | with_reducible assumption
    | with_reducible apply State.errc_good
    | with_reducible apply State.fresh64_good
    | with_reducible apply State.mapEas_good
    | split)

theorem State.enterStage_good (s : State) (stage at_ : Nat) (h : s.Good cq) :
    (State.enterStage s stage at_).Good cq := by
  unfold State.enterStage
  repeat' (first
    | with_reducible assumption
    | with_reducible apply State.mapPwr_good
    | with_reducible apply State.put_good
    | with_reducible apply State.reach_good)

theorem State.stageEasel_good (s : State) (master profile mgmt : List Nat) (at_ : Nat) (h : s.Good cq) :
    (State.stageEasel s master profile mgmt at_).Good cq := by
  unfold State.stageEasel
  repeat' (first
    | with_reducible assumption
    | refine fun _ => ?_
    | with_reducible apply State.bootImage_good
    | with_reducible apply State.chooseAddr_good
    | with_reducible apply State.chooseProfile_good
    | with_reducible apply State.chooseRole_good
    | with_reducible apply State.enterStage_good
    | with_reducible apply State.errc_good
    | with_reducible apply State.mirrorFuses_good
    | with_reducible apply State.put_good
    | with_reducible apply State.good_foldl
    | (with_reducible refine State.good_ite (fun _ => ?_) (fun _ => ?_)))

theorem State.stageRails_good (s : State) (at_ : Nat) (h : s.Good cq) :
    (State.stageRails s at_).Good cq := by
  unfold State.stageRails
  repeat' (first
    | with_reducible assumption
    | with_reducible apply State.enterStage_good
    | with_reducible apply State.mapPwr_good
    | with_reducible apply State.startClocks_good
    | (with_reducible refine State.good_ite (fun _ => ?_) (fun _ => ?_)))

theorem State.stageHbm_good (s : State) (failed : List Nat) (trained : Nat) (at_ : Nat) (h : s.Good cq) :
    (State.stageHbm s failed trained at_).Good cq := by
  unfold State.stageHbm
  repeat' (first
    | with_reducible assumption
    | refine fun _ => ?_
    | with_reducible apply State.put_good
    | with_reducible apply State.setDirty_good
    | with_reducible apply State.bootFails_good
    | with_reducible apply State.enterStage_good
    | with_reducible apply Tile.put_ok
    | with_reducible apply TW.put_ok
    | with_reducible apply State.good_foldl
    | (extract_lets +onlyGivenNames z; with_reducible apply State.good_cut (cq := cq) (s := z); rotate_left; clear_value z; intro hz; rotate_right; subst z)
    | extract_lets +onlyGivenNames z
    | split)

theorem State.loadMap_good (s : State) (d r : Nat) (h : s.Good cq) :
    (State.loadMap s d r).Good cq := by
  unfold State.loadMap
  repeat' (first
    | with_reducible assumption
    | with_reducible apply State.setWord_good)

theorem State.scanFailed_good (s : State) (p : Nat) (h : s.Good cq) :
    (State.scanFailed s p).Good cq := by
  unfold State.scanFailed
  repeat' (first
    | with_reducible assumption
    | with_reducible apply State.errc_good
    | (refine State.good_lit ?_; dsimp only; exact State.Good.maps (by assumption))
    | (with_reducible refine State.good_ite (fun _ => ?_) (fun _ => ?_)))

theorem State.stageScan_good (s : State) (fails : List Nat) (at_ : Nat) (h : s.Good cq) :
    (State.stageScan s fails at_).Good cq := by
  unfold State.stageScan
  repeat' (first
    | with_reducible assumption
    | refine fun _ => ?_
    | with_reducible apply State.bootFails_good
    | with_reducible apply State.enterStage_good
    | with_reducible apply State.loadMap_good
    | with_reducible apply State.scanFailed_good
    | with_reducible apply State.showUnfused_good
    | (extract_lets +onlyGivenNames z; with_reducible apply State.good_cut (cq := cq) (s := z); rotate_left; clear_value z; intro hz; rotate_right; subst z)
    | with_reducible apply State.good_foldl
    | (refine State.good_lit ?_; dsimp only; exact GoodMaps.noTiles (State.Good.maps (by assumption)))
    | (with_reducible refine State.good_ite (fun _ => ?_) (fun _ => ?_)))

theorem State.stageLinks_good (s : State) (at_ : Nat) (h : s.Good cq) :
    (State.stageLinks s at_).Good cq := by
  unfold State.stageLinks
  repeat' (first
    | with_reducible assumption
    | refine fun _ => ?_
    | with_reducible apply State.enterStage_good
    | with_reducible apply State.portEnable_good
    | with_reducible apply State.put_good
    | with_reducible apply State.startClaims_good
    | with_reducible apply State.good_foldl
    | (with_reducible refine State.good_ite (fun _ => ?_) (fun _ => ?_)))

theorem State.stageEnum_good (s : State) (at_ : Nat) (h : s.Good cq) :
    (State.stageEnum s at_).Good cq := by
  unfold State.stageEnum
  repeat' (first
    | with_reducible assumption
    | with_reducible apply State.claimRole_good
    | with_reducible apply State.enterStage_good
    | with_reducible apply State.mapTick_good
    | with_reducible apply State.put_good
    | with_reducible apply State.setLocks_good
    | (with_reducible refine State.good_ite (fun _ => ?_) (fun _ => ?_)))

theorem State.resetPin_good (s : State) (low : Bool) (ns at_ : Nat) (h : s.Good cq) :
    (State.resetPin s low ns at_).Good cq := by
  unfold State.resetPin
  repeat' (first
    | with_reducible assumption
    | with_reducible apply State.mapPwr_good
    | with_reducible apply State.resetModule_good
    | (with_reducible refine State.good_ite (fun _ => ?_) (fun _ => ?_)))

theorem State.resetCmd_good (s : State) (key at_ : Nat) (h : s.Good cq) :
    (State.resetCmd s key at_).Good cq := by
  unfold State.resetCmd
  repeat' (first
    | with_reducible assumption
    | with_reducible apply State.errc_good
    | with_reducible apply State.resetModule_good
    | (with_reducible refine State.good_ite (fun _ => ?_) (fun _ => ?_)))

end Sys2Proof.Machine
end

