-- ==== Sys2Proof/Laws/GoodRegIo.lean ====
section
/-! SUPPORT. Every function of Machine/RegIo.lean that answers a module keeps its maps canonical and its queue of commands. -/

namespace Sys2Proof.Machine

variable {cq : List Instr}

theorem State.plainWrite_good (s : State) (a : Nat) (m v : Word) (h : s.Good cq) :
    (State.plainWrite s a m v).Good cq := by
  unfold State.plainWrite
  repeat' (first
    | with_reducible assumption
    | with_reducible apply State.lockViolation_good
    | with_reducible apply State.setWord_good
    | split)

theorem State.wrTick_good (s : State) (a : Nat) (m v : Word) (at_ : Nat) (h : s.Good cq) :
    (State.wrTick s a m v at_).Good cq := by
  unfold State.wrTick
  repeat' (first
    | with_reducible assumption
    | with_reducible apply State.limitWrite_good
    | with_reducible apply State.periodWrite_good
    | with_reducible apply State.plainWrite_good
    | with_reducible apply State.roleCfgWrite_good
    | with_reducible apply State.runWrite_good
    | with_reducible apply State.sendPing_good
    | with_reducible apply State.tickNextWrite_good
    | extract_lets +onlyGivenNames z
    | split)

theorem State.wrMbs_good (s : State) (a c o : Nat) (m v : Word) (h : s.Good cq) :
    (State.wrMbs s a c o m v).Good cq := by
  unfold State.wrMbs
  repeat' (first
    | with_reducible assumption
    | with_reducible apply State.mbsDisable_good
    | with_reducible apply State.mbsEnable_good
    | with_reducible apply State.mbsOpen_good
    | with_reducible apply State.mbsRegWrite_good
    | with_reducible apply State.mbsReset_good
    | with_reducible apply State.plainWrite_good
    | (extract_lets +onlyGivenNames z; with_reducible apply State.good_cut (cq := cq) (s := z); rotate_left; clear_value z; intro hz; rotate_right; subst z)
    | extract_lets +onlyGivenNames z
    | split)

theorem State.wrWch_good (s : State) (a : Nat) (m v : Word) (h : s.Good cq) :
    (State.wrWch s a m v).Good cq := by
  unfold State.wrWch
  repeat' (first
    | with_reducible assumption
    | with_reducible apply State.plainWrite_good
    | with_reducible apply State.wchAccWrite_good
    | with_reducible apply State.wchBandWrite_good
    | with_reducible apply State.wchRead_good
    | with_reducible apply State.wchWrite_good
    | (with_reducible refine State.good_ite (fun _ => ?_) (fun _ => ?_)))

theorem State.wrExp_good (s : State) (a : Nat) (m v : Word) (at_ cyc : Nat) (h : s.Good cq) :
    (State.wrExp s a m v at_ cyc).Good cq := by
  unfold State.wrExp
  repeat' (first
    | with_reducible assumption
    | with_reducible apply State.exportAbort_good
    | with_reducible apply State.exportStart_good
    | with_reducible apply State.plainWrite_good
    | (with_reducible refine State.good_ite (fun _ => ?_) (fun _ => ?_)))

theorem State.wrRcv_good (s : State) (a : Nat) (m v : Word) (at_ : Nat) (h : s.Good cq) :
    (State.wrRcv s a m v at_).Good cq := by
  unfold State.wrRcv
  repeat' (first
    | with_reducible assumption
    | with_reducible apply State.abort_good
    | with_reducible apply State.plainWrite_good
    | with_reducible apply State.retry_good
    | with_reducible apply State.showCoord_good
    | with_reducible apply State.showMember_good
    | with_reducible apply State.shrinkDone_good
    | split)

theorem State.wrTickBlock_good (s : State) (a : Nat) (m v : Word) (at_ cyc : Nat) (h : s.Good cq) :
    (State.wrTickBlock s a m v at_ cyc).Good cq := by
  unfold State.wrTickBlock
  repeat' (first
    | with_reducible assumption
    | with_reducible apply State.cursorWrite_good
    | with_reducible apply State.plainWrite_good
    | with_reducible apply State.vrnRegWrite_good
    | with_reducible apply State.wrExp_good
    | with_reducible apply State.wrMbs_good
    | with_reducible apply State.wrRcv_good
    | with_reducible apply State.wrTick_good
    | with_reducible apply State.wrWch_good
    | (with_reducible refine State.good_ite (fun _ => ?_) (fun _ => ?_)))

theorem State.wrMod_good (s : State) (a : Nat) (m v : Word) (at_ : Nat) (h : s.Good cq) :
    (State.wrMod s a m v at_).Good cq := by
  unfold State.wrMod
  repeat' (first
    | with_reducible assumption
    | with_reducible apply State.plainWrite_good
    | with_reducible apply State.resetCmd_good
    | with_reducible apply State.setLocks_good
    | split)

theorem State.wrPwr_good (s : State) (a : Nat) (m v : Word) (h : s.Good cq) :
    (State.wrPwr s a m v).Good cq := by
  unfold State.wrPwr
  repeat' (first
    | with_reducible assumption
    | with_reducible apply State.droopWrite_good
    | with_reducible apply State.limitWritePwr_good
    | with_reducible apply State.plainWrite_good
    | (with_reducible refine State.good_ite (fun _ => ?_) (fun _ => ?_)))

theorem State.wrErrc_good (s : State) (a : Nat) (m v : Word) (h : s.Good cq) :
    (State.wrErrc s a m v).Good cq := by
  unfold State.wrErrc
  repeat' (first
    | with_reducible assumption
    | with_reducible apply State.dbaddrWrite_good
    | with_reducible apply State.dbcfgWrite_good
    | with_reducible apply State.plainWrite_good
    | with_reducible apply State.thrArm_good
    | (with_reducible refine State.good_ite (fun _ => ?_) (fun _ => ?_)))

theorem State.wrPerf_good (s : State) (a : Nat) (m v : Word) (h : s.Good cq) :
    (State.wrPerf s a m v).Good cq := by
  unfold State.wrPerf
  repeat' (first
    | with_reducible assumption
    | with_reducible apply State.clearFlowHist_good
    | with_reducible apply State.clearHbmHist_good
    | with_reducible apply State.clearSyncHist_good
    | with_reducible apply State.perfTaddr_good
    | with_reducible apply State.plainWrite_good
    | (with_reducible refine State.good_ite (fun _ => ?_) (fun _ => ?_)))

theorem State.hctxWrite_good (s : State) (c : Nat) (v : Word) (at_ cyc : Nat) (h : s.Good cq) :
    (State.hctxWrite s c v at_ cyc).Good cq := by
  unfold State.hctxWrite
  repeat' (first
    | with_reducible assumption
    | with_reducible apply State.ctxReset_good
    | with_reducible apply State.hctxDisable_good
    | with_reducible apply State.hctxEnable_good
    | (with_reducible refine State.good_ite (fun _ => ?_) (fun _ => ?_)))

theorem State.wrHost_good (s : State) (a : Nat) (m v : Word) (at_ cyc : Nat) (h : s.Good cq) :
    (State.wrHost s a m v at_ cyc).Good cq := by
  unfold State.wrHost
  repeat' (first
    | with_reducible assumption
    | with_reducible apply State.hctxWrite_good
    | with_reducible apply State.plainWrite_good
    | (with_reducible refine State.good_ite (fun _ => ?_) (fun _ => ?_)))

theorem State.wrEas_good (s : State) (a : Nat) (m v : Word) (h : s.Good cq) :
    (State.wrEas s a m v).Good cq := by
  unfold State.wrEas
  repeat' (first
    | with_reducible assumption
    | with_reducible apply State.mailStart_good
    | with_reducible apply State.plainWrite_good
    | (with_reducible refine State.good_ite (fun _ => ?_) (fun _ => ?_)))

theorem State.ldrCmd_good (s : State) (d c : Nat) (v : Word) (at_ cyc : Nat) (h : s.Good cq) :
    (State.ldrCmd s d c v at_ cyc).Good cq := by
  unfold State.ldrCmd
  repeat' (first
    | with_reducible assumption
    | with_reducible apply State.load_good
    | with_reducible apply State.start_good
    | (with_reducible refine State.good_ite (fun _ => ?_) (fun _ => ?_)))

theorem State.rgnWrite_good (s : State) (a d c k : Nat) (m v : Word) (h : s.Good cq) :
    (State.rgnWrite s a d c k m v).Good cq := by
  unfold State.rgnWrite
  repeat' (first
    | with_reducible assumption
    | with_reducible apply State.setWord_good
    | with_reducible apply State.regionAllocate_good
    | with_reducible apply State.regionRelease_good
    | (extract_lets +onlyGivenNames z; with_reducible apply State.good_cut (cq := cq) (s := z); rotate_left; clear_value z; intro hz; rotate_right; subst z)
    | extract_lets +onlyGivenNames z
    | (with_reducible refine State.good_ite (fun _ => ?_) (fun _ => ?_)))

theorem State.pcntWrite_good (s : State) (a d i : Nat) (m v : Word) (cyc : Nat) (h : s.Good cq) :
    (State.pcntWrite s a d i m v cyc).Good cq := by
  unfold State.pcntWrite
  repeat' (first
    | with_reducible assumption
    | with_reducible apply State.put_good
    | with_reducible apply State.bind_good
    | with_reducible apply State.unbind_good
    | with_reducible apply State.plainWrite_good
    | with_reducible apply Tile.put_ok
    | with_reducible apply TW.put_ok
    | (extract_lets +onlyGivenNames z; with_reducible apply State.good_cut (cq := cq) (s := z); rotate_left; clear_value z; intro hz; rotate_right; subst z)
    | extract_lets +onlyGivenNames z
    | (with_reducible refine State.good_ite (fun _ => ?_) (fun _ => ?_)))

theorem State.wrDie_good (s : State) (a d o : Nat) (m v : Word) (at_ cyc : Nat) (h : s.Good cq) :
    (State.wrDie s a d o m v at_ cyc).Good cq := by
  unfold State.wrDie
  repeat' (first
    | with_reducible assumption
    | with_reducible apply State.setWord_good
    | with_reducible apply State.seEnable_good
    | with_reducible apply State.semapWrite_good
    | with_reducible apply State.ldrRowsWrite_good
    | with_reducible apply State.penRing_good
    | with_reducible apply State.lockViolation_good
    | with_reducible apply State.tmapNextWrite_good
    | with_reducible apply State.marginWrite_good
    | with_reducible apply State.commitGo_good
    | with_reducible apply State.plainWrite_good
    | with_reducible apply State.ldrCmd_good
    | with_reducible apply State.rgnWrite_good
    | with_reducible apply State.pcntWrite_good
    | (extract_lets +onlyGivenNames z; with_reducible apply State.good_cut (cq := cq) (s := z); rotate_left; clear_value z; intro hz; rotate_right; subst z)
    | extract_lets +onlyGivenNames z
    | (with_reducible refine State.good_ite (fun _ => ?_) (fun _ => ?_)))

theorem State.nodeWrite_good (s : State) (f a : Nat) (m v : Word) (h : s.Good cq) :
    (State.nodeWrite s f a m v).Good cq := by
  unfold State.nodeWrite
  repeat' (first
    | with_reducible assumption
    | refine fun _ => ?_
    | with_reducible apply State.cfgReject_good
    | with_reducible apply State.plainWrite_good
    | (extract_lets +onlyGivenNames z; with_reducible apply State.good_cut (cq := cq) (s := z); rotate_left; clear_value z; intro hz; rotate_right; subst z)
    | extract_lets +onlyGivenNames z
    | split)

theorem State.routeWrite_good (s : State) (f a : Nat) (m v : Word) (h : s.Good cq) :
    (State.routeWrite s f a m v).Good cq := by
  unfold State.routeWrite
  repeat' (first
    | with_reducible assumption
    | with_reducible apply State.cfgReject_good
    | with_reducible apply State.plainWrite_good
    | (with_reducible refine State.good_ite (fun _ => ?_) (fun _ => ?_)))

theorem State.flowW0Write_good (s : State) (i a : Nat) (m v : Word) (at_ cyc : Nat) (h : s.Good cq) :
    (State.flowW0Write s i a m v at_ cyc).Good cq := by
  unfold State.flowW0Write
  repeat' (first
    | with_reducible assumption
    | with_reducible apply State.cfgReject_good
    | with_reducible apply State.flowDrain_good
    | with_reducible apply State.flowEnable_good
    | (with_reducible refine State.good_ite (fun _ => ?_) (fun _ => ?_)))

theorem State.wrFab_good (s : State) (a f o : Nat) (m v : Word) (at_ cyc : Nat) (h : s.Good cq) :
    (State.wrFab s a f o m v at_ cyc).Good cq := by
  unfold State.wrFab
  repeat' (first
    | with_reducible assumption
    | with_reducible apply State.portEnable_good
    | with_reducible apply State.portDisable_good
    | with_reducible apply State.bldRead_good
    | with_reducible apply State.bldPatrolWrite_good
    | with_reducible apply State.bldWrite_good
    | with_reducible apply State.cfgReject_good
    | with_reducible apply State.flowW3Write_good
    | with_reducible apply State.plainWrite_good
    | with_reducible apply State.nodeWrite_good
    | with_reducible apply State.routeWrite_good
    | with_reducible apply State.flowW0Write_good
    | (extract_lets +onlyGivenNames z; with_reducible apply State.good_cut (cq := cq) (s := z); rotate_left; clear_value z; intro hz; rotate_right; subst z)
    | extract_lets +onlyGivenNames z
    | with_reducible refine State.good_snd (by assumption) ?_
    | with_reducible refine State.good_fst (by assumption) ?_
    | split)

theorem State.hwaitWrite_good (s : State) (func a c w : Nat) (m v : Word) (h : s.Good cq) :
    (State.hwaitWrite s func a c w m v).Good cq := by
  unfold State.hwaitWrite
  repeat' (first
    | with_reducible assumption
    | with_reducible apply State.hostArm_good
    | with_reducible apply State.hostTarget_good
    | with_reducible apply State.plainWrite_good
    | split)

theorem State.wrWin_good (s : State) (func a : Nat) (m v : Word) (h : s.Good cq) :
    (State.wrWin s func a m v).Good cq := by
  unfold State.wrWin
  repeat' (first
    | with_reducible assumption
    | with_reducible apply State.hwaitWrite_good
    | with_reducible apply State.plainWrite_good
    | (with_reducible refine State.good_ite (fun _ => ?_) (fun _ => ?_)))

theorem State.wrBell_good (s : State) (a : Nat) (m v : Word) (h : s.Good cq) :
    (State.wrBell s a m v).Good cq := by
  unfold State.wrBell
  repeat' (first
    | with_reducible assumption
    | with_reducible apply State.dbSig_good
    | with_reducible apply State.plainWrite_good
    | (with_reducible refine State.good_ite (fun _ => ?_) (fun _ => ?_)))

theorem State.moduleWrite_good (s : State) (func a : Nat) (m v : Word) (at_ cyc : Nat) (h : s.Good cq) :
    (State.moduleWrite s func a m v at_ cyc).Good cq := by
  unfold State.moduleWrite
  repeat' (first
    | with_reducible assumption
    | with_reducible apply State.wrBell_good
    | with_reducible apply State.wrDie_good
    | with_reducible apply State.wrEas_good
    | with_reducible apply State.wrErrc_good
    | with_reducible apply State.wrFab_good
    | with_reducible apply State.wrHost_good
    | with_reducible apply State.wrMod_good
    | with_reducible apply State.wrPerf_good
    | with_reducible apply State.wrPwr_good
    | with_reducible apply State.wrTickBlock_good
    | with_reducible apply State.wrWin_good
    | (with_reducible refine State.good_ite (fun _ => ?_) (fun _ => ?_)))

theorem State.tableWrite_good (s : State) (func a : Nat) (m v : Word) (h : s.Good cq) :
    (State.tableWrite s func a m v).Good cq := by
  unfold State.tableWrite
  repeat' (first
    | with_reducible assumption
    | with_reducible apply State.sendPending_good
    | (refine State.good_lit ?_; dsimp only; exact State.Good.maps (by assumption))
    | (with_reducible refine State.good_ite (fun _ => ?_) (fun _ => ?_)))

theorem State.pageWrite_good (s : State) (a : Nat) (m v : Word) (h : s.Good cq) :
    (State.pageWrite s a m v).Good cq := by
  unfold State.pageWrite
  repeat' (first
    | with_reducible assumption
    | (refine State.good_lit ?_; dsimp only; refine GoodMaps.setVf (State.Good.maps (by assumption)) ?_; intro h0; first | exact rset_wf _ _ _ _ h0 | exact SMap.clear_wf _ _ _ _ h0)
    | (with_reducible refine State.good_ite (fun _ => ?_) (fun _ => ?_)))

theorem State.hostWrite_good (s : State) (func : Nat) (win : Window) (a n : Nat) (v : Word) (at_ cyc : Nat) (h : s.Good cq) :
    (State.hostWrite s func win a n v at_ cyc).Good cq := by
  unfold State.hostWrite
  repeat' (first
    | with_reducible assumption
    | with_reducible apply State.errc_good
    | with_reducible apply State.moduleWrite_good
    | with_reducible apply State.pageWrite_good
    | with_reducible apply State.tableWrite_good
    | extract_lets +onlyGivenNames z
    | split)

end Sys2Proof.Machine
end

