-- ==== Sys2Proof/Laws/GoodDeliver.lean ====
section
/-! SUPPORT. Every function of Machine/Deliver.lean that answers a module keeps its maps canonical and its queue of commands. -/

namespace Sys2Proof.Machine

variable {cq : List Instr}

theorem State.endSend_good (s : State) (p : Nat) (x : Send) (status : Nat) (h : s.Good cq) :
    (State.endSend s p x status).Good cq := by
  unfold State.endSend
  repeat' (first
    | with_reducible assumption
    | refine fun _ => ?_
    | with_reducible apply ih
    | with_reducible apply State.mapTile_good
    | with_reducible apply Tile.endSend_ok
    | with_reducible apply State.tile_ok)

theorem State.delivery_good (s : State) (p : Nat) (h : s.Good cq) :
    (State.delivery s p).Good cq := by
  unfold State.delivery
  repeat' (first
    | with_reducible assumption
    | refine fun _ => ?_
    | with_reducible apply State.effects_good
    | with_reducible apply State.errc_good
    | with_reducible apply State.endSend_good
    | with_reducible apply State.setTile_good
    | with_reducible apply State.good_foldl
    | with_reducible apply State.tile_ok
    | with_reducible apply TW.collide_ok
    | with_reducible apply TW.deliver_ok
    | (refine TW.ok_lit ?_; dsimp only)
    | with_reducible apply TW.Ok.tile
    | split)

end Sys2Proof.Machine
end

