-- ==== Sys2Proof/Laws/GoodExec.lean ====
section
/-! SUPPORT. Every function of Machine/Exec.lean that answers a module keeps its maps canonical and its queue of commands. -/

namespace Sys2Proof.Machine

variable {cq : List Instr}

theorem State.withTile_good (s : State) (t : TileId) (k : State → Nat → State) (hk : ∀ z0 z1, State.Good z0 cq → State.Good (k z0 z1) cq) (h : s.Good cq) :
    (State.withTile s t k).Good cq := by
  unfold State.withTile
  repeat' (first
    | with_reducible assumption
    | with_reducible apply hk
    | split)

theorem State.runTile_good (s : State) (t : TileId) (f : TW → TW) (hf : ∀ z0, TW.Ok z0 → TW.Ok (f z0)) (h : s.Good cq) :
    (State.runTile s t f).Good cq := by
  unfold State.runTile
  repeat' (first
    | with_reducible assumption
    | refine fun _ => ?_
    | with_reducible apply State.onTile_good
    | with_reducible apply State.withTile_good)

theorem State.writeTileReg_good (s : State) (t : TileId) (f : TW → TW) (hf : ∀ z0, TW.Ok z0 → TW.Ok (f z0)) (h : s.Good cq) :
    (State.writeTileReg s t f).Good cq := by
  unfold State.writeTileReg
  repeat' (first
    | with_reducible assumption
    | refine fun _ => ?_
    | with_reducible apply State.onTile_good
    | with_reducible apply State.withTile_good
    | (with_reducible refine State.good_ite (fun _ => ?_) (fun _ => ?_)))

theorem State.byPage_good (s : State) (vf : Bool) (c a : Nat) (k : State → State) (hk : ∀ z0, State.Good z0 cq → State.Good (k z0) cq) (h : s.Good cq) :
    (State.byPage s vf c a k).Good cq := by
  unfold State.byPage
  repeat' (first
    | with_reducible assumption
    | with_reducible apply State.byHost_good
    | with_reducible apply State.errc_good
    | (with_reducible refine State.good_ite (fun _ => ?_) (fun _ => ?_)))

theorem State.armSlot_good (s : State) (vf : Bool) (c w : Nat) (v : Word) (h : s.Good cq) :
    (State.armSlot s vf c w v).Good cq := by
  unfold State.armSlot
  repeat' (first
    | with_reducible assumption
    | with_reducible apply State.hostArm_good)

theorem State.ringRegWrite_good (s : State) (w : RingReg) (v : Word) (h : s.Good cq) :
    (State.ringRegWrite s w v).Good cq := by
  unfold State.ringRegWrite
  repeat' (first
    | with_reducible assumption
    | with_reducible apply State.dbaddrWrite_good
    | with_reducible apply State.dbcfgWrite_good
    | split)

theorem State.evenRead_good (s : State) (k : CounterSet) (at_ : Nat) (h : s.Good cq) :
    (State.evenRead s k at_).Good cq := by
  unfold State.evenRead
  repeat' (first
    | with_reducible assumption
    | refine fun _ => ?_
    | with_reducible apply State.hostRead_good
    | with_reducible apply State.tileEvenRead_good
    | with_reducible apply State.withTile_good
    | split)

theorem State.easCommand_good (s : State) (code : Nat) (r : EasReq) (at_ : Nat) (h : s.Good cq) :
    (State.easCommand s code r at_).Good cq := by
  unfold State.easCommand
  repeat' (first
    | with_reducible assumption
    | with_reducible apply State.busCommand_good
    | with_reducible apply State.mailCommand_good
    | split)

theorem State.sampleAt_good (s : State) (x : ThermalSite) (at_ : Nat) (h : s.Good cq) :
    (State.sampleAt s x at_).Good cq := by
  unfold State.sampleAt
  repeat' (first
    | with_reducible assumption
    | with_reducible apply State.fabSample_good
    | with_reducible apply State.thermalSample_good
    | split)

theorem State.tapShow_good (s : State) (n : Nat) (h : s.Good cq) :
    (State.tapShow s n).Good cq := by
  unfold State.tapShow
  repeat' (first
    | with_reducible assumption
    | (refine State.good_lit ?_; dsimp only; exact State.Good.maps (by assumption)))

theorem State.laserLost_good (s : State) (f k pwr at_ : Nat) (h : s.Good cq) :
    (State.laserLost s f k pwr at_).Good cq := by
  unfold State.laserLost
  repeat' (first
    | with_reducible assumption
    | with_reducible apply State.laserDark_good
    | with_reducible apply State.sendFail_good
    | (with_reducible refine State.good_ite (fun _ => ?_) (fun _ => ?_)))

theorem State.phaseEnd_good (s : State) (p at_ : Nat) (h : s.Good cq) :
    (State.phaseEnd s p at_).Good cq := by
  unfold State.phaseEnd
  repeat' (first
    | with_reducible assumption
    | with_reducible apply State.edgeDrain_good
    | with_reducible apply State.tile_ok
    | (extract_lets +onlyGivenNames z; with_reducible apply State.good_cut (cq := cq) (s := z); rotate_left; clear_value z; intro hz; rotate_right; subst z)
    | extract_lets +onlyGivenNames z
    | (with_reducible refine State.good_ite (fun _ => ?_) (fun _ => ?_)))

end Sys2Proof.Machine
end

