-- ==== Sys2Proof/Laws/KeepExec.lean ====
section
/-! SUPPORT. Every meaning keeps the maps canonical and leaves the queue of commands alone. -/

namespace Sys2Proof.Machine

variable {cq : List Instr}

theorem execBar_keeps (t : TileId) (w : IW) (s : State) (h : s.Good cq) :
    Keeps (execBar t w s) cq := by
  unfold execBar
  repeat' (first
    | with_reducible apply Keeps.next
    | with_reducible assumption
    | refine fun _ => ?_
    | with_reducible apply State.auditCompare_good
    | with_reducible apply State.onTile_good
    | with_reducible apply State.qualify_good
    | with_reducible apply State.withTile_good
    | with_reducible apply TW.bar_ok)

theorem execBarrierRelease_keeps (d : Fin 4) (c : Fin 64) (s : State) (h : s.Good cq) :
    Keeps (execBarrierRelease d c s) cq := by
  unfold execBarrierRelease
  repeat' (first
    | with_reducible apply Keeps.next
    | with_reducible assumption
    | with_reducible apply State.barrierRelease_good)

theorem execTickwait_keeps (t : TileId) (w : IW) (s : State) (h : s.Good cq) :
    Keeps (execTickwait t w s) cq := by
  unfold execTickwait
  repeat' (first
    | with_reducible apply Keeps.next
    | with_reducible assumption
    | refine fun _ => ?_
    | with_reducible apply State.auditCompare_good
    | with_reducible apply State.onTile_good
    | with_reducible apply State.withTile_good
    | with_reducible apply TW.tickwait_ok)

theorem execModuleReady_keeps (at_ : Nat) (s : State) (h : s.Good cq) :
    Keeps (execModuleReady at_ s) cq := by
  unfold execModuleReady
  repeat' (first
    | with_reducible apply Keeps.next
    | with_reducible assumption
    | with_reducible apply State.moduleReadyAt_good)

theorem execTick_keeps (at_ : Nat) (cyc : DieCycles) (s : State) (h : s.Good cq) :
    Keeps (execTick at_ cyc s) cq := by
  unfold execTick
  repeat' (first
    | with_reducible apply Keeps.next
    | with_reducible assumption
    | with_reducible apply State.tickIn_good)

theorem execHoldDeadline_keeps (at_ : Nat) (s : State) (h : s.Good cq) :
    Keeps (execHoldDeadline at_ s) cq := by
  unfold execHoldDeadline
  repeat' (first
    | with_reducible apply Keeps.next
    | with_reducible assumption
    | with_reducible apply State.holdDeadline_good)

theorem execHold_keeps (at_ : Nat) (s : State) (h : s.Good cq) :
    Keeps (execHold at_ s) cq := by
  unfold execHold
  repeat' (first
    | with_reducible apply Keeps.next
    | with_reducible assumption
    | with_reducible apply State.holdIn_good)

theorem execRelease_keeps (at_ : Nat) (s : State) (h : s.Good cq) :
    Keeps (execRelease at_ s) cq := by
  unfold execRelease
  repeat' (first
    | with_reducible apply Keeps.next
    | with_reducible assumption
    | with_reducible apply State.releaseIn_good)

theorem execScheduledTime_keeps (at_ : Nat) (s : State) (h : s.Good cq) :
    Keeps (execScheduledTime at_ s) cq := by
  unfold execScheduledTime
  repeat' (first
    | with_reducible apply Keeps.next
    | with_reducible assumption
    | with_reducible apply State.scheduledTime_good)

theorem execHoldLimitExpiry_keeps (at_ : Nat) (s : State) (h : s.Good cq) :
    Keeps (execHoldLimitExpiry at_ s) cq := by
  unfold execHoldLimitExpiry
  repeat' (first
    | with_reducible apply Keeps.next
    | with_reducible assumption
    | with_reducible apply State.holdExpiry_good)

theorem execOverrun_keeps (at_ : Nat) (s : State) (h : s.Good cq) :
    Keeps (execOverrun at_ s) cq := by
  unfold execOverrun
  repeat' (first
    | with_reducible apply Keeps.next
    | with_reducible assumption
    | with_reducible apply State.overrunIn_good)

theorem execRecover_keeps (at_ : Nat) (s : State) (h : s.Good cq) :
    Keeps (execRecover at_ s) cq := by
  unfold execRecover
  repeat' (first
    | with_reducible apply Keeps.next
    | with_reducible assumption
    | with_reducible apply State.recover_good)

theorem execHeartbeatTimer_keeps (s : State) (h : s.Good cq) :
    Keeps (execHeartbeatTimer s) cq := by
  unfold execHeartbeatTimer
  repeat' (first
    | with_reducible apply Keeps.next
    | with_reducible assumption
    | with_reducible apply State.tickHeartbeat_good)

theorem execHeartbeat_keeps (at_ : Nat) (s : State) (h : s.Good cq) :
    Keeps (execHeartbeat at_ s) cq := by
  unfold execHeartbeat
  repeat' (first
    | with_reducible apply Keeps.next
    | with_reducible assumption
    | with_reducible apply State.tickHeartbeatIn_good)

theorem execMasterLoss_keeps (at_ : Nat) (s : State) (h : s.Good cq) :
    Keeps (execMasterLoss at_ s) cq := by
  unfold execMasterLoss
  repeat' (first
    | with_reducible apply Keeps.next
    | with_reducible assumption
    | with_reducible apply State.masterLoss_good)

theorem execTakeover_keeps (at_ : Nat) (s : State) (h : s.Good cq) :
    Keeps (execTakeover at_ s) cq := by
  unfold execTakeover
  repeat' (first
    | with_reducible apply Keeps.next
    | with_reducible assumption
    | with_reducible apply State.takeoverIn_good)

theorem execClaimMaster_keeps (s : State) (h : s.Good cq) :
    Keeps (execClaimMaster s) cq := by
  unfold execClaimMaster
  repeat' (first
    | with_reducible apply Keeps.next
    | with_reducible assumption
    | with_reducible apply State.claimMasterIn_good)

theorem execClaimStandby_keeps (at_ : Nat) (s : State) (h : s.Good cq) :
    Keeps (execClaimStandby at_ s) cq := by
  unfold execClaimStandby
  repeat' (first
    | with_reducible apply Keeps.next
    | with_reducible assumption
    | with_reducible apply State.claimStandbyIn_good)

theorem execClaimWindowEnd_keeps (at_ : Nat) (s : State) (h : s.Good cq) :
    Keeps (execClaimWindowEnd at_ s) cq := by
  unfold execClaimWindowEnd
  repeat' (first
    | with_reducible apply Keeps.next
    | with_reducible assumption
    | with_reducible apply State.claimEnd_good)

theorem execPing_keeps (s : State) (h : s.Good cq) :
    Keeps (execPing s) cq := by
  unfold execPing
  repeat' (first
    | with_reducible apply Keeps.next
    | with_reducible assumption
    | with_reducible apply State.pingIn_good)

theorem execEcho_keeps (at_ : Nat) (s : State) (h : s.Good cq) :
    Keeps (execEcho at_ s) cq := by
  unfold execEcho
  repeat' (first
    | with_reducible apply Keeps.next
    | with_reducible assumption
    | with_reducible apply State.echoIn_good)

theorem execPingNow_keeps (at_ : Nat) (s : State) (h : s.Good cq) :
    Keeps (execPingNow at_ s) cq := by
  unfold execPingNow
  repeat' (first
    | with_reducible apply Keeps.next
    | with_reducible assumption
    | refine fun _ => ?_
    | with_reducible apply State.byHost_good
    | with_reducible apply State.sendPing_good)

theorem execRun_keeps (v : Bool) (at_ : Nat) (s : State) (h : s.Good cq) :
    Keeps (execRun v at_ s) cq := by
  unfold execRun
  repeat' (first
    | with_reducible apply Keeps.next
    | with_reducible assumption
    | refine fun _ => ?_
    | with_reducible apply State.byHost_good
    | with_reducible apply State.runWrite_good)

theorem execTickNextWrite_keeps (v : Word) (s : State) (h : s.Good cq) :
    Keeps (execTickNextWrite v s) cq := by
  unfold execTickNextWrite
  repeat' (first
    | with_reducible apply Keeps.next
    | with_reducible assumption
    | refine fun _ => ?_
    | with_reducible apply State.byHost_good
    | with_reducible apply State.tickNextWrite_good)

theorem execTickPeriodWrite_keeps (v : BitVec 24) (s : State) (h : s.Good cq) :
    Keeps (execTickPeriodWrite v s) cq := by
  unfold execTickPeriodWrite
  repeat' (first
    | with_reducible apply Keeps.next
    | with_reducible assumption
    | refine fun _ => ?_
    | with_reducible apply State.byHost_good
    | with_reducible apply State.periodWrite_good)

theorem execTickHoldLimitWrite_keeps (v : BitVec 24) (s : State) (h : s.Good cq) :
    Keeps (execTickHoldLimitWrite v s) cq := by
  unfold execTickHoldLimitWrite
  repeat' (first
    | with_reducible apply Keeps.next
    | with_reducible assumption
    | refine fun _ => ?_
    | with_reducible apply State.byHost_good
    | with_reducible apply State.limitWrite_good)

theorem execRoleCfgWrite_keeps (v : BitVec 2) (at_ : Nat) (s : State) (h : s.Good cq) :
    Keeps (execRoleCfgWrite v at_ s) cq := by
  unfold execRoleCfgWrite
  repeat' (first
    | with_reducible apply Keeps.next
    | with_reducible assumption
    | refine fun _ => ?_
    | with_reducible apply State.byHost_good
    | with_reducible apply State.roleCfgWrite_good)

theorem execTickCtxBindWrite_keeps (v : Word) (s : State) (h : s.Good cq) :
    Keeps (execTickCtxBindWrite v s) cq := by
  unfold execTickCtxBindWrite
  repeat' (first
    | with_reducible apply Keeps.next
    | with_reducible assumption
    | refine fun _ => ?_
    | with_reducible apply State.byHost_good
    | with_reducible apply State.put_good)

theorem execNop_keeps (t : TileId) (w : BitVec 64) (s : State) (h : s.Good cq) :
    Keeps (execNop t w s) cq := by
  unfold execNop
  repeat' (first
    | with_reducible apply Keeps.next
    | with_reducible assumption
    | refine fun _ => ?_
    | with_reducible apply State.runTile_good
    | with_reducible apply TW.nop_ok)

theorem execEndTile_keeps (t : TileId) (w : IW) (s : State) (h : s.Good cq) :
    Keeps (execEndTile t w s) cq := by
  unfold execEndTile
  repeat' (first
    | with_reducible apply Keeps.next
    | with_reducible assumption
    | refine fun _ => ?_
    | with_reducible apply State.auditCompare_good
    | with_reducible apply State.onTile_good
    | with_reducible apply State.qualify_good
    | with_reducible apply State.withTile_good
    | with_reducible apply TW.endTile_ok)

theorem execAdd_keeps (t : TileId) (w : IW) (s : State) (h : s.Good cq) :
    Keeps (execAdd t w s) cq := by
  unfold execAdd
  repeat' (first
    | with_reducible apply Keeps.next
    | with_reducible assumption
    | refine fun _ => ?_
    | with_reducible apply State.runTile_good
    | with_reducible apply TW.alu_ok)

theorem execSub_keeps (t : TileId) (w : IW) (s : State) (h : s.Good cq) :
    Keeps (execSub t w s) cq := by
  unfold execSub
  repeat' (first
    | with_reducible apply Keeps.next
    | with_reducible assumption
    | refine fun _ => ?_
    | with_reducible apply State.runTile_good
    | with_reducible apply TW.alu_ok)

theorem execAnd_keeps (t : TileId) (w : IW) (s : State) (h : s.Good cq) :
    Keeps (execAnd t w s) cq := by
  unfold execAnd
  repeat' (first
    | with_reducible apply Keeps.next
    | with_reducible assumption
    | refine fun _ => ?_
    | with_reducible apply State.runTile_good
    | with_reducible apply TW.alu_ok)

theorem execOr_keeps (t : TileId) (w : IW) (s : State) (h : s.Good cq) :
    Keeps (execOr t w s) cq := by
  unfold execOr
  repeat' (first
    | with_reducible apply Keeps.next
    | with_reducible assumption
    | refine fun _ => ?_
    | with_reducible apply State.runTile_good
    | with_reducible apply TW.alu_ok)

theorem execXor_keeps (t : TileId) (w : IW) (s : State) (h : s.Good cq) :
    Keeps (execXor t w s) cq := by
  unfold execXor
  repeat' (first
    | with_reducible apply Keeps.next
    | with_reducible assumption
    | refine fun _ => ?_
    | with_reducible apply State.runTile_good
    | with_reducible apply TW.alu_ok)

theorem execShl_keeps (t : TileId) (w : IW) (s : State) (h : s.Good cq) :
    Keeps (execShl t w s) cq := by
  unfold execShl
  repeat' (first
    | with_reducible apply Keeps.next
    | with_reducible assumption
    | refine fun _ => ?_
    | with_reducible apply State.runTile_good
    | with_reducible apply TW.alu_ok)

theorem execShr_keeps (t : TileId) (w : IW) (s : State) (h : s.Good cq) :
    Keeps (execShr t w s) cq := by
  unfold execShr
  repeat' (first
    | with_reducible apply Keeps.next
    | with_reducible assumption
    | refine fun _ => ?_
    | with_reducible apply State.runTile_good
    | with_reducible apply TW.alu_ok)

theorem execSar_keeps (t : TileId) (w : IW) (s : State) (h : s.Good cq) :
    Keeps (execSar t w s) cq := by
  unfold execSar
  repeat' (first
    | with_reducible apply Keeps.next
    | with_reducible assumption
    | refine fun _ => ?_
    | with_reducible apply State.runTile_good
    | with_reducible apply TW.alu_ok)

theorem execMin_keeps (t : TileId) (w : IW) (s : State) (h : s.Good cq) :
    Keeps (execMin t w s) cq := by
  unfold execMin
  repeat' (first
    | with_reducible apply Keeps.next
    | with_reducible assumption
    | refine fun _ => ?_
    | with_reducible apply State.runTile_good
    | with_reducible apply TW.alu_ok)

theorem execMax_keeps (t : TileId) (w : IW) (s : State) (h : s.Good cq) :
    Keeps (execMax t w s) cq := by
  unfold execMax
  repeat' (first
    | with_reducible apply Keeps.next
    | with_reducible assumption
    | refine fun _ => ?_
    | with_reducible apply State.runTile_good
    | with_reducible apply TW.alu_ok)

theorem execMinu_keeps (t : TileId) (w : IW) (s : State) (h : s.Good cq) :
    Keeps (execMinu t w s) cq := by
  unfold execMinu
  repeat' (first
    | with_reducible apply Keeps.next
    | with_reducible assumption
    | refine fun _ => ?_
    | with_reducible apply State.runTile_good
    | with_reducible apply TW.alu_ok)

theorem execMaxu_keeps (t : TileId) (w : IW) (s : State) (h : s.Good cq) :
    Keeps (execMaxu t w s) cq := by
  unfold execMaxu
  repeat' (first
    | with_reducible apply Keeps.next
    | with_reducible assumption
    | refine fun _ => ?_
    | with_reducible apply State.runTile_good
    | with_reducible apply TW.alu_ok)

theorem execAddi_keeps (t : TileId) (w : IW) (s : State) (h : s.Good cq) :
    Keeps (execAddi t w s) cq := by
  unfold execAddi
  repeat' (first
    | with_reducible apply Keeps.next
    | with_reducible assumption
    | refine fun _ => ?_
    | with_reducible apply State.runTile_good
    | with_reducible apply TW.alui_ok)

theorem execSubi_keeps (t : TileId) (w : IW) (s : State) (h : s.Good cq) :
    Keeps (execSubi t w s) cq := by
  unfold execSubi
  repeat' (first
    | with_reducible apply Keeps.next
    | with_reducible assumption
    | refine fun _ => ?_
    | with_reducible apply State.runTile_good
    | with_reducible apply TW.alui_ok)

theorem execAndi_keeps (t : TileId) (w : IW) (s : State) (h : s.Good cq) :
    Keeps (execAndi t w s) cq := by
  unfold execAndi
  repeat' (first
    | with_reducible apply Keeps.next
    | with_reducible assumption
    | refine fun _ => ?_
    | with_reducible apply State.runTile_good
    | with_reducible apply TW.alui_ok)

theorem execOri_keeps (t : TileId) (w : IW) (s : State) (h : s.Good cq) :
    Keeps (execOri t w s) cq := by
  unfold execOri
  repeat' (first
    | with_reducible apply Keeps.next
    | with_reducible assumption
    | refine fun _ => ?_
    | with_reducible apply State.runTile_good
    | with_reducible apply TW.alui_ok)

theorem execXori_keeps (t : TileId) (w : IW) (s : State) (h : s.Good cq) :
    Keeps (execXori t w s) cq := by
  unfold execXori
  repeat' (first
    | with_reducible apply Keeps.next
    | with_reducible assumption
    | refine fun _ => ?_
    | with_reducible apply State.runTile_good
    | with_reducible apply TW.alui_ok)

theorem execShli_keeps (t : TileId) (w : IW) (s : State) (h : s.Good cq) :
    Keeps (execShli t w s) cq := by
  unfold execShli
  repeat' (first
    | with_reducible apply Keeps.next
    | with_reducible assumption
    | refine fun _ => ?_
    | with_reducible apply State.runTile_good
    | with_reducible apply TW.alui_ok)

theorem execShri_keeps (t : TileId) (w : IW) (s : State) (h : s.Good cq) :
    Keeps (execShri t w s) cq := by
  unfold execShri
  repeat' (first
    | with_reducible apply Keeps.next
    | with_reducible assumption
    | refine fun _ => ?_
    | with_reducible apply State.runTile_good
    | with_reducible apply TW.alui_ok)

theorem execSari_keeps (t : TileId) (w : IW) (s : State) (h : s.Good cq) :
    Keeps (execSari t w s) cq := by
  unfold execSari
  repeat' (first
    | with_reducible apply Keeps.next
    | with_reducible assumption
    | refine fun _ => ?_
    | with_reducible apply State.runTile_good
    | with_reducible apply TW.alui_ok)

theorem execMini_keeps (t : TileId) (w : IW) (s : State) (h : s.Good cq) :
    Keeps (execMini t w s) cq := by
  unfold execMini
  repeat' (first
    | with_reducible apply Keeps.next
    | with_reducible assumption
    | refine fun _ => ?_
    | with_reducible apply State.runTile_good
    | with_reducible apply TW.alui_ok)

theorem execMaxi_keeps (t : TileId) (w : IW) (s : State) (h : s.Good cq) :
    Keeps (execMaxi t w s) cq := by
  unfold execMaxi
  repeat' (first
    | with_reducible apply Keeps.next
    | with_reducible assumption
    | refine fun _ => ?_
    | with_reducible apply State.runTile_good
    | with_reducible apply TW.alui_ok)

theorem execMinui_keeps (t : TileId) (w : IW) (s : State) (h : s.Good cq) :
    Keeps (execMinui t w s) cq := by
  unfold execMinui
  repeat' (first
    | with_reducible apply Keeps.next
    | with_reducible assumption
    | refine fun _ => ?_
    | with_reducible apply State.runTile_good
    | with_reducible apply TW.alui_ok)

theorem execMaxui_keeps (t : TileId) (w : IW) (s : State) (h : s.Good cq) :
    Keeps (execMaxui t w s) cq := by
  unfold execMaxui
  repeat' (first
    | with_reducible apply Keeps.next
    | with_reducible assumption
    | refine fun _ => ?_
    | with_reducible apply State.runTile_good
    | with_reducible apply TW.alui_ok)

theorem execMovi_keeps (t : TileId) (w : IW) (s : State) (h : s.Good cq) :
    Keeps (execMovi t w s) cq := by
  unfold execMovi
  repeat' (first
    | with_reducible apply Keeps.next
    | with_reducible assumption
    | refine fun _ => ?_
    | with_reducible apply State.runTile_good
    | with_reducible apply TW.movi_ok)

theorem execMovhi_keeps (t : TileId) (w : IW) (s : State) (h : s.Good cq) :
    Keeps (execMovhi t w s) cq := by
  unfold execMovhi
  repeat' (first
    | with_reducible apply Keeps.next
    | with_reducible assumption
    | refine fun _ => ?_
    | with_reducible apply State.runTile_good
    | with_reducible apply TW.movhi_ok)

theorem execCmpEq_keeps (t : TileId) (w : IW) (s : State) (h : s.Good cq) :
    Keeps (execCmpEq t w s) cq := by
  unfold execCmpEq
  repeat' (first
    | with_reducible apply Keeps.next
    | with_reducible assumption
    | refine fun _ => ?_
    | with_reducible apply State.runTile_good
    | with_reducible apply TW.cmp_ok)

theorem execCmpNe_keeps (t : TileId) (w : IW) (s : State) (h : s.Good cq) :
    Keeps (execCmpNe t w s) cq := by
  unfold execCmpNe
  repeat' (first
    | with_reducible apply Keeps.next
    | with_reducible assumption
    | refine fun _ => ?_
    | with_reducible apply State.runTile_good
    | with_reducible apply TW.cmp_ok)

theorem execCmpLt_keeps (t : TileId) (w : IW) (s : State) (h : s.Good cq) :
    Keeps (execCmpLt t w s) cq := by
  unfold execCmpLt
  repeat' (first
    | with_reducible apply Keeps.next
    | with_reducible assumption
    | refine fun _ => ?_
    | with_reducible apply State.runTile_good
    | with_reducible apply TW.cmp_ok)

theorem execCmpGe_keeps (t : TileId) (w : IW) (s : State) (h : s.Good cq) :
    Keeps (execCmpGe t w s) cq := by
  unfold execCmpGe
  repeat' (first
    | with_reducible apply Keeps.next
    | with_reducible assumption
    | refine fun _ => ?_
    | with_reducible apply State.runTile_good
    | with_reducible apply TW.cmp_ok)

theorem execCmpLtu_keeps (t : TileId) (w : IW) (s : State) (h : s.Good cq) :
    Keeps (execCmpLtu t w s) cq := by
  unfold execCmpLtu
  repeat' (first
    | with_reducible apply Keeps.next
    | with_reducible assumption
    | refine fun _ => ?_
    | with_reducible apply State.runTile_good
    | with_reducible apply TW.cmp_ok)

theorem execCmpGeu_keeps (t : TileId) (w : IW) (s : State) (h : s.Good cq) :
    Keeps (execCmpGeu t w s) cq := by
  unfold execCmpGeu
  repeat' (first
    | with_reducible apply Keeps.next
    | with_reducible assumption
    | refine fun _ => ?_
    | with_reducible apply State.runTile_good
    | with_reducible apply TW.cmp_ok)

theorem execPand_keeps (t : TileId) (w : IW) (s : State) (h : s.Good cq) :
    Keeps (execPand t w s) cq := by
  unfold execPand
  repeat' (first
    | with_reducible apply Keeps.next
    | with_reducible assumption
    | refine fun _ => ?_
    | with_reducible apply State.runTile_good
    | with_reducible apply TW.plogic_ok)

theorem execPor_keeps (t : TileId) (w : IW) (s : State) (h : s.Good cq) :
    Keeps (execPor t w s) cq := by
  unfold execPor
  repeat' (first
    | with_reducible apply Keeps.next
    | with_reducible assumption
    | refine fun _ => ?_
    | with_reducible apply State.runTile_good
    | with_reducible apply TW.plogic_ok)

theorem execPxor_keeps (t : TileId) (w : IW) (s : State) (h : s.Good cq) :
    Keeps (execPxor t w s) cq := by
  unfold execPxor
  repeat' (first
    | with_reducible apply Keeps.next
    | with_reducible assumption
    | refine fun _ => ?_
    | with_reducible apply State.runTile_good
    | with_reducible apply TW.plogic_ok)

theorem execPandn_keeps (t : TileId) (w : IW) (s : State) (h : s.Good cq) :
    Keeps (execPandn t w s) cq := by
  unfold execPandn
  repeat' (first
    | with_reducible apply Keeps.next
    | with_reducible assumption
    | refine fun _ => ?_
    | with_reducible apply State.runTile_good
    | with_reducible apply TW.plogic_ok)

theorem execBr_keeps (t : TileId) (w : IW) (s : State) (h : s.Good cq) :
    Keeps (execBr t w s) cq := by
  unfold execBr
  repeat' (first
    | with_reducible apply Keeps.next
    | with_reducible assumption
    | refine fun _ => ?_
    | with_reducible apply State.runTile_good
    | with_reducible apply TW.jump_ok)

theorem execCall_keeps (t : TileId) (w : IW) (s : State) (h : s.Good cq) :
    Keeps (execCall t w s) cq := by
  unfold execCall
  repeat' (first
    | with_reducible apply Keeps.next
    | with_reducible assumption
    | refine fun _ => ?_
    | with_reducible apply State.runTile_good
    | with_reducible apply TW.jump_ok)

theorem execJr_keeps (t : TileId) (w : IW) (s : State) (h : s.Good cq) :
    Keeps (execJr t w s) cq := by
  unfold execJr
  repeat' (first
    | with_reducible apply Keeps.next
    | with_reducible assumption
    | refine fun _ => ?_
    | with_reducible apply State.runTile_good
    | with_reducible apply TW.jump_ok)

theorem execCallr_keeps (t : TileId) (w : IW) (s : State) (h : s.Good cq) :
    Keeps (execCallr t w s) cq := by
  unfold execCallr
  repeat' (first
    | with_reducible apply Keeps.next
    | with_reducible assumption
    | refine fun _ => ?_
    | with_reducible apply State.runTile_good
    | with_reducible apply TW.jump_ok)

theorem execLoop_keeps (t : TileId) (w : IW) (s : State) (h : s.Good cq) :
    Keeps (execLoop t w s) cq := by
  unfold execLoop
  repeat' (first
    | with_reducible apply Keeps.next
    | with_reducible assumption
    | refine fun _ => ?_
    | with_reducible apply State.runTile_good
    | with_reducible apply TW.loop_ok)

theorem execLoopr_keeps (t : TileId) (w : IW) (s : State) (h : s.Good cq) :
    Keeps (execLoopr t w s) cq := by
  unfold execLoopr
  repeat' (first
    | with_reducible apply Keeps.next
    | with_reducible assumption
    | refine fun _ => ?_
    | with_reducible apply State.runTile_good
    | with_reducible apply TW.loop_ok)

theorem execLdB_keeps (t : TileId) (w : IW) (s : State) (h : s.Good cq) :
    Keeps (execLdB t w s) cq := by
  unfold execLdB
  repeat' (first
    | with_reducible apply Keeps.next
    | with_reducible assumption
    | refine fun _ => ?_
    | with_reducible apply State.runTile_good
    | with_reducible apply TW.load_ok)

theorem execLdH_keeps (t : TileId) (w : IW) (s : State) (h : s.Good cq) :
    Keeps (execLdH t w s) cq := by
  unfold execLdH
  repeat' (first
    | with_reducible apply Keeps.next
    | with_reducible assumption
    | refine fun _ => ?_
    | with_reducible apply State.runTile_good
    | with_reducible apply TW.load_ok)

theorem execLdW_keeps (t : TileId) (w : IW) (s : State) (h : s.Good cq) :
    Keeps (execLdW t w s) cq := by
  unfold execLdW
  repeat' (first
    | with_reducible apply Keeps.next
    | with_reducible assumption
    | refine fun _ => ?_
    | with_reducible apply State.runTile_good
    | with_reducible apply TW.load_ok)

theorem execLdD_keeps (t : TileId) (w : IW) (s : State) (h : s.Good cq) :
    Keeps (execLdD t w s) cq := by
  unfold execLdD
  repeat' (first
    | with_reducible apply Keeps.next
    | with_reducible assumption
    | refine fun _ => ?_
    | with_reducible apply State.runTile_good
    | with_reducible apply TW.load_ok)

theorem execLdBu_keeps (t : TileId) (w : IW) (s : State) (h : s.Good cq) :
    Keeps (execLdBu t w s) cq := by
  unfold execLdBu
  repeat' (first
    | with_reducible apply Keeps.next
    | with_reducible assumption
    | refine fun _ => ?_
    | with_reducible apply State.runTile_good
    | with_reducible apply TW.load_ok)

theorem execLdHu_keeps (t : TileId) (w : IW) (s : State) (h : s.Good cq) :
    Keeps (execLdHu t w s) cq := by
  unfold execLdHu
  repeat' (first
    | with_reducible apply Keeps.next
    | with_reducible assumption
    | refine fun _ => ?_
    | with_reducible apply State.runTile_good
    | with_reducible apply TW.load_ok)

theorem execLdWu_keeps (t : TileId) (w : IW) (s : State) (h : s.Good cq) :
    Keeps (execLdWu t w s) cq := by
  unfold execLdWu
  repeat' (first
    | with_reducible apply Keeps.next
    | with_reducible assumption
    | refine fun _ => ?_
    | with_reducible apply State.runTile_good
    | with_reducible apply TW.load_ok)

theorem execStB_keeps (t : TileId) (w : IW) (s : State) (h : s.Good cq) :
    Keeps (execStB t w s) cq := by
  unfold execStB
  repeat' (first
    | with_reducible apply Keeps.next
    | with_reducible assumption
    | refine fun _ => ?_
    | with_reducible apply State.runTile_good
    | with_reducible apply TW.store_ok)

theorem execStH_keeps (t : TileId) (w : IW) (s : State) (h : s.Good cq) :
    Keeps (execStH t w s) cq := by
  unfold execStH
  repeat' (first
    | with_reducible apply Keeps.next
    | with_reducible assumption
    | refine fun _ => ?_
    | with_reducible apply State.runTile_good
    | with_reducible apply TW.store_ok)

theorem execStW_keeps (t : TileId) (w : IW) (s : State) (h : s.Good cq) :
    Keeps (execStW t w s) cq := by
  unfold execStW
  repeat' (first
    | with_reducible apply Keeps.next
    | with_reducible assumption
    | refine fun _ => ?_
    | with_reducible apply State.runTile_good
    | with_reducible apply TW.store_ok)

theorem execStD_keeps (t : TileId) (w : IW) (s : State) (h : s.Good cq) :
    Keeps (execStD t w s) cq := by
  unfold execStD
  repeat' (first
    | with_reducible apply Keeps.next
    | with_reducible assumption
    | refine fun _ => ?_
    | with_reducible apply State.runTile_good
    | with_reducible apply TW.store_ok)

theorem execMul_keeps (t : TileId) (w : IW) (s : State) (h : s.Good cq) :
    Keeps (execMul t w s) cq := by
  unfold execMul
  repeat' (first
    | with_reducible apply Keeps.next
    | with_reducible assumption
    | refine fun _ => ?_
    | with_reducible apply State.runTile_good
    | with_reducible apply TW.muldiv_ok)

theorem execMulh_keeps (t : TileId) (w : IW) (s : State) (h : s.Good cq) :
    Keeps (execMulh t w s) cq := by
  unfold execMulh
  repeat' (first
    | with_reducible apply Keeps.next
    | with_reducible assumption
    | refine fun _ => ?_
    | with_reducible apply State.runTile_good
    | with_reducible apply TW.muldiv_ok)

theorem execMulhu_keeps (t : TileId) (w : IW) (s : State) (h : s.Good cq) :
    Keeps (execMulhu t w s) cq := by
  unfold execMulhu
  repeat' (first
    | with_reducible apply Keeps.next
    | with_reducible assumption
    | refine fun _ => ?_
    | with_reducible apply State.runTile_good
    | with_reducible apply TW.muldiv_ok)

theorem execDiv_keeps (t : TileId) (w : IW) (s : State) (h : s.Good cq) :
    Keeps (execDiv t w s) cq := by
  unfold execDiv
  repeat' (first
    | with_reducible apply Keeps.next
    | with_reducible assumption
    | refine fun _ => ?_
    | with_reducible apply State.runTile_good
    | with_reducible apply TW.muldiv_ok)

theorem execDivu_keeps (t : TileId) (w : IW) (s : State) (h : s.Good cq) :
    Keeps (execDivu t w s) cq := by
  unfold execDivu
  repeat' (first
    | with_reducible apply Keeps.next
    | with_reducible assumption
    | refine fun _ => ?_
    | with_reducible apply State.runTile_good
    | with_reducible apply TW.muldiv_ok)

theorem execRem_keeps (t : TileId) (w : IW) (s : State) (h : s.Good cq) :
    Keeps (execRem t w s) cq := by
  unfold execRem
  repeat' (first
    | with_reducible apply Keeps.next
    | with_reducible assumption
    | refine fun _ => ?_
    | with_reducible apply State.runTile_good
    | with_reducible apply TW.muldiv_ok)

theorem execRemu_keeps (t : TileId) (w : IW) (s : State) (h : s.Good cq) :
    Keeps (execRemu t w s) cq := by
  unfold execRemu
  repeat' (first
    | with_reducible apply Keeps.next
    | with_reducible assumption
    | refine fun _ => ?_
    | with_reducible apply State.runTile_good
    | with_reducible apply TW.muldiv_ok)

theorem execScalarResultAvailable_keeps (t : TileId) (s : State) (h : s.Good cq) :
    Keeps (execScalarResultAvailable t s) cq := by
  unfold execScalarResultAvailable
  repeat' (first
    | with_reducible apply Keeps.next
    | with_reducible assumption
    | refine fun _ => ?_
    | with_reducible apply State.runTile_good
    | with_reducible apply Tile.nextResult_ok
    | with_reducible apply TW.map_ok)

theorem execRnd_keeps (t : TileId) (w : IW) (s : State) (h : s.Good cq) :
    Keeps (execRnd t w s) cq := by
  unfold execRnd
  repeat' (first
    | with_reducible apply Keeps.next
    | with_reducible assumption
    | refine fun _ => ?_
    | with_reducible apply State.runTile_good
    | with_reducible apply TW.rnd_ok)

theorem execWaitAll_keeps (t : TileId) (w : IW) (s : State) (h : s.Good cq) :
    Keeps (execWaitAll t w s) cq := by
  unfold execWaitAll
  repeat' (first
    | with_reducible apply Keeps.next
    | with_reducible assumption
    | refine fun _ => ?_
    | with_reducible apply State.runTile_good
    | with_reducible apply TW.wait_ok)

theorem execWaitAny_keeps (t : TileId) (w : IW) (s : State) (h : s.Good cq) :
    Keeps (execWaitAny t w s) cq := by
  unfold execWaitAny
  repeat' (first
    | with_reducible apply Keeps.next
    | with_reducible assumption
    | refine fun _ => ?_
    | with_reducible apply State.runTile_good
    | with_reducible apply TW.wait_ok)

theorem execRowIssuable_keeps (t : TileId) (s : State) (h : s.Good cq) :
    Keeps (execRowIssuable t s) cq := by
  unfold execRowIssuable
  repeat' (first
    | with_reducible apply Keeps.next
    | with_reducible assumption
    | with_reducible apply State.runTile_good
    | with_reducible apply TW.rowDelivered_ok)

theorem execMmac_keeps (t : TileId) (w : IW) (s : State) (h : s.Good cq) :
    Keeps (execMmac t w s) cq := by
  unfold execMmac
  repeat' (first
    | with_reducible apply Keeps.next
    | with_reducible assumption
    | refine fun _ => ?_
    | with_reducible apply State.runTile_good
    | with_reducible apply TW.engine_ok)

theorem execMclr_keeps (t : TileId) (w : IW) (s : State) (h : s.Good cq) :
    Keeps (execMclr t w s) cq := by
  unfold execMclr
  repeat' (first
    | with_reducible apply Keeps.next
    | with_reducible assumption
    | refine fun _ => ?_
    | with_reducible apply State.runTile_good
    | with_reducible apply TW.engine_ok)

theorem execMstore_keeps (t : TileId) (w : IW) (s : State) (h : s.Good cq) :
    Keeps (execMstore t w s) cq := by
  unfold execMstore
  repeat' (first
    | with_reducible apply Keeps.next
    | with_reducible assumption
    | refine fun _ => ?_
    | with_reducible apply State.runTile_good
    | with_reducible apply TW.engine_ok)

theorem execMullerOperationStart_keeps (t : TileId) (c : Nat) (s : State) (h : s.Good cq) :
    Keeps (execMullerOperationStart t c s) cq := by
  unfold execMullerOperationStart
  repeat' (first
    | with_reducible apply Keeps.next
    | with_reducible assumption
    | refine fun _ => ?_
    | with_reducible apply State.runTile_good
    | with_reducible apply TW.mullerStart_ok)

theorem execStepCommit_keeps (t : TileId) (es : List MulFault) (s : State) (h : s.Good cq) :
    Keeps (execStepCommit t es s) cq := by
  unfold execStepCommit
  repeat' (first
    | with_reducible apply Keeps.next
    | with_reducible assumption
    | refine fun _ => ?_
    | with_reducible apply State.runTile_good
    | with_reducible apply TW.stepCommit_ok)

theorem execBlockComplete_keeps (t : TileId) (s : State) (h : s.Good cq) :
    Keeps (execBlockComplete t s) cq := by
  unfold execBlockComplete
  repeat' (first
    | with_reducible apply Keeps.next
    | with_reducible assumption
    | with_reducible apply State.runTile_good
    | with_reducible apply TW.blockComplete_ok)

theorem execMstorePiece_keeps (t : TileId) (s : State) (h : s.Good cq) :
    Keeps (execMstorePiece t s) cq := by
  unfold execMstorePiece
  repeat' (first
    | with_reducible apply Keeps.next
    | with_reducible assumption
    | with_reducible apply State.runTile_good
    | with_reducible apply TW.mstorePiece_ok)

theorem execGrun_keeps (t : TileId) (w : IW) (s : State) (h : s.Good cq) :
    Keeps (execGrun t w s) cq := by
  unfold execGrun
  repeat' (first
    | with_reducible apply Keeps.next
    | with_reducible assumption
    | refine fun _ => ?_
    | with_reducible apply State.runTile_good
    | with_reducible apply TW.engine_ok)

theorem execGrunStart_keeps (t : TileId) (c : Nat) (s : State) (h : s.Good cq) :
    Keeps (execGrunStart t c s) cq := by
  unfold execGrunStart
  repeat' (first
    | with_reducible apply Keeps.next
    | with_reducible assumption
    | refine fun _ => ?_
    | with_reducible apply State.runTile_good
    | with_reducible apply TW.grunStart_ok)

theorem execGlazeBeat_keeps (t : TileId) (s : State) (h : s.Good cq) :
    Keeps (execGlazeBeat t s) cq := by
  unfold execGlazeBeat
  repeat' (first
    | with_reducible apply Keeps.next
    | with_reducible assumption
    | with_reducible apply State.runTile_good
    | with_reducible apply TW.glazeBeat_ok)

theorem execWatchDelivery_keeps (s : State) (h : s.Good cq) :
    Keeps (execWatchDelivery s) cq := by
  unfold execWatchDelivery
  repeat' (first
    | with_reducible apply Keeps.next
    | with_reducible assumption
    | with_reducible apply State.watchDelivery_good)

theorem execXsend_keeps (t : TileId) (w : IW) (s : State) (h : s.Good cq) :
    Keeps (execXsend t w s) cq := by
  unfold execXsend
  repeat' (first
    | with_reducible apply Keeps.next
    | with_reducible assumption
    | refine fun _ => ?_
    | with_reducible apply State.runTile_good
    | with_reducible apply TW.xsend_ok)

theorem execXsendr_keeps (t : TileId) (w : IW) (s : State) (h : s.Good cq) :
    Keeps (execXsendr t w s) cq := by
  unfold execXsendr
  repeat' (first
    | with_reducible apply Keeps.next
    | with_reducible assumption
    | refine fun _ => ?_
    | with_reducible apply State.runTile_good
    | with_reducible apply TW.xsendr_ok)

theorem execDelivery_keeps (t : TileId) (s : State) (h : s.Good cq) :
    Keeps (execDelivery t s) cq := by
  unfold execDelivery
  repeat' (first
    | with_reducible apply Keeps.next
    | with_reducible assumption
    | with_reducible apply State.delivery_good
    | with_reducible apply State.withTile_good)

theorem execDieTmapNextWrite_keeps (d : Fin 4) (r : Fin 48) (w : TimedWrite) (s : State) (h : s.Good cq) :
    Keeps (execDieTmapNextWrite d r w s) cq := by
  unfold execDieTmapNextWrite
  repeat' (first
    | with_reducible apply Keeps.next
    | with_reducible assumption
    | refine fun _ => ?_
    | with_reducible apply State.byHost_good
    | with_reducible apply State.tmapNextWrite_good)

theorem execSload_keeps (t : TileId) (w : IW) (s : State) (h : s.Good cq) :
    Keeps (execSload t w s) cq := by
  unfold execSload
  repeat' (first
    | with_reducible apply Keeps.next
    | with_reducible assumption
    | refine fun _ => ?_
    | with_reducible apply State.runTile_good
    | with_reducible apply TW.engine_ok)

theorem execSstore_keeps (t : TileId) (w : IW) (s : State) (h : s.Good cq) :
    Keeps (execSstore t w s) cq := by
  unfold execSstore
  repeat' (first
    | with_reducible apply Keeps.next
    | with_reducible assumption
    | refine fun _ => ?_
    | with_reducible apply State.runTile_good
    | with_reducible apply TW.engine_ok)

theorem execTransferStart_keeps (t : TileId) (c : Nat) (s : State) (h : s.Good cq) :
    Keeps (execTransferStart t c s) cq := by
  unfold execTransferStart
  repeat' (first
    | with_reducible apply Keeps.next
    | with_reducible assumption
    | refine fun _ => ?_
    | with_reducible apply State.transferStart_good
    | with_reducible apply State.withTile_good)

theorem execTransferComplete_keeps (t : TileId) (k c l : Nat) (lat : List Nat) (s : State) (h : s.Good cq) :
    Keeps (execTransferComplete t k c l lat s) cq := by
  unfold execTransferComplete
  repeat' (first
    | with_reducible apply Keeps.next
    | with_reducible assumption
    | refine fun _ => ?_
    | with_reducible apply State.transferComplete_good
    | with_reducible apply State.withTile_good)

theorem execHbmSeCtlEnable_keeps (d : Fin 4) (k : Fin 6) (v : Bool) (s : State) (h : s.Good cq) :
    Keeps (execHbmSeCtlEnable d k v s) cq := by
  unfold execHbmSeCtlEnable
  repeat' (first
    | with_reducible apply Keeps.next
    | with_reducible assumption
    | refine fun _ => ?_
    | with_reducible apply State.byHost_good
    | with_reducible apply State.seEnable_good)

theorem execEngineDrainComplete_keeps (d : Fin 4) (k : Fin 6) (s : State) (h : s.Good cq) :
    Keeps (execEngineDrainComplete d k s) cq := by
  unfold execEngineDrainComplete
  repeat' (first
    | with_reducible apply Keeps.next
    | with_reducible assumption
    | with_reducible apply State.drainComplete_good)

theorem execStackLoss_keeps (d : Fin 4) (p : Fin 6) (cyc : Nat) (s : State) (h : s.Good cq) :
    Keeps (execStackLoss d p cyc s) cq := by
  unfold execStackLoss
  repeat' (first
    | with_reducible apply Keeps.next
    | with_reducible assumption
    | with_reducible apply State.stackLoss_good)

theorem execHbmSemapWrite_keeps (d : Fin 4) (w : SemapWrite) (s : State) (h : s.Good cq) :
    Keeps (execHbmSemapWrite d w s) cq := by
  unfold execHbmSemapWrite
  repeat' (first
    | with_reducible apply Keeps.next
    | with_reducible assumption
    | refine fun _ => ?_
    | with_reducible apply State.byHost_good
    | with_reducible apply State.semapWrite_good)

theorem execRegionAllocate_keeps (d : Fin 4) (c k : Fin 64) (v : Word) (s : State) (h : s.Good cq) :
    Keeps (execRegionAllocate d c k v s) cq := by
  unfold execRegionAllocate
  repeat' (first
    | with_reducible apply Keeps.next
    | with_reducible assumption
    | refine fun _ => ?_
    | with_reducible apply State.byHost_good
    | with_reducible apply State.regionAllocate_good)

theorem execRegionRelease_keeps (d : Fin 4) (c k : Fin 64) (s : State) (h : s.Good cq) :
    Keeps (execRegionRelease d c k s) cq := by
  unfold execRegionRelease
  repeat' (first
    | with_reducible apply Keeps.next
    | with_reducible assumption
    | refine fun _ => ?_
    | with_reducible apply State.byHost_good
    | with_reducible apply State.regionRelease_good)

theorem execGranuleClean_keeps (d : Fin 4) (p : Fin 6) (slots : Nat) (s : State) (h : s.Good cq) :
    Keeps (execGranuleClean d p slots s) cq := by
  unfold execGranuleClean
  repeat' (first
    | with_reducible apply Keeps.next
    | with_reducible assumption
    | with_reducible apply State.granuleClean_good)

theorem execBar2Access_keeps (vf : Option (Fin 64)) (size a : Nat) (acc : HostAccess) (s : State) (h : s.Good cq) :
    Keeps (execBar2Access vf size a acc s) cq := by
  unfold execBar2Access
  repeat' (first
    | with_reducible apply Keeps.next
    | exact Keeps.refused _
    | with_reducible apply Keeps.ite
    | with_reducible assumption
    | with_reducible apply State.bar2_good)

theorem execCorrectedWriteBack_keeps (p : PhysTile) (c : Nat) (bank : Fin 16) (s : State) (h : s.Good cq) :
    Keeps (execCorrectedWriteBack p c bank s) cq := by
  unfold execCorrectedWriteBack
  repeat' (first
    | with_reducible apply Keeps.next
    | with_reducible assumption
    | refine fun _ => ?_
    | with_reducible apply State.onTile_good
    | with_reducible apply TW.writeBackOne_ok
    | split)

theorem execPatrolRead_keeps (u : PatrolUnit) (c : Nat) (bank : Fin 16) (s : State) (h : s.Good cq) :
    Keeps (execPatrolRead u c bank s) cq := by
  unfold execPatrolRead
  split
  all_goals repeat' (first
    | with_reducible apply Keeps.next
    | with_reducible assumption
    | refine fun _ => ?_
    | with_reducible apply State.onTile_good
    | with_reducible apply TW.patrolOne_ok
    | with_reducible apply State.bldPatrol_good
    | split)

theorem execPalCtrlPatrolWrite_keeps (t : TileId) (c : Nat) (v : Bool) (s : State) (h : s.Good cq) :
    Keeps (execPalCtrlPatrolWrite t c v s) cq := by
  unfold execPalCtrlPatrolWrite
  repeat' (first
    | with_reducible apply Keeps.next
    | with_reducible assumption
    | refine fun _ => ?_
    | with_reducible apply State.writeTileReg_good
    | with_reducible apply TW.patrolWrite_ok)

theorem execPalPartWrite_keeps (t : TileId) (c : Nat) (k : Fin 16) (v : Word) (s : State) (h : s.Good cq) :
    Keeps (execPalPartWrite t c k v s) cq := by
  unfold execPalPartWrite
  repeat' (first
    | with_reducible apply Keeps.next
    | with_reducible assumption
    | refine fun _ => ?_
    | with_reducible apply State.writeTileReg_good
    | with_reducible apply TW.partWrite_ok)

theorem execPalRxcfgWrite_keeps (t : TileId) (k : Fin 4) (v : Word) (s : State) (h : s.Good cq) :
    Keeps (execPalRxcfgWrite t k v s) cq := by
  unfold execPalRxcfgWrite
  repeat' (first
    | with_reducible apply Keeps.next
    | with_reducible assumption
    | refine fun _ => ?_
    | with_reducible apply State.writeTileReg_good
    | with_reducible apply TW.rxCfgWrite_ok)

theorem execPalRxrelWrite_keeps (t : TileId) (k : Fin 4) (n : BitVec 7) (s : State) (h : s.Good cq) :
    Keeps (execPalRxrelWrite t k n s) cq := by
  unfold execPalRxrelWrite
  repeat' (first
    | with_reducible apply Keeps.next
    | with_reducible assumption
    | refine fun _ => ?_
    | with_reducible apply State.writeTileReg_good
    | with_reducible apply TW.rxRelWrite_ok)

theorem execGessoComplete_keeps (p : PhysTile) (s : State) (h : s.Good cq) :
    Keeps (execGessoComplete p s) cq := by
  unfold execGessoComplete
  repeat' (first
    | with_reducible apply Keeps.next
    | with_reducible assumption
    | with_reducible apply State.gessoDone_good)

theorem execFput_keeps (t : TileId) (w : IW) (s : State) (h : s.Good cq) :
    Keeps (execFput t w s) cq := by
  unfold execFput
  repeat' (first
    | with_reducible apply Keeps.next
    | with_reducible assumption
    | refine fun _ => ?_
    | with_reducible apply State.runTile_good
    | with_reducible apply TW.engine_ok)

theorem execFsend_keeps (t : TileId) (w : IW) (s : State) (h : s.Good cq) :
    Keeps (execFsend t w s) cq := by
  unfold execFsend
  repeat' (first
    | with_reducible apply Keeps.next
    | with_reducible assumption
    | refine fun _ => ?_
    | with_reducible apply State.runTile_good
    | with_reducible apply TW.engine_ok)

theorem execFabricOperationStart_keeps (t : TileId) (at_ c : Nat) (s : State) (h : s.Good cq) :
    Keeps (execFabricOperationStart t at_ c s) cq := by
  unfold execFabricOperationStart
  repeat' (first
    | with_reducible apply Keeps.next
    | with_reducible assumption
    | refine fun _ => ?_
    | with_reducible apply State.fabricStart_good
    | with_reducible apply State.withTile_good)

theorem execBucketBlockPass_keeps (i : Fin 16384) (at_ c : Nat) (s : State) (h : s.Good cq) :
    Keeps (execBucketBlockPass i at_ c s) cq := by
  unfold execBucketBlockPass
  repeat' (first
    | with_reducible apply Keeps.next
    | with_reducible assumption
    | with_reducible apply State.blockPass_good)

theorem execFlitReceive_keeps (f : Fin 2) (p : Fin 24) (num : BitVec 24) (cw : Codewords) (hdr : BitVec 128) (data : BitVec 1024) (s : State) (h : s.Good cq) :
    Keeps (execFlitReceive f p num cw hdr data s) cq := by
  unfold execFlitReceive
  repeat' (first
    | with_reducible apply Keeps.next
    | with_reducible assumption
    | with_reducible apply State.flitReceive_good)

theorem execOutputSlot_keeps (f : Fin 2) (p : Fin 24) (at_ : Nat) (s : State) (h : s.Good cq) :
    Keeps (execOutputSlot f p at_ s) cq := by
  unfold execOutputSlot
  repeat' (first
    | with_reducible apply Keeps.next
    | with_reducible assumption
    | with_reducible apply State.outputSlot_good)

theorem execWrite_keeps (at_ c : Nat) (s : State) (h : s.Good cq) :
    Keeps (execWrite at_ c s) cq := by
  unfold execWrite
  repeat' (first
    | with_reducible apply Keeps.next
    | with_reducible assumption
    | with_reducible apply State.write_good)

theorem execCredit_keeps (at_ c : Nat) (s : State) (h : s.Good cq) :
    Keeps (execCredit at_ c s) cq := by
  unfold execCredit
  repeat' (first
    | with_reducible apply Keeps.next
    | with_reducible assumption
    | with_reducible apply State.credit_good)

theorem execAck_keeps (at_ c : Nat) (s : State) (h : s.Good cq) :
    Keeps (execAck at_ c s) cq := by
  unfold execAck
  repeat' (first
    | with_reducible apply Keeps.next
    | with_reducible assumption
    | with_reducible apply State.ack_good
    | with_reducible apply State.afterFlow_good)

theorem execNack_keeps (at_ c : Nat) (s : State) (h : s.Good cq) :
    Keeps (execNack at_ c s) cq := by
  unfold execNack
  repeat' (first
    | with_reducible apply Keeps.next
    | with_reducible assumption
    | with_reducible apply State.afterFlow_good
    | with_reducible apply State.nack_good)

theorem execAckTimer_keeps (i : Fin 16384) (at_ : Nat) (s : State) (h : s.Good cq) :
    Keeps (execAckTimer i at_ s) cq := by
  unfold execAckTimer
  repeat' (first
    | with_reducible apply Keeps.next
    | with_reducible assumption
    | with_reducible apply State.ackTimer_good)

theorem execFlowTimeout_keeps (i : Fin 16384) (at_ c : Nat) (s : State) (h : s.Good cq) :
    Keeps (execFlowTimeout i at_ c s) cq := by
  unfold execFlowTimeout
  repeat' (first
    | with_reducible apply Keeps.next
    | with_reducible assumption
    | with_reducible apply State.afterFlow_good
    | with_reducible apply State.flowTimeout_good)

theorem execFlowEnable_keeps (i : Fin 16384) (v : Word) (s : State) (h : s.Good cq) :
    Keeps (execFlowEnable i v s) cq := by
  unfold execFlowEnable
  repeat' (first
    | with_reducible apply Keeps.next
    | with_reducible assumption
    | refine fun _ => ?_
    | with_reducible apply State.byHost_good
    | with_reducible apply State.flowEnable_good)

theorem execFlowDrain_keeps (i : Fin 16384) (v : Word) (at_ c : Nat) (s : State) (h : s.Good cq) :
    Keeps (execFlowDrain i v at_ c s) cq := by
  unfold execFlowDrain
  repeat' (first
    | with_reducible apply Keeps.next
    | with_reducible assumption
    | refine fun _ => ?_
    | with_reducible apply State.afterFlow_good
    | with_reducible apply State.byHost_good
    | with_reducible apply State.flowDrain_good)

theorem execFlowDrainComplete_keeps (i : Fin 16384) (at_ c : Nat) (s : State) (h : s.Good cq) :
    Keeps (execFlowDrainComplete i at_ c s) cq := by
  unfold execFlowDrainComplete
  repeat' (first
    | with_reducible apply Keeps.next
    | with_reducible assumption
    | with_reducible apply State.afterFlow_good
    | with_reducible apply State.flowDrained_good)

theorem execLcfNormal_keeps (f : Fin 2) (p : Fin 16) (x : BitVec 1152) (s : State) (h : s.Good cq) :
    Keeps (execLcfNormal f p x s) cq := by
  unfold execLcfNormal
  repeat' (first
    | with_reducible apply Keeps.next
    | with_reducible assumption
    | with_reducible apply State.lcfNormal_good)

theorem execReplayRequest_keeps (f : Fin 2) (p : Fin 16) (at_ : Nat) (x : BitVec 1152) (s : State) (h : s.Good cq) :
    Keeps (execReplayRequest f p at_ x s) cq := by
  unfold execReplayRequest
  repeat' (first
    | with_reducible apply Keeps.next
    | with_reducible assumption
    | with_reducible apply State.replayRequest_good)

theorem execIdent_keeps (f : Fin 2) (p : Fin 16) (at_ : Nat) (x : BitVec 1152) (s : State) (h : s.Good cq) :
    Keeps (execIdent f p at_ x s) cq := by
  unfold execIdent
  repeat' (first
    | with_reducible apply Keeps.next
    | with_reducible assumption
    | with_reducible apply State.ident_good)

theorem execCreditInit_keeps (f : Fin 2) (p : Fin 16) (at_ : Nat) (x : BitVec 1152) (s : State) (h : s.Good cq) :
    Keeps (execCreditInit f p at_ x s) cq := by
  unfold execCreditInit
  repeat' (first
    | with_reducible apply Keeps.next
    | with_reducible assumption
    | with_reducible apply State.creditInit_good
    | with_reducible apply State.startClaims_good)

theorem execFabPortEnable_keeps (f : Fin 2) (p : Fin 16) (at_ : Nat) (s : State) (h : s.Good cq) :
    Keeps (execFabPortEnable f p at_ s) cq := by
  unfold execFabPortEnable
  repeat' (first
    | with_reducible apply Keeps.next
    | with_reducible assumption
    | refine fun _ => ?_
    | with_reducible apply State.byHost_good
    | with_reducible apply State.portEnable_good)

theorem execFabPortDisable_keeps (f : Fin 2) (p : Fin 16) (at_ : Nat) (s : State) (h : s.Good cq) :
    Keeps (execFabPortDisable f p at_ s) cq := by
  unfold execFabPortDisable
  repeat' (first
    | with_reducible apply Keeps.next
    | with_reducible assumption
    | refine fun _ => ?_
    | with_reducible apply State.byHost_good
    | with_reducible apply State.portDisable_good)

theorem execTrainingPatternDetected_keeps (f : Fin 2) (p : Fin 16) (at_ : Nat) (s : State) (h : s.Good cq) :
    Keeps (execTrainingPatternDetected f p at_ s) cq := by
  unfold execTrainingPatternDetected
  repeat' (first
    | with_reducible apply Keeps.next
    | with_reducible assumption
    | with_reducible apply State.patternDetected_good)

theorem execEqualizeComplete_keeps (f : Fin 2) (p : Fin 16) (at_ : Nat) (s : State) (h : s.Good cq) :
    Keeps (execEqualizeComplete f p at_ s) cq := by
  unfold execEqualizeComplete
  repeat' (first
    | with_reducible apply Keeps.next
    | with_reducible assumption
    | with_reducible apply State.trainStep_good)

theorem execLockFound_keeps (f : Fin 2) (p : Fin 16) (at_ : Nat) (s : State) (h : s.Good cq) :
    Keeps (execLockFound f p at_ s) cq := by
  unfold execLockFound
  repeat' (first
    | with_reducible apply Keeps.next
    | with_reducible assumption
    | with_reducible apply State.lockFound_good)

theorem execTrainingTimeout_keeps (f : Fin 2) (p : Fin 16) (at_ : Nat) (s : State) (h : s.Good cq) :
    Keeps (execTrainingTimeout f p at_ s) cq := by
  unfold execTrainingTimeout
  repeat' (first
    | with_reducible apply Keeps.next
    | with_reducible assumption
    | with_reducible apply State.trainTimeout_good)

theorem execRetrain_keeps (f : Fin 2) (p : Fin 16) (x : LinkLoss) (s : State) (h : s.Good cq) :
    Keeps (execRetrain f p x s) cq := by
  unfold execRetrain
  repeat' (first
    | with_reducible apply Keeps.next
    | with_reducible assumption
    | with_reducible apply State.retrain_good)

theorem execRetrainAttemptEnd_keeps (f : Fin 2) (p : Fin 16) (at_ : Nat) (ok : Bool) (s : State) (h : s.Good cq) :
    Keeps (execRetrainAttemptEnd f p at_ ok s) cq := by
  unfold execRetrainAttemptEnd
  repeat' (first
    | with_reducible apply Keeps.next
    | with_reducible assumption
    | with_reducible apply State.retrainEnd_good)

theorem execPortDrainComplete_keeps (f : Fin 2) (p : Fin 16) (at_ : Nat) (s : State) (h : s.Good cq) :
    Keeps (execPortDrainComplete f p at_ s) cq := by
  unfold execPortDrainComplete
  repeat' (first
    | with_reducible apply Keeps.next
    | with_reducible assumption
    | with_reducible apply State.portDrained_good)

theorem execDarkTimerExpiry_keeps (f : Fin 2) (p : Fin 16) (at_ : Nat) (s : State) (h : s.Good cq) :
    Keeps (execDarkTimerExpiry f p at_ s) cq := by
  unfold execDarkTimerExpiry
  repeat' (first
    | with_reducible apply Keeps.next
    | with_reducible assumption
    | with_reducible apply State.darkExpiry_good)

theorem execLaserInputDark_keeps (f k : Fin 2) (pwr : BitVec 16) (at_ : Nat) (s : State) (h : s.Good cq) :
    Keeps (execLaserInputDark f k pwr at_ s) cq := by
  unfold execLaserInputDark
  repeat' (first
    | with_reducible apply Keeps.next
    | with_reducible assumption
    | with_reducible apply State.laserLost_good)

theorem execBundleGroupFailure_keeps (b : Fin 5) (s : State) (h : s.Good cq) :
    Keeps (execBundleGroupFailure b s) cq := by
  unfold execBundleGroupFailure
  repeat' (first
    | with_reducible apply Keeps.next
    | with_reducible assumption
    | with_reducible apply State.bundleFailure_good)

theorem execBlendPart_keeps (at_ : Nat) (s : State) (h : s.Good cq) :
    Keeps (execBlendPart at_ s) cq := by
  unfold execBlendPart
  repeat' (first
    | with_reducible apply Keeps.next
    | with_reducible assumption
    | with_reducible apply State.blendPart_good)

theorem execBlendEnd_keeps (at_ : Nat) (s : State) (h : s.Good cq) :
    Keeps (execBlendEnd at_ s) cq := by
  unfold execBlendEnd
  repeat' (first
    | with_reducible apply Keeps.next
    | with_reducible assumption
    | with_reducible apply State.blendEnd_good)

theorem execAdvance_keeps (m : Moment) (s : State) (h : s.Good cq) :
    Keeps (execAdvance m s) cq := by
  unfold execAdvance
  repeat' (first
    | with_reducible apply Keeps.next
    | with_reducible assumption
    | with_reducible apply State.advance_good)

theorem execPartialEmit_keeps (i : Fin 16384) (at_ : Nat) (s : State) (h : s.Good cq) :
    Keeps (execPartialEmit i at_ s) cq := by
  unfold execPartialEmit
  repeat' (first
    | with_reducible apply Keeps.next
    | with_reducible assumption
    | with_reducible apply State.partialEmit_good)

theorem execRootBlockComplete_keeps (i : Fin 16384) (at_ c : Nat) (s : State) (h : s.Good cq) :
    Keeps (execRootBlockComplete i at_ c s) cq := by
  unfold execRootBlockComplete
  repeat' (first
    | with_reducible apply Keeps.next
    | with_reducible assumption
    | with_reducible apply State.rootComplete_good)

theorem execBlendResult_keeps (at_ c : Nat) (s : State) (h : s.Good cq) :
    Keeps (execBlendResult at_ c s) cq := by
  unfold execBlendResult
  repeat' (first
    | with_reducible apply Keeps.next
    | with_reducible assumption
    | with_reducible apply State.blendResult_good)

theorem execRoundComplete_keeps (i : Fin 16384) (at_ c : Nat) (s : State) (h : s.Good cq) :
    Keeps (execRoundComplete i at_ c s) cq := by
  unfold execRoundComplete
  repeat' (first
    | with_reducible apply Keeps.next
    | with_reducible assumption
    | with_reducible apply State.roundComplete_good)

theorem execBldAccRead_keeps (f : Fin 2) (s : State) (h : s.Good cq) :
    Keeps (execBldAccRead f s) cq := by
  unfold execBldAccRead
  repeat' (first
    | with_reducible apply Keeps.next
    | with_reducible assumption
    | refine fun _ => ?_
    | with_reducible apply State.bldRead_good
    | with_reducible apply State.byHost_good)

theorem execBldAccWrite_keeps (f : Fin 2) (s : State) (h : s.Good cq) :
    Keeps (execBldAccWrite f s) cq := by
  unfold execBldAccWrite
  repeat' (first
    | with_reducible apply Keeps.next
    | with_reducible assumption
    | refine fun _ => ?_
    | with_reducible apply State.bldWrite_good
    | with_reducible apply State.byHost_good)

theorem execSig_keeps (t : TileId) (w : IW) (s : State) (h : s.Good cq) :
    Keeps (execSig t w s) cq := by
  unfold execSig
  repeat' (first
    | with_reducible apply Keeps.next
    | with_reducible assumption
    | refine fun _ => ?_
    | with_reducible apply State.runTile_good
    | with_reducible apply TW.syncOp_ok)

theorem execWaitge_keeps (t : TileId) (w : IW) (s : State) (h : s.Good cq) :
    Keeps (execWaitge t w s) cq := by
  unfold execWaitge
  repeat' (first
    | with_reducible apply Keeps.next
    | with_reducible assumption
    | refine fun _ => ?_
    | with_reducible apply State.runTile_good
    | with_reducible apply TW.syncOp_ok)

theorem execSigArrival_keeps (t : TileId) (s : State) (h : s.Good cq) :
    Keeps (execSigArrival t s) cq := by
  unfold execSigArrival
  repeat' (first
    | with_reducible apply Keeps.next
    | with_reducible assumption
    | with_reducible apply State.sigArrival_good
    | with_reducible apply State.withTile_good)

theorem execWaitgeArrival_keeps (t : TileId) (s : State) (h : s.Good cq) :
    Keeps (execWaitgeArrival t s) cq := by
  unfold execWaitgeArrival
  repeat' (first
    | with_reducible apply Keeps.next
    | with_reducible assumption
    | with_reducible apply State.waitArrival_good
    | with_reducible apply State.withTile_good)

theorem execBind_keeps (d : Fin 4) (i : Fin 4096) (w : TimedWrite) (s : State) (h : s.Good cq) :
    Keeps (execBind d i w s) cq := by
  unfold execBind
  repeat' (first
    | with_reducible apply Keeps.next
    | with_reducible assumption
    | refine fun _ => ?_
    | with_reducible apply State.bind_good
    | with_reducible apply State.byHost_good)

theorem execUnbind_keeps (d : Fin 4) (i : Fin 4096) (v : Word) (c : Nat) (s : State) (h : s.Good cq) :
    Keeps (execUnbind d i v c s) cq := by
  unfold execUnbind
  repeat' (first
    | with_reducible apply Keeps.next
    | with_reducible assumption
    | refine fun _ => ?_
    | with_reducible apply State.byHost_good
    | with_reducible apply State.unbind_good)

theorem execCounterStoreError_keeps (d : Fin 4) (i : Fin 4096) (c : Nat) (s : State) (h : s.Good cq) :
    Keeps (execCounterStoreError d i c s) cq := by
  unfold execCounterStoreError
  repeat' (first
    | with_reducible apply Keeps.next
    | with_reducible assumption
    | with_reducible apply State.storeError_good)

theorem execRebase_keeps (at_ c : Nat) (s : State) (h : s.Good cq) :
    Keeps (execRebase at_ c s) cq := by
  unfold execRebase
  repeat' (first
    | with_reducible apply Keeps.next
    | with_reducible assumption
    | with_reducible apply State.rebaseFlit_good)

theorem execHostWaitArm_keeps (vf : Bool) (c w : Fin 64) (v : Word) (s : State) (h : s.Good cq) :
    Keeps (execHostWaitArm vf c w v s) cq := by
  unfold execHostWaitArm
  repeat' (first
    | with_reducible apply Keeps.next
    | with_reducible assumption
    | refine fun _ => ?_
    | with_reducible apply State.armSlot_good
    | with_reducible apply State.byPage_good)

theorem execHostWaitTargetWrite_keeps (vf : Bool) (c w : Fin 64) (v : BitVec 48) (s : State) (h : s.Good cq) :
    Keeps (execHostWaitTargetWrite vf c w v s) cq := by
  unfold execHostWaitTargetWrite
  repeat' (first
    | with_reducible apply Keeps.next
    | with_reducible assumption
    | refine fun _ => ?_
    | with_reducible apply State.byPage_good
    | with_reducible apply State.hostTarget_good)

theorem execDbSig_keeps (vf : Bool) (c : Fin 64) (wide : Bool) (v : Word) (s : State) (h : s.Good cq) :
    Keeps (execDbSig vf c wide v s) cq := by
  unfold execDbSig
  repeat' (first
    | with_reducible apply Keeps.next
    | with_reducible assumption
    | refine fun _ => ?_
    | with_reducible apply State.byPage_good
    | with_reducible apply State.dbSig_good)

theorem execDoorbellArrival_keeps (c : Fin 64) (cyc : Nat) (s : State) (h : s.Good cq) :
    Keeps (execDoorbellArrival c cyc s) cq := by
  unfold execDoorbellArrival
  repeat' (first
    | with_reducible apply Keeps.next
    | with_reducible assumption
    | with_reducible apply State.bellArrival_good)

theorem execSyncAdd_keeps (at_ c : Nat) (s : State) (h : s.Good cq) :
    Keeps (execSyncAdd at_ c s) cq := by
  unfold execSyncAdd
  repeat' (first
    | with_reducible apply Keeps.next
    | with_reducible assumption
    | with_reducible apply State.syncAdd_good)

theorem execMbsEnable_keeps (c : Fin 64) (v : Word) (s : State) (h : s.Good cq) :
    Keeps (execMbsEnable c v s) cq := by
  unfold execMbsEnable
  repeat' (first
    | with_reducible apply Keeps.next
    | with_reducible assumption
    | refine fun _ => ?_
    | with_reducible apply State.byHost_good
    | with_reducible apply State.mbsEnable_good)

theorem execMbsDisable_keeps (c : Fin 64) (v : Word) (s : State) (h : s.Good cq) :
    Keeps (execMbsDisable c v s) cq := by
  unfold execMbsDisable
  repeat' (first
    | with_reducible apply Keeps.next
    | with_reducible assumption
    | refine fun _ => ?_
    | with_reducible apply State.byHost_good
    | with_reducible apply State.mbsDisable_good)

theorem execOpenStep_keeps (c : Fin 64) (s : State) (h : s.Good cq) :
    Keeps (execOpenStep c s) cq := by
  unfold execOpenStep
  repeat' (first
    | with_reducible apply Keeps.next
    | with_reducible assumption
    | refine fun _ => ?_
    | with_reducible apply State.byHost_good
    | with_reducible apply State.mbsOpen_good)

theorem execMbsReset_keeps (c : Fin 64) (s : State) (h : s.Good cq) :
    Keeps (execMbsReset c s) cq := by
  unfold execMbsReset
  repeat' (first
    | with_reducible apply Keeps.next
    | with_reducible assumption
    | refine fun _ => ?_
    | with_reducible apply State.byHost_good
    | with_reducible apply State.mbsReset_good)

theorem execUnitRelease_keeps (c : Fin 64) (at_ cyc : Nat) (s : State) (h : s.Good cq) :
    Keeps (execUnitRelease c at_ cyc s) cq := by
  unfold execUnitRelease
  repeat' (first
    | with_reducible apply Keeps.next
    | with_reducible assumption
    | with_reducible apply State.unitRelease_good)

theorem execStepClose_keeps (c : Fin 64) (at_ : Nat) (s : State) (h : s.Good cq) :
    Keeps (execStepClose c at_ s) cq := by
  unfold execStepClose
  repeat' (first
    | with_reducible apply Keeps.next
    | with_reducible assumption
    | with_reducible apply State.stepClose_good)

theorem execWatchClose_keeps (c : Fin 64) (s : State) (h : s.Good cq) :
    Keeps (execWatchClose c s) cq := by
  unfold execWatchClose
  repeat' (first
    | with_reducible apply Keeps.next
    | with_reducible assumption
    | refine fun _ => ?_
    | with_reducible apply State.byHost_good
    | with_reducible apply State.watchCloseWrite_good)

theorem execWchCtxWrite_keeps (c : Fin 64) (v : Word) (s : State) (h : s.Good cq) :
    Keeps (execWchCtxWrite c v s) cq := by
  unfold execWchCtxWrite
  repeat' (first
    | with_reducible apply Keeps.next
    | with_reducible assumption
    | refine fun _ => ?_
    | with_reducible apply State.byHost_good
    | with_reducible apply State.wchWrite_good)

theorem execWchAccRead_keeps (s : State) (h : s.Good cq) :
    Keeps (execWchAccRead s) cq := by
  unfold execWchAccRead
  repeat' (first
    | with_reducible apply Keeps.next
    | with_reducible assumption
    | with_reducible apply State.byHost_good
    | with_reducible apply State.wchRead_good)

theorem execWchAccWrite_keeps (s : State) (h : s.Good cq) :
    Keeps (execWchAccWrite s) cq := by
  unfold execWchAccWrite
  repeat' (first
    | with_reducible apply Keeps.next
    | with_reducible assumption
    | with_reducible apply State.byHost_good
    | with_reducible apply State.wchAccWrite_good)

theorem execExportStart_keeps (x : Fin 4) (v : Word) (at_ cyc : Nat) (s : State) (h : s.Good cq) :
    Keeps (execExportStart x v at_ cyc s) cq := by
  unfold execExportStart
  repeat' (first
    | with_reducible apply Keeps.next
    | with_reducible assumption
    | refine fun _ => ?_
    | with_reducible apply State.byHost_good
    | with_reducible apply State.exportStart_good)

theorem execExportAbort_keeps (x : Fin 4) (s : State) (h : s.Good cq) :
    Keeps (execExportAbort x s) cq := by
  unfold execExportAbort
  repeat' (first
    | with_reducible apply Keeps.next
    | with_reducible assumption
    | refine fun _ => ?_
    | with_reducible apply State.byHost_good
    | with_reducible apply State.exportAbort_good)

theorem execExportDone_keeps (x : Fin 4) (s : State) (h : s.Good cq) :
    Keeps (execExportDone x s) cq := by
  unfold execExportDone
  repeat' (first
    | with_reducible apply Keeps.next
    | with_reducible assumption
    | with_reducible apply State.exportDone_good)

theorem execLocalCopyComplete_keeps (c : Fin 64) (at_ cyc : Nat) (s : State) (h : s.Good cq) :
    Keeps (execLocalCopyComplete c at_ cyc s) cq := by
  unfold execLocalCopyComplete
  repeat' (first
    | with_reducible apply Keeps.next
    | with_reducible assumption
    | with_reducible apply State.localCopyDone_good)

theorem execSnapBegin_keeps (s : State) (h : s.Good cq) :
    Keeps (execSnapBegin s) cq := by
  unfold execSnapBegin
  repeat' (first
    | with_reducible apply Keeps.next
    | with_reducible assumption
    | with_reducible apply State.snapBegin_good)

theorem execSnapEnd_keeps (s : State) (h : s.Good cq) :
    Keeps (execSnapEnd s) cq := by
  unfold execSnapEnd
  repeat' (first
    | with_reducible apply Keeps.next
    | with_reducible assumption
    | with_reducible apply State.snapEnd_good)

theorem execSnapAck_keeps (at_ cyc : Nat) (s : State) (h : s.Good cq) :
    Keeps (execSnapAck at_ cyc s) cq := by
  unfold execSnapAck
  repeat' (first
    | with_reducible apply Keeps.next
    | with_reducible assumption
    | with_reducible apply State.snapAck_good)

theorem execLog_keeps (s : State) (h : s.Good cq) :
    Keeps (execLog s) cq := by
  unfold execLog
  repeat' (first
    | with_reducible apply Keeps.next
    | with_reducible assumption
    | with_reducible apply State.logIn_good)

theorem execLogack_keeps (s : State) (h : s.Good cq) :
    Keeps (execLogack s) cq := by
  unfold execLogack
  repeat' (first
    | with_reducible apply Keeps.next
    | with_reducible assumption
    | with_reducible apply State.logAck_good)

theorem execMirrorLagTimer_keeps (at_ : Nat) (s : State) (h : s.Good cq) :
    Keeps (execMirrorLagTimer at_ s) cq := by
  unfold execMirrorLagTimer
  repeat' (first
    | with_reducible apply Keeps.next
    | with_reducible assumption
    | with_reducible apply State.mirrorLag_good)

theorem execCtrlHeartbeatTimer_keeps (at_ : Nat) (s : State) (h : s.Good cq) :
    Keeps (execCtrlHeartbeatTimer at_ s) cq := by
  unfold execCtrlHeartbeatTimer
  repeat' (first
    | with_reducible apply Keeps.next
    | with_reducible assumption
    | with_reducible apply State.heartbeatTimer_good)

theorem execCtrlHeartbeat_keeps (at_ : Nat) (s : State) (h : s.Good cq) :
    Keeps (execCtrlHeartbeat at_ s) cq := by
  unfold execCtrlHeartbeat
  repeat' (first
    | with_reducible apply Keeps.next
    | with_reducible assumption
    | with_reducible apply State.heartbeatIn_good)

theorem execHeartbeatMiss_keeps (n : BitVec 14) (at_ : Nat) (s : State) (h : s.Good cq) :
    Keeps (execHeartbeatMiss n at_ s) cq := by
  unfold execHeartbeatMiss
  repeat' (first
    | with_reducible apply Keeps.next
    | with_reducible assumption
    | with_reducible apply State.heartbeatMiss_good)

theorem execFail_keeps (at_ : Nat) (s : State) (h : s.Good cq) :
    Keeps (execFail at_ s) cq := by
  unfold execFail
  repeat' (first
    | with_reducible apply Keeps.next
    | with_reducible assumption
    | with_reducible apply State.failIn_good)

theorem execLinkdown_keeps (at_ : Nat) (s : State) (h : s.Good cq) :
    Keeps (execLinkdown at_ s) cq := by
  unfold execLinkdown
  repeat' (first
    | with_reducible apply Keeps.next
    | with_reducible assumption
    | with_reducible apply State.linkdownIn_good)

theorem execEvent_keeps (at_ : Nat) (s : State) (h : s.Good cq) :
    Keeps (execEvent at_ s) cq := by
  unfold execEvent
  repeat' (first
    | with_reducible apply Keeps.next
    | with_reducible assumption
    | with_reducible apply State.eventIn_good)

theorem execSnapinfo_keeps (at_ : Nat) (s : State) (h : s.Good cq) :
    Keeps (execSnapinfo at_ s) cq := by
  unfold execSnapinfo
  repeat' (first
    | with_reducible apply Keeps.next
    | with_reducible assumption
    | with_reducible apply State.snapInfoIn_good)

theorem execPlan_keeps (at_ cyc : Nat) (s : State) (h : s.Good cq) :
    Keeps (execPlan at_ cyc s) cq := by
  unfold execPlan
  repeat' (first
    | with_reducible apply Keeps.next
    | with_reducible assumption
    | with_reducible apply State.planIn_good)

theorem execRewire_keeps (s : State) (h : s.Good cq) :
    Keeps (execRewire s) cq := by
  unfold execRewire
  repeat' (first
    | with_reducible apply Keeps.next
    | with_reducible assumption
    | with_reducible apply State.rewireIn_good)

theorem execRewired_keeps (at_ : Nat) (s : State) (h : s.Good cq) :
    Keeps (execRewired at_ s) cq := by
  unfold execRewired
  repeat' (first
    | with_reducible apply Keeps.next
    | with_reducible assumption
    | with_reducible apply State.rewiredIn_good)

theorem execFill_keeps (at_ cyc : Nat) (s : State) (h : s.Good cq) :
    Keeps (execFill at_ cyc s) cq := by
  unfold execFill
  repeat' (first
    | with_reducible apply Keeps.next
    | with_reducible assumption
    | with_reducible apply State.fillIn_good)

theorem execFillCommit_keeps (s : State) (h : s.Good cq) :
    Keeps (execFillCommit s) cq := by
  unfold execFillCommit
  repeat' (first
    | with_reducible apply Keeps.next
    | with_reducible assumption
    | with_reducible apply State.fillCommit_good)

theorem execFilled_keeps (at_ : Nat) (s : State) (h : s.Good cq) :
    Keeps (execFilled at_ s) cq := by
  unfold execFilled
  repeat' (first
    | with_reducible apply Keeps.next
    | with_reducible assumption
    | with_reducible apply State.filledIn_good)

theorem execAbandon_keeps (at_ : Nat) (s : State) (h : s.Good cq) :
    Keeps (execAbandon at_ s) cq := by
  unfold execAbandon
  repeat' (first
    | with_reducible apply Keeps.next
    | with_reducible assumption
    | with_reducible apply State.abandonIn_good)

theorem execRestored_keeps (at_ : Nat) (s : State) (h : s.Good cq) :
    Keeps (execRestored at_ s) cq := by
  unfold execRestored
  repeat' (first
    | with_reducible apply Keeps.next
    | with_reducible assumption
    | with_reducible apply State.restoredIn_good)

theorem execResume_keeps (s : State) (h : s.Good cq) :
    Keeps (execResume s) cq := by
  unfold execResume
  repeat' (first
    | with_reducible apply Keeps.next
    | with_reducible assumption
    | with_reducible apply State.resumeIn_good)

theorem execResumeTick_keeps (at_ : Nat) (s : State) (h : s.Good cq) :
    Keeps (execResumeTick at_ s) cq := by
  unfold execResumeTick
  repeat' (first
    | with_reducible apply Keeps.next
    | with_reducible assumption
    | with_reducible apply State.resumeEmit_good)

theorem execState_keeps (s : State) (h : s.Good cq) :
    Keeps (execState s) cq := by
  unfold execState
  repeat' (first
    | with_reducible apply Keeps.next
    | with_reducible assumption
    | with_reducible apply State.stateIn_good)

theorem execShrink_keeps (s : State) (h : s.Good cq) :
    Keeps (execShrink s) cq := by
  unfold execShrink
  repeat' (first
    | with_reducible apply Keeps.next
    | with_reducible assumption
    | with_reducible apply State.shrinkIn_good)

theorem execRewireTimeout_keeps (at_ : Nat) (s : State) (h : s.Good cq) :
    Keeps (execRewireTimeout at_ s) cq := by
  unfold execRewireTimeout
  repeat' (first
    | with_reducible apply Keeps.next
    | with_reducible assumption
    | with_reducible apply State.rewireTimeout_good)

theorem execFillTimeout_keeps (at_ : Nat) (s : State) (h : s.Good cq) :
    Keeps (execFillTimeout at_ s) cq := by
  unfold execFillTimeout
  repeat' (first
    | with_reducible apply Keeps.next
    | with_reducible assumption
    | with_reducible apply State.fillTimeout_good)

theorem execRestoreTimeout_keeps (at_ : Nat) (s : State) (h : s.Good cq) :
    Keeps (execRestoreTimeout at_ s) cq := by
  unfold execRestoreTimeout
  repeat' (first
    | with_reducible apply Keeps.next
    | with_reducible assumption
    | with_reducible apply State.restoreTimeout_good)

theorem execRetry_keeps (at_ : Nat) (s : State) (h : s.Good cq) :
    Keeps (execRetry at_ s) cq := by
  unfold execRetry
  repeat' (first
    | with_reducible apply Keeps.next
    | with_reducible assumption
    | refine fun _ => ?_
    | with_reducible apply State.byHost_good
    | with_reducible apply State.retry_good)

theorem execAbort_keeps (at_ : Nat) (s : State) (h : s.Good cq) :
    Keeps (execAbort at_ s) cq := by
  unfold execAbort
  repeat' (first
    | with_reducible apply Keeps.next
    | with_reducible assumption
    | refine fun _ => ?_
    | with_reducible apply State.abort_good
    | with_reducible apply State.byHost_good)

theorem execShrinkDone_keeps (at_ : Nat) (s : State) (h : s.Good cq) :
    Keeps (execShrinkDone at_ s) cq := by
  unfold execShrinkDone
  repeat' (first
    | with_reducible apply Keeps.next
    | with_reducible assumption
    | refine fun _ => ?_
    | with_reducible apply State.byHost_good
    | with_reducible apply State.shrinkDone_good)

theorem execRestoreComplete_keeps (c : Fin 64) (at_ cyc : Nat) (s : State) (h : s.Good cq) :
    Keeps (execRestoreComplete c at_ cyc s) cq := by
  unfold execRestoreComplete
  repeat' (first
    | with_reducible apply Keeps.next
    | with_reducible assumption
    | with_reducible apply State.restoreComplete_good)

theorem execConfirmWindowExpiry_keeps (n : BitVec 14) (at_ : Nat) (s : State) (h : s.Good cq) :
    Keeps (execConfirmWindowExpiry n at_ s) cq := by
  unfold execConfirmWindowExpiry
  repeat' (first
    | with_reducible apply Keeps.next
    | with_reducible assumption
    | with_reducible apply State.confirmExpiry_good)

theorem execErrcUpdate_keeps (s : State) (h : s.Good cq) :
    Keeps (execErrcUpdate s) cq := by
  unfold execErrcUpdate
  repeat' (first
    | with_reducible apply Keeps.next
    | with_reducible assumption
    | with_reducible apply State.errcUpdate_good)

theorem execErrcThrArm_keeps (i : Fin 512) (v : Word) (s : State) (h : s.Good cq) :
    Keeps (execErrcThrArm i v s) cq := by
  unfold execErrcThrArm
  repeat' (first
    | with_reducible apply Keeps.next
    | with_reducible assumption
    | refine fun _ => ?_
    | with_reducible apply State.byHost_good
    | with_reducible apply State.thrArm_good)

theorem execErrcDbaddrWrite_keeps (w : RingReg) (v : Word) (s : State) (h : s.Good cq) :
    Keeps (execErrcDbaddrWrite w v s) cq := by
  unfold execErrcDbaddrWrite
  repeat' (first
    | with_reducible apply Keeps.next
    | with_reducible assumption
    | refine fun _ => ?_
    | with_reducible apply State.byHost_good
    | with_reducible apply State.ringRegWrite_good)

theorem execSuspectEvent_keeps (d : Fin 4) (at_ : Nat) (s : State) (h : s.Good cq) :
    Keeps (execSuspectEvent d at_ s) cq := by
  unfold execSuspectEvent
  repeat' (first
    | with_reducible apply Keeps.next
    | with_reducible assumption
    | with_reducible apply State.suspectEvent_good
    | (with_reducible refine State.good_ite (fun _ => ?_) (fun _ => ?_)))

theorem execSuspicionExpiry_keeps (d : Fin 4) (at_ : Nat) (s : State) (h : s.Good cq) :
    Keeps (execSuspicionExpiry d at_ s) cq := by
  unfold execSuspicionExpiry
  repeat' (first
    | with_reducible apply Keeps.next
    | with_reducible assumption
    | with_reducible apply State.suspicionExpiry_good)

theorem execRepMarginWrite_keeps (d : Fin 4) (v : Word) (s : State) (h : s.Good cq) :
    Keeps (execRepMarginWrite d v s) cq := by
  unfold execRepMarginWrite
  repeat' (first
    | with_reducible apply Keeps.next
    | with_reducible assumption
    | refine fun _ => ?_
    | with_reducible apply State.byHost_good
    | with_reducible apply State.marginWrite_good)

theorem execMigrationStart_keeps (d : Fin 4) (r : Fin 48) (s : State) (h : s.Good cq) :
    Keeps (execMigrationStart d r s) cq := by
  unfold execMigrationStart
  repeat' (first
    | with_reducible apply Keeps.next
    | with_reducible assumption
    | with_reducible apply State.migrationStart_good)

theorem execCopyComplete_keeps (d : Fin 4) (r : Fin 48) (q : Fin 34) (at_ : Nat) (s : State) (h : s.Good cq) :
    Keeps (execCopyComplete d r q at_ s) cq := by
  unfold execCopyComplete
  repeat' (first
    | with_reducible apply Keeps.next
    | with_reducible assumption
    | with_reducible apply State.copyComplete_good)

theorem execMigrationTimeout_keeps (d : Fin 4) (r : Fin 48) (q : Fin 34) (at_ : Nat) (s : State) (h : s.Good cq) :
    Keeps (execMigrationTimeout d r q at_ s) cq := by
  unfold execMigrationTimeout
  repeat' (first
    | with_reducible apply Keeps.next
    | with_reducible assumption
    | with_reducible apply State.migrationTimeout_good)

theorem execAuditStart_keeps (d : Fin 4) (r : Fin 48) (at_ : Nat) (s : State) (h : s.Good cq) :
    Keeps (execAuditStart d r at_ s) cq := by
  unfold execAuditStart
  repeat' (first
    | with_reducible apply Keeps.next
    | with_reducible assumption
    | with_reducible apply State.auditStart_good)

theorem execRollingScanRow_keeps (d : Fin 4) (at_ : Nat) (s : State) (h : s.Good cq) :
    Keeps (execRollingScanRow d at_ s) cq := by
  unfold execRollingScanRow
  repeat' (first
    | with_reducible apply Keeps.next
    | with_reducible assumption
    | with_reducible apply State.scanNextRow_good)

theorem execScanResult_keeps (p : PhysTile) (pass : Bool) (at_ : Nat) (s : State) (h : s.Good cq) :
    Keeps (execScanResult p pass at_ s) cq := by
  unfold execScanResult
  repeat' (first
    | with_reducible apply Keeps.next
    | with_reducible assumption
    | with_reducible apply State.scanResult_good)

theorem execRepCommitGo_keeps (d : Fin 4) (s : State) (h : s.Good cq) :
    Keeps (execRepCommitGo d s) cq := by
  unfold execRepCommitGo
  repeat' (first
    | with_reducible apply Keeps.next
    | with_reducible assumption
    | refine fun _ => ?_
    | with_reducible apply State.byHost_good
    | with_reducible apply State.commitGo_good)

theorem execFuseProgramComplete_keeps (d : Fin 4) (good : Bool) (s : State) (h : s.Good cq) :
    Keeps (execFuseProgramComplete d good s) cq := by
  unfold execFuseProgramComplete
  repeat' (first
    | with_reducible apply Keeps.next
    | with_reducible assumption
    | with_reducible apply State.fuseProgrammed_good
    | with_reducible apply State.mirrorFuses_good)

theorem execLdrCtxRowsWrite_keeps (d : Fin 4) (c : Fin 64) (v : BitVec 48) (s : State) (h : s.Good cq) :
    Keeps (execLdrCtxRowsWrite d c v s) cq := by
  unfold execLdrCtxRowsWrite
  repeat' (first
    | with_reducible apply Keeps.next
    | with_reducible assumption
    | refine fun _ => ?_
    | with_reducible apply State.byHost_good
    | with_reducible apply State.ldrRowsWrite_good)

theorem execLoad_keeps (d : Fin 4) (c : Fin 64) (auto : Bool) (s : State) (h : s.Good cq) :
    Keeps (execLoad d c auto s) cq := by
  unfold execLoad
  repeat' (first
    | with_reducible apply Keeps.next
    | with_reducible assumption
    | refine fun _ => ?_
    | with_reducible apply State.byHost_good
    | with_reducible apply State.load_good)

theorem execLoadRestore_keeps (d : Fin 4) (c : Fin 64) (auto : Bool) (s : State) (h : s.Good cq) :
    Keeps (execLoadRestore d c auto s) cq := by
  unfold execLoadRestore
  repeat' (first
    | with_reducible apply Keeps.next
    | with_reducible assumption
    | refine fun _ => ?_
    | with_reducible apply State.byHost_good
    | with_reducible apply State.load_good)

theorem execLoadFinish_keeps (d : Fin 4) (c : Fin 64) (cyc at_ : Nat) (s : State) (h : s.Good cq) :
    Keeps (execLoadFinish d c cyc at_ s) cq := by
  unfold execLoadFinish
  repeat' (first
    | with_reducible apply Keeps.next
    | with_reducible assumption
    | with_reducible apply State.loadFinish_good)

theorem execStart_keeps (d : Fin 4) (c : Fin 64) (cyc at_ : Nat) (s : State) (h : s.Good cq) :
    Keeps (execStart d c cyc at_ s) cq := by
  unfold execStart
  repeat' (first
    | with_reducible apply Keeps.next
    | with_reducible assumption
    | refine fun _ => ?_
    | with_reducible apply State.byHost_good
    | with_reducible apply State.start_good)

theorem execPenRingWrite_keeps (d : Fin 4) (v : Word) (s : State) (h : s.Good cq) :
    Keeps (execPenRingWrite d v s) cq := by
  unfold execPenRingWrite
  repeat' (first
    | with_reducible apply Keeps.next
    | with_reducible assumption
    | refine fun _ => ?_
    | with_reducible apply State.byHost_good
    | with_reducible apply State.penRing_good)

theorem execEvenCounterRead_keeps (k : CounterSet) (at_ : Nat) (s : State) (h : s.Good cq) :
    Keeps (execEvenCounterRead k at_ s) cq := by
  unfold execEvenCounterRead
  repeat' (first
    | with_reducible apply Keeps.next
    | with_reducible assumption
    | with_reducible apply State.evenRead_good)

theorem execRcRead_keeps (func : Fin 65) (a : BitVec 26) (n at_ : Nat) (s : State) (h : s.Good cq) :
    Keeps (execRcRead func a n at_ s) cq := by
  unfold execRcRead
  repeat' (first
    | with_reducible apply Keeps.next
    | with_reducible assumption
    | with_reducible apply State.hostRead_good)

theorem execPerfTaddrWrite_keeps (v : BitVec 14) (s : State) (h : s.Good cq) :
    Keeps (execPerfTaddrWrite v s) cq := by
  unfold execPerfTaddrWrite
  repeat' (first
    | with_reducible apply Keeps.next
    | with_reducible assumption
    | refine fun _ => ?_
    | with_reducible apply State.byHost_good
    | with_reducible apply State.perfTaddr_good)

theorem execPerfHclrHbm_keeps (s : State) (h : s.Good cq) :
    Keeps (execPerfHclrHbm s) cq := by
  unfold execPerfHclrHbm
  repeat' (first
    | with_reducible apply Keeps.next
    | with_reducible assumption
    | with_reducible apply State.byHost_good
    | with_reducible apply State.clearHbmHist_good)

theorem execPerfHclrSync_keeps (s : State) (h : s.Good cq) :
    Keeps (execPerfHclrSync s) cq := by
  unfold execPerfHclrSync
  repeat' (first
    | with_reducible apply Keeps.next
    | with_reducible assumption
    | with_reducible apply State.byHost_good
    | with_reducible apply State.clearSyncHist_good)

theorem execPerfHclrFlow_keeps (s : State) (h : s.Good cq) :
    Keeps (execPerfHclrFlow s) cq := by
  unfold execPerfHclrFlow
  repeat' (first
    | with_reducible apply Keeps.next
    | with_reducible assumption
    | with_reducible apply State.byHost_good
    | with_reducible apply State.clearFlowHist_good)

theorem execRegisterWrite_keeps (func : Fin 65) (win : Window) (a : BitVec 26) (n : Nat) (v : Word) (at_ cyc : Nat) (s : State) (h : s.Good cq) :
    Keeps (execRegisterWrite func win a n v at_ cyc s) cq := by
  unfold execRegisterWrite
  repeat' (first
    | with_reducible apply Keeps.next
    | with_reducible assumption
    | with_reducible apply State.hostWrite_good)

theorem execLinkDown_keeps (at_ cyc : Nat) (s : State) (h : s.Good cq) :
    Keeps (execLinkDown at_ cyc s) cq := by
  unfold execLinkDown
  repeat' (first
    | with_reducible apply Keeps.next
    | with_reducible assumption
    | with_reducible apply State.linkDown_good)

theorem execHotReset_keeps (at_ cyc : Nat) (s : State) (h : s.Good cq) :
    Keeps (execHotReset at_ cyc s) cq := by
  unfold execHotReset
  repeat' (first
    | with_reducible apply Keeps.next
    | with_reducible assumption
    | with_reducible apply State.linkEvent_good)

theorem execFunctionLevelReset_keeps (func : Fin 65) (at_ cyc : Nat) (s : State) (h : s.Good cq) :
    Keeps (execFunctionLevelReset func at_ cyc s) cq := by
  unfold execFunctionLevelReset
  repeat' (first
    | with_reducible apply Keeps.next
    | with_reducible assumption
    | with_reducible apply State.funcReset_good)

theorem execPerstN_keeps (at_ cyc : Nat) (s : State) (h : s.Good cq) :
    Keeps (execPerstN at_ cyc s) cq := by
  unfold execPerstN
  repeat' (first
    | with_reducible apply Keeps.next
    | with_reducible assumption
    | with_reducible apply State.perst_good)

theorem execPoisonedWriteRequest_keeps (s : State) (h : s.Good cq) :
    Keeps (execPoisonedWriteRequest s) cq := by
  unfold execPoisonedWriteRequest
  repeat' (first
    | with_reducible apply Keeps.next
    | with_reducible assumption
    | with_reducible apply State.poisonedWrite_good)

theorem execUnsupportedRequest_keeps (s : State) (h : s.Good cq) :
    Keeps (execUnsupportedRequest s) cq := by
  unfold execUnsupportedRequest
  repeat' (first
    | with_reducible apply Keeps.next
    | with_reducible assumption
    | with_reducible apply State.unsupported_good)

theorem execHctxEnable_keeps (c : Fin 64) (v : Word) (s : State) (h : s.Good cq) :
    Keeps (execHctxEnable c v s) cq := by
  unfold execHctxEnable
  repeat' (first
    | with_reducible apply Keeps.next
    | with_reducible assumption
    | refine fun _ => ?_
    | with_reducible apply State.hctxEnable_good
    | with_reducible apply State.hostCommand_good)

theorem execHctxDisable_keeps (c : Fin 64) (v : Word) (at_ cyc : Nat) (s : State) (h : s.Good cq) :
    Keeps (execHctxDisable c v at_ cyc s) cq := by
  unfold execHctxDisable
  repeat' (first
    | with_reducible apply Keeps.next
    | with_reducible assumption
    | refine fun _ => ?_
    | with_reducible apply State.hctxDisable_good
    | with_reducible apply State.hostCommand_good)

theorem execContextReset_keeps (c : Fin 64) (at_ cyc : Nat) (s : State) (h : s.Good cq) :
    Keeps (execContextReset c at_ cyc s) cq := by
  unfold execContextReset
  repeat' (first
    | with_reducible apply Keeps.next
    | with_reducible assumption
    | refine fun _ => ?_
    | with_reducible apply State.ctxReset_good
    | with_reducible apply State.hostCommand_good)

theorem execContextResetComplete_keeps (c : Fin 64) (s : State) (h : s.Good cq) :
    Keeps (execContextResetComplete c s) cq := by
  unfold execContextResetComplete
  repeat' (first
    | with_reducible apply Keeps.next
    | with_reducible assumption
    | with_reducible apply State.resetCompleteAll_good)

theorem execBar4Access_keeps (a : BitVec 28) (c : Nat) (acc : HostAccess) (s : State) (h : s.Good cq) :
    Keeps (execBar4Access a c acc s) cq := by
  unfold execBar4Access
  repeat' (first
    | with_reducible apply Keeps.next
    | exact Keeps.refused _
    | with_reducible apply Keeps.ite
    | with_reducible assumption
    | with_reducible apply State.bar4_good)

theorem execGetId_keeps (r : EasReq) (at_ : Nat) (s : State) (h : s.Good cq) :
    Keeps (execGetId r at_ s) cq := by
  unfold execGetId
  repeat' (first
    | with_reducible apply Keeps.next
    | exact Keeps.refused _
    | with_reducible apply Keeps.ite
    | with_reducible assumption
    | with_reducible apply State.easCommand_good)

theorem execGetStatus_keeps (r : EasReq) (at_ : Nat) (s : State) (h : s.Good cq) :
    Keeps (execGetStatus r at_ s) cq := by
  unfold execGetStatus
  repeat' (first
    | with_reducible apply Keeps.next
    | exact Keeps.refused _
    | with_reducible apply Keeps.ite
    | with_reducible assumption
    | with_reducible apply State.easCommand_good)

theorem execGetSensor_keeps (r : EasReq) (at_ : Nat) (s : State) (h : s.Good cq) :
    Keeps (execGetSensor r at_ s) cq := by
  unfold execGetSensor
  repeat' (first
    | with_reducible apply Keeps.next
    | exact Keeps.refused _
    | with_reducible apply Keeps.ite
    | with_reducible assumption
    | with_reducible apply State.easCommand_good)

theorem execGetErrc_keeps (r : EasReq) (at_ : Nat) (s : State) (h : s.Good cq) :
    Keeps (execGetErrc r at_ s) cq := by
  unfold execGetErrc
  repeat' (first
    | with_reducible apply Keeps.next
    | exact Keeps.refused _
    | with_reducible apply Keeps.ite
    | with_reducible assumption
    | with_reducible apply State.easCommand_good)

theorem execReadLog_keeps (r : EasReq) (at_ : Nat) (s : State) (h : s.Good cq) :
    Keeps (execReadLog r at_ s) cq := by
  unfold execReadLog
  repeat' (first
    | with_reducible apply Keeps.next
    | exact Keeps.refused _
    | with_reducible apply Keeps.ite
    | with_reducible assumption
    | with_reducible apply State.easCommand_good)

theorem execSetNext_keeps (r : EasReq) (at_ : Nat) (s : State) (h : s.Good cq) :
    Keeps (execSetNext r at_ s) cq := by
  unfold execSetNext
  repeat' (first
    | with_reducible apply Keeps.next
    | exact Keeps.refused _
    | with_reducible apply Keeps.ite
    | with_reducible assumption
    | with_reducible apply State.easCommand_good)

theorem execStageProfile_keeps (r : EasReq) (at_ : Nat) (s : State) (h : s.Good cq) :
    Keeps (execStageProfile r at_ s) cq := by
  unfold execStageProfile
  repeat' (first
    | with_reducible apply Keeps.next
    | exact Keeps.refused _
    | with_reducible apply Keeps.ite
    | with_reducible assumption
    | with_reducible apply State.easCommand_good)

theorem execCommitProfile_keeps (r : EasReq) (at_ : Nat) (s : State) (h : s.Good cq) :
    Keeps (execCommitProfile r at_ s) cq := by
  unfold execCommitProfile
  repeat' (first
    | with_reducible apply Keeps.next
    | exact Keeps.refused _
    | with_reducible apply Keeps.ite
    | with_reducible assumption
    | with_reducible apply State.easCommand_good)

theorem execReadProfile_keeps (r : EasReq) (at_ : Nat) (s : State) (h : s.Good cq) :
    Keeps (execReadProfile r at_ s) cq := by
  unfold execReadProfile
  repeat' (first
    | with_reducible apply Keeps.next
    | exact Keeps.refused _
    | with_reducible apply Keeps.ite
    | with_reducible assumption
    | with_reducible apply State.easCommand_good)

theorem execSetLock_keeps (r : EasReq) (at_ : Nat) (s : State) (h : s.Good cq) :
    Keeps (execSetLock r at_ s) cq := by
  unfold execSetLock
  repeat' (first
    | with_reducible apply Keeps.next
    | exact Keeps.refused _
    | with_reducible apply Keeps.ite
    | with_reducible assumption
    | with_reducible apply State.easCommand_good)

theorem execModuleReset_keeps (r : EasReq) (at_ : Nat) (s : State) (h : s.Good cq) :
    Keeps (execModuleReset r at_ s) cq := by
  unfold execModuleReset
  repeat' (first
    | with_reducible apply Keeps.next
    | exact Keeps.refused _
    | with_reducible apply Keeps.ite
    | with_reducible assumption
    | with_reducible apply State.easCommand_good)

theorem execStageFw_keeps (r : EasReq) (at_ : Nat) (s : State) (h : s.Good cq) :
    Keeps (execStageFw r at_ s) cq := by
  unfold execStageFw
  repeat' (first
    | with_reducible apply Keeps.next
    | exact Keeps.refused _
    | with_reducible apply Keeps.ite
    | with_reducible assumption
    | with_reducible apply State.easCommand_good)

theorem execCommitFw_keeps (r : EasReq) (at_ : Nat) (s : State) (h : s.Good cq) :
    Keeps (execCommitFw r at_ s) cq := by
  unfold execCommitFw
  repeat' (first
    | with_reducible apply Keeps.next
    | exact Keeps.refused _
    | with_reducible apply Keeps.ite
    | with_reducible assumption
    | with_reducible apply State.easCommand_good)

theorem execAdvanceSvn_keeps (r : EasReq) (at_ : Nat) (s : State) (h : s.Good cq) :
    Keeps (execAdvanceSvn r at_ s) cq := by
  unfold execAdvanceSvn
  repeat' (first
    | with_reducible apply Keeps.next
    | exact Keeps.refused _
    | with_reducible apply Keeps.ite
    | with_reducible assumption
    | with_reducible apply State.easCommand_good)

theorem execSetdasa_keeps (a : BitVec 7) (at_ : Nat) (s : State) (h : s.Good cq) :
    Keeps (execSetdasa a at_ s) cq := by
  unfold execSetdasa
  repeat' (first
    | with_reducible apply Keeps.next
    | with_reducible assumption
    | with_reducible apply State.assignAddress_good)

theorem execEntdaa_keeps (a : BitVec 7) (at_ : Nat) (s : State) (h : s.Good cq) :
    Keeps (execEntdaa a at_ s) cq := by
  unfold execEntdaa
  repeat' (first
    | with_reducible apply Keeps.next
    | with_reducible assumption
    | with_reducible apply State.assignAddress_good)

theorem execTransactionTimeout_keeps (at_ : Nat) (s : State) (h : s.Good cq) :
    Keeps (execTransactionTimeout at_ s) cq := by
  unfold execTransactionTimeout
  repeat' (first
    | with_reducible apply Keeps.next
    | with_reducible assumption
    | with_reducible apply State.busTimeout_good)

theorem execMailboxTimeout_keeps (s : State) (h : s.Good cq) :
    Keeps (execMailboxTimeout s) cq := by
  unfold execMailboxTimeout
  repeat' (first
    | with_reducible apply Keeps.next
    | with_reducible assumption
    | with_reducible apply State.mailTimeout_good)

theorem execConsoleLine_keeps (line : List Byte) (at_ : Nat) (s : State) (h : s.Good cq) :
    Keeps (execConsoleLine line at_ s) cq := by
  unfold execConsoleLine
  repeat' (first
    | with_reducible apply Keeps.next
    | with_reducible assumption
    | with_reducible apply State.consoleLine_good)

theorem execWatchdogExpiry_keeps (at_ : Nat) (s : State) (h : s.Good cq) :
    Keeps (execWatchdogExpiry at_ s) cq := by
  unfold execWatchdogExpiry
  repeat' (first
    | with_reducible apply Keeps.next
    | with_reducible assumption
    | with_reducible apply State.watchdog_good)

theorem execModLockWrite_keeps (v : BitVec 6) (s : State) (h : s.Good cq) :
    Keeps (execModLockWrite v s) cq := by
  unfold execModLockWrite
  repeat' (first
    | with_reducible apply Keeps.next
    | with_reducible assumption
    | refine fun _ => ?_
    | with_reducible apply State.byHost_good
    | with_reducible apply State.setLocks_good)

theorem execModCmdReset_keeps (key : BitVec 8) (at_ : Nat) (s : State) (h : s.Good cq) :
    Keeps (execModCmdReset key at_ s) cq := by
  unfold execModCmdReset
  repeat' (first
    | with_reducible apply Keeps.next
    | with_reducible assumption
    | with_reducible apply State.resetCmd_good)

theorem execLinkUp_keeps (speed : Fin 7) (width : Fin 17) (flit bme : Bool) (vfs : Fin 65) (s : State) (h : s.Good cq) :
    Keeps (execLinkUp speed width flit bme vfs s) cq := by
  unfold execLinkUp
  repeat' (first
    | with_reducible apply Keeps.next
    | with_reducible assumption
    | with_reducible apply State.linkUp_good)

theorem State.tapLoad_keeps (s : State) (i : TapInstr) (h : s.Good cq) : Keeps (s.tapLoad i) cq := by
  unfold State.tapLoad
  repeat' (first
    | with_reducible apply Keeps.next
    | exact Keeps.refused _
    | with_reducible apply State.tapShow_good
    | with_reducible assumption
    | split)

theorem execTapInstruction_keeps (i : TapInstr) (s : State) (h : s.Good cq) :
    Keeps (execTapInstruction i s) cq := State.tapLoad_keeps s i h

theorem execVauxGood_keeps (at_ : Nat) (s : State) (h : s.Good cq) :
    Keeps (execVauxGood at_ s) cq := by
  unfold execVauxGood
  repeat' (first
    | with_reducible apply Keeps.next
    | with_reducible assumption
    | with_reducible apply State.inputGood_good)

theorem execVauxLost_keeps (at_ : Nat) (s : State) (h : s.Good cq) :
    Keeps (execVauxLost at_ s) cq := by
  unfold execVauxLost
  repeat' (first
    | with_reducible apply Keeps.next
    | with_reducible assumption
    | with_reducible apply State.inputLost_good)

theorem execVmainGood_keeps (at_ : Nat) (s : State) (h : s.Good cq) :
    Keeps (execVmainGood at_ s) cq := by
  unfold execVmainGood
  repeat' (first
    | with_reducible apply Keeps.next
    | with_reducible assumption
    | with_reducible apply State.inputGood_good)

theorem execVmainLost_keeps (at_ : Nat) (s : State) (h : s.Good cq) :
    Keeps (execVmainLost at_ s) cq := by
  unfold execVmainLost
  repeat' (first
    | with_reducible apply Keeps.next
    | with_reducible assumption
    | with_reducible apply State.inputLost_good)

theorem execRailFailure_keeps (g : RailGroup) (at_ : Nat) (s : State) (h : s.Good cq) :
    Keeps (execRailFailure g at_ s) cq := by
  unfold execRailFailure
  repeat' (first
    | with_reducible apply Keeps.next
    | with_reducible assumption
    | with_reducible apply State.railFailure_good)

theorem execRailFailurePowerDown_keeps (at_ : Nat) (s : State) (h : s.Good cq) :
    Keeps (execRailFailurePowerDown at_ s) cq := by
  unfold execRailFailurePowerDown
  repeat' (first
    | with_reducible apply Keeps.next
    | with_reducible assumption
    | with_reducible apply State.railFailed_good)

theorem execRailGroupGood_keeps (g : RailGroup) (at_ : Nat) (s : State) (h : s.Good cq) :
    Keeps (execRailGroupGood g at_ s) cq := by
  unfold execRailGroupGood
  repeat' (first
    | with_reducible apply Keeps.next
    | with_reducible assumption
    | with_reducible apply State.railGroupGood_good)

theorem execRailGroupTimeout_keeps (g : RailGroup) (at_ : Nat) (s : State) (h : s.Good cq) :
    Keeps (execRailGroupTimeout g at_ s) cq := by
  unfold execRailGroupTimeout
  repeat' (first
    | with_reducible apply Keeps.next
    | with_reducible assumption
    | with_reducible apply State.railGroupTimeout_good)

theorem execDroopTrip_keeps (d : Fin 4) (mv at_ : Nat) (s : State) (h : s.Good cq) :
    Keeps (execDroopTrip d mv at_ s) cq := by
  unfold execDroopTrip
  repeat' (first
    | with_reducible apply Keeps.next
    | with_reducible assumption
    | with_reducible apply State.droop_good)

theorem execStretchRelease_keeps (d : Fin 4) (at_ : Nat) (s : State) (h : s.Good cq) :
    Keeps (execStretchRelease d at_ s) cq := by
  unfold execStretchRelease
  repeat' (first
    | with_reducible apply Keeps.next
    | with_reducible assumption
    | with_reducible apply State.stretchRelease_good)

theorem execThermalSample_keeps (site : ThermalSite) (at_ : Nat) (s : State) (h : s.Good cq) :
    Keeps (execThermalSample site at_ s) cq := by
  unfold execThermalSample
  repeat' (first
    | with_reducible apply Keeps.next
    | with_reducible assumption
    | with_reducible apply State.sampleAt_good)

theorem execThermalTrip_keeps (sensor : Fin 139) (at_ : Nat) (s : State) (h : s.Good cq) :
    Keeps (execThermalTrip sensor at_ s) cq := by
  unfold execThermalTrip
  repeat' (first
    | with_reducible apply Keeps.next
    | with_reducible assumption
    | with_reducible apply State.thermalTrip_good)

theorem execPowerSample_keeps (l : Samples) (vaux at_ : Nat) (s : State) (h : s.Good cq) :
    Keeps (execPowerSample l vaux at_ s) cq := by
  unfold execPowerSample
  repeat' (first
    | with_reducible apply Keeps.next
    | with_reducible assumption
    | with_reducible apply State.powerSample_good)

theorem execPwrLimitWrite_keeps (v : BitVec 12) (s : State) (h : s.Good cq) :
    Keeps (execPwrLimitWrite v s) cq := by
  unfold execPwrLimitWrite
  repeat' (first
    | with_reducible apply Keeps.next
    | with_reducible assumption
    | refine fun _ => ?_
    | with_reducible apply State.byHost_good
    | with_reducible apply State.limitWritePwr_good)

theorem execPwrDroopWrite_keeps (d : Fin 4) (v : Word) (s : State) (h : s.Good cq) :
    Keeps (execPwrDroopWrite d v s) cq := by
  unfold execPwrDroopWrite
  repeat' (first
    | with_reducible apply Keeps.next
    | with_reducible assumption
    | refine fun _ => ?_
    | with_reducible apply State.byHost_good
    | with_reducible apply State.droopWrite_good)

theorem execModResetN_keeps (low : Bool) (ns at_ : Nat) (s : State) (h : s.Good cq) :
    Keeps (execModResetN low ns at_ s) cq := by
  unfold execModResetN
  repeat' (first
    | with_reducible apply Keeps.next
    | with_reducible assumption
    | with_reducible apply State.resetPin_good)

theorem execStageEasel_keeps (master profile mgmt : StrapSamples) (at_ : Nat) (s : State) (h : s.Good cq) :
    Keeps (execStageEasel master profile mgmt at_ s) cq := by
  unfold execStageEasel
  repeat' (first
    | with_reducible apply Keeps.next
    | with_reducible assumption
    | with_reducible apply State.stageEasel_good)

theorem execStageRails_keeps (at_ : Nat) (s : State) (h : s.Good cq) :
    Keeps (execStageRails at_ s) cq := by
  unfold execStageRails
  repeat' (first
    | with_reducible apply Keeps.next
    | with_reducible assumption
    | with_reducible apply State.stageRails_good)

theorem execStageBridgesAndHbm_keeps (failed : Bundles) (trained : BitVec 24) (at_ : Nat) (s : State) (h : s.Good cq) :
    Keeps (execStageBridgesAndHbm failed trained at_ s) cq := by
  unfold execStageBridgesAndHbm
  repeat' (first
    | with_reducible apply Keeps.next
    | with_reducible assumption
    | with_reducible apply State.stageHbm_good)

theorem execStageQuickScan_keeps (fails : List PhysTile) (at_ : Nat) (s : State) (h : s.Good cq) :
    Keeps (execStageQuickScan fails at_ s) cq := by
  unfold execStageQuickScan
  repeat' (first
    | with_reducible apply Keeps.next
    | with_reducible assumption
    | with_reducible apply State.stageScan_good)

theorem execStageLinks_keeps (at_ : Nat) (s : State) (h : s.Good cq) :
    Keeps (execStageLinks at_ s) cq := by
  unfold execStageLinks
  repeat' (first
    | with_reducible apply Keeps.next
    | with_reducible assumption
    | with_reducible apply State.stageLinks_good)

theorem execStageEnumeration_keeps (at_ : Nat) (s : State) (h : s.Good cq) :
    Keeps (execStageEnumeration at_ s) cq := by
  unfold execStageEnumeration
  repeat' (first
    | with_reducible apply Keeps.next
    | with_reducible assumption
    | with_reducible apply State.stageEnum_good)

theorem execLaserInputLit_keeps (f k : Fin 2) (pwr : BitVec 16) (at_ : Nat) (s : State) (h : s.Good cq) :
    Keeps (execLaserInputLit f k pwr at_ s) cq := by
  unfold execLaserInputLit
  repeat' (first
    | with_reducible apply Keeps.next
    | with_reducible assumption
    | with_reducible apply State.laserLitUp_good)

theorem execExchangePhaseEnd_keeps (t : TileId) (at_ : Nat) (s : State) (h : s.Good cq) :
    Keeps (execExchangePhaseEnd t at_ s) cq := by
  unfold execExchangePhaseEnd
  repeat' (first
    | with_reducible apply Keeps.next
    | with_reducible assumption
    | refine fun _ => ?_
    | with_reducible apply State.phaseEnd_good
    | with_reducible apply State.withTile_good)

theorem execClockRampComplete_keeps (d : Fin 4) (at_ : Nat) (s : State) (h : s.Good cq) :
    Keeps (execClockRampComplete d at_ s) cq := by
  unfold execClockRampComplete
  repeat' (first
    | with_reducible apply Keeps.next
    | with_reducible assumption
    | with_reducible apply State.rampDone_good)

end Sys2Proof.Machine
end

