-- ==== Sys2Proof/Laws/State.lean ====
section
/-! SUPPORT. What the field updates of a state leave alone, and what a register field, a register, a tile or a byte of
memory reads after a write. -/

namespace Sys2Proof.Machine

@[simp] theorem State.put_vf (s : State) (f : RF) (v : Nat) : (s.put f v).vf = s.vf := rfl
@[simp] theorem State.put_tiles (s : State) (f : RF) (v : Nat) : (s.put f v).tiles = s.tiles := rfl
@[simp] theorem State.put_now (s : State) (f : RF) (v : Nat) : (s.put f v).now = s.now := rfl
@[simp] theorem State.put_free (s : State) (f : RF) (v : Nat) : (s.put f v).free = s.free := rfl
@[simp] theorem State.put_errcPending (s : State) (f : RF) (v : Nat) : (s.put f v).errcPending = s.errcPending := rfl
@[simp] theorem State.put_tick (s : State) (f : RF) (v : Nat) : (s.put f v).tick = s.tick := rfl
@[simp] theorem State.put_fab (s : State) (f : RF) (v : Nat) : (s.put f v).fab = s.fab := rfl
@[simp] theorem State.put_hbm (s : State) (f : RF) (v : Nat) : (s.put f v).hbm = s.hbm := rfl
@[simp] theorem State.put_syn (s : State) (f : RF) (v : Nat) : (s.put f v).syn = s.syn := rfl
@[simp] theorem State.put_train (s : State) (f : RF) (v : Nat) : (s.put f v).train = s.train := rfl
@[simp] theorem State.put_rep (s : State) (f : RF) (v : Nat) : (s.put f v).rep = s.rep := rfl
@[simp] theorem State.put_host (s : State) (f : RF) (v : Nat) : (s.put f v).host = s.host := rfl
@[simp] theorem State.put_bld (s : State) (f : RF) (v : Nat) : (s.put f v).bld = s.bld := rfl
@[simp] theorem State.put_vrn (s : State) (f : RF) (v : Nat) : (s.put f v).vrn = s.vrn := rfl
@[simp] theorem State.put_rcv (s : State) (f : RF) (v : Nat) : (s.put f v).rcv = s.rcv := rfl
@[simp] theorem State.put_ldr (s : State) (f : RF) (v : Nat) : (s.put f v).ldr = s.ldr := rfl
@[simp] theorem State.put_eas (s : State) (f : RF) (v : Nat) : (s.put f v).eas = s.eas := rfl
@[simp] theorem State.put_pwr (s : State) (f : RF) (v : Nat) : (s.put f v).pwr = s.pwr := rfl
@[simp] theorem State.put_pending (s : State) (f : RF) (v : Nat) : (s.put f v).pending = s.pending := rfl

@[simp] theorem State.setWord_vf (s : State) (a : Nat) (v : Word) : (s.setWord a v).vf = s.vf := rfl
@[simp] theorem State.setWord_tiles (s : State) (a : Nat) (v : Word) : (s.setWord a v).tiles = s.tiles := rfl
@[simp] theorem State.setWord_now (s : State) (a : Nat) (v : Word) : (s.setWord a v).now = s.now := rfl
@[simp] theorem State.setWord_free (s : State) (a : Nat) (v : Word) : (s.setWord a v).free = s.free := rfl
@[simp] theorem State.setWord_errcPending (s : State) (a : Nat) (v : Word) : (s.setWord a v).errcPending = s.errcPending := rfl
@[simp] theorem State.setWord_tick (s : State) (a : Nat) (v : Word) : (s.setWord a v).tick = s.tick := rfl
@[simp] theorem State.setWord_fab (s : State) (a : Nat) (v : Word) : (s.setWord a v).fab = s.fab := rfl
@[simp] theorem State.setWord_hbm (s : State) (a : Nat) (v : Word) : (s.setWord a v).hbm = s.hbm := rfl
@[simp] theorem State.setWord_syn (s : State) (a : Nat) (v : Word) : (s.setWord a v).syn = s.syn := rfl
@[simp] theorem State.setWord_train (s : State) (a : Nat) (v : Word) : (s.setWord a v).train = s.train := rfl
@[simp] theorem State.setWord_rep (s : State) (a : Nat) (v : Word) : (s.setWord a v).rep = s.rep := rfl
@[simp] theorem State.setWord_host (s : State) (a : Nat) (v : Word) : (s.setWord a v).host = s.host := rfl
@[simp] theorem State.setWord_bld (s : State) (a : Nat) (v : Word) : (s.setWord a v).bld = s.bld := rfl
@[simp] theorem State.setWord_vrn (s : State) (a : Nat) (v : Word) : (s.setWord a v).vrn = s.vrn := rfl
@[simp] theorem State.setWord_rcv (s : State) (a : Nat) (v : Word) : (s.setWord a v).rcv = s.rcv := rfl
@[simp] theorem State.setWord_ldr (s : State) (a : Nat) (v : Word) : (s.setWord a v).ldr = s.ldr := rfl
@[simp] theorem State.setWord_eas (s : State) (a : Nat) (v : Word) : (s.setWord a v).eas = s.eas := rfl
@[simp] theorem State.setWord_pwr (s : State) (a : Nat) (v : Word) : (s.setWord a v).pwr = s.pwr := rfl
@[simp] theorem State.setWord_pending (s : State) (a : Nat) (v : Word) : (s.setWord a v).pending = s.pending := rfl

@[simp] theorem State.setTile_regs (s : State) (p : Nat) (t : Tile) : (s.setTile p t).regs = s.regs := rfl
@[simp] theorem State.setTile_vf (s : State) (p : Nat) (t : Tile) : (s.setTile p t).vf = s.vf := rfl
@[simp] theorem State.setTile_now (s : State) (p : Nat) (t : Tile) : (s.setTile p t).now = s.now := rfl
@[simp] theorem State.setTile_free (s : State) (p : Nat) (t : Tile) : (s.setTile p t).free = s.free := rfl
@[simp] theorem State.setTile_errcPending (s : State) (p : Nat) (t : Tile) : (s.setTile p t).errcPending = s.errcPending := rfl
@[simp] theorem State.setTile_tick (s : State) (p : Nat) (t : Tile) : (s.setTile p t).tick = s.tick := rfl
@[simp] theorem State.setTile_fab (s : State) (p : Nat) (t : Tile) : (s.setTile p t).fab = s.fab := rfl
@[simp] theorem State.setTile_hbm (s : State) (p : Nat) (t : Tile) : (s.setTile p t).hbm = s.hbm := rfl
@[simp] theorem State.setTile_syn (s : State) (p : Nat) (t : Tile) : (s.setTile p t).syn = s.syn := rfl
@[simp] theorem State.setTile_train (s : State) (p : Nat) (t : Tile) : (s.setTile p t).train = s.train := rfl
@[simp] theorem State.setTile_rep (s : State) (p : Nat) (t : Tile) : (s.setTile p t).rep = s.rep := rfl
@[simp] theorem State.setTile_host (s : State) (p : Nat) (t : Tile) : (s.setTile p t).host = s.host := rfl
@[simp] theorem State.setTile_bld (s : State) (p : Nat) (t : Tile) : (s.setTile p t).bld = s.bld := rfl
@[simp] theorem State.setTile_vrn (s : State) (p : Nat) (t : Tile) : (s.setTile p t).vrn = s.vrn := rfl
@[simp] theorem State.setTile_rcv (s : State) (p : Nat) (t : Tile) : (s.setTile p t).rcv = s.rcv := rfl
@[simp] theorem State.setTile_ldr (s : State) (p : Nat) (t : Tile) : (s.setTile p t).ldr = s.ldr := rfl
@[simp] theorem State.setTile_eas (s : State) (p : Nat) (t : Tile) : (s.setTile p t).eas = s.eas := rfl
@[simp] theorem State.setTile_pwr (s : State) (p : Nat) (t : Tile) : (s.setTile p t).pwr = s.pwr := rfl
@[simp] theorem State.setTile_pending (s : State) (p : Nat) (t : Tile) : (s.setTile p t).pending = s.pending := rfl

@[simp] theorem State.mapTick_regs (s : State) (g : TickSt → TickSt) : (s.mapTick g).regs = s.regs := rfl
@[simp] theorem State.mapTick_vf (s : State) (g : TickSt → TickSt) : (s.mapTick g).vf = s.vf := rfl
@[simp] theorem State.mapTick_tiles (s : State) (g : TickSt → TickSt) : (s.mapTick g).tiles = s.tiles := rfl
@[simp] theorem State.mapTick_now (s : State) (g : TickSt → TickSt) : (s.mapTick g).now = s.now := rfl
@[simp] theorem State.mapTick_free (s : State) (g : TickSt → TickSt) : (s.mapTick g).free = s.free := rfl
@[simp] theorem State.mapTick_errcPending (s : State) (g : TickSt → TickSt) : (s.mapTick g).errcPending = s.errcPending := rfl
@[simp] theorem State.mapTick_fab (s : State) (g : TickSt → TickSt) : (s.mapTick g).fab = s.fab := rfl
@[simp] theorem State.mapTick_hbm (s : State) (g : TickSt → TickSt) : (s.mapTick g).hbm = s.hbm := rfl
@[simp] theorem State.mapTick_syn (s : State) (g : TickSt → TickSt) : (s.mapTick g).syn = s.syn := rfl
@[simp] theorem State.mapTick_train (s : State) (g : TickSt → TickSt) : (s.mapTick g).train = s.train := rfl
@[simp] theorem State.mapTick_rep (s : State) (g : TickSt → TickSt) : (s.mapTick g).rep = s.rep := rfl
@[simp] theorem State.mapTick_host (s : State) (g : TickSt → TickSt) : (s.mapTick g).host = s.host := rfl
@[simp] theorem State.mapTick_bld (s : State) (g : TickSt → TickSt) : (s.mapTick g).bld = s.bld := rfl
@[simp] theorem State.mapTick_vrn (s : State) (g : TickSt → TickSt) : (s.mapTick g).vrn = s.vrn := rfl
@[simp] theorem State.mapTick_rcv (s : State) (g : TickSt → TickSt) : (s.mapTick g).rcv = s.rcv := rfl
@[simp] theorem State.mapTick_ldr (s : State) (g : TickSt → TickSt) : (s.mapTick g).ldr = s.ldr := rfl
@[simp] theorem State.mapTick_eas (s : State) (g : TickSt → TickSt) : (s.mapTick g).eas = s.eas := rfl
@[simp] theorem State.mapTick_pwr (s : State) (g : TickSt → TickSt) : (s.mapTick g).pwr = s.pwr := rfl
@[simp] theorem State.mapTick_pending (s : State) (g : TickSt → TickSt) : (s.mapTick g).pending = s.pending := rfl

@[simp] theorem State.clearHolds_vf (s : State) : (s.clearHolds).vf = s.vf := rfl
@[simp] theorem State.clearHolds_tiles (s : State) : (s.clearHolds).tiles = s.tiles := rfl
@[simp] theorem State.clearHolds_now (s : State) : (s.clearHolds).now = s.now := rfl
@[simp] theorem State.clearHolds_free (s : State) : (s.clearHolds).free = s.free := rfl
@[simp] theorem State.clearHolds_errcPending (s : State) : (s.clearHolds).errcPending = s.errcPending := rfl
@[simp] theorem State.clearHolds_tick (s : State) : (s.clearHolds).tick = s.tick := rfl
@[simp] theorem State.clearHolds_fab (s : State) : (s.clearHolds).fab = s.fab := rfl
@[simp] theorem State.clearHolds_hbm (s : State) : (s.clearHolds).hbm = s.hbm := rfl
@[simp] theorem State.clearHolds_syn (s : State) : (s.clearHolds).syn = s.syn := rfl
@[simp] theorem State.clearHolds_train (s : State) : (s.clearHolds).train = s.train := rfl
@[simp] theorem State.clearHolds_rep (s : State) : (s.clearHolds).rep = s.rep := rfl
@[simp] theorem State.clearHolds_host (s : State) : (s.clearHolds).host = s.host := rfl
@[simp] theorem State.clearHolds_bld (s : State) : (s.clearHolds).bld = s.bld := rfl
@[simp] theorem State.clearHolds_vrn (s : State) : (s.clearHolds).vrn = s.vrn := rfl
@[simp] theorem State.clearHolds_rcv (s : State) : (s.clearHolds).rcv = s.rcv := rfl
@[simp] theorem State.clearHolds_ldr (s : State) : (s.clearHolds).ldr = s.ldr := rfl
@[simp] theorem State.clearHolds_eas (s : State) : (s.clearHolds).eas = s.eas := rfl
@[simp] theorem State.clearHolds_pwr (s : State) : (s.clearHolds).pwr = s.pwr := rfl
@[simp] theorem State.clearHolds_pending (s : State) : (s.clearHolds).pending = s.pending := rfl

@[simp] theorem State.clearRegs_vf (s : State) (lo hi : Nat) : (s.clearRegs lo hi).vf = s.vf := rfl
@[simp] theorem State.clearRegs_tiles (s : State) (lo hi : Nat) : (s.clearRegs lo hi).tiles = s.tiles := rfl
@[simp] theorem State.clearRegs_now (s : State) (lo hi : Nat) : (s.clearRegs lo hi).now = s.now := rfl
@[simp] theorem State.clearRegs_free (s : State) (lo hi : Nat) : (s.clearRegs lo hi).free = s.free := rfl
@[simp] theorem State.clearRegs_errcPending (s : State) (lo hi : Nat) : (s.clearRegs lo hi).errcPending = s.errcPending := rfl
@[simp] theorem State.clearRegs_tick (s : State) (lo hi : Nat) : (s.clearRegs lo hi).tick = s.tick := rfl
@[simp] theorem State.clearRegs_fab (s : State) (lo hi : Nat) : (s.clearRegs lo hi).fab = s.fab := rfl
@[simp] theorem State.clearRegs_hbm (s : State) (lo hi : Nat) : (s.clearRegs lo hi).hbm = s.hbm := rfl
@[simp] theorem State.clearRegs_syn (s : State) (lo hi : Nat) : (s.clearRegs lo hi).syn = s.syn := rfl
@[simp] theorem State.clearRegs_train (s : State) (lo hi : Nat) : (s.clearRegs lo hi).train = s.train := rfl
@[simp] theorem State.clearRegs_rep (s : State) (lo hi : Nat) : (s.clearRegs lo hi).rep = s.rep := rfl
@[simp] theorem State.clearRegs_host (s : State) (lo hi : Nat) : (s.clearRegs lo hi).host = s.host := rfl
@[simp] theorem State.clearRegs_bld (s : State) (lo hi : Nat) : (s.clearRegs lo hi).bld = s.bld := rfl
@[simp] theorem State.clearRegs_vrn (s : State) (lo hi : Nat) : (s.clearRegs lo hi).vrn = s.vrn := rfl
@[simp] theorem State.clearRegs_rcv (s : State) (lo hi : Nat) : (s.clearRegs lo hi).rcv = s.rcv := rfl
@[simp] theorem State.clearRegs_ldr (s : State) (lo hi : Nat) : (s.clearRegs lo hi).ldr = s.ldr := rfl
@[simp] theorem State.clearRegs_eas (s : State) (lo hi : Nat) : (s.clearRegs lo hi).eas = s.eas := rfl
@[simp] theorem State.clearRegs_pwr (s : State) (lo hi : Nat) : (s.clearRegs lo hi).pwr = s.pwr := rfl
@[simp] theorem State.clearRegs_pending (s : State) (lo hi : Nat) : (s.clearRegs lo hi).pending = s.pending := rfl

@[simp] theorem State.pending_regs (s : State) (q : List Instr) : ({ s with pending := q } : State).regs = s.regs := rfl
@[simp] theorem State.pending_vf (s : State) (q : List Instr) : ({ s with pending := q } : State).vf = s.vf := rfl
@[simp] theorem State.pending_tiles (s : State) (q : List Instr) : ({ s with pending := q } : State).tiles = s.tiles := rfl
@[simp] theorem State.pending_now (s : State) (q : List Instr) : ({ s with pending := q } : State).now = s.now := rfl
@[simp] theorem State.pending_free (s : State) (q : List Instr) : ({ s with pending := q } : State).free = s.free := rfl
@[simp] theorem State.pending_errcPending (s : State) (q : List Instr) : ({ s with pending := q } : State).errcPending = s.errcPending := rfl
@[simp] theorem State.pending_tick (s : State) (q : List Instr) : ({ s with pending := q } : State).tick = s.tick := rfl
@[simp] theorem State.pending_fab (s : State) (q : List Instr) : ({ s with pending := q } : State).fab = s.fab := rfl
@[simp] theorem State.pending_hbm (s : State) (q : List Instr) : ({ s with pending := q } : State).hbm = s.hbm := rfl
@[simp] theorem State.pending_syn (s : State) (q : List Instr) : ({ s with pending := q } : State).syn = s.syn := rfl
@[simp] theorem State.pending_train (s : State) (q : List Instr) : ({ s with pending := q } : State).train = s.train := rfl
@[simp] theorem State.pending_rep (s : State) (q : List Instr) : ({ s with pending := q } : State).rep = s.rep := rfl
@[simp] theorem State.pending_host (s : State) (q : List Instr) : ({ s with pending := q } : State).host = s.host := rfl
@[simp] theorem State.pending_bld (s : State) (q : List Instr) : ({ s with pending := q } : State).bld = s.bld := rfl
@[simp] theorem State.pending_vrn (s : State) (q : List Instr) : ({ s with pending := q } : State).vrn = s.vrn := rfl
@[simp] theorem State.pending_rcv (s : State) (q : List Instr) : ({ s with pending := q } : State).rcv = s.rcv := rfl
@[simp] theorem State.pending_ldr (s : State) (q : List Instr) : ({ s with pending := q } : State).ldr = s.ldr := rfl
@[simp] theorem State.pending_eas (s : State) (q : List Instr) : ({ s with pending := q } : State).eas = s.eas := rfl
@[simp] theorem State.pending_pwr (s : State) (q : List Instr) : ({ s with pending := q } : State).pwr = s.pwr := rfl
@[simp] theorem State.pending_pending (s : State) (q : List Instr) : ({ s with pending := q } : State).pending = q := rfl

/-! Fields of a word. -/

theorem Word.field_lt (x : Word) (lo w : Nat) : x.field lo w < 2 ^ w := by
  unfold Word.field
  exact (x.extractLsb' lo w).isLt

theorem Word.field_testBit (x : Word) (lo w i : Nat) (h : i < w) : (x.field lo w).testBit i = x.getLsbD (lo + i) := by
  unfold Word.field
  rw [← BitVec.getLsbD, BitVec.getLsbD_extractLsb']
  simp [h]

theorem Word.setField_getLsbD (x : Word) (lo w v i : Nat) (hi : i < 64) :
    (x.setField lo w v).getLsbD i = if lo ≤ i ∧ i < lo + w then v.testBit (i - lo) else x.getLsbD i := by
  unfold Word.setField
  simp only [BitVec.getLsbD_or, BitVec.getLsbD_and, BitVec.getLsbD_not, BitVec.getLsbD_shiftLeft, BitVec.getLsbD_setWidth,
    BitVec.getLsbD_allOnes, BitVec.getLsbD_ofNat]
  by_cases h1 : lo ≤ i
  · by_cases h2 : i < lo + w
    · have a1 : ¬ i < lo := by omega
      have a2 : i - lo < 64 := by omega
      have a3 : i - lo < w := by omega
      simp [hi, h1, h2, a1, a2, a3]
    · have a1 : ¬ i < lo := by omega
      have a2 : ¬ i - lo < w := by omega
      simp [hi, h1, h2, a1, a2]
  · have a1 : i < lo := by omega
    simp [hi, h1, a1]

/-- A field read back. -/
theorem Word.field_setField_same (x : Word) (lo w v : Nat) (h : lo + w ≤ 64) : (x.setField lo w v).field lo w = v % 2 ^ w := by
  apply Nat.eq_of_testBit_eq
  intro i
  by_cases hi : i < w
  · rw [Word.field_testBit _ _ _ _ hi, Word.setField_getLsbD _ _ _ _ _ (by omega), Nat.testBit_mod_two_pow]
    have : lo + i < lo + w := by omega
    simp [this, hi]
  · rw [Nat.testBit_lt_two_pow (Nat.lt_of_lt_of_le (Word.field_lt _ _ _) (Nat.pow_le_pow_right (by omega) (by omega))),
      Nat.testBit_mod_two_pow]
    simp [hi]

/-- Another field of the same word. -/
theorem Word.field_setField_other (x : Word) (lo w v lo' w' : Nat) (h : lo' + w' ≤ 64) (hd : lo' + w' ≤ lo ∨ lo + w ≤ lo') :
    (x.setField lo w v).field lo' w' = x.field lo' w' := by
  apply Nat.eq_of_testBit_eq
  intro i
  by_cases hi : i < w'
  · rw [Word.field_testBit _ _ _ _ hi, Word.field_testBit _ _ _ _ hi, Word.setField_getLsbD _ _ _ _ _ (by omega)]
    have : ¬ (lo ≤ lo' + i ∧ lo' + i < lo + w) := by omega
    simp [this]
  · rw [Nat.testBit_lt_two_pow (Nat.lt_of_lt_of_le (Word.field_lt _ _ _) (Nat.pow_le_pow_right (by omega) (by omega))),
      Nat.testBit_lt_two_pow (Nat.lt_of_lt_of_le (Word.field_lt _ _ _) (Nat.pow_le_pow_right (by omega) (by omega)))]

/-! Registers. -/

theorem rget_rput_same (d : Nat → Word) (m : SMap Word) (f : RF) (v : Nat) (hm : SMap.sorted m = true)
    (h : f.lo + f.w ≤ 64) : rget d (rput d m f v) f = v % 2 ^ f.w := by
  unfold rget rput rset rreg
  rw [SMap.getD_put_same m f.addr _ _ hm, Word.field_setField_same _ _ _ _ h]

theorem rget_rput_other (d : Nat → Word) (m : SMap Word) (f g : RF) (v : Nat) (h : g.addr ≠ f.addr) :
    rget d (rput d m f v) g = rget d m g := by
  unfold rget rput rset rreg
  rw [SMap.getD_put_other m f.addr g.addr _ _ _ h]

theorem rget_rput_beside (d : Nat → Word) (m : SMap Word) (f g : RF) (v : Nat) (hm : SMap.sorted m = true)
    (ha : g.addr = f.addr) (h : g.lo + g.w ≤ 64) (hd : g.lo + g.w ≤ f.lo ∨ f.lo + f.w ≤ g.lo) :
    rget d (rput d m f v) g = rget d m g := by
  unfold rget rput rset rreg
  rw [ha, SMap.getD_put_same m f.addr _ _ hm, Word.field_setField_other _ _ _ _ _ _ h hd]

theorem State.get_put_same (s : State) (f : RF) (v : Nat) (hs : SMap.sorted s.regs = true) (h : f.lo + f.w ≤ 64) :
    (s.put f v).get f = v % 2 ^ f.w := rget_rput_same _ _ _ _ hs h

theorem State.get_put_other (s : State) (f g : RF) (v : Nat) (h : g.addr ≠ f.addr) : (s.put f v).get g = s.get g :=
  rget_rput_other _ _ _ _ _ h

theorem State.get_put_beside (s : State) (f g : RF) (v : Nat) (hs : SMap.sorted s.regs = true) (ha : g.addr = f.addr)
    (h : g.lo + g.w ≤ 64) (hd : g.lo + g.w ≤ f.lo ∨ f.lo + f.w ≤ g.lo) : (s.put f v).get g = s.get g :=
  rget_rput_beside _ _ _ _ _ hs ha h hd

theorem State.word_setWord_same (s : State) (a : Nat) (v : Word) (hs : SMap.sorted s.regs = true) :
    (s.setWord a v).word a = v := SMap.getD_put_same s.regs a v _ hs

theorem State.word_setWord_other (s : State) (a b : Nat) (v : Word) (h : b ≠ a) : (s.setWord a v).word b = s.word b :=
  SMap.getD_put_other s.regs a b v _ _ h

/-! Tiles. -/

theorem State.tile_setTile_same (s : State) (p : Nat) (t : Tile) (hs : SMap.sorted s.tiles = true) :
    (s.setTile p t).tile p = t := SMap.getD_put_same s.tiles p t _ hs

theorem State.tile_setTile_other (s : State) (p k : Nat) (t : Tile) (h : k ≠ p) : (s.setTile p t).tile k = s.tile k :=
  SMap.getD_put_other s.tiles p k t _ _ h

@[simp] theorem State.get_setTile (s : State) (p : Nat) (t : Tile) (f : RF) : (s.setTile p t).get f = s.get f := rfl
@[simp] theorem State.tile_put (s : State) (f : RF) (v p : Nat) : (s.put f v).tile p = s.tile p := rfl

/-! Scalar registers. -/

/-- A write of s0 is discarded. -/
theorem Tile.setReg_zero (t : Tile) (v : Word) (tag : Bool) : t.setReg 0 v tag = t := rfl

theorem Tile.sreg_setReg_same (t : Tile) (k : Nat) (v : Word) (tag : Bool) (hk : k ≠ 0) (hs : SMap.sorted t.sregs = true) :
    (t.setReg k v tag).sreg k = v := by
  unfold Tile.setReg Tile.sreg
  simp only [hk, if_false]
  exact SMap.getD_put_same _ _ _ _ hs

theorem Tile.sreg_setReg_other (t : Tile) (k j : Nat) (v : Word) (tag : Bool) (h : j ≠ k) :
    (t.setReg k v tag).sreg j = t.sreg j := by
  unfold Tile.setReg Tile.sreg
  by_cases hk : k = 0
  · simp [hk]
  · simp only [hk, if_false]
    split
    · rfl
    · exact SMap.getD_put_other _ _ _ _ _ _ h

/-! Bytes. -/

/-- A store leaves every byte outside it alone. -/
theorem memWrite_other (m : SMap (BitVec 8)) (a n v b : Nat) (h : b < a ∨ a + n ≤ b) :
    SMap.getD (memWrite m a n v) b 0#8 = SMap.getD m b 0#8 := by
  induction n generalizing m a v with
  | zero => rfl
  | succ n ih =>
    unfold memWrite
    rw [ih _ _ _ (by omega), SMap.getD_put_other _ _ _ _ _ _ (by omega)]

theorem memRead_congr (m k : SMap (BitVec 8)) (a n : Nat)
    (h : ∀ b, a ≤ b → b < a + n → SMap.getD m b 0#8 = SMap.getD k b 0#8) : memRead m a n = memRead k a n := by
  induction n generalizing a with
  | zero => rfl
  | succ n ih =>
    unfold memRead
    rw [h a (by omega) (by omega), ih (a + 1) (fun b h1 h2 => h b (by omega) (by omega))]

/-- What has been stored reads back. -/
theorem memRead_memWrite (m : SMap (BitVec 8)) (a n v : Nat) (hm : SMap.sorted m = true) :
    memRead (memWrite m a n v) a n = v % 256 ^ n := by
  induction n generalizing m a v with
  | zero => simp [memRead, Nat.mod_one]
  | succ n ih =>
    have hs : SMap.sorted (SMap.put m a (BitVec.ofNat 8 v) 0#8) = true := by
      unfold SMap.put
      split
      · exact SMap.sorted_del m a hm
      · exact SMap.sorted_ins m a _ hm
    unfold memWrite memRead
    rw [memWrite_other _ _ _ _ _ (by omega), SMap.getD_put_same _ _ _ _ hm, ih _ _ _ hs]
    simp only [BitVec.toNat_ofNat]
    rw [show (256 : Nat) ^ (n + 1) = 256 * 256 ^ n by rw [Nat.pow_succ, Nat.mul_comm], Nat.mod_mul]

end Sys2Proof.Machine
end

