-- ==== Sys2Proof/Laws/Clock.lean ====
section
/-! SUPPORT. What counting of performance events and the passing of the fabric clock leave alone. -/

namespace Sys2Proof.Machine

/-- The registers of a counter set lie below `hi` and from `c.cnt`. -/
theorem CSet.addTo_get (c : CSet) (d : Nat → Word) (m : SMap Word) (k n : Nat) (f : RF)
    (h1 : f.addr ≠ c.cnt + 8 * k) (h2 : f.addr ≠ c.cnt + 8 * (k + 1)) (h3 : f.addr ≠ c.ovf) :
    rget d (c.addTo d m k n) f = rget d m f := by
  have e1 : ∀ m v, rget d (rput d m (c.cntF k) v) f = rget d m f := fun m v => rget_rput_other _ _ _ _ _ h1
  have e2 : ∀ m v, rget d (rput d m (c.cntF (k + 1)) v) f = rget d m f := fun m v => rget_rput_other _ _ _ _ _ h2
  have e3 : ∀ m j v, rget d (rput d m (c.ovfF j) v) f = rget d m f := fun m j v => rget_rput_other _ _ _ _ _ h3
  unfold CSet.addTo
  simp only
  split
  · exact e1 _ _
  · split
    · split
      · rw [e2, e1]
      · rw [e3, e2, e1]
    · rw [e3, e1]

theorem CSet.addAll_get (c : CSet) (d : Nat → Word) (code n j : Nat) (m : SMap Word) (f : RF)
    (h : f.addr < c.cnt ∨ c.cnt + 8 * (j + 1) ≤ f.addr) (h3 : f.addr ≠ c.ovf) :
    rget d (c.addAll d code n j m) f = rget d m f := by
  induction j with
  | zero => rfl
  | succ j ih =>
    unfold CSet.addAll
    simp only
    split
    · rw [CSet.addTo_get _ _ _ _ _ _ (by omega) (by omega) h3, ih (by omega)]
    · exact ih (by omega)

theorem CSet.event_get (c : CSet) (d : Nat → Word) (m : SMap Word) (code n : Nat) (f : RF)
    (h : f.addr < c.cnt ∨ c.cnt + 8 * (c.n + 1) ≤ f.addr) (h3 : f.addr ≠ c.ovf) :
    rget d (c.event d m code n) f = rget d m f := by
  unfold CSet.event
  split
  · rfl
  · split
    · split
      · rfl
      · exact CSet.addAll_get _ _ _ _ _ _ _ h h3
    · exact CSet.addAll_get _ _ _ _ _ _ _ h h3

/-- Not a register of the fabric dies' counter sets. -/
def offFab (a : Nat) : Bool :=
  !(decide (0x101A000 ≤ a) && decide (a < 0x101A258)) && !(decide (0x109A000 ≤ a) && decide (a < 0x109A258))

/-- The fabric clock counts in the fabric dies' sets alone. -/
theorem State.reach_get (s : State) (n : Nat) (f : RF) (h : offFab f.addr = true) : (s.reach n).get f = s.get f := by
  have ho : ∀ j, j < 2 → f.addr < (fabSet j).cnt ∨ (fabSet j).cnt + 0x258 ≤ f.addr := by
    intro j hj
    simp only [offFab, Bool.and_eq_true, Bool.not_eq_true', Bool.and_eq_false_iff, decide_eq_false_iff_not] at h
    simp only [fabSet]
    omega
  have e : ∀ j, j < 2 → ∀ m k, rget moduleReset ((fabSet j).event moduleReset m 0x01 k) f = rget moduleReset m f := by
    intro j hj m k
    refine CSet.event_get _ _ _ _ _ _ ?_ ?_
    · have := ho j hj
      have : (fabSet j).n = 64 := rfl
      omega
    · have := ho j hj
      have : (fabSet j).ovf = (fabSet j).cnt + 0x250 := rfl
      omega
  show rget moduleReset ((fabSet 1).event moduleReset ((fabSet 0).event moduleReset s.regs 0x01 _) 0x01 _) f = _
  rw [e 1 (by omega), e 0 (by omega)]
  rfl

@[simp] theorem State.reach_tick (s : State) (n : Nat) : (s.reach n).tick = s.tick := rfl
@[simp] theorem State.reach_tiles (s : State) (n : Nat) : (s.reach n).tiles = s.tiles := rfl
@[simp] theorem State.reach_fab (s : State) (n : Nat) : (s.reach n).fab = s.fab := rfl
@[simp] theorem State.reach_rcv (s : State) (n : Nat) : (s.reach n).rcv = s.rcv := rfl
@[simp] theorem State.reach_errcPending (s : State) (n : Nat) : (s.reach n).errcPending = s.errcPending := rfl
@[simp] theorem State.reach_pending (s : State) (n : Nat) : (s.reach n).pending = s.pending := rfl

@[simp] theorem State.errc_get (s : State) (i n : Nat) (f : RF) : (s.errc i n).get f = s.get f := by
  unfold State.errc
  split <;> rfl

@[simp] theorem State.errc_regs (s : State) (i n : Nat) : (s.errc i n).regs = s.regs := by
  unfold State.errc
  split <;> rfl

@[simp] theorem State.mapTick_get (s : State) (g : TickSt → TickSt) (f : RF) : (s.mapTick g).get f = s.get f := rfl

theorem State.add_get (s : State) (g : RF) (n : Nat) (f : RF) (h : f.addr ≠ g.addr) : (s.add g n).get f = s.get f := by
  unfold State.add
  split
  · rfl
  · exact State.get_put_other _ _ _ _ h

theorem State.count_get (s : State) (g : RF) (i n : Nat) (f : RF) (h : f.addr ≠ g.addr) :
    (s.count g i n).get f = s.get f := by
  unfold State.count
  rw [State.errc_get, State.add_get _ _ _ _ h]

/-- The hold set's registers are not those of another block. -/
theorem State.clearHolds_get (s : State) (f : RF) (h : f.addr < 0x10100 ∨ 0x10900 ≤ f.addr) :
    s.clearHolds.get f = s.get f := by
  have key : ∀ (m : SMap Word) (lo hi a : Nat), a < lo ∨ hi ≤ a → SMap.find (SMap.clear m lo hi) a = SMap.find m a := by
    intro m lo hi a ha
    induction m with
    | nil => rfl
    | cons q m ih =>
      unfold SMap.clear at *
      simp only [List.filter]
      split
      · simp only [SMap.find]
        split
        · rfl
        · exact ih
      · rename_i hq
        simp only [SMap.find]
        split
        · next h => simp at hq; omega
        · exact ih
  show rget moduleReset (SMap.clear s.regs 0x10100 0x10900) f = _
  unfold rget rreg SMap.getD
  rw [key _ _ _ _ h]
  rfl

/-! Fields after an update, and the order of the registers. -/

theorem State.put_sorted {s : State} (f : RF) (v : Nat) (h : SMap.sorted s.regs = true) :
    SMap.sorted (s.put f v).regs = true := SMap.sorted_put _ _ _ _ h

theorem State.add_sorted {s : State} (f : RF) (n : Nat) (h : SMap.sorted s.regs = true) :
    SMap.sorted (s.add f n).regs = true := by
  unfold State.add
  split
  · exact h
  · exact State.put_sorted _ _ h

theorem State.errc_sorted {s : State} (i n : Nat) (h : SMap.sorted s.regs = true) :
    SMap.sorted (s.errc i n).regs = true := by rw [State.errc_regs]; exact h

theorem State.count_sorted {s : State} (f : RF) (i n : Nat) (h : SMap.sorted s.regs = true) :
    SMap.sorted (s.count f i n).regs = true := State.errc_sorted _ _ (State.add_sorted _ _ h)

theorem State.reach_wf {s : State} (n : Nat) (h : s.regsWf = true) : (s.reach n).regsWf = true :=
  CSet.event_wf _ _ _ _ _ (CSet.event_wf _ _ _ _ _ h)

/-- A field outside the one written. -/
theorem State.get_put_off (s : State) (f g : RF) (v : Nat) (hs : SMap.sorted s.regs = true)
    (h : g.addr ≠ f.addr ∨ g.lo + g.w ≤ 64 ∧ (g.lo + g.w ≤ f.lo ∨ f.lo + f.w ≤ g.lo)) : (s.put f v).get g = s.get g := by
  by_cases e : g.addr = f.addr
  · rcases h with h | ⟨h1, h2⟩
    · exact absurd e h
    · exact State.get_put_beside _ _ _ _ hs e h1 h2
  · exact State.get_put_other _ _ _ _ e

/-! Keys that a write does not list or unlist: the hold set's. -/

theorem SMap.all_put {α : Type} [DecidableEq α] (m : SMap α) (p : Nat → Bool) (i : Nat) (v d : α) (hp : p i = true) :
    (SMap.put m i v d).all (fun q => p q.1) = m.all fun q => p q.1 := by
  have hi : ∀ m : SMap α, (SMap.ins m i v).all (fun q => p q.1) = m.all fun q => p q.1 := by
    intro m
    induction m with
    | nil => simp [SMap.ins, hp]
    | cons q m ih =>
      unfold SMap.ins
      split
      · simp [hp]
      · split
        · next h => simp [hp, ← h]
        · simp only [List.all_cons, ih]
  have hd : ∀ m : SMap α, (SMap.del m i).all (fun q => p q.1) = m.all fun q => p q.1 := by
    intro m
    induction m with
    | nil => rfl
    | cons q m ih =>
      unfold SMap.del
      split
      · rfl
      · split
        · next h => simp [hp, ← h]
        · simp only [List.all_cons, ih]
  unfold SMap.put
  split
  · exact hd m
  · exact hi m

theorem CSet.event_all (c : CSet) (d : Nat → Word) (m : SMap Word) (code n : Nat) (p : Nat → Bool)
    (h : ∀ k, p (c.cnt + 8 * k) = true) (ho : p c.ovf = true) :
    (c.event d m code n).all (fun q => p q.1) = m.all fun q => p q.1 := by
  have h1 : ∀ m k n, (c.addTo d m k n).all (fun q => p q.1) = m.all fun q => p q.1 := by
    intro m k n
    have e1 : ∀ m k v, (rput d m (c.cntF k) v).all (fun q => p q.1) = m.all fun q => p q.1 :=
      fun m k v => SMap.all_put _ _ _ _ _ (h k)
    have e2 : ∀ m k v, (rput d m (c.ovfF k) v).all (fun q => p q.1) = m.all fun q => p q.1 :=
      fun m k v => SMap.all_put _ _ _ _ _ ho
    unfold CSet.addTo
    simp only
    split
    · exact e1 _ _ _
    · split
      · split
        · rw [e1, e1]
        · rw [e2, e1, e1]
      · rw [e2, e1]
  have h2 : ∀ j m, (c.addAll d code n j m).all (fun q => p q.1) = m.all fun q => p q.1 := by
    intro j m
    induction j with
    | zero => rfl
    | succ j ih =>
      unfold CSet.addAll
      simp only
      split
      · rw [h1, ih]
      · exact ih
  unfold CSet.event
  split
  · rfl
  · split
    · split
      · rfl
      · exact h2 _ _
    · exact h2 _ _

theorem State.reach_holdsEmpty (s : State) (n : Nat) : (s.reach n).holdsEmpty = s.holdsEmpty := by
  have e : ∀ j m k, ((fabSet j).event moduleReset m 0x01 k).all (fun q => decide (q.1 < 0x10100) || decide (0x10900 ≤ q.1)) =
      m.all fun q => decide (q.1 < 0x10100) || decide (0x10900 ≤ q.1) := by
    intro j m k
    refine CSet.event_all _ _ _ _ _ (fun a => decide (a < 0x10100) || decide (0x10900 ≤ a)) (fun i => ?_) ?_
    · rw [Bool.or_eq_true, decide_eq_true_eq, decide_eq_true_eq]
      simp only [fabSet]
      omega
    · rw [Bool.or_eq_true, decide_eq_true_eq, decide_eq_true_eq]
      simp only [fabSet]
      omega
  unfold State.holdsEmpty State.reach
  simp only
  rw [e, e]

theorem State.put_holdsEmpty (s : State) (f : RF) (v : Nat) (h : f.addr < 0x10100 ∨ 0x10900 ≤ f.addr) :
    (s.put f v).holdsEmpty = s.holdsEmpty :=
  SMap.all_put _ (fun a => decide (a < 0x10100) || decide (0x10900 ≤ a)) _ _ _ (by
    simp only [Bool.or_eq_true, decide_eq_true_eq]
    exact h)

@[simp] theorem State.errc_tick (s : State) (i n : Nat) : (s.errc i n).tick = s.tick := by unfold State.errc; split <;> rfl
@[simp] theorem State.add_tick (s : State) (f : RF) (n : Nat) : (s.add f n).tick = s.tick := by unfold State.add; split <;> rfl
@[simp] theorem State.count_tick (s : State) (f : RF) (i n : Nat) : (s.count f i n).tick = s.tick :=
  (State.errc_tick _ _ _).trans (State.add_tick _ _ _)
@[simp] theorem State.errc_tiles (s : State) (i n : Nat) : (s.errc i n).tiles = s.tiles := by unfold State.errc; split <;> rfl
@[simp] theorem State.add_tiles (s : State) (f : RF) (n : Nat) : (s.add f n).tiles = s.tiles := by unfold State.add; split <;> rfl
@[simp] theorem State.count_tiles (s : State) (f : RF) (i n : Nat) : (s.count f i n).tiles = s.tiles :=
  (State.errc_tiles _ _ _).trans (State.add_tiles _ _ _)
@[simp] theorem State.errc_fab (s : State) (i n : Nat) : (s.errc i n).fab = s.fab := by unfold State.errc; split <;> rfl
@[simp] theorem State.add_fab (s : State) (f : RF) (n : Nat) : (s.add f n).fab = s.fab := by unfold State.add; split <;> rfl
@[simp] theorem State.count_fab (s : State) (f : RF) (i n : Nat) : (s.count f i n).fab = s.fab :=
  (State.errc_fab _ _ _).trans (State.add_fab _ _ _)
@[simp] theorem State.errc_rcv (s : State) (i n : Nat) : (s.errc i n).rcv = s.rcv := by unfold State.errc; split <;> rfl
@[simp] theorem State.add_rcv (s : State) (f : RF) (n : Nat) : (s.add f n).rcv = s.rcv := by unfold State.add; split <;> rfl
@[simp] theorem State.count_rcv (s : State) (f : RF) (i n : Nat) : (s.count f i n).rcv = s.rcv :=
  (State.errc_rcv _ _ _).trans (State.add_rcv _ _ _)
@[simp] theorem State.errc_now (s : State) (i n : Nat) : (s.errc i n).now = s.now := by unfold State.errc; split <;> rfl
@[simp] theorem State.add_now (s : State) (f : RF) (n : Nat) : (s.add f n).now = s.now := by unfold State.add; split <;> rfl
@[simp] theorem State.count_now (s : State) (f : RF) (i n : Nat) : (s.count f i n).now = s.now :=
  (State.errc_now _ _ _).trans (State.add_now _ _ _)
@[simp] theorem State.errc_hbm (s : State) (i n : Nat) : (s.errc i n).hbm = s.hbm := by unfold State.errc; split <;> rfl
@[simp] theorem State.add_hbm (s : State) (f : RF) (n : Nat) : (s.add f n).hbm = s.hbm := by unfold State.add; split <;> rfl
@[simp] theorem State.count_hbm (s : State) (f : RF) (i n : Nat) : (s.count f i n).hbm = s.hbm :=
  (State.errc_hbm _ _ _).trans (State.add_hbm _ _ _)
@[simp] theorem State.errc_syn (s : State) (i n : Nat) : (s.errc i n).syn = s.syn := by unfold State.errc; split <;> rfl
@[simp] theorem State.add_syn (s : State) (f : RF) (n : Nat) : (s.add f n).syn = s.syn := by unfold State.add; split <;> rfl
@[simp] theorem State.count_syn (s : State) (f : RF) (i n : Nat) : (s.count f i n).syn = s.syn :=
  (State.errc_syn _ _ _).trans (State.add_syn _ _ _)
@[simp] theorem State.errc_train (s : State) (i n : Nat) : (s.errc i n).train = s.train := by unfold State.errc; split <;> rfl
@[simp] theorem State.add_train (s : State) (f : RF) (n : Nat) : (s.add f n).train = s.train := by unfold State.add; split <;> rfl
@[simp] theorem State.count_train (s : State) (f : RF) (i n : Nat) : (s.count f i n).train = s.train :=
  (State.errc_train _ _ _).trans (State.add_train _ _ _)
@[simp] theorem State.errc_rep (s : State) (i n : Nat) : (s.errc i n).rep = s.rep := by unfold State.errc; split <;> rfl
@[simp] theorem State.add_rep (s : State) (f : RF) (n : Nat) : (s.add f n).rep = s.rep := by unfold State.add; split <;> rfl
@[simp] theorem State.count_rep (s : State) (f : RF) (i n : Nat) : (s.count f i n).rep = s.rep :=
  (State.errc_rep _ _ _).trans (State.add_rep _ _ _)
@[simp] theorem State.errc_host (s : State) (i n : Nat) : (s.errc i n).host = s.host := by unfold State.errc; split <;> rfl
@[simp] theorem State.add_host (s : State) (f : RF) (n : Nat) : (s.add f n).host = s.host := by unfold State.add; split <;> rfl
@[simp] theorem State.count_host (s : State) (f : RF) (i n : Nat) : (s.count f i n).host = s.host :=
  (State.errc_host _ _ _).trans (State.add_host _ _ _)
@[simp] theorem State.errc_bld (s : State) (i n : Nat) : (s.errc i n).bld = s.bld := by unfold State.errc; split <;> rfl
@[simp] theorem State.add_bld (s : State) (f : RF) (n : Nat) : (s.add f n).bld = s.bld := by unfold State.add; split <;> rfl
@[simp] theorem State.count_bld (s : State) (f : RF) (i n : Nat) : (s.count f i n).bld = s.bld :=
  (State.errc_bld _ _ _).trans (State.add_bld _ _ _)
@[simp] theorem State.errc_vrn (s : State) (i n : Nat) : (s.errc i n).vrn = s.vrn := by unfold State.errc; split <;> rfl
@[simp] theorem State.add_vrn (s : State) (f : RF) (n : Nat) : (s.add f n).vrn = s.vrn := by unfold State.add; split <;> rfl
@[simp] theorem State.count_vrn (s : State) (f : RF) (i n : Nat) : (s.count f i n).vrn = s.vrn :=
  (State.errc_vrn _ _ _).trans (State.add_vrn _ _ _)
@[simp] theorem State.errc_ldr (s : State) (i n : Nat) : (s.errc i n).ldr = s.ldr := by unfold State.errc; split <;> rfl
@[simp] theorem State.add_ldr (s : State) (f : RF) (n : Nat) : (s.add f n).ldr = s.ldr := by unfold State.add; split <;> rfl
@[simp] theorem State.count_ldr (s : State) (f : RF) (i n : Nat) : (s.count f i n).ldr = s.ldr :=
  (State.errc_ldr _ _ _).trans (State.add_ldr _ _ _)
@[simp] theorem State.errc_eas (s : State) (i n : Nat) : (s.errc i n).eas = s.eas := by unfold State.errc; split <;> rfl
@[simp] theorem State.add_eas (s : State) (f : RF) (n : Nat) : (s.add f n).eas = s.eas := by unfold State.add; split <;> rfl
@[simp] theorem State.count_eas (s : State) (f : RF) (i n : Nat) : (s.count f i n).eas = s.eas :=
  (State.errc_eas _ _ _).trans (State.add_eas _ _ _)
@[simp] theorem State.errc_pwr (s : State) (i n : Nat) : (s.errc i n).pwr = s.pwr := by unfold State.errc; split <;> rfl
@[simp] theorem State.add_pwr (s : State) (f : RF) (n : Nat) : (s.add f n).pwr = s.pwr := by unfold State.add; split <;> rfl
@[simp] theorem State.count_pwr (s : State) (f : RF) (i n : Nat) : (s.count f i n).pwr = s.pwr :=
  (State.errc_pwr _ _ _).trans (State.add_pwr _ _ _)
@[simp] theorem State.errc_free (s : State) (i n : Nat) : (s.errc i n).free = s.free := by unfold State.errc; split <;> rfl
@[simp] theorem State.add_free (s : State) (f : RF) (n : Nat) : (s.add f n).free = s.free := by unfold State.add; split <;> rfl
@[simp] theorem State.count_free (s : State) (f : RF) (i n : Nat) : (s.count f i n).free = s.free :=
  (State.errc_free _ _ _).trans (State.add_free _ _ _)
@[simp] theorem State.errc_vf (s : State) (i n : Nat) : (s.errc i n).vf = s.vf := by unfold State.errc; split <;> rfl
@[simp] theorem State.add_vf (s : State) (f : RF) (n : Nat) : (s.add f n).vf = s.vf := by unfold State.add; split <;> rfl
@[simp] theorem State.count_vf (s : State) (f : RF) (i n : Nat) : (s.count f i n).vf = s.vf :=
  (State.errc_vf _ _ _).trans (State.add_vf _ _ _)
@[simp] theorem State.errc_pending (s : State) (i n : Nat) : (s.errc i n).pending = s.pending := by unfold State.errc; split <;> rfl
@[simp] theorem State.add_pending (s : State) (f : RF) (n : Nat) : (s.add f n).pending = s.pending := by unfold State.add; split <;> rfl
@[simp] theorem State.count_pending (s : State) (f : RF) (i n : Nat) : (s.count f i n).pending = s.pending :=
  (State.errc_pending _ _ _).trans (State.add_pending _ _ _)

end Sys2Proof.Machine
end

