-- ==== Sys2Proof/Laws/Decode.lean ====
section
/-! SUPPORT. The words of the tile's instruction set: no two rows of the tables share a class and op, and a word decodes to
the command that it was encoded from. -/

namespace Sys2Proof

/-- No two rows of the tables of R74-R95 have one class and op. -/
theorem tileOps_distinct : (tileOps.map fun r => (r.cls, r.op)).Nodup := by decide

theorem IW.word_cls (c : BitVec 5) (o : BitVec 6) (w : IW) : (w.word c o).extractLsb' 59 5 = c := by
  simp only [IW.word]
  rw [BitVec.extractLsb'_append_eq_of_le (by decide), BitVec.extractLsb'_append_eq_of_le (by decide),
    BitVec.extractLsb'_append_eq_of_le (by decide), BitVec.extractLsb'_append_eq_of_le (by decide)]
  exact BitVec.extractLsb'_eq_self

theorem IW.word_op (c : BitVec 5) (o : BitVec 6) (w : IW) : (w.word c o).extractLsb' 49 6 = o := by
  simp only [IW.word]
  rw [BitVec.extractLsb'_append_eq_of_le (by decide), BitVec.extractLsb'_append_eq_of_add_le (by decide)]
  exact BitVec.extractLsb'_eq_self

theorem IW.ofWord_word (c : BitVec 5) (o : BitVec 6) (w : IW) : IW.ofWord (w.word c o) = w := by
  obtain ⟨pn, pg, body⟩ := w
  simp only [IW.ofWord, IW.mk.injEq, IW.word]
  refine ⟨?_, Fin.ext ?_, BitVec.extractLsb'_append_eq_right⟩
  · rw [BitVec.getLsbD_append, if_neg (by decide), BitVec.getLsbD_append, if_neg (by decide), BitVec.getLsbD_append,
      if_neg (by decide), BitVec.getLsbD_append, if_pos (by decide)]
    cases pn <;> rfl
  · show (BitVec.extractLsb' 55 3 _).toNat = pg.val
    rw [BitVec.extractLsb'_append_eq_of_le (by decide), BitVec.extractLsb'_append_eq_of_le (by decide),
      BitVec.extractLsb'_append_eq_of_add_le (by decide)]
    show (BitVec.extractLsb' 0 3 _).toNat = pg.val
    rw [BitVec.extractLsb'_eq_self, BitVec.toNat_ofNat]
    exact Nat.mod_eq_of_lt pg.isLt

/-- A word of a class and an op decodes to the row of the tables that names them. -/
theorem decodeTile_word (t : TileId) (c : BitVec 5) (o : BitVec 6) (w : IW) (r : TileOp)
    (h : tileOps.find? (fun r => r.cls == c && r.op == o) = some r) : decodeTile t (w.word c o) = r.make t w := by
  simp only [decodeTile, tileOpOf, IW.word_cls, IW.word_op, IW.ofWord_word, h]

/-- Every command of the tables is decoded from the word that it encodes to. -/
theorem decode_encode : ∀ r ∈ tileOps, ∀ (t : TileId) (w : IW),
    encodeTile (r.make t w) = some (w.word r.cls r.op) ∧ decodeTile t (w.word r.cls r.op) = r.make t w := by
  refine fun r hr t w => ⟨?_, decodeTile_word t _ _ w r ?_⟩
  · revert r; simp only [tileOps, sysOps, aluOps, aluiOps, moviOps, predOps, brOps, loopOps, memOps, mulDivOps, stipOps, tokenOps,
      mullerOps, glazeOps, streamOps, exchOps, fabricOps, syncOps, List.cons_append, List.nil_append, List.forall_mem_cons,
      encodeTile, List.not_mem_nil, false_imp_iff, implies_true, and_self]
  · revert r; simp only [tileOps, sysOps, aluOps, aluiOps, moviOps, predOps, brOps, loopOps, memOps, mulDivOps, stipOps, tokenOps,
      mullerOps, glazeOps, streamOps, exchOps, fabricOps, syncOps, List.cons_append, List.nil_append, List.forall_mem_cons]
    repeat' (first | exact rfl | constructor)
    simp

end Sys2Proof
end

