-- ==== Sys2Proof/Laws/Side.lean ====
section
/-! SUPPORT. What it means that a function leaves the program side of a tile as it was, and the steps that every such
proof is made of. -/

namespace Sys2Proof.Machine

/-- Not an increment by the tile's own hardware. -/
def Ev.quiet : Ev → Bool
  | .signal _ _ => false
  | _ => true

/-- A tile's program side and what it sees of the module. -/
structure Mark where
  side : ProgramSide
  env : Env

structure Tile.Is (k : Mark) (t : Tile) : Prop where
  eq : t.side = k.side

theorem Tile.is_lit {k : Mark} {t : Tile}
    (h : ProgramSide.mk t.run t.sregs t.tags t.preds t.pc t.loops t.pend t.tokPend t.tokStat t.tokAt t.cyc t.issued
        t.qwait t.arrived t.xlen t.model t.nextId t.muller t.glaze t.stream t.fabric t.exch t.sync t.acc = k.side) : t.Is k := ⟨h⟩

theorem Tile.Is.raw {k : Mark} {t : Tile} (h : t.Is k) :
    ProgramSide.mk t.run t.sregs t.tags t.preds t.pc t.loops t.pend t.tokPend t.tokStat t.tokAt t.cyc t.issued
        t.qwait t.arrived t.xlen t.model t.nextId t.muller t.glaze t.stream t.fabric t.exch t.sync t.acc = k.side := h.eq

theorem Tile.put_is {k : Mark} (t : Tile) (f : RF) (v : Nat) (h : t.Is k) : (t.put f v).Is k := ⟨h.eq⟩

theorem Tile.is_cut {k : Mark} {t : Tile} {G : Prop} (h : t.Is k) (g : t.Is k → G) : G := g h

theorem Tile.is_ite {k : Mark} {c : Prop} [Decidable c] {a b : Tile} (ha : c → a.Is k) (hb : ¬ c → b.Is k) :
    (if c then a else b).Is k := by
  split
  · exact ha ‹_›
  · exact hb ‹_›

theorem Tile.is_foldl {k : Mark} {α : Type} (f : Tile → α → Tile) (l : List α) (t : Tile)
    (hf : ∀ t a, t.Is k → (f t a).Is k) (h : t.Is k) : (l.foldl f t).Is k := by
  induction l generalizing t with
  | nil => exact h
  | cons a l ih => exact ih _ (hf t a h)

/-- The tile has the program side, the view is the same, and no increment is handed out. -/
structure TW.Is (k : Mark) (x : TW) : Prop where
  tile : x.t.Is k
  env : x.env = k.env
  quiet : x.out.all Ev.quiet = true

theorem TW.is_lit {k : Mark} {x : TW} (h : x.t.Is k) (e : x.env = k.env) (q : x.out.all Ev.quiet = true) : x.Is k :=
  ⟨h, e, q⟩

theorem TW.is_cut {k : Mark} {x : TW} {G : Prop} (h : x.Is k) (g : x.Is k → G) : G := g h

theorem TW.is_ite {k : Mark} {c : Prop} [Decidable c] {a b : TW} (ha : c → a.Is k) (hb : ¬ c → b.Is k) :
    (if c then a else b).Is k := by
  split
  · exact ha ‹_›
  · exact hb ‹_›

theorem TW.is_snd {k : Mark} {α : Type} {p : α × TW} {a : α} {x : TW} (e : p = (a, x)) (h : p.2.Is k) : x.Is k := by
  subst e; exact h

theorem TW.is_trd {k : Mark} {α β : Type} {p : α × β × TW} {a : α} {b : β} {x : TW} (e : p = (a, b, x))
    (h : p.2.2.Is k) : x.Is k := by
  subst e; exact h

theorem TW.is_fth {k : Mark} {α β γ : Type} {p : α × β × γ × TW} {a : α} {b : β} {c : γ} {x : TW}
    (e : p = (a, b, c, x)) (h : p.2.2.2.Is k) : x.Is k := by
  subst e; exact h

theorem TW.put_is {k : Mark} (x : TW) (f : RF) (v : Nat) (h : x.Is k) : (x.put f v).Is k :=
  ⟨⟨h.tile.eq⟩, h.env, h.quiet⟩

theorem TW.emit_is {k : Mark} (x : TW) (e : Ev) (he : e.quiet = true) (h : x.Is k) : (x.emit e).Is k :=
  ⟨h.tile, h.env, by simp only [TW.emit, List.all_append, h.quiet, List.all_cons, he, List.all_nil, Bool.and_self]⟩

theorem TW.map_is {k : Mark} (x : TW) (f : Tile → Tile) (hf : ∀ t, t.Is k → (f t).Is k) (h : x.Is k) :
    (x.map f).Is k := ⟨hf _ h.tile, h.env, h.quiet⟩

theorem TW.is_foldl {k : Mark} {α : Type} (f : TW → α → TW) (l : List α) (x : TW) (hf : ∀ x a, x.Is k → (f x a).Is k)
    (h : x.Is k) : (l.foldl f x).Is k := by
  induction l generalizing x with
  | nil => exact h
  | cons a l ih => exact ih _ (hf x a h)

theorem TW.is_foldl_snd {k : Mark} {α β : Type} (f : β × TW → α → β × TW) (l : List α) (p : β × TW)
    (hf : ∀ p a, p.2.Is k → (f p a).2.Is k) (h : p.2.Is k) : (l.foldl f p).2.Is k := by
  induction l generalizing p with
  | nil => exact h
  | cons a l ih => exact ih _ (hf p a h)

theorem TW.perf_is {k : Mark} (x : TW) (code n : Nat) (h : x.Is k) : (x.perf code n).Is k := by
  unfold TW.perf
  split
  · exact h
  · exact TW.emit_is _ _ rfl ⟨⟨h.tile.eq⟩, h.env, h.quiet⟩

end Sys2Proof.Machine
end

