-- ==== Sys2Proof/Laws/SideTile.lean ====
section
/-! SUPPORT. The functions that an instruction's issue passes through leave the program side of the tile as it was: the
fetch of rows, the grants of banks, the engines' requests, stores and engine writes becoming visible, and events. -/

namespace Sys2Proof.Machine

theorem TW.count_is {k : Mark} (x : TW) (f : RF) (off : Option Nat) (n : Nat) (h : x.Is k) :
    (TW.count x f off n).Is k := by
  unfold TW.count
  repeat' (first
    | with_reducible assumption
    | with_reducible refine TW.emit_is _ _ rfl ?_
    | with_reducible apply TW.put_is
    | split)

theorem TW.perfOf_is {k : Mark} (x : TW) (code : Nat) (o : Origin) (latency td status : Nat) (h : x.Is k) :
    (TW.perfOf x code o latency td status).Is k := by
  unfold TW.perfOf
  repeat' (first
    | with_reducible assumption
    | with_reducible refine TW.emit_is _ _ rfl ?_
    | with_reducible apply TW.perf_is
    | (with_reducible refine TW.is_ite (fun _ => ?_) (fun _ => ?_)))

theorem TW.elog_is {mk : Mark} (x : TW) (seg mark : Nat) (h : x.Is mk) :
    (TW.elog x seg mark).Is mk := by
  unfold TW.elog
  repeat' (first
    | with_reducible assumption
    | with_reducible apply TW.put_is
    | with_reducible apply Tile.put_is)

theorem TW.corrected_is {mk : Mark} (x : TW) (seg mark : Nat) (h : x.Is mk) :
    (TW.corrected x seg mark).Is mk := by
  unfold TW.corrected
  repeat' (first
    | with_reducible assumption
    | with_reducible apply TW.count_is
    | with_reducible apply TW.elog_is)

theorem TW.uncorrectable_is {mk : Mark} (x : TW) (seg mark : Nat) (h : x.Is mk) :
    (TW.uncorrectable x seg mark).Is mk := by
  unfold TW.uncorrectable
  repeat' (first
    | with_reducible assumption
    | with_reducible apply TW.count_is
    | with_reducible apply TW.elog_is
    | with_reducible refine TW.emit_is _ _ rfl ?_)

theorem TW.violation_is {k : Mark} (x : TW) (h : x.Is k) :
    (TW.violation x).Is k := by
  unfold TW.violation
  repeat' (first
    | with_reducible assumption
    | with_reducible apply TW.count_is)

theorem Tile.setSeg_is {k : Mark} (t : Tile) (seg v : Nat) (pois : Bool) (h : t.Is k) :
    (Tile.setSeg t seg v pois).Is k := Tile.is_lit h.raw

theorem TW.readSeg_is {mk : Mark} (x : TW) (seg : Nat) (h : x.Is mk) :
    (TW.readSeg x seg).2.2.Is mk := by
  unfold TW.readSeg
  repeat' (first
    | with_reducible assumption
    | refine fun _ => ?_
    | with_reducible apply TW.corrected_is
    | with_reducible apply TW.uncorrectable_is
    | with_reducible apply Tile.setSeg_is
    | with_reducible apply TW.map_is
    | with_reducible apply TW.Is.tile
    | (extract_lets +onlyGivenNames z; with_reducible apply TW.is_cut (k := mk) (x := z); rotate_left; clear_value z; intro hz; rotate_right; subst z)
    | (extract_lets +onlyGivenNames z; with_reducible apply Tile.is_cut (k := mk) (t := z); rotate_left; clear_value z; intro hz; rotate_right; subst z)
    | extract_lets +onlyGivenNames z
    | (refine Tile.is_lit ?_; dsimp only; exact Tile.Is.raw (by assumption))
    | split)

theorem TW.mergeErr_is {mk : Mark} (x : TW) (seg : Nat) (h : x.Is mk) :
    (TW.mergeErr x seg).Is mk := by
  unfold TW.mergeErr
  repeat' (first
    | with_reducible assumption
    | refine fun _ => ?_
    | with_reducible apply TW.corrected_is
    | with_reducible apply TW.uncorrectable_is
    | with_reducible apply Tile.setSeg_is
    | with_reducible apply TW.put_is
    | with_reducible apply Tile.put_is
    | with_reducible apply TW.map_is
    | with_reducible apply TW.Is.tile
    | (extract_lets +onlyGivenNames z; with_reducible apply TW.is_cut (k := mk) (x := z); rotate_left; clear_value z; intro hz; rotate_right; subst z)
    | (extract_lets +onlyGivenNames z; with_reducible apply Tile.is_cut (k := mk) (t := z); rotate_left; clear_value z; intro hz; rotate_right; subst z)
    | extract_lets +onlyGivenNames z
    | (refine Tile.is_lit ?_; dsimp only; exact Tile.Is.raw (by assumption))
    | (with_reducible refine TW.is_ite (fun _ => ?_) (fun _ => ?_))
    | (with_reducible refine Tile.is_ite (fun _ => ?_) (fun _ => ?_)))

theorem Tile.tearRow_is {k : Mark} (t : Tile) (row : Nat) (h : t.Is k) :
    (Tile.tearRow t row).Is k := by
  unfold Tile.tearRow
  repeat' (first
    | with_reducible assumption
    | (refine Tile.is_lit ?_; dsimp only; exact Tile.Is.raw (by assumption))
    | (with_reducible refine Tile.is_ite (fun _ => ?_) (fun _ => ?_)))

theorem TW.writeSeg_is {mk : Mark} (x : TW) (seg off n v : Nat) (mark : Bool) (h : x.Is mk) :
    (TW.writeSeg x seg off n v mark).Is mk := by
  unfold TW.writeSeg
  repeat' (first
    | with_reducible assumption
    | refine fun _ => ?_
    | with_reducible apply Tile.setSeg_is
    | with_reducible apply TW.mergeErr_is
    | with_reducible apply Tile.tearRow_is
    | with_reducible apply TW.map_is
    | (extract_lets +onlyGivenNames z; with_reducible apply TW.is_cut (k := mk) (x := z); rotate_left; clear_value z; intro hz; rotate_right; subst z)
    | (extract_lets +onlyGivenNames z; with_reducible apply Tile.is_cut (k := mk) (t := z); rotate_left; clear_value z; intro hz; rotate_right; subst z)
    | extract_lets +onlyGivenNames z
    | (refine Tile.is_lit ?_; dsimp only; exact Tile.Is.raw (by assumption))
    | split)

theorem TW.readSegs_is {k : Mark} (x : TW) (seg : Nat) (r0 : Nat) (h : x.Is k) :
    (TW.readSegs x seg r0).2.2.Is k := by
  induction r0 generalizing x seg with
  | zero =>
    unfold TW.readSegs
    repeat' (first
      | with_reducible assumption
      | with_reducible apply TW.readSeg_is)
  | succ r0 ih =>
    unfold TW.readSegs
    repeat' (first
      | with_reducible assumption
      | with_reducible apply ih
      | with_reducible apply TW.readSeg_is)

theorem TW.readRaw_is {k : Mark} (x : TW) (a n : Nat) (h : x.Is k) :
    (TW.readRaw x a n).2.Is k := by
  unfold TW.readRaw
  repeat' (first
    | with_reducible assumption
    | with_reducible apply TW.readSegs_is)

theorem TW.writeRaw_is {k : Mark} (x : TW) (a n v : Nat) (marks : List Bool) (r0 : Nat) (h : x.Is k) :
    (TW.writeRaw x a n v marks r0).Is k := by
  induction r0 generalizing x a n v marks with
  | zero =>
    unfold TW.writeRaw
    repeat' (first
      | with_reducible assumption
      | with_reducible apply TW.writeSeg_is
      | (with_reducible refine TW.is_ite (fun _ => ?_) (fun _ => ?_)))
  | succ r0 ih =>
    unfold TW.writeRaw
    repeat' (first
      | with_reducible assumption
      | with_reducible apply ih
      | with_reducible apply TW.writeSeg_is
      | (with_reducible refine TW.is_ite (fun _ => ?_) (fun _ => ?_)))

theorem TW.mergeFind_is {mk : Mark} (x : TW) (a n : Nat) (h : x.Is mk) :
    (TW.mergeFind x a n).Is mk := by
  unfold TW.mergeFind
  repeat' (first
    | with_reducible assumption
    | with_reducible apply TW.mergeErr_is
    | (extract_lets +onlyGivenNames z; with_reducible apply TW.is_cut (k := mk) (x := z); rotate_left; clear_value z; intro hz; rotate_right; subst z)
    | (extract_lets +onlyGivenNames z; with_reducible apply Tile.is_cut (k := mk) (t := z); rotate_left; clear_value z; intro hz; rotate_right; subst z)
    | extract_lets +onlyGivenNames z
    | split)

theorem TW.writeMarked_is {k : Mark} (x : TW) (a n v : Nat) (mark : Bool) (h : x.Is k) :
    (TW.writeMarked x a n v mark).Is k := by
  unfold TW.writeMarked
  repeat' (first
    | with_reducible assumption
    | with_reducible apply TW.writeRaw_is)

theorem Tile.grant_is {k : Mark} (t : Tile) (c bank rank : Nat) (h : t.Is k) :
    (Tile.grant t c bank rank).Is k := by
  unfold Tile.grant
  repeat' (first
    | with_reducible assumption
    | (refine Tile.is_lit ?_; dsimp only; exact Tile.Is.raw (by assumption)))

theorem TW.conflict_is {k : Mark} (x : TW) (h : x.Is k) :
    (TW.conflict x).Is k := by
  unfold TW.conflict
  repeat' (first
    | with_reducible assumption
    | with_reducible apply TW.count_is
    | with_reducible apply TW.perf_is)

theorem Tile.setGran_is {k : Mark} (t : Tile) (row : Nat) (g : Gran) (h : t.Is k) :
    (Tile.setGran t row g).Is k := by
  unfold Tile.setGran
  repeat' (first
    | with_reducible assumption
    | (refine Tile.is_lit ?_; dsimp only; exact Tile.Is.raw (by assumption)))

theorem Tile.penArrive_is {k : Mark} (t : Tile) (c : Nat) (h : t.Is k) :
    (Tile.penArrive t c).Is k := by
  unfold Tile.penArrive
  repeat' (first
    | with_reducible assumption
    | refine fun _ => ?_
    | with_reducible apply Tile.setGran_is
    | (extract_lets +onlyGivenNames z; with_reducible apply Tile.is_cut (t := z); rotate_left; clear_value z; intro hz; rotate_right; subst z)
    | with_reducible apply Tile.is_foldl
    | (refine Tile.is_lit ?_; dsimp only; exact Tile.Is.raw (by assumption))
    | (with_reducible refine Tile.is_ite (fun _ => ?_) (fun _ => ?_)))

theorem TW.commitList_is {k : Mark} (x : TW) (r0 : List (Nat × Nat × Nat × Nat × Bool)) (h : x.Is k) :
    (TW.commitList x r0).Is k := by
  induction r0 generalizing x with
  | nil =>
    unfold TW.commitList
    repeat' (first
      | with_reducible assumption
      | with_reducible apply TW.writeMarked_is)
  | cons e r0 ih =>
    unfold TW.commitList
    repeat' (first
      | with_reducible assumption
      | with_reducible apply ih
      | with_reducible apply TW.writeMarked_is)

theorem TW.commitSel_is {k : Mark} (x : TW) (sel : Nat → Nat → Bool) (h : x.Is k) :
    (TW.commitSel x sel).Is k := by
  unfold TW.commitSel
  repeat' (first
    | with_reducible assumption
    | refine fun _ => ?_
    | with_reducible apply TW.commitList_is
    | with_reducible apply TW.map_is
    | (refine Tile.is_lit ?_; dsimp only; exact Tile.Is.raw (by assumption))
    | (with_reducible refine TW.is_ite (fun _ => ?_) (fun _ => ?_)))

theorem TW.commitBefore_is {k : Mark} (x : TW) (c bank : Nat) (h : x.Is k) :
    (TW.commitBefore x c bank).Is k := by
  unfold TW.commitBefore
  repeat' (first
    | with_reducible assumption
    | with_reducible apply TW.commitSel_is)

theorem TW.commitLate_is {k : Mark} (x : TW) (r0 : List (Nat × Nat × Nat × Nat × List Bool)) (h : x.Is k) :
    (TW.commitLate x r0).Is k := by
  induction r0 generalizing x with
  | nil =>
    unfold TW.commitLate
    repeat' (first
      | with_reducible assumption
      | with_reducible apply TW.commitBefore_is
      | with_reducible apply TW.writeRaw_is)
  | cons e r0 ih =>
    unfold TW.commitLate
    repeat' (first
      | with_reducible assumption
      | with_reducible apply ih
      | with_reducible apply TW.commitBefore_is
      | with_reducible apply TW.writeRaw_is)

theorem TW.commitEngines_is {k : Mark} (x : TW) (c : Nat) (h : x.Is k) :
    (TW.commitEngines x c).Is k := by
  unfold TW.commitEngines
  repeat' (first
    | with_reducible assumption
    | refine fun _ => ?_
    | with_reducible apply TW.commitLate_is
    | with_reducible apply TW.map_is
    | (refine Tile.is_lit ?_; dsimp only; exact Tile.Is.raw (by assumption))
    | (with_reducible refine TW.is_ite (fun _ => ?_) (fun _ => ?_)))

theorem TW.commitDue_is {k : Mark} (x : TW) (c : Nat) (h : x.Is k) :
    (TW.commitDue x c).Is k := by
  unfold TW.commitDue
  repeat' (first
    | with_reducible assumption
    | refine fun _ => ?_
    | with_reducible apply TW.commitEngines_is
    | with_reducible apply TW.commitSel_is
    | with_reducible apply Tile.penArrive_is
    | with_reducible apply TW.map_is)

theorem TW.hazard_is {k : Mark} (x : TW) (c code : Nat) (a : Who) (b : Who) (addr : Nat) (blk : Bool) (h : x.Is k) :
    (TW.hazard x c code a b addr blk).Is k := by
  unfold TW.hazard
  repeat' (first
    | with_reducible assumption
    | refine fun _ => ?_
    | with_reducible apply TW.count_is
    | with_reducible refine TW.emit_is _ _ rfl ?_
    | with_reducible apply TW.map_is
    | (refine Tile.is_lit ?_; dsimp only; exact Tile.Is.raw (by assumption)))

theorem TW.penRead_is {k : Mark} (x : TW) (c : Nat) (who : Who) (a : Nat) (h : x.Is k) :
    (TW.penRead x c who a).Is k := by
  unfold TW.penRead
  repeat' (first
    | with_reducible assumption
    | with_reducible apply TW.hazard_is
    | (with_reducible refine TW.is_ite (fun _ => ?_) (fun _ => ?_)))

theorem TW.readPart_is {mk : Mark} (x : TW) (c : Nat) (k : AccKind) (who : Who) (a n : Nat) (h : x.Is mk) :
    (TW.readPart x c k who a n).2.Is mk := by
  unfold TW.readPart
  repeat' (first
    | with_reducible assumption
    | with_reducible apply TW.commitDue_is
    | with_reducible apply TW.penRead_is
    | with_reducible apply TW.readRaw_is
    | with_reducible apply TW.violation_is
    | (extract_lets +onlyGivenNames z; with_reducible apply TW.is_cut (x := z); rotate_left; clear_value z; intro hz; rotate_right; subst z)
    | split)

theorem TW.portRead_is {mk : Mark} (x : TW) (k : Nat) (who : Who) (row : Nat) (h : x.Is mk) :
    (TW.portRead x k who row).2.Is mk := by
  unfold TW.portRead
  repeat' (first
    | with_reducible assumption
    | with_reducible apply TW.readPart_is)

theorem TW.portStep_is {mk : Mark} (x : TW) (k : Nat) (who : Who) (rows : List Nat) (got : List PortRead) (busy : Bool) (h : x.Is mk) :
    (TW.portStep x k who rows got busy).2.Is mk := by
  unfold TW.portStep
  repeat' (first
    | with_reducible assumption
    | refine fun _ => ?_
    | with_reducible apply TW.conflict_is
    | with_reducible apply TW.portRead_is
    | with_reducible apply Tile.grant_is
    | with_reducible apply TW.map_is
    | with_reducible apply TW.Is.tile
    | split)

theorem TW.mulPort_is {mk : Mark} (x : TW) (k : Nat) (usedP usedQ : Bool) (h : x.Is mk) :
    (TW.mulPort x k usedP usedQ).Is mk := by
  unfold TW.mulPort
  repeat' (first
    | with_reducible assumption
    | refine fun _ => ?_
    | with_reducible apply TW.portStep_is
    | with_reducible apply TW.map_is
    | (refine Tile.is_lit ?_; dsimp only; exact Tile.Is.raw (by assumption))
    | with_reducible apply TW.Is.tile
    | split)

theorem TW.penWrite_is {k : Mark} (x : TW) (c : Nat) (who : Who) (a : Nat) (tag : Option Nat) (h : x.Is k) :
    (TW.penWrite x c who a tag).Is k := by
  unfold TW.penWrite
  repeat' (first
    | with_reducible assumption
    | refine fun _ => ?_
    | with_reducible apply TW.hazard_is
    | with_reducible apply Tile.setGran_is
    | with_reducible apply TW.map_is
    | (extract_lets +onlyGivenNames z; with_reducible apply TW.is_cut (x := z); rotate_left; clear_value z; intro hz; rotate_right; subst z)
    | extract_lets +onlyGivenNames z
    | split)

theorem TW.glzErr_is {k : Mark} (x : TW) (code stage : Nat) (h : x.Is k) :
    (TW.glzErr x code stage).Is k := by
  unfold TW.glzErr
  repeat' (first
    | with_reducible assumption
    | with_reducible apply TW.put_is)

theorem TW.glzFail_is {k : Mark} (x : TW) (op : Nat) (h : x.Is k) :
    (TW.glzFail x op).Is k := by
  unfold TW.glzFail
  repeat' (first
    | with_reducible assumption
    | refine fun _ => ?_
    | with_reducible apply TW.glzErr_is
    | with_reducible apply TW.map_is
    | (refine Tile.is_lit ?_; dsimp only; exact Tile.Is.raw (by assumption))
    | (with_reducible refine TW.is_ite (fun _ => ?_) (fun _ => ?_)))

theorem TW.glzPut_is {mk : Mark} (x : TW) (k : Nat) (w : GlzWrite) (h : x.Is mk) :
    (TW.glzPut x k w).Is mk := by
  unfold TW.glzPut
  repeat' (first
    | with_reducible assumption
    | refine fun _ => ?_
    | with_reducible apply TW.violation_is
    | with_reducible apply TW.mergeFind_is
    | with_reducible apply TW.penWrite_is
    | with_reducible apply TW.glzFail_is
    | with_reducible refine TW.emit_is _ _ rfl ?_
    | with_reducible apply TW.map_is
    | with_reducible apply TW.Is.tile
    | (extract_lets +onlyGivenNames z; with_reducible apply TW.is_cut (k := mk) (x := z); rotate_left; clear_value z; intro hz; rotate_right; subst z)
    | (extract_lets +onlyGivenNames z; with_reducible apply Tile.is_cut (k := mk) (t := z); rotate_left; clear_value z; intro hz; rotate_right; subst z)
    | extract_lets +onlyGivenNames z
    | (refine Tile.is_lit ?_; dsimp only; exact Tile.Is.raw (by assumption))
    | with_reducible refine TW.is_snd (by assumption) ?_
    | with_reducible refine TW.is_trd (by assumption) ?_
    | split)

theorem TW.glzWrites_is {mk : Mark} (x : TW) (k : Nat) (r0 : List GlzWrite) (r1 : Nat) (h : x.Is mk) :
    (TW.glzWrites x k r0 r1).2.2.Is mk := by
  induction r0 generalizing x k r1 with
  | nil =>
    cases r1
    all_goals unfold TW.glzWrites
    all_goals repeat' (first
      | with_reducible assumption
      | refine fun _ => ?_
      | with_reducible apply Tile.grant_is
      | with_reducible apply TW.conflict_is
      | with_reducible apply TW.glzPut_is
      | with_reducible apply TW.map_is
      | with_reducible apply TW.Is.tile
      | (extract_lets +onlyGivenNames z; with_reducible apply TW.is_cut (k := mk) (x := z); rotate_left; clear_value z; intro hz; rotate_right; subst z)
      | (extract_lets +onlyGivenNames z; with_reducible apply Tile.is_cut (k := mk) (t := z); rotate_left; clear_value z; intro hz; rotate_right; subst z)
      | extract_lets +onlyGivenNames z
      | (refine Tile.is_lit ?_; dsimp only; exact Tile.Is.raw (by assumption))
      | with_reducible refine TW.is_snd (by assumption) ?_
      | with_reducible refine TW.is_trd (by assumption) ?_
      | split)
  | cons e_ r0 ih =>
    cases r1
    all_goals unfold TW.glzWrites
    all_goals repeat' (first
      | with_reducible assumption
      | refine fun _ => ?_
      | with_reducible apply ih
      | with_reducible apply Tile.grant_is
      | with_reducible apply TW.conflict_is
      | with_reducible apply TW.glzPut_is
      | with_reducible apply TW.map_is
      | with_reducible apply TW.Is.tile
      | (extract_lets +onlyGivenNames z; with_reducible apply TW.is_cut (k := mk) (x := z); rotate_left; clear_value z; intro hz; rotate_right; subst z)
      | (extract_lets +onlyGivenNames z; with_reducible apply Tile.is_cut (k := mk) (t := z); rotate_left; clear_value z; intro hz; rotate_right; subst z)
      | extract_lets +onlyGivenNames z
      | (refine Tile.is_lit ?_; dsimp only; exact Tile.Is.raw (by assumption))
      | with_reducible refine TW.is_snd (by assumption) ?_
      | with_reducible refine TW.is_trd (by assumption) ?_
      | split)

theorem Tile.setGlz_is {mk : Mark} (t : Tile) (r : GlzRun) (h : t.Is mk) :
    (Tile.setGlz t r).Is mk := by
  unfold Tile.setGlz
  repeat' (first
    | with_reducible assumption
    | refine fun _ => ?_
    | with_reducible apply TW.map_is
    | (refine Tile.is_lit ?_; dsimp only; exact Tile.Is.raw (by assumption))
    | (with_reducible refine TW.is_ite (fun _ => ?_) (fun _ => ?_))
    | (with_reducible refine Tile.is_ite (fun _ => ?_) (fun _ => ?_)))

theorem TW.glzChain_is {mk : Mark} (x : TW) (k : Nat) (h : x.Is mk) :
    (TW.glzChain x k).2.Is mk := by
  unfold TW.glzChain
  repeat' (first
    | with_reducible assumption
    | refine fun _ => ?_
    | with_reducible apply Tile.grant_is
    | with_reducible apply TW.conflict_is
    | with_reducible apply TW.portRead_is
    | with_reducible apply Tile.setGlz_is
    | with_reducible apply TW.map_is
    | with_reducible apply TW.Is.tile
    | (extract_lets +onlyGivenNames z; with_reducible apply TW.is_cut (k := mk) (x := z); rotate_left; clear_value z; intro hz; rotate_right; subst z)
    | (extract_lets +onlyGivenNames z; with_reducible apply Tile.is_cut (k := mk) (t := z); rotate_left; clear_value z; intro hz; rotate_right; subst z)
    | extract_lets +onlyGivenNames z
    | (refine Tile.is_lit ?_; dsimp only; exact Tile.Is.raw (by assumption))
    | with_reducible refine TW.is_snd (by assumption) ?_
    | with_reducible refine TW.is_trd (by assumption) ?_
    | split)

theorem TW.glzReads_is {mk : Mark} (x : TW) (k : Nat) (who : Who) (r0 : List Nat) (r1 : Nat) (h : x.Is mk) :
    (TW.glzReads x k who r0 r1).2.Is mk := by
  induction r0 generalizing x k who r1 with
  | nil =>
    cases r1
    all_goals unfold TW.glzReads
    all_goals repeat' (first
      | with_reducible assumption
      | refine fun _ => ?_
      | with_reducible apply Tile.grant_is
      | with_reducible apply TW.conflict_is
      | with_reducible apply TW.portRead_is
      | with_reducible apply TW.map_is
      | (refine Tile.is_lit ?_; dsimp only; exact Tile.Is.raw (by assumption))
      | with_reducible apply TW.Is.tile
      | with_reducible refine TW.is_snd (by assumption) ?_
      | with_reducible refine TW.is_trd (by assumption) ?_
      | split)
  | cons e_ r0 ih =>
    cases r1
    all_goals unfold TW.glzReads
    all_goals repeat' (first
      | with_reducible assumption
      | refine fun _ => ?_
      | with_reducible apply ih
      | with_reducible apply Tile.grant_is
      | with_reducible apply TW.conflict_is
      | with_reducible apply TW.portRead_is
      | with_reducible apply TW.map_is
      | (refine Tile.is_lit ?_; dsimp only; exact Tile.Is.raw (by assumption))
      | with_reducible apply TW.Is.tile
      | with_reducible refine TW.is_snd (by assumption) ?_
      | with_reducible refine TW.is_trd (by assumption) ?_
      | split)

theorem TW.penAcc_is {k : Mark} (x : TW) (c b : Nat) (who : Who) (h : x.Is k) :
    (TW.penAcc x c b who).Is k := by
  unfold TW.penAcc
  repeat' (first
    | with_reducible assumption
    | with_reducible apply TW.hazard_is
    | split)

theorem TW.glzAcc_is {mk : Mark} (x : TW) (k : Nat) (r : GlzRun) (h : x.Is mk) :
    (TW.glzAcc x k r).2.Is mk := by
  unfold TW.glzAcc
  repeat' (first
    | with_reducible assumption
    | refine fun _ => ?_
    | with_reducible apply TW.count_is
    | with_reducible apply Tile.grant_is
    | with_reducible apply TW.penAcc_is
    | with_reducible apply TW.map_is
    | with_reducible apply TW.Is.tile
    | (extract_lets +onlyGivenNames z; with_reducible apply TW.is_cut (k := mk) (x := z); rotate_left; clear_value z; intro hz; rotate_right; subst z)
    | (extract_lets +onlyGivenNames z; with_reducible apply Tile.is_cut (k := mk) (t := z); rotate_left; clear_value z; intro hz; rotate_right; subst z)
    | extract_lets +onlyGivenNames z
    | (refine Tile.is_lit ?_; dsimp only; exact Tile.Is.raw (by assumption))
    | split)

theorem TW.glzBeatReads_is {mk : Mark} (x : TW) (k n : Nat) (h : x.Is mk) :
    (TW.glzBeatReads x k n).Is mk := by
  unfold TW.glzBeatReads
  repeat' (first
    | with_reducible assumption
    | refine fun _ => ?_
    | with_reducible apply Tile.setGlz_is
    | with_reducible apply TW.glzReads_is
    | with_reducible apply TW.glzAcc_is
    | with_reducible apply TW.map_is
    | with_reducible apply TW.Is.tile
    | (extract_lets +onlyGivenNames z; with_reducible apply TW.is_cut (k := mk) (x := z); rotate_left; clear_value z; intro hz; rotate_right; subst z)
    | (extract_lets +onlyGivenNames z; with_reducible apply Tile.is_cut (k := mk) (t := z); rotate_left; clear_value z; intro hz; rotate_right; subst z)
    | extract_lets +onlyGivenNames z
    | (refine Tile.is_lit ?_; dsimp only; exact Tile.Is.raw (by assumption))
    | (refine Tile.is_lit ?_; dsimp only [Tile.setGlz]; exact Tile.Is.raw (by assumption))
    | with_reducible refine TW.is_snd (by assumption) ?_
    | with_reducible refine TW.is_trd (by assumption) ?_
    | split)

theorem TW.penDone_is {mk : Mark} (x : TW) (unit op : Nat) (h : x.Is mk) :
    (TW.penDone x unit op).Is mk := by
  unfold TW.penDone
  repeat' (first
    | with_reducible assumption
    | refine fun _ => ?_
    | with_reducible apply TW.map_is
    | with_reducible apply TW.Is.tile
    | (extract_lets +onlyGivenNames z; with_reducible apply TW.is_cut (k := mk) (x := z); rotate_left; clear_value z; intro hz; rotate_right; subst z)
    | (extract_lets +onlyGivenNames z; with_reducible apply Tile.is_cut (k := mk) (t := z); rotate_left; clear_value z; intro hz; rotate_right; subst z)
    | extract_lets +onlyGivenNames z
    | (refine Tile.is_lit ?_; dsimp only; exact Tile.Is.raw (by assumption))
    | with_reducible refine TW.is_snd (by assumption) ?_
    | with_reducible refine TW.is_trd (by assumption) ?_
    | split)

theorem TW.glzMarks_is {mk : Mark} (x : TW) (h : x.Is mk) :
    (TW.glzMarks x).Is mk := by
  unfold TW.glzMarks
  repeat' (first
    | with_reducible assumption
    | refine fun _ => ?_
    | with_reducible apply TW.penDone_is
    | with_reducible apply TW.Is.tile
    | with_reducible apply TW.is_foldl
    | with_reducible apply Tile.is_foldl
    | (with_reducible refine TW.is_ite (fun _ => ?_) (fun _ => ?_))
    | (with_reducible refine Tile.is_ite (fun _ => ?_) (fun _ => ?_)))

theorem TW.glzPort_is {mk : Mark} (x : TW) (k : Nat) (h : x.Is mk) :
    (TW.glzPort x k).Is mk := by
  unfold TW.glzPort
  repeat' (first
    | with_reducible assumption
    | refine fun _ => ?_
    | with_reducible apply TW.glzWrites_is
    | with_reducible apply TW.glzChain_is
    | with_reducible apply TW.glzBeatReads_is
    | with_reducible apply TW.glzMarks_is
    | with_reducible apply TW.map_is
    | with_reducible apply TW.Is.tile
    | with_reducible apply TW.is_foldl
    | with_reducible apply Tile.is_foldl
    | with_reducible apply TW.is_foldl_snd
    | (extract_lets +onlyGivenNames z; with_reducible apply TW.is_cut (k := mk) (x := z); rotate_left; clear_value z; intro hz; rotate_right; subst z)
    | (extract_lets +onlyGivenNames z; with_reducible apply Tile.is_cut (k := mk) (t := z); rotate_left; clear_value z; intro hz; rotate_right; subst z)
    | extract_lets +onlyGivenNames z
    | (refine Tile.is_lit ?_; dsimp only; exact Tile.Is.raw (by assumption))
    | with_reducible refine TW.is_snd (by assumption) ?_
    | with_reducible refine TW.is_trd (by assumption) ?_
    | split)

theorem TW.writePart_is {mk : Mark} (x : TW) (c : Nat) (who : Who) (a n v : Nat) (marks : List Bool) (h : x.Is mk) :
    (TW.writePart x c who a n v marks).2.Is mk := by
  unfold TW.writePart
  repeat' (first
    | with_reducible assumption
    | with_reducible apply TW.violation_is
    | with_reducible apply TW.writeRaw_is
    | with_reducible apply TW.penWrite_is
    | with_reducible apply TW.commitBefore_is
    | with_reducible apply TW.commitDue_is
    | with_reducible apply TW.Is.tile
    | (extract_lets +onlyGivenNames z; with_reducible apply TW.is_cut (k := mk) (x := z); rotate_left; clear_value z; intro hz; rotate_right; subst z)
    | (extract_lets +onlyGivenNames z; with_reducible apply Tile.is_cut (k := mk) (t := z); rotate_left; clear_value z; intro hz; rotate_right; subst z)
    | extract_lets +onlyGivenNames z
    | split)

theorem TW.edgeTake_is {mk : Mark} (x : TW) (k : Nat) (q : EdgeReq) (h : x.Is mk) :
    (TW.edgeTake x k q).Is mk := by
  unfold TW.edgeTake
  repeat' (first
    | with_reducible assumption
    | with_reducible apply TW.readPart_is
    | with_reducible apply TW.writePart_is
    | with_reducible refine TW.emit_is _ _ rfl ?_
    | with_reducible apply TW.perf_is
    | with_reducible apply TW.Is.tile
    | with_reducible refine TW.is_snd (by assumption) ?_
    | with_reducible refine TW.is_trd (by assumption) ?_
    | split)

theorem TW.vrnPort_is {mk : Mark} (x : TW) (k : Nat) (h : x.Is mk) :
    (TW.vrnPort x k).Is mk := by
  unfold TW.vrnPort
  repeat' (first
    | with_reducible assumption
    | refine fun _ => ?_
    | with_reducible apply TW.readSegs_is
    | with_reducible apply Tile.grant_is
    | with_reducible apply TW.conflict_is
    | with_reducible apply TW.perf_is
    | with_reducible apply TW.map_is
    | with_reducible apply TW.Is.tile
    | (extract_lets +onlyGivenNames z; with_reducible apply TW.is_cut (k := mk) (x := z); rotate_left; clear_value z; intro hz; rotate_right; subst z)
    | (extract_lets +onlyGivenNames z; with_reducible apply Tile.is_cut (k := mk) (t := z); rotate_left; clear_value z; intro hz; rotate_right; subst z)
    | extract_lets +onlyGivenNames z
    | (refine Tile.is_lit ?_; dsimp only; exact Tile.Is.raw (by assumption))
    | (refine Tile.is_lit ?_; dsimp only [Tile.grant]; exact Tile.Is.raw (by assumption))
    | with_reducible refine TW.is_snd (by assumption) ?_
    | with_reducible refine TW.is_trd (by assumption) ?_
    | split)

theorem TW.edgePort_is {mk : Mark} (x : TW) (k : Nat) (h : x.Is mk) :
    (TW.edgePort x k).Is mk := by
  unfold TW.edgePort
  repeat' (first
    | with_reducible assumption
    | refine fun _ => ?_
    | with_reducible apply Tile.grant_is
    | with_reducible apply TW.conflict_is
    | with_reducible apply TW.edgeTake_is
    | with_reducible apply TW.vrnPort_is
    | with_reducible apply TW.map_is
    | with_reducible apply TW.Is.tile
    | (extract_lets +onlyGivenNames z; with_reducible apply TW.is_cut (k := mk) (x := z); rotate_left; clear_value z; intro hz; rotate_right; subst z)
    | (extract_lets +onlyGivenNames z; with_reducible apply Tile.is_cut (k := mk) (t := z); rotate_left; clear_value z; intro hz; rotate_right; subst z)
    | extract_lets +onlyGivenNames z
    | (refine Tile.is_lit ?_; dsimp only; exact Tile.Is.raw (by assumption))
    | (refine Tile.is_lit ?_; dsimp only [Tile.grant]; exact Tile.Is.raw (by assumption))
    | with_reducible refine TW.is_snd (by assumption) ?_
    | split)

theorem TW.portCycle_is {mk : Mark} (x : TW) (k : Nat) (usedP usedQ : Bool) (h : x.Is mk) :
    (TW.portCycle x k usedP usedQ).Is mk := by
  unfold TW.portCycle
  repeat' (first
    | with_reducible assumption
    | refine fun _ => ?_
    | with_reducible apply TW.commitDue_is
    | with_reducible apply TW.mulPort_is
    | with_reducible apply TW.glzPort_is
    | with_reducible apply TW.edgePort_is
    | with_reducible apply TW.map_is
    | with_reducible apply TW.Is.tile
    | (extract_lets +onlyGivenNames z; with_reducible apply TW.is_cut (k := mk) (x := z); rotate_left; clear_value z; intro hz; rotate_right; subst z)
    | (extract_lets +onlyGivenNames z; with_reducible apply Tile.is_cut (k := mk) (t := z); rotate_left; clear_value z; intro hz; rotate_right; subst z)
    | extract_lets +onlyGivenNames z
    | (refine Tile.is_lit ?_; dsimp only; exact Tile.Is.raw (by assumption))
    | (with_reducible refine TW.is_ite (fun _ => ?_) (fun _ => ?_))
    | (with_reducible refine Tile.is_ite (fun _ => ?_) (fun _ => ?_)))

theorem TW.portsGo_is {mk : Mark} (x : TW) (k : Nat) (r0 : Nat) (h : x.Is mk) :
    (TW.portsGo x k r0).Is mk := by
  induction r0 generalizing x k with
  | zero =>
    unfold TW.portsGo
    repeat' (first
      | with_reducible assumption
      | with_reducible apply TW.portCycle_is)
  | succ r0 ih =>
    unfold TW.portsGo
    repeat' (first
      | with_reducible assumption
      | with_reducible apply ih
      | with_reducible apply TW.portCycle_is)

theorem TW.ports_is {mk : Mark} (x : TW) (c : Nat) (h : x.Is mk) :
    (TW.ports x c).Is mk := by
  unfold TW.ports
  repeat' (first
    | with_reducible assumption
    | refine fun _ => ?_
    | with_reducible apply TW.portsGo_is
    | with_reducible apply TW.map_is
    | with_reducible apply TW.Is.tile
    | (extract_lets +onlyGivenNames z; with_reducible apply TW.is_cut (k := mk) (x := z); rotate_left; clear_value z; intro hz; rotate_right; subst z)
    | (extract_lets +onlyGivenNames z; with_reducible apply Tile.is_cut (k := mk) (t := z); rotate_left; clear_value z; intro hz; rotate_right; subst z)
    | extract_lets +onlyGivenNames z
    | (refine Tile.is_lit ?_; dsimp only; exact Tile.Is.raw (by assumption))
    | (with_reducible refine TW.is_ite (fun _ => ?_) (fun _ => ?_))
    | (with_reducible refine Tile.is_ite (fun _ => ?_) (fun _ => ?_)))

theorem TW.accRequest_is {mk : Mark} (x : TW) (c blk rank : Nat) (r0 : Nat) (h : x.Is mk) :
    (TW.accRequest x c blk rank r0).2.Is mk := by
  induction r0 generalizing x c blk rank with
  | zero =>
    unfold TW.accRequest
    repeat' (first
      | with_reducible assumption
      | refine fun _ => ?_
      | with_reducible apply TW.count_is
      | with_reducible apply Tile.grant_is
      | with_reducible apply TW.ports_is
      | with_reducible apply TW.map_is
      | with_reducible apply TW.Is.tile
      | (extract_lets +onlyGivenNames z; with_reducible apply TW.is_cut (k := mk) (x := z); rotate_left; clear_value z; intro hz; rotate_right; subst z)
      | (extract_lets +onlyGivenNames z; with_reducible apply Tile.is_cut (k := mk) (t := z); rotate_left; clear_value z; intro hz; rotate_right; subst z)
      | extract_lets +onlyGivenNames z
      | (refine Tile.is_lit ?_; dsimp only; exact Tile.Is.raw (by assumption))
      | split)
  | succ r0 ih =>
    unfold TW.accRequest
    repeat' (first
      | with_reducible assumption
      | refine fun _ => ?_
      | with_reducible apply ih
      | with_reducible apply TW.count_is
      | with_reducible apply Tile.grant_is
      | with_reducible apply TW.ports_is
      | with_reducible apply TW.map_is
      | with_reducible apply TW.Is.tile
      | (extract_lets +onlyGivenNames z; with_reducible apply TW.is_cut (k := mk) (x := z); rotate_left; clear_value z; intro hz; rotate_right; subst z)
      | (extract_lets +onlyGivenNames z; with_reducible apply Tile.is_cut (k := mk) (t := z); rotate_left; clear_value z; intro hz; rotate_right; subst z)
      | extract_lets +onlyGivenNames z
      | (refine Tile.is_lit ?_; dsimp only; exact Tile.Is.raw (by assumption))
      | split)

theorem TW.accGrant_is {mk : Mark} (x : TW) (c blk rank : Nat) (h : x.Is mk) :
    (TW.accGrant x c blk rank).2.Is mk := by
  unfold TW.accGrant
  repeat' (first
    | with_reducible assumption
    | with_reducible apply TW.accRequest_is)

theorem TW.penPending_is {k : Mark} (x : TW) (who : Who) (row : Nat) (r0 : Nat) (h : x.Is k) :
    (TW.penPending x who row r0).Is k := by
  induction r0 generalizing x who row with
  | zero =>
    unfold TW.penPending
    repeat' (first
      | with_reducible assumption
      | refine fun _ => ?_
      | with_reducible apply Tile.setGran_is
      | with_reducible apply TW.map_is
      | (with_reducible refine TW.is_ite (fun _ => ?_) (fun _ => ?_)))
  | succ r0 ih =>
    unfold TW.penPending
    repeat' (first
      | with_reducible assumption
      | refine fun _ => ?_
      | with_reducible apply ih
      | with_reducible apply Tile.setGran_is
      | with_reducible apply TW.map_is
      | (with_reducible refine TW.is_ite (fun _ => ?_) (fun _ => ?_)))

theorem TW.overlay_is {k : Mark} (x : TW) (h : x.Is k) :
    (TW.overlay x).Is k := by
  have hc := TW.commitList_is x x.t.stores h
  exact ⟨hc.tile, hc.env, h.quiet⟩

theorem TW.partWrite_is {mk : Mark} (x : TW) (c k : Nat) (m v : Word) (h : x.Is mk) :
    (TW.partWrite x c k m v).Is mk := by
  unfold TW.partWrite
  repeat' (first
    | with_reducible assumption
    | refine fun _ => ?_
    | with_reducible apply TW.put_is
    | with_reducible apply TW.map_is
    | (refine Tile.is_lit ?_; dsimp only; exact Tile.Is.raw (by assumption))
    | (with_reducible refine TW.is_ite (fun _ => ?_) (fun _ => ?_)))

theorem TW.commitStores_is {k : Mark} (x : TW) (c : Nat) (h : x.Is k) :
    (TW.commitStores x c).Is k := by
  unfold TW.commitStores
  repeat' (first
    | with_reducible assumption
    | with_reducible apply TW.commitDue_is
    | with_reducible apply TW.ports_is)

theorem TW.requestGo_is {k : Mark} (x : TW) (c bank rank : Nat) (r0 : Nat) (h : x.Is k) :
    (TW.requestGo x c bank rank r0).2.Is k := by
  induction r0 generalizing x c bank rank with
  | zero =>
    unfold TW.requestGo
    repeat' (first
      | with_reducible assumption
      | refine fun _ => ?_
      | with_reducible apply TW.conflict_is
      | with_reducible apply TW.ports_is
      | with_reducible apply Tile.grant_is
      | with_reducible apply TW.map_is
      | (extract_lets +onlyGivenNames z; with_reducible apply TW.is_cut (x := z); rotate_left; clear_value z; intro hz; rotate_right; subst z)
      | split)
  | succ r0 ih =>
    unfold TW.requestGo
    repeat' (first
      | with_reducible assumption
      | refine fun _ => ?_
      | with_reducible apply ih
      | with_reducible apply TW.conflict_is
      | with_reducible apply TW.ports_is
      | with_reducible apply Tile.grant_is
      | with_reducible apply TW.map_is
      | (extract_lets +onlyGivenNames z; with_reducible apply TW.is_cut (x := z); rotate_left; clear_value z; intro hz; rotate_right; subst z)
      | split)

theorem TW.claim_is {mk : Mark} (x : TW) (c bank rank : Nat) (h : x.Is mk) :
    (TW.claim x c bank rank).2.Is mk := by
  unfold TW.claim
  repeat' (first
    | with_reducible assumption
    | with_reducible apply TW.requestGo_is)

theorem Tile.rxZero_is {mk : Mark} (t : Tile) (k : Nat) (h : t.Is mk) :
    (Tile.rxZero t k).Is mk := by
  unfold Tile.rxZero
  repeat' (first
    | with_reducible assumption
    | (refine Tile.is_lit ?_; dsimp only; exact Tile.Is.raw (by assumption)))

theorem Tile.rxClose_is {mk : Mark} (t : Tile) (k : Nat) (h : t.Is mk) :
    (Tile.rxClose t k).Is mk := by
  unfold Tile.rxClose
  repeat' (first
    | with_reducible assumption
    | with_reducible apply Tile.put_is
    | with_reducible apply Tile.rxZero_is)

theorem TW.rxCfgWrite_is {mk : Mark} (x : TW) (k : Nat) (m v : Word) (h : x.Is mk) :
    (TW.rxCfgWrite x k m v).Is mk := by
  unfold TW.rxCfgWrite
  repeat' (first
    | with_reducible assumption
    | refine fun _ => ?_
    | with_reducible refine TW.emit_is _ _ rfl ?_
    | with_reducible apply TW.penPending_is
    | with_reducible apply TW.put_is
    | with_reducible apply Tile.put_is
    | with_reducible apply Tile.rxClose_is
    | with_reducible apply Tile.rxZero_is
    | with_reducible apply TW.map_is
    | extract_lets +onlyGivenNames z
    | with_reducible apply TW.Is.tile
    | (refine Tile.is_lit ?_; dsimp only; exact Tile.Is.raw (by assumption))
    | split)

theorem TW.rxReleaseGo_is {mk : Mark} (x : TW) (k nbuf : Nat) (r0 : Nat) (r1 : Nat) (h : x.Is mk) :
    (TW.rxReleaseGo x k nbuf r0 r1).2.Is mk := by
  induction r0 generalizing x r1 with
  | zero => exact h
  | succ r0 ih =>
    unfold TW.rxReleaseGo
    extract_lets filled rel i y z
    split
    · exact h
    · have hy : y.Is mk := TW.map_is _ _ (fun t ht => Tile.put_is _ _ _ (Tile.is_lit ht.raw)) h
      have hz : z.Is mk := by
        subst z
        split
        · exact TW.is_ite (fun _ => TW.penPending_is _ _ _ _ hy) (fun _ => hy)
        · exact hy
      exact ih _ _ (TW.put_is _ _ _ hz)

theorem TW.rxRelWrite_is {mk : Mark} (x : TW) (k n : Nat) (h : x.Is mk) :
    (TW.rxRelWrite x k n).Is mk := by
  unfold TW.rxRelWrite
  split
  · exact TW.put_is _ _ _ h
  · have hd : (if x.get (TF.PAL_RXCFG.enable k) = 1 then x.rxReleaseGo k (x.t.rxNbuf k) n 0 else (0, x)).2.Is mk := by
      split
      · exact TW.rxReleaseGo_is _ _ _ _ _ h
      · exact h
    generalize (if x.get (TF.PAL_RXCFG.enable k) = 1 then x.rxReleaseGo k (x.t.rxNbuf k) n 0 else (0, x)) = p at hd ⊢
    obtain ⟨d, y⟩ := p
    dsimp only
    have hz := TW.is_ite (k := mk) (c := d = 0) (fun _ => hd) (fun _ => TW.emit_is _ (.credits
      (x.get (TF.PAL_RXCFG.flow_id k)) (x.get (TF.PAL_RXCFG.epoch k)) k (x.get (TF.PAL_RXCNT.released k) % x.t.rxNbuf k) d
      (x.t.rxNbuf k - 1) (x.t.rxRows k - 1) ((x.t.rxPart k).elim 0 partBase)) rfl hd)
    split
    · exact TW.put_is _ _ _ hz
    · exact hz

theorem TW.patrolWrite_is {k : Mark} (x : TW) (c v : Nat) (h : x.Is k) :
    (TW.patrolWrite x c v).Is k := by
  unfold TW.patrolWrite
  repeat' (first
    | with_reducible assumption
    | refine fun _ => ?_
    | with_reducible apply TW.put_is
    | with_reducible apply TW.map_is
    | (refine Tile.is_lit ?_; dsimp only; exact Tile.Is.raw (by assumption))
    | (with_reducible refine TW.is_ite (fun _ => ?_) (fun _ => ?_)))

theorem TW.rowGranted_is {mk : Mark} (x : TW) (r st k : Nat) (h : x.Is mk) :
    (TW.rowGranted x r st k).Is mk := by
  unfold TW.rowGranted
  repeat' (first
    | with_reducible assumption
    | refine fun _ => ?_
    | with_reducible apply TW.readSegs_is
    | with_reducible apply TW.commitDue_is
    | with_reducible apply TW.map_is
    | with_reducible apply TW.Is.tile
    | (extract_lets +onlyGivenNames z; with_reducible apply TW.is_cut (k := mk) (x := z); rotate_left; clear_value z; intro hz; rotate_right; subst z)
    | (extract_lets +onlyGivenNames z; with_reducible apply Tile.is_cut (k := mk) (t := z); rotate_left; clear_value z; intro hz; rotate_right; subst z)
    | extract_lets +onlyGivenNames z
    | (refine Tile.is_lit ?_; dsimp only; exact Tile.Is.raw (by assumption))
    | with_reducible refine TW.is_snd (by assumption) ?_
    | with_reducible refine TW.is_trd (by assumption) ?_
    | split)

theorem TW.fetchTo_is {mk : Mark} (x : TW) (c : Nat) (h : x.Is mk) :
    (TW.fetchTo x c).Is mk := by
  unfold TW.fetchTo
  repeat' (first
    | with_reducible assumption
    | refine fun _ => ?_
    | with_reducible apply TW.requestGo_is
    | with_reducible apply TW.rowGranted_is
    | with_reducible apply TW.map_is
    | with_reducible apply TW.Is.tile
    | (extract_lets +onlyGivenNames z; with_reducible apply TW.is_cut (k := mk) (x := z); rotate_left; clear_value z; intro hz; rotate_right; subst z)
    | (extract_lets +onlyGivenNames z; with_reducible apply Tile.is_cut (k := mk) (t := z); rotate_left; clear_value z; intro hz; rotate_right; subst z)
    | extract_lets +onlyGivenNames z
    | (refine Tile.is_lit ?_; dsimp only; exact Tile.Is.raw (by assumption))
    | with_reducible refine TW.is_snd (by assumption) ?_
    | with_reducible refine TW.is_trd (by assumption) ?_
    | split)

theorem TW.startRow_is {mk : Mark} (x : TW) (r c : Nat) (h : x.Is mk) :
    (TW.startRow x r c).Is mk := by
  unfold TW.startRow
  repeat' (first
    | with_reducible assumption
    | refine fun _ => ?_
    | with_reducible apply TW.map_is
    | (extract_lets +onlyGivenNames z; with_reducible apply TW.is_cut (k := mk) (x := z); rotate_left; clear_value z; intro hz; rotate_right; subst z)
    | (extract_lets +onlyGivenNames z; with_reducible apply Tile.is_cut (k := mk) (t := z); rotate_left; clear_value z; intro hz; rotate_right; subst z)
    | extract_lets +onlyGivenNames z
    | (refine Tile.is_lit ?_; dsimp only; exact Tile.Is.raw (by assumption)))

theorem TW.fetchRow_is {mk : Mark} (x : TW) (h : x.Is mk) :
    (TW.fetchRow x).Is mk := by
  unfold TW.fetchRow
  repeat' (first
    | with_reducible assumption
    | with_reducible apply TW.requestGo_is
    | with_reducible apply TW.rowGranted_is
    | with_reducible apply TW.startRow_is
    | with_reducible apply TW.Is.tile
    | (extract_lets +onlyGivenNames z; with_reducible apply TW.is_cut (k := mk) (x := z); rotate_left; clear_value z; intro hz; rotate_right; subst z)
    | (extract_lets +onlyGivenNames z; with_reducible apply Tile.is_cut (k := mk) (t := z); rotate_left; clear_value z; intro hz; rotate_right; subst z)
    | extract_lets +onlyGivenNames z
    | with_reducible refine TW.is_snd (by assumption) ?_
    | with_reducible refine TW.is_trd (by assumption) ?_
    | split)

theorem TW.enterRow_is {mk : Mark} (x : TW) (c : Nat) (port : Bool) (h : x.Is mk) :
    (TW.enterRow x c port).Is mk := by
  unfold TW.enterRow
  repeat' (first
    | with_reducible assumption
    | refine fun _ => ?_
    | with_reducible apply TW.fetchTo_is
    | with_reducible apply TW.startRow_is
    | with_reducible apply TW.map_is
    | with_reducible apply TW.Is.tile
    | (extract_lets +onlyGivenNames z; with_reducible apply TW.is_cut (k := mk) (x := z); rotate_left; clear_value z; intro hz; rotate_right; subst z)
    | (extract_lets +onlyGivenNames z; with_reducible apply Tile.is_cut (k := mk) (t := z); rotate_left; clear_value z; intro hz; rotate_right; subst z)
    | extract_lets +onlyGivenNames z
    | (refine Tile.is_lit ?_; dsimp only; exact Tile.Is.raw (by assumption))
    | with_reducible refine TW.is_snd (by assumption) ?_
    | with_reducible refine TW.is_trd (by assumption) ?_
    | split)

theorem Tile.displaceRow_is {mk : Mark} (t : Tile) (c : Nat) (h : t.Is mk) :
    (Tile.displaceRow t c).Is mk := by
  unfold Tile.displaceRow
  repeat' (first
    | with_reducible assumption
    | (extract_lets +onlyGivenNames z; with_reducible apply TW.is_cut (k := mk) (x := z); rotate_left; clear_value z; intro hz; rotate_right; subst z)
    | (extract_lets +onlyGivenNames z; with_reducible apply Tile.is_cut (k := mk) (t := z); rotate_left; clear_value z; intro hz; rotate_right; subst z)
    | extract_lets +onlyGivenNames z
    | (refine Tile.is_lit ?_; dsimp only; exact Tile.Is.raw (by assumption))
    | with_reducible refine TW.is_snd (by assumption) ?_
    | with_reducible refine TW.is_trd (by assumption) ?_
    | split)

theorem Tile.rowSlip_is {mk : Mark} (t : Tile) (lo : Nat) (h : t.Is mk) :
    (Tile.rowSlip t lo).Is mk := by
  unfold Tile.rowSlip
  repeat' (first
    | with_reducible assumption
    | (extract_lets +onlyGivenNames z; with_reducible apply TW.is_cut (k := mk) (x := z); rotate_left; clear_value z; intro hz; rotate_right; subst z)
    | (extract_lets +onlyGivenNames z; with_reducible apply Tile.is_cut (k := mk) (t := z); rotate_left; clear_value z; intro hz; rotate_right; subst z)
    | extract_lets +onlyGivenNames z
    | (refine Tile.is_lit ?_; dsimp only; exact Tile.Is.raw (by assumption))
    | with_reducible refine TW.is_snd (by assumption) ?_
    | split)

theorem TW.issueCounts_is {mk : Mark} (x : TW) (c0 c cReg cRow q : Nat) (taken : Bool) (h : x.Is mk) :
    (TW.issueCounts x c0 c cReg cRow q taken).Is mk := by
  unfold TW.issueCounts
  repeat' (first
    | with_reducible assumption
    | with_reducible apply TW.perfOf_is
    | with_reducible apply TW.perf_is
    | with_reducible apply TW.Is.tile
    | (extract_lets +onlyGivenNames z; with_reducible apply TW.is_cut (k := mk) (x := z); rotate_left; clear_value z; intro hz; rotate_right; subst z)
    | (extract_lets +onlyGivenNames z; with_reducible apply Tile.is_cut (k := mk) (t := z); rotate_left; clear_value z; intro hz; rotate_right; subst z)
    | extract_lets +onlyGivenNames z
    | (with_reducible refine TW.is_ite (fun _ => ?_) (fun _ => ?_))
    | (with_reducible refine Tile.is_ite (fun _ => ?_) (fun _ => ?_)))

theorem Tile.lostAt_is {mk : Mark} (t : Tile) (c : Nat) (h : t.Is mk) :
    (Tile.lostAt t c).Is mk := by
  unfold Tile.lostAt
  repeat' (first
    | with_reducible assumption
    | (refine Tile.is_lit ?_; dsimp only; exact Tile.Is.raw (by assumption))
    | (with_reducible refine TW.is_ite (fun _ => ?_) (fun _ => ?_))
    | (with_reducible refine Tile.is_ite (fun _ => ?_) (fun _ => ?_)))

theorem TW.portGo_is {mk : Mark} (x : TW) (sh : Shape) (c : Nat) (r0 : Nat) (h : x.Is mk) :
    (TW.portGo x sh c r0).2.2.Is mk := by
  induction r0 generalizing x sh c with
  | zero =>
    unfold TW.portGo
    repeat' (first
      | with_reducible assumption
      | refine fun _ => ?_
      | with_reducible apply Tile.grant_is
      | with_reducible apply TW.conflict_is
      | with_reducible apply TW.ports_is
      | with_reducible apply Tile.lostAt_is
      | with_reducible apply TW.perf_is
      | with_reducible apply TW.map_is
      | with_reducible apply TW.Is.tile
      | (extract_lets +onlyGivenNames z; with_reducible apply TW.is_cut (k := mk) (x := z); rotate_left; clear_value z; intro hz; rotate_right; subst z)
      | (extract_lets +onlyGivenNames z; with_reducible apply Tile.is_cut (k := mk) (t := z); rotate_left; clear_value z; intro hz; rotate_right; subst z)
      | extract_lets +onlyGivenNames z
      | (refine Tile.is_lit ?_; dsimp only; exact Tile.Is.raw (by assumption))
      | with_reducible refine TW.is_snd (by assumption) ?_
      | with_reducible refine TW.is_trd (by assumption) ?_
      | split)
  | succ r0 ih =>
    unfold TW.portGo
    repeat' (first
      | with_reducible assumption
      | refine fun _ => ?_
      | with_reducible apply ih
      | with_reducible apply Tile.grant_is
      | with_reducible apply TW.conflict_is
      | with_reducible apply TW.ports_is
      | with_reducible apply Tile.lostAt_is
      | with_reducible apply TW.perf_is
      | with_reducible apply TW.map_is
      | with_reducible apply TW.Is.tile
      | (extract_lets +onlyGivenNames z; with_reducible apply TW.is_cut (k := mk) (x := z); rotate_left; clear_value z; intro hz; rotate_right; subst z)
      | (extract_lets +onlyGivenNames z; with_reducible apply Tile.is_cut (k := mk) (t := z); rotate_left; clear_value z; intro hz; rotate_right; subst z)
      | extract_lets +onlyGivenNames z
      | (refine Tile.is_lit ?_; dsimp only; exact Tile.Is.raw (by assumption))
      | with_reducible refine TW.is_snd (by assumption) ?_
      | with_reducible refine TW.is_trd (by assumption) ?_
      | split)

theorem TW.portAt_is {mk : Mark} (x : TW) (c : Nat) (sh : Shape) (h : x.Is mk) :
    (TW.portAt x c sh).2.Is mk := by
  unfold TW.portAt
  repeat' (first
    | with_reducible assumption
    | refine fun _ => ?_
    | with_reducible apply TW.enterRow_is
    | with_reducible apply Tile.displaceRow_is
    | with_reducible apply TW.portGo_is
    | with_reducible apply TW.map_is
    | (refine Tile.is_lit ?_; dsimp only; exact Tile.Is.raw (by assumption))
    | with_reducible refine TW.is_snd (by assumption) ?_
    | with_reducible refine TW.is_trd (by assumption) ?_
    | split)

theorem TW.regRead_is {k : Mark} (x : TW) (c off n : Nat) (h : x.Is k) :
    (TW.regRead x c off n).2.Is k := by
  unfold TW.regRead
  repeat' (first
    | with_reducible assumption
    | refine fun _ => ?_
    | with_reducible apply TW.put_is
    | with_reducible apply TW.map_is
    | (extract_lets +onlyGivenNames z; with_reducible apply TW.is_cut (x := z); rotate_left; clear_value z; intro hz; rotate_right; subst z)
    | extract_lets +onlyGivenNames z
    | with_reducible apply TW.Is.tile
    | (refine Tile.is_lit ?_; dsimp only; exact Tile.Is.raw (by assumption))
    | split)

theorem TW.regWrite_is {mk : Mark} (x : TW) (c off n v : Nat) (h : x.Is mk) :
    (TW.regWrite x c off n v).Is mk := by
  unfold TW.regWrite
  repeat' (first
    | with_reducible assumption
    | refine fun _ => ?_
    | with_reducible apply TW.partWrite_is
    | with_reducible apply TW.rxCfgWrite_is
    | with_reducible apply TW.rxRelWrite_is
    | with_reducible apply TW.patrolWrite_is
    | with_reducible apply TW.perf_is
    | with_reducible apply TW.map_is
    | with_reducible apply TW.Is.tile
    | (extract_lets +onlyGivenNames z; with_reducible apply TW.is_cut (k := mk) (x := z); rotate_left; clear_value z; intro hz; rotate_right; subst z)
    | (extract_lets +onlyGivenNames z; with_reducible apply Tile.is_cut (k := mk) (t := z); rotate_left; clear_value z; intro hz; rotate_right; subst z)
    | extract_lets +onlyGivenNames z
    | (refine Tile.is_lit ?_; dsimp only; exact Tile.Is.raw (by assumption))
    | with_reducible refine TW.is_snd (by assumption) ?_
    | split)

theorem TW.loadBits_is {k : Mark} (x : TW) (c a n : Nat) (h : x.Is k) :
    (TW.loadBits x c a n).2.2.2.Is k := by
  unfold TW.loadBits
  repeat' (first
    | with_reducible assumption
    | with_reducible apply TW.accGrant_is
    | with_reducible apply TW.penAcc_is
    | with_reducible apply TW.readPart_is
    | with_reducible apply TW.regRead_is
    | with_reducible apply TW.violation_is
    | with_reducible apply TW.Is.tile
    | split)

theorem TW.readDesc_is {k : Mark} (x : TW) (c a : Nat) (h : x.Is k) :
    (TW.readDesc x c a).2.Is k := by
  unfold TW.readDesc
  repeat' (first
    | with_reducible assumption
    | with_reducible apply TW.readPart_is
    | with_reducible apply TW.violation_is
    | with_reducible apply TW.Is.tile
    | split)

end Sys2Proof.Machine
end

