-- ==== Sys2Proof/Laws/FixedTile.lean ====
section
/-! SUPPORT. What an issue leaves of a tile's set-up: the partition descriptors with the replacements on their way, the
receive windows, the Stipple seed, and the times of its start and releases. -/

namespace Sys2Proof.Machine

/-- The registers at offsets 80 to 1DF hexadecimal, descriptor replacements, and times. -/
structure Setup where
  word : Nat → Word
  partNext : List (Nat × Nat × Word)
  released : Nat
  tickRel : Nat
  xlen : Nat
  inPhase : Bool
  pen : Bool
  window : Nat × Nat × Nat × Bool

structure FixedParts (k : Setup) (r : SMap Word) (a : List (Nat × Nat × Word)) (b c d : Nat) (e f : Bool)
    (g : Nat × Nat × Nat × Bool) : Prop where
  word : ∀ n, 0x80 ≤ n → n < 0x1E0 → rreg tileReset r n = k.word n
  partNext : a = k.partNext
  released : b = k.released
  tickRel : c = k.tickRel
  xlen : d = k.xlen
  inPhase : e = k.inPhase
  pen : f = k.pen
  window : g = k.window

structure Tile.Fixed (k : Setup) (t : Tile) : Prop where
  parts : FixedParts k t.regs t.partNext t.released t.tickRel t.xlen t.inPhase t.pen
      (t.phaseLen, t.winLo, t.winHi, t.winEn)

theorem Tile.fixed_lit {k : Setup} {t : Tile}
    (h : FixedParts k t.regs t.partNext t.released t.tickRel t.xlen t.inPhase t.pen
      (t.phaseLen, t.winLo, t.winHi, t.winEn)) : t.Fixed k := ⟨h⟩

theorem Tile.Fixed.raw {k : Setup} {t : Tile} (h : t.Fixed k) :
    FixedParts k t.regs t.partNext t.released t.tickRel t.xlen t.inPhase t.pen
      (t.phaseLen, t.winLo, t.winHi, t.winEn) := h.parts

/-- A write of another register keeps a register. -/
theorem rreg_rput_other (d : Nat → Word) (m : SMap Word) (f : RF) (v n : Nat) (h : n ≠ f.addr) :
    rreg d (rput d m f v) n = rreg d m n := by
  unfold rput rset rreg
  exact SMap.getD_put_other _ _ _ _ _ _ h

theorem FixedParts.put {k : Setup} {r : SMap Word} {a : List (Nat × Nat × Word)} {b c d : Nat} {e f : Bool}
    {w : Nat × Nat × Nat × Bool}
    (h : FixedParts k r a b c d e f w) (g : RF) (v : Nat) (hg : g.addr < 0x80 ∨ 0x1E0 ≤ g.addr) :
    FixedParts k (rput tileReset r g v) a b c d e f w := by
  refine ⟨fun n h1 h2 => ?_, h.partNext, h.released, h.tickRel, h.xlen, h.inPhase, h.pen, h.window⟩
  rw [rreg_rput_other _ _ _ _ _ (by omega)]
  exact h.word n h1 h2

theorem Tile.put_fixed {k : Setup} (t : Tile) (f : RF) (v : Nat) (hf : f.addr < 0x80 ∨ 0x1E0 ≤ f.addr) (h : t.Fixed k) :
    (t.put f v).Fixed k := Tile.fixed_lit (h.raw.put f v hf)

theorem FixedParts.addTo {k : Setup} {r : SMap Word} {a : List (Nat × Nat × Word)} {b c d : Nat} {e f : Bool}
    {w : Nat × Nat × Nat × Bool}
    (h : FixedParts k r a b c d e f w) (j n : Nat) : FixedParts k (tileSet.addTo tileReset r j n) a b c d e f w := by
  unfold CSet.addTo
  dsimp only
  repeat' (first
    | assumption
    | split
    | (refine FixedParts.put ?_ _ _ (Or.inr (by simp only [CSet.cntF, CSet.ovfF, tileSet]; omega))))

theorem FixedParts.addAll {k : Setup} {a : List (Nat × Nat × Word)} {b c d : Nat} {e f : Bool}
    {w : Nat × Nat × Nat × Bool} (code n j : Nat)
    {r : SMap Word} (h : FixedParts k r a b c d e f w) :
    FixedParts k (CSet.addAll tileSet tileReset code n j r) a b c d e f w := by
  induction j with
  | zero => exact h
  | succ j ih =>
    simp only [CSet.addAll]
    split
    · exact ih.addTo j n
    · exact ih

theorem FixedParts.event {k : Setup} {r : SMap Word} {a : List (Nat × Nat × Word)} {b c d : Nat} {e f : Bool}
    {w : Nat × Nat × Nat × Bool}
    (h : FixedParts k r a b c d e f w) (code n : Nat) : FixedParts k (tileSet.event tileReset r code n) a b c d e f w := by
  unfold CSet.event
  repeat' (first | assumption | split | apply FixedParts.addAll)

theorem Tile.fixed_cut {k : Setup} {t : Tile} {G : Prop} (h : t.Fixed k) (g : t.Fixed k → G) : G := g h

theorem Tile.fixed_ite {k : Setup} {c : Prop} [Decidable c] {a b : Tile} (ha : c → a.Fixed k) (hb : ¬ c → b.Fixed k) :
    (if c then a else b).Fixed k := by
  split
  · exact ha ‹_›
  · exact hb ‹_›

theorem Tile.fixed_foldl {k : Setup} {α : Type} (f : Tile → α → Tile) (l : List α) (t : Tile)
    (hf : ∀ t a, t.Fixed k → (f t a).Fixed k) (h : t.Fixed k) : (l.foldl f t).Fixed k := by
  induction l generalizing t with
  | nil => exact h
  | cons a l ih => exact ih _ (hf t a h)

/-- The same of a tile with its effects. -/
structure TW.Fixed (k : Setup) (x : TW) : Prop where
  tile : x.t.Fixed k

theorem TW.put_fixed {k : Setup} (x : TW) (f : RF) (v : Nat) (hf : f.addr < 0x80 ∨ 0x1E0 ≤ f.addr) (h : x.Fixed k) :
    (x.put f v).Fixed k := ⟨Tile.put_fixed _ _ _ hf h.tile⟩

theorem TW.emit_fixed {k : Setup} (x : TW) (e : Ev) (h : x.Fixed k) : (x.emit e).Fixed k := ⟨h.tile⟩

theorem TW.map_fixed {k : Setup} (x : TW) (f : Tile → Tile) (hf : ∀ t, t.Fixed k → (f t).Fixed k) (h : x.Fixed k) :
    (x.map f).Fixed k := ⟨hf _ h.tile⟩

theorem TW.fixed_cut {k : Setup} {x : TW} {G : Prop} (h : x.Fixed k) (g : x.Fixed k → G) : G := g h

theorem TW.fixed_ite {k : Setup} {c : Prop} [Decidable c] {a b : TW} (ha : c → a.Fixed k) (hb : ¬ c → b.Fixed k) :
    (if c then a else b).Fixed k := by
  split
  · exact ha ‹_›
  · exact hb ‹_›

theorem TW.fixed_snd {k : Setup} {α : Type} {p : α × TW} {a : α} {x : TW} (e : p = (a, x)) (h : p.2.Fixed k) : x.Fixed k := by
  subst e; exact h

theorem TW.fixed_trd {k : Setup} {α β : Type} {p : α × β × TW} {a : α} {b : β} {x : TW} (e : p = (a, b, x))
    (h : p.2.2.Fixed k) : x.Fixed k := by
  subst e; exact h

theorem TW.fixed_fth {k : Setup} {α β γ : Type} {p : α × β × γ × TW} {a : α} {b : β} {c : γ} {x : TW}
    (e : p = (a, b, c, x)) (h : p.2.2.2.Fixed k) : x.Fixed k := by
  subst e; exact h

theorem TW.fixed_foldl {k : Setup} {α : Type} (f : TW → α → TW) (l : List α) (x : TW) (hf : ∀ x a, x.Fixed k → (f x a).Fixed k)
    (h : x.Fixed k) : (l.foldl f x).Fixed k := by
  induction l generalizing x with
  | nil => exact h
  | cons a l ih => exact ih _ (hf x a h)

theorem TW.fixed_foldl_snd {k : Setup} {α β : Type} (f : β × TW → α → β × TW) (l : List α) (p : β × TW)
    (hf : ∀ p a, p.2.Fixed k → (f p a).2.Fixed k) (h : p.2.Fixed k) : (l.foldl f p).2.Fixed k := by
  induction l generalizing p with
  | nil => exact h
  | cons a l ih => exact ih _ (hf p a h)

theorem TW.perf_fixed {k : Setup} (x : TW) (code n : Nat) (h : x.Fixed k) : (x.perf code n).Fixed k := by
  unfold TW.perf
  split
  · exact h
  · exact ⟨Tile.fixed_lit (h.tile.raw.event code n)⟩

theorem TW.count_fixed {k : Setup} (x : TW) (f : RF) (off : Option Nat) (n : Nat) (hf : f.addr < 0x80 ∨ 0x1E0 ≤ f.addr) (h : x.Fixed k) :
    (TW.count x f off n).Fixed k := by
  unfold TW.count
  repeat' (first
    | with_reducible assumption
    | with_reducible apply TW.emit_fixed
    | with_reducible refine TW.put_fixed _ _ _ hf ?_
    | split)

theorem TW.perfOf_fixed {k : Setup} (x : TW) (code : Nat) (o : Origin) (latency td status : Nat) (h : x.Fixed k) :
    (TW.perfOf x code o latency td status).Fixed k := by
  unfold TW.perfOf
  repeat' (first
    | with_reducible assumption
    | with_reducible apply TW.emit_fixed
    | with_reducible apply TW.perf_fixed
    | (with_reducible refine TW.fixed_ite (fun _ => ?_) (fun _ => ?_)))

theorem TW.elog_fixed {mk : Setup} (x : TW) (seg mark : Nat) (h : x.Fixed mk) :
    (TW.elog x seg mark).Fixed mk := by
  unfold TW.elog
  repeat' (first
    | with_reducible assumption
    | with_reducible refine TW.put_fixed _ _ _ (by decide) ?_
    | with_reducible refine Tile.put_fixed _ _ _ (by decide) ?_)

theorem TW.corrected_fixed {mk : Setup} (x : TW) (seg mark : Nat) (h : x.Fixed mk) :
    (TW.corrected x seg mark).Fixed mk := by
  unfold TW.corrected
  repeat' (first
    | with_reducible assumption
    | with_reducible refine TW.count_fixed _ _ _ _ (by decide) ?_
    | with_reducible apply TW.elog_fixed)

theorem TW.uncorrectable_fixed {mk : Setup} (x : TW) (seg mark : Nat) (h : x.Fixed mk) :
    (TW.uncorrectable x seg mark).Fixed mk := by
  unfold TW.uncorrectable
  repeat' (first
    | with_reducible assumption
    | with_reducible refine TW.count_fixed _ _ _ _ (by decide) ?_
    | with_reducible apply TW.elog_fixed
    | with_reducible apply TW.emit_fixed)

theorem TW.violation_fixed {k : Setup} (x : TW) (h : x.Fixed k) :
    (TW.violation x).Fixed k := by
  unfold TW.violation
  repeat' (first
    | with_reducible assumption
    | with_reducible refine TW.count_fixed _ _ _ _ (by decide) ?_)

theorem Tile.setSeg_fixed {k : Setup} (t : Tile) (seg v : Nat) (pois : Bool) (h : t.Fixed k) :
    (Tile.setSeg t seg v pois).Fixed k := Tile.fixed_lit h.raw

theorem TW.readSeg_fixed {mk : Setup} (x : TW) (seg : Nat) (h : x.Fixed mk) :
    (TW.readSeg x seg).2.2.Fixed mk := by
  unfold TW.readSeg
  repeat' (first
    | with_reducible assumption
    | refine fun _ => ?_
    | with_reducible apply TW.corrected_fixed
    | with_reducible apply TW.uncorrectable_fixed
    | with_reducible apply Tile.setSeg_fixed
    | with_reducible apply TW.map_fixed
    | with_reducible apply TW.Fixed.tile
    | (extract_lets +onlyGivenNames z; with_reducible apply TW.fixed_cut (k := mk) (x := z); rotate_left; clear_value z; intro hz; rotate_right; subst z)
    | (extract_lets +onlyGivenNames z; with_reducible apply Tile.fixed_cut (k := mk) (t := z); rotate_left; clear_value z; intro hz; rotate_right; subst z)
    | extract_lets +onlyGivenNames z
    | (refine Tile.fixed_lit ?_; dsimp only; exact Tile.Fixed.raw (by assumption))
    | split)

theorem TW.mergeErr_fixed {mk : Setup} (x : TW) (seg : Nat) (h : x.Fixed mk) :
    (TW.mergeErr x seg).Fixed mk := by
  unfold TW.mergeErr
  repeat' (first
    | with_reducible assumption
    | refine fun _ => ?_
    | with_reducible apply TW.corrected_fixed
    | with_reducible apply TW.uncorrectable_fixed
    | with_reducible apply Tile.setSeg_fixed
    | with_reducible refine TW.put_fixed _ _ _ (by decide) ?_
    | with_reducible refine Tile.put_fixed _ _ _ (by decide) ?_
    | with_reducible apply TW.map_fixed
    | with_reducible apply TW.Fixed.tile
    | (extract_lets +onlyGivenNames z; with_reducible apply TW.fixed_cut (k := mk) (x := z); rotate_left; clear_value z; intro hz; rotate_right; subst z)
    | (extract_lets +onlyGivenNames z; with_reducible apply Tile.fixed_cut (k := mk) (t := z); rotate_left; clear_value z; intro hz; rotate_right; subst z)
    | extract_lets +onlyGivenNames z
    | (refine Tile.fixed_lit ?_; dsimp only; exact Tile.Fixed.raw (by assumption))
    | (with_reducible refine TW.fixed_ite (fun _ => ?_) (fun _ => ?_))
    | (with_reducible refine Tile.fixed_ite (fun _ => ?_) (fun _ => ?_)))

theorem Tile.tearRow_fixed {k : Setup} (t : Tile) (row : Nat) (h : t.Fixed k) :
    (Tile.tearRow t row).Fixed k := by
  unfold Tile.tearRow
  repeat' (first
    | with_reducible assumption
    | (refine Tile.fixed_lit ?_; dsimp only; exact Tile.Fixed.raw (by assumption))
    | (with_reducible refine Tile.fixed_ite (fun _ => ?_) (fun _ => ?_)))

theorem TW.writeSeg_fixed {mk : Setup} (x : TW) (seg off n v : Nat) (mark : Bool) (h : x.Fixed mk) :
    (TW.writeSeg x seg off n v mark).Fixed mk := by
  unfold TW.writeSeg
  repeat' (first
    | with_reducible assumption
    | refine fun _ => ?_
    | with_reducible apply Tile.setSeg_fixed
    | with_reducible apply TW.mergeErr_fixed
    | with_reducible apply Tile.tearRow_fixed
    | with_reducible apply TW.map_fixed
    | (extract_lets +onlyGivenNames z; with_reducible apply TW.fixed_cut (k := mk) (x := z); rotate_left; clear_value z; intro hz; rotate_right; subst z)
    | (extract_lets +onlyGivenNames z; with_reducible apply Tile.fixed_cut (k := mk) (t := z); rotate_left; clear_value z; intro hz; rotate_right; subst z)
    | extract_lets +onlyGivenNames z
    | (refine Tile.fixed_lit ?_; dsimp only; exact Tile.Fixed.raw (by assumption))
    | split)

theorem TW.readSegs_fixed {k : Setup} (x : TW) (seg : Nat) (r0 : Nat) (h : x.Fixed k) :
    (TW.readSegs x seg r0).2.2.Fixed k := by
  induction r0 generalizing x seg with
  | zero =>
    unfold TW.readSegs
    repeat' (first
      | with_reducible assumption
      | with_reducible apply TW.readSeg_fixed)
  | succ r0 ih =>
    unfold TW.readSegs
    repeat' (first
      | with_reducible assumption
      | with_reducible apply ih
      | with_reducible apply TW.readSeg_fixed)

theorem TW.readRaw_fixed {k : Setup} (x : TW) (a n : Nat) (h : x.Fixed k) :
    (TW.readRaw x a n).2.Fixed k := by
  unfold TW.readRaw
  repeat' (first
    | with_reducible assumption
    | with_reducible apply TW.readSegs_fixed)

theorem TW.writeRaw_fixed {k : Setup} (x : TW) (a n v : Nat) (marks : List Bool) (r0 : Nat) (h : x.Fixed k) :
    (TW.writeRaw x a n v marks r0).Fixed k := by
  induction r0 generalizing x a n v marks with
  | zero =>
    unfold TW.writeRaw
    repeat' (first
      | with_reducible assumption
      | with_reducible apply TW.writeSeg_fixed
      | (with_reducible refine TW.fixed_ite (fun _ => ?_) (fun _ => ?_)))
  | succ r0 ih =>
    unfold TW.writeRaw
    repeat' (first
      | with_reducible assumption
      | with_reducible apply ih
      | with_reducible apply TW.writeSeg_fixed
      | (with_reducible refine TW.fixed_ite (fun _ => ?_) (fun _ => ?_)))

theorem TW.mergeFind_fixed {mk : Setup} (x : TW) (a n : Nat) (h : x.Fixed mk) :
    (TW.mergeFind x a n).Fixed mk := by
  unfold TW.mergeFind
  repeat' (first
    | with_reducible assumption
    | with_reducible apply TW.mergeErr_fixed
    | (extract_lets +onlyGivenNames z; with_reducible apply TW.fixed_cut (k := mk) (x := z); rotate_left; clear_value z; intro hz; rotate_right; subst z)
    | (extract_lets +onlyGivenNames z; with_reducible apply Tile.fixed_cut (k := mk) (t := z); rotate_left; clear_value z; intro hz; rotate_right; subst z)
    | extract_lets +onlyGivenNames z
    | split)

theorem TW.writeMarked_fixed {k : Setup} (x : TW) (a n v : Nat) (mark : Bool) (h : x.Fixed k) :
    (TW.writeMarked x a n v mark).Fixed k := by
  unfold TW.writeMarked
  repeat' (first
    | with_reducible assumption
    | with_reducible apply TW.writeRaw_fixed)

theorem Tile.grant_fixed {k : Setup} (t : Tile) (c bank rank : Nat) (h : t.Fixed k) :
    (Tile.grant t c bank rank).Fixed k := by
  unfold Tile.grant
  repeat' (first
    | with_reducible assumption
    | (refine Tile.fixed_lit ?_; dsimp only; exact Tile.Fixed.raw (by assumption)))

theorem TW.conflict_fixed {k : Setup} (x : TW) (h : x.Fixed k) :
    (TW.conflict x).Fixed k := by
  unfold TW.conflict
  repeat' (first
    | with_reducible assumption
    | with_reducible refine TW.count_fixed _ _ _ _ (by decide) ?_
    | with_reducible apply TW.perf_fixed)

theorem Tile.setGran_fixed {k : Setup} (t : Tile) (row : Nat) (g : Gran) (h : t.Fixed k) :
    (Tile.setGran t row g).Fixed k := by
  unfold Tile.setGran
  repeat' (first
    | with_reducible assumption
    | (refine Tile.fixed_lit ?_; dsimp only; exact Tile.Fixed.raw (by assumption)))

theorem Tile.penArrive_fixed {k : Setup} (t : Tile) (c : Nat) (h : t.Fixed k) :
    (Tile.penArrive t c).Fixed k := by
  unfold Tile.penArrive
  repeat' (first
    | with_reducible assumption
    | refine fun _ => ?_
    | with_reducible apply Tile.setGran_fixed
    | (extract_lets +onlyGivenNames z; with_reducible apply Tile.fixed_cut (t := z); rotate_left; clear_value z; intro hz; rotate_right; subst z)
    | with_reducible apply Tile.fixed_foldl
    | (refine Tile.fixed_lit ?_; dsimp only; exact Tile.Fixed.raw (by assumption))
    | (with_reducible refine Tile.fixed_ite (fun _ => ?_) (fun _ => ?_)))

theorem TW.commitList_fixed {k : Setup} (x : TW) (r0 : List (Nat × Nat × Nat × Nat × Bool)) (h : x.Fixed k) :
    (TW.commitList x r0).Fixed k := by
  induction r0 generalizing x with
  | nil =>
    unfold TW.commitList
    repeat' (first
      | with_reducible assumption
      | with_reducible apply TW.writeMarked_fixed)
  | cons e r0 ih =>
    unfold TW.commitList
    repeat' (first
      | with_reducible assumption
      | with_reducible apply ih
      | with_reducible apply TW.writeMarked_fixed)

theorem TW.commitSel_fixed {k : Setup} (x : TW) (sel : Nat → Nat → Bool) (h : x.Fixed k) :
    (TW.commitSel x sel).Fixed k := by
  unfold TW.commitSel
  repeat' (first
    | with_reducible assumption
    | refine fun _ => ?_
    | with_reducible apply TW.commitList_fixed
    | with_reducible apply TW.map_fixed
    | (refine Tile.fixed_lit ?_; dsimp only; exact Tile.Fixed.raw (by assumption))
    | (with_reducible refine TW.fixed_ite (fun _ => ?_) (fun _ => ?_)))

theorem TW.commitBefore_fixed {k : Setup} (x : TW) (c bank : Nat) (h : x.Fixed k) :
    (TW.commitBefore x c bank).Fixed k := by
  unfold TW.commitBefore
  repeat' (first
    | with_reducible assumption
    | with_reducible apply TW.commitSel_fixed)

theorem TW.commitLate_fixed {k : Setup} (x : TW) (r0 : List (Nat × Nat × Nat × Nat × List Bool)) (h : x.Fixed k) :
    (TW.commitLate x r0).Fixed k := by
  induction r0 generalizing x with
  | nil =>
    unfold TW.commitLate
    repeat' (first
      | with_reducible assumption
      | with_reducible apply TW.commitBefore_fixed
      | with_reducible apply TW.writeRaw_fixed)
  | cons e r0 ih =>
    unfold TW.commitLate
    repeat' (first
      | with_reducible assumption
      | with_reducible apply ih
      | with_reducible apply TW.commitBefore_fixed
      | with_reducible apply TW.writeRaw_fixed)

theorem TW.commitEngines_fixed {k : Setup} (x : TW) (c : Nat) (h : x.Fixed k) :
    (TW.commitEngines x c).Fixed k := by
  unfold TW.commitEngines
  repeat' (first
    | with_reducible assumption
    | refine fun _ => ?_
    | with_reducible apply TW.commitLate_fixed
    | with_reducible apply TW.map_fixed
    | (refine Tile.fixed_lit ?_; dsimp only; exact Tile.Fixed.raw (by assumption))
    | (with_reducible refine TW.fixed_ite (fun _ => ?_) (fun _ => ?_)))

theorem TW.commitDue_fixed {k : Setup} (x : TW) (c : Nat) (h : x.Fixed k) :
    (TW.commitDue x c).Fixed k := by
  unfold TW.commitDue
  repeat' (first
    | with_reducible assumption
    | refine fun _ => ?_
    | with_reducible apply TW.commitEngines_fixed
    | with_reducible apply TW.commitSel_fixed
    | with_reducible apply Tile.penArrive_fixed
    | with_reducible apply TW.map_fixed)

theorem TW.hazard_fixed {k : Setup} (x : TW) (c code : Nat) (a b : Who) (addr : Nat) (blk : Bool) (h : x.Fixed k) :
    (TW.hazard x c code a b addr blk).Fixed k := by
  unfold TW.hazard
  extract_lets f y r
  have hf : f.addr < 0x80 ∨ 0x1E0 ≤ f.addr := by
    subst f
    split <;> decide
  exact TW.emit_fixed _ _ (TW.map_fixed _ _ (fun t ht => Tile.fixed_lit ht.raw) (TW.count_fixed _ _ _ _ hf h))

theorem TW.penRead_fixed {k : Setup} (x : TW) (c : Nat) (who : Who) (a : Nat) (h : x.Fixed k) :
    (TW.penRead x c who a).Fixed k := by
  unfold TW.penRead
  repeat' (first
    | with_reducible assumption
    | with_reducible apply TW.hazard_fixed
    | (with_reducible refine TW.fixed_ite (fun _ => ?_) (fun _ => ?_)))

theorem TW.readPart_fixed {mk : Setup} (x : TW) (c : Nat) (k : AccKind) (who : Who) (a n : Nat) (h : x.Fixed mk) :
    (TW.readPart x c k who a n).2.Fixed mk := by
  unfold TW.readPart
  repeat' (first
    | with_reducible assumption
    | with_reducible apply TW.commitDue_fixed
    | with_reducible apply TW.penRead_fixed
    | with_reducible apply TW.readRaw_fixed
    | with_reducible apply TW.violation_fixed
    | (extract_lets +onlyGivenNames z; with_reducible apply TW.fixed_cut (x := z); rotate_left; clear_value z; intro hz; rotate_right; subst z)
    | split)

theorem TW.portRead_fixed {mk : Setup} (x : TW) (k : Nat) (who : Who) (row : Nat) (h : x.Fixed mk) :
    (TW.portRead x k who row).2.Fixed mk := by
  unfold TW.portRead
  repeat' (first
    | with_reducible assumption
    | with_reducible apply TW.readPart_fixed)

theorem TW.portStep_fixed {mk : Setup} (x : TW) (k : Nat) (who : Who) (rows : List Nat) (got : List PortRead) (busy : Bool) (h : x.Fixed mk) :
    (TW.portStep x k who rows got busy).2.Fixed mk := by
  unfold TW.portStep
  repeat' (first
    | with_reducible assumption
    | refine fun _ => ?_
    | with_reducible apply TW.conflict_fixed
    | with_reducible apply TW.portRead_fixed
    | with_reducible apply Tile.grant_fixed
    | with_reducible apply TW.map_fixed
    | with_reducible apply TW.Fixed.tile
    | split)

theorem TW.mulPort_fixed {mk : Setup} (x : TW) (k : Nat) (usedP usedQ : Bool) (h : x.Fixed mk) :
    (TW.mulPort x k usedP usedQ).Fixed mk := by
  unfold TW.mulPort
  repeat' (first
    | with_reducible assumption
    | refine fun _ => ?_
    | with_reducible apply TW.portStep_fixed
    | with_reducible apply TW.map_fixed
    | (refine Tile.fixed_lit ?_; dsimp only; exact Tile.Fixed.raw (by assumption))
    | with_reducible apply TW.Fixed.tile
    | split)

theorem TW.penWrite_fixed {k : Setup} (x : TW) (c : Nat) (who : Who) (a : Nat) (tag : Option Nat) (h : x.Fixed k) :
    (TW.penWrite x c who a tag).Fixed k := by
  unfold TW.penWrite
  repeat' (first
    | with_reducible assumption
    | refine fun _ => ?_
    | with_reducible apply TW.hazard_fixed
    | with_reducible apply Tile.setGran_fixed
    | with_reducible apply TW.map_fixed
    | (extract_lets +onlyGivenNames z; with_reducible apply TW.fixed_cut (x := z); rotate_left; clear_value z; intro hz; rotate_right; subst z)
    | extract_lets +onlyGivenNames z
    | split)

theorem TW.glzErr_fixed {k : Setup} (x : TW) (code stage : Nat) (h : x.Fixed k) :
    (TW.glzErr x code stage).Fixed k := by
  unfold TW.glzErr
  repeat' (first
    | with_reducible assumption
    | with_reducible refine TW.put_fixed _ _ _ (by decide) ?_)

theorem TW.glzFail_fixed {k : Setup} (x : TW) (op : Nat) (h : x.Fixed k) :
    (TW.glzFail x op).Fixed k := by
  unfold TW.glzFail
  repeat' (first
    | with_reducible assumption
    | refine fun _ => ?_
    | with_reducible apply TW.glzErr_fixed
    | with_reducible apply TW.map_fixed
    | (refine Tile.fixed_lit ?_; dsimp only; exact Tile.Fixed.raw (by assumption))
    | (with_reducible refine TW.fixed_ite (fun _ => ?_) (fun _ => ?_)))

theorem TW.glzPut_fixed {mk : Setup} (x : TW) (k : Nat) (w : GlzWrite) (h : x.Fixed mk) :
    (TW.glzPut x k w).Fixed mk := by
  unfold TW.glzPut
  repeat' (first
    | with_reducible assumption
    | refine fun _ => ?_
    | with_reducible apply TW.violation_fixed
    | with_reducible apply TW.mergeFind_fixed
    | with_reducible apply TW.penWrite_fixed
    | with_reducible apply TW.glzFail_fixed
    | with_reducible apply TW.emit_fixed
    | with_reducible apply TW.map_fixed
    | with_reducible apply TW.Fixed.tile
    | (extract_lets +onlyGivenNames z; with_reducible apply TW.fixed_cut (k := mk) (x := z); rotate_left; clear_value z; intro hz; rotate_right; subst z)
    | (extract_lets +onlyGivenNames z; with_reducible apply Tile.fixed_cut (k := mk) (t := z); rotate_left; clear_value z; intro hz; rotate_right; subst z)
    | extract_lets +onlyGivenNames z
    | (refine Tile.fixed_lit ?_; dsimp only; exact Tile.Fixed.raw (by assumption))
    | with_reducible refine TW.fixed_snd (by assumption) ?_
    | with_reducible refine TW.fixed_trd (by assumption) ?_
    | split)

theorem TW.glzWrites_fixed {mk : Setup} (x : TW) (k : Nat) (r0 : List GlzWrite) (r1 : Nat) (h : x.Fixed mk) :
    (TW.glzWrites x k r0 r1).2.2.Fixed mk := by
  induction r0 generalizing x k r1 with
  | nil =>
    cases r1
    all_goals unfold TW.glzWrites
    all_goals repeat' (first
      | with_reducible assumption
      | refine fun _ => ?_
      | with_reducible apply Tile.grant_fixed
      | with_reducible apply TW.conflict_fixed
      | with_reducible apply TW.glzPut_fixed
      | with_reducible apply TW.map_fixed
      | with_reducible apply TW.Fixed.tile
      | (extract_lets +onlyGivenNames z; with_reducible apply TW.fixed_cut (k := mk) (x := z); rotate_left; clear_value z; intro hz; rotate_right; subst z)
      | (extract_lets +onlyGivenNames z; with_reducible apply Tile.fixed_cut (k := mk) (t := z); rotate_left; clear_value z; intro hz; rotate_right; subst z)
      | extract_lets +onlyGivenNames z
      | (refine Tile.fixed_lit ?_; dsimp only; exact Tile.Fixed.raw (by assumption))
      | with_reducible refine TW.fixed_snd (by assumption) ?_
      | with_reducible refine TW.fixed_trd (by assumption) ?_
      | split)
  | cons e_ r0 ih =>
    cases r1
    all_goals unfold TW.glzWrites
    all_goals repeat' (first
      | with_reducible assumption
      | refine fun _ => ?_
      | with_reducible apply ih
      | with_reducible apply Tile.grant_fixed
      | with_reducible apply TW.conflict_fixed
      | with_reducible apply TW.glzPut_fixed
      | with_reducible apply TW.map_fixed
      | with_reducible apply TW.Fixed.tile
      | (extract_lets +onlyGivenNames z; with_reducible apply TW.fixed_cut (k := mk) (x := z); rotate_left; clear_value z; intro hz; rotate_right; subst z)
      | (extract_lets +onlyGivenNames z; with_reducible apply Tile.fixed_cut (k := mk) (t := z); rotate_left; clear_value z; intro hz; rotate_right; subst z)
      | extract_lets +onlyGivenNames z
      | (refine Tile.fixed_lit ?_; dsimp only; exact Tile.Fixed.raw (by assumption))
      | with_reducible refine TW.fixed_snd (by assumption) ?_
      | with_reducible refine TW.fixed_trd (by assumption) ?_
      | split)

theorem Tile.setGlz_fixed {mk : Setup} (t : Tile) (r : GlzRun) (h : t.Fixed mk) :
    (Tile.setGlz t r).Fixed mk := by
  unfold Tile.setGlz
  repeat' (first
    | with_reducible assumption
    | refine fun _ => ?_
    | with_reducible apply TW.map_fixed
    | (refine Tile.fixed_lit ?_; dsimp only; exact Tile.Fixed.raw (by assumption))
    | (with_reducible refine TW.fixed_ite (fun _ => ?_) (fun _ => ?_))
    | (with_reducible refine Tile.fixed_ite (fun _ => ?_) (fun _ => ?_)))

theorem TW.glzChain_fixed {mk : Setup} (x : TW) (k : Nat) (h : x.Fixed mk) :
    (TW.glzChain x k).2.Fixed mk := by
  unfold TW.glzChain
  repeat' (first
    | with_reducible assumption
    | refine fun _ => ?_
    | with_reducible apply Tile.grant_fixed
    | with_reducible apply TW.conflict_fixed
    | with_reducible apply TW.portRead_fixed
    | with_reducible apply Tile.setGlz_fixed
    | with_reducible apply TW.map_fixed
    | with_reducible apply TW.Fixed.tile
    | (extract_lets +onlyGivenNames z; with_reducible apply TW.fixed_cut (k := mk) (x := z); rotate_left; clear_value z; intro hz; rotate_right; subst z)
    | (extract_lets +onlyGivenNames z; with_reducible apply Tile.fixed_cut (k := mk) (t := z); rotate_left; clear_value z; intro hz; rotate_right; subst z)
    | extract_lets +onlyGivenNames z
    | (refine Tile.fixed_lit ?_; dsimp only; exact Tile.Fixed.raw (by assumption))
    | with_reducible refine TW.fixed_snd (by assumption) ?_
    | with_reducible refine TW.fixed_trd (by assumption) ?_
    | split)

theorem TW.glzReads_fixed {mk : Setup} (x : TW) (k : Nat) (who : Who) (r0 : List Nat) (r1 : Nat) (h : x.Fixed mk) :
    (TW.glzReads x k who r0 r1).2.Fixed mk := by
  induction r0 generalizing x k who r1 with
  | nil =>
    cases r1
    all_goals unfold TW.glzReads
    all_goals repeat' (first
      | with_reducible assumption
      | refine fun _ => ?_
      | with_reducible apply Tile.grant_fixed
      | with_reducible apply TW.conflict_fixed
      | with_reducible apply TW.portRead_fixed
      | with_reducible apply TW.map_fixed
      | (refine Tile.fixed_lit ?_; dsimp only; exact Tile.Fixed.raw (by assumption))
      | with_reducible apply TW.Fixed.tile
      | with_reducible refine TW.fixed_snd (by assumption) ?_
      | with_reducible refine TW.fixed_trd (by assumption) ?_
      | split)
  | cons e_ r0 ih =>
    cases r1
    all_goals unfold TW.glzReads
    all_goals repeat' (first
      | with_reducible assumption
      | refine fun _ => ?_
      | with_reducible apply ih
      | with_reducible apply Tile.grant_fixed
      | with_reducible apply TW.conflict_fixed
      | with_reducible apply TW.portRead_fixed
      | with_reducible apply TW.map_fixed
      | (refine Tile.fixed_lit ?_; dsimp only; exact Tile.Fixed.raw (by assumption))
      | with_reducible apply TW.Fixed.tile
      | with_reducible refine TW.fixed_snd (by assumption) ?_
      | with_reducible refine TW.fixed_trd (by assumption) ?_
      | split)

theorem TW.penAcc_fixed {k : Setup} (x : TW) (c b : Nat) (who : Who) (h : x.Fixed k) :
    (TW.penAcc x c b who).Fixed k := by
  unfold TW.penAcc
  repeat' (first
    | with_reducible assumption
    | with_reducible apply TW.hazard_fixed
    | split)

theorem TW.glzAcc_fixed {mk : Setup} (x : TW) (k : Nat) (r : GlzRun) (h : x.Fixed mk) :
    (TW.glzAcc x k r).2.Fixed mk := by
  unfold TW.glzAcc
  repeat' (first
    | with_reducible assumption
    | refine fun _ => ?_
    | with_reducible refine TW.count_fixed _ _ _ _ (by decide) ?_
    | with_reducible apply Tile.grant_fixed
    | with_reducible apply TW.penAcc_fixed
    | with_reducible apply TW.map_fixed
    | with_reducible apply TW.Fixed.tile
    | (extract_lets +onlyGivenNames z; with_reducible apply TW.fixed_cut (k := mk) (x := z); rotate_left; clear_value z; intro hz; rotate_right; subst z)
    | (extract_lets +onlyGivenNames z; with_reducible apply Tile.fixed_cut (k := mk) (t := z); rotate_left; clear_value z; intro hz; rotate_right; subst z)
    | extract_lets +onlyGivenNames z
    | (refine Tile.fixed_lit ?_; dsimp only; exact Tile.Fixed.raw (by assumption))
    | split)

theorem TW.glzBeatReads_fixed {mk : Setup} (x : TW) (k n : Nat) (h : x.Fixed mk) :
    (TW.glzBeatReads x k n).Fixed mk := by
  unfold TW.glzBeatReads
  repeat' (first
    | with_reducible assumption
    | refine fun _ => ?_
    | with_reducible apply Tile.setGlz_fixed
    | with_reducible apply TW.glzReads_fixed
    | with_reducible apply TW.glzAcc_fixed
    | with_reducible apply TW.map_fixed
    | with_reducible apply TW.Fixed.tile
    | (extract_lets +onlyGivenNames z; with_reducible apply TW.fixed_cut (k := mk) (x := z); rotate_left; clear_value z; intro hz; rotate_right; subst z)
    | (extract_lets +onlyGivenNames z; with_reducible apply Tile.fixed_cut (k := mk) (t := z); rotate_left; clear_value z; intro hz; rotate_right; subst z)
    | extract_lets +onlyGivenNames z
    | (refine Tile.fixed_lit ?_; dsimp only; exact Tile.Fixed.raw (by assumption))
    | (refine Tile.fixed_lit ?_; dsimp only [Tile.setGlz]; exact Tile.Fixed.raw (by assumption))
    | with_reducible refine TW.fixed_snd (by assumption) ?_
    | with_reducible refine TW.fixed_trd (by assumption) ?_
    | split)

theorem TW.penDone_fixed {mk : Setup} (x : TW) (unit op : Nat) (h : x.Fixed mk) :
    (TW.penDone x unit op).Fixed mk := by
  unfold TW.penDone
  repeat' (first
    | with_reducible assumption
    | refine fun _ => ?_
    | with_reducible apply TW.map_fixed
    | with_reducible apply TW.Fixed.tile
    | (extract_lets +onlyGivenNames z; with_reducible apply TW.fixed_cut (k := mk) (x := z); rotate_left; clear_value z; intro hz; rotate_right; subst z)
    | (extract_lets +onlyGivenNames z; with_reducible apply Tile.fixed_cut (k := mk) (t := z); rotate_left; clear_value z; intro hz; rotate_right; subst z)
    | extract_lets +onlyGivenNames z
    | (refine Tile.fixed_lit ?_; dsimp only; exact Tile.Fixed.raw (by assumption))
    | with_reducible refine TW.fixed_snd (by assumption) ?_
    | with_reducible refine TW.fixed_trd (by assumption) ?_
    | split)

theorem TW.glzMarks_fixed {mk : Setup} (x : TW) (h : x.Fixed mk) :
    (TW.glzMarks x).Fixed mk := by
  unfold TW.glzMarks
  repeat' (first
    | with_reducible assumption
    | refine fun _ => ?_
    | with_reducible apply TW.penDone_fixed
    | with_reducible apply TW.Fixed.tile
    | with_reducible apply TW.fixed_foldl
    | with_reducible apply Tile.fixed_foldl
    | (with_reducible refine TW.fixed_ite (fun _ => ?_) (fun _ => ?_))
    | (with_reducible refine Tile.fixed_ite (fun _ => ?_) (fun _ => ?_)))

theorem TW.glzPort_fixed {mk : Setup} (x : TW) (k : Nat) (h : x.Fixed mk) :
    (TW.glzPort x k).Fixed mk := by
  unfold TW.glzPort
  repeat' (first
    | with_reducible assumption
    | refine fun _ => ?_
    | with_reducible apply TW.glzWrites_fixed
    | with_reducible apply TW.glzChain_fixed
    | with_reducible apply TW.glzBeatReads_fixed
    | with_reducible apply TW.glzMarks_fixed
    | with_reducible apply TW.map_fixed
    | with_reducible apply TW.Fixed.tile
    | with_reducible apply TW.fixed_foldl
    | with_reducible apply Tile.fixed_foldl
    | with_reducible apply TW.fixed_foldl_snd
    | (extract_lets +onlyGivenNames z; with_reducible apply TW.fixed_cut (k := mk) (x := z); rotate_left; clear_value z; intro hz; rotate_right; subst z)
    | (extract_lets +onlyGivenNames z; with_reducible apply Tile.fixed_cut (k := mk) (t := z); rotate_left; clear_value z; intro hz; rotate_right; subst z)
    | extract_lets +onlyGivenNames z
    | (refine Tile.fixed_lit ?_; dsimp only; exact Tile.Fixed.raw (by assumption))
    | with_reducible refine TW.fixed_snd (by assumption) ?_
    | with_reducible refine TW.fixed_trd (by assumption) ?_
    | split)

theorem TW.writePart_fixed {mk : Setup} (x : TW) (c : Nat) (who : Who) (a n v : Nat) (marks : List Bool) (h : x.Fixed mk) :
    (TW.writePart x c who a n v marks).2.Fixed mk := by
  unfold TW.writePart
  repeat' (first
    | with_reducible assumption
    | with_reducible apply TW.violation_fixed
    | with_reducible apply TW.writeRaw_fixed
    | with_reducible apply TW.penWrite_fixed
    | with_reducible apply TW.commitBefore_fixed
    | with_reducible apply TW.commitDue_fixed
    | with_reducible apply TW.Fixed.tile
    | (extract_lets +onlyGivenNames z; with_reducible apply TW.fixed_cut (k := mk) (x := z); rotate_left; clear_value z; intro hz; rotate_right; subst z)
    | (extract_lets +onlyGivenNames z; with_reducible apply Tile.fixed_cut (k := mk) (t := z); rotate_left; clear_value z; intro hz; rotate_right; subst z)
    | extract_lets +onlyGivenNames z
    | split)

theorem TW.edgeTake_fixed {mk : Setup} (x : TW) (k : Nat) (q : EdgeReq) (h : x.Fixed mk) :
    (TW.edgeTake x k q).Fixed mk := by
  unfold TW.edgeTake
  repeat' (first
    | with_reducible assumption
    | with_reducible apply TW.readPart_fixed
    | with_reducible apply TW.writePart_fixed
    | with_reducible apply TW.emit_fixed
    | with_reducible apply TW.perf_fixed
    | with_reducible apply TW.Fixed.tile
    | with_reducible refine TW.fixed_snd (by assumption) ?_
    | with_reducible refine TW.fixed_trd (by assumption) ?_
    | split)

theorem TW.vrnPort_fixed {mk : Setup} (x : TW) (k : Nat) (h : x.Fixed mk) :
    (TW.vrnPort x k).Fixed mk := by
  unfold TW.vrnPort
  repeat' (first
    | with_reducible assumption
    | refine fun _ => ?_
    | with_reducible apply TW.readSegs_fixed
    | with_reducible apply Tile.grant_fixed
    | with_reducible apply TW.conflict_fixed
    | with_reducible apply TW.perf_fixed
    | with_reducible apply TW.map_fixed
    | with_reducible apply TW.Fixed.tile
    | (extract_lets +onlyGivenNames z; with_reducible apply TW.fixed_cut (k := mk) (x := z); rotate_left; clear_value z; intro hz; rotate_right; subst z)
    | (extract_lets +onlyGivenNames z; with_reducible apply Tile.fixed_cut (k := mk) (t := z); rotate_left; clear_value z; intro hz; rotate_right; subst z)
    | extract_lets +onlyGivenNames z
    | (refine Tile.fixed_lit ?_; dsimp only; exact Tile.Fixed.raw (by assumption))
    | (refine Tile.fixed_lit ?_; dsimp only [Tile.grant]; exact Tile.Fixed.raw (by assumption))
    | with_reducible refine TW.fixed_snd (by assumption) ?_
    | with_reducible refine TW.fixed_trd (by assumption) ?_
    | split)

theorem TW.edgePort_fixed {mk : Setup} (x : TW) (k : Nat) (h : x.Fixed mk) :
    (TW.edgePort x k).Fixed mk := by
  unfold TW.edgePort
  repeat' (first
    | with_reducible assumption
    | refine fun _ => ?_
    | with_reducible apply Tile.grant_fixed
    | with_reducible apply TW.conflict_fixed
    | with_reducible apply TW.edgeTake_fixed
    | with_reducible apply TW.vrnPort_fixed
    | with_reducible apply TW.map_fixed
    | with_reducible apply TW.Fixed.tile
    | (extract_lets +onlyGivenNames z; with_reducible apply TW.fixed_cut (k := mk) (x := z); rotate_left; clear_value z; intro hz; rotate_right; subst z)
    | (extract_lets +onlyGivenNames z; with_reducible apply Tile.fixed_cut (k := mk) (t := z); rotate_left; clear_value z; intro hz; rotate_right; subst z)
    | extract_lets +onlyGivenNames z
    | (refine Tile.fixed_lit ?_; dsimp only; exact Tile.Fixed.raw (by assumption))
    | (refine Tile.fixed_lit ?_; dsimp only [Tile.grant]; exact Tile.Fixed.raw (by assumption))
    | with_reducible refine TW.fixed_snd (by assumption) ?_
    | split)

theorem TW.portCycle_fixed {mk : Setup} (x : TW) (k : Nat) (usedP usedQ : Bool) (h : x.Fixed mk) :
    (TW.portCycle x k usedP usedQ).Fixed mk := by
  unfold TW.portCycle
  repeat' (first
    | with_reducible assumption
    | refine fun _ => ?_
    | with_reducible apply TW.commitDue_fixed
    | with_reducible apply TW.mulPort_fixed
    | with_reducible apply TW.glzPort_fixed
    | with_reducible apply TW.edgePort_fixed
    | with_reducible apply TW.map_fixed
    | with_reducible apply TW.Fixed.tile
    | (extract_lets +onlyGivenNames z; with_reducible apply TW.fixed_cut (k := mk) (x := z); rotate_left; clear_value z; intro hz; rotate_right; subst z)
    | (extract_lets +onlyGivenNames z; with_reducible apply Tile.fixed_cut (k := mk) (t := z); rotate_left; clear_value z; intro hz; rotate_right; subst z)
    | extract_lets +onlyGivenNames z
    | (refine Tile.fixed_lit ?_; dsimp only; exact Tile.Fixed.raw (by assumption))
    | (with_reducible refine TW.fixed_ite (fun _ => ?_) (fun _ => ?_))
    | (with_reducible refine Tile.fixed_ite (fun _ => ?_) (fun _ => ?_)))

theorem TW.portsGo_fixed {mk : Setup} (x : TW) (k : Nat) (r0 : Nat) (h : x.Fixed mk) :
    (TW.portsGo x k r0).Fixed mk := by
  induction r0 generalizing x k with
  | zero =>
    unfold TW.portsGo
    repeat' (first
      | with_reducible assumption
      | with_reducible apply TW.portCycle_fixed)
  | succ r0 ih =>
    unfold TW.portsGo
    repeat' (first
      | with_reducible assumption
      | with_reducible apply ih
      | with_reducible apply TW.portCycle_fixed)

theorem TW.ports_fixed {mk : Setup} (x : TW) (c : Nat) (h : x.Fixed mk) :
    (TW.ports x c).Fixed mk := by
  unfold TW.ports
  repeat' (first
    | with_reducible assumption
    | refine fun _ => ?_
    | with_reducible apply TW.portsGo_fixed
    | with_reducible apply TW.map_fixed
    | with_reducible apply TW.Fixed.tile
    | (extract_lets +onlyGivenNames z; with_reducible apply TW.fixed_cut (k := mk) (x := z); rotate_left; clear_value z; intro hz; rotate_right; subst z)
    | (extract_lets +onlyGivenNames z; with_reducible apply Tile.fixed_cut (k := mk) (t := z); rotate_left; clear_value z; intro hz; rotate_right; subst z)
    | extract_lets +onlyGivenNames z
    | (refine Tile.fixed_lit ?_; dsimp only; exact Tile.Fixed.raw (by assumption))
    | (with_reducible refine TW.fixed_ite (fun _ => ?_) (fun _ => ?_))
    | (with_reducible refine Tile.fixed_ite (fun _ => ?_) (fun _ => ?_)))

theorem TW.accRequest_fixed {mk : Setup} (x : TW) (c blk rank : Nat) (r0 : Nat) (h : x.Fixed mk) :
    (TW.accRequest x c blk rank r0).2.Fixed mk := by
  induction r0 generalizing x c blk rank with
  | zero =>
    unfold TW.accRequest
    repeat' (first
      | with_reducible assumption
      | refine fun _ => ?_
      | with_reducible refine TW.count_fixed _ _ _ _ (by decide) ?_
      | with_reducible apply Tile.grant_fixed
      | with_reducible apply TW.ports_fixed
      | with_reducible apply TW.map_fixed
      | with_reducible apply TW.Fixed.tile
      | (extract_lets +onlyGivenNames z; with_reducible apply TW.fixed_cut (k := mk) (x := z); rotate_left; clear_value z; intro hz; rotate_right; subst z)
      | (extract_lets +onlyGivenNames z; with_reducible apply Tile.fixed_cut (k := mk) (t := z); rotate_left; clear_value z; intro hz; rotate_right; subst z)
      | extract_lets +onlyGivenNames z
      | (refine Tile.fixed_lit ?_; dsimp only; exact Tile.Fixed.raw (by assumption))
      | split)
  | succ r0 ih =>
    unfold TW.accRequest
    repeat' (first
      | with_reducible assumption
      | refine fun _ => ?_
      | with_reducible apply ih
      | with_reducible refine TW.count_fixed _ _ _ _ (by decide) ?_
      | with_reducible apply Tile.grant_fixed
      | with_reducible apply TW.ports_fixed
      | with_reducible apply TW.map_fixed
      | with_reducible apply TW.Fixed.tile
      | (extract_lets +onlyGivenNames z; with_reducible apply TW.fixed_cut (k := mk) (x := z); rotate_left; clear_value z; intro hz; rotate_right; subst z)
      | (extract_lets +onlyGivenNames z; with_reducible apply Tile.fixed_cut (k := mk) (t := z); rotate_left; clear_value z; intro hz; rotate_right; subst z)
      | extract_lets +onlyGivenNames z
      | (refine Tile.fixed_lit ?_; dsimp only; exact Tile.Fixed.raw (by assumption))
      | split)

theorem TW.accGrant_fixed {mk : Setup} (x : TW) (c blk rank : Nat) (h : x.Fixed mk) :
    (TW.accGrant x c blk rank).2.Fixed mk := by
  unfold TW.accGrant
  repeat' (first
    | with_reducible assumption
    | with_reducible apply TW.accRequest_fixed)

theorem TW.overlay_fixed {k : Setup} (x : TW) (h : x.Fixed k) :
    (TW.overlay x).Fixed k := by
  have hc := TW.commitList_fixed x x.t.stores h
  exact ⟨hc.tile⟩

theorem TW.commitStores_fixed {k : Setup} (x : TW) (c : Nat) (h : x.Fixed k) :
    (TW.commitStores x c).Fixed k := by
  unfold TW.commitStores
  repeat' (first
    | with_reducible assumption
    | with_reducible apply TW.commitDue_fixed
    | with_reducible apply TW.ports_fixed)

theorem TW.requestGo_fixed {k : Setup} (x : TW) (c bank rank : Nat) (r0 : Nat) (h : x.Fixed k) :
    (TW.requestGo x c bank rank r0).2.Fixed k := by
  induction r0 generalizing x c bank rank with
  | zero =>
    unfold TW.requestGo
    repeat' (first
      | with_reducible assumption
      | refine fun _ => ?_
      | with_reducible apply TW.conflict_fixed
      | with_reducible apply TW.ports_fixed
      | with_reducible apply Tile.grant_fixed
      | with_reducible apply TW.map_fixed
      | (extract_lets +onlyGivenNames z; with_reducible apply TW.fixed_cut (x := z); rotate_left; clear_value z; intro hz; rotate_right; subst z)
      | split)
  | succ r0 ih =>
    unfold TW.requestGo
    repeat' (first
      | with_reducible assumption
      | refine fun _ => ?_
      | with_reducible apply ih
      | with_reducible apply TW.conflict_fixed
      | with_reducible apply TW.ports_fixed
      | with_reducible apply Tile.grant_fixed
      | with_reducible apply TW.map_fixed
      | (extract_lets +onlyGivenNames z; with_reducible apply TW.fixed_cut (x := z); rotate_left; clear_value z; intro hz; rotate_right; subst z)
      | split)

theorem TW.claim_fixed {mk : Setup} (x : TW) (c bank rank : Nat) (h : x.Fixed mk) :
    (TW.claim x c bank rank).2.Fixed mk := by
  unfold TW.claim
  repeat' (first
    | with_reducible assumption
    | with_reducible apply TW.requestGo_fixed)

theorem TW.rowGranted_fixed {mk : Setup} (x : TW) (r st k : Nat) (h : x.Fixed mk) :
    (TW.rowGranted x r st k).Fixed mk := by
  unfold TW.rowGranted
  repeat' (first
    | with_reducible assumption
    | refine fun _ => ?_
    | with_reducible apply TW.readSegs_fixed
    | with_reducible apply TW.commitDue_fixed
    | with_reducible apply TW.map_fixed
    | with_reducible apply TW.Fixed.tile
    | (extract_lets +onlyGivenNames z; with_reducible apply TW.fixed_cut (k := mk) (x := z); rotate_left; clear_value z; intro hz; rotate_right; subst z)
    | (extract_lets +onlyGivenNames z; with_reducible apply Tile.fixed_cut (k := mk) (t := z); rotate_left; clear_value z; intro hz; rotate_right; subst z)
    | extract_lets +onlyGivenNames z
    | (refine Tile.fixed_lit ?_; dsimp only; exact Tile.Fixed.raw (by assumption))
    | with_reducible refine TW.fixed_snd (by assumption) ?_
    | with_reducible refine TW.fixed_trd (by assumption) ?_
    | split)

theorem TW.fetchTo_fixed {mk : Setup} (x : TW) (c : Nat) (h : x.Fixed mk) :
    (TW.fetchTo x c).Fixed mk := by
  unfold TW.fetchTo
  repeat' (first
    | with_reducible assumption
    | refine fun _ => ?_
    | with_reducible apply TW.requestGo_fixed
    | with_reducible apply TW.rowGranted_fixed
    | with_reducible apply TW.map_fixed
    | with_reducible apply TW.Fixed.tile
    | (extract_lets +onlyGivenNames z; with_reducible apply TW.fixed_cut (k := mk) (x := z); rotate_left; clear_value z; intro hz; rotate_right; subst z)
    | (extract_lets +onlyGivenNames z; with_reducible apply Tile.fixed_cut (k := mk) (t := z); rotate_left; clear_value z; intro hz; rotate_right; subst z)
    | extract_lets +onlyGivenNames z
    | (refine Tile.fixed_lit ?_; dsimp only; exact Tile.Fixed.raw (by assumption))
    | with_reducible refine TW.fixed_snd (by assumption) ?_
    | with_reducible refine TW.fixed_trd (by assumption) ?_
    | split)

theorem TW.startRow_fixed {mk : Setup} (x : TW) (r c : Nat) (h : x.Fixed mk) :
    (TW.startRow x r c).Fixed mk := by
  unfold TW.startRow
  repeat' (first
    | with_reducible assumption
    | refine fun _ => ?_
    | with_reducible apply TW.map_fixed
    | (extract_lets +onlyGivenNames z; with_reducible apply TW.fixed_cut (k := mk) (x := z); rotate_left; clear_value z; intro hz; rotate_right; subst z)
    | (extract_lets +onlyGivenNames z; with_reducible apply Tile.fixed_cut (k := mk) (t := z); rotate_left; clear_value z; intro hz; rotate_right; subst z)
    | extract_lets +onlyGivenNames z
    | (refine Tile.fixed_lit ?_; dsimp only; exact Tile.Fixed.raw (by assumption)))

theorem TW.fetchRow_fixed {mk : Setup} (x : TW) (h : x.Fixed mk) :
    (TW.fetchRow x).Fixed mk := by
  unfold TW.fetchRow
  repeat' (first
    | with_reducible assumption
    | with_reducible apply TW.requestGo_fixed
    | with_reducible apply TW.rowGranted_fixed
    | with_reducible apply TW.startRow_fixed
    | with_reducible apply TW.Fixed.tile
    | (extract_lets +onlyGivenNames z; with_reducible apply TW.fixed_cut (k := mk) (x := z); rotate_left; clear_value z; intro hz; rotate_right; subst z)
    | (extract_lets +onlyGivenNames z; with_reducible apply Tile.fixed_cut (k := mk) (t := z); rotate_left; clear_value z; intro hz; rotate_right; subst z)
    | extract_lets +onlyGivenNames z
    | with_reducible refine TW.fixed_snd (by assumption) ?_
    | with_reducible refine TW.fixed_trd (by assumption) ?_
    | split)

theorem TW.enterRow_fixed {mk : Setup} (x : TW) (c : Nat) (port : Bool) (h : x.Fixed mk) :
    (TW.enterRow x c port).Fixed mk := by
  unfold TW.enterRow
  repeat' (first
    | with_reducible assumption
    | refine fun _ => ?_
    | with_reducible apply TW.fetchTo_fixed
    | with_reducible apply TW.startRow_fixed
    | with_reducible apply TW.map_fixed
    | with_reducible apply TW.Fixed.tile
    | (extract_lets +onlyGivenNames z; with_reducible apply TW.fixed_cut (k := mk) (x := z); rotate_left; clear_value z; intro hz; rotate_right; subst z)
    | (extract_lets +onlyGivenNames z; with_reducible apply Tile.fixed_cut (k := mk) (t := z); rotate_left; clear_value z; intro hz; rotate_right; subst z)
    | extract_lets +onlyGivenNames z
    | (refine Tile.fixed_lit ?_; dsimp only; exact Tile.Fixed.raw (by assumption))
    | with_reducible refine TW.fixed_snd (by assumption) ?_
    | with_reducible refine TW.fixed_trd (by assumption) ?_
    | split)

theorem Tile.displaceRow_fixed {mk : Setup} (t : Tile) (c : Nat) (h : t.Fixed mk) :
    (Tile.displaceRow t c).Fixed mk := by
  unfold Tile.displaceRow
  repeat' (first
    | with_reducible assumption
    | (extract_lets +onlyGivenNames z; with_reducible apply TW.fixed_cut (k := mk) (x := z); rotate_left; clear_value z; intro hz; rotate_right; subst z)
    | (extract_lets +onlyGivenNames z; with_reducible apply Tile.fixed_cut (k := mk) (t := z); rotate_left; clear_value z; intro hz; rotate_right; subst z)
    | extract_lets +onlyGivenNames z
    | (refine Tile.fixed_lit ?_; dsimp only; exact Tile.Fixed.raw (by assumption))
    | with_reducible refine TW.fixed_snd (by assumption) ?_
    | with_reducible refine TW.fixed_trd (by assumption) ?_
    | split)

theorem Tile.rowSlip_fixed {mk : Setup} (t : Tile) (lo : Nat) (h : t.Fixed mk) :
    (Tile.rowSlip t lo).Fixed mk := by
  unfold Tile.rowSlip
  repeat' (first
    | with_reducible assumption
    | (extract_lets +onlyGivenNames z; with_reducible apply TW.fixed_cut (k := mk) (x := z); rotate_left; clear_value z; intro hz; rotate_right; subst z)
    | (extract_lets +onlyGivenNames z; with_reducible apply Tile.fixed_cut (k := mk) (t := z); rotate_left; clear_value z; intro hz; rotate_right; subst z)
    | extract_lets +onlyGivenNames z
    | (refine Tile.fixed_lit ?_; dsimp only; exact Tile.Fixed.raw (by assumption))
    | with_reducible refine TW.fixed_snd (by assumption) ?_
    | split)

theorem TW.issueCounts_fixed {mk : Setup} (x : TW) (c0 c cReg cRow q : Nat) (taken : Bool) (h : x.Fixed mk) :
    (TW.issueCounts x c0 c cReg cRow q taken).Fixed mk := by
  unfold TW.issueCounts
  repeat' (first
    | with_reducible assumption
    | with_reducible apply TW.perfOf_fixed
    | with_reducible apply TW.perf_fixed
    | with_reducible apply TW.Fixed.tile
    | (extract_lets +onlyGivenNames z; with_reducible apply TW.fixed_cut (k := mk) (x := z); rotate_left; clear_value z; intro hz; rotate_right; subst z)
    | (extract_lets +onlyGivenNames z; with_reducible apply Tile.fixed_cut (k := mk) (t := z); rotate_left; clear_value z; intro hz; rotate_right; subst z)
    | extract_lets +onlyGivenNames z
    | (with_reducible refine TW.fixed_ite (fun _ => ?_) (fun _ => ?_))
    | (with_reducible refine Tile.fixed_ite (fun _ => ?_) (fun _ => ?_)))

theorem Tile.lostAt_fixed {mk : Setup} (t : Tile) (c : Nat) (h : t.Fixed mk) :
    (Tile.lostAt t c).Fixed mk := by
  unfold Tile.lostAt
  repeat' (first
    | with_reducible assumption
    | (refine Tile.fixed_lit ?_; dsimp only; exact Tile.Fixed.raw (by assumption))
    | (with_reducible refine TW.fixed_ite (fun _ => ?_) (fun _ => ?_))
    | (with_reducible refine Tile.fixed_ite (fun _ => ?_) (fun _ => ?_)))

theorem TW.portGo_fixed {mk : Setup} (x : TW) (sh : Shape) (c : Nat) (r0 : Nat) (h : x.Fixed mk) :
    (TW.portGo x sh c r0).2.2.Fixed mk := by
  induction r0 generalizing x sh c with
  | zero =>
    unfold TW.portGo
    repeat' (first
      | with_reducible assumption
      | refine fun _ => ?_
      | with_reducible apply Tile.grant_fixed
      | with_reducible apply TW.conflict_fixed
      | with_reducible apply TW.ports_fixed
      | with_reducible apply Tile.lostAt_fixed
      | with_reducible apply TW.perf_fixed
      | with_reducible apply TW.map_fixed
      | with_reducible apply TW.Fixed.tile
      | (extract_lets +onlyGivenNames z; with_reducible apply TW.fixed_cut (k := mk) (x := z); rotate_left; clear_value z; intro hz; rotate_right; subst z)
      | (extract_lets +onlyGivenNames z; with_reducible apply Tile.fixed_cut (k := mk) (t := z); rotate_left; clear_value z; intro hz; rotate_right; subst z)
      | extract_lets +onlyGivenNames z
      | (refine Tile.fixed_lit ?_; dsimp only; exact Tile.Fixed.raw (by assumption))
      | with_reducible refine TW.fixed_snd (by assumption) ?_
      | with_reducible refine TW.fixed_trd (by assumption) ?_
      | split)
  | succ r0 ih =>
    unfold TW.portGo
    repeat' (first
      | with_reducible assumption
      | refine fun _ => ?_
      | with_reducible apply ih
      | with_reducible apply Tile.grant_fixed
      | with_reducible apply TW.conflict_fixed
      | with_reducible apply TW.ports_fixed
      | with_reducible apply Tile.lostAt_fixed
      | with_reducible apply TW.perf_fixed
      | with_reducible apply TW.map_fixed
      | with_reducible apply TW.Fixed.tile
      | (extract_lets +onlyGivenNames z; with_reducible apply TW.fixed_cut (k := mk) (x := z); rotate_left; clear_value z; intro hz; rotate_right; subst z)
      | (extract_lets +onlyGivenNames z; with_reducible apply Tile.fixed_cut (k := mk) (t := z); rotate_left; clear_value z; intro hz; rotate_right; subst z)
      | extract_lets +onlyGivenNames z
      | (refine Tile.fixed_lit ?_; dsimp only; exact Tile.Fixed.raw (by assumption))
      | with_reducible refine TW.fixed_snd (by assumption) ?_
      | with_reducible refine TW.fixed_trd (by assumption) ?_
      | split)

theorem TW.portAt_fixed {mk : Setup} (x : TW) (c : Nat) (sh : Shape) (h : x.Fixed mk) :
    (TW.portAt x c sh).2.Fixed mk := by
  unfold TW.portAt
  repeat' (first
    | with_reducible assumption
    | refine fun _ => ?_
    | with_reducible apply TW.enterRow_fixed
    | with_reducible apply Tile.displaceRow_fixed
    | with_reducible apply TW.portGo_fixed
    | with_reducible apply TW.map_fixed
    | (refine Tile.fixed_lit ?_; dsimp only; exact Tile.Fixed.raw (by assumption))
    | with_reducible refine TW.fixed_snd (by assumption) ?_
    | with_reducible refine TW.fixed_trd (by assumption) ?_
    | split)

theorem TW.readDesc_fixed {k : Setup} (x : TW) (c a : Nat) (h : x.Fixed k) :
    (TW.readDesc x c a).2.Fixed k := by
  unfold TW.readDesc
  repeat' (first
    | with_reducible assumption
    | with_reducible apply TW.readPart_fixed
    | with_reducible apply TW.violation_fixed
    | with_reducible apply TW.Fixed.tile
    | split)

/-- The set-up of a tile. -/
def Tile.setup (t : Tile) : Setup :=
  ⟨rreg tileReset t.regs, t.partNext, t.released, t.tickRel, t.xlen, t.inPhase, t.pen, (t.phaseLen, t.winLo, t.winHi, t.winEn)⟩

theorem Tile.fixed_self (t : Tile) : t.Fixed t.setup := ⟨⟨fun _ _ _ => rfl, rfl, rfl, rfl, rfl, rfl, rfl, rfl⟩⟩

/-- R113-R116: what a tile's program may reach is part of its set-up. -/
theorem Tile.Fixed.permits {t u : Tile} (h : t.Fixed u.setup) (c : Nat) (k : AccKind) (row : Nat) :
    t.permits c k row = u.permits c k row := by
  have hp : ∀ j, j < 16 → t.part c j = u.part c j := by
    intro j hj
    unfold Tile.part
    rw [show t.partNext = u.partNext from h.raw.partNext, h.raw.word (0x80 + 8 * j) (by omega) (by omega)]
    rfl
  have hl : (List.range 16).map (t.part c) = (List.range 16).map (u.part c) :=
    List.map_congr_left fun j hj => hp j (List.mem_range.mp hj)
  unfold Tile.permits Tile.partOf
  rw [hl]

end Sys2Proof.Machine
end

