-- ==== Sys2Proof/Laws/SideModule.lean ====
section
/-! SUPPORT. What a tile's instruction does outside the tile (R98, R330, R408-R414, R454-R469) leaves every tile as it was, but for
the claims and grants that a send announces at its receiver. -/

namespace Sys2Proof.Machine

/-- Every tile, but for its claims and grants. -/
structure TileSides (k : Nat → Tile) (m : SMap Tile) : Prop where
  sorted : SMap.sorted m = true
  eq : ∀ q, ∃ a b, SMap.getD m q Tile.fresh = { k q with claims := a, penSoon := b }

theorem TileSides.put {k : Nat → Tile} {m : SMap Tile} (h : TileSides k m) (p : Nat) (t : Tile) :
    TileSides (fun q => if q = p then t else k q) (SMap.put m p t Tile.fresh) := by
  refine ⟨SMap.sorted_put m p t _ h.sorted, fun q => ?_⟩
  by_cases e : q = p
  · subst e; rw [if_pos rfl, SMap.getD_put_same _ _ _ _ h.sorted]; exact ⟨t.claims, t.penSoon, rfl⟩
  · rw [if_neg e, SMap.getD_put_other _ _ _ _ _ _ e]; exact h.eq q

structure State.Sides (k : Nat → Tile) (s : State) : Prop where
  tiles : TileSides k s.tiles

theorem State.sides_lit {k : Nat → Tile} {s : State} (h : TileSides k s.tiles) : s.Sides k := ⟨h⟩

theorem State.Sides.raw {k : Nat → Tile} {s : State} (h : s.Sides k) : TileSides k s.tiles := h.tiles

theorem State.Sides.same {k : Nat → Tile} {s : State} (h : s.Sides k) (q : Nat) :
    ∃ a b, s.tile q = { k q with claims := a, penSoon := b } := h.tiles.eq q

theorem State.sides_cut {k : Nat → Tile} {s : State} {G : Prop} (h : s.Sides k) (g : s.Sides k → G) : G := g h

theorem State.sides_ite {k : Nat → Tile} {c : Prop} [Decidable c] {a b : State} (ha : c → a.Sides k)
    (hb : ¬ c → b.Sides k) : (if c then a else b).Sides k := by
  split
  · exact ha ‹_›
  · exact hb ‹_›

theorem State.sides_foldl {k : Nat → Tile} {α : Type} (f : State → α → State) (l : List α) (s : State)
    (hf : ∀ s a, s.Sides k → (f s a).Sides k) (h : s.Sides k) : (l.foldl f s).Sides k := by
  induction l generalizing s with
  | nil => exact h
  | cons a l ih => exact ih _ (hf s a h)

theorem State.sides_snd {k : Nat → Tile} {α : Type} {p : α × State} {a : α} {s : State} (e : p = (a, s))
    (h : p.2.Sides k) : s.Sides k := by
  subst e; exact h

theorem State.sides_trd {k : Nat → Tile} {α β : Type} {p : α × β × State} {a : α} {b : β} {s : State}
    (e : p = (a, b, s)) (h : p.2.2.Sides k) : s.Sides k := by
  subst e; exact h

theorem State.put_sides {k : Nat → Tile} (s : State) (f : RF) (v : Nat) (h : s.Sides k) : (s.put f v).Sides k :=
  State.sides_lit h.raw

theorem State.setWord_sides {k : Nat → Tile} (s : State) (a : Nat) (v : Word) (h : s.Sides k) :
    (s.setWord a v).Sides k := State.sides_lit h.raw

theorem State.mapTile_sides {k : Nat → Tile} (s : State) (p : Nat) (f : Tile → Tile) (hf : ∀ t, ∃ a b, f t = { t with claims := a, penSoon := b })
    (h : s.Sides k) : (s.mapTile p f).Sides k := by
  have h1 := h.tiles.put p (f (s.tile p))
  refine ⟨⟨h1.sorted, fun q => ?_⟩⟩
  rw [show (s.mapTile p f).tiles = SMap.put s.tiles p (f (s.tile p)) Tile.fresh from rfl]
  obtain ⟨a, b, hq⟩ := h1.eq q
  rw [hq]
  split
  · next e =>
    subst e
    obtain ⟨a1, b1, e1⟩ := hf (s.tile q)
    obtain ⟨a2, b2, e2⟩ := h.tiles.eq q
    rw [e1]
    rw [show s.tile q = _ from e2]
    exact ⟨_, _, rfl⟩
  · exact ⟨a, b, rfl⟩

theorem State.add_sides {k : Nat → Tile} (s : State) (f : RF) (n : Nat) (h : s.Sides k) :
    (State.add s f n).Sides k := by
  unfold State.add
  repeat' (first
    | with_reducible assumption
    | with_reducible apply State.put_sides
    | (with_reducible refine State.sides_ite (fun _ => ?_) (fun _ => ?_)))

theorem State.errc_sides {k : Nat → Tile} (s : State) (i n : Nat) (h : s.Sides k) :
    (State.errc s i n).Sides k := by
  unfold State.errc
  repeat' (first
    | with_reducible assumption
    | (refine State.sides_lit ?_; dsimp only; exact State.Sides.raw (by assumption))
    | (with_reducible refine State.sides_ite (fun _ => ?_) (fun _ => ?_)))

theorem State.count_sides {k : Nat → Tile} (s : State) (f : RF) (i n : Nat) (h : s.Sides k) :
    (State.count s f i n).Sides k := by
  unfold State.count
  repeat' (first
    | with_reducible assumption
    | with_reducible apply State.add_sides
    | with_reducible apply State.errc_sides)

theorem State.setPort_sides {k : Nat → Tile} (s : State) (f p : Nat) (x : Port) (h : s.Sides k) :
    (State.setPort s f p x).Sides k := by
  unfold State.setPort
  repeat' (first
    | with_reducible assumption
    | (refine State.sides_lit ?_; dsimp only; exact State.Sides.raw (by assumption)))

theorem State.mapPort_sides {k : Nat → Tile} (s : State) (f p : Nat) (g : Port → Port) (h : s.Sides k) :
    (State.mapPort s f p g).Sides k := by
  unfold State.mapPort
  repeat' (first
    | with_reducible assumption
    | with_reducible apply State.setPort_sides)

theorem State.freeBuf_sides {ks : Nat → Tile} (s : State) (f : Nat) (inPort : Option Nat) (vc : Nat) (h : s.Sides ks) :
    (State.freeBuf s f inPort vc).Sides ks := by
  unfold State.freeBuf
  repeat' (first
    | with_reducible assumption
    | refine fun _ => ?_
    | with_reducible apply State.mapPort_sides
    | (refine State.sides_lit ?_; dsimp only; exact State.Sides.raw (by assumption))
    | with_reducible refine State.sides_snd (by assumption) ?_
    | split)

theorem State.toInbox_sides {ks : Nat → Tile} (s : State) (inPort : Option Nat) (x : Flit) (h : s.Sides ks) :
    (State.toInbox s inPort x).Sides ks := by
  unfold State.toInbox
  repeat' (first
    | with_reducible assumption
    | with_reducible apply State.count_sides
    | with_reducible apply State.freeBuf_sides
    | (extract_lets +onlyGivenNames z; with_reducible apply State.sides_cut (k := ks) (s := z); rotate_left; clear_value z; intro hz; rotate_right; subst z)
    | extract_lets +onlyGivenNames z
    | (refine State.sides_lit ?_; dsimp only; exact State.Sides.raw (by assumption))
    | (with_reducible refine State.sides_ite (fun _ => ?_) (fun _ => ?_)))

theorem State.enqueueOut_sides {ks : Nat → Tile} (s : State) (f p : Nat) (inPort : Option Nat) (x : Flit) (h : s.Sides ks) :
    (State.enqueueOut s f p inPort x).Sides ks := by
  unfold State.enqueueOut
  repeat' (first
    | with_reducible assumption
    | refine fun _ => ?_
    | with_reducible apply State.count_sides
    | with_reducible apply State.mapPort_sides
    | with_reducible apply State.freeBuf_sides
    | (refine State.sides_lit ?_; dsimp only; exact State.Sides.raw (by assumption))
    | (with_reducible refine State.sides_ite (fun _ => ?_) (fun _ => ?_)))

theorem State.fabEvent_sides {k : Nat → Tile} (s : State) (f code n : Nat) (h : s.Sides k) :
    (State.fabEvent s f code n).Sides k := by
  unfold State.fabEvent
  repeat' (first
    | with_reducible assumption
    | (refine State.sides_lit ?_; dsimp only; exact State.Sides.raw (by assumption)))

theorem State.countRx_sides {ks : Nat → Tile} (s : State) (f p : Nat) (h : s.Sides ks) :
    (State.countRx s f p).Sides ks := by
  unfold State.countRx
  repeat' (first
    | with_reducible assumption
    | with_reducible apply State.add_sides
    | with_reducible apply State.count_sides
    | with_reducible apply State.fabEvent_sides)

theorem State.countTx_sides {ks : Nat → Tile} (s : State) (f p vc : Nat) (h : s.Sides ks) :
    (State.countTx s f p vc).Sides ks := by
  unfold State.countTx
  repeat' (first
    | with_reducible assumption
    | with_reducible apply State.add_sides
    | with_reducible apply State.count_sides
    | with_reducible apply State.fabEvent_sides
    | (extract_lets +onlyGivenNames z; with_reducible apply State.sides_cut (k := ks) (s := z); rotate_left; clear_value z; intro hz; rotate_right; subst z)
    | extract_lets +onlyGivenNames z
    | (with_reducible refine State.sides_ite (fun _ => ?_) (fun _ => ?_)))

theorem State.crossSpine_sides {ks : Nat → Tile} (s : State) (f flow vc : Nat) (h : s.Sides ks) :
    (State.crossSpine s f flow vc).Sides ks := by
  unfold State.crossSpine
  repeat' (first
    | with_reducible assumption
    | with_reducible apply State.countRx_sides
    | with_reducible apply State.countTx_sides)

theorem State.fromDie_sides {ks : Nat → Tile} (s : State) (d flow vc : Nat) (h : s.Sides ks) :
    (State.fromDie s d flow vc).Sides ks := by
  unfold State.fromDie
  repeat' (first
    | with_reducible assumption
    | with_reducible apply State.countRx_sides
    | with_reducible apply State.crossSpine_sides
    | (extract_lets +onlyGivenNames z; with_reducible apply State.sides_cut (k := ks) (s := z); rotate_left; clear_value z; intro hz; rotate_right; subst z)
    | extract_lets +onlyGivenNames z
    | (with_reducible refine State.sides_ite (fun _ => ?_) (fun _ => ?_)))

theorem State.toDie_sides {ks : Nat → Tile} (s : State) (d flow vc : Nat) (h : s.Sides ks) :
    (State.toDie s d flow vc).Sides ks := by
  unfold State.toDie
  repeat' (first
    | with_reducible assumption
    | with_reducible apply State.countTx_sides
    | with_reducible apply State.crossSpine_sides
    | (extract_lets +onlyGivenNames z; with_reducible apply State.sides_cut (k := ks) (s := z); rotate_left; clear_value z; intro hz; rotate_right; subst z)
    | extract_lets +onlyGivenNames z
    | (with_reducible refine State.sides_ite (fun _ => ?_) (fun _ => ?_)))

theorem State.ownCopy_sides {ks : Nat → Tile} (s : State) (f : Nat) (x : Flit) (h : s.Sides ks) :
    (State.ownCopy s f x).Sides ks := by
  unfold State.ownCopy
  repeat' (first
    | with_reducible assumption
    | with_reducible apply State.crossSpine_sides
    | with_reducible apply State.toInbox_sides
    | (with_reducible refine State.sides_ite (fun _ => ?_) (fun _ => ?_)))

theorem State.dispatchFlit_sides {ks : Nat → Tile} (s : State) (f : Nat) (inPort : Option Nat) (x : Flit) (h : s.Sides ks) :
    (State.dispatchFlit s f inPort x).Sides ks := by
  unfold State.dispatchFlit
  repeat' (first
    | with_reducible assumption
    | refine fun _ => ?_
    | with_reducible apply State.add_sides
    | with_reducible apply State.count_sides
    | with_reducible apply State.fabEvent_sides
    | with_reducible apply State.freeBuf_sides
    | with_reducible apply State.toInbox_sides
    | with_reducible apply State.enqueueOut_sides
    | with_reducible apply State.ownCopy_sides
    | with_reducible apply State.sides_foldl
    | (extract_lets +onlyGivenNames z; with_reducible apply State.sides_cut (k := ks) (s := z); rotate_left; clear_value z; intro hz; rotate_right; subst z)
    | extract_lets +onlyGivenNames z
    | (refine State.sides_lit ?_; dsimp only; exact State.Sides.raw (by assumption))
    | with_reducible refine State.sides_snd (by assumption) ?_
    | split)

theorem State.badRow_sides {ks : Nat → Tile} (s : State) (f : Nat) (x : Flit) (h : s.Sides ks) :
    (State.badRow s f x).Sides ks := by
  unfold State.badRow
  repeat' (first
    | with_reducible assumption
    | with_reducible apply State.count_sides
    | with_reducible apply State.dispatchFlit_sides
    | (extract_lets +onlyGivenNames z; with_reducible apply State.sides_cut (k := ks) (s := z); rotate_left; clear_value z; intro hz; rotate_right; subst z)
    | extract_lets +onlyGivenNames z
    | (with_reducible refine State.sides_ite (fun _ => ?_) (fun _ => ?_)))

theorem State.inject_sides {ks : Nat → Tile} (s : State) (f : Nat) (x : Flit) (h : s.Sides ks) :
    (State.inject s f x).Sides ks := by
  unfold State.inject
  repeat' (first
    | with_reducible assumption
    | with_reducible apply State.dispatchFlit_sides
    | with_reducible apply State.badRow_sides
    | (with_reducible refine State.sides_ite (fun _ => ?_) (fun _ => ?_)))

theorem State.hbmSetSeg_sides {k : Nat → Tile} (s : State) (d p seg v : Nat) (pois : Bool) (h : s.Sides k) :
    (State.hbmSetSeg s d p seg v pois).Sides k := by
  unfold State.hbmSetSeg
  repeat' (first
    | with_reducible assumption
    | (refine State.sides_lit ?_; dsimp only; exact State.Sides.raw (by assumption)))

theorem State.hbmError_sides {ks : Nat → Tile} (s : State) (d p seg mark : Nat) (h : s.Sides ks) :
    (State.hbmError s d p seg mark).Sides ks := by
  unfold State.hbmError
  repeat' (first
    | with_reducible assumption
    | with_reducible apply State.put_sides
    | with_reducible apply State.count_sides
    | (extract_lets +onlyGivenNames z; with_reducible apply State.sides_cut (k := ks) (s := z); rotate_left; clear_value z; intro hz; rotate_right; subst z)
    | extract_lets +onlyGivenNames z
    | (with_reducible refine State.sides_ite (fun _ => ?_) (fun _ => ?_)))

theorem State.hbmReadSeg_sides {ks : Nat → Tile} (s : State) (d p seg : Nat) (h : s.Sides ks) :
    (State.hbmReadSeg s d p seg).2.2.Sides ks := by
  unfold State.hbmReadSeg
  repeat' (first
    | with_reducible assumption
    | with_reducible apply State.put_sides
    | with_reducible apply State.hbmSetSeg_sides
    | with_reducible apply State.hbmError_sides
    | (extract_lets +onlyGivenNames z; with_reducible apply State.sides_cut (k := ks) (s := z); rotate_left; clear_value z; intro hz; rotate_right; subst z)
    | extract_lets +onlyGivenNames z
    | (refine State.sides_lit ?_; dsimp only; exact State.Sides.raw (by assumption))
    | split)

theorem State.hbmMerge_sides {ks : Nat → Tile} (s : State) (d p seg : Nat) (h : s.Sides ks) :
    (State.hbmMerge s d p seg).2.2.Sides ks := by
  unfold State.hbmMerge
  repeat' (first
    | with_reducible assumption
    | with_reducible apply State.hbmError_sides
    | (extract_lets +onlyGivenNames z; with_reducible apply State.sides_cut (k := ks) (s := z); rotate_left; clear_value z; intro hz; rotate_right; subst z)
    | extract_lets +onlyGivenNames z
    | split)

theorem State.hbmReadSegs_sides {k : Nat → Tile} (s : State) (d p seg : Nat) (r0 : Nat) (h : s.Sides k) :
    (State.hbmReadSegs s d p seg r0).2.2.Sides k := by
  induction r0 generalizing s d p seg with
  | zero =>
    unfold State.hbmReadSegs
    repeat' (first
      | with_reducible assumption
      | with_reducible apply State.hbmReadSeg_sides)
  | succ r0 ih =>
    unfold State.hbmReadSegs
    repeat' (first
      | with_reducible assumption
      | with_reducible apply ih
      | with_reducible apply State.hbmReadSeg_sides)

theorem State.hbmWriteSegs_sides {k : Nat → Tile} (s : State) (d p seg v : Nat) (marks : List Bool) (r0 : Nat) (h : s.Sides k) :
    (State.hbmWriteSegs s d p seg v marks r0).Sides k := by
  induction r0 generalizing s d p seg v marks with
  | zero =>
    unfold State.hbmWriteSegs
    repeat' (first
      | with_reducible assumption
      | with_reducible apply State.hbmSetSeg_sides)
  | succ r0 ih =>
    unfold State.hbmWriteSegs
    repeat' (first
      | with_reducible assumption
      | with_reducible apply ih
      | with_reducible apply State.hbmSetSeg_sides)

theorem State.hbmParts_sides {ks : Nat → Tile} (s : State) (d p a n v : Nat) (r0 : Nat) (h : s.Sides ks) :
    (State.hbmParts s d p a n v r0).Sides ks := by
  induction r0 generalizing s d p a n v with
  | zero =>
    unfold State.hbmParts
    repeat' (first
      | with_reducible assumption
      | with_reducible apply State.hbmSetSeg_sides
      | with_reducible apply State.hbmMerge_sides
      | (extract_lets +onlyGivenNames z; with_reducible apply State.sides_cut (k := ks) (s := z); rotate_left; clear_value z; intro hz; rotate_right; subst z)
      | extract_lets +onlyGivenNames z
      | with_reducible refine State.sides_snd (by assumption) ?_
      | with_reducible refine State.sides_trd (by assumption) ?_
      | split)
  | succ r0 ih =>
    unfold State.hbmParts
    repeat' (first
      | with_reducible assumption
      | with_reducible apply ih
      | with_reducible apply State.hbmSetSeg_sides
      | with_reducible apply State.hbmMerge_sides
      | (extract_lets +onlyGivenNames z; with_reducible apply State.sides_cut (k := ks) (s := z); rotate_left; clear_value z; intro hz; rotate_right; subst z)
      | extract_lets +onlyGivenNames z
      | with_reducible refine State.sides_snd (by assumption) ?_
      | with_reducible refine State.sides_trd (by assumption) ?_
      | split)

theorem State.hbmWrite_sides {ks : Nat → Tile} (s : State) (d p a n v : Nat) (h : s.Sides ks) :
    (State.hbmWrite s d p a n v).Sides ks := by
  unfold State.hbmWrite
  repeat' (first
    | with_reducible assumption
    | with_reducible apply State.hbmParts_sides)

theorem State.ringWrite_sides {ks : Nat → Tile} (s : State) (d c k lg off tail head : Nat) (r : Record) (h : s.Sides ks) :
    (State.ringWrite s d c k lg off tail head r).2.Sides ks := by
  unfold State.ringWrite
  repeat' (first
    | with_reducible assumption
    | with_reducible apply State.hbmWrite_sides
    | extract_lets +onlyGivenNames z
    | split)

theorem State.penRecord_sides {k : Nat → Tile} (s : State) (d : Nat) (r : Record) (h : s.Sides k) :
    (State.penRecord s d r).Sides k := by
  unfold State.penRecord
  repeat' (first
    | with_reducible assumption
    | with_reducible apply State.add_sides
    | with_reducible apply State.put_sides
    | with_reducible apply State.ringWrite_sides
    | (with_reducible refine State.sides_ite (fun _ => ?_) (fun _ => ?_)))

theorem State.smpRecord_sides {k : Nat → Tile} (s : State) (d c : Nat) (r : Record) (h : s.Sides k) :
    (State.smpRecord s d c r).Sides k := by
  unfold State.smpRecord
  repeat' (first
    | with_reducible assumption
    | with_reducible apply State.add_sides
    | with_reducible apply State.put_sides
    | with_reducible apply State.ringWrite_sides
    | (refine State.sides_lit ?_; dsimp only; exact State.Sides.raw (by assumption))
    | (with_reducible refine State.sides_ite (fun _ => ?_) (fun _ => ?_)))

theorem State.dieEvent_sides {k : Nat → Tile} (s : State) (d code n : Nat) (h : s.Sides k) :
    (State.dieEvent s d code n).Sides k := by
  unfold State.dieEvent
  repeat' (first
    | with_reducible assumption
    | (refine State.sides_lit ?_; dsimp only; exact State.Sides.raw (by assumption)))

theorem State.tileEvent_sides {k : Nat → Tile} (s : State) (d c code n : Nat) (h : s.Sides k) :
    (State.tileEvent s d c code n).Sides k := by
  unfold State.tileEvent
  repeat' (first
    | with_reducible assumption
    | with_reducible apply State.dieEvent_sides
    | (with_reducible refine State.sides_ite (fun _ => ?_) (fun _ => ?_)))

theorem State.rowCount_sides {ks : Nat → Tile} (s : State) (d k : Nat) (h : s.Sides ks) :
    (State.rowCount s d k).Sides ks := by
  unfold State.rowCount
  repeat' (first
    | with_reducible assumption
    | with_reducible apply State.add_sides
    | with_reducible apply State.count_sides
    | with_reducible apply State.dieEvent_sides)

theorem State.rowMoved_sides {ks : Nat → Tile} (s : State) (p id c : Nat) (viol : Bool) (h : s.Sides ks) :
    (State.rowMoved s p id c viol).Sides ks := by
  unfold State.rowMoved
  repeat' (first
    | with_reducible assumption
    | refine fun _ => ?_
    | (extract_lets +onlyGivenNames z; with_reducible apply State.sides_cut (k := ks) (s := z); rotate_left; clear_value z; intro hz; rotate_right; subst z)
    | extract_lets +onlyGivenNames z
    | (refine State.sides_lit ?_; dsimp only; exact State.Sides.raw (by assumption))
    | split)

theorem State.rowIn_sides {ks : Nat → Tile} (s : State) (p id c : Nat) (viol : Bool) (h : s.Sides ks) :
    (State.rowIn s p id c viol).Sides ks := by
  unfold State.rowIn
  repeat' (first
    | with_reducible assumption
    | refine fun _ => ?_
    | with_reducible apply State.rowCount_sides
    | with_reducible apply State.rowMoved_sides
    | with_reducible refine State.sides_snd (by assumption) ?_
    | split)

theorem State.rowOut_sides {ks : Nat → Tile} (s : State) (p id row req due v : Nat) (marks : List Bool) (viol : Bool) (h : s.Sides ks) :
    (State.rowOut s p id row req due v marks viol).Sides ks := by
  unfold State.rowOut
  repeat' (first
    | with_reducible assumption
    | refine fun _ => ?_
    | (extract_lets +onlyGivenNames z; with_reducible apply State.sides_cut (k := ks) (s := z); rotate_left; clear_value z; intro hz; rotate_right; subst z)
    | extract_lets +onlyGivenNames z
    | (refine State.sides_lit ?_; dsimp only; exact State.Sides.raw (by assumption))
    | with_reducible refine State.sides_snd (by assumption) ?_
    | with_reducible refine State.sides_trd (by assumption) ?_
    | split)

theorem State.endAudits_sides {k : Nat → Tile} (s : State) (p : Nat) (h : s.Sides k) :
    (State.endAudits s p).Sides k := by
  unfold State.endAudits
  repeat' (first
    | with_reducible assumption
    | with_reducible apply State.errc_sides
    | (refine State.sides_lit ?_; dsimp only; exact State.Sides.raw (by assumption))
    | (with_reducible refine State.sides_ite (fun _ => ?_) (fun _ => ?_)))

theorem State.suspect_sides {k : Nat → Tile} (s : State) (p code : Nat) (h : s.Sides k) :
    (State.suspect s p code).Sides k := by
  unfold State.suspect
  repeat' (first
    | with_reducible assumption
    | with_reducible apply State.endAudits_sides
    | with_reducible apply State.errc_sides
    | with_reducible apply State.put_sides
    | (extract_lets +onlyGivenNames z; with_reducible apply State.sides_cut (k := k) (s := z); rotate_left; clear_value z; intro hz; rotate_right; subst z)
    | extract_lets +onlyGivenNames z
    | (refine State.sides_lit ?_; dsimp only; exact State.Sides.raw (by assumption))
    | (with_reducible refine State.sides_ite (fun _ => ?_) (fun _ => ?_)))

theorem State.sendEvent_sides {k : Nat → Tile} (s : State) (kind ctx : Nat) (h : s.Sides k) :
    (State.sendEvent s kind ctx).Sides k := by
  unfold State.sendEvent
  repeat' (first
    | with_reducible assumption
    | with_reducible apply State.inject_sides
    | (with_reducible refine State.sides_ite (fun _ => ?_) (fun _ => ?_)))

theorem State.ctxEvent_sides {k : Nat → Tile} (s : State) (kind ctx : Nat) (h : s.Sides k) :
    (State.ctxEvent s kind ctx).Sides k := by
  unfold State.ctxEvent
  repeat' (first
    | with_reducible assumption
    | with_reducible apply State.sendEvent_sides
    | (with_reducible refine State.sides_ite (fun _ => ?_) (fun _ => ?_)))

theorem State.tileFaulted_sides {k : Nat → Tile} (s : State) (d ctx gid code c : Nat) (h : s.Sides k) :
    (State.tileFaulted s d ctx gid code c).Sides k := by
  unfold State.tileFaulted
  repeat' (first
    | with_reducible assumption
    | with_reducible apply State.ctxEvent_sides
    | with_reducible apply State.put_sides
    | (extract_lets +onlyGivenNames z; with_reducible apply State.sides_cut (k := k) (s := z); rotate_left; clear_value z; intro hz; rotate_right; subst z)
    | (refine State.sides_lit ?_; dsimp only; exact State.Sides.raw (by assumption))
    | (with_reducible refine State.sides_ite (fun _ => ?_) (fun _ => ?_)))

theorem State.expect_sides {k : Nat → Tile} (s : State) (p dest row c : Nat) (h : s.Sides k) :
    (State.expect s p dest row c).Sides k := by
  unfold State.expect
  refine State.sides_ite (fun _ => h) (fun _ => ?_)
  exact State.mapTile_sides _ _ _ (fun t => ⟨_, _, rfl⟩) h

/-- R98, R330, R408-R414, R454-R469: an effect other than an increment leaves every tile but for its claims and grants. -/
theorem State.effect_sides {k : Nat → Tile} (s : State) (p : Nat) (e : Env) (c : Nat) (v : Ev)
    (h : s.Sides k) : (s.effect p e c v).Sides k := by
  cases v <;> unfold State.effect <;> dsimp only
  case errc => exact State.errc_sides _ _ _ h
  case suspect => exact State.suspect_sides _ _ _ h
  case faulted => exact State.tileFaulted_sides _ _ _ _ _ _ h
  case credits => exact State.sides_ite (fun _ => State.inject_sides _ _ _ (State.fromDie_sides _ _ _ _ h)) (fun _ => h)
  case signal => exact h
  case perf => exact State.tileEvent_sides _ _ _ _ _ h
  case sample => exact State.smpRecord_sides _ _ _ _ h
  case hazard => exact State.sides_ite (fun _ => State.penRecord_sides _ _ _ h) (fun _ => h)
  case claim =>
    refine State.mapTile_sides _ _ _ (fun t => ?_) h
    split <;> exact ⟨_, _, rfl⟩
  case arrive => exact State.expect_sides _ _ _ _ _ h
  case rowIn => exact State.rowIn_sides _ _ _ _ _ h
  case rowOut => exact State.rowOut_sides _ _ _ _ _ _ _ _ _ h
  case request => exact State.sides_lit h.raw
  case watch => exact State.sides_lit h.raw

theorem State.effects_sides {k : Nat → Tile} (p : Nat) (e : Env) (c : Nat) (l : List Ev) (s : State)
    (h : s.Sides k) : (s.effects p e c l).Sides k := by
  induction l generalizing s with
  | nil => exact h
  | cons v l ih => exact ih _ (State.effect_sides _ _ _ _ _ h)

/-- What a function of a tile's units does to the tiles, when it hands out no increment: its own is what the function
leaves, and every other is as it was, but for claims and grants. -/
theorem State.onTile_sides (s : State) (p : Nat) (f : TW → TW) (hs : SMap.sorted s.tiles = true)
    (hq : (f ⟨s.tile p, [], s.env p⟩).out.all Ev.quiet = true) :
    (s.onTile p f).Sides fun q => if q = p then (f ⟨s.tile p, [], s.env p⟩).t else s.tile q := by
  have hn : (s.onTileGo p f).2 = [] := by
    simp only [State.onTileGo, List.filter_eq_nil_iff]
    intro v hv
    have := List.all_eq_true.mp hq v hv
    cases v <;> simp_all [Ev.quiet]
  have hu : s.onTile p f = (s.onTileGo p f).1 := by
    unfold State.onTile
    simp only
    rw [hn]
    rfl
  rw [hu]
  refine State.effects_sides _ _ _ _ _ ⟨?_⟩
  exact TileSides.put (k := fun q => s.tile q) ⟨hs, fun q => ⟨_, _, rfl⟩⟩ p _

end Sys2Proof.Machine
end

