-- ==== Sys2Proof/Laws/StillTile.lean ====
section
/-! SUPPORT. While nothing waits to be written to a tile's Palette, an issue leaves every byte and every poison flag of it
as it was. -/

namespace Sys2Proof.Machine

/-- The Palette's bytes and poison flags. -/
structure Bits where
  pal : SMap (BitVec 8)
  pois : SMap Bool

/-- A tile in which nothing waits for the Palette, with its contents. -/
structure Tile.Calm (k : Bits) (t : Tile) : Prop where
  still : t.Still
  pal : t.pal = k.pal
  pois : t.palPois = k.pois

structure CalmParts (k : Bits) (a : List (Nat × Nat × Nat × Nat × Bool)) (b : List (Nat × Nat × Nat × Nat × List Bool))
    (c : List GlzWrite) (d : List MulRun) (e : List GlzRun) (g : List EdgeReq) (f : SMap Nat) (p : SMap (BitVec 8)) (q : SMap Bool) :
    Prop where
  stores : a = []
  late : b = []
  glzW : c = []
  mul : d = []
  glz : e = []
  edge : g = []
  palErr : f = []
  pal : p = k.pal
  pois : q = k.pois

theorem Tile.still_lit {k : Bits} {t : Tile}
    (h : CalmParts k t.stores t.late t.glzW t.mul t.glz t.edge t.palErr t.pal t.palPois) : t.Calm k :=
  ⟨⟨h.stores, h.late, h.glzW, h.mul, h.glz, h.edge, h.palErr⟩, h.pal, h.pois⟩

theorem Tile.Calm.raw {k : Bits} {t : Tile} (h : t.Calm k) :
    CalmParts k t.stores t.late t.glzW t.mul t.glz t.edge t.palErr t.pal t.palPois :=
  ⟨h.still.stores, h.still.late, h.still.glzW, h.still.mul, h.still.glz, h.still.edge, h.still.palErr, h.pal, h.pois⟩

theorem Tile.put_still {k : Bits} (t : Tile) (f : RF) (v : Nat) (h : t.Calm k) : (t.put f v).Calm k :=
  Tile.still_lit h.raw

theorem Tile.still_cut {k : Bits} {t : Tile} {G : Prop} (h : t.Calm k) (g : t.Calm k → G) : G := g h

theorem Tile.still_ite {k : Bits} {c : Prop} [Decidable c] {a b : Tile} (ha : c → a.Calm k) (hb : ¬ c → b.Calm k) :
    (if c then a else b).Calm k := by
  split
  · exact ha ‹_›
  · exact hb ‹_›

theorem Tile.still_foldl {k : Bits} {α : Type} (f : Tile → α → Tile) (l : List α) (t : Tile)
    (hf : ∀ t a, t.Calm k → (f t a).Calm k) (h : t.Calm k) : (l.foldl f t).Calm k := by
  induction l generalizing t with
  | nil => exact h
  | cons a l ih => exact ih _ (hf t a h)

/-- The same of a tile with its effects. -/
structure TW.Calm (k : Bits) (x : TW) : Prop where
  tile : x.t.Calm k

theorem TW.put_still {k : Bits} (x : TW) (f : RF) (v : Nat) (h : x.Calm k) : (x.put f v).Calm k :=
  ⟨Tile.put_still _ _ _ h.tile⟩

theorem TW.emit_still {k : Bits} (x : TW) (e : Ev) (h : x.Calm k) : (x.emit e).Calm k := ⟨h.tile⟩

theorem TW.map_still {k : Bits} (x : TW) (f : Tile → Tile) (hf : ∀ t, t.Calm k → (f t).Calm k) (h : x.Calm k) :
    (x.map f).Calm k := ⟨hf _ h.tile⟩

theorem TW.still_cut {k : Bits} {x : TW} {G : Prop} (h : x.Calm k) (g : x.Calm k → G) : G := g h

theorem TW.still_ite {k : Bits} {c : Prop} [Decidable c] {a b : TW} (ha : c → a.Calm k) (hb : ¬ c → b.Calm k) :
    (if c then a else b).Calm k := by
  split
  · exact ha ‹_›
  · exact hb ‹_›

theorem TW.still_snd {k : Bits} {α : Type} {p : α × TW} {a : α} {x : TW} (e : p = (a, x)) (h : p.2.Calm k) : x.Calm k := by
  subst e; exact h

theorem TW.still_trd {k : Bits} {α β : Type} {p : α × β × TW} {a : α} {b : β} {x : TW} (e : p = (a, b, x))
    (h : p.2.2.Calm k) : x.Calm k := by
  subst e; exact h

theorem TW.still_fth {k : Bits} {α β γ : Type} {p : α × β × γ × TW} {a : α} {b : β} {c : γ} {x : TW}
    (e : p = (a, b, c, x)) (h : p.2.2.2.Calm k) : x.Calm k := by
  subst e; exact h

theorem TW.still_foldl {k : Bits} {α : Type} (f : TW → α → TW) (l : List α) (x : TW) (hf : ∀ x a, x.Calm k → (f x a).Calm k)
    (h : x.Calm k) : (l.foldl f x).Calm k := by
  induction l generalizing x with
  | nil => exact h
  | cons a l ih => exact ih _ (hf x a h)

theorem TW.still_foldl_snd {k : Bits} {α β : Type} (f : β × TW → α → β × TW) (l : List α) (p : β × TW)
    (hf : ∀ p a, p.2.Calm k → (f p a).2.Calm k) (h : p.2.Calm k) : (l.foldl f p).2.Calm k := by
  induction l generalizing p with
  | nil => exact h
  | cons a l ih => exact ih _ (hf p a h)

theorem TW.perf_still {k : Bits} (x : TW) (code n : Nat) (h : x.Calm k) : (x.perf code n).Calm k := by
  unfold TW.perf
  split
  · exact h
  · exact ⟨Tile.still_lit h.tile.raw⟩

theorem TW.count_still {k : Bits} (x : TW) (f : RF) (off : Option Nat) (n : Nat) (h : x.Calm k) :
    (TW.count x f off n).Calm k := by
  unfold TW.count
  repeat' (first
    | with_reducible assumption
    | with_reducible apply TW.emit_still
    | with_reducible apply TW.put_still
    | split)

theorem TW.perfOf_still {k : Bits} (x : TW) (code : Nat) (o : Origin) (latency td status : Nat) (h : x.Calm k) :
    (TW.perfOf x code o latency td status).Calm k := by
  unfold TW.perfOf
  repeat' (first
    | with_reducible assumption
    | with_reducible apply TW.emit_still
    | with_reducible apply TW.perf_still
    | (with_reducible refine TW.still_ite (fun _ => ?_) (fun _ => ?_)))

theorem TW.elog_still {mk : Bits} (x : TW) (seg mark : Nat) (h : x.Calm mk) :
    (TW.elog x seg mark).Calm mk := by
  unfold TW.elog
  repeat' (first
    | with_reducible assumption
    | with_reducible apply TW.put_still
    | with_reducible apply Tile.put_still)

theorem TW.corrected_still {mk : Bits} (x : TW) (seg mark : Nat) (h : x.Calm mk) :
    (TW.corrected x seg mark).Calm mk := by
  unfold TW.corrected
  repeat' (first
    | with_reducible assumption
    | with_reducible apply TW.count_still
    | with_reducible apply TW.elog_still)

theorem TW.uncorrectable_still {mk : Bits} (x : TW) (seg mark : Nat) (h : x.Calm mk) :
    (TW.uncorrectable x seg mark).Calm mk := by
  unfold TW.uncorrectable
  repeat' (first
    | with_reducible assumption
    | with_reducible apply TW.count_still
    | with_reducible apply TW.elog_still
    | with_reducible apply TW.emit_still)

theorem TW.violation_still {k : Bits} (x : TW) (h : x.Calm k) :
    (TW.violation x).Calm k := by
  unfold TW.violation
  repeat' (first
    | with_reducible assumption
    | with_reducible apply TW.count_still)

theorem TW.readSeg_still {k : Bits} (x : TW) (seg : Nat) (h : x.Calm k) : (TW.readSeg x seg).2.2.Calm k := by
  unfold TW.readSeg
  rw [show SMap.getD x.t.palErr seg 0 = 0 from by rw [h.tile.still.palErr]; rfl]
  exact h

theorem TW.mergeErr_still {k : Bits} (x : TW) (seg : Nat) (h : x.Calm k) : (TW.mergeErr x seg).Calm k := by
  unfold TW.mergeErr
  rw [show SMap.getD x.t.palErr seg 0 = 0 from by rw [h.tile.still.palErr]; rfl]
  exact h

theorem TW.readSegs_still {k : Bits} (x : TW) (seg : Nat) (r0 : Nat) (h : x.Calm k) :
    (TW.readSegs x seg r0).2.2.Calm k := by
  induction r0 generalizing x seg with
  | zero =>
    unfold TW.readSegs
    repeat' (first
      | with_reducible assumption
      | with_reducible apply TW.readSeg_still)
  | succ r0 ih =>
    unfold TW.readSegs
    repeat' (first
      | with_reducible assumption
      | with_reducible apply ih
      | with_reducible apply TW.readSeg_still)

theorem TW.readRaw_still {k : Bits} (x : TW) (a n : Nat) (h : x.Calm k) :
    (TW.readRaw x a n).2.Calm k := by
  unfold TW.readRaw
  repeat' (first
    | with_reducible assumption
    | with_reducible apply TW.readSegs_still)

theorem TW.mergeFind_still {mk : Bits} (x : TW) (a n : Nat) (h : x.Calm mk) :
    (TW.mergeFind x a n).Calm mk := by
  unfold TW.mergeFind
  repeat' (first
    | with_reducible assumption
    | with_reducible apply TW.mergeErr_still
    | (extract_lets +onlyGivenNames z; with_reducible apply TW.still_cut (k := mk) (x := z); rotate_left; clear_value z; intro hz; rotate_right; subst z)
    | (extract_lets +onlyGivenNames z; with_reducible apply Tile.still_cut (k := mk) (t := z); rotate_left; clear_value z; intro hz; rotate_right; subst z)
    | extract_lets +onlyGivenNames z
    | split)

theorem Tile.grant_still {k : Bits} (t : Tile) (c bank rank : Nat) (h : t.Calm k) :
    (Tile.grant t c bank rank).Calm k := by
  unfold Tile.grant
  repeat' (first
    | with_reducible assumption
    | (refine Tile.still_lit ?_; dsimp only; exact Tile.Calm.raw (by assumption)))

theorem TW.conflict_still {k : Bits} (x : TW) (h : x.Calm k) :
    (TW.conflict x).Calm k := by
  unfold TW.conflict
  repeat' (first
    | with_reducible assumption
    | with_reducible apply TW.count_still
    | with_reducible apply TW.perf_still)

theorem Tile.setGran_still {k : Bits} (t : Tile) (row : Nat) (g : Gran) (h : t.Calm k) :
    (Tile.setGran t row g).Calm k := by
  unfold Tile.setGran
  repeat' (first
    | with_reducible assumption
    | (refine Tile.still_lit ?_; dsimp only; exact Tile.Calm.raw (by assumption)))

theorem Tile.penArrive_still {k : Bits} (t : Tile) (c : Nat) (h : t.Calm k) :
    (Tile.penArrive t c).Calm k := by
  unfold Tile.penArrive
  repeat' (first
    | with_reducible assumption
    | refine fun _ => ?_
    | with_reducible apply Tile.setGran_still
    | (extract_lets +onlyGivenNames z; with_reducible apply Tile.still_cut (t := z); rotate_left; clear_value z; intro hz; rotate_right; subst z)
    | with_reducible apply Tile.still_foldl
    | (refine Tile.still_lit ?_; dsimp only; exact Tile.Calm.raw (by assumption))
    | (with_reducible refine Tile.still_ite (fun _ => ?_) (fun _ => ?_)))

theorem TW.commitDue_still {k : Bits} (x : TW) (c : Nat) (h : x.Calm k) : (TW.commitDue x c).Calm k := by
  have h1 : (x.map fun t => t.penArrive c).Calm k := TW.map_still _ _ (fun t ht => Tile.penArrive_still _ _ ht) h
  have h2 : ((x.map fun t => t.penArrive c).commitEngines c) = x.map fun t => t.penArrive c := by
    unfold TW.commitEngines
    simp [h1.tile.still.late]
  unfold TW.commitDue TW.commitSel
  rw [h2]
  simp only [h1.tile.still.stores, List.filter_nil, List.isEmpty_nil, if_true]
  exact h1

theorem TW.mulPort_still {k : Bits} (x : TW) (c : Nat) (a b : Bool) (h : x.Calm k) : (TW.mulPort x c a b).Calm k := by
  unfold TW.mulPort
  rw [h.tile.still.mul]
  exact h

theorem TW.glzPort_still {k : Bits} (x : TW) (c : Nat) (h : x.Calm k) : (TW.glzPort x c).Calm k := by
  have e1 : x.glzChain c = (12, x) := by
    unfold TW.glzChain
    rw [h.tile.still.glz]
    rfl
  unfold TW.glzPort
  rw [e1]
  simp only [h.tile.still.glzW, List.filter_nil, List.foldl_nil, TW.glzWrites, List.append_nil, releaseDeferred,
    List.map_nil, List.isEmpty_nil, if_true]
  refine TW.still_cut (x := (x.map fun t => { t with glzW := [] }).map fun t => { t with glzW := [] }) (k := k) ?_ ?_
  · exact ⟨⟨⟨h.tile.still.stores, h.tile.still.late, rfl, h.tile.still.mul, h.tile.still.glz, h.tile.still.edge,
      h.tile.still.palErr⟩, h.tile.pal, h.tile.pois⟩⟩
  · intro hz
    have e2 : ((x.map fun t => { t with glzW := [] }).map fun t => { t with glzW := [] }).glzBeatReads c 12 =
        (x.map fun t => { t with glzW := [] }).map fun t => { t with glzW := [] } := by
      unfold TW.glzBeatReads
      rw [hz.tile.still.glz]
      rfl
    rw [e2]
    unfold TW.glzMarks
    rw [hz.tile.still.glz]
    exact hz

theorem TW.vrnPort_still {mk : Bits} (x : TW) (k : Nat) (h : x.Calm mk) :
    (TW.vrnPort x k).Calm mk := by
  unfold TW.vrnPort
  repeat' (first
    | with_reducible assumption
    | refine fun _ => ?_
    | with_reducible apply TW.readSegs_still
    | with_reducible apply Tile.grant_still
    | with_reducible apply TW.conflict_still
    | with_reducible apply TW.perf_still
    | with_reducible apply TW.map_still
    | with_reducible apply TW.Calm.tile
    | (extract_lets +onlyGivenNames z; with_reducible apply TW.still_cut (k := mk) (x := z); rotate_left; clear_value z; intro hz; rotate_right; subst z)
    | (extract_lets +onlyGivenNames z; with_reducible apply Tile.still_cut (k := mk) (t := z); rotate_left; clear_value z; intro hz; rotate_right; subst z)
    | extract_lets +onlyGivenNames z
    | (refine Tile.still_lit ?_; dsimp only; exact Tile.Calm.raw (by assumption))
    | (refine Tile.still_lit ?_; dsimp only [Tile.grant]; exact Tile.Calm.raw (by assumption))
    | with_reducible refine TW.still_snd (by assumption) ?_
    | with_reducible refine TW.still_trd (by assumption) ?_
    | split)

theorem TW.edgePort_still {k : Bits} (x : TW) (c : Nat) (h : x.Calm k) : (TW.edgePort x c).Calm k := by
  unfold TW.edgePort
  rw [h.tile.still.edge]
  exact TW.still_ite (fun _ => h) (fun _ => TW.vrnPort_still _ _ h)

theorem TW.portCycle_still {mk : Bits} (x : TW) (k : Nat) (usedP usedQ : Bool) (h : x.Calm mk) :
    (TW.portCycle x k usedP usedQ).Calm mk := by
  unfold TW.portCycle
  repeat' (first
    | with_reducible assumption
    | refine fun _ => ?_
    | with_reducible apply TW.commitDue_still
    | with_reducible apply TW.mulPort_still
    | with_reducible apply TW.glzPort_still
    | with_reducible apply TW.edgePort_still
    | with_reducible apply TW.map_still
    | with_reducible apply TW.Calm.tile
    | (extract_lets +onlyGivenNames z; with_reducible apply TW.still_cut (k := mk) (x := z); rotate_left; clear_value z; intro hz; rotate_right; subst z)
    | (extract_lets +onlyGivenNames z; with_reducible apply Tile.still_cut (k := mk) (t := z); rotate_left; clear_value z; intro hz; rotate_right; subst z)
    | extract_lets +onlyGivenNames z
    | (refine Tile.still_lit ?_; dsimp only; exact Tile.Calm.raw (by assumption))
    | (with_reducible refine TW.still_ite (fun _ => ?_) (fun _ => ?_))
    | (with_reducible refine Tile.still_ite (fun _ => ?_) (fun _ => ?_)))

theorem TW.portsGo_still {mk : Bits} (x : TW) (k : Nat) (r0 : Nat) (h : x.Calm mk) :
    (TW.portsGo x k r0).Calm mk := by
  induction r0 generalizing x k with
  | zero =>
    unfold TW.portsGo
    repeat' (first
      | with_reducible assumption
      | with_reducible apply TW.portCycle_still
      | split)
  | succ r0 ih =>
    unfold TW.portsGo
    repeat' (first
      | with_reducible assumption
      | with_reducible apply ih
      | with_reducible apply TW.portCycle_still
      | split)

theorem TW.ports_still {mk : Bits} (x : TW) (c : Nat) (h : x.Calm mk) :
    (TW.ports x c).Calm mk := by
  unfold TW.ports
  repeat' (first
    | with_reducible assumption
    | refine fun _ => ?_
    | with_reducible apply TW.portsGo_still
    | with_reducible apply TW.map_still
    | with_reducible apply TW.Calm.tile
    | (extract_lets +onlyGivenNames z; with_reducible apply TW.still_cut (k := mk) (x := z); rotate_left; clear_value z; intro hz; rotate_right; subst z)
    | (extract_lets +onlyGivenNames z; with_reducible apply Tile.still_cut (k := mk) (t := z); rotate_left; clear_value z; intro hz; rotate_right; subst z)
    | extract_lets +onlyGivenNames z
    | (refine Tile.still_lit ?_; dsimp only; exact Tile.Calm.raw (by assumption))
    | (with_reducible refine TW.still_ite (fun _ => ?_) (fun _ => ?_))
    | (with_reducible refine Tile.still_ite (fun _ => ?_) (fun _ => ?_)))

theorem TW.accRequest_still {mk : Bits} (x : TW) (c blk rank : Nat) (r0 : Nat) (h : x.Calm mk) :
    (TW.accRequest x c blk rank r0).2.Calm mk := by
  induction r0 generalizing x c blk rank with
  | zero =>
    unfold TW.accRequest
    repeat' (first
      | with_reducible assumption
      | refine fun _ => ?_
      | with_reducible apply TW.count_still
      | with_reducible apply Tile.grant_still
      | with_reducible apply TW.ports_still
      | with_reducible apply TW.map_still
      | with_reducible apply TW.Calm.tile
      | (extract_lets +onlyGivenNames z; with_reducible apply TW.still_cut (k := mk) (x := z); rotate_left; clear_value z; intro hz; rotate_right; subst z)
      | (extract_lets +onlyGivenNames z; with_reducible apply Tile.still_cut (k := mk) (t := z); rotate_left; clear_value z; intro hz; rotate_right; subst z)
      | extract_lets +onlyGivenNames z
      | (refine Tile.still_lit ?_; dsimp only; exact Tile.Calm.raw (by assumption))
      | split)
  | succ r0 ih =>
    unfold TW.accRequest
    repeat' (first
      | with_reducible assumption
      | refine fun _ => ?_
      | with_reducible apply ih
      | with_reducible apply TW.count_still
      | with_reducible apply Tile.grant_still
      | with_reducible apply TW.ports_still
      | with_reducible apply TW.map_still
      | with_reducible apply TW.Calm.tile
      | (extract_lets +onlyGivenNames z; with_reducible apply TW.still_cut (k := mk) (x := z); rotate_left; clear_value z; intro hz; rotate_right; subst z)
      | (extract_lets +onlyGivenNames z; with_reducible apply Tile.still_cut (k := mk) (t := z); rotate_left; clear_value z; intro hz; rotate_right; subst z)
      | extract_lets +onlyGivenNames z
      | (refine Tile.still_lit ?_; dsimp only; exact Tile.Calm.raw (by assumption))
      | split)

theorem TW.accGrant_still {mk : Bits} (x : TW) (c blk rank : Nat) (h : x.Calm mk) :
    (TW.accGrant x c blk rank).2.Calm mk := by
  unfold TW.accGrant
  repeat' (first
    | with_reducible assumption
    | with_reducible apply TW.accRequest_still)

theorem TW.hazard_still {k : Bits} (x : TW) (c code : Nat) (a : Who) (b : Who) (addr : Nat) (blk : Bool) (h : x.Calm k) :
    (TW.hazard x c code a b addr blk).Calm k := by
  unfold TW.hazard
  repeat' (first
    | with_reducible assumption
    | refine fun _ => ?_
    | with_reducible apply TW.count_still
    | with_reducible apply TW.emit_still
    | with_reducible apply TW.map_still
    | (refine Tile.still_lit ?_; dsimp only; exact Tile.Calm.raw (by assumption)))

theorem TW.penRead_still {k : Bits} (x : TW) (c : Nat) (who : Who) (a : Nat) (h : x.Calm k) :
    (TW.penRead x c who a).Calm k := by
  unfold TW.penRead
  repeat' (first
    | with_reducible assumption
    | with_reducible apply TW.hazard_still
    | (with_reducible refine TW.still_ite (fun _ => ?_) (fun _ => ?_)))

theorem TW.penWrite_still {k : Bits} (x : TW) (c : Nat) (who : Who) (a : Nat) (tag : Option Nat) (h : x.Calm k) :
    (TW.penWrite x c who a tag).Calm k := by
  unfold TW.penWrite
  repeat' (first
    | with_reducible assumption
    | refine fun _ => ?_
    | with_reducible apply TW.hazard_still
    | with_reducible apply Tile.setGran_still
    | with_reducible apply TW.map_still
    | (extract_lets +onlyGivenNames z; with_reducible apply TW.still_cut (x := z); rotate_left; clear_value z; intro hz; rotate_right; subst z)
    | extract_lets +onlyGivenNames z
    | split)

theorem TW.penPending_still {k : Bits} (x : TW) (who : Who) (row : Nat) (r0 : Nat) (h : x.Calm k) :
    (TW.penPending x who row r0).Calm k := by
  induction r0 generalizing x who row with
  | zero =>
    unfold TW.penPending
    repeat' (first
      | with_reducible assumption
      | refine fun _ => ?_
      | with_reducible apply Tile.setGran_still
      | with_reducible apply TW.map_still
      | (with_reducible refine TW.still_ite (fun _ => ?_) (fun _ => ?_)))
  | succ r0 ih =>
    unfold TW.penPending
    repeat' (first
      | with_reducible assumption
      | refine fun _ => ?_
      | with_reducible apply ih
      | with_reducible apply Tile.setGran_still
      | with_reducible apply TW.map_still
      | (with_reducible refine TW.still_ite (fun _ => ?_) (fun _ => ?_)))

theorem TW.overlay_still {k : Bits} (x : TW) (h : x.Calm k) : (TW.overlay x).Calm k := by
  unfold TW.overlay
  rw [h.tile.still.stores]
  exact h

theorem TW.readPart_still {mk : Bits} (x : TW) (c : Nat) (k : AccKind) (who : Who) (a n : Nat) (h : x.Calm mk) :
    (TW.readPart x c k who a n).2.Calm mk := by
  unfold TW.readPart
  repeat' (first
    | with_reducible assumption
    | with_reducible apply TW.commitDue_still
    | with_reducible apply TW.penRead_still
    | with_reducible apply TW.readRaw_still
    | with_reducible apply TW.violation_still
    | (extract_lets +onlyGivenNames z; with_reducible apply TW.still_cut (x := z); rotate_left; clear_value z; intro hz; rotate_right; subst z)
    | split)

theorem TW.partWrite_still {mk : Bits} (x : TW) (c k : Nat) (m v : Word) (h : x.Calm mk) :
    (TW.partWrite x c k m v).Calm mk := by
  unfold TW.partWrite
  repeat' (first
    | with_reducible assumption
    | refine fun _ => ?_
    | with_reducible apply TW.put_still
    | with_reducible apply TW.map_still
    | (refine Tile.still_lit ?_; dsimp only; exact Tile.Calm.raw (by assumption))
    | (with_reducible refine TW.still_ite (fun _ => ?_) (fun _ => ?_)))

theorem TW.penAcc_still {k : Bits} (x : TW) (c b : Nat) (who : Who) (h : x.Calm k) :
    (TW.penAcc x c b who).Calm k := by
  unfold TW.penAcc
  repeat' (first
    | with_reducible assumption
    | with_reducible apply TW.hazard_still
    | split)

/-! No engine has a request, and the edge port none but Varnish's reads. -/

theorem TW.commitStores_still {k : Bits} (x : TW) (c : Nat) (h : x.Calm k) :
    (TW.commitStores x c).Calm k := by
  unfold TW.commitStores
  repeat' (first
    | with_reducible assumption
    | with_reducible apply TW.commitDue_still
    | with_reducible apply TW.ports_still)

theorem TW.requestGo_still {k : Bits} (x : TW) (c bank rank : Nat) (r0 : Nat) (h : x.Calm k) :
    (TW.requestGo x c bank rank r0).2.Calm k := by
  induction r0 generalizing x c bank rank with
  | zero =>
    unfold TW.requestGo
    repeat' (first
      | with_reducible assumption
      | refine fun _ => ?_
      | with_reducible apply TW.conflict_still
      | with_reducible apply TW.ports_still
      | with_reducible apply Tile.grant_still
      | with_reducible apply TW.map_still
      | (extract_lets +onlyGivenNames z; with_reducible apply TW.still_cut (x := z); rotate_left; clear_value z; intro hz; rotate_right; subst z)
      | split)
  | succ r0 ih =>
    unfold TW.requestGo
    repeat' (first
      | with_reducible assumption
      | refine fun _ => ?_
      | with_reducible apply ih
      | with_reducible apply TW.conflict_still
      | with_reducible apply TW.ports_still
      | with_reducible apply Tile.grant_still
      | with_reducible apply TW.map_still
      | (extract_lets +onlyGivenNames z; with_reducible apply TW.still_cut (x := z); rotate_left; clear_value z; intro hz; rotate_right; subst z)
      | split)

theorem TW.claim_still {mk : Bits} (x : TW) (c bank rank : Nat) (h : x.Calm mk) :
    (TW.claim x c bank rank).2.Calm mk := by
  unfold TW.claim
  repeat' (first
    | with_reducible assumption
    | with_reducible apply TW.requestGo_still)

theorem Tile.rxZero_still {mk : Bits} (t : Tile) (k : Nat) (h : t.Calm mk) :
    (Tile.rxZero t k).Calm mk := by
  unfold Tile.rxZero
  repeat' (first
    | with_reducible assumption
    | (refine Tile.still_lit ?_; dsimp only; exact Tile.Calm.raw (by assumption)))

theorem Tile.rxClose_still {mk : Bits} (t : Tile) (k : Nat) (h : t.Calm mk) :
    (Tile.rxClose t k).Calm mk := by
  unfold Tile.rxClose
  repeat' (first
    | with_reducible assumption
    | with_reducible apply Tile.put_still
    | with_reducible apply Tile.rxZero_still)

theorem TW.rxCfgWrite_still {mk : Bits} (x : TW) (k : Nat) (m v : Word) (h : x.Calm mk) :
    (TW.rxCfgWrite x k m v).Calm mk := by
  unfold TW.rxCfgWrite
  repeat' (first
    | with_reducible assumption
    | refine fun _ => ?_
    | with_reducible apply TW.emit_still
    | with_reducible apply TW.penPending_still
    | with_reducible apply TW.put_still
    | with_reducible apply Tile.put_still
    | with_reducible apply Tile.rxClose_still
    | with_reducible apply Tile.rxZero_still
    | with_reducible apply TW.map_still
    | extract_lets +onlyGivenNames z
    | with_reducible apply TW.Calm.tile
    | (refine Tile.still_lit ?_; dsimp only; exact Tile.Calm.raw (by assumption))
    | split)

theorem TW.rxReleaseGo_still {mk : Bits} (x : TW) (k nbuf : Nat) (r0 : Nat) (r1 : Nat) (h : x.Calm mk) :
    (TW.rxReleaseGo x k nbuf r0 r1).2.Calm mk := by
  induction r0 generalizing x r1 with
  | zero => exact h
  | succ r0 ih =>
    unfold TW.rxReleaseGo
    extract_lets filled rel i y z
    split
    · exact h
    · have hy : y.Calm mk := TW.map_still _ _ (fun t ht => Tile.put_still _ _ _ (Tile.still_lit ht.raw)) h
      have hz : z.Calm mk := by
        subst z
        split
        · exact TW.still_ite (fun _ => TW.penPending_still _ _ _ _ hy) (fun _ => hy)
        · exact hy
      exact ih _ _ (TW.put_still _ _ _ hz)

theorem TW.rxRelWrite_still {mk : Bits} (x : TW) (k n : Nat) (h : x.Calm mk) :
    (TW.rxRelWrite x k n).Calm mk := by
  unfold TW.rxRelWrite
  split
  · exact TW.put_still _ _ _ h
  · have hd : (if x.get (TF.PAL_RXCFG.enable k) = 1 then x.rxReleaseGo k (x.t.rxNbuf k) n 0 else (0, x)).2.Calm mk := by
      split
      · exact TW.rxReleaseGo_still _ _ _ _ _ h
      · exact h
    generalize (if x.get (TF.PAL_RXCFG.enable k) = 1 then x.rxReleaseGo k (x.t.rxNbuf k) n 0 else (0, x)) = p at hd ⊢
    obtain ⟨d, y⟩ := p
    dsimp only
    have hz := TW.still_ite (k := mk) (c := d = 0) (fun _ => hd) (fun _ => TW.emit_still _ (.credits
      (x.get (TF.PAL_RXCFG.flow_id k)) (x.get (TF.PAL_RXCFG.epoch k)) k (x.get (TF.PAL_RXCNT.released k) % x.t.rxNbuf k) d
      (x.t.rxNbuf k - 1) (x.t.rxRows k - 1) ((x.t.rxPart k).elim 0 partBase)) hd)
    split
    · exact TW.put_still _ _ _ hz
    · exact hz

theorem TW.patrolWrite_still {k : Bits} (x : TW) (c v : Nat) (h : x.Calm k) :
    (TW.patrolWrite x c v).Calm k := by
  unfold TW.patrolWrite
  repeat' (first
    | with_reducible assumption
    | refine fun _ => ?_
    | with_reducible apply TW.put_still
    | with_reducible apply TW.map_still
    | (refine Tile.still_lit ?_; dsimp only; exact Tile.Calm.raw (by assumption))
    | (with_reducible refine TW.still_ite (fun _ => ?_) (fun _ => ?_)))

theorem TW.rowGranted_still {mk : Bits} (x : TW) (r st k : Nat) (h : x.Calm mk) :
    (TW.rowGranted x r st k).Calm mk := by
  unfold TW.rowGranted
  repeat' (first
    | with_reducible assumption
    | refine fun _ => ?_
    | with_reducible apply TW.readSegs_still
    | with_reducible apply TW.commitDue_still
    | with_reducible apply TW.map_still
    | with_reducible apply TW.Calm.tile
    | (extract_lets +onlyGivenNames z; with_reducible apply TW.still_cut (k := mk) (x := z); rotate_left; clear_value z; intro hz; rotate_right; subst z)
    | (extract_lets +onlyGivenNames z; with_reducible apply Tile.still_cut (k := mk) (t := z); rotate_left; clear_value z; intro hz; rotate_right; subst z)
    | extract_lets +onlyGivenNames z
    | (refine Tile.still_lit ?_; dsimp only; exact Tile.Calm.raw (by assumption))
    | with_reducible refine TW.still_snd (by assumption) ?_
    | with_reducible refine TW.still_trd (by assumption) ?_
    | split)

theorem TW.fetchTo_still {mk : Bits} (x : TW) (c : Nat) (h : x.Calm mk) :
    (TW.fetchTo x c).Calm mk := by
  unfold TW.fetchTo
  repeat' (first
    | with_reducible assumption
    | refine fun _ => ?_
    | with_reducible apply TW.requestGo_still
    | with_reducible apply TW.rowGranted_still
    | with_reducible apply TW.map_still
    | with_reducible apply TW.Calm.tile
    | (extract_lets +onlyGivenNames z; with_reducible apply TW.still_cut (k := mk) (x := z); rotate_left; clear_value z; intro hz; rotate_right; subst z)
    | (extract_lets +onlyGivenNames z; with_reducible apply Tile.still_cut (k := mk) (t := z); rotate_left; clear_value z; intro hz; rotate_right; subst z)
    | extract_lets +onlyGivenNames z
    | (refine Tile.still_lit ?_; dsimp only; exact Tile.Calm.raw (by assumption))
    | with_reducible refine TW.still_snd (by assumption) ?_
    | with_reducible refine TW.still_trd (by assumption) ?_
    | split)

theorem TW.startRow_still {mk : Bits} (x : TW) (r c : Nat) (h : x.Calm mk) :
    (TW.startRow x r c).Calm mk := by
  unfold TW.startRow
  repeat' (first
    | with_reducible assumption
    | refine fun _ => ?_
    | with_reducible apply TW.map_still
    | (extract_lets +onlyGivenNames z; with_reducible apply TW.still_cut (k := mk) (x := z); rotate_left; clear_value z; intro hz; rotate_right; subst z)
    | (extract_lets +onlyGivenNames z; with_reducible apply Tile.still_cut (k := mk) (t := z); rotate_left; clear_value z; intro hz; rotate_right; subst z)
    | extract_lets +onlyGivenNames z
    | (refine Tile.still_lit ?_; dsimp only; exact Tile.Calm.raw (by assumption)))

theorem TW.fetchRow_still {mk : Bits} (x : TW) (h : x.Calm mk) :
    (TW.fetchRow x).Calm mk := by
  unfold TW.fetchRow
  repeat' (first
    | with_reducible assumption
    | with_reducible apply TW.requestGo_still
    | with_reducible apply TW.rowGranted_still
    | with_reducible apply TW.startRow_still
    | with_reducible apply TW.Calm.tile
    | (extract_lets +onlyGivenNames z; with_reducible apply TW.still_cut (k := mk) (x := z); rotate_left; clear_value z; intro hz; rotate_right; subst z)
    | (extract_lets +onlyGivenNames z; with_reducible apply Tile.still_cut (k := mk) (t := z); rotate_left; clear_value z; intro hz; rotate_right; subst z)
    | extract_lets +onlyGivenNames z
    | with_reducible refine TW.still_snd (by assumption) ?_
    | with_reducible refine TW.still_trd (by assumption) ?_
    | split)

theorem TW.enterRow_still {mk : Bits} (x : TW) (c : Nat) (port : Bool) (h : x.Calm mk) :
    (TW.enterRow x c port).Calm mk := by
  unfold TW.enterRow
  repeat' (first
    | with_reducible assumption
    | refine fun _ => ?_
    | with_reducible apply TW.fetchTo_still
    | with_reducible apply TW.startRow_still
    | with_reducible apply TW.map_still
    | with_reducible apply TW.Calm.tile
    | (extract_lets +onlyGivenNames z; with_reducible apply TW.still_cut (k := mk) (x := z); rotate_left; clear_value z; intro hz; rotate_right; subst z)
    | (extract_lets +onlyGivenNames z; with_reducible apply Tile.still_cut (k := mk) (t := z); rotate_left; clear_value z; intro hz; rotate_right; subst z)
    | extract_lets +onlyGivenNames z
    | (refine Tile.still_lit ?_; dsimp only; exact Tile.Calm.raw (by assumption))
    | with_reducible refine TW.still_snd (by assumption) ?_
    | with_reducible refine TW.still_trd (by assumption) ?_
    | split)

theorem Tile.displaceRow_still {mk : Bits} (t : Tile) (c : Nat) (h : t.Calm mk) :
    (Tile.displaceRow t c).Calm mk := by
  unfold Tile.displaceRow
  repeat' (first
    | with_reducible assumption
    | (extract_lets +onlyGivenNames z; with_reducible apply TW.still_cut (k := mk) (x := z); rotate_left; clear_value z; intro hz; rotate_right; subst z)
    | (extract_lets +onlyGivenNames z; with_reducible apply Tile.still_cut (k := mk) (t := z); rotate_left; clear_value z; intro hz; rotate_right; subst z)
    | extract_lets +onlyGivenNames z
    | (refine Tile.still_lit ?_; dsimp only; exact Tile.Calm.raw (by assumption))
    | with_reducible refine TW.still_snd (by assumption) ?_
    | with_reducible refine TW.still_trd (by assumption) ?_
    | split)

theorem Tile.rowSlip_still {mk : Bits} (t : Tile) (lo : Nat) (h : t.Calm mk) :
    (Tile.rowSlip t lo).Calm mk := by
  unfold Tile.rowSlip
  repeat' (first
    | with_reducible assumption
    | (extract_lets +onlyGivenNames z; with_reducible apply TW.still_cut (k := mk) (x := z); rotate_left; clear_value z; intro hz; rotate_right; subst z)
    | (extract_lets +onlyGivenNames z; with_reducible apply Tile.still_cut (k := mk) (t := z); rotate_left; clear_value z; intro hz; rotate_right; subst z)
    | extract_lets +onlyGivenNames z
    | (refine Tile.still_lit ?_; dsimp only; exact Tile.Calm.raw (by assumption))
    | with_reducible refine TW.still_snd (by assumption) ?_
    | split)

theorem TW.issueCounts_still {mk : Bits} (x : TW) (c0 c cReg cRow q : Nat) (taken : Bool) (h : x.Calm mk) :
    (TW.issueCounts x c0 c cReg cRow q taken).Calm mk := by
  unfold TW.issueCounts
  repeat' (first
    | with_reducible assumption
    | with_reducible apply TW.perfOf_still
    | with_reducible apply TW.perf_still
    | with_reducible apply TW.Calm.tile
    | (extract_lets +onlyGivenNames z; with_reducible apply TW.still_cut (k := mk) (x := z); rotate_left; clear_value z; intro hz; rotate_right; subst z)
    | (extract_lets +onlyGivenNames z; with_reducible apply Tile.still_cut (k := mk) (t := z); rotate_left; clear_value z; intro hz; rotate_right; subst z)
    | extract_lets +onlyGivenNames z
    | (with_reducible refine TW.still_ite (fun _ => ?_) (fun _ => ?_))
    | (with_reducible refine Tile.still_ite (fun _ => ?_) (fun _ => ?_)))

theorem Tile.lostAt_still {mk : Bits} (t : Tile) (c : Nat) (h : t.Calm mk) :
    (Tile.lostAt t c).Calm mk := by
  unfold Tile.lostAt
  repeat' (first
    | with_reducible assumption
    | (refine Tile.still_lit ?_; dsimp only; exact Tile.Calm.raw (by assumption))
    | (with_reducible refine TW.still_ite (fun _ => ?_) (fun _ => ?_))
    | (with_reducible refine Tile.still_ite (fun _ => ?_) (fun _ => ?_)))

theorem TW.portGo_still {mk : Bits} (x : TW) (sh : Shape) (c : Nat) (r0 : Nat) (h : x.Calm mk) :
    (TW.portGo x sh c r0).2.2.Calm mk := by
  induction r0 generalizing x sh c with
  | zero =>
    unfold TW.portGo
    repeat' (first
      | with_reducible assumption
      | refine fun _ => ?_
      | with_reducible apply Tile.grant_still
      | with_reducible apply TW.conflict_still
      | with_reducible apply TW.ports_still
      | with_reducible apply Tile.lostAt_still
      | with_reducible apply TW.perf_still
      | with_reducible apply TW.map_still
      | with_reducible apply TW.Calm.tile
      | (extract_lets +onlyGivenNames z; with_reducible apply TW.still_cut (k := mk) (x := z); rotate_left; clear_value z; intro hz; rotate_right; subst z)
      | (extract_lets +onlyGivenNames z; with_reducible apply Tile.still_cut (k := mk) (t := z); rotate_left; clear_value z; intro hz; rotate_right; subst z)
      | extract_lets +onlyGivenNames z
      | (refine Tile.still_lit ?_; dsimp only; exact Tile.Calm.raw (by assumption))
      | with_reducible refine TW.still_snd (by assumption) ?_
      | with_reducible refine TW.still_trd (by assumption) ?_
      | split)
  | succ r0 ih =>
    unfold TW.portGo
    repeat' (first
      | with_reducible assumption
      | refine fun _ => ?_
      | with_reducible apply ih
      | with_reducible apply Tile.grant_still
      | with_reducible apply TW.conflict_still
      | with_reducible apply TW.ports_still
      | with_reducible apply Tile.lostAt_still
      | with_reducible apply TW.perf_still
      | with_reducible apply TW.map_still
      | with_reducible apply TW.Calm.tile
      | (extract_lets +onlyGivenNames z; with_reducible apply TW.still_cut (k := mk) (x := z); rotate_left; clear_value z; intro hz; rotate_right; subst z)
      | (extract_lets +onlyGivenNames z; with_reducible apply Tile.still_cut (k := mk) (t := z); rotate_left; clear_value z; intro hz; rotate_right; subst z)
      | extract_lets +onlyGivenNames z
      | (refine Tile.still_lit ?_; dsimp only; exact Tile.Calm.raw (by assumption))
      | with_reducible refine TW.still_snd (by assumption) ?_
      | with_reducible refine TW.still_trd (by assumption) ?_
      | split)

theorem TW.portAt_still {mk : Bits} (x : TW) (c : Nat) (sh : Shape) (h : x.Calm mk) :
    (TW.portAt x c sh).2.Calm mk := by
  unfold TW.portAt
  repeat' (first
    | with_reducible assumption
    | refine fun _ => ?_
    | with_reducible apply TW.enterRow_still
    | with_reducible apply Tile.displaceRow_still
    | with_reducible apply TW.portGo_still
    | with_reducible apply TW.map_still
    | (refine Tile.still_lit ?_; dsimp only; exact Tile.Calm.raw (by assumption))
    | with_reducible refine TW.still_snd (by assumption) ?_
    | with_reducible refine TW.still_trd (by assumption) ?_
    | split)

theorem TW.regRead_still {k : Bits} (x : TW) (c off n : Nat) (h : x.Calm k) :
    (TW.regRead x c off n).2.Calm k := by
  unfold TW.regRead
  repeat' (first
    | with_reducible assumption
    | refine fun _ => ?_
    | with_reducible apply TW.put_still
    | with_reducible apply TW.map_still
    | (extract_lets +onlyGivenNames z; with_reducible apply TW.still_cut (x := z); rotate_left; clear_value z; intro hz; rotate_right; subst z)
    | extract_lets +onlyGivenNames z
    | with_reducible apply TW.Calm.tile
    | (refine Tile.still_lit ?_; dsimp only; exact Tile.Calm.raw (by assumption))
    | split)

theorem TW.regWrite_still {mk : Bits} (x : TW) (c off n v : Nat) (h : x.Calm mk) :
    (TW.regWrite x c off n v).Calm mk := by
  unfold TW.regWrite
  repeat' (first
    | with_reducible assumption
    | refine fun _ => ?_
    | with_reducible apply TW.partWrite_still
    | with_reducible apply TW.rxCfgWrite_still
    | with_reducible apply TW.rxRelWrite_still
    | with_reducible apply TW.patrolWrite_still
    | with_reducible apply TW.perf_still
    | with_reducible apply TW.map_still
    | with_reducible apply TW.Calm.tile
    | (extract_lets +onlyGivenNames z; with_reducible apply TW.still_cut (k := mk) (x := z); rotate_left; clear_value z; intro hz; rotate_right; subst z)
    | (extract_lets +onlyGivenNames z; with_reducible apply Tile.still_cut (k := mk) (t := z); rotate_left; clear_value z; intro hz; rotate_right; subst z)
    | extract_lets +onlyGivenNames z
    | (refine Tile.still_lit ?_; dsimp only; exact Tile.Calm.raw (by assumption))
    | with_reducible refine TW.still_snd (by assumption) ?_
    | split)

theorem TW.readDesc_still {k : Bits} (x : TW) (c a : Nat) (h : x.Calm k) :
    (TW.readDesc x c a).2.Calm k := by
  unfold TW.readDesc
  repeat' (first
    | with_reducible assumption
    | with_reducible apply TW.readPart_still
    | with_reducible apply TW.violation_still
    | with_reducible apply TW.Calm.tile
    | split)

end Sys2Proof.Machine
end

