-- ==== Sys2Proof/Laws/Issue.lean ====
section
/-! SUPPORT. What an issue leaves of a tile's program side, once for every class of instruction (R71, R73). -/

namespace Sys2Proof.Machine

/-! Tiles of one program side: what an instruction reads of them, and what it makes of them. -/

theorem Tile.side_fields {t u : Tile} (h : t.side = u.side) :
    t.run = u.run ∧ t.pc = u.pc ∧ t.nextId = u.nextId ∧ t.acc = u.acc := by
  simp only [Tile.side, ProgramSide.mk.injEq] at h
  simp [h]

theorem Tile.side_sreg {t u : Tile} (h : t.side = u.side) (k : Nat) : t.sreg k = u.sreg k := by
  simp only [Tile.side, ProgramSide.mk.injEq] at h
  simp only [Tile.sreg, h]

theorem Tile.side_tag {t u : Tile} (h : t.side = u.side) (k : Nat) : t.tag k = u.tag k := by
  simp only [Tile.side, ProgramSide.mk.injEq] at h
  simp only [Tile.tag, h]

theorem Tile.side_pred {t u : Tile} (h : t.side = u.side) (k : Nat) : t.pred k = u.pred k := by
  simp only [Tile.side, ProgramSide.mk.injEq] at h
  simp only [Tile.pred, h]

theorem Tile.side_pc {t u : Tile} (h : t.side = u.side) : t.pc = u.pc := by
  simp only [Tile.side, ProgramSide.mk.injEq] at h
  exact h.2.2.2.2.1

theorem Tile.side_loops {t u : Tile} (h : t.side = u.side) : t.loops = u.loops := by
  simp only [Tile.side, ProgramSide.mk.injEq] at h
  exact h.2.2.2.2.2.1

theorem Tile.side_model {t u : Tile} (h : t.side = u.side) : t.model = u.model := by
  simp only [Tile.side, ProgramSide.mk.injEq] at h
  simp [h]

theorem Tile.side_nextId {t u : Tile} (h : t.side = u.side) : t.nextId = u.nextId := by
  simp only [Tile.side, ProgramSide.mk.injEq] at h
  simp [h]

theorem Tile.side_acc {t u : Tile} (h : t.side = u.side) : t.acc = u.acc := by
  simp only [Tile.side, ProgramSide.mk.injEq] at h
  simp [h]

/-! What the issue rules read of the program side. -/

theorem Tile.side_issued {t u : Tile} (h : t.side = u.side) : t.issued = u.issued := by
  simp only [Tile.side, ProgramSide.mk.injEq] at h
  simp [h]

theorem Tile.side_regDue {t u : Tile} (h : t.side = u.side) : t.regDue = u.regDue := by
  simp only [Tile.side, ProgramSide.mk.injEq] at h
  funext k
  simp only [Tile.regDue, h]

theorem Tile.side_tokenPending {t u : Tile} (h : t.side = u.side) (k : Nat) : t.tokenPending k = u.tokenPending k := by
  simp only [Tile.side, ProgramSide.mk.injEq] at h
  simp only [Tile.tokenPending, h]

theorem Tile.side_tokenFrom {t u : Tile} (h : t.side = u.side) (k : Nat) : t.tokenFrom k = u.tokenFrom k := by
  simp only [Tile.side, ProgramSide.mk.injEq] at h
  simp only [Tile.tokenFrom, h]

theorem Tile.side_endsBody {t u : Tile} (h : t.side = u.side) : t.endsBody = u.endsBody := by
  simp only [Tile.side, ProgramSide.mk.injEq] at h
  simp only [Tile.endsBody, h]

theorem Tile.side_guard {t u : Tile} (h : t.side = u.side) (w : IW) : t.guard w = u.guard w := by
  unfold Tile.guard
  rw [Tile.side_pred h]

theorem Tile.setReg_side {t u : Tile} (h : t.side = u.side) (k : Nat) (v : Word) (b : Bool) :
    (t.setReg k v b).side = (u.setReg k v b).side := by
  unfold Tile.setReg
  split
  · exact h
  · simp only [Tile.side, ProgramSide.mk.injEq] at h ⊢
    simp [h]

theorem Tile.setPred_side {t u : Tile} (h : t.side = u.side) (k : Nat) (v : Bool) :
    (t.setPred k v).side = (u.setPred k v).side := by
  unfold Tile.setPred
  split
  · exact h
  · simp only [Tile.side, ProgramSide.mk.injEq] at h ⊢
    simp [h]

theorem Tile.later_side {t u : Tile} (h : t.side = u.side) (k : Nat) (v : Word) (b : Bool) (d : Nat) :
    (t.later k v b d).side = (u.later k v b d).side := by
  simp only [Tile.later, Tile.side, ProgramSide.mk.injEq] at h ⊢
  simp [h]

theorem Tile.settleList_side {t u : Tile} (h : t.side = u.side) (l : List Pend) :
    (t.settleList l).side = (u.settleList l).side := by
  induction l generalizing t u with
  | nil => exact h
  | cons p l ih => exact ih (Tile.setReg_side h _ _ _)

theorem Tile.settle_side {t u : Tile} (h : t.side = u.side) (c : Nat) : (t.settle c).side = (u.settle c).side := by
  have hp : t.pend = u.pend := by
    simp only [Tile.side, ProgramSide.mk.injEq] at h
    simp [h]
  have := Tile.settleList_side h (u.pend.filter fun p => decide (p.due ≤ c))
  unfold Tile.settle
  rw [hp]
  simp only [Tile.side, ProgramSide.mk.injEq] at this ⊢
  simp [this]

theorem Tile.loopEnd_side {t u : Tile} (h : t.side = u.side) (l : List Loop) : (t.loopEnd l).side = (u.loopEnd l).side := by
  have hp := Tile.side_pc h
  induction l with
  | nil =>
    simp only [Tile.loopEnd, Tile.side, ProgramSide.mk.injEq] at h ⊢
    simp [h]
  | cons a l ih =>
    simp only [Tile.loopEnd, hp]
    split
    · split
      · simp only [Tile.side, ProgramSide.mk.injEq] at h ⊢
        simp [h]
      · exact ih
    · simp only [Tile.side, ProgramSide.mk.injEq] at h ⊢
      simp [h]

theorem Tile.advance_side {t u : Tile} (h : t.side = u.side) : t.advance.side = u.advance.side := by
  unfold Tile.advance
  rw [Tile.side_loops h]
  exact Tile.loopEnd_side h _

theorem Tile.takeToken_side {t u : Tile} (h : t.side = u.side) (k : Nat) :
    (t.takeToken k).side = (u.takeToken k).side := by
  unfold Tile.takeToken
  split
  · exact h
  · simp only [Tile.side, ProgramSide.mk.injEq] at h ⊢
    simp [h]

theorem Tile.enqueue_side {t u : Tile} (h : t.side = u.side) (o : QOp) : (t.enqueue o).side = (u.enqueue o).side := by
  unfold Tile.enqueue
  split <;>
  · simp only [Tile.side, ProgramSide.mk.injEq] at h ⊢
    simp [h]

theorem Tile.issuedIn_side {t u : Tile} (h : t.side = u.side) (c : Nat) : (t.issuedIn c).side = (u.issuedIn c).side := by
  simp only [Tile.issuedIn, Tile.side, ProgramSide.mk.injEq] at h ⊢
  simp [h]

/-! The checks of R66, R80, R83 and R86 read the program side. -/

theorem noPoison_side {t u : Tile} (h : t.side = u.side) (ks : List Nat) : noPoison ks t = noPoison ks u := by
  unfold noPoison
  rw [show t.tag = u.tag from funext (Tile.side_tag h)]

theorem memAddr_side {t u : Tile} (h : t.side = u.side) (w : IW) : memAddr t w = memAddr u w := by
  unfold memAddr
  rw [Tile.side_sreg h]

theorem memCheck_side {t u : Tile} (h : t.side = u.side) (w : IW) (n : Nat) : memCheck w n t = memCheck w n u := by
  unfold memCheck
  rw [Tile.side_tag h, memAddr_side h]

theorem relTarget_side {t u : Tile} (h : t.side = u.side) (w : IW) : relTarget w t = relTarget w u := by
  unfold relTarget
  rw [Tile.side_pc h]

theorem regTarget_side {t u : Tile} (h : t.side = u.side) (w : IW) : regTarget w t = regTarget w u := by
  unfold regTarget
  rw [Tile.side_sreg h]

/-! The issue. -/

/-- A mark of the tile and view a function starts from. -/
def TW.mark (x : TW) : Mark := ⟨x.t.side, x.env⟩

theorem TW.is_mark (x : TW) (h : x.out.all Ev.quiet = true) : x.Is x.mark := ⟨⟨rfl⟩, rfl, h⟩

theorem TW.settle_is (x : TW) (k : Mark) (c : Nat) (t : Tile) (ht : t.side = k.side) (h : x.Is k) :
    (x.map fun t => t.settle c).Is ⟨(t.settle c).side, k.env⟩ :=
  ⟨⟨Tile.settle_side (h.tile.eq.trans ht.symm) c⟩, h.env, h.quiet⟩

theorem TW.requestGo_from (x : TW) (c bank rank n : Nat) : c ≤ (x.requestGo c bank rank n).1 := by
  induction n generalizing x c with
  | zero => exact Nat.le_refl c
  | succ n ih =>
    unfold TW.requestGo
    extract_lets y
    generalize (if rank ≤ 2 then c else c + 1) = d at y
    split
    · exact Nat.le_trans (Nat.le_succ c) (ih _ _)
    · exact Nat.le_refl c

theorem TW.portGo_from (x : TW) (sh : Shape) (c n : Nat) : c ≤ (x.portGo sh c n).1 := by
  induction n generalizing x c with
  | zero => exact Nat.le_refl c
  | succ n ih =>
    unfold TW.portGo
    split
    · exact Nat.le_refl c
    · dsimp only
      generalize TW.ports x _ = y
      split
      · exact Nat.le_trans (Nat.le_succ c) (ih _ _)
      · exact Nat.le_refl c

theorem TW.portAt_from (x : TW) (c : Nat) (sh : Shape) : c ≤ (x.portAt c sh).1 := by
  unfold TW.portAt
  split
  · exact Nat.le_refl c
  · exact TW.portGo_from x sh c maxWait

theorem Tile.settleList_still {k : Bits} (t : Tile) (l : List Pend) (h : t.Calm k) : (t.settleList l).Calm k := by
  induction l generalizing t with
  | nil => exact h
  | cons p l ih =>
    refine ih _ ?_
    unfold Tile.setReg
    split
    · exact h
    · exact Tile.still_lit h.raw

theorem Tile.settle_still {k : Bits} (t : Tile) (c : Nat) (h : t.Calm k) : (t.settle c).Calm k :=
  Tile.still_lit (Tile.settleList_still t _ h).raw

theorem Tile.settleList_fixed {k : Setup} (t : Tile) (l : List Pend) (h : t.Fixed k) : (t.settleList l).Fixed k := by
  induction l generalizing t with
  | nil => exact h
  | cons p l ih =>
    refine ih _ ?_
    unfold Tile.setReg
    split
    · exact h
    · exact Tile.fixed_lit h.raw

theorem Tile.settle_fixed {k : Setup} (t : Tile) (c : Nat) (h : t.Fixed k) : (t.settle c).Fixed k :=
  Tile.fixed_lit (Tile.settleList_fixed t _ h).raw

/-- The Palette's contents of a tile. -/
def Tile.bits (t : Tile) : Bits := ⟨t.pal, t.palPois⟩

/-- What an instruction that issues in `c` acts on: the program side of the tile with the results due by then written, its
set-up, and, when nothing waits for it, its Palette. -/
structure TW.From (s : State) (p c : Nat) (z : TW) : Prop where
  is : z.Is ⟨((s.tile p).settle c).side, s.env p⟩
  fixed : z.Fixed (s.tile p).setup
  calm : (s.tile p).Still → z.Calm (s.tile p).bits

theorem Tile.settleList_rest (l : List Pend) (t : Tile) :
    (t.settleList l).run = t.run ∧ (t.settleList l).acc = t.acc ∧ (t.settleList l).regs = t.regs ∧
      (t.settleList l).pc = t.pc ∧ (t.settleList l).nextId = t.nextId := by
  induction l generalizing t with
  | nil => exact ⟨rfl, rfl, rfl, rfl, rfl⟩
  | cons a l ih =>
    have h := ih (t.setReg a.reg a.val a.tag)
    have e : ∀ u : Tile, u = t.setReg a.reg a.val a.tag →
        u.run = t.run ∧ u.acc = t.acc ∧ u.regs = t.regs ∧ u.pc = t.pc ∧ u.nextId = t.nextId := by
      intro u hu
      subst hu
      unfold Tile.setReg
      split <;> exact ⟨rfl, rfl, rfl, rfl, rfl⟩
    obtain ⟨h1, h2, h3, h4, h5⟩ := h
    obtain ⟨e1, e2, e3, e4, e5⟩ := e _ rfl
    exact ⟨h1.trans e1, h2.trans e2, h3.trans e3, h4.trans e4, h5.trans e5⟩

/-- What results written late do not touch. -/
theorem Tile.settle_rest (t : Tile) (c : Nat) : (t.settle c).run = t.run ∧ (t.settle c).acc = t.acc ∧
    (t.settle c).regs = t.regs ∧ (t.settle c).pc = t.pc ∧ (t.settle c).nextId = t.nextId := Tile.settleList_rest _ t

theorem TW.From.phase {s : State} {p c : Nat} {z : TW} (h : z.From s p c) (k : Nat) :
    z.t.phase k = (s.tile p).phase k := by
  have hf := h.fixed.tile.raw
  have h4 : z.t.run = (s.tile p).run := (Tile.side_fields h.is.tile.eq).1.trans (Tile.settle_rest _ c).1
  have hw : (z.t.phaseLen, z.t.winLo, z.t.winHi, z.t.winEn) =
      ((s.tile p).phaseLen, (s.tile p).winLo, (s.tile p).winHi, (s.tile p).winEn) := hf.window
  simp only [Prod.mk.injEq] at hw
  unfold Tile.phase
  rw [show z.t.inPhase = (s.tile p).inPhase from hf.inPhase, show z.t.released = (s.tile p).released from hf.released,
    hw.1, h4]

theorem TW.From.readLat {s : State} {p c : Nat} {z : TW} (h : z.From s p c) (k : Nat) :
    z.t.readLat k = (s.tile p).readLat k := by
  unfold Tile.readLat
  rw [h.phase, show z.t.pen = (s.tile p).pen from h.fixed.tile.raw.pen]

theorem TW.From.inWindow {s : State} {p c : Nat} {z : TW} (h : z.From s p c) (k : Nat) :
    z.t.inWindow k = (s.tile p).inWindow k := by
  have hf := h.fixed.tile.raw
  have hw : (z.t.phaseLen, z.t.winLo, z.t.winHi, z.t.winEn) =
      ((s.tile p).phaseLen, (s.tile p).winLo, (s.tile p).winHi, (s.tile p).winEn) := hf.window
  simp only [Prod.mk.injEq] at hw
  unfold Tile.inWindow
  rw [h.phase, show z.t.released = (s.tile p).released from hf.released, hw.1, hw.2.1, hw.2.2.1, hw.2.2.2]

theorem TW.From.permits {s : State} {p c : Nat} {z : TW} (h : z.From s p c) (k : Nat) (kind : AccKind) (r : Nat) :
    z.t.permits k kind r = (s.tile p).permits k kind r := h.fixed.tile.permits k kind r

/-- R68-R70: holding the row, or having its read granted, leaves the program side of a tile. -/
theorem State.fetched_side (s : State) (p : Nat) : (s.fetched p).side = (s.tile p).side :=
  (TW.fetchRow_is (mk := (s.view p).mark) _ (TW.is_mark (s.view p) rfl)).tile.eq

/-- R71: an instruction that can issue waits for nothing of its own. -/
theorem State.Issues.free {s : State} {t : TileId} {p c : Nat} {w : IW} {sh : Shape} (h : s.Issues t p w sh c) :
    (s.fetched p).blocked sh = false := by
  obtain ⟨ho, hh, -⟩ := h.cycle
  unfold Tile.blocked
  rw [Tile.side_tokenPending (s.fetched_side p), h.token, h.room, hh]
  rfl

/-- R71: a command whose instruction can issue applies its effect to a tile whose program side is that of the tile
before, with the results due by then written; without a request of its own it issues in `c`. -/
theorem State.Issues.go {s : State} {t : TileId} {p c : Nat} {w : IW} {sh : Shape} (h : s.Issues t p w sh c)
    (hc : ∀ a b : Tile, a.side = b.side → sh.check a = sh.check b) (eff : Nat → TW → TW) :
    ∃ k z, c ≤ k ∧ ((sh.port = fun _ _ => none) → k = c) ∧ z.From s p c ∧
      (s.view p).issue w sh eff = (eff k z).issuedAt k := by
  obtain ⟨ho, hh, hcyc⟩ := h.cycle
  let x := (s.view p).fetchRow
  have hside : x.t.side = (s.tile p).side := s.fetched_side p
  let cReg := (sh.reads ++ sh.writes).foldl (fun c k => max c (x.t.regDue k)) (x.t.issued + 1)
  let cTok := if sh.td = 0 then ho else max ho (x.t.tokenFrom sh.td)
  let y := (((x.map fun t => t.rowSlip (max cReg cTok)).fetchTo c).commitStores c).map fun t => t.settle c
  let kk : Mark := ⟨((s.tile p).settle c).side, s.env p⟩
  have hx : x.Is (s.view p).mark := TW.fetchRow_is _ (TW.is_mark (s.view p) rfl)
  have h1 : y.Is kk :=
    TW.settle_is _ (s.view p).mark c (s.tile p) rfl (TW.commitStores_is _ _ (TW.fetchTo_is _ _
      (TW.map_is _ _ (fun t ht => Tile.rowSlip_is _ _ ht) hx)))
  have hck : sh.check y.t = none := (hc y.t _ h1.tile.eq).trans h.checked
  refine ⟨(y.portAt c sh).1, ((y.portAt c sh).2).issueCounts (x.t.issued + 1) (y.portAt c sh).1 (max cReg cTok)
    (s.fetched p).rowCycle (x.t.queueAt sh - x.t.qwait.getD (min (max (s.fetched p).rowCycle (x.t.issued + 1))
      (x.t.queueAt sh))) true, ?_, ?_, ?_, ?_⟩
  · exact TW.portAt_from _ _ _
  · intro hp
    unfold TW.portAt
    rw [hp]
  · refine ⟨TW.issueCounts_is _ _ _ _ _ _ _ (TW.portAt_is _ _ _ h1), TW.issueCounts_fixed _ _ _ _ _ _ _ (TW.portAt_fixed _ _ _
      (TW.map_fixed _ _ (fun t ht => Tile.settle_fixed t _ ht) (TW.commitStores_fixed _ _ (TW.fetchTo_fixed _ _
        (TW.map_fixed _ _ (fun t ht => Tile.rowSlip_fixed _ _ ht) (TW.fetchRow_fixed _ ⟨Tile.fixed_self _⟩)))))),
      fun hst => ?_⟩
    have h0 : x.Calm (s.tile p).bits := TW.fetchRow_still _ ⟨⟨hst, rfl, rfl⟩⟩
    have h2 : y.Calm (s.tile p).bits := TW.map_still _ _ (fun t ht => Tile.settle_still t _ ht)
      (TW.commitStores_still _ _ (TW.fetchTo_still _ _ (TW.map_still _ _ (fun t ht => Tile.rowSlip_still _ _ ht) h0)))
    exact TW.issueCounts_still _ _ _ _ _ _ _ (TW.portAt_still _ _ _ h2)
  · have g1 : ¬ (s.view p).t.run ≠ .running := by simp [State.view, h.running]
    have g2 : ¬ (!x.t.permits (s.fetched p).rowCycle .fetch (x.t.pc / 64)) = true := by
      rw [Tile.side_pc hside, (TW.fetchRow_fixed (s.view p) ⟨Tile.fixed_self (s.tile p)⟩).tile.permits, h.permitted]
      decide
    have g3 : ¬ x.t.wordPoisoned = true := by
      rw [show x.t.wordPoisoned = false from h.clean]
      decide
    have g4 : ¬ (sh.illegal || (sh.noGuard && (w.pn || w.pg.val ≠ 0)) || (sh.ctl && x.t.endsBody)) = true := by
      have hu := h.unguarded
      have hi := h.inside
      rw [Tile.side_endsBody hside]
      simp only [h.legal, Bool.false_or, Bool.or_eq_true, Bool.and_eq_true, decide_eq_true_eq, not_or]
      refine ⟨fun q => ?_, fun q => ?_⟩
      · have := hu q.1
        simp_all
      · simp [hi q.1] at q
    have g5 : ¬ (!(x.t.settle (s.fetched p).rowCycle).guard w) = true := by
      rw [Tile.side_guard (Tile.settle_side hside _), h.guard]
      decide
    have g6 : ¬ x.t.tokenPending sh.td = true := by
      rw [Tile.side_tokenPending hside, h.token]
      decide
    have g7 : ¬ x.t.queueFull sh = true := by
      rw [show x.t.queueFull sh = false from h.room]
      decide
    have g8 : ¬ x.t.blocked sh = true := by
      rw [show x.t.blocked sh = false from h.free]
      decide
    have hc1 : max (max (max (s.fetched p).rowCycle cReg) cTok) (x.t.queueAt sh) = c := by
      rw [hcyc]
      show max (max (max _ ((sh.reads ++ sh.writes).foldl (fun c k => max c (x.t.regDue k)) (x.t.issued + 1)))
        (if sh.td = 0 then ho else max ho (x.t.tokenFrom sh.td))) _ = _
      rw [Tile.side_regDue hside, Tile.side_issued hside, Tile.side_tokenFrom hside]
      rfl
    unfold TW.issue
    refine (if_neg g1).trans ?_
    refine (if_neg g2).trans ?_
    refine (if_neg g3).trans ?_
    refine (if_neg g4).trans ?_
    refine (if_neg g5).trans ?_
    extract_lets xa cR cq qs
    have e0 : xa = x := if_neg g8
    have e3 : cR = cReg := by
      show (sh.reads ++ sh.writes).foldl (fun c k => max c (xa.t.regDue k)) _ = _
      rw [e0]
    refine (if_neg (by rw [e0]; exact g6)).trans ?_
    refine (if_neg (by rw [e0]; exact g7)).trans ?_
    rw [show sh.hold xa.t = some ho from by rw [e0]; exact hh]
    dsimp -zeta only
    extract_lets cT c1 y0 y1
    have e4 : cT = cTok := by
      show (if sh.td = 0 then ho else max ho (xa.t.tokenFrom sh.td)) = _
      rw [e0]
    have e5 : cq = x.t.queueAt sh := by
      show xa.t.queueAt sh = _
      rw [e0]
    have e1 : c1 = c := by
      rw [← hc1]
      show max (max (max _ cR) cT) cq = _
      rw [e3, e4, e5]
      rfl
    have e2 : y1 = y := by
      show (y0.map fun t => t.settle c1) = _
      rw [e1]
      show (((xa.map fun t => t.rowSlip (max cR cT)).fetchTo c1).commitStores c1).map _ = _
      rw [e1, e0, e3, e4]
    have e6 : qs = x.t.qwait.getD (min (max (s.fetched p).rowCycle (x.t.issued + 1)) (x.t.queueAt sh)) := by
      show xa.t.qwait.getD _ = _
      rw [e0, e5]
      rfl
    rw [e2, hck, e1, e3, e4, e5, e6]
    rfl

theorem State.runTile_served (s : State) (t : TileId) (p : Nat) (f : TW → TW) (h : s.phys t.gid = some p) :
    s.runTile t f = s.onTile p f := by
  unfold State.runTile State.withTile
  rw [h]

/-- A command of a tile depends on its function at that tile alone. -/
theorem State.onTile_congr (s : State) (p : Nat) (f g : TW → TW) (h : f (s.view p) = g (s.view p)) :
    s.onTile p f = s.onTile p g := by
  have : s.onTileGo p f = s.onTileGo p g := by
    unfold State.onTileGo
    dsimp only
    rw [show f ⟨s.tile p, [], s.env p⟩ = g ⟨s.tile p, [], s.env p⟩ from h]
  unfold State.onTile
  rw [this]

theorem State.tilesWf_sorted {s : State} (h : s.tilesWf = true) : SMap.sorted s.tiles = true := by
  simp only [State.tilesWf, Bool.and_eq_true] at h
  exact SMap.wf_sorted _ _ h.1

/-- R71: the tiles after an instruction that can issue, whose effect `eff` hands out no increment. -/
theorem State.Issues.tiles {s : State} {t : TileId} {p c : Nat} {w : IW} {sh : Shape} (h : s.Issues t p w sh c)
    (hs : s.tilesWf = true) (hc : ∀ a b : Tile, a.side = b.side → sh.check a = sh.check b) (eff : Nat → TW → TW)
    (hq : ∀ k z, z.From s p c → (eff k z).out.all Ev.quiet = true) :
    ∃ k z, c ≤ k ∧ ((sh.port = fun _ _ => none) → k = c) ∧ z.From s p c ∧
      (s.view p).issue w sh eff = (eff k z).issuedAt k ∧
      (∃ a b, (s.runTile t fun x => x.issue w sh eff).tile p =
        { ((eff k z).issuedAt k).t with claims := a, penSoon := b }) ∧
      ∀ q, q ≠ p → ∃ a b, (s.runTile t fun x => x.issue w sh eff).tile q =
        { s.tile q with claims := a, penSoon := b } := by
  obtain ⟨k, z, hk, hp, hz, he⟩ := h.go hc eff
  refine ⟨k, z, hk, hp, hz, he, ?_⟩
  rw [State.runTile_served s t p _ h.served]
  have he' : (⟨s.tile p, [], s.env p⟩ : TW).issue w sh eff = (eff k z).issuedAt k := he
  have ho := State.onTile_sides s p (fun x => x.issue w sh eff) (State.tilesWf_sorted hs) (by rw [he']; exact hq k z hz)
  refine ⟨?_, fun q hne => ?_⟩
  · obtain ⟨a, b, e⟩ := ho.same p
    rw [if_pos rfl, he'] at e
    exact ⟨a, b, e⟩
  · obtain ⟨a, b, e⟩ := ho.same q
    rw [if_neg hne] at e
    exact ⟨a, b, e⟩

/-- The tiles after an effect that leaves the program side that `f` leaves. -/
theorem State.after_of {s u : State} {p c k : Nat} {y : TW} {f : Tile → Tile}
    (hp : ∃ a b, u.tile p = { (y.issuedAt k).t with claims := a, penSoon := b })
    (ho : ∀ q, q ≠ p → ∃ a b, u.tile q = { s.tile q with claims := a, penSoon := b })
    (hf : y.t.side = (f ((s.tile p).settle c)).side) : u.After s p c k f := by
  obtain ⟨a, b, e⟩ := hp
  refine ⟨?_, ho⟩
  rw [e]
  exact Tile.issuedIn_side hf k

/-- The Palette after an effect that keeps it. -/
theorem State.kept_of {s u : State} {p k : Nat} {y : TW}
    (hp : ∃ a b, u.tile p = { (y.issuedAt k).t with claims := a, penSoon := b })
    (hf : (s.tile p).Still → y.t.pal = (s.tile p).pal ∧ y.t.palPois = (s.tile p).palPois) : u.PaletteKept s p := by
  obtain ⟨a, b, e⟩ := hp
  intro hst
  rw [e]
  exact hf hst

/-- R71: the tiles after an instruction that can issue, whose effect `eff` hands out no increment and leaves the program
side that `f` leaves. -/
theorem State.Issues.after {s : State} {t : TileId} {p c : Nat} {w : IW} {sh : Shape} (h : s.Issues t p w sh c)
    (hs : s.tilesWf = true) (hc : ∀ a b : Tile, a.side = b.side → sh.check a = sh.check b) (eff : Nat → TW → TW)
    (f : Nat → Tile → Tile)
    (hf : ∀ k z, z.From s p c →
      (eff k z).out.all Ev.quiet = true ∧ (eff k z).t.side = (f k ((s.tile p).settle c)).side) :
    ∃ k, c ≤ k ∧ ((sh.port = fun _ _ => none) → k = c) ∧
      (s.runTile t fun x => x.issue w sh eff).After s p c k (f k) := by
  obtain ⟨k, z, hk, hp, hz, -, ht, ho⟩ := h.tiles hs hc eff fun k z hz => (hf k z hz).1
  exact ⟨k, hk, hp, State.after_of ht ho (hf k z hz).2⟩

/-- The Palette after an instruction that can issue, whose effect keeps it. -/
theorem State.Issues.kept {s : State} {t : TileId} {p c : Nat} {w : IW} {sh : Shape} (h : s.Issues t p w sh c)
    (hs : s.tilesWf = true) (hc : ∀ a b : Tile, a.side = b.side → sh.check a = sh.check b) (eff : Nat → TW → TW)
    (hq : ∀ k z, z.From s p c → (eff k z).out.all Ev.quiet = true)
    (hf : ∀ k z b, z.From s p c → z.Calm b → (eff k z).t.pal = b.pal ∧ (eff k z).t.palPois = b.pois) :
    (s.runTile t fun x => x.issue w sh eff).PaletteKept s p := by
  obtain ⟨k, z, -, -, hz, -, ht, -⟩ := h.tiles hs hc eff hq
  exact State.kept_of ht fun hst => hf k z _ hz (hz.calm hst)

/-! The Palette under the operations of instructions. -/

theorem Tile.setReg_pal (t : Tile) (k : Nat) (v : Word) (b : Bool) :
    (t.setReg k v b).pal = t.pal ∧ (t.setReg k v b).palPois = t.palPois := by
  unfold Tile.setReg
  split <;> exact ⟨rfl, rfl⟩

theorem Tile.setPred_pal (t : Tile) (k : Nat) (v : Bool) :
    (t.setPred k v).pal = t.pal ∧ (t.setPred k v).palPois = t.palPois := by
  unfold Tile.setPred
  split <;> exact ⟨rfl, rfl⟩

theorem Tile.loopEnd_pal (t : Tile) (l : List Loop) :
    (t.loopEnd l).pal = t.pal ∧ (t.loopEnd l).palPois = t.palPois := by
  induction l with
  | nil => exact ⟨rfl, rfl⟩
  | cons a l ih =>
    unfold Tile.loopEnd
    split
    · split
      · exact ⟨rfl, rfl⟩
      · exact ih
    · exact ⟨rfl, rfl⟩

theorem Tile.advance_pal (t : Tile) : t.advance.pal = t.pal ∧ t.advance.palPois = t.palPois := Tile.loopEnd_pal t _

theorem Tile.takeToken_pal (t : Tile) (k : Nat) :
    (t.takeToken k).pal = t.pal ∧ (t.takeToken k).palPois = t.palPois := by
  unfold Tile.takeToken
  split <;> exact ⟨rfl, rfl⟩

theorem Tile.enqueue_pal (t : Tile) (o : QOp) : (t.enqueue o).pal = t.pal ∧ (t.enqueue o).palPois = t.palPois := by
  unfold Tile.enqueue
  split <;> exact ⟨rfl, rfl⟩

end Sys2Proof.Machine
end

