-- ==== Sys2Proof/Laws/Reads.lean ====
section
/-! SUPPORT. What a read of the Palette delivers while nothing waits to be written to it (R102, R116). -/

namespace Sys2Proof.Machine

theorem memRead_lt (m : SMap (BitVec 8)) (a n : Nat) : memRead m a n < 256 ^ n := by
  induction n generalizing a with
  | zero => simp [memRead]
  | succ n ih =>
    have h1 := ih (a + 1)
    have h2 := (SMap.getD m a 0#8).isLt
    unfold memRead
    rw [Nat.pow_succ]
    omega

/-- A read splits at any byte. -/
theorem memRead_add (m : SMap (BitVec 8)) (a i j : Nat) :
    memRead m a (i + j) = memRead m a i + 256 ^ i * memRead m (a + i) j := by
  induction i generalizing a with
  | zero => simp [memRead]
  | succ i ih =>
    have e1 : memRead m a (i + 1 + j) = (SMap.getD m a 0#8).toNat + 256 * memRead m (a + 1) (i + j) := by
      rw [show i + 1 + j = (i + j) + 1 by omega]
      rfl
    have e2 : memRead m a (i + 1) = (SMap.getD m a 0#8).toNat + 256 * memRead m (a + 1) i := rfl
    rw [e1, e2, ih (a + 1), show a + 1 + i = a + (i + 1) by omega, Nat.pow_succ, Nat.mul_add, ← Nat.mul_assoc,
      Nat.mul_comm (256 ^ i) 256, Nat.add_assoc]

/-- The bytes in the middle of a longer read. -/
theorem memRead_mid (m : SMap (BitVec 8)) (b off n len : Nat) (h : off + n ≤ len) :
    memRead m b len / 256 ^ off % 256 ^ n = memRead m (b + off) n := by
  obtain ⟨r, rfl⟩ : ∃ r, len = off + (n + r) := ⟨len - off - n, by omega⟩
  rw [memRead_add m b off (n + r), Nat.add_mul_div_left _ _ (Nat.pow_pos (by decide)),
    Nat.div_eq_of_lt (memRead_lt m b off), Nat.zero_add, memRead_add m (b + off) n r, Nat.add_mul_mod_self_left,
    Nat.mod_eq_of_lt (memRead_lt m (b + off) n)]

/-- The poison flags of `n` segments from `seg`. -/
def flagsFrom (pois : SMap Bool) (seg : Nat) : Nat → List Bool
  | 0 => []
  | n + 1 => SMap.getD pois seg false :: flagsFrom pois (seg + 1) n

theorem TW.readSegs_calm {k : Bits} (x : TW) (seg n : Nat) (h : x.Calm k) :
    x.readSegs seg n = (memRead k.pal (16 * seg) (16 * n), flagsFrom k.pois seg n, x) := by
  induction n generalizing seg with
  | zero => rfl
  | succ n ih =>
    have hr : x.readSeg seg = (memRead k.pal (16 * seg) 16, SMap.getD k.pois seg false, x) := by
      unfold TW.readSeg
      rw [show SMap.getD x.t.palErr seg 0 = 0 from by rw [h.tile.still.palErr]; rfl, h.tile.pal, h.tile.pois]
      rfl
    unfold TW.readSegs
    rw [hr]
    dsimp only
    rw [ih (seg + 1)]
    dsimp only
    rw [show 16 * (n + 1) = 16 + 16 * n by omega, memRead_add, show 16 * (seg + 1) = 16 * seg + 16 by omega]
    rfl

/-- R102: the bytes and the poison flags that a read delivers. -/
theorem TW.readRaw_calm {k : Bits} (x : TW) (a n : Nat) (h : x.Calm k) :
    x.readRaw a n = (⟨a, n, memRead k.pal a n, flagsFrom k.pois (a / 16) (segsOf a n), false⟩, x) := by
  unfold TW.readRaw
  rw [TW.readSegs_calm x _ _ h]
  dsimp only
  rw [memRead_mid k.pal _ _ _ _ (by unfold segsOf; omega), show 16 * (a / 16) + a % 16 = a by omega]

theorem TW.overlay_calm {k : Bits} (x : TW) (h : x.Calm k) : x.overlay = x := by
  unfold TW.overlay
  rw [h.tile.still.stores]
  rfl

/-- R116: a permitted read delivers the Palette's bytes. -/
theorem TW.readPart_calm {k : Bits} {u : Setup} (x : TW) (c : Nat) (kind : AccKind) (who : Who) (a n : Nat) (h : x.Calm k)
    (hf : x.Fixed u) (hp : ∀ y : TW, y.Fixed u → y.t.permits c kind (a / 64) = true) (ha : a < 0x200000) :
    (x.readPart c kind who a n).1 = ⟨a, n, memRead k.pal a n, flagsFrom k.pois (a / 16) (segsOf a n), false⟩ := by
  unfold TW.readPart
  dsimp only
  rw [hp _ (TW.commitDue_fixed _ c hf), if_pos (by simp [ha])]
  rw [TW.readRaw_calm _ _ _ (TW.penRead_still _ _ _ _ (TW.commitDue_still _ c h))]

end Sys2Proof.Machine
end

