-- ==== Sys2Proof/Laws/Sent.lean ====
section
/-! SUPPORT. What a flit that enters the router leaves alone: everything but the fabric dies and the error totals. -/

namespace Sys2Proof.Machine

/-- Not a register of a fabric die's ports, nor one of its own counters, nor of its performance counter set. -/
def offSent (a : Nat) : Prop :=
  a < 0x1000000 ∨ 0x1800 ≤ (a - 0x1000000) % 0x80000 ∧ ¬ (0x18040 ≤ (a - 0x1000000) % 0x80000 ∧ (a - 0x1000000) % 0x80000 < 0x180A0) ∧
    ¬ (0x1A000 ≤ (a - 0x1000000) % 0x80000 ∧ (a - 0x1000000) % 0x80000 < 0x1A258)

/-- Nothing but the fabric dies, their counters and the counts on their way to ERRC differs. -/
structure State.Sent (k s : State) : Prop where
  off : ∀ f : RF, offSent f.addr → s.get f = k.get f
  rest : { s with regs := k.regs, fab := k.fab, errcPending := k.errcPending } = k

theorem State.Sent.low {k s : State} (h : k.Sent s) (f : RF) (hf : f.addr < 0x1000000) : s.get f = k.get f :=
  h.off f (.inl hf)

theorem State.Sent.refl (s : State) : s.Sent s := ⟨fun _ _ => rfl, rfl⟩

theorem State.Sent.trans {k s t : State} (h : k.Sent s) (g : s.Sent t) : k.Sent t := by
  refine ⟨fun f hf => (g.off f hf).trans (h.off f hf), ?_⟩
  have h1 := h.rest
  have h2 := g.rest
  rw [← h1, ← h2]

theorem State.Sent.tick {k s : State} (h : k.Sent s) : s.tick = k.tick := by rw [← h.rest]
theorem State.Sent.tiles {k s : State} (h : k.Sent s) : s.tiles = k.tiles := by rw [← h.rest]
theorem State.Sent.rcv {k s : State} (h : k.Sent s) : s.rcv = k.rcv := by rw [← h.rest]

theorem fabCnt_off (f a : Nat) (h1 : 0x1018040 ≤ a) (h2 : a < 0x10180A0) : ¬ offSent (a + 0x80000 * f) := by
  unfold offSent
  omega

theorem State.put_sent (k s : State) (f : RF) (v : Nat) (hf : ¬ offSent f.addr) (h : k.Sent s) : k.Sent (s.put f v) :=
  h.trans ⟨fun g hg => State.get_put_other _ _ _ _ fun e => hf (e ▸ hg), rfl⟩

theorem State.errc_sent (k s : State) (i n : Nat) (h : k.Sent s) : k.Sent (s.errc i n) := by
  unfold State.errc
  split
  · exact h
  · exact h.trans ⟨fun _ _ => rfl, rfl⟩

theorem State.count_sent (k s : State) (f : RF) (i n : Nat) (hf : ¬ offSent f.addr) (h : k.Sent s) :
    k.Sent (s.count f i n) := by
  have h1 : k.Sent (s.add f n) := by
    unfold State.add
    split
    · exact h
    · exact State.put_sent _ _ _ _ hf h
  exact State.errc_sent _ _ _ _ h1

theorem State.fabEvent_sent (k s : State) (f code n : Nat) (h : k.Sent s) : k.Sent (s.fabEvent f code n) := by
  refine h.trans ⟨fun g hg => ?_, rfl⟩
  refine CSet.event_get _ _ _ _ _ _ ?_ ?_
  · simp only [fabSet]
    unfold offSent at hg
    omega
  · simp only [fabSet]
    unfold offSent at hg
    omega

theorem State.fab_sent (k s : State) (x : FabSt) (h : k.Sent s) : k.Sent { s with fab := x } :=
  h.trans ⟨fun _ _ => rfl, rfl⟩

theorem State.freeBuf_sent (k s : State) (f : Nat) (i : Option Nat) (vc : Nat) (h : k.Sent s) : k.Sent (s.freeBuf f i vc) := by
  unfold State.freeBuf
  split
  · exact h
  · split
    · exact State.fab_sent _ _ _ h
    · split
      · exact State.fab_sent _ _ _ h
      · exact h

theorem State.add_sent (k s : State) (f : RF) (n : Nat) (hf : ¬ offSent f.addr) (h : k.Sent s) : k.Sent (s.add f n) := by
  unfold State.add
  split
  · exact h
  · exact State.put_sent _ _ _ _ hf h

theorem portCnt_off (f p a : Nat) (hp : p < 24) (h1 : 0x1000000 ≤ a) (h2 : a < 0x1000100) :
    ¬ offSent (a + 0x80000 * f + 0x100 * p) := by
  unfold offSent
  omega

theorem State.countRx_sent (k s : State) (f p : Nat) (hp : p < 24) (h : k.Sent s) : k.Sent (s.countRx f p) :=
  State.fabEvent_sent _ _ _ _ _ (State.add_sent _ _ _ _ (portCnt_off _ _ _ hp (by decide) (by decide)) h)

theorem State.countTx_sent (k s : State) (f p vc : Nat) (hp : p < 24) (h : k.Sent s) : k.Sent (s.countTx f p vc) := by
  have h1 := State.fabEvent_sent _ _ f (0x20 + p) 1 (State.fabEvent_sent _ _ f (2 + vc) 1
    (State.add_sent _ _ (F.FAB_PORT_CNT_TX.count f p) 1 (portCnt_off f p 0x1000018 hp (by decide) (by decide)) h))
  unfold State.countTx
  dsimp only
  split
  · exact State.fabEvent_sent _ _ _ _ _ h1
  · exact h1

theorem State.crossSpine_sent (k s : State) (f flow vc : Nat) (h : k.Sent s) : k.Sent (s.crossSpine f flow vc) := by
  have hp : spinePort flow < 24 := by unfold spinePort; omega
  exact State.countRx_sent _ _ _ _ hp (State.countTx_sent _ _ _ _ _ hp h)

theorem State.toInbox_sent (k s : State) (i : Option Nat) (x : Flit) (h : k.Sent s) : k.Sent (s.toInbox i x) := by
  unfold State.toInbox
  split
  · exact State.freeBuf_sent _ _ _ _ _ (State.count_sent _ _ _ _ _ (fabCnt_off _ _ (by decide) (by decide)) h)
  · exact State.fab_sent _ _ _ h

theorem State.ownCopy_sent (k s : State) (f : Nat) (x : Flit) (h : k.Sent s) : k.Sent (s.ownCopy f x) := by
  unfold State.ownCopy
  refine State.toInbox_sent _ _ _ _ ?_
  split
  · exact h
  · exact State.crossSpine_sent _ _ _ _ _ h

theorem State.enqueueOut_sent (k s : State) (f p : Nat) (i : Option Nat) (x : Flit) (h : k.Sent s) :
    k.Sent (s.enqueueOut f p i x) := by
  unfold State.enqueueOut
  split
  · exact State.freeBuf_sent _ _ _ _ _ (State.count_sent _ _ _ _ _ (fabCnt_off _ _ (by decide) (by decide)) h)
  · exact State.fab_sent _ _ _ h

theorem State.dispatchFlit_sent (k s : State) (f : Nat) (i : Option Nat) (x : Flit) (h : k.Sent s) :
    k.Sent (s.dispatchFlit f i x) := by
  have hfold : ∀ (l : List Nat) (g : State → Nat → State) (s : State), (∀ s p, k.Sent s → k.Sent (g s p)) → k.Sent s →
      k.Sent (l.foldl g s) := by
    intro l g
    induction l with
    | nil => intro s _ h; exact h
    | cons p l ih => intro s hg h; exact ih _ hg (hg _ _ h)
  unfold State.dispatchFlit
  split
  · split
    · exact State.toInbox_sent _ _ _ _ h
    · exact State.enqueueOut_sent _ _ _ _ _ _ h
  · exact State.freeBuf_sent _ _ _ _ _ (State.count_sent _ _ _ _ _ (fabCnt_off _ _ (by decide) (by decide)) h)
  · exact State.freeBuf_sent _ _ _ _ _ (State.count_sent _ _ _ _ _ (fabCnt_off _ _ (by decide) (by decide)) h)
  · next ports own detour _ =>
    simp only
    have h1 : k.Sent (if own then s.ownCopy f x else s) := by
      split
      · exact State.ownCopy_sent _ _ _ _ h
      · exact h
    have h2 : ∀ b : Bool, k.Sent (if b = true then (if own then s.ownCopy f x else s).freeBuf f i x.vc
        else (if own then s.ownCopy f x else s)) := by
      intro b
      split
      · exact State.freeBuf_sent _ _ _ _ _ h1
      · exact h1
    refine hfold _ _ _ (fun s p hs => State.enqueueOut_sent _ _ _ _ _ _ ?_) ?_
    · split
      · exact State.fabEvent_sent _ _ _ _ _ hs
      · exact hs
    · split
      · exact State.fab_sent _ _ _ (State.fabEvent_sent _ _ f 0x0E 1
          (State.add_sent _ _ _ _ (fabCnt_off _ _ (by decide) (by decide)) (h2 _)))
      · exact h2 _

theorem State.inject_sent (s : State) (f : Nat) (x : Flit) : s.Sent (s.inject f x) := by
  unfold State.inject State.badRow
  split
  · have h := State.count_sent s s (F.FAB_CNT_HDR.count f) (fabErrc f 5) 1 (fabCnt_off _ _ (by decide) (by decide))
      (State.Sent.refl s)
    dsimp only
    split
    · exact State.dispatchFlit_sent _ _ _ _ _ h
    · exact h
  · exact State.dispatchFlit_sent _ _ _ _ _ (State.Sent.refl s)

theorem State.tickAll_sent (s : State) (m : TickMsg) (t : Nat) : s.Sent (s.tickAll m t) := State.inject_sent _ _ _

theorem State.tickAllOwn_sent (s : State) (m : TickMsg) (t : Nat) : s.Sent (s.tickAllOwn m t) :=
  State.toInbox_sent _ _ _ _ (State.tickAll_sent s m t)

theorem State.tickTo_sent (s : State) (m : TickMsg) (n : Nat) : s.Sent (s.tickTo m n) := State.inject_sent _ _ _

end Sys2Proof.Machine
end

