-- ==== Sys2Proof/Tests/Slice0.lean ====
section
/-! SUPPORT. Small tests: each check of the commands refuses an ill-formed command, and witnesses that the hypotheses of
the statements can be met together. -/

namespace Sys2Proof.Tests
open Sys2Proof Sys2Proof.Machine
set_option Elab.async false

/-- A request of 256 bytes, one more than R487's len can say. -/
def longReq : EasReq := .bus 0 (List.replicate 256 0) 0

theorem longReq_not_ok : longReq.ok = false := by
  simp only [longReq, EasReq.ok, List.length_replicate]; decide

theorem test_wf_bar2_read_0 : Instr.wf (.bar2Access none 4 0 (.read 0)) = false := by decide
/-- One byte more than a memory write carries. -/
def longWrite : List Byte := List.replicate 513 0

theorem longWrite_length : longWrite.length = 513 := List.length_replicate

theorem test_wf_bar2_write_513 : Instr.wf (.bar2Access none 4 0 (.write longWrite)) = false := by
  simp only [Instr.wf, HostAccess.ok, longWrite_length]; decide
theorem test_wf_bar4_read_4097 : Instr.wf (.bar4Access 0 0 (.read 4097)) = false := by simp [Instr.wf, HostAccess.ok]
theorem test_wf_bar4_write_0 : Instr.wf (.bar4Access 0 0 (.write [])) = false := by decide
theorem test_wf_getId : Instr.wf (.getId longReq 0) = false := longReq_not_ok
theorem test_wf_getStatus : Instr.wf (.getStatus longReq 0) = false := longReq_not_ok
theorem test_wf_getSensor : Instr.wf (.getSensor longReq 0) = false := longReq_not_ok
theorem test_wf_getErrc : Instr.wf (.getErrc longReq 0) = false := longReq_not_ok
theorem test_wf_readLog : Instr.wf (.readLog longReq 0) = false := longReq_not_ok
theorem test_wf_setNext : Instr.wf (.setNext longReq 0) = false := longReq_not_ok
theorem test_wf_stageProfile : Instr.wf (.stageProfile longReq 0) = false := longReq_not_ok
theorem test_wf_commitProfile : Instr.wf (.commitProfile longReq 0) = false := longReq_not_ok
theorem test_wf_readProfile : Instr.wf (.readProfile longReq 0) = false := longReq_not_ok
theorem test_wf_setLock : Instr.wf (.setLock longReq 0) = false := longReq_not_ok
theorem test_wf_moduleReset : Instr.wf (.moduleReset longReq 0) = false := longReq_not_ok
theorem test_wf_stageFw : Instr.wf (.stageFw longReq 0) = false := longReq_not_ok
theorem test_wf_commitFw : Instr.wf (.commitFw longReq 0) = false := longReq_not_ok
theorem test_wf_advanceSvn : Instr.wf (.advanceSvn longReq 0) = false := longReq_not_ok

/-! Witnesses that the hypotheses of the statements can be met together. A tile that runs, and the check of R71. -/

/-- Rows 0 to 511 hold instructions and may be read; rows 512 to 1,023 hold data of every use. -/
def parts : SMap Word := [(0x80, 0x51_0200_0000#64), (0x88, 0x1F2_0200_0200#64)]

/-- A tile that runs from the row of address 0, in cycle 10. -/
def goTile : Tile :=
  { Tile.fresh with run := .running, fetch := { Fetch.none with cur := some 0, entered := true }, cyc := 10, issued := 9, model := 1, regs := parts }

/-- The module with that tile as (0, 0, P0). -/
def goState (t : Tile) : State := { State.reset with tiles := [(0, t)] }

def t0 : TileId := ⟨0, 0, 0⟩

/-- The words of the worked examples of 03_tile_sequencer_and_instruction_set.md:523-524, and their fields by R77 and R94. -/
theorem test_decode_addi : decodeTile t0 0x1100_5280_0000_0040 = .addi t0 ⟨false, 2, 5 * 2 ^ 44 + 5 * 2 ^ 39 + 0x40⟩ ∧
    encodeTile (.addi t0 ⟨false, 2, 5 * 2 ^ 44 + 5 * 2 ^ 39 + 0x40⟩) = some 0x1100_5280_0000_0040 := by decide
theorem test_decode_xsend : decodeTile t0 0x9800_052E_4520_8000 = .xsend t0 ⟨false, 0, 10 * 2 ^ 39 + 11 * 2 ^ 34 + 0x1229 * 2 ^ 21 + 2 ^ 15⟩ ∧
    encodeTile (.xsend t0 ⟨false, 0, 10 * 2 ^ 39 + 11 * 2 ^ 34 + 0x1229 * 2 ^ 21 + 2 ^ 15⟩) = some 0x9800_052E_4520_8000 := by decide
theorem test_wf_nop : Instr.wf (.nop t0 0x1100_5280_0000_0040) = false ∧ Instr.wf (.nop t0 0) = true := by decide
/-- A reserved class, and an op that MULDIV does not list. -/
theorem test_decode_unlisted : decodeTile t0 0x5800_0000_0000_0000 = .nop t0 0x5800_0000_0000_0000 ∧
    decodeTile t0 0x4006_0000_0000_0000 = .nop t0 0x4006_0000_0000_0000 := by decide

/-- A word without a guard whose body is `n`. -/
def iw (n : Nat) : IW := ⟨false, 0, BitVec.ofNat 49 n⟩

/-- State.Issues as a test. -/
def issuesB (s : State) (t : TileId) (p : Nat) (w : IW) (sh : Shape) (c : Nat) : Bool :=
  decide (s.phys t.gid = some p) && decide ((s.tile p).run = .running) &&
  (s.tile p).permits (s.fetched p).rowCycle .fetch ((s.tile p).pc / 64) &&
  !(s.fetched p).wordPoisoned && !sh.illegal &&
  (!sh.noGuard || (!w.pn && decide (w.pg.val = 0))) && (!sh.ctl || !(s.tile p).endsBody) &&
  ((s.tile p).settle (s.fetched p).rowCycle).guard w && !(s.tile p).tokenPending sh.td && !(s.fetched p).queueFull sh &&
  (match sh.hold (s.fetched p) with
   | some h => decide (c = max (max (max (s.fetched p).rowCycle ((sh.reads ++ sh.writes).foldl (fun c k => max c ((s.tile p).regDue k))
      ((s.tile p).issued + 1))) (if sh.td = 0 then h else max h ((s.tile p).tokenFrom sh.td))) ((s.fetched p).queueAt sh))
   | none => false) && (sh.check ((s.tile p).settle c)).isNone

theorem issues_of {s : State} {t : TileId} {p : Nat} {w : IW} {sh : Shape} {c : Nat} (h : issuesB s t p w sh c = true) :
    s.Issues t p w sh c := by
  unfold issuesB at h
  simp only [Bool.and_eq_true, Bool.not_eq_true', decide_eq_true_eq, Bool.or_eq_true, Option.isNone_iff_eq_none] at h
  obtain ⟨⟨⟨⟨⟨⟨⟨⟨⟨⟨⟨h1, h2⟩, h3⟩, h4⟩, h5⟩, h6⟩, h7⟩, h8⟩, h9⟩, h10⟩, h11⟩, h12⟩ := h
  refine ⟨h1, h2, h3, h4, h5, ?_, ?_, h8, h9, h10, ?_, h12⟩
  · intro e; rcases h6 with h | h
    · rw [e] at h; cases h
    · exact h
  · intro e; rcases h7 with h | h
    · rw [e] at h; cases h
    · exact h
  · split at h11
    · rename_i n hn; exact ⟨n, hn, by simpa using h11⟩
    · cases h11
theorem goState_canonical : (goState goTile).tilesWf = true := by decide

/-- AluResults, MoviAndMovhi, LaterResults: s1 = s2 op s3; s1 = s2 op imm; MOVI and MOVHI of s1. -/
def wAlu : IW := iw (1 * 2 ^ 44 + 2 * 2 ^ 39 + 3 * 2 ^ 34)
def wImm : IW := iw (1 * 2 ^ 44 + 2 * 2 ^ 39 + 7)
def wMov : IW := iw (1 * 2 ^ 44 + 0xFFFFF)

theorem witness_alu : (goState goTile).Issues t0 0 wAlu (aluShape wAlu) 10 := issues_of (by decide)
theorem witness_alui : (goState goTile).Issues t0 0 wImm (aluiShape wImm) 10 := issues_of (by decide)
theorem witness_movi : (goState goTile).Issues t0 0 wMov { writes := [wMov.f 44 5] } 10 := issues_of (by decide)
theorem witness_movhi : (goState goTile).Issues t0 0 wMov
    { illegal := wMov.f 20 24 ≠ 0, reads := [wMov.f 44 5], writes := [wMov.f 44 5] } 10 := issues_of (by decide)
theorem witness_rnd : (goState goTile).Issues t0 0 wAlu (rndShape wAlu) 10 := issues_of (by decide)

/-- A result that waits is waited for (R71): s2 is due in cycle 20. -/
theorem witness_alu_waits : (goState { goTile with pend := [⟨2, 5, false, 20⟩] }).Issues t0 0 wAlu (aluShape wAlu) 20 :=
  issues_of (by decide)

/-- PredicateResults: p1 by s2 and s3, and by s2 and an immediate; the predicate logic; NOP. -/
theorem witness_cmp : (goState goTile).Issues t0 0 (iw (2 ^ 46 + 2 * 2 ^ 39 + 3 * 2 ^ 34)) (cmpShape (iw (2 ^ 46 + 2 * 2 ^ 39 + 3 * 2 ^ 34))) 10 :=
  issues_of (by decide)
theorem witness_cmp_imm : (goState goTile).Issues t0 0 (iw (2 ^ 46 + 2 * 2 ^ 39 + 2 ^ 33 + 9)) (cmpShape (iw (2 ^ 46 + 2 * 2 ^ 39 + 2 ^ 33 + 9))) 10 :=
  issues_of (by decide)
theorem witness_plogic : (goState goTile).Issues t0 0 (iw (2 ^ 46)) { illegal := (iw (2 ^ 46)).f 0 40 ≠ 0 } 10 := issues_of (by decide)
theorem witness_nop : (goState goTile).Issues t0 0 (nopIW 0) { illegal := ((0 : BitVec 64).extractLsb' 59 5).toNat ≠ 0 ||
    ((0 : BitVec 64).extractLsb' 49 6).toNat ≠ 0 || ((0 : BitVec 64).extractLsb' 0 49).toNat ≠ 0 } 10 := issues_of (by decide)

/-- LaterResults: two results wait, the first due in cycle 20. -/
theorem witness_result : State.phys (goState { goTile with pend := [⟨2, 5, false, 20⟩, ⟨3, 6, true, 21⟩] }) t0.gid = some 0 ∧
    State.tilesWf (goState { goTile with pend := [⟨2, 5, false, 20⟩, ⟨3, 6, true, 21⟩] }) = true ∧
    ∀ q ∈ [(⟨3, 6, true, 21⟩ : Pend)], 20 < q.due := by decide

/-- ControlFlow: branches by an offset and by s2 = 64, links in s1; a body of two instructions, three times and not at all. -/
def wBr : IW := iw 64
def wReg : IW := iw (1 * 2 ^ 44 + 2 * 2 ^ 39)
def goTo : Tile := { goTile with sregs := [(2, 64)] }
theorem witness_br : (goState goTile).Issues t0 0 (iw 8) (jumpShape ((iw 8).f 32 17 ≠ 0) [] [] (relTarget (iw 8))) 10 := issues_of (by decide)
theorem witness_call : (goState goTile).Issues t0 0 (iw (2 ^ 44 + 8)) (jumpShape ((iw (2 ^ 44 + 8)).f 32 12 ≠ 0) [] [(iw (2 ^ 44 + 8)).f 44 5] (relTarget (iw (2 ^ 44 + 8)))) 10 := issues_of (by decide)
theorem witness_jr : (goState goTo).Issues t0 0 (iw (2 * 2 ^ 39)) (jumpShape false [2] [] fun x => (x.sreg 2).toNat) 10 := issues_of (by decide)
theorem witness_callr : (goState goTo).Issues t0 0 wReg (jumpShape (wReg.f 0 39 ≠ 0) [wReg.f 39 5] [wReg.f 44 5] fun x => (x.sreg (wReg.f 39 5)).toNat) 10 :=
  issues_of (by decide)
theorem witness_loop : (goState goTile).Issues t0 0 (iw (2 ^ 28 + 3)) (loopShape ((iw (2 ^ 28 + 3)).f 44 5 ≠ 0) [] (fun _ => (iw (2 ^ 28 + 3)).f 0 28) (iw (2 ^ 28 + 3))) 10 :=
  issues_of (by decide)
theorem witness_loopr_0 : (goState goTile).Issues t0 0 (iw (2 ^ 44 + 2 ^ 28)) (loopShape ((iw (2 ^ 44 + 2 ^ 28)).f 0 28 ≠ 0) [(iw (2 ^ 44 + 2 ^ 28)).f 44 5]
    (fun t => (t.sreg ((iw (2 ^ 44 + 2 ^ 28)).f 44 5)).toNat % 2 ^ 32) (iw (2 ^ 44 + 2 ^ 28))) 10 := issues_of (by decide)
/-- Token 1 has cleared in cycle 30: WAIT.ALL and WAIT.ANY of it issue in cycle 31. -/
def waited : Tile := { goTile with tokAt := [(1, 30)] }
theorem witness_waitAll : (goState waited).Issues t0 0 (iw 2) (waitShape waitAllHold (iw 2)) 31 := issues_of (by decide)
theorem witness_waitAny : (goState waited).Issues t0 0 (iw (2 ^ 46 + 2 ^ 45 + 2)) (waitShape waitAnyHold (iw (2 ^ 46 + 2 ^ 45 + 2))) 31 := issues_of (by decide)

/-- ScalarMemory: loads of the last Palette row and of a row of no partition, of a register, of the first and the last
accumulator element, and of no region; stores to the Palette and to an accumulator. -/
def memTile (a : Nat) : Tile := { goTile with sregs := [(2, BitVec.ofNat 64 a)] }
theorem witness_load_palette : (goState (memTile 0xFFC0)).Issues t0 0 wReg (loadShape 8 wReg) 10 ∧
    regionOf (memAddr ((goState (memTile 0xFFC0)).tile 0 |>.settle 10) wReg) = .palette ∧
    ((goState (memTile 0xFFC0)).tile 0).permits 10 .seqR (0xFFC0 / 64) = true := ⟨issues_of (by decide), by decide, by decide⟩
theorem witness_load_refused : (goState (memTile 0x1FFFC0)).Issues t0 0 wReg (loadShape 1 wReg) 10 ∧
    regionOf (memAddr ((goState (memTile 0x1FFFC0)).tile 0 |>.settle 10) wReg) = .palette ∧
    ((goState (memTile 0x1FFFC0)).tile 0).permits 10 .seqR (0x1FFFC0 / 64) = false := ⟨issues_of (by decide), by decide, by decide⟩
theorem witness_load_reg : (goState (memTile 0x200FF8)).Issues t0 0 wReg (loadShape 8 wReg) 10 ∧
    regionOf (memAddr ((goState (memTile 0x200FF8)).tile 0 |>.settle 10) wReg) = .regs := ⟨issues_of (by decide), by decide⟩
theorem witness_load_acc : (goState (memTile 0x307FFC)).Issues t0 0 wReg (loadShape 4 wReg) 10 ∧
    regionOf (memAddr ((goState (memTile 0x307FFC)).tile 0 |>.settle 10) wReg) = .acc := ⟨issues_of (by decide), by decide⟩
theorem witness_load_none : (goState (memTile 0x308000)).Issues t0 0 wReg (loadShape 8 wReg) 10 ∧
    regionOf (memAddr ((goState (memTile 0x308000)).tile 0 |>.settle 10) wReg) = .none := ⟨issues_of (by decide), by decide⟩
theorem witness_store_palette : (goState (memTile 0x8000)).Issues t0 0 wReg (storeShape 4 wReg) 10 ∧
    ((goState (memTile 0x8000)).tile 0).permits 10 .seqW (0x8000 / 64) = true := ⟨issues_of (by decide), by decide⟩
theorem witness_store_acc : (goState (memTile 0x300000)).Issues t0 0 wReg (storeShape 8 wReg) 10 := issues_of (by decide)
theorem goTile_still : goTile.Still := ⟨rfl, rfl, rfl, rfl, rfl, rfl, rfl⟩

/-- StoreBecomesVisible: a tagged store of the last 4 bytes of a segment, and one of all 16. -/
theorem witness_store (n : Nat) (h : n = 4 ∨ n = 16) : ∃ x : TW, ∃ a : Nat, x.t.stores = [(12, a, n, 5, true)] ∧ x.t.late = [] ∧
    x.t.palErr = [] ∧ SMap.sorted x.t.pal = true ∧ SMap.sorted x.t.palPois = true ∧ 0 < n ∧ a % 16 + n ≤ 16 := by
  rcases h with rfl | rfl
  · exact ⟨⟨{ goTile with stores := [(12, 0x800C, 4, 5, true)] }, [], (goState goTile).env 0⟩, 0x800C, rfl, rfl, rfl, by decide, by decide, by decide, by decide⟩
  · exact ⟨⟨{ goTile with stores := [(12, 0x8000, 16, 5, true)] }, [], (goState goTile).env 0⟩, 0x8000, rfl, rfl, rfl, by decide, by decide, by decide, by decide⟩

/-- OperationsQueued: a descriptor at row 512 through s4, with a token to wait for and without. -/
def wEng : IW := iw (1 * 2 ^ 44 + 4 * 2 ^ 33 + 512 * 2 ^ 18)
theorem witness_engine (k : QKind) : (goState goTile).Issues t0 0 wEng (engineShape k (fun w => w.f 0 18 = 0) wEng) 10 := by
  cases k <;> exact issues_of (by decide)
theorem witness_stream : (goState goTile).Issues t0 0 (iw (2 ^ 44 + 2 ^ 43 + 31 * 2 ^ 38 + 4 * 2 ^ 33 + 512 * 2 ^ 18 + 5))
    (engineShape .sload (fun w => decide (w.f 3 15 = 0) && decide (w.f 0 3 < 6)) (iw (2 ^ 44 + 2 ^ 43 + 31 * 2 ^ 38 + 4 * 2 ^ 33 + 512 * 2 ^ 18 + 5))) 10 :=
  issues_of (by decide)
theorem permits_const {t : Tile} (h : t.partNext = []) (k row : Nat) (a : AccKind) : t.permits k a row = t.permits 0 a row := by
  unfold Tile.permits Tile.partOf Tile.part; simp only [h]; rfl
theorem witness_engine_reads : ∀ k, 10 ≤ k → ((goState goTile).tile 0).permits k .seqR
    (descAddr (((goState goTile).tile 0).settle 10) wEng / 64) = true := fun k _ => (permits_const rfl k _ _).trans (by decide)
theorem witness_mclr : (goState goTile).Issues t0 0 (iw (31 * 2 ^ 44 + 255)) (mclrShape (iw (31 * 2 ^ 44 + 255))) 10 := issues_of (by decide)
theorem witness_sync : (goState goTile).Issues t0 0 (iw (2 ^ 44 + 2 * 2 ^ 39)) (syncShape (iw (2 ^ 44 + 2 * 2 ^ 39))) 10 := issues_of (by decide)
theorem witness_sync_imm : (goState goTile).Issues t0 0 (iw (2 ^ 44 + 0xFFFF)) (syncShape (iw (2 ^ 44 + 0xFFFF))) 10 := issues_of (by decide)

/-- ArrivalsStop: xlen 65,535; TICKWAIT and END. -/
theorem witness_bar : (goState goTile).Issues t0 0 (iw 65535) (arriveShape ((iw 65535).f 16 33 ≠ 0) [.muller, .glaze, .exch]) 10 :=
  issues_of (by decide)
theorem witness_arrive : (goState goTile).Issues t0 0 (iw 0) (arriveShape ((iw 0).f 0 49 ≠ 0)
    [.muller, .glaze, .stream, .exch, .fabric, .sync]) 10 := issues_of (by decide)

/-- SendsLeave: outside the window; in it, to a served tile and to a row that names none. -/
def phaseTile : Tile := { goTile with inPhase := true, phaseLen := 100, xlen := 100, released := 0, sregs := [(2, 0x8000), (5, 0x1FFF)] }
def wSend : IW := iw (1 * 2 ^ 44 + 2 * 2 ^ 39 + 3 * 2 ^ 34 + 2 ^ 15)
theorem witness_send : (goState goTile).Issues t0 0 wSend (sendShape (wSend.f 16 5 ≠ 0) [] (fun _ => wSend.f 21 13) wSend) 10 ∧
    ((goState goTile).tile 0).inWindow 10 = false := ⟨issues_of (by decide), by decide⟩
theorem witness_send_served : (goState phaseTile).Issues t0 0 wSend (sendShape (wSend.f 16 5 ≠ 0) [] (fun _ => wSend.f 21 13) wSend) 10 ∧
    ((goState phaseTile).tile 0).inWindow 10 = true ∧ ((goState phaseTile).env 0).served (wSend.f 21 13) = some 0 ∧
    ((goState phaseTile).tile 0).permits 10 .engR (sendAddr (((goState phaseTile).tile 0).settle 10) (wSend.f 39 5) / 64) = true :=
  ⟨issues_of (by decide), by decide, by decide, by decide⟩
def wSendr : IW := iw (1 * 2 ^ 44 + 2 * 2 ^ 39 + 3 * 2 ^ 34 + 5 * 2 ^ 16)
theorem witness_sendr_unserved : (goState phaseTile).Issues t0 0 wSendr (sendShape (wSendr.f 21 13 ≠ 0) [wSendr.f 16 5]
    (fun x => (x.sreg (wSendr.f 16 5)).toNat % 2 ^ 13) wSendr) 10 ∧
    ((goState phaseTile).env 0).served ((((goState phaseTile).tile 0).settle 10).sreg 5).toNat = none := ⟨issues_of (by decide), by decide⟩

/-! The tick. -/

/-- The module after reset with fields set, and the same module READY. -/
def with_ (s : State) (l : List (RF × Nat)) : State := l.foldl (fun s q => s.put q.1 q.2) s
def upState : State := with_ State.reset [(F.PWR_STATUS.rails, 0x7F), (F.MOD_STATE.state, 1)]
def up (l : List (RF × Nat)) : State := with_ upState l

/-- A message for this module of a kind, without its CRC, and the module with it in its inbox. -/
def msg (kind payload : Nat) : Flit := ⟨BitVec.ofNat 128 kind, BitVec.ofNat 1024 payload⟩
def tickMsg (k number origin : Nat) : Flit := msg 7 (k + origin * 2 ^ 48 + number * 2 ^ 64)
def got (s : State) (l : List Flit) : State := { s with fab := { s.fab with inbox := l.map fun x => (0, none, x) } }

/-- A message of the kind is first in the inbox, and `P` holds of it and of the module without it. -/
theorem popped {o : Option (Flit × State)} {P : Flit → State → Bool} (h : (match o with
    | some q => P q.1 q.2
    | none => false) = true) : ∃ x u, o = some (x, u) ∧ P x u = true := by
  cases o with
  | none => cases h
  | some q => exact ⟨q.1, q.2, rfl, h⟩

theorem witness_host_write : upState.reached 0x10030 = true ∧ upState.reached 0x10008 = true ∧ upState.regsWf = true := by decide

/-- TickRegisterWrites, clause by clause. -/
theorem witness_role_write :
    ((up [(F.MOD_LOCK.lock, 32)]).get F.MOD_LOCK.lock).testBit 5 = true ∧
    (upState.get F.MOD_LOCK.lock).testBit 5 = false ∧ (2 : BitVec 2).toNat ≠ upState.get F.TICK_ROLE.role_cfg ∧
    upState.get F.TICK_ROLE.role_now ≠ 2 ∧ upState.tick.trained = false ∧ upState.get F.RCV_CTL.en = 0 ∧
    (0 : BitVec 2).toNat = upState.get F.TICK_ROLE.role_cfg := by decide
theorem witness_ping_run : (up [(F.TICK_PEERS.master_valid, 1)]).get F.TICK_PEERS.master_valid = 1 ∧
    upState.get F.TICK_PEERS.master_valid = 0 ∧ upState.get F.TICK_ROLE.role_now ≠ 2 ∧
    (up [(F.TICK_ROLE.role_now, 2), (F.TICK_STATUS.stopped, 0)]).get F.TICK_ROLE.role_now = 2 ∧
    (up [(F.TICK_ROLE.role_now, 2), (F.TICK_STATUS.stopped, 0)]).get F.TICK_STATUS.stopped = 0 ∧
    (up [(F.TICK_ROLE.role_now, 2), (F.TICK_STATUS.stopped, 1)]).get F.TICK_STATUS.stopped = 1 := by decide

/-- TickEmitted: in the moment of the scheduled time, and stopped. -/
def master : State := up [(F.TICK_ROLE.role_now, 2), (F.TICK_STATUS.stopped, 0), (F.TICK_NEXT.next, 7)]
theorem witness_emit : master.regsWf = true ∧ master.get F.TICK_ROLE.role_now = 2 ∧ master.tick.delayed = false ∧
    master.get F.TICK_STATUS.stopped = 0 ∧ master.tick.halted = false ∧ master.tick.stopPending = false ∧
    master.tick.emitted + master.tick.ePeriod ≤ master.tick.emitted + master.tick.ePeriod ∧ master.holdsEmpty = true ∧
    (with_ master [(F.TICK_STATUS.stopped, 1)]).get F.TICK_STATUS.stopped = 1 ∧ master.reached 0x10008 = true := by decide

/-- HoldMessages. -/
def unready : State := { upState with tick := { upState.tick with everTick := true, bindNow := 1, accepted := 100, period := 25000 },
                                      regs := (up [(F.LDR_CTX_ROWS.rows 0 0, 1)]).regs }
def standby : State := up [(F.TICK_ROLE.role_now, 1)]
theorem witness_ready : upState.get F.TICK_STATUS.holding = 0 := by decide
theorem witness_deadline : unready.regsWf = true ∧ unready.tick.everTick = true ∧
    25100 - min (unready.get F.TICK_HOLD_LEAD.lead) (25000 / 2) = unready.tick.accepted + unready.tick.period -
      min (unready.get F.TICK_HOLD_LEAD.lead) (unready.tick.period / 2) ∧
    unready.moduleReady = false ∧ unready.get F.TICK_STATUS.holding = 0 ∧ unready.get F.TICK_ROLE.role_now ≠ 2 := by decide
theorem witness_hold (k : Nat) (h : k = 2 ∨ k = 3) : ∃ x u, (got master [tickMsg k 7 63]).popTick k = some (x, u) ∧ (x.tNumber == 7 &&
    (got master [tickMsg k 7 63]).get F.TICK_NEXT.next == 7 && !(got master [tickMsg k 7 63]).tick.frozen && !(got master [tickMsg k 7 63]).tick.delayed) = true := by
  rcases h with rfl | rfl <;> exact popped (by decide +kernel)
theorem witness_hold_standby (k : Nat) (h : k = 2 ∨ k = 3) : ∃ x u, (got standby [tickMsg k 1 8191]).popTick k = some (x, u) ∧
    (x.tNumber == (got standby [tickMsg k 1 8191]).get F.TICK_NUMBER.number + 1 && (got standby [tickMsg k 1 8191]).get F.TICK_ROLE.role_now == 1 &&
    !(got standby [tickMsg k 1 8191]).tick.frozen) = true := by
  rcases h with rfl | rfl <;> exact popped (by decide +kernel)
def late : State := { with_ master [(holdF 16383, 1)] with tick := { master.tick with delayed := true, emitted := 0, ePeriod := 25000, eLimit := 5 } }
theorem witness_limit : late.get F.TICK_ROLE.role_now = 2 ∧ late.tick.delayed = true ∧ late.holdsEmpty = false ∧ late.tick.halted = false ∧
    late.tick.emitted + late.tick.ePeriod + (if late.tick.eLimit = 0 then late.tick.ePeriod else late.tick.eLimit) < 25006 ∧
    late.get F.RCV_CTL.en = 0 ∧ late.regsWf = true := by decide
theorem witness_overrun : ∃ x u, (got upState [tickMsg 9 3 5]).popTick 9 = some (x, u) ∧ (upState.get F.TICK_ROLE.role_now == 0) = true := popped (by decide +kernel)
theorem witness_overrun_master : ∃ x u, (got master [tickMsg 9 3 5]).popTick 9 = some (x, u) ∧ (!master.tick.halted && master.get F.RCV_CTL.en == 0) = true :=
  popped (by decide +kernel)
theorem witness_recover : ∃ x u, (got upState [tickMsg 8 3 5]).popTick 8 = some (x, u) ∧ (upState.get F.RCV_CTL.en == 0) = true := popped (by decide +kernel)

/-- TickRoles. -/
def tick (s : State) (f : TickSt → TickSt) : State := { s with tick := f s.tick }
theorem witness_heartbeat : (tick master fun t => { t with claimFrom := some 9 }).tick.claimFrom = some 9 ∧
    ∃ x u, (got upState [tickMsg 4 3 5]).popTick 4 = some (x, u) ∧ (upState.tick.claim == 0) = true := ⟨rfl, popped (by decide +kernel)⟩
theorem witness_masterLoss : standby.get F.TICK_ROLE.role_now = 1 ∧ (tick standby fun t => { t with heard := 7, period := 25000 }).tick.heard +
    (tick standby fun t => { t with heard := 7, period := 25000 }).tick.period ≤ 25007 ∧ standby.get F.RCV_CTL.en = 0 ∧ standby.regsWf = true := by decide
theorem witness_takeover : ∃ x u, (got master [tickMsg 7 3 5]).popTick 7 = some (x, u) ∧ (x.tOrigin != (got master [tickMsg 7 3 5]).node) = true :=
  popped (by decide +kernel)
theorem witness_takeover_member : ∃ x u, (got upState [tickMsg 7 3 5]).popTick 7 = some (x, u) ∧ (upState.get F.TICK_ROLE.role_now != 2) = true :=
  popped (by decide +kernel)
def claimant (k : Nat) : State := tick (up [(F.FAB_NODE.node_id 0, 16383)]) fun t => { t with claim := k }
theorem witness_claims : ∃ x u, (got (claimant 2) [tickMsg 5 3 5]).popTick 5 = some (x, u) ∧ (decide (x.tOrigin < (claimant 2).node) &&
    (claimant 2).tick.claim == 2 && (claimant 2).tick.claimFrom == none && (claimant 2).get F.TICK_ROLE.role_now == 0) = true := popped (by decide +kernel)
theorem witness_claim_refused : ∃ x u, (got standby [tickMsg 5 3 5]).popTick 5 = some (x, u) ∧ (standby.get F.TICK_ROLE.role_now == 1) = true := popped (by decide +kernel)
theorem witness_claim_standby (k : Nat) (h : k = 1 ∨ k = 2) : ∃ x u, (got (claimant k) [tickMsg 6 3 5]).popTick 6 = some (x, u) ∧
    (decide (x.tOrigin < (claimant k).node) && (claimant k).tick.claim == k && (claimant k).tick.claimFrom == none) = true := by
  rcases h with rfl | rfl <;> exact popped (by decide +kernel)
theorem witness_window_end : (claimant 1).tick.claim = 1 ∧ (claimant 1).tick.claimAt + 12500000 ≤ 12500000 ∧ (claimant 1).get F.RCV_CTL.en = 0 ∧
    (tick (claimant 2) fun t => { t with claimFrom := some 3 }).tick.claimFrom = some 3 := by decide
theorem witness_ping : ∃ x u, (got master [tickMsg 10 3 5]).popTick 0xA = some (x, u) ∧ (master.get F.TICK_ROLE.role_now == 2) = true := popped (by decide +kernel)
theorem witness_echo : ∃ x u, (got upState [tickMsg 11 3 5]).popTick 0xB = some (x, u) ∧ true = true := popped (by decide +kernel)

/-! Sync counters. Counter 7 of die 1 is bound as counter 5 of context 2, in epoch 3; a SIG of 4 and a WAITGE come from
tile (0, 0, 0). -/

def bound_ (extra : List (RF × Nat)) : State := up ([(F.SYN_PCNT_W0.bound 1 7, 1), (F.SYN_PCNT_W0.epoch 1 7, 3), (F.SYN_PCNT_W1.ctx 1 7, 2),
  (F.SYN_PCNT_W1.vcid 1 7, 5), (F.SYN_PCNT_W0.value 1 7, 2 ^ 48 - 5)] ++ extra)
def req (wait : Bool) : SyncReq := ⟨0, 2, 1, ⟨wait, 5, 4, 1, ⟨0, 10, false, 0, 0⟩, 0⟩, some (1, 7, 3)⟩
def asked (s : State) (wait : Bool) : State := { s with syn := { s.syn with reqs := [req wait] } }

theorem witness_finds (wait : Bool) : (asked (bound_ []) wait).phys t0.gid = some 0 ∧ (asked (bound_ []) wait).Finds 0 wait (req wait) 1 7 3 26 := by
  cases wait <;> exact ⟨by decide +kernel, ⟨by decide +kernel, rfl, by decide +kernel⟩⟩
theorem witness_finds_home : (asked (bound_ []) true).translate 2 5 = some (1, 7, 3) := by decide +kernel
theorem witness_takes : (asked (bound_ []) false).Takes 1 7 3 4 := ⟨by decide, by decide, by decide, by decide, by decide⟩
theorem witness_poisoned : (bound_ [(F.SYN_PCNT_W0.poison 1 7, 1)]).get (F.SYN_PCNT_W0.bound 1 7) = 1 ∧
    (bound_ [(F.SYN_PCNT_W0.poison 1 7, 1)]).get (F.SYN_PCNT_W0.epoch 1 7) = 3 ∧
    (bound_ [(F.SYN_PCNT_W0.poison 1 7, 1)]).get (F.SYN_PCNT_W0.poison 1 7) = 1 := by decide

/-- CountersBound: the last counter of a die bound for context 2 in its quota of 1; bound already; abandoned. -/
def vBind : Word := BitVec.ofNat 64 (9 + 2 * 2 ^ 16)
def free_ : State := bound_ [(F.SYN_CTX_W0.quota 3 2, 1), (F.HCTX_STATUS.state 2, 1)]
theorem witness_bind : free_.regsWf = true ∧ free_.reached (F.SYN_PCNT_W1.bind 3 4095).addr = true ∧ free_.get (F.SYN_PCNT_W0.bound 3 4095) = 0 ∧
    free_.translate (vBind.field 16 6) (vBind.field 0 16) = none ∧
    free_.get (F.SYN_CTX_W0.used 3 (vBind.field 16 6)) < free_.get (F.SYN_CTX_W0.quota 3 (vBind.field 16 6)) ∧
    free_.get (F.SYN_PCNT_W2.pair_v 3 4095) = 0 ∧ free_.get (F.SYN_PCNT_W2.rb_mode 3 4095) < 2 ∧
    (∀ q ∈ free_.boundCounters, q.1 = 3 → free_.get (F.SYN_PCNT_W2.pair_v 3 q.2) = 1 → free_.get (F.SYN_PCNT_W2.partner 3 q.2) ≠ 4095) ∧
    free_.get (F.HCTX_STATUS.state (vBind.field 16 6)) ≠ 0 := by decide +kernel
theorem witness_bound : free_.reached (F.SYN_PCNT_W1.bind 1 7).addr = true ∧ free_.get (F.SYN_PCNT_W0.bound 1 7) = 1 ∧ free_.get (F.SYN_PCNT_W0.poison 1 7) = 0 ∧
    (free_.cnt 1 7).waiters = [] ∧ (free_.cnt 1 7).held = [] ∧ free_.get (F.MBS_CFG.enable (free_.get (F.SYN_PCNT_W1.ctx 1 7))) = 0 ∧
    free_.armedOn (free_.get (F.SYN_PCNT_W1.ctx 1 7)) (free_.get (F.SYN_PCNT_W1.vcid 1 7)) = [] := by decide +kernel

/-- RelationFlits: relation flow 3 of context 2, epoch 6, mirrors counter 5. -/
def relation (chk : Nat) : State := bound_ [(F.FAB_FLOW_W0.state 0 3, 1), (F.FAB_FLOW_W0.kind 0 3, 2), (F.FAB_FLOW_W0.recv 0 3, 1), (F.FAB_FLOW_W0.epoch 0 3, 6),
  (F.FAB_FLOW_W0.ctx 0 3, 2), (F.FAB_FLOW_W3.mirror_v 0 3, 1), (F.FAB_FLOW_W3.mvcid 0 3, 5), (F.FAB_FLOW_W3.chk 0 3, chk)]
def syncFlit (op body : Nat) : Flit := msg (6 + 3 * 2 ^ 40 + 6 * 2 ^ 54 + op * 2 ^ 68 + 3 * 2 ^ 70) body
theorem witness_mirrors (op : Nat) (body : Nat) (h : op = 0 ∧ body = 4 ∨ op = 1 ∧ body = (2 ^ 48 - 5) * 2 ^ 64 ∨ op = 1 ∧ body = 0) :
    ∃ x u, ((got (relation 1) [syncFlit op body]).pop fun x => x.kind == 6 && x.f 68 2 == op) = some (x, u) ∧
    (let v := (u.reach 9).resolve x.flow 9 (x.f 11 1 == 1)
     decide (x.flow = 3) && decide (x.epoch = 6) && decide (x.f 70 8 = 3) && decide (v.translate 2 5 = some (1, 7, 3)) &&
       decide (v.get (F.SYN_PCNT_W0.poison 1 7) = 0) && decide (v.cval 1 7 + 4 < 2 ^ 48) &&
       decide (op = 0 ∨ ((v.absOf 1 7).toNat = x.bytes 8 8 ↔ body ≠ 0))) = true := by
  rcases h with ⟨rfl, rfl⟩ | ⟨rfl, rfl⟩ | ⟨rfl, rfl⟩ <;> exact popped (by decide +kernel)
theorem witness_relation : (relation 1).get (F.FAB_FLOW_W0.state 0 3) = 1 ∧ (relation 1).get (F.FAB_FLOW_W0.kind 0 3) = 2 ∧ (relation 1).get (F.FAB_FLOW_W0.recv 0 3) = 1 ∧
    (relation 1).get (F.FAB_FLOW_W3.mirror_v 0 3) = 1 ∧ (relation 1).get (F.FAB_FLOW_W0.epoch 0 3) = 6 ∧ (relation 1).get (F.FAB_FLOW_W3.chk 0 3) = 1 := by decide +kernel

/-- HostWaitsAndDoorbells: slot 63 of context 2, by its VF with its last vector, below its target by 1. -/
def hostState : State := bound_ [(F.HCTX_STATUS.state 2, 1), (F.SYNW_HWAIT_W0.target 2 63, 2 ^ 48 - 4), (F.SYN_CTX_W1.max_add 1 2, 4)]
def vArm : Word := BitVec.ofNat 64 (5 + 63 * 2 ^ 16 + 2 ^ 27)
theorem witness_arm : hostState.regsWf = true ∧ hostState.get (F.HCTX_STATUS.state 2) = 1 ∧ hostState.reached (F.SYNW_HWAIT_W1.arm 2 63).addr = true ∧
    ((hostState.put (F.SYNW_HWAIT_W1.vcid 2 63) (vArm.field 0 16)).put (F.SYNW_HWAIT_W1.vector 2 63) 63).translate 2 (vArm.field 0 16) = some (1, 7, 3) ∧
    vArm.field 16 11 < (if (3 : Nat) = 0 then 2048 else 64) ∧ hostState.get (F.SYN_PCNT_W0.poison 1 7) = 0 ∧
    hostState.cval 1 7 < hostState.get (F.SYNW_HWAIT_W0.target 2 63) ∧ hostState.get (F.SYNW_HWAIT_W2.state 2 63) ≠ 1 := by decide +kernel
def vBell (k : Nat) : Word := BitVec.ofNat 64 (4 + k * 2 ^ 48)
theorem witness_bell : hostState.reached (F.DB_SIG.n 2).addr = true ∧ hostState.translate 2 ((vBell 5).field 48 16) = some (1, 7, 3) ∧
    1 ≤ (vBell 5).field 0 48 ∧ (vBell 5).field 0 48 ≤ hostState.get (F.SYN_CTX_W1.max_add 1 2) ∧
    hostState.translate 2 ((vBell 6).field 48 16) = none := by decide +kernel
theorem witness_bell_arrives : takeBell 2 [⟨1, 0, 0, 0, 1⟩, ⟨2, 1, 7, 3, 4⟩] = some (⟨2, 1, 7, 3, 4⟩, [⟨1, 0, 0, 0, 1⟩]) := by decide

/-! Training. Context 2 names counters 5 (released), 5 (done); one microbatch, no gate. -/

def train_ (extra : List (RF × Nat)) : State := bound_ ([(F.MBS_VC.vc_rel 2, 5), (F.MBS_VC.vc_done 2, 5), (F.MBS_VC.vc_fgate 2, 5), (F.MBS_VC.vc_bgate 2, 5),
  (F.MBS_DBASE.base 2, 2 ^ 48 - 5)] ++ extra)
def stepOpen (extra : List (RF × Nat)) : State := (train_ ([(F.MBS_CFG.enable 2, 1)] ++ extra)).setMbs 2 { MbsSt.fresh with fwd := [0], isOpen := true }
theorem witness_mbs : (train_ []).regsWf = true ∧ (train_ []).reached (F.MBS_CFG.enable 2).addr = true ∧ (train_ []).get (F.MBS_CFG.enable 2) = 0 ∧
    ((train_ []).setWord (mbsBase 2) 1).mbsCounters 2 = true ∧ (upState.setWord (mbsBase 2) 1).mbsCounters 2 = false ∧
    (stepOpen []).get (F.MBS_CFG.enable 2) = 1 ∧ ((train_ [(F.MBS_CFG.enable 2, 1)]).mbs 2).isOpen = false ∧
    (train_ []).absCount 2 ((train_ []).get (F.MBS_VC.vc_done 2)) = some (2 ^ 48 - 5) := by decide +kernel
theorem witness_release :
    let s := stepOpen []
    let w := (s.reach 9).mbsUpdate 2
    s.get (F.MBS_CFG.enable 2) = 1 ∧ (s.mbs 2).isOpen = true ∧ (s.reach 9).mbsCounters 2 = true ∧ w.get (F.MBS_CFG.enable 2) = 1 ∧ (w.mbs 2).isOpen = true ∧
    w.get (F.MBS_STATUS.halted 2) = 0 ∧ w.get (F.MBS_STATUS.released 2) ≤ w.get (F.MBS_CFG.nmb_m1 2) ∧
    w.get (F.MBS_STATUS.released 2) - w.get (F.MBS_STATUS.completed 2) ≤ w.get (F.MBS_CFG.depth_m1 2) ∧ w.get (F.MBS_CFG.fgate_en 2) = 0 := by decide +kernel
def closing : State := stepOpen [(F.MBS_STATUS.released 2, 2), (F.MBS_STATUS.completed 2, 2), (F.MBS_DBASE.base 2, 2 ^ 48 - 7), (F.WCH_CTX_W0.size 2, 1)]
theorem witness_close :
    let w := (closing.reach 9).mbsUpdate 2
    closing.regsWf = true ∧ closing.get (F.MBS_STATUS.halted 2) = 0 ∧ w.regsWf = true ∧ w.get (F.MBS_STATUS.completed 2) = 2 ∧ w.get (F.MBS_STEP.step 2) < 2 ^ 36 - 1 ∧
    (∀ k < w.get (F.WCH_CTX_W0.size 2), (WatchEntry.parse (w.entry (w.get (F.WCH_CTX_W0.base 2) + k))).touched = false) ∧
    w.get (F.VRN_CTX_W0.every 2) = 0 ∧ w.get (F.MBS_CFG.auto_open 2) = 0 := by decide +kernel

/-- UpdateWatch: records for layers 0 and 1 of a window of one entry; an infinite and a finite value. -/
def watch_ (extra : List (RF × Nat)) (r : WatchRec) : State :=
  let s := up ([(F.WCH_CTX_W0.en 2, 1), (F.WCH_CTX_W0.size 2, 1), (F.WCH_CTX_W0.base 2, 32767)] ++ extra)
  { s with train := { s.train with records := [r] } }
theorem witness_record (k : Nat) : (watch_ [] ⟨2, k, 0, 0, false, 0⟩).train.records = [⟨2, k, 0, 0, false, 0⟩] := rfl
theorem witness_window : (watch_ [] ⟨2, 1, 0, 0, false, 0⟩).get (F.WCH_CTX_W0.size 2) ≤ 1 ∧ (watch_ [] ⟨2, 0, 0, 0, false, 0⟩).get (F.WCH_CTX_W0.en 2) = 1 ∧
    0 < (watch_ [] ⟨2, 0, 0, 0, false, 0⟩).get (F.WCH_CTX_W0.size 2) ∧ fin64 0x7FF0000000000000 = false ∧ fin64 0x7FEFFFFFFFFFFFFF = true ∧
    (watch_ [] ⟨2, 0, 0, 0, false, 0⟩).regsWf = true := by decide +kernel
def touched_ : State := (watch_ [] ⟨2, 0, 0, 0, false, 0⟩).setEntry 32767 (List.replicate 14 0 ++ [1])
theorem witness_watch_close : touched_.reached (F.WCH_CTX_W0.close 2).addr = true ∧ touched_.get (F.WCH_CTX_W0.size 2) = 1 ∧
    (WatchEntry.parse (touched_.entry (touched_.get (F.WCH_CTX_W0.base 2)))).touched = true ∧
    (∀ k < upState.get (F.WCH_CTX_W0.size 2), (WatchEntry.parse (upState.entry (upState.get (F.WCH_CTX_W0.base 2) + k))).touched = false) := by decide +kernel
def vWin (base size : Nat) : Word := BitVec.ofNat 64 (base + size * 2 ^ 16)
theorem witness_wch_write : (vWin 28672 4096).field 0 15 + (vWin 28672 4096).field 16 13 ≤ 32768 ∧ (vWin 28672 4096).field 16 13 ≤ 4096 ∧ (vWin 28672 4096).field 33 1 = 0 ∧
    (∀ k < 64, k ≠ 5 → upState.get (F.WCH_CTX_W0.en k) = 1 → 32768 ≤ upState.get (F.WCH_CTX_W0.base k) ∨
      upState.get (F.WCH_CTX_W0.base k) + upState.get (F.WCH_CTX_W0.size k) ≤ 28672) ∧ upState.get (F.WCH_CTX_W0.en 5) = 0 ∧
    32768 < (vWin 28673 4096).field 0 15 + (vWin 28673 4096).field 16 13 := by decide +kernel
theorem witness_wch_acc : upState.reached F.WCH_ACC_CMD.read.addr = true ∧
    ∀ k ∈ upState.wchOwners (upState.get F.WCH_ACC_ADDR.entry), upState.get (F.WCH_CTX_W0.en k) = 0 := by decide +kernel

/-- ExportChannels: the snapshot 0 of context 2 held in slot 0, and not held. -/
def held_ (extra : List (RF × Nat)) : State := up ([(F.VRN_CTX_W6.slots 2, 2)] ++ extra)
def vExp : Word := BitVec.ofNat 64 (2 * 8)
theorem witness_export : upState.regsWf = true ∧ upState.reached (F.EXP_CTL.start 3).addr = true ∧ upState.get (F.EXP_STATUS.state 3) ≠ 1 ∧
    (((upState.reach 9).put (F.EXP_CTL.dest 3) (vExp.field 2 1)).put (F.EXP_CTL.ctx 3) (vExp.field 3 6)).heldSlot (vExp.field 3 6) 0 = none := by decide +kernel
theorem witness_export_held :
    let u := (((held_ []).reach 9).put (F.EXP_CTL.dest 3) (vExp.field 2 1)).put (F.EXP_CTL.ctx 3) (vExp.field 3 6)
    u.heldSlot (vExp.field 3 6) ((held_ []).get (F.EXP_SRC.snap 3)) = some 0 ∧ vExp.field 2 1 = 0 ∧ (∀ j < 5, j ≠ 0 → u.pinned (vExp.field 3 6) j = false) := by
  decide +kernel
def exporting : State := let s := held_ [(F.EXP_STATUS.state 3, 1), (F.EXP_CTL.ctx 3, 2), (F.HOST_STATUS.speed, 6)]; { s with host := { s.host with bme := true } }
theorem witness_export_done : exporting.get (F.EXP_STATUS.state 3) = 1 ∧ exporting.get (F.EXP_CTL.dest 3) = 0 ∧ exporting.host.bme = true ∧
    exporting.get F.HOST_STATUS.speed ≠ 0 ∧ upState.heldSlot (upState.get (F.EXP_CTL.ctx 3)) (upState.get (F.EXP_SRC.snap 3)) = none := by decide +kernel

/-! The engines. -/

/-- A queue entry issued in cycle 5. -/
def qop (k : QKind) (d : Nat) (parm : Nat := 0) : QOp := ⟨k, BitVec.ofNat 512 d, parm, 0x8000, 1, 0, 0, ⟨0, 5, false, 0, 0⟩, 0, false⟩

/-- One step of two blocks of BF16 panels at rows 512 and 1,000, into blocks 6 and 7. -/
def dMmac : Nat := 0x8000 + 1 * 2 ^ 24 + 0xFA00 * 2 ^ 32 + 1 * 2 ^ 28 + 6 * 2 ^ 144 + 1 * 2 ^ 147
def mulTile (o : QOp) : Tile := { goTile with muller := [o] }
theorem witness_muller (k : QKind) (h : k = .mclr ∨ k = .mmac ∨ k = .mstore) :
    let s := goState (mulTile (qop k dMmac))
    let z := (s.view 0).ports (max 10 (s.tile 0).cyc)
    let x := z.forToken ((z.t.muller.head?.map (·.tw)).getD 0)
    let y := x.commitStores (max (max 10 10) x.t.cyc)
    s.phys t0.gid = some 0 ∧ x.t.muller = [qop k dMmac] ∧ x.t.mulStartFrom (qop k dMmac) = some 6 ∧ y.t.pen = false ∧ y.t.mul = [] := by
  rcases h with rfl | rfl | rfl <;> decide +kernel
theorem witness_descriptors : mmacOk (qop .mmac dMmac).desc = true ∧ mmacOk (qop .mmac (dMmac + 2 ^ 144 * 1)).desc = false ∧
    mstoreOk (qop .mstore 0x8000).desc = true ∧ mstoreOk (qop .mstore 0x1FFFC0).desc = false := by decide +kernel

/-- MullerElements: MCLR of blocks 0 and 7; a step of block 7 with 32 groups of one value. -/
theorem witness_elements : SMap.sorted (goState goTile |>.tile 0).acc = true ∧ (qop .mclr 0 129).parm.testBit (8191 / 1024) = true ∧
    (qop .mclr 0 129).parm.testBit (1024 / 1024) = false ∧ (List.replicate 32 [(Fmt.fp32.decode 0)]).length = 32 ∧
    1024 * 7 ≤ 1024 * 7 + 32 * 31 + 31 ∧ 1024 * 7 + 32 * 31 + 31 < 1024 * 7 + 1024 := by decide +kernel

/-- MullerAdvances: a chunk fetched in cycle 20 whose step is to commit; a block whose steps have; the last piece. -/
def mulRun (o : QOp) : MulRun := { MulRun.start_ o 6 6 0 0 0 with fOn := false, ready := [⟨20, [], []⟩] }
def stepTile : Tile := { goTile with mul := [mulRun (qop .mmac dMmac)], mulC := 20 }
theorem witness_step : let x := ((goState stepTile).view 0).mulAhead 4096
    x.t.mul = [mulRun (qop .mmac dMmac)] ∧ (mulRun (qop .mmac dMmac)).waitDone = false ∧ (mulRun (qop .mmac dMmac)).ready = [⟨20, [], []⟩] ∧
    (qop .mmac dMmac).kind = .mmac ∧ (mulRun (qop .mmac dMmac)).chunk + 1 = mmacK (qop .mmac dMmac).desc := by decide +kernel
def blockRun (b : Nat) : MulRun := { mulRun (qop .mmac dMmac) with ready := [], waitDone := true, commitC := 60, blk := b }
theorem witness_block : ((goState { goTile with mul := [blockRun 1] }).tile 0).mul = [blockRun 1] ∧ (blockRun 1).waitDone = true ∧
    (blockRun 1).blk + 1 = mmacM (blockRun 1).op.desc * mmacN (blockRun 1).op.desc ∧
    (blockRun 0).blk + 1 ≠ mmacM (blockRun 0).op.desc * mmacN (blockRun 0).op.desc := by decide +kernel
def pieceRun : MulRun := { MulRun.start_ (qop .mstore 0x8000) 6 0 0 0 64 with nextP := 63, nextQ := 64, commitC := 60 }
def pieceTile : Tile := { goTile with mul := [pieceRun], mulC := 100 }
theorem witness_piece :
    let t := (goState pieceTile).tile 0
    let y := (((goState pieceTile).view 0).commitStores 61).map fun t => { t with cyc := max t.cyc 61 }
    t.mul = [pieceRun] ∧ (pieceRun.op.desc.rword 384).isSome = true ∧ ((mstorePieces pieceRun.op.desc)[pieceRun.nextP]?).isSome = true ∧
    (mstorePieces pieceRun.op.desc)[pieceRun.nextQ]? = none ∧ (mstorePieces pieceRun.op.desc).length ≤ pieceRun.nextP + 2 ∧
    (match (mstorePieces pieceRun.op.desc)[pieceRun.nextP]?, pieceRun.op.desc.rword 384 with
     | some q, some rw => !y.t.claimed 61 (bankOf q.addr) 3 && decide (61 < ((y.map fun t => (t.grant 61 (bankOf q.addr) 3).grant 61
         (1000 + (pieceRun.op.desc.field 32 3 + q.blk)) 2).writePiece pieceRun rw q 61).2.t.mulC)
     | _, _ => false) = true := by decide +kernel

/-- GlazeAdvances: a GRUN of no stage over an empty chain row, one whose X format is reserved, one whose chain row names a
reserved stage, and one whose chain row R116 refuses. -/
def glzTile (o : QOp) : Tile := { goTile with glaze := [o] }
/-- The Glaze engine once GRUN_START has had the chain row read, as GlazeAdvances says it. -/
def grunGo (o : QOp) (t : Tile) : TW :=
  let x := (((goState { t with glaze := [o] }).view 0).forToken o.tw).settled
  let k := max 10 x.t.cyc
  ((((x.commitStores k).map fun t => { t with glaze := t.glaze.tail }).map fun t => { t with
    cyc := max t.cyc k, glzC := min t.glzC k, glz := t.glz ++ [GlzRun.start_ o k (k + t.markDelay (grunMarks o.desc))] })).glzChainAhead maxWait
theorem witness_grun : (goState (glzTile (qop .grun 0))).phys t0.gid = some 0 ∧ ((goState (glzTile (qop .grun 0))).tile 0).glaze = [qop .grun 0] ∧
    ((((goState (glzTile (qop .grun 0))).view 0).forToken 0).settled).t.glzStartFrom (qop .grun 0) = some 6 ∧ gDescCase (qop .grun 0).desc = 0 ∧
    gDescCase (qop .grun (2 ^ 26 + 15 * 2 ^ 21)).desc ≠ 0 ∧
    (match (grunGo (qop .grun 0) goTile).t.glz.find? (fun q => q.op.id == 0) with
     | some r => !r.chainViol && (chainBad r.op.desc r.chain).isNone && !(grunGo (qop .grun 0) goTile).t.pen
     | none => false) = true := by decide +kernel
/-- A descriptor of one stage, whose chain row holds all ones. -/
def dOne : Nat := 2 ^ 288
def onesTile : Tile := { goTile with pal := memWrite [] (0x8000 + 64) 64 (2 ^ 512 - 1) }
theorem witness_grun_bad : gDescCase (qop .grun dOne).desc = 0 ∧ (match (grunGo (qop .grun dOne) onesTile).t.glz.find? (fun q => q.op.id == 0) with
     | some r => !r.chainViol && (chainBad r.op.desc r.chain).isSome
     | none => false) = true ∧
    (match (grunGo { qop .grun 0 with addr := 0x1FFF00 } goTile).t.glz.find? (fun q => q.op.id == 0) with
     | some r => r.chainViol
     | none => false) = true := by decide +kernel
/-- Beats of 1 segment of 1 element, of 65 elements, and of 2 segments, begun by GRUN_START. -/
def beatGo (d : Nat) : TW := ((goState (((goState (glzTile (qop .grun d))).view 0).grunStart 10).t).view 0).glzAhead maxWait
theorem witness_beat (d n m : Nat) (h : d = 0 ∧ n = 1 ∧ m = 1 ∨ d = 64 * 2 ^ 256 ∧ n = 65 ∧ m = 1 ∨ d = 2 ^ 272 ∧ n = 1 ∧ m = 2) :
    (match (beatGo d).t.glz.find? (fun q => !q.ended) with
     | some r => !r.ready.isEmpty && (r.op.desc.rword 384).isSome && gN r.op.desc == n && gM r.op.desc == m
     | none => false) = true := by
  rcases h with ⟨rfl, rfl, rfl⟩ | ⟨rfl, rfl, rfl⟩ | ⟨rfl, rfl, rfl⟩ <;> decide +kernel

/-- Deliveries: a send that was discarded, one whose context has been reset, and one to tile P1 of the row that arrives
alone. -/
def send1 (dest : Option Nat) : Send := ⟨dest, 0x8000, 0, 0, 34, 1, 3, ⟨0, 10, true, 0, 0⟩⟩
def sender (dest : Option Nat) : State := goState { goTile with exch := [send1 dest] }
theorem witness_discarded : ((sender none).tile 0).exch = [send1 none] ∧ (send1 none).dest = none ∧ ((sender none).tile 0).adrift = [] ∧
    ((goState { goTile with adrift := [send1 none] }).tile 0).adrift = [send1 none] := by decide +kernel
theorem witness_delivery : ((sender (some 1)).tile 0).flying = [send1 (some 1)] ∧ (sender (some 1)).arrivals (physDie 0) 1 34 =
    [((sender (some 1)).arrivals (physDie 0) 1 34).headD (0, 0, send1 none)] ∧
    (((sender (some 1)).arrivals (physDie 0) 1 34).headD (0, 5, send1 none)).2 = (0, send1 (some 1)) ∧ ((sender (some 1)).tile 1).gesso = false ∧
    (({ sender (some 1) with tiles := [(0, { goTile with exch := [send1 (some 1)] }), (1, { goTile with gesso := true })] } : State).tile 1).gesso = true := by
  decide +kernel
/-- A row read presented from cycle 9 on, in a code partition and outside every one; and one granted in cycle 12. -/
def reading (r : Nat) (k : Option Nat) : State :=
  goState { goTile with fetch := { Fetch.none with cur := some 0, entered := true, next := some (r, 9), granted := k } }
theorem witness_row (r : Nat) (h : r = 511 ∨ r = 32767) : ((reading r none).tile 0).fetch.next = some (r, 9) ∧ ((reading r none).tile 0).fetch.got = false ∧
    ((reading r none).tile 0).fetch.granted = none ∧ ((reading r (some 12)).tile 0).fetch.granted = some 12 ∧
    (let q := ((reading r none).view 0).requestGo 9 (r % 16) 7 maxWait
     q.1 = 9 ∧ (q.2.commitDue q.1).t.permits q.1 .fetch r = decide (r = 511)) := by
  rcases h with rfl | rfl <;> decide +kernel

/-! Memory. Slot 3 of context 0 on die 0 holds granules 5 and 6 of stack 2, with every permission. -/

def slot_ (t : Tile) (extra : List (RF × Nat)) : State := with_ (goState t) ([(F.HBM_RGN.base 0 0 3, 5), (F.HBM_RGN.count_m1 0 0 3, 1),
  (F.HBM_RGN.lstack 0 0 3, 2), (F.HBM_RGN.rd 0 0 3, 1), (F.HBM_RGN.wr 0 0 3, 1), (F.HBM_RGN.state 0 0 3, 1), (F.HBM_SE_STATUS.state 0 2, 1)] ++ extra)
/-- A transfer of one row, at the slot's last 64 bytes, and of two rows there. -/
def dStr (rows : Nat) : Nat := 3 * 2 ^ 24 + 0x3FFFC0 * 2 ^ 32 + (rows - 1) * 2 ^ 96
def strTile (k : QKind) (d : Nat) : Tile := { goTile with stream := [qop k d 2] }
theorem witness_transfer_start (k : QKind) (h : k = .sload ∨ k = .sstore) :
    let s := (slot_ (strTile k (dStr 1)) []).onTileLow 0 fun x => x.forToken ((x.t.streamHead.map (·.tw)).getD 0)
    let o := qop k (dStr 1) 2
    let g := s.rgn 0 ((s.tile 0).get TF.TILE_SELF.context) (strRgn o.desc)
    s.phys t0.gid = some 0 ∧ (s.tile 0).streamHead = some o ∧ (s.tile 0).gesso = false ∧ (s.tile 0).mayStart o 20 = true ∧
    s.requestsOver 0 (physDie 0) (s.stackOf (physDie 0) o.parm) 20 = true ∧ strZeros o.desc = true ∧
    g.active = true ∧ g.lstack = o.parm ∧ g.rd = true ∧ g.wr = true ∧ strInside o.desc g = true ∧ strInside (qop k (dStr 2)).desc g = false ∧
    strPalOk o.desc = true ∧ strOverlaps (o.kind == .sload) o.desc = false ∧ s.engState (physDie 0) (s.stackOf (physDie 0) o.parm) = 1 ∧
    (slot_ (strTile k (dStr 1)) [(F.HBM_SE_STATUS.state 0 2, 0)]).engState (physDie 0) 2 ≠ 1 ∧
    ((slot_ (strTile k (dStr 1)) [(F.HBM_RGN.state 0 0 3, 2)]).rgn 0 0 3).active = false := by rcases h with rfl | rfl <;> decide +kernel
/-- A transfer whose one row is still to move, and one whose row has moved in cycle 15. -/
def xferOf (k : QKind) (done : Bool) : Xfer :=
  let x := Xfer.begin 0 (qop k (dStr 1) 2) 0 2 0 3 5 2 7
  if done then { x with asked := 1, issued := 1, lastReq := 10, due := 12, moved := 1, last := 15 } else x
def moving (k : QKind) (done : Bool) : State := let s := slot_ goTile []; { s with hbm := { s.hbm with xfers := [xferOf k done] } }
theorem witness_transfer_complete (k : QKind) (h : k = .sload ∨ k = .sstore) (done : Bool) :
    let x := xferOf k done
    let v := if (moving k done).turnOf x.die x.stack 20 = some x then (moving k done).takeTurn x 20 [5] else moving k done
    let u := v.engineTo x.die x.stack 20
    ((moving k done).hbm.xfers.filter fun x => x.tile == 0)[0]? = some x ∧ x.dead = false ∧
    (match u.hbm.xfers.find? fun y => y.names x.tile x.op.id with
     | some y => y.ended 20 == done && !y.revoked && !strSig y.op.desc
     | none => false) = true := by rcases h with rfl | rfl <;> cases done <;> decide +kernel

/-- EngineStates: each state, with the last engine of the last die. -/
def engine (n : Nat) : State := up [(F.HBM_SE_STATUS.state 3 5, n)]
theorem witness_engine_engines (n : Nat) (h : n < 5) : (engine n).engState (3 : Fin 4) (5 : Fin 6) = n ∧ (engine n).xfersOn (3 : Fin 4) (5 : Fin 6) = [] ∧
    (engine n).reached (F.HBM_SE_CTL.enable (3 : Fin 4) (5 : Fin 6)).addr = true ∧ (engine n).reached (F.HBM_SEMAP.phys (3 : Fin 4)).addr = true := by
  match n, h with
  | 0, _ | 1, _ | 2, _ | 3, _ | 4, _ => decide +kernel
/-- Firmware maps logical stack 0 to stack 5 and 5 to 0 with every engine OFF or FAILED. -/
theorem witness_semap (n : Nat) (h : n = 0 ∨ n = 4) : (∀ l : Nat, l < 6 → (engine n).stackOf 3 l = (0b000_100_011_010_001_101#18).toNat / 8 ^ l % 8 ∨
    ((0b000_100_011_010_001_101#18).toNat / 8 ^ l % 8 < 6 ∧ ((engine n).engState 3 ((engine n).stackOf 3 l) = 0 ∨ (engine n).engState 3 ((engine n).stackOf 3 l) = 4) ∧
    ((engine n).engState 3 ((0b000_100_011_010_001_101#18).toNat / 8 ^ l % 8) = 0 ∨ (engine n).engState 3 ((0b000_100_011_010_001_101#18).toNat / 8 ^ l % 8) = 4))) ∧
    (engine n).stackOf 3 0 ≠ 5 := by rcases h with rfl | rfl <;> decide +kernel
theorem witness_stack_loss : let s := up [(F.HBM_SEMAP.phys 3, 0), (F.HBM_SE_STATUS.state 3 5, 1)]
    s.engState 3 5 ≠ 4 ∧ s.xfersOn 3 5 = [] ∧ s.hbm.xfers = [] ∧ s.hbm.accepts = [] ∧
    ∀ l < 6, (((State.showTiles (s.put (F.HBM_SE_STATUS.state 3 5) 4) 3 5).loseSlots 3).stackOf 3 l) ≠ 5 := by decide +kernel

/-- RegionSlots: the last granules of stack 5, free and with neighbours, clean and dirty. -/
def vRgn (base count stack : Nat) : Word := BitVec.ofNat 64 (base + (count - 1) * 2 ^ 16 + stack * 2 ^ 32)
def slots_ (extra : List (RF × Nat)) : State := up ([(F.HCTX_STATUS.state 63, 1), (F.HBM_RGN.state 3 1 0, 1), (F.HBM_RGN.lstack 3 1 0, 5), (F.HBM_RGN.base 3 1 0, 30717),
  (F.HBM_RGN.count_m1 3 1 0, 1)] ++ extra)
theorem witness_allocate : (slots_ []).regsWf = true ∧ (slots_ []).reached (F.HBM_RGN.valid 3 63 63).addr = true ∧ (slots_ []).get (F.HBM_RGN.state 3 63 63) = 0 ∧
    (vRgn 30719 1 5).field 0 15 + ((vRgn 30719 1 5).field 16 16 + 1) ≤ 30720 ∧ (vRgn 30719 1 5).field 32 3 ≤ 5 ∧
    (slots_ []).engState 3 ((slots_ []).stackOf 3 5) ≠ 4 ∧ (slots_ [(F.HBM_SE_STATUS.state 3 5, 4)]).engState 3 ((slots_ []).stackOf 3 5) = 4 ∧
    (∀ q ∈ (slots_ []).slotsOf 3, ((slots_ []).rgn 3 q.1 q.2).state ≠ 0 → ((slots_ []).rgn 3 q.1 q.2).stack = (slots_ []).stackOf 3 5 →
      30719 + (0 + 1) ≤ ((slots_ []).rgn 3 q.1 q.2).base ∨ ((slots_ []).rgn 3 q.1 q.2).base + ((slots_ []).rgn 3 q.1 q.2).count ≤ 30719) ∧
    ivMeets [(30719, 30720)] 30719 30720 = true ∧ ivMeets [(30718, 30719)] 30719 30720 = false := by decide +kernel
theorem witness_release_region (n : Nat) (h : n = 1 ∨ n = 2) : (slots_ [(F.HBM_RGN.state 3 63 63, n)]).get (F.HBM_RGN.state 3 63 63) = n ∧
    (slots_ [(F.HBM_RGN.state 3 63 63, n)]).reached (F.HBM_RGN.valid 3 63 63).addr = true := by rcases h with rfl | rfl <;> decide +kernel
def scrubbing : State := { slots_ [(F.HBM_SCRUB.next 3 5, 30719)] with hbm := { upState.hbm with dirty := [(23, [(30719, 30720)])] } }
theorem witness_clean : scrubbing.engState 3 5 ≠ 4 ∧ ivMeets (scrubbing.dirty 3 5) (scrubbing.get (F.HBM_SCRUB.next 3 5)) (scrubbing.get (F.HBM_SCRUB.next 3 5) + 1) = true ∧
    scrubbing.granuleBusy 3 5 (scrubbing.get (F.HBM_SCRUB.next 3 5)) = false := by decide +kernel

/-- ApertureAccess: the last 16 bytes of a window of the PF (1 GiB of 16) and of a VF. -/
def apState : State :=
  let s := with_ (slot_ goTile []) [(F.HCTX_STATUS.state 0, 1), (F.HOST_APW.valid 15, 1), (F.HOST_APW.rgn 15, 3)]
  { s with vf := [((VF.VFC_APW.valid 0 3).addr, BitVec.ofNat 64 (2 ^ (VF.VFC_APW.valid 0 3).lo + 3 * 2 ^ (VF.VFC_APW.rgn 0 3).lo))] }
theorem witness_aperture (w : Bool) :
    apState.apWindow none (2 ^ 34) (15 * 2 ^ 30 + 0x3FFFF0) 16 w = .reach 0 2 (5 * 2 ^ 21 + 0x3FFFF0) ∧
    apState.apWindow none (2 ^ 34) (15 * 2 ^ 30 + 0x3FFFF1) 16 w = .reject 0 ∧ apState.apWindow none (2 ^ 34) (14 * 2 ^ 30) 16 w = .reject 0 ∧
    (0x3FFFF0 + 16) ≤ 2 ^ 30 ∧ apState.get (F.HCTX_STATUS.state (0 : Fin 64).val) = 1 ∧
    apState.apWindow (some (0 : Fin 64).val) (2 ^ 34) (3 * 2 ^ 30 + 0x3FFFF0) 16 w = .reach 0 2 (5 * 2 ^ 21 + 0x3FFFF0) := by cases w <;> decide +kernel
theorem witness_access : (HostAccess.read 16).ok = true ∧ (HostAccess.write (List.replicate 16 0)).ok = true ∧ (HostAccess.read 16).data = none ∧
    (HostAccess.write (List.replicate 16 0)).data.isSome = true := by decide

/-- PalettePatrols. -/
def ready_ (t : Tile) : State := with_ (goState t) [(F.MOD_STATE.stage, 6), (F.BLD_CTL.patrol 1, 1)]
theorem witness_write_back : let s := ready_ { goTile with writeBack := [4] }
    let x := s.view 0
    s.erasing = false ∧
    x.t.writeBack.find? (fun s => bankOf (16 * s) == 1) = some 4 ∧ (x.ports 21).t.claimed 20 1 9 = false := by decide +kernel
theorem witness_patrol : let s := ready_ ({ goTile with writeBack := [4] }.put TF.PAL_CTRL.patrol 1)
    let x := s.view 0
    s.erasing = false ∧ s.get (F.BLD_CTL.patrol 1) ≠ 0 ∧ SMap.getD s.bld.patrolAt 1 0 ≤ 0 ∧
    x.get TF.PAL_CTRL.patrol ≠ 0 ∧ x.t.gesso = false ∧ (x.ports 21).t.claimed 20 15 9 = false ∧ (∀ s ∈ x.t.writeBack, bankOf (16 * s) ≠ 15) ∧
    SMap.getD x.t.patrolAt 15 0 ≤ 20 := by decide +kernel

/-- PalettePartitions: descriptor 5 becomes the receive window of slot 3; a locked descriptor. -/
def vPart (base size kind : Nat) : Word := BitVec.ofNat 64 (base + size * 2 ^ 16 + kind * 2 ^ 32 + 1 * 2 ^ 41 + 3 * 2 ^ 44)
theorem witness_part : (goState goTile).phys t0.gid = some 0 ∧ ((goState goTile).tile 0).gesso = false ∧ SMap.wf ((goState goTile).tile 0).regs tileReset = true ∧
    ((goState goTile).view 0).t.partOk 5 (vPart 32767 1 3 &&& partMask) = true ∧ ((goState goTile).view 0).t.partOk 5 (vPart 32767 2 3 &&& partMask) = false ∧
    (rreg tileReset ((goState { goTile with regs := rset tileReset parts 0x80 0x1_0000_0000_0000#64 }).view 0).t.regs 0x80).field 48 1 = 1 := by decide +kernel
def vRx (rows nbuf : Nat) : Word := BitVec.ofNat 64 (7 + 3 * 2 ^ 14 + (rows - 1) * 2 ^ 22 + (nbuf - 1) * 2 ^ 34 + 2 ^ 40)
def rxTile : Tile := { goTile with regs := rset tileReset parts (0x80 + 8 * 5) (vPart 1024 64 3) }
theorem witness_rx_open : (vRx 1 64).field 40 1 = 1 ∧ (rreg tileReset ((goState rxTile).view 0).t.regs (0x100 + 0x20 * 3)).field 40 1 = 0 ∧
    ((goState rxTile).view 0).t.rxPart 3 = some (vPart 1024 64 3) ∧ ((vRx 1 64).field 22 12 + 1) * ((vRx 1 64).field 34 6 + 1) ≤ partSize (vPart 1024 64 3) ∧
    (vPart 1024 64 3).field 41 1 = 1 ∧ (0 : Word).field 40 1 = 0 ∧ SMap.wf rxTile.regs tileReset = true := by decide +kernel
def filled : Tile := (({ rxTile with regs := rset tileReset rxTile.regs 0x160 (vRx 1 64) } : Tile).put (TF.PAL_RXCNT.filled 3) 0).put (TF.PAL_RXCNT.released 3) (2 ^ 24 - 2)
theorem witness_rx_release : let x := (goState filled).view 0
    ((goState filled).tile 0).pen = false ∧ x.get (TF.PAL_RXCFG.enable 3) = 1 ∧ x.get (TF.PAL_RXCNT.filled 3) ≠ x.get (TF.PAL_RXCNT.released 3) ∧
    x.get (TF.PAL_RXCNT.released 3) < 2 ^ 24 - 1 ∧ (65 : BitVec 7).toNat > 64 ∧ (goState { goTile with gesso := true } |>.tile 0).gesso = true := by decide +kernel

/-! The fabric. Flow 16,383, the last of fabric die E, of context 2. -/

/-- FlowStates: a stream flow with both ends; one whose kind is reserved. -/
def vFlow (kind : Nat) : Word := BitVec.ofNat 64 (8 + kind * 2 ^ 4 + 2 ^ 7 + 2 ^ 8 + 2 * 2 ^ 9 + 6 * 2 ^ 16)
def flow_ (i state kind : Nat) (extra : List (RF × Nat)) : State := up ([(F.HCTX_STATUS.state 2, 1), (F.FAB_FLOW_W0.state (flowDie i) (flowIdx i), state),
  (F.FAB_FLOW_W0.kind (flowDie i) (flowIdx i), kind), (F.FAB_FLOW_W0.send (flowDie i) (flowIdx i), 1), (F.FAB_FLOW_W0.recv (flowDie i) (flowIdx i), 1),
  (F.FAB_FLOW_W0.ctx (flowDie i) (flowIdx i), 2), (F.FAB_FLOW_W0.epoch (flowDie i) (flowIdx i), 6)] ++ extra)
theorem witness_flow_enable : (flow_ 16383 0 0 []).regsWf = true ∧ (flow_ 16383 0 0 []).reached (w0Addr 16383) = true ∧ (flow_ 16383 0 0 []).flowBad 16383 (setBit (vFlow 0) 3) = false ∧
    (flow_ 16383 0 0 []).flowState 16383 = 0 ∧ (setBit (vFlow 0) 3).field 4 2 = 0 ∧
    (let u := ((((flow_ 16383 0 0 []).setWord (w0Addr 16383) ((setBit (vFlow 0) 3 &&& w0Mask) ||| 0x9#64)).setWord (w0Addr 16383 + 8) 0).setWord (w0Addr 16383 + 16) 0).setWord
        (w0Addr 16383 + 24) 0
     ((u.setFlow 16383 { FlowSt.fresh with latch := u.roleEpoch ((setBit (vFlow 0) 3).field 40 13) }).setRound 16383 BldRound.fresh).vrnFlow 16383 = none) ∧
    (flow_ 16383 2 0 []).flowBad 16383 (setBit (vFlow 0) 3) = false ∧ (flow_ 16383 2 0 []).flowState 16383 = 2 ∧
    (flow_ 16383 0 0 []).flowBad 16383 (setBit (vFlow 3) 3) = true := by decide +kernel
theorem witness_flow_drain (n : Nat) (h : n = 0 ∨ n = 1 ∨ n = 3) : (flow_ 16383 n 0 []).flowState 16383 = n ∧ ((flow_ 16383 n 0 []).flow 16383).waiting = [] ∧
    (flow_ 16383 n 0 []).flowKind 16383 = 0 ∧ (flow_ 16383 n 0 []).reached (w0Addr 16383) = true := by rcases h with rfl | rfl | rfl <;> decide +kernel
theorem witness_flow_drained : (flow_ 16383 2 0 []).flowQueued 16383 = false ∧ (flow_ 16383 2 0 []).flowSent 16383 = (flow_ 16383 2 0 []).flowResolved 16383 ∧
    (((flow_ 16383 2 0 []).reach 9).settleFlow 16383 9 30).flowKind 16383 = 0 ∧
    (flow_ 16383 2 0 [(F.FAB_FLOW_W2.resolved 1 8191, 5), (F.FAB_FLOW_W0.send 1 8191, 0)]).flowSends 16383 = false := by decide +kernel

/-- FlowOperations: an FPUT and an FSEND of tile (0, 0, P0) on flow 3, of one segment. -/
def dFop (cont : Nat) : Nat := 3 * 2 ^ 21 + 6 * 2 ^ 35 + cont * 2 ^ 43
def fopState (kind : Nat) (o : QOp) (extra : List (RF × Nat)) : State :=
  { flow_ 3 1 kind extra with tiles := [(0, { goTile with fabric := [o] }.put TF.TILE_SELF.context 2)] }
/-- The state that R280 checks: the tile's wait token is past. -/
def fopSeen (s : State) : State := (s.reach 9).onTileLow 0 fun x => x.forToken (((x.t.fabric.find? fun o => !o.started).map (·.tw)).getD 0)
theorem witness_reaches (k : QKind) (h : k = .fput ∨ k = .fsend) (cont : Nat) (hc : cont = 0 ∨ cont = 1) :
    let o := qop k (dFop cont)
    let s := fopState 0 o [(F.FAB_FLOW_W1.credits 0 3, 1)]
    let u := fopSeen s
    s.phys t0.gid = some 0 ∧ (u.tile 0).fabric.find? (fun o => !o.started) = some o ∧ (u.tile 0).gesso = false ∧ (u.tile 0).mayStart o 20 = true ∧
    u.fopRefused 0 o = false ∧ u.flowKind (fopFlow o.desc) = 0 ∧ fopZeros (o.kind == .fput) o.desc = true ∧ (u.flow (fopFlow o.desc)).waiting = [] ∧
    u.get (F.FAB_FLOW_W1.credits (flowDie (fopFlow o.desc)) (flowIdx (fopFlow o.desc))) ≠ 0 ∧ fopCont o.desc = decide (cont = 1) ∧
    (fopSeen (fopState 0 o [])).get (F.FAB_FLOW_W1.credits 0 3) = 0 ∧
    (fopSeen (fopState 0 o [(F.FAB_FLOW_W0.epoch 0 3, 7)])).fopRefused 0 o = true := by
  rcases h with rfl | rfl <;> rcases hc with rfl | rfl <;> decide +kernel
/-- An FSEND of block 0 on a bucket flow of one block with no child, before it starts; and its block while it runs. -/
def dFsend : Nat := 0x8000 + 3 * 2 ^ 21 + 6 * 2 ^ 35
def bucket (r : BldRound) (extra : List (RF × Nat)) : State :=
  let s := fopState 1 (qop .fsend dFsend) extra
  { s with bld := { s.bld with rounds := [(3, r)] } }
theorem witness_fsend :
    let o := qop .fsend dFsend
    let u := fopSeen (bucket { BldRound.fresh with begun := true } [])
    let w := ((((u.fopStarted 0 o).recTouch 3).mapFlow 3 fun w => { w with waiting := [.tile 0 o] }).mapFlow 3 fun w => { w with waiting := [] })
    (u.tile 0).fabric.find? (fun o => !o.started) = some o ∧ (u.tile 0).mayStart o 20 = true ∧ u.fopRefused 0 o = false ∧ u.flowKind 3 = 1 ∧ fopFlow o.desc = 3 ∧
    fsdZeros o.desc = true ∧ (u.flow 3).waiting = [] ∧ (u.round 3).sends = [] ∧ (u.round 3).ended = false ∧ (u.round 3).begun = true ∧ w.fsendBad o 3 = false ∧
    fsdEmpty o.desc = false ∧ ((fopSeen (bucket { BldRound.fresh with ended := true } [])).round 3).ended = true ∧
    ((fopSeen (bucket { BldRound.fresh with sends := [⟨0, o, 9, 0, false⟩] } [])).round 3).sends ≠ [] := by decide +kernel
theorem witness_block_pass :
    let g : BldSend := ⟨0, qop .fsend (dFsend + 1 * 2 ^ 276), 9, 0, false⟩
    let r := (bucket { BldRound.fresh with sends := [g] } []).reach 9
    (r.round 3).sends = [g] ∧ fsdFirst g.op.desc + g.passed < r.frontier 3 + r.window 3 ∧ r.slotBusy 3 (fsdFirst g.op.desc + g.passed) = false ∧
    (r.tile g.tile).phase 20 = false ∧ g.passed + 1 ≠ fsdCount g.op.desc := by decide +kernel

/-- FlowFlits: a CREDIT of 64 buffers to a flow that holds none, and of 1 more; a WRITE of the last row of the tile; an ACK
and a NACK. -/
def flit_ (kind vc flow more : Nat) (body : Nat := 0) : Flit := msg (kind + vc * 2 ^ 4 + flow * 2 ^ 40 + 6 * 2 ^ 54 + more) body
theorem witness_credit : ∃ x w, (got (flow_ 3 1 0 []) [flit_ 3 2 3 (2 ^ 101 * 63) (64 * 2 ^ 16)]).pop (fun x => x.kind == 3) = some (x, w) ∧
    (let u := w.reach 9
     u.flowState x.flow == 1 && u.flowSends x.flow && x.epoch == u.flowEpoch x.flow && decide (u.get (F.FAB_FLOW_W1.credits 0 3) + x.bytes 2 1 ≤ 64) &&
      u.get (F.FAB_FLOW_W1.credits 0 3) == 0 && u.get (F.FAB_FLOW_W1.cur_v 0 3) == 0 && (u.flow x.flow).waiting == []) = true := popped (by decide +kernel)
theorem witness_credit_more : ∃ x w, (got (flow_ 3 1 0 [(F.FAB_FLOW_W1.credits 0 3, 63), (F.FAB_FLOW_W1.nbuf_m1 0 3, 63)]) [flit_ 3 2 3 (2 ^ 101 * 63 + 2 ^ 83 * 63) (2 ^ 16)]).pop
      (fun x => x.kind == 3) = some (x, w) ∧
    (let u := w.reach 9
     u.flowState x.flow == 1 && decide (u.get (F.FAB_FLOW_W1.credits 0 3) + x.bytes 2 1 ≤ 64) && u.get (F.FAB_FLOW_W1.credits 0 3) != 0 && (u.flow x.flow).waiting == [] &&
      u.get (F.FAB_FLOW_W1.nbuf_m1 0 3) == x.f 101 6 && u.get (F.FAB_FLOW_W1.buf_rows_m1 0 3) == x.f 89 12 && u.get (F.FAB_FLOW_W1.win_base 0 3) == x.bytes 0 2 &&
      (u.get (F.FAB_FLOW_W1.next_buf 0 3) + u.get (F.FAB_FLOW_W1.credits 0 3)) % (x.f 101 6 + 1) == x.f 83 6) = true := popped (by decide +kernel)
/-- Tile (0, 0, P0) with a window of flow 3, of an epoch, with open buffers, at row 1,024; and a WRITE there, or at a row of no
partition. -/
def winTile (epoch open_ : Nat) : Tile :=
  (({ rxTile with regs := rset tileReset rxTile.regs 0x160 (BitVec.ofNat 64 (3 + epoch * 2 ^ 14 + 2 ^ 40)) } : Tile).put (TF.PAL_RXOPEN.open 3) open_)
def writing_ (t : Tile) (seg : Nat) : State := got { flow_ 3 1 0 [] with tiles := [(0, t)] } [flit_ 1 0 3 (2 ^ 81 * seg + 2 ^ 98 * 3) (2 ^ 512 - 1)]
/-- The premises of WRITE, where the flit waits at the edge (`edge`) or the receiver's checks answer `k`. -/
def writes (edge : Bool) (k : RxOutcome) (x : Flit) (w : State) : Bool :=
  let u := w.reach 9
  let n := 16 * (x.f 98 3 + 1)
  u.flowState x.flow == 1 && u.flowRecvs x.flow && x.epoch == u.flowEpoch x.flow && u.vrnFlow x.flow == none && (x.f 68 13 != u.flowTile x.flow ||
    (u.flow x.flow).latch == u.roleEpoch (x.f 68 13)) && u.phys (x.f 68 13) == some 0 && u.atEdge 0 20 == edge &&
    (edge || (((u.toDie 0 x.flow x.vc).view 0).rxWrite 20 x.flow x.epoch (16 * x.f 81 17) n (x.bytes 0 n) ((List.range (x.f 98 3 + 1)).map fun k => (x.f 101 8).testBit k)).1 == k)
theorem witness_write (t : Tile) (seg : Nat) (edge : Bool) (k : RxOutcome) (h : (t, seg, edge, k) ∈ [({ goTile with inPhase := true, phaseLen := 100, xlen := 100 }, 0, true, .gesso),
    (winTile 6 1, 4096, false, .accepted), (winTile 6 0, 4096, false, .noCredit), (winTile 7 1, 4096, false, .epoch), (winTile 6 1, 0x1FFFF, false, .violation),
    ({ goTile with gesso := true }, 0, false, .gesso)]) : ∃ x w, (writing_ t seg).pop (fun x => x.kind == 1 && !(writing_ t seg).edgeFull x 20) = some (x, w) ∧
    writes edge k x w = true := by
  simp only [List.mem_cons, Prod.mk.injEq, List.not_mem_nil, or_false] at h
  rcases h with ⟨rfl, rfl, rfl, rfl⟩ | ⟨rfl, rfl, rfl, rfl⟩ | ⟨rfl, rfl, rfl, rfl⟩ | ⟨rfl, rfl, rfl, rfl⟩ | ⟨rfl, rfl, rfl, rfl⟩ | ⟨rfl, rfl, rfl, rfl⟩ <;>
    exact popped (by decide +kernel)
theorem witness_ack : ∃ x w, (got (flow_ 3 1 0 [(F.FAB_FLOW_W2.resolved 0 3, 2 ^ 24 - 1)]) [flit_ 4 2 3 0]).pop (fun x => x.kind == 4) = some (x, w) ∧
    (let u := w.reach 9
     x.epoch == u.flowEpoch x.flow && u.flowState x.flow != 0 && reached (x.f 68 24) (u.flowResolved x.flow)) = true := popped (by decide +kernel)
theorem witness_nack (n : Nat) (h : n = 1 ∨ n = 2 ∨ n = 5) : ∃ x w, (got (flow_ 3 1 0 []) [flit_ 5 2 3 (2 ^ 98 * n)]).pop (fun x => x.kind == 5) = some (x, w) ∧
    (let u := w.reach 9
     x.epoch == u.flowEpoch x.flow && u.flowState x.flow != 0 && u.flowKind x.flow != 2 && x.f 98 4 == n) = true := by
  rcases h with rfl | rfl | rfl <;> exact popped (by decide +kernel)
/-- A flow whose oldest unreported flit is of fc 7, and whose one operation left in fc 7. -/
theorem witness_flow_timers :
    let s := (flow_ 3 1 0 [(F.FAB_CTL.flow_to 0, 2500)]).mapFlow 3 fun w => { w with oldest := some 7, ops := [⟨.tile 0 (qop .fput 0), 0, 0, 0, 0, 0, false, false, some 7⟩] }
    (s.flow 3).oldest = some 7 ∧ 7 + 2500 ≤ 2507 ∧ (s.flow 3).sigs = [] ∧ (s.flow 3).ops.map (·.leftAt) = [some 7] ∧ 7 + s.get (F.FAB_CTL.flow_to (flowDie 3)) ≤ 2507 := by
  decide +kernel

/-! Links. Port 15 of fabric die E. -/

def crc_ (x : Flit) : Flit := { x with hdr := withCrc x.hdr }
def port_ (st : Nat) (q : Port) (extra : List (RF × Nat)) : State := (up ([(F.FAB_PORT_STATUS.state 1 15, st)] ++ extra)).setPort 1 15 q

/-- RouterRules: a flit on a VC not its own; the last hop; a flit for this module at its die and at the other; the routes. -/
theorem witness_router :
    let x := msg (2 + 2 * 2 ^ 4) 0
    let y := msg (8 + 3 * 2 ^ 4 + 9 * 2 ^ 12 + 31 * 2 ^ 62) 0
    let z := msg (8 + 3 * 2 ^ 4 + 9 * 2 ^ 12 + 2 ^ 6) 0
    let w := msg (1 + 2 ^ 68 * 47 * 2 ^ 5) 0
    (x.kind, x.vc) ∉ kindVcs ∧ (y.kind, y.vc) ∈ kindVcs ∧ y.hops = 31 ∧ y.bc = false ∧ y.dst ≠ upState.node ∧ w.dst = upState.node ∧ w.bc = false ∧
    (w.kind, w.vc) ∈ kindVcs ∧ w.kind = 1 ∧ gidRow (w.f 68 13) < 48 ∧ w.home = 0 ∧ (w.home ≠ 1) ∧ w.unlisted = false ∧ y.f 6 1 = 0 ∧
    upState.get (F.FAB_ROUTE.valid 1 y.dst) = 0 ∧ z.f 6 1 = 1 ∧ z.bytes 120 8 / 2 ^ 60 ≤ z.hops := by decide +kernel
theorem witness_route :
    let s := port_ PortState.up Port.fresh [(F.FAB_ROUTE.valid 1 9, 1), (F.FAB_ROUTE.primary 1 9, 15)]
    let y := msg (8 + 3 * 2 ^ 4 + 9 * 2 ^ 12) 0
    y.bc = false ∧ y.dst ≠ s.node ∧ y.f 6 1 = 0 ∧ s.get (F.FAB_ROUTE.valid 1 y.dst) = 1 ∧ y.vc ≠ 0 ∧ s.get (F.FAB_ROUTE.primary 1 y.dst) = 15 ∧
    (s.get (F.FAB_PORTSEL.fail 1)).testBit 15 = false ∧ isOptical 15 = true ∧ s.portState 1 15 = PortState.up := by decide +kernel

/-- FLIT_RECEIVE: the expected number at its wrap, with a good header and with a bad one. -/
theorem witness_receive : let s := port_ PortState.up { Port.fresh with rxGood := 2 ^ 24 - 1 } []
    isOptical (15 : Fin 24) = true ∧ s.portState 1 15 = PortState.up ∧ (BitVec.ofNat 24 (2 ^ 24 - 1)).toNat = (s.port 1 15).rxGood ∧
    headerCrc (crc_ (msg 8 0)).hdr = (crc_ (msg 8 0)).f 112 16 ∧ headerCrc (msg 8 0).hdr ≠ (msg 8 0).f 112 16 ∧
    (0 : BitVec 24).toNat ≠ (s.port 1 15).rxGood := by decide +kernel

/-- OUTPUT_SLOT: slot by slot what waits at the port. -/
def slotted (q : Port) : State := (((port_ PortState.up q []).reach 9).schedule 1 0 9).schedule 1 1 9
theorem witness_slot (q : Port) (x : Flit) (h : (q, x) ∈ [({ Port.fresh with askReplay := true }, msg 0 0), ({ Port.fresh with slot := 256 }, msg 0 0),
    ({ Port.fresh with replay := [crc_ (msg 8 0)], resend := 1 }, crc_ (msg 8 0)), ({ Port.fresh with out := [(none, msg 1 0)] }, msg 1 0), (Port.fresh, msg 0 0)]) :
    let u := slotted q
    let m := u.portMode 1 15
    u.portState 1 15 = PortState.up ∧ (u.port 1 15) = q ∧ q.head m 3 = none ∧ q.starved 15 m = false ∧
    (q.askReplay = true ∨ (isOptical 15 && (decide (q.slot = 256) || q.moved)) = true ∨ (q.replay.drop (q.replay.length - q.resend)).head? = some x ∨
      (q.replay.drop (q.replay.length - q.resend)).head? = none ∧ q.normal 15 m = some (none, x) ∨
      (q.replay.drop (q.replay.length - q.resend)).head? = none ∧ q.normal 15 m = none) := by
  simp only [List.mem_cons, Prod.mk.injEq, List.not_mem_nil, or_false] at h
  rcases h with ⟨rfl, rfl⟩ | ⟨rfl, rfl⟩ | ⟨rfl, rfl⟩ | ⟨rfl, rfl⟩ | ⟨rfl, rfl⟩ <;> decide +kernel
theorem witness_idle_link : let s := port_ PortState.up Port.fresh []
    s.portState 1 (15 : Fin 16) = PortState.up ∧ (∀ y ∈ s.fab.sched, flowDie y.1 ≠ 1) ∧ (s.port 1 15).out = [] ∧ (s.port 1 15).resend = 0 ∧ (s.port 1 15).askReplay = false ∧
    (s.port 1 15).slot < 256 ∧ (s.port 1 15).moved = false := by decide +kernel

/-- The link control flits of each type, good; the eighth request for one number; an ident of node 9, and of this node. -/
def lcf_ (type body : Nat) : Lcf := lcfSealed (type * 2 ^ 8 + body * 2 ^ 128)
theorem witness_lcf (n : Nat) (h : n < 4) : (lcf_ n 0).good = true ∧ (lcf_ n 0).type = n := by
  match n, h with
  | 0, _ | 1, _ | 2, _ | 3, _ => decide +kernel
theorem witness_replay_request (n : Nat) (h : n = 0 ∨ n = 6 ∨ n = 7) :
    let s := port_ PortState.up { Port.fresh with reqCount := n } []
    let heard := (((s.port 1 15).acked (lcf_ 3 0).ack).credited (lcf_ 3 0).cred).watchDry 15 s.now
    (if heard.reqCount ≠ 0 ∧ heard.reqNum = (lcf_ 3 0).ack then heard.reqCount + 1 else 1) = n + 1 := by
  rcases h with rfl | rfl | rfl <;> decide +kernel
theorem witness_ident : (port_ PortState.ident Port.fresh []).portState 1 15 = PortState.ident ∧ (lcf_ 1 9).good = true ∧ (lcf_ 1 9).type = 1 ∧
    (lcf_ 1 9).byte 16 2 % 2 ^ 14 ≠ (port_ PortState.ident Port.fresh []).node ∧ (lcf_ 1 0).byte 16 2 % 2 ^ 14 = (port_ PortState.ident Port.fresh []).node ∧
    (port_ PortState.credit Port.fresh []).portState 1 15 = PortState.credit ∧ (upState.tick.trained = true ∨ (tick upState fun t => { t with trained := true }).tick.trained = true) := by
  decide +kernel

/-- PortStates: enabled from OFF, lit and dark too short; in each other state; the timers and the lasers. -/
def lit_ (l : List (RF × Nat)) : List (RF × Nat) := (laserOk 1 1, 1) :: l
theorem witness_port_enable : let s (st a : Nat) : State := port_ st { Port.fresh with darkAt := a } (lit_ [])
    let u (st a : Nat) : State := ((s st a).put (F.FAB_PORT_STATUS.attempts 1 15) 0).put (F.FAB_PORT_CTL.enable 1 15) 1
    (s 0 0).reached (F.FAB_PORT_CTL.enable 1 15).addr = true ∧ (s 0 0).get (F.FAB_PORT_CTL.enable 1 15) = 0 ∧ (u 0 0).portState 1 15 = PortState.off ∧ (u 0 0).laserLit 1 = true ∧
    ((u 0 0).port 1 15).darkAt + fcMs 10 ≤ fcMs 10 ∧ fcMs 10 < ((u 0 1).port 1 15).darkAt + fcMs 10 ∧ (u 8 0).portState 1 15 = PortState.draining ∧
    (u 6 0).portState 1 15 = PortState.up ∧ (port_ 0 Port.fresh []).laserLit 1 = false ∧ (u 9 0).portState 1 15 = PortState.pendingEnable ∧ ((u 9 0).port 1 15).drained = false := by decide +kernel
theorem witness_training (st : Nat) (h : st ∈ [1, 2, 3, 4, 7]) : (port_ st Port.fresh [(F.FAB_NODE.valid 0, 1)]).portState 1 15 = st ∧
    (port_ st Port.fresh [(F.FAB_NODE.valid 0, 1)]).get (F.FAB_NODE.valid 0) = 1 ∧ (st = 7 ∨ ([(PortState.signal, fcMs 1000), (PortState.equalize, fcMs 2000), (PortState.lock, fcMs 100),
      (PortState.ident, fcMs 100)].lookup st).isSome = true) ∧ ((port_ st Port.fresh []).port 1 15).since + fcMs 2000 ≤ fcMs 2000 ∧
    ((port_ st Port.fresh []).port 1 15).tries < 2 ∧ 2 ≤ ((port_ st { Port.fresh with tries := 2 } []).port 1 15).tries := by
  simp only [List.mem_cons, List.not_mem_nil, or_false] at h
  rcases h with rfl | rfl | rfl | rfl | rfl <;> decide +kernel
theorem witness_port_drain : let s := port_ PortState.draining { Port.fresh with replay := [msg 8 0] } []
    let w := port_ PortState.pendingEnable { Port.fresh with drained := true } (lit_ [])
    (s.port 1 15).since + fcMs 1 ≤ fcMs 1 ∧ s.portState 1 15 = PortState.draining ∧ ((port_ PortState.draining Port.fresh []).port 1 15).out = [] ∧
    w.portState 1 15 = PortState.pendingEnable ∧ (w.port 1 15).drained = true ∧ w.laserLit 1 = true ∧ (w.port 1 15).darkAt + fcMs 10 ≤ fcMs 10 ∧
    ((port_ PortState.pendingEnable Port.fresh []).port 1 15).drained = false := by decide +kernel
theorem witness_lasers : let s := up (lit_ [(laserOk 1 0, 1)])
    (((((s.put (laserOk 1 0) 0).put (laserPwr 1 0) 5).put (F.FAB_LASER.degraded 1) 1).count (F.FAB_CNT_LASER.count 1) (fabErrc 1 0xF) 1).showLaser 1).laserLit 1 = true ∧
    (let u := (((with_ upState ((List.range 16).map fun p => (F.FAB_PORT_STATUS.state 1 p, 6))).put (laserOk 1 0) 1).put (laserPwr 1 0) 5).showLaser 1
     ∀ p < 16, u.portState 1 p ≠ PortState.off ∧ u.portState 1 p ≠ PortState.pendingEnable) := by decide +kernel

/-! Blending. A bucket of one block and one child, node 0, its record of zeros in line 64. -/

def bln (part dn : Nat) : Flit := flit_ 2 1 3 (part * 2 ^ 88 + dn * 2 ^ 103)
def node_ (r : BldRound) (extra : List (RF × Nat)) (l : List Flit) : State := got (bucket r ([(F.FAB_FLOW_W3.nchild 0 3, 1), (F.FAB_FLOW_W3.rec 0 3, 64)] ++ extra)) l
/-- The last part of a block, and its first. -/
theorem witness_blend_part (parts : Nat) (h : parts = 0 ∨ parts = 31) :
    let s := node_ { BldRound.fresh with srcs := [BldSrc.fresh, { BldSrc.fresh with cur := some 0, parts := parts }] } [] [bln 5 0]
    ∃ x w, s.pop (fun x => x.kind == 2 && !x.dn && x.part != 14 && !s.blendHeld x) = some (x, w) ∧
    (let v := w.reach 9
     let u := v.recTouch 3
     let y := (u.round 3).src 1
     v.flowState x.flow == 1 && v.flowKind x.flow == 1 && x.epoch == v.flowEpoch x.flow && u.childOf 3 x.src == some 0 && decide (x.part < 6) && decide (x.blk < u.nblk 3) &&
       decide (y.upto ≤ x.blk) && decide (x.blk < y.grant + u.window 3) && y.cur == some 0 && x.blk == 0 && !y.parts.testBit x.part &&
       ((y.parts + 2 ^ x.part == allParts x.blkWide) == (parts == 31))) = true := by
  rcases h with rfl | rfl <;> exact popped (by decide +kernel)
/-- END from the child, and from a node that is none. -/
theorem witness_blend_end (src : Nat) (h : src = 0 ∨ src = 9) : let s := node_ BldRound.fresh [] [flit_ 2 1 3 (14 * 2 ^ 88 + src * 2 ^ 26)]
    ∃ x w, s.pop (fun x => x.kind == 2 && !x.dn && x.part == 14 && !s.blendHeld x) = some (x, w) ∧
    (let v := w.reach 9
     let u := v.recTouch 3
     v.flowState x.flow == 1 && v.flowKind x.flow == 1 && x.epoch == v.flowEpoch x.flow && x.flow == 3 && decide (x.blk < u.nblk 3) &&
       (u.childOf 3 x.src == if src = 0 then some 0 else none)) = true := by rcases h with rfl | rfl <;> exact popped (by decide +kernel)
/-- ADVANCE to a member with no FSEND, and with one whose block's slot is free, or still held. -/
theorem witness_advance (send busy : Bool) :
    let s := node_ { BldRound.fresh with sends := if send then [⟨0, qop .fsend (dFsend + busy.toNat * 2 ^ 256), 9, 0, false⟩] else [],
                                         blks := if busy then [(0, ⟨0, false, false, false⟩)] else [] } [] [bln 15 1]
    ∃ x w, s.pop (fun x => x.kind == 2 && x.dn && x.part == 15) = some (x, w) ∧
    (let v := w.reach 9
     let u := v.recTouch 3
     let d := u.mapRound 3 fun r => { r with grantUp := max r.grantUp (x.blk + 1) }
     v.flowState x.flow == 1 && v.flowKind x.flow == 1 && x.epoch == v.flowEpoch x.flow && x.flow == 3 && !u.isRoot 3 && x.src == u.flowPeer 3 && decide (x.blk < u.nblk 3) &&
       (match (u.round 3).sends with
        | [] => !send
        | g :: _ => send && d.slotBusy 3 (fsdFirst g.op.desc + g.passed) == busy)) = true := by
  cases send <;> cases busy <;> exact popped (by decide +kernel)
/-- The result's first part, one of a block whose result is complete, and the END that comes down. -/
theorem witness_blend_result (part upto : Nat) (h : part = 0 ∧ upto = 0 ∨ part = 0 ∧ upto = 1 ∨ part = 14 ∧ upto = 0) :
    let s := node_ { BldRound.fresh with resUpto := upto } [] [bln part 1]
    ∃ x w, s.pop (fun x => x.kind == 2 && x.dn && x.part != 15) = some (x, w) ∧
    (let v := w.reach 9
     let u := v.recTouch 3
     s.tileFree 3 20 && v.flowState x.flow == 1 && v.flowKind x.flow == 1 && x.epoch == v.flowEpoch x.flow && x.flow == 3 && !u.isRoot 3 && x.src == u.flowPeer 3 &&
       decide (x.blk < u.nblk 3) && x.part == part && (u.round 3).res == none && decide ((u.round 3).resUpto ≤ x.blk) == (upto == 0)) = true := by
  rcases h with ⟨rfl, rfl⟩ | ⟨rfl, rfl⟩ | ⟨rfl, rfl⟩ <;> exact popped (by decide +kernel)
/-- A complete block whose sum holds 2^21: at a node that is not the root, and at the root. -/
def whole (root : Nat) : State :=
  let s := (node_ { BldRound.fresh with srcs := [⟨1, none, 0, 0, 0⟩, ⟨1, none, 0, 0, 0⟩], blks := [(0, ⟨0, false, false, false⟩)], endDown := true }
    [(F.FAB_FLOW_W3.root 0 3, root)] []).reach 9
  { s with bld := { s.bld with store := [(2, 0x20#8)] } }
theorem witness_emit_block (root : Nat) (h : root = 0 ∨ root = 1) :
    (whole root).flowState 3 = 1 ∧ (whole root).flowKind 3 = 1 ∧ (whole root).nextBlk 3 = some (0, ⟨0, false, false, false⟩) ∧
    (whole root).isRoot 3 = decide (root = 1) ∧ 0 < ((whole root).round 3).grantUp + (whole root).window 3 ∧ (whole root).tileFree 3 20 = true ∧
    (let l := (((whole root).recTouch 3).takeBlock 3 0).1
     l.any isPoison = false ∧ l.all inNarrow = true ∧ 2 ^ 21 ≤ l.foldl (fun m v => max m v.natAbs) 0) := by
  rcases h with rfl | rfl <;> decide +kernel
theorem witness_round_complete : ((whole 0).round 3).endDown = true ∧
    (let v := (((whole 0).recTouch 3).walkTo 3 20 (((whole 0).recTouch 3).nblk 3) (((whole 0).recTouch 3).nblk 3)).closeRound 3
     v.get (F.FAB_FLOW_W3.sig_en 0 3) = 0 ∧ (v.flow 3).waiting = []) := by decide +kernel
theorem witness_bld_access : (whole 0).reached (F.BLD_ACC_CMD.read 1).addr = true ∧
    ∀ i ∈ (whole 0).liveFlows, flowDie i ≠ 1 ∨ (whole 0).flowKind i ≠ 1 ∨ (whole 0).recLine i ≠ (whole 0).get (F.BLD_ACC_ADDR.line 1) := by decide +kernel

/-! The host interface and Easel. -/

/-- HostReads: a register of the PF; the counters; a tile's set, of the last die, row and column; the debug aperture. -/
theorem witness_rc_read : upState.regsWf = true ∧ upState.reached (0x28 : BitVec 26).toNat = true ∧ (0x28 : BitVec 26).toNat % 8 = 0 ∧ (regFind moduleRegs 0x28).isSome = true ∧
    evenCounter 0x28 = none ∧ upState.get (F.HCTX_STATUS.state 63) ≠ 1 ∧ upState.reached (F.DPC_CNT.count 3 62).addr = true ∧ upState.reached (F.FPC_CNT.count 1 62).addr = true ∧
    upState.phys t0.gid = some 0 ∧ upState.reached F.PERF_TADDR.die.addr = true ∧ (BitVec.ofNat 14 (3 + 47 * 4 + 33 * 256)).toNat / 4 % 64 < 48 ∧
    (BitVec.ofNat 14 (3 + 47 * 4 + 33 * 256)).toNat / 256 < 34 ∧ upState.reached F.PERF_HCLR.hbm.addr = true := by decide +kernel
def dbg : State := up [(F.MOD_PROFILE.debug, 1), (F.MOD_DBG.open, 1), (F.MOD_DBG.die, 3), (F.MOD_DBG.row, 47)]
theorem witness_debug : dbg.isReady = true ∧ dbg.get F.MOD_PROFILE.debug = 1 ∧ dbg.get F.MOD_DBG.open = 1 ∧ (0x87FFFF8 : Nat) / 2 ^ 22 % 64 < 34 ∧ dbg.get F.MOD_DBG.row < 48 ∧
    (dbg.tile (physOf (dbg.get F.MOD_DBG.die) (dbg.get F.MOD_DBG.row) (0x87FFFF8 / 2 ^ 22 % 64))).gesso = false ∧ regionOf 0x1FFFF8 = .palette ∧ 0x1FFFF8 + 8 ≤ 0x200000 ∧
    regionOf 0x200000 ≠ .none ∧ upState.get F.MOD_DBG.open = 0 := by decide +kernel
/-- HostWrites: a register with no effect of its own, an offset of none, and the last entry of the PF's table. -/
theorem witness_register_write : upState.reached (0x40000 : BitVec 26).toNat = true ∧ (0x40000 : BitVec 26).toNat % 8 = 0 ∧ (regFind moduleRegs 0x40000).isSome = true ∧
    (∀ r ∈ regFind moduleRegs 0x40000, r.rwl = []) ∧ regFind moduleRegs 0x40FF8 = none ∧ upState.reached 0x40FF8 = true ∧ upState.get (F.HCTX_STATUS.state 63) ≠ 1 ∧ upState.isReady = true ∧
    (0x7FF8 : BitVec 26).toNat % 8 = 0 ∧ (0x7FF8 : BitVec 26).toNat / 16 < 2048 := by decide +kernel
/-- LinkEvents: with keep_link 1 and 0, the link up and down; no context in use, and one ACTIVE. -/
theorem witness_link (k : Nat) (h : k = 0 ∨ k = 1) : (up [(F.HOST_CFG.keep_link, k), (F.HOST_STATUS.speed, 6)]).get F.HOST_CFG.keep_link = k ∧
    (up [(F.HOST_CFG.keep_link, k), (F.HOST_STATUS.speed, 6)]).get F.HOST_STATUS.speed ≠ 0 ∧ upState.get F.HOST_STATUS.speed = 0 ∧ (∀ c < 64, upState.hctx c = 0) ∧
    upState.railsUp = true ∧ 2 ≤ (up [(F.MOD_STATE.stage, 2)]).get F.MOD_STATE.stage ∧ (up [(F.HCTX_STATUS.state 63, 1)]).hctx 63 = 1 := by rcases h with rfl | rfl <;> decide +kernel
/-- ContextStates: each state of context 63; a reset that is over, to ACTIVE and to FREE. -/
theorem witness_context (n : Nat) (h : n < 4) : (up [(F.HCTX_STATUS.state 63, n)]).isReady = true ∧ (up [(F.HCTX_STATUS.state 63, n)]).hctx 63 = n ∧
    State.reset.isReady = false := by
  match n, h with
  | 0, _ | 1, _ | 2, _ | 3, _ => decide +kernel
theorem witness_reset_over (free : Bool) : let s := (up [(F.HCTX_STATUS.state 63, 2)]).setFree 63 free
    s.hctx 63 = 2 ∧ s.resetOver 63 = true ∧ (63 ∈ s.host.toFree ↔ free = true) ∧ 63 ∉ s.rcv.restoring ∧ s.get (F.HCTX_CTL.msix_en 63) = 0 ∧ (∀ d < 4, s.ldrRows d 63 = 0) ∧ s.regsWf = true := by
  cases free <;> decide +kernel

/-- EaselAnswers: a request on the bus whose CRC is right, one whose is wrong, and one in the mailbox. -/
def powered (l : List (RF × Nat)) : State := up ((F.MOD_STATE.stage, 6) :: l)
def eased (f : EasSt → EasSt) : State := let s := powered []; { s with eas := f s.eas }
theorem witness_easel_request : (powered []).easUp 9 = true ∧ crc8 ([0x01, 0, (7 : Byte).toNat] ++ []) = (BitVec.ofNat 8 (crc8 [0x01, 0, 7])).toNat ∧
    crc8 ([0x01, 0, (7 : Byte).toNat] ++ []) ≠ (BitVec.ofNat 8 (crc8 [0x01, 0, 7] + 1)).toNat ∧ (eased fun e => { e with mail := some (1, 0, 7) }).eas.mail = some (1, 0, 7) := by
  decide +kernel
/-- EaselEffects: a staged profile that commits to slot 3; the checks before a command's own. -/
def stage_ : BitVec 4096 := BitVec.ofNat 4096 (profCrc 0 508 * 2 ^ (8 * 508))
set_option maxRecDepth 100000 in
theorem witness_commit_profile : profDebug stage_ = false ∧ profFieldsOk stage_ = true ∧ profCrcOk stage_ = true ∧ bytesNat (natBytes (profCrc stage_ 512) 4) = profCrc stage_ 512 ∧
    (powered []).get (rewritesF 3) < 256 := by decide +kernel
theorem witness_easel_effects : (powered [(F.MOD_EAS.safe, 1)]).get F.MOD_EAS.safe = 1 ∧ (powered []).get F.MOD_EAS.safe = 0 ∧ easLen 0x55 = none ∧ easSafe 0x07 = false ∧
    (easLen 0x0A).isSome = true ∧ easLen 0x0A ≠ some 200 ∧ (easLock 0x08).isSome = true ∧ (∀ k, easLock 0x08 = some k → (powered [(F.MOD_LOCK.lock, 2 ^ k)]).locked k = true) ∧
    (∀ k, easLock 0x08 = some k → (powered []).locked k = false) ∧ (powered []).get F.MOD_FUSECNT.svn < 64 ∧ bytesNat [0xA5] = 0xA5 := by decide +kernel
/-- EaselEvents: a console line of a command, and one too long; the second expiry of the watchdog; each lock. -/
def console : State := eased fun e => { e with prof := BitVec.ofNat 4096 (2 * 2 ^ (8 * 5)) }
theorem witness_console : console.easUp 9 = true ∧ profConsole console.eas.prof = true ∧ console.locked 1 = false ∧
    (hexBytes (([0x30, 0x31] : List Byte).map BitVec.toNat)) = some [1] ∧ 256 < (List.replicate 257 (0 : Byte)).length := by
  refine ⟨by decide +kernel, by decide +kernel, by decide +kernel, by decide +kernel, ?_⟩
  rw [List.length_replicate]; decide
theorem witness_easel_events : (((eased fun e => { e with wd := [1] }).eas.wd ++ [9]).filter fun t => decide (9 < t + fcMs 600000 + 1)).length < 3 ∧
    (powered []).reached F.MOD_LOCK.lock.addr = true ∧ (powered []).reached 0x20 = true ∧ (0xA5#8 : Byte) ≠ 0 ∧ (powered []).get F.MOD_DBG.open = 0 := by decide +kernel

/-! Power and boot. -/

/-- InputsAndRails: the inputs, lost and good; group 5 up, being started and failing; the two power registers. -/
theorem witness_inputs : ({ (powered []).pwr with vaux := false, vmain := false } : PwrSt).vaux = false ∧ (powered []).pwr.vaux = true ∧ (powered []).pwr.vmain = true ∧
    (let u := ((powered []).reach 9).put (railF 5) 0
     (powered []).get (railF 5) ≠ 0 ∧ u.get F.MOD_STATE.state = 1 ∧ (u.put F.MOD_STATE.state 2).get F.MOD_STATE.state = 2 ∧
      ((u.put F.MOD_STATE.state 0).put F.MOD_STATE.stage 2).get F.MOD_STATE.stage = 2) ∧ ({ (powered []).pwr with failAt := some 7 } : PwrSt).failAt = some 7 ∧
    ({ (powered []).pwr with group := 7 } : PwrSt).group = 7 ∧ (powered []).pwr.stageAt + fcMs 10 ≤ fcMs 10 := by decide +kernel
theorem witness_power_registers : (powered []).reached F.PWR_LIMIT.limit.addr = true ∧ (powered [(F.MOD_LOCK.lock, 8)]).locked 3 = true ∧ (powered []).locked 3 = false ∧
    (1199 : BitVec 12).toNat < 1200 ∧ 1200 ≤ (2450 : BitVec 12).toNat ∧ (2450 : BitVec 12).toNat ≤ 2450 ∧ (powered []).reached (F.PWR_DIE_DROOP.thr1 3).addr = true ∧
    (0x0A0A : Word).field 8 6 ≤ (0x0A0A : Word).field 0 6 ∧ 10 ≤ (0x3F0A : Word).field 0 6 ∧ (0x3F0A : Word).field 0 6 < (0x3F0A : Word).field 8 6 := by decide +kernel
/-- DroopStretch: die 3 in each state of its clock, its calls long past. -/
def stretched (n : Nat) : State := let s := powered [(F.PWR_DIE_CLK.stretch 3, n), (F.PWR_DIE_DROOP.thr1 3, 20), (F.PWR_DIE_DROOP.thr2 3, 40)]; { s with pwr := { s.pwr with clocks := true } }
theorem witness_droop (n : Nat) (h : n < 4) : (stretched n).get (F.PWR_DIE_CLK.stretch 3) = n ∧ (stretched n).pwr.clocks = true ∧ (stretched n).get (F.PWR_DIE_DROOP.thr1 3) < 21 ∧
    ¬ (stretched n).get (F.PWR_DIE_DROOP.thr2 3) < 21 ∧ (stretched n).get (F.PWR_DIE_DROOP.thr2 3) < 41 ∧ ((stretched n).clk 3).call1 + 250 ≤ 250 ∧ ((stretched n).clk 3).call2 + 250 ≤ 250 ∧
    ((stretched n).clk 3).since + 25 * ((stretched n).clk 3).deficit ≤ 2500 := by
  match n, h with
  | 0, _ | 1, _ | 2, _ | 3, _ => decide +kernel

/-- ThermalAndPowerLoops: a die at its last step, its last change long past (which readings count is free, R499); samples
above, at and below the limit. -/
def clocked (l : List (RF × Nat)) : State := let s := powered l; { s with pwr := { s.pwr with clocks := true } }
theorem witness_thermal_step : ((clocked [(F.PWR_DIE_CLK.tstep 3, 16)]).pwr.clocks = true ∧ (clocked [(F.PWR_DIE_CLK.tstep 3, 16)]).get (F.PWR_DIE_CLK.tstep 3) = 16) ∧
    (clocked []).pwr.therm = false ∧ (clocked []).pwr.vaux = true ∧ ((clocked []).clk 3).tempAt + fcMs 10 ≤ fcMs 10 := by decide +kernel
def loop_ (k : Nat) (below : Option Nat) : State := let s := clocked [(F.PWR_DIE_CLK.pstep 0, k), (F.PWR_LIMIT.limit, 2450)]; { s with pwr := { s.pwr with below := below } }
theorem witness_power_loop : (loop_ 15 none).get F.PWR_LIMIT.limit * 1000000 < (List.replicate 100 (4900, 5001)).foldl (fun n q => n + q.1 * q.2) 0 ∧
    ((loop_ 1 (some 0)).get F.PWR_LIMIT.limit - 50) * 1000000 ≤ (List.replicate 100 (4900, 5000)).foldl (fun n q => n + q.1 * q.2) 0 ∧
    (List.replicate 100 (4900, 5000)).foldl (fun n q => n + q.1 * q.2) 0 ≤ (loop_ 1 (some 0)).get F.PWR_LIMIT.limit * 1000000 ∧
    (List.replicate 100 (4900, 4000)).foldl (fun n q => n + q.1 * q.2) 0 < ((loop_ 1 (some 0)).get F.PWR_LIMIT.limit - 50) * 1000000 ∧
    (loop_ 15 none).get (F.PWR_DIE_CLK.pstep 0) = 15 ∧ (loop_ 16 none).get (F.PWR_DIE_CLK.pstep 0) = 16 ∧ ((loop_ 1 (some 0)).pwr.below.getD 9) + fcMs 10 ≤ fcMs 10 ∧
    (loop_ 1 (some 0)).pwr.decAt + fcMs 10 ≤ fcMs 10 := by decide +kernel

/-- BootStages: before each stage, with its other premises. -/
def before (n : Nat) : State := with_ State.reset [(F.PWR_STATUS.rails, if 1 < n then 0x7F else 0), (F.MOD_STATE.state, 0), (F.MOD_STATE.stage, n)]
theorem witness_stage (n : Nat) (h : n < 6) : (before n).pwr.vaux = true ∧ (before n).pwr.vmain = true ∧ (before n).pwr.held = false ∧ (before n).pwr.therm = false ∧
    (before n).get F.MOD_STATE.state = 0 ∧ (before n).get F.MOD_STATE.stage = n := by
  match n, h with
  | 0, _ | 1, _ | 2, _ | 3, _ | 4, _ | 5, _ => decide +kernel
theorem witness_stages : (before 2).railsUp = true ∧ (before 1).railsUp = false ∧ (∀ n ∈ [0, 6, 0, 0, 0], n ≤ 6) ∧ (∃ n ∈ [0, 7, 0, 0, 0], 6 < n) ∧
    (0 : BitVec 24) ≠ BitVec.allOnes 24 ∧ (before 5).pwr.stageAt + fcMs 10000 ≤ fcMs 10000 ∧ (tick (before 6) fun t => { t with trained := true }).tick.trained = true ∧ 1000 ≤ 1000 := by decide +kernel
theorem witness_boot_map : (bootMap []).2 = true ∧ (bootMap [0, 1, 2]).2 = false := by decide +kernel
theorem witness_phase_end : ((goState phaseTile).tile 0).inPhase = true := by decide +kernel

/-- SnapshotsAndLogs: slot 1 of context 2 is written; messages of node 0 for context 2. -/
def vrn_ (extra : List (RF × Nat)) : State := up ([(F.VRN_CTX_W0.en 2, 1)] ++ extra)
def ctl (op a0 a2 : Nat) (gen : Nat := 0) (flags : Nat := 0) (subject : Nat := 0) (body : Nat := 0) : Flit :=
  msg 8 (op + flags * 2 ^ 8 + subject * 2 ^ 32 + 2 * 2 ^ 48 + a0 * 2 ^ 64 + a2 * 2 ^ 192 + gen * 2 ^ 224 + body * 2 ^ 256)
theorem witness_snapshot (torn : Bool) : let s := vrn_ [(F.VRN_CTX_W6.slots 2, 8)]
    let t := if torn then s.tearSlot 2 1 else s
    t.writing 2 = some 1 ∧ ((((t.reach 9).readRows 2 30).vslot 2 1).torn || (((t.reach 9).readRows 2 30).allMembers 2).any fun q => (((t.reach 9).readRows 2 30).tile q.2).vrnTorn) = torn := by
  cases torn <;> decide +kernel
theorem witness_snap_begin (k : Nat) (h : k = 0 ∨ k = 1) : ∃ x u, (got (vrn_ []) [ctl 0x10 7 k]).popCtrl 0x10 = some (x, u) ∧
    (u.vrnOn x.cCtx && !(u.mapVctx x.cCtx fun v => { v with ins := v.ins.filter fun y => y.src != x.cOrigin }).filling x.cCtx &&
      (if k = 1 then x.cA2 % 2 == 1 else x.cA2 % 8 == 0)) = true := by rcases h with rfl | rfl <;> exact popped (by decide +kernel)
theorem witness_snap_end (whole : Bool) : let y : VrnIn := ⟨0, 7, 3, false, false, false, false, whole⟩
    let s := got ((vrn_ []).mapVctx 2 fun v => { v with ins := [y] }) [ctl 0x11 7 0]
    ∃ x u, s.popCtrl 0x11 = some (x, u) ∧ (((u.vctx x.cCtx).ins.find? fun y => y.src == x.cOrigin && y.seq == x.cA0) == some y && y.whole == whole) = true := by
  cases whole <;> exact popped (by decide +kernel)
theorem witness_snap_ack (k : Nat) (h : k = 0 ∨ k = 1) : let y : VrnCopy := ⟨0, 7, 0, false, false, false, 0, 0, true, false, [], []⟩
    ∃ x u, (got ((vrn_ []).mapVctx 2 fun v => { v with copies := [y] }) [ctl 0x12 7 k]).popCtrl 0x12 = some (x, u) ∧
      ((((u.reach 9).vctx x.cCtx).copies.find? fun y => y.dest == x.cOrigin && y.seq == x.cA0 && y.queued && !y.failed) == some y && x.cA2 == k) = true := by
  rcases h with rfl | rfl <;> exact popped (by decide +kernel)
theorem witness_log (v : Nat) (h : v = 0 ∨ v = 1) : ∃ x u, (got (vrn_ [(F.RCV_PEERS.log_from_v, v)]) [ctl 0x0E 0 0]).popCtrl 0x0E = some (x, u) ∧
    (!u.fillRole x.cCtx x.cOrigin 2 && u.get F.RCV_PEERS.log_from_v == v && u.get F.RCV_PEERS.log_from == x.cOrigin && u.engState 3 5 != 4) = true := by
  rcases h with rfl | rfl <;> exact popped (by decide +kernel)
theorem witness_logack : ∃ x u, (got (vrn_ []) [ctl 0x0F 0 0]).popCtrl 0x0F = some (x, u) ∧ (x.cCtx == 2) = true := popped (by decide +kernel)
theorem witness_mirror_lag : let s : State := { vrn_ [(F.RCV_PEERS.log_buddy_v, 1)] with vrn := { upState.vrn with logs := [(2, 7, 0)] } }
    let r := s.reach (fcMs 10)
    let z := State.count { r with vrn := { r.vrn with logs := [(2, 7, fcMs 10)] } } F.SKB_CNT_MLAG.count 0x13 1
    s.vrn.logs = [(2, 7, 0)] ∧ 9 < 0 + fcMs 10 ∧ 0 + fcMs 10 ≤ fcMs 10 ∧ (z.skbGet false 2 7).2.get F.RCV_PEERS.log_buddy_v = 1 := by decide +kernel

/-- MembersObey: a member of generation 4; a new command, a stale one and a repeated one. -/
def member (st : Nat) (extra : List (RF × Nat)) : State := vrn_ ([(F.RCV_CTL.en, 1), (F.RCV_STATUS.gen, 4), (F.RCV_STATUS.state, st)] ++ extra)
def rcv (s : State) (f : RcvSt → RcvSt) : State := { s with rcv := f s.rcv }
theorem witness_new_command (op : Nat) (h : op ∈ [6, 7, 9, 0xD, 0x13, 0x14]) : ∃ x u, (got (member 0 []) [ctl op 7 0 4]).popCtrl op = some (x, u) ∧
    (u.rcvOn && decide (u.gen ≤ x.cGen) && (u.answersTo (cmdKey op x.cCtx) x.cGen).isNone) = true := by
  simp only [List.mem_cons, List.not_mem_nil, or_false] at h
  rcases h with rfl | rfl | rfl | rfl | rfl | rfl <;> exact popped (by decide +kernel)
theorem witness_stale_command : ∃ x u, (got (member 0 []) [ctl 6 7 0 3]).popCtrl 6 = some (x, u) ∧ (u.rcvOn && decide (x.cGen < u.gen)) = true := popped (by decide +kernel)
theorem witness_repeated_command : ∃ x u, (got (rcv (member 0 []) fun r => { r with answers := [(cmdKey 6 2, 4, [])] }) [ctl 6 7 0 4]).popCtrl 6 = some (x, u) ∧
    (u.rcvOn && decide (u.gen ≤ x.cGen) && u.answersTo (cmdKey 6 x.cCtx) x.cGen == some []) = true := popped (by decide +kernel)
/-- PLAN at a member that runs and at a spare; REWIRE at the spare and at a neighbour; FILL at the spare, and a source of
each role. -/
theorem witness_plan : (member 3 []).rcvState < 4 ∧ 4 ≤ (member 4 []).rcvState ∧ (member 4 [(F.RCV_CTL.spare, 1)]).get F.RCV_CTL.spare = 1 ∧ (member 4 []).get F.RCV_CTL.spare ≠ 1 ∧
    (ctl 7 7 0 4).cA1 % 2 ^ 14 = (member 4 []).node ∧ (member 5 []).rcvState = 5 ∧ (member 5 []).vrnOn 2 = true ∧ (up []).vrnOn 2 = false := by decide +kernel
theorem witness_fill (role : Nat) (h : role = 1 ∨ role = 2 ∨ role = 3) : let x := ctl 9 7 1 4 0 9 (role * 2 ^ 16)
    (member 0 []).node ≠ x.cSubject % 2 ^ 14 ∧ x.fillSources.filter (fun q => q.1 == (member 0 []).node) = [(0, role, 0)] := by
  rcases h with rfl | rfl | rfl <;> decide +kernel
theorem witness_fill_none : (ctl 9 7 0 4 0 9).fillSources.filter (fun q => q.1 == (member 0 []).node) = [] ∧ (ctl 9 7 0 4).cSubject % 2 ^ 14 = (member 0 []).node := by decide +kernel
/-- FILL_COMMIT and RESTORE_COMPLETE: the snapshot 0 of context 2 is held in slot 0. -/
theorem witness_fill_commit : let s := rcv (member 6 [(F.VRN_CTX_W6.slots 2, 2)]) fun r => { r with fills := [(2, 0)] }
    s.rcvState = 6 ∧ s.rcv.fills = [(2, 0)] ∧ (s.localSlot 2 0).isSome = true ∧ (s.vctx 2).ins = [] ∧ s.regsWf = true := by decide +kernel
theorem witness_restore : let s := rcv (member 2 [(F.VRN_CTX_W6.slots 2, 2), (F.HCTX_STATUS.state 2, 1)]) fun r => { r with restoring := [2], plan := some (0, some 9) }
    s.restoreReady 2 = true ∧ s.rcv.plan = some (0, some 9) ∧ s.planSlot 2 = some 0 ∧ ((s.reach 9).restoreLoad 2 30 ((s.reach 9).vslot 2 0).sec).2 ≤ 255 := by decide +kernel

/-- Coordination: the coordinator in each state; the messages of node 0, with generation 4. -/
def coord (st : Nat) (extra : List (RF × Nat)) : State :=
  up ([(F.RCV_CTL.en, 1), (F.RCV_CTL.coord_ok, 1), (F.TICK_ROLE.role_now, 2), (F.RCV_STATUS.gen, 4), (F.RCV_STATUS.cstate, st)] ++ extra)
theorem witness_coordinator (n : Nat) (h : n ∈ [1, 3, 4, 5, 6, 7]) : (coord n []).coordOn = true ∧ (coord n []).rcvOn = true ∧ (coord n []).cstate = n ∧
    upState.coordOn = false ∧ (coord n []).rcv.since = 0 ∧ (coord n []).rcv.beat = 0 ∧ (coord n []).reached F.RCV_CMD.retry.addr = true := by
  simp only [List.mem_cons, List.not_mem_nil, or_false] at h
  rcases h with rfl | rfl | rfl | rfl | rfl | rfl <;> decide +kernel
theorem witness_heartbeats (lim : Nat) (h : lim = 1 ∨ lim = 15) : let s := rcv (coord 1 [(F.RCV_PLAN.hb_lim, lim)]) fun r => { r with heard := [(9, 0, 0)] }
    (s.rcv.heard.find? fun q => q.1 == 9) = some (9, 0, 0) ∧ (0 + 1 < s.get F.RCV_PLAN.hb_lim ↔ lim = 15) ∧ s.get F.RCV_PLAN.hb_lim = lim := by rcases h with rfl | rfl <;> decide +kernel
theorem witness_ctrl (op : Nat) (h : op ∈ [1, 2, 3, 4, 5, 8, 0xA, 0xB, 0xC]) : ∃ x u, (got (coord 4 []) [ctl op 7 0 4]).popCtrl op = some (x, u) ∧
    (u.coordOn && x.cGen == u.gen && !u.rcv.gone.contains x.cOrigin) = true := by
  simp only [List.mem_cons, List.not_mem_nil, or_false] at h
  rcases h with rfl | rfl | rfl | rfl | rfl | rfl | rfl | rfl | rfl <;> exact popped (by decide +kernel)
/-- LINKDOWN of node 9: of one that is gone, one confirmed and one with too few neighbours. -/
theorem witness_linkdown (k : Nat) (h : k = 1 ∨ k = 2) (gone : Bool) : ∃ x u, (got (rcv (coord 1 [(F.RCV_PLAN.confirm, k)]) fun r => { r with gone := if gone then [9] else [] })
      [ctl 3 0 0 4 0 9]).popCtrl 3 = some (x, u) ∧
    (let v := rcv (u.reach 9) fun r => { r with links := r.links ++ [(9, x.cOrigin, 9)] }
     x.cSubject % 2 ^ 14 == 9 && v.rcv.gone.contains 9 == gone && decide (9 ≤ 9 + fcMs (v.get F.RCV_PLAN.confirm_ms)) &&
       decide (v.get F.RCV_PLAN.confirm ≤ (v.neighbours 9).length) == (k == 1)) = true := by
  rcases h with rfl | rfl <;> cases gone <;> exact popped (by decide +kernel)
theorem witness_confirm_window : let s := rcv (coord 1 []) fun r => { r with links := [(9, 0, 0), (9, 7, 0)] }
    (s.rcv.links.filter fun q => q.1 == 9) = [(9, 0, 0), (9, 7, 0)] ∧ 9 ∉ s.rcv.gone ∧ 0 + fcMs (s.get F.RCV_PLAN.confirm_ms) ≤ fcMs 255 := by decide +kernel
/-- REWIRED, FILLED and ABANDON of the fill of node 0, the losses all handled and not; the resume tick. -/
theorem witness_job (queue : List (Nat × Nat)) (h : queue = [] ∨ queue = [(8, 0)]) :
    let s := rcv (coord 4 [(F.RCV_SPARE.node 0, 7), (F.RCV_SPARE.valid 0, 1)]) fun r => { r with lost := some 0, queue := queue, resumeAt := some 9, heard := [(7, 9, 0)] }
    s.rcv.lost = some 0 ∧ s.cstate = 4 ∧ s.dropFill.rcv.lost = some 0 ∧ (queue = [] ∨ (rcv s fun r => { r with lost := none, spare := none }).spareNow.isSome = true) ∧ s.rcv.resumeAt = some 9 ∧
    ((∀ m ∈ 0 :: s.rcv.neigh, m ∈ (rcv s fun r => { r with rewired := [0] }).rcv.rewired) ∧ ∀ m ∈ 0 :: s.rcv.neigh, m ∉ s.rcv.rewired) := by rcases h with rfl | rfl <;> decide +kernel
/-- S: one context, its snapshot 5 LOCAL everywhere. -/
theorem witness_choose : let s := rcv (coord 2 [(F.VRN_CTX_W0.en 2, 1)]) fun r => { r with infos := [⟨0, 2, some 5, some 5, []⟩], heard := [(0, 9, 0)] }
    s.chooseS = some 5 := by decide +kernel

/-! Errors, maps and repair. -/

/-- DoorbellsRing: the last total, armed and not, below its threshold and at it. -/
theorem witness_doorbell (armed thr : Nat) (h : armed = 1 ∧ thr = 3 ∨ armed = 1 ∧ thr = 4 ∨ armed = 0 ∧ thr = 3) :
    let s : State := { up [(F.ERRC_THR.armed 511, armed), (F.ERRC_THR.thr 511, thr)] with errcPending := [(511, 3)] }
    let u := State.add { s with errcPending := [] } (F.ERRC_CNT.count 511) 3
    s.regsWf = true ∧ s.errcPending = [(511, 3)] ∧ u.get (F.ERRC_THR.armed 511) = armed ∧ (u.get (F.ERRC_THR.thr 511) ≤ u.get (F.ERRC_CNT.count 511) ↔ thr = 3) ∧
    s.reached (F.ERRC_THR.thr 511).addr = true := by rcases h with ⟨rfl, rfl⟩ | ⟨rfl, rfl⟩ | ⟨rfl, rfl⟩ <;> decide +kernel

/-- MapsAndCommits. Physical tile (3, 47, 5) is suspected. -/
def rep_ (s : State) (f : RepSt → RepSt) : State := { s with rep := f s.rep }
theorem witness_suspect (code margin : Nat) (h : code = 6 ∧ margin = 0 ∨ code = 1 ∧ margin = 1) :
    let s := rep_ (powered [(F.REP_POLICY.auto_margin, margin)]) fun r => { r with suspects := [(3, physOf 3 47 5, code)] }
    s.easUp 9 = true ∧ s.get F.MOD_EAS.safe = 0 ∧
    ((s.reach 9).rep.suspects.find? fun q => q.1 == 3 && ((s.reach 9).get F.REP_POLICY.auto_margin == 1 || q.2.2 == 6)) = some (3, physOf 3 47 5, code) := by
  rcases h with ⟨rfl, rfl⟩ | ⟨rfl, rfl⟩ <;> decide +kernel
theorem witness_take_suspect : (powered []).inFlash 3 47 5 = false ∧ (powered []).suspected (physOf 3 47 5) = false ∧ ((powered []).marginStep 3).isSome = true := by decide +kernel
theorem witness_maps : (powered []).reached F.ERRC_DBADDR.addr.addr = true ∧ (powered []).reached (F.REP_MARGIN.vstep 3).addr = true ∧ (powered [(F.MOD_LOCK.lock, 63)]).locked 3 = true ∧
    (powered [(F.MOD_LOCK.lock, 63)]).locked 4 = true ∧ (powered [(F.MOD_LOCK.lock, 63)]).locked 2 = true ∧ (powered []).locked 2 = false ∧ (powered []).locked 3 = false ∧
    (powered []).locked 4 = false ∧ (0x44 : Word).field 0 3 ≤ 4 ∧ (0x44 : Word).field 4 3 ≤ 4 ∧ 4 < (0x55 : Word).field 0 3 ∧ 4 < (0x55 : Word).field 4 3 ∧
    (powered []).reached (tmapNextAddr 3 47) = true ∧ mapOk 0 = true ∧ mapOk (2 ^ 60 - 1) = false ∧ (powered []).rowHolds 3 47 = none ∧
    ((powered [(F.LDR_CTX_ROWS.rows 3 2, 2 ^ 47), (F.LDR_CTX_STATUS.state 3 2, 6)]).rowHolds 3 47).isSome = true := by decide +kernel
def retired_ (busy used : Nat) : State :=
  let s := rep_ (powered [(F.REP_COMMIT.busy 3, busy), (F.REP_COMMIT.used 3, used)]) fun r => { r with vol := [⟨3, 47, 5, false⟩] }
  s.setWord (tmapAddr 3 47) (BitVec.ofNat 64 (mapRetire 0 5 true))
theorem witness_commit : (retired_ 0 7).reached (F.REP_COMMIT.go 3).addr = true ∧ (retired_ 0 7).unfused 3 ≠ [] ∧ (retired_ 0 7).get (F.REP_COMMIT.busy 3) = 0 ∧
    (retired_ 0 7).get (F.REP_COMMIT.used 3) < 8 ∧ (retired_ 1 0).get (F.REP_COMMIT.busy 3) = 1 ∧ 8 ≤ (retired_ 0 8).get (F.REP_COMMIT.used 3) ∧ (powered []).unfused 3 = [] := by decide +kernel

/-- MigrationsAndScan: what waits in row (3, 47), with both spares free. -/
def wanting (k : Nat) : State := rep_ (powered []) fun r => { r with wants := [Mig.request 3 47 k 5 5] }
theorem witness_wants (k : Nat) (h : k < 3) : (wanting k).freeSpare 3 47 = some 32 ∧
    (((wanting k).rep.wants.filter fun x => x.die == 3 && x.row == 47).find? fun x => x.purpose == k) = some (Mig.request 3 47 k 5 5) ∧
    (∀ j < k, (((wanting k).rep.wants.filter fun x => x.die == 3 && x.row == 47).find? fun x => x.purpose == j) = none) ∧
    (((wanting k).rep.wants.filter fun x => x.die == 3 && x.row == 47).find? fun x => x.purpose == (k + 1) % 3) = none := by
  match k, h with
  | 0, _ | 1, _ | 2, _ => decide +kernel
def moving_ (k : Nat) (copied : Option Nat) : Mig := ⟨3, 47, k, 5, 33, 5, copied, false⟩
def migrating (k : Nat) (copied : Option Nat) : State := rep_ (powered []) fun r => { r with migs := [moving_ k copied] }
theorem witness_migration (k : Nat) (h : k < 4) : (((migrating k none).reach 9).rep.migs.find? fun x => x.die == 3 && x.row == 47 && x.q == 33 && x.copied.isNone) = some (moving_ k none) ∧
    ((migrating k (some 0)).reach (fcMs 1000)).rep.migs = [moving_ k (some 0)] ∧ (moving_ k (some 0)).purpose = k ∧ 0 + fcMs 1000 ≤ fcMs 1000 := by
  match k, h with
  | 0, _ | 1, _ | 2, _ | 3, _ => decide +kernel
def running_ : State := { powered [(F.REP_AUD_CTL.en 3, 1), (F.REP_SCAN_CTL.en 3, 1), (F.LDR_CTX_ROWS.rows 3 2, 2 ^ 47), (F.LDR_CTX_STATUS.state 3 2, 6)] with tiles := [(physOf 3 47 6, goTile)] }
theorem witness_audit : let u := running_.reach (fcMs 5000)
    u.get (F.REP_AUD_CTL.en 3) = 1 ∧ (u.audit 3 47).phase = 0 ∧ (u.audit 3 47).ended + fcMs (u.get (F.REP_AUD_CTL.gap_ms 3)) ≤ fcMs 5000 ∧ u.spareWants 3 47 1 < u.freeSpares 3 47 ∧
    ([32, 33].find? fun q => u.spareFree 3 47 q && !u.suspected (physOf 3 47 q)) = some 32 ∧ u.nextTarget 3 47 (u.audit 3 47).target = some 6 := by decide +kernel
theorem witness_scan_row : let u := running_.reach (fcMs 70000)
    u.get (F.REP_SCAN_CTL.en 3) = 1 ∧ u.get (F.REP_SCAN_STATUS.active 3) = 0 ∧ (u.scanOf 3).ended + fcMs (u.get (F.REP_SCAN_CTL.gap_ms 3)) ≤ fcMs 70000 ∧
    u.rowGesso 3 (u.scanOf 3).next = false ∧ u.erasing = false ∧
    ([32, 33].any fun q => u.spareFree 3 (u.scanOf 3).next q || u.auditing 3 (u.scanOf 3).next q) = true := by decide +kernel
theorem witness_scan_result : let y : ScanCol := ⟨5, false, false, 0⟩
    let s := (powered [(F.REP_SCAN_STATUS.active 3, 1), (F.REP_SCAN_STATUS.row 3, 47)]).setScan 3 { Scan.fresh with cur := [y] }
    let v := rep_ (powered []) fun r => { r with vol := [⟨3, 47, 5, true⟩] }
    ((s.scanOf 3).cur.find? fun y => y.col == 5 && !y.waits) = some y ∧ s.scanRow 3 = 47 ∧ s.get (F.REP_SCAN_STATUS.active 3) = 1 ∧
    ((v.scanOf 3).cur.find? fun y => y.col == 5 && !y.waits) = none ∧ (v.rep.vol.any fun x => x.die == 3 && x.row == 47 && x.col == 5 && x.prov) = true ∧
    (v.tile (physOf 3 47 5)).gesso = false := by decide +kernel

/-- LoaderCommands: context 63 of die 3 in each state; rows given and taken away. -/
def ldr_ (n : Nat) : State := powered [(F.LDR_CTX_STATUS.state 3 63, n), (F.HCTX_STATUS.state 63, 1)]
theorem witness_loader (n : Nat) (h : n < 7) : (ldr_ n).ldrState 3 63 = n ∧ (ldr_ n).reached (F.LDR_CTX_ROWS.rows 3 63).addr = true ∧
    (∀ k < 64, k ≠ 63 → (ldr_ n).ldrRows 3 k &&& (BitVec.allOnes 48).toNat = 0) ∧ (ldr_ n).get (F.HCTX_STATUS.state 63) = 1 ∧ (ldr_ n).gessoRows 3 (2 ^ 47) = 0 ∧
    (State.gessoRows { ldr_ n with tiles := [(physOf 3 47 5, { goTile with gesso := true })] } 3 (2 ^ 47)) = 1 ∧ (ldr_ n).reached (F.LDR_CTX_CMD.load 3 63).addr = true ∧
    63 ∉ ((ldr_ n).reach 9).rcv.restoring ∧ (ldr_ n).reached (F.PEN_RING.rgn 3).addr = true ∧ (∀ k < 3, (ldr_ n).ldrState k 63 ≠ 6) := by
  match n, h with
  | 0, _ | 1, _ | 2, _ | 3, _ | 4, _ | 5, _ | 6, _ => decide +kernel
/-- Over memory of zeros a load fails, whether it starts its context or not. -/
theorem witness_load_finish : ((ldr_ 4).loadRun 3 63 30 false).2 ≠ 0 := by decide +kernel
/-- An image of its header alone, with R437's CRC-32 of it (computed by hand, with zlib), of model 1 and no rows, and bind
tables of zeros after it: the load ends with no error. -/
def imgHdr : Nat := 0x1A494C4B + 1 * 2 ^ 32 + 1 * 2 ^ 48 + 256 * 2 ^ 64 + 0x1B595F8B * 2 ^ 128
def loadable : State := (powered [(F.LDR_CTX_STATUS.state 3 63, 4), (F.HCTX_STATUS.state 63, 1), (F.HBM_RGN.state 3 63 0, 1), (F.HBM_RGN.rd 3 63 0, 1),
  (F.HBM_RGN.valid 3 63 0, 1), (F.HBM_SE_STATUS.state 3 0, 1), (F.LDR_CTX_BIND.off 3 63, 1)]).hbmWrite 3 0 0 32 imgHdr
set_option maxRecDepth 100000 in
theorem witness_load_finishes : loadable.ldrState 3 63 = 4 ∧ (loadable.loadRun 3 63 30 (loadable.ldrOf 3 63).restore).2 = 0 := by decide +kernel

/-- TicksAndBarriers: TICK 1 at a member, and TICK 0 again; a barrier whose one running tile has arrived, and one that waits. -/
theorem witness_tick (n : Nat) (h : n = 0 ∨ n = 1) : ∃ x u, (got upState [tickMsg 1 n 5]).popTick 1 = some (x, u) ∧
    (!((u.reach 9).claimHears x).isMaster && decide (((u.reach 9).claimHears x).get F.TICK_NUMBER.number < x.tNumber) == (n == 1)) = true := by
  rcases h with rfl | rfl <;> exact popped (by decide +kernel)
def barred (r : RunState) : State :=
  let s := powered [(F.LDR_CTX_ROWS.rows 3 2, 2 ^ 47), (F.LDR_CTX_STATUS.state 3 2, 6)]
  { s with tiles := ((List.range 32).map fun l => (physOf 3 47 l, { goTile with run := if l = 0 then r else .ended })) }
theorem witness_barrier : (∀ q ∈ (barred .atBarrier).members 3 2, ((barred .atBarrier).tile q.2).arrivedBar = true) ∧
    (∃ q ∈ (barred .atBarrier).members 3 2, ((barred .atBarrier).tile q.2).run = .atBarrier) ∧ ∃ q ∈ (barred .running).members 3 2, ((barred .running).tile q.2).arrivedBar = false := by
  decide +kernel
/-- StepKeepsCanonical, CommandsKeepTheQueue: a canonical state that runs a tile, with a command that waits. -/
theorem witness_canonical : State.Canonical { goState goTile with pending := [.tickwait t0 (iw 0)] } := by
  refine ⟨?_, ?_, ?_, ?_⟩ <;> decide +kernel

end Sys2Proof.Tests
end

section
/-! SUPPORT. What an access of BAR0 comes to (R14, R15, R19, R463, R476): the bits that it reaches, a read of a register
of the PF, a write of one, and an access of a VF whose context is not ACTIVE. -/

namespace Sys2Proof.Machine

/-! The commands of the host interface and what each runs. -/

theorem exec_rcRead (func : Fin 65) (a : BitVec 26) (n at_ : Nat) (s : State) :
    exec (.rcRead func a n at_) s = .next (s.hostRead func a.toNat n at_) := rfl

theorem exec_evenCounterRead (k : CounterSet) (at_ : Nat) (s : State) :
    exec (.evenCounterRead k at_) s = .next (s.evenRead k at_) := rfl

theorem exec_perfTaddrWrite (v : BitVec 14) (s : State) :
    exec (.perfTaddrWrite v) s = .next (s.byHost F.PERF_TADDR.die.addr fun s => s.perfTaddr (v.setWidth 64)) := rfl

theorem exec_perfHclrHbm (s : State) :
    exec .perfHclrHbm s = .next (s.byHost F.PERF_HCLR.hbm.addr State.clearHbmHist) := rfl

theorem exec_perfHclrSync (s : State) :
    exec .perfHclrSync s = .next (s.byHost F.PERF_HCLR.hbm.addr State.clearSyncHist) := rfl

theorem exec_perfHclrFlow (s : State) :
    exec .perfHclrFlow s = .next (s.byHost F.PERF_HCLR.hbm.addr State.clearFlowHist) := rfl

theorem exec_registerWrite (func : Fin 65) (win : Window) (a : BitVec 26) (n : Nat) (v : Word) (at_ cyc : Nat) (s : State) :
    exec (.registerWrite func win a n v at_ cyc) s = .next (s.hostWrite func win a.toNat n v at_ cyc) := rfl

theorem exec_bar4Access (a : BitVec 28) (c : Nat) (acc : HostAccess) (s : State) (h : acc.ok = true) :
    exec (.bar4Access a c acc) s = .next (s.bar4 a.toNat acc.size c acc.data) :=
  if_pos h

theorem exec_nop (t : TileId) (v : BitVec 64) (s : State) :
    exec (.nop t v) s = .next (s.runTile t fun x => x.nop v) := rfl

/-! Which access is performed, and the bits that it reaches. -/

theorem State.byHost_reached (s : State) (a : Nat) (k : State → State) (h : s.reached a = true) : s.byHost a k = k s :=
  if_pos h

theorem State.reached_of_isReady (s : State) (a : Nat) (h : s.isReady = true) : s.reached a = true := by
  simp [State.reached, h]

@[simp] theorem State.funcLive_pf (s : State) : s.funcLive 0 = true := rfl

/-- R476: a VF whose context is not ACTIVE is not served. -/
theorem State.funcLive_vf (s : State) (c : Fin 64) (h : s.get (F.HCTX_STATUS.state c) ≠ 1) : s.funcLive c.succ = false := by
  simpa [State.funcLive] using h

theorem accessMask_word (a : Nat) (h : a % 8 = 0) : accessMask a 8 = some (BitVec.allOnes 64) := by simp [accessMask, h]

theorem accessMask_other (a n : Nat) (h4 : n ≠ 4) (h8 : n ≠ 8) : accessMask a n = none := by simp [accessMask, h4, h8]

/-- A write of all 64 bits replaces the register's contents. -/
theorem mergeBits_allOnes (old v : Word) : mergeBits old (BitVec.allOnes 64) v = v := by
  simp [mergeBits, -BitVec.reduceAllOnes]

/-! Reads. -/

theorem State.hostRead_notLive (s : State) (func a n at_ : Nat) (h : s.funcLive func = false) :
    s.hostRead func a n at_ = (s.errc 3 1).answer 0 false := by
  simp [State.hostRead, h]

theorem State.hostRead_pf (s : State) (a n at_ : Nat) (h : s.reached a = true) :
    s.hostRead 0 a n at_ = (s.moduleRead a n at_).2.answer (s.moduleRead a n at_).1 false := by
  simp [State.hostRead, place, h]

/-- R14, R19: 8 bytes of a register that no HOLD register serves: its RC bits are cleared. -/
theorem State.moduleRead_plain (s : State) (a at_ : Nat) (r : RegDesc) (ha : a % 8 = 0) (hr : regFind moduleRegs a = some r)
    (he : evenCounter a = none) : s.moduleRead a 8 at_ = ((s.regView a at_).toNat,
      if r.rc = 0 then s else s.setWord a (s.word a &&& ~~~ BitVec.ofNat 64 r.rc)) := by
  simp [State.moduleRead, accessMask_word a ha, ha, hr, he, halfOf, -BitVec.reduceAllOnes]

/-! The even counters of the dies' sets (R463). -/

theorem evenCounter_range {a : Nat} {q : RF × RF} (h : evenCounter a = some q) : a % 16 = 0 ∧
    (0x161000 ≤ a ∧ a < 0x500000 ∧ 0x61000 ≤ a % 0x100000 ∧ a % 0x100000 < 0x61200 ∨
     0x101A000 ≤ a ∧ a < 0x1100000 ∧ 0x1A000 ≤ a % 0x80000 ∧ a % 0x80000 < 0x1A200) := by
  unfold evenCounter at h
  simp only [Bool.and_eq_true, decide_eq_true_eq] at h
  split at h
  · omega
  · split at h
    · omega
    · cases h

theorem evenCounter_die (d : Fin 4) (j : Fin 32) :
    evenCounter (F.DPC_CNT.count d (2 * j)).addr = some (F.DPC_CNT.count d (2 * j + 1), F.DPC_HOLD.hold d) := by
  have hd := d.isLt
  have hj := j.isLt
  have hdie : (0x161000 + 0x100000 * d.val + 0x8 * (2 * j.val)) / 0x100000 - 1 = d := by omega
  have hnum : ((0x161000 + 0x100000 * d.val + 0x8 * (2 * j.val)) % 0x100000 - 0x61000) / 8 = 2 * j := by omega
  simp only [evenCounter, Bool.and_eq_true, decide_eq_true_eq]
  rw [if_pos (by omega), hdie, hnum]

theorem evenCounter_fabric (f : Fin 2) (j : Fin 32) :
    evenCounter (F.FPC_CNT.count f (2 * j)).addr = some (F.FPC_CNT.count f (2 * j + 1), F.FPC_HOLD.hold f) := by
  have hf := f.isLt
  have hj := j.isLt
  have hdie : (0x101A000 + 0x80000 * f.val + 0x8 * (2 * j.val) - 0x1000000) / 0x80000 = f := by omega
  have hmod : (0x101A000 + 0x80000 * f.val + 0x8 * (2 * j.val)) % 0x80000 = 0x1A000 + 16 * j := by omega
  have hnum : (0x1A000 + 16 * j.val - 0x1A000) / 8 = 2 * j := by
    rw [Nat.add_sub_cancel_left]
    omega
  simp only [evenCounter, Bool.and_eq_true, decide_eq_true_eq]
  rw [if_neg (by omega), if_pos (by omega), hdie, hmod, hnum]

/-- No even counter's value is computed from other state. -/
theorem State.regView_even (s : State) (a at_ : Nat) (q : RF × RF) (h : evenCounter a = some q) :
    s.regView a at_ = s.word a := by
  have hr := evenCounter_range h
  simp only [State.regView, Bool.and_eq_true, Bool.or_eq_true, decide_eq_true_eq]
  repeat rw [if_neg (by omega)]

/-- The registers of the table that hold RC bits. -/
def rcArrays : List (Nat × List (Nat × Nat)) :=
  [(0x10040, []), (0x16028, []), (0x108038, [(4, 0x100000), (6, 0x100)]), (0x140008, [(4, 0x100000)]),
    (0x150008, [(4, 0x100000)]), (0x150028, [(4, 0x100000)])]

theorem moduleRegs_rc : ∀ r ∈ moduleRegs, r.rc = 0 ∨ (r.base, r.dims) ∈ rcArrays := by decide +kernel

/-- The counters of the compute dies' sets and of the fabric dies' sets are in the table. -/
theorem moduleRegs_counters : (∃ r ∈ moduleRegs, r.base = 0x161000 ∧ r.dims = [(4, 0x100000), (64, 0x8)]) ∧
    ∃ r ∈ moduleRegs, r.base = 0x101A000 ∧ r.dims = [(2, 0x80000), (64, 0x8)] := by decide +kernel

/-- An even counter is a register of the module, and none of its bits is RC. -/
theorem regFind_even {a : Nat} {q : RF × RF} (h : evenCounter a = some q) :
    ∃ r, regFind moduleRegs a = some r ∧ r.rc = 0 := by
  obtain ⟨h16, hr⟩ := evenCounter_range h
  have hsome : (regFind moduleRegs a).isSome = true := by
    refine List.find?_isSome.mpr ?_
    obtain ⟨⟨r, hm, hb, hd⟩, ⟨r', hm', hb', hd'⟩⟩ := moduleRegs_counters
    rcases hr with hr | hr
    · refine ⟨r, hm, ?_⟩
      simp only [RegDesc.hit, hb, hd, dimsHit, Bool.and_eq_true, decide_eq_true_eq, beq_iff_eq]
      omega
    · refine ⟨r', hm', ?_⟩
      simp only [RegDesc.hit, hb', hd', dimsHit, Bool.and_eq_true, decide_eq_true_eq, beq_iff_eq]
      omega
  obtain ⟨r, hf⟩ := Option.isSome_iff_exists.mp hsome
  refine ⟨r, hf, (moduleRegs_rc r (List.mem_of_find?_eq_some hf)).resolve_right fun hrc => ?_⟩
  have hhit := List.find?_some hf
  simp only [rcArrays, List.mem_cons, Prod.mk.injEq, List.not_mem_nil, or_false] at hrc
  rcases hrc with ⟨hb, hd⟩ | ⟨hb, hd⟩ | ⟨hb, hd⟩ | ⟨hb, hd⟩ | ⟨hb, hd⟩ | ⟨hb, hd⟩ <;>
    simp only [RegDesc.hit, hb, hd, dimsHit, Bool.and_eq_true, decide_eq_true_eq, beq_iff_eq] at hhit <;> omega

/-- R463: 8 bytes of an even counter: the counter above it is copied into HOLD. -/
theorem State.hostRead_even (s : State) (a at_ : Nat) (up hold : RF) (hs : s.reached a = true)
    (he : evenCounter a = some (up, hold)) :
    s.hostRead 0 a 8 at_ = (s.put hold (s.get up)).answer (s.word a).toNat false := by
  obtain ⟨r, hr, hrc⟩ := regFind_even he
  have ha : a % 8 = 0 := by have := (evenCounter_range he).1; omega
  have hread : s.moduleRead a 8 at_ = ((s.word a).toNat, s.put hold (s.get up)) := by
    simp [State.moduleRead, accessMask_word a ha, ha, hr, he, hrc, halfOf, s.regView_even a at_ _ he]
  rw [s.hostRead_pf a 8 at_ hs, hread]

/-! Writes. -/

theorem State.hostWrite_notLive (s : State) (func : Nat) (win : Window) (a n : Nat) (v : Word) (at_ cyc : Nat)
    (h : s.funcLive func = false) : s.hostWrite func win a n v at_ cyc = s.errc 3 1 := by
  simp [State.hostWrite, h]

theorem State.hostWrite_otherSize (s : State) (win : Window) (a n : Nat) (v : Word) (at_ cyc : Nat) (h4 : n ≠ 4)
    (h8 : n ≠ 8) : s.hostWrite 0 win a n v at_ cyc = s := by
  simp [State.hostWrite, accessMask_other a n h4 h8]

theorem State.hostWrite_pf (s : State) (a : Nat) (v : Word) (at_ cyc : Nat) (hs : s.reached a = true) (ha : a % 8 = 0) :
    s.hostWrite 0 .bar0 a 8 v at_ cyc = s.moduleWrite 0 a (BitVec.allOnes 64) v at_ cyc := by
  simp [State.hostWrite, accessMask_word a ha, ha, place, hs]

theorem State.hostWrite_msixTable (s : State) (a : Nat) (v : Word) (at_ cyc : Nat) (hs : s.isReady = true)
    (ha : a % 8 = 0) :
    s.hostWrite 0 .msixTable a 8 v at_ cyc = s.tableWrite 0 a (BitVec.allOnes 64) v := by
  simp [State.hostWrite, accessMask_word a ha, ha, s.reached_of_isReady _ hs]

theorem State.moduleWrite_noRegister (s : State) (func a : Nat) (m v : Word) (at_ cyc : Nat)
    (h : regFind moduleRegs a = none) : s.moduleWrite func a m v at_ cyc = s := by
  simp [State.moduleWrite, h]

/-- A register of the block of PERF. -/
theorem State.moduleWrite_perf (s : State) (func a : Nat) (m v : Word) (at_ cyc : Nat) (r : RegDesc)
    (hr : regFind moduleRegs a = some r) (lo : 0x40000 ≤ a) (hi : a < 0x50000) :
    s.moduleWrite func a m v at_ cyc = s.wrPerf a m v := by
  have h1 : ¬ a < 0x10000 := by omega
  have h2 : ¬ a < 0x20000 := by omega
  have h3 : ¬ a < 0x30000 := by omega
  have h4 : ¬ a < 0x40000 := by omega
  simp [State.moduleWrite, hr, h1, h2, h3, h4, hi]

/-- R15: a register that no lock guards takes a write by type. -/
theorem State.plainWrite_unlocked (s : State) (a : Nat) (m v : Word) (r : RegDesc) (hr : regFind moduleRegs a = some r)
    (hl : r.rwl = []) : s.plainWrite a m v = s.setWord a (writeByType r (s.word a) m v) := by
  simp [State.plainWrite, hr, hl, State.rwlBits, writeByType]

/-- R484: 8 bytes of an entry of the PF's MSI-X table. -/
theorem State.tableWrite_pf (s : State) (a : Nat) (v : Word) (hi : a / 16 < 2048) :
    s.tableWrite 0 a (BitVec.allOnes 64) v = State.sendPending { s with host := { s.host with
      msix := SMap.put s.host.msix (0x8000 * 0 + (a - a % 8)) v (if a % 16 / 8 = 1 then 0x100000000#64 else 0) } } := by
  have hn : ¬ 2048 ≤ a / 16 := by omega
  simp [State.tableWrite, mergeBits_allOnes, msixSize, hn, -BitVec.reduceAllOnes]

end Sys2Proof.Machine
end

section
/-! SUPPORT. What the performance block's commands do to the registers (R463, R470), and an access through the debug
aperture (R498). -/

namespace Sys2Proof.Machine

/-! Registers cleared. -/

theorem SMap.find_clear {α : Type} (m : SMap α) (lo hi a : Nat) :
    SMap.find (SMap.clear m lo hi) a = if lo ≤ a ∧ a < hi then none else SMap.find m a := by
  induction m with
  | nil => simp [SMap.clear, SMap.find]
  | cons q m ih =>
    obtain ⟨k, w⟩ := q
    unfold SMap.clear at *
    rw [List.filter_cons]
    split
    case isTrue hk =>
      have hk : k < lo ∨ hi ≤ k := by simpa using hk
      simp only [SMap.find, ih]
      by_cases ha : a = k
      · have hout : ¬ (lo ≤ a ∧ a < hi) := by omega
        simp [ha, ha ▸ hout]
      · simp [ha]
    case isFalse hk =>
      have hk : lo ≤ k ∧ k < hi := by simpa using hk
      rw [ih, SMap.find]
      by_cases ha : a = k
      · simp [ha, hk]
      · simp [ha]

/-- Nothing but registers differs between the states. -/
def State.RegsOnly (s u : State) : Prop := { u with regs := s.regs } = s

theorem State.RegsOnly.refl (s : State) : s.RegsOnly s := rfl

theorem State.RegsOnly.put {s t : State} (h : s.RegsOnly t) (f : RF) (v : Nat) : s.RegsOnly (t.put f v) := h

theorem State.RegsOnly.setWord {s t : State} (h : s.RegsOnly t) (a : Nat) (v : Word) : s.RegsOnly (t.setWord a v) := h

theorem State.RegsOnly.trans {s t u : State} (hst : s.RegsOnly t) (htu : t.RegsOnly u) : s.RegsOnly u := by
  have hu : ({ ({ u with regs := t.regs } : State) with regs := s.regs } : State) = s :=
    (congrArg (fun t : State => ({ t with regs := s.regs } : State)) htu).trans hst
  exact hu

/-- `f` returns the registers of `P` to their reset values and changes nothing else. -/
structure Clears (P : Nat → Prop) (f : State → State) : Prop where
  cleared : ∀ s x, P x → (f s).word x = moduleReset x
  kept : ∀ s x, ¬ P x → (f s).word x = s.word x
  frame : ∀ s : State, s.RegsOnly (f s)

theorem clearRegs_clears {lo hi lo' hi' : Nat} (hlo : lo = lo') (hhi : hi = hi') :
    Clears (fun x => lo' ≤ x ∧ x < hi') (fun s => s.clearRegs lo hi) where
  cleared s x h := by simp [State.word, rreg, SMap.getD, State.clearRegs, SMap.find_clear, hlo, hhi, h]
  kept s x h := by simp [State.word, rreg, SMap.getD, State.clearRegs, SMap.find_clear, hlo, hhi, h]
  frame _ := rfl

theorem Clears.foldl_range (n : Nat) (P : Nat → Nat → Prop) (f : Nat → State → State) (h : ∀ i, Clears (P i) (f i)) :
    Clears (fun x => ∃ i, i < n ∧ P i x) (fun s => (List.range n).foldl (fun s i => f i s) s) := by
  induction n with
  | zero => exact ⟨fun _ _ hx => absurd hx (by simp), fun _ _ _ => rfl, fun _ => rfl⟩
  | succ n ih =>
    simp only [List.range_succ, List.foldl_append, List.foldl_cons, List.foldl_nil]
    refine ⟨fun s x hx => ?_, fun s x hx => ?_, fun s => (ih.frame s).trans ((h n).frame _)⟩
    · by_cases hn : P n x
      · exact (h n).cleared _ x hn
      · obtain ⟨i, hi, hP⟩ := hx
        have hin : i ≠ n := fun e => hn (e ▸ hP)
        exact ((h n).kept _ x hn).trans (ih.cleared s x ⟨i, by omega, hP⟩)
    · exact ((h n).kept _ x fun hP => hx ⟨n, by omega, hP⟩).trans (ih.kept s x fun ⟨i, hi, hP⟩ => hx ⟨i, by omega, hP⟩)

/-- R470: the row and transfer histograms of each stream engine lie one after the other. -/
theorem clearHbmHist_clears : Clears (fun x => ∃ d, d < 4 ∧ ∃ k, k < 6 ∧ 0x108080 + 0x100000 * d + 0x100 * k ≤ x ∧
    x < 0x108100 + 0x100000 * d + 0x100 * k) State.clearHbmHist :=
  Clears.foldl_range 4 _ _ fun _ => Clears.foldl_range 6 _ _ fun _ => clearRegs_clears rfl (by simp only; omega)

theorem clearSyncHist_clears : Clears (fun x => ∃ d, d < 4 ∧ 0x160040 + 0x100000 * d ≤ x ∧ x < 0x160080 + 0x100000 * d)
    State.clearSyncHist :=
  Clears.foldl_range 4 _ _ fun _ => clearRegs_clears rfl (by simp only; omega)

theorem clearFlowHist_clears : Clears (fun x => ∃ f, f < 2 ∧ 0x101A440 + 0x80000 * f ≤ x ∧ x < 0x101A480 + 0x80000 * f)
    State.clearFlowHist :=
  Clears.foldl_range 2 _ _ fun _ => clearRegs_clears rfl (by simp only; omega)

/-- A command of PERF_HCLR: the histograms it clears take their reset values, and nothing else changes. -/
theorem Clears.exec {P : Nat → Prop} {f : State → State} (h : Clears P f) (i : Instr) (s : State)
    (hi : exec i s = .next (f s)) : ∃ u : State, exec i s = .next u ∧ s.RegsOnly u ∧
      (∀ x, P x → u.word x = moduleReset x) ∧ ∀ x, ¬ P x → u.word x = s.word x :=
  ⟨f s, hi, h.frame s, h.cleared s, h.kept s⟩

/-! Fields written one after the other. -/

theorem State.foldl_put_sorted (l : List Nat) (g : Nat → RF) (v : Nat → Nat) {s : State} (hs : SMap.sorted s.regs = true) :
    SMap.sorted (l.foldl (fun s k => s.put (g k) (v k)) s).regs = true := by
  induction l generalizing s with
  | nil => exact hs
  | cons k l ih => exact ih (State.put_sorted (g k) (v k) hs)

theorem State.RegsOnly.foldl_put {s t : State} (h : s.RegsOnly t) (l : List Nat) (g : Nat → RF) (v : Nat → Nat) :
    s.RegsOnly (l.foldl (fun s k => s.put (g k) (v k)) t) := by
  induction l generalizing t with
  | nil => exact h
  | cons k l ih => exact ih (h.put (g k) (v k))

theorem State.get_foldl_put_other (l : List Nat) (g : Nat → RF) (v : Nat → Nat) (s : State) (f : RF)
    (h : ∀ k ∈ l, f.addr ≠ (g k).addr) : (l.foldl (fun s k => s.put (g k) (v k)) s).get f = s.get f := by
  induction l generalizing s with
  | nil => rfl
  | cons k l ih =>
    exact (ih (s.put (g k) (v k)) fun j hj => h j (List.mem_cons_of_mem k hj)).trans
      (s.get_put_other _ _ _ (h k List.mem_cons_self))

/-- Fields at distinct addresses: each holds what was written to it. -/
theorem State.get_foldl_put_range (n : Nat) (g : Nat → RF) (v : Nat → Nat) {s : State} (hs : SMap.sorted s.regs = true)
    (hg : ∀ j k, j < k → (g j).addr ≠ (g k).addr) {k : Nat} (hk : k < n) (hw : (g k).lo + (g k).w ≤ 64) :
    ((List.range n).foldl (fun s k => s.put (g k) (v k)) s).get (g k) = v k % 2 ^ (g k).w := by
  induction n with
  | zero => omega
  | succ n ih =>
    rw [List.range_succ, List.foldl_append, List.foldl_cons, List.foldl_nil]
    by_cases hkn : k = n
    · rw [hkn] at hw ⊢
      exact State.get_put_same _ _ _ (State.foldl_put_sorted _ g v hs) hw
    · rw [State.get_put_other _ _ _ _ (hg k n (by omega))]
      exact ih (by omega)

/-! PERF_TADDR. -/

/-- The fields of PERF_TADDR in the 14 bits that the host writes. -/
theorem perfTaddr_fields (v : BitVec 14) : Word.field (v.setWidth 64) 0 2 = v.toNat % 4 ∧
    Word.field (v.setWidth 64) 2 6 = v.toNat / 4 % 64 ∧ Word.field (v.setWidth 64) 8 6 = v.toNat / 256 := by
  have hv := v.isLt
  simp only [Word.field, BitVec.extractLsb'_toNat, BitVec.toNat_setWidth, Nat.shiftRight_eq_div_pow]
  omega

/-- What PERF_TDATAk shows of a tile (R470): its eight counters, then its selects. -/
def tdataOf (t : Tile) (k : Nat) : Nat := if k < 8 then t.get (TF.TPC_CNT.count k) else t.get TF.TPC_SEL.sel

theorem tdataOf_lt (t : Tile) (k : Nat) : tdataOf t k < 2 ^ 64 := by
  unfold tdataOf
  split
  · exact Nat.lt_trans (Word.field_lt _ _ 48) (by omega)
  · exact Word.field_lt _ _ 64

/-- R470: a write that names a physical tile latches what PERF_TDATA shows of it. -/
theorem State.perfTaddr_tile (s : State) (v : BitVec 14) (hr : v.toNat / 4 % 64 < 48) (hc : v.toNat / 256 < 34) :
    s.perfTaddr (v.setWidth 64) = (List.range 9).foldl (fun u k => u.put (F.PERF_TDATA.data k)
      (tdataOf (s.tile (physOf (v.toNat % 4) (v.toNat / 4 % 64) (v.toNat / 256))) k))
      (s.setWord F.PERF_TADDR.die.addr (v.setWidth 64 &&& 0x3FFF#64)) := by
  obtain ⟨hd, hrow, hcol⟩ := perfTaddr_fields v
  unfold State.perfTaddr
  simp only [hd, hrow, hcol, hr, hc, decide_true, Bool.and_true, if_true]
  rfl

/-- R470: PERF_TADDR latches what PERF_TDATA shows of the tile that it names, and changes no other register. -/
theorem State.perfTaddr_latches (s : State) (v : BitVec 14) (hwf : s.regsWf = true)
    (hr : v.toNat / 4 % 64 < 48) (hc : v.toNat / 256 < 34) :
    let u := s.perfTaddr (v.setWidth 64)
    (∀ k < 9, u.get (F.PERF_TDATA.data k) =
      tdataOf (s.tile (physOf (v.toNat % 4) (v.toNat / 4 % 64) (v.toNat / 256))) k) ∧
    (∀ f : RF, f.addr < 0x40200 ∨ 0x40288 ≤ f.addr → u.get f = s.get f) ∧ s.RegsOnly u := by
  rw [s.perfTaddr_tile v hr hc]
  refine ⟨fun k hk => ?_, fun f hf => ?_, ?_⟩
  · have hsorted : SMap.sorted (s.setWord F.PERF_TADDR.die.addr (v.setWidth 64 &&& 0x3FFF#64)).regs = true :=
      SMap.sorted_put _ _ _ _ (SMap.wf_sorted _ _ hwf)
    rw [State.get_foldl_put_range 9 F.PERF_TDATA.data _ hsorted (fun j k hjk => by simp only; omega) hk (by simp)]
    exact Nat.mod_eq_of_lt (tdataOf_lt _ k)
  · rw [State.get_foldl_put_other _ _ _ _ _ fun k hk => by have := List.mem_range.mp hk; simp only; omega]
    have hne : f.addr ≠ F.PERF_TADDR.die.addr := by simp only; omega
    exact congrArg (fun w => Word.field w f.lo f.w) (s.word_setWord_other _ _ _ hne)
  · exact ((State.RegsOnly.refl s).setWord _ _).foldl_put _ _ _

/-! The debug aperture. -/

theorem State.bar4_refused (s : State) (a n c d : Nat) (h : s.debugOpen = false) : s.bar4 a n c (some d) = s.errc 3 1 := by
  simp [State.bar4, h]

/-- The physical tile that an offset of BAR4 names (R498). -/
def State.debugTile (s : State) (a : Nat) : Nat := physOf (s.get F.MOD_DBG.die) (s.get F.MOD_DBG.row) (a / 2 ^ 22 % 64)

/-- What an access finds that reaches a tile (R498). -/
structure State.DebugReaches (s : State) (a n : Nat) : Prop where
  ready : s.isReady = true
  isOpen : s.debugOpen = true
  col : a / 2 ^ 22 % 64 < 34
  row : s.get F.MOD_DBG.row < 48
  clean : (s.tile (s.debugTile a)).gesso = false
  region : regionOf (a % 2 ^ 22) ≠ .none
  inside : regionOf (a % 2 ^ 22) = .palette → a % 2 ^ 22 + n ≤ 0x200000

theorem State.bar4_reaches (s : State) (a n c : Nat) (data : Option Nat) (h : s.DebugReaches a n) :
    let p := s.debugTile a
    let o := (s.view p).debug c (a % 2 ^ 22) n data
    s.bar4 a n c data =
      if data.isNone then (s.onTile p fun _ => o.tile).answer o.val o.pois else s.onTile p fun _ => o.tile := by
  obtain ⟨hready, hopen, hcol, hrow, hclean, hregion, hin⟩ := h
  have hcol' : ¬ 34 ≤ a / 2 ^ 22 % 64 := by omega
  have hrow' : ¬ 48 ≤ s.get F.MOD_DBG.row := by omega
  have hin' : ¬ (regionOf (a % 2 ^ 22) = .palette ∧ 0x200000 < a % 2 ^ 22 + n) := fun ⟨h1, h2⟩ => by
    have := hin h1
    omega
  intro p o
  have hon : (s.onTile p fun x => (x.debug c (a % 2 ^ 22) n data).tile) = s.onTile p fun _ => o.tile :=
    s.onTile_congr _ _ _ rfl
  rw [← hon]
  unfold State.bar4
  dsimp only
  rw [if_neg (by simp only [hready, hopen, hcol', hrow']; decide), show physOf _ _ _ = p from rfl, if_neg (by
    simp only [p, hclean, hregion, hin', Bool.or_eq_true, Bool.and_eq_true, decide_eq_true_eq]; decide), hon]
  rfl

theorem State.debugOpen_eq_true (s : State) (hd : s.get F.MOD_PROFILE.debug = 1) (ho : s.get F.MOD_DBG.open = 1) :
    s.debugOpen = true := by
  simp [State.debugOpen, hd, ho]

theorem State.debugOpen_eq_false (s : State) (ho : s.get F.MOD_DBG.open = 0) : s.debugOpen = false := by
  simp [State.debugOpen, ho]

end Sys2Proof.Machine
end

section
/-! The statements about host accesses, about the commands as a whole and about the state after reset, settled. -/

namespace Sys2Proof.Machine

/-- Settles O57: after reset every map is empty. -/
theorem resetCanonical : Obligations.ResetCanonical := ⟨rfl, rfl, rfl, rfl⟩

/-- Settles O37, by the lemmas about a read through BAR0, the latch of PERF_TADDR, the histograms that PERF_HCLR clears and
the debug aperture. -/
theorem hostReads : Obligations.HostReads := by
  intro s at_ c hwf
  refine ⟨fun b r hs hb hr he => ?pfRead, fun v b hv => ?vfRead, fun d j hs => ?dieCounter, fun f j hs => ?fabricCounter,
    fun t j p hp => ?tileCounter, fun v hs hr hc => ?perfTaddr, fun hs => ⟨?hclrHbm, ?hclrSync, ?hclrFlow⟩,
    fun b acc hacc => ⟨fun hready hd ho hcol hrow hclean hregion hin => ?aperture, fun ho hdata => ?closed⟩⟩
  case pfRead =>
    have hread := (s.hostRead_pf b.toNat 8 at_ hs).trans (by rw [s.moduleRead_plain _ _ r hb hr he])
    exact (exec_rcRead 0 b 8 at_ s).trans (congrArg _ hread)
  case vfRead => exact (exec_rcRead _ b 8 at_ s).trans (congrArg _ (s.hostRead_notLive _ _ _ _ (s.funcLive_vf v hv)))
  case dieCounter =>
    exact (exec_evenCounterRead _ at_ s).trans (congrArg _ (s.hostRead_even _ _ _ _ hs (evenCounter_die d j)))
  case fabricCounter =>
    exact (exec_evenCounterRead _ at_ s).trans (congrArg _ (s.hostRead_even _ _ _ _ hs (evenCounter_fabric f j)))
  case tileCounter =>
    rw [exec_evenCounterRead]
    simp [State.evenRead, State.withTile, hp, State.tileEvenRead]
  case perfTaddr =>
    obtain ⟨hdata, hkept, hframe⟩ := s.perfTaddr_latches v hwf hr hc
    exact ⟨_, (exec_perfTaddrWrite v s).trans (by rw [s.byHost_reached _ _ hs]),
      fun k hk => (hdata k (by omega)).trans (if_pos hk), hdata 8 (by omega), hkept, hframe⟩
  case hclrHbm =>
    have hexec := (exec_perfHclrHbm s).trans (congrArg _ (s.byHost_reached _ _ hs))
    obtain ⟨u, hu, hframe, hin, hout⟩ := clearHbmHist_clears.exec .perfHclrHbm s hexec
    exact ⟨u, hu, hframe, fun d k x hd hk h1 h2 => hin x ⟨d, hd, k, hk, h1, h2⟩,
      fun x hx => hout x fun ⟨d, hd, k, hk, h1, h2⟩ => by have := hx d k hd hk; omega⟩
  case hclrSync =>
    have hexec := (exec_perfHclrSync s).trans (congrArg _ (s.byHost_reached _ _ hs))
    obtain ⟨u, hu, hframe, hin, hout⟩ := clearSyncHist_clears.exec .perfHclrSync s hexec
    exact ⟨u, hu, hframe, fun d x hd h1 h2 => hin x ⟨d, hd, h1, h2⟩,
      fun x hx => hout x fun ⟨d, hd, h1, h2⟩ => by have := hx d hd; omega⟩
  case hclrFlow =>
    have hexec := (exec_perfHclrFlow s).trans (congrArg _ (s.byHost_reached _ _ hs))
    obtain ⟨u, hu, hframe, hin, hout⟩ := clearFlowHist_clears.exec .perfHclrFlow s hexec
    exact ⟨u, hu, hframe, fun f x hf h1 h2 => hin x ⟨f, hf, h1, h2⟩,
      fun x hx => hout x fun ⟨f, hf, h1, h2⟩ => by have := hx f hf; omega⟩
  case aperture =>
    have hreaches : s.DebugReaches b.toNat acc.size :=
      ⟨hready, s.debugOpen_eq_true hd ho, hcol, hrow, hclean, hregion, hin⟩
    rw [exec_bar4Access _ _ _ _ hacc, s.bar4_reaches _ _ c _ hreaches]
    refine ⟨fun hwrite => ?_, fun hread => ?_⟩
    · obtain ⟨d, hd⟩ := Option.isSome_iff_exists.mp hwrite
      rw [hd]
      rfl
    · rw [hread]
      rfl
  case closed =>
    obtain ⟨d, hd⟩ := Option.isSome_iff_exists.mp hdata
    rw [exec_bar4Access _ _ _ _ hacc, hd, s.bar4_refused _ _ _ _ (s.debugOpen_eq_false ho)]

/-- Settles O38: an access is of another size, ends at no register, reaches its register or the PF's MSI-X table, or is
of a VF that is not served, and each is a lemma about `State.hostWrite`. -/
theorem hostWrites : Obligations.HostWrites := by
  intro s a n v at_ cyc
  simp only [exec_registerWrite]
  refine ⟨fun h4 h8 => ?otherSize, fun hs ha hr => ?noRegister, fun hs ha => ?register, fun r hr hl lo hi hT hC => ?byType,
    fun c hc => ?vfWrite, fun hs ha hi => ?msixTable⟩
  case otherSize => exact congrArg _ (s.hostWrite_otherSize _ _ _ _ _ _ h4 h8)
  case noRegister =>
    exact congrArg _ ((s.hostWrite_pf _ _ _ _ hs ha).trans (s.moduleWrite_noRegister _ _ _ _ _ _ hr))
  case register => exact congrArg _ (s.hostWrite_pf _ _ _ _ hs ha)
  case byType =>
    have hperf : s.wrPerf a.toNat (BitVec.allOnes 64) v = s.plainWrite a.toNat (BitVec.allOnes 64) v := by
      simp [State.wrPerf, hT, hC]
    rw [s.moduleWrite_perf _ _ _ _ _ _ r hr lo hi, hperf, s.plainWrite_unlocked _ _ _ r hr hl]
  case vfWrite => exact congrArg _ (s.hostWrite_notLive _ _ _ _ _ _ _ (s.funcLive_vf c hc))
  case msixTable =>
    exact congrArg _ ((s.hostWrite_msixTable _ _ _ _ hs ha).trans (s.tableWrite_pf _ _ hi))

/-- Refutes O60: a NOP that carries another instruction's word (here ADD's, class 1 and op 0) is ill-formed (R75), and is
run all the same. -/
theorem not_commandsComplete : ¬ Obligations.CommandsComplete := by
  intro h
  obtain ⟨-, -, -, hrefuses⟩ := h (.nop ⟨0, 0, 0⟩ 0x0800_0000_0000_0000) State.reset
  have hrefused := hrefuses (by decide)
  rw [exec_nop] at hrefused
  cases hrefused

end Sys2Proof.Machine
end

section
/-! SUPPORT. What the commands of migrations, audits and the rolling scan come to in each of their cases (R25, R416,
R417, R419, R420, R425-R427). -/

namespace Sys2Proof.Machine

/-! The commands and what each runs. -/

theorem exec_migrationStart (d : Fin 4) (r : Fin 48) (s : State) :
    exec (.migrationStart d r) s = .next (s.migrationStart d r) := rfl

theorem exec_copyComplete (d : Fin 4) (r : Fin 48) (q : Fin 34) (at_ : Nat) (s : State) :
    exec (.copyComplete d r q at_) s = .next (s.copyComplete d r q at_) := rfl

theorem exec_migrationTimeout (d : Fin 4) (r : Fin 48) (q : Fin 34) (at_ : Nat) (s : State) :
    exec (.migrationTimeout d r q at_) s = .next (s.migrationTimeout d r q at_) := rfl

theorem exec_auditStart (d : Fin 4) (r : Fin 48) (at_ : Nat) (s : State) :
    exec (.auditStart d r at_) s = .next (s.auditStart d r at_) := rfl

theorem exec_rollingScanRow (d : Fin 4) (at_ : Nat) (s : State) :
    exec (.rollingScanRow d at_) s = .next (s.scanNextRow d at_) := rfl

theorem exec_scanResult (p : PhysTile) (pass : Bool) (at_ : Nat) (s : State) :
    exec (.scanResult p pass at_) s = .next (s.scanResult p.die p.row p.col pass at_) := rfl

/-! Migrations start (R25, R416). -/

/-- The migration of a purpose that has waited longest in a row. -/
def State.firstWant (s : State) (d r k : Nat) : Option Mig :=
  (s.rep.wants.filter fun x => x.die == d && x.row == r).find? fun x => x.purpose == k

theorem State.migrationStart_eq (s : State) (d r : Nat) : s.migrationStart d r =
    match s.freeSpare d r, s.firstWant d r 0, s.firstWant d r 2, s.firstWant d r 1 with
    | some q, some x, _, _ => (s.dropWant x).startMig { x with q := q }
    | _, _, some x, _ => (s.dropWant x).startMig { x with q := x.log }
    | some q, none, none, some x => (s.dropWant x).startMig { x with q := q }
    | _, _, _, _ => s := rfl

section
variable {s : State} {d r q : Nat} {x : Mig}

/-- A retirement takes the free spare. -/
theorem State.migrationStart_retirement (hq : s.freeSpare d r = some q) (h0 : s.firstWant d r 0 = some x) :
    s.migrationStart d r = (s.dropWant x).startMig { x with q := q } := by
  rw [State.migrationStart_eq, hq, h0]

/-- A return needs no spare: it goes ahead of a cover, and of a retirement that finds no spare free. -/
theorem State.migrationStart_return (h : s.freeSpare d r = none ∨ s.firstWant d r 0 = none)
    (h2 : s.firstWant d r 2 = some x) :
    s.migrationStart d r = (s.dropWant x).startMig { x with q := x.log } := by
  rw [State.migrationStart_eq, h2]
  rcases h with h | h
  · rw [h]
  · rw [h]
    cases s.freeSpare d r <;> rfl

/-- A cover takes the free spare that nothing else of its row waits for. -/
theorem State.migrationStart_cover (hq : s.freeSpare d r = some q) (h0 : s.firstWant d r 0 = none)
    (h2 : s.firstWant d r 2 = none) (h1 : s.firstWant d r 1 = some x) :
    s.migrationStart d r = (s.dropWant x).startMig { x with q := q } := by
  rw [State.migrationStart_eq, hq, h0, h2, h1]

end

/-! Copies end, and migrations run out of time (R417, R419). -/

/-- The migration onto a column is marked as copied, its rows are counted, and the column takes the copy. -/
theorem State.copyComplete_of_find (s : State) (d r q at_ : Nat) (x : Mig)
    (h : ((s.reach at_).rep.migs.find? fun x => x.die == d && x.row == r && x.q == q && x.copied.isNone) = some x) :
    let u := s.reach at_
    let v : State := { u with rep := { u.rep with
      migs := u.rep.migs.map fun y => if y = x then { y with copied := some at_ } else y } }
    let w := (v.dieEvent d 0x4D 32768).onTileLow (physOf d r x.p) TW.copyReads
    s.copyComplete d r q at_ = w.mapTile (physOf d r q) fun t => (w.tile (physOf d r x.p)).copiedTo t := by
  simp only [State.copyComplete, h]

/-- Whether a migration was copied a second ago. -/
def Mig.expired (x : Mig) (at_ : Nat) : Bool := match x.copied with
  | some c => decide (c + fcMs 1000 ≤ at_)
  | none => false

theorem Mig.expired_of_copied {x : Mig} {c at_ : Nat} (hc : x.copied = some c) (ha : c + fcMs 1000 ≤ at_) :
    x.expired at_ = true := by
  simp [Mig.expired, hc, ha]

/-- R419: what follows the end of an abandoned migration, by its purpose. -/
def State.abandoned (s : State) (d r : Nat) (x : Mig) (at_ : Nat) : State := match x.purpose with
  | 0 => { s with rep := { s.rep with deferred := s.rep.deferred ++ [x] } }
  | 1 => s.scanLeave d r x.p at_ false
  | 2 => s.want (Mig.request d r 2 x.p x.log)
  | _ => s.endAudits (physOf d r x.p)

section
variable (s : State) (d r : Nat) {x : Mig} (at_ : Nat)

theorem State.abandoned_retirement (h : x.purpose = 0) : s.abandoned d r x at_ =
    { s with rep := { s.rep with deferred := s.rep.deferred ++ [x] } } := by
  simp only [State.abandoned, h]

theorem State.abandoned_cover (h : x.purpose = 1) : s.abandoned d r x at_ = s.scanLeave d r x.p at_ false := by
  simp only [State.abandoned, h]

theorem State.abandoned_return (h : x.purpose = 2) :
    s.abandoned d r x at_ = s.want (Mig.request d r 2 x.p x.log) := by
  simp only [State.abandoned, h]

theorem State.abandoned_audit (h : x.purpose = 3) : s.abandoned d r x at_ = s.endAudits (physOf d r x.p) := by
  simp only [State.abandoned, h]

end

theorem State.migrationTimeout_eq (s : State) (d r q at_ : Nat) : s.migrationTimeout d r q at_ =
    match (s.reach at_).rep.migs.find? fun x => x.die == d && x.row == r && x.q == q && x.expired at_ with
    | none => s.reach at_
    | some x => (((s.reach at_).dropMig x).errc (dieErrc d 0x32) 1).abandoned d r x at_ := rfl

/-- The only migration in progress is abandoned when it has expired. -/
theorem State.migrationTimeout_only (s : State) (at_ : Nat) (x : Mig) (hm : (s.reach at_).rep.migs = [x])
    (hx : x.expired at_ = true) : s.migrationTimeout x.die x.row x.q at_ =
      (((s.reach at_).dropMig x).errc (dieErrc x.die 0x32) 1).abandoned x.die x.row x at_ := by
  have hfind : ([x].find? fun y => y.die == x.die && y.row == x.row && y.q == x.q && y.expired at_) = some x := by
    simp [hx]
  rw [State.migrationTimeout_eq, hm, hfind]

/-! Audits start (R420). -/

/-- An audit starts when the row's gap is over, a spare stays free beside what waits for spares, and a column runs. -/
theorem State.auditStart_begins (s : State) (d r at_ q l : Nat) :
    let u := s.reach at_
    u.get (F.REP_AUD_CTL.en d) = 1 → (u.audit d r).phase = 0 →
    (u.audit d r).ended + fcMs (u.get (F.REP_AUD_CTL.gap_ms d)) ≤ at_ → u.spareWants d r 1 < u.freeSpares d r →
    ([32, 33].find? fun q => u.spareFree d r q && !u.suspected (physOf d r q)) = some q →
    u.nextTarget d r (u.audit d r).target = some l → s.auditStart d r at_ = u.beginAudit d r l q none := by
  intro u hen hphase hgap hfree hspare htarget
  have hgo : (u.get (F.REP_AUD_CTL.en d) = 0 || (u.audit d r).phase ≠ 0 ||
      at_ < (u.audit d r).ended + fcMs (u.get (F.REP_AUD_CTL.gap_ms d))) = false := by
    simp [hen, hphase, hgap]
  unfold State.auditStart
  simp only [u] at hgo hfree hspare htarget ⊢
  rw [hgo, if_neg Bool.false_ne_true, if_neg (Nat.not_le.mpr hfree), hspare, htarget]

/-! The rolling scan moves to a row (R425). -/

/-- The columns that the rolling scan visits in a row: those not retired, and none where no spare serves the scan. -/
def State.scanTodo (s : State) (d r : Nat) : List Nat :=
  if [32, 33].any fun q => s.spareFree d r q || s.auditing d r q then
    (List.range 34).filter fun c => !mapRetired (s.mapNext d r) c
  else []

theorem State.scanTodo_of_spare (s : State) (d r : Nat)
    (h : ([32, 33].any fun q => s.spareFree d r q || s.auditing d r q) = true) :
    s.scanTodo d r = (List.range 34).filter fun c => !mapRetired (s.mapNext d r) c := if_pos h

theorem State.scanTodo_of_noSpare (s : State) (d r : Nat)
    (h : ([32, 33].any fun q => s.spareFree d r q || s.auditing d r q) = false) : s.scanTodo d r = [] :=
  if_neg (Bool.eq_false_iff.mp h)

/-- The scan enters its next row when the gap is over and no tile of it is under Gesso or waits for it. -/
theorem State.scanNextRow_enters (s : State) (d at_ : Nat) (l : List Nat) :
    let u := s.reach at_
    let x := u.scanOf d
    let v := (u.put (F.REP_SCAN_STATUS.row d) x.next).put (F.REP_SCAN_STATUS.active d) 1
    u.get (F.REP_SCAN_CTL.en d) = 1 → u.get (F.REP_SCAN_STATUS.active d) = 0 →
    x.ended + fcMs (u.get (F.REP_SCAN_CTL.gap_ms d)) ≤ at_ → u.rowGesso d x.next = false → u.erasing = false →
    v.scanTodo d x.next = l →
    s.scanNextRow d at_ = (v.setScan d { x with todo := l, cur := [] }).scanAdvance d at_ 40 := by
  intro u x v hen hactive hgap hgesso herasing htodo
  have hgo : (u.get (F.REP_SCAN_CTL.en d) = 0 || u.get (F.REP_SCAN_STATUS.active d) = 1 ||
      at_ < x.ended + fcMs (u.get (F.REP_SCAN_CTL.gap_ms d)) || u.rowGesso d x.next || u.erasing) = false := by
    simp [hen, hactive, hgap, hgesso, herasing]
  rw [← htodo]
  exact if_neg (Bool.eq_false_iff.mp hgo)

/-! Scan results (R426, R427). -/

theorem State.scanResult_rolling (s : State) (d r col at_ : Nat) (pass : Bool) (y : ScanCol) :
    let u := s.reach at_
    ((u.scanOf d).cur.find? fun y => y.col == col && !y.waits) = some y →
    u.scanRow d = r → u.get (F.REP_SCAN_STATUS.active d) = 1 →
    s.scanResult d r col pass at_ = (u.rollingResult d r y pass at_).showUnfused d := by
  intro u hcol hrow hactive
  simp only [u] at hcol hrow hactive ⊢
  simp [State.scanResult, hcol, hrow, hactive]

theorem State.scanResult_provisional (s : State) (d r col at_ : Nat) (pass : Bool) :
    let u := s.reach at_
    ((u.scanOf d).cur.find? fun y => y.col == col && !y.waits) = none →
    (u.rep.vol.any fun x => x.die == d && x.row == r && x.col == col && x.prov) = true →
    (u.tile (physOf d r col)).gesso = false →
    s.scanResult d r col pass at_ =
      ((u.mapTile (physOf d r col) Tile.scanned).provResult (physOf d r col) pass).showUnfused d := by
  intro u hcol hprov hgesso
  simp only [u] at hcol hprov hgesso ⊢
  simp only [State.scanResult, hcol, hprov, hgesso, Bool.not_false, Bool.and_self, if_true]

end Sys2Proof.Machine
end

section
/-! The statement about migrations, audits and the rolling scan, settled. -/

namespace Sys2Proof.Machine

/-- Settles O52: each command, in each case that the statement gives, is a lemma about the operation that it runs. -/
theorem migrationsAndScan : Obligations.MigrationsAndScan := by
  intro s d r a
  simp only [exec_migrationStart, exec_copyComplete, exec_migrationTimeout, exec_auditStart, exec_rollingScanRow,
    exec_scanResult]
  refine ⟨⟨fun q x hq h0 => ?retirement, fun x h h2 => ?giveBack, fun q x hq h0 h2 h1 => ?cover⟩,
    fun q x hx => ?copied, fun q x c hm hd hr hq hc ha => ?timeout,
    fun q l hen hphase hgap hfree hspare htarget => ?audit,
    fun hen hactive hgap hgesso herasing => ⟨fun hspare => ?scanned, fun hspare => ?skipped⟩,
    fun p pass => ⟨fun y hcol hrow hactive => ?rolling, fun hcol hprov hgesso => ?provisional⟩⟩
  case retirement => exact congrArg _ (State.migrationStart_retirement hq h0)
  case giveBack => exact congrArg _ (State.migrationStart_return h h2)
  case cover => exact congrArg _ (State.migrationStart_cover hq h0 h2 h1)
  case copied => exact congrArg _ (s.copyComplete_of_find d r q a x hx)
  case timeout =>
    rw [← hd, ← hr, ← hq, s.migrationTimeout_only a x hm (Mig.expired_of_copied hc ha)]
    exact ⟨fun h => congrArg _ (State.abandoned_retirement _ _ _ a h),
      fun h => congrArg _ (State.abandoned_cover _ _ _ a h), fun h => congrArg _ (State.abandoned_return _ _ _ a h),
      fun h => congrArg _ (State.abandoned_audit _ _ _ a h)⟩
  case audit => exact congrArg _ (s.auditStart_begins d r a q l hen hphase hgap hfree hspare htarget)
  case scanned =>
    exact congrArg _ (s.scanNextRow_enters d a _ hen hactive hgap hgesso herasing
      (State.scanTodo_of_spare _ _ _ hspare))
  case skipped =>
    exact congrArg _ (s.scanNextRow_enters d a _ hen hactive hgap hgesso herasing
      (State.scanTodo_of_noSpare _ _ _ hspare))
  case rolling => exact congrArg _ (s.scanResult_rolling p.die p.row p.col a pass y hcol hrow hactive)
  case provisional => exact congrArg _ (s.scanResult_provisional p.die p.row p.col a pass hcol hprov hgesso)

end Sys2Proof.Machine
end

section
/-! SUPPORT. The instructions that stop a tile: the die barrier, tick-wait and END (R36, R39, R76). -/

namespace Sys2Proof.Machine

section
variable {s : State} {t : TileId} {p : Nat} (w : IW) (h : s.phys t.gid = some p)
include h

/-- What a command of a served tile's column comes to. -/
theorem State.withTile_served (k : State → Nat → State) : s.withTile t k = k s p := by
  unfold State.withTile
  rw [h]

theorem exec_bar :
    exec (.bar t w) s = .next (((s.runTile t fun x => x.bar w).qualify t.die).auditCompare p) := by
  rw [s.runTile_served t p _ h]
  exact congrArg _ (State.withTile_served h _)

theorem exec_tickwait : exec (.tickwait t w) s = .next ((s.runTile t fun x => x.tickwait w).auditCompare p) := by
  rw [s.runTile_served t p _ h]
  exact congrArg _ (State.withTile_served h _)

theorem exec_endTile :
    exec (.endTile t w) s = .next (((s.runTile t fun x => x.endTile w).qualify t.die).auditCompare p) := by
  rw [s.runTile_served t p _ h]
  exact congrArg _ (State.withTile_served h _)

end

/-- An arrival that can issue does so in `c`: its effect `f`, which reads no more than the program side, is all that
becomes of the tile's program side, and the Palette is kept. -/
theorem State.Issues.arrives {s : State} {t : TileId} {p c : Nat} {w : IW} {illegal : Bool} {qs : List Queue}
    (h : s.Issues t p w (arriveShape illegal qs) c) (hs : s.tilesWf = true) (f : Nat → Tile → Tile)
    (hside : ∀ k a b, Tile.side a = Tile.side b → (f k a).side = (f k b).side)
    (hpal : ∀ k a, (f k a).pal = a.pal ∧ (f k a).palPois = a.palPois) :
    let v := s.runTile t fun x => x.issue w (arriveShape illegal qs) fun k y => y.map (f k)
    v.PaletteKept s p ∧ v.After s p c c (f c) := by
  have hcheck : ∀ a b : Tile, a.side = b.side → (arriveShape illegal qs).check a = (arriveShape illegal qs).check b :=
    fun _ _ _ => rfl
  refine ⟨h.kept hs hcheck _ (fun k z hz => hz.is.quiet) fun k z b _ hcalm => ?_, ?_⟩
  · obtain ⟨hp, hq⟩ := hpal k z.t
    exact ⟨hp.trans hcalm.tile.pal, hq.trans hcalm.tile.pois⟩
  · obtain ⟨k, -, hk, hafter⟩ := h.after hs hcheck (fun k y => y.map (f k)) f fun k z hz =>
      ⟨hz.is.quiet, hside k _ _ hz.is.tile.eq⟩
    obtain rfl := hk rfl
    exact hafter

theorem Tile.side_xlen {a b : Tile} (h : a.side = b.side) : a.xlen = b.xlen := by
  simp only [Tile.side, ProgramSide.mk.injEq] at h
  simp [h]

/-- The program side of a tile that arrives, with its exchange length. -/
theorem Tile.arrive_side {a b : Tile} (h : a.side = b.side) (r : RunState) (k : Nat) {n m : Nat} (hn : n = m) :
    ({ a with run := r, arrived := k, xlen := n } : Tile).side =
      ({ b with run := r, arrived := k, xlen := m } : Tile).side := by
  simp only [Tile.side, ProgramSide.mk.injEq] at h ⊢
  simp [h, hn]

/-- Settles O9: each is an arrival that issues. -/
theorem arrivalsStop : Obligations.ArrivalsStop := by
  intro s t p w c hs
  refine ⟨fun h => ⟨_, exec_bar w h.served, h.arrives hs
      (fun k a => { a.advance with run := .atBarrier, arrived := k, xlen := w.f 0 16 }) (fun k a b hab => ?bar)
      fun _ a => a.advance_pal⟩,
    fun h => ⟨⟨_, exec_tickwait w h.served, h.arrives hs
      (fun k a => { a.advance with run := .atTickwait, arrived := k }) (fun k a b hab => ?tickwait)
      fun _ a => a.advance_pal⟩,
    ⟨_, exec_endTile w h.served, h.arrives hs
      (fun k a => { a with run := .ended, arrived := k }) (fun k a b hab => ?endTile) fun _ _ => ⟨rfl, rfl⟩⟩⟩⟩
  case bar => exact Tile.arrive_side (Tile.advance_side hab) _ _ rfl
  case tickwait =>
    have hside := Tile.advance_side hab
    exact Tile.arrive_side hside _ _ (Tile.side_xlen hside)
  case endTile => exact Tile.arrive_side hab _ _ (Tile.side_xlen hab)

end Sys2Proof.Machine
end

section
/-! SUPPORT. What the operations of the tick logic are written with: the roles, and the recovery sequencer that is off
(R54-R63, R372). -/

namespace Sys2Proof.Machine

theorem State.isMaster_iff (s : State) : s.isMaster = true ↔ s.get F.TICK_ROLE.role_now = 2 := by simp [State.isMaster]

theorem State.isMaster_eq_false (s : State) : s.isMaster = false ↔ s.get F.TICK_ROLE.role_now ≠ 2 := by
  simp [State.isMaster]

theorem State.isStandby_iff (s : State) : s.isStandby = true ↔ s.get F.TICK_ROLE.role_now = 1 := by simp [State.isStandby]

theorem State.isStandby_eq_false (s : State) : s.isStandby = false ↔ s.get F.TICK_ROLE.role_now ≠ 1 := by
  simp [State.isStandby]

/-- A module whose recovery sequencer is off does not coordinate. -/
theorem State.coordOn_eq_false {s : State} (h : s.noCoord) : s.coordOn = false := by
  simp [State.coordOn, State.rcvOn, show s.get F.RCV_CTL.en = 0 from h]

theorem State.showCoord_noCoord {s : State} (h : s.noCoord) (at_ : Nat) : s.showCoord at_ = s.uncoordinated := by
  simp only [State.showCoord, State.coordOn_eq_false h]
  rfl

theorem State.coordRecover_noCoord {s : State} (h : s.noCoord) (at_ : Nat) : s.coordRecover at_ = s := by
  simp [State.coordRecover, State.coordOn_eq_false h]

theorem State.sorted_of_regsWf {s : State} (h : s.regsWf = true) : SMap.sorted s.regs = true := SMap.wf_sorted _ _ h

end Sys2Proof.Machine
end

section
/-! SUPPORT. What host writes of the tick logic's registers come to (R41, R56, R60, R63). -/

namespace Sys2Proof.Machine

/-! The commands and what each runs. -/

section
variable {s : State}

theorem exec_tickNextWrite (v : Word) (h : s.reached 0x10030 = true) :
    exec (.tickNextWrite v) s = .next (s.tickNextWrite v.toNat) := congrArg _ (s.byHost_reached _ _ h)

theorem exec_tickPeriodWrite (v : BitVec 24) (h : s.reached 0x10010 = true) :
    exec (.tickPeriodWrite v) s = .next (s.periodWrite v.toNat) := congrArg _ (s.byHost_reached _ _ h)

theorem exec_tickHoldLimitWrite (v : BitVec 24) (h : s.reached 0x10018 = true) :
    exec (.tickHoldLimitWrite v) s = .next (s.limitWrite v.toNat) := congrArg _ (s.byHost_reached _ _ h)

theorem exec_tickCtxBindWrite (v : Word) (h : s.reached 0x10050 = true) :
    exec (.tickCtxBindWrite v) s = .next (s.put F.TICK_CTX_BIND.bind v.toNat) := congrArg _ (s.byHost_reached _ _ h)

theorem exec_roleCfgWrite (v : BitVec 2) (at_ : Nat) (h : s.reached 0x10000 = true) :
    exec (.roleCfgWrite v at_) s = .next (s.roleCfgWrite v.toNat at_) := congrArg _ (s.byHost_reached _ _ h)

theorem exec_pingNow (at_ : Nat) (h : s.reached 0x10008 = true) :
    exec (.pingNow at_) s = .next (s.sendPing at_) := congrArg _ (s.byHost_reached _ _ h)

theorem exec_run (v : Bool) (at_ : Nat) (h : s.reached 0x10008 = true) :
    exec (.run v at_) s = .next (s.runWrite v.toNat at_) := congrArg _ (s.byHost_reached _ _ h)

end

/-! TICK_NEXT, TICK_PERIOD and TICK_HOLD_LIMIT (R56, R60). -/

theorem State.tickNextWrite_eq (s : State) (v : Nat) : s.tickNextWrite v =
    if s.get F.TICK_ROLE.role_now = 2 ∧ s.get F.TICK_STATUS.stopped = 1 then s.put F.TICK_NEXT.next v
    else s.put F.TICK_STATUS.cfg_reject 1 := by
  simp [State.tickNextWrite, State.isMaster, State.tickReject]

theorem State.periodWrite_eq (s : State) (v : BitVec 24) : s.periodWrite v.toNat =
    if 25000 ≤ v.toNat ∧ v.toNat ≤ 12500000 then s.put F.TICK_PERIOD.period_set v.toNat
    else s.put F.TICK_STATUS.cfg_reject 1 := by
  simp [State.periodWrite, periodOk, State.tickReject, Nat.mod_eq_of_lt v.isLt]

theorem State.limitWrite_eq (s : State) (v : BitVec 24) : s.limitWrite v.toNat =
    if v.toNat ≤ 12500000 then s.put F.TICK_HOLD_LIMIT.limit_set v.toNat else s.put F.TICK_STATUS.cfg_reject 1 := by
  simp [State.limitWrite, limitOk, State.tickReject, Nat.mod_eq_of_lt v.isLt]

/-! TICK_ROLE.role_cfg (R63). -/

section
variable {s : State} (at_ : Nat)

theorem State.roleCfgWrite_locked (v : Nat) (h : s.locked 5 = true) : s.roleCfgWrite v at_ = s.errc 0 1 := if_pos h

theorem State.roleCfgWrite_reserved (h : s.locked 5 = false) :
    s.roleCfgWrite 3 at_ = s.put F.TICK_STATUS.cfg_reject 1 := by
  simp [State.roleCfgWrite, h, State.tickReject]

theorem State.roleCfgWrite_same {v : BitVec 2} (h : s.locked 5 = false) (h3 : v.toNat ≠ 3)
    (hv : v.toNat = s.get F.TICK_ROLE.role_cfg) : s.roleCfgWrite v.toNat at_ = s := by
  simp [State.roleCfgWrite, h, Nat.mod_eq_of_lt v.isLt, h3, ← hv]

/-- A module that is not the master, and has claimed no role yet, becomes a member. -/
theorem State.roleCfgWrite_changes {v : BitVec 2} (h : s.locked 5 = false) (h3 : v.toNat ≠ 3)
    (hv : v.toNat ≠ s.get F.TICK_ROLE.role_cfg) (hwf : s.regsWf = true) (hr : s.get F.TICK_ROLE.role_now ≠ 2)
    (ht : s.tick.trained = false) (hc : s.noCoord) : s.roleCfgWrite v.toNat at_ =
      (((s.reach at_).put F.TICK_ROLE.role_cfg v.toNat).clearHolds.put F.TICK_ROLE.role_now 0).uncoordinated := by
  have hrole : ((s.reach at_).put F.TICK_ROLE.role_cfg v.toNat).isMaster = false := by
    rw [State.isMaster_eq_false, State.get_put_off _ _ _ _ (State.sorted_of_regsWf (State.reach_wf at_ hwf)) (by decide),
      s.reach_get at_ _ (by decide)]
    exact hr
  have hcoord : (((s.reach at_).put F.TICK_ROLE.role_cfg v.toNat).clearHolds.put F.TICK_ROLE.role_now 0).noCoord := by
    simpa (disch := decide) only [State.noCoord, State.get_put_other, State.clearHolds_get, State.reach_get] using hc
  rw [← State.showCoord_noCoord hcoord at_]
  simp [State.roleCfgWrite, h, Nat.mod_eq_of_lt v.isLt, h3, hv, hrole, ht]

/-! TICK_CTRL (R56, R59). -/

theorem State.sendPing_sends (h : s.get F.TICK_PEERS.master_valid = 1 ∨ s.get F.TICK_ROLE.role_now = 2) :
    s.sendPing at_ =
      s.tickTo { kind := 0xA, number := s.get F.TICK_NUMBER.number, stamp := at_ % 2 ^ 32 } s.masterNode := by
  refine if_neg ?_
  rcases h with h | h
  · simp [h]
  · simp [s.isMaster_iff.mpr h]

theorem State.sendPing_unknown (hv : s.get F.TICK_PEERS.master_valid = 0) (hr : s.get F.TICK_ROLE.role_now ≠ 2) :
    s.sendPing at_ = s := by
  simp [State.sendPing, hv, s.isMaster_eq_false.mpr hr]

theorem State.runWrite_eq (v : Bool) : s.runWrite v.toNat at_ =
    let u := (s.reach at_).put F.TICK_CTRL.run v.toNat
    if s.get F.TICK_ROLE.role_now ≠ 2 then u
    else if s.get F.TICK_STATUS.stopped = 1 then if v then u.emitTick at_ else u
    else u.mapTick fun t => { t with stopPending := !v } := by
  have hv : v.toNat % 2 = v.toNat := by cases v <;> rfl
  simp (disch := decide) only [State.runWrite, State.isMaster, hv, State.get_put_other, State.reach_get]
  cases v <;> simp

end

end Sys2Proof.Machine
end

section
/-! The statement about host writes of the tick logic's registers, settled. -/

namespace Sys2Proof.Machine

/-- Settles O11, by the lemmas about the operation that each write runs. -/
theorem tickRegisterWrites : Obligations.TickRegisterWrites := by
  intro s
  refine ⟨fun v h => ?next, fun v h => ?period, fun v h => ?limit, fun v h => exec_tickCtxBindWrite v h,
    fun v a hs => ⟨fun hl => ?locked, fun hl hv => ?reserved, fun hl h3 hv => ?same,
      fun hl h3 hv hwf hr ht hc => ?changes⟩,
    fun a hs => ⟨fun h => ?ping, fun hv hr => ?unknown⟩,
    fun v a hs => ⟨fun hr => ?member, fun hr h0 => ?emitting, fun hr h1 hv => ?stopped⟩⟩
  case next => rw [exec_tickNextWrite v h, State.tickNextWrite_eq]
  case period => rw [exec_tickPeriodWrite v h, State.periodWrite_eq]
  case limit => rw [exec_tickHoldLimitWrite v h, State.limitWrite_eq]
  case locked => rw [exec_roleCfgWrite v a hs, State.roleCfgWrite_locked a _ hl]
  case reserved =>
    subst hv
    exact (exec_roleCfgWrite 3 a hs).trans (congrArg _ (State.roleCfgWrite_reserved a hl))
  case same => rw [exec_roleCfgWrite v a hs, State.roleCfgWrite_same a hl (BitVec.toNat_ne.mp h3) hv]
  case changes =>
    rw [exec_roleCfgWrite v a hs, State.roleCfgWrite_changes a hl (BitVec.toNat_ne.mp h3) hv hwf hr ht hc]
  case ping => rw [exec_pingNow a hs, State.sendPing_sends a h]
  case unknown => rw [exec_pingNow a hs, State.sendPing_unknown a hv hr]
  case member =>
    rw [exec_run v a hs, State.runWrite_eq]
    exact congrArg _ (if_pos hr)
  case emitting =>
    rw [exec_run v a hs, State.runWrite_eq]
    simp [hr, h0]
  case stopped =>
    rw [exec_run v a hs, State.runWrite_eq]
    simp [hr, h1, hv]

end Sys2Proof.Machine
end

section
/-! SUPPORT. The emission of a tick that waited for no hold (R45, R49, R56). -/

namespace Sys2Proof.Machine

theorem exec_scheduledTime (s : State) (at_ : Nat) : exec (.scheduledTime at_) s = .next (s.scheduledTime at_) := rfl

/-- A master's emission of tick `n` with run flag `r`, at once at `at_`. -/
theorem State.emitTick_undelayed {u : State} {n p l r tree : Nat} (at_ : Nat) (hd : u.tick.delayed = false)
    (hn : u.get F.TICK_NEXT.next = n) (hp : u.get F.TICK_PERIOD.period_set = p)
    (hl : u.get F.TICK_HOLD_LIMIT.limit_set = l) (hr : u.get F.TICK_CTRL.run = r)
    (ht : u.tick.tree = tree) : u.emitTick at_ =
      (((u.put F.TICK_NEXT.next (n + 1)).put F.TICK_STATUS.stopped 0).clearHolds.mapTick fun t =>
        { t with emitted := at_, ePeriod := p, eLimit := l, delayed := false, frozen := false, halted := false,
                 lastOut := n, known := noteTick n t.known, stopPending := decide (r = 0) }).tickAllOwn
        { kind := 1, run := r, number := n, period := p, limit := l } tree := by
  subst hn hp hl hr ht
  simp (disch := decide) only [State.emitTick, hd, Bool.false_eq_true, if_false, State.mapTick_get, State.clearHolds_get,
    State.get_put_other]
  rfl

/-- SCHEDULED_TIME at a master that emits, with an empty hold set. -/
theorem State.scheduledTime_emits {s : State} {at_ : Nat} (hm : s.get F.TICK_ROLE.role_now = 2)
    (h0 : s.get F.TICK_STATUS.stopped = 0) (hh : s.tick.halted = false) (hp : s.tick.stopPending = false)
    (hd : s.tick.delayed = false) (ha : s.tick.emitted + s.tick.ePeriod ≤ at_) (he : s.holdsEmpty = true) :
    s.scheduledTime at_ = (s.reach at_).emitTick at_ := by
  simp [State.scheduledTime, s.isMaster_iff.mpr hm, h0, hh, hd, State.scheduled, Nat.not_lt.mpr ha, hp,
    State.reach_holdsEmpty, he]

/-- A write of run 1 at a master whose emission is stopped. -/
theorem State.runWrite_starts {s : State} (at_ : Nat) (hm : s.get F.TICK_ROLE.role_now = 2)
    (h1 : s.get F.TICK_STATUS.stopped = 1) :
    s.runWrite true.toNat at_ = ((s.reach at_).put F.TICK_CTRL.run 1).emitTick at_ := by
  rw [State.runWrite_eq]
  simp [hm, h1]

/-- Settles O12: either command emits the next tick, on the state with its clock, and TICK_CTRL.run, set. -/
theorem tickEmitted : Obligations.TickEmitted := by
  intro s a hwf hm hd emitted
  refine ⟨fun h0 hh hp ha he => ?scheduled, fun h1 hs => ?started⟩
  case scheduled =>
    have hget (f : RF) (hf : offFab f.addr = true) : (s.reach a).get f = s.get f := s.reach_get a f hf
    rw [exec_scheduledTime, State.scheduledTime_emits hm h0 hh hp hd ha he]
    exact congrArg _ (State.emitTick_undelayed (u := s.reach a) a hd (hget _ (by decide)) (hget _ (by decide))
      (hget _ (by decide)) (hget _ (by decide)) rfl)
  case started =>
    have hget (f : RF) (ha : f.addr ≠ 0x10008) (hf : offFab f.addr = true) :
        ((s.reach a).put F.TICK_CTRL.run 1).get f = s.get f :=
      (State.get_put_other _ _ _ _ ha).trans (s.reach_get a f hf)
    have hrun : ((s.reach a).put F.TICK_CTRL.run 1).get F.TICK_CTRL.run = 1 :=
      State.get_put_same _ _ _ (State.sorted_of_regsWf (State.reach_wf a hwf)) (by decide)
    rw [exec_run true a hs, State.runWrite_starts a hm h1]
    exact congrArg _ (State.emitTick_undelayed (u := (s.reach a).put F.TICK_CTRL.run 1) a hd
      (hget _ (by decide) (by decide)) (hget _ (by decide) (by decide)) (hget _ (by decide) (by decide)) hrun rfl)

end Sys2Proof.Machine
end

section
/-! SUPPORT. Readiness, holds and the messages about them, at a member and at the master (R40, R46-R50). -/

namespace Sys2Proof.Machine

/-! The commands and what each runs. -/

theorem exec_moduleReady (s : State) (at_ : Nat) : exec (.moduleReady at_) s = .next (s.moduleReadyAt at_) := rfl
theorem exec_holdDeadline (s : State) (at_ : Nat) : exec (.holdDeadline at_) s = .next (s.holdDeadline at_) := rfl
theorem exec_hold (s : State) (at_ : Nat) : exec (.hold at_) s = .next (s.holdIn at_) := rfl
theorem exec_release (s : State) (at_ : Nat) : exec (.release at_) s = .next (s.releaseIn at_) := rfl
theorem exec_holdLimitExpiry (s : State) (at_ : Nat) : exec (.holdLimitExpiry at_) s = .next (s.holdExpiry at_) := rfl
theorem exec_overrun (s : State) (at_ : Nat) : exec (.overrun at_) s = .next (s.overrunIn at_) := rfl
theorem exec_recover (s : State) (at_ : Nat) : exec (.recover at_) s = .next (s.recover at_) := rfl

/-! A message that a unit takes out of the inbox (R266). -/

section
variable {s u : State} {x : Flit} {k : Nat}

theorem State.freeBuf_kept (s : State) (f : Nat) (i : Option Nat) (vc : Nat) :
    (s.freeBuf f i vc).regs = s.regs ∧ (s.freeBuf f i vc).tick = s.tick := by
  unfold State.freeBuf
  split
  · exact ⟨rfl, rfl⟩
  · split
    · exact ⟨rfl, rfl⟩
    · split <;> exact ⟨rfl, rfl⟩

/-- The message leaves the registers and the tick logic as they are. -/
theorem State.popTick_kept (h : s.popTick k = some (x, u)) : u.regs = s.regs ∧ u.tick = s.tick := by
  obtain ⟨q, -, hq⟩ := Option.map_eq_some_iff.mp h
  obtain ⟨-, rfl⟩ := Prod.mk.inj hq
  exact State.freeBuf_kept _ _ _ _

theorem State.popTick_get (h : s.popTick k = some (x, u)) (f : RF) : u.get f = s.get f := by
  unfold State.get
  rw [(State.popTick_kept h).1]

theorem State.popTick_node (h : s.popTick k = some (x, u)) : u.node = s.node := State.popTick_get h _

theorem State.popTick_reach_get (h : s.popTick k = some (x, u)) (at_ : Nat) (f : RF) (hf : offFab f.addr = true) :
    (u.reach at_).get f = s.get f := (u.reach_get at_ f hf).trans (State.popTick_get h f)

theorem State.popTick_tick (h : s.popTick k = some (x, u)) : u.tick = s.tick := (State.popTick_kept h).2

end

/-! Readiness (R40, R46, R544). -/

/-- A module that holds nothing has no hold to end when its readiness is seen. -/
theorem State.moduleReadyAt_free {s : State} (at_ : Nat) (hwf : s.regsWf = true) (h : s.get F.TICK_STATUS.holding = 0) :
    s.moduleReadyAt at_ = (s.reach at_).refreshReady := by
  have hsorted := State.sorted_of_regsWf (State.reach_wf at_ hwf)
  have hget : (s.reach at_).refreshReady.get F.TICK_STATUS.holding = 0 := by
    unfold State.refreshReady State.showReady
    rw [State.get_put_off _ _ _ _ (State.put_sorted _ _ hsorted) (by decide), State.get_put_other _ _ _ _ (by decide),
      s.reach_get at_ _ (by decide), h]
  simp [State.moduleReadyAt, State.checkRelease, hget]

/-- HOLD_DEADLINE at a module that is not ready and is not the master: it sends HOLD. -/
theorem State.holdDeadline_sends {s : State} {at_ : Nat} (he : s.tick.everTick = true)
    (ha : at_ = s.tick.accepted + s.tick.period - s.effLead) (hn : s.moduleReady = false)
    (hh : s.get F.TICK_STATUS.holding = 0) (hr : s.get F.TICK_ROLE.role_now ≠ 2) :
    let n := s.get F.TICK_NUMBER.number + 1
    s.holdDeadline at_ = ((((s.reach at_).put F.TICK_STATUS.holding 1).count F.TICK_CNT_HOLD.count 0xB 1).mapTick fun t =>
      { t with heldFor := n, holdAt := at_ }).toMasters { kind := 2, number := n } := by
  intro n
  have hgo : (!s.tick.everTick || at_ ≠ s.tick.accepted + s.tick.period - s.effLead || s.moduleReady ||
      s.get F.TICK_STATUS.holding = 1) = false := by
    simp [he, ← ha, hn, hh]
  have hrole : ((((s.reach at_).put F.TICK_STATUS.holding 1).count F.TICK_CNT_HOLD.count 0xB 1).mapTick fun t =>
      { t with heldFor := n, holdAt := at_ }).isMaster = false := by
    simpa (disch := decide) only [State.isMaster_eq_false, State.mapTick_get, State.count_get, State.get_put_other,
      State.reach_get] using hr
  unfold State.holdDeadline
  rw [hgo, if_neg Bool.false_ne_true]
  exact if_neg (Bool.eq_false_iff.mp hrole)

/-! HOLD and RELEASE (R48). -/

/-- At a master that emits on time, a message for its next tick sets or clears the origin's bit. -/
theorem State.holdMsg_master {s : State} (origin at_ : Nat) {number : Nat} (hold : Bool)
    (hr : s.get F.TICK_ROLE.role_now = 2) (hf : s.tick.frozen = false) (hd : s.tick.delayed = false)
    (hn : number = s.get F.TICK_NEXT.next) : s.holdMsg origin number at_ hold = s.put (holdF origin) hold.toNat := by
  simp [State.holdMsg, s.isMaster_iff.mpr hr, hf, hn, State.emitIfFree, State.setHold, hd]

/-- At the standby, a message for the tick after the one accepted does. -/
theorem State.holdMsg_standby {s : State} (origin at_ : Nat) {number : Nat} (hold : Bool)
    (hr : s.get F.TICK_ROLE.role_now = 1) (hf : s.tick.frozen = false)
    (hn : number = s.get F.TICK_NUMBER.number + 1) :
    s.holdMsg origin number at_ hold = s.put (holdF origin) hold.toNat := by
  have hne : (F.TICK_ROLE.role_now).addr ≠ (holdF origin).addr := by
    show 0x10000 ≠ 0x10100 + 0x8 * _
    omega
  have hmaster : s.isMaster = false := s.isMaster_eq_false.mpr (by omega)
  have hafter : (s.put (holdF origin) hold.toNat).isMaster = false := by
    rw [State.isMaster_eq_false, State.get_put_other _ _ _ _ hne]
    omega
  simp [State.holdMsg, hmaster, s.isStandby_iff.mpr hr, hf, hn, State.emitIfFree, State.setHold, hafter]

section
variable {s u : State} {x : Flit} {at_ : Nat}

theorem State.holdIn_of_pop (h : s.popTick 2 = some (x, u)) : s.holdIn at_ =
    ((if u.isMaster then u.add F.TICK_CNT_DOM_HOLD.count 1 else u).reach at_).holdMsg x.tOrigin x.tNumber at_ true := by
  simp only [State.holdIn, h]

theorem State.releaseIn_of_pop (h : s.popTick 3 = some (x, u)) :
    s.releaseIn at_ = (u.reach at_).holdMsg x.tOrigin x.tNumber at_ false := by
  simp only [State.releaseIn, h]

theorem State.holdIn_master (h : s.popTick 2 = some (x, u)) (hr : s.get F.TICK_ROLE.role_now = 2)
    (hf : s.tick.frozen = false) (hd : s.tick.delayed = false) (hn : x.tNumber = s.get F.TICK_NEXT.next) :
    s.holdIn at_ = ((u.add F.TICK_CNT_DOM_HOLD.count 1).reach at_).put (holdF x.tOrigin) 1 := by
  have hget (f : RF) (hf : offFab f.addr = true) (ha : f.addr ≠ 0x10090) :
      ((u.add F.TICK_CNT_DOM_HOLD.count 1).reach at_).get f = s.get f :=
    (State.reach_get _ at_ f hf).trans ((u.add_get _ 1 f ha).trans (State.popTick_get h f))
  have htick : ((u.add F.TICK_CNT_DOM_HOLD.count 1).reach at_).tick = s.tick :=
    (u.add_tick _ _).trans (State.popTick_tick h)
  rw [State.holdIn_of_pop h, if_pos (u.isMaster_iff.mpr ((State.popTick_get h _).trans hr))]
  exact State.holdMsg_master _ _ true ((hget _ (by decide) (by decide)).trans hr) (by rw [htick, hf]) (by rw [htick, hd])
    (hn.trans (hget _ (by decide) (by decide)).symm)

theorem State.holdIn_standby (h : s.popTick 2 = some (x, u)) (hr : s.get F.TICK_ROLE.role_now = 1)
    (hf : s.tick.frozen = false) (hn : x.tNumber = s.get F.TICK_NUMBER.number + 1) :
    s.holdIn at_ = (u.reach at_).put (holdF x.tOrigin) 1 := by
  have hget (f : RF) (hf : offFab f.addr = true) := State.popTick_reach_get h at_ f hf
  have hmember : ¬ u.isMaster = true := by
    rw [u.isMaster_iff, State.popTick_get h, hr]
    decide
  rw [State.holdIn_of_pop h, if_neg hmember]
  exact State.holdMsg_standby _ _ true ((hget _ (by decide)).trans hr) (by rw [State.reach_tick, State.popTick_tick h, hf])
    (by rw [hn, hget _ (by decide)])

theorem State.releaseIn_master (h : s.popTick 3 = some (x, u)) (hr : s.get F.TICK_ROLE.role_now = 2)
    (hf : s.tick.frozen = false) (hd : s.tick.delayed = false) (hn : x.tNumber = s.get F.TICK_NEXT.next) :
    s.releaseIn at_ = (u.reach at_).put (holdF x.tOrigin) 0 := by
  have hget (f : RF) (hf : offFab f.addr = true) := State.popTick_reach_get h at_ f hf
  rw [State.releaseIn_of_pop h]
  exact State.holdMsg_master _ _ false ((hget _ (by decide)).trans hr) (by rw [State.reach_tick, State.popTick_tick h, hf])
    (by rw [State.reach_tick, State.popTick_tick h, hd]) (by rw [hn, hget _ (by decide)])

theorem State.releaseIn_standby (h : s.popTick 3 = some (x, u)) (hr : s.get F.TICK_ROLE.role_now = 1)
    (hf : s.tick.frozen = false) (hn : x.tNumber = s.get F.TICK_NUMBER.number + 1) :
    s.releaseIn at_ = (u.reach at_).put (holdF x.tOrigin) 0 := by
  have hget (f : RF) (hf : offFab f.addr = true) := State.popTick_reach_get h at_ f hf
  rw [State.releaseIn_of_pop h]
  exact State.holdMsg_standby _ _ false ((hget _ (by decide)).trans hr) (by rw [State.reach_tick, State.popTick_tick h, hf])
    (by rw [hn, hget _ (by decide)])

end

/-! RECOVER in place of a tick, and OVERRUN (R49, R50). -/

section
variable {s u : State} {x : Flit} {at_ : Nat}

theorem State.emitRecover_of_running (h : s.tick.halted = false) : s.emitRecover =
    (s.mapTick fun t => { t with delayed := false, frozen := true, halted := true }).tickAllOwn
      { kind := 8, number := s.get F.TICK_NEXT.next } s.tick.tree := by
  simp only [State.emitRecover, h, Bool.false_eq_true, if_false]
  rfl

theorem State.emitRecover_noCoord (h : s.noCoord) : s.emitRecover.noCoord := by
  unfold State.emitRecover
  split
  · exact h
  · exact ((State.tickAllOwn_sent _ _ _).low F.RCV_CTL.en (by decide)).trans h

/-- The hold limit has passed while a delayed tick still waits for the hold set. -/
theorem State.holdExpiry_recovers (hr : s.get F.TICK_ROLE.role_now = 2) (hd : s.tick.delayed = true)
    (he : s.holdsEmpty = false) (ha : s.scheduled + s.holdLimit < at_) (hc : s.noCoord) :
    s.holdExpiry at_ = (s.reach at_).emitRecover := by
  have hc' : (s.reach at_).emitRecover.noCoord :=
    State.emitRecover_noCoord ((s.reach_get at_ F.RCV_CTL.en (by decide)).trans hc)
  simp [State.holdExpiry, s.isMaster_iff.mpr hr, hd, he, Nat.not_le.mpr ha, State.coordRecover_noCoord hc']

/-- Fields of another register once a message has set TICK_STATUS.recovery. -/
theorem State.recovery_get {k : Nat} (h : s.popTick k = some (x, u)) (f : RF) (hf : offFab f.addr = true)
    (ha : f.addr ≠ 0x10048) : ((u.reach at_).put F.TICK_STATUS.recovery 1).get f = s.get f :=
  (State.get_put_other _ _ _ _ ha).trans (State.popTick_reach_get h at_ f hf)

theorem State.overrunIn_of_pop (h : s.popTick 9 = some (x, u)) : s.overrunIn at_ =
    let v := (u.reach at_).put F.TICK_STATUS.recovery 1
    if v.isMaster then v.emitRecover.coordRecover at_ else v := by
  simp only [State.overrunIn, h]

theorem State.overrunIn_member (h : s.popTick 9 = some (x, u)) (hr : s.get F.TICK_ROLE.role_now ≠ 2) :
    s.overrunIn at_ = (u.reach at_).put F.TICK_STATUS.recovery 1 := by
  have hrole : ((u.reach at_).put F.TICK_STATUS.recovery 1).isMaster = false := by
    rw [State.isMaster_eq_false, State.recovery_get h _ (by decide) (by decide)]
    exact hr
  rw [State.overrunIn_of_pop h]
  exact if_neg (Bool.eq_false_iff.mp hrole)

theorem State.overrunIn_master (h : s.popTick 9 = some (x, u)) (hr : s.get F.TICK_ROLE.role_now = 2) (hc : s.noCoord) :
    s.overrunIn at_ = ((u.reach at_).put F.TICK_STATUS.recovery 1).emitRecover := by
  have hrole := (State.recovery_get (at_ := at_) h F.TICK_ROLE.role_now (by decide) (by decide)).trans hr
  have hoff := (State.recovery_get (at_ := at_) h F.RCV_CTL.en (by decide) (by decide)).trans hc
  rw [State.overrunIn_of_pop h]
  exact (if_pos ((State.isMaster_iff _).mpr hrole)).trans
    (State.coordRecover_noCoord (State.emitRecover_noCoord hoff) at_)

theorem State.recover_of_pop (h : s.popTick 8 = some (x, u)) : s.recover at_ =
    let v := (u.reach at_).recoverIn x
    (if v.isStandby then v.mapTick fun t => { t with frozen := true } else v).coordRecover at_ := by
  simp only [State.recover, h]

theorem State.recoverIn_noCoord (h : s.noCoord) (x : Flit) : s.recoverIn x = s.put F.TICK_STATUS.recovery 1 := by
  have hoff : (s.put F.TICK_STATUS.recovery 1).rcvOn = false := by
    rw [State.rcvOn, State.get_put_other _ _ _ _ (by decide), show s.get F.RCV_CTL.en = 0 from h]
    rfl
  simp [State.recoverIn, hoff]

/-- RECOVER at a member whose recovery sequencer is off. -/
theorem State.recover_member (h : s.popTick 8 = some (x, u)) (hr : s.get F.TICK_ROLE.role_now = 0) (hc : s.noCoord) :
    s.recover at_ = (u.reach at_).put F.TICK_STATUS.recovery 1 := by
  have hget := State.recovery_get (at_ := at_) h
  have hrole : ((u.reach at_).put F.TICK_STATUS.recovery 1).isStandby = false := by
    rw [State.isStandby_eq_false, hget _ (by decide) (by decide), hr]
    decide
  have hoff : (u.reach at_).noCoord := (State.popTick_reach_get h at_ F.RCV_CTL.en (by decide)).trans hc
  have hoff' : ((u.reach at_).put F.TICK_STATUS.recovery 1).noCoord := (hget F.RCV_CTL.en (by decide) (by decide)).trans hc
  simp only [State.recover_of_pop h, State.recoverIn_noCoord hoff, hrole, Bool.false_eq_true, if_false,
    State.coordRecover_noCoord hoff']

end

end Sys2Proof.Machine
end

section
/-! The statement about readiness and hold messages, settled. -/

namespace Sys2Proof.Machine

/-- Settles O13, by the lemma about each command in the case that its clause gives. -/
theorem holdMessages : Obligations.HoldMessages := by
  intro s u x a hwf
  simp only [exec_moduleReady, exec_holdDeadline, exec_hold, exec_release, exec_holdLimitExpiry, exec_overrun, exec_recover]
  refine ⟨fun h => ?ready, fun he ha hn hh hr => ?deadline, fun hr hf hd hn h => ?holdMaster,
    fun hr hf hd hn h => ?releaseMaster, fun hr hf hn h => ?holdStandby, fun hr hf hn h => ?releaseStandby,
    fun hr hd he hh ha hc => ?limit, fun hr h => ?overrunMember, fun hr hh hc h => ?overrunMaster, fun hr hc h => ?recover⟩
  case ready => exact congrArg _ (State.moduleReadyAt_free a hwf h)
  case deadline => exact congrArg _ (State.holdDeadline_sends he ha hn hh hr)
  case holdMaster => exact congrArg _ (State.holdIn_master h hr hf hd hn)
  case releaseMaster => exact congrArg _ (State.releaseIn_master h hr hf hd hn)
  case holdStandby => exact congrArg _ (State.holdIn_standby h hr hf hn)
  case releaseStandby => exact congrArg _ (State.releaseIn_standby h hr hf hn)
  case limit =>
    rw [State.holdExpiry_recovers hr hd he ha hc, State.emitRecover_of_running (s := s.reach a) hh,
      s.reach_get a _ (by decide), State.reach_tick]
  case overrunMember => exact congrArg _ (State.overrunIn_member h hr)
  case overrunMaster =>
    have htick : ((u.reach a).put F.TICK_STATUS.recovery 1).tick = s.tick :=
      show u.tick = s.tick from State.popTick_tick h
    rw [State.overrunIn_master h hr hc, State.emitRecover_of_running (htick ▸ hh),
      State.recovery_get h _ (by decide) (by decide), htick]
  case recover => exact congrArg _ (State.recover_member h hr hc)

end Sys2Proof.Machine
end

section
/-! SUPPORT. Heartbeats, takeover, claims and round trips, at a module whose recovery sequencer is off where it would
coordinate (R55, R57-R59). -/

namespace Sys2Proof.Machine

/-! The commands and what each runs. -/

theorem exec_heartbeatTimer (s : State) : exec .heartbeatTimer s = .next s.tickHeartbeat := rfl
theorem exec_heartbeat (s : State) (at_ : Nat) : exec (.heartbeat at_) s = .next (s.tickHeartbeatIn at_) := rfl
theorem exec_masterLoss (s : State) (at_ : Nat) : exec (.masterLoss at_) s = .next (s.masterLoss at_) := rfl
theorem exec_takeover (s : State) (at_ : Nat) : exec (.takeover at_) s = .next (s.takeoverIn at_) := rfl
theorem exec_claimMaster (s : State) : exec .claimMaster s = .next s.claimMasterIn := rfl
theorem exec_claimStandby (s : State) (at_ : Nat) : exec (.claimStandby at_) s = .next (s.claimStandbyIn at_) := rfl
theorem exec_claimWindowEnd (s : State) (at_ : Nat) : exec (.claimWindowEnd at_) s = .next (s.claimEnd at_) := rfl
theorem exec_ping (s : State) : exec .ping s = .next s.pingIn := rfl
theorem exec_echo (s : State) (at_ : Nat) : exec (.echo at_) s = .next (s.echoIn at_) := rfl

section
variable {s u : State} {x : Flit} {at_ : Nat}

/-! Heartbeats (R57). -/

theorem State.tickHeartbeat_sends {n : Nat} (hr : s.get F.TICK_ROLE.role_now = 2) (hc : s.tick.claimFrom = some n) :
    s.tickHeartbeat = s.tickTo { kind := 4, run := s.get F.TICK_CTRL.run, number := s.get F.TICK_NUMBER.number,
                                 period := s.tick.ePeriod, limit := s.tick.eLimit } n := by
  simp [State.tickHeartbeat, s.isMaster_iff.mpr hr, State.standbyNode, hc]

/-- A module that claims no role yields none. -/
theorem State.claimHears_idle (h : s.tick.claim = 0) (x : Flit) : s.claimHears x = s := by
  simp [State.claimHears, h]

theorem State.tickHeartbeatIn_idle (h : s.popTick 4 = some (x, u)) (hc : s.tick.claim = 0) : s.tickHeartbeatIn at_ =
    ((((u.reach at_).put F.TICK_PEERS.master_id x.tMaster).put F.TICK_PEERS.master_valid 1).put
      F.TICK_STATUS.paused (1 - x.tRun)).mapTick fun t => { t with masterRun := x.tRun == 1, heard := at_ } := by
  have hidle : (u.reach at_).tick.claim = 0 := by rw [State.reach_tick, State.popTick_tick h, hc]
  simp only [State.tickHeartbeatIn, h, State.claimHears_idle hidle]

/-! MASTER_LOSS and TAKEOVER (R57, R58). -/

/-- The standby takes over, and goes on with the run state that the last heartbeat showed. -/
theorem State.masterLoss_takesOver (hr : s.get F.TICK_ROLE.role_now = 1) (ha : s.tick.heard + s.tick.period ≤ at_)
    (hc : s.noCoord) :
    let n := s.get F.TICK_NUMBER.number
    let run := s.tick.masterRun
    s.masterLoss at_ = ((((((((((s.reach at_).put F.TICK_ROLE.role_now 2).count F.TICK_CNT_ROLE.count 0xC 1).put
      F.TICK_NEXT.next (n + 1)).put F.TICK_CTRL.run run.toNat).put F.TICK_STATUS.stopped (1 - run.toNat)).put
      F.TICK_STATUS.no_standby 1).mapTick fun t =>
        { t with tree := 1, emitted := t.accepted, ePeriod := t.period, eLimit := t.limit, claimFrom := none,
                 delayed := false, stopPending := false, halted := false, lastOut := n }).tickAll
      { kind := 7, run := run.toNat, number := n, period := s.tick.period, limit := s.tick.limit } 1).uncoordinated) := by
  intro n run
  have hgo : (!s.isStandby || at_ < s.tick.heard + s.tick.period) = false := by
    simp [s.isStandby_iff.mpr hr, Nat.not_lt.mpr ha]
  have hen : (((s.reach at_).put F.TICK_ROLE.role_now 2).count F.TICK_CNT_ROLE.count 0xC 1).get F.RCV_CTL.en = 0 := by
    rw [State.count_get _ _ _ _ _ (by decide), State.get_put_other _ _ _ _ (by decide), s.reach_get at_ _ (by decide)]
    exact hc
  have hrcv : (((s.reach at_).put F.TICK_ROLE.role_now 2).count F.TICK_CNT_ROLE.count 0xC 1).rcvOn = false := by
    simp [State.rcvOn, hen]
  simp only [State.masterLoss, hgo, hrcv, Bool.false_eq_true, if_false, Bool.false_and, State.count_tick, State.put_tick,
    State.reach_tick]
  refine State.showCoord_noCoord ?_ at_
  refine ((State.tickAll_sent _ _ _).low F.RCV_CTL.en (by decide)).trans ?_
  simpa (disch := decide) only [State.mapTick_get, State.get_put_other] using hen

theorem State.takeoverIn_of_pop (h : s.popTick 7 = some (x, u)) : s.takeoverIn at_ =
    if u.isMaster && x.tOrigin ≠ u.node then (u.demote.count F.TICK_CNT_ROLE.count 0xC 1).showCoord at_ else u := by
  simp only [State.takeoverIn, h]

theorem State.demote_get (f : RF) (h : f.addr < 0x10000 ∨ 0x10900 ≤ f.addr) : s.demote.get f = s.get f := by
  simp only [State.demote, State.stopEmission, State.mapTick_get]
  rw [State.get_put_other _ _ _ _ (by show _ ≠ 0x10048; omega), State.get_put_other _ _ _ _ (by show _ ≠ 0x10030; omega),
    State.mapTick_get, State.get_put_other _ _ _ _ (by show _ ≠ 0x10048; omega), State.clearHolds_get _ _ (by omega),
    State.get_put_other _ _ _ _ (by show _ ≠ 0x10000; omega)]

/-- A master that hears another's TAKEOVER becomes a member. -/
theorem State.takeoverIn_master (h : s.popTick 7 = some (x, u)) (hr : s.get F.TICK_ROLE.role_now = 2)
    (hx : x.tOrigin ≠ s.node) (hc : s.noCoord) :
    s.takeoverIn at_ = (u.demote.count F.TICK_CNT_ROLE.count 0xC 1).uncoordinated := by
  have hoff : (u.demote.count F.TICK_CNT_ROLE.count 0xC 1).noCoord := by
    unfold State.noCoord
    rw [State.count_get _ _ _ _ _ (by decide), State.demote_get _ (by decide), State.popTick_get h]
    exact hc
  have hgo : (u.isMaster && x.tOrigin ≠ u.node) = true := by
    rw [u.isMaster_iff.mpr ((State.popTick_get h _).trans hr), State.popTick_node h]
    simpa using hx
  rw [State.takeoverIn_of_pop h, if_pos hgo, State.showCoord_noCoord hoff]

theorem State.takeoverIn_member (h : s.popTick 7 = some (x, u)) (hr : s.get F.TICK_ROLE.role_now ≠ 2) :
    s.takeoverIn at_ = u := by
  have hrole : u.isMaster = false := by
    rw [State.isMaster_eq_false, State.popTick_get h]
    exact hr
  simp [State.takeoverIn_of_pop h, hrole]

/-! Claims (R55). -/

theorem State.claimMasterIn_of_pop (h : s.popTick 5 = some (x, u)) : s.claimMasterIn =
    if u.isMaster || u.isStandby then u.roleCount
    else if u.tick.claim = 2 && x.tOrigin < u.node then u.yieldClaim else u := by
  simp only [State.claimMasterIn, h]

theorem State.claimMasterIn_yields (h : s.popTick 5 = some (x, u)) (hr : s.get F.TICK_ROLE.role_now = 0)
    (hc : s.tick.claim = 2) (hx : x.tOrigin < s.node) : s.claimMasterIn = u.yieldClaim := by
  simp [State.claimMasterIn_of_pop h, State.isMaster, State.isStandby, State.popTick_get h, State.popTick_tick h,
    State.popTick_node h, hr, hc, hx]

theorem State.claimMasterIn_counts (h : s.popTick 5 = some (x, u))
    (hr : s.get F.TICK_ROLE.role_now = 1 ∨ s.get F.TICK_ROLE.role_now = 2) : s.claimMasterIn = u.roleCount := by
  rcases hr with hr | hr <;> simp [State.claimMasterIn_of_pop h, State.isMaster, State.isStandby, State.popTick_get h, hr]

theorem State.claimStandbyIn_yields (h : s.popTick 6 = some (x, u)) (hr : s.get F.TICK_ROLE.role_now = 0)
    (hc : s.tick.claim = 1) (hx : x.tOrigin < s.node) : s.claimStandbyIn at_ = u.yieldClaim := by
  simp [State.claimStandbyIn, h, State.isMaster, State.isStandby, State.popTick_get h, State.popTick_tick h,
    State.popTick_node h, hr, hc, hx]

/-- A claimant for mastership keeps the first claim to be standby that it hears. -/
theorem State.claimStandbyIn_keeps (h : s.popTick 6 = some (x, u)) (hr : s.get F.TICK_ROLE.role_now = 0)
    (hc : s.tick.claim = 2) (hn : s.tick.claimFrom = none) :
    s.claimStandbyIn at_ = u.mapTick fun t => { t with claimFrom := some x.tOrigin } := by
  simp [State.claimStandbyIn, h, State.isMaster, State.isStandby, State.popTick_get h, State.popTick_tick h, hr, hc, hn]

/-- A claim whose window has ended without a yield takes its role. -/
theorem State.claimEnd_takes (h0 : s.tick.claim ≠ 0) (ha : s.tick.claimAt + claimWindow ≤ at_) (hc : s.noCoord) :
    let v := ((s.reach at_).put F.TICK_ROLE.role_now s.tick.claim).mapTick fun t =>
      { t with claim := 0, heard := at_, claimAt := at_ }
    s.claimEnd at_ = (if s.tick.claim = 2 && s.tick.claimFrom.isSome then v.put F.TICK_STATUS.no_standby 0
      else v).uncoordinated := by
  intro v
  have hgo : (s.tick.claim = 0 || at_ < s.tick.claimAt + claimWindow) = false := by simp [h0, Nat.not_lt.mpr ha]
  have hv : v.noCoord := by
    simpa (disch := decide) only [v, State.noCoord, State.mapTick_get, State.get_put_other, State.reach_get] using hc
  have hoff : (if s.tick.claim = 2 && s.tick.claimFrom.isSome then v.put F.TICK_STATUS.no_standby 0 else v).noCoord := by
    split
    · exact (State.get_put_other _ _ _ _ (by decide)).trans hv
    · exact hv
  rw [← State.showCoord_noCoord hoff at_]
  simp only [State.claimEnd, hgo, Bool.false_eq_true, if_false]
  rfl

/-! Round trips (R59). -/

theorem State.pingIn_echoes (h : s.popTick 0xA = some (x, u)) (hr : s.get F.TICK_ROLE.role_now = 2) : s.pingIn =
    u.inject 0 (Hdr.flit { kind := 7, vc := 3, dst := x.tOrigin, src := s.node } (x.bytes 0 28 + 1)) := by
  rw [← State.popTick_node h]
  simp only [State.pingIn, h, u.isMaster_iff.mpr ((State.popTick_get h _).trans hr), if_true]

theorem State.echoIn_measures (h : s.popTick 0xB = some (x, u)) (hwf : s.regsWf = true) :
    let rtt := (at_ % 2 ^ 32 + 2 ^ 32 - x.tStamp) % 2 ^ 32 % 2 ^ 24
    let v := ((u.reach at_).put F.TICK_RTT.rtt_last rtt).put F.TICK_RTT.rtt_max (max rtt (s.get F.TICK_RTT.rtt_max))
    s.echoIn at_ = if s.effLead < rtt then v.put F.TICK_STATUS.lead_short 1 else v := by
  intro rtt v
  have hsorted : SMap.sorted (u.reach at_).regs = true := by
    refine State.sorted_of_regsWf (State.reach_wf at_ ?_)
    rw [State.regsWf, (State.popTick_kept h).1]
    exact hwf
  have hmax : ((u.reach at_).put F.TICK_RTT.rtt_last rtt).get F.TICK_RTT.rtt_max = s.get F.TICK_RTT.rtt_max :=
    (State.get_put_off _ _ _ _ hsorted (by decide)).trans (State.popTick_reach_get h at_ _ (by decide))
  have hlead : v.effLead = s.effLead := by
    simp (disch := decide) only [v, State.effLead, State.put_tick, State.reach_tick, State.popTick_tick h,
      State.get_put_other, State.popTick_reach_get h]
  simp only [State.echoIn, h]
  rw [hmax]
  exact congrArg (fun k => if k < rtt then v.put F.TICK_STATUS.lead_short 1 else v) hlead

end

end Sys2Proof.Machine
end

section
/-! The statement about roles and round trips, settled. -/

namespace Sys2Proof.Machine

/-- Settles O14, by the lemma about each command in the case that its clause gives. -/
theorem tickRoles : Obligations.TickRoles := by
  intro s u x a n hwf
  simp only [exec_heartbeatTimer, exec_heartbeat, exec_masterLoss, exec_takeover, exec_claimMaster, exec_claimStandby,
    exec_claimWindowEnd, exec_ping, exec_echo]
  refine ⟨fun hr hc => ?timer, fun hc h => ?heartbeat, fun hr ha hc => ?loss, fun hr hx hc h => ?takeover,
    fun hr h => ?takeoverMember, fun hr hc hx h => ?claimMaster, fun hr h => ?claimCounted, fun hr hc hx h => ?claimYields,
    fun hr hc hn h => ?claimKept, fun hk ha hc => ?standby, fun hk ha hn hc => ?masterNamed, fun hk ha hn hc => ?masterAlone,
    fun hr h => ?ping, fun h => ?echo⟩
  case timer => exact congrArg _ (State.tickHeartbeat_sends hr hc)
  case heartbeat => exact congrArg _ (State.tickHeartbeatIn_idle h hc)
  case loss => exact congrArg _ (State.masterLoss_takesOver hr ha hc)
  case takeover => exact congrArg _ (State.takeoverIn_master h hr hx hc)
  case takeoverMember => exact congrArg _ (State.takeoverIn_member h hr)
  case claimMaster => exact congrArg _ (State.claimMasterIn_yields h hr hc hx)
  case claimCounted => exact congrArg _ (State.claimMasterIn_counts h hr)
  case claimYields => exact congrArg _ (State.claimStandbyIn_yields h hr hc hx)
  case claimKept => exact congrArg _ (State.claimStandbyIn_keeps h hr hc hn)
  case standby =>
    rw [State.claimEnd_takes (by rw [hk]; decide) ha hc, hk]
    rfl
  case masterNamed =>
    rw [State.claimEnd_takes (by rw [hk]; decide) ha hc, hk, hn]
    rfl
  case masterAlone =>
    rw [State.claimEnd_takes (by rw [hk]; decide) ha hc, hk, hn]
    rfl
  case ping => exact congrArg _ (State.pingIn_echoes h hr)
  case echo => exact congrArg _ (State.echoIn_measures h hwf)

end Sys2Proof.Machine
end

section
/-! SUPPORT. A received TICK, and the release of a die barrier (R36, R52, R53). -/

namespace Sys2Proof.Machine

theorem exec_tick (s : State) (at_ : Nat) (cyc : DieCycles) : exec (.tick at_ cyc) s = .next (s.tickIn at_ cyc.of) := rfl

theorem exec_barrierRelease (s : State) (d : Fin 4) (c : Fin 64) :
    exec (.barrierRelease d c) s = .next (s.barrierRelease d c) := rfl

/-- The master's tick shows that it is there (R57). -/
def State.hearTick (s : State) (x : Flit) (at_ : Nat) : State :=
  if x.tMaster = s.get F.TICK_PEERS.master_id then s.mapTick fun t => { t with heard := at_ } else s

/-- A TICK at a module that is not the master: its number is noted, and it is accepted if it is a later one. -/
theorem State.tickIn_member {s u : State} {x : Flit} (at_ : Nat) (cyc : Nat → Nat) (h : s.popTick 1 = some (x, u))
    (hm : ((u.reach at_).claimHears x).isMaster = false) :
    let w := ((u.reach at_).claimHears x).hearTick x at_
    let y := w.mapTick fun t => { t with known := noteTick x.tNumber t.known }
    s.tickIn at_ cyc =
      if x.tNumber ≤ w.get F.TICK_NUMBER.number then y.count F.TICK_CNT_DUP.count 0xA 1 else y.acceptTick x at_ cyc := by
  simp only [State.tickIn, h, hm, Bool.false_and, Bool.false_eq_true, if_false]
  rfl

/-- The cycle in which a die barrier releases its members: 40 tc after the last of them has arrived (R36). -/
def State.releaseCycle (s : State) (d c : Nat) : Nat :=
  (((s.members d c).map (·.2)).map fun p => (s.tile p).arrived).foldl max 0 + 40

/-- The release of a die barrier in cycle `g` at one member: one that waits goes on, and one that has ended takes the new
phase (R36, R76). -/
def State.freeMember (s : State) (g p : Nat) : State :=
  if (s.tile p).run = .atBarrier then s.onTileLow p fun x => (((x.perf 0x09 (g - (s.tile p).arrived)).perf 0x01
    (g - 1 - (s.tile p).issued)).perf 0x0B (s.tile p).xlen).map fun t => t.release g false
  else if (s.tile p).run = .ended then s.mapTile p fun t => t.release g true else s

/-- The maps and migrations of a group's rows that take effect with its release in cycle `g` (R231, R234, R417). -/
def State.remapRows (s : State) (d c g : Nat) : State :=
  (s.applyStaged d (s.ldrRows d c) (s.stagedBefore d g)).migsAt d (s.ldrRows d c) fun x _ => x.ok

theorem State.barrierRelease_eq (s : State) (d c : Nat) : s.barrierRelease d c =
    if !(((s.members d c).map (·.2)).all fun p => (s.tile p).arrivedBar) ||
      !(((s.members d c).map (·.2)).any fun p => decide ((s.tile p).run = .atBarrier)) then s
    else
      let g := s.releaseCycle d c
      let w := s.remapRows d c g
      ((w.members d c).foldl (fun u q => u.freeMember g q.2) w).dieEvent d 0x47 1 := rfl

section
variable {s : State} {d c : Nat}

/-- R36: a group of which every member has arrived, and one waits, is released. -/
theorem State.barrierRelease_frees (hall : ∀ p ∈ (s.members d c).map (·.2), (s.tile p).arrivedBar = true)
    (hany : ∃ p ∈ (s.members d c).map (·.2), (s.tile p).run = .atBarrier) :
    let g := s.releaseCycle d c
    let w := s.remapRows d c g
    s.barrierRelease d c = ((w.members d c).foldl (fun u q => u.freeMember g q.2) w).dieEvent d 0x47 1 := by
  have hgo : (!(((s.members d c).map (·.2)).all fun p => (s.tile p).arrivedBar) ||
      !(((s.members d c).map (·.2)).any fun p => decide ((s.tile p).run = .atBarrier))) = false := by
    rw [List.all_eq_true.mpr hall, List.any_eq_true.mpr (by simpa using hany)]
    rfl
  rw [State.barrierRelease_eq, hgo]
  rfl

/-- A group with a member that has not arrived waits. -/
theorem State.barrierRelease_waits (h : ∃ p ∈ (s.members d c).map (·.2), (s.tile p).arrivedBar = false) :
    s.barrierRelease d c = s := by
  obtain ⟨p, hp, hrun⟩ := h
  have hall : (((s.members d c).map (·.2)).all fun p => (s.tile p).arrivedBar) = false :=
    List.all_eq_false.mpr ⟨p, hp, by simp [hrun]⟩
  rw [State.barrierRelease_eq, hall]
  rfl

end

/-- Settles O54: a TICK is accepted or counted by its number, and a barrier waits or is released. -/
theorem ticksAndBarriers : Obligations.TicksAndBarriers := by
  intro s u x a cyc
  refine ⟨fun h => ?tick, fun d c => ?barrier, fun t g => ⟨rfl, rfl, rfl, rfl, rfl⟩⟩
  case tick =>
    intro v w y hm
    have htick := State.tickIn_member a cyc.of h hm
    exact ⟨fun hn => congrArg _ (htick.trans (if_neg (Nat.not_le.mpr hn))),
      fun hn => congrArg _ (htick.trans (if_pos hn))⟩
  case barrier =>
    intro l g w free
    exact ⟨fun hall hany => congrArg _ (State.barrierRelease_frees hall hany),
      fun hwait => congrArg _ (State.barrierRelease_waits hwait)⟩

end Sys2Proof.Machine
end

section
/-! SUPPORT. The canonical form through one step: every command keeps it (R64, R100, R237). -/

namespace Sys2Proof.Machine

/-- R64, R100, R237: a state whose maps are canonical is one that Laws/ calls good for its own queue. -/
theorem State.canonical_iff_good (s : State) : s.Canonical ↔ s.Good s.pending := by
  have htiles : s.tilesWf = true ↔ TilesOk s.tiles := by
    simp only [State.tilesWf, Bool.and_eq_true, List.all_eq_true]
    exact ⟨fun ⟨hwf, heach⟩ => ⟨hwf, fun q hq => ⟨heach q hq⟩⟩, fun h => ⟨h.wf, fun q hq => (h.each q hq).canon⟩⟩
  constructor
  · rintro ⟨hregs, hvf, ht, hmem⟩
    exact ⟨rfl, hregs, hvf, hmem, htiles.mp ht⟩
  · rintro ⟨-, hregs, hvf, hmem, ht⟩
    exact ⟨hregs, hvf, htiles.mpr ht, hmem⟩

/-- A module's maps stay canonical when its queue of commands changes. -/
theorem State.Good.withPending {cq : List Instr} {s : State} (h : s.Good cq) (l : List Instr) :
    ({ s with pending := l } : State).Good l := ⟨rfl, h.regs, h.vf, h.mem, h.tiles⟩

/-- Every command keeps the maps canonical and leaves the queue of commands alone: one law for each command. -/
theorem exec_keeps {cq : List Instr} (i : Instr) (s : State) (h : s.Good cq) : Keeps (exec i s) cq := match i with
  | .bar t w => execBar_keeps t w s h
  | .barrierRelease d c => execBarrierRelease_keeps d c s h
  | .tickwait t w => execTickwait_keeps t w s h
  | .moduleReady at_ => execModuleReady_keeps at_ s h
  | .tick at_ cyc => execTick_keeps at_ cyc s h
  | .holdDeadline at_ => execHoldDeadline_keeps at_ s h
  | .hold at_ => execHold_keeps at_ s h
  | .release at_ => execRelease_keeps at_ s h
  | .scheduledTime at_ => execScheduledTime_keeps at_ s h
  | .holdLimitExpiry at_ => execHoldLimitExpiry_keeps at_ s h
  | .overrun at_ => execOverrun_keeps at_ s h
  | .recover at_ => execRecover_keeps at_ s h
  | .heartbeatTimer => execHeartbeatTimer_keeps s h
  | .heartbeat at_ => execHeartbeat_keeps at_ s h
  | .masterLoss at_ => execMasterLoss_keeps at_ s h
  | .takeover at_ => execTakeover_keeps at_ s h
  | .claimMaster => execClaimMaster_keeps s h
  | .claimStandby at_ => execClaimStandby_keeps at_ s h
  | .claimWindowEnd at_ => execClaimWindowEnd_keeps at_ s h
  | .ping => execPing_keeps s h
  | .echo at_ => execEcho_keeps at_ s h
  | .pingNow at_ => execPingNow_keeps at_ s h
  | .run v at_ => execRun_keeps v at_ s h
  | .tickNextWrite v => execTickNextWrite_keeps v s h
  | .tickPeriodWrite v => execTickPeriodWrite_keeps v s h
  | .tickHoldLimitWrite v => execTickHoldLimitWrite_keeps v s h
  | .roleCfgWrite v at_ => execRoleCfgWrite_keeps v at_ s h
  | .tickCtxBindWrite v => execTickCtxBindWrite_keeps v s h
  | .nop t w => execNop_keeps t w s h
  | .endTile t w => execEndTile_keeps t w s h
  | .add t w => execAdd_keeps t w s h
  | .sub t w => execSub_keeps t w s h
  | .and t w => execAnd_keeps t w s h
  | .or t w => execOr_keeps t w s h
  | .xor t w => execXor_keeps t w s h
  | .shl t w => execShl_keeps t w s h
  | .shr t w => execShr_keeps t w s h
  | .sar t w => execSar_keeps t w s h
  | .min t w => execMin_keeps t w s h
  | .max t w => execMax_keeps t w s h
  | .minu t w => execMinu_keeps t w s h
  | .maxu t w => execMaxu_keeps t w s h
  | .addi t w => execAddi_keeps t w s h
  | .subi t w => execSubi_keeps t w s h
  | .andi t w => execAndi_keeps t w s h
  | .ori t w => execOri_keeps t w s h
  | .xori t w => execXori_keeps t w s h
  | .shli t w => execShli_keeps t w s h
  | .shri t w => execShri_keeps t w s h
  | .sari t w => execSari_keeps t w s h
  | .mini t w => execMini_keeps t w s h
  | .maxi t w => execMaxi_keeps t w s h
  | .minui t w => execMinui_keeps t w s h
  | .maxui t w => execMaxui_keeps t w s h
  | .movi t w => execMovi_keeps t w s h
  | .movhi t w => execMovhi_keeps t w s h
  | .cmpEq t w => execCmpEq_keeps t w s h
  | .cmpNe t w => execCmpNe_keeps t w s h
  | .cmpLt t w => execCmpLt_keeps t w s h
  | .cmpGe t w => execCmpGe_keeps t w s h
  | .cmpLtu t w => execCmpLtu_keeps t w s h
  | .cmpGeu t w => execCmpGeu_keeps t w s h
  | .pand t w => execPand_keeps t w s h
  | .por t w => execPor_keeps t w s h
  | .pxor t w => execPxor_keeps t w s h
  | .pandn t w => execPandn_keeps t w s h
  | .br t w => execBr_keeps t w s h
  | .call t w => execCall_keeps t w s h
  | .jr t w => execJr_keeps t w s h
  | .callr t w => execCallr_keeps t w s h
  | .loop t w => execLoop_keeps t w s h
  | .loopr t w => execLoopr_keeps t w s h
  | .ldB t w => execLdB_keeps t w s h
  | .ldH t w => execLdH_keeps t w s h
  | .ldW t w => execLdW_keeps t w s h
  | .ldD t w => execLdD_keeps t w s h
  | .ldBu t w => execLdBu_keeps t w s h
  | .ldHu t w => execLdHu_keeps t w s h
  | .ldWu t w => execLdWu_keeps t w s h
  | .stB t w => execStB_keeps t w s h
  | .stH t w => execStH_keeps t w s h
  | .stW t w => execStW_keeps t w s h
  | .stD t w => execStD_keeps t w s h
  | .mul t w => execMul_keeps t w s h
  | .mulh t w => execMulh_keeps t w s h
  | .mulhu t w => execMulhu_keeps t w s h
  | .div t w => execDiv_keeps t w s h
  | .divu t w => execDivu_keeps t w s h
  | .rem t w => execRem_keeps t w s h
  | .remu t w => execRemu_keeps t w s h
  | .scalarResultAvailable t => execScalarResultAvailable_keeps t s h
  | .rnd t w => execRnd_keeps t w s h
  | .waitAll t w => execWaitAll_keeps t w s h
  | .waitAny t w => execWaitAny_keeps t w s h
  | .rowIssuable t => execRowIssuable_keeps t s h
  | .mmac t w => execMmac_keeps t w s h
  | .mclr t w => execMclr_keeps t w s h
  | .mstore t w => execMstore_keeps t w s h
  | .mullerOperationStart t c => execMullerOperationStart_keeps t c s h
  | .stepCommit t es => execStepCommit_keeps t es s h
  | .blockComplete t => execBlockComplete_keeps t s h
  | .mstorePiece t => execMstorePiece_keeps t s h
  | .grun t w => execGrun_keeps t w s h
  | .grunStart t c => execGrunStart_keeps t c s h
  | .glazeBeat t => execGlazeBeat_keeps t s h
  | .watchDelivery => execWatchDelivery_keeps s h
  | .xsend t w => execXsend_keeps t w s h
  | .xsendr t w => execXsendr_keeps t w s h
  | .delivery t => execDelivery_keeps t s h
  | .dieTmapNextWrite d r w => execDieTmapNextWrite_keeps d r w s h
  | .sload t w => execSload_keeps t w s h
  | .sstore t w => execSstore_keeps t w s h
  | .transferStart t c => execTransferStart_keeps t c s h
  | .transferComplete t k c l lat => execTransferComplete_keeps t k c l lat s h
  | .hbmSeCtlEnable d k v => execHbmSeCtlEnable_keeps d k v s h
  | .engineDrainComplete d k => execEngineDrainComplete_keeps d k s h
  | .stackLoss d p cyc => execStackLoss_keeps d p cyc s h
  | .hbmSemapWrite d w => execHbmSemapWrite_keeps d w s h
  | .regionAllocate d c k v => execRegionAllocate_keeps d c k v s h
  | .regionRelease d c k => execRegionRelease_keeps d c k s h
  | .granuleClean d p slots => execGranuleClean_keeps d p slots s h
  | .bar2Access vf size a acc => execBar2Access_keeps vf size a acc s h
  | .correctedWriteBack p c bank => execCorrectedWriteBack_keeps p c bank s h
  | .patrolRead u c bank => execPatrolRead_keeps u c bank s h
  | .palCtrlPatrolWrite t c v => execPalCtrlPatrolWrite_keeps t c v s h
  | .palPartWrite t c k v => execPalPartWrite_keeps t c k v s h
  | .palRxcfgWrite t k v => execPalRxcfgWrite_keeps t k v s h
  | .palRxrelWrite t k n => execPalRxrelWrite_keeps t k n s h
  | .gessoComplete p => execGessoComplete_keeps p s h
  | .fput t w => execFput_keeps t w s h
  | .fsend t w => execFsend_keeps t w s h
  | .fabricOperationStart t at_ c => execFabricOperationStart_keeps t at_ c s h
  | .bucketBlockPass j at_ c => execBucketBlockPass_keeps j at_ c s h
  | .flitReceive f p num cw hdr data => execFlitReceive_keeps f p num cw hdr data s h
  | .outputSlot f p at_ => execOutputSlot_keeps f p at_ s h
  | .write at_ c => execWrite_keeps at_ c s h
  | .credit at_ c => execCredit_keeps at_ c s h
  | .ack at_ c => execAck_keeps at_ c s h
  | .nack at_ c => execNack_keeps at_ c s h
  | .ackTimer j at_ => execAckTimer_keeps j at_ s h
  | .flowTimeout j at_ c => execFlowTimeout_keeps j at_ c s h
  | .flowEnable j v => execFlowEnable_keeps j v s h
  | .flowDrain j v at_ c => execFlowDrain_keeps j v at_ c s h
  | .flowDrainComplete j at_ c => execFlowDrainComplete_keeps j at_ c s h
  | .lcfNormal f p x => execLcfNormal_keeps f p x s h
  | .replayRequest f p at_ x => execReplayRequest_keeps f p at_ x s h
  | .ident f p at_ x => execIdent_keeps f p at_ x s h
  | .creditInit f p at_ x => execCreditInit_keeps f p at_ x s h
  | .fabPortEnable f p at_ => execFabPortEnable_keeps f p at_ s h
  | .fabPortDisable f p at_ => execFabPortDisable_keeps f p at_ s h
  | .trainingPatternDetected f p at_ => execTrainingPatternDetected_keeps f p at_ s h
  | .equalizeComplete f p at_ => execEqualizeComplete_keeps f p at_ s h
  | .lockFound f p at_ => execLockFound_keeps f p at_ s h
  | .trainingTimeout f p at_ => execTrainingTimeout_keeps f p at_ s h
  | .retrain f p x => execRetrain_keeps f p x s h
  | .retrainAttemptEnd f p at_ ok => execRetrainAttemptEnd_keeps f p at_ ok s h
  | .portDrainComplete f p at_ => execPortDrainComplete_keeps f p at_ s h
  | .darkTimerExpiry f p at_ => execDarkTimerExpiry_keeps f p at_ s h
  | .laserInputDark f k pwr at_ => execLaserInputDark_keeps f k pwr at_ s h
  | .bundleGroupFailure b => execBundleGroupFailure_keeps b s h
  | .blendPart at_ => execBlendPart_keeps at_ s h
  | .blendEnd at_ => execBlendEnd_keeps at_ s h
  | .advance m => execAdvance_keeps m s h
  | .partialEmit j at_ => execPartialEmit_keeps j at_ s h
  | .rootBlockComplete j at_ c => execRootBlockComplete_keeps j at_ c s h
  | .blendResult at_ c => execBlendResult_keeps at_ c s h
  | .roundComplete j at_ c => execRoundComplete_keeps j at_ c s h
  | .bldAccRead f => execBldAccRead_keeps f s h
  | .bldAccWrite f => execBldAccWrite_keeps f s h
  | .sig t w => execSig_keeps t w s h
  | .waitge t w => execWaitge_keeps t w s h
  | .sigArrival t => execSigArrival_keeps t s h
  | .waitgeArrival t => execWaitgeArrival_keeps t s h
  | .bind d j w => execBind_keeps d j w s h
  | .unbind d j v c => execUnbind_keeps d j v c s h
  | .counterStoreError d j c => execCounterStoreError_keeps d j c s h
  | .rebase at_ c => execRebase_keeps at_ c s h
  | .hostWaitArm vf c w v => execHostWaitArm_keeps vf c w v s h
  | .hostWaitTargetWrite vf c w v => execHostWaitTargetWrite_keeps vf c w v s h
  | .dbSig vf c wide v => execDbSig_keeps vf c wide v s h
  | .doorbellArrival c cyc => execDoorbellArrival_keeps c cyc s h
  | .mbsEnable c v => execMbsEnable_keeps c v s h
  | .mbsDisable c v => execMbsDisable_keeps c v s h
  | .openStep c => execOpenStep_keeps c s h
  | .mbsReset c => execMbsReset_keeps c s h
  | .unitRelease c at_ cyc => execUnitRelease_keeps c at_ cyc s h
  | .stepClose c at_ => execStepClose_keeps c at_ s h
  | .watchClose c => execWatchClose_keeps c s h
  | .wchCtxWrite c v => execWchCtxWrite_keeps c v s h
  | .wchAccRead => execWchAccRead_keeps s h
  | .wchAccWrite => execWchAccWrite_keeps s h
  | .exportStart x v at_ cyc => execExportStart_keeps x v at_ cyc s h
  | .exportAbort x => execExportAbort_keeps x s h
  | .exportDone x => execExportDone_keeps x s h
  | .localCopyComplete c at_ cyc => execLocalCopyComplete_keeps c at_ cyc s h
  | .snapBegin => execSnapBegin_keeps s h
  | .snapEnd => execSnapEnd_keeps s h
  | .snapAck at_ cyc => execSnapAck_keeps at_ cyc s h
  | .log => execLog_keeps s h
  | .logack => execLogack_keeps s h
  | .mirrorLagTimer at_ => execMirrorLagTimer_keeps at_ s h
  | .ctrlHeartbeatTimer at_ => execCtrlHeartbeatTimer_keeps at_ s h
  | .ctrlHeartbeat at_ => execCtrlHeartbeat_keeps at_ s h
  | .heartbeatMiss n at_ => execHeartbeatMiss_keeps n at_ s h
  | .fail at_ => execFail_keeps at_ s h
  | .linkdown at_ => execLinkdown_keeps at_ s h
  | .event at_ => execEvent_keeps at_ s h
  | .snapinfo at_ => execSnapinfo_keeps at_ s h
  | .plan at_ cyc => execPlan_keeps at_ cyc s h
  | .rewire => execRewire_keeps s h
  | .rewired at_ => execRewired_keeps at_ s h
  | .fill at_ cyc => execFill_keeps at_ cyc s h
  | .fillCommit => execFillCommit_keeps s h
  | .filled at_ => execFilled_keeps at_ s h
  | .abandon at_ => execAbandon_keeps at_ s h
  | .restored at_ => execRestored_keeps at_ s h
  | .resume => execResume_keeps s h
  | .resumeTick at_ => execResumeTick_keeps at_ s h
  | .state => execState_keeps s h
  | .shrink => execShrink_keeps s h
  | .rewireTimeout at_ => execRewireTimeout_keeps at_ s h
  | .fillTimeout at_ => execFillTimeout_keeps at_ s h
  | .restoreTimeout at_ => execRestoreTimeout_keeps at_ s h
  | .retry at_ => execRetry_keeps at_ s h
  | .abort at_ => execAbort_keeps at_ s h
  | .shrinkDone at_ => execShrinkDone_keeps at_ s h
  | .errcUpdate => execErrcUpdate_keeps s h
  | .errcThrArm j v => execErrcThrArm_keeps j v s h
  | .errcDbaddrWrite w v => execErrcDbaddrWrite_keeps w v s h
  | .suspectEvent d at_ => execSuspectEvent_keeps d at_ s h
  | .suspicionExpiry d at_ => execSuspicionExpiry_keeps d at_ s h
  | .repMarginWrite d v => execRepMarginWrite_keeps d v s h
  | .migrationStart d r => execMigrationStart_keeps d r s h
  | .copyComplete d r q at_ => execCopyComplete_keeps d r q at_ s h
  | .migrationTimeout d r q at_ => execMigrationTimeout_keeps d r q at_ s h
  | .auditStart d r at_ => execAuditStart_keeps d r at_ s h
  | .rollingScanRow d at_ => execRollingScanRow_keeps d at_ s h
  | .scanResult p pass at_ => execScanResult_keeps p pass at_ s h
  | .repCommitGo d => execRepCommitGo_keeps d s h
  | .fuseProgramComplete d good => execFuseProgramComplete_keeps d good s h
  | .ldrCtxRowsWrite d c v => execLdrCtxRowsWrite_keeps d c v s h
  | .load d c auto => execLoad_keeps d c auto s h
  | .loadRestore d c auto => execLoadRestore_keeps d c auto s h
  | .loadFinish d c cyc at_ => execLoadFinish_keeps d c cyc at_ s h
  | .start d c cyc at_ => execStart_keeps d c cyc at_ s h
  | .penRingWrite d v => execPenRingWrite_keeps d v s h
  | .evenCounterRead k at_ => execEvenCounterRead_keeps k at_ s h
  | .rcRead func a n at_ => execRcRead_keeps func a n at_ s h
  | .perfTaddrWrite v => execPerfTaddrWrite_keeps v s h
  | .perfHclrHbm => execPerfHclrHbm_keeps s h
  | .perfHclrSync => execPerfHclrSync_keeps s h
  | .perfHclrFlow => execPerfHclrFlow_keeps s h
  | .registerWrite func win a n v at_ cyc => execRegisterWrite_keeps func win a n v at_ cyc s h
  | .linkDown at_ cyc => execLinkDown_keeps at_ cyc s h
  | .hotReset at_ cyc => execHotReset_keeps at_ cyc s h
  | .functionLevelReset func at_ cyc => execFunctionLevelReset_keeps func at_ cyc s h
  | .perstN at_ cyc => execPerstN_keeps at_ cyc s h
  | .poisonedWriteRequest => execPoisonedWriteRequest_keeps s h
  | .unsupportedRequest => execUnsupportedRequest_keeps s h
  | .hctxEnable c v => execHctxEnable_keeps c v s h
  | .hctxDisable c v at_ cyc => execHctxDisable_keeps c v at_ cyc s h
  | .contextReset c at_ cyc => execContextReset_keeps c at_ cyc s h
  | .contextResetComplete c => execContextResetComplete_keeps c s h
  | .bar4Access a c acc => execBar4Access_keeps a c acc s h
  | .getId r at_ => execGetId_keeps r at_ s h
  | .getStatus r at_ => execGetStatus_keeps r at_ s h
  | .getSensor r at_ => execGetSensor_keeps r at_ s h
  | .getErrc r at_ => execGetErrc_keeps r at_ s h
  | .readLog r at_ => execReadLog_keeps r at_ s h
  | .setNext r at_ => execSetNext_keeps r at_ s h
  | .stageProfile r at_ => execStageProfile_keeps r at_ s h
  | .commitProfile r at_ => execCommitProfile_keeps r at_ s h
  | .readProfile r at_ => execReadProfile_keeps r at_ s h
  | .setLock r at_ => execSetLock_keeps r at_ s h
  | .moduleReset r at_ => execModuleReset_keeps r at_ s h
  | .stageFw r at_ => execStageFw_keeps r at_ s h
  | .commitFw r at_ => execCommitFw_keeps r at_ s h
  | .advanceSvn r at_ => execAdvanceSvn_keeps r at_ s h
  | .setdasa a at_ => execSetdasa_keeps a at_ s h
  | .entdaa a at_ => execEntdaa_keeps a at_ s h
  | .transactionTimeout at_ => execTransactionTimeout_keeps at_ s h
  | .mailboxTimeout => execMailboxTimeout_keeps s h
  | .consoleLine line at_ => execConsoleLine_keeps line at_ s h
  | .watchdogExpiry at_ => execWatchdogExpiry_keeps at_ s h
  | .modLockWrite v => execModLockWrite_keeps v s h
  | .modCmdReset key at_ => execModCmdReset_keeps key at_ s h
  | .vauxGood at_ => execVauxGood_keeps at_ s h
  | .vauxLost at_ => execVauxLost_keeps at_ s h
  | .vmainGood at_ => execVmainGood_keeps at_ s h
  | .vmainLost at_ => execVmainLost_keeps at_ s h
  | .railFailure g at_ => execRailFailure_keeps g at_ s h
  | .railFailurePowerDown at_ => execRailFailurePowerDown_keeps at_ s h
  | .railGroupGood g at_ => execRailGroupGood_keeps g at_ s h
  | .railGroupTimeout g at_ => execRailGroupTimeout_keeps g at_ s h
  | .droopTrip d mv at_ => execDroopTrip_keeps d mv at_ s h
  | .stretchRelease d at_ => execStretchRelease_keeps d at_ s h
  | .thermalSample site at_ => execThermalSample_keeps site at_ s h
  | .thermalTrip sensor at_ => execThermalTrip_keeps sensor at_ s h
  | .powerSample l vaux at_ => execPowerSample_keeps l vaux at_ s h
  | .pwrLimitWrite v => execPwrLimitWrite_keeps v s h
  | .pwrDroopWrite d v => execPwrDroopWrite_keeps d v s h
  | .modResetN low ns at_ => execModResetN_keeps low ns at_ s h
  | .stageEasel master profile mgmt at_ => execStageEasel_keeps master profile mgmt at_ s h
  | .stageRails at_ => execStageRails_keeps at_ s h
  | .stageBridgesAndHbm failed trained at_ => execStageBridgesAndHbm_keeps failed trained at_ s h
  | .stageQuickScan fails at_ => execStageQuickScan_keeps fails at_ s h
  | .stageLinks at_ => execStageLinks_keeps at_ s h
  | .stageEnumeration at_ => execStageEnumeration_keeps at_ s h
  | .syncAdd at_ c => execSyncAdd_keeps at_ c s h
  | .laserInputLit f k pwr at_ => execLaserInputLit_keeps f k pwr at_ s h
  | .linkUp speed width flit bme vfs => execLinkUp_keeps speed width flit bme vfs s h
  | .exchangePhaseEnd t at_ => execExchangePhaseEnd_keeps t at_ s h
  | .restoreComplete c at_ cyc => execRestoreComplete_keeps c at_ cyc s h
  | .confirmWindowExpiry n at_ => execConfirmWindowExpiry_keeps n at_ s h
  | .tapInstruction j => execTapInstruction_keeps j s h
  | .clockRampComplete d at_ => execClockRampComplete_keeps d at_ s h

/-- Settles O58: a step idles, or runs one command on the state with the queue's rest, which keeps every map canonical. -/
theorem stepKeepsCanonical : Obligations.StepKeepsCanonical := by
  intro s u hs hstep
  have hgood := (State.canonical_iff_good s).mp hs
  unfold step at hstep
  split at hstep
  case h_1 =>
    cases hstep
    exact hs
  case h_2 c rest hpending =>
    have hu := exec_keeps c _ (hgood.withPending rest) u hstep
    exact (State.canonical_iff_good u).mpr (hu.pend.symm ▸ hu)

end Sys2Proof.Machine
end

section
/-! SUPPORT. Instructions whose effect is a function of the tile's program side: what an effect does, said once, and what
it leaves of the tiles when its instruction issues (R64-R66, R71). -/

namespace Sys2Proof.Machine

/-- What a program sees of the effect `eff` of an instruction that can issue in cycle `c`: no increment is handed out, the
program side becomes what `f` makes of the tile with its due results written, and the Palette is kept. -/
structure ActsAs (s : State) (p c : Nat) (eff : Nat → TW → TW) (f : Nat → Tile → Tile) : Prop where
  quiet : ∀ k z, z.From s p c → (eff k z).out.all Ev.quiet = true
  side : ∀ k z, z.From s p c → (eff k z).t.side = (f k ((s.tile p).settle c)).side
  calm : ∀ k z b, z.From s p c → z.Calm b → (eff k z).t.pal = b.pal ∧ (eff k z).t.palPois = b.pois

section
variable {s : State} {p c : Nat}

/-- A function of the tile that reads the program side alone acts as itself. -/
theorem ActsAs.map (f : Nat → Tile → Tile) (hside : ∀ k a b, Tile.side a = Tile.side b → (f k a).side = (f k b).side)
    (hpal : ∀ k a, (f k a).pal = a.pal ∧ (f k a).palPois = a.palPois) : ActsAs s p c (fun k y => y.map (f k)) f where
  quiet _ _ hz := hz.is.quiet
  side k _ hz := hside k _ _ hz.is.tile.eq
  calm k z _ _ hb := ⟨(hpal k z.t).1.trans hb.tile.pal, (hpal k z.t).2.trans hb.tile.pois⟩

/-- R71: an instruction without a Palette request issues in the first cycle in which it can. -/
theorem State.Issues.completes {t : TileId} {w : IW} {sh : Shape} {eff : Nat → TW → TW} {f : Nat → Tile → Tile}
    (h : s.Issues t p w sh c) (hs : s.tilesWf = true) (hport : sh.port = fun _ _ => none)
    (hcheck : ∀ a b : Tile, a.side = b.side → sh.check a = sh.check b) (ha : ActsAs s p c eff f) :
    (s.runTile t fun x => x.issue w sh eff).After s p c c (f c) ∧
      (s.runTile t fun x => x.issue w sh eff).PaletteKept s p := by
  obtain ⟨k, -, hk, hafter⟩ := h.after hs hcheck eff f fun k z hz => ⟨ha.quiet k z hz, ha.side k z hz⟩
  obtain rfl := hk hport
  exact ⟨hafter, h.kept hs hcheck eff ha.quiet ha.calm⟩

end

/-- An instruction completes with `f` when its command issues its shape with an effect that acts as `f`. -/
theorem Completes.of_issue {mk : TileId → IW → Instr} {sh : IW → Shape} {f : IW → Nat → Tile → Tile}
    (eff : IW → Nat → TW → TW)
    (hexec : ∀ s t w, exec (mk t w) s = .next (s.runTile t fun x => x.issue w (sh w) (eff w)))
    (hport : ∀ w, (sh w).port = fun _ _ => none)
    (hcheck : ∀ w (a b : Tile), a.side = b.side → (sh w).check a = (sh w).check b)
    (ha : ∀ s p w c, ActsAs s p c (eff w) (f w)) : Completes mk sh f :=
  fun s t p w c hs h => ⟨_, hexec s t w, h.completes hs (hport w) (hcheck w) (ha s p w c)⟩

/-- R77, R66: the ALU's effect reads the program side and leaves the Palette alone. -/
theorem aluEffect_acts (op : Word → Word → Word) (s : State) (p : Nat) (w : IW) (c : Nat) :
    ActsAs s p c (fun k y => y.map (aluEffect op w k)) (aluEffect op w) := by
  refine ActsAs.map _ (fun k a b h => ?_) fun k a => ?_
  · simp only [aluEffect, Tile.side_sreg h, Tile.side_tag h]
    exact Tile.advance_side (Tile.setReg_side h _ _ _)
  · simp only [aluEffect, Tile.advance_pal, Tile.setReg_pal, and_self]

theorem aluiEffect_acts (op : Word → Word → Word) (s : State) (p : Nat) (w : IW) (c : Nat) :
    ActsAs s p c (fun k y => y.map (aluiEffect op w k)) (aluiEffect op w) := by
  refine ActsAs.map _ (fun k a b h => ?_) fun k a => ?_
  · simp only [aluiEffect, Tile.side_sreg h, Tile.side_tag h]
    exact Tile.advance_side (Tile.setReg_side h _ _ _)
  · simp only [aluiEffect, Tile.advance_pal, Tile.setReg_pal, and_self]

theorem cmpEffect_acts (op : Word → Word → Bool) (s : State) (p : Nat) (w : IW) (c : Nat) :
    ActsAs s p c (fun k y => y.map (cmpEffect op w k)) (cmpEffect op w) := by
  refine ActsAs.map _ (fun k a b h => ?_) fun k a => ?_
  · simp only [cmpEffect, Tile.side_sreg h]
    exact Tile.advance_side (Tile.setPred_side h _ _)
  · simp only [cmpEffect, Tile.advance_pal, Tile.setPred_pal, and_self]

theorem plogicEffect_acts (op : Bool → Bool → Bool) (s : State) (p : Nat) (w : IW) (c : Nat) :
    ActsAs s p c (fun k y => y.map (plogicEffect op w k)) (plogicEffect op w) := by
  refine ActsAs.map _ (fun k a b h => ?_) fun k a => ?_
  · simp only [plogicEffect, Tile.side_pred h]
    exact Tile.advance_side (Tile.setPred_side h _ _)
  · simp only [plogicEffect, Tile.advance_pal, Tile.setPred_pal, and_self]

section
variable {mk : TileId → IW → Instr}

/-- R77: a register ALU command. -/
theorem completes_alu (op : Word → Word → Word)
    (hexec : ∀ s t w, exec (mk t w) s = .next (s.runTile t fun x => x.alu w op)) :
    Completes mk aluShape (aluEffect op) :=
  .of_issue (fun w k y => y.map (aluEffect op w k)) hexec (fun _ => rfl) (fun _ _ _ _ => rfl) (aluEffect_acts op)

/-- R77: an immediate ALU command. -/
theorem completes_alui (op : Word → Word → Word)
    (hexec : ∀ s t w, exec (mk t w) s = .next (s.runTile t fun x => x.alui w op)) :
    Completes mk aluiShape (aluiEffect op) :=
  .of_issue (fun w k y => y.map (aluiEffect op w k)) hexec (fun _ => rfl) (fun _ _ _ _ => rfl) (aluiEffect_acts op)

/-- R79: a compare. -/
theorem completes_cmp (op : Word → Word → Bool)
    (hexec : ∀ s t w, exec (mk t w) s = .next (s.runTile t fun x => x.cmp w op)) :
    Completes mk cmpShape (cmpEffect op) :=
  .of_issue (fun w k y => y.map (cmpEffect op w k)) hexec (fun _ => rfl) (fun _ _ _ h => noPoison_side h _)
    (cmpEffect_acts op)

/-- R79: an operation of predicate logic. -/
theorem completes_plogic (op : Bool → Bool → Bool)
    (hexec : ∀ s t w, exec (mk t w) s = .next (s.runTile t fun x => x.plogic w op)) :
    Completes mk (fun w => { illegal := w.f 0 40 ≠ 0 }) (plogicEffect op) :=
  .of_issue (fun w k y => y.map (plogicEffect op w k)) hexec (fun _ => rfl) (fun _ _ _ _ => rfl) (plogicEffect_acts op)

end

/-! R77: the minima and maxima, by the integers that their operands stand for. -/

theorem smin64_eq : smin64 = fun a b => if a.toInt < b.toInt then a else b := by
  funext a b
  simp only [smin64, BitVec.slt, decide_eq_true_eq]

theorem smax64_eq : smax64 = fun a b => if a.toInt < b.toInt then b else a := by
  funext a b
  simp only [smax64, BitVec.slt, decide_eq_true_eq]

theorem umin64_eq : umin64 = fun a b => if a.toNat < b.toNat then a else b := by
  funext a b
  simp only [umin64, BitVec.ult, decide_eq_true_eq]

theorem umax64_eq : umax64 = fun a b => if a.toNat < b.toNat then b else a := by
  funext a b
  simp only [umax64, BitVec.ult, decide_eq_true_eq]

end Sys2Proof.Machine
end

section
/-! The ALU, the moves, the compares and the predicate logic, settled (R76-R79). -/

namespace Sys2Proof.Machine

theorem registerAlu : RegisterAlu :=
  ⟨completes_alu _ fun _ _ _ => rfl, completes_alu _ fun _ _ _ => rfl, completes_alu _ fun _ _ _ => rfl,
    completes_alu _ fun _ _ _ => rfl, completes_alu _ fun _ _ _ => rfl, completes_alu shl64 fun _ _ _ => rfl,
    completes_alu shr64 fun _ _ _ => rfl, completes_alu sar64 fun _ _ _ => rfl,
    smin64_eq ▸ completes_alu smin64 fun _ _ _ => rfl, smax64_eq ▸ completes_alu smax64 fun _ _ _ => rfl,
    umin64_eq ▸ completes_alu umin64 fun _ _ _ => rfl, umax64_eq ▸ completes_alu umax64 fun _ _ _ => rfl⟩

theorem immediateAlu : ImmediateAlu :=
  ⟨completes_alui _ fun _ _ _ => rfl, completes_alui _ fun _ _ _ => rfl, completes_alui _ fun _ _ _ => rfl,
    completes_alui _ fun _ _ _ => rfl, completes_alui _ fun _ _ _ => rfl, completes_alui shl64 fun _ _ _ => rfl,
    completes_alui shr64 fun _ _ _ => rfl, completes_alui sar64 fun _ _ _ => rfl,
    smin64_eq ▸ completes_alui smin64 fun _ _ _ => rfl, smax64_eq ▸ completes_alui smax64 fun _ _ _ => rfl,
    umin64_eq ▸ completes_alui umin64 fun _ _ _ => rfl, umax64_eq ▸ completes_alui umax64 fun _ _ _ => rfl⟩

/-- Settles O1: each command issues the ALU's shape with its operation's effect, and completes with it. -/
theorem aluResults : Obligations.AluResults := ⟨registerAlu, immediateAlu⟩

/-- Settles O2: either command writes its destination register and advances. -/
theorem moviAndMovhi : Obligations.MoviAndMovhi := by
  refine ⟨.of_issue (fun w _ y => y.map _) (fun _ _ _ => rfl) (fun _ => rfl) (fun _ _ _ _ => rfl) fun s p w c =>
      ActsAs.map _ (fun k a b h => ?moviSide) fun k a => ?moviPal,
    .of_issue (fun w _ y => y.map _) (fun _ _ _ => rfl) (fun _ => rfl) (fun _ _ _ _ => rfl) fun s p w c =>
      ActsAs.map _ (fun k a b h => ?movhiSide) fun k a => ?movhiPal⟩
  case moviSide => exact Tile.advance_side (Tile.setReg_side h _ _ _)
  case moviPal => simp only [Tile.advance_pal, Tile.setReg_pal, and_self]
  case movhiSide =>
    simp only [Tile.side_sreg h, Tile.side_tag h]
    exact Tile.advance_side (Tile.setReg_side h _ _ _)
  case movhiPal => simp only [Tile.advance_pal, Tile.setReg_pal, and_self]

theorem compares : Compares := by
  have hne : (fun a b : Word => decide (a ≠ b)) = (· != ·) := by
    funext a b
    exact decide_not
  have hge : (fun a b : Word => decide (b.toInt ≤ a.toInt)) = fun a b => !BitVec.slt a b := by
    funext a b
    simp only [BitVec.slt, ← decide_not, Int.not_lt]
  have hgeu : (fun a b : Word => decide (b.toNat ≤ a.toNat)) = fun a b => !BitVec.ult a b := by
    funext a b
    simp only [BitVec.ult, ← decide_not, Nat.not_lt]
  refine ⟨completes_cmp _ fun _ _ _ => rfl, ?_, completes_cmp _ fun _ _ _ => rfl, ?_,
    completes_cmp _ fun _ _ _ => rfl, ?_⟩
  · rw [hne]
    exact completes_cmp _ fun _ _ _ => rfl
  · rw [hge]
    exact completes_cmp _ fun _ _ _ => rfl
  · rw [hgeu]
    exact completes_cmp _ fun _ _ _ => rfl

theorem predicateLogic : PredicateLogic := by
  refine ⟨completes_plogic _ fun _ _ _ => rfl, completes_plogic _ fun _ _ _ => rfl,
    completes_plogic _ fun _ _ _ => rfl, completes_plogic _ fun _ _ _ => rfl, fun s t p v c hs h => ?_⟩
  exact ⟨_, rfl, h.completes hs rfl (fun _ _ _ => rfl)
    (ActsAs.map (fun _ => Tile.advance) (fun _ _ _ => Tile.advance_side) fun _ => Tile.advance_pal)⟩

/-- Settles O3: a compare and an operation of predicate logic set their predicate and advance, and NOP advances. -/
theorem predicateResults : Obligations.PredicateResults := ⟨compares, predicateLogic⟩

end Sys2Proof.Machine
end

section
/-! SUPPORT. The instructions whose result is due later, and the arrival of a result (R71, R81, R82, R96). -/

namespace Sys2Proof.Machine

theorem muldivEffect_acts (l1 l2 : Nat) (op : Word → Word → Word) (s : State) (p : Nat) (w : IW) (c : Nat) :
    ActsAs s p c (fun k y => y.map (muldivEffect l1 l2 op w k)) (muldivEffect l1 l2 op w) := by
  refine ActsAs.map _ (fun k a b h => ?_) fun k a => a.later _ _ _ _ |>.advance_pal
  simp only [muldivEffect, Tile.side_sreg h, Tile.side_tag h, Tile.side_model h]
  exact Tile.advance_side (Tile.later_side h _ _ _ _)

/-- R81: a MULDIV operation. -/
theorem completes_muldiv {mk : TileId → IW → Instr} (l1 l2 : Nat) (op : Word → Word → Word)
    (hexec : ∀ s t w, exec (mk t w) s = .next (s.runTile t fun x => x.muldiv w l1 l2 op)) :
    Completes mk aluShape (muldivEffect l1 l2 op) :=
  .of_issue (fun w k y => y.map (muldivEffect l1 l2 op w k)) hexec (fun _ => rfl) (fun _ _ _ _ => rfl)
    (muldivEffect_acts l1 l2 op)

/-- A set-up register reads, in the tile that an instruction acts on, as it did before. -/
theorem TW.From.get {s : State} {p c : Nat} {z : TW} (h : z.From s p c) (f : RF) (hlo : 0x80 ≤ f.addr)
    (hhi : f.addr < 0x1E0) : z.t.get f = ((s.tile p).settle c).get f := by
  have hword : rreg tileReset z.t.regs f.addr = rreg tileReset (s.tile p).regs f.addr :=
    h.fixed.tile.raw.word _ hlo hhi
  have hregs : ((s.tile p).settle c).regs = (s.tile p).regs := (Tile.settle_rest _ c).2.2.1
  simp only [Tile.get, rget, hword, hregs]

theorem rndEffect_pal (w : IW) (k : Nat) (t : Tile) :
    (rndEffect w k t).pal = t.pal ∧ (rndEffect w k t).palPois = t.palPois := Tile.advance_pal _

/-- R82: a Stipple draw counts its event, and its result comes later. -/
theorem rndEffect_acts (s : State) (p : Nat) (w : IW) (c : Nat) :
    ActsAs s p c (fun k y => (y.perf 0x1A 1).map (rndEffect w k)) (rndEffect w) where
  quiet k z hz := (TW.perf_is z 0x1A 1 hz.is).quiet
  side k z hz := by
    have hperf : (z.perf 0x1A 1).From s p c :=
      ⟨TW.perf_is _ _ _ hz.is, TW.perf_fixed _ _ _ hz.fixed, fun hst => TW.perf_still _ _ _ (hz.calm hst)⟩
    have h := hperf.is.tile.eq
    have hseed := hperf.get TF.STIP_SEED.seed (by decide) (by decide)
    show (rndEffect w k (z.perf 0x1A 1).t).side = _
    simp only [rndEffect, hseed, Tile.side_sreg h, Tile.side_model h]
    exact Tile.advance_side (Tile.later_side h _ _ _ _)
  calm k z b _ hb := by
    have h := TW.perf_still z 0x1A 1 hb
    have hpal := rndEffect_pal w k (z.perf 0x1A 1).t
    exact ⟨hpal.1.trans h.tile.pal, hpal.2.trans h.tile.pois⟩

/-! R81: the quotients and remainders, by the integers that their operands stand for; BitVec.sdiv and BitVec.srem wrap the
one quotient that does not fit. -/

theorem div64_eq : div64 = fun a b =>
    if b = 0 then BitVec.allOnes 64 else BitVec.ofInt 64 (a.toInt.tdiv b.toInt) := by
  funext a b
  have h : BitVec.sdiv a b = BitVec.ofInt 64 (a.toInt.tdiv b.toInt) :=
    BitVec.eq_of_toInt_eq (by rw [BitVec.toInt_sdiv, BitVec.toInt_ofInt])
  simp only [div64, h]

theorem rem64_eq : rem64 = fun a b => if b = 0 then a else BitVec.ofInt 64 (a.toInt.tmod b.toInt) := by
  funext a b
  have h : BitVec.srem a b = BitVec.ofInt 64 (a.toInt.tmod b.toInt) := by
    rw [← BitVec.toInt_srem, BitVec.ofInt_toInt]
  simp only [rem64, h]

theorem divu64_eq : divu64 = fun a b =>
    if b = 0 then BitVec.allOnes 64 else BitVec.ofNat 64 (a.toNat / b.toNat) := by
  funext a b
  have h : a / b = BitVec.ofNat 64 (a.toNat / b.toNat) := by
    rw [← BitVec.toNat_udiv, BitVec.ofNat_toNat, BitVec.setWidth_eq]
  simp only [divu64, h]

theorem remu64_eq : remu64 = fun a b => if b = 0 then a else BitVec.ofNat 64 (a.toNat % b.toNat) := by
  funext a b
  have h : a % b = BitVec.ofNat 64 (a.toNat % b.toNat) := by
    rw [← BitVec.toNat_umod, BitVec.ofNat_toNat, BitVec.setWidth_eq]
  simp only [remu64, h]

/-! R71, R96: the arrival of a result. -/

theorem foldl_min_eq (d : Nat) (l : List Nat) (h : ∀ e ∈ l, d ≤ e) : l.foldl min d = d := by
  induction l with
  | nil => rfl
  | cons e l ih =>
    rw [List.foldl_cons, Nat.min_eq_left (h e List.mem_cons_self)]
    exact ih fun x hx => h x (List.mem_cons_of_mem e hx)

/-- The results due by the cycle of the first, which is due before every other, are the first alone. -/
theorem Tile.settle_first {t : Tile} {r : Pend} {l : List Pend} (h : t.pend = r :: l) (hl : ∀ q ∈ l, r.due < q.due) :
    t.settle r.due = { t.setReg r.reg r.val r.tag with pend := l } := by
  have hdue : t.pend.filter (fun p => decide (p.due ≤ r.due)) = [r] := by
    rw [h, List.filter_cons_of_pos (by simp), List.filter_eq_nil_iff.mpr fun q hq => by simpa using hl q hq]
  have hlate : t.pend.filter (fun p => decide (r.due < p.due)) = l := by
    rw [h, List.filter_cons_of_neg (by simp), List.filter_eq_self.mpr fun q hq => by simpa using hl q hq]
  simp only [Tile.settle, hdue, hlate, Tile.settleList]

/-- R96: the tile reaches the cycle of its earliest result, which is then in its register. -/
theorem Tile.nextResult_first {t : Tile} {r : Pend} {l : List Pend} (h : t.pend = r :: l)
    (hl : ∀ q ∈ l, r.due < q.due) :
    t.nextResult = { t.setReg r.reg r.val r.tag with pend := l, cyc := max t.cyc r.due } := by
  have hmin : (l.map (·.due)).foldl min r.due = r.due :=
    foldl_min_eq _ _ fun e he => by
      obtain ⟨q, hq, rfl⟩ := List.mem_map.mp he
      exact Nat.le_of_lt (hl q hq)
  simp only [Tile.nextResult, h, List.map_cons, hmin, Tile.settle_first h hl]

end Sys2Proof.Machine
end

section
/-! The instructions whose result is due later, settled. -/

namespace Sys2Proof.Machine

theorem longOperations : LongOperations :=
  ⟨completes_muldiv 4 3 _ fun _ _ _ => rfl, completes_muldiv 4 3 mulh64 fun _ _ _ => rfl,
    completes_muldiv 4 3 mulhu64 fun _ _ _ => rfl, div64_eq ▸ completes_muldiv 24 18 div64 fun _ _ _ => rfl,
    divu64_eq ▸ completes_muldiv 24 18 divu64 fun _ _ _ => rfl,
    rem64_eq ▸ completes_muldiv 24 18 rem64 fun _ _ _ => rfl,
    remu64_eq ▸ completes_muldiv 24 18 remu64 fun _ _ _ => rfl,
    .of_issue (fun w k y => (y.perf 0x1A 1).map (rndEffect w k)) (fun _ _ _ => rfl) (fun _ => rfl)
      (fun _ _ _ h => noPoison_side h _) rndEffect_acts⟩

theorem resultArrives : ResultArrives := by
  intro s t p r l hs hp hpend hl
  refine ⟨s.onTile p fun x => x.map Tile.nextResult, congrArg _ (s.runTile_served t p _ hp), ?_⟩
  have hsides := s.onTile_sides p (fun x => x.map Tile.nextResult) (State.tilesWf_sorted hs) rfl
  refine ⟨?_, fun q hq => ?_⟩
  · obtain ⟨a, b, h⟩ := hsides.same p
    rw [h, if_pos rfl]
    show (s.tile p).nextResult.side = _
    rw [Tile.nextResult_first hpend hl]
  · obtain ⟨a, b, h⟩ := hsides.same q
    rw [if_neg hq] at h
    exact ⟨a, b, h⟩

/-- Settles O4: each result is due at its instruction's latency, and the earliest one due arrives. -/
theorem laterResults : Obligations.LaterResults := ⟨longOperations, resultArrives⟩

end Sys2Proof.Machine
end

section
/-! SUPPORT. Taken branches, the loops and the waits on tokens (R83-R86, R91). -/

namespace Sys2Proof.Machine

/-- A tile that goes on at `target`, out of the loops whose bodies it leaves (R83, R86). -/
def Tile.goTo (t : Tile) (target : Nat) : Tile := { t with pc := target, loops := loopsAt target t.loops }

theorem Tile.goTo_side {t u : Tile} (h : t.side = u.side) (target : Nat) :
    (t.goTo target).side = (u.goTo target).side := by
  simp only [Tile.goTo, Tile.side, ProgramSide.mk.injEq] at h ⊢
  simp [h]

section
variable {x : TW} (c target : Nat)

/-- R69, R83: of the program side, a taken branch changes the program counter and the loops; its row reads are no
increment. -/
theorem TW.branch_is {m : Mark} (h : x.Is m) :
    (x.branch c target).out.all Ev.quiet = true ∧ (x.branch c target).t.side = (x.t.goTo target).side := by
  have hfetch : ∀ k, (x.fetchTo k).Is m := fun k => TW.fetchTo_is x k h
  have hside : ∀ k, (x.fetchTo k).t.side = x.t.side := fun k => (hfetch k).tile.eq.trans h.tile.eq.symm
  exact ⟨(hfetch _).quiet, Tile.goTo_side (hside _) target⟩

theorem TW.branch_calm {b : Bits} (h : x.Calm b) :
    (x.branch c target).t.pal = b.pal ∧ (x.branch c target).t.palPois = b.pois :=
  have hfetch := fun k => TW.fetchTo_still x k h
  ⟨(hfetch _).tile.pal, (hfetch _).tile.pois⟩

end

/-- R83: the tile with its link written, where the branch has one. -/
def Tile.linked (t : Tile) : Option Nat → Tile
  | some l => t.setReg l (BitVec.ofNat 64 (t.pc + 8)) false
  | none => t

theorem branchEffect_eq (target : Tile → Nat) (link : Option Nat) (k : Nat) (t : Tile) :
    branchEffect target link k t = (t.linked link).goTo (target t) := by
  cases link <;> rfl

theorem Tile.linked_side {t u : Tile} (h : t.side = u.side) (link : Option Nat) :
    (t.linked link).side = (u.linked link).side := by
  cases link with
  | none => exact h
  | some l =>
    simp only [Tile.linked, Tile.side_pc h]
    exact Tile.setReg_side h _ _ _

theorem Tile.linked_calm {b : Bits} {t : Tile} (h : t.Calm b) (link : Option Nat) : (t.linked link).Calm b := by
  cases link with
  | none => exact h
  | some l =>
    simp only [Tile.linked, Tile.setReg]
    split
    · exact h
    · exact Tile.still_lit h.raw

/-- R83: a branch to a target that the program side names. -/
theorem branchEffect_acts (target : Tile → Nat) (htarget : ∀ a b : Tile, a.side = b.side → target a = target b)
    (link : Option Nat) (s : State) (p c : Nat) :
    ActsAs s p c (fun k y => (y.map fun t => t.linked link).branch k (target y.t)) (branchEffect target link) where
  quiet k z hz := by
    have hlinked : (z.map fun t => t.linked link).Is (z.map fun t => t.linked link).mark := TW.is_mark _ hz.is.quiet
    exact (TW.branch_is k (target z.t) hlinked).1
  side k z hz := by
    have h := hz.is.tile.eq
    have hlinked : (z.map fun t => t.linked link).Is (z.map fun t => t.linked link).mark := TW.is_mark _ hz.is.quiet
    rw [(TW.branch_is k (target z.t) hlinked).2, branchEffect_eq, htarget _ _ h]
    exact Tile.goTo_side (Tile.linked_side h link) _
  calm k z b _ hb := TW.branch_calm k (target z.t) (TW.map_still z _ (fun _ ht => Tile.linked_calm ht link) hb)

theorem jumpShape_check {illegal : Bool} {reads writes : List Nat} {target : Tile → Nat}
    (htarget : ∀ a b : Tile, a.side = b.side → target a = target b) {a b : Tile} (h : a.side = b.side) :
    (jumpShape illegal reads writes target).check a = (jumpShape illegal reads writes target).check b := by
  simp only [jumpShape, andThen, noPoison_side h, htarget a b h]

/-- R83: a branch, call or jump. -/
theorem completes_jump {mk : TileId → IW → Instr} (illegal : IW → Bool) (reads writes : IW → List Nat)
    (target : IW → Tile → Nat) (link : IW → Option Nat)
    (hexec : ∀ s t w, exec (mk t w) s =
      .next (s.runTile t fun x => x.jump w (illegal w) (reads w) (writes w) (target w) (link w)))
    (htarget : ∀ w (a b : Tile), a.side = b.side → target w a = target w b) :
    Completes mk (fun w => jumpShape (illegal w) (reads w) (writes w) (target w))
      (fun w => branchEffect (target w) (link w)) := by
  refine .of_issue (fun w k y => (y.map fun t => t.linked (link w)).branch k (target w y.t))
    (fun s t w => (hexec s t w).trans ?_) (fun _ => rfl) (fun w _ _ h => jumpShape_check (htarget w) h)
    fun s p w c => branchEffect_acts _ (htarget w) _ s p c
  cases link w <;> rfl

/-! Loops (R84-R86). -/

/-- The low bits of a register, as a number. -/
theorem Word.field_low (x : Word) (n : Nat) : x.field 0 n = x.toNat % 2 ^ n := by
  rw [Word.field, BitVec.extractLsb'_toNat, Nat.shiftRight_zero]

/-- R84: what a loop instruction whose guard holds does in cycle `c`. -/
def TW.loopGo (count : Tile → Nat) (w : IW) (c : Nat) (y : TW) : TW :=
  if count y.t = 0 then y.branch c (y.t.pc + 8 * (w.f 28 16 + 1 + 1))
  else y.map fun t =>
    { t with loops := ⟨t.pc + 8, t.pc + 8 * (w.f 28 16 + 1), count t⟩ :: t.loops, pc := t.pc + 8 }

section
variable {s : State} {p c : Nat} {w : IW} {count : Tile → Nat}
  (hcount : ∀ a b : Tile, a.side = b.side → count a = count b)
include hcount

theorem loopEffect_acts : ActsAs s p c (fun k y => y.loopGo count w k) (fun _ => loopEffect count w) where
  quiet k z hz := by
    unfold TW.loopGo
    split
    · exact (TW.branch_is k _ hz.is).1
    · exact hz.is.quiet
  side k z hz := by
    have h := hz.is.tile.eq
    simp only [TW.loopGo, loopEffect, hcount _ _ h]
    split
    · rw [(TW.branch_is k _ hz.is).2, Tile.side_pc h]
      exact Tile.goTo_side h _
    · simp only [TW.map, Tile.side, ProgramSide.mk.injEq] at h ⊢
      simp [h, hcount _ _ hz.is.tile.eq]
  calm k z b hz hb := by
    unfold TW.loopGo
    split
    · exact TW.branch_calm k _ hb
    · exact ⟨hb.tile.pal, hb.tile.pois⟩

theorem loopShape_check {illegal : Bool} {reads : List Nat} {a b : Tile} (h : a.side = b.side) :
    (loopShape illegal reads count w).check a = (loopShape illegal reads count w).check b := by
  simp only [loopShape, andThen, noPoison_side h, hcount a b h, Tile.side_loops h, Tile.side_pc h]

omit hcount in
/-- R72, R84: a loop instruction whose guard holds issues as any other instruction does. -/
theorem State.Issues.loop_eq {t : TileId} {illegal : Bool} {reads : List Nat}
    (h : s.Issues t p w (loopShape illegal reads count w) c) :
    (s.view p).loop w illegal reads count =
      (s.view p).issue w (loopShape illegal reads count w) fun k y => y.loopGo count w k := by
  have hguard : ((s.fetched p).settle (s.fetched p).rowCycle).guard w = true := by
    rw [Tile.side_guard (Tile.settle_side (s.fetched_side p) _), h.guard]
  exact if_pos hguard

/-- R84: LOOP and LOOPR. -/
theorem completes_loop {mk : TileId → IW → Instr} {t : TileId} {illegal : Bool} {reads : List Nat}
    (hexec : exec (mk t w) s = .next (s.runTile t fun x => x.loop w illegal reads count)) (hs : s.tilesWf = true)
    (h : s.Issues t p w (loopShape illegal reads count w) c) :
    ∃ u, exec (mk t w) s = .next u ∧ u.After s p c c (loopEffect count w) ∧ u.PaletteKept s p := by
  have hrun : (s.runTile t fun x => x.loop w illegal reads count) =
      s.runTile t fun x => x.issue w (loopShape illegal reads count w) fun k y => y.loopGo count w k := by
    rw [s.runTile_served t p _ h.served, s.runTile_served t p _ h.served]
    exact s.onTile_congr p _ _ h.loop_eq
  exact ⟨_, hexec.trans (congrArg _ hrun), h.completes hs rfl (fun _ _ => loopShape_check hcount) (loopEffect_acts hcount)⟩

end

/-! Waits (R91). -/

theorem Tile.waitPred_side {t u : Tile} (h : t.side = u.side) (c m : Nat) : t.waitPred c m = u.waitPred c m := by
  have hstatus : t.tokenStatus = u.tokenStatus := by
    simp only [Tile.side, ProgramSide.mk.injEq] at h
    funext k
    simp only [Tile.tokenStatus, h]
  simp only [Tile.waitPred, Tile.side_tokenPending h, Tile.side_tokenFrom h, hstatus]

theorem waitEffect_acts (s : State) (p : Nat) (w : IW) (c : Nat) :
    ActsAs s p c (fun k y => y.map (waitEffect w k)) (waitEffect w) := by
  refine ActsAs.map _ (fun k a b h => ?_) fun k a => ?_
  · simp only [waitEffect, Tile.waitPred_side h]
    split
    · exact Tile.advance_side (Tile.setPred_side h _ _)
    · exact Tile.advance_side h
  · unfold waitEffect
    split
    · simp only [Tile.advance_pal, Tile.setPred_pal, and_self]
    · exact a.advance_pal

/-- R91: a wait on tokens. -/
theorem completes_wait {mk : TileId → IW → Instr} (hold : Nat → Tile → Option Nat)
    (hexec : ∀ s t w, exec (mk t w) s = .next (s.runTile t fun x => x.wait w (hold (w.f 0 32)))) :
    Completes mk (waitShape hold) waitEffect :=
  .of_issue (fun w k y => y.map (waitEffect w k)) hexec (fun _ => rfl) (fun _ _ _ _ => rfl) waitEffect_acts

end Sys2Proof.Machine
end

section
/-! The branches, the loops and the waits, settled. -/

namespace Sys2Proof.Machine

theorem branches : Branches :=
  ⟨completes_jump _ _ _ _ (fun _ => none) (fun _ _ _ => rfl) fun w _ _ h => relTarget_side h w,
    completes_jump _ _ _ _ (fun w => some (w.f 44 5)) (fun _ _ _ => rfl) fun w _ _ h => relTarget_side h w,
    completes_jump _ _ _ regTarget (fun _ => none) (fun _ _ _ => rfl) fun w _ _ h => regTarget_side h w,
    completes_jump _ _ _ regTarget (fun w => some (w.f 44 5)) (fun _ _ _ => rfl) fun w _ _ h => regTarget_side h w⟩

theorem loops : Loops := by
  refine ⟨fun s t p w c hs h => completes_loop (fun _ _ _ => rfl) rfl hs h,
    fun s t p w c hs h => completes_loop (fun a b hab => by simp only [Tile.side_sreg hab]) ?_ hs h⟩
  have hcount : (fun t : Tile => (t.sreg (w.f 44 5)).toNat % 2 ^ 32) = fun t => (t.sreg (w.f 44 5)).field 0 32 := by
    funext t
    rw [Word.field_low]
  rw [hcount]
  rfl

theorem waits : Waits := ⟨completes_wait _ fun _ _ _ => rfl, completes_wait _ fun _ _ _ => rfl⟩

/-- Settles O5: a taken branch goes to its target, a loop starts or is skipped, and a wait sets its predicate. -/
theorem controlFlow : Obligations.ControlFlow := ⟨branches, loops, waits⟩

end Sys2Proof.Machine
end

section
/-! SUPPORT. A scalar store written to its segment: the merge of its bytes into what the segment held is the plain write of
those bytes (R80, R103, R108). -/

namespace Sys2Proof.Machine

/-- Memories that read the same number over a range hold the same bytes in it. -/
theorem byte_of_memRead {m k : SMap (BitVec 8)} {a n b : Nat} (h : memRead m a n = memRead k a n) (ha : a ≤ b)
    (hb : b < a + n) : SMap.getD m b 0#8 = SMap.getD k b 0#8 := by
  have hbyte : ∀ q : SMap (BitVec 8), memRead q a n / 256 ^ (b - a) % 256 ^ 1 = (SMap.getD q b 0#8).toNat := fun q => by
    rw [memRead_mid q a (b - a) 1 n (by omega), Nat.add_sub_cancel' ha]
    rfl
  exact BitVec.eq_of_toNat_eq (by rw [← hbyte m, ← hbyte k, h])

/-- The number that a write of `n` bytes from byte `off` merges into `b`. -/
def mergeBytes (off n v b : Nat) : Nat := b - b / 256 ^ off % 256 ^ n * 256 ^ off + v % 256 ^ n * 256 ^ off

/-- The merge is what a range reads after the write of its bytes. -/
theorem mergeBytes_memRead {m : SMap (BitVec 8)} (a off n v len : Nat) (hm : SMap.sorted m = true)
    (h : off + n ≤ len) :
    mergeBytes off n v (memRead m a len) = memRead (memWrite m (a + off) n v) a len := by
  obtain ⟨r, rfl⟩ : ∃ r, len = off + (n + r) := ⟨len - off - n, by omega⟩
  have hlo : memRead (memWrite m (a + off) n v) a off = memRead m a off :=
    memRead_congr _ _ _ _ fun b _ hb => memWrite_other _ _ _ _ _ (by omega)
  have hhi : memRead (memWrite m (a + off) n v) (a + off + n) r = memRead m (a + off + n) r :=
    memRead_congr _ _ _ _ fun b hb _ => memWrite_other _ _ _ _ _ (by omega)
  have hsplit : ∀ q : SMap (BitVec 8), memRead q a (off + (n + r)) = memRead q a off +
      (memRead q (a + off) n * 256 ^ off + 256 ^ off * (256 ^ n * memRead q (a + off + n) r)) := fun q => by
    rw [memRead_add q a off, memRead_add q (a + off) n, Nat.mul_add, Nat.mul_comm (memRead q (a + off) n)]
  rw [mergeBytes, memRead_mid m a off n _ h, hsplit m, hsplit, hlo, hhi, memRead_memWrite _ _ _ _ hm]
  omega

/-- A segment with no error takes the merged bytes, and its writer's mark beside the mark it has; a whole segment takes the
writer's mark alone. -/
theorem TW.writeSeg_clean {x : TW} (seg off n v : Nat) (mark : Bool) (herr : x.t.palErr = []) :
    x.writeSeg seg off n v mark = x.map fun t => (t.tearRow (seg / 4)).setSeg seg
      (if off = 0 ∧ n = 16 then v else mergeBytes off n v (memRead t.pal (16 * seg) 16))
      (if off = 0 ∧ n = 16 then mark else mark || SMap.getD t.palPois seg false) := by
  have htear : ∀ t : Tile, ∀ r, ∃ b, t.tearRow r = { t with vrnTorn := b } := fun t r => by
    unfold Tile.tearRow
    split
    · exact ⟨_, rfl⟩
    · exact ⟨t.vrnTorn, rfl⟩
  obtain ⟨b, hb⟩ := htear x.t (seg / 4)
  have hmerge : (x.map fun t => t.tearRow (seg / 4)).mergeErr seg = x.map fun t => t.tearRow (seg / 4) := by
    refine if_pos ?_
    show SMap.getD (x.t.tearRow (seg / 4)).palErr seg 0 = 0
    rw [hb, herr]
    rfl
  unfold TW.writeSeg
  by_cases hwhole : off = 0 ∧ n = 16
  · simp only [hwhole, decide_true, Bool.and_self, if_true, and_self]
    rfl
  · have hpart : (decide (off = 0) && decide (n = 16)) = false := by simpa using hwhole
    simp only [hpart, hwhole, if_false, hmerge, Bool.false_eq_true]
    simp only [TW.map, hb]
    rfl

/-- What a store of bytes within one segment leaves: the bytes of a plain write, and the marks. -/
theorem TW.writeSeg_pal {x : TW} (seg off n v : Nat) (mark : Bool) (herr : x.t.palErr = [])
    (hs : SMap.sorted x.t.pal = true) (hfit : off + n ≤ 16) (b : Nat) :
    SMap.getD (x.writeSeg seg off n (v % 256 ^ n) mark).t.pal b 0#8 =
      SMap.getD (memWrite x.t.pal (16 * seg + off) n v) b 0#8 := by
  have hpal : ∀ u p, ((x.t.tearRow (seg / 4)).setSeg seg u p).pal = memWrite x.t.pal (16 * seg) 16 u := fun u p => by
    unfold Tile.tearRow
    split <;> rfl
  rw [TW.writeSeg_clean seg off n _ mark herr]
  simp only [TW.map, hpal]
  by_cases hin : 16 * seg ≤ b ∧ b < 16 * seg + 16
  · refine byte_of_memRead (a := 16 * seg) (n := 16) ?_ hin.1 hin.2
    rw [memRead_memWrite _ _ _ _ hs]
    by_cases hwhole : off = 0 ∧ n = 16
    · obtain ⟨rfl, rfl⟩ := hwhole
      rw [if_pos ⟨rfl, rfl⟩, Nat.mod_mod, Nat.add_zero, memRead_memWrite _ _ _ _ hs]
    · have hmod : mergeBytes off n (v % 256 ^ n) = mergeBytes off n v := by
        funext q
        simp only [mergeBytes, Nat.mod_mod]
      rw [if_neg hwhole, hmod, mergeBytes_memRead _ _ _ _ _ hs hfit, Nat.mod_eq_of_lt (memRead_lt _ _ _)]
  · rw [memWrite_other _ _ _ _ _ (by omega), memWrite_other _ _ _ _ _ (by omega)]

theorem TW.writeSeg_pois {x : TW} (seg off n v : Nat) (mark : Bool) (herr : x.t.palErr = []) :
    (x.writeSeg seg off n v mark).t.palPois = SMap.put x.t.palPois seg
      (if off = 0 ∧ n = 16 then mark else mark || SMap.getD x.t.palPois seg false) false := by
  rw [TW.writeSeg_clean seg off n v mark herr]
  show ((x.t.tearRow (seg / 4)).setSeg seg _ _).palPois = _
  unfold Tile.tearRow
  split <;> rfl

theorem TW.writeSeg_stores {x : TW} (seg off n v : Nat) (mark : Bool) (herr : x.t.palErr = []) :
    (x.writeSeg seg off n v mark).t.stores = x.t.stores := by
  rw [TW.writeSeg_clean seg off n v mark herr]
  show ((x.t.tearRow (seg / 4)).setSeg seg _ _).stores = _
  unfold Tile.tearRow
  split <;> rfl

/-- R454: the claims of sends that have come change nothing but Pentimento's tags. -/
theorem Tile.penArrive_eq (t : Tile) (c : Nat) : ∃ g q, t.penArrive c = { t with grans := g, penSoon := q } := by
  have hfold : ∀ (l : List (Nat × Nat × Who)) (t : Tile), ∃ g, l.foldl
      (fun t p => t.setGran p.2.1 { t.gran p.2.1 with st := 2, prod := p.2.2 }) t = { t with grans := g } := by
    intro l
    induction l with
    | nil => exact fun t => ⟨t.grans, rfl⟩
    | cons p l ih =>
      intro t
      obtain ⟨g, hg⟩ := ih (t.setGran p.2.1 { t.gran p.2.1 with st := 2, prod := p.2.2 })
      exact ⟨g, hg⟩
  unfold Tile.penArrive
  split
  · exact ⟨t.grans, t.penSoon, rfl⟩
  · obtain ⟨g, hg⟩ := hfold (t.penSoon.filter fun p => decide (p.1 ≤ c)) t
    exact ⟨g, _, by rw [hg]⟩

/-- A store within one segment is one write of that segment. -/
theorem TW.writeMarked_segment (x : TW) (a n v : Nat) (mark : Bool) (hn : 0 < n) (hfit : a % 16 + n ≤ 16) :
    x.writeMarked a n v mark = x.writeSeg (a / 16) (a % 16) n (v % 256 ^ n) mark := by
  have hone : segsOf a n = 1 := by
    unfold segsOf
    omega
  have hm : (if n < 16 - a % 16 then n else 16 - a % 16) = n := by
    split <;> omega
  unfold TW.writeMarked
  rw [hone]
  show (if n = 0 then x else (x.writeSeg (a / 16) (a % 16) (if n < 16 - a % 16 then n else 16 - a % 16)
    (v % 256 ^ (if n < 16 - a % 16 then n else 16 - a % 16)) mark)) = _
  rw [hm, if_neg (by omega)]

/-- R80: the only store on its way is written when its cycle has come. -/
theorem TW.commitDue_store {x : TW} {d a n v : Nat} {tag : Bool} (hstores : x.t.stores = [(d, a, n, v, tag)])
    (hlate : x.t.late = []) (hn : 0 < n) (hfit : a % 16 + n ≤ 16) :
    x.commitDue d = ((x.map fun t => t.penArrive d).writeSeg (a / 16) (a % 16) n (v % 256 ^ n) tag).map fun t =>
      { t with stores := t.stores.filter fun p => !decide (p.1 ≤ d) } := by
  obtain ⟨g, q, hpen⟩ := x.t.penArrive_eq d
  have hengines : (x.map fun t => t.penArrive d).commitEngines d = x.map fun t => t.penArrive d := by
    refine if_pos ?_
    show (((x.t.penArrive d).late).filter _).isEmpty = true
    rw [hpen, hlate]
    rfl
  have hdue : ((x.map fun t => t.penArrive d).t.stores.filter fun p => decide (p.1 ≤ d)) = [(d, a, n, v, tag)] := by
    show ((x.t.penArrive d).stores.filter _) = _
    rw [hpen, hstores]
    simp
  unfold TW.commitDue TW.commitSel
  rw [hengines, hdue]
  simp only [List.isEmpty_cons, Bool.false_eq_true, if_false, TW.commitList,
    TW.writeMarked_segment _ _ _ _ _ hn hfit]

end Sys2Proof.Machine
end

section
/-! A store becomes visible, settled. -/

namespace Sys2Proof.Machine

/-- Settles O7: the store due is one write of its segment, which merges its bytes and its mark into what the segment held. -/
theorem storeBecomesVisible : Obligations.StoreBecomesVisible := by
  intro x d a n v tag hstores hlate herr hpal hpois hn hfit y
  obtain ⟨g, q, hpen⟩ := x.t.penArrive_eq d
  let z := x.map fun t => t.penArrive d
  have hz : z.t = { x.t with grans := g, penSoon := q } := hpen
  have hzerr : z.t.palErr = [] := by rw [hz, herr]
  have hzpal : z.t.pal = x.t.pal := by rw [hz]
  have hzpois : z.t.palPois = x.t.palPois := by rw [hz]
  let u := z.writeSeg (a / 16) (a % 16) n (v % 256 ^ n) tag
  have hy : y = { u.t with stores := u.t.stores.filter fun p => !decide (p.1 ≤ d) } :=
    congrArg TW.t (TW.commitDue_store hstores hlate hn hfit)
  have hbyte : ∀ b, SMap.getD y.pal b 0#8 = SMap.getD (memWrite x.t.pal a n v) b 0#8 := fun b => by
    rw [hy]
    refine (TW.writeSeg_pal (a / 16) (a % 16) n v tag hzerr (hzpal ▸ hpal) hfit b).trans ?_
    rw [hzpal, Nat.div_add_mod a 16]
  have hmarks : y.palPois = SMap.put x.t.palPois (a / 16)
      (if a % 16 = 0 ∧ n = 16 then tag else tag || SMap.getD x.t.palPois (a / 16) false) false := by
    rw [hy, ← hzpois]
    exact TW.writeSeg_pois (a / 16) (a % 16) n (v % 256 ^ n) tag hzerr
  refine ⟨?stores, ?read, fun b hb => ?byte, fun hpart => ?mark, fun s hs => ?otherMark⟩
  case stores =>
    have hustores : u.t.stores = [(d, a, n, v, tag)] := by
      rw [TW.writeSeg_stores _ _ _ _ _ hzerr, hz, hstores]
    rw [hy, hustores]
    simp
  case read => rw [memRead_congr _ _ a n fun b _ _ => hbyte b, memRead_memWrite _ _ _ _ hpal]
  case byte => rw [hbyte b, memWrite_other _ _ _ _ _ hb]
  case mark =>
    rw [hmarks, SMap.getD_put_same _ _ _ _ hpois, if_neg fun h => Nat.ne_of_lt hpart h.2]
  case otherMark => rw [hmarks, SMap.getD_put_other _ _ _ _ _ _ hs]

end Sys2Proof.Machine
end

section
/-! SUPPORT. Scalar loads and stores by the region that their address names (R80, R117, R125). -/

namespace Sys2Proof.Machine

/-- R169: an accumulator access is granted no earlier than it is presented. -/
theorem TW.accRequest_from (x : TW) (c blk rank n : Nat) : c ≤ (x.accRequest c blk rank n).1 := by
  induction n generalizing x c with
  | zero => exact Nat.le_refl c
  | succ n ih =>
    unfold TW.accRequest
    dsimp only
    generalize x.ports (c + 1) = y
    split
    · exact Nat.le_trans (Nat.le_succ c) (ih _ _)
    · exact Nat.le_refl c

theorem TW.accGrant_from (x : TW) (c blk rank : Nat) : c ≤ (x.accGrant c blk rank).1 := x.accRequest_from c blk rank _

/-- An access to accumulator block `b`, granted (R169) and checked (R455). -/
def TW.accAccess (x : TW) (c b : Nat) : TW := (x.accGrant c b 5).2.penAcc (x.accGrant c b 5).1 b (seqWho x)

theorem TW.accAccess_is {m : Mark} {x : TW} (c b : Nat) (h : x.Is m) : (x.accAccess c b).Is m :=
  TW.penAcc_is _ _ _ _ (TW.accGrant_is _ _ _ _ h)

theorem TW.accAccess_calm {k : Bits} {x : TW} (c b : Nat) (h : x.Calm k) : (x.accAccess c b).Calm k :=
  TW.penAcc_still _ _ _ _ (TW.accGrant_still _ _ _ _ h)

/-! Loads. -/

section
variable {x : TW} {c a n : Nat}

theorem TW.loadBits_palette (hr : regionOf a = .palette) (hp : x.t.permits c .seqR (a / 64) = true) :
    x.loadBits c a n = (some (x.overlay.readPart c .seqR (seqWho x) a n).1.v,
      (x.overlay.readPart c .seqR (seqWho x) a n).1.anyPoison, c + x.t.readLat c + 1,
      (x.readPart c .seqR (seqWho x) a n).2) := by
  simp only [TW.loadBits, hr, hp, if_true]

theorem TW.loadBits_refused (hr : regionOf a = .palette) (hp : x.t.permits c .seqR (a / 64) = false) :
    x.loadBits c a n = (none, true, c + 5, x.violation) := by
  simp only [TW.loadBits, hr, hp, Bool.false_eq_true, if_false]

theorem TW.loadBits_regs (hr : regionOf a = .regs) :
    x.loadBits c a n =
      (some (x.regRead c (a - 0x200000) n).1, false, c + 5, (x.regRead c (a - 0x200000) n).2) := by
  simp only [TW.loadBits, hr]

theorem TW.loadBits_acc (hr : regionOf a = .acc) :
    let i := (a - 0x300000) / 4
    x.loadBits c a n = (some ((x.accAccess c (i / 1024)).t.accBytes i n),
      (x.accAccess c (i / 1024)).t.accPoison (i / 1024), (x.accGrant c (i / 1024) 5).1 + 5, x.accAccess c (i / 1024)) := by
  simp only [TW.loadBits, hr]
  rfl

theorem TW.loadBits_none (hr : regionOf a = .none) : x.loadBits c a n = (none, true, c + 5, x.violation) := by
  simp only [TW.loadBits, hr]

theorem TW.loadBits_calm {k : Bits} (h : x.Calm k) : (x.loadBits c a n).2.2.2.Calm k := by
  cases hr : regionOf a with
  | palette =>
    cases hp : x.t.permits c .seqR (a / 64) with
    | true =>
      rw [TW.loadBits_palette hr hp]
      dsimp only
      exact TW.readPart_still _ _ _ _ _ _ h
    | false =>
      rw [TW.loadBits_refused hr hp]
      exact TW.violation_still _ h
  | regs =>
    rw [TW.loadBits_regs hr]
    dsimp only
    exact TW.regRead_still _ _ _ _ h
  | acc =>
    rw [TW.loadBits_acc hr]
    dsimp only
    exact TW.accAccess_calm _ _ h
  | none =>
    rw [TW.loadBits_none hr]
    exact TW.violation_still _ h

end

/-- R80, R117: the register value of a load; a refused one loads ones. -/
def loadedWord (signed : Bool) (n : Nat) : Option Nat → Word
  | some v => extended signed n v
  | none => BitVec.allOnes 64

/-- R80: a load's result comes later, with the value, the tag and the cycle that its bytes give. -/
theorem TW.loadEff_eq (x : TW) (c : Nat) (w : IW) (n : Nat) (signed : Bool) :
    let r := x.loadBits c (memAddr x.t w) n
    x.loadEff c w n signed =
      r.2.2.2.map fun t => (t.later (w.f 44 5) (loadedWord signed n r.1) r.2.1 r.2.2.1).advance := by
  simp only [TW.loadEff]
  cases (x.loadBits c (memAddr x.t w) n).1 <;> rfl

theorem flagsFrom_any (pois : SMap Bool) (seg n : Nat) :
    (flagsFrom pois seg n).any id = (List.range n).any fun j => SMap.getD pois (seg + j) false := by
  induction n generalizing seg with
  | zero => rfl
  | succ n ih =>
    rw [flagsFrom, List.any_cons, ih, List.range_succ_eq_map, List.any_cons, List.any_map]
    simp only [id, Nat.add_zero, Function.comp_def, Nat.add_assoc, Nat.add_comm 1, Nat.succ_eq_add_one]

theorem regionOf_palette_lt {a : Nat} (h : regionOf a = .palette) : a < 0x200000 := by
  unfold regionOf at h
  split at h
  · assumption
  · split at h
    · cases h
    · split at h <;> cases h

section
variable {s : State} {p c : Nat} {z : TW} (h : z.From s p c)
include h

/-- R80, R102: what the sequencer reads of a Palette with nothing on its way. -/
theorem TW.From.palette_bytes (hst : (s.tile p).Still) {k a n : Nat} (ha : a < 0x200000)
    (hp : (s.tile p).permits k .seqR (a / 64) = true) :
    (z.overlay.readPart k .seqR (seqWho z) a n).1.v = memRead (s.tile p).pal a n ∧
      (z.overlay.readPart k .seqR (seqWho z) a n).1.anyPoison = (s.tile p).poisonedAt a n := by
  have hread := TW.readPart_calm z k .seqR (seqWho z) a n (h.calm hst) h.fixed
    (fun y hy => (hy.tile.permits k .seqR (a / 64)).trans hp) ha
  rw [TW.overlay_calm z (h.calm hst), hread]
  exact ⟨rfl, flagsFrom_any _ _ _⟩

/-- The elements of an accumulator access, as they were. -/
theorem TW.From.accBytes (k b i n : Nat) : (z.accAccess k b).t.accBytes i n = (s.tile p).accBytes i n := by
  have hacc : (z.accAccess k b).t.acc = (s.tile p).acc :=
    (Tile.side_acc (TW.accAccess_is k b h.is).tile.eq).trans (Tile.settle_rest _ c).2.1
  simp only [Tile.accBytes, hacc]

end

/-- R80, R117, R125: a scalar load. -/
theorem completes_load {mk : TileId → IW → Instr} (n : Nat) (signed : Bool)
    (hexec : ∀ s t w, exec (mk t w) s = .next (s.runTile t fun x => x.load w n signed)) : LoadCompletes mk n signed := by
  intro s t p w c hs h
  have hcheck : ∀ a b : Tile, a.side = b.side → (loadShape n w).check a = (loadShape n w).check b :=
    fun _ _ hab => memCheck_side hab w n
  have hside : ∀ (k : Nat) (z : TW), z.From s p c →
      ((z.loadBits k (memAddr z.t w) n).2.2.2).Is ⟨((s.tile p).settle c).side, s.env p⟩ :=
    fun k z hz => TW.loadBits_is z k _ n hz.is
  obtain ⟨k, z, hk, -, hz, -, htile, hothers⟩ := h.tiles hs hcheck (fun k y => y.loadEff k w n signed)
    fun k z hz => by rw [TW.loadEff_eq]; exact (hside k z hz).quiet
  have haddr : memAddr z.t w = memAddr ((s.tile p).settle c) w := memAddr_side hz.is.tile.eq w
  let a := memAddr ((s.tile p).settle c) w
  let r := z.loadBits k a n
  have heff : z.loadEff k w n signed =
      r.2.2.2.map fun t => (t.later (w.f 44 5) (loadedWord signed n r.1) r.2.1 r.2.2.1).advance := by
    rw [TW.loadEff_eq, haddr]
  have hr : r.2.2.2.Is ⟨((s.tile p).settle c).side, s.env p⟩ := TW.loadBits_is z k a n hz.is
  refine ⟨_, k, loadedWord signed n r.1, r.2.1, r.2.2.1, hexec s t w, hk, State.after_of htile hothers ?side,
    State.kept_of htile fun hst => ?kept, ?result⟩
  case side =>
    rw [heff]
    exact Tile.advance_side (Tile.later_side hr.tile.eq _ _ _ _)
  case kept =>
    rw [heff]
    have hcalm := TW.loadBits_calm (c := k) (a := a) (n := n) (hz.calm hst)
    have hadv := (r.2.2.2.t.later (w.f 44 5) (loadedWord signed n r.1) r.2.1 r.2.2.1).advance_pal
    exact ⟨hadv.1.trans hcalm.tile.pal, hadv.2.trans hcalm.tile.pois⟩
  case result =>
    show match regionOf a with
      | .palette => _
      | .regs => _
      | .acc => _
      | .none => _
    cases hreg : regionOf a with
    | palette =>
      show if (s.tile p).permits k .seqR (a / 64) = true then _ else _
      have hp := hz.permits k .seqR (a / 64)
      split
      · next hperm =>
        have hbits := TW.loadBits_palette (n := n) hreg (hp.trans hperm)
        refine ⟨?_, fun hst => ?_⟩
        · simp only [r, hbits, hz.readLat]
        · obtain ⟨hv, hb⟩ := hz.palette_bytes hst (n := n) (regionOf_palette_lt hreg) hperm
          simp only [r, hbits, hv, hb, loadedWord]
          exact ⟨rfl, rfl⟩
      · next hperm =>
        have hbits := TW.loadBits_refused (n := n) hreg (hp.trans (Bool.eq_false_iff.mpr hperm))
        simp only [r, hbits, loadedWord, and_self]
    | regs =>
      simp only [r, TW.loadBits_regs hreg, and_self]
    | acc =>
      have hbits := TW.loadBits_acc (x := z) (c := k) (n := n) hreg
      refine ⟨?_, ?_⟩
      · simp only [r, hbits, hz.accBytes, loadedWord]
        rfl
      · simp only [r, hbits]
        exact Nat.add_le_add_right (z.accGrant_from k _ 5) 5
    | none =>
      simp only [r, TW.loadBits_none hreg, loadedWord, and_self]

end Sys2Proof.Machine
end

section
/-! SUPPORT. Scalar stores by the region that their address names (R66, R80, R117, R125). -/

namespace Sys2Proof.Machine

/-! The accumulators. -/

/-- The elements that a store of `n` bytes to the accumulators writes: one, or two. -/
def Tile.storeAcc (t : Tile) (i n v : Nat) : Tile :=
  if n = 8 then (t.setAcc i (BitVec.ofNat 32 v)).setAcc (i + 1) (BitVec.ofNat 32 (v / 2 ^ 32))
  else t.setAcc i (BitVec.ofNat 32 v)

theorem Tile.setAcc_side {t u : Tile} (h : t.side = u.side) (i : Nat) (v : BitVec 32) :
    (t.setAcc i v).side = (u.setAcc i v).side := by
  simp only [Tile.setAcc, Tile.side, ProgramSide.mk.injEq] at h ⊢
  simp [h]

theorem Tile.storeAcc_side {t u : Tile} (h : t.side = u.side) (i n v : Nat) :
    (t.storeAcc i n v).side = (u.storeAcc i n v).side := by
  unfold Tile.storeAcc
  split
  · exact Tile.setAcc_side (Tile.setAcc_side h _ _) _ _
  · exact Tile.setAcc_side h _ _

theorem Tile.storeAcc_calm {b : Bits} {t : Tile} (h : t.Calm b) (i n v : Nat) : (t.storeAcc i n v).Calm b := by
  unfold Tile.storeAcc
  split <;> exact Tile.still_lit h.raw

/-- R66, R80: what a store does before the program counter advances. -/
def TW.storeBits (x : TW) (c a n v : Nat) (tag : Bool) : TW := match regionOf a with
  | .palette =>
    if x.t.permits c .seqW (a / 64) then
      (((x.commitDue c).penWrite c (seqWho x) a (some 1)).mergeFind a n).map fun t =>
        { t with stores := t.stores ++ [(c + 2, a, n, v, tag)] }
    else x.violation
  | .regs => x.regWrite c (a - 0x200000) n v
  | .acc => (x.accAccess c ((a - 0x300000) / 4 / 1024)).map fun t => t.storeAcc ((a - 0x300000) / 4) n v
  | .none => x.violation

theorem TW.storeEff_eq (x : TW) (c : Nat) (w : IW) (n : Nat) :
    x.storeEff c w n = (x.storeBits c (memAddr x.t w) n ((x.t.sreg (w.f 44 5)).toNat % 256 ^ n)
      (x.t.tag (w.f 44 5))).map Tile.advance := by
  simp only [TW.storeEff, TW.storeBits]
  cases regionOf (memAddr x.t w) <;> rfl

section
variable {x : TW} {c a n v : Nat} {tag : Bool}

theorem TW.storeBits_permitted (hr : regionOf a = .palette) (hp : x.t.permits c .seqW (a / 64) = true) :
    x.storeBits c a n v tag = (((x.commitDue c).penWrite c (seqWho x) a (some 1)).mergeFind a n).map fun t =>
      { t with stores := t.stores ++ [(c + 2, a, n, v, tag)] } := by
  simp only [TW.storeBits, hr, hp, if_true]

/-- A store to the accumulators writes its elements of the program side; any other leaves it as it is. -/
theorem TW.storeBits_side {m : Mark} (h : x.Is m) :
    (x.storeBits c a n v tag).out.all Ev.quiet = true ∧ (x.storeBits c a n v tag).t.side =
      (if regionOf a = .acc then x.t.storeAcc ((a - 0x300000) / 4) n v else x.t).side := by
  have hkept : ∀ y : TW, y.Is m → y.out.all Ev.quiet = true ∧ y.t.side = x.t.side :=
    fun y hy => ⟨hy.quiet, hy.tile.eq.trans h.tile.eq.symm⟩
  unfold TW.storeBits
  cases regionOf a with
  | palette =>
    simp only [reduceCtorEq, if_false]
    split
    · have hgranted := TW.mergeFind_is _ a n (TW.penWrite_is _ c (seqWho x) a (some 1) (TW.commitDue_is _ c h))
      exact ⟨hgranted.quiet, (hkept _ hgranted).2⟩
    · exact hkept _ (TW.violation_is _ h)
  | regs =>
    simp only [reduceCtorEq, if_false]
    exact hkept _ (TW.regWrite_is _ _ _ _ _ h)
  | acc =>
    simp only [if_true, TW.map]
    have hacc := TW.accAccess_is c ((a - 0x300000) / 4 / 1024) h
    have hside := Tile.storeAcc_side (hkept _ hacc).2 ((a - 0x300000) / 4) n v
    exact ⟨hacc.quiet, hside⟩
  | none =>
    simp only [reduceCtorEq, if_false]
    exact hkept _ (TW.violation_is _ h)

/-- No store reaches the Palette in the cycle of its issue. -/
theorem TW.storeBits_pal {b : Bits} (h : x.Calm b) :
    (x.storeBits c a n v tag).t.pal = b.pal ∧ (x.storeBits c a n v tag).t.palPois = b.pois := by
  have hkept : ∀ y : TW, y.Calm b → y.t.pal = b.pal ∧ y.t.palPois = b.pois := fun y hy => ⟨hy.tile.pal, hy.tile.pois⟩
  unfold TW.storeBits
  cases regionOf a with
  | palette =>
    dsimp only
    split
    · have hgranted := TW.mergeFind_still _ a n (TW.penWrite_still _ c (seqWho x) a (some 1) (TW.commitDue_still _ c h))
      exact ⟨hgranted.tile.pal, hgranted.tile.pois⟩
    · exact hkept _ (TW.violation_still _ h)
  | regs => exact hkept _ (TW.regWrite_still _ _ _ _ _ h)
  | acc => exact hkept _ (TW.map_still _ _ (fun _ ht => Tile.storeAcc_calm ht _ _ _) (TW.accAccess_calm _ _ h))
  | none => exact hkept _ (TW.violation_still _ h)

end

theorem Tile.loopEnd_stores (t : Tile) (l : List Loop) : (t.loopEnd l).stores = t.stores := by
  induction l with
  | nil => rfl
  | cons a l ih =>
    unfold Tile.loopEnd
    split
    · split
      · rfl
      · exact ih
    · rfl

theorem Tile.advance_stores (t : Tile) : t.advance.stores = t.stores := t.loopEnd_stores _

/-- R80, R66, R125: a scalar store. -/
theorem completes_store {mk : TileId → IW → Instr} (n : Nat)
    (hexec : ∀ s t w, exec (mk t w) s = .next (s.runTile t fun x => x.store w n)) : StoreCompletes mk n := by
  intro s t p w c hs h x a v
  have hcheck : ∀ a b : Tile, a.side = b.side → (storeShape n w).check a = (storeShape n w).check b :=
    fun _ _ hab => memCheck_side hab w n
  have heff : ∀ (k : Nat) (z : TW), z.From s p c →
      z.storeEff k w n = (z.storeBits k a n v (x.tag (w.f 44 5))).map Tile.advance := fun k z hz => by
    have hside := hz.is.tile.eq
    rw [TW.storeEff_eq, memAddr_side hside, Tile.side_sreg hside, Tile.side_tag hside]
  obtain ⟨k, z, hk, -, hz, -, htile, hothers⟩ := h.tiles hs hcheck (fun k y => y.storeEff k w n)
    fun k z hz => by rw [heff k z hz]; exact (TW.storeBits_side hz.is).1
  rw [heff k z hz] at htile
  refine ⟨_, k, hexec s t w, hk, State.kept_of htile fun hst => ?kept, State.after_of htile hothers ?side,
    fun hr hperm => ?waits⟩
  case kept =>
    obtain ⟨hpal, hpois⟩ := TW.storeBits_pal (c := k) (a := a) (n := n) (v := v) (tag := x.tag (w.f 44 5)) (hz.calm hst)
    have hadv := (z.storeBits k a n v (x.tag (w.f 44 5))).t.advance_pal
    exact ⟨hadv.1.trans hpal, hadv.2.trans hpois⟩
  case side =>
    refine Tile.advance_side ((TW.storeBits_side hz.is).2.trans ?_)
    split
    · exact Tile.storeAcc_side hz.is.tile.eq _ _ _
    · exact hz.is.tile.eq
  case waits =>
    have hbits := TW.storeBits_permitted (n := n) (v := v) (tag := x.tag (w.f 44 5)) hr
      ((hz.permits k .seqW (a / 64)).trans hperm)
    let y := ((z.commitDue k).penWrite k (seqWho z) a (some 1)).mergeFind a n
    refine ⟨y.t.stores, ?_, fun hst => ?_⟩
    · obtain ⟨b, d, htile⟩ := htile
      refine (congrArg Tile.stores htile).trans ?_
      show ((z.storeBits k a n v (x.tag (w.f 44 5))).t.advance).stores = _
      rw [Tile.advance_stores, hbits]
      rfl
    · exact (TW.mergeFind_still _ a n
        (TW.penWrite_still _ _ _ _ _ (TW.commitDue_still _ _ (hz.calm hst)))).tile.still.stores

end Sys2Proof.Machine
end

section
/-! The scalar loads and stores, settled (R80). -/

namespace Sys2Proof.Machine

theorem loads : Loads :=
  ⟨completes_load 1 true fun _ _ _ => rfl, completes_load 2 true fun _ _ _ => rfl,
    completes_load 4 true fun _ _ _ => rfl, completes_load 8 false fun _ _ _ => rfl,
    completes_load 1 false fun _ _ _ => rfl, completes_load 2 false fun _ _ _ => rfl,
    completes_load 4 false fun _ _ _ => rfl⟩

theorem stores : Stores :=
  ⟨completes_store 1 fun _ _ _ => rfl, completes_store 2 fun _ _ _ => rfl, completes_store 4 fun _ _ _ => rfl,
    completes_store 8 fun _ _ _ => rfl⟩

/-- Settles O6: a load's result and a store's bytes, by the region of the address. -/
theorem scalarMemory : Obligations.ScalarMemory := ⟨loads, stores⟩

end Sys2Proof.Machine
end

section
/-! SUPPORT. Operations that join a queue of the tile (R88, R92, R93, R95). -/

namespace Sys2Proof.Machine

/-- R88: an operation takes its token and joins its queue, and the program goes on. -/
def Tile.queueOp (t : Tile) (td : Nat) (o : QOp) : Tile :=
  (({ t.takeToken td with nextId := t.nextId + 1 } : Tile).enqueue o).advance

theorem Tile.queueOp_side {t u : Tile} (h : t.side = u.side) (td : Nat) (o : QOp) :
    (t.queueOp td o).side = (u.queueOp td o).side := by
  refine Tile.advance_side (Tile.enqueue_side ?_ o)
  have htoken := Tile.takeToken_side h td
  have hid := Tile.side_nextId h
  simp only [Tile.side, ProgramSide.mk.injEq] at htoken ⊢
  simp [htoken, hid]

theorem Tile.queueOp_pal (t : Tile) (td : Nat) (o : QOp) :
    (t.queueOp td o).pal = t.pal ∧ (t.queueOp td o).palPois = t.palPois := by
  have htoken := t.takeToken_pal td
  simp only [Tile.queueOp, Tile.advance_pal, Tile.enqueue_pal, htoken, and_self]

/-- R90: an operation that ends hands out no increment. -/
theorem TW.finish_quiet {x : TW} (o : QOp) (status c : Nat) (h : x.out.all Ev.quiet = true) :
    (x.finish o status c).out.all Ev.quiet = true := by
  have hcleared := TW.is_mark (x.map fun t => (t.dequeue o.id).clearToken o.kind.queue o.td status c) h
  exact (TW.perfOf_is _ _ _ _ _ _ (TW.penDone_is _ _ _ hcleared)).quiet

/-- R92: the effect of an engine instruction with a descriptor; one that it may not read ends at once. -/
def TW.engineGo (kind : QKind) (w : IW) (c : Nat) (y : TW) : TW :=
  let (d, z) := y.readDesc c (descAddr y.t w)
  let o := z.opOf c w kind (d.getD 0) (descAddr y.t w)
  let z := z.map fun t => { t.takeToken o.td with nextId := t.nextId + 1 }
  let z := match d with
    | some _ => z.map fun t => t.enqueue o
    | none => z.finish o 3 c
  z.map Tile.advance

theorem TW.engine_eq (x : TW) (w : IW) (kind : QKind) (parmOk : IW → Bool) :
    x.engine w kind (parmOk w) false = x.issue w (engineShape kind parmOk w) (TW.engineGo kind w) := by
  have hshape : (!parmOk w || (decide (w.f 43 1 = 0) && decide (w.f 38 5 ≠ 0)) || (false && decide (w.f 18 20 ≠ 0))) =
      (!parmOk w || (decide (w.f 43 1 = 0) && decide (w.f 38 5 ≠ 0))) := by
    rw [Bool.false_and, Bool.or_false]
  unfold TW.engine
  simp only [hshape]
  rfl

theorem descAddr_lt (t : Tile) (w : IW) : descAddr t w < 0x200000 := by
  unfold descAddr
  exact BitVec.isLt _

theorem descAddr_side {t u : Tile} (h : t.side = u.side) (w : IW) : descAddr t w = descAddr u w := by
  unfold descAddr
  rw [Tile.side_sreg h]

theorem TW.engineGo_quiet {s : State} {p c : Nat} {z : TW} (hz : z.From s p c) (kind : QKind) (w : IW) (k : Nat) :
    (z.engineGo kind w k).out.all Ev.quiet = true := by
  have hread := (TW.readDesc_is z k (descAddr z.t w) hz.is).quiet
  unfold TW.engineGo
  dsimp only
  split
  · exact hread
  · exact TW.finish_quiet _ _ _ hread

/-- R92, R93: an engine instruction that may read its descriptor queues its operation. -/
theorem TW.engineGo_permitted {z : TW} {k : Nat} {kind : QKind} {w : IW}
    (hp : z.t.permits k .seqR (descAddr z.t w / 64) = true) :
    let y := (z.readPart k .seqR (seqWho z) (descAddr z.t w) 64).2
    let v := (z.overlay.readPart k .seqR (seqWho z) (descAddr z.t w) 64).1.v
    z.engineGo kind w k =
      y.map fun t => t.queueOp (w.f 44 5) (y.opOf k w kind (BitVec.ofNat 512 v) (descAddr z.t w)) := by
  intro y v
  have hdesc : z.readDesc k (descAddr z.t w) = (some (BitVec.ofNat 512 v), y) := by
    simp only [TW.readDesc, hp, if_true, y, v]
  unfold TW.engineGo
  rw [hdesc]
  rfl

/-- R88, R92, R93: an engine instruction with a descriptor. -/
theorem completes_engine {mk : TileId → IW → Instr} {kind : QKind} {parmOk : IW → Bool}
    (hexec : ∀ s t w, exec (mk t w) s = .next (s.runTile t fun x => x.engine w kind (parmOk w) false)) :
    EngineCompletes mk kind parmOk := by
  intro s t p w c hs h hperm
  have hcheck : ∀ a b : Tile, a.side = b.side → (engineShape kind parmOk w).check a = (engineShape kind parmOk w).check b :=
    fun _ _ hab => noPoison_side hab _
  obtain ⟨k, z, hk, -, hz, -, htile, hothers⟩ := h.tiles hs hcheck (TW.engineGo kind w)
    fun k z hz => TW.engineGo_quiet hz kind w k
  have haddr : descAddr z.t w = descAddr ((s.tile p).settle c) w := descAddr_side hz.is.tile.eq w
  have hread : z.t.permits k .seqR (descAddr z.t w / 64) = true := by
    rw [hz.permits, haddr]
    exact hperm k hk
  rw [TW.engineGo_permitted hread] at htile
  let y := (z.readPart k .seqR (seqWho z) (descAddr z.t w) 64).2
  have hy : y.Is ⟨((s.tile p).settle c).side, s.env p⟩ := TW.readPart_is _ _ _ _ _ _ hz.is
  obtain ⟨-, -, -, hpc, hid⟩ := Tile.settle_rest (s.tile p) c
  refine ⟨_, k, _, (hexec s t w).trans (by simp only [TW.engine_eq]), hk, State.kept_of htile fun hst => ?kept,
    State.after_of htile hothers (Tile.queueOp_side hy.tile.eq _ _), rfl, rfl, rfl, haddr, rfl,
    (Tile.side_nextId hy.tile.eq).trans hid, rfl, (Tile.side_pc hy.tile.eq).trans hpc, rfl, fun hst => ?desc⟩
  case kept =>
    have hcalm : y.Calm _ := TW.readPart_still z k .seqR (seqWho z) (descAddr z.t w) 64 (hz.calm hst)
    obtain ⟨hpal, hpois⟩ := y.t.queueOp_pal (w.f 44 5) _
    exact ⟨hpal.trans hcalm.tile.pal, hpois.trans hcalm.tile.pois⟩
  case desc =>
    have hbytes := (hz.palette_bytes hst (n := 64) (descAddr_lt z.t w) (haddr ▸ hperm k hk)).1
    rw [← haddr, ← hbytes]
    rfl

/-- R88, R173: MCLR, which has no descriptor. -/
theorem mclrCompletes {s : State} {t : TileId} {p : Nat} {w : IW} {c : Nat} (hs : s.tilesWf = true)
    (h : s.Issues t p w (mclrShape w) c) :
    ∃ u o, exec (.mclr t w) s = .next u ∧ u.PaletteKept s p ∧
      u.After s p c c (fun x => x.queueOp (w.f 44 5) o) ∧ o.kind = .mclr ∧ o.td = w.f 44 5 ∧ o.parm = w.f 0 18 ∧
      o.id = (s.tile p).nextId ∧ o.started = false ∧ o.org.at_ = c := by
  obtain ⟨k, z, -, hk, hz, -, htile, hothers⟩ := h.tiles hs (fun _ _ _ => rfl)
    (fun k y => y.map fun t => t.queueOp (w.f 44 5) (y.opOf k w .mclr 0 0)) fun k z hz => hz.is.quiet
  obtain rfl := hk rfl
  refine ⟨_, z.opOf k w .mclr 0 0, rfl, State.kept_of htile fun hst => ?_,
    State.after_of htile hothers (Tile.queueOp_side hz.is.tile.eq _ _), rfl, rfl, rfl,
    (Tile.side_nextId hz.is.tile.eq).trans (Tile.settle_rest (s.tile p) k).2.2.2.2, rfl, rfl⟩
  have hcalm := hz.calm hst
  obtain ⟨hpal, hpois⟩ := z.t.queueOp_pal (w.f 44 5) (z.opOf k w .mclr 0 0)
  exact ⟨hpal.trans hcalm.tile.pal, hpois.trans hcalm.tile.pois⟩

/-! SIG and WAITGE (R95, R330). -/

/-- What a function of a tile's units that hands out no increment does: its effects, one after the other. -/
theorem State.onTile_quiet {s : State} {p : Nat} {f : TW → TW} (h : (f (s.view p)).out.all Ev.quiet = true) :
    s.onTile p f = (s.setTile p (f (s.view p)).t).effects p (s.env p) (f (s.view p)).t.cyc (f (s.view p)).out := by
  have hsignals : (s.onTileGo p f).2 = [] := by
    simp only [State.onTileGo, List.filter_eq_nil_iff]
    intro v hv
    have hquiet := List.all_eq_true.mp h v hv
    cases v with
    | signal => exact absurd hquiet Bool.false_ne_true
    | _ => exact Bool.false_ne_true
  unfold State.onTile
  dsimp only
  rw [hsignals]
  rfl

/-- R95: a SIG or WAITGE takes its token and waits for its counter, and the program goes on. -/
def Tile.queueSync (t : Tile) (td : Nat) (o : SyncOp) : Tile :=
  ({ t.takeToken td with nextId := t.nextId + 1, sync := t.sync ++ [o] } : Tile).advance

theorem Tile.queueSync_side {t u : Tile} (h : t.side = u.side) (td : Nat) (o : SyncOp) :
    (t.queueSync td o).side = (u.queueSync td o).side := by
  refine Tile.advance_side ?_
  have htoken := Tile.takeToken_side h td
  simp only [Tile.side, ProgramSide.mk.injEq] at h htoken ⊢
  simp [h, htoken]

theorem Tile.queueSync_pal (t : Tile) (td : Nat) (o : SyncOp) :
    (t.queueSync td o).pal = t.pal ∧ (t.queueSync td o).palPois = t.palPois := by
  have htoken := t.takeToken_pal td
  simp only [Tile.queueSync, Tile.advance_pal, htoken, and_self]

/-- The request that a SIG or WAITGE sends. -/
def TW.syncOpOf (y : TW) (isWait : Bool) (w : IW) (c : Nat) : SyncOp :=
  ⟨isWait, w.f 23 16, if w.f 39 5 = 0 then w.f 0 16 else (y.t.sreg (w.f 39 5)).field 0 48, w.f 44 5,
    y.t.origin c y.env.tick, y.t.nextId⟩

/-- R95, R330: SIG and WAITGE. -/
theorem completes_sync {mk : TileId → IW → Instr} {isWait : Bool}
    (hexec : ∀ s t w, exec (mk t w) s = .next (s.runTile t fun x => x.syncOp w isWait)) : SyncCompletes mk isWait := by
  intro s t p w c hs h
  have hcheck : ∀ a b : Tile, a.side = b.side → (syncShape w).check a = (syncShape w).check b :=
    fun _ _ hab => noPoison_side hab _
  let eff (k : Nat) (y : TW) : TW :=
    (y.map fun t => t.queueSync (w.f 44 5) (y.syncOpOf isWait w k)).emit (.request (y.syncOpOf isWait w k))
  have hquiet : ∀ k z, z.From s p c → (eff k z).out.all Ev.quiet = true := fun k z hz => by
    simp only [eff, TW.emit, TW.map, List.all_append, hz.is.quiet, List.all_cons, List.all_nil, Ev.quiet, Bool.and_self]
  obtain ⟨k, z, -, hk, hz, hissue, htile, hothers⟩ := h.tiles hs hcheck eff hquiet
  obtain rfl := hk rfl
  have hval : (z.t.sreg (w.f 39 5)).field 0 48 = (((s.tile p).settle k).sreg (w.f 39 5)).toNat % 2 ^ 48 := by
    rw [Tile.side_sreg hz.is.tile.eq, Word.field_low]
  refine ⟨_, z.syncOpOf isWait w k, hexec s t w, State.kept_of htile fun hst => ?kept,
    State.after_of htile hothers (Tile.queueSync_side hz.is.tile.eq _ _), rfl, rfl, rfl, ?value, ?request⟩
  case kept =>
    have hcalm := hz.calm hst
    obtain ⟨hpal, hpois⟩ := z.t.queueSync_pal (w.f 44 5) (z.syncOpOf isWait w k)
    exact ⟨hpal.trans hcalm.tile.pal, hpois.trans hcalm.tile.pois⟩
  case value => simp only [TW.syncOpOf, hval]
  case request =>
    rw [State.runTile_served s t p _ h.served, State.onTile_quiet (by
      show ((s.view p).issue w (syncShape w) eff).out.all Ev.quiet = true
      rw [hissue]
      exact hquiet k z hz)]
    refine State.effects_asks p _ _ _ _ _ ?_
    show Ev.request (z.syncOpOf isWait w k) ∈ ((s.view p).issue w (syncShape w) eff).out
    rw [hissue]
    exact List.mem_append_right _ List.mem_cons_self

end Sys2Proof.Machine
end

section
/-! The instructions that queue an operation, settled. -/

namespace Sys2Proof.Machine

theorem engineOperations : EngineOperations :=
  ⟨completes_engine fun _ _ _ => rfl, completes_engine fun _ _ _ => rfl, completes_engine fun _ _ _ => rfl,
    completes_engine fun _ _ _ => rfl, completes_engine fun _ _ _ => rfl, completes_engine fun _ _ _ => rfl,
    completes_engine fun _ _ _ => rfl, fun _ _ _ _ _ hs h => mclrCompletes hs h⟩

theorem syncOperations : SyncOperations := ⟨completes_sync fun _ _ _ => rfl, completes_sync fun _ _ _ => rfl⟩

/-- Settles O8: each operation takes its token and joins its queue; a SIG or WAITGE also leaves for its counter. -/
theorem operationsQueued : Obligations.OperationsQueued := ⟨engineOperations, syncOperations⟩

end Sys2Proof.Machine
end

section
/-! SUPPORT. Sends (R94, R217-R225). -/

namespace Sys2Proof.Machine

theorem sendAddr_side {t u : Tile} (h : t.side = u.side) (k : Nat) : sendAddr t k = sendAddr u k := by
  unfold sendAddr
  rw [Tile.side_sreg h]

theorem sendAddr_lt (t : Tile) (k : Nat) : sendAddr t k < 0x200000 := by
  unfold sendAddr
  exact BitVec.isLt _

theorem Tile.sendInc_side {t u : Tile} (h : t.side = u.side) (src dst : Nat) :
    (t.sendInc src dst).side = (u.sendInc src dst).side := by
  have hfirst : (t.setReg src (t.sreg src + 64) (t.tag src)).side = (u.setReg src (u.sreg src + 64) (u.tag src)).side := by
    rw [Tile.side_sreg h, Tile.side_tag h]
    exact Tile.setReg_side h _ _ _
  unfold Tile.sendInc
  dsimp only
  split
  · exact hfirst
  · rw [Tile.side_sreg hfirst, Tile.side_tag hfirst]
    exact Tile.setReg_side hfirst _ _ _

theorem Tile.sendInc_pal (t : Tile) (src dst : Nat) :
    (t.sendInc src dst).pal = t.pal ∧ (t.sendInc src dst).palPois = t.palPois := by
  unfold Tile.sendInc
  dsimp only
  split <;> simp only [Tile.setReg_pal, and_self]

/-- R94, R217: a send takes its token and is under way, its address registers go on where it says so, and so does the
program. -/
def Tile.queueSend (t : Tile) (w : IW) (e : Send) : Tile :=
  (if w.f 15 1 = 1 then ({ t.takeToken (w.f 44 5) with exch := t.exch ++ [e] } : Tile).sendInc (w.f 39 5) (w.f 34 5)
    else { t.takeToken (w.f 44 5) with exch := t.exch ++ [e] }).advance

theorem Tile.queueSend_side {t u : Tile} (h : t.side = u.side) (w : IW) (e : Send) :
    (t.queueSend w e).side = (u.queueSend w e).side := by
  have hsend : ({ t.takeToken (w.f 44 5) with exch := t.exch ++ [e] } : Tile).side =
      ({ u.takeToken (w.f 44 5) with exch := u.exch ++ [e] } : Tile).side := by
    have htoken := Tile.takeToken_side h (w.f 44 5)
    simp only [Tile.side, ProgramSide.mk.injEq] at h htoken ⊢
    simp [h, htoken]
  unfold Tile.queueSend
  split
  · exact Tile.advance_side (Tile.sendInc_side hsend _ _)
  · exact Tile.advance_side hsend

theorem Tile.queueSend_pal (t : Tile) (w : IW) (e : Send) :
    (t.queueSend w e).pal = t.pal ∧ (t.queueSend w e).palPois = t.palPois := by
  have htoken := t.takeToken_pal (w.f 44 5)
  unfold Tile.queueSend
  split <;> simp only [Tile.advance_pal, Tile.sendInc_pal, htoken, and_self]

/-- A send that is discarded in cycle `c`, and one that leaves then with the bytes `b` for tile `q` (R221, R225). -/
def TW.dropped (x : TW) (c td dst : Nat) : Send := ⟨none, dst, 0, 0, c + 24, td, 3, x.t.origin c x.env.tick⟩

def TW.sent (x : TW) (c td dst q : Nat) (b : Bytes) : Send :=
  ⟨some q, dst, BitVec.ofNat 512 b.v, b.pois.zipIdx.foldl (fun a q => if q.1 then a + 2 ^ q.2 else a) 0, c + 24, td,
    if b.viol then 3 else 0, x.t.origin c x.env.tick⟩

/-- What a send's read and its counts leave of the tile before it is queued (R223, R454). -/
def TW.sendRead (x : TW) (c td src dst q : Nat) : TW :=
  let y := (x.readPart c .engR (seqWho x) src 64).2
  let y := if y.t.slipped then y.count TF.XCH_CNT_SLIP.count (some 18) 1 else y
  let y := if y.t.pen then y.emit (.claim q (dst / 64) (c + 8) ⟨6, 0, td, x.t.pc, x.env.tile⟩) else y
  (y.emit (.arrive q (dst / 64) (c + 24))).perf 0x12 1

/-- The send of an instruction that issues in cycle `c`: inside its window and with a served destination it leaves. -/
def TW.sendOf (w : IW) (dest : Tile → Nat) (c : Nat) (x : TW) : Send :=
  let dst := sendAddr x.t (w.f 34 5)
  if x.t.inWindow c then
    match x.sendDest (dest x.t) with
    | none => x.dropped c (w.f 44 5) dst
    | some q => x.sent c (w.f 44 5) dst q (x.readPart c .engR (seqWho x) (sendAddr x.t (w.f 39 5)) 64).1
  else x.dropped c (w.f 44 5) dst

/-- The tile with what that send has read and counted, before the send is queued. -/
def TW.sendBase (w : IW) (dest : Tile → Nat) (c : Nat) (x : TW) : TW :=
  if x.t.inWindow c then
    match x.sendDest (dest x.t) with
    | none => (x.count TF.XCH_CNT_DEST.count (some 19) 1).perf 0x12 1
    | some q => x.sendRead c (w.f 44 5) (sendAddr x.t (w.f 39 5)) (sendAddr x.t (w.f 34 5)) q
  else (x.count TF.XCH_CNT_WIN.count (some 17) 1).perf 0x12 1

def TW.sendGo (w : IW) (dest : Tile → Nat) (c : Nat) (x : TW) : TW :=
  (x.sendBase w dest c).map fun t => t.queueSend w (x.sendOf w dest c)

/-- R221, R225: a send, by its two halves. -/
theorem TW.sendTo_eq (y : TW) (w : IW) (dest : Tile → Nat) (c : Nat) :
    (y.sendTo c (dest y.t) (w.f 44 5) (sendAddr y.t (w.f 39 5)) (sendAddr y.t (w.f 34 5))).map
      (fun t => (if w.f 15 1 = 1 then t.sendInc (w.f 39 5) (w.f 34 5) else t).advance) = y.sendGo w dest c := by
  unfold TW.sendTo TW.sendGo TW.sendBase TW.sendOf
  cases y.t.inWindow c with
  | false =>
    simp only [Bool.not_false, if_true, Bool.false_eq_true, if_false]
    rfl
  | true =>
    simp only [Bool.not_true, if_true, Bool.false_eq_true, if_false]
    cases y.sendDest (dest y.t) <;> rfl

theorem TW.send_eq (x : TW) (w : IW) (illegal : Bool) (extra : List Nat) (dest : Tile → Nat) :
    x.send w illegal extra dest = x.issue w (sendShape illegal extra dest w) (TW.sendGo w dest) := by
  have hgo : TW.sendGo w dest = fun c y =>
      (y.sendTo c (dest y.t) (w.f 44 5) (sendAddr y.t (w.f 39 5)) (sendAddr y.t (w.f 34 5))).map
        fun t => (if w.f 15 1 = 1 then t.sendInc (w.f 39 5) (w.f 34 5) else t).advance :=
    funext fun c => funext fun y => (y.sendTo_eq w dest c).symm
  rw [hgo]
  rfl

section
variable {x : TW} (w : IW) (dest : Tile → Nat) (c : Nat)

theorem TW.sendRead_is {m : Mark} (td src dst q : Nat) (h : x.Is m) : (x.sendRead c td src dst q).Is m := by
  have hread : (x.readPart c .engR (seqWho x) src 64).2.Is m := TW.readPart_is _ _ _ _ _ _ h
  refine TW.perf_is _ _ _ (TW.emit_is _ _ rfl ?_)
  have hslip := TW.is_ite (c := ((x.readPart c .engR (seqWho x) src 64).2.t.slipped = true))
    (fun _ => TW.count_is _ TF.XCH_CNT_SLIP.count (some 18) 1 hread) fun _ => hread
  exact TW.is_ite (fun _ => TW.emit_is _ _ rfl hslip) fun _ => hslip

theorem TW.sendRead_calm {b : Bits} (td src dst q : Nat) (h : x.Calm b) : (x.sendRead c td src dst q).Calm b := by
  have hread : (x.readPart c .engR (seqWho x) src 64).2.Calm b := TW.readPart_still _ _ _ _ _ _ h
  refine TW.perf_still _ _ _ (TW.emit_still _ _ ?_)
  have hslip := TW.still_ite (c := ((x.readPart c .engR (seqWho x) src 64).2.t.slipped = true))
    (fun _ => TW.count_still _ TF.XCH_CNT_SLIP.count (some 18) 1 hread) fun _ => hread
  exact TW.still_ite (fun _ => TW.emit_still _ _ hslip) fun _ => hslip

theorem TW.sendBase_is {m : Mark} (h : x.Is m) : (x.sendBase w dest c).Is m := by
  unfold TW.sendBase
  split
  · split
    · exact TW.perf_is _ _ _ (TW.count_is _ _ _ _ h)
    · exact TW.sendRead_is c _ _ _ _ h
  · exact TW.perf_is _ _ _ (TW.count_is _ _ _ _ h)

theorem TW.sendBase_calm {b : Bits} (h : x.Calm b) : (x.sendBase w dest c).Calm b := by
  unfold TW.sendBase
  split
  · split
    · exact TW.perf_still _ _ _ (TW.count_still _ _ _ _ h)
    · exact TW.sendRead_calm c _ _ _ _ h
  · exact TW.perf_still _ _ _ (TW.count_still _ _ _ _ h)

/-- A send takes its token until 24 cycles after its issue, whether it leaves or not. -/
theorem TW.sendOf_fields : (x.sendOf w dest c).td = w.f 44 5 ∧
    (x.sendOf w dest c).daddr = sendAddr x.t (w.f 34 5) ∧ (x.sendOf w dest c).due = c + 24 := by
  unfold TW.sendOf
  dsimp only
  split
  · split <;> exact ⟨rfl, rfl, rfl⟩
  · exact ⟨rfl, rfl, rfl⟩

end

/-- R116: a permitted read is no violation. -/
theorem TW.readPart_viol {u : Setup} {x : TW} {c a n : Nat} {kind : AccKind} {who : Who} (hf : x.Fixed u)
    (hp : ∀ y : TW, y.Fixed u → y.t.permits c kind (a / 64) = true) (ha : a < 0x200000) :
    (x.readPart c kind who a n).1.viol = false := by
  unfold TW.readPart
  dsimp only
  rw [hp _ (TW.commitDue_fixed x c hf), if_pos (by simp [ha])]
  rfl

section
variable {s : State} {p c : Nat} {z : TW} (hz : z.From s p c) (w : IW) {dest : Tile → Nat}
  (hdest : ∀ a b : Tile, a.side = b.side → dest a = dest b)
include hz

/-- R221: a send outside its window is discarded. -/
theorem TW.From.sendOf_outside {k : Nat} (hwin : (s.tile p).inWindow k = false) :
    (z.sendOf w dest k).dest = none ∧ (z.sendOf w dest k).status = 3 := by
  simp only [TW.sendOf, hz.inWindow, hwin, Bool.false_eq_true, if_false, TW.dropped, and_self]

include hdest

theorem TW.From.sendDest : z.sendDest (dest z.t) = (s.env p).served (dest ((s.tile p).settle c)) := by
  rw [TW.sendDest, hz.is.env, hdest _ _ hz.is.tile.eq]

/-- R225: a send to a destination that no tile serves is discarded. -/
theorem TW.From.sendOf_unserved {k : Nat} (hwin : (s.tile p).inWindow k = true)
    (hq : (s.env p).served (dest ((s.tile p).settle c)) = none) :
    (z.sendOf w dest k).dest = none ∧ (z.sendOf w dest k).status = 3 := by
  have h := (hz.sendDest hdest).trans hq
  simp only [TW.sendOf, hz.inWindow, hwin, h, if_true, TW.dropped, and_self]

/-- R217: a send to a served destination carries its source row. -/
theorem TW.From.sendOf_served {k q : Nat} (hwin : (s.tile p).inWindow k = true)
    (hq : (s.env p).served (dest ((s.tile p).settle c)) = some q) :
    let src := sendAddr ((s.tile p).settle c) (w.f 39 5)
    let e := z.sendOf w dest k
    e.dest = some q ∧ ((s.tile p).permits k .engR (src / 64) = true →
      e.status = 0 ∧ ((s.tile p).Still → e.data = BitVec.ofNat 512 (memRead (s.tile p).pal src 64))) := by
  intro src e
  have hsrc : sendAddr z.t (w.f 39 5) = src := sendAddr_side hz.is.tile.eq _
  have he : e = z.sent k (w.f 44 5) (sendAddr z.t (w.f 34 5)) q (z.readPart k .engR (seqWho z) src 64).1 := by
    have h := (hz.sendDest hdest).trans hq
    simp only [e, TW.sendOf, hz.inWindow, hwin, h, if_true, hsrc]
  rw [he]
  refine ⟨rfl, fun hperm => ?_⟩
  have hp : ∀ y : TW, y.Fixed (s.tile p).setup → y.t.permits k .engR (src / 64) = true :=
    fun y hy => (hy.tile.permits k .engR (src / 64)).trans hperm
  have hlt : src < 0x200000 := sendAddr_lt _ _
  refine ⟨?_, fun hst => ?_⟩
  · simp only [TW.sent, TW.readPart_viol hz.fixed hp hlt, Bool.false_eq_true, if_false]
  · simp only [TW.sent, TW.readPart_calm z k .engR (seqWho z) src 64 (hz.calm hst) hz.fixed hp hlt]
    rfl

end

/-- R94, R217, R221, R225: a send. -/
theorem completes_send {mk : TileId → IW → Instr} {illegal : IW → Bool} {extra : IW → List Nat}
    {dest : IW → Tile → Nat}
    (hexec : ∀ s t w, exec (mk t w) s = .next (s.runTile t fun x => x.send w (illegal w) (extra w) (dest w)))
    (hdest : ∀ w (a b : Tile), a.side = b.side → dest w a = dest w b) : SendCompletes mk illegal extra dest := by
  intro s t p w c hs h x
  have hcheck : ∀ a b : Tile, a.side = b.side →
      (sendShape (illegal w) (extra w) (dest w) w).check a = (sendShape (illegal w) (extra w) (dest w) w).check b :=
    fun _ _ hab => noPoison_side hab _
  obtain ⟨k, z, hk, -, hz, -, htile, hothers⟩ := h.tiles hs hcheck (TW.sendGo w (dest w))
    fun k z hz => (TW.sendBase_is w (dest w) k hz.is).quiet
  obtain ⟨htd, hdaddr, hdue⟩ := TW.sendOf_fields (x := z) w (dest w) k
  refine ⟨_, k, z.sendOf w (dest w) k, (hexec s t w).trans (by simp only [TW.send_eq]), hk,
    State.kept_of htile fun hst => ?kept,
    State.after_of htile hothers (Tile.queueSend_side (TW.sendBase_is w (dest w) k hz.is).tile.eq w _),
    htd, hdaddr.trans (sendAddr_side hz.is.tile.eq _), hdue, ?send⟩
  case kept =>
    have hcalm := TW.sendBase_calm w (dest w) k (hz.calm hst)
    obtain ⟨hpal, hpois⟩ := (z.sendBase w (dest w) k).t.queueSend_pal w (z.sendOf w (dest w) k)
    exact ⟨hpal.trans hcalm.tile.pal, hpois.trans hcalm.tile.pois⟩
  case send =>
    cases hwin : (s.tile p).inWindow k with
    | false => exact hz.sendOf_outside w hwin
    | true =>
      cases hq : (s.env p).served (dest w x) with
      | none => exact hz.sendOf_unserved w (hdest w) hwin hq
      | some q => exact hz.sendOf_served w (hdest w) hwin hq

end Sys2Proof.Machine
end

section
/-! The sends, settled. -/

namespace Sys2Proof.Machine

/-- Settles O10: a send outside its window or without a served destination is discarded, and any other leaves. -/
theorem sendsLeave : Obligations.SendsLeave := by
  have hfield : (fun (w : IW) (x : Tile) => (x.sreg (w.f 16 5)).toNat % 2 ^ 13) =
      fun w x => (x.sreg (w.f 16 5)).field 0 13 := by
    funext w x
    rw [Word.field_low]
  refine ⟨completes_send (fun _ _ _ => rfl) fun _ _ _ _ => rfl, ?_⟩
  rw [hfield]
  exact completes_send (fun _ _ _ => rfl) fun w a b hab => by rw [Tile.side_sreg hab]

end Sys2Proof.Machine
end

section
/-! SUPPORT. Sends that end at their receivers, and instruction rows that are delivered (R68-R70, R217, R226, R234). -/

namespace Sys2Proof.Machine

section
variable {s : State} {p : Nat} {x : Send} {l : List Send}

theorem Tile.endSend_queued {t : Tile} (h : t.adrift = []) (x : Send) (status : Nat) :
    t.endSend x status =
      ({ t with exch := t.exch.erase x, cyc := max t.cyc x.due } : Tile).clearToken .exch x.td status x.due :=
  if_neg (by rw [h]; exact Bool.false_ne_true)

theorem Tile.endSend_adrift {t : Tile} {l : List Send} (h : t.adrift = x :: l) (status : Nat) :
    t.endSend x status = { t with adrift := t.adrift.erase x } :=
  if_pos (by simp [h])

/-- A send that was discarded when it was issued ends with its own status. -/
theorem State.delivery_discarded (hfly : (s.tile p).flying = x :: l) (hdest : x.dest = none) :
    s.delivery p = s.endSend p x x.status := by
  simp only [State.delivery, hfly, hdest]

section
variable {q i k : Nat} {y : Send} (hfly : (s.tile p).flying = x :: l) (hdest : x.dest = some q)
  (harr : s.arrivals (physDie p) q x.due = [(i, k, y)])
include hfly hdest harr

/-- R129, R234: a receiver under Gesso drops the send that reaches it. -/
theorem State.delivery_gesso (hg : (s.tile q).gesso = true) :
    s.delivery p = (s.errc (dieErrc (physDie q) 5) 1).endSend k y 3 := by
  simp only [State.delivery, hfly, hdest, harr, hg, if_true, List.foldl_cons, List.foldl_nil, List.length_nil, Nat.zero_add]

/-- R226: a send that alone reaches its receiver is delivered there. -/
theorem State.delivery_single (hg : (s.tile q).gesso = false) :
    let d := (s.view q).deliver x.due ((s.ownerOf q).isSome && s.ownerOf q == s.ownerOf k)
      ((s.tile k).get TF.TILE_SELF.tile_id) y
    s.delivery p = ((s.setTile q d.2.t).effects q (s.env q) x.due d.2.out).endSend k y d.1 := by
  simp only [State.delivery, hfly, hdest, harr, hg, Bool.false_eq_true, if_false, List.foldl_nil]
  rfl

end
end

/-! Rows (R68-R70). -/

/-- The row of a read granted in cycle `g` is delivered. -/
def TW.rowDone (y : TW) (g : Nat) : TW := y.map fun t =>
  { t with cyc := max t.cyc (g + t.readLat g), fetch := { t.fetch with got := true } }

section
variable {x : TW} {r k : Nat}

theorem TW.rowGranted_granted (x : TW) (r st k : Nat) : (x.rowGranted r st k).t.fetch.granted = some k := by
  unfold TW.rowGranted
  dsimp only
  split <;> rfl

/-- R116: the read of a row that no code partition covers leaves the Palette untouched. -/
theorem TW.rowGranted_refused (st : Nat) (h : (x.commitDue k).t.permits k .fetch r = false) :
    (x.rowGranted r st k).t.pal = (x.commitDue k).t.pal := by
  unfold TW.rowGranted
  simp only [h, Bool.false_eq_true, if_false]
  rfl

theorem TW.rowDelivered_granted {g : Nat} (hnext : x.t.fetch.next = some (r, k)) (hgot : x.t.fetch.got = false)
    (hg : x.t.fetch.granted = some g) : x.rowDelivered = x.rowDone g := by
  simp only [TW.rowDelivered, hnext, hgot, hg, Bool.false_eq_true, if_false, TW.map, TW.rowDone, Option.map_some,
    Option.getD_some]

theorem TW.rowDelivered_waiting (hnext : x.t.fetch.next = some (r, k)) (hgot : x.t.fetch.got = false)
    (hg : x.t.fetch.granted = none) :
    let q := x.requestGo k (r % 16) 7 maxWait
    x.rowDelivered = (q.2.rowGranted r k q.1).rowDone q.1 := by
  intro q
  have hgranted := q.2.rowGranted_granted r k q.1
  simp only [TW.rowDelivered, hnext, hgot, hg, Bool.false_eq_true, if_false, TW.map, TW.rowDone, q, hgranted,
    Option.map_some, Option.getD_some]

end

end Sys2Proof.Machine
end

section
/-! The deliveries, settled. -/

namespace Sys2Proof.Machine

theorem exec_delivery {s : State} {t : TileId} {p : Nat} (h : s.phys t.gid = some p) :
    exec (.delivery t) s = .next (s.delivery p) := congrArg _ (State.withTile_served h _)

theorem exec_rowIssuable {s : State} {t : TileId} {p : Nat} {f : TW → TW} (h : s.phys t.gid = some p)
    (hf : (s.view p).rowDelivered = f (s.view p)) : exec (.rowIssuable t) s = .next (s.onTile p f) :=
  congrArg _ ((s.runTile_served t p _ h).trans (s.onTile_congr p _ _ hf))

theorem sendsDelivered : SendsDelivered := by
  intro s t p x l hp
  rw [exec_delivery hp]
  refine ⟨fun hadrift hexch hdest => ?discarded, fun hadrift hdest => ?adrift,
    fun q i k y hfly hdest harr => ⟨fun hg => congrArg _ (State.delivery_gesso hfly hdest harr hg),
      fun hg => congrArg _ (State.delivery_single hfly hdest harr hg)⟩⟩
  case discarded =>
    have hfly : (s.tile p).flying = x :: l := by rw [Tile.flying, hadrift, hexch, List.nil_append]
    rw [State.delivery_discarded hfly hdest, State.endSend, State.mapTile, Tile.endSend_queued hadrift]
    rfl
  case adrift =>
    have hfly : (s.tile p).flying = x :: (l ++ (s.tile p).exch) := by rw [Tile.flying, hadrift, List.cons_append]
    rw [State.delivery_discarded hfly hdest, State.endSend, State.mapTile, Tile.endSend_adrift hadrift]
    rfl

theorem rowDelivered : RowDelivered := by
  intro s t p r k hp hnext hgot done
  refine ⟨fun g hg => exec_rowIssuable hp (TW.rowDelivered_granted hnext hgot hg), fun hg => ?_⟩
  refine ⟨?_, ?_⟩
  · exact exec_rowIssuable hp (TW.rowDelivered_waiting hnext hgot hg)
  · exact fun h => TW.rowGranted_refused k h

/-- Settles O26: a send ends by what its receiver makes of it, and a row by the grant of its read. -/
theorem deliveries : Obligations.Deliveries := ⟨sendsDelivered, rowDelivered⟩

end Sys2Proof.Machine
end

section
/-! SUPPORT. What the patrols, the write-back of a corrected segment, and the writes of a Palette's partition and
receive-window registers come to in each of their cases (R106, R109, R114, R119, R122, R306). -/

namespace Sys2Proof.Machine

/-! Bits of a word. -/

/-- A field that a mask keeps whole. -/
theorem Word.field_and_mask (v m : Word) (lo w : Nat) (h : ∀ i < w, m.getLsbD (lo + i) = true) :
    (v &&& m).field lo w = v.field lo w := by
  refine congrArg BitVec.toNat (BitVec.eq_of_getLsbD_eq fun i hi => ?_)
  simp [hi, h i hi]

theorem Word.getLsbD_of_field_eq_zero {v : Word} {k : Nat} (h : v.field k 1 = 0) : v.getLsbD k = false := by
  have hbit := Word.field_testBit v k 1 0 (by omega)
  rw [h, Nat.zero_testBit] at hbit
  exact hbit.symm

/-- A write of a whole register. -/
theorem Word.merge_allOnes (old v : Word) : (old &&& ~~~ BitVec.allOnes 64) ||| (v &&& BitVec.allOnes 64) = v :=
  mergeBits_allOnes old v

/-! Commands at a served tile. -/

section
variable {s : State} {t : TileId} {p : Nat}

/-- What a register write at a served tile that is not under Gesso comes to (R128). -/
theorem State.writeTileReg_awake (hp : s.phys t.gid = some p) (hg : (s.tile p).gesso = false) {f : TW → TW} {y : TW}
    (hf : f (s.view p) = y) : s.writeTileReg t f = s.onTile p fun _ => y := by
  unfold State.writeTileReg
  rw [State.withTile_served hp]
  simp only [hg, Bool.false_eq_true, if_false]
  exact s.onTile_congr p _ _ hf

theorem exec_correctedWriteBack (q : PhysTile) (c : Nat) (b : Fin 16) (h : s.erasing = false) {y : TW}
    (hf : (s.view q.idx).writeBackOne c b = y) : exec (.correctedWriteBack q c b) s = .next (s.onTile q.idx fun _ => y) := by
  have hrun : exec (.correctedWriteBack q c b) s =
      .next (if s.erasing then s else s.onTile q.idx fun x => x.writeBackOne c b) := rfl
  rw [hrun, h, if_neg Bool.false_ne_true, s.onTile_congr q.idx (fun x => x.writeBackOne c b) (fun _ => y) hf]

theorem exec_patrolRead_palette (q : PhysTile) (c : Nat) (b : Fin 16) (h : s.erasing = false) {y : TW}
    (hf : (s.view q.idx).patrolOne c b = y) :
    exec (.patrolRead (.palette q) c b) s = .next (s.onTile q.idx fun _ => y) := by
  have hrun : exec (.patrolRead (.palette q) c b) s =
      .next (if s.erasing then s else s.onTile q.idx fun x => x.patrolOne c b) := rfl
  rw [hrun, h, if_neg Bool.false_ne_true, s.onTile_congr q.idx (fun x => x.patrolOne c b) (fun _ => y) hf]

theorem exec_patrolRead_store (f : Fin 2) (c : Nat) (b : Fin 16) :
    exec (.patrolRead (.store f) c b) s = .next (s.bldPatrol f c) := rfl

theorem exec_gessoComplete (q : PhysTile) : exec (.gessoComplete q) s = .next (s.gessoDone q.idx) := rfl

theorem exec_palCtrlPatrolWrite (c : Nat) (v : Bool) (hp : s.phys t.gid = some p) (hg : (s.tile p).gesso = false) {y : TW}
    (hf : (s.view p).patrolWrite c v.toNat = y) :
    exec (.palCtrlPatrolWrite t c v) s = .next (s.onTile p fun _ => y) :=
  congrArg _ (State.writeTileReg_awake hp hg hf)

theorem exec_palPartWrite (c : Nat) (k : Fin 16) (v : Word) (hp : s.phys t.gid = some p) (hg : (s.tile p).gesso = false)
    {y : TW} (hf : (s.view p).partWrite c k (BitVec.allOnes 64) v = y) :
    exec (.palPartWrite t c k v) s = .next (s.onTile p fun _ => y) :=
  congrArg _ (State.writeTileReg_awake hp hg hf)

theorem exec_palRxcfgWrite (j : Fin 4) (v : Word) (hp : s.phys t.gid = some p) (hg : (s.tile p).gesso = false) {y : TW}
    (hf : (s.view p).rxCfgWrite j (BitVec.allOnes 64) v = y) :
    exec (.palRxcfgWrite t j v) s = .next (s.onTile p fun _ => y) :=
  congrArg _ (State.writeTileReg_awake hp hg hf)

theorem exec_palRxrelWrite (j : Fin 4) (n : BitVec 7) (hp : s.phys t.gid = some p) (hg : (s.tile p).gesso = false) {y : TW}
    (hf : (s.view p).rxRelWrite j n.toNat = y) :
    exec (.palRxrelWrite t j n) s = .next (s.onTile p fun _ => y) :=
  congrArg _ (State.writeTileReg_awake hp hg hf)

end

/-! Write-back and patrol (R106, R109, R306). -/

section
variable {x : TW} {c bank : Nat}

theorem TW.writeBackOne_written {seg : Nat} (hseg : x.t.writeBack.find? (fun s => bankOf (16 * s) == bank) = some seg)
    (hfree : (x.ports (c + 1)).t.claimed c bank 9 = false) :
    x.writeBackOne c bank = x.map fun t => { t.grant c bank 8 with
      palErr := SMap.put t.palErr seg 0 0, writeBack := t.writeBack.filter (· ≠ seg) } := by
  unfold TW.writeBackOne
  rw [hfree, hseg]
  rfl

theorem TW.patrolOne_reads (hon : x.get TF.PAL_CTRL.patrol ≠ 0) (hgesso : x.t.gesso = false)
    (hfree : (x.ports (c + 1)).t.claimed c bank 9 = false) (hwb : ∀ s ∈ x.t.writeBack, bankOf (16 * s) ≠ bank)
    (hdue : SMap.getD x.t.patrolAt bank 0 ≤ c) :
    let row := SMap.getD x.t.patrolRow bank 0
    x.patrolOne c bank =
      (((x.commitStores c).map fun t => t.grant c bank 9).readSegs ((row * 1024 + bank * 64) / 16) 4).2.2.map fun t =>
        { t with patrolRow := SMap.put t.patrolRow bank ((row + 1) % 2048) 0,
                 patrolAt := SMap.put t.patrolAt bank (c + 4096) 0 } := by
  have hnone : x.t.writeBack.any (fun s => bankOf (16 * s) == bank) = false := by simpa using hwb
  have hdue : ¬ c < SMap.getD x.t.patrolAt bank 0 := by omega
  unfold TW.patrolOne
  simp only [hon, hgesso, hfree, hnone, hdue, decide_false, Bool.or_self, Bool.false_eq_true, if_false]

/-- R109: a write of 0 suspends the patrol; it does no more. -/
theorem TW.patrolWrite_off (x : TW) (c : Nat) : x.patrolWrite c false.toNat = x.put TF.PAL_CTRL.patrol 0 := rfl

/-- R109: a write of 1 to a suspended patrol counts the 4,096 tc anew at every bank. -/
theorem TW.patrolWrite_on (h : x.get TF.PAL_CTRL.patrol = 0) :
    x.patrolWrite c true.toNat = (x.put TF.PAL_CTRL.patrol 1).map fun t =>
      { t with patrolAt := (List.range 16).foldl (fun m b => SMap.put m b (c + 4096) 0) t.patrolAt } := by
  unfold TW.patrolWrite
  rw [h]
  rfl

end

@[simp] theorem State.reach_bld (s : State) (n : Nat) : (s.reach n).bld = s.bld := rfl

/-- R306: the patrol of a blend store; its pace and its lines are those of notes/assumptions/54. -/
theorem State.bldPatrol_reads {s : State} {c : Nat} (f : Fin 2) (hon : s.get (F.BLD_CTL.patrol f) ≠ 0)
    (hdue : SMap.getD s.bld.patrolAt f 0 ≤ c) :
    let l := SMap.getD s.bld.patrolLine f 0
    let u := (s.reach c).bldLine f l
    s.bldPatrol f c = { u with bld := { u.bld with
      patrolLine := SMap.put u.bld.patrolLine f ((l + 1) % 786432) 0,
      patrolAt := SMap.put u.bld.patrolAt f (c + 4096) 0 } } := by
  have hget : (s.reach c).get (F.BLD_CTL.patrol f) = s.get (F.BLD_CTL.patrol f) :=
    s.reach_get c _ (by clear hon hdue; revert f; decide)
  have hdue : ¬ c < SMap.getD s.bld.patrolAt f 0 := by omega
  unfold State.bldPatrol
  simp only [State.reach_bld, hget, hon, hdue, decide_false, Bool.or_self, Bool.false_eq_true, if_false]

/-- The end of Gesso of a tile under Gesso (R126, R419). -/
theorem State.gessoDone_gesso {s : State} {p : Nat} (h : (s.tile p).gesso = true) :
    s.gessoDone p = (s.gessoComplete p).stageDeferred (physDie p) (physRow p) := by
  unfold State.gessoDone
  rw [h]
  rfl

/-! Partitions (R114). -/

section
variable {x : TW} {c k : Nat} {v : Word}

theorem Tile.partOk_unlocked {t : Tile} {cand : Word} (h : t.partOk k cand = true) :
    (rreg tileReset t.regs (0x80 + 8 * k)).field 48 1 = 0 := by
  simp only [Tile.partOk, Bool.and_eq_true, beq_iff_eq] at h
  obtain ⟨⟨⟨⟨⟨⟨hlock, -⟩, -⟩, -⟩, -⟩, -⟩, -⟩ := h
  exact hlock

theorem TW.partWrite_replaces (h : x.t.partOk k (v &&& partMask) = true) :
    x.partWrite c k (BitVec.allOnes 64) v = x.map fun t =>
      { t with regs := rset tileReset t.regs (0x80 + 8 * k) (v &&& partMask),
               partNext := t.partNext.filter (fun p => decide (c < p.1)) ++
                 [(c + 2, k, rreg tileReset x.t.regs (0x80 + 8 * k))] } := by
  have hopen := Word.getLsbD_of_field_eq_zero (Tile.partOk_unlocked h)
  unfold TW.partWrite
  simp only [Word.merge_allOnes, hopen, Bool.and_false, Bool.false_eq_true, if_false, h, if_true]

/-- R114: a locked descriptor rejects every write. -/
theorem TW.partWrite_locked (m : Word) (h : (rreg tileReset x.t.regs (0x80 + 8 * k)).field 48 1 = 1) :
    x.partWrite c k m v = x.put TF.PAL_STATUS.part_reject 1 :=
  if_neg fun hok => absurd (h.symm.trans (Tile.partOk_unlocked hok)) (by decide)

end

/-! Receive windows (R119). -/

section
variable {x : TW} {k : Nat} {v w : Word}

/-! The fields of PAL_RXCFGk are kept whole. -/

theorem rxMask_enable (v : Word) : (v &&& rxMask).field 40 1 = v.field 40 1 := Word.field_and_mask v _ _ _ (by decide)
theorem rxMask_rows (v : Word) : (v &&& rxMask).field 22 12 = v.field 22 12 := Word.field_and_mask v _ _ _ (by decide)
theorem rxMask_nbuf (v : Word) : (v &&& rxMask).field 34 6 = v.field 34 6 := Word.field_and_mask v _ _ _ (by decide)
theorem rxMask_flow (v : Word) : (v &&& rxMask).field 0 14 = v.field 0 14 := Word.field_and_mask v _ _ _ (by decide)
theorem rxMask_epoch (v : Word) : (v &&& rxMask).field 14 8 = v.field 14 8 := Word.field_and_mask v _ _ _ (by decide)

theorem TW.rxCfgWrite_closes (h : v.field 40 1 = 0) :
    x.rxCfgWrite k (BitVec.allOnes 64) v = x.map fun t =>
      ({ t with regs := rset tileReset t.regs (0x100 + 0x20 * k) (v &&& rxMask) } : Tile).rxClose k := by
  unfold TW.rxCfgWrite
  simp only [Word.merge_allOnes, rxMask_enable, h, if_true]

theorem TW.rxCfgWrite_opens (hen : v.field 40 1 = 1)
    (hold : (rreg tileReset x.t.regs (0x100 + 0x20 * k)).field 40 1 = 0) (hpart : x.t.rxPart k = some w)
    (hfit : (v.field 22 12 + 1) * (v.field 34 6 + 1) ≤ partSize w) (hrecv : w.field 41 1 = 1) :
    x.rxCfgWrite k (BitVec.allOnes 64) v =
      ((x.map fun t => (((({ t with regs := rset tileReset t.regs (0x100 + 0x20 * k) (v &&& rxMask) } : Tile).rxZero k).put
        (TF.PAL_RXCNT.filled k) 0).put (TF.PAL_RXCNT.released k) 0).put (TF.PAL_RXOPEN.open k) (2 ^ (v.field 34 6 + 1) - 1)).penPending
          ⟨5, 0, 0, 0, 0⟩ (partBase w) (if x.t.pen then (v.field 22 12 + 1) * (v.field 34 6 + 1) else 0)).emit
        (.credits (v.field 0 14) (v.field 14 8) k 0 (v.field 34 6 + 1) (v.field 34 6) (v.field 22 12) (partBase w)) := by
  unfold TW.rxCfgWrite
  simp only [Word.merge_allOnes, rxMask_enable, rxMask_rows, rxMask_nbuf, rxMask_flow, rxMask_epoch, hen, hold, hpart, hfit,
    hrecv, Nat.one_ne_zero, Nat.zero_ne_one, if_false, BEq.rfl, Bool.and_self, decide_true, if_true, Nat.add_sub_cancel]

end

/-! Releases (R122). -/

/-- R122: the buffer whose turn it is in slot `k` is released: it opens, empty, and `released` advances. -/
def TW.rxFreed (x : TW) (k : Nat) : TW :=
  let rel := x.get (TF.PAL_RXCNT.released k)
  let i := rel % x.t.rxNbuf k
  (x.map fun t => ({ t with rxBytes := SMap.put t.rxBytes (64 * k + i) 0 0 } : Tile).put (TF.PAL_RXOPEN.open k)
    (t.get (TF.PAL_RXOPEN.open k) ||| 2 ^ i)).put (TF.PAL_RXCNT.released k) (rel + 1)

section
variable {x : TW} {k n : Nat}

theorem TW.rxReleaseGo_one (hpen : x.t.pen = false)
    (hheld : x.get (TF.PAL_RXCNT.filled k) ≠ x.get (TF.PAL_RXCNT.released k)) :
    x.rxReleaseGo k (x.t.rxNbuf k) 1 0 = (1, x.rxFreed k) := by
  simp only [TW.rxReleaseGo, hheld, hpen, Bool.false_eq_true, if_false]
  cases x.t.rxPart k <;> rfl

theorem TW.rxRelWrite_one (hpen : x.t.pen = false) (hen : x.get (TF.PAL_RXCFG.enable k) = 1)
    (hheld : x.get (TF.PAL_RXCNT.filled k) ≠ x.get (TF.PAL_RXCNT.released k)) :
    x.rxRelWrite k 1 = (x.rxFreed k).emit (.credits (x.get (TF.PAL_RXCFG.flow_id k)) (x.get (TF.PAL_RXCFG.epoch k)) k
      (x.get (TF.PAL_RXCNT.released k) % x.t.rxNbuf k) 1 (x.t.rxNbuf k - 1) (x.t.rxRows k - 1)
      ((x.t.rxPart k).elim 0 partBase)) := by
  unfold TW.rxRelWrite
  rw [if_pos hen, TW.rxReleaseGo_one hpen hheld]
  rfl

/-- R122: a release of none, of more than 64, or of a disabled slot (the last is notes/assumptions/112). -/
theorem TW.rxRelWrite_rejects (h : n = 0 ∨ 64 < n ∨ x.get (TF.PAL_RXCFG.enable k) = 0) :
    x.rxRelWrite k n = x.put TF.PAL_STATUS.rel_reject 1 := by
  unfold TW.rxRelWrite
  by_cases hn : n = 0 ∨ 64 < n
  · rw [if_pos (by simpa using hn)]
  · have hoff : x.get (TF.PAL_RXCFG.enable k) = 0 :=
      (h.resolve_left fun h0 => hn (.inl h0)).resolve_left fun h64 => hn (.inr h64)
    have hpos : 0 < n := by omega
    rw [if_neg (by simpa using hn), hoff]
    simp [hpos]

theorem TW.rxFreed_released (hs : SMap.sorted x.t.regs = true) (h : x.get (TF.PAL_RXCNT.released k) < 2 ^ 24 - 1) :
    (x.rxFreed k).get (TF.PAL_RXCNT.released k) = x.get (TF.PAL_RXCNT.released k) + 1 := by
  have hsorted : SMap.sorted (rput tileReset x.t.regs (TF.PAL_RXOPEN.open k)
      (x.get (TF.PAL_RXOPEN.open k) ||| 2 ^ (x.get (TF.PAL_RXCNT.released k) % x.t.rxNbuf k))) = true :=
    SMap.sorted_put _ _ _ _ hs
  exact (rget_rput_same _ _ (TF.PAL_RXCNT.released k) _ hsorted (by simp)).trans (Nat.mod_eq_of_lt (Nat.lt_sub_iff_add_lt.mp h))

theorem TW.rxFreed_open (hs : SMap.sorted x.t.regs = true) :
    (x.rxFreed k).get (TF.PAL_RXOPEN.open k) =
      (x.get (TF.PAL_RXOPEN.open k) ||| 2 ^ (x.get (TF.PAL_RXCNT.released k) % x.t.rxNbuf k)) % 2 ^ 64 :=
  (rget_rput_other _ _ (TF.PAL_RXCNT.released k) (TF.PAL_RXOPEN.open k) _ (by simp)).trans
    (rget_rput_same _ _ (TF.PAL_RXOPEN.open k) _ hs (by simp))

@[simp] theorem TW.rxFreed_out (x : TW) (k : Nat) : (x.rxFreed k).out = x.out := rfl

end

end Sys2Proof.Machine
end

section
/-! The events of a Palette, settled (R106, R109, R114, R118-R126, R306). -/

namespace Sys2Proof.Machine

theorem palettePatrols : PalettePatrols := by
  intro s q t p c seg b x
  refine ⟨fun herase hseg hfree => ?writeBack, fun herase hon hgesso hfree hwb hdue => ?patrol, fun f hon hdue => ?store,
    fun hp hgesso => ⟨?suspend, fun hoff => ?resume⟩⟩
  case writeBack => exact exec_correctedWriteBack q c b herase (TW.writeBackOne_written hseg hfree)
  case patrol =>
    have hreads := TW.patrolOne_reads hon hgesso hfree hwb hdue
    exact exec_patrolRead_palette q c b herase hreads
  case store => exact (exec_patrolRead_store f c b).trans (congrArg _ (State.bldPatrol_reads f hon hdue))
  case suspend => exact exec_palCtrlPatrolWrite c false hp hgesso (TW.patrolWrite_off _ c)
  case resume => exact exec_palCtrlPatrolWrite c true hp hgesso (TW.patrolWrite_on hoff)

theorem palettePartitions : PalettePartitions := by
  intro s t q p c k j v n hp hgesso hwf x old
  refine ⟨fun hok => ?replaced, fun hlock => ?locked, fun hen => ?closed, fun w hen hold hpart hfit hrecv => ?opened,
    fun hpen hen hheld hmax hn => ?released, fun hrej => ?rejected, fun hq => ?erased⟩
  case replaced => exact exec_palPartWrite c k v hp hgesso (TW.partWrite_replaces hok)
  case locked => exact exec_palPartWrite c k v hp hgesso (TW.partWrite_locked _ hlock)
  case closed => exact exec_palRxcfgWrite j v hp hgesso (TW.rxCfgWrite_closes hen)
  case opened => exact exec_palRxcfgWrite j v hp hgesso (TW.rxCfgWrite_opens hen hold hpart hfit hrecv)
  case released =>
    have hsorted : SMap.sorted x.t.regs = true := SMap.wf_sorted _ _ hwf
    subst hn
    exact ⟨_, exec_palRxrelWrite j 1 hp hgesso (TW.rxRelWrite_one hpen hen hheld), TW.rxFreed_released hsorted hmax,
      TW.rxFreed_open hsorted, rfl⟩
  case rejected =>
    have hrej : n.toNat = 0 ∨ 64 < n.toNat ∨ x.get (TF.PAL_RXCFG.enable j) = 0 := hrej.imp_left (congrArg BitVec.toNat)
    exact exec_palRxrelWrite j n hp hgesso (TW.rxRelWrite_rejects hrej)
  case erased => exact (exec_gessoComplete q).trans (congrArg _ (State.gessoDone_gesso hq))

/-- Settles O30: each event of a Palette, a blend store's patrol and the end of a tile's Gesso. -/
theorem paletteEvents : Obligations.PaletteEvents := ⟨palettePatrols, palettePartitions⟩

end Sys2Proof.Machine
end

section
/-! SUPPORT. What a command of the Muller engine comes to at a served tile, and the bookkeeping of the events that its
operations count. -/

namespace Sys2Proof.Machine

section
variable {s : State} {t : TileId} {p : Nat} (h : s.phys t.gid = some p)
include h

/-- A command of a served tile, by what it comes to at that tile. -/
theorem State.runTile_served_eq {f : TW → TW} {y : TW} (hf : f (s.view p) = y) : s.runTile t f = s.onTile p fun _ => y :=
  (s.runTile_served t p f h).trans (s.onTile_congr p _ _ hf)

theorem exec_mullerOperationStart {c : Nat} {y : TW} (hf : (s.view p).mullerStart c = y) :
    exec (.mullerOperationStart t c) s = .next (s.onTile p fun _ => y) := congrArg _ (State.runTile_served_eq h hf)

theorem exec_stepCommit {es : List MulFault} {y : TW} (hf : (s.view p).stepCommit es = y) :
    exec (.stepCommit t es) s = .next (s.onTile p fun _ => y) := congrArg _ (State.runTile_served_eq h hf)

theorem exec_blockComplete {y : TW} (hf : (s.view p).blockComplete = y) :
    exec (.blockComplete t) s = .next (s.onTile p fun _ => y) := congrArg _ (State.runTile_served_eq h hf)

theorem exec_mstorePiece {y : TW} (hf : (s.view p).mstorePiece = y) :
    exec (.mstorePiece t) s = .next (s.onTile p fun _ => y) := congrArg _ (State.runTile_served_eq h hf)

end

/-- What counters, events and Pentimento may change of a tile: its registers, its number of hazards and its granule
tags. -/
def Tile.Books (t u : Tile) : Prop := ∃ r n g, u = { t with regs := r, hazards := n, grans := g }

namespace Tile.Books
variable {t u v : Tile}

theorem refl (t : Tile) : t.Books t := ⟨t.regs, t.hazards, t.grans, rfl⟩

theorem trans (h : t.Books u) (k : u.Books v) : t.Books v := by
  obtain ⟨_, _, _, rfl⟩ := h
  obtain ⟨r, n, g, rfl⟩ := k
  exact ⟨r, n, g, rfl⟩

/-- A choice between two ways of bookkeeping is one. -/
theorem ite {c : Prop} [Decidable c] {a b : TW} (ha : t.Books a.t) (hb : t.Books b.t) :
    t.Books (if c then a else b).t := by
  split
  · exact ha
  · exact hb

theorem cyc (h : t.Books u) : u.cyc = t.cyc := by obtain ⟨_, _, _, rfl⟩ := h; rfl
theorem acc (h : t.Books u) : u.acc = t.acc := by obtain ⟨_, _, _, rfl⟩ := h; rfl
theorem mul (h : t.Books u) : u.mul = t.mul := by obtain ⟨_, _, _, rfl⟩ := h; rfl
theorem muller (h : t.Books u) : u.muller = t.muller := by obtain ⟨_, _, _, rfl⟩ := h; rfl
theorem mulToken (h : t.Books u) : u.mulToken = t.mulToken := by obtain ⟨_, _, _, rfl⟩ := h; rfl

end Tile.Books

theorem TW.put_books (x : TW) (f : RF) (v : Nat) : x.t.Books (x.put f v).t := ⟨_, x.t.hazards, x.t.grans, rfl⟩

theorem TW.count_books (x : TW) (f : RF) (off : Option Nat) (n : Nat) : x.t.Books (x.count f off n).t := by
  unfold TW.count
  refine Tile.Books.ite (Tile.Books.refl _) ?_
  cases off <;> exact x.put_books f _

theorem TW.perf_books (x : TW) (code n : Nat) : x.t.Books (x.perf code n).t := by
  unfold TW.perf
  exact Tile.Books.ite (Tile.Books.refl _) ⟨_, x.t.hazards, x.t.grans, rfl⟩

theorem TW.perfOf_books (x : TW) (code : Nat) (o : Origin) (latency td status : Nat) :
    x.t.Books (x.perfOf code o latency td status).t :=
  Tile.Books.ite (x.perf_books code 1) (x.perf_books code 1)

theorem TW.hazard_books (x : TW) (c code : Nat) (a b : Who) (addr : Nat) (blk : Bool) :
    x.t.Books (x.hazard c code a b addr blk).t :=
  (x.count_books _ none 1).trans ⟨_, _, _, rfl⟩

theorem TW.penAcc_books (x : TW) (c b : Nat) (who : Who) : x.t.Books (x.penAcc c b who).t := by
  unfold TW.penAcc
  cases x.t.blkBusy b with
  | none => exact Tile.Books.refl _
  | some r => exact Tile.Books.ite (x.hazard_books c 5 who _ b true) (Tile.Books.refl _)

theorem TW.penDone_books (x : TW) (unit op : Nat) : x.t.Books (x.penDone unit op).t := by
  unfold TW.penDone
  exact Tile.Books.ite (Tile.Books.refl _) ⟨x.t.regs, x.t.hazards, _, rfl⟩

/-- Beside its bookkeeping, the end of an operation touches its queue entries and its token. -/
theorem TW.finish_books (x : TW) (o : QOp) (status c : Nat) :
    ((x.t.dequeue o.id).clearToken o.kind.queue o.td status c).Books (x.finish o status c).t :=
  (TW.penDone_books _ _ _).trans (TW.perfOf_books _ _ _ _ _ _)

section
variable (t : Tile) (q : Queue) (k status c : Nat)

@[simp] theorem Tile.clearToken_acc : (t.clearToken q k status c).acc = t.acc := by
  unfold Tile.clearToken
  dsimp only
  split <;> rfl

@[simp] theorem Tile.clearToken_muller : (t.clearToken q k status c).muller = t.muller := by
  unfold Tile.clearToken
  dsimp only
  split <;> rfl

@[simp] theorem Tile.clearToken_mulToken : (t.clearToken q k status c).mulToken = t.mulToken := by
  unfold Tile.clearToken
  dsimp only
  split <;> rfl

end

section
variable (x : TW) (o : QOp) (status c : Nat)

@[simp] theorem TW.finish_acc : (x.finish o status c).t.acc = x.t.acc :=
  (x.finish_books o status c).acc.trans (Tile.clearToken_acc _ _ _ _ _)

@[simp] theorem TW.finish_muller : (x.finish o status c).t.muller = x.t.muller :=
  (x.finish_books o status c).muller.trans (Tile.clearToken_muller _ _ _ _ _)

@[simp] theorem TW.finish_mulToken : (x.finish o status c).t.mulToken = x.t.mulToken :=
  (x.finish_books o status c).mulToken.trans (Tile.clearToken_mulToken _ _ _ _ _)

end

end Sys2Proof.Machine
end

section
/-! SUPPORT. The start of the Muller queue's head (R172-R174, R178). -/

namespace Sys2Proof.Machine

/-- The tile as the head of the Muller queue finds it, from cycle `c` on. -/
def TW.mulFound (x : TW) (c : Nat) : TW :=
  let z := x.ports (max c x.t.cyc)
  z.forToken ((z.t.muller.head?.map (·.tw)).getD 0)

/-- What the head of the Muller queue does in its start cycle, by its kind and its descriptor. -/
def TW.mulBegin (y : TW) (o : QOp) (k : Nat) : TW :=
  match o.kind with
  | .mclr => y.mclrStart o k
  | .mstore =>
    if mstoreOk o.desc then
      (y.markMstore (o.who y.env.tile) o.desc).map fun t => { t.mulPop with
        mul := t.mul ++ [MulRun.start_ o k 0 0 0 (mstorePieces o.desc).length], cyc := max t.cyc k }
    else y.mulReject o k
  | _ => if mmacOk o.desc then y.mmacStart o k else y.mulReject o k

theorem TW.mullerStart_head {x : TW} {c k0 : Nat} {o : QOp} {l : List QOp} (hq : (x.mulFound c).t.muller = o :: l)
    (hs : (x.mulFound c).t.mulStartFrom o = some k0) :
    let k := max (max k0 c) (x.mulFound c).t.cyc
    x.mullerStart c = ((x.mulFound c).commitStores k).mulBegin o k := by
  unfold TW.mulFound at hq hs
  unfold TW.mullerStart TW.mulFound
  simp only [hq, hs]
  rfl

section
variable {y : TW} {o : QOp} (k : Nat)

theorem TW.mulBegin_mclr (h : o.kind = .mclr) : y.mulBegin o k = y.mclrStart o k := by
  unfold TW.mulBegin
  rw [h]

theorem TW.mulBegin_mmac (h : o.kind = .mmac) (hok : mmacOk o.desc = true) : y.mulBegin o k = y.mmacStart o k := by
  unfold TW.mulBegin
  rw [h]
  exact if_pos hok

theorem TW.mulBegin_mstore (h : o.kind = .mstore) (hok : mstoreOk o.desc = true) :
    y.mulBegin o k = (y.markMstore (o.who y.env.tile) o.desc).map fun t => { t.mulPop with
      mul := t.mul ++ [MulRun.start_ o k 0 0 0 (mstorePieces o.desc).length], cyc := max t.cyc k } := by
  unfold TW.mulBegin
  rw [h]
  exact if_pos hok

/-- R172, R174, R178: an invalid descriptor is rejected. -/
theorem TW.mulBegin_invalid (h : o.kind = .mmac ∧ mmacOk o.desc = false ∨ o.kind = .mstore ∧ mstoreOk o.desc = false) :
    y.mulBegin o k = y.mulReject o k := by
  unfold TW.mulBegin
  obtain ⟨hk, hbad⟩ | ⟨hk, hbad⟩ := h
  all_goals
    rw [hk]
    exact if_neg (by simp [hbad])

/-- R178: an MMAC that starts with no operation running, Pentimento off. -/
theorem TW.mmacStart_idle (hpen : y.t.pen = false) (hmul : y.t.mul = []) :
    y.mmacStart o k = y.map fun t => { t with
      muller := t.muller.tail, mul := [MulRun.start_ o k (k + t.markDelay (mmacMarks o.desc)) 0 t.mulToken 0], mulC := k,
      cyc := max t.cyc k } := by
  have hmarks : y.markMmac (o.who y.env.tile) o.desc = y := by simp [TW.markMmac, hpen]
  unfold TW.mmacStart
  simp only [hmarks, hmul, List.getLast?_nil, TW.map, Tile.mulPop, List.isEmpty_nil, if_true, List.nil_append]

/-- R178: an MSTORE that starts with no operation running, Pentimento off. -/
theorem TW.mstoreStart_idle (n : Nat) (hpen : y.t.pen = false) (hmul : y.t.mul = []) :
    ((y.markMstore (o.who y.env.tile) o.desc).map fun t => { t.mulPop with
      mul := t.mul ++ [MulRun.start_ o k 0 0 0 n], cyc := max t.cyc k }) = y.map fun t => { t with
        muller := t.muller.tail, mul := [MulRun.start_ o k 0 0 0 n], cyc := max t.cyc k } := by
  have hmarks : y.markMstore (o.who y.env.tile) o.desc = y := by simp [TW.markMstore, hpen]
  simp only [hmarks, TW.map, Tile.mulPop, hmul, List.nil_append]

end

/-- Settles O22: by kind and descriptor, the head of the queue begins, or it is rejected. -/
theorem mullerStarts : Obligations.MullerStarts := by
  intro s t p c k0 o l hp z x k y hq hs
  have hstart : (s.view p).mullerStart c = y.mulBegin o k := TW.mullerStart_head hq hs
  refine ⟨fun hk => ?mclr, fun hk hok hpen hmul => ?mmac, fun hk hok hpen hmul => ?mstore, fun hbad => ?invalid⟩
  case mclr => exact exec_mullerOperationStart hp (hstart.trans (TW.mulBegin_mclr k hk))
  case mmac =>
    exact exec_mullerOperationStart hp (hstart.trans ((TW.mulBegin_mmac k hk hok).trans (TW.mmacStart_idle k hpen hmul)))
  case mstore =>
    exact exec_mullerOperationStart hp
      (hstart.trans ((TW.mulBegin_mstore k hk hok).trans (TW.mstoreStart_idle k _ hpen hmul)))
  case invalid => exact exec_mullerOperationStart hp (hstart.trans (TW.mulBegin_invalid k hbad))

end Sys2Proof.Machine
end

section
/-! SUPPORT. The elements of the accumulator banks after MCLR and after an accumulation step (R165, R166, R169, R173). -/

namespace Sys2Proof.Machine

/-! Sparse maps: a choice among the keys, and a sweep that writes one key after the other. -/

/-- A read after entries are left out by their keys. -/
theorem SMap.getD_filter_key {α : Type} (m : SMap α) (f : Nat → Bool) (i : Nat) (d : α) :
    SMap.getD (m.filter fun q => f q.1) i d = if f i then SMap.getD m i d else d := by
  suffices h : SMap.find (m.filter fun q => f q.1) i = if f i then SMap.find m i else none by
    unfold SMap.getD
    rw [h]
    split <;> rfl
  induction m with
  | nil => exact (ite_self _).symm
  | cons q m ih =>
    obtain ⟨k, v⟩ := q
    by_cases hk : i = k
    · subst hk
      by_cases hf : f i = true <;> simp [hf, SMap.find, ih]
    · by_cases hf : f k = true <;> simp [hf, SMap.find, hk, ih]

section
variable {ι β α : Type} [DecidableEq α] {map : β → SMap α} {step : β → ι → β} {key : ι → Nat} {val : ι → α → α} {d : α}

/-- A step of a sweep replaces the value of one key by one made of the value there. -/
def SMap.Sweeps (map : β → SMap α) (step : β → ι → β) (key : ι → Nat) (val : ι → α → α) (d : α) : Prop :=
  ∀ b q, map (step b q) = SMap.put (map b) (key q) (val q (SMap.getD (map b) (key q) d)) d

theorem SMap.Sweeps.getD_other (h : SMap.Sweeps map step key val d) (l : List ι) (b : β) {e : Nat}
    (he : ∀ q ∈ l, e ≠ key q) : SMap.getD (map (l.foldl step b)) e d = SMap.getD (map b) e d := by
  induction l generalizing b with
  | nil => rfl
  | cons q l ih =>
    calc SMap.getD (map (l.foldl step (step b q))) e d
        = SMap.getD (map (step b q)) e d := ih _ fun r hr => he r (List.mem_cons_of_mem _ hr)
      _ = SMap.getD (map b) e d := by
        rw [h b q]
        exact SMap.getD_put_other _ _ _ _ _ _ (he q List.mem_cons_self)

/-- Each key of a sweep over different keys is written once, from what it read before the sweep. -/
theorem SMap.Sweeps.getD_key (h : SMap.Sweeps map step key val d) {l : List ι} (hl : l.Pairwise fun q r => key q ≠ key r)
    (b : β) (hs : SMap.sorted (map b) = true) {q : ι} (hq : q ∈ l) :
    SMap.getD (map (l.foldl step b)) (key q) d = val q (SMap.getD (map b) (key q) d) := by
  induction l generalizing b with
  | nil => exact absurd hq List.not_mem_nil
  | cons r l ih =>
    obtain ⟨hne, hl⟩ := List.pairwise_cons.mp hl
    have hput := h b r
    rcases List.mem_cons.mp hq with rfl | hq
    · calc SMap.getD (map (l.foldl step (step b q))) (key q) d
          = SMap.getD (map (step b q)) (key q) d := h.getD_other l _ hne
        _ = val q (SMap.getD (map b) (key q) d) := by
          rw [hput]
          exact SMap.getD_put_same _ _ _ _ hs
    · have hsorted : SMap.sorted (map (step b r)) = true := hput ▸ SMap.sorted_put _ _ _ _ hs
      rw [List.foldl_cons, ih hl (step b r) hsorted hq, hput, SMap.getD_put_other _ _ _ _ _ _ (hne q hq).symm]

end

/-! MCLR (R173). -/

/-- R173: one block is cleared in cycle `k`, of the MCLR `o`. -/
def TW.mclrBlock (o : QOp) (k : Nat) (y : TW) (b : Nat) : TW :=
  (y.penAcc k b (o.who y.env.tile)).map fun t => (t.clearBlock b).grant k (1000 + b) 2

theorem TW.mclrBlock_muller (o : QOp) (k : Nat) (y : TW) (b : Nat) : (y.mclrBlock o k b).t.muller = y.t.muller :=
  (y.penAcc_books k b _).muller

theorem TW.mclrBlock_acc (o : QOp) (k : Nat) (y : TW) (b : Nat) :
    (TW.mclrBlock o k y b).t.acc = y.t.acc.filter fun q => q.1 / 1024 ≠ b := by
  rw [← (y.penAcc_books k b (o.who y.env.tile)).acc]
  rfl

theorem TW.mclrBlocks_muller (o : QOp) (k : Nat) (bs : List Nat) (y : TW) :
    (bs.foldl (TW.mclrBlock o k) y).t.muller = y.t.muller := by
  induction bs generalizing y with
  | nil => rfl
  | cons b bs ih => exact (ih _).trans (TW.mclrBlock_muller o k y b)

theorem TW.mclrBlocks_acc (o : QOp) (k : Nat) (bs : List Nat) (y : TW) (i : Nat) :
    SMap.getD (bs.foldl (TW.mclrBlock o k) y).t.acc i 0 = if i / 1024 ∈ bs then 0#32 else SMap.getD y.t.acc i 0 := by
  induction bs generalizing y with
  | nil => rfl
  | cons b bs ih =>
    have hblock : SMap.getD (TW.mclrBlock o k y b).t.acc i 0 = if i / 1024 ≠ b then SMap.getD y.t.acc i 0 else 0 := by
      rw [TW.mclrBlock_acc, SMap.getD_filter_key y.t.acc (fun n => n / 1024 ≠ b)]
      simp only [decide_eq_true_eq]
    rw [List.foldl_cons, ih, hblock]
    by_cases hb : i / 1024 = b <;> simp [hb]

/-- The blocks of the parameter `m` among the eight. -/
theorem mem_selectedBlocks {m i : Nat} :
    i / 1024 ∈ (List.range 8).filter m.testBit ↔ i < 8192 ∧ m.testBit (i / 1024) = true := by
  rw [List.mem_filter, List.mem_range, Nat.div_lt_iff_lt_mul (by decide)]

section
variable (y : TW) (o : QOp) (k : Nat)

/-- MCLR: its blocks are cleared, and it leaves its queue and finishes. -/
theorem TW.mclrStart_eq : y.mclrStart o k =
    ((((List.range 8).filter o.parm.testBit).foldl (TW.mclrBlock o k) y).map fun t =>
      { t.mulPop with mulToken := k + 1, mulLast := (k + 1, 1, o.parm % 256), cyc := max t.cyc k }).finish o 0 (k + 1) := rfl

@[simp] theorem TW.mclrStart_mulToken : (y.mclrStart o k).t.mulToken = k + 1 := TW.finish_mulToken _ _ _ _

@[simp] theorem TW.mclrStart_muller : (y.mclrStart o k).t.muller = y.t.muller.tail := by
  rw [TW.mclrStart_eq, TW.finish_muller]
  exact congrArg List.tail (TW.mclrBlocks_muller o k _ y)

theorem TW.mclrStart_acc (i : Nat) : SMap.getD (y.mclrStart o k).t.acc i 0 =
    if i < 8192 ∧ o.parm.testBit (i / 1024) = true then 0#32 else SMap.getD y.t.acc i 0 := by
  rw [TW.mclrStart_eq, TW.finish_acc]
  exact (TW.mclrBlocks_acc o k _ y i).trans (ite_congr (propext mem_selectedBlocks) (fun _ => rfl) fun _ => rfl)

end

theorem blocksCleared : BlocksCleared := fun y o k i _ =>
  ⟨TW.mclrStart_mulToken y o k, TW.mclrStart_muller y o k, TW.mclrStart_acc y o k i⟩

/-! The accumulation step (R165, R166, R169). -/

/-- A row's group of A with its number, and a column's group of B with its number. -/
abbrev Crossing := (List FVal × Nat) × (List FVal × Nat)

/-- The crossings of the groups of A with the groups of B, row by row. -/
def crossings (as bs : List (List FVal)) : List Crossing := as.zipIdx.flatMap fun a => bs.zipIdx.map fun b => (a, b)

/-- The accumulator element of a crossing in block `blk`. -/
def Crossing.elem (blk : Nat) (q : Crossing) : Nat := 1024 * blk + 32 * q.1.2 + q.2.2

/-- The step of a crossing's element from the value `c` there. -/
def Crossing.out (zero : Bool) (es : List MulFault) (q : Crossing) (c : BitVec 32) : StepOut :=
  accStep (if zero then 0 else c.toNat) q.1.1 q.2.1 (wrongAt es q.1.2 q.2.2)

/-- The step of one element, into the accumulators and the counts. -/
def elemStep (blk : Nat) (zero : Bool) (es : List MulFault) (st : SMap (BitVec 32) × Nat × Nat) (q : Crossing) :
    SMap (BitVec 32) × Nat × Nat :=
  let o := q.out zero es (SMap.getD st.1 (q.elem blk) 0#32)
  (SMap.put st.1 (q.elem blk) (BitVec.ofNat 32 o.code) 0#32, st.2.1 + o.invalid.toNat, st.2.2 + o.ovf.toNat)

/-- A block's step is the step of each of its elements, row by row. -/
theorem blockStep_eq (acc : SMap (BitVec 32)) (blk : Nat) (zero : Bool) (as bs : List (List FVal)) (es : List MulFault) :
    blockStep acc blk zero as bs es = (crossings as bs).foldl (elemStep blk zero es) (acc, 0, 0) := by
  unfold crossings
  simp only [List.foldl_flatMap, List.foldl_map]
  rfl

theorem elemStep_sweeps (blk : Nat) (zero : Bool) (es : List MulFault) :
    SMap.Sweeps Prod.fst (elemStep blk zero es) (Crossing.elem blk) (fun q c => BitVec.ofNat 32 (q.out zero es c).code) 0#32 :=
  fun _ _ => rfl

theorem mem_crossings {as bs : List (List FVal)} {q : Crossing} :
    q ∈ crossings as bs ↔ q.1 ∈ as.zipIdx ∧ q.2 ∈ bs.zipIdx := by
  simp only [crossings, List.mem_flatMap, List.mem_map]
  constructor
  · rintro ⟨a, ha, b, hb, rfl⟩
    exact ⟨ha, hb⟩
  · rintro ⟨ha, hb⟩
    exact ⟨q.1, ha, q.2, hb, rfl⟩

/-- The numbers of a numbered list rise. -/
theorem zipIdx_rises {α : Type} (l : List α) : l.zipIdx.Pairwise fun a b => a.2 < b.2 := by
  rw [← List.pairwise_map (f := Prod.snd) (R := (· < ·)), List.zipIdx_map_snd]
  exact List.pairwise_lt_range'

section
variable {as bs : List (List FVal)} (ha : as.length = 32) (hb : bs.length = 32)
include hb

/-- The elements of the crossings, row by row, rise. -/
theorem crossings_rise (blk : Nat) : (crossings as bs).Pairwise fun q r => q.elem blk < r.elem blk := by
  refine List.pairwise_flatMap.mpr ⟨fun a _ => ?row, (zipIdx_rises as).imp fun {a a'} hrow q hq r hr => ?rows⟩
  case row =>
    refine List.pairwise_map.mpr ((zipIdx_rises bs).imp fun {b b'} hcol => ?_)
    exact Nat.add_lt_add_left hcol _
  case rows =>
    obtain ⟨b, hcol, rfl⟩ := List.mem_map.mp hq
    obtain ⟨b', -, rfl⟩ := List.mem_map.mp hr
    have hcol : b.2 < 32 := hb ▸ List.snd_lt_of_mem_zipIdx hcol
    simp only [Crossing.elem]
    omega

include ha

theorem crossing_inside {q : Crossing} (hq : q ∈ crossings as bs) : q.1.2 < 32 ∧ q.2.2 < 32 := by
  obtain ⟨hi, hj⟩ := mem_crossings.mp hq
  exact ⟨ha ▸ List.snd_lt_of_mem_zipIdx hi, hb ▸ List.snd_lt_of_mem_zipIdx hj⟩

theorem crossing_mem {i j : Nat} (hi : i < 32) (hj : j < 32) :
    ((as.getD i [], i), (bs.getD j [], j)) ∈ crossings as bs := by
  have hat {l : List (List FVal)} (hl : l.length = 32) {n : Nat} (hn : n < 32) : (l.getD n [], n) ∈ l.zipIdx := by
    rw [List.mk_mem_zipIdx_iff_getElem?, List.getD_eq_getElem?_getD, List.getElem?_eq_getElem (hl ▸ hn)]
    rfl
  exact mem_crossings.mpr ⟨hat ha hi, hat hb hj⟩

end

theorem stepOfEachElement : StepOfEachElement := by
  intro acc blk zero as bs es hs ha hb
  rw [blockStep_eq]
  refine ⟨fun i j hi hj => ?element, fun e he => ?other⟩
  case element =>
    exact (elemStep_sweeps blk zero es).getD_key ((crossings_rise hb blk).imp Nat.ne_of_lt) (acc, 0, 0) hs (crossing_mem ha hb hi hj)
  case other =>
    refine (elemStep_sweeps blk zero es).getD_other _ (acc, 0, 0) fun q hq => ?_
    obtain ⟨hi, hj⟩ := crossing_inside ha hb hq
    unfold Crossing.elem
    omega

/-- Settles O23: MCLR by its blocks, the accumulation step by its elements. -/
theorem mullerElements : Obligations.MullerElements := ⟨blocksCleared, stepOfEachElement⟩

end Sys2Proof.Machine
end

section
/-! SUPPORT. The advance of the Muller's running operation (R165, R176, R179-R182): a step that commits, a block that
completes, and the last pair of an MSTORE's pieces. -/

namespace Sys2Proof.Machine

/-! STEP_COMMIT (R165, R179). -/

/-- What a step in cycle `k` with the faults `es` leaves of its run (R179): the next chunk, or a block whose chunks have
all committed. -/
structure MulRun.Stepped (r : MulRun) (es : List MulFault) (k : Nat) (u : MulRun) : Prop where
  commitC : u.commitC = k
  errs : u.errs = r.errs ++ es
  last : r.chunk + 1 = mmacK r.op.desc → u.waitDone = true
  next : r.chunk + 1 ≠ mmacK r.op.desc → u.chunk = r.chunk + 1

theorem MulRun.stepped_ite {r u : MulRun} {es : List MulFault} {k : Nat} (hc : u.commitC = k) (he : u.errs = r.errs ++ es) :
    r.Stepped es k (if r.chunk + 1 = mmacK r.op.desc then { u with waitDone := true } else { u with chunk := r.chunk + 1 }) := by
  split
  · next h => exact ⟨hc, he, fun _ => rfl, fun hne => absurd h hne⟩
  · next h => exact ⟨hc, he, fun heq => absurd heq h, fun _ => rfl⟩

/-- R165, R179: a step that commits writes its block and advances its run; the rest is bookkeeping. -/
theorem TW.stepCommit_advances {x : TW} {r : MulRun} {l : List MulRun} {ch : Chunk} {q : List Chunk} (es : List MulFault)
    (hmul : (x.mulAhead 4096).t.mul = r :: l) (hkind : r.op.kind = .mmac) (hwait : r.waitDone = false)
    (hready : r.ready = ch :: q) :
    let d := r.op.desc
    let k := max (ch.firstC + mmacT d - 1 + (x.mulAhead 4096).t.mulD) (r.after + 1)
    let y := (x.mulAhead 4096).commitStores k
    (x.stepCommit es).t.cyc = max y.t.cyc k ∧
      (x.stepCommit es).t.acc = (blockStep y.t.acc (mmacFirst d + r.blk) (mmacZero d && decide (r.chunk = 0))
        (chunkValues ch.a (mmacA d) (mmacK d) (r.blk / mmacN d) r.chunk).1
        (chunkValues ch.b (mmacB d) (mmacK d) (r.blk % mmacN d) r.chunk).1 es).1 ∧
      ∃ u, (x.stepCommit es).t.mul = u :: y.t.mul.tail ∧ r.Stepped es k u := by
  generalize hz : x.stepCommit es = z
  unfold TW.stepCommit at hz
  -- what the ports and the elements' steps compute plays no part here
  generalize x.mulAhead 4096 = x at hmul hz ⊢
  generalize blockStep = step at hz ⊢
  extract_lets x' at hz
  have hmul : x'.t.mul = r :: l := hmul
  simp -zeta only [hmul, hkind, hwait, hready, ne_eq, not_true_eq_false, decide_false, Bool.or_self, Bool.false_eq_true,
    if_false] at hz
  extract_lets d blk k y zero written mk unmarked poisoned counted done nonfin r0 r1 r2 at hz
  have hbooks : written.t.Books done.t :=
    have hmark : written.t.Books unmarked.t := Tile.Books.ite (written.put_books _ _) (Tile.Books.refl _)
    have hcount := (hmark.trans (TW.count_books _ _ _ _)).trans (TW.count_books _ _ _ _)
    ((hcount.trans (poisoned.count_books _ _ _)).trans (counted.perf_books _ _)).trans (TW.perf_books _ _ _)
  intro d' k' y'
  have hk : k' = k := rfl
  have hy : y' = y := rfl
  -- the unifier must not look into what was granted before the step, nor into its counts
  clear_value k' y' k y done
  subst hz hk hy
  exact ⟨hbooks.cyc, hbooks.acc, r2, congrArg (r2 :: List.tail ·) hbooks.mul, MulRun.stepped_ite rfl rfl⟩

/-! BLOCK_COMPLETE (R179, R181-R183). -/

/-- The comparison of a run's block in its last cycle `k` (R182, R183). -/
def TW.compareBlock (y : TW) (r : MulRun) (k : Nat) : TW :=
  if r.nanSeen then y.count TF.MUL_CNT_CKSKIP.count (some 7) 1 else match ckResult r.errs with
    | some m => y.mismatch k (mmacFirst r.op.desc + r.blk) m
    | none => y

section
variable {x : TW} {r : MulRun} {l : List MulRun} (hmul : x.t.mul = r :: l) (hkind : r.op.kind = .mmac)
  (hwait : r.waitDone = true)
include hmul hkind hwait

/-- The last block of an MMAC: the run leaves, and its token clears. -/
theorem TW.blockComplete_last (hlast : r.blk + 1 = mmacM r.op.desc * mmacN r.op.desc) :
    let k := r.commitC + x.t.mulK
    let y := (x.commitStores k).map fun t => { t with cyc := max t.cyc k }
    x.blockComplete = ((y.compareBlock r k).map fun t => { t with
      mul := t.mul.tail, mulToken := k, mulLast := (k, 0, 2 ^ (mmacFirst r.op.desc + r.blk)) }).finish r.op
        (if r.viol then 3 else 0) k := by
  unfold TW.blockComplete
  simp only [hmul, hkind, hwait, hlast]
  rfl

/-- Another block: the run goes on with the next. -/
theorem TW.blockComplete_next (hnext : r.blk + 1 ≠ mmacM r.op.desc * mmacN r.op.desc) :
    let k := r.commitC + x.t.mulK
    let y := (x.commitStores k).map fun t => { t with cyc := max t.cyc k }
    x.blockComplete = (y.compareBlock r k).map fun t => { t with mul := t.mul.modifyHead fun r =>
      { r with blk := r.blk + 1, chunk := 0, waitDone := false, nanSeen := false, errs := [] } } := by
  unfold TW.blockComplete
  simp only [hmul, hkind, hwait, hnext]
  rfl

end

/-! MSTORE_PIECE (R176, R180). -/

section
variable {x : TW} {r : MulRun} {rw : RWord} {g : Nat}

/-- A piece of port P that has its bank is written, and what the other port wrote of later pieces is written again. -/
theorem TW.portPiece_granted {i : Nat} {q : Piece} (hi : i % 2 = 0) (hfree : x.t.claimed g (bankOf q.addr) 3 = false) :
    let w := (x.map fun t => (t.grant g (bankOf q.addr) 3).grant g (1000 + (r.op.desc.field 32 3 + q.blk)) 2).writePiece
      r rw q g
    x.portPiece r rw g i (some q) = (true, { w.1 with nextP := i + 2 }, w.2.rewrite g w.1 rw i q) := by
  unfold TW.portPiece
  simp only [hfree, hi, Bool.false_eq_true, if_false, if_true]

theorem TW.portPiece_none (i : Nat) : x.portPiece r rw g i none = (false, r, x) := rfl

/-- R176, R180: the port P writes an operation's last piece and leaves the run `u`, and port Q has no piece: the operation
leaves, and its token clears. -/
theorem TW.mstorePiece_last {y z : TW} {u : MulRun} {l : List MulRun} {q : Piece} {moved : Bool} (hmul : x.t.mul = r :: l)
    (hkind : r.op.kind = .mstore) (hrw : r.op.desc.rword 384 = some rw)
    (hg : (if r.commitC = 0 then x.t.storeFirst r.op.desc r.start else r.commitC + 1) = g)
    (hy : ((x.commitStores g).map fun t => { t with cyc := max t.cyc g }) = y)
    (hp : (mstorePieces r.op.desc)[r.nextP]? = some q) (hq : (mstorePieces r.op.desc)[r.nextQ]? = none)
    (hpiece : y.portPiece r rw g r.nextP (some q) = (moved, u, z)) (hnextP : (mstorePieces r.op.desc).length ≤ u.nextP)
    (hnextQ : (mstorePieces r.op.desc).length ≤ u.nextQ) (hport : g < z.t.mulC) :
    x.mstorePiece = (z.map fun t => { t with
      mul := t.mul.tail.modifyHead (fun m => { m with after := g + 1 }), mulToken := g + 1,
      mulLast := (g + 1, 2, 2 ^ (r.op.desc.field 32 3 + mstoreBlocks r.op.desc - 1)) }).finish r.op
        (if u.viol then 3 else 0) (g + 1) := by
  unfold TW.mstorePiece
  simp only [hmul, hkind, hrw, hg, hy, hp, hq, hpiece, TW.portPiece_none, Nat.not_le.mpr hport, hnextP, hnextQ, ne_eq,
    not_true_eq_false, decide_true, Bool.and_self, if_false, if_true]

end

/-- Settles O24: a step commits, a block completes, and an MSTORE's last pieces are written. -/
theorem mullerAdvances : Obligations.MullerAdvances := by
  intro s t p r l hp
  refine ⟨?step, ?block, ?piece⟩
  case step =>
    intro es ch q
    dsimp only
    intro hmul hkind hwait hready
    obtain ⟨hcyc, hacc, u, hmul, hu⟩ := TW.stepCommit_advances es hmul hkind hwait hready
    exact ⟨_, exec_stepCommit hp rfl, hcyc, hacc, u, hmul, hu.commitC, hu.errs, hu.last, hu.next⟩
  case block =>
    intro k y y' hmul hkind hwait
    exact ⟨fun hlast => exec_blockComplete hp (TW.blockComplete_last hmul hkind hwait hlast),
      fun hnext => exec_blockComplete hp (TW.blockComplete_next hmul hkind hwait hnext)⟩
  case piece =>
    intro rw q g y w z hmul hkind hrw heven hfirst hnone hlast hfree hport
    have hpiece : y.portPiece r rw g r.nextP (some q) = (true, { w.1 with nextP := r.nextP + 2 }, z) :=
      TW.portPiece_granted heven hfree
    have hnextQ : (mstorePieces r.op.desc).length ≤ w.1.nextQ := List.getElem?_eq_none_iff.mp hnone
    exact exec_mstorePiece hp
      (TW.mstorePiece_last (u := { w.1 with nextP := r.nextP + 2 }) hmul hkind hrw rfl rfl hfirst hnone hpiece hlast hnextQ hport)

end Sys2Proof.Machine
end

section
/-! SUPPORT. The start of the Glaze queue's head, and the check of its chain row (R211, R214). -/

namespace Sys2Proof.Machine

section
variable {s : State} {t : TileId} {p : Nat} (h : s.phys t.gid = some p)
include h

theorem exec_grunStart {c : Nat} {y : TW} (hf : (s.view p).grunStart c = y) :
    exec (.grunStart t c) s = .next (s.onTile p fun _ => y) := congrArg _ (State.runTile_served_eq h hf)

theorem exec_glazeBeat {y : TW} (hf : (s.view p).glazeBeat = y) :
    exec (.glazeBeat t) s = .next (s.onTile p fun _ => y) := congrArg _ (State.runTile_served_eq h hf)

end

theorem Tile.Books.glz {t u : Tile} (h : t.Books u) : u.glz = t.glz := by obtain ⟨_, _, _, rfl⟩ := h; rfl
theorem Tile.Books.pen {t u : Tile} (h : t.Books u) : u.pen = t.pen := by obtain ⟨_, _, _, rfl⟩ := h; rfl

/-- The tile as the head `o` of the Glaze queue finds it: a GRUN that may not overlap waits for those that run. -/
def TW.grunFound (x : TW) (o : QOp) : TW := if gOvl o.desc then x.forToken o.tw else (x.forToken o.tw).settled

/-- The head has left the queue in its start cycle `k`. -/
def TW.grunTaken (x : TW) (o : QOp) (k : Nat) : TW :=
  ((x.grunFound o).commitStores k).map fun t => { t with glaze := t.glaze.tail }

/-- A GRUN whose descriptor is valid runs, and its chain row has been read. -/
def TW.grunBegun (x : TW) (o : QOp) (k : Nat) : TW :=
  ((x.grunTaken o k).map fun t => { t with
    cyc := max t.cyc k, glzC := min t.glzC k,
    glz := t.glz ++ [GlzRun.start_ o k (k + t.markDelay (grunMarks o.desc))] }).glzChainAhead maxWait

section
variable {x : TW} {c k0 k : Nat} {o : QOp} {l : List QOp} (hq : x.t.glaze = o :: l)
  (hs : (x.grunFound o).t.glzStartFrom o = some k0) (hk : max (max k0 c) (x.grunFound o).t.cyc = k)
include hq hs hk

/-- R214: a descriptor that is invalid ends its GRUN in the start cycle. -/
theorem TW.grunStart_invalid (hbad : gDescCase o.desc ≠ 0) :
    x.grunStart c = (x.grunTaken o k).glzReject o (gDescCase o.desc) 0 k := by
  subst hk
  unfold TW.grunFound at hs
  unfold TW.grunStart TW.grunTaken TW.grunFound
  simp only [hq, hs, hbad, ne_eq, not_false_eq_true, if_true]

/-- R211: a valid descriptor starts its GRUN, whose chain row is then checked. -/
theorem TW.grunStart_valid {z : TW} {r : GlzRun} (hok : gDescCase o.desc = 0) (hz : x.grunBegun o k = z)
    (hr : z.t.glz.find? (fun q => q.op.id == o.id) = some r) : x.grunStart c = z.glzChecked r := by
  subst hk hz
  unfold TW.grunFound at hs
  unfold TW.grunBegun TW.grunTaken TW.grunFound at hr ⊢
  unfold TW.grunStart
  simp only [hq, hs, hok, ne_eq, not_true_eq_false, if_false, hr]

end

section
variable {z : TW} {r : GlzRun}

/-- The cycle in which a chain row is delivered. -/
def TW.chainCycle (z : TW) (r : GlzRun) : Nat := r.chainC.getD r.start + z.t.readLat (r.chainC.getD r.start)

/-- R214: a chain row that R116 refuses. -/
theorem TW.glzChecked_refused (hviol : r.chainViol = true) :
    z.glzChecked r = (z.ports (z.chainCycle r)).glzReject r.op 9 0 (z.chainCycle r) := by
  unfold TW.glzChecked
  exact if_pos hviol

/-- R214: a chain row with a stage at fault. -/
theorem TW.glzChecked_badStage {j : Nat} (hviol : r.chainViol = false) (hbad : chainBad r.op.desc r.chain = some j) :
    z.glzChecked r = (z.ports (z.chainCycle r)).glzReject r.op 5 j (z.chainCycle r) := by
  unfold TW.glzChecked
  simp only [hviol, hbad, Bool.false_eq_true, if_false]
  rfl

/-- R208, R211: a chain row that passes counts its poisoned constants; Pentimento, off, marks nothing. -/
theorem TW.glzChecked_passed (hviol : r.chainViol = false) (hbad : chainBad r.op.desc r.chain = none)
    (hpen : z.t.pen = false) : z.glzChecked r = z.count TF.GLZ_CNT_POISON.count (some 11) r.constPois := by
  have hpen : (z.count TF.GLZ_CNT_POISON.count (some 11) r.constPois).t.pen = false :=
    (z.count_books _ _ _).pen.trans hpen
  unfold TW.glzChecked TW.markGrun
  simp only [hviol, hbad, hpen, Bool.false_eq_true, if_false, Bool.not_false, if_true]

end

end Sys2Proof.Machine
end

section
/-! SUPPORT. A beat of a running GRUN (R209, R212): what its values leave of the tile's runs, and where it leaves its own. -/

namespace Sys2Proof.Machine

/-! The runs of a tile. -/

/-- The operations of the GRUNs that run. -/
def Tile.glzIds (t : Tile) : List Nat := t.glz.map (·.op.id)

theorem Tile.glzIds_congr {t u : Tile} (h : t.glz = u.glz) : t.glzIds = u.glzIds := by
  unfold Tile.glzIds
  rw [h]

theorem Tile.setGlz_glzIds (t : Tile) (r : GlzRun) : (t.setGlz r).glzIds = t.glzIds := by
  unfold Tile.glzIds Tile.setGlz
  rw [List.map_map]
  refine List.map_congr_left fun q _ => ?_
  dsimp only [Function.comp_apply]
  split
  · next h => exact h.symm
  · rfl

theorem Tile.eq_of_mem_setGlz {t : Tile} {r y : GlzRun} (hy : y ∈ (t.setGlz r).glz) (hid : y.op.id = r.op.id) : y = r := by
  obtain ⟨q, -, rfl⟩ := List.mem_map.mp hy
  split at hid
  · next h => exact if_pos h
  · next h => exact absurd hid h

section
variable (x : TW)

@[simp] theorem TW.count_glz (f : RF) (off : Option Nat) (n : Nat) : (x.count f off n).t.glz = x.t.glz :=
  (x.count_books f off n).glz

@[simp] theorem TW.perf_glz (code n : Nat) : (x.perf code n).t.glz = x.t.glz := (x.perf_books code n).glz

@[simp] theorem TW.penDone_glz (unit op : Nat) : (x.penDone unit op).t.glz = x.t.glz := (x.penDone_books unit op).glz

@[simp] theorem TW.glzPush_glz (r : GlzRun) (due cls a n v : Nat) (marks : List Bool)
    (watch : Option (Nat × Nat × Nat × Bool × Nat)) : (x.glzPush r due cls a n v marks watch).t.glz = x.t.glz := rfl

@[simp] theorem TW.glzMarks_glz : x.glzMarks.t.glz = x.t.glz := by
  refine List.foldlRecOn (motive := fun y : TW => y.t.glz = x.t.glz) _ _ rfl fun y hy r _ => ?_
  split
  · exact (y.penDone_glz _ _).trans hy
  · exact hy

/-- A violation marks its run, which stays where it is. -/
theorem TW.glzFail_glzIds (op : Nat) : (x.glzFail op).t.glzIds = x.t.glzIds := by
  have hlog (b : Bool) : (if b then x.glzErr 10 0 else x).t.glz = x.t.glz := by cases b <;> rfl
  unfold TW.glzFail Tile.glzIds
  dsimp only [TW.map]
  rw [hlog, List.map_map]
  refine List.map_congr_left fun q _ => ?_
  dsimp only [Function.comp_apply]
  split <;> rfl

/-! The writes that a beat requests. -/

@[simp] theorem TW.writeOut_glz (due cls : Nat) (r : GlzRun) (g : GStream) (rw : RWord) (tap e0 : Nat) (ls : List Lane) :
    (x.writeOut due cls r g rw tap e0 ls).t.glz = x.t.glz := by
  unfold TW.writeOut
  dsimp only
  split
  case isTrue =>
    refine List.foldlRecOn (motive := fun y : TW => y.t.glz = x.t.glz) _ _ rfl fun y hy k _ => ?_
    simpa using hy
  case isFalse => split <;> simp

@[simp] theorem TW.writeKb_glz (due : Nat) (r : GlzRun) (rw : RWord) (e0 h : Nat) (hPois : Bool) (ls : List Lane) :
    (x.writeKb due r rw e0 h hPois ls).2.t.glz = x.t.glz := by
  unfold TW.writeKb
  dsimp only
  split
  case isTrue => simp
  case isFalse => split <;> simp

@[simp] theorem TW.writeRecord_glz (due : Nat) (r : GlzRun) (rw : RWord) : (x.writeRecord due r rw).t.glz = x.t.glz := by
  unfold TW.writeRecord
  dsimp only
  rw [TW.glzPush_glz]
  split
  · exact x.count_glz _ _ _
  · rfl

@[simp] theorem TW.beatOut_glz (bc : BeatCycles) (r : GlzRun) (d : Row) (rw : RWord) (b : GlzBeat) (ls : List Lane) :
    (x.beatOut bc r d rw b ls).2.t.glz = x.t.glz := by
  unfold TW.beatOut
  split
  · rfl
  · split
    · exact x.writeKb_glz _ _ _ _ _ _ _
    · exact x.writeOut_glz _ _ _ _ _ _ _ _

@[simp] theorem TW.beatOut2_glz (bc : BeatCycles) (r : GlzRun) (d : Row) (rw : RWord) (b : GlzBeat) (ls : List Lane) :
    (x.beatOut2 bc r d rw b ls).t.glz = x.t.glz := by
  unfold TW.beatOut2
  split
  · rfl
  · exact x.writeOut_glz _ _ _ _ _ _ _ _

/-- A beat's counts keep the runs but for a violation, which marks its own. -/
theorem TW.beatCounts_glzIds (r : GlzRun) (d : Row) (rw : RWord) (b : GlzBeat) (ls : List Lane) :
    (x.beatCounts r d rw b ls).t.glzIds = x.t.glzIds := by
  unfold TW.beatCounts
  extract_lets skipped failed invalid ovf draws blocks
  have hcounts : (((ovf.perf 0x10 1).perf 0x11 b.n).perf 0x1A blocks).t.glzIds = failed.t.glzIds :=
    Tile.glzIds_congr (by simp only [TW.perf_glz, ovf, invalid, TW.count_glz])
  have hskipped : skipped.t.glzIds = x.t.glzIds := by
    refine Tile.glzIds_congr ?_
    dsimp only [skipped]
    split
    · split
      · exact x.count_glz _ _ _
      · rfl
    · exact x.count_glz _ _ _
  have hfailed : failed.t.glzIds = skipped.t.glzIds := by
    dsimp only [failed]
    split
    · exact skipped.glzFail_glzIds _
    · rfl
  exact hcounts.trans (hfailed.trans hskipped)

end

/-! Where a run stands. -/

/-- Where a run stands: its operation, the segment and beat in the lanes, the beats done, the beats read that have not
entered the lanes, and whether it has ended. -/
structure GlzPlace where
  op : QOp
  seg : Nat
  beat : Nat
  beats : Nat
  ready : List GlzRead
  ended : Bool

/-- Where `r` stands. -/
def GlzRun.place (r : GlzRun) : GlzPlace := ⟨r.op, r.seg, r.beat, r.beats, r.ready, r.ended⟩

/-- The place after a beat at element `e0` of descriptor `d` (R212, R213): a beat more, and ended with the last beat of the
last segment. -/
def GlzPlace.after (q : GlzPlace) (d : Row) (e0 : Nat) : GlzPlace :=
  { q with beats := q.beats + 1, ended := q.ended || (decide (gN d ≤ e0 + 64) && decide (gM d ≤ q.seg + 1)) }

section
variable (x : TW) (r : GlzRun)

/-- R204, R205: a reduction changes its run's sums and maximum only. -/
@[simp] theorem GlzRun.reduce_place (red : Nat) (terms : List (Nat × FVal × FVal)) (slots : List (Option (FVal × FVal))) :
    (r.reduce red terms slots).place = r.place := by
  unfold GlzRun.reduce
  extract_lets val sq
  split
  case h_6 =>
    -- a maximum's terms join one by one
    refine List.foldlRecOn (motive := fun q : GlzRun => q.place = r.place) _ _ rfl fun q hq t _ => ?_
    split
    · split <;> exact hq
    · split
      · exact hq
      · split <;> exact hq
  all_goals rfl

@[simp] theorem GlzRun.beatTree_place (d : Row) (ls : List Lane) : (r.beatTree d ls).place = r.place :=
  r.reduce_place _ _ _

@[simp] theorem TW.writeKb_place (due : Nat) (rw : RWord) (e0 h : Nat) (hPois : Bool) (ls : List Lane) :
    (x.writeKb due r rw e0 h hPois ls).1.place = r.place := by
  unfold TW.writeKb
  dsimp only
  split <;> rfl

@[simp] theorem TW.beatOut_place (bc : BeatCycles) (d : Row) (rw : RWord) (b : GlzBeat) (ls : List Lane) :
    (x.beatOut bc r d rw b ls).1.place = r.place := by
  unfold TW.beatOut
  split
  · rfl
  · split
    · exact x.writeKb_place r _ _ _ _ _ _
    · rfl

end

/-! The end of a beat. -/

/-- R212, R213: a beat ends by putting its run, advanced, in its operation's place. -/
theorem TW.beatEnd_glz (x : TW) (bc : BeatCycles) (r : GlzRun) (d : Row) (rw : RWord) (e0 : Nat) :
    ∃ u : GlzRun, (x.beatEnd bc r d rw e0).t.glz = (x.t.setGlz u).glz ∧ u.place = r.place.after d e0 := by
  unfold TW.beatEnd
  extract_lets last y r'
  have hy : y.t.glz = x.t.glz := by
    dsimp only [y]
    split
    · exact x.writeRecord_glz _ _ _
    · rfl
  have hset (u : GlzRun) : (y.t.setGlz u).glz = (x.t.setGlz u).glz := by
    dsimp only [Tile.setGlz]
    rw [hy]
  split
  case isTrue hmore =>
    have hmore : ¬gN d ≤ e0 + 64 := by simpa [last] using hmore
    exact ⟨r', hset r', by simp [GlzRun.place, GlzPlace.after, r', hmore]⟩
  case isFalse hlast =>
    have hlast : gN d ≤ e0 + 64 := by simpa [last] using hlast
    split
    case isTrue hseg =>
      have hseg : ¬gM d ≤ r.seg + 1 := Nat.not_le.mpr hseg
      exact ⟨_, hset _, by simp [GlzRun.place, GlzPlace.after, r', hseg]⟩
    case isFalse hseg =>
      have hseg : gM d ≤ r.seg + 1 := Nat.not_lt.mp hseg
      exact ⟨_, (TW.glzMarks_glz _).trans (hset _), by simp [GlzRun.place, GlzPlace.after, r', hlast, hseg]⟩

/-! A beat, from its read to its end. -/

/-- R212: a beat that has been read leaves every operation's run in its place, and its own where its read says. -/
theorem TW.beatRun_glz (x : TW) (r : GlzRun) (q : GlzRead) (d : Row) (rw : RWord) :
    ∃ u : GlzRun, (x.beatRun r q d rw).t.glzIds = x.t.glzIds ∧
      (∀ y ∈ (x.beatRun r q d rw).t.glz, y.op.id = u.op.id → y = u) ∧
      u.place = GlzPlace.after ⟨r.op, q.seg, q.beat, r.beats, r.ready.drop 1, r.ended⟩ d (64 * q.beat) := by
  unfold TW.beatRun
  extract_lets entered b ls counted valued bc out
  obtain ⟨u, hglz, hu⟩ := TW.beatEnd_glz (out.2.beatOut2 bc out.1 d rw b ls) bc (out.1.beatTree d ls) d rw b.e0
  have hout : (out.2.beatOut2 bc out.1 d rw b ls).t.glz = counted.t.glz := by simp [out]
  have hcounted : counted.t.glzIds = x.t.glzIds := TW.beatCounts_glzIds _ _ _ _ _ _
  have hvalued : (out.1.beatTree d ls).place = entered.place := by
    rw [GlzRun.beatTree_place, TW.beatOut_place]
    rfl
  refine ⟨u, ?ids, ?own, hu.trans ?place⟩
  case ids =>
    exact (Tile.glzIds_congr hglz).trans ((Tile.setGlz_glzIds _ _).trans ((Tile.glzIds_congr hout).trans hcounted))
  case own => exact fun y hy => Tile.eq_of_mem_setGlz (hglz ▸ hy)
  case place => exact congrArg (·.after d b.e0) hvalued

/-- GLAZE_BEAT: the oldest GRUN that has not ended takes the first beat that it has read. -/
theorem TW.glazeBeat_ready {x : TW} {r : GlzRun} {b : GlzRead} {q : List GlzRead} {rw : RWord}
    (hfind : (x.glzAhead maxWait).t.glz.find? (fun q => !q.ended) = some r) (hready : r.ready = b :: q)
    (hrw : r.op.desc.rword 384 = some rw) : x.glazeBeat = (x.glzAhead maxWait).beatRun r b r.op.desc rw := by
  unfold TW.glazeBeat
  simp only [hfind, hready, hrw]

end Sys2Proof.Machine
end

section
/-! The statement about GRUNs and their beats, settled. -/

namespace Sys2Proof.Machine

/-- Settles O25: a GRUN starts or is rejected by its checks, and a beat ends by advancing its run. -/
theorem glazeAdvances : Obligations.GlazeAdvances := by
  intro s t p c k0 o l hp
  refine ⟨?start, ?beat⟩
  case start =>
    intro x0 x k y hq hs
    refine ⟨fun hbad => exec_grunStart hp (TW.grunStart_invalid hq hs rfl hbad), ?valid⟩
    intro hok r z g hr
    have hz : (s.view p).grunBegun o k = z := rfl
    have hg : z.chainCycle r = g := rfl
    -- the unifier must not look into what the ports granted for the chain row
    clear_value z g
    have hstart : (s.view p).grunStart c = z.glzChecked r := TW.grunStart_valid hq hs rfl hok hz hr
    subst hg
    refine ⟨fun hviol hchain hpen => ?passed, fun hviol => ?refused, fun j hviol hchain => ?badStage⟩
    case passed => exact exec_grunStart hp (hstart.trans (TW.glzChecked_passed hviol hchain hpen))
    case refused => exact exec_grunStart hp (hstart.trans (TW.glzChecked_refused hviol))
    case badStage => exact exec_grunStart hp (hstart.trans (TW.glzChecked_badStage hviol hchain))
  case beat =>
    intro r b q rw x hfind hready hrw
    have hbeat : (s.view p).glazeBeat = x.beatRun r b r.op.desc rw := TW.glazeBeat_ready hfind hready hrw
    obtain ⟨u, hids, hown, hu⟩ := TW.beatRun_glz x r b r.op.desc rw
    have hgoing : r.ended = false := by simpa using List.find?_some hfind
    rw [hready, hgoing] at hu
    have hop : u.op = r.op := congrArg GlzPlace.op hu
    exact ⟨_, u, exec_glazeBeat hp hbeat, hids, fun y hy hid => hown y hy (hid.trans (congrArg QOp.id hop.symm)), hop,
      congrArg GlzPlace.seg hu, congrArg GlzPlace.beat hu, congrArg GlzPlace.beats hu, congrArg GlzPlace.ready hu,
      (congrArg GlzPlace.ended hu).trans (Bool.false_or _)⟩

end Sys2Proof.Machine
end

section
/-! SUPPORT. What the commands of the doorbell ring, of suspicions and margins, of the tile maps and of repair commits
come to in each of their cases (R229, R231, R233, R411, R415, R427, R429). -/

namespace Sys2Proof.Machine

/-! The commands and what each runs. -/

section
variable {s : State} {d : Fin 4}

theorem exec_errcDbaddrWrite (w : RingReg) (v : Word) (h : s.reached F.ERRC_DBADDR.addr.addr = true) :
    exec (.errcDbaddrWrite w v) s = .next (s.ringRegWrite w v) := congrArg _ (s.byHost_reached _ _ h)

theorem exec_suspectEvent (a : Nat) (h : s.easUp a = true) (hsafe : s.get F.MOD_EAS.safe = 0) :
    exec (.suspectEvent d a) s = .next (s.suspectEvent d a) := congrArg _ (if_pos (by simp [h, hsafe]))

theorem exec_suspicionExpiry (a : Nat) : exec (.suspicionExpiry d a) s = .next (s.suspicionExpiry d a) := rfl

theorem exec_repMarginWrite (v : Word) (h : s.reached (F.REP_MARGIN.vstep d).addr = true) :
    exec (.repMarginWrite d v) s = .next (s.marginWrite d (BitVec.allOnes 64) v) :=
  congrArg _ (s.byHost_reached _ _ h)

theorem exec_dieTmapNextWrite (r : Fin 48) (w : TimedWrite) (h : s.reached (tmapNextAddr d r) = true) :
    exec (.dieTmapNextWrite d r w) s = .next (s.tmapNextWrite d r (BitVec.allOnes 64) w.v w.cyc) :=
  congrArg _ (s.byHost_reached _ _ h)

theorem exec_repCommitGo (h : s.reached (F.REP_COMMIT.go d).addr = true) :
    exec (.repCommitGo d) s = .next (s.commitGo d) := congrArg _ (s.byHost_reached _ _ h)

theorem exec_fuseProgramComplete (good : Bool) :
    exec (.fuseProgramComplete d good) s = .next (s.fuseProgrammed d good).mirrorFuses := rfl

end

/-! The column that serves (R229). -/

section
variable {m l : Nat}

theorem mapServes_first (hv : (subAt m 0).v = true) (hl : (subAt m 0).log = l) : mapServes m l = (subAt m 0).phys :=
  if_pos (by simp [hv, hl])

/-- A map that the rules admit substitutes a logical column once. -/
theorem mapOk_log_ne (h : mapOk m = true) (h0 : (subAt m 0).v = true) (h1 : (subAt m 1).v = true) :
    (subAt m 0).log ≠ (subAt m 1).log := by
  simp only [mapOk, h0, h1, Bool.and_eq_true, Bool.or_eq_true, bne_iff_ne] at h
  obtain ⟨-, hboth⟩ := h
  simp only [Bool.and_self, Bool.not_true, Bool.false_eq_true, false_or] at hboth
  exact hboth.1

theorem mapServes_second (h : mapOk m = true) (hv : (subAt m 1).v = true) (hl : (subAt m 1).log = l) :
    mapServes m l = (subAt m 1).phys := by
  have h0 : ¬((subAt m 0).v && (subAt m 0).log == l) = true := by
    simp only [Bool.and_eq_true, beq_iff_eq, not_and]
    exact fun hv0 hl0 => mapOk_log_ne h hv0 hv (hl0.trans hl.symm)
  exact (if_neg h0).trans (if_pos (by simp [hv, hl]))

theorem mapServes_self (h0 : (subAt m 0).v = false ∨ (subAt m 0).log ≠ l)
    (h1 : (subAt m 1).v = false ∨ (subAt m 1).log ≠ l) : mapServes m l = l := by
  have hnot (k : Nat) (h : (subAt m k).v = false ∨ (subAt m k).log ≠ l) :
      ¬((subAt m k).v && (subAt m k).log == l) = true := by
    rcases h with h | h <;> simp [h]
  exact (if_neg (hnot 0 h0)).trans (if_neg (hnot 1 h1))

end

/-! Candidates for a row's map (R231, R233). -/

section
variable {s : State} {d r m cyc : Nat}

theorem State.stageMapAt_refused (h : mapOk m = false) :
    s.stageMapAt d r m cyc = s.put (F.DIE_TMAP_CTL.reject d) 1 := if_pos (by simp [h])

/-- In a row whose tiles no context holds, a map takes effect at once. -/
theorem State.stageMapAt_atOnce (h : mapOk m = true) (hr : s.rowHolds d r = none) :
    s.stageMapAt d r m cyc = s.applyMap d r m := by
  simp [State.stageMapAt, h, hr]

theorem State.stageMapAt_staged (h : mapOk m = true) (hr : (s.rowHolds d r).isSome = true) :
    let w := (s.setWord (tmapNextAddr d r) (BitVec.ofNat 64 m)).put (F.DIE_TMAP_CTL.pending d)
      (s.get (F.DIE_TMAP_CTL.pending d) ||| 2 ^ r)
    s.stageMapAt d r m cyc = { w with rep := { w.rep with tmapAt := SMap.put w.rep.tmapAt (48 * d + r) cyc 0 } } := by
  have hnone : ¬(s.rowHolds d r).isNone = true := by simpa [Option.isSome_iff_ne_none] using hr
  exact (if_neg (by simp [h])).trans (if_neg hnone)

theorem State.tmapNextWrite_locked (k v : Word) (h : s.locked 4 = true) :
    s.tmapNextWrite d r k v cyc = s.lockViolation := if_pos h

/-- A write of all 64 bits stages the map that it carries. -/
theorem State.tmapNextWrite_unlocked (v : Word) (h : s.locked 4 = false) :
    s.tmapNextWrite d r (BitVec.allOnes 64) v cyc = s.stageMapAt d r (v.toNat % 2 ^ 60) cyc := by
  have hmerge := mergeBits_allOnes (BitVec.ofNat 64 (s.mapNext d r)) v
  rw [mergeBits] at hmerge
  rw [State.tmapNextWrite, if_neg (Bool.eq_false_iff.mp h), hmerge]

end

/-! Suspicions and margin steps (R415). -/

/-- The oldest suspect event of a die that Easel firmware acts on. -/
def State.nextSuspect (s : State) (d : Nat) : Option (Nat × Nat × Nat) :=
  s.rep.suspects.find? fun q => q.1 == d && (s.get F.REP_POLICY.auto_margin == 1 || q.2.2 == 6)

def State.dropSuspect (s : State) (q : Nat × Nat × Nat) : State :=
  { s with rep := { s.rep with suspects := s.rep.suspects.erase q } }

section
variable {s : State} {d a : Nat} {q : Nat × Nat × Nat}

theorem State.suspectEvent_eq (s : State) (d a : Nat) : s.suspectEvent d a = match (s.reach a).nextSuspect d with
    | none => s.reach a
    | some q => (if q.2.2 = 6 then ((s.reach a).dropSuspect q).retire d (physRow q.2.1) (physCol q.2.1) true
        else ((s.reach a).dropSuspect q).takeSuspect q.2.1 a).showUnfused d := rfl

/-- A tile fault retires its tile provisionally. -/
theorem State.suspectEvent_fault (h : (s.reach a).nextSuspect d = some q) (hq : q.2.2 = 6) : s.suspectEvent d a =
    (((s.reach a).dropSuspect q).retire d (physRow q.2.1) (physCol q.2.1) true).showUnfused d := by
  rw [State.suspectEvent_eq, h]
  exact congrArg (State.showUnfused · d) (if_pos hq)

theorem State.suspectEvent_suspicion (h : (s.reach a).nextSuspect d = some q) (hq : q.2.2 ≠ 6) :
    s.suspectEvent d a = (((s.reach a).dropSuspect q).takeSuspect q.2.1 a).showUnfused d := by
  rw [State.suspectEvent_eq, h]
  exact congrArg (State.showUnfused · d) (if_neg hq)

/-- The first event of a tile opens its suspicion with a margin step. -/
theorem State.takeSuspect_opens {p : Nat} {w : State} (hf : s.inFlash (physDie p) (physRow p) (physCol p) = false)
    (hs : s.suspected p = false)
    (hw : ({ s with rep := { s.rep with susp := s.rep.susp ++ [(p, a + fcMs (1000 * s.get F.REP_POLICY.persist_s))] } } :
      State).marginStep (physDie p) = some w) : s.takeSuspect p a = w := by
  simp only [State.takeSuspect, hf, hs, hw, Bool.false_eq_true, if_false]

end

section
variable {s : State} {d : Nat} {v : Word}

theorem State.marginWrite_locked (m : Word) (h : s.locked 3 = true) : s.marginWrite d m v = s.lockViolation := if_pos h

/-- Each step takes its field of the written word, or stays when the field is above 4. -/
theorem State.marginWrite_unlocked (h : s.locked 3 = false) : s.marginWrite d (BitVec.allOnes 64) v =
    let u := if v.field 0 3 ≤ 4 then s.put (F.REP_MARGIN.vstep d) (v.field 0 3) else s
    (if v.field 4 3 ≤ 4 then u.put (F.REP_MARGIN.cstep d) (v.field 4 3) else u).setCeiling d := by
  have hmerge := mergeBits_allOnes (s.word (F.REP_MARGIN.vstep d).addr) v
  rw [mergeBits] at hmerge
  simp only [State.marginWrite, h, hmerge, Bool.false_eq_true, if_false]

theorem State.marginWrite_both (h : s.locked 3 = false) (hv : v.field 0 3 ≤ 4) (hc : v.field 4 3 ≤ 4) :
    s.marginWrite d (BitVec.allOnes 64) v =
      ((s.put (F.REP_MARGIN.vstep d) (v.field 0 3)).put (F.REP_MARGIN.cstep d) (v.field 4 3)).setCeiling d := by
  simp only [State.marginWrite_unlocked h, if_pos hv, if_pos hc]

theorem State.marginWrite_neither (h : s.locked 3 = false) (hv : 4 < v.field 0 3) (hc : 4 < v.field 4 3) :
    s.marginWrite d (BitVec.allOnes 64) v = s.setCeiling d := by
  simp only [State.marginWrite_unlocked h, if_neg (Nat.not_le.mpr hv), if_neg (Nat.not_le.mpr hc)]

end

/-! Repair commits (R429). -/

/-- The retirements of a die that a commit may fuse: those not provisional whose migration has ended. -/
def State.committable (s : State) (d : Nat) : List Retired :=
  (s.unfused d).filter fun x => !x.prov &&
    !(s.rep.migs.any fun y => y.die == d && y.row == x.row && y.p == x.col && y.purpose == 0)

section
variable {s : State} {d : Nat}

theorem State.commitGo_locked (h : s.locked 2 = true) : s.commitGo d = s.lockViolation := if_pos h

theorem State.commitGo_unlocked (h : s.locked 2 = false) : s.commitGo d =
    if s.get (F.REP_COMMIT.busy d) = 1 || (s.committable d).isEmpty || 8 ≤ s.get (F.REP_COMMIT.used d) then
      s.put (F.REP_COMMIT.reject d) 1
    else { s with rep := { s.rep with commit := SMap.put s.rep.commit d ((s.committable d).take 16) [] } }.put
      (F.REP_COMMIT.busy d) 1 := if_neg (Bool.eq_false_iff.mp h)

theorem State.commitGo_refused (h : s.locked 2 = false)
    (hno : s.get (F.REP_COMMIT.busy d) = 1 ∨ s.committable d = [] ∨ 8 ≤ s.get (F.REP_COMMIT.used d)) :
    s.commitGo d = s.put (F.REP_COMMIT.reject d) 1 :=
  (State.commitGo_unlocked h).trans (if_pos (by simpa [or_assoc] using hno))

theorem State.commitGo_starts (h : s.locked 2 = false) (hbusy : s.get (F.REP_COMMIT.busy d) = 0)
    (hl : s.committable d ≠ []) (hused : s.get (F.REP_COMMIT.used d) < 8) : s.commitGo d =
    { s with rep := { s.rep with commit := SMap.put s.rep.commit d ((s.committable d).take 16) [] } }.put
      (F.REP_COMMIT.busy d) 1 :=
  (State.commitGo_unlocked h).trans (if_neg (by simp [hbusy, hl, hused]))

/-- A slot that is programmed: it holds the commit's retirements and is used, and the commit is over. -/
def State.slotProgrammed (s : State) (d : Nat) (good : Bool) : State :=
  let l := SMap.getD s.rep.commit d []
  let k := s.get (F.REP_COMMIT.used d)
  let u := (List.range 3).foldl (fun s w =>
    s.put (F.REP_FUSE_E.entries d k w) (fuseWords l / 2 ^ (64 * w) % 2 ^ 64)) s
  let v := (((u.put (F.REP_FUSE_3.count d k) l.length).put (F.REP_FUSE_3.programmed d k) good.toNat).put
    (F.REP_COMMIT.used d) (k + 1)).put (F.REP_COMMIT.busy d) 0
  { v with rep := { v.rep with commit := SMap.put v.rep.commit d [] [] } }

/-- Retirements that read back well are fused, and leave the volatile list; a failure is kept and counted. -/
theorem State.fuseProgrammed_busy (good : Bool) (h : s.get (F.REP_COMMIT.busy d) = 1) :
    let z := s.slotProgrammed d good
    s.fuseProgrammed d good = State.showUnfused (if good then { z with rep := { z.rep with
      vol := z.rep.vol.filter fun x => !(SMap.getD s.rep.commit d []).contains x } }
      else (z.put (F.REP_COMMIT.fail d) 1).errc 6 1) d :=
  if_neg (by simp [h])

end

end Sys2Proof.Machine
end

section
/-! The statement about the doorbell ring's registers, suspicions, margins, tile maps and repair commits, settled. -/

namespace Sys2Proof.Machine

/-- Settles O51, by the lemma about each command in the case that its clause gives. -/
theorem mapsAndCommits : Obligations.MapsAndCommits := by
  intro s d a
  refine ⟨fun m l => ⟨mapServes_first, mapServes_second, mapServes_self⟩,
    fun v hs => ⟨exec_errcDbaddrWrite _ v hs, exec_errcDbaddrWrite _ v hs⟩,
    fun q hup hsafe => ?suspect, fun p w => State.takeSuspect_opens, exec_suspicionExpiry a,
    fun v hs => ?margin, fun r v cyc hs => ?map, fun hs => ?go, fun good hbusy => ?fuse⟩
  case suspect =>
    intro u hq
    rw [exec_suspectEvent a hup hsafe]
    exact ⟨fun h => congrArg _ (State.suspectEvent_fault hq h), fun h => congrArg _ (State.suspectEvent_suspicion hq h)⟩
  case margin =>
    rw [exec_repMarginWrite v hs]
    exact ⟨fun h => congrArg _ (State.marginWrite_locked _ h), fun h hv hc => congrArg _ (State.marginWrite_both h hv hc),
      fun h hv hc => congrArg _ (State.marginWrite_neither h hv hc)⟩
  case map =>
    rw [exec_dieTmapNextWrite r _ hs]
    refine ⟨fun h => congrArg _ (State.tmapNextWrite_locked _ v h), ?_⟩
    have hwrite (h : s.locked 4 = false) := s.tmapNextWrite_unlocked (d := d) (r := r) (cyc := cyc) v h
    exact ⟨fun h hm => congrArg _ ((hwrite h).trans (State.stageMapAt_refused hm)),
      fun h hm hr => congrArg _ ((hwrite h).trans (State.stageMapAt_atOnce hm hr)),
      fun h hm hr => congrArg _ ((hwrite h).trans (State.stageMapAt_staged hm hr))⟩
  case go =>
    rw [exec_repCommitGo hs]
    exact ⟨fun h => congrArg _ (State.commitGo_locked h), fun h hno => congrArg _ (State.commitGo_refused h hno),
      fun h hbusy hl hused => congrArg _ (State.commitGo_starts h hbusy hl hused)⟩
  case fuse =>
    rw [exec_fuseProgramComplete good]
    rw [State.fuseProgrammed_busy good hbusy]
    refine ⟨fun h => ?_, fun h => ?_⟩
    · rw [if_pos h]
      rfl
    · rw [if_neg (by simp [h])]
      rfl

end Sys2Proof.Machine
end

section
/-! SUPPORT. What the start of a stream transfer and a turn and the end of a started one come to in each of their cases
(R245-R248, R250, R251, R255). -/

namespace Sys2Proof.Machine

/-! The commands and what each runs. -/

section
variable {s : State} {t : TileId} {p : Nat} (hp : s.phys t.gid = some p)
include hp

theorem exec_transferStart (c : Nat) : exec (.transferStart t c) s = .next (s.transferStart p c) :=
  congrArg _ (State.withTile_served hp _)

theorem exec_transferComplete (k c l : Nat) (lat : List Nat) :
    exec (.transferComplete t k c l lat) s = .next (s.transferComplete p k c (lat ++ List.replicate 8 l)) :=
  congrArg _ (State.withTile_served hp _)

end

/-! The checks of a transfer (R245). -/

/-- Cases 2 to 4: the slot, its logical stack, its permission and its granules. -/
def Rgn.strFault (g : Rgn) (o : QOp) : Bool :=
  !g.active || decide (g.lstack ≠ o.parm) || !(if o.kind == .sload then g.rd else g.wr) || !strInside o.desc g

theorem Rgn.strFault_inactive {g : Rgn} {o : QOp} (h : g.active = false) : g.strFault o = true := by
  simp [Rgn.strFault, h]

theorem Rgn.strFault_eq_false {g : Rgn} {o : QOp} (hactive : g.active = true) (hstack : g.lstack = o.parm)
    (hperm : (if o.kind = .sload then g.rd else g.wr) = true) (hin : strInside o.desc g = true) : g.strFault o = false := by
  simp only [Rgn.strFault, hactive, hstack, hin, beq_iff_eq, hperm, ne_eq, not_true_eq_false, decide_false, Bool.not_true,
    Bool.or_self]

/-- Cases 1, 5 and 6: the descriptor alone. -/
def QOp.strFormed (o : QOp) : Bool := strZeros o.desc && strPalOk o.desc && !strOverlaps (o.kind == .sload) o.desc

/-- What a rejection counts: a fault of the region in a counter of its own. -/
def State.strInvalid (s : State) (d k : Nat) (region : Bool) : State :=
  let u := s.count (F.HBM_SE_CNT_INVAL.count d k) (dieErrc d 0x21) 1
  if region then u.count (F.HBM_SE_CNT_RGN.count d k) (dieErrc d 0x20) 1 else u

theorem State.strInvalid_region (s : State) (d k : Nat) : s.strInvalid d k true =
    (s.count (F.HBM_SE_CNT_INVAL.count d k) (dieErrc d 0x21) 1).count (F.HBM_SE_CNT_RGN.count d k) (dieErrc d 0x20) 1 := by
  simp only [State.strInvalid, if_true]

theorem State.strInvalid_other (s : State) (d k : Nat) : s.strInvalid d k false =
    s.count (F.HBM_SE_CNT_INVAL.count d k) (dieErrc d 0x21) 1 := by
  simp only [State.strInvalid, Bool.false_eq_true, if_false]

/-- The region that an operation of tile `p` names: a slot of the tile's own context. -/
def State.strRegion (s : State) (p : Nat) (o : QOp) : Rgn :=
  s.rgn (physDie p) ((s.tile p).get TF.TILE_SELF.context) (strRgn o.desc)

/-- The transfer of operation `o` of tile `p` begins in cycle `c` on engine `k`. -/
def State.strBegin (s : State) (p : Nat) (o : QOp) (k c : Nat) : State :=
  let ctx := (s.tile p).get TF.TILE_SELF.context
  let g := s.strRegion p o
  let u := s.onTileLow p fun x => (x.markStream o).map fun t => t.startStream o.id
  State.showTiles { u with hbm := { u.hbm with
    xfers := u.hbm.xfers ++ [Xfer.begin p o (physDie p) k ctx (strRgn o.desc) g.base g.count c] } } (physDie p) k

/-- The state in which an engine looks at a tile's next transfer: the tile has come to what its wait token waits for. -/
def State.streamNext (s : State) (p : Nat) : State :=
  s.onTileLow p fun x => x.forToken ((x.t.streamHead.map (·.tw)).getD 0)

/-- The engine takes `o` as the next transfer of tile `p` in cycle `c`: no other transfer and no Gesso holds it back. -/
structure State.StreamDue (s : State) (p : Nat) (o : QOp) (c : Nat) : Prop where
  head : (s.tile p).streamHead = some o
  awake : (s.tile p).gesso = false
  free : (s.tile p).mayStart o c = true
  settled : s.requestsOver p (physDie p) (s.stackOf (physDie p) o.parm) c = true

section
variable {s : State} {p c : Nat} {o : QOp}

/-- R245: what becomes of a transfer that the engine takes. -/
theorem State.transferStart_due (h : (s.streamNext p).StreamDue p o c) :
    let v := s.streamNext p
    let d := physDie p
    let k := v.stackOf d o.parm
    let g := v.strRegion p o
    s.transferStart p c = if o.strFormed = true ∧ g.strFault o = false ∧ v.engState d k = 1 then v.strBegin p o k c
      else (v.strInvalid d k (g.strFault o)).onTileLow p fun x => x.finish o 3 c := by
  obtain ⟨hhead, hawake, hfree, hsettled⟩ := h
  intro v d k g
  have hgo : ¬((v.tile p).gesso || !(v.tile p).mayStart o c || !v.requestsOver p d k c) = true := by
    simp [v, d, k, hawake, hfree, hsettled]
  have hbad : (!strZeros o.desc || (!g.active || decide (g.lstack ≠ o.parm)) ||
      !(if o.kind == .sload then g.rd else g.wr) || !strInside o.desc g || !strPalOk o.desc ||
      strOverlaps (o.kind == .sload) o.desc || decide (v.engState d k ≠ 1)) =
      !decide (o.strFormed = true ∧ g.strFault o = false ∧ v.engState d k = 1) := by
    simp only [QOp.strFormed, Rgn.strFault]
    grind
  unfold State.transferStart
  rw [show s.onTileLow p _ = v from rfl]
  dsimp only
  rw [show (v.tile p).streamHead = some o from hhead]
  dsimp only
  rw [if_neg hgo, show v.rgn _ _ _ = g from rfl, hbad]
  by_cases hok : o.strFormed = true ∧ g.strFault o = false ∧ v.engState d k = 1
  · rw [if_pos hok, if_neg (by simp [hok])]
    rfl
  · rw [if_neg hok, if_pos (by simp [hok])]
    rfl

/-- A transfer that passes every check starts. -/
theorem State.transferStart_begins (h : (s.streamNext p).StreamDue p o c) (hform : o.strFormed = true)
    (hrgn : ((s.streamNext p).strRegion p o).strFault o = false)
    (hon : (s.streamNext p).engState (physDie p) ((s.streamNext p).stackOf (physDie p) o.parm) = 1) :
    let v := s.streamNext p
    s.transferStart p c = v.strBegin p o (v.stackOf (physDie p) o.parm) c :=
  (State.transferStart_due h).trans (if_pos ⟨hform, hrgn, hon⟩)

/-- A transfer that its region refuses is rejected, whatever the other checks say. -/
theorem State.transferStart_region (h : (s.streamNext p).StreamDue p o c)
    (hrgn : ((s.streamNext p).strRegion p o).strFault o = true) :
    let v := s.streamNext p
    let d := physDie p
    let k := v.stackOf d o.parm
    s.transferStart p c = ((v.count (F.HBM_SE_CNT_INVAL.count d k) (dieErrc d 0x21) 1).count
      (F.HBM_SE_CNT_RGN.count d k) (dieErrc d 0x20) 1).onTileLow p fun x => x.finish o 3 c := by
  intro v d k
  rw [State.transferStart_due h, if_neg (by simp [hrgn]), hrgn, State.strInvalid_region]

/-- An engine that is not ON rejects a transfer that its region admits, and counts no fault of the region. -/
theorem State.transferStart_off (h : (s.streamNext p).StreamDue p o c)
    (hrgn : ((s.streamNext p).strRegion p o).strFault o = false)
    (hoff : (s.streamNext p).engState (physDie p) ((s.streamNext p).stackOf (physDie p) o.parm) ≠ 1) :
    let v := s.streamNext p
    let d := physDie p
    let k := v.stackOf d o.parm
    s.transferStart p c =
      (v.count (F.HBM_SE_CNT_INVAL.count d k) (dieErrc d 0x21) 1).onTileLow p fun x => x.finish o 3 c := by
  intro v d k
  rw [State.transferStart_due h, if_neg fun ⟨_, _, hon⟩ => hoff hon, hrgn, State.strInvalid_other]

end

/-! Turns and ends (R246, R250, R251, R255). -/

section
variable {s : State} {p k c : Nat} {x y : Xfer} {lat : List Nat}

theorem State.burst_le_turn (s : State) (x : Xfer) (c : Nat) : s.burst x c ≤ 8 :=
  Nat.le_trans (Nat.min_le_left _ _) (Nat.min_le_left _ _)

theorem State.burst_le_credits (s : State) (x : Xfer) (c : Nat) : s.burst x c ≤ 32 - (s.tile x.tile).edgeUsed c :=
  Nat.le_trans (Nat.min_le_right _ _) (Nat.min_le_left _ _)

/-- The state in which the engine has served transfer `x` up to cycle `c`, with its turn if the turn is `x`'s. -/
def State.served (s : State) (x : Xfer) (c : Nat) (lat : List Nat) : State :=
  (if s.turnOf x.die x.stack c = some x then s.takeTurn x c lat else s).engineTo x.die x.stack c

/-- A transfer of a context that has not been reset takes its turn, and ends when its rows have moved. -/
theorem State.transferComplete_live (hx : (s.hbm.xfers.filter fun x => x.tile == p)[k]? = some x)
    (hlive : x.dead = false) :
    let u := s.served x c lat
    s.transferComplete p k c lat = (u.hbm.xfers.find? fun y => y.names p x.op.id).elim u fun y =>
      if y.ended c then u.xferEnd y c else u := by
  have hturn : ((s.turnOf x.die x.stack c).elim s fun y => if y = x then s.takeTurn x c lat else s) =
      if s.turnOf x.die x.stack c = some x then s.takeTurn x c lat else s := by
    cases s.turnOf x.die x.stack c <;> simp
  simp only [State.transferComplete, hx, hlive, Bool.false_eq_true, if_false, hturn, State.served]
  split
  next hy => rw [hy, Option.elim_none]
  next y hy => rw [hy, Option.elim_some]

theorem State.transferComplete_unfinished (hx : (s.hbm.xfers.filter fun x => x.tile == p)[k]? = some x)
    (hlive : x.dead = false) (hy : ((s.served x c lat).hbm.xfers.find? fun y => y.names p x.op.id) = some y)
    (hmore : y.ended c = false) : s.transferComplete p k c lat = s.served x c lat := by
  rw [State.transferComplete_live hx hlive, hy]
  exact if_neg (by simp [hmore])

theorem State.transferComplete_ends (hx : (s.hbm.xfers.filter fun x => x.tile == p)[k]? = some x)
    (hlive : x.dead = false) (hy : ((s.served x c lat).hbm.xfers.find? fun y => y.names p x.op.id) = some y)
    (hend : y.ended c = true) : s.transferComplete p k c lat = (s.served x c lat).xferEnd y c := by
  rw [State.transferComplete_live hx hlive, hy]
  exact if_pos hend

/-- A transfer of a region that still stands ends in the cycle of its last row, which its latency records. -/
theorem State.xferEnd_unsignalled (hkept : y.revoked = false) (hsig : strSig y.op.desc = false) :
    let e := max y.last y.start
    let w := State.showTiles { s with hbm := { s.hbm with xfers := s.hbm.xfers.filter fun q => q != y } } y.die y.stack
    s.xferEnd y c = (w.hist (0x108080 + 0x100000 * y.die + 0x100 * y.stack + 0x40)
      (w.get (F.HST_CTL.s_xfer y.die)) (e - y.start)).onTileLow y.tile
        fun q => q.finish y.op (if y.bad then 3 else 0) e := by
  simp only [State.xferEnd, hkept, hsig, Bool.or_false, Bool.false_eq_true, if_false]

end

end Sys2Proof.Machine
end

section
/-! The statement about stream transfers, settled. -/

namespace Sys2Proof.Machine

/-- Settles O27, by the checks of a transfer that an engine takes, and by the turn and the end of a started one. -/
theorem streamTransfers : Obligations.StreamTransfers := by
  intro s t p c hp
  refine ⟨fun o => ?start, fun k l x y lat hx hlive => ⟨s.burst_le_turn x c, s.burst_le_credits x c, ?turn⟩⟩
  case start =>
    intro s' d hhead hawake hfree hsettled ctx g k
    rw [exec_transferStart hp]
    have hdue : (s.streamNext p).StreamDue p o c := ⟨hhead, hawake, hfree, hsettled⟩
    refine ⟨fun hzeros hactive hstack hperm hin hpal hapart => ?admitted,
      fun hgone => congrArg _ (State.transferStart_region hdue (Rgn.strFault_inactive hgone))⟩
    have hrgn : g.strFault o = false := Rgn.strFault_eq_false hactive hstack hperm hin
    have hform : o.strFormed = true := by simp [QOp.strFormed, hzeros, hpal, hapart]
    exact ⟨fun hon => congrArg _ (State.transferStart_begins hdue hform hrgn hon),
      fun hoff => congrArg _ (State.transferStart_off hdue hrgn hoff)⟩
  case turn =>
    rw [exec_transferComplete hp]
    exact ⟨fun hy hmore => congrArg _ (State.transferComplete_unfinished hx hlive hy hmore),
      fun hy hend hkept hsig => congrArg _
        ((State.transferComplete_ends hx hlive hy hend).trans (State.xferEnd_unsignalled hkept hsig))⟩

end Sys2Proof.Machine
end

section
/-! SUPPORT. What the commands of the stream engines' states and map, of the region slots and of scrub come to in each of
their cases (R241, R248, R249, R252-R254). -/

namespace Sys2Proof.Machine

/-! The commands and what each runs. -/

section
variable {s : State} {d : Fin 4}

theorem exec_hbmSeCtlEnable (k : Fin 6) (v : Bool) (h : s.reached (F.HBM_SE_CTL.enable d k).addr = true) :
    exec (.hbmSeCtlEnable d k v) s = .next (s.seEnable d k v.toNat) := congrArg _ (s.byHost_reached _ _ h)

theorem exec_engineDrainComplete (k : Fin 6) : exec (.engineDrainComplete d k) s = .next (s.drainComplete d k) := rfl

theorem exec_hbmSemapWrite (w : SemapWrite) (h : s.reached (F.HBM_SEMAP.phys d).addr = true) :
    exec (.hbmSemapWrite d w) s = .next (s.semapWrite d w.v.toNat w.fw) := congrArg _ (s.byHost_reached _ _ h)

theorem exec_stackLoss (k : Fin 6) (cyc : Nat) : exec (.stackLoss d k cyc) s = .next (s.stackLoss d k cyc) := rfl

theorem exec_regionAllocate (c k : Fin 64) (v : Word) (h : s.reached (F.HBM_RGN.valid d c k).addr = true) :
    exec (.regionAllocate d c k v) s = .next (s.regionAllocate d c k (setBit v 39)) := congrArg _ (s.byHost_reached _ _ h)

theorem exec_regionRelease (c k : Fin 64) (h : s.reached (F.HBM_RGN.valid d c k).addr = true) :
    exec (.regionRelease d c k) s = .next (s.regionRelease d c k) := congrArg _ (s.byHost_reached _ _ h)

theorem exec_granuleClean (p : Fin 6) (n : Nat) : exec (.granuleClean d p n) s = .next (s.granuleClean d p n) := rfl

end

/-! Engines and their map (R248, R249). -/

section
variable {s : State} {d k : Nat}

/-- The write of enable leaves the state that the transition reads. -/
theorem State.engState_put_enable (s : State) (d k v : Nat) :
    (s.put (F.HBM_SE_CTL.enable d k) v).engState d k = s.engState d k :=
  s.get_put_other _ _ _ (by dsimp only; omega)

/-- R248: the transitions that a write of enable makes. -/
theorem State.seEnable_eq (s : State) (d k : Nat) (v : Bool) :
    let u := s.put (F.HBM_SE_CTL.enable d k) v.toNat
    s.seEnable d k v.toNat =
      if v = true ∧ s.engState d k = 0 then u.put (F.HBM_SE_STATUS.state d k) 1
      else if v = false ∧ s.engState d k = 1 then u.put (F.HBM_SE_STATUS.state d k) 2
      else if v = true ∧ s.engState d k = 2 then u.put (F.HBM_SE_STATUS.state d k) 3
      else if v = false ∧ s.engState d k = 3 then u.put (F.HBM_SE_STATUS.state d k) 2
      else u := by
  simp only [State.seEnable, State.engState_put_enable]
  match v, s.engState d k with
  | true, 0 | true, 1 | true, 2 | true, 3 | true, _ + 4 => rfl
  | false, 0 | false, 1 | false, 2 | false, 3 | false, _ + 4 => rfl

theorem State.drainComplete_disabled (hidle : s.xfersOn d k = []) (h : s.engState d k = 2) :
    s.drainComplete d k = s.put (F.HBM_SE_STATUS.state d k) 0 := by
  simp [State.drainComplete, hidle, h]

theorem State.drainComplete_pending (hidle : s.xfersOn d k = []) (h : s.engState d k = 3) :
    s.drainComplete d k = s.put (F.HBM_SE_STATUS.state d k) 1 := by
  simp [State.drainComplete, hidle, h]

/-- R249: the engines of every entry that a map changes are OFF or FAILED. -/
theorem State.semapOk_iff (s : State) (d v : Nat) : s.semapOk d v = true ↔
    ∀ l : Nat, l < 6 → s.stackOf d l = v / 8 ^ l % 8 ∨ (v / 8 ^ l % 8 < 6 ∧
      (s.engState d (s.stackOf d l) = 0 ∨ s.engState d (s.stackOf d l) = 4) ∧
      (s.engState d (v / 8 ^ l % 8) = 0 ∨ s.engState d (v / 8 ^ l % 8) = 4)) := by
  simp [State.semapOk]

theorem State.semapWrite_eq (s : State) (d : Nat) (fw : Bool) (w : BitVec 18) : s.semapWrite d w.toNat fw =
    if fw = true ∧ s.semapOk d w.toNat = true then s.put (F.HBM_SEMAP.phys d) w.toNat
    else s.put (F.HBM_RGN_CTL.reject d) 1 := by
  simp [State.semapWrite, Nat.mod_eq_of_lt w.isLt]

/-- R248: the loss of a stack that no transfer uses and that serves no logical stack. -/
theorem State.stackLoss_idle (cyc : Nat) (hup : s.engState d k ≠ 4) (hidle : s.xfersOn d k = [])
    (hskb : d ≠ 0 ∨ k ≠ 0) (hx : ∀ q ∈ s.hbm.xfers, q.die ≠ d ∨ q.stack ≠ k)
    (hw : ∀ w ∈ s.hbm.accepts, w.die ≠ d ∨ w.stack ≠ k) :
    let u := (State.showTiles (s.put (F.HBM_SE_STATUS.state d k) 4) d k).loseSlots d
    (∀ l < 6, u.stackOf d l ≠ k) → s.stackLoss d k cyc = u.sendEvent 3 0 := by
  intro u hserves
  have hxfers : (s.hbm.xfers.filter fun q => !(q.die == d && q.stack == k)) = s.hbm.xfers :=
    List.filter_eq_self.mpr fun q hq => by
      simpa only [Bool.not_eq_true', Bool.and_eq_false_iff, beq_eq_false_iff_ne] using hx q hq
  have haccepts : (s.hbm.accepts.filter fun w => !(w.die == d && w.stack == k)) = s.hbm.accepts :=
    List.filter_eq_self.mpr fun w hq => by
      simpa only [Bool.not_eq_true', Bool.and_eq_false_iff, beq_eq_false_iff_ne] using hw w hq
  have hnone : (List.range 6).filter (fun l => u.stackOf d l == k) = [] := by simpa [u] using hserves
  have hput : (s.put (F.HBM_SE_STATUS.state d k) 4).xfersOn d k = [] := hidle
  have hskb : ¬(d = 0 ∧ k = 0) := by omega
  simp only [State.stackLoss, hup, if_false, hput, List.foldl_nil, State.put_hbm, hxfers, haccepts, Bool.and_eq_true,
    decide_eq_true_eq, hskb]
  change State.sendEvent (((List.range 6).filter fun l => u.stackOf d l == k).foldl _ u) 3 0 = _
  rw [hnone]
  rfl

end

/-! Candidates for a slot (R241, R253). -/

theorem Word.field_setBit (v : Word) {k lo w : Nat} (h : lo + w ≤ k ∨ k < lo) : (setBit v k).field lo w = v.field lo w := by
  refine congrArg BitVec.toNat (BitVec.eq_of_getLsbD_eq fun i hi => ?_)
  simp only [BitVec.getLsbD_extractLsb', hi, setBit, BitVec.getLsbD_or, BitVec.getLsbD_shiftLeft,
    BitVec.getLsbD_one]
  rcases h with h | h
  · simp [show lo + i < k by omega]
  · simp [show lo + i - k ≠ 0 by omega]

/-- R241 case 2: a slot that is not FREE holds granules of the candidate's on the same stack. -/
def State.granulesTaken (s : State) (d p base n : Nat) : Bool := (s.slotsOf d).any fun q =>
  let g := s.rgn d q.1 q.2
  g.state != 0 && g.stack == p && decide (g.base < base + n) && decide (base < g.base + g.count)

theorem State.granulesTaken_eq_false {s : State} {d p base n : Nat}
    (h : ∀ q ∈ s.slotsOf d, (s.rgn d q.1 q.2).state ≠ 0 → (s.rgn d q.1 q.2).stack = p →
      base + n ≤ (s.rgn d q.1 q.2).base ∨ (s.rgn d q.1 q.2).base + (s.rgn d q.1 q.2).count ≤ base) :
    s.granulesTaken d p base n = false := by
  simp only [State.granulesTaken, List.any_eq_false, Bool.and_eq_true, bne_iff_ne, beq_iff_eq, decide_eq_true_eq]
  rintro q hq ⟨⟨⟨hstate, hstack⟩, hlo⟩, hhi⟩
  have := h q hq hstate hstack
  omega

/-- R241: what becomes of a write of valid 1 with the fields of `v`. -/
theorem State.regionAllocate_eq (s : State) (d c k : Nat) (v : Word) :
    let base := v.field 0 15
    let n := v.field 16 16 + 1
    let p := s.stackOf d (v.field 32 3)
    s.regionAllocate d c k (setBit v 39) =
      if s.get (F.HBM_RGN.state d c k) ≠ 0 ∨ 30720 < base + n ∨ 5 < v.field 32 3 ∨ s.granulesTaken d p base n = true ∨
        s.engState d p = 4 then s.put (F.HBM_RGN_CTL.reject d) 1
      else (s.setWord (F.HBM_RGN.valid d c k).addr (setBit v 39 &&& 0x9FFFFF7FFF)).put (F.HBM_RGN.state d c k)
        (if ivMeets (s.dirty d p) base (base + n) then 2 else 1) := by
  simp only [State.regionAllocate, Word.field_setBit v (k := 39) (.inl (show 0 + 15 ≤ 39 by omega)),
    Word.field_setBit v (k := 39) (.inl (show 16 + 16 ≤ 39 by omega)),
    Word.field_setBit v (k := 39) (.inl (show 32 + 3 ≤ 39 by omega))]
  by_cases hfree : s.get (F.HBM_RGN.state d c k) = 0
  · simp only [hfree, ne_eq, not_true_eq_false, if_false, false_or, Bool.or_eq_true, decide_eq_true_eq, or_assoc]
    rfl
  · simp only [hfree, ne_eq, not_false_eq_true, if_true, true_or]

/-! Releases (R252). -/

section
variable {s : State} {d c k : Nat}

@[simp] theorem State.foldl_mapTile_hbm {β : Type} (l : List β) (s : State) (p : β → Nat) (f : β → Tile → Tile) :
    (l.foldl (fun s x => s.mapTile (p x) (f x)) s).hbm = s.hbm :=
  List.foldlRecOn (motive := fun u : State => u.hbm = s.hbm) l _ rfl fun _ hu _ _ => hu

/-- A transfer of a slot makes no further request once the slot is released. -/
theorem State.revoke_xfers (s : State) (d c k : Nat) : (s.revoke d c k).hbm.xfers = s.hbm.xfers.map fun (x : Xfer) =>
    if x.die == d && x.ctx == c && x.slot == k && !x.revoked then { x with revoked := true, asked := x.issued } else x :=
  congrArg HbmSt.xfers (State.foldl_mapTile_hbm _ _ Xfer.tile _)

theorem State.regionRelease_pending (h : s.get (F.HBM_RGN.state d c k) = 2) :
    s.regionRelease d c k = (s.put (F.HBM_RGN.state d c k) 0).put (F.HBM_RGN.valid d c k) 0 := by
  simp [State.regionRelease, State.rgn, h]

theorem State.regionRelease_active (h : s.get (F.HBM_RGN.state d c k) = 1) : s.regionRelease d c k =
    (((s.put (F.HBM_RGN.state d c k) 0).put (F.HBM_RGN.valid d c k) 0).revoke d c k).markDirty d (s.rgn d c k).stack
      (s.get (F.HBM_RGN.base d c k)) (s.get (F.HBM_RGN.base d c k) + (s.get (F.HBM_RGN.count_m1 d c k) + 1)) := by
  simp [State.regionRelease, State.rgn, h]

end

/-- R253: the granule under scrub becomes zero data and clean, and the lowest dirty one is next. -/
theorem State.granuleClean_cleans {s : State} {d p : Nat} (n : Nat) :
    let g := s.get (F.HBM_SCRUB.next d p)
    let l := ivDel (s.dirty d p) g (g + 1)
    s.engState d p ≠ 4 → ivMeets (s.dirty d p) g (g + 1) = true → s.granuleBusy d p g = false →
      s.granuleClean d p n = ((((s.hbmZero d p (g * 2 ^ 21) (2 ^ 21)).setDirty d p l).put
        (F.HBM_SCRUB.next d p) ((l.head?.map (·.1)).getD 0)).dieEvent d 0x46 n).activateSlots d := by
  intro g l hup hdirty hquiet
  have hgo : ¬(decide (s.engState d p = 4) || !ivMeets (s.dirty d p) g (g + 1) || s.granuleBusy d p g) = true := by
    simp [hup, hdirty, hquiet]
  exact if_neg hgo

end Sys2Proof.Machine
end

section
/-! The statement about the stream engines and the region slots, settled. -/

namespace Sys2Proof.Machine

theorem engineStates : EngineStates := by
  intro s d k v fw w cyc
  refine ⟨fun hs => (exec_hbmSeCtlEnable k v hs).trans (congrArg _ (s.seEnable_eq d k v)),
    fun hidle h => (exec_engineDrainComplete k).trans (congrArg _ (State.drainComplete_disabled hidle h)),
    fun hidle h => (exec_engineDrainComplete k).trans (congrArg _ (State.drainComplete_pending hidle h)),
    ?map, fun hup hidle hskb hx hw => ?loss⟩
  case map =>
    intro allowed hs
    have hallowed : allowed ↔ fw = true ∧ s.semapOk d w.toNat = true := and_congr_right' (s.semapOk_iff d w.toNat).symm
    rw [exec_hbmSemapWrite ⟨fw, w⟩ hs, s.semapWrite_eq]
    exact ⟨fun h => congrArg _ (if_pos (hallowed.mp h)), fun h => congrArg _ (if_neg fun hw => h (hallowed.mpr hw))⟩
  case loss =>
    intro u hserves
    exact (exec_stackLoss k cyc).trans (congrArg _ (State.stackLoss_idle cyc hup hidle hskb hx hw hserves))

theorem regionSlots : RegionSlots := by
  intro s d c k v p n _
  refine ⟨fun hs hfree hfit hl hup hapart => ?allocated, fun hs hheld => ?held, fun hs hout => ?outside,
    fun hs h => (exec_regionRelease c k hs).trans (congrArg _ (State.regionRelease_pending h)),
    fun hs h => ⟨State.revoke_xfers _ _ _ _,
      (exec_regionRelease c k hs).trans (congrArg _ (State.regionRelease_active h))⟩,
    fun hup hdirty hquiet => (exec_granuleClean p n).trans (congrArg _ (State.granuleClean_cleans n hup hdirty hquiet))⟩
  case allocated =>
    rw [exec_regionAllocate c k v hs, s.regionAllocate_eq]
    have hclear := State.granulesTaken_eq_false hapart
    exact congrArg _ (if_neg (by simp only [hclear, Bool.false_eq_true, false_or]; omega))
  case held =>
    rw [exec_regionAllocate c k v hs, s.regionAllocate_eq]
    exact congrArg _ (if_pos (.inl hheld))
  case outside =>
    rw [exec_regionAllocate c k v hs, s.regionAllocate_eq]
    exact congrArg _ (if_pos (by omega))

/-- Settles O28: the engines with their map, and the slots with their granules. -/
theorem streamEngines : Obligations.StreamEngines := ⟨engineStates, regionSlots⟩

end Sys2Proof.Machine
end

section
/-! SUPPORT. What a host access through the BAR2 aperture comes to within one window (R243, R482, R483). -/

namespace Sys2Proof.Machine

theorem exec_bar2Access {s : State} (vf : Option (Fin 64)) (z a : Nat) {acc : HostAccess} (h : acc.ok = true) :
    exec (.bar2Access vf z a acc) s = .next (s.bar2 (vf.map Fin.val) (2 ^ (30 + z)) a acc.size acc.data) := if_pos h

/-- The size of a window, of the PF's 16 or of a VF's 4. -/
def apWinSize (vf : Option Nat) (size : Nat) : Nat := if vf.isSome then 2 ^ 30 else size / 16

theorem apParts_inside {win a n : Nat} (h : a % win + n ≤ win) : apParts win a n = [(a, n)] := if_pos h

/-- The host's last answer is no part of what a window reads. -/
@[simp] theorem State.apWindow_answer (s : State) (v : Nat) (pois : Bool) (vf : Option Nat) (size a n : Nat) (write : Bool) :
    (s.answer v pois).apWindow vf size a n write = s.apWindow vf size a n write := by
  cases vf <;> rfl

/-- A write of `n` bytes of `v` at `a`, by where its window takes it. -/
def State.apWrite (s : State) (vf : Option Nat) (size a n v : Nat) : ApRef → State
  | .reach d p at_ => (s.hbmWrite d p at_ n (v % 256 ^ n)).apTear vf size a
  | .reject d => s.apReject d

/-- A read of `n` bytes, by where its window takes it: a rejected one reads as ones. -/
def State.apRead (s : State) (n : Nat) : ApRef → State
  | .reach d p at_ =>
    let r := s.hbmReadSegs d p (at_ / 16) (segsOf at_ n)
    ((s.answer (r.1 / 256 ^ (at_ % 16) % 256 ^ n) (r.2.1.any id)).hbmReadSegs d p (at_ / 16) (segsOf at_ n)).2.2
  | .reject d => (s.answer (256 ^ n - 1) false).apReject d

section
variable {s : State} {vf : Option Nat} {size a n : Nat} (hlive : ∀ c ∈ vf, s.get (F.HCTX_STATUS.state c) = 1)
  (hin : a % apWinSize vf size + n ≤ apWinSize vf size)
include hlive hin

/-- An access of a live function within one window is one part, which its window takes to the stack or rejects. -/
theorem State.bar2_inside (data : Option Nat) : s.bar2 vf size a n data =
    data.elim (s.apRead n (s.apWindow vf size a n false)) fun v => s.apWrite vf size a n v (s.apWindow vf size a n true) := by
  have hparts := apParts_inside hin
  rw [apWinSize] at hparts
  refine (if_neg ?live).trans ?_
  case live =>
    cases vf with
    | none => exact Bool.false_ne_true
    | some c => simp [hlive c rfl]
  simp only [State.bar2Data, hparts, List.foldl_cons, List.foldl_nil, Nat.sub_self, Nat.pow_zero, Nat.div_one, Nat.mul_one,
    Nat.zero_add, Bool.false_or]
  cases data with
  | none => cases h : s.apWindow vf size a n false <;> simp [State.apRead, h]
  | some v => cases h : s.apWindow vf size a n true <;> simp [State.apWrite, h]

end

end Sys2Proof.Machine
end

section
/-! The statement about the host's aperture, settled. -/

namespace Sys2Proof.Machine

/-- Settles O29: the access is one part, which its window takes to the stack or rejects. -/
theorem apertureAccess : Obligations.ApertureAccess := by
  intro s vf z a acc size win hok hactive hin
  have hlive : ∀ c ∈ vf.map Fin.val, s.get (F.HCTX_STATUS.state c) = 1 := by simpa using hactive
  have hin : a % apWinSize (vf.map Fin.val) size + acc.size ≤ apWinSize (vf.map Fin.val) size := by
    rw [apWinSize, Option.isSome_map]
    exact hin
  rw [exec_bar2Access vf z a hok]
  rw [State.bar2_inside hlive hin]
  cases hdata : acc.data with
  | none => exact ⟨fun d p at_ href => ⟨nofun, fun _ => congrArg _ (congrArg (s.apRead acc.size) href)⟩,
      fun d href => ⟨nofun, fun _ => congrArg _ (congrArg (s.apRead acc.size) href)⟩⟩
  | some v =>
    refine ⟨fun d p at_ href => ⟨fun w hw => ?_, nofun⟩, fun d href => ⟨fun _ => ?_, nofun⟩⟩
    · obtain rfl := Option.some.inj hw
      exact congrArg _ (congrArg (s.apWrite (vf.map Fin.val) size a acc.size v) href)
    · exact congrArg _ (congrArg (s.apWrite (vf.map Fin.val) size a acc.size v) href)

end Sys2Proof.Machine
end

section
/-! SUPPORT. What a write of a flow context's valid and the end of its drain come to in each of their cases (R278, R292). -/

namespace Sys2Proof.Machine

section
variable {s : State} {at_ c : Nat}

/-! The commands and what each runs. -/

theorem exec_flowEnable (i : Fin 16384) (v : Word) (h : s.reached (w0Addr i) = true) :
    exec (.flowEnable i v) s = .next (s.flowEnable i (setBit v 3)) := congrArg _ (s.byHost_reached _ _ h)

theorem exec_flowDrain (i : Fin 16384) (v : Word) (h : s.reached (w0Addr i) = true) :
    exec (.flowDrain i v at_ c) s = .next ((s.flowDrain i (clearBit v 3) at_ c).afterFlow at_ c) :=
  congrArg _ (s.byHost_reached _ _ h)

theorem exec_flowDrainComplete (i : Fin 16384) :
    exec (.flowDrainComplete i at_ c) s = .next ((s.flowDrained i at_ c).afterFlow at_ c) := rfl

variable {i : Nat} {w : Word}

/-! The fields of a flow context, as the fabric clock runs and as its state is written. -/

theorem offFab_flow (i : Nat) {a : Nat} (h1 : 0x1040000 ≤ a) (h2 : a < 0x1040020) :
    offFab (a + 0x80000 * flowDie i + 0x20 * flowIdx i) = true := by
  have hidx : flowIdx i < 8192 := Nat.mod_lt i (by decide)
  simp [offFab]
  omega

@[simp] theorem State.reach_flowState (n : Nat) : (s.reach n).flowState i = s.flowState i :=
  State.reach_get _ _ _ (offFab_flow i (by decide) (by decide))

@[simp] theorem State.reach_flowKind (n : Nat) : (s.reach n).flowKind i = s.flowKind i :=
  State.reach_get _ _ _ (offFab_flow i (by decide) (by decide))

@[simp] theorem State.reach_flowSends (n : Nat) : (s.reach n).flowSends i = s.flowSends i :=
  congrArg (· == 1) (State.reach_get _ _ (F.FAB_FLOW_W0.send _ _) (offFab_flow i (by decide) (by decide)))

@[simp] theorem State.reach_flowSent (n : Nat) : (s.reach n).flowSent i = s.flowSent i :=
  State.reach_get _ _ _ (offFab_flow i (by decide) (by decide))

@[simp] theorem State.reach_flowResolved (n : Nat) : (s.reach n).flowResolved i = s.flowResolved i :=
  State.reach_get _ _ _ (offFab_flow i (by decide) (by decide))

/-- A context that enters DRAINING. -/
def State.putDraining (s : State) (i : Nat) : State :=
  (s.put (F.FAB_FLOW_W0.state (flowDie i) (flowIdx i)) 2).put (F.FAB_FLOW_W0.valid (flowDie i) (flowIdx i)) 0

theorem State.putDraining_flowKind (hs : SMap.sorted s.regs = true) : (s.putDraining i).flowKind i = s.flowKind i :=
  (State.get_put_off _ _ _ _ (State.put_sorted _ _ hs) (by simp)).trans (State.get_put_off _ _ _ _ hs (by simp))

/-! Writes of valid 1 (R278, R292). -/

/-- The words of a context that enters ACTIVE as a stream flow, which has no field of W3. -/
def State.streamWords (s : State) (i : Nat) (w : Word) : State :=
  (((s.setWord (w0Addr i) ((w &&& w0Mask) ||| 0x9#64)).setWord (w0Addr i + 8) 0).setWord (w0Addr i + 16) 0).setWord
    (w0Addr i + 24) 0

/-- A stream flow as it enters ACTIVE. -/
def State.streamOpened (s : State) (i : Nat) (w : Word) : State :=
  ((s.streamWords i w).setFlow i { FlowSt.fresh with latch := (s.streamWords i w).roleEpoch (w.field 40 13) }).setRound i
    BldRound.fresh

theorem State.flowActivate_stream (hk : w.field 4 2 = 0) (hv : (s.streamOpened i w).vrnFlow i = none) :
    s.flowActivate i w = s.streamOpened i w := by
  have hw3 (v : Word) : v &&& w3Fields 0 = 0 := BitVec.and_zero
  have hcredit : ¬(((s.streamOpened i w).vrnFlow i).isSome && (s.streamOpened i w).flowRecvs i && 0 == 0) = true := by
    simp [hv]
  simp only [State.flowActivate, hw3, hk, Nat.zero_ne_one, if_false]
  exact if_neg hcredit

theorem State.flowEnable_free (hgood : s.flowBad i w = false) (hst : s.flowState i = 0) :
    s.flowEnable i w = s.flowActivate i w := by
  simp only [State.flowEnable, hst, hgood, Bool.false_eq_true, if_false]

theorem State.flowEnable_waits (hgood : s.flowBad i w = false) (hst : s.flowState i = 2) : s.flowEnable i w =
    (s.put (F.FAB_FLOW_W0.state (flowDie i) (flowIdx i)) 3).mapFlow i fun y => { y with held := some w } := by
  simp only [State.flowEnable, hst, hgood, Bool.false_eq_true, if_false]

/-- A write that R292 refuses, or of a context that is ACTIVE or waits already. -/
theorem State.flowEnable_rejects (h : s.flowBad i w = true ∨ s.flowState i = 1 ∨ s.flowState i = 3) :
    s.flowEnable i w = s.cfgReject (flowDie i) := by
  rcases h with hbad | hst | hst
  · simp only [State.flowEnable, hbad, if_true]
    split <;> rfl
  · simp only [State.flowEnable, hst]
  · simp only [State.flowEnable, hst]

/-! Writes of valid 0 (R278). -/

theorem State.failWaiting_idle (hw : (s.flow i).waiting = []) :
    s.failWaiting i at_ c = s.mapFlow i fun y => { y with waiting := [] } := by
  simp only [State.failWaiting, hw, List.foldl_nil]

/-- An ACTIVE stream flow that nothing waits on enters DRAINING. -/
theorem State.flowDrain_active (hwf : s.regsWf = true) (hst : s.flowState i = 1) (hw : (s.flow i).waiting = [])
    (hk : s.flowKind i = 0) : s.flowDrain i w at_ c =
      (((s.reach at_).mapFlow i fun y => { y with waiting := [] }).putDraining i).mapFlow i fun y =>
        { y with drainAt := at_ } := by
  have hfail := State.failWaiting_idle (s := s.reach at_) (at_ := at_) (c := c) hw
  have hkind : ((s.reach at_).mapFlow i fun y => { y with waiting := [] }).flowKind i = 0 := (State.reach_flowKind at_).trans hk
  have hdrain : (((s.reach at_).mapFlow i fun y => { y with waiting := [] }).putDraining i).flowKind i = 0 :=
    (State.putDraining_flowKind (State.sorted_of_regsWf (State.reach_wf at_ hwf))).trans hkind
  simp only [State.flowDrain, hst, State.flowDrainStart, hfail, hkind]
  exact if_neg fun h => absurd (hdrain.symm.trans h) (by decide)

theorem State.flowDrain_pending (hst : s.flowState i = 3) : s.flowDrain i w at_ c =
    (s.put (F.FAB_FLOW_W0.state (flowDie i) (flowIdx i)) 2).mapFlow i fun y => { y with held := none } := by
  simp only [State.flowDrain, hst]

theorem State.flowDrain_free (hst : s.flowState i = 0) :
    s.flowDrain i w at_ c = s.setWord (w0Addr i) (w &&& w0Mask &&& ~~~ 0x8#64) := by
  simp only [State.flowDrain, hst]

/-! The end of a drain (R278). -/

/-- A stream flow with nothing queued and, at a send end, every flit resolved is FREE. -/
theorem State.flowDrained_clean (hst : s.flowState i = 2) (hq : s.flowQueued i = false)
    (hres : s.flowSent i = s.flowResolved i ∨ s.flowSends i = false) :
    let u := (s.reach at_).settleFlow i at_ c
    u.flowKind i = 0 → s.flowDrained i at_ c =
      (((u.put (F.FAB_FLOW_W0.state (flowDie i) (flowIdx i)) 0).setWord (w0Addr i + 8) 0).setWord (w0Addr i + 16) 0).setFlow i
        FlowSt.fresh := by
  intro u hk
  have hquiet : (s.reach at_).flowQueued i = false := hq
  have hkind : ((s.reach at_).settleFlow i at_ c).flowKind i = 0 := hk
  obtain hresolved | hreceive := hres
  · simp [State.flowDrained, hst, hquiet, hresolved, hkind, u]
  · simp [State.flowDrained, hst, hquiet, hreceive, hkind, u]

end

end Sys2Proof.Machine
end

section
/-! The statement about the states of a flow context, settled. -/

namespace Sys2Proof.Machine

/-- Settles O31: each write, and the end of a drain, by the state of the context. -/
theorem flowStates : Obligations.FlowStates := by
  intro s i v a c hwf f k w
  refine ⟨fun hs hgood hst hk => ?opens, fun hs hgood hst => ?waits, fun hs h => ?rejects, fun hs hst hw hk => ?drains,
    fun hs hst => ?withdraws, fun hs hst => ?free, fun hst hq hres _ => ?completes⟩
  case opens =>
    intro u n hv
    rw [exec_flowEnable i v hs, State.flowEnable_free hgood hst]
    exact congrArg _ (State.flowActivate_stream hk hv)
  case waits => rw [exec_flowEnable i v hs, State.flowEnable_waits hgood hst]
  case rejects =>
    rw [exec_flowEnable i v hs, State.flowEnable_rejects h]
    rfl
  case drains =>
    rw [exec_flowDrain i v hs, State.flowDrain_active hwf hst hw hk]
    rfl
  case withdraws => rw [exec_flowDrain i v hs, State.flowDrain_pending hst]
  case free => rw [exec_flowDrain i v hs, State.flowDrain_free hst]
  case completes =>
    intro u hk
    rw [exec_flowDrainComplete, State.flowDrained_clean hst hq hres hk]

end Sys2Proof.Machine
end

section
/-! SUPPORT. What an FPUT or FSEND at its flow, and a block that a started FSEND passes, come to in each of their cases
(R279-R281, R301, R302). -/

namespace Sys2Proof.Machine

/-- In any map, a value that is listed reads back. -/
theorem SMap.getD_put_listed {α : Type} [DecidableEq α] (m : SMap α) (i : Nat) {v d : α} (h : v ≠ d) :
    SMap.getD (SMap.put m i v d) i d = v := by
  rw [SMap.put, if_neg h, SMap.getD, SMap.find_ins_same, Option.getD_some]

section
variable {s : State} {i at_ c p : Nat} {o : QOp}

/-! What waits on a flow. -/

/-- One job alone waits on the flow. -/
def State.waitsAlone (s : State) (i : Nat) (j : FlowJob) : State := s.mapFlow i fun w => { w with waiting := [j] }

/-- Nothing waits on the flow. -/
def State.waitsNone (s : State) (i : Nat) : State := s.mapFlow i fun w => { w with waiting := [] }

theorem State.waitsAlone_waiting (j : FlowJob) : ((s.waitsAlone i j).flow i).waiting = [j] := by
  have hne : ({ s.flow i with waiting := [j] } : FlowSt) ≠ FlowSt.fresh := fun h => by
    simpa [FlowSt.fresh] using congrArg FlowSt.waiting h
  exact congrArg FlowSt.waiting (SMap.getD_put_listed s.fab.flows i hne)

theorem State.mapFlow_joins (h : (s.flow i).waiting = []) (j : FlowJob) :
    (s.mapFlow i fun w => { w with waiting := w.waiting ++ [j] }) = s.waitsAlone i j := by
  simp only [State.mapFlow, State.waitsAlone, h, List.nil_append]

/-! The record of a bucket that a unit reads (R306). -/

theorem State.bldTouch_kept (s : State) (f seg : Nat) :
    (s.bldTouch f seg none).fab = s.fab ∧ (s.bldTouch f seg none).bld.rounds = s.bld.rounds := by
  unfold State.bldTouch
  dsimp only
  split
  · exact ⟨rfl, rfl⟩
  · split
    · exact ⟨by simp, by simp⟩
    · exact ⟨by simp [State.fresh64, State.bldPut], by simp [State.fresh64, State.bldPut]⟩

theorem State.recTouch_kept (s : State) (i : Nat) :
    (s.recTouch i).fab = s.fab ∧ (s.recTouch i).bld.rounds = s.bld.rounds :=
  List.foldlRecOn (motive := fun u : State => u.fab = s.fab ∧ u.bld.rounds = s.bld.rounds) _ _ ⟨rfl, rfl⟩
    fun u hu _ _ => ⟨(u.bldTouch_kept _ _).1.trans hu.1, (u.bldTouch_kept _ _).2.trans hu.2⟩

@[simp] theorem State.recTouch_flow (s : State) (j i : Nat) : (s.recTouch j).flow i = s.flow i :=
  congrArg (fun x : FabSt => SMap.getD x.flows i FlowSt.fresh) (s.recTouch_kept j).1

@[simp] theorem State.recTouch_round (s : State) (j i : Nat) : (s.recTouch j).round i = s.round i :=
  congrArg (fun m => SMap.getD m i BldRound.fresh) (s.recTouch_kept j).2

/-! The operation at its flow (R279, R280). -/

/-- The module in which the tile's next operation is taken. -/
def State.fabricNext (s : State) (p at_ : Nat) : State :=
  (s.reach at_).onTileLow p fun x => x.forToken (((x.t.fabric.find? fun o => !o.started).map (·.tw)).getD 0)

theorem exec_fabricOperationStart {t : TileId} (h : s.phys t.gid = some p) :
    exec (.fabricOperationStart t at_ c) s = .next (s.fabricStart p at_ c) := congrArg _ (State.withTile_served h _)

section
variable {u : State} (hu : s.fabricNext p at_ = u)
include hu

theorem State.fabricStart_refused (hnext : (u.tile p).fabric.find? (fun o => !o.started) = some o)
    (hlive : (u.tile p).gesso = false) (hwait : (u.tile p).mayStart o c = true) (hbad : u.fopRefused p o = true) :
    s.fabricStart p at_ c = u.fopReject p o at_ c := by
  rw [State.fabricNext] at hu
  simp [State.fabricStart, hu, hnext, hlive, hwait, hbad]

/-- One that passes the checks that hold for every flow goes by the kind of its flow. -/
theorem State.fabricStart_passes (h : u.Reaches p c o) : s.fabricStart p at_ c =
    if u.flowKind (fopFlow o.desc) = 1 then u.bucketOp p o at_ c else u.streamOp p o at_ c := by
  obtain ⟨hnext, hlive, hwait, hgood⟩ := h
  rw [State.fabricNext] at hu
  simp [State.fabricStart, hu, hnext, hlive, hwait, hgood]

end

/-! Stream flows (R281). -/

theorem State.serveWaiting_tile {l : List FlowJob} (h : (s.flow i).waiting = .tile p o :: l) (n : Nat) :
    s.serveWaiting i at_ c (n + 1) =
      if fopCont o.desc = true ∨ s.get (F.FAB_FLOW_W1.credits (flowDie i) (flowIdx i)) ≠ 0 then
        ((s.mapFlow i fun w => { w with waiting := l }).launch p o at_ c).serveWaiting i at_ c n
      else s := by
  simp [State.serveWaiting, h, Nat.pos_iff_ne_zero]

/-- An operation that nothing waits before takes its buffer, or waits for one. -/
theorem State.streamOp_alone (hz : fopZeros (o.kind == .fput) o.desc = true) (hw : (s.flow (fopFlow o.desc)).waiting = []) :
    let i := fopFlow o.desc
    let w := (s.fopStarted p o).waitsAlone i (.tile p o)
    s.streamOp p o at_ c =
      if fopCont o.desc = true ∨ s.get (F.FAB_FLOW_W1.credits (flowDie i) (flowIdx i)) ≠ 0 then
        ((w.waitsNone i).launch p o at_ c).serveWaiting i at_ c 64
      else w := by
  intro i w
  have hjob : (w.flow i).waiting = [.tile p o] := State.waitsAlone_waiting _
  have hjoin := State.mapFlow_joins (s := s.fopStarted p o) (i := i) hw (.tile p o)
  have hserve := State.serveWaiting_tile (at_ := at_) (c := c) hjob 64
  refine (if_neg (by simp [hz])).trans ?_
  exact (congrArg (fun u : State => u.serveWaiting i at_ c ((u.flow i).waiting.length + 64)) hjoin).trans
    ((congrArg (fun l : List FlowJob => w.serveWaiting i at_ c (l.length + 64)) hjob).trans hserve)

/-! Bucket flows (R301, R302). -/

/-- The FSEND waits on its bucket. -/
def State.bucketWaits (s : State) (p : Nat) (o : QOp) : State :=
  ((s.fopStarted p o).recTouch (fopFlow o.desc)).waitsAlone (fopFlow o.desc) (.tile p o)

theorem State.bucketOp_alone (hz : fsdZeros o.desc = true) (hw : (s.flow (fopFlow o.desc)).waiting = []) :
    s.bucketOp p o at_ c = (s.bucketWaits p o).startFsend (fopFlow o.desc) at_ c 1 := by
  have hjob : ((s.bucketWaits p o).flow (fopFlow o.desc)).waiting = [.tile p o] := State.waitsAlone_waiting _
  have hjoin := State.mapFlow_joins (s := (s.fopStarted p o).recTouch (fopFlow o.desc)) (i := fopFlow o.desc)
    (by rw [State.recTouch_flow]; exact hw) (.tile p o)
  refine (if_neg (by simp [hz])).trans ?_
  exact (congrArg (fun u : State => u.startFsend (fopFlow o.desc) at_ c (u.flow (fopFlow o.desc)).waiting.length) hjoin).trans
    (congrArg (fun l : List FlowJob => (s.bucketWaits p o).startFsend (fopFlow o.desc) at_ c l.length) hjob)

theorem State.bucketWaits_round (j : Nat) : (s.bucketWaits p o).round j = s.round j := State.recTouch_round _ _ _

section
variable (n : Nat)

theorem State.startFsend_busy (h : (s.round i).sends ≠ []) : s.startFsend i at_ c (n + 1) = s :=
  if_pos (by simpa using h)

variable {l : List FlowJob} (hidle : (s.round i).sends = []) (hw : (s.flow i).waiting = .tile p o :: l)
include hidle hw

theorem State.startFsend_rejects (hbad : (s.mapFlow i fun w => { w with waiting := l }).fsendBad o i = true) :
    s.startFsend i at_ c (n + 1) =
      ((s.mapFlow i fun w => { w with waiting := l }).fopReject p o at_ c).startFsend i at_ c n := by
  simp [State.startFsend, hidle, hw, hbad]

/-- In a round under way. -/
theorem State.startFsend_starts (hgood : (s.mapFlow i fun w => { w with waiting := l }).fsendBad o i = false)
    (hbegun : (s.round i).begun = true) (hfull : fsdEmpty o.desc = false) : s.startFsend i at_ c (n + 1) =
      (s.mapFlow i fun w => { w with waiting := l }).mapRound i fun r => { r with
        lastBlk := some (fsdFirst o.desc + fsdCount o.desc - 1), nsent := r.nsent + fsdCount o.desc, ended := fsdEnd o.desc,
        sends := [BldSend.mk p o at_ 0 false] } := by
  simp [State.startFsend, hidle, hw, hgood, hbegun, hfull]

end

/-- A round that an FSEND with end has closed takes no FSEND. -/
theorem State.fsendBad_of_ended (h : (s.round i).ended = true) : s.fsendBad o i = true := by simp [State.fsendBad, h]

end

/-! Blocks of a started FSEND (R302, R309). -/

/-- The header of the next block of FSEND `g`, and the module that has read it. -/
def State.sendHdr (s : State) (j : Nat) (g : BldSend) (c : Nat) : Bytes × State :=
  (s.recTouch j).edgeRead g.tile c (g.op.who ((s.recTouch j).flowTile j))
    ((s.recTouch j).hdrAt j ((s.recTouch j).parity j) (fsdFirst g.op.desc + g.passed)) 2

/-- The block, and the module that has read it. -/
def State.sendBlk (s : State) (j : Nat) (g : BldSend) (c : Nat) : Bytes × State :=
  (s.sendHdr j g c).2.edgeRead g.tile c (g.op.who ((s.recTouch j).flowTile j)) (fopSrc g.op.desc + 768 * g.passed) 768

theorem exec_bucketBlockPass {s : State} (j : Fin 16384) (at_ c : Nat) :
    exec (.bucketBlockPass j at_ c) s = .next (s.blockPass j at_ c) := rfl

theorem State.blockPass_passes {s u : State} {j at_ c : Nat} {g : BldSend} {l : List BldSend} (hu : s.reach at_ = u)
    (hsends : (u.round j).sends = g :: l) (hwin : fsdFirst g.op.desc + g.passed < u.frontier j + u.window j)
    (hslot : u.slotBusy j (fsdFirst g.op.desc + g.passed) = false) (hphase : (u.tile g.tile).phase c = false)
    (hlast : g.passed + 1 ≠ fsdCount g.op.desc) : s.blockPass j at_ c =
      (((u.sendBlk j g c).2.mapRound j fun r => { r with sends := { g with
        passed := g.passed + 1, viol := g.viol || (u.sendHdr j g c).1.viol || (u.sendBlk j g c).1.viol } :: l }).addBlock j 0
        (fsdFirst g.op.desc + g.passed) ((u.sendHdr j g c).1.v % 256) ((u.sendHdr j g c).1.v / 256 % 2 == 1)
        ((u.sendHdr j g c).1.v / 256 / 2 % 2 == 1) (blockOf false (u.sendBlk j g c).1.v)) := by
  have hgo : ¬(decide (u.frontier j + u.window j ≤ fsdFirst g.op.desc + g.passed) ||
      u.slotBusy j (fsdFirst g.op.desc + g.passed) || (u.tile g.tile).phase c) = true := by
    simp [hslot, hphase, hwin]
  rcases hh : u.sendHdr j g c with ⟨h, v⟩
  rcases hd : u.sendBlk j g c with ⟨d, w⟩
  simp only [State.sendBlk, hh] at hd
  simp only [State.sendHdr] at hh
  simp only [State.blockPass, hu, hsends]
  refine (if_neg hgo).trans ?_
  simp only [hh, hd, hlast, if_false]

end Sys2Proof.Machine
end

section
/-! The statement about an FPUT or FSEND at its flow, settled. -/

namespace Sys2Proof.Machine

/-- Settles O32: by the flow's kind and what the flow or the round holds, the operation takes a buffer, waits, starts or is
rejected, and a started one passes a block. -/
theorem flowOperations : Obligations.FlowOperations := by
  intro s t p a c o hserved u i n
  rw [exec_fabricOperationStart hserved]
  refine ⟨fun h hk hz hw => ?stream, fun h hk hz hw => ?bucket, fun h hk hz hw => ?starts,
    fun hnext hlive hwait hbad => congrArg _ (State.fabricStart_refused rfl hnext hlive hwait hbad), fun j g l => ?pass⟩
  case stream =>
    have hstream : s.fabricStart p a c = u.streamOp p o a c :=
      (State.fabricStart_passes rfl h).trans (if_neg fun hb => absurd (hk.symm.trans hb) (by decide))
    rw [hstream, State.streamOp_alone hz hw]
    exact ⟨fun hfree => congrArg _ (if_pos hfree),
      fun hcont hnone => congrArg _ (if_neg (not_or.mpr ⟨by simp [hcont], not_not_intro hnone⟩))⟩
  case bucket =>
    have hbucket : s.fabricStart p a c = u.bucketOp p o a c := (State.fabricStart_passes rfl h).trans (if_pos hk)
    rw [hbucket, State.bucketOp_alone hz hw]
    intro w w'
    refine ⟨fun hbusy => congrArg _ (State.startFsend_busy _ ?_), fun hidle hended => congrArg _ ?_⟩
    · rwa [State.bucketWaits_round]
    · rw [← State.bucketWaits_round] at hidle hended
      exact State.startFsend_rejects 0 hidle (State.waitsAlone_waiting _) (State.fsendBad_of_ended hended)
  case starts =>
    have hbucket : s.fabricStart p a c = u.bucketOp p o a c := (State.fabricStart_passes rfl h).trans (if_pos hk)
    rw [hbucket, State.bucketOp_alone hz hw]
    intro w hidle _ hbegun hgood hfull
    rw [← State.bucketWaits_round] at hidle hbegun
    exact congrArg _ (State.startFsend_starts 0 hidle (State.waitsAlone_waiting _) hgood hbegun hfull)
  case pass =>
    intro r v b who h d hsends hwin hslot hphase hlast
    rw [exec_bucketBlockPass, State.blockPass_passes (u := r) rfl hsends hwin hslot hphase hlast]
    simp only [State.sendBlk, State.sendHdr, d, h, who, b, v]

end Sys2Proof.Machine
end

section
/-! SUPPORT. What the flits of a stream flow, its ACK timer and its timeout come to in each of their cases (R281-R283,
R343). -/

namespace Sys2Proof.Machine

/-! A flit that a unit takes out of the inbox, and what a taken flit does. -/

section
variable {s w : State} {x : Flit} {at_ c : Nat}

theorem exec_credit_of_pop (h : (s.pop fun x => x.kind == 3) = some (x, w)) :
    exec (.credit at_ c) s = .next ((w.reach at_).creditFlitIn x at_ c) := by
  show Host.Outcome.next (s.credit at_ c) = _
  rw [State.credit, h]

theorem exec_write_of_pop (h : (s.pop fun x => x.kind == 1 && !s.edgeFull x c) = some (x, w)) :
    exec (.write at_ c) s = .next ((w.reach at_).writeFlit x at_ c) := by
  show Host.Outcome.next (s.write at_ c) = _
  rw [State.write, h]

theorem State.backEpoch_none (h : x.epoch = s.flowEpoch x.flow) : s.backEpoch x = none := if_neg (not_not_intro h)

theorem exec_ack_of_pop (h : (s.pop fun x => x.kind == 4) = some (x, w))
    (he : x.epoch = (w.reach at_).flowEpoch x.flow) (hst : (w.reach at_).flowState x.flow ≠ 0) :
    exec (.ack at_ c) s = .next ((State.settleFlow
      (if reached (x.f 68 24) ((w.reach at_).flowResolved x.flow) = true then
        (w.reach at_).put (F.FAB_FLOW_W2.resolved (flowDie x.flow) (flowIdx x.flow)) (x.f 68 24) else w.reach at_)
      x.flow at_ c).afterFlow at_ c) := by
  show Host.Outcome.next ((s.ack at_ c).afterFlow at_ c) = _
  simp only [State.ack, h, State.backEpoch_none he, hst, if_false]

theorem exec_nack_of_pop (h : (s.pop fun x => x.kind == 5) = some (x, w))
    (he : x.epoch = (w.reach at_).flowEpoch x.flow) :
    exec (.nack at_ c) s = .next (((w.reach at_).nackIn x).afterFlow at_ c) := by
  show Host.Outcome.next ((s.nack at_).afterFlow at_ c) = _
  simp only [State.nack, h, State.backEpoch_none he]

end

/-! Credits (R281). -/

section
variable {s : State} {i : Nat}

theorem State.serveWaiting_idle (h : (s.flow i).waiting = []) (at_ c n : Nat) : s.serveWaiting i at_ c n = s := by
  cases n with
  | zero => rfl
  | succ n => simp only [State.serveWaiting, h]

@[simp] theorem State.put_flow (f : RF) (v : Nat) : (s.put f v).flow i = s.flow i := rfl

theorem State.flowActive_of_state (h : s.flowState i = 1) : s.flowActive i = true := by simp [State.flowActive, h]

/-- The credits that a flow holds. -/
def State.flowCredits (s : State) (i : Nat) : Nat := s.get (F.FAB_FLOW_W1.credits (flowDie i) (flowIdx i))

variable {x : Flit} {at_ c : Nat}

/-- The window that a CREDIT names becomes the flow's. -/
def State.openWindow (s : State) (x : Flit) : State :=
  let f := flowDie x.flow
  let k := flowIdx x.flow
  ((((s.put (F.FAB_FLOW_W1.next_buf f k) (x.f 83 6)).put (F.FAB_FLOW_W1.nbuf_m1 f k) (x.f 101 6)).put
    (F.FAB_FLOW_W1.buf_rows_m1 f k) (x.f 89 12)).put (F.FAB_FLOW_W1.win_base f k) (x.bytes 0 2)).mapFlow x.flow
      fun w => { w with rtile := x.f 68 13 }

/-- The flow holds no buffer of a window. -/
def State.windowEmpty (s : State) (i : Nat) : Bool :=
  s.flowCredits i == 0 && s.get (F.FAB_FLOW_W1.cur_v (flowDie i) (flowIdx i)) == 0

/-- A CREDIT names the window that the flow holds, from the buffer after those it holds. -/
def State.windowSame (s : State) (x : Flit) : Bool :=
  let f := flowDie x.flow
  let k := flowIdx x.flow
  s.get (F.FAB_FLOW_W1.nbuf_m1 f k) == x.f 101 6 && s.get (F.FAB_FLOW_W1.buf_rows_m1 f k) == x.f 89 12 &&
    s.get (F.FAB_FLOW_W1.win_base f k) == x.bytes 0 2 &&
    (s.get (F.FAB_FLOW_W1.next_buf f k) + s.flowCredits x.flow) % (x.f 101 6 + 1) == x.f 83 6

/-- The credits of a flow. -/
def State.setCredits (s : State) (i n : Nat) : State := s.put (F.FAB_FLOW_W1.credits (flowDie i) (flowIdx i)) n

section
variable (hst : s.flowState x.flow = 1) (hsend : s.flowSends x.flow = true) (he : x.epoch = s.flowEpoch x.flow)
  (hfit : s.flowCredits x.flow + x.bytes 2 1 ≤ 64)
include hst hsend he hfit

theorem State.creditFlitIn_fits (h : s.windowEmpty x.flow = true ∨ s.windowSame x = true)
    (hw : ((if s.windowEmpty x.flow = true then s.openWindow x else s).flow x.flow).waiting = []) :
    s.creditFlitIn x at_ c = (if s.windowEmpty x.flow = true then s.openWindow x else s).setCredits x.flow
      (s.flowCredits x.flow + x.bytes 2 1) := by
  have hgo : ¬(!s.windowEmpty x.flow && !s.windowSame x) = true := by
    rcases h with h | h <;> simp [h]
  unfold State.creditFlitIn
  dsimp only
  rw [if_neg (by simp [State.flowActive_of_state hst, hsend]), if_neg (not_not_intro he)]
  refine (if_neg hgo).trans ?_
  have hmin : min 64 (s.get (F.FAB_FLOW_W1.credits (flowDie x.flow) (flowIdx x.flow)) + x.bytes 2 1) = _ := Nat.min_eq_right hfit
  have hlt := Nat.not_lt.mpr hfit
  rw [hmin]
  refine (congrArg (fun u : State => u.serveWaiting x.flow at_ c ((u.flow x.flow).waiting.length + 64)) (if_neg hlt)).trans ?_
  exact State.serveWaiting_idle (s := State.setCredits _ _ _) hw at_ c _

/-- A window is granted to a flow that holds nothing. -/
theorem State.creditFlitIn_opens (h0 : s.flowCredits x.flow = 0)
    (hv : s.get (F.FAB_FLOW_W1.cur_v (flowDie x.flow) (flowIdx x.flow)) = 0)
    (hw : ((s.openWindow x).flow x.flow).waiting = []) :
    s.creditFlitIn x at_ c = (s.openWindow x).setCredits x.flow (x.bytes 2 1) := by
  have hempty : s.windowEmpty x.flow = true := by simp [State.windowEmpty, h0, hv]
  rw [State.creditFlitIn_fits hst hsend he hfit (.inl hempty) (by rwa [if_pos hempty]), if_pos hempty, h0, Nat.zero_add]

/-- More buffers of the window that it holds. -/
theorem State.creditFlitIn_adds (h0 : s.flowCredits x.flow ≠ 0) (hsame : s.windowSame x = true)
    (hw : (s.flow x.flow).waiting = []) :
    s.creditFlitIn x at_ c = s.setCredits x.flow (s.flowCredits x.flow + x.bytes 2 1) := by
  have hheld : ¬s.windowEmpty x.flow = true := by simp [State.windowEmpty, h0]
  rw [State.creditFlitIn_fits hst hsend he hfit (.inr hsame) (by rwa [if_neg hheld]), if_neg hheld]

end

end

/-! WRITEs (R282, R343). -/

section
variable {s : State} {x : Flit} {at_ c p : Nat}

/-- A WRITE of an ACTIVE receive end's epoch, whose tile has not changed its role, meets its tile. -/
theorem State.writeFlit_meets (hst : s.flowState x.flow = 1) (hrecv : s.flowRecvs x.flow = true)
    (he : x.epoch = s.flowEpoch x.flow) (hvrn : s.vrnFlow x.flow = none)
    (hrole : x.f 68 13 = s.flowTile x.flow → (s.flow x.flow).latch = s.roleEpoch (x.f 68 13))
    (hp : s.phys (x.f 68 13) = some p) : s.writeFlit x at_ c =
      if s.atEdge p c = true then s.hold p c (.write x) else s.writeTile p x at_ c := by
  have hact := State.flowActive_of_state hst
  have hkept : ¬(x.f 68 13 = s.flowTile x.flow ∧ (s.flow x.flow).latch ≠ s.roleEpoch (x.f 68 13)) :=
    fun h => h.2 (hrole h.1)
  simp only [State.writeFlit]
  rw [if_neg (by simp [hact, hrecv]), if_neg (not_not_intro he)]
  simp only [hvrn, hp]
  exact if_neg (by simpa using hkept)

/-- What the edge port of tile `p` makes of a WRITE. -/
def State.edgeTakes (s : State) (p c : Nat) (x : Flit) : RxOutcome × TW :=
  ((s.toDie (physDie p) x.flow x.vc).view p).rxWrite c x.flow x.epoch (16 * x.f 81 17) (16 * (x.f 98 3 + 1))
    (x.bytes 0 (16 * (x.f 98 3 + 1))) ((List.range (x.f 98 3 + 1)).map fun k => (x.f 101 8).testBit k)

/-- The module after it. -/
def State.edgeTook (s : State) (p c : Nat) (x : Flit) : State :=
  (s.toDie (physDie p) x.flow x.vc).onTile p fun _ => (s.edgeTakes p c x).2


/-- A WRITE that its tile has answered is resolved, or refused with a cause. -/
def State.edgeAnswered (s : State) (x : Flit) (at_ : Nat) : RxOutcome → State
  | .accepted => s.resolveAt x at_
  | .noCredit => s.writeRefuse x 1 at_
  | .epoch => (s.epochIn x).writeRefuse x 2 at_
  | .violation => s.writeRefuse x 3 at_
  | .gesso => s

theorem State.writeTile_eq (s : State) (p c : Nat) (x : Flit) (at_ : Nat) :
    s.writeTile p x at_ c = (s.edgeTook p c x).edgeAnswered x at_ (s.edgeTakes p c x).1 := by
  have htook := State.onTile_congr (s.toDie (physDie p) x.flow x.vc) p (fun _ => (s.edgeTakes p c x).2)
    (fun y => (y.rxWrite c x.flow x.epoch (16 * x.f 81 17) (16 * (x.f 98 3 + 1)) (x.bytes 0 (16 * (x.f 98 3 + 1)))
      ((List.range (x.f 98 3 + 1)).map fun k => (x.f 101 8).testBit k)).2) rfl
  rw [State.edgeTook, htook]
  rfl

end

/-! ACKs, NACKs and timers (R282, R283). -/

section
variable {s : State} {x : Flit} {i at_ c : Nat}

/-- A register of a fabric die below its flows' is no field of one. -/
theorem State.count_flow_kept {g : RF} (j n : Nat) (hg : g.addr < 0x1040000 + 0x80000 * flowDie i) :
    (s.count g j n).flowState i = s.flowState i ∧ (s.count g j n).flowKind i = s.flowKind i :=
  ⟨State.count_get _ _ _ _ _ (by simp only; omega), State.count_get _ _ _ _ _ (by simp only; omega)⟩

theorem State.nackCount_kept (cause : Nat) :
    (s.nackCount (flowDie i) cause).flowState i = s.flowState i ∧
      (s.nackCount (flowDie i) cause).flowKind i = s.flowKind i := by
  unfold State.nackCount
  split <;> exact State.count_flow_kept _ _ (by simp only; omega)

/-- A NACK marks the first operation whose destination holds its address. -/
theorem State.nackIn_marks (hst : s.flowState x.flow ≠ 0) (hk : s.flowKind x.flow ≠ 2) :
    s.nackIn x = (s.nackCount (flowDie x.flow) (x.f 98 4)).mapFlow x.flow fun w =>
      { w with ops := markNack (x.f 68 13) (16 * x.f 81 17) w.ops } := by
  obtain ⟨hstate, hkind⟩ := s.nackCount_kept (i := x.flow) (x.f 98 4)
  rw [← hstate] at hst
  rw [← hkind] at hk
  simp only [State.nackIn, State.nackMark, hst, hk, if_false]

theorem State.nackCount_other {f cause : Nat} (h : 2 < cause) :
    s.nackCount f cause = s.count (F.FAB_CNT_NACK.count f) (fabErrc f 0xC) 1 := by
  unfold State.nackCount
  split
  · omega
  · omega
  · rfl

theorem State.ackTimer_reports {b : Nat} (h : (s.flow i).oldest = some b) (hb : b + 2500 ≤ at_) :
    s.ackTimer i at_ = ((s.reach at_).mapFlow i fun w => { w with unrep := 0, oldest := none }).inject (flowDie i)
      ((s.reach at_).ackFlit i ((s.reach at_).flowResolved i)) := by
  have hold : ((s.reach at_).flow i).oldest = some b := h
  simp only [State.ackTimer, hold]
  exact if_neg (Nat.not_lt.mpr hb)

/-- The only operation of a flow has waited for too long. -/
theorem State.flowTimeout_only {o : FlowOp} {b : Nat} (hi : flowDie i < 2) (hops : (s.flow i).ops = [o])
    (hsigs : (s.flow i).sigs = []) (hleft : o.leftAt = some b)
    (hb : b + s.get (F.FAB_CTL.flow_to (flowDie i)) ≤ at_) :
    s.flowTimeout i at_ c =
      ((((s.reach at_).setFlow i { s.flow i with ops := [], sigs := [] }).loseFlow i).opDone o 3 at_ c).settleFlow i at_ c := by
  have hto := State.reach_get s at_ (F.FAB_CTL.flow_to (flowDie i)) (by simp [offFab]; omega)
  have hflow : (s.reach at_).flow i = s.flow i := rfl
  simp only [State.flowTimeout, hto, hflow, hops, hsigs]
  simp [hleft, hb]

end
end Sys2Proof.Machine
end

section
/-! The statement about the flits of a stream flow, settled. -/

namespace Sys2Proof.Machine

theorem exec_ackTimer {s : State} (i : Fin 16384) (at_ : Nat) : exec (.ackTimer i at_) s = .next (s.ackTimer i at_) := rfl

theorem exec_flowTimeout {s : State} (i : Fin 16384) (at_ c : Nat) :
    exec (.flowTimeout i at_ c) s = .next ((s.flowTimeout i at_ c).afterFlow at_ c) := rfl

theorem flowDie_fin (i : Fin 16384) : flowDie i < 2 := Nat.div_lt_of_lt_mul i.isLt

/-- Settles O33: each flit, taken from the inbox, and each timer, in the cases that the statement names. -/
theorem flowFlits : Obligations.FlowFlits := by
  intro s w x a c u i f k have_
  refine ⟨fun hpop hst hsend he hfit => ?credit, fun p hpop hst hrecv he hvrn hrole hp => ?write,
    fun hpop he hst => exec_ack_of_pop hpop he hst, fun hpop he hst hk => ?nack,
    fun j b ho hb => (exec_ackTimer j a).trans (congrArg _ (State.ackTimer_reports ho hb)),
    fun j o b hops hsigs hleft hb => ?timeout⟩
  case credit =>
    rw [exec_credit_of_pop hpop]
    refine ⟨fun h0 hv => ?_, fun h0 hw hbuf hrows hbase hnext => ?_⟩
    · intro v hw
      exact congrArg _ (State.creditFlitIn_opens hst hsend he hfit h0 hv hw)
    · have hsame : u.windowSame x = true := by
        simp only [State.windowSame, Bool.and_eq_true, beq_iff_eq]
        refine ⟨⟨⟨hbuf, hrows⟩, hbase⟩, hnext⟩
      exact congrArg _ (State.creditFlitIn_adds hst hsend he hfit h0 hsame hw)
  case write =>
    rw [exec_write_of_pop hpop, State.writeFlit_meets hst hrecv he hvrn hrole hp]
    refine ⟨fun hedge => congrArg _ (if_pos hedge), fun hedge => ?_⟩
    rw [if_neg (by simp [hedge]), State.writeTile_eq]
    intro d n r v
    have hanswer (o : RxOutcome) (h : r.1 = o) := congrArg (v.edgeAnswered x a) h
    exact ⟨fun h => congrArg _ (hanswer _ h), fun h => congrArg _ (hanswer _ h), fun h => congrArg _ (hanswer _ h),
      fun h => congrArg _ (hanswer _ h), fun h => congrArg _ (hanswer _ h)⟩
  case nack =>
    rw [exec_nack_of_pop hpop he, State.nackIn_marks hst hk]
    refine ⟨fun h => ?_, fun h => ?_, fun h => ?_⟩
    · rw [h]; rfl
    · rw [h]; rfl
    · rw [State.nackCount_other h]
  case timeout =>
    rw [exec_flowTimeout, State.flowTimeout_only (flowDie_fin j) hops hsigs hleft hb]

end Sys2Proof.Machine
end

section
/-! SUPPORT. What a router does with a flit (R260-R263, R271-R276). -/

namespace Sys2Proof.Machine

section
variable {s : State} {f p : Nat} {x : Flit}

/-! Ports and their registers. -/

theorem isOptical_fin (p : Fin 16) : isOptical p = true := decide_eq_true p.isLt

theorem isSpine_of_isOptical (h : isOptical p = true) : isSpine p = false := by
  simp only [isOptical, decide_eq_true_eq] at h
  simp only [isSpine, Bool.and_eq_false_iff, decide_eq_false_iff_not]
  omega

/-- A performance event is counted in no register of a port. -/
@[simp] theorem State.fabEvent_portState (hp : p < 24) (g code n : Nat) :
    (s.fabEvent g code n).portState f p = s.portState f p :=
  CSet.event_get _ _ _ _ _ _ (by simp only [fabSet]; omega) (by simp only [fabSet]; omega)

theorem State.reach_portState (hp : p < 24) (n : Nat) : (s.reach n).portState f p = s.portState f p :=
  State.reach_get _ _ _ (by simp [offFab]; omega)

/-! The checks of a flit that arrives (R263). -/

/-- The checks in their order: the VC of the kind, the hops, the row. -/
theorem State.accept_eq (s : State) (f p : Nat) (x : Flit) : s.accept f p x =
    if (x.kind, x.vc) ∈ kindVcs then
      if x.hops = 31 ∧ x.bc = false ∧ x.dst ≠ s.node then
        (s.count (F.FAB_CNT_TTL.count f) (fabErrc f 7) 1).freeBuf f (some p) x.vc
      else if x.rowBad = true then (s.badRow f x).freeBuf f (some p) x.vc
      else s.dispatchFlit f (some p) (x.set 62 5 (min 31 (x.hops + 1)))
    else (s.count (F.FAB_CNT_HDR.count f) (fabErrc f 5) 1).freeBuf f (some p) x.vc := by
  have hhops : ((decide (x.hops = 31) && !x.bc && decide (x.dst ≠ s.node)) = true) =
      (x.hops = 31 ∧ x.bc = false ∧ x.dst ≠ s.node) := by simp [and_assoc]
  simp only [State.accept, hhops]
  split <;> simp_all [kindVcs, ← not_or]

theorem Flit.rowBad_eq_false (h : x.kind = 1 ∨ x.kind = 3 → gidRow (x.f 68 13) < 48) : x.rowBad = false := by
  simpa [Flit.rowBad] using h

theorem State.accept_badVc (h : (x.kind, x.vc) ∉ kindVcs) :
    s.accept f p x = (s.count (F.FAB_CNT_HDR.count f) (fabErrc f 5) 1).freeBuf f (some p) x.vc := by
  rw [State.accept_eq, if_neg h]

theorem State.accept_lastHop (h : (x.kind, x.vc) ∈ kindVcs) (hh : x.hops = 31) (hb : x.bc = false) (hd : x.dst ≠ s.node) :
    s.accept f p x = (s.count (F.FAB_CNT_TTL.count f) (fabErrc f 7) 1).freeBuf f (some p) x.vc := by
  rw [State.accept_eq, if_pos h, if_pos ⟨hh, hb, hd⟩]

theorem State.accept_routed (h : (x.kind, x.vc) ∈ kindVcs) (hh : x.hops ≠ 31 ∨ x.bc = true ∨ x.dst = s.node)
    (hr : x.kind = 1 ∨ x.kind = 3 → gidRow (x.f 68 13) < 48) :
    s.accept f p x = s.dispatchFlit f (some p) (x.set 62 5 (min 31 (x.hops + 1))) := by
  have hgo : ¬(x.hops = 31 ∧ x.bc = false ∧ x.dst ≠ s.node) := by
    rintro ⟨h31, hbc, hdst⟩
    rcases hh with hh | hh | hh
    · exact hh h31
    · simp [hbc] at hh
    · exact hdst hh
  rw [State.accept_eq, if_pos h, if_neg hgo, Flit.rowBad_eq_false hr, if_neg Bool.false_ne_true]

/-! Routes (R271-R273). -/

variable {i : Option Nat}

section
variable (hbc : x.bc = false)
include hbc

theorem State.route_here (hd : x.dst = s.node) : s.route f i x = .deliver := by
  simp [State.route, hbc, hd]

theorem State.route_source (hd : x.dst ≠ s.node) (hs : x.f 6 1 = 1) (h : x.bytes 120 8 / 2 ^ 60 ≤ x.hops) :
    s.route f i x = .dropRoute := by
  simp only [State.route, hbc, Bool.false_eq_true, if_false, hd, hs, if_true, h]

theorem State.route_table (hd : x.dst ≠ s.node) (hs : x.f 6 1 = 0) : s.route f i x = s.tableRoute f i x := by
  simp [State.route, hbc, hd, hs]

end

theorem State.tableRoute_absent (h : s.get (F.FAB_ROUTE.valid f x.dst) = 0) : s.tableRoute f i x = .dropRoute := if_pos h

theorem State.tableRoute_primary (hv : s.get (F.FAB_ROUTE.valid f x.dst) = 1) (hvc : x.vc ≠ 0)
    (hf : (s.get (F.FAB_PORTSEL.fail f)).testBit (s.get (F.FAB_ROUTE.primary f x.dst)) = false)
    (ho : isOptical (s.get (F.FAB_ROUTE.primary f x.dst)) = true) :
    s.tableRoute f i x = .send [s.get (F.FAB_ROUTE.primary f x.dst)] false false := by
  simp [State.tableRoute, hv, hf, isSpine_of_isOptical ho, hvc]

/-! Ways (R271, R276, R289). -/

theorem State.dispatchFlit_drop (h : s.route f i x = .dropRoute) :
    s.dispatchFlit f i x = (s.count (F.FAB_CNT_ROUTE.count f) (fabErrc f 6) 1).freeBuf f i x.vc := by
  simp only [State.dispatchFlit, h]

theorem State.dispatchFlit_deliver (h : s.route f i x = .deliver) :
    s.dispatchFlit f i x = if x.home = f then s.toInbox i x else s.enqueueOut f (spinePort x.flow) i x := by
  simp only [State.dispatchFlit, h]

/-- A flit that goes one way keeps its buffer. -/
theorem State.dispatchFlit_one {q : Nat} (h : s.route f (some p) x = .send [q] false false) (ho : isOptical q = true) :
    s.dispatchFlit f (some p) x = (s.fabEvent f 0x07 1).enqueueOut f q (some p) x := by
  simp [State.dispatchFlit, h, ho]

theorem State.enqueueOut_queues (h : isOptical p = true → s.portState f p = PortState.up) :
    s.enqueueOut f p i x = s.mapPort f p fun q => { q with out := q.out ++ [(i, x)] } :=
  if_neg (by simpa using h)

theorem isOptical_spinePort (flow : Nat) : isOptical (spinePort flow) = false := by
  refine decide_eq_false ?_
  unfold spinePort
  omega

end

/-- R260-R262, R271, R276: the rules of a router. -/
theorem routerRules : RouterRules := by
  intro s f p x
  refine ⟨State.accept_badVc, State.accept_lastHop, State.accept_routed, fun hbc hd hhome => ?inbox,
    fun hbc hd hhome => ?spine, fun hbc hd hs hv => ?absent, fun hbc hd hs hv hvc => ?primary,
    fun hbc hd hs hl => State.dispatchFlit_drop (State.route_source hbc hd hs hl)⟩
  case inbox => exact (State.dispatchFlit_deliver (State.route_here hbc hd)).trans (if_pos hhome)
  case spine =>
    rw [State.dispatchFlit_deliver (State.route_here hbc hd), if_neg hhome]
    exact State.enqueueOut_queues (by simp [isOptical_spinePort])
  case absent =>
    exact State.dispatchFlit_drop ((State.route_table hbc hd hs).trans (State.tableRoute_absent hv))
  case primary =>
    intro q hf ho hup
    have hq : q < 24 := Nat.lt_trans (of_decide_eq_true ho) (by decide)
    rw [State.dispatchFlit_one ((State.route_table hbc hd hs).trans (State.tableRoute_primary hv hvc hf ho)) ho]
    exact State.enqueueOut_queues fun _ => (State.fabEvent_portState hq _ _ _).trans hup

end Sys2Proof.Machine
end

section
/-! SUPPORT. Flits and link control flits received at a port of a link (R258, R263-R266, R287). -/

namespace Sys2Proof.Machine

section
variable {s : State} {f p : Nat}

/-! Flits (R263). -/

/-- The codewords of a flit's slots are counted. -/
def State.countFec (s : State) (f p : Nat) : Codewords → State
  | .clean => s
  | .corrected => s.count (F.FAB_PORT_CNT_FECC.count f p) (fabErrc f 0) 1
  | .uncorrectable => s.count (F.FAB_PORT_CNT_FECU.count f p) (fabErrc f 1) 1

theorem exec_flitReceive (f : Fin 2) (p : Fin 24) (num : BitVec 24) (cw : Codewords) (h : BitVec 128) (d : BitVec 1024) :
    exec (.flitReceive f p num cw h d) s = .next (s.flitReceive f p num.toNat cw.code ⟨h, d⟩) := rfl

@[simp] theorem State.count_port (g : RF) (i n : Nat) : (s.count g i n).port f p = s.port f p :=
  congrArg (fun x : FabSt => SMap.getD x.ports (32 * f + p) Port.fresh) (State.count_fab _ _ _ _)

@[simp] theorem State.countFec_port (cw : Codewords) : (s.countFec f p cw).port f p = s.port f p := by
  cases cw <;> simp only [State.countFec, State.count_port]

/-- At an optical port in UP: a flit out of turn, a bad one, a good one. -/
theorem State.flitReceive_eq (num : BitVec 24) (cw : Codewords) (x : Flit) (hp : isOptical p = true)
    (hup : s.portState f p = PortState.up) : s.flitReceive f p num.toNat cw.code x =
      if num.toNat ≠ (s.port f p).rxGood then s.countFec f p cw
      else if cw = .uncorrectable ∨ headerCrc x.hdr ≠ x.f 112 16 then
        (s.countFec f p cw).setPort f p { s.port f p with discarding := true, askReplay := true }
      else (s.countFec f p cw).takeGood f p x := by
  have hnum := Nat.mod_eq_of_lt num.isLt
  cases cw <;> simp [State.flitReceive, State.countFec, hup, isSpine_of_isOptical hp, hp, hnum, Codewords.code]

section
variable {num : BitVec 24} {cw : Codewords} {x : Flit} (hp : isOptical p = true) (hup : s.portState f p = PortState.up)
include hp hup

theorem State.flitReceive_accepts (hn : num.toNat = (s.port f p).rxGood) (hc : cw ≠ .uncorrectable)
    (hh : headerCrc x.hdr = x.f 112 16) : s.flitReceive f p num.toNat cw.code x = (s.countFec f p cw).takeGood f p x := by
  rw [State.flitReceive_eq num cw x hp hup, if_neg (not_not_intro hn), if_neg (not_or.mpr ⟨hc, not_not_intro hh⟩)]

theorem State.flitReceive_asksReplay (hn : num.toNat = (s.port f p).rxGood)
    (hbad : cw = .uncorrectable ∨ headerCrc x.hdr ≠ x.f 112 16) : s.flitReceive f p num.toNat cw.code x =
      (s.countFec f p cw).setPort f p { s.port f p with discarding := true, askReplay := true } := by
  rw [State.flitReceive_eq num cw x hp hup, if_neg (not_not_intro hn), if_pos hbad]

theorem State.flitReceive_passesOver (hn : num.toNat ≠ (s.port f p).rxGood) :
    s.flitReceive f p num.toNat cw.code x = s.countFec f p cw := by
  rw [State.flitReceive_eq num cw x hp hup, if_pos hn]

end

theorem State.takeGood_eq (x : Flit) : s.takeGood f p x =
    (((s.setPort f p { s.port f p with rxGood := ((s.port f p).rxGood + 1) % 2 ^ 24, discarding := false }).add
      (F.FAB_PORT_CNT_RX.count f p) 1).fabEvent f 0x06 1).accept f p x := rfl

/-! Link control flits (R258, R264-R266, R287). -/

/-- The port after the counts that an LCF carries. -/
def State.heard (s : State) (f p : Nat) (x : Lcf) : Port :=
  (((s.port f p).acked (Lcf.ack x)).credited (Lcf.cred x)).watchDry p s.now

variable {x : Lcf} (hgood : Lcf.good x = true)
include hgood

theorem State.lcfNormal_hears (ht : Lcf.type x = 0) : s.lcfNormal f p x = s.setPort f p (s.heard f p x) :=
  if_neg (by simp [hgood, ht])

/-- How often in a row the flit that a replay request names has been asked for (R265). -/
def Port.asked (q : Port) (num : Nat) : Nat := if q.reqCount ≠ 0 ∧ q.reqNum = num then q.reqCount + 1 else 1

/-- Every unacknowledged flit is to be sent again, and the request is counted. -/
def State.replayed (s : State) (f p : Nat) (x : Lcf) : State :=
  ((s.setPort f p { s.heard f p x with
    resend := (s.heard f p x).replay.length, reqNum := Lcf.ack x, reqCount := (s.heard f p x).asked (Lcf.ack x) }).count
      (F.FAB_PORT_CNT_RETRY.count f p) (fabErrc f 2) 1).fabEvent f 0x0A 1

theorem State.replayRequest_eq (at_ : Nat) (ht : Lcf.type x = 3) : s.replayRequest f p at_ x =
    if 8 ≤ (s.heard f p x).asked (Lcf.ack x) then (s.replayed f p x).retrain f p at_ 0 else s.replayed f p x := by
  have hasked (q : Port) : q.resendFrom (Lcf.ack x) =
      { q with resend := q.replay.length, reqNum := Lcf.ack x, reqCount := q.asked (Lcf.ack x) } := by
    simp [Port.resendFrom, Port.asked]
  refine (if_neg (by simp [hgood, ht])).trans ?_
  rw [hasked]
  rfl

theorem State.ident_peer (at_ : Nat) (ht : Lcf.type x = 1) (hst : s.portState f p = PortState.ident)
    (hn : Lcf.byte x 16 2 % 2 ^ 14 ≠ s.node) :
    let u : State := { s with free := s.free + 1 }
    s.ident f p at_ x = ((((((u.put (F.FAB_PORT_PEER.node f p) (Lcf.byte x 16 2 % 2 ^ 14)).put
      (F.FAB_PORT_PEER.port f p) (Lcf.byte x 18 1)).put (F.FAB_PORT_PEER.peer_spare f p) (Lcf.byte x 19 1 % 2)).put
      (F.FAB_PORT_PEER.valid f p) 1).put (F.FAB_PORT_STATUS.rtt f p) (Config.freeValue s.free).toNat).portTo f p
        PortState.credit at_).mapPort f p fun q => { q with last := q.linkUp.lcf false 2 } :=
  (if_neg (by simp [hgood, ht, hst])).trans (if_neg hn)

theorem State.ident_self (at_ : Nat) (ht : Lcf.type x = 1) (hst : s.portState f p = PortState.ident)
    (hn : Lcf.byte x 16 2 % 2 ^ 14 = s.node) : s.ident f p at_ x = s.trainFail f p at_ :=
  (if_neg (by simp [hgood, ht, hst])).trans (if_pos hn)

theorem State.creditInit_up (at_ : Nat) (ht : Lcf.type x = 2) (hst : s.portState f p = PortState.credit) :
    s.creditInit f p at_ x = (s.portTo f p PortState.up at_).mapPort f p Port.linkUp :=
  if_neg (by simp [hgood, ht, hst])

omit hgood in
theorem State.startClaims_trained (at_ : Nat) (h : s.tick.trained = true) : s.startClaims at_ = s :=
  if_pos (by simp [h])

end

end Sys2Proof.Machine
end

section
/-! SUPPORT. The slots of an output port in UP at which no VC3 flit waits, and no VC is out of credits (R266-R268). -/

namespace Sys2Proof.Machine

/-! What a port chooses (R265, R268). -/

/-- The slot of a framing LCF (R258). -/
def Port.due (q : Port) (p : Nat) : Bool := isOptical p && (decide (q.slot = 256) || q.moved)

/-- The oldest flit that is to be sent again. -/
def Port.again (q : Port) : Option Flit := (q.replay.drop (q.replay.length - q.resend)).head?

section
variable {q : Port} {p node : Nat} {m : PortMode}

theorem Port.choose_replayRequest (ha : q.askReplay = true) : q.choose p node m = .lcf 3 := if_pos ha

theorem Port.choose_again {x : Flit} (ha : q.askReplay = false) (hd : q.due p = false) (hx : q.again = some x) :
    q.choose p node m = .again x := by
  simp only [Port.due] at hd
  simp only [Port.again] at hx
  simp [Port.choose, ha, hd, hx]

section
variable (h3 : q.head m 3 = none) (ha : q.askReplay = false)
include h3

theorem Port.vc3_eq_none : q.vc3 p node m = none := by simp only [Port.vc3, h3]

include ha

theorem Port.choose_due (hd : q.due p = true) : q.choose p node m = .lcf 0 := by
  simp only [Port.due] at hd
  simp only [Port.choose, ha, hd, Port.vc3_eq_none h3, Bool.false_eq_true, if_false, if_true]
  split <;> rfl

variable (hd : q.due p = false) (hx : q.again = none)
include hd hx

theorem Port.choose_new {x : Option Nat × Flit} (hn : q.normal p m = some x) : q.choose p node m = .new x := by
  simp only [Port.due] at hd
  simp only [Port.again] at hx
  simp [Port.choose, ha, hd, hx, Port.vc3_eq_none h3, hn]

theorem Port.choose_idle (hn : q.normal p m = none) : q.choose p node m = .lcf 0 := by
  simp only [Port.due] at hd
  simp only [Port.again] at hx
  simp [Port.choose, ha, hd, hx, Port.vc3_eq_none h3, hn]

end

end

/-! The slot (R266-R268). -/

/-- The port's counts after a slot at fc `at_`. -/
def Port.passed (q : Port) (at_ : Nat) (moved : Bool) : Port :=
  { q with slot := if q.slot = 256 then 0 else q.slot + 1, moved := moved, slotAt := at_, vc3Gap := min 16 (q.vc3Gap + 1) }

section
variable {s : State} {f p at_ : Nat} (hup : s.portState f p = PortState.up)
  (h3 : (s.port f p).head (s.portMode f p) 3 = none) (hs : (s.port f p).starved p (s.portMode f p) = false)
include hup h3 hs

theorem State.slotOf_lcf {t : Nat} (hc : (s.port f p).choose p s.node (s.portMode f p) = .lcf t)
    (ho : isOptical p = true) : s.slotOf f p at_ =
      let u := s.setPort f p { (s.port f p).passed at_ false with
        askReplay := false, last := (s.port f p).lcf ((s.port f p).due p) t }
      if (s.port f p).due p = true ∨ t = 3 then u else u.fabEvent f 0x08 1 := by
  simp [State.slotOf, hup, State.vc3Waits, h3, hs, hc, ho, Port.due, Port.passed]

theorem State.slotOf_empty {t : Nat} (hc : (s.port f p).choose p s.node (s.portMode f p) = .lcf t)
    (ho : isOptical p = false) :
    s.slotOf f p at_ = s.setPort f p { (s.port f p).passed at_ false with last := .none } := by
  simp [State.slotOf, hup, State.vc3Waits, h3, hs, hc, ho, Port.passed]

theorem State.slotOf_again {x : Flit} (hc : (s.port f p).choose p s.node (s.portMode f p) = .again x) :
    s.slotOf f p at_ = (s.setPort f p { (s.port f p).passed at_ false with
      resend := (s.port f p).resend - 1, last := .flit x }).fabEvent f (2 + x.vc) 1 := by
  simp [State.slotOf, hup, State.vc3Waits, h3, hs, hc, Port.passed]

theorem State.slotOf_new {x : Option Nat × Flit} (hc : (s.port f p).choose p s.node (s.portMode f p) = .new x) :
    s.slotOf f p at_ = (s.setPort f p ((s.port f p).passed at_ ((s.port f p).due p))).sendOut f p x := by
  simp [State.slotOf, hup, State.vc3Waits, h3, hs, hc, Port.due, Port.passed]

end

/-! A port with nothing to send (R284). -/

theorem State.schedule_idle {s : State} {f : Nat} (h : ∀ y ∈ s.fab.sched, flowDie y.1 ≠ f) (vc at_ : Nat) :
    s.schedule f vc at_ = s := by
  have hnone : s.nextFlow f vc = none := by
    have hempty : (s.fab.sched.filter fun q => flowDie q.1 == f && q.2.vc == vc) = [] := by
      simpa [List.filter_eq_nil_iff] using fun i x hx hf => absurd hf (h (i, x) hx)
    simp [State.nextFlow, hempty]
  simp only [State.schedule, hnone]

section
variable {q : Port} (hout : q.out = []) (m : PortMode) (p : Nat)
include hout

theorem Port.head_empty (vc : Nat) : q.head m vc = none := by simp [Port.head, hout]

theorem Port.normal_empty : q.normal p m = none := by simp [Port.normal, Port.head_empty hout]

theorem Port.starved_empty : q.starved p m = false := by simp [Port.starved, Port.head_empty hout]

end

/-- A slot of a link that has nothing to send carries an idle LCF. -/
theorem State.slotOf_unused {s : State} {f p at_ : Nat} (ho : isOptical p = true) (hup : s.portState f p = PortState.up)
    (hout : (s.port f p).out = []) (hre : (s.port f p).resend = 0) (ha : (s.port f p).askReplay = false)
    (hslot : (s.port f p).slot < 256) (hmoved : (s.port f p).moved = false) : s.slotOf f p at_ =
      (s.setPort f p { s.port f p with
        slot := (s.port f p).slot + 1, moved := false, slotAt := at_, vc3Gap := min 16 ((s.port f p).vc3Gap + 1),
        askReplay := false, last := (s.port f p).lcf false 0 }).fabEvent f 0x08 1 := by
  have hd : (s.port f p).due p = false := by simp [Port.due, hmoved, Nat.ne_of_lt hslot]
  have hx : (s.port f p).again = none := by simp [Port.again, hre]
  have h3 := Port.head_empty hout (s.portMode f p) 3
  rw [State.slotOf_lcf hup h3 (Port.starved_empty hout _ p) (Port.choose_idle h3 ha hd hx (Port.normal_empty hout _ p)) ho, hd]
  simp [Port.passed, Nat.ne_of_lt hslot]

end Sys2Proof.Machine
end

section
/-! The statement about flits at the ports and routers, settled. -/

namespace Sys2Proof.Machine

theorem exec_outputSlot {s : State} (f : Fin 2) (p : Fin 24) (at_ : Nat) :
    exec (.outputSlot f p at_) s = .next ((((s.reach at_).schedule f 0 at_).schedule f 1 at_).slotOf f p at_) := rfl

theorem exec_lcfNormal {s : State} (f : Fin 2) (p : Fin 16) (x : BitVec 1152) :
    exec (.lcfNormal f p x) s = .next (s.lcfNormal f p x) := rfl

theorem exec_replayRequest {s : State} (f : Fin 2) (p : Fin 16) (at_ : Nat) (x : BitVec 1152) :
    exec (.replayRequest f p at_ x) s = .next (s.replayRequest f p at_ x) := rfl

theorem exec_ident {s : State} (f : Fin 2) (p : Fin 16) (at_ : Nat) (x : BitVec 1152) :
    exec (.ident f p at_ x) s = .next (s.ident f p at_ x) := rfl

theorem exec_creditInit {s : State} (f : Fin 2) (p : Fin 16) (at_ : Nat) (x : BitVec 1152) :
    exec (.creditInit f p at_ x) s = .next ((s.creditInit f p at_ x).startClaims at_) := rfl

/-- R258, R263-R268, R287: what a port of a link receives, and its slots. -/
theorem portFlits : PortFlits := by
  intro s f a
  refine ⟨fun p num cw h d => ?receive, fun p => ?slot, fun p hup hsched => ?unused, fun p x => ?lcf⟩
  case receive =>
    intro q x u hp hup
    have hu : u = s.countFec f p cw := by cases cw <;> rfl
    clear_value u
    subst hu
    rw [exec_flitReceive]
    refine ⟨fun hn hc hh => ?_, fun hn hbad => ?_, fun hn => ?_⟩
    · rw [State.flitReceive_accepts (x := x) hp hup hn hc hh, State.takeGood_eq, State.countFec_port]
    · rw [State.flitReceive_asksReplay (x := x) hp hup hn hbad]
    · rw [State.flitReceive_passesOver (x := x) hp hup hn]
  case slot =>
    intro u m q due step again hup h3 hs
    have hdue : due = q.due p := rfl
    rw [exec_outputSlot]
    refine ⟨fun ho ha => ?ask, fun ha hd => ?framing, fun x ha hd hx => ?resent, fun x ha hd hx hn => ?new,
      fun ha hd hx hn => ⟨fun ho => ?idle, fun ho => ?empty⟩⟩
    case ask =>
      rw [State.slotOf_lcf hup h3 hs (Port.choose_replayRequest ha) ho]
      exact congrArg _ (if_pos (.inr rfl))
    case framing =>
      have ho : isOptical p = true := (Bool.and_eq_true_iff.mp hd).1
      rw [State.slotOf_lcf hup h3 hs (Port.choose_due h3 ha hd) ho, ← hdue, hd]
      exact congrArg _ (if_pos (.inl rfl))
    case resent => rw [State.slotOf_again hup h3 hs (Port.choose_again ha hd hx)]; rfl
    case new => rw [State.slotOf_new hup h3 hs (Port.choose_new h3 ha hd hx hn), ← hdue, hd]; rfl
    case idle =>
      rw [State.slotOf_lcf hup h3 hs (Port.choose_idle h3 ha hd hx hn) ho, ← hdue, hd]
      exact congrArg _ (if_neg (by decide))
    case empty => rw [State.slotOf_empty hup h3 hs (Port.choose_idle h3 ha hd hx hn) ho]; rfl
  case unused =>
    intro q hout hre ha hslot hmoved
    rw [exec_outputSlot, State.schedule_idle (s := s.reach a) hsched, State.schedule_idle (s := s.reach a) hsched]
    exact congrArg _ (State.slotOf_unused (isOptical_fin p) ((State.reach_portState (by omega) a).trans hup) hout hre ha hslot
      hmoved)
  case lcf =>
    intro good heard
    refine ⟨fun hg ht => ?_, fun hg ht => ?_, fun hg ht hst hn => ?_, fun hg ht hst hn => ?_, fun hg ht hst => ?_⟩
    · rw [exec_lcfNormal, State.lcfNormal_hears hg ht]
      rfl
    · intro n v
      rw [exec_replayRequest, State.replayRequest_eq hg a ht]
      exact ⟨fun hn => congrArg _ (if_neg (Nat.not_le.mpr hn)), fun hn => congrArg _ (if_pos hn)⟩
    · exact congrArg _ (State.ident_peer hg a ht hst hn)
    · exact congrArg _ (State.ident_self hg a ht hst hn)
    · intro v
      exact ⟨congrArg _ (congrArg (State.startClaims · a) (State.creditInit_up hg a ht hst)),
        fun htr => State.startClaims_trained a htr⟩

/-- Settles O34: the router's rules, and what a port of a link receives and sends. -/
theorem linkFlits : Obligations.LinkFlits := ⟨routerRules, portFlits⟩

end Sys2Proof.Machine
end

section
/-! SUPPORT. What the commands of an optical port's states, of a fabric die's laser inputs and of the bridges come to in each
of their cases (R259, R286-R289). -/

namespace Sys2Proof.Machine

/-! The commands and what each runs. -/

section
variable {s : State} (f : Fin 2) (p : Fin 16) (at_ : Nat)

theorem exec_fabPortEnable (h : s.reached (F.FAB_PORT_CTL.enable f p).addr = true) :
    exec (.fabPortEnable f p at_) s = .next (s.portEnable f p at_) := congrArg _ (s.byHost_reached _ _ h)

theorem exec_fabPortDisable (h : s.reached (F.FAB_PORT_CTL.enable f p).addr = true) :
    exec (.fabPortDisable f p at_) s = .next (s.portDisable f p at_) := congrArg _ (s.byHost_reached _ _ h)

theorem exec_trainingPatternDetected :
    exec (.trainingPatternDetected f p at_) s = .next (s.patternDetected f p at_) := rfl

theorem exec_equalizeComplete :
    exec (.equalizeComplete f p at_) s = .next (s.trainStep f p PortState.equalize PortState.lock at_) := rfl

theorem exec_lockFound : exec (.lockFound f p at_) s = .next (s.lockFound f p at_) := rfl

theorem exec_trainingTimeout : exec (.trainingTimeout f p at_) s = .next (s.trainTimeout f p at_) := rfl

theorem exec_retrain (dark : BitVec 8) : exec (.retrain f p ⟨at_, dark⟩) s = .next (s.retrain f p at_ dark.toNat) := rfl

theorem exec_retrainAttemptEnd (ok : Bool) : exec (.retrainAttemptEnd f p at_ ok) s = .next (s.retrainEnd f p at_ ok) := rfl

theorem exec_portDrainComplete : exec (.portDrainComplete f p at_) s = .next (s.portDrained f p at_) := rfl

theorem exec_darkTimerExpiry : exec (.darkTimerExpiry f p at_) s = .next (s.darkExpiry f p at_) := rfl

theorem exec_laserInputDark (k : Fin 2) (pwr : BitVec 16) :
    exec (.laserInputDark f k pwr at_) s = .next (s.laserLost f k pwr.toNat at_) := rfl

theorem exec_laserInputLit (k : Fin 2) (pwr : BitVec 16) :
    exec (.laserInputLit f k pwr at_) s = .next (s.laserLitUp f k pwr.toNat at_) := rfl

theorem exec_bundleGroupFailure (b : Fin 5) : exec (.bundleGroupFailure b) s = .next (s.bundleFailure b) := rfl

end

/-! A port is enabled (R287, R288). -/

/-- The write of enable 1 before the port acts on it. -/
def State.portEnabled (s : State) (f p : Nat) : State :=
  State.put (if s.get (F.FAB_PORT_CTL.enable f p) = 0 then s.put (F.FAB_PORT_STATUS.attempts f p) 0 else s)
    (F.FAB_PORT_CTL.enable f p) 1

section
variable {s : State} {f p at_ : Nat}

theorem State.mayTrain_iff : s.mayTrain f p at_ = true ↔ s.laserLit f = true ∧ (s.port f p).darkAt + fcMs 10 ≤ at_ := by
  simp [State.mayTrain]

section
variable (hp : isOptical p = true)
include hp

/-- A port that is neither OFF nor DRAINING keeps its state. -/
theorem State.portEnable_eq : s.portEnable f p at_ =
    let u := s.portEnabled f p
    if u.portState f p = PortState.off then
      if u.mayTrain f p at_ = true then u.startTraining f p at_
      else if (u.port f p).darkAt + fcMs 10 ≤ at_ then u
      else (u.portTo f p PortState.pendingEnable at_).mapPort f p fun q => { q with drained := true }
    else if u.portState f p = PortState.draining then
      (u.put (F.FAB_PORT_STATUS.state f p) PortState.pendingEnable).mapPort f p fun q => { q with drained := false }
    else u := if_neg (by simp [hp])

theorem State.portEnable_trains (hoff : (s.portEnabled f p).portState f p = PortState.off)
    (hlit : (s.portEnabled f p).laserLit f = true) (hdark : ((s.portEnabled f p).port f p).darkAt + fcMs 10 ≤ at_) :
    s.portEnable f p at_ = (s.portEnabled f p).startTraining f p at_ := by
  rw [State.portEnable_eq hp]
  exact (if_pos hoff).trans (if_pos (State.mayTrain_iff.mpr ⟨hlit, hdark⟩))

theorem State.portEnable_dark (hoff : (s.portEnabled f p).portState f p = PortState.off)
    (hdark : at_ < ((s.portEnabled f p).port f p).darkAt + fcMs 10) : s.portEnable f p at_ =
      ((s.portEnabled f p).portTo f p PortState.pendingEnable at_).mapPort f p fun q => { q with drained := true } := by
  rw [State.portEnable_eq hp]
  exact (if_pos hoff).trans ((if_neg fun h => Nat.not_le.mpr hdark (State.mayTrain_iff.mp h).2).trans
    (if_neg (Nat.not_le.mpr hdark)))

theorem State.portEnable_unlit (hoff : (s.portEnabled f p).portState f p = PortState.off)
    (hlit : (s.portEnabled f p).laserLit f = false) (hdark : ((s.portEnabled f p).port f p).darkAt + fcMs 10 ≤ at_) :
    s.portEnable f p at_ = s.portEnabled f p := by
  rw [State.portEnable_eq hp]
  exact (if_pos hoff).trans ((if_neg fun h => by simp [(State.mayTrain_iff.mp h).1] at hlit).trans (if_pos hdark))

theorem State.portEnable_draining (h : (s.portEnabled f p).portState f p = PortState.draining) : s.portEnable f p at_ =
    ((s.portEnabled f p).put (F.FAB_PORT_STATUS.state f p) PortState.pendingEnable).mapPort f p
      fun q => { q with drained := false } := by
  rw [State.portEnable_eq hp]
  exact (if_neg (by rw [h]; decide)).trans (if_pos h)

theorem State.portEnable_up (h : (s.portEnabled f p).portState f p = PortState.up) :
    s.portEnable f p at_ = s.portEnabled f p := by
  rw [State.portEnable_eq hp]
  exact (if_neg (by rw [h]; decide)).trans (if_neg (by rw [h]; decide))

/-! A port is disabled (R287, R288). -/

theorem State.portDisable_up (h : (s.put (F.FAB_PORT_CTL.enable f p) 0).portState f p = PortState.up) :
    s.portDisable f p at_ = ((s.put (F.FAB_PORT_CTL.enable f p) 0).failPort f p).portTo f p PortState.draining at_ :=
  (if_neg (by simp [hp])).trans (if_pos h)

theorem State.portDisable_pending (h : (s.put (F.FAB_PORT_CTL.enable f p) 0).portState f p = PortState.pendingEnable) :
    let u := s.put (F.FAB_PORT_CTL.enable f p) 0
    s.portDisable f p at_ = u.put (F.FAB_PORT_STATUS.state f p)
      (if (u.port f p).drained = true then PortState.off else PortState.draining) :=
  (if_neg (by simp [hp])).trans ((if_neg (by rw [h]; decide)).trans (if_pos h))

end

/-! Training (R287, R292). -/

theorem State.lockFound_identifies (h : s.portState f p = PortState.lock) (hv : s.get (F.FAB_NODE.valid 0) = 1) :
    s.lockFound f p at_ = (s.portTo f p PortState.ident at_).mapPort f p fun q =>
      { q with stamp := at_ % 2 ^ 32, last := q.linkUp.lcf false 1 (s.identBody f p (at_ % 2 ^ 32)) } :=
  if_pos (by simp [h, hv])

/-- The limits of R287 on the states that a peer must answer in. -/
def trainLimits : List (Nat × Nat) :=
  [(PortState.signal, fcMs 1000), (PortState.equalize, fcMs 2000), (PortState.lock, fcMs 100), (PortState.ident, fcMs 100)]

theorem trainLimits_lookup {st l : Nat} (h : trainLimits.lookup st = some l) :
    st = 1 ∧ l = fcMs 1000 ∨ st = 2 ∧ l = fcMs 2000 ∨ st = 3 ∧ l = fcMs 100 ∨ st = 4 ∧ l = fcMs 100 := by
  obtain ⟨l₁, l₂, hl, -⟩ := List.lookup_eq_some_iff.mp h
  have hmem : (st, l) ∈ trainLimits := by simp [hl]
  simpa [trainLimits, PortState.signal, PortState.equalize, PortState.lock, PortState.ident] using hmem

theorem State.trainTimeout_fails {l : Nat} (h : trainLimits.lookup (s.portState f p) = some l)
    (hl : (s.port f p).since + l ≤ at_) : s.trainTimeout f p at_ = s.trainFail f p at_ := by
  rcases trainLimits_lookup h with ⟨hs, rfl⟩ | ⟨hs, rfl⟩ | ⟨hs, rfl⟩ | ⟨hs, rfl⟩ <;>
    simp only [State.trainTimeout, hs, hl, if_true]

/-! RETRAIN (R287). -/

theorem State.retrain_up (dark : BitVec 8) (hp : isOptical p = true) (h : s.portState f p = PortState.up) :
    let u := s.put (F.FAB_PORT_STATUS.lanes f p) (s.get (F.FAB_PORT_STATUS.lanes f p) &&& (255 - dark.toNat))
    s.retrain f p at_ dark.toNat =
      ((u.portTo f p PortState.retrain at_).mapPort f p fun q => { q with tries := 0 }).leaveUp f p := by
  simp [State.retrain, h, hp, Nat.mod_eq_of_lt dark.isLt]

theorem State.retrainEnd_regains (h : s.portState f p = PortState.retrain) : s.retrainEnd f p at_ true =
    ((s.portTo f p PortState.up at_).put (F.FAB_PORT_STATUS.lanes f p) 0xFF).mapPort f p Port.linkUp :=
  if_neg (not_not_intro h)

theorem State.retrainEnd_again (h : s.portState f p = PortState.retrain) (ht : (s.port f p).tries < 2) :
    s.retrainEnd f p at_ false = s.mapPort f p fun q => { q with tries := q.tries + 1 } :=
  (if_neg (not_not_intro h)).trans ((if_neg Bool.false_ne_true).trans (if_pos (Nat.succ_lt_succ ht)))

theorem State.retrainEnd_down (h : s.portState f p = PortState.retrain) (ht : 2 ≤ (s.port f p).tries) :
    s.retrainEnd f p at_ false =
      (s.portTo f p PortState.signal at_).count (F.FAB_PORT_CNT_DOWN.count f p) (fabErrc f 3) 1 :=
  (if_neg (not_not_intro h)).trans ((if_neg Bool.false_ne_true).trans (if_neg (by omega)))

/-! Drains and dark ports (R287, R288). -/

/-- The port as its transmitter goes dark. -/
def State.portDark (s : State) (f p at_ : Nat) : State :=
  ((s.portLose f p).darken f p at_).put (F.FAB_PORT_STATUS.lanes f p) 0

theorem State.portDrained_goes (hd : s.draining f p = true)
    (h : (s.port f p).out = [] ∧ (s.port f p).replay = [] ∨ (s.port f p).since + fcMs 1 ≤ at_) :
    s.portDrained f p at_ = if s.portState f p = PortState.draining then (s.portDark f p at_).portTo f p PortState.off at_
      else s.portDark f p at_ := by
  refine if_neg ?_
  rcases h with ⟨hout, hreplay⟩ | htime
  · simp [hd, hout, hreplay]
  · simp [hd, htime]

theorem State.darkExpiry_pending (h : s.portState f p = PortState.pendingEnable) (hd : (s.port f p).drained = true)
    (hlit : s.laserLit f = true) (hdark : (s.port f p).darkAt + fcMs 10 ≤ at_) :
    s.darkExpiry f p at_ = s.startTraining f p at_ :=
  if_pos (by simp [State.mayTrain_iff.mpr ⟨hlit, hdark⟩, h, hd])

/-- A port that waits for no light does nothing as its time of dark ends. -/
theorem State.darkExpiry_idle (hoff : s.portState f p ≠ PortState.off) (hpend : s.portState f p ≠ PortState.pendingEnable) :
    s.darkExpiry f p at_ = s :=
  if_neg (by simp [hoff, hpend])

end

/-! Lasers (R259). -/

section
variable {s : State} {f k pwr at_ : Nat}

/-- An input's loss while the other is lit. -/
theorem State.laserLost_degrades :
    let u := ((((s.put (laserOk f k) 0).put (laserPwr f k) pwr).put (F.FAB_LASER.degraded f) 1).count
      (F.FAB_CNT_LASER.count f) (fabErrc f 0xF) 1).showLaser f
    u.laserLit f = true → s.laserLost f k pwr at_ = u := by
  intro u hlit
  have hdark : s.laserDark f k pwr at_ = u := by
    unfold State.laserDark
    exact if_pos hlit
  simp [State.laserLost, hdark, hlit]

theorem State.laserLitUp_idle :
    let u := ((s.put (laserOk f k) 1).put (laserPwr f k) pwr).showLaser f
    (∀ p < 16, u.portState f p ≠ PortState.off ∧ u.portState f p ≠ PortState.pendingEnable) →
      s.laserLitUp f k pwr at_ = u := by
  intro u hidle
  refine List.foldlRecOn (motive := (· = u)) _ _ rfl fun v hv p hp => ?_
  obtain ⟨hoff, hpend⟩ := hidle p (List.mem_range.mp hp)
  subst hv
  exact State.darkExpiry_idle hoff hpend

end

/-! Bridges (R286). -/

theorem State.bundleFailure_inner {s : State} {b : Fin 5} (h0 : b ≠ 0) (h4 : b ≠ 4) :
    s.bundleFailure b = s.sendFail (fabErrc (if b.val ≤ 2 then 0 else 1) 0x19) := by
  have h : ¬(decide (b.val = 0) || decide (b.val = 4)) = true := by simp; omega
  exact congrArg (State.sendFail · _) (if_neg h)

end Sys2Proof.Machine
end

section
/-! The statement about the states of an optical port, settled. -/

namespace Sys2Proof.Machine

/-- Settles O35: each command, in each state that the statement names. -/
theorem portStates : Obligations.PortStates := by
  intro s f p k pwr a
  have hp := isOptical_fin p
  refine ⟨fun hs => ?enable, fun hs => ?disable,
    fun h => (exec_trainingPatternDetected f p a).trans (congrArg _ (if_pos h)),
    fun h => (exec_equalizeComplete f p a).trans (congrArg _ (if_pos h)),
    fun h hv => (exec_lockFound f p a).trans (congrArg _ (State.lockFound_identifies h hv)),
    fun l h hl => (exec_trainingTimeout f p a).trans (congrArg _ (State.trainTimeout_fails h hl)),
    fun dark h => (exec_retrain f p a dark).trans (congrArg _ (State.retrain_up dark hp h)),
    fun h => ?attempt, fun h => ?drained,
    fun h hd hlit hdark => (exec_darkTimerExpiry f p a).trans (congrArg _ (State.darkExpiry_pending h hd hlit hdark)),
    fun hlit => (exec_laserInputDark f a k pwr).trans (congrArg _ (State.laserLost_degrades hlit)),
    fun hidle => (exec_laserInputLit f a k pwr).trans (congrArg _ (State.laserLitUp_idle hidle)),
    exec_bundleGroupFailure 0, exec_bundleGroupFailure 4,
    fun b h0 h4 => (exec_bundleGroupFailure b).trans (congrArg _ (State.bundleFailure_inner h0 h4))⟩
  case enable =>
    rw [exec_fabPortEnable f p a hs]
    exact ⟨fun hoff hlit hdark => congrArg _ (State.portEnable_trains hp hoff hlit hdark),
      fun hoff hdark => congrArg _ (State.portEnable_dark hp hoff hdark),
      fun h => congrArg _ (State.portEnable_draining hp h),
      fun hoff hlit hdark => congrArg _ (State.portEnable_unlit hp hoff hlit hdark),
      fun h => congrArg _ (State.portEnable_up hp h)⟩
  case disable =>
    rw [exec_fabPortDisable f p a hs]
    exact ⟨fun h => congrArg _ (State.portDisable_up hp h), fun h => congrArg _ (State.portDisable_pending hp h)⟩
  case attempt =>
    exact ⟨(exec_retrainAttemptEnd f p a true).trans (congrArg _ (State.retrainEnd_regains h)),
      fun ht => (exec_retrainAttemptEnd f p a false).trans (congrArg _ (State.retrainEnd_again h ht)),
      fun ht => (exec_retrainAttemptEnd f p a false).trans (congrArg _ (State.retrainEnd_down h ht))⟩
  case drained =>
    refine ⟨fun hst => (exec_portDrainComplete f p a).trans (congrArg _ ?_),
      fun hst hd => (exec_portDrainComplete f p a).trans (congrArg _ ?_)⟩
    · exact (State.portDrained_goes (by simp [State.draining, hst]) h).trans (if_pos hst)
    · exact (State.portDrained_goes (by simp [State.draining, hst, hd]) h).trans (if_neg (by rw [hst]; decide))

end Sys2Proof.Machine
end

section
/-! SUPPORT. What the flits of a bucket, its emissions, the end of its round and the register access to the blend store come
to in each of their cases (R299, R303-R314, R322). -/

namespace Sys2Proof.Machine

/-! The next exponent (R299). -/

section
variable {e q m : Nat}

theorem nextExp_saturated (nonfin : Bool) : nextExp e q true nonfin m = (min (e + 1) 254, 0, true, false) := rfl

theorem nextExp_nonfinite : nextExp e q false true m = (e, q, false, false) := rfl

theorem nextExp_large (h : 2 ^ 21 ≤ m) : nextExp e q false false m = (e, 0, false, false) :=
  if_neg (Nat.not_le.mpr (Nat.lt_of_lt_of_le (by decide) h))

theorem nextExp_small (h : m < 2 ^ 21) : nextExp e q false false m =
    if q = 7 then (e - 1, 0, false, decide (0 < e)) else (e, q + 1, false, false) :=
  if_pos (Nat.le_sub_one_of_lt h)

end

theorem nextExponent : NextExponent := fun _ _ _ nonfin =>
  ⟨nextExp_saturated nonfin, nextExp_nonfinite, nextExp_large,
    fun h hq => (nextExp_small h).trans (if_neg hq), fun h hq => (nextExp_small h).trans (if_pos hq)⟩

/-! The commands and what each runs. -/

section
variable {s : State} (j : Fin 16384) (f : Fin 2) (at_ c : Nat)

theorem exec_blendPart : exec (.blendPart at_) s = .next (s.blendPart at_) := rfl

theorem exec_blendEnd : exec (.blendEnd at_) s = .next (s.blendEnd at_) := rfl

theorem exec_advance : exec (.advance ⟨at_, c⟩) s = .next (s.advance at_ c) := rfl

theorem exec_blendResult : exec (.blendResult at_ c) s = .next (s.blendResult at_ c) := rfl

theorem exec_partialEmit : exec (.partialEmit j at_) s = .next (s.partialEmit j at_) := rfl

theorem exec_rootBlockComplete : exec (.rootBlockComplete j at_ c) s = .next (s.rootComplete j at_ c) := rfl

theorem exec_roundComplete : exec (.roundComplete j at_ c) s = .next (s.roundComplete j at_ c) := rfl

theorem exec_bldAccRead (h : s.reached (F.BLD_ACC_CMD.read f).addr = true) :
    exec (.bldAccRead f) s = .next (s.bldRead f) := congrArg _ (s.byHost_reached _ _ h)

theorem exec_bldAccWrite (h : s.reached (F.BLD_ACC_CMD.read f).addr = true) :
    exec (.bldAccWrite f) s = .next (s.bldWrite f) := congrArg _ (s.byHost_reached _ _ h)

end

/-! A BLEND flit that a live bucket takes (R311, R319). -/

/-- Of an ACTIVE bucket's epoch, a flit meets the bucket's node once its record has been read. -/
theorem State.blendIn_live {s : State} {x : Flit} (h : s.Blends x) (k : State → Nat → State) :
    s.blendIn x k = k (s.recTouch x.flow) x.flow := by
  obtain ⟨hactive, hkind, hepoch⟩ := h
  simp [State.blendIn, State.flowActive, hactive, hkind, hepoch]

/-! Parts (R303, R306, R310). A source gathers the parts of its block, and the block is added whole with the last of them:
this is the model's choice (log 54); R306 adds each flit as it comes. -/

/-- The source with part `x` of its block: the block that it delivers, or a new one. -/
def BldSrc.takePart (y : BldSrc) (x : Flit) : BldSrc :=
  let z := if y.cur = some x.blk then y else { y with cur := some x.blk, parts := 0, bytes := 0 }
  { z with parts := z.parts + 2 ^ x.part, bytes := z.bytes + x.bytes 0 128 * 256 ^ (128 * x.part) }

/-- The node's child at position `k` has delivered part `x`. -/
def State.partTaken (s : State) (k : Nat) (x : Flit) : State :=
  (s.fabEvent (flowDie x.flow) 0x0B 1).mapRound x.flow fun r =>
    r.setSrc (k + 1) (((s.round x.flow).src (k + 1)).takePart x)

/-- Part `x` passes the checks of R311: it is one of its block's, and the block lies in the window, is not delivered, and is
the one under way without this part, or a later one. -/
structure State.PartFits (s : State) (k : Nat) (x : Flit) : Prop where
  part : x.part < if x.blkWide then 12 else 6
  blk : x.blk < s.nblk x.flow
  rises : ((s.round x.flow).src (k + 1)).upto ≤ x.blk
  window : x.blk < ((s.round x.flow).src (k + 1)).grant + s.window x.flow
  order : ∀ b, ((s.round x.flow).src (k + 1)).cur = some b →
    b ≤ x.blk ∧ (b = x.blk → ((s.round x.flow).src (k + 1)).parts.testBit x.part = false)

section
variable {s w u : State} {x : Flit} {at_ c k : Nat}

section
variable (hu : (w.reach at_).recTouch x.flow = u) (hlive : (w.reach at_).Blends x)
include hu hlive

theorem State.blendPart_takes (hpop : (s.pop fun x => x.kind == 2 && !x.dn && x.part != 14 && !s.blendHeld x) = some (x, w))
    (hchild : u.childOf x.flow x.src = some k) (hfits : u.PartFits k x) : s.blendPart at_ =
      let y := ((u.round x.flow).src (k + 1)).takePart x
      if y.parts = allParts x.blkWide then
        (u.partTaken k x).addBlock x.flow (k + 1) x.blk x.blkE x.blkSat x.blkNonfin (blockOf x.blkWide y.bytes)
      else u.partTaken k x := by
  obtain ⟨hpart, hblk, hrises, hwindow, horder⟩ := hfits
  simp only [State.blendPart, hpop, State.blendIn_live hlive, hu, hchild]
  refine if_neg ?_
  cases hcur : ((u.round x.flow).src (k + 1)).cur with
  | none => simp [hpart, hblk, hrises, hwindow]
  | some b =>
    obtain ⟨hle, hnew⟩ := horder b hcur
    have hpart' : (x.blk == b && ((u.round x.flow).src (k + 1)).parts.testBit x.part) = false := by
      by_cases hb : b = x.blk
      · simp [hnew hb]
      · simp [Ne.symm hb]
    simp [hpart, hblk, hrises, hwindow, hle, hpart']

/-! END from a child (R304, R308). -/

section
variable (hpop : (s.pop fun x => x.kind == 2 && !x.dn && x.part == 14 && !s.blendHeld x) = some (x, w))
include hpop

theorem State.blendEnd_delivers (hchild : u.childOf x.flow x.src = some k) (hblk : x.blk < u.nblk x.flow) :
    s.blendEnd at_ = u.deliveredTo x.flow (k + 1) (u.nblk x.flow) := by
  simp only [State.blendEnd, hpop, State.blendIn_live hlive, hu, hchild]
  exact if_neg (Nat.not_le.mpr hblk)

theorem State.blendEnd_stranger (hchild : u.childOf x.flow x.src = none) : s.blendEnd at_ = u.blendDrop x.flow := by
  simp only [State.blendEnd, hpop, State.blendIn_live hlive, hu, hchild]

end

end

/-! ADVANCE (R304, R309, R320). -/

/-- The parent has granted block `b`. -/
def State.granted (s : State) (i b : Nat) : State :=
  s.mapRound i fun r => { r with grantUp := max r.grantUp (b + 1) }

theorem State.granted_round (s : State) (i b : Nat) :
    (s.granted i b).round i = { s.round i with grantUp := max (s.round i).grantUp (b + 1) } :=
  SMap.getD_put_listed s.bld.rounds i fun h => by
    have hgrant : max (s.round i).grantUp (b + 1) = 0 := congrArg BldRound.grantUp h
    omega

theorem State.granted_sends (s : State) (i b : Nat) : ((s.granted i b).round i).sends = (s.round i).sends := by
  rw [State.granted_round]

theorem State.advance_grants (hu : (w.reach at_).recTouch x.flow = u) (hlive : (w.reach at_).Blends x)
    (hpop : (s.pop fun x => x.kind == 2 && x.dn && x.part == 15) = some (x, w)) (hroot : u.isRoot x.flow = false)
    (hsrc : x.src = u.flowPeer x.flow) (hblk : x.blk < u.nblk x.flow) :
    s.advance at_ c = (u.granted x.flow x.blk).passAtEdge x.flow at_ c := by
  simp only [State.advance, hpop, State.blendIn_live hlive, hu]
  exact if_neg (by simp [hroot, hsrc, hblk])

section
variable {i : Nat}

theorem State.passAtEdge_idle (h : (s.round i).sends = []) : s.passAtEdge i at_ c = s := by
  simp only [State.passAtEdge, h]

theorem State.passAtEdge_send {g : BldSend} {l : List BldSend} (h : (s.round i).sends = g :: l) :
    s.passAtEdge i at_ c =
      let b := fsdFirst g.op.desc + g.passed
      if s.slotBusy i b = true then ((List.range (s.window i)).foldl
        (fun s _ => if s.slotBusy i b = true then s.partialEmit i at_ else s) s).blockPass i at_ c
      else s := by
  simp only [State.passAtEdge, h]

end

/-! Results from the parent (R304, R312). -/

/-- What a result part is sent on to the children as. -/
def Flit.onward (x : Flit) : Bln :=
  { blk := x.blk, part := x.part, e := x.blkE, sat := x.blkSat, nonfin := x.blkNonfin, wide := x.blkWide, dn := true,
    eNext := x.eNext }

/-- The result block of which part `x` alone has come. -/
def Flit.firstOfResult (x : Flit) : BldRes :=
  { blk := x.blk, parts := 2 ^ x.part, bytes := x.bytes 0 128 * 256 ^ (128 * x.part), wide := x.blkWide, e := x.blkE,
    sat := x.blkSat, nonfin := x.blkNonfin, eNext := if x.part = 0 then x.eNext else 0 }

theorem allParts_ne_two_pow {wide : Bool} {n : Nat} (h : n < if wide then 12 else 6) : 2 ^ n ≠ allParts wide := by
  cases wide <;> simp only [if_true, Bool.false_eq_true, if_false] at h <;> interval_cases n <;> decide

section
variable (hu : (w.reach at_).recTouch x.flow = u) (hlive : (w.reach at_).Blends x)
  (hpop : (s.pop fun x => x.kind == 2 && x.dn && x.part != 15) = some (x, w)) (hfree : s.tileFree x.flow c = true)
include hu hlive hpop hfree

/-- One of a block whose parts have all come. -/
theorem State.blendResult_repeated (hpart : x.part ≠ 14) (hres : (u.round x.flow).res = none)
    (hold : x.blk < (u.round x.flow).resUpto) : s.blendResult at_ c = u.blendDrop x.flow := by
  simp only [State.blendResult, hpop, hfree, Bool.not_true, Bool.false_eq_true, if_false, State.blendIn_live hlive, hu, hres]
  exact if_pos (by simp [hpart, hold])

variable (hroot : u.isRoot x.flow = false) (hsrc : x.src = u.flowPeer x.flow) (hblk : x.blk < u.nblk x.flow)
include hroot hsrc hblk

theorem State.blendResult_end (hpart : x.part = 14) : s.blendResult at_ c =
    (u.toChildren x.flow { blk := x.blk, part := 14, dn := true } 0).mapRound x.flow fun r =>
      { r.nodeReset with endDown := true } := by
  simp only [State.blendResult, hpop, hfree, Bool.not_true, Bool.false_eq_true, if_false, State.blendIn_live hlive, hu]
  exact (if_neg (by simp [hroot, hsrc, hblk, hpart])).trans (if_pos hpart)

/-- The first part of a block that comes. -/
theorem State.blendResult_first (hpart : x.part < if x.blkWide then 12 else 6) (hres : (u.round x.flow).res = none)
    (hnew : (u.round x.flow).resUpto ≤ x.blk) : s.blendResult at_ c =
      (u.toChildren x.flow x.onward (x.bytes 0 128)).mapRound x.flow fun r => { r with res := some x.firstOfResult } := by
  have hend : x.part ≠ 14 := fun h => by rw [h] at hpart; split at hpart <;> omega
  have hsent : ((u.toChildren x.flow x.onward (x.bytes 0 128)).round x.flow).res = none := hres
  have hmore : 0 ||| 2 ^ x.part ≠ allParts x.blkWide := (Nat.zero_or _).symm ▸ allParts_ne_two_pow hpart
  rw [Flit.onward] at hsent
  simp only [State.blendResult, hpop, hfree, Bool.not_true, Bool.false_eq_true, if_false, State.blendIn_live hlive, hu, hsent]
  refine (if_neg (by simp [hroot, hsrc, hblk, hpart, hres, hnew])).trans ((if_neg hend).trans ((if_neg hmore).trans ?_))
  simp only [Nat.zero_or, Nat.zero_add, Flit.onward, Flit.firstOfResult]

end

end

/-! Emission (R299, R305). -/

section
variable {s u v : State} {i at_ c b : Nat} {h : BldBlk}

/-- BLD_CNT_WIDE counts a block that does not travel narrow. -/
def State.wideCounted (s : State) (i : Nat) (l : List Int) : State :=
  if (!travelsNarrow l) = true then s.add (F.BLD_CNT_WIDE.count (flowDie i)) 1 else s

section
variable {l : List Int} (hactive : (s.reach at_).flowState i = 1) (hkind : (s.reach at_).flowKind i = 1)
  (hnext : (s.reach at_).nextBlk i = some (b, h)) (hu : ((s.reach at_).recTouch i).takeBlock i b = (l, u))
include hactive hkind hnext hu

theorem State.partialEmit_emits (hroot : (s.reach at_).isRoot i = false)
    (hgrant : b < ((s.reach at_).round i).grantUp + (s.reach at_).window i) : s.partialEmit i at_ =
      ((u.wideCounted i l).schedAdd i ((u.wideCounted i l).blockFlits i ((u.wideCounted i l).flowPeer i)
        { blk := b, part := 0, e := h.e, sat := h.sat, nonfin := h.nonfin || l.any isPoison, wide := !travelsNarrow l }
        (blockBytes (!travelsNarrow l) l))).tryEnd i := by
  simp only [State.partialEmit, hnext, hu]
  exact (if_neg (by simp [State.flowActive_of_state hactive, hkind, hroot])).trans (if_neg (Nat.not_le.mpr hgrant))

/-- The root's entry of block `b` in the exponent table, read. -/
def State.entryTouch (s : State) (i b : Nat) : State := s.bldTouchAll (flowDie i) (s.etabAt i b) 2 none

/-- The exponent of block `b` in the root's table. -/
def State.entryExp (s : State) (i b : Nat) : Nat := s.bldGet (flowDie i) (s.etabAt i b) 1

/-- The root's entry of block `b`: exponent `e` with quiet count `q`. -/
def State.entryPut (s : State) (i b e q : Nat) : State := s.bldPut (flowDie i) (s.etabAt i b) 2 (e + 256 * q)

/-- A block of elements `l` goes to every child. -/
def State.blockToChildren (s : State) (i : Nat) (b : Bln) (l : List Int) : State :=
  (List.range (s.nchild i)).foldl (fun s n => s.schedAdd i (s.blockFlits i (s.child i n) b (blockBytes b.wide l))) s

/-- The root's next block, neither flagged nor small: its exponent is kept. -/
theorem State.rootComplete_keeps (hroot : (s.reach at_).isRoot i = true) (hfree : (s.reach at_).tileFree i c = true)
    (hsat : h.sat = false) (hnonfin : h.nonfin = false) (hfinite : l.any isPoison = false) (hnarrow : l.all inNarrow = true)
    (hlarge : 2 ^ 21 ≤ l.foldl (fun m v => max m v.natAbs) 0) : s.rootComplete i at_ c =
      let g := u.entryTouch i b
      let e := g.entryExp i b
      let d := (g.entryPut i b e 0).blockToChildren i { blk := b, part := 0, e := e, dn := true, eNext := e } l
      ((d.mapRound i fun r => { r with nan := r.nan + 0, flags := r.flags + 0 }).memberResult i c b e false false e l).tryEnd i := by
  have hall : l.filter (fun v => !isPoison v) = l := by simpa [List.filter_eq_self] using hfinite
  have hnone : l.filter isPoison = [] := by simpa [List.filter_eq_nil_iff] using hfinite
  have hfits := List.all_eq_true.mp hnarrow
  have hunflagged : (l.any fun v => !isPoison v && !inNarrow v) = false :=
    List.any_eq_false.mpr fun v hv => by simp [hfits v hv]
  have htravels : travelsNarrow l = true := List.all_eq_true.mpr fun v hv => by simp [hfits v hv]
  simp only [State.rootComplete, hnext, hu, hsat, hnonfin, hall, hnone, hunflagged, htravels, hfinite, Bool.or_self,
    nextExp_large hlarge]
  exact if_neg (by simp [State.flowActive_of_state hactive, hkind, hroot, hfree])

end

/-! The end of a round (R314). -/

theorem State.roundComplete_closes (hactive : (s.reach at_).flowState i = 1) (hkind : (s.reach at_).flowKind i = 1)
    (hdown : ((s.reach at_).round i).endDown = true) (hfree : (s.reach at_).tileFree i c = true)
    (hread : (s.reach at_).recTouch i = u) (hclose : (u.walkTo i c (u.nblk i) (u.nblk i)).closeRound i = v)
    (hsig : v.get (F.FAB_FLOW_W3.sig_en (flowDie i) (flowIdx i)) = 0) (hwait : (v.flow i).waiting = []) :
    s.roundComplete i at_ c = v := by
  simp only [State.roundComplete, hread, hclose, hsig, Nat.zero_ne_one, if_false, hwait]
  exact if_neg (by simp [State.flowActive_of_state hactive, hkind, hdown, hfree])

end

/-! Register access to the store (R322). -/

theorem State.bldWrite_accepted {s : State} {f : Nat}
    (h : ∀ i ∈ s.liveFlows, flowDie i ≠ f ∨ s.flowKind i ≠ 1 ∨ s.recLine i ≠ s.get (F.BLD_ACC_ADDR.line f)) :
    let line := s.get (F.BLD_ACC_ADDR.line f)
    s.bldWrite f = (List.range 8).foldl (fun s j => s.bldPut f (64 * line + 8 * j) 8 (s.get (F.BLD_ACC_DATA.data f j)))
      { s with bld := { s.bld with err := SMap.clear s.bld.err (bldKey f (64 * line) / 16) (bldKey f (64 * line) / 16 + 4) } } :=
  if_neg (by simpa [or_iff_not_imp_left] using h)

end Sys2Proof.Machine
end

section
/-! The statement about the next exponent and the rounds of a bucket, settled. -/

namespace Sys2Proof.Machine

theorem bucketRounds : BucketRounds := by
  intro s w x j a c k v i u n
  refine ⟨fun hpop hlive hchild hpart hblk hrises hwindow horder => ?part,
    fun hpop hlive hchild hblk => (exec_blendEnd a).trans (congrArg _ (State.blendEnd_delivers rfl hlive hpop hchild hblk)),
    fun hpop hlive hchild => (exec_blendEnd a).trans (congrArg _ (State.blendEnd_stranger rfl hlive hpop hchild)),
    fun hpop hlive hroot hsrc hblk => ?grant, fun hpop hfree hlive hroot hsrc hblk => ?result,
    fun b h hactive hkind hnext => ?emit,
    fun hactive hkind hdown hfree hsig hwait => (exec_roundComplete j a c).trans (congrArg _
      (State.roundComplete_closes hactive hkind hdown hfree rfl rfl hsig hwait)),
    fun f hreach => ?access⟩
  case part =>
    rw [exec_blendPart, State.blendPart_takes rfl hlive hpop hchild ⟨hpart, hblk, hrises, hwindow, horder⟩]
    exact ⟨fun hmore => congrArg _ (if_neg hmore), fun hall => congrArg _ (if_pos hall)⟩
  case grant =>
    rw [exec_advance, State.advance_grants rfl hlive hpop hroot hsrc hblk]
    have hsends := u.granted_sends i x.blk
    refine ⟨fun hidle => congrArg _ (State.passAtEdge_idle (hsends.trans hidle)), fun g l hsend => ?_⟩
    rw [State.passAtEdge_send (hsends.trans hsend)]
    exact ⟨fun hslot => congrArg _ (if_neg (Bool.eq_false_iff.mp hslot)), fun hslot => congrArg _ (if_pos hslot)⟩
  case result =>
    rw [exec_blendResult]
    exact ⟨fun hend => congrArg _ (State.blendResult_end rfl hlive hpop hfree hroot hsrc hblk hend),
      fun hpart hres hnew => congrArg _ (State.blendResult_first rfl hlive hpop hfree hroot hsrc hblk hpart hres hnew),
      fun hpart hres hold => congrArg _ (State.blendResult_repeated rfl hlive hpop hfree hpart hres hold)⟩
  case emit =>
    exact ⟨fun hroot hgrant => (exec_partialEmit j a).trans (congrArg _
        (State.partialEmit_emits hactive hkind hnext rfl hroot hgrant)),
      fun hroot hfree hsat hnonfin hfinite hnarrow hlarge => (exec_rootBlockComplete j a c).trans (congrArg _
        (State.rootComplete_keeps hactive hkind hnext rfl hroot hfree hsat hnonfin hfinite hnarrow hlarge))⟩
  case access =>
    exact ⟨exec_bldAccRead f hreach,
      fun hfree => (exec_bldAccWrite f hreach).trans (congrArg _ (State.bldWrite_accepted hfree))⟩

/-- Settles O36: the next exponent by its cases, and each command in the cases that the statement names. -/
theorem blendRounds : Obligations.BlendRounds := ⟨nextExponent, bucketRounds⟩

end Sys2Proof.Machine
end

section
/-! SUPPORT. What comes of the requests that reach a synchronisation counter, and of its binding (R324-R331, R341). -/

namespace Sys2Proof.Machine

theorem exec_bind (d : Fin 4) (i : Fin 4096) (w : TimedWrite) (s : State) :
    exec (.bind d i w) s = .next (s.byHost (F.SYN_PCNT_W1.bind d i).addr fun s => s.bind d i (setBit w.v 22) w.cyc) := rfl

theorem exec_unbind (d : Fin 4) (i : Fin 4096) (v : Word) (c : Nat) (s : State) :
    exec (.unbind d i v c) s = .next (s.byHost (F.SYN_PCNT_W1.bind d i).addr fun s => s.unbind d i c (clearBit v 22)) := rfl

theorem exec_counterStoreError (d : Fin 4) (i : Fin 4096) (c : Nat) (s : State) :
    exec (.counterStoreError d i c) s = .next (s.storeError d i c) := rfl

section
variable {s : State} {t : TileId} {p : Nat} (h : s.phys t.gid = some p)
include h

theorem exec_sigArrival : exec (.sigArrival t) s = .next (s.sigArrival p) :=
  congrArg _ (State.withTile_served h State.sigArrival)

theorem exec_waitgeArrival : exec (.waitgeArrival t) s = .next (s.waitArrival p) :=
  congrArg _ (State.withTile_served h State.waitArrival)

end

/-! Registers after a run of writes. -/

/-- The fields that a command writes one after the other. -/
def State.puts (s : State) (l : List (RF × Nat)) : State := l.foldl (fun s q => s.put q.1 q.2) s

/-- Field `g` is none of field `f`'s bits. -/
def RF.Off (f g : RF) : Prop := g.addr ≠ f.addr ∨ g.lo + g.w ≤ 64 ∧ (g.lo + g.w ≤ f.lo ∨ f.lo + f.w ≤ g.lo)

theorem State.get_puts_off {s : State} (hs : SMap.sorted s.regs = true) (l : List (RF × Nat)) (g : RF)
    (h : ∀ q ∈ l, RF.Off q.1 g) : (s.puts l).get g = s.get g := by
  induction l generalizing s with
  | nil => rfl
  | cons q l ih =>
    exact (ih (State.put_sorted _ _ hs) fun r hr => h r (List.mem_cons_of_mem _ hr)).trans
      (State.get_put_off s q.1 g q.2 hs (h q List.mem_cons_self))

/-! Increments (R324, R332). -/

section
variable {s : State} {d i e n c : Nat}

theorem State.bound_iff : s.bound d i = true ↔ s.get (F.SYN_PCNT_W0.bound d i) = 1 := by simp [State.bound]

theorem State.poisoned_iff : s.poisoned d i = true ↔ s.get (F.SYN_PCNT_W0.poison d i) = 1 := by simp [State.poisoned]

theorem State.poisoned_of_sound (h : s.get (F.SYN_PCNT_W0.poison d i) = 0) : s.poisoned d i = false := by
  simp [State.poisoned, h]

theorem State.partner_single (h : s.get (F.SYN_PCNT_W2.pair_v d i) = 0) : s.partner d i = none := by
  simp [State.partner, h]

theorem State.applyInc_room (src : IncSrc) (h : s.cval d i + n < 2 ^ 48) : s.applyInc d i n c src = s.increased d i n c src :=
  if_neg (Nat.not_le.mpr h)

/-- A counter that takes an increment applies it at once. -/
theorem State.increment_takes (h : s.Takes d i e n) (src : IncSrc) : s.increment d i n c src = s.increased d i n c src := by
  simp only [State.increment, State.poisoned_of_sound h.sound, State.partner_single h.single, State.applyInc_room src h.room,
    Bool.false_eq_true, if_false]

theorem State.increment_poisoned (r : SyncReq) (h : s.get (F.SYN_PCNT_W0.poison d i) = 1) :
    s.increment d i n c (.sig r) = s.syncDone r 1 (s.back r d c) :=
  if_pos (State.poisoned_iff.mpr h)

end

/-! Arrivals (R328, R330, R331). -/

section
variable {s : State} {p d i e c : Nat} {r : SyncReq}

/-- A request whose counter is still bound in its epoch finds it. -/
theorem State.arrive_finds {isWait : Bool} (h : s.Finds p isWait r d i e c) (hb : s.get (F.SYN_PCNT_W0.bound d i) = 1)
    (he : s.get (F.SYN_PCNT_W0.epoch d i) = e) (k : State → Nat → Nat → Nat → State) :
    (s.dropReq r).arrive r k = k (s.dropReq r) d i c := by
  have hfound : ((s.dropReq r).bound d i && (s.dropReq r).get (F.SYN_PCNT_W0.epoch d i) == e) = true := by
    simp [State.bound, show (s.dropReq r).get = s.get from rfl, hb, he]
  simp only [State.arrive, h.target]
  exact (if_pos hfound).trans (congrArg (k _ d i) h.cycle.symm)

theorem State.sigArrival_finds (h : s.Finds p false r d i e c) (hb : s.get (F.SYN_PCNT_W0.bound d i) = 1)
    (he : s.get (F.SYN_PCNT_W0.epoch d i) = e) : s.sigArrival p = (s.dropReq r).increment d i r.op.val c (.sig r) := by
  simp only [State.sigArrival, h.next, State.arrive_finds h hb he]

theorem State.waitArrival_finds (h : s.Finds p true r d i e c) (hb : s.get (F.SYN_PCNT_W0.bound d i) = 1)
    (he : s.get (F.SYN_PCNT_W0.epoch d i) = e) : s.waitArrival p =
      if s.poisoned d i = true then ((s.dropReq r).syncDone r 1 (s.back r d c)).synAbandon d 1
      else ((s.dropReq r).setCnt d i { s.cnt d i with waiters := (s.cnt d i).waiters ++ [⟨r, c⟩] }).wake d i
        ((s.cnt d i).meets (s.cval d i) r.op.val c ((s.cnt d i).recent.length + 1)) := by
  simp only [State.waitArrival, h.next, State.arrive_finds h hb he]
  rfl

end

/-! Binding (R326, R327, R332). -/

section
variable {s : State} {d i c : Nat} {v : Word}

/-- A counter to be bound in no pair, which no bound counter names as its partner. -/
theorem State.pairOk_single (ctx : Nat) (hpair : s.get (F.SYN_PCNT_W2.pair_v d i) = 0)
    (hmode : s.get (F.SYN_PCNT_W2.rb_mode d i) < 2)
    (hnamed : ∀ q ∈ s.boundCounters, q.1 = d → s.get (F.SYN_PCNT_W2.pair_v d q.2) = 1 →
      s.get (F.SYN_PCNT_W2.partner d q.2) ≠ i) : s.pairOk d i ctx = true := by
  have hnone : (s.boundCounters.filter fun q => q.1 == d && s.get (F.SYN_PCNT_W2.pair_v d q.2) == 1 &&
      s.get (F.SYN_PCNT_W2.partner d q.2) == i) = [] := by
    refine List.filter_eq_nil_iff.mpr fun q hq h => ?_
    simp only [Bool.and_eq_true, beq_iff_eq] at h
    exact hnamed q hq h.1.1 h.1.2 h.2
  simp [State.pairOk, hpair, hmode, hnone]

theorem State.bind_bound (h : s.get (F.SYN_PCNT_W0.bound d i) = 1) : s.bind d i v c = s.put (F.SYN_CTL.reject d) 1 :=
  if_pos (by simp [State.bound_iff.mpr h])

/-- R327: an unbound counter whose checks pass. -/
theorem State.bind_binds (hwf : s.regsWf = true) (hbound : s.get (F.SYN_PCNT_W0.bound d i) = 0)
    (hfree : s.translate (v.field 16 6) (v.field 0 16) = none)
    (hquota : s.get (F.SYN_CTX_W0.used d (v.field 16 6)) < s.get (F.SYN_CTX_W0.quota d (v.field 16 6)))
    (hpair : s.pairOk d i (v.field 16 6) = true) (hctx : s.get (F.HCTX_STATUS.state (v.field 16 6)) ≠ 0) (hi : i < 4096) :
    s.bind d i v c =
      (((((((((s.put (F.SYN_PCNT_W1.vcid d i) (v.field 0 16)).put (F.SYN_PCNT_W1.ctx d i)
        (v.field 16 6)).put (F.SYN_PCNT_W1.bind d i) 1).put (F.SYN_PCNT_W0.value d i) 0).put (F.SYN_PCNT_W0.poison d i) 0).put
        (F.SYN_PCNT_W0.bound d i) 1).put (F.SYN_PCNT_W0.epoch d i) (s.get (F.SYN_PCNT_W0.epoch d i) + 1)).put
        (F.SYN_CTX_W0.used d (v.field 16 6)) (s.get (F.SYN_CTX_W0.used d (v.field 16 6)) + 1)).setCnt d i CntSt.fresh).retarget c := by
  have hs := State.sorted_of_regsWf hwf
  have hgo : (s.bound d i || (s.translate (v.field 16 6) (v.field 0 16)).isSome ||
      decide (s.get (F.SYN_CTX_W0.quota d (v.field 16 6)) ≤ s.get (F.SYN_CTX_W0.used d (v.field 16 6))) ||
      !s.pairOk d i (v.field 16 6) || s.get (F.HCTX_STATUS.state (v.field 16 6)) == 0) = false := by
    simp [State.bound, hbound, hfree, hpair, hctx, hquota]
  refine (if_neg (Bool.eq_false_iff.mp hgo)).trans ?_
  have hepoch := State.get_puts_off hs [(F.SYN_PCNT_W1.vcid d i, v.field 0 16), (F.SYN_PCNT_W1.ctx d i, v.field 16 6),
    (F.SYN_PCNT_W1.bind d i, 1), (F.SYN_PCNT_W0.value d i, 0), (F.SYN_PCNT_W0.poison d i, 0), (F.SYN_PCNT_W0.bound d i, 1)]
    (F.SYN_PCNT_W0.epoch d i) (by simp [RF.Off])
  have hused := State.get_puts_off hs [(F.SYN_PCNT_W1.vcid d i, v.field 0 16), (F.SYN_PCNT_W1.ctx d i, v.field 16 6),
    (F.SYN_PCNT_W1.bind d i, 1), (F.SYN_PCNT_W0.value d i, 0), (F.SYN_PCNT_W0.poison d i, 0), (F.SYN_PCNT_W0.bound d i, 1),
    (F.SYN_PCNT_W0.epoch d i, s.get (F.SYN_PCNT_W0.epoch d i) + 1)]
    (F.SYN_CTX_W0.used d (v.field 16 6)) (by simp [RF.Off]; omega)
  simp only [State.puts, List.foldl_cons, List.foldl_nil] at hepoch hused
  rw [hepoch, hused]

@[simp] theorem State.setCnt_get (s : State) (d i : Nat) (x : CntSt) (f : RF) : (s.setCnt d i x).get f = s.get f := rfl

@[simp] theorem State.setCnt_armedOn (s : State) (d i : Nat) (x : CntSt) (c w : Nat) :
    (s.setCnt d i x).armedOn c w = s.armedOn c w := rfl

theorem State.unbind_bound (h : s.get (F.SYN_PCNT_W0.bound d i) = 1) : s.unbind d i c v =
    let ctx := s.get (F.SYN_PCNT_W1.ctx d i)
    let u := s.abandon d i c
    (((u.put (F.SYN_PCNT_W0.bound d i) 0).put (F.SYN_PCNT_W1.bind d i) 0).put (F.SYN_CTX_W0.used d ctx)
      (u.get (F.SYN_CTX_W0.used d ctx) - 1)).retarget c := by
  rw [State.unbind, if_pos (State.bound_iff.mpr h)]

theorem State.storeError_abandons (hb : s.get (F.SYN_PCNT_W0.bound d i) = 1) (hp : s.get (F.SYN_PCNT_W0.poison d i) = 0) :
    s.storeError d i c = s.abandon d i c :=
  if_pos (by simp [State.bound_iff.mpr hb, State.poisoned_of_sound hp])

/-- R341: a counter that nobody waits on, which no armed slot and no enabled sequencer names. -/
theorem State.abandon_unnamed (hd : d < 4) (hi : i < 4096) (hwait : (s.cnt d i).waiters = []) (hheld : (s.cnt d i).held = [])
    (hmbs : s.get (F.MBS_CFG.enable (s.get (F.SYN_PCNT_W1.ctx d i))) = 0)
    (harmed : s.armedOn (s.get (F.SYN_PCNT_W1.ctx d i)) (s.get (F.SYN_PCNT_W1.vcid d i)) = []) :
    s.abandon d i c = (s.put (F.SYN_PCNT_W0.poison d i) 1).setCnt d i { s.cnt d i with waiters := [], held := [] } := by
  have hother (g : RF) (h : g.addr < 0x120000 ∨ 0x500000 ≤ g.addr) :
      (s.put (F.SYN_PCNT_W0.poison d i) 1).get g = s.get g :=
    State.get_put_other _ _ _ _ (by simp only; omega)
  have hctx : s.get (F.SYN_PCNT_W1.ctx d i) < 64 := Word.field_lt _ _ _
  have harmed' : (s.put (F.SYN_PCNT_W0.poison d i) 1).armedOn (s.get (F.SYN_PCNT_W1.ctx d i)) (s.get (F.SYN_PCNT_W1.vcid d i)) = [] := by
    rw [← harmed]
    refine List.filter_congr fun w hw => ?_
    rw [hother _ (.inr (by simp only; omega)), hother _ (.inr (by simp only; omega))]
  have hmbs' := (hother (F.MBS_CFG.enable (s.get (F.SYN_PCNT_W1.ctx d i))) (.inl (by simp only; omega))).trans hmbs
  simp only [State.abandon, hwait, hheld, List.foldl_nil, State.setCnt_armedOn, State.setCnt_get, harmed', hmbs',
    Nat.zero_ne_one, decide_false, Bool.false_and, Bool.false_eq_true, if_false]

end

end Sys2Proof.Machine
end

section
/-! The statements about requests at their counters and about binding, settled. -/

namespace Sys2Proof.Machine

/-- Settles O15: each request finds its counter, which takes it or has been abandoned. -/
theorem requestsArrive : Obligations.RequestsArrive := by
  intro s t p r d i e c hserved
  rw [exec_sigArrival hserved, exec_waitgeArrival hserved]
  refine ⟨fun hfinds htakes => ?applied, fun hfinds hbound hepoch hpois => ?refused,
    fun hfinds hbound hepoch hpois => ?waits, fun hfinds hbound hepoch hpois => ?abandoned⟩
  case applied =>
    have htakes' : (s.dropReq r).Takes d i e r.op.val := ⟨htakes.bound, htakes.epoch, htakes.sound, htakes.single, htakes.room⟩
    rw [State.sigArrival_finds hfinds htakes.bound htakes.epoch, State.increment_takes htakes']
  case refused =>
    rw [State.sigArrival_finds hfinds hbound hepoch, State.increment_poisoned (s := s.dropReq r) r hpois]
    rfl
  case waits =>
    rw [State.waitArrival_finds hfinds hbound hepoch, if_neg (by simp [State.poisoned_of_sound hpois])]
  case abandoned =>
    rw [State.waitArrival_finds hfinds hbound hepoch, if_pos (State.poisoned_iff.mpr hpois)]
    rfl

/-- Settles O16: each command by what it checks. -/
theorem countersBound : Obligations.CountersBound := by
  intro s d i v c hwf
  have hctx := Word.field_setBit v (k := 22) (lo := 16) (w := 6) (.inl (by decide))
  have hvcid := Word.field_setBit v (k := 22) (lo := 0) (w := 16) (.inl (by decide))
  rw [exec_bind, exec_unbind, exec_counterStoreError]
  refine ⟨fun hr hbound hfree hquota hpair hmode hnamed hstate => ?binds, fun hr hbound => ?again, fun hr hbound => ?unbinds,
    fun hbound hsound => congrArg _ (State.storeError_abandons hbound hsound),
    fun hwait hheld hmbs harmed => State.abandon_unnamed d.isLt i.isLt hwait hheld hmbs harmed⟩
  case binds =>
    rw [State.byHost_reached _ _ _ hr]
    have h := State.bind_binds (s := s) (d := d) (i := i) (c := c) (v := setBit v 22) hwf hbound
    rw [hctx, hvcid] at h
    exact congrArg _ (h hfree hquota (State.pairOk_single _ hpair hmode hnamed) hstate i.isLt)
  case again => rw [State.byHost_reached _ _ _ hr, State.bind_bound hbound]
  case unbinds => rw [State.byHost_reached _ _ _ hr, State.unbind_bound hbound]

end Sys2Proof.Machine
end

section
/-! SUPPORT. The flits of a synchronisation relation at the mirror's counter, host wait slots and doorbells (R338, R340,
R345, R346). -/

namespace Sys2Proof.Machine

theorem exec_syncAdd (at_ c : Nat) (s : State) : exec (.syncAdd at_ c) s = .next (s.syncAdd at_ c) := rfl
theorem exec_rebase (at_ c : Nat) (s : State) : exec (.rebase at_ c) s = .next (s.rebaseFlit at_ c) := rfl

/-! A flit that a unit takes, and its resolution (R266, R283). -/

section
variable {s u : State} {x : Flit}

theorem State.pop_get {q : Flit → Bool} (h : s.pop q = some (x, u)) (f : RF) : u.get f = s.get f := by
  obtain ⟨y, -, hy⟩ := Option.map_eq_some_iff.mp h
  obtain ⟨-, rfl⟩ := Prod.mk.inj hy
  exact congrArg (rget moduleReset · f) (State.freeBuf_kept _ _ _ _).1

theorem computePort_lt (d flow : Nat) : computePort d flow < 24 := by
  unfold computePort
  split <;> omega

theorem State.toDie_sent (s : State) (d flow vc : Nat) : s.Sent (s.toDie d flow vc) := by
  refine State.countTx_sent _ _ _ _ _ (computePort_lt d flow) ?_
  split
  · exact State.Sent.refl s
  · exact State.crossSpine_sent _ _ _ _ _ (State.Sent.refl s)

/-- The resolution of a flow's flit changes no word of the flow but W2. -/
theorem State.resolve_get (s : State) (i at_ : Nat) (last : Bool) (f : RF) (hoff : offSent f.addr)
    (hw : f.addr ≠ (F.FAB_FLOW_W2.resolved (flowDie i) (flowIdx i)).addr) : (s.resolve i at_ last).get f = s.get f := by
  refine Eq.trans ?_ (State.get_put_other s (F.FAB_FLOW_W2.resolved (flowDie i) (flowIdx i)) f
    ((s.flowResolved i + 1) % 2 ^ 24) hw)
  unfold State.resolve
  dsimp only
  split
  · exact (State.inject_sent _ _ _).off f hoff
  · rfl

theorem offSent_flow (i : Nat) {a : Nat} (h1 : 0x1040000 ≤ a) (h2 : a < 0x1040020) :
    offSent (a + 0x80000 * flowDie i + 0x20 * flowIdx i) := by
  have hidx : flowIdx i < 8192 := Nat.mod_lt i (by decide)
  unfold offSent
  omega

/-- A flow's words W0 and W3 as its flit `x` is taken and resolved. -/
theorem State.taken_get {q : Flit → Bool} (h : s.pop q = some (x, u)) (at_ : Nat) (last : Bool) {a : Nat}
    (ha : a = 0x1040000 ∨ a = 0x1040018) (lo w : Nat) :
    let f : RF := ⟨a + 0x80000 * flowDie x.flow + 0x20 * flowIdx x.flow, lo, w⟩
    ((u.reach at_).resolve x.flow at_ last).get f = s.get f ∧ (u.reach at_).get f = s.get f := by
  intro f
  have hreach : (u.reach at_).get f = s.get f :=
    (State.reach_get _ _ _ (offFab_flow _ (by omega) (by omega))).trans (State.pop_get h f)
  refine ⟨(State.resolve_get _ _ _ _ _ (offSent_flow _ (by omega) (by omega)) ?_).trans hreach, hreach⟩
  simp only [f]
  omega

end

/-! R338: a SYNC flit that passes every check. -/

section
variable {s u v : State} {x : Flit} {a c d i : Nat}

theorem State.syncFlit_mirrors {q : Flit → Bool} (h : s.pop q = some (x, u)) (k : State → Nat → Nat → State)
    (hv : (u.reach a).resolve x.flow a (x.f 11 1 == 1) = v) (hm : s.Mirrors v x d i) :
    (u.reach a).syncFlit x a k = k (v.toDie d x.flow x.vc) d i := by
  obtain ⟨hactive, hkind, hrecv, hmirror, hepoch, hfinds, hsound⟩ := hm
  have hw0 := State.taken_get h a (x.f 11 1 == 1) (.inl rfl)
  have hw3 := State.taken_get h a (x.f 11 1 == 1) (.inr rfl)
  rw [hv] at hw0 hw3
  have hfresh : ((u.reach a).flowState x.flow = 0 || (u.reach a).get (F.FAB_FLOW_W0.recv (flowDie x.flow) (flowIdx x.flow)) = 0) = false := by
    simp [State.flowState, hw0, hactive, hrecv]
  have hpass : (!v.flowActive x.flow || v.get (F.FAB_FLOW_W0.kind (flowDie x.flow) (flowIdx x.flow)) ≠ 2 ||
      v.get (F.FAB_FLOW_W0.recv (flowDie x.flow) (flowIdx x.flow)) = 0 ||
      v.get (F.FAB_FLOW_W3.mirror_v (flowDie x.flow) (flowIdx x.flow)) = 0) = false := by
    simp [State.flowActive, State.flowState, hw0, hw3, hactive, hkind, hrecv, hmirror]
  have hnow : v.flowEpoch x.flow = x.epoch := (hw0 _ _).1.trans hepoch
  rw [← (hw0 _ _).1, ← (hw3 _ _).2] at hfinds
  simp only [State.syncFlit, hfresh, Bool.false_eq_true, if_false, hv, hpass, hnow, ne_eq, not_true_eq_false, hfinds,
    State.poisoned_of_sound hsound]

theorem State.syncAdd_mirrors (h : (s.pop fun x => x.kind == 6 && x.f 68 2 == 0) = some (x, u))
    (hv : (u.reach a).resolve x.flow a (x.f 11 1 == 1) = v) (hm : s.Mirrors v x d i) :
    s.syncAdd a c = (v.toDie d x.flow x.vc).increment d i (x.bytes 0 6) c .remote := by
  simp only [State.syncAdd, h, State.syncFlit_mirrors h _ hv hm]

theorem State.rebaseFlit_mirrors (h : (s.pop fun x => x.kind == 6 && x.f 68 2 == 1) = some (x, u))
    (hv : (u.reach a).resolve x.flow a (x.f 11 1 == 1) = v) (hm : s.Mirrors v x d i)
    (hchk : s.get (F.FAB_FLOW_W3.chk (flowDie x.flow) (flowIdx x.flow)) = 1) :
    let t := v.toDie d x.flow x.vc
    let w := (t.synRebase d).put (F.FAB_FLOW_W3.failed (flowDie x.flow) (flowIdx x.flow)) 1
    s.rebaseFlit a c = if (t.absOf d i).toNat = x.bytes 8 8 then t else
      (w.drainRelation x.flow c).ctxEvent 6 (w.get (F.FAB_FLOW_W0.ctx (flowDie x.flow) (flowIdx x.flow))) := by
  have hkept : (v.toDie d x.flow x.vc).get (F.FAB_FLOW_W3.chk (flowDie x.flow) (flowIdx x.flow)) = 1 := by
    rw [(State.toDie_sent _ _ _ _).off _ (offSent_flow _ (by decide) (by decide)), ← hv,
      (State.taken_get h a _ (.inr rfl) _ _).1, hchk]
  simp only [State.rebaseFlit, h, State.syncFlit_mirrors h _ hv hm, hkept, Nat.one_ne_zero, decide_false, Bool.false_or,
    decide_eq_true_eq]

end

/-! Host wait slots (R345). -/

theorem exec_hostWaitArm (vf : Bool) (c w : Fin 64) (v : Word) (s : State) : exec (.hostWaitArm vf c w v) s =
    .next (s.byPage vf c (F.SYNW_HWAIT_W1.arm c w).addr fun s => s.armSlot vf c w (setBit v 28)) := rfl

theorem exec_hostWaitTargetWrite (vf : Bool) (c w : Fin 64) (v : BitVec 48) (s : State) :
    exec (.hostWaitTargetWrite vf c w v) s =
      .next (s.byPage vf c (F.SYNW_HWAIT_W0.target c w).addr fun s => s.hostTarget c w (v.setWidth 64)) := rfl

theorem exec_dbSig (vf : Bool) (c : Fin 64) (wide : Bool) (v : Word) (s : State) :
    exec (.dbSig vf c wide v) s = .next (s.byPage vf c (F.DB_SIG.n c).addr fun s => s.dbSig c wide v) := rfl

theorem exec_doorbellArrival (c : Fin 64) (cyc : Nat) (s : State) :
    exec (.doorbellArrival c cyc) s = .next (s.bellArrival c cyc) := rfl

section
variable {s : State} {c w d i e : Nat} {v : Word}

/-- An access of a context's page by the PF, or by the context's VF while the context is ACTIVE. -/
theorem State.byPage_reached {vf : Bool} {a : Nat} (k : State → State) (hvf : vf = true → s.get (F.HCTX_STATUS.state c) = 1)
    (hr : s.reached a = true) : s.byPage vf c a k = k s := by
  have hlive : (vf && !s.funcLive (c + 1)) = false := by
    cases vf with
    | false => rfl
    | true => simp [State.funcLive, hvf rfl]
  rw [State.byPage, hlive]
  exact s.byHost_reached a k hr

/-- A host wait slot with the fields of a write of its W1, but for arm. -/
def State.slotFields (s : State) (func c w : Nat) (v : Word) : State :=
  let s := ((s.put (F.SYNW_HWAIT_W1.vcid c w) (v.field 0 16)).put (F.SYNW_HWAIT_W1.vector c w) (v.field 16 11)).put
    (F.SYNW_HWAIT_W1.msix_en c w) (v.field 27 1)
  { s with syn := { s.syn with waitOwner := SMap.put s.syn.waitOwner (64 * c + w) func 0 } }

/-- The fields of W1 are no others of the slot, and none of a counter's. -/
theorem State.slotFields_get (func : Nat) (g : RF) (hg : g.addr ≠ (F.SYNW_HWAIT_W1.arm c w).addr) :
    (s.slotFields func c w v).get g = s.get g := by
  have hother (u : State) (f : RF) (n : Nat) (hf : f.addr = (F.SYNW_HWAIT_W1.arm c w).addr) : (u.put f n).get g = u.get g :=
    State.get_put_other _ _ _ _ (hf ▸ hg)
  show (State.put (State.put (State.put s _ _) _ _) _ _).get g = _
  rw [hother _ (F.SYNW_HWAIT_W1.msix_en c w) _ rfl, hother _ (F.SYNW_HWAIT_W1.vector c w) _ rfl,
    hother _ (F.SYNW_HWAIT_W1.vcid c w) _ rfl]

/-- A slot whose counter has not reached its target waits. -/
theorem State.hostArm_waits (func : Nat)
    (hfound : (s.slotFields func c w v).translate c (v.field 0 16) = some (d, i, e))
    (hvec : v.field 16 11 < msixSize func) (hsound : s.get (F.SYN_PCNT_W0.poison d i) = 0)
    (hless : s.cval d i < s.get (F.SYNW_HWAIT_W0.target c w)) : s.hostArm func c w v =
      ((s.slotFields func c w v).put (F.SYNW_HWAIT_W2.state c w) 1).put (F.SYNW_HWAIT_W1.arm c w) 1 := by
  have hkept := State.slotFields_get (s := s) (c := c) (w := w) (v := v) func
  have hpois : (s.slotFields func c w v).poisoned d i = false :=
    State.poisoned_of_sound ((hkept _ (by simp only; omega)).trans hsound)
  have harmed (g : RF) (h1 : g.addr ≠ (F.SYNW_HWAIT_W1.arm c w).addr) (h2 : g.addr ≠ (F.SYNW_HWAIT_W2.state c w).addr) :
      (((s.slotFields func c w v).put (F.SYNW_HWAIT_W2.state c w) 1).put (F.SYNW_HWAIT_W1.arm c w) 1).get g = s.get g :=
    (State.get_put_other _ _ _ _ h1).trans ((State.get_put_other _ _ _ _ h2).trans (hkept _ h1))
  have hval := harmed (F.SYN_PCNT_W0.value d i) (by simp only; omega) (by simp only; omega)
  have htarget := harmed (F.SYNW_HWAIT_W0.target c w) (by simp only; omega) (by simp only; omega)
  have hgo := hfound
  simp only [State.slotFields] at hgo hpois hval htarget ⊢
  simp only [State.hostArm, hgo, Nat.not_le.mpr hvec, decide_false, Bool.false_eq_true, if_false, hpois, State.cval, hval,
    htarget]
  exact if_neg (Nat.not_le.mpr hless)

/-- A slot that is not armed takes its target. -/
theorem State.hostTarget_idle (h : s.get (F.SYNW_HWAIT_W2.state c w) ≠ 1) :
    s.hostTarget c w v = s.put (F.SYNW_HWAIT_W0.target c w) (v.field 0 48) :=
  if_neg fun hst => h ((State.get_put_other _ _ _ _ (by simp)).symm.trans hst)

/-! Doorbells (R346). -/

theorem State.dbSig_accepted (hfound : s.translate c (v.field 48 16) = some (d, i, e))
    (hactive : s.get (F.HCTX_STATUS.state c) = 1) (hlow : 1 ≤ v.field 0 48)
    (hhigh : v.field 0 48 ≤ s.get (F.SYN_CTX_W1.max_add d c)) (hsound : s.get (F.SYN_PCNT_W0.poison d i) = 0) :
    s.dbSig c true v = { s with syn := { s.syn with bells := s.syn.bells ++ [⟨c, d, i, e, v.field 0 48⟩] } } := by
  simp only [State.dbSig, hfound, hactive, hlow, hhigh, State.poisoned_of_sound hsound, beq_self_eq_true, decide_true,
    Bool.not_false, Bool.and_self]

theorem State.dbSig_rejected {wide : Bool} (h : s.translate c (v.field 48 16) = none ∨ v.field 0 48 = 0 ∨ wide = false) :
    s.dbSig c wide v = s.bellRejected c := by
  cases hfound : s.translate c (v.field 48 16) with
  | none => simp only [State.dbSig, hfound]
  | some q =>
    have hbad : (wide && s.get (F.HCTX_STATUS.state c) == 1 && decide (1 ≤ v.field 0 48) &&
        decide (v.field 0 48 ≤ s.get (F.SYN_CTX_W1.max_add q.1 c)) && !s.poisoned q.1 q.2.1) = false := by
      rcases h with h | h | h
      · simp [hfound] at h
      · simp [h]
      · simp [h]
    simp only [State.dbSig, hfound, hbad]

theorem State.bellArrival_takes {b : Doorbell} {l : List Doorbell} {cyc : Nat} (h : takeBell c s.syn.bells = some (b, l))
    (ht : s.Takes b.die b.idx b.epoch b.n) : s.bellArrival c cyc =
      ({ s with syn := { s.syn with bells := l } } : State).increased b.die b.idx b.n cyc (.bell c) := by
  have ht' : ({ s with syn := { s.syn with bells := l } } : State).Takes b.die b.idx b.epoch b.n :=
    ⟨ht.bound, ht.epoch, ht.sound, ht.single, ht.room⟩
  simp only [State.bellArrival, h, State.bound_iff.mpr ht'.bound, ht'.epoch, State.poisoned_of_sound ht'.sound, decide_true,
    Bool.not_false, Bool.and_self, if_true, State.increment_takes ht']

end

end Sys2Proof.Machine
end

section
/-! The statements about relations, host wait slots and doorbells, settled. -/

namespace Sys2Proof.Machine

/-- Settles O17: a flit that passes R338's checks meets the mirror's counter. -/
theorem relationFlits : Obligations.RelationFlits := by
  intro s u x a c d i e hwf v t
  rw [exec_syncAdd, exec_rebase]
  refine ⟨fun hpop hm htakes => ?add, fun hpop hm hchk heq => ?agrees, fun hpop hm hchk hne => ?fails⟩
  case add => rw [State.syncAdd_mirrors hpop rfl hm, State.increment_takes htakes]
  case agrees => rw [State.rebaseFlit_mirrors hpop rfl hm hchk, if_pos heq]
  case fails => exact congrArg _ ((State.rebaseFlit_mirrors hpop rfl hm hchk).trans (if_neg hne))

/-- Settles O18: what arms a slot or rings a doorbell, by the checks of each write. -/
theorem hostWaitsAndDoorbells : Obligations.HostWaitsAndDoorbells := by
  intro s vf c w v tgt wide d i e hwf hvf func u
  rw [exec_hostWaitArm, exec_hostWaitTargetWrite, exec_dbSig]
  have hfield {lo n : Nat} (h : lo + n ≤ 28) := Word.field_setBit v (k := 28) (lo := lo) (w := n) (.inl h)
  refine ⟨fun hr hfound hvec hsound hd hi hless => ?armed, fun hr hidle => ?target,
    fun hr hfound hwide hactive hlow hhigh hsound => ?accepted, fun hr hbad => ?rejected,
    fun b l cyc hbell htakes => (exec_doorbellArrival c cyc s).trans (congrArg _ (State.bellArrival_takes hbell htakes))⟩
  case armed =>
    have hu : s.slotFields func c w (setBit v 28) = u := by
      rw [State.slotFields, hfield (lo := 0) (n := 16) (by decide), hfield (lo := 16) (n := 11) (by decide),
        hfield (lo := 27) (n := 1) (by decide)]
      rfl
    rw [State.byPage_reached _ hvf hr, ← hu]
    refine congrArg _ (State.hostArm_waits (e := e) func ?_ ?_ hsound hless)
    · rw [hu, hfield (by decide)]
      exact hfound
    · rw [hfield (by decide)]
      exact hvec
  case target =>
    have hlow : Word.field (tgt.setWidth 64) 0 48 = tgt.toNat := by
      simp [Word.field, BitVec.extractLsb', Nat.mod_eq_of_lt tgt.isLt]
    rw [State.byPage_reached _ hvf hr, State.hostTarget_idle hidle, hlow]
  case accepted => rw [State.byPage_reached _ hvf hr, hwide, State.dbSig_accepted hfound hactive hlow hhigh hsound]
  case rejected =>
    rw [State.byPage_reached _ hvf hr, State.dbSig_rejected hbad]
    rfl

end Sys2Proof.Machine
end

section
/-! SUPPORT. What a microbatch sequencer comes to at each of its commands (R350-R355). -/

namespace Sys2Proof.Machine

theorem exec_mbsEnable (c : Fin 64) (v : Word) (s : State) : exec (.mbsEnable c v) s =
    .next (s.byHost (F.MBS_CFG.enable c).addr fun s => s.mbsEnable c (setBit v 0)) := rfl

theorem exec_mbsDisable (c : Fin 64) (v : Word) (s : State) : exec (.mbsDisable c v) s =
    .next (s.byHost (F.MBS_CFG.enable c).addr fun s => s.mbsDisable c (clearBit v 0)) := rfl

theorem exec_openStep (c : Fin 64) (s : State) :
    exec (.openStep c) s = .next (s.byHost (F.MBS_CMD.open c).addr fun s => s.mbsOpen c) := rfl

theorem exec_mbsReset (c : Fin 64) (s : State) :
    exec (.mbsReset c) s = .next (s.byHost (F.MBS_CMD.reset c).addr fun s => s.mbsReset c) := rfl

theorem exec_unitRelease (c : Fin 64) (at_ cyc : Nat) (s : State) :
    exec (.unitRelease c at_ cyc) s = .next (s.unitRelease c at_ cyc) := rfl

theorem exec_stepClose (c : Fin 64) (at_ : Nat) (s : State) : exec (.stepClose c at_) s = .next (s.stepClose c at_) := rfl

/-! What a write of a register below the counters' leaves of translation (R328). -/

theorem SMap.filterMap_put {α β : Type} [DecidableEq α] (m : SMap α) (i : Nat) (v d : α) (g : Nat → Option β) (h : g i = none) :
    (SMap.put m i v d).filterMap (fun q => g q.1) = m.filterMap fun q => g q.1 := by
  have hdel : ∀ m : SMap α, (SMap.del m i).filterMap (fun q => g q.1) = m.filterMap fun q => g q.1 := by
    intro m
    induction m with
    | nil => rfl
    | cons q m ih =>
      unfold SMap.del
      split
      · rfl
      · split
        case isTrue hq => rw [List.filterMap_cons_none (hq ▸ h)]
        case isFalse => simp only [List.filterMap_cons, ih]
  have hins : ∀ m : SMap α, (SMap.ins m i v).filterMap (fun q => g q.1) = m.filterMap fun q => g q.1 := by
    intro m
    induction m with
    | nil => exact List.filterMap_cons_none h
    | cons q m ih =>
      unfold SMap.ins
      split
      · exact List.filterMap_cons_none h
      · split
        case isTrue hq =>
          have hgone := List.filterMap_cons_none (f := fun q : Nat × α => g q.1) (a := q) (l := m) (hq ▸ h)
          exact Eq.trans (List.filterMap_cons_none h) hgone.symm
        case isFalse => simp only [List.filterMap_cons, ih]
  unfold SMap.put
  split
  · exact hdel m
  · exact hins m

section
variable {s : State} {f : RF} {n c v : Nat} (hf : f.addr < 0x120000)
include hf

theorem State.put_boundCounters : (s.put f n).boundCounters = s.boundCounters := by
  have hnone : pcntOf f.addr = none := by
    unfold pcntOf
    exact if_neg (by simp; omega)
  have hget (d i : Nat) : (s.put f n).get (F.SYN_PCNT_W0.bound d i) = s.get (F.SYN_PCNT_W0.bound d i) :=
    State.get_put_other _ _ _ _ (by simp only; omega)
  unfold State.boundCounters
  simp only [hget]
  exact SMap.filterMap_put s.regs f.addr _ _ (fun a => match pcntOf a with
    | some (d, i) => if s.get (F.SYN_PCNT_W0.bound d i) = 1 then some (d, i) else none
    | none => none) (by rw [hnone])

theorem State.put_get_counter {g : RF} (h : 0x120000 ≤ g.addr) : (s.put f n).get g = s.get g :=
  State.get_put_other _ _ _ _ (by omega)

theorem State.put_translate : (s.put f n).translate c v = s.translate c v := by
  have hctx (d i : Nat) := State.put_get_counter (s := s) (n := n) hf (g := F.SYN_PCNT_W1.ctx d i) (by simp only; omega)
  have hvcid (d i : Nat) := State.put_get_counter (s := s) (n := n) hf (g := F.SYN_PCNT_W1.vcid d i) (by simp only; omega)
  have hepoch (d i : Nat) := State.put_get_counter (s := s) (n := n) hf (g := F.SYN_PCNT_W0.epoch d i) (by simp only; omega)
  simp only [State.translate, State.put_boundCounters hf, hctx, hvcid, hepoch]

theorem State.put_absCount : (s.put f n).absCount c v = s.absCount c v := by
  have hval (d i : Nat) := State.put_get_counter (s := s) (n := n) hf (g := F.SYN_PCNT_W0.value d i) (by simp only; omega)
  simp only [State.absCount, State.put_translate hf, State.absOf, State.cval, hval]
  rfl

end

@[simp] theorem State.setMbs_get (s : State) (c : Nat) (x : MbsSt) (g : RF) : (s.setMbs c x).get g = s.get g := rfl

/-! The host's commands (R353-R355). -/

theorem mbsCfgMask_setBit (v : Word) : setBit v 0 &&& mbsCfgMask = v &&& mbsCfgMask := by
  have hbit : 1#64 <<< 0 &&& mbsCfgMask = 0#64 := by decide
  rw [setBit, BitVec.and_comm, BitVec.and_or_distrib_left, BitVec.and_comm _ (1#64 <<< 0), hbit, BitVec.or_zero,
    BitVec.and_comm]

theorem mbsCfgMask_clearBit (v : Word) : clearBit v 0 &&& mbsCfgMask = v &&& mbsCfgMask := by
  have hbit : ~~~(1#64 <<< 0) &&& mbsCfgMask = mbsCfgMask := by decide
  rw [clearBit, BitVec.and_assoc, hbit]

section
variable {s : State} {c : Nat} {v : Word}

theorem State.mbsOn_iff : s.mbsOn c = true ↔ s.get (F.MBS_CFG.enable c) = 1 := by simp [State.mbsOn]

theorem State.mbsOn_of_disabled (h : s.get (F.MBS_CFG.enable c) = 0) : s.mbsOn c = false := by simp [State.mbsOn, h]

theorem State.mbsEnable_starts (h : s.get (F.MBS_CFG.enable c) = 0) : s.mbsEnable c v =
    let n := s.setWord (mbsBase c) ((v &&& mbsCfgMask) ||| 1)
    if n.mbsCounters c = true then n.put (F.MBS_STATUS.halted c) 0 else s.put (F.MBS_STATUS.cfg_reject c) 1 :=
  if_neg (by simp [State.mbsOn_of_disabled h])

theorem State.mbsEnable_runs (h : s.get (F.MBS_CFG.enable c) = 1) : s.mbsEnable c v =
    if s.word (mbsBase c) &&& mbsCfgMask = v &&& mbsCfgMask then s else s.put (F.MBS_STATUS.cfg_reject c) 1 :=
  if_pos (State.mbsOn_iff.mpr h)

theorem State.mbsDisable_stops (h : s.get (F.MBS_CFG.enable c) = 1) : s.mbsDisable c v =
    if s.word (mbsBase c) &&& mbsCfgMask = v &&& mbsCfgMask then s.put (F.MBS_CFG.enable c) 0
    else (s.put (F.MBS_CFG.enable c) 0).put (F.MBS_STATUS.cfg_reject c) 1 :=
  if_pos (State.mbsOn_iff.mpr h)

theorem State.mbsOpen_opens (h : s.get (F.MBS_CFG.enable c) = 1) (ho : (s.mbs c).isOpen = false) :
    s.mbsOpen c = s.openStep c :=
  if_pos (by simp [State.mbsOn_iff.mpr h, ho])

/-- A sequencer that has been reset, with its queues empty and nothing of its step released. -/
def State.mbsEmptied (s : State) (c : Nat) : State :=
  (((s.setMbs c { s.mbs c with fwd := [], bwd := [], isOpen := false }).put (F.MBS_STATUS.released c) 0).put
    (F.MBS_STATUS.completed c) 0).put (F.MBS_STATUS.phase c) 0

/-- A baseline follows a counter that translates (R354). -/
def State.rebaseline (s : State) (c : Nat) (f : RF) (k : Nat) : State := match s.absCount c k with
  | some a => s.put f a
  | none => s

theorem State.rebaseline_some {f : RF} {k a : Nat} (h : s.absCount c k = some a) : s.rebaseline c f k = s.put f a := by
  simp only [State.rebaseline, h]

theorem State.mbsReset_eq (h : s.get (F.MBS_CFG.enable c) = 0) : s.mbsReset c =
    let e := s.mbsEmptied c
    ((e.rebaseline c (F.MBS_DBASE.base c) (e.get (F.MBS_VC.vc_done c))).rebaseline c (F.MBS_FBASE.base c)
      (e.get (F.MBS_VC.vc_fgate c))).rebaseline c (F.MBS_BBASE.base c) (e.get (F.MBS_VC.vc_bgate c)) :=
  if_neg (by simp [State.mbsOn_of_disabled h])

theorem State.mbsReset_rebases (hc : c < 64) (h : s.get (F.MBS_CFG.enable c) = 0) {x y z : Nat}
    (hx : s.absCount c (s.get (F.MBS_VC.vc_done c)) = some x) (hy : s.absCount c (s.get (F.MBS_VC.vc_fgate c)) = some y)
    (hz : s.absCount c (s.get (F.MBS_VC.vc_bgate c)) = some z) : s.mbsReset c =
      (((s.mbsEmptied c).put (F.MBS_DBASE.base c) x).put (F.MBS_FBASE.base c) y).put (F.MBS_BBASE.base c) z := by
  have hbits (lo w n : Nat) (s : State) (k : Nat) : (s.put ⟨0x12020 + 0x80 * c, lo, w⟩ n).absCount c k = s.absCount c k :=
    State.put_absCount (by simp only; omega)
  have hget (g : RF) (hg : g.addr ≠ 0x12020 + 0x80 * c) : (s.mbsEmptied c).get g = s.get g :=
    (State.get_put_other _ _ _ _ hg).trans ((State.get_put_other _ _ _ _ hg).trans (State.get_put_other _ _ _ _ hg))
  have habs (k : Nat) : (s.mbsEmptied c).absCount c k = s.absCount c k :=
    (hbits _ _ _ _ k).trans ((hbits _ _ _ _ k).trans (hbits _ _ _ _ k))
  have hbase (u : State) (a n k : Nat) (ha : a < 0x12100) : (u.put ⟨a + 0x80 * c, 0, 64⟩ n).absCount c k = u.absCount c k :=
    State.put_absCount (by simp only; omega)
  have hdone := (habs _).trans hx
  have hfgate := (hbase (s.mbsEmptied c) 0x12030 x _ (by decide)).trans ((habs _).trans hy)
  have hbgate := (hbase ((s.mbsEmptied c).put (F.MBS_DBASE.base c) x) 0x12038 y _ (by decide)).trans
    ((hbase (s.mbsEmptied c) 0x12030 x _ (by decide)).trans ((habs _).trans hz))
  simp only [State.mbsReset_eq h, hget (F.MBS_VC.vc_done c) (by simp), hget (F.MBS_VC.vc_fgate c) (by simp),
    hget (F.MBS_VC.vc_bgate c) (by simp)]
  rw [State.rebaseline_some hdone, State.rebaseline_some hfgate, State.rebaseline_some hbgate]

end

/-! Units (R352). -/

section
variable {s : State} {c a cyc : Nat}

/-- No register below the fabric dies counts the fabric clock. -/
theorem State.reach_low (n : Nat) {g : RF} (h : g.addr < 0x1000000) : (s.reach n).get g = s.get g :=
  State.reach_get _ _ _ (by simp [offFab]; omega)

/-- The entry of MBS_REL for the next unit of a step, an F unit. -/
def State.fwdEntry (s : State) (c : Nat) : Word :=
  BitVec.ofNat 64 ((s.mbs c).fwd.headD 0 + 1 * 2 ^ 8 + s.get (F.MBS_STATUS.released c) * 2 ^ 10 +
    s.get (F.MBS_STEP.step c) * 2 ^ 20)

/-- The sequencer once its next unit, an F unit, has been taken. -/
def State.fwdTaken (s : State) (c : Nat) : State :=
  let r := s.get (F.MBS_STATUS.released c)
  ((s.setMbs c { s.mbs c with fwd := (s.mbs c).fwd.tail, rel := (s.mbs c).rel.set (r % 8) (s.fwdEntry c) }).put
    (F.MBS_STATUS.released c) (r + 1)).put (F.MBS_STATUS.phase c) 1

/-- An F unit without a gate, of an open step whose counters all translate, is released. -/
theorem State.unitRelease_fwd {w : State} (hc : c < 64) (hw : (s.reach a).mbsUpdate c = w)
    (hon : s.get (F.MBS_CFG.enable c) = 1) (hlive : (s.reach a).mbsCounters c = true)
    (hon' : w.get (F.MBS_CFG.enable c) = 1) (hopen' : (w.mbs c).isOpen = true) (hruns : w.get (F.MBS_STATUS.halted c) = 0)
    (hfwd : w.get (F.MBS_STATUS.released c) ≤ w.get (F.MBS_CFG.nmb_m1 c))
    (hdepth : w.get (F.MBS_STATUS.released c) - w.get (F.MBS_STATUS.completed c) ≤ w.get (F.MBS_CFG.depth_m1 c))
    (hgate : w.get (F.MBS_CFG.fgate_en c) = 0) : s.unitRelease c a cyc =
      ((w.fwdTaken c).unitInc 0 c (w.get (F.MBS_VC.vc_rel c)) 1 cyc).skbUnit c a (w.get (F.MBS_STEP.step c)) 1
        ((w.mbs c).fwd.headD 0) (w.get (F.MBS_STATUS.released c)) := by
  have hnow : (s.reach a).mbsOn c = true := State.mbsOn_iff.mpr ((State.reach_low a (by simp only; omega)).trans hon)
  have hstep : ((s.reach a).mbsOn c && ((s.reach a).mbs c).isOpen && !(s.reach a).mbsCounters c) = false := by simp [hlive]
  have hphase : w.mbsPhase c (w.mbsR c) = 1 := if_pos (Nat.lt_succ_of_le hfwd)
  have hgo : w.mbsEligible c = true := by
    have hunit : w.mbsR c < w.mbsU c := by
      unfold State.mbsU State.mbsM State.mbsR
      omega
    have hroom : w.mbsR c - w.mbsC c < w.get (F.MBS_CFG.depth_m1 c) + 1 := Nat.lt_succ_of_le hdepth
    simp [State.mbsEligible, hphase, hopen', State.mbsOn_iff.mpr hon', hruns, hunit, hroom, hgate]
  have hrel : (w.fwdTaken c).get (F.MBS_VC.vc_rel c) = w.get (F.MBS_VC.vc_rel c) :=
    (State.get_put_other _ _ _ _ (by simp)).trans (State.get_put_other _ _ _ _ (by simp))
  rw [State.unitRelease, hstep, if_neg Bool.false_ne_true, hnow, if_pos rfl, hw, ← hrel]
  refine (if_neg (by simp [hgo])).trans ?_
  simp only [hphase]
  rfl

end

/-! The close of a step (R353, R364). -/

section
variable {s w : State} {c a step : Nat}

/-- A close that finds no entry touched records its step. -/
theorem State.watchClose_untouched (h : ∀ k < s.get (F.WCH_CTX_W0.size c),
    (WatchEntry.parse (s.entry (s.get (F.WCH_CTX_W0.base c) + k))).touched = false) :
    s.watchClose c step = s.put (F.WCH_CTX_W2.step_closed c) step := by
  unfold State.watchClose
  dsimp only
  generalize s.get (F.WCH_CTX_W0.size c) = n at h
  have hfold : ∀ (l : List Nat), (∀ k ∈ l, k < n) → ∀ g : State → Nat → State,
      (∀ k < n, g s k = s) → l.foldl g s = s := by
    intro l hl g hg
    induction l with
    | nil => rfl
    | cons k l ih => rw [List.foldl_cons, hg k (hl k List.mem_cons_self), ih fun j hj => hl j (List.mem_cons_of_mem k hj)]
  rw [hfold _ (fun k hk => List.mem_range.mp hk) _ fun k hk => by simp [h k hk]]

theorem State.snapshotDue_never (h : s.get (F.VRN_CTX_W0.every c) = 0) : s.snapshotDue c step = s :=
  if_pos (by simp [h])

/-- A sequencer whose step has closed: the next step's number and baselines, and the forward queue of its units. -/
def State.stepClosed (w : State) (c : Nat) : State :=
  let m := w.mbsM c
  let step := w.get (F.MBS_STEP.step c)
  ((((((((w.put (F.WCH_CTX_W2.step_closed c) step).put (F.MBS_STEP.step c) (step + 1)).put
    (F.MBS_DBASE.base c) ((w.get (F.MBS_DBASE.base c) + w.mbsU c * w.mbsDone c) % 2 ^ 64)).put
    (F.MBS_FBASE.base c) ((w.get (F.MBS_FBASE.base c) + m * w.mbsF c) % 2 ^ 64)).put
    (F.MBS_BBASE.base c) ((w.get (F.MBS_BBASE.base c) + m * w.mbsB c) % 2 ^ 64)).put
    (F.MBS_STATUS.released c) 0).put (F.MBS_STATUS.completed c) 0).put (F.MBS_STATUS.phase c) 0).setMbs c
      { w.mbs c with fwd := List.range m, bwd := [], isOpen := false }

/-- The books of a step's close, each field written after the one before it. -/
def State.stepBooked (s : State) (c u : Nat) : State :=
  let add (f : RF) (n : Nat) (s : State) : State := s.put f ((s.get f + n) % 2 ^ 64)
  let s := add (F.MBS_BBASE.base c) (s.mbsM c * s.mbsB c) (add (F.MBS_FBASE.base c) (s.mbsM c * s.mbsF c)
    (add (F.MBS_DBASE.base c) (u * s.mbsDone c) s))
  let s := ((s.put (F.MBS_STATUS.released c) 0).put (F.MBS_STATUS.completed c) 0).put (F.MBS_STATUS.phase c) 0
  s.setMbs c { s.mbs c with fwd := List.range (s.mbsM c), bwd := [], isOpen := false }

theorem State.stepBooked_eq (hc : c < 64) : ((w.put (F.WCH_CTX_W2.step_closed c) (w.get (F.MBS_STEP.step c))).put
    (F.MBS_STEP.step c) (w.get (F.MBS_STEP.step c) + 1)).stepBooked c (w.mbsU c) = w.stepClosed c := by
  simp (disch := (simp only; omega)) only [State.stepBooked, State.stepClosed, State.mbsM, State.mbsDone, State.mbsF,
    State.mbsB, State.get_put_other]
  rfl

theorem State.stepClose_closes (hc : c < 64) (hw : (s.reach a).mbsUpdate c = w) (hon : s.get (F.MBS_CFG.enable c) = 1)
    (hopen : (s.mbs c).isOpen = true) (hruns : s.get (F.MBS_STATUS.halted c) = 0) (hdone : w.mbsC c = w.mbsU c)
    (hlast : w.get (F.MBS_STEP.step c) < 2 ^ 36 - 1)
    (huntouched : ∀ k < w.get (F.WCH_CTX_W0.size c),
      (WatchEntry.parse (w.entry (w.get (F.WCH_CTX_W0.base c) + k))).touched = false)
    (hevery : w.get (F.VRN_CTX_W0.every c) = 0) (hauto : w.get (F.MBS_CFG.auto_open c) = 0) :
    s.stepClose c a = w.stepClosed c := by
  have hlow {g : RF} (h : g.addr < 0x1000000) := State.reach_low (s := s) a h
  have hgo : (!(s.reach a).mbsOn c || !((s.reach a).mbs c).isOpen || (s.reach a).get (F.MBS_STATUS.halted c) = 1) = false := by
    have hon' : (s.reach a).mbsOn c = true := State.mbsOn_iff.mpr ((hlow (by simp only; omega)).trans hon)
    have hopen' : ((s.reach a).mbs c).isOpen = true := hopen
    have hruns' := (hlow (g := F.MBS_STATUS.halted c) (by simp only; omega)).trans hruns
    simp [hon', hopen', hruns']
  have hnext : ¬ w.get (F.MBS_STEP.step c) = 2 ^ 36 - 1 := Nat.ne_of_lt hlast
  rw [State.stepClose, hgo, if_neg Bool.false_ne_true, hw]
  refine (if_neg (by omega)).trans ?_
  have hevery' : (w.stepClosed c).get (F.VRN_CTX_W0.every c) = 0 := by
    rw [← hevery]
    simp (disch := (simp only; omega)) only [State.stepClosed, State.setMbs_get, State.get_put_other]
  have hauto' : (w.stepClosed c).get (F.MBS_CFG.auto_open c) = 0 := by
    rw [← hauto]
    simp (disch := (simp only; omega)) only [State.stepClosed, State.setMbs_get, State.get_put_other]
  show (let z := (((w.watchClose c (w.get (F.MBS_STEP.step c))).put (F.MBS_STEP.step c)
      (if w.get (F.MBS_STEP.step c) = 2 ^ 36 - 1 then w.get (F.MBS_STEP.step c) else w.get (F.MBS_STEP.step c) + 1)).stepBooked c
        (w.mbsU c)).snapshotDue c (w.get (F.MBS_STEP.step c))
    if w.get (F.MBS_STEP.step c) = 2 ^ 36 - 1 then z.mbsHalt c
    else if z.get (F.MBS_CFG.auto_open c) = 1 then z.openStep c else z) = _
  rw [State.watchClose_untouched huntouched, if_neg hnext, if_neg hnext, State.stepBooked_eq hc,
    State.snapshotDue_never hevery', if_neg (by simp [hauto'])]

end

end Sys2Proof.Machine
end

section
/-! The statement about the microbatch sequencers, settled. -/

namespace Sys2Proof.Machine

/-- Settles O19: the host's commands by what each checks, then the release of a unit and the close of a step. -/
theorem microbatchSequencers : Obligations.MicrobatchSequencers := by
  intro s c v a cyc hwf
  rw [exec_mbsEnable, exec_mbsDisable, exec_openStep, exec_mbsReset, exec_unitRelease, exec_stepClose]
  refine ⟨fun hr hoff => ?enable, fun hr hon => ?again, fun hr hon => ?disable, fun hr hon hclosed => ?opens,
    fun hr hoff x y z hx hy hz => ?reset,
    fun hon _ hlive hon' hopen' hruns hfwd hdepth hgate => congrArg _
      (State.unitRelease_fwd c.isLt rfl hon hlive hon' hopen' hruns hfwd hdepth hgate),
    fun hon hopen hruns _ hdone hlast huntouched hevery hauto => congrArg _
      (State.stepClose_closes c.isLt rfl hon hopen hruns hdone hlast huntouched hevery hauto)⟩
  case enable =>
    rw [State.byHost_reached _ _ _ hr, State.mbsEnable_starts hoff, mbsCfgMask_setBit]
    rfl
  case again =>
    rw [State.byHost_reached _ _ _ hr, State.mbsEnable_runs hon, mbsCfgMask_setBit]
    rfl
  case disable =>
    rw [State.byHost_reached _ _ _ hr, State.mbsDisable_stops hon, mbsCfgMask_clearBit]
    rfl
  case opens =>
    rw [State.byHost_reached _ _ _ hr, State.mbsOpen_opens hon hclosed]
    rfl
  case reset =>
    rw [State.byHost_reached _ _ _ hr, State.mbsReset_rebases c.isLt hoff hx hy hz]
    rfl

end Sys2Proof.Machine
end

section
/-! SUPPORT. What the update watch and the exports come to at each of their commands (R362-R369). -/

namespace Sys2Proof.Machine

theorem exec_watchDelivery (s : State) : exec .watchDelivery s = .next s.watchDelivery := rfl

theorem exec_watchClose (c : Fin 64) (s : State) :
    exec (.watchClose c) s = .next (s.byHost (F.WCH_CTX_W0.close c).addr fun s => s.watchCloseWrite c) := rfl

theorem exec_wchCtxWrite (c : Fin 64) (v : Word) (s : State) :
    exec (.wchCtxWrite c v) s = .next (s.byHost (F.WCH_CTX_W0.close c).addr fun s => s.wchWrite c v) := rfl

theorem exec_wchAccRead (s : State) : exec .wchAccRead s = .next (s.byHost F.WCH_ACC_CMD.read.addr State.wchRead) := rfl

theorem exec_wchAccWrite (s : State) : exec .wchAccWrite s = .next (s.byHost F.WCH_ACC_CMD.read.addr State.wchAccWrite) := rfl

theorem exec_exportStart (x : Fin 4) (v : Word) (at_ cyc : Nat) (s : State) : exec (.exportStart x v at_ cyc) s =
    .next (s.byHost (F.EXP_CTL.start x).addr fun s => s.exportStart x (setBit v 0) at_ cyc) := rfl

theorem exec_exportAbort (x : Fin 4) (s : State) :
    exec (.exportAbort x) s = .next (s.byHost (F.EXP_CTL.start x).addr fun s => s.exportAbort x) := rfl

theorem exec_exportDone (x : Fin 4) (s : State) : exec (.exportDone x) s = .next (s.exportDone x) := rfl

/-! Records (R363, R364). -/

section
variable {s : State} {r : WatchRec} {l : List WatchRec}

/-- The records that wait, without the one taken. -/
def State.withRecords (s : State) (l : List WatchRec) : State := { s with train := { s.train with records := l } }

/-- The entry that a record reaches. -/
def State.reachedEntry (s : State) (r : WatchRec) : WEntry :=
  (WatchEntry.parse (s.entry (s.get (F.WCH_CTX_W0.base r.ctx) + r.layer))).reached r.skips

variable (h : s.train.records = r :: l)
include h

theorem State.watchDelivery_eq : s.watchDelivery =
    if s.get (F.WCH_CTX_W0.en r.ctx) = 0 || s.get (F.WCH_CTX_W0.size r.ctx) ≤ r.layer then
      (s.withRecords l).count F.WCH_CNT_RANGE.count 0x17 1
    else if r.poison || !fin64 r.r0 || !fin64 r.r1 then
      ((s.withRecords l).setEntry (s.get (F.WCH_CTX_W0.base r.ctx) + r.layer) { s.reachedEntry r with nonfin := true }.words).count
        F.WCH_CNT_NONFIN.count 0x16 1
    else (s.withRecords l).setEntry (s.get (F.WCH_CTX_W0.base r.ctx) + r.layer) ((s.reachedEntry r).summed r).words := by
  simp only [State.watchDelivery, h]
  rfl

theorem State.watchDelivery_outside (hout : s.get (F.WCH_CTX_W0.en r.ctx) = 0 ∨ s.get (F.WCH_CTX_W0.size r.ctx) ≤ r.layer) :
    s.watchDelivery = (s.withRecords l).count F.WCH_CNT_RANGE.count 0x17 1 :=
  (State.watchDelivery_eq h).trans (if_pos (by simpa using hout))

variable (hen : s.get (F.WCH_CTX_W0.en r.ctx) = 1) (hlayer : r.layer < s.get (F.WCH_CTX_W0.size r.ctx))
include hen hlayer

theorem State.watchDelivery_nonfinite (hbad : r.poison = true ∨ fin64 r.r0 = false ∨ fin64 r.r1 = false) : s.watchDelivery =
    ((s.withRecords l).setEntry (s.get (F.WCH_CTX_W0.base r.ctx) + r.layer) { s.reachedEntry r with nonfin := true }.words).count
      F.WCH_CNT_NONFIN.count 0x16 1 :=
  (State.watchDelivery_eq h).trans ((if_neg (by simp [hen, hlayer])).trans (if_pos (by simpa [or_assoc] using hbad)))

theorem State.watchDelivery_finite (hpois : r.poison = false) (h0 : fin64 r.r0 = true) (h1 : fin64 r.r1 = true) :
    s.watchDelivery = (s.withRecords l).setEntry (s.get (F.WCH_CTX_W0.base r.ctx) + r.layer) ((s.reachedEntry r).summed r).words :=
  (State.watchDelivery_eq h).trans ((if_neg (by simp [hen, hlayer])).trans (if_neg (by simp [hpois, h0, h1])))

end

/-! A context's window (R362, R364). -/

section
variable {s : State} {c step : Nat} {v : Word}

/-- The close of a window of one entry, which has been touched. -/
theorem State.watchClose_single (hsize : s.get (F.WCH_CTX_W0.size c) = 1)
    (htouched : (WatchEntry.parse (s.entry (s.get (F.WCH_CTX_W0.base c)))).touched = true) :
    let e := s.get (F.WCH_CTX_W0.base c)
    let y := (WatchEntry.parse (s.entry e)).close (Fmt.fp32.decode (s.get (F.WCH_CTX_W1.band_lo c)))
      (Fmt.fp32.decode (s.get (F.WCH_CTX_W1.band_hi c))) step
    s.watchClose c step = (if y.2 then (s.setEntry e y.1.words).count F.WCH_CNT_OUT.count 0x15 1
      else s.setEntry e y.1.words).put (F.WCH_CTX_W2.step_closed c) step := by
  simp only [State.watchClose, hsize, List.range_one, List.foldl_cons, List.foldl_nil, Nat.add_zero, htouched, Bool.not_true,
    Bool.false_eq_true, if_false]

/-- A window in range that meets no enabled context's: an enabled context keeps its own. -/
theorem State.wchWrite_accepts (hrange : v.field 0 15 + v.field 16 13 ≤ 32768) (hsize : v.field 16 13 ≤ 4096)
    (hapart : ∀ k : Nat, k < 64 → k ≠ c → s.get (F.WCH_CTX_W0.en k) = 1 →
      v.field 0 15 + v.field 16 13 ≤ s.get (F.WCH_CTX_W0.base k) ∨
        s.get (F.WCH_CTX_W0.base k) + s.get (F.WCH_CTX_W0.size k) ≤ v.field 0 15)
    (hkept : s.get (F.WCH_CTX_W0.en c) = 0 ∨ v.field 0 15 = s.get (F.WCH_CTX_W0.base c) ∧ v.field 16 13 = s.get (F.WCH_CTX_W0.size c))
    (hclose : v.field 33 1 = 0) : s.wchWrite c v = s.setWord (wchBase c) (v &&& 0x11FFF7FFF) := by
  have hhits : ((List.range 64).any fun k => k != c && s.get (F.WCH_CTX_W0.en k) == 1 &&
      decide (v.field 0 15 < s.get (F.WCH_CTX_W0.base k) + s.get (F.WCH_CTX_W0.size k)) &&
      decide (s.get (F.WCH_CTX_W0.base k) < v.field 0 15 + v.field 16 13)) = false := by
    refine List.any_eq_false.mpr fun k hk hhit => ?_
    simp only [Bool.and_eq_true, bne_iff_ne, beq_iff_eq, decide_eq_true_eq] at hhit
    obtain ⟨⟨⟨hne, hen⟩, hlow⟩, hhigh⟩ := hhit
    have := hapart k (List.mem_range.mp hk) hne hen
    omega
  have hsame : (s.get (F.WCH_CTX_W0.en c) == 1 && (decide (v.field 0 15 ≠ s.get (F.WCH_CTX_W0.base c)) ||
      decide (v.field 16 13 ≠ s.get (F.WCH_CTX_W0.size c)))) = false := by
    rcases hkept with hkept | ⟨hbase, hlen⟩
    · simp [hkept]
    · simp [hbase, hlen]
  have hgo := if_neg (c := v.field 33 1 = 1) (t := (s.setWord (wchBase c) (v &&& 0x11FFF7FFF)).watchCloseWrite c)
    (e := s.setWord (wchBase c) (v &&& 0x11FFF7FFF)) (h := inferInstance) (by simp [hclose])
  simp only [State.wchWrite, hhits, hsame]
  refine Eq.trans (if_neg ?_) hgo
  simp [hrange, hsize]

theorem State.wchWrite_rejects (h : 32768 < v.field 0 15 + v.field 16 13 ∨ 4096 < v.field 16 13) :
    s.wchWrite c v = s.put (F.WCH_CTX_W2.reject c) 1 :=
  if_pos (by rcases h with h | h <;> simp [h])

end

/-! The access registers (R365). -/

section
variable {s : State}

theorem WatchEntry.word_lt (x : WatchEntry) (k : Nat) : x.word k < 2 ^ 64 := (List.getD x k 0).isLt

/-- A read copies the entry's words into WCH_ACC_DATA, and changes nothing else. -/
theorem State.wchRead_copies (hwf : s.regsWf = true) :
    (∀ j < 16, s.wchRead.get (F.WCH_ACC_DATA.data j) = WatchEntry.word (s.entry (s.get F.WCH_ACC_ADDR.entry)) j) ∧
    (∀ f : RF, f.addr < 0x14840 ∨ 0x148C0 ≤ f.addr → s.wchRead.get f = s.get f) ∧ s.RegsOnly s.wchRead := by
  have hs := State.sorted_of_regsWf hwf
  refine ⟨fun j hj => ?_, fun f hf => ?_, State.RegsOnly.foldl_put (State.RegsOnly.refl s) _ F.WCH_ACC_DATA.data _⟩
  · refine (State.get_foldl_put_range 16 F.WCH_ACC_DATA.data (WatchEntry.word (s.entry (s.get F.WCH_ACC_ADDR.entry))) hs
      (fun i k hik => ?_) hj (by simp)).trans (Nat.mod_eq_of_lt (WatchEntry.word_lt _ _))
    simp only
    omega
  · refine State.get_foldl_put_other _ F.WCH_ACC_DATA.data _ s f fun k hk => ?_
    have := List.mem_range.mp hk
    simp only
    omega

/-- A write reaches an entry that no enabled context's window holds. -/
theorem State.wchAccWrite_free (h : ∀ k ∈ s.wchOwners (s.get F.WCH_ACC_ADDR.entry), s.get (F.WCH_CTX_W0.en k) = 0) :
    s.wchAccWrite = s.setEntry (s.get F.WCH_ACC_ADDR.entry)
      (WatchEntry.parse ((List.range 15).map fun j => s.word (0x14840 + 8 * j))).words := by
  have hnone : ((s.wchOwners (s.get F.WCH_ACC_ADDR.entry)).filter fun c => s.get (F.WCH_CTX_W0.en c) == 1) = [] :=
    List.filter_eq_nil_iff.mpr fun k hk => by simp [h k hk]
  simp only [State.wchAccWrite, hnone, List.isEmpty_nil, if_true]

end

/-! Export channels (R367-R369). -/

section
variable {s u : State} {x a cyc k : Nat} {v : Word}

/-- A channel that starts, with the destination and the context of the write of its EXP_CTL. -/
def State.channelFields (s : State) (x a : Nat) (v : Word) : State :=
  ((s.reach a).put (F.EXP_CTL.dest x) (v.field 2 1)).put (F.EXP_CTL.ctx x) (v.field 3 6)

theorem State.channelFields_get {g : RF} (hg : g.addr ≠ 0x15000 + 0x40 * x) (hlow : g.addr < 0x1000000) :
    (s.channelFields x a v).get g = s.get g :=
  (State.get_put_other _ _ _ _ hg).trans ((State.get_put_other _ _ _ _ hg).trans (State.reach_low a hlow))

section
variable (hx : x < 4) (hidle : s.get (F.EXP_STATUS.state x) ≠ 1)
include hx hidle

/-- A snapshot that no slot holds. -/
theorem State.exportStart_absent
    (hslot : (s.channelFields x a v).heldSlot (v.field 3 6) (s.get (F.EXP_SRC.snap x)) = none) : s.exportStart x v a cyc =
      (((s.channelFields x a v).put (F.EXP_STATUS.moved x) 0).put (F.EXP_STATUS.state x) 3).put (F.EXP_STATUS.cause x) 1 := by
  have hseq := State.channelFields_get (s := s) (x := x) (a := a) (v := v) (g := F.EXP_SRC.snap x) (by simp) (by simp only; omega)
  rw [← hseq] at hslot
  refine (if_neg hidle).trans ?_
  unfold State.channelFields at hslot ⊢
  simp only [hslot]

/-- A snapshot that one slot holds, and no other slot of the context is pinned. -/
theorem State.exportStart_host (hslot : (s.channelFields x a v).heldSlot (v.field 3 6) (s.get (F.EXP_SRC.snap x)) = some k)
    (hdest : v.field 2 1 = 0) (hpin : ∀ j < 5, j ≠ k → (s.channelFields x a v).pinned (v.field 3 6) j = false) :
    s.exportStart x v a cyc =
      (((((s.channelFields x a v).setPin (v.field 3 6) k true).put (F.EXP_LEN.len x)
        ((s.channelFields x a v).vslot (v.field 3 6) k).lens.sum).put (F.EXP_STATUS.moved x) 0).put
        (F.EXP_STATUS.cause x) 0).put (F.EXP_STATUS.state x) 1 := by
  have hseq := State.channelFields_get (s := s) (x := x) (a := a) (v := v) (g := F.EXP_SRC.snap x) (by simp) (by simp only; omega)
  rw [← hseq] at hslot
  have hfree : ((List.range 5).any fun j => j != k && (s.channelFields x a v).pinned (v.field 3 6) j) = false :=
    List.any_eq_false.mpr fun j hj => by
      by_cases hjk : j = k
      · simp [hjk]
      · simp [hpin j (List.mem_range.mp hj) hjk]
  refine (if_neg hidle).trans ?_
  unfold State.channelFields at hslot hfree ⊢
  simp only [hslot, hfree, Bool.false_eq_true, if_false]
  exact if_pos hdest

end

theorem State.exportStart_running (h : s.get (F.EXP_STATUS.state x) = 1) : s.exportStart x v a cyc = s := if_pos h

theorem State.exportAbort_running (h : s.get (F.EXP_STATUS.state x) = 1) : s.exportAbort x = s.channelEnd x 4 0 := if_pos h

/-- The bytes not yet moved are posted to the host. -/
theorem State.exportDone_host (hrun : s.get (F.EXP_STATUS.state x) = 1) (hdest : s.get (F.EXP_CTL.dest x) = 0)
    (hlink : s.canWriteHost = true) :
    let len := s.get (F.EXP_LEN.len x)
    let moved := s.get (F.EXP_STATUS.moved x)
    let r := s.snapBytes x moved (len - moved)
    s.exportDone x = ((r.2.2.post (.exportData x ((r.2.2.get (F.EXP_DST.addr x) + moved) % 2 ^ 64) (len - moved)
      (byteList r.1 (len - moved)))).put (F.EXP_STATUS.moved x) len).channelEnd x 2 0 := by
  refine (if_neg (not_not_intro hrun)).trans ((if_pos hdest).trans ?_)
  rw [hlink]
  rfl

theorem State.channelEnd_absent {st cause : Nat}
    (h : s.heldSlot (s.get (F.EXP_CTL.ctx x)) (s.get (F.EXP_SRC.snap x)) = none) :
    s.channelEnd x st cause = (s.put (F.EXP_STATUS.state x) st).put (F.EXP_STATUS.cause x) cause := by
  simp only [State.channelEnd, h]

end

end Sys2Proof.Machine
end

section
/-! The statements about the update watch and the exports, settled. -/

namespace Sys2Proof.Machine

/-- Settles O20: a record by what it holds, a close by what has been touched, and the window's and the access registers'
writes by what they check. -/
theorem updateWatch : Obligations.UpdateWatch := by
  intro s c v r l hwf u base x
  rw [exec_watchDelivery, exec_watchClose, exec_wchCtxWrite, exec_wchAccRead, exec_wchAccWrite]
  refine ⟨fun h hout => congrArg _ (State.watchDelivery_outside h hout),
    fun h hen hlayer hbad => congrArg _ (State.watchDelivery_nonfinite h hen hlayer hbad),
    fun h hen hlayer hpois h0 h1 => congrArg _ (State.watchDelivery_finite h hen hlayer hpois h0 h1), fun _ => rfl,
    fun hr huntouched => ?untouched, fun hr hsize => ?touched,
    fun hr hrange hsize hapart hkept hclose => ?window, fun hr hbad => ?refused, fun hr => ?read, fun hr hfree => ?write⟩
  all_goals rw [State.byHost_reached _ _ _ hr]
  case untouched => exact congrArg _ (State.watchClose_untouched huntouched)
  case touched =>
    intro e y htouched
    exact congrArg _ (State.watchClose_single hsize htouched)
  case window => exact congrArg _ (State.wchWrite_accepts hrange hsize hapart hkept hclose)
  case refused => exact congrArg _ (State.wchWrite_rejects hbad)
  case read => exact ⟨_, rfl, State.wchRead_copies hwf⟩
  case write => exact congrArg _ (State.wchAccWrite_free hfree)

/-- Settles O21: a start by the slot that holds the snapshot, and the two ends of a channel to the host. -/
theorem exportChannels : Obligations.ExportChannels := by
  intro s x v a cyc k hwf u seq
  have hdest := Word.field_setBit v (k := 0) (lo := 2) (w := 1) (.inr (by decide))
  have hctx := Word.field_setBit v (k := 0) (lo := 3) (w := 6) (.inr (by decide))
  have hu : s.channelFields x a (setBit v 0) = u := by
    rw [State.channelFields, hdest, hctx]
  rw [exec_exportStart, exec_exportAbort, exec_exportDone]
  refine ⟨fun hr hidle hslot => ?absent, fun hr hidle hslot hhost hpin => ?starts, fun hr hrun => ?running,
    fun hr hrun => ?aborted, fun hrun hhost hbme hspeed => congrArg _ (State.exportDone_host hrun hhost (by simp [State.canWriteHost, hbme, hspeed])),
    fun h st cause => State.channelEnd_absent h⟩
  all_goals rw [State.byHost_reached _ _ _ hr]
  case absent =>
    rw [← hu, ← hctx] at hslot
    rw [State.exportStart_absent x.isLt hidle hslot, hu]
  case starts =>
    rw [← hu, ← hctx] at hslot hpin
    rw [State.exportStart_host x.isLt hidle hslot (hdest.trans hhost) hpin, hu, hctx]
  case running => exact congrArg _ (State.exportStart_running hrun)
  case aborted => exact congrArg _ (State.exportAbort_running hrun)

end Sys2Proof.Machine
end

section
/-! The statements about the block's queue of commands, settled. -/

namespace Sys2Proof.Machine

/-- Settles O55: a queue that is not empty gives its front to the command's execution. -/
theorem stepRunsFrontCommand : Obligations.StepRunsFrontCommand := by
  intro s c rest
  rfl

/-- Settles O56: the empty queue selects the idle branch of a step. -/
theorem stepIdlesOnEmptyQueue : Obligations.StepIdlesOnEmptyQueue := by
  intro s hempty
  rw [step, hempty]

/-- Settles O59: a command keeps a good state good for the same queue. -/
theorem commandsKeepTheQueue : Obligations.CommandsKeepTheQueue := by
  intro i s u hs hrun
  have hgood := (State.canonical_iff_good s).mp hs
  exact (exec_keeps i s hgood u hrun).pend

end Sys2Proof.Machine
end

section
/-! SUPPORT. Doorbells (R409, R410): an armed threshold that is met rings, and ringing touches nothing of ERRC_THR after it
has cleared armed. -/

namespace Sys2Proof.Machine

theorem exec_errcUpdate (s : State) : exec .errcUpdate s = .next s.errcUpdate := rfl

theorem exec_errcThrArm (i : Fin 512) (v : Word) (s : State) : exec (.errcThrArm i v) s =
    .next (s.byHost (F.ERRC_THR.thr i).addr fun s => s.thrArm i (setBit v 50)) := rfl

section
variable (s : State) {i : Nat}

theorem State.checkDoorbell_met (harmed : s.get (F.ERRC_THR.armed i) = 1)
    (hmet : s.get (F.ERRC_THR.thr i) ≤ s.get (F.ERRC_CNT.count i)) : s.checkDoorbell i = s.ringDoorbell i :=
  if_pos (by simp [harmed, hmet])

theorem State.checkDoorbell_unarmed (harmed : s.get (F.ERRC_THR.armed i) = 0) : s.checkDoorbell i = s :=
  if_neg (by simp [harmed])

theorem State.checkDoorbell_below (hbelow : s.get (F.ERRC_CNT.count i) < s.get (F.ERRC_THR.thr i)) : s.checkDoorbell i = s :=
  if_neg (by simp [Nat.not_le.mpr hbelow])

theorem State.errcUpdate_first {n : Nat} {l : List (Nat × Nat)} (h : s.errcPending = (i, n) :: l) :
    s.errcUpdate = (({ s with errcPending := l } : State).add (F.ERRC_CNT.count i) n).checkDoorbell i := by
  rw [State.errcUpdate, h]

@[simp] theorem State.post_get (m : HostMsg) (f : RF) : (s.post m).get f = s.get f := rfl

@[simp] theorem State.pend_get (func vec : Nat) (f : RF) : (s.pend func vec).get f = s.get f := by
  unfold State.pend
  split <;> rfl

/-- A message of a function writes no register but the count of dropped ones. -/
theorem State.msix_get (func vec : Nat) {f : RF} (h : f.addr ≠ 0x50010) : (s.msix func vec).get f = s.get f := by
  unfold State.msix
  split
  · rw [State.add_get _ _ _ _ h]
    split
    · rfl
    · exact s.pend_get func vec f
  · split
    · exact s.pend_get func vec f
    · rfl

/-- A ring entry writes no register but the ring's tail and the count of dropped entries. -/
theorem State.ringEntry_get {f : RF} (hdrop : f.addr ≠ 0x50010) (htail : f.addr ≠ 0x32050) :
    (s.ringEntry i).get f = s.get f := by
  unfold State.ringEntry
  extract_lets k tail
  split
  · rfl
  · split
    · exact State.add_get _ _ _ _ hdrop
    · split
      · exact s.errc_get _ _ f
      · exact State.get_put_other _ _ _ _ htail

theorem State.ringDoorbell_disarms (hi : i < 512) (hs : SMap.sorted s.regs = true) :
    (s.ringDoorbell i).get (F.ERRC_THR.armed i) = 0 := by
  have hoff : (s.put (F.ERRC_THR.armed i) 0).get (F.ERRC_THR.armed i) = 0 := State.get_put_same _ _ _ hs (by simp)
  unfold State.ringDoorbell
  extract_lets u _ w f r
  have hw : w.get (F.ERRC_THR.armed i) = 0 := by
    unfold w
    split
    · exact hoff
    · exact hoff
  have hpend : (w.put f 1).get (F.ERRC_THR.armed i) = 0 :=
    (State.get_put_other _ _ _ _ (by simp only [f]; omega)).trans hw
  have hring : r.get (F.ERRC_THR.armed i) = 0 :=
    (State.ringEntry_get _ (by simp only; omega) (by simp only; omega)).trans hpend
  split
  · exact hw
  · split
    · split
      · exact (State.msix_get _ _ _ (by simp only; omega)).trans hring
      · exact hring
    · exact hring

end

/-- The write of ERRC_THR stores its 50 bits with armed set. -/
theorem thrArm_stores (v : Word) :
    setBit v 50 &&& 0x3FFFFFFFFFFFF#64 ||| 0x4000000000000#64 = v &&& 0x3FFFFFFFFFFFF#64 ||| 0x4000000000000#64 := by
  rw [setBit, BitVec.and_comm, BitVec.and_or_distrib_left]
  simp [BitVec.and_comm]

theorem armed_stored (v : Word) : (v &&& 0x3FFFFFFFFFFFF#64 ||| 0x4000000000000#64).field 50 1 = 1 := by
  refine congrArg BitVec.toNat (a₂ := 1#1) (BitVec.eq_of_getLsbD_eq fun i hi => ?_)
  obtain rfl : i = 0 := by omega
  simp

end Sys2Proof.Machine
end

section
/-! The statement about doorbells, settled. -/

namespace Sys2Proof.Machine

/-- Settles O50: an increment and an arming both end with the check of the one doorbell. -/
theorem doorbellsRing : Obligations.DoorbellsRing := by
  intro s i hwf
  have hs := State.sorted_of_regsWf hwf
  rw [exec_errcUpdate]
  refine ⟨fun n l hfirst => ?update, fun v hr => ?arm, s.ringDoorbell_disarms i.isLt hs⟩
  case update =>
    rw [s.errcUpdate_first hfirst]
    exact ⟨fun harmed hmet => congrArg _ (State.checkDoorbell_met _ harmed hmet),
      fun hquiet => congrArg _ (hquiet.elim (State.checkDoorbell_unarmed _) (State.checkDoorbell_below _))⟩
  case arm =>
    intro u
    have harmed : u.get (F.ERRC_THR.armed i) = 1 :=
      (congrArg (Word.field · 50 1) (State.word_setWord_same s _ _ hs)).trans (armed_stored v)
    rw [exec_errcThrArm, State.byHost_reached _ _ _ hr, State.thrArm, thrArm_stores]
    exact ⟨harmed, fun hmet => congrArg _ (State.checkDoorbell_met _ harmed hmet),
      fun hbelow => congrArg _ (State.checkDoorbell_below _ hbelow)⟩

end Sys2Proof.Machine
end

section
/-! SUPPORT. Link events (R473-R475, R517): a link event leaves the contexts alone, or resets them all, and returns the
host-facing registers to their reset values. -/

namespace Sys2Proof.Machine

theorem exec_linkDown (n c : Nat) (s : State) : exec (.linkDown n c) s = .next (s.linkDown n c) := rfl
theorem exec_hotReset (n c : Nat) (s : State) : exec (.hotReset n c) s = .next (s.linkEvent n c) := rfl
/-- A Function Level Reset of the PF is a link event, one of a VF the reset of its context. -/
theorem exec_functionLevelReset_pf (n c : Nat) (s : State) : exec (.functionLevelReset 0 n c) s = .next (s.linkEvent n c) := rfl
theorem exec_functionLevelReset_vf (v : Fin 64) (n c : Nat) (s : State) :
    exec (.functionLevelReset v.succ n c) s = .next (s.ctxReset v n c false) := rfl
theorem exec_perstN (n c : Nat) (s : State) : exec (.perstN n c) s = .next (s.perst n c) := rfl
theorem exec_linkUp (speed : Fin 7) (width : Fin 17) (flit bme : Bool) (vfs : Fin 65) (s : State) :
    exec (.linkUp speed width flit bme vfs) s = .next (s.linkUp speed width flit bme vfs) := rfl
theorem exec_poisonedWriteRequest (s : State) : exec .poisonedWriteRequest s = .next s.poisonedWrite := rfl
theorem exec_unsupportedRequest (s : State) : exec .unsupportedRequest s = .next s.unsupported := rfl

/-- A fold of which every step keeps the state keeps it. -/
theorem foldl_keeps {σ α : Type} {f : σ → α → σ} {s : σ} (l : List α) (h : ∀ x ∈ l, f s x = s) : l.foldl f s = s := by
  induction l with
  | nil => rfl
  | cons x l ih =>
    rw [List.foldl_cons, h x List.mem_cons_self]
    exact ih fun y hy => h y (List.mem_cons_of_mem x hy)

theorem State.foldl_clearRegs_host (s : State) (l : List Nat) (lo hi : Nat → Nat) :
    (l.foldl (fun s c => s.clearRegs (lo c) (hi c)) s).host = s.host := by
  induction l generalizing s with
  | nil => rfl
  | cons x l ih => exact ih _

section
variable (s : State) {c : Nat} (at_ cyc : Nat)

theorem State.linkEvent_kept (h : s.get F.HOST_CFG.keep_link = 1) : s.linkEvent at_ cyc = (s.reach at_).hostDefaults :=
  congrArg State.hostDefaults (if_neg (by rw [s.reach_low at_ (by decide), h]; decide))

theorem State.linkEvent_resets (h : s.get F.HOST_CFG.keep_link = 0) :
    s.linkEvent at_ cyc = ((s.reach at_).resetAll at_ cyc).hostDefaults :=
  congrArg State.hostDefaults (if_pos (by rw [s.reach_low at_ (by decide), h]))

theorem State.linkDown_kept (hkeep : s.get F.HOST_CFG.keep_link = 1) (hup : s.get F.HOST_STATUS.speed ≠ 0) :
    s.linkDown at_ cyc = (((s.showLink 0 0 false).put F.HOST_STATUS.downs
      ((s.get F.HOST_STATUS.downs + 1) % 2 ^ 32)).reach at_).hostDefaults := by
  refine (if_neg hup).trans (State.linkEvent_kept _ _ _ ?_)
  simp (disch := decide) only [State.showLink, State.get_put_other, hkeep]

theorem State.linkDown_down (h : s.get F.HOST_STATUS.speed = 0) : s.linkDown at_ cyc = s := if_pos h

/-- No context is there to be reset when all are FREE. -/
theorem State.resetAll_free (h : ∀ c < 64, s.hctx c = 0) : s.resetAll at_ cyc = s :=
  foldl_keeps _ fun c hc => by simp only [h c (List.mem_range.mp hc)]

theorem State.hostDefaults_host : s.hostDefaults.host = { s.host with msix := [], pba := [], bme := false } := by
  have hcleared (u v : State) (hu : u.host = s.host) : ({ u with host := { u.host with msix := [], pba := [], bme := false } } : State).host =
      { s.host with msix := [], pba := [], bme := false } := by rw [hu]
  unfold State.hostDefaults
  rw [State.put_host]
  refine hcleared _ s ?_
  rw [State.clearRegs_host, State.clearRegs_host, State.foldl_clearRegs_host]
  rfl

theorem State.ctxReset_active (free : Bool) (h : s.hctx c = 1) : s.ctxReset c at_ cyc free =
    (((s.put (F.HCTX_STATUS.state c) 2).put (F.HCTX_STATUS.resets c) ((s.get (F.HCTX_STATUS.resets c) + 1) % 2 ^ 32)).setFree
      c free).resetEffects c at_ cyc :=
  if_neg (not_not_intro h)

theorem State.ctxReset_inactive (free : Bool) (h : s.hctx c ≠ 1) : s.ctxReset c at_ cyc free = s := if_pos h

/-- A link that comes up shows itself and its VFs, and sends what was pending. -/
theorem State.linkUp_powered (speed width vfs : Nat) (flit bme : Bool) (hrails : s.railsUp = true)
    (hstage : 2 ≤ s.get F.MOD_STATE.stage) : s.linkUp speed width flit bme vfs =
      ((List.range 64).foldl (fun s c => s.put (F.HCTX_STATUS.vf_en c) (decide (c < vfs)).toNat)
        ({ s.showLink speed width flit with host := { s.host with bme := bme } } : State)).sendPending := by
  have hpowered : ¬ (!(s.railsUp && decide (2 ≤ s.get F.MOD_STATE.stage))) = true := by simp [hrails, hstage]
  rw [State.linkUp, if_neg hpowered]

end

end Sys2Proof.Machine
end

section
/-! The statement about link events, settled. -/

namespace Sys2Proof.Machine

/-- Settles O39: every link event is one function, by keep_link; a VF's reset is a context reset. -/
theorem linkEvents : Obligations.LinkEvents := by
  intro s at_ cyc
  simp only [exec_linkDown, exec_hotReset, exec_functionLevelReset_pf, exec_functionLevelReset_vf, exec_perstN, exec_poisonedWriteRequest, exec_unsupportedRequest, exec_linkUp]
  refine ⟨fun hkeep hup => congrArg _ (s.linkDown_kept _ _ hkeep hup), fun hdown => congrArg _ (s.linkDown_down _ _ hdown),
    fun hkeep => ?kept, fun hkeep => ?resets, s.resetAll_free _ _, s.hostDefaults_host,
    fun speed width flit bme vfs hrails hstage => congrArg _ (s.linkUp_powered _ _ _ _ _ hrails hstage),
    fun c hactive => congrArg _ (s.ctxReset_active _ _ _ hactive), rfl, rfl⟩
  case kept =>
    have hevent := s.linkEvent_kept at_ cyc hkeep
    exact ⟨congrArg _ hevent, congrArg _ hevent, congrArg _ (congrArg (State.showLink · 0 0 false) hevent)⟩
  case resets =>
    have hevent := s.linkEvent_resets at_ cyc hkeep
    exact ⟨congrArg _ hevent, congrArg _ hevent, congrArg _ (congrArg (State.showLink · 0 0 false) hevent)⟩

end Sys2Proof.Machine
end

section
/-! SUPPORT. The states of a context (R480, R481, R518, R521): a write of HCTX_CTL by the state it meets, and what a
completed reset leaves. -/

namespace Sys2Proof.Machine

theorem exec_hctxEnable (c : Fin 64) (v : Word) (s : State) :
    exec (.hctxEnable c v) s = .next (s.hostCommand fun s => s.hctxEnable c (setBit v 0)) := rfl
theorem exec_hctxDisable (c : Fin 64) (v : Word) (n cyc : Nat) (s : State) :
    exec (.hctxDisable c v n cyc) s = .next (s.hostCommand fun s => s.hctxDisable c (clearBit v 0) n cyc) := rfl
theorem exec_contextReset (c : Fin 64) (n cyc : Nat) (s : State) :
    exec (.contextReset c n cyc) s = .next (s.hostCommand fun s => s.ctxReset c n cyc false) := rfl
theorem exec_contextResetComplete (c : Fin 64) (s : State) :
    exec (.contextResetComplete c) s = .next (s.resetCompleteAll c) := rfl

theorem Word.field_setBit_same (v : Word) {k : Nat} (hk : k < 64) : (setBit v k).field k 1 = 1 := by
  refine congrArg BitVec.toNat (a₂ := 1#1) (BitVec.eq_of_getLsbD_eq fun i hi => ?_)
  obtain rfl : i = 0 := by omega
  simp [setBit, hk]

theorem Word.field_clearBit_same (v : Word) (k : Nat) : (clearBit v k).field k 1 = 0 := by
  refine congrArg BitVec.toNat (a₂ := 0#1) (BitVec.eq_of_getLsbD_eq fun i hi => ?_)
  obtain rfl : i = 0 := by omega
  simp [clearBit]

theorem Word.field_clearBit (v : Word) {k lo w : Nat} (h : lo + w ≤ k ∨ k < lo) : (clearBit v k).field lo w = v.field lo w := by
  refine congrArg BitVec.toNat (BitVec.eq_of_getLsbD_eq fun i hi => ?_)
  simp only [BitVec.getLsbD_extractLsb', hi, clearBit, BitVec.getLsbD_and, BitVec.getLsbD_not, BitVec.getLsbD_shiftLeft,
    BitVec.getLsbD_one]
  rcases h with h | h
  · simp [show lo + i < k by omega]
    exact fun hset => BitVec.lt_of_getLsbD hset
  · simp [show lo + i - k ≠ 0 by omega]
    exact fun hset => BitVec.lt_of_getLsbD hset

section
variable (s : State) (c : Nat) (v : Word) (at_ cyc : Nat)

theorem State.hostCommand_ready (k : State → State) (h : s.isReady = true) : s.hostCommand k = k s := if_pos h

theorem State.hostCommand_early (k : State → State) (h : s.isReady = false) : s.hostCommand k = s.errc 3 1 :=
  if_neg (by simp [h])

/-- HCTX_CTL with enable `e` and the other fields of a value. -/
def State.withCtl (s : State) (c e : Nat) (v : Word) : State :=
  ((s.put (F.HCTX_CTL.enable c) e).put (F.HCTX_CTL.vec c) (v.field 2 11)).put (F.HCTX_CTL.msix_en c) (v.field 13 1)

theorem State.hctxVec_setBit : s.hctxVec c (setBit v 0) = s.withCtl c 1 v := by
  rw [State.hctxVec, Word.field_setBit_same v (by decide), Word.field_setBit v (.inr (by decide)),
    Word.field_setBit v (.inr (by decide)), State.withCtl]

theorem State.hctxVec_clearBit : s.hctxVec c (clearBit v 0) = s.withCtl c 0 v := by
  rw [State.hctxVec, Word.field_clearBit_same v 0, Word.field_clearBit v (.inr (by decide)),
    Word.field_clearBit v (.inr (by decide)), State.withCtl]

/-- HCTX_CTL of a context stands apart from every HCTX_STATUS. -/
theorem State.withCtl_get (e : Nat) {f : RF} (h : f.addr ≠ 0x50400 + 0x10 * c) : (s.withCtl c e v).get f = s.get f := by
  simp (disch := exact h) only [State.withCtl, State.get_put_other]

@[simp] theorem State.withCtl_hctx (e : Nat) : (s.withCtl c e v).hctx c = s.hctx c := s.withCtl_get c v e (by simp)

@[simp] theorem State.withCtl_resets (e : Nat) :
    (s.withCtl c e v).get (F.HCTX_STATUS.resets c) = s.get (F.HCTX_STATUS.resets c) := s.withCtl_get c v e (by simp)

section
variable {s c}

/-! A write of enable 1, by the state of the context. -/

theorem State.hctxEnable_free (h : s.hctx c = 0) :
    s.hctxEnable c (setBit v 0) = (s.withCtl c 1 v).put (F.HCTX_STATUS.state c) 1 := by
  simp only [State.hctxEnable, State.hctxVec_setBit, State.withCtl_hctx, h]

theorem State.hctxEnable_resetting (h : s.hctx c = 2) :
    s.hctxEnable c (setBit v 0) = (s.withCtl c 1 v).put (F.HCTX_STATUS.state c) 3 := by
  simp only [State.hctxEnable, State.hctxVec_setBit, State.withCtl_hctx, h]

theorem State.hctxEnable_enabled (h : s.hctx c = 1 ∨ s.hctx c = 3) : s.hctxEnable c (setBit v 0) = s.withCtl c 1 v := by
  rcases h with h | h
  · simp only [State.hctxEnable, State.hctxVec_setBit, State.withCtl_hctx, h]
  · simp only [State.hctxEnable, State.hctxVec_setBit, State.withCtl_hctx, h]

/-! A write of enable 0, by the state of the context. -/

theorem State.hctxDisable_active (h : s.hctx c = 1) :
    s.hctxDisable c (clearBit v 0) at_ cyc = (s.withCtl c 0 v).ctxReset c at_ cyc true := by
  simp only [State.hctxDisable, State.hctxVec_clearBit, State.withCtl_hctx, h]

theorem State.hctxDisable_pending (h : s.hctx c = 3) :
    s.hctxDisable c (clearBit v 0) at_ cyc = ((s.withCtl c 0 v).setFree c true).put (F.HCTX_STATUS.state c) 2 := by
  simp only [State.hctxDisable, State.hctxVec_clearBit, State.withCtl_hctx, h]

end

variable {s c}

/-- A context whose reset is over and that is not to be FREE becomes ACTIVE. -/
theorem State.resetComplete_active (hst : s.hctx c = 2) (hover : s.resetOver c = true) (hkeep : c ∉ s.host.toFree)
    (hquiet : s.get (F.HCTX_CTL.msix_en c) = 0) : s.resetComplete c = (s.setFree c false).put (F.HCTX_STATUS.state c) 1 := by
  have hcond : ¬ ((decide (s.hctx c ≠ 2) && decide (s.hctx c ≠ 3)) || !s.resetOver c) = true := by simp [hst, hover]
  have hfree : (s.hctx c == 2 && s.host.toFree.contains c) = false := by simp [hkeep]
  have hen : ((s.setFree c false).put (F.HCTX_STATUS.state c) 1).get (F.HCTX_CTL.msix_en c) = 0 :=
    (State.get_put_other _ _ _ _ (by simp)).trans hquiet
  rw [State.resetComplete, if_neg hcond]
  simp only [hfree, Bool.false_eq_true, if_false, Bool.not_false, if_true, hen, Nat.zero_ne_one]

/-- A context to be FREE, of which no die holds rows, becomes FREE. -/
theorem State.resetComplete_free (hst : s.hctx c = 2) (hover : s.resetOver c = true) (hfree : c ∈ s.host.toFree)
    (hrows : ∀ d < 4, s.ldrRows d c = 0) (hquiet : s.get (F.HCTX_CTL.msix_en c) = 0) :
    s.resetComplete c = (s.setFree c false).put (F.HCTX_STATUS.state c) 0 := by
  have hcond : ¬ ((decide (s.hctx c ≠ 2) && decide (s.hctx c ≠ 3)) || !s.resetOver c) = true := by simp [hst, hover]
  have hmine : (s.hctx c == 2 && s.host.toFree.contains c) = true := by simp [hst, hfree]
  have hen : ((s.setFree c false).put (F.HCTX_STATUS.state c) 0).get (F.HCTX_CTL.msix_en c) = 0 :=
    (State.get_put_other _ _ _ _ (by simp)).trans hquiet
  have hnone (d : Nat) (hd : d ∈ List.range 4) : ((s.setFree c false).put (F.HCTX_STATUS.state c) 0).ldrRows d c = 0 :=
    (State.get_put_other _ _ _ _ (by simp only; omega)).trans (hrows d (List.mem_range.mp hd))
  rw [State.resetComplete, if_neg hcond]
  simp only [hmine, Bool.not_true, Bool.false_eq_true, if_false, if_true]
  rw [foldl_keeps _ fun d hd => if_pos (hnone d hd)]
  simp only [hen, Nat.zero_ne_one, if_false]

/-- Nothing is restored in a context that the recovery does not restore. -/
theorem State.resetCompleteAll_unrestored {u : State} (hu : s.resetComplete c = u) (h : u.hctx c ≠ 1 ∨ c ∉ u.rcv.restoring) :
    s.resetCompleteAll c = u := by
  rw [State.resetCompleteAll, hu]
  exact if_neg (by simpa [or_iff_not_imp_left] using fun _ hone => h.resolve_left (not_not_intro hone))

end

end Sys2Proof.Machine
end

section
/-! The statement about the states of a context, settled. -/

namespace Sys2Proof.Machine

/-- Settles O40: a write of HCTX_CTL by the state that it meets, and the two ends of a reset. -/
theorem contextStates : Obligations.ContextStates := by
  intro s c v at_ cyc u d
  have hu : s.withCtl c 1 v = u := rfl
  have hd : s.withCtl c 0 v = d := rfl
  rw [exec_hctxEnable, exec_hctxDisable, exec_contextReset, exec_contextResetComplete]
  refine ⟨fun hr hfree => ?enable, fun hr hreset => ?pending, fun hr hother => ?other, fun hr => congrArg _ (s.hostCommand_early _ hr),
    fun hr hpending => ?cancel, fun hr hactive => ?disable, fun hr hactive => ?reset, fun hr hother => ?noReset,
    fun hst hover hkeep hrest hquiet => ?active, fun hst hover hfree hrows hquiet hwf => ?free⟩
  case active =>
    have hdone := State.resetComplete_active hst hover hkeep hquiet
    exact congrArg _ (State.resetCompleteAll_unrestored hdone (.inr hrest))
  case free =>
    have hdone := State.resetComplete_free hst hover hfree hrows hquiet
    have hzero : ((s.setFree c false).put (F.HCTX_STATUS.state c) 0).hctx c = 0 :=
      State.get_put_same _ _ _ (State.sorted_of_regsWf hwf) (by simp)
    exact congrArg _ (State.resetCompleteAll_unrestored hdone (.inl (by rw [hzero]; decide)))
  all_goals rw [s.hostCommand_ready _ hr]
  case enable => rw [State.hctxEnable_free v hfree, hu]
  case pending => rw [State.hctxEnable_resetting v hreset, hu]
  case other => rw [State.hctxEnable_enabled v hother, hu]
  case cancel => rw [State.hctxDisable_pending v at_ cyc hpending, hd]
  case disable =>
    have hstill : (s.withCtl c 0 v).hctx c = 1 := (s.withCtl_hctx c v 0).trans hactive
    rw [State.hctxDisable_active v at_ cyc hactive, State.ctxReset_active _ _ _ _ hstill, State.withCtl_resets, hd]
  case reset => exact congrArg _ (s.ctxReset_active _ _ _ hactive)
  case noReset => exact congrArg _ (s.ctxReset_inactive _ _ _ hother)

end Sys2Proof.Machine
end

section
/-! SUPPORT. The management commands (R485-R490, R494-R497): how a request is answered, and what each command does when it is
accepted. -/

namespace Sys2Proof.Machine

theorem exec_easCommand {r : EasReq} (a : Nat) (s : State) (h : r.ok = true) :
    exec (.getId r a) s = .next (s.easCommand 0x01 r a) ∧ exec (.getStatus r a) s = .next (s.easCommand 0x02 r a) ∧
    exec (.getSensor r a) s = .next (s.easCommand 0x03 r a) ∧ exec (.getErrc r a) s = .next (s.easCommand 0x04 r a) ∧
    exec (.readLog r a) s = .next (s.easCommand 0x05 r a) ∧ exec (.setNext r a) s = .next (s.easCommand 0x06 r a) ∧
    exec (.stageProfile r a) s = .next (s.easCommand 0x07 r a) ∧ exec (.commitProfile r a) s = .next (s.easCommand 0x08 r a) ∧
    exec (.readProfile r a) s = .next (s.easCommand 0x09 r a) ∧ exec (.setLock r a) s = .next (s.easCommand 0x0A r a) ∧
    exec (.moduleReset r a) s = .next (s.easCommand 0x0B r a) ∧ exec (.stageFw r a) s = .next (s.easCommand 0x0C r a) ∧
    exec (.commitFw r a) s = .next (s.easCommand 0x0D r a) ∧ exec (.advanceSvn r a) s = .next (s.easCommand 0x0E r a) :=
  ⟨if_pos h, if_pos h, if_pos h, if_pos h, if_pos h, if_pos h, if_pos h, if_pos h, if_pos h, if_pos h, if_pos h, if_pos h,
    if_pos h, if_pos h⟩

section
variable (s : State) (code tag len a : Nat) (p : List Nat)

/-- A frame whose CRC is right is checked and run. -/
theorem State.busCommand_right {crc : Nat} (hup : s.easUp a = true) (h : crc8 ([code, p.length, tag] ++ p) = crc) :
    s.busCommand code tag p crc a =
      ((((s.easChecked code p.length p).1.countStatus (s.easChecked code p.length p).2.1).busAnswer
        (s.easChecked code p.length p).2.1 tag (s.easChecked code p.length p).2.2).thenReset code
        (s.easChecked code p.length p).2.1 a) := by
  simp only [State.busCommand, hup, h, Bool.not_true, Bool.false_eq_true, if_false, ne_eq, not_true_eq_false]

/-- A frame whose CRC is wrong is answered so. -/
theorem State.busCommand_wrong {crc : Nat} (hup : s.easUp a = true) (h : crc8 ([code, p.length, tag] ++ p) ≠ crc) :
    s.busCommand code tag p crc a =
      ((s.countStatus EasStatus.crc).busAnswer EasStatus.crc tag []).thenReset code EasStatus.crc a := by
  simp only [State.busCommand, hup, h, Bool.not_true, Bool.false_eq_true, if_false, ne_eq, not_false_eq_true, if_true,
    State.easNo]

theorem State.mailCommand_mine (hup : s.easUp a = true) (h : s.eas.mail = some (code, len, tag)) :
    s.mailCommand code a =
      ((((s.easChecked code len (s.mailPayload (min len 132))).1.countStatus
        (s.easChecked code len (s.mailPayload (min len 132))).2.1).mailAnswer
        (s.easChecked code len (s.mailPayload (min len 132))).2.1 tag
        (s.easChecked code len (s.mailPayload (min len 132))).2.2).thenReset code
        (s.easChecked code len (s.mailPayload (min len 132))).2.1 a) := by
  simp only [State.mailCommand, hup, h, Bool.not_true, Bool.false_eq_true, if_false, ne_eq, not_true_eq_false]

end

/-- An instruction that hands its request to Easel answers it. -/
theorem easelAnswers_of_command {mk : EasReq → Nat → Instr} {code : Nat}
    (h : ∀ (r : EasReq) (a : Nat) (s : State), r.ok = true → exec (mk r a) s = .next (s.easCommand code r a)) :
    EaselAnswers mk code := by
  intro s a hup
  refine ⟨fun tag crc p hlen => ?bus, fun len tag hmail => ?mail⟩
  case bus =>
    intro bytes run
    have hlength : p.length = bytes.length := (List.length_map _).symm
    have hrun : run = s.easChecked code bytes.length bytes := by rw [← hlength]
    have hok : (EasReq.bus tag p crc).ok = true := decide_eq_true hlen
    rw [h _ a s hok, hlength, hrun]
    exact ⟨fun hright => congrArg _ (s.busCommand_right code _ a bytes hup hright),
      fun hwrong => congrArg _ (s.busCommand_wrong code _ a bytes hup hwrong)⟩
  case mail => exact (h _ a s rfl).trans (congrArg _ (s.mailCommand_mine code tag len a hup hmail))

/-! What a command does that is accepted. -/

section
variable (s : State) (p : List Nat)

theorem State.getSensor_listed (h : Config.sensorKey (bytesNat p) < 139) :
    s.getSensor p = (s, 0, natBytes ((s.sensor (Config.sensorKey (bytesNat p))).good.getD 0) 4 ++
      [((s.sensor (Config.sensorKey (bytesNat p))).good.isSome && (s.sensor (Config.sensorKey (bytesNat p))).bad == 0 &&
        !(s.sensor (Config.sensorKey (bytesNat p))).failed).toNat + 2 * (s.sensor (Config.sensorKey (bytesNat p))).failed.toNat]) :=
  if_neg (Nat.not_le.mpr h)

theorem State.getErrc_listed (h : bytesNat p < 512) :
    s.getErrc p = (s, 0, natBytes (s.get (F.ERRC_CNT.count (bytesNat p))) 8) := if_neg (Nat.not_le.mpr h)

theorem State.readLog_aligned (h : bytesNat p % 128 = 0) :
    s.readLog p = (s, 0, natBytes (Config.logBytes s.eas.log (bytesNat p)).toNat 128) := if_neg (not_not_intro h)

theorem State.setNext_slot (h : bytesNat p < 4) :
    s.setNext p = ((s.put F.MOD_PROFILE.next (bytesNat p)).put F.MOD_PROFILE.next_v 1, 0, []) := if_neg (Nat.not_le.mpr h)

theorem State.stageProfile_part {o : Nat} (l : List Nat) (h : o < 4) :
    s.stageProfile (o :: l) = ({ s with eas := { s.eas with
      stage := (s.eas.stage &&& ~~~ BitVec.ofNat 4096 ((2 ^ 1024 - 1) * 2 ^ (1024 * o))) |||
        BitVec.ofNat 4096 (bytesNat l * 2 ^ (1024 * o)) } }, 0, []) := by
  have hmod : o % 256 = o := Nat.mod_eq_of_lt (by omega)
  rw [State.stageProfile]
  simp only [List.headD_cons, List.drop_succ_cons, List.drop_zero, hmod, if_neg (Nat.not_le.mpr h)]
  rfl

theorem State.commitProfile_valid {k : Nat} (l : List Nat) (hk : k < 4) (hslot : profDebug s.eas.stage = false ∨ k ≠ 0)
    (hfields : profFieldsOk s.eas.stage = true) (hframe : profCrc s.eas.stage 512 = bytesNat l)
    (hcrc : profCrcOk s.eas.stage = true) (hroom : s.get (rewritesF k) < 256) :
    s.commitProfile (k :: l) = (((({ s with eas := { s.eas with
      slots := s.eas.slots.set k ((s.profSlot k).write s.eas.stage) } } : State).put (rewritesF k)
        (s.get (rewritesF k) + 1)).mirrorFuses), 0, []) := by
  have hmod : k % 256 = k := Nat.mod_eq_of_lt (by omega)
  have hrange : ¬ (decide (4 ≤ k) || (profDebug s.eas.stage && k == 0) || !profFieldsOk s.eas.stage) = true := by
    rcases hslot with h | h
    · simp [h, hfields, hk]
    · simp [h, hfields, hk]
  have hsum : ¬ (decide (profCrc s.eas.stage 512 ≠ bytesNat l) || !profCrcOk s.eas.stage) = true := by simp [hframe, hcrc]
  rw [State.commitProfile]
  simp only [List.headD_cons, List.drop_succ_cons, List.drop_zero, hmod, if_neg hrange, if_neg hsum,
    if_neg (Nat.not_le.mpr hroom)]
  rfl

theorem State.readProfile_part {k o : Nat} (hk : k < 4) (ho : o < 4) :
    s.readProfile [k, o] = (s, 0, natBytes (profBytes (s.profSlot k).content (128 * o) 128) 128) := by
  have hkm : k % 256 = k := Nat.mod_eq_of_lt (by omega)
  have hom : o % 256 = o := Nat.mod_eq_of_lt (by omega)
  have hrange : ¬ (decide (4 ≤ k) || decide (4 ≤ o)) = true := by simp [hk, ho]
  rw [State.readProfile]
  simp only [List.headD_cons, List.drop_succ_cons, List.drop_zero, hkm, hom, if_neg hrange]
  rfl

theorem State.moduleResetCmd_key (h : bytesNat p = 0xA5) : s.moduleResetCmd p = (s, 0, []) := if_pos h

theorem State.stageFw_part (halign : bytesNat (p.take 4) % 128 = 0) (harea : bytesNat (p.take 4) < 2 ^ 26) :
    s.stageFw p = ({ s with eas := { s.eas with
      fwStage := SMap.put s.eas.fwStage (bytesNat (p.take 4) / 128) (BitVec.ofNat 1024 (bytesNat (p.drop 4))) 0 } }, 0, []) :=
  by
  have hin : ¬ (decide (bytesNat (p.take 4) % 128 ≠ 0) || decide (fwArea ≤ bytesNat (p.take 4))) = true := by
    have hsmall : ¬ fwArea ≤ bytesNat (p.take 4) := Nat.not_le.mpr harea
    simp [halign, hsmall]
  exact if_neg hin

theorem State.commitFw_verified (hlen : bytesNat (p.take 4) ≤ 2 ^ 26)
    (hcrc : crc32 ((List.range (bytesNat (p.take 4))).map (s.stagedFw (bytesNat (p.take 4))).byte) = bytesNat (p.drop 4))
    (hboots : (s.stagedFw (bytesNat (p.take 4))).boots (s.get F.MOD_FUSECNT.svn) = true) :
    s.commitFw p = ({ s with eas := if s.eas.fwNewB = true then
      { s.eas with fwA := s.stagedFw (bytesNat (p.take 4)), fwNewB := false }
      else { s.eas with fwB := s.stagedFw (bytesNat (p.take 4)), fwNewB := true } }, 0, []) := by
  have hboot : ¬ (!(s.stagedFw (bytesNat (p.take 4))).boots (s.get F.MOD_FUSECNT.svn)) = true := by simp [hboots]
  have harea : ¬ fwArea < bytesNat (p.take 4) := Nat.not_lt.mpr hlen
  rw [State.commitFw, if_neg harea]
  rw [if_neg (not_not_intro hcrc), if_neg hboot]
  rfl

theorem State.advanceSvn_reached (h : bytesNat p ≤ s.get F.MOD_FUSECNT.svn) : s.advanceSvn p = (s, 0, []) := if_pos h

theorem State.advanceSvn_blows (hnew : s.get F.MOD_FUSECNT.svn < bytesNat p) (hlim : bytesNat p ≤ 64)
    (hfw : bytesNat p ≤ s.eas.svn) : s.advanceSvn p = ((s.put F.MOD_FUSECNT.svn (bytesNat p)).mirrorFuses, 0, []) :=
  (if_neg (Nat.not_le.mpr hnew)).trans ((if_neg (Nat.not_lt.mpr hlim)).trans (if_neg (Nat.not_lt.mpr hfw)))

/-! The checks before a command's own. -/

section
variable {s} {code len : Nat}

theorem State.easChecked_unlisted (h : easLen code = none) : s.easChecked code len p = (s, 2, []) :=
  if_pos (by simp [h])

theorem State.easChecked_safe (hsafe : s.get F.MOD_EAS.safe = 1) (h : easSafe code = false) :
    s.easChecked code len p = (s, 2, []) := if_pos (by rw [hsafe, h]; simp)

variable (hsafe : s.get F.MOD_EAS.safe = 0)
include hsafe

theorem State.easChecked_listed {l : Nat} (h : easLen code = some l) :
    s.easChecked code len p = if easLen code ≠ some len then s.easNo EasStatus.badLen
      else if (easLock code).any s.locked then s.easNo EasStatus.locked else s.easRun code p :=
  if_neg (by simp [h, hsafe])

theorem State.easChecked_length {l : Nat} (h : easLen code = some l) (hl : l ≠ len) : s.easChecked code len p = (s, 3, []) :=
  (State.easChecked_listed p hsafe h).trans (if_pos (by rw [h]; simpa using hl))

theorem State.easChecked_locked {k : Nat} (h : easLen code = some len) (hk : easLock code = some k) (hlock : s.locked k = true) :
    s.easChecked code len p = (s, 5, []) :=
  (State.easChecked_listed p hsafe h).trans ((if_neg (not_not_intro h)).trans (if_pos (by rw [hk]; exact hlock)))

theorem State.easChecked_runs (h : easLen code = some len) (hfree : ∀ k, easLock code = some k → s.locked k = false) :
    s.easChecked code len p = s.easRun code p := by
  have hopen : ¬ (easLock code).any s.locked = true := by
    rw [Option.any_eq_true]
    rintro ⟨k, hk, hlock⟩
    exact Bool.false_ne_true ((hfree k hk).symm.trans hlock)
  exact (State.easChecked_listed p hsafe h).trans ((if_neg (not_not_intro h)).trans (if_neg hopen))

end
end

end Sys2Proof.Machine
end

section
/-! The statement about the management commands, settled. -/

namespace Sys2Proof.Machine

/-- Every management command is answered as the mailbox and the bus answer it. -/
theorem easelAnswersAll : EaselAnswersAll := by
  refine ⟨?_, ?_, ?_, ?_, ?_, ?_, ?_, ?_, ?_, ?_, ?_, ?_, ?_, ?_⟩
  all_goals
    refine easelAnswers_of_command fun r a s h => ?_
    simp only [exec_easCommand a s h]

/-- Each command does what its code selects. -/
theorem easelEffects : EaselEffects := by
  intro s code len p n
  refine ⟨?getId, ?getStatus, s.getSensor_listed p, s.getErrc_listed p, s.readLog_aligned p, s.setNext_slot p,
    fun o l hp ho => ?stageProfile,
    fun k l hp hk hslot hfields hframe hcrc hroom => ?commitProfile, fun k o hp hk ho => ?readProfile,
    rfl, s.moduleResetCmd_key p, s.stageFw_part p, s.commitFw_verified p, s.advanceSvn_reached p, s.advanceSvn_blows p,
    State.easChecked_unlisted p, State.easChecked_safe p, fun l hsafe => State.easChecked_length p hsafe,
    fun k hsafe => State.easChecked_locked p hsafe, fun hsafe => State.easChecked_runs p hsafe⟩
  case getId => simp [State.easRun, State.getId, State.regBytes, State.easOk, EasStatus.ok]
  case getStatus => simp [State.easRun, State.getStatus, State.regBytes, State.easOk, EasStatus.ok]
  case stageProfile =>
    subst hp
    exact s.stageProfile_part l ho
  case commitProfile =>
    subst hp
    exact s.commitProfile_valid l hk hslot hfields hframe hcrc hroom
  case readProfile =>
    subst hp
    exact s.readProfile_part hk ho

/-- Settles O41: the answers are those of the mailbox and the bus, the effects those of the codes. -/
theorem easelCommands : Obligations.EaselCommands := ⟨easelAnswersAll, easelEffects⟩

end Sys2Proof.Machine
end

section
/-! SUPPORT. Easel's other events (R486, R487, R489-R491, R495, R501). -/

namespace Sys2Proof.Machine

theorem exec_setdasa (x : BitVec 7) (a : Nat) (s : State) : exec (.setdasa x a) s = .next (s.assignAddress x.toNat a) := rfl
theorem exec_entdaa (x : BitVec 7) (a : Nat) (s : State) : exec (.entdaa x a) s = .next (s.assignAddress x.toNat a) := rfl
theorem exec_transactionTimeout (a : Nat) (s : State) : exec (.transactionTimeout a) s = .next (s.busTimeout a) := rfl
theorem exec_mailboxTimeout (s : State) : exec .mailboxTimeout s = .next s.mailTimeout := rfl
theorem exec_consoleLine (l : List Byte) (a : Nat) (s : State) :
    exec (.consoleLine l a) s = .next (s.consoleLine (l.map BitVec.toNat) a) := rfl
theorem exec_watchdogExpiry (a : Nat) (s : State) : exec (.watchdogExpiry a) s = .next (s.watchdog a) := rfl
theorem exec_modLockWrite (v : BitVec 6) (s : State) :
    exec (.modLockWrite v) s = .next (s.byHost F.MOD_LOCK.lock.addr fun s => s.setLocks v.toNat) := rfl
theorem exec_modCmdReset (key : BitVec 8) (a : Nat) (s : State) :
    exec (.modCmdReset key a) s = .next (s.resetCmd key.toNat a) := rfl
theorem exec_tapInstruction (i : TapInstr) (s : State) : exec (.tapInstruction i) s = s.tapLoad i := rfl

section
variable (s : State) (a : Nat)

theorem State.assignAddress_up (x : BitVec 7) (hup : s.easUp a = true) :
    s.assignAddress x.toNat a = { s with eas := { s.eas with dyn := some x.toNat } } := by
  rw [State.assignAddress, if_pos hup, Nat.mod_eq_of_lt x.isLt]
  rfl

theorem State.busTimeout_up (hup : s.easUp a = true) : s.busTimeout a = s.errc 2 1 := if_pos hup

theorem State.mailTimeout_waiting {code len tag : Nat} (h : s.eas.mail = some (code, len, tag)) :
    s.mailTimeout = (s.countStatus EasStatus.timeout).mailAnswer EasStatus.timeout tag [] := by
  rw [State.mailTimeout, h]

/-- A line that the profile and the lock let through and that spells a command. -/
theorem State.consoleLine_spelled {line : List Nat} {code : Nat} {p : List Nat} (hup : s.easUp a = true)
    (hlen : line.length ≤ 256) (hconsole : profConsole s.eas.prof = true) (hlock : s.locked 1 = false)
    (hhex : hexBytes line = some (code :: p)) :
    s.consoleLine line a = (((s.easChecked code p.length p).1.countStatus (s.easChecked code p.length p).2.1).mapEas fun e =>
      { e with uart := e.uart ++ [(s.easChecked code p.length p).2.1 :: (s.easChecked code p.length p).2.2] }).thenReset code
        (s.easChecked code p.length p).2.1 a := by
  have hopen : ¬ (!profConsole s.eas.prof || s.locked 1) = true := by simp [hconsole, hlock]
  rw [State.consoleLine]
  simp only [hup, Bool.not_true, Bool.false_eq_true, if_false, if_neg (Nat.not_lt.mpr hlen), if_neg hopen, hhex,
    Option.isNone_some, Option.getD_some, List.isEmpty_cons, Bool.or_self, List.headD_cons, List.drop_succ_cons, List.drop_zero]

theorem State.consoleLine_long {line : List Nat} (hup : s.easUp a = true) (hlen : 256 < line.length) :
    s.consoleLine line a = s.errc 3 1 :=
  (if_neg (by simp [hup])).trans (if_pos hlen)

/-- The expiries of the last 600 s, with one at fc `a`. -/
def EasSt.expiries (e : EasSt) (a : Nat) : List Nat := (e.wd ++ [a]).filter fun t => decide (a < t + fcMs 600000 + 1)

/-- The module that has counted an expiry of the watchdog at fc `a`. -/
def State.expired (s : State) (a : Nat) : State :=
  let n := (({ s with free := s.free + 1 } : State).reach a).errc 5 1
  n.put F.MOD_EAS.wd_count (min 255 (n.get F.MOD_EAS.wd_count + 1))

/-- Fewer than three expiries restart Easel alone. -/
theorem State.watchdog_restarts (hup : s.easUp a = true) (h : (s.eas.expiries a).length < 3) :
    s.watchdog a = State.mirrorFuses (State.cutCommits ({ s.expired a with eas := { (s.expired a).eas with
      wd := s.eas.expiries a, back := a + (Config.freeValue s.free).toNat % (fcMs 2000 + 1) } })) := by
  have heas : (s.expired a).eas = s.eas := by
    rw [State.expired, State.put_eas, State.errc_eas]
    rfl
  have hlist : (((s.expired a).eas.wd ++ [a]).filter fun t => decide (a < t + fcMs 600000 + 1)) = s.eas.expiries a := by
    rw [heas, EasSt.expiries]
  unfold State.watchdog
  rw [if_neg (by simp [hup])]
  refine (if_neg (c := 3 ≤ (((s.expired a).eas.wd ++ [a]).filter fun t => decide (a < t + fcMs 600000 + 1)).length)
    (by rw [hlist]; exact Nat.not_le.mpr h)).trans ?_
  rw [← hlist]
  rfl

theorem State.setLocks_bits (v : BitVec 6) : s.setLocks v.toNat =
    let u := s.put F.MOD_LOCK.lock (s.get F.MOD_LOCK.lock ||| v.toNat)
    if u.locked 1 = true then u.put F.MOD_DBG.open 0 else u := by
  have hmod : v.toNat % 64 = v.toNat := Nat.mod_eq_of_lt v.isLt
  rw [State.setLocks, hmod]

theorem State.resetCmd_key (h : s.reached 0x20 = true) : s.resetCmd 0xA5 a = s.resetModule 2 a :=
  (if_neg (by simp [h])).trans (if_pos rfl)

theorem State.resetCmd_other {key : Nat} (h : s.reached 0x20 = true) (hkey : key ≠ 0xA5) : s.resetCmd key a = s.errc 3 1 :=
  (if_neg (by simp [h])).trans (if_neg hkey)

/-- Knakor's own instruction is not available while the debug aperture is closed. -/
theorem State.tapLoad_closed (h : s.get F.MOD_DBG.open = 0) : s.tapLoad .knakor = .next (s.tapShow 0) :=
  if_neg (by simp [State.debugOpen, h])

end

end Sys2Proof.Machine
end

section
/-! The statement about Easel's other events, settled. -/

namespace Sys2Proof.Machine

/-- Settles O42: each event by the condition that lets it act. -/
theorem easelEvents : Obligations.EaselEvents := by
  intro s a
  refine ⟨fun x hup => ?address, fun code len tag hmail => ?mailbox, fun line code p hup hlen hconsole hlock hhex => ?console,
    fun line hup hlen => ?long, ?watchdog, fun v hr => ?lock, fun key hr => ⟨fun hkey => ?reset, fun hkey => ?rejected⟩,
    fun i hi => ?tap, fun hclosed => s.tapLoad_closed hclosed⟩
  case address =>
    have hassign := s.assignAddress_up a x hup
    exact ⟨congrArg _ hassign, congrArg _ hassign, congrArg _ (s.busTimeout_up a hup)⟩
  case mailbox => exact congrArg _ (s.mailTimeout_waiting hmail)
  case console =>
    exact congrArg _ (s.consoleLine_spelled a hup (by simpa using hlen) hconsole hlock hhex)
  case long => exact congrArg _ (s.consoleLine_long a hup (by simpa using hlen))
  case watchdog =>
    intro l n u hup hfew
    exact congrArg _ (s.watchdog_restarts a hup hfew)
  case lock =>
    rw [exec_modLockWrite, State.byHost_reached _ _ _ hr, State.setLocks_bits]
  case reset =>
    subst hkey
    exact congrArg _ (s.resetCmd_key a hr)
  case rejected =>
    refine congrArg _ (s.resetCmd_other a hr fun h => hkey ?_)
    exact BitVec.eq_of_toNat_eq h
  case tap =>
    rw [exec_tapInstruction]
    cases i with
    | knakor => exact absurd rfl hi
    | bypass => rfl
    | idcode => rfl
    | sample => cases hb : s.tapBoundary <;> simp [State.tapLoad, State.tapShow, hb]
    | extest => cases hb : s.tapBoundary <;> simp [State.tapLoad, State.tapShow, hb]

end Sys2Proof.Machine
end

section
/-! SUPPORT. The inputs, the rails and the two power registers (R506-R508, R514, R524, R533, R534). -/

namespace Sys2Proof.Machine

theorem exec_vauxGood (a : Nat) (s : State) : exec (.vauxGood a) s = .next (s.inputGood true a) := rfl
theorem exec_vauxLost (a : Nat) (s : State) : exec (.vauxLost a) s = .next (s.inputLost true a) := rfl
theorem exec_vmainGood (a : Nat) (s : State) : exec (.vmainGood a) s = .next (s.inputGood false a) := rfl
theorem exec_vmainLost (a : Nat) (s : State) : exec (.vmainLost a) s = .next (s.inputLost false a) := rfl
theorem exec_railFailure (g : RailGroup) (a : Nat) (s : State) :
    exec (.railFailure g a) s = .next (s.railFailure g.number a) := rfl
theorem exec_railFailurePowerDown (a : Nat) (s : State) : exec (.railFailurePowerDown a) s = .next (s.railFailed a) := rfl
theorem exec_railGroupGood (g : RailGroup) (a : Nat) (s : State) :
    exec (.railGroupGood g a) s = .next (s.railGroupGood g.number a) := rfl
theorem exec_railGroupTimeout (g : RailGroup) (a : Nat) (s : State) :
    exec (.railGroupTimeout g a) s = .next (s.railGroupTimeout g.number a) := rfl
theorem exec_pwrLimitWrite (v : BitVec 12) (s : State) :
    exec (.pwrLimitWrite v) s = .next (s.byHost F.PWR_LIMIT.limit.addr fun s => s.limitWritePwr v.toNat) := rfl
theorem exec_pwrDroopWrite (d : Fin 4) (v : Word) (s : State) : exec (.pwrDroopWrite d v) s =
    .next (s.byHost (F.PWR_DIE_DROOP.thr1 d).addr fun s => s.droopWrite d (BitVec.allOnes 64) v) := rfl

section
variable (s : State) (a : Nat)

theorem State.inputGood_vaux (h : s.pwr.vaux = false) :
    s.inputGood true a = if s.pwr.vmain = true then ({ s with pwr := { s.pwr with vaux := true } } : State).resetCold a
      else { s with pwr := { s.pwr with vaux := true } } := by
  simp [State.inputGood, State.mapPwr, h]

theorem State.inputGood_vmain (h : s.pwr.vmain = false) :
    s.inputGood false a = if s.pwr.vaux = true then ({ s with pwr := { s.pwr with vmain := true } } : State).resetCold a
      else { s with pwr := { s.pwr with vmain := true } } := by
  simp [State.inputGood, State.mapPwr, h]

/-- Beside registers, a fold of writes keeps everything. -/
theorem State.foldl_regsOnly {α : Type} (l : List α) (f : State → α → State) (hf : ∀ u x, s.RegsOnly u → s.RegsOnly (f u x)) :
    s.RegsOnly (l.foldl f s) := by
  suffices h : ∀ u, s.RegsOnly u → s.RegsOnly (l.foldl f u) from h s (State.RegsOnly.refl s)
  induction l with
  | nil => exact fun u hu => hu
  | cons x l ih => exact fun u hu => ih _ (hf u x hu)

theorem State.RegsOnly.eas {s u : State} (h : s.RegsOnly u) : u.eas = s.eas := by
  have h' : ({ u with regs := s.regs } : State) = s := h
  rw [← h']
theorem State.RegsOnly.pwr {s u : State} (h : s.RegsOnly u) : u.pwr = s.pwr := by
  have h' : ({ u with regs := s.regs } : State) = s := h
  rw [← h']

/-- A module of which group 0 alone is up: it stands still, with the clocks of every die off. -/
def State.dieClocksOff (w : State) : State :=
  (List.range 4).foldl (fun w d => (w.put (F.PWR_DIE_CLK.now d) 0).put (F.PWR_DIE_CLK.stretch d) 0) (w.put F.PWR_STATUS.rails 0)

theorem State.dieClocksOff_regsOnly (w : State) : (w.put F.PWR_STATUS.rails 0).RegsOnly w.dieClocksOff :=
  State.foldl_regsOnly _ _ _ fun _ _ hu => (hu.put _ 0).put _ 0

/-- What a power-down keeps of Easel and sets of the inputs is in the module before its clocks are off. -/
theorem State.dieClocksOff_keeps (w : State) : w.dieClocksOff.eas = w.eas ∧ w.dieClocksOff.pwr = w.pwr :=
  ⟨w.dieClocksOff_regsOnly.eas, w.dieClocksOff_regsOnly.pwr⟩

/-- Easel keeps running through a power-down, and the rails and clocks go down. -/
theorem State.powerDown_keeps : (s.powerDown a).eas = s.eas ∧
    (s.powerDown a).pwr = { s.pwr with group := 0, clocks := false, dies := List.replicate 4 DieClk.fresh } := by
  have hkeeps (w : State) (m : SMap Word) (l : List (Nat × Nat)) (e : EasSt) (p : PwrSt) :
      ({ w with regs := m, errcPending := l, eas := e, pwr := p } : State).dieClocksOff.eas = e ∧
      ({ w with regs := m, errcPending := l, eas := e, pwr := p } : State).dieClocksOff.pwr = p := State.dieClocksOff_keeps _
  exact hkeeps (s.resetCore true 0 a) _ _ _ _

theorem State.inputLost_vaux (h : s.pwr.vaux = true) : s.inputLost true a =
    { s.powerDown a with pwr := { (s.powerDown a).pwr with vaux := false }, eas := (s.powerDown a).eas.restart } := by
  simp only [State.inputLost, h, if_true, Bool.not_true, Bool.false_eq_true, if_false, State.mapPwr, State.mapEas]

theorem State.inputLost_vmain (h : s.pwr.vmain = true) :
    s.inputLost false a = { s.powerDown a with pwr := { (s.powerDown a).pwr with vmain := false } } := by
  simp only [State.inputLost, h, Bool.not_true, Bool.false_eq_true, if_false, State.mapPwr]

variable {s a}

theorem State.railFailed_due {t : Nat} (h : s.pwr.failAt = some t) (ht : t + fcMs 100 ≤ a) :
    s.railFailed a = { (s.powerDown a).put F.MOD_STATE.state 2 with
      pwr := { ((s.powerDown a).put F.MOD_STATE.state 2).pwr with failAt := none } } := by
  rw [State.railFailed, h]
  exact if_neg (Nat.not_lt.mpr ht)

section
variable (g : RailGroup)

theorem railGroup_range : g.number ≠ 0 ∧ g.number ≤ 7 := by
  have := g.less1.isLt
  unfold RailGroup.number
  omega

/-- A rail that was good fails, by the module's state. -/
theorem State.railFailure_inTolerance (h : s.get (railF g.number) ≠ 0) {u : State}
    (hu : u = (s.reach a).put (railF g.number) 0) : s.railFailure g.number a =
    if u.get F.MOD_STATE.state = 2 then u
    else if u.get F.MOD_STATE.state = 0 && u.get F.MOD_STATE.stage = 2 then
      { u.bootFails a with pwr := { (u.bootFails a).pwr with group := 0 } }
    else State.sendFail { u.put F.PWR_STATUS.fail_rail g.number with
      pwr := { (u.put F.PWR_STATUS.fail_rail g.number).pwr with failAt := some a },
      free := (u.put F.PWR_STATUS.fail_rail g.number).free + 1 }
        ((Config.freeValue (u.put F.PWR_STATUS.fail_rail g.number).free).toNat % 512) := by
  obtain ⟨hpos, hle⟩ := railGroup_range g
  subst hu
  refine (if_neg ?_).trans rfl
  simp [h, hpos, hle]

theorem State.railGroupGood_started (h : s.pwr.group = g.number) : s.railGroupGood g.number a =
    let u := (s.reach a).put (railF g.number) 1
    let v : State := { u with pwr := { u.pwr with group := g.number + 1, stageAt := a } }
    if g.number = 7 then v.startClocks else v := by
  obtain ⟨hpos, hle⟩ := railGroup_range g
  refine (if_neg ?_).trans rfl
  simp [h, hpos, hle]

theorem State.railGroupTimeout_started (h : s.pwr.group = g.number) (hlate : s.pwr.stageAt + fcMs 10 ≤ a) :
    s.railGroupTimeout g.number a =
      { (s.reach a).bootFails a with pwr := { ((s.reach a).bootFails a).pwr with group := 0 } } := by
  obtain ⟨hpos, hle⟩ := railGroup_range g
  refine (if_neg ?_).trans rfl
  simp [h, hpos, hle, hlate]

end

theorem State.limitWritePwr_locked (v : Nat) (h : s.locked 3 = true) : s.limitWritePwr v = s.lockViolation := if_pos h

theorem State.limitWritePwr_out {v : Nat} (h : s.locked 3 = false) (hout : v < 1200 ∨ 2450 < v) :
    s.limitWritePwr v = s.put F.PWR_STATUS.cfg_reject 1 :=
  (if_neg (by simp [h])).trans (if_pos (by simpa using hout))

theorem State.limitWritePwr_in {v : Nat} (h : s.locked 3 = false) (hlo : 1200 ≤ v) (hhi : v ≤ 2450) :
    s.limitWritePwr v = s.put F.PWR_LIMIT.limit v :=
  (if_neg (by simp [h])).trans (if_neg (by simp [hlo, hhi]))

/-- A write of the whole register asks for its two thresholds alone. -/
theorem State.droopWrite_whole (d : Nat) (v : Word) : s.droopWrite d (BitVec.allOnes 64) v =
    if s.locked 3 then s.lockViolation
    else if v.field 0 6 < 10 || v.field 8 6 ≤ v.field 0 6 then s.put F.PWR_STATUS.cfg_reject 1
    else s.setWord (F.PWR_DIE_DROOP.thr1 d).addr (v &&& 0x3F3F#64) := by
  have hwhole (w : Word) : ((w &&& ~~~ BitVec.allOnes 64) ||| (v &&& BitVec.allOnes 64)) &&& 0x3F3F#64 = v &&& 0x3F3F#64 := by
    rw [BitVec.not_allOnes, BitVec.and_zero, BitVec.zero_or, BitVec.and_allOnes]
  refine (if_neg (by decide)).trans ?_
  simp only [hwhole, Word.field_and_mask v 0x3F3F#64 0 6 (by decide), Word.field_and_mask v 0x3F3F#64 8 6 (by decide)]

end

end Sys2Proof.Machine
end

section
/-! The statement about the inputs and the rails, settled. -/

namespace Sys2Proof.Machine

/-- Settles O43: each event by the condition it meets. -/
theorem inputsAndRails : Obligations.InputsAndRails := by
  intro s a
  refine ⟨fun hlow => ?vaux, fun hlow => ?vmain, ?lost, fun g hgood => ?failure, fun t hfail hdue => ?down,
    fun g hgroup => ?group, fun v hr => ?limit, fun d v hr => ?droop⟩
  case vaux =>
    have hin := s.inputGood_vaux a hlow
    exact ⟨fun h => congrArg _ (hin.trans (if_pos h)), fun h => congrArg _ (hin.trans (if_neg (by simp [h])))⟩
  case vmain =>
    have hin := s.inputGood_vmain a hlow
    exact ⟨fun h => congrArg _ (hin.trans (if_pos h)), fun h => congrArg _ (hin.trans (if_neg (by simp [h])))⟩
  case lost =>
    obtain ⟨heas, hpwr⟩ := s.powerDown_keeps a
    exact ⟨heas, hpwr, fun h => congrArg _ (s.inputLost_vaux a h), fun h => congrArg _ (s.inputLost_vmain a h)⟩
  case failure =>
    intro u v
    have hfail := State.railFailure_inTolerance (a := a) g hgood (u := u) rfl
    refine ⟨fun hstate => congrArg _ (hfail.trans ?_), fun hstate hstage => congrArg _ (hfail.trans ?_),
      fun hstate => congrArg _ (hfail.trans (if_pos hstate))⟩
    · exact (if_neg (by simp [hstate])).trans (if_neg (by simp [hstate]))
    · exact (if_neg (by simp [hstate])).trans (if_pos (by simp [hstate, hstage]))
  case down => exact congrArg _ (State.railFailed_due hfail hdue)
  case group =>
    intro u v w
    have hgood := State.railGroupGood_started (a := a) g hgroup
    exact ⟨fun h => congrArg _ (hgood.trans (if_neg (Nat.ne_of_lt h))), fun h => congrArg _ (hgood.trans (if_pos h)),
      fun h => congrArg _ (State.railGroupTimeout_started g hgroup h)⟩
  case limit =>
    rw [exec_pwrLimitWrite, State.byHost_reached _ _ _ hr]
    exact ⟨fun h => congrArg _ (State.limitWritePwr_locked _ h), fun h hout => congrArg _ (State.limitWritePwr_out h hout),
      fun h hlo hhi => congrArg _ (State.limitWritePwr_in h hlo hhi)⟩
  case droop =>
    rw [exec_pwrDroopWrite, State.byHost_reached _ _ _ hr, State.droopWrite_whole]
    exact ⟨fun h => congrArg _ (if_pos h),
      fun h hbad => congrArg _ ((if_neg (by simp [h])).trans (if_pos (by simpa using hbad))),
      fun h hlo hhi => congrArg _ ((if_neg (by simp [h])).trans (if_neg (by simp [hlo, hhi])))⟩

end Sys2Proof.Machine
end

section
/-! SUPPORT. A die's droop stretch (R510, R511): what a sensor's call does at each stretch state, and the ways back. -/

namespace Sys2Proof.Machine

theorem exec_droopTrip (d : Fin 4) (mv a : Nat) (s : State) : exec (.droopTrip d mv a) s = .next (s.droop d mv a) := rfl
theorem exec_stretchRelease (d : Fin 4) (a : Nat) (s : State) : exec (.stretchRelease d a) s = .next (s.stretchRelease d a) := rfl
theorem exec_clockRampComplete (d : Fin 4) (a : Nat) (s : State) : exec (.clockRampComplete d a) s = .next (s.rampDone d a) := rfl

section
variable (s : State) (d mv a : Nat)

/-- The stretch that a sensor's reading above the first threshold calls for. -/
def State.droopLevel (s : State) (d mv : Nat) : Nat := if s.get (F.PWR_DIE_DROOP.thr2 d) < mv then 2 else 1

/-- The module once a sensor's call for stretch `level` is noted. -/
def State.noteCall (s : State) (d level a : Nat) : State :=
  (s.reach a).setClk d { (s.reach a).clk d with call1 := a, call2 := if level = 2 then a else ((s.reach a).clk d).call2 }

/-- The clock of a die stretched to `level`. -/
def State.stretchTo (s : State) (d level deficit : Nat) : State :=
  (s.put (F.PWR_DIE_CLK.stretch d) level).setClk d { s.clk d with deficit := deficit }

theorem State.droop_calm (h1 : mv ≤ s.get (F.PWR_DIE_DROOP.thr1 d)) (h2 : mv ≤ s.get (F.PWR_DIE_DROOP.thr2 d)) :
    s.droop d mv a = s := by
  have hlevel : (if s.get (F.PWR_DIE_DROOP.thr2 d) < mv then 2 else if s.get (F.PWR_DIE_DROOP.thr1 d) < mv then 1 else 0) = 0 := by
    rw [if_neg (Nat.not_lt.mpr h2), if_neg (Nat.not_lt.mpr h1)]
  rw [State.droop]
  exact if_pos (by simp [hlevel])

section
variable {s d mv}
variable (hclocks : s.pwr.clocks = true) (h1 : s.get (F.PWR_DIE_DROOP.thr1 d) < mv) {u : State}
  (hu : u = s.noteCall d (s.droopLevel d mv) a)
include hclocks h1 hu

/-- A call above the first threshold, by the stretch that it meets. -/
theorem State.droop_calls : s.droop d mv a =
    let w := if u.stretch d = 0 || u.stretch d = 3 then u.countTrip d else u
    if (u.stretch d = 1 || u.stretch d = 2) && s.droopLevel d mv ≤ u.stretch d then w
    else ((w.countLoss d a).stretchTo d (s.droopLevel d mv) (25 * s.droopLevel d mv)).showClock d := by
  have hlevel : (if s.get (F.PWR_DIE_DROOP.thr2 d) < mv then 2 else if s.get (F.PWR_DIE_DROOP.thr1 d) < mv then 1 else 0) =
      s.droopLevel d mv := by rw [if_pos h1, State.droopLevel]
  have hcall : ¬ (decide (s.droopLevel d mv = 0) || !s.pwr.clocks) = true := by
    unfold State.droopLevel
    split <;> simp [hclocks]
  subst hu
  rw [State.droop]
  simp only [hlevel]
  exact if_neg hcall

/-- A trip: the clock runs unstretched, or ramps back. -/
theorem State.droop_trips (hst : u.stretch d = 0 ∨ u.stretch d = 3) : s.droop d mv a =
    ((((u.countTrip d).countLoss d a).stretchTo d (s.droopLevel d mv) (25 * s.droopLevel d mv)).showClock d) := by
  have htrip : (decide (u.stretch d = 0) || decide (u.stretch d = 3)) = true := by simpa using hst
  have hfresh : ¬ ((decide (u.stretch d = 1) || decide (u.stretch d = 2)) && decide (s.droopLevel d mv ≤ u.stretch d)) = true := by
    rcases hst with h | h
    · simp [h]
    · simp [h]
  rw [State.droop_calls a hclocks h1 hu]
  simp only [if_pos htrip, if_neg hfresh]

/-- A call for more than the stretch that holds deepens it without a trip. -/
theorem State.droop_deepens (hst : u.stretch d = 1) (hlevel : s.droopLevel d mv = 2) :
    s.droop d mv a = (((u.countLoss d a).stretchTo d 2 50).showClock d) := by
  rw [State.droop_calls a hclocks h1 hu, hlevel]
  simp [hst]

/-- A call for no more than the stretch that holds is noted alone. -/
theorem State.droop_held (hst : u.stretch d = 1 ∨ u.stretch d = 2) (hlevel : s.droopLevel d mv ≤ u.stretch d) :
    s.droop d mv a = u := by
  have hheld : ((decide (u.stretch d = 1) || decide (u.stretch d = 2)) && decide (s.droopLevel d mv ≤ u.stretch d)) = true := by
    simp [hst, hlevel]
  have hsame : ¬ (decide (u.stretch d = 0) || decide (u.stretch d = 3)) = true := by
    rcases hst with h | h
    · simp [h]
    · simp [h]
  rw [State.droop_calls a hclocks h1 hu]
  simp only [if_pos hheld, if_neg hsame]

end

section
variable {s d a}

theorem State.stretchRelease_75 (hst : s.stretch d = 1) (hcall : (s.clk d).call1 + 250 ≤ a) :
    s.stretchRelease d a = ((s.reach a).countLoss d a).stretchTo d 3 25 := by
  rw [State.stretchRelease]
  simp [hst, Nat.not_lt.mpr hcall, State.stretchTo]

theorem State.stretchRelease_50 (hst : s.stretch d = 2) (hcall2 : (s.clk d).call2 + 250 ≤ a) (hcall1 : (s.clk d).call1 + 250 ≤ a) :
    s.stretchRelease d a = ((s.reach a).countLoss d a).stretchTo d 3 50 := by
  rw [State.stretchRelease]
  simp [hst, Nat.not_lt.mpr hcall1, Nat.not_lt.mpr hcall2, State.stretchTo]

theorem State.stretchRelease_to75 (hst : s.stretch d = 2) (hcall2 : (s.clk d).call2 + 250 ≤ a) (hcall1 : a < (s.clk d).call1 + 250) :
    s.stretchRelease d a = (((s.reach a).countLoss d a).stretchTo d 1 25).showClock d := by
  rw [State.stretchRelease]
  simp [hst, hcall1, Nat.not_lt.mpr hcall2, State.stretchTo]

theorem State.rampDone_over (hst : s.stretch d = 3) (hover : (s.clk d).since + 25 * (s.clk d).deficit ≤ a) :
    s.rampDone d a = (((s.reach a).countLoss d a).stretchTo d 0 0).showClock d :=
  if_neg (by simp [hst, hover])

end
end

end Sys2Proof.Machine
end

section
/-! The statement about the droop stretch, settled. -/

namespace Sys2Proof.Machine

/-- Settles O44: a call by the stretch that it meets, and a release by the level still called for. -/
theorem droopStretch : Obligations.DroopStretch := by
  intro s d a st
  refine ⟨fun mv hclocks h1 => ?call, fun mv h1 h2 => congrArg _ (s.droop_calm d mv a h1 h2),
    fun hst hcall => congrArg _ (State.stretchRelease_75 hst hcall),
    fun hst hcall2 hcall1 => congrArg _ (State.stretchRelease_50 hst hcall2 hcall1),
    fun hst hcall2 hcall1 => congrArg _ (State.stretchRelease_to75 hst hcall2 hcall1),
    fun hst hover => congrArg _ (State.rampDone_over hst hover)⟩
  intro level x u t r
  have hu : u = s.noteCall d (s.droopLevel d mv) a := rfl
  exact ⟨fun hst => congrArg _ (State.droop_trips a hclocks h1 hu hst),
    fun hst hlevel => congrArg _ (State.droop_deepens a hclocks h1 hu hst hlevel),
    fun hst hlevel => congrArg _ (State.droop_held a hclocks h1 hu hst hlevel)⟩

end Sys2Proof.Machine
end

section
/-! SUPPORT. The thermal and power loops (R512-R514): what a sample's readings leave, and the step that they ask for. -/

namespace Sys2Proof.Machine

theorem exec_thermalSample_compute (d : Fin 4) (die : Vector Nat 16) (stks : Vector Nat 6) (a : Nat) (s : State) :
    exec (.thermalSample (.compute d die stks) a) s = .next (s.thermalSample d die.toList stks.toList a) := rfl
theorem exec_thermalSample_fabric (f : Fin 2) (l : Vector Nat 4) (a : Nat) (s : State) :
    exec (.thermalSample (.fabric f l) a) s = .next (s.fabSample f l.toList a) := rfl
theorem exec_thermalTrip (n : Fin 139) (a : Nat) (s : State) : exec (.thermalTrip n a) s = .next (s.thermalTrip n a) := rfl
theorem exec_powerSample (l : Samples) (vaux a : Nat) (s : State) :
    exec (.powerSample l vaux a) s = .next (s.powerSample l.toList vaux a) := rfl

theorem vector_take_toList {n : Nat} (v : Vector Nat n) : v.toList.take n = v.toList :=
  List.take_of_length_le (by simp)

section
variable (s : State) (d a : Nat)

/-- A die's temperature by the readings that are held: of its sensors in service, or 95 when none is left, and its stacks. -/
def State.dieTemp (s : State) (d : Nat) : Nat :=
  max (if ((List.range 16).filter fun i => (s.sensor (32 * d + i)).failed).length = 16 then 95
    else maxOf (s.goodReadings (32 * d) 16)) (maxOf (s.goodReadings (32 * d + 16) 6))

/-- The module that shows a die's temperature. -/
def State.showTemp (s : State) (d : Nat) : State :=
  ((s.put (F.PWR_DIE_TEMP.tj d) (s.dieTemp d)).put (F.PWR_DIE_TEMP.sensors d) (s.goodReadings (32 * d) 16).length).put
    (F.PWR_DIE_TEMP.hbm d) (maxOf (s.goodReadings (32 * d + 16) 6))

/-- A die's thermal step becomes `k`. -/
def State.thermalStep (s : State) (d a k : Nat) : State :=
  (s.changeStep d a (F.PWR_DIE_CLK.tstep d) k).setClk d { (s.changeStep d a (F.PWR_DIE_CLK.tstep d) k).clk d with tempAt := a }

section
variable {s d a} {die : Vector Nat 16} {stks : Vector Nat 6} {r u : State}
variable (hclocks : s.pwr.clocks = true)
  (hr : r = ((s.reach a).takeReadings (32 * d) die.toList 0).takeReadings (32 * d + 16) stks.toList 0) (hu : u = r.showTemp d)
include hclocks hr hu

/-- A sample below the trip, by the temperature that it shows. -/
theorem State.thermalSample_untripped (htrip : r.dieTemp d < 105) : s.thermalSample d die.toList stks.toList a =
    if 95 ≤ r.dieTemp d then
      (if 16 ≤ u.get (F.PWR_DIE_CLK.tstep d) then u
       else (if u.get (F.PWR_DIE_CLK.tstep d) = 0 then u.errc (dieErrc d 0x34) 1 else u).thermalStep d a
         (u.get (F.PWR_DIE_CLK.tstep d) + 1))
    else if r.dieTemp d ≤ 92 && 0 < u.get (F.PWR_DIE_CLK.tstep d) && decide ((u.clk d).tempAt + fcMs 10 ≤ a) then
      u.thermalStep d a (u.get (F.PWR_DIE_CLK.tstep d) - 1)
    else u := by
  subst hu hr
  refine (if_neg (by simp [hclocks])).trans ?_
  rw [vector_take_toList, vector_take_toList]
  exact if_neg (Nat.not_le.mpr htrip)

theorem State.thermalSample_mild (h95 : r.dieTemp d < 95) (h : 92 < r.dieTemp d ∨ u.get (F.PWR_DIE_CLK.tstep d) = 0 ∨
    a < (u.clk d).tempAt + fcMs 10) : s.thermalSample d die.toList stks.toList a = u := by
  have hstay : ¬ (decide (r.dieTemp d ≤ 92) && decide (0 < u.get (F.PWR_DIE_CLK.tstep d)) &&
      decide ((u.clk d).tempAt + fcMs 10 ≤ a)) = true := by
    simp only [Bool.and_eq_true, decide_eq_true_eq, not_and]
    omega
  rw [State.thermalSample_untripped hclocks hr hu (by omega), if_neg (Nat.not_le.mpr h95), if_neg hstay]

theorem State.thermalSample_cool (h92 : r.dieTemp d ≤ 92) (hk : 0 < u.get (F.PWR_DIE_CLK.tstep d))
    (hlong : (u.clk d).tempAt + fcMs 10 ≤ a) :
    s.thermalSample d die.toList stks.toList a = u.thermalStep d a (u.get (F.PWR_DIE_CLK.tstep d) - 1) := by
  rw [State.thermalSample_untripped hclocks hr hu (by omega), if_neg (by omega), if_pos (by simp [h92, hk, hlong])]

theorem State.thermalSample_hot_first (h95 : 95 ≤ r.dieTemp d) (h105 : r.dieTemp d < 105)
    (hk : u.get (F.PWR_DIE_CLK.tstep d) = 0) :
    s.thermalSample d die.toList stks.toList a = (u.errc (dieErrc d 0x34) 1).thermalStep d a 1 := by
  rw [State.thermalSample_untripped hclocks hr hu h105, if_pos h95, if_neg (by omega), if_pos hk, hk]

theorem State.thermalSample_hot (h95 : 95 ≤ r.dieTemp d) (h105 : r.dieTemp d < 105)
    (hk : 0 < u.get (F.PWR_DIE_CLK.tstep d)) (h16 : u.get (F.PWR_DIE_CLK.tstep d) < 16) :
    s.thermalSample d die.toList stks.toList a = u.thermalStep d a (u.get (F.PWR_DIE_CLK.tstep d) + 1) := by
  rw [State.thermalSample_untripped hclocks hr hu h105, if_pos h95, if_neg (by omega), if_neg (by omega)]

theorem State.thermalSample_full (h95 : 95 ≤ r.dieTemp d) (h105 : r.dieTemp d < 105)
    (h16 : 16 ≤ u.get (F.PWR_DIE_CLK.tstep d)) : s.thermalSample d die.toList stks.toList a = u := by
  rw [State.thermalSample_untripped hclocks hr hu h105, if_pos h95, if_pos h16]

end

/-- A fabric die's sample below the trip. -/
theorem State.fabSample_untripped {s : State} {f a : Nat} {l : Vector Nat 4} {r : State} (hclocks : s.pwr.clocks = true)
    (hr : r = (s.reach a).takeReadings (128 + 4 * f) l.toList 0) (htrip : maxOf (r.goodReadings (128 + 4 * f) 4) < 105) :
    s.fabSample f l.toList a =
      r.put (if f = 0 then F.PWR_FAB_TEMP.w else F.PWR_FAB_TEMP.e) (maxOf (r.goodReadings (128 + 4 * f) 4)) := by
  subst hr
  refine (if_neg (by simp [hclocks])).trans ?_
  rw [vector_take_toList]
  exact if_neg (Nat.not_le.mpr htrip)

theorem State.thermalTrip_first (n : Nat) (htherm : s.pwr.therm = false) (hvaux : s.pwr.vaux = true) :
    s.thermalTrip n a = { (s.reach a).powerDown a with
      pwr := { ((s.reach a).powerDown a).pwr with therm := true },
      eas := { ((s.reach a).powerDown a).eas with log := ((s.reach a).powerDown a).eas.log ++ [(1, n)] } } := by
  have htrips : ¬ (s.pwr.therm || !s.pwr.vaux) = true := by simp [htherm, hvaux]
  have hpins (w : State) : ((w.mapPwr fun p => { p with therm := true }).mapEas fun e => { e with log := e.log ++ [(1, n)] }) =
      { w with pwr := { w.pwr with therm := true }, eas := { w.eas with log := w.eas.log ++ [(1, n)] } } := rfl
  rw [State.thermalTrip, if_neg htrips]
  exact hpins _

/-! The cap on the input power. -/

/-- The sum of the products of a millisecond's samples. -/
def powerSum (l : Samples) : Nat := (l.toList.map fun q => q.1 * q.2).foldl (· + ·) 0

/-- The module that has taken the readings of a power sample. -/
def State.powerRead (s : State) (l : Samples) (vaux a : Nat) : State :=
  l.toList.foldl (fun s q => (s.reading 136 q.1).reading 137 q.2) ((s.reach a).reading 138 vaux)

/-- The module that shows the input power, of which `unit` is 1 W summed over the samples. -/
def State.showPower (r : State) (l : Samples) (unit : Nat) : State :=
  (((r.put F.PWR_IN.vmain ((r.sensor 136).good.getD 0)).put F.PWR_IN.imain ((r.sensor 137).good.getD 0)).put
    F.PWR_IN.vaux ((r.sensor 138).good.getD 0)).put F.PWR_IN.pin_1ms (powerSum l / unit)

/-- The fc since which the power has been low. -/
def State.sinceBelow (v : State) (b : Option Nat) : State := { v with pwr := { v.pwr with below := b } }

section
variable {s a} {l : Samples} {vaux unit : Nat} {v : State}
variable (hclocks : s.pwr.clocks = true) (hunit : unit = 10000 * max 1 l.toList.length)
  (hv : v = (s.powerRead l vaux a).showPower l unit)
include hclocks hunit hv

theorem State.powerSample_eq : s.powerSample l.toList vaux a =
    let lim := v.get F.PWR_LIMIT.limit
    let k := v.get (F.PWR_DIE_CLK.pstep 0)
    let below := if powerSum l < (lim - 50) * unit then some (v.pwr.below.getD a) else none
    let u := v.sinceBelow below
    if lim * unit < powerSum l then (if 16 ≤ k then u else (u.setPstep (k + 1) a).add F.PWR_CNT_CAP.count 1)
    else match below with
      | some t =>
        if 0 < k && decide (t + fcMs 10 ≤ a) && decide (u.pwr.decAt + fcMs 10 ≤ a) then
          (u.setPstep (k - 1) a).mapPwr fun p => { p with decAt := a }
        else u
      | none => u := by
  subst hv
  unfold State.powerSample
  rw [if_neg (by simp [hclocks])]
  simp only [← hunit]
  rfl

/-- Power above the limit is not below it. -/
theorem State.powerSample_atLeast (h : (v.get F.PWR_LIMIT.limit - 50) * unit ≤ powerSum l) : s.powerSample l.toList vaux a =
    if v.get F.PWR_LIMIT.limit * unit < powerSum l then
      (if 16 ≤ v.get (F.PWR_DIE_CLK.pstep 0) then v.sinceBelow none
       else ((v.sinceBelow none).setPstep (v.get (F.PWR_DIE_CLK.pstep 0) + 1) a).add F.PWR_CNT_CAP.count 1)
    else v.sinceBelow none := by
  rw [State.powerSample_eq hclocks hunit hv]
  simp only [if_neg (Nat.not_lt.mpr h)]

theorem State.powerSample_above (h : v.get F.PWR_LIMIT.limit * unit < powerSum l) : s.powerSample l.toList vaux a =
    if 16 ≤ v.get (F.PWR_DIE_CLK.pstep 0) then v.sinceBelow none
    else ((v.sinceBelow none).setPstep (v.get (F.PWR_DIE_CLK.pstep 0) + 1) a).add F.PWR_CNT_CAP.count 1 := by
  have hnear : (v.get F.PWR_LIMIT.limit - 50) * unit ≤ powerSum l :=
    (Nat.mul_le_mul_right unit (Nat.sub_le _ 50)).trans h.le
  rw [State.powerSample_atLeast hclocks hunit hv hnear, if_pos h]

theorem State.powerSample_near (hlo : (v.get F.PWR_LIMIT.limit - 50) * unit ≤ powerSum l)
    (hhi : powerSum l ≤ v.get F.PWR_LIMIT.limit * unit) : s.powerSample l.toList vaux a = v.sinceBelow none := by
  rw [State.powerSample_atLeast hclocks hunit hv hlo, if_neg (Nat.not_lt.mpr hhi)]

theorem State.powerSample_below (h : powerSum l < (v.get F.PWR_LIMIT.limit - 50) * unit) : s.powerSample l.toList vaux a =
    if 0 < v.get (F.PWR_DIE_CLK.pstep 0) && decide (v.pwr.below.getD a + fcMs 10 ≤ a) && decide (v.pwr.decAt + fcMs 10 ≤ a) then
      ((v.sinceBelow (some (v.pwr.below.getD a))).setPstep (v.get (F.PWR_DIE_CLK.pstep 0) - 1) a).mapPwr fun p => { p with decAt := a }
    else v.sinceBelow (some (v.pwr.below.getD a)) := by
  have hlow : ¬ v.get F.PWR_LIMIT.limit * unit < powerSum l :=
    Nat.not_lt.mpr (h.le.trans (Nat.mul_le_mul_right unit (Nat.sub_le _ 50)))
  rw [State.powerSample_eq hclocks hunit hv]
  simp only [if_pos h, if_neg hlow]
  rfl

end
end

end Sys2Proof.Machine
end

section
/-! The statement about the thermal and power loops, settled. -/

namespace Sys2Proof.Machine

/-- Settles O45: a sample by the temperature or the power that it shows. -/
theorem thermalAndPowerLoops : Obligations.ThermalAndPowerLoops := by
  intro s a hclocks
  refine ⟨fun d die stks => ?die, fun f l => ?fabric, fun n htherm hvaux => ?trip, fun l vaux => ?power⟩
  case die =>
    intro r left hbm lost tj u k step
    have hu : u = r.showTemp d := rfl
    exact ⟨fun h95 h => congrArg _ (State.thermalSample_mild hclocks rfl hu h95 h),
      fun h92 hk hlong => congrArg _ (State.thermalSample_cool hclocks rfl hu h92 hk hlong),
      fun h95 h105 hk => congrArg _ (State.thermalSample_hot_first hclocks rfl hu h95 h105 hk),
      fun h95 h105 hk h16 => congrArg _ (State.thermalSample_hot hclocks rfl hu h95 h105 hk h16),
      fun h95 h105 h16 => congrArg _ (State.thermalSample_full hclocks rfl hu h95 h105 h16)⟩
  case fabric =>
    intro r t htrip
    rw [exec_thermalSample_fabric, State.fabSample_untripped hclocks rfl htrip]
    simp only [Fin.val_eq_zero_iff]
    rfl
  case trip => exact congrArg _ (s.thermalTrip_first a n htherm hvaux)
  case power =>
    intro r sum v lim k above t under
    have hunit : 1000000 = 10000 * max 1 l.toList.length := by simp
    have hv : v = (s.powerRead l vaux a).showPower l 1000000 := rfl
    rw [exec_powerSample]
    refine ⟨fun h hk => congrArg _ ?_, fun h hk => congrArg _ ?_, fun hlo hhi => congrArg _ ?_, fun h hk ht hdec => congrArg _ ?_,
      fun h hstay => congrArg _ ?_⟩
    · exact (State.powerSample_above hclocks hunit hv h).trans (if_neg (Nat.not_le.mpr hk))
    · exact (State.powerSample_above hclocks hunit hv h).trans (if_pos hk)
    · exact State.powerSample_near hclocks hunit hv hlo hhi
    · exact (State.powerSample_below hclocks hunit hv h).trans (if_pos (by
        simp only [Bool.and_eq_true, decide_eq_true_eq]
        exact ⟨⟨hk, ht⟩, hdec⟩))
    · exact (State.powerSample_below hclocks hunit hv h).trans (if_neg (by
        simp only [Bool.and_eq_true, decide_eq_true_eq, not_and]
        omega))

end Sys2Proof.Machine
end

section
/-! SUPPORT. Boot (R430, R485, R493, R516, R519-R523): what each of the six stages does once the one before it is over. -/

namespace Sys2Proof.Machine

theorem exec_stageEasel (m p g : StrapSamples) (a : Nat) (s : State) :
    exec (.stageEasel m p g a) s = .next (s.stageEasel m.list p.list g.list a) := rfl
theorem exec_stageRails (a : Nat) (s : State) : exec (.stageRails a) s = .next (s.stageRails a) := rfl
theorem exec_stageBridgesAndHbm (b : Bundles) (t : BitVec 24) (a : Nat) (s : State) :
    exec (.stageBridgesAndHbm b t a) s = .next (s.stageHbm b.toList t.toNat a) := rfl
theorem exec_stageQuickScan (l : List PhysTile) (a : Nat) (s : State) :
    exec (.stageQuickScan l a) s = .next (s.stageScan (l.map PhysTile.idx) a) := rfl
theorem exec_stageLinks (a : Nat) (s : State) : exec (.stageLinks a) s = .next (s.stageLinks a) := rfl
theorem exec_stageEnumeration (a : Nat) (s : State) : exec (.stageEnumeration a) s = .next (s.stageEnum a) := rfl
theorem exec_modResetN (low : Bool) (n a : Nat) (s : State) : exec (.modResetN low n a) s = .next (s.resetPin low n a) := rfl
theorem exec_exchangePhaseEnd (t : TileId) (a : Nat) (s : State) :
    exec (.exchangePhaseEnd t a) s = .next (s.withTile t fun s p => s.phaseEnd p a) := rfl

/-- The module is booting, powered, not held and not tripped, and stage `n` is over. -/
def State.BootedTo (s : State) (n : Nat) : Prop := s.pwr.vaux = true ∧ s.pwr.vmain = true ∧ s.pwr.held = false ∧
  s.pwr.therm = false ∧ s.get F.MOD_STATE.state = 0 ∧ s.get F.MOD_STATE.stage = n

theorem State.BootedTo.mayBoot {s : State} {n : Nat} (h : s.BootedTo n) : s.mayBoot (n + 1) = true := by
  obtain ⟨hvaux, hvmain, hheld, htherm, hstate, hstage⟩ := h
  simp [State.mayBoot, hvaux, hvmain, hheld, htherm, hstate, hstage]

/-- Writes of registers keep the profile in force. -/
theorem State.foldl_put_prof (s : State) (l : List Nat) (f : Nat → RF) (g : BitVec 4096 → Nat) :
    l.foldl (fun s d => s.put (f d) (g s.eas.prof)) s = l.foldl (fun u d => u.put (f d) (g s.eas.prof)) s := by
  suffices h : ∀ u : State, u.eas.prof = s.eas.prof →
      l.foldl (fun s d => s.put (f d) (g s.eas.prof)) u = l.foldl (fun u d => u.put (f d) (g s.eas.prof)) u from h s rfl
  induction l with
  | nil => exact fun _ _ => rfl
  | cons d l ih =>
    intro u hu
    rw [List.foldl_cons, List.foldl_cons, hu]
    exact ih _ hu

section
variable {s : State} {a : Nat}

theorem State.stageEasel_starts (h : s.BootedTo 0) (master profile mgmt : List Nat) {u v : State}
    (hu : u = (((s.enterStage 1 a).bootImage.chooseProfile profile).chooseRole master).chooseAddr mgmt)
    (hv : v = (List.range 4).foldl (fun s d => s.put (F.PEN_CTL.avail d) (profDebug u.eas.prof).toNat) u) :
    s.stageEasel master profile mgmt a = (v.errc 6 v.fuseDiffs).mirrorFuses := by
  rw [← State.foldl_put_prof u (List.range 4) (fun d => F.PEN_CTL.avail d) fun p => (profDebug p).toNat] at hv
  subst hv hu
  exact if_neg (by simp [h.mayBoot])

theorem State.stageRails_starts (h : s.BootedTo 1) : s.stageRails a =
    if (s.enterStage 2 a).railsUp then (s.enterStage 2 a).startClocks
    else { s.enterStage 2 a with pwr := { (s.enterStage 2 a).pwr with group := 1 } } :=
  if_neg (by simp [h.mayBoot])

/-- Stage 3 finds every bridge within its spare bundles and every stack trained, or fails. -/
theorem State.stageHbm_starts (h : s.BootedTo 2) (hrails : s.railsUp = true) (failed : List Nat) (trained : Nat) :
    s.stageHbm failed trained a =
      if failed.any (fun n => decide (6 < n)) || !((List.range 24).all trained.testBit) then
        ((List.range 24).foldl (fun s k =>
          if trained.testBit k then s else s.put (F.HBM_SE_STATUS.state (k / 6) (k % 6)) 4) (s.enterStage 3 a)).bootFails a
      else
        (List.range 4).foldl (fun s d => (List.range 6).foldl (fun s p =>
          (s.put (F.HBM_SE_STATUS.state d p) 1).setDirty d p (s.dirty d p)) s)
          ((List.range 2).foldl (fun s f => (List.range 8).foldl (fun s k =>
            s.put (F.FAB_PORT_STATUS.state f (16 + k)) PortState.up) s) (s.enterStage 3 a)) :=
  if_neg (by simp [h.mayBoot, hrails])

theorem allTrained_iff (t : BitVec 24) : (List.range 24).all t.toNat.testBit = true ↔ t = BitVec.allOnes 24 := by
  rw [List.all_eq_true]
  constructor
  · intro h
    refine BitVec.eq_of_getLsbD_eq fun i hi => ?_
    rw [BitVec.getLsbD_allOnes, decide_eq_true hi]
    exact h i (List.mem_range.mpr hi)
  · rintro rfl k hk
    have hbit : (BitVec.allOnes 24).getLsbD k = true := by
      rw [BitVec.getLsbD_allOnes]
      exact decide_eq_true (List.mem_range.mp hk)
    exact hbit

/-- The maps of stage 4, loaded and shown, after the scan's failures. -/
def State.scanned (s : State) (fails : List Nat) (a : Nat) : State :=
  (List.range 4).foldl State.showUnfused
    (((List.range 4).flatMap fun d => (List.range 48).map fun r => (d, r)).foldl (fun s q => s.loadMap q.1 q.2)
      { fails.foldl State.scanFailed (s.enterStage 4 a) with tiles := [] })

theorem State.stageScan_starts (h : s.BootedTo 3) (fails : List Nat) : s.stageScan fails a =
    if ((List.range 4).flatMap fun d => (List.range 48).map fun r => (d, r)).all
      fun q => (bootMap ((s.scanned fails a).retiredCols q.1 q.2)).2 then s.scanned fails a
    else (s.scanned fails a).bootFails a :=
  if_neg (by simp [h.mayBoot])

theorem State.stageLinks_starts (h : s.BootedTo 4) {u : State}
    (hu : u = ((s.enterStage 5 a).put (F.FAB_NODE.node_id 0) (profNode (s.enterStage 5 a).eas.prof % 2 ^ 14)).put
      (F.FAB_NODE.valid 0) (profNode (s.enterStage 5 a).eas.prof / 2 ^ 15)) : s.stageLinks a =
    ((List.range 2).foldl (fun s f => (List.range 16).foldl (fun s p =>
      if (profPorts s.eas.prof).testBit (16 * f + p) then s.portEnable f p a else s) s) u).startClaims a := by
  subst hu
  exact if_neg (by simp [h.mayBoot])

/-- Stage 6 of a module whose role claims have begun ends in READY. -/
theorem State.stageEnum_claimed (h : s.BootedTo 5) (hports : s.linksTrained = true ∨ s.pwr.stageAt + fcMs 10000 ≤ a)
    (hclaims : (s.enterStage 6 a).tick.trained = true) : s.stageEnum a =
      ((((s.enterStage 6 a).put F.HOST_CFG.keep_link (profKeepLink (s.enterStage 6 a).eas.prof).toNat).setLocks
        (profLocks (s.enterStage 6 a).eas.prof)).put F.MOD_STATE.state 1) := by
  have hdue : (s.linksTrained || decide (s.pwr.stageAt + fcMs 10000 ≤ a)) = true := by simpa using hports
  refine (if_neg (by rw [h.mayBoot, hdue]; decide)).trans ?_
  simp only [if_pos hclaims]

theorem State.resetPin_asserted {n : Nat} (hn : 1000 ≤ n) (hvaux : s.pwr.vaux = true) :
    s.resetPin true n a = { s.resetModule 1 a with pwr := { (s.resetModule 1 a).pwr with held := true } } :=
  (if_pos rfl).trans (if_neg (by simp [hn, hvaux]))

theorem State.phaseEnd_inPhase {p : Nat} (h : (s.tile p).inPhase = true) : s.phaseEnd p a = s.edgeDrain p a := if_pos h

end

end Sys2Proof.Machine
end

section
/-! The statement about the boot stages, settled. -/

namespace Sys2Proof.Machine

/-- Settles O46: each stage by the stage that is over, with the checks that end it. -/
theorem bootStages : Obligations.BootStages := by
  intro s a from_ at_
  refine ⟨fun m p g hfrom => ?easel, fun hfrom => ?rails, fun b t hfrom hrails => ?hbm, fun l hfrom => ?scan, fun hfrom => ?links,
    fun hfrom hports hclaims => congrArg _ (State.stageEnum_claimed hfrom hports hclaims),
    fun n hn hvaux => congrArg _ (State.resetPin_asserted hn hvaux), fun n => rfl, fun t p hp hphase => ?phase⟩
  case easel => exact congrArg _ (State.stageEasel_starts hfrom _ _ _ rfl rfl)
  case rails =>
    have hstart := State.stageRails_starts (a := a) hfrom
    exact ⟨fun h => congrArg _ (hstart.trans (if_pos h)), fun h => congrArg _ (hstart.trans (if_neg (Bool.eq_false_iff.mp h)))⟩
  case hbm =>
    have hstart := State.stageHbm_starts (a := a) hfrom hrails b.toList t.toNat
    refine ⟨fun hb ht => congrArg _ (hstart.trans (if_neg ?_)), fun hbad => congrArg _ (hstart.trans (if_pos ?_))⟩
    · have hany : (b.toList.any fun n => decide (6 < n)) = false :=
        List.any_eq_false.mpr fun n hn => by simpa using hb n hn
      rw [hany, (allTrained_iff t).mpr ht]
      decide
    · rcases hbad with ⟨n, hn, h6⟩ | ht
      · exact Bool.or_eq_true_iff.mpr (.inl (List.any_eq_true.mpr ⟨n, hn, decide_eq_true h6⟩))
      · have hall : (List.range 24).all t.toNat.testBit = false :=
          Bool.eq_false_iff.mpr fun h => ht ((allTrained_iff t).mp h)
        rw [hall]
        exact Bool.or_true _
  case scan =>
    intro scan rows u
    have hstart := State.stageScan_starts (a := a) hfrom (l.map PhysTile.idx)
    refine ⟨fun hall => congrArg _ (hstart.trans (if_pos (List.all_eq_true.mpr hall))), fun hbad => congrArg _ (hstart.trans (if_neg ?_))⟩
    obtain ⟨q, hq, hmap⟩ := hbad
    intro hall
    exact Bool.false_ne_true (hmap.symm.trans (List.all_eq_true.mp hall q hq))
  case links => exact congrArg _ (State.stageLinks_starts hfrom rfl)
  case phase =>
    rw [exec_exchangePhaseEnd, State.withTile_served hp, State.phaseEnd_inPhase hphase]

end Sys2Proof.Machine
end

section
/-! SUPPORT. The loader's commands (R443-R449, R459): rows by what they ask for, a load by the loader's state, and a start. -/

namespace Sys2Proof.Machine

theorem exec_ldrCtxRowsWrite (d : Fin 4) (c : Fin 64) (v : BitVec 48) (s : State) : exec (.ldrCtxRowsWrite d c v) s =
    .next (s.byHost (F.LDR_CTX_ROWS.rows d c).addr fun s => s.ldrRowsWrite d c v.toNat) := rfl
theorem exec_load (d : Fin 4) (c : Fin 64) (auto : Bool) (s : State) : exec (.load d c auto) s =
    .next (s.byHost (F.LDR_CTX_CMD.load d c).addr fun s => s.load d c false auto) := rfl
theorem exec_loadRestore (d : Fin 4) (c : Fin 64) (auto : Bool) (s : State) : exec (.loadRestore d c auto) s =
    .next (s.byHost (F.LDR_CTX_CMD.load d c).addr fun s => s.load d c true auto) := rfl
theorem exec_loadFinish (d : Fin 4) (c : Fin 64) (cyc a : Nat) (s : State) :
    exec (.loadFinish d c cyc a) s = .next (s.loadFinish d c cyc a) := rfl
theorem exec_start (d : Fin 4) (c : Fin 64) (cyc a : Nat) (s : State) : exec (.start d c cyc a) s =
    .next (s.byHost (F.LDR_CTX_CMD.load d c).addr fun s => s.start d c cyc a) := rfl
theorem exec_penRingWrite (d : Fin 4) (v : Word) (s : State) :
    exec (.penRingWrite d v) s = .next (s.byHost (F.PEN_RING.rgn d).addr fun s => s.penRing d v) := rfl

theorem Tile.put_sregs_keeps (t : Tile) (f : RF) (v : Nat) : (t.put f v).sregs = t.sregs := rfl
theorem Tile.put_pal_keeps (t : Tile) (f : RF) (v : Nat) : (t.put f v).pal = t.pal := rfl

/-- A start writes registers of the tile's own, and keeps the scalar registers and the Palette. -/
theorem Tile.start_keeps (t : Tile) (gid c seed model cyc : Nat) (pen running : Bool) :
    (t.start gid c seed model cyc pen running).sregs = t.sregs ∧ (t.start gid c seed model cyc pen running).pal = t.pal := by
  unfold Tile.start
  exact ⟨by simp only [Tile.put_sregs_keeps], by simp only [Tile.put_pal_keeps]⟩

section
variable {s : State} {d c cyc a : Nat}

theorem State.ldrRowsWrite_busy (v : Nat) (h : 4 ≤ s.ldrState d c) : s.ldrRowsWrite d c v = s.ldrReject d c :=
  if_pos (by simp [h])

section
variable {v : BitVec 48}
variable (hfree : ∀ k < 64, k ≠ c → s.ldrRows d k &&& v.toNat = 0) (hst : s.ldrState d c < 4)
include hfree hst

/-- An accepted write of rows that no other context holds. -/
theorem State.ldrRowsWrite_accepts (hctx : v = 0#48 ∨ s.get (F.HCTX_STATUS.state c) ≠ 0) : s.ldrRowsWrite d c v.toNat =
    if v.toNat = 0 then
      (((s.put (F.LDR_CTX_ROWS.rows d c) v.toNat).setLdr d c LdrCtx.fresh).setLdrState d c 0).showGesso d c
    else if s.gessoRows d v.toNat = 0 then
      (((s.put (F.LDR_CTX_ROWS.rows d c) v.toNat).setLdrState d c 3).showGesso d c).startHeld d c
    else ((s.put (F.LDR_CTX_ROWS.rows d c) v.toNat).setLdrState d c 2).showGesso d c := by
  have hmod : v.toNat % 2 ^ 48 = v.toNat := Nat.mod_eq_of_lt v.isLt
  have htaken : ((List.range 64).any fun k => k != c && decide (s.ldrRows d k &&& v.toNat ≠ 0)) = false :=
    List.any_eq_false.mpr fun k hk => by
      by_cases hkc : k = c
      · simp [hkc]
      · simp [hfree k (List.mem_range.mp hk) hkc]
  have hown : (decide (v.toNat ≠ 0) && s.get (F.HCTX_STATUS.state c) == 0) = false := by
    rcases hctx with rfl | h
    · rfl
    · simp [h]
  have hopen : decide (4 ≤ s.ldrState d c) = false := decide_eq_false (by omega)
  rw [State.ldrRowsWrite, hmod]
  exact if_neg (by rw [htaken, hown, hopen]; decide)

theorem State.ldrRowsWrite_none (hv : v = 0#48) : s.ldrRowsWrite d c v.toNat =
    (((s.put (F.LDR_CTX_ROWS.rows d c) v.toNat).setLdr d c LdrCtx.fresh).setLdrState d c 0).showGesso d c := by
  rw [State.ldrRowsWrite_accepts hfree hst (.inl hv), if_pos (by rw [hv]; rfl)]

theorem State.ldrRowsWrite_ready (hv : v ≠ 0#48) (hctx : s.get (F.HCTX_STATUS.state c) ≠ 0) (hg : s.gessoRows d v.toNat = 0) :
    s.ldrRowsWrite d c v.toNat = (((s.put (F.LDR_CTX_ROWS.rows d c) v.toNat).setLdrState d c 3).showGesso d c).startHeld d c := by
  have hne : v.toNat ≠ 0 := fun h => hv (BitVec.eq_of_toNat_eq h)
  rw [State.ldrRowsWrite_accepts hfree hst (.inr hctx), if_neg hne, if_pos hg]

theorem State.ldrRowsWrite_gesso (hv : v ≠ 0#48) (hctx : s.get (F.HCTX_STATUS.state c) ≠ 0) (hg : s.gessoRows d v.toNat ≠ 0) :
    s.ldrRowsWrite d c v.toNat = ((s.put (F.LDR_CTX_ROWS.rows d c) v.toNat).setLdrState d c 2).showGesso d c := by
  have hne : v.toNat ≠ 0 := fun h => hv (BitVec.eq_of_toNat_eq h)
  rw [State.ldrRowsWrite_accepts hfree hst (.inr hctx), if_neg hne, if_neg hg]

end

/-- The load command that the loader holds. -/
def State.heldLoad (s : State) (d c : Nat) (restore auto : Bool) : State :=
  s.setLdr d c { s.ldrOf d c with busy := true, restore := restore, auto := auto }

section
variable (restore auto : Bool) (hctx : s.get (F.HCTX_STATUS.state c) < 2)
include hctx

theorem State.load_ready (h : s.ldrState d c = 3) : s.load d c restore auto = (s.heldLoad d c restore auto).loadBegin d c restore := by
  simp only [State.load, if_neg (Nat.not_le.mpr hctx), h, State.heldLoad]

theorem State.load_held (h : s.ldrState d c = 2) : s.load d c restore auto = s.heldLoad d c restore auto := by
  simp only [State.load, if_neg (Nat.not_le.mpr hctx), h, State.heldLoad]

theorem State.load_rejected (h2 : s.ldrState d c ≠ 2) (h3 : s.ldrState d c ≠ 3) : s.load d c restore auto = s.ldrReject d c := by
  simp only [State.load, if_neg (Nat.not_le.mpr hctx)]

end

/-- The load that ends, and the loader free again. -/
def State.loadOver (s : State) (d c cyc : Nat) : State :=
  (s.loadRun d c cyc (s.ldrOf d c).restore).1.setLdr d c
    { (s.loadRun d c cyc (s.ldrOf d c).restore).1.ldrOf d c with busy := false }

theorem State.loadFinish_loading (h : s.ldrState d c = 4) : s.loadFinish d c cyc a =
    if (s.loadRun d c cyc (s.ldrOf d c).restore).2 ≠ 0 then
      ((s.loadOver d c cyc).setLdrState d c 7).put (F.LDR_CTX_STATUS.err d c) (s.loadRun d c cyc (s.ldrOf d c).restore).2
    else if (s.ldrOf d c).auto then ((s.loadOver d c cyc).setLdrState d c 5).start d c cyc a
    else (s.loadOver d c cyc).setLdrState d c 5 :=
  if_neg (not_not_intro h)

/-- Every tile of the context starts, and the log begins with the first die. -/
theorem State.start_loaded (h : s.ldrState d c = 5) : s.start d c cyc a =
    if ((List.range 4).all fun k => s.ldrState k c != 6) && !((s.reach a).startTiles d c cyc).rcv.restoring.contains c then
      ((((s.reach a).startTiles d c cyc).put (F.SKB_SEQ.next c) 0).mapVctx c fun x => { x with imgSent := false }).skbLog c 0 a
        { kind := 3 }
    else (s.reach a).startTiles d c cyc :=
  if_neg (not_not_intro h)

section
variable {u : State} (hst : s.ldrState d c = 5) (hu : u = (s.reach a).startTiles d c cyc)
include hst hu

theorem State.start_first (hfirst : ∀ k < 4, s.ldrState k c ≠ 6) (hrest : c ∉ u.rcv.restoring) : s.start d c cyc a =
    (((u.put (F.SKB_SEQ.next c) 0).mapVctx c fun x => { x with imgSent := false }).skbLog c 0 a { kind := 3 }) := by
  have hall : ((List.range 4).all fun k => s.ldrState k c != 6) = true :=
    List.all_eq_true.mpr fun k hk => bne_iff_ne.mpr (hfirst k (List.mem_range.mp hk))
  have hout : u.rcv.restoring.contains c = false := by
    rw [List.contains_eq_mem]
    exact decide_eq_false hrest
  rw [State.start_loaded hst, ← hu, hall, hout]
  rfl

theorem State.start_later (hlater : (∃ k < 4, s.ldrState k c = 6) ∨ c ∈ u.rcv.restoring) : s.start d c cyc a = u := by
  have hcond : ¬ (((List.range 4).all fun k => s.ldrState k c != 6) && !u.rcv.restoring.contains c) = true := by
    rw [Bool.and_eq_true, List.all_eq_true, Bool.not_eq_true', List.contains_eq_mem]
    rintro ⟨hall, hout⟩
    rcases hlater with ⟨k, hk, h6⟩ | hrest
    · exact bne_iff_ne.mp (hall k (List.mem_range.mpr hk)) h6
    · exact of_decide_eq_false hout hrest
  rw [State.start_loaded hst, ← hu, if_neg hcond]

end
end

end Sys2Proof.Machine
end

section
/-! The statement about the loader's commands, settled. -/

namespace Sys2Proof.Machine

/-- Settles O53: each command by what it checks. -/
theorem loaderCommands : Obligations.LoaderCommands := by
  intro s d c cyc a
  refine ⟨fun v hr => ?rows, fun auto hr hctx => ?load, fun hst => ?finish, fun hr hst => ?start, fun t g seed model pen => ?tile,
    fun v hr => ?ring⟩
  case rows =>
    rw [exec_ldrCtxRowsWrite, State.byHost_reached _ _ _ hr]
    exact ⟨fun hfree hst hv => congrArg _ (State.ldrRowsWrite_none hfree hst hv),
      fun hfree hst hv hctx hg => congrArg _ (State.ldrRowsWrite_ready hfree hst hv hctx hg),
      fun hfree hst hv hctx hg => congrArg _ (State.ldrRowsWrite_gesso hfree hst hv hctx hg),
      fun hst => congrArg _ (State.ldrRowsWrite_busy _ hst)⟩
  case load =>
    rw [exec_load, exec_loadRestore, State.byHost_reached _ _ _ hr, State.byHost_reached _ _ _ hr]
    exact ⟨fun h => ⟨congrArg _ (State.load_ready _ _ hctx h), congrArg _ (State.load_ready _ _ hctx h)⟩,
      fun h => ⟨congrArg _ (State.load_held _ _ hctx h), congrArg _ (State.load_held _ _ hctx h)⟩,
      fun h2 h3 => ⟨congrArg _ (State.load_rejected _ _ hctx h2 h3), congrArg _ (State.load_rejected _ _ hctx h2 h3)⟩⟩
  case finish =>
    intro x l u
    have hload := State.loadFinish_loading (cyc := cyc) (a := a) hst
    exact ⟨fun he => congrArg _ (hload.trans (if_pos he)),
      fun he hauto => congrArg _ (hload.trans ((if_neg (not_not_intro he)).trans (if_neg (Bool.eq_false_iff.mp hauto)))),
      fun he hauto => congrArg _ (hload.trans ((if_neg (not_not_intro he)).trans (if_pos hauto)))⟩
  case start =>
    intro u
    rw [exec_start, State.byHost_reached _ _ _ hr]
    exact ⟨fun hfirst hrest => congrArg _ (State.start_first hst rfl hfirst hrest),
      fun hlater => congrArg _ (State.start_later hst rfl hlater)⟩
  case tile =>
    obtain ⟨hsregs, hpal⟩ := t.start_keeps g c seed model cyc pen true
    exact ⟨rfl, rfl, rfl, rfl, hsregs, hpal⟩
  case ring =>
    rw [exec_penRingWrite, State.byHost_reached _ _ _ hr]
    rfl

end Sys2Proof.Machine
end

section
/-! SUPPORT. Snapshots and logs (R377, R381-R383, R386): what each message and event does once it is there. -/

namespace Sys2Proof.Machine

theorem exec_localCopyComplete (c : Fin 64) (a cyc : Nat) (s : State) :
    exec (.localCopyComplete c a cyc) s = .next (s.localCopyDone c a cyc) := rfl
theorem exec_snapBegin (s : State) : exec .snapBegin s = .next s.snapBegin := rfl
theorem exec_snapEnd (s : State) : exec .snapEnd s = .next s.snapEnd := rfl
theorem exec_snapAck (a cyc : Nat) (s : State) : exec (.snapAck a cyc) s = .next (s.snapAck a cyc) := rfl
theorem exec_log (s : State) : exec .log s = .next s.logIn := rfl
theorem exec_logack (s : State) : exec .logack s = .next s.logAck := rfl
theorem exec_mirrorLagTimer (a : Nat) (s : State) : exec (.mirrorLagTimer a) s = .next (s.mirrorLag a) := rfl

section
variable {s u : State} {x : Flit} {a cyc : Nat}

/-! The local copy. -/

section
variable {c k : Nat} {v : State} (hwriting : s.writing c = some k) (hv : v = (s.reach a).readRows c cyc)
include hwriting hv

theorem State.localCopyDone_torn
    (htorn : ((v.vslot c k).torn || (v.allMembers c).any fun q => (v.tile q.2).vrnTorn) = true) :
    s.localCopyDone c a cyc = ((v.freeRows c).setSlotState c k 0).count F.VRN_CNT_TORN.count 0x10 1 := by
  rw [State.localCopyDone, hwriting]
  simp only [← hv]
  exact if_pos htorn

theorem State.localCopyDone_whole
    (hwhole : ((v.vslot c k).torn || (v.allMembers c).any fun q => (v.tile q.2).vrnTorn) = false) :
    s.localCopyDone c a cyc = ((v.freeRows c).captureDies c (v.vslot c k).sec).2.copyLands c k a cyc (v.vslot c k).seq
      ((v.freeRows c).captureDies c (v.vslot c k).sec).1 := by
  rw [State.localCopyDone, hwriting]
  simp only [← hv]
  refine (if_neg (Bool.eq_false_iff.mp hwhole)).trans ?_
  generalize hp : (List.foldl _ _ _ : List (List Captured) × State) = p
  obtain rfl : (v.freeRows c).captureDies c (v.vslot c k).sec = p := hp
  generalize (v.freeRows c).captureDies c (v.vslot c k).sec = p
  obtain ⟨parts, w⟩ := p
  simp only
  unfold State.copyLands
  rfl

end

/-! The copies at a buddy. -/

/-- A copy that a sender begins takes the place of what it was sending. -/
def State.dropIn (u : State) (x : Flit) : State :=
  u.mapVctx x.cCtx fun v => { v with ins := v.ins.filter fun y => y.src != x.cOrigin }

section
variable (hpop : s.popCtrl 0x10 = some (x, u)) (hon : u.vrnOn x.cCtx = true) (hfill : (u.dropIn x).filling x.cCtx = false)
include hpop hon hfill

theorem State.snapBegin_image (himage : x.cA2 % 2 = 1) : s.snapBegin = (u.dropIn x).mapVctx x.cCtx fun v =>
    { v with ins := v.ins ++ [VrnIn.mk x.cOrigin x.cA0 5 true false false false false] } := by
  have hbit : (x.cA2 % 2 == 1) = true := by simp [himage]
  rw [State.snapBegin, hpop]
  refine (if_neg (by simp [hon])).trans ((if_neg (Bool.eq_false_iff.mp hfill)).trans ?_)
  simp only [hbit, if_true]
  rfl

theorem State.snapBegin_whole (hwhole : x.cA2 % 8 = 0) :
    s.snapBegin = ((u.dropIn x).beginSlot x.cCtx ((u.dropIn x).buddySlot x.cCtx none) x.cA0 false).mapVctx x.cCtx fun v =>
      { v with ins := v.ins ++ [VrnIn.mk x.cOrigin x.cA0 ((u.dropIn x).buddySlot x.cCtx none) false false false false false] } := by
  have himage : (x.cA2 % 2 == 1) = false := beq_false_of_ne (by omega)
  have hparity : (x.cA2 / 2 % 2 == 1) = false := beq_false_of_ne (by omega)
  have hdelta : (x.cA2 / 4 % 2 == 1) = false := beq_false_of_ne (by omega)
  rw [State.snapBegin, hpop]
  refine (if_neg (by simp [hon])).trans ((if_neg (Bool.eq_false_iff.mp hfill)).trans ?_)
  simp only [himage, hparity, hdelta, Bool.false_eq_true, if_false, Bool.false_and]
  rfl

end

section
variable {y : VrnIn} (hpop : s.popCtrl 0x11 = some (x, u))
  (hin : ((u.vctx x.cCtx).ins.find? fun y => y.src == x.cOrigin && y.seq == x.cA0) = some y)
include hpop hin

theorem State.snapEnd_held (hwhole : y.whole = false) :
    s.snapEnd = (((u.mapVctx x.cCtx fun v => { v with ins := v.ins.erase y }).holdCopy x.cCtx y).ctrl
      { op := 0x12, ctx := x.cCtx, a0 := y.seq, a2 := 0 } x.cOrigin) := by
  simp only [State.snapEnd, hpop, hin, hwhole, Bool.false_eq_true, if_false]

theorem State.snapEnd_asked (hwhole : y.whole = true) :
    s.snapEnd = (((u.mapVctx x.cCtx fun v => { v with ins := v.ins.erase y }).setSlotState x.cCtx y.slot 0).ctrl
      { op := 0x12, ctx := x.cCtx, a0 := y.seq, a2 := 1 } x.cOrigin) := by
  simp only [State.snapEnd, hpop, hin, hwhole, if_true]

end

section
variable {y : VrnCopy} (hpop : s.popCtrl 0x12 = some (x, u))
  (hcopy : (((u.reach a).vctx x.cCtx).copies.find? fun y => y.dest == x.cOrigin && y.seq == x.cA0 && y.queued && !y.failed) = some y)
include hpop hcopy

theorem State.snapAck_held (h : x.cA2 = 0) : s.snapAck a cyc = ((((u.reach a).mapVctx x.cCtx fun v => { v with
    copies := v.copies.filter fun z => z.id != y.id }).checkComplete x.cCtx y.seq).startCopies x.cCtx a cyc) := by
  simp only [State.snapAck, hpop, hcopy, h, if_true]

theorem State.snapAck_asked (h : x.cA2 ≠ 0) : s.snapAck a cyc = (((u.reach a).mapVctx x.cCtx fun v => { v with
    copies := updCopy y.id (fun z => { z with queued := false, delta := false, todo := z.full }) v.copies }).startCopies x.cCtx
      a cyc) := by
  simp only [State.snapAck, hpop, hcopy, h, if_false]

end

/-! The record logs. -/

section
variable (hpop : s.popCtrl 0x0E = some (x, u)) (hrole : u.fillRole x.cCtx x.cOrigin 2 = false)
include hpop hrole

theorem State.logIn_mirrors (hv : u.get F.RCV_PEERS.log_from_v = 1) (hfrom : u.get F.RCV_PEERS.log_from = x.cOrigin)
    (hstack : u.engState 3 5 ≠ 4) :
    s.logIn = (u.skbPut true x.cCtx (x.bytes 32 64 % 2 ^ 64) (x.bytes 32 64)).ctrl
      { op := 0x0F, ctx := x.cCtx, a0 := x.bytes 32 64 % 2 ^ 64 } x.cOrigin := by
  simp only [State.logIn, hpop, hrole, hv, hfrom, hstack, Bool.false_eq_true, if_false, decide_true, Bool.and_self, if_true]

theorem State.logIn_stale (h : u.get F.RCV_PEERS.log_from_v = 0 ∨ u.get F.RCV_PEERS.log_from ≠ x.cOrigin) :
    s.logIn = u.add F.RCV_CNT_STALE.count 1 := by
  have hother : ¬ (decide (u.get F.RCV_PEERS.log_from_v = 1) && decide (u.get F.RCV_PEERS.log_from = x.cOrigin)) = true := by
    rcases h with h | h
    · simp [h]
    · simp [h]
  simp only [State.logIn, hpop, hrole, Bool.false_eq_true, if_false]
  exact if_neg hother

end

theorem State.logAck_drops (hpop : s.popCtrl 0x0F = some (x, u)) : s.logAck = { u with vrn := { u.vrn with
    logs := u.vrn.logs.filter fun q => q.1 != x.cCtx || q.2.1 != x.cA0 } } := by
  rw [State.logAck, hpop]

@[simp] theorem State.reach_vrn (s : State) (m : Nat) : (s.reach m).vrn = s.vrn := rfl

section
variable {k n t : Nat} {r : State} (hr : r = s.reach a) (hlogs : r.vrn.logs = [(k, n, t)])
include hr hlogs

theorem State.mirrorLag_early (h : a < t + fcMs 10) : s.mirrorLag a = r := by
  have hlate : decide (t + fcMs 10 ≤ a) = false := decide_eq_false (by omega)
  unfold State.mirrorLag
  simp only [← hr, hlogs, List.filter_cons, List.filter_nil, hlate, List.map_cons, List.map_nil,
    Bool.false_eq_true, if_false, List.foldl_nil]
  rw [← hlogs]

theorem State.mirrorLag_late {v : Nat} {q : State} (h : t + fcMs 10 ≤ a)
    (hget : (({ r with vrn := { r.vrn with logs := [(k, n, a)] } } : State).count
      F.SKB_CNT_MLAG.count 0x13 1).skbGet false k n = (some v, q)) (hbuddy : q.get F.RCV_PEERS.log_buddy_v = 1) :
    s.mirrorLag a = q.ctrl { op := 0x0E, ctx := k, body := v } (q.get F.RCV_PEERS.log_buddy) := by
  have hlate : decide (t + fcMs 10 ≤ a) = true := decide_eq_true h
  unfold State.mirrorLag
  simp only [← hr, hlogs, List.filter_cons, List.filter_nil, hlate, List.map_cons, List.map_nil,
    if_true, List.foldl_cons, List.foldl_nil]
  rw [hget]
  exact if_pos hbuddy

end
end

end Sys2Proof.Machine
end

section
/-! The statement about snapshots and logs, settled. -/

namespace Sys2Proof.Machine

/-- Settles O47: each message by what it finds at the module that takes it. -/
theorem snapshotsAndLogs : Obligations.SnapshotsAndLogs := by
  intro s u x a cyc
  refine ⟨fun c k hwriting => ?copy, fun hpop hon => ?begins, fun y hpop hin => ?ends, fun y hpop hcopy => ?ack, fun hpop => ?log,
    fun hpop => congrArg _ (State.logAck_drops hpop), fun k n t hlogs => ?lag⟩
  case copy =>
    intro v y r torn
    rw [exec_localCopyComplete]
    exact ⟨fun h => congrArg Host.Outcome.next (State.localCopyDone_torn hwriting rfl h),
      fun h => congrArg Host.Outcome.next (State.localCopyDone_whole hwriting rfl h)⟩
  case begins =>
    intro r k hfill
    exact ⟨fun h => congrArg _ (State.snapBegin_image hpop hon hfill h),
      fun h => congrArg _ (State.snapBegin_whole hpop hon hfill h)⟩
  case ends =>
    intro r
    exact ⟨fun h => congrArg _ (State.snapEnd_held hpop hin h), fun h => congrArg _ (State.snapEnd_asked hpop hin h)⟩
  case ack =>
    exact ⟨fun h => congrArg _ (State.snapAck_held hpop hcopy h), fun h => congrArg _ (State.snapAck_asked hpop hcopy h)⟩
  case log =>
    intro v ack
    exact ⟨fun hrole hv hfrom hstack => congrArg _ (State.logIn_mirrors hpop hrole hv hfrom hstack),
      fun hrole h => congrArg _ (State.logIn_stale hpop hrole h)⟩
  case lag =>
    intro r w z
    have hlogs' : r.vrn.logs = [(k, n, t)] := by rw [State.reach_vrn, hlogs]
    exact ⟨fun h => congrArg _ (State.mirrorLag_early rfl hlogs' h),
      fun v q h hget hbuddy => congrArg _ (State.mirrorLag_late rfl hlogs' h hget hbuddy)⟩

end Sys2Proof.Machine
end

section
/-! SUPPORT. Recovery at a member (R373, R390, R396, R397, R399-R402): a command that is stale, one that is repeated, and what a
new one does. -/

namespace Sys2Proof.Machine

theorem exec_plan (a cyc : Nat) (s : State) : exec (.plan a cyc) s = .next (s.planIn a cyc) := rfl
theorem exec_rewire (s : State) : exec .rewire s = .next s.rewireIn := rfl
theorem exec_fill (a cyc : Nat) (s : State) : exec (.fill a cyc) s = .next (s.fillIn a cyc) := rfl
theorem exec_fillCommit (s : State) : exec .fillCommit s = .next s.fillCommit := rfl
theorem exec_resume (s : State) : exec .resume s = .next s.resumeIn := rfl
theorem exec_shrink (s : State) : exec .shrink s = .next s.shrinkIn := rfl
theorem exec_state (s : State) : exec .state s = .next s.stateIn := rfl
theorem exec_restoreComplete (c : Fin 64) (a cyc : Nat) (s : State) :
    exec (.restoreComplete c a cyc) s = .next (s.restoreComplete c a cyc) := rfl

/-! Commands (R373). -/

section
variable {s u : State} {x : Flit} {op : Nat} (act : State → Flit → State)

theorem State.onCommand_stale (hpop : s.popCtrl op = some (x, u)) (hon : u.rcvOn = true) (hold : x.cGen < u.gen) :
    s.onCommand op act = u.add F.RCV_CNT_STALE.count 1 := by
  simp only [State.onCommand, hpop, hon, Bool.not_true, Bool.false_eq_true, if_false, if_pos hold]

theorem State.onCommand_repeated {l : List Flit} (hpop : s.popCtrl op = some (x, u)) (hon : u.rcvOn = true)
    (hgen : u.gen ≤ x.cGen) (hkept : u.answersTo (cmdKey op x.cCtx) x.cGen = some l) :
    s.onCommand op act = l.foldl (fun s y => s.inject 0 y) u := by
  simp only [State.onCommand, hpop, hon, Bool.not_true, Bool.false_eq_true, if_false, if_neg (Nat.not_lt.mpr hgen), hkept]

theorem State.onCommand_new (h : s.NewCommand op x u) : s.onCommand op act = act (u.obeys op x) x := by
  obtain ⟨hpop, hon, hgen, hnone⟩ := h
  simp only [State.onCommand, hpop, hon, Bool.not_true, Bool.false_eq_true, if_false, if_neg (Nat.not_lt.mpr hgen), hnone]
  rfl

end

/-! What a new command does. -/

section
variable {s u w : State} {x : Flit} {a cyc : Nat}

/-- The module that takes a PLAN notes it. -/
def State.planned (w : State) (x : Flit) (a : Nat) : State := (w.reach a).mapRcv fun r => { r with
  plan := some (x.cA0, if x.cFlags % 2 = 1 then some (x.cSubject % 2 ^ 14) else none) }

section
variable (h : s.NewCommand 6 x u) (hw : w = (u.obeys 6 x).planned x a)
include h hw

/-- A spare restores only once its fill commits. -/
theorem State.planIn_later (hst : 4 ≤ w.rcvState) : s.planIn a cyc = w := by
  rw [State.planIn, State.onCommand_new _ h]
  subst hw
  exact if_pos hst

theorem State.planIn_restores (hst : w.rcvState < 4) {v : State} (hv : v = w.freeze (cmdKey 6 x.cCtx) x.cGen) :
    s.planIn a cyc = (v.protected.foldl (fun s c => s.ctxReset c a cyc false)
      ((v.put F.RCV_STATUS.state 2).mapRcv fun r => { r with restoring := v.protected })).restoredAll (cmdKey 6 x.cCtx) x.cGen := by
  rw [State.planIn, State.onCommand_new _ h]
  subst hv hw
  exact if_neg (Nat.not_le.mpr hst)

end

section
variable (h : s.NewCommand 7 x u) (hw : w = u.obeys 7 x)
include h hw

theorem State.rewireIn_spare (hspare : w.get F.RCV_CTL.spare = 1) (hnode : w.node = x.cA1 % 2 ^ 14) :
    s.rewireIn = (w.assume (x.cSubject % 2 ^ 14)).reply (cmdKey 7 x.cCtx) x.cGen { op := 0x08, gen := x.cGen } := by
  rw [State.rewireIn, State.onCommand_new _ h, ← hw]
  simp only [hspare, hnode, decide_true, Bool.and_self, if_true]

theorem State.rewireIn_neighbour (hother : w.get F.RCV_CTL.spare ≠ 1 ∨ w.node ≠ x.cA1 % 2 ^ 14) :
    s.rewireIn = (w.reroute (x.cA1 % 2 ^ 14)).reply (cmdKey 7 x.cCtx) x.cGen { op := 0x08, gen := x.cGen } := by
  have hcond : ¬ (decide (w.get F.RCV_CTL.spare = 1) && decide (w.node = x.cA1 % 2 ^ 14)) = true := by
    rcases hother with h | h
    · rw [decide_eq_false h, Bool.false_and]
      decide
    · rw [decide_eq_false h, Bool.and_false]
      decide
  rw [State.rewireIn, State.onCommand_new _ h, ← hw]
  simp only [if_neg hcond]

end

section
variable (h : s.NewCommand 9 x u) (hw : w = (u.obeys 9 x).reach a)
include h hw

/-- A FILL that names this module finds it assuming or filling. -/
theorem State.fillIn_spare (hnode : w.node = x.cSubject % 2 ^ 14) (hst : w.rcvState = 5 ∨ w.rcvState = 6) :
    s.fillIn a cyc = if w.vrnOn x.cCtx then w.fillSpare x else w.abandonFill x 2 := by
  have hcond : (decide (w.node = x.cSubject % 2 ^ 14) && (decide (w.rcvState = 5) || decide (w.rcvState = 6))) = true := by
    simp [hnode, hst]
  rw [State.fillIn, State.onCommand_new _ h, ← hw]
  exact if_pos hcond

/-- A FILL that names another module is served by this module's entries among the sources. -/
theorem State.fillIn_source (hnode : w.node ≠ x.cSubject % 2 ^ 14) {l : List (Nat × Nat × Nat)}
    (hmine : x.fillSources.filter (fun q => q.1 == w.node) = l) :
    s.fillIn a cyc = ((l.foldl (fun s q => match q.2.1 with
      | 1 => s.fillBuddy x (x.cSubject % 2 ^ 14)
      | 2 => s.fillLog x (x.cSubject % 2 ^ 14)
      | _ => s.fillParity x (x.cSubject % 2 ^ 14)) w).startCopies x.cCtx a cyc) := by
  have hcond : ¬ (decide (w.node = x.cSubject % 2 ^ 14) && (decide (w.rcvState = 5) || decide (w.rcvState = 6))) = true := by
    rw [decide_eq_false hnode, Bool.false_and]
    decide
  subst hmine
  rw [State.fillIn, State.onCommand_new _ h, ← hw]
  exact if_neg hcond

end

theorem State.resumeIn_new (h : s.NewCommand 0x0D x u) :
    s.resumeIn = (u.obeys 0x0D x).mapRcv fun r => { r with resume := some (x.cA1, x.cA0) } := by
  rw [State.resumeIn, State.onCommand_new _ h]

theorem State.shrinkIn_new (h : s.NewCommand 0x14 x u) :
    s.shrinkIn = ((u.obeys 0x14 x).mapRcv fun r => { r with shrunk := true }).freeze (cmdKey 0x14 x.cCtx) x.cGen := by
  rw [State.shrinkIn, State.onCommand_new _ h]

section
variable (hpop : s.popCtrl 0x13 = some (x, u)) (hon : u.rcvOn = true)
include hpop hon

theorem State.stateIn_stale (hold : x.cGen < u.gen) : s.stateIn = u.add F.RCV_CNT_STALE.count 1 := by
  simp only [State.stateIn, hpop, hon, Bool.not_true, Bool.false_eq_true, if_false, if_pos hold]

theorem State.stateIn_kept (hgen : u.gen ≤ x.cGen) :
    s.stateIn = (((u.put F.RCV_STATUS.gen x.cGen).mapRcv fun r => { r with
      parts := (r.parts.filter fun q => q.1 != x.cGen || (x.cA2 != 0 && q.2.1 != x.cA2)) ++ [(x.cGen, x.cA2, x)] }).adopt
        x.cGen) := by
  simp only [State.stateIn, hpop, hon, Bool.not_true, Bool.false_eq_true, if_false, if_neg (Nat.not_lt.mpr hgen)]

end

/-! The ends of a fill and of a restore. -/

/-- The flows of a fill of context `c` end with it. -/
def State.endFill (s : State) (c : Nat) : State :=
  (List.range (s.get (F.VRN_CTX_W2.nmf c))).foldl (fun (s : State) k =>
    let i := s.get (F.VRN_CTX_W2.mflow c) + k
    (s.setWord (w0Addr i) 0).setFlow i FlowSt.fresh) s

/-- The count of mirror flows stands apart from what a fill's commit has written. -/
theorem State.endFill_committed (s : State) (c : Nat) :
    ((s.add F.RCV_CNT_FILL.count 1).put F.RCV_STATUS.state 2).endFill c =
      (List.range (s.get (F.VRN_CTX_W2.nmf c))).foldl (fun (s : State) k =>
        let i := s.get (F.VRN_CTX_W2.mflow c) + k
        (s.setWord (w0Addr i) 0).setFlow i FlowSt.fresh) ((s.add F.RCV_CNT_FILL.count 1).put F.RCV_STATUS.state 2) := by
  have hnmf : ((s.add F.RCV_CNT_FILL.count 1).put F.RCV_STATUS.state 2).get (F.VRN_CTX_W2.nmf c) = s.get (F.VRN_CTX_W2.nmf c) :=
    (State.get_put_other _ _ _ _ (by simp only; omega)).trans (State.add_get _ _ _ _ (by simp only; omega))
  rw [State.endFill, hnmf]

theorem State.fillCommit_one {c n : Nat} {v w : State} (hst : s.rcvState = 6) (hfills : s.rcv.fills = [(c, n)])
    (hslot : (s.localSlot c n).isSome = true) (hins : (s.vctx c).ins = [])
    (hv : v = ((s.add F.RCV_CNT_FILL.count 1).put F.RCV_STATUS.state 2).endFill c)
    (hw : w = v.mapRcv fun r => { r with
      fills := [], restoring := [c], plan := some (n, (v.rcv.plan.bind (·.2)).orElse fun _ => some v.node) }) :
    s.fillCommit = (w.reply (cmdKey 9 c) w.gen { op := 0x0A, ctx := c, a0 := n, gen := w.gen }).createCtx c n := by
  have hready : ¬ (decide (s.rcvState ≠ 6) || s.rcv.fills.isEmpty ||
      !(s.rcv.fills.all fun q => (s.localSlot q.1 q.2).isSome && (s.vctx q.1).ins.isEmpty)) = true := by
    simp [hst, hfills, hslot, hins]
  subst hw hv
  rw [State.fillCommit]
  refine (if_neg hready).trans ?_
  simp only [hfills, List.head?_cons, Option.map_some, Option.getD_some, List.foldl_cons, List.foldl_nil, List.map_cons,
    List.map_nil]
  rfl

/-- Step 4 of a restore, for every die. -/
def State.restoreDies (s : State) (c k : Nat) (sec : Section) : State :=
  (List.range 4).foldl (fun s' d => s'.restoreBulk c d k (s.rcv.roles.any fun q => q.1 == c && q.2.2 == 3) sec) s

/-- Steps 8 and 9 of a restore, and the context's bind and replay span. -/
def State.resumeAfter (r : State) (c n : Nat) (lost : Option Nat) (sec : Section) : State :=
  let w := (r.restoreStip c n sec).resumeRecord c n lost
  let b := w.get F.TICK_CTX_BIND.bind
  (w.put F.TICK_CTX_BIND.bind (b - (b / 2 ^ c % 2) * 2 ^ c + ((sec.get? Sec.bound 0).getD 0) * 2 ^ c)).loadSpan c n

/-- A restored context starts on every die. -/
def State.startRestored (t : State) (c cyc a : Nat) : State :=
  (((List.range 4).foldl (fun s d => s.start d c cyc a) t).add F.RCV_CNT_RESTORE.count 1).mapRcv fun r => { r with
    restoring := r.restoring.erase c, roles := r.roles.filter fun q => q.1 != c }

section
variable {c n k : Nat} {lost : Option Nat} {r : State} {sec : Section} {l : State × Nat}
variable (hready : s.restoreReady c = true) (hplan : s.rcv.plan = some (n, lost)) (hslot : s.planSlot c = some k)
  (hr : r = s.reach a) (hsec : sec = (r.vslot c k).sec) (hl : l = r.restoreLoad c cyc sec)
include hready hplan hslot hr hsec hl

theorem State.restoreComplete_fails (he : l.2 ≠ 0) : s.restoreComplete c a cyc = l.1 := by
  have hgo : ¬ (!s.restoreReady c) = true := by simp [hready]
  subst hl hsec hr
  rw [State.restoreComplete, if_neg hgo, hplan, hslot]
  exact if_pos he

theorem State.restoreComplete_restores {z : State} (he : l.2 = 0)
    (hz : z = ((((l.1.restoreState c sec).restoreDies c k sec).resumeAfter c n lost sec).startRestored c cyc a)) :
    s.restoreComplete c a cyc = z.restoredAll (cmdKey 6 0) z.gen := by
  have hgo : ¬ (!s.restoreReady c) = true := by simp [hready]
  subst hz hl hsec hr
  rw [State.restoreComplete, if_neg hgo, hplan, hslot]
  exact if_neg (not_not_intro he)

end
end

end Sys2Proof.Machine
end

section
/-! The statement about the members, settled. -/

namespace Sys2Proof.Machine

/-- Settles O48: every command goes through one check of its generation and of the answers kept for it. -/
theorem membersObey : Obligations.MembersObey := by
  intro s u x a cyc
  refine ⟨fun op hpop hon hold => ?stale, fun op l hpop hon hgen hkept => ?again, fun h => ?plan, fun h => ?rewire, fun h => ?fill,
    fun h => congrArg Host.Outcome.next (State.resumeIn_new h), fun h => congrArg Host.Outcome.next (State.shrinkIn_new h),
    fun c n hst hfills hslot hins => ?commit, fun c n k lost hready hplan hslot => ?restore,
    fun hpop hon hgen => congrArg Host.Outcome.next (State.stateIn_kept hpop hon hgen)⟩
  case stale =>
    intro stale
    refine ⟨fun hop => ?_, fun hop => ?_, fun hop => ?_, fun hop => ?_, fun hop => ?_,
      fun hop => congrArg Host.Outcome.next (State.stateIn_stale (hop ▸ hpop) hon hold)⟩
    all_goals
      subst hop
      exact congrArg Host.Outcome.next (State.onCommand_stale _ hpop hon hold)
  case again =>
    intro again
    refine ⟨fun hop => ?_, fun hop => ?_, fun hop => ?_, fun hop => ?_, fun hop => ?_⟩
    all_goals
      subst hop
      exact congrArg Host.Outcome.next (State.onCommand_repeated _ hpop hon hgen hkept)
  case plan =>
    intro key w v l
    exact ⟨fun hst => congrArg Host.Outcome.next (State.planIn_later h rfl hst),
      fun hst => congrArg Host.Outcome.next (State.planIn_restores h rfl hst rfl)⟩
  case rewire =>
    intro w rewired
    exact ⟨fun hspare hnode => congrArg Host.Outcome.next (State.rewireIn_spare h rfl hspare hnode),
      fun hother => congrArg Host.Outcome.next (State.rewireIn_neighbour h rfl hother)⟩
  case fill =>
    intro w
    refine ⟨fun hnode hst hon => congrArg Host.Outcome.next ((State.fillIn_spare h rfl hnode hst).trans (if_pos hon)),
      fun hnode hst hoff => congrArg Host.Outcome.next ((State.fillIn_spare h rfl hnode hst).trans (if_neg (Bool.eq_false_iff.mp hoff))),
      fun hnode hmine => congrArg Host.Outcome.next (State.fillIn_source h rfl hnode hmine),
      fun n role j hnode hmine => ?_⟩
    have hsource := State.fillIn_source (cyc := cyc) h rfl hnode hmine
    refine ⟨fun hrole => ?_, fun hrole => ?_, fun hrole => ?_⟩
    all_goals
      subst hrole
      simp only [List.foldl_cons, List.foldl_nil] at hsource
      exact congrArg Host.Outcome.next hsource
  case commit =>
    intro v w hwf
    exact congrArg Host.Outcome.next (State.fillCommit_one hst hfills hslot hins (s.endFill_committed c).symm rfl)
  case restore =>
    intro sec l
    exact ⟨fun he => congrArg Host.Outcome.next (State.restoreComplete_fails hready hplan hslot rfl rfl rfl he),
      fun he => congrArg Host.Outcome.next (State.restoreComplete_restores hready hplan hslot rfl rfl rfl he rfl)⟩

end Sys2Proof.Machine
end

section
/-! SUPPORT. Recovery at the coordinator (R387, R388, R393, R395, R398, R402): the choice of S, the detection of losses, the
members' answers, and the timeouts. -/

namespace Sys2Proof.Machine

theorem exec_ctrlHeartbeatTimer (a : Nat) (s : State) : exec (.ctrlHeartbeatTimer a) s = .next (s.heartbeatTimer a) := rfl
theorem exec_ctrlHeartbeat (a : Nat) (s : State) : exec (.ctrlHeartbeat a) s = .next (s.heartbeatIn a) := rfl
theorem exec_heartbeatMiss (n : BitVec 14) (a : Nat) (s : State) :
    exec (.heartbeatMiss n a) s = .next (s.heartbeatMiss n.toNat a) := rfl
theorem exec_fail (a : Nat) (s : State) : exec (.fail a) s = .next (s.failIn a) := rfl
theorem exec_linkdown (a : Nat) (s : State) : exec (.linkdown a) s = .next (s.linkdownIn a) := rfl
theorem exec_confirmWindowExpiry (n : BitVec 14) (a : Nat) (s : State) :
    exec (.confirmWindowExpiry n a) s = .next (s.confirmExpiry n.toNat a) := rfl
theorem exec_event (a : Nat) (s : State) : exec (.event a) s = .next (s.eventIn a) := rfl
theorem exec_snapinfo (a : Nat) (s : State) : exec (.snapinfo a) s = .next (s.snapInfoIn a) := rfl
theorem exec_rewired (a : Nat) (s : State) : exec (.rewired a) s = .next (s.rewiredIn a) := rfl
theorem exec_filled (a : Nat) (s : State) : exec (.filled a) s = .next (s.filledIn a) := rfl
theorem exec_abandon (a : Nat) (s : State) : exec (.abandon a) s = .next (s.abandonIn a) := rfl
theorem exec_restored (a : Nat) (s : State) : exec (.restored a) s = .next (s.restoredIn a) := rfl
theorem exec_resumeTick (a : Nat) (s : State) : exec (.resumeTick a) s = .next (s.resumeEmit a) := rfl
theorem exec_rewireTimeout (a : Nat) (s : State) : exec (.rewireTimeout a) s = .next (s.rewireTimeout a) := rfl
theorem exec_fillTimeout (a : Nat) (s : State) : exec (.fillTimeout a) s = .next (s.fillTimeout a) := rfl
theorem exec_restoreTimeout (a : Nat) (s : State) : exec (.restoreTimeout a) s = .next (s.restoreTimeout a) := rfl
theorem exec_retry (a : Nat) (s : State) :
    exec (.retry a) s = .next (s.byHost F.RCV_CMD.retry.addr fun s => s.retry a) := rfl
theorem exec_abort (a : Nat) (s : State) :
    exec (.abort a) s = .next (s.byHost F.RCV_CMD.retry.addr fun s => s.abort a) := rfl
theorem exec_shrinkDone (a : Nat) (s : State) :
    exec (.shrinkDone a) s = .next (s.byHost F.RCV_CMD.retry.addr fun s => s.shrinkDone a) := rfl

/-! The choice of S (R395). -/

/-- The greatest number of a list and of the one found so far. -/
def greater (b : Option Nat) (n : Nat) : Option Nat := match b with
  | none => some n
  | some m => some (max m n)

/-- The greatest of a list is one of its numbers and no number of it is greater. -/
theorem foldl_greater {l : List Nat} {b : Option Nat} {n : Nat} (h : l.foldl greater b = some n) :
    (n ∈ l ∨ b = some n) ∧ (∀ m ∈ l, m ≤ n) ∧ ∀ m, b = some m → m ≤ n := by
  induction l generalizing b with
  | nil => exact ⟨.inr h, by simp, fun m hm => by rw [List.foldl_nil, hm] at h; exact (Option.some.inj h).le⟩
  | cons x l ih =>
    obtain ⟨hmem, hle, hb⟩ := ih (b := greater b x) h
    cases b with
    | none =>
      have hx : x ≤ n := hb x rfl
      refine ⟨.inl ?_, fun m hm => ?_, fun m hm => nomatch hm⟩
      · rcases hmem with hmem | hmem
        · exact List.mem_cons_of_mem x hmem
        · exact (Option.some.inj hmem) ▸ List.mem_cons_self
      · rcases List.mem_cons.mp hm with rfl | hm
        · exact hx
        · exact hle m hm
    | some k =>
      have hmax : max k x ≤ n := hb (max k x) rfl
      refine ⟨?_, fun m hm => ?_, fun m hm => ?_⟩
      · rcases hmem with hmem | hmem
        · exact .inl (List.mem_cons_of_mem x hmem)
        · have hn : max k x = n := Option.some.inj hmem
          rcases Nat.le_total k x with hkx | hxk
          · rw [Nat.max_eq_right hkx] at hn
            exact .inl (hn ▸ List.mem_cons_self)
          · rw [Nat.max_eq_left hxk] at hn
            exact .inr (congrArg some hn)
      · rcases List.mem_cons.mp hm with rfl | hm
        · exact (Nat.le_max_right k m).trans hmax
        · exact hle m hm
      · rw [← Option.some.inj hm]
        exact (Nat.le_max_left k x).trans hmax

section
variable {s u : State} {x : Flit} {a : Nat}

theorem State.chooseS_eq (s : State) :
    s.chooseS = ((s.rcv.infos.flatMap fun x => x.loc.toList ++ x.complete.toList).filter s.stepOk).foldl greater none := by
  unfold State.chooseS
  congr 1

theorem SnapInfo.has_iff (y : SnapInfo) (n : Nat) : y.has n = true ↔ n ∈ y.loc.toList ++ y.complete.toList := by
  simp [SnapInfo.has]

theorem State.chooseS_greatest {n : Nat} (h : s.chooseS = some n) : s.stepOk n = true ∧ (∃ y ∈ s.rcv.infos, y.has n = true) ∧
    ∀ y ∈ s.rcv.infos, ∀ m : Nat, y.has m = true → s.stepOk m = true → m ≤ n := by
  rw [State.chooseS_eq] at h
  obtain ⟨hmem | hnone, hle, -⟩ := foldl_greater h
  · obtain ⟨hstep, hok⟩ := List.mem_filter.mp hmem
    obtain ⟨y, hy, hn⟩ := List.mem_flatMap.mp hstep
    refine ⟨hok, ⟨y, hy, (y.has_iff n).mpr hn⟩, fun z hz m hm hmok => hle m ?_⟩
    exact List.mem_filter.mpr ⟨List.mem_flatMap.mpr ⟨z, hz, (z.has_iff m).mp hm⟩, hmok⟩
  · exact nomatch hnone

/-! Detection (R387, R388). -/

theorem State.heartbeatTimer_due (hon : s.rcvOn = true) (h : s.rcv.beat + s.hbFc ≤ a) {v : State}
    (hv : v = (s.reach a).mapRcv fun r => { r with beat := a }) :
    s.heartbeatTimer a = v.toCoords { op := 0x01, a0 := v.get F.TICK_NUMBER.number, gen := v.gen } := by
  have hdue : ¬ (!s.rcvOn || decide (a < s.rcv.beat + s.hbFc)) = true := by simp [hon, h]
  have hnumber : v.get F.TICK_NUMBER.number = s.get F.TICK_NUMBER.number := by
    rw [hv]
    exact s.reach_low a (by decide)
  have hgen : v.gen = s.gen := by
    rw [hv]
    exact s.reach_low a (by decide)
  rw [State.heartbeatTimer, if_neg hdue, hnumber, hgen, hv]

theorem State.heartbeatIn_heard (hpop : s.popCtrl 0x01 = some (x, u)) (h : x.cOrigin ∉ u.rcv.gone) :
    s.heartbeatIn a = u.mapRcv fun r => { r with heard := (r.heard.filter fun q => q.1 != x.cOrigin) ++ [(x.cOrigin, a, 0)] } := by
  rw [State.heartbeatIn, hpop]
  exact if_neg (by simpa using h)

theorem State.heartbeatMiss_counts {n t m : Nat} (hon : s.coordOn = true)
    (hheard : (s.rcv.heard.find? fun q => q.1 == n) = some (n, t, m)) (h : t + (m + 1) * s.hbFc ≤ a) {v : State}
    (hv : v = ((s.reach a).add F.RCV_CNT_HBMISS.count 1).mapRcv fun r => { r with
      heard := r.heard.map fun q => if q.1 = n then (n, t, m + 1) else q }) :
    s.heartbeatMiss n a = if v.get F.RCV_PLAN.hb_lim ≤ m + 1 then v.declareLost n a else v := by
  have hgo : ¬ (!s.coordOn) = true := by simp [hon]
  subst hv
  rw [State.heartbeatMiss, if_neg hgo, hheard]
  exact if_neg (Nat.not_lt.mpr h)

theorem State.failIn_taken (hpop : s.popCtrl 0x02 = some (x, u)) :
    s.failIn a = if u.coordOn then u.declareLost x.cOrigin a else u := by
  rw [State.failIn, hpop]

/-- A LINKDOWN report is noted, and counts towards a loss within the confirmation's window. -/
theorem State.linkdownIn_noted (hpop : s.popCtrl 0x03 = some (x, u)) (hon : u.coordOn = true) {n : Nat} {v : State}
    (hn : n = x.cSubject % 2 ^ 14) (hv : v = (u.reach a).mapRcv fun r => { r with links := r.links ++ [(n, x.cOrigin, a)] }) :
    s.linkdownIn a = if v.rcv.gone.contains n then v
      else if ((v.rcv.links.filter fun q => q.1 == n).head?.map fun q => q.2.2).getD a + fcMs (v.get F.RCV_PLAN.confirm_ms) < a then v
      else if v.get F.RCV_PLAN.confirm ≤ (v.neighbours n).length then v.declareLost n a else v := by
  subst hv hn
  rw [State.linkdownIn, hpop]
  exact if_neg (by simp [hon])

theorem State.confirmExpiry_over {n : Nat} {q : Nat × Nat × Nat} {l : List (Nat × Nat × Nat)}
    (hlinks : (s.rcv.links.filter fun q => q.1 == n) = q :: l) (hon : s.coordOn = true) (hgone : n ∉ s.rcv.gone)
    (h : q.2.2 + fcMs (s.get F.RCV_PLAN.confirm_ms) ≤ a) :
    s.confirmExpiry n a = (((s.reach a).add F.RCV_CNT_LINK.count (l.length + 1)).rcvEvent 2 n).mapRcv fun r =>
      { r with links := r.links.filter fun q => q.1 != n } := by
  have hgo : ¬ (!s.coordOn || s.rcv.gone.contains n || decide (a < q.2.2 + fcMs (s.get F.RCV_PLAN.confirm_ms))) = true := by
    simp [hon, hgone, h]
  rw [State.confirmExpiry, hlinks]
  exact if_neg hgo

theorem State.eventIn_noted (hpop : s.popCtrl 0x04 = some (x, u)) (hon : u.coordOn = true) :
    s.eventIn a = if (u.rcvEvent (x.cA2 % 16) x.cOrigin).cstate = 1 then (u.rcvEvent (x.cA2 % 16) x.cOrigin).enterDecide a
      else u.rcvEvent (x.cA2 % 16) x.cOrigin := by
  rw [State.eventIn, hpop]
  exact if_neg (by simp [hon])

/-! Answers (R393, R402). -/

theorem State.snapInfoIn_taken (hpop : s.popCtrl 0x05 = some (x, u)) :
    s.snapInfoIn a = if (u.addInfo x.snapInfo).coordOn then (u.addInfo x.snapInfo).decideNow a else u.addInfo x.snapInfo := by
  rw [State.snapInfoIn, hpop]

section
variable {n : Nat} {v : State} (hpop : s.popCtrl 0x08 = some (x, u)) (hgen : x.cGen = u.gen)
  (hv : v = u.mapRcv fun r => { r with rewired := (r.rewired ++ [x.cOrigin]).eraseDups })
  (hlost : v.rcv.lost = some n) (hon : v.coordOn = true) (hst : v.cstate = 3)
include hpop hgen hv hlost hon hst

theorem State.rewiredIn_all (h : ∀ m ∈ n :: v.rcv.neigh, m ∈ v.rcv.rewired) : s.rewiredIn a = (v.enterC 4 a).sendFills := by
  have hall : (v.coordOn && decide (v.cstate = 3) && (n :: v.rcv.neigh).all v.rcv.rewired.contains) = true := by
    rw [hon, hst, List.all_eq_true.mpr fun m hm => List.contains_iff_mem.mpr (h m hm)]
    rfl
  rw [State.rewiredIn, hpop]
  refine (if_neg (not_not_intro hgen)).trans ?_
  simp only [← hv, hlost]
  exact if_pos hall

omit hon hst in
theorem State.rewiredIn_some {m : Nat} (hm : m ∈ n :: v.rcv.neigh) (hout : m ∉ v.rcv.rewired) : s.rewiredIn a = v := by
  have hnot : ¬ (v.coordOn && decide (v.cstate = 3) && (n :: v.rcv.neigh).all v.rcv.rewired.contains) = true := by
    rw [Bool.and_eq_true]
    rintro ⟨-, hall⟩
    exact hout (List.contains_iff_mem.mp (List.all_eq_true.mp hall m hm))
  rw [State.rewiredIn, hpop]
  refine (if_neg (not_not_intro hgen)).trans ?_
  simp only [← hv, hlost]
  exact if_neg hnot

end

/-- The replaced module is a member again. -/
theorem State.filledIn_replaced (hpop : s.popCtrl 0x0A = some (x, u)) (hgen : x.cGen = u.gen) (hon : u.coordOn = true)
    (hst : u.cstate = 4) (hlost : u.rcv.lost = some x.cOrigin) {v : State}
    (hv : v = (u.jobCtxs.foldl (fun s c => s.addInfo ⟨x.cOrigin, c, some x.cA0, none, []⟩) u).mapRcv fun r => { r with
      gone := r.gone.erase x.cOrigin, lost := none, spare := none,
      heard := (r.heard.filter fun q => q.1 != x.cOrigin) ++ [(x.cOrigin, a, 0)] }) :
    s.filledIn a = if !v.rcv.queue.isEmpty && v.spareNow.isSome then v.enterDecide a else (v.enterC 5 a).tryResume a := by
  have hgo : ¬ (!u.coordOn || decide (u.cstate ≠ 4) || decide (x.cOrigin ≠ x.cOrigin)) = true := by simp [hon, hst]
  subst hv
  rw [State.filledIn, hpop]
  refine (if_neg (not_not_intro hgen)).trans ?_
  rw [hlost]
  exact if_neg hgo

theorem State.abandonIn_spare (hpop : s.popCtrl 0x0B = some (x, u)) (hon : u.coordOn = true) (hst : u.cstate = 4)
    (hgen : x.cGen = u.gen) (hlost : u.dropFill.rcv.lost = some x.cOrigin) :
    s.abandonIn a = u.dropFill.failSpare.enterDecide a := by
  have hgo : ¬ (!u.coordOn || decide (u.cstate ≠ 4) || decide (x.cGen ≠ u.gen)) = true := by simp [hon, hst, hgen]
  rw [State.abandonIn, hpop]
  refine (if_neg hgo).trans ?_
  simp only [if_pos hlost]

theorem State.restoredIn_taken (hpop : s.popCtrl 0x0C = some (x, u)) (hgen : x.cGen = u.gen) {v : State}
    (hv : v = u.mapRcv fun r => { r with restored := (r.restored ++ [x.cOrigin]).eraseDups }) :
    s.restoredIn a = if v.coordOn then v.tryResume a else v := by
  subst hv
  rw [State.restoredIn, hpop]
  exact if_neg (not_not_intro hgen)

theorem State.resumeEmit_due {t : Nat} (hat : s.rcv.resumeAt = some t) (hon : s.coordOn = true) (h : t ≤ a) :
    s.resumeEmit a = ((((s.reach a).mapRcv fun r => { r with resumeAt := none }).put F.TICK_NEXT.next s.rcv.number).emitTick a) := by
  rw [State.resumeEmit, hat]
  exact if_neg (by simp [hon, h])

/-! Timeouts and the host (R393). -/

section
variable (hon : s.coordOn = true)
include hon

theorem State.rewireTimeout_due (hst : s.cstate = 3) (h : s.rcv.since + fcMs (s.get F.RCV_PLAN.rewire_ms) ≤ a) :
    s.rewireTimeout a = (s.reach a).failSpare.enterDecide a := if_neg (by simp [hon, hst, h])

theorem State.fillTimeout_due (hst : s.cstate = 4) (h : s.rcv.since + fcMs (10 * s.get F.RCV_PLAN.fill_10ms) ≤ a) :
    s.fillTimeout a = (s.reach a).dropFill.failSpare.enterDecide a := if_neg (by simp [hon, hst, h])

theorem State.restoreTimeout_due (hst : s.cstate = 5) (h : s.rcv.since + fcMs (10 * s.get F.RCV_PLAN.restore_10ms) ≤ a) :
    s.restoreTimeout a = (s.reach a).enterDecide a := if_neg (by simp [hon, hst, h])

theorem State.retry_host (hst : s.cstate = 7) : s.retry a = (s.reach a).enterDecide a := if_pos (by simp [hon, hst])

theorem State.abort_host (hst : s.cstate = 7) : s.abort a = ((((s.reach a).stopEmission).mapRcv fun r => { r with
    lost := none, queue := [], restored := [], links := [] }).enterC 1 a) := if_pos (by simp [hon, hst])

theorem State.shrinkDone_shrinking (hst : s.cstate = 6) : s.shrinkDone a = ((((s.reach a).mapRcv fun r => { r with
    lost := none, restored := [] }).enterC 5 a).sendPlan) := if_pos (by simp [hon, hst])

end
end

end Sys2Proof.Machine
end

section
/-! The statement about the coordinator, settled. -/

namespace Sys2Proof.Machine

/-- Settles O49: each message and each timeout at the state of the coordinator that acts on it. -/
theorem coordination : Obligations.Coordination := by
  intro s u x a
  refine ⟨fun n h => State.chooseS_greatest h, fun hon h => congrArg Host.Outcome.next (State.heartbeatTimer_due hon h rfl),
    fun hpop h => congrArg Host.Outcome.next (State.heartbeatIn_heard hpop h), fun n t m hon hheard h => ?miss,
    fun hpop => ?fail, fun hpop hon => ?linkdown,
    fun n q l hlinks hon hgone h => congrArg Host.Outcome.next (State.confirmExpiry_over hlinks hon hgone h),
    fun hpop hon => ?event, fun hpop => ?snapinfo, fun hpop hgen => ?rewired, fun hpop hgen hon hst hlost => ?filled,
    fun hpop hon hst hgen hlost => congrArg Host.Outcome.next (State.abandonIn_spare hpop hon hst hgen hlost),
    fun hpop hgen => ?restored, fun t hat hon h => congrArg Host.Outcome.next (State.resumeEmit_due hat hon h),
    fun hon hst h => congrArg Host.Outcome.next (State.rewireTimeout_due hon hst h),
    fun hon hst h => congrArg Host.Outcome.next (State.fillTimeout_due hon hst h),
    fun hon hst h => congrArg Host.Outcome.next (State.restoreTimeout_due hon hst h), fun hr hon => ?host⟩
  case miss =>
    intro v
    have hmiss := State.heartbeatMiss_counts hon hheard h (v := v) rfl
    exact ⟨fun hlim => congrArg Host.Outcome.next (hmiss.trans (if_neg (Nat.not_le.mpr hlim))),
      fun hlim => congrArg Host.Outcome.next (hmiss.trans (if_pos hlim))⟩
  case fail =>
    have hfail := State.failIn_taken (a := a) hpop
    exact ⟨fun h => congrArg Host.Outcome.next (hfail.trans (if_pos h)),
      fun h => congrArg Host.Outcome.next (hfail.trans (if_neg (Bool.eq_false_iff.mp h)))⟩
  case linkdown =>
    intro n v first
    have hdown := State.linkdownIn_noted (a := a) hpop hon (n := n) (v := v) rfl rfl
    have hin (h : n ∉ v.rcv.gone) : ¬ v.rcv.gone.contains n = true := fun hc => h (List.contains_iff_mem.mp hc)
    refine ⟨fun hgone => congrArg Host.Outcome.next (hdown.trans (if_pos (List.contains_iff_mem.mpr hgone))),
      fun hgone hwin hconf => congrArg Host.Outcome.next (hdown.trans ((if_neg (hin hgone)).trans
        ((if_neg (Nat.not_lt.mpr hwin)).trans (if_pos hconf)))), fun hgone hfew => congrArg Host.Outcome.next ?_⟩
    rw [hdown, if_neg (hin hgone), if_neg (Nat.not_le.mpr hfew), ite_self]
  case event =>
    intro v
    have hevent := State.eventIn_noted (a := a) hpop hon
    exact ⟨fun h => congrArg Host.Outcome.next (hevent.trans (if_pos h)),
      fun h => congrArg Host.Outcome.next (hevent.trans (if_neg h))⟩
  case snapinfo =>
    intro v
    have hinfo := State.snapInfoIn_taken (a := a) hpop
    exact ⟨fun h => congrArg Host.Outcome.next (hinfo.trans (if_pos h)),
      fun h => congrArg Host.Outcome.next (hinfo.trans (if_neg (Bool.eq_false_iff.mp h)))⟩
  case rewired =>
    intro v n hlost hon hst
    exact ⟨fun h => congrArg Host.Outcome.next (State.rewiredIn_all hpop hgen rfl hlost hon hst h),
      fun m hm hout => congrArg Host.Outcome.next (State.rewiredIn_some hpop hgen rfl hlost hm hout)⟩
  case filled =>
    intro n v
    have hfilled := State.filledIn_replaced (a := a) hpop hgen hon hst hlost (v := v) rfl
    refine ⟨fun hq => congrArg Host.Outcome.next (hfilled.trans (if_neg ?_)),
      fun hq hspare => congrArg Host.Outcome.next (hfilled.trans (if_pos ?_))⟩
    · rw [hq, List.isEmpty_nil, Bool.not_true, Bool.false_and]
      exact Bool.false_ne_true
    · rw [hspare, Bool.and_true, Bool.not_eq_true', List.isEmpty_eq_false_iff]
      exact hq
  case restored =>
    intro v
    have hdone := State.restoredIn_taken (a := a) hpop hgen (v := v) rfl
    exact ⟨fun h => congrArg Host.Outcome.next (hdone.trans (if_pos h)),
      fun h => congrArg Host.Outcome.next (hdone.trans (if_neg (Bool.eq_false_iff.mp h)))⟩
  case host =>
    rw [exec_retry, exec_abort, exec_shrinkDone, State.byHost_reached _ _ _ hr, State.byHost_reached _ _ _ hr,
      State.byHost_reached _ _ _ hr]
    exact ⟨fun hst => congrArg _ (State.retry_host hon hst), fun hst => congrArg _ (State.abort_host hon hst),
      fun hst => congrArg _ (State.shrinkDone_shrinking hon hst)⟩

end Sys2Proof.Machine
end
